-- ==== Sys2Proof/Word.lean ====
section
/-! DEFINITION. The word types of the PT3208 model and its association table. -/

namespace Sys2Proof

/-- One byte. -/
abbrev Byte := BitVec 8

/-- One BAR 0 register (scope chapter, *Registers*: all registers are 32 bits wide). -/
abbrev W32 := BitVec 32

/-- A finite table: each key at most once; a key not listed has the default its reader names. -/
abbrev Tab (κ α : Type) := List (κ × α)

end Sys2Proof
end

