-- ==== Sys2Proof/Syntax.lean ====
section
/-! DEFINITION. The commands of the block: one constructor per row of spec/opcode_table.json, with the
operands the spec gives the row. Data that the device reads from host memory, from a ball or from its own
analogue front end is an operand; `none` for host data stands for a read that fails as a bus error (R338). -/

namespace Sys2Proof

/-- The register blocks of R39 and the sub-instances of R565. `win` is a VF's own window block (R368). -/
inductive Blk where
  | sys | pci | que | nq | qp | drf | chk | ck | stk | gen | cox | cx | mon | ch | mgt | bias
  | pwr | thm | sec | anc | tst | split | ln | loom | bm | bmw | sh | win | msix
  deriving DecidableEq, Repr

/-- A register: its block, the instance of the block (R565) and the offset within it (R564). -/
structure RegId where
  blk  : Blk
  inst : Nat
  off  : Nat
  deriving DecidableEq, Repr

/-- What a begun command keeps of its descriptor (R348, R349): its queue pair, identifier, flags and RES_ADDR. -/
structure Hdr where
  qp       : Nat
  cid      : Nat
  replace  : Bool
  suppress : Bool
  irq      : Bool
  ts       : Bool
  resAddr  : Nat
  deriving DecidableEq, Repr, Inhabited

/-- A frame as a MAC receives it: the bytes from the destination address up to the FCS, whether the FCS is
right, how many of the port's latest codewords it overlapped, and its stamp (R27, R49, R125). -/
structure RxFrame where
  bytes    : List Byte
  fcsOk    : Bool
  cws      : Nat
  stamp    : Nat
  deriving DecidableEq, Repr

/-- What the self-test of a block measured (R504): each slice's code less the expected one for each reference level, in LSB;
the PRBS31 symbols compared over the near-end loopback, their bit errors after detection and the merit; and whether the
logic and memory BIST report a fault. -/
structure BlkTest where
  codes   : List (List Int) := []
  symbols : Nat := 0
  errors  : Nat := 0
  merit   : Nat := 0
  fault   : Bool := false
  deriving DecidableEq, Repr

/-- What a measurement during self-test found (R499, R503): VDD_CORE in mV, the clock furthest from nominal and its deviation in
0.01 %, and what the blocks' tests had measured until then. -/
structure BistMeas where
  mv    : Nat
  worst : Nat
  dev   : Int
  res   : List (Nat × BlkTest)
  deriving DecidableEq, Repr

/-- The shuttle that executes an instruction, and whether a word of P, X or Y that the instruction reads has a parity error (R333). -/
structure ShAt where
  sh  : Nat
  par : Bool := false
  deriving DecidableEq, Repr

/-- What a burst reads from outside beam: the bytes of host memory, and whether a word of shuttle memory has a parity error (R397). -/
structure BurstRead where
  host : List Byte
  par  : Bool := false
  deriving DecidableEq, Repr

/-- A crew frame as it arrives: its bytes, and whether it contains a code error (R164). -/
structure CrewRx where
  bytes : List Byte
  err   : Bool := false
  deriving DecidableEq, Repr

/-- A lane whose transmitter is at a superframe boundary, and the superframes sent since its last start marker (R133, R142). -/
structure LineAt where
  lane : Nat
  sf   : Nat
  deriving DecidableEq, Repr

/-- What the loops of a receiver have found: the frequency offset and the sampling phase, 1/256 of a symbol (R71), and the offset
that DC restore removes (R82). -/
structure Loops where
  freq  : Int
  dc    : Int
  phase : Int
  deriving DecidableEq, Repr

/-- The samples of a training, the place of the first in its sequence or superframe, that of the next symbol after them, and
their RMS, 0.001 dBFS (R70, R73, R74). -/
structure TrainRx where
  pos  : Nat
  rx   : List Int
  next : Nat
  rms  : Int
  deriving DecidableEq, Repr

/-- A receiver's correlations with -S at both places of a superframe boundary (R143). -/
structure IdleCorr where
  lane : Nat
  c1   : Int
  c2   : Int
  deriving DecidableEq, Repr

/-- The place of a peak with the sampling phase that its position gives, 1/256 of a symbol, for how many symbols the input had been
below 20 mV before it, and the 256 samples of the repeat that it ends (R144, R148). -/
structure PeakAt where
  at_   : Nat
  phase : Int
  quiet : Nat
  rx    : List Int
  deriving DecidableEq, Repr

/-- A correlation with S: its place and size, and the codeword pair at which the transmitter had paused (R143, R144). -/
structure StartMark where
  at_  : Nat
  corr : Int
  pair : Nat
  deriving DecidableEq, Repr

/-- What a cox receiver has measured over a merit window: half the eye opening and the RMS slicer error, in one unit (R159). -/
structure CoxEye where
  h     : Nat
  sigma : Nat
  deriving DecidableEq, Repr

/-- The multiply-accumulate operations of R301. -/
inductive MacOp where
  | mac | msu | mpy | macr
  deriving DecidableEq, Repr

/-- The pointer updates of R307. -/
inductive Upd where
  | none | inc | dec | step
  deriving DecidableEq, Repr

/-- A parallel transfer (R309): load or store of a D register through pointer `ptr` of its own memory. -/
structure PXfer where
  store : Bool
  d     : Nat
  ptr   : Nat
  upd   : Upd
  deriving DecidableEq, Repr

/-- An ALU operand: an accumulator or a data register (R308). -/
inductive AD where
  | acc (n : Nat) | dat (n : Nat)
  deriving DecidableEq, Repr

/-- The ALU-class instructions of R308. -/
inductive AluOp where
  | add | sub | cmp | and | or | xor | neg | abs | clr | asl | asr | rnd
  deriving DecidableEq, Repr

/-- The program-visible registers of R306. -/
inductive SReg where
  | a (n : Nat) | d (n : Nat) | px (n : Nat) | py (n : Nat) | sx (n : Nat) | sy (n : Nat)
  | bx (n : Nat) | by_ (n : Nat) | lx (n : Nat) | ly (n : Nat) | mr | sr | ev | tmr | sc (k : Nat)
  | mba | mbb | lc (n : Nat) | lv | sid
  deriving DecidableEq, Repr

/-- The transfer-class instructions of R308. -/
inductive XferOp where
  | move (dst src : SReg) (round : Bool)
  | imm (dst : SReg) (v : Nat)
  | load (y : Bool) (dst : SReg) (ptr : Nat) (upd : Upd)
  | store (y : Bool) (src : SReg) (ptr : Nat) (upd : Upd) (round : Bool)
  deriving DecidableEq, Repr

/-- A count: an immediate or bits 15:0 of a D register (R312, R313). -/
inductive Cnt where
  | imm (n : Nat) | dat (n : Nat)
  deriving DecidableEq, Repr

/-- The branch conditions of R308. -/
inductive Cond where
  | always | z | n | c | v | t | k | f | lp
  deriving DecidableEq, Repr

/-- The items that a SNAPSHOT_READY completes (R100, R117, R239, R267). -/
inductive SnapKind where
  | fde (lane : Nat) | cal (lane : Nat) | isp | esp | exp
  deriving DecidableEq, Repr

/-- A cox link's receive item: a stroke marker (R161), a time beacon (R162) or a crew frame (R163),
each as the bytes after its start character. -/
abbrev CoxBytes := List Byte

/-- The sequencer triggers of R416. -/
inductive MonTrig where
  | timer | stroke (k : Nat) | load (g : Nat) | htrRise (n : Nat) | htrFall (n : Nat)
  deriving DecidableEq, Repr

/-- The wake events of R450. -/
inductive WakeSrc where
  | host | lane | cox | timer | supervision | thermal | target
  deriving DecidableEq, Repr

/-- What a write to a function's configuration space sets: Bus Master Enable (R339); VF Enable with NumVFs; MSI-X Enable and Function
Mask (R365); and in the PF's PTM, LTR, ASPM, Max Payload Size, Max Read Request Size and the error status bits that it clears (R192,
R336, R338, R444, R458; PCIe Base Specification). -/
inductive CfgSet where
  | bme (on : Bool)
  | vfs (n : Nat)
  | msix (enable mask : Bool)
  | ptm (on : Bool)
  | ltr (on : Bool)
  | ltrMax (snoop noSnoop : Nat)
  | aspm (l1 l12 : Bool)
  | payload (code : Nat)
  | readReq (code : Nat)
  | aerClear (unc cor : Nat)
  deriving DecidableEq, Repr

/-- The commands, in the order of spec/opcode_table.json. -/
inductive Instr where
  -- stream and beam commands
  | ispOpen (h : Hdr) (port bolt : Nat) (blk : Option (List Byte))
  | ispClose (h : Hdr) (port : Nat)
  | espOpen (h : Hdr) (port bolt : Nat) (blk : Option (List Byte))
  | espClose (h : Hdr) (port : Nat)
  | espTake (h : Hdr) (port bolt c : Nat)
  | espRewind (h : Hdr) (port rew c : Nat)
  | expRule (h : Hdr) (rule : Nat) (rec : Option (List Byte))
  | bayAlloc (h : Hdr) (owner : Nat) (any : Bool) (size base : Nat)
  | bayFree (h : Hdr) (bay : Nat)
  | boltSet (h : Hdr) (bolt bay kind : Nat) (bind : Bool) (ofs slotSize slots : Nat)
  | boltBindDone (bolt : Nat)
  -- shuttle, draft and lane commands
  | shtLoad (h : Hdr) (sh : Nat) (img : Option (List Byte))
  | shtLoadDone (sh : Nat)
  | shtStart (h : Hdr) (sh : Nat) (resume atStroke : Bool) (k c : Nat) (blk : Option (List Byte))
  | shtStop (h : Hdr) (sh : Nat)
  | shtMsg (h : Hdr) (sh w0 w1 : Nat)
  | draftRun (h : Hdr) (chan pri len : Nat) (prog : Option (List Byte))
  | draftAbort (h : Hdr) (chan : Nat)
  | laneMode (h : Hdr) (lane mode variant width end_ : Nat)
  | laneReconfigDone (lane : Nat)
  | laneTrain (h : Hdr) (lane : Nat) (rx tx : Bool)
  | laneLoop (h : Hdr) (target kind : Nat)
  | lanePrbs (h : Hdr) (target : Nat) (gen chk : Bool) (pattern inj injArg : Nat)
  -- time, crew, power, security, test and information commands
  | strokeDef (h : Hdr) (k num den src stepMode : Nat) (phase : Int)
  | strokeJump (h : Hdr) (k : Nat) (toIn : Bool) (delta : Int)
  | timeSet (h : Hdr) (relative : Bool) (sec ns frac : Nat) (ofs : Int)
  | crewJoin (h : Hdr) (id role topo share : Nat) (relayEn : Bool) (leadUs rxQp : Nat)
  | crewLeave (h : Hdr)
  | crewRelay (h : Hdr) (dst : Nat) (dir : Nat) (len : Nat) (payload : Option (List Byte))
  | pwrHint (h : Hdr) (target holdMs : Nat)
  | attest (h : Hdr) (len : Nat) (nonce : List Byte)
  | attestReportDone
  | fwStage (h : Hdr) (addr len : Nat) (bundle : Option (List Byte))
  | fwStageDone
  | fwCommit (h : Hdr) (advance : Bool)
  | fwCommitDone (host : Option (List Byte)) (readBack : List Byte)
  | bistRun (h : Hdr) (mask : Nat)
  | bistEnd (res : List (Nat × BlkTest))
  | bistPreconditionFail (m : BistMeas)
  | query (h : Hdr) (obj kind : Nat)
  -- frame queues and queue engine
  | frameSend (h : Hdr) (ep len : Nat) (frame : Option (List Byte))
  | post (h : Hdr) (addr len : Nat)
  | doorbellPoll (qp : Nat)
  | doorbellRead (qp : Nat) (rec : Option (List Byte))
  | descriptorFetch (qp : Nat) (descs : Option (List (List Byte)))
  | descriptorTake (qp : Nat)
  | fenceRelease (qp : Nat)
  | irqTimerExpiry (notice : Bool) (ring : Nat)
  -- register accesses with a behaviour of their own
  | nudge
  | vfNudge (fn : Nat)
  | kick (fn qp : Nat)
  | qpEnable (fn qp : Nat) (v : W32)
  | qpDisable (fn qp : Nat) (v : W32)
  | nqEnable (fn f : Nat) (v : W32)
  | nqCi (fn f : Nat) (v : W32)
  | rejPop (v : W32)
  | rejE0Read (fn : Nat)
  | loRead (fn addr : Nat)
  | loWrite (fn addr : Nat) (v : W32)
  | hiWrite (fn addr : Nat) (v : W32)
  | resultRead (fn addr : Nat)
  | tbNsRead (fn : Nat)
  | ptmStatRead (fn : Nat)
  | logE0Read (fn : Nat)
  | logPop (v : W32)
  | resStatRead (fn ck : Nat)
  | tagPcRead (fn sh : Nat)
  | servoSample (fn : Nat) (v : W32)
  | fecClr (lane : Nat) (v : W32)
  | laneSrst (lane : Nat) (v : W32)
  | laneResetEnd (lane : Nat)
  | cxSrst (n : Nat) (v : W32)
  | bmSrst (k : Nat) (v : W32)
  | beamResetEnd (k : Nat)
  | shSrst (sh : Nat) (v : W32)
  | monSrst (v : W32)
  | biasSrst (v : W32)
  | drfSrst (v : W32)
  | drfRestart (v : W32)
  | ingCntClr (v : W32)
  | egrCntClr (v : W32)
  | bmCntClr (k : Nat) (v : W32)
  | cxCntClr (n : Nat) (v : W32)
  | cxEnable (n : Nat) (v : W32)
  | calRun (lane : Nat) (v : W32)
  | ptmGo (v : W32)
  | txArm (lane : Nat) (v : W32)
  | txHandover (lane : Nat)
  | biasArm (g : Nat) (v : W32)
  | biasHandover (g : Nat)
  | biasLoadEdge
  | fdeSel (lane : Nat) (v : W32)
  | calSel (lane : Nat) (v : W32)
  | ispSel (v : W32)
  | espSel (v : W32)
  | expSel (v : W32)
  | snapshotReady (k : SnapKind)
  | ageSel (v : W32)
  | ageMeasureDone (stressed unstressed : Nat)
  | mgtGo (n : Nat) (v : W32)
  | mgtDone (n : Nat) (acked : Bool) (stuck : Bool) (done : Nat) (data : List Byte)
  | ckEnable (n : Nat) (v : W32)
  | ckData (n : Nat) (v : W32)
  | ckDataTail (n : Nat) (v : W32)
  | ckFinal (n : Nat) (v : W32)
  | hbGo (v : W32)
  | secLock (v : W32)
  | thmRef (v : W32)
  | planAck (v : W32)
  | splitEnable (v : W32)
  | cntCfgWrite (addr : Nat) (v : W32)
  | htrEnable (v : W32)
  | registerWrite (fn addr : Nat) (v : W32)
  | bar2Read (ofs len : Nat)
  | bar2Write (ofs : Nat) (data : List Byte)
  -- lane events
  | signalDetect (lane : Nat)
  | lossOfSignal (lane : Nat)
  | acquireDone (lane : Nat) (powers : List (Nat × Nat)) (rms : Int) (lp : Loops)
  | acquireTimeout (lane : Nat)
  | trainSolveDone (lane : Nat) (tr : TrainRx)
  | catchWaitExpiry (lane : Nat)
  | catchSequenceDetect (lane header : Nat)
  | fdeBlockUpdate (lane : Nat) (rx : List Int) (lp : Loops)
  | dfeAdapt (lane at_ : Nat)
  | targetAdapt (lane at1 at2 : Nat)
  | meritWindowEnd (lane symbols : Nat) (rms : Int)
  | timingLockLoss (lane : Nat)
  | idleMarkerRx (m : IdleCorr)
  | preamblePeak (lane : Nat) (negative : Bool) (mag : Nat) (pl : PeakAt)
  | startMarkerRx (lane : Nat) (m : StartMark)
  | burstAbandon (lane : Nat)
  | spareRestart (lane mag at_ : Nat)
  | wakeMiss (lane : Nat)
  | calPassStart (lane : Nat)
  | calEstimateEnd (lane : Nat) (levels : List Nat) (slices : List (Nat × Int)) (squares power : List Nat)
      (image : List (List (Int × Int)))
  | calApplyStep (lane : Nat)
  | rampStep (lane : Nat)
  | txIdleEntry (p : LineAt)
  | txWake (lane : Nat)
  | txBurstEnd (lane : Nat)
  | catchSequenceStart (p : LineAt)
  | txFrameStart (ep : Nat)
  | degradeWindowEnd (lane corrected : Nat)
  -- loom, stroke and beam events
  | frameReceive (ep : Nat) (f : RxFrame)
  | legLoss (port leg : Nat)
  | slotClose (port idx : Nat)
  | feedHoldExpiry (port : Nat)
  | stroke (k : Nat)
  | packetDue (port : Nat)
  | audioPacketDue (port : Nat)
  | beamTrainDone (k : Nat) (ok : Bool)
  | refresh (k : Nat)
  | refreshRateDrop (k : Nat)
  | scrubStep (k : Nat) (upset : List (Nat × Nat))
  | repairStep (k : Nat) (upset : List (Nat × Nat))
  | mergeFlush (k line : Nat)
  | anchorVote (word : Nat) (upset : List (Nat × W32 × Bool))
  -- shuttle instructions and events
  | halt (at_ : ShAt)
  | alu (at_ : ShAt) (op : AluOp) (dst : AD) (src : AD) (shift : Nat)
  | mac (at_ : ShAt) (op : MacOp) (acc d1 d2 : Nat) (y : Bool) (x : Option PXfer)
  | dualMac (at_ : ShAt) (word : BitVec 48)
  | transfer (at_ : ShAt) (op : XferOp)
  | do_ (at_ : ShAt) (cnt : Cnt) (len : Nat)
  | rep (at_ : ShAt) (dat : Bool) (count : Nat)
  | branch (at_ : ShAt) (cond : Cond) (target : Nat)
  | call (at_ : ShAt) (target : Nat)
  | return_ (at_ : ShAt)
  | in_ (at_ : ShAt) (d fifo : Nat)
  | out (at_ : ShAt) (o : Nat) (src : AD) (round : Bool)
  | send (at_ : ShAt) (dest d1 d2 : Nat)
  | wait (at_ : ShAt) (mask : Nat)
  | tmrExpiry (sh : Nat)
  | houseRestart (sh : Nat)
  | streamBlockWrite (sh o : Nat)
  -- draft instructions and events
  | move (chan : Nat)
  | fill (chan : Nat)
  | loop (chan : Nat)
  | draftWait (chan : Nat)
  | draftWaitDone (chan : Nat)
  | draftWaitTimeout (chan : Nat)
  | signal (chan : Nat)
  | end_ (chan : Nat)
  | burstIssue (ready : List Nat) (src : BurstRead)
  | readbackDone (chan : Nat) (ok : Bool)
  | draftBusError (chan addr : Nat)
  -- cox and crew events
  | coxRxUp (n : Nat)
  | coxRxDown (n : Nat) (cause : Nat)
  | coxDownExpiry (n : Nat)
  | strokeMarkerTx (k : Nat)
  | strokeMarkerRx (n : Nat) (m : CoxBytes)
  | timeBeaconTx
  | timeBeaconRx (n : Nat) (b : CoxBytes)
  | crewFrameRx (n : Nat) (rx : CrewRx)
  | coxSleep (n : Nat)
  | coxWake (n : Nat)
  | coxWakeEnd (n : Nat)
  | enumTimeout
  | memberAlignTimeout
  | unwrap (b : Nat × Nat)
  -- timebase events
  | tbclkLost
  | tbclkBack
  | servoHoldover
  | pps
  | strokeInEdge (falling : Bool) (at_ : Nat)
  | inLost
  | ptmDialog
  | ptmDone (dev host : Nat)
  | ptmFail
  -- supervision events
  | seqTrigger (t : MonTrig)
  | round (volts : List Int) (ow ref : Int × Int)
  | channelOutput (c : Nat) (samples : List Int)
  | biasFault (n : Nat) (headroom : Bool) (present : Bool)
  | htrPeriod (n : Nat)
  | modInt (low : Bool)
  -- power, thermal, security and start-up events
  | pwrTransitionStart
  | pwrTransitionEnd (us : Nat)
  | wakeEvent (src : WakeSrc)
  | wakeTimerExpiry
  | hintExpiry
  | sensorSample (t : List (Option Int))
  | bandDown
  | planRun (vreq guard relax : Nat) (stressed unstressed : List Nat)
  | splitSnapshot
  /- the bundle that the host delivers, what the two flash slots hold, and byte 0 of the marker sector (R485, R486) -/
  | bootDone (host : Option (List Byte)) (slots : List Byte × List Byte) (marker : Nat)
  | ready (ms : Nat)
  | secChal (challenge : List Byte)
  | secResp (resp : List Byte) (cleared : List Bool)
  | challengeExpiry
  | por (pin : Bool) (straps : Nat)
  | perst (straps : Nat)
  | flr (fn : Nat)
  | busMasterEnable (fn : Nat) (w : CfgSet)
  -- second group of cox and lane events
  | coxSignalDetect (n : Nat)
  | coxMeritWindowEnd (n : Nat) (eye : CoxEye) (violations : Nat)
  | coxDfeAdapt (n : Nat) (signs : List Int)
  | rsCodewordDecoded (lane : Nat) (msg parity from_ : List Nat)
  | alignLockChange (lane : Nat) (locked : Bool)
  | prbsSyncChange (target : Nat) (sync : Bool) (bits errs : Nat)
  | ispCloseDone (port : Nat)
  | crewFrameSent (n : Nat)
  deriving DecidableEq, Repr

end Sys2Proof
end

