-- ==== Sys2Proof/Config.lean ====
section
/-! DEFINITION. What the spec leaves open and what one device fixes: free values, with no body. A proof can
lean on none of them. -/

namespace Sys2Proof.Config

/-- The references of LN0-LN3 and LN4-LN7 differ by more than 10 ppm over the last 1 ms (R45); the argument is the model's free-value counter (DESIGN CHOICE, log entry 21). -/
opaque refsDiffer : Nat → Bool
/-- The factory trim of LNn.TX_DAC_TRIM (R66): the register's word for a lane (DESIGN CHOICE, log entry 24). -/
opaque dacTrim : Nat → BitVec 16
/-- The factory calibration record (R119): lane, slice, quantity, anchor (DESIGN CHOICE, log entry 24). -/
opaque factoryAnchor : Nat → Nat → Nat → Nat → BitVec 16
/-- The choice between the two integers beside a value where the spec states a mean, a quotient or a product and no rounding:
numerator, denominator (DESIGN CHOICE, log entries 23, 24 and 57). -/
opaque roundUp : Int → Nat → Bool
/-- A quotient that the spec defines, where its divisor is 0: the dividend (DESIGN CHOICE, log entry 23). -/
opaque noQuotient : Int → Nat → Rat
/-- How many levels of R132 one ADC code is (DESIGN CHOICE, log entry 23). -/
opaque sampleUnit : Rat
/-- What MERIT reports beside the exact figure: 0 that figure, 1 one more, else one less (R85); the figure and SER_est (DESIGN CHOICE, log entry 115). -/
opaque meritError : Nat → Nat → Nat
/-- The Gaussian tail of a threshold one of whose levels no sample of the window was decided as (DESIGN CHOICE, log entry 103). -/
opaque noTail : Nat → Nat → Nat
/-- A unit of BW per unit of the fit of R110, for a symbol rate; the spec gives no bandwidth (DESIGN CHOICE, log entry 84). -/
opaque bwUnit : Nat → Rat
/-- The imaginary part that bins 129 to 255 report where the conjugate does not fit (R100) (DESIGN CHOICE, log entry 104). -/
opaque conjIm : Nat → BitVec 15

/-- How many superframes a lane has sent since its last start marker when a power state makes it idle: lane, free-value counter
(DESIGN CHOICE, log entry 85). -/
opaque superframes : Nat → Nat → Nat

/-- What IEEE 802.3 and 802.3dj define of a port's transmit PCS: symbol `i` of the message of codeword pair `j` for the
frames sent, in mode and width; the bit `i` of a lane's share of a pair of codewords; the inner FEC of M200 variant B: the
information bits its decoder gives for reliabilities, its parity bits, and its pad bit `i` (DESIGN CHOICE, log entry 102). -/
opaque pcsSymbol : Nat → Nat → List (List (BitVec 8)) → Nat → Nat → Nat
/-- DESIGN CHOICE, log entry 102. -/
opaque laneBit : Nat → Nat → Nat → List Nat → Nat → Bool
/-- DESIGN CHOICE, log entry 102. -/
opaque djInfo : List (Option Rat × Option Rat) → Nat → Bool
/-- DESIGN CHOICE, log entry 102. -/
opaque djParity : List Bool → Nat → Bool
/-- DESIGN CHOICE, log entry 102. -/
opaque djPad : Nat → Bool
/-- The bit of IEEE 802.3's SSPRQ after those sent, newest first (R508): DESIGN CHOICE, log entry 137. -/
opaque ssprqNext : List Bool → Bool
/-- The frequency that the servo's proportional-integral loop asks for (R188), in 2^-16 ppm: BW, the sample in
2^-16 ns, the frequency in use, free-value counter; the spec gives its bandwidth and no coefficients (DESIGN CHOICE, log entry 19). -/
opaque servoFreq : Nat → Int → Int → Nat → Int
/-- How far the timebase's phase moves when D_TB changes its source (R184), in 2^-16 ns, before its bound: free-value counter (DESIGN
CHOICE, log entry 127). -/
opaque tbclkPhase : Nat → Int
/-- A device read that fails has a poisoned completion, and none is missing (R338): free-value counter (DESIGN CHOICE, log entry 130). -/
opaque poisonedRead : Nat → Bool
/-- The interpolator's choice between the two multiples of 1/16 ns beside an instant (R183): the instant, and the running
clock; the spec states its resolution and no rounding (DESIGN CHOICE, log entry 87). -/
opaque interpUp : Int → Nat → Bool
/-- The steering of a crew member's timebase (R170): phase in 2^-16 ns and frequency in 2^-16 ppm, from the offset
in 2^-16 ns, the frequency in use and the free-value counter; the spec gives only its limits (DESIGN CHOICE, log entry 19). -/
opaque crewPhase : Int → Nat → Int
/-- DESIGN CHOICE, log entry 19. -/
opaque crewFreq : Int → Int → Nat → Int

/-- The payload of a crew frame (R163), of which the spec lays out none but RELAY's: TYPE and the numbers it carries;
and the number `i` that a received payload carries (DESIGN CHOICE, log entry 29). -/
opaque crewPayload : Nat → List Int → List (BitVec 8)
/-- DESIGN CHOICE, log entry 29. -/
opaque crewField : Nat → Nat → List (BitVec 8) → Int
/-- The interval, in 2^-16 ns, published with a stroke that a member fires from a marker before it has a copy of the
generator's definition (R171, R197): free-value counter (DESIGN CHOICE, log entry 96). -/
opaque bareInterval : Nat → BitVec 48

/-- What a beam word that was never written since power-up reads as (R277): the kind, and each byte; and the bytes of a
word that an upset left uncorrectable. Address, free-value counter (DESIGN CHOICE, log entry 32). -/
opaque rawKind : Nat → Nat → Nat
/-- DESIGN CHOICE, log entry 32. -/
opaque rawByte : Nat → Nat → BitVec 8
/-- The syndrome of a word that does not read clean (R276): word address, kind, free-value counter (DESIGN CHOICE, log entry 33). -/
opaque syndrome : Nat → Nat → Nat → Nat

/-- The fields of an emitted packet's IP header of which the spec says nothing: IPv4 identification and flags, or the
IPv6 traffic class's ECN bits and flow label; and whether UDP over IPv4 carries a checksum. Free-value counter (DESIGN CHOICE, log entry 44). -/
opaque ipIdent : Nat → Nat
/-- DESIGN CHOICE, log entry 44. -/
opaque ecn : Nat → Nat
/-- DESIGN CHOICE, log entry 44. -/
opaque udpSum : Nat → Bool
/-- The extended sequence number, and ESSENCE 4's frame count, with which an egress port starts (R257, R258): free-value
counter (DESIGN CHOICE, log entry 44). -/
opaque espSeq : Nat → Nat
/-- DESIGN CHOICE, log entry 44. -/
opaque espFrames : Nat → Nat
/-- The part of an emitted HBRMT header that the spec leaves open while no source packet has been placed (PRESUMED, log entry 38). -/
opaque hbrmtByte : Nat → Nat → BitVec 8
/-- SHA3-512 (FIPS 202) and the verification of an ML-DSA-87 signature (FIPS 204): public key, message, signature (DESIGN CHOICE, log entry 64). -/
opaque sha3 : List (BitVec 8) → List (BitVec 8)
/-- DESIGN CHOICE, log entry 64. -/
opaque mldsaOk : List (BitVec 8) → List (BitVec 8) → List (BitVec 8) → Bool

/-- The result of a shuttle ALU instruction with a data-register destination where the spec states none: the exact
result lies outside Q1.23, or RND of a data register (R300-R308). Operation code with 16 times the shift count, operands (DESIGN CHOICE, log entry 46). -/
opaque dataAlu : Nat → BitVec 24 → BitVec 24 → BitVec 24
/-- The C flag of a shuttle instruction, whose rule the spec does not state (R304): operation code with 16 times the shift count, operands (DESIGN CHOICE, log entry 46). -/
opaque carry : Nat → Int → Int → Bool
/-- A word that the spec leaves open: an empty mailbox read, or the two loads of one register by one dual MAC; and the
header fields of a stream's block that R319 does not list. Free-value counter (DESIGN CHOICE, log entry 46). -/
opaque freeWord : Nat → BitVec 24
/-- DESIGN CHOICE, log entry 46. -/
opaque streamHdr : Nat → Nat
/-- The form of the tagging LFSR, which R524 leaves open (DESIGN CHOICE, log entry 74). -/
opaque lfsrForm : BitVec 2
/-- DESIGN CHOICE, log entry 74. -/
opaque tagCycles : Nat → Nat
/-- PCI.LINK_STAT's fields as the link is trained (R369): free-value counter (DESIGN CHOICE, log entry 75). -/
opaque link : Nat → BitVec 32
/-- The factory low-pass coefficients of MON.RS_COEF (R420) (DESIGN CHOICE, log entry 24). -/
opaque rsCoef : Nat → BitVec 18
/-- The fuses of one device (R478-R480): the owner digest of slot 0, the test-access permissions, the anti-rollback
counter, HOST_BOOT_DIS and JTAG_DIS; its identity public key, signatures with its identity key, and the words of its
calibration anchors (DESIGN CHOICE, log entry 65). -/
opaque ownerDigest : List (BitVec 8)
/-- DESIGN CHOICE, log entry 65. -/
opaque fuseTa : Nat → Bool
/-- DESIGN CHOICE, log entry 65. -/
opaque fuseCounter : BitVec 64
/-- DESIGN CHOICE, log entry 65. -/
opaque fuseHostBootDis : Bool
/-- DESIGN CHOICE, log entry 65. -/
opaque fuseJtagDis : Bool
/-- DESIGN CHOICE, log entry 65. -/
opaque identityPk : List (BitVec 8)
/-- The wrapped identity private key, the key that the device derives from its silicon, and what unwrapping gives (R478, R489) (DESIGN
CHOICE, log entry 65). -/
opaque wrappedKey : Nat
/-- DESIGN CHOICE, log entry 65. -/
opaque siliconKey : Nat
/-- DESIGN CHOICE, log entry 65. -/
opaque unwrapKey : Nat → Nat → Nat
/-- A signature with an identity private key: key, message, free-value counter (DESIGN CHOICE, log entry 64). -/
opaque identitySign : Nat → List (BitVec 8) → Nat → List (BitVec 8)
/-- DESIGN CHOICE, log entry 24. -/
opaque calWord : Nat → BitVec 32
/-- After a recovery boot, FW_COMMIT writes flash slot B, not A (R488 names the slot that did not boot): free-value counter (DESIGN CHOICE, log entry 65). -/
opaque recoverySlot : Nat → Bool
/-- VDD_CORE in mV, and the clock furthest from nominal with its deviation in 0.01 %, as measured (R499); free-value
counter (DESIGN CHOICE, log entry 71). -/
opaque vddMv : Nat → Nat
/-- DESIGN CHOICE, log entry 71. -/
opaque clkWorst : Nat → BitVec 3
/-- DESIGN CHOICE, log entry 71. -/
opaque clkDev : Nat → Int
/-- Bytes 20-23 of the first split record after EN, which has no previous snapshot (R527): free-value counter (DEDUCED, log entry 73). -/
opaque firstSplitNs : Nat → Nat
/-- What the timebase has gained at the exit from P3, in 2^-16 ns, before its bound (R455) (DESIGN CHOICE, log entry 22). -/
opaque sleepError : Nat → Int

/-- The latency of a beam read in D_BMk cycles, by line and time (R522) (DESIGN CHOICE, log entry 114). -/
opaque readLatency : Nat → Nat → Nat

/-- The board's level on VCM_BIAS, in µV (R426) (DESIGN CHOICE, log entry 31). -/
opaque vcmBias : Nat

end Sys2Proof.Config
end

