-- ==== Sys2Proof/Machine/Regs.lean ====
section
/-! DEFINITION. The register tables of the spec: for each block every register, its offset, its fields with
access type, reset value and permitted range. The rows are the spec's own register tables; a register kind that
occurs several times in a block at a fixed distance is one row with that distance and its number. -/

namespace Sys2Proof.Machine

/-- The access types of R3. -/
inductive Acc where
  | rw | ro | wo | w1c | w1s | rws | rwl | sh
  deriving DecidableEq, Repr

/-- A field: its name, bits `hi:lo`, access type, reset value, and the least and greatest value a write may give it. -/
structure Fld where
  name : String
  hi   : Nat
  lo   : Nat
  acc  : Acc
  rst  : Nat
  min  : Nat
  max  : Nat
  deriving DecidableEq, Repr

/-- A register kind: the offset of its first occurrence in the block, the distance to the next and their number. -/
structure RegDesc where
  name   : String
  off    : Nat
  stride : Nat
  cnt    : Nat
  flds   : List Fld
  deriving DecidableEq, Repr

/-- Registers of block SYS (R369, R551). -/
def regsSys : List RegDesc := [
  ⟨"READY", 0x0, 0x0, 1,
    [⟨"READY", 31, 31, .ro, 0, 0, 1⟩,
     ⟨"PHASE", 27, 24, .ro, 0, 0, 15⟩]⟩,
  ⟨"CAUSE", 0x4, 0x0, 1,
    [⟨"PERST", 2, 2, .w1c, 0, 0, 1⟩,
     ⟨"POR_PIN", 1, 1, .w1c, 0, 0, 1⟩,
     ⟨"POR_RAIL", 0, 0, .w1c, 0, 0, 1⟩]⟩,
  ⟨"STRAPS", 0x8, 0x0, 1,
    [⟨"TEST_MODE", 4, 4, .ro, 0, 0, 1⟩,
     ⟨"STRAP", 3, 0, .ro, 0, 0, 15⟩]⟩,
  ⟨"READY_MS", 0xC, 0x0, 1,
    [⟨"MS", 15, 0, .ro, 0, 0, 65535⟩]⟩,
  ⟨"REJ_STAT", 0x100, 0x0, 1,
    [⟨"LOST", 31, 16, .ro, 0, 0, 65535⟩,
     ⟨"COUNT", 5, 0, .ro, 0, 0, 63⟩]⟩,
  ⟨"REJ_POP", 0x104, 0x0, 1,
    [⟨"POP", 0, 0, .w1s, 0, 0, 1⟩]⟩,
  ⟨"REJ_E0", 0x108, 0x0, 1,
    [⟨"OFFSET", 29, 0, .ro, 0, 0, 1073741823⟩]⟩,
  ⟨"REJ_E1", 0x10C, 0x0, 1,
    [⟨"STATUS", 31, 24, .ro, 0, 0, 255⟩,
     ⟨"FUNC", 23, 19, .ro, 0, 0, 31⟩,
     ⟨"WR", 18, 18, .ro, 0, 0, 1⟩,
     ⟨"SPACE", 17, 16, .ro, 0, 0, 3⟩]⟩]

/-- Registers of block PCI (R369). -/
def regsPci : List RegDesc := [
  ⟨"LINK_STAT", 0x0, 0x0, 1,
    [⟨"POL_INV", 31, 24, .ro, 0, 0, 255⟩,
     ⟨"REVERSED", 16, 16, .ro, 0, 0, 1⟩,
     ⟨"WIDTH", 11, 8, .ro, 0, 0, 15⟩,
     ⟨"SPEED", 2, 0, .ro, 0, 0, 7⟩]⟩]

/-- Registers of block QUE (R369). -/
def regsQue : List RegDesc := [
  ⟨"POLL", 0x0, 0x0, 1,
    [⟨"POLL_NS", 19, 0, .rw, 1000, 250, 1000000⟩]⟩,
  ⟨"NUDGE", 0x4, 0x0, 1,
    [⟨"ANY", 31, 0, .wo, 0, 0, 4294967295⟩]⟩,
  ⟨"STAT", 0x8, 0x0, 1,
    [⟨"WATCHED", 24, 16, .ro, 0, 0, 511⟩,
     ⟨"ENABLED", 8, 0, .ro, 0, 0, 511⟩]⟩,
  ⟨"FN_QP", 0x104, 0x4, 31,
    [⟨"COUNT", 14, 8, .rw, 0, 0, 127⟩,
     ⟨"BASE", 7, 0, .rw, 0, 0, 255⟩]⟩]

/-- Registers of block NQ (R369). -/
def regsNq : List RegDesc := [
  ⟨"NQ_BASE_LO", 0x0, 0x0, 1,
    [⟨"ADDR", 31, 0, .rw, 0, 0, 4294967295⟩]⟩,
  ⟨"NQ_BASE_HI", 0x4, 0x0, 1,
    [⟨"ADDR", 31, 0, .rw, 0, 0, 4294967295⟩]⟩,
  ⟨"NQ_CTL", 0x8, 0x0, 1,
    [⟨"EN", 31, 31, .rw, 0, 0, 1⟩,
     ⟨"REJ_EN", 30, 30, .rw, 0, 0, 1⟩,
     ⟨"LOG2", 20, 16, .rw, 6, 0, 31⟩]⟩,
  ⟨"NQ_IRQ", 0xC, 0x0, 1,
    [⟨"INT_EN", 31, 31, .rw, 0, 0, 1⟩,
     ⟨"VEC", 28, 24, .rw, 0, 0, 31⟩,
     ⟨"COUNT", 23, 16, .rw, 1, 1, 255⟩,
     ⟨"TIME_US", 9, 0, .rw, 0, 0, 1023⟩]⟩,
  ⟨"NQ_CI", 0x10, 0x0, 1,
    [⟨"CI", 11, 0, .rw, 0, 0, 4095⟩]⟩,
  ⟨"NQ_STAT", 0x14, 0x0, 1,
    [⟨"LOST", 31, 16, .ro, 0, 0, 65535⟩,
     ⟨"PHASE", 12, 12, .ro, 1, 0, 1⟩,
     ⟨"TAIL", 11, 0, .ro, 0, 0, 4095⟩]⟩]

/-- Registers of block QP (R369). -/
def regsQp : List RegDesc := [
  ⟨"CTL", 0x0, 0x0, 1,
    [⟨"EN", 31, 31, .rw, 0, 0, 1⟩,
     ⟨"WATCH", 30, 30, .rw, 0, 0, 1⟩,
     ⟨"KIND", 29, 28, .rw, 0, 0, 3⟩,
     ⟨"DGEN", 27, 27, .rw, 1, 0, 1⟩,
     ⟨"SQ_LOG2", 20, 16, .rw, 4, 0, 31⟩,
     ⟨"CQ_LOG2", 12, 8, .rw, 4, 0, 31⟩]⟩,
  ⟨"STAT", 0x4, 0x0, 1,
    [⟨"BUSY", 31, 31, .ro, 0, 0, 1⟩,
     ⟨"ERR", 27, 24, .ro, 0, 0, 15⟩,
     ⟨"OUTSTANDING", 22, 16, .ro, 0, 0, 127⟩,
     ⟨"SQ_HEAD", 15, 0, .ro, 0, 0, 65535⟩]⟩,
  ⟨"SQ_BASE_LO", 0x8, 0x0, 1,
    [⟨"ADDR", 31, 0, .rw, 0, 0, 4294967295⟩]⟩,
  ⟨"SQ_BASE_HI", 0xC, 0x0, 1,
    [⟨"ADDR", 31, 0, .rw, 0, 0, 4294967295⟩]⟩,
  ⟨"CQ_BASE_LO", 0x10, 0x0, 1,
    [⟨"ADDR", 31, 0, .rw, 0, 0, 4294967295⟩]⟩,
  ⟨"CQ_BASE_HI", 0x14, 0x0, 1,
    [⟨"ADDR", 31, 0, .rw, 0, 0, 4294967295⟩]⟩,
  ⟨"DB_ADDR_LO", 0x18, 0x0, 1,
    [⟨"ADDR", 31, 0, .rw, 0, 0, 4294967295⟩]⟩,
  ⟨"DB_ADDR_HI", 0x1C, 0x0, 1,
    [⟨"ADDR", 31, 0, .rw, 0, 0, 4294967295⟩]⟩,
  ⟨"DB_GEN", 0x20, 0x0, 1,
    [⟨"GEN", 15, 0, .rw, 0, 0, 65535⟩]⟩,
  ⟨"IRQ", 0x24, 0x0, 1,
    [⟨"INT_EN", 31, 31, .rw, 0, 0, 1⟩,
     ⟨"VEC", 28, 24, .rw, 0, 0, 31⟩,
     ⟨"COUNT", 23, 16, .rw, 1, 1, 255⟩,
     ⟨"TIME_US", 9, 0, .rw, 0, 0, 1023⟩]⟩,
  ⟨"CQ_TAIL", 0x28, 0x0, 1,
    [⟨"PHASE", 16, 16, .ro, 1, 0, 1⟩,
     ⟨"TAIL", 15, 0, .ro, 0, 0, 65535⟩]⟩,
  ⟨"KICK", 0x2C, 0x0, 1,
    [⟨"ANY", 31, 0, .wo, 0, 0, 4294967295⟩]⟩,
  ⟨"CNT", 0x30, 0x0, 1,
    [⟨"DB_STALE", 31, 16, .ro, 0, 0, 65535⟩,
     ⟨"DESC_ERR", 15, 0, .ro, 0, 0, 65535⟩]⟩]

/-- Registers of block DRF (R412). -/
def regsDrf : List RegDesc := [
  ⟨"CTL", 0x0, 0x0, 1,
    [⟨"RESTART", 1, 1, .w1s, 0, 0, 1⟩,
     ⟨"SRST", 0, 0, .w1s, 0, 0, 1⟩]⟩,
  ⟨"STAT", 0x4, 0x0, 1,
    [⟨"STOPPED", 31, 31, .ro, 0, 0, 1⟩,
     ⟨"RUNNING", 5, 0, .ro, 0, 0, 63⟩]⟩,
  ⟨"ERR_ADDR_LO", 0x8, 0x0, 1,
    [⟨"ADDR", 31, 0, .ro, 0, 0, 4294967295⟩]⟩,
  ⟨"ERR_ADDR_HI", 0xC, 0x0, 1,
    [⟨"ADDR", 31, 0, .ro, 0, 0, 4294967295⟩]⟩,
  ⟨"FLAG", 0x10, 0x0, 1,
    [⟨"FLAG", 31, 0, .w1s, 0, 0, 4294967295⟩]⟩,
  ⟨"FLAG_CLR", 0x14, 0x0, 1,
    [⟨"FLAG", 31, 0, .w1c, 0, 0, 4294967295⟩]⟩,
  ⟨"SHFLAG", 0x18, 0x0, 1,
    [⟨"SHFLAG", 31, 0, .w1c, 0, 0, 4294967295⟩]⟩,
  ⟨"EVENT", 0x20, 0x0, 1,
    [⟨"BUS_STOP", 0, 0, .w1c, 0, 0, 1⟩]⟩,
  ⟨"EVENT_EN", 0x24, 0x0, 1,
    [⟨"EN", 0, 0, .rw, 1, 0, 1⟩]⟩,
  ⟨"HWIN_LO", 0x100, 0x8, 8,
    [⟨"BASE", 31, 12, .rw, 0, 0, 1048575⟩,
     ⟨"EN", 0, 0, .rw, 0, 0, 1⟩]⟩,
  ⟨"HWIN_HI", 0x104, 0x8, 8,
    [⟨"BASE", 31, 0, .rw, 0, 0, 4294967295⟩]⟩,
  ⟨"DC_STAT", 0x200, 0x4, 32,
    [⟨"STATE", 31, 30, .ro, 0, 0, 3⟩,
     ⟨"PRI", 29, 28, .ro, 0, 0, 3⟩,
     ⟨"DEPTH", 14, 12, .ro, 0, 0, 7⟩,
     ⟨"PC", 11, 0, .ro, 0, 0, 4095⟩]⟩]

/-- Registers of block CHK (R413). -/
def regsChk : List RegDesc := [
  ⟨"EVENT", 0x400, 0x0, 1,
    [⟨"MISMATCH", 0, 0, .w1c, 0, 0, 1⟩]⟩,
  ⟨"EVENT_EN", 0x404, 0x0, 1,
    [⟨"EN", 0, 0, .rw, 1, 0, 1⟩]⟩]

/-- Registers of block CK (R413). -/
def regsCk : List RegDesc := [
  ⟨"CTL", 0x0, 0x0, 1,
    [⟨"EN", 31, 31, .rw, 0, 0, 1⟩,
     ⟨"FINAL", 30, 30, .w1s, 0, 0, 1⟩,
     ⟨"STOP", 29, 29, .rw, 0, 0, 1⟩,
     ⟨"DC", 12, 8, .rw, 0, 0, 31⟩,
     ⟨"SRC", 5, 4, .rw, 0, 0, 1⟩,
     ⟨"POLY", 2, 0, .rw, 0, 0, 4⟩]⟩,
  ⟨"DATA", 0x4, 0x0, 1,
    [⟨"BYTES", 31, 0, .wo, 0, 0, 4294967295⟩]⟩,
  ⟨"DATA_TAIL", 0x8, 0x0, 1,
    [⟨"COUNT", 25, 24, .wo, 0, 0, 3⟩,
     ⟨"BYTES", 23, 0, .wo, 0, 0, 16777215⟩]⟩,
  ⟨"RES_STAT", 0xC, 0x0, 1,
    [⟨"VALID", 31, 31, .ro, 0, 0, 1⟩,
     ⟨"FRESH", 30, 30, .ro, 0, 0, 1⟩,
     ⟨"COUNT", 29, 0, .ro, 0, 0, 1073741823⟩]⟩,
  ⟨"RES_VAL", 0x10, 0x0, 1,
    [⟨"VALUE", 31, 0, .ro, 0, 0, 4294967295⟩]⟩,
  ⟨"CNT", 0x14, 0x0, 1,
    [⟨"MISMATCH", 31, 16, .ro, 0, 0, 65535⟩,
     ⟨"CHECKED", 15, 0, .ro, 0, 0, 65535⟩]⟩]

/-- Registers of block STK (R208). -/
def regsStk : List RegDesc := [
  ⟨"IN_CFG", 0x100, 0x0, 1,
    [⟨"POL", 0, 0, .rw, 0, 0, 1⟩]⟩]

/-- Registers of block GEN (R208). -/
def regsGen : List RegDesc := [
  ⟨"DEF", 0x0, 0x0, 1,
    [⟨"RUN", 31, 31, .ro, 0, 0, 1⟩,
     ⟨"SRC", 30, 29, .ro, 0, 0, 3⟩,
     ⟨"STEP_MODE", 28, 28, .ro, 1, 0, 1⟩,
     ⟨"NUM", 23, 0, .ro, 0, 0, 16777215⟩]⟩,
  ⟨"DEN", 0x4, 0x0, 1,
    [⟨"DEN", 15, 0, .ro, 0, 0, 65535⟩]⟩,
  ⟨"PHASE", 0x8, 0x0, 1,
    [⟨"PHASE", 31, 0, .ro, 0, 0, 4294967295⟩]⟩,
  ⟨"CAPTURE_WIN", 0xC, 0x0, 1,
    [⟨"CAPTURE_WIN", 19, 0, .rw, 1000, 0, 500000⟩]⟩,
  ⟨"SLEW_MAX", 0x10, 0x0, 1,
    [⟨"SLEW_MAX", 9, 0, .rw, 100, 0, 1000⟩]⟩,
  ⟨"COUNT", 0x14, 0x0, 1,
    [⟨"COUNT", 31, 0, .ro, 0, 0, 4294967295⟩]⟩,
  ⟨"OFS", 0x18, 0x0, 1,
    [⟨"VALID", 31, 31, .ro, 0, 0, 1⟩,
     ⟨"FRESH", 30, 30, .ro, 0, 0, 1⟩,
     ⟨"OFS", 29, 0, .ro, 0, 0, 1073741823⟩]⟩,
  ⟨"IN_OFS", 0x1C, 0x0, 1,
    [⟨"VALID", 31, 31, .ro, 0, 0, 1⟩,
     ⟨"FRESH", 30, 30, .ro, 0, 0, 1⟩,
     ⟨"IN_OFS", 29, 0, .ro, 0, 0, 1073741823⟩]⟩,
  ⟨"EVENT", 0x20, 0x0, 1,
    [⟨"STOPPED", 6, 6, .w1c, 0, 0, 1⟩,
     ⟨"DEF_APPLIED", 5, 5, .w1c, 0, 0, 1⟩,
     ⟨"SLEW_DONE", 4, 4, .w1c, 0, 0, 1⟩,
     ⟨"IN_LOST", 3, 3, .w1c, 0, 0, 1⟩,
     ⟨"IN_OUTSIDE", 2, 2, .w1c, 0, 0, 1⟩,
     ⟨"JUMPED", 1, 1, .w1c, 0, 0, 1⟩,
     ⟨"STARTED", 0, 0, .w1c, 0, 0, 1⟩]⟩,
  ⟨"EVENT_EN", 0x24, 0x0, 1,
    [⟨"EN", 6, 0, .rw, 110, 0, 127⟩]⟩]

/-- Registers of block COX (R181, R208). -/
def regsCox0 : List RegDesc := [
  ⟨"TB_CTL", 0x0, 0x0, 1,
    [⟨"TBCLK_25", 8, 8, .ro, 0, 0, 1⟩,
     ⟨"SERVO", 1, 0, .rw, 1, 0, 2⟩]⟩,
  ⟨"TB_STAT", 0x4, 0x0, 1,
    [⟨"TBCLK_LOST", 4, 4, .ro, 0, 0, 1⟩,
     ⟨"SERVO_STATE", 2, 0, .ro, 0, 0, 7⟩]⟩,
  ⟨"TB_FREQ", 0x8, 0x0, 1,
    [⟨"FREQ", 31, 0, .rw, 0, 0, 4294967295⟩]⟩,
  ⟨"TB_FRAC", 0xC, 0x0, 1,
    [⟨"FRAC", 15, 0, .ro, 0, 0, 65535⟩]⟩,
  ⟨"TB_NS", 0x10, 0x0, 1,
    [⟨"NS", 31, 0, .ro, 0, 0, 4294967295⟩]⟩,
  ⟨"TB_SEC_LO", 0x14, 0x0, 1,
    [⟨"SEC", 31, 0, .ro, 0, 0, 4294967295⟩]⟩,
  ⟨"TB_SEC_HI", 0x18, 0x0, 1,
    [⟨"SEC", 15, 0, .ro, 0, 0, 65535⟩]⟩,
  ⟨"SERVO_CFG", 0x1C, 0x0, 1,
    [⟨"BW", 27, 24, .rw, 3, 0, 8⟩,
     ⟨"HOLD_S", 23, 16, .rw, 4, 1, 255⟩,
     ⟨"STEP_THR", 15, 0, .rw, 1000, 100, 65535⟩]⟩,
  ⟨"SERVO_IN_LO", 0x20, 0x0, 1,
    [⟨"OFS", 31, 0, .wo, 0, 0, 4294967295⟩]⟩,
  ⟨"SERVO_IN_HI", 0x24, 0x0, 1,
    [⟨"OFS", 31, 0, .wo, 0, 0, 4294967295⟩]⟩,
  ⟨"TS_CORR", 0x40, 0x4, 8,
    [⟨"TX_CORR", 31, 16, .rw, 0, 0, 65535⟩,
     ⟨"RX_CORR", 15, 0, .rw, 0, 0, 65535⟩]⟩,
  ⟨"PTM_CTL", 0x60, 0x0, 1,
    [⟨"EN", 31, 31, .rw, 0, 0, 1⟩,
     ⟨"GO", 30, 30, .w1s, 0, 0, 1⟩,
     ⟨"INTERVAL", 15, 0, .rw, 1000, 1, 65535⟩]⟩,
  ⟨"PTM_STAT", 0x64, 0x0, 1,
    [⟨"VALID", 31, 31, .ro, 0, 0, 1⟩,
     ⟨"FRESH", 30, 30, .ro, 0, 0, 1⟩,
     ⟨"SEQ", 15, 0, .ro, 0, 0, 65535⟩]⟩,
  ⟨"PTM_DEV_NS", 0x68, 0x0, 1,
    [⟨"NS", 31, 0, .ro, 0, 0, 4294967295⟩]⟩,
  ⟨"PTM_DEV_SEC_LO", 0x6C, 0x0, 1,
    [⟨"SEC", 31, 0, .ro, 0, 0, 4294967295⟩]⟩,
  ⟨"PTM_DEV_SEC_HI", 0x70, 0x0, 1,
    [⟨"SEC", 15, 0, .ro, 0, 0, 65535⟩]⟩]

/-- Registers of block COX (R181, R208). -/
def regsCox1 : List RegDesc := [
  ⟨"PTM_HOST_LO", 0x74, 0x0, 1,
    [⟨"T", 31, 0, .ro, 0, 0, 4294967295⟩]⟩,
  ⟨"PTM_HOST_HI", 0x78, 0x0, 1,
    [⟨"T", 31, 0, .ro, 0, 0, 4294967295⟩]⟩,
  ⟨"OUT_CTL", 0x80, 0x0, 1,
    [⟨"SO_EN", 31, 31, .rw, 0, 0, 1⟩,
     ⟨"SO_SEL", 29, 28, .rw, 0, 0, 3⟩,
     ⟨"SO_WIDTH", 27, 16, .rw, 100, 1, 4095⟩,
     ⟨"PPS_EN", 15, 15, .rw, 0, 0, 1⟩,
     ⟨"PPS_WIDTH", 9, 0, .rw, 100, 1, 999⟩]⟩,
  ⟨"TB_EVENT", 0x84, 0x0, 1,
    [⟨"PTM_FAIL", 5, 5, .w1c, 0, 0, 1⟩,
     ⟨"TBCLK_BACK", 4, 4, .w1c, 0, 0, 1⟩,
     ⟨"TBCLK_LOST", 3, 3, .w1c, 0, 0, 1⟩,
     ⟨"HOLDOVER", 2, 2, .w1c, 0, 0, 1⟩,
     ⟨"LOCKED", 1, 1, .w1c, 0, 0, 1⟩,
     ⟨"STEPPED", 0, 0, .w1c, 0, 0, 1⟩]⟩,
  ⟨"TB_EVENT_EN", 0x88, 0x0, 1,
    [⟨"EN", 5, 0, .rw, 63, 0, 63⟩]⟩,
  ⟨"CREW_STAT", 0x1200, 0x0, 1,
    [⟨"ROLE", 31, 30, .ro, 0, 0, 3⟩,
     ⟨"TOPO", 29, 29, .ro, 0, 0, 1⟩,
     ⟨"HOLDOVER", 28, 28, .ro, 0, 0, 1⟩,
     ⟨"PATH", 27, 27, .ro, 0, 0, 1⟩,
     ⟨"HEALING", 26, 26, .ro, 0, 0, 1⟩,
     ⟨"SHARE", 19, 16, .ro, 0, 0, 15⟩,
     ⟨"MEMBER_ID", 15, 0, .ro, 0, 0, 65535⟩]⟩,
  ⟨"CREW_SIZE", 0x1204, 0x0, 1,
    [⟨"CREW_ID", 31, 16, .ro, 0, 0, 65535⟩,
     ⟨"SIZE", 15, 0, .ro, 0, 0, 65535⟩]⟩,
  ⟨"CREW_LEAD", 0x1208, 0x0, 1,
    [⟨"LEAD_US", 9, 0, .ro, 0, 0, 1023⟩]⟩,
  ⟨"CREW_BEACON", 0x120C, 0x0, 1,
    [⟨"INTERVAL", 16, 0, .rw, 1000, 100, 100000⟩]⟩,
  ⟨"CREW_PATH", 0x1210, 0x0, 1,
    [⟨"VALID", 31, 31, .ro, 0, 0, 1⟩,
     ⟨"FRESH", 30, 30, .ro, 0, 0, 1⟩,
     ⟨"PATH_T", 23, 0, .ro, 0, 0, 16777215⟩]⟩,
  ⟨"CREW_OFS", 0x1214, 0x0, 1,
    [⟨"VALID", 31, 31, .ro, 0, 0, 1⟩,
     ⟨"FRESH", 30, 30, .ro, 0, 0, 1⟩,
     ⟨"OFS", 29, 0, .ro, 0, 0, 1073741823⟩]⟩,
  ⟨"CREW_CNT", 0x1218, 0x0, 1,
    [⟨"MARK_LATE", 31, 16, .ro, 0, 0, 65535⟩,
     ⟨"MARK_MISS", 15, 0, .ro, 0, 0, 65535⟩]⟩,
  ⟨"CREW_EVENT", 0x121C, 0x0, 1,
    [⟨"MARK_LATE", 7, 7, .w1c, 0, 0, 1⟩,
     ⟨"RESTORED", 6, 6, .w1c, 0, 0, 1⟩,
     ⟨"HEALED", 5, 5, .w1c, 0, 0, 1⟩,
     ⟨"BREAK", 4, 4, .w1c, 0, 0, 1⟩,
     ⟨"LEAD_LOST", 3, 3, .w1c, 0, 0, 1⟩,
     ⟨"HOLDOVER", 2, 2, .w1c, 0, 0, 1⟩,
     ⟨"ALIGNED", 1, 1, .w1c, 0, 0, 1⟩,
     ⟨"FORMED", 0, 0, .w1c, 0, 0, 1⟩]⟩,
  ⟨"CREW_EVENT_EN", 0x1220, 0x0, 1,
    [⟨"EN", 7, 0, .rw, 124, 0, 255⟩]⟩,
  ⟨"CREW_RLY", 0x1224, 0x0, 1,
    [⟨"RX_DROP", 31, 16, .ro, 0, 0, 65535⟩,
     ⟨"RX_OK", 15, 0, .ro, 0, 0, 65535⟩]⟩]

/-- Every register of block COX. -/
def regsCox : List RegDesc :=
  regsCox0 ++ regsCox1

/-- Registers of block CX (R181, R514). -/
def regsCx : List RegDesc := [
  ⟨"CTL", 0x0, 0x0, 1,
    [⟨"EN", 31, 31, .rw, 0, 0, 1⟩,
     ⟨"SRST", 30, 30, .w1s, 0, 0, 1⟩,
     ⟨"CNT_CLR", 29, 29, .w1s, 0, 0, 1⟩,
     ⟨"DFE_FREEZE", 28, 28, .rw, 0, 0, 1⟩,
     ⟨"TX_POL_INV", 27, 27, .rw, 0, 0, 1⟩,
     ⟨"RX_POL_INV", 26, 26, .rw, 0, 0, 1⟩,
     ⟨"UP_THR", 15, 8, .rw, 100, 0, 255⟩,
     ⟨"DOWN_THR", 7, 0, .rw, 80, 0, 255⟩]⟩,
  ⟨"STAT", 0x4, 0x0, 1,
    [⟨"TX_STATE", 10, 8, .ro, 0, 0, 7⟩,
     ⟨"RX_STATE", 7, 5, .ro, 0, 0, 7⟩,
     ⟨"FAULTED", 2, 2, .ro, 0, 0, 1⟩,
     ⟨"WRAPPED", 1, 1, .ro, 0, 0, 1⟩,
     ⟨"LOS", 0, 0, .ro, 0, 0, 1⟩]⟩,
  ⟨"MERIT", 0x8, 0x0, 1,
    [⟨"VALID", 31, 31, .ro, 0, 0, 1⟩,
     ⟨"FRESH", 30, 30, .ro, 0, 0, 1⟩,
     ⟨"WIN_SEQ", 23, 16, .ro, 0, 0, 255⟩,
     ⟨"MERIT", 7, 0, .ro, 0, 0, 255⟩]⟩,
  ⟨"DFE", 0xC, 0x0, 1,
    [⟨"TAP5", 29, 24, .ro, 0, 0, 63⟩,
     ⟨"TAP4", 23, 18, .ro, 0, 0, 63⟩,
     ⟨"TAP3", 17, 12, .ro, 0, 0, 63⟩,
     ⟨"TAP2", 11, 6, .ro, 0, 0, 63⟩,
     ⟨"TAP1", 5, 0, .ro, 0, 0, 63⟩]⟩,
  ⟨"SLEEP", 0x10, 0x0, 1,
    [⟨"SLEEP_EN", 31, 31, .rw, 0, 0, 1⟩,
     ⟨"SLEEP_DLY", 9, 0, .rw, 10, 1, 1000⟩]⟩,
  ⟨"HOP", 0x14, 0x0, 1,
    [⟨"VALID", 31, 31, .ro, 0, 0, 1⟩,
     ⟨"FRESH", 30, 30, .ro, 0, 0, 1⟩,
     ⟨"DELAY", 23, 0, .ro, 0, 0, 16777215⟩]⟩,
  ⟨"CNT", 0x18, 0x0, 1,
    [⟨"CODE_ERR", 31, 16, .ro, 0, 0, 65535⟩,
     ⟨"CRC_ERR", 15, 0, .ro, 0, 0, 65535⟩]⟩,
  ⟨"EVENT", 0x1C, 0x0, 1,
    [⟨"UNWRAP", 5, 5, .w1c, 0, 0, 1⟩,
     ⟨"WRAP", 4, 4, .w1c, 0, 0, 1⟩,
     ⟨"FAULT_RX", 3, 3, .w1c, 0, 0, 1⟩,
     ⟨"LOS", 2, 2, .w1c, 0, 0, 1⟩,
     ⟨"DOWN", 1, 1, .w1c, 0, 0, 1⟩,
     ⟨"UP", 0, 0, .w1c, 0, 0, 1⟩]⟩,
  ⟨"EVENT_EN", 0x20, 0x0, 1,
    [⟨"EN", 5, 0, .rw, 30, 0, 63⟩]⟩,
  ⟨"PRBS_STAT", 0x24, 0x0, 1,
    [⟨"SYNC", 31, 31, .ro, 0, 0, 1⟩,
     ⟨"GEN", 30, 30, .ro, 0, 0, 1⟩,
     ⟨"CHK", 29, 29, .ro, 0, 0, 1⟩,
     ⟨"PATTERN", 28, 26, .ro, 0, 0, 7⟩,
     ⟨"LOOP", 25, 24, .ro, 0, 0, 3⟩,
     ⟨"SYNC_LOSS", 23, 16, .ro, 0, 0, 255⟩,
     ⟨"INJ", 15, 0, .ro, 0, 0, 65535⟩]⟩,
  ⟨"PRBS_BITS_LO", 0x28, 0x0, 1,
    [⟨"COUNT", 31, 0, .ro, 0, 0, 4294967295⟩]⟩,
  ⟨"PRBS_BITS_HI", 0x2C, 0x0, 1,
    [⟨"OVF", 31, 31, .ro, 0, 0, 1⟩,
     ⟨"COUNT", 15, 0, .ro, 0, 0, 65535⟩]⟩,
  ⟨"PRBS_ERR", 0x30, 0x0, 1,
    [⟨"COUNT", 31, 0, .ro, 0, 0, 4294967295⟩]⟩]

/-- Registers of block MON (R124, R438). -/
def regsMon0 : List RegDesc := [
  ⟨"CTL", 0x0, 0x0, 1,
    [⟨"SRST", 0, 0, .w1s, 0, 0, 1⟩]⟩,
  ⟨"SEQ_CTL", 0x4, 0x0, 1,
    [⟨"EN", 31, 31, .rw, 0, 0, 1⟩,
     ⟨"TRIG", 26, 24, .rw, 0, 0, 4⟩,
     ⟨"SEL", 18, 16, .rw, 0, 0, 7⟩,
     ⟨"DELAY", 15, 0, .rw, 0, 0, 65535⟩]⟩,
  ⟨"SEQ_TIMER", 0x8, 0x0, 1,
    [⟨"PERIOD_US", 19, 0, .rw, 100, 1, 1000000⟩]⟩,
  ⟨"SEQ_MASK", 0xC, 0x0, 1,
    [⟨"OW", 31, 16, .rw, 0, 0, 65535⟩,
     ⟨"IN", 15, 0, .rw, 0, 0, 65535⟩]⟩,
  ⟨"OW_CFG", 0x10, 0x0, 1,
    [⟨"OW_DIV", 31, 24, .rw, 16, 1, 255⟩,
     ⟨"OW_THR", 11, 0, .rw, 2048, 0, 4095⟩]⟩,
  ⟨"OW_STAT", 0x14, 0x0, 1,
    [⟨"OPEN", 15, 0, .ro, 0, 0, 65535⟩]⟩,
  ⟨"SEQ_STAT", 0x18, 0x0, 1,
    [⟨"ROUNDS", 31, 16, .ro, 0, 0, 65535⟩,
     ⟨"OVERRUN", 15, 0, .ro, 0, 0, 65535⟩]⟩,
  ⟨"TRIP", 0x1C, 0x0, 1,
    [⟨"LO", 7, 4, .w1c, 0, 0, 15⟩,
     ⟨"HI", 3, 0, .w1c, 0, 0, 15⟩]⟩,
  ⟨"EVENT", 0x20, 0x0, 1,
    [⟨"MOD_INT", 6, 6, .w1c, 0, 0, 1⟩,
     ⟨"MGT_DONE", 5, 5, .w1c, 0, 0, 1⟩,
     ⟨"CAL_FAIL", 4, 4, .w1c, 0, 0, 1⟩,
     ⟨"CLIP", 3, 3, .w1c, 0, 0, 1⟩,
     ⟨"TRIP", 2, 2, .w1c, 0, 0, 1⟩,
     ⟨"OVERRUN", 1, 1, .w1c, 0, 0, 1⟩,
     ⟨"OPEN", 0, 0, .w1c, 0, 0, 1⟩]⟩,
  ⟨"EVENT_EN", 0x24, 0x0, 1,
    [⟨"EN", 6, 0, .rw, 117, 0, 127⟩]⟩,
  ⟨"MGT_CTL", 0x28, 0x0, 1,
    [⟨"RST_REL", 31, 31, .rw, 0, 0, 1⟩,
     ⟨"INT", 30, 30, .ro, 0, 0, 1⟩,
     ⟨"DONE", 7, 0, .w1c, 0, 0, 255⟩]⟩,
  ⟨"RAW", 0x40, 0x4, 16,
    [⟨"VALID", 31, 31, .ro, 0, 0, 1⟩,
     ⟨"FRESH", 30, 30, .ro, 0, 0, 1⟩,
     ⟨"CODE", 11, 0, .ro, 0, 0, 4095⟩]⟩,
  ⟨"RS_SEL", 0x400, 0x0, 1,
    [⟨"INDEX", 9, 0, .rw, 0, 0, 1023⟩]⟩,
  ⟨"RS_COEF", 0x404, 0x0, 1,
    [⟨"COEF", 17, 0, .rw, 0, 0, 262143⟩]⟩,
  ⟨"CAL_CTL", 0xF00, 0x0, 1,
    [⟨"EN", 31, 31, .rw, 1, 0, 1⟩,
     ⟨"INTERVAL", 15, 0, .rw, 1000, 64, 65535⟩]⟩,
  ⟨"CAL_REF", 0xF04, 0x0, 1,
    [⟨"REFP_CODE", 27, 16, .rw, 3932, 0, 4095⟩,
     ⟨"REFN_CODE", 11, 0, .rw, 163, 0, 4095⟩]⟩]

/-- Registers of block MON (R124, R438). -/
def regsMon1 : List RegDesc := [
  ⟨"CAL_STAT", 0xF08, 0x0, 1,
    [⟨"FAIL", 31, 31, .w1c, 0, 0, 1⟩,
     ⟨"FAIL_CNT", 27, 24, .ro, 0, 0, 15⟩,
     ⟨"PASS_SEQ", 23, 16, .ro, 0, 0, 255⟩,
     ⟨"PHASE", 1, 0, .ro, 0, 0, 3⟩]⟩,
  ⟨"CAL_VAL", 0xF0C, 0x0, 1,
    [⟨"VALID", 31, 31, .ro, 0, 0, 1⟩,
     ⟨"FRESH", 30, 30, .ro, 0, 0, 1⟩,
     ⟨"STALE", 29, 29, .ro, 0, 0, 1⟩,
     ⟨"GAIN", 27, 16, .ro, 0, 0, 4095⟩,
     ⟨"OFS", 11, 0, .ro, 0, 0, 4095⟩]⟩]

/-- Every register of block MON. -/
def regsMon : List RegDesc :=
  regsMon0 ++ regsMon1

/-- Registers of block CH (R438). -/
def regsCh : List RegDesc := [
  ⟨"CFG", 0x0, 0x0, 1,
    [⟨"EN", 31, 31, .rw, 0, 0, 1⟩,
     ⟨"RS_EN", 30, 30, .rw, 0, 0, 1⟩,
     ⟨"ORDER", 29, 28, .rw, 0, 0, 2⟩,
     ⟨"SHIFT_CIC", 27, 23, .rw, 0, 0, 31⟩,
     ⟨"SHIFT_RS", 22, 18, .rw, 0, 0, 31⟩,
     ⟨"STAT_SRC", 17, 16, .rw, 0, 0, 2⟩,
     ⟨"DECIM", 12, 0, .rw, 4, 2, 4096⟩]⟩,
  ⟨"RATIO", 0x4, 0x0, 1,
    [⟨"RATIO", 23, 0, .rw, 1048576, 1048576, 16777215⟩]⟩,
  ⟨"DC", 0x8, 0x0, 1,
    [⟨"FREEZE", 31, 31, .rw, 0, 0, 1⟩,
     ⟨"DC_EN", 30, 30, .rw, 0, 0, 1⟩,
     ⟨"K", 4, 0, .rw, 12, 4, 20⟩]⟩,
  ⟨"HI", 0xC, 0x0, 1,
    [⟨"HI", 23, 0, .rw, 8388607, 0, 16777215⟩]⟩,
  ⟨"LO", 0x10, 0x0, 1,
    [⟨"LO", 23, 0, .rw, 8388608, 0, 16777215⟩]⟩,
  ⟨"ACT", 0x14, 0x0, 1,
    [⟨"HI_EN", 31, 31, .rw, 0, 0, 1⟩,
     ⟨"LO_EN", 30, 30, .rw, 0, 0, 1⟩,
     ⟨"CNT", 27, 24, .rw, 1, 1, 15⟩,
     ⟨"HTR_MASK", 23, 16, .rw, 0, 0, 255⟩,
     ⟨"BIAS_MASK", 15, 0, .rw, 0, 0, 65535⟩]⟩,
  ⟨"OUT", 0x18, 0x0, 1,
    [⟨"VALID", 31, 31, .ro, 0, 0, 1⟩,
     ⟨"FRESH", 30, 30, .ro, 0, 0, 1⟩,
     ⟨"STALE", 29, 29, .ro, 0, 0, 1⟩,
     ⟨"VALUE", 23, 0, .ro, 0, 0, 16777215⟩]⟩]

/-- Registers of block MGT (R438). -/
def regsMgt : List RegDesc := [
  ⟨"CTL", 0x0, 0x0, 1,
    [⟨"GO", 31, 31, .w1s, 0, 0, 1⟩,
     ⟨"OP", 30, 29, .rw, 0, 0, 3⟩,
     ⟨"SPEED", 28, 27, .rw, 1, 0, 3⟩,
     ⟨"DEV", 22, 16, .rw, 80, 0, 127⟩,
     ⟨"REG", 15, 8, .rw, 0, 0, 255⟩,
     ⟨"COUNT", 7, 0, .rw, 1, 0, 255⟩]⟩,
  ⟨"STAT", 0x4, 0x0, 1,
    [⟨"BUSY", 31, 31, .ro, 0, 0, 1⟩,
     ⟨"STATUS", 23, 16, .ro, 0, 0, 255⟩,
     ⟨"DONE_COUNT", 7, 0, .ro, 0, 0, 255⟩]⟩,
  ⟨"BUF", 0x80, 0x4, 32,
    [⟨"BYTES", 31, 0, .rw, 0, 0, 4294967295⟩]⟩]

/-- Registers of block BIAS (R439). -/
def regsBias : List RegDesc := [
  ⟨"CODE", 0x0, 0x4, 16,
    [⟨"EN", 31, 31, .sh, 0, 0, 1⟩,
     ⟨"SPAN", 17, 16, .sh, 0, 0, 3⟩,
     ⟨"CODE", 13, 0, .sh, 0, 0, 16383⟩]⟩,
  ⟨"CFG", 0x40, 0x4, 16,
    [⟨"FAULT_OFF", 31, 31, .rw, 0, 0, 1⟩,
     ⟨"GROUP", 1, 0, .rw, 0, 0, 3⟩]⟩,
  ⟨"GRP", 0x80, 0x4, 4,
    [⟨"ARM", 31, 31, .w1s, 0, 0, 1⟩,
     ⟨"SRC", 25, 24, .rw, 0, 0, 2⟩,
     ⟨"STK", 17, 16, .rw, 0, 0, 3⟩,
     ⟨"LOAD_SEQ", 7, 0, .ro, 0, 0, 255⟩]⟩,
  ⟨"CTL", 0x90, 0x0, 1,
    [⟨"SRST", 0, 0, .w1s, 0, 0, 1⟩]⟩,
  ⟨"FAULT", 0x94, 0x0, 1,
    [⟨"HEADROOM", 15, 8, .ro, 0, 0, 255⟩,
     ⟨"OPEN", 7, 0, .ro, 0, 0, 255⟩]⟩,
  ⟨"TRIP", 0x98, 0x0, 1,
    [⟨"HTR", 23, 16, .w1c, 0, 0, 255⟩,
     ⟨"BIAS", 15, 0, .w1c, 0, 0, 65535⟩]⟩,
  ⟨"HTR_EN", 0x9C, 0x0, 1,
    [⟨"EN", 7, 0, .rw, 0, 0, 255⟩]⟩,
  ⟨"HTR", 0xA0, 0x4, 8,
    [⟨"DUTY", 31, 16, .rw, 0, 0, 65535⟩,
     ⟨"PERIOD", 15, 0, .rw, 1000, 100, 65535⟩]⟩,
  ⟨"EVENT", 0xC0, 0x0, 1,
    [⟨"TRIP_ACT", 1, 1, .w1c, 0, 0, 1⟩,
     ⟨"COMPL", 0, 0, .w1c, 0, 0, 1⟩]⟩,
  ⟨"EVENT_EN", 0xC4, 0x0, 1,
    [⟨"EN", 1, 0, .rw, 3, 0, 3⟩]⟩]

/-- Registers of block PWR (R460). -/
def regsPwr : List RegDesc := [
  ⟨"STATE", 0x0, 0x0, 1,
    [⟨"TRANS", 31, 31, .ro, 0, 0, 1⟩,
     ⟨"FLOOR", 26, 24, .ro, 0, 0, 7⟩,
     ⟨"PENDING", 18, 16, .ro, 7, 0, 7⟩,
     ⟨"TARGET", 10, 8, .ro, 0, 0, 7⟩,
     ⟨"STATE", 2, 0, .ro, 0, 0, 7⟩]⟩,
  ⟨"TOLERANCE", 0x4, 0x0, 1,
    [⟨"TOL_US", 19, 0, .rw, 0, 0, 1000000⟩]⟩,
  ⟨"CTL", 0x8, 0x0, 1,
    [⟨"DWELL_US", 16, 0, .rw, 100, 10, 100000⟩]⟩,
  ⟨"LTR_TOL", 0xC, 0x0, 1,
    [⟨"LTR_EN", 31, 31, .ro, 0, 0, 1⟩,
     ⟨"LTR_US", 19, 0, .ro, 1048575, 0, 1048575⟩]⟩,
  ⟨"HINT", 0x10, 0x0, 1,
    [⟨"ACTIVE", 31, 31, .ro, 0, 0, 1⟩,
     ⟨"TARGET", 2, 0, .ro, 0, 0, 7⟩]⟩,
  ⟨"HINT_REMAIN", 0x14, 0x0, 1,
    [⟨"MS", 31, 0, .ro, 0, 0, 4294967295⟩]⟩,
  ⟨"WAKE_EN", 0x18, 0x0, 1,
    [⟨"EN", 6, 2, .rw, 31, 0, 31⟩]⟩,
  ⟨"WAKE_TIMER", 0x1C, 0x0, 1,
    [⟨"MS", 31, 0, .rw, 0, 0, 4294967295⟩]⟩,
  ⟨"WAKE_LAST", 0x20, 0x0, 1,
    [⟨"MASK", 23, 16, .ro, 0, 0, 255⟩,
     ⟨"FROM", 10, 8, .ro, 0, 0, 7⟩,
     ⟨"ENTRY", 7, 7, .ro, 0, 0, 1⟩,
     ⟨"SRC", 2, 0, .ro, 0, 0, 7⟩]⟩,
  ⟨"WAKE_STAY", 0x24, 0x0, 1,
    [⟨"US", 31, 0, .ro, 0, 0, 4294967295⟩]⟩,
  ⟨"WAKE_CNT", 0x28, 0x0, 1,
    [⟨"P3", 31, 16, .ro, 0, 0, 65535⟩,
     ⟨"P2", 15, 0, .ro, 0, 0, 65535⟩]⟩,
  ⟨"WAKE_DROP", 0x2C, 0x0, 1,
    [⟨"COUNT", 31, 0, .ro, 0, 0, 4294967295⟩]⟩,
  ⟨"EVENT", 0x30, 0x0, 1,
    [⟨"WAKE_DROP", 2, 2, .w1c, 0, 0, 1⟩,
     ⟨"WAKE", 1, 1, .w1c, 0, 0, 1⟩,
     ⟨"STATE_CHG", 0, 0, .w1c, 0, 0, 1⟩]⟩,
  ⟨"EVENT_EN", 0x34, 0x0, 1,
    [⟨"EN", 2, 0, .rw, 6, 0, 7⟩]⟩]

/-- Registers of block THM (R477). -/
def regsThm : List RegDesc := [
  ⟨"STAT", 0x0, 0x0, 1,
    [⟨"MAX", 31, 16, .ro, 0, 0, 65535⟩,
     ⟨"SRC", 12, 8, .ro, 0, 0, 31⟩,
     ⟨"THROT", 4, 4, .ro, 0, 0, 1⟩,
     ⟨"BAND", 2, 0, .ro, 0, 0, 7⟩]⟩,
  ⟨"SENS_SEL", 0x4, 0x0, 1,
    [⟨"INDEX", 4, 0, .rw, 0, 0, 31⟩]⟩,
  ⟨"SENS_VAL", 0x8, 0x0, 1,
    [⟨"VALID", 31, 31, .ro, 0, 0, 1⟩,
     ⟨"FRESH", 30, 30, .ro, 0, 0, 1⟩,
     ⟨"EXCL", 29, 29, .ro, 0, 0, 1⟩,
     ⟨"T", 15, 0, .ro, 0, 0, 65535⟩]⟩,
  ⟨"EXCL", 0xC, 0x0, 1,
    [⟨"EXCL", 31, 0, .ro, 0, 0, 4294967295⟩]⟩,
  ⟨"BAND", 0x10, 0x4, 5,
    [⟨"LANE_RELAX", 7, 0, .rw, 0, 0, 30⟩]⟩,
  ⟨"CTL", 0x30, 0x0, 1,
    [⟨"THROT_EN", 31, 31, .rw, 1, 0, 1⟩,
     ⟨"PLAN_EN", 30, 30, .rw, 1, 0, 1⟩,
     ⟨"APPROVE", 29, 29, .rw, 0, 0, 1⟩,
     ⟨"REF", 28, 28, .w1s, 0, 0, 1⟩,
     ⟨"EOL_PCT", 15, 8, .rw, 20, 1, 100⟩,
     ⟨"PLAN_H", 7, 0, .rw, 24, 1, 255⟩]⟩,
  ⟨"PLAN_STAT", 0x34, 0x0, 1,
    [⟨"PENDING", 31, 31, .ro, 0, 0, 1⟩,
     ⟨"SEQ", 15, 0, .ro, 0, 0, 65535⟩]⟩,
  ⟨"PLAN_ACK", 0x38, 0x0, 1,
    [⟨"APPLY", 31, 31, .wo, 0, 0, 1⟩,
     ⟨"SEQ", 15, 0, .wo, 0, 0, 65535⟩]⟩,
  ⟨"PLAN_VAL0", 0x3C, 0x0, 1,
    [⟨"REF_GUARD", 16, 16, .ro, 0, 0, 1⟩,
     ⟨"VREQ", 15, 0, .ro, 720, 0, 65535⟩]⟩,
  ⟨"PLAN_VAL1", 0x40, 0x0, 1,
    [⟨"PLAN_RELAX", 15, 8, .ro, 0, 0, 255⟩,
     ⟨"EOL", 7, 0, .ro, 0, 0, 255⟩]⟩,
  ⟨"AGE_SEL", 0x44, 0x0, 1,
    [⟨"PAIR", 4, 0, .rw, 0, 0, 23⟩]⟩,
  ⟨"AGE_VAL", 0x48, 0x0, 1,
    [⟨"VALID", 31, 31, .ro, 0, 0, 1⟩,
     ⟨"FRESH", 30, 30, .ro, 0, 0, 1⟩,
     ⟨"DELTA", 23, 0, .ro, 0, 0, 16777215⟩]⟩,
  ⟨"EVENT", 0x4C, 0x0, 1,
    [⟨"EOL", 5, 5, .w1c, 0, 0, 1⟩,
     ⟨"SENSOR_FAIL", 4, 4, .w1c, 0, 0, 1⟩,
     ⟨"BEAM_HOT", 3, 3, .w1c, 0, 0, 1⟩,
     ⟨"THROTTLE", 2, 2, .w1c, 0, 0, 1⟩,
     ⟨"BAND_DOWN", 1, 1, .w1c, 0, 0, 1⟩,
     ⟨"BAND_UP", 0, 0, .w1c, 0, 0, 1⟩]⟩,
  ⟨"EVENT_EN", 0x50, 0x0, 1,
    [⟨"EN", 5, 0, .rw, 61, 0, 63⟩]⟩]

/-- Registers of block SEC (R496). -/
def regsSec : List RegDesc := [
  ⟨"CTL", 0x0, 0x0, 1,
    [⟨"LOCK", 0, 0, .w1s, 0, 0, 1⟩]⟩,
  ⟨"STAT", 0x4, 0x0, 1,
    [⟨"LIFECYCLE", 27, 26, .ro, 0, 0, 3⟩,
     ⟨"TA_STATE", 25, 24, .ro, 0, 0, 3⟩,
     ⟨"BOOT_SRC", 17, 16, .ro, 0, 0, 3⟩,
     ⟨"KEY_SLOT", 13, 12, .ro, 0, 0, 3⟩,
     ⟨"FALLBACK", 9, 9, .ro, 0, 0, 1⟩,
     ⟨"WAIT_HOST", 8, 8, .ro, 0, 0, 1⟩,
     ⟨"BOOT_ERR", 7, 0, .ro, 0, 0, 255⟩]⟩,
  ⟨"SLOTS", 0x8, 0x0, 1,
    [⟨"JTAG_DIS", 17, 17, .ro, 0, 0, 1⟩,
     ⟨"HOST_BOOT_DIS", 16, 16, .ro, 0, 0, 1⟩,
     ⟨"TA", 11, 8, .ro, 0, 0, 15⟩,
     ⟨"STATE", 7, 0, .ro, 0, 0, 255⟩]⟩,
  ⟨"FUSE_RB_LO", 0xC, 0x0, 1,
    [⟨"COUNT", 31, 0, .ro, 0, 0, 4294967295⟩]⟩,
  ⟨"FUSE_RB_HI", 0x10, 0x0, 1,
    [⟨"COUNT", 31, 0, .ro, 0, 0, 4294967295⟩]⟩,
  ⟨"RUN_RB_LO", 0x14, 0x0, 1,
    [⟨"VALUE", 31, 0, .ro, 0, 0, 4294967295⟩]⟩,
  ⟨"RUN_RB_HI", 0x18, 0x0, 1,
    [⟨"VALUE", 31, 0, .ro, 0, 0, 4294967295⟩]⟩,
  ⟨"BUILD", 0x1C, 0x0, 1,
    [⟨"BUILD", 31, 0, .ro, 0, 0, 4294967295⟩]⟩,
  ⟨"HB_ADDR_LO", 0x20, 0x0, 1,
    [⟨"ADDR", 31, 0, .rw, 0, 0, 4294967295⟩]⟩,
  ⟨"HB_ADDR_HI", 0x24, 0x0, 1,
    [⟨"ADDR", 31, 0, .rw, 0, 0, 4294967295⟩]⟩,
  ⟨"HB_LEN", 0x28, 0x0, 1,
    [⟨"LEN", 24, 0, .rw, 0, 8192, 16777216⟩]⟩,
  ⟨"HB_CTL", 0x2C, 0x0, 1,
    [⟨"GO", 0, 0, .w1s, 0, 0, 1⟩]⟩,
  ⟨"TA_STAT", 0x30, 0x0, 1,
    [⟨"BLOCKED", 9, 9, .ro, 0, 0, 1⟩,
     ⟨"CHAL_VALID", 8, 8, .ro, 0, 0, 1⟩,
     ⟨"FAILS", 1, 0, .ro, 0, 0, 3⟩]⟩,
  ⟨"EVENT", 0x34, 0x0, 1,
    [⟨"TA_FAIL", 1, 1, .w1c, 0, 0, 1⟩,
     ⟨"FALLBACK", 0, 0, .w1c, 0, 0, 1⟩]⟩,
  ⟨"EVENT_EN", 0x38, 0x0, 1,
    [⟨"EN", 1, 0, .rw, 3, 0, 3⟩]⟩]

/-- Registers of block ANC (R299). -/
def regsAnc : List RegDesc := [
  ⟨"WORD", 0x0, 0x4, 64,
    [⟨"VALUE", 31, 0, .ro, 0, 0, 4294967295⟩]⟩,
  ⟨"STAT", 0x100, 0x0, 1,
    [⟨"FIXED", 31, 16, .ro, 0, 0, 65535⟩,
     ⟨"SINGLE", 15, 0, .ro, 0, 0, 65535⟩]⟩,
  ⟨"DIS_LO", 0x104, 0x0, 1,
    [⟨"DIS", 31, 0, .ro, 0, 0, 4294967295⟩]⟩,
  ⟨"DIS_HI", 0x108, 0x0, 1,
    [⟨"DIS", 31, 0, .ro, 0, 0, 4294967295⟩]⟩,
  ⟨"EVENT", 0x10C, 0x0, 1,
    [⟨"DISAGREE", 2, 2, .w1c, 0, 0, 1⟩,
     ⟨"SINGLE", 1, 1, .w1c, 0, 0, 1⟩,
     ⟨"FIXED", 0, 0, .w1c, 0, 0, 1⟩]⟩,
  ⟨"EVENT_EN", 0x110, 0x0, 1,
    [⟨"EN", 2, 0, .rw, 6, 0, 7⟩]⟩]

/-- Registers of block TST (R515). -/
def regsTst : List RegDesc := [
  ⟨"STAT", 0x0, 0x0, 1,
    [⟨"BUSY", 31, 31, .ro, 0, 0, 1⟩,
     ⟨"ABORTED", 30, 30, .ro, 0, 0, 1⟩,
     ⟨"ELAPSED", 29, 0, .ro, 0, 0, 1073741823⟩]⟩,
  ⟨"VDD", 0x4, 0x0, 1,
    [⟨"MV", 15, 0, .ro, 0, 0, 65535⟩]⟩,
  ⟨"CLK", 0x8, 0x0, 1,
    [⟨"WORST", 18, 16, .ro, 0, 0, 7⟩,
     ⟨"DEV", 15, 0, .ro, 0, 0, 65535⟩]⟩,
  ⟨"ACTIVE", 0x10, 0x4, 4,
    [⟨"MASK", 31, 0, .ro, 0, 0, 4294967295⟩]⟩,
  ⟨"EVENT", 0x20, 0x0, 1,
    [⟨"ABORT", 1, 1, .w1c, 0, 0, 1⟩,
     ⟨"DONE", 0, 0, .w1c, 0, 0, 1⟩]⟩,
  ⟨"EVENT_EN", 0x24, 0x0, 1,
    [⟨"EN", 1, 0, .rw, 3, 0, 3⟩]⟩]

/-- Registers of block SPLIT (R535). -/
def regsSplit : List RegDesc := [
  ⟨"CTL", 0x0, 0x0, 1,
    [⟨"EN", 31, 31, .rw, 0, 0, 1⟩]⟩,
  ⟨"STAT", 0x4, 0x0, 1,
    [⟨"LOST", 15, 0, .ro, 0, 0, 65535⟩]⟩,
  ⟨"WINDOW", 0x8, 0x0, 1,
    [⟨"US", 19, 0, .rw, 1000, 1, 1000000⟩]⟩,
  ⟨"RING_BASE_LO", 0xC, 0x0, 1,
    [⟨"ADDR", 31, 0, .rw, 0, 0, 4294967295⟩]⟩,
  ⟨"RING_BASE_HI", 0x10, 0x0, 1,
    [⟨"ADDR", 31, 0, .rw, 0, 0, 4294967295⟩]⟩,
  ⟨"RING", 0x14, 0x0, 1,
    [⟨"LOG2", 4, 0, .rw, 4, 0, 31⟩]⟩,
  ⟨"RING_CI", 0x18, 0x0, 1,
    [⟨"CI", 15, 0, .rw, 0, 0, 65535⟩]⟩,
  ⟨"RING_TAIL", 0x1C, 0x0, 1,
    [⟨"PHASE", 16, 16, .ro, 1, 0, 1⟩,
     ⟨"TAIL", 15, 0, .ro, 0, 0, 65535⟩]⟩,
  ⟨"INC0", 0x20, 0x0, 1,
    [⟨"BM", 31, 16, .rw, 0, 0, 65535⟩,
     ⟨"LOOM", 8, 8, .rw, 0, 0, 1⟩,
     ⟨"LN", 7, 0, .rw, 0, 0, 255⟩]⟩,
  ⟨"INC", 0x24, 0x4, 3,
    [⟨"SH", 31, 0, .rw, 0, 0, 4294967295⟩]⟩,
  ⟨"SEQ", 0x30, 0x0, 1,
    [⟨"SEQ", 31, 0, .ro, 0, 0, 4294967295⟩]⟩,
  ⟨"EP_BW", 0x40, 0x4, 8,
    [⟨"RX", 31, 16, .ro, 0, 0, 65535⟩,
     ⟨"TX", 15, 0, .ro, 0, 0, 65535⟩]⟩]

/-- Registers of block LN (R63, R96, R120, R152, R513, R533). -/
def regsLn0 : List RegDesc := [
  ⟨"MODE_STAT", 0x0, 0x0, 1,
    [⟨"BUSY", 9, 9, .ro, 0, 0, 1⟩,
     ⟨"PORT_BASE", 8, 6, .ro, 0, 0, 7⟩,
     ⟨"WIDTH", 5, 4, .ro, 0, 0, 3⟩,
     ⟨"VARIANT", 3, 3, .ro, 0, 0, 1⟩,
     ⟨"MODE", 1, 0, .ro, 0, 0, 3⟩]⟩,
  ⟨"CTL", 0x4, 0x0, 1,
    [⟨"SRST", 0, 0, .w1s, 0, 0, 1⟩]⟩,
  ⟨"CNT_CFG", 0x80, 0x10, 6,
    [⟨"EN", 31, 31, .rw, 0, 0, 1⟩,
     ⟨"OVF", 30, 30, .w1c, 0, 0, 1⟩,
     ⟨"SRC", 7, 0, .rw, 0, 0, 255⟩]⟩,
  ⟨"CNT_FILT", 0x84, 0x10, 6,
    [⟨"PRIV", 31, 30, .rw, 0, 0, 3⟩,
     ⟨"MKIND", 29, 28, .rw, 0, 0, 3⟩,
     ⟨"MASTER", 27, 21, .rw, 0, 0, 127⟩,
     ⟨"ADDR_EN", 20, 20, .rw, 0, 0, 1⟩,
     ⟨"CLASS", 19, 16, .rw, 0, 0, 15⟩,
     ⟨"ALL", 15, 15, .rw, 0, 0, 1⟩,
     ⟨"OBJ", 9, 0, .rw, 0, 0, 1023⟩]⟩,
  ⟨"CNT_VAL_LO", 0x88, 0x10, 6,
    [⟨"VAL", 31, 0, .ro, 0, 0, 4294967295⟩]⟩,
  ⟨"CNT_VAL_HI", 0x8C, 0x10, 6,
    [⟨"OVF", 31, 31, .ro, 0, 0, 1⟩,
     ⟨"VAL", 15, 0, .ro, 0, 0, 65535⟩]⟩,
  ⟨"TX_CTL", 0x100, 0x0, 1,
    [⟨"PRECODE", 1, 1, .rw, 0, 0, 1⟩,
     ⟨"POL_INV", 0, 0, .rw, 0, 0, 1⟩]⟩,
  ⟨"TX_STAT", 0x104, 0x0, 1,
    [⟨"AMP", 25, 16, .ro, 0, 0, 1023⟩,
     ⟨"STATE", 2, 0, .ro, 0, 0, 7⟩]⟩,
  ⟨"TX_RAMP", 0x108, 0x0, 1,
    [⟨"RAMP_US", 6, 0, .rw, 8, 1, 64⟩]⟩,
  ⟨"TX_IDLE", 0x10C, 0x0, 1,
    [⟨"IDLE_EN", 31, 31, .rw, 0, 0, 1⟩,
     ⟨"IDLE_DLY", 15, 0, .rw, 1024, 64, 65535⟩]⟩,
  ⟨"TX_FIR", 0x110, 0x4, 4,
    [⟨"C_ODD", 25, 16, .sh, 0, 0, 1023⟩,
     ⟨"C_EVEN", 9, 0, .sh, 0, 0, 1023⟩]⟩,
  ⟨"TX_FIR_CTL", 0x120, 0x0, 1,
    [⟨"ARM", 31, 31, .w1s, 0, 0, 1⟩,
     ⟨"MAIN_POS", 2, 0, .sh, 2, 0, 7⟩]⟩,
  ⟨"TX_LEVELS", 0x124, 0x0, 1,
    [⟨"SWING", 27, 24, .sh, 10, 0, 15⟩,
     ⟨"INNER_P", 15, 8, .sh, 85, 0, 255⟩,
     ⟨"INNER_N", 7, 0, .sh, 85, 0, 255⟩]⟩,
  ⟨"TX_DAC_TRIM", 0x128, 0x0, 1,
    [⟨"SKEW_B", 15, 8, .sh, 0, 0, 255⟩,
     ⟨"GAIN_B", 7, 0, .sh, 0, 0, 255⟩]⟩,
  ⟨"TX_CATCH", 0x12C, 0x0, 1,
    [⟨"LAST_ID", 23, 16, .ro, 0, 0, 255⟩,
     ⟨"REP_LEFT", 11, 8, .ro, 0, 0, 15⟩,
     ⟨"REP", 3, 0, .rw, 8, 1, 15⟩]⟩,
  ⟨"RX_CTL", 0x200, 0x0, 1,
    [⟨"TRAIN_SRC", 11, 10, .rw, 0, 0, 2⟩,
     ⟨"RETRAIN_EN", 9, 9, .rw, 1, 0, 1⟩,
     ⟨"PRECODE", 8, 8, .rw, 0, 0, 1⟩,
     ⟨"POL_INV", 0, 0, .rw, 0, 0, 1⟩]⟩]

/-- Registers of block LN (R63, R96, R120, R152, R513, R533). -/
def regsLn1 : List RegDesc := [
  ⟨"RX_STAT", 0x204, 0x0, 1,
    [⟨"RETRY", 23, 20, .ro, 0, 0, 15⟩,
     ⟨"DFE_N", 19, 18, .ro, 0, 0, 3⟩,
     ⟨"MEM", 17, 16, .ro, 0, 0, 3⟩,
     ⟨"TRAINED_CATCH", 10, 10, .ro, 0, 0, 1⟩,
     ⟨"LOCK", 9, 9, .ro, 0, 0, 1⟩,
     ⟨"SIGDET", 8, 8, .ro, 0, 0, 1⟩,
     ⟨"STATE", 3, 0, .ro, 0, 0, 15⟩]⟩,
  ⟨"RX_AFE", 0x208, 0x0, 1,
    [⟨"CTLE_AUTO", 31, 31, .rw, 1, 0, 1⟩,
     ⟨"CTLE", 27, 24, .rw, 6, 0, 15⟩,
     ⟨"VGA_AUTO", 23, 23, .rw, 1, 0, 1⟩,
     ⟨"VGA", 14, 8, .rw, 24, 0, 104⟩,
     ⟨"VGA_TARGET", 5, 0, .rw, 24, 0, 48⟩]⟩,
  ⟨"FDE_CTL", 0x20C, 0x0, 1,
    [⟨"FREEZE", 31, 31, .rw, 0, 0, 1⟩,
     ⟨"K_TRACK", 11, 8, .rw, 10, 6, 14⟩]⟩,
  ⟨"FDE_SEL", 0x210, 0x0, 1,
    [⟨"BIN", 7, 0, .rw, 0, 0, 255⟩]⟩,
  ⟨"FDE_TAP", 0x214, 0x0, 1,
    [⟨"VALID", 31, 31, .ro, 0, 0, 1⟩,
     ⟨"FRESH", 30, 30, .ro, 0, 0, 1⟩,
     ⟨"RE", 29, 15, .ro, 0, 0, 32767⟩,
     ⟨"IM", 14, 0, .ro, 0, 0, 32767⟩]⟩,
  ⟨"DFE_CTL", 0x218, 0x0, 1,
    [⟨"FREEZE", 31, 31, .rw, 0, 0, 1⟩,
     ⟨"N_AUTO", 2, 2, .rw, 1, 0, 1⟩,
     ⟨"N", 1, 0, .rw, 1, 0, 3⟩]⟩,
  ⟨"DFE_TAP", 0x21C, 0x0, 1,
    [⟨"TAP3", 29, 20, .ro, 0, 0, 1023⟩,
     ⟨"TAP2", 19, 10, .ro, 0, 0, 1023⟩,
     ⟨"TAP1", 9, 0, .ro, 0, 0, 1023⟩]⟩,
  ⟨"TRELLIS", 0x220, 0x0, 1,
    [⟨"MEM_AUTO", 31, 31, .rw, 1, 0, 1⟩,
     ⟨"MEM", 25, 24, .rw, 1, 1, 2⟩,
     ⟨"G2", 15, 8, .ro, 0, 0, 255⟩,
     ⟨"G1", 7, 0, .ro, 0, 0, 255⟩]⟩,
  ⟨"MERIT", 0x224, 0x0, 1,
    [⟨"VALID", 31, 31, .ro, 0, 0, 1⟩,
     ⟨"FRESH", 30, 30, .ro, 0, 0, 1⟩,
     ⟨"STALE", 29, 29, .ro, 0, 0, 1⟩,
     ⟨"WIN_SEQ", 23, 16, .ro, 0, 0, 255⟩,
     ⟨"MERIT", 7, 0, .ro, 0, 0, 255⟩]⟩,
  ⟨"ADAPT", 0x228, 0x0, 1,
    [⟨"RETRY_MAX", 31, 28, .rw, 4, 1, 15⟩,
     ⟨"RETRAIN_CNT", 27, 24, .rw, 4, 1, 15⟩,
     ⟨"LOCK_THR", 23, 16, .rw, 36, 0, 255⟩,
     ⟨"RETRAIN_THR", 15, 8, .rw, 32, 0, 255⟩,
     ⟨"CATCH_WAIT", 7, 0, .rw, 100, 1, 255⟩]⟩,
  ⟨"RX_TIMING", 0x22C, 0x0, 1,
    [⟨"FREQ_OFS", 15, 0, .ro, 0, 0, 65535⟩]⟩,
  ⟨"RX_EVENT", 0x230, 0x0, 1,
    [⟨"FAILED", 5, 5, .w1c, 0, 0, 1⟩,
     ⟨"TRAIN_FALLBACK", 4, 4, .w1c, 0, 0, 1⟩,
     ⟨"RETRAIN", 3, 3, .w1c, 0, 0, 1⟩,
     ⟨"LOCK_LOST", 2, 2, .w1c, 0, 0, 1⟩,
     ⟨"LOS", 1, 1, .w1c, 0, 0, 1⟩,
     ⟨"LOCK_GAINED", 0, 0, .w1c, 0, 0, 1⟩]⟩,
  ⟨"RX_EVENT_EN", 0x234, 0x0, 1,
    [⟨"EN", 5, 0, .rw, 36, 0, 63⟩]⟩,
  ⟨"CAL_CTL", 0x300, 0x0, 1,
    [⟨"EN", 31, 31, .rw, 1, 0, 1⟩,
     ⟨"RUN", 30, 30, .w1s, 0, 0, 1⟩,
     ⟨"FAIL_MAX", 27, 24, .rw, 4, 1, 15⟩,
     ⟨"WIN_LOG2", 20, 16, .rw, 24, 20, 28⟩,
     ⟨"INTERVAL", 9, 0, .rw, 100, 1, 1000⟩]⟩,
  ⟨"CAL_STAT", 0x304, 0x0, 1,
    [⟨"FAIL_Q", 31, 28, .ro, 0, 0, 15⟩,
     ⟨"FAIL_CNT", 23, 20, .ro, 0, 0, 15⟩,
     ⟨"PASS_SEQ", 15, 8, .ro, 0, 0, 255⟩,
     ⟨"PAUSED", 2, 2, .ro, 0, 0, 1⟩,
     ⟨"PHASE", 1, 0, .ro, 0, 0, 3⟩]⟩,
  ⟨"CAL_LIM0", 0x308, 0x0, 1,
    [⟨"GAIN", 31, 16, .rw, 600, 1, 1000⟩,
     ⟨"OFS", 15, 0, .rw, 512, 1, 1024⟩]⟩]

/-- Registers of block LN (R63, R96, R120, R152, R513, R533). -/
def regsLn2 : List RegDesc := [
  ⟨"CAL_LIM1", 0x30C, 0x0, 1,
    [⟨"SKEW", 31, 16, .rw, 150, 1, 300⟩,
     ⟨"BW", 15, 0, .rw, 500, 1, 1000⟩]⟩,
  ⟨"CAL_SEL", 0x310, 0x0, 1,
    [⟨"SET", 10, 8, .rw, 7, 0, 7⟩,
     ⟨"QTY", 5, 4, .rw, 0, 0, 3⟩,
     ⟨"SLICE", 3, 0, .rw, 0, 0, 15⟩]⟩,
  ⟨"CAL_VAL", 0x314, 0x0, 1,
    [⟨"VALID", 31, 31, .ro, 0, 0, 1⟩,
     ⟨"FRESH", 30, 30, .ro, 0, 0, 1⟩,
     ⟨"STALE", 29, 29, .ro, 0, 0, 1⟩,
     ⟨"VALUE", 15, 0, .ro, 0, 0, 65535⟩]⟩,
  ⟨"CAL_TEMP", 0x318, 0x0, 1,
    [⟨"PASS_T", 31, 16, .ro, 0, 0, 65535⟩,
     ⟨"T", 15, 0, .ro, 0, 0, 65535⟩]⟩,
  ⟨"CAL_EVENT", 0x31C, 0x0, 1,
    [⟨"ABANDON", 3, 3, .w1c, 0, 0, 1⟩,
     ⟨"FAIL_LIMIT", 2, 2, .w1c, 0, 0, 1⟩,
     ⟨"PASS_FAIL", 1, 1, .w1c, 0, 0, 1⟩,
     ⟨"PASS_DONE", 0, 0, .w1c, 0, 0, 1⟩]⟩,
  ⟨"CAL_EVENT_EN", 0x320, 0x0, 1,
    [⟨"EN", 3, 0, .rw, 6, 0, 15⟩]⟩,
  ⟨"WAKE_CTL", 0x400, 0x0, 1,
    [⟨"MISS_TRAIN", 31, 31, .rw, 1, 0, 1⟩,
     ⟨"MISS_US", 23, 16, .rw, 1, 1, 255⟩,
     ⟨"CATCH_THR", 7, 0, .rw, 128, 64, 240⟩]⟩,
  ⟨"WAKE_CNT", 0x404, 0x0, 1,
    [⟨"FALSE", 31, 16, .ro, 0, 0, 65535⟩,
     ⟨"RESTART", 15, 8, .ro, 0, 0, 255⟩,
     ⟨"MISS", 7, 4, .ro, 0, 0, 15⟩,
     ⟨"REALIGN", 3, 0, .ro, 0, 0, 15⟩]⟩,
  ⟨"FEC_CTL", 0x408, 0x0, 1,
    [⟨"CLR", 31, 31, .w1s, 0, 0, 1⟩,
     ⟨"DEG_WIN", 4, 0, .rw, 20, 16, 28⟩]⟩,
  ⟨"FEC_STAT", 0x40C, 0x0, 1,
    [⟨"SF_LOCK", 2, 2, .ro, 0, 0, 1⟩,
     ⟨"ALIGN", 1, 1, .ro, 0, 0, 1⟩,
     ⟨"DEGRADED", 0, 0, .ro, 0, 0, 1⟩]⟩,
  ⟨"FEC_DEG", 0x410, 0x0, 1,
    [⟨"SET", 31, 16, .rw, 1678, 0, 65535⟩,
     ⟨"CLR", 15, 0, .rw, 168, 0, 65535⟩]⟩,
  ⟨"FEC_PAIR_LO", 0x414, 0x8, 5,
    [⟨"COUNT", 31, 0, .ro, 0, 0, 4294967295⟩]⟩,
  ⟨"FEC_PAIR_HI", 0x418, 0x8, 5,
    [⟨"OVF", 31, 31, .ro, 0, 0, 1⟩,
     ⟨"COUNT", 15, 0, .ro, 0, 0, 65535⟩]⟩,
  ⟨"FEC_HIST_SEL", 0x43C, 0x0, 1,
    [⟨"BIN", 4, 0, .rw, 0, 0, 16⟩]⟩,
  ⟨"FEC_HIST", 0x440, 0x0, 1,
    [⟨"COUNT", 31, 0, .ro, 0, 0, 4294967295⟩]⟩,
  ⟨"FEC_EVENT", 0x444, 0x0, 1,
    [⟨"MISS", 5, 5, .w1c, 0, 0, 1⟩,
     ⟨"REALIGN", 4, 4, .w1c, 0, 0, 1⟩,
     ⟨"ALIGN_LOST", 3, 3, .w1c, 0, 0, 1⟩,
     ⟨"DEG_CLR", 2, 2, .w1c, 0, 0, 1⟩,
     ⟨"DEG_SET", 1, 1, .w1c, 0, 0, 1⟩,
     ⟨"UNCORR", 0, 0, .w1c, 0, 0, 1⟩]⟩]

/-- Registers of block LN (R63, R96, R120, R152, R513, R533). -/
def regsLn3 : List RegDesc := [
  ⟨"FEC_EVENT_EN", 0x448, 0x0, 1,
    [⟨"EN", 5, 0, .rw, 46, 0, 63⟩]⟩,
  ⟨"PRBS_STAT", 0x500, 0x0, 1,
    [⟨"SYNC", 31, 31, .ro, 0, 0, 1⟩,
     ⟨"GEN", 30, 30, .ro, 0, 0, 1⟩,
     ⟨"CHK", 29, 29, .ro, 0, 0, 1⟩,
     ⟨"PATTERN", 28, 26, .ro, 0, 0, 7⟩,
     ⟨"LOOP", 25, 24, .ro, 0, 0, 3⟩,
     ⟨"SYNC_LOSS", 23, 16, .ro, 0, 0, 255⟩,
     ⟨"INJ", 15, 0, .ro, 0, 0, 65535⟩]⟩,
  ⟨"PRBS_BITS_LO", 0x504, 0x0, 1,
    [⟨"COUNT", 31, 0, .ro, 0, 0, 4294967295⟩]⟩,
  ⟨"PRBS_BITS_HI", 0x508, 0x0, 1,
    [⟨"OVF", 31, 31, .ro, 0, 0, 1⟩,
     ⟨"COUNT", 15, 0, .ro, 0, 0, 65535⟩]⟩,
  ⟨"PRBS_ERR_LO", 0x50C, 0x0, 1,
    [⟨"COUNT", 31, 0, .ro, 0, 0, 4294967295⟩]⟩,
  ⟨"PRBS_ERR_HI", 0x510, 0x0, 1,
    [⟨"OVF", 31, 31, .ro, 0, 0, 1⟩,
     ⟨"COUNT", 15, 0, .ro, 0, 0, 65535⟩]⟩,
  ⟨"MAC_CFG", 0x800, 0x0, 1,
    [⟨"PROMISC", 16, 16, .rw, 0, 0, 1⟩,
     ⟨"MAX_FRAME", 13, 0, .rw, 9216, 1518, 9216⟩]⟩,
  ⟨"MAC_ADDR_LO", 0x804, 0x0, 1,
    [⟨"ADDR", 31, 0, .rw, 0, 0, 4294967295⟩]⟩,
  ⟨"MAC_ADDR_HI", 0x808, 0x0, 1,
    [⟨"ADDR", 15, 0, .rw, 0, 0, 65535⟩]⟩]

/-- Every register of block LN. -/
def regsLn : List RegDesc :=
  regsLn0 ++ regsLn1 ++ regsLn2 ++ regsLn3

/-- Registers of block LOOM (R239, R267, R533). -/
def regsLoom0 : List RegDesc := [
  ⟨"ING_STAT", 0x1000, 0x0, 1,
    [⟨"ENTRIES", 28, 16, .ro, 0, 0, 8191⟩,
     ⟨"PORTS", 10, 0, .ro, 0, 0, 2047⟩]⟩,
  ⟨"ING_CTL", 0x1004, 0x0, 1,
    [⟨"CNT_CLR", 0, 0, .w1s, 0, 0, 1⟩]⟩,
  ⟨"PUNT_CFG", 0x1010, 0x4, 6,
    [⟨"EN", 31, 31, .rw, 1, 0, 1⟩,
     ⟨"QP", 23, 16, .rw, 0, 0, 255⟩,
     ⟨"BURST", 15, 8, .rw, 64, 1, 255⟩,
     ⟨"RATE", 7, 0, .rw, 10, 0, 255⟩]⟩,
  ⟨"PUNT_DROP", 0x1030, 0x4, 6,
    [⟨"COUNT", 31, 0, .ro, 0, 0, 4294967295⟩]⟩,
  ⟨"ISP_SEL", 0x1100, 0x0, 1,
    [⟨"PORT", 9, 0, .rw, 0, 0, 1023⟩]⟩,
  ⟨"ISP_STAT", 0x1104, 0x0, 1,
    [⟨"VALID", 31, 31, .ro, 0, 0, 1⟩,
     ⟨"FRESH", 30, 30, .ro, 0, 0, 1⟩,
     ⟨"ESSENCE", 22, 20, .ro, 0, 0, 7⟩,
     ⟨"MERGE", 19, 19, .ro, 0, 0, 1⟩,
     ⟨"OWNER", 12, 8, .ro, 0, 0, 31⟩,
     ⟨"LEG_B", 5, 4, .ro, 0, 0, 3⟩,
     ⟨"LEG_A", 3, 2, .ro, 0, 0, 3⟩,
     ⟨"STATE", 1, 0, .ro, 0, 0, 3⟩]⟩,
  ⟨"ISP_CNT", 0x1108, 0x0, 1,
    [⟨"LOST", 31, 16, .ro, 0, 0, 65535⟩,
     ⟨"LATE", 15, 0, .ro, 0, 0, 65535⟩]⟩,
  ⟨"ING_EVENT", 0x1200, 0x0, 1,
    [⟨"FEED_OVF", 1, 1, .w1c, 0, 0, 1⟩,
     ⟨"PUNT_DROP", 0, 0, .w1c, 0, 0, 1⟩]⟩,
  ⟨"ING_EVENT_EN", 0x1204, 0x0, 1,
    [⟨"EN", 1, 0, .rw, 3, 0, 3⟩]⟩,
  ⟨"EGR_STAT", 0x2000, 0x0, 1,
    [⟨"RULES", 22, 16, .ro, 0, 0, 127⟩,
     ⟨"PORTS", 10, 0, .ro, 0, 0, 2047⟩]⟩,
  ⟨"EGR_CTL", 0x2004, 0x0, 1,
    [⟨"CNT_CLR", 0, 0, .w1s, 0, 0, 1⟩]⟩,
  ⟨"ESP_SEL", 0x2100, 0x0, 1,
    [⟨"PORT", 9, 0, .rw, 0, 0, 1023⟩]⟩,
  ⟨"ESP_STAT", 0x2104, 0x0, 1,
    [⟨"VALID", 31, 31, .ro, 0, 0, 1⟩,
     ⟨"FRESH", 30, 30, .ro, 0, 0, 1⟩,
     ⟨"ESSENCE", 26, 24, .ro, 0, 0, 7⟩,
     ⟨"PACING", 23, 22, .ro, 0, 0, 3⟩,
     ⟨"LOSS_MODE", 21, 20, .ro, 0, 0, 3⟩,
     ⟨"STK", 19, 18, .ro, 0, 0, 3⟩,
     ⟨"TAKE_PEND", 17, 17, .ro, 0, 0, 1⟩,
     ⟨"REWIND_PEND", 16, 16, .ro, 0, 0, 1⟩,
     ⟨"OWNER", 12, 8, .ro, 0, 0, 31⟩,
     ⟨"EP", 6, 4, .ro, 0, 0, 7⟩,
     ⟨"STATE", 1, 0, .ro, 0, 0, 3⟩]⟩,
  ⟨"ESP_SHOWN", 0x2108, 0x0, 1,
    [⟨"INDEX", 31, 0, .ro, 0, 0, 4294967295⟩]⟩,
  ⟨"ESP_CNT0", 0x210C, 0x0, 1,
    [⟨"REPEAT", 31, 16, .ro, 0, 0, 65535⟩,
     ⟨"DROP", 15, 0, .ro, 0, 0, 65535⟩]⟩,
  ⟨"ESP_CNT1", 0x2110, 0x0, 1,
    [⟨"LOSS", 31, 16, .ro, 0, 0, 65535⟩,
     ⟨"PACE_LATE", 15, 8, .ro, 0, 0, 255⟩,
     ⟨"TORN", 7, 0, .ro, 0, 0, 255⟩]⟩]

/-- Registers of block LOOM (R239, R267, R533). -/
def regsLoom1 : List RegDesc := [
  ⟨"EXP_SEL", 0x2200, 0x0, 1,
    [⟨"RULE", 5, 0, .rw, 0, 0, 63⟩]⟩,
  ⟨"EXP_CNT", 0x2204, 0x0, 1,
    [⟨"DROPPED", 31, 16, .ro, 0, 0, 65535⟩,
     ⟨"FORWARDED", 15, 0, .ro, 0, 0, 65535⟩]⟩,
  ⟨"EXP_DROP", 0x2210, 0x4, 8,
    [⟨"COUNT", 31, 0, .ro, 0, 0, 4294967295⟩]⟩,
  ⟨"EGR_EVENT", 0x2300, 0x0, 1,
    [⟨"PACE_LATE", 2, 2, .w1c, 0, 0, 1⟩,
     ⟨"TORN", 1, 1, .w1c, 0, 0, 1⟩,
     ⟨"EXP_DROP", 0, 0, .w1c, 0, 0, 1⟩]⟩,
  ⟨"EGR_EVENT_EN", 0x2304, 0x0, 1,
    [⟨"EN", 2, 0, .rw, 3, 0, 7⟩]⟩,
  ⟨"CNT_CFG", 0x3000, 0x10, 32,
    [⟨"EN", 31, 31, .rw, 0, 0, 1⟩,
     ⟨"OVF", 30, 30, .w1c, 0, 0, 1⟩,
     ⟨"SRC", 7, 0, .rw, 0, 0, 255⟩]⟩,
  ⟨"CNT_FILT", 0x3004, 0x10, 32,
    [⟨"PRIV", 31, 30, .rw, 0, 0, 3⟩,
     ⟨"MKIND", 29, 28, .rw, 0, 0, 3⟩,
     ⟨"MASTER", 27, 21, .rw, 0, 0, 127⟩,
     ⟨"ADDR_EN", 20, 20, .rw, 0, 0, 1⟩,
     ⟨"CLASS", 19, 16, .rw, 0, 0, 15⟩,
     ⟨"ALL", 15, 15, .rw, 0, 0, 1⟩,
     ⟨"OBJ", 9, 0, .rw, 0, 0, 1023⟩]⟩,
  ⟨"CNT_VAL_LO", 0x3008, 0x10, 32,
    [⟨"VAL", 31, 0, .ro, 0, 0, 4294967295⟩]⟩,
  ⟨"CNT_VAL_HI", 0x300C, 0x10, 32,
    [⟨"OVF", 31, 31, .ro, 0, 0, 1⟩,
     ⟨"VAL", 15, 0, .ro, 0, 0, 65535⟩]⟩]

/-- Every register of block LOOM. -/
def regsLoom : List RegDesc :=
  regsLoom0 ++ regsLoom1

/-- Registers of block BM (R294, R533). -/
def regsBm : List RegDesc := [
  ⟨"STAT", 0x0, 0x0, 1,
    [⟨"REF_MULT", 5, 4, .ro, 0, 0, 3⟩,
     ⟨"SELF_REF", 3, 3, .ro, 0, 0, 1⟩,
     ⟨"FAILED", 2, 2, .ro, 0, 0, 1⟩,
     ⟨"TRAINED", 1, 1, .ro, 0, 0, 1⟩]⟩,
  ⟨"CTL", 0x4, 0x0, 1,
    [⟨"CNT_CLR", 1, 1, .w1s, 0, 0, 1⟩,
     ⟨"SRST", 0, 0, .w1s, 0, 0, 1⟩]⟩,
  ⟨"SCRUB_CTL", 0x8, 0x0, 1,
    [⟨"EN", 31, 31, .rw, 0, 0, 1⟩,
     ⟨"PERIOD_H", 4, 0, .rw, 24, 1, 24⟩]⟩,
  ⟨"SCRUB_STAT", 0xC, 0x0, 1,
    [⟨"PROGRESS", 31, 24, .ro, 0, 0, 255⟩,
     ⟨"PASSES", 15, 0, .ro, 0, 0, 65535⟩]⟩,
  ⟨"ECC_CNT0", 0x10, 0x0, 1,
    [⟨"CE1", 31, 16, .ro, 0, 0, 65535⟩,
     ⟨"CE2", 15, 0, .ro, 0, 0, 65535⟩]⟩,
  ⟨"ECC_CNT1", 0x14, 0x0, 1,
    [⟨"CHK", 31, 16, .ro, 0, 0, 65535⟩,
     ⟨"UE", 15, 0, .ro, 0, 0, 65535⟩]⟩,
  ⟨"ECC_CNT2", 0x18, 0x0, 1,
    [⟨"POISON", 31, 16, .ro, 0, 0, 65535⟩,
     ⟨"REPAIRED", 15, 0, .ro, 0, 0, 65535⟩]⟩,
  ⟨"CNT_CFG", 0x100, 0x10, 8,
    [⟨"EN", 31, 31, .rw, 0, 0, 1⟩,
     ⟨"OVF", 30, 30, .w1c, 0, 0, 1⟩,
     ⟨"SRC", 7, 0, .rw, 0, 0, 255⟩]⟩,
  ⟨"CNT_FILT", 0x104, 0x10, 8,
    [⟨"PRIV", 31, 30, .rw, 0, 0, 3⟩,
     ⟨"MKIND", 29, 28, .rw, 0, 0, 3⟩,
     ⟨"MASTER", 27, 21, .rw, 0, 0, 127⟩,
     ⟨"ADDR_EN", 20, 20, .rw, 0, 0, 1⟩,
     ⟨"CLASS", 19, 16, .rw, 0, 0, 15⟩,
     ⟨"ALL", 15, 15, .rw, 0, 0, 1⟩,
     ⟨"OBJ", 9, 0, .rw, 0, 0, 1023⟩]⟩,
  ⟨"CNT_VAL_LO", 0x108, 0x10, 8,
    [⟨"VAL", 31, 0, .ro, 0, 0, 4294967295⟩]⟩,
  ⟨"CNT_VAL_HI", 0x10C, 0x10, 8,
    [⟨"OVF", 31, 31, .ro, 0, 0, 1⟩,
     ⟨"VAL", 15, 0, .ro, 0, 0, 65535⟩]⟩,
  ⟨"CNT_ADDR_LO_LO", 0x180, 0x0, 1,
    [⟨"ADDR", 31, 6, .rw, 0, 0, 67108863⟩]⟩,
  ⟨"CNT_ADDR_LO_HI", 0x184, 0x0, 1,
    [⟨"ADDR", 8, 0, .rw, 0, 0, 511⟩]⟩,
  ⟨"CNT_ADDR_HI_LO", 0x188, 0x0, 1,
    [⟨"ADDR", 31, 6, .rw, 0, 0, 67108863⟩]⟩,
  ⟨"CNT_ADDR_HI_HI", 0x18C, 0x0, 1,
    [⟨"ADDR", 8, 0, .rw, 0, 0, 511⟩]⟩]

/-- Registers of block BMW (R294, R566). -/
def regsBmw : List RegDesc := [
  ⟨"BAR2_BASE", 0x8000, 0x0, 1,
    [⟨"BASE", 10, 0, .rw, 0, 0, 2047⟩]⟩,
  ⟨"LOG_STAT", 0x8004, 0x0, 1,
    [⟨"COUNT", 22, 16, .ro, 0, 0, 127⟩,
     ⟨"LOST", 15, 0, .ro, 0, 0, 65535⟩]⟩,
  ⟨"LOG_POP", 0x8008, 0x0, 1,
    [⟨"POP", 0, 0, .w1s, 0, 0, 1⟩]⟩,
  ⟨"LOG_E0", 0x8010, 0x0, 1,
    [⟨"ADDR", 31, 0, .ro, 0, 0, 4294967295⟩]⟩,
  ⟨"LOG_E1", 0x8014, 0x0, 1,
    [⟨"KIND", 31, 28, .ro, 0, 0, 15⟩,
     ⟨"SRC", 27, 25, .ro, 0, 0, 7⟩,
     ⟨"REPEAT", 24, 16, .ro, 0, 0, 511⟩,
     ⟨"ADDR", 8, 0, .ro, 0, 0, 511⟩]⟩,
  ⟨"LOG_E2", 0x8018, 0x0, 1,
    [⟨"SYNDROME", 31, 16, .ro, 0, 0, 65535⟩,
     ⟨"SEC", 15, 0, .ro, 0, 0, 65535⟩]⟩,
  ⟨"LOG_E3", 0x801C, 0x0, 1,
    [⟨"NS", 29, 0, .ro, 0, 0, 1073741823⟩]⟩,
  ⟨"BEAM_EVENT", 0x8020, 0x0, 1,
    [⟨"SCRUB_PASS", 4, 4, .w1c, 0, 0, 1⟩,
     ⟨"TRAIN_FAIL", 3, 3, .w1c, 0, 0, 1⟩,
     ⟨"LOG_LOST", 2, 2, .w1c, 0, 0, 1⟩,
     ⟨"POISON", 1, 1, .w1c, 0, 0, 1⟩,
     ⟨"UE", 0, 0, .w1c, 0, 0, 1⟩]⟩,
  ⟨"BEAM_EVENT_EN", 0x8024, 0x0, 1,
    [⟨"EN", 4, 0, .rw, 15, 0, 31⟩]⟩]

/-- Registers of block SH (R335, R533, R534). -/
def regsSh0 : List RegDesc := [
  ⟨"CTL", 0x0, 0x0, 1,
    [⟨"SRST", 0, 0, .w1s, 0, 0, 1⟩]⟩,
  ⟨"STAT", 0x4, 0x0, 1,
    [⟨"HOUSE", 31, 31, .ro, 0, 0, 1⟩,
     ⟨"CLUSTER", 27, 24, .ro, 0, 0, 15⟩,
     ⟨"SAT", 9, 9, .ro, 0, 0, 1⟩,
     ⟨"CLIP", 8, 8, .ro, 0, 0, 1⟩,
     ⟨"BLOCKED", 7, 6, .ro, 0, 0, 3⟩,
     ⟨"HALT_SRC", 5, 4, .ro, 0, 0, 3⟩,
     ⟨"STATE", 2, 0, .ro, 0, 0, 7⟩]⟩,
  ⟨"PC", 0x8, 0x0, 1,
    [⟨"PC", 15, 0, .ro, 0, 0, 65535⟩]⟩,
  ⟨"FAULT", 0xC, 0x0, 1,
    [⟨"KIND", 31, 28, .ro, 0, 0, 15⟩,
     ⟨"FPC", 15, 0, .ro, 0, 0, 65535⟩]⟩,
  ⟨"IMAGE", 0x10, 0x0, 1,
    [⟨"IMG_VER", 31, 16, .ro, 0, 0, 65535⟩,
     ⟨"KEY_SLOT", 1, 0, .ro, 0, 0, 3⟩]⟩,
  ⟨"Q_SEL", 0x14, 0x0, 1,
    [⟨"SEL", 3, 0, .rw, 0, 0, 15⟩]⟩,
  ⟨"Q_STAT", 0x18, 0x0, 1,
    [⟨"ACTIVE", 31, 31, .ro, 0, 0, 1⟩,
     ⟨"SRC", 26, 16, .ro, 0, 0, 2047⟩,
     ⟨"LEVEL", 10, 0, .ro, 0, 0, 2047⟩]⟩,
  ⟨"MBOX", 0x1C, 0x0, 1,
    [⟨"SEND_DROP", 31, 16, .ro, 0, 0, 65535⟩,
     ⟨"LEVEL", 4, 0, .ro, 0, 0, 31⟩]⟩,
  ⟨"EVENT", 0x20, 0x0, 1,
    [⟨"HOUSE_RESTART", 4, 4, .w1c, 0, 0, 1⟩,
     ⟨"OUT_RESYNC", 3, 3, .w1c, 0, 0, 1⟩,
     ⟨"SEND_DROP", 2, 2, .w1c, 0, 0, 1⟩,
     ⟨"FAULT", 1, 1, .w1c, 0, 0, 1⟩,
     ⟨"HALTED", 0, 0, .w1c, 0, 0, 1⟩]⟩,
  ⟨"EVENT_EN", 0x24, 0x0, 1,
    [⟨"EN", 4, 0, .rw, 19, 0, 31⟩]⟩,
  ⟨"CNT_CFG", 0x40, 0x10, 4,
    [⟨"EN", 31, 31, .rw, 0, 0, 1⟩,
     ⟨"OVF", 30, 30, .w1c, 0, 0, 1⟩,
     ⟨"SRC", 7, 0, .rw, 0, 0, 255⟩]⟩,
  ⟨"CNT_FILT", 0x44, 0x10, 4,
    [⟨"PRIV", 31, 30, .rw, 0, 0, 3⟩,
     ⟨"MKIND", 29, 28, .rw, 0, 0, 3⟩,
     ⟨"MASTER", 27, 21, .rw, 0, 0, 127⟩,
     ⟨"ADDR_EN", 20, 20, .rw, 0, 0, 1⟩,
     ⟨"CLASS", 19, 16, .rw, 0, 0, 15⟩,
     ⟨"ALL", 15, 15, .rw, 0, 0, 1⟩,
     ⟨"OBJ", 9, 0, .rw, 0, 0, 1023⟩]⟩,
  ⟨"CNT_VAL_LO", 0x48, 0x10, 4,
    [⟨"VAL", 31, 0, .ro, 0, 0, 4294967295⟩]⟩,
  ⟨"CNT_VAL_HI", 0x4C, 0x10, 4,
    [⟨"OVF", 31, 31, .ro, 0, 0, 1⟩,
     ⟨"VAL", 15, 0, .ro, 0, 0, 65535⟩]⟩,
  ⟨"TAG_CTL", 0x80, 0x0, 1,
    [⟨"EN", 31, 31, .rw, 0, 0, 1⟩,
     ⟨"K", 4, 0, .rw, 10, 4, 16⟩]⟩,
  ⟨"TAG_PC", 0x84, 0x0, 1,
    [⟨"VALID", 31, 31, .ro, 0, 0, 1⟩,
     ⟨"FRESH", 30, 30, .ro, 0, 0, 1⟩,
     ⟨"PC", 15, 0, .ro, 0, 0, 65535⟩]⟩]

/-- Registers of block SH (R335, R533, R534). -/
def regsSh1 : List RegDesc := [
  ⟨"TAG_STAGE", 0x88, 0x0, 1,
    [⟨"CYC", 29, 0, .ro, 0, 0, 1073741823⟩]⟩]

/-- Every register of block SH. -/
def regsSh : List RegDesc :=
  regsSh0 ++ regsSh1

/-- Registers of block WIN (R368, R369). -/
def regsWin : List RegDesc := [
  ⟨"VF_ID", 0x0, 0x0, 1,
    [⟨"FN", 4, 0, .ro, 0, 0, 31⟩]⟩,
  ⟨"VF_REJ_LAST", 0x4, 0x0, 1,
    [⟨"STATUS", 31, 24, .ro, 0, 0, 255⟩,
     ⟨"WR", 23, 23, .ro, 0, 0, 1⟩,
     ⟨"OFFSET", 15, 0, .ro, 0, 0, 65535⟩]⟩,
  ⟨"VF_REJ_CNT", 0x8, 0x0, 1,
    [⟨"COUNT", 31, 0, .ro, 0, 0, 4294967295⟩]⟩,
  ⟨"VF_NUDGE", 0x10, 0x0, 1,
    [⟨"ANY", 31, 0, .wo, 0, 0, 4294967295⟩]⟩]

/-- Registers of a function's MSI-X table and PBA (R364; PRESUMED from the PCIe Base Specification: 16 bytes a
vector, vector control bit 0 masks the vector and is 1 at reset). -/
def regsMsix : List RegDesc := [
  ⟨"MSG_ADDR", 0x0, 0x10, 32, [⟨"ADDR", 31, 2, .rw, 0, 0, 1073741823⟩]⟩,
  ⟨"MSG_UPPER", 0x4, 0x10, 32, [⟨"ADDR", 31, 0, .rw, 0, 0, 4294967295⟩]⟩,
  ⟨"MSG_DATA", 0x8, 0x10, 32, [⟨"DATA", 31, 0, .rw, 0, 0, 4294967295⟩]⟩,
  ⟨"VEC_CTRL", 0xC, 0x10, 32, [⟨"MASK", 0, 0, .rw, 1, 0, 1⟩]⟩,
  ⟨"PBA", 0x1000, 0x4, 2, [⟨"PENDING", 31, 0, .ro, 0, 0, 4294967295⟩]⟩]

/-- The register table of a block (R564). -/
def regTable : Blk → List RegDesc
  | .sys => regsSys
  | .pci => regsPci
  | .que => regsQue
  | .nq => regsNq
  | .qp => regsQp
  | .drf => regsDrf
  | .chk => regsChk
  | .ck => regsCk
  | .stk => regsStk
  | .gen => regsGen
  | .cox => regsCox
  | .cx => regsCx
  | .mon => regsMon
  | .ch => regsCh
  | .mgt => regsMgt
  | .bias => regsBias
  | .pwr => regsPwr
  | .thm => regsThm
  | .sec => regsSec
  | .anc => regsAnc
  | .tst => regsTst
  | .split => regsSplit
  | .ln => regsLn
  | .loom => regsLoom
  | .bm => regsBm
  | .bmw => regsBmw
  | .sh => regsSh
  | .win => regsWin
  | .msix => regsMsix

end Sys2Proof.Machine
end

