-- ==== Sys2Proof/Machine/Fields.lean ====
section
/-! DEFINITION. The names of the registers and fields of the spec's register tables (R564): `r…` is a register,
`f…` a field of it. A block with several instances takes the instance first, a register kind that repeats within
its block takes its index after it. -/

namespace Sys2Proof.Machine

/-- A field of a register, bits `hi:lo`. -/
structure FldId where
  reg : RegId
  hi  : Nat
  lo  : Nat
  deriving DecidableEq, Repr

abbrev rSys_READY : RegId := ⟨.sys, 0, 0x0⟩
abbrev fSys_READY_READY : FldId := ⟨rSys_READY, 31, 31⟩
abbrev fSys_READY_PHASE : FldId := ⟨rSys_READY, 27, 24⟩
abbrev rSys_CAUSE : RegId := ⟨.sys, 0, 0x4⟩
abbrev fSys_CAUSE_PERST : FldId := ⟨rSys_CAUSE, 2, 2⟩
abbrev fSys_CAUSE_POR_PIN : FldId := ⟨rSys_CAUSE, 1, 1⟩
abbrev fSys_CAUSE_POR_RAIL : FldId := ⟨rSys_CAUSE, 0, 0⟩
abbrev rSys_STRAPS : RegId := ⟨.sys, 0, 0x8⟩
abbrev fSys_STRAPS_TEST_MODE : FldId := ⟨rSys_STRAPS, 4, 4⟩
abbrev fSys_STRAPS_STRAP : FldId := ⟨rSys_STRAPS, 3, 0⟩
abbrev rSys_READY_MS : RegId := ⟨.sys, 0, 0xC⟩
abbrev fSys_READY_MS_MS : FldId := ⟨rSys_READY_MS, 15, 0⟩
abbrev rSys_REJ_STAT : RegId := ⟨.sys, 0, 0x100⟩
abbrev fSys_REJ_STAT_LOST : FldId := ⟨rSys_REJ_STAT, 31, 16⟩
abbrev fSys_REJ_STAT_COUNT : FldId := ⟨rSys_REJ_STAT, 5, 0⟩
abbrev rSys_REJ_POP : RegId := ⟨.sys, 0, 0x104⟩
abbrev fSys_REJ_POP_POP : FldId := ⟨rSys_REJ_POP, 0, 0⟩
abbrev rSys_REJ_E0 : RegId := ⟨.sys, 0, 0x108⟩
abbrev fSys_REJ_E0_OFFSET : FldId := ⟨rSys_REJ_E0, 29, 0⟩
abbrev rSys_REJ_E1 : RegId := ⟨.sys, 0, 0x10C⟩
abbrev fSys_REJ_E1_STATUS : FldId := ⟨rSys_REJ_E1, 31, 24⟩
abbrev fSys_REJ_E1_FUNC : FldId := ⟨rSys_REJ_E1, 23, 19⟩
abbrev fSys_REJ_E1_WR : FldId := ⟨rSys_REJ_E1, 18, 18⟩
abbrev fSys_REJ_E1_SPACE : FldId := ⟨rSys_REJ_E1, 17, 16⟩
abbrev rPci_LINK_STAT : RegId := ⟨.pci, 0, 0x0⟩
abbrev fPci_LINK_STAT_POL_INV : FldId := ⟨rPci_LINK_STAT, 31, 24⟩
abbrev fPci_LINK_STAT_REVERSED : FldId := ⟨rPci_LINK_STAT, 16, 16⟩
abbrev fPci_LINK_STAT_WIDTH : FldId := ⟨rPci_LINK_STAT, 11, 8⟩
abbrev fPci_LINK_STAT_SPEED : FldId := ⟨rPci_LINK_STAT, 2, 0⟩
abbrev rQue_POLL : RegId := ⟨.que, 0, 0x0⟩
abbrev fQue_POLL_POLL_NS : FldId := ⟨rQue_POLL, 19, 0⟩
abbrev rQue_NUDGE : RegId := ⟨.que, 0, 0x4⟩
abbrev fQue_NUDGE_ANY : FldId := ⟨rQue_NUDGE, 31, 0⟩
abbrev rQue_STAT : RegId := ⟨.que, 0, 0x8⟩
abbrev fQue_STAT_WATCHED : FldId := ⟨rQue_STAT, 24, 16⟩
abbrev fQue_STAT_ENABLED : FldId := ⟨rQue_STAT, 8, 0⟩
abbrev rQue_FN_QP (j : Nat) : RegId := ⟨.que, 0, 0x104 + 0x4 * j⟩
abbrev fQue_FN_QP_COUNT (j : Nat) : FldId := ⟨rQue_FN_QP j, 14, 8⟩
abbrev fQue_FN_QP_BASE (j : Nat) : FldId := ⟨rQue_FN_QP j, 7, 0⟩
abbrev rNq_NQ_BASE_LO (n : Nat) : RegId := ⟨.nq, n, 0x0⟩
abbrev fNq_NQ_BASE_LO_ADDR (n : Nat) : FldId := ⟨rNq_NQ_BASE_LO n, 31, 0⟩
abbrev rNq_NQ_BASE_HI (n : Nat) : RegId := ⟨.nq, n, 0x4⟩
abbrev fNq_NQ_BASE_HI_ADDR (n : Nat) : FldId := ⟨rNq_NQ_BASE_HI n, 31, 0⟩
abbrev rNq_NQ_CTL (n : Nat) : RegId := ⟨.nq, n, 0x8⟩
abbrev fNq_NQ_CTL_EN (n : Nat) : FldId := ⟨rNq_NQ_CTL n, 31, 31⟩
abbrev fNq_NQ_CTL_REJ_EN (n : Nat) : FldId := ⟨rNq_NQ_CTL n, 30, 30⟩
abbrev fNq_NQ_CTL_LOG2 (n : Nat) : FldId := ⟨rNq_NQ_CTL n, 20, 16⟩
abbrev rNq_NQ_IRQ (n : Nat) : RegId := ⟨.nq, n, 0xC⟩
abbrev fNq_NQ_IRQ_INT_EN (n : Nat) : FldId := ⟨rNq_NQ_IRQ n, 31, 31⟩
abbrev fNq_NQ_IRQ_VEC (n : Nat) : FldId := ⟨rNq_NQ_IRQ n, 28, 24⟩
abbrev fNq_NQ_IRQ_COUNT (n : Nat) : FldId := ⟨rNq_NQ_IRQ n, 23, 16⟩
abbrev fNq_NQ_IRQ_TIME_US (n : Nat) : FldId := ⟨rNq_NQ_IRQ n, 9, 0⟩
abbrev rNq_NQ_CI (n : Nat) : RegId := ⟨.nq, n, 0x10⟩
abbrev fNq_NQ_CI_CI (n : Nat) : FldId := ⟨rNq_NQ_CI n, 11, 0⟩
abbrev rNq_NQ_STAT (n : Nat) : RegId := ⟨.nq, n, 0x14⟩
abbrev fNq_NQ_STAT_LOST (n : Nat) : FldId := ⟨rNq_NQ_STAT n, 31, 16⟩
abbrev fNq_NQ_STAT_PHASE (n : Nat) : FldId := ⟨rNq_NQ_STAT n, 12, 12⟩
abbrev fNq_NQ_STAT_TAIL (n : Nat) : FldId := ⟨rNq_NQ_STAT n, 11, 0⟩
abbrev rQp_CTL (n : Nat) : RegId := ⟨.qp, n, 0x0⟩
abbrev fQp_CTL_EN (n : Nat) : FldId := ⟨rQp_CTL n, 31, 31⟩
abbrev fQp_CTL_WATCH (n : Nat) : FldId := ⟨rQp_CTL n, 30, 30⟩
abbrev fQp_CTL_KIND (n : Nat) : FldId := ⟨rQp_CTL n, 29, 28⟩
abbrev fQp_CTL_DGEN (n : Nat) : FldId := ⟨rQp_CTL n, 27, 27⟩
abbrev fQp_CTL_SQ_LOG2 (n : Nat) : FldId := ⟨rQp_CTL n, 20, 16⟩
abbrev fQp_CTL_CQ_LOG2 (n : Nat) : FldId := ⟨rQp_CTL n, 12, 8⟩
abbrev rQp_STAT (n : Nat) : RegId := ⟨.qp, n, 0x4⟩
abbrev fQp_STAT_BUSY (n : Nat) : FldId := ⟨rQp_STAT n, 31, 31⟩
abbrev fQp_STAT_ERR (n : Nat) : FldId := ⟨rQp_STAT n, 27, 24⟩
abbrev fQp_STAT_OUTSTANDING (n : Nat) : FldId := ⟨rQp_STAT n, 22, 16⟩
abbrev fQp_STAT_SQ_HEAD (n : Nat) : FldId := ⟨rQp_STAT n, 15, 0⟩
abbrev rQp_SQ_BASE_LO (n : Nat) : RegId := ⟨.qp, n, 0x8⟩
abbrev fQp_SQ_BASE_LO_ADDR (n : Nat) : FldId := ⟨rQp_SQ_BASE_LO n, 31, 0⟩
abbrev rQp_SQ_BASE_HI (n : Nat) : RegId := ⟨.qp, n, 0xC⟩
abbrev fQp_SQ_BASE_HI_ADDR (n : Nat) : FldId := ⟨rQp_SQ_BASE_HI n, 31, 0⟩
abbrev rQp_CQ_BASE_LO (n : Nat) : RegId := ⟨.qp, n, 0x10⟩
abbrev fQp_CQ_BASE_LO_ADDR (n : Nat) : FldId := ⟨rQp_CQ_BASE_LO n, 31, 0⟩
abbrev rQp_CQ_BASE_HI (n : Nat) : RegId := ⟨.qp, n, 0x14⟩
abbrev fQp_CQ_BASE_HI_ADDR (n : Nat) : FldId := ⟨rQp_CQ_BASE_HI n, 31, 0⟩
abbrev rQp_DB_ADDR_LO (n : Nat) : RegId := ⟨.qp, n, 0x18⟩
abbrev fQp_DB_ADDR_LO_ADDR (n : Nat) : FldId := ⟨rQp_DB_ADDR_LO n, 31, 0⟩
abbrev rQp_DB_ADDR_HI (n : Nat) : RegId := ⟨.qp, n, 0x1C⟩
abbrev fQp_DB_ADDR_HI_ADDR (n : Nat) : FldId := ⟨rQp_DB_ADDR_HI n, 31, 0⟩
abbrev rQp_DB_GEN (n : Nat) : RegId := ⟨.qp, n, 0x20⟩
abbrev fQp_DB_GEN_GEN (n : Nat) : FldId := ⟨rQp_DB_GEN n, 15, 0⟩
abbrev rQp_IRQ (n : Nat) : RegId := ⟨.qp, n, 0x24⟩
abbrev fQp_IRQ_INT_EN (n : Nat) : FldId := ⟨rQp_IRQ n, 31, 31⟩
abbrev fQp_IRQ_VEC (n : Nat) : FldId := ⟨rQp_IRQ n, 28, 24⟩
abbrev fQp_IRQ_COUNT (n : Nat) : FldId := ⟨rQp_IRQ n, 23, 16⟩
abbrev fQp_IRQ_TIME_US (n : Nat) : FldId := ⟨rQp_IRQ n, 9, 0⟩
abbrev rQp_CQ_TAIL (n : Nat) : RegId := ⟨.qp, n, 0x28⟩
abbrev fQp_CQ_TAIL_PHASE (n : Nat) : FldId := ⟨rQp_CQ_TAIL n, 16, 16⟩
abbrev fQp_CQ_TAIL_TAIL (n : Nat) : FldId := ⟨rQp_CQ_TAIL n, 15, 0⟩
abbrev rQp_KICK (n : Nat) : RegId := ⟨.qp, n, 0x2C⟩
abbrev fQp_KICK_ANY (n : Nat) : FldId := ⟨rQp_KICK n, 31, 0⟩
abbrev rQp_CNT (n : Nat) : RegId := ⟨.qp, n, 0x30⟩
abbrev fQp_CNT_DB_STALE (n : Nat) : FldId := ⟨rQp_CNT n, 31, 16⟩
abbrev fQp_CNT_DESC_ERR (n : Nat) : FldId := ⟨rQp_CNT n, 15, 0⟩
abbrev rDrf_CTL : RegId := ⟨.drf, 0, 0x0⟩
abbrev fDrf_CTL_RESTART : FldId := ⟨rDrf_CTL, 1, 1⟩
abbrev fDrf_CTL_SRST : FldId := ⟨rDrf_CTL, 0, 0⟩
abbrev rDrf_STAT : RegId := ⟨.drf, 0, 0x4⟩
abbrev fDrf_STAT_STOPPED : FldId := ⟨rDrf_STAT, 31, 31⟩
abbrev fDrf_STAT_RUNNING : FldId := ⟨rDrf_STAT, 5, 0⟩
abbrev rDrf_ERR_ADDR_LO : RegId := ⟨.drf, 0, 0x8⟩
abbrev fDrf_ERR_ADDR_LO_ADDR : FldId := ⟨rDrf_ERR_ADDR_LO, 31, 0⟩
abbrev rDrf_ERR_ADDR_HI : RegId := ⟨.drf, 0, 0xC⟩
abbrev fDrf_ERR_ADDR_HI_ADDR : FldId := ⟨rDrf_ERR_ADDR_HI, 31, 0⟩
abbrev rDrf_FLAG : RegId := ⟨.drf, 0, 0x10⟩
abbrev fDrf_FLAG_FLAG : FldId := ⟨rDrf_FLAG, 31, 0⟩
abbrev rDrf_FLAG_CLR : RegId := ⟨.drf, 0, 0x14⟩
abbrev fDrf_FLAG_CLR_FLAG : FldId := ⟨rDrf_FLAG_CLR, 31, 0⟩
abbrev rDrf_SHFLAG : RegId := ⟨.drf, 0, 0x18⟩
abbrev fDrf_SHFLAG_SHFLAG : FldId := ⟨rDrf_SHFLAG, 31, 0⟩
abbrev rDrf_EVENT : RegId := ⟨.drf, 0, 0x20⟩
abbrev fDrf_EVENT_BUS_STOP : FldId := ⟨rDrf_EVENT, 0, 0⟩
abbrev rDrf_EVENT_EN : RegId := ⟨.drf, 0, 0x24⟩
abbrev fDrf_EVENT_EN_EN : FldId := ⟨rDrf_EVENT_EN, 0, 0⟩
abbrev rDrf_HWIN_LO (j : Nat) : RegId := ⟨.drf, 0, 0x100 + 0x8 * j⟩
abbrev fDrf_HWIN_LO_BASE (j : Nat) : FldId := ⟨rDrf_HWIN_LO j, 31, 12⟩
abbrev fDrf_HWIN_LO_EN (j : Nat) : FldId := ⟨rDrf_HWIN_LO j, 0, 0⟩
abbrev rDrf_HWIN_HI (j : Nat) : RegId := ⟨.drf, 0, 0x104 + 0x8 * j⟩
abbrev fDrf_HWIN_HI_BASE (j : Nat) : FldId := ⟨rDrf_HWIN_HI j, 31, 0⟩
abbrev rDrf_DC_STAT (j : Nat) : RegId := ⟨.drf, 0, 0x200 + 0x4 * j⟩
abbrev fDrf_DC_STAT_STATE (j : Nat) : FldId := ⟨rDrf_DC_STAT j, 31, 30⟩
abbrev fDrf_DC_STAT_PRI (j : Nat) : FldId := ⟨rDrf_DC_STAT j, 29, 28⟩
abbrev fDrf_DC_STAT_DEPTH (j : Nat) : FldId := ⟨rDrf_DC_STAT j, 14, 12⟩
abbrev fDrf_DC_STAT_PC (j : Nat) : FldId := ⟨rDrf_DC_STAT j, 11, 0⟩
abbrev rChk_EVENT : RegId := ⟨.chk, 0, 0x400⟩
abbrev fChk_EVENT_MISMATCH : FldId := ⟨rChk_EVENT, 0, 0⟩
abbrev rChk_EVENT_EN : RegId := ⟨.chk, 0, 0x404⟩
abbrev fChk_EVENT_EN_EN : FldId := ⟨rChk_EVENT_EN, 0, 0⟩
abbrev rCk_CTL (n : Nat) : RegId := ⟨.ck, n, 0x0⟩
abbrev fCk_CTL_EN (n : Nat) : FldId := ⟨rCk_CTL n, 31, 31⟩
abbrev fCk_CTL_FINAL (n : Nat) : FldId := ⟨rCk_CTL n, 30, 30⟩
abbrev fCk_CTL_STOP (n : Nat) : FldId := ⟨rCk_CTL n, 29, 29⟩
abbrev fCk_CTL_DC (n : Nat) : FldId := ⟨rCk_CTL n, 12, 8⟩
abbrev fCk_CTL_SRC (n : Nat) : FldId := ⟨rCk_CTL n, 5, 4⟩
abbrev fCk_CTL_POLY (n : Nat) : FldId := ⟨rCk_CTL n, 2, 0⟩
abbrev rCk_DATA (n : Nat) : RegId := ⟨.ck, n, 0x4⟩
abbrev fCk_DATA_BYTES (n : Nat) : FldId := ⟨rCk_DATA n, 31, 0⟩
abbrev rCk_DATA_TAIL (n : Nat) : RegId := ⟨.ck, n, 0x8⟩
abbrev fCk_DATA_TAIL_COUNT (n : Nat) : FldId := ⟨rCk_DATA_TAIL n, 25, 24⟩
abbrev fCk_DATA_TAIL_BYTES (n : Nat) : FldId := ⟨rCk_DATA_TAIL n, 23, 0⟩
abbrev rCk_RES_STAT (n : Nat) : RegId := ⟨.ck, n, 0xC⟩
abbrev fCk_RES_STAT_VALID (n : Nat) : FldId := ⟨rCk_RES_STAT n, 31, 31⟩
abbrev fCk_RES_STAT_FRESH (n : Nat) : FldId := ⟨rCk_RES_STAT n, 30, 30⟩
abbrev fCk_RES_STAT_COUNT (n : Nat) : FldId := ⟨rCk_RES_STAT n, 29, 0⟩
abbrev rCk_RES_VAL (n : Nat) : RegId := ⟨.ck, n, 0x10⟩
abbrev fCk_RES_VAL_VALUE (n : Nat) : FldId := ⟨rCk_RES_VAL n, 31, 0⟩
abbrev rCk_CNT (n : Nat) : RegId := ⟨.ck, n, 0x14⟩
abbrev fCk_CNT_MISMATCH (n : Nat) : FldId := ⟨rCk_CNT n, 31, 16⟩
abbrev fCk_CNT_CHECKED (n : Nat) : FldId := ⟨rCk_CNT n, 15, 0⟩
abbrev rStk_IN_CFG : RegId := ⟨.stk, 0, 0x100⟩
abbrev fStk_IN_CFG_POL : FldId := ⟨rStk_IN_CFG, 0, 0⟩
abbrev rGen_DEF (n : Nat) : RegId := ⟨.gen, n, 0x0⟩
abbrev fGen_DEF_RUN (n : Nat) : FldId := ⟨rGen_DEF n, 31, 31⟩
abbrev fGen_DEF_SRC (n : Nat) : FldId := ⟨rGen_DEF n, 30, 29⟩
abbrev fGen_DEF_STEP_MODE (n : Nat) : FldId := ⟨rGen_DEF n, 28, 28⟩
abbrev fGen_DEF_NUM (n : Nat) : FldId := ⟨rGen_DEF n, 23, 0⟩
abbrev rGen_DEN (n : Nat) : RegId := ⟨.gen, n, 0x4⟩
abbrev fGen_DEN_DEN (n : Nat) : FldId := ⟨rGen_DEN n, 15, 0⟩
abbrev rGen_PHASE (n : Nat) : RegId := ⟨.gen, n, 0x8⟩
abbrev fGen_PHASE_PHASE (n : Nat) : FldId := ⟨rGen_PHASE n, 31, 0⟩
abbrev rGen_CAPTURE_WIN (n : Nat) : RegId := ⟨.gen, n, 0xC⟩
abbrev fGen_CAPTURE_WIN_CAPTURE_WIN (n : Nat) : FldId := ⟨rGen_CAPTURE_WIN n, 19, 0⟩
abbrev rGen_SLEW_MAX (n : Nat) : RegId := ⟨.gen, n, 0x10⟩
abbrev fGen_SLEW_MAX_SLEW_MAX (n : Nat) : FldId := ⟨rGen_SLEW_MAX n, 9, 0⟩
abbrev rGen_COUNT (n : Nat) : RegId := ⟨.gen, n, 0x14⟩
abbrev fGen_COUNT_COUNT (n : Nat) : FldId := ⟨rGen_COUNT n, 31, 0⟩
abbrev rGen_OFS (n : Nat) : RegId := ⟨.gen, n, 0x18⟩
abbrev fGen_OFS_VALID (n : Nat) : FldId := ⟨rGen_OFS n, 31, 31⟩
abbrev fGen_OFS_FRESH (n : Nat) : FldId := ⟨rGen_OFS n, 30, 30⟩
abbrev fGen_OFS_OFS (n : Nat) : FldId := ⟨rGen_OFS n, 29, 0⟩
abbrev rGen_IN_OFS (n : Nat) : RegId := ⟨.gen, n, 0x1C⟩
abbrev fGen_IN_OFS_VALID (n : Nat) : FldId := ⟨rGen_IN_OFS n, 31, 31⟩
abbrev fGen_IN_OFS_FRESH (n : Nat) : FldId := ⟨rGen_IN_OFS n, 30, 30⟩
abbrev fGen_IN_OFS_IN_OFS (n : Nat) : FldId := ⟨rGen_IN_OFS n, 29, 0⟩
abbrev rGen_EVENT (n : Nat) : RegId := ⟨.gen, n, 0x20⟩
abbrev fGen_EVENT_STOPPED (n : Nat) : FldId := ⟨rGen_EVENT n, 6, 6⟩
abbrev fGen_EVENT_DEF_APPLIED (n : Nat) : FldId := ⟨rGen_EVENT n, 5, 5⟩
abbrev fGen_EVENT_SLEW_DONE (n : Nat) : FldId := ⟨rGen_EVENT n, 4, 4⟩
abbrev fGen_EVENT_IN_LOST (n : Nat) : FldId := ⟨rGen_EVENT n, 3, 3⟩
abbrev fGen_EVENT_IN_OUTSIDE (n : Nat) : FldId := ⟨rGen_EVENT n, 2, 2⟩
abbrev fGen_EVENT_JUMPED (n : Nat) : FldId := ⟨rGen_EVENT n, 1, 1⟩
abbrev fGen_EVENT_STARTED (n : Nat) : FldId := ⟨rGen_EVENT n, 0, 0⟩
abbrev rGen_EVENT_EN (n : Nat) : RegId := ⟨.gen, n, 0x24⟩
abbrev fGen_EVENT_EN_EN (n : Nat) : FldId := ⟨rGen_EVENT_EN n, 6, 0⟩
abbrev rCox_TB_CTL : RegId := ⟨.cox, 0, 0x0⟩
abbrev fCox_TB_CTL_TBCLK_25 : FldId := ⟨rCox_TB_CTL, 8, 8⟩
abbrev fCox_TB_CTL_SERVO : FldId := ⟨rCox_TB_CTL, 1, 0⟩
abbrev rCox_TB_STAT : RegId := ⟨.cox, 0, 0x4⟩
abbrev fCox_TB_STAT_TBCLK_LOST : FldId := ⟨rCox_TB_STAT, 4, 4⟩
abbrev fCox_TB_STAT_SERVO_STATE : FldId := ⟨rCox_TB_STAT, 2, 0⟩
abbrev rCox_TB_FREQ : RegId := ⟨.cox, 0, 0x8⟩
abbrev fCox_TB_FREQ_FREQ : FldId := ⟨rCox_TB_FREQ, 31, 0⟩
abbrev rCox_TB_FRAC : RegId := ⟨.cox, 0, 0xC⟩
abbrev fCox_TB_FRAC_FRAC : FldId := ⟨rCox_TB_FRAC, 15, 0⟩
abbrev rCox_TB_NS : RegId := ⟨.cox, 0, 0x10⟩
abbrev fCox_TB_NS_NS : FldId := ⟨rCox_TB_NS, 31, 0⟩
abbrev rCox_TB_SEC_LO : RegId := ⟨.cox, 0, 0x14⟩
abbrev fCox_TB_SEC_LO_SEC : FldId := ⟨rCox_TB_SEC_LO, 31, 0⟩
abbrev rCox_TB_SEC_HI : RegId := ⟨.cox, 0, 0x18⟩
abbrev fCox_TB_SEC_HI_SEC : FldId := ⟨rCox_TB_SEC_HI, 15, 0⟩
abbrev rCox_SERVO_CFG : RegId := ⟨.cox, 0, 0x1C⟩
abbrev fCox_SERVO_CFG_BW : FldId := ⟨rCox_SERVO_CFG, 27, 24⟩
abbrev fCox_SERVO_CFG_HOLD_S : FldId := ⟨rCox_SERVO_CFG, 23, 16⟩
abbrev fCox_SERVO_CFG_STEP_THR : FldId := ⟨rCox_SERVO_CFG, 15, 0⟩
abbrev rCox_SERVO_IN_LO : RegId := ⟨.cox, 0, 0x20⟩
abbrev fCox_SERVO_IN_LO_OFS : FldId := ⟨rCox_SERVO_IN_LO, 31, 0⟩
abbrev rCox_SERVO_IN_HI : RegId := ⟨.cox, 0, 0x24⟩
abbrev fCox_SERVO_IN_HI_OFS : FldId := ⟨rCox_SERVO_IN_HI, 31, 0⟩
abbrev rCox_TS_CORR (j : Nat) : RegId := ⟨.cox, 0, 0x40 + 0x4 * j⟩
abbrev fCox_TS_CORR_TX_CORR (j : Nat) : FldId := ⟨rCox_TS_CORR j, 31, 16⟩
abbrev fCox_TS_CORR_RX_CORR (j : Nat) : FldId := ⟨rCox_TS_CORR j, 15, 0⟩
abbrev rCox_PTM_CTL : RegId := ⟨.cox, 0, 0x60⟩
abbrev fCox_PTM_CTL_EN : FldId := ⟨rCox_PTM_CTL, 31, 31⟩
abbrev fCox_PTM_CTL_GO : FldId := ⟨rCox_PTM_CTL, 30, 30⟩
abbrev fCox_PTM_CTL_INTERVAL : FldId := ⟨rCox_PTM_CTL, 15, 0⟩
abbrev rCox_PTM_STAT : RegId := ⟨.cox, 0, 0x64⟩
abbrev fCox_PTM_STAT_VALID : FldId := ⟨rCox_PTM_STAT, 31, 31⟩
abbrev fCox_PTM_STAT_FRESH : FldId := ⟨rCox_PTM_STAT, 30, 30⟩
abbrev fCox_PTM_STAT_SEQ : FldId := ⟨rCox_PTM_STAT, 15, 0⟩
abbrev rCox_PTM_DEV_NS : RegId := ⟨.cox, 0, 0x68⟩
abbrev fCox_PTM_DEV_NS_NS : FldId := ⟨rCox_PTM_DEV_NS, 31, 0⟩
abbrev rCox_PTM_DEV_SEC_LO : RegId := ⟨.cox, 0, 0x6C⟩
abbrev fCox_PTM_DEV_SEC_LO_SEC : FldId := ⟨rCox_PTM_DEV_SEC_LO, 31, 0⟩
abbrev rCox_PTM_DEV_SEC_HI : RegId := ⟨.cox, 0, 0x70⟩
abbrev fCox_PTM_DEV_SEC_HI_SEC : FldId := ⟨rCox_PTM_DEV_SEC_HI, 15, 0⟩
abbrev rCox_PTM_HOST_LO : RegId := ⟨.cox, 0, 0x74⟩
abbrev fCox_PTM_HOST_LO_T : FldId := ⟨rCox_PTM_HOST_LO, 31, 0⟩
abbrev rCox_PTM_HOST_HI : RegId := ⟨.cox, 0, 0x78⟩
abbrev fCox_PTM_HOST_HI_T : FldId := ⟨rCox_PTM_HOST_HI, 31, 0⟩
abbrev rCox_OUT_CTL : RegId := ⟨.cox, 0, 0x80⟩
abbrev fCox_OUT_CTL_SO_EN : FldId := ⟨rCox_OUT_CTL, 31, 31⟩
abbrev fCox_OUT_CTL_SO_SEL : FldId := ⟨rCox_OUT_CTL, 29, 28⟩
abbrev fCox_OUT_CTL_SO_WIDTH : FldId := ⟨rCox_OUT_CTL, 27, 16⟩
abbrev fCox_OUT_CTL_PPS_EN : FldId := ⟨rCox_OUT_CTL, 15, 15⟩
abbrev fCox_OUT_CTL_PPS_WIDTH : FldId := ⟨rCox_OUT_CTL, 9, 0⟩
abbrev rCox_TB_EVENT : RegId := ⟨.cox, 0, 0x84⟩
abbrev fCox_TB_EVENT_PTM_FAIL : FldId := ⟨rCox_TB_EVENT, 5, 5⟩
abbrev fCox_TB_EVENT_TBCLK_BACK : FldId := ⟨rCox_TB_EVENT, 4, 4⟩
abbrev fCox_TB_EVENT_TBCLK_LOST : FldId := ⟨rCox_TB_EVENT, 3, 3⟩
abbrev fCox_TB_EVENT_HOLDOVER : FldId := ⟨rCox_TB_EVENT, 2, 2⟩
abbrev fCox_TB_EVENT_LOCKED : FldId := ⟨rCox_TB_EVENT, 1, 1⟩
abbrev fCox_TB_EVENT_STEPPED : FldId := ⟨rCox_TB_EVENT, 0, 0⟩
abbrev rCox_TB_EVENT_EN : RegId := ⟨.cox, 0, 0x88⟩
abbrev fCox_TB_EVENT_EN_EN : FldId := ⟨rCox_TB_EVENT_EN, 5, 0⟩
abbrev rCox_CREW_STAT : RegId := ⟨.cox, 0, 0x1200⟩
abbrev fCox_CREW_STAT_ROLE : FldId := ⟨rCox_CREW_STAT, 31, 30⟩
abbrev fCox_CREW_STAT_TOPO : FldId := ⟨rCox_CREW_STAT, 29, 29⟩
abbrev fCox_CREW_STAT_HOLDOVER : FldId := ⟨rCox_CREW_STAT, 28, 28⟩
abbrev fCox_CREW_STAT_PATH : FldId := ⟨rCox_CREW_STAT, 27, 27⟩
abbrev fCox_CREW_STAT_HEALING : FldId := ⟨rCox_CREW_STAT, 26, 26⟩
abbrev fCox_CREW_STAT_SHARE : FldId := ⟨rCox_CREW_STAT, 19, 16⟩
abbrev fCox_CREW_STAT_MEMBER_ID : FldId := ⟨rCox_CREW_STAT, 15, 0⟩
abbrev rCox_CREW_SIZE : RegId := ⟨.cox, 0, 0x1204⟩
abbrev fCox_CREW_SIZE_CREW_ID : FldId := ⟨rCox_CREW_SIZE, 31, 16⟩
abbrev fCox_CREW_SIZE_SIZE : FldId := ⟨rCox_CREW_SIZE, 15, 0⟩
abbrev rCox_CREW_LEAD : RegId := ⟨.cox, 0, 0x1208⟩
abbrev fCox_CREW_LEAD_LEAD_US : FldId := ⟨rCox_CREW_LEAD, 9, 0⟩
abbrev rCox_CREW_BEACON : RegId := ⟨.cox, 0, 0x120C⟩
abbrev fCox_CREW_BEACON_INTERVAL : FldId := ⟨rCox_CREW_BEACON, 16, 0⟩
abbrev rCox_CREW_PATH : RegId := ⟨.cox, 0, 0x1210⟩
abbrev fCox_CREW_PATH_VALID : FldId := ⟨rCox_CREW_PATH, 31, 31⟩
abbrev fCox_CREW_PATH_FRESH : FldId := ⟨rCox_CREW_PATH, 30, 30⟩
abbrev fCox_CREW_PATH_PATH_T : FldId := ⟨rCox_CREW_PATH, 23, 0⟩
abbrev rCox_CREW_OFS : RegId := ⟨.cox, 0, 0x1214⟩
abbrev fCox_CREW_OFS_VALID : FldId := ⟨rCox_CREW_OFS, 31, 31⟩
abbrev fCox_CREW_OFS_FRESH : FldId := ⟨rCox_CREW_OFS, 30, 30⟩
abbrev fCox_CREW_OFS_OFS : FldId := ⟨rCox_CREW_OFS, 29, 0⟩
abbrev rCox_CREW_CNT : RegId := ⟨.cox, 0, 0x1218⟩
abbrev fCox_CREW_CNT_MARK_LATE : FldId := ⟨rCox_CREW_CNT, 31, 16⟩
abbrev fCox_CREW_CNT_MARK_MISS : FldId := ⟨rCox_CREW_CNT, 15, 0⟩
abbrev rCox_CREW_EVENT : RegId := ⟨.cox, 0, 0x121C⟩
abbrev fCox_CREW_EVENT_MARK_LATE : FldId := ⟨rCox_CREW_EVENT, 7, 7⟩
abbrev fCox_CREW_EVENT_RESTORED : FldId := ⟨rCox_CREW_EVENT, 6, 6⟩
abbrev fCox_CREW_EVENT_HEALED : FldId := ⟨rCox_CREW_EVENT, 5, 5⟩
abbrev fCox_CREW_EVENT_BREAK : FldId := ⟨rCox_CREW_EVENT, 4, 4⟩
abbrev fCox_CREW_EVENT_LEAD_LOST : FldId := ⟨rCox_CREW_EVENT, 3, 3⟩
abbrev fCox_CREW_EVENT_HOLDOVER : FldId := ⟨rCox_CREW_EVENT, 2, 2⟩
abbrev fCox_CREW_EVENT_ALIGNED : FldId := ⟨rCox_CREW_EVENT, 1, 1⟩
abbrev fCox_CREW_EVENT_FORMED : FldId := ⟨rCox_CREW_EVENT, 0, 0⟩
abbrev rCox_CREW_EVENT_EN : RegId := ⟨.cox, 0, 0x1220⟩
abbrev fCox_CREW_EVENT_EN_EN : FldId := ⟨rCox_CREW_EVENT_EN, 7, 0⟩
abbrev rCox_CREW_RLY : RegId := ⟨.cox, 0, 0x1224⟩
abbrev fCox_CREW_RLY_RX_DROP : FldId := ⟨rCox_CREW_RLY, 31, 16⟩
abbrev fCox_CREW_RLY_RX_OK : FldId := ⟨rCox_CREW_RLY, 15, 0⟩
abbrev rCx_CTL (n : Nat) : RegId := ⟨.cx, n, 0x0⟩
abbrev fCx_CTL_EN (n : Nat) : FldId := ⟨rCx_CTL n, 31, 31⟩
abbrev fCx_CTL_SRST (n : Nat) : FldId := ⟨rCx_CTL n, 30, 30⟩
abbrev fCx_CTL_CNT_CLR (n : Nat) : FldId := ⟨rCx_CTL n, 29, 29⟩
abbrev fCx_CTL_DFE_FREEZE (n : Nat) : FldId := ⟨rCx_CTL n, 28, 28⟩
abbrev fCx_CTL_TX_POL_INV (n : Nat) : FldId := ⟨rCx_CTL n, 27, 27⟩
abbrev fCx_CTL_RX_POL_INV (n : Nat) : FldId := ⟨rCx_CTL n, 26, 26⟩
abbrev fCx_CTL_UP_THR (n : Nat) : FldId := ⟨rCx_CTL n, 15, 8⟩
abbrev fCx_CTL_DOWN_THR (n : Nat) : FldId := ⟨rCx_CTL n, 7, 0⟩
abbrev rCx_STAT (n : Nat) : RegId := ⟨.cx, n, 0x4⟩
abbrev fCx_STAT_TX_STATE (n : Nat) : FldId := ⟨rCx_STAT n, 10, 8⟩
abbrev fCx_STAT_RX_STATE (n : Nat) : FldId := ⟨rCx_STAT n, 7, 5⟩
abbrev fCx_STAT_FAULTED (n : Nat) : FldId := ⟨rCx_STAT n, 2, 2⟩
abbrev fCx_STAT_WRAPPED (n : Nat) : FldId := ⟨rCx_STAT n, 1, 1⟩
abbrev fCx_STAT_LOS (n : Nat) : FldId := ⟨rCx_STAT n, 0, 0⟩
abbrev rCx_MERIT (n : Nat) : RegId := ⟨.cx, n, 0x8⟩
abbrev fCx_MERIT_VALID (n : Nat) : FldId := ⟨rCx_MERIT n, 31, 31⟩
abbrev fCx_MERIT_FRESH (n : Nat) : FldId := ⟨rCx_MERIT n, 30, 30⟩
abbrev fCx_MERIT_WIN_SEQ (n : Nat) : FldId := ⟨rCx_MERIT n, 23, 16⟩
abbrev fCx_MERIT_MERIT (n : Nat) : FldId := ⟨rCx_MERIT n, 7, 0⟩
abbrev rCx_DFE (n : Nat) : RegId := ⟨.cx, n, 0xC⟩
abbrev fCx_DFE_TAP5 (n : Nat) : FldId := ⟨rCx_DFE n, 29, 24⟩
abbrev fCx_DFE_TAP4 (n : Nat) : FldId := ⟨rCx_DFE n, 23, 18⟩
abbrev fCx_DFE_TAP3 (n : Nat) : FldId := ⟨rCx_DFE n, 17, 12⟩
abbrev fCx_DFE_TAP2 (n : Nat) : FldId := ⟨rCx_DFE n, 11, 6⟩
abbrev fCx_DFE_TAP1 (n : Nat) : FldId := ⟨rCx_DFE n, 5, 0⟩
abbrev rCx_SLEEP (n : Nat) : RegId := ⟨.cx, n, 0x10⟩
abbrev fCx_SLEEP_SLEEP_EN (n : Nat) : FldId := ⟨rCx_SLEEP n, 31, 31⟩
abbrev fCx_SLEEP_SLEEP_DLY (n : Nat) : FldId := ⟨rCx_SLEEP n, 9, 0⟩
abbrev rCx_HOP (n : Nat) : RegId := ⟨.cx, n, 0x14⟩
abbrev fCx_HOP_VALID (n : Nat) : FldId := ⟨rCx_HOP n, 31, 31⟩
abbrev fCx_HOP_FRESH (n : Nat) : FldId := ⟨rCx_HOP n, 30, 30⟩
abbrev fCx_HOP_DELAY (n : Nat) : FldId := ⟨rCx_HOP n, 23, 0⟩
abbrev rCx_CNT (n : Nat) : RegId := ⟨.cx, n, 0x18⟩
abbrev fCx_CNT_CODE_ERR (n : Nat) : FldId := ⟨rCx_CNT n, 31, 16⟩
abbrev fCx_CNT_CRC_ERR (n : Nat) : FldId := ⟨rCx_CNT n, 15, 0⟩
abbrev rCx_EVENT (n : Nat) : RegId := ⟨.cx, n, 0x1C⟩
abbrev fCx_EVENT_UNWRAP (n : Nat) : FldId := ⟨rCx_EVENT n, 5, 5⟩
abbrev fCx_EVENT_WRAP (n : Nat) : FldId := ⟨rCx_EVENT n, 4, 4⟩
abbrev fCx_EVENT_FAULT_RX (n : Nat) : FldId := ⟨rCx_EVENT n, 3, 3⟩
abbrev fCx_EVENT_LOS (n : Nat) : FldId := ⟨rCx_EVENT n, 2, 2⟩
abbrev fCx_EVENT_DOWN (n : Nat) : FldId := ⟨rCx_EVENT n, 1, 1⟩
abbrev fCx_EVENT_UP (n : Nat) : FldId := ⟨rCx_EVENT n, 0, 0⟩
abbrev rCx_EVENT_EN (n : Nat) : RegId := ⟨.cx, n, 0x20⟩
abbrev fCx_EVENT_EN_EN (n : Nat) : FldId := ⟨rCx_EVENT_EN n, 5, 0⟩
abbrev rCx_PRBS_STAT (n : Nat) : RegId := ⟨.cx, n, 0x24⟩
abbrev fCx_PRBS_STAT_SYNC (n : Nat) : FldId := ⟨rCx_PRBS_STAT n, 31, 31⟩
abbrev fCx_PRBS_STAT_GEN (n : Nat) : FldId := ⟨rCx_PRBS_STAT n, 30, 30⟩
abbrev fCx_PRBS_STAT_CHK (n : Nat) : FldId := ⟨rCx_PRBS_STAT n, 29, 29⟩
abbrev fCx_PRBS_STAT_PATTERN (n : Nat) : FldId := ⟨rCx_PRBS_STAT n, 28, 26⟩
abbrev fCx_PRBS_STAT_LOOP (n : Nat) : FldId := ⟨rCx_PRBS_STAT n, 25, 24⟩
abbrev fCx_PRBS_STAT_SYNC_LOSS (n : Nat) : FldId := ⟨rCx_PRBS_STAT n, 23, 16⟩
abbrev fCx_PRBS_STAT_INJ (n : Nat) : FldId := ⟨rCx_PRBS_STAT n, 15, 0⟩
abbrev rCx_PRBS_BITS_LO (n : Nat) : RegId := ⟨.cx, n, 0x28⟩
abbrev fCx_PRBS_BITS_LO_COUNT (n : Nat) : FldId := ⟨rCx_PRBS_BITS_LO n, 31, 0⟩
abbrev rCx_PRBS_BITS_HI (n : Nat) : RegId := ⟨.cx, n, 0x2C⟩
abbrev fCx_PRBS_BITS_HI_OVF (n : Nat) : FldId := ⟨rCx_PRBS_BITS_HI n, 31, 31⟩
abbrev fCx_PRBS_BITS_HI_COUNT (n : Nat) : FldId := ⟨rCx_PRBS_BITS_HI n, 15, 0⟩
abbrev rCx_PRBS_ERR (n : Nat) : RegId := ⟨.cx, n, 0x30⟩
abbrev fCx_PRBS_ERR_COUNT (n : Nat) : FldId := ⟨rCx_PRBS_ERR n, 31, 0⟩
abbrev rMon_CTL : RegId := ⟨.mon, 0, 0x0⟩
abbrev fMon_CTL_SRST : FldId := ⟨rMon_CTL, 0, 0⟩
abbrev rMon_SEQ_CTL : RegId := ⟨.mon, 0, 0x4⟩
abbrev fMon_SEQ_CTL_EN : FldId := ⟨rMon_SEQ_CTL, 31, 31⟩
abbrev fMon_SEQ_CTL_TRIG : FldId := ⟨rMon_SEQ_CTL, 26, 24⟩
abbrev fMon_SEQ_CTL_SEL : FldId := ⟨rMon_SEQ_CTL, 18, 16⟩
abbrev fMon_SEQ_CTL_DELAY : FldId := ⟨rMon_SEQ_CTL, 15, 0⟩
abbrev rMon_SEQ_TIMER : RegId := ⟨.mon, 0, 0x8⟩
abbrev fMon_SEQ_TIMER_PERIOD_US : FldId := ⟨rMon_SEQ_TIMER, 19, 0⟩
abbrev rMon_SEQ_MASK : RegId := ⟨.mon, 0, 0xC⟩
abbrev fMon_SEQ_MASK_OW : FldId := ⟨rMon_SEQ_MASK, 31, 16⟩
abbrev fMon_SEQ_MASK_IN : FldId := ⟨rMon_SEQ_MASK, 15, 0⟩
abbrev rMon_OW_CFG : RegId := ⟨.mon, 0, 0x10⟩
abbrev fMon_OW_CFG_OW_DIV : FldId := ⟨rMon_OW_CFG, 31, 24⟩
abbrev fMon_OW_CFG_OW_THR : FldId := ⟨rMon_OW_CFG, 11, 0⟩
abbrev rMon_OW_STAT : RegId := ⟨.mon, 0, 0x14⟩
abbrev fMon_OW_STAT_OPEN : FldId := ⟨rMon_OW_STAT, 15, 0⟩
abbrev rMon_SEQ_STAT : RegId := ⟨.mon, 0, 0x18⟩
abbrev fMon_SEQ_STAT_ROUNDS : FldId := ⟨rMon_SEQ_STAT, 31, 16⟩
abbrev fMon_SEQ_STAT_OVERRUN : FldId := ⟨rMon_SEQ_STAT, 15, 0⟩
abbrev rMon_TRIP : RegId := ⟨.mon, 0, 0x1C⟩
abbrev fMon_TRIP_LO : FldId := ⟨rMon_TRIP, 7, 4⟩
abbrev fMon_TRIP_HI : FldId := ⟨rMon_TRIP, 3, 0⟩
abbrev rMon_EVENT : RegId := ⟨.mon, 0, 0x20⟩
abbrev fMon_EVENT_MOD_INT : FldId := ⟨rMon_EVENT, 6, 6⟩
abbrev fMon_EVENT_MGT_DONE : FldId := ⟨rMon_EVENT, 5, 5⟩
abbrev fMon_EVENT_CAL_FAIL : FldId := ⟨rMon_EVENT, 4, 4⟩
abbrev fMon_EVENT_CLIP : FldId := ⟨rMon_EVENT, 3, 3⟩
abbrev fMon_EVENT_TRIP : FldId := ⟨rMon_EVENT, 2, 2⟩
abbrev fMon_EVENT_OVERRUN : FldId := ⟨rMon_EVENT, 1, 1⟩
abbrev fMon_EVENT_OPEN : FldId := ⟨rMon_EVENT, 0, 0⟩
abbrev rMon_EVENT_EN : RegId := ⟨.mon, 0, 0x24⟩
abbrev fMon_EVENT_EN_EN : FldId := ⟨rMon_EVENT_EN, 6, 0⟩
abbrev rMon_MGT_CTL : RegId := ⟨.mon, 0, 0x28⟩
abbrev fMon_MGT_CTL_RST_REL : FldId := ⟨rMon_MGT_CTL, 31, 31⟩
abbrev fMon_MGT_CTL_INT : FldId := ⟨rMon_MGT_CTL, 30, 30⟩
abbrev fMon_MGT_CTL_DONE : FldId := ⟨rMon_MGT_CTL, 7, 0⟩
abbrev rMon_RAW (j : Nat) : RegId := ⟨.mon, 0, 0x40 + 0x4 * j⟩
abbrev fMon_RAW_VALID (j : Nat) : FldId := ⟨rMon_RAW j, 31, 31⟩
abbrev fMon_RAW_FRESH (j : Nat) : FldId := ⟨rMon_RAW j, 30, 30⟩
abbrev fMon_RAW_CODE (j : Nat) : FldId := ⟨rMon_RAW j, 11, 0⟩
abbrev rMon_RS_SEL : RegId := ⟨.mon, 0, 0x400⟩
abbrev fMon_RS_SEL_INDEX : FldId := ⟨rMon_RS_SEL, 9, 0⟩
abbrev rMon_RS_COEF : RegId := ⟨.mon, 0, 0x404⟩
abbrev fMon_RS_COEF_COEF : FldId := ⟨rMon_RS_COEF, 17, 0⟩
abbrev rMon_CAL_CTL : RegId := ⟨.mon, 0, 0xF00⟩
abbrev fMon_CAL_CTL_EN : FldId := ⟨rMon_CAL_CTL, 31, 31⟩
abbrev fMon_CAL_CTL_INTERVAL : FldId := ⟨rMon_CAL_CTL, 15, 0⟩
abbrev rMon_CAL_REF : RegId := ⟨.mon, 0, 0xF04⟩
abbrev fMon_CAL_REF_REFP_CODE : FldId := ⟨rMon_CAL_REF, 27, 16⟩
abbrev fMon_CAL_REF_REFN_CODE : FldId := ⟨rMon_CAL_REF, 11, 0⟩
abbrev rMon_CAL_STAT : RegId := ⟨.mon, 0, 0xF08⟩
abbrev fMon_CAL_STAT_FAIL : FldId := ⟨rMon_CAL_STAT, 31, 31⟩
abbrev fMon_CAL_STAT_FAIL_CNT : FldId := ⟨rMon_CAL_STAT, 27, 24⟩
abbrev fMon_CAL_STAT_PASS_SEQ : FldId := ⟨rMon_CAL_STAT, 23, 16⟩
abbrev fMon_CAL_STAT_PHASE : FldId := ⟨rMon_CAL_STAT, 1, 0⟩
abbrev rMon_CAL_VAL : RegId := ⟨.mon, 0, 0xF0C⟩
abbrev fMon_CAL_VAL_VALID : FldId := ⟨rMon_CAL_VAL, 31, 31⟩
abbrev fMon_CAL_VAL_FRESH : FldId := ⟨rMon_CAL_VAL, 30, 30⟩
abbrev fMon_CAL_VAL_STALE : FldId := ⟨rMon_CAL_VAL, 29, 29⟩
abbrev fMon_CAL_VAL_GAIN : FldId := ⟨rMon_CAL_VAL, 27, 16⟩
abbrev fMon_CAL_VAL_OFS : FldId := ⟨rMon_CAL_VAL, 11, 0⟩
abbrev rCh_CFG (n : Nat) : RegId := ⟨.ch, n, 0x0⟩
abbrev fCh_CFG_EN (n : Nat) : FldId := ⟨rCh_CFG n, 31, 31⟩
abbrev fCh_CFG_RS_EN (n : Nat) : FldId := ⟨rCh_CFG n, 30, 30⟩
abbrev fCh_CFG_ORDER (n : Nat) : FldId := ⟨rCh_CFG n, 29, 28⟩
abbrev fCh_CFG_SHIFT_CIC (n : Nat) : FldId := ⟨rCh_CFG n, 27, 23⟩
abbrev fCh_CFG_SHIFT_RS (n : Nat) : FldId := ⟨rCh_CFG n, 22, 18⟩
abbrev fCh_CFG_STAT_SRC (n : Nat) : FldId := ⟨rCh_CFG n, 17, 16⟩
abbrev fCh_CFG_DECIM (n : Nat) : FldId := ⟨rCh_CFG n, 12, 0⟩
abbrev rCh_RATIO (n : Nat) : RegId := ⟨.ch, n, 0x4⟩
abbrev fCh_RATIO_RATIO (n : Nat) : FldId := ⟨rCh_RATIO n, 23, 0⟩
abbrev rCh_DC (n : Nat) : RegId := ⟨.ch, n, 0x8⟩
abbrev fCh_DC_FREEZE (n : Nat) : FldId := ⟨rCh_DC n, 31, 31⟩
abbrev fCh_DC_DC_EN (n : Nat) : FldId := ⟨rCh_DC n, 30, 30⟩
abbrev fCh_DC_K (n : Nat) : FldId := ⟨rCh_DC n, 4, 0⟩
abbrev rCh_HI (n : Nat) : RegId := ⟨.ch, n, 0xC⟩
abbrev fCh_HI_HI (n : Nat) : FldId := ⟨rCh_HI n, 23, 0⟩
abbrev rCh_LO (n : Nat) : RegId := ⟨.ch, n, 0x10⟩
abbrev fCh_LO_LO (n : Nat) : FldId := ⟨rCh_LO n, 23, 0⟩
abbrev rCh_ACT (n : Nat) : RegId := ⟨.ch, n, 0x14⟩
abbrev fCh_ACT_HI_EN (n : Nat) : FldId := ⟨rCh_ACT n, 31, 31⟩
abbrev fCh_ACT_LO_EN (n : Nat) : FldId := ⟨rCh_ACT n, 30, 30⟩
abbrev fCh_ACT_CNT (n : Nat) : FldId := ⟨rCh_ACT n, 27, 24⟩
abbrev fCh_ACT_HTR_MASK (n : Nat) : FldId := ⟨rCh_ACT n, 23, 16⟩
abbrev fCh_ACT_BIAS_MASK (n : Nat) : FldId := ⟨rCh_ACT n, 15, 0⟩
abbrev rCh_OUT (n : Nat) : RegId := ⟨.ch, n, 0x18⟩
abbrev fCh_OUT_VALID (n : Nat) : FldId := ⟨rCh_OUT n, 31, 31⟩
abbrev fCh_OUT_FRESH (n : Nat) : FldId := ⟨rCh_OUT n, 30, 30⟩
abbrev fCh_OUT_STALE (n : Nat) : FldId := ⟨rCh_OUT n, 29, 29⟩
abbrev fCh_OUT_VALUE (n : Nat) : FldId := ⟨rCh_OUT n, 23, 0⟩
abbrev rMgt_CTL (n : Nat) : RegId := ⟨.mgt, n, 0x0⟩
abbrev fMgt_CTL_GO (n : Nat) : FldId := ⟨rMgt_CTL n, 31, 31⟩
abbrev fMgt_CTL_OP (n : Nat) : FldId := ⟨rMgt_CTL n, 30, 29⟩
abbrev fMgt_CTL_SPEED (n : Nat) : FldId := ⟨rMgt_CTL n, 28, 27⟩
abbrev fMgt_CTL_DEV (n : Nat) : FldId := ⟨rMgt_CTL n, 22, 16⟩
abbrev fMgt_CTL_REG (n : Nat) : FldId := ⟨rMgt_CTL n, 15, 8⟩
abbrev fMgt_CTL_COUNT (n : Nat) : FldId := ⟨rMgt_CTL n, 7, 0⟩
abbrev rMgt_STAT (n : Nat) : RegId := ⟨.mgt, n, 0x4⟩
abbrev fMgt_STAT_BUSY (n : Nat) : FldId := ⟨rMgt_STAT n, 31, 31⟩
abbrev fMgt_STAT_STATUS (n : Nat) : FldId := ⟨rMgt_STAT n, 23, 16⟩
abbrev fMgt_STAT_DONE_COUNT (n : Nat) : FldId := ⟨rMgt_STAT n, 7, 0⟩
abbrev rMgt_BUF (n j : Nat) : RegId := ⟨.mgt, n, 0x80 + 0x4 * j⟩
abbrev fMgt_BUF_BYTES (n j : Nat) : FldId := ⟨rMgt_BUF n j, 31, 0⟩
abbrev rBias_CODE (j : Nat) : RegId := ⟨.bias, 0, 0x0 + 0x4 * j⟩
abbrev fBias_CODE_EN (j : Nat) : FldId := ⟨rBias_CODE j, 31, 31⟩
abbrev fBias_CODE_SPAN (j : Nat) : FldId := ⟨rBias_CODE j, 17, 16⟩
abbrev fBias_CODE_CODE (j : Nat) : FldId := ⟨rBias_CODE j, 13, 0⟩
abbrev rBias_CFG (j : Nat) : RegId := ⟨.bias, 0, 0x40 + 0x4 * j⟩
abbrev fBias_CFG_FAULT_OFF (j : Nat) : FldId := ⟨rBias_CFG j, 31, 31⟩
abbrev fBias_CFG_GROUP (j : Nat) : FldId := ⟨rBias_CFG j, 1, 0⟩
abbrev rBias_GRP (j : Nat) : RegId := ⟨.bias, 0, 0x80 + 0x4 * j⟩
abbrev fBias_GRP_ARM (j : Nat) : FldId := ⟨rBias_GRP j, 31, 31⟩
abbrev fBias_GRP_SRC (j : Nat) : FldId := ⟨rBias_GRP j, 25, 24⟩
abbrev fBias_GRP_STK (j : Nat) : FldId := ⟨rBias_GRP j, 17, 16⟩
abbrev fBias_GRP_LOAD_SEQ (j : Nat) : FldId := ⟨rBias_GRP j, 7, 0⟩
abbrev rBias_CTL : RegId := ⟨.bias, 0, 0x90⟩
abbrev fBias_CTL_SRST : FldId := ⟨rBias_CTL, 0, 0⟩
abbrev rBias_FAULT : RegId := ⟨.bias, 0, 0x94⟩
abbrev fBias_FAULT_HEADROOM : FldId := ⟨rBias_FAULT, 15, 8⟩
abbrev fBias_FAULT_OPEN : FldId := ⟨rBias_FAULT, 7, 0⟩
abbrev rBias_TRIP : RegId := ⟨.bias, 0, 0x98⟩
abbrev fBias_TRIP_HTR : FldId := ⟨rBias_TRIP, 23, 16⟩
abbrev fBias_TRIP_BIAS : FldId := ⟨rBias_TRIP, 15, 0⟩
abbrev rBias_HTR_EN : RegId := ⟨.bias, 0, 0x9C⟩
abbrev fBias_HTR_EN_EN : FldId := ⟨rBias_HTR_EN, 7, 0⟩
abbrev rBias_HTR (j : Nat) : RegId := ⟨.bias, 0, 0xA0 + 0x4 * j⟩
abbrev fBias_HTR_DUTY (j : Nat) : FldId := ⟨rBias_HTR j, 31, 16⟩
abbrev fBias_HTR_PERIOD (j : Nat) : FldId := ⟨rBias_HTR j, 15, 0⟩
abbrev rBias_EVENT : RegId := ⟨.bias, 0, 0xC0⟩
abbrev fBias_EVENT_TRIP_ACT : FldId := ⟨rBias_EVENT, 1, 1⟩
abbrev fBias_EVENT_COMPL : FldId := ⟨rBias_EVENT, 0, 0⟩
abbrev rBias_EVENT_EN : RegId := ⟨.bias, 0, 0xC4⟩
abbrev fBias_EVENT_EN_EN : FldId := ⟨rBias_EVENT_EN, 1, 0⟩
abbrev rPwr_STATE : RegId := ⟨.pwr, 0, 0x0⟩
abbrev fPwr_STATE_TRANS : FldId := ⟨rPwr_STATE, 31, 31⟩
abbrev fPwr_STATE_FLOOR : FldId := ⟨rPwr_STATE, 26, 24⟩
abbrev fPwr_STATE_PENDING : FldId := ⟨rPwr_STATE, 18, 16⟩
abbrev fPwr_STATE_TARGET : FldId := ⟨rPwr_STATE, 10, 8⟩
abbrev fPwr_STATE_STATE : FldId := ⟨rPwr_STATE, 2, 0⟩
abbrev rPwr_TOLERANCE : RegId := ⟨.pwr, 0, 0x4⟩
abbrev fPwr_TOLERANCE_TOL_US : FldId := ⟨rPwr_TOLERANCE, 19, 0⟩
abbrev rPwr_CTL : RegId := ⟨.pwr, 0, 0x8⟩
abbrev fPwr_CTL_DWELL_US : FldId := ⟨rPwr_CTL, 16, 0⟩
abbrev rPwr_LTR_TOL : RegId := ⟨.pwr, 0, 0xC⟩
abbrev fPwr_LTR_TOL_LTR_EN : FldId := ⟨rPwr_LTR_TOL, 31, 31⟩
abbrev fPwr_LTR_TOL_LTR_US : FldId := ⟨rPwr_LTR_TOL, 19, 0⟩
abbrev rPwr_HINT : RegId := ⟨.pwr, 0, 0x10⟩
abbrev fPwr_HINT_ACTIVE : FldId := ⟨rPwr_HINT, 31, 31⟩
abbrev fPwr_HINT_TARGET : FldId := ⟨rPwr_HINT, 2, 0⟩
abbrev rPwr_HINT_REMAIN : RegId := ⟨.pwr, 0, 0x14⟩
abbrev fPwr_HINT_REMAIN_MS : FldId := ⟨rPwr_HINT_REMAIN, 31, 0⟩
abbrev rPwr_WAKE_EN : RegId := ⟨.pwr, 0, 0x18⟩
abbrev fPwr_WAKE_EN_EN : FldId := ⟨rPwr_WAKE_EN, 6, 2⟩
abbrev rPwr_WAKE_TIMER : RegId := ⟨.pwr, 0, 0x1C⟩
abbrev fPwr_WAKE_TIMER_MS : FldId := ⟨rPwr_WAKE_TIMER, 31, 0⟩
abbrev rPwr_WAKE_LAST : RegId := ⟨.pwr, 0, 0x20⟩
abbrev fPwr_WAKE_LAST_MASK : FldId := ⟨rPwr_WAKE_LAST, 23, 16⟩
abbrev fPwr_WAKE_LAST_FROM : FldId := ⟨rPwr_WAKE_LAST, 10, 8⟩
abbrev fPwr_WAKE_LAST_ENTRY : FldId := ⟨rPwr_WAKE_LAST, 7, 7⟩
abbrev fPwr_WAKE_LAST_SRC : FldId := ⟨rPwr_WAKE_LAST, 2, 0⟩
abbrev rPwr_WAKE_STAY : RegId := ⟨.pwr, 0, 0x24⟩
abbrev fPwr_WAKE_STAY_US : FldId := ⟨rPwr_WAKE_STAY, 31, 0⟩
abbrev rPwr_WAKE_CNT : RegId := ⟨.pwr, 0, 0x28⟩
abbrev fPwr_WAKE_CNT_P3 : FldId := ⟨rPwr_WAKE_CNT, 31, 16⟩
abbrev fPwr_WAKE_CNT_P2 : FldId := ⟨rPwr_WAKE_CNT, 15, 0⟩
abbrev rPwr_WAKE_DROP : RegId := ⟨.pwr, 0, 0x2C⟩
abbrev fPwr_WAKE_DROP_COUNT : FldId := ⟨rPwr_WAKE_DROP, 31, 0⟩
abbrev rPwr_EVENT : RegId := ⟨.pwr, 0, 0x30⟩
abbrev fPwr_EVENT_WAKE_DROP : FldId := ⟨rPwr_EVENT, 2, 2⟩
abbrev fPwr_EVENT_WAKE : FldId := ⟨rPwr_EVENT, 1, 1⟩
abbrev fPwr_EVENT_STATE_CHG : FldId := ⟨rPwr_EVENT, 0, 0⟩
abbrev rPwr_EVENT_EN : RegId := ⟨.pwr, 0, 0x34⟩
abbrev fPwr_EVENT_EN_EN : FldId := ⟨rPwr_EVENT_EN, 2, 0⟩
abbrev rThm_STAT : RegId := ⟨.thm, 0, 0x0⟩
abbrev fThm_STAT_MAX : FldId := ⟨rThm_STAT, 31, 16⟩
abbrev fThm_STAT_SRC : FldId := ⟨rThm_STAT, 12, 8⟩
abbrev fThm_STAT_THROT : FldId := ⟨rThm_STAT, 4, 4⟩
abbrev fThm_STAT_BAND : FldId := ⟨rThm_STAT, 2, 0⟩
abbrev rThm_SENS_SEL : RegId := ⟨.thm, 0, 0x4⟩
abbrev fThm_SENS_SEL_INDEX : FldId := ⟨rThm_SENS_SEL, 4, 0⟩
abbrev rThm_SENS_VAL : RegId := ⟨.thm, 0, 0x8⟩
abbrev fThm_SENS_VAL_VALID : FldId := ⟨rThm_SENS_VAL, 31, 31⟩
abbrev fThm_SENS_VAL_FRESH : FldId := ⟨rThm_SENS_VAL, 30, 30⟩
abbrev fThm_SENS_VAL_EXCL : FldId := ⟨rThm_SENS_VAL, 29, 29⟩
abbrev fThm_SENS_VAL_T : FldId := ⟨rThm_SENS_VAL, 15, 0⟩
abbrev rThm_EXCL : RegId := ⟨.thm, 0, 0xC⟩
abbrev fThm_EXCL_EXCL : FldId := ⟨rThm_EXCL, 31, 0⟩
abbrev rThm_BAND (j : Nat) : RegId := ⟨.thm, 0, 0x10 + 0x4 * j⟩
abbrev fThm_BAND_LANE_RELAX (j : Nat) : FldId := ⟨rThm_BAND j, 7, 0⟩
abbrev rThm_CTL : RegId := ⟨.thm, 0, 0x30⟩
abbrev fThm_CTL_THROT_EN : FldId := ⟨rThm_CTL, 31, 31⟩
abbrev fThm_CTL_PLAN_EN : FldId := ⟨rThm_CTL, 30, 30⟩
abbrev fThm_CTL_APPROVE : FldId := ⟨rThm_CTL, 29, 29⟩
abbrev fThm_CTL_REF : FldId := ⟨rThm_CTL, 28, 28⟩
abbrev fThm_CTL_EOL_PCT : FldId := ⟨rThm_CTL, 15, 8⟩
abbrev fThm_CTL_PLAN_H : FldId := ⟨rThm_CTL, 7, 0⟩
abbrev rThm_PLAN_STAT : RegId := ⟨.thm, 0, 0x34⟩
abbrev fThm_PLAN_STAT_PENDING : FldId := ⟨rThm_PLAN_STAT, 31, 31⟩
abbrev fThm_PLAN_STAT_SEQ : FldId := ⟨rThm_PLAN_STAT, 15, 0⟩
abbrev rThm_PLAN_ACK : RegId := ⟨.thm, 0, 0x38⟩
abbrev fThm_PLAN_ACK_APPLY : FldId := ⟨rThm_PLAN_ACK, 31, 31⟩
abbrev fThm_PLAN_ACK_SEQ : FldId := ⟨rThm_PLAN_ACK, 15, 0⟩
abbrev rThm_PLAN_VAL0 : RegId := ⟨.thm, 0, 0x3C⟩
abbrev fThm_PLAN_VAL0_REF_GUARD : FldId := ⟨rThm_PLAN_VAL0, 16, 16⟩
abbrev fThm_PLAN_VAL0_VREQ : FldId := ⟨rThm_PLAN_VAL0, 15, 0⟩
abbrev rThm_PLAN_VAL1 : RegId := ⟨.thm, 0, 0x40⟩
abbrev fThm_PLAN_VAL1_PLAN_RELAX : FldId := ⟨rThm_PLAN_VAL1, 15, 8⟩
abbrev fThm_PLAN_VAL1_EOL : FldId := ⟨rThm_PLAN_VAL1, 7, 0⟩
abbrev rThm_AGE_SEL : RegId := ⟨.thm, 0, 0x44⟩
abbrev fThm_AGE_SEL_PAIR : FldId := ⟨rThm_AGE_SEL, 4, 0⟩
abbrev rThm_AGE_VAL : RegId := ⟨.thm, 0, 0x48⟩
abbrev fThm_AGE_VAL_VALID : FldId := ⟨rThm_AGE_VAL, 31, 31⟩
abbrev fThm_AGE_VAL_FRESH : FldId := ⟨rThm_AGE_VAL, 30, 30⟩
abbrev fThm_AGE_VAL_DELTA : FldId := ⟨rThm_AGE_VAL, 23, 0⟩
abbrev rThm_EVENT : RegId := ⟨.thm, 0, 0x4C⟩
abbrev fThm_EVENT_EOL : FldId := ⟨rThm_EVENT, 5, 5⟩
abbrev fThm_EVENT_SENSOR_FAIL : FldId := ⟨rThm_EVENT, 4, 4⟩
abbrev fThm_EVENT_BEAM_HOT : FldId := ⟨rThm_EVENT, 3, 3⟩
abbrev fThm_EVENT_THROTTLE : FldId := ⟨rThm_EVENT, 2, 2⟩
abbrev fThm_EVENT_BAND_DOWN : FldId := ⟨rThm_EVENT, 1, 1⟩
abbrev fThm_EVENT_BAND_UP : FldId := ⟨rThm_EVENT, 0, 0⟩
abbrev rThm_EVENT_EN : RegId := ⟨.thm, 0, 0x50⟩
abbrev fThm_EVENT_EN_EN : FldId := ⟨rThm_EVENT_EN, 5, 0⟩
abbrev rSec_CTL : RegId := ⟨.sec, 0, 0x0⟩
abbrev fSec_CTL_LOCK : FldId := ⟨rSec_CTL, 0, 0⟩
abbrev rSec_STAT : RegId := ⟨.sec, 0, 0x4⟩
abbrev fSec_STAT_LIFECYCLE : FldId := ⟨rSec_STAT, 27, 26⟩
abbrev fSec_STAT_TA_STATE : FldId := ⟨rSec_STAT, 25, 24⟩
abbrev fSec_STAT_BOOT_SRC : FldId := ⟨rSec_STAT, 17, 16⟩
abbrev fSec_STAT_KEY_SLOT : FldId := ⟨rSec_STAT, 13, 12⟩
abbrev fSec_STAT_FALLBACK : FldId := ⟨rSec_STAT, 9, 9⟩
abbrev fSec_STAT_WAIT_HOST : FldId := ⟨rSec_STAT, 8, 8⟩
abbrev fSec_STAT_BOOT_ERR : FldId := ⟨rSec_STAT, 7, 0⟩
abbrev rSec_SLOTS : RegId := ⟨.sec, 0, 0x8⟩
abbrev fSec_SLOTS_JTAG_DIS : FldId := ⟨rSec_SLOTS, 17, 17⟩
abbrev fSec_SLOTS_HOST_BOOT_DIS : FldId := ⟨rSec_SLOTS, 16, 16⟩
abbrev fSec_SLOTS_TA : FldId := ⟨rSec_SLOTS, 11, 8⟩
abbrev fSec_SLOTS_STATE : FldId := ⟨rSec_SLOTS, 7, 0⟩
abbrev rSec_FUSE_RB_LO : RegId := ⟨.sec, 0, 0xC⟩
abbrev fSec_FUSE_RB_LO_COUNT : FldId := ⟨rSec_FUSE_RB_LO, 31, 0⟩
abbrev rSec_FUSE_RB_HI : RegId := ⟨.sec, 0, 0x10⟩
abbrev fSec_FUSE_RB_HI_COUNT : FldId := ⟨rSec_FUSE_RB_HI, 31, 0⟩
abbrev rSec_RUN_RB_LO : RegId := ⟨.sec, 0, 0x14⟩
abbrev fSec_RUN_RB_LO_VALUE : FldId := ⟨rSec_RUN_RB_LO, 31, 0⟩
abbrev rSec_RUN_RB_HI : RegId := ⟨.sec, 0, 0x18⟩
abbrev fSec_RUN_RB_HI_VALUE : FldId := ⟨rSec_RUN_RB_HI, 31, 0⟩
abbrev rSec_BUILD : RegId := ⟨.sec, 0, 0x1C⟩
abbrev fSec_BUILD_BUILD : FldId := ⟨rSec_BUILD, 31, 0⟩
abbrev rSec_HB_ADDR_LO : RegId := ⟨.sec, 0, 0x20⟩
abbrev fSec_HB_ADDR_LO_ADDR : FldId := ⟨rSec_HB_ADDR_LO, 31, 0⟩
abbrev rSec_HB_ADDR_HI : RegId := ⟨.sec, 0, 0x24⟩
abbrev fSec_HB_ADDR_HI_ADDR : FldId := ⟨rSec_HB_ADDR_HI, 31, 0⟩
abbrev rSec_HB_LEN : RegId := ⟨.sec, 0, 0x28⟩
abbrev fSec_HB_LEN_LEN : FldId := ⟨rSec_HB_LEN, 24, 0⟩
abbrev rSec_HB_CTL : RegId := ⟨.sec, 0, 0x2C⟩
abbrev fSec_HB_CTL_GO : FldId := ⟨rSec_HB_CTL, 0, 0⟩
abbrev rSec_TA_STAT : RegId := ⟨.sec, 0, 0x30⟩
abbrev fSec_TA_STAT_BLOCKED : FldId := ⟨rSec_TA_STAT, 9, 9⟩
abbrev fSec_TA_STAT_CHAL_VALID : FldId := ⟨rSec_TA_STAT, 8, 8⟩
abbrev fSec_TA_STAT_FAILS : FldId := ⟨rSec_TA_STAT, 1, 0⟩
abbrev rSec_EVENT : RegId := ⟨.sec, 0, 0x34⟩
abbrev fSec_EVENT_TA_FAIL : FldId := ⟨rSec_EVENT, 1, 1⟩
abbrev fSec_EVENT_FALLBACK : FldId := ⟨rSec_EVENT, 0, 0⟩
abbrev rSec_EVENT_EN : RegId := ⟨.sec, 0, 0x38⟩
abbrev fSec_EVENT_EN_EN : FldId := ⟨rSec_EVENT_EN, 1, 0⟩
abbrev rAnc_WORD (j : Nat) : RegId := ⟨.anc, 0, 0x0 + 0x4 * j⟩
abbrev fAnc_WORD_VALUE (j : Nat) : FldId := ⟨rAnc_WORD j, 31, 0⟩
abbrev rAnc_STAT : RegId := ⟨.anc, 0, 0x100⟩
abbrev fAnc_STAT_FIXED : FldId := ⟨rAnc_STAT, 31, 16⟩
abbrev fAnc_STAT_SINGLE : FldId := ⟨rAnc_STAT, 15, 0⟩
abbrev rAnc_DIS_LO : RegId := ⟨.anc, 0, 0x104⟩
abbrev fAnc_DIS_LO_DIS : FldId := ⟨rAnc_DIS_LO, 31, 0⟩
abbrev rAnc_DIS_HI : RegId := ⟨.anc, 0, 0x108⟩
abbrev fAnc_DIS_HI_DIS : FldId := ⟨rAnc_DIS_HI, 31, 0⟩
abbrev rAnc_EVENT : RegId := ⟨.anc, 0, 0x10C⟩
abbrev fAnc_EVENT_DISAGREE : FldId := ⟨rAnc_EVENT, 2, 2⟩
abbrev fAnc_EVENT_SINGLE : FldId := ⟨rAnc_EVENT, 1, 1⟩
abbrev fAnc_EVENT_FIXED : FldId := ⟨rAnc_EVENT, 0, 0⟩
abbrev rAnc_EVENT_EN : RegId := ⟨.anc, 0, 0x110⟩
abbrev fAnc_EVENT_EN_EN : FldId := ⟨rAnc_EVENT_EN, 2, 0⟩
abbrev rTst_STAT : RegId := ⟨.tst, 0, 0x0⟩
abbrev fTst_STAT_BUSY : FldId := ⟨rTst_STAT, 31, 31⟩
abbrev fTst_STAT_ABORTED : FldId := ⟨rTst_STAT, 30, 30⟩
abbrev fTst_STAT_ELAPSED : FldId := ⟨rTst_STAT, 29, 0⟩
abbrev rTst_VDD : RegId := ⟨.tst, 0, 0x4⟩
abbrev fTst_VDD_MV : FldId := ⟨rTst_VDD, 15, 0⟩
abbrev rTst_CLK : RegId := ⟨.tst, 0, 0x8⟩
abbrev fTst_CLK_WORST : FldId := ⟨rTst_CLK, 18, 16⟩
abbrev fTst_CLK_DEV : FldId := ⟨rTst_CLK, 15, 0⟩
abbrev rTst_ACTIVE (j : Nat) : RegId := ⟨.tst, 0, 0x10 + 0x4 * j⟩
abbrev fTst_ACTIVE_MASK (j : Nat) : FldId := ⟨rTst_ACTIVE j, 31, 0⟩
abbrev rTst_EVENT : RegId := ⟨.tst, 0, 0x20⟩
abbrev fTst_EVENT_ABORT : FldId := ⟨rTst_EVENT, 1, 1⟩
abbrev fTst_EVENT_DONE : FldId := ⟨rTst_EVENT, 0, 0⟩
abbrev rTst_EVENT_EN : RegId := ⟨.tst, 0, 0x24⟩
abbrev fTst_EVENT_EN_EN : FldId := ⟨rTst_EVENT_EN, 1, 0⟩
abbrev rSplit_CTL : RegId := ⟨.split, 0, 0x0⟩
abbrev fSplit_CTL_EN : FldId := ⟨rSplit_CTL, 31, 31⟩
abbrev rSplit_STAT : RegId := ⟨.split, 0, 0x4⟩
abbrev fSplit_STAT_LOST : FldId := ⟨rSplit_STAT, 15, 0⟩
abbrev rSplit_WINDOW : RegId := ⟨.split, 0, 0x8⟩
abbrev fSplit_WINDOW_US : FldId := ⟨rSplit_WINDOW, 19, 0⟩
abbrev rSplit_RING_BASE_LO : RegId := ⟨.split, 0, 0xC⟩
abbrev fSplit_RING_BASE_LO_ADDR : FldId := ⟨rSplit_RING_BASE_LO, 31, 0⟩
abbrev rSplit_RING_BASE_HI : RegId := ⟨.split, 0, 0x10⟩
abbrev fSplit_RING_BASE_HI_ADDR : FldId := ⟨rSplit_RING_BASE_HI, 31, 0⟩
abbrev rSplit_RING : RegId := ⟨.split, 0, 0x14⟩
abbrev fSplit_RING_LOG2 : FldId := ⟨rSplit_RING, 4, 0⟩
abbrev rSplit_RING_CI : RegId := ⟨.split, 0, 0x18⟩
abbrev fSplit_RING_CI_CI : FldId := ⟨rSplit_RING_CI, 15, 0⟩
abbrev rSplit_RING_TAIL : RegId := ⟨.split, 0, 0x1C⟩
abbrev fSplit_RING_TAIL_PHASE : FldId := ⟨rSplit_RING_TAIL, 16, 16⟩
abbrev fSplit_RING_TAIL_TAIL : FldId := ⟨rSplit_RING_TAIL, 15, 0⟩
abbrev rSplit_INC0 : RegId := ⟨.split, 0, 0x20⟩
abbrev fSplit_INC0_BM : FldId := ⟨rSplit_INC0, 31, 16⟩
abbrev fSplit_INC0_LOOM : FldId := ⟨rSplit_INC0, 8, 8⟩
abbrev fSplit_INC0_LN : FldId := ⟨rSplit_INC0, 7, 0⟩
abbrev rSplit_INC (j : Nat) : RegId := ⟨.split, 0, 0x24 + 0x4 * j⟩
abbrev fSplit_INC_SH (j : Nat) : FldId := ⟨rSplit_INC j, 31, 0⟩
abbrev rSplit_SEQ : RegId := ⟨.split, 0, 0x30⟩
abbrev fSplit_SEQ_SEQ : FldId := ⟨rSplit_SEQ, 31, 0⟩
abbrev rSplit_EP_BW (j : Nat) : RegId := ⟨.split, 0, 0x40 + 0x4 * j⟩
abbrev fSplit_EP_BW_RX (j : Nat) : FldId := ⟨rSplit_EP_BW j, 31, 16⟩
abbrev fSplit_EP_BW_TX (j : Nat) : FldId := ⟨rSplit_EP_BW j, 15, 0⟩
abbrev rLn_MODE_STAT (n : Nat) : RegId := ⟨.ln, n, 0x0⟩
abbrev fLn_MODE_STAT_BUSY (n : Nat) : FldId := ⟨rLn_MODE_STAT n, 9, 9⟩
abbrev fLn_MODE_STAT_PORT_BASE (n : Nat) : FldId := ⟨rLn_MODE_STAT n, 8, 6⟩
abbrev fLn_MODE_STAT_WIDTH (n : Nat) : FldId := ⟨rLn_MODE_STAT n, 5, 4⟩
abbrev fLn_MODE_STAT_VARIANT (n : Nat) : FldId := ⟨rLn_MODE_STAT n, 3, 3⟩
abbrev fLn_MODE_STAT_MODE (n : Nat) : FldId := ⟨rLn_MODE_STAT n, 1, 0⟩
abbrev rLn_CTL (n : Nat) : RegId := ⟨.ln, n, 0x4⟩
abbrev fLn_CTL_SRST (n : Nat) : FldId := ⟨rLn_CTL n, 0, 0⟩
abbrev rLn_CNT_CFG (n j : Nat) : RegId := ⟨.ln, n, 0x80 + 0x10 * j⟩
abbrev fLn_CNT_CFG_EN (n j : Nat) : FldId := ⟨rLn_CNT_CFG n j, 31, 31⟩
abbrev fLn_CNT_CFG_OVF (n j : Nat) : FldId := ⟨rLn_CNT_CFG n j, 30, 30⟩
abbrev fLn_CNT_CFG_SRC (n j : Nat) : FldId := ⟨rLn_CNT_CFG n j, 7, 0⟩
abbrev rLn_CNT_FILT (n j : Nat) : RegId := ⟨.ln, n, 0x84 + 0x10 * j⟩
abbrev fLn_CNT_FILT_PRIV (n j : Nat) : FldId := ⟨rLn_CNT_FILT n j, 31, 30⟩
abbrev fLn_CNT_FILT_MKIND (n j : Nat) : FldId := ⟨rLn_CNT_FILT n j, 29, 28⟩
abbrev fLn_CNT_FILT_MASTER (n j : Nat) : FldId := ⟨rLn_CNT_FILT n j, 27, 21⟩
abbrev fLn_CNT_FILT_ADDR_EN (n j : Nat) : FldId := ⟨rLn_CNT_FILT n j, 20, 20⟩
abbrev fLn_CNT_FILT_CLASS (n j : Nat) : FldId := ⟨rLn_CNT_FILT n j, 19, 16⟩
abbrev fLn_CNT_FILT_ALL (n j : Nat) : FldId := ⟨rLn_CNT_FILT n j, 15, 15⟩
abbrev fLn_CNT_FILT_OBJ (n j : Nat) : FldId := ⟨rLn_CNT_FILT n j, 9, 0⟩
abbrev rLn_CNT_VAL_LO (n j : Nat) : RegId := ⟨.ln, n, 0x88 + 0x10 * j⟩
abbrev fLn_CNT_VAL_LO_VAL (n j : Nat) : FldId := ⟨rLn_CNT_VAL_LO n j, 31, 0⟩
abbrev rLn_CNT_VAL_HI (n j : Nat) : RegId := ⟨.ln, n, 0x8C + 0x10 * j⟩
abbrev fLn_CNT_VAL_HI_OVF (n j : Nat) : FldId := ⟨rLn_CNT_VAL_HI n j, 31, 31⟩
abbrev fLn_CNT_VAL_HI_VAL (n j : Nat) : FldId := ⟨rLn_CNT_VAL_HI n j, 15, 0⟩
abbrev rLn_TX_CTL (n : Nat) : RegId := ⟨.ln, n, 0x100⟩
abbrev fLn_TX_CTL_PRECODE (n : Nat) : FldId := ⟨rLn_TX_CTL n, 1, 1⟩
abbrev fLn_TX_CTL_POL_INV (n : Nat) : FldId := ⟨rLn_TX_CTL n, 0, 0⟩
abbrev rLn_TX_STAT (n : Nat) : RegId := ⟨.ln, n, 0x104⟩
abbrev fLn_TX_STAT_AMP (n : Nat) : FldId := ⟨rLn_TX_STAT n, 25, 16⟩
abbrev fLn_TX_STAT_STATE (n : Nat) : FldId := ⟨rLn_TX_STAT n, 2, 0⟩
abbrev rLn_TX_RAMP (n : Nat) : RegId := ⟨.ln, n, 0x108⟩
abbrev fLn_TX_RAMP_RAMP_US (n : Nat) : FldId := ⟨rLn_TX_RAMP n, 6, 0⟩
abbrev rLn_TX_IDLE (n : Nat) : RegId := ⟨.ln, n, 0x10C⟩
abbrev fLn_TX_IDLE_IDLE_EN (n : Nat) : FldId := ⟨rLn_TX_IDLE n, 31, 31⟩
abbrev fLn_TX_IDLE_IDLE_DLY (n : Nat) : FldId := ⟨rLn_TX_IDLE n, 15, 0⟩
abbrev rLn_TX_FIR (n j : Nat) : RegId := ⟨.ln, n, 0x110 + 0x4 * j⟩
abbrev fLn_TX_FIR_C_ODD (n j : Nat) : FldId := ⟨rLn_TX_FIR n j, 25, 16⟩
abbrev fLn_TX_FIR_C_EVEN (n j : Nat) : FldId := ⟨rLn_TX_FIR n j, 9, 0⟩
abbrev rLn_TX_FIR_CTL (n : Nat) : RegId := ⟨.ln, n, 0x120⟩
abbrev fLn_TX_FIR_CTL_ARM (n : Nat) : FldId := ⟨rLn_TX_FIR_CTL n, 31, 31⟩
abbrev fLn_TX_FIR_CTL_MAIN_POS (n : Nat) : FldId := ⟨rLn_TX_FIR_CTL n, 2, 0⟩
abbrev rLn_TX_LEVELS (n : Nat) : RegId := ⟨.ln, n, 0x124⟩
abbrev fLn_TX_LEVELS_SWING (n : Nat) : FldId := ⟨rLn_TX_LEVELS n, 27, 24⟩
abbrev fLn_TX_LEVELS_INNER_P (n : Nat) : FldId := ⟨rLn_TX_LEVELS n, 15, 8⟩
abbrev fLn_TX_LEVELS_INNER_N (n : Nat) : FldId := ⟨rLn_TX_LEVELS n, 7, 0⟩
abbrev rLn_TX_DAC_TRIM (n : Nat) : RegId := ⟨.ln, n, 0x128⟩
abbrev fLn_TX_DAC_TRIM_SKEW_B (n : Nat) : FldId := ⟨rLn_TX_DAC_TRIM n, 15, 8⟩
abbrev fLn_TX_DAC_TRIM_GAIN_B (n : Nat) : FldId := ⟨rLn_TX_DAC_TRIM n, 7, 0⟩
abbrev rLn_TX_CATCH (n : Nat) : RegId := ⟨.ln, n, 0x12C⟩
abbrev fLn_TX_CATCH_LAST_ID (n : Nat) : FldId := ⟨rLn_TX_CATCH n, 23, 16⟩
abbrev fLn_TX_CATCH_REP_LEFT (n : Nat) : FldId := ⟨rLn_TX_CATCH n, 11, 8⟩
abbrev fLn_TX_CATCH_REP (n : Nat) : FldId := ⟨rLn_TX_CATCH n, 3, 0⟩
abbrev rLn_RX_CTL (n : Nat) : RegId := ⟨.ln, n, 0x200⟩
abbrev fLn_RX_CTL_TRAIN_SRC (n : Nat) : FldId := ⟨rLn_RX_CTL n, 11, 10⟩
abbrev fLn_RX_CTL_RETRAIN_EN (n : Nat) : FldId := ⟨rLn_RX_CTL n, 9, 9⟩
abbrev fLn_RX_CTL_PRECODE (n : Nat) : FldId := ⟨rLn_RX_CTL n, 8, 8⟩
abbrev fLn_RX_CTL_POL_INV (n : Nat) : FldId := ⟨rLn_RX_CTL n, 0, 0⟩
abbrev rLn_RX_STAT (n : Nat) : RegId := ⟨.ln, n, 0x204⟩
abbrev fLn_RX_STAT_RETRY (n : Nat) : FldId := ⟨rLn_RX_STAT n, 23, 20⟩
abbrev fLn_RX_STAT_DFE_N (n : Nat) : FldId := ⟨rLn_RX_STAT n, 19, 18⟩
abbrev fLn_RX_STAT_MEM (n : Nat) : FldId := ⟨rLn_RX_STAT n, 17, 16⟩
abbrev fLn_RX_STAT_TRAINED_CATCH (n : Nat) : FldId := ⟨rLn_RX_STAT n, 10, 10⟩
abbrev fLn_RX_STAT_LOCK (n : Nat) : FldId := ⟨rLn_RX_STAT n, 9, 9⟩
abbrev fLn_RX_STAT_SIGDET (n : Nat) : FldId := ⟨rLn_RX_STAT n, 8, 8⟩
abbrev fLn_RX_STAT_STATE (n : Nat) : FldId := ⟨rLn_RX_STAT n, 3, 0⟩
abbrev rLn_RX_AFE (n : Nat) : RegId := ⟨.ln, n, 0x208⟩
abbrev fLn_RX_AFE_CTLE_AUTO (n : Nat) : FldId := ⟨rLn_RX_AFE n, 31, 31⟩
abbrev fLn_RX_AFE_CTLE (n : Nat) : FldId := ⟨rLn_RX_AFE n, 27, 24⟩
abbrev fLn_RX_AFE_VGA_AUTO (n : Nat) : FldId := ⟨rLn_RX_AFE n, 23, 23⟩
abbrev fLn_RX_AFE_VGA (n : Nat) : FldId := ⟨rLn_RX_AFE n, 14, 8⟩
abbrev fLn_RX_AFE_VGA_TARGET (n : Nat) : FldId := ⟨rLn_RX_AFE n, 5, 0⟩
abbrev rLn_FDE_CTL (n : Nat) : RegId := ⟨.ln, n, 0x20C⟩
abbrev fLn_FDE_CTL_FREEZE (n : Nat) : FldId := ⟨rLn_FDE_CTL n, 31, 31⟩
abbrev fLn_FDE_CTL_K_TRACK (n : Nat) : FldId := ⟨rLn_FDE_CTL n, 11, 8⟩
abbrev rLn_FDE_SEL (n : Nat) : RegId := ⟨.ln, n, 0x210⟩
abbrev fLn_FDE_SEL_BIN (n : Nat) : FldId := ⟨rLn_FDE_SEL n, 7, 0⟩
abbrev rLn_FDE_TAP (n : Nat) : RegId := ⟨.ln, n, 0x214⟩
abbrev fLn_FDE_TAP_VALID (n : Nat) : FldId := ⟨rLn_FDE_TAP n, 31, 31⟩
abbrev fLn_FDE_TAP_FRESH (n : Nat) : FldId := ⟨rLn_FDE_TAP n, 30, 30⟩
abbrev fLn_FDE_TAP_RE (n : Nat) : FldId := ⟨rLn_FDE_TAP n, 29, 15⟩
abbrev fLn_FDE_TAP_IM (n : Nat) : FldId := ⟨rLn_FDE_TAP n, 14, 0⟩
abbrev rLn_DFE_CTL (n : Nat) : RegId := ⟨.ln, n, 0x218⟩
abbrev fLn_DFE_CTL_FREEZE (n : Nat) : FldId := ⟨rLn_DFE_CTL n, 31, 31⟩
abbrev fLn_DFE_CTL_N_AUTO (n : Nat) : FldId := ⟨rLn_DFE_CTL n, 2, 2⟩
abbrev fLn_DFE_CTL_N (n : Nat) : FldId := ⟨rLn_DFE_CTL n, 1, 0⟩
abbrev rLn_DFE_TAP (n : Nat) : RegId := ⟨.ln, n, 0x21C⟩
abbrev fLn_DFE_TAP_TAP3 (n : Nat) : FldId := ⟨rLn_DFE_TAP n, 29, 20⟩
abbrev fLn_DFE_TAP_TAP2 (n : Nat) : FldId := ⟨rLn_DFE_TAP n, 19, 10⟩
abbrev fLn_DFE_TAP_TAP1 (n : Nat) : FldId := ⟨rLn_DFE_TAP n, 9, 0⟩
abbrev rLn_TRELLIS (n : Nat) : RegId := ⟨.ln, n, 0x220⟩
abbrev fLn_TRELLIS_MEM_AUTO (n : Nat) : FldId := ⟨rLn_TRELLIS n, 31, 31⟩
abbrev fLn_TRELLIS_MEM (n : Nat) : FldId := ⟨rLn_TRELLIS n, 25, 24⟩
abbrev fLn_TRELLIS_G2 (n : Nat) : FldId := ⟨rLn_TRELLIS n, 15, 8⟩
abbrev fLn_TRELLIS_G1 (n : Nat) : FldId := ⟨rLn_TRELLIS n, 7, 0⟩
abbrev rLn_MERIT (n : Nat) : RegId := ⟨.ln, n, 0x224⟩
abbrev fLn_MERIT_VALID (n : Nat) : FldId := ⟨rLn_MERIT n, 31, 31⟩
abbrev fLn_MERIT_FRESH (n : Nat) : FldId := ⟨rLn_MERIT n, 30, 30⟩
abbrev fLn_MERIT_STALE (n : Nat) : FldId := ⟨rLn_MERIT n, 29, 29⟩
abbrev fLn_MERIT_WIN_SEQ (n : Nat) : FldId := ⟨rLn_MERIT n, 23, 16⟩
abbrev fLn_MERIT_MERIT (n : Nat) : FldId := ⟨rLn_MERIT n, 7, 0⟩
abbrev rLn_ADAPT (n : Nat) : RegId := ⟨.ln, n, 0x228⟩
abbrev fLn_ADAPT_RETRY_MAX (n : Nat) : FldId := ⟨rLn_ADAPT n, 31, 28⟩
abbrev fLn_ADAPT_RETRAIN_CNT (n : Nat) : FldId := ⟨rLn_ADAPT n, 27, 24⟩
abbrev fLn_ADAPT_LOCK_THR (n : Nat) : FldId := ⟨rLn_ADAPT n, 23, 16⟩
abbrev fLn_ADAPT_RETRAIN_THR (n : Nat) : FldId := ⟨rLn_ADAPT n, 15, 8⟩
abbrev fLn_ADAPT_CATCH_WAIT (n : Nat) : FldId := ⟨rLn_ADAPT n, 7, 0⟩
abbrev rLn_RX_TIMING (n : Nat) : RegId := ⟨.ln, n, 0x22C⟩
abbrev fLn_RX_TIMING_FREQ_OFS (n : Nat) : FldId := ⟨rLn_RX_TIMING n, 15, 0⟩
abbrev rLn_RX_EVENT (n : Nat) : RegId := ⟨.ln, n, 0x230⟩
abbrev fLn_RX_EVENT_FAILED (n : Nat) : FldId := ⟨rLn_RX_EVENT n, 5, 5⟩
abbrev fLn_RX_EVENT_TRAIN_FALLBACK (n : Nat) : FldId := ⟨rLn_RX_EVENT n, 4, 4⟩
abbrev fLn_RX_EVENT_RETRAIN (n : Nat) : FldId := ⟨rLn_RX_EVENT n, 3, 3⟩
abbrev fLn_RX_EVENT_LOCK_LOST (n : Nat) : FldId := ⟨rLn_RX_EVENT n, 2, 2⟩
abbrev fLn_RX_EVENT_LOS (n : Nat) : FldId := ⟨rLn_RX_EVENT n, 1, 1⟩
abbrev fLn_RX_EVENT_LOCK_GAINED (n : Nat) : FldId := ⟨rLn_RX_EVENT n, 0, 0⟩
abbrev rLn_RX_EVENT_EN (n : Nat) : RegId := ⟨.ln, n, 0x234⟩
abbrev fLn_RX_EVENT_EN_EN (n : Nat) : FldId := ⟨rLn_RX_EVENT_EN n, 5, 0⟩
abbrev rLn_CAL_CTL (n : Nat) : RegId := ⟨.ln, n, 0x300⟩
abbrev fLn_CAL_CTL_EN (n : Nat) : FldId := ⟨rLn_CAL_CTL n, 31, 31⟩
abbrev fLn_CAL_CTL_RUN (n : Nat) : FldId := ⟨rLn_CAL_CTL n, 30, 30⟩
abbrev fLn_CAL_CTL_FAIL_MAX (n : Nat) : FldId := ⟨rLn_CAL_CTL n, 27, 24⟩
abbrev fLn_CAL_CTL_WIN_LOG2 (n : Nat) : FldId := ⟨rLn_CAL_CTL n, 20, 16⟩
abbrev fLn_CAL_CTL_INTERVAL (n : Nat) : FldId := ⟨rLn_CAL_CTL n, 9, 0⟩
abbrev rLn_CAL_STAT (n : Nat) : RegId := ⟨.ln, n, 0x304⟩
abbrev fLn_CAL_STAT_FAIL_Q (n : Nat) : FldId := ⟨rLn_CAL_STAT n, 31, 28⟩
abbrev fLn_CAL_STAT_FAIL_CNT (n : Nat) : FldId := ⟨rLn_CAL_STAT n, 23, 20⟩
abbrev fLn_CAL_STAT_PASS_SEQ (n : Nat) : FldId := ⟨rLn_CAL_STAT n, 15, 8⟩
abbrev fLn_CAL_STAT_PAUSED (n : Nat) : FldId := ⟨rLn_CAL_STAT n, 2, 2⟩
abbrev fLn_CAL_STAT_PHASE (n : Nat) : FldId := ⟨rLn_CAL_STAT n, 1, 0⟩
abbrev rLn_CAL_LIM0 (n : Nat) : RegId := ⟨.ln, n, 0x308⟩
abbrev fLn_CAL_LIM0_GAIN (n : Nat) : FldId := ⟨rLn_CAL_LIM0 n, 31, 16⟩
abbrev fLn_CAL_LIM0_OFS (n : Nat) : FldId := ⟨rLn_CAL_LIM0 n, 15, 0⟩
abbrev rLn_CAL_LIM1 (n : Nat) : RegId := ⟨.ln, n, 0x30C⟩
abbrev fLn_CAL_LIM1_SKEW (n : Nat) : FldId := ⟨rLn_CAL_LIM1 n, 31, 16⟩
abbrev fLn_CAL_LIM1_BW (n : Nat) : FldId := ⟨rLn_CAL_LIM1 n, 15, 0⟩
abbrev rLn_CAL_SEL (n : Nat) : RegId := ⟨.ln, n, 0x310⟩
abbrev fLn_CAL_SEL_SET (n : Nat) : FldId := ⟨rLn_CAL_SEL n, 10, 8⟩
abbrev fLn_CAL_SEL_QTY (n : Nat) : FldId := ⟨rLn_CAL_SEL n, 5, 4⟩
abbrev fLn_CAL_SEL_SLICE (n : Nat) : FldId := ⟨rLn_CAL_SEL n, 3, 0⟩
abbrev rLn_CAL_VAL (n : Nat) : RegId := ⟨.ln, n, 0x314⟩
abbrev fLn_CAL_VAL_VALID (n : Nat) : FldId := ⟨rLn_CAL_VAL n, 31, 31⟩
abbrev fLn_CAL_VAL_FRESH (n : Nat) : FldId := ⟨rLn_CAL_VAL n, 30, 30⟩
abbrev fLn_CAL_VAL_STALE (n : Nat) : FldId := ⟨rLn_CAL_VAL n, 29, 29⟩
abbrev fLn_CAL_VAL_VALUE (n : Nat) : FldId := ⟨rLn_CAL_VAL n, 15, 0⟩
abbrev rLn_CAL_TEMP (n : Nat) : RegId := ⟨.ln, n, 0x318⟩
abbrev fLn_CAL_TEMP_PASS_T (n : Nat) : FldId := ⟨rLn_CAL_TEMP n, 31, 16⟩
abbrev fLn_CAL_TEMP_T (n : Nat) : FldId := ⟨rLn_CAL_TEMP n, 15, 0⟩
abbrev rLn_CAL_EVENT (n : Nat) : RegId := ⟨.ln, n, 0x31C⟩
abbrev fLn_CAL_EVENT_ABANDON (n : Nat) : FldId := ⟨rLn_CAL_EVENT n, 3, 3⟩
abbrev fLn_CAL_EVENT_FAIL_LIMIT (n : Nat) : FldId := ⟨rLn_CAL_EVENT n, 2, 2⟩
abbrev fLn_CAL_EVENT_PASS_FAIL (n : Nat) : FldId := ⟨rLn_CAL_EVENT n, 1, 1⟩
abbrev fLn_CAL_EVENT_PASS_DONE (n : Nat) : FldId := ⟨rLn_CAL_EVENT n, 0, 0⟩
abbrev rLn_CAL_EVENT_EN (n : Nat) : RegId := ⟨.ln, n, 0x320⟩
abbrev fLn_CAL_EVENT_EN_EN (n : Nat) : FldId := ⟨rLn_CAL_EVENT_EN n, 3, 0⟩
abbrev rLn_WAKE_CTL (n : Nat) : RegId := ⟨.ln, n, 0x400⟩
abbrev fLn_WAKE_CTL_MISS_TRAIN (n : Nat) : FldId := ⟨rLn_WAKE_CTL n, 31, 31⟩
abbrev fLn_WAKE_CTL_MISS_US (n : Nat) : FldId := ⟨rLn_WAKE_CTL n, 23, 16⟩
abbrev fLn_WAKE_CTL_CATCH_THR (n : Nat) : FldId := ⟨rLn_WAKE_CTL n, 7, 0⟩
abbrev rLn_WAKE_CNT (n : Nat) : RegId := ⟨.ln, n, 0x404⟩
abbrev fLn_WAKE_CNT_FALSE (n : Nat) : FldId := ⟨rLn_WAKE_CNT n, 31, 16⟩
abbrev fLn_WAKE_CNT_RESTART (n : Nat) : FldId := ⟨rLn_WAKE_CNT n, 15, 8⟩
abbrev fLn_WAKE_CNT_MISS (n : Nat) : FldId := ⟨rLn_WAKE_CNT n, 7, 4⟩
abbrev fLn_WAKE_CNT_REALIGN (n : Nat) : FldId := ⟨rLn_WAKE_CNT n, 3, 0⟩
abbrev rLn_FEC_CTL (n : Nat) : RegId := ⟨.ln, n, 0x408⟩
abbrev fLn_FEC_CTL_CLR (n : Nat) : FldId := ⟨rLn_FEC_CTL n, 31, 31⟩
abbrev fLn_FEC_CTL_DEG_WIN (n : Nat) : FldId := ⟨rLn_FEC_CTL n, 4, 0⟩
abbrev rLn_FEC_STAT (n : Nat) : RegId := ⟨.ln, n, 0x40C⟩
abbrev fLn_FEC_STAT_SF_LOCK (n : Nat) : FldId := ⟨rLn_FEC_STAT n, 2, 2⟩
abbrev fLn_FEC_STAT_ALIGN (n : Nat) : FldId := ⟨rLn_FEC_STAT n, 1, 1⟩
abbrev fLn_FEC_STAT_DEGRADED (n : Nat) : FldId := ⟨rLn_FEC_STAT n, 0, 0⟩
abbrev rLn_FEC_DEG (n : Nat) : RegId := ⟨.ln, n, 0x410⟩
abbrev fLn_FEC_DEG_SET (n : Nat) : FldId := ⟨rLn_FEC_DEG n, 31, 16⟩
abbrev fLn_FEC_DEG_CLR (n : Nat) : FldId := ⟨rLn_FEC_DEG n, 15, 0⟩
abbrev rLn_FEC_PAIR_LO (n j : Nat) : RegId := ⟨.ln, n, 0x414 + 0x8 * j⟩
abbrev fLn_FEC_PAIR_LO_COUNT (n j : Nat) : FldId := ⟨rLn_FEC_PAIR_LO n j, 31, 0⟩
abbrev rLn_FEC_PAIR_HI (n j : Nat) : RegId := ⟨.ln, n, 0x418 + 0x8 * j⟩
abbrev fLn_FEC_PAIR_HI_OVF (n j : Nat) : FldId := ⟨rLn_FEC_PAIR_HI n j, 31, 31⟩
abbrev fLn_FEC_PAIR_HI_COUNT (n j : Nat) : FldId := ⟨rLn_FEC_PAIR_HI n j, 15, 0⟩
abbrev rLn_FEC_HIST_SEL (n : Nat) : RegId := ⟨.ln, n, 0x43C⟩
abbrev fLn_FEC_HIST_SEL_BIN (n : Nat) : FldId := ⟨rLn_FEC_HIST_SEL n, 4, 0⟩
abbrev rLn_FEC_HIST (n : Nat) : RegId := ⟨.ln, n, 0x440⟩
abbrev fLn_FEC_HIST_COUNT (n : Nat) : FldId := ⟨rLn_FEC_HIST n, 31, 0⟩
abbrev rLn_FEC_EVENT (n : Nat) : RegId := ⟨.ln, n, 0x444⟩
abbrev fLn_FEC_EVENT_MISS (n : Nat) : FldId := ⟨rLn_FEC_EVENT n, 5, 5⟩
abbrev fLn_FEC_EVENT_REALIGN (n : Nat) : FldId := ⟨rLn_FEC_EVENT n, 4, 4⟩
abbrev fLn_FEC_EVENT_ALIGN_LOST (n : Nat) : FldId := ⟨rLn_FEC_EVENT n, 3, 3⟩
abbrev fLn_FEC_EVENT_DEG_CLR (n : Nat) : FldId := ⟨rLn_FEC_EVENT n, 2, 2⟩
abbrev fLn_FEC_EVENT_DEG_SET (n : Nat) : FldId := ⟨rLn_FEC_EVENT n, 1, 1⟩
abbrev fLn_FEC_EVENT_UNCORR (n : Nat) : FldId := ⟨rLn_FEC_EVENT n, 0, 0⟩
abbrev rLn_FEC_EVENT_EN (n : Nat) : RegId := ⟨.ln, n, 0x448⟩
abbrev fLn_FEC_EVENT_EN_EN (n : Nat) : FldId := ⟨rLn_FEC_EVENT_EN n, 5, 0⟩
abbrev rLn_PRBS_STAT (n : Nat) : RegId := ⟨.ln, n, 0x500⟩
abbrev fLn_PRBS_STAT_SYNC (n : Nat) : FldId := ⟨rLn_PRBS_STAT n, 31, 31⟩
abbrev fLn_PRBS_STAT_GEN (n : Nat) : FldId := ⟨rLn_PRBS_STAT n, 30, 30⟩
abbrev fLn_PRBS_STAT_CHK (n : Nat) : FldId := ⟨rLn_PRBS_STAT n, 29, 29⟩
abbrev fLn_PRBS_STAT_PATTERN (n : Nat) : FldId := ⟨rLn_PRBS_STAT n, 28, 26⟩
abbrev fLn_PRBS_STAT_LOOP (n : Nat) : FldId := ⟨rLn_PRBS_STAT n, 25, 24⟩
abbrev fLn_PRBS_STAT_SYNC_LOSS (n : Nat) : FldId := ⟨rLn_PRBS_STAT n, 23, 16⟩
abbrev fLn_PRBS_STAT_INJ (n : Nat) : FldId := ⟨rLn_PRBS_STAT n, 15, 0⟩
abbrev rLn_PRBS_BITS_LO (n : Nat) : RegId := ⟨.ln, n, 0x504⟩
abbrev fLn_PRBS_BITS_LO_COUNT (n : Nat) : FldId := ⟨rLn_PRBS_BITS_LO n, 31, 0⟩
abbrev rLn_PRBS_BITS_HI (n : Nat) : RegId := ⟨.ln, n, 0x508⟩
abbrev fLn_PRBS_BITS_HI_OVF (n : Nat) : FldId := ⟨rLn_PRBS_BITS_HI n, 31, 31⟩
abbrev fLn_PRBS_BITS_HI_COUNT (n : Nat) : FldId := ⟨rLn_PRBS_BITS_HI n, 15, 0⟩
abbrev rLn_PRBS_ERR_LO (n : Nat) : RegId := ⟨.ln, n, 0x50C⟩
abbrev fLn_PRBS_ERR_LO_COUNT (n : Nat) : FldId := ⟨rLn_PRBS_ERR_LO n, 31, 0⟩
abbrev rLn_PRBS_ERR_HI (n : Nat) : RegId := ⟨.ln, n, 0x510⟩
abbrev fLn_PRBS_ERR_HI_OVF (n : Nat) : FldId := ⟨rLn_PRBS_ERR_HI n, 31, 31⟩
abbrev fLn_PRBS_ERR_HI_COUNT (n : Nat) : FldId := ⟨rLn_PRBS_ERR_HI n, 15, 0⟩
abbrev rLn_MAC_CFG (n : Nat) : RegId := ⟨.ln, n, 0x800⟩
abbrev fLn_MAC_CFG_PROMISC (n : Nat) : FldId := ⟨rLn_MAC_CFG n, 16, 16⟩
abbrev fLn_MAC_CFG_MAX_FRAME (n : Nat) : FldId := ⟨rLn_MAC_CFG n, 13, 0⟩
abbrev rLn_MAC_ADDR_LO (n : Nat) : RegId := ⟨.ln, n, 0x804⟩
abbrev fLn_MAC_ADDR_LO_ADDR (n : Nat) : FldId := ⟨rLn_MAC_ADDR_LO n, 31, 0⟩
abbrev rLn_MAC_ADDR_HI (n : Nat) : RegId := ⟨.ln, n, 0x808⟩
abbrev fLn_MAC_ADDR_HI_ADDR (n : Nat) : FldId := ⟨rLn_MAC_ADDR_HI n, 15, 0⟩
abbrev rLoom_ING_STAT : RegId := ⟨.loom, 0, 0x1000⟩
abbrev fLoom_ING_STAT_ENTRIES : FldId := ⟨rLoom_ING_STAT, 28, 16⟩
abbrev fLoom_ING_STAT_PORTS : FldId := ⟨rLoom_ING_STAT, 10, 0⟩
abbrev rLoom_ING_CTL : RegId := ⟨.loom, 0, 0x1004⟩
abbrev fLoom_ING_CTL_CNT_CLR : FldId := ⟨rLoom_ING_CTL, 0, 0⟩
abbrev rLoom_PUNT_CFG (j : Nat) : RegId := ⟨.loom, 0, 0x1010 + 0x4 * j⟩
abbrev fLoom_PUNT_CFG_EN (j : Nat) : FldId := ⟨rLoom_PUNT_CFG j, 31, 31⟩
abbrev fLoom_PUNT_CFG_QP (j : Nat) : FldId := ⟨rLoom_PUNT_CFG j, 23, 16⟩
abbrev fLoom_PUNT_CFG_BURST (j : Nat) : FldId := ⟨rLoom_PUNT_CFG j, 15, 8⟩
abbrev fLoom_PUNT_CFG_RATE (j : Nat) : FldId := ⟨rLoom_PUNT_CFG j, 7, 0⟩
abbrev rLoom_PUNT_DROP (j : Nat) : RegId := ⟨.loom, 0, 0x1030 + 0x4 * j⟩
abbrev fLoom_PUNT_DROP_COUNT (j : Nat) : FldId := ⟨rLoom_PUNT_DROP j, 31, 0⟩
abbrev rLoom_ISP_SEL : RegId := ⟨.loom, 0, 0x1100⟩
abbrev fLoom_ISP_SEL_PORT : FldId := ⟨rLoom_ISP_SEL, 9, 0⟩
abbrev rLoom_ISP_STAT : RegId := ⟨.loom, 0, 0x1104⟩
abbrev fLoom_ISP_STAT_VALID : FldId := ⟨rLoom_ISP_STAT, 31, 31⟩
abbrev fLoom_ISP_STAT_FRESH : FldId := ⟨rLoom_ISP_STAT, 30, 30⟩
abbrev fLoom_ISP_STAT_ESSENCE : FldId := ⟨rLoom_ISP_STAT, 22, 20⟩
abbrev fLoom_ISP_STAT_MERGE : FldId := ⟨rLoom_ISP_STAT, 19, 19⟩
abbrev fLoom_ISP_STAT_OWNER : FldId := ⟨rLoom_ISP_STAT, 12, 8⟩
abbrev fLoom_ISP_STAT_LEG_B : FldId := ⟨rLoom_ISP_STAT, 5, 4⟩
abbrev fLoom_ISP_STAT_LEG_A : FldId := ⟨rLoom_ISP_STAT, 3, 2⟩
abbrev fLoom_ISP_STAT_STATE : FldId := ⟨rLoom_ISP_STAT, 1, 0⟩
abbrev rLoom_ISP_CNT : RegId := ⟨.loom, 0, 0x1108⟩
abbrev fLoom_ISP_CNT_LOST : FldId := ⟨rLoom_ISP_CNT, 31, 16⟩
abbrev fLoom_ISP_CNT_LATE : FldId := ⟨rLoom_ISP_CNT, 15, 0⟩
abbrev rLoom_ING_EVENT : RegId := ⟨.loom, 0, 0x1200⟩
abbrev fLoom_ING_EVENT_FEED_OVF : FldId := ⟨rLoom_ING_EVENT, 1, 1⟩
abbrev fLoom_ING_EVENT_PUNT_DROP : FldId := ⟨rLoom_ING_EVENT, 0, 0⟩
abbrev rLoom_ING_EVENT_EN : RegId := ⟨.loom, 0, 0x1204⟩
abbrev fLoom_ING_EVENT_EN_EN : FldId := ⟨rLoom_ING_EVENT_EN, 1, 0⟩
abbrev rLoom_EGR_STAT : RegId := ⟨.loom, 0, 0x2000⟩
abbrev fLoom_EGR_STAT_RULES : FldId := ⟨rLoom_EGR_STAT, 22, 16⟩
abbrev fLoom_EGR_STAT_PORTS : FldId := ⟨rLoom_EGR_STAT, 10, 0⟩
abbrev rLoom_EGR_CTL : RegId := ⟨.loom, 0, 0x2004⟩
abbrev fLoom_EGR_CTL_CNT_CLR : FldId := ⟨rLoom_EGR_CTL, 0, 0⟩
abbrev rLoom_ESP_SEL : RegId := ⟨.loom, 0, 0x2100⟩
abbrev fLoom_ESP_SEL_PORT : FldId := ⟨rLoom_ESP_SEL, 9, 0⟩
abbrev rLoom_ESP_STAT : RegId := ⟨.loom, 0, 0x2104⟩
abbrev fLoom_ESP_STAT_VALID : FldId := ⟨rLoom_ESP_STAT, 31, 31⟩
abbrev fLoom_ESP_STAT_FRESH : FldId := ⟨rLoom_ESP_STAT, 30, 30⟩
abbrev fLoom_ESP_STAT_ESSENCE : FldId := ⟨rLoom_ESP_STAT, 26, 24⟩
abbrev fLoom_ESP_STAT_PACING : FldId := ⟨rLoom_ESP_STAT, 23, 22⟩
abbrev fLoom_ESP_STAT_LOSS_MODE : FldId := ⟨rLoom_ESP_STAT, 21, 20⟩
abbrev fLoom_ESP_STAT_STK : FldId := ⟨rLoom_ESP_STAT, 19, 18⟩
abbrev fLoom_ESP_STAT_TAKE_PEND : FldId := ⟨rLoom_ESP_STAT, 17, 17⟩
abbrev fLoom_ESP_STAT_REWIND_PEND : FldId := ⟨rLoom_ESP_STAT, 16, 16⟩
abbrev fLoom_ESP_STAT_OWNER : FldId := ⟨rLoom_ESP_STAT, 12, 8⟩
abbrev fLoom_ESP_STAT_EP : FldId := ⟨rLoom_ESP_STAT, 6, 4⟩
abbrev fLoom_ESP_STAT_STATE : FldId := ⟨rLoom_ESP_STAT, 1, 0⟩
abbrev rLoom_ESP_SHOWN : RegId := ⟨.loom, 0, 0x2108⟩
abbrev fLoom_ESP_SHOWN_INDEX : FldId := ⟨rLoom_ESP_SHOWN, 31, 0⟩
abbrev rLoom_ESP_CNT0 : RegId := ⟨.loom, 0, 0x210C⟩
abbrev fLoom_ESP_CNT0_REPEAT : FldId := ⟨rLoom_ESP_CNT0, 31, 16⟩
abbrev fLoom_ESP_CNT0_DROP : FldId := ⟨rLoom_ESP_CNT0, 15, 0⟩
abbrev rLoom_ESP_CNT1 : RegId := ⟨.loom, 0, 0x2110⟩
abbrev fLoom_ESP_CNT1_LOSS : FldId := ⟨rLoom_ESP_CNT1, 31, 16⟩
abbrev fLoom_ESP_CNT1_PACE_LATE : FldId := ⟨rLoom_ESP_CNT1, 15, 8⟩
abbrev fLoom_ESP_CNT1_TORN : FldId := ⟨rLoom_ESP_CNT1, 7, 0⟩
abbrev rLoom_EXP_SEL : RegId := ⟨.loom, 0, 0x2200⟩
abbrev fLoom_EXP_SEL_RULE : FldId := ⟨rLoom_EXP_SEL, 5, 0⟩
abbrev rLoom_EXP_CNT : RegId := ⟨.loom, 0, 0x2204⟩
abbrev fLoom_EXP_CNT_DROPPED : FldId := ⟨rLoom_EXP_CNT, 31, 16⟩
abbrev fLoom_EXP_CNT_FORWARDED : FldId := ⟨rLoom_EXP_CNT, 15, 0⟩
abbrev rLoom_EXP_DROP (j : Nat) : RegId := ⟨.loom, 0, 0x2210 + 0x4 * j⟩
abbrev fLoom_EXP_DROP_COUNT (j : Nat) : FldId := ⟨rLoom_EXP_DROP j, 31, 0⟩
abbrev rLoom_EGR_EVENT : RegId := ⟨.loom, 0, 0x2300⟩
abbrev fLoom_EGR_EVENT_PACE_LATE : FldId := ⟨rLoom_EGR_EVENT, 2, 2⟩
abbrev fLoom_EGR_EVENT_TORN : FldId := ⟨rLoom_EGR_EVENT, 1, 1⟩
abbrev fLoom_EGR_EVENT_EXP_DROP : FldId := ⟨rLoom_EGR_EVENT, 0, 0⟩
abbrev rLoom_EGR_EVENT_EN : RegId := ⟨.loom, 0, 0x2304⟩
abbrev fLoom_EGR_EVENT_EN_EN : FldId := ⟨rLoom_EGR_EVENT_EN, 2, 0⟩
abbrev rLoom_CNT_CFG (j : Nat) : RegId := ⟨.loom, 0, 0x3000 + 0x10 * j⟩
abbrev fLoom_CNT_CFG_EN (j : Nat) : FldId := ⟨rLoom_CNT_CFG j, 31, 31⟩
abbrev fLoom_CNT_CFG_OVF (j : Nat) : FldId := ⟨rLoom_CNT_CFG j, 30, 30⟩
abbrev fLoom_CNT_CFG_SRC (j : Nat) : FldId := ⟨rLoom_CNT_CFG j, 7, 0⟩
abbrev rLoom_CNT_FILT (j : Nat) : RegId := ⟨.loom, 0, 0x3004 + 0x10 * j⟩
abbrev fLoom_CNT_FILT_PRIV (j : Nat) : FldId := ⟨rLoom_CNT_FILT j, 31, 30⟩
abbrev fLoom_CNT_FILT_MKIND (j : Nat) : FldId := ⟨rLoom_CNT_FILT j, 29, 28⟩
abbrev fLoom_CNT_FILT_MASTER (j : Nat) : FldId := ⟨rLoom_CNT_FILT j, 27, 21⟩
abbrev fLoom_CNT_FILT_ADDR_EN (j : Nat) : FldId := ⟨rLoom_CNT_FILT j, 20, 20⟩
abbrev fLoom_CNT_FILT_CLASS (j : Nat) : FldId := ⟨rLoom_CNT_FILT j, 19, 16⟩
abbrev fLoom_CNT_FILT_ALL (j : Nat) : FldId := ⟨rLoom_CNT_FILT j, 15, 15⟩
abbrev fLoom_CNT_FILT_OBJ (j : Nat) : FldId := ⟨rLoom_CNT_FILT j, 9, 0⟩
abbrev rLoom_CNT_VAL_LO (j : Nat) : RegId := ⟨.loom, 0, 0x3008 + 0x10 * j⟩
abbrev fLoom_CNT_VAL_LO_VAL (j : Nat) : FldId := ⟨rLoom_CNT_VAL_LO j, 31, 0⟩
abbrev rLoom_CNT_VAL_HI (j : Nat) : RegId := ⟨.loom, 0, 0x300C + 0x10 * j⟩
abbrev fLoom_CNT_VAL_HI_OVF (j : Nat) : FldId := ⟨rLoom_CNT_VAL_HI j, 31, 31⟩
abbrev fLoom_CNT_VAL_HI_VAL (j : Nat) : FldId := ⟨rLoom_CNT_VAL_HI j, 15, 0⟩
abbrev rBm_STAT (n : Nat) : RegId := ⟨.bm, n, 0x0⟩
abbrev fBm_STAT_REF_MULT (n : Nat) : FldId := ⟨rBm_STAT n, 5, 4⟩
abbrev fBm_STAT_SELF_REF (n : Nat) : FldId := ⟨rBm_STAT n, 3, 3⟩
abbrev fBm_STAT_FAILED (n : Nat) : FldId := ⟨rBm_STAT n, 2, 2⟩
abbrev fBm_STAT_TRAINED (n : Nat) : FldId := ⟨rBm_STAT n, 1, 1⟩
abbrev rBm_CTL (n : Nat) : RegId := ⟨.bm, n, 0x4⟩
abbrev fBm_CTL_CNT_CLR (n : Nat) : FldId := ⟨rBm_CTL n, 1, 1⟩
abbrev fBm_CTL_SRST (n : Nat) : FldId := ⟨rBm_CTL n, 0, 0⟩
abbrev rBm_SCRUB_CTL (n : Nat) : RegId := ⟨.bm, n, 0x8⟩
abbrev fBm_SCRUB_CTL_EN (n : Nat) : FldId := ⟨rBm_SCRUB_CTL n, 31, 31⟩
abbrev fBm_SCRUB_CTL_PERIOD_H (n : Nat) : FldId := ⟨rBm_SCRUB_CTL n, 4, 0⟩
abbrev rBm_SCRUB_STAT (n : Nat) : RegId := ⟨.bm, n, 0xC⟩
abbrev fBm_SCRUB_STAT_PROGRESS (n : Nat) : FldId := ⟨rBm_SCRUB_STAT n, 31, 24⟩
abbrev fBm_SCRUB_STAT_PASSES (n : Nat) : FldId := ⟨rBm_SCRUB_STAT n, 15, 0⟩
abbrev rBm_ECC_CNT0 (n : Nat) : RegId := ⟨.bm, n, 0x10⟩
abbrev fBm_ECC_CNT0_CE1 (n : Nat) : FldId := ⟨rBm_ECC_CNT0 n, 31, 16⟩
abbrev fBm_ECC_CNT0_CE2 (n : Nat) : FldId := ⟨rBm_ECC_CNT0 n, 15, 0⟩
abbrev rBm_ECC_CNT1 (n : Nat) : RegId := ⟨.bm, n, 0x14⟩
abbrev fBm_ECC_CNT1_CHK (n : Nat) : FldId := ⟨rBm_ECC_CNT1 n, 31, 16⟩
abbrev fBm_ECC_CNT1_UE (n : Nat) : FldId := ⟨rBm_ECC_CNT1 n, 15, 0⟩
abbrev rBm_ECC_CNT2 (n : Nat) : RegId := ⟨.bm, n, 0x18⟩
abbrev fBm_ECC_CNT2_POISON (n : Nat) : FldId := ⟨rBm_ECC_CNT2 n, 31, 16⟩
abbrev fBm_ECC_CNT2_REPAIRED (n : Nat) : FldId := ⟨rBm_ECC_CNT2 n, 15, 0⟩
abbrev rBm_CNT_CFG (n j : Nat) : RegId := ⟨.bm, n, 0x100 + 0x10 * j⟩
abbrev fBm_CNT_CFG_EN (n j : Nat) : FldId := ⟨rBm_CNT_CFG n j, 31, 31⟩
abbrev fBm_CNT_CFG_OVF (n j : Nat) : FldId := ⟨rBm_CNT_CFG n j, 30, 30⟩
abbrev fBm_CNT_CFG_SRC (n j : Nat) : FldId := ⟨rBm_CNT_CFG n j, 7, 0⟩
abbrev rBm_CNT_FILT (n j : Nat) : RegId := ⟨.bm, n, 0x104 + 0x10 * j⟩
abbrev fBm_CNT_FILT_PRIV (n j : Nat) : FldId := ⟨rBm_CNT_FILT n j, 31, 30⟩
abbrev fBm_CNT_FILT_MKIND (n j : Nat) : FldId := ⟨rBm_CNT_FILT n j, 29, 28⟩
abbrev fBm_CNT_FILT_MASTER (n j : Nat) : FldId := ⟨rBm_CNT_FILT n j, 27, 21⟩
abbrev fBm_CNT_FILT_ADDR_EN (n j : Nat) : FldId := ⟨rBm_CNT_FILT n j, 20, 20⟩
abbrev fBm_CNT_FILT_CLASS (n j : Nat) : FldId := ⟨rBm_CNT_FILT n j, 19, 16⟩
abbrev fBm_CNT_FILT_ALL (n j : Nat) : FldId := ⟨rBm_CNT_FILT n j, 15, 15⟩
abbrev fBm_CNT_FILT_OBJ (n j : Nat) : FldId := ⟨rBm_CNT_FILT n j, 9, 0⟩
abbrev rBm_CNT_VAL_LO (n j : Nat) : RegId := ⟨.bm, n, 0x108 + 0x10 * j⟩
abbrev fBm_CNT_VAL_LO_VAL (n j : Nat) : FldId := ⟨rBm_CNT_VAL_LO n j, 31, 0⟩
abbrev rBm_CNT_VAL_HI (n j : Nat) : RegId := ⟨.bm, n, 0x10C + 0x10 * j⟩
abbrev fBm_CNT_VAL_HI_OVF (n j : Nat) : FldId := ⟨rBm_CNT_VAL_HI n j, 31, 31⟩
abbrev fBm_CNT_VAL_HI_VAL (n j : Nat) : FldId := ⟨rBm_CNT_VAL_HI n j, 15, 0⟩
abbrev rBm_CNT_ADDR_LO_LO (n : Nat) : RegId := ⟨.bm, n, 0x180⟩
abbrev fBm_CNT_ADDR_LO_LO_ADDR (n : Nat) : FldId := ⟨rBm_CNT_ADDR_LO_LO n, 31, 6⟩
abbrev rBm_CNT_ADDR_LO_HI (n : Nat) : RegId := ⟨.bm, n, 0x184⟩
abbrev fBm_CNT_ADDR_LO_HI_ADDR (n : Nat) : FldId := ⟨rBm_CNT_ADDR_LO_HI n, 8, 0⟩
abbrev rBm_CNT_ADDR_HI_LO (n : Nat) : RegId := ⟨.bm, n, 0x188⟩
abbrev fBm_CNT_ADDR_HI_LO_ADDR (n : Nat) : FldId := ⟨rBm_CNT_ADDR_HI_LO n, 31, 6⟩
abbrev rBm_CNT_ADDR_HI_HI (n : Nat) : RegId := ⟨.bm, n, 0x18C⟩
abbrev fBm_CNT_ADDR_HI_HI_ADDR (n : Nat) : FldId := ⟨rBm_CNT_ADDR_HI_HI n, 8, 0⟩
abbrev rBmw_BAR2_BASE : RegId := ⟨.bmw, 0, 0x8000⟩
abbrev fBmw_BAR2_BASE_BASE : FldId := ⟨rBmw_BAR2_BASE, 10, 0⟩
abbrev rBmw_LOG_STAT : RegId := ⟨.bmw, 0, 0x8004⟩
abbrev fBmw_LOG_STAT_COUNT : FldId := ⟨rBmw_LOG_STAT, 22, 16⟩
abbrev fBmw_LOG_STAT_LOST : FldId := ⟨rBmw_LOG_STAT, 15, 0⟩
abbrev rBmw_LOG_POP : RegId := ⟨.bmw, 0, 0x8008⟩
abbrev fBmw_LOG_POP_POP : FldId := ⟨rBmw_LOG_POP, 0, 0⟩
abbrev rBmw_LOG_E0 : RegId := ⟨.bmw, 0, 0x8010⟩
abbrev fBmw_LOG_E0_ADDR : FldId := ⟨rBmw_LOG_E0, 31, 0⟩
abbrev rBmw_LOG_E1 : RegId := ⟨.bmw, 0, 0x8014⟩
abbrev fBmw_LOG_E1_KIND : FldId := ⟨rBmw_LOG_E1, 31, 28⟩
abbrev fBmw_LOG_E1_SRC : FldId := ⟨rBmw_LOG_E1, 27, 25⟩
abbrev fBmw_LOG_E1_REPEAT : FldId := ⟨rBmw_LOG_E1, 24, 16⟩
abbrev fBmw_LOG_E1_ADDR : FldId := ⟨rBmw_LOG_E1, 8, 0⟩
abbrev rBmw_LOG_E2 : RegId := ⟨.bmw, 0, 0x8018⟩
abbrev fBmw_LOG_E2_SYNDROME : FldId := ⟨rBmw_LOG_E2, 31, 16⟩
abbrev fBmw_LOG_E2_SEC : FldId := ⟨rBmw_LOG_E2, 15, 0⟩
abbrev rBmw_LOG_E3 : RegId := ⟨.bmw, 0, 0x801C⟩
abbrev fBmw_LOG_E3_NS : FldId := ⟨rBmw_LOG_E3, 29, 0⟩
abbrev rBmw_BEAM_EVENT : RegId := ⟨.bmw, 0, 0x8020⟩
abbrev fBmw_BEAM_EVENT_SCRUB_PASS : FldId := ⟨rBmw_BEAM_EVENT, 4, 4⟩
abbrev fBmw_BEAM_EVENT_TRAIN_FAIL : FldId := ⟨rBmw_BEAM_EVENT, 3, 3⟩
abbrev fBmw_BEAM_EVENT_LOG_LOST : FldId := ⟨rBmw_BEAM_EVENT, 2, 2⟩
abbrev fBmw_BEAM_EVENT_POISON : FldId := ⟨rBmw_BEAM_EVENT, 1, 1⟩
abbrev fBmw_BEAM_EVENT_UE : FldId := ⟨rBmw_BEAM_EVENT, 0, 0⟩
abbrev rBmw_BEAM_EVENT_EN : RegId := ⟨.bmw, 0, 0x8024⟩
abbrev fBmw_BEAM_EVENT_EN_EN : FldId := ⟨rBmw_BEAM_EVENT_EN, 4, 0⟩
abbrev rSh_CTL (n : Nat) : RegId := ⟨.sh, n, 0x0⟩
abbrev fSh_CTL_SRST (n : Nat) : FldId := ⟨rSh_CTL n, 0, 0⟩
abbrev rSh_STAT (n : Nat) : RegId := ⟨.sh, n, 0x4⟩
abbrev fSh_STAT_HOUSE (n : Nat) : FldId := ⟨rSh_STAT n, 31, 31⟩
abbrev fSh_STAT_CLUSTER (n : Nat) : FldId := ⟨rSh_STAT n, 27, 24⟩
abbrev fSh_STAT_SAT (n : Nat) : FldId := ⟨rSh_STAT n, 9, 9⟩
abbrev fSh_STAT_CLIP (n : Nat) : FldId := ⟨rSh_STAT n, 8, 8⟩
abbrev fSh_STAT_BLOCKED (n : Nat) : FldId := ⟨rSh_STAT n, 7, 6⟩
abbrev fSh_STAT_HALT_SRC (n : Nat) : FldId := ⟨rSh_STAT n, 5, 4⟩
abbrev fSh_STAT_STATE (n : Nat) : FldId := ⟨rSh_STAT n, 2, 0⟩
abbrev rSh_PC (n : Nat) : RegId := ⟨.sh, n, 0x8⟩
abbrev fSh_PC_PC (n : Nat) : FldId := ⟨rSh_PC n, 15, 0⟩
abbrev rSh_FAULT (n : Nat) : RegId := ⟨.sh, n, 0xC⟩
abbrev fSh_FAULT_KIND (n : Nat) : FldId := ⟨rSh_FAULT n, 31, 28⟩
abbrev fSh_FAULT_FPC (n : Nat) : FldId := ⟨rSh_FAULT n, 15, 0⟩
abbrev rSh_IMAGE (n : Nat) : RegId := ⟨.sh, n, 0x10⟩
abbrev fSh_IMAGE_IMG_VER (n : Nat) : FldId := ⟨rSh_IMAGE n, 31, 16⟩
abbrev fSh_IMAGE_KEY_SLOT (n : Nat) : FldId := ⟨rSh_IMAGE n, 1, 0⟩
abbrev rSh_Q_SEL (n : Nat) : RegId := ⟨.sh, n, 0x14⟩
abbrev fSh_Q_SEL_SEL (n : Nat) : FldId := ⟨rSh_Q_SEL n, 3, 0⟩
abbrev rSh_Q_STAT (n : Nat) : RegId := ⟨.sh, n, 0x18⟩
abbrev fSh_Q_STAT_ACTIVE (n : Nat) : FldId := ⟨rSh_Q_STAT n, 31, 31⟩
abbrev fSh_Q_STAT_SRC (n : Nat) : FldId := ⟨rSh_Q_STAT n, 26, 16⟩
abbrev fSh_Q_STAT_LEVEL (n : Nat) : FldId := ⟨rSh_Q_STAT n, 10, 0⟩
abbrev rSh_MBOX (n : Nat) : RegId := ⟨.sh, n, 0x1C⟩
abbrev fSh_MBOX_SEND_DROP (n : Nat) : FldId := ⟨rSh_MBOX n, 31, 16⟩
abbrev fSh_MBOX_LEVEL (n : Nat) : FldId := ⟨rSh_MBOX n, 4, 0⟩
abbrev rSh_EVENT (n : Nat) : RegId := ⟨.sh, n, 0x20⟩
abbrev fSh_EVENT_HOUSE_RESTART (n : Nat) : FldId := ⟨rSh_EVENT n, 4, 4⟩
abbrev fSh_EVENT_OUT_RESYNC (n : Nat) : FldId := ⟨rSh_EVENT n, 3, 3⟩
abbrev fSh_EVENT_SEND_DROP (n : Nat) : FldId := ⟨rSh_EVENT n, 2, 2⟩
abbrev fSh_EVENT_FAULT (n : Nat) : FldId := ⟨rSh_EVENT n, 1, 1⟩
abbrev fSh_EVENT_HALTED (n : Nat) : FldId := ⟨rSh_EVENT n, 0, 0⟩
abbrev rSh_EVENT_EN (n : Nat) : RegId := ⟨.sh, n, 0x24⟩
abbrev fSh_EVENT_EN_EN (n : Nat) : FldId := ⟨rSh_EVENT_EN n, 4, 0⟩
abbrev rSh_CNT_CFG (n j : Nat) : RegId := ⟨.sh, n, 0x40 + 0x10 * j⟩
abbrev fSh_CNT_CFG_EN (n j : Nat) : FldId := ⟨rSh_CNT_CFG n j, 31, 31⟩
abbrev fSh_CNT_CFG_OVF (n j : Nat) : FldId := ⟨rSh_CNT_CFG n j, 30, 30⟩
abbrev fSh_CNT_CFG_SRC (n j : Nat) : FldId := ⟨rSh_CNT_CFG n j, 7, 0⟩
abbrev rSh_CNT_FILT (n j : Nat) : RegId := ⟨.sh, n, 0x44 + 0x10 * j⟩
abbrev fSh_CNT_FILT_PRIV (n j : Nat) : FldId := ⟨rSh_CNT_FILT n j, 31, 30⟩
abbrev fSh_CNT_FILT_MKIND (n j : Nat) : FldId := ⟨rSh_CNT_FILT n j, 29, 28⟩
abbrev fSh_CNT_FILT_MASTER (n j : Nat) : FldId := ⟨rSh_CNT_FILT n j, 27, 21⟩
abbrev fSh_CNT_FILT_ADDR_EN (n j : Nat) : FldId := ⟨rSh_CNT_FILT n j, 20, 20⟩
abbrev fSh_CNT_FILT_CLASS (n j : Nat) : FldId := ⟨rSh_CNT_FILT n j, 19, 16⟩
abbrev fSh_CNT_FILT_ALL (n j : Nat) : FldId := ⟨rSh_CNT_FILT n j, 15, 15⟩
abbrev fSh_CNT_FILT_OBJ (n j : Nat) : FldId := ⟨rSh_CNT_FILT n j, 9, 0⟩
abbrev rSh_CNT_VAL_LO (n j : Nat) : RegId := ⟨.sh, n, 0x48 + 0x10 * j⟩
abbrev fSh_CNT_VAL_LO_VAL (n j : Nat) : FldId := ⟨rSh_CNT_VAL_LO n j, 31, 0⟩
abbrev rSh_CNT_VAL_HI (n j : Nat) : RegId := ⟨.sh, n, 0x4C + 0x10 * j⟩
abbrev fSh_CNT_VAL_HI_OVF (n j : Nat) : FldId := ⟨rSh_CNT_VAL_HI n j, 31, 31⟩
abbrev fSh_CNT_VAL_HI_VAL (n j : Nat) : FldId := ⟨rSh_CNT_VAL_HI n j, 15, 0⟩
abbrev rSh_TAG_CTL (n : Nat) : RegId := ⟨.sh, n, 0x80⟩
abbrev fSh_TAG_CTL_EN (n : Nat) : FldId := ⟨rSh_TAG_CTL n, 31, 31⟩
abbrev fSh_TAG_CTL_K (n : Nat) : FldId := ⟨rSh_TAG_CTL n, 4, 0⟩
abbrev rSh_TAG_PC (n : Nat) : RegId := ⟨.sh, n, 0x84⟩
abbrev fSh_TAG_PC_VALID (n : Nat) : FldId := ⟨rSh_TAG_PC n, 31, 31⟩
abbrev fSh_TAG_PC_FRESH (n : Nat) : FldId := ⟨rSh_TAG_PC n, 30, 30⟩
abbrev fSh_TAG_PC_PC (n : Nat) : FldId := ⟨rSh_TAG_PC n, 15, 0⟩
abbrev rSh_TAG_STAGE (n : Nat) : RegId := ⟨.sh, n, 0x88⟩
abbrev fSh_TAG_STAGE_CYC (n : Nat) : FldId := ⟨rSh_TAG_STAGE n, 29, 0⟩
abbrev rWin_VF_ID (n : Nat) : RegId := ⟨.win, n, 0x0⟩
abbrev fWin_VF_ID_FN (n : Nat) : FldId := ⟨rWin_VF_ID n, 4, 0⟩
abbrev rWin_VF_REJ_LAST (n : Nat) : RegId := ⟨.win, n, 0x4⟩
abbrev fWin_VF_REJ_LAST_STATUS (n : Nat) : FldId := ⟨rWin_VF_REJ_LAST n, 31, 24⟩
abbrev fWin_VF_REJ_LAST_WR (n : Nat) : FldId := ⟨rWin_VF_REJ_LAST n, 23, 23⟩
abbrev fWin_VF_REJ_LAST_OFFSET (n : Nat) : FldId := ⟨rWin_VF_REJ_LAST n, 15, 0⟩
abbrev rWin_VF_REJ_CNT (n : Nat) : RegId := ⟨.win, n, 0x8⟩
abbrev fWin_VF_REJ_CNT_COUNT (n : Nat) : FldId := ⟨rWin_VF_REJ_CNT n, 31, 0⟩
abbrev rWin_VF_NUDGE (n : Nat) : RegId := ⟨.win, n, 0x10⟩
abbrev fWin_VF_NUDGE_ANY (n : Nat) : FldId := ⟨rWin_VF_NUDGE n, 31, 0⟩
abbrev rMsix_MSG_ADDR (n j : Nat) : RegId := ⟨.msix, n, 0x0 + 0x10 * j⟩
abbrev fMsix_MSG_ADDR_ADDR (n j : Nat) : FldId := ⟨rMsix_MSG_ADDR n j, 31, 2⟩
abbrev rMsix_MSG_UPPER (n j : Nat) : RegId := ⟨.msix, n, 0x4 + 0x10 * j⟩
abbrev fMsix_MSG_UPPER_ADDR (n j : Nat) : FldId := ⟨rMsix_MSG_UPPER n j, 31, 0⟩
abbrev rMsix_MSG_DATA (n j : Nat) : RegId := ⟨.msix, n, 0x8 + 0x10 * j⟩
abbrev fMsix_MSG_DATA_DATA (n j : Nat) : FldId := ⟨rMsix_MSG_DATA n j, 31, 0⟩
/-- PRESUMED, log entry 9. -/
abbrev rMsix_VEC_CTRL (n j : Nat) : RegId := ⟨.msix, n, 0xC + 0x10 * j⟩
abbrev fMsix_VEC_CTRL_MASK (n j : Nat) : FldId := ⟨rMsix_VEC_CTRL n j, 0, 0⟩
abbrev rMsix_PBA (n j : Nat) : RegId := ⟨.msix, n, 0x1000 + 0x4 * j⟩
abbrev fMsix_PBA_PENDING (n j : Nat) : FldId := ⟨rMsix_PBA n j, 31, 0⟩

end Sys2Proof.Machine
end

