-- ==== Sys2Proof/Machine/RegFile.lean ====
section
/-! DEFINITION. Bit fields of a register, association tables, the reset value of a register and the BAR 0 and
VF-window address maps (R39, R368, R564-R567). -/

namespace Sys2Proof.Machine

/-- The entry of `k`, or `d` where the table lists none. -/
def Tab.get {κ α : Type} [DecidableEq κ] (d : α) : Tab κ α → κ → α
  | [], _ => d
  | (k', v) :: r, k => if k' = k then v else Tab.get d r k

/-- The table with `k` bound to `v`. -/
def Tab.set {κ α : Type} [DecidableEq κ] : Tab κ α → κ → α → Tab κ α
  | [], k, v => [(k, v)]
  | (k', v') :: r, k, v => if k' = k then (k, v) :: r else (k', v') :: Tab.set r k v

/-- The entry of `k`, if any. -/
def Tab.find {κ α : Type} [DecidableEq κ] : Tab κ α → κ → Option α
  | [], _ => none
  | (k', v) :: r, k => if k' = k then some v else Tab.find r k

/-- The table without `k`. -/
def Tab.erase {κ α : Type} [DecidableEq κ] (t : Tab κ α) (k : κ) : Tab κ α := t.filter (·.1 ≠ k)

/-- Bits `hi:lo` of a word as a number. -/
def bits (w : W32) (hi lo : Nat) : Nat := w.toNat / 2 ^ lo % 2 ^ (hi + 1 - lo)

/-- The word with bits `hi:lo` replaced by the low bits of `v`. -/
def putBits (w : W32) (hi lo v : Nat) : W32 :=
  BitVec.ofNat 32 (w.toNat / 2 ^ (hi + 1) * 2 ^ (hi + 1) + v % 2 ^ (hi + 1 - lo) * 2 ^ lo + w.toNat % 2 ^ lo)

/-- A number of `n` bits read as two's complement. -/
def signed (n v : Nat) : Int := if v % 2 ^ n < 2 ^ (n - 1) then (v % 2 ^ n : Nat) else (v % 2 ^ n : Nat) - (2 ^ n : Nat)

/-- The low `n` bits of a two's complement number. -/
def unsigned (n : Nat) (v : Int) : Nat := (v % (2 ^ n : Nat)).toNat

/-- A field of a register kind that is reserved on one instance of it: CHc_DC on channels 0-3, the thresholds on channels
4-23, CHc_CFG.STAT_SRC below channel 16, CFGn.FAULT_OFF from BIAS8 on (R438, R439). -/
def reservedOn (r : RegId) (f : Fld) : Bool :=
  match r.blk with
  | .ch => decide ((r.inst < 4 ∧ r.off = 8) ∨ (4 ≤ r.inst ∧ 0xC ≤ r.off ∧ r.off ≤ 0x14) ∨ (r.inst < 16 ∧ f.name = "STAT_SRC"))
  | .bias => decide (0x60 ≤ r.off ∧ r.off < 0x80 ∧ f.name = "FAULT_OFF")
  | _ => false

/-- The kind of register that lies at an offset of a block, if the spec's tables list one (R564), with the fields that are
not reserved there. -/
def findReg (r : RegId) : Option RegDesc :=
  ((regTable r.blk).find? fun d =>
    decide (d.off ≤ r.off) &&
      (if d.cnt = 1 then r.off == d.off
       else decide (r.off < d.off + d.stride * d.cnt) && (r.off - d.off) % d.stride == 0)).map fun d =>
    { d with flds := d.flds.filter (!reservedOn r ·) }

/-- The reset value of a field: the table's, but for the fields whose reset value depends on the instance:
LNn.MODE_STAT.PORT_BASE, LNn.TX_FIR1 C2, the factory trim of LNn.TX_DAC_TRIM (R66), SHnn.STAT.HOUSE and CLUSTER, BIAS.CFGn.GROUP, THM.BANDb.LANE_RELAX, VF_ID
(their rows in R63, R335, R439, R477 and R368) (DESIGN CHOICE, log entry 77). -/
def fieldReset (r : RegId) (f : Fld) : Nat :=
  match r.blk with
  | .ln =>
    if r.off = 0 ∧ f.name = "PORT_BASE" then r.inst
    else if r.off = 0x114 ∧ f.name = "C_EVEN" then 256
    else if r.off = 0x128 then (if f.lo = 8 then (Config.dacTrim r.inst).toNat / 256 else (Config.dacTrim r.inst).toNat % 256)
    else f.rst
  | .sh =>
    if r.off = 4 ∧ f.name = "HOUSE" then (if r.inst < 4 then 1 else 0)
    else if r.off = 4 ∧ f.name = "CLUSTER" then r.inst / 8 else f.rst
  | .bias => if 0x40 ≤ r.off ∧ r.off < 0x80 ∧ f.name = "GROUP" then (r.off - 0x40) / 4 / 4 else f.rst
  | .thm =>
    if 0x10 ≤ r.off ∧ r.off ≤ 0x20 ∧ f.name = "LANE_RELAX" then
      (if r.off = 0x18 then 2 else if r.off = 0x1C ∨ r.off = 0x20 then 4 else 0)
    else f.rst
  | .win => if r.off = 0 then r.inst else f.rst
  | _ => f.rst

/-- The reset value of a register (R5): every field at the value its table states, reserved bits 0 (R1) (DESIGN CHOICE, log entry 77). -/
def regReset (r : RegId) : W32 :=
  match findReg r with
  | none => 0
  | some d => d.flds.foldl (fun w f => putBits w f.hi f.lo (fieldReset r f)) 0

/-- The base of a block in BAR 0 (R39), and within it of the sub-instance (R565). -/
def addrOf (r : RegId) : Nat :=
  (match r.blk with
   | .sys => 0x0 | .pci => 0x10000 | .que => 0x20000 | .nq => 0x20200 + 0x20 * r.inst
   | .qp => 0x30000 + 0x40 * r.inst | .drf => 0x40000 | .chk => 0x50000 | .ck => 0x50000 + 0x20 * r.inst
   | .stk => 0x60000 | .gen => 0x60000 + 0x40 * r.inst | .cox => 0x70000 | .cx => 0x71000 + 0x100 * r.inst
   | .mon => 0x80000 | .ch => 0x80100 + 0x20 * r.inst | .mgt => 0x81000 + 0x100 * r.inst | .bias => 0x90000
   | .pwr => 0xA0000 | .thm => 0xB0000 | .sec => 0xC0000 | .anc => 0xD0000 | .tst => 0xE0000
   | .split => 0xF0000 | .ln => 0x100000 + 0x10000 * r.inst | .loom => 0x200000
   | .bm => 0x300000 + 0x10000 * r.inst | .bmw => 0x300000 | .sh => 0x400000 + 0x1000 * r.inst
   | .win => 0 | .msix => 0x18000) + r.off

/-- A register identifier if the tables list one there. -/
def listed (b : Blk) (i o : Nat) : Option RegId :=
  if (findReg ⟨b, i, o⟩).isSome then some ⟨b, i, o⟩ else none

/-- The register at a BAR 0 address of the PF (R39, R337, R564, R565, R566); none where the offset is unassigned. -/
def decodeBar0 (a : Nat) : Option RegId :=
  if a < 0x10000 then listed .sys 0 a
  else if a < 0x20000 then
    (if 0x18000 ≤ a ∧ a < 0x19008 then listed .msix 0 (a - 0x18000) else listed .pci 0 (a - 0x10000))
  else if a < 0x20200 then listed .que 0 (a - 0x20000)
  else if a < 0x20600 then listed .nq ((a - 0x20200) / 0x20) ((a - 0x20200) % 0x20)
  else if a < 0x30000 then none
  else if a < 0x34000 then listed .qp ((a - 0x30000) / 0x40) (a % 0x40)
  else if a < 0x40000 then none
  else if a < 0x50000 then listed .drf 0 (a - 0x40000)
  else if a < 0x50200 then listed .ck ((a - 0x50000) / 0x20) (a % 0x20)
  else if a < 0x60000 then listed .chk 0 (a - 0x50000)
  else if a < 0x60100 then listed .gen ((a - 0x60000) / 0x40) (a % 0x40)
  else if a < 0x70000 then listed .stk 0 (a - 0x60000)
  else if 0x71000 ≤ a ∧ a < 0x71200 then listed .cx ((a - 0x71000) / 0x100) (a % 0x100)
  else if a < 0x80000 then listed .cox 0 (a - 0x70000)
  else if 0x80100 ≤ a ∧ a < 0x80400 then listed .ch ((a - 0x80100) / 0x20) (a % 0x20)
  else if 0x81000 ≤ a ∧ a < 0x81800 then listed .mgt ((a - 0x81000) / 0x100) (a % 0x100)
  else if a < 0x90000 then listed .mon 0 (a - 0x80000)
  else if a < 0xA0000 then listed .bias 0 (a - 0x90000)
  else if a < 0xB0000 then listed .pwr 0 (a - 0xA0000)
  else if a < 0xC0000 then listed .thm 0 (a - 0xB0000)
  else if a < 0xD0000 then listed .sec 0 (a - 0xC0000)
  else if a < 0xE0000 then listed .anc 0 (a - 0xD0000)
  else if a < 0xF0000 then listed .tst 0 (a - 0xE0000)
  else if a < 0x100000 then listed .split 0 (a - 0xF0000)
  else if a < 0x180000 then listed .ln ((a - 0x100000) / 0x10000) (a % 0x10000)
  else if a < 0x200000 then none
  else if a < 0x300000 then listed .loom 0 (a - 0x200000)
  else if 0x308000 ≤ a ∧ a < 0x308028 then listed .bmw 0 (a - 0x300000)
  else if a < 0x400000 then listed .bm ((a - 0x300000) / 0x10000) (a % 0x10000)
  else if a < 0x460000 then listed .sh ((a - 0x400000) / 0x1000) (a % 0x1000)
  else none

/-- The register at a window offset of VF `fn` whose queue-pair range is `base`, `count` (R368, R567, R569) (DEDUCED, log entry 17). -/
def decodeWin (fn base count a : Nat) : Option RegId :=
  if a = 0 ∨ a = 4 ∨ a = 8 ∨ a = 0x10 then some ⟨.win, fn, a⟩
  else if 0x100 ≤ a ∧ a ≤ 0x114 then listed .nq fn (a - 0x100)
  else if 0x1000 ≤ a ∧ a < 0x1000 + 0x40 * count then listed .qp (base + (a - 0x1000) / 0x40) (a % 0x40)
  else if 0x8000 ≤ a ∧ a < 0x9008 then listed .msix fn (a - 0x8000)
  else none

/-- The value `w` after a write of `v` by access type (R1, R3): reserved, RO and WO bits keep what they hold. -/
def applyAccess (d : RegDesc) (w v : W32) : W32 :=
  d.flds.foldl (fun acc f =>
    match f.acc with
    | .rw | .rws | .rwl | .sh => putBits acc f.hi f.lo (bits v f.hi f.lo)
    | .w1c => putBits acc f.hi f.lo (bits (w &&& ~~~v) f.hi f.lo)
    | .w1s => putBits acc f.hi f.lo (bits (w ||| v) f.hi f.lo)
    | .ro | .wo => acc) w

/-- The value with the WO fields reading 0 (R3). -/
def maskWo (d : RegDesc) (w : W32) : W32 :=
  d.flds.foldl (fun acc f => match f.acc with | .wo => putBits acc f.hi f.lo 0 | _ => acc) w

/-- A written field lies within its permitted range. -/
def inRange (d : RegDesc) (v : W32) : Bool :=
  d.flds.all fun f => match f.acc with
    | .rw | .rws | .rwl | .sh | .wo => decide (f.min ≤ bits v f.hi f.lo ∧ bits v f.hi f.lo ≤ f.max)
    | _ => true

/-- A write of `v` over `w` would change some field with access type `a`. -/
def changes (d : RegDesc) (a : Acc) (w v : W32) : Bool :=
  d.flds.any fun f => decide (f.acc = a ∧ bits v f.hi f.lo ≠ bits w f.hi f.lo)

/-- A register holds a result: it carries VALID in bit 31 and FRESH in bit 30 (R14, R15). -/
def isResult (d : RegDesc) : Bool :=
  d.flds.any (fun f => f.name == "VALID" && f.hi == 31) && d.flds.any (fun f => f.name == "FRESH" && f.hi == 30)

end Sys2Proof.Machine
end

