-- ==== Sys2Proof/Machine/State.lean ====
section
/-! DEFINITION. The state of the PT3208: plain data. Every host-visible register lives in the register bank `regs`
(reset values in RegFile.lean); what the spec gives the device beside its registers is in the typed records here. -/

namespace Sys2Proof.Machine

/-- The reasons for which the device could stop as a machine. The spec gives none: every command and event has an
effect, if only a rejection. -/
inductive Fault where
  deriving DecidableEq, Repr

/-- The reasons for which a command has no meaning in the model. -/
inductive Refusal where
  /-- Raised by the dispatcher alone, for a command whose meaning is not written; safe. -/
  | notModelled (mnemonic : String)
  deriving DecidableEq, Repr

/-- A PAM4 level (R132): -3, -1, +1 or +3. -/
inductive Pam4 where
  | m3 | m1 | p1 | p3
  deriving DecidableEq, Repr, Inhabited

/-- The three delay cells of the inner encoder (R130). -/
structure Inner where
  d1 : Bool := false
  d2 : Bool := false
  d3 : Bool := false
  deriving DecidableEq, Repr, Inhabited

/-- A survivor of the trellis (R78, R134): the encoder's cells, the last two symbols and those not yet decided, newest
first, and the path metric. -/
structure Surv where
  enc    : Inner
  prev   : List Pam4
  path   : List Pam4
  metric : Rat
  deriving DecidableEq, Repr, Inhabited

/-- What a two-wire master does on its bus (R434): START, a byte sent, a byte received and whether it is acknowledged, STOP. -/
inductive TwoWire where
  | start
  | send (b : Byte)
  | receive (ack : Bool)
  | stop
  deriving DecidableEq, Repr, Inhabited

/-- What the device drives outwards, as an observer outside sees it (DESIGN CHOICE, log entry 78). -/
inductive Out where
  /-- A posted write to host memory (R354, R573). -/
  | hostWrite (addr : Nat) (data : List Byte)
  /-- A posted read request to host memory. -/
  | hostRead (fn addr len : Nat)
  /-- An MSI-X message (R364, R365). -/
  | msix (fn vec addr data : Nat)
  /-- The value a register read returned (R33). -/
  | readData (fn : Nat) (v : W32)
  /-- The bytes a BAR 2 read returned, and the poisoned bit of its completion (R278, R293). -/
  | bar2Data (data : List Byte) (poisoned : Bool)
  /-- A frame on a MAC's transmit side, with or without a correct FCS (R28, R49). -/
  | frame (ep : Nat) (data : List Byte) (fcsGood : Bool)
  /-- Superframes of a lane: the first codeword pair of its transmit PCS in them, and how many there are (R133, R142). -/
  | superframes (lane first count : Nat)
  /-- The idle marker of a lane, from the encoder's cells, and its catch burst (R61, R62, R141). -/
  | idleMarker (lane : Nat) (enc : Inner)
  | catchBurst (lane : Nat)
  /-- A catch training sequence with its TRAIN_ID and REP_LEFT (R137, R138). -/
  | catchTrain (lane trainId repLeft : Nat)
  /-- An item on a cox link: its start character and bytes (R161-R163). -/
  | coxItem (link : Nat) (kchar : Nat) (data : List Byte)
  /-- The K28.5 wake run of a cox link (R168). -/
  | coxWakeRun (link : Nat)
  /-- A PTM request (R192). -/
  | ptmRequest
  /-- A two-wire transaction on a management master, at its SPEED, as it runs when every byte is acknowledged (R434); a STOP by itself
  after one that is not (R435); and its two balls released (R435, R436). -/
  | mgt (n speed : Nat) (steps : List TwoWire)
  | mgtReleased (n : Nat)
  /-- A transmit pair at electrical idle (R540). -/
  | elecIdle (ball : String)
  /-- An LTR message: the snoop and no-snoop latency it reports in ns, none with the Requirement bits clear (R457). -/
  | ltr (ns : Option (Nat × Nat))
  /-- A request for a link state: 1 for L1, 2 for L1.2 (R458). -/
  | linkPm (state : Nat)
  /-- What the test access port shifts out: a challenge (R494), IDCODE, or nothing but the bypass bit (R493). -/
  | tap (data : List Byte)
  /-- The level of STROKE_OUT, PPS_OUT, THERMTRIP_N, ALERT_N, MOD_RST_N or a heater output; none is high impedance
  (R206, R207, R433, R436, R540). -/
  | pin (name : String) (level : Option Bool)
  /-- A bias output moves to the value of a span and a code, or to the span's safe value: `level` in µA for BIAS0-BIAS7 and in
  µV for the others (R426, R430). -/
  | bias (n span : Nat) (code : Option Nat) (level : Rat)
  /-- A heater's period starts: high for `high` D_MON cycles, then low for the rest of `period` (R433). -/
  | heater (n high period : Nat)
  /-- A bias output sources nothing, or is high-impedance (R427, R540). -/
  | biasOff (n : Nat)
  /-- A read of the flash: command, address and length (R485). -/
  | flashRead (command addr len : Nat)
  /-- The flash is written at an address: a slot, or the marker (R488). -/
  | flash (addr : Nat) (data : List Byte)
  deriving DecidableEq, Repr

/-- A completion that the device has to write (R353): status, kind, RESULT and the host writes that precede it. -/
structure Compl where
  hdr    : Hdr
  status : Nat
  kind   : Nat
  result : List Byte
  data   : List (Nat × List Byte)
  resbuf : Bool
  deriving DecidableEq, Repr, Inhabited

/-- A command taken and not completed (R347): with `waiting` it stands behind a FENCE and is not yet accepted (R382). -/
structure Taken where
  hdr     : Hdr
  /-- its descriptor in the generation 2 layout (R348, R349) -/
  desc    : List Byte
  fence   : Bool
  waiting : Bool
  /-- it has begun (R352) -/
  begun   : Bool := false
  /-- KIND of its completion record (R353) -/
  kind    : Nat := 0
  /-- the status of R350 with which it completes as soon as it begins -/
  bad     : Option Nat := none
  deriving DecidableEq, Repr, Inhabited

/-- A posted receive buffer (R359). -/
structure Posted where
  hdr  : Hdr
  addr : Nat
  len  : Nat
  deriving DecidableEq, Repr, Inhabited

/-- What a queue pair holds beside its registers. -/
structure Qp where
  /-- a doorbell record read is due (R345) -/
  due     : Bool := false
  /-- the submission index that the last good doorbell record gave (R344) -/
  sqPi    : Nat := 0
  /-- the completion slot the host will consume next (R343) -/
  cqCi    : Nat := 0
  /-- slots that the read request in flight asks for; 0 with none (R346) -/
  asked   : Nat := 0
  /-- descriptors read and not taken, oldest first (R346) -/
  fetched : List (List Byte) := []
  /-- commands taken and not completed, oldest first (R347) -/
  taken   : List Taken := []
  /-- posted receive buffers, oldest first (R359) -/
  posted  : List Posted := []
  /-- records pending for the interrupt and when the oldest was written (R365) -/
  irqPend : Nat := 0
  irqSince : Nat := 0
  deriving DecidableEq, Repr, Inhabited

/-- What a notice ring holds beside its registers: a LOST flag due and its interrupt moderation (R362, R365). -/
structure Ring where
  lostDue : Bool := false
  irqPend : Nat := 0
  irqSince : Nat := 0
  deriving DecidableEq, Repr, Inhabited

/-- An entry of SYS.REJECT_LOG (R366) (DESIGN CHOICE, log entry 16). -/
structure Rej where
  offset : Nat
  status : Nat
  fn     : Nat
  wr     : Bool
  space  : Nat
  deriving DecidableEq, Repr, Inhabited

/-- The settings and the error status of configuration space that act on the device or that it sets (R192, R336, R338, R365, R444, R458;
PCIe Base Specification) (PRESUMED, log entry 9). -/
structure CfgSt where
  /-- PTM Enable, LTR Mechanism Enable, ASPM L1 Enable and L1.2 Enable of the PF -/
  ptm     : Bool := false
  ltr     : Bool := false
  l1      : Bool := false
  l12     : Bool := false
  /-- Max Snoop and Max No-Snoop Latency: value in bits 9:0, scale in bits 12:10 -/
  snoop   : Nat := 0
  noSnoop : Nat := 0
  /-- Max Payload Size and Max Read Request Size, coded as 128 bytes times 2 to it -/
  maxPay  : Nat := 0
  maxRead : Nat := 2
  /-- MSI-X Enable and Function Mask of each function -/
  msixOn  : Tab Nat Bool := []
  msixOff : Tab Nat Bool := []
  /-- AER: Uncorrectable and Correctable Error Status -/
  aerUnc  : Nat := 0
  aerCor  : Nat := 0
  deriving DecidableEq, Repr, Inhabited

/-- The host interface beside its registers (PRESUMED, log entry 9; DESIGN CHOICE, log entry 78). -/
structure HostSt where
  qps     : Tab Nat Qp := []
  rings   : Tab Nat Ring := []
  /-- Bus Master Enable of each function (R339); 0 for a function not listed -/
  bme     : Tab Nat Bool := []
  /-- what configuration space holds beside them (R336, R338) -/
  cfg     : CfgSt := {}
  /-- NumVFs with VF Enable set in the SR-IOV capability; VF 1 to `vfs` are enabled (PCIe Base Specification) -/
  vfs     : Nat := 0
  /-- completions that wait for Bus Master Enable, oldest first (R339) -/
  held    : List (Nat × Compl) := []
  /-- the entries of SYS.REJECT_LOG, oldest first (R366) -/
  rejLog  : List Rej := []
  /-- _LO writes held per function and register (R13) -/
  loHeld  : Tab (Nat × RegId) W32 := []
  /-- high halves latched by _LO reads per function (R11, R12), keyed by the _HI register -/
  hiLatch : Tab (Nat × RegId) W32 := []
  /-- captured registers per function (R571) -/
  capt    : Tab (Nat × RegId) W32 := []
  /-- when a rate-limited event last raised its notice -/
  lastNote : Tab (RegId × Nat) Nat := []
  /-- everything that left the device, newest first -/
  out     : List Out := []
  deriving DecidableEq, Repr, Inhabited

/-- The LANE_MODE that a port's base lane carries until it completes (R60). -/
structure ModeCmd where
  hdr     : Hdr
  count   : Nat
  mode    : Nat
  variant : Nat
  width   : Nat
  end_    : Nat
  /-- some lane's mode, variant or width differs from the command's -/
  changed : Bool
  /-- step 2 has ended -/
  tuned   : Bool := false
  deriving DecidableEq, Repr, Inhabited

/-- A LANE_LOOP that waits for the ramps of R507. -/
structure LoopCmd where
  hdr  : Hdr
  kind : Nat
  deriving DecidableEq, Repr, Inhabited

/-- Where a frame on a MAC's transmit side comes from (R29). -/
inductive TxSrc where
  | express (rule inPort : Nat)
  /-- a paced packet with its schedule time and its port's spacing (R259); the last packet of a stored frame names its
  bolt and index (R250) -/
  | media (port due trs : Nat) (ends : Option (Nat × Nat))
  | host (h : Hdr)
  deriving DecidableEq, Repr

/-- A frame that waits for a MAC's transmitter; `bad` marks an express frame found bad after cut-through began (R28). -/
structure TxFrame where
  src  : TxSrc
  data : List Byte
  bad  : Bool := false
  deriving DecidableEq, Repr

/-- A reception that a preamble correlator follows (R144): the last peak's place and size, whether a second
positive peak has confirmed it, and whether the negative peak has ended the preamble. -/
structure Reception where
  at_       : Nat
  mag       : Nat
  confirmed : Bool
  ended     : Bool
  deriving DecidableEq, Repr, Inhabited

/-- A merit window: its symbols so far, and for each level that the trellis decided the number of its samples, the sum of their
expected values and the sum of their squared errors (R84). -/
structure MeritWin where
  n   : Nat := 0
  lev : Tab Nat (Nat × Rat × Rat) := []
  deriving DecidableEq, Repr, Inhabited

/-- What a decided symbol gives: the symbol after precode decoding, its information bits and the INNER_CNT increment, and for merit
its level, the expected value and the value at the trellis input (R81, R84, R127). -/
structure Given where
  sym   : Pam4
  bits  : Nat
  inner : Nat
  lev   : Nat
  exp   : Rat
  z     : Rat
  deriving DecidableEq, Repr, Inhabited

/-- The detector as it stood at a superframe boundary, where an idle marker or a catch sequence may begin, and the values at the
trellis input since (R137, R143). -/
structure Fork where
  surv      : List Surv
  undecided : List Pam4
  us        : List Rat
  fin       : List Pam4
  xs        : List Rat := []
  deriving DecidableEq, Repr, Inhabited

/-- A lane's PRBS checker: its register, newest bit first, the error-free symbols since it was seeded, SYNC, which of the last 256 symbols
in SYNC carry an error, newest first, and the bits compared and the bit errors since SYNC was declared (R510). -/
structure Checker where
  reg   : List Bool := []
  run   : Nat := 0
  sync  : Bool := false
  flags : List Bool := []
  bits  : Nat := 0
  errs  : Nat := 0
  deriving DecidableEq, Repr, Inhabited

/-- What a lane holds beside its registers. -/
structure Lane where
  modeCmd   : Option ModeCmd := none
  /-- the amplitude scale a (R56) and the latched RAMP_US -/
  amp       : Nat := 0
  rampUs    : Nat := 8
  /-- a LANE_LOOP that has not completed (R507) -/
  loopCmd   : Option LoopCmd := none
  /-- under R507, the transmitter state that the lane held before step 1 -/
  loopPrior : Option Nat := none
  /-- under KIND 3, the frames sent into the port's receive side and not yet received, with whether each ends well (R505) -/
  looped    : List (List Byte × Bool) := []
  /-- the PRBS checker (R510) -/
  chk       : Checker := {}
  /-- INJ and INJ_ARG in force and since when (R511) -/
  inj       : Nat := 0
  injArg    : Nat := 0
  injAt     : Nat := 0
  /-- the lanes that a BLK reset in progress covers (R59) -/
  srst      : List Nat := []
  /-- a LANE_TRAIN that waits for its first sequence (R380) -/
  trainCmd  : Option Hdr := none
  /-- when the train's last sequence began; none before its first (R138) -/
  trainAt   : Option Nat := none
  /-- codeword pairs that the transmit PCS has sent since transmission began, and the inner encoder's cells (R53, R130, R142) -/
  txPairs   : Nat := 0
  txEnc     : Inner := {}
  /-- frames waiting on this MAC, by the classes of R29, oldest first -/
  express   : List TxFrame := []
  media     : List TxFrame := []
  host      : List TxFrame := []
  /-- frames discarded on this MAC's transmit side (R47, R55), frames received bad, short, MAC control, filtered (R27, R49, R50) -/
  txDrop    : Nat := 0
  rxBad     : Nat := 0
  rxShort   : Nat := 0
  rxCtl     : Nat := 0
  rxFilt    : Nat := 0
  /-- express frames ended with an inverted FCS (R28), and the free-running byte counts of R527 -/
  txBad     : Nat := 0
  rxBytes   : Nat := 0
  txBytes   : Nat := 0
  /-- a LANE_MODE turned the lane on and no LOCK_GAINED has come since (R107) -/
  calFirst  : Bool := false
  /-- the calibration interval expired while the receiver was not LOCKED (R107) -/
  calDue    : Bool := false
  /-- the current TRAIN uses the catch sequence; the TRAIN_ID last trained from, none after a decision-directed train (R139) -/
  fromCatch : Bool := false
  lastId    : Option Nat := none
  curId     : Option Nat := none
  curRep    : Nat := 0
  /-- consecutive windows at or above LOCK_THR, below it, and below RETRAIN_THR (R88) -/
  lockRun   : Nat := 0
  failRun   : Nat := 0
  lowRun    : Nat := 0
  /-- the candidate pair (L, N) chosen, the one under evaluation, its windows and their scores, and those scored (R90) -/
  chosen    : Option (Nat × Nat) := none
  cand      : Option (Nat × Nat) := none
  candWin   : Nat := 0
  candSum   : Nat := 0
  scored    : List ((Nat × Nat) × Nat) := []
  /-- the step exponent k of R75 and the blocks since it last rose -/
  k         : Nat := 6
  kBlocks   : Nat := 0
  /-- the taps of bins 0-128 (R72) -/
  taps      : Tab Nat (Int × Int) := []
  /-- the offset that DC restore removes, 1/64 LSB (R82), the sampling phase, 1/256 of a symbol (R71, R144), and the common gain
  that a wake has set (R87, R144) -/
  dc        : Int := 0
  phase     : Int := 0
  gain      : Rat := 1
  /-- the last 128 samples, oldest first, and |Y_b|² of up to 64 blocks, newest first (R75) -/
  samples   : List Int := []
  powers    : List (List Rat) := []
  /-- the place in the superframe of the next symbol received (R133, R144) -/
  sf        : Nat := 0
  /-- tentative decisions, newest first (R80), and those whose symbols the trellis has not decided, oldest first -/
  tent      : List Pam4 := []
  undecided : List Pam4 := []
  /-- the values at the trellis input of the symbols not decided, oldest first, the last two symbols decided, newest first, and the
  last block's slicer errors, newest first (R75, R79, R80, R84) -/
  us        : List Rat := []
  fin       : List Pam4 := []
  errs      : List Rat := []
  /-- symbols since the last update of the DFE and of the target (R79, R80) -/
  dfeSyms   : Nat := 0
  tgtSyms   : Nat := 0
  /-- the trellis's survivors, the last symbol it decided before precode decoding, and what the last block delivered (R78, R81) -/
  surv      : List Surv := []
  rxPre     : Nat := 0
  decided   : List Pam4 := []
  /-- M400: the detector at the last superframe boundary while an idle marker or a catch sequence may have begun there, what has been
  decided since, and the symbols of a catch sequence still to come (R137, R143) -/
  fork      : Option Fork := none
  held      : List Given := []
  skip      : Nat := 0
  /-- M400: information bits delivered and not yet decoded as codewords (R87, R143) -/
  rsBits    : Nat := 0
  /-- the merit window that runs, and one that is complete (R84) -/
  win       : MeritWin := {}
  winDone   : Option MeritWin := none
  /-- reliabilities of the inner codeword that is arriving (R78, R135) -/
  soft      : List (Option Rat × Option Rat) := []
  /-- the reception that the preamble correlator follows (R144) -/
  rcpt      : Option Reception := none
  /-- in IDLE, since when the input has held a signal (R149) -/
  sigSince  : Option Nat := none
  /-- codeword pairs that the receive PCS has taken since it was last aligned with the transmitter's (R142, R143, R148) -/
  rxPairs   : Nat := 0
  /-- M400: the message of codeword A of a pair whose codeword B has not come, and the last pair restored (R126) -/
  pairA     : Option (List Nat) := none
  restored  : List Nat := []
  /-- whether each of the port's last codewords was uncorrectable, newest first (R27, R125) -/
  cwBad     : List Bool := []
  /-- the degrade window: codewords and corrected symbols so far (R129) -/
  degCw     : Nat := 0
  degC      : Nat := 0
  /-- snapshots requested and not ready (R100, R117) -/
  fdeReq    : Option Nat := none
  calReq    : Option Nat := none
  /-- anchors by (slice, quantity, anchor), active values by (slice, quantity); factory values where not listed (R104, R113, R119) -/
  anchors   : Tab (Nat × Nat × Nat) Int := []
  active    : Tab (Nat × Nat) Rat := []
  /-- the calibration temperature, 1/16 degree, once one has come (R112), and up to when the active values have followed it (R114) -/
  temp      : Option Int := none
  trackAt   : Nat := 0
  /-- targets of the pass in APPLY, the values it started from, its steps S and the steps made (R115) -/
  calTarget : Tab (Nat × Nat) Rat := []
  calFrom   : Tab (Nat × Nat) Rat := []
  calS      : Nat := 0
  calStep   : Nat := 0
  /-- WIN_LOG2 of the estimation window (R118), and the least, the greatest, the sum and the number of the calibration
  temperatures of the window, 1/16 degree (R109, R112) -/
  calWin    : Nat := 24
  calTmin   : Int := 0
  calTmax   : Int := 0
  calTsum   : Int := 0
  calTn     : Nat := 0
  /-- the FEC histogram (R127) -/
  hist      : Tab Nat Nat := []
  deriving DecidableEq, Repr

/-- The definition of a stroke generator (R194, R195); PHASE in ns. -/
structure GenDef where
  num   : Nat
  den   : Nat
  phase : Int
  src   : Nat
  mode  : Nat
  deriving DecidableEq, Repr, Inhabited

/-- A definition accepted and not yet in effect (R196): when it was accepted on the running clock, the epoch index and
the instant of its first stroke. -/
structure NewDef where
  d   : GenDef
  acc : Nat
  j   : Int
  at_ : Int
  deriving DecidableEq, Repr, Inhabited

/-- A STROKE_JUMP that waits for its stroke (R201): the offset in ns and when it was accepted. -/
structure JumpCmd where
  hdr   : Hdr
  delta : Int
  acc   : Nat
  deriving DecidableEq, Repr, Inhabited

/-- An offset measured at a STROKE_IN edge (R198), in 2^-16 ns, the edge's time on the running clock, and whether a
slew step has used it. -/
structure InOfs where
  ofs  : Int
  at_  : Int
  used : Bool
  deriving DecidableEq, Repr, Inhabited

/-- A stroke generator beside its registers. Instants are timebase values in 2^-16 ns. -/
structure Gen where
  /-- the definition in effect, none while stopped -/
  d       : Option GenDef := none
  /-- OFS in units of 2^-16 / NUM ns, in which R194 is exact -/
  ofs     : Int := 0
  /-- the count offset (R574) and the step residue (R577) -/
  m       : Int := 0
  resid   : Int := 0
  /-- the epoch index of the next stroke and its instant, fixed at the last stroke (R197) -/
  j       : Int := 0
  at_     : Int := 0
  /-- a definition accepted and not yet in effect (R196) -/
  new     : Option NewDef := none
  /-- a stop accepted and not yet in effect (R195) -/
  stop    : Bool := false
  /-- a STROKE_JUMP that waits for its stroke (R201) -/
  jump    : Option JumpCmd := none
  /-- FOLLOW steps not yet returned: when, and the step in 2^-16 ns (R202) -/
  follow  : List (Nat × Int) := []
  /-- the last stroke fired since reset: count and instant (R195), its instant in the timebase as stepped since (R198),
  and the interval published with it (R197) -/
  last    : Option (Nat × Int) := none
  fired   : Int := 0
  interval : Int := 0
  /-- counts that a jump passed over before the next stroke -/
  passed  : Option (Nat × Nat) := none
  /-- a slew run is under way (R199) -/
  slewing : Bool := false
  /-- STROKE_IN measurements, newest first; inside a run outside W; strokes without an edge; slewing stopped (R198-R200) -/
  ins     : List InOfs := []
  outside : Bool := false
  noEdge  : Nat := 0
  inLost  : Bool := false
  /-- lead: the next stroke's marker has left; it carries JUMP, DEF_CHG (R171, R172) -/
  sent    : Bool := false
  jumpMk  : Bool := false
  defChg  : Bool := false
  /-- member: count and instant of a marker that came before any definition (R171) -/
  bare    : Option (Nat × Int) := none
  /-- member: a definition that a DEF frame brought and no stroke has shown yet; the generator starts, or starts again, with its
  next stroke; strokes have been fired from markers alone since it stopped (R171, R172) -/
  fresh   : Bool := false
  restart : Bool := false
  bareRun : Bool := false
  /-- member: the next stroke's marker arrived in time, or late (R171) -/
  marked  : Bool := false
  late    : Bool := false
  deriving DecidableEq, Repr, Inhabited

/-- The timebase block beside its registers and generators (PRESUMED, log entry 9). -/
structure TimeSt where
  /-- the rounding residue carried from tick to tick, in 10^-6 of 2^-16 ns (R183) -/
  res     : Int := 0
  /-- the low half of the last offset sample that took effect (R13) -/
  servoLo : Nat := 0
  /-- consecutive samples below 100 ns and above STEP_THR (R188) -/
  runIn   : Nat := 0
  runOut  : Nat := 0
  /-- how long each frequency was in use in LOCKED, newest first, and when the last sample came -/
  hist    : List (Nat × Int) := []
  lastAt  : Nat := 0
  /-- the timebase at the request of each PTM dialog that waits for its response, oldest first (R192) -/
  ptm     : List Nat := []
  /-- the instant of the stroke whose effects are under way: notices carry it (R37) -/
  stroke  : Option Int := none
  /-- when the pulses in progress on STROKE_OUT and PPS_OUT end, on the running clock (R206) -/
  soEnd   : Option Nat := none
  ppsEnd  : Option Nat := none
  /-- the whole second that the timebase has reached by advancing, while its PPS has not come (R206) -/
  ppsAt   : Option Nat := none
  deriving DecidableEq, Repr, Inhabited

/-- What the completion of a crew frame's sending tells (R379): nothing, a CREW_RELAY, or a DISSOLVE of CREW_LEAVE. -/
inductive FrameTag where
  | plain
  | relay (h : Hdr)
  | dissolve
  deriving DecidableEq, Repr

/-- A crew frame (R163) that waits for a cox transmitter. -/
structure CrewFrame where
  typ     : Nat
  flags   : Nat
  src     : Nat
  dst     : Nat
  seq     : Nat
  payload : List Byte
  tag     : FrameTag := .plain
  deriving DecidableEq, Repr

/-- A marker's bytes, or a beacon, that waits for a sleeping transmitter's wake run (R168). -/
inductive CoxItem where
  | marker (b : List Byte)
  | beacon
  deriving DecidableEq, Repr

/-- A cox link beside its registers. -/
structure CoxLink where
  /-- items waiting for the wake run, and crew frames not yet sent, the one in progress first (R165, R168) -/
  items   : List CoxItem := []
  frames  : List CrewFrame := []
  /-- consecutive windows at or above UP_THR with no violation, and below DOWN_THR (R158) -/
  upRun   : Nat := 0
  downRun : Nat := 0
  /-- since when the receiver has been in UP (R180) -/
  upSince : Nat := 0
  /-- SEQ of the last beacon sent, the DEPART of each beacon sent by SEQ, SEQ and ARRIVE of the last one received (R162, R169) -/
  seq     : Nat := 0
  departs : Tab Nat Nat := []
  heard   : Option (Nat × Nat) := none
  /-- the last 16 delay results, newest first, and the last offset, in 2^-17 ns (R169, R178) -/
  delays  : List Int := []
  ofs     : Int := 0
  /-- when the next LINK_FAULT frame is due in FAULT, on the running clock (R157) -/
  faultAt : Nat := 0
  /-- INJ and INJ_ARG in force and since when (R511) -/
  inj     : Nat := 0
  injArg  : Nat := 0
  injAt   : Nat := 0
  deriving DecidableEq, Repr

/-- The crew beside its registers. -/
structure CrewSt where
  /-- a CREW_JOIN and a CREW_LEAVE that have not completed, and the links on which DISSOLVE has still to leave -/
  join     : Option Hdr := none
  leave    : Option Hdr := none
  dissolve : Nat := 0
  /-- the crew is formed (R174) -/
  formed   : Bool := false
  /-- RELAY_EN of the join, and the queue pair that receives relayed frames (R381) -/
  relayEn  : Bool := false
  rxQp     : Nat := 0
  /-- SEQ of the next crew frame -/
  seq      : Nat := 0
  /-- consecutive beacons with the offset within 1 ns (R174) -/
  alignRun : Nat := 0
  /-- the breaks known, each as the member that told of it and its faulted link; lead: strokes of the lowest shared
  generator since the break in progress (R178-R180) -/
  breaks   : List (Nat × Nat) := []
  strokes  : Nat := 0
  /-- the member has raised HOLDOVER, and LEAD_LOST, for the breaks known (R180) -/
  cut      : Bool := false
  lost     : Bool := false
  /-- links that unwrap at the next stroke of the lowest shared generator (R180) -/
  unwrap   : List Nat := []
  /-- breaks that are mended then, and no longer known (R180) -/
  mend     : List (Nat × Nat) := []
  deriving DecidableEq, Repr

/-- An entry of a beam port's merge buffer (R281): the line (address / 64), when it was allocated, and its bytes by
offset in the line. -/
structure MergeEnt where
  line  : Nat
  since : Nat
  bytes : Tab Nat Byte
  deriving DecidableEq, Repr, Inhabited

/-- An entry of the beam error log (R291). -/
structure BeamErr where
  addr   : Nat
  kind   : Nat
  src    : Nat
  rep    : Nat
  synd   : Nat
  sec    : Nat
  ns     : Nat
  deriving DecidableEq, Repr, Inhabited

/-- A bay (R271). -/
structure Bay where
  owner : Nat
  base  : Nat
  size  : Nat
  deriving DecidableEq, Repr, Inhabited

/-- What writes a bolt (R385). -/
inductive Writer where
  | isp (port : Nat)
  | stream (sh o : Nat)
  deriving DecidableEq, Repr

/-- The media format of a bolt's writer or of an egress port (R215, R223, R230-R232, R242). -/
structure Format where
  ess      : Nat
  num      : Nat
  den      : Nat
  /-- ESSENCE 0: width, height, sampling, depth, scan -/
  width    : Nat := 0
  height   : Nat := 0
  sampling : Nat := 0
  depth    : Nat := 0
  scan     : Nat := 0
  /-- ESSENCE 1, 2: channels, L16, packets a block -/
  chans    : Nat := 0
  l16      : Nat := 0
  pkts     : Nat := 0
  /-- ESSENCE 4: SDI frame size -/
  sdi      : Nat := 0
  deriving DecidableEq, Repr, Inhabited

/-- A bind accepted and not completed (R275): its command and the bolt's new place. -/
structure Binding where
  hdr   : Hdr
  bay   : Nat
  kind  : Nat
  base  : Nat
  ofs   : Nat
  size  : Nat
  slots : Nat
  deriving DecidableEq, Repr, Inhabited

/-- A bolt (R273): its place and what is known of its contents. -/
structure Bolt where
  bound   : Bool := false
  bay     : Nat := 0
  /-- it has been bound since the last POR or PERST -/
  ever    : Bool := false
  /-- KIND, the address of slot 0, OFFSET, SLOT_SIZE and SLOTS (R273) -/
  kind    : Nat := 0
  base    : Nat := 0
  ofs     : Nat := 0
  size    : Nat := 0
  slots   : Nat := 0
  /-- the ingress port or output stream that writes it (R385) -/
  writer  : Option Writer := none
  /-- the format of its last writer (R242) -/
  fmt     : Option Format := none
  /-- the newest index opened (R385); none while empty -/
  newest  : Option Nat := none
  /-- a bind that has not completed (R275) -/
  binding : Option Binding := none
  /-- ESSENCE 3: where each slot's payloads lie in it, offset and length, in stored order (R229) -/
  ancs    : Tab Nat (List (Nat × Nat)) := []
  /-- ESSENCE 4: the HBRMT header of the last packet placed (R258) -/
  hbrmt   : List Byte := []
  /-- the header timestamp and the index of each slot as ingress last opened it (R222, R230, R232), by slot number -/
  idxs    : Tab Nat (Nat × Nat) := []
  deriving DecidableEq, Repr, Inhabited

/-- Beam memory beside its registers (R268-R294). -/
structure BeamSt where
  /-- every byte written since power-up, addresses strictly rising; the others hold what the DRAM settled to (R277) -/
  mem    : List Host.Cell := []
  /-- how often the contents have become undefined since power-up -/
  epoch  : Nat := 0
  /-- the kind of R277 of each written word that does not read clean, by word address -/
  ecc    : Tab Nat Nat := []
  /-- merge-buffer entries of every port, oldest first (R281) -/
  merge  : List MergeEnt := []
  /-- repair queues: the lines of each port, oldest first (R279) -/
  repair : Tab Nat (List Nat) := []
  /-- the beam error log, oldest first (R291) -/
  log    : List BeamErr := []
  /-- the next line of each port's patrol scrub, in port-offset order (R290) -/
  scrub  : Tab Nat Nat := []
  /-- ports in a BLK reset (R289) -/
  resets : List Nat := []
  /-- the bays and bolts (R271, R273) -/
  bays   : Tab Nat Bay := []
  bolts  : Tab Nat Bolt := []
  deriving DecidableEq, Repr, Inhabited

/-! ## Loom -/

/-- The key of a classification entry (R211): `vlan`, `src` and `ssrc` are none where the key does not name them. -/
structure Key where
  family : Nat
  vlan   : Option Nat
  dst    : List Byte
  src    : Option (List Byte)
  port   : Nat
  ssrc   : Option Nat
  deriving DecidableEq, Repr, Inhabited

/-- A leg of an ingress port (R219). -/
structure Leg where
  key : Key
  up  : Bool := false
  deriving DecidableEq, Repr, Inhabited

/-- A row's line index entry (R225). -/
structure Row where
  bytes : Nat
  seq   : Nat
  segs  : Nat
  flags : Nat
  deriving DecidableEq, Repr, Inhabited

/-- A bolt slot that an ingress port is filling (R222-R232): the index held and what its header will say. -/
structure Slot where
  idx    : Nat
  ts     : Nat
  rtp    : Nat
  /-- FIRST_ARRIVAL and COMPLETE_TIME -/
  at_    : Nat
  doneAt : Nat := 0
  /-- FIRST_SEQ and LAST_SEQ once known (R227) -/
  first  : Option Nat := none
  last   : Option Nat := none
  /-- bit F: the marker of field F has come (R227) -/
  fields : Nat := 0
  /-- sequence numbers placed, and those that each leg delivered (R228, R235) -/
  got    : List Nat := []
  gotA   : List Nat := []
  gotB   : List Nat := []
  /-- packets and bytes placed (R224) -/
  placed : Nat := 0
  bytes  : Nat := 0
  /-- FLAGS of R224 -/
  flags  : Nat := 0
  /-- ESSENCE 0: the line index (R225) -/
  rows   : Tab Nat Row := []
  /-- audio: bit t, sample time t of the block has been placed (R232) -/
  mask   : Nat := 0
  /-- ESSENCE 3: sequence number and bytes of each payload in the slot's running area and in its overflow area (R229) -/
  anc    : List (Nat × List Byte) := []
  extra  : List (List Byte) := []
  deriving DecidableEq, Repr, Inhabited

/-- A packet slot that waits for an earlier one before it is fed (R233): media time, samples, since when. -/
structure FeedHeld where
  ts    : Nat
  words : List Nat
  since : Nat
  deriving DecidableEq, Repr, Inhabited

/-- The audio feed of an ingress port (R233, R234). -/
structure Feed where
  sh    : Nat
  fifo  : Nat
  hold  : Nat
  /-- the media time of the next packet slot to deliver -/
  next  : Option Nat := none
  /-- packet slots that wait for an earlier one (R233) -/
  held  : List FeedHeld := []
  deriving DecidableEq, Repr, Inhabited

/-- An ingress stream port (R215-R220). -/
structure Isp where
  state   : Nat
  owner   : Nat
  bolt    : Nat
  fmt     : Format
  merge   : Bool
  notices : Nat
  lossUs  : Nat
  win     : Nat
  mapBits : Nat
  legs    : List Leg
  feed    : Option Feed := none
  late    : Nat := 0
  lost    : Nat := 0
  /-- the marker packet's sequence number of each recent index (R227) -/
  marks   : Tab Nat Nat := []
  /-- slots that accept packets, by slot number -/
  slots   : Tab Nat Slot := []
  /-- ESSENCE 4: S_ref and f_ref (R230) -/
  sync    : Option (Nat × Nat) := none
  /-- an ISP_CLOSE that has not completed; `gone` marks a close without completion (R218) -/
  closing : Option Hdr := none
  gone    : Bool := false
  deriving DecidableEq, Repr, Inhabited

/-- A pending ESP_TAKE or ESP_REWIND (R252-R254): the bolt or the REWIND, the count, when it was accepted. -/
structure EspCmd where
  hdr : Hdr
  v   : Nat
  c   : Nat
  acc : Nat
  deriving DecidableEq, Repr, Inhabited

/-- What an egress port sends at a stroke (R247, R249). -/
inductive Shown where
  | frame (bolt idx : Nat)
  | black
  deriving DecidableEq, Repr

/-- A frame being paced out (R256-R258): its stroke's instant, the interval I′, the field and the place in it of the
next packet, and the packets sent of the field; how far steps have moved the timebase since its stroke (R197). -/
structure EspFrame where
  what : Shown
  at_  : Int
  ival : Rat
  fld  : Nat := 0
  row  : Nat := 0
  ofs  : Nat := 0
  k    : Nat := 0
  step : Int := 0
  deriving DecidableEq, Repr

/-- An egress stream port (R240-R262). -/
structure Esp where
  state   : Nat
  owner   : Nat
  bolt    : Nat
  fmt     : Format
  pacing  : Nat
  loss    : Nat
  notices : Nat
  delay   : Nat
  stk     : Nat
  ep      : Nat
  payload : Nat
  total   : Nat
  tro     : Nat
  burst   : Nat
  pt      : Nat
  vlan    : Nat
  dmac    : List Byte
  smac    : List Byte
  family  : Nat
  dscp    : Nat
  ttl     : Nat
  dst     : List Byte
  src     : List Byte
  dport   : Nat
  sport   : Nat
  ssrc    : Nat
  ancOfs  : Nat
  rewind  : Nat := 0
  /-- the last index shown and the bolt it came from -/
  last    : Option (Nat × Nat) := none
  /-- the pending ESP_TAKE and ESP_REWIND (R252) -/
  take    : Option EspCmd := none
  rew     : Option EspCmd := none
  /-- the extended sequence number of the next packet (R257), and ESSENCE 4's frame count -/
  seq     : Nat := 0
  frames  : Nat := 0
  /-- the counts DROP, REPEAT, LOSS, LATE and TORN of the port -/
  drop    : Nat := 0
  rept    : Nat := 0
  lost    : Nat := 0
  late    : Nat := 0
  torn    : Nat := 0
  /-- frames being sent, oldest first -/
  out     : List EspFrame := []
  /-- audio: the next packet k; and switches of source, newest first: the instant, and the bolt and REWIND before it (R262) -/
  k       : Option Nat := none
  sw      : List (Int × Nat × Nat) := []
  /-- audio: the source packet slots counted under DROP, bolt and packet slot (R262) -/
  cnt     : List (Nat × Nat) := []
  deriving DecidableEq, Repr

/-- An express rule (R263). -/
structure ExpRule where
  inMask : Nat
  outEp  : Nat
  act    : Nat
  vlan   : Option Nat
  etype  : Option Nat
  dmac   : Option (List Byte)
  dip    : Option (Nat × Nat × List Byte)
  repl   : Nat
  deriving DecidableEq, Repr, Inhabited

/-- The loom beside its registers. -/
structure LoomSt where
  isps   : Tab Nat Isp := []
  esps   : Tab Nat Esp := []
  rules  : Tab Nat ExpRule := []
  /-- each rule's FORWARDED and DROPPED -/
  expCnt : Tab Nat (Nat × Nat) := []
  /-- each punt class's tokens, in packets × 10 µs of the running clock, and when they were counted; full where not listed -/
  punt   : Tab Nat (Nat × Nat) := []
  /-- snapshots requested and not ready (R239, R267) -/
  ispReq : Option Nat := none
  espReq : Option Nat := none
  expReq : Option Nat := none
  deriving DecidableEq, Repr, Inhabited

/-! ## Shuttles -/

/-- A word of a feed FIFO with its tags, and the media time of its packet slot in samples (R315, R318). -/
structure FeedWord where
  w    : Nat
  slot : Bool
  skip : Bool
  ts   : Nat
  deriving DecidableEq, Repr, Inhabited

/-- A block of an output stream (R319): its index, the sample times missing at its start, its words with the instants
of the first and last OUT, and whether it ends whole. -/
structure OutBlock where
  idx   : Nat
  skip  : Nat
  words : List Nat
  t0    : Nat
  t1    : Nat
  whole : Bool
  deriving DecidableEq, Repr, Inhabited

/-- An output stream (R317-R320). -/
structure OutStr where
  bolt  : Nat
  chans : Nat
  l16   : Nat := 0
  ref   : Option Nat
  /-- words in the stream's FIFO with the instants of their OUT -/
  fifo  : List (Nat × Nat) := []
  /-- the media time, in samples, of the block's first sample to come; none until a reference word is read -/
  next  : Option Nat := none
  /-- the block being filled, and blocks that end and are not yet written -/
  cur   : Option OutBlock := none
  done  : List OutBlock := []
  deriving DecidableEq, Repr, Inhabited

/-- An open loop level (R312): the body's first and last address and the call depth at which it opened. -/
structure LoopLvl where
  first : Nat
  last  : Nat
  depth : Nat
  deriving DecidableEq, Repr, Inhabited

/-- An SHT_START that waits for its stroke (R328-R330). -/
structure StartCmd where
  hdr    : Hdr
  resume : Bool
  k      : Nat
  c      : Nat
  acc    : Nat
  strs   : List (Nat × OutStr)
  deriving DecidableEq, Repr, Inhabited

/-- A shuttle beside its registers. -/
structure Shuttle where
  /-- P, X and Y; words not listed are 0 -/
  p      : Tab Nat (BitVec 48) := []
  x      : Tab Nat Nat := []
  y      : Tab Nat Nat := []
  /-- the program-visible registers of R306 that hold something; the others are 0 -/
  regs   : Tab SReg Nat := []
  /-- the open loop levels, innermost first (R312) -/
  loops  : List LoopLvl := []
  /-- executions left of the instruction at PC under a REP (R313) -/
  rep    : Option Nat := none
  /-- the call stack (R313) -/
  stack  : List Nat := []
  /-- the feed FIFOs (R315) -/
  fifos  : Tab Nat (List FeedWord) := []
  /-- FIFOs whose next word carries SKIP -/
  skips  : List Nat := []
  /-- the bound output streams (R317) -/
  strs   : Tab Nat OutStr := []
  /-- mailbox messages, oldest first (R332) -/
  mbox   : List (Nat × Nat) := []
  /-- stroke pending bits, and the timer's (R324) -/
  pend   : Nat := 0
  tmr    : Bool := false
  /-- when TMR was last written, less the time for which its clock has stood still since, and since when it stands still (R324, R442) -/
  tmrAt  : Nat := 0
  gateAt : Option Nat := none
  /-- the count of R320 -/
  resync : Nat := 0
  /-- a start that waits for its stroke (R330) -/
  start  : Option StartCmd := none
  /-- ENTRY and MR_INIT of the image (R326) -/
  entry  : Nat := 0
  mrInit : Nat := 0
  /-- the section digest of the image (R326, R490) -/
  digest : List Byte := []
  /-- the tagging LFSR and the instructions left before the next tag (R524) -/
  lfsr   : Nat := 0
  tagIn  : Nat := 0
  deriving DecidableEq, Repr, Inhabited

/-- The shuttle block beside its registers. -/
structure ShtSt where
  sh    : Tab Nat Shuttle := []
  /-- loads accepted and not completed, in command order (R327) -/
  loads : List (Hdr × Nat × Option (List Byte)) := []
  deriving DecidableEq, Repr, Inhabited

/-! ## Drafts and check-value channels -/

/-- A level of a draft's loop stack (R393): its LOOP's slot, the pass count and the contributions. -/
structure DraftLvl where
  slot : Nat
  cnt  : Nat
  src  : Int
  dst  : Int
  deriving DecidableEq, Repr, Inhabited

/-- A MOVE or FILL under way (R391, R392): where it reads, where it writes, the bytes it writes and reads and those
issued; a FILL's pattern; the flags, and the expected value that CKS strips (R408). -/
structure DraftXfer where
  src     : Option Nat
  dst     : Nat
  len     : Nat
  pos     : Nat
  pattern : Nat
  cka     : Bool
  cks     : Bool
  tail    : List Byte
  deriving DecidableEq, Repr, Inhabited

/-- How a draft has ended, once decided (R398, R401). -/
structure DraftEnd where
  status    : Nat
  flags     : Nat
  residue   : Nat
  unwritten : Nat
  at_       : Nat
  deriving DecidableEq, Repr, Inhabited

/-- A draft channel beside its register (R386-R402). -/
structure DraftCh where
  hdr      : Option Hdr := none
  prog     : List (List Byte) := []
  stack    : List DraftLvl := []
  xfer     : Option DraftXfer := none
  /-- bytes written by the draft, and the last host address written (R398, R401) -/
  bytes    : Nat := 0
  lastHost : Option Nat := none
  /-- since when it waits, and whether its stroke has come (R394, R395) -/
  waitAt   : Nat := 0
  hit      : Bool := false
  /-- a DRAFT_ABORT that has not completed (R402) -/
  abort    : Option Hdr := none
  /-- how the draft has ended, while its read-back and record are due (R398), and whether the read waits for Bus Master Enable (R339) -/
  ended    : Option DraftEnd := none
  rbWaits  : Bool := false
  deriving DecidableEq, Repr, Inhabited

/-- The draft engine beside its registers: each channel, and the last channel picked at each priority (R400). -/
structure DrfSt where
  ch : Tab Nat DraftCh := []
  rr : Tab Nat Nat := []
  deriving DecidableEq, Repr, Inhabited

/-- A check-value channel beside its registers (R406-R411): the code's register and the bytes fed since the restart. -/
structure CkCh where
  crc : Nat
  fed : Nat
  deriving DecidableEq, Repr, Inhabited

/-! ## Supervision -/

/-- A decimation channel beside its registers (R418-R424). -/
structure MonCh where
  /-- conversions not yet taken by the CIC -/
  inp    : List Int := []
  /-- the CIC's integrators and the last value of each comb -/
  ints   : List Int := []
  combs  : List Int := []
  /-- CIC outputs, newest first, and how many there have been; the resampler's position, in 2^-20 -/
  hist   : List Int := []
  n      : Nat := 0
  t      : Nat := 0
  /-- the mean of the DC stage -/
  m      : Rat := 0
  /-- consecutive outputs above HI and below LO -/
  hi     : Nat := 0
  lo     : Nat := 0
  /-- the run above HI, or below LO, has tripped the channel -/
  hiDone : Bool := false
  loDone : Bool := false
  deriving DecidableEq, Repr

/-- The monitor beside its registers (R415-R417, R121-R123). -/
structure MonSt where
  /-- the enabled inputs and open-wire inputs of the round that runs and of the one that waits (R415) -/
  rounds : List W32 := []
  /-- triggers whose delay has not ended, with the inputs enabled then and the running clock at the delay's end, oldest first (R415,
  R416) -/
  trigs  : List (MonTrig × W32 × Nat) := []
  /-- rounds since the last open-wire check, and the input after which the next one looks (R417) -/
  owRun  : Nat := 0
  owLast : Nat := 15
  /-- the decimation channels (R418) -/
  ch     : Tab Nat MonCh := []
  /-- the MGTn_CTL word of each transaction in progress (R434) -/
  mgt    : Tab Nat W32 := []
  /-- the coefficients of the resampler that have been written (R420) -/
  coef   : Tab Nat Nat := []
  /-- rounds since the last calibration began, its pairs and the sums of their codes (R121) -/
  calRun : Nat := 0
  pairs  : Nat := 0
  sumP   : Nat := 0
  sumN   : Nat := 0
  /-- the gain and offset correction in use and those being applied (R122, R123) -/
  gain   : Rat := 0
  ofs    : Rat := 0
  goal   : Option (Rat × Rat) := none
  deriving DecidableEq, Repr

/-- The bias DACs and heaters beside their registers (R425-R433). -/
structure BiasSt where
  /-- channels forced safe until the next hand-over of their group (R425) -/
  held : List Nat := []
  /-- DUTY and PERIOD in use by each heater, and when its period began by the running clock (R433) -/
  htr  : Tab Nat (Nat × Nat) := []
  htrAt : Tab Nat Nat := []
  /-- MOD_INT_N is low (R436) -/
  modInt : Bool := false
  deriving DecidableEq, Repr, Inhabited

/-! ## Thermal and ageing -/

/-- A plan of the margin planner (R472). -/
structure Plan where
  vreq  : Nat
  guard : Nat
  relax : Nat
  eol   : Nat
  deriving DecidableEq, Repr, Inhabited

/-- The thermal block beside its registers (R461-R475). -/
structure ThmSt where
  /-- each sensor's last reading, the intervals it has missed and its consecutive readings in range (R462) -/
  temps   : Tab Nat Int := []
  missed  : Tab Nat Nat := []
  good    : Tab Nat Nat := []
  /-- consecutive samples 2 degrees below the band's lower edge (R465) -/
  low     : Nat := 0
  /-- beam-stack sensors at or above 95 degrees (R469) -/
  hot     : List Nat := []
  /-- ALERT_N and THERMTRIP_N are low (R469, R470) -/
  alert   : Bool := false
  tripped : Bool := false
  /-- the active plan and the one that waits for its acceptance (R472) -/
  active  : Plan := ⟨720, 0, 0, 0⟩
  waiting : Option Plan := none
  /-- the references of the EOL test once REF has been written (R472) -/
  refs    : Option (List Rat) := none
  /-- the active code of each of BIAS0-BIAS7 summed over the running clock since the previous plan, up to when, and when that plan was
  (R472) -/
  codeSum : Tab Nat Nat := []
  codeAt  : Nat := 0
  planAt  : Nat := 0
  /-- the hours of history that the plans since POR span, and when SYS.READY was first set after POR (R472) -/
  hours   : Nat := 0
  readyAt : Option Nat := none
  /-- the pair being measured for AGE_SEL (R471) -/
  ageReq  : Option Nat := none
  deriving DecidableEq, Repr, Inhabited

/-! ## Security -/

/-- An owner key slot of the fuses (R478, R479): its state, its test-access permission, its digest. -/
structure KeySlot where
  state  : Nat
  ta     : Bool
  digest : List Byte
  deriving DecidableEq, Repr, Inhabited

/-- The fuses (R478), which no reset changes. -/
structure Fuses where
  slots       : Tab Nat KeySlot := []
  counter     : Nat := 0
  lifecycle   : Nat := 1
  hostBootDis : Bool := false
  jtagDis     : Bool := false
  /-- the identity private key, encrypted (R489) -/
  wrapped     : Nat := 0
  deriving DecidableEq, Repr, Inhabited

/-- What the TAP's instruction register selects (R493, R494). -/
inductive TapIr where
  | idcode | bypass | secChal | secResp
  deriving DecidableEq, Repr, Inhabited

/-- A staged bundle (R487). -/
structure Staged where
  addr   : Nat
  len    : Nat
  digest : List Byte
  deriving DecidableEq, Repr, Inhabited

/-- The security controller beside its registers (R478-R495). -/
structure SecSt where
  /-- boot has finished: its firmware and the house shuttles have started -/
  booted   : Bool := false
  /-- a bundle is being read: from flash, or from the host (R485, R486) -/
  hostBoot : Bool := false
  /-- subsystem vendor ID and subsystem ID, from the bundle (R337, R481) -/
  subsys   : Nat × Nat := (0, 0)
  /-- the identity private key in the vault and the key derived from the silicon, 0 once cleared (R489, R495) -/
  vault    : Nat := 0
  derived  : Nat := 0
  /-- internal scan is enabled (R495) -/
  scan     : Bool := false
  /-- what the TAP selects (R493) -/
  tap      : TapIr := .idcode
  /-- the staged bundle (R487) -/
  staged   : Option Staged := none
  /-- FW_STAGE, FW_COMMIT and ATTEST commands not completed, with what they carry -/
  stage    : Option (Hdr × Nat × Option (List Byte)) := none
  commit   : Option (Hdr × Bool) := none
  attests  : List (Hdr × List Byte) := []
  /-- the report of the ATTEST that is served, from the snapshot at the start of its turn; none where a digest disagreed (R491) -/
  report   : Option (List Byte) := none
  /-- the challenge in force and when it was given (R494) -/
  chal     : Option (List Byte × Nat) := none
  deriving DecidableEq, Repr, Inhabited

/-- An anchor word's three copies, each with whether its parity is good (R296). -/
abbrev AncCopies := List (W32 × Bool)

/-- The split reader beside its registers (R526-R531). -/
structure SplitSt where
  /-- the snapshot instant last taken, and when EN was set -/
  last    : Option Nat := none
  enAt    : Nat := 0
  /-- each MAC's receive and transmit byte counts at the last snapshot -/
  rx      : Tab Nat Nat := []
  tx      : Tab Nat Nat := []
  /-- counters whose EN has been set since the last snapshot, by their CFG register -/
  fresh   : List RegId := []
  /-- LOST and GAP are due in the next record (R527, R531) -/
  lostDue : Bool := false
  gapDue  : Bool := false
  deriving DecidableEq, Repr, Inhabited

/-- A wake event latched in the always-on island (R451, R452). -/
structure WakeLatch where
  mask  : Nat
  first : Nat
  entry : Bool
  deriving DecidableEq, Repr, Inhabited

/-- The power block beside its registers (R447-R455) (PRESUMED, log entry 9). -/
structure PwrSt where
  /-- the state a running transition goes to -/
  going   : Option Nat := none
  /-- wakes latched during an entry -/
  latch   : Option WakeLatch := none
  /-- when the state was entered, on the running clock -/
  since   : Nat := 0
  /-- when the hint ends -/
  hintEnd : Option Nat := none
  /-- since when every target evaluated has been deeper than the state, and the shallowest of them (R447) -/
  deeper  : Option (Nat × Nat) := none
  deriving DecidableEq, Repr, Inhabited

/-- A BIST_RUN in progress (R500-R502): its mask and the tested blocks that need set-up again. -/
structure BistRun where
  hdr   : Hdr
  mask  : Nat
  setup : Nat
  since : Nat
  deriving DecidableEq, Repr, Inhabited

/-- The state of the device (INVENTORY.md, *State*). -/
structure State where
  /-- the timebase, in units of 2^-16 ns (R182, R183) -/
  tb      : Nat := 0
  /-- the time since POR in the same unit; it does not follow steps of the timebase -/
  up      : Nat := 0
  /-- the number of free values consumed (the model's own; DESIGN CHOICE, log entry 76) -/
  free    : Nat := 0
  /-- every register that has been written; the others hold their reset value -/
  regs    : Tab RegId W32 := []
  /-- active copies of shadowed registers (R6) -/
  act     : Tab RegId W32 := []
  /-- the host interface: queues, rings, logs and latches (R340-R369) -/
  host    : HostSt := {}
  /-- the line lanes and their MACs (R43) -/
  lanes   : Tab Nat Lane := []
  /-- the stroke generators (R194) -/
  gens    : Tab Nat Gen := []
  /-- the timebase (R182, R183) -/
  time    : TimeSt := {}
  /-- the cox links (R153) -/
  links   : Tab Nat CoxLink := []
  /-- the crew (R161-R180) -/
  crew    : CrewSt := {}
  /-- beam memory, bays and bolts (R268-R294) -/
  beam    : BeamSt := {}
  /-- the loom: stream ports, express rules, punt (R209-R267) -/
  loom    : LoomSt := {}
  /-- the shuttles (R300-R335) -/
  sht     : ShtSt := {}
  /-- the draft engine (R386-R405) -/
  drf     : DrfSt := {}
  /-- the check-value channels (R406-R413) -/
  ck      : Tab Nat CkCh := []
  /-- the monitor and its decimation (R414-R424) -/
  mon     : MonSt := {}
  /-- the bias DACs, heaters and modules (R425-R439) -/
  bias    : BiasSt := {}
  /-- the power states (R440-R460) -/
  pwr     : PwrSt := {}
  /-- temperature, ageing and the planner (R461-R475) -/
  thm     : ThmSt := {}
  /-- the security controller (R478-R495) -/
  sec     : SecSt := {}
  /-- the fuses (R478) -/
  fuses   : Fuses := {}
  /-- the anchor store: the copies of each word that has been written (R295-R299) -/
  anc     : Tab Nat AncCopies := []
  /-- the split reader (R526-R535) -/
  split   : SplitSt := {}
  /-- a BIST_RUN that has not completed (R500) -/
  bist    : Option BistRun := none
  /-- when the current or last self-test began (R515) -/
  tstAt   : Option Nat := none
  /-- T0 of start-up on the running clock (R544) -/
  t0      : Nat := 0
  /-- held in reset until POR, after a thermal trip or an unlock (R470, R495) -/
  dark    : Bool := false
  /-- the commands that wait, first in, first out -/
  pending : List Instr := []
  deriving DecidableEq, Repr

/-- The fuses of a PT3208-B1-C as shipped: DEPLOYED, slot 0 VALID, slots 1-3 EMPTY (R480); the rest is free (DESIGN CHOICE, log entry 65). -/
def Fuses.shipped : Fuses :=
  { slots := [(0, ⟨1, Config.fuseTa 0, Config.ownerDigest⟩), (1, ⟨0, Config.fuseTa 1, []⟩), (2, ⟨0, Config.fuseTa 2, []⟩),
      (3, ⟨0, Config.fuseTa 3, []⟩)]
    counter := Config.fuseCounter.toNat
    lifecycle := 1
    hostBootDis := Config.fuseHostBootDis
    jtagDis := Config.fuseJtagDis
    wrapped := Config.wrappedKey }

/-- The security controller as boot step 2 leaves it: the identity private key unwrapped into the vault (R484, R489). -/
def SecSt.unwrapped (f : Fuses) : SecSt := { vault := Config.unwrapKey Config.siliconKey f.wrapped, derived := Config.siliconKey }

/-- The device right after a POR that came from its rails, with T0 at the release of POR and every strap 0 (R5, R542,
R544): each register at its reset value but SYS.CAUSE, which records the POR (R551), the identity key in the vault (R484) (DESIGN CHOICE, log entry 77). -/
def State.reset : State :=
  { regs := [(⟨.sys, 0, 4⟩, 1#32)], sec := SecSt.unwrapped Fuses.shipped, fuses := Fuses.shipped }

end Sys2Proof.Machine
end

