-- ==== Sys2Proof/Machine/Ops.lean ====
section
/-! DEFINITION. The shared operations: register and field access, little-endian bytes, the timebase, host writes,
MSI-X messages, notices, events, the reject log and completion records. -/

namespace Sys2Proof.Machine

/-- The status codes of R20. -/
abbrev eOk := 0
abbrev eField := 1
abbrev eRange := 2
abbrev eState := 3
abbrev eBusy := 4
abbrev eNoRes := 5
abbrev eDesc := 6
abbrev eAuth := 7
abbrev eAsleep := 8
abbrev eSelfTest := 9
abbrev eMedia := 10
abbrev eBus := 11
abbrev eAbort := 12
abbrev eTimeout := 13
abbrev ePriv := 14
abbrev eVersion := 15

/-! ## Bytes -/

/-- The `n` bytes of a number, least significant first (R22). -/
def leBytes (n v : Nat) : List Byte := (List.range n).map fun i => BitVec.ofNat 8 (v / 256 ^ i)

/-- The number that bytes spell, least significant first (R22). -/
def ofLe : List Byte → Nat
  | [] => 0
  | b :: r => b.toNat + 256 * ofLe r

/-- The number at bytes `a` to `a + n - 1` of a record. -/
def field (l : List Byte) (a n : Nat) : Nat := ofLe ((l.drop a).take n)

/-- The number that bytes spell, most significant first (network order). -/
def ofBe (l : List Byte) : Nat := l.foldl (fun a b => a * 256 + b.toNat) 0

/-- The big-endian number at bytes `a` to `a + n - 1`. -/
def beField (l : List Byte) (a n : Nat) : Nat := ofBe ((l.drop a).take n)

/-- The `n` bytes of a number, most significant first. -/
def beBytes (n v : Nat) : List Byte := (leBytes n v).reverse

/-- Bytes extended with zeros to `n`. -/
def padTo (n : Nat) (l : List Byte) : List Byte := l ++ List.replicate (n - l.length) 0

/-- SHA3-512: 64 bytes (FIPS 202) (DESIGN CHOICE, log entry 64). -/
def digest512 (l : List Byte) : List Byte := padTo 64 ((Config.sha3 l).take 64)

/-! ## Registers -/

/-- The value of a register. -/
def State.reg (s : State) (r : RegId) : W32 := Tab.get (regReset r) s.regs r

/-- The state with register `r` holding `w`. -/
def State.setReg (s : State) (r : RegId) (w : W32) : State := { s with regs := Tab.set s.regs r w }

/-- The value of a field. -/
def State.fld (s : State) (f : FldId) : Nat := bits (s.reg f.reg) f.hi f.lo

/-- The state with field `f` holding the low bits of `v`. -/
def State.setFld (s : State) (f : FldId) (v : Nat) : State :=
  s.setReg f.reg (putBits (s.reg f.reg) f.hi f.lo v)

/-- A one-bit field is set. -/
def State.on (s : State) (f : FldId) : Bool := s.fld f != 0

/-- A field read as two's complement. -/
def State.sfld (s : State) (f : FldId) : Int := signed (f.hi + 1 - f.lo) (s.fld f)

/-- A field set to a two's complement value. -/
def State.setSFld (s : State) (f : FldId) (v : Int) : State := s.setFld f (unsigned (f.hi + 1 - f.lo) v)

/-- The largest value a field holds. -/
def fldMax (f : FldId) : Nat := 2 ^ (f.hi + 1 - f.lo) - 1

/-- The state with a saturating count increased by `d`. -/
def State.addSat (s : State) (f : FldId) (d : Nat := 1) : State :=
  s.setFld f (min (fldMax f) (s.fld f + d))

/-- The state with a wrapping count increased by one. -/
def State.incWrap (s : State) (f : FldId) : State := s.setFld f (s.fld f + 1)

/-- A 64-bit quantity held in a _LO and a _HI register. -/
def State.pair (s : State) (lo hi : RegId) : Nat := (s.reg lo).toNat + 2 ^ 32 * (s.reg hi).toNat

/-- The state with a 64-bit quantity. -/
def State.setPair (s : State) (lo hi : RegId) (v : Nat) : State :=
  (s.setReg lo (BitVec.ofNat 32 v)).setReg hi (BitVec.ofNat 32 (v / 2 ^ 32))

/-- The active value of a shadowed field (R6): the value handed over last, or the reset value. -/
def State.actFld (s : State) (f : FldId) : Nat := bits (Tab.get (regReset f.reg) s.act f.reg) f.hi f.lo

/-- A result becomes ready: VALID and FRESH are set (R14, R15). -/
def State.resultReady (s : State) (r : RegId) : State :=
  s.setReg r (putBits (s.reg r) 31 30 3)

/-- A result is requested: the previous value stays, with VALID and FRESH at 0 (R14). -/
def State.resultPending (s : State) (r : RegId) : State :=
  s.setReg r (putBits (s.reg r) 31 30 0)

/-- The registers for which `p` holds read as after reset again: counts set to 0, settings reloaded (DEDUCED, log entry 14). -/
def State.clearRegs (s : State) (p : RegId → Bool) : State := { s with regs := s.regs.filter (fun e => !p e.1) }

/-- The registers for which `p` holds return to their reset values, and what functions latched, captured or hold of
them is lost (R5, R12, R13, R571) (DEDUCED, log entry 14). -/
def State.resetRegs (s : State) (p : RegId → Bool) : State :=
  { s with
    regs := s.regs.filter (fun e => !p e.1)
    host := { s.host with
      hiLatch := s.host.hiLatch.filter (fun e => !p e.1.2), capt := s.host.capt.filter (fun e => !p e.1.2)
      loHeld := s.host.loHeld.filter (fun e => !p e.1.2) } }

/-- The registers for which `p` holds lose their active copies too. -/
def State.resetAct (s : State) (p : RegId → Bool) : State := { s with act := s.act.filter (fun e => !p e.1) }

/-! ## Records of the state -/

def State.lane (s : State) (n : Nat) : Lane := Tab.get {} s.lanes n
def State.setLane (s : State) (n : Nat) (l : Lane) : State := { s with lanes := Tab.set s.lanes n l }
def State.modLane (s : State) (n : Nat) (f : Lane → Lane) : State := s.setLane n (f (s.lane n))
def State.qp (s : State) (q : Nat) : Qp := Tab.get {} s.host.qps q
def State.setQp (s : State) (q : Nat) (v : Qp) : State := { s with host := { s.host with qps := Tab.set s.host.qps q v } }
def State.modQp (s : State) (q : Nat) (f : Qp → Qp) : State := s.setQp q (f (s.qp q))
def State.ring (s : State) (f : Nat) : Ring := Tab.get {} s.host.rings f
def State.setRing (s : State) (f : Nat) (v : Ring) : State := { s with host := { s.host with rings := Tab.set s.host.rings f v } }

/-- Something leaves the device (DESIGN CHOICE, log entry 78). -/
def State.emit (s : State) (o : Out) : State := { s with host := { s.host with out := o :: s.host.out } }

/-- A free value is consumed. -/
def State.tick (s : State) : State := { s with free := s.free + 1 }

/-- A value as an integer where the spec states no rounding: one of the two beside it (DESIGN CHOICE, log entry 23; DESIGN CHOICE,
log entry 24; DESIGN CHOICE, log entry 57). -/
def roundFree (x : Rat) : Int := if x.den = 1 then x.num else if Config.roundUp x.num x.den then x.ceil else x.floor

/-- A quotient; the spec states none where the divisor is 0, which is then free (DESIGN CHOICE, log entry 23). -/
def quot (a b : Rat) : Rat := if b = 0 then Config.noQuotient a.num a.den else a / b

/-! ## Time -/

/-- One nanosecond in units of the timebase (R182). -/
abbrev nsU : Nat := 65536
/-- One second in units of the timebase. -/
abbrev secU : Nat := 1000000000 * 65536

/-- The seconds, the nanoseconds and the fraction of a timebase value. -/
def tbSec (t : Nat) : Nat := t / secU % 2 ^ 48
def tbNs (t : Nat) : Nat := t / nsU % 1000000000
def tbFrac (t : Nat) : Nat := t % nsU

/-- The 96-bit timebase format, 12 bytes: fraction, nanoseconds, seconds (R182). -/
def tbBytes (t : Nat) : List Byte := leBytes 2 (tbFrac t) ++ leBytes 4 (tbNs t) ++ leBytes 6 (tbSec t)

/-- An instant rounded half-up to 1 ns. -/
def roundNs (t : Nat) : Nat := (t + nsU / 2) / nsU

/-- An instant as the interpolator captures or fires it: a multiple of 1/16 ns beside it (R183) (DESIGN CHOICE, log entry 87). -/
def interp (t : Int) (s : State) : Int :=
  let q := t / 4096 * 4096
  if t = q then t else if Config.interpUp t s.up then q + 4096 else q

/-- The timebase as an event captures it (R183). -/
def State.stamp (s : State) (t : Nat) : Nat := (interp t s).toNat

/-! ## Functions -/

/-- The queue pairs of VF `f` (R341). -/
def State.vfBase (s : State) (f : Nat) : Nat := if f = 0 then 0 else s.fld (fQue_FN_QP_BASE (f - 1))
def State.vfCount (s : State) (f : Nat) : Nat := if f = 0 then 0 else s.fld (fQue_FN_QP_COUNT (f - 1))

/-- The function that owns queue pair `q` (R341): the VF whose range holds it, else the PF (DEDUCED, log entry 12). -/
def State.ownerOf (s : State) (q : Nat) : Nat :=
  ((List.range 31).find? (fun i =>
    decide (s.vfBase (i + 1) ≤ q ∧ q < s.vfBase (i + 1) + s.vfCount (i + 1)))).elim 0 (· + 1)

/-- Bus Master Enable of a function (R339); 0 until the host sets it (DESIGN CHOICE, log entry 10). -/
def State.bme (s : State) (f : Nat) : Bool := Tab.get false s.host.bme f

/-! ## Self-test and sleep -/

/-- The bit of the BIST mask that covers a register's block (R497). -/
def bistBit (r : RegId) : Option Nat :=
  match r.blk with
  | .ln => some r.inst
  | .bm => some (8 + r.inst)
  | .bmw => some 8
  | .sh => if r.inst < 4 then none else some (24 + r.inst / 8)
  | .loom => some 36
  | .drf => some 37
  | .chk | .ck => some 38
  | .cx => some (39 + r.inst)
  | _ => none

/-- Block bit `b` is in self-test (R500). -/
def State.testing (s : State) (b : Nat) : Bool :=
  match s.bist with
  | none => false
  | some t => t.mask.testBit b

/-- A register of a block in self-test (R19). -/
def State.regTesting (s : State) (r : RegId) : Bool :=
  match bistBit r with
  | none => false
  | some b => s.testing b

/-- A lane register held in one of the lane's own domains, which is gated while the lane is OFF (R31, R63). -/
def laneGated (r : RegId) : Bool := r.blk == .ln && decide (0x100 ≤ r.off ∧ r.off < 0x800)

/-- Why a register cannot be accessed: its block is in self-test (R19) or its clock is off (R18, R31). -/
def State.unavailable (s : State) (r : RegId) : Option Nat :=
  if s.regTesting r then some eSelfTest
  else if laneGated r && s.fld (fLn_TX_STAT_STATE r.inst) == 0 then some eAsleep
  else none

/-! ## Configuration space -/

def State.modCfg (s : State) (f : CfgSt → CfgSt) : State := { s with host := { s.host with cfg := f s.host.cfg } }

/-- The most bytes of one read request: 512, and the Max Read Request Size (R336, R346, R399). -/
def State.readMost (s : State) : Nat := min 512 (128 * 2 ^ min 5 s.host.cfg.maxRead)

/-- A request outside every BAR of its function is an Unsupported Request, and nothing else comes of it (R338; PCIe Base Specification)
(PRESUMED, log entry 9). -/
def unsupported (s : State) : State := s.modCfg fun c => { c with aerUnc := Nat.lor c.aerUnc (2 ^ 20) }

/-- The offset lies in BAR 0 of the PF or in the window of a VF (R337). -/
def inBar (fn ofs : Nat) : Bool := decide (ofs < if fn = 0 then 2 ^ 26 else 2 ^ 16)

/-- A device read fails as a bus error: AER reports a Completion Timeout, or a poisoned completion as an advisory non-fatal error (R338;
PCIe Base Specification); which of the two it was no operand tells (DESIGN CHOICE, log entry 130; PRESUMED, log entry 9). -/
def readFailed (s : State) : State :=
  s.tick.modCfg fun c => if Config.poisonedRead s.free then { c with aerUnc := Nat.lor c.aerUnc (2 ^ 12), aerCor := Nat.lor c.aerCor (2 ^ 13) }
    else { c with aerUnc := Nat.lor c.aerUnc (2 ^ 14) }

/-! ## MSI-X -/

/-- MSI-X Enable and Function Mask let function `fn` send messages (PCIe Base Specification) (PRESUMED, log entry 9). -/
def State.msixLive (s : State) (fn : Nat) : Bool := Tab.get false s.host.cfg.msixOn fn && !Tab.get false s.host.cfg.msixOff fn

/-- An MSI-X message for a vector (R364); a masked vector, or a masked function, sets its pending bit (R365; PCIe Base Specification)
(PRESUMED, log entry 9), and so does one whose function may not master the bus (R339) (DESIGN CHOICE, log entry 113). -/
def sendMsix (fn vec : Nat) (s : State) : State :=
  if s.on (fMsix_VEC_CTRL_MASK fn vec) || !s.msixLive fn || !s.bme fn then
    s.setReg (rMsix_PBA fn (vec / 32)) (s.reg (rMsix_PBA fn (vec / 32)) ||| BitVec.ofNat 32 (2 ^ (vec % 32)))
  else
    s.emit (.msix fn vec (s.fld (fMsix_MSG_ADDR_ADDR fn vec) * 4 + 2 ^ 32 * s.fld (fMsix_MSG_UPPER_ADDR fn vec))
      (s.fld (fMsix_MSG_DATA_DATA fn vec)))

/-- A pending vector that may be sent goes: its pending bit clears (PCIe Base Specification) (PRESUMED, log entry 9). -/
def sendPending (fn vec : Nat) (s : State) : State :=
  let r := rMsix_PBA fn (vec / 32)
  if (s.reg r).getLsbD (vec % 32) && !s.on (fMsix_VEC_CTRL_MASK fn vec) then
    sendMsix fn vec (s.setReg r (s.reg r &&& ~~~(BitVec.ofNat 32 (2 ^ (vec % 32)))))
  else s

/-- Every pending vector of a function that may be sent goes. -/
def sendAllPending (fn : Nat) (s : State) : State := (List.range 32).foldl (fun a v => sendPending fn v a) s

/-- The moderation of R365 for a ring whose IRQ register is `irq`, with `pend` records pending since `since` after the
newest one: does the message go now? -/
def irqDue (irq : W32) (pend : Nat) (atOnce : Bool) : Bool :=
  irq.getLsbD 31 && (atOnce || bits irq 9 0 == 0 || decide (bits irq 23 16 ≤ pend))

/-- A record was written to the completion ring of `q` (R365). -/
def cqRecorded (q : Nat) (atOnce : Bool) (s : State) : State :=
  let v := s.qp q
  let irq := s.reg (rQp_IRQ q)
  let v1 := { v with irqPend := v.irqPend + 1, irqSince := if v.irqPend = 0 then s.up else v.irqSince }
  if irqDue irq v1.irqPend atOnce then
    sendMsix (s.ownerOf q) (bits irq 28 24) (s.setQp q { v1 with irqPend := 0 })
  else s.setQp q v1

/-- A record was written to the notice ring of `f` (R365). -/
def nqRecorded (f : Nat) (s : State) : State :=
  let v := s.ring f
  let irq := s.reg (rNq_NQ_IRQ f)
  let v1 := { v with irqPend := v.irqPend + 1, irqSince := if v.irqPend = 0 then s.up else v.irqSince }
  if irqDue irq v1.irqPend false then
    sendMsix f (bits irq 28 24) (s.setRing f { v1 with irqPend := 0 })
  else s.setRing f v1

/-! ## Notices -/

/-- The number of entries of function `f`'s notice ring (R360). -/
def State.nqSize (s : State) (f : Nat) : Nat := 2 ^ s.fld (fNq_NQ_CTL_LOG2 f)

/-- A notice to function `f` (R360-R363): written to its ring, or discarded and counted. `b2` is bytes 2-7, `b8` bytes 8-15. -/
def notice (f kind : Nat) (b2 b8 : List Byte) (s : State) : State :=
  let tail := s.fld (fNq_NQ_STAT_TAIL f)
  let size := s.nqSize f
  let v := s.ring f
  if !s.bme f || !s.on (fNq_NQ_CTL_EN f) || (tail + 1) % size == s.fld (fNq_NQ_CI_CI f) then
    (s.addSat (fNq_NQ_STAT_LOST f)).setRing f { v with lostDue := true }
  else
    let flags := s.fld (fNq_NQ_STAT_PHASE f) + (if v.lostDue then 2 else 0)
    let rec_ := leBytes 1 kind ++ leBytes 1 flags ++ padTo 6 b2 ++ padTo 8 b8
    let s1 := s.emit (.hostWrite (s.pair (rNq_NQ_BASE_LO f) (rNq_NQ_BASE_HI f) + 16 * tail) rec_)
    let s2 := s1.setRing f { v with lostDue := false }
    let s3 := s2.setFld (fNq_NQ_STAT_TAIL f) ((tail + 1) % size)
    let s4 := if (tail + 1) % size = 0 then s3.setFld (fNq_NQ_STAT_PHASE f) (1 - s3.fld (fNq_NQ_STAT_PHASE f)) else s3
    nqRecorded f s4

/-- The time that a notice carries: the timebase, or the instant of the stroke that raises it (R37, R360). -/
def State.noteTime (s : State) : Nat := match s.time.stroke with | some t => t.toNat | none => s.tb

/-- TIME of a notice: nanoseconds and seconds[31:0] (R360). -/
def State.timeBytes (s : State) : List Byte := leBytes 4 (tbNs s.noteTime) ++ leBytes 4 (tbSec s.noteTime)

/-- Event bit `e` raises notices: its EVENT_EN bit, four bytes on, is set (R103), and its block is not in self-test (R500)
(DEDUCED, log entry 11). -/
def State.noticed (s : State) (e : FldId) : Bool :=
  !s.regTesting e.reg && (s.reg { e.reg with off := e.reg.off + 4 }).getLsbD e.lo

/-- The EVENT notice of bit `e` (R360, R361). -/
def eventNotice (e : FldId) (s : State) : State :=
  if s.noticed e then notice 0 0x01 (leBytes 1 e.lo ++ [0] ++ leBytes 4 (addrOf e.reg)) s.timeBytes s else s

/-- An event sets its EVENT bit and raises a notice if its EVENT_EN bit, four bytes on, is set (R103, R360) (DEDUCED, log entry 11). -/
def raise_ (e : FldId) (s : State) : State := eventNotice e (s.setFld e 1)

/-- Event `e` was raised, or its notice, less than 1 ms ago; and the note that it is now. -/
def State.justRaised (s : State) (e : FldId) : Bool :=
  match Tab.find s.host.lastNote (e.reg, e.lo) with | some t => decide (s.up < t + 1000000 * nsU) | none => false
def State.noteRaised (s : State) (e : FldId) : State :=
  { s with host := { s.host with lastNote := Tab.set s.host.lastNote (e.reg, e.lo) s.up } }

/-- An event that is raised at most once per 1 ms (R238, R266, R456). -/
def raiseOnce (e : FldId) (s : State) : State := if s.justRaised e then s else raise_ e (s.noteRaised e)

/-- An event that raises at most one notice per 1 ms (R152, R294). -/
def raiseSlow (e : FldId) (s : State) : State :=
  let s1 := s.setFld e 1
  if s.noticed e then (if s.justRaised e then s1 else eventNotice e (s1.noteRaised e)) else s1

/-! ## Reject log -/

/-- An access is logged in SYS.REJECT_LOG (R366) and, for a VF, in its own registers (R367) (DEDUCED, log entry 11). -/
def logReject (fn space offset status : Nat) (wr : Bool) (s : State) : State :=
  let s1 := if s.host.rejLog.length < 32 then
      { s with host := { s.host with rejLog := s.host.rejLog ++ [⟨offset, status, fn, wr, space⟩] } }
    else s.addSat fSys_REJ_STAT_LOST
  let s2 := s1.setFld fSys_REJ_STAT_COUNT s1.host.rejLog.length
  if fn = 0 then s2
  else ((s2.setReg (rWin_VF_REJ_LAST fn)
      (BitVec.ofNat 32 (status * 2 ^ 24 + (if wr then 2 ^ 23 else 0) + offset % 2 ^ 16)))).addSat (fWin_VF_REJ_CNT_COUNT fn)

/-- A rejected or dropped register write: logged, with a REJECT notice where the function enabled it (R16, R17, R361). -/
def rejectWrite (fn space offset status : Nat) (s : State) : State :=
  let s1 := logReject fn space offset status true s
  if s1.on (fNq_NQ_CTL_REJ_EN fn) then
    notice fn 0x04 (leBytes 1 status ++ leBytes 1 fn ++ leBytes 4 offset) s1.timeBytes s1
  else s1

/-- A rejected write of a PF register named by its block (R17). -/
def rejectReg (r : RegId) (status : Nat) (s : State) : State := rejectWrite 0 0 (addrOf r) status s

/-! ## House firmware -/

/-- House firmware runs: SH00-SH03 are in RUN (R325). -/
def State.houseRuns (s : State) : Bool := (List.range 4).all fun n => s.fld (fSh_STAT_STATE n) == 2

/-- The low half of a 64-bit register that a _HI write of function `fn` completes: the one that the function holds, or
the one in force (R13). -/
def State.heldLo (s : State) (fn : Nat) (lo : RegId) (cur : Nat) : Nat :=
  match Tab.find s.host.loHeld (fn, lo) with
  | some v => v.toNat
  | none => cur

/-- A held _LO write is used up, or a new one held (R13) (DEDUCED, log entry 6). -/
def State.dropLo (s : State) (fn : Nat) (lo : RegId) : State :=
  { s with host := { s.host with loHeld := Tab.erase s.host.loHeld (fn, lo) } }
def State.holdLo (s : State) (fn : Nat) (lo : RegId) (v : W32) : State :=
  { s with host := { s.host with loHeld := Tab.set s.host.loHeld (fn, lo) v } }

/-! ## Completions -/

/-- SYS.READY.PHASE follows the start-up (R549-R551): READY, firmware started, no bundle, beam trained, training (DEDUCED, log entry 67). -/
def showPhase (s : State) : State :=
  s.setFld fSys_READY_PHASE (
    if s.on fSys_READY_READY then 5 else if s.sec.booted then 4
    else if s.on fSec_STAT_WAIT_HOST || (s.fuses.hostBootDis && s.fld fSec_STAT_BOOT_ERR == ePriv) then 3
    else if (List.range 16).all (fun k => s.on (fBm_STAT_TRAINED k) || s.on (fBm_STAT_FAILED k)) then 2 else 1)

/-- SYS.READY.READY (R550). -/
def State.ready (s : State) : Bool := s.on fSys_READY_READY

/-- The queue number that a command has once its function has been reset: its completion is written nowhere (R356) (DEDUCED, log entry 13). -/
abbrev noQueue := 256

/-- A completed command leaves the taken commands of its queue; BUSY and ERR clear with the last one of a queue that is disabled (R347, R356) (DEDUCED, log entry 12). -/
def untake (h : Hdr) (s : State) : State :=
  if noQueue ≤ h.qp then s
  else
  let v := s.qp h.qp
  let t := v.taken.eraseP (fun t => t.hdr.cid == h.cid && (t.begun || t.bad.isSome) && !t.waiting)
  let s1 := (s.setQp h.qp { v with taken := t }).setFld (fQp_STAT_OUTSTANDING h.qp) t.length
  if t.isEmpty && !s1.on (fQp_CTL_EN h.qp) then (s1.setFld (fQp_STAT_BUSY h.qp) 0).setFld (fQp_STAT_ERR h.qp) 0 else s1

/-- The completion record (R353). -/
def complRecord (c : Compl) (phase head : Nat) : List Byte :=
  leBytes 2 c.hdr.cid ++ leBytes 1 c.status ++ leBytes 1 (phase + 2 * c.kind + (if c.resbuf then 8 else 0)) ++
    leBytes 2 head ++ (if c.status = 0 then padTo 10 c.result else List.replicate 10 0)

/-- Host memory bytes are written in order (R354). -/
def emitData (l : List (Nat × List Byte)) (s : State) : State := l.foldl (fun a d => a.emit (.hostWrite d.1 d.2)) s

/-- A completion is written: its data, then its record unless SUPPRESS spares it, then its interrupt (R351, R353, R354, R365). -/
def writeCompl (c : Compl) (s : State) : State :=
  let q := c.hdr.qp
  let s1 := untake c.hdr (emitData c.data s)
  if c.hdr.suppress && c.status == 0 then s1
  else
    let tail := s1.fld (fQp_CQ_TAIL_TAIL q)
    let size := 2 ^ s1.fld (fQp_CTL_CQ_LOG2 q)
    let s2 := s1.emit (.hostWrite (s1.pair (rQp_CQ_BASE_LO q) (rQp_CQ_BASE_HI q) + 16 * tail)
      (complRecord c (s1.fld (fQp_CQ_TAIL_PHASE q)) (s1.fld (fQp_STAT_SQ_HEAD q))))
    let s3 := s2.setFld (fQp_CQ_TAIL_TAIL q) ((tail + 1) % size)
    let s4 := if (tail + 1) % size = 0 then s3.setFld (fQp_CQ_TAIL_PHASE q) (1 - s3.fld (fQp_CQ_TAIL_PHASE q)) else s3
    cqRecorded q c.hdr.irq s4

/-- A command completes: at once, or when its function may master the bus again (R339). -/
def postCompl (c : Compl) (s : State) : State :=
  let f := s.ownerOf c.hdr.qp
  if noQueue ≤ c.hdr.qp then s
  else if s.bme f then writeCompl c s
  else { s with host := { s.host with held := s.host.held ++ [(f, c)] } }

/-- A command completes with a status and an inline result (R353). -/
def complete (h : Hdr) (status : Nat) (result : List Byte := []) (s : State) : State :=
  postCompl ⟨h, status, 0, result, [], false⟩ s

/-- A command completes with a record written to RES_ADDR (R373). -/
def completeRec (h : Hdr) (status : Nat) (rec_ : List Byte) (s : State) : State :=
  postCompl ⟨h, status, 0, [], [(h.resAddr, rec_)], true⟩ s

/-- The first failing check of a list decides (R371). -/
def firstFail : List (Bool × Nat) → Option Nat
  | [] => none
  | (b, st) :: r => if b then some st else firstFail r

end Sys2Proof.Machine
end

