-- ==== Sys2Proof/Machine/Abort.lean ====
section
/-! DEFINITION. Accepted commands that still wait end without effect when their queue is disabled or their function is
reset (R356). -/

namespace Sys2Proof.Machine

/-- A waiting command of `q` ends: with a completion of E_ABORT, or silently when the device may write nothing more (R356). -/
def endWaiter (post : Bool) (h : Hdr) (s : State) : State := if post then complete h eAbort [] s else untake h s

/-- The commands of queue `q` that stand behind a FENCE, and its posted buffers, end (R356). -/
def abortQueued (post : Bool) (q : Nat) (s : State) : State :=
  let v := s.qp q
  let s1 := s.setQp q { v with
    taken := v.taken.map (fun t => { t with waiting := false, begun := t.begun || t.waiting }), posted := [], fetched := [], due := false }
  let s2 := (v.taken.filter (·.waiting)).foldl (fun a t =>
    if post then postCompl ⟨t.hdr, eAbort, t.kind, [], [], false⟩ a else untake t.hdr a) s1
  v.posted.foldl (fun a p => if post then postCompl ⟨p.hdr, eAbort, 2, [], [], false⟩ a else untake p.hdr a) s2

end Sys2Proof.Machine
end

