-- ==== Sys2Proof/Machine/Anchor.lean ====
section
/-! DEFINITION. The anchor store: three copies of each word, voted on every read (R295-R299), and the fuse mirror (R479). -/

namespace Sys2Proof.Machine

/-- A fuse-mirror word as the fuses give it (R479). -/
def State.fuseWord (s : State) (j : Nat) : W32 :=
  let f := s.fuses
  let slot (i : Nat) : KeySlot := Tab.get ⟨0, false, []⟩ f.slots i
  BitVec.ofNat 32 (
    if j = 32 then (List.range 4).foldl (fun a i => a + (slot i).state % 4 * 4 ^ i + (if (slot i).ta then 256 * 2 ^ i else 0)) 0
    else if j = 33 then f.lifecycle % 4 + (if f.hostBootDis then 256 else 0) + (if f.jtagDis then 512 else 0)
    else if j = 34 then f.counter else if j = 35 then f.counter / 2 ^ 32 else 0)

/-- 32-bit words of a byte string. -/
def wordsOf (l : List Byte) : List W32 := (List.range (l.length / 4)).map fun i => BitVec.ofNat 32 (field l (4 * i) 4)

/-- A word as POR rebuilds it: identity digest, fuse mirror, calibration anchors (R295, R479, R484). -/
def State.ancInit (s : State) (j : Nat) : W32 :=
  if j < 16 then (wordsOf (digest512 Config.identityPk)).getD j 0
  else if 32 ≤ j ∧ j < 40 then s.fuseWord j
  else if 40 ≤ j ∧ j < 48 then Config.calWord (j - 40) else 0

/-- The copies of an anchor word; a word not listed is as POR rebuilt it. -/
def State.ancCopies (s : State) (j : Nat) : AncCopies :=
  Tab.get [(s.ancInit j, true), (s.ancInit j, true), (s.ancInit j, true)] s.anc j

/-- A write sets all three copies (R296). -/
def ancWrite (j : Nat) (v : W32) (s : State) : State := { s with anc := Tab.set s.anc j [(v, true), (v, true), (v, true)] }
/-- Words from `j` on are written. -/
def ancWriteAll (j : Nat) (l : List W32) (s : State) : State := l.zipIdx.foldl (fun a e => ancWrite (j + e.2) e.1 a) s

/-- What a vote finds (R296): the voted value, none at a disagreement, how many copies it rewrites as a minority, and
whether a single good copy decided. -/
structure Vote where
  value  : Option W32
  fixed  : Bool
  single : Bool
  deriving DecidableEq, Repr

/-- The vote on three copies (R296). -/
def vote (c : AncCopies) : Vote :=
  match (c.filter (·.2)).map (·.1) with
  | [a, b, d] =>
    if a = b ∧ b = d then ⟨some a, false, false⟩
    else if a = b ∨ a = d then ⟨some a, true, false⟩
    else if b = d then ⟨some b, true, false⟩
    else ⟨none, false, false⟩
  | [a, b] => if a = b then ⟨some a, true, false⟩ else ⟨none, false, false⟩
  | [a] => ⟨some a, false, true⟩
  | _ => ⟨none, false, false⟩

/-- The DIS bit of a word (R298). -/
def disFld (j : Nat) : FldId := ⟨if j < 32 then rAnc_DIS_LO else rAnc_DIS_HI, j % 32, j % 32⟩
/-- Word `j` disagrees (R298). -/
def State.disagrees (s : State) (j : Nat) : Bool := s.on (disFld j)

/-- A read of a word is voted; a fuse-mirror word that disagrees is reloaded from the fuses (R296, R298). -/
def ancVote (j : Nat) (s : State) : Option W32 × State :=
  let v := vote (s.ancCopies j)
  match v.value with
  | some w =>
    let s1 := if v.fixed then raise_ fAnc_EVENT_FIXED ((ancWrite j w s).addSat fAnc_STAT_FIXED)
      else if v.single then raise_ fAnc_EVENT_SINGLE ((ancWrite j w s).addSat fAnc_STAT_SINGLE)
      else s
    (some w, s1)
  | none =>
    let s1 := raise_ fAnc_EVENT_DISAGREE (s.setFld (disFld j) 1)
    (none, if 32 ≤ j ∧ j < 40 then (ancWrite j (s.fuseWord j) s1).setFld (disFld j) 0 else s1)

/-- Copies of a word after upsets: copy, value, parity good. -/
def upsetCopies (l : List (Nat × W32 × Bool)) (c : AncCopies) : AncCopies :=
  c.zipIdx.map fun e => match l.find? (fun u => u.1 == e.2) with | some u => u.2 | none => e.1

/-- ANCHOR_VOTE: the periodic read of a word, with what upsets have done to its copies since the last (R296-R298). -/
def execAnchorVote (word : Nat) (upset : List (Nat × W32 × Bool)) (s : State) : Host.Outcome State Fault Refusal :=
  .next (if word < 64 then
    (ancVote word { s with anc := Tab.set s.anc word (upsetCopies upset (s.ancCopies word)) }).2 else s)

/-- The security words 48-63 disagree somewhere (R298). -/
def State.secWordsBad (s : State) : Bool := (List.range 16).any fun i => s.disagrees (48 + i)

/-- The SEC lock is set, or counts as set (R4, R298, R492). -/
def State.locked (s : State) : Bool := s.on fSec_CTL_LOCK || s.secWordsBad

/-- The bytes of words as voted, a disagreeing word as all ones. -/
def State.ancBytes (s : State) (j n : Nat) : List Byte :=
  (List.range n).flatMap fun i => leBytes 4 ((vote (s.ancCopies (j + i))).value.getD 0xFFFFFFFF#32).toNat

end Sys2Proof.Machine
end

