-- ==== Sys2Proof/Machine/Operands.lean ====
section
/-! DEFINITION. Command descriptors (R348-R350, R370, R372, R375-R377) and frame descriptors (R358, R359): the fields
each opcode uses, the checks of R350 on the raw bytes, the command that a descriptor spells, and how a command begins. -/

namespace Sys2Proof.Machine

/-- A row of R370 with its fields of R375-R377: OBJ mask, whether ADDR and LEN are used, and the ARGS bytes that it lists as (first
byte, number of bytes). -/
structure OpRow where
  code  : Nat
  gen1  : Bool
  pf    : Bool
  record : Bool
  obj   : Nat
  addr  : Bool
  len   : Bool
  args  : List (Nat × Nat)
  deriving DecidableEq, Repr

/-- R370 and R375: the stream and beam commands. -/
def opsStream : List OpRow := [
  ⟨0x10, true, false, false, 0x3FF, true, false, [(0, 2)]⟩,
  ⟨0x11, true, false, false, 0x3FF, false, false, []⟩,
  ⟨0x12, true, false, false, 0x3FF, true, false, [(0, 2)]⟩,
  ⟨0x13, true, false, false, 0x3FF, false, false, []⟩,
  ⟨0x14, true, false, false, 0x3FF, false, false, [(0, 2), (4, 4)]⟩,
  ⟨0x15, true, false, false, 0x3FF, false, false, [(0, 4), (4, 4)]⟩,
  ⟨0x16, true, true, false, 0x3F, true, false, []⟩,
  ⟨0x20, true, true, false, 0x8000001F, false, false, [(0, 16)]⟩,
  ⟨0x21, true, true, false, 0x3F, false, false, []⟩,
  ⟨0x22, true, false, false, 0xC03F07FF, false, false, [(0, 14)]⟩]

/-- R370 and R376: the shuttle, draft and lane commands. -/
def opsLane : List OpRow := [
  ⟨0x30, true, true, false, 0x7F, true, false, []⟩,
  ⟨0x31, true, true, false, 0x7F, true, false, [(0, 1), (4, 4)]⟩,
  ⟨0x32, true, true, false, 0x7F, false, false, []⟩,
  ⟨0x33, true, true, false, 0x7F, false, false, [(0, 4), (4, 4)]⟩,
  ⟨0x40, false, true, true, 0x1F, true, true, [(0, 1)]⟩,
  ⟨0x41, true, true, false, 0x1F, false, false, []⟩,
  ⟨0x50, true, true, false, 7, false, false, [(0, 4)]⟩,
  ⟨0x51, true, true, false, 7, false, false, [(0, 1)]⟩,
  ⟨0x52, true, true, false, 0xF, false, false, [(0, 1)]⟩,
  ⟨0x53, true, true, false, 0xF, false, false, [(0, 3), (4, 4)]⟩]

/-- R370 and R377: the time, crew, power, security, test and information commands. -/
def opsSystem : List OpRow := [
  ⟨0x60, true, true, false, 3, false, false, [(0, 7), (8, 4)]⟩,
  ⟨0x61, true, true, false, 3, false, false, [(0, 1), (4, 4)]⟩,
  ⟨0x62, false, true, true, 0, false, false, [(0, 1), (4, 12)]⟩,
  ⟨0x70, true, true, false, 0xFFFF, false, false, [(0, 7)]⟩,
  ⟨0x71, true, true, false, 0, false, false, []⟩,
  ⟨0x72, false, true, false, 0xFFFF, true, true, [(0, 1)]⟩,
  ⟨0x80, true, true, false, 0, false, false, [(0, 1), (4, 4)]⟩,
  ⟨0x90, false, false, true, 0, false, true, [(0, 32)]⟩,
  ⟨0x91, false, true, false, 0, true, true, []⟩,
  ⟨0x92, true, true, false, 0, false, false, [(0, 1)]⟩,
  ⟨0xA0, false, true, true, 0, false, false, [(0, 16)]⟩,
  ⟨0xF0, false, false, true, 0xFFFFFFFF, false, false, [(0, 1)]⟩]

/-- The opcode table of R370. -/
def opTable : List OpRow := opsStream ++ opsLane ++ opsSystem

/-- An opcode's table lists ARGS byte `i` (R372). -/
def OpRow.lists (r : OpRow) (i : Nat) : Bool := r.args.any fun a => decide (a.1 ≤ i ∧ i < a.1 + a.2)

/-- A generation 1 descriptor as the generation 2 descriptor it stands for (R349). -/
def gen2Of (d : List Byte) : List Byte :=
  d.take 1 ++ [1] ++ (d.drop 2).take 2 ++ [(d.getD 1 0) &&& 0x0F] ++ [0, 0, 0] ++ (d.drop 4).take 4 ++
    List.replicate 4 0 ++ (d.drop 8).take 8 ++ List.replicate 8 0 ++ (d.drop 16).take 16 ++ List.replicate 16 0

/-- The flag bits of a descriptor's bytes 4-5. -/
def descFlags (d : List Byte) : Nat := field d 4 2

/-- The header of a descriptor of queue `q` (R348). -/
def hdrOf (q : Nat) (d : List Byte) : Hdr :=
  let f := descFlags d
  ⟨q, field d 2 2, f.testBit 1, f.testBit 2, f.testBit 3, f.testBit 4, field d 24 8⟩

/-- A reserved field or flag of a command descriptor is not 0 (R348, R372). The bits of a listed ARGS byte to which the tables give
no meaning are not reserved (DEDUCED, log entry 129). -/
def reservedSet (r : OpRow) (d : List Byte) : Bool :=
  decide (descFlags d ≥ 32) || (descFlags d).testBit 4
    || ((descFlags d).testBit 1 && r.code != 0x14 && r.code != 0x15)
    || field d 6 2 != 0
    || (field d 8 4 &&& (0xFFFFFFFF - r.obj)) != 0
    || (!r.len && field d 12 4 != 0) || (!r.addr && field d 16 8 != 0)
    || (List.range 32).any (fun i => !r.lists i && d.getD (32 + i) 0 != 0)

/-- The checks of R350 on a command descriptor, in their order; `none` passes it to the command's own checks. -/
def checkCommand (gen1 : Bool) (d : List Byte) : Option Nat :=
  match opTable.find? (fun r => r.code == (d.getD 0 0).toNat) with
  | none => some eField
  | some r => firstFail [
      (d.getD 1 0 != 1, eVersion),
      (reservedSet r d, eDesc),
      (gen1 && !r.gen1, eVersion),
      (r.record && (field d 24 8 == 0 || field d 24 8 % 64 != 0), eDesc)]

/-- The checks of R350 on a frame descriptor of a queue of KIND `kind` (R358, R359, R372). -/
def checkFrame (kind : Nat) (d : List Byte) : Option Nat :=
  firstFail [
    ((d.getD 0 0).toNat != kind, eField),
    (d.getD 1 0 != 1, eVersion),
    (decide (descFlags d ≥ 32) || (descFlags d).testBit 1 || field d 6 2 != 0 || (d.drop 24).any (· != 0)
      || (kind == 2 && ((descFlags d).testBit 4 || field d 8 4 != 0)), eDesc)]

/-- The checks of R350 for a descriptor as it stands in the ring. A reserved flag of a generation 1 descriptor counts
as a reserved flag (R349). -/
def checkDesc (kind : Nat) (gen1 : Bool) (raw : List Byte) : Option Nat :=
  let d := if gen1 then gen2Of raw else raw
  if kind = 0 then
    match opTable.find? (fun r => r.code == (d.getD 0 0).toNat) with
    | none => some eField
    | some _ => if gen1 && decide ((raw.getD 1 0).toNat ≥ 16) then some eDesc else checkCommand gen1 d
  else checkFrame kind d

/-! ## The command that a descriptor spells (R348, R358, R359, R375-R377) -/

/-- The commands of the stream and beam opcodes (R375). -/
def spelledStream (h : Hdr) (d : List Byte) (data : Option (List Byte)) : Nat → Option Instr
  | 0x10 => some (.ispOpen h (field d 8 4 % 2 ^ 10) (field d 32 2) data)
  | 0x11 => some (.ispClose h (field d 8 4 % 2 ^ 10))
  | 0x12 => some (.espOpen h (field d 8 4 % 2 ^ 10) (field d 32 2) data)
  | 0x13 => some (.espClose h (field d 8 4 % 2 ^ 10))
  | 0x14 => some (.espTake h (field d 8 4 % 2 ^ 10) (field d 32 2) (field d 36 4))
  | 0x15 => some (.espRewind h (field d 8 4 % 2 ^ 10) (field d 32 4) (field d 36 4))
  | 0x16 => some (.expRule h (field d 8 4 % 2 ^ 6) data)
  | 0x20 => some (.bayAlloc h (field d 8 4 % 2 ^ 5) ((field d 8 4).testBit 31) (field d 32 8) (field d 40 8))
  | 0x21 => some (.bayFree h (field d 8 4 % 2 ^ 6))
  | 0x22 => some (.boltSet h (field d 8 4 % 2 ^ 11) (field d 8 4 / 2 ^ 16 % 2 ^ 6) (field d 8 4 / 2 ^ 30 % 2) ((field d 8 4).testBit 31)
      (field d 32 8) (field d 40 4) (field d 44 2))
  | _ => none

/-- The commands of the shuttle, draft and lane opcodes (R376). -/
def spelledLane (h : Hdr) (d : List Byte) (data : Option (List Byte)) : Nat → Option Instr
  | 0x30 => some (.shtLoad h (field d 8 4 % 2 ^ 7) data)
  | 0x31 => some (.shtStart h (field d 8 4 % 2 ^ 7) ((field d 32 1).testBit 0) ((field d 32 1).testBit 1) (field d 32 1 / 4 % 4)
      (field d 36 4) data)
  | 0x32 => some (.shtStop h (field d 8 4 % 2 ^ 7))
  | 0x33 => some (.shtMsg h (field d 8 4 % 2 ^ 7) (field d 32 4 % 2 ^ 24) (field d 36 4 % 2 ^ 24))
  | 0x40 => some (.draftRun h (field d 8 4 % 2 ^ 5) (field d 32 1) (field d 12 4) data)
  | 0x41 => some (.draftAbort h (field d 8 4 % 2 ^ 5))
  | 0x50 => some (.laneMode h (field d 8 4 % 2 ^ 3) (field d 32 1) (field d 33 1) (field d 34 1) (field d 35 1))
  | 0x51 => some (.laneTrain h (field d 8 4 % 2 ^ 3) ((field d 32 1).testBit 0) ((field d 32 1).testBit 1))
  | 0x52 => some (.laneLoop h (field d 8 4 % 2 ^ 4) (field d 32 1))
  | 0x53 => some (.lanePrbs h (field d 8 4 % 2 ^ 4) ((field d 32 1).testBit 0) ((field d 32 1).testBit 1) (field d 33 1) (field d 34 1)
      (field d 36 4))
  | _ => none

/-- The commands of the time, crew, power, security, test and information opcodes (R377). -/
def spelledSystem (h : Hdr) (d : List Byte) (data : Option (List Byte)) : Nat → Option Instr
  | 0x60 => some (.strokeDef h (field d 8 4 % 2 ^ 2) (field d 32 4) (field d 36 2) (field d 38 1 % 2) (field d 38 1 / 2 % 2)
      (signed 32 (field d 40 4)))
  | 0x61 => some (.strokeJump h (field d 8 4 % 2 ^ 2) ((field d 32 1).testBit 0) (signed 32 (field d 36 4)))
  | 0x62 =>
    if (field d 32 1).testBit 0 then some (.timeSet h true 0 0 0 (signed 64 (field d 36 8)))
    else some (.timeSet h false (field d 42 6) (field d 38 4) (field d 36 2) 0)
  | 0x70 => some (.crewJoin h (field d 8 4 % 2 ^ 16) (field d 32 1) (field d 33 1) (field d 34 1 % 2 ^ 4) ((field d 35 1).testBit 0)
      (field d 36 2) (field d 38 1))
  | 0x71 => some (.crewLeave h)
  | 0x72 => some (.crewRelay h (field d 8 4 % 2 ^ 16) (field d 32 1 % 2) (field d 12 4) data)
  | 0x80 => some (.pwrHint h (field d 32 1) (field d 36 4))
  | 0x90 => some (.attest h (field d 12 4) ((d.drop 32).take 32))
  | 0x91 => some (.fwStage h (field d 16 8) (field d 12 4) data)
  | 0x92 => some (.fwCommit h ((field d 32 1).testBit 0))
  | 0xA0 => some (.bistRun h (field d 32 16))
  | 0xF0 => some (.query h (field d 8 4) (field d 32 1))
  | _ => none

/-- The command that a descriptor of a queue of KIND `kind` spells, with the data that the device reads at its ADDR. -/
def spelled (kind : Nat) (h : Hdr) (d : List Byte) (data : Option (List Byte)) : Option Instr :=
  if kind = 1 then some (.frameSend h (field d 8 4) (field d 12 4) data)
  else if kind = 2 then some (.post h (field d 16 8) (field d 12 4))
  else
    let op := (d.getD 0 0).toNat
    if op < 0x30 then spelledStream h d data op else if op < 0x60 then spelledLane h d data op else spelledSystem h d data op

/-- A generation 2 descriptor (R348). -/
def descBytes (op : Nat) (h : Hdr) (obj len addr : Nat) (args : List Byte) : List Byte :=
  let flags := (if h.replace then 2 else 0) + (if h.suppress then 4 else 0) + (if h.irq then 8 else 0) + (if h.ts then 16 else 0)
  leBytes 1 op ++ [1] ++ leBytes 2 h.cid ++ leBytes 2 flags ++ [0, 0] ++ leBytes 4 obj ++ leBytes 4 len ++ leBytes 8 addr ++
    leBytes 8 h.resAddr ++ padTo 32 args

/-- Bits as the number that they spell, least significant first. -/
def bitsNat (l : List Bool) : Nat := l.foldr (fun b a => (if b then 1 else 0) + 2 * a) 0

/-- The descriptor of a command whose data, if it has any, lies at `addr` (R348, R358, R359, R375-R377); none of other rows. -/
def descOf (addr : Nat) : Instr → Option (List Byte)
  | .ispOpen h port bolt _ => some (descBytes 0x10 h port 0 addr (leBytes 2 bolt))
  | .ispClose h port => some (descBytes 0x11 h port 0 0 [])
  | .espOpen h port bolt _ => some (descBytes 0x12 h port 0 addr (leBytes 2 bolt))
  | .espClose h port => some (descBytes 0x13 h port 0 0 [])
  | .espTake h port bolt c => some (descBytes 0x14 h port 0 0 (leBytes 2 bolt ++ [0, 0] ++ leBytes 4 c))
  | .espRewind h port rew c => some (descBytes 0x15 h port 0 0 (leBytes 4 rew ++ leBytes 4 c))
  | .expRule h rule _ => some (descBytes 0x16 h rule 0 addr [])
  | .bayAlloc h owner any size base => some (descBytes 0x20 h (owner + 2 ^ 31 * any.toNat) 0 0 (leBytes 8 size ++ leBytes 8 base))
  | .bayFree h bay => some (descBytes 0x21 h bay 0 0 [])
  | .boltSet h bolt bay kind bind ofs size slots =>
    some (descBytes 0x22 h (bolt + 2 ^ 16 * bay + 2 ^ 30 * kind + 2 ^ 31 * bind.toNat) 0 0 (leBytes 8 ofs ++ leBytes 4 size ++ leBytes 2 slots))
  | .shtLoad h sh _ => some (descBytes 0x30 h sh 0 addr [])
  | .shtStart h sh resume atStroke k c _ =>
    some (descBytes 0x31 h sh 0 addr (leBytes 1 (bitsNat [resume, atStroke] + 4 * k) ++ [0, 0, 0] ++ leBytes 4 c))
  | .shtStop h sh => some (descBytes 0x32 h sh 0 0 [])
  | .shtMsg h sh w0 w1 => some (descBytes 0x33 h sh 0 0 (leBytes 4 w0 ++ leBytes 4 w1))
  | .draftRun h chan pri len _ => some (descBytes 0x40 h chan len addr (leBytes 1 pri))
  | .draftAbort h chan => some (descBytes 0x41 h chan 0 0 [])
  | .laneMode h lane mode variant width end_ =>
    some (descBytes 0x50 h lane 0 0 (leBytes 1 mode ++ leBytes 1 variant ++ leBytes 1 width ++ leBytes 1 end_))
  | .laneTrain h lane rx tx => some (descBytes 0x51 h lane 0 0 (leBytes 1 (bitsNat [rx, tx])))
  | .laneLoop h target kind => some (descBytes 0x52 h target 0 0 (leBytes 1 kind))
  | .lanePrbs h target gen chk pattern inj injArg =>
    some (descBytes 0x53 h target 0 0 (leBytes 1 (bitsNat [gen, chk]) ++ leBytes 1 pattern ++ leBytes 1 inj ++ [0] ++ leBytes 4 injArg))
  | .strokeDef h k num den src mode phase =>
    some (descBytes 0x60 h k 0 0 (leBytes 4 num ++ leBytes 2 den ++ leBytes 1 (src + 2 * mode) ++ [0] ++ leBytes 4 (unsigned 32 phase)))
  | .strokeJump h k toIn delta => some (descBytes 0x61 h k 0 0 (leBytes 1 toIn.toNat ++ [0, 0, 0] ++ leBytes 4 (unsigned 32 delta)))
  | .timeSet h relative sec ns frac ofs =>
    some (descBytes 0x62 h 0 0 0 (leBytes 1 relative.toNat ++ [0, 0, 0] ++
      (if relative then leBytes 8 (unsigned 64 ofs) else leBytes 2 frac ++ leBytes 4 ns ++ leBytes 6 sec)))
  | .crewJoin h id role topo share relayEn leadUs rxQp =>
    some (descBytes 0x70 h id 0 0 (leBytes 1 role ++ leBytes 1 topo ++ leBytes 1 share ++ leBytes 1 relayEn.toNat ++ leBytes 2 leadUs ++
      leBytes 1 rxQp))
  | .crewLeave h => some (descBytes 0x71 h 0 0 0 [])
  | .crewRelay h dst dir len _ => some (descBytes 0x72 h dst len addr (leBytes 1 dir))
  | .pwrHint h target holdMs => some (descBytes 0x80 h 0 0 0 (leBytes 1 target ++ [0, 0, 0] ++ leBytes 4 holdMs))
  | .attest h len nonce => some (descBytes 0x90 h 0 len 0 nonce)
  | .fwStage h a len _ => some (descBytes 0x91 h 0 len a [])
  | .fwCommit h advance => some (descBytes 0x92 h 0 0 0 (leBytes 1 advance.toNat))
  | .bistRun h mask => some (descBytes 0xA0 h 0 0 0 (leBytes 16 mask))
  | .query h obj kind => some (descBytes 0xF0 h obj 0 0 (leBytes 1 kind))
  | .frameSend h ep len _ => some (descBytes 1 h ep len addr [])
  | .post h a len => some (descBytes 2 h 0 len a [])
  | _ => none

/-- The header of a command, and the data of one that reads host memory at its ADDR. -/
def cmdOf : Instr → Option (Hdr × Option (Option (List Byte)))
  | .ispOpen h _ _ x | .espOpen h _ _ x | .expRule h _ x | .shtLoad h _ x | .shtStart h _ _ _ _ _ x | .draftRun h _ _ _ x
  | .crewRelay h _ _ _ x | .fwStage h _ _ x | .frameSend h _ _ x => some (h, some x)
  | .ispClose h _ | .espClose h _ | .espTake h _ _ _ | .espRewind h _ _ _ | .bayAlloc h _ _ _ _ | .bayFree h _
  | .boltSet h _ _ _ _ _ _ _ | .shtStop h _ | .shtMsg h _ _ _ | .draftAbort h _ | .laneMode h _ _ _ _ _ | .laneTrain h _ _ _
  | .laneLoop h _ _ | .lanePrbs h _ _ _ _ _ _ | .strokeDef h _ _ _ _ _ _ | .strokeJump h _ _ _ | .timeSet h _ _ _ _ _
  | .crewJoin h _ _ _ _ _ _ _ | .crewLeave h | .pwrHint h _ _ | .attest h _ _ | .fwCommit h _ | .bistRun h _ | .query h _ _
  | .post h _ _ => some (h, none)
  | _ => none

/-! ## The beginning of a command (R347, R351, R352, R371, R382) -/

/-- The taken command of queue `q` whose turn it is to begin: the oldest that has not begun, none while it stands behind a FENCE
(R352, R382). -/
def State.turn (s : State) (q : Nat) : Option Taken :=
  ((s.qp q).taken.find? fun t => !t.begun && t.bad.isNone).filter (!·.waiting)

/-- Command `i` begins: it is the one that the descriptor whose turn it is spells (R348, R352) (DESIGN CHOICE, log entry 3), and its data
can be read, which takes Bus Master Enable (R339). -/
def State.begins (s : State) (i : Instr) : Bool :=
  match cmdOf i with
  | none => false
  | some (h, data) =>
    match s.turn h.qp with
    | none => false
    | some t => t.hdr == h && spelled t.kind h t.desc data.join == some i && (data.isNone || s.bme (s.ownerOf h.qp))

/-- The taken commands once the next one has begun. -/
def markBegun : List Taken → List Taken
  | [] => []
  | t :: r => if !t.begun && t.bad.isNone then { t with begun := true } :: r else t :: markBegun r

/-- The next command of queue `q` has begun. -/
def State.begun (s : State) (q : Nat) : State := s.modQp q fun v => { v with taken := markBegun v.taken }

/-- The self-test bits of the block COX: its two links (R370, R497). -/
abbrev coxTargets : List Nat := [39, 40]

/-- Checks 2 to 4 of R371: issuer, SYS.READY, target blocks in self-test. -/
def State.gate (s : State) (h : Hdr) (pfOnly : Bool) (targets : List Nat) : List (Bool × Nat) :=
  [(pfOnly && s.ownerOf h.qp != 0, ePriv), (!s.ready, eState), (targets.any s.testing, eSelfTest)]

/-- A command begins (R352, R371): only when its turn has come, and not in a device held in reset; the first failing check completes
it without effect; otherwise its effect follows (DESIGN CHOICE, log entry 3; DEDUCED, log entry 5). -/
def command (h : Hdr) (i : Instr) (checks : List (Bool × Nat)) (effect : State → State) (s : State) : State :=
  if !s.begins i || s.dark then s
  else match firstFail checks with
    | some st => complete h st [] (if st = eBus then readFailed (s.begun h.qp) else s.begun h.qp)
    | none => effect (s.begun h.qp)

end Sys2Proof.Machine
end

