-- ==== Sys2Proof/Machine/Wake.lean ====
section
/-! DEFINITION. Transitions between the power states, wake events, and the host's accesses, which wake the device (R442-R458); the
history of the frequency that HOLDOVER needs (R188). -/

namespace Sys2Proof.Machine

/-! ## The frequency in LOCKED (R188) -/

/-- The newest entries of a history, up to a total duration. -/
def takeDur : Nat → List (Nat × Int) → List (Nat × Int)
  | _, [] => []
  | n, (d, f) :: r => if n = 0 then [] else if n ≤ d then [(n, f)] else (d, f) :: takeDur (n - d) r

/-- The frequency in use since the last sample in LOCKED goes into the history of the last 64 s of LOCKED (R188). -/
def noteLocked (s : State) : State :=
  if s.fld fCox_TB_STAT_SERVO_STATE = 2 then
    { s with time := { s.time with
        hist := takeDur (64 * secU) ((s.up - s.time.lastAt, s.sfld fCox_TB_FREQ_FREQ) :: s.time.hist), lastAt := s.up } }
  else s

/-- The servo's states (R188). -/
abbrev svFreerun := 0
abbrev svAcquire := 1
abbrev svLocked := 2
abbrev svHoldover := 3
abbrev svCrew := 4

def State.servo (s : State) : Nat := s.fld fCox_TB_STAT_SERVO_STATE
def State.setServo (s : State) (v : Nat) : State :=
  { s.setFld fCox_TB_STAT_SERVO_STATE v with time := { s.time with runIn := 0, runOut := 0 } }

/-- HOLDOVER: the frequency is held at the mean of the last 64 s of LOCKED (R188); with none of LOCKED it stays (DESIGN CHOICE, log
entry 128). -/
def toHoldover (s : State) : State :=
  let s1 := noteLocked s
  let total : Nat := s1.time.hist.foldl (fun a e => a + e.1) 0
  let s2 := s1.setServo svHoldover
  if total = 0 then s2
  else s2.setSFld fCox_TB_FREQ_FREQ (roundFree (quot ((s1.time.hist.foldl (fun a e => a + e.2 * e.1) 0 : Int) : Rat) total))

/-! ## Transitions and wakes -/

def State.modPwr (s : State) (f : PwrSt → PwrSt) : State := { s with pwr := f s.pwr }
def State.pState (s : State) : Nat := s.fld fPwr_STATE_STATE

/-- A transition to `p` starts; an entry into P2 or P3 opens a new record of wakes and asks for the link's state, and an exit that no
wake event caused counts as made by request (R449, R452, R458). -/
def startTransition (p : Nat) (s : State) : State :=
  let s1 := (s.setFld fPwr_STATE_TRANS 1).modPwr fun w => { w with going := some p, deeper := none }
  if s.pState < p ∧ 2 ≤ p then
    let s2 := s1.modPwr ({ · with latch := none })
    if s2.host.cfg.l1 then s2.emit (.linkPm (if p = 3 ∧ s2.host.cfg.l12 then 2 else 1)) else s2
  else if p < s.pState ∧ 2 ≤ s.pState then s1.modPwr fun w => { w with latch := some (w.latch.getD ⟨0, 7, false⟩) }
  else s1

/-- Source `i` is enabled: 1 and 7 always, 2 to 6 by WAKE_EN (R450). -/
def State.wakeOn (s : State) (i : Nat) : Bool := i == 1 || i == 7 || (s.reg rPwr_WAKE_EN).getLsbD i

/-- An entry into P2 or P3 runs (R451). -/
def State.entering (s : State) : Bool :=
  let p := s.pwr.going.getD 0
  s.on fPwr_STATE_TRANS && decide (2 ≤ p ∧ s.pState < p)

/-- A wake is noted with those since the entry began (R452) (DEDUCED, log entry 61). -/
def noteWake (i : Nat) (s : State) : State :=
  s.modPwr fun w => { w with latch := some (match w.latch with
    | some l => { l with mask := Nat.lor l.mask (2 ^ i) }
    | none => ⟨2 ^ i, i, s.entering⟩) }

/-- A wake event of source `i`: in P2 and P3 it requests P0, through the pending slot while an exit to another state runs; during the
entry it is latched (R449-R452) (DEDUCED, log entry 60). -/
def wake (i : Nat) (s : State) : State :=
  if !s.wakeOn i || !(s.entering || decide (2 ≤ s.pState)) then s
  else
    let s1 := noteWake i s
    if s.entering then s1
    else if s.on fPwr_STATE_TRANS then (if s.pwr.going = some 0 then s1 else s1.setFld fPwr_STATE_PENDING 0)
    else startTransition 0 s1

/-- The timebase resumes after P3, which began at `since`: its value at the entry plus the time in the state, within ±(2 µs + 50 ppm)
(R455) (DESIGN CHOICE, log entry 22). -/
def resumeTimebase (since : Nat) (s : State) : State :=
  let gap := s.up - since
  let lim : Int := ((2000 * nsU + gap * 50 / 1000000 : Nat) : Int)
  let e := max (-lim) (min lim (Config.sleepError s.free))
  let s1 := raise_ fCox_TB_EVENT_STEPPED { s.tick with tb := ((s.tb : Int) + gap + e).toNat }
  if s1.fld fCox_TB_CTL_SERVO = 1 then raise_ fCox_TB_EVENT_HOLDOVER (toHoldover s1) else s1

/-- An exit from state `old`, entered at `since`, is recorded (R452). -/
def recordExit (old since : Nat) (s : State) : State :=
  let l := s.pwr.latch.getD ⟨0, 7, false⟩
  let s1 := (((s.setFld fPwr_WAKE_LAST_MASK l.mask).setFld fPwr_WAKE_LAST_FROM old).setFld fPwr_WAKE_LAST_ENTRY
    (if l.entry then 1 else 0)).setFld fPwr_WAKE_LAST_SRC l.first
  let s2 := (s1.setFld fPwr_WAKE_STAY_US (min (2 ^ 32 - 1) ((s.up - since) / (1000 * nsU)))).modPwr ({ · with latch := none })
  raise_ fPwr_EVENT_WAKE (s2.addSat (if old = 3 then fPwr_WAKE_CNT_P3 else fPwr_WAKE_CNT_P2))

/-- Beam ports leave self-refresh, but for those that a BLK reset or a self-test holds (R288, R289, R501) (DEDUCED, log entry 60). -/
def leaveHold (s : State) : State :=
  ((List.range 16).filter (fun k => !s.beam.resets.contains k && !s.testing (8 + k))).foldl
    (fun a k => a.setFld (fBm_STAT_SELF_REF k) 0) s

/-- A latency of the LTR capability in ns, value times scale (R444; PCIe Base Specification) (PRESUMED, log entry 9). -/
def ltrNs (v : Nat) : Nat := v % 1024 * 32 ^ (v / 1024 % 8)

/-- The LTR message at the end of a transition (R457). -/
def sendLtr (s : State) : State :=
  let c := s.host.cfg
  if c.ltr then s.emit (.ltr (if s.pState < 2 then some (min 10000 (ltrNs c.snoop), min 10000 (ltrNs c.noSnoop)) else none)) else s

/-- The clock of shuttle `n` stands still (R442). -/
def State.shGated (s : State) (n : Nat) : Bool :=
  s.pState == 3 || (decide (4 ≤ n) && (s.pState == 2 || (s.pState == 1 && s.fld (fSh_STAT_STATE n) != 2)))

/-- A shuttle's timer stands still from `up` on, or goes on (R324, R442, R443). -/
def Shuttle.gate (h : Shuttle) (still : Bool) (up : Nat) : Shuttle :=
  match h.gateAt with
  | none => if still then { h with gateAt := some up } else h
  | some t => if still then h else { h with gateAt := none, tmrAt := h.tmrAt + (up - t) }

/-- The clocks of the shuttles stop and start as the states of the device and of the shuttles say (R442). -/
def gateShuttles (s : State) : State :=
  { s with sht := { s.sht with sh := s.sht.sh.map fun e => (e.1, e.2.gate (s.shGated e.1) s.up) } }

/-- The running transition ends in state `p`, `hold` being what an entry into P2 or P3 does to the blocks; the LTR message goes before
any other (R449, R452, R455, R457); the next split record carries GAP (R531) (DEDUCED, log entry 60). -/
def endTransition (hold : State → State) (p : Nat) (s : State) : State :=
  let old := s.pState
  let since := s.pwr.since
  let s1 := ((s.setFld fPwr_STATE_STATE p).setFld fPwr_STATE_TRANS 0).modPwr fun w => { w with going := none, since := s.up, deeper := none }
  let s2 := sendLtr (gateShuttles s1)
  let s3 := if 2 ≤ p ∧ old < 2 then hold s2
    else if p < 2 ∧ 2 ≤ old then leaveHold { s2 with split := { s2.split with gapDue := true } }
    else s2
  let s4 := if old = 3 ∧ p < 3 then resumeTimebase since s3 else s3
  raise_ fPwr_EVENT_STATE_CHG (if 2 ≤ old ∧ p < old then recordExit old since s4 else s4)

/-- The end of the running transition: a wake latched in an entry goes before the pending request, which the slot loses (R449,
R451). -/
def transitionEnded (hold : State → State) (s : State) : State :=
  match s.pwr.going with
  | none => s
  | some p =>
    let s1 := endTransition hold p s
    let pend := s1.fld fPwr_STATE_PENDING
    let s2 := s1.setFld fPwr_STATE_PENDING 7
    if s.entering ∧ s1.pwr.latch.isSome then startTransition 0 s2
    else if pend = 7 ∨ pend = p then s2 else startTransition pend s2

/-- An access of the host to a block that P2 or P3 gates waits for the exit that it causes (R450, R453): the transitions that it needs
end first (DEDUCED, log entry 60). -/
def arouse (s : State) : State :=
  (List.range 3).foldl (fun a _ => if a.pState < 2 then a else transitionEnded id a) (wake 1 s)

/-- An access by the host, in the order of its function (R34): a request TLP is wake source 1 (R450, R453); a device held in reset answers none (R470, R495) (DEDUCED, log entry 5; DEDUCED, log entry 17; DEDUCED, log entry 60; DESIGN CHOICE, log entry 81). -/
def hostAccess (effect : State → State) (s : State) : State := if s.dark then s else effect (arouse s)

/-- As `hostAccess`, to a block that runs in every powered state: it wakes the device and does not wait (R442, R443, R460). -/
def aonAccess (effect : State → State) (s : State) : State := if s.dark then s else effect (wake 1 s)

/-- The blocks that run in every powered state (R26, R442, R443). -/
def runsAlways : Blk → Bool
  | .pwr | .thm | .mon | .ch | .mgt | .bias | .anc => true
  | _ => false

/-- An access to the register that the host names. -/
def regAccess (r : Option RegId) (effect : State → State) (s : State) : State :=
  if r.any (runsAlways ·.blk) then aonAccess effect s else hostAccess effect s

end Sys2Proof.Machine
end

