-- ==== Sys2Proof/Machine/Count.lean ====
section
/-! DEFINITION. The programmable counters: an event counts in every enabled counter of its block whose source and
filters it passes (R516, R517, R520-R522). -/

namespace Sys2Proof.Machine

/-- What a filter looks at in an event (R520, R521): PRIV class, requester kind and number, object, class bits
(0 read, 1 write, 2 media, 3 control), beam address, and whether the filters act on the event's source at all (R522). -/
structure EvInfo where
  priv   : Nat := 0
  mkind  : Nat := 0
  master : Nat := 0
  obj    : Nat := 0
  cls    : Nat := 0
  addr   : Nat := 0
  filt   : Bool := true
  deriving DecidableEq, Repr, Inhabited

/-- The programmable counters of a block (R516): how many, the offset of counter 0. -/
def cntGeom : Blk → Nat × Nat
  | .ln => (6, 0x80)
  | .loom => (32, 0x3000)
  | .bm => (8, 0x100)
  | .sh => (4, 0x40)
  | _ => (0, 0)

/-- An event passes the FILT value of a counter (R520). `objs` tells whether the block has an object filter. -/
def passes (s : State) (b : Blk) (i : Nat) (f : W32) (e : EvInfo) : Bool :=
  !e.filt ||
  ((bits f 31 30 == 0 || bits f 31 30 == e.priv)
  && (bits f 29 28 == 0 || (bits f 29 28 == e.mkind && bits f 27 21 == e.master))
  && (bits f 20 20 == 0 || decide (s.pair (rBm_CNT_ADDR_LO_LO i) (rBm_CNT_ADDR_LO_HI i) ≤ e.addr
        ∧ e.addr ≤ s.pair (rBm_CNT_ADDR_HI_LO i) (rBm_CNT_ADDR_HI_HI i)))
  && (bits f 19 16 == 0 || (bits f 19 16 &&& e.cls) != 0)
  && (b != .loom || f.getLsbD 15 || bits f 9 0 == e.obj))

/-- One counter takes an event: VAL grows modulo 2^48, and a wrap sets OVF (R517). -/
def bump (b : Blk) (i o n : Nat) (s : State) : State :=
  let v := bits (s.reg ⟨b, i, o + 8⟩) 31 0 + 2 ^ 32 * bits (s.reg ⟨b, i, o + 12⟩) 15 0 + n
  let s1 := (s.setFld ⟨⟨b, i, o + 8⟩, 31, 0⟩ v).setFld ⟨⟨b, i, o + 12⟩, 15, 0⟩ (v / 2 ^ 32)
  if 2 ^ 48 ≤ v then s1.setFld ⟨⟨b, i, o⟩, 30, 30⟩ 1 else s1

/-- An event of source `src` of a block, of size `n` (R517) (DEDUCED, log entry 35). -/
def count (b : Blk) (i src : Nat) (e : EvInfo) (n : Nat) (s : State) : State :=
  let (num, base) := cntGeom b
  (List.range num).foldl (fun a j =>
    let o := base + 0x10 * j
    let cfg := Tab.get 0 s.regs ⟨b, i, o⟩
    if cfg.getLsbD 31 && bits cfg 7 0 == src && passes s b i (s.reg ⟨b, i, o + 4⟩) e then bump b i o n a else a) s

/-- A lane event (R522); the class filter acts on sources 0x00-0x06 (DEDUCED, log entry 35). -/
def countLn (lane src cls n : Nat) (s : State) : State :=
  count .ln lane src { cls := cls, filt := decide (src ≤ 6) } n s

/-- A loom event about an object (R522). -/
def countLoom (src obj priv mkind master cls n : Nat) (s : State) : State :=
  count .loom 0 src { priv := priv, mkind := mkind, master := master, obj := obj, cls := cls } n s

/-- A 48-bit saturating count in a _LO, _HI pair with OVF in bit 31 (R128) grows by `d`. -/
def add48 (lo hi : RegId) (d : Nat) (s : State) : State :=
  let v := (s.reg lo).toNat + 2 ^ 32 * bits (s.reg hi) 15 0 + d
  let w := min (2 ^ 48 - 1) v
  let s1 := (s.setReg lo (BitVec.ofNat 32 w)).setFld ⟨hi, 15, 0⟩ (w / 2 ^ 32)
  if 2 ^ 48 ≤ v then s1.setFld ⟨hi, 31, 31⟩ 1 else s1

end Sys2Proof.Machine
end

