-- ==== Sys2Proof/Machine/Mem.lean ====
section
/-! DEFINITION. Byte memory as a list of cells with strictly rising addresses; an address not listed has never been
written. -/

namespace Sys2Proof.Machine

/-- The byte at an address, if one has been written (DESIGN CHOICE, log entry 32). -/
def memGet : List Host.Cell → Nat → Option Byte
  | [], _ => none
  | (a', b) :: r, a => if a' = a then some b else if a < a' then none else memGet r a

/-- The memory with a byte written. -/
def memPut : List Host.Cell → Nat → Byte → List Host.Cell
  | [], a, b => [(a, b)]
  | (a', b') :: r, a, b =>
    if a' = a then (a, b) :: r else if a < a' then (a, b) :: (a', b') :: r else (a', b') :: memPut r a b

/-- The memory with bytes written from an address on (DESIGN CHOICE, log entry 32). -/
def memWrite : List Host.Cell → Nat → List Byte → List Host.Cell
  | m, _, [] => m
  | m, a, b :: r => memWrite (memPut m a b) (a + 1) r

/-- Every address of the list is above `a`, and they rise strictly. -/
def memAbove : Nat → List Host.Cell → Bool
  | _, [] => true
  | a, (a', _) :: r => decide (a < a') && memAbove a' r

/-- The canonical form: addresses strictly rising (DESIGN CHOICE, log entry 32). -/
def memWf : List Host.Cell → Bool
  | [] => true
  | (a, _) :: r => memAbove a r

end Sys2Proof.Machine
end

