-- ==== Sys2Proof/Machine/Beam.lean ====
section
/-! DEFINITION. Beam memory: reads with their kinds, writes, merge buffer, error log, scrub and repair, BAR 2, training
and the port's BLK reset (R268-R270, R276-R294). -/

namespace Sys2Proof.Machine

def State.modBeam (s : State) (f : BeamSt → BeamSt) : State := { s with beam := f s.beam }

/-- Beam has trained (R270). -/
def State.trained (s : State) : Bool := (List.range 16).all fun k => s.on (fBm_STAT_TRAINED k)

/-- The beam port of an address (R268). -/
abbrev beamPort (a : Nat) : Nat := a / 4096 % 16

/-- The beam address of a line of port `k`, lines counted in port-offset order (R268, R290). -/
def lineAddr (k i : Nat) : Nat := i / 64 * 65536 + k * 4096 + i % 64 * 64

/-- Who makes a beam access: its source code in the error log (R294), and its attribution (R521); `cls` 4 is media, 8 control. -/
structure Who where
  src    : Nat
  priv   : Nat := 0
  mkind  : Nat := 0
  master : Nat := 0
  cls    : Nat := 8
  deriving DecidableEq, Repr, Inhabited

/-- The attributions of R521. -/
def whoIngress (fn : Nat) : Who := ⟨0, 1, 1, fn, 4⟩
def whoEgress (fn : Nat) : Who := ⟨1, 1, 1, fn, 4⟩
def whoShuttle (sh : Nat) : Who := ⟨0, if sh < 4 then 2 else 3, 2, sh, 4⟩
def whoDraft (ch : Nat) : Who := ⟨2, 1, 3, ch, 8⟩
def whoBar2 : Who := ⟨3, 1, 1, 0, 8⟩
def whoPort (src : Nat) : Who := { src := src }

/-! ## Words and their kinds (R276-R279, R291) -/

/-- A UE or POISON read (R277). -/
abbrev badKind (k : Nat) : Bool := decide (4 ≤ k)

/-- The bytes that a word's cells hold; an unwritten byte is what the DRAM settled to (R277) (DESIGN CHOICE, log entry 32). -/
def wordBytes (s : State) (w : Nat) : List Byte :=
  (List.range 8).map fun i => (memGet s.beam.mem (w + i)).getD (Config.rawByte (w + i) s.beam.epoch)

/-- The kind with which a word reads (R277). -/
def wordKind (s : State) (w : Nat) : Nat :=
  if (List.range 8).all (fun i => (memGet s.beam.mem (w + i)).isSome) then Tab.get 0 s.beam.ecc w
  else Config.rawKind w s.beam.epoch % 6

/-- The number of bits set below bit `n`. -/
def popCount (n m : Nat) : Nat := ((List.range n).filter (fun i => m.testBit i)).length

/-- The syndrome that `v` picks among those the code allows a kind (R276, R277): 0xFFFF is POISON's alone; one or two
flipped check bits give CHK's one or two bits, and no other error's syndrome has fewer than three. -/
def syndromeOf (kind v : Nat) : Nat :=
  if kind = 5 then 0xFFFF
  else if kind = 3 then Nat.lor (2 ^ (v % 16)) (2 ^ (v / 16 % 16))
  else
    let w := v % 65536
    if w = 0xFFFF then 0xFFFE else if popCount 16 w ≤ 2 then Nat.lor w 7 else w

/-- An error is recorded in the error log (R291) (DESIGN CHOICE, log entry 33). -/
def logBeam (addr kind src : Nat) (s : State) : State :=
  let lost (a : State) : State := raise_ fBmw_BEAM_EVENT_LOG_LOST (a.addSat fBmw_LOG_STAT_LOST)
  let put (l : List BeamErr) (a : State) : State :=
    (a.modBeam ({ · with log := l })).setFld fBmw_LOG_STAT_COUNT l.length
  let e : BeamErr := ⟨addr, kind, src, 0, syndromeOf kind (Config.syndrome addr kind s.free), tbSec s.tb, tbNs s.tb⟩
  let l := s.beam.log
  let s1 := s.tick
  if l.any (fun x => x.addr == addr && x.kind == kind) then
    put (l.map fun x => if x.addr = addr ∧ x.kind = kind then { x with rep := min 511 (x.rep + 1) } else x) s1
  else if l.length < 64 then put (l ++ [e]) s1
  else if badKind kind && l.any (fun x => !badKind x.kind) then
    put ((l.reverse.eraseP (fun x => !badKind x.kind)).reverse ++ [e]) (lost s1)
  else lost s1

/-- The counter of a kind (R277, R294). -/
def kindField (k kind : Nat) : FldId :=
  if kind = 1 then fBm_ECC_CNT0_CE1 k else if kind = 2 then fBm_ECC_CNT0_CE2 k else if kind = 3 then fBm_ECC_CNT1_CHK k
  else if kind = 4 then fBm_ECC_CNT1_UE k else fBm_ECC_CNT2_POISON k

/-- A word read that is not clean is counted, logged and raised (R277, R291, R294). -/
def noteKind (w kind src : Nat) (s : State) : State :=
  if kind = 0 then s
  else
    let s1 := logBeam w kind src (s.addSat (kindField (beamPort w) kind))
    if kind = 4 then raiseSlow fBmw_BEAM_EVENT_UE s1
    else if kind = 5 then raiseSlow fBmw_BEAM_EVENT_POISON s1 else s1

/-- A word is stored whole, clean or poisoned (R276). -/
def storeWord (w : Nat) (b : List Byte) (poisoned : Bool) (s : State) : State :=
  s.modBeam fun m => { m with mem := memWrite m.mem w b, ecc := if poisoned then Tab.set m.ecc w 5 else Tab.erase m.ecc w }

/-! ## Merge buffer (R281-R283) -/

/-- A partly present word of an entry is read, corrected, merged and written, as one operation (R283). -/
def mergeWord (e : MergeEnt) (i : Nat) (s : State) : State :=
  let w := e.line * 64 + 8 * i
  let got := (List.range 8).map fun j => Tab.find e.bytes (8 * i + j)
  if got.all (·.isNone) then s
  else if got.all (·.isSome) then storeWord w (got.map (·.getD 0)) false s
  else
    let kind := wordKind s w
    let old := wordBytes s w
    let b := (List.range 8).map fun j => (got.getD j none).getD (old.getD j 0)
    let s1 := noteKind w kind 6 (count .bm (beamPort w) 3 { filt := false } 1 s)
    storeWord w b (badKind kind) s1

/-- An entry flushes (R283). -/
def flushEntry (e : MergeEnt) (s : State) : State :=
  let s1 := s.modBeam fun m => { m with merge := m.merge.filter (·.line ≠ e.line) }
  (List.range 8).foldl (fun a i => mergeWord e i a) (count .bm (beamPort (e.line * 64)) 2 { filt := false } 1 s1)

/-- The entry of a line, if any, flushes (R282). -/
def flushLine (line : Nat) (s : State) : State :=
  match s.beam.merge.find? (·.line == line) with
  | some e => flushEntry e s
  | none => s

/-- Every entry of port `k` flushes, oldest first (R282, R288). -/
def flushPort (k : Nat) (s : State) : State :=
  (s.beam.merge.filter (fun e => beamPort (e.line * 64) == k)).foldl (fun a e => flushEntry e a) s

/-- MERGE_FLUSH: 1 µs has passed since the entry was allocated, or a new entry displaces it (R282, R283). -/
def execMergeFlush (k line : Nat) (s : State) : Host.Outcome State Fault Refusal :=
  .next (if beamPort (line * 64) = k then flushLine line s else s)

/-! ## Reads and writes -/

/-- A port's BLK reset ends, if it is in one: it returns to service, unless the power state or a self-test keeps it in self-refresh
(R289, R443, R501). -/
def endBeamReset (k : Nat) (s : State) : State :=
  if !s.beam.resets.contains k then s
  else
    let s1 := (s.setFld (fBm_CTL_SRST k) 0).modBeam fun m => { m with resets := m.resets.filter (· ≠ k) }
    if 2 ≤ s.fld fPwr_STATE_STATE ∨ s.testing (8 + k) then s1 else s1.setFld (fBm_STAT_SELF_REF k) 0

/-- The pieces of an access within one line each: address and length. -/
def pieces (a n : Nat) : List (Nat × Nat) :=
  if n = 0 then []
  else (List.range ((a + n - 1) / 64 - a / 64 + 1)).map fun i =>
    let lo := max a ((a / 64 + i) * 64)
    (lo, min (a + n) ((a / 64 + i + 1) * 64) - lo)

/-- What a beam read gives: the bytes, the worst kind met, and the state after it. -/
structure BeamRead where
  bytes : List Byte
  worst : Nat
  after : State

/-- A read within one line: it waits for a BLK reset of its port (R289) (DESIGN CHOICE, log entry 112), the line's merge entry flushes, each word is classified, a corrected word queues the line
for repair on a demand read (R277-R279, R282). -/
def readPiece (who : Who) (a n : Nat) (s : State) : BeamRead :=
  let line := a / 64
  let k := beamPort a
  let s1 := flushLine line (endBeamReset k s)
  let ws := (List.range ((a + n - 1) / 8 - a / 8 + 1)).map fun i => (a / 8 + i) * 8
  let bytes := (ws.flatMap (wordBytes s1)).drop (a % 8) |>.take n
  let kinds := ws.map fun w => (w, wordKind s1 w)
  let s2 := kinds.foldl (fun t wk => noteKind wk.1 wk.2 who.src t) s1
  let q := Tab.get [] s2.beam.repair k
  let s3 := if who.src ≤ 3 ∧ kinds.any (fun wk => 1 ≤ wk.2 && wk.2 ≤ 3) ∧ !q.contains line ∧ q.length < 16 then
      s2.modBeam fun m => { m with repair := Tab.set m.repair k (q ++ [line]) }
    else s2
  ⟨bytes, kinds.foldl (fun m wk => max m wk.2) 0,
   count .bm k 4 ⟨who.priv, who.mkind, who.master, 0, Nat.lor 1 who.cls, line * 64, true⟩ (Config.readLatency line s.up)
    (count .bm k 0 ⟨who.priv, who.mkind, who.master, 0, Nat.lor 1 who.cls, line * 64, true⟩ n s3)⟩

/-- A read of beam (R269, R277). -/
def beamRead (who : Who) (a n : Nat) (s : State) : BeamRead :=
  (pieces a n).foldl (fun r p =>
    let x := readPiece who p.1 p.2 r.after
    ⟨r.bytes ++ x.bytes, max r.worst x.worst, x.after⟩) ⟨[], 0, s⟩

/-- The bytes of part of a word go to the merge buffer; with 32 entries in use the oldest flushes first (R281, R282). -/
def mergeBytes (line : Nat) (b : List (Nat × Byte)) (s : State) : State :=
  if b.isEmpty then s
  else match s.beam.merge.find? (·.line == line) with
    | some _ => s.modBeam fun m => { m with merge := m.merge.map fun x =>
        if x.line = line then { x with bytes := b.foldl (fun t p => Tab.set t p.1 p.2) x.bytes } else x }
    | none =>
      let mine := s.beam.merge.filter (fun e => beamPort (e.line * 64) == beamPort (line * 64))
      let s1 := match mine with
        | e :: _ => if 32 ≤ mine.length then flushEntry e s else s
        | [] => s
      s1.modBeam fun m => { m with merge := m.merge ++ [⟨line, s.up, b.foldl (fun t p => Tab.set t p.1 p.2) []⟩] }

/-- A write within one line: it waits for a BLK reset of its port (R289) (DESIGN CHOICE, log entry 112); whole words go to the DRAM, or into the line's entry, which then flushes; other bytes go
to the merge buffer (R281, R282). -/
def writePiece (who : Who) (a : Nat) (b : List Byte) (s0 : State) : State :=
  let line := a / 64
  let k := beamPort a
  let s := endBeamReset k s0
  let cells := (List.range b.length).map fun i => (a % 64 + i, b.getD i 0)
  let whole (p : Nat × Byte) : Bool := decide (a % 64 ≤ p.1 / 8 * 8 ∧ p.1 / 8 * 8 + 8 ≤ a % 64 + b.length)
  let full := cells.filter whole
  let s1 := if full.isEmpty then s
    else if s.beam.merge.any (·.line == line) then flushLine line (mergeBytes line full s)
    else (full.filter (fun p => p.1 % 8 == 0)).foldl (fun t p =>
      storeWord (line * 64 + p.1) ((full.filter (fun q => q.1 / 8 == p.1 / 8)).map (·.2)) false t) s
  let s2 := mergeBytes line (cells.filter (fun p => !whole p)) s1
  count .bm k 1 ⟨who.priv, who.mkind, who.master, 0, Nat.lor 2 who.cls, line * 64, true⟩ b.length s2

/-- A write of beam (R269, R281). -/
def beamWrite (who : Who) (a : Nat) (b : List Byte) (s : State) : State :=
  (pieces a b.length).foldl (fun t p => writePiece who p.1 ((b.drop (p.1 - a)).take p.2) t) s

/-- A write of loom media covers whole words (R278): what a word holds beside the media stays as it is stored, and the word is clean
(DEDUCED, log entry 135). -/
def beamWriteWhole (who : Who) (a : Nat) (b : List Byte) (s : State) : State :=
  let e := a + b.length
  let s1 := if a % 8 = 0 then s else flushLine (a / 64) s
  let s2 := if e % 8 = 0 then s1 else flushLine (e / 64) s1
  beamWrite who (a / 8 * 8) ((wordBytes s2 (a / 8 * 8)).take (a % 8) ++ b ++
    (if e % 8 = 0 then [] else (wordBytes s2 (e / 8 * 8)).drop (e % 8))) s2

/-! ## Repair and scrub (R279, R280, R290) -/

/-- What upsets have left in the words of a line: by word of the line, its kind (R277); an uncorrectable word's data is
whatever the upset left. -/
def applyUpset (line : Nat) (upset : List (Nat × Nat)) (s : State) : State :=
  upset.foldl (fun a u =>
    let w := line * 64 + 8 * (u.1 % 8)
    let kind := u.2 % 6
    if kind = 0 ∨ (memGet a.beam.mem w).isNone then a
    else
      let b := if kind = 4 then (List.range 8).map (fun i => Config.rawByte (w + i) a.free) else wordBytes a w
      a.tick.modBeam fun m => { m with mem := memWrite m.mem w b, ecc := Tab.set m.ecc w kind }) s

/-- One step over a line: each correctable word is corrected and written back, the others stay (R280). -/
def stepLine (src line : Nat) (upset : List (Nat × Nat)) (s : State) : State :=
  let k := beamPort (line * 64)
  (List.range 8).foldl (fun a i =>
    let w := line * 64 + 8 * i
    let kind := wordKind a w
    let b := noteKind w kind src a
    if 1 ≤ kind ∧ kind ≤ 3 then (storeWord w (wordBytes a w) false b).addSat (fBm_ECC_CNT2_REPAIRED k) else b)
    (applyUpset line upset (flushLine line s))

/-- The port serves accesses: trained, not in self-refresh, a BLK reset or self-test. -/
def State.portServes (s : State) (k : Nat) : Bool :=
  decide (k < 16) && s.on (fBm_STAT_TRAINED k) && !s.on (fBm_STAT_SELF_REF k) && !s.beam.resets.contains k && !s.testing (8 + k)

/-- SCRUB_STEP (R290): the next line of the patrol; the last line ends the pass. -/
def execScrubStep (k : Nat) (upset : List (Nat × Nat)) (s : State) : Host.Outcome State Fault Refusal :=
  .next (
    if !s.portServes k || !s.on (fBm_SCRUB_CTL_EN k) then s
    else
      let i := Tab.get 0 s.beam.scrub k
      let s1 := count .bm k 6 { filt := false } 1 (stepLine 4 (lineAddr k i / 64) upset s)
      let i' := (i + 1) % 2 ^ 31
      let s2 := (s1.modBeam fun m => { m with scrub := Tab.set m.scrub k i' }).setFld (fBm_SCRUB_STAT_PROGRESS k) (i' / 2 ^ 23)
      if i' = 0 then raise_ fBmw_BEAM_EVENT_SCRUB_PASS (s2.incWrap (fBm_SCRUB_STAT_PASSES k)) else s2)

/-- The oldest line of a repair queue is repaired (R279, R280). -/
def repairOne (k : Nat) (upset : List (Nat × Nat)) (s : State) : State :=
  match Tab.get [] s.beam.repair k with
  | [] => s
  | l :: r => stepLine 5 l upset (s.modBeam fun m => { m with repair := Tab.set m.repair k r })

/-- REPAIR_STEP (R279). -/
def execRepairStep (k : Nat) (upset : List (Nat × Nat)) (s : State) : Host.Outcome State Fault Refusal :=
  .next (if s.portServes k then repairOne k upset s else s)

/-- Before self-refresh a port flushes its merge buffer and drains its repair queue (R288). -/
def enterSelfRefresh (k : Nat) (s : State) : State :=
  let s1 := flushPort k s
  ((Tab.get [] s1.beam.repair k).foldl (fun a _ => repairOne k [] a) s1).setFld (fBm_STAT_SELF_REF k) 1

/-! ## Training, refresh, BLK reset (R270, R286, R289, R294) -/

/-- BEAM_TRAIN_DONE (R270). -/
def execBeamTrainDone (k : Nat) (ok : Bool) (s : State) : Host.Outcome State Fault Refusal :=
  .next (
    if 16 ≤ k ∨ s.on (fBm_STAT_TRAINED k) ∨ s.on (fBm_STAT_FAILED k) ∨ s.dark then s
    else if ok then showPhase (s.setFld (fBm_STAT_TRAINED k) 1)
    else showPhase (raise_ fBmw_BEAM_EVENT_TRAIN_FAIL (s.setFld (fBm_STAT_FAILED k) 1)))

/-- REFRESH: one refresh command at the multiplier in use (R269, R286). -/
def execRefresh (k : Nat) (s : State) : Host.Outcome State Fault Refusal :=
  .next (if k < 16 ∧ s.on (fBm_STAT_TRAINED k) ∧ !s.on (fBm_STAT_SELF_REF k) then count .bm k 5 { filt := false } 1 s else s)

/-- A write of BMk.CTL: CNT_CLR clears the ECC counts, SRST starts a BLK reset (R289, R294). -/
def writeBmCtl (k : Nat) (v : W32) (s : State) : State :=
  match s.unavailable (rBm_CTL k) with
  | some st => rejectReg (rBm_CTL k) st s
  | none =>
    let s1 := if v.getLsbD 1 then s.clearRegs (fun r => r.blk == .bm && r.inst == k && 0x10 ≤ r.off && r.off ≤ 0x18) else s
    if v.getLsbD 0 && !s.beam.resets.contains k then
      let s2 := enterSelfRefresh k s1
      let s3 := s2.resetRegs (fun r => r.blk == .bm && r.inst == k && r.off != 0 && r.off != 8)
      (s3.setFld (fBm_CTL_SRST k) 1).modBeam fun m => { m with resets := k :: m.resets }
    else s1

/-- BM_SRST (R289). -/
def execBmSrst (k : Nat) (v : W32) (s : State) : Host.Outcome State Fault Refusal :=
  .next (hostAccess (fun s => if k < 16 then writeBmCtl k v s else s) s)

/-- BM_CNT_CLR (R294). -/
def execBmCntClr (k : Nat) (v : W32) (s : State) : Host.Outcome State Fault Refusal :=
  .next (hostAccess (fun s => if k < 16 then writeBmCtl k v s else s) s)

/-- BEAM_RESET_END: the port returns to service (R289). -/
def execBeamResetEnd (k : Nat) (s : State) : Host.Outcome State Fault Refusal := .next (endBeamReset k s)

/-- A write of BMk.SCRUB_CTL: setting EN starts the patrol at port offset 0 (R290, R294). -/
def writeScrubCtl (k : Nat) (v : W32) (s : State) : State :=
  let r := rBm_SCRUB_CTL k
  match firstFail [((s.unavailable r).isSome, (s.unavailable r).getD 0),
      (decide (bits v 4 0 < 1 ∨ 24 < bits v 4 0), eRange)] with
  | some st => rejectReg r st s
  | none =>
    let s1 := (s.setFld (fBm_SCRUB_CTL_EN k) (bits v 31 31)).setFld (fBm_SCRUB_CTL_PERIOD_H k) (bits v 4 0)
    if v.getLsbD 31 && !s.on (fBm_SCRUB_CTL_EN k) then
      (s1.modBeam fun m => { m with scrub := Tab.set m.scrub k 0 }).setFld (fBm_SCRUB_STAT_PROGRESS k) 0
    else s1

/-- A write of LOG_POP: the oldest entry of the error log goes (R292). -/
def writeLogPop (v : W32) (s : State) : State :=
  match s.unavailable rBmw_LOG_POP with
  | some st => rejectReg rBmw_LOG_POP st s
  | none => if v.getLsbD 0 then
      (s.modBeam fun m => { m with log := m.log.drop 1 }).setFld fBmw_LOG_STAT_COUNT (s.beam.log.length - 1)
    else s

/-- LOG_POP (R292). -/
def execLogPop (v : W32) (s : State) : Host.Outcome State Fault Refusal := .next (hostAccess (writeLogPop v) s)

/-! ## BAR 2 (R293) -/

/-- The beam address of a BAR 2 offset (R293). -/
def State.bar2Addr (s : State) (ofs : Nat) : Nat := (s.fld fBmw_BAR2_BASE_BASE * 2 ^ 30 + ofs) % 2 ^ 41

/-- Why a BAR 2 access of `len` bytes finds no beam: a port in self-test, or beam not trained (R293, R500) (DEDUCED, log entry 15). -/
def State.bar2Block (s : State) (ofs len : Nat) : Option Nat :=
  if (pieces (s.bar2Addr ofs) len).any (fun p => s.testing (8 + beamPort p.1)) then some eSelfTest
  else if s.trained then none else some eState

/-- BAR2_READ (R278, R293, R500) (DEDUCED, log entry 15; DESIGN CHOICE, log entry 81). -/
def execBar2Read (ofs len : Nat) (s : State) : Host.Outcome State Fault Refusal :=
  .next (hostAccess (fun s => if 2 ^ 30 ≤ ofs then unsupported s else
    match s.bar2Block ofs len with
    | none =>
      let r := beamRead whoBar2 (s.bar2Addr ofs) len s
      r.after.emit (.bar2Data r.bytes (badKind r.worst))
    | some st => (logReject 0 2 ofs st false s).emit (.bar2Data (List.replicate len 0xFF) false)) s)

/-- BAR2_WRITE (R281, R293, R500) (DEDUCED, log entry 15; DESIGN CHOICE, log entry 81). -/
def execBar2Write (ofs : Nat) (data : List Byte) (s : State) : Host.Outcome State Fault Refusal :=
  .next (hostAccess (fun s => if 2 ^ 30 ≤ ofs then unsupported s else
    match s.bar2Block ofs data.length with
    | none => beamWrite whoBar2 (s.bar2Addr ofs) data s
    | some st => rejectWrite 0 2 ofs st s) s)

end Sys2Proof.Machine
end

