-- ==== Sys2Proof/Machine/Bays.lean ====
section
/-! DEFINITION. Bays and bolts of beam (R271-R275). -/

namespace Sys2Proof.Machine

/-- The size of beam: 2 TiB (R268). -/
abbrev beamSize : Nat := 2 ^ 41

/-- The self-test bits of BM0-BM15, the targets of the bay and bolt commands (R370, R497). -/
abbrev bmTargets : List Nat := (List.range 16).map (· + 8)

/-- The bolt of an index; an unbound one where none is listed. -/
def State.bolt (s : State) (b : Nat) : Bolt := Tab.get {} s.beam.bolts b
def State.setBolt (s : State) (b : Nat) (v : Bolt) : State := s.modBeam fun m => { m with bolts := Tab.set m.bolts b v }
def State.modBolt (s : State) (b : Nat) (f : Bolt → Bolt) : State := s.setBolt b (f (s.bolt b))

/-- A bay is allocated, and its record (R271). -/
def State.bay (s : State) (b : Nat) : Option Bay := Tab.find s.beam.bays b

/-- A VF is enabled; the PF always is. -/
def State.fnEnabled (s : State) (f : Nat) : Bool := decide (f ≤ s.host.vfs)

/-- Two regions share a byte. -/
def overlap (a n b m : Nat) : Bool := decide (a < b + m ∧ b < a + n)

/-- A range of beam is free of bays. -/
def State.baysFree (s : State) (base size : Nat) : Bool :=
  s.beam.bays.all fun e => !overlap base size e.2.base e.2.size

/-- The lowest free base at which a bay fits: 0 or the end of a bay (R271). -/
def State.fitBase (s : State) (size : Nat) : Option Nat :=
  ((0 :: s.beam.bays.map (fun e => e.2.base + e.2.size)).filter
    (fun b => decide (b + size ≤ beamSize) && s.baysFree b size)).min?

/-- The lowest bay index not in use. -/
def State.freeBay (s : State) : Option Nat := (List.range 64).find? fun i => (s.bay i).isNone

/-- The base that BAY_ALLOC takes. -/
def bayBase (any : Bool) (size base : Nat) (s : State) : Option Nat := if any then s.fitBase size else some base

/-- BAY_ALLOC (R271, R378). -/
def execBayAlloc (h : Hdr) (owner : Nat) (any : Bool) (size base : Nat) (s : State) : Host.Outcome State Fault Refusal :=
  .next (command h (.bayAlloc h owner any size base) (s.gate h true bmTargets ++
      [(any && base != 0, eRange),
       (!s.trained, eState),
       (size == 0 || size % 2 ^ 24 != 0 || base % 2 ^ 24 != 0 || decide (beamSize < base + size), eRange),
       (!s.fnEnabled owner, eState),
       (!any && !s.baysFree base size, eState),
       (s.freeBay.isNone || (bayBase any size base s).isNone, eNoRes)])
    (fun s => match s.freeBay, bayBase any size base s with
      | some i, some b => complete h eOk (leBytes 2 i ++ leBytes 6 b)
          (s.modBeam fun m => { m with bays := Tab.set m.bays i ⟨owner, b, size⟩ })
      | _, _ => s) s)

/-- An open egress port has as its source a bolt last bound in bay `b` (R272). -/
def State.bayRead (s : State) (b : Nat) : Bool :=
  s.loom.esps.any fun e => e.2.state != 0 && (s.bolt e.2.bolt).ever && (s.bolt e.2.bolt).bay == b

/-- A bolt in bay `b` is bound (R272). -/
def State.bayBound (s : State) (b : Nat) : Bool := s.beam.bolts.any fun e => e.2.bound && e.2.bay == b

/-- BAY_FREE (R272). -/
def execBayFree (h : Hdr) (bay : Nat) (s : State) : Host.Outcome State Fault Refusal :=
  .next (command h (.bayFree h bay) (s.gate h true bmTargets ++
      [((s.bay bay).isNone || s.bayBound bay || s.bayRead bay, eState)])
    (fun s => complete h eOk [] (s.modBeam fun m => { m with bays := Tab.erase m.bays bay })) s)

/-- The beam region of a bolt: base and length (R273). -/
def Bolt.region (b : Bolt) : Nat × Nat := (b.base + b.ofs, b.size * b.slots)

/-- The regions that a bolt holds: its own while bound, and that of a bind accepted (R274). -/
def Bolt.holds (b : Bolt) : List (Nat × Nat) :=
  (if b.bound then [b.region] else []) ++ (match b.binding with | some x => [(x.base + x.ofs, x.size * x.slots)] | none => [])

/-- The region overlaps that of a bolt whose bind has been accepted, completed or not: the command's own bolt counts too
(R274). -/
def State.boltOverlap (s : State) (a n : Nat) : Bool :=
  s.beam.bolts.any fun e => e.2.holds.any fun r => overlap a n r.1 r.2

/-- A parameter of BOLT_SET lies outside its range (R273, R274). -/
def boltParams (bolt bay kind : Nat) (bind : Bool) (ofs size slots : Nat) : Bool :=
  decide (2047 < bolt) ||
  (if bind then
    decide (63 < bay) || decide (1 < kind) || ofs % 64 != 0 || size % 64 != 0 || decide (size < 64 ∨ 2 ^ 30 < size)
      || decide (slots < 2 ∨ 65535 < slots)
  else bay != 0 || kind != 0 || ofs != 0 || size != 0 || slots != 0)

/-- The bay that BOLT_SET is about: the one named, or the one that the bolt is bound in. -/
def State.boltBay (s : State) (bolt bay : Nat) (bind : Bool) : Nat := if bind then bay else (s.bolt bolt).bay

/-- The conditions of BOLT_SET after its issuer and SYS.READY (R274) (DEDUCED, log entry 34). -/
def boltChecks (h : Hdr) (bolt bay kind : Nat) (bind : Bool) (ofs size slots : Nat) (s : State) : List (Bool × Nat) :=
  let b := s.bolt bolt
  let by_ := if bind || b.bound then s.bay (s.boltBay bolt bay bind) else none
  let fn := s.ownerOf h.qp
  let base := (by_.map (·.base)).getD 0
  [(!s.trained, eState),
   (boltParams bolt bay kind bind ofs size slots, eRange),
   (bind && by_.isNone, eState),
   (bind && decide ((by_.map (·.size)).getD 0 < ofs + size * slots), eRange),
   (fn != 0 && by_.isSome && (by_.map (·.owner)).getD 0 != fn, ePriv),
   (bind == b.bound, eState),
   (!bind && b.writer.isSome, eState),
   (bind && s.boltOverlap (base + ofs) (size * slots), eState),
   (b.binding.isSome, eBusy)]

/-- BOLT_SET (R274, R275): an unbind completes at once; a bind holds its region and completes once its slot headers are
written (DEDUCED, log entry 34). -/
def execBoltSet (h : Hdr) (bolt bay kind : Nat) (bind : Bool) (ofs slotSize slots : Nat) (s : State) :
    Host.Outcome State Fault Refusal :=
  .next (command h (.boltSet h bolt bay kind bind ofs slotSize slots) (s.gate h false bmTargets ++ boltChecks h bolt bay kind bind ofs slotSize slots s)
    (fun s =>
      if bind then
        let x : Binding := ⟨h, bay, kind, ((s.bay bay).map (·.base)).getD 0, ofs, slotSize, slots⟩
        s.modBolt bolt ({ · with binding := some x })
      else complete h eOk [] (s.modBolt bolt ({ · with bound := false }))) s)

/-- The header of an empty slot (R275): extended timestamp all ones, the rest 0. -/
def emptyHeader : List Byte := List.replicate 6 0xFF ++ List.replicate 58 0

/-- BOLT_BIND_DONE: every slot header has been written and the bind completes (R275) (DEDUCED, log entry 34). -/
def execBoltBindDone (bolt : Nat) (s : State) : Host.Outcome State Fault Refusal :=
  .next (
    let b := s.bolt bolt
    match b.binding with
    | none => s
    | some x =>
      let s1 := (List.range x.slots).foldl
        (fun a i => beamWrite (whoIngress (s.ownerOf x.hdr.qp)) (x.base + x.ofs + i * x.size) emptyHeader a) s
      complete x.hdr eOk [] (s1.setBolt bolt { bound := true, bay := x.bay, ever := true, kind := x.kind, base := x.base
                                               ofs := x.ofs, size := x.size, slots := x.slots }))

end Sys2Proof.Machine
end

