-- ==== Sys2Proof/Machine/Bias.lean ====
section
/-! DEFINITION. Bias DACs, heater PWMs and module management (R425-R439). -/

namespace Sys2Proof.Machine

def State.modBias (s : State) (f : BiasSt → BiasSt) : State := { s with bias := f s.bias }

/-- The bits set in a mask below `n`. -/
def maskBits (n m : Nat) : List Nat := (List.range n).filter fun i => m.testBit i

/-! ## Triggers of the monitor's sequencer (R416) -/

def State.modMon (s : State) (f : MonSt → MonSt) : State := { s with mon := f s.mon }

/-- The trigger is the one that SEQ_CTL selects, and a heater's gives triggers (R416). -/
def State.trigOn (s : State) (t : MonTrig) : Bool :=
  let trig := s.fld fMon_SEQ_CTL_TRIG
  let sel := s.fld fMon_SEQ_CTL_SEL
  let heats (n : Nat) : Bool := n == sel && (s.reg rBias_HTR_EN).getLsbD n &&
    !(s.reg rBias_TRIP).getLsbD (16 + n) &&
    (match Tab.find s.bias.htr n with | some (d, p) => decide (0 < d ∧ d < p) | none => false)
  match t with
  | .timer => trig == 0
  | .stroke k => trig == 1 && sel % 4 == k
  | .load g => trig == 2 && sel % 4 == g
  | .htrRise n => trig == 3 && heats n
  | .htrFall n => trig == 4 && heats n

/-- `n` D_MON cycles of 12.5 ns. -/
def monCycles (n : Nat) : Nat := n * 25 * nsU / 2

/-- A trigger of the sequencer: its delay begins, with the inputs enabled now (R415, R416). -/
def monTrigger (t : MonTrig) (s : State) : State :=
  if s.on fMon_SEQ_CTL_EN && s.trigOn t then
    s.modMon fun m => { m with trigs := m.trigs ++ [(t, s.reg rMon_SEQ_MASK, s.up + monCycles (s.fld fMon_SEQ_CTL_DELAY))] }
  else s

/-- The ball of a heater is high: it is enabled, not forced, and DUTY of its period has not passed (R433). -/
def State.htrHigh (s : State) (n : Nat) : Bool :=
  match Tab.find s.bias.htr n with
  | some (d, p) => (s.reg rBias_HTR_EN).getLsbD n && !(s.reg rBias_TRIP).getLsbD (16 + n) &&
      (decide (p ≤ d) || decide (s.up < Tab.get 0 s.bias.htrAt n + monCycles d))
  | none => false

/-! ## Bias channels (R425-R432) -/

/-- The output of a span and a code, or the span's safe value (R426): µA on BIAS0-BIAS7, µV on the others. -/
def biasLevel (n span : Nat) (code : Option Nat) : Rat :=
  if n < 8 then 10000 * (code.getD 0 : Rat) / 16384
  else if span = 0 then 1250000 * (code.getD 0 : Rat) / 16384
  else if span = 1 then 2500000 * (code.getD 0 : Rat) / 16384
  else (Config.vcmBias : Rat) + 2500000 * ((code.getD 8192 : Rat) - 8192) / 16384

/-- A bias output moves (R426). -/
def biasOut (n span : Nat) (code : Option Nat) : Out := .bias n span code (biasLevel n span code)

/-- The group of a channel (R428). -/
def State.biasGroup (s : State) (n : Nat) : Nat := s.fld (fBias_CFG_GROUP n)

/-- The channels of a group. -/
def State.groupChannels (s : State) (g : Nat) : List Nat := (List.range 16).filter fun n => s.biasGroup n == g

/-- What a channel drives while it is not forced: its active code, or the safe value while EN = 0 (R426, R427). -/
def State.biasCode (s : State) (n : Nat) : Option Nat :=
  if s.actFld (fBias_CODE_EN n) = 1 then some (s.actFld (fBias_CODE_CODE n)) else none

/-- BIAS.TRIP's bit of a channel. -/
def State.biasTripped (s : State) (n : Nat) : Bool := (s.reg rBias_TRIP).getLsbD n

/-- A hand-over moves a channel's output: through the safe values where SPAN changes, and to the safe value while it is
forced (R425, R430) (DEDUCED, log entry 58). -/
def driveBias (n old : Nat) (s : State) : State :=
  let span := s.actFld (fBias_CODE_SPAN n)
  let s1 := if span = old then s else (s.emit (biasOut n old none)).emit (biasOut n span none)
  if s.biasTripped n then s1
  else (s1.modBias fun b => { b with held := b.held.filter (· ≠ n) }).emit (biasOut n span (s.biasCode n))

/-- The active codes have stood since they were last summed (R472). -/
def sumCodes (s : State) : State :=
  { s with thm := { s.thm with
      codeSum := (List.range 8).foldl (fun t n =>
        Tab.set t n (Tab.get 0 t n + s.actFld (fBias_CODE_CODE n) * (s.up - s.thm.codeAt))) s.thm.codeSum
      codeAt := s.up } }

/-- The mean code of BIASn since the previous plan, by time; the present code where none has passed (R472) (DEDUCED, log entry 59). -/
def State.meanCode (s : State) (n : Nat) : Rat :=
  let t := (sumCodes s).thm
  if s.up = t.planAt then (s.actFld (fBias_CODE_CODE n) : Rat)
  else ((Tab.get 0 t.codeSum n : Nat) : Rat) / ((s.up - t.planAt : Nat) : Rat)

/-- A hand-over of a group: with ARM set the shadow copies become active; LOAD_SEQ advances either way (R6, R428). -/
def biasHandover (g : Nat) (s : State) : State :=
  let armed := s.on (fBias_GRP_ARM g)
  let chans := s.groupChannels g
  let s1 := if armed then { sumCodes s with act := chans.foldl (fun t n => Tab.set t (rBias_CODE n) (s.reg (rBias_CODE n))) s.act } else s
  let s2 := monTrigger (.load g) ((s1.setFld (fBias_GRP_ARM g) 0).incWrap (fBias_GRP_LOAD_SEQ g))
  chans.foldl (fun a n =>
    if armed || a.bias.held.contains n then driveBias n (s.actFld (fBias_CODE_SPAN n)) a else a) s2

/-- BIAS_HANDOVER: the first D_MON cycle after ARM is set, with SRC = 0 (R428). -/
def execBiasHandover (g : Nat) (s : State) : Host.Outcome State Fault Refusal :=
  .next (if g < 4 ∧ s.on (fBias_GRP_ARM g) ∧ s.fld (fBias_GRP_SRC g) = 0 then biasHandover g s else s)

/-- BIAS_LOAD_EDGE: the edge is a hand-over of every group with SRC = 1, which moves the armed ones (R6, R428). -/
def execBiasLoadEdge (s : State) : Host.Outcome State Fault Refusal :=
  .next ((List.range 4).foldl (fun a g => if a.fld (fBias_GRP_SRC g) = 1 then biasHandover g a else a) s)

/-- A stroke of STKk hands over the groups with SRC = 2 that follow it (R428). -/
def biasStroke (k : Nat) (s : State) : State :=
  (List.range 4).foldl (fun a g =>
    if a.fld (fBias_GRP_SRC g) = 2 ∧ a.fld (fBias_GRP_STK g) = k then biasHandover g a else a) s

/-- A channel of the group holds a SPAN in its shadow that R429 forbids. -/
def State.spanBad (s : State) (g : Nat) : Bool :=
  (s.groupChannels g).any fun n => s.fld (fBias_CODE_SPAN n) == 3 || (decide (n < 8) && s.fld (fBias_CODE_SPAN n) != 0)

/-- A write of BIAS.GRPg (R8, R428, R429). -/
def writeGrp (g : Nat) (v : W32) (s : State) : State :=
  match firstFail [(bits v 25 24 == 3 || (v.getLsbD 31 && !s.on (fBias_GRP_ARM g) && s.spanBad g), eRange)] with
  | some st => rejectReg (rBias_GRP g) st s
  | none =>
    let s1 := (s.setFld (fBias_GRP_SRC g) (bits v 25 24)).setFld (fBias_GRP_STK g) (bits v 17 16)
    if v.getLsbD 31 then s1.setFld (fBias_GRP_ARM g) 1 else s1

/-- BIAS_ARM (R428, R429). -/
def execBiasArm (g : Nat) (v : W32) (s : State) : Host.Outcome State Fault Refusal :=
  .next (aonAccess (fun s => if g < 4 then writeGrp g v s else s) s)

/-- A heater's ball (DEDUCED, log entry 58). -/
def htrPin (n : Nat) (high : Bool) : Out := .pin ("HTR" ++ toString n) (some high)

/-- Outputs are forced: bias channels safe, heaters low, which is a falling edge of one that is high (R416), and their TRIP bits set (R425,
R432). -/
def forceSafe (biases heaters : Nat) (s : State) : State :=
  let s0 := (maskBits 8 heaters).foldl (fun a n => if a.htrHigh n then monTrigger (.htrFall n) a else a) s
  let s1 := (s0.setFld fBias_TRIP_BIAS (Nat.lor (s.fld fBias_TRIP_BIAS) biases)).setFld fBias_TRIP_HTR
    (Nat.lor (s.fld fBias_TRIP_HTR) heaters)
  let s2 := (maskBits 16 biases).foldl (fun a n =>
    (a.emit (biasOut n (a.actFld (fBias_CODE_SPAN n)) none)).modBias fun b =>
      { b with held := if b.held.contains n then b.held else n :: b.held }) s1
  let s3 := (maskBits 8 heaters).foldl (fun a n => (a.emit (htrPin n false)).modBias fun b =>
    { b with htr := match Tab.find b.htr n with | some (_, p) => Tab.set b.htr n (0, p) | none => b.htr }) s2
  if biases = 0 ∧ heaters = 0 then s3 else raise_ fBias_EVENT_TRIP_ACT s3

/-- BIAS_FAULT: an open or headroom condition has stood, or been absent, for 5 µs (R432). A pin is not open with a code
below 64. -/
def execBiasFault (n : Nat) (headroom present : Bool) (s : State) : Host.Outcome State Fault Refusal :=
  .next (
    if 8 ≤ n then s
    else
      let i := if headroom then 8 + n else n
      let f : FldId := ⟨rBias_FAULT, i, i⟩
      if !present then s.setFld f 0
      else if s.on f || (!headroom && decide (s.actFld (fBias_CODE_CODE n) < 64)) then s
      else
        let s1 := raise_ fBias_EVENT_COMPL (s.setFld f 1)
        if s.on (fBias_CFG_FAULT_OFF n) then forceSafe (2 ^ n) 0 s1 else s1)

/-! ## Heaters (R433) -/

/-- A period of heater `n` starts: DUTY and PERIOD come into use together; a tripped heater stays low (R425, R433); its output rises unless
it was high to the end of the period before (R416) (DEDUCED, log entry 58). -/
def htrStart (n : Nat) (s : State) : State :=
  let duty := s.fld (fBias_HTR_DUTY n)
  let s1 := s.modBias fun b => { b with htr := Tab.set b.htr n (duty, s.fld (fBias_HTR_PERIOD n)), htrAt := Tab.set b.htrAt n s.up }
  let wasHigh := (Tab.find s.bias.htr n).any fun x => decide (x.2 ≤ x.1)
  let period := s.fld (fBias_HTR_PERIOD n)
  let tripped := (s.reg rBias_TRIP).getLsbD (16 + n)
  let s2 := s1.emit (.heater n (if tripped then 0 else min duty period) period)
  if 0 < duty ∧ !tripped ∧ !wasHigh then monTrigger (.htrRise n) s2 else s2

/-- HTR_PERIOD: an enabled heater's period starts (R433). -/
def execHtrPeriod (n : Nat) (s : State) : Host.Outcome State Fault Refusal :=
  .next (if n < 8 ∧ (s.reg rBias_HTR_EN).getLsbD n then htrStart n s else s)

/-- A write of BIAS.HTR_EN: a bit that sets starts the first period, one that clears drives the output low (R433). -/
def writeHtrEn (v : W32) (s : State) : State :=
  let was := s.reg rBias_HTR_EN
  (List.range 8).foldl (fun a n =>
    if v.getLsbD n && !was.getLsbD n then htrStart n a
    else if !v.getLsbD n && was.getLsbD n then
      (a.emit (htrPin n false)).modBias fun b => { b with htr := Tab.erase b.htr n }
    else a) (s.setFld fBias_HTR_EN_EN (bits v 7 0))

/-- HTR_ENABLE (R433). -/
def execHtrEnable (v : W32) (s : State) : Host.Outcome State Fault Refusal := .next (aonAccess (fun s => writeHtrEn v s) s)

/-- BIAS_SRST: every output safe, every heater low, every BIAS register reset (R437). -/
def writeBiasCtl (v : W32) (s : State) : State :=
  if v.getLsbD 0 then
    let s1 := (List.range 16).foldl (fun a n =>
      let span := a.actFld (fBias_CODE_SPAN n)
      let b := a.emit (biasOut n span none)
      if span = 0 then b else b.emit (biasOut n 0 none)) s
    let s2 := (List.range 8).foldl (fun a n => a.emit (htrPin n false)) s1
    (((sumCodes s2).resetRegs (fun r => r.blk == .bias)).resetAct (fun r => r.blk == .bias)).modBias fun b => { modInt := b.modInt }
  else s

/-- BIAS_SRST (R437). -/
def execBiasSrst (v : W32) (s : State) : Host.Outcome State Fault Refusal := .next (aonAccess (fun s => writeBiasCtl v s) s)

/-! ## Module management (R434-R436) -/

/-- The bytes of a master's buffer (R434). -/
def State.mgtBytes (s : State) (n : Nat) : List Byte := (List.range 32).flatMap fun j => leBytes 4 (s.reg (rMgt_BUF n j)).toNat

/-- Bytes put into a master's buffer from byte 0 on. -/
def State.putMgt (s : State) (n : Nat) (l : List Byte) : State :=
  let b := l ++ (s.mgtBytes n).drop l.length
  (List.range 32).foldl (fun a j => a.setReg (rMgt_BUF n j) (BitVec.ofNat 32 (field b (4 * j) 4))) s

/-- The transaction that a control word and the buffer's bytes ask for (R434). -/
def mgtSteps (v : W32) (data : List Byte) : List TwoWire :=
  let address (read : Bool) : List TwoWire := [.start, .send (BitVec.ofNat 8 (2 * bits v 22 16 + if read then 1 else 0))]
  let reg : TwoWire := .send (BitVec.ofNat 8 (bits v 15 8))
  let count := bits v 7 0
  let receives : List TwoWire := (List.range count).map fun j => .receive (decide (j + 1 < count))
  match bits v 30 29 with
  | 0 => address false ++ reg :: (data.take count).map .send ++ [.stop]
  | 1 => address false ++ reg :: address true ++ receives ++ [.stop]
  | _ => address true ++ receives ++ [.stop]

/-- A write of MGTn_CTL; GO starts a transaction (R434, R435). -/
def writeMgt (n : Nat) (v : W32) (s : State) : State :=
  let go := v.getLsbD 31
  match firstFail [(go && s.on (fMgt_STAT_BUSY n), eBusy),
      (go && (decide (bits v 7 0 < 1 ∨ 128 < bits v 7 0) || bits v 30 29 == 3 || bits v 28 27 == 3), eRange)] with
  | some st => rejectReg (rMgt_CTL n) st s
  | none =>
    let s1 := s.setReg (rMgt_CTL n) (v &&& 0x787FFFFF#32)
    if go then ((s1.setFld (fMgt_STAT_BUSY n) 1).modMon fun m => { m with mgt := Tab.set m.mgt n v }).emit
      (.mgt n (bits v 28 27) (mgtSteps v (s.mgtBytes n)))
    else s1

/-- MGT_GO (R434). -/
def execMgtGo (n : Nat) (v : W32) (s : State) : Host.Outcome State Fault Refusal :=
  .next (aonAccess (fun s => if n < 8 then writeMgt n v s else s) s)

/-- A transaction ends (R435). -/
def mgtEnd (n status done : Nat) (s : State) : State :=
  let s1 := (((s.setFld (fMgt_STAT_BUSY n) 0).setFld (fMgt_STAT_STATUS n) status).setFld (fMgt_STAT_DONE_COUNT n) done).modMon
    fun m => { m with mgt := Tab.erase m.mgt n }
  raise_ fMon_EVENT_MGT_DONE (s1.setFld fMon_MGT_CTL_DONE (Nat.lor (s1.fld fMon_MGT_CTL_DONE) (2 ^ n)))

/-- MGT_DONE (R434, R435): `done` bytes acknowledged or received, and the bytes that a read brought. All are when every byte
is transferred; a read whose address is not acknowledged brings none. -/
def execMgtDone (n : Nat) (acked stuck : Bool) (done : Nat) (data : List Byte) (s : State) : Host.Outcome State Fault Refusal :=
  .next (
    if 8 ≤ n ∨ !s.on (fMgt_STAT_BUSY n) then s
    else
      let ctl := Tab.get (s.reg (rMgt_CTL n)) s.mon.mgt n
      let count := bits ctl 7 0
      let write := bits ctl 30 29 == 0
      let got := if stuck then min done count else if acked then count else if write then min done (count - 1) else 0
      let s0 := if acked || stuck then s else s.emit (.mgt n (bits ctl 28 27) [.stop])
      let s1 := if write then s0 else s0.putMgt n (padTo got (data.take got))
      mgtEnd n (if stuck then eTimeout else if acked then eOk else eBus) got s1)

/-- MOD_INT: the level of MOD_INT_N, which MGT_CTL.INT shows; a falling edge raises MOD_INT (R436). -/
def execModInt (low : Bool) (s : State) : Host.Outcome State Fault Refusal :=
  let s1 := s.modBias ({ · with modInt := low })
  .next (if low && !s.bias.modInt && !s.dark then wake 5 (raise_ fMon_EVENT_MOD_INT s1) else s1)

/-- A write of MON.MGT_CTL: RST_REL drives MOD_RST_N, DONE bits clear (R436, R438). -/
def writeMgtCtl (v : W32) (s : State) : State :=
  let s1 := s.setFld fMon_MGT_CTL_DONE (Nat.land (s.fld fMon_MGT_CTL_DONE) (255 - bits v 7 0))
  (s1.setFld fMon_MGT_CTL_RST_REL (bits v 31 31)).emit (.pin "MOD_RST_N" (some (v.getLsbD 31)))

end Sys2Proof.Machine
end

