-- ==== Sys2Proof/Machine/Crc.lean ====
section
/-! DEFINITION. The cyclic redundancy codes of the check-value units and of the cox links (R163, the polynomial table
of *Drafts and check-value units*). -/

namespace Sys2Proof.Machine

/-- A code: width, polynomial, initial value, whether input and output are reflected, final XOR. -/
structure CrcPoly where
  w    : Nat
  poly : Nat
  init : Nat
  refl : Bool
  xor  : Nat
  deriving DecidableEq, Repr, Inhabited

/-- The codes that POLY 0 to 4 select. -/
def crcPolys : List CrcPoly :=
  [⟨32, 0x04C11DB7, 0xFFFFFFFF, true, 0xFFFFFFFF⟩, ⟨32, 0x1EDC6F41, 0xFFFFFFFF, true, 0xFFFFFFFF⟩,
   ⟨16, 0x1021, 0xFFFF, false, 0⟩, ⟨16, 0x8BB7, 0, false, 0⟩, ⟨8, 0x07, 0, false, 0⟩]

/-- The low `n` bits of a number in reverse order. -/
def reflect (n v : Nat) : Nat := (List.range n).foldl (fun a i => 2 * a + v / 2 ^ i % 2) 0

/-- One bit shifts out at the top. -/
def crcShift (p : CrcPoly) (c : Nat) : Nat :=
  if 2 ^ (p.w - 1) ≤ c then Nat.xor (c * 2 % 2 ^ p.w) p.poly else c * 2

/-- One byte enters. -/
def crcByte (p : CrcPoly) (c : Nat) (b : Byte) : Nat :=
  let x := if p.refl then reflect 8 b.toNat else b.toNat
  (List.range 8).foldl (fun a _ => crcShift p a) (Nat.xor c (x * 2 ^ (p.w - 8)))

/-- The register after bytes. -/
def crcFeed (p : CrcPoly) (c : Nat) (l : List Byte) : Nat := l.foldl (crcByte p) c

/-- The value that a register spells. -/
def crcOut (p : CrcPoly) (c : Nat) : Nat := Nat.xor (if p.refl then reflect p.w c else c) p.xor

/-- The code of bytes. -/
def crc (p : CrcPoly) (l : List Byte) : Nat := crcOut p (crcFeed p p.init l)

/-- POLY 2, the code of crew frames, and POLY 4, the code of markers and beacons. -/
def crc16 (l : List Byte) : Nat := crc ⟨16, 0x1021, 0xFFFF, false, 0⟩ l
def crc8 (l : List Byte) : Nat := crc ⟨8, 0x07, 0, false, 0⟩ l

end Sys2Proof.Machine
end

