-- ==== Sys2Proof/Machine/Check.lean ====
section
/-! DEFINITION. The check-value channels (R406-R413). -/

namespace Sys2Proof.Machine

/-- The code of channel `n` (R406). -/
def State.ckPoly (s : State) (n : Nat) : CrcPoly := crcPolys.getD (s.fld (fCk_CTL_POLY n)) default

/-- A channel's register and its count; at Init where nothing has been fed. -/
def State.ckCh (s : State) (n : Nat) : CkCh := Tab.get ⟨(s.ckPoly n).init, 0⟩ s.ck n

/-- The channel restarts at its Init value (R408, R410). -/
def ckRestart (n : Nat) (s : State) : State := { s with ck := Tab.set s.ck n ⟨(s.ckPoly n).init, 0⟩ }

/-- Bytes enter the channel (R408, R410). -/
def ckFeed (n : Nat) (l : List Byte) (s : State) : State :=
  let c := s.ckCh n
  { s with ck := Tab.set s.ck n ⟨crcFeed (s.ckPoly n) c.crc l, c.fed + l.length⟩ }

/-- The check value now. -/
def State.ckValue (s : State) (n : Nat) : Nat := crcOut (s.ckPoly n) (s.ckCh n).crc

/-- The check value as it is appended (R406). -/
def State.ckBytes (s : State) (n : Nat) : List Byte :=
  let p := s.ckPoly n
  if p.refl then leBytes (p.w / 8) (s.ckValue n) else beBytes (p.w / 8) (s.ckValue n)

/-- A result becomes ready in RES_STAT (R409, R410). -/
def ckResult (n : Nat) (s : State) : State :=
  ((s.setFld (fCk_RES_STAT_COUNT n) (min (2 ^ 30 - 1) (s.ckCh n).fed)).setReg (rCk_RES_VAL n)
    (BitVec.ofNat 32 (s.ckValue n))).resultReady (rCk_RES_STAT n)

/-- The channel that snoops draft channel `d` (R407, R408). -/
def State.snooper (s : State) (d : Nat) : Option Nat :=
  (List.range 16).find? fun n => s.on (fCk_CTL_EN n) && s.fld (fCk_CTL_SRC n) == 1 && s.fld (fCk_CTL_DC n) == d

/-- CK14 and CK15 serve their links while CXn_CTL.EN = 1 (R164). -/
def State.ckServes (s : State) (n : Nat) : Bool := decide (n = 14 ∨ n = 15) && s.on (fCx_CTL_EN (n - 14))

/-- A check channel that serves an enabled link reads SRC = 2 (R164, R413). -/
def showLinkCks (s : State) : State :=
  [0, 1].foldl (fun a n => if a.on (fCx_CTL_EN n) then a.setFld (fCk_CTL_SRC (14 + n)) 2 else a) s

/-- A draft channel runs: states 1 and 2 of R412. -/
def State.dcRuns (s : State) (d : Nat) : Bool :=
  s.fld (fDrf_DC_STAT_STATE d) == 1 || s.fld (fDrf_DC_STAT_STATE d) == 2

/-- What rejects a write of CKnn.CTL (R164, R406, R407). -/
def ckCtlCheck (n : Nat) (v : W32) (s : State) : Option Nat :=
  let sets := v.getLsbD 31 && !s.on (fCk_CTL_EN n)
  let edits := s.on (fCk_CTL_EN n)
    && decide (bits v 29 29 ≠ s.fld (fCk_CTL_STOP n) ∨ bits v 12 8 ≠ s.fld (fCk_CTL_DC n)
      ∨ bits v 5 4 ≠ s.fld (fCk_CTL_SRC n) ∨ bits v 2 0 ≠ s.fld (fCk_CTL_POLY n))
  let other := (List.range 16).any fun m => m != n && s.on (fCk_CTL_EN m) && s.fld (fCk_CTL_SRC m) == 1
    && s.fld (fCk_CTL_DC m) == bits v 12 8
  firstFail [((s.unavailable (rCk_CTL n)).isSome, eSelfTest),
    ((sets || edits) && bits v 5 4 == 1 && s.dcRuns (bits v 12 8), eBusy),
    (s.ckServes n || ((sets || edits) && bits v 5 4 == 1 && other), eState),
    (decide (5 ≤ bits v 2 0 ∨ 2 ≤ bits v 5 4), eRange)]

/-- A write of CKnn.CTL (R407, R409, R410) (DEDUCED, log entry 55). -/
def writeCkCtl (n : Nat) (v : W32) (s : State) : State :=
  match ckCtlCheck n v s with
  | some st => rejectReg (rCk_CTL n) st s
  | none =>
    let was := s.on (fCk_CTL_EN n)
    let poly := s.fld (fCk_CTL_POLY n)
    let s1 := s.setReg (rCk_CTL n) (v &&& 0xA0001F37#32)
    let s2 := if (v.getLsbD 31 && !was) || bits v 2 0 ≠ poly then ckRestart n s1 else s1
    let s3 := if v.getLsbD 31 && !was then s2.setReg (rCk_CNT n) 0 else s2
    if v.getLsbD 30 then ckRestart n (ckResult n s3) else s3

/-- CK_ENABLE: a write of CKnn.CTL that sets EN (R407). -/
def execCkEnable (n : Nat) (v : W32) (s : State) : Host.Outcome State Fault Refusal :=
  .next (hostAccess (fun s => if n < 16 then writeCkCtl n v s else s) s)

/-- CK_FINAL: the check value becomes ready and the channel restarts (R410). -/
def execCkFinal (n : Nat) (v : W32) (s : State) : Host.Outcome State Fault Refusal :=
  .next (hostAccess (fun s => if n < 16 then writeCkCtl n v s else s) s)

/-- A channel takes no host data: EN = 0, SRC ≠ 0, or it serves a link (R164, R410). -/
def State.ckShut (s : State) (n : Nat) : Bool := !s.on (fCk_CTL_EN n) || s.fld (fCk_CTL_SRC n) != 0 || s.ckServes n

/-- A write of CKnn.DATA feeds its four bytes (R410). -/
def writeCkData (n : Nat) (v : W32) (s : State) : State :=
  match firstFail [((s.unavailable (rCk_DATA n)).isSome, eSelfTest), (s.ckShut n, eState)] with
  | some st => rejectReg (rCk_DATA n) st s
  | none => ckFeed n (leBytes 4 v.toNat) s

/-- CK_DATA (R410). -/
def execCkData (n : Nat) (v : W32) (s : State) : Host.Outcome State Fault Refusal :=
  .next (hostAccess (fun s => if n < 16 then writeCkData n v s else s) s)

/-- A write of CKnn.DATA_TAIL feeds COUNT bytes (R410, R413). -/
def writeCkTail (n : Nat) (v : W32) (s : State) : State :=
  match firstFail [((s.unavailable (rCk_DATA_TAIL n)).isSome, eSelfTest), (s.ckShut n, eState), (bits v 25 24 == 0, eRange)] with
  | some st => rejectReg (rCk_DATA_TAIL n) st s
  | none => ckFeed n ((leBytes 4 v.toNat).take (bits v 25 24)) s

/-- CK_DATA_TAIL (R410). -/
def execCkDataTail (n : Nat) (v : W32) (s : State) : Host.Outcome State Fault Refusal :=
  .next (hostAccess (fun s => if n < 16 then writeCkTail n v s else s) s)

end Sys2Proof.Machine
end

