-- ==== Sys2Proof/Machine/Flags.lean ====
section
/-! DEFINITION. Shuttle arithmetic and every flag computation: accumulators, rounding, conversion, saturation, and the
flags of SR (R300-R304, R306). -/

namespace Sys2Proof.Machine

/-- A data word and an accumulator (R300). -/
abbrev D24 := BitVec 24
abbrev A56 := BitVec 56

/-- A data word in an accumulator: in U, with G its sign and W 0 (R300). -/
def widen (d : D24) : A56 := BitVec.ofInt 56 (d.toInt * 2 ^ 24)

/-- An exact result lies within the 56-bit range (R303). -/
def fitsA (x : Int) : Bool := decide (-(2 ^ 55) ≤ x ∧ x < 2 ^ 55)

/-- An exact accumulator result under MR.SAT: saturated or wrapped beyond the 56-bit range (R303). -/
def limitA (sat : Bool) (x : Int) : A56 :=
  if sat && !fitsA x then (if x < 0 then BitVec.ofInt 56 (-(2 ^ 55)) else BitVec.ofInt 56 (2 ^ 55 - 1)) else BitVec.ofInt 56 x

/-- W cleared (R302). -/
def clearW (a : A56) : A56 := BitVec.ofNat 56 (a.toNat / 2 ^ 24 * 2 ^ 24)

/-- Round-half-up at the boundary of U and W (R302). -/
def roundA (sat : Bool) (a : A56) : A56 := clearW (limitA sat (a.toInt + 2 ^ 23))

/-- Rounding leaves the 56-bit range. -/
def roundQ (a : A56) : Bool := !fitsA (a.toInt + 2 ^ 23)

/-- Bits 55:47 are not all equal (R303): the value lies outside Q1.23. -/
def outside (a : A56) : Bool := decide (a.toInt < -(2 ^ 47) ∨ 2 ^ 47 ≤ a.toInt)

/-- The conversion of an accumulator to 24 bits (R303). -/
def narrow (sat : Bool) (a : A56) : D24 :=
  if sat && outside a then (if a.toInt < 0 then BitVec.ofNat 24 0x800000 else BitVec.ofNat 24 0x7FFFFF)
  else BitVec.ofNat 24 (a.toNat / 2 ^ 24)

/-- The exact product of two data words as Q1.47 (R301). -/
def product (a b : D24) : Int := a.toInt * b.toInt * 2

/-- The exact accumulator result of a MAC-class operation before any rounding (R301). -/
def macExact (op : MacOp) (a : A56) (p : Int) : Int :=
  match op with
  | .mac | .macr => a.toInt + p
  | .msu => a.toInt - p
  | .mpy => p

/-- The accumulator after a MAC-class operation (R301-R303). -/
def macResult (op : MacOp) (sat : Bool) (a : A56) (p : Int) : A56 :=
  match op with
  | .macr => roundA sat (limitA sat (macExact op a p))
  | _ => limitA sat (macExact op a p)

/-- The operation saturates or wraps (R304) (DEDUCED, log entry 47). -/
def macClips (op : MacOp) (sat : Bool) (a : A56) (p : Int) : Bool :=
  !fitsA (macExact op a p) || (op == .macr && roundQ (limitA sat (macExact op a p)))

/-- The number of an ALU operation, in the order of R308. -/
def aluNum : AluOp → Nat
  | .add => 0 | .sub => 1 | .cmp => 2 | .and => 3 | .or => 4 | .xor => 5 | .neg => 6 | .abs => 7 | .clr => 8 | .asl => 9
  | .asr => 10 | .rnd => 11

/-- The number of a MAC-class operation. -/
def macNum : MacOp → Nat
  | .mac => 12 | .msu => 13 | .mpy => 14 | .macr => 15

/-- The exact result of an ALU operation on `w`-bit operands (R308): two operands for ADD to XOR, the destination alone
for the others. -/
def aluExact {w : Nat} (op : AluOp) (a b : BitVec w) (n : Nat) : Int :=
  match op with
  | .add => a.toInt + b.toInt
  | .sub | .cmp => a.toInt - b.toInt
  | .and => (a &&& b).toInt
  | .or => (a ||| b).toInt
  | .xor => (a ^^^ b).toInt
  | .neg => -a.toInt
  | .abs => a.toInt.natAbs
  | .clr => 0
  | .asl => a.toInt * 2 ^ n
  | .asr => a.toInt / 2 ^ n
  | .rnd => a.toInt + 2 ^ 23

/-- An ALU result in an accumulator (R302, R303). -/
def aluA (op : AluOp) (sat : Bool) (a b : A56) (n : Nat) : A56 :=
  if op = .rnd then roundA sat a else limitA sat (aluExact op a b n)

/-- The exact result of an operation on data registers lies within Q1.23, and the spec states the operation for them. -/
def fitsD (op : AluOp) (x : Int) : Bool := op != .rnd && decide (-(2 ^ 23) ≤ x ∧ x < 2 ^ 23)

/-- An ALU result in a data register; a free value where the spec states none (DESIGN CHOICE, log entry 46). -/
def aluD (op : AluOp) (a b : D24) (n : Nat) : D24 :=
  if fitsD op (aluExact op a b n) then BitVec.ofInt 24 (aluExact op a b n) else Config.dataAlu (aluNum op + 16 * n) a b

/-! ## SR (R304, R306) -/

/-- SR with Z, N, C and V of a result. -/
def srFlags (sr : Nat) (z n c v : Bool) : Nat :=
  sr / 16 * 16 + (if z then 1 else 0) + (if n then 2 else 0) + (if c then 4 else 0) + (if v then 8 else 0)

/-- SR with the sticky flag Q set where `q` (R304). -/
def srQ (sr : Nat) (q : Bool) : Nat := if q then Nat.lor sr 16 else sr

/-- SR with one of the flags T (bit 5), K (bit 6) and F (bit 7). -/
def srBit (sr i : Nat) (b : Bool) : Nat := if b then Nat.lor sr (2 ^ i) else Nat.land sr (255 - 2 ^ i)

/-- The flags of a result of width `w`: `x` is the exact result, `inside` whether the format holds it (DESIGN CHOICE, log entry 46). -/
def resultFlags {w : Nat} (sr op : Nat) (r : BitVec w) (a b : Int) (inside : Bool) : Nat :=
  srFlags sr (r == 0) r.msb (Config.carry op a b) (!inside)

/-- A branch condition on SR (R308); LP is given by the loops. -/
def condHolds (cond : Cond) (sr : Nat) (lp : Bool) : Bool :=
  match cond with
  | .always => true
  | .z => sr.testBit 0
  | .n => sr.testBit 1
  | .c => sr.testBit 2
  | .v => sr.testBit 3
  | .t => sr.testBit 5
  | .k => sr.testBit 6
  | .f => sr.testBit 7
  | .lp => lp

end Sys2Proof.Machine
end

