-- ==== Sys2Proof/Machine/LaneBase.lean ====
section
/-! DEFINITION. Lanes and ports: what several lane families share (R43, R55, R56, R87, R107-R116). -/

namespace Sys2Proof.Machine

/-- The modes of R40 as MODE_STAT codes them. -/
abbrev m100 := 1
abbrev m200 := 2
abbrev m400 := 3

/-- The transmitter states of R55. -/
abbrev txOff := 0
abbrev txStandby := 1
abbrev txRampUp := 2
abbrev txActive := 3
abbrev txIdle := 4
abbrev txWake := 5
abbrev txRampDown := 6

/-- The receiver states of R87. -/
abbrev rxOff := 0
abbrev rxSearch := 1
abbrev rxAcquire := 2
abbrev rxTrain := 3
abbrev rxConverge := 4
abbrev rxLocked := 5
abbrev rxIdle := 6
abbrev rxWake := 7
abbrev rxFailed := 8

def State.mode (s : State) (n : Nat) : Nat := s.fld (fLn_MODE_STAT_MODE n)
def State.tx (s : State) (n : Nat) : Nat := s.fld (fLn_TX_STAT_STATE n)
def State.setTx (s : State) (n st : Nat) : State := s.setFld (fLn_TX_STAT_STATE n) st
def State.rx (s : State) (n : Nat) : Nat := s.fld (fLn_RX_STAT_STATE n)

/-- The base lane of the port that holds a lane; the lane itself while it is off (R43). -/
def State.portBase (s : State) (n : Nat) : Nat := if s.mode n = 0 then n else s.fld (fLn_MODE_STAT_PORT_BASE n)

/-- The lanes of the port that holds a lane. -/
def State.portLanes (s : State) (n : Nat) : List Nat :=
  if s.mode n = 0 then [n]
  else (List.range (2 ^ s.fld (fLn_MODE_STAT_WIDTH n))).map (· + s.fld (fLn_MODE_STAT_PORT_BASE n))

/-- EPn is the MAC of a port that exists (R43, R55). -/
def State.macPresent (s : State) (ep : Nat) : Bool :=
  decide (ep < 8) && s.mode ep != 0 && s.fld (fLn_MODE_STAT_PORT_BASE ep) == ep && s.tx ep != txOff

/-- The transmit side of EPn sends or will send: a PRBS generator and the states of R55 that discard take it out of service (R55, R507, R509). -/
def State.macSends (s : State) (ep : Nat) : Bool :=
  s.macPresent ep && s.tx ep != txStandby && (s.portLanes ep).all (fun m => !s.on (fLn_PRBS_STAT_GEN m))
    && (s.lane ep).loopPrior.isNone

/-- The port of EPn is up: every lane of it has LOCK = 1 (R87, R93). -/
def State.portUp (s : State) (ep : Nat) : Bool := (s.portLanes ep).all fun n => s.on (fLn_RX_STAT_LOCK n) && !s.on (fLn_PRBS_STAT_CHK n)

/-- The bit rate of a mode in Gb/s of Ethernet payload per lane (R40). -/
def modeRate (m : Nat) : Nat := if m = m100 then 100 else if m = m200 then 200 else if m = m400 then 400 else 0

/-- The symbol rate of a mode in 10^-4 GBd (R40). -/
def modeBaud (m variant : Nat) : Nat :=
  if m = m100 then 531250 else if m = m200 then (if variant = 0 then 1062500 else 1134375) else if m = m400 then 2268750 else 0

/-- The symbols of a rate that a repeating injection has hit since it began, one in every `arg` (R511) (DEDUCED, log entry 26). -/
def injected (inj arg since now baud : Nat) : Nat :=
  if inj = 3 ∧ arg ≠ 0 then (now - since) * baud / (10000 * nsU * arg) else 0

/-- The injections of a lane's repeating injection so far (DEDUCED, log entry 26). -/
def State.laneInj (s : State) (n : Nat) : Nat :=
  let l := s.lane n
  injected l.inj l.injArg l.injAt s.up (modeBaud (s.mode n) (s.fld (fLn_MODE_STAT_VARIANT n)))

/-- A repeating injection ends, and its count stays in PRBS_STAT.INJ (R511). -/
def endInj (n : Nat) (s : State) : State := (s.addSat (fLn_PRBS_STAT_INJ n) (s.laneInj n)).modLane n ({ · with inj := 0 })

/-- The rate of EPn's port in Gb/s (R43). -/
def State.portRate (s : State) (ep : Nat) : Nat := modeRate (s.mode ep) * 2 ^ s.fld (fLn_MODE_STAT_WIDTH ep)

/-- The amplitude scale and what TX_STAT.AMP reports of it (R56). -/
def State.setAmp (s : State) (n a : Nat) : State :=
  (s.modLane n ({ · with amp := a })).setFld (fLn_TX_STAT_AMP n) (a * 1023 / 1024)

def State.modLoom (s : State) (f : LoomSt → LoomSt) : State := { s with loom := f s.loom }

/-- An express frame is discarded (R266). -/
def expDrop (rule ep : Nat) (s : State) : State :=
  let (f, d) := Tab.get (0, 0) s.loom.expCnt rule
  let s1 := s.modLoom fun m => { m with expCnt := Tab.set m.expCnt rule (f, min 65535 (d + 1)) }
  raiseOnce fLoom_EGR_EVENT_EXP_DROP (countLoom 0x22 rule 0 0 0 0 1 (s1.addSat (fLoom_EXP_DROP_COUNT ep)))

/-- A frame discarded on a MAC's transmit side is counted (R47, R55), an express frame on its rule too (R266); a host frame completes with
E_STATE (R358). -/
def discardTx (ep : Nat) (f : TxFrame) (s : State) : State :=
  let s1 := countLn ep 6 0 1 (s.modLane ep fun l => { l with txDrop := l.txDrop + 1 })
  match f.src with
  | .host h => postCompl ⟨h, eState, 1, [], [], false⟩ s1
  | .express rule _ => expDrop rule ep s1
  | .media .. => s1

/-- Every frame held on a MAC's transmit side is discarded (R55). -/
def discardHeld (ep : Nat) (s : State) : State :=
  let l := s.lane ep
  (l.express ++ l.media ++ l.host).foldl (fun a f => discardTx ep f a)
    (s.setLane ep { l with express := [], media := [], host := [] })

/-- The rest of a train is cancelled, and with it the LANE_TRAIN that waits for its first sequence (R138) (DEDUCED, log entry 25). -/
def cancelTrain (n : Nat) (s : State) : State :=
  let s1 := (s.setFld (fLn_TX_CATCH_REP_LEFT n) 0).modLane n ({ · with trainCmd := none })
  match (s.lane n).trainCmd with
  | some h => complete h eAbort [] s1
  | none => s1

/-- A ramp down begins, which cancels a train, or an up-ramp reverses; a transmitter in IDLE goes to STANDBY at once (R56-R58,
R60, R138) (DEDUCED, log entry 25). -/
def rampDown (n : Nat) (s : State) : State :=
  let st := s.tx n
  if st = txActive ∨ st = txWake then
    cancelTrain n (((s.setAmp n 1024).modLane n ({ · with rampUs := s.fld (fLn_TX_RAMP_RAMP_US n) })).setTx n txRampDown)
  else if st = txRampUp then s.setTx n txRampDown
  else if st = txIdle then discardHeld n ((s.setAmp n 0).setTx n txStandby)
  else s

/-- A ramp up begins from zero swing, and with it the transmit PCS, or a down-ramp reverses (R53, R56, R57). -/
def rampUp (n : Nat) (s : State) : State :=
  let st := s.tx n
  if st = txStandby then
    ((s.setAmp n 0).modLane n ({ · with rampUs := s.fld (fLn_TX_RAMP_RAMP_US n), txPairs := 0, txEnc := {} })).setTx n txRampUp
  else if st = txRampDown then s.setTx n txRampUp
  else s

/-- A train of catch training sequences starts (R138): a new TRAIN_ID and REP sequences to send. -/
def startTrain (n : Nat) (s : State) : State :=
  ((s.incWrap (fLn_TX_CATCH_LAST_ID n)).setFld (fLn_TX_CATCH_REP_LEFT n) (s.fld (fLn_TX_CATCH_REP n))).modLane n
    ({ · with trainAt := none })

/-- A sequence of a lane's train is due: the first at once, a later one 10 µs after the start of the one before (R138). -/
def State.trainDue (s : State) (n : Nat) : Bool :=
  s.fld (fLn_TX_CATCH_REP_LEFT n) != 0 &&
    match (s.lane n).trainAt with | some t => decide (t + 10000 * nsU ≤ s.up) | none => true

/-- A catch training sequence is on the line: 9,408 symbols, which are 41.47 ns, from its start (R137, R138). -/
def State.trainSends (s : State) (n : Nat) : Bool :=
  match (s.lane n).trainAt with | some t => decide (s.up * 2268750 < t * 2268750 + 94080000 * nsU) | none => false

/-! ## Calibration values and passes that end early -/

/-- The rates of R115: units per 1 µs for GAIN, OFS, SKEW, BW. -/
def calRate : Nat → Nat
  | 0 => 2 | 1 => 4 | 2 => 5 | _ => 2

/-- The slices in use: the 8 of half A in M100 and M200, else all 16 (R105). -/
def State.slices (s : State) (n : Nat) : Nat := if s.mode n = m100 ∨ s.mode n = m200 then 8 else 16

/-- An anchor value (R113, R119). -/
def State.anchor (s : State) (n slice q a : Nat) : Int :=
  Tab.get (Config.factoryAnchor n slice q a).toInt (s.lane n).anchors (slice, q, a)

/-- Round half-up (R113) (DEDUCED, log entry 27). -/
def roundHalfUp (x : Rat) : Int := (x + 1 / 2).floor

/-- The lower anchor of the interval that holds T, in 1/16 degree, and the weight of the upper one (R113) (DEDUCED, log entry 27). -/
def anchorAt (t : Rat) : Nat × Rat :=
  if t ≤ 160 then (0, 0)
  else if t < 560 then (0, (t - 160) / 400)
  else if t < 960 then (1, (t - 560) / 400)
  else if t < 1360 then (2, (t - 960) / 400)
  else if t < 1600 then (3, (t - 1360) / 240)
  else (4, 0)

/-- The value at T of a coefficient with the given anchors, before rounding (R113) (DEDUCED, log entry 27). -/
def coefAt (anchor : Nat → Int) (t : Rat) : Rat :=
  let (i, w) := anchorAt t
  if w = 0 then (anchor i : Rat) else (anchor i : Rat) + ((anchor (i + 1) - anchor i : Int) : Rat) * w

/-- The calibration temperature of a lane, 1/16 degree, which no reset of the lane changes (R112, R119). -/
def State.calTemp (s : State) (n : Nat) : Int := (s.lane n).temp.getD 0

/-- c(T) at the lane's calibration temperature (R113, R114). -/
def State.coefNow (s : State) (n slice q : Nat) : Int := roundHalfUp (coefAt (s.anchor n slice q) (s.calTemp n))

/-- The active value of a coefficient as it stands, which APPLY moves by fractions of its unit: c(T) until the first
temperature has come (R114, R115, R119). -/
def State.activeExact (s : State) (n slice q : Nat) : Rat :=
  Tab.get (s.coefNow n slice q : Rat) (s.lane n).active (slice, q)

/-- The active value of a coefficient in its unit (R104). -/
def State.activeCoef (s : State) (n slice q : Nat) : Int := roundHalfUp (s.activeExact n slice q)

/-- A value for every coefficient of a lane. -/
def calTable (v : Nat → Nat → Rat) : Tab (Nat × Nat) Rat :=
  (List.range 16).flatMap fun sl => (List.range 4).map fun q => ((sl, q), v sl q)

/-- A value moves towards a goal by at most `d`. -/
def approach (x goal d : Rat) : Rat := max (x - d) (min (x + d) goal)

/-- The active values of the slices in use follow c(T) under the rates of R115, 1 µs at a time; tracking is suspended during
APPLY, and other slices keep their values (R105, R114). Until the first temperature they are c(T). -/
def trackCal (n : Nat) (s : State) : State :=
  let l := s.lane n
  let k := (s.up - l.trackAt) / (1000 * nsU)
  if s.fld (fLn_CAL_STAT_PHASE n) = 3 ∨ l.temp = none then s.setLane n { l with trackAt := s.up }
  else s.setLane n { l with
    trackAt := l.trackAt + k * (1000 * nsU)
    active := calTable fun sl q =>
      if sl < s.slices n then approach (s.activeExact n sl q) (s.coefNow n sl q : Rat) (calRate q * k : Nat)
      else s.activeExact n sl q }

/-- A pass in ESTIMATE is abandoned (R109). -/
def calAbandon (n : Nat) (s : State) : State :=
  if s.fld (fLn_CAL_STAT_PHASE n) = 1 then
    raise_ (fLn_CAL_EVENT_ABANDON n) (s.setFld (fLn_CAL_STAT_PHASE n) 0)
  else s

/-- APPLY ends: every coefficient is at its target, the outputs are held no longer, PASS_SEQ advances and PASS_DONE is raised
(R115, R117). -/
def calFinish (n : Nat) (s : State) : State :=
  let l := s.lane n
  let s1 := s.setLane n { l with
    active := l.calTarget.foldl (fun t e => Tab.set t e.1 e.2) l.active, calTarget := [], calFrom := [], calS := 0, calStep := 0
    trackAt := s.up }
  let s2 := (s1.setFld (fLn_CAL_STAT_PHASE n) 0).setFld (fLn_CAL_STAT_PAUSED n) 0
  raise_ (fLn_CAL_EVENT_PASS_DONE n)
    (((s2.incWrap (fLn_CAL_STAT_PASS_SEQ n)).setFld (fLn_CAL_VAL_STALE n) 0).setFld (fCh_OUT_STALE (16 + n)) 0)

/-- The receiver leaves LOCKED, or the lane is named by LANE_MODE: ESTIMATE is abandoned (R109), APPLY applies what
remains at once (R116). -/
def calLeave (n : Nat) (s : State) : State :=
  if s.fld (fLn_CAL_STAT_PHASE n) = 3 then calFinish n s else calAbandon n s

/-- A pass enters ESTIMATE (R107, R108, R112, R118). -/
def calStart (n : Nat) (s : State) : State :=
  (s.modLane n fun l => { l with
    calFirst := false, calDue := false, calWin := s.fld (fLn_CAL_CTL_WIN_LOG2 n), calTmin := s.calTemp n, calTmax := s.calTemp n
    calTsum := s.calTemp n, calTn := 1 }).setFld (fLn_CAL_STAT_PHASE n) 1

/-- LOCK_GAINED: the first since the lane was turned on, or one for which a pass was due, starts a pass (R107); with EN = 0 none
starts, and none is due at a later LOCK_GAINED. -/
def calLockGained (n : Nat) (s : State) : State :=
  let l := s.lane n
  if s.on (fLn_CAL_CTL_EN n) && s.fld (fLn_CAL_STAT_PHASE n) == 0 && (l.calFirst || l.calDue) then calStart n s
  else s.setLane n { l with calFirst := false, calDue := false }

/-! ## Receiver states -/

/-- RX_STAT of a receiver in a state: LOCK is 1 in LOCKED, IDLE and WAKE; MEM is 0 while it is not trained, and the superframe
phase is known only from the end of training on and not in electrical idle (R87, R98, R152). -/
def State.setRx (s : State) (n st : Nat) : State :=
  let locked := st = rxLocked ∨ st = rxIdle ∨ st = rxWake
  let s1 := (s.setFld (fLn_RX_STAT_STATE n) st).setFld (fLn_RX_STAT_LOCK n) (if locked then 1 else 0)
  let s2 := if locked ∨ st = rxConverge then s1 else s1.setFld (fLn_RX_STAT_MEM n) 0
  if st = rxLocked ∨ st = rxConverge then s2 else s2.setFld (fLn_FEC_STAT_SF_LOCK n) 0

/-- What a lane's receiver holds of the stream of symbols it was decoding is dropped; a merit window goes on (R84). -/
def dropStream (l : Lane) : Lane :=
  { l with
    rcpt := none, samples := [], tent := [], undecided := [], us := [], fin := [], errs := [], surv := [], soft := [], pairA := none
    fork := none, held := [], skip := 0, rsBits := 0 }

/-- The receiver leaves the states in which it is locked for a state other than IDLE (R93, R109, R116). -/
def leaveLocked (n : Nat) (s : State) : State :=
  if s.rx n = rxLocked ∨ s.rx n = rxIdle ∨ s.rx n = rxWake then calLeave n (s.modLane n dropStream) else s

/-- The receiver enters ACQUIRE: writes to RX_CTL, CTLE and MEM take effect, MERIT is not valid, nothing is trained; out of IDLE,
SIGDET shows the signal again (R88, R91, R97, R98, R101). -/
def toAcquire (n : Nat) (s : State) : State :=
  let s1 := leaveLocked n s
  let s2 := { s1 with act := Tab.set (Tab.set (Tab.set s1.act (rLn_RX_CTL n) (s1.reg (rLn_RX_CTL n)))
    (rLn_RX_AFE n) (s1.reg (rLn_RX_AFE n))) (rLn_TRELLIS n) (s1.reg (rLn_TRELLIS n)) }
  let l := s2.lane n
  let l1 := { l with
    lockRun := 0, failRun := 0, lowRun := 0, chosen := none, cand := none, candWin := 0, candSum := 0, scored := []
    curId := none, sigSince := none, win := {}, winDone := none }
  let s3 := (s2.setLane n l1).setRx n rxAcquire
  let s4 := if s.rx n = rxIdle then s3.setFld (fLn_RX_STAT_SIGDET n) (if (s.lane n).sigSince.isSome then 1 else 0) else s3
  s4.resultPending (rLn_MERIT n)

/-- A LANE_TRAIN naming the receive side: ACQUIRE with RETRY 0 (R88). -/
def retrainRx (n : Nat) (s : State) : State := (toAcquire n s).setFld (fLn_RX_STAT_RETRY n) 0

/-- RETRY is incremented; at RETRY_MAX the receiver is FAILED, else `next` follows (R88). -/
def retry (n : Nat) (next : State → State) (s : State) : State :=
  let s1 := s.addSat (fLn_RX_STAT_RETRY n)
  if s.fld (fLn_ADAPT_RETRY_MAX n) ≤ s1.fld (fLn_RX_STAT_RETRY n) then
    raise_ (fLn_RX_EVENT_FAILED n) ((leaveLocked n s1).setRx n rxFailed)
  else next s1

/-- A write of ADAPT brings RETRY_MAX down to RETRY: the receiver is FAILED (R88) (DEDUCED, log entry 86). -/
def retryReached (n : Nat) (s : State) : State :=
  if s.rx n ≠ rxOff ∧ s.rx n ≠ rxFailed ∧ s.fld (fLn_ADAPT_RETRY_MAX n) ≤ s.fld (fLn_RX_STAT_RETRY n) then
    raise_ (fLn_RX_EVENT_FAILED n) ((leaveLocked n s).setRx n rxFailed)
  else s

/-- The receiver enters LOCKED: it counts, and a far-end loopback ramps up (R507, R522). -/
def enterLocked (n : Nat) (s : State) : State :=
  let s1 := countLn n 7 0 1 (s.setRx n rxLocked)
  if s1.fld (fLn_PRBS_STAT_LOOP n) = 2 ∧ (s1.lane n).loopPrior.isSome then rampUp n s1 else s1

end Sys2Proof.Machine
end

