-- ==== Sys2Proof/Machine/Frames.lean ====
section
/-! DEFINITION. Frame queues: SEND and POST, and the delivery of a frame into a posted buffer (R358, R359, R381). -/

namespace Sys2Proof.Machine

/-- FRAME_SEND (R358): a host frame joins its MAC's host queue; without a MAC that sends it is discarded and counted
(R47, R55). `none` is a frame that cannot be read. -/
def execFrameSend (h : Hdr) (ep len : Nat) (frame : Option (List Byte)) (s : State) : Host.Outcome State Fault Refusal :=
  .next (
    if !s.begins (.frameSend h ep len frame) || s.dark then s
    else
      let s1 := s.begun h.qp
      if 7 < ep ∨ len < 14 ∨ s.fld (fLn_MAC_CFG_MAX_FRAME ep) - 4 < len then
        postCompl ⟨h, eRange, 1, [], [], false⟩ s1
      else match frame with
        | none => postCompl ⟨h, eBus, 1, [], [], false⟩ (readFailed s1)
        | some d =>
          let f : TxFrame := { src := .host h, data := padTo 60 (d.take len) }
          if s.macSends ep then s1.modLane ep fun l => { l with host := l.host ++ [f] }
          else discardTx ep f s1)

/-- POST (R359): a buffer with a legal address and size is posted. -/
def execPost (h : Hdr) (addr len : Nat) (s : State) : Host.Outcome State Fault Refusal :=
  .next (
    if !s.begins (.post h addr len) || s.dark then s
    else if addr % 64 != 0 || len % 64 != 0 || decide (len < 64 ∨ 16384 < len) then
      postCompl ⟨h, eRange, 2, [], [], false⟩ (s.begun h.qp)
    else (s.begun h.qp).modQp h.qp fun v => { v with posted := v.posted ++ [⟨h, addr, len⟩] })

/-- A queue pair is an enabled frame receive queue (R359). -/
def State.recvQueue (s : State) (q : Nat) : Bool :=
  decide (q < 256) && s.on (fQp_CTL_EN q) && s.fld (fQp_CTL_KIND q) == 2

/-- A frame fills the oldest posted buffer of an enabled receive queue (R359, R381): 16 bytes of header, then the
frame; `none` where no buffer takes it. -/
def deliverBuf (q : Nat) (head bytes : List Byte) (mac cls : Nat) (s : State) : Option State :=
  if !s.recvQueue q || !s.bme 0 then none
  else match (s.qp q).posted with
    | [] => none
    | p :: r =>
      if p.len < 16 + bytes.length then none
      else some (postCompl ⟨p.hdr, eOk, 2, leBytes 2 bytes.length ++ leBytes 1 mac ++ leBytes 1 cls,
        [(p.addr, padTo 16 head ++ bytes)], false⟩ (s.modQp q ({ · with posted := r })))

end Sys2Proof.Machine
end

