-- ==== Sys2Proof/Machine/LoomBase.lean ====
section
/-! DEFINITION. What ingress and egress share: media formats and slot layouts (R221-R232), slot headers, received-packet
fields, and PORT notices. -/

namespace Sys2Proof.Machine

/-- The next multiple of 64. -/
def ceil64 (n : Nat) : Nat := (n + 63) / 64 * 64

/-! ## Formats -/

/-- An audio essence (R215). -/
def isAudio (ess : Nat) : Bool := ess == 1 || ess == 2

/-- Bytes and pixels of a pgroup (R223). -/
def Format.pg (f : Format) : Nat × Nat :=
  if f.sampling = 0 then (if f.depth = 0 then (5, 2) else (6, 2)) else (if f.depth = 0 then (15, 4) else (9, 2))

/-- Bytes of a row, and of a stored row (R223). -/
def Format.rowBytes (f : Format) : Nat := f.width / f.pg.2 * f.pg.1
def Format.stride (f : Format) : Nat := ceil64 f.rowBytes
/-- The offsets of the pixel rows and of the sequence map (R223). -/
def Format.rowsAt (f : Format) : Nat := ceil64 (64 + 12 * f.height)
def Format.mapAt (f : Format) : Nat := f.rowsAt + f.height * f.stride
/-- The packets of an ST 2022-6 frame (R230). -/
def Format.sdiPackets (f : Format) : Nat := (f.sdi + 1375) / 1376

/-- The smallest slot for a format with a sequence map of `mapBits` (R223, R229, R230, R232). -/
def Format.need (f : Format) (mapBits : Nat) : Nat :=
  if f.ess = 0 then f.mapAt + mapBits / 8
  else if f.ess = 3 then 9284
  else if f.ess = 4 then 64 + f.sdiPackets * 1376
  else 64 + 192 * f.chans

/-- The frame or block period in ns, as a numerator and a denominator (R221, R240). -/
def Format.period (f : Format) : Nat × Nat := if isAudio f.ess then (1000000, 1) else (f.den * 1000000000, f.num)

/-- `n` periods last at least `t` ns and `m` periods. -/
def Format.covers (f : Format) (n t m : Nat) : Bool := decide (t * f.period.2 + m * f.period.1 ≤ n * f.period.1)

/-- The format of bytes 20-23 and the frame rate of a parameter block (R215). -/
def formatOf (ess word num den : Nat) : Format :=
  { ess := ess, num := num, den := den
    width := if ess = 0 then word % 2 ^ 13 else 0, height := if ess = 0 then word / 2 ^ 13 % 2 ^ 13 else 0
    sampling := if ess = 0 then word / 2 ^ 26 % 4 else 0, depth := if ess = 0 then word / 2 ^ 28 % 2 else 0
    scan := if ess = 0 then word / 2 ^ 29 % 4 else 0
    chans := if isAudio ess then word % 128 else 0, l16 := if isAudio ess then word / 128 % 2 else 0
    pkts := if isAudio ess then (if word / 256 % 2 = 1 then 8 else 1) else 0
    sdi := if ess = 4 then word else 0 }

/-- The bits of bytes 20-23 outside the fields of the essence are 0 (R575, R576). -/
def wordReserved (ess word : Nat) : Bool :=
  if ess = 0 then decide (2 ^ 31 ≤ word) else if isAudio ess then decide (512 ≤ word)
  else if ess = 3 then word != 0 else false

/-- The fields of bytes 20-23 hold a supported format (R223, R230, R231). -/
def Format.wordOk (f : Format) : Bool :=
  if f.ess = 0 then
    decide (f.sampling ≤ 2 ∧ f.scan ≤ 2 ∧ f.pg.2 ≤ f.width ∧ f.width ≤ 7680 ∧ f.width % f.pg.2 = 0 ∧ 1 ≤ f.height ∧ f.height ≤ 4320)
  else if isAudio f.ess then
    decide (1 ≤ f.chans ∧ f.chans ≤ 64 ∧ (f.pkts = 1 → f.chans ≤ 8) ∧ (f.ess = 2 → f.chans % 2 = 0))
  else if f.ess = 4 then decide (f.sdi ≤ 24883200)
  else f.ess == 3

/-- The frame rate is supported (R223, R229, R230). -/
def Format.rateOk (f : Format) : Bool := isAudio f.ess || decide (f.num ≠ 0 ∧ f.den ≠ 0 ∧ f.num ≤ 60 * f.den)

/-- The samples of a packet slot (R231). -/
def Format.spp (f : Format) : Nat := if f.pkts = 8 then 6 else 48

/-! ## Media time -/

/-- The media clock of an instant of the timebase (R221). -/
def mediaClock (ess t : Nat) : Nat := t * (if isAudio ess then 48000 else 90000) / secU

/-- The value congruent to a 32-bit timestamp that lies nearest to the media clock, 48 bits (R221). -/
def extendTs (ts clock : Nat) : Nat :=
  let v : Int := (clock : Int) + signed 32 (unsigned 32 ((ts : Int) - clock))
  (if v < 0 then v + 4294967296 else v).toNat % 2 ^ 48

/-- The index of an extended timestamp (R221); halfway between two it is the later one, where R221 says only that it is rounded (DESIGN
CHOICE, log entry 133). -/
def Format.index (f : Format) (ts : Nat) : Nat :=
  if isAudio f.ess then ts / 48 else (2 * ts * f.num + 90000 * f.den) / (2 * (90000 * f.den))

/-! ## Slots -/

/-- The index that a slot whose header carries `ts` holds: the one under which ingress opened it with that timestamp, else
R221's (R222, R230, R232). -/
def Bolt.indexOf (b : Bolt) (f : Format) (j ts : Nat) : Nat :=
  match Tab.find b.idxs (j % b.slots) with
  | some (t, i) => if t = ts then i else f.index ts
  | none => f.index ts

/-- The beam address of a slot (R273). -/
def Bolt.slotAt (b : Bolt) (i : Nat) : Nat := b.base + b.ofs + i % b.slots * b.size

/-- What a slot header says (R224), as far as the device reads it. -/
structure SlotHdr where
  ts     : Nat
  flags  : Nat
  placed : Nat
  mask   : Nat
  deriving DecidableEq, Repr, Inhabited

/-- The header of a slot, read from beam; none where the read is uncorrectable or poisoned, or the slot is empty (R275, R278). -/
def readHdr (who : Who) (b : Bolt) (i : Nat) (s : State) : Option SlotHdr × State :=
  let r := beamRead who (b.slotAt i) 64 s
  let ts := field r.bytes 0 6
  (if badKind r.worst || ts == 2 ^ 48 - 1 then none
   else some ⟨ts, field r.bytes 6 2, field r.bytes 40 4, field r.bytes 52 1⟩, r.after)

/-- A sequence number in a header (R224). -/
def seqField (x : Option Nat) : Nat := x.getD 0xFFFFFFFF

/-- The PRESENT mask of an audio slot (R232): packet slots all of whose samples have been placed. -/
def Slot.present (c : Slot) (pkts : Nat) : Nat :=
  (List.range pkts).foldl (fun m i =>
    if (List.range (48 / pkts)).all (fun t => c.mask.testBit (i * (48 / pkts) + t)) then m + 2 ^ i else m) 0

/-- The header of a slot being filled (R224, R232). -/
def Slot.header (c : Slot) (f : Format) : List Byte :=
  let m := c.present f.pkts
  leBytes 6 c.ts ++ leBytes 2 c.flags ++ tbBytes c.at_ ++ tbBytes c.doneAt ++
    (if isAudio f.ess then
      List.replicate 8 0 ++ leBytes 4 (popCount 8 m) ++ leBytes 4 c.bytes ++ leBytes 4 c.rtp ++ leBytes 1 m ++ List.replicate 11 0
    else leBytes 4 (seqField c.first) ++ leBytes 4 (seqField c.last) ++ leBytes 4 c.placed ++ leBytes 4 c.bytes ++
      leBytes 4 c.rtp ++ List.replicate 12 0)

/-! ## Received packets -/

/-- The TCI of a tag field of R240 or R263, PCP in bits 14:12 and VID in bits 11:0: IEEE 802.1Q has the PCP in bits 15:13
and the DEI, 0, in bit 12. -/
def tciOf (v : Nat) : Nat := v / 4096 % 8 * 8192 + v % 4096

/-- The Ethernet header's tag and type (IEEE 802.1Q): the tag's TCI, the EtherType and the offset of what follows. -/
def ethParse (b : List Byte) : Option Nat × Nat × Nat :=
  if beField b 12 2 = 0x8100 then (some (beField b 14 2), beField b 16 2, 18) else (none, beField b 12 2, 14)

/-- What follows every tag of a frame: the VIDs of the tags that count, VID 0 being none (R210), the EtherType and the offset of what
follows. -/
def ethTags : Nat → Nat → List Byte → List Nat × Nat × Nat
  | 0, o, b => ([], beField b o 2, o + 2)
  | n + 1, o, b =>
    if beField b o 2 ≠ 0x8100 then ([], beField b o 2, o + 2)
    else
      let (l, r) := ethTags n (o + 4) b
      let v := beField b (o + 2) 2 % 4096
      (if v = 0 then l else v :: l, r)

/-- The tags, the EtherType and the payload's offset of a frame (R210, R237) (DEDUCED, log entry 42). -/
def ethInner (b : List Byte) : List Nat × Nat × Nat := ethTags (b.length / 4) 12 b

/-- The IP and UDP fields of a frame that R210 and R212 look at. -/
structure IpInfo where
  family  : Nat
  vlans   : List Nat
  dst     : List Byte
  src     : List Byte
  proto   : Nat
  frag    : Bool
  /-- a fragment that does not begin with the protocol's header -/
  later   : Bool
  sumOk   : Bool
  /-- the offset of the protocol's header -/
  l4      : Nat
  deriving DecidableEq, Repr

/-- The one's complement sum of 16-bit words, as the Internet checksum adds them. -/
def sum16 (l : List Byte) : Nat :=
  let rec go : List Byte → Nat
    | a :: b :: r => a.toNat * 256 + b.toNat + go r
    | [a] => a.toNat * 256
    | [] => 0
  let s := go l
  let s1 := s % 65536 + s / 65536
  s1 % 65536 + s1 / 65536

/-- The IP header of a frame (R210). -/
def ipParse (b : List Byte) : Option IpInfo :=
  let (vlans, typ, o) := ethInner b
  let b0 := (b.getD o 0).toNat
  if typ = 0x0800 ∧ b0 / 16 = 4 ∧ 5 ≤ b0 % 16 ∧ o + b0 % 16 * 4 ≤ b.length then
    some ⟨4, vlans, (b.drop (o + 16)).take 4, (b.drop (o + 12)).take 4, (b.getD (o + 9) 0).toNat,
      beField b (o + 6) 2 % 2 ^ 14 != 0, beField b (o + 6) 2 % 2 ^ 13 != 0, sum16 ((b.drop o).take (b0 % 16 * 4)) == 0xFFFF, o + b0 % 16 * 4⟩
  else if typ = 0x86DD ∧ b0 / 16 = 6 ∧ o + 40 ≤ b.length then
    some ⟨6, vlans, (b.drop (o + 24)).take 16, (b.drop (o + 8)).take 16, (b.getD (o + 6) 0).toNat, false, false, true, o + 40⟩
  else none

/-- The UDP payload of a datagram. -/
def udpPayload (b : List Byte) (l4 : Nat) : List Byte := (b.drop (l4 + 8)).take (beField b (l4 + 4) 2 - 8)

/-! ## Ports -/

def State.isp (s : State) (p : Nat) : Option Isp := Tab.find s.loom.isps p
def State.setIsp (s : State) (p : Nat) (v : Isp) : State := s.modLoom fun m => { m with isps := Tab.set m.isps p v }
def State.esp (s : State) (p : Nat) : Option Esp := Tab.find s.loom.esps p
def State.setEsp (s : State) (p : Nat) (v : Esp) : State := s.modLoom fun m => { m with esps := Tab.set m.esps p v }

/-- The ingress port is open (R219). -/
def State.ispOpen (s : State) (p : Nat) : Bool := (s.isp p).any (·.state != 0)
/-- The egress port is open (R244). -/
def State.espOpen (s : State) (p : Nat) : Bool := (s.esp p).any (·.state != 0)

/-- A port event raises its PORT notice where NOTICE_EN enables it (R220, R245, R250, R360): `dir` 0 ingress, 1 egress. -/
def portNotice (dir bit port owner enables : Nat) (s : State) : State :=
  if enables.testBit bit then notice owner 0x02 (leBytes 1 dir ++ leBytes 1 bit ++ leBytes 2 port) s.timeBytes s else s

/-- The self-test bit of LOOM (R370, R497). -/
abbrev loomTarget : List Nat := [36]

end Sys2Proof.Machine
end

