-- ==== Sys2Proof/Machine/Ingress.lean ====
section
/-! DEFINITION. Ingress stream ports: opening and closing, legs, slots that stop accepting, feeds, punt registers and the
port snapshot (R211-R222, R227, R233, R234, R239, R575). -/

namespace Sys2Proof.Machine

/-! ## Keys (R211-R213) -/

/-- A reserved bit or byte of a key record is not 0 (R213). -/
def keyReserved (k : List Byte) : Bool :=
  decide (8 ≤ field k 1 1) || decide (4096 ≤ field k 2 2) || field k 38 2 != 0 || field k 44 4 != 0
    || (field k 0 1 == 4 && (field k 8 12 != 0 || field k 24 12 != 0))
    || ((field k 1 1).testBit 1 && field k 20 16 != 0)

/-- A key breaks R213 in another way. -/
def keyBad (k : List Byte) : Bool :=
  (field k 0 1 != 4 && field k 0 1 != 6) || field k 36 2 == 319 || field k 36 2 == 320
    || ((field k 1 1).testBit 0 && field k 2 2 % 4096 == 0)

/-- The key of a record (R211). -/
def keyOf (k : List Byte) : Key :=
  let fl := field k 1 1
  let n := if field k 0 1 = 4 then 4 else 16
  { family := field k 0 1, vlan := if fl.testBit 0 then some (field k 2 2 % 4096) else none
    dst := (k.drop 4).take n, src := if fl.testBit 1 then none else some ((k.drop 20).take n)
    port := field k 36 2, ssrc := if fl.testBit 2 then some (field k 40 4) else none }

/-- Two entries hold the same key (R212). -/
def sameKey (a b : Key) : Bool := { a with ssrc := none } == { b with ssrc := none }

/-- The installed classification entries: port, leg, key. -/
def State.entries (s : State) : List (Nat × Nat × Key) :=
  s.loom.isps.flatMap fun e => if e.2.state = 0 then [] else e.2.legs.zipIdx.map fun x => (e.1, x.2, x.1.key)

/-! ## ISP_OPEN (R215, R216, R575) -/

/-- A field of the parameter block. -/
abbrev blkEss (b : List Byte) : Nat := field b 1 1
abbrev blkFlags (b : List Byte) : Nat := field b 2 1

/-- The parameter block breaks a rule that gives E_DESC (R216, R575) (DEDUCED, log entry 36). -/
def ispReserved (b : List Byte) : Bool :=
  let ess := blkEss b
  let fl := blkFlags b
  let legB := fl.testBit 0
  let merge := fl.testBit 1
  let feed := fl.testBit 2
  let kb := (b.drop 72).take 48
  decide (8 ≤ fl) || decide (16 ≤ field b 3 1) || field b 15 1 != 0 || field b 123 1 != 0
    || (isAudio ess && (field b 12 3 != 0 || field b 16 2 != 0))
    || ((!merge || isAudio ess) && field b 18 2 != 0) || (!merge && field b 8 4 != 0)
    || wordReserved ess (field b 20 4) || (!legB && kb.any (· != 0)) || (!feed && (b.drop 120).any (· != 0))
    || (feed && !isAudio ess) || keyReserved ((b.drop 24).take 48) || (legB && keyReserved kb)
    || (merge && !legB) || (legB && kb.all (· == 0))

/-- The format of a parameter block (R215). -/
def ispFormat (b : List Byte) : Format := formatOf (blkEss b) (field b 20 4) (field b 12 3) (field b 16 2)

/-- The sequence map's bits (R215). -/
def ispMapBits (b : List Byte) : Nat := field b 18 2 * 1024

/-- A value of the block lies outside its range, or its format is not supported (R216) (DEDUCED, log entry 36). -/
def ispRange (b : List Byte) : Bool :=
  let f := ispFormat b
  let merge := (blkFlags b).testBit 1
  decide (4 < f.ess) || decide (field b 4 4 < 50 ∨ 1000000 < field b 4 4) || decide (4000000 < field b 8 4)
    || (merge && !isAudio f.ess && decide (field b 18 2 < 1 ∨ 128 < field b 18 2)) || !f.wordOk || !f.rateOk
    || ((blkFlags b).testBit 2 && decide (95 < field b 120 2 ∨ 7 < field b 122 1 ∨ 10000 < field b 124 4))

/-- The legs that a block installs. -/
def ispLegs (b : List Byte) : List Leg :=
  { key := keyOf ((b.drop 24).take 48) } ::
    (if (blkFlags b).testBit 0 then [{ key := keyOf ((b.drop 72).take 48) }] else [])

/-- The feed that a block names (R215). -/
def ispFeed (b : List Byte) : Option Feed :=
  if (blkFlags b).testBit 2 then some { sh := field b 120 2, fifo := field b 122 1, hold := field b 124 4 } else none

/-- The FIFO is fed by an open port (R315). -/
def State.fed (s : State) (sh fifo : Nat) : Bool :=
  s.loom.isps.any fun e => e.2.state != 0 && e.2.feed.any (fun f => f.sh == sh && f.fifo == fifo)

/-- The conditions of ISP_OPEN once the block has been read, from VERSION on (R216). -/
def ispBlockChecks (port bolt : Nat) (b : List Byte) (s : State) : List (Bool × Nat) :=
  let f := ispFormat b
  let t := s.bolt bolt
  let legs := ispLegs b
  [(field b 0 1 != 1, eVersion),
   (ispReserved b, eDesc),
   (keyBad ((b.drop 24).take 48) || ((blkFlags b).testBit 0 && keyBad ((b.drop 72).take 48)), eRange),
   (ispRange b, eRange),
   (decide (t.size < f.need (if (blkFlags b).testBit 1 then ispMapBits b else 0)) || !f.covers t.slots (field b 8 4 * 1000) 2, eRange),
   (t.kind != (if isAudio f.ess then 1 else 0) || t.writer.any (· != .isp port)
     || (ispFeed b).any (fun x => decide (4 ≤ x.sh) && s.fed x.sh x.fifo), eState),
   ((ispFeed b).any (fun x => decide (x.sh < 4)), ePriv),
   (s.ispOpen port || (s.isp port).any (fun p => p.closing.isSome || p.gone), eBusy),
   (legs.any (fun l => s.entries.any (fun e => sameKey e.2.2 l.key))
     || (match legs with | [a, b] => sameKey a.key b.key | _ => false), eState),
   (decide (4096 < s.entries.length + legs.length), eNoRes)]

/-- ING_STAT follows the ports and entries (R239). -/
def showIngress (s : State) : State :=
  (s.setFld fLoom_ING_STAT_ENTRIES s.entries.length).setFld fLoom_ING_STAT_PORTS
    (s.loom.isps.filter (fun e => e.2.state != 0)).length

/-- An accepted ISP_OPEN: entries installed, counts 0, the bolt's format recorded (R217, R219, R239, R240); the indices of what older
ports wrote are R221's of their timestamps from now on (R222). -/
def ispInstall (h : Hdr) (port bolt : Nat) (b : List Byte) (s : State) : State :=
  let f := ispFormat b
  let p : Isp := { state := 1, owner := s.ownerOf h.qp, bolt := bolt, fmt := f, merge := (blkFlags b).testBit 1
                   notices := field b 3 1, lossUs := field b 4 4, win := field b 8 4
                   mapBits := if (blkFlags b).testBit 1 then ispMapBits b else 0, legs := ispLegs b, feed := ispFeed b }
  let s1 := (s.setIsp port p).modBolt bolt ({ · with writer := some (.isp port), fmt := some f, idxs := [] })
  complete h eOk [] (showIngress s1)

/-- ISP_OPEN (R215-R217); `none` is a block that cannot be read. -/
def execIspOpen (h : Hdr) (port bolt : Nat) (blk : Option (List Byte)) (s : State) : Host.Outcome State Fault Refusal :=
  .next (command h (.ispOpen h port bolt blk) (s.gate h false loomTarget ++
      [(decide (2047 < bolt), eRange), (!s.trained || !(s.bolt bolt).bound, eState), (blk.isNone, eBus)] ++
      ispBlockChecks port bolt (padTo 128 (blk.getD [])) s)
    (ispInstall h port bolt (padTo 128 (blk.getD []))) s)

/-! ## Closing (R217, R218) -/

/-- The entries of a port are removed; its writer stays the bolt's until its writes are done. -/
def ispRemove (port : Nat) (p : Isp) (h : Option Hdr) (s : State) : State :=
  showIngress (s.setIsp port { p with state := 0, closing := h, gone := h.isNone })

/-- ISP_CLOSE (R217, R378). -/
def execIspClose (h : Hdr) (port : Nat) (s : State) : Host.Outcome State Fault Refusal :=
  .next (command h (.ispClose h port) (s.gate h false loomTarget ++
      [((s.isp port).any (fun p => p.closing.isSome || p.gone), eBusy),
       (!s.ispOpen port, eState),
       (((s.isp port).map (·.owner)) != some (s.ownerOf h.qp), ePriv)])
    (fun s => match s.isp port with | some p => ispRemove port p (some h) s | none => s) s)

/-- The bolt of a closed port is free and the port holds nothing but its counts; slots that still accepted stop without CLOSED, LOST or a
closed-slot event, which R217 leaves open (DESIGN CHOICE, log entry 132). -/
def ispFree (port : Nat) (p : Isp) (s : State) : State :=
  let s1 := if (s.bolt p.bolt).writer = some (.isp port) then s.modBolt p.bolt ({ · with writer := none }) else s
  s1.setIsp port { p with legs := [], slots := [], marks := [], feed := none, sync := none, closing := none, gone := false }

/-- ISP_CLOSE_DONE: the writes of every frame classified to the port are done, and the close completes (R217); a close by
FLR posts nothing (R218). -/
def execIspCloseDone (port : Nat) (s : State) : Host.Outcome State Fault Refusal :=
  .next (
    match s.isp port with
    | none => s
    | some p =>
      match p.closing with
      | some h => complete h eOk [] (ispFree port p s)
      | none => if p.gone then ispFree port p s else s)

/-- FLR closes the ports of a function (R218). -/
def flrIngress (fn : Nat) (s : State) : State :=
  s.loom.isps.foldl (fun a e => if e.2.state ≠ 0 ∧ e.2.owner = fn then ispRemove e.1 e.2 none a else a) s

/-! ## Legs (R219, R220) -/

/-- LOOM events of a port, attributed to its owner (R520, R521); media. -/
def countIsp (src port owner n : Nat) (s : State) : State := countLoom src port 1 1 owner 4 n s

/-- A leg delivers a valid packet: it goes UP, and the port runs (R219, R220). -/
def legValid (port leg : Nat) (s : State) : State :=
  match s.isp port with
  | none => s
  | some p =>
    if p.state = 0 ∨ (p.legs[leg]?.any (·.up)) then s
    else
      let s1 := s.setIsp port { p with legs := p.legs.modify leg ({ · with up := true }), state := 2 }
      let s2 := portNotice 0 1 port p.owner p.notices s1
      if p.state = 3 then portNotice 0 3 port p.owner p.notices s2 else s2

/-- LEG_LOSS: LOSS_US without a valid packet; the leg goes DOWN (R220) (DESIGN CHOICE, log entry 4). -/
def execLegLoss (port leg : Nat) (s : State) : Host.Outcome State Fault Refusal :=
  .next (
    match s.isp port with
    | none => s
    | some p =>
      if p.state = 0 ∨ !(p.legs[leg]?.any (·.up)) then s
      else
        let legs := p.legs.modify leg ({ · with up := false })
        let gone := legs.all (fun l => !l.up)
        let s1 := s.setIsp port { p with legs := legs, state := if gone then 3 else p.state }
        let s2 := portNotice 0 0 port p.owner p.notices s1
        if gone then portNotice 0 2 port p.owner p.notices s2 else s2)

/-! ## Slots that stop accepting (R222, R227, R236) -/

/-- The number of a frame's packets, when both ends are known; sequence numbers count modulo 2^16 for ESSENCE 4. -/
def Slot.span (c : Slot) (f : Format) : Option Nat :=
  match c.first, c.last with
  | some a, some b => some (if f.ess = 4 then (b + 65536 - a % 65536) % 65536 + 1 else (b + 2 ^ 32 - a) % 2 ^ 32 + 1)
  | _, _ => none

/-- The packets never placed in a slot that stops accepting: of an ESSENCE 4 frame P is known (R230, R239). -/
def Slot.missing (c : Slot) (f : Format) : Nat :=
  if isAudio f.ess then f.pkts - popCount 8 (c.present f.pkts)
  else if f.ess = 4 then f.sdiPackets - c.placed
  else (c.span f).elim 0 (· - c.placed)

/-- COMPLETE is set (R224). -/
def Slot.complete (c : Slot) : Bool := c.flags.testBit 0

/-- A slot stops accepting: LOST and the closed-slot sources count (R222, R239, R522). -/
def slotStops (port : Nat) (p : Isp) (num : Nat) (c : Slot) (s : State) : State :=
  let p1 := { p with slots := Tab.erase p.slots num, lost := min 65535 (p.lost + c.missing p.fmt) }
  countIsp (if c.complete then 0x09 else 0x0A) port p.owner 1 (s.setIsp port p1)

/-- The header of a slot is written to beam (R224). -/
def writeHdr (p : Isp) (c : Slot) (s : State) : State :=
  beamWrite (whoIngress p.owner) ((s.bolt p.bolt).slotAt c.idx) (c.header p.fmt) s

/-- SLOT_CLOSE: the slot of index `idx` stops accepting and CLOSED is set (R222, R227, R236). -/
def execSlotClose (port idx : Nat) (s : State) : Host.Outcome State Fault Refusal :=
  .next (
    match s.isp port with
    | none => s
    | some p =>
      let num := idx % (s.bolt p.bolt).slots
      match Tab.find p.slots num with
      | none => s
      | some c =>
        if c.idx ≠ idx then s
        else slotStops port p num c (writeHdr p { c with flags := Nat.lor c.flags 2 } s))

/-! ## Feeds (R233, R234, R315) -/

def State.shut (s : State) (n : Nat) : Shuttle := Tab.get {} s.sht.sh n
def State.setShut (s : State) (n : Nat) (v : Shuttle) : State :=
  { s with sht := { s.sht with sh := Tab.set s.sht.sh n v } }
def State.modShut (s : State) (n : Nat) (f : Shuttle → Shuttle) : State := s.setShut n (f (s.shut n))

/-- A packet slot's words reach the FIFO, or are dropped for the feed when it cannot take them all or its shuttle is
stopped (R234, R315). -/
def feedPush (port owner sh fifo ts : Nat) (words : List Nat) (s : State) : State :=
  let v := s.shut sh
  let q := Tab.get [] v.fifos fifo
  if s.fld (fSh_STAT_STATE sh) ≠ 2 ∨ 1024 < q.length + words.length then
    raise_ fLoom_ING_EVENT_FEED_OVF (countIsp 0x08 port owner 1
      (s.setShut sh { v with skips := if v.skips.contains fifo then v.skips else fifo :: v.skips }))
  else
    let tagged := words.zipIdx.map fun w =>
      (⟨w.1, w.2 == 0, w.2 == 0 && v.skips.contains fifo, ts⟩ : FeedWord)
    s.setShut sh { v with fifos := Tab.set v.fifos fifo (q ++ tagged), skips := v.skips.filter (· ≠ fifo) }

/-- Packet slots held back follow as soon as they are next in media-time order (R233). -/
def feedDrain : Nat → Nat → State → State
  | 0, _, s => s
  | n + 1, port, s =>
    match s.isp port with
    | none => s
    | some p =>
      match p.feed with
      | none => s
      | some f =>
        match f.next.bind (fun t => f.held.find? (·.ts == t)) with
        | none => s
        | some x =>
          let f1 := { f with next := some (x.ts + p.fmt.spp), held := f.held.filter (·.ts ≠ x.ts) }
          feedDrain n port (feedPush port p.owner f.sh f.fifo x.ts x.words (s.setIsp port { p with feed := some f1 }))

/-- FEED_DELIVERY: a packet slot placed for the first time is fed in media-time order, held back while an earlier one is
missing, and never twice (R233). -/
def feedDeliver (port ts : Nat) (words : List Nat) (s : State) : State :=
  match s.isp port with
  | none => s
  | some p =>
    match p.feed with
    | none => s
    | some f =>
      let next := f.next.getD ts
      if ts < next then s
      else
        let f1 := { f with next := some next, held := f.held ++ [⟨ts, words, s.up⟩] }
        feedDrain (f1.held.length) port (s.setIsp port { p with feed := some f1 })

/-- The samples missing before the feed goes on: a packet slot, or what lies before a held packet that begins within it
(R233) (DESIGN CHOICE, log entry 111). -/
def Feed.gap (f : Feed) (spp t : Nat) : Nat :=
  f.held.foldl (fun n x => if t < x.ts ∧ x.ts < t + n then x.ts - t else n) spp

/-- FEED_HOLD_EXPIRY: the missing packet slot is delivered as zeros and counted as FEED_GAP (R233). -/
def execFeedHoldExpiry (port : Nat) (s : State) : Host.Outcome State Fault Refusal :=
  .next (
    match s.isp port with
    | none => s
    | some p =>
      match p.feed with
      | none => s
      | some f =>
        match f.next with
        | none => s
        | some t =>
          if f.held.isEmpty then s
          else
            let n := f.gap p.fmt.spp t
            let f1 := { f with next := some (t + n) }
            let s1 := countIsp 0x07 port p.owner 1 (s.setIsp port { p with feed := some f1 })
            feedDrain f.held.length port
              (feedPush port p.owner f.sh f.fifo t (List.replicate (n * p.fmt.chans) 0) s1))

/-! ## Registers (R239) -/

/-- A write of ING_CTL: CNT_CLR sets every PUNT_DROPc to 0. -/
def writeIngCtl (v : W32) (s : State) : State :=
  match s.unavailable rLoom_ING_CTL with
  | some st => rejectReg rLoom_ING_CTL st s
  | none => if v.getLsbD 0 then (List.range 6).foldl (fun a c => a.setReg (rLoom_PUNT_DROP c) 0) s else s

/-- ING_CNT_CLR (R239). -/
def execIngCntClr (v : W32) (s : State) : Host.Outcome State Fault Refusal := .next (hostAccess (writeIngCtl v) s)

/-- A write of ISP_SEL: a snapshot of the port is requested, replacing a pending request. -/
def writeIspSel (v : W32) (s : State) : State :=
  match s.unavailable rLoom_ISP_SEL with
  | some st => rejectReg rLoom_ISP_SEL st s
  | none => ((s.setFld fLoom_ISP_SEL_PORT (bits v 9 0)).modLoom
      ({ · with ispReq := some (bits v 9 0) })).resultPending rLoom_ISP_STAT

/-- ISP_SEL (R239). -/
def execIspSel (v : W32) (s : State) : Host.Outcome State Fault Refusal := .next (hostAccess (writeIspSel v) s)

/-- The state of leg `i` in ISP_STAT: 0 absent, 1 DOWN, 2 UP. -/
def Isp.leg (p : Isp) (i : Nat) : Nat := match p.legs[i]? with | some l => if l.up then 2 else 1 | none => 0

/-- ISP_STAT of a port, without VALID and FRESH, and ISP_CNT (R239) (DEDUCED, log entry 36). -/
def ispWords (p : Option Isp) : Nat × Nat :=
  match p with
  | none => (0, 0)
  | some p =>
    (if p.state = 0 then 0
      else p.fmt.ess * 2 ^ 20 + (if p.merge then 2 ^ 19 else 0) + p.owner * 2 ^ 8 + p.leg 1 * 16 + p.leg 0 * 4 + p.state,
     p.lost * 65536 + p.late)

/-- The ISP snapshot becomes ready (R239). -/
def ispReady (s : State) : State :=
  match s.loom.ispReq with
  | none => s
  | some port =>
    let (st, cnt) := ispWords (s.isp port)
    let s1 := (s.modLoom ({ · with ispReq := none })).setReg rLoom_ISP_CNT (BitVec.ofNat 32 cnt)
    (s1.setReg rLoom_ISP_STAT (BitVec.ofNat 32 st)).resultReady rLoom_ISP_STAT

end Sys2Proof.Machine
end

