-- ==== Sys2Proof/Machine/Merit.lean ====
section
/-! DEFINITION. Merit (R84, R85, R159): the symbol error ratio of a window from its slicer-error statistics, and the figure. Numbers
are fixed-point with 320 binary places (DESIGN CHOICE, log entry 99). -/

namespace Sys2Proof.Machine

/-- One, in 2^-320. -/
abbrev fixOne : Nat := 2 ^ 320

/-- A sum of `n` further terms of a series: each term is the last times `num` over `den` of its index. -/
def seriesSum (step : Nat → Nat → Nat) : Nat → Nat → Nat → Nat → Nat
  | 0, _, _, acc => acc
  | n + 1, i, t, acc => let u := step i t; seriesSum step n (i + 1) u (acc + u)

/-- `n` squarings. -/
def squares : Nat → Nat → Nat
  | 0, x => x
  | n + 1, x => squares n (x * x / fixOne)

/-- e^-y for y of at most 128: 1 over the 256th power of e^(y/256). -/
def fixExpNeg (y : Nat) : Nat :=
  let e := seriesSum (fun i t => t * (y / 256) / (fixOne * i)) 90 1 fixOne fixOne
  squares 8 (fixOne * fixOne / e)

/-- 1/√(2π). -/
def invSqrtTwoPi : Nat := 852135539018184763820396513245673747463731821652439675318870577517399952981679869195813084020151

/-- The Gaussian tail probability of `x` ≥ 0: ½ less the density times the series of its odd powers; 0 from 12 on, where it is
below 10^-32. -/
def gaussTail (x : Nat) : Nat :=
  if 12 * fixOne ≤ x then 0
  else
    let density := fixExpNeg (x * x / (2 * fixOne)) * invSqrtTwoPi / fixOne
    let s := seriesSum (fun i t => t * x / fixOne * x / (fixOne * (2 * i + 1))) 600 1 x x
    fixOne / 2 - density * s / fixOne

/-- h over σ, from their squares' quotient. -/
def fixRoot (num den : Nat) : Nat := Nat.sqrt (num * fixOne * fixOne / den)

/-- A sample joins a merit window: the level that the trellis decided, the expected value and the value at the trellis input (R84). -/
def MeritWin.add (w : MeritWin) (lev : Nat) (exp z : Rat) : MeritWin :=
  let e := Tab.get (0, 0, 0) w.lev lev
  ⟨w.n + 1, Tab.set w.lev lev (e.1 + 1, e.2.1 + exp, e.2.2 + (z - exp) ^ 2)⟩

/-- The Gaussian tail of a quotient h / σ from h and σ², where h may be below 0; without an error it is 0, 1/2 or 1 (R84). -/
def tailOf (h var : Rat) : Nat :=
  let r := h ^ 2 / var
  let x := if var = 0 then 12 * fixOne else fixRoot r.num.toNat r.den
  if h = 0 then fixOne / 2 else if 0 < h then gaussTail x else fixOne - gaussTail x

/-- Q(h_j / σ_j) of threshold j, which lies between levels j - 1 and j: h_j is half the distance of the mean expected values
of the two levels, σ_j the RMS error over the samples decided as either (R84). `none` where no sample of a level, which leaves
the mean unstated. -/
def thresholdTail (w : MeritWin) (j : Nat) : Option Nat :=
  let (n0, e0, q0) := Tab.get (0, 0, 0) w.lev (j - 1)
  let (n1, e1, q1) := Tab.get (0, 0, 0) w.lev j
  if n0 = 0 ∨ n1 = 0 then none else some (tailOf ((e1 / n1 - e0 / n0) / 2) ((q0 + q1) / (n0 + n1 : Nat)))

/-- SER_est (R84); a threshold with no samples has a free tail of at most 1 (DESIGN CHOICE, log entry 103). -/
def serEst (w : MeritWin) : Nat :=
  ([1, 2, 3].map fun j => (thresholdTail w j).getD (Config.noTail j w.n % (fixOne + 1))).foldl (· + ·) 0 / 2

/-- 10^-0.1. -/
def tenthDecade : Nat := 1696674811637006968191757387506029775949088016792327573052457060822692068275162173380647191233484

/-- How many of the next `n` powers of 10^-0.1 a ratio does not exceed. -/
def decibels (ser : Nat) : Nat → Nat → Nat
  | 0, _ => 0
  | n + 1, t => if ser ≤ t then decibels ser n (t * tenthDecade / fixOne) + 1 else 0

/-- floor(-10 log10 x), clamped to 0 to 255 (R85, R159). -/
def meritExact (ser : Nat) : Nat := decibels ser 255 tenthDecade

/-- A merit figure: the exact one, or one beside it, which R85 and R159 leave free; 0 for a ratio of 1 or more (R85). -/
def meritFrom (ser : Nat) : Nat :=
  let m := meritExact ser
  if fixOne ≤ ser then 0
  else match Config.meritError m ser with
  | 0 => m
  | 1 => min 255 (m + 1)
  | _ => m - 1

/-- MERIT of a window (R84, R85). -/
def meritOf (w : MeritWin) : Nat := meritFrom (serEst w)

/-- The merit of a cox receiver: of the Gaussian tail of h / σ (R159). -/
def coxMerit (e : CoxEye) : Nat := meritFrom (tailOf (e.h : Rat) ((e.sigma : Rat) ^ 2))

end Sys2Proof.Machine
end

