-- ==== Sys2Proof/Machine/Cox.lean ====
section
/-! DEFINITION. Cox links: states, wake and sleep, merit, DFE, and the sending of markers, beacons and crew frames
(R153-R168, R177, R505-R512). -/

namespace Sys2Proof.Machine

/-- The transmitter and receiver states of R157. -/
abbrev cxTxOff := 0
abbrev cxTxActive := 1
abbrev cxTxSleep := 2
abbrev cxTxWake := 3
abbrev cxTxFault := 4
abbrev cxRxOff := 0
abbrev cxRxSearch := 1
abbrev cxRxAlign := 2
abbrev cxRxUp := 3
abbrev cxRxSleep := 4
abbrev cxRxDown := 5

/-- The roles of CREW_STAT.ROLE. -/
abbrev roleNone := 0
abbrev roleLead := 1
abbrev roleMember := 2
abbrev rolePass := 3

def State.link (s : State) (n : Nat) : CoxLink := Tab.get {} s.links n
def State.modLink (s : State) (n : Nat) (f : CoxLink → CoxLink) : State :=
  { s with links := Tab.set s.links n (f (s.link n)) }
def State.cxTx (s : State) (n : Nat) : Nat := s.fld (fCx_STAT_TX_STATE n)
def State.cxRx (s : State) (n : Nat) : Nat := s.fld (fCx_STAT_RX_STATE n)
def State.setCxTx (s : State) (n v : Nat) : State := s.setFld (fCx_STAT_TX_STATE n) v
def State.setCxRx (s : State) (n v : Nat) : State := s.setFld (fCx_STAT_RX_STATE n) v
def State.role (s : State) : Nat := s.fld fCox_CREW_STAT_ROLE
def State.faulted (s : State) (n : Nat) : Bool := s.on (fCx_STAT_FAULTED n)

/-- A crew member, the lead included. -/
def State.inCrew (s : State) : Bool := s.role == roleLead || s.role == roleMember

/-- The link sends its PRBS pattern, or loops received symbols, in place of characters (R505, R509). -/
def State.cxMuted (s : State) (n : Nat) : Bool :=
  s.on (fCx_PRBS_STAT_GEN n) || s.fld (fCx_PRBS_STAT_LOOP n) == 2 || s.fld (fCx_PRBS_STAT_LOOP n) == 1

/-- The receiver delivers characters to the crew logic: UP, and no loopback (R157, R506). -/
def State.cxHears (s : State) (n : Nat) : Bool :=
  decide (n < 2) && s.cxRx n == cxRxUp && s.fld (fCx_PRBS_STAT_LOOP n) == 0

/-! ## Sending (R161-R168) -/

/-- The bytes of a beacon that leaves now (R162); before any beacon has come on the link, ECHO_SEQ and ARRIVE are 0
(DESIGN CHOICE, log entry 91). -/
def beaconBytes (n : Nat) (s : State) : List Byte :=
  let l := s.link n
  let (es, ar) := l.heard.getD (0, 0)
  let b := leBytes 1 (if n = 1 then 0 else 1) ++ leBytes 1 l.seq ++ tbBytes (s.stamp s.tb) ++ leBytes 1 es ++ tbBytes ar
  b ++ leBytes 1 (crc8 b)

/-- An item leaves the transmitter: a marker as it stands, a beacon with its DEPART (R162, R165). -/
def emitItem (n : Nat) (i : CoxItem) (s : State) : State :=
  match i with
  | .marker b => s.emit (.coxItem n 0x3C b)
  | .beacon =>
    let s1 := s.modLink n fun l => { l with seq := (l.seq + 1) % 256 }
    (s1.emit (.coxItem n 0xFE (beaconBytes n s1))).modLink n fun l => { l with departs := Tab.set l.departs l.seq (s.stamp s.tb) }

/-- A marker or beacon is due at a transmitter: sent in ACTIVE, kept for the wake run in SLEEP and WAKE, lost in the
states that send nothing or LINK_FAULT only (R157, R168, R177, R509). -/
def sendItem (n : Nat) (i : CoxItem) (s : State) : State :=
  let t := s.cxTx n
  if s.cxMuted n then s
  else if t = cxTxActive then emitItem n i s
  else if t = cxTxSleep ∨ t = cxTxWake then s.modLink n fun l => { l with items := l.items ++ [i] }
  else s

/-- The bytes of a crew frame after K27.7 (R163, R164) (DESIGN CHOICE, log entry 29). -/
def frameBytes (f : CrewFrame) : List Byte :=
  let b := leBytes 1 f.typ ++ leBytes 1 f.flags ++ leBytes 2 f.src ++ leBytes 2 f.dst ++ leBytes 2 f.seq ++
    leBytes 2 f.payload.length ++ f.payload
  b ++ beBytes 2 (crc16 b)

/-- The TYPE codes of R163. -/
abbrev tEnum := 0x01
abbrev tHop := 0x02
abbrev tDef := 0x03
abbrev tBreak := 0x04
abbrev tHealed := 0x05
abbrev tUnwrap := 0x06
abbrev tDissolve := 0x07
abbrev tSleep := 0x08
abbrev tFault := 0x09
abbrev tRelay := 0x10

/-- A frame joins a link's frames: control frames before RELAY frames, none before the first one while that is in progress
(R165). -/
def enqueueFrame (sending : Bool) (f : CrewFrame) (l : List CrewFrame) : List CrewFrame :=
  let k := if sending then 1 else 0
  let r := l.drop k
  l.take k ++ (if f.typ = tRelay then r ++ [f] else r.filter (·.typ != tRelay) ++ [f] ++ r.filter (·.typ == tRelay))

/-- A crew frame for link `n`; on a faulted link it goes out of the other link with WRAPPED set (R177). A frame that
no transmitter can take is lost, and a CREW_RELAY with it (DEDUCED, log entry 30). -/
def sendFrame (n : Nat) (f : CrewFrame) (s : State) : State :=
  let m := if s.faulted n then 1 - n else n
  let f1 := if s.faulted n then { f with flags := Nat.lor f.flags 2 } else f
  if s.cxTx m = cxTxOff ∨ s.cxTx m = cxTxFault then
    match f.tag with
    | .relay h => complete h eAbort [] s
    | _ => s
  else s.modLink m fun l => { l with frames := enqueueFrame (s.cxTx m == cxTxActive) f1 l.frames }

/-- A control frame of this device (R163): at most 256 payload bytes. -/
def ownFrame (typ dst : Nat) (up : Bool) (fields : List Int) (s : State) : CrewFrame :=
  { typ := typ, flags := if up then 1 else 0, src := s.fld fCox_CREW_STAT_MEMBER_ID, dst := dst, seq := s.crew.seq,
    payload := (Config.crewPayload typ fields).take 256 }

/-- The next crew frame of this device takes the next SEQ. -/
def nextSeq (s : State) : State := { s with crew := { s.crew with seq := (s.crew.seq + 1) % 65536 } }

/-- A control frame that this device originates. -/
def sendControl (n typ dst : Nat) (up : Bool) (fields : List Int) (s : State) : State :=
  sendFrame n (ownFrame typ dst up fields s) (nextSeq s)

/-- A frame of the link itself, SLEEP or LINK_FAULT, leaves its own transmitter, faulted or not; the spec gives it no
destination (R157, R166, R167) (DESIGN CHOICE, log entry 92). -/
def linkFrame (n typ : Nat) (s : State) : State :=
  nextSeq (s.emit (.coxItem n 0xFB (frameBytes (ownFrame typ 0xFFFF (n == 0) [] s))))

/-- A transmitter in FAULT sends a LINK_FAULT frame every 1 µs up to now (R157). -/
def faultFrames (s : State) : State :=
  [0, 1].foldl (fun a n =>
    let l := a.link n
    if a.cxTx n = cxTxFault ∧ l.faultAt ≤ a.up then
      let k := (a.up - l.faultAt) / (1000 * nsU) + 1
      ((List.range k).foldl (fun b _ => linkFrame n tFault b) a).modLink n ({ · with faultAt := l.faultAt + k * 1000 * nsU })
    else a) s

/-- The bytes of a stroke marker (R161). -/
def markerBytes (k hops count : Nat) (inst : Int) (jump defChg : Bool) : List Byte :=
  let b := leBytes 1 (k + (if defChg then 64 else 0) + (if jump then 128 else 0)) ++ leBytes 2 hops ++ leBytes 4 count ++
    tbBytes inst.toNat
  b ++ leBytes 1 (crc8 b)

/-! ## Transmitter and receiver states (R156-R159, R167, R168) -/

/-- COX_SLEEP: a transmitter with nothing to send sends a SLEEP frame and sleeps (R167). -/
def execCoxSleep (n : Nat) (s : State) : Host.Outcome State Fault Refusal :=
  .next (
    if n < 2 ∧ s.on (fCx_SLEEP_SLEEP_EN n) ∧ s.cxTx n = cxTxActive ∧ (s.link n).items.isEmpty ∧ (s.link n).frames.isEmpty
        ∧ !s.cxMuted n then
      (linkFrame n tSleep s).setCxTx n cxTxSleep
    else s)

/-- COX_WAKE: a sleeping transmitter with something to send starts its wake run (R168). -/
def execCoxWake (n : Nat) (s : State) : Host.Outcome State Fault Refusal :=
  .next (
    if n < 2 ∧ s.cxTx n = cxTxSleep ∧ !((s.link n).items.isEmpty && (s.link n).frames.isEmpty) then
      (s.emit (.coxWakeRun n)).setCxTx n cxTxWake
    else s)

/-- The items that waited for a wake run, in the order of R165: markers, the lowest generator first, then beacons. -/
def itemOrder (l : List CoxItem) : List CoxItem :=
  (List.range 4).flatMap (fun k => l.filter fun i => match i with | .marker b => field b 0 1 % 4 == k | .beacon => false) ++
    l.filter (· == .beacon)

/-- COX_WAKE_END: the 0.8 µs run ends and the items that waited are sent (R165, R168). -/
def execCoxWakeEnd (n : Nat) (s : State) : Host.Outcome State Fault Refusal :=
  .next (
    if n < 2 ∧ s.cxTx n = cxTxWake then
      (itemOrder (s.link n).items).foldl (fun a i => emitItem n i a) ((s.setCxTx n cxTxActive).modLink n ({ · with items := [] }))
    else s)

/-- COX_SIGNAL_DETECT: a signal moves SEARCH to ALIGN; the wake run returns a sleeping receiver to UP (R157, R158, R168). -/
def execCoxSignalDetect (n : Nat) (s : State) : Host.Outcome State Fault Refusal :=
  .next (
    if 2 ≤ n then s
    else
      let s1 := s.setFld (fCx_STAT_LOS n) 0
      if s.cxRx n = cxRxSearch then (s1.setCxRx n cxRxAlign).modLink n ({ · with upRun := 0, downRun := 0 })
      else if s.cxRx n = cxRxSleep then wake 3 (raise_ (fCx_EVENT_UP n) ((s1.setCxRx n cxRxUp).modLink n ({ · with upSince := s.up })))
      else s)

/-- COX_RX_UP: after two consecutive windows at UP_THR with no violation, ALIGN goes to UP (R158), unless the PRBS
checker holds the receiver in ALIGN (R512). -/
def execCoxRxUp (n : Nat) (s : State) : Host.Outcome State Fault Refusal :=
  .next (
    if n < 2 ∧ s.cxRx n = cxRxAlign ∧ !s.on (fCx_PRBS_STAT_CHK n) ∧ 2 ≤ (s.link n).upRun then
      raise_ (fCx_EVENT_UP n) ((s.setCxRx n cxRxUp).modLink n ({ · with downRun := 0, upSince := s.up }))
    else s)

/-- A receiver enters SEARCH, which has no signal (R157, R181) (DEDUCED, log entry 126). -/
def State.searchCx (s : State) (n : Nat) : State := (s.setCxRx n cxRxSearch).setFld (fCx_STAT_LOS n) 1

/-- COX_DOWN_EXPIRY: a DOWN receiver returns to SEARCH after 10 µs (R157). -/
def execCoxDownExpiry (n : Nat) (s : State) : Host.Outcome State Fault Refusal :=
  .next (if n < 2 ∧ s.cxRx n = cxRxDown then s.searchCx n else s)

/-- COX_MERIT_WINDOW_END: CXn_MERIT and WIN_SEQ update, the window is judged against UP_THR and DOWN_THR, and its invalid
characters, among them the K characters that R160 gives no use, are counted (R158-R160) (DESIGN CHOICE, log entry 97). -/
def execCoxMeritWindowEnd (n : Nat) (eye : CoxEye) (violations : Nat) (s : State) : Host.Outcome State Fault Refusal :=
  .next (
    if 2 ≤ n ∨ (s.cxRx n ≠ cxRxAlign ∧ s.cxRx n ≠ cxRxUp) then s
    else
      let m := coxMerit eye
      let s1 := (((s.setFld (fCx_MERIT_MERIT n) m).incWrap (fCx_MERIT_WIN_SEQ n)).resultReady (rCx_MERIT n)).addSat
        (fCx_CNT_CODE_ERR n) violations
      s1.modLink n fun l => { l with
        upRun := if s.fld (fCx_CTL_UP_THR n) ≤ m ∧ violations = 0 then l.upRun + 1 else 0
        downRun := if s.cxRx n = cxRxUp ∧ m < s.fld (fCx_CTL_DOWN_THR n) then l.downRun + 1 else 0 })

/-- COX_DFE_ADAPT: each of the 5 taps moves by one code against its sign, within its field; DFE_FREEZE stops it in UP
(R159). -/
def execCoxDfeAdapt (n : Nat) (signs : List Int) (s : State) : Host.Outcome State Fault Refusal :=
  .next (
    if 2 ≤ n ∨ (s.cxRx n ≠ cxRxAlign ∧ (s.cxRx n ≠ cxRxUp ∨ s.on (fCx_CTL_DFE_FREEZE n))) then s
    else
      (List.range 5).foldl (fun a i =>
        let f : FldId := ⟨rCx_DFE n, 6 * i + 5, 6 * i⟩
        let d := signs.getD i 0
        let step : Int := if 0 < d then 1 else if d < 0 then -1 else 0
        a.setSFld f (max (-32) (min 31 (a.sfld f + step)))) s)

/-! ## Enable, reset and counters (R155, R156, R164, R181) -/

/-- The check-value channel of link `n` (R164). -/
abbrev coxCk (n : Nat) : Nat := 14 + n

/-- A CREW_RELAY whose frame is lost with its link completes without having been sent (DEDUCED, log entry 30). -/
def dropFrames (n : Nat) (s : State) : State :=
  (s.link n).frames.foldl (fun a f =>
    match f.tag with
    | .relay h => complete h eAbort [] a
    | .dissolve => { a with crew := { a.crew with dissolve := a.crew.dissolve - 1 } }
    | .plain => a) (s.modLink n ({ · with frames := [], items := [] }))

/-- The link stops: no swing at its balls, its receiver OFF, its check channel released (R155, R156, R164) (DEDUCED, log entry 30). -/
def linkOff (n : Nat) (s : State) : State :=
  let s1 := (((dropFrames n s).setCxTx n cxTxOff).setCxRx n cxRxOff).setFld (fCx_STAT_LOS n) 0
  { s1 with crew := { s1.crew with unwrap := s1.crew.unwrap.filter (· ≠ n) } }

/-- A write of CXn_CTL: SRST resets the link, CNT_CLR its counts, EN enables it (R155, R156, R164, R181). -/
def writeCxCtl (n : Nat) (v : W32) (s : State) : State :=
  let r := rCx_CTL n
  let was := s.on (fCx_CTL_EN n)
  match firstFail [((s.unavailable r).isSome, (s.unavailable r).getD 0),
      (v.getLsbD 31 && !was && s.on (fCk_CTL_EN (coxCk n)) , eState),
      (decide (bits v 15 8 ≤ bits v 7 0), eRange)] with
  | some st => rejectReg r st s
  | none =>
    let s1 := s.setReg r (putBits (putBits v 30 29 0) 25 16 0)
    let s2 := if v.getLsbD 29 then s1.setReg (rCx_CNT n) 0 else s1
    let s3 := if v.getLsbD 31 && !was then
        (((s2.setCxTx n cxTxActive).searchCx n).setFld (fCk_CTL_SRC (coxCk n)) 2).setFld (fCk_RES_STAT_VALID (coxCk n)) 0
      else if !v.getLsbD 31 && was then (linkOff n s2).setFld (fCk_CTL_SRC (coxCk n)) 0
      else s2
    if v.getLsbD 30 then
      let s4 := linkOff n s3
      let s5 := s4.resetRegs fun x => x.blk == .cx && x.inst == n
      let s6 := if s3.on (fCx_CTL_EN n) then s5.setFld (fCk_CTL_SRC (coxCk n)) 0 else s5
      { s6 with links := Tab.erase s6.links n }
    else s3

/-- CX_SRST (R156, R181). -/
def execCxSrst (n : Nat) (v : W32) (s : State) : Host.Outcome State Fault Refusal :=
  .next (hostAccess (fun s => if n < 2 then writeCxCtl n v s else s) s)

/-- CX_CNT_CLR (R181). -/
def execCxCntClr (n : Nat) (v : W32) (s : State) : Host.Outcome State Fault Refusal :=
  .next (hostAccess (fun s => if n < 2 then writeCxCtl n v s else s) s)

/-- CX_ENABLE (R155, R164). -/
def execCxEnable (n : Nat) (v : W32) (s : State) : Host.Outcome State Fault Refusal :=
  .next (hostAccess (fun s => if n < 2 then writeCxCtl n v s else s) s)

/-! ## Loopback and PRBS of a link (R505-R512) -/

/-- The link carries a formed crew (R379). -/
def State.carriesCrew (s : State) : Bool := s.inCrew && s.crew.formed

/-- A loopback on a cox link (R505, R506). -/
def coxLoopBegin (h : Hdr) (n kind : Nat) (s : State) : State :=
  complete h eOk [] (s.setFld (fCx_PRBS_STAT_LOOP n) kind)

/-- The bits that a link's repeating injection has inverted so far, at 12.5 Gb/s (R153, R511). -/
def State.linkInj (s : State) (n : Nat) : Nat :=
  let l := s.link n
  if l.inj = 3 ∧ l.injArg ≠ 0 then (s.up - l.injAt) * 125 / (10 * nsU * l.injArg) else 0

/-- LANE_PRBS on a cox link (R509-R512); a checker holds the receiver in ALIGN. -/
def coxPrbsBegin (h : Hdr) (n : Nat) (gen chk : Bool) (pattern inj arg once : Nat) (s : State) : State :=
  let s1 := (((s.addSat (fCx_PRBS_STAT_INJ n) (s.linkInj n)).setFld (fCx_PRBS_STAT_GEN n) (if gen then 1 else 0)).setFld (fCx_PRBS_STAT_CHK n) (if chk then 1 else 0)).setFld
    (fCx_PRBS_STAT_PATTERN n) pattern
  let s2 := if chk then
      ((s1.setFld (fCx_PRBS_STAT_SYNC n) 0).setFld (fCx_PRBS_STAT_SYNC_LOSS n) 0).clearRegs
        (fun r => r.blk == .cx && r.inst == n && (0x28 ≤ r.off && r.off ≤ 0x30))
    else s1.setFld (fCx_PRBS_STAT_SYNC n) 0
  let s3 := (s2.modLink n ({ · with inj := inj, injArg := arg, injAt := s.up })).addSat (fCx_PRBS_STAT_INJ n) once
  let s4 := if chk && s.cxRx n != cxRxOff && s.cxRx n != cxRxSearch then
      (s3.setCxRx n cxRxAlign).modLink n ({ · with upRun := 0, downRun := 0 })
    else s3
  complete h eOk [] s4

end Sys2Proof.Machine
end

