-- ==== Sys2Proof/Machine/Timebase.lean ====
section
/-! DEFINITION. The timebase, its servo, PTM and the four stroke generators (R182-R208, R574, R577). -/

namespace Sys2Proof.Machine

/-! ## Instants of a generator (R194) -/

/-- A period in units of 2^-16 / NUM ns. -/
def GenDef.per (d : GenDef) : Int := ((d.den * secU : Nat) : Int)

/-- NUM times the instant of epoch point `j` (R194), in units of 2^-16 / NUM ns. -/
def GenDef.pointN (d : GenDef) (ofs j : Int) : Int := j * d.per + d.phase * 65536 * d.num + ofs

/-- The instant of epoch point `j`, rounded half-up to 2^-16 ns (R194). -/
def GenDef.instant (d : GenDef) (ofs j : Int) : Int := (2 * d.pointN ofs j + d.num) / (2 * d.num)

/-- The first epoch point, with OFS = 0, whose instant is at or after `b` (R196). -/
def GenDef.firstAt (d : GenDef) (b : Int) : Int :=
  -((2 * d.pointN 0 0 + d.num - 2 * d.num * b) / (2 * d.per))

/-- Half a period rounded up, in 2^-16 ns (R196). -/
def GenDef.half (d : GenDef) : Int := -((-d.per) / (2 * d.num))

/-- The epoch point nearest to an instant and the OFS that puts the point there. -/
def GenDef.align (d : GenDef) (t : Int) : Int × Int :=
  let x := t * d.num - d.pointN 0 0
  let j := (2 * x + d.per) / (2 * d.per)
  (j, x - j * d.per)

def State.gen (s : State) (k : Nat) : Gen := Tab.get {} s.gens k
def State.setGen (s : State) (k : Nat) (g : Gen) : State := { s with gens := Tab.set s.gens k g }
def State.modGen (s : State) (k : Nat) (f : Gen → Gen) : State := s.setGen k (f (s.gen k))

/-- The generator runs (R195). -/
def Gen.running (g : Gen) : Bool := g.d.isSome
/-- A generator is defined from the acceptance of a STROKE_DEF until a stop takes effect (R195). -/
def Gen.defined (g : Gen) : Bool := g.d.isSome || g.new.isSome
/-- A STROKE_DEF or STROKE_JUMP has not yet taken effect (R195, R201). -/
def Gen.busy (g : Gen) : Bool := g.new.isSome || g.stop || g.jump.isSome
/-- The next stroke is the first under the new definition (R196). -/
def Gen.nextIsNew (g : Gen) : Bool :=
  match g.new with
  | some n => g.d.isNone || decide (n.at_ ≤ g.at_)
  | none => false
/-- The instant of the next stroke. -/
def Gen.nextAt (g : Gen) : Int :=
  match g.new with
  | some n => if g.nextIsNew then n.at_ else g.at_
  | none => g.at_
/-- The instant of the stroke that fires next: a marker's, where the generator has no definition (R171). -/
def Gen.comingAt (g : Gen) : Int :=
  match g.bare with | some (_, t) => if g.defined then g.nextAt else t | none => g.nextAt
/-- The count of the next stroke (R574). -/
def Gen.nextCount (g : Gen) : Nat :=
  match g.new with
  | some n => if g.nextIsNew then (n.j % 4294967296).toNat else ((g.j + g.m) % 4294967296).toNat
  | none => ((g.j + g.m) % 4294967296).toNat

/-- Generator `k` is shared with a crew (R171). -/
def State.shared (s : State) (k : Nat) : Bool := s.inCrew && (s.fld fCox_CREW_STAT_SHARE).testBit k
/-- Its strokes come from crew markers (R171). -/
def State.follows (s : State) (k : Nat) : Bool := s.role == roleMember && s.shared k

/-- Whether the timebase instant of a stroke is the last one fired. -/
def State.lastCount (s : State) (k : Nat) : Option Nat := (s.gen k).last.map (·.1)

/-- The instant of the stroke that carries a count, as the generator stands now (R194, R196). -/
def State.instantOf (s : State) (k count : Nat) : Option Int :=
  let g := s.gen k
  let newAt (n : NewDef) : Option Int :=
    let d := ((count : Int) - n.j) % 4294967296
    if d < 2147483648 then some (n.d.instant 0 (n.j + d)) else none
  match g.last with
  | some (c, t) =>
    if c = count then some t
    else match g.d with
      | none => g.new.bind newAt
      | some d =>
        let x := signed 32 ((((count : Int) - (g.nextCount : Int)) % 4294967296).toNat)
        let t := if g.nextIsNew then none else some (g.at_ + d.instant g.ofs (g.j + x) - d.instant g.ofs g.j)
        match t, g.new with
        | some t, none => some t
        | some t, some n => if t < n.at_ then some t else newAt n
        | none, some n => newAt n
        | none, none => none
  | none =>
    match g.d with
    | none => g.new.bind newAt
    | some d =>
      let x := signed 32 ((((count : Int) - (g.nextCount : Int)) % 4294967296).toNat)
      some (g.at_ + d.instant g.ofs (g.j + x) - d.instant g.ofs g.j)

/-- A stroke result (R374). -/
def strokeResult (count : Nat) (t : Int) : List Byte :=
  let n := roundNs t.toNat
  leBytes 4 count ++ leBytes 4 (n % 1000000000) ++ leBytes 2 (n / 1000000000)

/-! ## Definitions (R195, R196) -/

/-- The registers that show a definition in effect. -/
def showDef (k : Nat) (d : GenDef) (s : State) : State :=
  ((((s.setFld (fGen_DEF_NUM k) d.num).setFld (fGen_DEF_SRC k) d.src).setFld (fGen_DEF_STEP_MODE k) d.mode).setFld
    (fGen_DEN_DEN k) d.den).setSFld (fGen_PHASE_PHASE k) d.phase

/-- The earliest instant at which a new definition may take effect (R196): `from_` at the least, half an old period
after the next old stroke and, for a shared generator at a lead, after the next marker that leaves. -/
def newBound (k : Nat) (s : State) (from_ : Int) : Int :=
  let g := s.gen k
  match g.d with
  | none => from_
  | some d =>
    let b := max from_ (g.at_ + d.half)
    if s.role = roleLead ∧ s.shared k then
      let lead : Int := ((s.fld fCox_CREW_LEAD_LEAD_US * 1000 * nsU : Nat) : Int)
      let mk := if g.sent then d.instant g.ofs (g.j + 1) - lead else g.at_ - lead
      max b (mk + 1)
    else b

/-- The own conditions of STROKE_DEF (R195) (DEDUCED, log entry 20). -/
def strokeDefChecks (k num den src : Nat) (phase : Int) (s : State) : List (Bool × Nat) :=
  let stop := num == 0 && den == 0
  [(!stop && (den == 0 || decide (16777215 < num) || decide (num < den) || decide (1000 * den < num)
      || decide (((den * 1000000000 : Nat) : Int) ≤ 2 * phase.natAbs * num)), eRange),
   (!stop && src == 1 && (List.range 4).any (fun i => i != k &&
      (((s.gen i).d.map (·.src)) == some 1 || ((s.gen i).new.map (·.d.src)) == some 1)), eState),
   (s.follows k, eState),
   ((s.gen k).busy, eBusy)]

/-- A DEF frame tells the members a shared generator's definition (R172). -/
def sendDef (k : Nat) (d : GenDef) (s : State) : State :=
  let fields : List Int := [k, d.num, d.den, d.phase, d.mode]
  let s1 := sendControl 1 tDef 0xFFFF false fields s
  if s.on fCox_CREW_STAT_TOPO then sendControl 0 tDef 0xFFFF true fields s1 else s1

/-- An accepted STROKE_DEF (R195, R196). -/
def strokeDefBegin (h : Hdr) (k num den src mode : Nat) (phase : Int) (s : State) : State :=
  let g := s.gen k
  if num = 0 ∧ den = 0 then
    if g.running then
      let s1 := s.setGen k { g with stop := true, defChg := true }
      let s2 := if s.role = roleLead ∧ s.shared k then sendDef k ⟨0, 0, phase, src, mode⟩ s1 else s1
      complete h eOk (strokeResult g.nextCount g.nextAt) s2
    else complete h eOk (match g.last with | some (c, t) => strokeResult c t | none => []) s
  else
    let d : GenDef := ⟨num, den, phase, src, mode⟩
    let j := d.firstAt (newBound k s ((s.tb + 1000000 * nsU : Nat) : Int))
    let s1 := s.setGen k { g with new := some ⟨d, s.up, j, d.instant 0 j⟩, defChg := true }
    let s2 := if s.role = roleLead ∧ s.shared k then sendDef k d s1 else s1
    complete h eOk (strokeResult (j % 4294967296).toNat (d.instant 0 j)) s2

/-- STROKE_DEF (R195, R196). -/
def execStrokeDef (h : Hdr) (k num den src stepMode : Nat) (phase : Int) (s : State) : Host.Outcome State Fault Refusal :=
  .next (command h (.strokeDef h k num den src stepMode phase) (s.gate h true [] ++ strokeDefChecks k num den src phase s)
    (strokeDefBegin h k num den src stepMode phase) s)

/-! ## Jumps (R201) -/

/-- The reported STROKE_IN offset, in ns (R198). -/
def State.inOfs (s : State) (k : Nat) : Int := s.sfld (fGen_IN_OFS_IN_OFS k)

/-- STROKE_JUMP (R201, R378) (DEDUCED, log entry 20). -/
def execStrokeJump (h : Hdr) (k : Nat) (toIn : Bool) (delta : Int) (s : State) : Host.Outcome State Fault Refusal :=
  .next (command h (.strokeJump h k toIn delta) (s.gate h true [] ++
      [(delta == -2147483648 || (toIn && ((s.gen k).ins.isEmpty || delta != 0)), eRange),
       (!(s.gen k).defined || s.follows k, eState),
       ((s.gen k).busy, eBusy)])
    (fun s => s.modGen k ({ · with jump := some ⟨h, if toIn then s.inOfs k else delta, s.up⟩ })) s)

/-! ## Steps of the timebase (R189, R196, R202) -/

/-- A new definition whose instant a step has passed, or has put too near the next old stroke, takes effect at the
first later instant that meets R196; `last`: no old stroke comes before it (DEDUCED, log entry 20). -/
def repick (last : Bool) (k : Nat) (s : State) : State :=
  let g := s.gen k
  match g.new with
  | none => s
  | some n =>
    if n.at_ < s.tb ∨ (!last && g.d.any (fun d => decide (n.at_ < g.at_ + d.half))) then
      let b := newBound k s ((s.tb + (n.acc + 1000000 * nsU - s.up) : Nat) : Int)
      let j := n.d.firstAt b
      s.setGen k { g with new := some { n with j := j, at_ := n.d.instant 0 j } }
    else s

/-- In the last interval under an old definition no old stroke comes before the new definition's first, as long as that one lies
nearer than half an old period after the old strokes' next instant (R196). -/
def Gen.lastOld (g : Gen) : Bool :=
  match g.d, g.new with
  | some d, some n => decide (n.at_ < g.at_ + d.half)
  | _, _ => false

/-- A generator acts on a step of the timebase (R202): the next stroke keeps its moment; SLEW absorbs the step in OFS
and adds it to the residue; FOLLOW returns it as a jump. -/
def genStep (v : Int) (k : Nat) (s : State) : State :=
  let g := { s.gen k with fired := (s.gen k).fired + v }
  let g1 := match g.d with
    | none => g
    | some d =>
      if s.follows k then g
      else if d.mode = 1 then
        { g with at_ := g.at_ + v, ofs := g.ofs + v * d.num, resid := if d.src = 1 then 0 else g.resid + v }
      else { g with at_ := g.at_ + v, follow := g.follow ++ [(s.up, v)] }
  let last := g.nextIsNew && g1.lastOld
  repick last k (s.setGen k (if last then { g1 with at_ := (g.new.map (·.at_)).elim g1.at_ (max g1.at_) } else g1))

/-- The schedule times of the packets on their way keep their moments when the timebase is stepped by `v`: those of the frames in
transmission, of queued packets, and the switches of audio sources (R197). -/
def keepPaced (v : Int) (s : State) : State :=
  let moved (f : TxFrame) : TxFrame := match f.src with
    | .media port due trs ends => { f with src := .media port ((due : Int) + v).toNat trs ends }
    | _ => f
  { s with
    loom := { s.loom with esps := s.loom.esps.map fun e => (e.1, { e.2 with
      out := e.2.out.map fun fr => { fr with step := fr.step + v }
      sw := e.2.sw.map fun x => (x.1 + v, x.2) }) }
    lanes := s.lanes.map fun e => (e.1, { e.2 with media := e.2.media.map moved }) }

/-- The timebase is stepped: STEPPED, a LOCKED servo returns to ACQUIRE, and the generators act (R188, R189, R197, R202). -/
def stepTimebase (v : Int) (s : State) : State :=
  let s1 := keepPaced v { s with tb := ((s.tb : Int) + v).toNat, time := { s.time with ppsAt := none } }
  let s2 := raise_ fCox_TB_EVENT_STEPPED s1
  let s3 := if s2.fld fCox_TB_CTL_SERVO = 1 ∧ s2.fld fCox_TB_STAT_SERVO_STATE = 2 then
      let a := noteLocked s2
      { a.setFld fCox_TB_STAT_SERVO_STATE 1 with time := { a.time with runIn := 0, runOut := 0 } }
    else s2
  (List.range 4).foldl (fun a k => genStep v k a) s3

/-- TIME_SET (R189, R379); the record holds the timebase before and after the step. It completes in the step that accepts it (DEDUCED,
log entry 136). -/
def execTimeSet (h : Hdr) (relative : Bool) (sec ns frac : Nat) (ofs : Int) (s : State) :
    Host.Outcome State Fault Refusal :=
  let after : Int := if relative then (s.tb : Int) + ofs else ((sec * secU + ns * nsU + frac : Nat) : Int)
  .next (command h (.timeSet h relative sec ns frac ofs) (s.gate h true [] ++
      [(s.role == roleMember, eState),
       ((!relative && decide (1000000000 ≤ ns)) || decide (after < 0) || decide (((2 ^ 48 * secU : Nat) : Int) ≤ after), eRange)])
    (fun s =>
      let s1 := stepTimebase (after - s.tb) s
      completeRec h eOk (padTo 32 (tbBytes s.tb ++ tbBytes s1.tb)) s1) s)

/-! ## Balls and the passing of time (R183, R206, R207) -/

/-- A pulse on STROKE_OUT or PPS_OUT ends once its time has come: the ball goes low, or high-impedance if its enable bit
has been cleared since (R206, R207). -/
def endPulses (s : State) : State :=
  let s1 := if s.time.soEnd.any (fun e => decide (e ≤ s.up)) then
      { s.emit (.pin "STROKE_OUT" (if s.on fCox_OUT_CTL_SO_EN then some false else none)) with time := { s.time with soEnd := none } }
    else s
  if s1.time.ppsEnd.any (fun e => decide (e ≤ s1.up)) then
    { s1.emit (.pin "PPS_OUT" (if s1.on fCox_OUT_CTL_PPS_EN then some false else none)) with time := { s1.time with ppsEnd := none } }
  else s1

/-- The timebase passes a whole second while the running clock reads `u`: PPS_OUT rises (R206). -/
def ppsRise (u : Nat) (s : State) : State :=
  if s.on fCox_OUT_CTL_PPS_EN then
    { s.emit (.pin "PPS_OUT" (some true)) with
      time := { s.time with ppsEnd := some (u + s.fld fCox_OUT_CTL_PPS_WIDTH * 1000000 * nsU) } }
  else s

/-- The timebase advances by `d` while the running clock advances by `u`: whole seconds pass, pulses end,
LINK_FAULT frames leave. -/
def pass (d u : Nat) (s : State) : State :=
  let t := s.tb + d
  let first := s.tb / secU + 1
  let s1 := (List.range (t / secU - s.tb / secU)).foldl (fun a i =>
    let v := s.up + ((first + i) * secU - s.tb)
    ppsRise v (endPulses { a with up := v })) s
  let at_ := if d = 0 then s.time.ppsAt else if t % secU = 0 then some t else none
  faultFrames (endPulses { s1 with tb := t, up := s.up + u, time := { s1.time with ppsAt := at_ } })

/-- Time passes to a later instant of the timebase (DESIGN CHOICE, log entry 2). -/
def advanceTo (t : Int) (s : State) : State :=
  if (s.tb : Int) < t then pass (t.toNat - s.tb) (t.toNat - s.tb) s else s

/-- What the running clock reads, or read, at an instant of the timebase. -/
def State.upOf (s : State) (t : Int) : Int := s.up + (t - s.tb)

/-- One D_TB tick (R183): 2 ns × (1 + TB_FREQ), rounded to 2^-16 ns, the residue carried (DESIGN CHOICE, log entry 1). -/
def tbTick (s : State) : State :=
  let acc := 2 * s.sfld fCox_TB_FREQ_FREQ + s.time.res
  let q := (acc + 500000) / 1000000
  pass (131072 + q).toNat 131072 { s with time := { s.time with res := acc - q * 1000000 } }

/-! ## Firing (R194-R203) -/

/-- What a fired stroke tells the blocks that act on it (R36, R37, R197). -/
structure StrokeInfo where
  k        : Nat
  count    : Nat
  at_      : Int
  interval : Int
  /-- the first stroke after a stop, and the first under a new definition -/
  started  : Bool
  newDef   : Bool
  stopped  : Bool
  /-- counts that a jump passed over -/
  passed   : Option (Nat × Nat)
  deriving DecidableEq, Repr, Inhabited

/-- Δ′ and m of a jump, Δ = Δ′ + m × P, with Δ′ in [−P/2, P/2), in units of 2^-16 / NUM ns (R201). -/
def GenDef.reduce (d : GenDef) (x : Int) : Int × Int :=
  let m := (2 * x + d.per) / (2 * d.per)
  (x - m * d.per, m)

/-- The slew step for the interval that starts at the stroke of running-clock time `now` (R199, R202, R577), in 2^-16 ns,
with the generator before it, and whether the first offset of a run outside W has been met. -/
def slewStep (k : Nat) (d : GenDef) (g : Gen) (now : Int) (s : State) : Gen × Int × Bool :=
  let smax : Int := ((s.fld (fGen_SLEW_MAX_SLEW_MAX k) * nsU : Nat) : Int)
  if s.follows k then (g, 0, false)
  else if d.src = 1 then
    match g.ins.find? (fun m => decide (m.at_ + ((1000 * nsU : Nat) : Int) ≤ now)) with
    | none => ({ g with outside := false }, 0, false)
    | some m =>
      let w : Int := ((s.fld (fGen_CAPTURE_WIN_CAPTURE_WIN k) * 1000 * nsU : Nat) : Int)
      if m.used || g.inLost then (g, 0, false)
      else if m.ofs.natAbs ≤ w ∧ 2 * m.ofs.natAbs * d.num ≤ d.per then
        let v := max (-smax) (min smax m.ofs)
        ({ g with outside := false, ins := g.ins.map fun x => if x.at_ = m.at_ ∧ v ≠ 0 then { x with used := true } else x }, v, false)
      else ({ g with outside := true }, 0, !g.outside)
  else if d.src = 0 then
    let v := max (-smax) (min smax (-g.resid))
    ({ g with resid := g.resid + v }, v, false)
  else (g, 0, false)

/-- The first stroke with no slew step after a run of them (R200). -/
def slewEnd (k : Nat) (ends : Bool) (s : State) : State := if ends then raise_ (fGen_EVENT_SLEW_DONE k) s else s

/-- The stroke after the one fired at running-clock time `now` (R197, R201-R203): what is fixed of its interval, and the
events of the moves; a jump or step takes the place of the slew step of the measurements made so far. -/
def plan (k : Nat) (g : Gen) (d : GenDef) (count : Nat) (now : Int) (s : State) : State :=
  let ripe (acc : Nat) : Bool := decide (((acc + 1000 * nsU : Nat) : Int) ≤ now)
  let jump : Option JumpCmd := match g.jump with | some c => if ripe c.acc then some c else none | none => none
  let due := g.follow.filter fun f => ripe f.1
  let rest := g.follow.filter fun f => !ripe f.1
  let lag : Int := rest.foldl (fun a f => a + f.2) 0
  if jump.isSome || !due.isEmpty then
    let (dj, mj) := match jump with | some c => d.reduce (c.delta * 65536 * d.num) | none => (0, 0)
    let e := dj - due.foldl (fun a f => a + f.2) 0 * d.num
    let j := g.j + 1 - (d.reduce e).2
    let ofs := g.ofs + dj
    let next := d.instant ofs j + lag
    let c2 := ((j + g.m + mj) % 4294967296).toNat
    let gap := (c2 + 4294967296 - count - 1) % 4294967296
    let s1 := s.setGen k { g with ofs := ofs, m := g.m + mj, j := j, at_ := next, follow := rest, jump := none
                                  jumpMk := true, sent := false, slewing := false
                                  ins := g.ins.map fun m => if m.at_ ≤ now then { m with used := true } else m
                                  passed := if 0 < gap ∧ gap < 2147483648 then
                                      some ((count + 1) % 4294967296, (c2 + 4294967295) % 4294967296) else none }
    let s2 := raise_ (fGen_EVENT_JUMPED k) (slewEnd k g.slewing s1)
    match jump with
    | some c => complete c.hdr eOk (strokeResult c2 next) s2
    | none => s2
  else
    let (g1, v, out) := slewStep k d g now s
    let ofs := g1.ofs + v * d.num
    let j := g.j + 1
    let s1 := s.setGen k { g1 with ofs := ofs, j := j, at_ := d.instant ofs j + lag, slewing := v ≠ 0, sent := false }
    let s2 := if out then raise_ (fGen_EVENT_IN_OUTSIDE k) s1 else s1
    slewEnd k (g.slewing && v == 0) s2

/-- STKk.OFS becomes ready (R15), in ns (DEDUCED, log entry 20). -/
def showOfs (k : Nat) (s : State) : State :=
  let g := s.gen k
  match g.d with
  | none => s.resultReady (rGen_OFS k)
  | some d => (s.setSFld (fGen_OFS_OFS k) ((2 * g.ofs + 65536 * d.num) / (2 * 65536 * d.num))).resultReady (rGen_OFS k)

/-- A member fires the stroke of a marker that came before any definition of the generator (R171), the first of them starting it;
the interval to the next stroke is open (DESIGN CHOICE, log entry 96). -/
def fireBare (k count : Nat) (t : Int) (s : State) : State × Option StrokeInfo :=
  let g := s.gen k
  let s1 := (advanceTo (interp t s) s).tick
  let ival : Int := ((Config.bareInterval s.free).toNat : Int)
  let s2 := (s1.setGen k { g with last := some (count, t), fired := t, bare := none, marked := false, late := false
                                  interval := ival, passed := none, bareRun := true }).setFld (fGen_COUNT_COUNT k) count
  (if g.bareRun then s2 else raise_ (fGen_EVENT_STARTED k) (s2.setFld (fGen_DEF_RUN k) 1),
   some ⟨k, count, t, ival, !g.bareRun, !g.bareRun, false, g.passed⟩)

/-- The next stroke of generator `k` fires, if one is to come (R194-R203). -/
def fire (k : Nat) (s : State) : State × Option StrokeInfo :=
  let g := s.gen k
  let isNew := g.nextIsNew
  match (if isNew then g.new.map (·.d) else g.d) with
  | none => match g.bare with | some (c, t) => fireBare k c t s | none => (s, none)
  | some d =>
    let t := g.nextAt
    let count := g.nextCount
    let now := s.upOf t
    let s1 := advanceTo (interp t s) s
    let g0 : Gen := if isNew then { g with d := some d, ofs := 0, m := 0, resid := 0, j := (g.new.map (·.j)).getD 0, at_ := t,
                                           new := none, follow := [], outside := false,
                                           ins := g.ins.map ({ · with used := true }), noEdge := 0, inLost := false } else g
    let g1 : Gen := { g0 with last := some (count, t), fired := t, passed := none, noEdge := g0.noEdge + 1, marked := false, late := false
                              jumpMk := false, fresh := false, restart := false, bareRun := false }
    let started := g.d.isNone || g.restart
    let applied := isNew || g.fresh
    let s2 := (s1.setGen k g1).setFld (fGen_COUNT_COUNT k) count
    let s3 := if applied then (showDef k d s2).setFld (fGen_DEF_RUN k) 1 else s2
    let s4 := if started then raise_ (fGen_EVENT_STARTED k) s3 else s3
    let s5 := if applied then raise_ (fGen_EVENT_DEF_APPLIED k) s4 else s4
    let stopped := g.stop && !isNew
    let s6 := if stopped then
        raise_ (fGen_EVENT_STOPPED k) ((showOfs k ((slewEnd k g1.slewing s5).setGen k
          { g1 with stop := false, d := none, jump := none, follow := [], sent := false, slewing := false })).setFld (fGen_DEF_RUN k) 0)
      else showOfs k (plan k g1 d count now s5)
    let interval := if stopped then (2 * d.per + d.num) / (2 * d.num) else (s6.gen k).nextAt - t
    (s6.modGen k ({ · with interval := interval }),
     some ⟨k, count, t, interval, started, isNew || (g.fresh && !g.bareRun), stopped, g.passed⟩)

/-! ## STROKE_IN (R198, R200) -/

/-- The running generator with SRC = 1, if any; one that follows its crew's markers has none (R172, R198). -/
def State.inGen (s : State) : Option Nat :=
  (List.range 4).find? fun k => ((s.gen k).d.map (·.src)) == some 1 && !s.follows k

/-- The offset of an edge: the edge's instant minus the nearest stroke's, whether fired or scheduled, in [−P/2, P/2), in
2^-16 ns (R198). -/
def Gen.edgeOfs (g : Gen) (d : GenDef) (t : Int) : Int :=
  let next := t - g.nextAt
  let o := if g.last.isSome ∧ (t - g.fired).natAbs < next.natAbs then t - g.fired else next
  let x := (d.reduce (o * d.num)).1
  (2 * x + d.num) / (2 * d.num)

/-- The measurements that a stroke to come can still use, once one is made at `u` (R199). -/
def recentIns (u : Int) (l : List InOfs) : List InOfs :=
  let (a, b) := l.span fun m => decide (u < m.at_ + ((1000 * nsU : Nat) : Int))
  a ++ b.take 4

/-- STROKE_IN_EDGE: on the selected edge, captured at 1/16 ns, the offset to the nearest stroke is measured (R183, R198). -/
def execStrokeInEdge (falling : Bool) (at_ : Nat) (s : State) : Host.Outcome State Fault Refusal :=
  .next (
    if falling != s.on fStk_IN_CFG_POL then s
    else match s.inGen with
      | none => s
      | some k =>
        let g := s.gen k
        let t := interp at_ s
        let o := match g.d with | some d => g.edgeOfs d t | none => 0
        let s1 := s.setGen k { g with ins := ⟨o, s.upOf t, false⟩ :: recentIns (s.upOf t) g.ins, noEdge := 0, inLost := false }
        (s1.setSFld (fGen_IN_OFS_IN_OFS k) ((2 * o + 65536) / 131072)).resultReady (rGen_IN_OFS k))

/-- IN_LOST: four strokes without an edge stop the slewing (R200). -/
def execInLost (s : State) : Host.Outcome State Fault Refusal :=
  .next (
    match s.inGen with
    | none => s
    | some k =>
      let g := s.gen k
      if 4 ≤ g.noEdge ∧ !g.inLost then raise_ (fGen_EVENT_IN_LOST k) (s.setGen k { g with inLost := true })
      else s)

/-! ## Reference clock, pulses and PTM (R184, R192, R206) -/

/-- D_TB changes its source: the timebase's phase moves by at most 1 ns (R184) (DESIGN CHOICE, log entry 127). -/
def tbSwitch (s : State) : State :=
  { s with tb := ((s.tb : Int) + max (-65536) (min 65536 (Config.tbclkPhase s.free))).toNat }.tick

/-- TBCLK_LOST (R184). -/
def execTbclkLost (s : State) : Host.Outcome State Fault Refusal :=
  .next (if s.on fCox_TB_STAT_TBCLK_LOST then s
    else raise_ fCox_TB_EVENT_TBCLK_LOST ((tbSwitch s).setFld fCox_TB_STAT_TBCLK_LOST 1))

/-- TBCLK_BACK (R184). -/
def execTbclkBack (s : State) : Host.Outcome State Fault Refusal :=
  .next (if s.on fCox_TB_STAT_TBCLK_LOST then raise_ fCox_TB_EVENT_TBCLK_BACK ((tbSwitch s).setFld fCox_TB_STAT_TBCLK_LOST 0) else s)

/-- D_TB runs: not in P3 (R442), nor while the device is held in reset (DESIGN CHOICE, log entry 22). -/
def State.tbRuns (s : State) : Bool := s.fld fPwr_STATE_STATE != 3 && !s.dark

/-- PPS: the nanoseconds field passes 0 as the timebase advances, and PPS_OUT rises; where an earlier event has brought the
timebase onto this second, the pulse has risen then (R206) (DESIGN CHOICE, log entry 2). -/
def execPps (s : State) : Host.Outcome State Fault Refusal :=
  let s1 := if s.time.ppsAt = some s.tb then s else advanceTo (((s.tb / secU + 1) * secU : Nat) : Int) s
  .next (if !s.tbRuns then s else { s1 with time := { s1.time with ppsAt := none } })

/-- A write of OUT_CTL that sets an enable bit drives its ball low; one that clears it releases the ball at the end of the
pulse in progress (R207). -/
def outCtlChanged (w : W32) (s : State) : State :=
  let v := s.reg rCox_OUT_CTL
  let s1 := if v.getLsbD 31 == w.getLsbD 31 ∨ s.time.soEnd.isSome then s
    else s.emit (.pin "STROKE_OUT" (if v.getLsbD 31 then some false else none))
  if v.getLsbD 15 == w.getLsbD 15 ∨ s.time.ppsEnd.isSome then s1
  else s1.emit (.pin "PPS_OUT" (if v.getLsbD 15 then some false else none))

/-- A PTM dialog starts (R192). -/
def ptmStart (s : State) : State :=
  if s.on fCox_PTM_CTL_EN && s.host.cfg.ptm then { s.emit .ptmRequest with time := { s.time with ptm := s.time.ptm ++ [s.tb] } } else s

/-- PTM_DIALOG: PTM_CTL.INTERVAL ends (R192). -/
def execPtmDialog (s : State) : Host.Outcome State Fault Refusal := .next (ptmStart s)

/-- A write of PTM_CTL: GO starts one dialog (R192, R208). -/
def writePtmCtl (v : W32) (s : State) : State :=
  match firstFail [(v.getLsbD 31 && !s.host.cfg.ptm, eState), (bits v 15 0 == 0, eRange)] with
  | some st => rejectReg rCox_PTM_CTL st s
  | none =>
    let s1 := (s.setFld fCox_PTM_CTL_EN (bits v 31 31)).setFld fCox_PTM_CTL_INTERVAL (bits v 15 0)
    if v.getLsbD 30 then ptmStart s1 else s1

/-- PTM_GO (R192). -/
def execPtmGo (v : W32) (s : State) : Host.Outcome State Fault Refusal := .next (hostAccess (fun s => writePtmCtl v s) s)

/-- PTM_DONE: the pair of times is recorded and PTM_STAT becomes ready (R192, R193); `dev` is the device's time of the request as
it measured it, within 8 ns of the timebase then, `host` the PTM Master Time in ns. -/
def execPtmDone (dev host : Nat) (s : State) : Host.Outcome State Fault Refusal :=
  .next (
    match s.time.ptm with
    | [] => s
    | t :: r =>
      let s1 := { s with time := { s.time with ptm := r } }
      let at_ := max (t - 8 * nsU) (min (t + 8 * nsU) dev)
      let s2 := (((s1.setFld fCox_PTM_DEV_NS_NS (tbNs at_)).setFld fCox_PTM_DEV_SEC_LO_SEC (tbSec at_)).setFld
        fCox_PTM_DEV_SEC_HI_SEC (tbSec at_ / 2 ^ 32)).setPair rCox_PTM_HOST_LO rCox_PTM_HOST_HI host
      (s2.incWrap fCox_PTM_STAT_SEQ).resultReady rCox_PTM_STAT)

/-- PTM_FAIL (R192). -/
def execPtmFail (s : State) : Host.Outcome State Fault Refusal :=
  .next (if s.time.ptm.isEmpty then s
    else raise_ fCox_TB_EVENT_PTM_FAIL { s with time := { s.time with ptm := s.time.ptm.drop 1 } })

end Sys2Proof.Machine
end

