-- ==== Sys2Proof/Machine/Servo.lean ====
section
/-! DEFINITION. The discipline of the timebase: the firmware servo and the registers that select and feed it
(R186-R188). -/

namespace Sys2Proof.Machine

/-- The servo returns to FREERUN where the second row of R188 says so. -/
def servoCheck (s : State) : State :=
  if s.servo ≠ svCrew ∧ (s.fld fCox_TB_CTL_SERVO ≠ 1 ∨ !s.houseRuns) then (noteLocked s).setServo svFreerun else s

/-- The device becomes a crew member, or stops being one (R188). -/
def servoToCrew (s : State) : State := (noteLocked s).setServo svCrew
def servoLeaveCrew (s : State) : State := if s.servo = svCrew then servoCheck (toHoldover s) else s

/-- The loop steers the frequency: at most `ppm` parts per million for each second of the `dur` since the last sample (R188) (DESIGN
CHOICE, log entry 19). -/
def steer (ppm dur : Nat) (x : Int) (s : State) : State :=
  let lim : Int := ((ppm * 65536 * dur / secU : Nat) : Int)
  let f := s.sfld fCox_TB_FREQ_FREQ
  let want := Config.servoFreq (s.fld fCox_SERVO_CFG_BW) x f s.free
  s.tick.setSFld fCox_TB_FREQ_FREQ (max (f - lim) (min (f + lim) want))

/-- One offset sample `x`, in 2^-16 ns, reaches the servo (R188) (DESIGN CHOICE, log entry 19). -/
def servoSample (x : Int) (s : State) : State :=
  let thr : Nat := s.fld fCox_SERVO_CFG_STEP_THR * nsU
  let st := s.servo
  let s0 := noteLocked s
  let dur := s.up - s.time.lastAt
  let s1 :=
    if st = svCrew ∨ !s.houseRuns then s
    else if st = svFreerun ∨ st = svHoldover then s.setServo svAcquire
    else if st = svAcquire then
      if thr < x.natAbs then
        let a := stepTimebase (-x) s
        { a with time := { a.time with runIn := 0 } }
      else
        let n := if x.natAbs < 100 * nsU then s.time.runIn + 1 else 0
        let a := steer 20 dur x { s with time := { s.time with runIn := n } }
        if 16 ≤ n then raise_ fCox_TB_EVENT_LOCKED (a.setServo svLocked) else a
    else
      if thr < x.natAbs then
        let n := s.time.runOut + 1
        if 4 ≤ n then s0.setServo svAcquire else { s0 with time := { s0.time with runOut := n } }
      else steer 1 dur x { s0 with time := { s0.time with runOut := 0 } }
  { s1 with time := { s1.time with lastAt := s1.up } }

/-- A write of SERVO_IN_HI delivers the 64-bit sample (R13, R188, R208). -/
def writeServoHi (fn : Nat) (v : W32) (s : State) : State :=
  if s.fld fCox_TB_CTL_SERVO ≠ 1 then rejectReg rCox_SERVO_IN_HI eState (s.dropLo fn rCox_SERVO_IN_LO)
  else
    let lo := s.heldLo fn rCox_SERVO_IN_LO s.time.servoLo
    let s1 := s.dropLo fn rCox_SERVO_IN_LO
    servoSample (signed 64 (lo + 2 ^ 32 * v.toNat)) { s1 with time := { s1.time with servoLo := lo } }

/-- SERVO_SAMPLE (R13, R188, R208). -/
def execServoSample (fn : Nat) (v : W32) (s : State) : Host.Outcome State Fault Refusal :=
  .next (hostAccess (writeServoHi fn v) s)

/-- SERVO_HOLDOVER: no sample for SERVO_CFG.HOLD_S (R188). -/
def execServoHoldover (s : State) : Host.Outcome State Fault Refusal :=
  .next (if s.servo = svAcquire ∨ s.servo = svLocked then raise_ fCox_TB_EVENT_HOLDOVER (toHoldover s) else s)

/-- A write of TB_CTL (R186, R188). -/
def writeTbCtl (v : W32) (s : State) : State :=
  if bits v 1 0 = 3 then rejectReg rCox_TB_CTL eRange s else servoCheck (s.setFld fCox_TB_CTL_SERVO (bits v 1 0))

/-- A write of TB_FREQ (R187). -/
def writeTbFreq (v : W32) (s : State) : State :=
  let x := signed 32 v.toNat
  match firstFail [(s.fld fCox_TB_CTL_SERVO == 1 || s.role == roleMember, eState), (decide (500 * 65536 < x.natAbs), eRange)] with
  | some st => rejectReg rCox_TB_FREQ st s
  | none => s.setReg rCox_TB_FREQ v

/-- A write of SERVO_IN_LO: held, unless SERVO ≠ 1 (R13, R208). -/
def writeServoLo (fn : Nat) (v : W32) (s : State) : State :=
  if s.fld fCox_TB_CTL_SERVO ≠ 1 then rejectReg rCox_SERVO_IN_LO eState s else s.holdLo fn rCox_SERVO_IN_LO v

end Sys2Proof.Machine
end

