-- ==== Sys2Proof/Machine/Shuttle.lean ====
section
/-! DEFINITION. The shuttle's datapath and instructions: registers, pointers, loops, streams, faults and each instruction
class (R300-R324, R333). -/

namespace Sys2Proof.Machine

/-- The fault kinds of SHnn.FAULT (R335). -/
abbrev shIllegal := 1
abbrev shLoop := 2
abbrev shStack := 3
abbrev shPriv := 4
abbrev shMem := 5

/-- SHnn.STAT.STATE (R325). -/
abbrev stOff := 0
abbrev stLoaded := 1
abbrev stRun := 2
abbrev stHalted := 3
abbrev stFault := 4

def State.shState (s : State) (n : Nat) : Nat := s.fld (fSh_STAT_STATE n)
def State.shPc (s : State) (n : Nat) : Nat := s.fld (fSh_PC_PC n)

/-! ## Registers (R306) -/

/-- The register exists (R306). -/
def sregOk : SReg → Bool
  | .a n => decide (n < 4) | .d n => decide (n < 8)
  | .px n | .py n | .sx n | .sy n | .bx n | .by_ n | .lx n | .ly n | .sc n => decide (n < 4)
  | .lc n => decide (n < 3)
  | .mr | .sr | .ev | .tmr | .mba | .mbb | .lv | .sid => true

/-- The bits that a write of a register changes (R306): MR keeps SAT and SR its eight flags; LV, SID and the mailbox
words take none. -/
def sregBits : SReg → Nat
  | .a _ => 56
  | .d _ | .ev | .tmr | .sc _ => 24
  | .px _ | .py _ | .sx _ | .sy _ | .bx _ | .by_ _ | .lx _ | .ly _ => 14
  | .lc _ => 16
  | .mr => 1
  | .sr => 8
  | .mba | .mbb | .lv | .sid => 0

/-- What a register holds. -/
def State.sv (s : State) (n : Nat) (r : SReg) : Nat := Tab.get 0 (s.shut n).regs r
def State.sA (s : State) (n i : Nat) : A56 := BitVec.ofNat 56 (s.sv n (.a i))
def State.sD (s : State) (n i : Nat) : D24 := BitVec.ofNat 24 (s.sv n (.d i))
/-- MR.SAT (R303). -/
def State.sSat (s : State) (n : Nat) : Bool := s.sv n .mr % 2 == 1

/-- A register written; SHnn.STAT shows SAT and CLIP, and a write of TMR restarts its count (R324, R335). -/
def State.setSv (s : State) (n : Nat) (r : SReg) (v : Nat) : State :=
  let w := v % 2 ^ sregBits r
  if sregBits r = 0 then s
  else
    let s1 := s.modShut n fun h => { h with regs := Tab.set h.regs r w, tmrAt := if r = .tmr then h.gateAt.getD s.up else h.tmrAt }
    match r with
    | .mr => s1.setFld (fSh_STAT_SAT n) (w % 2)
    | .sr => s1.setFld (fSh_STAT_CLIP n) (w / 16 % 2)
    | _ => s1

/-- TMR now: D_SHUT cycles of 0.8 ns since the write have been counted off (R324) (DEDUCED, log entry 50). -/
def State.tmrNow (s : State) (n : Nat) : Nat := s.sv n .tmr - ((s.shut n).gateAt.getD s.up - (s.shut n).tmrAt) * 5 / (4 * nsU)

/-- The mailbox (R322) with SHnn.MBOX.LEVEL. -/
def State.setMbox (s : State) (n : Nat) (m : List (Nat × Nat)) : State :=
  (s.modShut n ({ · with mbox := m })).setFld (fSh_MBOX_LEVEL n) m.length

/-- A register read as a number of its width; steps read with their sign. Reading MBB removes the message; an empty
mailbox reads a free value (R306) (DESIGN CHOICE, log entry 46; DEDUCED, log entry 47). -/
def readSv (n : Nat) (r : SReg) (s : State) : Nat × State :=
  match r with
  | .tmr => (s.tmrNow n, s)
  | .mba => match (s.shut n).mbox with
    | m :: _ => (m.1, s)
    | [] => ((Config.freeWord s.free).toNat, s.tick)
  | .mbb => match (s.shut n).mbox with
    | m :: l => (m.2, s.setMbox n l)
    | [] => ((Config.freeWord s.free).toNat, s.tick)
  | .lv => ((s.shut n).loops.length, s)
  | .sid => (n, s)
  | .sx i => (unsigned 24 (signed 14 (s.sv n (.sx i))), s)
  | .sy i => (unsigned 24 (signed 14 (s.sv n (.sy i))), s)
  | r => (s.sv n r, s)

/-- SR updated by `f`. -/
def State.modSr (s : State) (n : Nat) (f : Nat → Nat) : State := s.setSv n .sr (f (s.sv n .sr))

/-! ## Memories and pointers (R305, R307) -/

/-- The pointer after an access: in its ring where it has one and lies in it, else over the whole memory (R307). -/
def ptrAfter (p b l : Nat) (step : Int) : Nat :=
  let o := (p + 16384 - b) % 16384
  if l ≠ 0 ∧ o < l then ((b + ((o : Int) + step) % l) % 16384).toNat else (((p : Int) + step) % 16384).toNat

/-- The pointer, step, base and length registers of an access through X or Y. -/
def ptrRegs (y : Bool) (i : Nat) : SReg × SReg × SReg × SReg :=
  if y then (.py i, .sy i, .by_ i, .ly i) else (.px i, .sx i, .bx i, .lx i)

/-- The address that an access uses (R307). -/
def State.ptrAddr (s : State) (n : Nat) (y : Bool) (i : Nat) : Nat := s.sv n (ptrRegs y i).1

/-- The pointer's update after an access (R307). -/
def bumpPtr (n : Nat) (y : Bool) (i : Nat) (u : Upd) (s : State) : State :=
  let (p, st, b, l) := ptrRegs y i
  match u with
  | .none => s
  | .inc => s.setSv n p (ptrAfter (s.sv n p) (s.sv n b) (s.sv n l) 1)
  | .dec => s.setSv n p (ptrAfter (s.sv n p) (s.sv n b) (s.sv n l) (-1))
  | .step => s.setSv n p (ptrAfter (s.sv n p) (s.sv n b) (s.sv n l) (signed 14 (s.sv n st)))

/-- A word of X or Y. -/
def State.xy (s : State) (n : Nat) (y : Bool) (a : Nat) : D24 :=
  BitVec.ofNat 24 (if y then Tab.get 0 (s.shut n).y a else Tab.get 0 (s.shut n).x a)
def State.setXy (s : State) (n : Nat) (y : Bool) (a : Nat) (w : D24) : State :=
  s.modShut n fun h => if y then { h with y := Tab.set h.y a w.toNat } else { h with x := Tab.set h.x a w.toNat }

/-! ## Output streams (R317-R320) -/

/-- The words of a block: the samples missing at its start and end are 0, each sign-extended to 32 bits (R318, R319). -/
def OutBlock.words32 (b : OutBlock) (chans : Nat) : List Nat :=
  let w := List.replicate (b.skip * chans) 0 ++ b.words.map (fun v => unsigned 32 (signed 24 v))
  w ++ List.replicate (48 * chans - w.length) 0

/-- A stream's block is written to its slot (R319) (DESIGN CHOICE, log entry 46). -/
def writeBlock (n : Nat) (t : OutStr) (b : OutBlock) (s : State) : State :=
  let w := if b.whole then 1 else 0
  let head := leBytes 6 (48 * b.idx) ++ leBytes 2 (2 + w) ++ tbBytes b.t0 ++ tbBytes b.t1 ++ List.replicate 8 0 ++ leBytes 4 w ++
    leBytes 8 (Config.streamHdr s.free) ++ leBytes 1 w ++ List.replicate 11 0
  let bolt := s.bolt t.bolt
  let s1 := beamWrite (whoShuttle n) (bolt.slotAt b.idx) (head ++ (b.words32 t.chans).flatMap (leBytes 4)) s.tick
  s1.modBolt t.bolt fun x => { x with newest := some (max b.idx (x.newest.getD 0)) }

/-- The index of the block that a stream fills (R320). -/
def OutStr.filling (t : OutStr) : Option Nat :=
  match t.cur with | some b => some b.idx | none => t.next.map (· / 48)

/-- One word moves from a stream's FIFO into its block; a block that is full ends (R317, R319) (DEDUCED, log entry 48). -/
def OutStr.pull (t : OutStr) : OutStr :=
  match t.fifo with
  | [] => t
  | (w, at_) :: r =>
    let open_ : Option OutBlock := match t.cur with
      | some b => some b
      | none => t.next.map fun x => ⟨x / 48, x % 48, [], at_, at_, false⟩
    match open_ with
    | none => t
    | some b =>
      let b1 := { b with words := b.words ++ [w], t1 := at_ }
      if b1.words.length = (48 - b1.skip) * t.chans then
        { t with fifo := r, cur := none, next := some ((b1.idx + 1) * 48), done := t.done ++ [{ b1 with whole := b1.skip == 0 }] }
      else { t with fifo := r, cur := some b1 }

/-- Words move into the block until one waits to be written (DEDUCED, log entry 48). -/
def OutStr.drain : Nat → OutStr → OutStr
  | 0, t => t
  | k + 1, t => if t.done.isEmpty then OutStr.drain k t.pull else t

/-- A stream ends its block (R319): every word it holds goes into blocks, the last of which is cut short. -/
def OutStr.finish (t : OutStr) : OutStr :=
  let t1 := (List.range t.fifo.length).foldl (fun a _ => a.pull) t
  match t1.cur with
  | some b => { t1 with cur := none, done := t1.done ++ [b] }
  | none => t1

def State.str (s : State) (n o : Nat) : Option OutStr := Tab.find (s.shut n).strs o
def State.setStr (s : State) (n o : Nat) (t : OutStr) : State := s.modShut n fun h => { h with strs := Tab.set h.strs o t }

/-- Each stream ends its block and is unbound (R331) (DEDUCED, log entry 48). -/
def endStreams (n : Nat) (s : State) : State :=
  let s1 := (s.shut n).strs.foldl (fun a e =>
    let t := e.2.finish
    let b := t.done.foldl (fun c x => writeBlock n t x c) a
    b.modBolt e.2.bolt ({ · with writer := none })) s
  s1.modShut n ({ · with strs := [] })

/-! ## Stopping (R331, R333) -/

/-- SHnn.STAT.STATE changes, and with it what clocks run in P1 (R325, R442). -/
def State.setShState (s : State) (n st : Nat) : State := gateShuttles (s.setFld (fSh_STAT_STATE n) st)

/-- The effects of a stop: input FIFOs emptied, streams ended and unbound, and the new state (R331). -/
def stopShuttle (n st src : Nat) (s : State) : State :=
  let s1 := (endStreams n s).modShut n ({ · with fifos := [] })
  let s2 := ((s1.setShState n st).setFld (fSh_STAT_HALT_SRC n) src).setFld (fSh_STAT_BLOCKED n) 0
  if n < 4 then servoCheck s2 else s2

/-- SHUTTLE_FAULT: the shuttle stops at the faulting instruction (R333) (DEDUCED, log entry 50). -/
def shFault (n kind : Nat) (s : State) : State :=
  let s1 := ((stopShuttle n stFault 0 s).setFld (fSh_FAULT_KIND n) kind).setFld (fSh_FAULT_FPC n) (s.shPc n)
  raise_ (fSh_EVENT_FAULT n) s1

/-! ## Sequencing (R312, R313) -/

/-- How an instruction ends. -/
inductive InsEnd where
  | done
  | goto (pc : Nat)
  | stay (why : Nat)
  | fault (kind : Nat)
  | halt
  deriving DecidableEq, Repr

def State.setPc (s : State) (n pc : Nat) : State := s.setFld (fSh_PC_PC n) pc

/-- The levels open at the current call depth, innermost first (R312). -/
def Shuttle.here (h : Shuttle) : List LoopLvl := h.loops.takeWhile (·.depth == h.stack.length)

/-- The instruction at `pc` is the last of an open body at the current call depth. -/
def Shuttle.lastOfBody (h : Shuttle) (pc : Nat) : Bool := h.here.any (·.last == pc)

/-- The body of a level contains an address. -/
def LoopLvl.contains (l : LoopLvl) (t : Nat) : Bool :=
  decide ((t + 65536 - l.first) % 65536 ≤ (l.last + 65536 - l.first) % 65536)

/-- The instruction at `pc` has completed: a body that ends there ends its pass, and after its final pass its level
closes (R312) (DEDUCED, log entry 47). -/
def passEnd : Nat → Nat → Nat → State → State
  | 0, n, pc, s => s.setPc n (pc + 1)
  | k + 1, n, pc, s =>
    let h := s.shut n
    match h.loops with
    | [] => s.setPc n (pc + 1)
    | l :: r =>
      if l.depth = h.stack.length ∧ l.last = pc then
        let left := s.sv n (.lc r.length)
        let s1 := s.setSv n (.lc r.length) (left - 1)
        if left ≤ 1 then passEnd k n pc (s1.modShut n ({ · with loops := r })) else s1.setPc n l.first
      else s.setPc n (pc + 1)

/-- After an instruction that runs on: under a REP it repeats, else the next one follows (R312, R313). -/
def advance (n pc : Nat) (s : State) : State :=
  match (s.shut n).rep with
  | some k => if 1 < k then s.modShut n ({ · with rep := some (k - 1) }) else passEnd 3 n pc (s.modShut n ({ · with rep := none }))
  | none => passEnd 3 n pc s

/-- A step of the tagging LFSR of x^16 + x^14 + x^13 + x^11 + 1 (R524), in one of its four forms: Fibonacci or Galois, shifting
up or down (DESIGN CHOICE, log entry 74). -/
def tagLfsr (x : BitVec 16) : BitVec 16 :=
  let bit (b : Bool) (i : Nat) : BitVec 16 := if b then BitVec.ofNat 16 (2 ^ i) else 0
  match Config.lfsrForm.toNat with
  | 0 => (x <<< 1) ||| bit (x.getLsbD 15 ^^ x.getLsbD 13 ^^ x.getLsbD 12 ^^ x.getLsbD 10) 0
  | 1 => (x >>> 1) ||| bit (x.getLsbD 0 ^^ x.getLsbD 2 ^^ x.getLsbD 3 ^^ x.getLsbD 5) 15
  | 2 => if x.getLsbD 15 then (x <<< 1) ^^^ 0x6801#16 else x <<< 1
  | _ => if x.getLsbD 0 then (x >>> 1) ^^^ 0xB400#16 else x >>> 1

/-- TAG_DONE: tagging counts the instruction off, and a tagged one leaves its record (R524, R525) (DESIGN CHOICE, log entry 74). -/
def tagIns (n pc : Nat) (s : State) : State :=
  if !s.on (fSh_TAG_CTL_EN n) then s
  else
    let h := s.shut n
    if 1 < h.tagIn then s.setShut n { h with tagIn := h.tagIn - 1 }
    else
      let k := s.fld (fSh_TAG_CTL_K n)
      let s1 := s.setShut n { h with tagIn := 2 ^ (k - 1) + h.lfsr % 2 ^ k, lfsr := (tagLfsr (BitVec.ofNat 16 h.lfsr)).toNat }
      let s2 := (s1.tick.setFld (fSh_TAG_PC_PC n) pc).setFld (fSh_TAG_STAGE_CYC n) (Config.tagCycles s.free)
      count .sh n 9 {} 1 (s2.resultReady (rSh_TAG_PC n))

/-- The P word at an address, and the class that its bits 47:44 select (R308). -/
def State.pWord (s : State) (n pc : Nat) : BitVec 48 := Tab.get 0 (s.shut n).p pc
def insClass (w : BitVec 48) : Nat := w.toNat / 2 ^ 44

/-- The word is illegal by its class: a reserved class, or a HALT with a bit of 43:0 set (R308). -/
def classBad (w : BitVec 48) : Bool := decide (9 ≤ insClass w) || (insClass w == 0 && w != 0)

/-- REP may repeat the word: no HALT, DO, REP, branch, call, return, SEND or WAIT (R313). -/
def classRepeats (w : BitVec 48) : Bool := w != 0 && insClass w != 5 && insClass w != 6 && insClass w != 8

/-- One instruction of class `cls`, which the word at PC selects, of a shuttle in RUN whose clock runs: `body` is what it does (R308, R311,
R442); a word of another class is not that instruction, and an illegal one faults (DEDUCED, log entry 83); a parity error on a word that it
reads stops it (R333). -/
def runIns (at_ : ShAt) (cls : Nat) (body : State → State × InsEnd) (s : State) : State :=
  let n := at_.sh
  let w := s.pWord n (s.shPc n)
  if 96 ≤ n ∨ s.shState n ≠ stRun ∨ s.shGated n then s
  else
    let pc := s.shPc n
    let s0 := s.setFld (fSh_STAT_BLOCKED n) 0
    let issued (a : State) : State :=
      let b := count .sh n 1 {} 1 (tagIns n pc a)
      if cls = 2 then count .sh n 2 {} 1 b else if cls = 3 then count .sh n 2 {} 2 b else b
    if at_.par then shFault n shMem s0
    else if classBad w then shFault n shIllegal s0
    else if insClass w ≠ cls then s
    else if !classRepeats w && (s.shut n).rep.isSome then shFault n shLoop s0
    else match body s0 with
      | (a, .done) => advance n pc (issued a)
      | (a, .goto t) => (issued a).setPc n t
      | (_, .stay why) => s0.setFld (fSh_STAT_BLOCKED n) why
      | (_, .fault k) => shFault n k s0
      | (a, .halt) => raise_ (fSh_EVENT_HALTED n) (stopShuttle n stHalted 1 ((issued a).setPc n (pc + 1)))

/-! ## HALT, ALU, MAC, dual MAC (R301-R310) -/

/-- HALT (R308, R331). -/
def execHalt (at_ : ShAt) (s : State) : Host.Outcome State Fault Refusal :=
  .next (runIns at_ 0 (fun a =>
    if (a.shut at_.sh).lastOfBody (a.shPc at_.sh) then (a, .fault shLoop) else (a, .halt)) s)

/-- An ALU operand exists. -/
def adOk : AD → Bool
  | .acc i => decide (i < 4)
  | .dat i => decide (i < 8)

/-- An operand as an accumulator value (R300). -/
def State.adA (s : State) (n : Nat) : AD → A56
  | .acc i => s.sA n i
  | .dat i => widen (s.sD n i)

/-- An operand as a data word (R303), and whether the conversion sets Q (R304). -/
def State.adD (s : State) (n : Nat) : AD → D24 × Bool
  | .acc i => (narrow (s.sSat n) (s.sA n i), outside (s.sA n i))
  | .dat i => (s.sD n i, false)

/-- An ALU operation takes two operands (R308) (DEDUCED, log entry 47). -/
def aluTwo : AluOp → Bool
  | .add | .sub | .cmp | .and | .or | .xor => true
  | .neg | .abs | .clr | .asl | .asr | .rnd => false

/-- What an ALU instruction does (R302-R304, R308). CMP writes nothing but the flags (DEDUCED, log entry 47). -/
def aluBody (n : Nat) (op : AluOp) (dst src : AD) (shift : Nat) (s : State) : State × InsEnd :=
  if !adOk dst || !adOk src || decide (55 < shift) then (s, .fault shIllegal)
  else match dst with
    | .acc i =>
      let a := s.sA n i
      let b := s.adA n src
      let x := aluExact op a b shift
      let r := aluA op (s.sSat n) a b shift
      let s1 := s.modSr n fun f => srQ (resultFlags f (aluNum op + 16 * shift) r a.toInt b.toInt (fitsA x)) (!fitsA x)
      (if op = .cmp then s1 else s1.setSv n (.a i) r.toNat, .done)
    | .dat i =>
      let a := s.sD n i
      let (b, q) := s.adD n src
      let x := aluExact op a b shift
      let r := aluD op a b shift
      let s1 := s.modSr n fun f => srQ (resultFlags f (aluNum op + 16 * shift) r a.toInt b.toInt (fitsD op x)) (aluTwo op && q)
      (if op = .cmp then s1 else s1.setSv n (.d i) r.toNat, .done)

/-- ALU (R308). -/
def execAlu (at_ : ShAt) (op : AluOp) (dst src : AD) (shift : Nat) (s : State) : Host.Outcome State Fault Refusal :=
  .next (runIns at_ 1 (aluBody at_.sh op dst src shift) s)

/-- One MAC-class operation (R301-R304) on operands read from `r`. -/
def macOne (n : Nat) (op : MacOp) (i d1 d2 : Nat) (r s : State) : State :=
  let p := product (r.sD n d1) (r.sD n d2)
  let a := r.sA n i
  let v := macResult op (r.sSat n) a p
  let c := macClips op (r.sSat n) a p
  (s.setSv n (.a i) v.toNat).modSr n fun f => srQ (resultFlags f (macNum op) v a.toInt p (!c)) c

/-- A parallel transfer, its store from the registers of `r` (R309, R310). -/
def pxfer (n : Nat) (y : Bool) (t : PXfer) (r s : State) : State :=
  let a := r.ptrAddr n y t.ptr
  let s1 := if t.store then s.setXy n y a (r.sD n t.d) else s.setSv n (.d t.d) (r.xy n y a).toNat
  bumpPtr n y t.ptr t.upd s1

/-- A parallel transfer's fields are in range. -/
def pxferOk (t : PXfer) : Bool := decide (t.d < 8 ∧ t.ptr < 4)

/-- MAC (R301, R308, R310). -/
def execMac (at_ : ShAt) (op : MacOp) (acc d1 d2 : Nat) (y : Bool) (x : Option PXfer) (s : State) :
    Host.Outcome State Fault Refusal :=
  .next (runIns at_ 2 (fun a =>
    if decide (4 ≤ acc ∨ 8 ≤ d1 ∨ 8 ≤ d2) || !x.all pxferOk then (a, .fault shIllegal)
    else
      let b := macOne at_.sh op acc d1 d2 a a
      (match x with | some t => pxfer at_.sh y t a b | none => b, .done)) s)

/-- The operation of a two-bit field (R309). -/
def macOfBits (v : Nat) : MacOp := if v = 0 then .mac else if v = 1 then .msu else if v = 2 then .mpy else .macr

/-- The accumulators of OP1 and OP2 (R309). -/
def dualAccs (v : Nat) : Nat × Nat := if v = 0 then (0, 1) else if v = 1 then (2, 3) else if v = 2 then (0, 2) else (1, 3)

/-- A 13-bit transfer field (R309): none while EN is 0. -/
def dualXfer (v : Nat) : Option PXfer :=
  if v / 2 ^ 12 % 2 = 0 then none
  else some ⟨v / 2 ^ 11 % 2 == 1, v / 2 ^ 8 % 8, v / 2 ^ 6 % 4,
    if v / 16 % 4 = 0 then .none else if v / 16 % 4 = 1 then .inc else if v / 16 % 4 = 2 then .dec else .step⟩

/-- A bit field of an instruction word. -/
def wordBits (w : BitVec 48) (hi lo : Nat) : Nat := w.toNat / 2 ^ lo % 2 ^ (hi + 1 - lo)

/-- Both loads write one register: the spec gives no order (R309) (DESIGN CHOICE, log entry 46). -/
def loadsClash (x y : Option PXfer) : Option Nat :=
  match x, y with
  | some a, some b => if !a.store && !b.store && a.d == b.d then some a.d else none
  | _, _ => none

/-- What a dual MAC does: both operations read before either transfer writes (R309, R310). -/
def dualBody (n : Nat) (w : BitVec 48) (s : State) : State × InsEnd :=
  if wordBits w 47 44 ≠ 3 ∨ wordBits w 16 13 ≠ 0 ∨ wordBits w 3 0 ≠ 0 then (s, .fault shIllegal)
  else
    let (a1, a2) := dualAccs (wordBits w 39 38)
    let x := dualXfer (wordBits w 25 13)
    let y := dualXfer (wordBits w 12 0)
    let s1 := macOne n (macOfBits (wordBits w 43 42)) a1 (wordBits w 37 35) (wordBits w 34 32) s s
    let s2 := macOne n (macOfBits (wordBits w 41 40)) a2 (wordBits w 31 29) (wordBits w 28 26) s s1
    let s3 := match x with | some t => pxfer n false t s s2 | none => s2
    let s4 := match y with | some t => pxfer n true t s s3 | none => s3
    (match loadsClash x y with
     | some d => s4.tick.setSv n (.d d) (Config.freeWord s4.free).toNat
     | none => s4, .done)

/-- DUAL_MAC of the word at PC (R309). -/
def execDualMac (at_ : ShAt) (word : BitVec 48) (s : State) : Host.Outcome State Fault Refusal :=
  .next (if at_.par ∨ word = s.pWord at_.sh (s.shPc at_.sh) then runIns at_ 3 (dualBody at_.sh word) s else s)

/-! ## Transfers (R302, R303, R306, R307) -/

/-- A value written to a register: from an accumulator to another whole, else converted to 24 bits; a data word in an
accumulator lands in U (R300, R303). `acc` tells whether the value is an accumulator's. -/
def putValue (n : Nat) (dst : SReg) (acc : Bool) (v : Nat) (s : State) : State :=
  match dst, acc with
  | .a i, true => s.setSv n (.a i) v
  | .a i, false => s.setSv n (.a i) (widen (BitVec.ofNat 24 v)).toNat
  | r, true =>
    let a := BitVec.ofNat 56 v
    (s.modSr n fun f => srQ f (outside a)).setSv n r (narrow (s.sSat n) a).toNat
  | r, false => s.setSv n r v

/-- An accumulator as the rounded form of a transfer or OUT takes it, and whether rounding sets Q (R302, R304). -/
def State.rounded (s : State) (n i : Nat) (round : Bool) : A56 × Bool :=
  if round then (roundA (s.sSat n) (s.sA n i), roundQ (s.sA n i)) else (s.sA n i, false)

/-- What a transfer-class instruction does (DEDUCED, log entry 47). -/
def xferBody (n : Nat) (op : XferOp) (s : State) : State × InsEnd :=
  match op with
  | .move dst src round =>
    if !sregOk dst || !sregOk src then (s, .fault shIllegal)
    else match src with
      | .a i =>
        let (v, q) := s.rounded n i round
        (putValue n dst true v.toNat (s.modSr n fun f => srQ f q), .done)
      | r => let (v, s1) := readSv n r s; (putValue n dst false v s1, .done)
  | .imm dst v => if !sregOk dst then (s, .fault shIllegal) else (putValue n dst false (v % 2 ^ 24) s, .done)
  | .load y dst ptr upd =>
    if !sregOk dst || decide (4 ≤ ptr) then (s, .fault shIllegal)
    else (putValue n dst false (s.xy n y (s.ptrAddr n y ptr)).toNat (bumpPtr n y ptr upd s), .done)
  | .store y src ptr upd round =>
    if !sregOk src || decide (4 ≤ ptr) then (s, .fault shIllegal)
    else
      let a := s.ptrAddr n y ptr
      match src with
      | .a i =>
        let (v, q) := s.rounded n i round
        let s1 := s.modSr n fun f => srQ f (q || outside v)
        (bumpPtr n y ptr upd (s1.setXy n y a (narrow (s.sSat n) v)), .done)
      | r => let (v, s1) := readSv n r s; (bumpPtr n y ptr upd (s1.setXy n y a (BitVec.ofNat 24 v)), .done)

/-- TRANSFER (R307, R308). -/
def execTransfer (at_ : ShAt) (op : XferOp) (s : State) : Host.Outcome State Fault Refusal :=
  .next (runIns at_ 4 (xferBody at_.sh op) s)

/-! ## Loops and flow (R312, R313) -/

/-- A count operand: 16 bits (R312, R313). -/
def State.cnt (s : State) (n : Nat) : Cnt → Nat
  | .imm v => v
  | .dat i => s.sv n (.d i) % 65536

/-- A count operand is a 16-bit immediate or a data register. -/
def cntOk : Cnt → Bool
  | .imm v => decide (v < 65536)
  | .dat i => decide (i < 8)

/-- What DO does: it opens the next level, or skips a body of no passes (R312). -/
def doBody (n : Nat) (c : Cnt) (len : Nat) (s : State) : State × InsEnd :=
  let h := s.shut n
  let pc := s.shPc n
  if !cntOk c || decide (len < 1 ∨ 4096 < len) then (s, .fault shIllegal)
  else if 3 ≤ h.loops.length || h.lastOfBody pc
      || h.here.head?.any (fun l => decide ((l.last + 65536 - pc) % 65536 < len)) then (s, .fault shLoop)
  else if s.cnt n c = 0 then
    let s1 := passEnd 3 n ((pc + len) % 65536) s
    (s1, .goto (s1.shPc n))
  else
    let l : LoopLvl := ⟨(pc + 1) % 65536, (pc + len) % 65536, h.stack.length⟩
    ((s.setSv n (.lc h.loops.length) (s.cnt n c)).modShut n ({ · with loops := l :: h.loops }), .goto (pc + 1))

/-- DO (R312). -/
def execDo (at_ : ShAt) (cnt : Cnt) (len : Nat) (s : State) : Host.Outcome State Fault Refusal :=
  .next (runIns at_ 5 (doBody at_.sh cnt len) s)

/-- What REP does: the next instruction, if it may be repeated, runs COUNT times (R313). -/
def repBody (n : Nat) (c : Cnt) (s : State) : State × InsEnd :=
  let h := s.shut n
  let pc := s.shPc n
  if !cntOk c then (s, .fault shIllegal)
  else if h.lastOfBody pc || !classRepeats (s.pWord n ((pc + 1) % 65536)) then (s, .fault shLoop)
  else if s.cnt n c = 0 then
    let s1 := passEnd 3 n ((pc + 1) % 65536) s
    (s1, .goto (s1.shPc n))
  else (s.modShut n ({ · with rep := some (s.cnt n c) }), .goto (pc + 1))

/-- REP of an immediate, or where `dat` says so of a data register (R313). -/
def execRep (at_ : ShAt) (dat : Bool) (count : Nat) (s : State) : Host.Outcome State Fault Refusal :=
  .next (runIns at_ 5 (repBody at_.sh (if dat then .dat count else .imm count)) s)

/-- LP: the last pass of the innermost level open at the current call depth (R308). -/
def State.lastPass (s : State) (n : Nat) : Bool :=
  match (s.shut n).here with
  | [] => false
  | _ => s.sv n (.lc ((s.shut n).loops.length - 1)) == 1

/-- The levels that a taken branch closes go: those open at the current call depth whose body lacks the target (R312) (DEDUCED, log entry 47). -/
def closeLevels (n target : Nat) (s : State) : State :=
  s.modShut n fun h => { h with loops := h.loops.filter fun l => l.depth != h.stack.length || l.contains target }

/-- BRANCH (R308, R312). -/
def execBranch (at_ : ShAt) (cond : Cond) (target : Nat) (s : State) : Host.Outcome State Fault Refusal :=
  .next (runIns at_ 6 (fun a =>
    if 65536 ≤ target then (a, .fault shIllegal)
    else if condHolds cond (a.sv at_.sh .sr) (a.lastPass at_.sh) then (closeLevels at_.sh target a, .goto target) else (a, .done)) s)

/-- CALL (R312, R313). -/
def execCall (at_ : ShAt) (target : Nat) (s : State) : Host.Outcome State Fault Refusal :=
  .next (runIns at_ 6 (fun a =>
    let h := a.shut at_.sh
    if 65536 ≤ target then (a, .fault shIllegal)
    else if h.lastOfBody (a.shPc at_.sh) then (a, .fault shLoop)
    else if 16 ≤ h.stack.length then (a, .fault shStack)
    else (a.setShut at_.sh { h with stack := (a.shPc at_.sh + 1) % 65536 :: h.stack }, .goto target)) s)

/-- RETURN (R312, R313). -/
def execReturn (at_ : ShAt) (s : State) : Host.Outcome State Fault Refusal :=
  .next (runIns at_ 6 (fun a =>
    let h := a.shut at_.sh
    if !h.here.isEmpty then (a, .fault shLoop)
    else match h.stack with
      | [] => (a, .fault shStack)
      | t :: r => (a.setShut at_.sh { h with stack := r }, .goto t)) s)

/-! ## I/O and messages (R316-R324) -/

/-- A stream that takes its media time from FIFO `f` sees a word of it: the first SLOT word gives t0, a SKIP word ends
the block and gives t0 afresh (R318, R320). -/
def refWord (n f : Nat) (w : FeedWord) (s : State) : State :=
  (s.shut n).strs.foldl (fun a e =>
    if e.2.ref ≠ some f then a
    else if w.skip then
      raise_ (fSh_EVENT_OUT_RESYNC n)
        ((a.setStr n e.1 (OutStr.drain 256 { e.2.finish with next := some w.ts })).modShut n fun h => { h with resync := h.resync + 1 })
    else if w.slot && e.2.next.isNone && e.2.cur.isNone then a.setStr n e.1 (OutStr.drain 256 { e.2 with next := some w.ts })
    else a) s

/-- IN (R316): the oldest word of a FIFO, or a stall while it is empty. -/
def execIn (at_ : ShAt) (d fifo : Nat) (s : State) : Host.Outcome State Fault Refusal :=
  .next (runIns at_ 7 (fun a =>
    if 8 ≤ d ∨ 8 ≤ fifo then (a, .fault shIllegal)
    else match Tab.get [] (a.shut at_.sh).fifos fifo with
      | [] => (a, .stay 1)
      | w :: r =>
        let a1 := a.modShut at_.sh fun h => { h with fifos := Tab.set h.fifos fifo r }
        let a2 := (a1.setSv at_.sh (.d d) w.w).modSr at_.sh fun f => srBit (srBit f 5 w.slot) 6 w.skip
        (refWord at_.sh fifo w a2, .done)) s)

/-- The stream has room, and its block is at most 2 blocks ahead of the timebase's media time (R320). -/
def State.strReady (s : State) (t : OutStr) : Bool :=
  decide (t.fifo.length < 256) && t.filling.all (fun j => decide (j ≤ mediaClock 1 s.tb / 48 + 2))

/-- What OUT does: a word into the stream, converted under R303 and R302; a stall while it cannot be taken (R317, R320) (DEDUCED, log entry 48). -/
def outBody (n o : Nat) (src : AD) (round : Bool) (s : State) : State × InsEnd :=
  if !adOk src || decide (8 ≤ o) then (s, .fault shIllegal)
  else
    let (w, q) := match src with
      | .acc i => let (v, q) := s.rounded n i round; (narrow (s.sSat n) v, q || outside v)
      | .dat i => (s.sD n i, false)
    let s1 := s.modSr n fun f => srQ f q
    match s.str n o with
    | none => (s1, .done)
    | some t =>
      if s.strReady t then
        (s1.setStr n o (OutStr.drain 256 { t with fifo := t.fifo ++ [(w.toNat, s.tb)] }), .done)
      else (s, .stay 2)

/-- OUT (R317). -/
def execOut (at_ : ShAt) (o : Nat) (src : AD) (round : Bool) (s : State) : Host.Outcome State Fault Refusal :=
  .next (runIns at_ 7 (outBody at_.sh o src round) s)

/-- STREAM_BLOCK_WRITE: the oldest block that has ended is written to its slot (R319). -/
def execStreamBlockWrite (sh o : Nat) (s : State) : Host.Outcome State Fault Refusal :=
  .next (
    match s.str sh o with
    | none => s
    | some t =>
      match t.done with
      | [] => s
      | b :: r => (writeBlock sh t b s).setStr sh o (OutStr.drain 256 { t with done := r }))

/-- A message goes into a mailbox, unless it is full (R322). -/
def mailTo (n w0 w1 : Nat) (s : State) : Option State :=
  let m := (s.shut n).mbox
  if 16 ≤ m.length then none else some (s.setMbox n (m ++ [(w0, w1)]))

/-- What SEND does (R322). -/
def sendBody (n dest : Nat) (w0 w1 : Nat) (s : State) : State × InsEnd :=
  let ok (a : State) : State × InsEnd := (a.modSr n fun f => srBit f 7 false, .done)
  if 0x81 ≤ dest then (s, .fault shIllegal)
  else if dest < 4 ∧ 4 ≤ n then (s, .fault shPriv)
  else if dest = 0x80 then ok (notice 0 0x03 (leBytes 1 n) (leBytes 4 w0 ++ leBytes 4 w1) s)
  else if 0x60 ≤ dest then ok (s.setFld ⟨rDrf_SHFLAG, dest - 0x60, dest - 0x60⟩ 1)
  else match mailTo dest w0 w1 s with
    | some a => ok a
    | none =>
      (raise_ (fSh_EVENT_SEND_DROP n) ((s.addSat (fSh_MBOX_SEND_DROP n)).modSr n fun f => srBit f 7 true), .done)

/-- SEND (R322). -/
def execSend (at_ : ShAt) (dest d1 d2 : Nat) (s : State) : Host.Outcome State Fault Refusal :=
  .next (runIns at_ 8 (fun a =>
    if 8 ≤ d1 ∨ 8 ≤ d2 then (a, .fault shIllegal)
    else sendBody at_.sh dest (a.sv at_.sh (.d d1)) (a.sv at_.sh (.d d2)) a) s)

/-- The WAIT conditions that hold (R323). -/
def State.waitBits (s : State) (n : Nat) : Nat :=
  let h := s.shut n
  h.pend % 16 + (if h.mbox.isEmpty then 0 else 16) + (if h.tmr then 32 else 0) +
    (List.range 8).foldl (fun m k => if (Tab.get [] h.fifos k).isEmpty then m else m + 2 ^ (6 + k)) 0

/-- WAIT (R323): a stall until an enabled condition holds; then EV, and the pending bits it reports clear. -/
def execWait (at_ : ShAt) (mask : Nat) (s : State) : Host.Outcome State Fault Refusal :=
  .next (runIns at_ 8 (fun a =>
    let m := Nat.land mask (a.waitBits at_.sh)
    if mask = 0 ∨ 16384 ≤ mask then (a, .fault shIllegal)
    else if m = 0 then (a, .stay 3)
    else
      let a1 := a.modShut at_.sh fun h => { h with pend := Nat.land h.pend (15 - m % 16), tmr := h.tmr && !m.testBit 5 }
      (a1.setSv at_.sh .ev m, .done)) s)

/-- TMR_EXPIRY: TMR reaches 0 and sets its pending bit (R324). -/
def execTmrExpiry (sh : Nat) (s : State) : Host.Outcome State Fault Refusal :=
  .next (
    if 96 ≤ sh ∨ s.sv sh .tmr = 0 ∨ s.shGated sh then s
    else (s.setSv sh .tmr 0).modShut sh ({ · with tmr := true }))

/-- HOUSE_RESTART: a faulted house shuttle's firmware restarts (R333). -/
def execHouseRestart (sh : Nat) (s : State) : Host.Outcome State Fault Refusal :=
  .next (
    if 4 ≤ sh ∨ s.shState sh ≠ stFault then s
    else
      let s0 := s.modShut sh fun h => { h with regs := [], loops := [], rep := none, stack := [] }
      let s1 := (s0.setSv sh .sr 0).setSv sh .mr (s.shut sh).mrInit
      let s2 := ((s1.setPc sh (s.shut sh).entry).setShState sh stRun).setReg (rSh_FAULT sh) 0
      raise_ (fSh_EVENT_HOUSE_RESTART sh) s2)

end Sys2Proof.Machine
end

