-- ==== Sys2Proof/Machine/ShuttleCmd.lean ====
section
/-! DEFINITION. Shuttle commands, starts at strokes, and resets (R325-R334). -/

namespace Sys2Proof.Machine

/-- The self-test bit of a shuttle's cluster; the house shuttles are never in test (R497). -/
def shTarget (sh : Nat) : List Nat := if 4 ≤ sh ∧ sh < 96 then [24 + sh / 8] else []

/-- An SHT_LOAD or SHT_START of the shuttle has not completed (R327, R329). -/
def State.shBusy (s : State) (sh : Nat) : Bool := s.sht.loads.any (·.2.1 == sh) || (s.shut sh).start.isSome

/-! ## Images (R326, R327) -/

/-- The places of an image's X and Y sections, and its end. -/
def imgSections (img : List Byte) : Nat × Nat × Nat :=
  let x := ceil64 (7360 + 6 * field img 8 4)
  let y := ceil64 (x + 4 * field img 12 4)
  (x, y, ceil64 (y + 4 * field img 16 4))

/-- The digest of the sections of an image (R326) (DEDUCED, log entry 49). -/
def imgDigest (img : List Byte) : List Byte := digest512 ((img.take (imgSections img).2.2).drop 7360)

/-- A size or ENTRY lies outside R326. -/
def imgRange (img : List Byte) : Bool :=
  decide (field img 8 4 < 1 ∨ 65536 < field img 8 4 ∨ 16384 < field img 12 4 ∨ 16384 < field img 16 4
    ∨ field img 8 4 ≤ field img 20 2)

/-- MAGIC is wrong or a reserved field is not 0 (R326) (DEDUCED, log entry 49). -/
def imgBad (img : List Byte) : Bool :=
  img.take 4 != [0x53, 0x48, 0x54, 0x31] || decide (1 < field img 22 1) || ((img.drop 23).take 41).any (· != 0)
    || ((img.drop 7347).take 13).any (· != 0)

/-- The owner key slot of an image or bundle is VALID and holds the digest of the public key (R327, R483). -/
def State.keyOk (s : State) (slot : Nat) (pk : List Byte) : Bool :=
  match Tab.find s.fuses.slots slot with
  | some k => k.state == 1 && digest512 pk == k.digest
  | none => false

/-- Key, digest or signature of an image fail (R327). -/
def State.imgForged (s : State) (img : List Byte) : Bool :=
  let pk := (img.drop 64).take 2592
  !s.keyOk (field img 5 1) pk || imgDigest img != (img.drop 2656).take 64
    || !Config.mldsaOk pk (img.take 2720) ((img.drop 2720).take 4627)

/-- The checks of an image, in their order (R327). -/
def State.imgChecks (s : State) (img : List Byte) : List (Bool × Nat) :=
  [(decide (img.length < 7360) || (!imgRange img && decide (img.length < (imgSections img).2.2)), eBus), (imgBad img, eDesc),
   (img.getD 4 0 != 1, eVersion), (imgRange img, eRange), (s.imgForged img, eAuth)]

/-- The words of a section that are not 0: `n` words of `w` bytes in a stride of `k` from `o`. -/
def sectionWords (img : List Byte) (o n w k : Nat) : List (Nat × Nat) :=
  (List.range n).filterMap fun i => let v := field img (o + k * i) w; if v = 0 then none else some (i, v)

/-- An image's sections as the memories P, X and Y (R326, R327) (DEDUCED, log entry 49). -/
def loadSections (img : List Byte) (o pw xw yw : Nat) (h : Shuttle) : Shuttle :=
  let x := ceil64 (o + 6 * pw)
  let y := ceil64 (x + 4 * xw)
  { h with p := (sectionWords img o pw 6 6).map (fun e => (e.1, BitVec.ofNat 48 e.2)), x := sectionWords img x xw 3 4
           y := sectionWords img y yw 3 4 }

/-- An image that passes every check is copied, and the shuttle is LOADED (R327). -/
def loadImage (sh : Nat) (img : List Byte) (s : State) : State :=
  let h := loadSections img 7360 (field img 8 4) (field img 12 4) (field img 16 4) (s.shut sh)
  let s1 := s.setShut sh { h with entry := field img 20 2, mrInit := field img 22 1 % 2, digest := imgDigest img }
  ((s1.setFld (fSh_STAT_STATE sh) stLoaded).setFld (fSh_IMAGE_IMG_VER sh) (field img 6 2)).setFld (fSh_IMAGE_KEY_SLOT sh)
    (field img 5 1)

/-- SHT_LOAD: accepted loads wait in command order (R327). -/
def execShtLoad (h : Hdr) (sh : Nat) (img : Option (List Byte)) (s : State) : Host.Outcome State Fault Refusal :=
  .next (command h (.shtLoad h sh img) ([(s.ownerOf h.qp != 0 || decide (sh < 4), ePriv)] ++ s.gate h true (shTarget sh) ++
      [(decide (95 < sh), eRange), (s.shState sh == stRun, eState), (s.shBusy sh, eBusy)])
    (fun s => { s with sht := { s.sht with loads := s.sht.loads ++ [(h, sh, img)] } }) s)

/-- SHT_LOAD_DONE: the load at the head of the order is checked, copied and completes (R327). -/
def execShtLoadDone (sh : Nat) (s : State) : Host.Outcome State Fault Refusal :=
  .next (
    match s.sht.loads with
    | [] => s
    | (h, n, img) :: r =>
      if n ≠ sh then s
      else
        let s1 := { s with sht := { s.sht with loads := r } }
        match img with
        | none => complete h eBus [] s1
        | some b =>
          match firstFail (s.imgChecks b) with
          | some st => complete h st [] s1
          | none => complete h eOk [] (loadImage sh b s1))

/-! ## Starting (R328-R330) -/

/-- A 16-byte stream entry of a parameter block (R328). -/
def strEntry (b : List Byte) (o : Nat) : List Byte := (b.drop (16 * o)).take 16

/-- The enabled stream entries: stream, bolt, channels, FMT, REF_FIFO. -/
def strEntries (b : List Byte) : List (Nat × Nat × Nat × Nat × Nat) :=
  (List.range 8).filterMap fun o =>
    let e := strEntry b o
    if (field e 0 2).testBit 15 then some (o, field e 0 2 % 2048, field e 2 1, field e 3 1 % 2, field e 3 1 / 16) else none

/-- A reserved field of a parameter block is not 0 (R328). -/
def strReserved (b : List Byte) : Bool :=
  (List.range 8).any fun o =>
    let e := strEntry b o
    field e 0 2 / 2048 % 16 != 0 || field e 3 1 / 2 % 8 != 0 || (e.drop 4).any (· != 0)

/-- Two entries name one bolt. -/
def strTwice (l : List (Nat × Nat × Nat × Nat × Nat)) : Bool :=
  l.any fun e => l.any fun f => e.1 != f.1 && e.2.1 == f.2.1

/-- The conditions of R329 that look at the parameter block and the stroke. -/
def startBlockChecks (b : List Byte) (atStroke : Bool) (k c : Nat) (s : State) : List (Bool × Nat) :=
  let l := strEntries b
  [(decide (b.length < 128), eBus), (strReserved b, eDesc),
   (l.any (fun e => decide (e.2.2.1 < 1 ∨ 64 < e.2.2.1 ∨ (8 ≤ e.2.2.2.2 ∧ e.2.2.2.2 ≤ 14))
      || ((s.bolt e.2.1).bound && decide ((s.bolt e.2.1).size < 64 + 192 * e.2.2.1))), eRange),
   (l.any (fun e => !(s.bolt e.2.1).bound || (s.bolt e.2.1).kind != 1 || (s.bolt e.2.1).writer.isSome) || strTwice l
      || (atStroke && !(s.gen k).defined), eState),
   (atStroke && c != 0 && (match s.instantOf k c with
      | some t => decide (t < (s.tb : Int) + 10000 * nsU)
      | none => false), eTimeout)]

/-- The streams that a parameter block binds (R328) (DEDUCED, log entry 48). -/
def startStreams (b : List Byte) : List (Nat × OutStr) :=
  (strEntries b).map fun e =>
    (e.1, { bolt := e.2.1, chans := e.2.2.1, l16 := e.2.2.2.1, ref := if e.2.2.2.2 = 15 then none else some e.2.2.2.2 })

/-- Each stream's bolt has it as its writer from the acceptance on (R321) (DEDUCED, log entry 49). -/
def claimBolts (sh : Nat) (strs : List (Nat × OutStr)) (s : State) : State :=
  strs.foldl (fun a e => a.modBolt e.2.bolt ({ · with writer := some (.stream sh e.1) })) s

/-- The sample formats of the streams that start, recorded for R242 (R328). -/
def recordFormats (strs : List (Nat × OutStr)) (s : State) : State :=
  strs.foldl (fun a e => a.modBolt e.2.bolt
    ({ · with fmt := some { ess := 1, num := 1, den := 1, chans := e.2.chans, l16 := e.2.l16, pkts := 1 } })) s

/-- The bolts of a start that does not come about are free again. -/
def releaseBolts (strs : List (Nat × OutStr)) (s : State) : State :=
  strs.foldl (fun a e => a.modBolt e.2.bolt ({ · with writer := none })) s

/-- Every register 0 and MR its initial value, at ENTRY (R328) (DEDUCED, log entry 49). -/
def freshStart (sh : Nat) (s : State) : State :=
  let h := s.shut sh
  let s1 := s.setShut sh { h with regs := [], loops := [], rep := none, stack := [], pend := 0, tmr := false }
  ((s1.setSv sh .sr 0).setSv sh .mr h.mrInit).setPc sh h.entry

/-- The shuttle enters RUN (R318, R328). -/
def enterRun (sh : Nat) (resume : Bool) (strs : List (Nat × OutStr)) (s : State) : State :=
  let s1 := recordFormats strs (if resume then s else freshStart sh s)
  let first := (s.tb / (1000000 * nsU) + 1) * 48
  let open_ := strs.map fun e => (e.1, if e.2.ref.isNone then { e.2 with next := some first } else e.2)
  (s1.modShut sh ({ · with strs := open_, start := none })).setShState sh stRun

/-- SHT_START (R328, R329, R378). -/
def execShtStart (h : Hdr) (sh : Nat) (resume atStroke : Bool) (k c : Nat) (blk : Option (List Byte)) (s : State) :
    Host.Outcome State Fault Refusal :=
  let b := blk.getD []
  .next (command h (.shtStart h sh resume atStroke k c blk) (s.gate h true (shTarget sh) ++
      [(decide (95 < sh), eRange), (decide (sh < 4), ePriv), (!atStroke && (k != 0 || c != 0), eRange),
       (if resume then s.shState sh != stHalted
        else s.shState sh != stLoaded && s.shState sh != stHalted && s.shState sh != stFault, eState),
       (s.shBusy sh, eBusy)] ++ startBlockChecks b atStroke k c s)
    (fun s =>
      let strs := startStreams b
      let s1 := claimBolts sh strs s
      if atStroke then s1.modShut sh ({ · with start := some ⟨h, resume, k, c, s.tb, strs⟩ })
      else complete h eOk [] (enterRun sh resume strs s1)) s)

/-- A pending start ends without effect: with E_ABORT, or silently (R330, R331, R356). -/
def abortStart (post : Bool) (sh : Nat) (s : State) : State :=
  match (s.shut sh).start with
  | none => s
  | some c =>
    let s1 := releaseBolts c.strs (s.modShut sh ({ · with start := none }))
    if post then complete c.hdr eAbort [] s1 else untake c.hdr s1

/-- A pending start acts on a stroke of its generator (R328, R330). -/
def startAtStroke (i : StrokeInfo) (sh : Nat) (c : StartCmd) (s : State) : State :=
  if c.k ≠ i.k then s
  else if i.newDef && c.c != 0 then abortStart true sh s
  else if c.c == 0 || c.c == i.count || i.passed.any (fun r =>
      decide ((c.c + 2 ^ 32 - r.1) % 2 ^ 32 ≤ (r.2 + 2 ^ 32 - r.1) % 2 ^ 32)) then
    complete c.hdr eOk (strokeResult i.count i.at_) (enterRun sh c.resume c.strs s)
  else s

/-- SHUTTLE_STROKE: a stroke reaches D_SHUT, sets pending bits and SCk, and starts shuttles (R324, R328) (DEDUCED, log entry 50). -/
def shuttleStroke (i : StrokeInfo) (s : State) : State :=
  s.sht.sh.foldl (fun a e =>
    let a1 := if a.shState e.1 = stOff then a
      else (a.modShut e.1 fun h => { h with pend := Nat.lor h.pend (2 ^ i.k) }).setSv e.1 (.sc i.k) i.count
    match e.2.start with
    | some c => startAtStroke i e.1 c a1
    | none => a1) s

/-! ## SHT_STOP, SHT_MSG (R331, R332) -/

/-- SHT_STOP: a pending start is cancelled, or the shuttle stops (R331). -/
def execShtStop (h : Hdr) (sh : Nat) (s : State) : Host.Outcome State Fault Refusal :=
  .next (command h (.shtStop h sh) (s.gate h true (shTarget sh) ++
      [(decide (95 < sh), eRange), (decide (sh < 4), ePriv),
       (s.shState sh != stRun && (s.shut sh).start.isNone, eState)])
    (fun s => complete h eOk []
      (if (s.shut sh).start.isSome then abortStart true sh s else stopShuttle sh stHalted 2 s)) s)

/-- SHT_MSG (R332). -/
def execShtMsg (h : Hdr) (sh w0 w1 : Nat) (s : State) : Host.Outcome State Fault Refusal :=
  .next (command h (.shtMsg h sh w0 w1) (s.gate h true (shTarget sh) ++
      [(decide (95 < sh), eRange), (decide (sh < 4), ePriv), (decide (16 ≤ (s.shut sh).mbox.length), eNoRes),
       (s.shState sh == stOff, eState)])
    (fun s => match mailTo sh (w0 % 2 ^ 24) (w1 % 2 ^ 24) s with | some a => complete h eOk [] a | none => s) s)

/-! ## Resets (R334) -/

/-- An owner shuttle is OFF, its memories, mailbox and FIFOs zeroed, its streams unbound, its registers reset (R334, R335) (DEDUCED, log entry 48). -/
def resetShuttle (sh : Nat) (s : State) : State :=
  let s1 := releaseBolts (s.shut sh).strs (abortStart true sh s)
  (s1.setShut sh {}).resetRegs fun r => r.blk == .sh && r.inst == sh

/-- A write of SHnn.CTL (R334, R335). -/
def writeShCtl (sh : Nat) (v : W32) (s : State) : State :=
  match firstFail [((s.unavailable (rSh_CTL sh)).isSome, eSelfTest), (decide (sh < 4), ePriv)] with
  | some st => rejectReg (rSh_CTL sh) st s
  | none => if v.getLsbD 0 then resetShuttle sh s else s

/-- SH_SRST (R334). -/
def execShSrst (sh : Nat) (v : W32) (s : State) : Host.Outcome State Fault Refusal :=
  .next (hostAccess (fun s => if sh < 96 then writeShCtl sh v s else s) s)

/-- FLR of the PF: every owner shuttle in RUN goes to HALTED, and pending starts end, without completions (R334, R356). -/
def flrShuttles (s : State) : State :=
  s.sht.sh.foldl (fun a e =>
    if e.1 < 4 then a
    else
      let b := abortStart false e.1 a
      if b.shState e.1 = stRun then stopShuttle e.1 stHalted 3 b else b) s

end Sys2Proof.Machine
end

