-- ==== Sys2Proof/Machine/Draft.lean ====
section
/-! DEFINITION. Drafts: programs, instructions, bursts, ending, aborts and bus errors (R386-R405). -/

namespace Sys2Proof.Machine

/-- FLAGS of the status record (R401). -/
abbrev dfLastBeat := 1
abbrev dfEngineStop := 2
abbrev dfMismatch := 4
abbrev dfReadback := 8

def State.dc (s : State) (d : Nat) : DraftCh := Tab.get {} s.drf.ch d
def State.setDc (s : State) (d : Nat) (c : DraftCh) : State := { s with drf := { s.drf with ch := Tab.set s.drf.ch d c } }
def State.modDc (s : State) (d : Nat) (f : DraftCh → DraftCh) : State := s.setDc d (f (s.dc d))
def State.dcPc (s : State) (d : Nat) : Nat := s.fld (fDrf_DC_STAT_PC d)

/-- DRF.STAT.RUNNING (R412). -/
def showRunning (s : State) : State := s.setFld fDrf_STAT_RUNNING ((List.range 32).filter s.dcRuns).length

/-- A channel's state; RUNNING follows. -/
def setDcState (d v : Nat) (s : State) : State := showRunning (s.setFld (fDrf_DC_STAT_STATE d) v)

/-- The next slot runs. -/
def dcNext (d : Nat) (s : State) : State := s.setFld (fDrf_DC_STAT_PC d) (s.dcPc d + 1)

/-! ## Programs (R386-R396) -/

/-- The opcode of a slot (R386). -/
def slotOp (b : List Byte) : Nat := field b 0 1 % 16

/-- Reserved fields and bits, a reserved KIND, and the rules of R386 for MOVE and FILL lengths. -/
def slotReserved (b : List Byte) : Bool :=
  let hi := field b 0 1 / 16
  let kind := field b 1 1
  if slotOp b = 1 then decide (8 ≤ hi) || hi % 4 == 3 || field b 1 3 == 0
  else if slotOp b = 2 then hi != 0 || kind != 0 || field b 8 5 == 0 || field b 14 2 != 0
  else if slotOp b = 3 then hi != 0 || kind != 0 || decide (4096 ≤ field b 2 2) || field b 6 2 != 0
  else if slotOp b = 4 then
    hi != 0 || decide (3 < kind) || field b 12 4 != 0
      || (if kind = 0 then decide (3 < field b 2 1) else if kind = 1 then decide (31 < field b 2 1) else field b 2 1 != 0)
      || (if kind = 1 then decide (1 < field b 3 1) else field b 3 1 != 0)
      || ((kind == 1 || kind == 3) && field b 4 4 != 0)
  else if slotOp b = 5 then
    hi != 0 || decide (2 < kind) || field b 3 1 != 0 || field b 14 2 != 0
      || (if kind = 0 then decide (31 < field b 2 1) else kind == 2 && field b 2 1 != 0)
      || (if kind = 0 then field b 4 4 != 0 || field b 8 4 != 0
          else kind == 1 && (field b 7 1 != 0 || field b 11 1 != 0))
      || (kind != 2 && field b 12 2 != 0)
  else hi != 0 || (b.drop 1).any (· != 0)

/-- The loop bodies of a program: slot of the LOOP and its TARGET (R386). -/
def loopBodies (p : List (List Byte)) : List (Nat × Nat) :=
  p.zipIdx.filterMap fun e => if slotOp e.1 = 3 then some (e.2, field e.1 2 2 % 4096) else none

/-- Two bodies overlap without one containing the other. -/
def crossed (a b : Nat × Nat) : Bool :=
  decide (a.2 ≤ b.1 ∧ b.2 ≤ a.1) && !decide (a.2 ≤ b.2 ∧ b.1 ≤ a.1) && !decide (b.2 ≤ a.2 ∧ a.1 ≤ b.1)

/-- The checks of one slot, in the order of R386. -/
def slotChecks (p : List (List Byte)) (i : Nat) (b : List Byte) : List (Bool × Nat) :=
  let bodies := loopBodies p
  [(decide (slotOp b < 1 ∨ 6 < slotOp b), eField), (slotReserved b, eDesc),
   (slotOp b == 3 && (decide (i ≤ field b 2 2 % 4096) || field b 4 2 == 0), eDesc),
   ((slotOp b == 3 && bodies.any (fun x => decide (x.1 < i) && crossed x (i, field b 2 2 % 4096)))
     || decide (4 < (bodies.filter fun x => decide (x.2 ≤ i ∧ i ≤ x.1)).length), eDesc),
   (i + 1 == p.length && slotOp b != 6, eDesc)]

/-- The first slot that fails a check decides the status (R386) (DEDUCED, log entry 52). -/
def progStatus (p : List (List Byte)) : Option Nat := p.zipIdx.findSome? fun e => firstFail (slotChecks p e.2 e.1)

/-- The slots of a program of `len` bytes. -/
def progSlots (len : Nat) (b : List Byte) : List (List Byte) := (List.range (len / 16)).map fun i => (b.drop (16 * i)).take 16

/-! ## Addresses (R388-R390) -/

/-- The space of a draft address. -/
def dSpace (a : Nat) : Nat := a / 2 ^ 46 % 4

/-- The bus address of a space-0 address (R389). -/
def State.busAddr (s : State) (a : Nat) : Nat :=
  let w := a / 2 ^ 43 % 8
  s.fld (fDrf_HWIN_LO_BASE w) * 4096 + 2 ^ 32 * s.fld (fDrf_HWIN_HI_BASE w) + a % 2 ^ 43

/-- The shuttle, memory and byte offset of a space-2 address. -/
def shAddr (a : Nat) : Nat × Nat × Nat := (a / 2 ^ 21 % 128, a / 2 ^ 19 % 4, a % 2 ^ 19)

/-- Bytes of a word slot, and of a memory (R390). -/
def memSlot (m : Nat) : Nat := if m = 0 then 8 else 4
def memSize (m : Nat) : Nat := if m = 0 then 524288 else 65536

/-- What R397 checks of one range of an instruction: window or training; a P write in RUN; the range; the house
shuttles; self-test (DEDUCED, log entry 52). -/
def rangeChecks (write : Bool) (a n : Nat) (s : State) : List (Bool × Nat) :=
  let (sh, m, o) := shAddr a
  if dSpace a = 0 then
    [(!s.on (fDrf_HWIN_LO_EN (a / 2 ^ 43 % 8)), eState), (decide (2 ^ 64 < s.busAddr a + n), eRange)]
  else if dSpace a = 1 then
    [(!s.trained, eState), (a / 2 ^ 41 % 32 != 0 || decide (2 ^ 41 < a % 2 ^ 41 + n), eRange),
     ((List.range 16).any (fun k => s.testing (8 + k) && decide (n > 0)
        && (List.range (min 16 ((a % 4096 + n + 4095) / 4096))).any (fun i => beamPort (a + 4096 * i) == k)), eSelfTest)]
  else if dSpace a = 2 then
    [(write && m == 0 && decide (sh < 96) && s.shState sh == stRun, eState),
     (a / 2 ^ 28 % 2 ^ 18 != 0 || m == 3 || decide (95 < sh) || decide (memSize m < o + n) || o % memSlot m != 0
        || n % memSlot m != 0, eRange),
     (decide (sh < 4), ePriv), ((shTarget sh).any s.testing, eSelfTest)]
  else [(true, eRange)]

/-- The order of the rows of R397 (DEDUCED, log entry 52). -/
def rowRank (st : Nat) : Nat :=
  if st = eState then 0 else if st = eRange then 1 else if st = ePriv then 2 else 3

/-- The first failing row of R397 over several ranges (DEDUCED, log entry 52). -/
def rowFail (l : List (Bool × Nat)) : Option Nat :=
  ((List.range 4).findSome? fun r => (l.find? fun e => e.1 && rowRank e.2 == r)).map (·.2)

/-- The bytes of a shuttle memory (R390). -/
def shBytes (a n : Nat) (s : State) : List Byte :=
  let (sh, m, o) := shAddr a
  let h := s.shut sh
  (List.range n).map fun i =>
    let w := (o + i) / memSlot m
    let v := if m = 0 then (Tab.get 0 h.p w).toNat else Tab.get 0 (if m = 1 then h.x else h.y) w
    BitVec.ofNat 8 (v / 256 ^ ((o + i) % memSlot m))

/-- One byte of a word of `w` bytes, counted from the lowest; a byte beyond them is ignored. -/
def putByte (w v i : Nat) (b : Byte) : Nat := if w ≤ i then v else v - v / 256 ^ i % 256 * 256 ^ i + b.toNat * 256 ^ i

/-- Bytes written into a shuttle memory (R390, R314). -/
def shPut (a : Nat) (l : List Byte) (s : State) : State :=
  let (sh, m, o) := shAddr a
  l.zipIdx.foldl (fun s e =>
    let w := (o + e.2) / memSlot m
    let i := (o + e.2) % memSlot m
    s.modShut sh fun h =>
      if m = 0 then { h with p := Tab.set h.p w (BitVec.ofNat 48 (putByte 6 (Tab.get 0 h.p w).toNat i e.1)) }
      else if m = 1 then { h with x := Tab.set h.x w (putByte 3 (Tab.get 0 h.x w) i e.1) }
      else { h with y := Tab.set h.y w (putByte 3 (Tab.get 0 h.y w) i e.1) }) s

/-! ## Ending (R398, R401-R404) -/

/-- The status record (R401). -/
def draftRecord (d : Nat) (e : DraftEnd) (pc depth bytes : Nat) (cnts : List Nat) (s : State) : List Byte :=
  leBytes 1 e.status ++ leBytes 1 e.flags ++ leBytes 2 pc ++ leBytes 1 depth ++ List.replicate 3 0 ++ leBytes 8 e.residue ++
    leBytes 8 e.unwritten ++ leBytes 8 bytes ++ (List.range 4).flatMap (fun i => leBytes 2 (cnts.getD i 0)) ++
    leBytes 4 ((s.snooper d).elim 0 s.ckValue) ++ List.replicate 4 0 ++ tbBytes e.at_ ++ List.replicate 4 0

/-- The draft's record is written and its command completes, then an abort's; a snooping channel's result is ready
(R398, R402, R409). A status other than OK raises the ring's interrupt at once. -/
def finishDraft (d : Nat) (e : DraftEnd) (s : State) : State :=
  let c := s.dc d
  let r := draftRecord d e (s.dcPc d) c.stack.length c.bytes ((c.stack.reverse).map (·.cnt)) s
  let s1 := match s.snooper d with | some n => ckResult n s | none => s
  let s2 := (setDcState d 0 (s1.setDc d {})).setFld (fDrf_DC_STAT_DEPTH d) 0
  let s3 := match c.hdr with
    | some h => completeRec { h with irq := h.irq || e.status != eOk } e.status r s2
    | none => s2
  match c.abort with
  | some h => complete h eOk [] s3
  | none => s3

/-- The read-back of the last host write is issued while the PF may master the bus (R339, R398). -/
def askReadback (d a : Nat) (s : State) : State :=
  if s.bme 0 then (s.modDc d ({ · with rbWaits := false })).emit (.hostRead 0 a 4) else s.modDc d ({ · with rbWaits := true })

/-- The read-backs that waited for Bus Master Enable are issued (R339). -/
def draftsResume (s : State) : State :=
  (List.range 32).foldl (fun a d => match (a.dc d).ended, (a.dc d).lastHost with
    | some _, some x => if (a.dc d).rbWaits then askReadback d x a else a
    | _, _ => a) s

/-- The draft ends (R398): no new burst; a draft that wrote host memory is read back first, unless the engine has
stopped. -/
def endDraft (d status flags residue unwritten : Nat) (readBack : Bool) (s : State) : State :=
  let e : DraftEnd := ⟨status, flags, residue, unwritten, s.tb⟩
  let c := s.dc d
  match c.lastHost with
  | some a =>
    if readBack then askReadback d a (setDcState d 3 (s.setDc d { c with ended := some e })) else finishDraft d e s
  | none => finishDraft d e s

/-- The bytes that a slot's instruction moves: a MOVE, a FILL, a HOST_WRITE (R391, R392, R396). -/
def slotBytes (b : List Byte) : Nat :=
  if slotOp b = 1 then field b 1 3 else if slotOp b = 2 then field b 8 5 else if slotOp b = 5 ∧ field b 1 1 = 2 then 4 else 0

/-- Bytes of the instruction at PC for which no request was issued (R401). -/
def State.dcResidue (s : State) (d : Nat) : Nat :=
  match (s.dc d).xfer with
  | some x => x.len - x.pos
  | none => ((s.dc d).prog[s.dcPc d]?).elim 0 slotBytes

/-- The draft ends with a status before or at its instruction. -/
def failDraft (d status : Nat) (s : State) : State := endDraft d status 0 (s.dcResidue d) 0 true s

/-- The engine stops after a bus error: every running channel ends with E_BUS and no read-back (R403). -/
def stopEngine (addr : Nat) (s : State) : State :=
  let s1 := (List.range 32).foldl (fun a d =>
    if a.dcRuns d then endDraft d eBus dfEngineStop (a.dcResidue d) 0 false a else a) s
  raise_ fDrf_EVENT_BUS_STOP ((s1.setFld fDrf_STAT_STOPPED 1).setPair rDrf_ERR_ADDR_LO rDrf_ERR_ADDR_HI addr)

/-! ## Commands (R379, R386, R402) -/

/-- DRAFT_RUN (R379, R386, R408): the program is checked and the channel runs (DEDUCED, log entry 52). -/
def execDraftRun (h : Hdr) (chan pri len : Nat) (prog : Option (List Byte)) (s : State) : Host.Outcome State Fault Refusal :=
  .next (command h (.draftRun h chan pri len prog) (s.gate h true [37] ++
      [(decide (3 < pri ∨ len < 16 ∨ 65536 < len) || len % 16 != 0 || decide (31 < chan), eRange),
       (s.fld (fDrf_DC_STAT_STATE chan) != 0, eBusy), (s.on fDrf_STAT_STOPPED, eState),
       (decide ((prog.getD []).length < len), eBus)])
    (fun s =>
      let p := progSlots len (prog.getD [])
      match progStatus p with
      | some st => completeRec { h with irq := true } st (draftRecord chan ⟨st, 0, 0, 0, s.tb⟩ 0 0 0 [] s) s
      | none =>
        let s1 := s.setDc chan { hdr := some h, prog := p }
        let s2 := (s1.setReg (rDrf_DC_STAT chan) 0).setFld (fDrf_DC_STAT_PRI chan) pri
        let s3 := match s2.snooper chan with | some n => ckRestart n s2 | none => s2
        setDcState chan 1 s3) s)

/-- DRAFT_ABORT (R379, R402): the channel issues no new burst and ends with E_ABORT. A channel that an abort is still
ending counts as running, so that a second abort finds it busy (DEDUCED, log entry 52). -/
def execDraftAbort (h : Hdr) (chan : Nat) (s : State) : Host.Outcome State Fault Refusal :=
  .next (command h (.draftAbort h chan) (s.gate h true [37] ++ [(!s.dcRuns chan && (s.dc chan).abort.isNone, eState), ((s.dc chan).abort.isSome, eBusy)])
    (fun s => failDraft chan eAbort (s.modDc chan ({ · with abort := some h }))) s)

/-! ## Instructions (R391-R397) -/

/-- The slot at which a running channel stands, when it holds the opcode. -/
def State.dcSlot (s : State) (d op : Nat) : Option (List Byte) :=
  let c := s.dc d
  if s.fld (fDrf_DC_STAT_STATE d) = 1 ∧ c.xfer.isNone then (c.prog[s.dcPc d]?).bind fun b => if slotOp b = op then some b else none
  else none

/-- The source and destination contributions of the loop stack (R393). -/
def DraftCh.sums (c : DraftCh) : Int × Int := c.stack.foldl (fun a l => (a.1 + l.src, a.2 + l.dst)) (0, 0)

/-- A draft address with a contribution (DEDUCED, log entry 51). -/
def dAdd (a : Nat) (x : Int) : Nat := (((a : Int) + x) % 2 ^ 48).toNat

/-- The transfer that a MOVE describes (R391, R408). -/
def moveXfer (c : DraftCh) (b : List Byte) : DraftXfer :=
  { src := some (dAdd (field b 4 6) c.sums.1), dst := dAdd (field b 10 6) c.sums.2, len := field b 1 3, pos := 0, pattern := 0
    cka := (field b 0 1).testBit 4, cks := (field b 0 1).testBit 5, tail := [] }

/-- The transfer that a FILL describes (R392). -/
def fillXfer (c : DraftCh) (b : List Byte) : DraftXfer :=
  { src := none, dst := dAdd (field b 2 6) c.sums.2, len := field b 8 5, pos := 0, pattern := field b 13 1, cka := false
    cks := false, tail := [] }

/-- The width in bytes of the snooping channel's code. -/
def State.snoopWidth (s : State) (d : Nat) : Nat := (s.snooper d).elim 0 fun n => (s.ckPoly n).w / 8

/-- The bytes of the source that a transfer writes (R408). -/
def DraftXfer.body (x : DraftXfer) (w : Nat) : Nat := if x.cks then x.len - w else x.len

/-- The checks before the first burst of a MOVE or FILL (R397). -/
def xferChecks (d : Nat) (x : DraftXfer) (s : State) : List (Bool × Nat) :=
  let w := s.snoopWidth d
  (match x.src with | some a => rangeChecks false a x.len s | none => []) ++
    rangeChecks true x.dst (x.body w + (if x.cka then w else 0)) s ++
    [((x.cka || x.cks) && (s.snooper d).isNone, eState), (x.cks && decide (x.len < w), eRange)]

/-- A transfer starts, or its first failing check ends the draft with nothing written (R397). -/
def startXfer (d : Nat) (x : DraftXfer) (ckr : Bool) (s : State) : State :=
  match rowFail (xferChecks d x s) with
  | some st => endDraft d st 0 x.len 0 true s
  | none =>
    let s1 := if ckr then (match s.snooper d with | some n => ckRestart n s | none => s) else s
    s1.modDc d ({ · with xfer := some x })

/-- MOVE (R391). -/
def execMove (chan : Nat) (s : State) : Host.Outcome State Fault Refusal :=
  .next (match s.dcSlot chan 1 with
    | some b => startXfer chan (moveXfer (s.dc chan) b) ((field b 0 1).testBit 6) s
    | none => s)

/-- FILL (R392). -/
def execFill (chan : Nat) (s : State) : Host.Outcome State Fault Refusal :=
  .next (match s.dcSlot chan 2 with
    | some b => startXfer chan (fillXfer (s.dc chan) b) false s
    | none => s)

/-- The channel's loop stack, with its depth in DCd_STAT. -/
def setStack (d : Nat) (l : List DraftLvl) (s : State) : State :=
  (s.modDc d ({ · with stack := l })).setFld (fDrf_DC_STAT_DEPTH d) l.length

/-- LOOP (R393). -/
def execLoop (chan : Nat) (s : State) : Host.Outcome State Fault Refusal :=
  .next (match s.dcSlot chan 3 with
    | none => s
    | some b =>
      let pc := s.dcPc chan
      let old := (s.dc chan).stack
      let st : List DraftLvl := match old with
        | l :: _ => if l.slot = pc then old else ⟨pc, 1, 0, 0⟩ :: old
        | [] => [⟨pc, 1, 0, 0⟩]
      match st with
      | [] => s
      | l :: r =>
        if l.cnt < field b 4 2 then
          let top : DraftLvl := { l with cnt := l.cnt + 1, src := l.src + signed 32 (field b 8 4), dst := l.dst + signed 32 (field b 12 4) }
          (setStack chan (top :: r) s).setFld (fDrf_DC_STAT_PC chan) (field b 2 2 % 4096)
        else dcNext chan (setStack chan r s))

/-- WAIT begins (R394): a stroke already passed satisfies it at once (R395). -/
def execDraftWait (chan : Nat) (s : State) : Host.Outcome State Fault Refusal :=
  .next (match s.dcSlot chan 4 with
    | none => s
    | some b =>
      let c := field b 4 4
      let hit := field b 1 1 == 0 && c != 0 && (match s.lastCount (field b 2 1 % 4) with
        | some n => decide ((n + 2 ^ 32 - c) % 2 ^ 32 < 2 ^ 31)
        | none => false)
      setDcState chan 2 (s.modDc chan ({ · with waitAt := s.up, hit := hit })))

/-- The slot at which a channel waits. -/
def State.dcWait (s : State) (d : Nat) : Option (List Byte) :=
  if s.fld (fDrf_DC_STAT_STATE d) = 2 then (s.dc d).prog[s.dcPc d]? else none

/-- A WAIT on a flag with CLEAR. -/
def waitsClear (f : Nat) (b : List Byte) : Bool := field b 1 1 == 1 && field b 2 1 == f && (field b 3 1).testBit 0

/-- The condition of a WAIT holds (R395); of several that would clear one flag the lowest-numbered channel proceeds (DEDUCED, log entry 51). -/
def State.waitHolds (s : State) (d : Nat) (b : List Byte) : Bool :=
  let f := field b 2 1
  if field b 1 1 = 0 then (s.dc d).hit
  else if field b 1 1 = 1 then
    (s.reg rDrf_FLAG).getLsbD f && !(waitsClear f b && (List.range d).any fun e => (s.dcWait e).any (waitsClear f))
  else if field b 1 1 = 2 then decide ((s.dc d).waitAt + field b 4 4 * nsU ≤ s.up)
  else (s.reg rDrf_SHFLAG).getLsbD d

/-- DRAFT_WAIT_DONE: the WAIT proceeds, clearing its flag where it says so (R394, R395). A TIMER's end is the event. -/
def execDraftWaitDone (chan : Nat) (s : State) : Host.Outcome State Fault Refusal :=
  .next (match s.dcWait chan with
    | none => s
    | some b =>
      if s.waitHolds chan b || field b 1 1 == 2 then
        let f := field b 2 1 % 32
        let s1 := if waitsClear (field b 2 1) b then s.setFld ⟨rDrf_FLAG, f, f⟩ 0 else s
        let s2 := if field b 1 1 = 3 then s1.setFld ⟨rDrf_SHFLAG, chan, chan⟩ 0 else s1
        dcNext chan (setDcState chan 1 (s2.modDc chan ({ · with hit := false })))
      else s)

/-- DRAFT_WAIT_TIMEOUT (R394, R397). -/
def execDraftWaitTimeout (chan : Nat) (s : State) : Host.Outcome State Fault Refusal :=
  .next (match s.dcWait chan with
    | none => s
    | some b => if field b 8 4 = 0 ∨ s.waitHolds chan b then s else failDraft chan eTimeout s)

/-- A stroke reaches the waiting channels (R395). -/
def draftStroke (i : StrokeInfo) (s : State) : State :=
  (List.range 32).foldl (fun a d =>
    match a.dcWait d with
    | none => a
    | some b =>
      if field b 1 1 = 0 ∧ field b 2 1 % 4 = i.k
          ∧ (field b 4 4 = 0 ∨ (i.count + 2 ^ 32 - field b 4 4) % 2 ^ 32 < 2 ^ 31) then
        a.modDc d ({ · with hit := true })
      else a) s

/-- What a SIGNAL is checked for (R397) (DEDUCED, log entry 51). -/
def signalChecks (b : List Byte) (a : Nat) (s : State) : List (Bool × Nat) :=
  let sh := field b 2 1
  if field b 1 1 = 0 then []
  else if field b 1 1 = 1 then
    [(decide (95 < sh), eRange), (decide (sh < 4), ePriv), ((shTarget sh).any s.testing, eSelfTest)]
  else [(dSpace a != 0 || a % 4 != 0, eRange)] ++ (if dSpace a = 0 then rangeChecks true a 4 s else [])

/-- SIGNAL (R396); a HOST_WRITE waits for Bus Master Enable (R339). -/
def execSignal (chan : Nat) (s : State) : Host.Outcome State Fault Refusal :=
  .next (match s.dcSlot chan 5 with
    | none => s
    | some b =>
      let a := dAdd (field b 8 6) (s.dc chan).sums.2
      match rowFail (signalChecks b a s) with
      | some st => failDraft chan st s
      | none =>
        if field b 1 1 = 2 ∧ !s.bme 0 then s
        else
        let s1 :=
          if field b 1 1 = 0 then s.setFld ⟨rDrf_FLAG, field b 2 1 % 32, field b 2 1 % 32⟩ 1
          else if field b 1 1 = 1 then (mailTo (field b 2 1) (field b 4 3) (field b 8 3) s).getD s
          else (s.emit (.hostWrite (s.busAddr a) ((b.drop 4).take 4))).modDc chan fun c =>
            { c with lastHost := some (s.busAddr a), bytes := c.bytes + 4 }
        dcNext chan s1)

/-- END (R398). -/
def execEnd (chan : Nat) (s : State) : Host.Outcome State Fault Refusal :=
  .next (match s.dcSlot chan 6 with
    | some _ => endDraft chan eOk 0 0 0 true s
    | none => s)

/-! ## Bursts (R399, R400, R404, R408, R409) -/

/-- One end of a transfer lies in host memory. -/
def DraftXfer.onHost (x : DraftXfer) : Bool := dSpace x.dst == 0 || x.src.any (fun a => dSpace a == 0)

/-- The bytes of the next burst (R336, R399) (PRESUMED, log entry 53). -/
def State.burstLen (s : State) (x : DraftXfer) : Nat :=
  let hostSrc := x.src.any (fun a => dSpace a == 0)
  let hostDst := dSpace x.dst == 0
  let most := if hostDst then min 512 (128 * 2 ^ min 2 s.host.cfg.maxPay) else if hostSrc then s.readMost else 4096
  let room (a : Nat) : Nat := 4096 - (a + x.pos) % 4096
  min (min most (x.len - x.pos)) (min (room x.dst) ((x.src.map room).getD 4096))

/-- The checks of `n` bytes at `pos` of a range, whose host window is that of its start (R389, R397). -/
def rangeAt (write : Bool) (a pos n : Nat) (s : State) : List (Bool × Nat) :=
  if dSpace a = 0 then rangeChecks write a (pos + n) s else rangeChecks write (a + pos) n s

/-- The rows of R397 that can fail a burst after the check of the whole instruction: a memory or a target that has changed
since, or a snooping channel that is gone. -/
def burstChecks (d : Nat) (x : DraftXfer) (n : Nat) (s : State) : List (Bool × Nat) :=
  ((match x.src with | some a => rangeAt false a x.pos n s | none => []) ++ rangeAt true x.dst x.pos n s).filter
    (fun e => e.2 == eState || e.2 == eSelfTest) ++ [((x.cka || x.cks) && (s.snooper d).isNone, eState)]

/-- What a burst reads: its bytes, whether a word was UE or POISON or failed its parity, and the state after the read
(R278, R397). -/
def burstRead (d : Nat) (x : DraftXfer) (n : Nat) (host : List Byte) (par : Bool) (s : State) : List Byte × Bool × State :=
  match x.src with
  | none => (List.replicate n (BitVec.ofNat 8 x.pattern), false, s)
  | some a =>
    if dSpace a = 0 then (padTo n (host.take n), false, s.emit (.hostRead 0 (s.busAddr a + x.pos) n))
    else if dSpace a = 1 then
      let r := beamRead (whoDraft d) (a % 2 ^ 41 + x.pos) n s
      (r.bytes, badKind r.worst, r.after)
    else (shBytes (a + x.pos) n s, par, s)

/-- Bytes written by channel `d` at `pos` of a range at a draft address (R281, R314, R389, R398). -/
def draftPut (d a pos : Nat) (l : List Byte) (s : State) : State :=
  if l.isEmpty then s
  else
    let s1 :=
      if dSpace a = 0 then
        (s.emit (.hostWrite (s.busAddr a + pos) l)).modDc d fun c => { c with lastHost := some (s.busAddr a + pos + l.length - 4) }
      else if dSpace a = 1 then beamWrite (whoDraft d) (a % 2 ^ 41 + pos) l s
      else shPut (a + pos) l s
    s1.modDc d fun c => { c with bytes := c.bytes + l.length }

/-- A check value is appended at `pos` of a range, in two writes where it meets a 4 KiB boundary (R399, R408). -/
def appendCheck (d a pos : Nat) (l : List Byte) (s : State) : State :=
  let k := 4096 - (a + pos) % 4096
  draftPut d a (pos + k) (l.drop k) (draftPut d a pos (l.take k) s)

/-- The end of a MOVE or FILL: CKA appends the check value, CKS compares it (R408, R409). -/
def endXfer (d : Nat) (x : DraftXfer) (s : State) : State :=
  let s0 := s.modDc d ({ · with xfer := none })
  match s.snooper d with
  | none => dcNext d s0
  | some n =>
    if x.cka then dcNext d (appendCheck d x.dst x.len (s.ckBytes n) s0)
    else if x.cks then
      let s1 := s0.addSat (fCk_CNT_CHECKED n)
      if x.tail = s.ckBytes n then dcNext d s1
      else
        let s2 := raise_ fChk_EVENT_MISMATCH (s1.addSat (fCk_CNT_MISMATCH n))
        if s.on (fCk_CTL_STOP n) then endDraft d eMedia dfMismatch 0 0 true s2 else dcNext d s2
    else dcNext d s0

/-- A channel's next burst is issued and written (R399, R408). -/
def burst (d : Nat) (x : DraftXfer) (host : List Byte) (par : Bool) (s : State) : State :=
  let n := s.burstLen x
  let (l, bad, s1) := burstRead d x n host par s
  match rowFail (burstChecks d x n s) with
  | some st => endDraft d st 0 (x.len - x.pos) 0 true s
  | none =>
  if bad then endDraft d eMedia 0 (x.len - x.pos - n) n true s1
  else
    let body := x.body (s.snoopWidth d)
    let keep := l.take (body - x.pos)
    let s2 := match x.src, s1.snooper d with | some _, some m => ckFeed m keep s1 | _, _ => s1
    let s3 := draftPut d x.dst x.pos keep s2
    let x1 := { x with pos := x.pos + n, tail := x.tail ++ l.drop (body - x.pos) }
    let s4 := s3.modDc d ({ · with xfer := some x1 })
    if x1.len ≤ x1.pos then endXfer d x1 s4 else s4

/-- The channel that the engine picks among those ready: the highest priority, round-robin within it (R400); a burst that needs the host
is not ready without Bus Master Enable (R339). -/
def pickBurst (ready : List Nat) (s : State) : Option Nat :=
  let l := (List.range 32).filter fun d => ready.contains d && s.fld (fDrf_DC_STAT_STATE d) == 1 &&
    (s.dc d).xfer.any fun x => !x.onHost || s.bme 0
  (List.range 4).findSome? fun p =>
    let m := l.filter fun d => s.fld (fDrf_DC_STAT_PRI d) == p
    match m.find? (fun d => decide (Tab.get 31 s.drf.rr p < d)) with
    | some d => some d
    | none => m.head?

/-- BURST_ISSUE: one issue slot (R399, R400). `host` is what a read of host memory returns (DESIGN CHOICE, log entry 4; DEDUCED, log entry 51). -/
def execBurstIssue (ready : List Nat) (src : BurstRead) (s : State) : Host.Outcome State Fault Refusal :=
  .next (match pickBurst ready s with
    | none => s
    | some d =>
      match (s.dc d).xfer with
      | none => s
      | some x =>
        burst d x src.host src.par { s with drf := { s.drf with rr := Tab.set s.drf.rr (s.fld (fDrf_DC_STAT_PRI d)) d } })

/-- READBACK_DONE: the read-back of the last host address settles (R398) (DEDUCED, log entry 51). -/
def execReadbackDone (chan : Nat) (ok : Bool) (s : State) : Host.Outcome State Fault Refusal :=
  .next (match (s.dc chan).ended with
    | none => s
    | some e =>
      if (s.dc chan).rbWaits then s
      else if ok then finishDraft chan e s
      else stopEngine ((s.dc chan).lastHost.getD 0)
        (finishDraft chan { e with status := eBus, flags := Nat.lor e.flags (dfEngineStop + dfReadback) } (readFailed s)))

/-- DRAFT_BUS_ERROR: a host access of a channel fails, and the engine stops (R403, R404). -/
def execDraftBusError (chan addr : Nat) (s : State) : Host.Outcome State Fault Refusal :=
  .next (match (s.dc chan).xfer with
    | none => s
    | some x =>
      if !s.dcRuns chan || !x.onHost then s
      else
        let n := s.burstLen x
        let left := x.len - x.pos - n
        stopEngine addr (endDraft chan eBus (dfEngineStop + (if left = 0 then dfLastBeat else 0)) left n false (readFailed s)))

/-! ## Resets and registers (R403, R405, R412) -/

/-- A write of DRF.CTL (R403, R405); DCd_STAT of a channel that is still ending stays (DEDUCED) (DEDUCED, log entry 54). -/
def writeDrfCtl (v : W32) (s : State) : State :=
  match firstFail [((s.unavailable rDrf_CTL).isSome, eSelfTest), (v.getLsbD 0 && s.fld fDrf_STAT_RUNNING != 0, eState)] with
  | some st => rejectReg rDrf_CTL st s
  | none =>
    let s1 := if v.getLsbD 1 then s.setFld fDrf_STAT_STOPPED 0 else s
    if v.getLsbD 0 then
      s1.resetRegs fun r => r.blk == .drf && !decide (0x100 ≤ r.off ∧ r.off < 0x140)
        && (decide (r.off < 0x200) || bits (s1.reg r) 31 30 == 0)
    else s1

/-- DRF_SRST (R405) (DEDUCED, log entry 54). -/
def execDrfSrst (v : W32) (s : State) : Host.Outcome State Fault Refusal := .next (hostAccess (fun s => writeDrfCtl v s) s)

/-- DRF_RESTART (R403). -/
def execDrfRestart (v : W32) (s : State) : Host.Outcome State Fault Refusal := .next (hostAccess (fun s => writeDrfCtl v s) s)

/-- FLR of the PF: every channel stops with neither record nor completion, and the DRF and CHK registers reset
(R405, R413). -/
def flrDrafts (s : State) : State :=
  let s1 := (List.range 32).foldl (fun a d =>
    let c := a.dc d
    let drop (h : Option Hdr) (b : State) : State := match h with | some h => untake h b | none => b
    drop c.abort (drop c.hdr a)) s
  showLinkCks { s1.resetRegs (fun r => r.blk == .drf || r.blk == .chk || r.blk == .ck) with drf := {}, ck := [] }

end Sys2Proof.Machine
end

