-- ==== Sys2Proof/Machine/Rs.lean ====
section
/-! DEFINITION. RS(544,514) over GF(2^10), the outer code of every mode (R125): field, encoder and decoder. The spec takes
the code from IEEE 802.3; its field polynomial x^10 + x^3 + 1 and the roots 1, α, …, α^29 are that standard's (PRESUMED,
log entry 98). -/

namespace Sys2Proof.Machine

/-- A field element times x. -/
def gfTimesX (a : Nat) : Nat := if a < 512 then 2 * a else Nat.xor (2 * a) 0x409

/-- The bits of `b` from the lowest, each adding `a` times its power of x. -/
def gfMulBits : Nat → Nat → Nat → Nat → Nat
  | 0, _, _, acc => acc
  | n + 1, a, b, acc => gfMulBits n (gfTimesX a) (b / 2) (if b % 2 = 1 then Nat.xor acc a else acc)

/-- The product of two field elements. -/
def gfMul (a b : Nat) : Nat := if a = 0 then 0 else gfMulBits 10 a b 0

/-- α^n, the powers of x. -/
def gfAlpha : Nat → Nat
  | 0 => 1
  | n + 1 => gfTimesX (gfAlpha n)

/-- The inverse of a nonzero element, its 1,022nd power: the product of its 2nd, 4th, …, 512th powers. -/
def gfInv (a : Nat) : Nat :=
  ((List.range 9).foldl (fun (p : Nat × Nat) _ => (gfMul p.1 (gfMul p.2 p.2), gfMul p.2 p.2)) (1, a)).1

/-- The value of a polynomial, highest coefficient first. -/
def gfEval (p : List Nat) (x : Nat) : Nat := p.foldl (fun a c => Nat.xor (gfMul a x) c) 0

/-- The sum of two polynomials, lowest coefficient first. -/
def gfAdd : List Nat → List Nat → List Nat
  | [], q => q
  | p, [] => p
  | a :: p, b :: q => Nat.xor a b :: gfAdd p q

/-- The generator polynomial, highest coefficient first: the product of x - α^j for j = 0 to 29. -/
def rsGenerator : List Nat :=
  (List.range 30).foldl (fun g j => gfAdd (g ++ [0]) (0 :: g.map (gfMul (gfAlpha j)))) [1]

/-- One message symbol through the encoder's division: the 30 remainder symbols, highest first. -/
def rsShift (g rem : List Nat) (m : Nat) : List Nat :=
  let f := Nat.xor (rem.headD 0) m
  gfAdd (rem.tail ++ [0]) ((g.drop 1).map (gfMul f))

/-- The codeword of 514 message symbols: the message, then its 30 parity symbols. -/
def rsEncode (msg : List Nat) : List Nat := msg ++ msg.foldl (rsShift rsGenerator) (List.replicate 30 0)

/-- The 30 syndromes of a received word. -/
def rsSyndromes (r : List Nat) : List Nat := (List.range 30).map fun j => gfEval r (gfAlpha j)

/-- The state of the Berlekamp-Massey iteration: connection polynomial and its last copy, lowest coefficient first, their
degree bound, the shift and the last discrepancy. -/
structure Bm where
  c : List Nat
  b : List Nat
  l : Nat
  m : Nat
  d : Nat
  deriving DecidableEq, Repr

/-- One syndrome of the iteration. -/
def bmStep (syn : List Nat) (st : Bm) (n : Nat) : Bm :=
  let d := (List.range (st.l + 1)).foldl (fun a i => Nat.xor a (gfMul (st.c.getD i 0) (syn.getD (n - i) 0))) 0
  if d = 0 then { st with m := st.m + 1 }
  else
    let k := gfMul d (gfInv st.d)
    let c := gfAdd st.c (List.replicate st.m 0 ++ st.b.map (gfMul k))
    if 2 * st.l ≤ n then ⟨c, st.c, n + 1 - st.l, 1, d⟩ else { st with c := c, m := st.m + 1 }

/-- The error locator of a word's syndromes and its degree. -/
def errorLocator (syn : List Nat) : List Nat × Nat :=
  let st := (List.range 30).foldl (bmStep syn) ⟨[1], [1], 0, 1, 1⟩
  (st.c, st.l)

/-- The error evaluator: syndromes times locator, modulo x^30, lowest coefficient first. -/
def errorEvaluator (syn loc : List Nat) : List Nat :=
  (List.range 30).map fun i => (List.range (i + 1)).foldl (fun a j => Nat.xor a (gfMul (loc.getD j 0) (syn.getD (i - j) 0))) 0

/-- The error of a place whose locator is `x`, where the error locator has a root, 1 / x (Forney's formula). -/
def errorAt (loc ev : List Nat) (x : Nat) : Option Nat :=
  if gfEval loc x = 0 then
    let y := gfInv x
    let odd := (List.range loc.length).map fun i => if i % 2 = 1 then loc.getD i 0 else 0
    let slope := gfMul (gfEval odd.reverse y) x
    some (gfMul x (gfMul (gfEval ev.reverse y) (gfInv slope)))
  else none

/-- The errors of the first `n` places, place and value; `x` is the locator of the last of them. -/
def errorsUpTo (loc ev : List Nat) : Nat → Nat → List (Nat × Nat)
  | 0, _ => []
  | n + 1, x => errorsUpTo loc ev n (gfTimesX x) ++ match errorAt loc ev x with | some e => [(n, e)] | none => []

/-- The decoder: a word within 15 symbol errors of a codeword gives that codeword and the places corrected; every other
word is uncorrectable (R125). -/
def rsDecode (r : List Nat) : Option (List Nat × List Nat) :=
  let syn := rsSyndromes r
  if syn.all (· == 0) then some (r, [])
  else
    let (loc, deg) := errorLocator syn
    let ev := errorEvaluator syn loc
    let errs := errorsUpTo loc ev r.length 1
    let fixed := errs.foldl (fun (a : List Nat) e => a.set e.1 (Nat.xor (a.getD e.1 0) e.2)) r
    if deg ≤ 15 && errs.length == deg && (rsSyndromes fixed).all (· == 0) then some (fixed, errs.map (·.1)) else none

end Sys2Proof.Machine
end

