-- ==== Sys2Proof/Machine/LineCode.lean ====
section
/-! DEFINITION. What stands on the line of an M400 lane: the inner code, the PAM4 map, superframes, the catch sequences
and the idle marker symbol by symbol (R130-R133, R136, R137, R140, R141), the transmit stages that the registers set
(R51, R52, R56, R65), and the symbols of each output that a lane sends beside frames. -/

namespace Sys2Proof.Machine

/-- The opposite level. -/
def Pam4.neg : Pam4 → Pam4
  | .m3 => .p3
  | .m1 => .p1
  | .p1 => .m1
  | .p3 => .m3

/-- The Gray map of a pair of bits, the first bit first (R132). -/
def grayMap : Bool → Bool → Pam4
  | false, false => .m3
  | false, true => .m1
  | true, true => .p1
  | true, false => .p3

/-- Pairs of bits as levels (R132); a bit left over is none of a pair. -/
def graySymbols : List Bool → List Pam4
  | a :: b :: r => grayMap a b :: graySymbols r
  | _ => []

/-- A bit as a level: +3 for 1 and -3 for 0 (R133, R136). -/
def bitLevel (b : Bool) : Pam4 := if b then .p3 else .m3

/-- One information bit through the inner encoder: its parity and the next state (R130). -/
def Inner.step (e : Inner) (u : Bool) : Bool × Inner :=
  let a := u ^^ e.d1 ^^ e.d3
  (a ^^ e.d1 ^^ e.d2 ^^ e.d3, ⟨a, e.d1, e.d2⟩)

/-- A run of information bits: the parity of the last one (`p` where there is none) and the state after them. -/
def Inner.run : List Bool → Bool → Inner → Bool × Inner
  | [], p, e => (p, e)
  | u :: r, _, e => let (p, e') := e.step u; Inner.run r p e'

/-- A puncture period: its 15 information bits, then the parity of the last (R131). -/
def encodePeriod (u : List Bool) (e : Inner) : List Bool × Inner :=
  let (p, e') := Inner.run u false e
  (u ++ [p], e')

/-- `n` puncture periods of 15 bits from the front of a stream: their symbols, the state after them, the bits left. -/
def encodePeriods : Nat → List Bool → Inner → List Pam4 × Inner × List Bool
  | 0, u, e => ([], e, u)
  | n + 1, u, e =>
    let (c, e1) := encodePeriod (u.take 15) e
    let (r, e2, v) := encodePeriods n (u.drop 15) e1
    (graySymbols c ++ r, e2, v)

/-- Pilot k of a superframe: bit 15 - k of 0xF590 (R133). -/
def pilot (k : Nat) : Pam4 := bitLevel (Nat.testBit 0xF590 (15 - k))

/-- The pilot periods of a superframe from pilot `k` on, `n` of them: 136 puncture periods, which are 1,088 coded symbols,
then the pilot (R133). -/
def pilotPeriods : Nat → Nat → List Bool → Inner → List Pam4 × Inner
  | 0, _, _, e => ([], e)
  | n + 1, k, u, e =>
    let (c, e1, v) := encodePeriods 136 u e
    let (r, e2) := pilotPeriods n (k + 1) v e1
    (c ++ pilot k :: r, e2)

/-- A superframe of 32,640 information bits: 16 pilot periods (R133). -/
def superframe (u : List Bool) (e : Inner) : List Pam4 × Inner := pilotPeriods 16 0 u e

/-- `n` bits of a maximal-length sequence: the register's oldest bit leaves, and the bits at the polynomial's exponents
give the next (R136) (DESIGN CHOICE, log entry 85). -/
def lfsrBits {w : Nat} (taps : List Nat) : Nat → BitVec w → List Bool
  | 0, _ => []
  | n + 1, r =>
    let b := taps.foldl (fun a t => a ^^ r.getLsbD (t - 1)) false
    r.getLsbD (w - 1) :: lfsrBits taps n ((r <<< 1) ||| BitVec.ofNat w b.toNat)

/-- The bits of a number, most significant first. -/
def msbFirst : Nat → Nat → List Bool
  | 0, _ => []
  | n + 1, v => v.testBit n :: msbFirst n v

/-- The polynomials of the test patterns (R508): width and exponents; PRBS13Q is PRBS13 mapped two bits per symbol (PRESUMED, log entry 138),
and SSPRQ has none here. -/
def prbsTaps : Nat → Option (Nat × List Nat)
  | 0 => some (7, [7, 6])
  | 1 => some (9, [9, 5])
  | 2 => some (13, [13, 12, 2, 1])
  | 3 => some (15, [15, 14])
  | 4 => some (23, [23, 18])
  | 5 => some (31, [31, 28])
  | 6 => some (13, [13, 12, 2, 1])
  | _ => none

/-- The bits of the register of a test pattern (R508) (DESIGN CHOICE, log entry 137). -/
def prbsWidth (pattern : Nat) : Nat := match prbsTaps pattern with | some (w, _) => w | none => 31

/-- The bit of a test pattern that follows those of its register, newest first (R508) (DESIGN CHOICE, log entry 137). -/
def prbsNext (pattern : Nat) (h : List Bool) : Bool :=
  match prbsTaps pattern with
  | some (_, taps) => taps.foldl (fun a t => a ^^ h.getD (t - 1) false) false
  | none => Config.ssprqNext h

/-- `n` bits of a test pattern, the register's oldest first. -/
def prbsFrom (pattern : Nat) : Nat → List Bool → List Bool
  | 0, _ => []
  | n + 1, h => h.getLastD true :: prbsFrom pattern n (prbsNext pattern h :: h.dropLast)

/-- The first `n` bits of a test pattern, from the all-ones state (R508). -/
def prbsBits (pattern n : Nat) : List Bool := prbsFrom pattern n (List.replicate (prbsWidth pattern) true)

/-- Symbol or bit `i` after a LANE_PRBS is injected (R511) (DEDUCED, log entry 26). -/
def injects (inj arg i : Nat) : Bool :=
  (inj == 1 && i == 0) || (inj == 2 && decide (i < arg)) || (inj == 3 && (i + 1) % arg == 0)

/-- The first `n` symbols of a lane's generator: the pattern two bits per symbol, an injected symbol negated (R508, R509, R511). -/
def patternSymbols (pattern inj arg n : Nat) : List Pam4 :=
  ((graySymbols (prbsBits pattern (2 * n))).zipIdx).map fun e => if injects inj arg e.2 then e.1.neg else e.1

/-- P, the preamble (R136): 255 bits of x^8 + x^6 + x^5 + x^4 + 1 from all ones, then a 0. -/
def preamble : List Pam4 := (lfsrBits [8, 6, 5, 4] 255 (BitVec.allOnes 8) ++ [false]).map bitLevel

/-- S, the start marker (R136). -/
def startMarker : List Pam4 := (msbFirst 64 0xB5C37A19E84D2F60).map bitLevel

/-- C, the catch data (R136): PAM4 of the first 16,384 bits of PRBS23 from all ones; the first `n` symbols of it. -/
def catchData (n : Nat) : List Pam4 := graySymbols (lfsrBits [23, 18] (2 * n) (BitVec.allOnes 23))

/-- A bit of H: +3, -3 four times for a 1 and the negation for a 0 (R136). -/
def headerBit (b : Bool) : List Pam4 :=
  [bitLevel b, bitLevel !b, bitLevel b, bitLevel !b, bitLevel b, bitLevel !b, bitLevel b, bitLevel !b]

/-- The header of a catch training sequence: TRAIN_ID, REP_LEFT and CHECK (R137). -/
def catchHeader (trainId repLeft : Nat) : Nat :=
  let i := trainId % 256
  let r := repLeft % 16
  i * 256 + r * 16 + (i / 16 ^^^ i % 16 ^^^ r)

/-- The catch training sequence, 9,408 symbols (R137). -/
def catchTrainSymbols (trainId repLeft : Nat) : List Pam4 :=
  preamble ++ preamble ++ preamble ++ preamble.map Pam4.neg ++
    (msbFirst 16 (catchHeader trainId repLeft)).flatMap headerBit ++ catchData 8192 ++ startMarker

/-- The catch burst, 2,560 symbols (R140). -/
def catchBurstSymbols : List Pam4 :=
  (List.replicate 7 preamble).flatten ++ preamble.map Pam4.neg ++ catchData 448 ++ startMarker

/-- `n` pairs of the termination tail: a bit that drives the encoder's feedback to 0, and its parity (R141). -/
def tailPairs : Nat → Inner → List Bool
  | 0, _ => []
  | n + 1, e =>
    let t := e.d1 ^^ e.d3
    let (p, e') := e.step t
    t :: p :: tailPairs n e'

/-- The idle marker, 132 symbols, from the encoder's state (R141). -/
def idleMarkerSymbols (e : Inner) : List Pam4 :=
  graySymbols (tailPairs 3 e ++ [false, false]) ++ startMarker.map Pam4.neg ++ startMarker.map Pam4.neg

/-! ## The transmit path (R51, R125, R126, R133) -/

/-- A level as a symbol of 0 to 3, in the order of the levels. -/
def Pam4.index : Pam4 → Nat
  | .m3 => 0
  | .m1 => 1
  | .p1 => 2
  | .p3 => 3

/-- A symbol of 0 to 3 as a level. -/
def Pam4.ofIndex : Nat → Pam4
  | 0 => .m3
  | 1 => .m1
  | 2 => .p1
  | _ => .p3

/-- Stage 4, the 1/(1+D) mod 4 precoder: each output is the input less the output before it (R51). Before the first symbol of a
run that output is taken as 0 (DESIGN CHOICE, log entry 116). -/
def precode : Nat → List Pam4 → List Pam4
  | _, [] => []
  | b, x :: r => let y := (x.index + 4 - b % 4) % 4; Pam4.ofIndex y :: precode y r

/-- Stage 5, the level map of the active TX_LEVELS: in 1/256 of the outer level (R51, R65). -/
def State.levelOf (s : State) (n : Nat) : Pam4 → Int
  | .p3 => 256
  | .m3 => -256
  | .p1 => (s.actFld (fLn_TX_LEVELS_INNER_P n) : Int)
  | .m1 => -(s.actFld (fLn_TX_LEVELS_INNER_N n) : Int)

/-- The active tap codes C0 to C7 (R52). -/
def State.activeTaps (s : State) (n : Nat) : List Int :=
  (List.range 4).flatMap fun j =>
    let w := Tab.get (regReset (rLn_TX_FIR n j)) s.act (rLn_TX_FIR n j)
    [signed 10 (bits w 9 0), signed 10 (bits w 25 16)]

/-- `n` superframes of a stream of information bits, and the encoder after them (R133). -/
def superframeRun : Nat → List Bool → Inner → List Pam4 × Inner
  | 0, _, e => ([], e)
  | n + 1, u, e =>
    let (c, e1) := superframe (u.take 32640) e
    let (r, e2) := superframeRun n (u.drop 32640) e1
    (c ++ r, e2)

/-- The frames that EPn has sent, oldest first. -/
def State.sentFrames (s : State) (ep : Nat) : List (List Byte) :=
  s.host.out.reverse.filterMap fun o => match o with | .frame e d _ => if e = ep then some d else none | _ => none

/-- Two messages of the symbols of one that interleaves them, the first first. -/
def unInterleave : List Nat → List Nat × List Nat
  | a :: b :: r => let (x, y) := unInterleave r; (a :: x, b :: y)
  | _ => ([], [])

/-- Two messages interleaved symbol by symbol, the first first (R126). -/
def interleave : List Nat → List Nat → List Nat
  | a :: x, b :: y => a :: b :: interleave x y
  | _, _ => []

/-- Codewords A and B of pair `j` of a port: its PCS interleaves their messages (R125, R126) (DESIGN CHOICE, log entry 102). -/
def State.codewords (s : State) (ep j : Nat) : List Nat × List Nat :=
  let sent := s.sentFrames ep
  let m := unInterleave ((List.range 1028).map fun i =>
    Config.pcsSymbol (s.mode ep) (s.fld (fLn_MODE_STAT_WIDTH ep)) sent j i % 1024)
  (rsEncode m.1, rsEncode m.2)

/-- The bits of RS symbols, the lowest of each first (PRESUMED, log entry 98). -/
def symbolBits (l : List Nat) : List Bool := l.flatMap fun v => (List.range 10).map v.testBit

/-- Stage 1: a lane's bits of pair `j`. In M400 the whole of codeword A goes before the whole of B (R126); elsewhere the
distribution is IEEE 802.3's (DESIGN CHOICE, log entry 102). -/
def State.laneBits (s : State) (n j : Nat) : List Bool :=
  let ep := s.portBase n
  let (a, b) := s.codewords ep j
  if s.mode n = m400 then symbolBits a ++ symbolBits b
  else (List.range (10880 / (s.portLanes n).length)).map fun i =>
    Config.laneBit (s.mode n) (s.fld (fLn_MODE_STAT_WIDTH n)) (n - ep) (a ++ b) i

/-- Stage 1 over `count` pairs from pair `first` on. -/
def State.laneStream (s : State) (n first count : Nat) : List Bool :=
  (List.range count).flatMap fun j => s.laneBits n (first + j)

/-- The inner FEC of M200 variant B: 8 parity bits after every 120 (R135) (DESIGN CHOICE, log entry 102). -/
def djEncode : Nat → List Bool → List Bool
  | 0, _ => []
  | n + 1, u =>
    let c := u.take 120
    c ++ (List.range 8).map (Config.djParity c) ++ djEncode n (u.drop 120)

/-- One pad symbol after every 1,088, which makes the symbol rate of M200 variant B (R40) (DESIGN CHOICE, log entry 102). -/
def djPadded : Nat → Nat → List Pam4 → List Pam4
  | 0, _, x => x
  | n + 1, k, x => x.take 1088 ++ grayMap (Config.djPad (2 * k)) (Config.djPad (2 * k + 1)) :: djPadded n (k + 1) (x.drop 1088)

/-- Stage 4 where PRECODE asks for it (R51). -/
def State.precoded (s : State) (n : Nat) (x : List Pam4) : List Pam4 := if s.on (fLn_TX_CTL_PRECODE n) then precode 0 x else x

/-- With GEN = 1 the pattern replaces stages 1 to 3, and the precoder still applies: the generator's first `count` symbols (R509). -/
def State.testSymbols (s : State) (n count : Nat) : List Pam4 :=
  s.precoded n (patternSymbols (s.fld (fLn_PRBS_STAT_PATTERN n)) (s.lane n).inj (s.lane n).injArg count)

/-- Stages 1 to 4: the symbols that a lane sends for `count` codeword pairs from pair `first` on, the first after a start
marker in M400 (R51, R130-R133) (DESIGN CHOICE, log entry 116). -/
def State.laneSymbols (s : State) (n first count : Nat) : List Pam4 :=
  let u := s.laneStream n first count
  let x := if s.mode n = m400 then (superframeRun (count / 3) u {}).1
    else if s.mode n = m200 ∧ s.fld (fLn_MODE_STAT_VARIANT n) = 1 then
      let g := graySymbols (djEncode (u.length / 120) u)
      djPadded (g.length / 1088) 0 g
    else graySymbols u
  s.precoded n x

/-- The superframes that a lane has sent since its last start marker: its PCS counts their codeword pairs, and the inner
encoder is in the state that they leave (R130, R133, R142). -/
def sendSuperframes (n count : Nat) (s : State) : State :=
  if count = 0 then s
  else
    let l := s.lane n
    (s.setLane n { l with
      txPairs := l.txPairs + 3 * count
      txEnc := (superframeRun count (s.laneStream n l.txPairs (3 * count)) {}).2 }).emit (.superframes n l.txPairs count)

/-- The symbols of what a lane sends beside plain frames. -/
def State.symbolsOf (s : State) : Out → List Pam4
  | .superframes lane first count => s.laneSymbols lane first (3 * count)
  | .catchTrain _ i r => catchTrainSymbols i r
  | .catchBurst _ => catchBurstSymbols
  | .idleMarker _ e => idleMarkerSymbols e
  | _ => []

/-- Stages 5 to 7 and the full scale for one symbol: the FIR over the eight symbols whose taps are C0 to C7 (the first is the
one that C0 weighs), scaled by the ramp's amplitude; in mV, half of the peak-to-peak swing at the outer level (R51, R52, R56, R64). -/
def State.lineValue (s : State) (n : Nat) (win : List Pam4) : Rat :=
  let fir : Int := ((s.activeTaps n).zipWith (fun c x => c * s.levelOf n x) win).foldl (· + ·) 0
  let swing : Nat := 400 + 40 * s.actFld (fLn_TX_LEVELS_SWING n)
  (if s.on (fLn_TX_CTL_POL_INV n) then -1 else 1) * (fir : Rat) / 65536 * (s.lane n).amp / 1024 * swing / 2

/-- Stage 8 for symbol `i` of a lane: in M400 the symbols of odd places leave half B, with its gain and its timing against half
A; the value in mV and the timing in ps (R51, R66, R71). -/
def State.dacValue (s : State) (n i : Nat) (v : Rat) : Rat × Rat :=
  if s.mode n = m400 ∧ i % 2 = 1 then
    (v * (1 + (signed 8 (s.actFld (fLn_TX_DAC_TRIM_GAIN_B n)) : Rat) / 2000), (signed 8 (s.actFld (fLn_TX_DAC_TRIM_SKEW_B n)) : Rat) / 20)
  else (v, 0)

/-- Stages 5 to 8 over a run of symbols: tap C_j weighs the symbol MAIN_POS - j after the main cursor's (R51, R52). The symbols
outside the run are taken as the nearest of it (DESIGN CHOICE, log entry 85). -/
def State.lineValues (s : State) (n : Nat) (x : List Pam4) : List (Rat × Rat) :=
  let main := s.actFld (fLn_TX_FIR_CTL_MAIN_POS n)
  (List.range x.length).map fun t =>
    s.dacValue n t (s.lineValue n ((List.range 8).map fun j => x.getD (min (x.length - 1) (t + main - j)) .m3))

end Sys2Proof.Machine
end

