-- ==== Sys2Proof/Machine/Lane.lean ====
section
/-! DEFINITION. Lane modes, ports, ramps, electrical idle, the transmit shadow group, loopbacks, PRBS on a lane and
the lane's BLK reset (R43-R66, R92, R138, R380, R505-R512). -/

namespace Sys2Proof.Machine

/-! ## LANE_MODE -/

/-- The fields of a LANE_MODE lie outside R376 or R372 allows them only as 0. -/
def laneModeRange (mode variant width end_ : Nat) : Bool :=
  decide (3 < mode ∨ 1 < variant ∨ 3 < width ∨ 1 < end_) || (mode != m200 && variant != 0) || (mode == 0 && end_ != 0)

/-- A group of lanes of a shape that R43 permits, in a mode it permits for that size; MODE 0 may name any shape (R46). -/
def groupOk (lane width mode : Nat) : Bool :=
  (width == 0 && decide (lane < 8))
  || (width == 1 && decide (lane < 8 ∧ lane % 2 = 0) && (mode == 0 || mode == m200))
  || (width == 2 && (lane == 0 || lane == 4) && (mode == 0 || mode == m100))
  || (width == 3 && lane == 0 && (mode == 0 || mode == m200))

/-- The lanes that a LANE_MODE names. -/
def namedLanes (lane width : Nat) : List Nat := (List.range (2 ^ width)).map (· + lane)

/-- A pending LANE_LOOP and LANE_TRAIN of a lane end with E_ABORT when a LANE_MODE or a reset takes the lane over (DEDUCED, log entry 25). -/
def endLaneCmds (n : Nat) (s : State) : State :=
  let l := s.lane n
  let s1 := s.setLane n { l with loopCmd := none, trainCmd := none, loopPrior := none }
  let s2 := match l.loopCmd with | some c => complete c.hdr eAbort [] s1 | none => s1
  match l.trainCmd with | some h => complete h eAbort [] s2 | none => s2

/-- Loopback returns to KIND 0 and PRBS to off (R506). -/
def endLoopPrbs (n : Nat) (s : State) : State :=
  let s1 := endInj n (endLaneCmds n s)
  (((s1.setFld (fLn_PRBS_STAT_LOOP n) 0).setFld (fLn_PRBS_STAT_GEN n) 0).setFld (fLn_PRBS_STAT_CHK n) 0).setFld
    (fLn_PRBS_STAT_SYNC n) 0

/-- An accepted LANE_MODE: step 1 begins on every lane that it names (R60), a calibration pass ends (R109, R116) and
loopback and PRBS end (R506) (DEDUCED, log entry 25). -/
def laneModeBegin (c : ModeCmd) (lane : Nat) (s : State) : State :=
  let s1 := (namedLanes lane c.width).foldl (fun a n =>
    let a1 := rampDown n (calLeave n (endLoopPrbs n a))
    (a1.setFld (fLn_TX_CATCH_REP_LEFT n) 0).setFld (fLn_MODE_STAT_BUSY n) 1) s
  s1.modLane lane ({ · with modeCmd := some c })

/-- Some named lane's mode, M200 variant or port width differs from the command's (R60). -/
def State.modeDiffers (s : State) (lane mode variant width : Nat) : Bool :=
  (namedLanes lane width).any fun n =>
    s.mode n != mode || s.fld (fLn_MODE_STAT_VARIANT n) != variant
      || (mode != 0 && (s.fld (fLn_MODE_STAT_WIDTH n) != width || s.fld (fLn_MODE_STAT_PORT_BASE n) != lane))

/-- LANE_MODE's checks (R371, R378, R46, R45) (DESIGN CHOICE, log entry 21). -/
def laneModeChecks (h : Hdr) (lane mode variant width end_ : Nat) (s : State) : List (Bool × Nat) :=
  let ls := namedLanes lane (if width ≤ 3 then width else 0)
  s.gate h true (ls.filter (· < 8)) ++ [
    (laneModeRange mode variant width end_ || !groupOk lane width mode, eRange),
    (ls.any (fun n => s.mode n != 0 && (s.portLanes n).any (fun m => !ls.contains m)), eState),
    (ls.any (fun n => s.on (fLn_MODE_STAT_BUSY n)), eBusy),
    (mode != 0 && width == 3 && Config.refsDiffer s.free, eState)]

/-- LANE_MODE (R60). -/
def execLaneMode (h : Hdr) (lane mode variant width end_ : Nat) (s : State) : Host.Outcome State Fault Refusal :=
  .next (command h (.laneMode h lane mode variant width end_) (laneModeChecks h lane mode variant width end_ s)
    (laneModeBegin ⟨h, 2 ^ width, mode, variant, width, end_, s.modeDiffers lane mode variant width, false⟩ lane)
    (if width = 3 then s.tick else s))

/-- The lock and retrain thresholds that a mode loads (R94). -/
def modeThresholds (mode variant : Nat) : Nat × Nat :=
  if mode = m400 then (22, 18) else if mode = m200 ∧ variant = 1 then (30, 26) else (36, 32)

/-- The FEC counters, the histogram and FEC_STAT of a lane, and WAKE_CNT, become 0 (R128, R152). -/
def clearFec (n : Nat) (s : State) : State :=
  (s.clearRegs fun r => r.blk == .ln && r.inst == n && (r.off == 0x404 || (0x414 ≤ r.off && r.off ≤ 0x438))).modLane n
    ({ · with hist := [] })

/-- Step 2 of a LANE_MODE on one lane (R60, R88, R94, R96, R152) (DEDUCED, log entry 25). -/
def retune (c : ModeCmd) (base n : Nat) (s0 : State) : State :=
  let s := trackCal n s0
  let oldMode := s.mode n
  let newTune := oldMode != c.mode || s.fld (fLn_MODE_STAT_VARIANT n) != c.variant
  let s1 := if c.changed then
      let a := s.clearRegs fun r => r.blk == .ln && r.inst == n &&
        (r.off == 0x100 || r.off == 0x200 || r.off == 0x208 || r.off == 0x20C || r.off == 0x218 || r.off == 0x220 || r.off == 0x224)
      if newTune && c.mode != 0 then
        (a.setFld (fLn_ADAPT_LOCK_THR n) (modeThresholds c.mode c.variant).1).setFld
          (fLn_ADAPT_RETRAIN_THR n) (modeThresholds c.mode c.variant).2
      else a
    else s
  let s2 := (clearFec n s1).setReg (rLn_FEC_STAT n) 0
  let s3 := if c.mode = 0 then
      ((s2.setFld (fLn_MODE_STAT_MODE n) 0).setFld (fLn_MODE_STAT_VARIANT n) 0).setFld (fLn_MODE_STAT_WIDTH n) 0
    else ((s2.setFld (fLn_MODE_STAT_MODE n) c.mode).setFld (fLn_MODE_STAT_VARIANT n) c.variant).setFld
      (fLn_MODE_STAT_WIDTH n) c.width
  let s4 := s3.setFld (fLn_MODE_STAT_PORT_BASE n) (if c.mode = 0 then n else base)
  let s5 := (discardHeld n ((s4.setTx n (if c.mode = 0 then txOff else txStandby)).setAmp n 0)).modLane n
    ({ · with degCw := 0, degC := 0 })
  if c.mode = 0 then ((leaveLocked n s5).setReg (rLn_RX_STAT n) 0).setReg (rLn_DFE_TAP n) 0
  else if c.changed then
    ((((leaveLocked n s5).setReg (rLn_RX_STAT n) 0).setReg (rLn_DFE_TAP n) 0).setRx n rxSearch).modLane n
      ({ · with calFirst := true, lastId := none })
  else s5

/-- A LANE_MODE completes (R60, step 5). -/
def laneModeDone (lane : Nat) (s : State) : State :=
  match (s.lane lane).modeCmd with
  | none => s
  | some c =>
    let s1 := (namedLanes lane c.width).foldl (fun a n => a.setFld (fLn_MODE_STAT_BUSY n) 0) s
    complete c.hdr eOk [] (s1.modLane lane ({ · with modeCmd := none }))

/-- LANE_RECONFIG_DONE: step 2 ends; RAMP_UP begins if ACTIVE was requested, else the command completes (R60). -/
def execLaneReconfigDone (lane : Nat) (s : State) : Host.Outcome State Fault Refusal :=
  .next (
    match (s.lane lane).modeCmd with
    | none => s
    | some c =>
      let ls := namedLanes lane c.width
      if c.tuned || ls.any (fun n => s.tx n == txRampDown || s.tx n == txRampUp) then s
      else
        let s1 := ls.foldl (fun a n => retune c lane n a) s
        let s2 := s1.modLane lane ({ · with modeCmd := some { c with tuned := true } })
        if c.mode ≠ 0 ∧ c.end_ = 1 then ls.foldl (fun a n => rampUp n a) s2 else laneModeDone lane s2)

/-! ## Loopback (R505-R507) -/

/-- A loopback takes effect (R505, R506): KIND 3 and its end act on every lane of the port, the other kinds on the named lane alone. -/
def setLoop (n kind : Nat) (s : State) : State :=
  let ls := if kind = 3 ∨ s.fld (fLn_PRBS_STAT_LOOP n) = 3 then s.portLanes n else [n]
  ls.foldl (fun a m =>
    let a1 := (a.setFld (fLn_PRBS_STAT_LOOP m) (if kind = 3 ∨ m = n then kind else 0)).modLane m ({ · with looped := [] })
    if a1.rx m = rxOff then a1 else retrainRx m a1) s

/-- A loopback of KIND 1 or 2 is in effect on the lane, or its LANE_LOOP waits for the ramps before it (R507). -/
def State.loops (s : State) (m : Nat) : Bool :=
  s.fld (fLn_PRBS_STAT_LOOP m) == 1 || s.fld (fLn_PRBS_STAT_LOOP m) == 2
    || (match (s.lane m).loopCmd with | some c => c.kind == 1 || c.kind == 2 | none => false)

/-- The LANE_LOOP of a lane completes. -/
def loopDone (n : Nat) (s : State) : State :=
  match (s.lane n).loopCmd with
  | none => s
  | some c => complete c.hdr eOk [] (s.modLane n ({ · with loopCmd := none }))

/-- The ramps before a pending LANE_LOOP have ended: steps 2 to 5 of R507. -/
def loopSettle (n : Nat) (s : State) : State :=
  match (s.lane n).loopCmd with
  | none => s
  | some c =>
    let ls := s.portLanes n
    if ls.any (fun m => s.tx m == txRampUp || s.tx m == txRampDown) then s
    else if c.kind = 1 ∨ c.kind = 2 then loopDone n (setLoop n c.kind s)
    else if (s.lane n).loopPrior.isNone then loopDone n s
    else
      let s1 := setLoop n c.kind s
      if ls.any s1.loops then loopDone n s1
      else
        let back := ls.foldl (fun a m =>
          let p := (s1.lane m).loopPrior.getD txStandby
          let a1 := a.modLane m ({ · with loopPrior := none })
          if p = txActive ∨ p = txIdle ∨ p = txRampUp ∨ p = txWake then rampUp m a1 else a1) s1
        if ls.any (fun m => back.tx m == txRampUp) then back else loopDone n back

/-- A LANE_LOOP that waits on a lane ends where another takes its place (DEDUCED, log entry 26). -/
def loopReplaced (n : Nat) (s : State) : State :=
  match (s.lane n).loopCmd with
  | some c => complete c.hdr eAbort [] (s.modLane n ({ · with loopCmd := none }))
  | none => s

/-- An accepted LANE_LOOP on a lane (R505-R507): a port in service ramps down on every lane; where the port is out of service
already, the output that the loopback replaces (DEDUCED, log entry 26). -/
def laneLoopBegin (h : Hdr) (n kind : Nat) (s : State) : State :=
  let all := s.portLanes n
  let mine := if kind = 3 then all else [n]
  let s1 := (mine.foldl (fun a m => loopReplaced m a) s).modLane n ({ · with loopCmd := some ⟨h, kind⟩ })
  if (s1.lane n).loopPrior.isSome then loopSettle n (mine.foldl (fun a m => rampDown m a) s1)
  else if kind = 1 ∨ kind = 2 then
    loopSettle n (all.foldl (fun a m => rampDown m (a.modLane m ({ · with loopPrior := some (a.tx m) }))) s1)
  else loopDone n (setLoop n kind s1)

/-! ## Ramps (R56-R58, R60) -/

/-- The end of a lane's ramp up: ACTIVE, and in M400 a train of catch sequences (R138). -/
def reachActive (n : Nat) (s : State) : State :=
  let s1 := s.setTx n txActive
  if s1.mode n = m400 ∧ !s1.on (fLn_PRBS_STAT_GEN n) ∧ s1.fld (fLn_PRBS_STAT_LOOP n) ≠ 2 then startTrain n s1 else s1

/-- One lane's amplitude moves one step (R56). -/
def stepAmp (n : Nat) (s : State) : State :=
  let a := (s.lane n).amp
  if s.tx n = txRampUp then
    let s1 := s.setAmp n (min 1024 (a + 1))
    if 1024 ≤ a + 1 then reachActive n s1 else s1
  else if s.tx n = txRampDown then
    let s1 := s.setAmp n (a - 1)
    if a ≤ 1 then discardHeld n (s1.setTx n txStandby) else s1
  else s

/-- What waits for the end of a port's ramps goes on (R60 step 5, R507). -/
def afterRamps (n : Nat) (s : State) : State :=
  let ls := s.portLanes n
  if ls.any (fun m => s.tx m == txRampUp || s.tx m == txRampDown) then s
  else
    let base := s.portBase n
    let s1 := match (s.lane base).modeCmd with
      | some c => if c.tuned && c.end_ == 1 && s.tx base == txActive then laneModeDone base s else s
      | none => s
    ls.foldl (fun a m => loopSettle m a) s1

/-- RAMP_STEP: the ramping lanes of the port move one step together (R55, R56) (DEDUCED, log entry 25). -/
def execRampStep (lane : Nat) (s : State) : Host.Outcome State Fault Refusal :=
  .next (
    let ls := (s.portLanes lane).filter fun m => s.tx m == txRampUp || s.tx m == txRampDown
    if ls.isEmpty then s else afterRamps lane (ls.foldl (fun a m => stepAmp m a) s))

/-! ## Electrical idle (R61, R62, R142) and catch sequences (R138) -/

/-- No frame is eligible on a MAC's transmit side. -/
def State.txEmpty (s : State) (n : Nat) : Bool :=
  (s.lane n).express.isEmpty && (s.lane n).media.isEmpty && (s.lane n).host.isEmpty

/-- Electrical idle is permitted: by TX_IDLE.IDLE_EN, and from P1 on for every M400 transmitter (R61, R442). -/
def State.idleAllowed (s : State) (n : Nat) : Bool :=
  s.on (fLn_TX_IDLE_IDLE_EN n) || decide (1 ≤ s.fld fPwr_STATE_STATE)

/-- An M400 transmitter in ACTIVE enters electrical idle at a superframe boundary, `sf` superframes after its last start marker: the
idle marker, from the encoder's state, then zero differential; the PCS pauses at the pairs sent (R141, R142). -/
def idleTx (lane sf : Nat) (s : State) : State :=
  if s.mode lane == m400 && s.tx lane == txActive then
    let s1 := sendSuperframes lane sf s
    ((s1.setTx lane txIdle).setAmp lane 0).emit (.idleMarker lane (s1.lane lane).txEnc)
  else s

/-- A transmitter with nothing to send enters electrical idle (R61). -/
def toTxIdle (lane sf : Nat) (s : State) : State :=
  if s.idleAllowed lane && s.txEmpty lane && s.fld (fLn_TX_CATCH_REP_LEFT lane) == 0 && !s.on (fLn_PRBS_STAT_GEN lane)
      && !s.trainSends lane then idleTx lane sf s
  else s

/-- TX_IDLE_ENTRY (R61, R142). -/
def execTxIdleEntry (p : LineAt) (s : State) : Host.Outcome State Fault Refusal := .next (toTxIdle p.lane p.sf s)

/-- TX_WAKE: a frame becomes eligible in IDLE and the catch burst is sent, at full swing (R56, R62, R140); P2 and P3 hold the lane in IDLE
(R442). -/
def execTxWake (lane : Nat) (s : State) : Host.Outcome State Fault Refusal :=
  .next (if s.tx lane == txIdle && !s.txEmpty lane && s.pState < 2 then ((s.setTx lane txWake).setAmp lane 1024).emit (.catchBurst lane) else s)

/-- TX_BURST_END: the transmitter is ACTIVE with the frame's codeword, its encoder at 0 (R62, R130, R140). -/
def execTxBurstEnd (lane : Nat) (s : State) : Host.Outcome State Fault Refusal :=
  .next (if s.tx lane == txWake then (s.setTx lane txActive).modLane lane ({ · with txEnc := {} }) else s)

/-- CATCH_SEQUENCE_START: the next sequence of a train is due, and sent at a superframe boundary, `sf` superframes after the last
start marker; the first completes a LANE_TRAIN; a PRBS generator sends none (R137, R138, R380, R509). -/
def execCatchSequenceStart (p : LineAt) (s : State) : Host.Outcome State Fault Refusal :=
  .next (
    let left := s.fld (fLn_TX_CATCH_REP_LEFT p.lane)
    if s.mode p.lane == m400 && s.tx p.lane == txActive && s.trainDue p.lane && !s.on (fLn_PRBS_STAT_GEN p.lane) then
      let s1 := (((sendSuperframes p.lane p.sf s).setFld (fLn_TX_CATCH_REP_LEFT p.lane) (left - 1))).emit
        (.catchTrain p.lane (s.fld (fLn_TX_CATCH_LAST_ID p.lane)) (left - 1))
      let l := s1.lane p.lane
      let s2 := s1.setLane p.lane { l with trainAt := some s.up, trainCmd := none, txEnc := {} }
      match l.trainCmd with
      | some h => complete h eOk [] s2
      | none => s2
    else s)

/-- LANE_TRAIN (R88, R92, R138, R378, R380). -/
def laneTrainBegin (h : Hdr) (n : Nat) (rx tx : Bool) (s : State) : State :=
  let s1 := if rx then retrainRx n s else s
  if tx then
    let old := (s1.lane n).trainCmd
    let s2 := startTrain n (s1.modLane n ({ · with trainCmd := some h }))
    match old with | some o => complete o eAbort [] s2 | none => s2
  else complete h eOk [] s1

/-- LANE_TRAIN's checks (R92, R378). -/
def laneTrainChecks (h : Hdr) (n : Nat) (rx tx : Bool) (s : State) : List (Bool × Nat) :=
  s.gate h true [n] ++ [
    (!rx && !tx, eRange),
    (s.on (fLn_MODE_STAT_BUSY n), eBusy),
    (s.tx n == txOff, eState),
    (tx && (s.mode n != m400 || s.tx n != txActive), eState)]

/-- LANE_TRAIN. -/
def execLaneTrain (h : Hdr) (lane : Nat) (rx tx : Bool) (s : State) : Host.Outcome State Fault Refusal :=
  .next (command h (.laneTrain h lane rx tx) (laneTrainChecks h lane rx tx s) (laneTrainBegin h lane rx tx) s)

/-! ## The transmit shadow group (R52-R54, R65) -/

/-- The tap codes C0-C7 of the shadow set. -/
def State.firTaps (s : State) (n : Nat) : List Int :=
  (List.range 4).flatMap fun j => [s.sfld (fLn_TX_FIR_C_EVEN n j), s.sfld (fLn_TX_FIR_C_ODD n j)]

/-- The shadow set with main cursor `main` meets R52 and R65. -/
def State.firOk (s : State) (n main : Nat) : Bool :=
  decide ((s.firTaps n).foldl (fun a c => a + c.natAbs) 0 ≤ 256) && decide (64 ≤ (s.firTaps n).getD main 0)
  && decide (64 ≤ s.fld (fLn_TX_LEVELS_INNER_P n) ∧ s.fld (fLn_TX_LEVELS_INNER_P n) ≤ 107)
  && decide (64 ≤ s.fld (fLn_TX_LEVELS_INNER_N n) ∧ s.fld (fLn_TX_LEVELS_INNER_N n) ≤ 107)

/-- A write to TX_FIR_CTL (R7, R8, R52, R65). -/
def writeFirCtl (n : Nat) (v : W32) (s : State) : State :=
  let r := rLn_TX_FIR_CTL n
  match s.unavailable r with
  | some st => rejectReg r st s
  | none =>
    let armed := s.on (fLn_TX_FIR_CTL_ARM n)
    if armed then
      if bits v 2 0 ≠ s.fld (fLn_TX_FIR_CTL_MAIN_POS n) then rejectReg r eBusy s else s
    else if v.getLsbD 31 && !s.firOk n (bits v 2 0) then rejectReg r eRange s
    else (s.setFld (fLn_TX_FIR_CTL_MAIN_POS n) (bits v 2 0)).setFld (fLn_TX_FIR_CTL_ARM n) (bits v 31 31)

/-- TX_ARM (R52, R65). -/
def execTxArm (lane : Nat) (v : W32) (s : State) : Host.Outcome State Fault Refusal :=
  .next (hostAccess (fun s => if lane < 8 then writeFirCtl lane v s else s) s)

/-- One lane's transmit shadow group becomes active and ARM clears (R6, R53). -/
def handOver (n : Nat) (s : State) : State :=
  if s.on (fLn_TX_FIR_CTL_ARM n) then
    let rs := [rLn_TX_FIR n 0, rLn_TX_FIR n 1, rLn_TX_FIR n 2, rLn_TX_FIR n 3, rLn_TX_FIR_CTL n, rLn_TX_LEVELS n, rLn_TX_DAC_TRIM n]
    let s1 := s.setFld (fLn_TX_FIR_CTL_ARM n) 0
    { s1 with act := rs.foldl (fun t r => Tab.set t r (s1.reg r)) s1.act }
  else s

/-- TX_HANDOVER: in STANDBY the lane hands over by itself; while codewords are sent every armed lane of the port hands
over at the codeword; in IDLE, WAKE and OFF none is sent and ARM stays (R8, R53, R54). -/
def execTxHandover (lane : Nat) (s : State) : Host.Outcome State Fault Refusal :=
  .next (
    if s.tx lane = txStandby then handOver lane s
    else if s.tx lane = txRampUp ∨ s.tx lane = txActive ∨ s.tx lane = txRampDown then
      (s.portLanes lane).foldl (fun a n => handOver n a) s
    else s)

/-! ## Reset of a lane (R59, R63, R119) -/

/-- Everything a reset of one lane returns to its reset value: its registers but TX_DAC_TRIM, its frames and its
dynamic state; anchors and active coefficients stay, so that a change still to be applied is dropped (R59, R63, R66, R116, R119,
R532) (DESIGN CHOICE, log entry 106). -/
def clearLane (n : Nat) (s0 : State) : State :=
  let s := trackCal n s0
  let l := s.lane n
  let p := fun r : RegId => r.blk == .ln && r.inst == n && r.off != 0x128 && r.off != 4
  ((s.resetRegs p).resetAct p).setLane n
    { ({} : Lane) with anchors := l.anchors, active := l.active, trackAt := l.trackAt, temp := l.temp, txDrop := l.txDrop, rxBad := l.rxBad,
                       rxShort := l.rxShort, rxCtl := l.rxCtl, rxFilt := l.rxFilt, srst := l.srst }

/-- A LANE_MODE in progress that names a lane of a reset's set ends with E_ABORT, and no lane that it names is BUSY any longer;
the other lanes it names stay as they are (R59, R63) (DESIGN CHOICE, log entry 105). -/
def endModeCmd (ls : List Nat) (base : Nat) (s : State) : State :=
  match (s.lane base).modeCmd with
  | none => s
  | some c =>
    let named := namedLanes base c.width
    if named.any ls.contains then
      complete c.hdr eAbort [] ((named.foldl (fun a n => a.setFld (fLn_MODE_STAT_BUSY n) 0) s).modLane base
        ({ · with modeCmd := none }))
    else s

/-- A BLK reset of one lane of the covered set. -/
def resetLane (n : Nat) (s : State) : State :=
  clearLane n (discardHeld n (calAbandon n (endLaneCmds n s)))

/-- A write of LNn.CTL: with SRST the lane and every lane of its port go to OFF; a reset in progress is not changed
(R59, R548). -/
def writeLaneCtl (n : Nat) (v : W32) (s : State) : State :=
  match s.unavailable (rLn_CTL n) with
  | some st => rejectReg (rLn_CTL n) st s
  | none =>
    if v.getLsbD 0 && !s.on (fLn_CTL_SRST n) then
      let ls := s.portLanes n
      let s1 := (List.range 8).foldl (fun a b => endModeCmd ls b a) s
      ls.foldl (fun a i => ((resetLane i a).setFld (fLn_CTL_SRST i) 1).modLane i ({ · with srst := ls })) s1
    else s

/-- LANE_SRST (R59, R548). -/
def execLaneSrst (lane : Nat) (v : W32) (s : State) : Host.Outcome State Fault Refusal :=
  .next (hostAccess (fun s => if lane < 8 then writeLaneCtl lane v s else s) s)

/-- LANE_RESET_END: SRST clears on every lane that the reset covered (R59). -/
def execLaneResetEnd (lane : Nat) (s : State) : Host.Outcome State Fault Refusal :=
  .next (
    if s.on (fLn_CTL_SRST lane) then
      (s.lane lane).srst.foldl (fun a n => (a.setFld (fLn_CTL_SRST n) 0).modLane n ({ · with srst := [] })) s
    else s)

end Sys2Proof.Machine
end

