-- ==== Sys2Proof/Machine/Dsp.lean ====
section
/-! DEFINITION. The arithmetic of the receive path: spectra, the least-squares solve, the equaliser and its updates, gain
and peaking choices (R69, R70, R72-R76). Rational arithmetic throughout; cosines have 30 binary places (DESIGN CHOICE, log
entry 99). -/

namespace Sys2Proof.Machine

/-! ## Complex numbers and the 256-point transform -/

/-- A complex number with rational parts. -/
structure Cx where
  re : Rat
  im : Rat
  deriving DecidableEq, Repr, Inhabited

/-- Zero. -/
def Cx.zero : Cx := ⟨0, 0⟩
/-- Sum. -/
def Cx.add (a b : Cx) : Cx := ⟨a.re + b.re, a.im + b.im⟩
/-- Difference. -/
def Cx.sub (a b : Cx) : Cx := ⟨a.re - b.re, a.im - b.im⟩
/-- Product. -/
def Cx.mul (a b : Cx) : Cx := ⟨a.re * b.re - a.im * b.im, a.re * b.im + a.im * b.re⟩
/-- Conjugate. -/
def Cx.conj (a : Cx) : Cx := ⟨a.re, -a.im⟩
/-- A real multiple. -/
def Cx.scale (k : Rat) (a : Cx) : Cx := ⟨k * a.re, k * a.im⟩
/-- Squared magnitude. -/
def Cx.norm2 (a : Cx) : Rat := a.re * a.re + a.im * a.im
/-- The sum of a list. -/
def Cx.sum (l : List Cx) : Cx := l.foldl Cx.add Cx.zero

/-- The cosine of k/256 of a turn for k = 0 to 64, in 2^-30 (DESIGN CHOICE, log entry 99). -/
def cosTable : List Int :=
  [1073741824, 1073418433, 1072448455, 1070832474, 1068571464, 1065666786, 1062120190, 1057933813] ++
  [1053110176, 1047652185, 1041563127, 1034846671, 1027506862, 1019548121, 1010975242, 1001793390] ++
  [992008094, 981625251, 970651112, 959092290, 946955747, 934248793, 920979082, 907154608] ++
  [892783698, 877875009, 862437520, 846480531, 830013654, 813046808, 795590213, 777654384] ++
  [759250125, 740388522, 721080937, 701339000, 681174602, 660599890, 639627258, 618269338] ++
  [596538995, 574449320, 552013618, 529245404, 506158392, 482766489, 459083786, 435124548] ++
  [410903207, 386434353, 361732726, 336813204, 311690799, 286380643, 260897982, 235258165] ++
  [209476638, 183568930, 157550647, 131437462, 105245103, 78989349, 52686014, 26350943] ++
  [0]

/-- The cosine of k/256 of a turn. -/
def cos256 (k : Nat) : Rat :=
  let i := k % 256
  let v : Int :=
    if i ≤ 64 then cosTable.getD i 0
    else if i ≤ 128 then -cosTable.getD (128 - i) 0
    else if i ≤ 192 then -cosTable.getD (i - 128) 0
    else cosTable.getD (256 - i) 0
  (v : Rat) / 1073741824

/-- The unit vector at k/256 of a turn. -/
def turn256 (k : Nat) : Cx := ⟨cos256 k, cos256 (k + 192)⟩

/-- Bins 0 to 128 of the 256-point transform of real values. -/
def spectrum (x : List Rat) : List Cx :=
  (List.range 129).map fun b => Cx.sum (x.zipIdx.map fun e => Cx.scale e.1 (turn256 (b * e.2 % 256)).conj)

/-- The real values at places `p` of the inverse transform; bins 129 to 255 are the conjugates of 127 to 1 (R72). -/
def inverseAt (z : List Cx) (p : List Nat) : List Rat :=
  p.map fun n =>
    let t (b : Nat) : Rat := ((z.getD b Cx.zero).mul (turn256 (b * n % 256))).re
    (t 0 + t 128 + 2 * (List.range 127).foldl (fun a b => a + t (b + 1)) 0) / 256

/-! ## Taps (R72) -/

/-- A tap's value: its codes over 2,048. -/
def tapValue (t : Int × Int) : Cx := ⟨(t.1 : Rat) / 2048, (t.2 : Rat) / 2048⟩

/-- A code of 15 bits, two's complement: the nearest it can hold (DESIGN CHOICE, log entry 117). -/
def clampTap (x : Int) : Int := max (-16384) (min 16383 x)

/-- The tap nearest a value (DESIGN CHOICE, log entry 23). -/
def tapOf (z : Cx) : Int × Int := (clampTap (roundFree (2048 * z.re)), clampTap (roundFree (2048 * z.im)))

/-- The taps of bins 0 to 128 as values. -/
def tapValues (t : Tab Nat (Int × Int)) : List Cx := (List.range 129).map fun b => tapValue (Tab.get (0, 0) t b)

/-- Taps of bins 0 to 128 from their values. -/
def tapsOf (z : List Cx) : Tab Nat (Int × Int) := (List.range 129).map fun b => (b, tapOf (z.getD b Cx.zero))

/-- A complex number over a real one. -/
def Cx.over (a : Cx) (d : Rat) : Cx := ⟨quot a.re d, quot a.im d⟩

/-! ## The equaliser -/

/-- Samples as the equaliser takes them: in levels, inverted where RX_CTL.POL_INV says so. One sample code is a free
number of levels (DESIGN CHOICE, log entry 23). -/
def sampleLevels (inv : Bool) (x : List Int) : List Rat :=
  x.map fun v => (if inv then -1 else 1) * (v : Rat) * Config.sampleUnit

/-- One block of overlap-save: the 128 equalised symbols of 256 samples, of which the last 128 are new. -/
def equalise (taps : List Cx) (y : List Cx) : List Rat :=
  inverseAt ((taps.zip y).map fun e => e.1.mul e.2) ((List.range 128).map (· + 128))

/-- A square root to 40 binary places (DESIGN CHOICE, log entry 99). -/
def sqrtQ (x : Rat) : Rat := (Nat.sqrt (x.num.toNat * 2 ^ 80 / x.den) : Rat) / 2 ^ 40

/-- The sum of the squares of a list. -/
def energy (x : List Rat) : Rat := x.foldl (fun a v => a + v * v) 0

/-- The blocks of 256 that begin every 128 of a run: `n` of them. -/
def blocksOf {α : Type} (n : Nat) (x : List α) : List (List α) := (List.range n).map fun i => (x.drop (128 * i)).take 256

/-- The levels of PAM4. -/
def Pam4.level : Pam4 → Rat
  | .m3 => -3
  | .m1 => -1
  | .p1 => 1
  | .p3 => 3

/-- The slicer: the level nearest a value (DEDUCED, log entry 100). -/
def slice (x : Rat) : Pam4 := if x < -2 then .m3 else if x < 0 then .m1 else if x < 2 then .p1 else .p3

/-- Symbols passed through the target 1 + g1 D + g2 D², from the third on (R73, R78). -/
def throughTarget (g1 g2 : Rat) : List Rat → List Rat
  | c :: b :: a :: r => (a + g1 * b + g2 * c) :: throughTarget g1 g2 (b :: a :: r)
  | _ => []

/-! ## Least squares (R73, R74) -/

/-- One bin of the solve over blocks of (received, reference) spectra: H and the noise power of the fit's residual, relative
to the reference as H is; then W (R73) (DEDUCED, log entry 101). -/
def solveBin (pairs : List (Cx × Cx)) : Cx :=
  let den := pairs.foldl (fun a e => a + e.2.norm2) 0
  let h := (Cx.sum (pairs.map fun e => e.1.mul e.2.conj)).over den
  let res := pairs.foldl (fun a e => a + (e.1.sub (h.mul e.2)).norm2) 0
  h.conj.over (h.norm2 + quot res den)

/-- The solve over 8 blocks: received samples in levels, and the reference through the target, 1,152 of each (R73). -/
def solveTaps (rx ref : List Rat) : List Cx :=
  let ys := (blocksOf 8 rx).map spectrum
  let ts := (blocksOf 8 ref).map spectrum
  (List.range 129).map fun b => solveBin ((ys.zip ts).map fun e => (e.1.getD b Cx.zero, e.2.getD b Cx.zero))

/-- The pilot at a place of a superframe, if there is one (R133). -/
def pilotAt (pos : Nat) : Option Pam4 := if pos % 1089 = 1088 then some (pilot (pos % 17424 / 1089)) else none

/-- Slicer decisions, with the pilots in place of decisions where `coded`; `pos` is the place of the first (R74). -/
def decideRun (coded : Bool) (pos : Nat) (z : List Rat) : List Pam4 :=
  z.zipIdx.map fun e => match (if coded then pilotAt (pos + e.2) else none) with
    | some p => p
    | none => slice e.1

/-- The level and the sign of a run against its pilots: what the pilots, at their places, came out as relative to their levels (R74). -/
def pilotGain (pos : Nat) (z : List Rat) : Rat :=
  let s := z.zipIdx.foldl (fun (a : Rat × Rat) e => match pilotAt (pos + e.2) with
    | some p => (a.1 + e.1 * p.level, a.2 + p.level * p.level)
    | none => a) (0, 0)
  quot s.1 s.2

/-- A run at the level and with the sign that its pilots give it (R74). -/
def byPilots (pos : Nat) (z : List Rat) : List Rat :=
  let g := pilotGain pos z
  z.map fun v => quot v g

/-- One solve of decision-directed training: 1,280 samples are equalised with the taps so far, and the 1,152 decisions on
them, through the target, are the reference of the next solve; for the first solve of M400 the pilots give level and sign (R74)
(DEDUCED, log entry 101). -/
def directedSolve (coded first : Bool) (g1 g2 : Rat) (pos : Nat) (x : List Rat) (taps : List Cx) : List Cx :=
  let z := ((blocksOf 9 x).map fun y => equalise taps (spectrum y)).flatten
  let d := (decideRun coded (pos + 128) (if coded && first then byPilots (pos + 128) z else z)).map Pam4.level
  solveTaps (x.drop 128) (throughTarget g1 g2 (d.headD 0 :: d.headD 0 :: d))

/-- Decision-directed training: four solves from taps of 1 + 0j, each over 8 new blocks; 4,352 samples (R74). -/
def directedTaps (coded : Bool) (g1 g2 : Rat) (pos : Nat) (x : List Rat) : List Cx :=
  (List.range 4).foldl (fun w i => directedSolve coded (i == 0) g1 g2 (pos + 1024 * i) ((x.drop (1024 * i)).take 1280) w)
    (List.replicate 129 ⟨1, 0⟩)

/-- Training from catch: 1,152 samples against the sequence, whose catch block `pos` is the first new block (R73, R137). -/
def catchTaps (g1 g2 : Rat) (trainId repLeft pos : Nat) (x : List Rat) : List Cx :=
  let c := ((catchTrainSymbols trainId repLeft).drop (1022 + 128 * pos)).take 1154
  solveTaps x (throughTarget g1 g2 (c.map Pam4.level))

/-- What 256 samples of a preamble come out as, the energy that P has through the target over theirs: the square of the common gain
(R144, rule 2) (DEDUCED, log entry 118). -/
def preambleGain (g1 g2 : Rat) (taps : List Cx) (x : List Rat) : Rat :=
  let p := preamble.map Pam4.level
  let z := inverseAt ((taps.zip (spectrum x)).map fun e => e.1.mul e.2) (List.range 256)
  quot (energy (throughTarget g1 g2 (p.drop 254 ++ p))) (energy z)

/-! ## The LMS update (R75, R76) -/

/-- The least-squares fit of a linear phase slope to an update of the taps of bins 1 to 127: the change j·a·b·W_b of a slope
a that fits it best (R76) (DEDUCED, log entry 101). -/
def phaseSlope (w u : List Cx) : Rat :=
  let s (f : Nat → Rat) : Rat := (List.range 127).foldl (fun a i => a + f (i + 1)) 0
  quot (s fun b => (b : Rat) * ((w.getD b Cx.zero).conj.mul (u.getD b Cx.zero)).im)
    (s fun b => (b : Rat) * b * (w.getD b Cx.zero).norm2)

/-- An update less the linear phase slope in it (R76). -/
def withoutSlope (w u : List Cx) : List Cx :=
  let a := phaseSlope w u
  (List.range 129).map fun b =>
    let v := u.getD b Cx.zero
    if 1 ≤ b ∧ b ≤ 127 then v.sub ((Cx.mk 0 (a * b)).mul (w.getD b Cx.zero)) else v

/-- 2^-k E_b conj(Y_b) / P_b (R75). -/
def lmsUpdate (k : Nat) (e y : List Cx) (p : List Rat) : List Cx :=
  (List.range 129).map fun b => ((e.getD b Cx.zero).mul (y.getD b Cx.zero).conj).over (2 ^ k * p.getD b 0)

/-- The taps after one block: the normalised LMS update with its slope removed (R75, R76). -/
def lmsTaps (k : Nat) (taps : Tab Nat (Int × Int)) (e y : List Cx) (p : List Rat) : Tab Nat (Int × Int) :=
  let w := tapValues taps
  tapsOf ((w.zip (withoutSlope w (lmsUpdate k e y p))).map fun t => t.1.add t.2)

/-- The running average of |Y_b|² over the blocks held, at most 64 (R75) (DEDUCED, log entry 101). -/
def meanPower (ps : List (List Rat)) : List Rat :=
  (List.range 129).map fun b => quot (ps.foldl (fun a p => a + p.getD b 0) 0) ps.length

/-! ## Gain and peaking (R69, R70) -/

/-- 10^(1/80), a step of 0.25 dB, in 2^-60 (DESIGN CHOICE, log entry 99). -/
def vgaStep : Rat := (1186587420355160253 : Rat) / 2 ^ 60

/-- Every tap times the inverse of the steps from one VGA code to another (R70). -/
def scaleTaps (old new : Nat) (taps : Tab Nat (Int × Int)) : Tab Nat (Int × Int) :=
  let k : Rat := if old ≤ new then 1 / vgaStep ^ (new - old) else vgaStep ^ (old - new)
  taps.map fun t => (t.1, tapOf (Cx.scale k (tapValue t.2)))

/-- How far a power ratio lies from -6 dB: the fifth power of their quotient, or of its inverse where that is larger (R69). -/
def ctleScore (p : Nat × Nat) : Option Rat :=
  if p.1 = 0 ∨ p.2 = 0 then none
  else
    let q : Rat := ((p.1 : Rat) / p.2) ^ 5 * 1000
    some (max q (1 / q))

/-- The peaking whose ratio of power in bins 96-127 to power in bins 1-32 lies closest to -6 dB; the lower on a tie (R69)
(DEDUCED, log entry 101). -/
def chooseCtle (powers : List (Nat × Nat)) : Option Nat :=
  (powers.zipIdx.foldl (fun (a : Option (Nat × Rat)) e =>
    match ctleScore e.1, a with
    | none, _ => a
    | some q, none => some (e.2, q)
    | some q, some b => if q < b.2 then some (e.2, q) else a) none).map (·.1)

end Sys2Proof.Machine
end

