-- ==== Sys2Proof/Machine/Trellis.lean ====
section
/-! DEFINITION. The detector of a lane: tentative decisions and the DFE, the trellis with the joint decoding of the inner
code, precode decoding and the inner FEC of M200 variant B (R78, R80, R81, R127, R134, R135). -/

namespace Sys2Proof.Machine

/-- What a lane's detector works with: the inner code of its mode (0 none, 1 that of R130, 2 that of IEEE 802.3dj), the target,
the channel memory L, the active DFE taps RX_CTL.PRECODE, and the pattern of a PRBS checker. -/
structure Det where
  code    : Nat
  g1      : Rat
  g2      : Rat
  mem     : Nat
  dfe     : List Rat
  precode : Bool
  check   : Option Nat
  deriving DecidableEq, Repr

/-- The detector of a lane (R78, R80, R81); with CHK = 1 it takes no account of an inner code or of pilots (R510). -/
def State.det (s : State) (n : Nat) : Det :=
  let tap (f : FldId) : Rat := (s.sfld f : Rat) / 1024
  { code := if s.on (fLn_PRBS_STAT_CHK n) then 0 else if s.mode n = m400 then 1 else if s.mode n = m200 ∧ s.fld (fLn_MODE_STAT_VARIANT n) = 1 then 2 else 0
    g1 := (s.fld (fLn_TRELLIS_G1 n) : Rat) / 256, g2 := (s.sfld (fLn_TRELLIS_G2 n) : Rat) / 256
    mem := s.fld (fLn_RX_STAT_MEM n)
    dfe := ([tap (fLn_DFE_TAP_TAP1 n), tap (fLn_DFE_TAP_TAP2 n), tap (fLn_DFE_TAP_TAP3 n)]).take (s.fld (fLn_RX_STAT_DFE_N n))
    precode := s.mode n != m400 && bits (Tab.get (regReset (rLn_RX_CTL n)) s.act (rLn_RX_CTL n)) 8 8 == 1
    check := if s.on (fLn_PRBS_STAT_CHK n) then some (s.fld (fLn_PRBS_STAT_PATTERN n)) else none }

/-- A symbol that was decided `i` places ago, as a level; none decided counts as 0. -/
def levelAgo (h : List Pam4) (i : Nat) : Rat := match h[i]? with | some a => a.level | none => 0

/-- What the DFE leaves of an equalised symbol: tap j cancels the post-cursor at delay L + j, from tentative decisions (R80). -/
def afterDfe (d : Det) (tent : List Pam4) (x : Rat) : Rat :=
  d.dfe.zipIdx.foldl (fun a e => a - e.1 * levelAgo tent (d.mem + e.2)) x

/-- The tentative decision of the slicer ahead of the trellis; a pilot is known (R74, R80) (DEDUCED, log entry 100). -/
def tentative (d : Det) (pos : Nat) (tent : List Pam4) (u : Rat) : Pam4 :=
  match (if d.code = 1 then pilotAt pos else none) with
  | some p => p
  | none => slice (u - d.g1 * levelAgo tent 0 - d.g2 * levelAgo tent 1)

/-! ## The trellis -/

/-- Every symbol with the encoder's state after it: without a code all four; with that of R130 the four pairs of information
bits at symbols 0 to 6 of a puncture period, two at symbol 7, and the pilot alone at a pilot (R134). -/
def branches (code pos : Nat) (e : Inner) : List (Pam4 × Inner) :=
  if code ≠ 1 then [.m3, .m1, .p1, .p3].map (·, e)
  else match pilotAt pos with
    | some p => [(p, e)]
    | none =>
      if pos % 1089 % 8 = 7 then [false, true].map fun u => (grayMap u (e.step u).1, (e.step u).2)
      else [(false, false), (false, true), (true, true), (true, false)].map fun b =>
        (grayMap b.1 b.2, ((e.step b.1).2.step b.2).2)

/-- The level that the target gives a symbol after two others, newest first (R78). -/
def expected (d : Det) (a : Pam4) (prev : List Pam4) : Rat := a.level + d.g1 * levelAgo prev 0 + d.g2 * levelAgo prev 1

/-- The survivors that continue one. -/
def extendSurv (d : Det) (pos : Nat) (u : Rat) (v : Surv) : List Surv :=
  (branches d.code pos v.enc).map fun b =>
    ⟨b.2, b.1 :: v.prev.take 1, b.1 :: v.path, v.metric + (u - expected d b.1 v.prev) ^ 2⟩

/-- Two survivors are in the same state: encoder and the last L symbols (R78, R134). -/
def sameState (mem : Nat) (a b : Surv) : Bool := decide (a.enc = b.enc ∧ a.prev.take mem = b.prev.take mem)

/-- A survivor joins the others: of two in one state the likelier stays. -/
def joinSurv (mem : Nat) (l : List Surv) (v : Surv) : List Surv :=
  match l.find? (sameState mem v) with
  | none => l ++ [v]
  | some w => if v.metric < w.metric then l.map (fun x => if sameState mem v x then v else x) else l

/-- The likeliest survivor. -/
def bestSurv (l : List Surv) : Option Surv :=
  l.foldl (fun a v => match a with | some w => if v.metric < w.metric then some v else a | none => some v) none

/-- All survivors with which a trellis of unknown state begins: 4^L, or 8 · 4^L with the code of R130 (R78, R134). -/
def allSurvs (code mem : Nat) : List Surv :=
  let ps := [Pam4.m3, .m1, .p1, .p3]
  let prevs := if mem = 2 then ps.flatMap fun a => ps.map fun b => [a, b] else ps.map fun a => [a]
  let encs := if code = 1 then (List.range 8).map fun i => (⟨i.testBit 0, i.testBit 1, i.testBit 2⟩ : Inner) else [{}]
  encs.flatMap fun e => prevs.map fun p => ⟨e, p, [], 0⟩

/-- The metric of the likeliest survivor whose oldest undecided symbol fulfils `p`. -/
def bestWhere (l : List Surv) (p : Pam4 → Bool) : Option Rat :=
  (bestSurv (l.filter fun v => match v.path.getLast? with | some a => p a | none => false)).map (·.metric)

/-- The pair of bits of a level (R132). -/
def grayBits : Pam4 → Bool × Bool
  | .m3 => (false, false)
  | .m1 => (false, true)
  | .p1 => (true, true)
  | .p3 => (true, false)

/-- The information bits of a symbol at its place: none at a pilot, the first alone at symbol 7 of a puncture period (R131, R133). -/
def infoBits (pos : Nat) (a : Pam4) : List Bool :=
  if pos % 1089 = 1088 then [] else if pos % 1089 % 8 = 7 then [(grayBits a).1] else [(grayBits a).1, (grayBits a).2]

/-- How many information bits of a decided symbol differ from the slicer's tentative decision (R127). -/
def infoDiffer (pos : Nat) (a t : Pam4) : Nat :=
  ((infoBits pos a).zip (infoBits pos t)).foldl (fun n e => if e.1 = e.2 then n else n + 1) 0

/-- The bits that arrived: the likelier of each. -/
def hardBits (soft : List (Option Rat × Option Rat)) : List Bool :=
  soft.map fun e => match e with
    | (some a, some b) => decide (b < a)
    | (none, some _) => true
    | _ => false

/-- The 128 bits of an inner codeword of M200 variant B that its decoder gives for the reliabilities of what arrived, each the
metrics of the likeliest paths with the bit 0 and 1: what arrived where that is a codeword, else one that the code's decoder chooses
(R135) (DESIGN CHOICE, log entry 102). -/
def djDecode (soft : List (Option Rat × Option Rat)) : List Bool :=
  let hard := (hardBits soft).take 120
  let parity (info : List Bool) := (List.range 8).map fun i => Config.djParity info i
  if hardBits soft = hard ++ parity hard then hardBits soft
  else
    let info := (List.range 120).map fun i => Config.djInfo soft i
    info ++ parity info

/-! ## One symbol -/

/-- A lane while a block passes its detector, with the block's errors, newest first, and the INNER_CNT increment. -/
structure Pass where
  lane  : Lane
  errs  : List Rat
  inner : Nat

/-- A symbol as precode decoding gives it, after the symbol decided before it (R81). -/
def Det.decoded (d : Det) (before : Nat) (a : Pam4) : Pam4 := if d.precode then Pam4.ofIndex ((a.index + before) % 4) else a

/-- The symbols of a merit window (R84). -/
abbrev meritSymbols := 2 ^ 20

/-- What a decided symbol gives is given: the symbol goes on to the decoders and counts in INNER_CNT and in the merit window, which
is complete with 2^20 symbols (R81, R84, R127). -/
def Pass.give (p : Pass) (g : Given) : Pass :=
  let l := p.lane
  let w := l.win.add g.lev g.exp g.z
  let l1 := { l with decided := l.decided ++ [g.sym], rsBits := l.rsBits + g.bits }
  { p with
    lane := if meritSymbols ≤ w.n then { l1 with win := {}, winDone := some w } else { l1 with win := w }
    inner := p.inner + g.inner }

/-- One bit at a checker: its register is filled from the bits received, then goes on by itself; an error where they differ (R510). -/
def checkBit (pattern : Nat) (r : List Bool × Nat) (b : Bool) : List Bool × Nat :=
  let w := prbsWidth pattern
  if r.1.length < w then (b :: r.1, r.2)
  else
    let x := prbsNext pattern r.1
    ((x :: r.1).take w, if x = b then r.2 else r.2 + 1)

/-- One symbol at a checker: SYNC after 256 error-free symbols, lost when 64 of the last 256 carry an error, upon which the checker seeds
again, as it does on an error before SYNC; it counts in SYNC (R510). -/
def Checker.take (pattern : Nat) (c : Checker) (a : Pam4) : Checker :=
  let (reg, n) := [(grayBits a).1, (grayBits a).2].foldl (checkBit pattern) (c.reg, 0)
  if !c.sync then
    if c.reg.length < prbsWidth pattern then { c with reg := reg }
    else if n ≠ 0 then { c with reg := [], run := 0 }
    else if c.run + 1 = 256 then { reg := reg, sync := true }
    else { c with reg := reg, run := c.run + 1 }
  else
    let f := ((n != 0) :: c.flags).take 256
    let lost := decide (64 ≤ f.countP id)
    { reg := if lost then [] else reg, sync := !lost, flags := if lost then [] else f, bits := c.bits + 2, errs := c.errs + n }

/-- A decided symbol leaves the trellis, which held it for `ago` symbols; while a marker or a catch sequence may be arriving, what it
gives is held (R78, R81, R84, R127, R135, R137, R143). -/
def deliver (d : Det) (ago : Nat) (a : Pam4) (rel : List (Option Rat × Option Rat)) (p : Pass) : Pass :=
  let l := p.lane
  let pos := (l.sf + 17424 - ago) % 17424
  let diff := if d.code = 1 then infoDiffer pos a (l.undecided.headD a) else 0
  let soft := if d.code = 2 ∧ pos % 1089 ≠ 1088 then l.soft ++ rel else l.soft
  let full := decide (128 ≤ soft.length)
  let changed := full && djDecode soft != hardBits soft
  let g : Given :=
    { sym := d.decoded l.rxPre a, bits := if d.code = 1 then (infoBits pos a).length else 0, inner := diff + (if changed then 1 else 0)
      lev := a.index, exp := expected d a l.fin, z := l.us.headD 0 }
  let l1 := { l with
    rxPre := a.index, fin := (a :: l.fin).take 2,
    chk := match d.check with | some pat => l.chk.take pat (d.decoded l.rxPre a) | none => l.chk, undecided := l.undecided.tail, us := l.us.tail, soft := if full then [] else soft }
  if l.fork.isSome then { p with lane := { l1 with held := l1.held ++ [g] } } else Pass.give { p with lane := l1 } g

/-- What has been held is given: nothing but data has arrived. -/
def Pass.release (p : Pass) : Pass := p.lane.held.foldl Pass.give { p with lane := { p.lane with fork := none, held := [] } }

/-- The symbols of a catch training sequence up to the end of its header, and of the whole sequence (R137). -/
abbrev catchLead := 1152
abbrev catchLen := 9408

/-- In M400 the detector at a superframe boundary is kept, for an idle marker or a catch sequence may begin there (R137, R143). -/
def openFork (d : Det) (p : Pass) : Pass :=
  let l := p.lane
  if d.code = 1 ∧ l.sf = 0 ∧ l.skip = 0 then
    let q := p.release
    { q with lane := { q.lane with fork := some ⟨q.lane.surv, q.lane.undecided, q.lane.us, q.lane.fin, []⟩ } }
  else p

/-- The fork ends once neither can have begun at the boundary: a sequence would show its header by then, within a block (R137, R143). -/
def closeFork (p : Pass) : Pass :=
  match p.lane.fork with
  | some f => if catchLead + 128 ≤ f.xs.length then p.release else p
  | none => p

/-- The symbol after S is the first of a superframe: the encoder is in state 0 and the channel state is taken from S (R130, R137,
R144). -/
def afterS (l : Lane) : Lane :=
  { l with
    sf := 0, surv := [⟨{}, startMarker.reverse.take 2, [], 0⟩], tent := startMarker.reverse, fin := startMarker.reverse.take 2
    undecided := [], us := [] }

/-- A symbol of a catch sequence that the receiver does not train on passes: it is no data (R137). -/
def skipSymbol (l : Lane) : Lane :=
  if l.skip = 1 then afterS { l with skip := 0 } else { l with skip := l.skip - 1 }

/-- A value at the trellis input after a boundary. -/
def Fork.push (u : Rat) (f : Fork) : Fork := { f with xs := f.xs ++ [u] }

/-- One symbol passes the trellis, which decides with a traceback of 64 symbols (R78, R134). -/
def trellisStep (d : Det) (u : Rat) (t : Pam4) (p : Pass) : Pass :=
  let l := p.lane
  let sv := ((if l.surv.isEmpty then allSurvs d.code d.mem else l.surv).flatMap (extendSurv d l.sf u)).foldl (joinSurv d.mem) []
  let l1 := { l with
    sf := (l.sf + 1) % 17424, undecided := l.undecided ++ [t], us := l.us ++ [u], fork := l.fork.map (Fork.push u) }
  match bestSurv sv with
  | none => { p with lane := { l1 with surv := sv } }
  | some b =>
    if b.path.length ≤ 64 then { p with lane := { l1 with surv := sv } }
    else
      let rel := [fun a : Pam4 => (grayBits (d.decoded l.rxPre a)).1, fun a => (grayBits (d.decoded l.rxPre a)).2].map fun f =>
        (bestWhere sv (fun a => !f a), bestWhere sv f)
      let cut := sv.map fun v => { v with path := v.path.take 64, metric := v.metric - b.metric }
      deliver d 65 (b.path.getLast?.getD .m3) rel { p with lane := { l1 with surv := cut } }

/-- One equalised symbol passes DFE, slicer and trellis (R78, R80, R134); a symbol of a skipped sequence passes no trellis. -/
def detect (d : Det) (p0 : Pass) (x : Rat) : Pass :=
  let p := openFork d p0
  let l := p.lane
  let u := afterDfe d l.tent x
  let t := tentative d (if l.skip = 0 then l.sf else 0) l.tent u
  let p1 : Pass := { p with lane := { l with tent := (t :: l.tent).take 136 }, errs := (expected d t l.tent - u) :: p.errs }
  if l.skip = 0 then closeFork (trellisStep d u t p1) else { p1 with lane := skipSymbol p1.lane }

/-! ## What is known of a marker or a sequence ends the traceback (R137, R141, R143) -/

/-- A survivor goes on with a known symbol and encoder state. -/
def Surv.force (d : Det) (u : Rat) (v : Surv) (a : Pam4) (e : Inner) : Surv :=
  ⟨e, a :: v.prev.take 1, a :: v.path, v.metric + (u - expected d a v.prev) ^ 2⟩

/-- A survivor goes on with a pair of the idle marker's tail (R141). -/
def Surv.tail (d : Det) (v : Surv) (u : Rat) : Surv :=
  let t := v.enc.d1 ^^ v.enc.d3
  let (p, e) := v.enc.step t
  v.force d u (grayMap t p) e

/-- A survivor goes on with known symbols. -/
def Surv.run (d : Det) (v : Surv) (x : List (Rat × Pam4)) : Surv := x.foldl (fun v e => v.force d e.1 e.2 v.enc) v

/-- A survivor goes on with the idle marker: the tail, its pair 00, and -S twice (R141). -/
def Surv.marker (d : Det) (xs : List Rat) (v : Surv) : Surv :=
  ((xs.take 3).foldl (fun v u => v.tail d u) v).run d
    ((xs.drop 3).zip (grayMap false false :: (startMarker.map Pam4.neg ++ startMarker.map Pam4.neg)))

/-- What stood undecided at a place of the superframe is delivered: on the best of the survivors, which have gone on with `n` known symbols. -/
def flushFork (d : Det) (n sf : Nat) (f : Fork) (sv : List Surv) (p : Pass) : Pass :=
  let l := { p.lane with sf := sf, surv := [], undecided := f.undecided, us := f.us, fin := f.fin, fork := none, held := [] }
  match bestSurv sv with
  | none => { p with lane := l }
  | some b =>
    let path := (b.path.drop n).reverse
    (path.foldl (fun (a : Pass × Nat) x => (deliver d a.2 x [] a.1, a.2 - 1)) ({ p with lane := l }, path.length)).1

/-- The survivors with which a fork began. -/
def Fork.survs (d : Det) (f : Fork) : List Surv := if f.surv.isEmpty then allSurvs d.code d.mem else f.surv

/-- The traceback ends on the idle marker's known tail and -S, so that every bit before the marker is delivered, and none of the
marker (R141, R143). Where the boundary is not held, what is not decided is decided on the path that ends in encoder state 0. -/
def flush (d : Det) (p : Pass) : Pass :=
  match p.lane.fork with
  | some f =>
    let xs := f.xs.take 132
    flushFork d xs.length 0 f ((f.survs d).map (Surv.marker d xs)) p
  | none =>
    flushFork d 0 p.lane.sf ⟨[], p.lane.undecided, p.lane.us, p.lane.fin, []⟩ ((p.lane.surv).filter fun v => d.code != 1 || decide (v.enc = {})) p

/-- A catch sequence that the receiver does not train on began at the last boundary: what came before it is delivered, and the rest
of the sequence is skipped (R137). -/
def skipCatch (d : Det) (p : Pass) : Pass :=
  let (f, n, sf) : Fork × Nat × Nat := match p.lane.fork with
    | some f => (f, max catchLead f.xs.length, 0)
    | none => (⟨p.lane.surv, p.lane.undecided, p.lane.us, p.lane.fin, []⟩, catchLead, p.lane.sf)
  let known := (f.xs.zip preamble).take 64
  let q := flushFork d known.length sf f ((f.survs d).map fun v => v.run d known) p
  { q with lane := { q.lane with skip := catchLen - n } }

end Sys2Proof.Machine
end

