-- ==== Sys2Proof/Machine/LaneRx.lean ====
section
/-! DEFINITION. The receiver of a lane: its state table, training, adaptation, merit, electrical idle and wake
(R69-R103, R139, R143-R149). -/

namespace Sys2Proof.Machine

/-- A field of a register whose writes take effect later: the value in effect (R97). -/
def State.inForce (s : State) (f : FldId) : Nat := s.actFld f

/-! ## The state table (R88) -/

/-- SIGNAL_DETECT: SEARCH goes to ACQUIRE, FAILED stays FAILED; RX_STAT.SIGDET shows the signal but in IDLE, where its duration
counts for a missed burst (R88, R91, R149) (DESIGN CHOICE, log entry 4). -/
def execSignalDetect (lane : Nat) (s : State) : Host.Outcome State Fault Refusal :=
  .next (
    if s.rx lane = rxSearch then toAcquire lane (s.setFld (fLn_RX_STAT_SIGDET lane) 1)
    else if s.rx lane = rxIdle then s.modLane lane fun l => { l with sigSince := some (l.sigSince.getD s.up) }
    else if s.rx lane = rxOff then s
    else s.setFld (fLn_RX_STAT_SIGDET lane) 1)

/-- LOSS_OF_SIGNAL: the receiver goes to SEARCH and raises LOS; RETRY stays (R88, R89). In IDLE the signal of R149 ends. -/
def execLossOfSignal (lane : Nat) (s : State) : Host.Outcome State Fault Refusal :=
  .next (
    let r := s.rx lane
    if r = rxAcquire ∨ r = rxTrain ∨ r = rxConverge ∨ r = rxLocked ∨ r = rxWake then
      raise_ (fLn_RX_EVENT_LOS lane) (((leaveLocked lane s).setRx lane rxSearch).setFld (fLn_RX_STAT_SIGDET lane) 0)
    else if r = rxIdle then s.modLane lane ({ · with sigSince := none })
    else if r = rxFailed then s.setFld (fLn_RX_STAT_SIGDET lane) 0
    else s)

/-- The training source in force (R94, R98): does training start from catch? -/
def State.trainsFromCatch (s : State) (n : Nat) : Bool :=
  let src := s.inForce (fLn_RX_CTL_TRAIN_SRC n)
  src == 1 || (src == 0 && s.mode n == m400)

/-- How far the RMS of the samples, in 0.001 dBFS, lies above the target of VGA_TARGET, which is -(6 + 0.25 VGA_TARGET) dBFS (R70, R99). -/
def State.agcDev (s : State) (n : Nat) (rms : Int) : Int := rms + 6000 + 250 * s.fld (fLn_RX_AFE_VGA_TARGET n)

/-- The VGA code with which the RMS, now `rms`, equals the target (R70); between two steps of 0.25 dB either (DESIGN CHOICE, log entry 23). -/
def State.vgaFor (s : State) (n : Nat) (rms : Int) : Nat :=
  (max 0 (min 104 ((s.fld (fLn_RX_AFE_VGA n) : Int) - roundFree ((s.agcDev n rms : Rat) / 250)))).toNat

/-- In ACQUIRE, TRAIN and CONVERGE the automatic gain control steps freely; the taps are scaled by the inverse, so the
equalised output does not move (R70, R82) (DESIGN CHOICE, log entry 23). -/
def agcFree (n : Nat) (rms : Int) (s : State) : State :=
  if s.on (fLn_RX_AFE_VGA_AUTO n) then
    let v := s.fld (fLn_RX_AFE_VGA n)
    (s.setFld (fLn_RX_AFE_VGA n) (s.vgaFor n rms)).modLane n fun l =>
      { l with taps := if l.taps.isEmpty then [] else scaleTaps v (s.vgaFor n rms) l.taps }
  else s

/-- ACQUIRE's conditions: the gain within 1 dB of its target, the frequency within the capture range, and a peaking to choose
(R69-R71, R88). With VGA_AUTO = 0 no gain control runs, and the condition on it is not applied (DESIGN CHOICE, log entry 119). -/
def State.acquired (s : State) (n : Nat) (powers : List (Nat × Nat)) (rms freq : Int) : Bool :=
  (!s.on (fLn_RX_AFE_VGA_AUTO n)
    || decide ((s.agcDev n rms + 250 * ((s.vgaFor n rms : Int) - s.fld (fLn_RX_AFE_VGA n))).natAbs ≤ 1000))
  && decide (freq.natAbs ≤ 25000) && (!s.on (fLn_RX_AFE_CTLE_AUTO n) || (chooseCtle (powers.take 16)).isSome)

/-- ACQUIRE_DONE: the measured powers in bins 96-127 and 1-32 of each peaking, the RMS of the samples in 0.001 dBFS, and what the loops
have found. Peaking and gain are set where automatic, DC restore takes the offset, and TRAIN begins (R69-R71, R82, R88). -/
def execAcquireDone (lane : Nat) (powers : List (Nat × Nat)) (rms : Int) (lp : Loops) (s : State) : Host.Outcome State Fault Refusal :=
  .next (
    if s.rx lane = rxAcquire ∧ s.acquired lane powers rms lp.freq = true then
      let s1 := if s.on (fLn_RX_AFE_CTLE_AUTO lane) then
          let a := s.setFld (fLn_RX_AFE_CTLE lane) ((chooseCtle (powers.take 16)).getD 0)
          { a with act := Tab.set a.act (rLn_RX_AFE lane) (a.reg (rLn_RX_AFE lane)) }
        else s
      let s2 := agcFree lane rms s1
      let s3 := (s2.setSFld (fLn_RX_TIMING_FREQ_OFS lane) lp.freq).setRx lane rxTrain
      s3.modLane lane ({ · with fromCatch := s.trainsFromCatch lane, curId := none, dc := lp.dc, phase := lp.phase })
    else s)

/-- ACQUIRE_TIMEOUT: ACQUIRE again with RETRY incremented, or FAILED (R88). -/
def execAcquireTimeout (lane : Nat) (s : State) : Host.Outcome State Fault Refusal :=
  .next (if s.rx lane = rxAcquire then retry lane (toAcquire lane) s else s)

/-- The candidate pairs (L, N) of a mode, restricted where the host fixes L or N (R80, R90, R94). -/
def State.candidates (s : State) (n : Nat) : List (Nat × Nat) :=
  let ls := if s.on (fLn_TRELLIS_MEM_AUTO n) then [1, 2] else [s.inForce (fLn_TRELLIS_MEM n)]
  let all := if s.mode n = m100 then [0, 1] else [1, 2, 3]
  let ns := if s.on (fLn_DFE_CTL_N_AUTO n) then all else [s.inForce (fLn_DFE_CTL_N n)]
  ls.flatMap fun l => ns.map fun k => (l, k)

/-- The receiver runs with a candidate pair (R80, R90): g2 is 0 for L = 1 and taps beyond N are 0 (R78, R80); the trellis starts
anew where its memory changes. -/
def useCandidate (n : Nat) (c : Nat × Nat) (s : State) : State :=
  let s0 := if s.fld (fLn_RX_STAT_MEM n) = c.1 then s else s.modLane n ({ · with surv := [], undecided := [] })
  let s1 := (s0.setFld (fLn_RX_STAT_MEM n) c.1).setFld (fLn_RX_STAT_DFE_N n) c.2
  let s2 := if c.1 = 1 then s1.setFld (fLn_TRELLIS_G2 n) 0 else s1
  let s3 := if c.2 < 3 then s2.setFld (fLn_DFE_TAP_TAP3 n) 0 else s2
  let s4 := if c.2 < 2 then s3.setFld (fLn_DFE_TAP_TAP2 n) 0 else s3
  if c.2 < 1 then s4.setFld (fLn_DFE_TAP_TAP1 n) 0 else s4

/-- The samples of a solve are complete: 8 blocks of the catch sequence with the overlap, from a block of it; four times 8
new blocks without it (R73, R74). -/
def Lane.solvable (l : Lane) (pos : Nat) (rx : List Int) : Bool :=
  if l.fromCatch then l.curId.isSome && decide (pos ≤ 56) && rx.length == 1152 else rx.length == 4352

/-- The taps that TRAIN solves (R73, R74). -/
def State.solved (s : State) (n pos : Nat) (rx : List Int) : List Cx :=
  let l := s.lane n
  let d := s.det n
  let x := sampleLevels (s.inForce (fLn_RX_CTL_POL_INV n) == 1) rx
  if l.fromCatch then catchTaps d.g1 d.g2 (l.curId.getD 0) l.curRep pos x else directedTaps (d.code == 1) d.g1 d.g2 pos x

/-- TRAIN_SOLVE_DONE: the samples of the solve, the catch block or the place in the superframe with which they begin, the place
of the next symbol, and their RMS. The taps are solved, a step of the gain scales them, and CONVERGE begins; the superframe phase is known in
M400, from the sequence or from the pilots (R70, R72-R75, R82, R88, R97, R133, R152). A train from catch needs its sequence first
(R88, R139). -/
def execTrainSolveDone (lane : Nat) (tr : TrainRx) (s : State) : Host.Outcome State Fault Refusal :=
  .next (
    let l := s.lane lane
    if s.rx lane ≠ rxTrain ∨ l.solvable tr.pos tr.rx = false then s
    else
      let s0 := { s with act := Tab.set s.act (rLn_DFE_CTL lane) (s.reg (rLn_DFE_CTL lane)) }
      let s1 := agcFree lane tr.rms (s0.modLane lane ({ · with taps := tapsOf (s.solved lane tr.pos tr.rx) }))
      let cands := s1.candidates lane
      let l1 := dropStream { s1.lane lane with
        gain := 1, win := {}, winDone := none, dfeSyms := 0, tgtSyms := 0, powers := [], sf := tr.next % 17424
        k := 6, kBlocks := 0, cand := cands.head?, candWin := 0, candSum := 0, scored := [], chosen := none,
        lastId := if l.fromCatch then l.curId else none, lockRun := 0, failRun := 0 }
      let s2 := ((s1.setLane lane l1).setRx lane rxConverge).setFld (fLn_RX_STAT_TRAINED_CATCH lane) (if l.fromCatch then 1 else 0)
      let s3 := if (s.det lane).code = 1 then s2.setFld (fLn_FEC_STAT_SF_LOCK lane) 1 else s2
      match cands with
      | c :: _ => useCandidate lane c s3
      | [] => s3)

/-- CATCH_WAIT_EXPIRY (R88, R98). -/
def execCatchWaitExpiry (lane : Nat) (s : State) : Host.Outcome State Fault Refusal :=
  .next (
    let l := s.lane lane
    if s.rx lane ≠ rxTrain ∨ l.fromCatch = false ∨ l.curId ≠ none then s
    else if s.inForce (fLn_RX_CTL_TRAIN_SRC lane) = 1 then retry lane id s
    else raise_ (fLn_RX_EVENT_TRAIN_FALLBACK lane) (s.setLane lane { l with fromCatch := false }))

/-- The CHECK of a catch header is the XOR of its other three nibbles (R137). -/
def headerOk (h : Nat) : Bool :=
  h % 16 == (h / 4096 % 16) ^^^ (h / 256 % 16) ^^^ (h / 16 % 16)

/-- INNER_CNT grows at the lane on which the symbols arrived (R127, R128). -/
def addInner (n d : Nat) (s : State) : State := add48 (rLn_FEC_PAIR_LO n 4) (rLn_FEC_PAIR_HI n 4) d s

/-- A catch sequence that the receiver does not train on is passed over (R137). -/
def passSequence (n : Nat) (s : State) : State :=
  let p := skipCatch (s.det n) ⟨s.lane n, [], 0⟩
  addInner n p.inner (s.setLane n p.lane)

/-- CATCH_SEQUENCE_DETECT: a header that fails CHECK counts as a false start; a receiver in TRAIN from catch trains on
the sequence; one in LOCKED retrains on a TRAIN_ID it has not trained from; in CONVERGE and LOCKED a sequence that is not trained on
is no data, and the symbol after it is the first of a superframe (R88, R137, R139). -/
def execCatchSequenceDetect (lane header : Nat) (s : State) : Host.Outcome State Fault Refusal :=
  .next (
    if s.mode lane ≠ m400 then s
    else if !headerOk header then s.addSat (fLn_WAKE_CNT_FALSE lane)
    else
      let id_ := header / 256 % 256
      let l := s.lane lane
      if s.rx lane = rxTrain ∧ l.fromCatch = true then s.setLane lane { l with curId := some id_, curRep := header / 16 % 16 }
      else if s.rx lane = rxLocked ∧ s.inForce (fLn_RX_CTL_TRAIN_SRC lane) ≠ 2 ∧ l.lastId ≠ some id_ then
        let s1 := (leaveLocked lane s).setRx lane rxTrain
        raise_ (fLn_RX_EVENT_RETRAIN lane) (s1.modLane lane ({ · with fromCatch := true, curId := some id_, curRep := header / 16 % 16 }))
      else if s.rx lane = rxLocked ∨ s.rx lane = rxConverge then passSequence lane s
      else s)

/-- TIMING_LOCK_LOSS (R88). -/
def execTimingLockLoss (lane : Nat) (s : State) : Host.Outcome State Fault Refusal :=
  .next (if s.rx lane = rxLocked then raise_ (fLn_RX_EVENT_LOCK_LOST lane) (toAcquire lane s) else s)

/-! ## Adaptation (R75-R80) -/

/-- A block of 128 symbols passes equaliser and detector: what the trellis decides of it, its error, and the running average of
R75 (R75, R78, R80, R81, R127, R134). Where no samples came before it, as after TRAIN or a wake, its overlap is 128 samples of 0
(DESIGN CHOICE, log entry 120). -/
def blockPass (n : Nat) (rx : List Int) (s : State) : Pass × List Cx :=
  let l := s.lane n
  let inv := s.inForce (fLn_RX_CTL_POL_INV n) == 1
  let old := List.replicate (128 - l.samples.length) 0 ++ l.samples
  let y := spectrum (sampleLevels inv (old ++ rx))
  let z := (equalise (tapValues l.taps) y).map (l.gain * ·)
  let l1 := { l with
    samples := rx, powers := (y.map Cx.norm2 :: l.powers).take 64, decided := [], dfeSyms := l.dfeSyms + 128, tgtSyms := l.tgtSyms + 128 }
  let p := z.foldl (detect (s.det n)) ⟨l1, [], 0⟩
  ({ p with lane := { p.lane with errs := p.errs } }, y)

/-- The bits that a PRBS checker has compared in SYNC, and their errors, count (R510, R513). -/
def countChecked (n : Nat) (old new : Checker) (s : State) : State :=
  if new.bits ≤ old.bits then s
  else add48 (rLn_PRBS_ERR_LO n) (rLn_PRBS_ERR_HI n) (new.errs - old.errs)
    (add48 (rLn_PRBS_BITS_LO n) (rLn_PRBS_BITS_HI n) (new.bits - old.bits) s)

/-- The LMS update of a block that has passed (R75, R76): the errors take the places of the new samples, and the 128 that
overlap-save discards are 0. -/
def blockTaps (k : Nat) (p : Pass) (y : List Cx) : Tab Nat (Int × Int) :=
  lmsTaps k p.lane.taps (spectrum (List.replicate 128 0 ++ p.errs.reverse)) y (meanPower p.lane.powers)

/-- FDE_BLOCK_UPDATE: 128 new samples, and what timing recovery and DC restore have come to. One LMS update in CONVERGE and, unless frozen, in LOCKED; k rises after 2^k blocks; a PRBS checker counts
(R71, R75-R78, R80, R82, R510) (DESIGN CHOICE, log entry 23). -/
def execFdeBlockUpdate (lane : Nat) (rx : List Int) (lp : Loops) (s : State) : Host.Outcome State Fault Refusal :=
  .next (
    let kTrack := s.fld (fLn_FDE_CTL_K_TRACK lane)
    if (s.rx lane ≠ rxConverge ∧ s.rx lane ≠ rxLocked) ∨ rx.length ≠ 128 then s
    else
      let (p, y) := blockPass lane rx s
      let l := { p.lane with dc := lp.dc, phase := lp.phase }
      let s0 := countChecked lane (s.lane lane).chk l.chk s
      let s1 := if lp.freq.natAbs ≤ 25000 then s0.setSFld (fLn_RX_TIMING_FREQ_OFS lane) lp.freq else s0
      if s.rx lane = rxConverge then
        let taps := blockTaps l.k p y
        if l.k < kTrack ∧ 2 ^ l.k ≤ l.kBlocks + 1 then s1.setLane lane { l with taps := taps, k := l.k + 1, kBlocks := 0 }
        else s1.setLane lane { l with taps := taps, kBlocks := l.kBlocks + 1 }
      else
        let s2 := addInner lane p.inner s1
        if s.on (fLn_FDE_CTL_FREEZE lane) then s2.setLane lane l
        else s2.setLane lane { l with taps := blockTaps kTrack p y, k := kTrack })

/-- One code towards a sign, within bounds. -/
def stepCode (lo hi v sign : Int) : Int := max lo (min hi (v + Int.sign sign))

/-- The sign of a number. -/
def signQ (x : Rat) : Int := if x < 0 then -1 else if 0 < x then 1 else 0

/-- Sign-sign LMS: the sign in which a coefficient lowers the squared slicer error of the symbol `i` places back, where it weighs the
decision `j` places before that symbol's; 0 without an error (R79, R80). -/
def Lane.lmsSign (l : Lane) (i j : Nat) : Int := -(signQ (l.errs.getD i 0) * signQ (levelAgo l.tent (i + j)))

/-- DFE_ADAPT: 256 symbols have come since the last update, and every active tap moves by one code, by the error and the tentative
decisions at one symbol of the last block, `at_` places back (R80) (DESIGN CHOICE, log entry 121). -/
def execDfeAdapt (lane at_ : Nat) (s : State) : Host.Outcome State Fault Refusal :=
  .next (
    let l := s.lane lane
    if (s.rx lane = rxConverge ∨ (s.rx lane = rxLocked ∧ !s.on (fLn_DFE_CTL_FREEZE lane))) ∧ 256 ≤ l.dfeSyms then
      let n := s.fld (fLn_RX_STAT_DFE_N lane)
      let f := fun (i : Nat) (fl : FldId) (a : State) =>
        if i < n then a.setSFld fl (stepCode (-512) 511 (a.sfld fl) (l.lmsSign (at_ % 128) (s.fld (fLn_RX_STAT_MEM lane) + i + 1)))
        else a
      f 2 (fLn_DFE_TAP_TAP3 lane) (f 1 (fLn_DFE_TAP_TAP2 lane) (f 0 (fLn_DFE_TAP_TAP1 lane)
        (s.setLane lane { l with dfeSyms := l.dfeSyms - 256 })))
    else s)

/-- TARGET_ADAPT: 4,096 symbols have come since the last update; g1 within 0-191 and g2 within -64 to 63 move by 1/256, by the
errors and the tentative decisions at two symbols of the last block; g2 is held at 0 for L = 1 (R78, R79) (DESIGN CHOICE, log entry 121). -/
def execTargetAdapt (lane at1 at2 : Nat) (s : State) : Host.Outcome State Fault Refusal :=
  .next (
    let l := s.lane lane
    if (s.rx lane = rxConverge ∨ (s.rx lane = rxLocked ∧ !s.on (fLn_FDE_CTL_FREEZE lane))) ∧ 4096 ≤ l.tgtSyms then
      let s0 := s.setLane lane { l with tgtSyms := l.tgtSyms - 4096 }
      let a := s0.setFld (fLn_TRELLIS_G1 lane) (stepCode 0 191 (s.fld (fLn_TRELLIS_G1 lane)) (l.lmsSign (at1 % 128) 1)).toNat
      if s.fld (fLn_RX_STAT_MEM lane) = 2 then
        a.setSFld (fLn_TRELLIS_G2 lane) (stepCode (-64) 63 (a.sfld (fLn_TRELLIS_G2 lane)) (l.lmsSign (at2 % 128) 2))
      else a
    else s)

/-! ## Merit (R84-R90, R466) -/

/-- The retrain threshold in use: RETRAIN_THR less the relaxation of the band and of the active plan, floored at 1 (R466). -/
def State.retrainThr (s : State) (n : Nat) : Nat :=
  max 1 (s.fld (fLn_ADAPT_RETRAIN_THR n) -
    (s.fld (fThm_BAND_LANE_RELAX (s.fld fThm_STAT_BAND)) + s.thm.active.relax))

/-- AGC_STEP: in LOCKED with VGA_AUTO, an RMS over the window more than 1.5 dB off target moves the VGA one step, and the taps are
scaled by the inverse (R70) (DESIGN CHOICE, log entry 23). -/
def agcStep (n : Nat) (rms : Int) (s : State) : State :=
  if s.on (fLn_RX_AFE_VGA_AUTO n) && decide (1500 < (s.agcDev n rms).natAbs) then
    let vga := s.fld (fLn_RX_AFE_VGA n)
    let v' := if s.agcDev n rms < 0 then min 104 (vga + 1) else vga - 1
    (s.setFld (fLn_RX_AFE_VGA n) v').modLane n fun l => { l with taps := scaleTaps vga v' l.taps }
  else s

/-- The better of two scored candidates: the higher score; on a tie the smaller L, then the smaller N (R90) (DEDUCED, log entry 28). -/
def better (a : Option ((Nat × Nat) × Nat)) (b : (Nat × Nat) × Nat) : (Nat × Nat) × Nat :=
  match a with
  | none => b
  | some a => if a.2 < b.2 ∨ (a.2 = b.2 ∧ (b.1.1 < a.1.1 ∨ (b.1.1 = a.1.1 ∧ b.1.2 < a.1.2))) then b else a

/-- The evaluation goes on: the next permitted candidate that has no score, else the best of those permitted is chosen
(R90, R97). -/
def nextCandidate (n : Nat) (s : State) : State :=
  let l := s.lane n
  let ok := s.candidates n
  match ok.find? (fun c => !(l.scored.any (·.1 == c))) with
  | some c => useCandidate n c (s.setLane n { l with cand := some c, candWin := 0, candSum := 0 })
  | none =>
    match (l.scored.filter fun e => ok.contains e.1).foldl (fun a e => some (better a e)) none with
    | some b => useCandidate n b.1 (s.setLane n { l with
        cand := none, candWin := 0, candSum := 0, scored := [], chosen := some b.1, lockRun := 0, failRun := 0 })
    | none => s

/-- CANDIDATE_CHOSEN: a window of the candidate evaluation, after k has reached K_TRACK: one to settle and two that score. A
candidate that a write has excluded is left at once (R90, R97) (DEDUCED, log entry 28). -/
def candidateWindow (n merit : Nat) (s : State) : State :=
  let l := s.lane n
  if l.k < s.fld (fLn_FDE_CTL_K_TRACK n) then s
  else match l.cand with
    | none => nextCandidate n s
    | some c =>
      if !(s.candidates n).contains c then nextCandidate n s
      else if l.candWin = 0 then s.setLane n { l with candWin := 1, candSum := 0 }
      else if l.candWin = 1 then s.setLane n { l with candWin := 2, candSum := merit }
      else nextCandidate n (s.setLane n { l with scored := l.scored ++ [(c, l.candSum + merit)] })

/-- A window in CONVERGE after the candidate is chosen (R88). -/
def convergeWindow (n merit : Nat) (s : State) : State :=
  let l := s.lane n
  if s.fld (fLn_ADAPT_LOCK_THR n) ≤ merit then
    if l.lockRun + 1 < 2 then s.setLane n { l with lockRun := l.lockRun + 1, failRun := 0 }
    else
      let s1 := s.setLane n { l with lockRun := 0, failRun := 0, lowRun := 0 }
      raise_ (fLn_RX_EVENT_LOCK_GAINED n) (calLockGained n (enterLocked n (s1.setFld (fLn_RX_STAT_RETRY n) 0)))
  else if l.failRun + 1 < 4 then s.setLane n { l with lockRun := 0, failRun := l.failRun + 1 }
  else retry n (toAcquire n) s

/-- A counted window in LOCKED (R88, R89). -/
def lockedWindow (n merit : Nat) (s : State) : State :=
  let l := s.lane n
  if s.inForce (fLn_RX_CTL_RETRAIN_EN n) = 1 ∧ merit < s.retrainThr n then
    if l.lowRun + 1 < s.fld (fLn_ADAPT_RETRAIN_CNT n) then s.setLane n { l with lowRun := l.lowRun + 1 }
    else raise_ (fLn_RX_EVENT_LOCK_LOST n) (raise_ (fLn_RX_EVENT_RETRAIN n) (toAcquire n s))
  else s.setLane n { l with lowRun := 0 }

/-- The gain control at the end of a window (R70). -/
def agcWindow (n : Nat) (rms : Int) (s : State) : State := if s.rx n = rxLocked then agcStep n rms s else agcFree n rms s

/-- MERIT_WINDOW_END: a window is complete with its symbols, which are those that the lane has counted, and the RMS of the samples over it
in 0.001 dBFS; a row with another count is no such event. The gain control acts; a window during APPLY leaves MERIT with STALE = 1
and counts for nothing (R70, R84-R90, R101) (DEDUCED, log entry 28). -/
def execMeritWindowEnd (lane symbols : Nat) (rms : Int) (s : State) : Host.Outcome State Fault Refusal :=
  .next (
    match (s.lane lane).winDone with
    | none => s
    | some win =>
    if (s.rx lane ≠ rxConverge ∧ s.rx lane ≠ rxLocked) ∨ win.n ≠ symbols then s
    else
      let s0 := agcWindow lane rms (s.modLane lane ({ · with winDone := none }))
      if s.fld (fLn_CAL_STAT_PHASE lane) = 3 then s0.setFld (fLn_MERIT_STALE lane) 1
      else
        let m := meritOf win
        let s1 := ((s0.setFld (fLn_MERIT_MERIT lane) m).setFld (fLn_MERIT_STALE lane) 0).incWrap (fLn_MERIT_WIN_SEQ lane)
        let s2 := s1.resultReady (rLn_MERIT lane)
        if s.rx lane = rxLocked then lockedWindow lane m s2
        else if (s.lane lane).chosen.isNone then candidateWindow lane m s2
        else convergeWindow lane m s2)

/-! ## Electrical idle and wake (R91, R143-R149) -/

/-- A locked M400 receiver goes to IDLE with LOCK 1 and SIGDET 0: the trellis ends its traceback on the marker's tail, so that every
bit before it is delivered, and APPLY pauses; the codewords that these bits complete are decoded yet (R87, R91, R116, R141, R143). -/
def toRxIdle (lane : Nat) (s : State) : State :=
  if s.mode lane = m400 ∧ s.rx lane = rxLocked then
    let p := flush (s.det lane) ⟨s.lane lane, [], 0⟩
    let s0 := addInner lane p.inner (s.setLane lane { p.lane with rcpt := none, samples := [], sigSince := none })
    let s1 := (s0.setRx lane rxIdle).setFld (fLn_RX_STAT_SIGDET lane) 0
    if s.fld (fLn_CAL_STAT_PHASE lane) = 3 then s1.setFld (fLn_CAL_STAT_PAUSED lane) 1 else s1
  else s

/-- A correlation reaches CATCH_THR (R143, R144); the operand is c times 256, rounded down (DESIGN CHOICE, log entry 107). -/
def State.catchHit (s : State) (n : Nat) (c : Int) : Bool := decide ((s.fld (fLn_WAKE_CTL_CATCH_THR n) : Int) ≤ c)

/-- IDLE_MARKER_RX: the correlations with -S at both places of a superframe boundary (R143). -/
def execIdleMarkerRx (m : IdleCorr) (s : State) : Host.Outcome State Fault Refusal :=
  .next (if s.catchHit m.lane m.c1 && s.catchHit m.lane m.c2 then toRxIdle m.lane s else s)

/-- A receiver enters WAKE on a peak: sampling phase from its position, common gain from the energy of the preamble (R87, R144, rule 2). -/
def enterWake (n : Nat) (pl : PeakAt) (s : State) : State :=
  let d := s.det n
  let l := s.lane n
  let x := sampleLevels (s.inForce (fLn_RX_CTL_POL_INV n) == 1) pl.rx
  let s1 := s.setLane n { l with phase := pl.phase, gain := sqrtQ (preambleGain d.g1 d.g2 (tapValues l.taps) x) }
  wake 2 ((s1.setRx n rxWake).setFld (fLn_RX_STAT_SIGDET n) 1)

/-- PREAMBLE_PEAK of the primary correlator: its sign, size and place, for how many symbols the input had been below 20 mV before
it, and the samples of the repeat (R144, rules 1 to 3, R148). Peaks below CATCH_THR are none; a LOCKED receiver opens a reception only after 8 such symbols. In
WAKE a negative peak ends the preamble, in every other state one that a second positive peak has confirmed. -/
def execPreamblePeak (lane : Nat) (negative : Bool) (mag : Nat) (pl : PeakAt) (s : State) : Host.Outcome State Fault Refusal :=
  .next (
    let r := s.rx lane
    let l := s.lane lane
    if s.mode lane ≠ m400 ∨ (r ≠ rxIdle ∧ r ≠ rxWake ∧ r ≠ rxLocked) ∨ mag < s.fld (fLn_WAKE_CTL_CATCH_THR lane) then s
    else match l.rcpt with
      | none => if negative || (r == rxLocked && decide (pl.quiet < 8)) then s else s.setLane lane { l with rcpt := some ⟨pl.at_, mag, false, false⟩ }
      | some p =>
        if p.ended || !decide (p.at_ + 255 ≤ pl.at_ ∧ pl.at_ ≤ p.at_ + 257) then s
        else if negative then
          if p.confirmed || r == rxWake then s.setLane lane { l with rcpt := some ⟨pl.at_, mag, true, true⟩ } else s
        else
          let s1 := s.setLane lane { l with rcpt := some ⟨pl.at_, mag, true, false⟩, sigSince := if r = rxIdle then none else l.sigSince }
          if r = rxIdle then enterWake lane pl s1 else s1)

/-- After a start marker: superframe phase 0, encoder state 0, and the trellis's channel state from S; the receive PCS goes on with
the transmitter's codeword pair (R130, R143, R144, R148). -/
def afterMarker (n pair : Nat) (s : State) : State :=
  (s.modLane n fun l => { afterS (dropStream l) with rxPairs := pair }).setFld (fLn_FEC_STAT_SF_LOCK n) 1

/-- START_MARKER_RX: the correlation with S, which must reach CATCH_THR exactly 448 symbols after the end of -P, and the codeword
pair at which the transmitter had paused: WAKE goes to LOCKED; LOCKED realigns (R144 rule 4, R148). -/
def execStartMarkerRx (lane : Nat) (m : StartMark) (s : State) : Host.Outcome State Fault Refusal :=
  .next (
    match (s.lane lane).rcpt with
    | none => s
    | some p =>
      if !p.ended || m.at_ != p.at_ + 448 || !s.catchHit lane m.corr then s
      else if s.rx lane = rxWake then
        (countLn lane 8 0 1 (afterMarker lane m.pair (enterLocked lane s))).setFld (fLn_CAL_STAT_PAUSED lane) 0
      else if s.rx lane = rxLocked then
        raise_ (fLn_FEC_EVENT_REALIGN lane) ((afterMarker lane m.pair s).addSat (fLn_WAKE_CNT_REALIGN lane))
      else s)

/-- BURST_ABANDON: counted in FALSE; a WAKE receiver returns to IDLE (R145). -/
def execBurstAbandon (lane : Nat) (s : State) : Host.Outcome State Fault Refusal :=
  .next (
    let l := s.lane lane
    if l.rcpt.isNone then s
    else
      let s1 := (s.setLane lane { l with rcpt := none }).addSat (fLn_WAKE_CNT_FALSE lane)
      if s.rx lane = rxWake then (s1.setRx lane rxIdle).setFld (fLn_RX_STAT_SIGDET lane) 0 else s1)

/-- SPARE_RESTART: a positive peak of the spare above the primary's last peak opens a new reception; a tie keeps the old (R146). -/
def execSpareRestart (lane mag at_ : Nat) (s : State) : Host.Outcome State Fault Refusal :=
  .next (
    let l := s.lane lane
    match l.rcpt with
    | none => s
    | some p =>
      if p.mag < mag ∧ s.fld (fLn_WAKE_CTL_CATCH_THR lane) ≤ mag then
        (s.setLane lane { l with rcpt := some ⟨at_, mag, false, false⟩ }).addSat (fLn_WAKE_CNT_RESTART lane)
      else s)

/-- WAKE_MISS: the input has held a signal in IDLE for MISS_US without a burst: counted and raised; with MISS_TRAIN the receiver
retrains (R149) (DEDUCED, log entry 108). -/
def execWakeMiss (lane : Nat) (s : State) : Host.Outcome State Fault Refusal :=
  .next (
    match (s.lane lane).sigSince with
    | none => s
    | some t =>
      if s.rx lane = rxIdle ∧ t + s.fld (fLn_WAKE_CTL_MISS_US lane) * 1000 * nsU ≤ s.up then
        let s1 := raise_ (fLn_FEC_EVENT_MISS lane) ((s.modLane lane ({ · with sigSince := some s.up })).addSat (fLn_WAKE_CNT_MISS lane))
        if s.on (fLn_WAKE_CTL_MISS_TRAIN lane) then retrainRx lane s1 else s1
      else s)

end Sys2Proof.Machine
end

