-- ==== Sys2Proof/Machine/Mon.lean ====
section
/-! DEFINITION. The monitor ADC's sequencer, its calibration and the decimation chain (R121-R124, R414-R425). -/

namespace Sys2Proof.Machine

/-! ## Triggers (R415, R416) -/

/-- A trigger's delay has passed: its round runs, waits, or is dropped (R415) (DEDUCED, log entry 56). -/
def startRound (mask : W32) (s : State) : State :=
  if s.mon.rounds.length < 2 then s.modMon fun m => { m with rounds := m.rounds ++ [mask] }
  else raise_ fMon_EVENT_OVERRUN (s.addSat fMon_SEQ_STAT_OVERRUN)

/-- The delays that have ended by now give their rounds, oldest first (R415). -/
def delaysEnd (s : State) : State :=
  (s.mon.trigs.filter (·.2.2 ≤ s.up)).foldl (fun a e => startRound e.2.1 a)
    (s.modMon fun m => { m with trigs := m.trigs.filter (s.up < ·.2.2) })

/-- SEQ_TRIGGER: the timer's trigger or a heater's falling edge comes, and its delay begins; a stroke, a hand-over and a rising edge are
triggers as they happen, and this ends the delay of the oldest of them (R415, R416) (DEDUCED, log entry 56; DESIGN CHOICE, log entry 88). -/
def execSeqTrigger (t : MonTrig) (s : State) : Host.Outcome State Fault Refusal :=
  .next (
    match t with
    | .timer | .htrFall _ => delaysEnd (monTrigger t s)
    | _ =>
      match s.mon.trigs.find? (·.1 == t) with
      | some (_, mask, _) => startRound mask (s.modMon fun m => { m with trigs := m.trigs.eraseP (·.1 == t) })
      | none => s)

/-! ## Rounds (R414, R415, R417) -/

/-- The code of an input's voltage in nV (R414). -/
def adcCode (nv : Int) : Nat := (max 0 (min 4095 (nv * 4096 / 1250000000))).toNat

/-- A code with the correction in use, clamped (R414, R122). -/
def State.corrected (s : State) (code : Nat) : Nat :=
  (max 0 (min 4095 (roundFree ((code : Rat) * (1 + s.mon.gain) + s.mon.ofs)))).toNat

/-- One conversion of MONi: its result is ready and its channel takes it (R414, R438). -/
def convert (i code : Nat) (s : State) : State :=
  let c := s.corrected code
  let s1 := (s.setFld (fMon_RAW_CODE i) c).resultReady (rMon_RAW i)
  if s.on (fCh_CFG_EN i) then
    let h : MonCh := Tab.get {} s.mon.ch i
    s1.modMon fun m => { m with ch := Tab.set m.ch i { h with inp := h.inp ++ [(c : Int)] } }
  else s1

/-- The next input of the open-wire check, in round-robin order (R417). -/
def owNext (last mask : Nat) : Option Nat :=
  ((List.range 16).map fun d => (last + 1 + d) % 16).find? fun i => mask.testBit i

/-- The open-wire check, when it is due: the code with the current sourced minus the code with it sunk (R417). -/
def openWire (mask : W32) (up down : Nat) (s : State) : State :=
  let run := s.mon.owRun + 1
  if run < s.fld fMon_OW_CFG_OW_DIV then s.modMon ({ · with owRun := run })
  else
    let s1 := s.modMon ({ · with owRun := 0 })
    match owNext s.mon.owLast (Nat.land (bits mask 31 16) (bits mask 15 0)) with
    | some i =>
      let s2 := s1.modMon ({ · with owLast := i })
      let f : FldId := ⟨rMon_OW_STAT, i, i⟩
      if s.fld fMon_OW_CFG_OW_THR + down < up then
        (if s.on f then s2 else raise_ fMon_EVENT_OPEN (s2.setFld f 1))
      else s2.setFld f 0
    | none => s1

/-! ## Calibration (R121-R124) -/

/-- The phase between calibrations: APPLY while an accepted correction is not yet in effect, else WAIT (R123, R124). -/
def State.calIdle (s : State) : Nat := if s.mon.goal.isSome then 3 else 0

/-- The decimated outputs of channels 4-15 hold with STALE = 1, or hold no longer (R123). -/
def holdChannels (held : Bool) (s : State) : State :=
  (List.range 12).foldl (fun a i => a.setFld (fCh_OUT_STALE (4 + i)) (if held then 1 else 0)) s

/-- MON_CAL_UPDATE: after the 64th pair the candidate is accepted or rejected (R122). -/
def calCandidate (s : State) : State :=
  let m := s.mon
  let refP := s.fld fMon_CAL_REF_REFP_CODE
  let refN := s.fld fMon_CAL_REF_REFN_CODE
  let mP : Rat := (m.sumP : Rat) / 64
  let mN : Rat := (m.sumN : Rat) / 64
  let gain : Rat := ((refP : Rat) - refN) / (mP - mN) - 1
  let ofs : Rat := (refN : Rat) - mN * (1 + gain)
  let s1 := s.modMon ({ · with pairs := 0, sumP := 0, sumN := 0 })
  if mP ≠ mN ∧ -1 / 50 ≤ gain ∧ gain ≤ 1 / 50 ∧ -16 ≤ ofs ∧ ofs ≤ 16 then
    holdChannels true ((((s1.modMon ({ · with goal := some (gain, ofs) })).setFld fMon_CAL_STAT_FAIL_CNT 0).setFld
      fMon_CAL_STAT_PHASE 3).setFld fMon_CAL_VAL_STALE 1)
  else
    raise_ fMon_EVENT_CAL_FAIL (((s1.setFld fMon_CAL_STAT_FAIL 1).addSat fMon_CAL_STAT_FAIL_CNT).setFld fMon_CAL_STAT_PHASE
      s1.calIdle)

/-- The calibration pair, when it is due: 64 consecutive rounds that begin every INTERVAL rounds (R121) (DEDUCED, log entry 56).
With EN cleared among the 64, the pairs taken are dropped; a correction that is still being applied goes on beside them (R123)
(DESIGN CHOICE, log entry 110). -/
def calPair (p n : Nat) (s : State) : State :=
  let run := s.mon.calRun + 1
  let begins := decide (s.fld fMon_CAL_CTL_INTERVAL ≤ run)
  let s1 := s.modMon ({ · with calRun := if begins then 0 else run })
  if !s.on fMon_CAL_CTL_EN then
    if s.mon.pairs = 0 then s1
    else (s1.modMon ({ · with pairs := 0, sumP := 0, sumN := 0 })).setFld fMon_CAL_STAT_PHASE s1.calIdle
  else if !(begins || decide (0 < s.mon.pairs)) then s1
  else
    let s2 := if begins then s1.modMon ({ · with pairs := 0, sumP := 0, sumN := 0 }) else s1
    let s3 := (s2.modMon fun m => { m with pairs := m.pairs + 1, sumP := m.sumP + p, sumN := m.sumN + n }).setFld
      fMon_CAL_STAT_PHASE 1
    if s3.mon.pairs = 64 then calCandidate s3 else s3

/-- An accepted correction is applied by steps of at most 0.01 % of gain and 1/4 LSB of offset per round (R123). -/
def calApply (s : State) : State :=
  match s.mon.goal with
  | none => s
  | some (g, o) =>
    let gain := approach s.mon.gain g (1 / 10000)
    let ofs := approach s.mon.ofs o (1 / 4)
    let s1 := s.modMon ({ · with gain := gain, ofs := ofs })
    let s2 := (s1.setSFld fMon_CAL_VAL_GAIN (roundFree (gain * 100000))).setSFld fMon_CAL_VAL_OFS (roundFree (ofs * 64))
    if gain = g ∧ ofs = o then
      let s3 := (s2.modMon ({ · with goal := none })).incWrap fMon_CAL_STAT_PASS_SEQ
      let s4 := if s.mon.pairs = 0 then s3.setFld fMon_CAL_STAT_PHASE 0 else s3
      (holdChannels false (s4.setFld fMon_CAL_VAL_STALE 0)).resultReady rMon_CAL_VAL
    else s2

/-- The oldest round starts, if none runs, with the delay of its trigger at an end (R415). -/
def firstRound (s : State) : State :=
  let s1 := delaysEnd s
  match s1.mon.rounds, s1.mon.trigs with
  | [], (_, mask, _) :: r => startRound mask (s1.modMon ({ · with trigs := r }))
  | _, _ => s1

/-- ROUND: the conversions of the enabled inputs, the open-wire check and the calibration pair (R415) (DEDUCED, log entry 56).
`volts` lists the voltage of each input in nV, `ow` what the input of the open-wire check shows with the current sourced and sunk, `ref` the
references. -/
def execRound (volts : List Int) (ow ref : Int × Int) (s : State) : Host.Outcome State Fault Refusal :=
  .next (
    let s0 := firstRound s
    match s0.mon.rounds with
    | [] => s0
    | mask :: r =>
      let s1 := calApply (s0.modMon ({ · with rounds := r }))
      let s2 := (List.range 16).foldl (fun a i => if mask.getLsbD i then convert i (adcCode (volts.getD i 0)) a else a) s1
      (calPair (adcCode ref.1) (adcCode ref.2)
        (openWire mask (s2.corrected (adcCode ow.1)) (s2.corrected (adcCode ow.2)) s2)).incWrap fMon_SEQ_STAT_ROUNDS)

/-! ## Decimation (R418-R424) -/

/-- One input enters the integrators of the CIC (R419). -/
def cicIn (ints : List Int) (x : Int) : List Int :=
  (ints.foldl (fun (a : List Int × Int) i => (a.1 ++ [i + a.2], i + a.2)) ([], x)).1

/-- The combs of the CIC: their new last values, and the output. -/
def cicOut (combs : List Int) (x : Int) : List Int × Int :=
  combs.foldl (fun (a : List Int × Int) c => (a.1 ++ [a.2], a.2 - c)) ([], x)

/-- A shift of a stage: rounded half-up and saturated to 24 bits, and whether it saturates (R418). -/
def stageShift (n : Nat) (x : Int) : Int × Bool :=
  let y := if n = 0 then x else (x + 2 ^ (n - 1)) / 2 ^ n
  (max (-8388608) (min 8388607 y), decide (y < -8388608 ∨ 8388607 < y))

/-- The resampler's output, in 2^-16, after its shift: exact before the rounding of the shift, which a shift of 0 leaves open
(R418, R420) (DESIGN CHOICE, log entry 57). -/
def resampleShift (n : Nat) (y : Int) : Int × Bool :=
  let z := if n = 0 then roundFree ((y : Rat) / 65536) else (y + 2 ^ (n + 15)) / 2 ^ (n + 16)
  (max (-8388608) (min 8388607 z), decide (z < -8388608 ∨ 8388607 < z))

/-- A reset coefficient of the resampler: the factory set's in a phase whose sum is 1, else of a set with unity DC gain (R420) (DESIGN
CHOICE, log entry 24). -/
def factoryCoef (i : Nat) : Int :=
  let sum : Int := (List.range 16).foldl (fun a j => a + (Config.rsCoef (i / 16 * 16 + j)).toInt) 0
  if sum = 65536 then (Config.rsCoef i).toInt else if i % 16 = 7 then 65536 else 0

/-- A coefficient of the resampler (R420). -/
def State.coef (s : State) (i : Nat) : Int :=
  match Tab.find s.mon.coef i with | some v => signed 18 v | none => factoryCoef i

/-- The resampler's output at position `t`, in 2^-16, while `h.n` CIC outputs have come, if it falls at the newest (R420) (DEDUCED, log entry 56). -/
def resample (c : Nat) (h : MonCh) (s : State) : Option Int × MonCh :=
  if h.n ≠ h.t / 2 ^ 20 + 1 then (none, h)
  else
    let p := h.t % 2 ^ 20 * 64 / 2 ^ 20
    let y : Int := (List.range 16).foldl (fun a i => a + s.coef (16 * p + i) * h.hist.getD i 0) 0
    (some y, { h with t := h.t + s.fld (fCh_RATIO_RATIO c) })

/-- The DC stage (R421). -/
def dcStage (c : Nat) (x : Int) (h : MonCh) (s : State) : Int × MonCh :=
  if s.on (fCh_DC_DC_EN c) then
    let d : Rat := (x : Rat) - h.m
    (roundFree d, if s.on (fCh_DC_FREEZE c) then h else { h with m := h.m + d / (2 ^ s.fld (fCh_DC_K c) : Nat) })
  else (x, { h with m := 0 })

/-- A threshold channel trips (R424, R425). -/
def trip (c : Nat) (f : FldId) (s : State) : State :=
  forceSafe (s.fld (fCh_ACT_BIAS_MASK c)) (s.fld (fCh_ACT_HTR_MASK c)) (wake 5 (raise_ fMon_EVENT_TRIP (s.setFld f 1)))

/-- The threshold test of channels 0-3: a run of CNT outputs trips the channel once (R424). -/
def thresholds (c : Nat) (y : Int) (h : MonCh) (s : State) : State :=
  let hi := if s.on (fCh_ACT_HI_EN c) && decide (s.sfld (fCh_HI_HI c) < y) then h.hi + 1 else 0
  let lo := if s.on (fCh_ACT_LO_EN c) && decide (y < s.sfld (fCh_LO_LO c)) then h.lo + 1 else 0
  let cnt := s.fld (fCh_ACT_CNT c)
  let high := decide (cnt ≤ hi ∧ 0 < hi) && (hi == 1 || !h.hiDone)
  let low := decide (cnt ≤ lo ∧ 0 < lo) && (lo == 1 || !h.loDone)
  let s1 := s.modMon fun m => { m with
    ch := Tab.set m.ch c { h with
      hi := hi, lo := lo, hiDone := high || (decide (1 < hi) && h.hiDone), loDone := low || (decide (1 < lo) && h.loDone) } }
  let fH : FldId := ⟨rMon_TRIP, c, c⟩
  let fL : FldId := ⟨rMon_TRIP, 4 + c, 4 + c⟩
  let s2 := if high then trip c fH s1 else s1
  if low then trip c fL s2 else s2

/-- Outputs of channel `c` hold: monitor calibration for 4-15, converter calibration for 16-23 (R117, R123, R422). -/
def State.chHeld (s : State) (c : Nat) : Bool :=
  (decide (4 ≤ c ∧ c < 16) && s.mon.goal.isSome) || (decide (16 ≤ c) && s.fld (fLn_CAL_STAT_PHASE (c - 16)) == 3)

/-- A channel's output (R421, R422, R424) (DEDUCED, log entry 56; DESIGN CHOICE, log entry 57). -/
def chOutput (c : Nat) (x : Int) (h : MonCh) (s : State) : State :=
  if c < 4 then
    thresholds c x h ((s.setSFld (fCh_OUT_VALUE c) x).resultReady (rCh_OUT c))
  else
    let (y, h1) := dcStage c x h s
    let s1 := s.modMon fun m => { m with ch := Tab.set m.ch c h1 }
    if s.chHeld c then s1.setFld (fCh_OUT_STALE c) 1
    else
      let s2 := if -8388608 ≤ y ∧ y < 8388608 then s1.setSFld (fCh_OUT_VALUE c) y
        else s1.tick.setFld (fCh_OUT_VALUE c) (Config.freeWord s.free).toNat
      (s2.setFld (fCh_OUT_STALE c) 0).resultReady (rCh_OUT c)

/-- R inputs give one CIC output, which passes the stages of R418. -/
def chRun (c : Nat) (inp : List Int) (h : MonCh) (s : State) : State :=
  let order := s.fld (fCh_CFG_ORDER c) + 3
  let zero := List.replicate order (0 : Int)
  let ints := inp.foldl cicIn (if h.ints.length = order then h.ints else zero)
  let (combs, y) := cicOut (if h.combs.length = order then h.combs else zero) (ints.getLastD 0)
  let (x, clip) := stageShift (s.fld (fCh_CFG_SHIFT_CIC c)) y
  let h1 := { h with ints := ints, combs := combs, hist := (x :: h.hist).take 16, n := h.n + 1 }
  let s1 := if clip then raise_ fMon_EVENT_CLIP s else s
  if s.on (fCh_CFG_RS_EN c) then
    match resample c h1 s with
    | (none, h2) => s1.modMon fun m => { m with ch := Tab.set m.ch c h2 }
    | (some z, h2) =>
      let (w, clip2) := resampleShift (s.fld (fCh_CFG_SHIFT_RS c)) z
      chOutput c w h2 (if clip2 then raise_ fMon_EVENT_CLIP s1 else s1)
  else chOutput c x h1 s1

/-- CHANNEL_OUTPUT: a channel has R inputs, conversions of MONc for 0-15 and `samples` of the lane's statistics stream
for 16-23 (R418-R424). While the lane is OFF its channel holds its last output, which reads with STALE = 1. -/
def execChannelOutput (c : Nat) (samples : List Int) (s : State) : Host.Outcome State Fault Refusal :=
  .next (
    let h : MonCh := Tab.get {} s.mon.ch c
    let r := s.fld (fCh_CFG_DECIM c)
    if 24 ≤ c ∨ !s.on (fCh_CFG_EN c) then s
    else if c < 16 then
      (if h.inp.length < r then s else chRun c (h.inp.take r) { h with inp := h.inp.drop r } s)
    else if s.tx (c - 16) = txOff then s
    else if samples.length ≠ r then s else chRun c samples h s)

/-! ## Registers (R420, R423, R437, R438) -/

/-- Every field of a register but those that `p` excepts has the same value in two words; reserved bits do not count (R1). -/
def sameFields (d : RegDesc) (p : Fld → Bool) (v w : W32) : Bool :=
  d.flds.all fun f => p f || bits v f.hi f.lo == bits w f.hi f.lo

/-- A write of a CHc register (R423). -/
def writeCh (r : RegId) (v : W32) (s : State) : State :=
  match findReg r with
  | none => s
  | some d =>
    let c := r.inst
    let w := s.reg r
    let on := s.on (fCh_CFG_EN c)
    let stops := r.off == 0 && !v.getLsbD 31 && sameFields d (·.name == "EN") v w
    let fixed := on && !stops && (decide (r.off < 8) || (r.off == 8 && !sameFields d (·.name != "K") v w))
    match firstFail [(fixed, eState), (!inRange d v, eRange)] with
    | some st => rejectReg r st s
    | none =>
      let s1 := s.setReg r (applyAccess d w v)
      if r.off = 0 ∧ v.getLsbD 31 ∧ !on then s1.modMon fun m => { m with ch := Tab.set m.ch c {} } else s1

/-- A write of MON.RS_COEF (R420). -/
def writeCoef (v : W32) (s : State) : State :=
  if (List.range 24).any (fun c => s.on (fCh_CFG_RS_EN c)) then rejectReg rMon_RS_COEF eState s
  else s.modMon fun m => { m with coef := Tab.set m.coef (s.fld fMon_RS_SEL_INDEX) (bits v 17 0) }

/-- A write of MON.TRIP clears bits, and the runs of a channel that has one cleared start again (R424). -/
def writeTrip (v : W32) (s : State) : State :=
  let s1 := s.setReg rMon_TRIP (s.reg rMon_TRIP &&& ~~~v)
  (List.range 4).foldl (fun a c =>
    if (v &&& s.reg rMon_TRIP).getLsbD c || (v &&& s.reg rMon_TRIP).getLsbD (4 + c) then
      a.modMon fun m => { m with ch := Tab.set m.ch c { (Tab.get ({} : MonCh) m.ch c) with hi := 0, lo := 0, hiDone := false, loDone := false } }
    else a) s1

/-- MON_SRST: the sequencer stops, transactions end with E_ABORT, and every MON register but CAL_CTL and CAL_REF resets
(R124, R437) (DEDUCED, log entry 58). -/
def writeMonCtl (v : W32) (s : State) : State :=
  if v.getLsbD 0 then
    let s1 := (List.range 8).foldl (fun a n => if a.on (fMgt_STAT_BUSY n) then mgtEnd n eAbort 0 (a.emit (.mgtReleased n)) else a) s
    let s2 := s1.resetRegs fun r =>
      (r.blk == .mon && r.off != 0xF00 && r.off != 0xF04) || r.blk == .ch || r.blk == .mgt
    ({ s2 with mon := {} }).emit (.pin "MOD_RST_N" (some false))
  else s

/-- MON_SRST (R437). -/
def execMonSrst (v : W32) (s : State) : Host.Outcome State Fault Refusal := .next (aonAccess (fun s => writeMonCtl v s) s)

end Sys2Proof.Machine
end

