-- ==== Sys2Proof/Machine/Queue.lean ====
section
/-! DEFINITION. Queue pairs and notice rings: doorbells, descriptor fetch and take, fences, interrupts, enabling and
disabling (R339-R347, R351-R365). -/

namespace Sys2Proof.Machine

/-- The submission ring's size (R342). -/
def State.sqSize (s : State) (q : Nat) : Nat := 2 ^ s.fld (fQp_CTL_SQ_LOG2 q)
/-- The completion ring's size (R342). -/
def State.cqSize (s : State) (q : Nat) : Nat := 2 ^ s.fld (fQp_CTL_CQ_LOG2 q)
/-- The size of a descriptor (R342). -/
def State.descSize (s : State) (q : Nat) : Nat := if s.on (fQp_CTL_DGEN q) then 64 else 32

/-- A queue pair is watched (R345). -/
def State.watched (s : State) (q : Nat) : Bool := s.on (fQp_CTL_EN q) && s.on (fQp_CTL_WATCH q)

/-- The power state keeps the device from reading doorbell records (R442, R454). -/
def State.deep (s : State) : Bool := decide (2 ≤ s.fld fPwr_STATE_STATE)

/-- A doorbell record read of an enabled queue falls due; it is issued while the function may master the bus (R339, R345). -/
def dueDoorbell (q : Nat) (s : State) : State :=
  if s.on (fQp_CTL_EN q) && s.fld (fQp_STAT_ERR q) == 0 then
    let s1 := s.modQp q ({ · with due := true })
    if s.bme (s.ownerOf q) then
      s1.emit (.hostRead (s.ownerOf q) (s.pair (rQp_DB_ADDR_LO q) (rQp_DB_ADDR_HI q)) 8)
    else s1
  else s

/-- A doorbell scan of the listed queues; the write that asks for it has woken the device (R345, R454). -/
def scan (l : List Nat) (s : State) : State := l.foldl (fun a q => dueDoorbell q a) s

/-- The watched queues of function `fn`, or of every function for the PF (R345). -/
def State.watchedBy (s : State) (fn : Nat) : List Nat :=
  (List.range 256).filter fun q => s.watched q && (fn == 0 || s.ownerOf q == fn)

/-- NUDGE: a write to QUE.NUDGE starts a scan of every watched record (R345). -/
def execNudge (s : State) : Host.Outcome State Fault Refusal := .next (hostAccess (fun s => scan (s.watchedBy 0) s) s)

/-- VF_NUDGE: a write to QUE.VF_NUDGE starts a scan of the writing VF's watched records (R345). -/
def execVfNudge (fn : Nat) (s : State) : Host.Outcome State Fault Refusal := .next (hostAccess (fun s => scan (s.watchedBy fn) s) s)

/-- A write to QPn.KICK reads that one record, watched or not (R345); a VF reaches its own queue pairs only (R341). -/
def kick (fn q : Nat) (s : State) : State := if q < 256 && (fn == 0 || s.ownerOf q == fn) then scan [q] s else s

/-- KICK (R345). -/
def execKick (fn qp : Nat) (s : State) : Host.Outcome State Fault Refusal := .next (hostAccess (fun s => kick fn qp s) s)

/-- DOORBELL_POLL: the poll period of a watched queue ends and its record is read; none is read in P2 and P3 (R345, R454). -/
def execDoorbellPoll (qp : Nat) (s : State) : Host.Outcome State Fault Refusal :=
  .next (if s.watched qp && !s.deep then dueDoorbell qp s else s)

/-- A queue stops fetching with an error and raises a QUEUE notice to its owner (R355). -/
def queueError (q err : Nat) (s : State) : State :=
  let s1 := s.setFld (fQp_STAT_ERR q) err
  notice (s.ownerOf q) 0x05 (leBytes 1 err ++ [0] ++ leBytes 2 q ++ leBytes 2 (s.fld (fQp_STAT_SQ_HEAD q))) s.timeBytes s1

/-- The submission slots that the device owns and has not read (R344, R346). -/
def State.toFetch (s : State) (q : Nat) : Nat :=
  ((s.qp q).sqPi + s.sqSize q - (s.fld (fQp_STAT_SQ_HEAD q) + (s.qp q).fetched.length) % s.sqSize q) % s.sqSize q

/-- The next submission slot to read. -/
def State.nextSlot (s : State) (q : Nat) : Nat := (s.fld (fQp_STAT_SQ_HEAD q) + (s.qp q).fetched.length) % s.sqSize q

/-- The slots of one read request: at most 512 bytes and the Max Read Request Size, and none across the ring's end (R336, R346). -/
def State.burst (s : State) (q : Nat) : Nat := min (min (s.toFetch q) (s.readMost / s.descSize q)) (s.sqSize q - s.nextSlot q)

/-- New descriptors are read in ring order, each slot once (R346), while the function may master the bus (R339). -/
def requestDescs (q : Nat) (s : State) : State :=
  if s.toFetch q = 0 || (s.qp q).asked != 0 || !s.bme (s.ownerOf q) then s
  else (s.modQp q ({ · with asked := s.burst q })).emit (.hostRead (s.ownerOf q)
    (s.pair (rQp_SQ_BASE_LO q) (rQp_SQ_BASE_HI q) + s.nextSlot q * s.descSize q) (s.burst q * s.descSize q))

/-- DOORBELL_READ: the record is checked for GEN and index range (R343, R344, R355); `none` is a bus error (R338). -/
def execDoorbellRead (qp : Nat) (rec_ : Option (List Byte)) (s : State) : Host.Outcome State Fault Refusal :=
  .next (
    if !(s.qp qp).due || !s.on (fQp_CTL_EN qp) || !s.bme (s.ownerOf qp) || s.fld (fQp_STAT_ERR qp) != 0 then s
    else
      let s1 := s.modQp qp ({ · with due := false })
      match rec_ with
      | none => queueError qp 3 (readFailed s1)
      | some d =>
        if field d 2 2 != s.fld (fQp_DB_GEN_GEN qp) then s1.addSat (fQp_CNT_DB_STALE qp)
        else if s.sqSize qp ≤ field d 0 2 then queueError qp 1 s1
        else if s.cqSize qp ≤ field d 4 2 then queueError qp 2 s1
        else requestDescs qp (s1.modQp qp ({ · with sqPi := field d 0 2, cqCi := field d 4 2 })))

/-- DESCRIPTOR_FETCH: a descriptor read returns new slots, and the next are read (R346); those of a disabled queue are
discarded (R356). -/
def execDescriptorFetch (qp : Nat) (descs : Option (List (List Byte))) (s : State) : Host.Outcome State Fault Refusal :=
  .next (
    if !s.on (fQp_CTL_EN qp) || s.fld (fQp_STAT_ERR qp) != 0 || (s.qp qp).asked == 0 then s
    else match descs with
      | none => queueError qp 4 (readFailed (s.modQp qp ({ · with asked := 0 })))
      | some l =>
        let new := (l.take (s.qp qp).asked).map fun d => padTo (s.descSize qp) (d.take (s.descSize qp))
        requestDescs qp (s.modQp qp fun v => { v with asked := 0, fetched := v.fetched ++ new }))

/-- A taken command begins: one that fails R350 completes at once and is counted (R350, QPn.CNT.DESC_ERR). -/
def beginTaken (t : Taken) (s : State) : State :=
  match t.bad with
  | none => s
  | some st => postCompl ⟨t.hdr, st, t.kind, [], [], false⟩ (s.addSat (fQp_CNT_DESC_ERR t.hdr.qp))

/-- A descriptor may be taken: fewer than 64 outstanding and a completion slot to reserve (R347) (DEDUCED, log entry 12). -/
def State.mayTake (s : State) (q : Nat) : Bool :=
  let v := s.qp q
  let written := (s.fld (fQp_CQ_TAIL_TAIL q) + s.cqSize q - v.cqCi) % s.cqSize q
  s.on (fQp_CTL_EN q) && s.fld (fQp_STAT_ERR q) == 0 && s.bme (s.ownerOf q) && !v.fetched.isEmpty &&
    decide (v.taken.length < 64) && decide (written + v.taken.length + 1 ≤ s.cqSize q - 1)

/-- The taken command that a fetched descriptor becomes: behind a FENCE, or itself one with earlier commands not
completed, it waits (R347, R351) (DESIGN CHOICE, log entry 3). -/
def takenOf (s : State) (q : Nat) (raw : List Byte) : Taken :=
  let gen1 := !s.on (fQp_CTL_DGEN q)
  let d := if gen1 then gen2Of raw else raw
  let kind := s.fld (fQp_CTL_KIND q)
  let fence := (descFlags d).testBit 0
  { hdr := hdrOf q d, desc := d, fence := fence, kind := kind,
    waiting := (fence && !(s.qp q).taken.isEmpty) || (s.qp q).taken.any (·.waiting),
    bad := checkDesc kind gen1 raw }

/-- DESCRIPTOR_TAKE (R347, R350, R351) (DESIGN CHOICE, log entry 3). -/
def execDescriptorTake (qp : Nat) (s : State) : Host.Outcome State Fault Refusal :=
  .next (
    if !s.mayTake qp then s
    else match (s.qp qp).fetched with
      | [] => s
      | raw :: rest =>
        let t := takenOf s qp raw
        let s1 := s.modQp qp fun v => { v with fetched := rest, taken := v.taken ++ [t] }
        let s2 := s1.setFld (fQp_STAT_SQ_HEAD qp) ((s.fld (fQp_STAT_SQ_HEAD qp) + 1) % s.sqSize qp)
        let s3 := s2.setFld (fQp_STAT_OUTSTANDING qp) ((s.qp qp).taken.length + 1)
        if t.waiting then s3 else beginTaken t s3)

/-- From a FENCE command whose turn has come, it and the waiting commands behind it up to the next FENCE begin. -/
def releaseList : List Taken → List Taken × List Taken
  | [] => ([], [])
  | t :: r =>
    if t.waiting && !t.fence then
      let (b, k) := releaseList r
      ({ t with waiting := false } :: b, k)
    else ([], t :: r)

/-- FENCE_RELEASE: with every earlier command of the queue completed, the FENCE command begins and is accepted, and so
do the commands behind it up to the next FENCE (R351, R382). -/
def execFenceRelease (qp : Nat) (s : State) : Host.Outcome State Fault Refusal :=
  .next (
    match (s.qp qp).taken with
    | [] => s
    | t :: r =>
      if !t.waiting then s
      else
        let (b, k) := releaseList r
        let begun := { t with waiting := false } :: b
        begun.foldl (fun a x => beginTaken x a) (s.modQp qp ({ · with taken := begun ++ k })))

/-- IRQ_TIMER_EXPIRY: TIME_US has passed since the oldest pending record and its message goes (R365). -/
def execIrqTimerExpiry (isNotice : Bool) (ring : Nat) (s : State) : Host.Outcome State Fault Refusal :=
  .next (
    if isNotice then
      if (s.ring ring).irqPend == 0 || !s.on (fNq_NQ_IRQ_INT_EN ring) then s
      else sendMsix ring (s.fld (fNq_NQ_IRQ_VEC ring)) (s.setRing ring { s.ring ring with irqPend := 0 })
    else
      if (s.qp ring).irqPend == 0 || !s.on (fQp_IRQ_INT_EN ring) then s
      else sendMsix (s.ownerOf ring) (s.fld (fQp_IRQ_VEC ring)) (s.modQp ring ({ · with irqPend := 0 })))

/-! ## Enabling and disabling -/

/-- The checks of a write to QPn.CTL, in the order of R357 and R572 (DEDUCED, log entry 7). -/
def qpCtlCheck (s : State) (q : Nat) (v : W32) : Option Nat :=
  let c := s.reg (rQp_CTL q)
  let setsEn := v.getLsbD 31 && !c.getLsbD 31
  let busy := s.on (fQp_STAT_BUSY q)
  let other := bits v 30 27 != bits c 30 27 || bits v 20 16 != bits c 20 16 || bits v 12 8 != bits c 12 8
  let kind := bits v 29 28
  firstFail [
    (setsEn && busy, eBusy),
    ((c.getLsbD 31 || busy) && other, eState),
    (setsEn && (kind == 1 || kind == 2) && s.ownerOf q != 0, ePriv),
    (setsEn && (decide (bits v 20 16 < 4 ∨ 16 < bits v 20 16 ∨ bits v 12 8 < 4 ∨ 16 < bits v 12 8) || kind == 3
      || ((kind == 1 || kind == 2) && !v.getLsbD 27)
      || s.pair (rQp_SQ_BASE_LO q) (rQp_SQ_BASE_HI q) % 64 != 0 || s.pair (rQp_CQ_BASE_LO q) (rQp_CQ_BASE_HI q) % 64 != 0
      || s.pair (rQp_DB_ADDR_LO q) (rQp_DB_ADDR_HI q) % 8 != 0), eRange)]

/-- An accepted enable: SQ_HEAD and the completion tail become 0 and PHASE becomes 1 (R357). -/
def qpEnabled (q : Nat) (s : State) : State :=
  (((s.setQp q {}).setFld (fQp_STAT_SQ_HEAD q) 0).setFld (fQp_CQ_TAIL_TAIL q) 0).setFld (fQp_CQ_TAIL_PHASE q) 1

/-- Clearing EN: fetches stop, waiting commands end with E_ABORT, and BUSY holds until the last completion (R356) (DEDUCED, log entry 12). -/
def qpDisabled (abort : Bool → Nat → State → State) (q : Nat) (s : State) : State :=
  let s1 := s.setFld (fQp_STAT_BUSY q) (if (s.qp q).taken.isEmpty then 0 else 1)
  let s2 := abortQueued true q (abort true q s1)
  if (s2.qp q).taken.isEmpty then (s2.setFld (fQp_STAT_BUSY q) 0).setFld (fQp_STAT_ERR q) 0 else s2

/-- A write to QPn.CTL by function `fn` (R341, R356, R357); `space` and `off` locate it for the reject log. -/
def writeQpCtl (abort : Bool → Nat → State → State) (fn space off q : Nat) (v : W32) (s : State) : State :=
  match qpCtlCheck s q v with
  | some st => rejectWrite fn space off st s
  | none =>
    let was := s.on (fQp_CTL_EN q)
    let s1 := s.setReg (rQp_CTL q) (v &&& 0xF81F1F00#32)
    if v.getLsbD 31 && !was then qpEnabled q s1
    else if !v.getLsbD 31 && was then qpDisabled abort q s1
    else s1

/-- The checks of a write to a function's NQ_CTL (R369, R572) (DEDUCED, log entry 7). -/
def nqCtlCheck (s : State) (f : Nat) (v : W32) : Option Nat :=
  let c := s.reg (rNq_NQ_CTL f)
  firstFail [
    (c.getLsbD 31 && bits v 20 16 != bits c 20 16, eState),
    (v.getLsbD 31 && !c.getLsbD 31 && (decide (bits v 20 16 < 4 ∨ 12 < bits v 20 16)
      || s.pair (rNq_NQ_BASE_LO f) (rNq_NQ_BASE_HI f) % 64 != 0), eRange)]

/-- A write to NQ_CTL: enabling a ring sets TAIL to 0 and PHASE to 1 (R369). -/
def writeNqCtl (fn space off f : Nat) (v : W32) (s : State) : State :=
  match nqCtlCheck s f v with
  | some st => rejectWrite fn space off st s
  | none =>
    let was := s.on (fNq_NQ_CTL_EN f)
    let s1 := s.setReg (rNq_NQ_CTL f) (v &&& 0xC01F0000#32)
    if v.getLsbD 31 && !was then (s1.setFld (fNq_NQ_STAT_TAIL f) 0).setFld (fNq_NQ_STAT_PHASE f) 1 else s1

/-- A write of consumed notice slots (R362). -/
def writeNqCi (fn space off f : Nat) (v : W32) (s : State) : State :=
  if s.nqSize f ≤ bits v 11 0 then rejectWrite fn space off eRange s
  else s.setFld (fNq_NQ_CI_CI f) (bits v 11 0)

/-- Where function `fn` sees queue-pair register `r`, for the reject log (R368, R567). -/
def State.placeQp (s : State) (fn q off : Nat) : Nat × Nat :=
  if fn = 0 then (0, addrOf ⟨.qp, q, off⟩) else (1, 0x1000 + 0x40 * (q - s.vfBase fn) + off)

/-- Where function `fn` sees notice register `off` of function `f`. -/
def placeNq (fn f off : Nat) : Nat × Nat := if fn = 0 then (0, addrOf ⟨.nq, f, off⟩) else (1, 0x100 + off)

/-- NQ_ENABLE (R369). -/
def execNqEnable (fn f : Nat) (v : W32) (s : State) : Host.Outcome State Fault Refusal :=
  .next (hostAccess (fun s => if f < 32 && (fn == 0 || fn == f) then writeNqCtl fn (placeNq fn f 8).1 (placeNq fn f 8).2 f v s else s) s)

/-- NQ_CI (R362). -/
def execNqCi (fn f : Nat) (v : W32) (s : State) : Host.Outcome State Fault Refusal :=
  .next (hostAccess (fun s => if f < 32 && (fn == 0 || fn == f) then writeNqCi fn (placeNq fn f 0x10).1 (placeNq fn f 0x10).2 f v s else s) s)

/-- Bus Master Enable of a function changes (R339). -/
def setBusMaster (fn : Nat) (on : Bool) (s : State) : State :=
  let s1 := { s with host := { s.host with bme := Tab.set s.host.bme fn on } }
  if s.dark then s
  else if on && !s.bme fn then
    let mine := s.host.held.filter (·.1 == fn)
    let s2 := { s1 with host := { s1.host with held := s.host.held.filter (·.1 != fn) } }
    let s3 := mine.foldl (fun a c => writeCompl c.2 a) s2
    let mineQ := (List.range 256).filter fun q => s3.ownerOf q == fn && s3.on (fQp_CTL_EN q) && s3.fld (fQp_STAT_ERR q) == 0
    let s4 := (mineQ.filter fun q => (s3.qp q).due).foldl (fun a q => dueDoorbell q a) s3
    let s5 := sendAllPending fn (mineQ.foldl (fun a q => requestDescs q a) s4)
    if fn = 0 ∧ s5.sec.hostBoot then
      s5.emit (.hostRead 0 (s5.pair rSec_HB_ADDR_LO rSec_HB_ADDR_HI) (s5.fld fSec_HB_LEN_LEN))
    else s5
  else s1

end Sys2Proof.Machine
end

