-- ==== Sys2Proof/Machine/Power.lean ====
section
/-! DEFINITION. Power states: tolerance, floor, target, hints, transitions, wake events (R440-R460). -/

namespace Sys2Proof.Machine

/-- The exit latency to P0 in µs (R440). -/
def exitUs : Nat → Nat
  | 1 => 3 | 2 => 60 | 3 => 1800 | _ => 0

/-- The LTR term of L_tol in ns: the smaller of the two programmed maxima (R444). -/
def State.ltrTol (s : State) : Nat := min (ltrNs s.host.cfg.snoop) (ltrNs s.host.cfg.noSnoop)

/-- L_tol in ns (R444). -/
def State.tolNs (s : State) : Nat :=
  let t := s.fld fPwr_TOLERANCE_TOL_US * 1000
  if s.host.cfg.ltr then min t s.ltrTol else t

/-- What keeps the device in P1 or P0 (R445, second row) (DEDUCED, log entry 61). -/
def State.mediaFloor (s : State) : Bool :=
  s.loom.isps.any (·.2.state != 0) || s.loom.esps.any (·.2.state != 0) || !s.loom.rules.isEmpty
  || (List.range 92).any (fun i => s.fld (fSh_STAT_STATE (i + 4)) == 2)
  || (List.range 32).any (fun d => s.fld (fDrf_DC_STAT_STATE d) != 0)
  || (List.range 8).any (fun n => s.mode n == m100 || s.mode n == m200)
  || s.host.qps.any (fun e => e.2.taken.any (!·.waiting))

/-- The floor (R445). -/
def State.floor (s : State) : Nat :=
  if !s.ready || s.bist.isSome || (List.range 8).any (fun n => s.on (fLn_MODE_STAT_BUSY n)) then 0
  else if s.mediaFloor then 1
  else if (List.range 8).any (fun n => s.mode n != 0) || s.on (fCx_CTL_EN 0) || s.on (fCx_CTL_EN 1)
    || (List.range 4).any (fun k => (s.gen k).running) || s.role != 0 then 2
  else 3

/-- State `p` meets the tolerance, the floor and the hint (R446). -/
def State.permits (s : State) (p : Nat) : Bool :=
  decide (exitUs p * 1000 ≤ s.tolNs ∧ p ≤ s.floor) && (!s.on fPwr_HINT_ACTIVE || decide (p ≤ s.fld fPwr_HINT_TARGET))

/-- The target (R446). -/
def State.target (s : State) : Nat := ([3, 2, 1].find? s.permits).getD 0

/-! ## Transitions -/

/-- A state is requested: at once, or into the pending slot while a transition runs (R449). -/
def requestState (p : Nat) (s : State) : State :=
  if s.on fPwr_STATE_TRANS then s.setFld fPwr_STATE_PENDING p
  else if p = s.pState then s else startTransition p s

/-- The target is evaluated (R446, R447): a shallower one is requested at once, and in P2 and P3 it is wake source 7;
deeper ones start or continue the dwell. While an exit runs to a state that meets the target, nothing is requested, so that
it is followed by a dwell (R452) (DESIGN CHOICE, log entry 1; DEDUCED, log entry 60). -/
def pwrEval (s : State) : State :=
  let t := s.target
  if t < s.pState then
    let s1 := s.modPwr ({ · with deeper := none })
    if s.on fPwr_STATE_TRANS ∧ !s.entering ∧ s.pwr.going.getD 0 ≤ t then s1
    else if 2 ≤ s.pState then wake 7 s1 else requestState t s1
  else if t = s.pState then s.modPwr ({ · with deeper := none })
  else s.modPwr fun w => { w with deeper := some (match w.deeper with | some (a, d) => (a, min d t) | none => (s.up, t)) }

/-- Time passes until the running clock reads `t`, the timebase with it where D_TB runs. -/
def passTo (t : Nat) (s : State) : State := if s.up < t then pass (if s.tbRuns then t - s.up else 0) (t - s.up) s else s

/-- PWR_TRANSITION_START: for CTL.DWELL_US every target evaluated has been deeper than STATE, and the shallowest is requested; without
such a dwell nothing is (R447) (DESIGN CHOICE, log entry 2). -/
def execPwrTransitionStart (s : State) : Host.Outcome State Fault Refusal :=
  .next (
    match s.pwr.deeper with
    | none => s
    | some (since, d) =>
      if s.target ≤ s.pState ∨ s.dark then s
      else requestState (min d s.target)
        ((passTo (since + s.fld fPwr_CTL_DWELL_US * 1000 * nsU) s).modPwr ({ · with deeper := none })))

/-- What P2 and P3 hold: every trained beam port in self-refresh, M400 lanes idle, whatever their transmitters hold (R442) (DEDUCED, log entry 60; DEDUCED, log entry 61). -/
def enterHold (s : State) : State :=
  let s1 := (List.range 8).foldl (fun a n => toRxIdle n (idleTx n (Config.superframes n s.free) a)) s.tick
  ((List.range 16).filter (fun k => s.on (fBm_STAT_TRAINED k))).foldl (fun a k => enterSelfRefresh k a) s1

/-- PWR_TRANSITION_END: the D_AON logic has counted `us` in the state, which the clocks that run show, and the transition ends (R449,
R451, R452, R455) (DESIGN CHOICE, log entry 2). -/
def execPwrTransitionEnd (us : Nat) (s : State) : Host.Outcome State Fault Refusal :=
  .next (if s.pwr.going.isNone then s else transitionEnded enterHold (passTo (s.pwr.since + us * 1000 * nsU) s))

/-! ## Wake events and hints -/

/-- WAKE_EVENT (R450); TARGET occurs when the target is shallower than STATE. -/
def execWakeEvent (src : WakeSrc) (s : State) : Host.Outcome State Fault Refusal :=
  .next (
    match src with
    | .host => wake 1 s
    | .lane => wake 2 s
    | .cox => wake 3 s
    | .timer => wake 4 s
    | .supervision => wake 5 s
    | .thermal => wake 6 s
    | .target => if s.target < s.pState then wake 7 s else s)

/-- WAKE_TIMER_EXPIRY: WAKE_TIMER.MS since the end of the entry; 0 disables it (R450). -/
def execWakeTimerExpiry (s : State) : Host.Outcome State Fault Refusal :=
  .next (if s.fld fPwr_WAKE_TIMER_MS = 0 ∨ s.pState < 2 then s else wake 4 s)

/-- A hint is withdrawn (R448, R459) (DEDUCED, log entry 61). -/
def dropHint (s : State) : State := (s.setReg rPwr_HINT 0).modPwr ({ · with hintEnd := none })

/-- PWR_HINT (R448, R379). -/
def execPwrHint (h : Hdr) (target holdMs : Nat) (s : State) : Host.Outcome State Fault Refusal :=
  .next (command h (.pwrHint h target holdMs) (s.gate h true [] ++ [(decide (3 < target) && target != 255, eRange)])
    (fun s =>
      let pend := s.fld fPwr_STATE_PENDING
      let s1 := if target = 255 then dropHint s
        else ((dropHint s).setReg rPwr_HINT (BitVec.ofNat 32 (2 ^ 31 + target))).modPwr
          ({ · with hintEnd := if holdMs = 0 then none else some (s.up + holdMs * 1000000 * nsU) })
      complete h eOk (leBytes 1 s.pState ++ leBytes 1 (if pend = 7 then 255 else pend)) s1) s)

/-- HINT_EXPIRY: HOLD_MS has passed (R448). -/
def execHintExpiry (s : State) : Host.Outcome State Fault Refusal :=
  .next (if s.pwr.hintEnd.isSome then dropHint s else s)

/-- PWR.HINT_REMAIN in ms (R460). -/
def State.hintRemain (s : State) : Nat :=
  match s.pwr.hintEnd with
  | some t => min (2 ^ 32 - 1) ((t - s.up + 1000000 * nsU - 1) / (1000000 * nsU))
  | none => 0

/-- PERST returns STATE, TARGET and PENDING to their reset values and withdraws the hint (R459). -/
def perstPower (s : State) : State :=
  ((dropHint s).setReg rPwr_STATE (regReset rPwr_STATE)).modPwr fun w =>
    { w with going := none, latch := none, since := s.up, deeper := none }

/-- What an empty queue lets pass: one D_TB tick, at which the target is evaluated too (R183, R446) (DESIGN CHOICE, log entry 1; DEDUCED, log entry 60; DESIGN CHOICE, log entry 82). -/
def idleTick (s : State) : State :=
  let s1 := if s.tbRuns then tbTick s else pass 0 131072 s
  if s.dark then s1 else pwrEval (delaysEnd s1)

end Sys2Proof.Machine
end

