-- ==== Sys2Proof/Machine/Bist.lean ====
section
/-! DEFINITION. Built-in self-test (R497-R504). -/

namespace Sys2Proof.Machine

/-- The bits of a mask that name blocks (R497). -/
def bistBits (mask : Nat) : List Nat := maskBits 41 mask

/-- A stream port is open. -/
def State.anyPort (s : State) : Bool := s.loom.isps.any (·.2.state != 0) || s.loom.esps.any (·.2.state != 0)
/-- Every draft channel is idle. -/
def State.draftsIdle (s : State) : Bool := (List.range 32).all fun d => s.fld (fDrf_DC_STAT_STATE d) == 0

/-- The owner shuttles of a cluster; cluster 0 holds the house shuttles too (R497). -/
def clusterShuttles (c : Nat) : List Nat := ((List.range 8).map (8 * c + ·)).filter (4 ≤ ·)

/-- An ISP_CLOSE or a closing by LANE_MODE or FLR has not ended (R218). -/
def State.ispEnding (s : State) : Bool := s.loom.isps.any fun e => e.2.closing.isSome || e.2.gone

/-- The idle condition of a named block (R498), for which the commands begun before it count that would still act on the block (R500). -/
def State.bistIdle (s : State) (b : Nat) : Bool :=
  if b < 8 then s.mode b == 0 && !s.on (fLn_MODE_STAT_BUSY b)
  else if b < 24 then !s.anyPort && s.draftsIdle && s.sht.sh.all (fun e => e.2.strs.isEmpty && e.2.start.isNone)
      && !s.ispEnding && s.beam.bolts.all (fun e => e.2.binding.isNone)
  else if b < 36 then
    (clusterShuttles (b - 24)).all (fun n => s.shState n != stRun && !s.shBusy n)
      && s.loom.isps.all fun e => e.2.state == 0 || !(e.2.feed.any fun f => f.sh / 8 == b - 24)
  else if b = 36 then !s.anyPort && !s.ispEnding && s.loom.rules.isEmpty && (List.range 8).all (fun n => s.mode n == 0 && !s.on (fLn_MODE_STAT_BUSY n))
  else if b = 37 then s.draftsIdle
  else if b = 38 then (List.range 16).all (fun n => !s.on (fCk_CTL_EN n)) && !s.on (fCx_CTL_EN 0) && !s.on (fCx_CTL_EN 1)
  else !s.on (fCx_CTL_EN (b - 39)) && s.role == 0

/-- The clocks that are measured: the D_TB source counts where a cox link is tested (R499). -/
def bistClks (mask : Nat) : Nat := if mask.testBit 39 || mask.testBit 40 then 4 else 3

/-- What R499 measures: VDD_CORE in mV, the clock furthest from nominal, its deviation in 0.01 % (DESIGN CHOICE, log entry 71). -/
def State.bistVdd (s : State) : Nat := Config.vddMv s.free % 65536
/-- DESIGN CHOICE, log entry 71. -/
def State.bistClk (s : State) (mask : Nat) : Nat := (Config.clkWorst s.free).toNat % bistClks mask

/-- The preconditions of R499 on a measured VDD_CORE in mV and the largest clock deviation in 0.01 %. -/
def State.bistPre (s : State) (mv : Nat) (dev : Int) : Bool :=
  decide (728 ≤ mv ∧ mv ≤ 772 ∧ s.thm.active.vreq ≤ mv ∧ dev.natAbs ≤ 50)

/-- The measured values are reported (R499, R515). -/
def bistMeasure (mv worst : Nat) (dev : Int) (s : State) : State :=
  ((s.setFld fTst_VDD_MV mv).setFld fTst_CLK_WORST worst).setSFld fTst_CLK_DEV dev

/-- The lane test's criteria (R504): 16 slices of 9 levels each within ±3 LSB, 2^28 symbols without a bit error at MERIT
30 or more, no logic or memory fault. -/
def lanePasses (t : BlkTest) : Bool :=
  t.codes.length == 16 && t.codes.all (fun l => l.length == 9 && l.all fun d => decide (d.natAbs ≤ 3))
    && decide (2 ^ 28 ≤ t.symbols) && t.errors == 0 && decide (30 ≤ t.merit) && !t.fault

/-- The cox-link test's criteria (R504). -/
def coxPasses (t : BlkTest) : Bool := t.errors == 0 && decide (100 ≤ t.merit)

/-- Block `b` of the mask passes its test (R497, R504). -/
def testPasses (b : Nat) (t : BlkTest) : Bool :=
  if b < 8 then lanePasses t else if b < 39 then !t.fault else coxPasses t

/-- A register lies in block `b` of the mask, for house shuttles in none (R497). -/
def inBlock (b : Nat) (r : RegId) : Bool := bistBit r == some b

/-- A register of block `b` does not hold its reset value, or the cluster holds an image: the block needs set-up again
after its test (R502). -/
def State.bistSetup (s : State) (b : Nat) : Bool :=
  s.regs.any (fun e => inBlock b e.1 && e.2 != regReset e.1)
  || (decide (24 ≤ b ∧ b < 36) && (clusterShuttles (b - 24)).any fun n => s.shState n != stOff)

/-- A number whose bits are those of a list. -/
def maskOf (l : List Nat) : Nat := l.foldl (fun m i => Nat.lor m (2 ^ i)) 0

/-- The mask registers show the blocks in self-test (R515). -/
def showActive (mask : Nat) (s : State) : State :=
  (List.range 4).foldl (fun a j => a.setFld (fTst_ACTIVE_MASK j) (mask / 2 ^ (32 * j))) s

/-- The named blocks enter self-test (R500, R501). -/
def bistBegin (h : Hdr) (mask : Nat) (s : State) : State :=
  let s1 := ((bistBits mask).filter (fun b => decide (8 ≤ b ∧ b < 24))).foldl (fun a b => enterSelfRefresh (b - 8) a)
    (bistMeasure s.bistVdd (s.bistClk mask) (Config.clkDev s.free) s)
  showActive mask ((({ s1 with bist := some ⟨h, mask, maskOf ((bistBits mask).filter s.bistSetup), s.up⟩, tstAt := some s.up }).setFld
    fTst_STAT_BUSY 1).setFld fTst_STAT_ABORTED 0)

/-- BIST_RUN (R379, R498-R500). The values measured for it are used up whether or not it is accepted (DESIGN CHOICE, log entry 71). -/
def execBistRun (h : Hdr) (mask : Nat) (s : State) : Host.Outcome State Fault Refusal :=
  .next ((command h (.bistRun h mask) (s.gate h true [] ++
      [(decide (mask = 0 ∨ 2 ^ 41 ≤ mask), eRange), (s.bist.isSome, eBusy),
       (!s.bistPre s.bistVdd (Config.clkDev s.free) || (bistBits mask).any (fun b => !s.bistIdle b), eState)])
    (bistBegin h mask) s).tick)

/-- A tested block is in the state that a BLK reset of it leaves, with the exceptions of R502. -/
def bistReset (b : Nat) (s : State) : State :=
  if b < 8 then clearLane b s
  else if b < 24 then
    let s1 := s.resetRegs fun r => r.blk == .bm && r.inst == b - 8 && r.off != 0 && r.off != 8
    if 2 ≤ s.pState ∨ s.beam.resets.contains (b - 8) then s1 else s1.setFld (fBm_STAT_SELF_REF (b - 8)) 0
  else if b < 36 then (clusterShuttles (b - 24)).foldl (fun a n => resetShuttle n a) s
  else if b = 36 then { s.resetRegs (fun r => r.blk == .loom) with loom := {} }
  else if b = 37 then { s.resetRegs (fun r => r.blk == .drf && !decide (0x100 ≤ r.off ∧ r.off < 0x140)) with drf := {} }
  else if b = 38 then showLinkCks { s.resetRegs (fun r => r.blk == .chk || r.blk == .ck) with ck := [] }
  else { s.resetRegs (fun r => r.blk == .cx && r.inst == b - 39) with links := Tab.erase s.links (b - 39) }

/-- A self-test ends: the blocks return, the record of failed blocks and blocks to set up again is written (R502, R503) (DEDUCED, log entry 72). -/
def bistFinish (t : BistRun) (status failed setup : Nat) (s : State) : State :=
  let s1 := (bistBits t.mask).foldl (fun a b => bistReset b a) { s with bist := none }
  let s2 := showActive 0 (s1.setFld fTst_STAT_BUSY 0)
  postCompl ⟨t.hdr, status, 0, [], [(t.hdr.resAddr, leBytes 16 (Nat.land failed t.mask) ++ leBytes 16 setup)], true⟩
    (raise_ fTst_EVENT_DONE s2)

/-- The named blocks whose test has not passed in full (R502-R504); `res` holds the blocks whose test has ended. -/
def bistFailed (mask : Nat) (res : List (Nat × BlkTest)) : Nat :=
  maskOf ((bistBits mask).filter fun b => !(res.any fun e => e.1 == b && testPasses b e.2))

/-- BIST_END (R502, R504). -/
def execBistEnd (res : List (Nat × BlkTest)) (s : State) : Host.Outcome State Fault Refusal :=
  .next (match s.bist with
    | none => s
    | some t => bistFinish t eOk (bistFailed t.mask res) t.setup s)

/-- BIST_PRECONDITION_FAIL: a periodic measurement is reported, and where it breaks R499 every test stops; `res` holds the
blocks whose test had ended (R499, R503). -/
def execBistPreconditionFail (m : BistMeas) (s : State) :
    Host.Outcome State Fault Refusal :=
  .next (match s.bist with
    | none => s
    | some t =>
      let s1 := bistMeasure m.mv (m.worst % bistClks t.mask) m.dev s
      if s.bistPre m.mv m.dev then s1
      else bistFinish t eAbort (bistFailed t.mask m.res) t.mask (raise_ fTst_EVENT_ABORT (s1.setFld fTst_STAT_ABORTED 1)))

/-- TST.STAT.ELAPSED in µs (R515) (DEDUCED, log entry 72). -/
def State.bistElapsed (s : State) : Nat :=
  match s.tstAt with
  | some t => min (2 ^ 30 - 1) ((s.up - t) / (1000 * nsU))
  | none => 0

end Sys2Proof.Machine
end

