-- ==== Sys2Proof/Machine/Crew.lean ====
section
/-! DEFINITION. Crews: forming and leaving, markers, beacons, crew frames, breaks and healing (R161-R180, R381). -/

namespace Sys2Proof.Machine

def State.modCrew (s : State) (f : CrewSt → CrewSt) : State := { s with crew := f s.crew }

/-- The lowest shared generator (R179, R180). -/
def State.lowestShared (s : State) : Option Nat := (List.range 4).find? fun k => s.shared k

/-! ## Joining and leaving (R174-R176, R378, R379) -/

/-- The links that a role needs (R378). -/
def linksNeeded (role topo : Nat) : List Nat := if topo = 1 then [0, 1] else if role = 1 then [1] else [0]

/-- The own conditions of CREW_JOIN (R175, R378). -/
def crewJoinChecks (role topo share : Nat) (relayEn : Bool) (leadUs rxQp : Nat) (s : State) : List (Bool × Nat) :=
  [(decide ((role ≠ 1 ∧ role ≠ 2) ∨ 1 < topo) || (role == 1 && (share == 0 || decide (leadUs < 1 ∨ 1000 < leadUs)))
      || (role == 2 && decide (share ≠ 0 ∨ leadUs ≠ 0)), eRange),
   (s.inCrew, eState),
   (s.crew.join.isSome || s.crew.leave.isSome, eBusy),
   ((linksNeeded role topo).any (fun n => !s.on (fCx_CTL_EN n)), eState),
   (relayEn && !s.recvQueue rxQp, eState),
   (role == 1 && (List.range 4).any (fun k => share.testBit k && !(s.gen k).defined), eState)]

/-- The 1.8 µs that a direction with SLEEP_EN = 1 adds to the check of R175: link `n`'s transmitter, in 1/16 ns. -/
def State.sleepTime (s : State) (n : Nat) : Int := if s.on (fCx_SLEEP_SLEEP_EN n) then 28800 else 0

/-- An accepted CREW_JOIN (R174, R181): a lead sends ENUM downstream; a member's servo is suspended. -/
def crewJoinBegin (h : Hdr) (id role topo share : Nat) (relayEn : Bool) (leadUs rxQp : Nat) (s : State) : State :=
  let s1 := ((s.setReg rCox_CREW_STAT 0).setReg rCox_CREW_CNT 0).setReg rCox_CREW_RLY 0
  let s2 := ((((s1.setFld fCox_CREW_STAT_ROLE role).setFld fCox_CREW_STAT_TOPO topo).setFld fCox_CREW_STAT_SHARE share).setReg
    rCox_CREW_SIZE (BitVec.ofNat 32 (id % 65536 * 65536))).setFld fCox_CREW_LEAD_LEAD_US leadUs
  let s3 := s2.modCrew fun c => { c with join := some h, formed := false, relayEn := relayEn, rxQp := rxQp, alignRun := 0,
                                          breaks := [], strokes := 0, unwrap := [], mend := [], cut := false, lost := false }
  if role = roleLead then sendControl 1 tEnum 0xFFFF false [0, 0, s.sleepTime 1] s3 else servoToCrew s3

/-- CREW_JOIN (R174). -/
def execCrewJoin (h : Hdr) (id role topo share : Nat) (relayEn : Bool) (leadUs rxQp : Nat) (s : State) :
    Host.Outcome State Fault Refusal :=
  .next (command h (.crewJoin h id role topo share relayEn leadUs rxQp) (s.gate h true coxTargets ++ crewJoinChecks role topo share relayEn leadUs rxQp s)
    (crewJoinBegin h id role topo share relayEn leadUs rxQp) s)

/-- A pending CREW_JOIN completes (DEDUCED, log entry 30). -/
def joinDone (status : Nat) (s : State) : State :=
  match s.crew.join with
  | none => s
  | some h => complete h status [] (s.modCrew ({ · with join := none }))

/-- The device stands outside every crew again. -/
def crewClear (role : Nat) (s : State) : State :=
  ((((s.setFld fCox_CREW_STAT_ROLE role).setFld fCox_CREW_STAT_SHARE 0).setFld fCox_CREW_STAT_HEALING 0).setFld
    fCox_CREW_STAT_HOLDOVER 0).modCrew fun c => { c with formed := false, relayEn := false }

/-- A member becomes a pass-through; its shared generators go on as local ones (R176, R188). -/
def becomePassThrough (s : State) : State :=
  let s1 := (List.range 4).foldl (fun a k =>
    if s.follows k then
      let b := a.modGen k fun g => { g with d := g.d.map ({ · with src := 0 }), marked := false, late := false }
      b.setFld (fGen_DEF_SRC k) 0
    else a) s
  servoLeaveCrew (crewClear rolePass s1)

/-- The lead's CREW_LEAVE completes once DISSOLVE has left on every link in UP (R379) (DEDUCED, log entry 30). -/
def dissolveCheck (s : State) : State :=
  match s.crew.leave with
  | some h => if s.crew.dissolve = 0 then complete h eOk [] (crewClear roleNone (s.modCrew ({ · with leave := none }))) else s
  | none => s

/-- CREW_LEAVE (R176, R379). -/
def execCrewLeave (h : Hdr) (s : State) : Host.Outcome State Fault Refusal :=
  .next (command h (.crewLeave h) (s.gate h true coxTargets ++ [(!s.inCrew, eState), (s.crew.leave.isSome, eBusy)])
    (fun s =>
      let s1 := joinDone eAbort s
      if s.role = roleMember then complete h eOk [] (becomePassThrough s1)
      else
        let ls := [1, 0].filter fun n => s1.cxRx n == cxRxUp && !s1.faulted n
        let s2 := s1.modCrew fun c => { c with leave := some h, dissolve := ls.length }
        dissolveCheck (ls.foldl (fun a n =>
          let b := sendControl n tDissolve 0xFFFF (n == 0) [] a
          b.modLink n fun l => { l with frames := l.frames.map fun f => if f.typ = tDissolve then { f with tag := .dissolve } else f }) s2)) s)

/-- CREW_RELAY (R165, R379): the frame joins its link's frames; the completion follows its K29.7. -/
def execCrewRelay (h : Hdr) (dst dir len : Nat) (payload : Option (List Byte)) (s : State) :
    Host.Outcome State Fault Refusal :=
  let n := if dir = 0 then 1 else 0
  .next (command h (.crewRelay h dst dir len payload) (s.gate h true coxTargets ++
      [(decide (256 < len) || dst == s.fld fCox_CREW_STAT_MEMBER_ID ||
          (decide (s.fld fCox_CREW_SIZE_SIZE ≤ dst) && dst != 0xFFFF), eRange),
       (!s.inCrew || (s.cxRx n != cxRxUp && !s.on (fCx_STAT_WRAPPED n)), eState),
       (payload.isNone, eBus)])
    (fun s => sendFrame n { typ := tRelay, flags := dir, src := s.fld fCox_CREW_STAT_MEMBER_ID, dst := dst, seq := s.crew.seq,
                            payload := (payload.getD []).take len, tag := .relay h }
      (s.modCrew fun c => { c with seq := (c.seq + 1) % 65536 })) s)

/-- CREW_FRAME_SENT: the frame in progress has left (R166, R379). -/
def execCrewFrameSent (n : Nat) (s : State) : Host.Outcome State Fault Refusal :=
  .next (
    if 2 ≤ n ∨ s.cxTx n ≠ cxTxActive ∨ s.cxMuted n then s
    else match (s.link n).frames with
      | [] => s
      | f :: r =>
        let s1 := (s.emit (.coxItem n 0xFB (frameBytes f))).modLink n ({ · with frames := r })
        match f.tag with
        | .plain => s1
        | .relay h => complete h eOk [] s1
        | .dissolve => dissolveCheck (s1.modCrew fun c => { c with dissolve := c.dissolve - 1 }))

/-- ENUM_TIMEOUT: ENUM did not close within 100 ms (R175). -/
def execEnumTimeout (s : State) : Host.Outcome State Fault Refusal :=
  .next (if s.role = roleLead ∧ s.crew.join.isSome ∧ !s.crew.formed then joinDone eTimeout (crewClear roleNone s) else s)

/-- MEMBER_ALIGN_TIMEOUT: the member stays in the crew, in holdover (R175). -/
def execMemberAlignTimeout (s : State) : Host.Outcome State Fault Refusal :=
  .next (if s.role = roleMember ∧ s.crew.join.isSome then joinDone eTimeout (s.setFld fCox_CREW_STAT_HOLDOVER 1) else s)

/-! ## Markers (R161, R166, R171, R172) -/

/-- STROKE_MARKER_TX: the lead sends the marker of the next shared stroke, LEAD_US before its instant (R161, R171) (DESIGN CHOICE, log entry 2). -/
def execStrokeMarkerTx (k : Nat) (s : State) : Host.Outcome State Fault Refusal :=
  let g := s.gen k
  .next (
    if s.role ≠ roleLead ∨ !s.shared k ∨ !g.defined ∨ g.sent ∨ 4 ≤ k then s
    else
      let s1 := advanceTo (g.nextAt - ((s.fld fCox_CREW_LEAD_LEAD_US * 1000 * nsU : Nat) : Int)) s
      let b := markerBytes k 0 g.nextCount g.nextAt g.jumpMk g.defChg
      let s2 := sendItem 1 (.marker b) (s1.modGen k ({ · with sent := true, defChg := false }))
      if s.on fCox_CREW_STAT_TOPO then sendItem 0 (.marker b) s2 else s2)

/-- The counts that a marker's count passes over after the last stroke fired: a lead's jump (R172, R201). -/
def Gen.passedOver (g : Gen) (count : Nat) : Option (Nat × Nat) :=
  match g.last with
  | none => none
  | some (c, _) =>
    let gap := (count + 4294967296 - c - 1) % 4294967296
    if 0 < gap ∧ gap < 2147483648 then some ((c + 1) % 4294967296, (count + 4294967295) % 4294967296) else none

/-- A member takes a marker for generator `k` (R171, R172): it schedules the stroke of that count, with or without a
definition of the generator, or counts late; a marker whose stroke has fired in holdover is ignored (DESIGN CHOICE, log entry 124). -/
def takeMarker (k count : Nat) (inst : Int) (s : State) : State :=
  let g := s.gen k
  if g.last.map (·.1) = some count then s
  else match g.d with
  | none =>
    if g.bare.map (·.1) = some count then s
    else if inst < (s.tb : Int) + 100 * nsU then
      raise_ fCox_CREW_EVENT_MARK_LATE (s.addSat fCox_CREW_CNT_MARK_LATE)
    else s.modGen k ({ · with bare := some (count, inst), marked := true, passed := g.passedOver count })
  | some d =>
    if (g.marked || g.late) ∧ g.nextCount = count then s
    else if inst < (s.tb : Int) + 100 * nsU then
      raise_ fCox_CREW_EVENT_MARK_LATE ((s.addSat fCox_CREW_CNT_MARK_LATE).modGen k ({ · with late := true }))
    else
      let (j, ofs) := d.align inst
      let g1 : Gen := { g with j := j, ofs := ofs, at_ := inst, m := (count : Int) - j, marked := true, new := none
                               passed := g.passedOver count }
      (s.setGen k g1).setFld fCox_CREW_STAT_HOLDOVER 0

/-- STROKE_MARKER_RX: a marker is checked, relayed and taken (R161, R164, R166, R171). -/
def execStrokeMarkerRx (n : Nat) (m : CoxBytes) (s : State) : Host.Outcome State Fault Refusal :=
  .next (
    if !s.cxHears n then s
    else if m.length ≠ 20 ∨ field m 19 1 ≠ crc8 (m.take 19) then s.addSat (fCx_CNT_CODE_ERR n)
    else if s.role = roleNone ∨ s.role = roleLead then s
    else
      let b := m.take 1 ++ leBytes 2 (field m 1 2 + 1) ++ (m.drop 3).take 16
      let s1 := sendItem (1 - n) (.marker (b ++ leBytes 1 (crc8 b))) s
      if s.role = roleMember then
        let k := field m 0 1 % 4
        takeMarker k (field m 3 4) (((field m 7 2 + nsU * field m 9 4 + secU * field m 13 6 : Nat)) : Int)
          (s1.setFld fCox_CREW_STAT_SHARE (Nat.lor (s1.fld fCox_CREW_STAT_SHARE) (2 ^ k)))
      else s1)

/-! ## Beacons (R162, R169, R170) -/

/-- TIME_BEACON_TX: each end of each link in UP sends a beacon; a link whose receiver sleeps is not in UP (R169) (DESIGN
CHOICE, log entry 93). -/
def execTimeBeaconTx (s : State) : Host.Outcome State Fault Refusal :=
  .next ([0, 1].foldl (fun a n => if a.cxRx n = cxRxUp then sendItem n .beacon a else a) s)

/-- A member steers its timebase towards the lead (R170): at most 1 ns in phase and 10 ppm in frequency (DESIGN CHOICE, log entry 19). -/
def crewSteer (ofs2 : Int) (s : State) : State :=
  let p := max (-65536) (min 65536 (Config.crewPhase ofs2 s.free))
  let f := max (-655360) (min 655360 (Config.crewFreq ofs2 (s.sfld fCox_TB_FREQ_FREQ) s.free))
  ({ s with tb := ((s.tb : Int) + p).toNat }.tick).setSFld fCox_TB_FREQ_FREQ f

/-- An aligned member's CREW_JOIN completes after 8 consecutive beacons within 1 ns (R174). -/
def alignStep (ofs2 : Int) (s : State) : State :=
  let r := if ofs2.natAbs ≤ 2 * nsU then s.crew.alignRun + 1 else 0
  let s1 := s.modCrew ({ · with alignRun := r })
  if 8 ≤ r ∧ s.crew.join.isSome then joinDone eOk (raise_ fCox_CREW_EVENT_ALIGNED (s1.modCrew ({ · with formed := true })))
  else s1

/-- TIME_BEACON_RX: link delay and offset from a beacon (R162, R164, R169), in units of 2^-17 ns, captured at 1/16 ns
(R183). CXn_HOP is the mean of the last 16 results, of those there are before there are 16 (DESIGN CHOICE, log entry 93). No device relays a beacon, a pass-through neither (R166, R176)
(DESIGN CHOICE, log entry 125). -/
def execTimeBeaconRx (n : Nat) (b : CoxBytes) (s : State) : Host.Outcome State Fault Refusal :=
  .next (
    if !s.cxHears n then s
    else if b.length ≠ 28 ∨ field b 27 1 ≠ crc8 (b.take 27) then s.addSat (fCx_CNT_CODE_ERR n)
    else
      let at12 (o : Nat) : Nat := field b o 2 + nsU * field b (o + 2) 4 + secU * field b (o + 6) 6
      let t4 : Int := s.stamp s.tb
      let t3 : Int := (at12 2 : Nat)
      let t2 : Int := (at12 15 : Nat)
      let s1 := s.modLink n fun l => { l with heard := some (field b 1 1, s.stamp s.tb) }
      match Tab.find (s.link n).departs (field b 14 1) with
      | none => s1
      | some t1 =>
        let delay := (t4 - t1) - (t3 - t2)
        let ofs2 := 2 * (t4 - t3) - delay
        let ds := (delay :: (s.link n).delays).take 16
        let s2 := ((s1.modLink n ({ · with delays := ds, ofs := ofs2 })).setSFld (fCx_HOP_DELAY n)
          (roundFree (quot ((ds.foldl (· + ·) 0 : Int) : Rat) ((8192 * ds.length : Nat) : Rat)))).resultReady (rCx_HOP n)
        if s.role = roleMember ∧ s.fld fCox_CREW_STAT_PATH = n then
          alignStep ofs2 (crewSteer ofs2 ((s2.setSFld fCox_CREW_OFS_OFS (roundFree ((ofs2 : Rat) / 8192))).resultReady rCox_CREW_OFS))
        else s2)

/-! ## Breaks and healing (R177-R180) -/

/-- The lead records the ring healed; HEALED carries the breaks' location (R179) (DEDUCED, log entry 30). -/
def healed (s : State) : State :=
  let loc : List Int := s.crew.breaks.flatMap fun b => [(b.1 : Int), (b.2 : Int)]
  let s1 := raise_ fCox_CREW_EVENT_HEALED ((s.setFld fCox_CREW_STAT_HEALING 0).modCrew ({ · with strokes := 0 }))
  sendControl 1 tHealed 0xFFFF false loc (sendControl 0 tHealed 0xFFFF true loc s1)

/-- A break joins those known. -/
def addBreak (b : Nat × Nat) (s : State) : State :=
  s.modCrew fun c => { c with breaks := if c.breaks.contains b then c.breaks else b :: c.breaks }

/-- A ring's break is being healed (R179, R181). -/
def healing (s : State) : State := if s.on fCox_CREW_STAT_TOPO then s.setFld fCox_CREW_STAT_HEALING 1 else s

/-- The other end of the cable at a member's link, in a crew of `n` (R153). -/
def otherEnd (n : Nat) (b : Nat × Nat) : Nat × Nat := if b.2 = 0 then ((b.1 + n - 1) % n, 1) else ((b.1 + 1) % n, 0)

/-- The lead learns of a break at a member's link (R178, R179): once both neighbours of a ring's break have told of it, the
ring is healed (DEDUCED, log entry 30). -/
def noteBreak (b : Nat × Nat) (s : State) : State :=
  if s.crew.breaks.contains b then s
  else
    let s1 := raise_ fCox_CREW_EVENT_BREAK (healing (addBreak b s))
    if s.on fCox_CREW_STAT_TOPO ∧ s.crew.breaks.contains (otherEnd (s.fld fCox_CREW_SIZE_SIZE) b) then healed s1 else s1

/-- The breaks known cut member `me` off from the lead in both directions: one between it and the lead each way, of
which a chain has only the way upstream (R180). -/
def State.isCut (s : State) : Bool :=
  let me := s.fld fCox_CREW_STAT_MEMBER_ID
  let up := s.crew.breaks.any fun b => (b.2 == 0 && decide (b.1 ≤ me)) || (b.2 == 1 && decide (b.1 < me))
  let down := s.crew.breaks.any fun b => (b.2 == 1 && decide (me ≤ b.1)) || (b.2 == 0 && decide (me < b.1))
  up && (down || !s.on fCox_CREW_STAT_TOPO)

/-- The breaks known leave the lead with no link to the crew: its neighbour downstream, and in a ring the last member too, has
lost it (R180). -/
def State.leadGone (s : State) : Bool :=
  s.crew.breaks.contains (1, 0) &&
    (!s.on fCox_CREW_STAT_TOPO || s.crew.breaks.contains (s.fld fCox_CREW_SIZE_SIZE - 1, 1))

/-- A member judges the breaks that it knows: cut off from the lead it raises HOLDOVER, and where the lead is lost LEAD_LOST
(R180) (DESIGN CHOICE, log entry 95). -/
def judgeBreaks (s : State) : State :=
  let s1 := if s.isCut ∧ !s.crew.cut then
      raise_ fCox_CREW_EVENT_HOLDOVER ((s.setFld fCox_CREW_STAT_HOLDOVER 1).modCrew ({ · with cut := true }))
    else s
  if s1.leadGone ∧ !s1.crew.lost then
    raise_ fCox_CREW_EVENT_LEAD_LOST ((s1.setFld fCox_CREW_STAT_HOLDOVER 1).modCrew ({ · with lost := true }))
  else s1

/-- Link `n` of a crew member is faulted: the member wraps, switches its path to the other direction of a ring and sends
BREAK (R177, R178). -/
def markFaulted (n : Nat) (s : State) : State :=
  if !s.inCrew ∨ s.faulted n then s
  else
    let me := s.fld fCox_CREW_STAT_MEMBER_ID
    let waiting := (s.link n).frames
    let s1 := ((s.setFld (fCx_STAT_FAULTED n) 1).setFld (fCx_STAT_WRAPPED n) 1).modLink n ({ · with frames := [], items := [] })
    let s2 := waiting.foldl (fun a f => sendFrame n f a) (raise_ (fCx_EVENT_WRAP n) s1)
    if s.role = roleLead then noteBreak (0, n) s2
    else
      let s3 := raise_ fCox_CREW_EVENT_BREAK (healing (addBreak (me, n) s2))
      let s4 := sendControl n tBreak 0 (n == 0) [me, n] s3
      let s5 := if s.on fCox_CREW_STAT_TOPO ∧ s.fld fCox_CREW_STAT_PATH = n ∧ !s.faulted (1 - n) then
          s4.setFld fCox_CREW_STAT_PATH (1 - n)
        else s4
      judgeBreaks s5

/-- COX_RX_DOWN: UP goes to DOWN (R158); a crew member's link is faulted and its transmitter sends LINK_FAULT (R177).
`cause` 0 is loss of signal, 1 code violations, 2 merit. -/
def execCoxRxDown (n cause : Nat) (s : State) : Host.Outcome State Fault Refusal :=
  .next (
    if 2 ≤ n ∨ s.cxRx n ≠ cxRxUp ∨ s.on (fCx_PRBS_STAT_CHK n) = true ∨ (cause = 2 ∧ (s.link n).downRun < 4) then s
    else
      let s1 := raise_ (fCx_EVENT_DOWN n) ((s.setCxRx n cxRxDown).modLink n ({ · with upRun := 0, downRun := 0 }))
      let s2 := if cause = 0 then raise_ (fCx_EVENT_LOS n) (s1.setFld (fCx_STAT_LOS n) 1) else s1
      if s.inCrew then
        faultFrames (((markFaulted n s2).setCxTx n cxTxFault).modLink n ({ · with faultAt := s.up }))
      else s2)

/-- Links join those that unwrap, each once. -/
def addLinks (l u : List Nat) : List Nat := l.filter (!u.contains ·) ++ u

/-- The cable at link `b` is to be unwrapped: a device at one of its ends notes its link, and every member that the break is
mended (R180). -/
def queueUnwrap (b : Nat × Nat) (s : State) : State :=
  let me := s.fld fCox_CREW_STAT_MEMBER_ID
  let ends := [b, otherEnd (s.fld fCox_CREW_SIZE_SIZE) b]
  s.modCrew fun c => { c with unwrap := addLinks ((ends.filter (·.1 = me)).map (·.2)) c.unwrap, mend := ends ++ c.mend }

/-- The lead's own link is still faulted and has been in UP for 1 s; that of a member's link is the row's to tell (R180). -/
def State.stayedUp (s : State) (b : Nat × Nat) : Bool :=
  b.1 != 0 || (s.faulted b.2 && s.cxRx b.2 == cxRxUp && decide ((s.link b.2).upSince + secU ≤ s.up))

/-- UNWRAP: the faulted link of a known break, link `b.2` of member `b.1`, has stayed in UP for 1 s; the lead sends UNWRAP,
and both ends unwrap at the next stroke of the lowest shared generator (R180) (DEDUCED, log entry 30). -/
def execUnwrap (b : Nat × Nat) (s : State) : Host.Outcome State Fault Refusal :=
  let o := otherEnd (s.fld fCox_CREW_SIZE_SIZE) b
  .next (
    if s.role ≠ roleLead ∨ !(s.crew.breaks.contains b || s.crew.breaks.contains o) ∨ !(s.stayedUp b && s.stayedUp o) then s
    else sendControl 1 tUnwrap 0xFFFF false [b.1, b.2] (sendControl 0 tUnwrap 0xFFFF true [b.1, b.2] (queueUnwrap b s)))

/-- Link `n` unwraps, if it is still faulted, enabled and in UP (R156, R180). -/
def unwrapLink (n : Nat) (s : State) : State :=
  if s.faulted n ∧ s.on (fCx_CTL_EN n) ∧ s.cxRx n = cxRxUp then
    let a := (s.setFld (fCx_STAT_FAULTED n) 0).setFld (fCx_STAT_WRAPPED n) 0
    let b := if s.cxTx n = cxTxFault then a.setCxTx n cxTxActive else a
    raise_ fCox_CREW_EVENT_RESTORED (raise_ (fCx_EVENT_UNWRAP n) b)
  else s

/-- The path of a member is CX0, or in a ring CX1 while CX0 is faulted and CX1 is not (R178, R180). -/
def primaryPath (s : State) : State :=
  if s.role ≠ roleMember then s
  else if !s.faulted 0 then s.setFld fCox_CREW_STAT_PATH 0
  else if s.on fCox_CREW_STAT_TOPO ∧ !s.faulted 1 then s.setFld fCox_CREW_STAT_PATH 1
  else s

/-- The breaks that are mended are no longer known; a member that they cut off is so no more (R180) (DESIGN CHOICE, log entry 95). -/
def forgetBreaks (s : State) : State :=
  let s1 := s.modCrew fun c => { c with breaks := c.breaks.filter (!c.mend.contains ·), mend := [] }
  s1.modCrew fun c => { c with cut := c.cut && s1.isCut, lost := c.lost && s1.leadGone }

/-- What a stroke of the lowest shared generator does to a crew: links unwrap, and the third stroke after a break at
the latest heals the ring (R179, R180). -/
def crewStroke (k : Nat) (s : State) : State :=
  if s.lowestShared ≠ some k then s
  else
    let s1 := if s.crew.unwrap.isEmpty && s.crew.mend.isEmpty then s
      else forgetBreaks (primaryPath (s.crew.unwrap.foldl (fun a n => unwrapLink n a) (s.modCrew ({ · with unwrap := [] }))))
    if s.role = roleLead ∧ s.on fCox_CREW_STAT_HEALING ∧ s.on fCox_CREW_STAT_TOPO then
      let s3 := s1.modCrew fun c => { c with strokes := c.strokes + 1 }
      if 3 ≤ s3.crew.strokes then healed s3 else s3
    else s1

/-- MARK_MISS: a member's shared stroke fired with no marker in time (R171). -/
def markMiss (k : Nat) (was : Gen) (s : State) : State :=
  if s.follows k ∧ !was.marked then
    (if was.late then s else s.addSat fCox_CREW_CNT_MARK_MISS).setFld fCox_CREW_STAT_HOLDOVER 1
  else s

/-! ## Crew frames (R163, R164, R166) -/

/-- A received frame as this device passes it on. -/
def relayed (f : CoxBytes) : CrewFrame :=
  { typ := field f 0 1, flags := field f 1 1, src := field f 2 2, dst := field f 4 2, seq := field f 6 2,
    payload := (f.drop 10).take (field f 8 2) }

/-- The 180 ns of a relay and the link's delay, in 1/16 ns (R166, R175). -/
def hopTime (n : Nat) (s : State) : Int := ((2880 + s.fld (fCx_HOP_DELAY n) : Nat) : Int)

/-- ENUM reaches a member (R174): downstream it takes its ID, reports its path time and passes ENUM on, or returns it
from the end of a chain; upstream it learns N. The payload's numbers are the hops and the path time so far, and the time that
sleeping directions add to the check of R175. -/
def enumMember (n : Nat) (f : CoxBytes) (s : State) : State :=
  let p := (f.drop 10).take (field f 8 2)
  let hops := Config.crewField tEnum 0 p
  let t := Config.crewField tEnum 1 p + hopTime n s
  let sleeps := Config.crewField tEnum 2 p
  if n = 0 then
    let id := (hops + 1).toNat
    let s1 := ((s.setFld fCox_CREW_STAT_MEMBER_ID id).setSFld fCox_CREW_PATH_PATH_T t).resultReady rCox_CREW_PATH
    let out (m : Nat) (up : Bool) (z : Int) (a : State) : State :=
      sendFrame m { typ := tEnum, flags := if up then 1 else 0, src := field f 2 2, dst := field f 4 2, seq := field f 6 2,
                    payload := (Config.crewPayload tEnum [hops + 1, t, z]).take 256 } a
    let s2 := if s.on fCox_CREW_STAT_TOPO ∨ s.cxRx 1 = cxRxUp then out 1 false (sleeps + s.sleepTime 1) s1
      else out 0 true sleeps (s1.setFld fCox_CREW_SIZE_SIZE (id + 1))
    sendControl 0 tHop 0 true [id, t] s2
  else sendFrame 0 (relayed f) (s.setFld fCox_CREW_SIZE_SIZE (hops + 1).toNat)

/-- The lead of a formed crew tells every member its definitions, and in a ring N, by an ENUM upstream (R172, R174) (DESIGN
CHOICE, log entry 94). -/
def tellCrew (hops t : Int) (s : State) : State :=
  let s1 := if s.on fCox_CREW_STAT_TOPO then sendControl 0 tEnum 0xFFFF true [hops, t, 0] s else s
  (List.range 4).foldl (fun a k =>
    match ((s.gen k).new.map (·.d)).orElse fun _ => (s.gen k).d with
    | some d => if s.shared k then sendDef k d a else a
    | none => a) s1

/-- ENUM returns to the lead, on CX0 in a ring and on CX1 in a chain (R174, R175): the crew forms, or its paths are too
long. -/
def enumLead (n : Nat) (f : CoxBytes) (s : State) : State :=
  let ring := s.on fCox_CREW_STAT_TOPO
  if s.crew.join.isNone ∨ s.crew.formed ∨ n ≠ (if ring then 0 else 1) then s
  else
    let p := (f.drop 10).take (field f 8 2)
    let hops := Config.crewField tEnum 0 p
    let t := Config.crewField tEnum 1 p + (if ring then hopTime n s else 0)
    let total := t + Config.crewField tEnum 2 p
    let lead : Int := ((s.fld fCox_CREW_LEAD_LEAD_US * 16000 : Nat) : Int)
    if (ring ∧ lead < total) ∨ (!ring ∧ lead - 1600 < total) then joinDone eRange (crewClear roleNone s)
    else
      let s1 := (s.setFld fCox_CREW_SIZE_SIZE (hops + 1).toNat).modCrew ({ · with formed := true })
      let s2 := if ring then s1.setSFld fCox_CREW_PATH_PATH_T t else s1
      joinDone eOk (raise_ fCox_CREW_EVENT_FORMED (tellCrew hops t s2))

/-- The place, offset, instant and count of a member's next stroke under a definition that it copies: the one that it has
scheduled, or a marker's that waits, or the first of the definition (R171, R172, R194). -/
def Gen.underDef (g : Gen) (d : GenDef) (now : Int) : Int × Int × Int × Int :=
  let aligned (t : Int) (count : Nat) : Int × Int × Int × Int := let (j, ofs) := d.align t; (j, ofs, t, count)
  if g.running then aligned g.at_ g.nextCount
  else match g.bare with
    | some (c, t) => aligned t c
    | none => let j := d.firstAt now; (j, 0, d.instant 0 j, j)

/-- A DEF frame: the member copies the definition (R172, R577), which its next stroke shows, or the stop; its numbers are k, NUM,
DEN, PHASE and STEP_MODE. -/
def takeDef (f : CoxBytes) (s : State) : State :=
  let p := (f.drop 10).take (field f 8 2)
  let x (i : Nat) : Int := Config.crewField tDef i p
  let k := (x 0).toNat % 4
  let d : GenDef := ⟨(x 1).toNat, (x 2).toNat, x 3, 2, (x 4).toNat % 2⟩
  let g := s.gen k
  if d.num = 0 ∨ d.den = 0 then (if g.running then s.setGen k { g with stop := true } else s)
  else
    let (j, ofs, t, count) := g.underDef d s.tb
    let s1 := s.setGen k { g with d := some d, j := j, ofs := ofs, m := count - j, resid := 0, bare := none, stop := false, at_ := t
                                  fresh := true, restart := g.restart || !(g.running || g.bareRun) }
    s1.setFld fCox_CREW_STAT_SHARE (Nat.lor (s1.fld fCox_CREW_STAT_SHARE) (2 ^ k))

/-- A RELAY frame for this device is delivered to RX_QP with the stamp of its receipt, or discarded and counted (R190, R359, R381). -/
def takeRelay (n : Nat) (f : CoxBytes) (s : State) : State :=
  if !s.crew.relayEn then s
  else
    let head := tbBytes (s.stamp s.tb) ++ leBytes 2 (field f 2 2)
    match deliverBuf s.crew.rxQp head ((f.drop 10).take (field f 8 2)) (8 + n) 6 s with
    | some a => a.incWrap fCox_CREW_RLY_RX_OK
    | none => s.addSat fCox_CREW_RLY_RX_DROP

/-- The member and link that a BREAK or an UNWRAP frame names (R178-R180). -/
def placeOf (typ : Nat) (f : CoxBytes) : Nat × Nat :=
  let p := (f.drop 10).take (field f 8 2)
  ((Config.crewField typ 0 p).toNat, (Config.crewField typ 1 p).toNat)

/-- A member learns of the breaks of others from the BREAK frames that it relays (R178, R180) (DESIGN CHOICE, log entry 95). -/
def hearBreak (f : CoxBytes) (s : State) : State :=
  if s.role = roleMember ∧ field f 0 1 = tBreak then judgeBreaks (addBreak (placeOf tBreak f) s) else s

/-- What a member, the lead included, does on a frame addressed to it (R166-R180) (DESIGN CHOICE, log entry 29). -/
def actOn (n : Nat) (f : CoxBytes) (s : State) : State :=
  let t := field f 0 1
  if t = tHop then (if s.role = roleLead then
      (if s.on fCox_CREW_STAT_TOPO then s else s.setSFld fCox_CREW_PATH_PATH_T
        (Config.crewField tHop 1 ((f.drop 10).take (field f 8 2)))).resultReady rCox_CREW_PATH else s)
  else if t = tDef then (if s.role = roleMember then takeDef f s else s)
  else if t = tBreak then (if s.role = roleLead then noteBreak (placeOf tBreak f) s else s)
  else if t = tHealed then (if s.role = roleMember then s.setFld fCox_CREW_STAT_HEALING 0 else s)
  else if t = tUnwrap then (if s.role = roleMember then queueUnwrap (placeOf tUnwrap f) s else s)
  else if t = tDissolve then (if s.role = roleMember then becomePassThrough (joinDone eAbort s) else s)
  else if t = tRelay then takeRelay n f s
  else s

/-- CREW_FRAME_RX: a frame is checked and then acted on, relayed, delivered or removed; `err`: it contains a code error (R160,
R163, R164, R166). SLEEP and LINK_FAULT act at the link that they come on and are never relayed (DESIGN CHOICE, log entry 92). -/
def execCrewFrameRx (n : Nat) (rx : CrewRx) (s : State) : Host.Outcome State Fault Refusal :=
  .next (
    if !s.cxHears n then s
    else if rx.err ∨ rx.bytes.length < 12 ∨ rx.bytes.length ≠ 12 + field rx.bytes 8 2 ∨ 256 < field rx.bytes 8 2
        ∨ beField rx.bytes (rx.bytes.length - 2) 2 ≠ crc16 (rx.bytes.take (rx.bytes.length - 2)) then s.addSat (fCx_CNT_CRC_ERR n)
    else
      let t := field rx.bytes 0 1
      let me := s.fld fCox_CREW_STAT_MEMBER_ID
      if t = tSleep then s.setCxRx n cxRxSleep
      else if t = tFault then markFaulted n (raise_ (fCx_EVENT_FAULT_RX n) s)
      else if s.role = roleNone then s
      else if t = tEnum then
        (if s.role = roleMember then enumMember n rx.bytes s
         else if s.role = roleLead then enumLead n rx.bytes s
         else sendFrame (1 - n) (relayed rx.bytes) s)
      else if s.inCrew ∧ field rx.bytes 2 2 = me then s
      else
        let mine := s.inCrew && (field rx.bytes 4 2 == me || field rx.bytes 4 2 == 0xFFFF)
        let s1 := hearBreak rx.bytes (if s.inCrew ∧ field rx.bytes 4 2 = me then s else sendFrame (1 - n) (relayed rx.bytes) s)
        if mine then actOn n rx.bytes (wake 3 s1) else s1)

end Sys2Proof.Machine
end

