-- ==== Sys2Proof/Machine/Egress.lean ====
section
/-! DEFINITION. Egress stream ports and express rules: opening, closing, takes and rewinds, the choice at each stroke, the
registers (R240-R255, R260, R263, R267, R384, R576). -/

namespace Sys2Proof.Machine

/-! ## Packing (R257) and peak rate (R260) -/

/-- The segments of a packet: row, byte offset, length; and where the next packet begins. `step` is 1 for a progressive
frame and 2 within a field. -/
def packSegs (f : Format) (step : Nat) : Nat → Nat → Nat → Nat → List (Nat × Nat × Nat) × Nat × Nat
  | 0, _, row, ofs => ([], row, ofs)
  | n + 1, room, row, ofs =>
    if f.height ≤ row ∨ room = 0 then ([], row, ofs)
    else
      let take := min room (f.rowBytes - ofs)
      let done := ofs + take = f.rowBytes
      let (l, r, o) := packSegs f step n (room - take) (if done then row + step else row) (if done then 0 else ofs + take)
      ((row, ofs, take) :: l, r, o)

/-- Whole pgroups that PAYLOAD holds, in bytes. -/
def payloadCap (f : Format) (payload : Nat) : Nat := payload / f.pg.1 * f.pg.1

/-- The packets of a frame or field from a row on: their segments. -/
def packAll (f : Format) (cap step : Nat) : Nat → Nat → Nat → List (List (Nat × Nat × Nat))
  | 0, _, _ => []
  | n + 1, row, ofs =>
    if f.height ≤ row then []
    else
      let (l, r, o) := packSegs f step 3 cap row ofs
      l :: packAll f cap step n r o

/-- The fields of a frame, and the row step within one. -/
def Format.fields (f : Format) : Nat := if f.scan = 0 then 1 else 2

/-- The packets of field `x`. -/
def Format.plan (f : Format) (payload x : Nat) : List (List (Nat × Nat × Nat)) :=
  packAll f (payloadCap f payload) f.fields (f.height * (f.rowBytes + 1)) x 0

/-- The rows of field `x`. -/
def Format.fieldRows (f : Format) (x : Nat) : Nat := if f.scan = 0 then f.height else (f.height + 1 - x) / 2

/-- The bytes of a packet's headers and FCS around its RTP payload, and those of its media payload header. -/
def wireHeaders (tagged : Bool) (family : Nat) : Nat := 14 + (if tagged then 4 else 0) + (if family = 4 then 20 else 40) + 8 + 12 + 4

/-- Bytes of a stored audio sample on the wire. -/
def Format.sampleBytes (f : Format) : Nat := if f.ess = 2 then 4 else if f.l16 = 1 then 2 else 3

/-- The bytes of a port's largest packet (R260). -/
def Esp.largest (p : Esp) : Nat :=
  let h := wireHeaders (decide (32768 ≤ p.vlan)) p.family
  let f := p.fmt
  if f.ess = 0 then
    h + (((List.range f.fields).flatMap (f.plan p.payload)).map fun l =>
      2 + 6 * l.length + (l.map (·.2.2)).sum).foldl max 0
  else if f.ess = 3 then h + p.payload
  else if f.ess = 4 then h + 8 + 1376
  else h + f.spp * f.chans * f.sampleBytes

/-- The period of generator `k`, in 2^-16 ns (R195): of its definition, or of the one that is to come. -/
def State.strokePeriod (s : State) (k : Nat) : Option Rat :=
  let g := s.gen k
  ((g.d.orElse fun _ => g.new.map (·.d))).map fun d => (d.den * secU : Nat) / (d.num : Rat)

/-- TRO and TRS of a frame or field whose interval is `iv` (R256, R258), in 2^-16 ns (DEDUCED, log entry 45). -/
def Esp.spacing (p : Esp) (iv : Rat) (x : Nat) : Rat × Rat :=
  let f := p.fmt
  if f.ess = 0 then
    let n := (f.plan p.payload x).length
    let lines : Nat := p.total / f.fields
    (iv * p.tro / lines, if p.pacing = 1 then iv / n else iv * f.fieldRows x / lines / n)
  else if f.ess = 3 then (((p.ancOfs * 1000 * nsU : Nat) : Rat), ((1000 * nsU : Nat) : Rat))
  else (0, iv / f.sdiPackets)

/-- The peak rate of a port in bit/s (R260) (DEDUCED, log entry 45). -/
def State.peak (s : State) (p : Esp) : Rat :=
  let bits : Rat := (p.largest + 20) * 8
  if isAudio p.fmt.ess then bits * (if p.fmt.pkts = 8 then 8000 else 1000)
  else match s.strokePeriod p.stk with
    | some iv =>
      let trs := (p.spacing (iv / p.fmt.fields) 0).2
      if trs = 0 then 0 else bits * secU / trs
    | none => 0

/-- Admission (R260): the open ports on the EP and the new one stay within 95 % of its rate. -/
def State.admits (s : State) (port : Nat) (p : Esp) : Bool :=
  let sum := (s.loom.esps.filter (fun e => e.1 != port && e.2.state != 0 && e.2.ep == p.ep)).foldl
    (fun a e => a + s.peak e.2) (s.peak p)
  decide (sum * 100 ≤ ((s.portRate p.ep * 1000000000 * 95 : Nat) : Rat))

/-! ## ESP_OPEN (R240-R242, R576) -/

/-- A reserved field of the block is not 0 (R576). -/
def espReserved (b : List Byte) : Bool :=
  let ess := field b 1 1
  let mode := field b 2 1
  decide (16 ≤ mode) || mode % 4 == 3 || mode / 4 % 4 == 3 || decide (8 ≤ field b 3 1) || decide (4 ≤ field b 8 1)
    || decide (128 ≤ field b 17 1) || decide (64 ≤ field b 37 1) || field b 39 1 != 0 || (b.drop 84).any (· != 0)
    || (ess != 0 && ess != 3 && field b 10 2 != 0) || (ess != 0 && field b 12 4 != 0)
    || (mode % 4 != 2 && field b 16 1 != 0) || wordReserved ess (field b 20 4) || (ess != 3 && field b 80 4 != 0)
    || (field b 36 1 == 4 && (field b 44 12 != 0 || field b 60 12 != 0))

/-- The port that a block describes. -/
def espOf (owner bolt : Nat) (b : List Byte) : Esp :=
  let mode := field b 2 1
  let n := if field b 36 1 = 4 then 4 else 16
  { state := 1, owner := owner, bolt := bolt, fmt := formatOf (field b 1 1) (field b 20 4) 0 0
    pacing := mode % 4, loss := mode / 4 % 4, notices := field b 3 1, delay := field b 4 4, stk := field b 8 1 % 4
    ep := field b 9 1, payload := field b 10 2, total := field b 12 2, tro := field b 14 2, burst := field b 16 1
    pt := field b 17 1, vlan := field b 18 2, dmac := (b.drop 24).take 6, smac := (b.drop 30).take 6
    family := field b 36 1, dscp := field b 37 1, ttl := field b 38 1, dst := (b.drop 40).take n, src := (b.drop 56).take n
    dport := field b 72 2, sport := field b 74 2, ssrc := field b 76 4, ancOfs := field b 80 4 }

/-- A value lies outside its range, or the packet is too long for the MAC (R241). -/
def espRange (p : Esp) (s : State) : Bool :=
  let ess := p.fmt.ess
  decide (2047 < p.bolt) || decide (4 < ess) || decide (4000000 < p.delay) || decide (7 < p.ep) || !p.fmt.wordOk
    || ((ess == 0 || ess == 3) && (decide (p.payload < 256 ∨ 8960 < p.payload) ||
        decide (s.fld (fLn_MAC_CFG_MAX_FRAME p.ep) <
          p.payload + wireHeaders (decide (32768 ≤ p.vlan)) p.family + (if ess = 0 then 20 else 0))))
    || (ess == 0 && decide (p.total < 1 ∨ 8191 < p.total ∨ p.total < p.tro + p.fmt.height))
    || (p.pacing == 2 && decide (p.burst < 1 ∨ 32 < p.burst)) || (p.family != 4 && p.family != 6) || p.ttl == 0
    || decide (1000 < p.ancOfs)

/-- A source's format matches the port's (R242). -/
def fmtMatch (p f : Format) : Bool :=
  p.ess == f.ess &&
  (if p.ess = 0 then p.width == f.width && p.height == f.height && p.sampling == f.sampling && p.depth == f.depth && p.scan == f.scan
   else if isAudio p.ess then p.chans == f.chans && p.l16 == f.l16
   else if p.ess = 4 then p.sdi == f.sdi else true)

/-- The bolt is no source for the port: not bound, never written, or of another kind or format (R241, R242). -/
def sourceBad (p : Esp) (b : Bolt) : Bool :=
  !b.bound || b.newest.isNone || b.kind != (if isAudio p.fmt.ess then 1 else 0) || !b.fmt.any (fmtMatch p.fmt)

/-- ESP_DELAY + REWIND + 2 × P_src fits the bolt's beam window (R241, R253). -/
def windowOk (p : Esp) (b : Bolt) (rewind : Nat) : Bool :=
  b.fmt.any fun f => f.covers b.slots ((p.delay + rewind) * 1000) 2

/-- The bolt lies in a bay that another function owns, and the requester is a VF (R241). -/
def foreignBay (fn : Nat) (b : Bolt) (s : State) : Bool := fn != 0 && (s.bay b.bay).any (·.owner != fn)

/-- The conditions of ESP_OPEN once the block has been read (R241) (DEDUCED, log entry 43). -/
def espBlockChecks (port : Nat) (p : Esp) (b : List Byte) (s : State) : List (Bool × Nat) :=
  let t := s.bolt p.bolt
  [(!(s.gen p.stk).defined, eState),
   (field b 0 1 != 1, eVersion),
   (espReserved b, eDesc),
   (espRange p s, eRange),
   (s.mode p.ep == 0 || s.fld (fLn_MODE_STAT_PORT_BASE p.ep) != p.ep, eState),
   (sourceBad p t, eState),
   (!windowOk p t 0, eRange),
   (foreignBay p.owner t s, ePriv),
   (s.espOpen port, eBusy),
   (!s.admits port p, eNoRes)]

/-- EGR_STAT follows the ports and rules (R267). -/
def showEgress (s : State) : State :=
  (s.setFld fLoom_EGR_STAT_PORTS (s.loom.esps.filter (fun e => e.2.state != 0)).length).setFld fLoom_EGR_STAT_RULES
    s.loom.rules.length

/-- ESP_OPEN (R240-R244); `none` is a block that cannot be read (DEDUCED, log entry 43). -/
def execEspOpen (h : Hdr) (port bolt : Nat) (blk : Option (List Byte)) (s : State) : Host.Outcome State Fault Refusal :=
  let b := padTo 128 (blk.getD [])
  let p := espOf (s.ownerOf h.qp) bolt b
  .next (command h (.espOpen h port bolt blk) (s.gate h false loomTarget ++ [(blk.isNone, eBus)] ++ espBlockChecks port p b s)
    (fun s => complete h eOk [] (showEgress
      (s.tick.setEsp port { p with seq := Config.espSeq s.free % 2 ^ 32, frames := Config.espFrames s.free % 256 }))) s)

/-! ## Closing (R243) -/

/-- A pending command of a port completes with E_ABORT. -/
def abortEspCmd (c : Option EspCmd) (s : State) : State :=
  match c with | some c => complete c.hdr eAbort [] s | none => s

/-- The port stops: no later packet of it is sent. Its counts stay (DEDUCED, log entry 45). -/
def espStop (port : Nat) (p : Esp) (s : State) : State :=
  let s1 := s.setEsp port { p with state := 0, take := none, rew := none, out := [], sw := [], k := none }
  showEgress (s1.modLane p.ep fun l => { l with
    media := l.media.filter fun f => match f.src with | .media q _ _ _ => q != port | _ => true })

/-- ESP_CLOSE (R243, R378): pending takes and rewinds abort, then the port stops; it completes in the step that accepts it (DEDUCED, log
entry 136). -/
def execEspClose (h : Hdr) (port : Nat) (s : State) : Host.Outcome State Fault Refusal :=
  .next (command h (.espClose h port) (s.gate h false loomTarget ++
      [(!s.espOpen port, eState), (((s.esp port).map (·.owner)) != some (s.ownerOf h.qp), ePriv)])
    (fun s => match s.esp port with
      | some p => complete h eOk [] (espStop port p (abortEspCmd p.rew (abortEspCmd p.take s)))
      | none => s) s)

/-- FLR closes the ports of a function without completions (R243). -/
def flrEgress (fn : Nat) (s : State) : State :=
  s.loom.esps.foldl (fun a e => if e.2.state ≠ 0 ∧ e.2.owner = fn then espStop e.1 e.2 a else a) s

/-! ## Takes and rewinds (R252-R254, R378) -/

/-- The two last rows of R253 before acceptance: a command of its kind pends without REPLACE; stroke c's instant is too
near or past (R383). -/
def cmdTiming (h : Hdr) (p : Esp) (c : Nat) (pend : Option EspCmd) (s : State) : List (Bool × Nat) :=
  let far := match s.lastCount p.stk with
    | some n => let d := (c + 2 ^ 32 - n) % 2 ^ 32; decide (65535 < d ∧ d < 2 ^ 31)
    | none => false
  let late := match s.instantOf p.stk c, s.lastCount p.stk with
    | some t, _ => decide (t < (s.tb : Int) + 10000 * nsU)
    | none, some n => decide (2 ^ 31 ≤ (c + 2 ^ 32 - n) % 2 ^ 32)
    | none, none => false
  [(c != 0 && far, eRange), (pend.isSome && !h.replace, eBusy), (c != 0 && late, eTimeout)]

/-- The conditions that name a port (R378). -/
def espNamed (h : Hdr) (port : Nat) (s : State) : List (Bool × Nat) :=
  [(!s.espOpen port, eState), (((s.esp port).map (·.owner)) != some (s.ownerOf h.qp), ePriv)]

/-- ESP_TAKE (R252-R254) (DEDUCED, log entry 43). -/
def execEspTake (h : Hdr) (port bolt c : Nat) (s : State) : Host.Outcome State Fault Refusal :=
  .next (command h (.espTake h port bolt c) (s.gate h false loomTarget ++ espNamed h port s ++
      (match s.esp port with
       | none => []
       | some p =>
         let b := s.bolt bolt
         [(decide (2047 < bolt), eRange), (sourceBad p b, eState), (!windowOk p b 0, eRange),
          (foreignBay p.owner b s, ePriv), (!s.admits port p, eNoRes), (!windowOk p b p.rewind, eRange)] ++
         cmdTiming h p c p.take s))
    (fun s => match s.esp port with
      | some p => (abortEspCmd p.take s).setEsp port { p with take := some ⟨h, bolt, c, s.tb⟩ }
      | none => s) s)

/-- ESP_REWIND (R252-R254). -/
def execEspRewind (h : Hdr) (port rew c : Nat) (s : State) : Host.Outcome State Fault Refusal :=
  .next (command h (.espRewind h port rew c) (s.gate h false loomTarget ++ espNamed h port s ++
      (match s.esp port with
       | none => []
       | some p => [(decide (4000000 < rew), eRange), (!windowOk p (s.bolt p.bolt) rew, eRange)] ++ cmdTiming h p c p.rew s))
    (fun s => match s.esp port with
      | some p => (abortEspCmd p.rew s).setEsp port { p with rew := some ⟨h, rew, c, s.tb⟩ }
      | none => s) s)

/-! ## The choice at a stroke (R244-R249, R251-R255, R384) -/

/-- LOOM events of a port, attributed to its owner (R520, R521); media. -/
def countEsp (src port owner n : Nat) (s : State) : State := if n = 0 then s else countLoom src port 1 1 owner 4 n s

/-- A pending command takes effect at this stroke (R254, R255). -/
def cmdDue (i : StrokeInfo) (c : EspCmd) : Bool :=
  if c.c = 0 then i.newDef || decide ((c.acc : Int) + 10000 * nsU < i.at_)
  else !i.newDef && (c.c == i.count || i.passed.any fun r =>
    decide ((c.c + 2 ^ 32 - r.1) % 2 ^ 32 ≤ (r.2 + 2 ^ 32 - r.1) % 2 ^ 32))

/-- A pending command with c ≠ 0 is aborted when a new definition takes effect (R255). -/
def cmdVoid (i : StrokeInfo) (c : EspCmd) : Bool := i.newDef && c.c != 0

/-- The commands of the port after this stroke: those aborted complete, those due are returned (R254, R255). -/
def dueCmds (i : StrokeInfo) (port : Nat) (p : Esp) (s : State) : Option EspCmd × Option EspCmd × Esp × State :=
  let pick (c : Option EspCmd) : Option EspCmd := c.bind fun c => if cmdDue i c then some c else none
  let void (c : Option EspCmd) : Option EspCmd := c.bind fun c => if cmdVoid i c then some c else none
  let keep (c : Option EspCmd) : Option EspCmd := c.bind fun c => if cmdDue i c || cmdVoid i c then none else some c
  let p1 := { p with take := keep p.take, rew := keep p.rew }
  (pick p.take, pick p.rew, p1, abortEspCmd (void p.rew) (abortEspCmd (void p.take) (s.setEsp port p1)))

/-- The window check is repeated at the stroke: a command that fails it completes with E_RANGE, and the other is then
checked alone (R384). -/
def recheck (p : Esp) (take rew : Option EspCmd) (s : State) : Option EspCmd × Option EspCmd × State :=
  let ok (t r : Option EspCmd) : Bool :=
    windowOk p (s.bolt (t.elim p.bolt (·.v))) (r.elim p.rewind (·.v))
  let fail (c : Option EspCmd) (s : State) : State := match c with | some c => complete c.hdr eRange [] s | none => s
  if ok take rew then (take, rew, s)
  else if take.isSome && !ok take none then
    let s1 := fail take s
    if rew.isSome && !ok none rew then (none, none, fail rew s1) else (none, rew, s1)
  else (take, none, fail rew s)

/-- The takes and rewinds due take effect and complete with the stroke (R252, R254, R374); the result tells whether one
did, and holds the port. -/
def applyCmds (i : StrokeInfo) (port : Nat) (p : Esp) (s : State) : Bool × Esp × State :=
  let (t0, r0, p1, s1) := dueCmds i port p s
  let (t, r, s2) := recheck p1 t0 r0 s1
  let p2 := { p1 with bolt := t.elim p1.bolt (·.v), rewind := r.elim p1.rewind (·.v) }
  let did := t.isSome || r.isSome
  let p3 := if did && isAudio p.fmt.ess then { p2 with sw := (i.at_, p1.bolt, p1.rewind) :: p2.sw } else p2
  let done (c : Option EspCmd) (s : State) : State :=
    match c with | some c => complete c.hdr eOk (strokeResult i.count i.at_) s | none => s
  (did, p3, done r (done t (s2.setEsp port p3)))

/-- The source is present (R245). -/
def State.present (s : State) (b : Nat) : Bool :=
  (s.bolt b).bound && (match (s.bolt b).writer with
    | some (.isp q) => ((s.isp q).map (·.state)) == some 2
    | some (.stream sh _) => s.fld (fSh_STAT_STATE sh) == 2
    | none => false)

/-- The header of slot(j) carries index j, and is COMPLETE (R247, R278). -/
def slotHas (owner bolt j : Nat) (s : State) : Bool × Bool × State :=
  let b := s.bolt bolt
  let (h, s1) := readHdr (whoEgress owner) b j s
  match h, b.fmt with
  | some x, some f => (b.indexOf f j x.ts == j, x.flags.testBit 0, s1)
  | _, _ => (false, false, s1)

/-- The newest of at most `n` complete frames from index `j` down, not below `floor` (R247). -/
def pickFrame (owner bolt : Nat) (low : Option Nat) : Nat → Int → State → Option Nat × State
  | 0, _, s => (none, s)
  | n + 1, j, s =>
    if j < 0 ∨ low.any (fun l => decide (j ≤ (l : Int))) then (none, s)
    else
      let (i, c, s1) := slotHas owner bolt j.toNat s
      if i && c then (some j.toNat, s1) else pickFrame owner bolt low n (j - 1) s1

/-- A move of a port's state with its notices (R245). -/
def espMove (port st : Nat) (s : State) : State :=
  match s.esp port with
  | none => s
  | some p =>
    let s1 := s.setEsp port { p with state := st }
    if st = 3 ∧ p.state ≠ 3 then portNotice 1 0 port p.owner p.notices s1
    else if st = 2 ∧ p.state = 3 then portNotice 1 1 port p.owner p.notices s1 else s1

/-- I′ of a stroke (R256). -/
def strokeIval (i : StrokeInfo) (s : State) : Rat :=
  match s.strokePeriod i.k with
  | some p => min (i.interval : Rat) p
  | none => (i.interval : Rat)

/-- A frame starts (R256). -/
def sendShown (i : StrokeInfo) (port : Nat) (w : Shown) (s : State) : State :=
  match s.esp port with
  | none => s
  | some p =>
    let fr : EspFrame := { what := w, at_ := i.at_, ival := strokeIval i s }
    countEsp 0x10 port p.owner 1 (s.setEsp port { p with out := p.out ++ [fr] })

/-- The loss action (R249) (DEDUCED, log entry 43). -/
def lossAction (i : StrokeInfo) (port : Nat) (p : Esp) (intact : Bool) (s : State) : State :=
  if p.loss = 0 ∧ intact then
    match p.last with | some (j, b) => sendShown i port (.frame b j) s | none => s
  else if p.loss ≠ 2 ∧ p.fmt.ess ≠ 3 ∧ p.fmt.ess ≠ 4 then sendShown i port .black s
  else s

/-- jm of R247: the newest eligible index. -/
def newestIdx (p : Esp) (f : Format) (t : Int) : Int :=
  (t - ((p.delay + p.rewind) * 1000 * nsU : Nat)) * f.num / ((f.den * secU : Nat) : Int)

/-- The decision of a frame-based port (R247); `reset` is its flag. -/
def decideFrame (i : StrokeInfo) (port : Nat) (reset : Bool) (s : State) : State :=
  match s.esp port with
  | none => s
  | some p =>
    let fresh := reset || p.last.isNone
    let low := if fresh then none else p.last.map (·.1)
    let (pick, s1) := match (s.bolt p.bolt).fmt with
      | some f => pickFrame p.owner p.bolt low 4 (newestIdx p f i.at_) s
      | none => (none, s)
    match pick with
    | some j =>
      let d := if fresh then 0 else j - (p.last.map (·.1)).getD 0 - 1
      let s2 := countEsp 0x14 port p.owner d
        (s1.setEsp port { p with drop := min 65535 (p.drop + d), last := some (j, p.bolt) })
      espMove port 2 (sendShown i port (.frame p.bolt j) s2)
    | none =>
      let present := s1.present p.bolt
      let (intact, s2) := match p.last with
        | some (j, b) => let (x, _, y) := slotHas p.owner b j s1; (x, y)
        | none => (false, s1)
      if !fresh && present && intact then
        match p.last with
        | some (j, b) =>
          let s3 := countEsp 0x13 port p.owner 1 (s2.setEsp port { p with rept := min 65535 (p.rept + 1) })
          espMove port 2 (sendShown i port (.frame b j) s3)
        | none => s2
      else if p.last.isNone && present then espMove port 1 s2
      else
        let s3 := s2.setEsp port { p with lost := min 65535 (p.lost + 1) }
        espMove port 3 (lossAction i port p intact s3)

/-- The source packet slot of an audio sample is present in the bolt (R232, R262): sample number `x`. -/
def sampleThere (owner bolt x : Nat) (s : State) : Bool × State :=
  let b := s.bolt bolt
  match b.fmt with
  | none => (false, s)
  | some f =>
    let (h, s1) := readHdr (whoEgress owner) b (x / 48) s
    (h.any fun v => b.indexOf f (x / 48) v.ts == x / 48 && v.mask.testBit (x % 48 / f.spp), s1)

/-- The source sample of an output instant: the one at or before t − ESP_DELAY − REWIND (R261) (DEDUCED, log entry 40). -/
def sourceSample (t : Int) (delay rewind : Nat) : Int := (t - ((delay + rewind) * 1000 * nsU : Nat)) * 48000 / ((secU : Nat) : Int)

/-- An audio port at a stroke: its state, and LOSS while its source is absent (R244, R262). -/
def decideAudio (i : StrokeInfo) (port : Nat) (s : State) : State :=
  match s.esp port with
  | none => s
  | some p =>
    let x := sourceSample i.at_ p.delay p.rewind
    let (has, s1) := if x < 0 then (false, s) else sampleThere p.owner p.bolt x.toNat s
    if has then
      espMove port 2 (s1.setEsp port { p with last := some (x.toNat / 48, p.bolt) })
    else if s1.present p.bolt then espMove port (if p.last.isNone then 1 else 2) s1
    else espMove port 3 (s1.setEsp port { p with lost := min 65535 (p.lost + 1) })

/-- ESP_STROKE_DECISION: a port at a stroke of its generator. -/
def espStroke (i : StrokeInfo) (port : Nat) (s : State) : State :=
  match s.esp port with
  | none => s
  | some p =>
    if p.state = 0 ∨ p.stk ≠ i.k then s
    else
      let (did, _, s1) := applyCmds i port p s
      if isAudio p.fmt.ess then decideAudio i port s1 else decideFrame i port (did || i.started) s1

/-- Every port tied to the generator decides. -/
def espStrokes (i : StrokeInfo) (s : State) : State := s.loom.esps.foldl (fun a e => espStroke i e.1 a) s

/-! ## Express rules (R263) -/

/-- A record sets a reserved bit (R263) (DEDUCED, log entry 41). -/
def ruleReserved (r : List Byte) : Bool :=
  decide (128 ≤ field r 0 1) || field r 5 1 != 0 || field r 18 6 != 0 || field r 7 1 / 16 % 8 != 0 || decide (128 ≤ field r 17 1)

/-- The record of a rule breaks R263 in another way (DEDUCED, log entry 41). -/
def ruleBad (r : List Byte) : Bool :=
  let fl := field r 0 1
  let fam := field r 4 1
  fl / 32 % 4 == 3 || field r 1 1 == 0
    || (fl.testBit 4 && fam != 4 && fam != 6)
    || decide ((if fl.testBit 4 ∧ fam = 4 then 32 else 128) < field r 3 1)

/-- The rule of a record. -/
def ruleOf (r : List Byte) : ExpRule :=
  let fl := field r 0 1
  { inMask := field r 1 1, outEp := field r 2 1, act := fl / 32 % 4
    vlan := if fl.testBit 1 then some (if 32768 ≤ field r 6 2 then 32768 + field r 6 2 % 4096 else 0) else none
    etype := if fl.testBit 2 then some (field r 8 2) else none
    dmac := if fl.testBit 3 then some ((r.drop 10).take 6) else none
    dip := if fl.testBit 4 then some (field r 4 1, field r 3 1, (r.drop 24).take 16) else none
    repl := field r 16 2 }

/-- EXP_RULE (R263, R378): a record with VALID = 0 removes the rule; `none` is a record that cannot be read. -/
def execExpRule (h : Hdr) (rule : Nat) (rec_ : Option (List Byte)) (s : State) : Host.Outcome State Fault Refusal :=
  let r := padTo 40 (rec_.getD [])
  let valid := (field r 0 1).testBit 0
  let ep := field r 2 1
  .next (command h (.expRule h rule rec_) (s.gate h true loomTarget ++
      [(rec_.isNone, eBus), (ruleReserved r || (valid && ruleBad r), eRange),
       (valid && (decide (7 < ep) || s.mode ep == 0 || s.fld (fLn_MODE_STAT_PORT_BASE ep) != ep), eState)])
    (fun s => complete h eOk [] (showEgress (s.modLoom fun m => { m with
      rules := if valid then Tab.set m.rules rule (ruleOf r) else Tab.erase m.rules rule }))) s)

/-! ## Registers (R267) -/

/-- A write of EGR_CTL: CNT_CLR sets every EXP_DROPn and every rule count to 0. -/
def writeEgrCtl (v : W32) (s : State) : State :=
  match s.unavailable rLoom_EGR_CTL with
  | some st => rejectReg rLoom_EGR_CTL st s
  | none => if v.getLsbD 0 then
      ((List.range 8).foldl (fun a n => a.setReg (rLoom_EXP_DROP n) 0) s).modLoom ({ · with expCnt := [] })
    else s

/-- EGR_CNT_CLR (R267). -/
def execEgrCntClr (v : W32) (s : State) : Host.Outcome State Fault Refusal := .next (hostAccess (writeEgrCtl v) s)

/-- A write of ESP_SEL: a snapshot of the port is requested. -/
def writeEspSel (v : W32) (s : State) : State :=
  match s.unavailable rLoom_ESP_SEL with
  | some st => rejectReg rLoom_ESP_SEL st s
  | none => ((s.setFld fLoom_ESP_SEL_PORT (bits v 9 0)).modLoom
      ({ · with espReq := some (bits v 9 0) })).resultPending rLoom_ESP_STAT

/-- ESP_SEL (R267). -/
def execEspSel (v : W32) (s : State) : Host.Outcome State Fault Refusal := .next (hostAccess (writeEspSel v) s)

/-- A write of EXP_SEL: a snapshot of the rule is requested. -/
def writeExpSel (v : W32) (s : State) : State :=
  match s.unavailable rLoom_EXP_SEL with
  | some st => rejectReg rLoom_EXP_SEL st s
  | none => (s.setFld fLoom_EXP_SEL_RULE (bits v 5 0)).modLoom ({ · with expReq := some (bits v 5 0) })

/-- EXP_SEL (R267). -/
def execExpSel (v : W32) (s : State) : Host.Outcome State Fault Refusal := .next (hostAccess (writeExpSel v) s)

/-- ESP_STAT without VALID and FRESH, ESP_SHOWN, ESP_CNT0 and ESP_CNT1 (R267) (DEDUCED, log entry 36). -/
def espWords (p : Option Esp) : Nat × Nat × Nat × Nat :=
  match p with
  | none => (0, 0, 0, 0)
  | some p =>
    (if p.state = 0 then 0
      else p.fmt.ess * 2 ^ 24 + p.pacing * 2 ^ 22 + p.loss * 2 ^ 20 + p.stk * 2 ^ 18 + (if p.take.isSome then 2 ^ 17 else 0)
        + (if p.rew.isSome then 2 ^ 16 else 0) + p.owner * 2 ^ 8 + p.ep * 16 + p.state,
     (p.last.map (·.1)).getD 0 % 2 ^ 32, p.rept * 65536 + p.drop,
     p.lost * 65536 + min 255 p.late * 256 + min 255 p.torn)

/-- The ESP snapshot becomes ready (R267). -/
def espReady (s : State) : State :=
  match s.loom.espReq with
  | none => s
  | some port =>
    let (st, shown, c0, c1) := espWords (s.esp port)
    let s1 := (s.modLoom ({ · with espReq := none })).setReg rLoom_ESP_SHOWN (BitVec.ofNat 32 shown)
    let s2 := (s1.setReg rLoom_ESP_CNT0 (BitVec.ofNat 32 c0)).setReg rLoom_ESP_CNT1 (BitVec.ofNat 32 c1)
    (s2.setReg rLoom_ESP_STAT (BitVec.ofNat 32 st)).resultReady rLoom_ESP_STAT

/-- The rule snapshot becomes ready (R267). -/
def expReady (s : State) : State :=
  match s.loom.expReq with
  | none => s
  | some r =>
    let (f, d) := Tab.get (0, 0) s.loom.expCnt r
    (s.modLoom ({ · with expReq := none })).setReg rLoom_EXP_CNT (BitVec.ofNat 32 (d * 65536 + f))

end Sys2Proof.Machine
end

