-- ==== Sys2Proof/Machine/Place.lean ====
section
/-! DEFINITION. FRAME_RECEIVE: the MAC's filter, the express path, classification, placement in beam and punting
(R27, R28, R49, R50, R190, R209-R214, R221-R238, R264-R266). -/

namespace Sys2Proof.Machine

/-! ## Placement of frame-based media (R222-R230) -/

/-- A packet as placement sees it: leg, arrival stamp, RTP fields, extended sequence number and payload. -/
structure Pkt where
  leg    : Nat
  stamp  : Nat
  marker : Bool
  ts     : Nat
  rtp    : Nat
  seq    : Nat
  data   : List Byte

/-- The instant up to which a slot accepts packets (R222): MERGE_WIN after FIRST_ARRIVAL, or without MERGE the end of
the next period, the periods counted from the timebase's epoch and the first being the one that FIRST_ARRIVAL lies in (DESIGN CHOICE, log
entry 134). -/
def Isp.until_ (p : Isp) (at_ : Nat) : Nat :=
  if p.merge then at_ + p.win * 1000 * nsU
  else
    let (n, d) := p.fmt.period
    ((at_ * d / (n * nsU) + 2) * n * nsU + d - 1) / d

/-- The index that slot `j`'s place holds, and whether it still accepts (R222): the slot being filled, else what the
header in beam carries (DEDUCED, log entry 37). -/
def heldIdx (p : Isp) (b : Bolt) (j : Nat) (s : State) : Option (Nat × Option Slot) × State :=
  match Tab.find p.slots (j % b.slots) with
  | some c => (some (c.idx, some c), s)
  | none =>
    let (h, s1) := readHdr (whoIngress p.owner) b j s
    (h.map fun x => (b.indexOf p.fmt j x.ts, none), s1)

/-- What becomes of a packet for index `j`. -/
inductive Admit where
  | late
  | into (c : Slot)
  | fresh (old : Option Slot)

/-- A packet of index `j` with stamp `t` is late, falls into the slot that holds `j`, or opens the slot (R222). -/
def accept (p : Isp) (j t : Nat) : Option (Nat × Option Slot) → Admit
  | none => .fresh none
  | some (i, c) =>
    if j < i then .late
    else if i < j then .fresh c
    else match c with
      | none => .late
      | some c => if p.until_ c.at_ < t then .late else .into c

/-- The sequence number of the first packet, from the previous index's marker (R227), or S_f (R230). -/
def Isp.firstSeq (p : Isp) (j : Nat) : Option Nat :=
  if p.fmt.ess = 4 then
    p.sync.map fun x => (((x.1 : Int) + ((j : Int) - x.2) * p.fmt.sdiPackets) % 65536).toNat
  else if j = 0 then none else (Tab.find p.marks (j - 1)).map fun m => (m + 1) % 2 ^ 32

/-- A slot that opens for index `j`: the new record, and the index area or the samples and the map cleared in beam
(R222, R223, R232) (DEDUCED, log entry 37). -/
def openSlot (port : Nat) (p : Isp) (j ts rtp t : Nat) (old : Option Slot) (s : State) : Slot × State :=
  let b := s.bolt p.bolt
  let who := whoIngress p.owner
  let s1 := match old with | some c => slotStops port p (j % b.slots) c s | none => s
  let s2 := s1.modBolt p.bolt fun b => { b with
    newest := some (match b.newest with | some n => max n j | none => j), ancs := Tab.erase b.ancs (j % b.slots)
    idxs := Tab.set b.idxs (j % b.slots) (ts, j) }
  let a := b.slotAt j
  let s3 := if p.fmt.ess = 0 then
      let x := beamWrite who (a + 64) (List.replicate (12 * p.fmt.height) 0) s2
      if p.merge then beamWrite who (a + p.fmt.mapAt) (List.replicate (p.mapBits / 8) 0) x else x
    else if isAudio p.fmt.ess then beamWrite who (a + 64) (List.replicate (192 * p.fmt.chans) 0) s2
    else s2
  ({ idx := j, ts := ts, rtp := rtp, at_ := t, first := p.firstSeq j }, s3)

/-- The offset of a sequence number from FIRST_SEQ. -/
def Slot.seqOfs (c : Slot) (f : Format) (q : Nat) : Nat :=
  let m := if f.ess = 4 then 65536 else 2 ^ 32
  (q % m + m - (c.first.getD 0) % m) % m

/-- The sequence map covers a sequence number: FIRST_SEQ is unknown, or it lies below MAP_BITS from it (R228) (DEDUCED, log entry 37). -/
def Slot.inMap (c : Slot) (p : Isp) (q : Nat) : Bool := c.first.isNone || decide (c.seqOfs p.fmt q < p.mapBits)

/-- Every sequence number of the frame is in a list. -/
def Slot.coveredBy (c : Slot) (f : Format) (l : List Nat) : Bool :=
  match c.span f with
  | some n => decide (n ≤ l.length) && (List.range n).all fun i => l.any fun q => c.seqOfs f q == i
  | none => false

/-- COMPLETE is judged (R227, R228): from the map with MERGE, past MAP_BITS from one leg alone, from the count without
MERGE; an interlaced or PsF frame needs both fields. -/
def Slot.judge (c : Slot) (p : Isp) (t : Nat) : Slot :=
  if c.complete then c
  else
    let fields := p.fmt.scan == 0 || c.fields == 3
    let ok := if !p.merge then c.span p.fmt == some c.placed
      else if c.flags.testBit 5 then c.coveredBy p.fmt c.gotA || c.coveredBy p.fmt c.gotB
      else c.coveredBy p.fmt c.got
    if fields && ok then { c with flags := Nat.lor c.flags 1, doneAt := t } else c

/-- The sequence map is written from FIRST_SEQ on (R223, R228): bit i of the map is offset i (DEDUCED, log entry 37). -/
def writeMap (p : Isp) (c : Slot) (s : State) : State :=
  if p.fmt.ess ≠ 0 ∨ !p.merge ∨ c.first.isNone then s
  else
    let byte (i : Nat) : Byte := BitVec.ofNat 8 ((List.range 8).foldl
      (fun m k => if c.got.any (fun q => c.seqOfs p.fmt q == 8 * i + k) then m + 2 ^ k else m) 0)
    beamWrite (whoIngress p.owner) ((s.bolt p.bolt).slotAt c.idx + p.fmt.mapAt) ((List.range (p.mapBits / 8)).map byte) s

/-- The slot record and its header in beam (R224) (DEDUCED, log entry 37). -/
def keepSlot (port : Nat) (c : Slot) (s : State) : State :=
  match s.isp port with
  | none => s
  | some p =>
    let s1 := s.setIsp port { p with slots := Tab.set p.slots (c.idx % (s.bolt p.bolt).slots) c }
    writeHdr p c s1

/-- A sample row data segment header of ST 2110-20: length, field, line, offset. -/
structure Srd where
  len  : Nat
  fld  : Nat
  line : Nat
  ofs  : Nat

/-- The SRD headers of a payload and what follows them. -/
def srdParse : Nat → List Byte → List Srd × List Byte
  | 0, b => ([], b)
  | n + 1, b =>
    if b.length < 6 then ([], [])
    else
      let h : Srd := ⟨beField b 0 2, beField b 2 2 / 32768, beField b 2 2 % 32768, beField b 4 2 % 32768⟩
      if beField b 4 2 < 32768 then ([h], b.drop 6)
      else
        let (l, r) := srdParse n (b.drop 6)
        (h :: l, r)

/-- A segment is placed, or refused with GEOM_ERR (R226), and its line index entry written (R225). -/
def placeSrd (port : Nat) (p : Isp) (leg seq : Nat) (x : Srd) (data : List Byte) (c : Slot) (s : State) : Slot × State :=
  let f := p.fmt
  let row := if f.scan = 0 then x.line else 2 * x.line + x.fld
  let ofs := x.ofs / f.pg.2 * f.pg.1
  if f.height ≤ row ∨ x.ofs % f.pg.2 ≠ 0 ∨ x.len % f.pg.1 ≠ 0 ∨ f.rowBytes < ofs + x.len then
    ({ c with flags := Nat.lor c.flags 16 }, countIsp 0x04 port p.owner 1 s)
  else
    let a := (s.bolt p.bolt).slotAt c.idx
    let r := Tab.get ⟨0, seq, 0, 0⟩ c.rows row
    let fl := Nat.lor r.flags (2 * 2 ^ leg)
    let r1 : Row := ⟨r.bytes + x.len, r.seq, min 65535 (r.segs + 1), if r.bytes + x.len = f.rowBytes then Nat.lor fl 1 else fl⟩
    let s1 := beamWriteWhole (whoIngress p.owner) (a + f.rowsAt + row * f.stride + ofs) (padTo x.len (data.take x.len)) s
    ({ c with rows := Tab.set c.rows row r1, bytes := c.bytes + x.len },
     beamWrite (whoIngress p.owner) (a + 64 + 12 * row)
       (leBytes 4 r1.bytes ++ leBytes 4 r1.seq ++ leBytes 2 r1.segs ++ leBytes 1 r1.flags ++ [0]) s1)

/-- The segments of a packet, in order. -/
def placeSrds (port : Nat) (p : Isp) (leg seq : Nat) : List Srd → List Byte → Slot → State → Slot × State
  | [], _, c, s => (c, s)
  | x :: r, data, c, s =>
    let (c1, s1) := placeSrd port p leg seq x data c s
    placeSrds port p leg seq r (data.drop x.len) c1 s1

/-- The bytes that payloads with their lengths occupy (DEDUCED, log entry 39). -/
def ancSize (l : List (List Byte)) : Nat := l.foldl (fun n d => n + 4 + d.length) 0

/-- An ancillary payload is placed (R229): after those of all lower sequence numbers, where a second copy without MERGE lands on the first,
or in the overflow area; the result tells whether it was kept (DEDUCED, log entry 39). -/
def placeAnc (port : Nat) (p : Isp) (seq : Nat) (data : List Byte) (c : Slot) (s : State) : Bool × Slot × State :=
  let b := s.bolt p.bolt
  let lower := c.anc.filter (·.1 != seq)
  let used := ancSize (lower.map (·.2))
  let extra := ancSize c.extra
  let higher := c.anc.any fun x => decide ((x.1 + 2 ^ 32 - seq) % 2 ^ 32 < 2 ^ 31 ∧ x.1 ≠ seq)
  let put (a : Nat) (s : State) : State := beamWriteWhole (whoIngress p.owner) (b.slotAt c.idx + a) (leBytes 4 data.length ++ data) s
  if higher ∧ !p.merge then (false, c, s)
  else if b.size < 64 + used + extra + 4 + data.length then
    (false, { c with flags := Nat.lor c.flags 16 }, countIsp 0x04 port p.owner 1 s)
  else
    let at_ := if higher then b.size - extra - 4 - data.length else 64 + used
    let c1 := if higher then { c with extra := c.extra ++ [data] } else { c with anc := lower ++ [(seq, data)] }
    (true, { c1 with bytes := c.bytes + data.length },
     (put at_ s).modBolt p.bolt fun b =>
       let l := Tab.get [] b.ancs (c.idx % b.slots)
       let l1 := if higher then l ++ [(at_, data.length)] else l.take lower.length ++ [(at_, data.length)] ++ l.drop c.anc.length
       { b with ancs := Tab.set b.ancs (c.idx % b.slots) l1 })

/-- The HBRMT header's length (SMPTE ST 2022-6) (PRESUMED, log entry 38). -/
def hbrmtLen (d : List Byte) : Nat :=
  let b0 := (d.getD 0 0).toNat
  4 + (if b0.testBit 3 then 4 else 0) + (if beField d 2 2 / 32 % 16 ≠ 0 then 4 else 0) + 4 * (b0 / 16)

/-- An SDI packet is placed at its offset from S_f (R230). -/
def placeSdi (p : Isp) (seq : Nat) (data : List Byte) (c : Slot) (s : State) : Bool × Slot × State :=
  let k := c.seqOfs p.fmt seq
  let n := hbrmtLen data
  if c.first.isNone ∨ p.fmt.sdiPackets ≤ k then (false, c, s)
  else
    let d := (data.drop n).take 1376
    (true, { c with bytes := c.bytes + d.length },
     beamWrite (whoIngress p.owner) ((s.bolt p.bolt).slotAt c.idx + 64 + k * 1376) (padTo 1376 d)
       (s.modBolt p.bolt ({ · with hbrmt := data.take n })))

/-- The media of a packet is placed by its essence; the result tells whether it was placed, and its field. -/
def placeMedia (port : Nat) (p : Isp) (k : Pkt) (c : Slot) (s : State) : Bool × Nat × Slot × State :=
  if p.fmt.ess = 0 then
    let (l, d) := srdParse 3 (k.data.drop 2)
    let (c1, s1) := placeSrds port p k.leg k.seq l d c s
    (true, (l.getLast?.map (·.fld)).getD 0, c1, s1)
  else if p.fmt.ess = 3 then
    let (ok, c1, s1) := placeAnc port p k.seq k.data c s
    (ok, 0, c1, s1)
  else
    let (ok, c1, s1) := placeSdi p k.seq k.data c s
    (ok, 0, c1, s1)

/-- The next index learns its FIRST_SEQ from this index's marker (R227). -/
def tellNext (port j seq t : Nat) (s : State) : State :=
  match s.isp port with
  | none => s
  | some p =>
    let p1 := { p with marks := Tab.set (p.marks.filter (fun e => decide (j < e.1 + (s.bolt p.bolt).slots))) j seq }
    let s1 := s.setIsp port p1
    match Tab.find p.slots ((j + 1) % (s.bolt p.bolt).slots) with
    | none => s1
    | some c =>
      if c.idx ≠ j + 1 ∨ c.first.isSome ∨ p.fmt.ess = 4 then s1
      else
        let c1 := { c with first := some ((seq + 1) % 2 ^ 32) }
        let ovf := p.merge && c1.got.any (fun q => !c1.inMap p q)
        let c2 := (if ovf then { c1 with flags := Nat.lor c1.flags 32 } else c1).judge p t
        keepSlot port c2 (writeMap p c2 s1)

/-- A marker packet ends the frame, or one field of it (R227) (DEDUCED, log entry 39). -/
def Slot.mark (c : Slot) (k : Pkt) (fld : Nat) : Slot :=
  if k.marker then
    { c with fields := Nat.lor c.fields (2 ^ fld)
             last := some (match c.last with
               | some o => if (k.seq + 2 ^ 32 - o) % 2 ^ 32 < 2 ^ 31 then k.seq else o
               | none => k.seq) }
  else c

/-- A packet is placed in the slot that holds its index, or is a DUP (R222-R230, R235). -/
def placeIn (port j : Nat) (k : Pkt) (c : Slot) (s : State) : State :=
  match s.isp port with
  | none => s
  | some p =>
    let c0 := if k.leg = 0 then { c with gotA := k.seq :: c.gotA } else { c with gotB := k.seq :: c.gotB }
    if p.merge && c.got.contains k.seq then
      keepSlot port (c0.judge p k.stamp) (countIsp 0x02 port p.owner 1 s)
    else
      let (ok, fld, c1, s1) := placeMedia port p k c0 s
      if !ok then keepSlot port { c1 with gotA := c.gotA, gotB := c.gotB } s1
      else
        let c2 := { c1 with got := k.seq :: c1.got, placed := if c1.got.contains k.seq then c1.placed else c1.placed + 1
                            flags := Nat.lor c1.flags ((if k.leg = 0 then 4 else 8) +
                              (if p.merge && !c1.inMap p k.seq then 32 else 0)) }
        let c3 := (c2.mark k fld).judge p k.stamp
        let s2 := countIsp 0x01 port p.owner (c1.bytes - c0.bytes) (countIsp 0x00 port p.owner 1 s1)
        let s3 := keepSlot port c3 (writeMap p c3 s2)
        if k.marker ∧ (p.fmt.scan = 0 ∨ c3.fields = 3) then tellNext port j (c3.last.getD k.seq) k.stamp s3 else s3

/-- A late packet is discarded and counted (R222, R239). -/
def lateOne (port : Nat) (s : State) : State :=
  match s.isp port with
  | none => s
  | some p => countIsp 0x03 port p.owner 1 (s.setIsp port { p with late := min 65535 (p.late + 1) })

/-- A packet of index `j` is placed, opens its slot or is late (R222). -/
def placeFrame (port j : Nat) (k : Pkt) (s : State) : State :=
  match s.isp port with
  | none => s
  | some p =>
    let (h, s1) := heldIdx p (s.bolt p.bolt) j s
    match accept p j k.stamp h with
    | .late => lateOne port s1
    | .into c => placeIn port j k c s1
    | .fresh old =>
      let (c, s2) := openSlot port p j k.ts k.rtp k.stamp old s1
      placeIn port j k c s2

/-- The frame count of an SDI packet extended to the index of R221 (R230) (PRESUMED, log entry 38). -/
def sdiIndex (idx fr : Nat) : Nat :=
  let v : Int := (idx : Int) + signed 8 (unsigned 8 ((fr : Int) - idx))
  (if v < 0 then v + 256 else v).toNat

/-- The first marker packet synchronises an ESSENCE 4 port (R230) (PRESUMED, log entry 38). -/
def sdiSync (port f seq : Nat) (marker : Bool) (s : State) : State :=
  match s.isp port with
  | none => s
  | some p => if p.sync.isNone ∧ marker then s.setIsp port { p with sync := some ((seq + 1) % 65536, f + 1) } else s

/-! ## Audio placement (R231-R233) -/

/-- The samples of a packet as stored 32-bit words, at most one packet slot of them (R232) (PRESUMED, log entry 38). -/
def audioWords (f : Format) (d : List Byte) : List Nat :=
  let n := if f.ess = 2 then 4 else if f.l16 = 1 then 2 else 3
  (List.range (min (f.spp * f.chans) (d.length / n / f.chans * f.chans))).map fun i =>
    let v := beField d (n * i) n
    if f.ess = 2 then v
    else unsigned 32 (signed 24 (if f.l16 = 1 then v * 256 else v))

/-- The part of a packet that falls into one block: its sample times and words (DEDUCED, log entry 40). -/
def blockPart (f : Format) (ts j : Nat) (words : List Nat) : Nat × List Nat :=
  let n := words.length / f.chans
  let a := max ts (48 * j)
  let b := min (ts + n) (48 * j + 48)
  (a - 48 * j, (words.drop ((a - ts) * f.chans)).take ((b - a) * f.chans))

/-- What became of a part: late, a duplicate, or placed. -/
inductive Fate where
  | late | dup | placed
  deriving DecidableEq

/-- One block's part of an audio packet is placed (R222, R232, R235) (DEDUCED, log entry 40). -/
def placePart (port j : Nat) (k : Pkt) (words : List Nat) (s : State) : Fate × State :=
  match s.isp port with
  | none => (.late, s)
  | some p =>
    let b := s.bolt p.bolt
    let (h, s1) := heldIdx p b j s
    let (t, w) := blockPart p.fmt k.ts j words
    let n := w.length / p.fmt.chans
    let bitsOf := (List.range n).foldl (fun m i => m + 2 ^ (t + i)) 0
    let put (c : Slot) (s : State) : Fate × State :=
      if p.merge ∧ Nat.land c.mask bitsOf = bitsOf then (.dup, s)
      else
        let c1 := { c with mask := Nat.lor c.mask bitsOf, bytes := c.bytes + (if p.fmt.ess = 2 then 4 else if p.fmt.l16 = 1 then 2 else 3) * w.length
                           flags := Nat.lor c.flags (if k.leg = 0 then 4 else 8) }
        let c2 := if !c1.complete ∧ c1.present p.fmt.pkts = 2 ^ p.fmt.pkts - 1 then
            { c1 with flags := Nat.lor c1.flags 1, doneAt := k.stamp } else c1
        (.placed, keepSlot port c2 (beamWriteWhole (whoIngress p.owner)
          (b.slotAt j + 64 + 4 * p.fmt.chans * t) (w.flatMap (leBytes 4)) s))
    match accept p j k.stamp h with
    | .late => (.late, s1)
    | .into c => put c s1
    | .fresh old =>
      let (c, s2) := openSlot port p j k.ts k.rtp k.stamp old s1
      put c s2

/-- The words that a feed takes: 24-bit samples; of an AES3 subframe the audio word (R233). -/
def feedWords (words : List Nat) : List Nat := words.map (· % 2 ^ 24)

/-- An audio packet is placed in its block, or split across two (R232), counted, and fed (R233). -/
def placeAudio (port : Nat) (k : Pkt) (s : State) : State :=
  match s.isp port with
  | none => s
  | some p =>
    let words := audioWords p.fmt k.data
    let n := words.length / p.fmt.chans
    if n = 0 then s
    else
      let j0 := k.ts / 48
      let j1 := (k.ts + n - 1) / 48
      let (f0, s1) := placePart port j0 k words s
      let (f1, s2) := if j1 = j0 then (f0, s1) else placePart port j1 k words s1
      let s3 := if f0 = .late ∨ f1 = .late then lateOne port s2 else s2
      if f0 = .placed ∨ f1 = .placed then
        feedDeliver port k.ts (feedWords words)
          (countIsp 0x01 port p.owner k.data.length (countIsp 0x00 port p.owner 1 s3))
      else if f0 = .dup ∨ f1 = .dup then countIsp 0x02 port p.owner 1 s3
      else s3

/-! ## A classified packet (R214, R220, R221) -/

/-- The RTP payload's offset: fixed header, CSRC list and extension (RFC 3550). -/
def rtpOffset (d : List Byte) : Nat :=
  let b0 := (d.getD 0 0).toNat
  let o := 12 + 4 * (b0 % 16)
  if b0.testBit 4 then o + 4 + 4 * beField d (o + 2) 2 else o

/-- The RTP payload without its padding. -/
def rtpPayload (d : List Byte) : List Byte :=
  let x := d.drop (rtpOffset d)
  if (d.getD 0 0).toNat.testBit 5 then x.take (x.length - (x.getLastD 0).toNat) else x

/-- A frame fails R214: no RTP header, another version, or another SSRC. -/
def rtpBad (key : Key) (d : List Byte) : Bool :=
  decide (d.length < 12) || (d.getD 0 0).toNat / 64 != 2 || (key.ssrc.isSome && key.ssrc != some (beField d 8 4))

/-- PACKET_PLACE: a frame delivered to a port and leg (R214, R220, R221). -/
def deliverMedia (port leg : Nat) (key : Key) (stamp : Nat) (udp : List Byte) (s : State) : State :=
  match s.isp port with
  | none => s
  | some p =>
    if rtpBad key udp then countIsp 0x05 port p.owner 1 s
    else
      let rtp := beField udp 4 4
      let ts := extendTs rtp (mediaClock p.fmt.ess stamp)
      let data := rtpPayload udp
      let seq := beField udp 2 2 + (if p.fmt.ess = 0 ∨ p.fmt.ess = 3 then 65536 * beField data 0 2 else 0)
      let k : Pkt := ⟨leg, stamp, (udp.getD 1 0).toNat.testBit 7, ts, rtp, seq, data⟩
      let s1 := legValid port leg s
      if isAudio p.fmt.ess then placeAudio port k s1
      else if p.fmt.ess = 4 then
        let f := sdiIndex (p.fmt.index ts) (data.getD 1 0).toNat
        let s2 := sdiSync port f k.seq k.marker s1
        if ((s2.isp port).bind (·.sync)).isSome then placeFrame port f k s2 else s2
      else placeFrame port (p.fmt.index ts) k s1

/-! ## Punting (R237, R238) -/

/-- The protocol of an IPv6 packet and what follows its extension headers; none of a fragment that does not begin with it (R237)
(DEDUCED, log entry 42). -/
def ip6Upper : Nat → Nat → List Byte → Option (Nat × List Byte)
  | 0, _, _ => none
  | n + 1, next, d =>
    let then_ (k : Nat) := ip6Upper n (d.getD 0 0).toNat (d.drop k)
    if next = 0 ∨ next = 43 ∨ next = 60 ∨ next = 135 ∨ next = 139 ∨ next = 140 then then_ (8 + 8 * (d.getD 1 0).toNat)
    else if next = 44 then (if beField d 2 2 / 8 = 0 then then_ 8 else none)
    else if next = 51 then then_ (8 + 4 * (d.getD 1 0).toNat)
    else some (next, d)

/-- The protocol of an IP packet that begins it, and its bytes. -/
def IpInfo.upper (i : IpInfo) (b : List Byte) : Option (Nat × List Byte) :=
  if i.family = 6 then ip6Upper b.length i.proto (b.drop i.l4) else if i.later then none else some (i.proto, b.drop i.l4)

/-- The punt class of a frame (R237) (DEDUCED, log entry 42). -/
def puntClass (b : List Byte) : Nat :=
  let typ := (ethInner b).2.1
  let ip := ipParse b
  let up := ip.bind (·.upper b)
  let udp := up.any fun u => u.1 == 17 && (beField u.2 2 2 == 319 || beField u.2 2 2 == 320)
  let proto4 (n : Nat) : Bool := ip.any fun i => i.family == 4 && i.proto == n
  let t6 := if ip.any (·.family == 6) then up.bind fun u => if u.1 = 58 then (u.2.head?).map (·.toNat) else none else none
  if typ = 0x88F7 ∨ udp then 0
  else if proto4 2 then 1
  else if t6.any (fun t => t == 130 || t == 131 || t == 132 || t == 143) then 2
  else if typ = 0x0806 ∨ t6.any (fun t => decide (133 ≤ t ∧ t ≤ 137)) then 3
  else if proto4 1 ∨ t6.isSome then 4
  else 5

/-- 10 µs of the running clock. -/
abbrev tenUs : Nat := 10000 * nsU

/-- A class's tokens now, in packets × 10 µs (R238) (DEDUCED, log entry 42). -/
def State.tokens (s : State) (c : Nat) : Nat :=
  let full := s.fld (fLoom_PUNT_CFG_BURST c) * tenUs
  match Tab.find s.loom.punt c with
  | some (n, t) => min full (n + s.fld (fLoom_PUNT_CFG_RATE c) * (s.up - t))
  | none => full

/-- The bucket of a class as it stood in `old` is recorded, before another RATE or BURST acts (R238). -/
def settleTokens (c : Nat) (old s : State) : State :=
  if (Tab.find s.loom.punt c).isSome then s.modLoom fun m => { m with punt := Tab.set m.punt c (old.tokens c, s.up) } else s

/-- A punted frame is dropped (R238). -/
def puntDrop (c : Nat) (s : State) : State :=
  raiseOnce fLoom_ING_EVENT_PUNT_DROP (countLoom 0x31 c 1 1 0 8 1 (s.addSat (fLoom_PUNT_DROP_COUNT c)))

/-- PUNT: a frame goes to its class's queue, or is dropped; a token is used only on delivery (R238, R359) (DEDUCED, log entry 42). -/
def punt (ep stamp : Nat) (b : List Byte) (s : State) : State :=
  let c := puntClass b
  let limited := s.fld (fLoom_PUNT_CFG_RATE c) != 0
  if !s.on (fLoom_PUNT_CFG_EN c) || (limited && decide (s.tokens c < tenUs)) then puntDrop c s
  else match deliverBuf (s.fld (fLoom_PUNT_CFG_QP c)) (tbBytes stamp) b ep c s with
    | none => puntDrop c s
    | some s1 =>
      let s2 := if limited then s1.modLoom fun m => { m with punt := Tab.set m.punt c (s.tokens c - tenUs, s.up) } else s1
      countLoom 0x30 c 1 1 0 8 1 s2

/-! ## Express (R264-R266) -/

/-- The leading `n` bits of two byte strings are equal. -/
def prefixEq (n : Nat) (a b : List Byte) : Bool := (List.range n).all fun i =>
  (a.getD (i / 8) 0).getLsbD (7 - i % 8) == (b.getD (i / 8) 0).getLsbD (7 - i % 8)

/-- A frame matches a rule (R264) (DEDUCED, log entry 41). -/
def ruleMatch (ep : Nat) (b : List Byte) (r : ExpRule) : Bool :=
  let (tci, typ, _) := ethParse b
  let tag := match tci with | some t => 32768 + t % 4096 | none => 0
  r.inMask.testBit ep
  && r.vlan.all (fun v => if v < 32768 then tci.isNone else tag == v)
  && r.etype.all (· == typ)
  && r.dmac.all (· == b.take 6)
  && (match r.dip with
      | none => true
      | some (fam, n, a) => (ipParse b).any fun i => i.family == fam && prefixEq n i.dst a)

/-- The lowest-numbered rule that a frame matches (R264). -/
def State.ruleFor (s : State) (ep : Nat) (b : List Byte) : Option (Nat × ExpRule) :=
  (List.range 64).findSome? fun i =>
    match Tab.find s.loom.rules i with
    | some r => if ruleMatch ep b r then some (i, r) else none
    | none => none

/-- The frame as a rule sends it (R263, R265) (DEDUCED, log entry 41). -/
def retag (r : ExpRule) (b : List Byte) : List Byte :=
  if beField b 12 2 ≠ 0x8100 ∨ r.act = 0 then b
  else if r.act = 1 then b.take 12 ++ b.drop 16
  else b.take 14 ++ beBytes 2 (tciOf r.repl) ++ b.drop 16

/-- Bytes in an output's express buffer (R266) (DEDUCED, log entry 42). -/
def State.expUsed (s : State) (ep : Nat) : Nat := (s.lane ep).express.foldl (fun n f => n + f.data.length + 4) 0

/-- EXPRESS_FORWARD: a matched frame joins its output's express queue, or is discarded (R28, R47, R55, R265, R266) (DEDUCED, log entry 41). -/
def expForward (rule inEp : Nat) (r : ExpRule) (b : List Byte) (bad : Bool) (s : State) : State :=
  let d := retag r b
  let f : TxFrame := { src := .express rule inEp, data := d, bad := bad }
  if !s.macSends r.outEp then discardTx r.outEp f s
  else if 131072 < s.expUsed r.outEp + d.length + 4 then expDrop rule r.outEp s
  else
    let (n, dr) := Tab.get (0, 0) s.loom.expCnt rule
    let s1 := s.modLoom fun m => { m with expCnt := Tab.set m.expCnt rule ((n + 1) % 65536, dr) }
    let s2 := countLoom 0x21 rule 0 0 0 0 (d.length + 4) (countLoom 0x20 rule 0 0 0 0 1 s1)
    s2.modLane r.outEp fun l => { l with express := l.express ++ [f], txBad := if bad then l.txBad + 1 else l.txBad }

/-! ## The MAC and the disposition (R27, R49, R50, R209) -/

/-- A received frame is counted as bad on its MAC (R27, R49, R522). -/
def rxBadFrame (ep : Nat) (s : State) : State := countLn ep 2 0 1 (s.modLane ep fun l => { l with rxBad := l.rxBad + 1 })

/-- The MAC's own address in wire order (R67). -/
def State.macAddr (s : State) (ep : Nat) : List Byte :=
  leBytes 6 (s.fld (fLn_MAC_ADDR_LO_ADDR ep) + 2 ^ 32 * s.fld (fLn_MAC_ADDR_HI_ADDR ep))

/-- The MAC removes a frame without marking it bad, and counts it (R49, R50). -/
def macRemoves (ep : Nat) (b : List Byte) (s : State) : Option State :=
  let del (f : Lane → Lane) : Option State := some (countLn ep 3 0 1 (s.modLane ep f))
  if b.length + 4 < 64 then del fun l => { l with rxShort := l.rxShort + 1 }
  else if beField b 12 2 = 0x8808 then del fun l => { l with rxCtl := l.rxCtl + 1 }
  else if !s.on (fLn_MAC_CFG_PROMISC ep) && !(b.getD 0 0).getLsbD 0 && b.take 6 != s.macAddr ep then
    del fun l => { l with rxFilt := l.rxFilt + 1 }
  else none

/-- A frame passed to classification counts on its MAC by its class (R520, R522, R527): 4 media, 8 control, 0 express. -/
def rxPassed (ep n cls : Nat) (s : State) : State :=
  let s1 := s.modLane ep fun l => { l with rxBytes := (l.rxBytes + n) % 2 ^ 64 }
  countLn ep 1 cls n (countLn ep 0 cls 1 s1)

/-- The classification entry that takes a datagram: one with a source address before one without (R212). -/
def State.entryFor (s : State) (i : IpInfo) (port : Nat) : Option (Nat × Nat × Key) :=
  let hit (e : Nat × Nat × Key) : Bool :=
    e.2.2.family == i.family && e.2.2.dst == i.dst && e.2.2.port == port && e.2.2.vlan == i.vlans.head?
  match s.entries.find? (fun e => hit e && e.2.2.src == some i.src) with
  | some e => some e
  | none => s.entries.find? (fun e => hit e && e.2.2.src == none)

/-- Steps 3 to 5 of R209 on a good frame. -/
def classify (ep stamp : Nat) (b : List Byte) (s : State) : State :=
  let n := b.length + 4
  match ipParse b with
  | none => punt ep stamp b (rxPassed ep n 8 s)
  | some i =>
    let entry := if i.vlans.length ≤ 1 ∧ i.proto = 17 ∧ !i.frag ∧ i.l4 + 8 ≤ b.length then s.entryFor i (beField b (i.l4 + 2) 2) else none
    if !i.sumOk then
      let s1 := rxPassed ep n 0 s
      match entry with
      | some (port, _, _) => countIsp 0x06 port ((s1.isp port).map (·.owner) |>.getD 0) 1 s1
      | none => s1
    else match entry with
      | some (port, leg, key) => deliverMedia port leg key stamp (udpPayload b i.l4) (rxPassed ep n 4 s)
      | none => punt ep stamp b (rxPassed ep n 8 s)

/-- The receive stamp with RX_CORR (R190). -/
def State.rxStamp (s : State) (ep t : Nat) : Nat := ((t : Int) + s.sfld (fCox_TS_CORR_RX_CORR ep) * 4096).toNat

/-- The frame that a port's receive side gets (R505): the line's; none under KIND 1 on a lane of the port; under KIND 3 the first of
those that its transmit side sent, and none where it sent none. -/
def State.received (s : State) (ep : Nat) (f : RxFrame) : Option (RxFrame × State) :=
  if (s.portLanes ep).any (fun m => s.fld (fLn_PRBS_STAT_LOOP m) == 1) then none
  else if s.fld (fLn_PRBS_STAT_LOOP ep) = 3 then
    match (s.lane ep).looped with
    | [] => none
    | h :: t => some (⟨h.1, h.2, 0, f.stamp⟩, s.modLane ep ({ · with looped := t }))
  else some (f, s)

/-- A frame with its FCS and codewords as the MAC found them gets its one disposition (R209); while the
loom is gated one that its MAC hands on is discarded (R456). A bad frame is counted as such whatever it holds, and cut through where its rule and
its filter let it (R27, R28, R50). -/
def receive (ep : Nat) (f : RxFrame) (s : State) : State :=
  let b := f.bytes
  let bad := !f.fcsOk || ((s.lane ep).cwBad.take f.cws).any id || decide (s.fld (fLn_MAC_CFG_MAX_FRAME ep) < b.length + 4)
  let s0 : State := advanceTo f.stamp s
  let removed := macRemoves ep b s0
  let met := if bad then rxBadFrame ep s0 else removed.getD (rxPassed ep (b.length + 4) 0 s0)
  if 2 ≤ s0.pState then
    if removed.isSome then met else raiseOnce fPwr_EVENT_WAKE_DROP (met.addSat fPwr_WAKE_DROP_COUNT)
  else if bad then
    match s0.ruleFor ep b with
    | some (i, r) =>
      if removed.isNone && decide (s0.portRate ep ≤ s0.portRate r.outEp) then expForward i ep r b true (rxBadFrame ep s0)
      else rxBadFrame ep s0
    | none => rxBadFrame ep s0
  else
    match removed with
    | some s1 => s1
    | none =>
      match s0.ruleFor ep b with
      | some (i, r) => expForward i ep r b false (rxPassed ep (b.length + 4) 0 s0)
      | none => classify ep (s0.rxStamp ep (s0.stamp f.stamp)) b s0

/-- FRAME_RECEIVE (R209, R505). A port that is not up delivers nothing (R87, R93). -/
def execFrameReceive (ep : Nat) (f : RxFrame) (s : State) : Host.Outcome State Fault Refusal :=
  .next (
    if !s.macPresent ep || !s.portUp ep then s
    else match s.received ep f with
      | some (g, s1) => receive ep g s1
      | none => s)

end Sys2Proof.Machine
end

