-- ==== Sys2Proof/Machine/EgressTx.lean ====
section
/-! DEFINITION. Sending: paced packets, audio packets, the choice of the next frame on a MAC, and snapshots that become
ready (R28, R29, R100, R117, R191, R249, R250, R256-R262). -/

namespace Sys2Proof.Machine

/-! ## Packets -/

/-- The one's complement checksum of bytes. -/
def csum16 (l : List Byte) : Nat := 65535 - sum16 l

/-- An RTP datagram of a port as an Ethernet frame without FCS (R240, R257); what the spec leaves open of the headers is
free (DESIGN CHOICE, log entry 44). -/
def rtpFrame (p : Esp) (smac : List Byte) (marker : Bool) (ts : Nat) (payload : List Byte) (free : Nat) : List Byte :=
  let rtp := beBytes 1 128 ++ beBytes 1 (p.pt + if marker then 128 else 0) ++ beBytes 2 p.seq ++ beBytes 4 ts ++ beBytes 4 p.ssrc ++ payload
  let n := rtp.length + 8
  let pseudo := p.src ++ p.dst ++ (if p.family = 4 then beBytes 2 17 ++ beBytes 2 n else beBytes 4 n ++ beBytes 4 17)
  let ports := beBytes 2 p.sport ++ beBytes 2 p.dport ++ beBytes 2 n
  let c := csum16 (pseudo ++ ports ++ [0, 0] ++ rtp)
  let c1 := if p.family = 4 ∧ !Config.udpSum free then 0 else if c = 0 then 65535 else c
  let udp := ports ++ beBytes 2 c1 ++ rtp
  let tos := p.dscp * 4 + Config.ecn free % 4
  let id := Config.ipIdent free
  let ip4 (c : Nat) : List Byte := beBytes 1 0x45 ++ beBytes 1 tos ++ beBytes 2 (20 + n) ++ beBytes 2 id ++
    beBytes 2 (if id / 65536 % 2 = 1 then 0x4000 else 0) ++ beBytes 1 p.ttl ++ beBytes 1 17 ++ beBytes 2 c ++ p.src ++ p.dst
  let ip := if p.family = 4 then ip4 (csum16 (ip4 0))
    else beBytes 4 (6 * 2 ^ 28 + tos * 2 ^ 20 + id % 2 ^ 20) ++ beBytes 2 n ++ beBytes 1 17 ++ beBytes 1 p.ttl ++ p.src ++ p.dst
  p.dmac ++ (if p.smac.all (· == 0) then smac else p.smac) ++
    (if 32768 ≤ p.vlan then beBytes 2 0x8100 ++ beBytes 2 (tciOf p.vlan) else []) ++
    beBytes 2 (if p.family = 4 then 0x0800 else 0x86DD) ++ ip ++ udp

/-- A paced packet joins its MAC's media queue, or is discarded there (R29, R47, R55); the port's sequence number runs
on (R257). The last packet of a stored frame names it (R250). -/
def sendPacket (port due trs : Nat) (ends : Option (Nat × Nat)) (marker : Bool) (ts : Nat) (payload : List Byte) (s : State) : State :=
  match s.esp port with
  | none => s
  | some p =>
    let f : TxFrame := { src := .media port due trs ends, data := padTo 60 (rtpFrame p (s.macAddr p.ep) marker ts payload s.free) }
    let s1 := s.tick.setEsp port { p with seq := (p.seq + 1) % 2 ^ 32 }
    if s1.macSends p.ep then s1.modLane p.ep fun l => { l with media := l.media ++ [f] } else discardTx p.ep f s1

/-- The black pgroup of R249, samples in the order of ST 2110-20. -/
def blackGroup (f : Format) : List Byte :=
  let w := if f.depth = 0 then 10 else 12
  let y := if f.depth = 0 then 64 else 256
  let c := if f.depth = 0 then 512 else 2048
  let unit := if f.sampling = 0 then [c, y, c, y] else if f.sampling = 1 then [c, y, c] else [y, y, y]
  let n := f.pg.1 * 8 / w
  beBytes f.pg.1 ((List.range n).foldl (fun v i => v * 2 ^ w + unit.getD (i % unit.length) 0) 0)

/-- The bytes of a segment: from the shown frame in beam, or black (R249, R257). -/
def segBytes (p : Esp) (w : Shown) (g : Nat × Nat × Nat) (s : State) : List Byte × State :=
  match w with
  | .black => ((List.replicate (g.2.2 / p.fmt.pg.1) (blackGroup p.fmt)).flatten, s)
  | .frame bolt j =>
    let b := s.bolt bolt
    let r := beamRead (whoEgress p.owner) (b.slotAt j + p.fmt.rowsAt + g.1 * p.fmt.stride + g.2.1) g.2.2 s
    (r.bytes, r.after)

/-- The bytes of a packet's segments. -/
def segsBytes (p : Esp) (w : Shown) : List (Nat × Nat × Nat) → State → List Byte × State
  | [], s => ([], s)
  | g :: r, s =>
    let (b, s1) := segBytes p w g s
    let (c, s2) := segsBytes p w r s1
    (b ++ c, s2)

/-- The SRD headers of a packet (ST 2110-20): length, field and line, continuation and offset. -/
def srdHeaders (f : Format) (l : List (Nat × Nat × Nat)) : List Byte :=
  (l.zipIdx.map fun x =>
    let (row, ofs, n) := x.1
    beBytes 2 n ++ beBytes 2 (if f.scan = 0 then row else row % 2 * 32768 + row / 2) ++
      beBytes 2 ((if x.2 + 1 < l.length then 32768 else 0) + ofs / f.pg.1 * f.pg.2)).flatten

/-- The stored frame that a last packet ends. -/
def Shown.stored : Shown → Option (Nat × Nat)
  | .frame bolt j => some (bolt, j)
  | .black => none

/-- TORN_CHECK: after a frame's last packet is sent its slot's header is read again (R250). -/
def tornCheck (port : Nat) (w : Option (Nat × Nat)) (s : State) : State :=
  match s.esp port, w with
  | some p, some (bolt, j) =>
    let (has, _, s1) := slotHas p.owner bolt j s
    if has then s1
    else
      let s2 := countEsp 0x16 port p.owner 1 (s1.setEsp port { p with torn := min 255 (p.torn + 1) })
      portNotice 1 2 port p.owner p.notices (raise_ fLoom_EGR_EVENT_TORN s2)
  | _, _ => s

/-- The RTP timestamp of an instant at 90 kHz (R257). -/
def rtpTs (t : Rat) : Nat := ((t * 90000 / (secU : Nat)).floor % 4294967296).toNat

/-- The frame being sent moves on, or ends. -/
def setHead (port : Nat) (fr : Option EspFrame) (s : State) : State :=
  match s.esp port with
  | none => s
  | some p => s.setEsp port { p with out := fr.toList ++ p.out.drop 1 }

/-- An instant as a whole number of units, not before it. -/
def ceilT (t : Rat) : Nat := (t.ceil).toNat

/-- One ST 2110-20 packet of the frame being sent (R256, R257). -/
def sendVideo (port : Nat) (p : Esp) (fr : EspFrame) (due trs : Nat) (s : State) : State :=
  let f := p.fmt
  let row := if fr.k = 0 then fr.fld else fr.row
  let (segs, r, o) := packSegs f f.fields 3 (payloadCap f p.payload) row fr.ofs
  let last := decide (f.height ≤ r)
  let start : Rat := (fr.at_ : Rat) + (if f.scan = 1 then fr.ival / 2 * fr.fld else 0)
  let (data, s1) := segsBytes p fr.what segs s
  let done := last && decide (f.fields ≤ fr.fld + 1)
  let s2 := sendPacket port due trs (if done then fr.what.stored else none) last (rtpTs start) (beBytes 2 (p.seq / 65536) ++ srdHeaders f segs ++ data) s1
  if !last then setHead port (some { fr with row := r, ofs := o, k := fr.k + 1 }) s2
  else if fr.fld + 1 < f.fields then setHead port (some { fr with fld := fr.fld + 1, row := fr.fld + 1, ofs := 0, k := 0 }) s2
  else setHead port none s2

/-- One stored ancillary payload, with the port's own extended sequence number (R258); a list that a slot opened afresh has cut short ends
the frame, whose header is then read again (R250) (DEDUCED, log entry 39). -/
def sendAnc (port : Nat) (p : Esp) (fr : EspFrame) (due trs : Nat) (s : State) : State :=
  match fr.what with
  | .black => setHead port none s
  | .frame bolt j =>
    let b := s.bolt bolt
    let l := Tab.get [] b.ancs (j % b.slots)
    match l[fr.k]? with
    | none => setHead port none (tornCheck port fr.what.stored s)
    | some (o, n) =>
      let r := beamRead (whoEgress p.owner) (b.slotAt j + o + 4) n s
      let last := decide (l.length ≤ fr.k + 1)
      let s1 := sendPacket port due trs (if last then fr.what.stored else none) last (rtpTs fr.at_) (beBytes 2 (p.seq / 65536) ++ r.bytes.drop 2) r.after
      if last then setHead port none s1 else setHead port (some { fr with k := fr.k + 1 }) s1

/-- One ST 2022-6 packet with the port's own frame count (R258). -/
def sendSdi (port : Nat) (p : Esp) (fr : EspFrame) (due trs : Nat) (s : State) : State :=
  match fr.what with
  | .black => setHead port none s
  | .frame bolt j =>
    let b := s.bolt bolt
    let r := beamRead (whoEgress p.owner) (b.slotAt j + 64 + fr.k * 1376) 1376 s
    let head := if b.hbrmt.isEmpty then (List.range 8).map (Config.hbrmtByte s.free) else b.hbrmt
    let last := decide (p.fmt.sdiPackets ≤ fr.k + 1)
    let s1 := sendPacket port due trs (if last then fr.what.stored else none) last (rtpTs fr.at_) (head.take 1 ++ leBytes 1 p.frames ++ head.drop 2 ++ r.bytes) r.after
    if !last then setHead port (some { fr with k := fr.k + 1 }) s1
    else
      let s2 := match s1.esp port with
        | some q => s1.setEsp port { q with frames := (q.frames + 1) % 256 }
        | none => s1
      setHead port none s2

/-- The schedule time of packet `k` of the frame being sent, and the spacing of its frame (R256, R258). -/
def Esp.schedule (p : Esp) (fr : EspFrame) (k : Nat) : Rat × Rat :=
  let iv := fr.ival / p.fmt.fields
  let (tro, trs) := p.spacing iv fr.fld
  (((fr.at_ + fr.step : Int) : Rat) + iv * fr.fld + tro + trs * k, trs)

/-- When the next packet leaves: a W group at the time of its first packet (R256) (DEDUCED, log entry 45). -/
def Esp.dueOf (p : Esp) (fr : EspFrame) : Rat :=
  (p.schedule fr (if p.pacing = 2 ∧ p.fmt.ess = 0 then fr.k / p.burst * p.burst else fr.k)).1

/-- Packets sent at one time: one, or a W group; each keeps its own schedule time (R256, R259). -/
def sendGroup (port : Nat) : Nat → State → State
  | 0, s => s
  | n + 1, s =>
    match s.esp port with
    | none => s
    | some p =>
      match p.out with
      | [] => s
      | fr :: _ =>
        let due := ceilT (p.schedule fr fr.k).1
        let trs := ceilT (p.schedule fr fr.k).2
        let s1 := if p.fmt.ess = 0 then sendVideo port p fr due trs s
          else if p.fmt.ess = 3 then sendAnc port p fr due trs s
          else sendSdi port p fr due trs s
        let more := match (s1.esp port).map (·.out) with
          | some (x :: _) => decide (fr.k < x.k ∧ x.fld = fr.fld)
          | _ => false
        if more then sendGroup port n s1 else s1

/-- PACKET_DUE: the schedule time of the port's next packet comes (R256-R259) (DESIGN CHOICE, log entry 2). -/
def execPacketDue (port : Nat) (s : State) : Host.Outcome State Fault Refusal :=
  .next (
    match s.esp port with
    | none => s
    | some p =>
      match p.out with
      | [] => s
      | fr :: _ =>
        sendGroup port (if p.pacing = 2 ∧ p.fmt.ess = 0 then p.burst - fr.k % p.burst else 1)
          (advanceTo (ceilT (p.dueOf fr)) s))

/-! ## Audio (R261, R262) -/

/-- The bolt and REWIND in force for an output sample at an instant (R262): the switches run newest first. -/
def Esp.sourceAt (p : Esp) (t : Rat) : Nat × Nat :=
  p.sw.foldl (fun a e => if t < (e.1 : Rat) then (e.2.1, e.2.2) else a) (p.bolt, p.rewind)

/-- What an audio packet needs of one output sample: the words, whether they were there, and the state after the read. -/
def outSample (port m : Nat) (s : State) : List Nat × Bool × State :=
  match s.esp port with
  | none => ([], false, s)
  | some p =>
    let t : Rat := (m * secU : Nat) / (48000 : Rat)
    let (bolt, rew) := p.sourceAt t
    let x : Int := ((m * secU : Nat) - ((p.delay + rew) * 1000 * nsU * 48000 : Nat) : Int) / ((secU : Nat) : Int)
    let zeros := List.replicate p.fmt.chans 0
    if x < 0 then (zeros, false, s)
    else
      let (has, s1) := sampleThere p.owner bolt x.toNat s
      if has then
        let b := s1.bolt bolt
        let r := beamRead (whoEgress p.owner) (b.slotAt (x.toNat / 48) + 64 + 4 * p.fmt.chans * (x.toNat % 48)) (4 * p.fmt.chans) s1
        ((List.range p.fmt.chans).map fun c => field r.bytes (4 * c) 4, true, r.after)
      else
        let slot := x.toNat / ((s1.bolt bolt).fmt.elim 48 (·.spp))
        let s2 := if s1.present bolt ∧ !p.cnt.contains (bolt, slot) then
            countEsp 0x14 port p.owner 1 (s1.setEsp port { p with drop := min 65535 (p.drop + 1), cnt := (bolt, slot) :: p.cnt })
          else s1
        (zeros, s2.present bolt, s2)

/-- The words of `n` output samples from number `m` on, and whether any is there or its source is present. -/
def outSamples (port : Nat) : Nat → Nat → State → List Nat × Bool × State
  | 0, _, s => ([], false, s)
  | n + 1, m, s =>
    let (w, a, s1) := outSample port m s
    let (l, b, s2) := outSamples port n (m + 1) s1
    (w ++ l, a || b, s2)

/-- A stored word on the wire (R261). -/
def wireWord (f : Format) (w : Nat) : List Byte :=
  if f.ess = 2 then beBytes 4 w else if f.l16 = 1 then beBytes 2 (w / 256) else beBytes 3 w

/-- AUDIO_PACKET_DUE: packet k leaves, at (k + 1) × t_p (R261, R262) (DESIGN CHOICE, log entry 2). -/
def execAudioPacketDue (port : Nat) (s : State) : Host.Outcome State Fault Refusal :=
  .next (
    match s.esp port with
    | none => s
    | some p =>
      if p.state = 0 ∨ !isAudio p.fmt.ess then s
      else
        let tp := (if p.fmt.pkts = 8 then 125000 else 1000000) * nsU
        let now := s.tb / tp
        let k := match p.k with | some k => if k = now ∨ k + 1 = now then k else now | none => now
        let s1 := advanceTo (((k + 1) * tp : Nat) : Int) s
        let (words, there, s2) := outSamples port p.fmt.spp (k * p.fmt.spp) s1
        match s2.esp port with
        | none => s2
        | some q =>
          let s3 := s2.setEsp port { q with k := some (k + 1), sw := q.sw.filter fun e => decide (((k + 1) * tp : Nat) < e.1) }
          if !there ∧ p.loss = 2 then s3
          else sendPacket port ((k + 1) * tp) tp none false (k * p.fmt.spp % 2 ^ 32) (words.flatMap (wireWord p.fmt)) s3)

/-! ## The MAC's transmit side (R28, R29, R191, R259) -/

/-- The frame that goes next (R29): express, media, host. -/
def nextTx (l : Lane) : Option (TxFrame × Lane) :=
  match l.express, l.media, l.host with
  | f :: r, _, _ => some (f, { l with express := r })
  | [], f :: r, _ => some (f, { l with media := r })
  | [], [], f :: r => some (f, { l with host := r })
  | [], [], [] => none

/-- The class of a frame for the filters (R520). -/
def txClass : TxSrc → Nat
  | .express _ _ => 0
  | .media _ _ _ _ => 4
  | .host _ => 8

/-- A paced packet left: it is counted, and PACE_LATE if it left more than one TRS after its schedule time (R259, R522). -/
def mediaLeft (port due trs n : Nat) (s : State) : State :=
  match s.esp port with
  | none => s
  | some p =>
    let s1 := countEsp 0x12 port p.owner n (countEsp 0x11 port p.owner 1 s)
    if due + trs < s.tb then
      raise_ fLoom_EGR_EVENT_PACE_LATE (countEsp 0x15 port p.owner 1 (s1.setEsp port { p with late := min 255 (p.late + 1) }))
    else s1

/-- A host frame left: its SEND completes, with the stamp where TS asks for it (R191, R358). -/
def hostLeft (ep : Nat) (h : Hdr) (s : State) : State :=
  let t := ((s.stamp s.tb : Int) + s.sfld (fCox_TS_CORR_TX_CORR ep) * 4096).toNat
  let n := roundNs t
  postCompl ⟨h, eOk, 1, if h.ts then leBytes 4 (n % 1000000000) ++ leBytes 6 (n / 1000000000) else [], [], false⟩ s

/-- The MAC holds its transmit frames: a catch training sequence of its lane is due or on the line (R92, R138). -/
def State.txHeld (s : State) (ep : Nat) : Bool :=
  s.mode ep == m400 && s.tx ep == txActive && (s.trainDue ep || s.trainSends ep)

/-- TX_FRAME_START: at a frame boundary the next frame is chosen and sent, under KIND 3 into the port's own receive side too (R29, R92, R138, R505). -/
def execTxFrameStart (ep : Nat) (s : State) : Host.Outcome State Fault Refusal :=
  .next (
    if !s.macSends ep || (s.tx ep != txRampUp && s.tx ep != txActive) || s.txHeld ep then s
    else match nextTx (s.lane ep) with
      | none => s
      | some (f, l) =>
        let n := f.data.length + 4
        let s1 := (s.setLane ep { l with
          txBytes := (l.txBytes + n) % 2 ^ 64
          looped := if s.fld (fLn_PRBS_STAT_LOOP ep) = 3 then l.looped ++ [(f.data, !f.bad)] else [] }).emit (.frame ep f.data (!f.bad))
        let s2 := countLn ep 5 (txClass f.src) n (countLn ep 4 (txClass f.src) 1 s1)
        match f.src with
        | .express _ _ => s2
        | .media port due trs ends => tornCheck port ends (mediaLeft port due trs n s2)
        | .host h => hostLeft ep h s2)

end Sys2Proof.Machine
end

