-- ==== Sys2Proof/Machine/LaneCal.lean ====
section
/-! DEFINITION. Converter calibration of a lane, and the snapshots of FDE_TAP and CAL_VAL (R100, R104-R120). -/

namespace Sys2Proof.Machine

/-- The limit of a quantity (R111). -/
def State.calLimit (s : State) (n q : Nat) : Int :=
  match q with
  | 0 => s.fld (fLn_CAL_LIM0_GAIN n)
  | 1 => s.fld (fLn_CAL_LIM0_OFS n)
  | 2 => s.fld (fLn_CAL_LIM1_SKEW n)
  | _ => s.fld (fLn_CAL_LIM1_BW n)

/-! ## Estimates (R109, R110) -/

/-- The statistics of an estimation window: the trellis decisions of each level; of each slice the number of its samples, their
sum and the sum of their squares; the power in each bin, and the correlation of each bin with its image `m`, for m = 1, 2, … (R109, R110). -/
structure CalStats where
  levels : List Nat
  slices : List (Nat × Int × Nat)
  power  : List Nat
  image  : List (List (Int × Int))
  deriving DecidableEq, Repr

/-- Every level holds 23 % to 27 % of the decisions (R109). -/
def CalStats.levelsOk (c : CalStats) : Bool :=
  let n := c.levels.foldl (· + ·) 0
  (List.range 4).all fun i => decide (23 * n ≤ 100 * c.levels.getD i 0 ∧ 100 * c.levels.getD i 0 ≤ 27 * n)

/-- The mean of a list. -/
def meanQ (l : List Rat) : Rat := quot (l.foldl (· + ·) 0) l.length

/-- The mean of slice `i`'s samples, in codes. -/
def CalStats.mean (c : CalStats) (i : Nat) : Rat := let (n, x, _) := c.slices.getD i (0, 0, 0); quot (x : Rat) n

/-- OFS: the slice's mean less the mean over the `k` slices in use, in 1/64 LSB (R110). -/
def CalStats.ofs (c : CalStats) (k i : Nat) : Rat := 64 * (c.mean i - meanQ ((List.range k).map c.mean))

/-- GAIN: the slice's RMS relative to the RMS over the slices in use, in 0.01 % (R110). -/
def CalStats.gain (c : CalStats) (k i : Nat) : Rat :=
  let (n, _, q) := c.slices.getD i (0, 0, 0)
  let all := (c.slices.take k).foldl (fun (a : Nat × Nat) e => (a.1 + e.1, a.2 + e.2.2)) (0, 0)
  10000 * (quot (sqrtQ (quot (q : Rat) n)) (sqrtQ (quot (all.2 : Rat) all.1)) - 1)

/-- The place of slice `i` among the `k` slices in use in the order of the samples: in M400 half A takes the even ones and half B
the odd ones, and within a half the slices take turns (R71) (DESIGN CHOICE, log entry 84). -/
def sliceTurn (k i : Nat) : Nat := if k = 16 then (if i < 8 then 2 * i else 2 * (i - 8) + 1) else i

/-- The image-to-signal ratio of slice `i` at bin `b`: the images of the bin carry the slices' differences as the discrete
Fourier transform over their turns (R110) (DESIGN CHOICE, log entry 84). -/
def CalStats.ratio (c : CalStats) (k i b : Nat) : Cx :=
  Cx.sum ((List.range (k - 1)).map fun m =>
    let v := (c.image.getD m []).getD b (0, 0)
    ((Cx.mk (v.1 : Rat) (v.2 : Rat)).over (c.power.getD b 0 : Rat)).mul (turn256 (256 / k * (m + 1) * sliceTurn k i)))

/-- The least-squares factor of a quantity over bins 1 to 127 proportional to a power of the bin's frequency. -/
def fitPower (p : Nat) (v : Nat → Rat) : Rat :=
  let s (f : Nat → Rat) : Rat := (List.range 127).foldl (fun a i => a + f (i + 1)) 0
  s (fun b => (b : Rat) ^ p * v b) / s (fun b => (b : Rat) ^ (2 * p))

/-- π to 30 decimal places. -/
def piQ : Rat := (3141592653589793238462643383279 : Rat) / 10 ^ 30

/-- SKEW: the quadrature part of the ratio, fitted as proportional to frequency, as a delay in 0.01 ps at a symbol rate in
10^-4 GBd (R110) (DESIGN CHOICE, log entry 84). -/
def CalStats.skew (c : CalStats) (k baud i : Nat) : Rat :=
  quot (fitPower 1 (fun b => (c.ratio k i b).im) * 256 * 10 ^ 9) (2 * piQ * baud)

/-- BW: the in-phase part of the ratio, fitted as proportional to the square of frequency (R110) (DESIGN CHOICE, log entry 84). -/
def CalStats.bw (c : CalStats) (k baud i : Nat) : Rat := fitPower 2 (fun b => (c.ratio k i b).re) * Config.bwUnit baud

/-- The raw estimate of a slice's quantity (R110). -/
def CalStats.raw (c : CalStats) (k baud i q : Nat) : Rat :=
  match q with
  | 0 => c.gain k i
  | 1 => c.ofs k i
  | 2 => c.skew k baud i
  | _ => c.bw k baud i

/-- A raw estimate less the mean over the slices in use (R106). -/
def meanFree (raw : Nat → Rat) (k i : Nat) : Rat := raw i - (((List.range k).map raw).foldl (· + ·) 0) / k

/-! ## CHECK (R111, R113) -/

/-- The anchor nearest T, the lower one on a tie, and its weight at T (R113). -/
def nearAnchor (t : Rat) : Nat × Rat :=
  let (i, w) := anchorAt t
  if w ≤ 1 / 2 then (i, 1 - w) else (i + 1, w)

/-- The anchor value that an accepted estimate gives (R113): computed before rounding, then rounded half-up. -/
def newAnchor (s : State) (n : Nat) (t e : Rat) (slice q : Nat) : Int :=
  let (a, w) := nearAnchor t
  roundHalfUp ((s.anchor n slice q a : Rat) + (e - coefAt (s.anchor n slice q) t) / w)

/-- The candidate anchor and active value of every coefficient in use: (slice, quantity, anchor value, active value). -/
def calCandidates (s : State) (n : Nat) (t : Rat) (est : Nat → Nat → Rat) : List (Nat × Nat × Int × Int) :=
  let k := s.slices n
  (List.range k).flatMap fun sl => (List.range 4).map fun q =>
    let av := newAnchor s n t (meanFree (fun i => est i q) k sl) sl q
    let a := (nearAnchor t).1
    (sl, q, av, roundHalfUp (coefAt (fun i => if i = a then av else s.anchor n sl q i) t))

/-- A candidate lies within its limit (R111). -/
def withinLimit (s : State) (n : Nat) (c : Nat × Nat × Int × Int) : Bool :=
  decide (-(s.calLimit n c.2.1) ≤ c.2.2.1 ∧ c.2.2.1 ≤ s.calLimit n c.2.1
    ∧ -(s.calLimit n c.2.1) ≤ c.2.2.2 ∧ c.2.2.2 ≤ s.calLimit n c.2.1)

/-- The steps that a change takes at its quantity's rate (R115). -/
def stepsFor (q : Nat) (d : Rat) : Nat := (d.abs / calRate q).ceil.toNat

/-- The steps S of an accepted pass (R115). -/
def calSteps (s : State) (n : Nat) (cs : List (Nat × Nat × Int × Int)) : Nat :=
  cs.foldl (fun m c => max m (stepsFor c.2.1 ((c.2.2.2 : Rat) - s.activeExact n c.1 c.2.1))) 0

/-- APPLY begins, and the outputs of R117 hold with STALE = 1: MERIT, CAL_VAL of an active value and the statistics stream. -/
def holdOutputs (n : Nat) (s : State) : State :=
  let s1 := (s.setFld (fLn_MERIT_STALE n) 1).setFld (fCh_OUT_STALE (16 + n)) 1
  if s1.fld (fLn_CAL_SEL_SET n) = 7 then s1.setFld (fLn_CAL_VAL_STALE n) 1 else s1

/-- CHECK accepts: the anchors update, FAIL_CNT becomes 0 and APPLY begins (R111, R113, R115, R117). A pass that changes nothing has
no step: it ends at once (DESIGN CHOICE, log entry 109). -/
def calAccept (n : Nat) (t : Rat) (cs : List (Nat × Nat × Int × Int)) (s0 : State) : State :=
  let s := trackCal n s0
  let a := (nearAnchor t).1
  let steps := calSteps s n cs
  let old := calTable (s.activeExact n)
  let s1 := s.modLane n fun l => { l with
    anchors := cs.foldl (fun m c => Tab.set m (c.1, c.2.1, a) c.2.2.1) l.anchors,
    active := old, calFrom := old, calTarget := cs.map (fun c => ((c.1, c.2.1), (c.2.2.2 : Rat))), calS := steps, calStep := 0 }
  let s2 := ((s1.setFld (fLn_CAL_STAT_FAIL_CNT n) 0).setFld (fLn_CAL_STAT_PHASE n) 3).setSFld (fLn_CAL_TEMP_PASS_T n) (roundFree t)
  if steps = 0 then calFinish n s2 else holdOutputs n s2

/-- CHECK rejects (R111). -/
def calReject (n : Nat) (cs : List (Nat × Nat × Int × Int)) (s : State) : State :=
  let bad := fun q => cs.any fun c => c.2.1 == q && !withinLimit s n c
  let fq := (List.range 4).foldl (fun m q => if bad q then m + 2 ^ q else m) 0
  let s1 := ((s.setFld (fLn_CAL_STAT_FAIL_Q n) fq).addSat (fLn_CAL_STAT_FAIL_CNT n)).setFld (fLn_CAL_STAT_PHASE n) 0
  let s2 := raise_ (fLn_CAL_EVENT_PASS_FAIL n) s1
  if s.fld (fLn_CAL_STAT_FAIL_CNT n) ≠ s.fld (fLn_CAL_CTL_FAIL_MAX n)
      ∧ s1.fld (fLn_CAL_STAT_FAIL_CNT n) = s.fld (fLn_CAL_CTL_FAIL_MAX n)
  then raise_ (fLn_CAL_EVENT_FAIL_LIMIT n) s2 else s2

/-- T_p: the mean of the calibration temperatures of the window (R112); each reading weighs alike, whatever share of the window it
held (DESIGN CHOICE, log entry 123). -/
def State.passTemp (s : State) (n : Nat) : Rat := quot ((s.lane n).calTsum : Rat) (s.lane n).calTn

/-- CAL_ESTIMATE_END: 2^WIN_LOG2 symbols of the window have come; the level and temperature tests, then CHECK (R108-R113). -/
def execCalEstimateEnd (lane : Nat) (levels : List Nat) (slices : List (Nat × Int)) (squares power : List Nat)
    (image : List (List (Int × Int))) (s : State) : Host.Outcome State Fault Refusal :=
  .next (
    let l := s.lane lane
    let c : CalStats := ⟨levels, (slices.zip squares).map fun e => (e.1.1, e.1.2, e.2), power, image⟩
    if s.fld (fLn_CAL_STAT_PHASE lane) ≠ 1 ∨ s.rx lane ≠ rxLocked ∨ levels.foldl (· + ·) 0 ≠ 2 ^ l.calWin then s
    else if !c.levelsOk || decide (32 < l.calTmax - l.calTmin) then calAbandon lane s
    else
      let t := s.passTemp lane
      let baud := modeBaud (s.mode lane) (s.fld (fLn_MODE_STAT_VARIANT lane))
      let cs := calCandidates s lane t (c.raw (s.slices lane) baud)
      if cs.all (withinLimit s lane) then calAccept lane t cs s else calReject lane cs s)

/-- CAL_PASS_START: the interval has expired; out of LOCKED the pass waits for the next LOCK_GAINED (R107). -/
def execCalPassStart (lane : Nat) (s : State) : Host.Outcome State Fault Refusal :=
  .next (
    if !s.on (fLn_CAL_CTL_EN lane) || s.fld (fLn_CAL_STAT_PHASE lane) != 0 then s
    else if s.rx lane = rxLocked then calStart lane s
    else s.modLane lane ({ · with calDue := true }))

/-- CAL_APPLY_STEP: every coefficient moves by its change over S; APPLY pauses outside LOCKED and ends at step S (R115, R116). -/
def execCalApplyStep (lane : Nat) (s : State) : Host.Outcome State Fault Refusal :=
  .next (
    let l := s.lane lane
    if s.fld (fLn_CAL_STAT_PHASE lane) ≠ 3 ∨ s.rx lane ≠ rxLocked then s
    else if l.calStep + 1 < l.calS then
      s.setLane lane { l with
        calStep := l.calStep + 1
        active := l.calTarget.foldl (fun t e =>
          let v := Tab.get 0 l.calFrom e.1
          Tab.set t e.1 (v + (e.2 - v) * ((l.calStep + 1 : Nat) : Rat) / l.calS)) l.active }
    else calFinish lane s)

/-- A write to CAL_CTL (R107, R109, R116, R120): RUN outside WAIT is E_BUSY; clearing EN abandons an estimate. -/
def writeCalCtl (n : Nat) (v : W32) (s : State) : State :=
  let r := rLn_CAL_CTL n
  match firstFail [
      ((s.unavailable r).isSome, (s.unavailable r).getD 0),
      (v.getLsbD 30 && s.fld (fLn_CAL_STAT_PHASE n) != 0, eBusy),
      (bits v 27 24 == 0 || decide (bits v 20 16 < 20 ∨ 28 < bits v 20 16 ∨ bits v 9 0 < 1 ∨ 1000 < bits v 9 0), eRange)] with
  | some st => rejectReg r st s
  | none =>
    let s1 := s.setReg r (v &&& 0x8F1F03FF#32)
    if !v.getLsbD 31 then calAbandon n s1
    else if v.getLsbD 30 && s1.rx n == rxLocked then calStart n s1
    else s1

/-- CAL_RUN (R107). -/
def execCalRun (lane : Nat) (v : W32) (s : State) : Host.Outcome State Fault Refusal :=
  .next (hostAccess (fun s => if lane < 8 then writeCalCtl lane v s else s) s)

/-! ## Snapshots (R100, R117) -/

/-- A write to FDE_SEL requests a snapshot of the selected tap; a later one replaces it (R100). -/
def writeFdeSel (n : Nat) (v : W32) (s : State) : State :=
  match s.unavailable (rLn_FDE_SEL n) with
  | some st => rejectReg (rLn_FDE_SEL n) st s
  | none => ((s.setFld (fLn_FDE_SEL_BIN n) (bits v 7 0)).modLane n ({ · with fdeReq := some (bits v 7 0) })).resultPending (rLn_FDE_TAP n)

/-- FDE_SEL (R100). -/
def execFdeSel (lane : Nat) (v : W32) (s : State) : Host.Outcome State Fault Refusal :=
  .next (hostAccess (fun s => if lane < 8 then writeFdeSel lane v s else s) s)

/-- A write to CAL_SEL (R117, R120). -/
def writeCalSel (n : Nat) (v : W32) (s : State) : State :=
  match firstFail [((s.unavailable (rLn_CAL_SEL n)).isSome, (s.unavailable (rLn_CAL_SEL n)).getD 0),
      (bits v 10 8 == 5 || bits v 10 8 == 6, eRange)] with
  | some st => rejectReg (rLn_CAL_SEL n) st s
  | none => ((s.setReg (rLn_CAL_SEL n) (v &&& 0x73F#32)).modLane n ({ · with calReq := some (bits v 10 0) })).resultPending (rLn_CAL_VAL n)

/-- CAL_SEL (R117). -/
def execCalSel (lane : Nat) (v : W32) (s : State) : Host.Outcome State Fault Refusal :=
  .next (hostAccess (fun s => if lane < 8 then writeCalSel lane v s else s) s)

/-- An FDE snapshot becomes ready; bins 129-255 report the conjugate of bin 256 - BIN (R72, R100). The conjugate of an imaginary code
of -16,384 does not fit 15 bits, and what is then reported is free (DESIGN CHOICE, log entry 104). -/
def fdeReady (n : Nat) (s : State) : State :=
  match (s.lane n).fdeReq with
  | none => s
  | some b =>
    let t := Tab.get (0, 0) (s.lane n).taps (if b ≤ 128 then b else 256 - b)
    let s1 := s.modLane n ({ · with fdeReq := none })
    let im := if b ≤ 128 then t.2 else if t.2 = -16384 then (Config.conjIm b).toInt else -t.2
    let s2 := (s1.setSFld (fLn_FDE_TAP_RE n) t.1).setSFld (fLn_FDE_TAP_IM n) im
    s2.resultReady (rLn_FDE_TAP n)

/-- A calibration snapshot becomes ready; an active value reads as before the pass, with STALE, during APPLY, and otherwise as it has
followed the temperature (R114, R117). -/
def calReady (n : Nat) (s0 : State) : State :=
  match (s0.lane n).calReq with
  | none => s0
  | some sel =>
    let s := trackCal n s0
    let slice := sel % 16
    let q := sel / 16 % 4
    let set := sel / 256 % 8
    let held := decide (s.fld (fLn_CAL_STAT_PHASE n) = 3)
    let v := if set = 7 then
        (if held then roundHalfUp (Tab.get 0 (s.lane n).calFrom (slice, q)) else s.activeCoef n slice q)
      else s.anchor n slice q set
    let stale := if set = 7 ∧ held then 1 else 0
    let s1 := ((s.modLane n ({ · with calReq := none })).setSFld (fLn_CAL_VAL_VALUE n) v).setFld (fLn_CAL_VAL_STALE n) stale
    s1.resultReady (rLn_CAL_VAL n)

end Sys2Proof.Machine
end

