-- ==== Sys2Proof/Machine/LaneCode.lean ====
section
/-! DEFINITION. The outer code's counters and degrade monitor, alignment lock, and the PRBS checker of a lane
(R125-R129, R152, R508-R513). -/

namespace Sys2Proof.Machine

/-- The FEC counter pair `j` of a lane: 0 CW, 1 CORR_CW, 2 UNCORR_CW, 3 SYM, 4 INNER (R152) (DEDUCED, log entry 27). -/
def addFec (n j d : Nat) (s : State) : State := add48 (rLn_FEC_PAIR_LO n j) (rLn_FEC_PAIR_HI n j) d s

/-- The degrade window is judged and the next begins (R129). -/
def judgeDegrade (n : Nat) (s : State) : State :=
  let l := s.lane n
  let syms := 544 * l.degCw
  let c := l.degC * 2 ^ 24
  let s1 := s.setLane n { l with degCw := 0, degC := 0 }
  if !s.on (fLn_FEC_STAT_DEGRADED n) then
    if s.fld (fLn_FEC_DEG_SET n) * syms < c then raise_ (fLn_FEC_EVENT_DEG_SET n) (s1.setFld (fLn_FEC_STAT_DEGRADED n) 1) else s1
  else if c ≤ s.fld (fLn_FEC_DEG_CLR n) * syms then
    raise_ (fLn_FEC_EVENT_DEG_CLR n) (s1.setFld (fLn_FEC_STAT_DEGRADED n) 0)
  else s1

/-- The degrade window has its 2^DEG_WIN codewords (R129). -/
def State.degFull (s : State) (n : Nat) : Bool := decide (2 ^ s.fld (fLn_FEC_CTL_DEG_WIN n) ≤ (s.lane n).degCw)

/-- A decoded codeword enters the degrade window: an uncorrectable one counts as 16 corrected symbols (R129). -/
def degCount (n c : Nat) (s : State) : State :=
  let s1 := if s.degFull n then judgeDegrade n s else s
  s1.modLane n fun l => { l with degCw := l.degCw + 1, degC := l.degC + c }

/-- A codeword goes on to the receive PCS. In M400 a codeword A waits for its B, and the pair's messages are interleaved again
(R126); whether it was uncorrectable marks the frames that overlap it (R27, R125). -/
def toPcs (n : Nat) (msg : List Nat) (bad : Bool) (s : State) : State :=
  s.modLane n fun l =>
    let l1 := { l with cwBad := (bad :: l.cwBad).take 64 }
    if s.mode n = m400 then
      match l.pairA with
      | none => { l1 with pairA := some msg }
      | some a => { l1 with pairA := none, restored := interleave a msg, rxPairs := l.rxPairs + 1 }
    else { l1 with restored := msg }

/-- Corrected symbols count on the lane on which their bits arrived; `from_` gives the lane of each symbol of the codeword (R127). -/
def countSyms (n : Nat) (places from_ : List Nat) (s : State) : State :=
  (s.portLanes n).foldl (fun a m => addFec m 3 ((places.filter fun i => from_.getD i n == m).length) a) s

/-- The bits of a codeword (R125). -/
abbrev rsWordBits := 5440

/-- The receiver of a port's base lane passes data to the RS decoder: not in WAKE before the start marker, and in IDLE only what came
before the idle marker (R87, R143) (DEDUCED, log entry 122). -/
def State.takesData (s : State) (n : Nat) : Bool :=
  s.rx n != rxWake && (s.rx n != rxIdle || decide (rsWordBits ≤ (s.lane n).rsBits))

/-- RS_CODEWORD_DECODED: the message and the parity symbols of a received codeword and the lanes on which they came. They are decoded, the counters
and the histogram of the base lane and the lanes' symbol counters grow, and the message goes on to the PCS (R125-R127, R129).
Data reaches the decoder only while the port is up, and in M400 not in WAKE, nor in IDLE beyond the codewords whose bits came before
the marker (R87, R93, R143) (DEDUCED, log entry 122). -/
def execRsCodewordDecoded (lane : Nat) (msg parity from_ : List Nat) (s : State) : Host.Outcome State Fault Refusal :=
  .next (
    if s.mode lane = 0 ∨ s.portBase lane ≠ lane ∨ s.on (fLn_PRBS_STAT_CHK lane) = true ∨ s.portUp lane = false
        ∨ s.takesData lane = false ∨ msg.length ≠ 514 ∨ parity.length ≠ 30 then s
    else
      let rx := msg ++ parity
      let r := rsDecode rx
      let bin := match r with | some (_, places) => places.length | none => 16
      let s1 := addFec lane 0 1 (s.modLane lane fun l => { l with rsBits := l.rsBits - rsWordBits })
      let s2 := s1.modLane lane fun l => { l with hist := Tab.set l.hist bin (min 0xFFFFFFFF (Tab.get 0 l.hist bin + 1)) }
      let s3 := toPcs lane (((r.map (·.1)).getD rx).take 514) r.isNone (degCount lane bin s2)
      match r with
      | some (_, places) => if places.isEmpty then s3 else addFec lane 1 1 (countSyms lane places from_ s3)
      | none => raiseSlow (fLn_FEC_EVENT_UNCORR lane) (addFec lane 2 1 s3))

/-- DEGRADE_WINDOW_END: the window's 2^DEG_WIN codewords have come, with `corrected` symbols corrected among them: the count that the
lane holds (R129). A row with another count is no such event. -/
def execDegradeWindowEnd (lane corrected : Nat) (s : State) : Host.Outcome State Fault Refusal :=
  .next (if s.mode lane ≠ 0 ∧ s.portBase lane = lane ∧ s.degFull lane = true ∧ (s.lane lane).degC = corrected then
      judgeDegrade lane s else s)

/-- A write to FEC_CTL: CLR sets every counter of the lane to 0 (R128, R152). -/
def writeFecCtl (n : Nat) (v : W32) (s : State) : State :=
  let r := rLn_FEC_CTL n
  match firstFail [((s.unavailable r).isSome, (s.unavailable r).getD 0),
      (decide (bits v 4 0 < 16 ∨ 28 < bits v 4 0), eRange)] with
  | some st => rejectReg r st s
  | none =>
    let s1 := s.setFld (fLn_FEC_CTL_DEG_WIN n) (bits v 4 0)
    if v.getLsbD 31 then clearFec n s1 else s1

/-- FEC_CLR (R128). -/
def execFecClr (lane : Nat) (v : W32) (s : State) : Host.Outcome State Fault Refusal :=
  .next (hostAccess (fun s => if lane < 8 then writeFecCtl lane v s else s) s)

/-- ALIGN_LOCK_CHANGE: FEC_STAT.ALIGN of the base lane; its loss raises ALIGN_LOST (R152). -/
def execAlignLockChange (lane : Nat) (locked : Bool) (s : State) : Host.Outcome State Fault Refusal :=
  .next (
    if s.mode lane = 0 ∨ s.portBase lane ≠ lane then s
    else
      let s1 := s.setFld (fLn_FEC_STAT_ALIGN lane) (if locked then 1 else 0)
      if s.on (fLn_FEC_STAT_ALIGN lane) && !locked then raise_ (fLn_FEC_EVENT_ALIGN_LOST lane) s1 else s1)

/-! ## PRBS (R508-R513) -/

/-- A field of LANE_PRBS outside R376 and R511; target 8 and 9 are CX0 and CX1. -/
def prbsRange (target : Nat) (gen : Bool) (pattern inj arg : Nat) : Bool :=
  decide (9 < target ∨ 7 < pattern ∨ 3 < inj) || (decide (8 ≤ target) && decide (6 ≤ pattern))
  || (inj != 0 && !gen) || (decide (inj ≤ 1) && arg != 0)
  || (inj == 2 && decide (arg < 1 ∨ 1024 < arg)) || (inj == 3 && decide (arg < 2))

/-- The one-shot injections that a LANE_PRBS makes (R511). -/
def oneShot (inj arg : Nat) : Nat := if inj = 1 then 1 else if inj = 2 then arg else 0

/-- LANE_PRBS on a lane replaces the generator, checker and injection settings (R509-R512). -/
def lanePrbsBegin (h : Hdr) (n : Nat) (gen chk : Bool) (pattern inj arg : Nat) (s : State) : State :=
  let was := s.on (fLn_PRBS_STAT_CHK n)
  let s1 := (((endInj n s).setFld (fLn_PRBS_STAT_GEN n) (if gen then 1 else 0)).setFld (fLn_PRBS_STAT_CHK n) (if chk then 1 else 0)).setFld
    (fLn_PRBS_STAT_PATTERN n) pattern
  let s2 := if chk then
      ((s1.setFld (fLn_PRBS_STAT_SYNC n) 0).setFld (fLn_PRBS_STAT_SYNC_LOSS n) 0).clearRegs
        (fun r => r.blk == .ln && r.inst == n && (0x504 ≤ r.off && r.off ≤ 0x510))
    else s1.setFld (fLn_PRBS_STAT_SYNC n) 0
  let s3 := (s2.modLane n ({ · with chk := {}, inj := inj, injArg := arg, injAt := s.up })).addSat (fLn_PRBS_STAT_INJ n) (oneShot inj arg)
  let s4 := if gen then discardHeld (s3.portBase n) (cancelTrain n s3) else s3
  let s5 := if was != chk then retrainRx n s4 else s4
  complete h eOk [] s5

/-- The SYNC that a lane's checker has come to, with the bits and errors that it compared in SYNC where it lost it (R510). A row with
another SYNC or other counts is no such event. -/
def prbsSync (n : Nat) (sync : Bool) (bitsN errs : Nat) (s : State) : State :=
  let c := (s.lane n).chk
  if s.on (fLn_PRBS_STAT_CHK n) && s.on (fLn_PRBS_STAT_SYNC n) != sync && c.sync == sync && (sync || (c.bits == bitsN && c.errs == errs)) then
    let s1 := s.setFld (fLn_PRBS_STAT_SYNC n) (if sync then 1 else 0)
    if sync then s1 else s1.addSat (fLn_PRBS_STAT_SYNC_LOSS n)
  else s

end Sys2Proof.Machine
end

