-- ==== Sys2Proof/Machine/LaneTest.lean ====
section
/-! DEFINITION. LANE_LOOP, LANE_PRBS and the PRBS checkers' SYNC, on a lane or a cox link (R379, R505-R512). -/

namespace Sys2Proof.Machine

/-- The BIST bits of a LANE_LOOP or LANE_PRBS target (R370, R497). -/
def loopBits (target : Nat) : List Nat := if target < 8 then [target] else if target < 10 then [39 + (target - 8)] else []

/-- The conditions that LANE_LOOP and LANE_PRBS share (R379), after their ranges. -/
def loopChecks (target : Nat) (s : State) : List (Bool × Nat) :=
  [(decide (target < 8) && s.on (fLn_MODE_STAT_BUSY target), eBusy),
   (if target < 8 then s.tx target == txOff else !s.on (fCx_CTL_EN (target - 8)) || s.carriesCrew, eState)]

/-- LANE_LOOP (R379, R505-R507). -/
def execLaneLoop (h : Hdr) (target kind : Nat) (s : State) : Host.Outcome State Fault Refusal :=
  .next (command h (.laneLoop h target kind) (s.gate h true (loopBits target) ++
      (decide (9 < target ∨ 3 < kind) || (decide (8 ≤ target) && kind == 3), eRange) :: loopChecks target s ++
      [(decide (target < 8) && kind == 3 && s.portBase target != target, eState)])
    (if target < 8 then laneLoopBegin h target kind else coxLoopBegin h (target - 8) kind) s)

/-- LANE_PRBS (R379, R509-R512). -/
def execLanePrbs (h : Hdr) (target : Nat) (gen chk : Bool) (pattern inj injArg : Nat) (s : State) :
    Host.Outcome State Fault Refusal :=
  .next (command h (.lanePrbs h target gen chk pattern inj injArg) (s.gate h true (loopBits target) ++
      (prbsRange target gen pattern inj injArg, eRange) :: loopChecks target s)
    (if target < 8 then lanePrbsBegin h target gen chk pattern inj injArg
     else coxPrbsBegin h (target - 8) gen chk pattern inj injArg (oneShot inj injArg)) s)

/-- The SYNC of a cox link's checker changes (R510, R514). -/
def coxPrbsSync (n : Nat) (sync : Bool) (bitsN errs : Nat) (s : State) : State :=
  if !s.on (fCx_PRBS_STAT_CHK n) then s
  else
    let s1 := s.setFld (fCx_PRBS_STAT_SYNC n) (if sync then 1 else 0)
    if s.on (fCx_PRBS_STAT_SYNC n) then
      let s2 := (add48 (rCx_PRBS_BITS_LO n) (rCx_PRBS_BITS_HI n) bitsN s1).addSat (fCx_PRBS_ERR_COUNT n) errs
      if sync then s2 else s2.addSat (fCx_PRBS_STAT_SYNC_LOSS n)
    else s1

/-- PRBS_SYNC_CHANGE (R510): `bits` and `errs` are what the checker compared in SYNC since the last change. A lane's checker follows its
decisions, and a cox link's counts are those reported (DEDUCED, log entry 26). -/
def execPrbsSyncChange (target : Nat) (sync : Bool) (bits errs : Nat) (s : State) : Host.Outcome State Fault Refusal :=
  .next (if target < 8 then prbsSync target sync bits errs s
    else if target < 10 then coxPrbsSync (target - 8) sync bits errs s else s)

end Sys2Proof.Machine
end

