-- ==== Sys2Proof/Machine/Thermal.lean ====
section
/-! DEFINITION. Sensors, temperature bands, beam refresh rate, throttling, ageing and the margin planner (R286, R287,
R461-R477). -/

namespace Sys2Proof.Machine

def State.modThm (s : State) (f : ThmSt → ThmSt) : State := { s with thm := f s.thm }
def State.band (s : State) : Nat := s.fld fThm_STAT_BAND
/-- Sensor `i` is excluded (R462). -/
def State.excluded (s : State) (i : Nat) : Bool := (s.reg rThm_EXCL).getLsbD i

/-! ## Sensors (R461-R463) -/

/-- A reading, in 1/16 °C, lies within −40 to 150 °C (R462). -/
def sensorOk (v : Int) : Bool := decide (-640 ≤ v ∧ v ≤ 2400)

/-- One sensor at a sample: `none` is an interval without a reading (R462) (DEDUCED, log entry 62). -/
def takeSensor (i : Nat) (v : Option Int) (s : State) : State :=
  let t := s.thm
  match v with
  | none =>
    let n := Tab.get 0 t.missed i + 1
    let s1 := s.modThm ({ · with missed := Tab.set t.missed i n })
    if 2 ≤ n then
      (s1.modThm ({ · with good := Tab.set t.good i 0 })).setReg rThm_EXCL (s1.reg rThm_EXCL ||| BitVec.ofNat 32 (2 ^ i))
    else s1
  | some x =>
    let good := if sensorOk x then Tab.get 0 t.good i + 1 else 0
    let s1 := s.modThm ({ · with temps := Tab.set t.temps i x, missed := Tab.set t.missed i 0, good := Tab.set t.good i (min 2 good) })
    if !sensorOk x then s1.setReg rThm_EXCL (s1.reg rThm_EXCL ||| BitVec.ofNat 32 (2 ^ i))
    else if 2 ≤ good then s1.setReg rThm_EXCL (s1.reg rThm_EXCL &&& ~~~(BitVec.ofNat 32 (2 ^ i)))
    else s1

/-- The readings of the listed sensors that are not excluded. -/
def State.readings (s : State) (l : List Nat) : List (Nat × Int) :=
  l.filterMap fun i => if s.excluded i then none else (Tab.find s.thm.temps i).map fun v => (i, v)

/-- The largest reading and the sensor that gives it, the first on a tie. -/
def hottest : List (Nat × Int) → Option (Nat × Int)
  | [] => none
  | e :: r => some (r.foldl (fun m x => if m.2 < x.2 then x else m) e)

/-- The calibration temperature of a lane's AFE chiplet (R112, R463) (DEDUCED, log entry 62). -/
def State.afeTemp (s : State) (lane : Nat) : Option Int :=
  match hottest (s.readings (if lane < 4 then [12, 13] else [14, 15])) with
  | some e => some e.2
  | none => (hottest (s.readings (List.range 12))).map (·.2)

/-- A lane's calibration temperature is updated: the active coefficients have followed the last one, or take c(T) where this is
the first; an estimation window takes the sample, and is abandoned where it spans more than 2 °C (R109, R112, R114, R119). -/
def laneTemp (n : Nat) (s : State) : State :=
  match s.afeTemp n with
  | none => s
  | some t =>
    let s1 := ((trackCal n s).modLane n ({ · with temp := some t })).setSFld (fLn_CAL_TEMP_T n) t
    let s2 := s1.modLane n fun l => { l with
      calTmin := min l.calTmin t, calTmax := max l.calTmax t, calTsum := l.calTsum + t, calTn := l.calTn + 1
      active := if l.active.isEmpty then calTable (s1.activeExact n) else l.active }
    if s.fld (fLn_CAL_STAT_PHASE n) = 1 ∧ 32 < (s2.lane n).calTmax - (s2.lane n).calTmin then calAbandon n s2 else s2

/-- POR and PERST: every active value of the lanes is c(T) of the factory anchors, where the temperature is known (R119). -/
def loadCal (s : State) : State := (List.range 8).foldl (fun a n => laneTemp n a) s

/-! ## Refresh (R286, R287) -/

/-- The refresh multiplier that the band and the active plan ask for, as BMk.STAT.REF_MULT codes it. -/
def State.refWanted (s : State) : Nat :=
  min 2 ((if s.band < 2 then 0 else if s.band = 2 then 1 else 2) + s.thm.active.guard)

/-- A higher multiplier is used at once (R287). -/
def raiseRefresh (s : State) : State :=
  (List.range 16).foldl (fun a k =>
    if a.fld (fBm_STAT_REF_MULT k) < a.refWanted then a.setFld (fBm_STAT_REF_MULT k) a.refWanted else a) s

/-- REFRESH_RATE_DROP: the lower band has held for 1 s and the port lowers its multiplier one step (R287) (DEDUCED, log entry 63). -/
def execRefreshRateDrop (k : Nat) (s : State) : Host.Outcome State Fault Refusal :=
  .next (if k < 16 ∧ s.refWanted < s.fld (fBm_STAT_REF_MULT k) then
    s.setFld (fBm_STAT_REF_MULT k) (s.fld (fBm_STAT_REF_MULT k) - 1) else s)

/-! ## Bands (R465-R469) -/

/-- The lower edge of a band, in 1/16 °C (R465). -/
def bandEdge : Nat → Int
  | 1 => 800 | 2 => 1200 | 3 => 1440 | 4 => 1600 | _ => -32768

/-- The band of a maximum (R465). -/
def bandOf (t : Int) : Nat := if t < 800 then 0 else if t < 1200 then 1 else if t < 1440 then 2 else if t < 1600 then 3 else 4

/-- Throttling follows the band and THROT_EN (R468), and ALERT_N the band and the beam-stack sensors (R469). -/
def followBand (s : State) : State :=
  let th := s.band == 4 && s.on fThm_CTL_THROT_EN
  let s1 := if th && !s.on fThm_STAT_THROT then raise_ fThm_EVENT_THROTTLE (s.setFld fThm_STAT_THROT 1)
    else s.setFld fThm_STAT_THROT (if th then 1 else 0)
  let al := s.band == 4 || !s.thm.hot.isEmpty
  if al != s.thm.alert then (s1.modThm ({ · with alert := al })).emit (.pin "ALERT_N" (if al then some false else none)) else s1

/-- The band becomes `b` (R465). -/
def setBand (b : Nat) (e : FldId) (s : State) : State :=
  followBand (raiseRefresh (raise_ e ((s.setFld fThm_STAT_BAND b).modThm ({ · with low := 0 }))))

/-- The maximum of a sample acts on the band: it rises at once; samples 2 °C below its edge are counted (R465). -/
def judgeMax (t : Int) (s : State) : State :=
  if s.band < bandOf t then
    let s1 := setBand (bandOf t) fThm_EVENT_BAND_UP s
    if 3 ≤ bandOf t then wake 6 s1 else s1
  else s.modThm fun m => { m with low := if 0 < s.band ∧ t < bandEdge s.band - 32 then min 10 (m.low + 1) else 0 }

/-- Beam-stack sensors that read 95 °C or more, excluded or not; each rise through it raises BEAM_HOT (R469). -/
def judgeHot (s : State) : State :=
  let hot := ((List.range 16).map (· + 16)).filter fun i =>
    Tab.get 0 s.thm.missed i < 2 && (Tab.find s.thm.temps i).any (fun t => decide (1520 ≤ t))
  let s1 := if hot.any (!s.thm.hot.contains ·) then raise_ fThm_EVENT_BEAM_HOT s else s
  s1.modThm ({ · with hot := hot })

/-- SENS_VAL is ready at each sample (R477). -/
def showSensor (s : State) : State :=
  let i := s.fld fThm_SENS_SEL_INDEX
  ((s.setFld fThm_SENS_VAL_EXCL (if s.excluded i then 1 else 0)).setSFld fThm_SENS_VAL_T (Tab.get 0 s.thm.temps i)).resultReady
    rThm_SENS_VAL

/-- The maximum of the sensors that are not excluded, with all of them excluded the mark 0x7FFF (R462) (DEDUCED, log entry 62). -/
def State.maximum (s : State) : Option (Nat × Int) :=
  if s.reg rThm_EXCL = 0xFFFFFFFF#32 then some (s.fld fThm_STAT_SRC, 0x7FFF) else hottest (s.readings (List.range 32))

/-- A sample of every sensor (R462-R465, R469) (DEDUCED, log entry 62). -/
def sample (l : List (Option Int)) (s : State) : State :=
  let s1 := (List.range 32).foldl (fun a i => takeSensor i (l.getD i none) a) s
  let s2 := if (s1.reg rThm_EXCL &&& ~~~(s.reg rThm_EXCL)) != 0 then raise_ fThm_EVENT_SENSOR_FAIL s1 else s1
  let s3 := judgeHot (showSensor ((List.range 8).foldl (fun a n => laneTemp n a) s2))
  match s3.maximum with
  | none => followBand s3
  | some (i, t) => followBand (judgeMax t ((s3.setSFld fThm_STAT_MAX t).setFld fThm_STAT_SRC i))

/-- The sample's maximum reaches 110 °C (R470). -/
def State.trips (s : State) : Bool :=
  s.reg rThm_EXCL != 0xFFFFFFFF#32 && (hottest (s.readings (List.range 32))).any (fun e => decide (1760 ≤ e.2))

/-- BAND_DOWN: ten consecutive samples lay 2 °C below the band's edge (R465). -/
def execBandDown (s : State) : Host.Outcome State Fault Refusal :=
  .next (if 0 < s.band ∧ 10 ≤ s.thm.low then setBand (s.band - 1) fThm_EVENT_BAND_DOWN s else s)

/-! ## Ageing and the planner (R471-R475) -/

/-- A write of AGE_SEL starts a measurement (R471). -/
def writeAgeSel (v : W32) (s : State) : State :=
  if 23 < bits v 4 0 then rejectReg rThm_AGE_SEL eRange s
  else ((s.setFld fThm_AGE_SEL_PAIR (bits v 4 0)).modThm ({ · with ageReq := some (bits v 4 0) })).resultPending rThm_AGE_VAL

/-- AGE_SEL (R471). -/
def execAgeSel (v : W32) (s : State) : Host.Outcome State Fault Refusal := .next (aonAccess (writeAgeSel v) s)

/-- The shortfall of a stressed oscillator in ppm of the unstressed one, from their counts (R471). -/
def ageDelta (stressed unstressed : Nat) : Int :=
  roundFree (quot ((((unstressed : Int) - stressed) * 1000000 : Int) : Rat) unstressed)

/-- AGE_MEASURE_DONE: the shortfall of the stressed oscillator in ppm of the unstressed one (R471). -/
def execAgeMeasureDone (stressed unstressed : Nat) (s : State) : Host.Outcome State Fault Refusal :=
  .next (
    if s.thm.ageReq.isNone then s
    else ((s.modThm ({ · with ageReq := none })).setSFld fThm_AGE_VAL_DELTA (ageDelta stressed unstressed)).resultReady rThm_AGE_VAL)

/-- PLAN_VAL shows the pending plan, else the active one (R477). -/
def showPlan (s : State) : State :=
  let p := s.thm.waiting.getD s.thm.active
  ((((s.setFld fThm_PLAN_STAT_PENDING (if s.thm.waiting.isSome then 1 else 0)).setFld fThm_PLAN_VAL0_VREQ p.vreq).setFld
    fThm_PLAN_VAL0_REF_GUARD p.guard).setFld fThm_PLAN_VAL1_PLAN_RELAX p.relax).setFld fThm_PLAN_VAL1_EOL p.eol

/-- A plan is applied (R475). -/
def applyPlan (p : Plan) (s : State) : State := raiseRefresh (showPlan (s.modThm ({ · with active := p, waiting := none })))

/-- The EOL mask: channels whose mean code exceeds its reference by more than EOL_PCT percent (R472). -/
def eolMask (refs : Option (List Rat)) (pct : Nat) (means : List Rat) : Nat :=
  match refs with
  | none => 0
  | some r => (List.range 8).foldl (fun m n => if r.getD n 0 * (100 + pct) < means.getD n 0 * 100 then m + 2 ^ n else m) 0

/-- The mean codes of BIAS0-BIAS7 (R472). -/
def State.meanCodes (s : State) : List Rat := (List.range 8).map s.meanCode

/-- The FIRMWARE notice of a plan (R473). -/
def postPlan (p : Plan) (flags : Nat) (s : State) : State :=
  notice 0 0x06 (leBytes 2 0x0101 ++ leBytes 2 (s.fld fThm_PLAN_STAT_SEQ) ++ leBytes 1 flags)
    (leBytes 2 p.vreq ++ leBytes 1 p.guard ++ leBytes 1 p.relax ++ leBytes 1 p.eol) s

/-- A plan is formed: the planner's figures within their ranges, lane and laser items once 24 h of history exist (R472) (DEDUCED, log entry 63). -/
def State.planOf (s : State) (vreq guard relax : Nat) : Plan :=
  let old := 24 ≤ s.thm.hours + s.fld fThm_CTL_PLAN_H ∨ s.thm.readyAt.any (fun t => decide (t + 86400 * secU ≤ s.up))
  { vreq := max 720 (min 790 vreq), guard := min 1 guard, relax := if old then min 6 relax else 0
    eol := if old then eolMask s.thm.refs (s.fld fThm_CTL_EOL_PCT) s.meanCodes else 0 }

/-- PLAN_RUN: the planner, which runs from the first READY on, measures every ageing pair, `stressed` and `unstressed` being its counts, and
the plan is posted, and applied or held as pending (R471-R474) (DEDUCED, log entry 63). -/
def execPlanRun (vreq guard relax : Nat) (stressed unstressed : List Nat) (s : State) : Host.Outcome State Fault Refusal :=
  .next (
    if !s.on fThm_CTL_PLAN_EN || !s.houseRuns || s.thm.readyAt.isNone || s.pState == 3 || s.dark then s
    else
      let p := s.planOf vreq guard relax
      let was := (s.thm.waiting.getD s.thm.active).eol
      let k := s.fld fThm_AGE_SEL_PAIR
      let s0 := (s.setSFld fThm_AGE_VAL_DELTA (ageDelta (stressed.getD k 0) (unstressed.getD k 0))).resultReady rThm_AGE_VAL
      let s1 := (s0.incWrap fThm_PLAN_STAT_SEQ).modThm fun m => { m with
        hours := m.hours + s.fld fThm_CTL_PLAN_H, codeSum := [], codeAt := s.up, planAt := s.up }
      let s2 := if s1.on fThm_CTL_APPROVE then postPlan p 1 (showPlan (s1.modThm ({ · with waiting := some p })))
        else postPlan p 2 (applyPlan p s1)
      if Nat.land p.eol (255 - was) ≠ 0 then raise_ fThm_EVENT_EOL s2 else s2)

/-- A write of PLAN_ACK (R474). -/
def writePlanAck (v : W32) (s : State) : State :=
  match s.thm.waiting with
  | none => rejectReg rThm_PLAN_ACK eState s
  | some p =>
    if bits v 15 0 ≠ s.fld fThm_PLAN_STAT_SEQ then rejectReg rThm_PLAN_ACK eState s
    else if v.getLsbD 31 then applyPlan p s
    else showPlan (s.modThm ({ · with waiting := none }))

/-- PLAN_ACK (R474). -/
def execPlanAck (v : W32) (s : State) : Host.Outcome State Fault Refusal := .next (aonAccess (writePlanAck v) s)

/-- A write of THM.CTL: clearing APPROVE applies a pending plan, REF takes the mean codes as references (R468, R472,
R474, R477). -/
def writeThmCtl (v : W32) (s : State) : State :=
  if bits v 15 8 = 0 ∨ 100 < bits v 15 8 ∨ bits v 7 0 = 0 then rejectReg rThm_CTL eRange s
  else
    let s1 := s.setReg rThm_CTL (v &&& 0xE000FFFF#32)
    let s2 := if v.getLsbD 28 then s1.modThm ({ · with refs := some s.meanCodes }) else s1
    let s3 := match s2.thm.waiting with
      | some p => if v.getLsbD 29 then s2 else applyPlan p s2
      | none => s2
    followBand s3

/-- THM_REF (R472). -/
def execThmRef (v : W32) (s : State) : Host.Outcome State Fault Refusal := .next (aonAccess (writeThmCtl v) s)

/-- A write of THM.BANDb, not below the next lower band's value (R467). -/
def writeBand (b : Nat) (v : W32) (s : State) : State :=
  let x := bits v 7 0
  if 30 < x ∨ (0 < b ∧ x < s.fld (fThm_BAND_LANE_RELAX (b - 1))) then rejectReg (rThm_BAND b) eRange s
  else s.setFld (fThm_BAND_LANE_RELAX b) x

/-- A write of SENS_SEL; the sensor's value is ready at the next sample (R14, R477) (DEDUCED, log entry 63). -/
def writeSensSel (v : W32) (s : State) : State := (s.setFld fThm_SENS_SEL_INDEX (bits v 4 0)).resultPending rThm_SENS_VAL

/-- PERST discards a pending plan (R475). -/
def perstThermal (s : State) : State := showPlan (s.modThm ({ · with waiting := none }))

end Sys2Proof.Machine
end

