-- ==== Sys2Proof/Machine/Query.lean ====
section
/-! DEFINITION. QUERY records (R379, R385) and snapshots that become ready (R100, R117, R239, R267). -/

namespace Sys2Proof.Machine

/-- The index space of a QUERY's KIND (R385). -/
def queryLimit : Nat → Nat
  | 1 => 1024 | 2 => 1024 | 3 => 64 | _ => 2048

/-- The size of the largest range of beam that no bay holds (R385): a free range begins at 0 or at the end of a bay. -/
def State.largestFree (s : State) : Nat :=
  let gap (b : Nat) : Nat :=
    let next := ((s.beam.bays.map (·.2.base)).filter (b ≤ ·)).foldl min beamSize
    if s.beam.bays.any (fun e => decide (e.2.base ≤ b ∧ b < e.2.base + e.2.size)) then 0 else next - b
  ((0 :: s.beam.bays.map fun e => e.2.base + e.2.size).map gap).foldl max 0

/-- The identity that a function's configuration space shows: vendor, device, revision, class code, subsystem vendor and subsystem (R336,
R337). -/
structure PciIds where
  vendor    : Nat
  device    : Nat
  revision  : Nat
  classCode : Nat
  subVendor : Nat
  subsystem : Nat
  deriving DecidableEq, Repr

def State.pciIds (s : State) (fn : Nat) : PciIds :=
  ⟨0xC7E1, if fn = 0 then 0x3208 else 0x3209, 0xB1, 0x048000, s.sec.subsys.1, s.sec.subsys.2⟩

/-- The record of KIND DEVICE (R336, R385): the identity of the PF. -/
def queryDevice (fn : Nat) (s : State) : List Byte :=
  let d := s.pciIds 0
  leBytes 2 d.vendor ++ leBytes 2 d.device ++ leBytes 1 d.revision ++ leBytes 3 fn
    ++ leBytes 8 (s.pair rSec_RUN_RB_LO rSec_RUN_RB_HI) ++ leBytes 2 (4096 - s.entries.length)
    ++ leBytes 2 (s.loom.isps.filter (·.2.state != 0)).length ++ leBytes 2 (s.loom.esps.filter (·.2.state != 0)).length
    ++ leBytes 2 s.beam.bays.length ++ leBytes 8 s.largestFree
    ++ leBytes 2 ((List.range 16).foldl (fun m k => if s.on (fBm_STAT_TRAINED k) then m + 2 ^ k else m) 0)
    ++ leBytes 1 s.pState ++ leBytes 1 s.band ++ tbBytes s.tb

/-- The record of KIND ISP (R239, R385) (DESIGN CHOICE, log entry 18). -/
def queryIsp (p : Option Isp) : List Byte :=
  let w := ispWords p
  leBytes 4 (2 ^ 31 + w.1) ++ leBytes 4 w.2 ++ leBytes 2 (match p with | some x => if x.state = 0 then 0 else x.bolt | none => 0)

/-- A pending take or rewind in a QUERY record: its count, and its bolt or REWIND in `n` bytes, all ones where none pends. -/
def queryPend (n : Nat) (c : Option EspCmd) : List Byte :=
  match c with
  | some x => leBytes 4 x.c ++ leBytes n x.v
  | none => leBytes 4 0 ++ List.replicate n 0xFF

/-- The record of KIND ESP (R267, R385) (DESIGN CHOICE, log entry 18). -/
def queryEsp (p : Option Esp) : List Byte :=
  let (st, shown, c0, c1) := espWords p
  leBytes 4 (2 ^ 31 + st) ++ leBytes 4 shown ++ leBytes 4 c0 ++ leBytes 4 c1 ++
    (match p with
     | some x => if x.state = 0 then leBytes 8 0 ++ padTo 8 (queryPend 2 none) ++ queryPend 4 none
        else padTo 4 (leBytes 2 x.bolt) ++ leBytes 4 x.rewind ++ padTo 8 (queryPend 2 x.take) ++ queryPend 4 x.rew
     | none => leBytes 8 0 ++ padTo 8 (queryPend 2 none) ++ queryPend 4 none)

/-- The record of KIND BAY (R385). -/
def queryBay (b : Nat) (s : State) : List Byte :=
  match s.bay b with
  | none => []
  | some x => leBytes 1 1 ++ leBytes 7 x.owner ++ leBytes 8 x.base ++ leBytes 8 x.size
      ++ leBytes 2 (s.beam.bolts.filter fun e => e.2.bound && e.2.bay == b).length

/-- The record of KIND BOLT (R385). -/
def queryBolt (b : Bolt) : List Byte :=
  leBytes 1 (if b.bound then 1 else 0) ++ leBytes 1 b.kind ++ leBytes 2 b.bay ++ leBytes 4 b.slots ++ leBytes 8 b.ofs
    ++ leBytes 4 b.size
    ++ (match b.writer with
        | none => leBytes 4 0
        | some (.isp p) => leBytes 2 p ++ leBytes 2 1
        | some (.stream sh o) => leBytes 2 (256 * o + sh) ++ leBytes 2 2)
    ++ leBytes 6 (b.newest.getD (2 ^ 48 - 1))

/-- The record of a QUERY (R385) (DESIGN CHOICE, log entry 18). -/
def queryRecord (fn obj kind : Nat) (s : State) : List Byte :=
  padTo 64 (match kind with
    | 0 => queryDevice fn s
    | 1 => queryIsp (s.isp obj)
    | 2 => queryEsp (s.esp obj)
    | 3 => queryBay obj s
    | _ => queryBolt (s.bolt obj))

/-- The function that owns what a QUERY names, if any does (R379). -/
def queryOwner (obj kind : Nat) (s : State) : Option Nat :=
  match kind with
  | 0 => none
  | 1 => (s.isp obj).bind fun p => if p.state = 0 then none else some p.owner
  | 2 => (s.esp obj).bind fun p => if p.state = 0 then none else some p.owner
  | 3 => (s.bay obj).map (·.owner)
  | _ => if (s.bolt obj).ever then (s.bay (s.bolt obj).bay).map (·.owner) else none

/-- QUERY (R379, R385). -/
def execQuery (h : Hdr) (obj kind : Nat) (s : State) : Host.Outcome State Fault Refusal :=
  let fn := s.ownerOf h.qp
  .next (command h (.query h obj kind) (s.gate h false [] ++
      [(decide (4 < kind) || (kind != 0 && decide (queryLimit kind ≤ obj)), eRange),
       (fn != 0 && (queryOwner obj kind s).any (· != fn), ePriv)])
    (fun s => completeRec h eOk (queryRecord fn obj kind s) s) s)

/-- SNAPSHOT_READY: a requested snapshot becomes ready, and its register carries VALID and FRESH (R14, R100, R117, R239,
R267). -/
def execSnapshotReady (k : SnapKind) (s : State) : Host.Outcome State Fault Refusal :=
  .next (if s.dark then s else match k with
    | .fde n => fdeReady n s
    | .cal n => calReady n s
    | .isp => ispReady s
    | .esp => espReady s
    | .exp => expReady s)

end Sys2Proof.Machine
end

