-- ==== Sys2Proof/Machine/Split.lean ====
section
/-! DEFINITION. Writes of the block counters (R516-R523) and the split reader (R526-R535). -/

namespace Sys2Proof.Machine

/-! ## Counter writes (R516, R518, R522) -/

/-- The sources that a block's counters permit (R522) (DEDUCED, log entry 35). -/
def cntSrcOk (b : Blk) (v : Nat) : Bool :=
  match b with
  | .ln => decide (v ≤ 9)
  | .loom => decide (v ≤ 0xA ∨ (0x10 ≤ v ∧ v ≤ 0x16) ∨ (0x20 ≤ v ∧ v ≤ 0x22) ∨ v = 0x30 ∨ v = 0x31)
  | .bm => decide (v ≤ 7)
  | .sh => decide (v ≤ 9)
  | _ => false

/-- The FILT fields that act on a block (R516). -/
def cntFiltMask : Blk → W32
  | .ln => 0x000F0000#32
  | .loom => 0xFFEF83FF#32
  | .bm => 0xFFFF0000#32
  | _ => 0#32

/-- A register is a counter's CFG or FILT: the CFG register, and whether it is FILT. -/
def cntOf (r : RegId) : Option (RegId × Bool) :=
  let (num, base) := cntGeom r.blk
  if decide (base ≤ r.off ∧ r.off < base + 0x10 * num) && r.off % 0x10 ≤ 4 && r.off % 4 == 0 then
    some ({ r with off := r.off / 0x10 * 0x10 }, r.off % 0x10 == 4)
  else none

/-- A counter is set to 0 with OVF, and its EN set (R518). -/
def cntStart (c : RegId) (src : Nat) (s : State) : State :=
  let s1 := ((s.setReg { c with off := c.off + 8 } 0).setReg { c with off := c.off + 12 } 0).setReg c
    (BitVec.ofNat 32 (2 ^ 31 + src))
  { s1 with split := { s1.split with fresh := c :: s1.split.fresh.filter (· ≠ c) } }

/-- An accepted write of CFG (R517, R518). -/
def writeCfg (c : RegId) (v : W32) (s : State) : State :=
  let w := s.reg c
  let src := bits v 7 0
  let ovf := if v.getLsbD 30 then 0 else bits w 30 30
  if w.getLsbD 31 && src != bits w 7 0 then s.setReg c (BitVec.ofNat 32 (2 ^ 30 * ovf + src))
  else if v.getLsbD 31 && !w.getLsbD 31 then cntStart c src s
  else s.setReg c (BitVec.ofNat 32 (2 ^ 31 * bits v 31 31 + 2 ^ 30 * ovf + src))

/-- An accepted write of FILT (R518). -/
def writeFilt (c : RegId) (v : W32) (s : State) : State :=
  let f : RegId := { c with off := c.off + 4 }
  let s1 := s.setReg f v
  if s.reg f ≠ v then s1.setReg c (s1.reg c &&& 0x7FFFFFFF#32) else s1

/-- A write of a counter's CFG or FILT by the PF (R516, R518, R523). -/
def writeCnt (c : RegId) (filt : Bool) (v : W32) (s : State) : State :=
  let r : RegId := if filt then { c with off := c.off + 4 } else c
  let v1 := if filt && c.blk == .loom then v &&& ~~~0x00007C00#32 else if filt then v else v &&& 0xC00000FF#32
  match firstFail [((s.unavailable r).isSome, (s.unavailable r).getD 0), (c.blk == .sh && decide (c.inst < 4), ePriv),
      ((if filt then (v1 &&& ~~~(cntFiltMask c.blk) &&& ~~~0x00007C00#32) != 0 else !cntSrcOk c.blk (bits v 7 0)), eRange)] with
  | some st => rejectReg r st s
  | none => if filt then writeFilt c (v1 &&& cntFiltMask c.blk) s else writeCfg c v1 s

/-- CNT_CFG_WRITE (R518). -/
def execCntCfgWrite (addr : Nat) (v : W32) (s : State) : Host.Outcome State Fault Refusal :=
  .next (hostAccess (fun s => match (decodeBar0 addr).bind cntOf with
    | some (c, filt) => writeCnt c filt v s
    | none => s) s)

/-! ## Splits (R526-R531) -/

/-- The counters of a split record in their order: block, instance, CFG offset (R527). -/
def State.splitCounters (s : State) : List RegId :=
  let of (b : Blk) (i : Nat) : List RegId :=
    let (num, base) := cntGeom b
    (List.range num).map fun j => ⟨b, i, base + 0x10 * j⟩
  ((List.range 8).filter (fun n => (s.fld fSplit_INC0_LN).testBit n)).flatMap (of .ln)
    ++ (if s.on fSplit_INC0_LOOM then of .loom 0 else [])
    ++ ((List.range 16).filter (fun k => (s.fld fSplit_INC0_BM).testBit k)).flatMap (of .bm)
    ++ ((List.range 96).filter (fun n => (s.fld (fSplit_INC_SH (n / 32))).testBit (n % 32))).flatMap (of .sh)

/-- SLOT, the bytes of a ring slot (R528). -/
def splitSlot (n : Nat) : Nat := (192 + 8 * n + 63) / 64 * 64

/-- WINDOW in timebase units. -/
def State.splitWindow (s : State) : Nat := s.fld fSplit_WINDOW_US * 1000 * nsU

/-- A write of SPLIT.CTL (R529, R535). -/
def writeSplitCtl (v : W32) (s : State) : State :=
  let was := s.on fSplit_CTL_EN
  let l2 := s.fld fSplit_RING_LOG2
  if !v.getLsbD 31 then s.setFld fSplit_CTL_EN 0
  else if was then s
  else match firstFail [(!s.bme 0, eState),
      (decide (2000 * s.fld fSplit_WINDOW_US < splitSlot s.splitCounters.length ∨ l2 < 4 ∨ 16 < l2)
        || s.pair rSplit_RING_BASE_LO rSplit_RING_BASE_HI % 64 != 0, eRange)] with
  | some st => rejectReg rSplit_CTL st s
  | none =>
    let s1 := (((s.setFld fSplit_CTL_EN 1).setReg rSplit_RING_TAIL 0x10000#32).setFld fSplit_SEQ_SEQ 0).setFld fSplit_STAT_LOST 0
    { s1 with split := { s1.split with last := none, enAt := s.tb, lostDue := false, gapDue := false } }

/-- SPLIT_ENABLE (R529). -/
def execSplitEnable (v : W32) (s : State) : Host.Outcome State Fault Refusal := .next (hostAccess (writeSplitCtl v) s)

/-- The instant of the next snapshot: a multiple of WINDOW at least 10 µs after EN, after the last one and not past (R526). -/
def State.nextSnap (s : State) : Nat :=
  let w := s.splitWindow
  let t := max s.tb (match s.split.last with | some l => l + 1 | none => s.split.enAt + 10000 * nsU)
  if w = 0 then t else (t + w - 1) / w * w

/-- The 8 bytes of a counter in a record (R527). -/
def State.splitWord (s : State) (c : RegId) : List Byte :=
  leBytes 8 (bits (s.reg { c with off := c.off + 8 }) 31 0 + 2 ^ 32 * bits (s.reg { c with off := c.off + 12 }) 15 0
    + 2 ^ 48 * bits (s.reg c) 30 30 + 2 ^ 49 * (1 - bits (s.reg c) 31 31) + 2 ^ 50 * (if s.split.fresh.contains c then 1 else 0))

/-- The bandwidth field of a byte count's growth over `ns` (R530). -/
def bandwidth (bytes ns : Nat) : Nat := if ns = 0 then 0 else min 65535 ((2 * bytes * 80 + ns) / (2 * ns))

/-- SPLIT.EP_BWn from two snapshots (R530) (DEDUCED, log entry 73). -/
def showBw (ns : Nat) (s : State) : State :=
  (List.range 8).foldl (fun a n =>
    let rx := ((s.lane n).rxBytes + 2 ^ 64 - Tab.get 0 s.split.rx n) % 2 ^ 64
    let tx := ((s.lane n).txBytes + 2 ^ 64 - Tab.get 0 s.split.tx n) % 2 ^ 64
    (a.setFld (fSplit_EP_BW_RX n) (bandwidth rx ns)).setFld (fSplit_EP_BW_TX n) (bandwidth tx ns)) s

/-- The bytes of a split record (R527, R528) (DEDUCED, log entry 73). -/
def State.splitRecord (s : State) (ns : Nat) (cs : List RegId) : List Byte :=
  padTo (splitSlot cs.length) (
    leBytes 4 (s.fld fSplit_SEQ_SEQ)
    ++ leBytes 1 (s.fld fSplit_RING_TAIL_PHASE + (if s.split.lostDue then 2 else 0) + (if s.split.gapDue then 4 else 0)) ++ [0]
    ++ leBytes 2 cs.length ++ tbBytes s.tb ++ padTo 44 (leBytes 4 (min (2 ^ 32 - 1) ns))
    ++ (List.range 8).flatMap (fun n => leBytes 8 (s.lane n).rxBytes)
    ++ (List.range 8).flatMap (fun n => leBytes 8 (s.lane n).txBytes) ++ cs.flatMap s.splitWord)

/-- The record goes to the ring, or is discarded and counted (R528) (DEDUCED, log entry 73). -/
def putSplit (ns : Nat) (s : State) : State :=
  let size := 2 ^ s.fld fSplit_RING_LOG2
  let tail := s.fld fSplit_RING_TAIL_TAIL
  let cs := s.splitCounters
  if !s.bme 0 || (tail + 1) % size == s.fld fSplit_RING_CI_CI then
    let s1 := s.addSat fSplit_STAT_LOST
    { s1 with split := { s1.split with lostDue := true } }
  else
    let s1 := s.emit (.hostWrite (s.pair rSplit_RING_BASE_LO rSplit_RING_BASE_HI + tail * splitSlot cs.length) (s.splitRecord ns cs))
    let s2 := s1.setFld fSplit_RING_TAIL_TAIL ((tail + 1) % size)
    let s3 := if (tail + 1) % size = 0 then s2.setFld fSplit_RING_TAIL_PHASE (1 - s2.fld fSplit_RING_TAIL_PHASE) else s2
    { s3 with split := { s3.split with lostDue := false, gapDue := false } }

/-- SPLIT_SNAPSHOT: a multiple of WINDOW is reached (R526-R531); none is taken in P2 and P3 (DESIGN CHOICE, log entry 2). -/
def execSplitSnapshot (s : State) : Host.Outcome State Fault Refusal :=
  .next (
    if !s.on fSplit_CTL_EN || decide (2 ≤ s.pState) || s.dark then s
    else
      let s1 := (advanceTo (s.nextSnap : Int) s).incWrap fSplit_SEQ_SEQ
      let (ns, s2) := match s.split.last with
        | some l => ((s1.tb - l) / nsU, showBw ((s1.tb - l) / nsU) s1)
        | none => (Config.firstSplitNs s.free, s1.tick)
      let s3 := putSplit ns s2
      { s3 with split := { s3.split with
          last := some s1.tb, fresh := [], rx := (List.range 8).map fun n => (n, (s1.lane n).rxBytes)
          tx := (List.range 8).map fun n => (n, (s1.lane n).txBytes) } })

end Sys2Proof.Machine
end

