-- ==== Sys2Proof/Machine/Reads.lean ====
section
/-! DEFINITION. Register reads (R1-R3, R10-R15, R18, R19, R33, R571): registers computed at the read, 64-bit pairs,
captures, result registers, and the rows that read. -/

namespace Sys2Proof.Machine

/-! ## 64-bit pairs and captures -/

/-- The _LO registers of 64-bit quantities (R11, R13): offset in the block, distance, number. -/
def loRegs : Blk → List (Nat × Nat × Nat)
  | .ln => [(0x88, 0x10, 6), (0x414, 8, 5), (0x504, 8, 2), (0x804, 8, 1)]
  | .nq => [(0, 8, 1)]
  | .qp => [(8, 8, 3)]
  | .drf => [(8, 8, 1), (0x100, 8, 8)]
  | .sec => [(0xC, 8, 2), (0x20, 8, 1)]
  | .cox => [(0x20, 8, 1)]
  | .cx => [(0x28, 8, 1)]
  | .anc => [(0x104, 8, 1)]
  | .split => [(0xC, 8, 1)]
  | .bm => [(0x108, 0x10, 8), (0x180, 8, 2)]
  | .loom => [(0x3008, 0x10, 32)]
  | .sh => [(0x48, 0x10, 4)]
  | _ => []

/-- A register is the _LO half of a 64-bit quantity. -/
def isLo (r : RegId) : Bool :=
  (loRegs r.blk).any fun p => decide (p.1 ≤ r.off ∧ r.off < p.1 + p.2.1 * p.2.2) && (r.off - p.1) % p.2.1 == 0
/-- The other half of a pair. -/
def hiOf (r : RegId) : RegId := { r with off := r.off + 4 }
def loOf (r : RegId) : RegId := { r with off := r.off - 4 }
/-- A register is the _HI half of a 64-bit quantity. -/
def isHi (r : RegId) : Bool := decide (4 ≤ r.off) && isLo (loOf r)

/-- The registers that a capturing read captures (R185, R193, R292, R366, R411, R534, R571). -/
def captures (r : RegId) : List RegId :=
  match r.blk with
  | .cox => if r.off = 0x10 then [rCox_TB_FRAC, rCox_TB_SEC_LO, rCox_TB_SEC_HI]
      else if r.off = 0x64 then [rCox_PTM_DEV_NS, rCox_PTM_DEV_SEC_LO, rCox_PTM_DEV_SEC_HI, rCox_PTM_HOST_LO, rCox_PTM_HOST_HI]
      else []
  | .bmw => if r.off = 0x8010 then [rBmw_LOG_E1, rBmw_LOG_E2, rBmw_LOG_E3] else []
  | .sys => if r.off = 0x108 then [rSys_REJ_E1] else []
  | .ck => if r.off = 0xC then [rCk_RES_VAL r.inst] else []
  | .sh => if r.off = 0x84 then [rSh_TAG_STAGE r.inst] else []
  | _ => []

/-- A register reads as the function's last capture of it (R571). -/
def captured (r : RegId) : Bool :=
  match r.blk with
  | .cox => r.off == 0xC || r.off == 0x14 || r.off == 0x18 || decide (0x68 ≤ r.off ∧ r.off ≤ 0x78)
  | .bmw => decide (0x8014 ≤ r.off ∧ r.off ≤ 0x801C)
  | .sys => r.off == 0x10C
  | .ck => r.off == 0x10
  | .sh => r.off == 0x88
  | _ => false

/-! ## Registers computed at the read -/

/-- A number as a register's word. -/
abbrev word (v : Nat) : W32 := BitVec.ofNat 32 v

/-- How many list elements meet a condition. -/
def countIf (l : List Nat) (p : Nat → Bool) : Nat := (l.filter p).length

/-- SYS registers: the oldest entry of the reject log (R366). -/
def liveSys (r : RegId) (s : State) : W32 :=
  match s.host.rejLog with
  | e :: _ =>
    if r.off = 0x108 then word (e.offset % 2 ^ 30)
    else if r.off = 0x10C then
      word (e.status % 256 * 2 ^ 24 + e.fn % 32 * 2 ^ 19 + (if e.wr then 2 ^ 18 else 0) + e.space % 4 * 2 ^ 16)
    else s.reg r
  | [] => if r.off = 0x108 ∨ r.off = 0x10C then 0 else s.reg r

/-- PCI.LINK_STAT: as the link is trained (R369), a free value within the values that its fields take (DESIGN CHOICE, log entry 75). -/
def liveLink (s : State) : W32 :=
  let w := (Config.link s.free).toNat
  word (w / 2 ^ 24 * 2 ^ 24 + w / 2 ^ 16 % 2 * 2 ^ 16 + 2 ^ (w / 256 % 4) * 256 + (1 + w % 5))

/-- QUE.STAT: how many queue pairs are watched and enabled (R369). -/
def liveQue (s : State) : W32 :=
  word (countIf (List.range 256) s.watched * 2 ^ 16 + countIf (List.range 256) (fun q => s.on (fQp_CTL_EN q)))

/-- The timebase as a read of COX.TB_NS captures it (R185). -/
def liveTb (r : RegId) (s : State) : W32 :=
  if r.off = 0xC then word (tbFrac s.tb) else if r.off = 0x10 then word (tbNs s.tb)
  else if r.off = 0x14 then word (tbSec s.tb) else word (tbSec s.tb / 2 ^ 32)

/-- The oldest entry of the beam error log (R291, R292). -/
def liveLog (r : RegId) (s : State) : W32 :=
  match s.beam.log with
  | [] => 0
  | e :: _ =>
    if r.off = 0x8010 then word e.addr
    else if r.off = 0x8014 then word (e.kind % 16 * 2 ^ 28 + e.src % 8 * 2 ^ 25 + e.rep % 512 * 2 ^ 16 + e.addr / 2 ^ 32 % 512)
    else if r.off = 0x8018 then word (e.synd % 2 ^ 16 * 2 ^ 16 + e.sec % 2 ^ 16)
    else word (e.ns % 2 ^ 30)

/-- SHnn.Q_STAT of the selected FIFO or stream (R335). -/
def liveQStat (n : Nat) (s : State) : W32 :=
  let q := s.fld (fSh_Q_SEL_SEL n)
  let h := s.shut n
  if q < 8 then
    let level := (Tab.get [] h.fifos q).length
    match s.loom.isps.find? fun e => e.2.state != 0 && e.2.feed.any fun f => f.sh == n && f.fifo == q with
    | some e => word (2 ^ 31 + e.1 % 2048 * 2 ^ 16 + level % 2048)
    | none => word (level % 2048)
  else match Tab.find h.strs (q - 8) with
    | some t => word (2 ^ 31 + t.bolt % 2048 * 2 ^ 16 + t.fifo.length % 2048)
    | none => 0

/-- PWR registers with a part computed at the read (R444-R446, R460). -/
def livePwr (r : RegId) (s : State) : W32 :=
  if r.off = 0 then
    putBits (putBits (s.reg r) fPwr_STATE_FLOOR.hi fPwr_STATE_FLOOR.lo s.floor) fPwr_STATE_TARGET.hi fPwr_STATE_TARGET.lo s.target
  else if r.off = 0xC then
    (if s.host.cfg.ltr then word (2 ^ 31 + min 0xFFFFF (s.ltrTol / 1000)) else word 0xFFFFF)
  else if r.off = 0x14 then word s.hintRemain
  else s.reg r

/-- SEC registers that show the fuses (R478, R479, R496). -/
def liveSec (r : RegId) (s : State) : W32 :=
  let m := (s.fuseWord 32).toNat
  if r.off = 4 then
    putBits (s.reg r) fSec_STAT_LIFECYCLE.hi fSec_STAT_LIFECYCLE.lo s.fuses.lifecycle
  else if r.off = 8 then
    word (m % 256 + m / 256 % 16 * 256 + (if s.fuses.hostBootDis then 2 ^ 16 else 0) + (if s.fuses.jtagDis then 2 ^ 17 else 0))
  else if r.off = 0xC then word s.fuses.counter
  else if r.off = 0x10 then word (s.fuses.counter / 2 ^ 32)
  else s.reg r

/-- A counter's CNT_VAL_HI shows its OVF (R517, R533). -/
def liveCnt (r : RegId) (s : State) : W32 :=
  let (num, base) := cntGeom r.blk
  if decide (base ≤ r.off ∧ r.off < base + 0x10 * num) && r.off % 16 == 12 then
    putBits (s.reg r) 31 31 (bits (s.reg { r with off := r.off - 12 }) 30 30)
  else s.reg r

/-- LNn registers with a part computed at the read: the histogram bin (R127) and the injections (R511). -/
def liveLn (r : RegId) (s : State) : W32 :=
  if r = rLn_FEC_HIST r.inst then
    word (if s.portBase r.inst = r.inst then Tab.get 0 (s.lane r.inst).hist (s.fld (fLn_FEC_HIST_SEL_BIN r.inst)) else 0)
  else if r.off = 0x500 then
    putBits (s.reg r) 15 0 (min 65535 (s.fld (fLn_PRBS_STAT_INJ r.inst) + s.laneInj r.inst))
  else liveCnt r s

/-- What a register holds at the moment of a read. -/
def live (r : RegId) (s : State) : W32 :=
  match r.blk with
  | .sys => liveSys r s
  | .pci => liveLink s
  | .que => if r.off = 8 then liveQue s else s.reg r
  | .drf => if r.off = 0x14 then s.reg rDrf_FLAG else s.reg r
  | .cox => if 0xC ≤ r.off ∧ r.off ≤ 0x18 then liveTb r s else s.reg r
  | .cx => if r.off = 0x24 then putBits (s.reg r) 15 0 (min 65535 (s.fld (fCx_PRBS_STAT_INJ r.inst) + s.linkInj r.inst)) else s.reg r
  | .mon => if r.off = 0x404 then word (unsigned 18 (s.coef (s.fld fMon_RS_SEL_INDEX)))
      else if r.off = 0x28 then putBits (s.reg r) 30 30 (if s.bias.modInt then 1 else 0) else s.reg r
  | .ch => if r.off = 0x18 ∧ 16 ≤ r.inst ∧ (s.reg r).getLsbD 31 ∧ s.tx (r.inst - 16) = txOff then putBits (s.reg r) 29 29 1
      else s.reg r
  | .pwr => livePwr r s
  | .sec => liveSec r s
  | .tst => if r = rTst_STAT then putBits (s.reg r) fTst_STAT_ELAPSED.hi fTst_STAT_ELAPSED.lo s.bistElapsed else s.reg r
  | .ln => liveLn r s
  | .loom | .bm => liveCnt r s
  | .bmw => if 0x8010 ≤ r.off ∧ r.off ≤ 0x801C then liveLog r s else s.reg r
  | .sh => if r.off = 0x18 then liveQStat r.inst s else liveCnt r s
  | _ => s.reg r

/-! ## Reads -/

/-- What a read leaves behind: a _LO read latches the high half, a capturing read captures its group, and the first
read of a ready result clears FRESH (R11, R15, R571). -/
def readEffects (fn : Nat) (d : RegDesc) (r : RegId) (s : State) : State :=
  let s1 := if isLo r then { s with host := { s.host with hiLatch := Tab.set s.host.hiLatch (fn, hiOf r) (live (hiOf r) s) } } else s
  let s2 := (captures r).foldl (fun a c => { a with host := { a.host with capt := Tab.set a.host.capt (fn, c) (live c s) } }) s1
  if isResult d ∧ (s.reg r).getLsbD 30 then s2.setReg r (putBits (s.reg r) 30 30 0) else s2

/-- The value of an anchor word read by software, and the state after the vote (R296, R298). -/
def readWord (fn space ofs j : Nat) (s : State) : W32 × State :=
  match ancVote j s with
  | (some w, s1) => (w, s1)
  | (none, s1) => (0xFFFFFFFF#32, logReject fn space ofs eMedia false s1)

/-- A read of register `r` by function `fn`; `space` and `ofs` locate it for the reject log (R1-R3, R10-R19, R571). -/
def readReg (fn space ofs : Nat) (r : RegId) (s : State) : W32 × State :=
  match s.unavailable r, findReg r with
  | some st, _ => (0xFFFFFFFF#32, logReject fn space ofs st false s)
  | none, none => (0#32, logReject fn space ofs eField false s)
  | none, some d =>
    if r.blk == .anc && decide (r.off < 0x100) then readWord fn space ofs (r.off / 4) s
    else if captured r then (Tab.get 0#32 s.host.capt (fn, r), s)
    else if isHi r then (Tab.get 0#32 s.host.hiLatch (fn, r), s)
    else (maskWo d (live r s), readEffects fn d r s)

/-- The register that a function names by an offset, in BAR 0 or in its window (R368, R564-R569) (DEDUCED, log entry 17). -/
def State.regAt (s : State) (fn addr : Nat) : Option RegId :=
  if fn = 0 then decodeBar0 addr else decodeWin fn (s.vfBase fn) (s.vfCount fn) addr

/-- The reject log's SPACE of a function's register accesses (R369) (DESIGN CHOICE, log entry 16). -/
abbrev spaceOf (fn : Nat) : Nat := if fn = 0 then 0 else 1

/-- A read of an offset: unassigned offsets read 0 and are logged with E_FIELD (R2), also inside a block that is OFF or in
self-test, for which R18 and R19 state another value and status and the spec no order (DESIGN CHOICE, log entry 90). -/
def readAt (fn addr : Nat) (s : State) : W32 × State :=
  match s.regAt fn addr with
  | none => (0#32, logReject fn (spaceOf fn) addr eField false s)
  | some r => readReg fn (spaceOf fn) addr r s

/-- The completion of a register read (R33), with data where the offset lies in the function's BAR (R338). -/
def readDone (fn addr : Nat) (s : State) : State :=
  if inBar fn addr then (readAt fn addr s).2.emit (.readData fn (readAt fn addr s).1) else unsupported s

/-- REJ_E0_READ: the oldest entry of the reject log is captured (R366). -/
def execRejE0Read (fn : Nat) (s : State) : Host.Outcome State Fault Refusal :=
  .next (hostAccess (readDone fn (addrOf rSys_REJ_E0)) s)

/-- LO_READ: a _LO read latches the high half for the function (R11, R12). -/
def execLoRead (fn addr : Nat) (s : State) : Host.Outcome State Fault Refusal := .next (regAccess (s.regAt fn addr) (readDone fn addr) s)

/-- RESULT_READ: a result register, or any other, is read (R14, R15). -/
def execResultRead (fn addr : Nat) (s : State) : Host.Outcome State Fault Refusal := .next (regAccess (s.regAt fn addr) (fun a => readDone fn addr a) s)

/-- TB_NS_READ: the timebase is captured (R185). -/
def execTbNsRead (fn : Nat) (s : State) : Host.Outcome State Fault Refusal :=
  .next (hostAccess (readDone fn (addrOf rCox_TB_NS)) s)

/-- PTM_STAT_READ: the pair of times of a dialog is captured (R193). -/
def execPtmStatRead (fn : Nat) (s : State) : Host.Outcome State Fault Refusal :=
  .next (hostAccess (readDone fn (addrOf rCox_PTM_STAT)) s)

/-- LOG_E0_READ: the oldest entry of the beam error log is captured (R292). -/
def execLogE0Read (fn : Nat) (s : State) : Host.Outcome State Fault Refusal :=
  .next (hostAccess (readDone fn (addrOf rBmw_LOG_E0)) s)

/-- RES_STAT_READ: the check value is captured (R411). -/
def execResStatRead (fn ck : Nat) (s : State) : Host.Outcome State Fault Refusal :=
  .next (hostAccess (readDone fn (addrOf (rCk_RES_STAT ck))) s)

/-- TAG_PC_READ: the stage cycles of the tagged instruction are captured (R534). -/
def execTagPcRead (fn sh : Nat) (s : State) : Host.Outcome State Fault Refusal :=
  .next (hostAccess (readDone fn (addrOf (rSh_TAG_PC sh))) s)

end Sys2Proof.Machine
end

