-- ==== Sys2Proof/Machine/Security.lean ====
section
/-! DEFINITION. Firmware bundles, boot, staging and commit, attestation, and the lock (R478-R492). -/

namespace Sys2Proof.Machine

def State.modSec (s : State) (f : SecSt → SecSt) : State := { s with sec := f s.sec }

/-! ## Bundles (R481-R483) -/

/-- Entry `i` of a bundle's manifest (R482). -/
def bundleEntry (b : List Byte) (i : Nat) : List Byte := (b.drop (2656 + 96 * i)).take 96
/-- The entries in use. -/
def bundleEntries (b : List Byte) : List (List Byte) := (List.range (min 8 (field b 7 1))).map (bundleEntry b)
/-- An entry's TYPE, TARGET, OFFSET and LENGTH. -/
def entType (e : List Byte) : Nat := field e 0 1
def entTarget (e : List Byte) : Nat := field e 1 1
def entOfs (e : List Byte) : Nat := field e 4 4
def entLen (e : List Byte) : Nat := field e 8 4
/-- A HOUSE entry's P_WORDS, X_WORDS and Y_WORDS. -/
def entWords (e : List Byte) : Nat × Nat × Nat := (field e 12 4, field e 16 2, field e 18 2)

/-- The LENGTH of an entry disagrees with its TYPE (R482). -/
def entLenBad (e : List Byte) : Bool :=
  let (p, x, y) := entWords e
  match entType e with
  | 1 => decide (524288 < entLen e)
  | 2 => decide (p < 1 ∨ 65536 < p ∨ 16384 < x ∨ 16384 < y) || entLen e != ceil64 (6 * p) + ceil64 (4 * x) + ceil64 (4 * y)
  | 3 => false
  | 4 => entLen e != 64
  | _ => true

/-- A reserved field of a bundle is not 0, or an entry names no target that R482 gives its TYPE (DEDUCED, log entry 66). -/
def bundleReserved (b : List Byte) : Bool :=
  let nz (o n : Nat) : Bool := ((b.drop o).take n).any (· != 0)
  decide (16 ≤ field b 6 1) || nz 28 36 || nz 8051 141 || nz (2656 + 96 * field b 7 1) (96 * (8 - field b 7 1))
    || (bundleEntries b).any fun e => field e 2 2 != 0 || ((e.drop 20).take 12).any (· != 0)
      || (if entType e = 2 ∨ entType e = 4 then decide (3 < entTarget e) else entTarget e != 0)

/-- A section lies wrong, or two overlap (R483). -/
def sectionsBad (b : List Byte) : Bool :=
  let l := (bundleEntries b).zipIdx
  l.any fun e => entOfs e.1 % 64 != 0 || decide (entOfs e.1 < 8192 ∨ field b 16 4 < entOfs e.1 + entLen e.1)
    || l.any fun f => e.2 != f.2 && decide (entOfs e.1 < entOfs f.1 + entLen f.1 ∧ entOfs f.1 < entOfs e.1 + entLen e.1)

/-- Not exactly one SEC entry and one HOUSE entry per house shuttle (R483). -/
def entriesBad (b : List Byte) : Bool :=
  ((bundleEntries b).filter (entType · == 1)).length != 1
    || (List.range 4).any fun t => ((bundleEntries b).filter (fun e => entType e == 2 && entTarget e == t)).length != 1

/-- The first row of R483: the form of the bundle (DEDUCED, log entry 66). -/
def bundleBad (b : List Byte) : Bool :=
  b.take 4 != [0x50, 0x54, 0x42, 0x31] || bundleReserved b || decide (field b 7 1 < 5 ∨ 8 < field b 7 1)
    || (field b 6 1).testBit (field b 5 1) || field b 16 4 != b.length || sectionsBad b || entriesBad b
    || (bundleEntries b).any entLenBad

/-- The bytes of an entry's section. -/
def entBytes (b e : List Byte) : List Byte := (b.drop (entOfs e)).take (entLen e)

/-- The last row of R483: key, signature, section digests, ROLLBACK (DEDUCED, log entry 66). -/
def State.bundleForged (s : State) (b : List Byte) : Bool :=
  let pk := (b.drop 64).take 2592
  !s.keyOk (field b 5 1) pk || !Config.mldsaOk pk (b.take 3424) ((b.drop 3424).take 4627)
    || (bundleEntries b).any (fun e => digest512 (entBytes b e) != (e.drop 32).take 64)
    || decide (field b 8 8 < s.fuses.counter)

/-- The status with which a bundle fails R483; none if it passes. -/
def State.bundleStatus (s : State) (b : List Byte) : Option Nat :=
  firstFail [(bundleBad b, eDesc), (field b 4 1 != 1, eVersion), (s.bundleForged b, eAuth)]

/-! ## Fuses and security words (R479) -/

/-- The fuse mirror is written from the fuses (R479, R484). -/
def mirrorFuses (s : State) : State := ancWriteAll 32 ((List.range 8).map fun i => s.fuseWord (32 + i)) s

/-- Word 49: the test-access state and the failed attempts (R479). -/
def showTa (s : State) : State :=
  ancWrite 49 (BitVec.ofNat 32 (s.fld fSec_STAT_TA_STATE + 256 * s.fld fSec_TA_STAT_FAILS)) s

/-! ## Boot (R484-R486) -/

/-- The straps select host boot (R546). -/
def State.hostBootStrap (s : State) : Bool := (s.reg rSys_STRAPS).getLsbD 1

/-- The device waits for a bundle of the host, unless HOST_BOOT_DIS is blown (R485, R486, R550). -/
def awaitHost (s : State) : State :=
  showPhase (if s.fuses.hostBootDis then s.setFld fSec_STAT_BOOT_ERR ePriv else s.setFld fSec_STAT_WAIT_HOST 1)

/-- A boot attempt fails (R485, R486). -/
def bootFail (st : Nat) (s : State) : State :=
  awaitHost ((s.setFld fSec_STAT_BOOT_ERR st).modSec ({ · with hostBoot := false }))

/-- House shuttle `n` starts on its image (R325, R484), with its counters set (R523) (DEDUCED, log entry 67). -/
def startHouse (b : List Byte) (n : Nat) (s : State) : State :=
  match (bundleEntries b).find? (fun e => entType e == 2 && entTarget e == n) with
  | none => s
  | some e =>
    let (p, x, y) := entWords e
    let s1 := (s.setShut n (loadSections b (entOfs e) p x y {})).setFld (fSh_STAT_STATE n) stRun
    [1, 0, 3, 6].zipIdx.foldl (fun a c =>
      (a.setFld (fSh_CNT_CFG_EN n c.2) 1).setFld (fSh_CNT_CFG_SRC n c.2) c.1) s1

/-- The words 16-31 and 48-55 and the registers that a boot loads (R484, R496). -/
def bootWords (b : List Byte) (src : Nat) (fallback : Bool) (s : State) : State :=
  let fb := if fallback then 1 else 0
  let s1 := ancWriteAll 16 (wordsOf (digest512 ((b.drop 2656).take 768))) s
  let s2 := showTa (ancWrite 48 (if s.on fSec_CTL_LOCK then 1 else 0) s1)
  let s3 := ancWriteAll 50 [0, BitVec.ofNat 32 (src + 256 * field b 5 1 + 65536 * fb), BitVec.ofNat 32 (field b 8 4),
    BitVec.ofNat 32 (field b 12 4), BitVec.ofNat 32 (field b 24 4), BitVec.ofNat 32 (65536 * field b 22 2 + field b 20 2)] s2
  ((((((s3.modSec ({ · with subsys := (field b 20 2, field b 22 2) })).setFld fSec_STAT_BOOT_SRC src).setFld fSec_STAT_KEY_SLOT (field b 5 1)).setFld fSec_STAT_FALLBACK fb).setPair
    rSec_RUN_RB_LO rSec_RUN_RB_HI (field b 8 8)).setFld fSec_BUILD_BUILD (field b 24 4))

/-- A bundle passes: steps 5 and 6 of R484. -/
def bootPass (b : List Byte) (src : Nat) (fallback : Bool) (s : State) : State :=
  let s1 := (List.range 4).foldl (fun a n => startHouse b n a) (bootWords b src fallback s)
  showPhase (s1.modSec ({ · with booted := true, hostBoot := false }))

/-- What a flash slot holds, up to its BUNDLE_LEN (R481, R485). -/
def slotBundle (slot : List Byte) : List Byte := slot.take (field slot 16 4)

/-- The flash map (R485): slot A, slot B, the marker sector. -/
abbrev flashSlot (i : Nat) : Nat := i * 0x1000000
abbrev flashMarker := 0x2000000

/-- A flash read with the 4-byte-address quad output fast read command (R485). -/
def readFlash (addr len : Nat) (s : State) : State := s.emit (.flashRead 0x6C addr len)

/-- A boot from flash (R485): the slot that the marker prefers, else the other one with FALLBACK, else the device waits for a
recovery bundle with the preferred slot's status, which BOOT_ERR shows in either case (R496). -/
def flashBoot (slotA slotB : List Byte) (marker : Nat) (s : State) : State :=
  let p := if marker = 1 then 1 else 0
  let first := slotBundle (if p = 0 then slotA else slotB)
  let other := slotBundle (if p = 0 then slotB else slotA)
  let s1 := readFlash (flashSlot p) first.length (readFlash flashMarker 1 s)
  match s.bundleStatus first with
  | none => bootPass first p false s1
  | some st =>
    let s2 := readFlash (flashSlot (1 - p)) other.length s1
    match s.bundleStatus other with
    | none => bootPass other (1 - p) true (s2.setFld fSec_STAT_BOOT_ERR st)
    | some _ => bootFail st s2

/-- A boot from a bundle of the host (R486): HB_LEN bytes, read while the PF may master the bus. -/
def hostBoot (bundle : Option (List Byte)) (s : State) : State :=
  match bundle with
  | none => bootFail eBus s
  | some b =>
    if b.length ≠ s.fld fSec_HB_LEN_LEN then bootFail eBus s
    else match s.bundleStatus b with
      | some st => bootFail st s
      | none => bootPass b (if s.hostBootStrap then 2 else 3) false s

/-- BOOT_DONE: the bundles of the flash slots, or the one of the host after HB_GO, have been read and are checked, and firmware
starts on the first that passes (R484-R486) (DEDUCED, log entry 67). -/
def execBootDone (host : Option (List Byte)) (slots : List Byte × List Byte) (marker : Nat) (s : State) :
    Host.Outcome State Fault Refusal :=
  .next (
    if s.sec.booted || s.dark then s
    else if s.sec.hostBoot then (if s.bme 0 then hostBoot host s else s)
    else if s.hostBootStrap || s.on fSec_STAT_WAIT_HOST then s
    else flashBoot slots.1 slots.2 marker s)

/-- A write of HB_CTL: GO starts the read of a host bundle (R486) (DEDUCED, log entry 67). -/
def writeHbCtl (v : W32) (s : State) : State :=
  if !s.on fSec_STAT_WAIT_HOST then rejectReg rSec_HB_CTL eState s
  else if v.getLsbD 0 then
    let s1 := showPhase ((s.setFld fSec_STAT_WAIT_HOST 0).modSec ({ · with hostBoot := true }))
    if s.bme 0 then s1.emit (.hostRead 0 (s.pair rSec_HB_ADDR_LO rSec_HB_ADDR_HI) (s.fld fSec_HB_LEN_LEN)) else s1
  else s

/-- HB_GO (R486). -/
def execHbGo (v : W32) (s : State) : Host.Outcome State Fault Refusal := .next (hostAccess (writeHbCtl v) s)

/-! ## Staging and commit (R487, R488) -/

/-- An FW_STAGE or FW_COMMIT has not completed. -/
def State.fwBusy (s : State) : Bool := s.sec.stage.isSome || s.sec.commit.isSome

/-- FW_STAGE (R379, R487) (DEDUCED, log entry 66). -/
def execFwStage (h : Hdr) (addr len : Nat) (bundle : Option (List Byte)) (s : State) : Host.Outcome State Fault Refusal :=
  .next (command h (.fwStage h addr len bundle) (s.gate h true [] ++ [(decide (len < 8192 ∨ 16777216 < len), eRange), (s.fwBusy, eBusy)])
    (fun s => s.modSec ({ · with stage := some (h, addr, bundle.bind fun b => if b.length = len then some b else none) })) s)

/-- FW_STAGE_DONE: the check ends, and a bundle that passes replaces any staged one (R487). -/
def execFwStageDone (s : State) : Host.Outcome State Fault Refusal :=
  .next (
    match s.sec.stage with
    | none => s
    | some (h, addr, bundle) =>
      let s1 := s.modSec ({ · with stage := none })
      match bundle with
      | none => complete h eBus [] s1
      | some b =>
        match s.bundleStatus b with
        | some st => complete h st [] s1
        | none => complete h eOk ((b.drop 8).take 8) (s1.modSec ({ · with staged := some ⟨addr, b.length, digest512 b⟩ })))

/-- FW_COMMIT (R379, R488). -/
def execFwCommit (h : Hdr) (advance : Bool) (s : State) : Host.Outcome State Fault Refusal :=
  .next (command h (.fwCommit h advance) (s.gate h true [] ++ [(s.sec.staged.isNone || s.hostBootStrap, eState), (s.fwBusy, eBusy)])
    (fun s => s.modSec ({ · with commit := some (h, advance) })) s)

/-- With ADVANCE the fuses follow the bundle, each of their bits only blown (R478, R488) (DEDUCED, log entry 66). -/
def advanceFuses (b : List Byte) (s : State) : State :=
  let put (slots : Tab Nat KeySlot) (e : List Byte) : Tab Nat KeySlot :=
    let k := Tab.get ⟨0, false, []⟩ slots (entTarget e)
    if entType e = 4 ∧ k.state = 0 then Tab.set slots (entTarget e) { k with state := 1, digest := entBytes b e } else slots
  let revoke (slots : Tab Nat KeySlot) (i : Nat) : Tab Nat KeySlot :=
    let k := Tab.get ⟨0, false, []⟩ slots i
    if (field b 6 1).testBit i then Tab.set slots i { k with state := Nat.lor k.state 2 } else slots
  let slots := (List.range 4).foldl revoke ((bundleEntries b).foldl put s.fuses.slots)
  mirrorFuses { s with fuses := { s.fuses with slots := slots, counter := max s.fuses.counter (field b 8 8) } }

/-- The flash slot that did not boot; after a recovery boot the spec names neither (DESIGN CHOICE, log entry 65). -/
def State.otherSlot (s : State) : Nat :=
  match s.fld fSec_STAT_BOOT_SRC with
  | 0 => 1
  | 1 => 0
  | _ => if Config.recoverySlot s.free then 1 else 0

/-- FW_COMMIT_DONE: the bytes read again from the host go to the slot; a good read-back moves the marker and, with
ADVANCE, blows fuses (R488). -/
def execFwCommitDone (host : Option (List Byte)) (readBack : List Byte) (s : State) : Host.Outcome State Fault Refusal :=
  .next (
    match s.sec.commit, s.sec.staged with
    | some (h, advance), some st =>
      let s1 := s.tick.modSec ({ · with commit := none })
      match host with
      | none => complete h eMedia [] s1
      | some b =>
        let s2 := readFlash (flashSlot s.otherSlot) st.len (s1.emit (.flash (flashSlot s.otherSlot) (padTo st.len (b.take st.len))))
        if digest512 readBack ≠ st.digest then complete h eMedia [] s2
        else
          let s3 := s2.emit (.flash flashMarker (leBytes 1 s.otherSlot))
          complete h eOk [] (if advance then advanceFuses readBack s3 else s3)
    | _, _ => s)

/-! ## Attestation (R490, R491) -/

/-- An anchor word in 0-31 disagrees (R298). -/
def State.digestsBad (s : State) : Bool := (List.range 32).any s.disagrees

/-- OWNERS: each slot's state, permission and digest (R490). -/
def State.ownersDigest (s : State) : List Byte :=
  digest512 ((List.range 4).flatMap fun i =>
    let k := Tab.get ⟨0, false, []⟩ s.fuses.slots i
    leBytes 1 k.state ++ leBytes 1 (if k.ta then 1 else 0) ++ padTo 64 k.digest)

/-- OWNER_IMAGES: each owner shuttle not in OFF (R490, R491). -/
def State.imagesDigest (s : State) : List Byte :=
  digest512 (((List.range 92).map (· + 4)).flatMap fun n =>
    if s.shState n = stOff then []
    else leBytes 1 n ++ leBytes 1 (s.fld (fSh_IMAGE_KEY_SLOT n)) ++ leBytes 2 (s.fld (fSh_IMAGE_IMG_VER n)) ++ (s.shut n).digest)

/-- Bytes 0-2,911 of the report (R490). -/
def State.reportBody (s : State) (nonce : List Byte) : List Byte :=
  [0x50, 0x54, 0x41, 0x31, 1] ++ leBytes 1 (s.fld fSec_STAT_BOOT_SRC) ++ leBytes 1 (s.fld fSec_STAT_KEY_SLOT)
    ++ leBytes 1 ((if s.locked then 1 else 0) + 2 * s.fld fSec_STAT_TA_STATE + 8 * s.fld fSec_STAT_FALLBACK)
    ++ leBytes 8 (s.pair rSec_RUN_RB_LO rSec_RUN_RB_HI) ++ leBytes 8 s.fuses.counter ++ leBytes 4 (s.fld fSec_BUILD_BUILD)
    ++ leBytes 4 s.fuses.lifecycle ++ nonce ++ s.ancBytes 16 16 ++ s.ownersDigest ++ s.imagesDigest
    ++ padTo 64 (tbBytes s.tb) ++ padTo 2592 Config.identityPk

/-- The turn of the oldest ATTEST starts with the snapshot of its measurements (R491) (DEDUCED, log entry 68). -/
def attestTurn (s : State) : State :=
  s.modSec ({ · with report := s.sec.attests.head?.bind fun e => if s.digestsBad then none else some (s.reportBody e.2) })

/-- ATTEST (R379): where none waits before it its turn starts (R491). -/
def execAttest (h : Hdr) (len : Nat) (nonce : List Byte) (s : State) : Host.Outcome State Fault Refusal :=
  .next (command h (.attest h len nonce) (s.gate h false [] ++ [(decide (len < 8192), eRange), (!s.houseRuns, eState), (s.digestsBad, eMedia)])
    (fun s =>
      let s1 := s.modSec fun c => { c with attests := c.attests ++ [(h, padTo 32 (nonce.take 32))] }
      if s.sec.attests.isEmpty then attestTurn s1 else s1) s)

/-- ATTEST_REPORT_DONE: the report of the ATTEST that is served is signed with the key in the vault and written, and the next one's turn
starts (R489-R491) (DEDUCED, log entry 68). -/
def execAttestReportDone (s : State) : Host.Outcome State Fault Refusal :=
  .next (
    match s.sec.attests with
    | [] => s
    | (h, _) :: r =>
      let s1 := attestTurn (s.tick.modSec ({ · with attests := r }))
      match s.sec.report with
      | none => complete h eMedia [] s1
      | some b => completeRec h eOk (padTo 8192 (b ++ padTo 4627 ((Config.identitySign s.sec.vault b s.free).take 4627))) s1)

/-! ## The lock (R492) -/

/-- A write of SEC.CTL (R492, R496). -/
def writeSecCtl (v : W32) (s : State) : State :=
  if v.getLsbD 0 then ancWrite 48 1 (s.setFld fSec_CTL_LOCK 1) else s

/-- SEC_LOCK (R492). -/
def execSecLock (v : W32) (s : State) : Host.Outcome State Fault Refusal := .next (hostAccess (writeSecCtl v) s)

/-! ## Test access (R493-R495) -/

/-- An instruction shifted into the TAP: with JTAG_DIS blown all but BYPASS and IDCODE select BYPASS (R493). -/
def tapSelect (i : TapIr) (s : State) : State :=
  s.modSec ({ · with tap := if s.fuses.jtagDis && i != .idcode then .bypass else i })

/-- What the selected register shifts out while no challenge is: IDCODE, or the bypass bit (R493). -/
def State.tapData (s : State) : List Byte := if s.sec.tap = .idcode then leBytes 4 0x1320898F else [0]

/-- SEC_CHAL: a fresh challenge is shifted out, where the TAP accepts the instruction (R493, R494). -/
def execSecChal (challenge : List Byte) (s : State) : Host.Outcome State Fault Refusal :=
  .next (
    let s0 := tapSelect .secChal s
    if s0.sec.tap ≠ .secChal ∨ s.on fSec_TA_STAT_BLOCKED ∨ s.dark then s0.emit (.tap s0.tapData)
    else
      let c := padTo 32 (challenge.take 32)
      let s1 := ((s0.setFld fSec_TA_STAT_CHAL_VALID 1).setFld fSec_STAT_TA_STATE 1).modSec ({ · with chal := some (c, s.up) })
      (showTa s1).emit (.tap c))

/-- The challenge in force ends. -/
def dropChal (s : State) : State :=
  showTa (((s.setFld fSec_TA_STAT_CHAL_VALID 0).setFld fSec_STAT_TA_STATE 0).modSec ({ · with chal := none }))

/-- CHALLENGE_EXPIRY (R494). -/
def execChallengeExpiry (s : State) : Host.Outcome State Fault Refusal :=
  .next (if s.sec.chal.isSome then dropChal s else s)

/-- A response is refused (R494) (DEDUCED, log entry 68). -/
def State.respRefused (s : State) (r : List Byte) : Bool :=
  let pk := (r.drop 4).take 2592
  s.locked || s.fuses.jtagDis ||
  (match s.sec.chal with
   | none => true
   | some (c, since) =>
     decide (since + 60 * secU ≤ s.up) || !((Tab.find s.fuses.slots (field r 0 1)).any (·.ta)) || !s.keyOk (field r 0 1) pk
     || (List.range 16).any (fun i => (vote (s.ancCopies i)).value.isNone)
     || !Config.mldsaOk pk (c ++ s.ancBytes 0 16) ((r.drop 2596).take 4627))

/-- A failed response is counted, and the third blocks (R494). -/
def respFailed (s : State) : State :=
  let s1 := s.addSat fSec_TA_STAT_FAILS
  let s2 := if 3 ≤ s1.fld fSec_TA_STAT_FAILS then s1.setFld fSec_TA_STAT_BLOCKED 1 else s1
  raise_ fSec_EVENT_TA_FAIL (dropChal s2)

/-- How many of the three tries of zeroisation it takes, none when all fail (R495). -/
def zeroTries (cleared : List Bool) : Option Nat := ((cleared.take 3).findIdx? (· == true)).map (· + 1)

/-- Steps 2 to 4 of R495, in a device already held in reset: the vault and the derived key, word 50, the test-access state and internal
scan (DEDUCED, log entry 68). -/
def zeroise (cleared : List Bool) (s : State) : State :=
  let ok := (zeroTries cleared).isSome
  let s1 := s.modSec fun c => { c with vault := if ok then 0 else c.vault, derived := if ok then 0 else c.derived, scan := ok }
  let n := (zeroTries cleared).getD 3
  let done := if (zeroTries cleared).isSome then 3 else 0
  showTa ((ancWrite 50 (BitVec.ofNat 32 (16 * n + done)) s1).setFld fSec_STAT_TA_STATE (if done = 3 then 2 else 3))

end Sys2Proof.Machine
end

