-- ==== Sys2Proof/Machine/Withdraw.lean ====
section
/-! DEFINITION. Commands that end when their queue is disabled or their function is reset, and the writes that enable and
disable a queue pair (R356, R357). -/

namespace Sys2Proof.Machine

/-- A list but its first element loses the entries for which `p` holds; those lost come second: a serial order whose
head is being served (R356). -/
def dropTail {α : Type} (p : α → Bool) : List α → List α × List α
  | [] => ([], [])
  | a :: r => (a :: r.filter (!p ·), r.filter p)

/-- Takes and rewinds of queue `q` end (R356). -/
def abortTakes (post : Bool) (q : Nat) (s : State) : State :=
  s.loom.esps.foldl (fun a e =>
    let p := e.2
    let mine (c : Option EspCmd) : Bool := c.any (·.hdr.qp == q)
    let stop (c : Option EspCmd) (b : State) : State := match c with
      | some x => if x.hdr.qp = q then endWaiter post x.hdr b else b
      | none => b
    if mine p.take || mine p.rew then
      stop p.rew (stop p.take (a.setEsp e.1 { p with
        take := if mine p.take then none else p.take, rew := if mine p.rew then none else p.rew }))
    else a) s

/-- Jumps of queue `q` end (R356). -/
def abortJumps (post : Bool) (q : Nat) (s : State) : State :=
  (List.range 4).foldl (fun a k =>
    match (a.gen k).jump with
    | some j => if j.hdr.qp = q then endWaiter post j.hdr (a.modGen k ({ · with jump := none })) else a
    | none => a) s

/-- Shuttle starts of queue `q` that wait for a stroke end (R330, R356). -/
def abortStarts (post : Bool) (q : Nat) (s : State) : State :=
  s.sht.sh.foldl (fun a e => if e.2.start.any (·.hdr.qp == q) then abortStart post e.1 a else a) s

/-- Loads and attestations of queue `q` that wait for their turn end (R356). -/
def abortSerial (post : Bool) (q : Nat) (s : State) : State :=
  let (loads, l) := dropTail (fun e : Hdr × Nat × Option (List Byte) => e.1.qp == q) s.sht.loads
  let (atts, m) := dropTail (fun e : Hdr × List Byte => e.1.qp == q) s.sec.attests
  let s1 := { s with sht := { s.sht with loads := loads }, sec := { s.sec with attests := atts } }
  (l.map (·.1) ++ m.map (·.1)).foldl (fun a h => endWaiter post h a) s1

/-- Accepted commands of queue `q` that wait for a stroke or their turn end without effect (R356). -/
def abortWaiting (post : Bool) (q : Nat) (s : State) : State :=
  abortSerial post q (abortStarts post q (abortJumps post q (abortTakes post q s)))

/-- QP_ENABLE: a write to QPn.CTL (R341, R357). -/
def execQpEnable (fn qp : Nat) (v : W32) (s : State) : Host.Outcome State Fault Refusal :=
  .next (hostAccess (fun s => if qp < 256 && (fn == 0 || s.ownerOf qp == fn) then
    writeQpCtl abortWaiting fn (s.placeQp fn qp 0).1 (s.placeQp fn qp 0).2 qp v s else s) s)

/-- QP_DISABLE: a write to QPn.CTL (R341, R356). -/
def execQpDisable (fn qp : Nat) (v : W32) (s : State) : Host.Outcome State Fault Refusal :=
  .next (hostAccess (fun s => if qp < 256 && (fn == 0 || s.ownerOf qp == fn) then
    writeQpCtl abortWaiting fn (s.placeQp fn qp 0).1 (s.placeQp fn qp 0).2 qp v s else s) s)

/-! ## Commands whose completion no host sees (R356) -/

/-- A header of a function that has been reset (DEDUCED, log entry 13). -/
def silentHdr (p : Nat → Bool) (h : Hdr) : Hdr := if p h.qp then { h with qp := noQueue } else h

/-- The frames that a lane's transmitter holds. -/
def silenceFrame (p : Nat → Bool) (f : TxFrame) : TxFrame :=
  match f.src with
  | .host h => { f with src := .host (silentHdr p h) }
  | _ => f

/-- A lane's commands. -/
def silenceLane (p : Nat → Bool) (l : Lane) : Lane :=
  { l with modeCmd := l.modeCmd.map (fun c => { c with hdr := silentHdr p c.hdr })
           loopCmd := l.loopCmd.map (fun c => { c with hdr := silentHdr p c.hdr })
           trainCmd := l.trainCmd.map (silentHdr p), host := l.host.map (silenceFrame p) }

/-- A crew frame's command. -/
def silenceCrew (p : Nat → Bool) (f : CrewFrame) : CrewFrame :=
  match f.tag with
  | .relay h => { f with tag := .relay (silentHdr p h) }
  | _ => f

/-- Every command in progress of the queues that `p` names runs to its end without a completion (R356) (DEDUCED, log entry 13). -/
def silence (p : Nat → Bool) (s : State) : State :=
  let q (h : Hdr) : Hdr := silentHdr p h
  { s with
    lanes := s.lanes.map fun e => (e.1, silenceLane p e.2)
    links := s.links.map fun e => (e.1, { e.2 with frames := e.2.frames.map (silenceCrew p) })
    crew := { s.crew with join := s.crew.join.map q, leave := s.crew.leave.map q }
    beam := { s.beam with bolts := s.beam.bolts.map fun e =>
      (e.1, { e.2 with binding := e.2.binding.map fun b => { b with hdr := q b.hdr } }) }
    loom := { s.loom with isps := s.loom.isps.map fun e => (e.1, { e.2 with closing := e.2.closing.map q }) }
    sht := { s.sht with loads := s.sht.loads.map fun e => (q e.1, e.2) }
    drf := { s.drf with ch := s.drf.ch.map fun e => (e.1, { e.2 with hdr := e.2.hdr.map q, abort := e.2.abort.map q }) }
    sec := { s.sec with
      stage := s.sec.stage.map (fun e => (q e.1, e.2)), commit := s.sec.commit.map (fun e => (q e.1, e.2))
      attests := s.sec.attests.map (fun e => (q e.1, e.2)) }
    bist := s.bist.map fun b => { b with hdr := q b.hdr } }

end Sys2Proof.Machine
end

