-- ==== Sys2Proof/Machine/Reset.lean ====
section
/-! DEFINITION. POR, PERST, FLR, the two states in which the device is held in reset, and SYS.READY (R5, R218, R243,
R334, R340, R356, R405, R459, R470, R495, R541-R551). -/

namespace Sys2Proof.Machine

/-- Registers of the always-on island, which PERST keeps (R547): PWR, THM, ANC and SYS.CAUSE (R551). -/
def aonReg (r : RegId) : Bool := r.blk == .pwr || r.blk == .thm || r.blk == .anc || (r.blk == .sys && r.off == 4)

/-- The balls in reset: bias outputs source nothing or are high-impedance, heaters, MOD_RST_N, STROKE_OUT, PPS_OUT and the flash bus are
high-impedance, WAKE_N and the two-wire balls are released, CLKREQ_N is low, and the transmit pairs are at electrical idle (R207, R427, R433,
R436, R540). -/
def dropOuts (s : State) : State :=
  let s1 := (List.range 16).foldl (fun a n => a.emit (.biasOff n)) s
  let s2 := (List.range 8).foldl (fun a n => a.emit (.pin ("HTR" ++ toString n) none)) s1
  let s3 := ["MOD_RST_N", "STROKE_OUT", "PPS_OUT", "WAKE_N", "SPI_SCK", "SPI_CS_N", "SPI_IO"].foldl (fun a p => a.emit (.pin p none)) s2
  let s4 := (List.range 8).foldl (fun a n => (a.emit (.mgtReleased n)).emit (.elecIdle ("LN" ++ toString n ++ "_TX"))) s3
  (["CX0_TX", "CX1_TX"].foldl (fun a p => a.emit (.elecIdle p)) s4).emit (.pin "CLKREQ_N" (some false))

/-- The supervision outputs as reset releases them: bias outputs at the safe value of span 0, heaters and MOD_RST_N low
(R427, R433, R436, R540) (DEDUCED, log entry 69). -/
def releaseOuts (s : State) : State :=
  let s1 := (List.range 16).foldl (fun a n => a.emit (biasOut n 0 none)) s
  ((List.range 8).foldl (fun a n => a.emit (htrPin n false)) s1).emit (.pin "MOD_RST_N" (some false))

/-- Every block but the always-on island is in reset (R5, R459, R477, R547); beam contents are lost, the failed
unlocks since POR still count, and OPEN and ZERO_FAIL stay (R284, R494, R495) (DEDUCED, log entry 5; DEDUCED, log entry 70). -/
def holdReset (s : State) : State :=
  let s1 : State :=
    { up := s.up, free := s.free, regs := s.regs.filter (aonReg ·.1)
      host := { out := s.host.out, hiLatch := s.host.hiLatch.filter (aonReg ·.1.2), capt := s.host.capt.filter (aonReg ·.1.2)
                loHeld := s.host.loHeld.filter (aonReg ·.1.2) }
      beam := { epoch := s.beam.epoch + 1 }, pwr := s.pwr
      thm := (sumCodes s).thm, bias := { modInt := s.bias.modInt }, fuses := s.fuses, anc := s.anc, t0 := s.t0
      sec := { vault := s.sec.vault, derived := s.sec.derived, scan := s.sec.scan, tap := s.sec.tap }
      dark := s.dark, pending := s.pending }
  let s2 := ((if 2 ≤ s.fld fSec_STAT_TA_STATE then s1.setFld fSec_STAT_TA_STATE (s.fld fSec_STAT_TA_STATE) else s1).setFld fSec_TA_STAT_FAILS (s.fld fSec_TA_STAT_FAILS)).setFld fSec_TA_STAT_BLOCKED (s.fld fSec_TA_STAT_BLOCKED)
  dropOuts (loadCal (raiseRefresh (perstThermal (perstPower s2))))

/-- The straps are latched at T0, and start-up begins (R544, R546, R549) (DEDUCED, log entry 67; DEDUCED, log entry 69). -/
def startUp (straps : Nat) (s : State) : State :=
  let s1 := ((releaseOuts s).setReg rSys_STRAPS (BitVec.ofNat 32 (straps % 32))).setFld fCox_TB_CTL_TBCLK_25 (straps % 2)
  let s2 := { s1 with t0 := s1.up }
  if s2.hostBootStrap then awaitHost s2 else s2

/-- PERST: a low pulse on PERST_N and its rise (R5, R544, R548) (DEDUCED, log entry 5; DEDUCED, log entry 13; DEDUCED, log entry 67; DEDUCED, log entry 69). -/
def execPerst (straps : Nat) (s : State) : Host.Outcome State Fault Refusal :=
  .next (
    if s.dark then s.setFld fSys_CAUSE_PERST 1
    else startUp straps (((holdReset s).setFld fSys_CAUSE_PERST 1).modSec fun _ => { SecSt.unwrapped s.fuses with tap := s.sec.tap }))

/-- The always-on pins that a POR releases (R469, R470) (DEDUCED, log entry 69). -/
def releasePins (old : ThmSt) (s : State) : State :=
  let s1 := if old.tripped then s.emit (.pin "THERMTRIP_N" none) else s
  if old.alert then s1.emit (.pin "ALERT_N" none) else s1

/-- POR, from SYS_RST_N or from a rail (R5, R542, R543, R548): everything but the fuses is reset (DEDUCED, log entry 69; DEDUCED, log entry 70). -/
def execPor (pin : Bool) (straps : Nat) (s : State) : Host.Outcome State Fault Refusal :=
  let s1 : State :=
    { regs := [], sec := SecSt.unwrapped s.fuses, fuses := s.fuses, beam := { epoch := s.beam.epoch + 1 }, free := s.free
      host := { out := s.host.out }, bias := { modInt := s.bias.modInt }, pending := s.pending }
  .next (startUp straps (dropOuts (releasePins s.thm (s1.setReg rSys_CAUSE (if pin then 2#32 else 1#32)))))

/-- The anchor store is voted (R297) (DEDUCED, log entry 67). -/
def voteAll (s : State) : State := (List.range 64).foldl (fun a j => (ancVote j a).2) s

/-- Start-up is complete (R550). -/
def State.started (s : State) : Bool :=
  (List.range 16).all (fun k => s.on (fBm_STAT_TRAINED k) || s.on (fBm_STAT_FAILED k)) && s.sec.booted && s.houseRuns

/-- READY: SYS.READY.READY is set `ms` after T0; a boot from the other slot raises FALLBACK (R485, R549-R551). -/
def execReady (ms : Nat) (s : State) : Host.Outcome State Fault Refusal :=
  .next (
    if s.ready || s.dark || !s.started then s
    else
      let s1 := showPhase (((voteAll s).setFld fSys_READY_READY 1).setFld fSys_READY_MS_MS (min 65535 ms))
      let s2 := s1.modThm fun m => { m with readyAt := some (m.readyAt.getD s.up) }
      if s2.on fSec_STAT_FALLBACK then raise_ fSec_EVENT_FALLBACK s2 else s2)

/-! ## FLR -/

/-- A function-level reset of what a function's configuration space sets: MSI-X, and of the PF PTM, LTR and the read request size; Max
Payload Size, ASPM and the AER status stay (R340; PCIe Base Specification) (PRESUMED, log entry 9). -/
def flrCfg (f : Nat) (c : CfgSt) : CfgSt :=
  let m := { c with msixOn := c.msixOn.filter (·.1 != f), msixOff := c.msixOff.filter (·.1 != f) }
  if f = 0 then { m with ptm := false, ltr := false, snoop := 0, noSnoop := 0, maxRead := 2 } else m

/-- The state of the host interface that belongs to function `f` returns to reset (R340, R356, R369). -/
def resetFunction (f : Nat) (qs : List Nat) (s : State) : State :=
  let s1 := s.resetRegs fun r => ((r.blk == .nq || r.blk == .msix || r.blk == .win) && r.inst == f) || (r.blk == .qp && qs.contains r.inst)
  let h := s1.host
  { s1 with host := { h with
      qps := h.qps.filter (fun e => !qs.contains e.1), rings := h.rings.filter (·.1 != f), bme := h.bme.filter (·.1 != f)
      held := h.held.filter (·.1 != f), cfg := flrCfg f h.cfg } }

/-- FLR of one function: waiting commands end, those in progress end silently, its ports close, its queues and notice
ring reset (R218, R243, R340, R356). -/
def flrFunction (f : Nat) (s : State) : State :=
  let qs := (List.range 256).filter fun q => s.ownerOf q == f
  let s1 := qs.foldl (fun a q => abortQueued false q (abortWaiting false q a)) s
  resetFunction f qs (flrEgress f (flrIngress f (silence (qs.contains ·) s1)))

/-- FLR of the PF, which clears VF Enable and acts on every VF too (R340, R356, R369, R405, R413, R459, R532, R547). -/
def flrPf (s : State) : State :=
  let s1 := (List.range 32).foldl (fun a f => flrFunction f a) s
  let s2 := { s1 with host := { s1.host with vfs := 0 } }
  let s3 := s2.resetRegs fun r => r.blk == .que && decide (0x104 ≤ r.off ∧ r.off < 0x180)
  let s4 := showEgress (flrShuttles (flrDrafts (s3.modLoom ({ · with rules := [] }))))
  (dropHint s4).setFld fSplit_CTL_EN 0

/-- FLR (R340, R548) (DEDUCED, log entry 13). -/
def execFlr (fn : Nat) (s : State) : Host.Outcome State Fault Refusal :=
  .next (if s.dark then s
    else if fn = 0 then hostAccess flrPf s
    else if fn ≤ s.host.vfs then hostAccess (flrFunction fn) s else s)

/-! ## Configuration space -/

/-- VF Enable and NumVFs change: a VF that is no longer enabled is reset (R340; PCIe Base Specification) (PRESUMED, log entry 9). -/
def setVfs (n : Nat) (s : State) : State :=
  let s1 := ((List.range 32).filter (n < ·)).foldl (fun a f => if f ≤ s.host.vfs then flrFunction f a else a) s
  { s1 with host := { s1.host with vfs := n } }

/-- A write to the configuration space of function `fn` (R192, R336, R338, R339, R365, R444, R458). -/
def cfgWrite (fn : Nat) (w : CfgSet) (s : State) : State :=
  match w with
  | .bme on => let s1 := setBusMaster fn on s
    if fn = 0 ∧ on then draftsResume s1 else s1
  | .msix enable mask =>
    let s1 := s.modCfg fun c => { c with msixOn := Tab.set c.msixOn fn enable, msixOff := Tab.set c.msixOff fn mask }
    if s1.msixLive fn && s1.bme fn then sendAllPending fn s1 else s1
  | .vfs n => if fn = 0 then setVfs n s else s
  | .ptm on => if fn = 0 then s.modCfg ({ · with ptm := on }) else s
  | .ltr on => if fn = 0 then s.modCfg ({ · with ltr := on }) else s
  | .ltrMax a b => if fn = 0 then s.modCfg ({ · with snoop := a, noSnoop := b }) else s
  | .aspm a b => if fn = 0 then s.modCfg ({ · with l1 := a, l12 := b }) else s
  | .payload c => if fn = 0 then s.modCfg ({ · with maxPay := c }) else s
  | .readReq c => if fn = 0 then s.modCfg ({ · with maxRead := c }) else s
  | .aerClear a b =>
    if fn = 0 then s.modCfg fun c => { c with aerUnc := Nat.xor c.aerUnc (Nat.land c.aerUnc a), aerCor := Nat.xor c.aerCor (Nat.land c.aerCor b) }
    else s

/-- BUS_MASTER_ENABLE: a function's configuration space is written; setting Bus Master Enable writes the completions that waited, issues
the reads that fell due and sends the messages that waited (R339) (DESIGN CHOICE, log entry 10; DESIGN CHOICE, log entry 131). -/
def execBusMasterEnable (fn : Nat) (w : CfgSet) (s : State) : Host.Outcome State Fault Refusal :=
  .next (hostAccess (cfgWrite fn w) s)

/-! ## Held in reset -/

/-- What a sample changes while the device is held in reset: the always-on island alone. -/
def keepAon (s r : State) : State :=
  { s with regs := s.regs.filter (fun e => !aonReg e.1) ++ r.regs.filter (aonReg ·.1), thm := r.thm
           host := { s.host with out := r.host.out } }

/-- The thermal trip: THERMTRIP_N low, and every block but the always-on island in reset until POR (R470). -/
def thermalTrip (s : State) : State :=
  { (holdReset (s.emit (.pin "THERMTRIP_N" (some false)))).modThm ({ · with tripped := true }) with dark := true }

/-- SENSOR_SAMPLE (R462-R465, R469, R470) (DEDUCED, log entry 5). -/
def execSensorSample (t : List (Option Int)) (s : State) : Host.Outcome State Fault Refusal :=
  let s1 := if s.dark then keepAon s (sample t s) else sample t s
  .next (if s1.trips ∧ !s.thm.tripped then thermalTrip s1 else s1)

/-- SEC_RESP: refused and counted, or accepted: the device is held in reset until POR, the vault cleared, and the
test-access state OPEN or ZERO_FAIL (R494, R495) (DEDUCED, log entry 68). -/
def execSecResp (resp : List Byte) (cleared : List Bool) (s : State) : Host.Outcome State Fault Refusal :=
  .next (
    let s0 := tapSelect .secResp s
    if s.dark then s0
    else if s.respRefused resp then respFailed s0
    else zeroise cleared { holdReset (dropChal s0) with dark := true })

end Sys2Proof.Machine
end

