-- ==== Sys2Proof/Machine/Stroke.lean ====
section
/-! DEFINITION. A fired stroke and everything that acts on it (R35-R37, R194). -/

namespace Sys2Proof.Machine

/-- STROKE_OUT rises at each stroke of the selected generator, for SO_WIDTH or half the interval (R206). -/
def strokePulse (i : StrokeInfo) (s : State) : State :=
  if s.on fCox_OUT_CTL_SO_EN ∧ s.fld fCox_OUT_CTL_SO_SEL = i.k then
    let w := min (s.fld fCox_OUT_CTL_SO_WIDTH * 1000 * nsU) (i.interval.toNat / 2)
    { s.emit (.pin "STROKE_OUT" (some true)) with time := { s.time with soEnd := some ((s.upOf i.at_).toNat + w) } }
  else s

/-- A stroke that the monitor's sequencer waits for starts its delay (R36, R416). -/
def monStroke (k : Nat) (s : State) : State := monTrigger (.stroke k) s

/-- What a fired stroke does, `was` being its generator before it: crew, egress ports, shuttles, drafts, bias groups,
the monitor, STROKE_OUT. -/
def strokeActs (i : StrokeInfo) (was : Gen) (s : State) : State :=
  strokePulse i (monStroke i.k (biasStroke i.k (draftStroke i (shuttleStroke i (espStrokes i (crewStroke i.k (markMiss i.k was s)))))))

/-- The notices of a stroke carry its instant (R37). -/
def State.atStroke (s : State) (t : Option Int) : State := { s with time := { s.time with stroke := t } }

/-- STROKE: the next stroke of generator `k` fires; D_TB does not run in P3 (R194, R442) (DESIGN CHOICE, log entry 2). -/
def execStroke (k : Nat) (s : State) : Host.Outcome State Fault Refusal :=
  .next (
    if 4 ≤ k ∨ !s.tbRuns then s
    else match fire k (s.atStroke (some (s.gen k).comingAt)) with
      | (s1, some i) => (strokeActs i (s.gen k) s1).atStroke none
      | (s1, none) => s1.atStroke none)

end Sys2Proof.Machine
end

