-- ==== Sys2Proof/Machine/Writes.lean ====
section
/-! DEFINITION. Register writes (R1-R3, R6, R7, R13, R16-R19, R572): the writes with an effect of their own are dispatched
to their blocks, every other write is driven by the register tables. -/

namespace Sys2Proof.Machine

/-! ## Conditions for rejection -/

/-- The ARM field of the group of shadowed registers that a register belongs to is set (R7, R428). -/
def State.armedFor (s : State) (r : RegId) : Bool :=
  match r.blk with
  | .ln => decide (0x110 ≤ r.off ∧ r.off ≤ 0x128) && s.on (fLn_TX_FIR_CTL_ARM r.inst)
  | .bias => decide (r.off < 0x40) && s.on (fBias_GRP_ARM (s.biasGroup (r.off / 4)))
  | _ => false

/-- A queue pair is enabled or busy (R341, R357). -/
def State.qpLive (s : State) (q : Nat) : Bool := s.on (fQp_CTL_EN q) || s.on (fQp_STAT_BUSY q)

/-- A write of FN_QPf adds or removes a queue pair that is enabled or busy (R341). -/
def fnQpMoves (i : Nat) (v : W32) (s : State) : Bool :=
  (List.range 256).any fun q =>
    (decide (s.vfBase (i + 1) ≤ q ∧ q < s.vfBase (i + 1) + s.vfCount (i + 1)) !=
      decide (bits v 7 0 ≤ q ∧ q < bits v 7 0 + bits v 14 8)) && s.qpLive q

/-- A range of FN_QPf is too large, passes queue pair 255, or overlaps another (R341). -/
def fnQpBad (i : Nat) (v : W32) (s : State) : Bool :=
  decide (64 < bits v 14 8 ∨ 256 < bits v 7 0 + bits v 14 8) ||
  (List.range 31).any fun j => j != i && bits v 14 8 != 0 && s.vfCount (j + 1) != 0 &&
    decide (bits v 7 0 < s.vfBase (j + 1) + s.vfCount (j + 1) ∧ s.vfBase (j + 1) < bits v 7 0 + bits v 14 8)

/-- Conditions that reject a write of `v` to lane register `r` with E_STATE or E_RANGE (R64, R80, R98, R102, R127). -/
def lnGuards (r : RegId) (v : W32) (s : State) : List (Bool × Nat) :=
  let m := s.mode r.inst
  if r.off = 0x100 then [(s.tx r.inst != txStandby, eState), (v.getLsbD 1 && m == m400, eRange)]
  else if r.off = 0x200 then [((v.getLsbD 8 && m == m400) || (bits v 11 10 == 1 && m != m400), eRange)]
  else if r.off = 0x218 then [(m == m100 && decide (1 < bits v 1 0), eRange)]
  else if r.off = 0x228 then [(decide (bits v 23 16 ≤ bits v 15 8), eRange)]
  else if r.off = 0x410 then [(decide (bits v 31 16 ≤ bits v 15 0), eRange)]
  else []

/-- Conditions of its own that reject a write of `v` to register `r`, in the order of R572 (DEDUCED, log entry 6; DEDUCED, log entry 8). -/
def guards (r : RegId) (v : W32) (s : State) : List (Bool × Nat) :=
  match r.blk with
  | .ln => lnGuards r v s
  | .que => if 0x104 ≤ r.off then
      [(fnQpMoves ((r.off - 0x104) / 4) v s, eState), (fnQpBad ((r.off - 0x104) / 4) v s, eRange)] else []
  | .qp => if 8 ≤ r.off ∧ r.off ≤ 0x20 then [(s.qpLive r.inst, eState)] else []
  | .drf => if 0x100 ≤ r.off ∧ r.off < 0x140 then [(s.fld fDrf_STAT_RUNNING != 0, eBusy)] else []
  | .gen => if r.off = 0xC then [(s.follows r.inst, eState)] else []
  | .mgt => if 0x80 ≤ r.off then [(s.on (fMgt_STAT_BUSY r.inst), eBusy)] else []
  | .bias => if 0x40 ≤ r.off ∧ r.off < 0x80 then
      [(bits v 1 0 != s.biasGroup ((r.off - 0x40) / 4) &&
        (s.on (fBias_GRP_ARM (s.biasGroup ((r.off - 0x40) / 4))) || s.on (fBias_GRP_ARM (bits v 1 0))), eState)] else []
  | .sec => if 0x20 ≤ r.off ∧ r.off ≤ 0x28 then [(!s.on fSec_STAT_WAIT_HOST, eState)] else []
  | .split => if r.off = 0x18 then [(decide (2 ^ s.fld fSplit_RING_LOG2 ≤ bits v 15 0), eRange)]
      else if 8 ≤ r.off then [(s.on fSplit_CTL_EN, eState)] else []
  | .mon => if r.off = 0xF04 then [(decide (bits v 27 16 < bits v 11 0 + 1024), eRange)] else []
  | _ => []

/-- A register is one of SH00-SH03, whose registers the host only reads (R335, R523) (DEDUCED, log entry 8). -/
def isHouse (r : RegId) : Bool := r.blk == .sh && decide (r.inst < 4)

/-- A register holds a field that a write may change; writes of any other are ignored (R3). -/
def writable (d : RegDesc) : Bool := d.flds.any fun f => f.acc != .ro

/-- The conditions for rejection of a write of `v` to register `r`, in the order of R572 (DEDUCED, log entry 6; DEDUCED, log entry 7; DEDUCED, log entry 8). -/
def writeChecks (d : RegDesc) (r : RegId) (v : W32) (s : State) : List (Bool × Nat) :=
  [((s.unavailable r).isSome, (s.unavailable r).getD 0), (isHouse r, ePriv),
    (s.armedFor r && changes d .sh (s.reg r) v, eBusy)] ++
    (if writable d then guards r v s else []) ++ [(!inRange d v, eRange)]

/-! ## Effects -/

/-- What of a written value reaches the register: automatic settings are not overwritten (R99). Where one word clears an
AUTO bit and carries a new value of its setting, the AUTO bit held before the write decides, and the value is not taken
(DESIGN CHOICE, log entry 89). One that sets CTLE_AUTO shows the peaking in use, not a value that waits for ACQUIRE (R97, R99). -/
def settle (r : RegId) (v : W32) (s : State) : W32 :=
  if r.blk == .ln && r.off == 0x208 then
    let v1 := if s.on (fLn_RX_AFE_CTLE_AUTO r.inst) then putBits v 27 24 (s.fld (fLn_RX_AFE_CTLE r.inst))
      else if v.getLsbD 31 then putBits v 27 24 (s.actFld (fLn_RX_AFE_CTLE r.inst)) else v
    if s.on (fLn_RX_AFE_VGA_AUTO r.inst) then putBits v1 14 8 (s.fld (fLn_RX_AFE_VGA r.inst)) else v1
  else v

/-- What follows an accepted write of register `r`, whose value before it was `w`: an unmasked vector with its pending
bit set sends its message (PCIe Base Specification), a tagging shuttle starts its sequence (R524), and a RETRY_MAX that RETRY has reached
fails the receiver (R88); a punt class's bucket has filled at the old RATE (R238) (PRESUMED, log entry 9; DEDUCED, log entry 86). -/
def afterWrite (r : RegId) (w : W32) (s : State) : State :=
  match r.blk with
  | .msix =>
    if r.off < 0x200 ∧ r.off % 16 = 12 ∧ w.getLsbD 0 then sendPending r.inst (r.off / 16) s else s
  | .sh =>
    if r.off = 0x80 ∧ !w.getLsbD 31 ∧ (s.reg r).getLsbD 31 then
      s.modShut r.inst ({ · with lfsr := r.inst + 1, tagIn := 0 })
    else s
  | .ln => if r.off = 0x228 then retryReached r.inst s else s
  | .cox => if r.off = 0x80 then outCtlChanged w s else s
  | .loom => (List.range 6).foldl (fun a c => if r = rLoom_PUNT_CFG c then settleTokens c (s.setReg r w) a else a) s
  | _ => s

/-- A write that the register tables drive (R1, R3, R16, R17, R572). -/
def writeTable (fn space ofs : Nat) (d : RegDesc) (r : RegId) (v : W32) (s : State) : State :=
  let x := settle r v s
  match firstFail (writeChecks d r x s) with
  | some st => rejectWrite fn space ofs st s
  | none => afterWrite r (s.reg r) (s.setReg r (applyAccess d (s.reg r) x))

/-- A write of the _LO half of a 64-bit register is held for the function (R13) (DEDUCED, log entry 6). -/
def writeLo (fn space ofs : Nat) (r : RegId) (v : W32) (s : State) : State :=
  match firstFail (((s.unavailable r).isSome, (s.unavailable r).getD 0) :: guards r v s) with
  | some st => rejectWrite fn space ofs st s
  | none => s.holdLo fn r v

/-- A write of the _HI half: the 64-bit value takes effect (R13) (DEDUCED, log entry 6). -/
def writeHi (fn space ofs : Nat) (d : RegDesc) (r : RegId) (v : W32) (s : State) : State :=
  let lo := loOf r
  let low := BitVec.ofNat 32 (s.heldLo fn lo (s.reg lo).toNat)
  let s1 := s.dropLo fn lo
  match firstFail (((s.unavailable r).isSome, (s.unavailable r).getD 0) :: guards r v s) with
  | some st => rejectWrite fn space ofs st s1
  | none =>
    let s2 := match findReg lo with
      | some dl => s1.setReg lo (applyAccess dl (s.reg lo) low)
      | none => s1
    s2.setReg r (applyAccess d (s.reg r) v)

/-- A write of REJ_POP: the oldest entry of the reject log goes (R366). -/
def writeRejPop (v : W32) (s : State) : State :=
  if v.getLsbD 0 then
    { s with host := { s.host with rejLog := s.host.rejLog.drop 1 } }.setFld fSys_REJ_STAT_COUNT (s.host.rejLog.length - 1)
  else s

/-- The lane registers whose writes have an effect of their own. -/
def lnWrite (n ofs : Nat) : Option (W32 → State → State) :=
  if ofs = 4 then some (writeLaneCtl n) else if ofs = 0x120 then some (writeFirCtl n)
  else if ofs = 0x210 then some (writeFdeSel n) else if ofs = 0x300 then some (writeCalCtl n)
  else if ofs = 0x310 then some (writeCalSel n) else if ofs = 0x408 then some (writeFecCtl n) else none

/-- The LOOM registers whose writes have an effect of their own. -/
def loomWrite (ofs : Nat) : Option (W32 → State → State) :=
  if ofs = 0x1004 then some writeIngCtl else if ofs = 0x1100 then some writeIspSel
  else if ofs = 0x2004 then some writeEgrCtl else if ofs = 0x2100 then some writeEspSel
  else if ofs = 0x2200 then some writeExpSel else none

/-- The MON, BIAS and THM registers whose writes have an effect of their own. -/
def superWrite (r : RegId) : Option (W32 → State → State) :=
  match r.blk with
  | .mon => if r.off = 0 then some writeMonCtl else if r.off = 0x1C then some writeTrip
      else if r.off = 0x28 then some writeMgtCtl else if r.off = 0x404 then some writeCoef else none
  | .ch => if r.off < 0x18 then some (writeCh r) else none
  | .mgt => if r.off = 0 then some (writeMgt r.inst) else none
  | .bias => if r.off = 0x90 then some writeBiasCtl else if r.off = 0x9C then some writeHtrEn
      else if 0x80 ≤ r.off ∧ r.off < 0x90 then some (writeGrp ((r.off - 0x80) / 4)) else none
  | .thm => if r.off = 4 then some writeSensSel else if r.off = 0x30 then some writeThmCtl
      else if r.off = 0x38 then some writePlanAck else if r.off = 0x44 then some writeAgeSel
      else if 0x10 ≤ r.off ∧ r.off ≤ 0x20 then some (writeBand ((r.off - 0x10) / 4)) else none
  | _ => none

/-- The registers of the PF's blocks whose writes have an effect of their own. -/
def pfWrite (r : RegId) : Option (W32 → State → State) :=
  match cntOf r with
  | some (c, filt) => some (writeCnt c filt)
  | none =>
    match r.blk with
    | .sys => if r.off = 0x104 then some writeRejPop else none
    | .que => if r.off = 4 then some (fun _ s => scan (s.watchedBy 0) s) else none
    | .drf => if r.off = 0 then some writeDrfCtl
        else if r.off = 0x14 then some (fun v s => match s.unavailable r with
          | some st => rejectReg r st s
          | none => s.setReg rDrf_FLAG (s.reg rDrf_FLAG &&& ~~~v))
        else none
    | .ck => if r.off = 0 then some (writeCkCtl r.inst) else if r.off = 4 then some (writeCkData r.inst)
        else if r.off = 8 then some (writeCkTail r.inst) else none
    | .cox => if r.off = 0 then some writeTbCtl else if r.off = 8 then some writeTbFreq
        else if r.off = 0x60 then some writePtmCtl else none
    | .cx => if r.off = 0 then some (writeCxCtl r.inst) else none
    | .sec => if r.off = 0 then some writeSecCtl else if r.off = 0x2C then some writeHbCtl else none
    | .split => if r.off = 0 then some writeSplitCtl else none
    | .ln => lnWrite r.inst r.off
    | .loom => loomWrite r.off
    | .bm => if r.off = 4 then some (writeBmCtl r.inst) else if r.off = 8 then some (writeScrubCtl r.inst) else none
    | .bmw => if r.off = 0x8008 then some writeLogPop else none
    | .sh => if r.off = 0 then some (writeShCtl r.inst) else none
    | _ => superWrite r

/-- The registers whose writes have an effect of their own and that a VF also reaches, or that depend on the function. -/
def fnWrite (fn space ofs : Nat) (r : RegId) : Option (W32 → State → State) :=
  match r.blk with
  | .qp => if r.off = 0 then some (writeQpCtl abortWaiting fn space ofs r.inst)
      else if r.off = 0x2C then some (fun _ s => kick fn r.inst s) else none
  | .nq => if r.off = 8 then some (writeNqCtl fn space ofs r.inst)
      else if r.off = 0x10 then some (writeNqCi fn space ofs r.inst) else none
  | .win => if r.off = 0x10 then some (fun _ s => scan (s.watchedBy fn) s) else none
  | .cox => if r.off = 0x20 then some (writeServoLo fn) else if r.off = 0x24 then some (writeServoHi fn) else none
  | _ => none

/-- A write of `v` to register `r` by function `fn`; `space` and `ofs` locate it for the reject log. -/
def writeReg (fn space ofs : Nat) (r : RegId) (v : W32) (s : State) : State :=
  match fnWrite fn space ofs r, pfWrite r, findReg r with
  | some f, _, _ => f v s
  | none, some f, _ => f v s
  | none, none, some d =>
    if writable d && isLo r then writeLo fn space ofs r v s
    else if writable d && isHi r then writeHi fn space ofs d r v s
    else writeTable fn space ofs d r v s
  | none, none, none => rejectWrite fn space ofs eField s

/-- A write of an offset: unassigned offsets are dropped and logged with E_FIELD (R2), also inside a block that is OFF or in
self-test (DESIGN CHOICE, log entry 90). -/
def writeAt (fn addr : Nat) (v : W32) (s : State) : State :=
  match s.regAt fn addr with
  | none => if inBar fn addr then rejectWrite fn (spaceOf fn) addr eField s else unsupported s
  | some r => writeReg fn (spaceOf fn) addr r v s

/-- REJ_POP (R366). -/
def execRejPop (v : W32) (s : State) : Host.Outcome State Fault Refusal := .next (hostAccess (writeRejPop v) s)

/-- LO_WRITE: a _LO write is held for the function (R13). -/
def execLoWrite (fn addr : Nat) (v : W32) (s : State) : Host.Outcome State Fault Refusal :=
  .next (regAccess (s.regAt fn addr) (writeAt fn addr v) s)

/-- HI_WRITE: the whole 64-bit value takes effect (R13). -/
def execHiWrite (fn addr : Nat) (v : W32) (s : State) : Host.Outcome State Fault Refusal :=
  .next (regAccess (s.regAt fn addr) (fun a => writeAt fn addr v a) s)

/-- REGISTER_WRITE: a write of any register (R1-R3, R16, R17, R572) (DESIGN CHOICE, log entry 81). -/
def execRegisterWrite (fn addr : Nat) (v : W32) (s : State) : Host.Outcome State Fault Refusal :=
  .next (regAccess (s.regAt fn addr) (fun a => writeAt fn addr v a) s)

end Sys2Proof.Machine
end

