-- ==== Sys2Proof/Machine/Dispatch.lean ====
section
/-! DEFINITION. The dispatcher: one arm per command of spec/opcode_table.json, in the table's order. -/

namespace Sys2Proof.Machine

/-- The effect of a command on everything but the queue of waiting commands. -/
def exec (i : Instr) (s : State) : Host.Outcome State Fault Refusal :=
  match i with
  | .ispOpen h port bolt blk => Sys2Proof.Machine.execIspOpen h port bolt blk s
  | .ispClose h port => Sys2Proof.Machine.execIspClose h port s
  | .espOpen h port bolt blk => Sys2Proof.Machine.execEspOpen h port bolt blk s
  | .espClose h port => Sys2Proof.Machine.execEspClose h port s
  | .espTake h port bolt c => Sys2Proof.Machine.execEspTake h port bolt c s
  | .espRewind h port rew c => Sys2Proof.Machine.execEspRewind h port rew c s
  | .expRule h rule rec => Sys2Proof.Machine.execExpRule h rule rec s
  | .bayAlloc h owner any size base => Sys2Proof.Machine.execBayAlloc h owner any size base s
  | .bayFree h bay => Sys2Proof.Machine.execBayFree h bay s
  | .boltSet h bolt bay kind bind ofs slotSize slots => Sys2Proof.Machine.execBoltSet h bolt bay kind bind ofs slotSize slots s
  | .boltBindDone bolt => Sys2Proof.Machine.execBoltBindDone bolt s
  | .shtLoad h sh img => Sys2Proof.Machine.execShtLoad h sh img s
  | .shtLoadDone sh => Sys2Proof.Machine.execShtLoadDone sh s
  | .shtStart h sh resume atStroke k c blk => Sys2Proof.Machine.execShtStart h sh resume atStroke k c blk s
  | .shtStop h sh => Sys2Proof.Machine.execShtStop h sh s
  | .shtMsg h sh w0 w1 => Sys2Proof.Machine.execShtMsg h sh w0 w1 s
  | .draftRun h chan pri len prog => Sys2Proof.Machine.execDraftRun h chan pri len prog s
  | .draftAbort h chan => Sys2Proof.Machine.execDraftAbort h chan s
  | .laneMode h lane mode variant width end_ => Sys2Proof.Machine.execLaneMode h lane mode variant width end_ s
  | .laneReconfigDone lane => Sys2Proof.Machine.execLaneReconfigDone lane s
  | .laneTrain h lane rx tx => Sys2Proof.Machine.execLaneTrain h lane rx tx s
  | .laneLoop h target kind => Sys2Proof.Machine.execLaneLoop h target kind s
  | .lanePrbs h target gen chk pattern inj injArg => Sys2Proof.Machine.execLanePrbs h target gen chk pattern inj injArg s
  | .strokeDef h k num den src stepMode phase => Sys2Proof.Machine.execStrokeDef h k num den src stepMode phase s
  | .strokeJump h k toIn delta => Sys2Proof.Machine.execStrokeJump h k toIn delta s
  | .timeSet h relative sec ns frac ofs => Sys2Proof.Machine.execTimeSet h relative sec ns frac ofs s
  | .crewJoin h id role topo share relayEn leadUs rxQp => Sys2Proof.Machine.execCrewJoin h id role topo share relayEn leadUs rxQp s
  | .crewLeave h => Sys2Proof.Machine.execCrewLeave h s
  | .crewRelay h dst dir len payload => Sys2Proof.Machine.execCrewRelay h dst dir len payload s
  | .pwrHint h target holdMs => Sys2Proof.Machine.execPwrHint h target holdMs s
  | .attest h len nonce => Sys2Proof.Machine.execAttest h len nonce s
  | .attestReportDone => Sys2Proof.Machine.execAttestReportDone s
  | .fwStage h addr len bundle => Sys2Proof.Machine.execFwStage h addr len bundle s
  | .fwStageDone => Sys2Proof.Machine.execFwStageDone s
  | .fwCommit h advance => Sys2Proof.Machine.execFwCommit h advance s
  | .fwCommitDone host readBack => Sys2Proof.Machine.execFwCommitDone host readBack s
  | .bistRun h mask => Sys2Proof.Machine.execBistRun h mask s
  | .bistEnd res => Sys2Proof.Machine.execBistEnd res s
  | .bistPreconditionFail m => Sys2Proof.Machine.execBistPreconditionFail m s
  | .query h obj kind => Sys2Proof.Machine.execQuery h obj kind s
  | .frameSend h ep len frame => Sys2Proof.Machine.execFrameSend h ep len frame s
  | .post h addr len => Sys2Proof.Machine.execPost h addr len s
  | .doorbellPoll qp => Sys2Proof.Machine.execDoorbellPoll qp s
  | .doorbellRead qp rec => Sys2Proof.Machine.execDoorbellRead qp rec s
  | .descriptorFetch qp descs => Sys2Proof.Machine.execDescriptorFetch qp descs s
  | .descriptorTake qp => Sys2Proof.Machine.execDescriptorTake qp s
  | .fenceRelease qp => Sys2Proof.Machine.execFenceRelease qp s
  | .irqTimerExpiry notice ring => Sys2Proof.Machine.execIrqTimerExpiry notice ring s
  | .nudge => Sys2Proof.Machine.execNudge s
  | .vfNudge fn => Sys2Proof.Machine.execVfNudge fn s
  | .kick fn qp => Sys2Proof.Machine.execKick fn qp s
  | .qpEnable fn qp v => Sys2Proof.Machine.execQpEnable fn qp v s
  | .qpDisable fn qp v => Sys2Proof.Machine.execQpDisable fn qp v s
  | .nqEnable fn f v => Sys2Proof.Machine.execNqEnable fn f v s
  | .nqCi fn f v => Sys2Proof.Machine.execNqCi fn f v s
  | .rejPop v => Sys2Proof.Machine.execRejPop v s
  | .rejE0Read fn => Sys2Proof.Machine.execRejE0Read fn s
  | .loRead fn addr => Sys2Proof.Machine.execLoRead fn addr s
  | .loWrite fn addr v => Sys2Proof.Machine.execLoWrite fn addr v s
  | .hiWrite fn addr v => Sys2Proof.Machine.execHiWrite fn addr v s
  | .resultRead fn addr => Sys2Proof.Machine.execResultRead fn addr s
  | .tbNsRead fn => Sys2Proof.Machine.execTbNsRead fn s
  | .ptmStatRead fn => Sys2Proof.Machine.execPtmStatRead fn s
  | .logE0Read fn => Sys2Proof.Machine.execLogE0Read fn s
  | .logPop v => Sys2Proof.Machine.execLogPop v s
  | .resStatRead fn ck => Sys2Proof.Machine.execResStatRead fn ck s
  | .tagPcRead fn sh => Sys2Proof.Machine.execTagPcRead fn sh s
  | .servoSample fn v => Sys2Proof.Machine.execServoSample fn v s
  | .fecClr lane v => Sys2Proof.Machine.execFecClr lane v s
  | .laneSrst lane v => Sys2Proof.Machine.execLaneSrst lane v s
  | .laneResetEnd lane => Sys2Proof.Machine.execLaneResetEnd lane s
  | .cxSrst n v => Sys2Proof.Machine.execCxSrst n v s
  | .bmSrst k v => Sys2Proof.Machine.execBmSrst k v s
  | .beamResetEnd k => Sys2Proof.Machine.execBeamResetEnd k s
  | .shSrst sh v => Sys2Proof.Machine.execShSrst sh v s
  | .monSrst v => Sys2Proof.Machine.execMonSrst v s
  | .biasSrst v => Sys2Proof.Machine.execBiasSrst v s
  | .drfSrst v => Sys2Proof.Machine.execDrfSrst v s
  | .drfRestart v => Sys2Proof.Machine.execDrfRestart v s
  | .ingCntClr v => Sys2Proof.Machine.execIngCntClr v s
  | .egrCntClr v => Sys2Proof.Machine.execEgrCntClr v s
  | .bmCntClr k v => Sys2Proof.Machine.execBmCntClr k v s
  | .cxCntClr n v => Sys2Proof.Machine.execCxCntClr n v s
  | .cxEnable n v => Sys2Proof.Machine.execCxEnable n v s
  | .calRun lane v => Sys2Proof.Machine.execCalRun lane v s
  | .ptmGo v => Sys2Proof.Machine.execPtmGo v s
  | .txArm lane v => Sys2Proof.Machine.execTxArm lane v s
  | .txHandover lane => Sys2Proof.Machine.execTxHandover lane s
  | .biasArm g v => Sys2Proof.Machine.execBiasArm g v s
  | .biasHandover g => Sys2Proof.Machine.execBiasHandover g s
  | .biasLoadEdge => Sys2Proof.Machine.execBiasLoadEdge s
  | .fdeSel lane v => Sys2Proof.Machine.execFdeSel lane v s
  | .calSel lane v => Sys2Proof.Machine.execCalSel lane v s
  | .ispSel v => Sys2Proof.Machine.execIspSel v s
  | .espSel v => Sys2Proof.Machine.execEspSel v s
  | .expSel v => Sys2Proof.Machine.execExpSel v s
  | .snapshotReady k => Sys2Proof.Machine.execSnapshotReady k s
  | .ageSel v => Sys2Proof.Machine.execAgeSel v s
  | .ageMeasureDone stressed unstressed => Sys2Proof.Machine.execAgeMeasureDone stressed unstressed s
  | .mgtGo n v => Sys2Proof.Machine.execMgtGo n v s
  | .mgtDone n acked stuck done data => Sys2Proof.Machine.execMgtDone n acked stuck done data s
  | .ckEnable n v => Sys2Proof.Machine.execCkEnable n v s
  | .ckData n v => Sys2Proof.Machine.execCkData n v s
  | .ckDataTail n v => Sys2Proof.Machine.execCkDataTail n v s
  | .ckFinal n v => Sys2Proof.Machine.execCkFinal n v s
  | .hbGo v => Sys2Proof.Machine.execHbGo v s
  | .secLock v => Sys2Proof.Machine.execSecLock v s
  | .thmRef v => Sys2Proof.Machine.execThmRef v s
  | .planAck v => Sys2Proof.Machine.execPlanAck v s
  | .splitEnable v => Sys2Proof.Machine.execSplitEnable v s
  | .cntCfgWrite addr v => Sys2Proof.Machine.execCntCfgWrite addr v s
  | .htrEnable v => Sys2Proof.Machine.execHtrEnable v s
  | .registerWrite fn addr v => Sys2Proof.Machine.execRegisterWrite fn addr v s
  | .bar2Read ofs len => Sys2Proof.Machine.execBar2Read ofs len s
  | .bar2Write ofs data => Sys2Proof.Machine.execBar2Write ofs data s
  | .signalDetect lane => Sys2Proof.Machine.execSignalDetect lane s
  | .lossOfSignal lane => Sys2Proof.Machine.execLossOfSignal lane s
  | .acquireDone lane powers rms lp => Sys2Proof.Machine.execAcquireDone lane powers rms lp s
  | .acquireTimeout lane => Sys2Proof.Machine.execAcquireTimeout lane s
  | .trainSolveDone lane tr => Sys2Proof.Machine.execTrainSolveDone lane tr s
  | .catchWaitExpiry lane => Sys2Proof.Machine.execCatchWaitExpiry lane s
  | .catchSequenceDetect lane header => Sys2Proof.Machine.execCatchSequenceDetect lane header s
  | .fdeBlockUpdate lane rx lp => Sys2Proof.Machine.execFdeBlockUpdate lane rx lp s
  | .dfeAdapt lane at_ => Sys2Proof.Machine.execDfeAdapt lane at_ s
  | .targetAdapt lane at1 at2 => Sys2Proof.Machine.execTargetAdapt lane at1 at2 s
  | .meritWindowEnd lane symbols rms => Sys2Proof.Machine.execMeritWindowEnd lane symbols rms s
  | .timingLockLoss lane => Sys2Proof.Machine.execTimingLockLoss lane s
  | .idleMarkerRx m => Sys2Proof.Machine.execIdleMarkerRx m s
  | .preamblePeak lane negative mag pl => Sys2Proof.Machine.execPreamblePeak lane negative mag pl s
  | .startMarkerRx lane m => Sys2Proof.Machine.execStartMarkerRx lane m s
  | .burstAbandon lane => Sys2Proof.Machine.execBurstAbandon lane s
  | .spareRestart lane mag at_ => Sys2Proof.Machine.execSpareRestart lane mag at_ s
  | .wakeMiss lane => Sys2Proof.Machine.execWakeMiss lane s
  | .calPassStart lane => Sys2Proof.Machine.execCalPassStart lane s
  | .calEstimateEnd lane levels slices squares power image => Sys2Proof.Machine.execCalEstimateEnd lane levels slices squares power image s
  | .calApplyStep lane => Sys2Proof.Machine.execCalApplyStep lane s
  | .rampStep lane => Sys2Proof.Machine.execRampStep lane s
  | .txIdleEntry p => Sys2Proof.Machine.execTxIdleEntry p s
  | .txWake lane => Sys2Proof.Machine.execTxWake lane s
  | .txBurstEnd lane => Sys2Proof.Machine.execTxBurstEnd lane s
  | .catchSequenceStart p => Sys2Proof.Machine.execCatchSequenceStart p s
  | .txFrameStart ep => Sys2Proof.Machine.execTxFrameStart ep s
  | .degradeWindowEnd lane corrected => Sys2Proof.Machine.execDegradeWindowEnd lane corrected s
  | .frameReceive ep f => Sys2Proof.Machine.execFrameReceive ep f s
  | .legLoss port leg => Sys2Proof.Machine.execLegLoss port leg s
  | .slotClose port idx => Sys2Proof.Machine.execSlotClose port idx s
  | .feedHoldExpiry port => Sys2Proof.Machine.execFeedHoldExpiry port s
  | .stroke k => Sys2Proof.Machine.execStroke k s
  | .packetDue port => Sys2Proof.Machine.execPacketDue port s
  | .audioPacketDue port => Sys2Proof.Machine.execAudioPacketDue port s
  | .beamTrainDone k ok => Sys2Proof.Machine.execBeamTrainDone k ok s
  | .refresh k => Sys2Proof.Machine.execRefresh k s
  | .refreshRateDrop k => Sys2Proof.Machine.execRefreshRateDrop k s
  | .scrubStep k upset => Sys2Proof.Machine.execScrubStep k upset s
  | .repairStep k upset => Sys2Proof.Machine.execRepairStep k upset s
  | .mergeFlush k line => Sys2Proof.Machine.execMergeFlush k line s
  | .anchorVote word upset => Sys2Proof.Machine.execAnchorVote word upset s
  | .halt at_ => Sys2Proof.Machine.execHalt at_ s
  | .alu at_ op dst src shift => Sys2Proof.Machine.execAlu at_ op dst src shift s
  | .mac at_ op acc d1 d2 y x => Sys2Proof.Machine.execMac at_ op acc d1 d2 y x s
  | .dualMac at_ word => Sys2Proof.Machine.execDualMac at_ word s
  | .transfer at_ op => Sys2Proof.Machine.execTransfer at_ op s
  | .do_ at_ cnt len => Sys2Proof.Machine.execDo at_ cnt len s
  | .rep at_ dat count => Sys2Proof.Machine.execRep at_ dat count s
  | .branch at_ cond target => Sys2Proof.Machine.execBranch at_ cond target s
  | .call at_ target => Sys2Proof.Machine.execCall at_ target s
  | .return_ at_ => Sys2Proof.Machine.execReturn at_ s
  | .in_ at_ d fifo => Sys2Proof.Machine.execIn at_ d fifo s
  | .out at_ o src round => Sys2Proof.Machine.execOut at_ o src round s
  | .send at_ dest d1 d2 => Sys2Proof.Machine.execSend at_ dest d1 d2 s
  | .wait at_ mask => Sys2Proof.Machine.execWait at_ mask s
  | .tmrExpiry sh => Sys2Proof.Machine.execTmrExpiry sh s
  | .houseRestart sh => Sys2Proof.Machine.execHouseRestart sh s
  | .streamBlockWrite sh o => Sys2Proof.Machine.execStreamBlockWrite sh o s
  | .move chan => Sys2Proof.Machine.execMove chan s
  | .fill chan => Sys2Proof.Machine.execFill chan s
  | .loop chan => Sys2Proof.Machine.execLoop chan s
  | .draftWait chan => Sys2Proof.Machine.execDraftWait chan s
  | .draftWaitDone chan => Sys2Proof.Machine.execDraftWaitDone chan s
  | .draftWaitTimeout chan => Sys2Proof.Machine.execDraftWaitTimeout chan s
  | .signal chan => Sys2Proof.Machine.execSignal chan s
  | .end_ chan => Sys2Proof.Machine.execEnd chan s
  | .burstIssue ready src => Sys2Proof.Machine.execBurstIssue ready src s
  | .readbackDone chan ok => Sys2Proof.Machine.execReadbackDone chan ok s
  | .draftBusError chan addr => Sys2Proof.Machine.execDraftBusError chan addr s
  | .coxRxUp n => Sys2Proof.Machine.execCoxRxUp n s
  | .coxRxDown n cause => Sys2Proof.Machine.execCoxRxDown n cause s
  | .coxDownExpiry n => Sys2Proof.Machine.execCoxDownExpiry n s
  | .strokeMarkerTx k => Sys2Proof.Machine.execStrokeMarkerTx k s
  | .strokeMarkerRx n m => Sys2Proof.Machine.execStrokeMarkerRx n m s
  | .timeBeaconTx => Sys2Proof.Machine.execTimeBeaconTx s
  | .timeBeaconRx n b => Sys2Proof.Machine.execTimeBeaconRx n b s
  | .crewFrameRx n rx => Sys2Proof.Machine.execCrewFrameRx n rx s
  | .coxSleep n => Sys2Proof.Machine.execCoxSleep n s
  | .coxWake n => Sys2Proof.Machine.execCoxWake n s
  | .coxWakeEnd n => Sys2Proof.Machine.execCoxWakeEnd n s
  | .enumTimeout => Sys2Proof.Machine.execEnumTimeout s
  | .memberAlignTimeout => Sys2Proof.Machine.execMemberAlignTimeout s
  | .unwrap b => Sys2Proof.Machine.execUnwrap b s
  | .tbclkLost => Sys2Proof.Machine.execTbclkLost s
  | .tbclkBack => Sys2Proof.Machine.execTbclkBack s
  | .servoHoldover => Sys2Proof.Machine.execServoHoldover s
  | .pps => Sys2Proof.Machine.execPps s
  | .strokeInEdge falling at_ => Sys2Proof.Machine.execStrokeInEdge falling at_ s
  | .inLost => Sys2Proof.Machine.execInLost s
  | .ptmDialog => Sys2Proof.Machine.execPtmDialog s
  | .ptmDone dev host => Sys2Proof.Machine.execPtmDone dev host s
  | .ptmFail => Sys2Proof.Machine.execPtmFail s
  | .seqTrigger t => Sys2Proof.Machine.execSeqTrigger t s
  | .round codes ow ref => Sys2Proof.Machine.execRound codes ow ref s
  | .channelOutput c samples => Sys2Proof.Machine.execChannelOutput c samples s
  | .biasFault n headroom present => Sys2Proof.Machine.execBiasFault n headroom present s
  | .htrPeriod n => Sys2Proof.Machine.execHtrPeriod n s
  | .modInt low => Sys2Proof.Machine.execModInt low s
  | .pwrTransitionStart => Sys2Proof.Machine.execPwrTransitionStart s
  | .pwrTransitionEnd us => Sys2Proof.Machine.execPwrTransitionEnd us s
  | .wakeEvent src => Sys2Proof.Machine.execWakeEvent src s
  | .wakeTimerExpiry => Sys2Proof.Machine.execWakeTimerExpiry s
  | .hintExpiry => Sys2Proof.Machine.execHintExpiry s
  | .sensorSample t => Sys2Proof.Machine.execSensorSample t s
  | .bandDown => Sys2Proof.Machine.execBandDown s
  | .planRun vreq guard relax stressed unstressed => Sys2Proof.Machine.execPlanRun vreq guard relax stressed unstressed s
  | .splitSnapshot => Sys2Proof.Machine.execSplitSnapshot s
  | .bootDone host slots marker => Sys2Proof.Machine.execBootDone host slots marker s
  | .ready ms => Sys2Proof.Machine.execReady ms s
  | .secChal challenge => Sys2Proof.Machine.execSecChal challenge s
  | .secResp resp cleared => Sys2Proof.Machine.execSecResp resp cleared s
  | .challengeExpiry => Sys2Proof.Machine.execChallengeExpiry s
  | .por pin straps => Sys2Proof.Machine.execPor pin straps s
  | .perst straps => Sys2Proof.Machine.execPerst straps s
  | .flr fn => Sys2Proof.Machine.execFlr fn s
  | .busMasterEnable fn w => Sys2Proof.Machine.execBusMasterEnable fn w s
  | .coxSignalDetect n => Sys2Proof.Machine.execCoxSignalDetect n s
  | .coxMeritWindowEnd n eye violations => Sys2Proof.Machine.execCoxMeritWindowEnd n eye violations s
  | .coxDfeAdapt n signs => Sys2Proof.Machine.execCoxDfeAdapt n signs s
  | .rsCodewordDecoded lane msg parity from_ => Sys2Proof.Machine.execRsCodewordDecoded lane msg parity from_ s
  | .alignLockChange lane locked => Sys2Proof.Machine.execAlignLockChange lane locked s
  | .prbsSyncChange target sync bits errs => Sys2Proof.Machine.execPrbsSyncChange target sync bits errs s
  | .ispCloseDone port => Sys2Proof.Machine.execIspCloseDone port s
  | .crewFrameSent n => Sys2Proof.Machine.execCrewFrameSent n s

end Sys2Proof.Machine
end

