-- ==== Sys2Proof/Safety.lean ====
section
/-! DEFINITION. The terms in which claims are made: when the device answers the host, what a command leaves as it was,
and the invariants of the state. -/

namespace Sys2Proof.Machine

/-- The device answers the host at once: it is not held in reset, it is in P0 or P1, and no power transition runs
(R443, R453, R470). -/
def State.awake (s : State) : Bool := !s.dark && decide (s.pState < 2) && !s.on fPwr_STATE_TRANS

/-- A command begins now (R347, R352, R371, R382): its turn has come in its queue, which exists and whose function may master the
bus, and the device is ready. -/
def State.takes (s : State) (i : Instr) : Bool :=
  !s.dark && s.ready && s.begins i && (cmdOf i).any fun c => decide (c.1.qp < 256) && s.bme (s.ownerOf c.1.qp)

/-- As `takes`, for a command that only the PF may issue. -/
def State.takesPf (s : State) (i : Instr) : Bool := s.takes i && (cmdOf i).any fun c => s.ownerOf c.1.qp == 0

/-- A completion with a status and an inline result (R353). -/
abbrev answer (h : Hdr) (status : Nat) (result : List Byte := []) : Compl := ⟨h, status, 0, result, [], false⟩

/-- A completion with a record of its own, written to RES_ADDR (R373). -/
abbrev answerRec (h : Hdr) (status : Nat) (record : List Byte) : Compl := ⟨h, status, 0, [], [(h.resAddr, record)], true⟩

/-- The completion record that the device writes for `c` from state `s`, at the tail of the completion ring (R353). -/
def recordOf (s : State) (c : Compl) : Out :=
  .hostWrite (s.pair (rQp_CQ_BASE_LO c.hdr.qp) (rQp_CQ_BASE_HI c.hdr.qp) + 16 * s.fld (fQp_CQ_TAIL_TAIL c.hdr.qp))
    (complRecord c (s.fld (fQp_CQ_TAIL_PHASE c.hdr.qp)) (s.fld (fQp_STAT_SQ_HEAD c.hdr.qp)))

/-- From `s` to `t` the completion `c` left the device: its data, and its record unless SUPPRESS spares it (R351, R353,
R354). -/
def completed (c : Compl) (s t : State) : Prop :=
  (∀ d ∈ c.data, .hostWrite d.1 d.2 ∈ t.host.out) ∧ (c.hdr.suppress = true ∧ c.status = 0 ∨ recordOf s c ∈ t.host.out)

/-- A register in which completions show: those of queue pairs, and the pending bits of MSI-X. -/
def complReg (r : RegId) : Prop := r.blk = .qp ∨ r.blk = .msix

/-- A register of a programmable counter (R516). -/
def cntReg (r : RegId) : Prop :=
  (cntGeom r.blk).2 ≤ r.off ∧ r.off < (cntGeom r.blk).2 + 16 * (cntGeom r.blk).1

/-- A register in which events and notices show beside the event's own register: notice rings, pending bits of MSI-X. -/
def noteReg (r : RegId) : Prop := r.blk = .nq ∨ r.blk = .msix

/-- A register of lane `n`. -/
def lnReg (n : Nat) (r : RegId) : Prop := r.blk = .ln ∧ r.inst = n

/-- The value of a 48-bit count in a pair of registers (R128). -/
def State.count48 (s : State) (lo hi : RegId) : Nat := (s.reg lo).toNat + 2 ^ 32 * bits (s.reg hi) 15 0

/-- A received frame is not bad: its FCS holds, none of its codewords was uncorrectable, it is not above MAX_FRAME (R27, R49). -/
def State.goodFrame (s : State) (ep : Nat) (f : RxFrame) : Bool :=
  f.fcsOk && !((s.lane ep).cwBad.take f.cws).any id && decide (f.bytes.length + 4 ≤ s.fld (fLn_MAC_CFG_MAX_FRAME ep))

/-- A register in which the receiver of lane `n` shows: the lane's, its channel of the monitor, events and notices. -/
def rxReg (n : Nat) (r : RegId) : Prop := lnReg n r ∨ r = rCh_OUT (16 + n) ∨ noteReg r

/-- A register of shuttle `n`. -/
def shReg (n : Nat) (r : RegId) : Prop := r.blk = .sh ∧ r.inst = n

/-- Shuttle `n` runs instructions (R311, R325, R442). -/
def State.runs (s : State) (n cls : Nat) : Bool :=
  decide (n < 96) && s.shState n == stRun && !s.shGated n && insClass (s.pWord n (s.shPc n)) == cls && !classBad (s.pWord n (s.shPc n))

/-- An instruction of shuttle `sh` that reads a word of its memories whose parity is wrong (R333). -/
def readsBadWord (sh : Nat) : Instr → Bool
  | .halt p | .alu p .. | .mac p .. | .dualMac p _ | .transfer p _ | .do_ p .. | .rep p ..
  | .branch p .. | .call p _ | .return_ p | .in_ p .. | .out p .. | .send p .. | .wait p _ => p.sh == sh && p.par
  | _ => false

/-- As `runs`, outside every loop and REP, so that the next instruction follows (R312, R313). -/
def State.runsOn (s : State) (n cls : Nat) : Bool := s.runs n cls && (s.shut n).rep.isNone && (s.shut n).loops.isEmpty

/-- The parts of the state, the host interface by its own parts. -/
inductive Part where
  | tb | up | free | regs | act | lanes | gens | time | links | crew | beam | loom | sht | drf | ck | mon | bias | pwr
  | thm | sec | fuses | anc | split | bist | tstAt | t0 | dark | pending
  | qps | rings | bme | cfg | vfs | held | rejLog | loHeld | hiLatch | capt | lastNote | out
  deriving DecidableEq, Repr

/-- A part is the same in two states. -/
def Part.same (s t : State) : Part → Prop
  | .tb => t.tb = s.tb
  | .up => t.up = s.up
  | .free => t.free = s.free
  | .regs => t.regs = s.regs
  | .act => t.act = s.act
  | .lanes => t.lanes = s.lanes
  | .gens => t.gens = s.gens
  | .time => t.time = s.time
  | .links => t.links = s.links
  | .crew => t.crew = s.crew
  | .beam => t.beam = s.beam
  | .loom => t.loom = s.loom
  | .sht => t.sht = s.sht
  | .drf => t.drf = s.drf
  | .ck => t.ck = s.ck
  | .mon => t.mon = s.mon
  | .bias => t.bias = s.bias
  | .pwr => t.pwr = s.pwr
  | .thm => t.thm = s.thm
  | .sec => t.sec = s.sec
  | .fuses => t.fuses = s.fuses
  | .anc => t.anc = s.anc
  | .split => t.split = s.split
  | .bist => t.bist = s.bist
  | .tstAt => t.tstAt = s.tstAt
  | .t0 => t.t0 = s.t0
  | .dark => t.dark = s.dark
  | .pending => t.pending = s.pending
  | .qps => t.host.qps = s.host.qps
  | .rings => t.host.rings = s.host.rings
  | .bme => t.host.bme = s.host.bme
  | .cfg => t.host.cfg = s.host.cfg
  | .vfs => t.host.vfs = s.host.vfs
  | .held => t.host.held = s.host.held
  | .rejLog => t.host.rejLog = s.host.rejLog
  | .loHeld => t.host.loHeld = s.host.loHeld
  | .hiLatch => t.host.hiLatch = s.host.hiLatch
  | .capt => t.host.capt = s.host.capt
  | .lastNote => t.host.lastNote = s.host.lastNote
  | .out => t.host.out = s.host.out

/-- Every part of the state but those listed is as before. -/
def onlyParts (l : List Part) (s t : State) : Prop := ∀ p, p ∉ l → p.same s t

/-- Every register but those for which `p` holds reads as before. -/
def onlyRegs (p : RegId → Prop) (s t : State) : Prop := ∀ r, ¬ p r → t.reg r = s.reg r

/-- From `s` to `t` nothing changed but shuttle `n`, its registers and the free values. -/
def onlyShuttle (n : Nat) (s t : State) : Prop :=
  (∀ m, m ≠ n → t.shut m = s.shut m) ∧ onlyRegs (shReg n) s t ∧ onlyParts [.sht, .free, .regs] s t

/-- From `s` to `t` the bundle `b` has passed and its firmware runs (R484): the house shuttles run, and nothing changed but
them, their registers, those of SEC, SYS.READY and the anchor store. -/
def bootedOn (b : List Byte) (src : Nat) (fallback : Bool) (s t : State) : Prop :=
  t.sec.booted = true ∧ t.sec.hostBoot = false ∧ t.fld fSec_STAT_BOOT_SRC = src ∧ t.fld fSec_STAT_KEY_SLOT = field b 5 1 % 4 ∧
  t.on fSec_STAT_FALLBACK = fallback ∧ t.pair rSec_RUN_RB_LO rSec_RUN_RB_HI = field b 8 8 ∧ s.fuses.counter ≤ field b 8 8 ∧
  (∀ n, n < 4 → t.shState n = stRun) ∧ (∀ n, 4 ≤ n → t.shut n = s.shut n) ∧
  onlyRegs (fun r => r.blk = .sec ∨ r = rSys_READY ∨ r.blk = .sh ∧ r.inst < 4) s t ∧ onlyParts [.sec, .sht, .anc, .regs, .out] s t

/-- From `s` to `t` a boot attempt failed with status `st`: the device waits for a bundle of the host, with HOST_BOOT_DIS
blown for nothing (R485, R486). -/
def notBooted (st : Nat) (s t : State) : Prop :=
  t.sec.booted = false ∧ t.sec.hostBoot = false ∧ t.fld fSec_STAT_BOOT_ERR = (if s.fuses.hostBootDis then ePriv else st) ∧
  (s.fuses.hostBootDis = false → t.on fSec_STAT_WAIT_HOST = true) ∧
  onlyRegs (fun r => r = rSec_STAT ∨ r = rSys_READY) s t ∧ onlyParts [.sec, .regs, .out] s t

/-- Fuses only move one way (R478, R488): the anti-rollback counter does not fall, a blown bit of a key slot's state stays blown and
a slot that is in use keeps its digest, and the life cycle, the disable bits and the wrapped identity key stay. -/
structure Fuses.le (a b : Fuses) : Prop where
  counter  : a.counter ≤ b.counter
  blown    : ∀ i k, (Tab.get ⟨0, false, []⟩ a.slots i).state.testBit k = true → (Tab.get ⟨0, false, []⟩ b.slots i).state.testBit k = true
  inUse    : ∀ i, (Tab.get ⟨0, false, []⟩ a.slots i).state ≠ 0 → (Tab.get ⟨0, false, []⟩ b.slots i).state ≠ 0 ∧
    (Tab.get ⟨0, false, []⟩ b.slots i).digest = (Tab.get ⟨0, false, []⟩ a.slots i).digest
  life     : b.lifecycle = a.lifecycle
  hostBoot : b.hostBootDis = a.hostBootDis
  jtag     : b.jtagDis = a.jtagDis
  wrapped  : b.wrapped = a.wrapped

end Sys2Proof.Machine
end

