-- ==== Sys2Proof/WellFormed.lean ====
section
/-! DEFINITION. Well-formed commands: every operand lies within the field that carries it (R375-R377, R308, R309) or
names an object that the spec gives the device. A value that a field can hold but a command rejects is well-formed: its
rejection is the command's effect. -/

namespace Sys2Proof

/-- A header: queue pair 0-255, CID of 16 bits, RES_ADDR of 64 bits (R348). -/
def hdrWf (h : Hdr) : Bool := decide (h.qp < 256 ∧ h.cid < 2 ^ 16 ∧ h.resAddr < 2 ^ 64)

/-- An ALU operand: A0-A3 or D0-D7 (R306). -/
def adWf : AD → Bool
  | .acc n => decide (n < 4)
  | .dat n => decide (n < 8)

/-- A parallel transfer: D0-D7, pointer 0-3 (R309). -/
def pxferWf (x : Option PXfer) : Bool := x.all fun p => decide (p.d < 8 ∧ p.ptr < 4)

/-- A count: 16 bits, or D0-D7 (R312, R313). -/
def cntWf : Cnt → Bool
  | .imm n => decide (n < 2 ^ 16)
  | .dat n => decide (n < 8)

/-- A program-visible register (R306). -/
def sregWf : SReg → Bool
  | .a n | .px n | .py n | .sx n | .sy n | .bx n | .by_ n | .lx n | .ly n | .sc n => decide (n < 4)
  | .d n => decide (n < 8)
  | .lc n => decide (n < 3)
  | .mr | .sr | .ev | .tmr | .mba | .mbb | .lv | .sid => true

/-- A transfer-class instruction: 24-bit immediates, pointers 0-3 (R308). -/
def xferWf : XferOp → Bool
  | .move dst src _ => decide (sregWf dst ∧ sregWf src)
  | .imm dst v => decide (sregWf dst ∧ v < 2 ^ 24)
  | .load _ dst ptr _ => decide (sregWf dst ∧ ptr < 4)
  | .store _ src ptr _ _ => decide (sregWf src ∧ ptr < 4)

/-- A snapshot's lane (R100, R117). -/
def snapWf : SnapKind → Bool
  | .fde lane => decide (lane < 8)
  | .cal lane => decide (lane < 8)
  | .isp | .esp | .exp => true

/-- A trigger's generator, group or heater (R416). -/
def trigWf : MonTrig → Bool
  | .timer => true
  | .stroke k => decide (k < 4)
  | .load g => decide (g < 4)
  | .htrRise n => decide (n < 8)
  | .htrFall n => decide (n < 8)

/-- A configuration write: fields of the widths of the PCIe Base Specification; at most 31 VFs (R336). -/
def cfgWf : CfgSet → Bool
  | .vfs n => decide (n < 32)
  | .ltrMax a b => decide (a < 2 ^ 13 ∧ b < 2 ^ 13)
  | .payload c => decide (c < 3)
  | .readReq c => decide (c < 6)
  | .aerClear a b => decide (a < 2 ^ 32 ∧ b < 2 ^ 32)
  | _ => true

/-- A command is well-formed. -/
def wellFormed : Instr → Bool
  | .ispOpen h port bolt _ => decide (hdrWf h ∧ port < 1024 ∧ bolt < 2 ^ 16)
  | .ispClose h port => decide (hdrWf h ∧ port < 1024)
  | .espOpen h port bolt _ => decide (hdrWf h ∧ port < 1024 ∧ bolt < 2 ^ 16)
  | .espClose h port => decide (hdrWf h ∧ port < 1024)
  | .espTake h port bolt c => decide (hdrWf h ∧ port < 1024 ∧ bolt < 2 ^ 16 ∧ c < 2 ^ 32)
  | .espRewind h port rew c => decide (hdrWf h ∧ port < 1024 ∧ rew < 2 ^ 32 ∧ c < 2 ^ 32)
  | .expRule h rule _ => decide (hdrWf h ∧ rule < 64)
  | .bayAlloc h owner _ size base => decide (hdrWf h ∧ owner < 32 ∧ size < 2 ^ 64 ∧ base < 2 ^ 64)
  | .bayFree h bay => decide (hdrWf h ∧ bay < 64)
  | .boltSet h bolt bay kind _ ofs slotSize slots =>
      decide (hdrWf h ∧ bolt < 2048 ∧ bay < 64 ∧ kind < 2 ∧ ofs < 2 ^ 64 ∧ slotSize < 2 ^ 32 ∧ slots < 2 ^ 16)
  | .boltBindDone bolt => decide (bolt < 2048)
  | .shtLoad h sh _ => decide (hdrWf h ∧ sh < 128)
  | .shtLoadDone sh => decide (sh < 96)
  | .shtStart h sh _ _ k c _ => decide (hdrWf h ∧ sh < 128 ∧ k < 4 ∧ c < 2 ^ 32)
  | .shtStop h sh => decide (hdrWf h ∧ sh < 128)
  | .shtMsg h sh w0 w1 => decide (hdrWf h ∧ sh < 128 ∧ w0 < 2 ^ 24 ∧ w1 < 2 ^ 24)
  | .draftRun h chan pri len _ => decide (hdrWf h ∧ chan < 32 ∧ pri < 256 ∧ len < 2 ^ 32)
  | .draftAbort h chan => decide (hdrWf h ∧ chan < 32)
  | .laneMode h lane mode variant width end_ =>
      decide (hdrWf h ∧ lane < 8 ∧ mode < 256 ∧ variant < 256 ∧ width < 256 ∧ end_ < 256)
  | .laneReconfigDone lane => decide (lane < 8)
  | .laneTrain h lane _ _ => decide (hdrWf h ∧ lane < 8)
  | .laneLoop h target kind => decide (hdrWf h ∧ target < 16 ∧ kind < 256)
  | .lanePrbs h target _ _ pattern inj injArg =>
      decide (hdrWf h ∧ target < 16 ∧ pattern < 256 ∧ inj < 256 ∧ injArg < 2 ^ 32)
  | .strokeDef h k num den src stepMode phase =>
      decide (hdrWf h ∧ k < 4 ∧ num < 2 ^ 32 ∧ den < 2 ^ 16 ∧ src < 2 ∧ stepMode < 2 ∧ -(2 ^ 31) ≤ phase ∧
        phase < 2 ^ 31)
  | .strokeJump h k _ delta => decide (hdrWf h ∧ k < 4 ∧ -(2 ^ 31) ≤ delta ∧ delta < 2 ^ 31)
  | .timeSet h _ sec ns frac ofs =>
      decide (hdrWf h ∧ sec < 2 ^ 48 ∧ ns < 2 ^ 32 ∧ frac < 2 ^ 16 ∧ -(2 ^ 63) ≤ ofs ∧ ofs < 2 ^ 63)
  | .crewJoin h id role topo share _ leadUs rxQp =>
      decide (hdrWf h ∧ id < 2 ^ 16 ∧ role < 256 ∧ topo < 256 ∧ share < 16 ∧ leadUs < 2 ^ 16 ∧ rxQp < 256)
  | .crewLeave h => decide (hdrWf h)
  | .crewRelay h dst dir len _ => decide (hdrWf h ∧ dst < 2 ^ 16 ∧ dir < 2 ∧ len < 2 ^ 32)
  | .pwrHint h target holdMs => decide (hdrWf h ∧ target < 256 ∧ holdMs < 2 ^ 32)
  | .attest h len nonce => decide (hdrWf h ∧ len < 2 ^ 32 ∧ nonce.length = 32)
  | .attestReportDone => true
  | .fwStage h addr len _ => decide (hdrWf h ∧ addr < 2 ^ 64 ∧ len < 2 ^ 32)
  | .fwStageDone => true
  | .fwCommit h _ => decide (hdrWf h)
  | .fwCommitDone _ _ => true
  | .bistRun h mask => decide (hdrWf h ∧ mask < 2 ^ 128)
  | .bistEnd res => res.all (·.1 < 41)
  | .bistPreconditionFail m =>
    decide (m.mv < 2 ^ 16 ∧ m.worst < 4 ∧ m.dev.natAbs < 2 ^ 15) && m.res.all (·.1 < 41)
  | .query h obj kind => decide (hdrWf h ∧ obj < 2 ^ 32 ∧ kind < 256)
  | .frameSend h ep len _ => decide (hdrWf h ∧ ep < 2 ^ 32 ∧ len < 2 ^ 32)
  | .post h addr len => decide (hdrWf h ∧ addr < 2 ^ 64 ∧ len < 2 ^ 32)
  | .doorbellPoll qp => decide (qp < 256)
  | .doorbellRead qp _ => decide (qp < 256)
  | .descriptorFetch qp _ => decide (qp < 256)
  | .descriptorTake qp => decide (qp < 256)
  | .fenceRelease qp => decide (qp < 256)
  | .irqTimerExpiry _ ring => decide (ring < 256)
  | .nudge => true
  | .vfNudge fn => decide (fn < 32)
  | .kick fn qp => decide (fn < 32 ∧ qp < 256)
  | .qpEnable fn qp _ => decide (fn < 32 ∧ qp < 256)
  | .qpDisable fn qp _ => decide (fn < 32 ∧ qp < 256)
  | .nqEnable fn f _ => decide (fn < 32 ∧ f < 32)
  | .nqCi fn f _ => decide (fn < 32 ∧ f < 32)
  | .rejPop _ => true
  | .rejE0Read fn => decide (fn < 32)
  | .loRead fn addr => decide (fn < 32 ∧ addr < 2 ^ 22)
  | .loWrite fn addr _ => decide (fn < 32 ∧ addr < 2 ^ 22)
  | .hiWrite fn addr _ => decide (fn < 32 ∧ addr < 2 ^ 22)
  | .resultRead fn addr => decide (fn < 32 ∧ addr < 2 ^ 22)
  | .tbNsRead fn => decide (fn < 32)
  | .ptmStatRead fn => decide (fn < 32)
  | .logE0Read fn => decide (fn < 32)
  | .logPop _ => true
  | .resStatRead fn ck => decide (fn < 32 ∧ ck < 16)
  | .tagPcRead fn sh => decide (fn < 32 ∧ sh < 96)
  | .servoSample fn _ => decide (fn < 32)
  | .fecClr lane _ => decide (lane < 8)
  | .laneSrst lane _ => decide (lane < 8)
  | .laneResetEnd lane => decide (lane < 8)
  | .cxSrst n _ => decide (n < 2)
  | .bmSrst k _ => decide (k < 16)
  | .beamResetEnd k => decide (k < 16)
  | .shSrst sh _ => decide (sh < 96)
  | .monSrst _ => true
  | .biasSrst _ => true
  | .drfSrst _ => true
  | .drfRestart _ => true
  | .ingCntClr _ => true
  | .egrCntClr _ => true
  | .bmCntClr k _ => decide (k < 16)
  | .cxCntClr n _ => decide (n < 2)
  | .cxEnable n _ => decide (n < 2)
  | .calRun lane _ => decide (lane < 8)
  | .ptmGo _ => true
  | .txArm lane _ => decide (lane < 8)
  | .txHandover lane => decide (lane < 8)
  | .biasArm g _ => decide (g < 4)
  | .biasHandover g => decide (g < 4)
  | .biasLoadEdge => true
  | .fdeSel lane _ => decide (lane < 8)
  | .calSel lane _ => decide (lane < 8)
  | .ispSel _ => true
  | .espSel _ => true
  | .expSel _ => true
  | .snapshotReady k => decide (snapWf k)
  | .ageSel _ => true
  | .ageMeasureDone _ _ => true
  | .mgtGo n _ => decide (n < 8)
  | .mgtDone n _ _ done data => decide (n < 8 ∧ done ≤ 128 ∧ data.length ≤ 128)
  | .ckEnable n _ => decide (n < 16)
  | .ckData n _ => decide (n < 16)
  | .ckDataTail n _ => decide (n < 16)
  | .ckFinal n _ => decide (n < 16)
  | .hbGo _ => true
  | .secLock _ => true
  | .thmRef _ => true
  | .planAck _ => true
  | .splitEnable _ => true
  | .cntCfgWrite addr _ => decide (addr < 2 ^ 22)
  | .htrEnable _ => true
  | .registerWrite fn addr _ => decide (fn < 32 ∧ addr < 2 ^ 22)
  | .bar2Read ofs len => decide (ofs < 2 ^ 33 ∧ len < 2 ^ 32)
  | .bar2Write ofs _ => decide (ofs < 2 ^ 33)
  | .signalDetect lane => decide (lane < 8)
  | .lossOfSignal lane => decide (lane < 8)
  | .acquireDone lane powers _ _ => decide (lane < 8 ∧ powers.length = 16)
  | .acquireTimeout lane => decide (lane < 8)
  | .trainSolveDone lane tr => decide (lane < 8 ∧ (tr.rx.length = 1152 ∨ tr.rx.length = 4352)) && tr.rx.all (fun x => decide (-64 ≤ x ∧ x < 64))
  | .catchWaitExpiry lane => decide (lane < 8)
  | .catchSequenceDetect lane _ => decide (lane < 8)
  | .fdeBlockUpdate lane rx _ => decide (lane < 8 ∧ rx.length = 128) && rx.all (fun x => decide (-64 ≤ x ∧ x < 64))
  | .dfeAdapt lane at_ => decide (lane < 8 ∧ at_ < 128)
  | .targetAdapt lane at1 at2 => decide (lane < 8 ∧ at1 < 128 ∧ at2 < 128)
  | .meritWindowEnd lane symbols _ => decide (lane < 8 ∧ symbols = 2 ^ 20)
  | .timingLockLoss lane => decide (lane < 8)
  | .idleMarkerRx m => decide (m.lane < 8)
  | .preamblePeak lane _ _ pl => decide (lane < 8 ∧ pl.rx.length = 256) && pl.rx.all (fun x => decide (-64 ≤ x ∧ x < 64))
  | .startMarkerRx lane _ => decide (lane < 8)
  | .burstAbandon lane => decide (lane < 8)
  | .spareRestart lane _ _ => decide (lane < 8)
  | .wakeMiss lane => decide (lane < 8)
  | .calPassStart lane => decide (lane < 8)
  | .calEstimateEnd lane levels _ _ _ _ => decide (lane < 8 ∧ levels.length = 4)
  | .calApplyStep lane => decide (lane < 8)
  | .rampStep lane => decide (lane < 8)
  | .txIdleEntry p => decide (p.lane < 8)
  | .txWake lane => decide (lane < 8)
  | .txBurstEnd lane => decide (lane < 8)
  | .catchSequenceStart p => decide (p.lane < 8)
  | .txFrameStart ep => decide (ep < 8)
  | .degradeWindowEnd lane _ => decide (lane < 8)
  | .frameReceive ep _ => decide (ep < 8)
  | .legLoss port leg => decide (port < 1024 ∧ leg < 2)
  | .slotClose port idx => decide (port < 1024 ∧ idx < 2 ^ 48)
  | .feedHoldExpiry port => decide (port < 1024)
  | .stroke k => decide (k < 4)
  | .packetDue port => decide (port < 1024)
  | .audioPacketDue port => decide (port < 1024)
  | .beamTrainDone k _ => decide (k < 16)
  | .refresh k => decide (k < 16)
  | .refreshRateDrop k => decide (k < 16)
  | .scrubStep k _ => decide (k < 16)
  | .repairStep k _ => decide (k < 16)
  | .mergeFlush k _ => decide (k < 16)
  | .anchorVote word _ => decide (word < 64)
  | .halt at_ => decide (at_.sh < 96)
  | .alu at_ _ dst src shift => decide (at_.sh < 96 ∧ adWf dst ∧ adWf src ∧ shift ≤ 55)
  | .mac at_ _ acc d1 d2 _ x => decide (at_.sh < 96 ∧ acc < 4 ∧ d1 < 8 ∧ d2 < 8 ∧ pxferWf x)
  | .dualMac at_ _ => decide (at_.sh < 96)
  | .transfer at_ op => decide (at_.sh < 96 ∧ xferWf op)
  | .do_ at_ cnt len => decide (at_.sh < 96 ∧ cntWf cnt ∧ 1 ≤ len ∧ len ≤ 4096)
  | .rep at_ dat v => decide (at_.sh < 96 ∧ cntWf (if dat then .dat v else .imm v))
  | .branch at_ _ target => decide (at_.sh < 96 ∧ target < 65536)
  | .call at_ target => decide (at_.sh < 96 ∧ target < 65536)
  | .return_ at_ => decide (at_.sh < 96)
  | .in_ at_ d fifo => decide (at_.sh < 96 ∧ d < 8 ∧ fifo < 8)
  | .out at_ o src _ => decide (at_.sh < 96 ∧ o < 8 ∧ adWf src)
  | .send at_ dest d1 d2 => decide (at_.sh < 96 ∧ dest < 256 ∧ d1 < 8 ∧ d2 < 8)
  | .wait at_ mask => decide (at_.sh < 96 ∧ mask < 65536)
  | .tmrExpiry sh => decide (sh < 96)
  | .houseRestart sh => decide (sh < 96)
  | .streamBlockWrite sh o => decide (sh < 96 ∧ o < 8)
  | .move chan => decide (chan < 32)
  | .fill chan => decide (chan < 32)
  | .loop chan => decide (chan < 32)
  | .draftWait chan => decide (chan < 32)
  | .draftWaitDone chan => decide (chan < 32)
  | .draftWaitTimeout chan => decide (chan < 32)
  | .signal chan => decide (chan < 32)
  | .end_ chan => decide (chan < 32)
  | .burstIssue _ _ => true
  | .readbackDone chan _ => decide (chan < 32)
  | .draftBusError chan addr => decide (chan < 32 ∧ addr < 2 ^ 64)
  | .coxRxUp n => decide (n < 2)
  | .coxRxDown n _ => decide (n < 2)
  | .coxDownExpiry n => decide (n < 2)
  | .strokeMarkerTx k => decide (k < 4)
  | .strokeMarkerRx n _ => decide (n < 2)
  | .timeBeaconTx => true
  | .timeBeaconRx n _ => decide (n < 2)
  | .crewFrameRx n _ => decide (n < 2)
  | .coxSleep n => decide (n < 2)
  | .coxWake n => decide (n < 2)
  | .coxWakeEnd n => decide (n < 2)
  | .enumTimeout => true
  | .memberAlignTimeout => true
  | .unwrap b => decide (b.1 < 65536 ∧ b.2 < 2)
  | .tbclkLost => true
  | .tbclkBack => true
  | .servoHoldover => true
  | .pps => true
  | .strokeInEdge _ _ => true
  | .inLost => true
  | .ptmDialog => true
  | .ptmDone _ _ => true
  | .ptmFail => true
  | .seqTrigger t => decide (trigWf t)
  | .round volts _ _ => decide (volts.length = 16)
  | .channelOutput c _ => decide (c < 24)
  | .biasFault n _ _ => decide (n < 8)
  | .htrPeriod n => decide (n < 8)
  | .modInt _ => true
  | .pwrTransitionStart => true
  | .pwrTransitionEnd _ => true
  | .wakeEvent _ => true
  | .wakeTimerExpiry => true
  | .hintExpiry => true
  | .sensorSample _ => true
  | .bandDown => true
  | .planRun _ _ _ _ _ => true
  | .splitSnapshot => true
  | .bootDone _ _ marker => decide (marker < 256)
  | .ready _ => true
  | .secChal _ => true
  | .secResp _ _ => true
  | .challengeExpiry => true
  | .por _ straps => decide (straps < 16)
  | .perst straps => decide (straps < 16)
  | .flr fn => decide (fn < 32)
  | .busMasterEnable fn w => decide (fn < 32) && cfgWf w
  | .coxSignalDetect n => decide (n < 2)
  | .coxMeritWindowEnd n _ _ => decide (n < 2)
  | .coxDfeAdapt n _ => decide (n < 2)
  | .rsCodewordDecoded lane msg parity _ =>
    decide (lane < 8 ∧ msg.length = 514 ∧ parity.length = 30) && (msg ++ parity).all (fun x => decide (x < 1024))
  | .alignLockChange lane _ => decide (lane < 8)
  | .prbsSyncChange target _ _ _ => decide (target < 10)
  | .ispCloseDone port => decide (port < 1024)
  | .crewFrameSent n => decide (n < 2)

end Sys2Proof
end

