-- ==== Sys2Proof/Certificates/Slice0/Obligations.lean ====
section
/-! DEFINITION. The statements about the model. Each one says which rule of the spec it formalises; `exec c s = .next t`
in a conclusion says that the command completes in that state. -/

open Sys2Proof Sys2Proof.Machine

/-- A step takes the command at the front of the queue and runs it on the state with the queue's rest; with no command
waiting, one tick of D_TB passes (the latter DESIGN CHOICE, log entry 1). -/
def Obligations.StepRunsFrontCommand : Prop :=
  (∀ (c : Instr) (rest : List Instr) (s : State), step { s with pending := c :: rest } = exec c { s with pending := rest })
  ∧ (∀ s : State, s.pending = [] → ∃ t, step s = .next t ∧ t.up = s.up + 131072 ∧ t.pending = [])

/-- Doorbells (R343-R346): a write to KICK, the end of a poll period, NUDGE and VF_NUDGE read doorbell records; a record
is taken where its GEN matches and its indices lie in the rings, and is dropped and counted where GEN differs;
descriptors that were read join those not yet taken, and each slot is read once. -/
def Obligations.DoorbellsAreReadAndTaken : Prop :=
  (∀ (fn q : Nat) (s : State), s.awake = true → q < 256 → (fn = 0 ∨ s.ownerOf q = fn) → s.on (fQp_CTL_EN q) = true →
    s.fld (fQp_STAT_ERR q) = 0 → s.bme (s.ownerOf q) = true →
    exec (.kick fn q) s = .next ((s.modQp q ({ · with due := true })).emit
      (.hostRead (s.ownerOf q) (s.pair (rQp_DB_ADDR_LO q) (rQp_DB_ADDR_HI q)) 8)))
  ∧ (∀ (q : Nat) (s : State), s.watched q = true → s.pState < 2 → s.fld (fQp_STAT_ERR q) = 0 → s.bme (s.ownerOf q) = true →
    exec (.doorbellPoll q) s = .next ((s.modQp q ({ · with due := true })).emit
      (.hostRead (s.ownerOf q) (s.pair (rQp_DB_ADDR_LO q) (rQp_DB_ADDR_HI q)) 8)))
  ∧ (∀ s : State, s.awake = true → ∃ t, exec .nudge s = .next t ∧
      (∀ q, q < 256 → s.watched q = true → s.fld (fQp_STAT_ERR q) = 0 → (t.qp q).due = true) ∧
      (∀ q, s.watched q = false → t.qp q = s.qp q) ∧ onlyParts [.qps, .out] s t)
  ∧ (∀ (fn : Nat) (s : State), s.awake = true → fn ≠ 0 → ∃ t, exec (.vfNudge fn) s = .next t ∧
      (∀ q, q < 256 → s.watched q = true → s.ownerOf q = fn → s.fld (fQp_STAT_ERR q) = 0 → (t.qp q).due = true) ∧
      (∀ q, s.ownerOf q ≠ fn → t.qp q = s.qp q) ∧ onlyParts [.qps, .out] s t)
  ∧ (∀ (q : Nat) (d : List Byte) (s : State), (s.qp q).due = true → s.on (fQp_CTL_EN q) = true → s.bme (s.ownerOf q) = true →
    s.fld (fQp_STAT_ERR q) = 0 → field d 2 2 = s.fld (fQp_DB_GEN_GEN q) → field d 0 2 < s.sqSize q → field d 4 2 < s.cqSize q →
    ∃ t, exec (.doorbellRead q (some d)) s = .next t ∧ (t.qp q).due = false ∧ (t.qp q).sqPi = field d 0 2 ∧
      (t.qp q).cqCi = field d 4 2 ∧ ((s.qp q).asked ≠ 0 → (t.qp q).asked = (s.qp q).asked ∧ t.host.out = s.host.out) ∧
      (∀ p, p ≠ q → t.qp p = s.qp p) ∧ onlyParts [.qps, .out] s t)
  ∧ (∀ (q : Nat) (d : List Byte) (s : State), (s.qp q).due = true → s.on (fQp_CTL_EN q) = true → s.bme (s.ownerOf q) = true →
    s.fld (fQp_STAT_ERR q) = 0 → field d 2 2 ≠ s.fld (fQp_DB_GEN_GEN q) →
    exec (.doorbellRead q (some d)) s =
      .next ((s.modQp q ({ · with due := false })).setFld (fQp_CNT_DB_STALE q) (min 65535 (s.fld (fQp_CNT_DB_STALE q) + 1))))
  ∧ (∀ (q : Nat) (l : List (List Byte)) (s : State), s.on (fQp_CTL_EN q) = true → s.fld (fQp_STAT_ERR q) = 0 →
    s.bme (s.ownerOf q) = true → (s.qp q).asked ≠ 0 → l.length ≤ (s.qp q).asked → (∀ d ∈ l, d.length = s.descSize q) →
    ∃ t, exec (.descriptorFetch q (some l)) s = .next t ∧
      t.qp q = { s.qp q with fetched := (s.qp q).fetched ++ l, asked := if t.toFetch q = 0 then 0 else t.burst q } ∧
      (∀ p, p ≠ q → t.qp p = s.qp p) ∧
      t.host.out = (if t.toFetch q = 0 then [] else
        [.hostRead (s.ownerOf q) (s.pair (rQp_SQ_BASE_LO q) (rQp_SQ_BASE_HI q) + t.nextSlot q * s.descSize q)
          (t.burst q * s.descSize q)]) ++ s.host.out ∧
      onlyParts [.qps, .out] s t)

/-- A fetched descriptor is taken in ring order and counts as outstanding (R347); a malformed one that does not wait
completes at once with its status (R350). Behind a FENCE it waits, and FENCE_RELEASE lets it begin, with those behind it up
to the next FENCE (R351, R382). The interrupt of a ring goes once its moderation time has passed, and its count of pending
records starts again (R365); a masked vector, one of a function whose MSI-X is off or masked, and one of a function that may not master the bus, keeps its message pending
(R339, R364, R365; the last DESIGN CHOICE, log entry 113). -/
def Obligations.DescriptorsAreTakenAndRingsInterrupt : Prop :=
  (∀ (q : Nat) (raw : List Byte) (rest : List (List Byte)) (s : State), s.mayTake q = true → q < 256 → s.sqSize q ≤ 65536 →
    (s.qp q).fetched = raw :: rest →
    ∃ u t, exec (.descriptorTake q) s = .next t ∧
      u.qp q = { s.qp q with fetched := rest, taken := (s.qp q).taken ++ [takenOf s q raw] } ∧
      (∀ p, p ≠ q → u.qp p = s.qp p) ∧ u.fld (fQp_STAT_SQ_HEAD q) = (s.fld (fQp_STAT_SQ_HEAD q) + 1) % s.sqSize q ∧
      u.fld (fQp_STAT_OUTSTANDING q) = (s.qp q).taken.length + 1 ∧
      onlyRegs (fun r => r = rQp_STAT q) s u ∧ onlyParts [.qps, .regs] s u ∧
      ((takenOf s q raw).waiting = true ∨ (takenOf s q raw).bad = none → t = u) ∧
      (∀ st, (takenOf s q raw).waiting = false → (takenOf s q raw).bad = some st →
        completed ⟨(takenOf s q raw).hdr, st, (takenOf s q raw).kind, [], [], false⟩ u t ∧
        t.fld (fQp_CNT_DESC_ERR q) = min 65535 (s.fld (fQp_CNT_DESC_ERR q) + 1) ∧
        onlyRegs complReg u t ∧ onlyParts [.qps, .regs, .out] u t))
  ∧ (∀ (q : Nat) (x : Taken) (l : List Taken) (s : State), (s.qp q).taken = x :: l → x.waiting = true → x.bad = none →
    (∀ y ∈ (releaseList l).1, y.bad = none) →
    exec (.fenceRelease q) s = .next (s.modQp q
      ({ · with taken := { x with waiting := false } :: (releaseList l).1 ++ (releaseList l).2 })))
  ∧ (∀ (q : Nat) (s : State), (s.qp q).irqPend ≠ 0 → s.on (fQp_IRQ_INT_EN q) = true → s.bme (s.ownerOf q) = true →
    s.on (fMsix_VEC_CTRL_MASK (s.ownerOf q) (s.fld (fQp_IRQ_VEC q))) = false → s.msixLive (s.ownerOf q) = true →
    exec (.irqTimerExpiry false q) s =
      .next ((s.modQp q ({ · with irqPend := 0 })).emit (.msix (s.ownerOf q) (s.fld (fQp_IRQ_VEC q))
        (s.fld (fMsix_MSG_ADDR_ADDR (s.ownerOf q) (s.fld (fQp_IRQ_VEC q))) * 4 +
          2 ^ 32 * s.fld (fMsix_MSG_UPPER_ADDR (s.ownerOf q) (s.fld (fQp_IRQ_VEC q))))
        (s.fld (fMsix_MSG_DATA_DATA (s.ownerOf q) (s.fld (fQp_IRQ_VEC q)))))))
  ∧ (∀ (q : Nat) (s : State), (s.qp q).irqPend ≠ 0 → s.on (fQp_IRQ_INT_EN q) = true →
    s.on (fMsix_VEC_CTRL_MASK (s.ownerOf q) (s.fld (fQp_IRQ_VEC q))) = true ∨ s.bme (s.ownerOf q) = false ∨
      s.msixLive (s.ownerOf q) = false →
    ∃ t, exec (.irqTimerExpiry false q) s = .next t ∧ t.qp q = { s.qp q with irqPend := 0 } ∧ (∀ p, p ≠ q → t.qp p = s.qp p) ∧
      (t.reg (rMsix_PBA (s.ownerOf q) 0)).getLsbD (s.fld (fQp_IRQ_VEC q)) = true ∧
      onlyRegs (fun r => r = rMsix_PBA (s.ownerOf q) 0) s t ∧ onlyParts [.qps, .regs] s t)
  ∧ (∀ (f : Nat) (s : State), (s.ring f).irqPend ≠ 0 → s.on (fNq_NQ_IRQ_INT_EN f) = true → s.bme f = true →
    s.on (fMsix_VEC_CTRL_MASK f (s.fld (fNq_NQ_IRQ_VEC f))) = false → s.msixLive f = true →
    ∃ t, exec (.irqTimerExpiry true f) s = .next t ∧ t.ring f = { s.ring f with irqPend := 0 } ∧ (∀ p, p ≠ f → t.ring p = s.ring p) ∧
      t.host.out = .msix f (s.fld (fNq_NQ_IRQ_VEC f)) (s.fld (fMsix_MSG_ADDR_ADDR f (s.fld (fNq_NQ_IRQ_VEC f))) * 4 +
        2 ^ 32 * s.fld (fMsix_MSG_UPPER_ADDR f (s.fld (fNq_NQ_IRQ_VEC f)))) (s.fld (fMsix_MSG_DATA_DATA f (s.fld (fNq_NQ_IRQ_VEC f)))) ::
        s.host.out ∧ onlyParts [.rings, .out] s t)
  ∧ (∀ (f : Nat) (s : State), (s.ring f).irqPend ≠ 0 → s.on (fNq_NQ_IRQ_INT_EN f) = true →
    s.on (fMsix_VEC_CTRL_MASK f (s.fld (fNq_NQ_IRQ_VEC f))) = true ∨ s.bme f = false ∨ s.msixLive f = false →
    ∃ t, exec (.irqTimerExpiry true f) s = .next t ∧ t.ring f = { s.ring f with irqPend := 0 } ∧ (∀ p, p ≠ f → t.ring p = s.ring p) ∧
      (t.reg (rMsix_PBA f 0)).getLsbD (s.fld (fNq_NQ_IRQ_VEC f)) = true ∧
      onlyRegs (fun r => r = rMsix_PBA f 0) s t ∧ onlyParts [.rings, .regs] s t)

/-- Enabling a queue pair starts its rings at 0 with PHASE 1, and disabling one with nothing outstanding leaves it idle
(R356, R357); enabling a notice ring starts it at 0 with PHASE 1 (R369); NQ_CI takes the consumed slots (R362). -/
def Obligations.RingsAreEnabledAndDisabled : Prop :=
  (∀ (fn q : Nat) (v : W32) (s : State), s.awake = true → q < 256 → (fn = 0 ∨ s.ownerOf q = fn) → v.getLsbD 31 = true →
    s.on (fQp_CTL_EN q) = false → qpCtlCheck s q v = none →
    ∃ t, exec (.qpEnable fn q v) s = .next t ∧ t.reg (rQp_CTL q) = v &&& 0xF81F1F00#32 ∧ t.fld (fQp_STAT_SQ_HEAD q) = 0 ∧
      t.fld (fQp_CQ_TAIL_TAIL q) = 0 ∧ t.fld (fQp_CQ_TAIL_PHASE q) = 1 ∧ t.qp q = {} ∧
      onlyRegs (fun r => r = rQp_CTL q ∨ r = rQp_STAT q ∨ r = rQp_CQ_TAIL q) s t ∧ onlyParts [.qps, .regs] s t)
  ∧ (∀ (fn q : Nat) (v : W32) (s : State), s.awake = true → q < 256 → (fn = 0 ∨ s.ownerOf q = fn) → v.getLsbD 31 = false →
    s.on (fQp_CTL_EN q) = true → qpCtlCheck s q v = none → (s.qp q).taken = [] → (s.qp q).posted = [] → s.loom.esps = [] →
    (∀ k, k < 4 → (s.gen k).jump = none) → (∀ e ∈ s.sht.sh, e.2.start = none) → s.sht.loads = [] → s.sec.attests = [] →
    ∃ t, exec (.qpDisable fn q v) s = .next t ∧ t.reg (rQp_CTL q) = v &&& 0xF81F1F00#32 ∧ t.fld (fQp_STAT_BUSY q) = 0 ∧
      t.fld (fQp_STAT_ERR q) = 0 ∧ t.qp q = { s.qp q with fetched := [], due := false } ∧
      onlyRegs (fun r => r = rQp_CTL q ∨ r = rQp_STAT q) s t ∧ onlyParts [.qps, .regs] s t)
  ∧ (∀ (fn f : Nat) (v : W32) (s : State), s.awake = true → f < 32 → (fn = 0 ∨ fn = f) → v.getLsbD 31 = true →
    s.on (fNq_NQ_CTL_EN f) = false → nqCtlCheck s f v = none →
    ∃ t, exec (.nqEnable fn f v) s = .next t ∧ t.reg (rNq_NQ_CTL f) = v &&& 0xC01F0000#32 ∧ t.fld (fNq_NQ_STAT_TAIL f) = 0 ∧
      t.fld (fNq_NQ_STAT_PHASE f) = 1 ∧ onlyRegs (fun r => r = rNq_NQ_CTL f ∨ r = rNq_NQ_STAT f) s t ∧ onlyParts [.regs] s t)
  ∧ (∀ (fn f : Nat) (v : W32) (s : State), s.awake = true → f < 32 → (fn = 0 ∨ fn = f) → bits v 11 0 < s.nqSize f →
    exec (.nqCi fn f v) s = .next (s.setFld (fNq_NQ_CI_CI f) (bits v 11 0)))

/-- A read of a _LO register latches the high half for the reading function, and a read of _HI returns what that
function latched last, 0 before any (R11, R12). -/
def Obligations.SixtyFourBitReads : Prop :=
  (∀ (fn addr : Nat) (r : RegId) (d : RegDesc) (s : State), s.awake = true → s.regAt fn addr = some r → findReg r = some d →
    s.unavailable r = none → isLo r = true → captured r = false → isResult d = false → isHi r = false → captures r = [] → r.blk ≠ .anc →
    exec (.loRead fn addr) s = .next { s with host := { s.host with
      hiLatch := Tab.set s.host.hiLatch (fn, hiOf r) (live (hiOf r) s)
      out := .readData fn (maskWo d (live r s)) :: s.host.out } })
  ∧ (∀ (fn addr : Nat) (r : RegId) (d : RegDesc) (s : State), s.awake = true → s.regAt fn addr = some r → findReg r = some d →
    s.unavailable r = none → isHi r = true → captured r = false → r.blk ≠ .anc →
    exec (.loRead fn addr) s = .next (s.emit (.readData fn (Tab.get 0#32 s.host.hiLatch (fn, r)))))

/-- The first read of a ready result returns it with FRESH set, and clears FRESH (R15). -/
def Obligations.ResultReadsClearFresh : Prop :=
  ∀ (addr : Nat) (r : RegId) (d : RegDesc) (s : State), s.awake = true → s.regAt 0 addr = some r → findReg r = some d →
    s.unavailable r = none → isResult d = true → isLo r = false → isHi r = false → captured r = false → captures r = [] →
    r.blk ≠ .anc → live r s = s.reg r → (s.reg r).getLsbD 30 = true →
    exec (.resultRead 0 addr) s = .next ((s.setFld ⟨r, 30, 30⟩ 0).emit (.readData 0 (maskWo d (s.reg r))))

/-- Reads that capture (R185, R193, R292, R366, R411, R534, R571): TB_NS, PTM_STAT, LOG_E0, REJ_E0, RES_STAT and TAG_PC
take the registers of their group at one instant, for the reading function; with an empty log REJ_E0 and LOG_E0 take zeros (the
model's reading of an empty log, log entry 16). The registers of these groups are the PF's: a VF's read of the offset reads its own window and takes
nothing of them (R368). -/
def Obligations.CapturingReads : Prop :=
  (∀ s : State, s.awake = true → ∃ t, exec (.tbNsRead 0) s = .next t ∧ t.host.out = .readData 0 (word (tbNs s.tb)) :: s.host.out ∧
    Tab.get 0#32 t.host.capt (0, rCox_TB_FRAC) = word (tbFrac s.tb) ∧ Tab.get 0#32 t.host.capt (0, rCox_TB_SEC_LO) = word (tbSec s.tb) ∧
    Tab.get 0#32 t.host.capt (0, rCox_TB_SEC_HI) = word (tbSec s.tb / 2 ^ 32) ∧ onlyParts [.capt, .out] s t)
  ∧ (∀ s : State, s.awake = true → ∃ t, exec (.ptmStatRead 0) s = .next t ∧ t.host.out = .readData 0 (s.reg rCox_PTM_STAT) :: s.host.out ∧
    (∀ r ∈ [rCox_PTM_DEV_NS, rCox_PTM_DEV_SEC_LO, rCox_PTM_DEV_SEC_HI, rCox_PTM_HOST_LO, rCox_PTM_HOST_HI],
      Tab.get 0#32 t.host.capt (0, r) = s.reg r) ∧
    t.fld fCox_PTM_STAT_FRESH = 0 ∧ onlyRegs (fun r => r = rCox_PTM_STAT) s t ∧ onlyParts [.capt, .out, .regs] s t)
  ∧ (∀ s : State, s.awake = true → s.testing 8 = false → ∃ t, exec (.logE0Read 0) s = .next t ∧
    t.host.out = .readData 0 (liveLog rBmw_LOG_E0 s) :: s.host.out ∧
    (∀ r ∈ [rBmw_LOG_E1, rBmw_LOG_E2, rBmw_LOG_E3], Tab.get 0#32 t.host.capt (0, r) = liveLog r s) ∧
    onlyParts [.capt, .out] s t)
  ∧ (∀ (e : Rej) (l : List Rej) (s : State), s.awake = true → s.host.rejLog = e :: l → ∃ t, exec (.rejE0Read 0) s = .next t ∧
    t.host.out = .readData 0 (word (e.offset % 2 ^ 30)) :: s.host.out ∧
    Tab.get 0#32 t.host.capt (0, rSys_REJ_E1) =
      word (e.status % 256 * 2 ^ 24 + e.fn % 32 * 2 ^ 19 + (if e.wr then 2 ^ 18 else 0) + e.space % 4 * 2 ^ 16) ∧
    onlyParts [.capt, .out] s t)
  ∧ (∀ s : State, s.awake = true → s.host.rejLog = [] → ∃ t, exec (.rejE0Read 0) s = .next t ∧
    t.host.out = .readData 0 0#32 :: s.host.out ∧ Tab.get 0#32 t.host.capt (0, rSys_REJ_E1) = 0#32 ∧ onlyParts [.capt, .out] s t)
  ∧ (∀ (n : Nat) (s : State), s.awake = true → n < 16 → s.testing 38 = false → ∃ t, exec (.resStatRead 0 n) s = .next t ∧
    t.host.out = .readData 0 (s.reg (rCk_RES_STAT n)) :: s.host.out ∧
    Tab.get 0#32 t.host.capt (0, rCk_RES_VAL n) = s.reg (rCk_RES_VAL n) ∧ t.fld (fCk_RES_STAT_FRESH n) = 0 ∧
    onlyRegs (fun r => r = rCk_RES_STAT n) s t ∧ onlyParts [.capt, .out, .regs] s t)
  ∧ (∀ (n : Nat) (s : State), s.awake = true → n < 96 → s.regTesting (rSh_TAG_PC n) = false →
    ∃ t, exec (.tagPcRead 0 n) s = .next t ∧ t.host.out = .readData 0 (s.reg (rSh_TAG_PC n)) :: s.host.out ∧
    Tab.get 0#32 t.host.capt (0, rSh_TAG_STAGE n) = s.reg (rSh_TAG_STAGE n) ∧ t.fld (fSh_TAG_PC_FRESH n) = 0 ∧
    onlyRegs (fun r => r = rSh_TAG_PC n) s t ∧ onlyParts [.capt, .out, .regs] s t)
  ∧ (∀ (fn n : Nat) (s : State), s.awake = true → 1 ≤ fn → fn < 32 →
    exec (.tbNsRead fn) s = .next (readDone fn (addrOf rCox_TB_NS) s) ∧ exec (.ptmStatRead fn) s = .next (readDone fn (addrOf rCox_PTM_STAT) s) ∧
    exec (.logE0Read fn) s = .next (readDone fn (addrOf rBmw_LOG_E0) s) ∧ exec (.rejE0Read fn) s = .next (readDone fn (addrOf rSys_REJ_E0) s) ∧
    exec (.resStatRead fn n) s = .next (readDone fn (addrOf (rCk_RES_STAT n)) s) ∧
    exec (.tagPcRead fn n) s = .next (readDone fn (addrOf (rSh_TAG_PC n)) s))
  ∧ (∀ (fn ofs : Nat) (s : State), 1 ≤ fn → fn < 32 → (readDone fn ofs s).host.capt = s.host.capt)

/-- A write that meets no condition for rejection gives each writable field what its access type makes of the value
written (R1, R3); one that meets a condition changes nothing and is logged with the first status of R572 that
applies (R16, R17). A write of ADAPT also fails a receiver whose RETRY the new RETRY_MAX does not exceed (R88; for a
RETRY beyond it DEDUCED, log entry 86). A _LO write is held for the writing function; the _HI write gives both halves their value at
once (R13; shown on the notice ring's base). A write of OUT_CTL shows on the outputs: one enabled is low, one disabled is high
impedance, a pulse in progress goes on (R207). A write of a punt class's rate leaves it the tokens that it has (R238). A vector that is pending and unmasked is sent (R364). -/
def Obligations.RegisterWritesFollowTheTables : Prop :=
  (∀ (fn addr : Nat) (r : RegId) (d : RegDesc) (v : W32) (s : State), s.awake = true → s.regAt fn addr = some r →
    findReg r = some d → fnWrite fn (spaceOf fn) addr r = none → pfWrite r = none → (writable d && (isLo r || isHi r)) = false →
    firstFail (writeChecks d r (settle r v s) s) = none → r.blk ≠ .msix → r.blk ≠ .sh →
    (r.blk = .ln → r.off ≠ 0x228) → (r.blk = .cox → r.off ≠ 0x80) → (∀ c, c < 6 → r ≠ rLoom_PUNT_CFG c) →
    exec (.registerWrite fn addr v) s = .next (s.setReg r (applyAccess d (s.reg r) (settle r v s))))
  ∧ (∀ (fn addr st : Nat) (r : RegId) (d : RegDesc) (v : W32) (s : State), s.awake = true → s.regAt fn addr = some r →
    findReg r = some d → fnWrite fn (spaceOf fn) addr r = none → pfWrite r = none → (writable d && (isLo r || isHi r)) = false →
    firstFail (writeChecks d r (settle r v s) s) = some st → s.host.rejLog.length < 32 →
    ∃ t, exec (.registerWrite fn addr v) s = .next t ∧ t.host.rejLog = s.host.rejLog ++ [⟨addr, st, fn, true, spaceOf fn⟩] ∧
      onlyRegs (fun x => x.blk = .sys ∨ x.blk = .win ∨ noteReg x) s t ∧ onlyParts [.rejLog, .rings, .out, .regs] s t)
  ∧ (∀ (fn addr : Nat) (v : W32) (s : State), s.awake = true → s.regAt fn addr = none → inBar fn addr = false →
    exec (.registerWrite fn addr v) s = .next (unsupported s))
  ∧ (∀ (c : Nat) (d : RegDesc) (v : W32) (s : State), s.awake = true → c < 6 → findReg (rLoom_PUNT_CFG c) = some d →
    firstFail (writeChecks d (rLoom_PUNT_CFG c) v s) = none →
    ∃ t, exec (.registerWrite 0 (addrOf (rLoom_PUNT_CFG c)) v) s = .next t ∧
      t.reg (rLoom_PUNT_CFG c) = applyAccess d (s.reg (rLoom_PUNT_CFG c)) v ∧
      Tab.find t.loom.punt c = (Tab.find s.loom.punt c).map (fun _ => (s.tokens c, s.up)) ∧
      (∀ e, e ≠ c → Tab.find t.loom.punt e = Tab.find s.loom.punt e) ∧
      onlyRegs (fun r => r = rLoom_PUNT_CFG c) s t ∧ onlyParts [.loom, .regs] s t)
  ∧ (∀ (fn addr : Nat) (v : W32) (s : State), s.awake = true → s.regAt fn addr = none → inBar fn addr = true →
    s.host.rejLog.length < 32 →
    ∃ t, exec (.registerWrite fn addr v) s = .next t ∧
      t.host.rejLog = s.host.rejLog ++ [⟨addr, eField, fn, true, spaceOf fn⟩] ∧
      onlyRegs (fun x => x.blk = .sys ∨ x.blk = .win ∨ noteReg x) s t ∧ onlyParts [.rejLog, .rings, .out, .regs] s t)
  ∧ (∀ (f : Nat) (v : W32) (s : State), s.awake = true → f < 32 →
    exec (.loWrite 0 (addrOf (rNq_NQ_BASE_LO f)) v) s = .next (s.holdLo 0 (rNq_NQ_BASE_LO f) v))
  ∧ (∀ (f : Nat) (lo v : W32) (s : State), s.awake = true → f < 32 → Tab.find s.host.loHeld (0, rNq_NQ_BASE_LO f) = some lo →
    ∃ t, exec (.hiWrite 0 (addrOf (rNq_NQ_BASE_LO f) + 4) v) s = .next t ∧
      t.pair (rNq_NQ_BASE_LO f) (rNq_NQ_BASE_HI f) = lo.toNat + 2 ^ 32 * v.toNat ∧
      onlyRegs (fun r => r = rNq_NQ_BASE_LO f ∨ r = rNq_NQ_BASE_HI f) s t ∧ onlyParts [.regs, .loHeld] s t)
  ∧ (∀ (f : Nat) (v : W32) (s : State), s.awake = true → f < 32 → Tab.find s.host.loHeld (0, rNq_NQ_BASE_LO f) = none →
    ∃ t, exec (.hiWrite 0 (addrOf (rNq_NQ_BASE_LO f) + 4) v) s = .next t ∧
      t.pair (rNq_NQ_BASE_LO f) (rNq_NQ_BASE_HI f) = (s.reg (rNq_NQ_BASE_LO f)).toNat + 2 ^ 32 * v.toNat ∧
      onlyRegs (fun r => r = rNq_NQ_BASE_LO f ∨ r = rNq_NQ_BASE_HI f) s t ∧ onlyParts [.regs, .loHeld] s t)
  ∧ (∀ (fn addr n : Nat) (d : RegDesc) (v : W32) (s : State), s.awake = true → s.regAt fn addr = some (rLn_ADAPT n) →
    findReg (rLn_ADAPT n) = some d → firstFail (writeChecks d (rLn_ADAPT n) v s) = none →
    ∃ t, exec (.registerWrite fn addr v) s = .next t ∧ t.reg (rLn_ADAPT n) = applyAccess d (s.reg (rLn_ADAPT n)) v ∧
      t.rx n = (if s.rx n = rxOff ∨ s.fld (fLn_RX_STAT_RETRY n) < t.fld (fLn_ADAPT_RETRY_MAX n) then s.rx n else rxFailed) ∧
      (∀ j, j ≠ n → t.lane j = s.lane j) ∧ onlyRegs (rxReg n) s t ∧ onlyParts [.lanes, .rings, .regs, .out] s t)
  ∧ (∀ (d : RegDesc) (v : W32) (s : State), s.awake = true → findReg rCox_OUT_CTL = some d →
    s.unavailable rCox_OUT_CTL = none → s.time.soEnd = none → s.time.ppsEnd = none → inRange d v = true →
    ∃ t, exec (.registerWrite 0 (addrOf rCox_OUT_CTL) v) s = .next t ∧ t.reg rCox_OUT_CTL = applyAccess d (s.reg rCox_OUT_CTL) v ∧
      t.host.out = (if t.on fCox_OUT_CTL_PPS_EN = s.on fCox_OUT_CTL_PPS_EN then [] else
          [.pin "PPS_OUT" (if t.on fCox_OUT_CTL_PPS_EN then some false else none)]) ++
        (if t.on fCox_OUT_CTL_SO_EN = s.on fCox_OUT_CTL_SO_EN then [] else
          [.pin "STROKE_OUT" (if t.on fCox_OUT_CTL_SO_EN then some false else none)]) ++ s.host.out ∧
      onlyRegs (fun r => r = rCox_OUT_CTL) s t ∧ onlyParts [.regs, .out] s t)
  ∧ (∀ (f j addr : Nat) (v : W32) (s : State), s.awake = true → s.regAt f addr = some (rMsix_VEC_CTRL f j) → j < 32 →
    s.on (fMsix_VEC_CTRL_MASK f j) = true → v.getLsbD 0 = false → (s.reg (rMsix_PBA f 0)).getLsbD j = true → s.bme f = true →
    s.msixLive f = true →
    ∃ t, exec (.registerWrite f addr v) s = .next t ∧
      t.on (fMsix_VEC_CTRL_MASK f j) = false ∧ (t.reg (rMsix_PBA f 0)).getLsbD j = false ∧
      t.host.out = .msix f j (s.fld (fMsix_MSG_ADDR_ADDR f j) * 4 + 2 ^ 32 * s.fld (fMsix_MSG_UPPER_ADDR f j))
        (s.fld (fMsix_MSG_DATA_DATA f j)) :: s.host.out ∧
      onlyRegs (fun r => r = rMsix_VEC_CTRL f j ∨ r = rMsix_PBA f 0) s t ∧ onlyParts [.regs, .out] s t)

/-- REJ_POP removes the oldest entry of the reject log, and LOG_POP the oldest of the beam error log; each count follows
(R292, R366); a write without the bit pops nothing. -/
def Obligations.LogsArePopped : Prop :=
  (∀ (v : W32) (s : State), s.awake = true → v.getLsbD 0 = true → s.host.rejLog.length ≤ 32 →
    ∃ t, exec (.rejPop v) s = .next t ∧ t.host.rejLog = s.host.rejLog.drop 1 ∧
    t.fld fSys_REJ_STAT_COUNT = s.host.rejLog.length - 1 ∧ onlyRegs (fun r => r = rSys_REJ_STAT) s t ∧ onlyParts [.rejLog, .regs] s t)
  ∧ (∀ (v : W32) (s : State), s.awake = true → v.getLsbD 0 = false → exec (.rejPop v) s = .next s ∧
    (s.testing 8 = false → exec (.logPop v) s = .next s))
  ∧ (∀ (v : W32) (s : State), s.awake = true → v.getLsbD 0 = true → s.testing 8 = false → s.beam.log.length ≤ 64 →
    ∃ t, exec (.logPop v) s = .next t ∧ t.beam.log = s.beam.log.drop 1 ∧
    t.fld fBmw_LOG_STAT_COUNT = s.beam.log.length - 1 ∧ onlyRegs (fun r => r = rBmw_LOG_STAT) s t ∧ onlyParts [.beam, .regs] s t)

/-- BAY_ALLOC takes the lowest free index and the base asked for, or the lowest at which the bay fits, and answers both
(R271, R373); BAY_FREE of a bay with no bound bolt and no port reading it frees it (R272). -/
def Obligations.BaysAreAllocatedAndFreed : Prop :=
  (∀ (h : Hdr) (owner : Nat) (any : Bool) (size base i b : Nat) (s : State), s.takesPf (.bayAlloc h owner any size base) = true → bmTargets.any s.testing = false →
    s.trained = true → (any = true → base = 0) → size ≠ 0 → size % 2 ^ 24 = 0 → base % 2 ^ 24 = 0 → base + size ≤ 2 ^ 41 →
    owner ≤ s.host.vfs → (any = false → s.baysFree base size = true ∧ b = base) → (any = true → s.fitBase size = some b) →
    s.freeBay = some i →
    ∃ t, exec (.bayAlloc h owner any size base) s = .next t ∧ completed (answer h eOk (leBytes 2 i ++ leBytes 6 b)) s t ∧
      t.beam = { s.beam with bays := Tab.set s.beam.bays i ⟨owner, b, size⟩ } ∧ onlyRegs complReg s t ∧
      onlyParts [.beam, .qps, .regs, .out] s t)
  ∧ (∀ (h : Hdr) (bay : Nat) (s : State), s.takesPf (.bayFree h bay) = true → bmTargets.any s.testing = false → (s.bay bay).isSome = true →
    (∀ e ∈ s.beam.bolts, e.2.bound = true → e.2.bay ≠ bay) →
    (∀ e ∈ s.loom.esps, e.2.state ≠ 0 → (s.bolt e.2.bolt).ever = true → (s.bolt e.2.bolt).bay ≠ bay) →
    ∃ t, exec (.bayFree h bay) s = .next t ∧ completed (answer h eOk) s t ∧
      t.beam = { s.beam with bays := Tab.erase s.beam.bays bay } ∧ onlyRegs complReg s t ∧
      onlyParts [.beam, .qps, .regs, .out] s t)

/-- A bind of BOLT_SET holds its region until BOLT_BIND_DONE; an unbind of a bolt without writer completes at once
(R274). When a bind completes every slot of the bolt is empty: its header reads all ones in the timestamp and 0 in
the rest (R275), and no byte outside the headers has changed. -/
def Obligations.BoltsAreBoundAndUnbound : Prop :=
  (∀ (h : Hdr) (bolt bay kind ofs size slots : Nat) (y : Bay) (s : State), s.takes (.boltSet h bolt bay kind true ofs size slots) = true → bmTargets.any s.testing = false →
    s.trained = true → bolt < 2048 → bay < 64 → kind < 2 → ofs % 64 = 0 → size % 64 = 0 → 64 ≤ size → size ≤ 2 ^ 30 →
    2 ≤ slots → slots ≤ 65535 → s.bay bay = some y → ofs + size * slots ≤ y.size →
    (s.ownerOf h.qp = 0 ∨ y.owner = s.ownerOf h.qp) → (s.bolt bolt).bound = false → (s.bolt bolt).binding = none →
    s.boltOverlap (y.base + ofs) (size * slots) = false →
    exec (.boltSet h bolt bay kind true ofs size slots) s = .next ((s.begun h.qp).modBolt bolt fun b =>
      { b with binding := some ⟨h, bay, kind, y.base, ofs, size, slots⟩ }))
  ∧ (∀ (h : Hdr) (bolt : Nat) (s : State), s.takes (.boltSet h bolt 0 0 false 0 0 0) = true → bmTargets.any s.testing = false → s.trained = true → bolt < 2048 →
    (s.bolt bolt).bound = true → (s.bolt bolt).writer = none → (s.bolt bolt).binding = none →
    (s.ownerOf h.qp = 0 ∨ ∀ y, s.bay (s.bolt bolt).bay = some y → y.owner = s.ownerOf h.qp) →
    ∃ t, exec (.boltSet h bolt 0 0 false 0 0 0) s = .next t ∧ completed (answer h eOk) s t ∧
      t.bolt bolt = { s.bolt bolt with bound := false } ∧ (∀ b, b ≠ bolt → t.bolt b = s.bolt b) ∧
      (∀ a, memGet t.beam.mem a = memGet s.beam.mem a) ∧ onlyRegs complReg s t ∧ onlyParts [.beam, .qps, .regs, .out] s t)
  ∧ (∀ (bolt : Nat) (x : Binding) (s : State), (s.bolt bolt).binding = some x → x.hdr.qp < 256 → s.bme (s.ownerOf x.hdr.qp) = true →
    (x.base + x.ofs) % 64 = 0 → x.size % 64 = 0 → 64 ≤ x.size →
    ∃ t, exec (.boltBindDone bolt) s = .next t ∧ completed (answer x.hdr eOk) s t ∧
      t.bolt bolt = { bound := true, bay := x.bay, ever := true, kind := x.kind, base := x.base, ofs := x.ofs,
                      size := x.size, slots := x.slots } ∧
      (∀ b, b ≠ bolt → t.bolt b = s.bolt b) ∧
      (∀ i j, i < x.slots → j < 64 → memGet t.beam.mem (x.base + x.ofs + i * x.size + j) = some (if j < 6 then 0xFF#8 else 0#8)) ∧
      (∀ a, (∀ i, i < x.slots → a < x.base + x.ofs + i * x.size ∨ x.base + x.ofs + i * x.size + 64 ≤ a) →
        memGet t.beam.mem a = memGet s.beam.mem a) ∧
      onlyRegs (fun r => complReg r ∨ cntReg r ∨ ∃ k, r = rBm_CTL k ∨ r = rBm_STAT k) s t ∧ onlyParts [.beam, .qps, .regs, .out] s t)

/-- A write through BAR 2 puts its bytes where BAR2_BASE says: whole words reach the DRAM, no other byte of it changes
(R281, R293); a read returns the bytes there (R293). Stated for an aligned word of a line with no merge-buffer
entry, read clean. An access to a port in reset ends that reset (the model's choice, log entry 112). An access through BAR 2
to beam that is not trained is turned away and logged as E_STATE; a read
returns all ones (R293); one outside BAR 2 is an Unsupported Request (R337, R338). -/
def Obligations.BarTwoReachesBeam : Prop :=
  (∀ (ofs : Nat) (data : List Byte) (s : State), s.awake = true → s.trained = true → ofs < 2 ^ 30 → ofs % 8 = 0 → data.length = 8 →
    s.testing (8 + beamPort (s.bar2Addr ofs)) = false → (∀ e ∈ s.beam.merge, e.line ≠ s.bar2Addr ofs / 64) →
    ∃ t, exec (.bar2Write ofs data) s = .next t ∧
      (∀ j, j < 8 → memGet t.beam.mem (s.bar2Addr ofs + j) = some (data.getD j 0)) ∧
      (∀ a, a < s.bar2Addr ofs ∨ s.bar2Addr ofs + 8 ≤ a → memGet t.beam.mem a = memGet s.beam.mem a) ∧
      t.beam.merge = s.beam.merge ∧ t.beam.resets = s.beam.resets.filter (· ≠ beamPort (s.bar2Addr ofs)) ∧
      onlyRegs (fun r => cntReg r ∨ r = rBm_CTL (beamPort (s.bar2Addr ofs)) ∨ r = rBm_STAT (beamPort (s.bar2Addr ofs))) s t ∧
      onlyParts [.beam, .regs] s t)
  ∧ (∀ (ofs : Nat) (s : State), s.awake = true → s.trained = true → ofs < 2 ^ 30 → ofs % 8 = 0 →
    s.testing (8 + beamPort (s.bar2Addr ofs)) = false → (∀ e ∈ s.beam.merge, e.line ≠ s.bar2Addr ofs / 64) →
    wordKind s (s.bar2Addr ofs) = 0 →
    ∃ t, exec (.bar2Read ofs 8) s = .next t ∧
      t.host.out = .bar2Data (wordBytes s (s.bar2Addr ofs)) false :: s.host.out ∧
      t.beam = { s.beam with resets := s.beam.resets.filter (· ≠ beamPort (s.bar2Addr ofs)) } ∧
      onlyRegs (fun r => cntReg r ∨ r = rBm_CTL (beamPort (s.bar2Addr ofs)) ∨ r = rBm_STAT (beamPort (s.bar2Addr ofs))) s t ∧
      onlyParts [.beam, .regs, .out] s t)
  ∧ (∀ (ofs len : Nat) (data : List Byte) (s : State), s.awake = true → 2 ^ 30 ≤ ofs →
    exec (.bar2Read ofs len) s = .next (unsupported s) ∧ exec (.bar2Write ofs data) s = .next (unsupported s))
  ∧ (∀ (ofs len : Nat) (s : State), s.awake = true → s.trained = false → ofs < 2 ^ 30 → s.bist = none → s.host.rejLog.length < 32 →
    ∃ t, exec (.bar2Read ofs len) s = .next t ∧
      t.host.out = .bar2Data (List.replicate len 0xFF#8) false :: s.host.out ∧
      t.host.rejLog = s.host.rejLog ++ [⟨ofs, eState, 0, false, 2⟩] ∧
      onlyRegs (fun r => r = rSys_REJ_STAT) s t ∧ onlyParts [.rejLog, .out, .regs] s t)

/-- Beam maintenance: an entry of the merge buffer flushes once 1 µs has passed and its bytes reach the DRAM (R282,
R283), the patrol scrub takes its next line (R290), a repair takes the oldest line of the port's queue (R279),
training marks its port (R270), and a refresh command counts where a counter asks for it (R286, R522). A BLK reset
of a beam port with nothing buffered puts the port into self-refresh until BEAM_RESET_END, and one during that reset changes
nothing (R289); CNT_CLR sets the
port's ECC counts to 0 (R294); a refresh multiplier in use lowers by one step (R286). -/
def Obligations.BeamIsMaintained : Prop :=
  (∀ (k : Nat) (e : MergeEnt) (s : State), s.beam.merge = [e] → beamPort (e.line * 64) = k →
    (∀ j, j < 64 → (Tab.find e.bytes j).isSome = true) →
    ∃ t, exec (.mergeFlush k e.line) s = .next t ∧ t.beam.merge = [] ∧
      (∀ j b, j < 64 → Tab.find e.bytes j = some b → memGet t.beam.mem (e.line * 64 + j) = some b) ∧
      (∀ a, a < e.line * 64 ∨ e.line * 64 + 64 ≤ a → memGet t.beam.mem a = memGet s.beam.mem a) ∧
      onlyRegs cntReg s t ∧ onlyParts [.beam, .regs] s t)
  ∧ (∀ (k : Nat) (e : MergeEnt) (s : State), s.beam.merge = [e] → beamPort (e.line * 64) = k →
    ∃ t, exec (.mergeFlush k e.line) s = .next t ∧ t.beam.merge = [] ∧
      (∀ j b, j < 64 → Tab.find e.bytes j = some b → memGet t.beam.mem (e.line * 64 + j) = some b) ∧
      (∀ a, a < e.line * 64 ∨ e.line * 64 + 64 ≤ a → memGet t.beam.mem a = memGet s.beam.mem a) ∧
      onlyRegs (fun r => r.blk = .bm ∨ r.blk = .bmw ∨ noteReg r) s t ∧ onlyParts [.beam, .free, .regs, .rings, .lastNote, .out] s t)
  ∧ (∀ (k : Nat) (upset : List (Nat × Nat)) (s : State), s.portServes k = true → s.on (fBm_SCRUB_CTL_EN k) = true →
    ∃ t, exec (.scrubStep k upset) s = .next t ∧ Tab.get 0 t.beam.scrub k = (Tab.get 0 s.beam.scrub k + 1) % 2 ^ 31 ∧
      t.fld (fBm_SCRUB_STAT_PROGRESS k) = (Tab.get 0 s.beam.scrub k + 1) % 2 ^ 31 / 2 ^ 23 ∧
      t.fld (fBm_SCRUB_STAT_PASSES k) = (s.fld (fBm_SCRUB_STAT_PASSES k) +
        if (Tab.get 0 s.beam.scrub k + 1) % 2 ^ 31 = 0 then 1 else 0) % 65536 ∧
      (∀ a, a < lineAddr k (Tab.get 0 s.beam.scrub k) ∨ lineAddr k (Tab.get 0 s.beam.scrub k) + 64 ≤ a →
        memGet t.beam.mem a = memGet s.beam.mem a) ∧
      onlyRegs (fun r => r.blk = .bm ∨ r.blk = .bmw ∨ noteReg r) s t ∧ onlyParts [.beam, .free, .regs, .rings, .lastNote, .out] s t)
  ∧ (∀ (k l : Nat) (r : List Nat) (upset : List (Nat × Nat)) (s : State), s.portServes k = true → Tab.get [] s.beam.repair k = l :: r →
    ∃ t, exec (.repairStep k upset) s = .next t ∧ Tab.get [] t.beam.repair k = r ∧
      (∀ a, a < l * 64 ∨ l * 64 + 64 ≤ a → memGet t.beam.mem a = memGet s.beam.mem a) ∧
      onlyRegs (fun r => r.blk = .bm ∨ r.blk = .bmw ∨ noteReg r) s t ∧ onlyParts [.beam, .free, .regs, .rings, .lastNote, .out] s t)
  ∧ (∀ (k : Nat) (s : State), k < 16 → s.dark = false → s.on (fBm_STAT_TRAINED k) = false → s.on (fBm_STAT_FAILED k) = false →
    ∃ t, exec (.beamTrainDone k true) s = .next t ∧ t.fld (fBm_STAT_TRAINED k) = 1 ∧
      onlyRegs (fun r => r = rBm_STAT k ∨ r = rSys_READY) s t ∧ onlyParts [.regs] s t)
  ∧ (∀ (k : Nat) (s : State), k < 16 → s.dark = false → s.on (fBm_STAT_TRAINED k) = false → s.on (fBm_STAT_FAILED k) = false →
    ∃ t, exec (.beamTrainDone k false) s = .next t ∧ t.fld (fBm_STAT_FAILED k) = 1 ∧ t.fld fBmw_BEAM_EVENT_TRAIN_FAIL = 1 ∧
      onlyRegs (fun r => r = rBm_STAT k ∨ r = rSys_READY ∨ r = rBmw_BEAM_EVENT ∨ noteReg r) s t ∧ onlyParts [.rings, .out, .regs] s t)
  ∧ (∀ (k : Nat) (s : State), k < 16 → s.on (fBm_STAT_TRAINED k) = true → s.on (fBm_STAT_SELF_REF k) = false →
    ∃ t, exec (.refresh k) s = .next t ∧ (∀ j, j < 8 → s.reg ⟨.bm, k, 0x100 + 16 * j⟩ = 0x80000005#32 →
        (t.reg ⟨.bm, k, 0x100 + 16 * j + 8⟩).toNat = ((s.reg ⟨.bm, k, 0x100 + 16 * j + 8⟩).toNat + 1) % 2 ^ 32) ∧
      onlyRegs (fun r => r.blk = .bm ∧ r.inst = k ∧ cntReg r) s t ∧ onlyParts [.regs] s t)
  ∧ (∀ (k : Nat) (s : State), s.awake = true → k < 16 → s.testing (8 + k) = false → s.beam.resets.contains k = true →
    exec (.bmSrst k 1#32) s = .next s)
  ∧ (∀ (k : Nat) (v : W32) (s : State), s.awake = true → v.getLsbD 0 = true → v.getLsbD 1 = false → k < 16 → s.testing (8 + k) = false → s.beam.resets.contains k = false →
    s.beam.merge = [] → Tab.get [] s.beam.repair k = [] →
    ∃ t, exec (.bmSrst k v) s = .next t ∧ t.fld (fBm_CTL_SRST k) = 1 ∧ t.beam = { s.beam with resets := k :: s.beam.resets } ∧
      t.fld (fBm_STAT_SELF_REF k) = 1 ∧ (∀ r, r.blk = .bm → r.inst = k → r.off ≠ 0 → r.off ≠ 4 → r.off ≠ 8 → t.reg r = regReset r) ∧
      onlyRegs (fun r => r.blk = .bm ∧ r.inst = k) s t ∧ onlyParts [.beam, .regs, .hiLatch, .capt, .loHeld] s t)
  ∧ (∀ (k : Nat) (s : State), s.beam.resets.contains k = true → s.pState < 2 → s.testing (8 + k) = false →
    ∃ t, exec (.beamResetEnd k) s = .next t ∧ t.beam = { s.beam with resets := s.beam.resets.filter (· ≠ k) } ∧ t.fld (fBm_CTL_SRST k) = 0 ∧
      t.fld (fBm_STAT_SELF_REF k) = 0 ∧ onlyRegs (fun r => r = rBm_CTL k ∨ r = rBm_STAT k) s t ∧ onlyParts [.beam, .regs] s t)
  ∧ (∀ (k : Nat) (v : W32) (s : State), s.awake = true → v.getLsbD 0 = false → v.getLsbD 1 = true → k < 16 →
    s.testing (8 + k) = false → ∃ t, exec (.bmCntClr k v) s = .next t ∧
      (∀ r ∈ [rBm_ECC_CNT0 k, rBm_ECC_CNT1 k, rBm_ECC_CNT2 k], t.reg r = 0#32) ∧
      onlyRegs (fun r => r ∈ [rBm_ECC_CNT0 k, rBm_ECC_CNT1 k, rBm_ECC_CNT2 k]) s t ∧ onlyParts [.regs] s t)
  ∧ (∀ (k : Nat) (s : State), k < 16 → s.refWanted < s.fld (fBm_STAT_REF_MULT k) →
    ∃ t, exec (.refreshRateDrop k) s = .next t ∧ t.fld (fBm_STAT_REF_MULT k) = s.fld (fBm_STAT_REF_MULT k) - 1 ∧
      onlyRegs (fun r => r = rBm_STAT k) s t ∧ onlyParts [.regs] s t)

/-- ISP_OPEN with a block that meets every condition opens its port with counts 0 and records its format in the bolt
(R217, R239); ISP_CLOSE removes the entries, and the close completes once the port's writes are done (R217); a leg
without a valid packet for LOSS_US goes DOWN, and the port is LOST once no leg is UP (R220). -/
def Obligations.IngressPortsOpenAndClose : Prop :=
  (∀ (h : Hdr) (port bolt : Nat) (b : List Byte) (s : State), s.takes (.ispOpen h port bolt (some b)) = true → s.testing 36 = false → bolt < 2048 →
    s.trained = true → (s.bolt bolt).bound = true → b.length = 128 → firstFail (ispBlockChecks port bolt b s) = none →
    ∃ t p, exec (.ispOpen h port bolt (some b)) s = .next t ∧ completed (answer h eOk) s t ∧ t.isp port = some p ∧
      p.state = 1 ∧ p.owner = s.ownerOf h.qp ∧ p.bolt = bolt ∧ p.fmt = ispFormat b ∧ p.legs = ispLegs b ∧
      p.feed = ispFeed b ∧ p.late = 0 ∧ p.lost = 0 ∧ p.slots = [] ∧ (∀ q, q ≠ port → t.isp q = s.isp q) ∧
      t.bolt bolt = { s.bolt bolt with writer := some (.isp port), fmt := some (ispFormat b), idxs := [] } ∧
      (∀ c, c ≠ bolt → t.bolt c = s.bolt c) ∧ (∀ a, memGet t.beam.mem a = memGet s.beam.mem a) ∧
      onlyRegs (fun r => complReg r ∨ r = rLoom_ING_STAT) s t ∧ onlyParts [.loom, .beam, .qps, .regs, .out] s t)
  ∧ (∀ (h : Hdr) (port : Nat) (p : Isp) (s : State), s.takes (.ispClose h port) = true → s.testing 36 = false → s.isp port = some p →
    p.state ≠ 0 → p.closing = none → p.gone = false → p.owner = s.ownerOf h.qp →
    ∃ t, exec (.ispClose h port) s = .next t ∧ t.isp port = some { p with state := 0, closing := some h, gone := false } ∧
      (∀ q, q ≠ port → t.isp q = s.isp q) ∧ onlyRegs (fun r => r = rLoom_ING_STAT) s t ∧ onlyParts [.loom, .qps, .regs] s t)
  ∧ (∀ (h : Hdr) (port : Nat) (p : Isp) (s : State), s.isp port = some p → p.closing = some h → h.qp < 256 →
    s.bme (s.ownerOf h.qp) = true → (s.bolt p.bolt).writer = some (.isp port) →
    ∃ t q, exec (.ispCloseDone port) s = .next t ∧ completed (answer h eOk) s t ∧ t.isp port = some q ∧
      q.state = p.state ∧ q.legs = [] ∧ q.slots = [] ∧ q.closing = none ∧ q.late = p.late ∧ q.lost = p.lost ∧
      t.bolt p.bolt = { s.bolt p.bolt with writer := none } ∧ (∀ c, c ≠ p.bolt → t.bolt c = s.bolt c) ∧
      (∀ x, x ≠ port → t.isp x = s.isp x) ∧ onlyRegs complReg s t ∧ onlyParts [.loom, .beam, .qps, .regs, .out] s t)
  ∧ (∀ (port leg : Nat) (p : Isp) (l : Leg) (s : State), s.isp port = some p → p.state ≠ 0 → p.legs[leg]? = some l → l.up = true →
    ∃ t, exec (.legLoss port leg) s = .next t ∧
      t.isp port = some { p with legs := p.legs.modify leg ({ · with up := false }),
                                 state := if (p.legs.modify leg ({ · with up := false })).all (!·.up) then 3 else p.state } ∧
      (∀ q, q ≠ port → t.isp q = s.isp q) ∧ onlyRegs noteReg s t ∧ onlyParts [.loom, .rings, .regs, .out] s t)

/-- A slot that stops accepting carries CLOSED, and the packets never placed in it count as LOST (R222, R224, R239); a
packet slot missing for FEED_HOLD is fed as zeros, and those that waited for it follow (R233). A received frame gets
its one disposition (R209): a bad one that no rule takes is counted (R27, R49), one below 64 bytes is removed and counted
(R49), one that a rule takes goes to the
rule's output (R265), one of no other kind goes to the posted buffer of its punt class (R237, R238, R359, R381). -/
def Obligations.ReceivedFramesAndSlots : Prop :=
  (∀ (port idx : Nat) (p : Isp) (c : Slot) (s : State), s.isp port = some p →
    Tab.find p.slots (idx % (s.bolt p.bolt).slots) = some c → c.idx = idx → (s.bolt p.bolt).slotAt idx % 64 = 0 →
    ∃ t, exec (.slotClose port idx) s = .next t ∧
      (∀ j, j < 64 → memGet t.beam.mem ((s.bolt p.bolt).slotAt idx + j) =
        some (({ c with flags := Nat.lor c.flags 2 }.header p.fmt).getD j 0)) ∧
      t.isp port = some { p with slots := Tab.erase p.slots (idx % (s.bolt p.bolt).slots),
                                 lost := min 65535 (p.lost + c.missing p.fmt) } ∧
      (∀ q, q ≠ port → t.isp q = s.isp q) ∧
      (∀ a, a < (s.bolt p.bolt).slotAt idx ∨ (s.bolt p.bolt).slotAt idx + 64 ≤ a → memGet t.beam.mem a = memGet s.beam.mem a) ∧
      onlyRegs (fun r => cntReg r ∨ r = rBm_CTL (beamPort ((s.bolt p.bolt).slotAt idx)) ∨
        r = rBm_STAT (beamPort ((s.bolt p.bolt).slotAt idx))) s t ∧ onlyParts [.loom, .beam, .regs] s t)
  ∧ (∀ (port n g : Nat) (p : Isp) (f : Feed) (x : FeedHeld) (s : State), s.isp port = some p → p.feed = some f → f.next = some n →
    f.held = [x] → 0 < g → g ≤ p.fmt.spp → x.ts = n + g → s.fld (fSh_STAT_STATE f.sh) = 2 →
    (Tab.get [] (s.shut f.sh).fifos f.fifo).length + g * p.fmt.chans + x.words.length ≤ 1024 →
    ∃ t, exec (.feedHoldExpiry port) s = .next t ∧
      t.isp port = some { p with feed := some { f with next := some (n + g + p.fmt.spp), held := [] } } ∧
      (Tab.get [] (t.shut f.sh).fifos f.fifo).map (·.w) = (Tab.get [] (s.shut f.sh).fifos f.fifo).map (·.w) ++
        List.replicate (g * p.fmt.chans) 0 ++ x.words ∧
      (∀ m, m ≠ f.sh → t.shut m = s.shut m) ∧ onlyRegs cntReg s t ∧ onlyParts [.loom, .sht, .regs] s t)
  ∧ (∀ (ep : Nat) (f : RxFrame) (s : State), s.macPresent ep = true → s.portUp ep = true → s.received ep f = some (f, s) →
    f.stamp ≤ s.tb → s.goodFrame ep f = true → f.bytes.length + 4 < 64 →
    ∃ t, exec (.frameReceive ep f) s = .next t ∧ t.lane ep = { s.lane ep with rxShort := (s.lane ep).rxShort + 1 } ∧
      (∀ n, n ≠ ep → t.lane n = s.lane n) ∧ onlyRegs cntReg s t ∧ onlyParts [.lanes, .regs] s t)
  ∧ (∀ (ep : Nat) (f : RxFrame) (s : State), s.macPresent ep = true → s.portUp ep = true → s.received ep f = some (f, s) →
    f.stamp ≤ s.tb → s.pState < 2 → s.goodFrame ep f = false → s.ruleFor ep f.bytes = none →
    ∃ t, exec (.frameReceive ep f) s = .next t ∧ t.lane ep = { s.lane ep with rxBad := (s.lane ep).rxBad + 1 } ∧
      (∀ n, n ≠ ep → t.lane n = s.lane n) ∧ onlyRegs cntReg s t ∧ onlyParts [.lanes, .regs] s t)
  ∧ (∀ (ep : Nat) (f : RxFrame) (s : State), s.macPresent ep = true → s.portUp ep = true → s.received ep f = some (f, s) →
    f.stamp ≤ s.tb → 2 ≤ s.pState → 60 ≤ f.bytes.length → beField f.bytes 12 2 ≠ 0x8808 → s.on (fLn_MAC_CFG_PROMISC ep) = true →
    ∃ t, exec (.frameReceive ep f) s = .next t ∧
      t.fld fPwr_WAKE_DROP_COUNT = min (2 ^ 32 - 1) (s.fld fPwr_WAKE_DROP_COUNT + 1) ∧
      t.lane ep = { s.lane ep with rxBad := (s.lane ep).rxBad + if s.goodFrame ep f then 0 else 1
                                   rxBytes := (t.lane ep).rxBytes } ∧
      (∀ n, n ≠ ep → t.lane n = s.lane n) ∧
      onlyRegs (fun r => r = rPwr_WAKE_DROP ∨ r = rPwr_EVENT ∨ cntReg r ∨ noteReg r) s t ∧
      onlyParts [.lanes, .rings, .lastNote, .regs, .out] s t)
  ∧ (∀ (ep : Nat) (f : RxFrame) (s : State), s.macPresent ep = true → s.portUp ep = true → s.received ep f = none →
    exec (.frameReceive ep f) s = .next s)
  ∧ (∀ (ep : Nat) (f : RxFrame) (b : List Byte) (ok : Bool) (rest : List (List Byte × Bool)) (s : State), s.macPresent ep = true →
    s.portUp ep = true → (∀ m ∈ s.portLanes ep, s.fld (fLn_PRBS_STAT_LOOP m) ≠ 1) → s.fld (fLn_PRBS_STAT_LOOP ep) = 3 →
    (s.lane ep).looped = (b, ok) :: rest →
    exec (.frameReceive ep f) s = .next (receive ep ⟨b, ok, 0, f.stamp⟩ (s.modLane ep ({ · with looped := rest }))))
  ∧ (∀ (ep i : Nat) (r : ExpRule) (f : RxFrame) (s : State), s.macPresent ep = true → s.portUp ep = true →
    s.received ep f = some (f, s) → f.stamp ≤ s.tb →
    60 ≤ f.bytes.length → s.goodFrame ep f = true → beField f.bytes 12 2 ≠ 0x8808 →
    s.on (fLn_MAC_CFG_PROMISC ep) = true → s.fld fPwr_STATE_STATE < 2 → s.ruleFor ep f.bytes = some (i, r) →
    s.macSends r.outEp = true → s.expUsed r.outEp + (retag r f.bytes).length + 4 ≤ 131072 →
    ∃ t, exec (.frameReceive ep f) s = .next t ∧
      (t.lane r.outEp).express = (s.lane r.outEp).express ++ [⟨.express i ep, retag r f.bytes, false⟩] ∧
      (r.outEp ≠ ep → t.lane r.outEp =
        { s.lane r.outEp with express := (s.lane r.outEp).express ++ [⟨.express i ep, retag r f.bytes, false⟩] }) ∧
      (∀ n, n ≠ ep → n ≠ r.outEp → t.lane n = s.lane n) ∧
      Tab.get (0, 0) t.loom.expCnt i = (((Tab.get (0, 0) s.loom.expCnt i).1 + 1) % 65536, (Tab.get (0, 0) s.loom.expCnt i).2) ∧
      onlyRegs cntReg s t ∧ onlyParts [.lanes, .loom, .regs] s t)
  ∧ (∀ (ep : Nat) (f : RxFrame) (x : Posted) (l : List Posted) (s : State), s.macPresent ep = true → s.portUp ep = true →
    s.received ep f = some (f, s) → f.stamp ≤ s.tb → 60 ≤ f.bytes.length → s.goodFrame ep f = true →
    beField f.bytes 12 2 ≠ 0x8808 → s.on (fLn_MAC_CFG_PROMISC ep) = true → s.fld fPwr_STATE_STATE < 2 →
    s.ruleFor ep f.bytes = none → ipParse f.bytes = none → s.on (fLoom_PUNT_CFG_EN (puntClass f.bytes)) = true →
    s.fld (fLoom_PUNT_CFG_RATE (puntClass f.bytes)) = 0 → s.recvQueue (s.fld (fLoom_PUNT_CFG_QP (puntClass f.bytes))) = true →
    s.bme 0 = true → (s.qp (s.fld (fLoom_PUNT_CFG_QP (puntClass f.bytes)))).posted = x :: l →
    x.hdr.qp = s.fld (fLoom_PUNT_CFG_QP (puntClass f.bytes)) → s.ownerOf x.hdr.qp = 0 → 16 + f.bytes.length ≤ x.len →
    ∃ t, exec (.frameReceive ep f) s = .next t ∧
      completed ⟨x.hdr, eOk, 2, leBytes 2 f.bytes.length ++ leBytes 1 ep ++ leBytes 1 (puntClass f.bytes),
        [(x.addr, padTo 16 (tbBytes (s.rxStamp ep (s.stamp f.stamp))) ++ f.bytes)], false⟩ s t ∧ (t.qp x.hdr.qp).posted = l ∧
      onlyRegs (fun r => complReg r ∨ cntReg r) s t ∧ onlyParts [.lanes, .qps, .regs, .out] s t)

/-- ESP_OPEN with a block that meets every condition opens its port (R243, R244), ESP_CLOSE stops it and its packets
(R243), and ESP_TAKE and ESP_REWIND wait for their stroke, superseding one of their kind (R252, R253). -/
def Obligations.EgressPortsOpenAndClose : Prop :=
  (∀ (h : Hdr) (port bolt : Nat) (b : List Byte) (s : State), s.takes (.espOpen h port bolt (some b)) = true → s.testing 36 = false → b.length = 128 →
    firstFail (espBlockChecks port (espOf (s.ownerOf h.qp) bolt b) b s) = none →
    ∃ t q f, exec (.espOpen h port bolt (some b)) s = .next t ∧ completed (answer h eOk) s t ∧
      t.esp port = some { espOf (s.ownerOf h.qp) bolt b with seq := q, frames := f } ∧ q < 2 ^ 32 ∧ f < 256 ∧
      (∀ x, x ≠ port → t.esp x = s.esp x) ∧ onlyRegs (fun r => complReg r ∨ r = rLoom_EGR_STAT) s t ∧
      onlyParts [.loom, .free, .qps, .regs, .out] s t)
  ∧ (∀ (h : Hdr) (port : Nat) (p : Esp) (s : State), s.takes (.espClose h port) = true → s.testing 36 = false → s.esp port = some p →
    p.state ≠ 0 → p.owner = s.ownerOf h.qp → p.take = none → p.rew = none →
    ∃ t, exec (.espClose h port) s = .next t ∧ completed (answer h eOk) s t ∧
      t.esp port = some { p with state := 0, take := none, rew := none, out := [], sw := [], k := none } ∧
      (∀ x, x ≠ port → t.esp x = s.esp x) ∧
      (∀ f ∈ (t.lane p.ep).media, ∀ due trs ends, f.src ≠ .media port due trs ends) ∧ (t.lane p.ep).express = (s.lane p.ep).express ∧
      (t.lane p.ep).host = (s.lane p.ep).host ∧ (∀ n, n ≠ p.ep → t.lane n = s.lane n) ∧
      onlyRegs (fun r => complReg r ∨ r = rLoom_EGR_STAT) s t ∧ onlyParts [.loom, .lanes, .qps, .regs, .out] s t)
  ∧ (∀ (h : Hdr) (port bolt c : Nat) (p : Esp) (s : State), s.takes (.espTake h port bolt c) = true → s.testing 36 = false → s.esp port = some p →
    p.state ≠ 0 → p.owner = s.ownerOf h.qp → bolt < 2048 → sourceBad p (s.bolt bolt) = false → windowOk p (s.bolt bolt) 0 = true →
    windowOk p (s.bolt bolt) p.rewind = true → foreignBay p.owner (s.bolt bolt) s = false → s.admits port p = true →
    firstFail (cmdTiming h p c p.take s) = none →
    ∃ t, exec (.espTake h port bolt c) s = .next t ∧ t.esp port = some { p with take := some ⟨h, bolt, c, s.tb⟩ } ∧
      (∀ x, x ≠ port → t.esp x = s.esp x) ∧ (p.take = none → onlyParts [.loom, .qps] s t) ∧
      (∀ x, p.take = some x → x.hdr.qp < 256 → s.bme (s.ownerOf x.hdr.qp) = true → completed (answer x.hdr eAbort) s t) ∧
      onlyRegs complReg s t ∧ onlyParts [.loom, .qps, .held, .regs, .out] s t)
  ∧ (∀ (h : Hdr) (port rew c : Nat) (p : Esp) (s : State), s.takes (.espRewind h port rew c) = true → s.testing 36 = false → s.esp port = some p →
    p.state ≠ 0 → p.owner = s.ownerOf h.qp → rew ≤ 4000000 → windowOk p (s.bolt p.bolt) rew = true →
    firstFail (cmdTiming h p c p.rew s) = none →
    ∃ t, exec (.espRewind h port rew c) s = .next t ∧ t.esp port = some { p with rew := some ⟨h, rew, c, s.tb⟩ } ∧
      (∀ x, x ≠ port → t.esp x = s.esp x) ∧ (p.rew = none → onlyParts [.loom, .qps] s t) ∧
      (∀ x, p.rew = some x → x.hdr.qp < 256 → s.bme (s.ownerOf x.hdr.qp) = true → completed (answer x.hdr eAbort) s t) ∧
      onlyRegs complReg s t ∧ onlyParts [.loom, .qps, .held, .regs, .out] s t)

/-- EXP_RULE installs the rule of a valid record and removes it for a record with VALID = 0 (R263). A selector names
what is looked at, and the result it asks for is no longer valid (R14, R239, R267); the snapshot then shows the port
or rule as it stands, fresh (R15, R239, R267). CNT_CLR sets the loom's counts to 0 (R239, R267). -/
def Obligations.ExpressRulesAndLoomSnapshots : Prop :=
  (∀ (h : Hdr) (rule : Nat) (r : List Byte) (s : State), s.takesPf (.expRule h rule (some r)) = true → s.testing 36 = false → r.length = 40 →
    ruleReserved r = false →
    (((field r 0 1).testBit 0 = true → ruleBad r = false ∧ field r 2 1 < 8 ∧ s.mode (field r 2 1) ≠ 0 ∧
        s.fld (fLn_MODE_STAT_PORT_BASE (field r 2 1)) = field r 2 1)) →
    ∃ t, exec (.expRule h rule (some r)) s = .next t ∧ completed (answer h eOk) s t ∧
      t.loom = { s.loom with rules := if (field r 0 1).testBit 0 then Tab.set s.loom.rules rule (ruleOf r)
                                      else Tab.erase s.loom.rules rule } ∧
      onlyRegs (fun x => complReg x ∨ x = rLoom_EGR_STAT) s t ∧ onlyParts [.loom, .qps, .regs, .out] s t)
  ∧ (∀ (v : W32) (s : State), s.awake = true → s.testing 36 = false →
    (∃ t, exec (.ispSel v) s = .next t ∧ t.fld fLoom_ISP_SEL_PORT = bits v 9 0 ∧ t.loom = { s.loom with ispReq := some (bits v 9 0) } ∧
      (t.reg rLoom_ISP_STAT).getLsbD 31 = false ∧ (t.reg rLoom_ISP_STAT).getLsbD 30 = false ∧
      onlyRegs (fun r => r = rLoom_ISP_SEL ∨ r = rLoom_ISP_STAT) s t ∧ onlyParts [.loom, .regs] s t) ∧
    (∃ t, exec (.espSel v) s = .next t ∧ t.fld fLoom_ESP_SEL_PORT = bits v 9 0 ∧ t.loom = { s.loom with espReq := some (bits v 9 0) } ∧
      (t.reg rLoom_ESP_STAT).getLsbD 31 = false ∧ (t.reg rLoom_ESP_STAT).getLsbD 30 = false ∧
      onlyRegs (fun r => r = rLoom_ESP_SEL ∨ r = rLoom_ESP_STAT) s t ∧ onlyParts [.loom, .regs] s t) ∧
    (∃ t, exec (.expSel v) s = .next t ∧ t.fld fLoom_EXP_SEL_RULE = bits v 5 0 ∧ t.loom = { s.loom with expReq := some (bits v 5 0) } ∧
      onlyRegs (fun r => r = rLoom_EXP_SEL) s t ∧ onlyParts [.loom, .regs] s t))
  ∧ (∀ (port : Nat) (p : Isp) (s : State), s.dark = false → s.loom.ispReq = some port → s.isp port = some p → p.late < 65536 →
    ∃ t, exec (.snapshotReady .isp) s = .next t ∧ t.fld fLoom_ISP_CNT_LATE = p.late ∧ t.fld fLoom_ISP_CNT_LOST = p.lost % 65536 ∧
      (t.reg rLoom_ISP_STAT).getLsbD 31 = true ∧ (t.reg rLoom_ISP_STAT).getLsbD 30 = true ∧ t.loom = { s.loom with ispReq := none } ∧
      onlyRegs (fun r => r = rLoom_ISP_CNT ∨ r = rLoom_ISP_STAT) s t ∧ onlyParts [.loom, .regs] s t)
  ∧ (∀ (port : Nat) (p : Esp) (s : State), s.dark = false → s.loom.espReq = some port → s.esp port = some p → p.drop < 65536 →
    p.rept < 65536 → p.lost < 65536 →
    ∃ t, exec (.snapshotReady .esp) s = .next t ∧ t.fld fLoom_ESP_CNT0_DROP = p.drop ∧ t.fld fLoom_ESP_CNT0_REPEAT = p.rept ∧
      t.fld fLoom_ESP_CNT1_LOSS = p.lost ∧ t.fld fLoom_ESP_CNT1_PACE_LATE = min 255 p.late ∧ t.fld fLoom_ESP_CNT1_TORN = min 255 p.torn ∧
      t.fld fLoom_ESP_SHOWN_INDEX = (p.last.map (·.1)).getD 0 % 2 ^ 32 ∧
      (t.reg rLoom_ESP_STAT).getLsbD 31 = true ∧ (t.reg rLoom_ESP_STAT).getLsbD 30 = true ∧ t.loom = { s.loom with espReq := none } ∧
      onlyRegs (fun r => r = rLoom_ESP_SHOWN ∨ r = rLoom_ESP_CNT0 ∨ r = rLoom_ESP_CNT1 ∨ r = rLoom_ESP_STAT) s t ∧
      onlyParts [.loom, .regs] s t)
  ∧ (∀ (rule : Nat) (s : State), s.dark = false → s.loom.expReq = some rule → (Tab.get (0, 0) s.loom.expCnt rule).1 < 65536 →
    ∃ t, exec (.snapshotReady .exp) s = .next t ∧ t.fld fLoom_EXP_CNT_FORWARDED = (Tab.get (0, 0) s.loom.expCnt rule).1 ∧
      t.fld fLoom_EXP_CNT_DROPPED = (Tab.get (0, 0) s.loom.expCnt rule).2 % 65536 ∧ t.loom = { s.loom with expReq := none } ∧
      onlyRegs (fun r => r = rLoom_EXP_CNT) s t ∧ onlyParts [.loom, .regs] s t)
  ∧ (∀ (v : W32) (s : State), s.awake = true → s.testing 36 = false → v.getLsbD 0 = false →
    exec (.ingCntClr v) s = .next s ∧ exec (.egrCntClr v) s = .next s)
  ∧ (∀ (v : W32) (s : State), s.awake = true → s.testing 36 = false → v.getLsbD 0 = true →
    (∃ t, exec (.ingCntClr v) s = .next t ∧ (∀ c, c < 6 → t.reg (rLoom_PUNT_DROP c) = 0#32) ∧
      onlyRegs (fun r => ∃ c, c < 6 ∧ r = rLoom_PUNT_DROP c) s t ∧ onlyParts [.regs] s t) ∧
    (∃ t, exec (.egrCntClr v) s = .next t ∧ (∀ n, n < 8 → t.reg (rLoom_EXP_DROP n) = 0#32) ∧ t.loom = { s.loom with expCnt := [] } ∧
      onlyRegs (fun r => ∃ n, n < 8 ∧ r = rLoom_EXP_DROP n) s t ∧ onlyParts [.loom, .regs] s t))

/-- At a frame boundary the MAC sends express before media before host frames (R29), and a host frame's SEND completes
as its frame leaves (R358). The next packet of a port joins its MAC's media queue at its schedule time, with the
port's next sequence number (R29, R256, R257, R261). -/
def Obligations.FramesAndPacketsLeave : Prop :=
  (∀ (ep : Nat) (f : TxFrame) (l : Lane) (s : State), s.macSends ep = true → (s.tx ep = txRampUp ∨ s.tx ep = txActive) →
    s.txHeld ep = false → nextTx (s.lane ep) = some (f, l) → (∀ h, f.src ≠ .host h) →
    ∃ t, exec (.txFrameStart ep) s = .next t ∧ .frame ep f.data (!f.bad) ∈ t.host.out ∧
      t.lane ep = { l with txBytes := (l.txBytes + (f.data.length + 4)) % 2 ^ 64
                           looped := if s.fld (fLn_PRBS_STAT_LOOP ep) = 3 then l.looped ++ [(f.data, !f.bad)] else [] } ∧
      (∀ n, n ≠ ep → t.lane n = s.lane n) ∧
      ((s.lane ep).express = [f] ++ l.express ∨ (s.lane ep).express = [] ∧ (s.lane ep).media = [f] ++ l.media) ∧
      onlyRegs (fun r => r.blk = .bm ∨ r.blk = .bmw ∨ cntReg r ∨ noteReg r ∨ r = rLoom_EGR_EVENT) s t ∧
      onlyParts [.lanes, .loom, .beam, .free, .rings, .lastNote, .regs, .out] s t)
  ∧ (∀ (ep : Nat) (h : Hdr) (data : List Byte) (r : List TxFrame) (s : State), s.macSends ep = true →
    (s.tx ep = txRampUp ∨ s.tx ep = txActive) → s.txHeld ep = false → (s.lane ep).express = [] → (s.lane ep).media = [] →
    (s.lane ep).host = ⟨.host h, data, false⟩ :: r → h.qp < 256 → s.bme (s.ownerOf h.qp) = true →
    ∃ t n, exec (.txFrameStart ep) s = .next t ∧ .frame ep data true ∈ t.host.out ∧
      n = roundNs (((s.stamp s.tb : Int) + s.sfld (fCox_TS_CORR_TX_CORR ep) * 4096).toNat) ∧
      completed ⟨h, eOk, 1, if h.ts then leBytes 4 (n % 1000000000) ++ leBytes 6 (n / 1000000000) else [], [], false⟩ s t ∧
      t.lane ep = { s.lane ep with
        host := r, txBytes := ((s.lane ep).txBytes + (data.length + 4)) % 2 ^ 64
        looped := if s.fld (fLn_PRBS_STAT_LOOP ep) = 3 then (s.lane ep).looped ++ [(data, true)] else [] } ∧
      (∀ n, n ≠ ep → t.lane n = s.lane n) ∧ onlyRegs (fun r => complReg r ∨ cntReg r) s t ∧
      onlyParts [.lanes, .qps, .regs, .out] s t)
  ∧ (∀ (h : Hdr) (ep len : Nat) (d : List Byte) (s : State), s.begins (.frameSend h ep len (some d)) = true → s.dark = false → ep < 8 → 14 ≤ len →
    len ≤ s.fld (fLn_MAC_CFG_MAX_FRAME ep) - 4 → s.macSends ep = true →
    exec (.frameSend h ep len (some d)) s = .next ((s.begun h.qp).modLane ep fun l =>
      { l with host := l.host ++ [{ src := .host h, data := padTo 60 (d.take len) }] }))
  ∧ (∀ (h : Hdr) (addr len : Nat) (s : State), s.begins (.post h addr len) = true → s.dark = false → addr % 64 = 0 → len % 64 = 0 → 64 ≤ len →
    len ≤ 16384 →
    exec (.post h addr len) s = .next ((s.begun h.qp).modQp h.qp fun v => { v with posted := v.posted ++ [⟨h, addr, len⟩] }))
  ∧ (∀ (port : Nat) (p : Esp) (fr : EspFrame) (l : List EspFrame) (s : State), s.esp port = some p → p.out = fr :: l → p.fmt.ess = 0 →
    p.pacing ≠ 2 → s.macSends p.ep = true →
    ∃ t x q e, exec (.packetDue port) s = .next t ∧ (t.lane p.ep).media = (s.lane p.ep).media ++ [x] ∧
      x.src = .media port (ceilT (p.schedule fr fr.k).1) (ceilT (p.schedule fr fr.k).2) e ∧
      ((ceilT (p.schedule fr fr.k).1 : Nat) : Int) ≤ t.tb ∧
      t.esp port = some q ∧ q.seq = (p.seq + 1) % 2 ^ 32 ∧ (∀ n, n ≠ p.ep → t.lane n = s.lane n) ∧
      onlyRegs (fun r => r.blk = .bm ∨ r.blk = .bmw ∨ r = rLoom_EGR_EVENT ∨ cntReg r ∨ noteReg r) s t ∧
      onlyParts [.tb, .up, .time, .links, .crew, .free, .beam, .loom, .lanes, .rings, .lastNote, .regs, .out] s t)
  ∧ (∀ (port : Nat) (p : Esp) (s : State), s.esp port = some p → p.state ≠ 0 → p.fmt.ess = 1 → p.fmt.pkts = 1 → p.loss ≠ 2 →
    s.macSends p.ep = true → p.k = some (s.tb / (1000000 * nsU)) →
    ∃ t x q, exec (.audioPacketDue port) s = .next t ∧ (t.lane p.ep).media = (s.lane p.ep).media ++ [x] ∧
      x.src = .media port ((s.tb / (1000000 * nsU) + 1) * (1000000 * nsU)) (1000000 * nsU) none ∧
      t.tb = (s.tb / (1000000 * nsU) + 1) * (1000000 * nsU) ∧ t.esp port = some q ∧ q.seq = (p.seq + 1) % 2 ^ 32 ∧
      q.k = some (s.tb / (1000000 * nsU) + 1) ∧ (∀ n, n ≠ p.ep → t.lane n = s.lane n) ∧
      onlyRegs (fun r => r.blk = .bm ∨ r.blk = .bmw ∨ r = rLoom_EGR_EVENT ∨ cntReg r ∨ noteReg r) s t ∧
      onlyParts [.tb, .up, .time, .links, .crew, .free, .beam, .loom, .lanes, .rings, .lastNote, .regs, .out] s t)

/-- An accepted STROKE_DEF answers the count and the instant of the first stroke under its definition, the first epoch
point at or after the bound of R196, which waits in the generator (R195, R196); an accepted STROKE_JUMP waits for
its stroke (R201). TIME_SET steps the timebase and records it before and after (R189); the loss and the return of
the reference clock show in TB_STAT and TB_EVENT (R184); the PPS output pulses as the nanoseconds pass 0 (R206). A definition
of a shared generator, a stop too, goes to the crew as a DEF frame (R172). -/
def Obligations.StrokesAndTimebaseAreSet : Prop :=
  (∀ (h : Hdr) (k num den src mode : Nat) (phase : Int) (d : GenDef) (j : Int) (s : State), s.takesPf (.strokeDef h k num den src mode phase) = true → den ≠ 0 → den ≤ num →
    num ≤ 1000 * den → num ≤ 16777215 → 2 * phase.natAbs * num < den * 1000000000 → s.follows k = false → (s.gen k).busy = false →
    (src = 1 → ∀ i, i < 4 → i ≠ k → ((s.gen i).d.map (·.src)) ≠ some 1 ∧ ((s.gen i).new.map (·.d.src)) ≠ some 1) →
    d = ⟨num, den, phase, src, mode⟩ → j = d.firstAt (newBound k s ((s.tb + 1000000 * nsU : Nat) : Int)) →
    ∃ t, exec (.strokeDef h k num den src mode phase) s = .next t ∧
      completed (answer h eOk (strokeResult (j % 4294967296).toNat (d.instant 0 j))) s t ∧
      t.gen k = { s.gen k with new := some ⟨d, s.up, j, d.instant 0 j⟩, defChg := true } ∧ (∀ i, i ≠ k → t.gen i = s.gen i) ∧
      onlyRegs complReg s t ∧ ((s.role ≠ roleLead ∨ s.shared k = false) → onlyParts [.gens, .qps, .regs, .out] s t) ∧
      onlyParts [.gens, .links, .crew, .qps, .regs, .out] s t)
  ∧ (∀ (h : Hdr) (k src mode : Nat) (phase : Int) (s : State), s.takesPf (.strokeDef h k 0 0 src mode phase) = true → s.follows k = false →
    (s.gen k).busy = false → (s.gen k).running = true →
    ∃ t, exec (.strokeDef h k 0 0 src mode phase) s = .next t ∧
      completed (answer h eOk (strokeResult (s.gen k).nextCount (s.gen k).nextAt)) s t ∧
      t.gen k = { s.gen k with stop := true, defChg := true } ∧ (∀ i, i ≠ k → t.gen i = s.gen i) ∧
      onlyRegs complReg s t ∧ ((s.role ≠ roleLead ∨ s.shared k = false) → onlyParts [.gens, .qps, .regs, .out] s t) ∧
      onlyParts [.gens, .links, .crew, .qps, .regs, .out] s t)
  ∧ (∀ (h : Hdr) (k src mode : Nat) (phase : Int) (s : State), s.takesPf (.strokeDef h k 0 0 src mode phase) = true → s.follows k = false →
    (s.gen k).busy = false → (s.gen k).running = false →
    ∃ t, exec (.strokeDef h k 0 0 src mode phase) s = .next t ∧
      completed (answer h eOk ((s.gen k).last.elim [] fun e => strokeResult e.1 e.2)) s t ∧
      onlyRegs complReg s t ∧ onlyParts [.qps, .regs, .out] s t)
  ∧ (∀ (h : Hdr) (k : Nat) (delta : Int) (s : State), s.takesPf (.strokeJump h k false delta) = true → delta ≠ -2147483648 → (s.gen k).defined = true →
    s.follows k = false → (s.gen k).busy = false →
    exec (.strokeJump h k false delta) s = .next ((s.begun h.qp).modGen k ({ · with jump := some ⟨h, delta, s.up⟩ })))
  ∧ (∀ (h : Hdr) (k : Nat) (s : State), s.takesPf (.strokeJump h k true 0) = true → (s.gen k).ins ≠ [] → (s.gen k).defined = true →
    s.follows k = false → (s.gen k).busy = false →
    exec (.strokeJump h k true 0) s = .next ((s.begun h.qp).modGen k ({ · with jump := some ⟨h, s.inOfs k, s.up⟩ })))
  ∧ (∀ (h : Hdr) (relative : Bool) (sec ns frac : Nat) (ofs after : Int) (s : State), s.takesPf (.timeSet h relative sec ns frac ofs) = true → s.role ≠ roleMember →
    after = (if relative then (s.tb : Int) + ofs else ((sec * secU + ns * nsU + frac : Nat) : Int)) →
    (relative = false → ns < 1000000000) → 0 ≤ after → after < ((2 ^ 48 * secU : Nat) : Int) →
    ∃ t, exec (.timeSet h relative sec ns frac ofs) s = .next t ∧ (t.tb : Int) = after ∧ t.fld fCox_TB_EVENT_STEPPED = 1 ∧
      completed (answerRec h eOk (padTo 32 (tbBytes s.tb ++ tbBytes after.toNat))) s t ∧
      onlyRegs (fun r => complReg r ∨ noteReg r ∨ r = rCox_TB_EVENT ∨ r = rCox_TB_STAT) s t ∧
      onlyParts [.tb, .gens, .time, .loom, .lanes, .qps, .rings, .regs, .out] s t)
  ∧ (∀ s : State, s.on fCox_TB_STAT_TBCLK_LOST = false → ∃ t, exec .tbclkLost s = .next t ∧ t.fld fCox_TB_STAT_TBCLK_LOST = 1 ∧
      t.fld fCox_TB_EVENT_TBCLK_LOST = 1 ∧ ((t.tb : Int) - s.tb).natAbs ≤ nsU ∧
      onlyRegs (fun r => noteReg r ∨ r = rCox_TB_EVENT ∨ r = rCox_TB_STAT) s t ∧ onlyParts [.tb, .free, .rings, .regs, .out] s t)
  ∧ (∀ s : State, s.on fCox_TB_STAT_TBCLK_LOST = true → ∃ t, exec .tbclkBack s = .next t ∧ t.fld fCox_TB_STAT_TBCLK_LOST = 0 ∧
      t.fld fCox_TB_EVENT_TBCLK_BACK = 1 ∧ ((t.tb : Int) - s.tb).natAbs ≤ nsU ∧
      onlyRegs (fun r => noteReg r ∨ r = rCox_TB_EVENT ∨ r = rCox_TB_STAT) s t ∧ onlyParts [.tb, .free, .rings, .regs, .out] s t)
  ∧ (∀ s : State, s.tbRuns = true → s.time.ppsAt ≠ some s.tb → ∃ t, exec .pps s = .next t ∧
      t.tb = (s.tb / secU + 1) * secU ∧ t.up = s.up + (t.tb - s.tb) ∧
      (s.on fCox_OUT_CTL_PPS_EN = true → .pin "PPS_OUT" (some true) ∈ t.host.out ∧ (0 < s.fld fCox_OUT_CTL_PPS_WIDTH →
        t.time.ppsEnd = some (t.up + s.fld fCox_OUT_CTL_PPS_WIDTH * 1000000 * nsU))) ∧
      onlyParts [.tb, .up, .time, .links, .crew, .out] s t)
  ∧ (∀ s : State, s.tbRuns = true → s.time.ppsAt = some s.tb →
      exec .pps s = .next { s with time := { s.time with ppsAt := none } })

/-- The next stroke of a running generator fires at its instant, to 1/16 ns (R183), with the next count (R194, R195): both are
published, COUNT shows the count, and without a move the stroke after it is the next epoch point (R197, R574). -/
def Obligations.StrokesFire : Prop :=
  ∀ (k : Nat) (d : GenDef) (s : State), k < 4 → s.tbRuns = true → (s.gen k).d = some d → (s.gen k).new = none → (s.gen k).stop = false →
    (s.gen k).jump = none → (s.gen k).follow = [] →
    ∃ t, exec (.stroke k) s = .next t ∧ (t.gen k).last = some ((s.gen k).nextCount, (s.gen k).at_) ∧
      t.fld (fGen_COUNT_COUNT k) = (s.gen k).nextCount ∧ interp (s.gen k).at_ s ≤ t.tb ∧ s.tb ≤ t.tb ∧
      (t.gen k).d = some d ∧ (t.gen k).j = (s.gen k).j + 1 ∧ (∀ i, i ≠ k → t.gen i = s.gen i)

/-- A PTM dialog sends a request, and its response puts the pair of times into the PTM registers, fresh; a dialog that
fails raises PTM_FAIL (R192, R193). The firmware servo (R188): the first sample of a free-running servo starts
ACQUIRE; in ACQUIRE a sample above STEP_THR steps the timebase against it; without samples a servo that acquires or
is locked goes to HOLDOVER. An edge of STROKE_IN measures the offset to the nearest stroke of the generator that
follows it, fresh in IN_OFS (R198); four strokes without an edge stop the slewing and raise IN_LOST (R200). -/
def Obligations.TimeIsFollowed : Prop :=
  (∀ (v : W32) (s : State), s.awake = true → (v.getLsbD 31 = true → s.host.cfg.ptm = true) → bits v 15 0 ≠ 0 →
    ∃ t, exec (.ptmGo v) s = .next t ∧
      t.host.out = (if v.getLsbD 31 && v.getLsbD 30 then [.ptmRequest] else []) ++ s.host.out ∧
      t.time = { s.time with ptm := s.time.ptm ++ if v.getLsbD 31 && v.getLsbD 30 then [s.tb] else [] } ∧
      t.fld fCox_PTM_CTL_EN = bits v 31 31 ∧ t.fld fCox_PTM_CTL_INTERVAL = bits v 15 0 ∧ onlyRegs (fun r => r = rCox_PTM_CTL) s t ∧
      onlyParts [.time, .regs, .out] s t)
  ∧ (∀ s : State, s.on fCox_PTM_CTL_EN = true → s.host.cfg.ptm = true → ∃ t, exec .ptmDialog s = .next t ∧
      t.host.out = .ptmRequest :: s.host.out ∧ t.time = { s.time with ptm := s.time.ptm ++ [s.tb] } ∧ onlyParts [.time, .out] s t)
  ∧ (∀ s : State, s.on fCox_PTM_CTL_EN = false ∨ s.host.cfg.ptm = false → exec .ptmDialog s = .next s)
  ∧ (∀ (dev host at_ asked : Nat) (rest : List Nat) (s : State), s.time.ptm = asked :: rest → host < 2 ^ 64 →
    at_ = max (asked - 8 * nsU) (min (asked + 8 * nsU) dev) → ∃ t, exec (.ptmDone dev host) s = .next t ∧
      t.fld fCox_PTM_DEV_NS_NS = tbNs at_ ∧ (t.reg rCox_PTM_DEV_SEC_LO).toNat = tbSec at_ % 2 ^ 32 ∧
      t.fld fCox_PTM_DEV_SEC_HI_SEC = tbSec at_ / 2 ^ 32 ∧ t.pair rCox_PTM_HOST_LO rCox_PTM_HOST_HI = host ∧
      t.fld fCox_PTM_STAT_FRESH = 1 ∧ t.fld fCox_PTM_STAT_VALID = 1 ∧
      t.fld fCox_PTM_STAT_SEQ = (s.fld fCox_PTM_STAT_SEQ + 1) % 65536 ∧ t.time = { s.time with ptm := rest } ∧
      onlyRegs (fun r => r ∈ [rCox_PTM_DEV_NS, rCox_PTM_DEV_SEC_LO, rCox_PTM_DEV_SEC_HI, rCox_PTM_HOST_LO, rCox_PTM_HOST_HI, rCox_PTM_STAT]) s t ∧
      onlyParts [.time, .regs] s t)
  ∧ (∀ (asked : Nat) (rest : List Nat) (s : State), s.time.ptm = asked :: rest → ∃ t, exec .ptmFail s = .next t ∧
      t.fld fCox_TB_EVENT_PTM_FAIL = 1 ∧ t.time = { s.time with ptm := rest } ∧ onlyRegs (fun r => noteReg r ∨ r = rCox_TB_EVENT) s t ∧
      onlyParts [.time, .rings, .regs, .out] s t)
  ∧ (∀ (fn : Nat) (v : W32) (s : State), s.awake = true → s.fld fCox_TB_CTL_SERVO = 1 → s.houseRuns = true →
    s.servo = svFreerun ∨ s.servo = svHoldover →
    ∃ t, exec (.servoSample fn v) s = .next t ∧ t.servo = svAcquire ∧ t.time.lastAt = s.up ∧ onlyRegs (fun r => r = rCox_TB_STAT) s t ∧
      onlyParts [.time, .loHeld, .regs] s t)
  ∧ (∀ (fn : Nat) (v : W32) (x : Int) (s : State), s.awake = true → s.fld fCox_TB_CTL_SERVO = 1 → s.houseRuns = true →
    s.servo = svAcquire → x = signed 64 (s.heldLo fn rCox_SERVO_IN_LO s.time.servoLo + 2 ^ 32 * v.toNat) →
    s.fld fCox_SERVO_CFG_STEP_THR * nsU < x.natAbs → x ≤ s.tb →
    ∃ t, exec (.servoSample fn v) s = .next t ∧ (t.tb : Int) = s.tb - x ∧ t.servo = svAcquire ∧ t.fld fCox_TB_EVENT_STEPPED = 1 ∧
      onlyRegs (fun r => noteReg r ∨ r = rCox_TB_EVENT) s t ∧
      onlyParts [.tb, .time, .gens, .loom, .lanes, .loHeld, .rings, .regs, .out] s t)
  ∧ (∀ (fn : Nat) (v : W32) (x lim : Int) (s : State), s.awake = true → s.fld fCox_TB_CTL_SERVO = 1 → s.houseRuns = true →
    s.servo = svAcquire ∨ s.servo = svLocked → x = signed 64 (s.heldLo fn rCox_SERVO_IN_LO s.time.servoLo + 2 ^ 32 * v.toNat) →
    x.natAbs ≤ s.fld fCox_SERVO_CFG_STEP_THR * nsU →
    lim = (((if s.servo = svLocked then 1 else 20) * 65536 * (s.up - s.time.lastAt) / secU : Nat) : Int) →
    -2147483648 ≤ s.sfld fCox_TB_FREQ_FREQ - lim → s.sfld fCox_TB_FREQ_FREQ + lim < 2147483648 →
    ∃ t, exec (.servoSample fn v) s = .next t ∧ t.tb = s.tb ∧ (t.sfld fCox_TB_FREQ_FREQ - s.sfld fCox_TB_FREQ_FREQ).natAbs ≤ lim.natAbs ∧
      t.servo = (if s.servo = svLocked ∨ 15 ≤ s.time.runIn ∧ x.natAbs < 100 * nsU then svLocked else svAcquire) ∧
      t.time.lastAt = s.up ∧ (s.servo = svLocked → t.time.runOut = 0) ∧
      onlyRegs (fun r => noteReg r ∨ r = rCox_TB_EVENT ∨ r = rCox_TB_STAT ∨ r = rCox_TB_FREQ) s t ∧
      onlyParts [.time, .free, .loHeld, .rings, .regs, .out] s t)
  ∧ (∀ (fn : Nat) (v : W32) (x : Int) (s : State), s.awake = true → s.fld fCox_TB_CTL_SERVO = 1 → s.houseRuns = true →
    s.servo = svLocked → x = signed 64 (s.heldLo fn rCox_SERVO_IN_LO s.time.servoLo + 2 ^ 32 * v.toNat) →
    s.fld fCox_SERVO_CFG_STEP_THR * nsU < x.natAbs →
    ∃ t, exec (.servoSample fn v) s = .next t ∧ t.tb = s.tb ∧ t.servo = (if 3 ≤ s.time.runOut then svAcquire else svLocked) ∧
      t.time.runOut = (if 3 ≤ s.time.runOut then 0 else s.time.runOut + 1) ∧ onlyRegs (fun r => r = rCox_TB_STAT) s t ∧
      onlyParts [.time, .loHeld, .regs] s t)
  ∧ (∀ (fn : Nat) (v : W32) (s : State), s.awake = true → s.fld fCox_TB_CTL_SERVO = 1 → s.servo = svCrew ∨ s.houseRuns = false →
    ∃ t, exec (.servoSample fn v) s = .next t ∧ t.tb = s.tb ∧ onlyParts [.time, .loHeld] s t)
  ∧ (∀ s : State, s.servo = svAcquire ∨ s.servo = svLocked → ∃ t, exec .servoHoldover s = .next t ∧ t.servo = svHoldover ∧
      t.fld fCox_TB_EVENT_HOLDOVER = 1 ∧
      onlyRegs (fun r => noteReg r ∨ r = rCox_TB_EVENT ∨ r = rCox_TB_STAT ∨ r = rCox_TB_FREQ) s t ∧
      onlyParts [.time, .rings, .regs, .out] s t)
  ∧ (∀ s : State, s.servo ≠ svAcquire → s.servo ≠ svLocked → exec .servoHoldover s = .next s)
  ∧ (∀ (at_ : Nat) (s : State), exec (.strokeInEdge (!s.on fStk_IN_CFG_POL) at_) s = .next s)
  ∧ (∀ (falling : Bool) (at_ : Nat) (s : State), s.inGen = none → exec (.strokeInEdge falling at_) s = .next s)
  ∧ (∀ (k at_ : Nat) (d : GenDef) (o : Int) (s : State), s.inGen = some k → (s.gen k).d = some d →
    o = (s.gen k).edgeOfs d (interp at_ s) →
    -536870912 ≤ (2 * o + 65536) / 131072 → (2 * o + 65536) / 131072 < 536870912 →
    ∃ t, exec (.strokeInEdge (s.on fStk_IN_CFG_POL) at_) s = .next t ∧ t.sfld (fGen_IN_OFS_IN_OFS k) = (2 * o + 65536) / 131072 ∧
      t.fld (fGen_IN_OFS_FRESH k) = 1 ∧ t.gen k = { s.gen k with
        ins := ⟨o, s.upOf (interp at_ s), false⟩ :: recentIns (s.upOf (interp at_ s)) (s.gen k).ins, noEdge := 0, inLost := false } ∧
      (∀ i, i ≠ k → t.gen i = s.gen i) ∧ onlyRegs (fun r => r = rGen_IN_OFS k) s t ∧ onlyParts [.gens, .regs] s t)
  ∧ (∀ (k : Nat) (s : State), s.inGen = some k → 4 ≤ (s.gen k).noEdge → (s.gen k).inLost = false →
    ∃ t, exec .inLost s = .next t ∧ t.gen k = { s.gen k with inLost := true } ∧ t.fld (fGen_EVENT_IN_LOST k) = 1 ∧
      (∀ i, i ≠ k → t.gen i = s.gen i) ∧ onlyRegs (fun r => noteReg r ∨ r = rGen_EVENT k) s t ∧
      onlyParts [.gens, .rings, .regs, .out] s t)

/-- Setting EN of a counter sets it to 0, and a write of FILT that changes it clears EN (R518); EN of the split reader
starts an empty ring (R529); a snapshot writes the next record into its slot (R527, R528). -/
def Obligations.CountersAndSplits : Prop :=
  (∀ (addr : Nat) (c : RegId) (v : W32) (s : State), s.awake = true → decodeBar0 addr = some c → cntOf c = some (c, false) →
    s.unavailable c = none → ¬ (c.blk = .sh ∧ c.inst < 4) → cntSrcOk c.blk (bits v 7 0) = true → v.getLsbD 31 = true →
    (s.reg c).getLsbD 31 = false →
    ∃ t, exec (.cntCfgWrite addr v) s = .next t ∧ t.reg c = BitVec.ofNat 32 (2 ^ 31 + bits v 7 0) ∧
      t.reg { c with off := c.off + 8 } = 0#32 ∧ t.reg { c with off := c.off + 12 } = 0#32 ∧ c ∈ t.split.fresh ∧
      onlyRegs (fun r => r = c ∨ r = { c with off := c.off + 8 } ∨ r = { c with off := c.off + 12 }) s t ∧ onlyParts [.split, .regs] s t)
  ∧ (∀ (addr : Nat) (c : RegId) (v : W32) (s : State), s.awake = true → decodeBar0 addr = some { c with off := c.off + 4 } →
    cntOf { c with off := c.off + 4 } = some (c, true) → s.unavailable { c with off := c.off + 4 } = none →
    ¬ (c.blk = .sh ∧ c.inst < 4) → v &&& cntFiltMask c.blk = v → s.reg { c with off := c.off + 4 } ≠ v →
    ∃ t, exec (.cntCfgWrite addr v) s = .next t ∧ t.reg { c with off := c.off + 4 } = v ∧ t.reg c = s.reg c &&& 0x7FFFFFFF#32 ∧
      onlyRegs (fun r => r = c ∨ r = { c with off := c.off + 4 }) s t ∧ onlyParts [.regs] s t)
  ∧ (∀ (v : W32) (s : State), s.awake = true → v.getLsbD 31 = true → s.on fSplit_CTL_EN = false → s.bme 0 = true →
    splitSlot s.splitCounters.length ≤ 2000 * s.fld fSplit_WINDOW_US → 4 ≤ s.fld fSplit_RING_LOG2 → s.fld fSplit_RING_LOG2 ≤ 16 →
    s.pair rSplit_RING_BASE_LO rSplit_RING_BASE_HI % 64 = 0 →
    ∃ t, exec (.splitEnable v) s = .next t ∧ t.fld fSplit_CTL_EN = 1 ∧ t.reg rSplit_RING_TAIL = 0x10000#32 ∧ t.fld fSplit_SEQ_SEQ = 0 ∧
      t.fld fSplit_STAT_LOST = 0 ∧ t.split.last = none ∧
      onlyRegs (fun r => r ∈ [rSplit_CTL, rSplit_RING_TAIL, rSplit_SEQ, rSplit_STAT]) s t ∧ onlyParts [.split, .regs] s t)
  ∧ (∀ s : State, s.on fSplit_CTL_EN = true → s.pState < 2 → s.dark = false → s.bme 0 = true →
    (s.fld fSplit_RING_TAIL_TAIL + 1) % 2 ^ s.fld fSplit_RING_LOG2 ≠ s.fld fSplit_RING_CI_CI →
    ∃ t r, exec .splitSnapshot s = .next t ∧ t.tb = s.nextSnap ∧ t.fld fSplit_SEQ_SEQ = (s.fld fSplit_SEQ_SEQ + 1) % 2 ^ 32 ∧
      .hostWrite (s.pair rSplit_RING_BASE_LO rSplit_RING_BASE_HI + s.fld fSplit_RING_TAIL_TAIL * splitSlot s.splitCounters.length) r ∈ t.host.out ∧
      r.length = splitSlot s.splitCounters.length ∧ field r 0 4 = (s.fld fSplit_SEQ_SEQ + 1) % 2 ^ 32 ∧
      (r.drop 8).take 12 = tbBytes s.nextSnap ∧ t.split.last = some s.nextSnap ∧ onlyParts [.tb, .up, .time, .links, .crew, .free, .split, .regs, .out] s t)

/-- The states of a cox receiver (R157, R158, R168): a signal moves SEARCH to ALIGN, good windows move ALIGN to UP, a
loss moves UP to DOWN, in a crew with the link marked as faulted and a LINK_FAULT frame (R157, R178), 10 µs move DOWN to SEARCH; each window updates MERIT (R159) and each DFE tap moves one code
against its sign (R159). A transmitter with nothing to send announces its sleep with a SLEEP frame and sleeps
(R167); an item due starts the wake run, after which it is sent (R168); a crew frame that has left makes way for the
next (R165), and a CREW_RELAY completes as its frame leaves (R379). -/
def Obligations.CoxReceiversAndTransmittersMove : Prop :=
  (∀ (n : Nat) (s : State), n < 2 → s.cxRx n = cxRxSearch → ∃ t, exec (.coxSignalDetect n) s = .next t ∧ t.cxRx n = cxRxAlign ∧
    t.fld (fCx_STAT_LOS n) = 0 ∧ onlyRegs (fun r => r = rCx_STAT n) s t ∧ onlyParts [.links, .regs] s t)
  ∧ (∀ (n : Nat) (s : State), n < 2 → s.cxRx n = cxRxAlign → s.on (fCx_PRBS_STAT_CHK n) = false → 2 ≤ (s.link n).upRun →
    ∃ t, exec (.coxRxUp n) s = .next t ∧ t.cxRx n = cxRxUp ∧ t.fld (fCx_EVENT_UP n) = 1 ∧ (t.link n).upSince = s.up ∧
      onlyRegs (fun r => noteReg r ∨ r = rCx_STAT n ∨ r = rCx_EVENT n) s t ∧ onlyParts [.links, .rings, .regs, .out] s t)
  ∧ (∀ (n cause : Nat) (s : State), n < 2 → s.cxRx n = cxRxUp → s.on (fCx_PRBS_STAT_CHK n) = false → (cause = 2 → 4 ≤ (s.link n).downRun) →
    s.inCrew = false →
    ∃ t, exec (.coxRxDown n cause) s = .next t ∧ t.cxRx n = cxRxDown ∧ t.fld (fCx_EVENT_DOWN n) = 1 ∧
      (cause = 0 → t.fld (fCx_STAT_LOS n) = 1 ∧ t.fld (fCx_EVENT_LOS n) = 1) ∧
      onlyRegs (fun r => noteReg r ∨ r = rCx_STAT n ∨ r = rCx_EVENT n) s t ∧ onlyParts [.links, .rings, .regs, .out] s t)
  ∧ (∀ (n cause : Nat) (s : State), n < 2 → s.cxRx n = cxRxUp → s.on (fCx_PRBS_STAT_CHK n) = false → (cause = 2 → 4 ≤ (s.link n).downRun) →
    s.inCrew = true →
    ∃ t b, exec (.coxRxDown n cause) s = .next t ∧ t.cxRx n = cxRxDown ∧ t.fld (fCx_EVENT_DOWN n) = 1 ∧ t.cxTx n = cxTxFault ∧
      t.faulted n = true ∧ .coxItem n 0xFB b ∈ t.host.out ∧ field b 0 1 = tFault ∧
      onlyRegs (fun r => noteReg r ∨ complReg r ∨ r.blk = .cx ∨ r = rCox_CREW_STAT ∨ r = rCox_CREW_EVENT) s t ∧
      onlyParts [.links, .crew, .qps, .held, .rings, .regs, .out] s t)
  ∧ (∀ (n : Nat) (s : State), n < 2 → s.cxRx n = cxRxDown → exec (.coxDownExpiry n) s = .next (s.searchCx n))
  ∧ (∀ (n violations : Nat) (eye : CoxEye) (s : State), n < 2 → (s.cxRx n = cxRxAlign ∨ s.cxRx n = cxRxUp) →
    ∃ t, exec (.coxMeritWindowEnd n eye violations) s = .next t ∧ t.fld (fCx_MERIT_MERIT n) = coxMerit eye ∧
      t.fld (fCx_MERIT_WIN_SEQ n) = (s.fld (fCx_MERIT_WIN_SEQ n) + 1) % 256 ∧ t.fld (fCx_MERIT_FRESH n) = 1 ∧
      (t.link n).upRun = (if s.fld (fCx_CTL_UP_THR n) ≤ coxMerit eye ∧ violations = 0 then (s.link n).upRun + 1 else 0) ∧
      t.fld (fCx_CNT_CODE_ERR n) = min 65535 (s.fld (fCx_CNT_CODE_ERR n) + violations) ∧
      onlyRegs (fun r => r = rCx_MERIT n ∨ r = rCx_CNT n) s t ∧ onlyParts [.links, .regs] s t)
  ∧ (∀ (n : Nat) (signs : List Int) (s : State), n < 2 → s.cxRx n = cxRxAlign →
    ∃ t, exec (.coxDfeAdapt n signs) s = .next t ∧ (∀ i, i < 5 → t.sfld ⟨rCx_DFE n, 6 * i + 5, 6 * i⟩ =
        max (-32) (min 31 (s.sfld ⟨rCx_DFE n, 6 * i + 5, 6 * i⟩ + (signs.getD i 0).sign))) ∧
      onlyRegs (fun r => r = rCx_DFE n) s t ∧ onlyParts [.regs] s t)
  ∧ (∀ (n : Nat) (s : State), n < 2 → s.on (fCx_SLEEP_SLEEP_EN n) = true → s.cxTx n = cxTxActive →
    (s.link n).items = [] → (s.link n).frames = [] → s.cxMuted n = false →
    ∃ t b, exec (.coxSleep n) s = .next t ∧ t.cxTx n = cxTxSleep ∧
      t.host.out = .coxItem n 0xFB b :: s.host.out ∧ field b 0 1 = 0x08 ∧ field b 4 2 = 0xFFFF ∧
      onlyRegs (fun r => r = rCx_STAT n) s t ∧ onlyParts [.crew, .regs, .out] s t)
  ∧ (∀ (n : Nat) (s : State), n < 2 → s.cxTx n = cxTxSleep → ((s.link n).items ≠ [] ∨ (s.link n).frames ≠ []) →
    exec (.coxWake n) s = .next ((s.emit (.coxWakeRun n)).setCxTx n cxTxWake))
  ∧ (∀ (n : Nat) (b : List Byte) (s : State), n < 2 → s.cxTx n = cxTxWake → (s.link n).items = [.marker b] →
    ∃ t, exec (.coxWakeEnd n) s = .next t ∧ t.cxTx n = cxTxActive ∧ (t.link n).items = [] ∧
      t.host.out = .coxItem n 0x3C b :: s.host.out ∧ onlyRegs (fun r => r = rCx_STAT n) s t ∧ onlyParts [.links, .regs, .out] s t)
  ∧ (∀ (n : Nat) (s : State), n < 2 → s.cxTx n = cxTxWake →
    ∃ t, exec (.coxWakeEnd n) s = .next t ∧ t.cxTx n = cxTxActive ∧ (t.link n).items = [] ∧
      (∀ b, .marker b ∈ (s.link n).items → .coxItem n 0x3C b ∈ t.host.out) ∧
      onlyRegs (fun r => r = rCx_STAT n) s t ∧ onlyParts [.links, .regs, .out] s t)
  ∧ (∀ (n : Nat) (h : Hdr) (f : CrewFrame) (l : List CrewFrame) (s : State), n < 2 → s.cxTx n = cxTxActive → s.cxMuted n = false →
    (s.link n).frames = f :: l → f.tag = .relay h → h.qp < 256 → s.bme (s.ownerOf h.qp) = true →
    ∃ t, exec (.crewFrameSent n) s = .next t ∧ .coxItem n 0xFB (frameBytes f) ∈ t.host.out ∧ (t.link n).frames = l ∧
      completed (answer h eOk) s t ∧ onlyRegs complReg s t ∧ onlyParts [.links, .qps, .regs, .out] s t)

/-- A write of CXn_CTL: enabling a link starts its transmitter and lets its receiver search, and takes its check channel
(R155, R164), disabling it turns both off (R156); CNT_CLR sets its counts to 0 (R181); SRST returns the link to its reset
state (R156). -/
def Obligations.CoxLinksAreControlled : Prop :=
  (∀ (n : Nat) (v : W32) (s : State), s.awake = true → n < 2 → s.testing (39 + n) = false → v.getLsbD 31 = true → v.getLsbD 30 = false →
    s.on (fCx_CTL_EN n) = false → s.on (fCk_CTL_EN (14 + n)) = false → bits v 7 0 < bits v 15 8 →
    ∃ t, exec (.cxEnable n v) s = .next t ∧ t.fld (fCx_CTL_EN n) = 1 ∧ t.cxTx n = cxTxActive ∧ t.cxRx n = cxRxSearch ∧
      t.fld (fCk_CTL_SRC (14 + n)) = 2 ∧ onlyRegs (fun r => r.blk = .cx ∧ r.inst = n ∨ r.blk = .ck ∧ r.inst = 14 + n) s t ∧
      onlyParts [.regs] s t)
  ∧ (∀ (n : Nat) (v : W32) (s : State), s.awake = true → n < 2 → s.testing (39 + n) = false → v.getLsbD 29 = true → v.getLsbD 30 = false →
    s.on (fCx_CTL_EN n) = v.getLsbD 31 → bits v 7 0 < bits v 15 8 →
    ∃ t, exec (.cxCntClr n v) s = .next t ∧ t.reg (rCx_CNT n) = 0#32 ∧ t.cxTx n = s.cxTx n ∧ t.cxRx n = s.cxRx n ∧
      onlyRegs (fun r => r = rCx_CTL n ∨ r = rCx_CNT n) s t ∧ onlyParts [.regs] s t)
  ∧ (∀ (n : Nat) (v : W32) (s : State), s.awake = true → n < 2 → s.testing (39 + n) = false → v.getLsbD 30 = true →
    (v.getLsbD 31 = true → s.on (fCx_CTL_EN n) = true) → bits v 7 0 < bits v 15 8 →
    ∃ t, exec (.cxSrst n v) s = .next t ∧ (∀ r, r.blk = .cx → r.inst = n → t.reg r = regReset r) ∧ t.link n = {} ∧
      t.link (1 - n) = s.link (1 - n) ∧ n ∉ t.crew.unwrap ∧
      onlyRegs (fun r => r.blk = .cx ∧ r.inst = n ∨ r.blk = .ck ∧ r.inst = 14 + n ∨ complReg r ∨ r = rCox_CREW_STAT) s t ∧
      ((s.link n).frames = [] → t.crew = { s.crew with unwrap := s.crew.unwrap.filter (· ≠ n) } ∧
        onlyRegs (fun r => r.blk = .cx ∧ r.inst = n ∨ r.blk = .ck ∧ r.inst = 14 + n) s t ∧
        onlyParts [.links, .crew, .regs, .hiLatch, .capt, .loHeld] s t))
  ∧ (∀ (n : Nat) (v : W32) (s : State), s.awake = true → n < 2 → s.testing (39 + n) = false → v.getLsbD 31 = false → v.getLsbD 30 = false →
    s.on (fCx_CTL_EN n) = true → bits v 7 0 < bits v 15 8 → (s.link n).frames = [] →
    ∃ t, exec (.cxEnable n v) s = .next t ∧ t.fld (fCx_CTL_EN n) = 0 ∧ t.cxTx n = cxTxOff ∧ t.cxRx n = cxRxOff ∧
      t.fld (fCk_CTL_SRC (14 + n)) = 0 ∧ t.crew = { s.crew with unwrap := s.crew.unwrap.filter (· ≠ n) } ∧
      onlyRegs (fun r => r.blk = .cx ∧ r.inst = n ∨ r.blk = .ck ∧ r.inst = 14 + n) s t ∧ onlyParts [.links, .crew, .regs] s t)

/-- CREW_JOIN takes the role, and a lead starts enumeration with an ENUM frame downstream while a member's servo is suspended (R174,
R188); CREW_LEAVE of a member lets its shared generators go on as local ones and completes, that of the lead sends DISSOLVE on each
link in UP and completes at once where there is none (R176, R379); CREW_RELAY joins the frames of its link, of the other one where
that is faulted (R165, R177), and completes at once where no transmitter can take it (the model's choice, log entry 30); a crew that does
not close in 100 ms completes its join with E_TIMEOUT, and so does a member without alignment (R175). -/
def Obligations.CrewsFormAndDissolve : Prop :=
  (∀ (h : Hdr) (id role topo share leadUs rxQp : Nat) (relayEn : Bool) (s : State),
    s.takesPf (.crewJoin h id role topo share relayEn leadUs rxQp) = true → coxTargets.any s.testing = false →
    firstFail (crewJoinChecks role topo share relayEn leadUs rxQp s) = none →
    ∃ t, exec (.crewJoin h id role topo share relayEn leadUs rxQp) s = .next t ∧ t.role = role ∧ t.fld fCox_CREW_STAT_TOPO = topo ∧
      t.fld fCox_CREW_STAT_SHARE = share % 16 ∧ t.crew.join = some h ∧ t.crew.formed = false ∧ t.crew.relayEn = relayEn ∧
      t.crew.rxQp = rxQp ∧ t.fld fCox_CREW_STAT_MEMBER_ID = 0 ∧ t.fld fCox_CREW_SIZE_CREW_ID = id % 65536 ∧
      t.fld fCox_CREW_LEAD_LEAD_US = leadUs ∧ (role = roleMember → t.servo = svCrew ∧ t.links = s.links) ∧
      (role = roleLead → t.time = s.time ∧ (s.faulted 1 = false → t.link 0 = s.link 0)) ∧
      (role = roleLead → s.faulted 1 = false → s.cxTx 1 ≠ cxTxOff → s.cxTx 1 ≠ cxTxFault →
        ∃ f ∈ (t.link 1).frames, f.typ = tEnum ∧ f.src = 0) ∧
      onlyRegs (fun r => r ∈ [rCox_CREW_STAT, rCox_CREW_CNT, rCox_CREW_RLY, rCox_CREW_SIZE, rCox_CREW_LEAD, rCox_TB_STAT]) s t ∧
      onlyParts [.links, .crew, .time, .qps, .regs] s t)
  ∧ (∀ (h : Hdr) (s : State), s.takesPf (.crewLeave h) = true → coxTargets.any s.testing = false → s.role = roleMember →
    s.crew.leave = none →
    ∃ t, exec (.crewLeave h) s = .next t ∧ t.role = rolePass ∧ t.fld fCox_CREW_STAT_SHARE = 0 ∧ t.crew.join = none ∧
      (s.crew.join = none → completed (answer h eOk) s t) ∧
      (∀ j, s.crew.join = some j → j.qp < 256 → s.bme (s.ownerOf j.qp) = true → completed (answer j eAbort) s t) ∧
      onlyRegs (fun r => complReg r ∨ r = rCox_CREW_STAT ∨ r = rCox_TB_STAT ∨ r = rCox_TB_FREQ ∨ r.blk = .gen) s t ∧
      onlyParts [.crew, .gens, .time, .qps, .held, .regs, .out] s t)
  ∧ (∀ (h : Hdr) (s : State), s.takesPf (.crewLeave h) = true → coxTargets.any s.testing = false → s.role = roleLead →
    s.crew.leave = none →
    ∃ t, exec (.crewLeave h) s = .next t ∧ t.crew.join = none ∧
      ((∃ n, n < 2 ∧ s.cxRx n = cxRxUp ∧ s.faulted n = false) → t.role = roleLead ∧ t.crew.leave = some h ∧
        ∀ n, n < 2 → s.cxRx n = cxRxUp → s.faulted n = false → s.cxTx n ≠ cxTxOff → s.cxTx n ≠ cxTxFault →
          ∃ f ∈ (t.link n).frames, f.typ = tDissolve ∧ f.tag = .dissolve) ∧
      ((∀ n, n < 2 → s.cxRx n = cxRxUp → s.faulted n = true) → t.role = roleNone ∧ t.crew.leave = none ∧ t.links = s.links ∧
        (s.crew.join = none → completed (answer h eOk) s t)) ∧
      onlyRegs (fun r => complReg r ∨ r = rCox_CREW_STAT) s t ∧ onlyParts [.links, .crew, .qps, .held, .regs, .out] s t)
  ∧ (∀ (h : Hdr) (dst dir len n m : Nat) (p : List Byte) (f : CrewFrame) (s : State), s.takesPf (.crewRelay h dst dir len (some p)) = true →
    coxTargets.any s.testing = false → len ≤ 256 → dst ≠ s.fld fCox_CREW_STAT_MEMBER_ID →
    (dst < s.fld fCox_CREW_SIZE_SIZE ∨ dst = 0xFFFF) → s.inCrew = true → n = (if dir = 0 then 1 else 0) →
    (s.cxRx n = cxRxUp ∨ s.on (fCx_STAT_WRAPPED n) = true) → m = (if s.faulted n then 1 - n else n) →
    f = ⟨tRelay, if s.faulted n then Nat.lor dir 2 else dir, s.fld fCox_CREW_STAT_MEMBER_ID, dst, s.crew.seq, p.take len, .relay h⟩ →
    (s.cxTx m ≠ cxTxOff → s.cxTx m ≠ cxTxFault → exec (.crewRelay h dst dir len (some p)) s =
      .next (((s.begun h.qp).modCrew fun c => { c with seq := (c.seq + 1) % 65536 }).modLink m fun l =>
        { l with frames := enqueueFrame (s.cxTx m == cxTxActive) f l.frames })) ∧
    (s.cxTx m = cxTxOff ∨ s.cxTx m = cxTxFault → ∃ t, exec (.crewRelay h dst dir len (some p)) s = .next t ∧
      completed (answer h eAbort) s t ∧ t.links = s.links ∧ onlyRegs complReg s t ∧ onlyParts [.crew, .qps, .regs, .out] s t))
  ∧ (∀ (h : Hdr) (s : State), s.role = roleLead → s.crew.join = some h → s.crew.formed = false →
    ∃ t, exec .enumTimeout s = .next t ∧ t.role = roleNone ∧ t.crew.join = none ∧
      (h.qp < 256 → s.bme (s.ownerOf h.qp) = true → completed (answer h eTimeout) s t) ∧
      onlyRegs (fun r => complReg r ∨ r = rCox_CREW_STAT) s t ∧ onlyParts [.crew, .qps, .held, .regs, .out] s t)
  ∧ (∀ (h : Hdr) (s : State), s.role = roleMember → s.crew.join = some h →
    ∃ t, exec .memberAlignTimeout s = .next t ∧ t.role = roleMember ∧ t.fld fCox_CREW_STAT_HOLDOVER = 1 ∧ t.crew.join = none ∧
      (h.qp < 256 → s.bme (s.ownerOf h.qp) = true → completed (answer h eTimeout) s t) ∧
      onlyRegs (fun r => complReg r ∨ r = rCox_CREW_STAT) s t ∧ onlyParts [.crew, .qps, .held, .regs, .out] s t)
  ∧ (∀ s : State, (s.role ≠ roleLead ∨ s.crew.join = none ∨ s.crew.formed = true → exec .enumTimeout s = .next s) ∧
    (s.role ≠ roleMember ∨ s.crew.join = none → exec .memberAlignTimeout s = .next s))

/-- The lead sends each shared stroke's marker before its instant (R161, R171), a member that takes one in time schedules
the stroke at the marker's instant and counts one that comes late, a pass-through hands it on with HOPS one higher (R161, R166, R171,
R176); beacons leave on the links that are up (R162, R169) and a beacon that comes gives the link's delay, by which a member on its path steers
its timebase (R169, R170); an item that fails its check is counted and dropped (R164), a SLEEP or LINK_FAULT frame acts at its link (R157,
R167), a pass-through passes frames on (R166), and the lead asks for an unwrap in both directions (R180). -/
def Obligations.CrewItemsTravel : Prop :=
  (∀ (k : Nat) (b : List Byte) (s : State), k < 4 → s.role = roleLead → s.shared k = true → (s.gen k).defined = true →
    (s.gen k).sent = false → b = markerBytes k 0 (s.gen k).nextCount (s.gen k).nextAt (s.gen k).jumpMk (s.gen k).defChg →
    ∃ t, exec (.strokeMarkerTx k) s = .next t ∧
      (∀ n, n = 1 ∨ n = 0 ∧ s.on fCox_CREW_STAT_TOPO = true → s.cxMuted n = false →
        (s.cxTx n = cxTxActive → .coxItem n 0x3C b ∈ t.host.out) ∧
        (s.cxTx n = cxTxSleep ∨ s.cxTx n = cxTxWake → (t.link n).items = (s.link n).items ++ [.marker b])) ∧
      t.gen k = { s.gen k with sent := true, defChg := false } ∧ (∀ i, i ≠ k → t.gen i = s.gen i) ∧
      (s.gen k).nextAt - ((s.fld fCox_CREW_LEAD_LEAD_US * 1000 * nsU : Nat) : Int) ≤ t.tb ∧
      onlyParts [.tb, .up, .time, .links, .crew, .gens, .out] s t)
  ∧ (∀ (k : Nat) (s : State), s.role ≠ roleLead ∨ s.shared k = false ∨ (s.gen k).defined = false ∨ (s.gen k).sent = true →
    exec (.strokeMarkerTx k) s = .next s)
  ∧ (∀ (n k count inst : Nat) (d : GenDef) (b : CoxBytes) (s : State), s.cxHears n = true → s.role = roleMember → b.length = 20 →
    field b 19 1 = crc8 (b.take 19) → field b 0 1 % 4 = k → field b 3 4 = count →
    inst = field b 7 2 + nsU * field b 9 4 + secU * field b 13 6 → (s.gen k).d = some d →
    (s.gen k).marked = false → (s.gen k).late = false → (s.gen k).last.map (·.1) ≠ some count →
    (s.tb + 100 * nsU ≤ inst → ∃ t, exec (.strokeMarkerRx n b) s = .next t ∧ (t.gen k).at_ = inst ∧
      (t.gen k).nextCount = count % 4294967296 ∧ (t.gen k).marked = true ∧ t.shared k = true ∧ t.fld fCox_CREW_STAT_HOLDOVER = 0 ∧
      (∀ i, i ≠ k → t.gen i = s.gen i) ∧ onlyRegs (fun r => r = rCox_CREW_STAT) s t ∧ onlyParts [.gens, .links, .regs, .out] s t) ∧
    (inst < s.tb + 100 * nsU → ∃ t, exec (.strokeMarkerRx n b) s = .next t ∧ t.gen k = { s.gen k with late := true } ∧
      t.fld fCox_CREW_CNT_MARK_LATE = min 65535 (s.fld fCox_CREW_CNT_MARK_LATE + 1) ∧ t.fld fCox_CREW_EVENT_MARK_LATE = 1 ∧
      (∀ i, i ≠ k → t.gen i = s.gen i) ∧
      onlyRegs (fun r => noteReg r ∨ r = rCox_CREW_STAT ∨ r = rCox_CREW_CNT ∨ r = rCox_CREW_EVENT) s t ∧
      onlyParts [.gens, .links, .rings, .regs, .out] s t))
  ∧ (∀ (n : Nat) (b : CoxBytes) (s : State), s.cxHears n = true →
    (b.length ≠ 20 ∨ field b 19 1 ≠ crc8 (b.take 19) → exec (.strokeMarkerRx n b) s = .next (s.addSat (fCx_CNT_CODE_ERR n))) ∧
    (b.length = 20 → field b 19 1 = crc8 (b.take 19) → s.role = roleNone ∨ s.role = roleLead →
      exec (.strokeMarkerRx n b) s = .next s) ∧
    (b.length = 20 → field b 19 1 = crc8 (b.take 19) → s.role = rolePass → ∃ x, exec (.strokeMarkerRx n b) s =
      .next (sendItem (1 - n) (.marker x) s) ∧ x.length = 20 ∧ field x 1 2 = (field b 1 2 + 1) % 65536 ∧ x.take 1 = b.take 1 ∧
      (x.drop 3).take 16 = (b.drop 3).take 16 ∧ field x 19 1 = crc8 (x.take 19)))
  ∧ (∀ s : State, ∃ t, exec .timeBeaconTx s = .next t ∧ (∀ n, n < 2 →
      (s.cxRx n ≠ cxRxUp → t.link n = s.link n) ∧
      (s.cxRx n = cxRxUp → s.cxMuted n = false → s.cxTx n = cxTxActive → ∃ b, .coxItem n 0xFE b ∈ t.host.out ∧
        field b 0 1 = (if n = 1 then 0 else 1) ∧ (b.drop 2).take 12 = tbBytes (s.stamp s.tb) ∧
        Tab.find (t.link n).departs (((s.link n).seq + 1) % 256) = some (s.stamp s.tb)) ∧
      (s.cxRx n = cxRxUp → s.cxMuted n = false → s.cxTx n = cxTxSleep ∨ s.cxTx n = cxTxWake →
        t.link n = { s.link n with items := (s.link n).items ++ [.beacon] })) ∧ onlyParts [.links, .out] s t)
  ∧ (∀ (n t1 : Nat) (b : CoxBytes) (delay : Int) (s : State), s.cxHears n = true → b.length = 28 → field b 27 1 = crc8 (b.take 27) →
    Tab.find (s.link n).departs (field b 14 1) = some t1 → delay = ((s.stamp s.tb : Int) - t1) -
        (((field b 2 2 + nsU * field b 4 4 + secU * field b 8 6 : Nat) : Int) - ((field b 15 2 + nsU * field b 17 4 + secU * field b 21 6 : Nat) : Int)) →
    (s.role ≠ roleMember ∨ s.fld fCox_CREW_STAT_PATH ≠ n → ∃ t, exec (.timeBeaconRx n b) s = .next t ∧
      (t.link n).heard = some (field b 1 1, s.stamp s.tb) ∧ (t.link n).delays.head? = some delay ∧
      t.fld (fCx_HOP_FRESH n) = 1 ∧ onlyRegs (fun r => r = rCx_HOP n) s t ∧ onlyParts [.links, .regs] s t) ∧
    (s.role = roleMember → s.fld fCox_CREW_STAT_PATH = n → ∃ t, exec (.timeBeaconRx n b) s = .next t ∧
      (t.link n).heard = some (field b 1 1, s.stamp s.tb) ∧ (t.link n).delays.head? = some delay ∧
      t.fld (fCx_HOP_FRESH n) = 1 ∧ t.fld fCox_CREW_OFS_FRESH = 1 ∧ ((t.tb : Int) - s.tb).natAbs ≤ nsU ∧
      (t.sfld fCox_TB_FREQ_FREQ).natAbs ≤ 10 * 65536 ∧
      onlyRegs (fun r => complReg r ∨ noteReg r ∨ r = rCx_HOP n ∨ r = rCox_CREW_OFS ∨ r = rCox_CREW_EVENT ∨ r = rCox_TB_FREQ) s t ∧
      onlyParts [.tb, .free, .links, .crew, .qps, .held, .rings, .regs, .out] s t))
  ∧ (∀ (n : Nat) (b : CoxBytes) (s : State), s.cxHears n = true →
    (b.length ≠ 28 ∨ field b 27 1 ≠ crc8 (b.take 27) → exec (.timeBeaconRx n b) s = .next (s.addSat (fCx_CNT_CODE_ERR n))) ∧
    (b.length = 28 → field b 27 1 = crc8 (b.take 27) → Tab.find (s.link n).departs (field b 14 1) = none →
      exec (.timeBeaconRx n b) s = .next (s.modLink n fun l => { l with heard := some (field b 1 1, s.stamp s.tb) })))
  ∧ (∀ (n : Nat) (b : CoxBytes) (err : Bool) (s : State), s.cxHears n = true →
    (err = true ∨ b.length < 12 ∨ b.length ≠ 12 + field b 8 2 ∨ 256 < field b 8 2 ∨ beField b (b.length - 2) 2 ≠ crc16 (b.take (b.length - 2))) →
    exec (.crewFrameRx n ⟨b, err⟩) s = .next (s.addSat (fCx_CNT_CRC_ERR n)))
  ∧ (∀ (n : Nat) (b : CoxBytes) (s : State), s.cxHears n = true → 12 ≤ b.length → b.length = 12 + field b 8 2 → field b 8 2 ≤ 256 →
    beField b (b.length - 2) 2 = crc16 (b.take (b.length - 2)) →
    (field b 0 1 = tSleep → exec (.crewFrameRx n ⟨b, false⟩) s = .next (s.setCxRx n cxRxSleep)) ∧
    (field b 0 1 = tFault → ∃ t, exec (.crewFrameRx n ⟨b, false⟩) s = .next t ∧ t.fld (fCx_EVENT_FAULT_RX n) = 1 ∧
      (s.inCrew = true → t.faulted n = true) ∧
      (s.inCrew = false → onlyRegs (fun r => noteReg r ∨ r = rCx_EVENT n) s t ∧ onlyParts [.rings, .regs, .out] s t) ∧
      onlyRegs (fun r => noteReg r ∨ complReg r ∨ r.blk = .cx ∨ r = rCox_CREW_STAT ∨ r = rCox_CREW_EVENT) s t ∧
      onlyParts [.links, .crew, .qps, .held, .rings, .regs, .out] s t) ∧
    (field b 0 1 ≠ tSleep → field b 0 1 ≠ tFault → s.role = roleNone → exec (.crewFrameRx n ⟨b, false⟩) s = .next s) ∧
    (field b 0 1 ≠ tSleep → field b 0 1 ≠ tFault → s.role = rolePass →
      exec (.crewFrameRx n ⟨b, false⟩) s = .next (sendFrame (1 - n) (relayed b) s)) ∧
    (field b 0 1 ≠ tSleep → field b 0 1 ≠ tFault → field b 0 1 ≠ tEnum → s.inCrew = true →
      field b 2 2 = s.fld fCox_CREW_STAT_MEMBER_ID → exec (.crewFrameRx n ⟨b, false⟩) s = .next s))
  ∧ (∀ (n : Nat) (m b : CoxBytes) (rx : CrewRx) (s : State), s.cxHears n = false → exec (.strokeMarkerRx n m) s = .next s ∧
    exec (.timeBeaconRx n b) s = .next s ∧ exec (.crewFrameRx n rx) s = .next s)
  ∧ (∀ (b o : Nat × Nat) (s : State), s.role = roleLead → o = otherEnd (s.fld fCox_CREW_SIZE_SIZE) b →
    b ∈ s.crew.breaks ∨ o ∈ s.crew.breaks → s.stayedUp b = true → s.stayedUp o = true →
    ∃ t, exec (.unwrap b) s = .next t ∧ b ∈ t.crew.mend ∧ o ∈ t.crew.mend ∧
      (∀ e, e = b ∨ e = o → e.1 = s.fld fCox_CREW_STAT_MEMBER_ID → e.2 ∈ t.crew.unwrap) ∧
      (∀ n, n < 2 → s.faulted n = false → s.cxTx n ≠ cxTxOff → s.cxTx n ≠ cxTxFault → ∃ f ∈ (t.link n).frames, f.typ = tUnwrap) ∧
      onlyParts [.links, .crew] s t)
  ∧ (∀ (b : Nat × Nat) (s : State), s.role ≠ roleLead ∨ s.stayedUp b = false → exec (.unwrap b) s = .next s)

/-- LANE_MODE ramps every lane it names down and waits (R60); after retuning a one-lane port stands in its new mode in
STANDBY, and a command that asked for STANDBY completes (R60); LANE_TRAIN of the receive side restarts ACQUIRE with RETRY
0 (R88, R380), of the transmit side starts a train of catch sequences (R138, R380); LANE_LOOP of the local kinds first
ramps the port down (R507); LANE_PRBS sets the generator and checker (R509-R512). -/
def Obligations.LanesAreCommanded : Prop :=
  (∀ (h : Hdr) (lane mode variant width end_ : Nat) (s : State), s.takesPf (.laneMode h lane mode variant width end_) = true →
    firstFail (laneModeChecks h lane mode variant width end_ s) = none →
    ∃ t, exec (.laneMode h lane mode variant width end_) s = .next t ∧
      ((t.lane lane).modeCmd.map (·.hdr)) = some h ∧ (∀ n, n ∈ namedLanes lane width → t.fld (fLn_MODE_STAT_BUSY n) = 1 ∧
        t.fld (fLn_TX_CATCH_REP_LEFT n) = 0 ∧ t.fld (fLn_PRBS_STAT_LOOP n) = 0 ∧ t.fld (fLn_PRBS_STAT_GEN n) = 0 ∧
        (s.tx n = txActive → t.tx n = txRampDown ∧ (t.lane n).amp = 1024 ∧ (t.lane n).rampUs = s.fld (fLn_TX_RAMP_RAMP_US n))) ∧
      (∀ n, n ∉ namedLanes lane width → t.lane n = s.lane n) ∧
      onlyRegs (fun r => (∃ n, n ∈ namedLanes lane width ∧ rxReg n r) ∨ complReg r) s t ∧
      onlyParts [.free, .lanes, .qps, .held, .rings, .regs, .out] s t)
  ∧ (∀ (lane : Nat) (c : ModeCmd) (s : State), (s.lane lane).modeCmd = some c → c.width = 0 → c.mode ≠ 0 → c.mode < 4 → c.end_ = 0 →
    c.tuned = false → s.tx lane ≠ txRampUp → s.tx lane ≠ txRampDown → (s.lane lane).express = [] → (s.lane lane).media = [] →
    (s.lane lane).host = [] → c.hdr.qp < 256 → s.bme (s.ownerOf c.hdr.qp) = true →
    ∃ t, exec (.laneReconfigDone lane) s = .next t ∧ t.mode lane = c.mode ∧ t.fld (fLn_MODE_STAT_WIDTH lane) = 0 ∧
      t.tx lane = txStandby ∧ t.fld (fLn_MODE_STAT_BUSY lane) = 0 ∧ (t.lane lane).modeCmd = none ∧ completed (answer c.hdr eOk) s t ∧
      (∀ n, n ≠ lane → t.lane n = s.lane n) ∧ onlyRegs (fun r => rxReg lane r ∨ complReg r) s t ∧
      onlyParts [.lanes, .qps, .rings, .regs, .out] s t)
  ∧ (∀ (h : Hdr) (lane : Nat) (s : State), s.takesPf (.laneTrain h lane true false) = true → s.testing lane = false → s.on (fLn_MODE_STAT_BUSY lane) = false →
    s.tx lane ≠ txOff →
    ∃ t, exec (.laneTrain h lane true false) s = .next t ∧ t.rx lane = rxAcquire ∧ t.fld (fLn_RX_STAT_RETRY lane) = 0 ∧
      completed (answer h eOk) s t ∧ (∀ n, n ≠ lane → t.lane n = s.lane n) ∧
      onlyRegs (fun r => rxReg lane r ∨ complReg r) s t ∧ onlyParts [.lanes, .act, .qps, .rings, .regs, .out] s t)
  ∧ (∀ (h : Hdr) (lane : Nat) (s : State), s.takesPf (.laneTrain h lane false true) = true → s.testing lane = false → s.on (fLn_MODE_STAT_BUSY lane) = false →
    s.mode lane = m400 → s.tx lane = txActive → (s.lane lane).trainCmd = none →
    ∃ t, exec (.laneTrain h lane false true) s = .next t ∧ t.lane lane = { s.lane lane with trainCmd := some h, trainAt := none } ∧
      t.fld (fLn_TX_CATCH_LAST_ID lane) = (s.fld (fLn_TX_CATCH_LAST_ID lane) + 1) % 256 ∧
      t.fld (fLn_TX_CATCH_REP_LEFT lane) = s.fld (fLn_TX_CATCH_REP lane) ∧ (∀ n, n ≠ lane → t.lane n = s.lane n) ∧
      onlyRegs (fun r => r = rLn_TX_CATCH lane) s t ∧ onlyParts [.lanes, .qps, .regs] s t)
  ∧ (∀ (h : Hdr) (lane kind : Nat) (s : State), s.takesPf (.laneLoop h lane kind) = true → lane < 8 → s.testing lane = false → s.on (fLn_MODE_STAT_BUSY lane) = false →
    (kind = 1 ∨ kind = 2) → s.portLanes lane = [lane] → s.tx lane = txActive → (s.lane lane).loopCmd = none → (s.lane lane).loopPrior = none →
    ∃ t, exec (.laneLoop h lane kind) s = .next t ∧ t.tx lane = txRampDown ∧ (t.lane lane).loopCmd = some ⟨h, kind⟩ ∧
      (t.lane lane).loopPrior = some txActive ∧ (t.lane lane).amp = 1024 ∧ t.fld (fLn_TX_CATCH_REP_LEFT lane) = 0 ∧
      (∀ n, n ≠ lane → t.lane n = s.lane n) ∧ onlyRegs (fun r => lnReg lane r ∨ complReg r) s t ∧
      onlyParts [.lanes, .qps, .held, .regs, .out] s t)
  ∧ (∀ (h : Hdr) (lane pattern : Nat) (s : State), s.takesPf (.lanePrbs h lane false true pattern 0 0) = true → lane < 8 → s.testing lane = false →
    s.on (fLn_MODE_STAT_BUSY lane) = false → s.tx lane ≠ txOff → pattern < 8 → s.on (fLn_PRBS_STAT_CHK lane) = true →
    ∃ t, exec (.lanePrbs h lane false true pattern 0 0) s = .next t ∧ t.fld (fLn_PRBS_STAT_GEN lane) = 0 ∧ t.fld (fLn_PRBS_STAT_CHK lane) = 1 ∧
      t.fld (fLn_PRBS_STAT_PATTERN lane) = pattern ∧ t.fld (fLn_PRBS_STAT_SYNC lane) = 0 ∧ completed (answer h eOk) s t ∧
      (∀ n, n ≠ lane → t.lane n = s.lane n) ∧ onlyRegs (fun r => lnReg lane r ∨ complReg r) s t ∧
      onlyParts [.lanes, .qps, .regs, .out] s t)

/-- A ramp moves the amplitude one step at a time (R56); a transmitter with nothing to send sends the idle marker from its
encoder's state and goes idle with AMP 0 (R55, R61, R141), a frame wakes it with a catch burst at full swing (R56, R62), after
which it is active with its encoder at 0 (R62, R130); a train sends its sequences one by one, the first completing its LANE_TRAIN
(R137, R138, R380); ARM and the handover take the shadow group into use (R6, R52, R53). -/
def Obligations.TransmittersRampAndIdle : Prop :=
  (∀ (lane : Nat) (s : State), s.portLanes lane = [lane] → s.tx lane = txRampUp → (s.lane lane).amp < 1023 →
    ∃ t, exec (.rampStep lane) s = .next t ∧ t.lane lane = { s.lane lane with amp := (s.lane lane).amp + 1 } ∧
      t.fld (fLn_TX_STAT_AMP lane) = ((s.lane lane).amp + 1) * 1023 / 1024 ∧ t.tx lane = txRampUp ∧
      (∀ n, n ≠ lane → t.lane n = s.lane n) ∧ onlyRegs (fun r => r = rLn_TX_STAT lane) s t ∧ onlyParts [.lanes, .regs] s t)
  ∧ (∀ (lane sf : Nat) (s : State), s.mode lane = m400 → s.tx lane = txActive → s.idleAllowed lane = true → s.txEmpty lane = true →
    s.fld (fLn_TX_CATCH_REP_LEFT lane) = 0 → s.on (fLn_PRBS_STAT_GEN lane) = false → s.trainSends lane = false →
    ∃ t, exec (.txIdleEntry ⟨lane, sf⟩) s = .next t ∧ t.tx lane = txIdle ∧ (t.lane lane).amp = 0 ∧ t.fld (fLn_TX_STAT_AMP lane) = 0 ∧
      .idleMarker lane (t.lane lane).txEnc ∈ t.host.out ∧ (t.lane lane).txPairs = (s.lane lane).txPairs + 3 * sf ∧
      (sf = 0 → (t.lane lane).txEnc = (s.lane lane).txEnc) ∧ (sf ≠ 0 → .superframes lane (s.lane lane).txPairs sf ∈ t.host.out) ∧
      (∀ n, n ≠ lane → t.lane n = s.lane n) ∧ onlyRegs (fun r => r = rLn_TX_STAT lane) s t ∧ onlyParts [.lanes, .regs, .out] s t)
  ∧ (∀ (lane : Nat) (s : State), s.tx lane = txIdle → s.txEmpty lane = false →
    exec (.txWake lane) s = .next (((s.setTx lane txWake).setAmp lane 1024).emit (.catchBurst lane)))
  ∧ (∀ (lane : Nat) (s : State), s.tx lane = txWake →
    exec (.txBurstEnd lane) s = .next ((s.setTx lane txActive).modLane lane ({ · with txEnc := {} })))
  ∧ (∀ (lane sf : Nat) (s : State), s.mode lane = m400 → s.tx lane = txActive → s.trainDue lane = true →
    ∃ t, exec (.catchSequenceStart ⟨lane, sf⟩) s = .next t ∧ t.fld (fLn_TX_CATCH_REP_LEFT lane) = s.fld (fLn_TX_CATCH_REP_LEFT lane) - 1 ∧
      .catchTrain lane (s.fld (fLn_TX_CATCH_LAST_ID lane)) (s.fld (fLn_TX_CATCH_REP_LEFT lane) - 1) ∈ t.host.out ∧
      t.lane lane = { s.lane lane with
        trainAt := some s.up, trainCmd := none, txEnc := {}, txPairs := (s.lane lane).txPairs + 3 * sf } ∧
      (∀ h, (s.lane lane).trainCmd = some h → h.qp < 256 → s.bme (s.ownerOf h.qp) = true → completed (answer h eOk) s t) ∧
      (∀ n, n ≠ lane → t.lane n = s.lane n) ∧ onlyRegs (fun r => r = rLn_TX_CATCH lane ∨ complReg r) s t ∧
      onlyParts [.lanes, .qps, .held, .regs, .out] s t)
  ∧ (∀ (lane sf : Nat) (a : Nat) (s : State), (s.lane lane).trainAt = some a → s.up < a + 10000 * nsU →
    exec (.catchSequenceStart ⟨lane, sf⟩) s = .next s)
  ∧ (∀ (lane : Nat) (v : W32) (s : State), s.awake = true → lane < 8 → s.testing lane = false → s.tx lane ≠ txOff →
    s.on (fLn_TX_FIR_CTL_ARM lane) = false → v.getLsbD 31 = true → s.firOk lane (bits v 2 0) = true →
    ∃ t, exec (.txArm lane v) s = .next t ∧ t.fld (fLn_TX_FIR_CTL_ARM lane) = 1 ∧ t.fld (fLn_TX_FIR_CTL_MAIN_POS lane) = bits v 2 0 ∧
      onlyRegs (fun r => r = rLn_TX_FIR_CTL lane) s t ∧ onlyParts [.regs] s t)
  ∧ (∀ (lane : Nat) (s : State), s.tx lane = txStandby → s.on (fLn_TX_FIR_CTL_ARM lane) = true →
    ∃ t, exec (.txHandover lane) s = .next t ∧ t.fld (fLn_TX_FIR_CTL_ARM lane) = 0 ∧
      (∀ j, j < 4 → t.actFld (fLn_TX_FIR_C_EVEN lane j) = s.fld (fLn_TX_FIR_C_EVEN lane j) ∧
        t.actFld (fLn_TX_FIR_C_ODD lane j) = s.fld (fLn_TX_FIR_C_ODD lane j)) ∧
      t.actFld (fLn_TX_LEVELS_INNER_P lane) = s.fld (fLn_TX_LEVELS_INNER_P lane) ∧
      onlyRegs (fun r => r = rLn_TX_FIR_CTL lane) s t ∧ onlyParts [.act, .regs] s t)

/-- The receiver's state table (R88): a signal starts ACQUIRE, its loss returns to SEARCH with LOS, a finished ACQUIRE sets
peaking and gain and trains (R69-R71), one out of time retries and counts, a solved training converges with the solved taps, scaled by the
inverse of a step of the gain (R70, R72, R82), a train without its catch sequence falls back or retries (R98), a header that fails its CHECK
is a false start, one of a TRAIN_ID not trained from retrains a locked receiver, and one that is not trained on is passed over (R137, R139);
lost timing acquires again with LOCK_LOST. -/
def Obligations.ReceiversFollowTheirTable : Prop :=
  (∀ (lane : Nat) (s : State), (s.rx lane = rxSearch → ∃ t, exec (.signalDetect lane) s = .next t ∧ t.rx lane = rxAcquire ∧
      t.fld (fLn_RX_STAT_SIGDET lane) = 1 ∧ t.fld (fLn_RX_STAT_RETRY lane) = s.fld (fLn_RX_STAT_RETRY lane) ∧
      (∀ n, n ≠ lane → t.lane n = s.lane n) ∧ onlyRegs (lnReg lane) s t ∧ onlyParts [.lanes, .act, .regs] s t) ∧
    (s.rx lane = rxIdle → exec (.signalDetect lane) s =
      .next (s.modLane lane fun l => { l with sigSince := some (l.sigSince.getD s.up) })) ∧
    (s.rx lane = rxOff → exec (.signalDetect lane) s = .next s) ∧
    (s.rx lane ≠ rxSearch → s.rx lane ≠ rxIdle → s.rx lane ≠ rxOff →
      exec (.signalDetect lane) s = .next (s.setFld (fLn_RX_STAT_SIGDET lane) 1)))
  ∧ (∀ (lane : Nat) (s : State), (s.rx lane = rxAcquire ∨ s.rx lane = rxTrain ∨ s.rx lane = rxConverge ∨ s.rx lane = rxLocked ∨ s.rx lane = rxWake →
    ∃ t, exec (.lossOfSignal lane) s = .next t ∧ t.rx lane = rxSearch ∧ t.fld (fLn_RX_STAT_SIGDET lane) = 0 ∧
      t.fld (fLn_RX_EVENT_LOS lane) = 1 ∧ t.fld (fLn_RX_STAT_RETRY lane) = s.fld (fLn_RX_STAT_RETRY lane) ∧
      t.fld (fLn_RX_STAT_LOCK lane) = 0 ∧ t.fld (fLn_RX_STAT_MEM lane) = 0 ∧
      (∀ n, n ≠ lane → t.lane n = s.lane n) ∧ onlyRegs (rxReg lane) s t ∧ onlyParts [.lanes, .rings, .regs, .out] s t) ∧
    (s.rx lane = rxIdle → exec (.lossOfSignal lane) s = .next (s.modLane lane ({ · with sigSince := none }))) ∧
    (s.rx lane = rxFailed → exec (.lossOfSignal lane) s = .next (s.setFld (fLn_RX_STAT_SIGDET lane) 0)) ∧
    (s.rx lane = rxOff ∨ s.rx lane = rxSearch → exec (.lossOfSignal lane) s = .next s))
  ∧ (∀ (lane : Nat) (powers : List (Nat × Nat)) (rms : Int) (lp : Loops) (s : State),
    (s.rx lane ≠ rxAcquire ∨ s.acquired lane powers rms lp.freq = false → exec (.acquireDone lane powers rms lp) s = .next s) ∧
    (s.rx lane = rxAcquire → s.acquired lane powers rms lp.freq = true →
      ∃ t, exec (.acquireDone lane powers rms lp) s = .next t ∧ t.rx lane = rxTrain ∧
      (∀ c, c < 16 → s.on (fLn_RX_AFE_CTLE_AUTO lane) = true → chooseCtle (powers.take 16) = some c → t.fld (fLn_RX_AFE_CTLE lane) = c) ∧
      (s.on (fLn_RX_AFE_VGA_AUTO lane) = true → t.fld (fLn_RX_AFE_VGA lane) = s.vgaFor lane rms) ∧
      t.sfld (fLn_RX_TIMING_FREQ_OFS lane) = lp.freq ∧ (t.lane lane).fromCatch = s.trainsFromCatch lane ∧ (t.lane lane).dc = lp.dc ∧
      (t.lane lane).phase = lp.phase ∧
      (∀ n, n ≠ lane → t.lane n = s.lane n) ∧ onlyRegs (lnReg lane) s t ∧ onlyParts [.lanes, .act, .regs] s t))
  ∧ (∀ (lane : Nat) (s : State), (s.rx lane = rxAcquire → ∃ t, exec (.acquireTimeout lane) s = .next t ∧
    t.rx lane = (if s.fld (fLn_ADAPT_RETRY_MAX lane) ≤ min 15 (s.fld (fLn_RX_STAT_RETRY lane) + 1) then rxFailed else rxAcquire) ∧
    t.fld (fLn_RX_STAT_RETRY lane) = min 15 (s.fld (fLn_RX_STAT_RETRY lane) + 1) ∧
    (∀ n, n ≠ lane → t.lane n = s.lane n) ∧ onlyRegs (fun r => lnReg lane r ∨ noteReg r) s t ∧
    onlyParts [.lanes, .act, .rings, .regs, .out] s t) ∧ (s.rx lane ≠ rxAcquire → exec (.acquireTimeout lane) s = .next s))
  ∧ (∀ (lane : Nat) (tr : TrainRx) (s : State),
    (s.rx lane ≠ rxTrain ∨ (s.lane lane).solvable tr.pos tr.rx = false → exec (.trainSolveDone lane tr) s = .next s) ∧
    (s.rx lane = rxTrain → (s.lane lane).solvable tr.pos tr.rx = true → ∃ t, exec (.trainSolveDone lane tr) s = .next t ∧
      t.rx lane = rxConverge ∧ t.fld (fLn_RX_STAT_TRAINED_CATCH lane) = (if (s.lane lane).fromCatch then 1 else 0) ∧
      (s.on (fLn_RX_AFE_VGA_AUTO lane) = false → (t.lane lane).taps = tapsOf (s.solved lane tr.pos tr.rx)) ∧
      (s.on (fLn_RX_AFE_VGA_AUTO lane) = true → t.fld (fLn_RX_AFE_VGA lane) = s.vgaFor lane tr.rms ∧
        (t.lane lane).taps = scaleTaps (s.fld (fLn_RX_AFE_VGA lane)) (s.vgaFor lane tr.rms) (tapsOf (s.solved lane tr.pos tr.rx))) ∧
      (∀ b, -16384 ≤ (Tab.get (0, 0) (t.lane lane).taps b).1 ∧ (Tab.get (0, 0) (t.lane lane).taps b).1 ≤ 16383 ∧
        -16384 ≤ (Tab.get (0, 0) (t.lane lane).taps b).2 ∧ (Tab.get (0, 0) (t.lane lane).taps b).2 ≤ 16383) ∧
      (t.lane lane).k = 6 ∧ (t.lane lane).chosen = none ∧ (t.lane lane).gain = 1 ∧ (t.lane lane).sf = tr.next % 17424 ∧
      (s.mode lane = m400 → s.on (fLn_PRBS_STAT_CHK lane) = false → t.fld (fLn_FEC_STAT_SF_LOCK lane) = 1) ∧
      (∀ n, n ≠ lane → t.lane n = s.lane n) ∧ onlyRegs (lnReg lane) s t ∧ onlyParts [.lanes, .act, .regs] s t))
  ∧ (∀ (lane : Nat) (s : State), s.rx lane = rxTrain → (s.lane lane).fromCatch = true → (s.lane lane).curId = none →
    (s.inForce (fLn_RX_CTL_TRAIN_SRC lane) ≠ 1 → ∃ t, exec (.catchWaitExpiry lane) s = .next t ∧ t.rx lane = rxTrain ∧
      t.lane lane = { s.lane lane with fromCatch := false } ∧ t.fld (fLn_RX_EVENT_TRAIN_FALLBACK lane) = 1 ∧
      (∀ n, n ≠ lane → t.lane n = s.lane n) ∧ onlyRegs (fun r => r = rLn_RX_EVENT lane ∨ noteReg r) s t ∧
      onlyParts [.lanes, .rings, .regs, .out] s t) ∧
    (s.inForce (fLn_RX_CTL_TRAIN_SRC lane) = 1 → ∃ t, exec (.catchWaitExpiry lane) s = .next t ∧
      t.rx lane = (if s.fld (fLn_ADAPT_RETRY_MAX lane) ≤ min 15 (s.fld (fLn_RX_STAT_RETRY lane) + 1) then rxFailed else rxTrain) ∧
      t.fld (fLn_RX_STAT_RETRY lane) = min 15 (s.fld (fLn_RX_STAT_RETRY lane) + 1) ∧ (∀ n, t.lane n = s.lane n) ∧
      onlyRegs (fun r => lnReg lane r ∨ noteReg r) s t ∧ onlyParts [.rings, .regs, .out] s t))
  ∧ (∀ (lane : Nat) (s : State), s.rx lane ≠ rxTrain ∨ (s.lane lane).fromCatch = false ∨ (s.lane lane).curId ≠ none →
    exec (.catchWaitExpiry lane) s = .next s)
  ∧ (∀ (lane header : Nat) (s : State), s.mode lane = m400 →
    (headerOk header = false → exec (.catchSequenceDetect lane header) s = .next (s.addSat (fLn_WAKE_CNT_FALSE lane))) ∧
    (headerOk header = true → s.rx lane = rxTrain → (s.lane lane).fromCatch = true →
      exec (.catchSequenceDetect lane header) s =
        .next (s.modLane lane ({ · with curId := some (header / 256 % 256), curRep := header / 16 % 16 }))) ∧
    (headerOk header = true → s.rx lane = rxLocked → s.inForce (fLn_RX_CTL_TRAIN_SRC lane) ≠ 2 →
      (s.lane lane).lastId ≠ some (header / 256 % 256) → ∃ t, exec (.catchSequenceDetect lane header) s = .next t ∧
      t.rx lane = rxTrain ∧ t.fld (fLn_RX_STAT_LOCK lane) = 0 ∧ t.fld (fLn_RX_EVENT_RETRAIN lane) = 1 ∧
      (t.lane lane).fromCatch = true ∧ (t.lane lane).curId = some (header / 256 % 256) ∧
      (t.lane lane).curRep = header / 16 % 16 ∧ (∀ n, n ≠ lane → t.lane n = s.lane n) ∧
      onlyRegs (rxReg lane) s t ∧ onlyParts [.lanes, .rings, .regs, .out] s t) ∧
    (headerOk header = true → s.rx lane = rxConverge ∨ s.rx lane = rxLocked ∧
      (s.inForce (fLn_RX_CTL_TRAIN_SRC lane) = 2 ∨ (s.lane lane).lastId = some (header / 256 % 256)) →
      exec (.catchSequenceDetect lane header) s = .next (passSequence lane s)))
  ∧ (∀ (lane header : Nat) (s : State), s.mode lane ≠ m400 → exec (.catchSequenceDetect lane header) s = .next s)
  ∧ (∀ (lane : Nat) (s : State), (s.rx lane = rxLocked → ∃ t, exec (.timingLockLoss lane) s = .next t ∧ t.rx lane = rxAcquire ∧
    t.fld (fLn_RX_STAT_LOCK lane) = 0 ∧ t.fld (fLn_RX_EVENT_LOCK_LOST lane) = 1 ∧ (∀ n, n ≠ lane → t.lane n = s.lane n) ∧
    onlyRegs (rxReg lane) s t ∧ onlyParts [.lanes, .act, .rings, .regs, .out] s t) ∧
    (s.rx lane ≠ rxLocked → exec (.timingLockLoss lane) s = .next s))

/-- Adaptation (R71, R75-R80, R88, R90): a block passes the equaliser and updates its taps, while converging the step exponent rises after
2^k blocks, and the frequency follows the loop; each active decision feedback tap and each target moves one code, by the sign-sign LMS, within
its bounds; a window updates MERIT (R84), the second good one after the choice locks the receiver, and in LOCKED the last of RETRAIN_CNT low
windows retrains it; a window during APPLY only leaves MERIT stale (R101). The symbol whose error moves a coefficient is the
model's choice (log entry 121). -/
def Obligations.ReceiversAdapt : Prop :=
  (∀ (lane : Nat) (rx : List Int) (lp : Loops) (p : Pass) (y : List Cx) (s : State), rx.length = 128 → blockPass lane rx s = (p, y) →
    s.rx lane = rxConverge ∨ s.rx lane = rxLocked →
    ∃ t, exec (.fdeBlockUpdate lane rx lp) s = .next t ∧ (t.lane lane).dc = lp.dc ∧ (t.lane lane).phase = lp.phase ∧
      (t.lane lane).samples = rx ∧
      (lp.freq.natAbs ≤ 25000 → t.sfld (fLn_RX_TIMING_FREQ_OFS lane) = lp.freq) ∧
      (25000 < lp.freq.natAbs → t.sfld (fLn_RX_TIMING_FREQ_OFS lane) = s.sfld (fLn_RX_TIMING_FREQ_OFS lane)) ∧
      (s.rx lane = rxConverge → (t.lane lane).taps = blockTaps (s.lane lane).k p y) ∧
      (s.rx lane = rxConverge → (s.lane lane).k < s.fld (fLn_FDE_CTL_K_TRACK lane) → 2 ^ (s.lane lane).k ≤ (s.lane lane).kBlocks + 1 →
        (t.lane lane).k = (s.lane lane).k + 1 ∧ (t.lane lane).kBlocks = 0) ∧
      (s.rx lane = rxLocked → s.on (fLn_FDE_CTL_FREEZE lane) = false →
        (t.lane lane).taps = blockTaps (s.fld (fLn_FDE_CTL_K_TRACK lane)) p y) ∧
      (s.rx lane = rxLocked → s.on (fLn_FDE_CTL_FREEZE lane) = true → (t.lane lane).taps = (s.lane lane).taps) ∧
      (∀ n, n ≠ lane → t.lane n = s.lane n) ∧ onlyRegs (lnReg lane) s t ∧ onlyParts [.lanes, .regs] s t)
  ∧ (∀ (lane : Nat) (rx : List Int) (lp : Loops) (s : State), s.rx lane ≠ rxConverge → s.rx lane ≠ rxLocked →
    exec (.fdeBlockUpdate lane rx lp) s = .next s)
  ∧ (∀ (lane at_ n : Nat) (s : State), s.rx lane = rxConverge ∨ s.rx lane = rxLocked ∧ s.on (fLn_DFE_CTL_FREEZE lane) = false →
    256 ≤ (s.lane lane).dfeSyms → n = s.fld (fLn_RX_STAT_DFE_N lane) →
    ∃ t, exec (.dfeAdapt lane at_) s = .next t ∧ t.lane lane = { s.lane lane with dfeSyms := (s.lane lane).dfeSyms - 256 } ∧
      (∀ i f, (i, f) ∈ [(0, fLn_DFE_TAP_TAP1 lane), (1, fLn_DFE_TAP_TAP2 lane), (2, fLn_DFE_TAP_TAP3 lane)] →
        t.sfld f = if i < n then max (-512) (min 511 (s.sfld f +
          ((s.lane lane).lmsSign (at_ % 128) (s.fld (fLn_RX_STAT_MEM lane) + i + 1)).sign)) else s.sfld f) ∧
      (∀ m, m ≠ lane → t.lane m = s.lane m) ∧ onlyRegs (fun r => r = rLn_DFE_TAP lane) s t ∧ onlyParts [.lanes, .regs] s t)
  ∧ (∀ (lane at1 at2 : Nat) (s : State), s.rx lane = rxConverge ∨ s.rx lane = rxLocked ∧ s.on (fLn_FDE_CTL_FREEZE lane) = false →
    4096 ≤ (s.lane lane).tgtSyms →
    ∃ t, exec (.targetAdapt lane at1 at2) s = .next t ∧ t.lane lane = { s.lane lane with tgtSyms := (s.lane lane).tgtSyms - 4096 } ∧
      ((t.fld (fLn_TRELLIS_G1 lane) : Nat) : Int) =
        max 0 (min 191 ((s.fld (fLn_TRELLIS_G1 lane) : Nat) + ((s.lane lane).lmsSign (at1 % 128) 1).sign)) ∧
      t.sfld (fLn_TRELLIS_G2 lane) = (if s.fld (fLn_RX_STAT_MEM lane) = 2 then
        max (-64) (min 63 (s.sfld (fLn_TRELLIS_G2 lane) + ((s.lane lane).lmsSign (at2 % 128) 2).sign)) else s.sfld (fLn_TRELLIS_G2 lane)) ∧
      (∀ m, m ≠ lane → t.lane m = s.lane m) ∧ onlyRegs (fun r => r = rLn_TRELLIS lane) s t ∧ onlyParts [.lanes, .regs] s t)
  ∧ (∀ (lane at1 at2 : Nat) (s : State), s.rx lane ≠ rxConverge → s.rx lane ≠ rxLocked →
    exec (.dfeAdapt lane at1) s = .next s ∧ exec (.targetAdapt lane at1 at2) s = .next s)
  ∧ (∀ (lane : Nat) (rms : Int) (win : MeritWin) (s : State), s.rx lane = rxConverge → (s.lane lane).winDone = some win →
    s.fld (fLn_CAL_STAT_PHASE lane) ≠ 3 →
    (s.lane lane).chosen.isSome = true → (s.lane lane).lockRun = 1 → s.fld (fLn_ADAPT_LOCK_THR lane) ≤ meritOf win →
    ∃ t, exec (.meritWindowEnd lane win.n rms) s = .next t ∧ t.rx lane = rxLocked ∧ t.fld (fLn_RX_STAT_LOCK lane) = 1 ∧
      t.fld (fLn_RX_STAT_RETRY lane) = 0 ∧ t.fld (fLn_RX_EVENT_LOCK_GAINED lane) = 1 ∧ t.fld (fLn_MERIT_MERIT lane) = meritOf win ∧
      t.fld (fLn_MERIT_FRESH lane) = 1 ∧ (∀ n, n ≠ lane → t.lane n = s.lane n) ∧
      onlyRegs (fun r => lnReg lane r ∨ noteReg r) s t ∧ onlyParts [.lanes, .rings, .regs, .out] s t)
  ∧ (∀ (lane : Nat) (rms : Int) (win : MeritWin) (s : State), s.rx lane = rxLocked → (s.lane lane).winDone = some win →
    s.fld (fLn_CAL_STAT_PHASE lane) ≠ 3 →
    s.inForce (fLn_RX_CTL_RETRAIN_EN lane) = 1 → meritOf win < s.retrainThr lane →
    s.fld (fLn_ADAPT_RETRAIN_CNT lane) ≤ (s.lane lane).lowRun + 1 →
    ∃ t, exec (.meritWindowEnd lane win.n rms) s = .next t ∧ t.rx lane = rxAcquire ∧ t.fld (fLn_RX_EVENT_RETRAIN lane) = 1 ∧
      t.fld (fLn_RX_EVENT_LOCK_LOST lane) = 1 ∧ (∀ n, n ≠ lane → t.lane n = s.lane n) ∧
      onlyRegs (rxReg lane) s t ∧ onlyParts [.lanes, .act, .rings, .regs, .out] s t)
  ∧ (∀ (lane : Nat) (rms : Int) (win : MeritWin) (s : State), s.rx lane = rxConverge ∨ s.rx lane = rxLocked →
    (s.lane lane).winDone = some win → s.fld (fLn_CAL_STAT_PHASE lane) ≠ 3 →
    ∃ t, exec (.meritWindowEnd lane win.n rms) s = .next t ∧ t.fld (fLn_MERIT_MERIT lane) = meritOf win ∧
      t.fld (fLn_MERIT_WIN_SEQ lane) = (s.fld (fLn_MERIT_WIN_SEQ lane) + 1) % 256 ∧ (t.lane lane).winDone = none ∧
      (∀ n, n ≠ lane → t.lane n = s.lane n) ∧ onlyRegs (rxReg lane) s t ∧ onlyParts [.lanes, .act, .rings, .regs, .out] s t)
  ∧ (∀ (lane : Nat) (rms : Int) (win : MeritWin) (s : State), s.rx lane = rxConverge ∨ s.rx lane = rxLocked →
    (s.lane lane).winDone = some win → s.fld (fLn_CAL_STAT_PHASE lane) = 3 →
    exec (.meritWindowEnd lane win.n rms) s =
      .next ((agcWindow lane rms (s.modLane lane ({ · with winDone := none }))).setFld (fLn_MERIT_STALE lane) 1))
  ∧ (∀ (lane symbols : Nat) (rms : Int) (s : State), (∀ win, (s.lane lane).winDone = some win → win.n ≠ symbols) →
    exec (.meritWindowEnd lane symbols rms) s = .next s)

/-- Electrical idle at a receiver (R143-R149): the idle marker, both of whose correlations reach CATCH_THR, puts a locked receiver
to IDLE with LOCK kept, a second positive peak 256 symbols after the first wakes it, the start marker 448 symbols after the
preamble's end locks it at superframe phase 0, an abandoned burst and a wake missed for MISS_US are counted, and a larger peak of
the spare restarts the reception. -/
def Obligations.ReceiversSleepAndWake : Prop :=
  (∀ (lane : Nat) (c1 c2 : Int) (s : State), s.mode lane = m400 → s.rx lane = rxLocked →
    ((s.catchHit lane c1 = false ∨ s.catchHit lane c2 = false) → exec (.idleMarkerRx ⟨lane, c1, c2⟩) s = .next s) ∧
    (s.catchHit lane c1 = true → s.catchHit lane c2 = true →
      ∃ t, exec (.idleMarkerRx ⟨lane, c1, c2⟩) s = .next t ∧ t.rx lane = rxIdle ∧
        t.fld (fLn_RX_STAT_LOCK lane) = 1 ∧ t.fld (fLn_RX_STAT_SIGDET lane) = 0 ∧ t.fld (fLn_FEC_STAT_SF_LOCK lane) = 0 ∧
        (t.lane lane).rcpt = none ∧ (t.lane lane).sigSince = none ∧
        (s.fld (fLn_CAL_STAT_PHASE lane) = 3 → t.fld (fLn_CAL_STAT_PAUSED lane) = 1) ∧ (∀ n, n ≠ lane → t.lane n = s.lane n) ∧
        onlyRegs (lnReg lane) s t ∧ onlyParts [.lanes, .regs] s t))
  ∧ (∀ (lane mag : Nat) (pl : PeakAt) (p : Reception) (s : State), s.mode lane = m400 → s.rx lane = rxIdle →
    s.fld (fLn_WAKE_CTL_CATCH_THR lane) ≤ mag →
    (s.lane lane).rcpt = some p → p.ended = false → pl.at_ = p.at_ + 256 → s.pState < 2 → s.on fPwr_STATE_TRANS = false →
    ∃ t, exec (.preamblePeak lane false mag pl) s = .next t ∧ t.rx lane = rxWake ∧ t.fld (fLn_RX_STAT_SIGDET lane) = 1 ∧
      (t.lane lane).rcpt = some ⟨pl.at_, mag, true, false⟩ ∧ (t.lane lane).phase = pl.phase ∧
      (t.lane lane).gain = sqrtQ (preambleGain (s.det lane).g1 (s.det lane).g2 (tapValues (s.lane lane).taps)
        (sampleLevels (s.inForce (fLn_RX_CTL_POL_INV lane) == 1) pl.rx)) ∧ (∀ n, n ≠ lane → t.lane n = s.lane n) ∧
      onlyRegs (fun r => r = rLn_RX_STAT lane ∨ r = rLn_FEC_STAT lane) s t ∧ onlyParts [.lanes, .regs] s t)
  ∧ (∀ (lane mag : Nat) (pl : PeakAt) (s : State), s.rx lane = rxLocked → (s.lane lane).rcpt = none → pl.quiet < 8 →
    exec (.preamblePeak lane false mag pl) s = .next s)
  ∧ (∀ (lane pair : Nat) (corr : Int) (p : Reception) (s : State), s.rx lane = rxWake → (s.lane lane).rcpt = some p → p.ended = true →
    s.catchHit lane corr = true →
    ∃ t, exec (.startMarkerRx lane ⟨p.at_ + 448, corr, pair⟩) s = .next t ∧ t.rx lane = rxLocked ∧ t.fld (fLn_FEC_STAT_SF_LOCK lane) = 1 ∧
      t.fld (fLn_CAL_STAT_PAUSED lane) = 0 ∧ (t.lane lane).rcpt = none ∧ (t.lane lane).sf = 0 ∧ (t.lane lane).rxPairs = pair ∧
      (∀ n, n ≠ lane → t.lane n = s.lane n) ∧ onlyRegs (lnReg lane) s t ∧ onlyParts [.lanes, .regs] s t)
  ∧ (∀ (lane : Nat) (s : State), (s.lane lane).rcpt.isSome = true → ∃ t, exec (.burstAbandon lane) s = .next t ∧
    t.fld (fLn_WAKE_CNT_FALSE lane) = min 65535 (s.fld (fLn_WAKE_CNT_FALSE lane) + 1) ∧ t.lane lane = { s.lane lane with rcpt := none } ∧
    (s.rx lane = rxWake → t.rx lane = rxIdle ∧ t.fld (fLn_RX_STAT_SIGDET lane) = 0) ∧ (∀ n, n ≠ lane → t.lane n = s.lane n) ∧
    onlyRegs (fun r => r = rLn_WAKE_CNT lane ∨ r = rLn_RX_STAT lane ∨ r = rLn_FEC_STAT lane) s t ∧ onlyParts [.lanes, .regs] s t)
  ∧ (∀ (lane mag at_ : Nat) (p : Reception) (s : State), (s.lane lane).rcpt = some p → p.mag < mag → s.fld (fLn_WAKE_CTL_CATCH_THR lane) ≤ mag →
    ∃ t, exec (.spareRestart lane mag at_) s = .next t ∧ t.lane lane = { s.lane lane with rcpt := some ⟨at_, mag, false, false⟩ } ∧
      t.fld (fLn_WAKE_CNT_RESTART lane) = min 255 (s.fld (fLn_WAKE_CNT_RESTART lane) + 1) ∧ (∀ n, n ≠ lane → t.lane n = s.lane n) ∧
      onlyRegs (fun r => r = rLn_WAKE_CNT lane) s t ∧ onlyParts [.lanes, .regs] s t)
  ∧ (∀ (lane since : Nat) (s : State), s.rx lane = rxIdle → (s.lane lane).sigSince = some since →
    (s.up < since + s.fld (fLn_WAKE_CTL_MISS_US lane) * 1000 * nsU → exec (.wakeMiss lane) s = .next s) ∧
    (since + s.fld (fLn_WAKE_CTL_MISS_US lane) * 1000 * nsU ≤ s.up → ∃ t, exec (.wakeMiss lane) s = .next t ∧
      t.fld (fLn_WAKE_CNT_MISS lane) = min 15 (s.fld (fLn_WAKE_CNT_MISS lane) + 1) ∧ t.fld (fLn_FEC_EVENT_MISS lane) = 1 ∧
      t.rx lane = (if s.on (fLn_WAKE_CTL_MISS_TRAIN lane) then rxAcquire else rxIdle) ∧ (∀ n, n ≠ lane → t.lane n = s.lane n) ∧
      onlyRegs (rxReg lane) s t ∧ onlyParts [.lanes, .act, .rings, .regs, .out] s t))

/-- Calibration (R107-R117): RUN and the end of the interval start a pass on a locked receiver, an estimate whose levels are
balanced is applied where it lies within its limits and rejected with PASS_FAIL where it does not, unbalanced levels abandon it;
each step of APPLY moves a coefficient by its change over S, the last one to its target; the selectors ask for a snapshot, which
shows the tap or the coefficient selected, fresh (R100, R117). -/
def Obligations.LanesCalibrate : Prop :=
  (∀ (lane : Nat) (v : W32) (s : State), s.awake = true → lane < 8 → s.testing lane = false → s.tx lane ≠ txOff → v.getLsbD 31 = true →
    v.getLsbD 30 = true → s.fld (fLn_CAL_STAT_PHASE lane) = 0 → bits v 27 24 ≠ 0 → 20 ≤ bits v 20 16 → bits v 20 16 ≤ 28 →
    1 ≤ bits v 9 0 → bits v 9 0 ≤ 1000 → s.rx lane = rxLocked →
    ∃ t, exec (.calRun lane v) s = .next t ∧ t.reg (rLn_CAL_CTL lane) = v &&& 0x8F1F03FF#32 ∧ t.fld (fLn_CAL_STAT_PHASE lane) = 1 ∧
      (t.lane lane).calWin = bits v 20 16 ∧
      (∀ n, n ≠ lane → t.lane n = s.lane n) ∧ onlyRegs (fun r => r = rLn_CAL_CTL lane ∨ r = rLn_CAL_STAT lane) s t ∧ onlyParts [.lanes, .regs] s t)
  ∧ (∀ (lane : Nat) (s : State), s.on (fLn_CAL_CTL_EN lane) = true → s.fld (fLn_CAL_STAT_PHASE lane) = 0 →
    ∃ t, exec (.calPassStart lane) s = .next t ∧ t.fld (fLn_CAL_STAT_PHASE lane) = (if s.rx lane = rxLocked then 1 else 0) ∧
      (s.rx lane ≠ rxLocked → (t.lane lane).calDue = true) ∧ (∀ n, n ≠ lane → t.lane n = s.lane n) ∧
      onlyRegs (fun r => r = rLn_CAL_STAT lane) s t ∧ onlyParts [.lanes, .regs] s t)
  ∧ (∀ (lane : Nat) (levels : List Nat) (slices : List (Nat × Int)) (squares power : List Nat) (image : List (List (Int × Int)))
    (c : CalStats) (cs : List (Nat × Nat × Int × Int)) (s : State), s.fld (fLn_CAL_STAT_PHASE lane) = 1 → s.rx lane = rxLocked →
    levels.foldl (· + ·) 0 = 2 ^ (s.lane lane).calWin → c = ⟨levels, (slices.zip squares).map fun e => (e.1.1, e.1.2, e.2), power, image⟩ →
    cs = calCandidates s lane (s.passTemp lane)
      (c.raw (s.slices lane) (modeBaud (s.mode lane) (s.fld (fLn_MODE_STAT_VARIANT lane)))) →
    ∃ t, exec (.calEstimateEnd lane levels slices squares power image) s = .next t ∧
      ((c.levelsOk = false ∨ 32 < (s.lane lane).calTmax - (s.lane lane).calTmin) →
        t.fld (fLn_CAL_STAT_PHASE lane) = 0 ∧ t.fld (fLn_CAL_EVENT_ABANDON lane) = 1 ∧
        onlyRegs (fun r => r = rLn_CAL_STAT lane ∨ r = rLn_CAL_EVENT lane ∨ noteReg r) s t ∧ onlyParts [.rings, .regs, .out] s t) ∧
      (c.levelsOk = true → (s.lane lane).calTmax - (s.lane lane).calTmin ≤ 32 →
        (cs.all (withinLimit s lane) = true → calSteps (trackCal lane s) lane cs ≠ 0 →
          t.fld (fLn_CAL_STAT_PHASE lane) = 3 ∧ t.fld (fLn_CAL_STAT_FAIL_CNT lane) = 0 ∧ t.fld (fLn_MERIT_STALE lane) = 1 ∧
          t.fld (fCh_OUT_STALE (16 + lane)) = 1 ∧
          (t.lane lane).calS = calSteps (trackCal lane s) lane cs ∧ (t.lane lane).calStep = 0 ∧
          (∀ n, n ≠ lane → t.lane n = s.lane n) ∧ onlyRegs (fun r => lnReg lane r ∨ r = rCh_OUT (16 + lane)) s t ∧
          onlyParts [.lanes, .regs] s t) ∧
        (cs.all (withinLimit s lane) = false → t.fld (fLn_CAL_STAT_PHASE lane) = 0 ∧
          t.fld (fLn_CAL_EVENT_PASS_FAIL lane) = 1 ∧ t.fld (fLn_CAL_STAT_FAIL_CNT lane) = min 15 (s.fld (fLn_CAL_STAT_FAIL_CNT lane) + 1) ∧
          onlyRegs (fun r => r = rLn_CAL_STAT lane ∨ r = rLn_CAL_EVENT lane ∨ noteReg r) s t ∧ onlyParts [.rings, .regs, .out] s t)))
  ∧ (∀ (lane : Nat) (s : State), s.fld (fLn_CAL_STAT_PHASE lane) = 3 → s.rx lane = rxLocked →
    ∃ t, exec (.calApplyStep lane) s = .next t ∧ (∀ n, n ≠ lane → t.lane n = s.lane n) ∧
      ((s.lane lane).calStep + 1 < (s.lane lane).calS → (t.lane lane).calStep = (s.lane lane).calStep + 1 ∧
        (∀ e, (s.lane lane).calTarget = [e] → ∀ v, Tab.get 0 (s.lane lane).calFrom e.1 = v →
          t.activeExact lane e.1.1 e.1.2 = v + (e.2 - v) * (((s.lane lane).calStep + 1 : Nat) : Rat) / (s.lane lane).calS) ∧
        onlyRegs (fun _ => False) s t ∧ onlyParts [.lanes] s t) ∧
      ((s.lane lane).calS ≤ (s.lane lane).calStep + 1 → t.fld (fLn_CAL_STAT_PHASE lane) = 0 ∧ t.fld (fLn_CAL_EVENT_PASS_DONE lane) = 1 ∧
        t.fld (fLn_CAL_STAT_PASS_SEQ lane) = (s.fld (fLn_CAL_STAT_PASS_SEQ lane) + 1) % 256 ∧
        (∀ e, (s.lane lane).calTarget = [e] → t.activeExact lane e.1.1 e.1.2 = e.2) ∧
        onlyRegs (rxReg lane) s t ∧ onlyParts [.lanes, .rings, .regs, .out] s t))
  ∧ (∀ (lane : Nat) (v : W32) (s : State), s.awake = true → lane < 8 → s.testing lane = false → s.tx lane ≠ txOff →
    (∃ t, exec (.fdeSel lane v) s = .next t ∧ (t.lane lane).fdeReq = some (bits v 7 0) ∧ t.fld (fLn_FDE_TAP_VALID lane) = 0 ∧
      onlyRegs (fun r => r = rLn_FDE_SEL lane ∨ r = rLn_FDE_TAP lane) s t ∧ onlyParts [.lanes, .regs] s t) ∧
    (bits v 10 8 ≠ 5 → bits v 10 8 ≠ 6 →
      ∃ t, exec (.calSel lane v) s = .next t ∧ (t.lane lane).calReq = some (bits v 10 0) ∧ t.fld (fLn_CAL_VAL_VALID lane) = 0 ∧
        onlyRegs (fun r => r = rLn_CAL_SEL lane ∨ r = rLn_CAL_VAL lane) s t ∧ onlyParts [.lanes, .regs] s t))
  ∧ (∀ (lane b : Nat) (x : Int × Int) (s : State), s.dark = false → (s.lane lane).fdeReq = some b → b ≤ 128 →
    Tab.find (s.lane lane).taps b = some x → -16384 ≤ x.1 → x.1 < 16384 → -16384 ≤ x.2 → x.2 < 16384 →
    ∃ t, exec (.snapshotReady (.fde lane)) s = .next t ∧ t.sfld (fLn_FDE_TAP_RE lane) = x.1 ∧ t.sfld (fLn_FDE_TAP_IM lane) = x.2 ∧
      t.fld (fLn_FDE_TAP_FRESH lane) = 1 ∧ onlyRegs (fun r => r = rLn_FDE_TAP lane) s t ∧ onlyParts [.lanes, .regs] s t)

/-- The outer code's counts (R125-R128): a received codeword is decoded and counts, a corrected one too, with its symbols on the
lane where they came; an uncorrectable one raises UNCORR and marks the frames that overlap it; nothing counts while the port is
down (R87); the degrade monitor compares a window with its thresholds (R129); CLR sets the counts to 0 (R128); a change of
alignment lock and of a checker's SYNC shows (R152, R510). A BLK reset of a lane that is off sets all but its DAC trim to
their reset values, and keeps SRST at 1 until it ends (R59, R66); the counts of R532 stay. -/
def Obligations.CodesAreCountedAndLanesReset : Prop :=
  (∀ (lane : Nat) (rx from_ m places : List Nat) (s : State), s.mode lane ≠ 0 → s.portLanes lane = [lane] → s.portBase lane = lane →
    s.on (fLn_PRBS_STAT_CHK lane) = false → s.on (fLn_RX_STAT_LOCK lane) = true → rx.length = 544 →
    rsDecode rx = some (m, places) → places ≠ [] → places.length ≤ 15 →
    ∃ t, exec (.rsCodewordDecoded lane (rx.take 514) (rx.drop 514) from_) s = .next t ∧
      t.count48 (rLn_FEC_PAIR_LO lane 0) (rLn_FEC_PAIR_HI lane 0) =
        min (2 ^ 48 - 1) (s.count48 (rLn_FEC_PAIR_LO lane 0) (rLn_FEC_PAIR_HI lane 0) + 1) ∧
      t.count48 (rLn_FEC_PAIR_LO lane 1) (rLn_FEC_PAIR_HI lane 1) =
        min (2 ^ 48 - 1) (s.count48 (rLn_FEC_PAIR_LO lane 1) (rLn_FEC_PAIR_HI lane 1) + 1) ∧
      t.count48 (rLn_FEC_PAIR_LO lane 3) (rLn_FEC_PAIR_HI lane 3) =
        min (2 ^ 48 - 1) (s.count48 (rLn_FEC_PAIR_LO lane 3) (rLn_FEC_PAIR_HI lane 3)
          + (places.filter fun i => from_.getD i lane == lane).length) ∧
      Tab.get 0 (t.lane lane).hist places.length = min 0xFFFFFFFF (Tab.get 0 (s.lane lane).hist places.length + 1) ∧
      (t.lane lane).cwBad.head? = some false ∧
      (∀ n, n ≠ lane → t.lane n = s.lane n) ∧ onlyRegs (fun r => lnReg lane r ∨ noteReg r) s t ∧ onlyParts [.lanes, .rings, .regs, .out] s t)
  ∧ (∀ (lane : Nat) (rx from_ : List Nat) (s : State), s.mode lane ≠ 0 → s.portBase lane = lane → s.portUp lane = true →
    s.on (fLn_PRBS_STAT_CHK lane) = false → rx.length = 544 → rsDecode rx = none →
    ∃ t, exec (.rsCodewordDecoded lane (rx.take 514) (rx.drop 514) from_) s = .next t ∧ t.fld (fLn_FEC_EVENT_UNCORR lane) = 1 ∧
      Tab.get 0 (t.lane lane).hist 16 = min 0xFFFFFFFF (Tab.get 0 (s.lane lane).hist 16 + 1) ∧ (t.lane lane).cwBad.head? = some true ∧
      (∀ n, n ≠ lane → t.lane n = s.lane n) ∧ onlyRegs (fun r => lnReg lane r ∨ noteReg r) s t ∧
      onlyParts [.lanes, .rings, .lastNote, .regs, .out] s t)
  ∧ (∀ (lane : Nat) (msg parity from_ : List Nat) (s : State), s.portUp lane = false →
    exec (.rsCodewordDecoded lane msg parity from_) s = .next s)
  ∧ (∀ (lane : Nat) (s : State), s.mode lane ≠ 0 → s.portBase lane = lane → s.on (fLn_FEC_STAT_DEGRADED lane) = false →
    2 ^ s.fld (fLn_FEC_CTL_DEG_WIN lane) ≤ (s.lane lane).degCw →
    ∃ t, exec (.degradeWindowEnd lane (s.lane lane).degC) s = .next t ∧
      (s.fld (fLn_FEC_DEG_SET lane) * (544 * (s.lane lane).degCw) < (s.lane lane).degC * 2 ^ 24 →
        t.fld (fLn_FEC_STAT_DEGRADED lane) = 1 ∧ t.fld (fLn_FEC_EVENT_DEG_SET lane) = 1) ∧
      t.lane lane = { s.lane lane with degCw := 0, degC := 0 } ∧ (∀ n, n ≠ lane → t.lane n = s.lane n) ∧
      onlyRegs (fun r => r = rLn_FEC_STAT lane ∨ r = rLn_FEC_EVENT lane ∨ noteReg r) s t ∧ onlyParts [.lanes, .rings, .regs, .out] s t)
  ∧ (∀ (lane : Nat) (v : W32) (s : State), s.awake = true → lane < 8 → s.testing lane = false → s.tx lane ≠ txOff → v.getLsbD 31 = true →
    16 ≤ bits v 4 0 → bits v 4 0 ≤ 28 →
    ∃ t, exec (.fecClr lane v) s = .next t ∧ t.fld (fLn_FEC_CTL_DEG_WIN lane) = bits v 4 0 ∧ (t.lane lane).hist = [] ∧
      (∀ j, j < 5 → t.count48 (rLn_FEC_PAIR_LO lane j) (rLn_FEC_PAIR_HI lane j) = 0) ∧ (∀ n, n ≠ lane → t.lane n = s.lane n) ∧
      onlyRegs (lnReg lane) s t ∧ onlyParts [.lanes, .regs] s t)
  ∧ (∀ (lane : Nat) (s : State), s.mode lane ≠ 0 → s.portBase lane = lane → s.on (fLn_FEC_STAT_ALIGN lane) = true →
    ∃ t, exec (.alignLockChange lane false) s = .next t ∧ t.fld (fLn_FEC_STAT_ALIGN lane) = 0 ∧ t.fld (fLn_FEC_EVENT_ALIGN_LOST lane) = 1 ∧
      onlyRegs (fun r => r = rLn_FEC_STAT lane ∨ r = rLn_FEC_EVENT lane ∨ noteReg r) s t ∧ onlyParts [.rings, .regs, .out] s t)
  ∧ (∀ (lane bitsN errs : Nat) (s : State), lane < 8 → s.on (fLn_PRBS_STAT_CHK lane) = true → s.on (fLn_PRBS_STAT_SYNC lane) = true →
    ∃ t, exec (.prbsSyncChange lane false bitsN errs) s = .next t ∧ t.fld (fLn_PRBS_STAT_SYNC lane) = 0 ∧
      t.fld (fLn_PRBS_STAT_SYNC_LOSS lane) = min 255 (s.fld (fLn_PRBS_STAT_SYNC_LOSS lane) + 1) ∧
      t.count48 (rLn_PRBS_ERR_LO lane) (rLn_PRBS_ERR_HI lane) = min (2 ^ 48 - 1) (s.count48 (rLn_PRBS_ERR_LO lane) (rLn_PRBS_ERR_HI lane) + errs) ∧
      onlyRegs (lnReg lane) s t ∧ onlyParts [.regs] s t)
  ∧ (∀ (lane : Nat) (s : State), s.awake = true → lane < 8 → s.testing lane = false → s.on (fLn_CTL_SRST lane) = false → s.mode lane = 0 →
    (∀ b c, b < 8 → (s.lane b).modeCmd = some c → lane ∉ namedLanes b c.width) →
    (s.lane lane).loopCmd = none → (s.lane lane).trainCmd = none → (s.lane lane).express = [] →
    (s.lane lane).media = [] → (s.lane lane).host = [] → s.fld (fLn_CAL_STAT_PHASE lane) ≠ 1 →
    ∃ t, exec (.laneSrst lane 1#32) s = .next t ∧ t.fld (fLn_CTL_SRST lane) = 1 ∧
      (∀ r, lnReg lane r → r.off ≠ 0x128 → r.off ≠ 4 → t.reg r = regReset r) ∧ t.reg (rLn_TX_DAC_TRIM lane) = s.reg (rLn_TX_DAC_TRIM lane) ∧
      (t.lane lane).anchors = (s.lane lane).anchors ∧ (t.lane lane).active = (s.lane lane).active ∧
      (t.lane lane).rxBad = (s.lane lane).rxBad ∧ (t.lane lane).srst = [lane] ∧
      (∀ n, n ≠ lane → t.lane n = s.lane n) ∧ onlyRegs (lnReg lane) s t ∧ onlyParts [.lanes, .act, .hiLatch, .capt, .loHeld, .regs] s t)
  ∧ (∀ (lane : Nat) (s : State), s.on (fLn_CTL_SRST lane) = true → (s.lane lane).srst = [lane] →
    ∃ t, exec (.laneResetEnd lane) s = .next t ∧ t.fld (fLn_CTL_SRST lane) = 0 ∧ t.lane lane = { s.lane lane with srst := [] } ∧
      (∀ n, n ≠ lane → t.lane n = s.lane n) ∧ onlyRegs (fun r => r = rLn_CTL lane) s t ∧ onlyParts [.lanes, .regs] s t)

/-- The shuttle commands (R327-R334): an accepted load waits in command order and, once its image passes every check,
makes the shuttle LOADED; a start without streams runs it from ENTRY with its registers 0; a stop halts it and empties
its FIFOs; a message joins its mailbox; a reset returns it to OFF with everything 0. -/
def Obligations.ShuttlesAreCommanded : Prop :=
  (∀ (h : Hdr) (sh : Nat) (img : Option (List Byte)) (s : State), s.takesPf (.shtLoad h sh img) = true → 4 ≤ sh → sh < 96 → s.testing (24 + sh / 8) = false →
    s.shState sh ≠ stRun → s.shBusy sh = false →
    exec (.shtLoad h sh img) s = .next { s.begun h.qp with sht := { s.sht with loads := s.sht.loads ++ [(h, sh, img)] } })
  ∧ (∀ (h : Hdr) (sh : Nat) (b : List Byte) (r : List (Hdr × Nat × Option (List Byte))) (s : State), s.sht.loads = (h, sh, some b) :: r →
    h.qp < 256 → s.bme (s.ownerOf h.qp) = true → ∃ t, exec (.shtLoadDone sh) s = .next t ∧ t.sht.loads = r ∧
      (∀ m, m ≠ sh → t.shut m = s.shut m) ∧ onlyRegs (fun x => x = rSh_STAT sh ∨ x = rSh_IMAGE sh ∨ complReg x) s t ∧
      onlyParts [.sht, .qps, .regs, .out] s t ∧
      (firstFail (s.imgChecks b) = none → t.shState sh = stLoaded ∧ t.fld (fSh_IMAGE_IMG_VER sh) = field b 6 2 ∧
        (t.shut sh).entry = field b 20 2 ∧ (t.shut sh).digest = imgDigest b ∧
        (∀ i, i < field b 8 4 → Tab.get 0#48 (t.shut sh).p i = BitVec.ofNat 48 (field b (7360 + 6 * i) 6)) ∧
        completed (answer h eOk) s t) ∧
      (∀ st, firstFail (s.imgChecks b) = some st → t.shut sh = s.shut sh ∧ t.shState sh = s.shState sh ∧
        completed (answer h st) s t))
  ∧ (∀ (h : Hdr) (sh : Nat) (resume : Bool) (b : List Byte) (s : State), s.takesPf (.shtStart h sh resume false 0 0 (some b)) = true →
    4 ≤ sh → sh < 96 → s.testing (24 + sh / 8) = false →
    (s.shState sh = stHalted ∨ resume = false ∧ (s.shState sh = stLoaded ∨ s.shState sh = stFault)) → s.shBusy sh = false →
    (s.shut sh).entry < 65536 → firstFail (startBlockChecks b false 0 0 s) = none →
    ∃ t, exec (.shtStart h sh resume false 0 0 (some b)) s = .next t ∧ t.shState sh = stRun ∧
      (resume = false → t.shPc sh = (s.shut sh).entry ∧ (∀ i, t.sv sh (.d i) = 0 ∧ t.sv sh (.a i) = 0) ∧ t.sv sh .sr = 0 ∧
        t.sv sh .mr = (s.shut sh).mrInit % 2 ∧ (t.shut sh).loops = [] ∧ (t.shut sh).stack = []) ∧
      (resume = true → t.shPc sh = s.shPc sh ∧ (∀ x, t.sv sh x = s.sv sh x) ∧ (t.shut sh).loops = (s.shut sh).loops ∧
        (t.shut sh).stack = (s.shut sh).stack) ∧
      (t.shut sh).p = (s.shut sh).p ∧ (∀ e ∈ startStreams b, (t.bolt e.2.bolt).writer = some (.stream sh e.1)) ∧
      (∀ c, (∀ e ∈ startStreams b, e.2.bolt ≠ c) → t.bolt c = s.bolt c) ∧
      completed (answer h eOk) s t ∧ (∀ m, m ≠ sh → t.shut m = (gateShuttles s).shut m) ∧
      onlyRegs (fun x => x = rSh_STAT sh ∨ x = rSh_PC sh ∨ complReg x) s t ∧ onlyParts [.sht, .beam, .qps, .regs, .out] s t)
  ∧ (∀ (h : Hdr) (sh k c : Nat) (resume : Bool) (b : List Byte) (s : State), s.takesPf (.shtStart h sh resume true k c (some b)) = true →
    4 ≤ sh → sh < 96 → s.testing (24 + sh / 8) = false →
    (s.shState sh = stHalted ∨ resume = false ∧ (s.shState sh = stLoaded ∨ s.shState sh = stFault)) → s.shBusy sh = false →
    firstFail (startBlockChecks b true k c s) = none →
    ∃ t, exec (.shtStart h sh resume true k c (some b)) s = .next t ∧
      t.shut sh = { s.shut sh with start := some ⟨h, resume, k, c, s.tb, startStreams b⟩ } ∧
      (∀ e ∈ startStreams b, (t.bolt e.2.bolt).writer = some (.stream sh e.1) ∧ (t.bolt e.2.bolt).fmt = (s.bolt e.2.bolt).fmt) ∧
      (∀ m, m ≠ sh → t.shut m = s.shut m) ∧ onlyParts [.sht, .beam, .qps] s t)
  ∧ (∀ (h : Hdr) (sh : Nat) (s : State), s.takesPf (.shtStop h sh) = true → 4 ≤ sh → sh < 96 → s.testing (24 + sh / 8) = false → s.shState sh = stRun →
    (s.shut sh).start = none →
    ∃ t, exec (.shtStop h sh) s = .next t ∧ t.shState sh = stHalted ∧ t.fld (fSh_STAT_HALT_SRC sh) = 2 ∧ (t.shut sh).fifos = [] ∧
      (t.shut sh).strs = [] ∧ (∀ e ∈ (s.shut sh).strs, (t.bolt e.2.bolt).writer = none) ∧ t.shPc sh = s.shPc sh ∧
      ((s.shut sh).strs = [] → completed (answer h eOk) s t ∧ (∀ m, m ≠ sh → t.shut m = (gateShuttles s).shut m) ∧
        onlyRegs (fun x => x = rSh_STAT sh ∨ complReg x) s t ∧ onlyParts [.sht, .qps, .regs, .out] s t))
  ∧ (∀ (h : Hdr) (sh : Nat) (c : StartCmd) (s : State), s.takesPf (.shtStop h sh) = true → 4 ≤ sh → sh < 96 → s.testing (24 + sh / 8) = false →
    (s.shut sh).start = some c → c.hdr.qp < 256 → s.ownerOf c.hdr.qp = 0 →
    ∃ t, exec (.shtStop h sh) s = .next t ∧ t.shut sh = { s.shut sh with start := none } ∧ t.shState sh = s.shState sh ∧
      completed (answer c.hdr eAbort) s t ∧ (∀ e ∈ c.strs, (t.bolt e.2.bolt).writer = none ∧ (t.bolt e.2.bolt).fmt = (s.bolt e.2.bolt).fmt) ∧
      (∀ m, m ≠ sh → t.shut m = s.shut m) ∧ onlyRegs complReg s t ∧ onlyParts [.sht, .beam, .qps, .regs, .out] s t)
  ∧ (∀ (h : Hdr) (sh w0 w1 : Nat) (s : State), s.takesPf (.shtMsg h sh w0 w1) = true → 4 ≤ sh → sh < 96 → s.testing (24 + sh / 8) = false →
    s.shState sh ≠ stOff → (s.shut sh).mbox.length < 16 →
    ∃ t, exec (.shtMsg h sh w0 w1) s = .next t ∧ t.shut sh = { s.shut sh with mbox := (s.shut sh).mbox ++ [(w0 % 2 ^ 24, w1 % 2 ^ 24)] } ∧
      t.fld (fSh_MBOX_LEVEL sh) = (s.shut sh).mbox.length + 1 ∧ completed (answer h eOk) s t ∧ (∀ m, m ≠ sh → t.shut m = s.shut m) ∧
      onlyRegs (fun x => x = rSh_MBOX sh ∨ complReg x) s t ∧ onlyParts [.sht, .qps, .regs, .out] s t)
  ∧ (∀ (sh : Nat) (v : W32) (s : State), s.awake = true → 4 ≤ sh → sh < 96 → s.testing (24 + sh / 8) = false → v.getLsbD 0 = true →
    (s.shut sh).start = none →
    ∃ t, exec (.shSrst sh v) s = .next t ∧ t.shut sh = {} ∧ t.shState sh = stOff ∧ (∀ r, shReg sh r → t.reg r = regReset r) ∧
      (∀ e ∈ (s.shut sh).strs, (t.bolt e.2.bolt).writer = none) ∧ (∀ c, (∀ e ∈ (s.shut sh).strs, e.2.bolt ≠ c) → t.bolt c = s.bolt c) ∧
      (∀ m, m ≠ sh → t.shut m = s.shut m) ∧ onlyRegs (shReg sh) s t ∧ onlyParts [.sht, .beam, .hiLatch, .capt, .loHeld, .regs] s t)

/-- Shuttle arithmetic (R300-R304, R308-R310): the accumulator receives the exact result limited or wrapped by MR.SAT, Z, N
and V tell of it and Q stays once set; CMP writes the flags alone; a data register receives a result that it holds; a MAC
adds the doubled product; both operations of a dual MAC read before either writes. -/
def Obligations.ShuttleArithmetic : Prop :=
  (∀ (sh i j shift : Nat) (op : AluOp) (s : State), s.runsOn sh 1 = true → i < 4 → j < 4 → shift < 56 → op ≠ .rnd →
    ∃ t, exec (.alu ⟨sh, false⟩ op (.acc i) (.acc j) shift) s = .next t ∧ t.shPc sh = (s.shPc sh + 1) % 65536 ∧
      (op ≠ .cmp → t.sA sh i = limitA (s.sSat sh) (aluExact op (s.sA sh i) (s.sA sh j) shift)) ∧
      (op = .cmp → t.sA sh i = s.sA sh i) ∧
      (t.sv sh .sr).testBit 0 = (limitA (s.sSat sh) (aluExact op (s.sA sh i) (s.sA sh j) shift) == 0#56) ∧
      (t.sv sh .sr).testBit 1 = (limitA (s.sSat sh) (aluExact op (s.sA sh i) (s.sA sh j) shift)).msb ∧
      (t.sv sh .sr).testBit 3 = !fitsA (aluExact op (s.sA sh i) (s.sA sh j) shift) ∧
      ((s.sv sh .sr).testBit 4 = true → (t.sv sh .sr).testBit 4 = true) ∧
      (∀ x, x ≠ .a i → x ≠ .sr → t.sv sh x = s.sv sh x) ∧ onlyShuttle sh s t)
  ∧ (∀ (sh i j shift : Nat) (op : AluOp) (s : State), s.runsOn sh 1 = true → i < 8 → j < 8 → shift < 56 → op ≠ .cmp →
    fitsD op (aluExact op (s.sD sh i) (s.sD sh j) shift) = true →
    ∃ t, exec (.alu ⟨sh, false⟩ op (.dat i) (.dat j) shift) s = .next t ∧ t.shPc sh = (s.shPc sh + 1) % 65536 ∧
      (t.sD sh i).toInt = aluExact op (s.sD sh i) (s.sD sh j) shift ∧ (t.sv sh .sr).testBit 3 = false ∧
      (∀ x, x ≠ .d i → x ≠ .sr → t.sv sh x = s.sv sh x) ∧ onlyShuttle sh s t)
  ∧ (∀ (sh acc d1 d2 : Nat) (op : MacOp) (s : State), s.runsOn sh 2 = true → acc < 4 → d1 < 8 → d2 < 8 →
    ∃ t, exec (.mac ⟨sh, false⟩ op acc d1 d2 false none) s = .next t ∧ t.shPc sh = (s.shPc sh + 1) % 65536 ∧
      t.sA sh acc = macResult op (s.sSat sh) (s.sA sh acc) ((s.sD sh d1).toInt * (s.sD sh d2).toInt * 2) ∧
      (∀ x, x ≠ .a acc → x ≠ .sr → t.sv sh x = s.sv sh x) ∧ onlyShuttle sh s t)
  ∧ (∀ (sh acc d1 d2 d ptr : Nat) (y : Bool) (op : MacOp) (s : State), s.runsOn sh 2 = true → acc < 4 → d1 < 8 → d2 < 8 → d < 8 → ptr < 4 →
    ∃ t, exec (.mac ⟨sh, false⟩ op acc d1 d2 y (some ⟨false, d, ptr, .none⟩)) s = .next t ∧
      t.sA sh acc = macResult op (s.sSat sh) (s.sA sh acc) (product (s.sD sh d1) (s.sD sh d2)) ∧
      t.sD sh d = s.xy sh y (s.ptrAddr sh y ptr) ∧ (∀ x, x ≠ .a acc → x ≠ .d d → x ≠ .sr → t.sv sh x = s.sv sh x) ∧ onlyShuttle sh s t)
  ∧ (∀ (sh : Nat) (w : BitVec 48) (s : State), s.runsOn sh 3 = true → s.pWord sh (s.shPc sh) = w → wordBits w 16 13 = 0 → wordBits w 3 0 = 0 →
    ∃ t, exec (.dualMac ⟨sh, false⟩ w) s = .next t ∧ t.shPc sh = (s.shPc sh + 1) % 65536 ∧
      t.sA sh (dualAccs (wordBits w 39 38)).1 = macResult (macOfBits (wordBits w 43 42)) (s.sSat sh) (s.sA sh (dualAccs (wordBits w 39 38)).1)
        (product (s.sD sh (wordBits w 37 35)) (s.sD sh (wordBits w 34 32))) ∧
      t.sA sh (dualAccs (wordBits w 39 38)).2 = macResult (macOfBits (wordBits w 41 40)) (s.sSat sh) (s.sA sh (dualAccs (wordBits w 39 38)).2)
        (product (s.sD sh (wordBits w 31 29)) (s.sD sh (wordBits w 28 26))) ∧
      (∀ x, dualXfer (wordBits w 25 13) = some x → x.store = false → loadsClash (some x) (dualXfer (wordBits w 12 0)) = none →
        t.sD sh x.d = s.xy sh false (s.ptrAddr sh false x.ptr)) ∧
      (∀ y, dualXfer (wordBits w 12 0) = some y → y.store = false → loadsClash (dualXfer (wordBits w 25 13)) (some y) = none →
        t.sD sh y.d = s.xy sh true (s.ptrAddr sh true y.ptr)) ∧ onlyShuttle sh s t)
  ∧ (∀ (sh shift : Nat) (op : AluOp) (dst src : AD) (s : State), classBad (s.pWord sh (s.shPc sh)) = false →
    insClass (s.pWord sh (s.shPc sh)) ≠ 1 → exec (.alu ⟨sh, false⟩ op dst src shift) s = .next s)

/-- Transfers and messages (R306, R307, R316-R323): an immediate and a word of memory reach their register, a register its
place in memory, with the pointer moved; IN takes the oldest word of a FIFO with its tags; OUT to an unbound stream is
lost, and one to a bound stream joins it; SEND puts two words into a mailbox; WAIT reports the conditions that hold. -/
def Obligations.ShuttleTransfersAndMessages : Prop :=
  (∀ (sh i v : Nat) (s : State), s.runsOn sh 4 = true → i < 8 → ∃ t, exec (.transfer ⟨sh, false⟩ (.imm (.d i) v)) s = .next t ∧
    t.sv sh (.d i) = v % 2 ^ 24 ∧ t.shPc sh = (s.shPc sh + 1) % 65536 ∧ (∀ x, x ≠ .d i → t.sv sh x = s.sv sh x) ∧ onlyShuttle sh s t)
  ∧ (∀ (sh i j : Nat) (s : State), s.runsOn sh 4 = true → i < 4 → j < 8 → ∃ t, exec (.transfer ⟨sh, false⟩ (.move (.a i) (.d j) false)) s = .next t ∧
    (t.sA sh i).toInt = (s.sD sh j).toInt * 2 ^ 24 ∧ (∀ x, x ≠ .a i → t.sv sh x = s.sv sh x) ∧ onlyShuttle sh s t)
  ∧ (∀ (sh i ptr : Nat) (y : Bool) (s : State), s.runsOn sh 4 = true → i < 8 → ptr < 4 → s.sv sh (ptrRegs y ptr).2.2.2 = 0 →
    ∃ t, exec (.transfer ⟨sh, false⟩ (.load y (.d i) ptr .inc)) s = .next t ∧ t.sD sh i = s.xy sh y (s.ptrAddr sh y ptr) ∧
      t.ptrAddr sh y ptr = (s.ptrAddr sh y ptr + 1) % 16384 ∧
      (∀ x, x ≠ .d i → x ≠ (ptrRegs y ptr).1 → t.sv sh x = s.sv sh x) ∧ onlyShuttle sh s t)
  ∧ (∀ (sh i ptr : Nat) (y : Bool) (s : State), s.runsOn sh 4 = true → i < 8 → ptr < 4 → ∃ t, exec (.transfer ⟨sh, false⟩ (.store y (.d i) ptr .none false)) s = .next t ∧
    t.xy sh y (s.ptrAddr sh y ptr) = s.sD sh i ∧ (∀ z a, (z ≠ y ∨ a ≠ s.ptrAddr sh y ptr) → t.xy sh z a = s.xy sh z a) ∧
    (∀ x, t.sv sh x = s.sv sh x) ∧ onlyShuttle sh s t)
  ∧ (∀ (sh d fifo : Nat) (w : FeedWord) (r : List FeedWord) (s : State), s.runsOn sh 7 = true → d < 8 → fifo < 8 →
    Tab.get [] (s.shut sh).fifos fifo = w :: r → (∀ e ∈ (s.shut sh).strs, e.2.ref ≠ some fifo) →
    ∃ t, exec (.in_ ⟨sh, false⟩ d fifo) s = .next t ∧ t.sv sh (.d d) = w.w % 2 ^ 24 ∧ (t.sv sh .sr).testBit 5 = w.slot ∧
      (t.sv sh .sr).testBit 6 = w.skip ∧ Tab.get [] (t.shut sh).fifos fifo = r ∧ t.shPc sh = (s.shPc sh + 1) % 65536 ∧
      (∀ x, x ≠ .d d → x ≠ .sr → t.sv sh x = s.sv sh x) ∧ onlyShuttle sh s t)
  ∧ (∀ (sh d fifo o : Nat) (w : FeedWord) (r : List FeedWord) (x : OutStr) (s : State), s.runsOn sh 7 = true → d < 8 → fifo < 8 →
    Tab.get [] (s.shut sh).fifos fifo = w :: r → s.str sh o = some x → ((s.shut sh).strs.map (·.1)).Nodup → x.ref = some fifo →
    ∃ t, exec (.in_ ⟨sh, false⟩ d fifo) s = .next t ∧ t.sv sh (.d d) = w.w % 2 ^ 24 ∧
      (w.skip = false → w.slot = true → x.next = none → x.cur = none → t.str sh o = some (OutStr.drain 256 { x with next := some w.ts })) ∧
      (w.skip = true → t.str sh o = some (OutStr.drain 256 { x.finish with next := some w.ts }) ∧ t.fld (fSh_EVENT_OUT_RESYNC sh) = 1))
  ∧ (∀ (sh d fifo : Nat) (s : State), s.runs sh 7 = true → d < 8 → fifo < 8 → Tab.get [] (s.shut sh).fifos fifo = [] →
    exec (.in_ ⟨sh, false⟩ d fifo) s = .next ((s.setFld (fSh_STAT_BLOCKED sh) 0).setFld (fSh_STAT_BLOCKED sh) 1))
  ∧ (∀ (sh o d : Nat) (x : OutStr) (s : State), s.runsOn sh 7 = true → o < 8 → d < 8 → s.str sh o = some x → s.strReady x = true →
    ∃ t, exec (.out ⟨sh, false⟩ o (.dat d) false) s = .next t ∧
      t.str sh o = some (OutStr.drain 256 { x with fifo := x.fifo ++ [((s.sD sh d).toNat, s.tb)] }) ∧
      (∀ z, z ≠ .sr → t.sv sh z = s.sv sh z) ∧ t.shPc sh = (s.shPc sh + 1) % 65536 ∧ onlyShuttle sh s t)
  ∧ (∀ (sh o : Nat) (x : OutStr) (b : OutBlock) (r : List OutBlock) (s : State), s.str sh o = some x → x.done = b :: r →
    (s.bolt x.bolt).slotAt b.idx % 64 = 0 →
    ∃ t, exec (.streamBlockWrite sh o) s = .next t ∧ t.str sh o = some (OutStr.drain 256 { x with done := r }) ∧
      (t.bolt x.bolt).newest = some (max b.idx ((s.bolt x.bolt).newest.getD 0)) ∧ (∀ c, c ≠ x.bolt → t.bolt c = s.bolt c) ∧
      (∀ m, m ≠ sh → t.shut m = s.shut m) ∧ onlyRegs (fun r => r.blk = .bm ∨ r.blk = .bmw ∨ noteReg r) s t ∧
      onlyParts [.sht, .beam, .free, .rings, .lastNote, .regs, .out] s t)
  ∧ (∀ (sh dest d1 d2 : Nat) (s : State), s.runsOn sh 8 = true → 4 ≤ dest → dest < 96 → dest ≠ sh → d1 < 8 → d2 < 8 →
    (s.shut dest).mbox.length < 16 →
    ∃ t, exec (.send ⟨sh, false⟩ dest d1 d2) s = .next t ∧ (t.shut dest) = { s.shut dest with mbox := (s.shut dest).mbox ++ [(s.sv sh (.d d1), s.sv sh (.d d2))] } ∧
      t.fld (fSh_MBOX_LEVEL dest) = (s.shut dest).mbox.length + 1 ∧ (t.sv sh .sr).testBit 7 = false ∧
      (∀ m, m ≠ sh → m ≠ dest → t.shut m = s.shut m) ∧ onlyRegs (fun r => shReg sh r ∨ r = rSh_MBOX dest) s t ∧
      onlyParts [.sht, .free, .regs] s t)
  ∧ (∀ (sh mask : Nat) (s : State), s.runsOn sh 8 = true → mask ≠ 0 → mask < 16384 → Nat.land mask (s.waitBits sh) ≠ 0 →
    ∃ t, exec (.wait ⟨sh, false⟩ mask) s = .next t ∧ t.sv sh .ev = Nat.land mask (s.waitBits sh) ∧ t.shPc sh = (s.shPc sh + 1) % 65536 ∧
      (t.shut sh).pend = Nat.land (s.shut sh).pend (15 - Nat.land mask (s.waitBits sh) % 16) ∧
      (∀ x, x ≠ .ev → t.sv sh x = s.sv sh x) ∧ onlyShuttle sh s t)

/-- The flow of a shuttle (R308, R312, R313, R324, R331, R333): DO opens a level, the end of its body starts the next
pass, REP repeats an instruction, a taken branch goes to its target and another on, CALL and RETURN keep the return
address, HALT halts after its own address, TMR's expiry sets its condition, and a faulted house shuttle restarts. An
instruction that breaks a rule stops its shuttle in FAULT at its own address with the kind of the fault (R333): an
illegal operand, RETURN with nothing to return to, an owner's message to a house shuttle (R322), and a word of its
memories read with wrong parity. -/
def Obligations.ShuttleFlow : Prop :=
  (∀ (sh n len : Nat) (s : State), s.runsOn sh 5 = true → 1 ≤ n → n < 65536 → 1 ≤ len → len ≤ 4096 →
    ∃ t, exec (.do_ ⟨sh, false⟩ (.imm n) len) s = .next t ∧ t.shPc sh = (s.shPc sh + 1) % 65536 ∧ t.sv sh (.lc 0) = n ∧
      (t.shut sh).loops = [⟨(s.shPc sh + 1) % 65536, (s.shPc sh + len) % 65536, (s.shut sh).stack.length⟩] ∧
      (∀ x, x ≠ .lc 0 → t.sv sh x = s.sv sh x) ∧ onlyShuttle sh s t)
  ∧ (∀ (sh len : Nat) (s : State), s.runsOn sh 5 = true → 1 ≤ len → len ≤ 4096 → ∃ t, exec (.do_ ⟨sh, false⟩ (.imm 0) len) s = .next t ∧
    t.shPc sh = (s.shPc sh + len + 1) % 65536 ∧ (t.shut sh).loops = [] ∧ onlyShuttle sh s t)
  ∧ (∀ (sh i v : Nat) (l : LoopLvl) (s : State), s.runs sh 4 = true → (s.shut sh).rep = none → (s.shut sh).loops = [l] → l.depth = (s.shut sh).stack.length →
    l.last = s.shPc sh → l.first < 65536 → 2 ≤ s.sv sh (.lc 0) → s.sv sh (.lc 0) < 65536 → i < 8 →
    ∃ t, exec (.transfer ⟨sh, false⟩ (.imm (.d i) v)) s = .next t ∧ t.shPc sh = l.first ∧ t.sv sh (.lc 0) = s.sv sh (.lc 0) - 1 ∧
      (t.shut sh).loops = [l] ∧ onlyShuttle sh s t)
  ∧ (∀ (sh k n : Nat) (dat : Bool) (s : State), s.runsOn sh 5 = true → (dat = true → k < 8) → n = (if dat then s.sv sh (.d k) % 65536 else k) →
    1 ≤ n → n < 65536 → classRepeats (s.pWord sh ((s.shPc sh + 1) % 65536)) = true → ∃ t, exec (.rep ⟨sh, false⟩ dat k) s = .next t ∧
    (t.shut sh).rep = some n ∧ t.shPc sh = (s.shPc sh + 1) % 65536 ∧ onlyShuttle sh s t)
  ∧ (∀ (sh i v n : Nat) (s : State), s.runs sh 4 = true → (s.shut sh).rep = some n → 2 ≤ n → i < 8 →
    ∃ t, exec (.transfer ⟨sh, false⟩ (.imm (.d i) v)) s = .next t ∧ (t.shut sh).rep = some (n - 1) ∧ t.shPc sh = s.shPc sh ∧ onlyShuttle sh s t)
  ∧ (∀ (sh target : Nat) (cond : Cond) (s : State), s.runsOn sh 6 = true → target < 65536 → ∃ t, exec (.branch ⟨sh, false⟩ cond target) s = .next t ∧
    t.shPc sh = (if condHolds cond (s.sv sh .sr) false then target else (s.shPc sh + 1) % 65536) ∧ (∀ x, t.sv sh x = s.sv sh x) ∧ onlyShuttle sh s t)
  ∧ (∀ (sh target : Nat) (s : State), s.runsOn sh 6 = true → target < 65536 → (s.shut sh).stack.length < 16 →
    ∃ t, exec (.call ⟨sh, false⟩ target) s = .next t ∧ t.shPc sh = target ∧ (t.shut sh).stack = (s.shPc sh + 1) % 65536 :: (s.shut sh).stack ∧
      (∀ x, t.sv sh x = s.sv sh x) ∧ onlyShuttle sh s t)
  ∧ (∀ (sh a : Nat) (r : List Nat) (s : State), s.runsOn sh 6 = true → (s.shut sh).stack = a :: r → a < 65536 →
    ∃ t, exec (.return_ ⟨sh, false⟩) s = .next t ∧ t.shPc sh = a ∧ (t.shut sh).stack = r ∧ (∀ x, t.sv sh x = s.sv sh x) ∧ onlyShuttle sh s t)
  ∧ (∀ (sh : Nat) (s : State), s.runsOn sh 0 = true → (s.shut sh).strs = [] → ∃ t, exec (.halt ⟨sh, false⟩) s = .next t ∧ t.shState sh = stHalted ∧
    t.fld (fSh_STAT_HALT_SRC sh) = 1 ∧ t.shPc sh = (s.shPc sh + 1) % 65536 ∧ t.fld (fSh_EVENT_HALTED sh) = 1 ∧ (t.shut sh).fifos = [] ∧
    (∀ x, t.sv sh x = s.sv sh x) ∧ (∀ m, m ≠ sh → t.shut m = (gateShuttles s).shut m) ∧
    (4 ≤ sh → onlyRegs (fun r => shReg sh r ∨ noteReg r) s t ∧ onlyParts [.sht, .free, .rings, .regs, .out] s t))
  ∧ (∀ (sh : Nat) (s : State), sh < 96 → s.sv sh .tmr ≠ 0 → s.shGated sh = false → ∃ t, exec (.tmrExpiry sh) s = .next t ∧ (t.shut sh).tmr = true ∧
    t.sv sh .tmr = 0 ∧ (∀ x, x ≠ .tmr → t.sv sh x = s.sv sh x) ∧ (∀ m, m ≠ sh → t.shut m = s.shut m) ∧ onlyParts [.sht] s t)
  ∧ (∀ (sh : Nat) (s : State), sh < 4 → s.shState sh = stFault → (s.shut sh).entry < 65536 → ∃ t, exec (.houseRestart sh) s = .next t ∧
    t.shState sh = stRun ∧ t.shPc sh = (s.shut sh).entry ∧ t.reg (rSh_FAULT sh) = 0#32 ∧ t.fld (fSh_EVENT_HOUSE_RESTART sh) = 1 ∧
    (∀ i, t.sv sh (.a i) = 0 ∧ t.sv sh (.d i) = 0) ∧ (t.shut sh).p = (s.shut sh).p ∧ (∀ m, m ≠ sh → t.shut m = (gateShuttles s).shut m) ∧
    onlyRegs (fun r => shReg sh r ∨ noteReg r) s t ∧ onlyParts [.sht, .rings, .regs, .out] s t)
  ∧ (∀ (sh : Nat) (s : State), sh < 96 → 4 ≤ sh → s.shState sh = stRun → s.shGated sh = false → (s.shut sh).strs = [] →
    (∀ (i : Instr) (kind : Nat), (s.runsOn sh 1 = true ∧ i = .alu ⟨sh, false⟩ .add (.acc 4) (.acc 0) 0 ∧ kind = 1 ∨
        classBad (s.pWord sh (s.shPc sh)) = true ∧ i = .halt ⟨sh, false⟩ ∧ kind = 1 ∨
        s.runsOn sh 5 = true ∧ classRepeats (s.pWord sh ((s.shPc sh + 1) % 65536)) = false ∧ i = .rep ⟨sh, false⟩ false 2 ∧ kind = 2 ∨
        s.runsOn sh 6 = true ∧ i = .return_ ⟨sh, false⟩ ∧ (s.shut sh).stack = [] ∧ kind = 3 ∨
        s.runsOn sh 8 = true ∧ (∃ dest d1 d2, dest < 4 ∧ d1 < 8 ∧ d2 < 8 ∧ i = .send ⟨sh, false⟩ dest d1 d2) ∧ kind = 4 ∨
        readsBadWord sh i = true ∧ kind = 5) →
      ∃ t, exec i s = .next t ∧ t.shState sh = stFault ∧ t.fld (fSh_FAULT_KIND sh) = kind ∧ t.fld (fSh_FAULT_FPC sh) = s.shPc sh ∧
        t.shPc sh = s.shPc sh ∧ t.fld (fSh_EVENT_FAULT sh) = 1 ∧ (∀ x, t.sv sh x = s.sv sh x) ∧ (∀ m, m ≠ sh → t.shut m = (gateShuttles s).shut m) ∧
        onlyRegs (fun r => shReg sh r ∨ noteReg r) s t ∧ onlyParts [.sht, .rings, .regs, .out] s t))

/-- Draft commands and resets (R379, R386, R402-R405, R408): DRAFT_RUN of a program that passes its checks makes its channel
run from slot 0 and restarts the check-value channel that snoops it, one of a program that fails completes with its status and
record; DRAFT_ABORT of a draft that wrote no host memory ends it with E_ABORT; a write of SRST resets the DRF registers but HWINw, one of RESTART clears STOPPED. -/
def Obligations.DraftsAreCommanded : Prop :=
  (∀ (h : Hdr) (chan pri len : Nat) (b : List Byte) (s : State), s.takesPf (.draftRun h chan pri len (some b)) = true → s.testing 37 = false → chan < 32 → pri ≤ 3 →
    16 ≤ len → len ≤ 65536 → len % 16 = 0 → s.fld (fDrf_DC_STAT_STATE chan) = 0 → s.on fDrf_STAT_STOPPED = false → len ≤ b.length →
    progStatus (progSlots len b) = none →
    ∃ t, exec (.draftRun h chan pri len (some b)) s = .next t ∧ t.dc chan = { hdr := some h, prog := progSlots len b } ∧
      t.fld (fDrf_DC_STAT_STATE chan) = 1 ∧ t.dcPc chan = 0 ∧ t.fld (fDrf_DC_STAT_PRI chan) = pri ∧
      (∀ n, s.snooper chan = some n → t.ckCh n = ⟨(s.ckPoly n).init, 0⟩) ∧ (∀ n, s.snooper chan ≠ some n → t.ckCh n = s.ckCh n) ∧
      (∀ d, d ≠ chan → t.dc d = s.dc d) ∧ onlyRegs (fun r => r = rDrf_DC_STAT chan ∨ r = rDrf_STAT) s t ∧
      onlyParts [.drf, .ck, .qps, .regs] s t)
  ∧ (∀ (h : Hdr) (chan pri len st : Nat) (b : List Byte) (s : State), s.takesPf (.draftRun h chan pri len (some b)) = true → s.testing 37 = false → chan < 32 → pri ≤ 3 →
    16 ≤ len → len ≤ 65536 → len % 16 = 0 → s.fld (fDrf_DC_STAT_STATE chan) = 0 → s.on fDrf_STAT_STOPPED = false → len ≤ b.length →
    progStatus (progSlots len b) = some st → st ≠ eOk →
    ∃ t, exec (.draftRun h chan pri len (some b)) s = .next t ∧
      completed (answerRec { h with irq := true } st (draftRecord chan ⟨st, 0, 0, 0, s.tb⟩ 0 0 0 [] s)) s t ∧
      onlyRegs complReg s t ∧ onlyParts [.qps, .regs, .out] s t)
  ∧ (∀ (h h0 : Hdr) (chan : Nat) (s : State), s.takesPf (.draftAbort h chan) = true → s.testing 37 = false → chan < 32 → s.dcRuns chan = true →
    (s.dc chan).abort = none → (s.dc chan).hdr = some h0 → (s.dc chan).lastHost = none → h0.qp < 256 → s.bme (s.ownerOf h0.qp) = true →
    ∃ m t, exec (.draftAbort h chan) s = .next t ∧ t.dc chan = {} ∧ t.fld (fDrf_DC_STAT_STATE chan) = 0 ∧
      completed (answerRec { h0 with irq := true } eAbort (draftRecord chan ⟨eAbort, 0, s.dcResidue chan, 0, s.tb⟩ (s.dcPc chan)
        (s.dc chan).stack.length (s.dc chan).bytes ((s.dc chan).stack.reverse.map (·.cnt)) s)) s m ∧
      completed (answer h eOk) m t ∧ (∀ o, o ∈ m.host.out → o ∈ t.host.out) ∧ (∀ d, d ≠ chan → t.dc d = s.dc d) ∧
      onlyRegs (fun r => r = rDrf_DC_STAT chan ∨ r = rDrf_STAT ∨ r.blk = .ck ∨ complReg r) s t ∧ onlyParts [.drf, .qps, .regs, .out] s t)
  ∧ (∀ (v : W32) (s : State), s.awake = true → s.testing 37 = false → v.getLsbD 0 = true → v.getLsbD 1 = false →
    s.fld fDrf_STAT_RUNNING = 0 → ∃ t, exec (.drfSrst v) s = .next t ∧
      (∀ r, r.blk = .drf → (r.off < 0x100 ∨ 0x140 ≤ r.off ∧ r.off < 0x200) → t.reg r = regReset r) ∧
      (∀ d, s.fld (fDrf_DC_STAT_STATE d) = 0 → t.reg (rDrf_DC_STAT d) = 0#32) ∧
      onlyRegs (fun r => r.blk = .drf ∧ (r.off < 0x100 ∨ 0x140 ≤ r.off)) s t ∧ onlyParts [.regs, .hiLatch, .capt, .loHeld] s t)
  ∧ (∀ (v : W32) (s : State), s.awake = true → s.testing 37 = false → v.getLsbD 0 = false → v.getLsbD 1 = true →
    exec (.drfRestart v) s = .next (s.setFld fDrf_STAT_STOPPED 0))

/-- The instructions of a draft (R391-R393, R396): MOVE and FILL that pass the checks of R397 start their transfer at
the addresses that the loop stack moves; LOOP repeats its body COUNT times and then goes on; SIGNAL sets its flag,
hands a message to its shuttle or writes its value to host memory; the next slot follows. WAIT holds its channel
(R394, R395): the channel waits; when the condition holds it proceeds to the next slot, and a WAIT with CLEAR on a
flag clears it; with a time limit and the condition not holding the draft ends with E_TIMEOUT. -/
def Obligations.DraftInstructions : Prop :=
  (∀ (chan : Nat) (b : List Byte) (s : State), s.dcSlot chan 1 = some b → (field b 0 1).testBit 6 = false →
    rowFail (xferChecks chan (moveXfer (s.dc chan) b) s) = none →
    exec (.move chan) s = .next (s.setDc chan { s.dc chan with xfer := some ⟨some (dAdd (field b 4 6) (s.dc chan).sums.1),
      dAdd (field b 10 6) (s.dc chan).sums.2, field b 1 3, 0, 0, (field b 0 1).testBit 4, (field b 0 1).testBit 5, []⟩ }))
  ∧ (∀ (chan : Nat) (b : List Byte) (s : State), s.dcSlot chan 2 = some b → rowFail (xferChecks chan (fillXfer (s.dc chan) b) s) = none →
    exec (.fill chan) s = .next (s.setDc chan { s.dc chan with xfer := some ⟨none, dAdd (field b 2 6) (s.dc chan).sums.2, field b 8 5, 0,
      field b 13 1, false, false, []⟩ }))
  ∧ (∀ (chan : Nat) (b : List Byte) (s : State), s.dcSlot chan 3 = some b → (∀ l ∈ (s.dc chan).stack.head?, l.slot ≠ s.dcPc chan) →
    2 ≤ field b 4 2 → (s.dc chan).stack.length < 4 →
    ∃ t, exec (.loop chan) s = .next t ∧
      (t.dc chan).stack = ⟨s.dcPc chan, 2, signed 32 (field b 8 4), signed 32 (field b 12 4)⟩ :: (s.dc chan).stack ∧
      t.dcPc chan = field b 2 2 % 4096 ∧ t.fld (fDrf_DC_STAT_DEPTH chan) = (s.dc chan).stack.length + 1 ∧
      (∀ d, d ≠ chan → t.dc d = s.dc d) ∧ onlyRegs (fun r => r = rDrf_DC_STAT chan) s t ∧ onlyParts [.drf, .regs] s t)
  ∧ (∀ (chan : Nat) (b : List Byte) (l : DraftLvl) (r : List DraftLvl) (s : State), s.dcSlot chan 3 = some b → (s.dc chan).stack = l :: r →
    l.slot = s.dcPc chan → l.cnt < field b 4 2 →
    ∃ t, exec (.loop chan) s = .next t ∧ (t.dc chan).stack =
        { l with cnt := l.cnt + 1, src := l.src + signed 32 (field b 8 4), dst := l.dst + signed 32 (field b 12 4) } :: r ∧
      t.dcPc chan = field b 2 2 % 4096 ∧ (∀ d, d ≠ chan → t.dc d = s.dc d) ∧ onlyRegs (fun x => x = rDrf_DC_STAT chan) s t ∧
      onlyParts [.drf, .regs] s t)
  ∧ (∀ (chan : Nat) (b : List Byte) (l : DraftLvl) (r : List DraftLvl) (s : State), s.dcSlot chan 3 = some b → (s.dc chan).stack = l :: r →
    l.slot = s.dcPc chan → field b 4 2 ≤ l.cnt → r.length < 8 →
    ∃ t, exec (.loop chan) s = .next t ∧ (t.dc chan).stack = r ∧ t.dcPc chan = (s.dcPc chan + 1) % 4096 ∧
      t.fld (fDrf_DC_STAT_DEPTH chan) = r.length ∧ (∀ d, d ≠ chan → t.dc d = s.dc d) ∧ onlyRegs (fun x => x = rDrf_DC_STAT chan) s t ∧
      onlyParts [.drf, .regs] s t)
  ∧ (∀ (chan : Nat) (b : List Byte) (s : State), s.dcSlot chan 5 = some b → field b 1 1 = 0 → field b 2 1 < 32 →
    ∃ t, exec (.signal chan) s = .next t ∧ (t.reg rDrf_FLAG) = s.reg rDrf_FLAG ||| BitVec.ofNat 32 (2 ^ field b 2 1) ∧
      t.dcPc chan = (s.dcPc chan + 1) % 4096 ∧ onlyRegs (fun r => r = rDrf_DC_STAT chan ∨ r = rDrf_FLAG) s t ∧ onlyParts [.regs] s t)
  ∧ (∀ (chan : Nat) (b : List Byte) (s : State), s.dcSlot chan 5 = some b → field b 1 1 = 1 → 4 ≤ field b 2 1 → field b 2 1 ≤ 95 →
    s.testing (24 + field b 2 1 / 8) = false → (s.shut (field b 2 1)).mbox.length < 16 → s.shState (field b 2 1) ≠ stOff →
    ∃ t, exec (.signal chan) s = .next t ∧ (t.shut (field b 2 1)).mbox = (s.shut (field b 2 1)).mbox ++ [(field b 4 3, field b 8 3)] ∧
      t.dcPc chan = (s.dcPc chan + 1) % 4096 ∧ (∀ m, m ≠ field b 2 1 → t.shut m = s.shut m) ∧
      onlyRegs (fun r => r = rDrf_DC_STAT chan ∨ r = rSh_MBOX (field b 2 1)) s t ∧ onlyParts [.sht, .regs] s t)
  ∧ (∀ (chan : Nat) (b : List Byte) (s : State), s.dcSlot chan 5 = some b → field b 1 1 = 2 →
    rowFail (signalChecks b (dAdd (field b 8 6) (s.dc chan).sums.2) s) = none → s.bme 0 = true →
    ∃ t, exec (.signal chan) s = .next t ∧
      t.host.out = .hostWrite (s.busAddr (dAdd (field b 8 6) (s.dc chan).sums.2)) ((b.drop 4).take 4) :: s.host.out ∧
      (t.dc chan).lastHost = some (s.busAddr (dAdd (field b 8 6) (s.dc chan).sums.2)) ∧ t.dcPc chan = (s.dcPc chan + 1) % 4096 ∧
      (∀ d, d ≠ chan → t.dc d = s.dc d) ∧ onlyRegs (fun r => r = rDrf_DC_STAT chan) s t ∧ onlyParts [.drf, .regs, .out] s t)
  ∧ (∀ (chan : Nat) (b : List Byte) (s : State), chan < 32 → s.dcSlot chan 4 = some b → ∃ t, exec (.draftWait chan) s = .next t ∧
    t.fld (fDrf_DC_STAT_STATE chan) = 2 ∧ t.dcPc chan = s.dcPc chan ∧ (t.dc chan).waitAt = s.up ∧
    (field b 4 4 = 0 → (t.dc chan).hit = false) ∧ (∀ d, d ≠ chan → t.dc d = s.dc d) ∧
    onlyRegs (fun r => r = rDrf_DC_STAT chan ∨ r = rDrf_STAT) s t ∧ onlyParts [.drf, .regs] s t)
  ∧ (∀ (chan f : Nat) (b : List Byte) (s : State), chan < 32 → s.dcWait chan = some b → field b 1 1 = 1 → field b 2 1 = f → f < 32 →
    (s.reg rDrf_FLAG).getLsbD f = true → (∀ e, e < chan → s.dcWait e = none) →
    ∃ t, exec (.draftWaitDone chan) s = .next t ∧ t.fld (fDrf_DC_STAT_STATE chan) = 1 ∧ t.dcPc chan = (s.dcPc chan + 1) % 4096 ∧
      (t.reg rDrf_FLAG).getLsbD f = !(field b 3 1).testBit 0 ∧ (∀ g, g ≠ f → (t.reg rDrf_FLAG).getLsbD g = (s.reg rDrf_FLAG).getLsbD g) ∧
      (∀ d, d ≠ chan → t.dc d = s.dc d) ∧ onlyRegs (fun r => r = rDrf_DC_STAT chan ∨ r = rDrf_STAT ∨ r = rDrf_FLAG) s t ∧
      onlyParts [.drf, .regs] s t)
  ∧ (∀ (chan : Nat) (b : List Byte) (s : State), chan < 32 → s.dcWait chan = some b →
    (field b 1 1 = 2 ∨ field b 1 1 = 0 ∧ (s.dc chan).hit = true ∨ field b 1 1 = 3 ∧ (s.reg rDrf_SHFLAG).getLsbD chan = true) →
    ∃ t, exec (.draftWaitDone chan) s = .next t ∧ t.fld (fDrf_DC_STAT_STATE chan) = 1 ∧ t.dcPc chan = (s.dcPc chan + 1) % 4096 ∧
      (t.reg rDrf_SHFLAG).getLsbD chan = ((s.reg rDrf_SHFLAG).getLsbD chan && field b 1 1 != 3) ∧ (∀ d, d ≠ chan → t.dc d = s.dc d) ∧
      onlyRegs (fun r => r = rDrf_DC_STAT chan ∨ r = rDrf_STAT ∨ r = rDrf_SHFLAG) s t ∧ onlyParts [.drf, .regs] s t)
  ∧ (∀ (chan : Nat) (b : List Byte) (h : Hdr) (s : State), chan < 32 → s.dcWait chan = some b → field b 8 4 ≠ 0 → s.waitHolds chan b = false →
    (s.dc chan).lastHost = none → (s.dc chan).hdr = some h → (s.dc chan).abort = none → (s.dc chan).xfer = none → h.qp < 256 →
    s.bme (s.ownerOf h.qp) = true →
    ∃ t, exec (.draftWaitTimeout chan) s = .next t ∧ t.dc chan = {} ∧ t.fld (fDrf_DC_STAT_STATE chan) = 0 ∧
      completed (answerRec { h with irq := true } eTimeout (draftRecord chan ⟨eTimeout, 0, s.dcResidue chan, 0, s.tb⟩ (s.dcPc chan)
        (s.dc chan).stack.length (s.dc chan).bytes ((s.dc chan).stack.reverse.map (·.cnt)) s)) s t ∧
      (∀ d, d ≠ chan → t.dc d = s.dc d) ∧
      onlyRegs (fun r => r = rDrf_DC_STAT chan ∨ r = rDrf_STAT ∨ r.blk = .ck ∨ complReg r) s t ∧ onlyParts [.drf, .qps, .regs, .out] s t)

/-- Bursts and the end of a draft (R398-R404): a burst that its ranges still permit (R397) writes the bytes of a FILL and the
transfer moves on, one of a MOVE reads them first; one that reads a shuttle's word with wrong parity ends the draft with E_MEDIA; a draft that wrote host memory is read back before its record leaves, one that did not ends at once; an
error of a host access ends every running channel with E_BUS and stops the engine. -/
def Obligations.DraftBurstsAndEnds : Prop :=
  (∀ (d : Nat) (ready : List Nat) (host : List Byte) (par : Bool) (x : DraftXfer) (s : State), pickBurst ready s = some d →
    (s.dc d).xfer = some x → rowFail (burstChecks d x (s.burstLen x) s) = none →
    dSpace x.dst = 0 → x.cka = false → x.cks = false → x.pos + s.burstLen x < x.len →
    (x.src = none ∨ ∃ a, x.src = some a ∧ dSpace a = 0 ∧ s.snooper d = none) →
    ∃ t l, exec (.burstIssue ready ⟨host, par⟩) s = .next t ∧ l.length = s.burstLen x ∧
      (x.src = none → l = List.replicate (s.burstLen x) (BitVec.ofNat 8 x.pattern)) ∧ (x.src ≠ none → l = padTo (s.burstLen x) (host.take (s.burstLen x))) ∧
      .hostWrite (s.busAddr x.dst + x.pos) l ∈ t.host.out ∧
      (t.dc d).xfer = some { x with pos := x.pos + s.burstLen x } ∧ (t.dc d).bytes = (s.dc d).bytes + s.burstLen x ∧
      (t.dc d).lastHost = some (s.busAddr x.dst + x.pos + s.burstLen x - 4) ∧ (t.dc d).stack = (s.dc d).stack ∧
      (∀ e, e ≠ d → t.dc e = s.dc e) ∧ onlyParts [.drf, .out] s t)
  ∧ (∀ (d a : Nat) (h : Hdr) (ready : List Nat) (host : List Byte) (x : DraftXfer) (s : State), d < 32 → pickBurst ready s = some d →
    (s.dc d).xfer = some x → rowFail (burstChecks d x (s.burstLen x) s) = none → x.src = some a → dSpace a = 2 → (s.dc d).hdr = some h →
    (s.dc d).abort = none → (s.dc d).lastHost = none → h.qp < 256 → s.bme (s.ownerOf h.qp) = true →
    ∃ t, exec (.burstIssue ready ⟨host, true⟩) s = .next t ∧ t.dc d = {} ∧ t.fld (fDrf_DC_STAT_STATE d) = 0 ∧
      completed (answerRec { h with irq := true } eMedia (draftRecord d ⟨eMedia, 0, x.len - x.pos - s.burstLen x, s.burstLen x, s.tb⟩ (s.dcPc d)
        (s.dc d).stack.length (s.dc d).bytes ((s.dc d).stack.reverse.map (·.cnt)) s)) s t ∧ (∀ e, e ≠ d → t.dc e = s.dc e) ∧
      onlyRegs (fun r => r = rDrf_DC_STAT d ∨ r = rDrf_STAT ∨ r.blk = .ck ∨ complReg r) s t ∧ onlyParts [.drf, .qps, .regs, .out] s t)
  ∧ (∀ (chan : Nat) (h : Hdr) (b : List Byte) (s : State), chan < 32 → s.dcSlot chan 6 = some b → (s.dc chan).hdr = some h →
    (s.dc chan).abort = none → (s.dc chan).lastHost = none → h.qp < 256 → s.bme (s.ownerOf h.qp) = true →
    ∃ t, exec (.end_ chan) s = .next t ∧ t.dc chan = {} ∧ t.fld (fDrf_DC_STAT_STATE chan) = 0 ∧
      completed (answerRec h eOk (draftRecord chan ⟨eOk, 0, 0, 0, s.tb⟩ (s.dcPc chan) (s.dc chan).stack.length (s.dc chan).bytes
        ((s.dc chan).stack.reverse.map (·.cnt)) s)) s t ∧ (∀ d, d ≠ chan → t.dc d = s.dc d) ∧
      onlyRegs (fun r => r = rDrf_DC_STAT chan ∨ r = rDrf_STAT ∨ r.blk = .ck ∨ complReg r) s t ∧ onlyParts [.drf, .qps, .regs, .out] s t)
  ∧ (∀ (chan a : Nat) (b : List Byte) (s : State), chan < 32 → s.dcSlot chan 6 = some b → (s.dc chan).lastHost = some a →
    ∃ t, exec (.end_ chan) s = .next t ∧ t.host.out = (if s.bme 0 then [.hostRead 0 a 4] else []) ++ s.host.out ∧
      t.fld (fDrf_DC_STAT_STATE chan) = 3 ∧ t.dc chan = { s.dc chan with ended := some ⟨eOk, 0, 0, 0, s.tb⟩, rbWaits := !s.bme 0 } ∧ (∀ d, d ≠ chan → t.dc d = s.dc d) ∧
      onlyRegs (fun r => r = rDrf_DC_STAT chan ∨ r = rDrf_STAT) s t ∧ onlyParts [.drf, .regs, .out] s t)
  ∧ (∀ (chan : Nat) (h : Hdr) (e : DraftEnd) (s : State), chan < 32 → (s.dc chan).ended = some e → (s.dc chan).rbWaits = false → (s.dc chan).hdr = some h →
    (s.dc chan).abort = none → h.qp < 256 → s.bme (s.ownerOf h.qp) = true →
    ∃ t, exec (.readbackDone chan true) s = .next t ∧ t.dc chan = {} ∧ t.fld (fDrf_DC_STAT_STATE chan) = 0 ∧
      completed (answerRec { h with irq := h.irq || e.status != eOk } e.status (draftRecord chan e (s.dcPc chan) (s.dc chan).stack.length
        (s.dc chan).bytes ((s.dc chan).stack.reverse.map (·.cnt)) s)) s t ∧ (∀ d, d ≠ chan → t.dc d = s.dc d) ∧
      onlyRegs (fun r => r = rDrf_DC_STAT chan ∨ r = rDrf_STAT ∨ r.blk = .ck ∨ complReg r) s t ∧ onlyParts [.drf, .qps, .regs, .out] s t)
  ∧ (∀ (chan addr : Nat) (h : Hdr) (x : DraftXfer) (s : State), chan < 32 → s.dcRuns chan = true → (s.dc chan).xfer = some x → dSpace x.dst = 0 →
    (s.dc chan).hdr = some h → (s.dc chan).abort = none → h.qp < 256 → s.bme (s.ownerOf h.qp) = true → addr < 2 ^ 64 →
    ∃ t, exec (.draftBusError chan addr) s = .next t ∧ t.on fDrf_STAT_STOPPED = true ∧ t.pair rDrf_ERR_ADDR_LO rDrf_ERR_ADDR_HI = addr ∧
      t.on fDrf_EVENT_BUS_STOP = true ∧ (∀ d, d < 32 → s.dcRuns d = true → t.fld (fDrf_DC_STAT_STATE d) = 0 ∧ t.dc d = {}) ∧
      (∀ d, d < 32 → s.dcRuns d = false → t.dc d = s.dc d) ∧
      ((∀ d, d < 32 → d ≠ chan → s.dcRuns d = false) →
        completed (answerRec { h with irq := true } eBus (draftRecord chan ⟨eBus, if x.len - x.pos - s.burstLen x = 0 then 3 else 2,
          x.len - x.pos - s.burstLen x, s.burstLen x, s.tb⟩ (s.dcPc chan) (s.dc chan).stack.length (s.dc chan).bytes
          ((s.dc chan).stack.reverse.map (·.cnt)) s)) s t) ∧
      onlyRegs (fun r => r.blk = .drf ∨ r.blk = .ck ∨ complReg r ∨ noteReg r) s t ∧
      onlyParts [.drf, .qps, .rings, .held, .free, .cfg, .regs, .out] s t)

/-- The check-value channels (R406-R410): enabling one puts it at its code's Init value with no counts; host data feeds it,
whole words or the low bytes of a tail; FINAL makes its value ready and restarts it. -/
def Obligations.CheckValuesAreKept : Prop :=
  (∀ (n : Nat) (v : W32) (s : State), s.awake = true → n < 16 → v.getLsbD 31 = true → v.getLsbD 30 = false → s.on (fCk_CTL_EN n) = false →
    ckCtlCheck n v s = none →
    ∃ t, exec (.ckEnable n v) s = .next t ∧ t.reg (rCk_CTL n) = v &&& 0xA0001F37#32 ∧ t.reg (rCk_CNT n) = 0#32 ∧
      t.ckCh n = ⟨(crcPolys.getD (bits v 2 0) default).init, 0⟩ ∧ (∀ m, m ≠ n → t.ckCh m = s.ckCh m) ∧
      onlyRegs (fun r => r = rCk_CTL n ∨ r = rCk_CNT n) s t ∧ onlyParts [.ck, .regs] s t)
  ∧ (∀ (n : Nat) (v : W32) (s : State), s.awake = true → n < 16 → s.testing 38 = false → s.ckShut n = false →
    ∃ t, exec (.ckData n v) s = .next t ∧
      t.ckCh n = ⟨crcFeed (s.ckPoly n) (s.ckCh n).crc [v.extractLsb' 0 8, v.extractLsb' 8 8, v.extractLsb' 16 8, v.extractLsb' 24 8],
        (s.ckCh n).fed + 4⟩ ∧ (∀ m, m ≠ n → t.ckCh m = s.ckCh m) ∧ onlyParts [.ck] s t)
  ∧ (∀ (n : Nat) (v : W32) (s : State), s.awake = true → n < 16 → s.testing 38 = false → s.ckShut n = false → bits v 25 24 ≠ 0 →
    ∃ t, exec (.ckDataTail n v) s = .next t ∧
      t.ckCh n = ⟨crcFeed (s.ckPoly n) (s.ckCh n).crc ([v.extractLsb' 0 8, v.extractLsb' 8 8, v.extractLsb' 16 8].take (bits v 25 24)),
        (s.ckCh n).fed + bits v 25 24⟩ ∧ (∀ m, m ≠ n → t.ckCh m = s.ckCh m) ∧ onlyParts [.ck] s t)
  ∧ (∀ (n : Nat) (v : W32) (s : State), s.awake = true → n < 16 → s.on (fCk_CTL_EN n) = true → v.getLsbD 31 = true → v.getLsbD 30 = true →
    bits v 2 0 = s.fld (fCk_CTL_POLY n) → ckCtlCheck n v s = none →
    ∃ t, exec (.ckFinal n v) s = .next t ∧ t.reg (rCk_RES_VAL n) = BitVec.ofNat 32 (s.ckValue n) ∧
      t.fld (fCk_RES_STAT_COUNT n) = min (2 ^ 30 - 1) (s.ckCh n).fed ∧ t.on (fCk_RES_STAT_VALID n) = true ∧ t.on (fCk_RES_STAT_FRESH n) = true ∧
      t.ckCh n = ⟨(s.ckPoly n).init, 0⟩ ∧ (∀ m, m ≠ n → t.ckCh m = s.ckCh m) ∧
      onlyRegs (fun r => r = rCk_CTL n ∨ r = rCk_RES_VAL n ∨ r = rCk_RES_STAT n) s t ∧ onlyParts [.ck, .regs] s t)

/-- The monitor (R414-R416, R418-R424): a trigger's round waits with the inputs enabled then, at most two, a third counts as
an overrun; a round gives each enabled input its corrected code; a channel that has its R inputs puts them through the
CIC and shows the shifted output; a threshold passed CNT times in a row trips the outputs that the channel names. -/
def Obligations.TheMonitorConverts : Prop :=
  (∀ (s : State), s.on fMon_SEQ_CTL_EN = true → s.trigOn .timer = true → s.mon.trigs = [] → s.fld fMon_SEQ_CTL_DELAY = 0 → s.mon.rounds.length < 2 →
    exec (.seqTrigger .timer) s = .next { s with mon := { s.mon with rounds := s.mon.rounds ++ [s.reg rMon_SEQ_MASK] } })
  ∧ (∀ (g : MonTrig) (s : State), g = .timer ∨ (∃ n, g = .htrFall n) → s.on fMon_SEQ_CTL_EN = true → s.trigOn g = true → s.mon.trigs = [] →
    s.fld fMon_SEQ_CTL_DELAY ≠ 0 → exec (.seqTrigger g) s =
      .next { s with mon := { s.mon with trigs := [(g, s.reg rMon_SEQ_MASK, s.up + monCycles (s.fld fMon_SEQ_CTL_DELAY))] } })
  ∧ (∀ (g : MonTrig) (mask : W32) (due : Nat) (s : State), g ≠ .timer → (∀ n, g ≠ .htrFall n) → s.mon.trigs = [(g, mask, due)] → s.mon.rounds.length < 2 →
    exec (.seqTrigger g) s = .next { s with mon := { s.mon with rounds := s.mon.rounds ++ [mask], trigs := [] } })
  ∧ (∀ (s : State), s.on fMon_SEQ_CTL_EN = true → s.trigOn .timer = true → s.mon.trigs = [] → s.fld fMon_SEQ_CTL_DELAY = 0 → 2 ≤ s.mon.rounds.length →
    ∃ t, exec (.seqTrigger .timer) s = .next t ∧ t.fld fMon_SEQ_STAT_OVERRUN = min 65535 (s.fld fMon_SEQ_STAT_OVERRUN + 1) ∧
      t.on fMon_EVENT_OVERRUN = true ∧ onlyRegs (fun r => r = rMon_SEQ_STAT ∨ r = rMon_EVENT ∨ noteReg r) s t ∧
      onlyParts [.rings, .regs, .out] s t)
  ∧ (∀ (volts : List Int) (ow ref : Int × Int) (mask : W32) (r : List W32) (s : State), s.mon.trigs = [] → s.mon.rounds = mask :: r → s.mon.goal = none →
    s.mon.owRun + 1 < s.fld fMon_OW_CFG_OW_DIV → s.on fMon_CAL_CTL_EN = false → s.mon.pairs = 0 →
    ∃ t, exec (.round volts ow ref) s = .next t ∧ t.mon.rounds = r ∧
      t.fld fMon_SEQ_STAT_ROUNDS = (s.fld fMon_SEQ_STAT_ROUNDS + 1) % 65536 ∧
      (∀ i, i < 16 → mask.getLsbD i = true → t.fld (fMon_RAW_CODE i) = s.corrected (adcCode (volts.getD i 0)) ∧
        t.on (fMon_RAW_VALID i) = true ∧ t.on (fMon_RAW_FRESH i) = true ∧
        (s.on (fCh_CFG_EN i) = true → (Tab.get {} t.mon.ch i).inp =
          (Tab.get {} s.mon.ch i).inp ++ [(s.corrected (adcCode (volts.getD i 0)) : Int)])) ∧
      (∀ i, i < 16 → mask.getLsbD i = false → t.reg (rMon_RAW i) = s.reg (rMon_RAW i)) ∧
      onlyRegs (fun x => x = rMon_SEQ_STAT ∨ ∃ i, i < 16 ∧ x = rMon_RAW i) s t ∧ onlyParts [.mon, .regs] s t)
  ∧ (∀ (c : Nat) (s : State), c < 4 → s.on (fCh_CFG_EN c) = true → s.on (fCh_CFG_RS_EN c) = false →
    (Tab.get {} s.mon.ch c).inp.length = s.fld (fCh_CFG_DECIM c) → s.on (fCh_ACT_HI_EN c) = false → s.on (fCh_ACT_LO_EN c) = false →
    (Tab.get {} s.mon.ch c).ints.length = s.fld (fCh_CFG_ORDER c) + 3 → (Tab.get {} s.mon.ch c).combs.length = s.fld (fCh_CFG_ORDER c) + 3 →
    ∀ (x y : Int), (cicOut (Tab.get {} s.mon.ch c).combs
        (((Tab.get {} s.mon.ch c).inp.foldl cicIn (Tab.get {} s.mon.ch c).ints).getLastD 0)).2 = x →
      stageShift (s.fld (fCh_CFG_SHIFT_CIC c)) x = (y, false) →
    ∃ t, exec (.channelOutput c []) s = .next t ∧ t.sfld (fCh_OUT_VALUE c) = y ∧ t.on (fCh_OUT_VALID c) = true ∧
      t.on (fCh_OUT_FRESH c) = true ∧ (Tab.get {} t.mon.ch c).inp = [] ∧
      (∀ d, d ≠ c → Tab.get {} t.mon.ch d = Tab.get {} s.mon.ch d) ∧ onlyRegs (fun r => r = rCh_OUT c) s t ∧ onlyParts [.mon, .regs] s t)
  ∧ (∀ (c : Nat) (x : Int) (s : State), c < 4 → s.on (fCh_CFG_EN c) = true → s.on (fCh_CFG_RS_EN c) = false →
    (Tab.get {} s.mon.ch c).inp = List.replicate (s.fld (fCh_CFG_DECIM c)) x → s.fld (fCh_CFG_DECIM c) = 1 → s.fld (fCh_CFG_ORDER c) = 0 →
    (Tab.get {} s.mon.ch c).ints = [0, 0, 0] → (Tab.get {} s.mon.ch c).combs = [0, 0, 0] → s.fld (fCh_CFG_SHIFT_CIC c) = 0 →
    s.on (fCh_ACT_HI_EN c) = true → s.on (fCh_ACT_LO_EN c) = false → s.sfld (fCh_HI_HI c) < x → x < 8388608 →
    s.fld (fCh_ACT_CNT c) ≤ (Tab.get {} s.mon.ch c).hi + 1 → (Tab.get {} s.mon.ch c).hiDone = false → s.pState < 2 → s.on fPwr_STATE_TRANS = false →
    ∃ t, exec (.channelOutput c []) s = .next t ∧ t.sfld (fCh_OUT_VALUE c) = x ∧ (t.reg rMon_TRIP).getLsbD c = true ∧
      t.on fMon_EVENT_TRIP = true ∧
      (∀ n, n < 16 → (s.fld (fCh_ACT_BIAS_MASK c)).testBit n = true → t.biasTripped n = true ∧
        biasOut n (s.actFld (fBias_CODE_SPAN n)) none ∈ t.host.out) ∧
      (∀ n, n < 8 → (s.fld (fCh_ACT_HTR_MASK c)).testBit n = true → (t.reg rBias_TRIP).getLsbD (16 + n) = true ∧ htrPin n false ∈ t.host.out) ∧
      onlyRegs (fun r => r = rCh_OUT c ∨ r = rMon_TRIP ∨ r = rMon_EVENT ∨ r = rBias_TRIP ∨ r = rBias_EVENT ∨ noteReg r) s t ∧
      onlyParts [.mon, .bias, .rings, .regs, .out] s t)

/-- Bias outputs and heaters (R425-R433, R437): arming a group waits for its hand-over, which makes the shadow settings
of its channels active, drives them and counts; a heater's DUTY and PERIOD come into use at its period's start; a fault of
a channel is flagged and, where FAULT_OFF says so, forces the output safe; a reset drives every output safe. -/
def Obligations.BiasOutputsFollow : Prop :=
  (∀ (g : Nat) (v : W32) (s : State), s.awake = true → g < 4 → v.getLsbD 31 = true → bits v 25 24 ≠ 3 → s.spanBad g = false →
    ∃ t, exec (.biasArm g v) s = .next t ∧ t.on (fBias_GRP_ARM g) = true ∧ t.fld (fBias_GRP_SRC g) = bits v 25 24 ∧
      t.fld (fBias_GRP_STK g) = bits v 17 16 ∧ t.fld (fBias_GRP_LOAD_SEQ g) = s.fld (fBias_GRP_LOAD_SEQ g) ∧
      onlyRegs (fun r => r = rBias_GRP g) s t ∧ onlyParts [.regs] s t)
  ∧ (∀ (c : Instr) (g : Nat) (s : State), g < 4 → s.on (fBias_GRP_ARM g) = true →
    (c = .biasHandover g ∧ s.fld (fBias_GRP_SRC g) = 0 ∨ c = .biasLoadEdge ∧ s.fld (fBias_GRP_SRC g) = 1 ∧
      ∀ h, h < 4 → h ≠ g → s.on (fBias_GRP_ARM h) = false) →
    ∃ t, exec c s = .next t ∧ t.on (fBias_GRP_ARM g) = false ∧ t.fld (fBias_GRP_LOAD_SEQ g) = (s.fld (fBias_GRP_LOAD_SEQ g) + 1) % 256 ∧
      (∀ n, n < 16 → s.biasGroup n = g → Tab.get (regReset (rBias_CODE n)) t.act (rBias_CODE n) = s.reg (rBias_CODE n) ∧
        (s.biasTripped n = false → biasOut n (s.fld (fBias_CODE_SPAN n))
          (if s.on (fBias_CODE_EN n) then some (s.fld (fBias_CODE_CODE n)) else none) ∈ t.host.out)) ∧
      (∀ r, (∀ n, n < 16 → s.biasGroup n = g → r ≠ rBias_CODE n) → Tab.get (regReset r) t.act r = Tab.get (regReset r) s.act r) ∧
      onlyRegs (fun r => r = rBias_GRP g ∨ c = .biasLoadEdge ∧ ∃ h, h < 4 ∧ s.fld (fBias_GRP_SRC h) = 1 ∧ r = rBias_GRP h) s t ∧
      onlyParts [.act, .mon, .bias, .thm, .regs, .out] s t)
  ∧ (∀ (v : W32) (s : State), s.awake = true → ∃ t, exec (.htrEnable v) s = .next t ∧ t.fld fBias_HTR_EN_EN = bits v 7 0 ∧
    (∀ n, n < 8 → v.getLsbD n = true → (s.reg rBias_HTR_EN).getLsbD n = false →
      Tab.find t.bias.htr n = some (s.fld (fBias_HTR_DUTY n), s.fld (fBias_HTR_PERIOD n)) ∧
      .heater n (if (s.reg rBias_TRIP).getLsbD (16 + n) then 0 else min (s.fld (fBias_HTR_DUTY n)) (s.fld (fBias_HTR_PERIOD n)))
        (s.fld (fBias_HTR_PERIOD n)) ∈ t.host.out) ∧
    (∀ n, n < 8 → v.getLsbD n = false → (s.reg rBias_HTR_EN).getLsbD n = true → Tab.find t.bias.htr n = none ∧ htrPin n false ∈ t.host.out) ∧
    (∀ n, n < 8 → v.getLsbD n = (s.reg rBias_HTR_EN).getLsbD n → Tab.find t.bias.htr n = Tab.find s.bias.htr n) ∧
    onlyRegs (fun r => r = rBias_HTR_EN) s t ∧ onlyParts [.mon, .bias, .regs, .out] s t)
  ∧ (∀ (n : Nat) (s : State), n < 8 → (s.reg rBias_HTR_EN).getLsbD n = true → ∃ t, exec (.htrPeriod n) s = .next t ∧
    Tab.find t.bias.htr n = some (s.fld (fBias_HTR_DUTY n), s.fld (fBias_HTR_PERIOD n)) ∧
    t.host.out = .heater n (if (s.reg rBias_TRIP).getLsbD (16 + n) then 0 else min (s.fld (fBias_HTR_DUTY n)) (s.fld (fBias_HTR_PERIOD n)))
      (s.fld (fBias_HTR_PERIOD n)) :: s.host.out ∧
    (∀ m, m ≠ n → Tab.find t.bias.htr m = Tab.find s.bias.htr m) ∧ onlyParts [.mon, .bias, .out] s t)
  ∧ (∀ (n : Nat) (headroom : Bool) (s : State), n < 8 → (s.reg rBias_FAULT).getLsbD (if headroom then 8 + n else n) = false →
    (headroom = false → 64 ≤ s.actFld (fBias_CODE_CODE n)) →
    ∃ t, exec (.biasFault n headroom true) s = .next t ∧ (t.reg rBias_FAULT).getLsbD (if headroom then 8 + n else n) = true ∧
      t.on fBias_EVENT_COMPL = true ∧
      (s.on (fBias_CFG_FAULT_OFF n) = true → t.biasTripped n = true ∧ biasOut n (s.actFld (fBias_CODE_SPAN n)) none ∈ t.host.out) ∧
      (s.on (fBias_CFG_FAULT_OFF n) = false → t.reg rBias_TRIP = s.reg rBias_TRIP ∧ t.bias = s.bias) ∧
      onlyRegs (fun r => r = rBias_FAULT ∨ r = rBias_TRIP ∨ r = rBias_EVENT ∨ noteReg r) s t ∧ onlyParts [.bias, .rings, .regs, .out] s t)
  ∧ (∀ (n : Nat) (headroom : Bool) (s : State), n < 8 → ∃ t, exec (.biasFault n headroom false) s = .next t ∧
    (t.reg rBias_FAULT).getLsbD (if headroom then 8 + n else n) = false ∧ onlyRegs (fun r => r = rBias_FAULT) s t ∧ onlyParts [.regs] s t)
  ∧ (∀ (v : W32) (s : State), s.awake = true → v.getLsbD 0 = true → ∃ t, exec (.biasSrst v) s = .next t ∧
    (∀ r, r.blk = .bias → t.reg r = regReset r ∧ Tab.get (regReset r) t.act r = regReset r) ∧ t.bias = { modInt := s.bias.modInt } ∧
    (∀ n, n < 16 → biasOut n (s.actFld (fBias_CODE_SPAN n)) none ∈ t.host.out) ∧ (∀ n, n < 8 → htrPin n false ∈ t.host.out) ∧
    onlyRegs (fun r => r.blk = .bias) s t ∧ onlyParts [.bias, .act, .thm, .regs, .hiLatch, .capt, .loHeld, .out] s t)

/-- Module management and the monitor's reset (R434-R438): GO starts a transaction with its bytes, whose end gives its
status, its byte count and the bytes read; MOD_INT follows its ball; SRST resets every MON register but CAL_CTL and
CAL_REF and drives MOD_RST_N low. -/
def Obligations.ModulesAreManaged : Prop :=
  (∀ (n : Nat) (v : W32) (s : State), s.awake = true → n < 8 → v.getLsbD 31 = true → s.on (fMgt_STAT_BUSY n) = false →
    1 ≤ bits v 7 0 → bits v 7 0 ≤ 128 → bits v 30 29 ≠ 3 → bits v 28 27 ≠ 3 →
    ∃ t, exec (.mgtGo n v) s = .next t ∧ t.reg (rMgt_CTL n) = v &&& 0x787FFFFF#32 ∧ t.on (fMgt_STAT_BUSY n) = true ∧
      t.mon = { s.mon with mgt := Tab.set s.mon.mgt n v } ∧
      t.host.out = .mgt n (bits v 28 27) (mgtSteps v (s.mgtBytes n)) :: s.host.out ∧
      onlyRegs (fun r => r = rMgt_CTL n ∨ r = rMgt_STAT n) s t ∧ onlyParts [.mon, .regs, .out] s t)
  ∧ (∀ (n done : Nat) (acked stuck : Bool) (data : List Byte) (ctl : W32) (s : State), n < 8 → s.on (fMgt_STAT_BUSY n) = true →
    Tab.find s.mon.mgt n = some ctl →
    ∃ t, exec (.mgtDone n acked stuck done data) s = .next t ∧ t.on (fMgt_STAT_BUSY n) = false ∧
      t.fld (fMgt_STAT_STATUS n) = (if stuck then eTimeout else if acked then eOk else eBus) ∧
      t.fld (fMgt_STAT_DONE_COUNT n) = (if stuck then min done (bits ctl 7 0) else if acked then bits ctl 7 0 else if bits ctl 30 29 = 0 then min done (bits ctl 7 0 - 1) else 0) ∧
      (t.reg rMon_MGT_CTL).getLsbD n = true ∧ t.on fMon_EVENT_MGT_DONE = true ∧
      (bits ctl 30 29 = 0 → t.mgtBytes n = s.mgtBytes n) ∧
      (acked = false → stuck = false → .mgt n (bits ctl 28 27) [.stop] ∈ t.host.out) ∧
      (bits ctl 30 29 ≠ 0 → acked = true → stuck = false → data.length = bits ctl 7 0 → bits ctl 7 0 ≤ 128 →
        t.mgtBytes n = data ++ (s.mgtBytes n).drop (bits ctl 7 0)) ∧
      onlyRegs (fun r => r.blk = .mgt ∧ r.inst = n ∨ r = rMon_MGT_CTL ∨ r = rMon_EVENT ∨ noteReg r) s t ∧
      onlyParts [.mon, .rings, .regs, .out] s t)
  ∧ (∀ s : State, s.bias.modInt = false → s.dark = false → s.pState < 2 → s.on fPwr_STATE_TRANS = false →
    ∃ t, exec (.modInt true) s = .next t ∧
    (live rMon_MGT_CTL t).getLsbD 30 = true ∧ t.on fMon_EVENT_MOD_INT = true ∧ t.bias = { s.bias with modInt := true } ∧
    onlyRegs (fun r => r = rMon_EVENT ∨ noteReg r) s t ∧ onlyParts [.bias, .rings, .regs, .out] s t)
  ∧ (∀ s : State, exec (.modInt false) s = .next { s with bias := { s.bias with modInt := false } } ∧
    (live rMon_MGT_CTL { s with bias := { s.bias with modInt := false } }).getLsbD 30 = false)
  ∧ (∀ (v : W32) (s : State), s.awake = true → v.getLsbD 0 = true → (∀ n, n < 8 → s.on (fMgt_STAT_BUSY n) = false) →
    ∃ t, exec (.monSrst v) s = .next t ∧ t.mon = {} ∧
      (∀ r, r.blk = .mon ∧ r ≠ rMon_CAL_CTL ∧ r ≠ rMon_CAL_REF ∧ r.inst = 0 ∨ r.blk = .ch ∨ r.blk = .mgt → t.reg r = regReset r) ∧
      (live rMon_MGT_CTL t).getLsbD 30 = s.bias.modInt ∧ t.on fMon_MGT_CTL_RST_REL = false ∧
      t.host.out = .pin "MOD_RST_N" (some false) :: s.host.out ∧
      onlyRegs (fun r => r.blk = .mon ∨ r.blk = .ch ∨ r.blk = .mgt) s t ∧ t.reg rMon_CAL_CTL = s.reg rMon_CAL_CTL ∧
      t.reg rMon_CAL_REF = s.reg rMon_CAL_REF ∧ onlyParts [.mon, .regs, .hiLatch, .capt, .loHeld, .out] s t)

/-- Power states (R446-R452, R455): a hint is kept until it ends; after the dwell the shallowest of its deeper targets is
entered; the end of a transition shows the new state, an entry into P2 puts every trained beam port in self-refresh, and
an exit records what woke the device; an enabled wake source in P2 or P3 requests P0, and so does an access by the host. -/
def Obligations.PowerStatesChange : Prop :=
  (∀ (h : Hdr) (p ms : Nat) (s : State), s.takesPf (.pwrHint h p ms) = true → p ≤ 3 → ∃ t, exec (.pwrHint h p ms) s = .next t ∧
    t.on fPwr_HINT_ACTIVE = true ∧ t.fld fPwr_HINT_TARGET = p ∧
    t.pwr.hintEnd = (if ms = 0 then none else some (s.up + ms * 1000000 * 65536)) ∧
    completed (answer h eOk [BitVec.ofNat 8 s.pState, if s.fld fPwr_STATE_PENDING = 7 then 255#8 else BitVec.ofNat 8 (s.fld fPwr_STATE_PENDING)]) s t ∧
    onlyRegs (fun r => r = rPwr_HINT ∨ complReg r) s t ∧ onlyParts [.pwr, .qps, .regs, .out] s t)
  ∧ (∀ (h : Hdr) (ms : Nat) (s : State), s.takesPf (.pwrHint h 255 ms) = true → ∃ t, exec (.pwrHint h 255 ms) s = .next t ∧ t.reg rPwr_HINT = 0#32 ∧
    t.pwr.hintEnd = none ∧ completed (answer h eOk [BitVec.ofNat 8 s.pState,
      if s.fld fPwr_STATE_PENDING = 7 then 255#8 else BitVec.ofNat 8 (s.fld fPwr_STATE_PENDING)]) s t)
  ∧ (∀ s : State, s.pwr.hintEnd.isSome = true → exec .hintExpiry s =
      .next { s.setReg rPwr_HINT 0#32 with pwr := { s.pwr with hintEnd := none } })
  ∧ (∀ (a d : Nat) (s : State), s.dark = false → s.on fPwr_STATE_TRANS = false → s.pwr.deeper = some (a, d) → s.pState < d → s.pState < s.target →
    a + s.fld fPwr_CTL_DWELL_US * 1000 * nsU ≤ s.up →
    ∃ t, exec .pwrTransitionStart s = .next t ∧ t.on fPwr_STATE_TRANS = true ∧ t.pwr.going = some (min d s.target) ∧ t.pState = s.pState ∧
      t.pwr.deeper = none ∧ (s.host.cfg.l1 = true → 2 ≤ min d s.target →
        t.host.out = .linkPm (if min d s.target = 3 ∧ s.host.cfg.l12 then 2 else 1) :: s.host.out) ∧
      onlyRegs (fun r => r = rPwr_STATE) s t ∧ onlyParts [.pwr, .regs, .out] s t)
  ∧ (∀ s : State, s.pwr.deeper = none → exec .pwrTransitionStart s = .next s)
  ∧ (∀ s : State, s.pwr.going = some 1 → s.pState = 0 → s.pwr.since ≤ s.up → s.fld fPwr_STATE_PENDING = 7 →
    ∃ t, exec (.pwrTransitionEnd 0) s = .next t ∧ t.pState = 1 ∧ t.on fPwr_STATE_TRANS = false ∧ t.pwr.going = none ∧ t.pwr.since = s.up ∧
      t.on fPwr_EVENT_STATE_CHG = true ∧ (∀ n, { t.shut n with gateAt := none, tmrAt := 0 } = { s.shut n with gateAt := none, tmrAt := 0 }) ∧
      onlyRegs (fun r => r = rPwr_STATE ∨ r = rPwr_EVENT ∨ noteReg r) s t ∧ onlyParts [.pwr, .sht, .rings, .regs, .out] s t)
  ∧ (∀ s : State, s.pwr.going = some 2 → s.pState < 2 → s.pwr.since ≤ s.up → s.fld fPwr_STATE_PENDING = 7 → s.pwr.latch = none →
    ∃ t, exec (.pwrTransitionEnd 0) s = .next t ∧ t.pState = 2 ∧ t.on fPwr_STATE_TRANS = false ∧
      (∀ k, k < 16 → s.on (fBm_STAT_TRAINED k) = true → t.on (fBm_STAT_SELF_REF k) = true) ∧
      (∀ n, n < 8 → s.mode n = m400 → s.rx n = rxLocked → t.rx n = rxIdle) ∧
      (∀ n, { t.shut n with gateAt := none, tmrAt := 0 } = { s.shut n with gateAt := none, tmrAt := 0 }) ∧
      (∀ p, p ∈ [Part.tb, .up, .gens, .links, .crew, .loom, .drf, .ck, .mon, .bias, .thm, .sec, .fuses, .pending, .qps] → p.same s t))
  ∧ (∀ (l : WakeLatch) (s : State), s.pwr.going = some 0 → s.pState = 2 → s.pwr.since ≤ s.up → s.fld fPwr_STATE_PENDING = 7 →
    s.pwr.latch = some l → l.mask < 256 → l.first < 8 →
    ∃ t, exec (.pwrTransitionEnd 0) s = .next t ∧ t.pState = 0 ∧ t.on fPwr_STATE_TRANS = false ∧ t.fld fPwr_WAKE_LAST_SRC = l.first ∧
      t.fld fPwr_WAKE_LAST_MASK = l.mask ∧ t.fld fPwr_WAKE_LAST_FROM = 2 ∧ t.on fPwr_WAKE_LAST_ENTRY = l.entry ∧
      t.fld fPwr_WAKE_STAY_US = min (2 ^ 32 - 1) ((s.up - s.pwr.since) / 65536000) ∧
      t.fld fPwr_WAKE_CNT_P2 = min 65535 (s.fld fPwr_WAKE_CNT_P2 + 1) ∧ t.on fPwr_EVENT_WAKE = true ∧ t.on fPwr_EVENT_STATE_CHG = true ∧
      (∀ k, k < 16 → s.beam.resets.contains k = false → s.testing (8 + k) = false → t.on (fBm_STAT_SELF_REF k) = false) ∧
      onlyRegs (fun r => r.blk = .pwr ∨ (∃ k, k < 16 ∧ r = rBm_STAT k) ∨ noteReg r) s t ∧ onlyParts [.pwr, .sht, .split, .rings, .regs, .out] s t)
  ∧ (∀ (c : Instr) (i : Nat) (s : State), 2 ≤ s.pState → s.on fPwr_STATE_TRANS = false → s.wakeOn i = true →
    ((c, i) ∈ [(.wakeEvent .host, 1), (.wakeEvent .lane, 2), (.wakeEvent .cox, 3), (.wakeEvent .timer, 4), (.wakeEvent .supervision, 5),
        (.wakeEvent .thermal, 6)] ∨ c = .wakeEvent .target ∧ i = 7 ∧ s.target < s.pState ∨
      c = .wakeTimerExpiry ∧ i = 4 ∧ s.fld fPwr_WAKE_TIMER_MS ≠ 0 ∨ c = .planAck 0#32 ∧ i = 1 ∧ s.dark = false ∧ s.thm.waiting = none) →
    ∃ t l, exec c s = .next t ∧ t.on fPwr_STATE_TRANS = true ∧ t.pwr.going = some 0 ∧ t.pState = s.pState ∧ t.pwr.latch = some l ∧
      l.mask.testBit i = true ∧ (s.pwr.latch = none → l.mask = 2 ^ i ∧ l.first = i ∧ l.entry = false) ∧
      (∀ m, s.pwr.latch = some m → l.first = m.first ∧ l.mask = Nat.lor m.mask (2 ^ i)) ∧
      (c ≠ .planAck 0#32 → onlyRegs (fun r => r = rPwr_STATE) s t ∧ onlyParts [.pwr, .regs] s t))

/-- Temperatures (R462-R465, R470): a sample of readings below 110 degrees shows the hottest and raises the band to its
own at once, one of 110 degrees or more drives THERMTRIP_N low and holds the device in reset; the band falls one
step. Ageing and the planner (R471-R475): a plan is held as pending until it is acknowledged where APPROVE says so,
else applied; PLAN_ACK applies or drops it; REF takes references for every bias channel; a measurement gives its
shortfall. -/
def Obligations.TemperaturesAndPlans : Prop :=
  (∀ (l : List (Option Int)) (s : State), s.dark = false → s.reg rThm_EXCL = 0#32 → l.length = 32 →
    (∀ e ∈ l, ∃ v, e = some v ∧ -640 ≤ v ∧ v < 1760) →
    ∃ t i m, exec (.sensorSample l) s = .next t ∧ l[i]? = some (some m) ∧ (∀ v, some v ∈ l → v ≤ m) ∧ t.sfld fThm_STAT_MAX = m ∧
      t.fld fThm_STAT_SRC = i ∧ t.band = max s.band (bandOf m) ∧ t.reg rThm_EXCL = 0#32 ∧
      (∀ j v, l[j]? = some (some v) → Tab.get 0 t.thm.temps j = v) ∧ t.on fThm_STAT_THROT = (t.band == 4 && s.on fThm_CTL_THROT_EN) ∧
      (∀ p, p ∈ [Part.tb, .up, .free, .gens, .links, .crew, .beam, .loom, .sht, .drf, .ck, .mon, .bias, .sec, .fuses, .anc, .split, .bist, .dark,
        .pending, .qps] → p.same s t))
  ∧ (∀ (l : List (Option Int)) (s : State), s.dark = false → s.thm.tripped = false → s.reg rThm_EXCL = 0#32 → l.length = 32 →
    (∀ e ∈ l, ∃ v, e = some v ∧ -640 ≤ v ∧ v ≤ 2400) → (∃ v, some v ∈ l ∧ 1760 ≤ v) →
    ∃ t, exec (.sensorSample l) s = .next t ∧ t.dark = true ∧ t.thm.tripped = true ∧ .pin "THERMTRIP_N" (some false) ∈ t.host.out ∧
      (∀ j, j < 16 → .biasOff j ∈ t.host.out) ∧ (∀ p ∈ ["MOD_RST_N", "STROKE_OUT", "PPS_OUT"], .pin p none ∈ t.host.out) ∧
      t.sht = {} ∧ t.loom = {} ∧ t.drf = {} ∧ t.host.qps = [] ∧
      (∀ n, (t.lane n).express = [] ∧ (t.lane n).modeCmd = none ∧ (t.lane n).anchors = []) ∧
      (∀ r, aonReg r = false → r ≠ rSec_STAT → r ≠ rSec_TA_STAT → (∀ k, r ≠ rBm_STAT k) → (∀ n, n < 8 → r ≠ rLn_CAL_TEMP n) →
        t.reg r = regReset r) ∧ onlyParts [.regs, .act, .lanes, .gens, .time, .links, .crew, .beam, .loom, .sht, .drf, .ck,
        .mon, .bias, .pwr, .thm, .sec, .split, .bist, .tstAt, .tb, .dark, .qps, .rings, .bme, .cfg, .vfs, .held, .rejLog, .loHeld, .hiLatch, .capt, .lastNote,
        .out] s t)
  ∧ (∀ s : State, 0 < s.band → s.band ≤ 4 → 10 ≤ s.thm.low → ∃ t, exec .bandDown s = .next t ∧ t.band = s.band - 1 ∧ t.thm.low = 0 ∧
    t.fld fThm_STAT_THROT = 0 ∧ t.on fThm_EVENT_BAND_DOWN = true ∧
    onlyRegs (fun r => r = rThm_STAT ∨ r = rThm_EVENT ∨ (∃ k, k < 16 ∧ r = rBm_STAT k) ∨ noteReg r) s t ∧ onlyParts [.thm, .rings, .regs, .out] s t)
  ∧ (∀ (vreq guard relax : Nat) (stressed unstressed : List Nat) (s : State), s.on fThm_CTL_PLAN_EN = true → s.houseRuns = true →
    s.thm.readyAt.isSome = true → s.pState ≠ 3 → s.dark = false →
    ∃ t p, exec (.planRun vreq guard relax stressed unstressed) s = .next t ∧ p.eol < 256 ∧ t.thm.refs = s.thm.refs ∧ p.vreq = max 720 (min 790 vreq) ∧ p.guard = min 1 guard ∧ p.relax ≤ 6 ∧
      t.fld fThm_PLAN_STAT_SEQ = (s.fld fThm_PLAN_STAT_SEQ + 1) % 65536 ∧ t.fld fThm_PLAN_VAL0_VREQ = p.vreq ∧
      t.fld fThm_PLAN_VAL0_REF_GUARD = p.guard ∧ t.fld fThm_PLAN_VAL1_PLAN_RELAX = p.relax ∧
      (s.on fThm_CTL_APPROVE = true → t.thm.waiting = some p ∧ t.thm.active = s.thm.active ∧ t.on fThm_PLAN_STAT_PENDING = true) ∧
      (s.on fThm_CTL_APPROVE = false → t.thm.waiting = none ∧ t.thm.active = p ∧ t.on fThm_PLAN_STAT_PENDING = false) ∧
      onlyRegs (fun r => r.blk = .thm ∨ (∃ k, k < 16 ∧ r = rBm_STAT k) ∨ noteReg r) s t ∧ onlyParts [.thm, .rings, .regs, .out] s t)
  ∧ (∀ (p : Plan) (v : W32) (s : State), s.awake = true → s.thm.waiting = some p → bits v 15 0 = s.fld fThm_PLAN_STAT_SEQ →
    ∃ t, exec (.planAck v) s = .next t ∧ t.thm.waiting = none ∧ t.thm.active = (if v.getLsbD 31 then p else s.thm.active) ∧
      t.on fThm_PLAN_STAT_PENDING = false ∧ onlyRegs (fun r => r.blk = .thm ∨ ∃ k, k < 16 ∧ r = rBm_STAT k) s t ∧ onlyParts [.thm, .regs] s t)
  ∧ (∀ (v : W32) (s : State), s.awake = true → 1 ≤ bits v 15 8 → bits v 15 8 ≤ 100 → bits v 7 0 ≠ 0 → v.getLsbD 28 = true → s.thm.waiting = none →
    ∃ t, exec (.thmRef v) s = .next t ∧ t.thm.refs = some s.meanCodes ∧ t.reg rThm_CTL = v &&& 0xE000FFFF#32 ∧
      onlyRegs (fun r => r = rThm_CTL ∨ r = rThm_STAT ∨ r = rThm_EVENT ∨ noteReg r) s t ∧ onlyParts [.thm, .rings, .regs, .out] s t)
  ∧ (∀ (v : W32) (s : State), s.awake = true → bits v 4 0 ≤ 23 → ∃ t, exec (.ageSel v) s = .next t ∧ t.thm.ageReq = some (bits v 4 0) ∧
    t.fld fThm_AGE_SEL_PAIR = bits v 4 0 ∧ t.on fThm_AGE_VAL_VALID = false ∧ t.on fThm_AGE_VAL_FRESH = false ∧
    onlyRegs (fun r => r = rThm_AGE_SEL ∨ r = rThm_AGE_VAL) s t ∧ onlyParts [.thm, .regs] s t)
  ∧ (∀ (stressed unstressed : Nat) (s : State), s.thm.ageReq.isSome = true → ∃ t, exec (.ageMeasureDone stressed unstressed) s = .next t ∧
    t.thm.ageReq = none ∧ t.on fThm_AGE_VAL_VALID = true ∧ t.on fThm_AGE_VAL_FRESH = true ∧
    t.fld fThm_AGE_VAL_DELTA = unsigned 24 (roundFree (quot ((((unstressed : Int) - stressed) * 1000000 : Int) : Rat) unstressed)) ∧
    onlyRegs (fun r => r = rThm_AGE_VAL) s t ∧ onlyParts [.thm, .regs] s t)

/-- Firmware (R484-R488, R550): the bundle of the flash slot that the marker prefers starts the house shuttles if it passes
its checks, else that of the other slot, with FALLBACK, else the device waits for the host (unless HOST_BOOT_DIS is blown) and
starts on the HB_LEN bytes that the host gives; FW_STAGE keeps a bundle that passes; FW_COMMIT writes it to the flash slot that
did not boot, moves the marker, and raises the anti-rollback counter only with ADVANCE. -/
def Obligations.FirmwareIsLoaded : Prop :=
  (∀ (x : Option (List Byte)) (a b first other : List Byte) (p m : Nat) (s : State), s.sec.booted = false → s.dark = false →
    s.sec.hostBoot = false → s.hostBootStrap = false → s.on fSec_STAT_WAIT_HOST = false →
    (m = 1 ∧ p = 1 ∧ first = slotBundle b ∧ other = slotBundle a ∨ m ≠ 1 ∧ p = 0 ∧ first = slotBundle a ∧ other = slotBundle b) →
    ∃ t, exec (.bootDone x ⟨a, b⟩ m) s = .next t ∧ .flashRead 0x6C (flashSlot p) first.length ∈ t.host.out ∧
      (s.bundleStatus first = none → bootedOn first p false s t) ∧
      (∀ st, s.bundleStatus first = some st → s.bundleStatus other = none → bootedOn other (1 - p) true s t ∧
        t.fld fSec_STAT_BOOT_ERR = st % 256 ∧ .flashRead 0x6C (flashSlot (1 - p)) other.length ∈ t.host.out) ∧
      (∀ st st', s.bundleStatus first = some st → s.bundleStatus other = some st' → notBooted st s t))
  ∧ (∀ (x : Option (List Byte)) (a b : List Byte) (m : Nat) (s : State), s.sec.booted = false → s.dark = false → s.sec.hostBoot = true →
    s.bme 0 = true → ∃ t, exec (.bootDone x ⟨a, b⟩ m) s = .next t ∧
      (∀ d, x = some d → d.length = s.fld fSec_HB_LEN_LEN → s.bundleStatus d = none → bootedOn d (if s.hostBootStrap then 2 else 3) false s t) ∧
      (∀ d st, x = some d → d.length = s.fld fSec_HB_LEN_LEN → s.bundleStatus d = some st → notBooted st s t) ∧
      ((∀ d, x = some d → d.length ≠ s.fld fSec_HB_LEN_LEN) → notBooted eBus s t))
  ∧ (∀ (v : W32) (s : State), s.awake = true → s.on fSec_STAT_WAIT_HOST = true → v.getLsbD 0 = true → s.bme 0 = true →
    ∃ t, exec (.hbGo v) s = .next t ∧ t.on fSec_STAT_WAIT_HOST = false ∧ t.sec.hostBoot = true ∧
      t.host.out = .hostRead 0 (s.pair rSec_HB_ADDR_LO rSec_HB_ADDR_HI) (s.fld fSec_HB_LEN_LEN) :: s.host.out ∧
      onlyRegs (fun r => r = rSec_STAT ∨ r = rSys_READY) s t ∧ onlyParts [.sec, .regs, .out] s t)
  ∧ (∀ (ms : Nat) (s : State), s.ready = false → s.dark = false → s.started = true → ∃ t, exec (.ready ms) s = .next t ∧ t.ready = true ∧
    t.fld fSys_READY_MS_MS = min 65535 ms ∧ t.fld fSys_READY_PHASE = 5 ∧
    onlyRegs (fun r => r = rSys_READY ∨ r = rSys_READY_MS ∨ r.blk = .anc ∨ r = rSec_EVENT ∨ noteReg r) s t ∧
    onlyParts [.thm, .anc, .rings, .regs, .out] s t)
  ∧ (∀ (h : Hdr) (addr len : Nat) (b : Option (List Byte)) (s : State), s.takesPf (.fwStage h addr len b) = true → 8192 ≤ len → len ≤ 16777216 → s.fwBusy = false →
    exec (.fwStage h addr len b) s = .next { s.begun h.qp with
      sec := { s.sec with stage := some (h, addr, b.bind fun l => if l.length = len then some l else none) } })
  ∧ (∀ (h : Hdr) (addr : Nat) (b : List Byte) (s : State), s.sec.stage = some (h, addr, some b) → h.qp < 256 →
    s.bme (s.ownerOf h.qp) = true → ∃ t, exec .fwStageDone s = .next t ∧ onlyRegs complReg s t ∧ onlyParts [.sec, .qps, .regs, .out] s t ∧
      (s.bundleStatus b = none → t.sec = { s.sec with stage := none, staged := some ⟨addr, b.length, digest512 b⟩ } ∧
        completed (answer h eOk ((b.drop 8).take 8)) s t) ∧
      (∀ st, s.bundleStatus b = some st → t.sec = { s.sec with stage := none } ∧ completed (answer h st) s t))
  ∧ (∀ (h : Hdr) (adv : Bool) (s : State), s.takesPf (.fwCommit h adv) = true → s.sec.staged.isSome = true → s.hostBootStrap = false → s.fwBusy = false →
    exec (.fwCommit h adv) s = .next { s.begun h.qp with sec := { s.sec with commit := some (h, adv) } })
  ∧ (∀ (h : Hdr) (adv : Bool) (st : Staged) (host back : List Byte) (k : Nat) (s : State), s.sec.commit = some (h, adv) → s.sec.staged = some st →
    digest512 back = st.digest → s.fld fSec_STAT_BOOT_SRC = k → k < 2 → h.qp < 256 → s.bme (s.ownerOf h.qp) = true →
    ∃ t, exec (.fwCommitDone (some host) back) s = .next t ∧ .flash (flashSlot (1 - k)) (padTo st.len (host.take st.len)) ∈ t.host.out ∧
      .flashRead 0x6C (flashSlot (1 - k)) st.len ∈ t.host.out ∧ .flash flashMarker (leBytes 1 (1 - k)) ∈ t.host.out ∧
      t.sec.commit = none ∧ completed (answer h eOk) s t ∧
      t.fuses.counter = (if adv then max s.fuses.counter (field back 8 8) else s.fuses.counter) ∧ (adv = false → t.fuses = s.fuses) ∧
      onlyRegs complReg s t ∧ onlyParts [.sec, .fuses, .anc, .free, .qps, .regs, .out] s t)

/-- Attestation, the lock and test access (R379, R490-R495): an accepted ATTEST waits its turn and its report is the
signed body; SEC_LOCK sets the lock and word 48; a challenge opens test access for its time; a refused response is
counted and the third blocks; an accepted one clears the vault and holds the device in reset. The anchor store
(R296): a vote keeps a word whose copies agree, rewrites a copy that differs from the other two and counts it, and
marks a word whose three copies differ. -/
def Obligations.TheDeviceIsSecured : Prop :=
  (∀ (h : Hdr) (len : Nat) (nonce : List Byte) (s : State), s.takes (.attest h len nonce) = true → 8192 ≤ len → s.houseRuns = true → s.digestsBad = false →
    exec (.attest h len nonce) s = .next { s.begun h.qp with sec := { s.sec with attests := s.sec.attests ++ [(h, padTo 32 (nonce.take 32))], report := if s.sec.attests = [] then some (s.reportBody (padTo 32 (nonce.take 32))) else s.sec.report } })
  ∧ (∀ (h : Hdr) (nonce : List Byte) (r : List (Hdr × List Byte)) (s : State), s.sec.attests = (h, nonce) :: r → h.qp < 256 →
    s.bme (s.ownerOf h.qp) = true → ∃ t sig, exec .attestReportDone s = .next t ∧ sig.length = 4627 ∧
      (∀ b, s.sec.report = some b → completed (answerRec h eOk (padTo 8192 (b ++ sig))) s t) ∧
      (s.sec.report = none → completed (answer h eMedia) s t) ∧ t.sec.attests = r ∧ t.sec.vault = s.sec.vault ∧
      t.sec.report = (if s.digestsBad then none else r.head?.map fun e => s.reportBody e.2) ∧
      onlyRegs complReg s t ∧ onlyParts [.sec, .free, .qps, .regs, .out] s t)
  ∧ (∀ (v : W32) (s : State), s.awake = true → v.getLsbD 0 = true → ∃ t, exec (.secLock v) s = .next t ∧ t.on fSec_CTL_LOCK = true ∧ t.locked = true ∧
    t.ancCopies 48 = [(1#32, true), (1#32, true), (1#32, true)] ∧ (∀ j, j ≠ 48 → t.ancCopies j = s.ancCopies j) ∧
    onlyRegs (fun r => r = rSec_CTL) s t ∧ onlyParts [.anc, .regs] s t)
  ∧ (∀ (c : List Byte) (s : State), s.fuses.jtagDis = false → s.on fSec_TA_STAT_BLOCKED = false → s.dark = false → ∃ t, exec (.secChal c) s = .next t ∧
    t.sec.tap = .secChal ∧ t.sec.chal = some (padTo 32 (c.take 32), s.up) ∧ t.on fSec_TA_STAT_CHAL_VALID = true ∧ t.fld fSec_STAT_TA_STATE = 1 ∧
    t.host.out = .tap (padTo 32 (c.take 32)) :: s.host.out ∧
    onlyRegs (fun r => r = rSec_STAT ∨ r = rSec_TA_STAT) s t ∧ onlyParts [.sec, .anc, .regs, .out] s t)
  ∧ (∀ (c : List Byte) (s : State), s.fuses.jtagDis = true → ∃ t, exec (.secChal c) s = .next t ∧ t.sec = { s.sec with tap := .bypass } ∧
    t.host.out = .tap [0] :: s.host.out ∧ onlyParts [.sec, .out] s t)
  ∧ (∀ s : State, s.sec.chal.isSome = true → ∃ t, exec .challengeExpiry s = .next t ∧ t.sec.chal = none ∧ t.on fSec_TA_STAT_CHAL_VALID = false ∧
    t.fld fSec_STAT_TA_STATE = 0 ∧ onlyRegs (fun r => r = rSec_STAT ∨ r = rSec_TA_STAT) s t ∧ onlyParts [.sec, .anc, .regs] s t)
  ∧ (∀ (resp : List Byte) (cl : List Bool) (s : State), s.dark = false → ∃ t, exec (.secResp resp cl) s = .next t ∧
    (s.respRefused resp = true → t.sec.chal = none ∧ t.fld fSec_TA_STAT_FAILS = min 3 (s.fld fSec_TA_STAT_FAILS + 1) ∧
      (2 ≤ s.fld fSec_TA_STAT_FAILS → t.on fSec_TA_STAT_BLOCKED = true) ∧ t.on fSec_EVENT_TA_FAIL = true ∧ t.sec.vault = s.sec.vault ∧
      onlyRegs (fun r => r = rSec_STAT ∨ r = rSec_TA_STAT ∨ r = rSec_EVENT ∨ noteReg r) s t ∧ onlyParts [.sec, .anc, .rings, .regs, .out] s t) ∧
    (s.respRefused resp = false → t.dark = true ∧ t.fld fSec_STAT_TA_STATE = (if true ∈ cl.take 3 then 2 else 3) ∧
      t.sec.vault = (if true ∈ cl.take 3 then 0 else s.sec.vault) ∧ t.sec.scan = decide (true ∈ cl.take 3) ∧ t.sht = {} ∧ t.loom = {} ∧ t.drf = {} ∧ t.host.qps = [] ∧ t.beam.mem = [] ∧
      (∀ n, (t.lane n).express = [] ∧ (t.lane n).modeCmd = none ∧ (t.lane n).anchors = []) ∧ (∀ j, j < 16 → .biasOff j ∈ t.host.out) ∧
      (∀ r, aonReg r = false → r.blk ≠ .sec → (∀ k, r ≠ rBm_STAT k) → (∀ n, n < 8 → r ≠ rLn_CAL_TEMP n) → t.reg r = regReset r) ∧
      onlyParts [.regs, .act, .lanes, .gens, .time, .links, .crew, .beam, .loom, .sht, .drf, .ck, .mon, .bias, .pwr, .thm, .sec, .anc, .split,
        .bist, .tstAt, .tb, .dark, .qps, .rings, .bme, .cfg, .vfs, .held, .rejLog, .loHeld, .hiLatch, .capt, .lastNote, .out] s t))
  ∧ (∀ (j : Nat) (v : W32) (s : State), j < 64 → s.ancCopies j = [(v, true), (v, true), (v, true)] → ∃ t, exec (.anchorVote j []) s = .next t ∧
    (∀ i, t.ancCopies i = s.ancCopies i) ∧ onlyParts [.anc] s t)
  ∧ (∀ (j i : Nat) (v w : W32) (good : Bool) (s : State), j < 64 → i < 3 → w ≠ v ∨ good = false → s.ancCopies j = [(v, true), (v, true), (v, true)] →
    ∃ t, exec (.anchorVote j [(i, w, good)]) s = .next t ∧ (∀ m, t.ancCopies m = s.ancCopies m) ∧
      t.fld fAnc_STAT_FIXED = min 65535 (s.fld fAnc_STAT_FIXED + 1) ∧ t.on fAnc_EVENT_FIXED = true ∧
      onlyRegs (fun r => r = rAnc_STAT ∨ r = rAnc_EVENT ∨ noteReg r) s t ∧ onlyParts [.anc, .rings, .regs, .out] s t)
  ∧ (∀ (j : Nat) (a b d : W32) (s : State), j < 64 → (j < 32 ∨ 40 ≤ j) → s.ancCopies j = [(a, true), (b, true), (d, true)] → a ≠ b → a ≠ d → b ≠ d →
    ∃ t, exec (.anchorVote j []) s = .next t ∧ t.disagrees j = true ∧ t.on fAnc_EVENT_DISAGREE = true ∧ (∀ m, t.ancCopies m = s.ancCopies m) ∧
      onlyRegs (fun r => r = rAnc_DIS_LO ∨ r = rAnc_DIS_HI ∨ r = rAnc_EVENT ∨ noteReg r) s t ∧ onlyParts [.anc, .rings, .regs, .out] s t)

/-- Self-test and queries (R385, R499-R504): BIST_RUN holds its blocks in self-test and reports what it measured, or completes
with E_STATE where a measurement or a block is not as it must be; its end, in full or by a failed measurement, completes it
with the blocks whose test has not passed and those to set up again; QUERY answers its record. -/
def Obligations.SelfTestsAndQueriesRun : Prop :=
  (∀ (h : Hdr) (mask : Nat) (s : State), s.takesPf (.bistRun h mask) = true → 0 < mask → mask < 2 ^ 41 → s.bist = none →
    ∃ t, exec (.bistRun h mask) s = .next t ∧
      (s.bistPre s.bistVdd (Config.clkDev s.free) = true → (∀ b ∈ bistBits mask, s.bistIdle b = true) →
        (∀ b, t.testing b = mask.testBit b) ∧ t.on fTst_STAT_BUSY = true ∧ t.on fTst_STAT_ABORTED = false ∧
        t.fld fTst_VDD_MV = s.bistVdd ∧ t.fld fTst_CLK_WORST = s.bistClk mask ∧ t.sfld fTst_CLK_DEV = Config.clkDev s.free ∧
        t.tstAt = some s.up ∧ t.fld (fTst_ACTIVE_MASK 0) = mask % 2 ^ 32 ∧ t.fld (fTst_ACTIVE_MASK 1) = mask / 2 ^ 32 ∧
        (∀ k, k < 16 → mask.testBit (8 + k) = true → t.on (fBm_STAT_SELF_REF k) = true) ∧
        (∀ p, p ∈ [Part.tb, .up, .gens, .links, .crew, .loom, .sht, .drf, .ck, .mon, .bias, .thm, .sec, .fuses, .pending] → p.same s t)) ∧
      (s.bistPre s.bistVdd (Config.clkDev s.free) = false ∨ (∃ b ∈ bistBits mask, s.bistIdle b = false) →
        t.bist = none ∧ completed (answer h eState) s t ∧ onlyRegs complReg s t ∧ onlyParts [.free, .qps, .regs, .out] s t))
  ∧ (∀ (r : BistRun) (res : List (Nat × BlkTest)) (s : State), s.bist = some r → r.hdr.qp < 256 → s.bme (s.ownerOf r.hdr.qp) = true →
    ∃ t, exec (.bistEnd res) s = .next t ∧ t.bist = none ∧ t.on fTst_STAT_BUSY = false ∧ t.on fTst_EVENT_DONE = true ∧
      .hostWrite r.hdr.resAddr (leBytes 16 (Nat.land (bistFailed r.mask res) r.mask) ++ leBytes 16 r.setup) ∈ t.host.out)
  ∧ (∀ (r : BistRun) (res : List (Nat × BlkTest)) (n : Nat) (s : State), s.bist = some r → r.mask = 2 ^ n → 24 ≤ n → n < 36 → r.hdr.qp < 256 →
    s.bme (s.ownerOf r.hdr.qp) = true → (∀ m, m < 96 → s.shState m ≠ stRun) →
    (∀ m, m < 96 → (s.shut m).start = none ∧ (s.shut m).strs = []) →
    ∃ t, exec (.bistEnd res) s = .next t ∧
      (∀ m, 4 ≤ m → m < 96 → m / 8 + 24 = n → t.shut m = {} ∧ t.shState m = stOff) ∧ (∀ m, m / 8 + 24 ≠ n ∨ m < 4 → t.shut m = s.shut m) ∧
      (∃ u, completed (answerRec r.hdr eOk (leBytes 16 (if res.any (fun e => e.1 == n && testPasses n e.2) then 0 else 2 ^ n) ++
        leBytes 16 r.setup)) u t) ∧
      onlyRegs (fun x => x.blk = .sh ∧ 4 ≤ x.inst ∧ x.inst / 8 + 24 = n ∨ x.blk = .tst ∨ complReg x ∨ noteReg x) s t ∧
      onlyParts [.bist, .sht, .qps, .rings, .regs, .hiLatch, .capt, .loHeld, .out] s t)
  ∧ (∀ (r : BistRun) (mv worst : Nat) (dev : Int) (res : List (Nat × BlkTest)) (s : State), s.bist = some r → r.hdr.qp < 256 →
    s.bme (s.ownerOf r.hdr.qp) = true → ∃ t, exec (.bistPreconditionFail ⟨mv, worst, dev, res⟩) s = .next t ∧
      t.fld fTst_VDD_MV = mv % 2 ^ 16 ∧ t.fld fTst_CLK_WORST = worst % bistClks r.mask ∧ t.fld fTst_CLK_DEV = unsigned 16 dev ∧
      (s.bistPre mv dev = true → t.bist = s.bist ∧ onlyRegs (fun x => x = rTst_VDD ∨ x = rTst_CLK) s t ∧ onlyParts [.regs] s t) ∧
      (s.bistPre mv dev = false → t.bist = none ∧ t.on fTst_STAT_BUSY = false ∧ t.on fTst_STAT_ABORTED = true ∧
        t.on fTst_EVENT_ABORT = true ∧ t.on fTst_EVENT_DONE = true ∧
        .hostWrite r.hdr.resAddr (leBytes 16 (Nat.land (bistFailed r.mask res) r.mask) ++ leBytes 16 r.mask) ∈ t.host.out ∧
        (r.mask = 2 ^ 37 → onlyRegs (fun x => x.blk = .drf ∧ ¬ (0x100 ≤ x.off ∧ x.off < 0x140) ∨ x.blk = .tst ∨ complReg x ∨ noteReg x) s t ∧
          onlyParts [.bist, .drf, .qps, .rings, .regs, .hiLatch, .capt, .loHeld, .out] s t)))
  ∧ (∀ (h : Hdr) (obj kind : Nat) (s : State), s.takes (.query h obj kind) = true → kind ≤ 4 → (kind = 0 ∨ obj < queryLimit kind) →
    (s.ownerOf h.qp = 0 ∨ queryOwner obj kind s = none ∨ queryOwner obj kind s = some (s.ownerOf h.qp)) →
    ∃ t, exec (.query h obj kind) s = .next t ∧ completed (answerRec h eOk (queryRecord (s.ownerOf h.qp) obj kind s)) s t ∧
      (queryRecord (s.ownerOf h.qp) obj kind s).length = 64 ∧ onlyRegs complReg s t ∧ onlyParts [.qps, .regs, .out] s t)

/-- Resets (R5, R207, R339, R340, R427, R433, R544-R548): POR resets everything but the fuses, PERST everything but the
always-on island, and both release the supervision outputs at their safe values; an FLR resets its function's queues; Bus
Master Enable lets the completions and reads that waited go. -/
def Obligations.ResetsReachTheirBlocks : Prop :=
  (∀ (pin : Bool) (straps : Nat) (s : State), straps.testBit 1 = false → ∃ t, exec (.por pin straps) s = .next t ∧
    (∀ r, r ≠ rSys_CAUSE → r ≠ rSys_STRAPS → r ≠ rCox_TB_CTL → t.reg r = regReset r) ∧ t.reg rSys_CAUSE = (if pin then 2#32 else 1#32) ∧
    t.reg rSys_STRAPS = BitVec.ofNat 32 (straps % 32) ∧ t.fld fCox_TB_CTL_TBCLK_25 = straps % 2 ∧ t.up = 0 ∧ t.tb = 0 ∧ t.lanes = [] ∧
    t.gens = [] ∧ t.links = [] ∧ t.loom = {} ∧ t.sht = {} ∧ t.drf = {} ∧ t.ck = [] ∧ t.mon = {} ∧ t.bias = { modInt := s.bias.modInt } ∧
    t.pwr = {} ∧ t.thm = {} ∧ t.anc = [] ∧ t.bist = none ∧ t.dark = false ∧ t.beam.bays = [] ∧ t.beam.mem = [] ∧ t.host.qps = [] ∧
    (∀ j, j < 16 → biasOut j 0 none ∈ t.host.out) ∧ (∀ j, j < 8 → htrPin j false ∈ t.host.out) ∧
    (∀ p ∈ ["STROKE_OUT", "PPS_OUT"], .pin p none ∈ t.host.out) ∧ t.fuses = s.fuses ∧ t.pending = s.pending)
  ∧ (∀ (straps : Nat) (s : State), s.dark = false → straps.testBit 1 = false → ∃ t, exec (.perst straps) s = .next t ∧ t.on fSys_CAUSE_PERST = true ∧
    (∀ r, aonReg r = false → r ≠ rSys_STRAPS → r ≠ rCox_TB_CTL → r ≠ rSec_STAT → r ≠ rSec_TA_STAT → (∀ k, r ≠ rBm_STAT k) →
      (∀ n, n < 8 → r ≠ rLn_CAL_TEMP n) → t.reg r = regReset r) ∧
    (∀ r, r.blk = .anc ∨ r.blk = .pwr ∧ r ≠ rPwr_STATE ∧ r ≠ rPwr_HINT ∨ r.blk = .thm ∧ r.off < 0x34 → t.reg r = s.reg r) ∧
    t.reg rPwr_STATE = regReset rPwr_STATE ∧ t.on fPwr_HINT_ACTIVE = false ∧ t.thm.waiting = none ∧ t.thm.active = s.thm.active ∧ t.loom = {} ∧
    t.sht = {} ∧ t.drf = {} ∧ t.host.qps = [] ∧ (∀ n, (t.lane n).express = [] ∧ (t.lane n).modeCmd = none ∧ (t.lane n).anchors = []) ∧
    (∀ j, j < 16 → biasOut j 0 none ∈ t.host.out) ∧ (∀ j, j < 8 → htrPin j false ∈ t.host.out) ∧
    (∀ p ∈ ["STROKE_OUT", "PPS_OUT"], .pin p none ∈ t.host.out) ∧
    t.anc = s.anc ∧ t.fuses = s.fuses ∧ t.pending = s.pending ∧ t.up = s.up)
  ∧ (∀ (straps : Nat) (s : State), s.dark = true → exec (.perst straps) s = .next (s.setFld fSys_CAUSE_PERST 1))
  ∧ (∀ (fn : Nat) (s : State), s.awake = true → fn ≤ s.host.vfs → fn < 32 → ∃ t, exec (.flr fn) s = .next t ∧ t.bme fn = false ∧
    (∀ q, q < 256 → (fn = 0 ∨ s.ownerOf q = fn) → t.qp q = {} ∧ t.reg (rQp_CTL q) = regReset (rQp_CTL q)) ∧
    (fn = 0 → t.host.vfs = 0 ∧ t.drf = {} ∧ t.ck = [] ∧ t.loom.rules = [] ∧ t.on fPwr_HINT_ACTIVE = false ∧ t.on fSplit_CTL_EN = false ∧
      ∀ g, g < 32 → t.bme g = false) ∧
    (fn ≠ 0 → t.host.vfs = s.host.vfs ∧ (∀ g, g ≠ fn → t.bme g = s.bme g) ∧ ∀ q, s.ownerOf q ≠ fn → t.reg (rQp_CTL q) = s.reg (rQp_CTL q)))
  ∧ (∀ (fn : Nat) (c : Compl) (s : State), s.awake = true → s.bme fn = false → s.host.held = [(fn, c)] → c.hdr.qp < 256 →
    ∃ t, exec (.busMasterEnable fn (.bme true)) s = .next t ∧ t.bme fn = true ∧ (∀ g, g ≠ fn → t.bme g = s.bme g) ∧ completed c s t ∧ t.host.held = [] ∧
      (∀ q, q < 256 → s.ownerOf q = fn → s.on (fQp_CTL_EN q) = true → s.fld (fQp_STAT_ERR q) = 0 → (s.qp q).due = true →
        .hostRead fn (s.pair (rQp_DB_ADDR_LO q) (rQp_DB_ADDR_HI q)) 8 ∈ t.host.out) ∧
      onlyRegs complReg s t ∧ onlyParts [.bme, .held, .qps, .drf, .regs, .out] s t)
  ∧ (∀ (fn : Nat) (s : State), s.awake = true → ∃ t, exec (.busMasterEnable fn (.bme false)) s = .next t ∧ t.bme fn = false ∧
    (∀ g, g ≠ fn → t.bme g = s.bme g) ∧ onlyParts [.bme] s t)
  ∧ (∀ (on : Bool) (a b : Nat) (l1 l12 : Bool) (s : State), s.awake = true →
    exec (.busMasterEnable 0 (.ptm on)) s = .next (s.modCfg ({ · with ptm := on })) ∧
    exec (.busMasterEnable 0 (.ltr on)) s = .next (s.modCfg ({ · with ltr := on })) ∧
    exec (.busMasterEnable 0 (.ltrMax a b)) s = .next (s.modCfg ({ · with snoop := a, noSnoop := b })) ∧
    exec (.busMasterEnable 0 (.aspm l1 l12)) s = .next (s.modCfg ({ · with l1 := l1, l12 := l12 })) ∧
    exec (.busMasterEnable 0 (.payload a)) s = .next (s.modCfg ({ · with maxPay := a })) ∧
    exec (.busMasterEnable 0 (.readReq a)) s = .next (s.modCfg ({ · with maxRead := a })))

/-- What reset leaves (R5, R551 and the reset columns of the register tables): the registers of each block at their reset
values, nothing waiting, and a device that is in P0, not ready and not held in reset. -/
def Obligations.ResetLeaves : Prop :=
  (∀ q, q < 256 → State.reset.on (fQp_CTL_EN q) = false ∧ State.reset.on (fQp_CTL_DGEN q) = true ∧ State.reset.fld (fQp_CTL_SQ_LOG2 q) = 4 ∧
    State.reset.fld (fQp_CTL_CQ_LOG2 q) = 4 ∧ State.reset.qp q = {})
  ∧ (∀ f, f < 32 → State.reset.fld (fNq_NQ_STAT_PHASE f) = 1 ∧ State.reset.on (fNq_NQ_CTL_EN f) = false)
  ∧ (∀ n, n < 8 → State.reset.mode n = 0 ∧ State.reset.fld (fLn_TX_RAMP_RAMP_US n) = 8)
  ∧ (∀ k, k < 16 → State.reset.on (fBm_STAT_TRAINED k) = false ∧ State.reset.fld (fBm_SCRUB_CTL_PERIOD_H k) = 24)
  ∧ (∀ n, n < 96 → State.reset.shState n = stOff ∧ State.reset.shut n = {})
  ∧ (∀ d, d < 32 → State.reset.dcRuns d = false) ∧ State.reset.on fDrf_EVENT_EN_EN = true
  ∧ (∀ c, c < 16 → State.reset.on (fCk_CTL_EN c) = false) ∧ (∀ g, g < 4 → (State.reset.gen g).jump = none)
  ∧ (∀ c, c < 24 → State.reset.fld (fCh_RATIO_RATIO c) = 0x100000) ∧ (∀ j, j < 16 → State.reset.fld (fBias_CFG_GROUP j) = j / 4)
  ∧ State.reset.fld fPwr_STATE_PENDING = 7 ∧ State.reset.pState = 0 ∧ State.reset.on fPwr_STATE_TRANS = false
  ∧ State.reset.fld fThm_PLAN_VAL0_VREQ = 720 ∧ State.reset.fld fThm_CTL_PLAN_H = 24 ∧ State.reset.fld fThm_CTL_EOL_PCT = 20
  ∧ (List.range 5).map (fun b => State.reset.fld (fThm_BAND_LANE_RELAX b)) = [0, 0, 2, 4, 4]
  ∧ State.reset.reg rSys_CAUSE = 1#32 ∧ State.reset.ready = false ∧ State.reset.dark = false ∧ State.reset.pending = []
  ∧ State.reset.on fTst_STAT_BUSY = false ∧ State.reset.on fSec_CTL_LOCK = false

/-- A device held in reset after a trip or an unlock answers no access by the host and begins no command (R470, R495). That
the access and the command are lost without a trace is the model's reading (log entry 5). -/
def Obligations.HeldDeviceIsDeaf : Prop :=
  (∀ (fn addr : Nat) (v : W32) (s : State), s.dark = true → exec (.registerWrite fn addr v) s = .next s ∧
    exec (.loWrite fn addr v) s = .next s ∧ exec (.hiWrite fn addr v) s = .next s ∧ exec (.resultRead fn addr) s = .next s)
  ∧ (∀ (h : Hdr) (sh w0 w1 : Nat) (s : State), s.dark = true → exec (.shtMsg h sh w0 w1) s = .next s)
  ∧ (∀ (h : Hdr) (obj kind : Nat) (s : State), s.dark = true → exec (.query h obj kind) s = .next s)

/-- The queue of waiting commands is served in order: a step that answers a next state took exactly the command at its front,
and no command puts another into the queue. -/
def Obligations.QueueIsServedInOrder : Prop :=
  ∀ (c : Instr) (rest : List Instr) (s t : State), s.pending = c :: rest → step s = .next t → t.pending = rest

/-- A fuse only ever moves from intact to blown (R478, R480, R488): whatever the command, the anti-rollback counter does not
fall, a blown bit of a key slot stays blown, a slot in use keeps its digest, and the life cycle, the disable fuses and the
wrapped identity key stay. -/
def Obligations.FusesMoveOneWay : Prop :=
  ∀ s t : State, step s = .next t → s.fuses.le t.fuses

/-- Every step keeps the beam memory in its canonical form: addresses strictly rising. -/
def Obligations.BeamMemoryStaysCanonical : Prop :=
  ∀ s t : State, memWf s.beam.mem = true → step s = .next t → memWf t.beam.mem = true

/-- The machine after reset meets the invariant: its beam memory is in canonical form and lists nothing, its queue is
empty, and its fuses are those of a device as shipped (R480). -/
def Obligations.ResetMeetsTheInvariant : Prop :=
  memWf State.reset.beam.mem = true ∧ State.reset.beam.mem = [] ∧ State.reset.pending = [] ∧ State.reset.fuses.lifecycle = 1 ∧
  (Tab.get ⟨0, false, []⟩ State.reset.fuses.slots 0).state = 1 ∧
  (∀ i, 1 ≤ i → i < 4 → (Tab.get ⟨0, false, []⟩ State.reset.fuses.slots i).state = 0)

/-- R332. SHT_MSG places two words in the mailbox of an owner shuttle: E_NORES when the mailbox is full, E_STATE when the
shuttle is OFF, otherwise OK once the message is placed, in any other state. -/
def Obligations.MessagesReachMailboxes : Prop :=
  ∀ (h : Hdr) (sh w0 w1 : Nat) (s : State), s.takesPf (.shtMsg h sh w0 w1) = true → 4 ≤ sh → sh < 96 → s.testing (24 + sh / 8) = false →
    ∃ t, exec (.shtMsg h sh w0 w1) s = .next t ∧ (∀ m, m ≠ sh → t.shut m = s.shut m) ∧ (t.shut sh).p = (s.shut sh).p ∧
      (16 ≤ (s.shut sh).mbox.length → t.shut sh = s.shut sh ∧ completed (answer h eNoRes) s t) ∧
      ((s.shut sh).mbox.length < 16 → s.shState sh = stOff → t.shut sh = s.shut sh ∧ completed (answer h eState) s t) ∧
      ((s.shut sh).mbox.length < 16 → s.shState sh ≠ stOff →
        (t.shut sh).mbox = (s.shut sh).mbox ++ [(w0 % 2 ^ 24, w1 % 2 ^ 24)] ∧ completed (answer h eOk) s t) ∧
      onlyRegs (fun x => x = rSh_MBOX sh ∨ complReg x) s t ∧ onlyParts [.sht, .qps, .regs, .out] s t

/-- R492. A write of 1 to SEC.CTL.LOCK sets the SEC lock and word 48, and while the lock is set every unlock of test access
is refused: the device does not open, and the failure is counted. -/
def Obligations.TheLockHolds : Prop :=
  (∀ (v : W32) (s : State), s.awake = true → v.getLsbD 0 = true → ∃ t, exec (.secLock v) s = .next t ∧ t.on fSec_CTL_LOCK = true ∧
    t.locked = true ∧ (vote (t.ancCopies 48)).value = some 1#32 ∧ (∀ j, j ≠ 48 → t.ancCopies j = s.ancCopies j) ∧
    onlyRegs (fun r => r = rSec_CTL) s t ∧ onlyParts [.anc, .regs] s t)
  ∧ (∀ (resp : List Byte) (cl : List Bool) (s : State), s.dark = false → s.locked = true → ∃ t, exec (.secResp resp cl) s = .next t ∧
    t.dark = false ∧ t.sec.vault = s.sec.vault ∧ t.fuses = s.fuses ∧ t.sht = s.sht ∧ t.fld fSec_STAT_TA_STATE = 0 ∧
    t.fld fSec_TA_STAT_FAILS = min 3 (s.fld fSec_TA_STAT_FAILS + 1) ∧ t.on fSec_CTL_LOCK = s.on fSec_CTL_LOCK)

/-- R566. The beam-wide registers at 0x8000-0x8024 exist only in the BM0 range: there each offset that the table lists names
its register, and in BM1-BM15 every offset of the range names none, reads 0, and a write to it is dropped and logged with
E_FIELD. -/
def Obligations.BeamWideRegistersAreInBmZero : Prop :=
  (∀ o, o ∈ [0x8000, 0x8004, 0x8008, 0x8010, 0x8014, 0x8018, 0x801C, 0x8020, 0x8024] → ∀ s : State,
    s.regAt 0 (0x300000 + o) = some ⟨.bmw, 0, o⟩)
  ∧ (∀ (k o : Nat) (v : W32) (s : State), 1 ≤ k → k < 16 → 0x8000 ≤ o → o ≤ 0x8027 → s.awake = true →
    s.regAt 0 (0x300000 + 0x10000 * k + o) = none ∧
    (∃ t, exec (.resultRead 0 (0x300000 + 0x10000 * k + o)) s = .next t ∧ .readData 0 0#32 ∈ t.host.out ∧
      onlyRegs (fun x => x.blk = .sys ∨ x.blk = .win ∨ noteReg x) s t ∧ onlyParts [.rejLog, .rings, .out, .regs] s t) ∧
    (∃ t, exec (.registerWrite 0 (0x300000 + 0x10000 * k + o) v) s = .next t ∧
      (s.host.rejLog.length < 32 → t.host.rejLog = s.host.rejLog ++ [⟨0x300000 + 0x10000 * k + o, eField, 0, true, spaceOf 0⟩]) ∧
      onlyRegs (fun x => x.blk = .sys ∨ x.blk = .win ∨ noteReg x) s t ∧ onlyParts [.rejLog, .rings, .out, .regs] s t))

/-- R467. THM.BANDb.LANE_RELAX is written only while that of the next lower band is at most its own value: a write that breaks
the order is rejected with E_RANGE and changes nothing, any other value up to 30 is written; BAND0 has no lower band. -/
def Obligations.BandRelaxationsRise : Prop :=
  (∀ (b : Nat) (v : W32) (s : State), s.awake = true → 1 ≤ b → b ≤ 4 → bits v 7 0 < s.fld (fThm_BAND_LANE_RELAX (b - 1)) →
    s.host.rejLog.length < 32 → ∃ t, exec (.registerWrite 0 (addrOf (rThm_BAND b)) v) s = .next t ∧
      t.host.rejLog = s.host.rejLog ++ [⟨addrOf (rThm_BAND b), eRange, 0, true, 0⟩] ∧
      onlyRegs (fun x => x.blk = .sys ∨ x.blk = .win ∨ noteReg x) s t ∧ onlyParts [.rejLog, .rings, .out, .regs] s t)
  ∧ (∀ (b : Nat) (v : W32) (s : State), s.awake = true → b ≤ 4 → bits v 7 0 ≤ 30 →
    (b = 0 ∨ s.fld (fThm_BAND_LANE_RELAX (b - 1)) ≤ bits v 7 0) →
    ∃ t, exec (.registerWrite 0 (addrOf (rThm_BAND b)) v) s = .next t ∧ t.fld (fThm_BAND_LANE_RELAX b) = bits v 7 0 ∧
      onlyRegs (fun x => x = rThm_BAND b) s t ∧ onlyParts [.regs] s t)
end

