-- ==== Sys2Proof/Laws/State.lean ====
section
/-! SUPPORT. What the updates of the state leave as it was: one lemma per update, one equation per field. -/

set_option Elab.async false

namespace Sys2Proof.Machine

/-! `setReg` changes `regs` alone. -/

@[simp] theorem State.setReg_tb (s : State) (r : RegId) (w : W32) : (s.setReg r w).tb = s.tb := rfl
@[simp] theorem State.setReg_up (s : State) (r : RegId) (w : W32) : (s.setReg r w).up = s.up := rfl
@[simp] theorem State.setReg_free (s : State) (r : RegId) (w : W32) : (s.setReg r w).free = s.free := rfl
@[simp] theorem State.setReg_act (s : State) (r : RegId) (w : W32) : (s.setReg r w).act = s.act := rfl
@[simp] theorem State.setReg_host (s : State) (r : RegId) (w : W32) : (s.setReg r w).host = s.host := rfl
@[simp] theorem State.setReg_lanes (s : State) (r : RegId) (w : W32) : (s.setReg r w).lanes = s.lanes := rfl
@[simp] theorem State.setReg_gens (s : State) (r : RegId) (w : W32) : (s.setReg r w).gens = s.gens := rfl
@[simp] theorem State.setReg_time (s : State) (r : RegId) (w : W32) : (s.setReg r w).time = s.time := rfl
@[simp] theorem State.setReg_links (s : State) (r : RegId) (w : W32) : (s.setReg r w).links = s.links := rfl
@[simp] theorem State.setReg_crew (s : State) (r : RegId) (w : W32) : (s.setReg r w).crew = s.crew := rfl
@[simp] theorem State.setReg_beam (s : State) (r : RegId) (w : W32) : (s.setReg r w).beam = s.beam := rfl
@[simp] theorem State.setReg_loom (s : State) (r : RegId) (w : W32) : (s.setReg r w).loom = s.loom := rfl
@[simp] theorem State.setReg_sht (s : State) (r : RegId) (w : W32) : (s.setReg r w).sht = s.sht := rfl
@[simp] theorem State.setReg_drf (s : State) (r : RegId) (w : W32) : (s.setReg r w).drf = s.drf := rfl
@[simp] theorem State.setReg_ck (s : State) (r : RegId) (w : W32) : (s.setReg r w).ck = s.ck := rfl
@[simp] theorem State.setReg_mon (s : State) (r : RegId) (w : W32) : (s.setReg r w).mon = s.mon := rfl
@[simp] theorem State.setReg_bias (s : State) (r : RegId) (w : W32) : (s.setReg r w).bias = s.bias := rfl
@[simp] theorem State.setReg_pwr (s : State) (r : RegId) (w : W32) : (s.setReg r w).pwr = s.pwr := rfl
@[simp] theorem State.setReg_thm (s : State) (r : RegId) (w : W32) : (s.setReg r w).thm = s.thm := rfl
@[simp] theorem State.setReg_sec (s : State) (r : RegId) (w : W32) : (s.setReg r w).sec = s.sec := rfl
@[simp] theorem State.setReg_fuses (s : State) (r : RegId) (w : W32) : (s.setReg r w).fuses = s.fuses := rfl
@[simp] theorem State.setReg_anc (s : State) (r : RegId) (w : W32) : (s.setReg r w).anc = s.anc := rfl
@[simp] theorem State.setReg_split (s : State) (r : RegId) (w : W32) : (s.setReg r w).split = s.split := rfl
@[simp] theorem State.setReg_bist (s : State) (r : RegId) (w : W32) : (s.setReg r w).bist = s.bist := rfl
@[simp] theorem State.setReg_tstAt (s : State) (r : RegId) (w : W32) : (s.setReg r w).tstAt = s.tstAt := rfl
@[simp] theorem State.setReg_t0 (s : State) (r : RegId) (w : W32) : (s.setReg r w).t0 = s.t0 := rfl
@[simp] theorem State.setReg_dark (s : State) (r : RegId) (w : W32) : (s.setReg r w).dark = s.dark := rfl
@[simp] theorem State.setReg_pending (s : State) (r : RegId) (w : W32) : (s.setReg r w).pending = s.pending := rfl

/-! `setFld` changes `regs` alone. -/

@[simp] theorem State.setFld_tb (s : State) (f : FldId) (v : Nat) : (s.setFld f v).tb = s.tb := rfl
@[simp] theorem State.setFld_up (s : State) (f : FldId) (v : Nat) : (s.setFld f v).up = s.up := rfl
@[simp] theorem State.setFld_free (s : State) (f : FldId) (v : Nat) : (s.setFld f v).free = s.free := rfl
@[simp] theorem State.setFld_act (s : State) (f : FldId) (v : Nat) : (s.setFld f v).act = s.act := rfl
@[simp] theorem State.setFld_host (s : State) (f : FldId) (v : Nat) : (s.setFld f v).host = s.host := rfl
@[simp] theorem State.setFld_lanes (s : State) (f : FldId) (v : Nat) : (s.setFld f v).lanes = s.lanes := rfl
@[simp] theorem State.setFld_gens (s : State) (f : FldId) (v : Nat) : (s.setFld f v).gens = s.gens := rfl
@[simp] theorem State.setFld_time (s : State) (f : FldId) (v : Nat) : (s.setFld f v).time = s.time := rfl
@[simp] theorem State.setFld_links (s : State) (f : FldId) (v : Nat) : (s.setFld f v).links = s.links := rfl
@[simp] theorem State.setFld_crew (s : State) (f : FldId) (v : Nat) : (s.setFld f v).crew = s.crew := rfl
@[simp] theorem State.setFld_beam (s : State) (f : FldId) (v : Nat) : (s.setFld f v).beam = s.beam := rfl
@[simp] theorem State.setFld_loom (s : State) (f : FldId) (v : Nat) : (s.setFld f v).loom = s.loom := rfl
@[simp] theorem State.setFld_sht (s : State) (f : FldId) (v : Nat) : (s.setFld f v).sht = s.sht := rfl
@[simp] theorem State.setFld_drf (s : State) (f : FldId) (v : Nat) : (s.setFld f v).drf = s.drf := rfl
@[simp] theorem State.setFld_ck (s : State) (f : FldId) (v : Nat) : (s.setFld f v).ck = s.ck := rfl
@[simp] theorem State.setFld_mon (s : State) (f : FldId) (v : Nat) : (s.setFld f v).mon = s.mon := rfl
@[simp] theorem State.setFld_bias (s : State) (f : FldId) (v : Nat) : (s.setFld f v).bias = s.bias := rfl
@[simp] theorem State.setFld_pwr (s : State) (f : FldId) (v : Nat) : (s.setFld f v).pwr = s.pwr := rfl
@[simp] theorem State.setFld_thm (s : State) (f : FldId) (v : Nat) : (s.setFld f v).thm = s.thm := rfl
@[simp] theorem State.setFld_sec (s : State) (f : FldId) (v : Nat) : (s.setFld f v).sec = s.sec := rfl
@[simp] theorem State.setFld_fuses (s : State) (f : FldId) (v : Nat) : (s.setFld f v).fuses = s.fuses := rfl
@[simp] theorem State.setFld_anc (s : State) (f : FldId) (v : Nat) : (s.setFld f v).anc = s.anc := rfl
@[simp] theorem State.setFld_split (s : State) (f : FldId) (v : Nat) : (s.setFld f v).split = s.split := rfl
@[simp] theorem State.setFld_bist (s : State) (f : FldId) (v : Nat) : (s.setFld f v).bist = s.bist := rfl
@[simp] theorem State.setFld_tstAt (s : State) (f : FldId) (v : Nat) : (s.setFld f v).tstAt = s.tstAt := rfl
@[simp] theorem State.setFld_t0 (s : State) (f : FldId) (v : Nat) : (s.setFld f v).t0 = s.t0 := rfl
@[simp] theorem State.setFld_dark (s : State) (f : FldId) (v : Nat) : (s.setFld f v).dark = s.dark := rfl
@[simp] theorem State.setFld_pending (s : State) (f : FldId) (v : Nat) : (s.setFld f v).pending = s.pending := rfl

/-! `setSFld` changes `regs` alone. -/

@[simp] theorem State.setSFld_tb (s : State) (f : FldId) (v : Int) : (s.setSFld f v).tb = s.tb := rfl
@[simp] theorem State.setSFld_up (s : State) (f : FldId) (v : Int) : (s.setSFld f v).up = s.up := rfl
@[simp] theorem State.setSFld_free (s : State) (f : FldId) (v : Int) : (s.setSFld f v).free = s.free := rfl
@[simp] theorem State.setSFld_act (s : State) (f : FldId) (v : Int) : (s.setSFld f v).act = s.act := rfl
@[simp] theorem State.setSFld_host (s : State) (f : FldId) (v : Int) : (s.setSFld f v).host = s.host := rfl
@[simp] theorem State.setSFld_lanes (s : State) (f : FldId) (v : Int) : (s.setSFld f v).lanes = s.lanes := rfl
@[simp] theorem State.setSFld_gens (s : State) (f : FldId) (v : Int) : (s.setSFld f v).gens = s.gens := rfl
@[simp] theorem State.setSFld_time (s : State) (f : FldId) (v : Int) : (s.setSFld f v).time = s.time := rfl
@[simp] theorem State.setSFld_links (s : State) (f : FldId) (v : Int) : (s.setSFld f v).links = s.links := rfl
@[simp] theorem State.setSFld_crew (s : State) (f : FldId) (v : Int) : (s.setSFld f v).crew = s.crew := rfl
@[simp] theorem State.setSFld_beam (s : State) (f : FldId) (v : Int) : (s.setSFld f v).beam = s.beam := rfl
@[simp] theorem State.setSFld_loom (s : State) (f : FldId) (v : Int) : (s.setSFld f v).loom = s.loom := rfl
@[simp] theorem State.setSFld_sht (s : State) (f : FldId) (v : Int) : (s.setSFld f v).sht = s.sht := rfl
@[simp] theorem State.setSFld_drf (s : State) (f : FldId) (v : Int) : (s.setSFld f v).drf = s.drf := rfl
@[simp] theorem State.setSFld_ck (s : State) (f : FldId) (v : Int) : (s.setSFld f v).ck = s.ck := rfl
@[simp] theorem State.setSFld_mon (s : State) (f : FldId) (v : Int) : (s.setSFld f v).mon = s.mon := rfl
@[simp] theorem State.setSFld_bias (s : State) (f : FldId) (v : Int) : (s.setSFld f v).bias = s.bias := rfl
@[simp] theorem State.setSFld_pwr (s : State) (f : FldId) (v : Int) : (s.setSFld f v).pwr = s.pwr := rfl
@[simp] theorem State.setSFld_thm (s : State) (f : FldId) (v : Int) : (s.setSFld f v).thm = s.thm := rfl
@[simp] theorem State.setSFld_sec (s : State) (f : FldId) (v : Int) : (s.setSFld f v).sec = s.sec := rfl
@[simp] theorem State.setSFld_fuses (s : State) (f : FldId) (v : Int) : (s.setSFld f v).fuses = s.fuses := rfl
@[simp] theorem State.setSFld_anc (s : State) (f : FldId) (v : Int) : (s.setSFld f v).anc = s.anc := rfl
@[simp] theorem State.setSFld_split (s : State) (f : FldId) (v : Int) : (s.setSFld f v).split = s.split := rfl
@[simp] theorem State.setSFld_bist (s : State) (f : FldId) (v : Int) : (s.setSFld f v).bist = s.bist := rfl
@[simp] theorem State.setSFld_tstAt (s : State) (f : FldId) (v : Int) : (s.setSFld f v).tstAt = s.tstAt := rfl
@[simp] theorem State.setSFld_t0 (s : State) (f : FldId) (v : Int) : (s.setSFld f v).t0 = s.t0 := rfl
@[simp] theorem State.setSFld_dark (s : State) (f : FldId) (v : Int) : (s.setSFld f v).dark = s.dark := rfl
@[simp] theorem State.setSFld_pending (s : State) (f : FldId) (v : Int) : (s.setSFld f v).pending = s.pending := rfl

/-! `addSat` changes `regs` alone. -/

@[simp] theorem State.addSat_tb (s : State) (f : FldId) (d : Nat) : (s.addSat f d).tb = s.tb := rfl
@[simp] theorem State.addSat_up (s : State) (f : FldId) (d : Nat) : (s.addSat f d).up = s.up := rfl
@[simp] theorem State.addSat_free (s : State) (f : FldId) (d : Nat) : (s.addSat f d).free = s.free := rfl
@[simp] theorem State.addSat_act (s : State) (f : FldId) (d : Nat) : (s.addSat f d).act = s.act := rfl
@[simp] theorem State.addSat_host (s : State) (f : FldId) (d : Nat) : (s.addSat f d).host = s.host := rfl
@[simp] theorem State.addSat_lanes (s : State) (f : FldId) (d : Nat) : (s.addSat f d).lanes = s.lanes := rfl
@[simp] theorem State.addSat_gens (s : State) (f : FldId) (d : Nat) : (s.addSat f d).gens = s.gens := rfl
@[simp] theorem State.addSat_time (s : State) (f : FldId) (d : Nat) : (s.addSat f d).time = s.time := rfl
@[simp] theorem State.addSat_links (s : State) (f : FldId) (d : Nat) : (s.addSat f d).links = s.links := rfl
@[simp] theorem State.addSat_crew (s : State) (f : FldId) (d : Nat) : (s.addSat f d).crew = s.crew := rfl
@[simp] theorem State.addSat_beam (s : State) (f : FldId) (d : Nat) : (s.addSat f d).beam = s.beam := rfl
@[simp] theorem State.addSat_loom (s : State) (f : FldId) (d : Nat) : (s.addSat f d).loom = s.loom := rfl
@[simp] theorem State.addSat_sht (s : State) (f : FldId) (d : Nat) : (s.addSat f d).sht = s.sht := rfl
@[simp] theorem State.addSat_drf (s : State) (f : FldId) (d : Nat) : (s.addSat f d).drf = s.drf := rfl
@[simp] theorem State.addSat_ck (s : State) (f : FldId) (d : Nat) : (s.addSat f d).ck = s.ck := rfl
@[simp] theorem State.addSat_mon (s : State) (f : FldId) (d : Nat) : (s.addSat f d).mon = s.mon := rfl
@[simp] theorem State.addSat_bias (s : State) (f : FldId) (d : Nat) : (s.addSat f d).bias = s.bias := rfl
@[simp] theorem State.addSat_pwr (s : State) (f : FldId) (d : Nat) : (s.addSat f d).pwr = s.pwr := rfl
@[simp] theorem State.addSat_thm (s : State) (f : FldId) (d : Nat) : (s.addSat f d).thm = s.thm := rfl
@[simp] theorem State.addSat_sec (s : State) (f : FldId) (d : Nat) : (s.addSat f d).sec = s.sec := rfl
@[simp] theorem State.addSat_fuses (s : State) (f : FldId) (d : Nat) : (s.addSat f d).fuses = s.fuses := rfl
@[simp] theorem State.addSat_anc (s : State) (f : FldId) (d : Nat) : (s.addSat f d).anc = s.anc := rfl
@[simp] theorem State.addSat_split (s : State) (f : FldId) (d : Nat) : (s.addSat f d).split = s.split := rfl
@[simp] theorem State.addSat_bist (s : State) (f : FldId) (d : Nat) : (s.addSat f d).bist = s.bist := rfl
@[simp] theorem State.addSat_tstAt (s : State) (f : FldId) (d : Nat) : (s.addSat f d).tstAt = s.tstAt := rfl
@[simp] theorem State.addSat_t0 (s : State) (f : FldId) (d : Nat) : (s.addSat f d).t0 = s.t0 := rfl
@[simp] theorem State.addSat_dark (s : State) (f : FldId) (d : Nat) : (s.addSat f d).dark = s.dark := rfl
@[simp] theorem State.addSat_pending (s : State) (f : FldId) (d : Nat) : (s.addSat f d).pending = s.pending := rfl

/-! `incWrap` changes `regs` alone. -/

@[simp] theorem State.incWrap_tb (s : State) (f : FldId) : (s.incWrap f).tb = s.tb := rfl
@[simp] theorem State.incWrap_up (s : State) (f : FldId) : (s.incWrap f).up = s.up := rfl
@[simp] theorem State.incWrap_free (s : State) (f : FldId) : (s.incWrap f).free = s.free := rfl
@[simp] theorem State.incWrap_act (s : State) (f : FldId) : (s.incWrap f).act = s.act := rfl
@[simp] theorem State.incWrap_host (s : State) (f : FldId) : (s.incWrap f).host = s.host := rfl
@[simp] theorem State.incWrap_lanes (s : State) (f : FldId) : (s.incWrap f).lanes = s.lanes := rfl
@[simp] theorem State.incWrap_gens (s : State) (f : FldId) : (s.incWrap f).gens = s.gens := rfl
@[simp] theorem State.incWrap_time (s : State) (f : FldId) : (s.incWrap f).time = s.time := rfl
@[simp] theorem State.incWrap_links (s : State) (f : FldId) : (s.incWrap f).links = s.links := rfl
@[simp] theorem State.incWrap_crew (s : State) (f : FldId) : (s.incWrap f).crew = s.crew := rfl
@[simp] theorem State.incWrap_beam (s : State) (f : FldId) : (s.incWrap f).beam = s.beam := rfl
@[simp] theorem State.incWrap_loom (s : State) (f : FldId) : (s.incWrap f).loom = s.loom := rfl
@[simp] theorem State.incWrap_sht (s : State) (f : FldId) : (s.incWrap f).sht = s.sht := rfl
@[simp] theorem State.incWrap_drf (s : State) (f : FldId) : (s.incWrap f).drf = s.drf := rfl
@[simp] theorem State.incWrap_ck (s : State) (f : FldId) : (s.incWrap f).ck = s.ck := rfl
@[simp] theorem State.incWrap_mon (s : State) (f : FldId) : (s.incWrap f).mon = s.mon := rfl
@[simp] theorem State.incWrap_bias (s : State) (f : FldId) : (s.incWrap f).bias = s.bias := rfl
@[simp] theorem State.incWrap_pwr (s : State) (f : FldId) : (s.incWrap f).pwr = s.pwr := rfl
@[simp] theorem State.incWrap_thm (s : State) (f : FldId) : (s.incWrap f).thm = s.thm := rfl
@[simp] theorem State.incWrap_sec (s : State) (f : FldId) : (s.incWrap f).sec = s.sec := rfl
@[simp] theorem State.incWrap_fuses (s : State) (f : FldId) : (s.incWrap f).fuses = s.fuses := rfl
@[simp] theorem State.incWrap_anc (s : State) (f : FldId) : (s.incWrap f).anc = s.anc := rfl
@[simp] theorem State.incWrap_split (s : State) (f : FldId) : (s.incWrap f).split = s.split := rfl
@[simp] theorem State.incWrap_bist (s : State) (f : FldId) : (s.incWrap f).bist = s.bist := rfl
@[simp] theorem State.incWrap_tstAt (s : State) (f : FldId) : (s.incWrap f).tstAt = s.tstAt := rfl
@[simp] theorem State.incWrap_t0 (s : State) (f : FldId) : (s.incWrap f).t0 = s.t0 := rfl
@[simp] theorem State.incWrap_dark (s : State) (f : FldId) : (s.incWrap f).dark = s.dark := rfl
@[simp] theorem State.incWrap_pending (s : State) (f : FldId) : (s.incWrap f).pending = s.pending := rfl

/-! `setPair` changes `regs` alone. -/

@[simp] theorem State.setPair_tb (s : State) (lo hi : RegId) (v : Nat) : (s.setPair lo hi v).tb = s.tb := rfl
@[simp] theorem State.setPair_up (s : State) (lo hi : RegId) (v : Nat) : (s.setPair lo hi v).up = s.up := rfl
@[simp] theorem State.setPair_free (s : State) (lo hi : RegId) (v : Nat) : (s.setPair lo hi v).free = s.free := rfl
@[simp] theorem State.setPair_act (s : State) (lo hi : RegId) (v : Nat) : (s.setPair lo hi v).act = s.act := rfl
@[simp] theorem State.setPair_host (s : State) (lo hi : RegId) (v : Nat) : (s.setPair lo hi v).host = s.host := rfl
@[simp] theorem State.setPair_lanes (s : State) (lo hi : RegId) (v : Nat) : (s.setPair lo hi v).lanes = s.lanes := rfl
@[simp] theorem State.setPair_gens (s : State) (lo hi : RegId) (v : Nat) : (s.setPair lo hi v).gens = s.gens := rfl
@[simp] theorem State.setPair_time (s : State) (lo hi : RegId) (v : Nat) : (s.setPair lo hi v).time = s.time := rfl
@[simp] theorem State.setPair_links (s : State) (lo hi : RegId) (v : Nat) : (s.setPair lo hi v).links = s.links := rfl
@[simp] theorem State.setPair_crew (s : State) (lo hi : RegId) (v : Nat) : (s.setPair lo hi v).crew = s.crew := rfl
@[simp] theorem State.setPair_beam (s : State) (lo hi : RegId) (v : Nat) : (s.setPair lo hi v).beam = s.beam := rfl
@[simp] theorem State.setPair_loom (s : State) (lo hi : RegId) (v : Nat) : (s.setPair lo hi v).loom = s.loom := rfl
@[simp] theorem State.setPair_sht (s : State) (lo hi : RegId) (v : Nat) : (s.setPair lo hi v).sht = s.sht := rfl
@[simp] theorem State.setPair_drf (s : State) (lo hi : RegId) (v : Nat) : (s.setPair lo hi v).drf = s.drf := rfl
@[simp] theorem State.setPair_ck (s : State) (lo hi : RegId) (v : Nat) : (s.setPair lo hi v).ck = s.ck := rfl
@[simp] theorem State.setPair_mon (s : State) (lo hi : RegId) (v : Nat) : (s.setPair lo hi v).mon = s.mon := rfl
@[simp] theorem State.setPair_bias (s : State) (lo hi : RegId) (v : Nat) : (s.setPair lo hi v).bias = s.bias := rfl
@[simp] theorem State.setPair_pwr (s : State) (lo hi : RegId) (v : Nat) : (s.setPair lo hi v).pwr = s.pwr := rfl
@[simp] theorem State.setPair_thm (s : State) (lo hi : RegId) (v : Nat) : (s.setPair lo hi v).thm = s.thm := rfl
@[simp] theorem State.setPair_sec (s : State) (lo hi : RegId) (v : Nat) : (s.setPair lo hi v).sec = s.sec := rfl
@[simp] theorem State.setPair_fuses (s : State) (lo hi : RegId) (v : Nat) : (s.setPair lo hi v).fuses = s.fuses := rfl
@[simp] theorem State.setPair_anc (s : State) (lo hi : RegId) (v : Nat) : (s.setPair lo hi v).anc = s.anc := rfl
@[simp] theorem State.setPair_split (s : State) (lo hi : RegId) (v : Nat) : (s.setPair lo hi v).split = s.split := rfl
@[simp] theorem State.setPair_bist (s : State) (lo hi : RegId) (v : Nat) : (s.setPair lo hi v).bist = s.bist := rfl
@[simp] theorem State.setPair_tstAt (s : State) (lo hi : RegId) (v : Nat) : (s.setPair lo hi v).tstAt = s.tstAt := rfl
@[simp] theorem State.setPair_t0 (s : State) (lo hi : RegId) (v : Nat) : (s.setPair lo hi v).t0 = s.t0 := rfl
@[simp] theorem State.setPair_dark (s : State) (lo hi : RegId) (v : Nat) : (s.setPair lo hi v).dark = s.dark := rfl
@[simp] theorem State.setPair_pending (s : State) (lo hi : RegId) (v : Nat) : (s.setPair lo hi v).pending = s.pending := rfl

/-! `resultReady` changes `regs` alone. -/

@[simp] theorem State.resultReady_tb (s : State) (r : RegId) : (s.resultReady r).tb = s.tb := rfl
@[simp] theorem State.resultReady_up (s : State) (r : RegId) : (s.resultReady r).up = s.up := rfl
@[simp] theorem State.resultReady_free (s : State) (r : RegId) : (s.resultReady r).free = s.free := rfl
@[simp] theorem State.resultReady_act (s : State) (r : RegId) : (s.resultReady r).act = s.act := rfl
@[simp] theorem State.resultReady_host (s : State) (r : RegId) : (s.resultReady r).host = s.host := rfl
@[simp] theorem State.resultReady_lanes (s : State) (r : RegId) : (s.resultReady r).lanes = s.lanes := rfl
@[simp] theorem State.resultReady_gens (s : State) (r : RegId) : (s.resultReady r).gens = s.gens := rfl
@[simp] theorem State.resultReady_time (s : State) (r : RegId) : (s.resultReady r).time = s.time := rfl
@[simp] theorem State.resultReady_links (s : State) (r : RegId) : (s.resultReady r).links = s.links := rfl
@[simp] theorem State.resultReady_crew (s : State) (r : RegId) : (s.resultReady r).crew = s.crew := rfl
@[simp] theorem State.resultReady_beam (s : State) (r : RegId) : (s.resultReady r).beam = s.beam := rfl
@[simp] theorem State.resultReady_loom (s : State) (r : RegId) : (s.resultReady r).loom = s.loom := rfl
@[simp] theorem State.resultReady_sht (s : State) (r : RegId) : (s.resultReady r).sht = s.sht := rfl
@[simp] theorem State.resultReady_drf (s : State) (r : RegId) : (s.resultReady r).drf = s.drf := rfl
@[simp] theorem State.resultReady_ck (s : State) (r : RegId) : (s.resultReady r).ck = s.ck := rfl
@[simp] theorem State.resultReady_mon (s : State) (r : RegId) : (s.resultReady r).mon = s.mon := rfl
@[simp] theorem State.resultReady_bias (s : State) (r : RegId) : (s.resultReady r).bias = s.bias := rfl
@[simp] theorem State.resultReady_pwr (s : State) (r : RegId) : (s.resultReady r).pwr = s.pwr := rfl
@[simp] theorem State.resultReady_thm (s : State) (r : RegId) : (s.resultReady r).thm = s.thm := rfl
@[simp] theorem State.resultReady_sec (s : State) (r : RegId) : (s.resultReady r).sec = s.sec := rfl
@[simp] theorem State.resultReady_fuses (s : State) (r : RegId) : (s.resultReady r).fuses = s.fuses := rfl
@[simp] theorem State.resultReady_anc (s : State) (r : RegId) : (s.resultReady r).anc = s.anc := rfl
@[simp] theorem State.resultReady_split (s : State) (r : RegId) : (s.resultReady r).split = s.split := rfl
@[simp] theorem State.resultReady_bist (s : State) (r : RegId) : (s.resultReady r).bist = s.bist := rfl
@[simp] theorem State.resultReady_tstAt (s : State) (r : RegId) : (s.resultReady r).tstAt = s.tstAt := rfl
@[simp] theorem State.resultReady_t0 (s : State) (r : RegId) : (s.resultReady r).t0 = s.t0 := rfl
@[simp] theorem State.resultReady_dark (s : State) (r : RegId) : (s.resultReady r).dark = s.dark := rfl
@[simp] theorem State.resultReady_pending (s : State) (r : RegId) : (s.resultReady r).pending = s.pending := rfl

/-! `resultPending` changes `regs` alone. -/

@[simp] theorem State.resultPending_tb (s : State) (r : RegId) : (s.resultPending r).tb = s.tb := rfl
@[simp] theorem State.resultPending_up (s : State) (r : RegId) : (s.resultPending r).up = s.up := rfl
@[simp] theorem State.resultPending_free (s : State) (r : RegId) : (s.resultPending r).free = s.free := rfl
@[simp] theorem State.resultPending_act (s : State) (r : RegId) : (s.resultPending r).act = s.act := rfl
@[simp] theorem State.resultPending_host (s : State) (r : RegId) : (s.resultPending r).host = s.host := rfl
@[simp] theorem State.resultPending_lanes (s : State) (r : RegId) : (s.resultPending r).lanes = s.lanes := rfl
@[simp] theorem State.resultPending_gens (s : State) (r : RegId) : (s.resultPending r).gens = s.gens := rfl
@[simp] theorem State.resultPending_time (s : State) (r : RegId) : (s.resultPending r).time = s.time := rfl
@[simp] theorem State.resultPending_links (s : State) (r : RegId) : (s.resultPending r).links = s.links := rfl
@[simp] theorem State.resultPending_crew (s : State) (r : RegId) : (s.resultPending r).crew = s.crew := rfl
@[simp] theorem State.resultPending_beam (s : State) (r : RegId) : (s.resultPending r).beam = s.beam := rfl
@[simp] theorem State.resultPending_loom (s : State) (r : RegId) : (s.resultPending r).loom = s.loom := rfl
@[simp] theorem State.resultPending_sht (s : State) (r : RegId) : (s.resultPending r).sht = s.sht := rfl
@[simp] theorem State.resultPending_drf (s : State) (r : RegId) : (s.resultPending r).drf = s.drf := rfl
@[simp] theorem State.resultPending_ck (s : State) (r : RegId) : (s.resultPending r).ck = s.ck := rfl
@[simp] theorem State.resultPending_mon (s : State) (r : RegId) : (s.resultPending r).mon = s.mon := rfl
@[simp] theorem State.resultPending_bias (s : State) (r : RegId) : (s.resultPending r).bias = s.bias := rfl
@[simp] theorem State.resultPending_pwr (s : State) (r : RegId) : (s.resultPending r).pwr = s.pwr := rfl
@[simp] theorem State.resultPending_thm (s : State) (r : RegId) : (s.resultPending r).thm = s.thm := rfl
@[simp] theorem State.resultPending_sec (s : State) (r : RegId) : (s.resultPending r).sec = s.sec := rfl
@[simp] theorem State.resultPending_fuses (s : State) (r : RegId) : (s.resultPending r).fuses = s.fuses := rfl
@[simp] theorem State.resultPending_anc (s : State) (r : RegId) : (s.resultPending r).anc = s.anc := rfl
@[simp] theorem State.resultPending_split (s : State) (r : RegId) : (s.resultPending r).split = s.split := rfl
@[simp] theorem State.resultPending_bist (s : State) (r : RegId) : (s.resultPending r).bist = s.bist := rfl
@[simp] theorem State.resultPending_tstAt (s : State) (r : RegId) : (s.resultPending r).tstAt = s.tstAt := rfl
@[simp] theorem State.resultPending_t0 (s : State) (r : RegId) : (s.resultPending r).t0 = s.t0 := rfl
@[simp] theorem State.resultPending_dark (s : State) (r : RegId) : (s.resultPending r).dark = s.dark := rfl
@[simp] theorem State.resultPending_pending (s : State) (r : RegId) : (s.resultPending r).pending = s.pending := rfl

/-! `clearRegs` changes `regs` alone. -/

@[simp] theorem State.clearRegs_tb (s : State) (p : RegId → Bool) : (s.clearRegs p).tb = s.tb := rfl
@[simp] theorem State.clearRegs_up (s : State) (p : RegId → Bool) : (s.clearRegs p).up = s.up := rfl
@[simp] theorem State.clearRegs_free (s : State) (p : RegId → Bool) : (s.clearRegs p).free = s.free := rfl
@[simp] theorem State.clearRegs_act (s : State) (p : RegId → Bool) : (s.clearRegs p).act = s.act := rfl
@[simp] theorem State.clearRegs_host (s : State) (p : RegId → Bool) : (s.clearRegs p).host = s.host := rfl
@[simp] theorem State.clearRegs_lanes (s : State) (p : RegId → Bool) : (s.clearRegs p).lanes = s.lanes := rfl
@[simp] theorem State.clearRegs_gens (s : State) (p : RegId → Bool) : (s.clearRegs p).gens = s.gens := rfl
@[simp] theorem State.clearRegs_time (s : State) (p : RegId → Bool) : (s.clearRegs p).time = s.time := rfl
@[simp] theorem State.clearRegs_links (s : State) (p : RegId → Bool) : (s.clearRegs p).links = s.links := rfl
@[simp] theorem State.clearRegs_crew (s : State) (p : RegId → Bool) : (s.clearRegs p).crew = s.crew := rfl
@[simp] theorem State.clearRegs_beam (s : State) (p : RegId → Bool) : (s.clearRegs p).beam = s.beam := rfl
@[simp] theorem State.clearRegs_loom (s : State) (p : RegId → Bool) : (s.clearRegs p).loom = s.loom := rfl
@[simp] theorem State.clearRegs_sht (s : State) (p : RegId → Bool) : (s.clearRegs p).sht = s.sht := rfl
@[simp] theorem State.clearRegs_drf (s : State) (p : RegId → Bool) : (s.clearRegs p).drf = s.drf := rfl
@[simp] theorem State.clearRegs_ck (s : State) (p : RegId → Bool) : (s.clearRegs p).ck = s.ck := rfl
@[simp] theorem State.clearRegs_mon (s : State) (p : RegId → Bool) : (s.clearRegs p).mon = s.mon := rfl
@[simp] theorem State.clearRegs_bias (s : State) (p : RegId → Bool) : (s.clearRegs p).bias = s.bias := rfl
@[simp] theorem State.clearRegs_pwr (s : State) (p : RegId → Bool) : (s.clearRegs p).pwr = s.pwr := rfl
@[simp] theorem State.clearRegs_thm (s : State) (p : RegId → Bool) : (s.clearRegs p).thm = s.thm := rfl
@[simp] theorem State.clearRegs_sec (s : State) (p : RegId → Bool) : (s.clearRegs p).sec = s.sec := rfl
@[simp] theorem State.clearRegs_fuses (s : State) (p : RegId → Bool) : (s.clearRegs p).fuses = s.fuses := rfl
@[simp] theorem State.clearRegs_anc (s : State) (p : RegId → Bool) : (s.clearRegs p).anc = s.anc := rfl
@[simp] theorem State.clearRegs_split (s : State) (p : RegId → Bool) : (s.clearRegs p).split = s.split := rfl
@[simp] theorem State.clearRegs_bist (s : State) (p : RegId → Bool) : (s.clearRegs p).bist = s.bist := rfl
@[simp] theorem State.clearRegs_tstAt (s : State) (p : RegId → Bool) : (s.clearRegs p).tstAt = s.tstAt := rfl
@[simp] theorem State.clearRegs_t0 (s : State) (p : RegId → Bool) : (s.clearRegs p).t0 = s.t0 := rfl
@[simp] theorem State.clearRegs_dark (s : State) (p : RegId → Bool) : (s.clearRegs p).dark = s.dark := rfl
@[simp] theorem State.clearRegs_pending (s : State) (p : RegId → Bool) : (s.clearRegs p).pending = s.pending := rfl

/-! `resetRegs` changes `regs` and `host` alone. -/

@[simp] theorem State.resetRegs_tb (s : State) (p : RegId → Bool) : (s.resetRegs p).tb = s.tb := rfl
@[simp] theorem State.resetRegs_up (s : State) (p : RegId → Bool) : (s.resetRegs p).up = s.up := rfl
@[simp] theorem State.resetRegs_free (s : State) (p : RegId → Bool) : (s.resetRegs p).free = s.free := rfl
@[simp] theorem State.resetRegs_act (s : State) (p : RegId → Bool) : (s.resetRegs p).act = s.act := rfl
@[simp] theorem State.resetRegs_lanes (s : State) (p : RegId → Bool) : (s.resetRegs p).lanes = s.lanes := rfl
@[simp] theorem State.resetRegs_gens (s : State) (p : RegId → Bool) : (s.resetRegs p).gens = s.gens := rfl
@[simp] theorem State.resetRegs_time (s : State) (p : RegId → Bool) : (s.resetRegs p).time = s.time := rfl
@[simp] theorem State.resetRegs_links (s : State) (p : RegId → Bool) : (s.resetRegs p).links = s.links := rfl
@[simp] theorem State.resetRegs_crew (s : State) (p : RegId → Bool) : (s.resetRegs p).crew = s.crew := rfl
@[simp] theorem State.resetRegs_beam (s : State) (p : RegId → Bool) : (s.resetRegs p).beam = s.beam := rfl
@[simp] theorem State.resetRegs_loom (s : State) (p : RegId → Bool) : (s.resetRegs p).loom = s.loom := rfl
@[simp] theorem State.resetRegs_sht (s : State) (p : RegId → Bool) : (s.resetRegs p).sht = s.sht := rfl
@[simp] theorem State.resetRegs_drf (s : State) (p : RegId → Bool) : (s.resetRegs p).drf = s.drf := rfl
@[simp] theorem State.resetRegs_ck (s : State) (p : RegId → Bool) : (s.resetRegs p).ck = s.ck := rfl
@[simp] theorem State.resetRegs_mon (s : State) (p : RegId → Bool) : (s.resetRegs p).mon = s.mon := rfl
@[simp] theorem State.resetRegs_bias (s : State) (p : RegId → Bool) : (s.resetRegs p).bias = s.bias := rfl
@[simp] theorem State.resetRegs_pwr (s : State) (p : RegId → Bool) : (s.resetRegs p).pwr = s.pwr := rfl
@[simp] theorem State.resetRegs_thm (s : State) (p : RegId → Bool) : (s.resetRegs p).thm = s.thm := rfl
@[simp] theorem State.resetRegs_sec (s : State) (p : RegId → Bool) : (s.resetRegs p).sec = s.sec := rfl
@[simp] theorem State.resetRegs_fuses (s : State) (p : RegId → Bool) : (s.resetRegs p).fuses = s.fuses := rfl
@[simp] theorem State.resetRegs_anc (s : State) (p : RegId → Bool) : (s.resetRegs p).anc = s.anc := rfl
@[simp] theorem State.resetRegs_split (s : State) (p : RegId → Bool) : (s.resetRegs p).split = s.split := rfl
@[simp] theorem State.resetRegs_bist (s : State) (p : RegId → Bool) : (s.resetRegs p).bist = s.bist := rfl
@[simp] theorem State.resetRegs_tstAt (s : State) (p : RegId → Bool) : (s.resetRegs p).tstAt = s.tstAt := rfl
@[simp] theorem State.resetRegs_t0 (s : State) (p : RegId → Bool) : (s.resetRegs p).t0 = s.t0 := rfl
@[simp] theorem State.resetRegs_dark (s : State) (p : RegId → Bool) : (s.resetRegs p).dark = s.dark := rfl
@[simp] theorem State.resetRegs_pending (s : State) (p : RegId → Bool) : (s.resetRegs p).pending = s.pending := rfl
@[simp] theorem State.resetRegs_host_qps (s : State) (p : RegId → Bool) : (s.resetRegs p).host.qps = s.host.qps := rfl
@[simp] theorem State.resetRegs_host_rings (s : State) (p : RegId → Bool) : (s.resetRegs p).host.rings = s.host.rings := rfl
@[simp] theorem State.resetRegs_host_bme (s : State) (p : RegId → Bool) : (s.resetRegs p).host.bme = s.host.bme := rfl
@[simp] theorem State.resetRegs_host_cfg (s : State) (p : RegId → Bool) : (s.resetRegs p).host.cfg = s.host.cfg := rfl
@[simp] theorem State.resetRegs_host_vfs (s : State) (p : RegId → Bool) : (s.resetRegs p).host.vfs = s.host.vfs := rfl
@[simp] theorem State.resetRegs_host_held (s : State) (p : RegId → Bool) : (s.resetRegs p).host.held = s.host.held := rfl
@[simp] theorem State.resetRegs_host_rejLog (s : State) (p : RegId → Bool) : (s.resetRegs p).host.rejLog = s.host.rejLog := rfl
@[simp] theorem State.resetRegs_host_lastNote (s : State) (p : RegId → Bool) : (s.resetRegs p).host.lastNote = s.host.lastNote := rfl
@[simp] theorem State.resetRegs_host_out (s : State) (p : RegId → Bool) : (s.resetRegs p).host.out = s.host.out := rfl

/-! `resetAct` changes `act` alone. -/

@[simp] theorem State.resetAct_tb (s : State) (p : RegId → Bool) : (s.resetAct p).tb = s.tb := rfl
@[simp] theorem State.resetAct_up (s : State) (p : RegId → Bool) : (s.resetAct p).up = s.up := rfl
@[simp] theorem State.resetAct_free (s : State) (p : RegId → Bool) : (s.resetAct p).free = s.free := rfl
@[simp] theorem State.resetAct_regs (s : State) (p : RegId → Bool) : (s.resetAct p).regs = s.regs := rfl
@[simp] theorem State.resetAct_host (s : State) (p : RegId → Bool) : (s.resetAct p).host = s.host := rfl
@[simp] theorem State.resetAct_lanes (s : State) (p : RegId → Bool) : (s.resetAct p).lanes = s.lanes := rfl
@[simp] theorem State.resetAct_gens (s : State) (p : RegId → Bool) : (s.resetAct p).gens = s.gens := rfl
@[simp] theorem State.resetAct_time (s : State) (p : RegId → Bool) : (s.resetAct p).time = s.time := rfl
@[simp] theorem State.resetAct_links (s : State) (p : RegId → Bool) : (s.resetAct p).links = s.links := rfl
@[simp] theorem State.resetAct_crew (s : State) (p : RegId → Bool) : (s.resetAct p).crew = s.crew := rfl
@[simp] theorem State.resetAct_beam (s : State) (p : RegId → Bool) : (s.resetAct p).beam = s.beam := rfl
@[simp] theorem State.resetAct_loom (s : State) (p : RegId → Bool) : (s.resetAct p).loom = s.loom := rfl
@[simp] theorem State.resetAct_sht (s : State) (p : RegId → Bool) : (s.resetAct p).sht = s.sht := rfl
@[simp] theorem State.resetAct_drf (s : State) (p : RegId → Bool) : (s.resetAct p).drf = s.drf := rfl
@[simp] theorem State.resetAct_ck (s : State) (p : RegId → Bool) : (s.resetAct p).ck = s.ck := rfl
@[simp] theorem State.resetAct_mon (s : State) (p : RegId → Bool) : (s.resetAct p).mon = s.mon := rfl
@[simp] theorem State.resetAct_bias (s : State) (p : RegId → Bool) : (s.resetAct p).bias = s.bias := rfl
@[simp] theorem State.resetAct_pwr (s : State) (p : RegId → Bool) : (s.resetAct p).pwr = s.pwr := rfl
@[simp] theorem State.resetAct_thm (s : State) (p : RegId → Bool) : (s.resetAct p).thm = s.thm := rfl
@[simp] theorem State.resetAct_sec (s : State) (p : RegId → Bool) : (s.resetAct p).sec = s.sec := rfl
@[simp] theorem State.resetAct_fuses (s : State) (p : RegId → Bool) : (s.resetAct p).fuses = s.fuses := rfl
@[simp] theorem State.resetAct_anc (s : State) (p : RegId → Bool) : (s.resetAct p).anc = s.anc := rfl
@[simp] theorem State.resetAct_split (s : State) (p : RegId → Bool) : (s.resetAct p).split = s.split := rfl
@[simp] theorem State.resetAct_bist (s : State) (p : RegId → Bool) : (s.resetAct p).bist = s.bist := rfl
@[simp] theorem State.resetAct_tstAt (s : State) (p : RegId → Bool) : (s.resetAct p).tstAt = s.tstAt := rfl
@[simp] theorem State.resetAct_t0 (s : State) (p : RegId → Bool) : (s.resetAct p).t0 = s.t0 := rfl
@[simp] theorem State.resetAct_dark (s : State) (p : RegId → Bool) : (s.resetAct p).dark = s.dark := rfl
@[simp] theorem State.resetAct_pending (s : State) (p : RegId → Bool) : (s.resetAct p).pending = s.pending := rfl

/-! `setLane` changes `lanes` alone. -/

@[simp] theorem State.setLane_tb (s : State) (n : Nat) (l : Lane) : (s.setLane n l).tb = s.tb := rfl
@[simp] theorem State.setLane_up (s : State) (n : Nat) (l : Lane) : (s.setLane n l).up = s.up := rfl
@[simp] theorem State.setLane_free (s : State) (n : Nat) (l : Lane) : (s.setLane n l).free = s.free := rfl
@[simp] theorem State.setLane_regs (s : State) (n : Nat) (l : Lane) : (s.setLane n l).regs = s.regs := rfl
@[simp] theorem State.setLane_act (s : State) (n : Nat) (l : Lane) : (s.setLane n l).act = s.act := rfl
@[simp] theorem State.setLane_host (s : State) (n : Nat) (l : Lane) : (s.setLane n l).host = s.host := rfl
@[simp] theorem State.setLane_gens (s : State) (n : Nat) (l : Lane) : (s.setLane n l).gens = s.gens := rfl
@[simp] theorem State.setLane_time (s : State) (n : Nat) (l : Lane) : (s.setLane n l).time = s.time := rfl
@[simp] theorem State.setLane_links (s : State) (n : Nat) (l : Lane) : (s.setLane n l).links = s.links := rfl
@[simp] theorem State.setLane_crew (s : State) (n : Nat) (l : Lane) : (s.setLane n l).crew = s.crew := rfl
@[simp] theorem State.setLane_beam (s : State) (n : Nat) (l : Lane) : (s.setLane n l).beam = s.beam := rfl
@[simp] theorem State.setLane_loom (s : State) (n : Nat) (l : Lane) : (s.setLane n l).loom = s.loom := rfl
@[simp] theorem State.setLane_sht (s : State) (n : Nat) (l : Lane) : (s.setLane n l).sht = s.sht := rfl
@[simp] theorem State.setLane_drf (s : State) (n : Nat) (l : Lane) : (s.setLane n l).drf = s.drf := rfl
@[simp] theorem State.setLane_ck (s : State) (n : Nat) (l : Lane) : (s.setLane n l).ck = s.ck := rfl
@[simp] theorem State.setLane_mon (s : State) (n : Nat) (l : Lane) : (s.setLane n l).mon = s.mon := rfl
@[simp] theorem State.setLane_bias (s : State) (n : Nat) (l : Lane) : (s.setLane n l).bias = s.bias := rfl
@[simp] theorem State.setLane_pwr (s : State) (n : Nat) (l : Lane) : (s.setLane n l).pwr = s.pwr := rfl
@[simp] theorem State.setLane_thm (s : State) (n : Nat) (l : Lane) : (s.setLane n l).thm = s.thm := rfl
@[simp] theorem State.setLane_sec (s : State) (n : Nat) (l : Lane) : (s.setLane n l).sec = s.sec := rfl
@[simp] theorem State.setLane_fuses (s : State) (n : Nat) (l : Lane) : (s.setLane n l).fuses = s.fuses := rfl
@[simp] theorem State.setLane_anc (s : State) (n : Nat) (l : Lane) : (s.setLane n l).anc = s.anc := rfl
@[simp] theorem State.setLane_split (s : State) (n : Nat) (l : Lane) : (s.setLane n l).split = s.split := rfl
@[simp] theorem State.setLane_bist (s : State) (n : Nat) (l : Lane) : (s.setLane n l).bist = s.bist := rfl
@[simp] theorem State.setLane_tstAt (s : State) (n : Nat) (l : Lane) : (s.setLane n l).tstAt = s.tstAt := rfl
@[simp] theorem State.setLane_t0 (s : State) (n : Nat) (l : Lane) : (s.setLane n l).t0 = s.t0 := rfl
@[simp] theorem State.setLane_dark (s : State) (n : Nat) (l : Lane) : (s.setLane n l).dark = s.dark := rfl
@[simp] theorem State.setLane_pending (s : State) (n : Nat) (l : Lane) : (s.setLane n l).pending = s.pending := rfl

/-! `modLane` changes `lanes` alone. -/

@[simp] theorem State.modLane_tb (s : State) (n : Nat) (f : Lane → Lane) : (s.modLane n f).tb = s.tb := rfl
@[simp] theorem State.modLane_up (s : State) (n : Nat) (f : Lane → Lane) : (s.modLane n f).up = s.up := rfl
@[simp] theorem State.modLane_free (s : State) (n : Nat) (f : Lane → Lane) : (s.modLane n f).free = s.free := rfl
@[simp] theorem State.modLane_regs (s : State) (n : Nat) (f : Lane → Lane) : (s.modLane n f).regs = s.regs := rfl
@[simp] theorem State.modLane_act (s : State) (n : Nat) (f : Lane → Lane) : (s.modLane n f).act = s.act := rfl
@[simp] theorem State.modLane_host (s : State) (n : Nat) (f : Lane → Lane) : (s.modLane n f).host = s.host := rfl
@[simp] theorem State.modLane_gens (s : State) (n : Nat) (f : Lane → Lane) : (s.modLane n f).gens = s.gens := rfl
@[simp] theorem State.modLane_time (s : State) (n : Nat) (f : Lane → Lane) : (s.modLane n f).time = s.time := rfl
@[simp] theorem State.modLane_links (s : State) (n : Nat) (f : Lane → Lane) : (s.modLane n f).links = s.links := rfl
@[simp] theorem State.modLane_crew (s : State) (n : Nat) (f : Lane → Lane) : (s.modLane n f).crew = s.crew := rfl
@[simp] theorem State.modLane_beam (s : State) (n : Nat) (f : Lane → Lane) : (s.modLane n f).beam = s.beam := rfl
@[simp] theorem State.modLane_loom (s : State) (n : Nat) (f : Lane → Lane) : (s.modLane n f).loom = s.loom := rfl
@[simp] theorem State.modLane_sht (s : State) (n : Nat) (f : Lane → Lane) : (s.modLane n f).sht = s.sht := rfl
@[simp] theorem State.modLane_drf (s : State) (n : Nat) (f : Lane → Lane) : (s.modLane n f).drf = s.drf := rfl
@[simp] theorem State.modLane_ck (s : State) (n : Nat) (f : Lane → Lane) : (s.modLane n f).ck = s.ck := rfl
@[simp] theorem State.modLane_mon (s : State) (n : Nat) (f : Lane → Lane) : (s.modLane n f).mon = s.mon := rfl
@[simp] theorem State.modLane_bias (s : State) (n : Nat) (f : Lane → Lane) : (s.modLane n f).bias = s.bias := rfl
@[simp] theorem State.modLane_pwr (s : State) (n : Nat) (f : Lane → Lane) : (s.modLane n f).pwr = s.pwr := rfl
@[simp] theorem State.modLane_thm (s : State) (n : Nat) (f : Lane → Lane) : (s.modLane n f).thm = s.thm := rfl
@[simp] theorem State.modLane_sec (s : State) (n : Nat) (f : Lane → Lane) : (s.modLane n f).sec = s.sec := rfl
@[simp] theorem State.modLane_fuses (s : State) (n : Nat) (f : Lane → Lane) : (s.modLane n f).fuses = s.fuses := rfl
@[simp] theorem State.modLane_anc (s : State) (n : Nat) (f : Lane → Lane) : (s.modLane n f).anc = s.anc := rfl
@[simp] theorem State.modLane_split (s : State) (n : Nat) (f : Lane → Lane) : (s.modLane n f).split = s.split := rfl
@[simp] theorem State.modLane_bist (s : State) (n : Nat) (f : Lane → Lane) : (s.modLane n f).bist = s.bist := rfl
@[simp] theorem State.modLane_tstAt (s : State) (n : Nat) (f : Lane → Lane) : (s.modLane n f).tstAt = s.tstAt := rfl
@[simp] theorem State.modLane_t0 (s : State) (n : Nat) (f : Lane → Lane) : (s.modLane n f).t0 = s.t0 := rfl
@[simp] theorem State.modLane_dark (s : State) (n : Nat) (f : Lane → Lane) : (s.modLane n f).dark = s.dark := rfl
@[simp] theorem State.modLane_pending (s : State) (n : Nat) (f : Lane → Lane) : (s.modLane n f).pending = s.pending := rfl

/-! `setQp` changes `host` alone. -/

@[simp] theorem State.setQp_tb (s : State) (q : Nat) (v : Qp) : (s.setQp q v).tb = s.tb := rfl
@[simp] theorem State.setQp_up (s : State) (q : Nat) (v : Qp) : (s.setQp q v).up = s.up := rfl
@[simp] theorem State.setQp_free (s : State) (q : Nat) (v : Qp) : (s.setQp q v).free = s.free := rfl
@[simp] theorem State.setQp_regs (s : State) (q : Nat) (v : Qp) : (s.setQp q v).regs = s.regs := rfl
@[simp] theorem State.setQp_act (s : State) (q : Nat) (v : Qp) : (s.setQp q v).act = s.act := rfl
@[simp] theorem State.setQp_lanes (s : State) (q : Nat) (v : Qp) : (s.setQp q v).lanes = s.lanes := rfl
@[simp] theorem State.setQp_gens (s : State) (q : Nat) (v : Qp) : (s.setQp q v).gens = s.gens := rfl
@[simp] theorem State.setQp_time (s : State) (q : Nat) (v : Qp) : (s.setQp q v).time = s.time := rfl
@[simp] theorem State.setQp_links (s : State) (q : Nat) (v : Qp) : (s.setQp q v).links = s.links := rfl
@[simp] theorem State.setQp_crew (s : State) (q : Nat) (v : Qp) : (s.setQp q v).crew = s.crew := rfl
@[simp] theorem State.setQp_beam (s : State) (q : Nat) (v : Qp) : (s.setQp q v).beam = s.beam := rfl
@[simp] theorem State.setQp_loom (s : State) (q : Nat) (v : Qp) : (s.setQp q v).loom = s.loom := rfl
@[simp] theorem State.setQp_sht (s : State) (q : Nat) (v : Qp) : (s.setQp q v).sht = s.sht := rfl
@[simp] theorem State.setQp_drf (s : State) (q : Nat) (v : Qp) : (s.setQp q v).drf = s.drf := rfl
@[simp] theorem State.setQp_ck (s : State) (q : Nat) (v : Qp) : (s.setQp q v).ck = s.ck := rfl
@[simp] theorem State.setQp_mon (s : State) (q : Nat) (v : Qp) : (s.setQp q v).mon = s.mon := rfl
@[simp] theorem State.setQp_bias (s : State) (q : Nat) (v : Qp) : (s.setQp q v).bias = s.bias := rfl
@[simp] theorem State.setQp_pwr (s : State) (q : Nat) (v : Qp) : (s.setQp q v).pwr = s.pwr := rfl
@[simp] theorem State.setQp_thm (s : State) (q : Nat) (v : Qp) : (s.setQp q v).thm = s.thm := rfl
@[simp] theorem State.setQp_sec (s : State) (q : Nat) (v : Qp) : (s.setQp q v).sec = s.sec := rfl
@[simp] theorem State.setQp_fuses (s : State) (q : Nat) (v : Qp) : (s.setQp q v).fuses = s.fuses := rfl
@[simp] theorem State.setQp_anc (s : State) (q : Nat) (v : Qp) : (s.setQp q v).anc = s.anc := rfl
@[simp] theorem State.setQp_split (s : State) (q : Nat) (v : Qp) : (s.setQp q v).split = s.split := rfl
@[simp] theorem State.setQp_bist (s : State) (q : Nat) (v : Qp) : (s.setQp q v).bist = s.bist := rfl
@[simp] theorem State.setQp_tstAt (s : State) (q : Nat) (v : Qp) : (s.setQp q v).tstAt = s.tstAt := rfl
@[simp] theorem State.setQp_t0 (s : State) (q : Nat) (v : Qp) : (s.setQp q v).t0 = s.t0 := rfl
@[simp] theorem State.setQp_dark (s : State) (q : Nat) (v : Qp) : (s.setQp q v).dark = s.dark := rfl
@[simp] theorem State.setQp_pending (s : State) (q : Nat) (v : Qp) : (s.setQp q v).pending = s.pending := rfl
@[simp] theorem State.setQp_host_rings (s : State) (q : Nat) (v : Qp) : (s.setQp q v).host.rings = s.host.rings := rfl
@[simp] theorem State.setQp_host_bme (s : State) (q : Nat) (v : Qp) : (s.setQp q v).host.bme = s.host.bme := rfl
@[simp] theorem State.setQp_host_cfg (s : State) (q : Nat) (v : Qp) : (s.setQp q v).host.cfg = s.host.cfg := rfl
@[simp] theorem State.setQp_host_vfs (s : State) (q : Nat) (v : Qp) : (s.setQp q v).host.vfs = s.host.vfs := rfl
@[simp] theorem State.setQp_host_held (s : State) (q : Nat) (v : Qp) : (s.setQp q v).host.held = s.host.held := rfl
@[simp] theorem State.setQp_host_rejLog (s : State) (q : Nat) (v : Qp) : (s.setQp q v).host.rejLog = s.host.rejLog := rfl
@[simp] theorem State.setQp_host_loHeld (s : State) (q : Nat) (v : Qp) : (s.setQp q v).host.loHeld = s.host.loHeld := rfl
@[simp] theorem State.setQp_host_hiLatch (s : State) (q : Nat) (v : Qp) : (s.setQp q v).host.hiLatch = s.host.hiLatch := rfl
@[simp] theorem State.setQp_host_capt (s : State) (q : Nat) (v : Qp) : (s.setQp q v).host.capt = s.host.capt := rfl
@[simp] theorem State.setQp_host_lastNote (s : State) (q : Nat) (v : Qp) : (s.setQp q v).host.lastNote = s.host.lastNote := rfl
@[simp] theorem State.setQp_host_out (s : State) (q : Nat) (v : Qp) : (s.setQp q v).host.out = s.host.out := rfl

/-! `modQp` changes `host` alone. -/

@[simp] theorem State.modQp_tb (s : State) (q : Nat) (f : Qp → Qp) : (s.modQp q f).tb = s.tb := rfl
@[simp] theorem State.modQp_up (s : State) (q : Nat) (f : Qp → Qp) : (s.modQp q f).up = s.up := rfl
@[simp] theorem State.modQp_free (s : State) (q : Nat) (f : Qp → Qp) : (s.modQp q f).free = s.free := rfl
@[simp] theorem State.modQp_regs (s : State) (q : Nat) (f : Qp → Qp) : (s.modQp q f).regs = s.regs := rfl
@[simp] theorem State.modQp_act (s : State) (q : Nat) (f : Qp → Qp) : (s.modQp q f).act = s.act := rfl
@[simp] theorem State.modQp_lanes (s : State) (q : Nat) (f : Qp → Qp) : (s.modQp q f).lanes = s.lanes := rfl
@[simp] theorem State.modQp_gens (s : State) (q : Nat) (f : Qp → Qp) : (s.modQp q f).gens = s.gens := rfl
@[simp] theorem State.modQp_time (s : State) (q : Nat) (f : Qp → Qp) : (s.modQp q f).time = s.time := rfl
@[simp] theorem State.modQp_links (s : State) (q : Nat) (f : Qp → Qp) : (s.modQp q f).links = s.links := rfl
@[simp] theorem State.modQp_crew (s : State) (q : Nat) (f : Qp → Qp) : (s.modQp q f).crew = s.crew := rfl
@[simp] theorem State.modQp_beam (s : State) (q : Nat) (f : Qp → Qp) : (s.modQp q f).beam = s.beam := rfl
@[simp] theorem State.modQp_loom (s : State) (q : Nat) (f : Qp → Qp) : (s.modQp q f).loom = s.loom := rfl
@[simp] theorem State.modQp_sht (s : State) (q : Nat) (f : Qp → Qp) : (s.modQp q f).sht = s.sht := rfl
@[simp] theorem State.modQp_drf (s : State) (q : Nat) (f : Qp → Qp) : (s.modQp q f).drf = s.drf := rfl
@[simp] theorem State.modQp_ck (s : State) (q : Nat) (f : Qp → Qp) : (s.modQp q f).ck = s.ck := rfl
@[simp] theorem State.modQp_mon (s : State) (q : Nat) (f : Qp → Qp) : (s.modQp q f).mon = s.mon := rfl
@[simp] theorem State.modQp_bias (s : State) (q : Nat) (f : Qp → Qp) : (s.modQp q f).bias = s.bias := rfl
@[simp] theorem State.modQp_pwr (s : State) (q : Nat) (f : Qp → Qp) : (s.modQp q f).pwr = s.pwr := rfl
@[simp] theorem State.modQp_thm (s : State) (q : Nat) (f : Qp → Qp) : (s.modQp q f).thm = s.thm := rfl
@[simp] theorem State.modQp_sec (s : State) (q : Nat) (f : Qp → Qp) : (s.modQp q f).sec = s.sec := rfl
@[simp] theorem State.modQp_fuses (s : State) (q : Nat) (f : Qp → Qp) : (s.modQp q f).fuses = s.fuses := rfl
@[simp] theorem State.modQp_anc (s : State) (q : Nat) (f : Qp → Qp) : (s.modQp q f).anc = s.anc := rfl
@[simp] theorem State.modQp_split (s : State) (q : Nat) (f : Qp → Qp) : (s.modQp q f).split = s.split := rfl
@[simp] theorem State.modQp_bist (s : State) (q : Nat) (f : Qp → Qp) : (s.modQp q f).bist = s.bist := rfl
@[simp] theorem State.modQp_tstAt (s : State) (q : Nat) (f : Qp → Qp) : (s.modQp q f).tstAt = s.tstAt := rfl
@[simp] theorem State.modQp_t0 (s : State) (q : Nat) (f : Qp → Qp) : (s.modQp q f).t0 = s.t0 := rfl
@[simp] theorem State.modQp_dark (s : State) (q : Nat) (f : Qp → Qp) : (s.modQp q f).dark = s.dark := rfl
@[simp] theorem State.modQp_pending (s : State) (q : Nat) (f : Qp → Qp) : (s.modQp q f).pending = s.pending := rfl
@[simp] theorem State.modQp_host_rings (s : State) (q : Nat) (f : Qp → Qp) : (s.modQp q f).host.rings = s.host.rings := rfl
@[simp] theorem State.modQp_host_bme (s : State) (q : Nat) (f : Qp → Qp) : (s.modQp q f).host.bme = s.host.bme := rfl
@[simp] theorem State.modQp_host_cfg (s : State) (q : Nat) (f : Qp → Qp) : (s.modQp q f).host.cfg = s.host.cfg := rfl
@[simp] theorem State.modQp_host_vfs (s : State) (q : Nat) (f : Qp → Qp) : (s.modQp q f).host.vfs = s.host.vfs := rfl
@[simp] theorem State.modQp_host_held (s : State) (q : Nat) (f : Qp → Qp) : (s.modQp q f).host.held = s.host.held := rfl
@[simp] theorem State.modQp_host_rejLog (s : State) (q : Nat) (f : Qp → Qp) : (s.modQp q f).host.rejLog = s.host.rejLog := rfl
@[simp] theorem State.modQp_host_loHeld (s : State) (q : Nat) (f : Qp → Qp) : (s.modQp q f).host.loHeld = s.host.loHeld := rfl
@[simp] theorem State.modQp_host_hiLatch (s : State) (q : Nat) (f : Qp → Qp) : (s.modQp q f).host.hiLatch = s.host.hiLatch := rfl
@[simp] theorem State.modQp_host_capt (s : State) (q : Nat) (f : Qp → Qp) : (s.modQp q f).host.capt = s.host.capt := rfl
@[simp] theorem State.modQp_host_lastNote (s : State) (q : Nat) (f : Qp → Qp) : (s.modQp q f).host.lastNote = s.host.lastNote := rfl
@[simp] theorem State.modQp_host_out (s : State) (q : Nat) (f : Qp → Qp) : (s.modQp q f).host.out = s.host.out := rfl

/-! `setRing` changes `host` alone. -/

@[simp] theorem State.setRing_tb (s : State) (f : Nat) (v : Ring) : (s.setRing f v).tb = s.tb := rfl
@[simp] theorem State.setRing_up (s : State) (f : Nat) (v : Ring) : (s.setRing f v).up = s.up := rfl
@[simp] theorem State.setRing_free (s : State) (f : Nat) (v : Ring) : (s.setRing f v).free = s.free := rfl
@[simp] theorem State.setRing_regs (s : State) (f : Nat) (v : Ring) : (s.setRing f v).regs = s.regs := rfl
@[simp] theorem State.setRing_act (s : State) (f : Nat) (v : Ring) : (s.setRing f v).act = s.act := rfl
@[simp] theorem State.setRing_lanes (s : State) (f : Nat) (v : Ring) : (s.setRing f v).lanes = s.lanes := rfl
@[simp] theorem State.setRing_gens (s : State) (f : Nat) (v : Ring) : (s.setRing f v).gens = s.gens := rfl
@[simp] theorem State.setRing_time (s : State) (f : Nat) (v : Ring) : (s.setRing f v).time = s.time := rfl
@[simp] theorem State.setRing_links (s : State) (f : Nat) (v : Ring) : (s.setRing f v).links = s.links := rfl
@[simp] theorem State.setRing_crew (s : State) (f : Nat) (v : Ring) : (s.setRing f v).crew = s.crew := rfl
@[simp] theorem State.setRing_beam (s : State) (f : Nat) (v : Ring) : (s.setRing f v).beam = s.beam := rfl
@[simp] theorem State.setRing_loom (s : State) (f : Nat) (v : Ring) : (s.setRing f v).loom = s.loom := rfl
@[simp] theorem State.setRing_sht (s : State) (f : Nat) (v : Ring) : (s.setRing f v).sht = s.sht := rfl
@[simp] theorem State.setRing_drf (s : State) (f : Nat) (v : Ring) : (s.setRing f v).drf = s.drf := rfl
@[simp] theorem State.setRing_ck (s : State) (f : Nat) (v : Ring) : (s.setRing f v).ck = s.ck := rfl
@[simp] theorem State.setRing_mon (s : State) (f : Nat) (v : Ring) : (s.setRing f v).mon = s.mon := rfl
@[simp] theorem State.setRing_bias (s : State) (f : Nat) (v : Ring) : (s.setRing f v).bias = s.bias := rfl
@[simp] theorem State.setRing_pwr (s : State) (f : Nat) (v : Ring) : (s.setRing f v).pwr = s.pwr := rfl
@[simp] theorem State.setRing_thm (s : State) (f : Nat) (v : Ring) : (s.setRing f v).thm = s.thm := rfl
@[simp] theorem State.setRing_sec (s : State) (f : Nat) (v : Ring) : (s.setRing f v).sec = s.sec := rfl
@[simp] theorem State.setRing_fuses (s : State) (f : Nat) (v : Ring) : (s.setRing f v).fuses = s.fuses := rfl
@[simp] theorem State.setRing_anc (s : State) (f : Nat) (v : Ring) : (s.setRing f v).anc = s.anc := rfl
@[simp] theorem State.setRing_split (s : State) (f : Nat) (v : Ring) : (s.setRing f v).split = s.split := rfl
@[simp] theorem State.setRing_bist (s : State) (f : Nat) (v : Ring) : (s.setRing f v).bist = s.bist := rfl
@[simp] theorem State.setRing_tstAt (s : State) (f : Nat) (v : Ring) : (s.setRing f v).tstAt = s.tstAt := rfl
@[simp] theorem State.setRing_t0 (s : State) (f : Nat) (v : Ring) : (s.setRing f v).t0 = s.t0 := rfl
@[simp] theorem State.setRing_dark (s : State) (f : Nat) (v : Ring) : (s.setRing f v).dark = s.dark := rfl
@[simp] theorem State.setRing_pending (s : State) (f : Nat) (v : Ring) : (s.setRing f v).pending = s.pending := rfl
@[simp] theorem State.setRing_host_qps (s : State) (f : Nat) (v : Ring) : (s.setRing f v).host.qps = s.host.qps := rfl
@[simp] theorem State.setRing_host_bme (s : State) (f : Nat) (v : Ring) : (s.setRing f v).host.bme = s.host.bme := rfl
@[simp] theorem State.setRing_host_cfg (s : State) (f : Nat) (v : Ring) : (s.setRing f v).host.cfg = s.host.cfg := rfl
@[simp] theorem State.setRing_host_vfs (s : State) (f : Nat) (v : Ring) : (s.setRing f v).host.vfs = s.host.vfs := rfl
@[simp] theorem State.setRing_host_held (s : State) (f : Nat) (v : Ring) : (s.setRing f v).host.held = s.host.held := rfl
@[simp] theorem State.setRing_host_rejLog (s : State) (f : Nat) (v : Ring) : (s.setRing f v).host.rejLog = s.host.rejLog := rfl
@[simp] theorem State.setRing_host_loHeld (s : State) (f : Nat) (v : Ring) : (s.setRing f v).host.loHeld = s.host.loHeld := rfl
@[simp] theorem State.setRing_host_hiLatch (s : State) (f : Nat) (v : Ring) : (s.setRing f v).host.hiLatch = s.host.hiLatch := rfl
@[simp] theorem State.setRing_host_capt (s : State) (f : Nat) (v : Ring) : (s.setRing f v).host.capt = s.host.capt := rfl
@[simp] theorem State.setRing_host_lastNote (s : State) (f : Nat) (v : Ring) : (s.setRing f v).host.lastNote = s.host.lastNote := rfl
@[simp] theorem State.setRing_host_out (s : State) (f : Nat) (v : Ring) : (s.setRing f v).host.out = s.host.out := rfl

/-! `emit` changes `host` alone. -/

@[simp] theorem State.emit_tb (s : State) (o : Out) : (s.emit o).tb = s.tb := rfl
@[simp] theorem State.emit_up (s : State) (o : Out) : (s.emit o).up = s.up := rfl
@[simp] theorem State.emit_free (s : State) (o : Out) : (s.emit o).free = s.free := rfl
@[simp] theorem State.emit_regs (s : State) (o : Out) : (s.emit o).regs = s.regs := rfl
@[simp] theorem State.emit_act (s : State) (o : Out) : (s.emit o).act = s.act := rfl
@[simp] theorem State.emit_lanes (s : State) (o : Out) : (s.emit o).lanes = s.lanes := rfl
@[simp] theorem State.emit_gens (s : State) (o : Out) : (s.emit o).gens = s.gens := rfl
@[simp] theorem State.emit_time (s : State) (o : Out) : (s.emit o).time = s.time := rfl
@[simp] theorem State.emit_links (s : State) (o : Out) : (s.emit o).links = s.links := rfl
@[simp] theorem State.emit_crew (s : State) (o : Out) : (s.emit o).crew = s.crew := rfl
@[simp] theorem State.emit_beam (s : State) (o : Out) : (s.emit o).beam = s.beam := rfl
@[simp] theorem State.emit_loom (s : State) (o : Out) : (s.emit o).loom = s.loom := rfl
@[simp] theorem State.emit_sht (s : State) (o : Out) : (s.emit o).sht = s.sht := rfl
@[simp] theorem State.emit_drf (s : State) (o : Out) : (s.emit o).drf = s.drf := rfl
@[simp] theorem State.emit_ck (s : State) (o : Out) : (s.emit o).ck = s.ck := rfl
@[simp] theorem State.emit_mon (s : State) (o : Out) : (s.emit o).mon = s.mon := rfl
@[simp] theorem State.emit_bias (s : State) (o : Out) : (s.emit o).bias = s.bias := rfl
@[simp] theorem State.emit_pwr (s : State) (o : Out) : (s.emit o).pwr = s.pwr := rfl
@[simp] theorem State.emit_thm (s : State) (o : Out) : (s.emit o).thm = s.thm := rfl
@[simp] theorem State.emit_sec (s : State) (o : Out) : (s.emit o).sec = s.sec := rfl
@[simp] theorem State.emit_fuses (s : State) (o : Out) : (s.emit o).fuses = s.fuses := rfl
@[simp] theorem State.emit_anc (s : State) (o : Out) : (s.emit o).anc = s.anc := rfl
@[simp] theorem State.emit_split (s : State) (o : Out) : (s.emit o).split = s.split := rfl
@[simp] theorem State.emit_bist (s : State) (o : Out) : (s.emit o).bist = s.bist := rfl
@[simp] theorem State.emit_tstAt (s : State) (o : Out) : (s.emit o).tstAt = s.tstAt := rfl
@[simp] theorem State.emit_t0 (s : State) (o : Out) : (s.emit o).t0 = s.t0 := rfl
@[simp] theorem State.emit_dark (s : State) (o : Out) : (s.emit o).dark = s.dark := rfl
@[simp] theorem State.emit_pending (s : State) (o : Out) : (s.emit o).pending = s.pending := rfl
@[simp] theorem State.emit_host_qps (s : State) (o : Out) : (s.emit o).host.qps = s.host.qps := rfl
@[simp] theorem State.emit_host_rings (s : State) (o : Out) : (s.emit o).host.rings = s.host.rings := rfl
@[simp] theorem State.emit_host_bme (s : State) (o : Out) : (s.emit o).host.bme = s.host.bme := rfl
@[simp] theorem State.emit_host_cfg (s : State) (o : Out) : (s.emit o).host.cfg = s.host.cfg := rfl
@[simp] theorem State.emit_host_vfs (s : State) (o : Out) : (s.emit o).host.vfs = s.host.vfs := rfl
@[simp] theorem State.emit_host_held (s : State) (o : Out) : (s.emit o).host.held = s.host.held := rfl
@[simp] theorem State.emit_host_rejLog (s : State) (o : Out) : (s.emit o).host.rejLog = s.host.rejLog := rfl
@[simp] theorem State.emit_host_loHeld (s : State) (o : Out) : (s.emit o).host.loHeld = s.host.loHeld := rfl
@[simp] theorem State.emit_host_hiLatch (s : State) (o : Out) : (s.emit o).host.hiLatch = s.host.hiLatch := rfl
@[simp] theorem State.emit_host_capt (s : State) (o : Out) : (s.emit o).host.capt = s.host.capt := rfl
@[simp] theorem State.emit_host_lastNote (s : State) (o : Out) : (s.emit o).host.lastNote = s.host.lastNote := rfl

/-! `tick` changes `free` alone. -/

@[simp] theorem State.tick_tb (s : State) : (s.tick).tb = s.tb := rfl
@[simp] theorem State.tick_up (s : State) : (s.tick).up = s.up := rfl
@[simp] theorem State.tick_regs (s : State) : (s.tick).regs = s.regs := rfl
@[simp] theorem State.tick_act (s : State) : (s.tick).act = s.act := rfl
@[simp] theorem State.tick_host (s : State) : (s.tick).host = s.host := rfl
@[simp] theorem State.tick_lanes (s : State) : (s.tick).lanes = s.lanes := rfl
@[simp] theorem State.tick_gens (s : State) : (s.tick).gens = s.gens := rfl
@[simp] theorem State.tick_time (s : State) : (s.tick).time = s.time := rfl
@[simp] theorem State.tick_links (s : State) : (s.tick).links = s.links := rfl
@[simp] theorem State.tick_crew (s : State) : (s.tick).crew = s.crew := rfl
@[simp] theorem State.tick_beam (s : State) : (s.tick).beam = s.beam := rfl
@[simp] theorem State.tick_loom (s : State) : (s.tick).loom = s.loom := rfl
@[simp] theorem State.tick_sht (s : State) : (s.tick).sht = s.sht := rfl
@[simp] theorem State.tick_drf (s : State) : (s.tick).drf = s.drf := rfl
@[simp] theorem State.tick_ck (s : State) : (s.tick).ck = s.ck := rfl
@[simp] theorem State.tick_mon (s : State) : (s.tick).mon = s.mon := rfl
@[simp] theorem State.tick_bias (s : State) : (s.tick).bias = s.bias := rfl
@[simp] theorem State.tick_pwr (s : State) : (s.tick).pwr = s.pwr := rfl
@[simp] theorem State.tick_thm (s : State) : (s.tick).thm = s.thm := rfl
@[simp] theorem State.tick_sec (s : State) : (s.tick).sec = s.sec := rfl
@[simp] theorem State.tick_fuses (s : State) : (s.tick).fuses = s.fuses := rfl
@[simp] theorem State.tick_anc (s : State) : (s.tick).anc = s.anc := rfl
@[simp] theorem State.tick_split (s : State) : (s.tick).split = s.split := rfl
@[simp] theorem State.tick_bist (s : State) : (s.tick).bist = s.bist := rfl
@[simp] theorem State.tick_tstAt (s : State) : (s.tick).tstAt = s.tstAt := rfl
@[simp] theorem State.tick_t0 (s : State) : (s.tick).t0 = s.t0 := rfl
@[simp] theorem State.tick_dark (s : State) : (s.tick).dark = s.dark := rfl
@[simp] theorem State.tick_pending (s : State) : (s.tick).pending = s.pending := rfl

/-! `modPwr` changes `pwr` alone. -/

@[simp] theorem State.modPwr_tb (s : State) (f : PwrSt → PwrSt) : (s.modPwr f).tb = s.tb := rfl
@[simp] theorem State.modPwr_up (s : State) (f : PwrSt → PwrSt) : (s.modPwr f).up = s.up := rfl
@[simp] theorem State.modPwr_free (s : State) (f : PwrSt → PwrSt) : (s.modPwr f).free = s.free := rfl
@[simp] theorem State.modPwr_regs (s : State) (f : PwrSt → PwrSt) : (s.modPwr f).regs = s.regs := rfl
@[simp] theorem State.modPwr_act (s : State) (f : PwrSt → PwrSt) : (s.modPwr f).act = s.act := rfl
@[simp] theorem State.modPwr_host (s : State) (f : PwrSt → PwrSt) : (s.modPwr f).host = s.host := rfl
@[simp] theorem State.modPwr_lanes (s : State) (f : PwrSt → PwrSt) : (s.modPwr f).lanes = s.lanes := rfl
@[simp] theorem State.modPwr_gens (s : State) (f : PwrSt → PwrSt) : (s.modPwr f).gens = s.gens := rfl
@[simp] theorem State.modPwr_time (s : State) (f : PwrSt → PwrSt) : (s.modPwr f).time = s.time := rfl
@[simp] theorem State.modPwr_links (s : State) (f : PwrSt → PwrSt) : (s.modPwr f).links = s.links := rfl
@[simp] theorem State.modPwr_crew (s : State) (f : PwrSt → PwrSt) : (s.modPwr f).crew = s.crew := rfl
@[simp] theorem State.modPwr_beam (s : State) (f : PwrSt → PwrSt) : (s.modPwr f).beam = s.beam := rfl
@[simp] theorem State.modPwr_loom (s : State) (f : PwrSt → PwrSt) : (s.modPwr f).loom = s.loom := rfl
@[simp] theorem State.modPwr_sht (s : State) (f : PwrSt → PwrSt) : (s.modPwr f).sht = s.sht := rfl
@[simp] theorem State.modPwr_drf (s : State) (f : PwrSt → PwrSt) : (s.modPwr f).drf = s.drf := rfl
@[simp] theorem State.modPwr_ck (s : State) (f : PwrSt → PwrSt) : (s.modPwr f).ck = s.ck := rfl
@[simp] theorem State.modPwr_mon (s : State) (f : PwrSt → PwrSt) : (s.modPwr f).mon = s.mon := rfl
@[simp] theorem State.modPwr_bias (s : State) (f : PwrSt → PwrSt) : (s.modPwr f).bias = s.bias := rfl
@[simp] theorem State.modPwr_thm (s : State) (f : PwrSt → PwrSt) : (s.modPwr f).thm = s.thm := rfl
@[simp] theorem State.modPwr_sec (s : State) (f : PwrSt → PwrSt) : (s.modPwr f).sec = s.sec := rfl
@[simp] theorem State.modPwr_fuses (s : State) (f : PwrSt → PwrSt) : (s.modPwr f).fuses = s.fuses := rfl
@[simp] theorem State.modPwr_anc (s : State) (f : PwrSt → PwrSt) : (s.modPwr f).anc = s.anc := rfl
@[simp] theorem State.modPwr_split (s : State) (f : PwrSt → PwrSt) : (s.modPwr f).split = s.split := rfl
@[simp] theorem State.modPwr_bist (s : State) (f : PwrSt → PwrSt) : (s.modPwr f).bist = s.bist := rfl
@[simp] theorem State.modPwr_tstAt (s : State) (f : PwrSt → PwrSt) : (s.modPwr f).tstAt = s.tstAt := rfl
@[simp] theorem State.modPwr_t0 (s : State) (f : PwrSt → PwrSt) : (s.modPwr f).t0 = s.t0 := rfl
@[simp] theorem State.modPwr_dark (s : State) (f : PwrSt → PwrSt) : (s.modPwr f).dark = s.dark := rfl
@[simp] theorem State.modPwr_pending (s : State) (f : PwrSt → PwrSt) : (s.modPwr f).pending = s.pending := rfl

/-! `dropLo` changes `host` alone. -/

@[simp] theorem State.dropLo_tb (s : State) (fn : Nat) (r : RegId) : (s.dropLo fn r).tb = s.tb := rfl
@[simp] theorem State.dropLo_up (s : State) (fn : Nat) (r : RegId) : (s.dropLo fn r).up = s.up := rfl
@[simp] theorem State.dropLo_free (s : State) (fn : Nat) (r : RegId) : (s.dropLo fn r).free = s.free := rfl
@[simp] theorem State.dropLo_regs (s : State) (fn : Nat) (r : RegId) : (s.dropLo fn r).regs = s.regs := rfl
@[simp] theorem State.dropLo_act (s : State) (fn : Nat) (r : RegId) : (s.dropLo fn r).act = s.act := rfl
@[simp] theorem State.dropLo_lanes (s : State) (fn : Nat) (r : RegId) : (s.dropLo fn r).lanes = s.lanes := rfl
@[simp] theorem State.dropLo_gens (s : State) (fn : Nat) (r : RegId) : (s.dropLo fn r).gens = s.gens := rfl
@[simp] theorem State.dropLo_time (s : State) (fn : Nat) (r : RegId) : (s.dropLo fn r).time = s.time := rfl
@[simp] theorem State.dropLo_links (s : State) (fn : Nat) (r : RegId) : (s.dropLo fn r).links = s.links := rfl
@[simp] theorem State.dropLo_crew (s : State) (fn : Nat) (r : RegId) : (s.dropLo fn r).crew = s.crew := rfl
@[simp] theorem State.dropLo_beam (s : State) (fn : Nat) (r : RegId) : (s.dropLo fn r).beam = s.beam := rfl
@[simp] theorem State.dropLo_loom (s : State) (fn : Nat) (r : RegId) : (s.dropLo fn r).loom = s.loom := rfl
@[simp] theorem State.dropLo_sht (s : State) (fn : Nat) (r : RegId) : (s.dropLo fn r).sht = s.sht := rfl
@[simp] theorem State.dropLo_drf (s : State) (fn : Nat) (r : RegId) : (s.dropLo fn r).drf = s.drf := rfl
@[simp] theorem State.dropLo_ck (s : State) (fn : Nat) (r : RegId) : (s.dropLo fn r).ck = s.ck := rfl
@[simp] theorem State.dropLo_mon (s : State) (fn : Nat) (r : RegId) : (s.dropLo fn r).mon = s.mon := rfl
@[simp] theorem State.dropLo_bias (s : State) (fn : Nat) (r : RegId) : (s.dropLo fn r).bias = s.bias := rfl
@[simp] theorem State.dropLo_pwr (s : State) (fn : Nat) (r : RegId) : (s.dropLo fn r).pwr = s.pwr := rfl
@[simp] theorem State.dropLo_thm (s : State) (fn : Nat) (r : RegId) : (s.dropLo fn r).thm = s.thm := rfl
@[simp] theorem State.dropLo_sec (s : State) (fn : Nat) (r : RegId) : (s.dropLo fn r).sec = s.sec := rfl
@[simp] theorem State.dropLo_fuses (s : State) (fn : Nat) (r : RegId) : (s.dropLo fn r).fuses = s.fuses := rfl
@[simp] theorem State.dropLo_anc (s : State) (fn : Nat) (r : RegId) : (s.dropLo fn r).anc = s.anc := rfl
@[simp] theorem State.dropLo_split (s : State) (fn : Nat) (r : RegId) : (s.dropLo fn r).split = s.split := rfl
@[simp] theorem State.dropLo_bist (s : State) (fn : Nat) (r : RegId) : (s.dropLo fn r).bist = s.bist := rfl
@[simp] theorem State.dropLo_tstAt (s : State) (fn : Nat) (r : RegId) : (s.dropLo fn r).tstAt = s.tstAt := rfl
@[simp] theorem State.dropLo_t0 (s : State) (fn : Nat) (r : RegId) : (s.dropLo fn r).t0 = s.t0 := rfl
@[simp] theorem State.dropLo_dark (s : State) (fn : Nat) (r : RegId) : (s.dropLo fn r).dark = s.dark := rfl
@[simp] theorem State.dropLo_pending (s : State) (fn : Nat) (r : RegId) : (s.dropLo fn r).pending = s.pending := rfl
@[simp] theorem State.dropLo_host_qps (s : State) (fn : Nat) (r : RegId) : (s.dropLo fn r).host.qps = s.host.qps := rfl
@[simp] theorem State.dropLo_host_rings (s : State) (fn : Nat) (r : RegId) : (s.dropLo fn r).host.rings = s.host.rings := rfl
@[simp] theorem State.dropLo_host_bme (s : State) (fn : Nat) (r : RegId) : (s.dropLo fn r).host.bme = s.host.bme := rfl
@[simp] theorem State.dropLo_host_cfg (s : State) (fn : Nat) (r : RegId) : (s.dropLo fn r).host.cfg = s.host.cfg := rfl
@[simp] theorem State.dropLo_host_vfs (s : State) (fn : Nat) (r : RegId) : (s.dropLo fn r).host.vfs = s.host.vfs := rfl
@[simp] theorem State.dropLo_host_held (s : State) (fn : Nat) (r : RegId) : (s.dropLo fn r).host.held = s.host.held := rfl
@[simp] theorem State.dropLo_host_rejLog (s : State) (fn : Nat) (r : RegId) : (s.dropLo fn r).host.rejLog = s.host.rejLog := rfl
@[simp] theorem State.dropLo_host_hiLatch (s : State) (fn : Nat) (r : RegId) : (s.dropLo fn r).host.hiLatch = s.host.hiLatch := rfl
@[simp] theorem State.dropLo_host_capt (s : State) (fn : Nat) (r : RegId) : (s.dropLo fn r).host.capt = s.host.capt := rfl
@[simp] theorem State.dropLo_host_lastNote (s : State) (fn : Nat) (r : RegId) : (s.dropLo fn r).host.lastNote = s.host.lastNote := rfl
@[simp] theorem State.dropLo_host_out (s : State) (fn : Nat) (r : RegId) : (s.dropLo fn r).host.out = s.host.out := rfl

/-! `holdLo` changes `host` alone. -/

@[simp] theorem State.holdLo_tb (s : State) (fn : Nat) (r : RegId) (v : W32) : (s.holdLo fn r v).tb = s.tb := rfl
@[simp] theorem State.holdLo_up (s : State) (fn : Nat) (r : RegId) (v : W32) : (s.holdLo fn r v).up = s.up := rfl
@[simp] theorem State.holdLo_free (s : State) (fn : Nat) (r : RegId) (v : W32) : (s.holdLo fn r v).free = s.free := rfl
@[simp] theorem State.holdLo_regs (s : State) (fn : Nat) (r : RegId) (v : W32) : (s.holdLo fn r v).regs = s.regs := rfl
@[simp] theorem State.holdLo_act (s : State) (fn : Nat) (r : RegId) (v : W32) : (s.holdLo fn r v).act = s.act := rfl
@[simp] theorem State.holdLo_lanes (s : State) (fn : Nat) (r : RegId) (v : W32) : (s.holdLo fn r v).lanes = s.lanes := rfl
@[simp] theorem State.holdLo_gens (s : State) (fn : Nat) (r : RegId) (v : W32) : (s.holdLo fn r v).gens = s.gens := rfl
@[simp] theorem State.holdLo_time (s : State) (fn : Nat) (r : RegId) (v : W32) : (s.holdLo fn r v).time = s.time := rfl
@[simp] theorem State.holdLo_links (s : State) (fn : Nat) (r : RegId) (v : W32) : (s.holdLo fn r v).links = s.links := rfl
@[simp] theorem State.holdLo_crew (s : State) (fn : Nat) (r : RegId) (v : W32) : (s.holdLo fn r v).crew = s.crew := rfl
@[simp] theorem State.holdLo_beam (s : State) (fn : Nat) (r : RegId) (v : W32) : (s.holdLo fn r v).beam = s.beam := rfl
@[simp] theorem State.holdLo_loom (s : State) (fn : Nat) (r : RegId) (v : W32) : (s.holdLo fn r v).loom = s.loom := rfl
@[simp] theorem State.holdLo_sht (s : State) (fn : Nat) (r : RegId) (v : W32) : (s.holdLo fn r v).sht = s.sht := rfl
@[simp] theorem State.holdLo_drf (s : State) (fn : Nat) (r : RegId) (v : W32) : (s.holdLo fn r v).drf = s.drf := rfl
@[simp] theorem State.holdLo_ck (s : State) (fn : Nat) (r : RegId) (v : W32) : (s.holdLo fn r v).ck = s.ck := rfl
@[simp] theorem State.holdLo_mon (s : State) (fn : Nat) (r : RegId) (v : W32) : (s.holdLo fn r v).mon = s.mon := rfl
@[simp] theorem State.holdLo_bias (s : State) (fn : Nat) (r : RegId) (v : W32) : (s.holdLo fn r v).bias = s.bias := rfl
@[simp] theorem State.holdLo_pwr (s : State) (fn : Nat) (r : RegId) (v : W32) : (s.holdLo fn r v).pwr = s.pwr := rfl
@[simp] theorem State.holdLo_thm (s : State) (fn : Nat) (r : RegId) (v : W32) : (s.holdLo fn r v).thm = s.thm := rfl
@[simp] theorem State.holdLo_sec (s : State) (fn : Nat) (r : RegId) (v : W32) : (s.holdLo fn r v).sec = s.sec := rfl
@[simp] theorem State.holdLo_fuses (s : State) (fn : Nat) (r : RegId) (v : W32) : (s.holdLo fn r v).fuses = s.fuses := rfl
@[simp] theorem State.holdLo_anc (s : State) (fn : Nat) (r : RegId) (v : W32) : (s.holdLo fn r v).anc = s.anc := rfl
@[simp] theorem State.holdLo_split (s : State) (fn : Nat) (r : RegId) (v : W32) : (s.holdLo fn r v).split = s.split := rfl
@[simp] theorem State.holdLo_bist (s : State) (fn : Nat) (r : RegId) (v : W32) : (s.holdLo fn r v).bist = s.bist := rfl
@[simp] theorem State.holdLo_tstAt (s : State) (fn : Nat) (r : RegId) (v : W32) : (s.holdLo fn r v).tstAt = s.tstAt := rfl
@[simp] theorem State.holdLo_t0 (s : State) (fn : Nat) (r : RegId) (v : W32) : (s.holdLo fn r v).t0 = s.t0 := rfl
@[simp] theorem State.holdLo_dark (s : State) (fn : Nat) (r : RegId) (v : W32) : (s.holdLo fn r v).dark = s.dark := rfl
@[simp] theorem State.holdLo_pending (s : State) (fn : Nat) (r : RegId) (v : W32) : (s.holdLo fn r v).pending = s.pending := rfl
@[simp] theorem State.holdLo_host_qps (s : State) (fn : Nat) (r : RegId) (v : W32) : (s.holdLo fn r v).host.qps = s.host.qps := rfl
@[simp] theorem State.holdLo_host_rings (s : State) (fn : Nat) (r : RegId) (v : W32) : (s.holdLo fn r v).host.rings = s.host.rings := rfl
@[simp] theorem State.holdLo_host_bme (s : State) (fn : Nat) (r : RegId) (v : W32) : (s.holdLo fn r v).host.bme = s.host.bme := rfl
@[simp] theorem State.holdLo_host_cfg (s : State) (fn : Nat) (r : RegId) (v : W32) : (s.holdLo fn r v).host.cfg = s.host.cfg := rfl
@[simp] theorem State.holdLo_host_vfs (s : State) (fn : Nat) (r : RegId) (v : W32) : (s.holdLo fn r v).host.vfs = s.host.vfs := rfl
@[simp] theorem State.holdLo_host_held (s : State) (fn : Nat) (r : RegId) (v : W32) : (s.holdLo fn r v).host.held = s.host.held := rfl
@[simp] theorem State.holdLo_host_rejLog (s : State) (fn : Nat) (r : RegId) (v : W32) : (s.holdLo fn r v).host.rejLog = s.host.rejLog := rfl
@[simp] theorem State.holdLo_host_hiLatch (s : State) (fn : Nat) (r : RegId) (v : W32) : (s.holdLo fn r v).host.hiLatch = s.host.hiLatch := rfl
@[simp] theorem State.holdLo_host_capt (s : State) (fn : Nat) (r : RegId) (v : W32) : (s.holdLo fn r v).host.capt = s.host.capt := rfl
@[simp] theorem State.holdLo_host_lastNote (s : State) (fn : Nat) (r : RegId) (v : W32) : (s.holdLo fn r v).host.lastNote = s.host.lastNote := rfl
@[simp] theorem State.holdLo_host_out (s : State) (fn : Nat) (r : RegId) (v : W32) : (s.holdLo fn r v).host.out = s.host.out := rfl

/-! `modCfg` changes `host` alone. -/

@[simp] theorem State.modCfg_tb (s : State) (f : CfgSt → CfgSt) : (s.modCfg f).tb = s.tb := rfl
@[simp] theorem State.modCfg_up (s : State) (f : CfgSt → CfgSt) : (s.modCfg f).up = s.up := rfl
@[simp] theorem State.modCfg_free (s : State) (f : CfgSt → CfgSt) : (s.modCfg f).free = s.free := rfl
@[simp] theorem State.modCfg_regs (s : State) (f : CfgSt → CfgSt) : (s.modCfg f).regs = s.regs := rfl
@[simp] theorem State.modCfg_act (s : State) (f : CfgSt → CfgSt) : (s.modCfg f).act = s.act := rfl
@[simp] theorem State.modCfg_lanes (s : State) (f : CfgSt → CfgSt) : (s.modCfg f).lanes = s.lanes := rfl
@[simp] theorem State.modCfg_gens (s : State) (f : CfgSt → CfgSt) : (s.modCfg f).gens = s.gens := rfl
@[simp] theorem State.modCfg_time (s : State) (f : CfgSt → CfgSt) : (s.modCfg f).time = s.time := rfl
@[simp] theorem State.modCfg_links (s : State) (f : CfgSt → CfgSt) : (s.modCfg f).links = s.links := rfl
@[simp] theorem State.modCfg_crew (s : State) (f : CfgSt → CfgSt) : (s.modCfg f).crew = s.crew := rfl
@[simp] theorem State.modCfg_beam (s : State) (f : CfgSt → CfgSt) : (s.modCfg f).beam = s.beam := rfl
@[simp] theorem State.modCfg_loom (s : State) (f : CfgSt → CfgSt) : (s.modCfg f).loom = s.loom := rfl
@[simp] theorem State.modCfg_sht (s : State) (f : CfgSt → CfgSt) : (s.modCfg f).sht = s.sht := rfl
@[simp] theorem State.modCfg_drf (s : State) (f : CfgSt → CfgSt) : (s.modCfg f).drf = s.drf := rfl
@[simp] theorem State.modCfg_ck (s : State) (f : CfgSt → CfgSt) : (s.modCfg f).ck = s.ck := rfl
@[simp] theorem State.modCfg_mon (s : State) (f : CfgSt → CfgSt) : (s.modCfg f).mon = s.mon := rfl
@[simp] theorem State.modCfg_bias (s : State) (f : CfgSt → CfgSt) : (s.modCfg f).bias = s.bias := rfl
@[simp] theorem State.modCfg_pwr (s : State) (f : CfgSt → CfgSt) : (s.modCfg f).pwr = s.pwr := rfl
@[simp] theorem State.modCfg_thm (s : State) (f : CfgSt → CfgSt) : (s.modCfg f).thm = s.thm := rfl
@[simp] theorem State.modCfg_sec (s : State) (f : CfgSt → CfgSt) : (s.modCfg f).sec = s.sec := rfl
@[simp] theorem State.modCfg_fuses (s : State) (f : CfgSt → CfgSt) : (s.modCfg f).fuses = s.fuses := rfl
@[simp] theorem State.modCfg_anc (s : State) (f : CfgSt → CfgSt) : (s.modCfg f).anc = s.anc := rfl
@[simp] theorem State.modCfg_split (s : State) (f : CfgSt → CfgSt) : (s.modCfg f).split = s.split := rfl
@[simp] theorem State.modCfg_bist (s : State) (f : CfgSt → CfgSt) : (s.modCfg f).bist = s.bist := rfl
@[simp] theorem State.modCfg_tstAt (s : State) (f : CfgSt → CfgSt) : (s.modCfg f).tstAt = s.tstAt := rfl
@[simp] theorem State.modCfg_t0 (s : State) (f : CfgSt → CfgSt) : (s.modCfg f).t0 = s.t0 := rfl
@[simp] theorem State.modCfg_dark (s : State) (f : CfgSt → CfgSt) : (s.modCfg f).dark = s.dark := rfl
@[simp] theorem State.modCfg_pending (s : State) (f : CfgSt → CfgSt) : (s.modCfg f).pending = s.pending := rfl
@[simp] theorem State.modCfg_host_qps (s : State) (f : CfgSt → CfgSt) : (s.modCfg f).host.qps = s.host.qps := rfl
@[simp] theorem State.modCfg_host_rings (s : State) (f : CfgSt → CfgSt) : (s.modCfg f).host.rings = s.host.rings := rfl
@[simp] theorem State.modCfg_host_bme (s : State) (f : CfgSt → CfgSt) : (s.modCfg f).host.bme = s.host.bme := rfl
@[simp] theorem State.modCfg_host_vfs (s : State) (f : CfgSt → CfgSt) : (s.modCfg f).host.vfs = s.host.vfs := rfl
@[simp] theorem State.modCfg_host_held (s : State) (f : CfgSt → CfgSt) : (s.modCfg f).host.held = s.host.held := rfl
@[simp] theorem State.modCfg_host_rejLog (s : State) (f : CfgSt → CfgSt) : (s.modCfg f).host.rejLog = s.host.rejLog := rfl
@[simp] theorem State.modCfg_host_hiLatch (s : State) (f : CfgSt → CfgSt) : (s.modCfg f).host.hiLatch = s.host.hiLatch := rfl
@[simp] theorem State.modCfg_host_capt (s : State) (f : CfgSt → CfgSt) : (s.modCfg f).host.capt = s.host.capt := rfl
@[simp] theorem State.modCfg_host_lastNote (s : State) (f : CfgSt → CfgSt) : (s.modCfg f).host.lastNote = s.host.lastNote := rfl
@[simp] theorem State.modCfg_host_out (s : State) (f : CfgSt → CfgSt) : (s.modCfg f).host.out = s.host.out := rfl

end Sys2Proof.Machine
end

