-- ==== Sys2Proof/Laws/Reg.lean ====
section
/-! SUPPORT. Association tables, bit fields and registers: what a read gives after a write. -/

set_option Elab.async false

namespace Sys2Proof.Machine

/-! ## Tables -/

/-- A read of a table after a write: the value written at its key, what was there elsewhere. -/
theorem Tab.get_set {κ α : Type} [DecidableEq κ] (d : α) (t : Tab κ α) (k k' : κ) (v : α) :
    Tab.get d (Tab.set t k v) k' = if k = k' then v else Tab.get d t k' := by
  induction t with
  | nil => simp [Tab.set, Tab.get]
  | cons e t ih =>
    obtain ⟨j, w⟩ := e
    simp only [Tab.set]
    split
    · next h => subst h; simp only [Tab.get]; split <;> rfl
    · next h =>
      simp only [Tab.get, ih]
      by_cases h' : j = k'
      · subst h'; simp [Ne.symm h]
      · simp [h']

@[simp] theorem Tab.get_set_self {κ α : Type} [DecidableEq κ] (d : α) (t : Tab κ α) (k : κ) (v : α) :
    Tab.get d (Tab.set t k v) k = v := by simp [Tab.get_set]

theorem Tab.get_set_ne {κ α : Type} [DecidableEq κ] (d : α) (t : Tab κ α) {k k' : κ} (v : α) (h : k ≠ k') :
    Tab.get d (Tab.set t k v) k' = Tab.get d t k' := by simp [Tab.get_set, h]

/-- `find` gives the entry that `get` reads. -/
theorem Tab.find_set {κ α : Type} [DecidableEq κ] (t : Tab κ α) (k k' : κ) (v : α) :
    Tab.find (Tab.set t k v) k' = if k = k' then some v else Tab.find t k' := by
  induction t with
  | nil => simp [Tab.set, Tab.find]
  | cons e t ih =>
    obtain ⟨j, w⟩ := e
    simp only [Tab.set]
    split
    · next h => subst h; simp only [Tab.find]; split <;> rfl
    · next h =>
      simp only [Tab.find, ih]
      by_cases h' : j = k'
      · subst h'; simp [Ne.symm h]
      · simp [h']

/-! ## Bit fields -/

/-- A field is at most 32 bits of a word, in order. -/
abbrev fieldOk (hi lo : Nat) : Prop := lo ≤ hi ∧ hi < 32

theorem putBits_toNat (w : W32) {hi lo : Nat} (v : Nat) (h : fieldOk hi lo) :
    (putBits w hi lo v).toNat =
      w.toNat / 2 ^ (hi + 1) * 2 ^ (hi + 1) + v % 2 ^ (hi + 1 - lo) * 2 ^ lo + w.toNat % 2 ^ lo := by
  obtain ⟨h1, h2⟩ := h
  have hw := w.isLt
  have e1 : 2 ^ (hi + 1) = 2 ^ (hi + 1 - lo) * 2 ^ lo := by rw [← pow_add]; congr 1; omega
  have e2 : (2 : Nat) ^ 32 = 2 ^ (32 - (hi + 1)) * 2 ^ (hi + 1) := by rw [← pow_add]; congr 1; omega
  have b1 : v % 2 ^ (hi + 1 - lo) + 1 ≤ 2 ^ (hi + 1 - lo) := Nat.mod_lt _ (by positivity)
  have b2 : w.toNat % 2 ^ lo < 2 ^ lo := Nat.mod_lt _ (by positivity)
  have b3 : v % 2 ^ (hi + 1 - lo) * 2 ^ lo + w.toNat % 2 ^ lo < 2 ^ (hi + 1) := by
    rw [e1]
    nlinarith [Nat.mul_le_mul_right (2 ^ lo) b1]
  have b4 : w.toNat / 2 ^ (hi + 1) + 1 ≤ 2 ^ (32 - (hi + 1)) :=
    Nat.div_lt_of_lt_mul (by rw [← Nat.mul_comm, ← e2]; exact hw)
  unfold putBits
  rw [BitVec.toNat_ofNat, Nat.mod_eq_of_lt]
  rw [e2]
  nlinarith [Nat.mul_le_mul_right (2 ^ (hi + 1)) b4]

/-- A field just written reads as the low bits of what was written. -/
theorem bits_putBits_self (w : W32) {hi lo : Nat} (v : Nat) (h : fieldOk hi lo) :
    bits (putBits w hi lo v) hi lo = v % 2 ^ (hi + 1 - lo) := by
  have e1 : 2 ^ (hi + 1) = 2 ^ lo * 2 ^ (hi + 1 - lo) := by rw [← pow_add]; congr 1; omega
  unfold bits
  rw [putBits_toNat w v h]
  have b2 : w.toNat % 2 ^ lo < 2 ^ lo := Nat.mod_lt _ (by positivity)
  have : w.toNat / 2 ^ (hi + 1) * 2 ^ (hi + 1) + v % 2 ^ (hi + 1 - lo) * 2 ^ lo + w.toNat % 2 ^ lo
      = w.toNat % 2 ^ lo + 2 ^ lo * (w.toNat / 2 ^ (hi + 1) * 2 ^ (hi + 1 - lo) + v % 2 ^ (hi + 1 - lo)) := by
    rw [e1]; ring
  rw [this, Nat.add_mul_div_left _ _ (by positivity), Nat.div_eq_of_lt b2, Nat.zero_add,
    Nat.mul_comm, Nat.mul_add_mod, Nat.mod_mod]

/-- A field that a write does not reach reads as before. -/
theorem bits_putBits_other (w : W32) {hi lo hi' lo' : Nat} (v : Nat) (h : fieldOk hi lo) (h' : fieldOk hi' lo')
    (d : hi' < lo ∨ hi < lo') : bits (putBits w hi lo v) hi' lo' = bits w hi' lo' := by
  unfold bits
  rw [putBits_toNat w v h]
  have b2 : w.toNat % 2 ^ lo < 2 ^ lo := Nat.mod_lt _ (by positivity)
  rcases d with d | d
  · have e1 : 2 ^ (hi + 1) = 2 ^ lo * 2 ^ (hi + 1 - lo) := by rw [← pow_add]; congr 1; omega
    have e2 : 2 ^ lo = 2 ^ (hi' + 1) * 2 ^ (lo - (hi' + 1)) := by rw [← pow_add]; congr 1; omega
    have key : ∀ x : Nat, x / 2 ^ lo' % 2 ^ (hi' + 1 - lo') = x % 2 ^ (hi' + 1) / 2 ^ lo' := by
      intro x
      have : 2 ^ (hi' + 1) = 2 ^ lo' * 2 ^ (hi' + 1 - lo') := by rw [← pow_add]; congr 1; omega
      rw [this, Nat.mod_mul_right_div_self]
    rw [key, key]
    congr 1
    have : w.toNat / 2 ^ (hi + 1) * 2 ^ (hi + 1) + v % 2 ^ (hi + 1 - lo) * 2 ^ lo + w.toNat % 2 ^ lo
        = 2 ^ lo * (w.toNat / 2 ^ (hi + 1) * 2 ^ (hi + 1 - lo) + v % 2 ^ (hi + 1 - lo)) + w.toNat % 2 ^ lo := by
      rw [e1]; ring
    rw [this, e2, Nat.mul_assoc, Nat.mul_add_mod, ← e2]
    conv_rhs => rw [← Nat.mod_mod_of_dvd w.toNat (⟨_, e2⟩ : 2 ^ (hi' + 1) ∣ 2 ^ lo)]
  · have e1 : 2 ^ (hi + 1) = 2 ^ lo * 2 ^ (hi + 1 - lo) := by rw [← pow_add]; congr 1; omega
    have e3 : 2 ^ lo' = 2 ^ (hi + 1) * 2 ^ (lo' - (hi + 1)) := by rw [← pow_add]; congr 1; omega
    have b1 : v % 2 ^ (hi + 1 - lo) + 1 ≤ 2 ^ (hi + 1 - lo) := Nat.mod_lt _ (by positivity)
    have b3 : v % 2 ^ (hi + 1 - lo) * 2 ^ lo + w.toNat % 2 ^ lo < 2 ^ (hi + 1) := by
      rw [e1]
      nlinarith [Nat.mul_le_mul_right (2 ^ lo) b1]
    congr 1
    rw [e3, ← Nat.div_div_eq_div_mul, ← Nat.div_div_eq_div_mul, Nat.add_assoc]
    rw [Nat.mul_comm, Nat.mul_add_div (by positivity), Nat.div_eq_of_lt b3, Nat.add_zero]

/-- A part of a field just written. -/
theorem bits_putBits_part (w : W32) {hi lo hi' lo' : Nat} (v : Nat) (h : fieldOk hi lo) (h' : fieldOk hi' lo')
    (a : lo ≤ lo') (b : hi' ≤ hi) : bits (putBits w hi lo v) hi' lo' = v / 2 ^ (lo' - lo) % 2 ^ (hi' + 1 - lo') := by
  have key := bits_putBits_self w v h
  unfold bits at key ⊢
  have e1 : 2 ^ (hi + 1 - lo) = 2 ^ (lo' - lo) * 2 ^ (hi + 1 - lo') := by rw [← pow_add]; congr 1; omega
  have e2 : 2 ^ (hi + 1 - lo') = 2 ^ (hi' + 1 - lo') * 2 ^ (hi - hi') := by rw [← pow_add]; congr 1; omega
  have e3 : 2 ^ lo' = 2 ^ lo * 2 ^ (lo' - lo) := by rw [← pow_add]; congr 1; omega
  have m : ∀ x : Nat, x / 2 ^ (lo' - lo) % 2 ^ (hi' + 1 - lo') =
      x % 2 ^ (hi + 1 - lo) / 2 ^ (lo' - lo) % 2 ^ (hi' + 1 - lo') := by
    intro x
    rw [e1, Nat.mod_mul_right_div_self, e2, Nat.mod_mul_right_mod]
  rw [e3, ← Nat.div_div_eq_div_mul, m, key, ← m v]

/-- A field is below its range. -/
theorem bits_lt (w : W32) (hi lo : Nat) : bits w hi lo < 2 ^ (hi + 1 - lo) := Nat.mod_lt _ (by positivity)

/-- A field that fits is kept whole. -/
@[simp] theorem bits_mod (w : W32) (hi lo m : Nat) (h : 2 ^ (hi + 1 - lo) ≤ m) : bits w hi lo % m = bits w hi lo :=
  Nat.mod_eq_of_lt (Nat.lt_of_lt_of_le (bits_lt w hi lo) h)

/-! ## Registers -/

theorem State.reg_setReg (s : State) (r r' : RegId) (w : W32) :
    (s.setReg r w).reg r' = if r = r' then w else s.reg r' := by
  simp only [State.reg, State.setReg, Tab.get_set]

@[simp] theorem State.reg_setReg_self (s : State) (r : RegId) (w : W32) : (s.setReg r w).reg r = w := by
  simp [State.reg_setReg]

@[simp] theorem State.reg_setReg_ne (s : State) {r r' : RegId} (w : W32) (h : r' ≠ r) :
    (s.setReg r w).reg r' = s.reg r' := by
  simp [State.reg_setReg, Ne.symm h]

/-- A write of a field leaves every other register. -/
@[simp] theorem State.reg_setFld_ne (s : State) {r r' : RegId} (hi lo v : Nat) (h : r' ≠ r) :
    (s.setFld ⟨r, hi, lo⟩ v).reg r' = s.reg r' := by
  simp only [State.setFld]; exact State.reg_setReg_ne _ _ h

/-- A field just written reads as the low bits of what was written. -/
@[simp] theorem State.fld_setFld_self (s : State) (r : RegId) (hi lo v : Nat) (h : lo ≤ hi) (h2 : hi < 32) :
    (s.setFld ⟨r, hi, lo⟩ v).fld ⟨r, hi, lo⟩ = v % 2 ^ (hi + 1 - lo) := by
  simp [State.fld, State.setFld, bits_putBits_self _ v ⟨h, h2⟩]

/-- A field of another register reads as before. -/
@[simp] theorem State.fld_setFld_ne (s : State) {r r' : RegId} (hi lo hi' lo' v : Nat) (h : r' ≠ r) :
    (s.setFld ⟨r, hi, lo⟩ v).fld ⟨r', hi', lo'⟩ = s.fld ⟨r', hi', lo'⟩ := by
  simp [State.fld, State.reg_setFld_ne s hi lo v h]

/-- Another field of the same register reads as before. -/
@[simp] theorem State.fld_setFld_other (s : State) (r : RegId) (hi lo hi' lo' v : Nat) (hf : lo ≤ hi)
    (hf2 : hi < 32) (hg : lo' ≤ hi') (hg2 : hi' < 32) (d : hi' < lo ∨ hi < lo') :
    (s.setFld ⟨r, hi, lo⟩ v).fld ⟨r, hi', lo'⟩ = s.fld ⟨r, hi', lo'⟩ := by
  simp only [State.fld, State.setFld, State.reg_setReg_self]
  exact bits_putBits_other _ v ⟨hf, hf2⟩ ⟨hg, hg2⟩ d

/-- A register written whole gives its fields from the value written. -/
@[simp] theorem State.fld_setReg_self (s : State) (r : RegId) (hi lo : Nat) (w : W32) :
    (s.setReg r w).fld ⟨r, hi, lo⟩ = bits w hi lo := by simp [State.fld]

@[simp] theorem State.fld_setReg_ne (s : State) {r : RegId} {f : FldId} (w : W32) (h : f.reg ≠ r) :
    (s.setReg r w).fld f = s.fld f := by
  simp [State.fld, State.reg_setReg_ne s w h]

/-- A part of a field just written. -/
@[simp] theorem State.fld_setFld_part (s : State) (r : RegId) (hi lo hi' lo' v : Nat) (h : lo ≤ hi) (h2 : hi < 32)
    (h' : lo' ≤ hi') (a : lo ≤ lo') (b : hi' ≤ hi) :
    (s.setFld ⟨r, hi, lo⟩ v).fld ⟨r, hi', lo'⟩ = v / 2 ^ (lo' - lo) % 2 ^ (hi' + 1 - lo') := by
  simp [State.fld, State.setFld, bits_putBits_part _ v ⟨h, h2⟩ ⟨h', by omega⟩ a b]

/-- The other ways to write a field leave every other register. -/
@[simp] theorem State.reg_addSat_ne (s : State) {r r' : RegId} (hi lo d : Nat) (h : r' ≠ r) :
    (s.addSat ⟨r, hi, lo⟩ d).reg r' = s.reg r' := State.reg_setFld_ne s hi lo _ h
@[simp] theorem State.fld_addSat_ne (s : State) {r r' : RegId} (hi lo hi' lo' d : Nat) (h : r' ≠ r) :
    (s.addSat ⟨r, hi, lo⟩ d).fld ⟨r', hi', lo'⟩ = s.fld ⟨r', hi', lo'⟩ := State.fld_setFld_ne s hi lo hi' lo' _ h
@[simp] theorem State.reg_incWrap_ne (s : State) {r r' : RegId} (hi lo : Nat) (h : r' ≠ r) :
    (s.incWrap ⟨r, hi, lo⟩).reg r' = s.reg r' := State.reg_setFld_ne s hi lo _ h
@[simp] theorem State.fld_incWrap_ne (s : State) {r r' : RegId} (hi lo hi' lo' : Nat) (h : r' ≠ r) :
    (s.incWrap ⟨r, hi, lo⟩).fld ⟨r', hi', lo'⟩ = s.fld ⟨r', hi', lo'⟩ := State.fld_setFld_ne s hi lo hi' lo' _ h
@[simp] theorem State.reg_setSFld_ne (s : State) {r r' : RegId} (hi lo : Nat) (v : Int) (h : r' ≠ r) :
    (s.setSFld ⟨r, hi, lo⟩ v).reg r' = s.reg r' := State.reg_setFld_ne s hi lo _ h
@[simp] theorem State.fld_setSFld_ne (s : State) {r r' : RegId} (hi lo hi' lo' : Nat) (v : Int) (h : r' ≠ r) :
    (s.setSFld ⟨r, hi, lo⟩ v).fld ⟨r', hi', lo'⟩ = s.fld ⟨r', hi', lo'⟩ := State.fld_setFld_ne s hi lo hi' lo' _ h
@[simp] theorem State.reg_resultReady_ne (s : State) {r r' : RegId} (h : r' ≠ r) :
    (s.resultReady r).reg r' = s.reg r' := State.reg_setFld_ne s 31 30 _ h
@[simp] theorem State.fld_resultReady_ne (s : State) {r r' : RegId} (hi' lo' : Nat) (h : r' ≠ r) :
    (s.resultReady r).fld ⟨r', hi', lo'⟩ = s.fld ⟨r', hi', lo'⟩ := State.fld_setFld_ne s 31 30 hi' lo' _ h
@[simp] theorem State.reg_resultPending_ne (s : State) {r r' : RegId} (h : r' ≠ r) :
    (s.resultPending r).reg r' = s.reg r' := State.reg_setFld_ne s 31 30 _ h
@[simp] theorem State.fld_resultPending_ne (s : State) {r r' : RegId} (hi' lo' : Nat) (h : r' ≠ r) :
    (s.resultPending r).fld ⟨r', hi', lo'⟩ = s.fld ⟨r', hi', lo'⟩ := State.fld_setFld_ne s 31 30 hi' lo' _ h
@[simp] theorem State.reg_setPair_ne (s : State) {lo hi r : RegId} (v : Nat) (h : r ≠ lo) (h' : r ≠ hi) :
    (s.setPair lo hi v).reg r = s.reg r := by simp [State.setPair, h, h']
@[simp] theorem State.fld_setPair_ne (s : State) {lo hi r : RegId} (a b v : Nat) (h : r ≠ lo) (h' : r ≠ hi) :
    (s.setPair lo hi v).fld ⟨r, a, b⟩ = s.fld ⟨r, a, b⟩ := by simp [State.setPair, h, h']

/-- A result that is ready, or requested, is a write of VALID and FRESH together (R14, R15). -/
theorem State.resultReady_eq (s : State) (r : RegId) : s.resultReady r = s.setFld ⟨r, 31, 30⟩ 3 := rfl
theorem State.resultPending_eq (s : State) (r : RegId) : s.resultPending r = s.setFld ⟨r, 31, 30⟩ 0 := rfl

/-! ## Other homes -/

@[simp] theorem State.lane_setLane_self (s : State) (n : Nat) (l : Lane) : (s.setLane n l).lane n = l := by
  simp [State.lane, State.setLane]

@[simp] theorem State.lane_setLane_ne (s : State) {n m : Nat} (l : Lane) (h : m ≠ n) : (s.setLane n l).lane m = s.lane m := by
  simp [State.lane, State.setLane, Tab.get_set_ne _ _ _ (Ne.symm h)]

@[simp] theorem State.lane_modLane_self (s : State) (n : Nat) (f : Lane → Lane) : (s.modLane n f).lane n = f (s.lane n) := by
  simp [State.modLane]

@[simp] theorem State.lane_modLane_ne (s : State) {n m : Nat} (f : Lane → Lane) (h : m ≠ n) : (s.modLane n f).lane m = s.lane m := by
  simp [State.modLane, State.lane_setLane_ne _ _ h]

@[simp] theorem State.qp_setQp_self (s : State) (q : Nat) (v : Qp) : (s.setQp q v).qp q = v := by
  simp [State.qp, State.setQp]

@[simp] theorem State.qp_setQp_ne (s : State) {p q : Nat} (v : Qp) (h : q ≠ p) : (s.setQp p v).qp q = s.qp q := by
  simp [State.qp, State.setQp, Tab.get_set_ne _ _ _ (Ne.symm h)]

@[simp] theorem State.ring_setRing_self (s : State) (f : Nat) (v : Ring) : (s.setRing f v).ring f = v := by
  simp [State.ring, State.setRing]

/-! ## Updates that leave the registers, and the other homes, alone -/

/-- What the register bank gives depends on the bank alone. -/
theorem State.reg_congr {s t : State} (h : t.regs = s.regs) (r : RegId) : t.reg r = s.reg r := by simp [State.reg, h]
theorem State.fld_congr {s t : State} (h : t.regs = s.regs) (f : FldId) : t.fld f = s.fld f := by
  simp [State.fld, State.reg_congr h]
theorem State.on_congr {s t : State} (h : t.regs = s.regs) (f : FldId) : t.on f = s.on f := by
  simp [State.on, State.fld_congr h]
theorem State.lane_congr {s t : State} (h : t.lanes = s.lanes) (n : Nat) : t.lane n = s.lane n := by simp [State.lane, h]
theorem State.qp_congr {s t : State} (h : t.host = s.host) (q : Nat) : t.qp q = s.qp q := by simp [State.qp, h]
theorem State.ring_congr {s t : State} (h : t.host = s.host) (f : Nat) : t.ring f = s.ring f := by simp [State.ring, h]

@[simp] theorem State.reg_setLane (s : State) (n : Nat) (l : Lane) (r : RegId) : (s.setLane n l).reg r = s.reg r := State.reg_congr rfl r
@[simp] theorem State.fld_setLane (s : State) (n : Nat) (l : Lane) (g : FldId) : (s.setLane n l).fld g = s.fld g := State.fld_congr rfl g
@[simp] theorem State.on_setLane (s : State) (n : Nat) (l : Lane) (g : FldId) : (s.setLane n l).on g = s.on g := State.on_congr rfl g
@[simp] theorem State.reg_modLane (s : State) (n : Nat) (f : Lane → Lane) (r : RegId) : (s.modLane n f).reg r = s.reg r := State.reg_congr rfl r
@[simp] theorem State.fld_modLane (s : State) (n : Nat) (f : Lane → Lane) (g : FldId) : (s.modLane n f).fld g = s.fld g := State.fld_congr rfl g
@[simp] theorem State.on_modLane (s : State) (n : Nat) (f : Lane → Lane) (g : FldId) : (s.modLane n f).on g = s.on g := State.on_congr rfl g
@[simp] theorem State.reg_setQp (s : State) (q : Nat) (v : Qp) (r : RegId) : (s.setQp q v).reg r = s.reg r := State.reg_congr rfl r
@[simp] theorem State.fld_setQp (s : State) (q : Nat) (v : Qp) (g : FldId) : (s.setQp q v).fld g = s.fld g := State.fld_congr rfl g
@[simp] theorem State.on_setQp (s : State) (q : Nat) (v : Qp) (g : FldId) : (s.setQp q v).on g = s.on g := State.on_congr rfl g
@[simp] theorem State.reg_modQp (s : State) (q : Nat) (f : Qp → Qp) (r : RegId) : (s.modQp q f).reg r = s.reg r := State.reg_congr rfl r
@[simp] theorem State.fld_modQp (s : State) (q : Nat) (f : Qp → Qp) (g : FldId) : (s.modQp q f).fld g = s.fld g := State.fld_congr rfl g
@[simp] theorem State.on_modQp (s : State) (q : Nat) (f : Qp → Qp) (g : FldId) : (s.modQp q f).on g = s.on g := State.on_congr rfl g
@[simp] theorem State.reg_setRing (s : State) (f : Nat) (v : Ring) (r : RegId) : (s.setRing f v).reg r = s.reg r := State.reg_congr rfl r
@[simp] theorem State.fld_setRing (s : State) (f : Nat) (v : Ring) (g : FldId) : (s.setRing f v).fld g = s.fld g := State.fld_congr rfl g
@[simp] theorem State.on_setRing (s : State) (f : Nat) (v : Ring) (g : FldId) : (s.setRing f v).on g = s.on g := State.on_congr rfl g
@[simp] theorem State.reg_emit (s : State) (o : Out) (r : RegId) : (s.emit o).reg r = s.reg r := State.reg_congr rfl r
@[simp] theorem State.fld_emit (s : State) (o : Out) (g : FldId) : (s.emit o).fld g = s.fld g := State.fld_congr rfl g
@[simp] theorem State.on_emit (s : State) (o : Out) (g : FldId) : (s.emit o).on g = s.on g := State.on_congr rfl g
@[simp] theorem State.reg_tick (s : State)  (r : RegId) : (s.tick).reg r = s.reg r := State.reg_congr rfl r
@[simp] theorem State.fld_tick (s : State)  (g : FldId) : (s.tick).fld g = s.fld g := State.fld_congr rfl g
@[simp] theorem State.on_tick (s : State)  (g : FldId) : (s.tick).on g = s.on g := State.on_congr rfl g
@[simp] theorem State.reg_modPwr (s : State) (f : PwrSt → PwrSt) (r : RegId) : (s.modPwr f).reg r = s.reg r := State.reg_congr rfl r
@[simp] theorem State.fld_modPwr (s : State) (f : PwrSt → PwrSt) (g : FldId) : (s.modPwr f).fld g = s.fld g := State.fld_congr rfl g
@[simp] theorem State.on_modPwr (s : State) (f : PwrSt → PwrSt) (g : FldId) : (s.modPwr f).on g = s.on g := State.on_congr rfl g
@[simp] theorem State.reg_dropLo (s : State) (fn : Nat) (x : RegId) (r : RegId) : (s.dropLo fn x).reg r = s.reg r := State.reg_congr rfl r
@[simp] theorem State.fld_dropLo (s : State) (fn : Nat) (x : RegId) (g : FldId) : (s.dropLo fn x).fld g = s.fld g := State.fld_congr rfl g
@[simp] theorem State.on_dropLo (s : State) (fn : Nat) (x : RegId) (g : FldId) : (s.dropLo fn x).on g = s.on g := State.on_congr rfl g
@[simp] theorem State.reg_holdLo (s : State) (fn : Nat) (x : RegId) (v : W32) (r : RegId) : (s.holdLo fn x v).reg r = s.reg r := State.reg_congr rfl r
@[simp] theorem State.fld_holdLo (s : State) (fn : Nat) (x : RegId) (v : W32) (g : FldId) : (s.holdLo fn x v).fld g = s.fld g := State.fld_congr rfl g
@[simp] theorem State.on_holdLo (s : State) (fn : Nat) (x : RegId) (v : W32) (g : FldId) : (s.holdLo fn x v).on g = s.on g := State.on_congr rfl g
@[simp] theorem State.reg_resetAct (s : State) (p : RegId → Bool) (r : RegId) : (s.resetAct p).reg r = s.reg r := State.reg_congr rfl r
@[simp] theorem State.fld_resetAct (s : State) (p : RegId → Bool) (g : FldId) : (s.resetAct p).fld g = s.fld g := State.fld_congr rfl g
@[simp] theorem State.on_resetAct (s : State) (p : RegId → Bool) (g : FldId) : (s.resetAct p).on g = s.on g := State.on_congr rfl g
@[simp] theorem State.lane_setReg (s : State) (r : RegId) (w : W32) (k : Nat) : (s.setReg r w).lane k = s.lane k := State.lane_congr rfl k
@[simp] theorem State.lane_setFld (s : State) (f : FldId) (v : Nat) (k : Nat) : (s.setFld f v).lane k = s.lane k := State.lane_congr rfl k
@[simp] theorem State.lane_addSat (s : State) (f : FldId) (d : Nat) (k : Nat) : (s.addSat f d).lane k = s.lane k := State.lane_congr rfl k
@[simp] theorem State.lane_incWrap (s : State) (f : FldId) (k : Nat) : (s.incWrap f).lane k = s.lane k := State.lane_congr rfl k
@[simp] theorem State.lane_setPair (s : State) (lo hi : RegId) (v : Nat) (k : Nat) : (s.setPair lo hi v).lane k = s.lane k := State.lane_congr rfl k
@[simp] theorem State.lane_resultReady (s : State) (r : RegId) (k : Nat) : (s.resultReady r).lane k = s.lane k := State.lane_congr rfl k
@[simp] theorem State.lane_resultPending (s : State) (r : RegId) (k : Nat) : (s.resultPending r).lane k = s.lane k := State.lane_congr rfl k
@[simp] theorem State.lane_setSFld (s : State) (f : FldId) (v : Int) (k : Nat) : (s.setSFld f v).lane k = s.lane k := State.lane_congr rfl k
@[simp] theorem State.lane_tick (s : State)  (k : Nat) : (s.tick).lane k = s.lane k := State.lane_congr rfl k
@[simp] theorem State.lane_emit (s : State) (o : Out) (k : Nat) : (s.emit o).lane k = s.lane k := State.lane_congr rfl k
@[simp] theorem State.qp_setReg (s : State) (r : RegId) (w : W32) (k : Nat) : (s.setReg r w).qp k = s.qp k := State.qp_congr rfl k
@[simp] theorem State.qp_setFld (s : State) (f : FldId) (v : Nat) (k : Nat) : (s.setFld f v).qp k = s.qp k := State.qp_congr rfl k
@[simp] theorem State.qp_addSat (s : State) (f : FldId) (d : Nat) (k : Nat) : (s.addSat f d).qp k = s.qp k := State.qp_congr rfl k
@[simp] theorem State.qp_incWrap (s : State) (f : FldId) (k : Nat) : (s.incWrap f).qp k = s.qp k := State.qp_congr rfl k
@[simp] theorem State.qp_setPair (s : State) (lo hi : RegId) (v : Nat) (k : Nat) : (s.setPair lo hi v).qp k = s.qp k := State.qp_congr rfl k
@[simp] theorem State.qp_resultReady (s : State) (r : RegId) (k : Nat) : (s.resultReady r).qp k = s.qp k := State.qp_congr rfl k
@[simp] theorem State.qp_resultPending (s : State) (r : RegId) (k : Nat) : (s.resultPending r).qp k = s.qp k := State.qp_congr rfl k
@[simp] theorem State.qp_setSFld (s : State) (f : FldId) (v : Int) (k : Nat) : (s.setSFld f v).qp k = s.qp k := State.qp_congr rfl k
@[simp] theorem State.qp_tick (s : State)  (k : Nat) : (s.tick).qp k = s.qp k := State.qp_congr rfl k
@[simp] theorem State.ring_setReg (s : State) (r : RegId) (w : W32) (k : Nat) : (s.setReg r w).ring k = s.ring k := State.ring_congr rfl k
@[simp] theorem State.ring_setFld (s : State) (f : FldId) (v : Nat) (k : Nat) : (s.setFld f v).ring k = s.ring k := State.ring_congr rfl k
@[simp] theorem State.ring_addSat (s : State) (f : FldId) (d : Nat) (k : Nat) : (s.addSat f d).ring k = s.ring k := State.ring_congr rfl k
@[simp] theorem State.ring_incWrap (s : State) (f : FldId) (k : Nat) : (s.incWrap f).ring k = s.ring k := State.ring_congr rfl k
@[simp] theorem State.ring_setPair (s : State) (lo hi : RegId) (v : Nat) (k : Nat) : (s.setPair lo hi v).ring k = s.ring k := State.ring_congr rfl k
@[simp] theorem State.ring_resultReady (s : State) (r : RegId) (k : Nat) : (s.resultReady r).ring k = s.ring k := State.ring_congr rfl k
@[simp] theorem State.ring_resultPending (s : State) (r : RegId) (k : Nat) : (s.resultPending r).ring k = s.ring k := State.ring_congr rfl k
@[simp] theorem State.ring_setSFld (s : State) (f : FldId) (v : Int) (k : Nat) : (s.setSFld f v).ring k = s.ring k := State.ring_congr rfl k
@[simp] theorem State.ring_tick (s : State)  (k : Nat) : (s.tick).ring k = s.ring k := State.ring_congr rfl k

end Sys2Proof.Machine
end

