-- ==== Sys2Proof/Laws/Ops.lean ====
section
/-! SUPPORT. The shared operations: what each one leaves as it was, and the one lemma that says what it does. -/

set_option Elab.async false

namespace Sys2Proof.Machine

/-! ## `sendMsix` -/

/-- The parts of the state that `sendMsix` leaves as they were. -/
@[simp] theorem sendMsix_rest (fn vec : Nat) (s : State) :
    (sendMsix fn vec s).tb = s.tb ∧ (sendMsix fn vec s).up = s.up ∧ (sendMsix fn vec s).free = s.free ∧
    (sendMsix fn vec s).act = s.act ∧ (sendMsix fn vec s).lanes = s.lanes ∧ (sendMsix fn vec s).gens = s.gens ∧
    (sendMsix fn vec s).time = s.time ∧ (sendMsix fn vec s).links = s.links ∧ (sendMsix fn vec s).crew = s.crew ∧
    (sendMsix fn vec s).beam = s.beam ∧ (sendMsix fn vec s).loom = s.loom ∧ (sendMsix fn vec s).sht = s.sht ∧
    (sendMsix fn vec s).drf = s.drf ∧ (sendMsix fn vec s).ck = s.ck ∧ (sendMsix fn vec s).mon = s.mon ∧
    (sendMsix fn vec s).bias = s.bias ∧ (sendMsix fn vec s).pwr = s.pwr ∧ (sendMsix fn vec s).thm = s.thm ∧
    (sendMsix fn vec s).sec = s.sec ∧ (sendMsix fn vec s).fuses = s.fuses ∧ (sendMsix fn vec s).anc = s.anc ∧
    (sendMsix fn vec s).split = s.split ∧ (sendMsix fn vec s).bist = s.bist ∧ (sendMsix fn vec s).tstAt = s.tstAt ∧
    (sendMsix fn vec s).t0 = s.t0 ∧ (sendMsix fn vec s).dark = s.dark ∧ (sendMsix fn vec s).pending = s.pending ∧
    (sendMsix fn vec s).host.qps = s.host.qps ∧ (sendMsix fn vec s).host.rings = s.host.rings ∧
    (sendMsix fn vec s).host.bme = s.host.bme ∧ (sendMsix fn vec s).host.vfs = s.host.vfs ∧
    (sendMsix fn vec s).host.held = s.host.held ∧ (sendMsix fn vec s).host.rejLog = s.host.rejLog ∧
    (sendMsix fn vec s).host.loHeld = s.host.loHeld ∧ (sendMsix fn vec s).host.hiLatch = s.host.hiLatch ∧
    (sendMsix fn vec s).host.capt = s.host.capt ∧ (sendMsix fn vec s).host.lastNote = s.host.lastNote := by
  simp only [sendMsix]; split_ifs <;> simp
@[simp] theorem sendMsix_reg (fn vec : Nat) (s : State) (k : Blk) (i o : Nat) (h0 : k ≠ .msix) :
    (sendMsix fn vec s).reg ⟨k, i, o⟩ = s.reg ⟨k, i, o⟩ := by
  simp only [sendMsix]; split_ifs <;> first | (simp [h0]; done) | exact State.reg_congr rfl _
@[simp] theorem sendMsix_fld (fn vec : Nat) (s : State) (k : Blk) (i o hi lo : Nat) (h0 : k ≠ .msix) :
    (sendMsix fn vec s).fld ⟨⟨k, i, o⟩, hi, lo⟩ = s.fld ⟨⟨k, i, o⟩, hi, lo⟩ := by
  simp only [State.fld]; rw [sendMsix_reg] <;> assumption

/-! ## `cqRecorded` -/

/-- The parts of the state that `cqRecorded` leaves as they were. -/
@[simp] theorem cqRecorded_rest (q : Nat) (b : Bool) (s : State) :
    (cqRecorded q b s).tb = s.tb ∧ (cqRecorded q b s).up = s.up ∧ (cqRecorded q b s).free = s.free ∧
    (cqRecorded q b s).act = s.act ∧ (cqRecorded q b s).lanes = s.lanes ∧ (cqRecorded q b s).gens = s.gens ∧
    (cqRecorded q b s).time = s.time ∧ (cqRecorded q b s).links = s.links ∧ (cqRecorded q b s).crew = s.crew ∧
    (cqRecorded q b s).beam = s.beam ∧ (cqRecorded q b s).loom = s.loom ∧ (cqRecorded q b s).sht = s.sht ∧
    (cqRecorded q b s).drf = s.drf ∧ (cqRecorded q b s).ck = s.ck ∧ (cqRecorded q b s).mon = s.mon ∧
    (cqRecorded q b s).bias = s.bias ∧ (cqRecorded q b s).pwr = s.pwr ∧ (cqRecorded q b s).thm = s.thm ∧
    (cqRecorded q b s).sec = s.sec ∧ (cqRecorded q b s).fuses = s.fuses ∧ (cqRecorded q b s).anc = s.anc ∧
    (cqRecorded q b s).split = s.split ∧ (cqRecorded q b s).bist = s.bist ∧ (cqRecorded q b s).tstAt = s.tstAt ∧
    (cqRecorded q b s).t0 = s.t0 ∧ (cqRecorded q b s).dark = s.dark ∧ (cqRecorded q b s).pending = s.pending ∧
    (cqRecorded q b s).host.rings = s.host.rings ∧ (cqRecorded q b s).host.bme = s.host.bme ∧
    (cqRecorded q b s).host.vfs = s.host.vfs ∧ (cqRecorded q b s).host.held = s.host.held ∧
    (cqRecorded q b s).host.rejLog = s.host.rejLog ∧ (cqRecorded q b s).host.loHeld = s.host.loHeld ∧
    (cqRecorded q b s).host.hiLatch = s.host.hiLatch ∧ (cqRecorded q b s).host.capt = s.host.capt ∧
    (cqRecorded q b s).host.lastNote = s.host.lastNote := by
  simp only [cqRecorded]; split_ifs <;> simp
@[simp] theorem cqRecorded_reg (q : Nat) (b : Bool) (s : State) (k : Blk) (i o : Nat) (h0 : k ≠ .msix) :
    (cqRecorded q b s).reg ⟨k, i, o⟩ = s.reg ⟨k, i, o⟩ := by
  simp only [cqRecorded]; split_ifs <;> first | (simp [h0]; done) | exact State.reg_congr rfl _
@[simp] theorem cqRecorded_fld (q : Nat) (b : Bool) (s : State) (k : Blk) (i o hi lo : Nat) (h0 : k ≠ .msix) :
    (cqRecorded q b s).fld ⟨⟨k, i, o⟩, hi, lo⟩ = s.fld ⟨⟨k, i, o⟩, hi, lo⟩ := by
  simp only [State.fld]; rw [cqRecorded_reg] <;> assumption

/-! ## `nqRecorded` -/

/-- The parts of the state that `nqRecorded` leaves as they were. -/
@[simp] theorem nqRecorded_rest (f : Nat) (s : State) :
    (nqRecorded f s).tb = s.tb ∧ (nqRecorded f s).up = s.up ∧ (nqRecorded f s).free = s.free ∧
    (nqRecorded f s).act = s.act ∧ (nqRecorded f s).lanes = s.lanes ∧ (nqRecorded f s).gens = s.gens ∧
    (nqRecorded f s).time = s.time ∧ (nqRecorded f s).links = s.links ∧ (nqRecorded f s).crew = s.crew ∧
    (nqRecorded f s).beam = s.beam ∧ (nqRecorded f s).loom = s.loom ∧ (nqRecorded f s).sht = s.sht ∧
    (nqRecorded f s).drf = s.drf ∧ (nqRecorded f s).ck = s.ck ∧ (nqRecorded f s).mon = s.mon ∧
    (nqRecorded f s).bias = s.bias ∧ (nqRecorded f s).pwr = s.pwr ∧ (nqRecorded f s).thm = s.thm ∧
    (nqRecorded f s).sec = s.sec ∧ (nqRecorded f s).fuses = s.fuses ∧ (nqRecorded f s).anc = s.anc ∧
    (nqRecorded f s).split = s.split ∧ (nqRecorded f s).bist = s.bist ∧ (nqRecorded f s).tstAt = s.tstAt ∧
    (nqRecorded f s).t0 = s.t0 ∧ (nqRecorded f s).dark = s.dark ∧ (nqRecorded f s).pending = s.pending ∧
    (nqRecorded f s).host.qps = s.host.qps ∧ (nqRecorded f s).host.bme = s.host.bme ∧
    (nqRecorded f s).host.vfs = s.host.vfs ∧ (nqRecorded f s).host.held = s.host.held ∧
    (nqRecorded f s).host.rejLog = s.host.rejLog ∧ (nqRecorded f s).host.loHeld = s.host.loHeld ∧
    (nqRecorded f s).host.hiLatch = s.host.hiLatch ∧ (nqRecorded f s).host.capt = s.host.capt ∧
    (nqRecorded f s).host.lastNote = s.host.lastNote := by
  simp only [nqRecorded]; split_ifs <;> simp
@[simp] theorem nqRecorded_reg (f : Nat) (s : State) (k : Blk) (i o : Nat) (h0 : k ≠ .msix) :
    (nqRecorded f s).reg ⟨k, i, o⟩ = s.reg ⟨k, i, o⟩ := by
  simp only [nqRecorded]; split_ifs <;> first | (simp [h0]; done) | exact State.reg_congr rfl _
@[simp] theorem nqRecorded_fld (f : Nat) (s : State) (k : Blk) (i o hi lo : Nat) (h0 : k ≠ .msix) :
    (nqRecorded f s).fld ⟨⟨k, i, o⟩, hi, lo⟩ = s.fld ⟨⟨k, i, o⟩, hi, lo⟩ := by
  simp only [State.fld]; rw [nqRecorded_reg] <;> assumption

/-! ## `notice` -/

/-- The parts of the state that `notice` leaves as they were. -/
@[simp] theorem notice_rest (f kind : Nat) (b2 b8 : List Byte) (s : State) :
    (notice f kind b2 b8 s).tb = s.tb ∧ (notice f kind b2 b8 s).up = s.up ∧ (notice f kind b2 b8 s).free = s.free ∧
    (notice f kind b2 b8 s).act = s.act ∧ (notice f kind b2 b8 s).lanes = s.lanes ∧
    (notice f kind b2 b8 s).gens = s.gens ∧ (notice f kind b2 b8 s).time = s.time ∧
    (notice f kind b2 b8 s).links = s.links ∧ (notice f kind b2 b8 s).crew = s.crew ∧
    (notice f kind b2 b8 s).beam = s.beam ∧ (notice f kind b2 b8 s).loom = s.loom ∧
    (notice f kind b2 b8 s).sht = s.sht ∧ (notice f kind b2 b8 s).drf = s.drf ∧ (notice f kind b2 b8 s).ck = s.ck ∧
    (notice f kind b2 b8 s).mon = s.mon ∧ (notice f kind b2 b8 s).bias = s.bias ∧
    (notice f kind b2 b8 s).pwr = s.pwr ∧ (notice f kind b2 b8 s).thm = s.thm ∧
    (notice f kind b2 b8 s).sec = s.sec ∧ (notice f kind b2 b8 s).fuses = s.fuses ∧
    (notice f kind b2 b8 s).anc = s.anc ∧ (notice f kind b2 b8 s).split = s.split ∧
    (notice f kind b2 b8 s).bist = s.bist ∧ (notice f kind b2 b8 s).tstAt = s.tstAt ∧
    (notice f kind b2 b8 s).t0 = s.t0 ∧ (notice f kind b2 b8 s).dark = s.dark ∧
    (notice f kind b2 b8 s).pending = s.pending ∧ (notice f kind b2 b8 s).host.qps = s.host.qps ∧
    (notice f kind b2 b8 s).host.bme = s.host.bme ∧ (notice f kind b2 b8 s).host.vfs = s.host.vfs ∧
    (notice f kind b2 b8 s).host.held = s.host.held ∧ (notice f kind b2 b8 s).host.rejLog = s.host.rejLog ∧
    (notice f kind b2 b8 s).host.loHeld = s.host.loHeld ∧ (notice f kind b2 b8 s).host.hiLatch = s.host.hiLatch ∧
    (notice f kind b2 b8 s).host.capt = s.host.capt ∧ (notice f kind b2 b8 s).host.lastNote = s.host.lastNote := by
  simp only [notice]; split_ifs <;> simp
@[simp] theorem notice_reg (f kind : Nat) (b2 b8 : List Byte) (s : State) (k : Blk) (i o : Nat) (h0 : k ≠ .msix) (h1 : k ≠ .nq) :
    (notice f kind b2 b8 s).reg ⟨k, i, o⟩ = s.reg ⟨k, i, o⟩ := by
  simp only [notice]; split_ifs <;> first | (simp [h0, h1]; done) | exact State.reg_congr rfl _
@[simp] theorem notice_fld (f kind : Nat) (b2 b8 : List Byte) (s : State) (k : Blk) (i o hi lo : Nat) (h0 : k ≠ .msix) (h1 : k ≠ .nq) :
    (notice f kind b2 b8 s).fld ⟨⟨k, i, o⟩, hi, lo⟩ = s.fld ⟨⟨k, i, o⟩, hi, lo⟩ := by
  simp only [State.fld]; rw [notice_reg] <;> assumption

/-! ## `eventNotice` -/

/-- The parts of the state that `eventNotice` leaves as they were. -/
@[simp] theorem eventNotice_rest (e : FldId) (s : State) :
    (eventNotice e s).tb = s.tb ∧ (eventNotice e s).up = s.up ∧ (eventNotice e s).free = s.free ∧
    (eventNotice e s).act = s.act ∧ (eventNotice e s).lanes = s.lanes ∧ (eventNotice e s).gens = s.gens ∧
    (eventNotice e s).time = s.time ∧ (eventNotice e s).links = s.links ∧ (eventNotice e s).crew = s.crew ∧
    (eventNotice e s).beam = s.beam ∧ (eventNotice e s).loom = s.loom ∧ (eventNotice e s).sht = s.sht ∧
    (eventNotice e s).drf = s.drf ∧ (eventNotice e s).ck = s.ck ∧ (eventNotice e s).mon = s.mon ∧
    (eventNotice e s).bias = s.bias ∧ (eventNotice e s).pwr = s.pwr ∧ (eventNotice e s).thm = s.thm ∧
    (eventNotice e s).sec = s.sec ∧ (eventNotice e s).fuses = s.fuses ∧ (eventNotice e s).anc = s.anc ∧
    (eventNotice e s).split = s.split ∧ (eventNotice e s).bist = s.bist ∧ (eventNotice e s).tstAt = s.tstAt ∧
    (eventNotice e s).t0 = s.t0 ∧ (eventNotice e s).dark = s.dark ∧ (eventNotice e s).pending = s.pending ∧
    (eventNotice e s).host.qps = s.host.qps ∧ (eventNotice e s).host.bme = s.host.bme ∧
    (eventNotice e s).host.vfs = s.host.vfs ∧ (eventNotice e s).host.held = s.host.held ∧
    (eventNotice e s).host.rejLog = s.host.rejLog ∧ (eventNotice e s).host.loHeld = s.host.loHeld ∧
    (eventNotice e s).host.hiLatch = s.host.hiLatch ∧ (eventNotice e s).host.capt = s.host.capt ∧
    (eventNotice e s).host.lastNote = s.host.lastNote := by
  simp only [eventNotice]; split_ifs <;> simp
@[simp] theorem eventNotice_reg (e : FldId) (s : State) (k : Blk) (i o : Nat) (h0 : k ≠ .msix) (h1 : k ≠ .nq) :
    (eventNotice e s).reg ⟨k, i, o⟩ = s.reg ⟨k, i, o⟩ := by
  simp only [eventNotice]; split_ifs <;> first | (simp [h0, h1]; done) | exact State.reg_congr rfl _
@[simp] theorem eventNotice_fld (e : FldId) (s : State) (k : Blk) (i o hi lo : Nat) (h0 : k ≠ .msix) (h1 : k ≠ .nq) :
    (eventNotice e s).fld ⟨⟨k, i, o⟩, hi, lo⟩ = s.fld ⟨⟨k, i, o⟩, hi, lo⟩ := by
  simp only [State.fld]; rw [eventNotice_reg] <;> assumption

/-! ## `untake` -/

/-- The parts of the state that `untake` leaves as they were. -/
@[simp] theorem untake_rest (h : Hdr) (s : State) :
    (untake h s).tb = s.tb ∧ (untake h s).up = s.up ∧ (untake h s).free = s.free ∧ (untake h s).act = s.act ∧
    (untake h s).lanes = s.lanes ∧ (untake h s).gens = s.gens ∧ (untake h s).time = s.time ∧
    (untake h s).links = s.links ∧ (untake h s).crew = s.crew ∧ (untake h s).beam = s.beam ∧
    (untake h s).loom = s.loom ∧ (untake h s).sht = s.sht ∧ (untake h s).drf = s.drf ∧ (untake h s).ck = s.ck ∧
    (untake h s).mon = s.mon ∧ (untake h s).bias = s.bias ∧ (untake h s).pwr = s.pwr ∧ (untake h s).thm = s.thm ∧
    (untake h s).sec = s.sec ∧ (untake h s).fuses = s.fuses ∧ (untake h s).anc = s.anc ∧
    (untake h s).split = s.split ∧ (untake h s).bist = s.bist ∧ (untake h s).tstAt = s.tstAt ∧
    (untake h s).t0 = s.t0 ∧ (untake h s).dark = s.dark ∧ (untake h s).pending = s.pending ∧
    (untake h s).host.rings = s.host.rings ∧ (untake h s).host.bme = s.host.bme ∧
    (untake h s).host.vfs = s.host.vfs ∧ (untake h s).host.held = s.host.held ∧
    (untake h s).host.rejLog = s.host.rejLog ∧ (untake h s).host.loHeld = s.host.loHeld ∧
    (untake h s).host.hiLatch = s.host.hiLatch ∧ (untake h s).host.capt = s.host.capt ∧
    (untake h s).host.lastNote = s.host.lastNote ∧ (untake h s).host.out = s.host.out := by
  simp only [untake]; split_ifs <;> simp
@[simp] theorem untake_reg (h : Hdr) (s : State) (k : Blk) (i o : Nat) (h0 : k ≠ .qp) :
    (untake h s).reg ⟨k, i, o⟩ = s.reg ⟨k, i, o⟩ := by
  simp only [untake]; split_ifs <;> first | (simp [h0]; done) | exact State.reg_congr rfl _
@[simp] theorem untake_fld (h : Hdr) (s : State) (k : Blk) (i o hi lo : Nat) (h0 : k ≠ .qp) :
    (untake h s).fld ⟨⟨k, i, o⟩, hi, lo⟩ = s.fld ⟨⟨k, i, o⟩, hi, lo⟩ := by
  simp only [State.fld]; rw [untake_reg] <;> assumption

/-! ## `emitData` -/

/-- The parts of the state that `emitData` leaves as they were. -/
@[simp] theorem emitData_rest (l : List (Nat × List Byte)) (s : State) :
    (emitData l s).tb = s.tb ∧ (emitData l s).up = s.up ∧ (emitData l s).free = s.free ∧
    (emitData l s).regs = s.regs ∧ (emitData l s).act = s.act ∧ (emitData l s).lanes = s.lanes ∧
    (emitData l s).gens = s.gens ∧ (emitData l s).time = s.time ∧ (emitData l s).links = s.links ∧
    (emitData l s).crew = s.crew ∧ (emitData l s).beam = s.beam ∧ (emitData l s).loom = s.loom ∧
    (emitData l s).sht = s.sht ∧ (emitData l s).drf = s.drf ∧ (emitData l s).ck = s.ck ∧
    (emitData l s).mon = s.mon ∧ (emitData l s).bias = s.bias ∧ (emitData l s).pwr = s.pwr ∧
    (emitData l s).thm = s.thm ∧ (emitData l s).sec = s.sec ∧ (emitData l s).fuses = s.fuses ∧
    (emitData l s).anc = s.anc ∧ (emitData l s).split = s.split ∧ (emitData l s).bist = s.bist ∧
    (emitData l s).tstAt = s.tstAt ∧ (emitData l s).t0 = s.t0 ∧ (emitData l s).dark = s.dark ∧
    (emitData l s).pending = s.pending ∧ (emitData l s).host.qps = s.host.qps ∧
    (emitData l s).host.rings = s.host.rings ∧ (emitData l s).host.bme = s.host.bme ∧
    (emitData l s).host.vfs = s.host.vfs ∧ (emitData l s).host.held = s.host.held ∧
    (emitData l s).host.rejLog = s.host.rejLog ∧ (emitData l s).host.loHeld = s.host.loHeld ∧
    (emitData l s).host.hiLatch = s.host.hiLatch ∧ (emitData l s).host.capt = s.host.capt ∧
    (emitData l s).host.lastNote = s.host.lastNote := by
  simp only [emitData]; induction l generalizing s with | nil => simp | cons a l ih => simpa using ih (s.emit (.hostWrite a.1 a.2))
@[simp] theorem emitData_reg (l : List (Nat × List Byte)) (s : State) (r : RegId) : (emitData l s).reg r = s.reg r := State.reg_congr (by simp) r
@[simp] theorem emitData_fld (l : List (Nat × List Byte)) (s : State) (f : FldId) : (emitData l s).fld f = s.fld f := State.fld_congr (by simp) f
@[simp] theorem emitData_on (l : List (Nat × List Byte)) (s : State) (f : FldId) : (emitData l s).on f = s.on f := State.on_congr (by simp) f

/-! ## `writeCompl` -/

/-- The parts of the state that `writeCompl` leaves as they were. -/
@[simp] theorem writeCompl_rest (c : Compl) (s : State) :
    (writeCompl c s).tb = s.tb ∧ (writeCompl c s).up = s.up ∧ (writeCompl c s).free = s.free ∧
    (writeCompl c s).act = s.act ∧ (writeCompl c s).lanes = s.lanes ∧ (writeCompl c s).gens = s.gens ∧
    (writeCompl c s).time = s.time ∧ (writeCompl c s).links = s.links ∧ (writeCompl c s).crew = s.crew ∧
    (writeCompl c s).beam = s.beam ∧ (writeCompl c s).loom = s.loom ∧ (writeCompl c s).sht = s.sht ∧
    (writeCompl c s).drf = s.drf ∧ (writeCompl c s).ck = s.ck ∧ (writeCompl c s).mon = s.mon ∧
    (writeCompl c s).bias = s.bias ∧ (writeCompl c s).pwr = s.pwr ∧ (writeCompl c s).thm = s.thm ∧
    (writeCompl c s).sec = s.sec ∧ (writeCompl c s).fuses = s.fuses ∧ (writeCompl c s).anc = s.anc ∧
    (writeCompl c s).split = s.split ∧ (writeCompl c s).bist = s.bist ∧ (writeCompl c s).tstAt = s.tstAt ∧
    (writeCompl c s).t0 = s.t0 ∧ (writeCompl c s).dark = s.dark ∧ (writeCompl c s).pending = s.pending ∧
    (writeCompl c s).host.rings = s.host.rings ∧ (writeCompl c s).host.bme = s.host.bme ∧
    (writeCompl c s).host.vfs = s.host.vfs ∧ (writeCompl c s).host.held = s.host.held ∧
    (writeCompl c s).host.rejLog = s.host.rejLog ∧ (writeCompl c s).host.loHeld = s.host.loHeld ∧
    (writeCompl c s).host.hiLatch = s.host.hiLatch ∧ (writeCompl c s).host.capt = s.host.capt ∧
    (writeCompl c s).host.lastNote = s.host.lastNote := by
  simp only [writeCompl]; split_ifs <;> simp
@[simp] theorem writeCompl_reg (c : Compl) (s : State) (k : Blk) (i o : Nat) (h0 : k ≠ .qp) (h1 : k ≠ .msix) :
    (writeCompl c s).reg ⟨k, i, o⟩ = s.reg ⟨k, i, o⟩ := by
  simp only [writeCompl]; split_ifs <;> first | (simp [h0, h1]; done) | exact State.reg_congr rfl _
@[simp] theorem writeCompl_fld (c : Compl) (s : State) (k : Blk) (i o hi lo : Nat) (h0 : k ≠ .qp) (h1 : k ≠ .msix) :
    (writeCompl c s).fld ⟨⟨k, i, o⟩, hi, lo⟩ = s.fld ⟨⟨k, i, o⟩, hi, lo⟩ := by
  simp only [State.fld]; rw [writeCompl_reg] <;> assumption

/-! ## `postCompl` -/

/-- The parts of the state that `postCompl` leaves as they were. -/
@[simp] theorem postCompl_rest (c : Compl) (s : State) :
    (postCompl c s).tb = s.tb ∧ (postCompl c s).up = s.up ∧ (postCompl c s).free = s.free ∧
    (postCompl c s).act = s.act ∧ (postCompl c s).lanes = s.lanes ∧ (postCompl c s).gens = s.gens ∧
    (postCompl c s).time = s.time ∧ (postCompl c s).links = s.links ∧ (postCompl c s).crew = s.crew ∧
    (postCompl c s).beam = s.beam ∧ (postCompl c s).loom = s.loom ∧ (postCompl c s).sht = s.sht ∧
    (postCompl c s).drf = s.drf ∧ (postCompl c s).ck = s.ck ∧ (postCompl c s).mon = s.mon ∧
    (postCompl c s).bias = s.bias ∧ (postCompl c s).pwr = s.pwr ∧ (postCompl c s).thm = s.thm ∧
    (postCompl c s).sec = s.sec ∧ (postCompl c s).fuses = s.fuses ∧ (postCompl c s).anc = s.anc ∧
    (postCompl c s).split = s.split ∧ (postCompl c s).bist = s.bist ∧ (postCompl c s).tstAt = s.tstAt ∧
    (postCompl c s).t0 = s.t0 ∧ (postCompl c s).dark = s.dark ∧ (postCompl c s).pending = s.pending ∧
    (postCompl c s).host.rings = s.host.rings ∧ (postCompl c s).host.bme = s.host.bme ∧
    (postCompl c s).host.vfs = s.host.vfs ∧ (postCompl c s).host.rejLog = s.host.rejLog ∧
    (postCompl c s).host.loHeld = s.host.loHeld ∧ (postCompl c s).host.hiLatch = s.host.hiLatch ∧
    (postCompl c s).host.capt = s.host.capt ∧ (postCompl c s).host.lastNote = s.host.lastNote := by
  simp only [postCompl]; split_ifs <;> simp
@[simp] theorem postCompl_reg (c : Compl) (s : State) (k : Blk) (i o : Nat) (h0 : k ≠ .qp) (h1 : k ≠ .msix) :
    (postCompl c s).reg ⟨k, i, o⟩ = s.reg ⟨k, i, o⟩ := by
  simp only [postCompl]; split_ifs <;> first | (simp [h0, h1]; done) | exact State.reg_congr rfl _
@[simp] theorem postCompl_fld (c : Compl) (s : State) (k : Blk) (i o hi lo : Nat) (h0 : k ≠ .qp) (h1 : k ≠ .msix) :
    (postCompl c s).fld ⟨⟨k, i, o⟩, hi, lo⟩ = s.fld ⟨⟨k, i, o⟩, hi, lo⟩ := by
  simp only [State.fld]; rw [postCompl_reg] <;> assumption

/-! ## `complete` -/

/-- The parts of the state that `complete` leaves as they were. -/
@[simp] theorem complete_rest (h : Hdr) (st : Nat) (res : List Byte) (s : State) :
    (complete h st res s).tb = s.tb ∧ (complete h st res s).up = s.up ∧ (complete h st res s).free = s.free ∧
    (complete h st res s).act = s.act ∧ (complete h st res s).lanes = s.lanes ∧
    (complete h st res s).gens = s.gens ∧ (complete h st res s).time = s.time ∧
    (complete h st res s).links = s.links ∧ (complete h st res s).crew = s.crew ∧
    (complete h st res s).beam = s.beam ∧ (complete h st res s).loom = s.loom ∧ (complete h st res s).sht = s.sht ∧
    (complete h st res s).drf = s.drf ∧ (complete h st res s).ck = s.ck ∧ (complete h st res s).mon = s.mon ∧
    (complete h st res s).bias = s.bias ∧ (complete h st res s).pwr = s.pwr ∧ (complete h st res s).thm = s.thm ∧
    (complete h st res s).sec = s.sec ∧ (complete h st res s).fuses = s.fuses ∧ (complete h st res s).anc = s.anc ∧
    (complete h st res s).split = s.split ∧ (complete h st res s).bist = s.bist ∧
    (complete h st res s).tstAt = s.tstAt ∧ (complete h st res s).t0 = s.t0 ∧ (complete h st res s).dark = s.dark ∧
    (complete h st res s).pending = s.pending ∧ (complete h st res s).host.rings = s.host.rings ∧
    (complete h st res s).host.bme = s.host.bme ∧ (complete h st res s).host.vfs = s.host.vfs ∧
    (complete h st res s).host.rejLog = s.host.rejLog ∧ (complete h st res s).host.loHeld = s.host.loHeld ∧
    (complete h st res s).host.hiLatch = s.host.hiLatch ∧ (complete h st res s).host.capt = s.host.capt ∧
    (complete h st res s).host.lastNote = s.host.lastNote := by
  simp [complete]
@[simp] theorem complete_reg (h : Hdr) (st : Nat) (res : List Byte) (s : State) (k : Blk) (i o : Nat) (h0 : k ≠ .qp) (h1 : k ≠ .msix) :
    (complete h st res s).reg ⟨k, i, o⟩ = s.reg ⟨k, i, o⟩ := by
  simp [complete, h0, h1]
@[simp] theorem complete_fld (h : Hdr) (st : Nat) (res : List Byte) (s : State) (k : Blk) (i o hi lo : Nat) (h0 : k ≠ .qp) (h1 : k ≠ .msix) :
    (complete h st res s).fld ⟨⟨k, i, o⟩, hi, lo⟩ = s.fld ⟨⟨k, i, o⟩, hi, lo⟩ := by
  simp only [State.fld]; rw [complete_reg] <;> assumption

/-! ## `completeRec` -/

/-- The parts of the state that `completeRec` leaves as they were. -/
@[simp] theorem completeRec_rest (h : Hdr) (st : Nat) (rec : List Byte) (s : State) :
    (completeRec h st rec s).tb = s.tb ∧ (completeRec h st rec s).up = s.up ∧
    (completeRec h st rec s).free = s.free ∧ (completeRec h st rec s).act = s.act ∧
    (completeRec h st rec s).lanes = s.lanes ∧ (completeRec h st rec s).gens = s.gens ∧
    (completeRec h st rec s).time = s.time ∧ (completeRec h st rec s).links = s.links ∧
    (completeRec h st rec s).crew = s.crew ∧ (completeRec h st rec s).beam = s.beam ∧
    (completeRec h st rec s).loom = s.loom ∧ (completeRec h st rec s).sht = s.sht ∧
    (completeRec h st rec s).drf = s.drf ∧ (completeRec h st rec s).ck = s.ck ∧
    (completeRec h st rec s).mon = s.mon ∧ (completeRec h st rec s).bias = s.bias ∧
    (completeRec h st rec s).pwr = s.pwr ∧ (completeRec h st rec s).thm = s.thm ∧
    (completeRec h st rec s).sec = s.sec ∧ (completeRec h st rec s).fuses = s.fuses ∧
    (completeRec h st rec s).anc = s.anc ∧ (completeRec h st rec s).split = s.split ∧
    (completeRec h st rec s).bist = s.bist ∧ (completeRec h st rec s).tstAt = s.tstAt ∧
    (completeRec h st rec s).t0 = s.t0 ∧ (completeRec h st rec s).dark = s.dark ∧
    (completeRec h st rec s).pending = s.pending ∧ (completeRec h st rec s).host.rings = s.host.rings ∧
    (completeRec h st rec s).host.bme = s.host.bme ∧ (completeRec h st rec s).host.vfs = s.host.vfs ∧
    (completeRec h st rec s).host.rejLog = s.host.rejLog ∧ (completeRec h st rec s).host.loHeld = s.host.loHeld ∧
    (completeRec h st rec s).host.hiLatch = s.host.hiLatch ∧ (completeRec h st rec s).host.capt = s.host.capt ∧
    (completeRec h st rec s).host.lastNote = s.host.lastNote := by
  simp [completeRec]
@[simp] theorem completeRec_reg (h : Hdr) (st : Nat) (rec : List Byte) (s : State) (k : Blk) (i o : Nat) (h0 : k ≠ .qp) (h1 : k ≠ .msix) :
    (completeRec h st rec s).reg ⟨k, i, o⟩ = s.reg ⟨k, i, o⟩ := by
  simp [completeRec, h0, h1]
@[simp] theorem completeRec_fld (h : Hdr) (st : Nat) (rec : List Byte) (s : State) (k : Blk) (i o hi lo : Nat) (h0 : k ≠ .qp) (h1 : k ≠ .msix) :
    (completeRec h st rec s).fld ⟨⟨k, i, o⟩, hi, lo⟩ = s.fld ⟨⟨k, i, o⟩, hi, lo⟩ := by
  simp only [State.fld]; rw [completeRec_reg] <;> assumption

/-! ## `logReject` -/

/-- The parts of the state that `logReject` leaves as they were. -/
@[simp] theorem logReject_rest (fn space offset status : Nat) (wr : Bool) (s : State) :
    (logReject fn space offset status wr s).tb = s.tb ∧ (logReject fn space offset status wr s).up = s.up ∧
    (logReject fn space offset status wr s).free = s.free ∧ (logReject fn space offset status wr s).act = s.act ∧
    (logReject fn space offset status wr s).lanes = s.lanes ∧
    (logReject fn space offset status wr s).gens = s.gens ∧ (logReject fn space offset status wr s).time = s.time ∧
    (logReject fn space offset status wr s).links = s.links ∧
    (logReject fn space offset status wr s).crew = s.crew ∧ (logReject fn space offset status wr s).beam = s.beam ∧
    (logReject fn space offset status wr s).loom = s.loom ∧ (logReject fn space offset status wr s).sht = s.sht ∧
    (logReject fn space offset status wr s).drf = s.drf ∧ (logReject fn space offset status wr s).ck = s.ck ∧
    (logReject fn space offset status wr s).mon = s.mon ∧ (logReject fn space offset status wr s).bias = s.bias ∧
    (logReject fn space offset status wr s).pwr = s.pwr ∧ (logReject fn space offset status wr s).thm = s.thm ∧
    (logReject fn space offset status wr s).sec = s.sec ∧ (logReject fn space offset status wr s).fuses = s.fuses ∧
    (logReject fn space offset status wr s).anc = s.anc ∧ (logReject fn space offset status wr s).split = s.split ∧
    (logReject fn space offset status wr s).bist = s.bist ∧
    (logReject fn space offset status wr s).tstAt = s.tstAt ∧ (logReject fn space offset status wr s).t0 = s.t0 ∧
    (logReject fn space offset status wr s).dark = s.dark ∧
    (logReject fn space offset status wr s).pending = s.pending ∧
    (logReject fn space offset status wr s).host.qps = s.host.qps ∧
    (logReject fn space offset status wr s).host.rings = s.host.rings ∧
    (logReject fn space offset status wr s).host.bme = s.host.bme ∧
    (logReject fn space offset status wr s).host.vfs = s.host.vfs ∧
    (logReject fn space offset status wr s).host.held = s.host.held ∧
    (logReject fn space offset status wr s).host.loHeld = s.host.loHeld ∧
    (logReject fn space offset status wr s).host.hiLatch = s.host.hiLatch ∧
    (logReject fn space offset status wr s).host.capt = s.host.capt ∧
    (logReject fn space offset status wr s).host.lastNote = s.host.lastNote ∧
    (logReject fn space offset status wr s).host.out = s.host.out := by
  simp only [logReject]; split_ifs <;> simp
@[simp] theorem logReject_reg (fn space offset status : Nat) (wr : Bool) (s : State) (k : Blk) (i o : Nat) (h0 : k ≠ .sys) (h1 : k ≠ .win) :
    (logReject fn space offset status wr s).reg ⟨k, i, o⟩ = s.reg ⟨k, i, o⟩ := by
  simp only [State.reg, logReject]; split_ifs <;>
    simp [State.reg, State.addSat, State.setFld, State.setReg, Tab.get_set, Ne.symm h0, Ne.symm h1]
@[simp] theorem logReject_fld (fn space offset status : Nat) (wr : Bool) (s : State) (k : Blk) (i o hi lo : Nat) (h0 : k ≠ .sys) (h1 : k ≠ .win) :
    (logReject fn space offset status wr s).fld ⟨⟨k, i, o⟩, hi, lo⟩ = s.fld ⟨⟨k, i, o⟩, hi, lo⟩ := by
  simp only [State.fld]; rw [logReject_reg] <;> assumption

/-! ## `rejectWrite` -/

/-- The parts of the state that `rejectWrite` leaves as they were. -/
@[simp] theorem rejectWrite_rest (fn space offset status : Nat) (s : State) :
    (rejectWrite fn space offset status s).tb = s.tb ∧ (rejectWrite fn space offset status s).up = s.up ∧
    (rejectWrite fn space offset status s).free = s.free ∧ (rejectWrite fn space offset status s).act = s.act ∧
    (rejectWrite fn space offset status s).lanes = s.lanes ∧ (rejectWrite fn space offset status s).gens = s.gens ∧
    (rejectWrite fn space offset status s).time = s.time ∧ (rejectWrite fn space offset status s).links = s.links ∧
    (rejectWrite fn space offset status s).crew = s.crew ∧ (rejectWrite fn space offset status s).beam = s.beam ∧
    (rejectWrite fn space offset status s).loom = s.loom ∧ (rejectWrite fn space offset status s).sht = s.sht ∧
    (rejectWrite fn space offset status s).drf = s.drf ∧ (rejectWrite fn space offset status s).ck = s.ck ∧
    (rejectWrite fn space offset status s).mon = s.mon ∧ (rejectWrite fn space offset status s).bias = s.bias ∧
    (rejectWrite fn space offset status s).pwr = s.pwr ∧ (rejectWrite fn space offset status s).thm = s.thm ∧
    (rejectWrite fn space offset status s).sec = s.sec ∧ (rejectWrite fn space offset status s).fuses = s.fuses ∧
    (rejectWrite fn space offset status s).anc = s.anc ∧ (rejectWrite fn space offset status s).split = s.split ∧
    (rejectWrite fn space offset status s).bist = s.bist ∧ (rejectWrite fn space offset status s).tstAt = s.tstAt ∧
    (rejectWrite fn space offset status s).t0 = s.t0 ∧ (rejectWrite fn space offset status s).dark = s.dark ∧
    (rejectWrite fn space offset status s).pending = s.pending ∧
    (rejectWrite fn space offset status s).host.qps = s.host.qps ∧
    (rejectWrite fn space offset status s).host.bme = s.host.bme ∧
    (rejectWrite fn space offset status s).host.vfs = s.host.vfs ∧
    (rejectWrite fn space offset status s).host.held = s.host.held ∧
    (rejectWrite fn space offset status s).host.loHeld = s.host.loHeld ∧
    (rejectWrite fn space offset status s).host.hiLatch = s.host.hiLatch ∧
    (rejectWrite fn space offset status s).host.capt = s.host.capt ∧
    (rejectWrite fn space offset status s).host.lastNote = s.host.lastNote := by
  simp only [rejectWrite]; split_ifs <;> simp
@[simp] theorem rejectWrite_reg (fn space offset status : Nat) (s : State) (k : Blk) (i o : Nat) (h0 : k ≠ .sys) (h1 : k ≠ .win) (h2 : k ≠ .nq) (h3 : k ≠ .msix) :
    (rejectWrite fn space offset status s).reg ⟨k, i, o⟩ = s.reg ⟨k, i, o⟩ := by
  simp only [rejectWrite]; split_ifs <;> first | (simp [h0, h1, h2, h3]; done) | exact State.reg_congr rfl _
@[simp] theorem rejectWrite_fld (fn space offset status : Nat) (s : State) (k : Blk) (i o hi lo : Nat) (h0 : k ≠ .sys) (h1 : k ≠ .win) (h2 : k ≠ .nq) (h3 : k ≠ .msix) :
    (rejectWrite fn space offset status s).fld ⟨⟨k, i, o⟩, hi, lo⟩ = s.fld ⟨⟨k, i, o⟩, hi, lo⟩ := by
  simp only [State.fld]; rw [rejectWrite_reg] <;> assumption

/-! ## `rejectReg` -/

/-- The parts of the state that `rejectReg` leaves as they were. -/
@[simp] theorem rejectReg_rest (r : RegId) (status : Nat) (s : State) :
    (rejectReg r status s).tb = s.tb ∧ (rejectReg r status s).up = s.up ∧ (rejectReg r status s).free = s.free ∧
    (rejectReg r status s).act = s.act ∧ (rejectReg r status s).lanes = s.lanes ∧
    (rejectReg r status s).gens = s.gens ∧ (rejectReg r status s).time = s.time ∧
    (rejectReg r status s).links = s.links ∧ (rejectReg r status s).crew = s.crew ∧
    (rejectReg r status s).beam = s.beam ∧ (rejectReg r status s).loom = s.loom ∧
    (rejectReg r status s).sht = s.sht ∧ (rejectReg r status s).drf = s.drf ∧ (rejectReg r status s).ck = s.ck ∧
    (rejectReg r status s).mon = s.mon ∧ (rejectReg r status s).bias = s.bias ∧ (rejectReg r status s).pwr = s.pwr ∧
    (rejectReg r status s).thm = s.thm ∧ (rejectReg r status s).sec = s.sec ∧
    (rejectReg r status s).fuses = s.fuses ∧ (rejectReg r status s).anc = s.anc ∧
    (rejectReg r status s).split = s.split ∧ (rejectReg r status s).bist = s.bist ∧
    (rejectReg r status s).tstAt = s.tstAt ∧ (rejectReg r status s).t0 = s.t0 ∧
    (rejectReg r status s).dark = s.dark ∧ (rejectReg r status s).pending = s.pending ∧
    (rejectReg r status s).host.qps = s.host.qps ∧ (rejectReg r status s).host.bme = s.host.bme ∧
    (rejectReg r status s).host.vfs = s.host.vfs ∧ (rejectReg r status s).host.held = s.host.held ∧
    (rejectReg r status s).host.loHeld = s.host.loHeld ∧ (rejectReg r status s).host.hiLatch = s.host.hiLatch ∧
    (rejectReg r status s).host.capt = s.host.capt ∧ (rejectReg r status s).host.lastNote = s.host.lastNote := by
  simp [rejectReg]
@[simp] theorem rejectReg_reg (r : RegId) (status : Nat) (s : State) (k : Blk) (i o : Nat) (h0 : k ≠ .sys) (h1 : k ≠ .win) (h2 : k ≠ .nq) (h3 : k ≠ .msix) :
    (rejectReg r status s).reg ⟨k, i, o⟩ = s.reg ⟨k, i, o⟩ := by
  simp [rejectReg, h0, h1, h2, h3]
@[simp] theorem rejectReg_fld (r : RegId) (status : Nat) (s : State) (k : Blk) (i o hi lo : Nat) (h0 : k ≠ .sys) (h1 : k ≠ .win) (h2 : k ≠ .nq) (h3 : k ≠ .msix) :
    (rejectReg r status s).fld ⟨⟨k, i, o⟩, hi, lo⟩ = s.fld ⟨⟨k, i, o⟩, hi, lo⟩ := by
  simp only [State.fld]; rw [rejectReg_reg] <;> assumption

end Sys2Proof.Machine
end

