-- ==== Sys2Proof/Laws/Host.lean ====
section
/-! SUPPORT. Host accesses, the beginning of a command and its completion: the lemmas that claims about commands cite. -/

set_option Elab.async false

namespace Sys2Proof.Machine

/-- An access that meets an awake device wakes nothing. -/
theorem arouse_awake (s : State) (h : s.awake) : arouse s = s := by
  simp only [State.awake, Bool.and_eq_true, Bool.not_eq_true', decide_eq_true_eq] at h
  have hw : wake 1 s = s := by
    have : ¬ 2 ≤ s.pState := by omega
    simp [wake, State.entering, h.2, this]
  have h2 : s.pState < 2 := h.1.2
  simp only [arouse, hw, List.range_succ, List.range_zero, List.nil_append, List.cons_append, List.foldl_cons, List.foldl_nil, h2, if_true]

/-- In P0 and P1 an access acts at once (R443). -/
theorem hostAccess_awake (f : State → State) (s : State) (h : s.awake) : hostAccess f s = f s := by
  have hd : s.dark = false := by
    simp only [State.awake, Bool.and_eq_true, Bool.not_eq_true'] at h; exact h.1.1
  simp [hostAccess, hd, arouse_awake s h]

/-- A device held in reset answers no access (R470, R495). -/
theorem hostAccess_dark (f : State → State) (s : State) (h : s.dark = true) : hostAccess f s = s := by simp [hostAccess, h]

theorem State.takes_iff (s : State) (i : Instr) : s.takes i = true ↔
    s.dark = false ∧ s.ready = true ∧ s.begins i = true ∧ ∃ c ∈ cmdOf i, c.1.qp < 256 ∧ s.bme (s.ownerOf c.1.qp) = true := by
  cases e : cmdOf i <;> simp [State.takes, e, and_assoc]

theorem State.takesPf_iff (s : State) (i : Instr) :
    s.takesPf i = true ↔ s.takes i = true ∧ ∃ c ∈ cmdOf i, s.ownerOf c.1.qp = 0 := by
  cases e : cmdOf i <;> simp [State.takesPf, e]

/-- A command that begins takes effect where no check fails (R371). -/
theorem command_begins (h : Hdr) (i : Instr) (checks : List (Bool × Nat)) (f : State → State) (s : State) (hd : s.dark = false)
    (hb : s.begins i = true) (hc : firstFail checks = none) : command h i checks f s = f (s.begun h.qp) := by
  simp [command, hd, hb, hc]

/-- A command of which a check fails completes with that check's status and has no other effect (R371). -/
theorem command_fails (h : Hdr) (i : Instr) (checks : List (Bool × Nat)) (f : State → State) (s : State) (st : Nat) (hd : s.dark = false)
    (hb : s.begins i = true) (hc : firstFail checks = some st) (hs : st ≠ eBus) :
    command h i checks f s = complete h st [] (s.begun h.qp) := by
  simp [command, hd, hb, hc, hs]

/-- A command that does not begin changes nothing (R352, DESIGN CHOICE, log entry 3). -/
theorem command_waits (h : Hdr) (i : Instr) (checks : List (Bool × Nat)) (f : State → State) (s : State) (hb : s.begins i = false) :
    command h i checks f s = s := by
  simp [command, hb]

/-- What leaves the device is added to what has left it. -/
@[simp] theorem State.out_emit (s : State) (o : Out) : (s.emit o).host.out = o :: s.host.out := rfl

theorem out_sendMsix (fn vec : Nat) (s : State) (o : Out) (h : o ∈ s.host.out) : o ∈ (sendMsix fn vec s).host.out := by
  simp only [sendMsix]; split_ifs <;> simp [h]

theorem out_cqRecorded (q : Nat) (b : Bool) (s : State) (o : Out) (h : o ∈ s.host.out) :
    o ∈ (cqRecorded q b s).host.out := by
  simp only [cqRecorded]
  by_cases c : irqDue (s.reg (rQp_IRQ q)) ((s.qp q).irqPend + 1) b = true
  · rw [if_pos c]; exact out_sendMsix _ _ _ _ (by simpa using h)
  · rw [if_neg c]; simpa using h

theorem out_emitData (l : List (Nat × List Byte)) (s : State) (o : Out)
    (h : o ∈ s.host.out ∨ ∃ d ∈ l, o = .hostWrite d.1 d.2) : o ∈ (emitData l s).host.out := by
  induction l generalizing s with
  | nil => simpa [emitData] using h
  | cons a l ih =>
    refine ih (s.emit (.hostWrite a.1 a.2)) ?_
    rcases h with h | ⟨d, hd, rfl⟩
    · left; simp [h]
    · rcases List.mem_cons.1 hd with rfl | hd
      · left; simp
      · right; exact ⟨d, hd, rfl⟩

/-- A queue pair's registers that `untake` leaves as they were. -/
@[simp] theorem untake_cq (h : Hdr) (s : State) (q i hi lo : Nat) (hi' : i ≠ 4) :
    (untake h s).fld ⟨⟨.qp, q, i⟩, hi, lo⟩ = s.fld ⟨⟨.qp, q, i⟩, hi, lo⟩ := by
  simp only [untake]; split_ifs <;> simp [hi']
@[simp] theorem untake_qpReg (h : Hdr) (s : State) (q i : Nat) (hi' : i ≠ 4) :
    (untake h s).reg ⟨.qp, q, i⟩ = s.reg ⟨.qp, q, i⟩ := by
  simp only [untake]; split_ifs <;> simp [hi']
@[simp] theorem untake_head (h : Hdr) (s : State) (q : Nat) :
    (untake h s).fld (fQp_STAT_SQ_HEAD q) = s.fld (fQp_STAT_SQ_HEAD q) := by
  simp only [untake]
  by_cases e : q = h.qp
  · subst e; split_ifs <;> simp
  · split_ifs <;> simp [e]

/-- A completion leaves the device (R351, R353, R354): its data, and its record unless SUPPRESS spares it. -/
theorem postCompl_completed (c : Compl) (s : State) (hq : c.hdr.qp < 256) (hb : s.bme (s.ownerOf c.hdr.qp) = true) :
    completed c s (postCompl c s) := by
  have e : postCompl c s = writeCompl c s := by
    simp only [postCompl]; rw [if_neg (by simpa using hq), if_pos hb]
  rw [e]
  have key : ∀ o, o ∈ (emitData c.data s).host.out → o ∈ (writeCompl c s).host.out := by
    intro o ho
    simp only [writeCompl]; split_ifs
    · simpa using ho
    · exact out_cqRecorded _ _ _ _ (by simp [ho])
    · exact out_cqRecorded _ _ _ _ (by simp [ho])
  refine ⟨fun d hd => key _ (out_emitData _ _ _ (Or.inr ⟨d, hd, rfl⟩)), ?_⟩
  by_cases hs : c.hdr.suppress = true ∧ c.status = 0
  · exact Or.inl hs
  · right
    simp only [writeCompl]
    rw [if_neg (by simpa using hs)]
    refine out_cqRecorded _ _ _ _ ?_
    split_ifs <;> simp [recordOf, State.pair]

theorem complete_completed (h : Hdr) (st : Nat) (res : List Byte) (s : State) (hq : h.qp < 256)
    (hb : s.bme (s.ownerOf h.qp) = true) : completed (answer h st res) s (complete h st res s) :=
  postCompl_completed _ s hq hb

/-- A completion of an effect is a completion from before it, where the effect leaves the queue pair's registers. -/
theorem completed_congr {c : Compl} {s s' t : State} (h : completed c s' t) (hr : ∀ i, s'.reg ⟨.qp, c.hdr.qp, i⟩ = s.reg ⟨.qp, c.hdr.qp, i⟩) :
    completed c s t := by
  simpa [completed, recordOf, State.pair, State.fld, hr] using h

end Sys2Proof.Machine
end

