-- ==== Sys2Proof/Laws/KeepBase.lean ====
section
/-! SUPPORT. What no operation touches: the queue of commands, the one-way order of the fuses and the canonical form of the
beam memory (`Keep`), for the operations of registers, events, completions, the anchor store, counters and beam memory. -/

set_option Elab.async false

namespace Sys2Proof.Machine

/-- From `s` to `t` the queue of commands is unchanged, fuses have moved one way only, and a beam memory in canonical form
has stayed in it. -/
structure Keep (s t : State) : Prop where
  pending : t.pending = s.pending
  fuses : s.fuses.le t.fuses
  mem : memWf s.beam.mem = true → memWf t.beam.mem = true

theorem Fuses.le_refl (a : Fuses) : a.le a := ⟨Nat.le_refl _, fun _ _ h => h, fun _ h => ⟨h, rfl⟩, rfl, rfl, rfl, rfl⟩

theorem Keep.refl (s : State) : Keep s s := ⟨rfl, Fuses.le_refl _, id⟩

theorem Keep.trans {s t u : State} (h : Keep s t) (k : Keep t u) : Keep s u :=
  ⟨k.pending.trans h.pending,
   ⟨Nat.le_trans h.fuses.counter k.fuses.counter, fun i b e => k.fuses.blown i b (h.fuses.blown i b e),
    fun i e => have x := h.fuses.inUse i e; have y := k.fuses.inUse i x.1; ⟨y.1, y.2.trans x.2⟩,
    k.fuses.life.trans h.fuses.life, k.fuses.hostBoot.trans h.fuses.hostBoot, k.fuses.jtag.trans h.fuses.jtag,
    k.fuses.wrapped.trans h.fuses.wrapped⟩,
   fun e => k.mem (h.mem e)⟩

/-- A record update that leaves queue, fuses and beam memory alone keeps. -/
theorem Keep.upd {s a : State} {tb up free regs act host lanes gens time links crew beam loom sht drf ck mon bias pwr thm sec anc split bist tstAt t0 dark}
    (h : Keep s a) (hm : BeamSt.mem beam = a.beam.mem) :
    Keep s (State.mk tb up free regs act host lanes gens time links crew beam loom sht drf ck mon bias pwr thm sec a.fuses anc split bist tstAt t0 dark
      a.pending) :=
  h.trans ⟨rfl, Fuses.le_refl _, fun e => by simpa [hm] using e⟩

theorem Keep.foldl {α : Type} {f : State → α → State} {s a : State} {l : List α} (h : ∀ a x, Keep s a → Keep s (f a x)) (k : Keep s a) :
    Keep s (l.foldl f a) := by
  induction l generalizing a with
  | nil => exact k
  | cons x l ih => exact ih (h a x k)

/-- Writes keep the canonical form of the memory. -/
theorem memAbove_memPut {m : List Host.Cell} {l a : Nat} {b : Byte} (h : memAbove l m = true) (k : l < a) : memAbove l (memPut m a b) = true := by
  induction m generalizing l with
  | nil => simp [memPut, memAbove, k]
  | cons e m ih =>
    obtain ⟨a', b'⟩ := e
    simp only [memAbove, Bool.and_eq_true, decide_eq_true_eq] at h
    simp only [memPut]
    split
    · subst_vars; simp [memAbove, h]
    · split
      · simp [memAbove, *]
      · simp only [memAbove, Bool.and_eq_true, decide_eq_true_eq]
        exact ⟨h.1, ih h.2 (by omega)⟩

theorem memWf_memPut {m : List Host.Cell} {a : Nat} {b : Byte} (h : memWf m = true) : memWf (memPut m a b) = true := by
  cases m with
  | nil => rfl
  | cons e m =>
    obtain ⟨a', b'⟩ := e
    simp only [memWf] at h
    simp only [memPut]
    split
    · subst_vars; exact h
    · split
      · simp [memWf, memAbove, *]
      · simp only [memWf]; exact memAbove_memPut h (by omega)

theorem memWf_reset : memWf State.reset.beam.mem = true := rfl

theorem memWf_memWrite {m : List Host.Cell} {a : Nat} {l : List Byte} (h : memWf m = true) : memWf (memWrite m a l) = true := by
  induction l generalizing m a with
  | nil => exact h
  | cons b l ih => exact ih (memWf_memPut h)

theorem keep_setReg {r s : State} (x1) (x2) (h : Keep r s) : Keep r (@State.setReg s x1 x2) := by
  simp only [State.setReg]
  repeat' with_reducible (first | exact h | exact Keep.refl _ | (apply Keep.foldl; intro _ _ h) | fail_if_no_progress apply Keep.upd (hm := rfl) | split | fail_if_no_progress dsimp only)

theorem keep_setFld {r s : State} (x1) (x2) (h : Keep r s) : Keep r (@State.setFld s x1 x2) := by
  simp only [State.setFld]
  repeat' with_reducible (first | exact h | exact Keep.refl _ | apply keep_setReg | (apply Keep.foldl; intro _ _ h) | fail_if_no_progress apply Keep.upd (hm := rfl) | split | fail_if_no_progress dsimp only)

theorem keep_setSFld {r s : State} (x1) (x2) (h : Keep r s) : Keep r (@State.setSFld s x1 x2) := by
  simp only [State.setSFld]
  repeat' with_reducible (first | exact h | exact Keep.refl _ | apply keep_setFld | (apply Keep.foldl; intro _ _ h) | fail_if_no_progress apply Keep.upd (hm := rfl) | split | fail_if_no_progress dsimp only)

theorem keep_addSat {r s : State} (x1) (x2) (h : Keep r s) : Keep r (@State.addSat s x1 x2) := by
  simp only [State.addSat]
  repeat' with_reducible (first | exact h | exact Keep.refl _ | apply keep_setFld | (apply Keep.foldl; intro _ _ h) | fail_if_no_progress apply Keep.upd (hm := rfl) | split | fail_if_no_progress dsimp only)

theorem keep_incWrap {r s : State} (x1) (h : Keep r s) : Keep r (@State.incWrap s x1) := by
  simp only [State.incWrap]
  repeat' with_reducible (first | exact h | exact Keep.refl _ | apply keep_setFld | (apply Keep.foldl; intro _ _ h) | fail_if_no_progress apply Keep.upd (hm := rfl) | split | fail_if_no_progress dsimp only)

theorem keep_setPair {r s : State} (x1) (x2) (x3) (h : Keep r s) : Keep r (@State.setPair s x1 x2 x3) := by
  simp only [State.setPair]
  repeat' with_reducible (first | exact h | exact Keep.refl _ | apply keep_setReg | (apply Keep.foldl; intro _ _ h) | fail_if_no_progress apply Keep.upd (hm := rfl) | split | fail_if_no_progress dsimp only)

theorem keep_resultReady {r s : State} (x1) (h : Keep r s) : Keep r (@State.resultReady s x1) := by
  simp only [State.resultReady]
  repeat' with_reducible (first | exact h | exact Keep.refl _ | apply keep_setReg | (apply Keep.foldl; intro _ _ h) | fail_if_no_progress apply Keep.upd (hm := rfl) | split | fail_if_no_progress dsimp only)

theorem keep_resultPending {r s : State} (x1) (h : Keep r s) : Keep r (@State.resultPending s x1) := by
  simp only [State.resultPending]
  repeat' with_reducible (first | exact h | exact Keep.refl _ | apply keep_setReg | (apply Keep.foldl; intro _ _ h) | fail_if_no_progress apply Keep.upd (hm := rfl) | split | fail_if_no_progress dsimp only)

theorem keep_clearRegs {r s : State} (x1) (h : Keep r s) : Keep r (@State.clearRegs s x1) := by
  simp only [State.clearRegs]
  repeat' with_reducible (first | exact h | exact Keep.refl _ | (apply Keep.foldl; intro _ _ h) | fail_if_no_progress apply Keep.upd (hm := rfl) | split | fail_if_no_progress dsimp only)

theorem keep_resetRegs {r s : State} (x1) (h : Keep r s) : Keep r (@State.resetRegs s x1) := by
  simp only [State.resetRegs]
  repeat' with_reducible (first | exact h | exact Keep.refl _ | (apply Keep.foldl; intro _ _ h) | fail_if_no_progress apply Keep.upd (hm := rfl) | split | fail_if_no_progress dsimp only)

theorem keep_resetAct {r s : State} (x1) (h : Keep r s) : Keep r (@State.resetAct s x1) := by
  simp only [State.resetAct]
  repeat' with_reducible (first | exact h | exact Keep.refl _ | (apply Keep.foldl; intro _ _ h) | fail_if_no_progress apply Keep.upd (hm := rfl) | split | fail_if_no_progress dsimp only)

theorem keep_setLane {r s : State} (x1) (x2) (h : Keep r s) : Keep r (@State.setLane s x1 x2) := by
  simp only [State.setLane]
  repeat' with_reducible (first | exact h | exact Keep.refl _ | (apply Keep.foldl; intro _ _ h) | fail_if_no_progress apply Keep.upd (hm := rfl) | split | fail_if_no_progress dsimp only)

theorem keep_modLane {r s : State} (x1) (x2) (h : Keep r s) : Keep r (@State.modLane s x1 x2) := by
  simp only [State.modLane]
  repeat' with_reducible (first | exact h | exact Keep.refl _ | apply keep_setLane | (apply Keep.foldl; intro _ _ h) | fail_if_no_progress apply Keep.upd (hm := rfl) | split | fail_if_no_progress dsimp only)

theorem keep_setQp {r s : State} (x1) (x2) (h : Keep r s) : Keep r (@State.setQp s x1 x2) := by
  simp only [State.setQp]
  repeat' with_reducible (first | exact h | exact Keep.refl _ | (apply Keep.foldl; intro _ _ h) | fail_if_no_progress apply Keep.upd (hm := rfl) | split | fail_if_no_progress dsimp only)

theorem keep_modQp {r s : State} (x1) (x2) (h : Keep r s) : Keep r (@State.modQp s x1 x2) := by
  simp only [State.modQp]
  repeat' with_reducible (first | exact h | exact Keep.refl _ | apply keep_setQp | (apply Keep.foldl; intro _ _ h) | fail_if_no_progress apply Keep.upd (hm := rfl) | split | fail_if_no_progress dsimp only)

theorem keep_setRing {r s : State} (x1) (x2) (h : Keep r s) : Keep r (@State.setRing s x1 x2) := by
  simp only [State.setRing]
  repeat' with_reducible (first | exact h | exact Keep.refl _ | (apply Keep.foldl; intro _ _ h) | fail_if_no_progress apply Keep.upd (hm := rfl) | split | fail_if_no_progress dsimp only)

theorem keep_emit {r s : State} (x1) (h : Keep r s) : Keep r (@State.emit s x1) := by
  simp only [State.emit]
  repeat' with_reducible (first | exact h | exact Keep.refl _ | (apply Keep.foldl; intro _ _ h) | fail_if_no_progress apply Keep.upd (hm := rfl) | split | fail_if_no_progress dsimp only)

theorem keep_tick {r s : State} (h : Keep r s) : Keep r (@State.tick s) := by
  simp only [State.tick]
  repeat' with_reducible (first | exact h | exact Keep.refl _ | (apply Keep.foldl; intro _ _ h) | fail_if_no_progress apply Keep.upd (hm := rfl) | split | fail_if_no_progress dsimp only)

theorem keep_atStroke {r s : State} (x1) (h : Keep r s) : Keep r (@State.atStroke s x1) := by
  simp only [State.atStroke]
  repeat' with_reducible (first | exact h | exact Keep.refl _ | (apply Keep.foldl; intro _ _ h) | fail_if_no_progress apply Keep.upd (hm := rfl) | split | fail_if_no_progress dsimp only)

theorem keep_toPcs (x1) (x2) (x3) {r s : State} (h : Keep r s) : Keep r (@toPcs x1 x2 x3 s) := by
  simp only [toPcs]
  repeat' with_reducible (first | exact h | exact Keep.refl _ | apply keep_modLane | (apply Keep.foldl; intro _ _ h) | fail_if_no_progress apply Keep.upd (hm := rfl) | split | fail_if_no_progress dsimp only)

theorem keep_afterMarker (x1) (x2) {r s : State} (h : Keep r s) : Keep r (@afterMarker x1 x2 s) := by
  simp only [afterMarker]
  repeat' with_reducible (first | exact h | exact Keep.refl _ | apply keep_setFld | apply keep_modLane | (apply Keep.foldl; intro _ _ h) | fail_if_no_progress apply Keep.upd (hm := rfl) | split | fail_if_no_progress dsimp only)

theorem keep_agcFree (x1) (x2) {r s : State} (h : Keep r s) : Keep r (@agcFree x1 x2 s) := by
  simp only [agcFree]
  repeat' with_reducible (first | exact h | exact Keep.refl _ | apply keep_modLane | apply keep_setFld | (apply Keep.foldl; intro _ _ h) | fail_if_no_progress apply Keep.upd (hm := rfl) | split | fail_if_no_progress dsimp only)

theorem keep_ppsRise (x1) {r s : State} (h : Keep r s) : Keep r (@ppsRise x1 s) := by
  simp only [ppsRise]
  repeat' with_reducible (first | exact h | exact Keep.refl _ | apply keep_emit | (apply Keep.foldl; intro _ _ h) | fail_if_no_progress apply Keep.upd (hm := rfl) | split | fail_if_no_progress dsimp only)

theorem keep_endPulses {r s : State} (h : Keep r s) : Keep r (@endPulses s) := by
  simp only [endPulses]
  repeat' with_reducible (first | exact h | exact Keep.refl _ | apply keep_emit | (apply Keep.foldl; intro _ _ h) | fail_if_no_progress apply Keep.upd (hm := rfl) | split | fail_if_no_progress dsimp only)

theorem keep_sendMsix (x1) (x2) {r s : State} (h : Keep r s) : Keep r (@sendMsix x1 x2 s) := by
  simp only [sendMsix]
  repeat' with_reducible (first | exact h | exact Keep.refl _ | apply keep_emit | apply keep_setReg | (apply Keep.foldl; intro _ _ h) | fail_if_no_progress apply Keep.upd (hm := rfl) | split | fail_if_no_progress dsimp only)

theorem keep_cqRecorded (x1) (x2) {r s : State} (h : Keep r s) : Keep r (@cqRecorded x1 x2 s) := by
  simp only [cqRecorded]
  repeat' with_reducible (first | exact h | exact Keep.refl _ | apply keep_setQp | apply keep_sendMsix | (apply Keep.foldl; intro _ _ h) | fail_if_no_progress apply Keep.upd (hm := rfl) | split | fail_if_no_progress dsimp only)

theorem keep_nqRecorded (x1) {r s : State} (h : Keep r s) : Keep r (@nqRecorded x1 s) := by
  simp only [nqRecorded]
  repeat' with_reducible (first | exact h | exact Keep.refl _ | apply keep_setRing | apply keep_sendMsix | (apply Keep.foldl; intro _ _ h) | fail_if_no_progress apply Keep.upd (hm := rfl) | split | fail_if_no_progress dsimp only)

theorem keep_notice (x1) (x2) (x3) (x4) {r s : State} (h : Keep r s) : Keep r (@notice x1 x2 x3 x4 s) := by
  simp only [notice]
  repeat' with_reducible (first | exact h | exact Keep.refl _ | apply keep_nqRecorded | apply keep_setFld | apply keep_emit | apply keep_setRing | apply keep_addSat | (apply Keep.foldl; intro _ _ h) | fail_if_no_progress apply Keep.upd (hm := rfl) | split | fail_if_no_progress dsimp only)

theorem keep_eventNotice (x1) {r s : State} (h : Keep r s) : Keep r (@eventNotice x1 s) := by
  simp only [eventNotice]
  repeat' with_reducible (first | exact h | exact Keep.refl _ | apply keep_notice | (apply Keep.foldl; intro _ _ h) | fail_if_no_progress apply Keep.upd (hm := rfl) | split | fail_if_no_progress dsimp only)

theorem keep_raise_ (x1) {r s : State} (h : Keep r s) : Keep r (@raise_ x1 s) := by
  simp only [raise_]
  repeat' with_reducible (first | exact h | exact Keep.refl _ | apply keep_setFld | apply keep_eventNotice | (apply Keep.foldl; intro _ _ h) | fail_if_no_progress apply Keep.upd (hm := rfl) | split | fail_if_no_progress dsimp only)

theorem keep_judgeDegrade (x1) {r s : State} (h : Keep r s) : Keep r (@judgeDegrade x1 s) := by
  simp only [judgeDegrade]
  repeat' with_reducible (first | exact h | exact Keep.refl _ | apply keep_setFld | apply keep_raise_ | apply keep_setLane | (apply Keep.foldl; intro _ _ h) | fail_if_no_progress apply Keep.upd (hm := rfl) | split | fail_if_no_progress dsimp only)

theorem keep_degCount (x1) (x2) {r s : State} (h : Keep r s) : Keep r (@degCount x1 x2 s) := by
  simp only [degCount]
  repeat' with_reducible (first | exact h | exact Keep.refl _ | apply keep_modLane | apply keep_judgeDegrade | (apply Keep.foldl; intro _ _ h) | fail_if_no_progress apply Keep.upd (hm := rfl) | split | fail_if_no_progress dsimp only)

theorem keep_noteRaised {r s : State} (x1) (h : Keep r s) : Keep r (@State.noteRaised s x1) := by
  simp only [State.noteRaised]
  repeat' with_reducible (first | exact h | exact Keep.refl _ | (apply Keep.foldl; intro _ _ h) | fail_if_no_progress apply Keep.upd (hm := rfl) | split | fail_if_no_progress dsimp only)

theorem keep_raiseSlow (x1) {r s : State} (h : Keep r s) : Keep r (@raiseSlow x1 s) := by
  simp only [raiseSlow]
  repeat' with_reducible (first | exact h | exact Keep.refl _ | apply keep_noteRaised | apply keep_eventNotice | apply keep_setFld | (apply Keep.foldl; intro _ _ h) | fail_if_no_progress apply Keep.upd (hm := rfl) | split | fail_if_no_progress dsimp only)

theorem keep_logReject (x1) (x2) (x3) (x4) (x5) {r s : State} (h : Keep r s) : Keep r (@logReject x1 x2 x3 x4 x5 s) := by
  simp only [logReject]
  repeat' with_reducible (first | exact h | exact Keep.refl _ | apply keep_setReg | apply keep_setFld | apply keep_addSat | (apply Keep.foldl; intro _ _ h) | fail_if_no_progress apply Keep.upd (hm := rfl) | split | fail_if_no_progress dsimp only)

theorem keep_rejectWrite (x1) (x2) (x3) (x4) {r s : State} (h : Keep r s) : Keep r (@rejectWrite x1 x2 x3 x4 s) := by
  simp only [rejectWrite]
  repeat' with_reducible (first | exact h | exact Keep.refl _ | apply keep_notice | apply keep_logReject | (apply Keep.foldl; intro _ _ h) | fail_if_no_progress apply Keep.upd (hm := rfl) | split | fail_if_no_progress dsimp only)

theorem keep_rejectReg (x1) (x2) {r s : State} (h : Keep r s) : Keep r (@rejectReg x1 x2 s) := by
  simp only [rejectReg]
  repeat' with_reducible (first | exact h | exact Keep.refl _ | apply keep_rejectWrite | (apply Keep.foldl; intro _ _ h) | fail_if_no_progress apply Keep.upd (hm := rfl) | split | fail_if_no_progress dsimp only)

theorem keep_modPwr {r s : State} (x1) (h : Keep r s) : Keep r (@State.modPwr s x1) := by
  simp only [State.modPwr]
  repeat' with_reducible (first | exact h | exact Keep.refl _ | (apply Keep.foldl; intro _ _ h) | fail_if_no_progress apply Keep.upd (hm := rfl) | split | fail_if_no_progress dsimp only)

theorem keep_startTransition (x1) {r s : State} (h : Keep r s) : Keep r (@startTransition x1 s) := by
  simp only [startTransition]
  repeat' with_reducible (first | exact h | exact Keep.refl _ | apply keep_emit | apply keep_modPwr | apply keep_setFld | (apply Keep.foldl; intro _ _ h) | fail_if_no_progress apply Keep.upd (hm := rfl) | split | fail_if_no_progress dsimp only)

theorem keep_noteWake (x1) {r s : State} (h : Keep r s) : Keep r (@noteWake x1 s) := by
  simp only [noteWake]
  repeat' with_reducible (first | exact h | exact Keep.refl _ | apply keep_modPwr | (apply Keep.foldl; intro _ _ h) | fail_if_no_progress apply Keep.upd (hm := rfl) | split | fail_if_no_progress dsimp only)

theorem keep_wake (x1) {r s : State} (h : Keep r s) : Keep r (@wake x1 s) := by
  simp only [wake]
  repeat' with_reducible (first | exact h | exact Keep.refl _ | apply keep_startTransition | apply keep_setFld | apply keep_noteWake | (apply Keep.foldl; intro _ _ h) | fail_if_no_progress apply Keep.upd (hm := rfl) | split | fail_if_no_progress dsimp only)

theorem keep_recordExit (x1) (x2) {r s : State} (h : Keep r s) : Keep r (@recordExit x1 x2 s) := by
  simp only [recordExit]
  repeat' with_reducible (first | exact h | exact Keep.refl _ | apply keep_addSat | apply keep_raise_ | apply keep_modPwr | apply keep_setFld | (apply Keep.foldl; intro _ _ h) | fail_if_no_progress apply Keep.upd (hm := rfl) | split | fail_if_no_progress dsimp only)

theorem keep_setServo {r s : State} (x1) (h : Keep r s) : Keep r (@State.setServo s x1) := by
  simp only [State.setServo]
  repeat' with_reducible (first | exact h | exact Keep.refl _ | apply keep_setFld | (apply Keep.foldl; intro _ _ h) | fail_if_no_progress apply Keep.upd (hm := rfl) | split | fail_if_no_progress dsimp only)

theorem keep_noteLocked {r s : State} (h : Keep r s) : Keep r (@noteLocked s) := by
  simp only [noteLocked]
  repeat' with_reducible (first | exact h | exact Keep.refl _ | (apply Keep.foldl; intro _ _ h) | fail_if_no_progress apply Keep.upd (hm := rfl) | split | fail_if_no_progress dsimp only)

theorem keep_toHoldover {r s : State} (h : Keep r s) : Keep r (@toHoldover s) := by
  simp only [toHoldover]
  repeat' with_reducible (first | exact h | exact Keep.refl _ | apply keep_setSFld | apply keep_setServo | apply keep_noteLocked | (apply Keep.foldl; intro _ _ h) | fail_if_no_progress apply Keep.upd (hm := rfl) | split | fail_if_no_progress dsimp only)

theorem keep_resumeTimebase (x1) {r s : State} (h : Keep r s) : Keep r (@resumeTimebase x1 s) := by
  simp only [resumeTimebase]
  repeat' with_reducible (first | exact h | exact Keep.refl _ | apply keep_toHoldover | apply keep_tick | apply keep_raise_ | (apply Keep.foldl; intro _ _ h) | fail_if_no_progress apply Keep.upd (hm := rfl) | split | fail_if_no_progress dsimp only)

theorem keep_leaveHold {r s : State} (h : Keep r s) : Keep r (@leaveHold s) := by
  simp only [leaveHold]
  repeat' with_reducible (first | exact h | exact Keep.refl _ | apply keep_setFld | (apply Keep.foldl; intro _ _ h) | fail_if_no_progress apply Keep.upd (hm := rfl) | split | fail_if_no_progress dsimp only)

theorem keep_gateShuttles {r s : State} (h : Keep r s) : Keep r (@gateShuttles s) := by
  simp only [gateShuttles]
  repeat' with_reducible (first | exact h | exact Keep.refl _ | (apply Keep.foldl; intro _ _ h) | fail_if_no_progress apply Keep.upd (hm := rfl) | split | fail_if_no_progress dsimp only)

theorem keep_sendLtr {r s : State} (h : Keep r s) : Keep r (@sendLtr s) := by
  simp only [sendLtr]
  repeat' with_reducible (first | exact h | exact Keep.refl _ | apply keep_emit | (apply Keep.foldl; intro _ _ h) | fail_if_no_progress apply Keep.upd (hm := rfl) | split | fail_if_no_progress dsimp only)

theorem keep_endTransition (x1) {e : State → State} {r s : State} (he : ∀ a, Keep r a → Keep r (e a)) (h : Keep r s) : Keep r (@endTransition e x1 s) := by
  simp only [endTransition]
  repeat' with_reducible (first | exact h | exact Keep.refl _ | exact he | refine he _ ?_ | apply keep_recordExit | apply keep_raise_ | apply keep_resumeTimebase | apply keep_leaveHold | apply keep_gateShuttles | apply keep_sendLtr | apply keep_modPwr | apply keep_setFld | (apply Keep.foldl; intro _ _ h) | fail_if_no_progress apply Keep.upd (hm := rfl) | split | fail_if_no_progress dsimp only)

theorem keep_transitionEnded {e : State → State} {r s : State} (he : ∀ a, Keep r a → Keep r (e a)) (h : Keep r s) : Keep r (@transitionEnded e s) := by
  simp only [transitionEnded]
  repeat' with_reducible (first | exact h | exact Keep.refl _ | exact he | refine he _ ?_ | (intro _ k; simp only [id]; exact k) | apply keep_startTransition | apply keep_setFld | apply keep_endTransition | (apply Keep.foldl; intro _ _ h) | fail_if_no_progress apply Keep.upd (hm := rfl) | split | fail_if_no_progress dsimp only)

theorem keep_arouse {r s : State} (h : Keep r s) : Keep r (@arouse s) := by
  simp only [arouse]
  repeat' with_reducible (first | exact h | exact Keep.refl _ | (intro _ k; simp only [id]; exact k) | apply keep_wake | apply keep_transitionEnded | (apply Keep.foldl; intro _ _ h) | fail_if_no_progress apply Keep.upd (hm := rfl) | split | fail_if_no_progress dsimp only)

theorem keep_hostAccess {e : State → State} {r s : State} (he : ∀ a, Keep r a → Keep r (e a)) (h : Keep r s) : Keep r (hostAccess e s) := by
  simp only [hostAccess]
  split
  · exact h
  · exact he _ (keep_arouse h)

theorem keep_dropLo {r s : State} (x1) (x2) (h : Keep r s) : Keep r (@State.dropLo s x1 x2) := by
  simp only [State.dropLo]
  repeat' with_reducible (first | exact h | exact Keep.refl _ | (apply Keep.foldl; intro _ _ h) | fail_if_no_progress apply Keep.upd (hm := rfl) | split | fail_if_no_progress dsimp only)

theorem keep_holdLo {r s : State} (x1) (x2) (x3) (h : Keep r s) : Keep r (@State.holdLo s x1 x2 x3) := by
  simp only [State.holdLo]
  repeat' with_reducible (first | exact h | exact Keep.refl _ | (apply Keep.foldl; intro _ _ h) | fail_if_no_progress apply Keep.upd (hm := rfl) | split | fail_if_no_progress dsimp only)

theorem keep_showPhase {r s : State} (h : Keep r s) : Keep r (@showPhase s) := by
  simp only [showPhase]
  repeat' with_reducible (first | exact h | exact Keep.refl _ | apply keep_setFld | (apply Keep.foldl; intro _ _ h) | fail_if_no_progress apply Keep.upd (hm := rfl) | split | fail_if_no_progress dsimp only)

theorem keep_begun (x1) {r s : State} (h : Keep r s) : Keep r (@State.begun s x1) := by
  simp only [State.begun]
  repeat' with_reducible (first | exact h | exact Keep.refl _ | apply keep_modQp | (apply Keep.foldl; intro _ _ h) | fail_if_no_progress apply Keep.upd (hm := rfl) | split | fail_if_no_progress dsimp only)

theorem keep_untake (x1) {r s : State} (h : Keep r s) : Keep r (@untake x1 s) := by
  simp only [untake]
  repeat' with_reducible (first | exact h | exact Keep.refl _ | apply keep_setFld | apply keep_setQp | apply keep_begun | (apply Keep.foldl; intro _ _ h) | fail_if_no_progress apply Keep.upd (hm := rfl) | split | fail_if_no_progress dsimp only)

theorem keep_emitData (x1) {r s : State} (h : Keep r s) : Keep r (@emitData x1 s) := by
  simp only [emitData]
  repeat' with_reducible (first | exact h | exact Keep.refl _ | apply keep_emit | (apply Keep.foldl; intro _ _ h) | fail_if_no_progress apply Keep.upd (hm := rfl) | split | fail_if_no_progress dsimp only)

theorem keep_writeCompl (x1) {r s : State} (h : Keep r s) : Keep r (@writeCompl x1 s) := by
  simp only [writeCompl]
  repeat' with_reducible (first | exact h | exact Keep.refl _ | apply keep_cqRecorded | apply keep_setFld | apply keep_emit | apply keep_emitData | apply keep_untake | (apply Keep.foldl; intro _ _ h) | fail_if_no_progress apply Keep.upd (hm := rfl) | split | fail_if_no_progress dsimp only)

theorem keep_postCompl (x1) {r s : State} (h : Keep r s) : Keep r (@postCompl x1 s) := by
  simp only [postCompl]
  repeat' with_reducible (first | exact h | exact Keep.refl _ | apply keep_writeCompl | (apply Keep.foldl; intro _ _ h) | fail_if_no_progress apply Keep.upd (hm := rfl) | split | fail_if_no_progress dsimp only)

theorem keep_complete (x1) (x2) (x3) {r s : State} (h : Keep r s) : Keep r (@complete x1 x2 x3 s) := by
  simp only [complete]
  repeat' with_reducible (first | exact h | exact Keep.refl _ | apply keep_postCompl | (apply Keep.foldl; intro _ _ h) | fail_if_no_progress apply Keep.upd (hm := rfl) | split | fail_if_no_progress dsimp only)

theorem keep_completeRec (x1) (x2) (x3) {r s : State} (h : Keep r s) : Keep r (@completeRec x1 x2 x3 s) := by
  simp only [completeRec]
  repeat' with_reducible (first | exact h | exact Keep.refl _ | apply keep_postCompl | (apply Keep.foldl; intro _ _ h) | fail_if_no_progress apply Keep.upd (hm := rfl) | split | fail_if_no_progress dsimp only)

theorem keep_modCfg (x1) {r s : State} (h : Keep r s) : Keep r (@State.modCfg s x1) := by
  simp only [State.modCfg]
  repeat' with_reducible (first | exact h | exact Keep.refl _ | (apply Keep.foldl; intro _ _ h) | fail_if_no_progress apply Keep.upd (hm := rfl) | split | fail_if_no_progress dsimp only)

theorem keep_readFailed {r s : State} (h : Keep r s) : Keep r (@readFailed s) := by
  simp only [readFailed]
  repeat' with_reducible (first | exact h | exact Keep.refl _ | apply keep_modCfg | apply keep_tick | (apply Keep.foldl; intro _ _ h) | fail_if_no_progress apply Keep.upd (hm := rfl) | split | fail_if_no_progress dsimp only)

theorem keep_command {x : Hdr} {i : Instr} {l : List (Bool × Nat)} {e : State → State} {r s : State} (he : ∀ a, Keep r a → Keep r (e a))
    (h : Keep r s) : Keep r (command x i l e s) := by
  simp only [command]
  split
  · exact h
  · split
    · refine keep_complete _ _ _ ?_
      split
      · exact keep_readFailed (keep_begun _ h)
      · exact keep_begun _ h
    · exact he _ (keep_begun _ h)

theorem keep_endWaiter (x1) (x2) {r s : State} (h : Keep r s) : Keep r (@endWaiter x1 x2 s) := by
  simp only [endWaiter]
  repeat' with_reducible (first | exact h | exact Keep.refl _ | apply keep_untake | apply keep_complete | (apply Keep.foldl; intro _ _ h) | fail_if_no_progress apply Keep.upd (hm := rfl) | split | fail_if_no_progress dsimp only)

theorem keep_abortQueued (x1) (x2) {r s : State} (h : Keep r s) : Keep r (@abortQueued x1 x2 s) := by
  simp only [abortQueued]
  repeat' with_reducible (first | exact h | exact Keep.refl _ | apply keep_untake | apply keep_postCompl | apply keep_begun | apply keep_setQp | (apply Keep.foldl; intro _ _ h) | fail_if_no_progress apply Keep.upd (hm := rfl) | split | fail_if_no_progress dsimp only)

theorem keep_ancWrite (x1) (x2) {r s : State} (h : Keep r s) : Keep r (@ancWrite x1 x2 s) := by
  simp only [ancWrite]
  repeat' with_reducible (first | exact h | exact Keep.refl _ | (apply Keep.foldl; intro _ _ h) | fail_if_no_progress apply Keep.upd (hm := rfl) | split | fail_if_no_progress dsimp only)

theorem keep_ancWriteAll (x1) (x2) {r s : State} (h : Keep r s) : Keep r (@ancWriteAll x1 x2 s) := by
  simp only [ancWriteAll]
  repeat' with_reducible (first | exact h | exact Keep.refl _ | apply keep_ancWrite | (apply Keep.foldl; intro _ _ h) | fail_if_no_progress apply Keep.upd (hm := rfl) | split | fail_if_no_progress dsimp only)

theorem keep_ancVote (x1) {r s : State} (h : Keep r s) : Keep r (@ancVote x1 s).2 := by
  simp only [ancVote]
  repeat' with_reducible (first | exact h | exact Keep.refl _ | apply keep_setFld | apply keep_addSat | apply keep_ancWrite | apply keep_raise_ | (apply Keep.foldl; intro _ _ h) | fail_if_no_progress apply Keep.upd (hm := rfl) | split | fail_if_no_progress dsimp only)

theorem keep_ancVote_e {x1} {r s t : State} {a0} (e : @ancVote x1 s = (a0, t)) (h : Keep r s) : Keep r t := by
  have := keep_ancVote x1 h
  rw [e] at this
  exact this

theorem keep_bump (x1) (x2) (x3) (x4) {r s : State} (h : Keep r s) : Keep r (@bump x1 x2 x3 x4 s) := by
  simp only [bump]
  repeat' with_reducible (first | exact h | exact Keep.refl _ | apply keep_setFld | (apply Keep.foldl; intro _ _ h) | fail_if_no_progress apply Keep.upd (hm := rfl) | split | fail_if_no_progress dsimp only)

theorem keep_count (x1) (x2) (x3) (x4) (x5) {r s : State} (h : Keep r s) : Keep r (@count x1 x2 x3 x4 x5 s) := by
  simp only [count]
  repeat' with_reducible (first | exact h | exact Keep.refl _ | apply keep_bump | (apply Keep.foldl; intro _ _ h) | fail_if_no_progress apply Keep.upd (hm := rfl) | split | fail_if_no_progress dsimp only)

theorem keep_countLn (x1) (x2) (x3) (x4) {r s : State} (h : Keep r s) : Keep r (@countLn x1 x2 x3 x4 s) := by
  simp only [countLn]
  repeat' with_reducible (first | exact h | exact Keep.refl _ | apply keep_count | (apply Keep.foldl; intro _ _ h) | fail_if_no_progress apply Keep.upd (hm := rfl) | split | fail_if_no_progress dsimp only)

theorem keep_countLoom (x1) (x2) (x3) (x4) (x5) (x6) (x7) {r s : State} (h : Keep r s) : Keep r (@countLoom x1 x2 x3 x4 x5 x6 x7 s) := by
  simp only [countLoom]
  repeat' with_reducible (first | exact h | exact Keep.refl _ | apply keep_count | (apply Keep.foldl; intro _ _ h) | fail_if_no_progress apply Keep.upd (hm := rfl) | split | fail_if_no_progress dsimp only)

theorem keep_modBeam {r s : State} {f : BeamSt → BeamSt} (h : ∀ b, memWf b.mem = true → memWf (f b).mem = true) (k : Keep r s) :
    Keep r (s.modBeam f) :=
  k.trans ⟨rfl, Fuses.le_refl _, h _⟩

theorem keep_logBeam (x1) (x2) (x3) {r s : State} (h : Keep r s) : Keep r (@logBeam x1 x2 x3 s) := by
  simp only [logBeam]
  repeat' with_reducible (first | exact h | exact Keep.refl _ | apply keep_tick | apply keep_setFld | refine keep_modBeam (fun _ e => e) ?_ | refine keep_modBeam (fun _ e => memWf_memWrite e) ?_ | apply keep_addSat | apply keep_raise_ | (apply Keep.foldl; intro _ _ h) | fail_if_no_progress apply Keep.upd (hm := rfl) | split | fail_if_no_progress dsimp only)

theorem keep_noteKind (x1) (x2) (x3) {r s : State} (h : Keep r s) : Keep r (@noteKind x1 x2 x3 s) := by
  simp only [noteKind]
  repeat' with_reducible (first | exact h | exact Keep.refl _ | apply keep_raiseSlow | apply keep_addSat | apply keep_logBeam | (apply Keep.foldl; intro _ _ h) | fail_if_no_progress apply Keep.upd (hm := rfl) | split | fail_if_no_progress dsimp only)

theorem keep_storeWord (x1) (x2) (x3) {r s : State} (h : Keep r s) : Keep r (@storeWord x1 x2 x3 s) := by
  simp only [storeWord]
  repeat' with_reducible (first | exact h | exact Keep.refl _ | refine keep_modBeam (fun _ e => e) ?_ | refine keep_modBeam (fun _ e => memWf_memWrite e) ?_ | (apply Keep.foldl; intro _ _ h) | fail_if_no_progress apply Keep.upd (hm := rfl) | split | fail_if_no_progress dsimp only)

theorem keep_mergeWord (x1) (x2) {r s : State} (h : Keep r s) : Keep r (@mergeWord x1 x2 s) := by
  simp only [mergeWord]
  repeat' with_reducible (first | exact h | exact Keep.refl _ | apply keep_count | apply keep_noteKind | apply keep_storeWord | (apply Keep.foldl; intro _ _ h) | fail_if_no_progress apply Keep.upd (hm := rfl) | split | fail_if_no_progress dsimp only)

theorem keep_flushEntry (x1) {r s : State} (h : Keep r s) : Keep r (@flushEntry x1 s) := by
  simp only [flushEntry]
  repeat' with_reducible (first | exact h | exact Keep.refl _ | apply keep_count | apply keep_mergeWord | refine keep_modBeam (fun _ e => e) ?_ | refine keep_modBeam (fun _ e => memWf_memWrite e) ?_ | (apply Keep.foldl; intro _ _ h) | fail_if_no_progress apply Keep.upd (hm := rfl) | split | fail_if_no_progress dsimp only)

theorem keep_flushLine (x1) {r s : State} (h : Keep r s) : Keep r (@flushLine x1 s) := by
  simp only [flushLine]
  repeat' with_reducible (first | exact h | exact Keep.refl _ | apply keep_flushEntry | (apply Keep.foldl; intro _ _ h) | fail_if_no_progress apply Keep.upd (hm := rfl) | split | fail_if_no_progress dsimp only)

theorem keep_flushPort (x1) {r s : State} (h : Keep r s) : Keep r (@flushPort x1 s) := by
  simp only [flushPort]
  repeat' with_reducible (first | exact h | exact Keep.refl _ | apply keep_flushEntry | (apply Keep.foldl; intro _ _ h) | fail_if_no_progress apply Keep.upd (hm := rfl) | split | fail_if_no_progress dsimp only)

theorem keep_endBeamReset (x1) {r s : State} (h : Keep r s) : Keep r (@endBeamReset x1 s) := by
  simp only [endBeamReset]
  repeat' with_reducible (first | exact h | exact Keep.refl _ | refine keep_modBeam (fun _ e => e) ?_ | refine keep_modBeam (fun _ e => memWf_memWrite e) ?_ | apply keep_setFld | (apply Keep.foldl; intro _ _ h) | fail_if_no_progress apply Keep.upd (hm := rfl) | split | fail_if_no_progress dsimp only)

theorem keep_readPiece (x1) (x2) (x3) {r s : State} (h : Keep r s) : Keep r (readPiece x1 x2 x3 s).after := by
  simp only [readPiece]
  repeat' with_reducible (first | exact h | exact Keep.refl _ | apply keep_count | refine keep_modBeam (fun _ e => e) ?_ | refine keep_modBeam (fun _ e => memWf_memWrite e) ?_ | apply keep_noteKind | apply keep_endBeamReset | apply keep_flushLine | (apply Keep.foldl; intro _ _ h) | fail_if_no_progress apply Keep.upd (hm := rfl) | split | fail_if_no_progress dsimp only)

theorem keep_beamRead (x1) (x2) (x3) {r s : State} (h : Keep r s) : Keep r (beamRead x1 x2 x3 s).after := by
  simp only [beamRead]
  have : ∀ (l : List (Nat × Nat)) (b : BeamRead), Keep r b.after → Keep r (l.foldl (fun r p =>
    let x := readPiece x1 p.1 p.2 r.after
    ⟨r.bytes ++ x.bytes, max r.worst x.worst, x.after⟩) b).after := by
    intro l
    induction l with
    | nil => exact fun b h => h
    | cons p l ih => exact fun b hb => ih _ (keep_readPiece _ _ _ hb)
  exact this _ _ h

theorem keep_mergeBytes (x1) (x2) {r s : State} (h : Keep r s) : Keep r (@mergeBytes x1 x2 s) := by
  simp only [mergeBytes]
  repeat' with_reducible (first | exact h | exact Keep.refl _ | apply keep_flushEntry | refine keep_modBeam (fun _ e => e) ?_ | refine keep_modBeam (fun _ e => memWf_memWrite e) ?_ | (apply Keep.foldl; intro _ _ h) | fail_if_no_progress apply Keep.upd (hm := rfl) | split | fail_if_no_progress dsimp only)

theorem keep_writePiece (x1) (x2) (x3) {r s : State} (h : Keep r s) : Keep r (@writePiece x1 x2 x3 s) := by
  simp only [writePiece]
  repeat' with_reducible (first | exact h | exact Keep.refl _ | apply keep_count | apply keep_storeWord | apply keep_mergeBytes | apply keep_flushLine | apply keep_endBeamReset | (apply Keep.foldl; intro _ _ h) | fail_if_no_progress apply Keep.upd (hm := rfl) | split | fail_if_no_progress dsimp only)

theorem keep_beamWrite (x1) (x2) (x3) {r s : State} (h : Keep r s) : Keep r (@beamWrite x1 x2 x3 s) := by
  simp only [beamWrite]
  repeat' with_reducible (first | exact h | exact Keep.refl _ | apply keep_writePiece | (apply Keep.foldl; intro _ _ h) | fail_if_no_progress apply Keep.upd (hm := rfl) | split | fail_if_no_progress dsimp only)

theorem keep_applyUpset (x1) (x2) {r s : State} (h : Keep r s) : Keep r (@applyUpset x1 x2 s) := by
  simp only [applyUpset]
  repeat' with_reducible (first | exact h | exact Keep.refl _ | refine keep_modBeam (fun _ e => e) ?_ | refine keep_modBeam (fun _ e => memWf_memWrite e) ?_ | apply keep_tick | (apply Keep.foldl; intro _ _ h) | fail_if_no_progress apply Keep.upd (hm := rfl) | split | fail_if_no_progress dsimp only)

theorem keep_stepLine (x1) (x2) (x3) {r s : State} (h : Keep r s) : Keep r (@stepLine x1 x2 x3 s) := by
  simp only [stepLine]
  repeat' with_reducible (first | exact h | exact Keep.refl _ | apply keep_flushLine | apply keep_applyUpset | apply keep_addSat | apply keep_storeWord | apply keep_noteKind | (apply Keep.foldl; intro _ _ h) | fail_if_no_progress apply Keep.upd (hm := rfl) | split | fail_if_no_progress dsimp only)

theorem keep_repairOne (x1) (x2) {r s : State} (h : Keep r s) : Keep r (@repairOne x1 x2 s) := by
  simp only [repairOne]
  repeat' with_reducible (first | exact h | exact Keep.refl _ | refine keep_modBeam (fun _ e => e) ?_ | refine keep_modBeam (fun _ e => memWf_memWrite e) ?_ | apply keep_stepLine | (apply Keep.foldl; intro _ _ h) | fail_if_no_progress apply Keep.upd (hm := rfl) | split | fail_if_no_progress dsimp only)

theorem keep_enterSelfRefresh (x1) {r s : State} (h : Keep r s) : Keep r (@enterSelfRefresh x1 s) := by
  simp only [enterSelfRefresh]
  repeat' with_reducible (first | exact h | exact Keep.refl _ | apply keep_setFld | apply keep_repairOne | apply keep_flushPort | (apply Keep.foldl; intro _ _ h) | fail_if_no_progress apply Keep.upd (hm := rfl) | split | fail_if_no_progress dsimp only)

theorem keep_writeBmCtl (x1) (x2) {r s : State} (h : Keep r s) : Keep r (@writeBmCtl x1 x2 s) := by
  simp only [writeBmCtl]
  repeat' with_reducible (first | exact h | exact Keep.refl _ | refine keep_modBeam (fun _ e => e) ?_ | refine keep_modBeam (fun _ e => memWf_memWrite e) ?_ | apply keep_setFld | apply keep_resetRegs | apply keep_enterSelfRefresh | apply keep_clearRegs | apply keep_rejectReg | (apply Keep.foldl; intro _ _ h) | fail_if_no_progress apply Keep.upd (hm := rfl) | split | fail_if_no_progress dsimp only)

theorem keep_writeScrubCtl (x1) (x2) {r s : State} (h : Keep r s) : Keep r (@writeScrubCtl x1 x2 s) := by
  simp only [writeScrubCtl]
  repeat' with_reducible (first | exact h | exact Keep.refl _ | refine keep_modBeam (fun _ e => e) ?_ | refine keep_modBeam (fun _ e => memWf_memWrite e) ?_ | apply keep_setFld | apply keep_rejectReg | (apply Keep.foldl; intro _ _ h) | fail_if_no_progress apply Keep.upd (hm := rfl) | split | fail_if_no_progress dsimp only)

theorem keep_writeLogPop (x1) {r s : State} (h : Keep r s) : Keep r (@writeLogPop x1 s) := by
  simp only [writeLogPop]
  repeat' with_reducible (first | exact h | exact Keep.refl _ | apply keep_setFld | refine keep_modBeam (fun _ e => e) ?_ | refine keep_modBeam (fun _ e => memWf_memWrite e) ?_ | apply keep_rejectReg | (apply Keep.foldl; intro _ _ h) | fail_if_no_progress apply Keep.upd (hm := rfl) | split | fail_if_no_progress dsimp only)

theorem keep_setBolt {r s : State} (x1) (x2) (h : Keep r s) : Keep r (@State.setBolt s x1 x2) := by
  simp only [State.setBolt]
  repeat' with_reducible (first | exact h | exact Keep.refl _ | refine keep_modBeam (fun _ e => e) ?_ | refine keep_modBeam (fun _ e => memWf_memWrite e) ?_ | (apply Keep.foldl; intro _ _ h) | fail_if_no_progress apply Keep.upd (hm := rfl) | split | fail_if_no_progress dsimp only)

theorem keep_modBolt {r s : State} (x1) (x2) (h : Keep r s) : Keep r (@State.modBolt s x1 x2) := by
  simp only [State.modBolt]
  repeat' with_reducible (first | exact h | exact Keep.refl _ | apply keep_setBolt | (apply Keep.foldl; intro _ _ h) | fail_if_no_progress apply Keep.upd (hm := rfl) | split | fail_if_no_progress dsimp only)

end Sys2Proof.Machine
end

