-- ==== Sys2Proof/Laws/KeepTime.lean ====
section
/-! SUPPORT. What no operation touches: the queue of commands, the one-way order of the fuses and the canonical form of the
beam memory (`Keep`), for the operations of bias outputs and modules, cox links, the timebase, queues. -/

set_option Elab.async false

namespace Sys2Proof.Machine

theorem keep_modBias {r s : State} (x1) (h : Keep r s) : Keep r (@State.modBias s x1) := by
  simp only [State.modBias]
  repeat' with_reducible (first | exact h | exact Keep.refl _ | (apply Keep.foldl; intro _ _ h) | fail_if_no_progress apply Keep.upd (hm := rfl) | split | fail_if_no_progress dsimp only)

theorem keep_driveBias (x1) (x2) {r s : State} (h : Keep r s) : Keep r (@driveBias x1 x2 s) := by
  simp only [driveBias]
  repeat' with_reducible (first | exact h | exact Keep.refl _ | apply keep_modBias | apply keep_emit | (apply Keep.foldl; intro _ _ h) | fail_if_no_progress apply Keep.upd (hm := rfl) | split | fail_if_no_progress dsimp only)

theorem keep_modMon {r s : State} (x1) (h : Keep r s) : Keep r (@State.modMon s x1) := by
  simp only [State.modMon]
  repeat' with_reducible (first | exact h | exact Keep.refl _ | (apply Keep.foldl; intro _ _ h) | fail_if_no_progress apply Keep.upd (hm := rfl) | split | fail_if_no_progress dsimp only)

theorem keep_monTrigger (x1) {r s : State} (h : Keep r s) : Keep r (@monTrigger x1 s) := by
  simp only [monTrigger]
  repeat' with_reducible (first | exact h | exact Keep.refl _ | apply keep_modMon | (apply Keep.foldl; intro _ _ h) | fail_if_no_progress apply Keep.upd (hm := rfl) | split | fail_if_no_progress dsimp only)

theorem keep_sumCodes {r s : State} (h : Keep r s) : Keep r (@sumCodes s) := by
  simp only [sumCodes]
  repeat' with_reducible (first | exact h | exact Keep.refl _ | (apply Keep.foldl; intro _ _ h) | fail_if_no_progress apply Keep.upd (hm := rfl) | split | fail_if_no_progress dsimp only)

theorem keep_biasHandover (x1) {r s : State} (h : Keep r s) : Keep r (@biasHandover x1 s) := by
  simp only [biasHandover]
  repeat' with_reducible (first | exact h | exact Keep.refl _ | apply keep_driveBias | apply keep_incWrap | apply keep_setFld | apply keep_monTrigger | apply keep_sumCodes | (apply Keep.foldl; intro _ _ h) | fail_if_no_progress apply Keep.upd (hm := rfl) | split | fail_if_no_progress dsimp only)

theorem keep_biasStroke (x1) {r s : State} (h : Keep r s) : Keep r (@biasStroke x1 s) := by
  simp only [biasStroke]
  repeat' with_reducible (first | exact h | exact Keep.refl _ | apply keep_biasHandover | (apply Keep.foldl; intro _ _ h) | fail_if_no_progress apply Keep.upd (hm := rfl) | split | fail_if_no_progress dsimp only)

theorem keep_writeGrp (x1) (x2) {r s : State} (h : Keep r s) : Keep r (@writeGrp x1 x2 s) := by
  simp only [writeGrp]
  repeat' with_reducible (first | exact h | exact Keep.refl _ | apply keep_setFld | apply keep_rejectReg | (apply Keep.foldl; intro _ _ h) | fail_if_no_progress apply Keep.upd (hm := rfl) | split | fail_if_no_progress dsimp only)

theorem keep_forceSafe (x1) (x2) {r s : State} (h : Keep r s) : Keep r (@forceSafe x1 x2 s) := by
  simp only [forceSafe]
  repeat' with_reducible (first | exact h | exact Keep.refl _ | apply keep_raise_ | apply keep_modBias | apply keep_emit | apply keep_setFld | apply keep_monTrigger | (apply Keep.foldl; intro _ _ h) | fail_if_no_progress apply Keep.upd (hm := rfl) | split | fail_if_no_progress dsimp only)

theorem keep_htrStart (x1) {r s : State} (h : Keep r s) : Keep r (@htrStart x1 s) := by
  simp only [htrStart]
  repeat' with_reducible (first | exact h | exact Keep.refl _ | apply keep_monTrigger | apply keep_emit | apply keep_modBias | (apply Keep.foldl; intro _ _ h) | fail_if_no_progress apply Keep.upd (hm := rfl) | split | fail_if_no_progress dsimp only)

theorem keep_writeHtrEn (x1) {r s : State} (h : Keep r s) : Keep r (@writeHtrEn x1 s) := by
  simp only [writeHtrEn]
  repeat' with_reducible (first | exact h | exact Keep.refl _ | apply keep_setFld | apply keep_modBias | apply keep_emit | apply keep_htrStart | (apply Keep.foldl; intro _ _ h) | fail_if_no_progress apply Keep.upd (hm := rfl) | split | fail_if_no_progress dsimp only)

theorem keep_writeBiasCtl (x1) {r s : State} (h : Keep r s) : Keep r (@writeBiasCtl x1 s) := by
  simp only [writeBiasCtl]
  repeat' with_reducible (first | exact h | exact Keep.refl _ | apply keep_modBias | apply keep_resetAct | apply keep_resetRegs | apply keep_sumCodes | apply keep_emit | (apply Keep.foldl; intro _ _ h) | fail_if_no_progress apply Keep.upd (hm := rfl) | split | fail_if_no_progress dsimp only)

theorem keep_putMgt {r s : State} (x1) (x2) (h : Keep r s) : Keep r (@State.putMgt s x1 x2) := by
  simp only [State.putMgt]
  repeat' with_reducible (first | exact h | exact Keep.refl _ | apply keep_setReg | (apply Keep.foldl; intro _ _ h) | fail_if_no_progress apply Keep.upd (hm := rfl) | split | fail_if_no_progress dsimp only)

theorem keep_writeMgt (x1) (x2) {r s : State} (h : Keep r s) : Keep r (@writeMgt x1 x2 s) := by
  simp only [writeMgt]
  repeat' with_reducible (first | exact h | exact Keep.refl _ | apply keep_emit | apply keep_modMon | apply keep_setFld | apply keep_setReg | apply keep_rejectReg | (apply Keep.foldl; intro _ _ h) | fail_if_no_progress apply Keep.upd (hm := rfl) | split | fail_if_no_progress dsimp only)

theorem keep_mgtEnd (x1) (x2) (x3) {r s : State} (h : Keep r s) : Keep r (@mgtEnd x1 x2 x3 s) := by
  simp only [mgtEnd]
  repeat' with_reducible (first | exact h | exact Keep.refl _ | apply keep_raise_ | apply keep_modMon | apply keep_setFld | (apply Keep.foldl; intro _ _ h) | fail_if_no_progress apply Keep.upd (hm := rfl) | split | fail_if_no_progress dsimp only)

theorem keep_writeMgtCtl (x1) {r s : State} (h : Keep r s) : Keep r (@writeMgtCtl x1 s) := by
  simp only [writeMgtCtl]
  repeat' with_reducible (first | exact h | exact Keep.refl _ | apply keep_emit | apply keep_setFld | (apply Keep.foldl; intro _ _ h) | fail_if_no_progress apply Keep.upd (hm := rfl) | split | fail_if_no_progress dsimp only)

theorem keep_modLink {r s : State} (x1) (x2) (h : Keep r s) : Keep r (@State.modLink s x1 x2) := by
  simp only [State.modLink]
  repeat' with_reducible (first | exact h | exact Keep.refl _ | (apply Keep.foldl; intro _ _ h) | fail_if_no_progress apply Keep.upd (hm := rfl) | split | fail_if_no_progress dsimp only)

theorem keep_setCxTx {r s : State} (x1) (x2) (h : Keep r s) : Keep r (@State.setCxTx s x1 x2) := by
  simp only [State.setCxTx]
  repeat' with_reducible (first | exact h | exact Keep.refl _ | apply keep_setFld | (apply Keep.foldl; intro _ _ h) | fail_if_no_progress apply Keep.upd (hm := rfl) | split | fail_if_no_progress dsimp only)

theorem keep_setCxRx {r s : State} (x1) (x2) (h : Keep r s) : Keep r (@State.setCxRx s x1 x2) := by
  simp only [State.setCxRx]
  repeat' with_reducible (first | exact h | exact Keep.refl _ | apply keep_setFld | (apply Keep.foldl; intro _ _ h) | fail_if_no_progress apply Keep.upd (hm := rfl) | split | fail_if_no_progress dsimp only)

theorem keep_emitItem (x1) (x2) {r s : State} (h : Keep r s) : Keep r (@emitItem x1 x2 s) := by
  simp only [emitItem]
  repeat' with_reducible (first | exact h | exact Keep.refl _ | apply keep_modLink | apply keep_emit | (apply Keep.foldl; intro _ _ h) | fail_if_no_progress apply Keep.upd (hm := rfl) | split | fail_if_no_progress dsimp only)

theorem keep_sendItem (x1) (x2) {r s : State} (h : Keep r s) : Keep r (@sendItem x1 x2 s) := by
  simp only [sendItem]
  repeat' with_reducible (first | exact h | exact Keep.refl _ | apply keep_modLink | apply keep_emitItem | (apply Keep.foldl; intro _ _ h) | fail_if_no_progress apply Keep.upd (hm := rfl) | split | fail_if_no_progress dsimp only)

theorem keep_sendFrame (x1) (x2) {r s : State} (h : Keep r s) : Keep r (@sendFrame x1 x2 s) := by
  simp only [sendFrame]
  repeat' with_reducible (first | exact h | exact Keep.refl _ | apply keep_modLink | apply keep_complete | (apply Keep.foldl; intro _ _ h) | fail_if_no_progress apply Keep.upd (hm := rfl) | split | fail_if_no_progress dsimp only)

theorem keep_nextSeq {r s : State} (h : Keep r s) : Keep r (@nextSeq s) := by
  simp only [nextSeq]
  repeat' with_reducible (first | exact h | exact Keep.refl _ | (apply Keep.foldl; intro _ _ h) | fail_if_no_progress apply Keep.upd (hm := rfl) | split | fail_if_no_progress dsimp only)

theorem keep_linkFrame (x1) (x2) {r s : State} (h : Keep r s) : Keep r (@linkFrame x1 x2 s) := by
  simp only [linkFrame]
  repeat' with_reducible (first | exact h | exact Keep.refl _ | apply keep_emit | apply keep_nextSeq | (apply Keep.foldl; intro _ _ h) | fail_if_no_progress apply Keep.upd (hm := rfl) | split | fail_if_no_progress dsimp only)

theorem keep_faultFrames {r s : State} (h : Keep r s) : Keep r (@faultFrames s) := by
  simp only [faultFrames]
  repeat' with_reducible (first | exact h | exact Keep.refl _ | apply keep_modLink | apply keep_linkFrame | (apply Keep.foldl; intro _ _ h) | fail_if_no_progress apply Keep.upd (hm := rfl) | split | fail_if_no_progress dsimp only)

theorem keep_sendControl (x1) (x2) (x3) (x4) (x5) {r s : State} (h : Keep r s) : Keep r (@sendControl x1 x2 x3 x4 x5 s) := by
  simp only [sendControl]
  repeat' with_reducible (first | exact h | exact Keep.refl _ | apply keep_nextSeq | apply keep_sendFrame | (apply Keep.foldl; intro _ _ h) | fail_if_no_progress apply Keep.upd (hm := rfl) | split | fail_if_no_progress dsimp only)

theorem keep_dropFrames (x1) {r s : State} (h : Keep r s) : Keep r (@dropFrames x1 s) := by
  simp only [dropFrames]
  repeat' with_reducible (first | exact h | exact Keep.refl _ | apply keep_modLink | apply keep_complete | (apply Keep.foldl; intro _ _ h) | fail_if_no_progress apply Keep.upd (hm := rfl) | split | fail_if_no_progress dsimp only)

theorem keep_linkOff (x1) {r s : State} (h : Keep r s) : Keep r (@linkOff x1 s) := by
  simp only [linkOff]
  repeat' with_reducible (first | exact h | exact Keep.refl _ | apply keep_setFld | apply keep_setCxRx | apply keep_setCxTx | apply keep_dropFrames | (apply Keep.foldl; intro _ _ h) | fail_if_no_progress apply Keep.upd (hm := rfl) | split | fail_if_no_progress dsimp only)

theorem keep_searchCx (x1) {r s : State} (h : Keep r s) : Keep r (@State.searchCx s x1) := by
  simp only [State.searchCx]
  repeat' with_reducible (first | exact h | exact Keep.refl _ | apply keep_setFld | apply keep_setCxRx | (apply Keep.foldl; intro _ _ h) | fail_if_no_progress apply Keep.upd (hm := rfl) | split | fail_if_no_progress dsimp only)

theorem keep_writeCxCtl (x1) (x2) {r s : State} (h : Keep r s) : Keep r (@writeCxCtl x1 x2 s) := by
  simp only [writeCxCtl]
  repeat' with_reducible (first | exact h | exact Keep.refl _ | apply keep_resetRegs | apply keep_linkOff | apply keep_setFld | apply keep_searchCx | apply keep_setCxTx | apply keep_setReg | apply keep_rejectReg | (apply Keep.foldl; intro _ _ h) | fail_if_no_progress apply Keep.upd (hm := rfl) | split | fail_if_no_progress dsimp only)

theorem keep_coxLoopBegin (x1) (x2) (x3) {r s : State} (h : Keep r s) : Keep r (@coxLoopBegin x1 x2 x3 s) := by
  simp only [coxLoopBegin]
  repeat' with_reducible (first | exact h | exact Keep.refl _ | apply keep_setFld | apply keep_complete | (apply Keep.foldl; intro _ _ h) | fail_if_no_progress apply Keep.upd (hm := rfl) | split | fail_if_no_progress dsimp only)

theorem keep_coxPrbsBegin (x1) (x2) (x3) (x4) (x5) (x6) (x7) (x8) {r s : State} (h : Keep r s) : Keep r (@coxPrbsBegin x1 x2 x3 x4 x5 x6 x7 x8 s) := by
  simp only [coxPrbsBegin]
  repeat' with_reducible (first | exact h | exact Keep.refl _ | apply keep_complete | apply keep_setCxRx | apply keep_modLink | apply keep_clearRegs | apply keep_setFld | apply keep_addSat | (apply Keep.foldl; intro _ _ h) | fail_if_no_progress apply Keep.upd (hm := rfl) | split | fail_if_no_progress dsimp only)

theorem keep_setGen {r s : State} (x1) (x2) (h : Keep r s) : Keep r (@State.setGen s x1 x2) := by
  simp only [State.setGen]
  repeat' with_reducible (first | exact h | exact Keep.refl _ | (apply Keep.foldl; intro _ _ h) | fail_if_no_progress apply Keep.upd (hm := rfl) | split | fail_if_no_progress dsimp only)

theorem keep_modGen {r s : State} (x1) (x2) (h : Keep r s) : Keep r (@State.modGen s x1 x2) := by
  simp only [State.modGen]
  repeat' with_reducible (first | exact h | exact Keep.refl _ | apply keep_setGen | (apply Keep.foldl; intro _ _ h) | fail_if_no_progress apply Keep.upd (hm := rfl) | split | fail_if_no_progress dsimp only)

theorem keep_showDef (x1) (x2) {r s : State} (h : Keep r s) : Keep r (@showDef x1 x2 s) := by
  simp only [showDef]
  repeat' with_reducible (first | exact h | exact Keep.refl _ | apply keep_setSFld | apply keep_setFld | (apply Keep.foldl; intro _ _ h) | fail_if_no_progress apply Keep.upd (hm := rfl) | split | fail_if_no_progress dsimp only)

theorem keep_sendDef (x1) (x2) {r s : State} (h : Keep r s) : Keep r (@sendDef x1 x2 s) := by
  simp only [sendDef]
  repeat' with_reducible (first | exact h | exact Keep.refl _ | apply keep_sendControl | (apply Keep.foldl; intro _ _ h) | fail_if_no_progress apply Keep.upd (hm := rfl) | split | fail_if_no_progress dsimp only)

theorem keep_strokeDefBegin (x1) (x2) (x3) (x4) (x5) (x6) (x7) {r s : State} (h : Keep r s) : Keep r (@strokeDefBegin x1 x2 x3 x4 x5 x6 x7 s) := by
  simp only [strokeDefBegin]
  repeat' with_reducible (first | exact h | exact Keep.refl _ | apply keep_complete | apply keep_sendDef | apply keep_setGen | (apply Keep.foldl; intro _ _ h) | fail_if_no_progress apply Keep.upd (hm := rfl) | split | fail_if_no_progress dsimp only)

theorem keep_repick (x1) (x2) {r s : State} (h : Keep r s) : Keep r (@repick x1 x2 s) := by
  simp only [repick]
  repeat' with_reducible (first | exact h | exact Keep.refl _ | apply keep_setGen | (apply Keep.foldl; intro _ _ h) | fail_if_no_progress apply Keep.upd (hm := rfl) | split | fail_if_no_progress dsimp only)

theorem keep_genStep (x1) (x2) {r s : State} (h : Keep r s) : Keep r (@genStep x1 x2 s) := by
  simp only [genStep]
  repeat' with_reducible (first | exact h | exact Keep.refl _ | apply keep_setGen | apply keep_repick | (apply Keep.foldl; intro _ _ h) | fail_if_no_progress apply Keep.upd (hm := rfl) | split | fail_if_no_progress dsimp only)

theorem keep_keepPaced (x1) {r s : State} (h : Keep r s) : Keep r (@keepPaced x1 s) := by
  simp only [keepPaced]
  repeat' with_reducible (first | exact h | exact Keep.refl _ | (apply Keep.foldl; intro _ _ h) | fail_if_no_progress apply Keep.upd (hm := rfl) | split | fail_if_no_progress dsimp only)

theorem keep_stepTimebase (x1) {r s : State} (h : Keep r s) : Keep r (@stepTimebase x1 s) := by
  simp only [stepTimebase]
  repeat' with_reducible (first | exact h | exact Keep.refl _ | apply keep_genStep | apply keep_setFld | apply keep_noteLocked | apply keep_raise_ | apply keep_keepPaced | (apply Keep.foldl; intro _ _ h) | fail_if_no_progress apply Keep.upd (hm := rfl) | split | fail_if_no_progress dsimp only)

theorem keep_pass (x1) (x2) {r s : State} (h : Keep r s) : Keep r (@pass x1 x2 s) := by
  simp only [pass]
  repeat' with_reducible (first | exact h | exact Keep.refl _ | apply keep_faultFrames | apply keep_endPulses | apply keep_ppsRise | (apply Keep.foldl; intro _ _ h) | fail_if_no_progress apply Keep.upd (hm := rfl) | split | fail_if_no_progress dsimp only)

theorem keep_advanceTo (x1) {r s : State} (h : Keep r s) : Keep r (@advanceTo x1 s) := by
  simp only [advanceTo]
  repeat' with_reducible (first | exact h | exact Keep.refl _ | apply keep_pass | (apply Keep.foldl; intro _ _ h) | fail_if_no_progress apply Keep.upd (hm := rfl) | split | fail_if_no_progress dsimp only)

theorem keep_tbTick {r s : State} (h : Keep r s) : Keep r (@tbTick s) := by
  simp only [tbTick]
  repeat' with_reducible (first | exact h | exact Keep.refl _ | apply keep_pass | (apply Keep.foldl; intro _ _ h) | fail_if_no_progress apply Keep.upd (hm := rfl) | split | fail_if_no_progress dsimp only)

theorem keep_slewEnd (x1) (x2) {r s : State} (h : Keep r s) : Keep r (@slewEnd x1 x2 s) := by
  simp only [slewEnd]
  repeat' with_reducible (first | exact h | exact Keep.refl _ | apply keep_raise_ | (apply Keep.foldl; intro _ _ h) | fail_if_no_progress apply Keep.upd (hm := rfl) | split | fail_if_no_progress dsimp only)

theorem keep_plan (x1) (x2) (x3) (x4) (x5) {r s : State} (h : Keep r s) : Keep r (@plan x1 x2 x3 x4 x5 s) := by
  simp only [plan]
  repeat' with_reducible (first | exact h | exact Keep.refl _ | apply keep_complete | apply keep_slewEnd | apply keep_raise_ | apply keep_setGen | apply keep_count | (apply Keep.foldl; intro _ _ h) | fail_if_no_progress apply Keep.upd (hm := rfl) | split | fail_if_no_progress dsimp only)

theorem keep_showOfs (x1) {r s : State} (h : Keep r s) : Keep r (@showOfs x1 s) := by
  simp only [showOfs]
  repeat' with_reducible (first | exact h | exact Keep.refl _ | apply keep_setSFld | apply keep_resultReady | (apply Keep.foldl; intro _ _ h) | fail_if_no_progress apply Keep.upd (hm := rfl) | split | fail_if_no_progress dsimp only)

theorem keep_fireBare (x1) (x2) (x3) {r s : State} (h : Keep r s) : Keep r (@fireBare x1 x2 x3 s).1 := by
  simp only [fireBare]
  repeat' with_reducible (first | exact h | exact Keep.refl _ | apply keep_raise_ | apply keep_setFld | apply keep_count | apply keep_setGen | apply keep_tick | apply keep_advanceTo | (apply Keep.foldl; intro _ _ h) | fail_if_no_progress apply Keep.upd (hm := rfl) | split | fail_if_no_progress dsimp only)

theorem keep_fireBare_e {x1} {x2} {x3} {r s t : State} {a0} (e : @fireBare x1 x2 x3 s = (t, a0)) (h : Keep r s) : Keep r t := by
  have := keep_fireBare x1 x2 x3 h
  rw [e] at this
  exact this

theorem keep_fire (x1) {r s : State} (h : Keep r s) : Keep r (@fire x1 s).1 := by
  simp only [fire]
  repeat' with_reducible (first | exact h | exact Keep.refl _ | apply keep_modGen | apply keep_plan | apply keep_slewEnd | apply keep_showOfs | apply keep_raise_ | apply keep_showDef | apply keep_setFld | apply keep_setGen | apply keep_count | apply keep_advanceTo | apply keep_fireBare | (refine keep_fireBare_e (by assumption) ?_) | (apply Keep.foldl; intro _ _ h) | fail_if_no_progress apply Keep.upd (hm := rfl) | split | fail_if_no_progress dsimp only)

theorem keep_fire_e {x1} {r s t : State} {a0} (e : @fire x1 s = (t, a0)) (h : Keep r s) : Keep r t := by
  have := keep_fire x1 h
  rw [e] at this
  exact this

theorem keep_ptmStart {r s : State} (h : Keep r s) : Keep r (@ptmStart s) := by
  simp only [ptmStart]
  repeat' with_reducible (first | exact h | exact Keep.refl _ | apply keep_emit | (apply Keep.foldl; intro _ _ h) | fail_if_no_progress apply Keep.upd (hm := rfl) | split | fail_if_no_progress dsimp only)

theorem keep_writePtmCtl (x1) {r s : State} (h : Keep r s) : Keep r (@writePtmCtl x1 s) := by
  simp only [writePtmCtl]
  repeat' with_reducible (first | exact h | exact Keep.refl _ | apply keep_ptmStart | apply keep_setFld | apply keep_rejectReg | (apply Keep.foldl; intro _ _ h) | fail_if_no_progress apply Keep.upd (hm := rfl) | split | fail_if_no_progress dsimp only)

theorem keep_servoCheck {r s : State} (h : Keep r s) : Keep r (@servoCheck s) := by
  simp only [servoCheck]
  repeat' with_reducible (first | exact h | exact Keep.refl _ | apply keep_setServo | apply keep_noteLocked | (apply Keep.foldl; intro _ _ h) | fail_if_no_progress apply Keep.upd (hm := rfl) | split | fail_if_no_progress dsimp only)

theorem keep_servoToCrew {r s : State} (h : Keep r s) : Keep r (@servoToCrew s) := by
  simp only [servoToCrew]
  repeat' with_reducible (first | exact h | exact Keep.refl _ | apply keep_setServo | apply keep_noteLocked | (apply Keep.foldl; intro _ _ h) | fail_if_no_progress apply Keep.upd (hm := rfl) | split | fail_if_no_progress dsimp only)

theorem keep_servoLeaveCrew {r s : State} (h : Keep r s) : Keep r (@servoLeaveCrew s) := by
  simp only [servoLeaveCrew]
  repeat' with_reducible (first | exact h | exact Keep.refl _ | apply keep_toHoldover | apply keep_servoCheck | (apply Keep.foldl; intro _ _ h) | fail_if_no_progress apply Keep.upd (hm := rfl) | split | fail_if_no_progress dsimp only)

theorem keep_steer (x1) (x2) (x3) {r s : State} (h : Keep r s) : Keep r (@steer x1 x2 x3 s) := by
  simp only [steer]
  repeat' with_reducible (first | exact h | exact Keep.refl _ | apply keep_setSFld | apply keep_tick | (apply Keep.foldl; intro _ _ h) | fail_if_no_progress apply Keep.upd (hm := rfl) | split | fail_if_no_progress dsimp only)

theorem keep_servoSample (x1) {r s : State} (h : Keep r s) : Keep r (@servoSample x1 s) := by
  simp only [servoSample]
  repeat' with_reducible (first | exact h | exact Keep.refl _ | apply keep_raise_ | apply keep_steer | apply keep_stepTimebase | apply keep_setServo | apply keep_noteLocked | (apply Keep.foldl; intro _ _ h) | fail_if_no_progress apply Keep.upd (hm := rfl) | split | fail_if_no_progress dsimp only)

theorem keep_writeServoHi (x1) (x2) {r s : State} (h : Keep r s) : Keep r (@writeServoHi x1 x2 s) := by
  simp only [writeServoHi]
  repeat' with_reducible (first | exact h | exact Keep.refl _ | apply keep_servoSample | apply keep_dropLo | apply keep_rejectReg | (apply Keep.foldl; intro _ _ h) | fail_if_no_progress apply Keep.upd (hm := rfl) | split | fail_if_no_progress dsimp only)

theorem keep_writeTbCtl (x1) {r s : State} (h : Keep r s) : Keep r (@writeTbCtl x1 s) := by
  simp only [writeTbCtl]
  repeat' with_reducible (first | exact h | exact Keep.refl _ | apply keep_setFld | apply keep_servoCheck | apply keep_rejectReg | (apply Keep.foldl; intro _ _ h) | fail_if_no_progress apply Keep.upd (hm := rfl) | split | fail_if_no_progress dsimp only)

theorem keep_writeTbFreq (x1) {r s : State} (h : Keep r s) : Keep r (@writeTbFreq x1 s) := by
  simp only [writeTbFreq]
  repeat' with_reducible (first | exact h | exact Keep.refl _ | apply keep_setReg | apply keep_rejectReg | (apply Keep.foldl; intro _ _ h) | fail_if_no_progress apply Keep.upd (hm := rfl) | split | fail_if_no_progress dsimp only)

theorem keep_writeServoLo (x1) (x2) {r s : State} (h : Keep r s) : Keep r (@writeServoLo x1 x2 s) := by
  simp only [writeServoLo]
  repeat' with_reducible (first | exact h | exact Keep.refl _ | apply keep_holdLo | apply keep_rejectReg | (apply Keep.foldl; intro _ _ h) | fail_if_no_progress apply Keep.upd (hm := rfl) | split | fail_if_no_progress dsimp only)

theorem keep_dueDoorbell (x1) {r s : State} (h : Keep r s) : Keep r (@dueDoorbell x1 s) := by
  simp only [dueDoorbell]
  repeat' with_reducible (first | exact h | exact Keep.refl _ | apply keep_emit | apply keep_modQp | (apply Keep.foldl; intro _ _ h) | fail_if_no_progress apply Keep.upd (hm := rfl) | split | fail_if_no_progress dsimp only)

theorem keep_scan (x1) {r s : State} (h : Keep r s) : Keep r (@scan x1 s) := by
  simp only [scan]
  repeat' with_reducible (first | exact h | exact Keep.refl _ | apply keep_dueDoorbell | (apply Keep.foldl; intro _ _ h) | fail_if_no_progress apply Keep.upd (hm := rfl) | split | fail_if_no_progress dsimp only)

theorem keep_kick (x1) (x2) {r s : State} (h : Keep r s) : Keep r (@kick x1 x2 s) := by
  simp only [kick]
  repeat' with_reducible (first | exact h | exact Keep.refl _ | apply keep_scan | (apply Keep.foldl; intro _ _ h) | fail_if_no_progress apply Keep.upd (hm := rfl) | split | fail_if_no_progress dsimp only)

theorem keep_queueError (x1) (x2) {r s : State} (h : Keep r s) : Keep r (@queueError x1 x2 s) := by
  simp only [queueError]
  repeat' with_reducible (first | exact h | exact Keep.refl _ | apply keep_notice | apply keep_setFld | (apply Keep.foldl; intro _ _ h) | fail_if_no_progress apply Keep.upd (hm := rfl) | split | fail_if_no_progress dsimp only)

theorem keep_requestDescs (x1) {r s : State} (h : Keep r s) : Keep r (@requestDescs x1 s) := by
  simp only [requestDescs]
  repeat' with_reducible (first | exact h | exact Keep.refl _ | apply keep_emit | apply keep_modQp | (apply Keep.foldl; intro _ _ h) | fail_if_no_progress apply Keep.upd (hm := rfl) | split | fail_if_no_progress dsimp only)

theorem keep_beginTaken (x1) {r s : State} (h : Keep r s) : Keep r (@beginTaken x1 s) := by
  simp only [beginTaken]
  repeat' with_reducible (first | exact h | exact Keep.refl _ | apply keep_addSat | apply keep_postCompl | (apply Keep.foldl; intro _ _ h) | fail_if_no_progress apply Keep.upd (hm := rfl) | split | fail_if_no_progress dsimp only)

theorem keep_qpEnabled (x1) {r s : State} (h : Keep r s) : Keep r (@qpEnabled x1 s) := by
  simp only [qpEnabled]
  repeat' with_reducible (first | exact h | exact Keep.refl _ | apply keep_setFld | apply keep_setQp | (apply Keep.foldl; intro _ _ h) | fail_if_no_progress apply Keep.upd (hm := rfl) | split | fail_if_no_progress dsimp only)

theorem keep_qpDisabled {ab : Bool → Nat → State → State} (q) {r s : State} (he : ∀ p n a, Keep r a → Keep r (ab p n a)) (h : Keep r s) :
    Keep r (qpDisabled ab q s) := by
  simp only [qpDisabled]
  repeat' with_reducible (first | exact h | apply keep_setFld | apply keep_abortQueued | apply he | split)

theorem keep_writeQpCtl {ab : Bool → Nat → State → State} (x1 x2 x3 x4 x5) {r s : State} (he : ∀ p n a, Keep r a → Keep r (ab p n a)) (h : Keep r s) :
    Keep r (writeQpCtl ab x1 x2 x3 x4 x5 s) := by
  simp only [writeQpCtl]
  repeat' with_reducible (first | exact h | (apply keep_qpDisabled; exact he) | apply keep_qpEnabled | apply keep_rejectWrite | apply keep_setReg | split)

theorem keep_writeNqCtl (x1) (x2) (x3) (x4) (x5) {r s : State} (h : Keep r s) : Keep r (@writeNqCtl x1 x2 x3 x4 x5 s) := by
  simp only [writeNqCtl]
  repeat' with_reducible (first | exact h | exact Keep.refl _ | apply keep_setFld | apply keep_setReg | apply keep_rejectWrite | (apply Keep.foldl; intro _ _ h) | fail_if_no_progress apply Keep.upd (hm := rfl) | split | fail_if_no_progress dsimp only)

theorem keep_writeNqCi (x1) (x2) (x3) (x4) (x5) {r s : State} (h : Keep r s) : Keep r (@writeNqCi x1 x2 x3 x4 x5 s) := by
  simp only [writeNqCi]
  repeat' with_reducible (first | exact h | exact Keep.refl _ | apply keep_setFld | apply keep_rejectWrite | (apply Keep.foldl; intro _ _ h) | fail_if_no_progress apply Keep.upd (hm := rfl) | split | fail_if_no_progress dsimp only)

theorem keep_sendPending (x1) (x2) {r s : State} (h : Keep r s) : Keep r (@sendPending x1 x2 s) := by
  simp only [sendPending]
  repeat' with_reducible (first | exact h | exact Keep.refl _ | apply keep_setReg | apply keep_sendMsix | (apply Keep.foldl; intro _ _ h) | fail_if_no_progress apply Keep.upd (hm := rfl) | split | fail_if_no_progress dsimp only)

theorem keep_sendAllPending (x1) {r s : State} (h : Keep r s) : Keep r (@sendAllPending x1 s) := by
  simp only [sendAllPending]
  repeat' with_reducible (first | exact h | exact Keep.refl _ | apply keep_sendPending | (apply Keep.foldl; intro _ _ h) | fail_if_no_progress apply Keep.upd (hm := rfl) | split | fail_if_no_progress dsimp only)

theorem keep_setBusMaster (x1) (x2) {r s : State} (h : Keep r s) : Keep r (@setBusMaster x1 x2 s) := by
  simp only [setBusMaster]
  repeat' with_reducible (first | exact h | exact Keep.refl _ | apply keep_emit | apply keep_requestDescs | apply keep_sendAllPending | apply keep_dueDoorbell | apply keep_writeCompl | (apply Keep.foldl; intro _ _ h) | fail_if_no_progress apply Keep.upd (hm := rfl) | split | fail_if_no_progress dsimp only)

end Sys2Proof.Machine
end

