-- ==== Sys2Proof/Laws/KeepLane.lean ====
section
/-! SUPPORT. What no operation touches: the queue of commands, the one-way order of the fuses and the canonical form of the
beam memory (`Keep`), for the operations of lanes, check values and power. -/

set_option Elab.async false

namespace Sys2Proof.Machine

theorem keep_setTx {r s : State} (x1) (x2) (h : Keep r s) : Keep r (@State.setTx s x1 x2) := by
  simp only [State.setTx]
  repeat' with_reducible (first | exact h | exact Keep.refl _ | apply keep_setFld | (apply Keep.foldl; intro _ _ h) | fail_if_no_progress apply Keep.upd (hm := rfl) | split | fail_if_no_progress dsimp only)

theorem keep_endInj (x1) {r s : State} (h : Keep r s) : Keep r (@endInj x1 s) := by
  simp only [endInj]
  repeat' with_reducible (first | exact h | exact Keep.refl _ | apply keep_modLane | apply keep_addSat | (apply Keep.foldl; intro _ _ h) | fail_if_no_progress apply Keep.upd (hm := rfl) | split | fail_if_no_progress dsimp only)

theorem keep_setAmp {r s : State} (x1) (x2) (h : Keep r s) : Keep r (@State.setAmp s x1 x2) := by
  simp only [State.setAmp]
  repeat' with_reducible (first | exact h | exact Keep.refl _ | apply keep_setFld | apply keep_modLane | (apply Keep.foldl; intro _ _ h) | fail_if_no_progress apply Keep.upd (hm := rfl) | split | fail_if_no_progress dsimp only)

theorem keep_raiseOnce (x1) {r s : State} (h : Keep r s) : Keep r (@raiseOnce x1 s) := by
  simp only [raiseOnce]
  repeat' with_reducible (first | exact h | exact Keep.refl _ | apply keep_noteRaised | apply keep_raise_ | (apply Keep.foldl; intro _ _ h) | fail_if_no_progress apply Keep.upd (hm := rfl) | split | fail_if_no_progress dsimp only)

theorem keep_modLoom {r s : State} (x1) (h : Keep r s) : Keep r (@State.modLoom s x1) := by
  simp only [State.modLoom]
  repeat' with_reducible (first | exact h | exact Keep.refl _ | (apply Keep.foldl; intro _ _ h) | fail_if_no_progress apply Keep.upd (hm := rfl) | split | fail_if_no_progress dsimp only)

theorem keep_expDrop (x1) (x2) {r s : State} (h : Keep r s) : Keep r (@expDrop x1 x2 s) := by
  simp only [expDrop]
  repeat' with_reducible (first | exact h | exact Keep.refl _ | apply keep_addSat | apply keep_countLoom | apply keep_raiseOnce | apply keep_modLoom | (apply Keep.foldl; intro _ _ h) | fail_if_no_progress apply Keep.upd (hm := rfl) | split | fail_if_no_progress dsimp only)

theorem keep_discardTx (x1) (x2) {r s : State} (h : Keep r s) : Keep r (@discardTx x1 x2 s) := by
  simp only [discardTx]
  repeat' with_reducible (first | exact h | exact Keep.refl _ | apply keep_expDrop | apply keep_postCompl | apply keep_modLane | apply keep_countLn | (apply Keep.foldl; intro _ _ h) | fail_if_no_progress apply Keep.upd (hm := rfl) | split | fail_if_no_progress dsimp only)

theorem keep_discardHeld (x1) {r s : State} (h : Keep r s) : Keep r (@discardHeld x1 s) := by
  simp only [discardHeld]
  repeat' with_reducible (first | exact h | exact Keep.refl _ | apply keep_setLane | apply keep_discardTx | (apply Keep.foldl; intro _ _ h) | fail_if_no_progress apply Keep.upd (hm := rfl) | split | fail_if_no_progress dsimp only)

theorem keep_cancelTrain (x1) {r s : State} (h : Keep r s) : Keep r (@cancelTrain x1 s) := by
  simp only [cancelTrain]
  repeat' with_reducible (first | exact h | exact Keep.refl _ | apply keep_complete | apply keep_modLane | apply keep_setFld | (apply Keep.foldl; intro _ _ h) | fail_if_no_progress apply Keep.upd (hm := rfl) | split | fail_if_no_progress dsimp only)

theorem keep_rampDown (x1) {r s : State} (h : Keep r s) : Keep r (@rampDown x1 s) := by
  simp only [rampDown]
  repeat' with_reducible (first | exact h | exact Keep.refl _ | apply keep_discardHeld | apply keep_setTx | apply keep_modLane | apply keep_setAmp | apply keep_cancelTrain | (apply Keep.foldl; intro _ _ h) | fail_if_no_progress apply Keep.upd (hm := rfl) | split | fail_if_no_progress dsimp only)

theorem keep_rampUp (x1) {r s : State} (h : Keep r s) : Keep r (@rampUp x1 s) := by
  simp only [rampUp]
  repeat' with_reducible (first | exact h | exact Keep.refl _ | apply keep_setTx | apply keep_modLane | apply keep_setAmp | (apply Keep.foldl; intro _ _ h) | fail_if_no_progress apply Keep.upd (hm := rfl) | split | fail_if_no_progress dsimp only)

theorem keep_startTrain (x1) {r s : State} (h : Keep r s) : Keep r (@startTrain x1 s) := by
  simp only [startTrain]
  repeat' with_reducible (first | exact h | exact Keep.refl _ | apply keep_modLane | apply keep_setFld | apply keep_incWrap | (apply Keep.foldl; intro _ _ h) | fail_if_no_progress apply Keep.upd (hm := rfl) | split | fail_if_no_progress dsimp only)

theorem keep_calAbandon (x1) {r s : State} (h : Keep r s) : Keep r (@calAbandon x1 s) := by
  simp only [calAbandon]
  repeat' with_reducible (first | exact h | exact Keep.refl _ | apply keep_setFld | apply keep_raise_ | (apply Keep.foldl; intro _ _ h) | fail_if_no_progress apply Keep.upd (hm := rfl) | split | fail_if_no_progress dsimp only)

theorem keep_calFinish (x1) {r s : State} (h : Keep r s) : Keep r (@calFinish x1 s) := by
  simp only [calFinish]
  repeat' with_reducible (first | exact h | exact Keep.refl _ | apply keep_incWrap | apply keep_raise_ | apply keep_setFld | apply keep_setLane | (apply Keep.foldl; intro _ _ h) | fail_if_no_progress apply Keep.upd (hm := rfl) | split | fail_if_no_progress dsimp only)

theorem keep_calLeave (x1) {r s : State} (h : Keep r s) : Keep r (@calLeave x1 s) := by
  simp only [calLeave]
  repeat' with_reducible (first | exact h | exact Keep.refl _ | apply keep_calAbandon | apply keep_calFinish | (apply Keep.foldl; intro _ _ h) | fail_if_no_progress apply Keep.upd (hm := rfl) | split | fail_if_no_progress dsimp only)

theorem keep_calStart (x1) {r s : State} (h : Keep r s) : Keep r (@calStart x1 s) := by
  simp only [calStart]
  repeat' with_reducible (first | exact h | exact Keep.refl _ | apply keep_setFld | apply keep_modLane | (apply Keep.foldl; intro _ _ h) | fail_if_no_progress apply Keep.upd (hm := rfl) | split | fail_if_no_progress dsimp only)

theorem keep_setRx {r s : State} (x1) (x2) (h : Keep r s) : Keep r (@State.setRx s x1 x2) := by
  simp only [State.setRx]
  repeat' with_reducible (first | exact h | exact Keep.refl _ | apply keep_setFld | (apply Keep.foldl; intro _ _ h) | fail_if_no_progress apply Keep.upd (hm := rfl) | split | fail_if_no_progress dsimp only)

theorem keep_leaveLocked (x1) {r s : State} (h : Keep r s) : Keep r (@leaveLocked x1 s) := by
  simp only [leaveLocked]
  repeat' with_reducible (first | exact h | exact Keep.refl _ | apply keep_modLane | apply keep_calLeave | (apply Keep.foldl; intro _ _ h) | fail_if_no_progress apply Keep.upd (hm := rfl) | split | fail_if_no_progress dsimp only)

theorem keep_toAcquire (x1) {r s : State} (h : Keep r s) : Keep r (@toAcquire x1 s) := by
  simp only [toAcquire]
  repeat' with_reducible (first | exact h | exact Keep.refl _ | apply keep_resultPending | apply keep_setFld | apply keep_setRx | apply keep_setLane | apply keep_leaveLocked | (apply Keep.foldl; intro _ _ h) | fail_if_no_progress apply Keep.upd (hm := rfl) | split | fail_if_no_progress dsimp only)

theorem keep_retrainRx (x1) {r s : State} (h : Keep r s) : Keep r (@retrainRx x1 s) := by
  simp only [retrainRx]
  repeat' with_reducible (first | exact h | exact Keep.refl _ | apply keep_setFld | apply keep_toAcquire | (apply Keep.foldl; intro _ _ h) | fail_if_no_progress apply Keep.upd (hm := rfl) | split | fail_if_no_progress dsimp only)

theorem keep_retry (n) {e : State → State} {r s : State} (he : ∀ a, Keep r a → Keep r (e a)) (h : Keep r s) : Keep r (retry n e s) := by
  simp only [retry]
  split
  · exact keep_raise_ _ (keep_setRx _ _ (keep_leaveLocked _ (keep_addSat _ _ h)))
  · exact he _ (keep_addSat _ _ h)

theorem keep_retryReached (x1) {r s : State} (h : Keep r s) : Keep r (@retryReached x1 s) := by
  simp only [retryReached]
  split
  · exact keep_raise_ _ (keep_setRx _ _ (keep_leaveLocked _ h))
  · exact h

theorem keep_enterLocked (x1) {r s : State} (h : Keep r s) : Keep r (@enterLocked x1 s) := by
  simp only [enterLocked]
  repeat' with_reducible (first | exact h | exact Keep.refl _ | apply keep_rampUp | apply keep_setRx | apply keep_countLn | (apply Keep.foldl; intro _ _ h) | fail_if_no_progress apply Keep.upd (hm := rfl) | split | fail_if_no_progress dsimp only)

theorem keep_endLaneCmds (x1) {r s : State} (h : Keep r s) : Keep r (@endLaneCmds x1 s) := by
  simp only [endLaneCmds]
  repeat' with_reducible (first | exact h | exact Keep.refl _ | apply keep_complete | apply keep_setLane | (apply Keep.foldl; intro _ _ h) | fail_if_no_progress apply Keep.upd (hm := rfl) | split | fail_if_no_progress dsimp only)

theorem keep_endLoopPrbs (x1) {r s : State} (h : Keep r s) : Keep r (@endLoopPrbs x1 s) := by
  simp only [endLoopPrbs]
  repeat' with_reducible (first | exact h | exact Keep.refl _ | apply keep_setFld | apply keep_endLaneCmds | apply keep_endInj | (apply Keep.foldl; intro _ _ h) | fail_if_no_progress apply Keep.upd (hm := rfl) | split | fail_if_no_progress dsimp only)

theorem keep_laneModeBegin (x1) (x2) {r s : State} (h : Keep r s) : Keep r (@laneModeBegin x1 x2 s) := by
  simp only [laneModeBegin]
  repeat' with_reducible (first | exact h | exact Keep.refl _ | apply keep_modLane | apply keep_setFld | apply keep_endLoopPrbs | apply keep_calLeave | apply keep_rampDown | (apply Keep.foldl; intro _ _ h) | fail_if_no_progress apply Keep.upd (hm := rfl) | split | fail_if_no_progress dsimp only)

theorem keep_clearFec (x1) {r s : State} (h : Keep r s) : Keep r (@clearFec x1 s) := by
  simp only [clearFec]
  repeat' with_reducible (first | exact h | exact Keep.refl _ | apply keep_modLane | apply keep_clearRegs | (apply Keep.foldl; intro _ _ h) | fail_if_no_progress apply Keep.upd (hm := rfl) | split | fail_if_no_progress dsimp only)

theorem keep_trackCal (x1) {r s : State} (h : Keep r s) : Keep r (@trackCal x1 s) := by
  simp only [trackCal]
  repeat' with_reducible (first | exact h | exact Keep.refl _ | apply keep_setLane | (apply Keep.foldl; intro _ _ h) | fail_if_no_progress apply Keep.upd (hm := rfl) | split | fail_if_no_progress dsimp only)

theorem keep_retune (x1) (x2) (x3) {r s : State} (h : Keep r s) : Keep r (@retune x1 x2 x3 s) := by
  simp only [retune]
  repeat' with_reducible (first | exact h | exact Keep.refl _ | apply keep_setRx | apply keep_leaveLocked | apply keep_modLane | apply keep_setAmp | apply keep_setTx | apply keep_discardHeld | apply keep_setReg | apply keep_clearFec | apply keep_setFld | apply keep_clearRegs | apply keep_trackCal | (apply Keep.foldl; intro _ _ h) | fail_if_no_progress apply Keep.upd (hm := rfl) | split | fail_if_no_progress dsimp only)

theorem keep_laneModeDone (x1) {r s : State} (h : Keep r s) : Keep r (@laneModeDone x1 s) := by
  simp only [laneModeDone]
  repeat' with_reducible (first | exact h | exact Keep.refl _ | apply keep_modLane | apply keep_complete | apply keep_setFld | (apply Keep.foldl; intro _ _ h) | fail_if_no_progress apply Keep.upd (hm := rfl) | split | fail_if_no_progress dsimp only)

theorem keep_setLoop (x1) (x2) {r s : State} (h : Keep r s) : Keep r (@setLoop x1 x2 s) := by
  simp only [setLoop]
  repeat' with_reducible (first | exact h | exact Keep.refl _ | apply keep_retrainRx | apply keep_modLane | apply keep_setFld | (apply Keep.foldl; intro _ _ h) | fail_if_no_progress apply Keep.upd (hm := rfl) | split | fail_if_no_progress dsimp only)

theorem keep_loopDone (x1) {r s : State} (h : Keep r s) : Keep r (@loopDone x1 s) := by
  simp only [loopDone]
  repeat' with_reducible (first | exact h | exact Keep.refl _ | apply keep_modLane | apply keep_complete | (apply Keep.foldl; intro _ _ h) | fail_if_no_progress apply Keep.upd (hm := rfl) | split | fail_if_no_progress dsimp only)

theorem keep_loopSettle (x1) {r s : State} (h : Keep r s) : Keep r (@loopSettle x1 s) := by
  simp only [loopSettle]
  repeat' with_reducible (first | exact h | exact Keep.refl _ | apply keep_rampUp | apply keep_modLane | apply keep_setLoop | apply keep_loopDone | (apply Keep.foldl; intro _ _ h) | fail_if_no_progress apply Keep.upd (hm := rfl) | split | fail_if_no_progress dsimp only)

theorem keep_loopReplaced (x1) {r s : State} (h : Keep r s) : Keep r (@loopReplaced x1 s) := by
  simp only [loopReplaced]
  repeat' with_reducible (first | exact h | exact Keep.refl _ | apply keep_modLane | apply keep_complete | (apply Keep.foldl; intro _ _ h) | fail_if_no_progress apply Keep.upd (hm := rfl) | split | fail_if_no_progress dsimp only)

theorem keep_laneLoopBegin (x1) (x2) (x3) {r s : State} (h : Keep r s) : Keep r (@laneLoopBegin x1 x2 x3 s) := by
  simp only [laneLoopBegin]
  repeat' with_reducible (first | exact h | exact Keep.refl _ | apply keep_setLoop | apply keep_loopDone | apply keep_rampDown | apply keep_loopSettle | apply keep_modLane | apply keep_loopReplaced | (apply Keep.foldl; intro _ _ h) | fail_if_no_progress apply Keep.upd (hm := rfl) | split | fail_if_no_progress dsimp only)

theorem keep_reachActive (x1) {r s : State} (h : Keep r s) : Keep r (@reachActive x1 s) := by
  simp only [reachActive]
  repeat' with_reducible (first | exact h | exact Keep.refl _ | apply keep_startTrain | apply keep_setTx | (apply Keep.foldl; intro _ _ h) | fail_if_no_progress apply Keep.upd (hm := rfl) | split | fail_if_no_progress dsimp only)

theorem keep_stepAmp (x1) {r s : State} (h : Keep r s) : Keep r (@stepAmp x1 s) := by
  simp only [stepAmp]
  repeat' with_reducible (first | exact h | exact Keep.refl _ | apply keep_setTx | apply keep_discardHeld | apply keep_reachActive | apply keep_setAmp | (apply Keep.foldl; intro _ _ h) | fail_if_no_progress apply Keep.upd (hm := rfl) | split | fail_if_no_progress dsimp only)

theorem keep_afterRamps (x1) {r s : State} (h : Keep r s) : Keep r (@afterRamps x1 s) := by
  simp only [afterRamps]
  repeat' with_reducible (first | exact h | exact Keep.refl _ | apply keep_loopSettle | apply keep_laneModeDone | (apply Keep.foldl; intro _ _ h) | fail_if_no_progress apply Keep.upd (hm := rfl) | split | fail_if_no_progress dsimp only)

theorem keep_sendSuperframes (x1) (x2) {r s : State} (h : Keep r s) : Keep r (@sendSuperframes x1 x2 s) := by
  simp only [sendSuperframes]
  repeat' with_reducible (first | exact h | exact Keep.refl _ | apply keep_emit | apply keep_setLane | apply keep_count | (apply Keep.foldl; intro _ _ h) | fail_if_no_progress apply Keep.upd (hm := rfl) | split | fail_if_no_progress dsimp only)

theorem keep_idleTx (x1) (x2) {r s : State} (h : Keep r s) : Keep r (@idleTx x1 x2 s) := by
  simp only [idleTx]
  repeat' with_reducible (first | exact h | exact Keep.refl _ | apply keep_emit | apply keep_setAmp | apply keep_setTx | apply keep_sendSuperframes | (apply Keep.foldl; intro _ _ h) | fail_if_no_progress apply Keep.upd (hm := rfl) | split | fail_if_no_progress dsimp only)

theorem keep_toTxIdle (x1) (x2) {r s : State} (h : Keep r s) : Keep r (@toTxIdle x1 x2 s) := by
  simp only [toTxIdle]
  repeat' with_reducible (first | exact h | exact Keep.refl _ | apply keep_idleTx | (apply Keep.foldl; intro _ _ h) | fail_if_no_progress apply Keep.upd (hm := rfl) | split | fail_if_no_progress dsimp only)

theorem keep_laneTrainBegin (x1) (x2) (x3) (x4) {r s : State} (h : Keep r s) : Keep r (@laneTrainBegin x1 x2 x3 x4 s) := by
  simp only [laneTrainBegin]
  repeat' with_reducible (first | exact h | exact Keep.refl _ | apply keep_complete | apply keep_modLane | apply keep_startTrain | apply keep_retrainRx | (apply Keep.foldl; intro _ _ h) | fail_if_no_progress apply Keep.upd (hm := rfl) | split | fail_if_no_progress dsimp only)

theorem keep_writeFirCtl (x1) (x2) {r s : State} (h : Keep r s) : Keep r (@writeFirCtl x1 x2 s) := by
  simp only [writeFirCtl]
  repeat' with_reducible (first | exact h | exact Keep.refl _ | apply keep_setFld | apply keep_rejectReg | (apply Keep.foldl; intro _ _ h) | fail_if_no_progress apply Keep.upd (hm := rfl) | split | fail_if_no_progress dsimp only)

theorem keep_handOver (x1) {r s : State} (h : Keep r s) : Keep r (@handOver x1 s) := by
  simp only [handOver]
  repeat' with_reducible (first | exact h | exact Keep.refl _ | apply keep_setFld | (apply Keep.foldl; intro _ _ h) | fail_if_no_progress apply Keep.upd (hm := rfl) | split | fail_if_no_progress dsimp only)

theorem keep_clearLane (x1) {r s : State} (h : Keep r s) : Keep r (@clearLane x1 s) := by
  simp only [clearLane]
  repeat' with_reducible (first | exact h | exact Keep.refl _ | apply keep_setLane | apply keep_resetAct | apply keep_resetRegs | apply keep_trackCal | (apply Keep.foldl; intro _ _ h) | fail_if_no_progress apply Keep.upd (hm := rfl) | split | fail_if_no_progress dsimp only)

theorem keep_resetLane (x1) {r s : State} (h : Keep r s) : Keep r (@resetLane x1 s) := by
  simp only [resetLane]
  repeat' with_reducible (first | exact h | exact Keep.refl _ | apply keep_endLaneCmds | apply keep_calAbandon | apply keep_discardHeld | apply keep_clearLane | (apply Keep.foldl; intro _ _ h) | fail_if_no_progress apply Keep.upd (hm := rfl) | split | fail_if_no_progress dsimp only)

theorem keep_endModeCmd (x1) (x2) {r s : State} (h : Keep r s) : Keep r (@endModeCmd x1 x2 s) := by
  simp only [endModeCmd]
  repeat' with_reducible (first | exact h | exact Keep.refl _ | apply keep_modLane | apply keep_setFld | apply keep_complete | (apply Keep.foldl; intro _ _ h) | fail_if_no_progress apply Keep.upd (hm := rfl) | split | fail_if_no_progress dsimp only)

theorem keep_writeLaneCtl (x1) (x2) {r s : State} (h : Keep r s) : Keep r (@writeLaneCtl x1 x2 s) := by
  simp only [writeLaneCtl]
  repeat' with_reducible (first | exact h | exact Keep.refl _ | apply keep_modLane | apply keep_setFld | apply keep_resetLane | apply keep_endModeCmd | apply keep_rejectReg | (apply Keep.foldl; intro _ _ h) | fail_if_no_progress apply Keep.upd (hm := rfl) | split | fail_if_no_progress dsimp only)

theorem keep_useCandidate (x1) (x2) {r s : State} (h : Keep r s) : Keep r (@useCandidate x1 x2 s) := by
  simp only [useCandidate]
  repeat' with_reducible (first | exact h | exact Keep.refl _ | apply keep_setFld | apply keep_modLane | (apply Keep.foldl; intro _ _ h) | fail_if_no_progress apply Keep.upd (hm := rfl) | split | fail_if_no_progress dsimp only)

theorem keep_agcStep (x1) (x2) {r s : State} (h : Keep r s) : Keep r (@agcStep x1 x2 s) := by
  simp only [agcStep]
  repeat' with_reducible (first | exact h | exact Keep.refl _ | apply keep_modLane | apply keep_setFld | (apply Keep.foldl; intro _ _ h) | fail_if_no_progress apply Keep.upd (hm := rfl) | split | fail_if_no_progress dsimp only)

theorem keep_agcWindow (x1) (x2) {r s : State} (h : Keep r s) : Keep r (@agcWindow x1 x2 s) := by
  simp only [agcWindow]
  repeat' with_reducible (first | exact h | exact Keep.refl _ | apply keep_agcFree | apply keep_agcStep | (apply Keep.foldl; intro _ _ h) | fail_if_no_progress apply Keep.upd (hm := rfl) | split | fail_if_no_progress dsimp only)

theorem keep_nextCandidate (x1) {r s : State} (h : Keep r s) : Keep r (@nextCandidate x1 s) := by
  simp only [nextCandidate]
  repeat' with_reducible (first | exact h | exact Keep.refl _ | apply keep_setLane | apply keep_useCandidate | (apply Keep.foldl; intro _ _ h) | fail_if_no_progress apply Keep.upd (hm := rfl) | split | fail_if_no_progress dsimp only)

theorem keep_candidateWindow (x1) (x2) {r s : State} (h : Keep r s) : Keep r (@candidateWindow x1 x2 s) := by
  simp only [candidateWindow]
  repeat' with_reducible (first | exact h | exact Keep.refl _ | apply keep_setLane | apply keep_nextCandidate | (apply Keep.foldl; intro _ _ h) | fail_if_no_progress apply Keep.upd (hm := rfl) | split | fail_if_no_progress dsimp only)

theorem keep_calLockGained (x1) {r s : State} (h : Keep r s) : Keep r (@calLockGained x1 s) := by
  simp only [calLockGained]
  repeat' with_reducible (first | exact h | exact Keep.refl _ | apply keep_setLane | apply keep_calStart | (apply Keep.foldl; intro _ _ h) | fail_if_no_progress apply Keep.upd (hm := rfl) | split | fail_if_no_progress dsimp only)

theorem keep_convergeWindow (x1) (x2) {r s : State} (h : Keep r s) : Keep r (@convergeWindow x1 x2 s) := by
  simp only [convergeWindow]
  repeat' with_reducible (first | exact h | exact Keep.refl _ | (intro _ k; simp only [id]; exact k) | apply keep_toAcquire | apply keep_retry | apply keep_setFld | apply keep_enterLocked | apply keep_calLockGained | apply keep_raise_ | apply keep_setLane | (apply Keep.foldl; intro _ _ h) | fail_if_no_progress apply Keep.upd (hm := rfl) | split | fail_if_no_progress dsimp only)

theorem keep_lockedWindow (x1) (x2) {r s : State} (h : Keep r s) : Keep r (@lockedWindow x1 x2 s) := by
  simp only [lockedWindow]
  repeat' with_reducible (first | exact h | exact Keep.refl _ | apply keep_toAcquire | apply keep_raise_ | apply keep_setLane | (apply Keep.foldl; intro _ _ h) | fail_if_no_progress apply Keep.upd (hm := rfl) | split | fail_if_no_progress dsimp only)

theorem keep_add48 (x1) (x2) (x3) {r s : State} (h : Keep r s) : Keep r (@add48 x1 x2 x3 s) := by
  simp only [add48]
  repeat' with_reducible (first | exact h | exact Keep.refl _ | apply keep_setFld | apply keep_setReg | (apply Keep.foldl; intro _ _ h) | fail_if_no_progress apply Keep.upd (hm := rfl) | split | fail_if_no_progress dsimp only)

theorem keep_addInner (x1) (x2) {r s : State} (h : Keep r s) : Keep r (@addInner x1 x2 s) := by
  simp only [addInner]
  repeat' with_reducible (first | exact h | exact Keep.refl _ | apply keep_add48 | (apply Keep.foldl; intro _ _ h) | fail_if_no_progress apply Keep.upd (hm := rfl) | split | fail_if_no_progress dsimp only)

theorem keep_toRxIdle (x1) {r s : State} (h : Keep r s) : Keep r (@toRxIdle x1 s) := by
  simp only [toRxIdle]
  repeat' with_reducible (first | exact h | exact Keep.refl _ | apply keep_setFld | apply keep_setRx | apply keep_setLane | apply keep_addInner | (apply Keep.foldl; intro _ _ h) | fail_if_no_progress apply Keep.upd (hm := rfl) | split | fail_if_no_progress dsimp only)

theorem keep_ckRestart (x1) {r s : State} (h : Keep r s) : Keep r (@ckRestart x1 s) := by
  simp only [ckRestart]
  repeat' with_reducible (first | exact h | exact Keep.refl _ | (apply Keep.foldl; intro _ _ h) | fail_if_no_progress apply Keep.upd (hm := rfl) | split | fail_if_no_progress dsimp only)

theorem keep_ckFeed (x1) (x2) {r s : State} (h : Keep r s) : Keep r (@ckFeed x1 x2 s) := by
  simp only [ckFeed]
  repeat' with_reducible (first | exact h | exact Keep.refl _ | (apply Keep.foldl; intro _ _ h) | fail_if_no_progress apply Keep.upd (hm := rfl) | split | fail_if_no_progress dsimp only)

theorem keep_ckResult (x1) {r s : State} (h : Keep r s) : Keep r (@ckResult x1 s) := by
  simp only [ckResult]
  repeat' with_reducible (first | exact h | exact Keep.refl _ | apply keep_resultReady | apply keep_setReg | apply keep_setFld | (apply Keep.foldl; intro _ _ h) | fail_if_no_progress apply Keep.upd (hm := rfl) | split | fail_if_no_progress dsimp only)

theorem keep_writeCkCtl (x1) (x2) {r s : State} (h : Keep r s) : Keep r (@writeCkCtl x1 x2 s) := by
  simp only [writeCkCtl]
  repeat' with_reducible (first | exact h | exact Keep.refl _ | apply keep_ckResult | apply keep_ckRestart | apply keep_setReg | apply keep_rejectReg | (apply Keep.foldl; intro _ _ h) | fail_if_no_progress apply Keep.upd (hm := rfl) | split | fail_if_no_progress dsimp only)

theorem keep_writeCkData (x1) (x2) {r s : State} (h : Keep r s) : Keep r (@writeCkData x1 x2 s) := by
  simp only [writeCkData]
  repeat' with_reducible (first | exact h | exact Keep.refl _ | apply keep_ckFeed | apply keep_rejectReg | (apply Keep.foldl; intro _ _ h) | fail_if_no_progress apply Keep.upd (hm := rfl) | split | fail_if_no_progress dsimp only)

theorem keep_writeCkTail (x1) (x2) {r s : State} (h : Keep r s) : Keep r (@writeCkTail x1 x2 s) := by
  simp only [writeCkTail]
  repeat' with_reducible (first | exact h | exact Keep.refl _ | apply keep_ckFeed | apply keep_rejectReg | (apply Keep.foldl; intro _ _ h) | fail_if_no_progress apply Keep.upd (hm := rfl) | split | fail_if_no_progress dsimp only)

theorem keep_requestState (x1) {r s : State} (h : Keep r s) : Keep r (@requestState x1 s) := by
  simp only [requestState]
  repeat' with_reducible (first | exact h | exact Keep.refl _ | apply keep_startTransition | apply keep_setFld | (apply Keep.foldl; intro _ _ h) | fail_if_no_progress apply Keep.upd (hm := rfl) | split | fail_if_no_progress dsimp only)

theorem keep_pwrEval {r s : State} (h : Keep r s) : Keep r (@pwrEval s) := by
  simp only [pwrEval]
  repeat' with_reducible (first | exact h | exact Keep.refl _ | apply keep_requestState | apply keep_wake | apply keep_modPwr | (apply Keep.foldl; intro _ _ h) | fail_if_no_progress apply Keep.upd (hm := rfl) | split | fail_if_no_progress dsimp only)

theorem keep_enterHold {r s : State} (h : Keep r s) : Keep r (@enterHold s) := by
  simp only [enterHold]
  repeat' with_reducible (first | exact h | exact Keep.refl _ | apply keep_enterSelfRefresh | apply keep_tick | apply keep_idleTx | apply keep_toRxIdle | (apply Keep.foldl; intro _ _ h) | fail_if_no_progress apply Keep.upd (hm := rfl) | split | fail_if_no_progress dsimp only)

theorem keep_dropHint {r s : State} (h : Keep r s) : Keep r (@dropHint s) := by
  simp only [dropHint]
  repeat' with_reducible (first | exact h | exact Keep.refl _ | apply keep_modPwr | apply keep_setReg | (apply Keep.foldl; intro _ _ h) | fail_if_no_progress apply Keep.upd (hm := rfl) | split | fail_if_no_progress dsimp only)

theorem keep_perstPower {r s : State} (h : Keep r s) : Keep r (@perstPower s) := by
  simp only [perstPower]
  repeat' with_reducible (first | exact h | exact Keep.refl _ | apply keep_modPwr | apply keep_setReg | apply keep_dropHint | (apply Keep.foldl; intro _ _ h) | fail_if_no_progress apply Keep.upd (hm := rfl) | split | fail_if_no_progress dsimp only)

theorem keep_startRound (x1) {r s : State} (h : Keep r s) : Keep r (@startRound x1 s) := by
  simp only [startRound]
  repeat' with_reducible (first | exact h | exact Keep.refl _ | apply keep_addSat | apply keep_raise_ | apply keep_modMon | (apply Keep.foldl; intro _ _ h) | fail_if_no_progress apply Keep.upd (hm := rfl) | split | fail_if_no_progress dsimp only)

theorem keep_delaysEnd {r s : State} (h : Keep r s) : Keep r (@delaysEnd s) := by
  simp only [delaysEnd]
  repeat' with_reducible (first | exact h | exact Keep.refl _ | apply keep_modMon | apply keep_startRound | (apply Keep.foldl; intro _ _ h) | fail_if_no_progress apply Keep.upd (hm := rfl) | split | fail_if_no_progress dsimp only)

theorem keep_idleTick {r s : State} (h : Keep r s) : Keep r (@idleTick s) := by
  simp only [idleTick]
  repeat' with_reducible (first | exact h | exact Keep.refl _ | apply keep_delaysEnd | apply keep_pwrEval | apply keep_pass | apply keep_tbTick | (apply Keep.foldl; intro _ _ h) | fail_if_no_progress apply Keep.upd (hm := rfl) | split | fail_if_no_progress dsimp only)

end Sys2Proof.Machine
end

