-- ==== Sys2Proof/Laws/KeepLoom.lean ====
section
/-! SUPPORT. What no operation touches: the queue of commands, the one-way order of the fuses and the canonical form of the
beam memory (`Keep`), for the operations of frames and ingress. -/

set_option Elab.async false

namespace Sys2Proof.Machine

theorem keep_deliverBuf {x1 x2 x3 x4 x5} {r s t : State} (e : deliverBuf x1 x2 x3 x4 x5 s = some t) (h : Keep r s) : Keep r t := by
  simp only [deliverBuf] at e
  split at e
  · cases e
  · split at e
    · cases e
    · split at e
      · cases e
      · cases e
        exact keep_postCompl _ (keep_modQp _ _ h)

theorem keep_readHdr (x1) (x2) (x3) {r s : State} (h : Keep r s) : Keep r (@readHdr x1 x2 x3 s).2 := by
  simp only [readHdr]
  repeat' with_reducible (first | exact h | exact Keep.refl _ | apply keep_beamRead | (apply Keep.foldl; intro _ _ h) | fail_if_no_progress apply Keep.upd (hm := rfl) | split | fail_if_no_progress dsimp only)

theorem keep_readHdr_e {x1} {x2} {x3} {r s t : State} {a0} (e : @readHdr x1 x2 x3 s = (a0, t)) (h : Keep r s) : Keep r t := by
  have := keep_readHdr x1 x2 x3 h
  rw [e] at this
  exact this

theorem keep_setIsp {r s : State} (x1) (x2) (h : Keep r s) : Keep r (@State.setIsp s x1 x2) := by
  simp only [State.setIsp]
  repeat' with_reducible (first | exact h | exact Keep.refl _ | apply keep_modLoom | (apply Keep.foldl; intro _ _ h) | fail_if_no_progress apply Keep.upd (hm := rfl) | split | fail_if_no_progress dsimp only)

theorem keep_setEsp {r s : State} (x1) (x2) (h : Keep r s) : Keep r (@State.setEsp s x1 x2) := by
  simp only [State.setEsp]
  repeat' with_reducible (first | exact h | exact Keep.refl _ | apply keep_modLoom | (apply Keep.foldl; intro _ _ h) | fail_if_no_progress apply Keep.upd (hm := rfl) | split | fail_if_no_progress dsimp only)

theorem keep_portNotice (x1) (x2) (x3) (x4) (x5) {r s : State} (h : Keep r s) : Keep r (@portNotice x1 x2 x3 x4 x5 s) := by
  simp only [portNotice]
  repeat' with_reducible (first | exact h | exact Keep.refl _ | apply keep_notice | (apply Keep.foldl; intro _ _ h) | fail_if_no_progress apply Keep.upd (hm := rfl) | split | fail_if_no_progress dsimp only)

theorem keep_showIngress {r s : State} (h : Keep r s) : Keep r (@showIngress s) := by
  simp only [showIngress]
  repeat' with_reducible (first | exact h | exact Keep.refl _ | apply keep_setFld | (apply Keep.foldl; intro _ _ h) | fail_if_no_progress apply Keep.upd (hm := rfl) | split | fail_if_no_progress dsimp only)

theorem keep_ispInstall (x1) (x2) (x3) (x4) {r s : State} (h : Keep r s) : Keep r (@ispInstall x1 x2 x3 x4 s) := by
  simp only [ispInstall]
  repeat' with_reducible (first | exact h | exact Keep.refl _ | apply keep_showIngress | apply keep_complete | apply keep_modBolt | apply keep_setIsp | (apply Keep.foldl; intro _ _ h) | fail_if_no_progress apply Keep.upd (hm := rfl) | split | fail_if_no_progress dsimp only)

theorem keep_ispRemove (x1) (x2) (x3) {r s : State} (h : Keep r s) : Keep r (@ispRemove x1 x2 x3 s) := by
  simp only [ispRemove]
  repeat' with_reducible (first | exact h | exact Keep.refl _ | apply keep_setIsp | apply keep_showIngress | (apply Keep.foldl; intro _ _ h) | fail_if_no_progress apply Keep.upd (hm := rfl) | split | fail_if_no_progress dsimp only)

theorem keep_ispFree (x1) (x2) {r s : State} (h : Keep r s) : Keep r (@ispFree x1 x2 s) := by
  simp only [ispFree]
  repeat' with_reducible (first | exact h | exact Keep.refl _ | apply keep_setIsp | apply keep_modBolt | (apply Keep.foldl; intro _ _ h) | fail_if_no_progress apply Keep.upd (hm := rfl) | split | fail_if_no_progress dsimp only)

theorem keep_flrIngress (x1) {r s : State} (h : Keep r s) : Keep r (@flrIngress x1 s) := by
  simp only [flrIngress]
  repeat' with_reducible (first | exact h | exact Keep.refl _ | apply keep_ispRemove | (apply Keep.foldl; intro _ _ h) | fail_if_no_progress apply Keep.upd (hm := rfl) | split | fail_if_no_progress dsimp only)

theorem keep_countIsp (x1) (x2) (x3) (x4) {r s : State} (h : Keep r s) : Keep r (@countIsp x1 x2 x3 x4 s) := by
  simp only [countIsp]
  repeat' with_reducible (first | exact h | exact Keep.refl _ | apply keep_countLoom | (apply Keep.foldl; intro _ _ h) | fail_if_no_progress apply Keep.upd (hm := rfl) | split | fail_if_no_progress dsimp only)

theorem keep_legValid (x1) (x2) {r s : State} (h : Keep r s) : Keep r (@legValid x1 x2 s) := by
  simp only [legValid]
  repeat' with_reducible (first | exact h | exact Keep.refl _ | apply keep_portNotice | apply keep_setIsp | (apply Keep.foldl; intro _ _ h) | fail_if_no_progress apply Keep.upd (hm := rfl) | split | fail_if_no_progress dsimp only)

theorem keep_slotStops (x1) (x2) (x3) (x4) {r s : State} (h : Keep r s) : Keep r (@slotStops x1 x2 x3 x4 s) := by
  simp only [slotStops]
  repeat' with_reducible (first | exact h | exact Keep.refl _ | apply keep_setIsp | apply keep_countIsp | (apply Keep.foldl; intro _ _ h) | fail_if_no_progress apply Keep.upd (hm := rfl) | split | fail_if_no_progress dsimp only)

theorem keep_writeHdr (x1) (x2) {r s : State} (h : Keep r s) : Keep r (@writeHdr x1 x2 s) := by
  simp only [writeHdr]
  repeat' with_reducible (first | exact h | exact Keep.refl _ | apply keep_beamWrite | (apply Keep.foldl; intro _ _ h) | fail_if_no_progress apply Keep.upd (hm := rfl) | split | fail_if_no_progress dsimp only)

theorem keep_setShut {r s : State} (x1) (x2) (h : Keep r s) : Keep r (@State.setShut s x1 x2) := by
  simp only [State.setShut]
  repeat' with_reducible (first | exact h | exact Keep.refl _ | (apply Keep.foldl; intro _ _ h) | fail_if_no_progress apply Keep.upd (hm := rfl) | split | fail_if_no_progress dsimp only)

theorem keep_modShut {r s : State} (x1) (x2) (h : Keep r s) : Keep r (@State.modShut s x1 x2) := by
  simp only [State.modShut]
  repeat' with_reducible (first | exact h | exact Keep.refl _ | apply keep_setShut | (apply Keep.foldl; intro _ _ h) | fail_if_no_progress apply Keep.upd (hm := rfl) | split | fail_if_no_progress dsimp only)

theorem keep_feedPush (x1) (x2) (x3) (x4) (x5) (x6) {r s : State} (h : Keep r s) : Keep r (@feedPush x1 x2 x3 x4 x5 x6 s) := by
  simp only [feedPush]
  repeat' with_reducible (first | exact h | exact Keep.refl _ | apply keep_setShut | apply keep_countIsp | apply keep_raise_ | (apply Keep.foldl; intro _ _ h) | fail_if_no_progress apply Keep.upd (hm := rfl) | split | fail_if_no_progress dsimp only)

theorem keep_feedDrain (k p) {r s : State} (h : Keep r s) : Keep r (feedDrain k p s) := by
  induction k generalizing s with
  | zero => exact h
  | succ k ih =>
    simp only [feedDrain]
    repeat' with_reducible (first | exact h | apply ih | apply keep_feedPush | apply keep_setIsp | split)

theorem keep_feedDeliver (x1) (x2) (x3) {r s : State} (h : Keep r s) : Keep r (@feedDeliver x1 x2 x3 s) := by
  simp only [feedDeliver]
  repeat' with_reducible (first | exact h | exact Keep.refl _ | apply keep_setIsp | apply keep_feedDrain | (apply Keep.foldl; intro _ _ h) | fail_if_no_progress apply Keep.upd (hm := rfl) | split | fail_if_no_progress dsimp only)

theorem keep_writeIngCtl (x1) {r s : State} (h : Keep r s) : Keep r (@writeIngCtl x1 s) := by
  simp only [writeIngCtl]
  repeat' with_reducible (first | exact h | exact Keep.refl _ | apply keep_setReg | apply keep_rejectReg | (apply Keep.foldl; intro _ _ h) | fail_if_no_progress apply Keep.upd (hm := rfl) | split | fail_if_no_progress dsimp only)

theorem keep_writeIspSel (x1) {r s : State} (h : Keep r s) : Keep r (@writeIspSel x1 s) := by
  simp only [writeIspSel]
  repeat' with_reducible (first | exact h | exact Keep.refl _ | apply keep_resultPending | apply keep_modLoom | apply keep_setFld | apply keep_rejectReg | (apply Keep.foldl; intro _ _ h) | fail_if_no_progress apply Keep.upd (hm := rfl) | split | fail_if_no_progress dsimp only)

theorem keep_ispReady {r s : State} (h : Keep r s) : Keep r (@ispReady s) := by
  simp only [ispReady]
  repeat' with_reducible (first | exact h | exact Keep.refl _ | apply keep_resultReady | apply keep_setReg | apply keep_modLoom | (apply Keep.foldl; intro _ _ h) | fail_if_no_progress apply Keep.upd (hm := rfl) | split | fail_if_no_progress dsimp only)

end Sys2Proof.Machine
end

