-- ==== Sys2Proof/Laws/KeepEngines.lean ====
section
/-! SUPPORT. What no operation touches: the queue of commands, the one-way order of the fuses and the canonical form of the
beam memory (`Keep`), for the operations of shuttles, drafts, self-test and crews. -/

set_option Elab.async false

namespace Sys2Proof.Machine

theorem keep_setSv {r s : State} (x1) (x2) (x3) (h : Keep r s) : Keep r (@State.setSv s x1 x2 x3) := by
  simp only [State.setSv]
  repeat' with_reducible (first | exact h | exact Keep.refl _ | apply keep_setFld | apply keep_modShut | (apply Keep.foldl; intro _ _ h) | fail_if_no_progress apply Keep.upd (hm := rfl) | split | fail_if_no_progress dsimp only)

theorem keep_setMbox {r s : State} (x1) (x2) (h : Keep r s) : Keep r (@State.setMbox s x1 x2) := by
  simp only [State.setMbox]
  repeat' with_reducible (first | exact h | exact Keep.refl _ | apply keep_setFld | apply keep_modShut | (apply Keep.foldl; intro _ _ h) | fail_if_no_progress apply Keep.upd (hm := rfl) | split | fail_if_no_progress dsimp only)

theorem keep_readSv (x1) (x2) {r s : State} (h : Keep r s) : Keep r (@readSv x1 x2 s).2 := by
  simp only [readSv]
  repeat' with_reducible (first | exact h | exact Keep.refl _ | apply keep_setMbox | apply keep_tick | (apply Keep.foldl; intro _ _ h) | fail_if_no_progress apply Keep.upd (hm := rfl) | split | fail_if_no_progress dsimp only)

theorem keep_readSv_e {x1} {x2} {r s t : State} {a0} (e : @readSv x1 x2 s = (a0, t)) (h : Keep r s) : Keep r t := by
  have := keep_readSv x1 x2 h
  rw [e] at this
  exact this

theorem keep_modSr {r s : State} (x1) (x2) (h : Keep r s) : Keep r (@State.modSr s x1 x2) := by
  simp only [State.modSr]
  repeat' with_reducible (first | exact h | exact Keep.refl _ | apply keep_setSv | (apply Keep.foldl; intro _ _ h) | fail_if_no_progress apply Keep.upd (hm := rfl) | split | fail_if_no_progress dsimp only)

theorem keep_bumpPtr (x1) (x2) (x3) (x4) {r s : State} (h : Keep r s) : Keep r (@bumpPtr x1 x2 x3 x4 s) := by
  simp only [bumpPtr]
  repeat' with_reducible (first | exact h | exact Keep.refl _ | apply keep_setSv | (apply Keep.foldl; intro _ _ h) | fail_if_no_progress apply Keep.upd (hm := rfl) | split | fail_if_no_progress dsimp only)

theorem keep_setXy {r s : State} (x1) (x2) (x3) (x4) (h : Keep r s) : Keep r (@State.setXy s x1 x2 x3 x4) := by
  simp only [State.setXy]
  repeat' with_reducible (first | exact h | exact Keep.refl _ | apply keep_modShut | (apply Keep.foldl; intro _ _ h) | fail_if_no_progress apply Keep.upd (hm := rfl) | split | fail_if_no_progress dsimp only)

theorem keep_writeBlock (x1) (x2) (x3) {r s : State} (h : Keep r s) : Keep r (@writeBlock x1 x2 x3 s) := by
  simp only [writeBlock]
  repeat' with_reducible (first | exact h | exact Keep.refl _ | apply keep_modBolt | apply keep_tick | apply keep_beamWrite | (apply Keep.foldl; intro _ _ h) | fail_if_no_progress apply Keep.upd (hm := rfl) | split | fail_if_no_progress dsimp only)

theorem keep_setStr {r s : State} (x1) (x2) (x3) (h : Keep r s) : Keep r (@State.setStr s x1 x2 x3) := by
  simp only [State.setStr]
  repeat' with_reducible (first | exact h | exact Keep.refl _ | apply keep_modShut | (apply Keep.foldl; intro _ _ h) | fail_if_no_progress apply Keep.upd (hm := rfl) | split | fail_if_no_progress dsimp only)

theorem keep_endStreams (x1) {r s : State} (h : Keep r s) : Keep r (@endStreams x1 s) := by
  simp only [endStreams]
  repeat' with_reducible (first | exact h | exact Keep.refl _ | apply keep_modShut | apply keep_modBolt | apply keep_writeBlock | (apply Keep.foldl; intro _ _ h) | fail_if_no_progress apply Keep.upd (hm := rfl) | split | fail_if_no_progress dsimp only)

theorem keep_setShState (x1) (x2) {r s : State} (h : Keep r s) : Keep r (@State.setShState s x1 x2) := by
  simp only [State.setShState]
  repeat' with_reducible (first | exact h | exact Keep.refl _ | apply keep_setFld | apply keep_gateShuttles | (apply Keep.foldl; intro _ _ h) | fail_if_no_progress apply Keep.upd (hm := rfl) | split | fail_if_no_progress dsimp only)

theorem keep_stopShuttle (x1) (x2) (x3) {r s : State} (h : Keep r s) : Keep r (@stopShuttle x1 x2 x3 s) := by
  simp only [stopShuttle]
  repeat' with_reducible (first | exact h | exact Keep.refl _ | apply keep_servoCheck | apply keep_setFld | apply keep_setShState | apply keep_modShut | apply keep_endStreams | (apply Keep.foldl; intro _ _ h) | fail_if_no_progress apply Keep.upd (hm := rfl) | split | fail_if_no_progress dsimp only)

theorem keep_shFault (x1) (x2) {r s : State} (h : Keep r s) : Keep r (@shFault x1 x2 s) := by
  simp only [shFault]
  repeat' with_reducible (first | exact h | exact Keep.refl _ | apply keep_raise_ | apply keep_setFld | apply keep_stopShuttle | (apply Keep.foldl; intro _ _ h) | fail_if_no_progress apply Keep.upd (hm := rfl) | split | fail_if_no_progress dsimp only)

theorem keep_setPc {r s : State} (x1) (x2) (h : Keep r s) : Keep r (@State.setPc s x1 x2) := by
  simp only [State.setPc]
  repeat' with_reducible (first | exact h | exact Keep.refl _ | apply keep_setFld | (apply Keep.foldl; intro _ _ h) | fail_if_no_progress apply Keep.upd (hm := rfl) | split | fail_if_no_progress dsimp only)

theorem keep_passEnd (k n pc) {r s : State} (h : Keep r s) : Keep r (passEnd k n pc s) := by
  induction k generalizing s with
  | zero => exact keep_setPc _ _ h
  | succ k ih =>
    simp only [passEnd]
    repeat' with_reducible (first | exact h | apply ih | apply keep_modShut | apply keep_setPc | apply keep_setSv | split)

theorem keep_advance (x1) (x2) {r s : State} (h : Keep r s) : Keep r (@advance x1 x2 s) := by
  simp only [advance]
  repeat' with_reducible (first | exact h | exact Keep.refl _ | apply keep_passEnd | apply keep_modShut | (apply Keep.foldl; intro _ _ h) | fail_if_no_progress apply Keep.upd (hm := rfl) | split | fail_if_no_progress dsimp only)

theorem keep_tagIns (x1) (x2) {r s : State} (h : Keep r s) : Keep r (@tagIns x1 x2 s) := by
  simp only [tagIns]
  repeat' with_reducible (first | exact h | exact Keep.refl _ | apply keep_resultReady | apply keep_count | apply keep_setFld | apply keep_tick | apply keep_setShut | (apply Keep.foldl; intro _ _ h) | fail_if_no_progress apply Keep.upd (hm := rfl) | split | fail_if_no_progress dsimp only)

theorem keep_runIns (p cls) {e : State → State × InsEnd} {r s : State} (he : ∀ a, Keep r a → Keep r (e a).1) (h : Keep r s) :
    Keep r (runIns p cls e s) := by
  have hi : ∀ pc a, Keep r a → Keep r (if cls = 2 then count .sh p.sh 2 {} 1 (count .sh p.sh 1 {} 1 (tagIns p.sh pc a))
      else if cls = 3 then count .sh p.sh 2 {} 2 (count .sh p.sh 1 {} 1 (tagIns p.sh pc a)) else count .sh p.sh 1 {} 1 (tagIns p.sh pc a)) := by
    intro pc a ha
    have k : Keep r (count .sh p.sh 1 {} 1 (tagIns p.sh pc a)) := keep_count _ _ _ _ _ (keep_tagIns _ _ ha)
    split
    · exact keep_count _ _ _ _ _ k
    · split
      · exact keep_count _ _ _ _ _ k
      · exact k
  have hf (kind) : Keep r (shFault p.sh kind (s.setFld (fSh_STAT_BLOCKED p.sh) 0)) := keep_shFault _ _ (keep_setFld _ _ h)
  simp only [runIns]
  split
  · exact h
  split
  · exact hf _
  split
  · exact hf _
  split
  · exact h
  split
  · exact hf _
  have hb := he _ (keep_setFld (fSh_STAT_BLOCKED p.sh) 0 h)
  split <;> rename_i heq <;> rw [heq] at hb
  · exact keep_advance _ _ (hi _ _ hb)
  · exact keep_setPc _ _ (hi _ _ hb)
  · exact keep_setFld _ _ (keep_setFld _ _ h)
  · exact hf _
  · exact keep_raise_ _ (keep_stopShuttle _ _ _ (keep_setPc _ _ (hi _ _ hb)))

theorem keep_aluBody (x1) (x2) (x3) (x4) (x5) {r s : State} (h : Keep r s) : Keep r (@aluBody x1 x2 x3 x4 x5 s).1 := by
  simp only [aluBody]
  repeat' with_reducible (first | exact h | exact Keep.refl _ | apply keep_setSv | apply keep_modSr | (apply Keep.foldl; intro _ _ h) | fail_if_no_progress apply Keep.upd (hm := rfl) | split | fail_if_no_progress dsimp only)

theorem keep_aluBody_e {x1} {x2} {x3} {x4} {x5} {r s t : State} {a0} (e : @aluBody x1 x2 x3 x4 x5 s = (t, a0)) (h : Keep r s) : Keep r t := by
  have := keep_aluBody x1 x2 x3 x4 x5 h
  rw [e] at this
  exact this

theorem keep_macOne (n op i d1 d2 b) {r s : State} (h : Keep r s) : Keep r (macOne n op i d1 d2 b s) := by
  simp only [macOne]
  exact keep_modSr _ _ (keep_setSv _ _ _ h)

theorem keep_pxfer (n y t b) {r s : State} (h : Keep r s) : Keep r (pxfer n y t b s) := by
  simp only [pxfer]
  repeat' with_reducible (first | exact h | exact Keep.refl _ | apply keep_bumpPtr | apply keep_setSv | apply keep_setXy | (apply Keep.foldl; intro _ _ h) | fail_if_no_progress apply Keep.upd (hm := rfl) | split | fail_if_no_progress dsimp only)

theorem keep_dualBody (x1) (x2) {r s : State} (h : Keep r s) : Keep r (@dualBody x1 x2 s).1 := by
  simp only [dualBody]
  repeat' with_reducible (first | exact h | exact Keep.refl _ | apply keep_setSv | apply keep_tick | apply keep_pxfer | apply keep_macOne | (apply Keep.foldl; intro _ _ h) | fail_if_no_progress apply Keep.upd (hm := rfl) | split | fail_if_no_progress dsimp only)

theorem keep_dualBody_e {x1} {x2} {r s t : State} {a0} (e : @dualBody x1 x2 s = (t, a0)) (h : Keep r s) : Keep r t := by
  have := keep_dualBody x1 x2 h
  rw [e] at this
  exact this

theorem keep_putValue (x1) (x2) (x3) (x4) {r s : State} (h : Keep r s) : Keep r (@putValue x1 x2 x3 x4 s) := by
  simp only [putValue]
  repeat' with_reducible (first | exact h | exact Keep.refl _ | apply keep_modSr | apply keep_setSv | (apply Keep.foldl; intro _ _ h) | fail_if_no_progress apply Keep.upd (hm := rfl) | split | fail_if_no_progress dsimp only)

theorem keep_xferBody (x1) (x2) {r s : State} (h : Keep r s) : Keep r (@xferBody x1 x2 s).1 := by
  simp only [xferBody]
  repeat' with_reducible (first | exact h | exact Keep.refl _ | apply keep_setXy | apply keep_bumpPtr | apply keep_readSv | apply keep_modSr | apply keep_putValue | (refine keep_readSv_e (by assumption) ?_) | (apply Keep.foldl; intro _ _ h) | fail_if_no_progress apply Keep.upd (hm := rfl) | split | fail_if_no_progress dsimp only)

theorem keep_xferBody_e {x1} {x2} {r s t : State} {a0} (e : @xferBody x1 x2 s = (t, a0)) (h : Keep r s) : Keep r t := by
  have := keep_xferBody x1 x2 h
  rw [e] at this
  exact this

theorem keep_doBody (x1) (x2) (x3) {r s : State} (h : Keep r s) : Keep r (@doBody x1 x2 x3 s).1 := by
  simp only [doBody]
  repeat' with_reducible (first | exact h | exact Keep.refl _ | apply keep_modShut | apply keep_setSv | apply keep_passEnd | (apply Keep.foldl; intro _ _ h) | fail_if_no_progress apply Keep.upd (hm := rfl) | split | fail_if_no_progress dsimp only)

theorem keep_doBody_e {x1} {x2} {x3} {r s t : State} {a0} (e : @doBody x1 x2 x3 s = (t, a0)) (h : Keep r s) : Keep r t := by
  have := keep_doBody x1 x2 x3 h
  rw [e] at this
  exact this

theorem keep_repBody (x1) (x2) {r s : State} (h : Keep r s) : Keep r (@repBody x1 x2 s).1 := by
  simp only [repBody]
  repeat' with_reducible (first | exact h | exact Keep.refl _ | apply keep_modShut | apply keep_passEnd | (apply Keep.foldl; intro _ _ h) | fail_if_no_progress apply Keep.upd (hm := rfl) | split | fail_if_no_progress dsimp only)

theorem keep_repBody_e {x1} {x2} {r s t : State} {a0} (e : @repBody x1 x2 s = (t, a0)) (h : Keep r s) : Keep r t := by
  have := keep_repBody x1 x2 h
  rw [e] at this
  exact this

theorem keep_closeLevels (x1) (x2) {r s : State} (h : Keep r s) : Keep r (@closeLevels x1 x2 s) := by
  simp only [closeLevels]
  repeat' with_reducible (first | exact h | exact Keep.refl _ | apply keep_modShut | (apply Keep.foldl; intro _ _ h) | fail_if_no_progress apply Keep.upd (hm := rfl) | split | fail_if_no_progress dsimp only)

theorem keep_refWord (x1) (x2) (x3) {r s : State} (h : Keep r s) : Keep r (@refWord x1 x2 x3 s) := by
  simp only [refWord]
  repeat' with_reducible (first | exact h | exact Keep.refl _ | apply keep_modShut | apply keep_setStr | apply keep_raise_ | (apply Keep.foldl; intro _ _ h) | fail_if_no_progress apply Keep.upd (hm := rfl) | split | fail_if_no_progress dsimp only)

theorem keep_outBody (x1) (x2) (x3) (x4) {r s : State} (h : Keep r s) : Keep r (@outBody x1 x2 x3 x4 s).1 := by
  simp only [outBody]
  repeat' with_reducible (first | exact h | exact Keep.refl _ | apply keep_setStr | apply keep_modSr | (apply Keep.foldl; intro _ _ h) | fail_if_no_progress apply Keep.upd (hm := rfl) | split | fail_if_no_progress dsimp only)

theorem keep_outBody_e {x1} {x2} {x3} {x4} {r s t : State} {a0} (e : @outBody x1 x2 x3 x4 s = (t, a0)) (h : Keep r s) : Keep r t := by
  have := keep_outBody x1 x2 x3 x4 h
  rw [e] at this
  exact this

theorem keep_mailTo {x1 x2 x3} {r s t : State} (e : mailTo x1 x2 x3 s = some t) (h : Keep r s) : Keep r t := by
  simp only [mailTo] at e
  split at e
  · cases e
  · cases e
    exact keep_setMbox _ _ h

theorem keep_sendBody (x1) (x2) (x3) (x4) {r s : State} (h : Keep r s) : Keep r (@sendBody x1 x2 x3 x4 s).1 := by
  simp only [sendBody]
  repeat' with_reducible (first | exact h | exact Keep.refl _ | apply keep_addSat | apply keep_raise_ | (refine keep_mailTo (by assumption) ?_) | apply keep_setFld | apply keep_notice | apply keep_modSr | (apply Keep.foldl; intro _ _ h) | fail_if_no_progress apply Keep.upd (hm := rfl) | split | fail_if_no_progress dsimp only)

theorem keep_sendBody_e {x1} {x2} {x3} {x4} {r s t : State} {a0} (e : @sendBody x1 x2 x3 x4 s = (t, a0)) (h : Keep r s) : Keep r t := by
  have := keep_sendBody x1 x2 x3 x4 h
  rw [e] at this
  exact this

theorem keep_loadImage (x1) (x2) {r s : State} (h : Keep r s) : Keep r (@loadImage x1 x2 s) := by
  simp only [loadImage]
  repeat' with_reducible (first | exact h | exact Keep.refl _ | apply keep_setFld | apply keep_setShut | (apply Keep.foldl; intro _ _ h) | fail_if_no_progress apply Keep.upd (hm := rfl) | split | fail_if_no_progress dsimp only)

theorem keep_claimBolts (x1) (x2) {r s : State} (h : Keep r s) : Keep r (@claimBolts x1 x2 s) := by
  simp only [claimBolts]
  repeat' with_reducible (first | exact h | exact Keep.refl _ | apply keep_modBolt | (apply Keep.foldl; intro _ _ h) | fail_if_no_progress apply Keep.upd (hm := rfl) | split | fail_if_no_progress dsimp only)

theorem keep_releaseBolts (x1) {r s : State} (h : Keep r s) : Keep r (@releaseBolts x1 s) := by
  simp only [releaseBolts]
  repeat' with_reducible (first | exact h | exact Keep.refl _ | apply keep_modBolt | (apply Keep.foldl; intro _ _ h) | fail_if_no_progress apply Keep.upd (hm := rfl) | split | fail_if_no_progress dsimp only)

theorem keep_freshStart (x1) {r s : State} (h : Keep r s) : Keep r (@freshStart x1 s) := by
  simp only [freshStart]
  repeat' with_reducible (first | exact h | exact Keep.refl _ | apply keep_setPc | apply keep_setSv | apply keep_setShut | (apply Keep.foldl; intro _ _ h) | fail_if_no_progress apply Keep.upd (hm := rfl) | split | fail_if_no_progress dsimp only)

theorem keep_recordFormats (x1) {r s : State} (h : Keep r s) : Keep r (@recordFormats x1 s) := by
  simp only [recordFormats]
  repeat' with_reducible (first | exact h | exact Keep.refl _ | apply keep_modBolt | (apply Keep.foldl; intro _ _ h) | fail_if_no_progress apply Keep.upd (hm := rfl) | split | fail_if_no_progress dsimp only)

theorem keep_enterRun (x1) (x2) (x3) {r s : State} (h : Keep r s) : Keep r (@enterRun x1 x2 x3 s) := by
  simp only [enterRun]
  repeat' with_reducible (first | exact h | exact Keep.refl _ | apply keep_setShState | apply keep_modShut | apply keep_freshStart | apply keep_recordFormats | (apply Keep.foldl; intro _ _ h) | fail_if_no_progress apply Keep.upd (hm := rfl) | split | fail_if_no_progress dsimp only)

theorem keep_abortStart (x1) (x2) {r s : State} (h : Keep r s) : Keep r (@abortStart x1 x2 s) := by
  simp only [abortStart]
  repeat' with_reducible (first | exact h | exact Keep.refl _ | apply keep_untake | apply keep_complete | apply keep_modShut | apply keep_releaseBolts | (apply Keep.foldl; intro _ _ h) | fail_if_no_progress apply Keep.upd (hm := rfl) | split | fail_if_no_progress dsimp only)

theorem keep_startAtStroke (x1) (x2) (x3) {r s : State} (h : Keep r s) : Keep r (@startAtStroke x1 x2 x3 s) := by
  simp only [startAtStroke]
  repeat' with_reducible (first | exact h | exact Keep.refl _ | apply keep_enterRun | apply keep_complete | apply keep_abortStart | (apply Keep.foldl; intro _ _ h) | fail_if_no_progress apply Keep.upd (hm := rfl) | split | fail_if_no_progress dsimp only)

theorem keep_shuttleStroke (x1) {r s : State} (h : Keep r s) : Keep r (@shuttleStroke x1 s) := by
  simp only [shuttleStroke]
  repeat' with_reducible (first | exact h | exact Keep.refl _ | apply keep_startAtStroke | apply keep_setSv | apply keep_modShut | (apply Keep.foldl; intro _ _ h) | fail_if_no_progress apply Keep.upd (hm := rfl) | split | fail_if_no_progress dsimp only)

theorem keep_resetShuttle (x1) {r s : State} (h : Keep r s) : Keep r (@resetShuttle x1 s) := by
  simp only [resetShuttle]
  repeat' with_reducible (first | exact h | exact Keep.refl _ | apply keep_resetRegs | apply keep_setShut | apply keep_abortStart | apply keep_releaseBolts | (apply Keep.foldl; intro _ _ h) | fail_if_no_progress apply Keep.upd (hm := rfl) | split | fail_if_no_progress dsimp only)

theorem keep_writeShCtl (x1) (x2) {r s : State} (h : Keep r s) : Keep r (@writeShCtl x1 x2 s) := by
  simp only [writeShCtl]
  repeat' with_reducible (first | exact h | exact Keep.refl _ | apply keep_resetShuttle | apply keep_rejectReg | (apply Keep.foldl; intro _ _ h) | fail_if_no_progress apply Keep.upd (hm := rfl) | split | fail_if_no_progress dsimp only)

theorem keep_flrShuttles {r s : State} (h : Keep r s) : Keep r (@flrShuttles s) := by
  simp only [flrShuttles]
  repeat' with_reducible (first | exact h | exact Keep.refl _ | apply keep_stopShuttle | apply keep_abortStart | (apply Keep.foldl; intro _ _ h) | fail_if_no_progress apply Keep.upd (hm := rfl) | split | fail_if_no_progress dsimp only)

theorem keep_setDc {r s : State} (x1) (x2) (h : Keep r s) : Keep r (@State.setDc s x1 x2) := by
  simp only [State.setDc]
  repeat' with_reducible (first | exact h | exact Keep.refl _ | (apply Keep.foldl; intro _ _ h) | fail_if_no_progress apply Keep.upd (hm := rfl) | split | fail_if_no_progress dsimp only)

theorem keep_modDc {r s : State} (x1) (x2) (h : Keep r s) : Keep r (@State.modDc s x1 x2) := by
  simp only [State.modDc]
  repeat' with_reducible (first | exact h | exact Keep.refl _ | apply keep_setDc | (apply Keep.foldl; intro _ _ h) | fail_if_no_progress apply Keep.upd (hm := rfl) | split | fail_if_no_progress dsimp only)

theorem keep_showRunning {r s : State} (h : Keep r s) : Keep r (@showRunning s) := by
  simp only [showRunning]
  repeat' with_reducible (first | exact h | exact Keep.refl _ | apply keep_setFld | (apply Keep.foldl; intro _ _ h) | fail_if_no_progress apply Keep.upd (hm := rfl) | split | fail_if_no_progress dsimp only)

theorem keep_setDcState (x1) (x2) {r s : State} (h : Keep r s) : Keep r (@setDcState x1 x2 s) := by
  simp only [setDcState]
  repeat' with_reducible (first | exact h | exact Keep.refl _ | apply keep_setFld | apply keep_showRunning | (apply Keep.foldl; intro _ _ h) | fail_if_no_progress apply Keep.upd (hm := rfl) | split | fail_if_no_progress dsimp only)

theorem keep_dcNext (x1) {r s : State} (h : Keep r s) : Keep r (@dcNext x1 s) := by
  simp only [dcNext]
  repeat' with_reducible (first | exact h | exact Keep.refl _ | apply keep_setFld | (apply Keep.foldl; intro _ _ h) | fail_if_no_progress apply Keep.upd (hm := rfl) | split | fail_if_no_progress dsimp only)

theorem keep_shPut (x1) (x2) {r s : State} (h : Keep r s) : Keep r (@shPut x1 x2 s) := by
  simp only [shPut]
  repeat' with_reducible (first | exact h | exact Keep.refl _ | apply keep_modShut | (apply Keep.foldl; intro _ _ h) | fail_if_no_progress apply Keep.upd (hm := rfl) | split | fail_if_no_progress dsimp only)

theorem keep_finishDraft (x1) (x2) {r s : State} (h : Keep r s) : Keep r (@finishDraft x1 x2 s) := by
  simp only [finishDraft]
  repeat' with_reducible (first | exact h | exact Keep.refl _ | apply keep_complete | apply keep_completeRec | apply keep_setFld | apply keep_setDc | apply keep_setDcState | apply keep_ckResult | (apply Keep.foldl; intro _ _ h) | fail_if_no_progress apply Keep.upd (hm := rfl) | split | fail_if_no_progress dsimp only)

theorem keep_askReadback (x1) (x2) {r s : State} (h : Keep r s) : Keep r (@askReadback x1 x2 s) := by
  simp only [askReadback]
  repeat' with_reducible (first | exact h | exact Keep.refl _ | apply keep_emit | apply keep_modDc | (apply Keep.foldl; intro _ _ h) | fail_if_no_progress apply Keep.upd (hm := rfl) | split | fail_if_no_progress dsimp only)

theorem keep_endDraft (x1) (x2) (x3) (x4) (x5) (x6) {r s : State} (h : Keep r s) : Keep r (@endDraft x1 x2 x3 x4 x5 x6 s) := by
  simp only [endDraft]
  repeat' with_reducible (first | exact h | exact Keep.refl _ | apply keep_finishDraft | apply keep_setDc | apply keep_setDcState | apply keep_askReadback | (apply Keep.foldl; intro _ _ h) | fail_if_no_progress apply Keep.upd (hm := rfl) | split | fail_if_no_progress dsimp only)

theorem keep_failDraft (x1) (x2) {r s : State} (h : Keep r s) : Keep r (@failDraft x1 x2 s) := by
  simp only [failDraft]
  repeat' with_reducible (first | exact h | exact Keep.refl _ | apply keep_endDraft | (apply Keep.foldl; intro _ _ h) | fail_if_no_progress apply Keep.upd (hm := rfl) | split | fail_if_no_progress dsimp only)

theorem keep_stopEngine (x1) {r s : State} (h : Keep r s) : Keep r (@stopEngine x1 s) := by
  simp only [stopEngine]
  repeat' with_reducible (first | exact h | exact Keep.refl _ | apply keep_setPair | apply keep_setFld | apply keep_raise_ | apply keep_endDraft | (apply Keep.foldl; intro _ _ h) | fail_if_no_progress apply Keep.upd (hm := rfl) | split | fail_if_no_progress dsimp only)

theorem keep_startXfer (x1) (x2) (x3) {r s : State} (h : Keep r s) : Keep r (@startXfer x1 x2 x3 s) := by
  simp only [startXfer]
  repeat' with_reducible (first | exact h | exact Keep.refl _ | apply keep_modDc | apply keep_ckRestart | apply keep_endDraft | (apply Keep.foldl; intro _ _ h) | fail_if_no_progress apply Keep.upd (hm := rfl) | split | fail_if_no_progress dsimp only)

theorem keep_setStack (x1) (x2) {r s : State} (h : Keep r s) : Keep r (@setStack x1 x2 s) := by
  simp only [setStack]
  repeat' with_reducible (first | exact h | exact Keep.refl _ | apply keep_setFld | apply keep_modDc | (apply Keep.foldl; intro _ _ h) | fail_if_no_progress apply Keep.upd (hm := rfl) | split | fail_if_no_progress dsimp only)

theorem keep_draftStroke (x1) {r s : State} (h : Keep r s) : Keep r (@draftStroke x1 s) := by
  simp only [draftStroke]
  repeat' with_reducible (first | exact h | exact Keep.refl _ | apply keep_modDc | (apply Keep.foldl; intro _ _ h) | fail_if_no_progress apply Keep.upd (hm := rfl) | split | fail_if_no_progress dsimp only)

theorem keep_burstRead (x1) (x2) (x3) (x4) (x5) {r s : State} (h : Keep r s) : Keep r (@burstRead x1 x2 x3 x4 x5 s).2.2 := by
  simp only [burstRead]
  repeat' with_reducible (first | exact h | exact Keep.refl _ | apply keep_beamRead | apply keep_emit | (apply Keep.foldl; intro _ _ h) | fail_if_no_progress apply Keep.upd (hm := rfl) | split | fail_if_no_progress dsimp only)

theorem keep_burstRead_e {x1} {x2} {x3} {x4} {x5} {r s t : State} {a0} {a1} (e : @burstRead x1 x2 x3 x4 x5 s = (a0, a1, t)) (h : Keep r s) : Keep r t := by
  have := keep_burstRead x1 x2 x3 x4 x5 h
  rw [e] at this
  exact this

theorem keep_draftPut (x1) (x2) (x3) (x4) {r s : State} (h : Keep r s) : Keep r (@draftPut x1 x2 x3 x4 s) := by
  simp only [draftPut]
  repeat' with_reducible (first | exact h | exact Keep.refl _ | apply keep_shPut | apply keep_beamWrite | apply keep_modDc | apply keep_emit | (apply Keep.foldl; intro _ _ h) | fail_if_no_progress apply Keep.upd (hm := rfl) | split | fail_if_no_progress dsimp only)

theorem keep_appendCheck (x1) (x2) (x3) (x4) {r s : State} (h : Keep r s) : Keep r (@appendCheck x1 x2 x3 x4 s) := by
  simp only [appendCheck]
  repeat' with_reducible (first | exact h | exact Keep.refl _ | apply keep_draftPut | (apply Keep.foldl; intro _ _ h) | fail_if_no_progress apply Keep.upd (hm := rfl) | split | fail_if_no_progress dsimp only)

theorem keep_endXfer (x1) (x2) {r s : State} (h : Keep r s) : Keep r (@endXfer x1 x2 s) := by
  simp only [endXfer]
  repeat' with_reducible (first | exact h | exact Keep.refl _ | apply keep_endDraft | apply keep_raise_ | apply keep_addSat | apply keep_appendCheck | apply keep_dcNext | apply keep_modDc | (apply Keep.foldl; intro _ _ h) | fail_if_no_progress apply Keep.upd (hm := rfl) | split | fail_if_no_progress dsimp only)

theorem keep_burst (x1) (x2) (x3) (x4) {r s : State} (h : Keep r s) : Keep r (@burst x1 x2 x3 x4 s) := by
  simp only [burst]
  repeat' with_reducible (first | exact h | exact Keep.refl _ | apply keep_endXfer | apply keep_modDc | apply keep_draftPut | apply keep_ckFeed | apply keep_endDraft | apply keep_burstRead | (refine keep_burstRead_e (by assumption) ?_) | (apply Keep.foldl; intro _ _ h) | fail_if_no_progress apply Keep.upd (hm := rfl) | split | fail_if_no_progress dsimp only)

theorem keep_writeDrfCtl (x1) {r s : State} (h : Keep r s) : Keep r (@writeDrfCtl x1 s) := by
  simp only [writeDrfCtl]
  repeat' with_reducible (first | exact h | exact Keep.refl _ | apply keep_resetRegs | apply keep_setFld | apply keep_rejectReg | (apply Keep.foldl; intro _ _ h) | fail_if_no_progress apply Keep.upd (hm := rfl) | split | fail_if_no_progress dsimp only)

theorem keep_showLinkCks {r s : State} (h : Keep r s) : Keep r (@showLinkCks s) := by
  simp only [showLinkCks]
  repeat' with_reducible (first | exact h | exact Keep.refl _ | apply keep_setFld | (apply Keep.foldl; intro _ _ h) | fail_if_no_progress apply Keep.upd (hm := rfl) | split | fail_if_no_progress dsimp only)

theorem keep_flrDrafts {r s : State} (h : Keep r s) : Keep r (@flrDrafts s) := by
  simp only [flrDrafts]
  repeat' with_reducible (first | exact h | exact Keep.refl _ | apply keep_resetRegs | apply keep_showLinkCks | apply keep_untake | (apply Keep.foldl; intro _ _ h) | fail_if_no_progress apply Keep.upd (hm := rfl) | split | fail_if_no_progress dsimp only)

theorem keep_bistMeasure (x1) (x2) (x3) {r s : State} (h : Keep r s) : Keep r (@bistMeasure x1 x2 x3 s) := by
  simp only [bistMeasure]
  repeat' with_reducible (first | exact h | exact Keep.refl _ | apply keep_setSFld | apply keep_setFld | (apply Keep.foldl; intro _ _ h) | fail_if_no_progress apply Keep.upd (hm := rfl) | split | fail_if_no_progress dsimp only)

theorem keep_showActive (x1) {r s : State} (h : Keep r s) : Keep r (@showActive x1 s) := by
  simp only [showActive]
  repeat' with_reducible (first | exact h | exact Keep.refl _ | apply keep_setFld | (apply Keep.foldl; intro _ _ h) | fail_if_no_progress apply Keep.upd (hm := rfl) | split | fail_if_no_progress dsimp only)

theorem keep_bistBegin (x1) (x2) {r s : State} (h : Keep r s) : Keep r (@bistBegin x1 x2 s) := by
  simp only [bistBegin]
  repeat' with_reducible (first | exact h | exact Keep.refl _ | apply keep_setFld | apply keep_showActive | apply keep_bistMeasure | apply keep_enterSelfRefresh | (apply Keep.foldl; intro _ _ h) | fail_if_no_progress apply Keep.upd (hm := rfl) | split | fail_if_no_progress dsimp only)

theorem keep_bistReset (x1) {r s : State} (h : Keep r s) : Keep r (@bistReset x1 s) := by
  simp only [bistReset]
  repeat' with_reducible (first | exact h | exact Keep.refl _ | apply keep_showLinkCks | apply keep_resetShuttle | apply keep_setFld | apply keep_resetRegs | apply keep_clearLane | (apply Keep.foldl; intro _ _ h) | fail_if_no_progress apply Keep.upd (hm := rfl) | split | fail_if_no_progress dsimp only)

theorem keep_bistFinish (x1) (x2) (x3) (x4) {r s : State} (h : Keep r s) : Keep r (@bistFinish x1 x2 x3 x4 s) := by
  simp only [bistFinish]
  repeat' with_reducible (first | exact h | exact Keep.refl _ | apply keep_raise_ | apply keep_postCompl | apply keep_setFld | apply keep_showActive | apply keep_bistReset | (apply Keep.foldl; intro _ _ h) | fail_if_no_progress apply Keep.upd (hm := rfl) | split | fail_if_no_progress dsimp only)

theorem keep_modCrew {r s : State} (x1) (h : Keep r s) : Keep r (@State.modCrew s x1) := by
  simp only [State.modCrew]
  repeat' with_reducible (first | exact h | exact Keep.refl _ | (apply Keep.foldl; intro _ _ h) | fail_if_no_progress apply Keep.upd (hm := rfl) | split | fail_if_no_progress dsimp only)

theorem keep_crewJoinBegin (x1) (x2) (x3) (x4) (x5) (x6) (x7) (x8) {r s : State} (h : Keep r s) : Keep r (@crewJoinBegin x1 x2 x3 x4 x5 x6 x7 x8 s) := by
  simp only [crewJoinBegin]
  repeat' with_reducible (first | exact h | exact Keep.refl _ | apply keep_servoToCrew | apply keep_sendControl | apply keep_modCrew | apply keep_setFld | apply keep_setReg | (apply Keep.foldl; intro _ _ h) | fail_if_no_progress apply Keep.upd (hm := rfl) | split | fail_if_no_progress dsimp only)

theorem keep_joinDone (x1) {r s : State} (h : Keep r s) : Keep r (@joinDone x1 s) := by
  simp only [joinDone]
  repeat' with_reducible (first | exact h | exact Keep.refl _ | apply keep_modCrew | apply keep_complete | (apply Keep.foldl; intro _ _ h) | fail_if_no_progress apply Keep.upd (hm := rfl) | split | fail_if_no_progress dsimp only)

theorem keep_crewClear (x1) {r s : State} (h : Keep r s) : Keep r (@crewClear x1 s) := by
  simp only [crewClear]
  repeat' with_reducible (first | exact h | exact Keep.refl _ | apply keep_modCrew | apply keep_setFld | (apply Keep.foldl; intro _ _ h) | fail_if_no_progress apply Keep.upd (hm := rfl) | split | fail_if_no_progress dsimp only)

theorem keep_becomePassThrough {r s : State} (h : Keep r s) : Keep r (@becomePassThrough s) := by
  simp only [becomePassThrough]
  repeat' with_reducible (first | exact h | exact Keep.refl _ | apply keep_crewClear | apply keep_servoLeaveCrew | apply keep_setFld | apply keep_modGen | (apply Keep.foldl; intro _ _ h) | fail_if_no_progress apply Keep.upd (hm := rfl) | split | fail_if_no_progress dsimp only)

theorem keep_dissolveCheck {r s : State} (h : Keep r s) : Keep r (@dissolveCheck s) := by
  simp only [dissolveCheck]
  repeat' with_reducible (first | exact h | exact Keep.refl _ | apply keep_modCrew | apply keep_crewClear | apply keep_complete | (apply Keep.foldl; intro _ _ h) | fail_if_no_progress apply Keep.upd (hm := rfl) | split | fail_if_no_progress dsimp only)

theorem keep_takeMarker (x1) (x2) (x3) {r s : State} (h : Keep r s) : Keep r (@takeMarker x1 x2 x3 s) := by
  simp only [takeMarker]
  repeat' with_reducible (first | exact h | exact Keep.refl _ | apply keep_setFld | apply keep_setGen | apply keep_modGen | apply keep_addSat | apply keep_raise_ | apply keep_count | (apply Keep.foldl; intro _ _ h) | fail_if_no_progress apply Keep.upd (hm := rfl) | split | fail_if_no_progress dsimp only)

theorem keep_crewSteer (x1) {r s : State} (h : Keep r s) : Keep r (@crewSteer x1 s) := by
  simp only [crewSteer]
  repeat' with_reducible (first | exact h | exact Keep.refl _ | apply keep_setSFld | apply keep_tick | (apply Keep.foldl; intro _ _ h) | fail_if_no_progress apply Keep.upd (hm := rfl) | split | fail_if_no_progress dsimp only)

theorem keep_alignStep (x1) {r s : State} (h : Keep r s) : Keep r (@alignStep x1 s) := by
  simp only [alignStep]
  repeat' with_reducible (first | exact h | exact Keep.refl _ | apply keep_raise_ | apply keep_joinDone | apply keep_modCrew | (apply Keep.foldl; intro _ _ h) | fail_if_no_progress apply Keep.upd (hm := rfl) | split | fail_if_no_progress dsimp only)

theorem keep_healed {r s : State} (h : Keep r s) : Keep r (@healed s) := by
  simp only [healed]
  repeat' with_reducible (first | exact h | exact Keep.refl _ | apply keep_sendControl | apply keep_modCrew | apply keep_setFld | apply keep_raise_ | (apply Keep.foldl; intro _ _ h) | fail_if_no_progress apply Keep.upd (hm := rfl) | split | fail_if_no_progress dsimp only)

theorem keep_addBreak (x1) {r s : State} (h : Keep r s) : Keep r (@addBreak x1 s) := by
  simp only [addBreak]
  repeat' with_reducible (first | exact h | exact Keep.refl _ | apply keep_modCrew | (apply Keep.foldl; intro _ _ h) | fail_if_no_progress apply Keep.upd (hm := rfl) | split | fail_if_no_progress dsimp only)

theorem keep_healing {r s : State} (h : Keep r s) : Keep r (@healing s) := by
  simp only [healing]
  repeat' with_reducible (first | exact h | exact Keep.refl _ | apply keep_setFld | (apply Keep.foldl; intro _ _ h) | fail_if_no_progress apply Keep.upd (hm := rfl) | split | fail_if_no_progress dsimp only)

theorem keep_noteBreak (x1) {r s : State} (h : Keep r s) : Keep r (@noteBreak x1 s) := by
  simp only [noteBreak]
  repeat' with_reducible (first | exact h | exact Keep.refl _ | apply keep_healed | apply keep_addBreak | apply keep_healing | apply keep_raise_ | (apply Keep.foldl; intro _ _ h) | fail_if_no_progress apply Keep.upd (hm := rfl) | split | fail_if_no_progress dsimp only)

theorem keep_judgeBreaks {r s : State} (h : Keep r s) : Keep r (@judgeBreaks s) := by
  simp only [judgeBreaks]
  repeat' with_reducible (first | exact h | exact Keep.refl _ | apply keep_modCrew | apply keep_setFld | apply keep_raise_ | (apply Keep.foldl; intro _ _ h) | fail_if_no_progress apply Keep.upd (hm := rfl) | split | fail_if_no_progress dsimp only)

theorem keep_hearBreak (x1) {r s : State} (h : Keep r s) : Keep r (@hearBreak x1 s) := by
  simp only [hearBreak]
  repeat' with_reducible (first | exact h | exact Keep.refl _ | apply keep_addBreak | apply keep_judgeBreaks | (apply Keep.foldl; intro _ _ h) | fail_if_no_progress apply Keep.upd (hm := rfl) | split | fail_if_no_progress dsimp only)

theorem keep_markFaulted (x1) {r s : State} (h : Keep r s) : Keep r (@markFaulted x1 s) := by
  simp only [markFaulted]
  repeat' with_reducible (first | exact h | exact Keep.refl _ | apply keep_judgeBreaks | apply keep_sendControl | apply keep_addBreak | apply keep_healing | apply keep_noteBreak | apply keep_raise_ | apply keep_sendFrame | apply keep_modLink | apply keep_setFld | (apply Keep.foldl; intro _ _ h) | fail_if_no_progress apply Keep.upd (hm := rfl) | split | fail_if_no_progress dsimp only)

theorem keep_unwrapLink (x1) {r s : State} (h : Keep r s) : Keep r (@unwrapLink x1 s) := by
  simp only [unwrapLink]
  repeat' with_reducible (first | exact h | exact Keep.refl _ | apply keep_raise_ | apply keep_setCxTx | apply keep_setFld | (apply Keep.foldl; intro _ _ h) | fail_if_no_progress apply Keep.upd (hm := rfl) | split | fail_if_no_progress dsimp only)

theorem keep_primaryPath {r s : State} (h : Keep r s) : Keep r (@primaryPath s) := by
  simp only [primaryPath]
  repeat' with_reducible (first | exact h | exact Keep.refl _ | apply keep_setFld | (apply Keep.foldl; intro _ _ h) | fail_if_no_progress apply Keep.upd (hm := rfl) | split | fail_if_no_progress dsimp only)

theorem keep_forgetBreaks {r s : State} (h : Keep r s) : Keep r (@forgetBreaks s) := by
  simp only [forgetBreaks]
  repeat' with_reducible (first | exact h | exact Keep.refl _ | apply keep_modCrew | (apply Keep.foldl; intro _ _ h) | fail_if_no_progress apply Keep.upd (hm := rfl) | split | fail_if_no_progress dsimp only)

theorem keep_crewStroke (x1) {r s : State} (h : Keep r s) : Keep r (@crewStroke x1 s) := by
  simp only [crewStroke]
  repeat' with_reducible (first | exact h | exact Keep.refl _ | apply keep_healed | apply keep_modCrew | apply keep_unwrapLink | apply keep_primaryPath | apply keep_forgetBreaks | (apply Keep.foldl; intro _ _ h) | fail_if_no_progress apply Keep.upd (hm := rfl) | split | fail_if_no_progress dsimp only)

theorem keep_markMiss (x1) (x2) {r s : State} (h : Keep r s) : Keep r (@markMiss x1 x2 s) := by
  simp only [markMiss]
  repeat' with_reducible (first | exact h | exact Keep.refl _ | apply keep_setFld | apply keep_addSat | (apply Keep.foldl; intro _ _ h) | fail_if_no_progress apply Keep.upd (hm := rfl) | split | fail_if_no_progress dsimp only)

theorem keep_enumMember (x1) (x2) {r s : State} (h : Keep r s) : Keep r (@enumMember x1 x2 s) := by
  simp only [enumMember]
  repeat' with_reducible (first | exact h | exact Keep.refl _ | apply keep_sendControl | apply keep_sendFrame | apply keep_resultReady | apply keep_setSFld | apply keep_setFld | (apply Keep.foldl; intro _ _ h) | fail_if_no_progress apply Keep.upd (hm := rfl) | split | fail_if_no_progress dsimp only)

theorem keep_tellCrew (x1) (x2) {r s : State} (h : Keep r s) : Keep r (@tellCrew x1 x2 s) := by
  simp only [tellCrew]
  repeat' with_reducible (first | exact h | exact Keep.refl _ | apply keep_sendDef | apply keep_sendControl | (apply Keep.foldl; intro _ _ h) | fail_if_no_progress apply Keep.upd (hm := rfl) | split | fail_if_no_progress dsimp only)

theorem keep_enumLead (x1) (x2) {r s : State} (h : Keep r s) : Keep r (@enumLead x1 x2 s) := by
  simp only [enumLead]
  repeat' with_reducible (first | exact h | exact Keep.refl _ | apply keep_tellCrew | apply keep_raise_ | apply keep_setSFld | apply keep_modCrew | apply keep_setFld | apply keep_crewClear | apply keep_joinDone | (apply Keep.foldl; intro _ _ h) | fail_if_no_progress apply Keep.upd (hm := rfl) | split | fail_if_no_progress dsimp only)

theorem keep_takeDef (x1) {r s : State} (h : Keep r s) : Keep r (@takeDef x1 s) := by
  simp only [takeDef]
  repeat' with_reducible (first | exact h | exact Keep.refl _ | apply keep_setFld | apply keep_count | apply keep_setGen | (apply Keep.foldl; intro _ _ h) | fail_if_no_progress apply Keep.upd (hm := rfl) | split | fail_if_no_progress dsimp only)

theorem keep_takeRelay (x1) (x2) {r s : State} (h : Keep r s) : Keep r (@takeRelay x1 x2 s) := by
  simp only [takeRelay]
  repeat' with_reducible (first | exact h | exact Keep.refl _ | apply keep_addSat | apply keep_incWrap | (refine keep_deliverBuf (by assumption) ?_) | (apply Keep.foldl; intro _ _ h) | fail_if_no_progress apply Keep.upd (hm := rfl) | split | fail_if_no_progress dsimp only)

theorem keep_queueUnwrap (x1) {r s : State} (h : Keep r s) : Keep r (@queueUnwrap x1 s) := by
  simp only [queueUnwrap]
  repeat' with_reducible (first | exact h | exact Keep.refl _ | apply keep_modCrew | (apply Keep.foldl; intro _ _ h) | fail_if_no_progress apply Keep.upd (hm := rfl) | split | fail_if_no_progress dsimp only)

theorem keep_actOn (x1) (x2) {r s : State} (h : Keep r s) : Keep r (@actOn x1 x2 s) := by
  simp only [actOn]
  repeat' with_reducible (first | exact h | exact Keep.refl _ | apply keep_takeRelay | apply keep_joinDone | apply keep_becomePassThrough | apply keep_queueUnwrap | apply keep_setFld | apply keep_noteBreak | apply keep_takeDef | apply keep_resultReady | apply keep_setSFld | (apply Keep.foldl; intro _ _ h) | fail_if_no_progress apply Keep.upd (hm := rfl) | split | fail_if_no_progress dsimp only)

end Sys2Proof.Machine
end

