-- ==== Sys2Proof/Laws/KeepEgress.lean ====
section
/-! SUPPORT. What no operation touches: the queue of commands, the one-way order of the fuses and the canonical form of the
beam memory (`Keep`), for the operations of egress, placement and packets. -/

set_option Elab.async false

namespace Sys2Proof.Machine

theorem keep_showEgress {r s : State} (h : Keep r s) : Keep r (@showEgress s) := by
  simp only [showEgress]
  repeat' with_reducible (first | exact h | exact Keep.refl _ | apply keep_setFld | (apply Keep.foldl; intro _ _ h) | fail_if_no_progress apply Keep.upd (hm := rfl) | split | fail_if_no_progress dsimp only)

theorem keep_abortEspCmd (x1) {r s : State} (h : Keep r s) : Keep r (@abortEspCmd x1 s) := by
  simp only [abortEspCmd]
  repeat' with_reducible (first | exact h | exact Keep.refl _ | apply keep_complete | (apply Keep.foldl; intro _ _ h) | fail_if_no_progress apply Keep.upd (hm := rfl) | split | fail_if_no_progress dsimp only)

theorem keep_espStop (x1) (x2) {r s : State} (h : Keep r s) : Keep r (@espStop x1 x2 s) := by
  simp only [espStop]
  repeat' with_reducible (first | exact h | exact Keep.refl _ | apply keep_modLane | apply keep_showEgress | apply keep_setEsp | (apply Keep.foldl; intro _ _ h) | fail_if_no_progress apply Keep.upd (hm := rfl) | split | fail_if_no_progress dsimp only)

theorem keep_flrEgress (x1) {r s : State} (h : Keep r s) : Keep r (@flrEgress x1 s) := by
  simp only [flrEgress]
  repeat' with_reducible (first | exact h | exact Keep.refl _ | apply keep_espStop | (apply Keep.foldl; intro _ _ h) | fail_if_no_progress apply Keep.upd (hm := rfl) | split | fail_if_no_progress dsimp only)

theorem keep_countEsp (x1) (x2) (x3) (x4) {r s : State} (h : Keep r s) : Keep r (@countEsp x1 x2 x3 x4 s) := by
  simp only [countEsp]
  repeat' with_reducible (first | exact h | exact Keep.refl _ | apply keep_countLoom | (apply Keep.foldl; intro _ _ h) | fail_if_no_progress apply Keep.upd (hm := rfl) | split | fail_if_no_progress dsimp only)

theorem keep_dueCmds (x1) (x2) (x3) {r s : State} (h : Keep r s) : Keep r (@dueCmds x1 x2 x3 s).2.2.2 := by
  simp only [dueCmds]
  repeat' with_reducible (first | exact h | exact Keep.refl _ | apply keep_setEsp | apply keep_abortEspCmd | (apply Keep.foldl; intro _ _ h) | fail_if_no_progress apply Keep.upd (hm := rfl) | split | fail_if_no_progress dsimp only)

theorem keep_dueCmds_e {x1} {x2} {x3} {r s t : State} {a0} {a1} {a2} (e : @dueCmds x1 x2 x3 s = (a0, a1, a2, t)) (h : Keep r s) : Keep r t := by
  have := keep_dueCmds x1 x2 x3 h
  rw [e] at this
  exact this

theorem keep_recheck (x1) (x2) (x3) {r s : State} (h : Keep r s) : Keep r (@recheck x1 x2 x3 s).2.2 := by
  simp only [recheck]
  repeat' with_reducible (first | exact h | exact Keep.refl _ | apply keep_complete | (apply Keep.foldl; intro _ _ h) | fail_if_no_progress apply Keep.upd (hm := rfl) | split | fail_if_no_progress dsimp only)

theorem keep_recheck_e {x1} {x2} {x3} {r s t : State} {a0} {a1} (e : @recheck x1 x2 x3 s = (a0, a1, t)) (h : Keep r s) : Keep r t := by
  have := keep_recheck x1 x2 x3 h
  rw [e] at this
  exact this

theorem keep_applyCmds (x1) (x2) (x3) {r s : State} (h : Keep r s) : Keep r (@applyCmds x1 x2 x3 s).2.2 := by
  simp only [applyCmds]
  repeat' with_reducible (first | exact h | exact Keep.refl _ | apply keep_setEsp | apply keep_complete | apply keep_recheck | apply keep_dueCmds | (refine keep_recheck_e (by assumption) ?_) | (refine keep_dueCmds_e (by assumption) ?_) | (apply Keep.foldl; intro _ _ h) | fail_if_no_progress apply Keep.upd (hm := rfl) | split | fail_if_no_progress dsimp only)

theorem keep_applyCmds_e {x1} {x2} {x3} {r s t : State} {a0} {a1} (e : @applyCmds x1 x2 x3 s = (a0, a1, t)) (h : Keep r s) : Keep r t := by
  have := keep_applyCmds x1 x2 x3 h
  rw [e] at this
  exact this

theorem keep_slotHas (x1) (x2) (x3) {r s : State} (h : Keep r s) : Keep r (@slotHas x1 x2 x3 s).2.2 := by
  simp only [slotHas]
  repeat' with_reducible (first | exact h | exact Keep.refl _ | apply keep_readHdr | (refine keep_readHdr_e (by assumption) ?_) | (apply Keep.foldl; intro _ _ h) | fail_if_no_progress apply Keep.upd (hm := rfl) | split | fail_if_no_progress dsimp only)

theorem keep_slotHas_e {x1} {x2} {x3} {r s t : State} {a0} {a1} (e : @slotHas x1 x2 x3 s = (a0, a1, t)) (h : Keep r s) : Keep r t := by
  have := keep_slotHas x1 x2 x3 h
  rw [e] at this
  exact this

theorem keep_pickFrame (o b l n j) {r s : State} (h : Keep r s) : Keep r (pickFrame o b l n j s).2 := by
  induction n generalizing j s with
  | zero => exact h
  | succ n ih =>
    simp only [pickFrame]
    repeat' (first | exact h | (apply ih) | (with_reducible refine keep_slotHas_e (by assumption) ?_) | with_reducible apply keep_slotHas | split)

theorem keep_pickFrame_e {o b l n j} {r s t : State} {a} (e : pickFrame o b l n j s = (a, t)) (h : Keep r s) : Keep r t := by
  have := keep_pickFrame o b l n j h
  rw [e] at this
  exact this

theorem keep_espMove (x1) (x2) {r s : State} (h : Keep r s) : Keep r (@espMove x1 x2 s) := by
  simp only [espMove]
  repeat' with_reducible (first | exact h | exact Keep.refl _ | apply keep_portNotice | apply keep_setEsp | (apply Keep.foldl; intro _ _ h) | fail_if_no_progress apply Keep.upd (hm := rfl) | split | fail_if_no_progress dsimp only)

theorem keep_sendShown (x1) (x2) (x3) {r s : State} (h : Keep r s) : Keep r (@sendShown x1 x2 x3 s) := by
  simp only [sendShown]
  repeat' with_reducible (first | exact h | exact Keep.refl _ | apply keep_setEsp | apply keep_countEsp | (apply Keep.foldl; intro _ _ h) | fail_if_no_progress apply Keep.upd (hm := rfl) | split | fail_if_no_progress dsimp only)

theorem keep_lossAction (x1) (x2) (x3) (x4) {r s : State} (h : Keep r s) : Keep r (@lossAction x1 x2 x3 x4 s) := by
  simp only [lossAction]
  repeat' with_reducible (first | exact h | exact Keep.refl _ | apply keep_sendShown | (apply Keep.foldl; intro _ _ h) | fail_if_no_progress apply Keep.upd (hm := rfl) | split | fail_if_no_progress dsimp only)

theorem keep_decideFrame (x1) (x2) (x3) {r s : State} (h : Keep r s) : Keep r (@decideFrame x1 x2 x3 s) := by
  simp only [decideFrame]
  repeat' with_reducible (first | exact h | exact Keep.refl _ | apply keep_lossAction | apply keep_slotHas | apply keep_sendShown | apply keep_espMove | apply keep_setEsp | apply keep_countEsp | apply keep_pickFrame | (refine keep_slotHas_e (by assumption) ?_) | (refine keep_pickFrame_e (by assumption) ?_) | (apply Keep.foldl; intro _ _ h) | fail_if_no_progress apply Keep.upd (hm := rfl) | split | fail_if_no_progress dsimp only)

theorem keep_sampleThere (x1) (x2) (x3) {r s : State} (h : Keep r s) : Keep r (@sampleThere x1 x2 x3 s).2 := by
  simp only [sampleThere]
  repeat' with_reducible (first | exact h | exact Keep.refl _ | apply keep_readHdr | (refine keep_readHdr_e (by assumption) ?_) | (apply Keep.foldl; intro _ _ h) | fail_if_no_progress apply Keep.upd (hm := rfl) | split | fail_if_no_progress dsimp only)

theorem keep_sampleThere_e {x1} {x2} {x3} {r s t : State} {a0} (e : @sampleThere x1 x2 x3 s = (a0, t)) (h : Keep r s) : Keep r t := by
  have := keep_sampleThere x1 x2 x3 h
  rw [e] at this
  exact this

theorem keep_decideAudio (x1) (x2) {r s : State} (h : Keep r s) : Keep r (@decideAudio x1 x2 s) := by
  simp only [decideAudio]
  repeat' with_reducible (first | exact h | exact Keep.refl _ | apply keep_setEsp | apply keep_espMove | apply keep_sampleThere | (refine keep_sampleThere_e (by assumption) ?_) | (apply Keep.foldl; intro _ _ h) | fail_if_no_progress apply Keep.upd (hm := rfl) | split | fail_if_no_progress dsimp only)

theorem keep_espStroke (x1) (x2) {r s : State} (h : Keep r s) : Keep r (@espStroke x1 x2 s) := by
  simp only [espStroke]
  repeat' with_reducible (first | exact h | exact Keep.refl _ | apply keep_decideFrame | apply keep_decideAudio | apply keep_applyCmds | (refine keep_applyCmds_e (by assumption) ?_) | (apply Keep.foldl; intro _ _ h) | fail_if_no_progress apply Keep.upd (hm := rfl) | split | fail_if_no_progress dsimp only)

theorem keep_espStrokes (x1) {r s : State} (h : Keep r s) : Keep r (@espStrokes x1 s) := by
  simp only [espStrokes]
  repeat' with_reducible (first | exact h | exact Keep.refl _ | apply keep_espStroke | (apply Keep.foldl; intro _ _ h) | fail_if_no_progress apply Keep.upd (hm := rfl) | split | fail_if_no_progress dsimp only)

theorem keep_writeEgrCtl (x1) {r s : State} (h : Keep r s) : Keep r (@writeEgrCtl x1 s) := by
  simp only [writeEgrCtl]
  repeat' with_reducible (first | exact h | exact Keep.refl _ | apply keep_modLoom | apply keep_setReg | apply keep_rejectReg | (apply Keep.foldl; intro _ _ h) | fail_if_no_progress apply Keep.upd (hm := rfl) | split | fail_if_no_progress dsimp only)

theorem keep_writeEspSel (x1) {r s : State} (h : Keep r s) : Keep r (@writeEspSel x1 s) := by
  simp only [writeEspSel]
  repeat' with_reducible (first | exact h | exact Keep.refl _ | apply keep_resultPending | apply keep_modLoom | apply keep_setFld | apply keep_rejectReg | (apply Keep.foldl; intro _ _ h) | fail_if_no_progress apply Keep.upd (hm := rfl) | split | fail_if_no_progress dsimp only)

theorem keep_writeExpSel (x1) {r s : State} (h : Keep r s) : Keep r (@writeExpSel x1 s) := by
  simp only [writeExpSel]
  repeat' with_reducible (first | exact h | exact Keep.refl _ | apply keep_modLoom | apply keep_setFld | apply keep_rejectReg | (apply Keep.foldl; intro _ _ h) | fail_if_no_progress apply Keep.upd (hm := rfl) | split | fail_if_no_progress dsimp only)

theorem keep_espReady {r s : State} (h : Keep r s) : Keep r (@espReady s) := by
  simp only [espReady]
  repeat' with_reducible (first | exact h | exact Keep.refl _ | apply keep_resultReady | apply keep_setReg | apply keep_modLoom | (apply Keep.foldl; intro _ _ h) | fail_if_no_progress apply Keep.upd (hm := rfl) | split | fail_if_no_progress dsimp only)

theorem keep_expReady {r s : State} (h : Keep r s) : Keep r (@expReady s) := by
  simp only [expReady]
  repeat' with_reducible (first | exact h | exact Keep.refl _ | apply keep_setReg | apply keep_modLoom | (apply Keep.foldl; intro _ _ h) | fail_if_no_progress apply Keep.upd (hm := rfl) | split | fail_if_no_progress dsimp only)

theorem keep_heldIdx (p b j) {r s : State} (h : Keep r s) : Keep r (heldIdx p b j s).2 := by
  simp only [heldIdx]
  split
  · exact h
  · exact keep_readHdr _ _ _ h

theorem keep_heldIdx_e {p b j} {r s t : State} {a} (e : heldIdx p b j s = (a, t)) (h : Keep r s) : Keep r t := by
  have := keep_heldIdx p b j h
  rw [e] at this
  exact this

theorem keep_openSlot (x1) (x2) (x3) (x4) (x5) (x6) (x7) {r s : State} (h : Keep r s) : Keep r (@openSlot x1 x2 x3 x4 x5 x6 x7 s).2 := by
  simp only [openSlot]
  repeat' with_reducible (first | exact h | exact Keep.refl _ | apply keep_beamWrite | apply keep_modBolt | apply keep_slotStops | (apply Keep.foldl; intro _ _ h) | fail_if_no_progress apply Keep.upd (hm := rfl) | split | fail_if_no_progress dsimp only)

theorem keep_openSlot_e {x1} {x2} {x3} {x4} {x5} {x6} {x7} {r s t : State} {a0} (e : @openSlot x1 x2 x3 x4 x5 x6 x7 s = (a0, t)) (h : Keep r s) : Keep r t := by
  have := keep_openSlot x1 x2 x3 x4 x5 x6 x7 h
  rw [e] at this
  exact this

theorem keep_writeMap (x1) (x2) {r s : State} (h : Keep r s) : Keep r (@writeMap x1 x2 s) := by
  simp only [writeMap]
  repeat' with_reducible (first | exact h | exact Keep.refl _ | apply keep_beamWrite | (apply Keep.foldl; intro _ _ h) | fail_if_no_progress apply Keep.upd (hm := rfl) | split | fail_if_no_progress dsimp only)

theorem keep_keepSlot (x1) (x2) {r s : State} (h : Keep r s) : Keep r (@keepSlot x1 x2 s) := by
  simp only [keepSlot]
  repeat' with_reducible (first | exact h | exact Keep.refl _ | apply keep_writeHdr | apply keep_setIsp | (apply Keep.foldl; intro _ _ h) | fail_if_no_progress apply Keep.upd (hm := rfl) | split | fail_if_no_progress dsimp only)

theorem keep_beamWriteWhole (x1) (x2) (x3) {r s : State} (h : Keep r s) : Keep r (@beamWriteWhole x1 x2 x3 s) := by
  simp only [beamWriteWhole]
  repeat' with_reducible (first | exact h | exact Keep.refl _ | apply keep_beamWrite | apply keep_flushLine | (apply Keep.foldl; intro _ _ h) | fail_if_no_progress apply Keep.upd (hm := rfl) | split | fail_if_no_progress dsimp only)

theorem keep_placeSrd (x1) (x2) (x3) (x4) (x5) (x6) (x7) {r s : State} (h : Keep r s) : Keep r (@placeSrd x1 x2 x3 x4 x5 x6 x7 s).2 := by
  simp only [placeSrd]
  repeat' with_reducible (first | exact h | exact Keep.refl _ | apply keep_beamWrite | apply keep_beamWriteWhole | apply keep_countIsp | (apply Keep.foldl; intro _ _ h) | fail_if_no_progress apply Keep.upd (hm := rfl) | split | fail_if_no_progress dsimp only)

theorem keep_placeSrd_e {x1} {x2} {x3} {x4} {x5} {x6} {x7} {r s t : State} {a0} (e : @placeSrd x1 x2 x3 x4 x5 x6 x7 s = (a0, t)) (h : Keep r s) : Keep r t := by
  have := keep_placeSrd x1 x2 x3 x4 x5 x6 x7 h
  rw [e] at this
  exact this

theorem keep_placeSrds (p i leg seq l d c) {r s : State} (h : Keep r s) : Keep r (placeSrds p i leg seq l d c s).2 := by
  induction l generalizing d c s with
  | nil => exact h
  | cons x l ih => simp only [placeSrds]; exact ih _ _ (keep_placeSrd _ _ _ _ _ _ _ h)

theorem keep_placeSrds_e {p i leg seq l d c} {r s t : State} {a} (e : placeSrds p i leg seq l d c s = (a, t)) (h : Keep r s) : Keep r t := by
  have := keep_placeSrds p i leg seq l d c h
  rw [e] at this
  exact this

theorem keep_placeAnc (x1) (x2) (x3) (x4) (x5) {r s : State} (h : Keep r s) : Keep r (@placeAnc x1 x2 x3 x4 x5 s).2.2 := by
  simp only [placeAnc]
  repeat' with_reducible (first | exact h | exact Keep.refl _ | apply keep_modBolt | apply keep_countIsp | apply keep_beamWriteWhole | (apply Keep.foldl; intro _ _ h) | fail_if_no_progress apply Keep.upd (hm := rfl) | split | fail_if_no_progress dsimp only)

theorem keep_placeAnc_e {x1} {x2} {x3} {x4} {x5} {r s t : State} {a0} {a1} (e : @placeAnc x1 x2 x3 x4 x5 s = (a0, a1, t)) (h : Keep r s) : Keep r t := by
  have := keep_placeAnc x1 x2 x3 x4 x5 h
  rw [e] at this
  exact this

theorem keep_placeSdi (x1) (x2) (x3) (x4) {r s : State} (h : Keep r s) : Keep r (@placeSdi x1 x2 x3 x4 s).2.2 := by
  simp only [placeSdi]
  repeat' with_reducible (first | exact h | exact Keep.refl _ | apply keep_modBolt | apply keep_beamWrite | (apply Keep.foldl; intro _ _ h) | fail_if_no_progress apply Keep.upd (hm := rfl) | split | fail_if_no_progress dsimp only)

theorem keep_placeSdi_e {x1} {x2} {x3} {x4} {r s t : State} {a0} {a1} (e : @placeSdi x1 x2 x3 x4 s = (a0, a1, t)) (h : Keep r s) : Keep r t := by
  have := keep_placeSdi x1 x2 x3 x4 h
  rw [e] at this
  exact this

theorem keep_placeMedia (x1) (x2) (x3) (x4) {r s : State} (h : Keep r s) : Keep r (@placeMedia x1 x2 x3 x4 s).2.2.2 := by
  simp only [placeMedia]
  repeat' with_reducible (first | exact h | exact Keep.refl _ | apply keep_placeSdi | apply keep_placeAnc | apply keep_placeSrds | (refine keep_placeSdi_e (by assumption) ?_) | (refine keep_placeAnc_e (by assumption) ?_) | (refine keep_placeSrds_e (by assumption) ?_) | (apply Keep.foldl; intro _ _ h) | fail_if_no_progress apply Keep.upd (hm := rfl) | split | fail_if_no_progress dsimp only)

theorem keep_placeMedia_e {x1} {x2} {x3} {x4} {r s t : State} {a0} {a1} {a2} (e : @placeMedia x1 x2 x3 x4 s = (a0, a1, a2, t)) (h : Keep r s) : Keep r t := by
  have := keep_placeMedia x1 x2 x3 x4 h
  rw [e] at this
  exact this

theorem keep_tellNext (x1) (x2) (x3) (x4) {r s : State} (h : Keep r s) : Keep r (@tellNext x1 x2 x3 x4 s) := by
  simp only [tellNext]
  repeat' with_reducible (first | exact h | exact Keep.refl _ | apply keep_writeMap | apply keep_keepSlot | apply keep_setIsp | (apply Keep.foldl; intro _ _ h) | fail_if_no_progress apply Keep.upd (hm := rfl) | split | fail_if_no_progress dsimp only)

theorem keep_placeIn (x1) (x2) (x3) (x4) {r s : State} (h : Keep r s) : Keep r (@placeIn x1 x2 x3 x4 s) := by
  simp only [placeIn]
  repeat' with_reducible (first | exact h | exact Keep.refl _ | apply keep_tellNext | apply keep_writeMap | apply keep_placeMedia | apply keep_countIsp | apply keep_keepSlot | (refine keep_placeMedia_e (by assumption) ?_) | (apply Keep.foldl; intro _ _ h) | fail_if_no_progress apply Keep.upd (hm := rfl) | split | fail_if_no_progress dsimp only)

theorem keep_lateOne (x1) {r s : State} (h : Keep r s) : Keep r (@lateOne x1 s) := by
  simp only [lateOne]
  repeat' with_reducible (first | exact h | exact Keep.refl _ | apply keep_setIsp | apply keep_countIsp | (apply Keep.foldl; intro _ _ h) | fail_if_no_progress apply Keep.upd (hm := rfl) | split | fail_if_no_progress dsimp only)

theorem keep_placeFrame (x1) (x2) (x3) {r s : State} (h : Keep r s) : Keep r (@placeFrame x1 x2 x3 s) := by
  simp only [placeFrame]
  repeat' with_reducible (first | exact h | exact Keep.refl _ | apply keep_openSlot | apply keep_placeIn | apply keep_lateOne | apply keep_heldIdx | (refine keep_openSlot_e (by assumption) ?_) | (refine keep_heldIdx_e (by assumption) ?_) | (apply Keep.foldl; intro _ _ h) | fail_if_no_progress apply Keep.upd (hm := rfl) | split | fail_if_no_progress dsimp only)

theorem keep_sdiSync (x1) (x2) (x3) (x4) {r s : State} (h : Keep r s) : Keep r (@sdiSync x1 x2 x3 x4 s) := by
  simp only [sdiSync]
  repeat' with_reducible (first | exact h | exact Keep.refl _ | apply keep_setIsp | (apply Keep.foldl; intro _ _ h) | fail_if_no_progress apply Keep.upd (hm := rfl) | split | fail_if_no_progress dsimp only)

theorem keep_placePart (x1) (x2) (x3) (x4) {r s : State} (h : Keep r s) : Keep r (@placePart x1 x2 x3 x4 s).2 := by
  simp only [placePart]
  repeat' with_reducible (first | exact h | exact Keep.refl _ | apply keep_openSlot | apply keep_beamWriteWhole | apply keep_keepSlot | apply keep_heldIdx | (refine keep_openSlot_e (by assumption) ?_) | (refine keep_heldIdx_e (by assumption) ?_) | (apply Keep.foldl; intro _ _ h) | fail_if_no_progress apply Keep.upd (hm := rfl) | split | fail_if_no_progress dsimp only)

theorem keep_placePart_e {x1} {x2} {x3} {x4} {r s t : State} {a0} (e : @placePart x1 x2 x3 x4 s = (a0, t)) (h : Keep r s) : Keep r t := by
  have := keep_placePart x1 x2 x3 x4 h
  rw [e] at this
  exact this

theorem keep_placeAudio (x1) (x2) {r s : State} (h : Keep r s) : Keep r (@placeAudio x1 x2 s) := by
  simp only [placeAudio]
  repeat' with_reducible (first | exact h | exact Keep.refl _ | apply keep_countIsp | apply keep_feedDeliver | apply keep_lateOne | apply keep_placePart | (refine keep_placePart_e (by assumption) ?_) | (apply Keep.foldl; intro _ _ h) | fail_if_no_progress apply Keep.upd (hm := rfl) | split | fail_if_no_progress dsimp only)

theorem keep_deliverMedia (x1) (x2) (x3) (x4) (x5) {r s : State} (h : Keep r s) : Keep r (@deliverMedia x1 x2 x3 x4 x5 s) := by
  simp only [deliverMedia]
  repeat' with_reducible (first | exact h | exact Keep.refl _ | apply keep_placeFrame | apply keep_sdiSync | apply keep_placeAudio | apply keep_legValid | apply keep_countIsp | (apply Keep.foldl; intro _ _ h) | fail_if_no_progress apply Keep.upd (hm := rfl) | split | fail_if_no_progress dsimp only)

theorem keep_puntDrop (x1) {r s : State} (h : Keep r s) : Keep r (@puntDrop x1 s) := by
  simp only [puntDrop]
  repeat' with_reducible (first | exact h | exact Keep.refl _ | apply keep_addSat | apply keep_countLoom | apply keep_raiseOnce | (apply Keep.foldl; intro _ _ h) | fail_if_no_progress apply Keep.upd (hm := rfl) | split | fail_if_no_progress dsimp only)

theorem keep_punt (x1) (x2) (x3) {r s : State} (h : Keep r s) : Keep r (@punt x1 x2 x3 s) := by
  simp only [punt]
  repeat' with_reducible (first | exact h | exact Keep.refl _ | apply keep_countLoom | apply keep_modLoom | (refine keep_deliverBuf (by assumption) ?_) | apply keep_puntDrop | (apply Keep.foldl; intro _ _ h) | fail_if_no_progress apply Keep.upd (hm := rfl) | split | fail_if_no_progress dsimp only)

theorem keep_expForward (x1) (x2) (x3) (x4) (x5) {r s : State} (h : Keep r s) : Keep r (@expForward x1 x2 x3 x4 x5 s) := by
  simp only [expForward]
  repeat' with_reducible (first | exact h | exact Keep.refl _ | apply keep_modLane | apply keep_countLoom | apply keep_modLoom | apply keep_expDrop | apply keep_discardTx | (apply Keep.foldl; intro _ _ h) | fail_if_no_progress apply Keep.upd (hm := rfl) | split | fail_if_no_progress dsimp only)

theorem keep_rxBadFrame (x1) {r s : State} (h : Keep r s) : Keep r (@rxBadFrame x1 s) := by
  simp only [rxBadFrame]
  repeat' with_reducible (first | exact h | exact Keep.refl _ | apply keep_modLane | apply keep_countLn | (apply Keep.foldl; intro _ _ h) | fail_if_no_progress apply Keep.upd (hm := rfl) | split | fail_if_no_progress dsimp only)

theorem keep_macRemoves {x1 x2} {r s t : State} (e : macRemoves x1 x2 s = some t) (h : Keep r s) : Keep r t := by
  have hd : ∀ f, Keep r (countLn x1 3 0 1 (s.modLane x1 f)) := fun f => keep_countLn _ _ _ _ (keep_modLane _ _ h)
  simp only [macRemoves] at e
  repeat' split at e
  all_goals first | cases e; exact hd _ | cases e

theorem keep_rxPassed (x1) (x2) (x3) {r s : State} (h : Keep r s) : Keep r (@rxPassed x1 x2 x3 s) := by
  simp only [rxPassed]
  repeat' with_reducible (first | exact h | exact Keep.refl _ | apply keep_countLn | apply keep_modLane | (apply Keep.foldl; intro _ _ h) | fail_if_no_progress apply Keep.upd (hm := rfl) | split | fail_if_no_progress dsimp only)

theorem keep_classify (x1) (x2) (x3) {r s : State} (h : Keep r s) : Keep r (@classify x1 x2 x3 s) := by
  simp only [classify]
  repeat' with_reducible (first | exact h | exact Keep.refl _ | apply keep_deliverMedia | apply keep_countIsp | apply keep_rxPassed | apply keep_punt | (apply Keep.foldl; intro _ _ h) | fail_if_no_progress apply Keep.upd (hm := rfl) | split | fail_if_no_progress dsimp only)

theorem keep_sendPacket (x1) (x2) (x3) (x4) (x5) (x6) (x7) {r s : State} (h : Keep r s) : Keep r (@sendPacket x1 x2 x3 x4 x5 x6 x7 s) := by
  simp only [sendPacket]
  repeat' with_reducible (first | exact h | exact Keep.refl _ | apply keep_discardTx | apply keep_modLane | apply keep_setEsp | apply keep_tick | (apply Keep.foldl; intro _ _ h) | fail_if_no_progress apply Keep.upd (hm := rfl) | split | fail_if_no_progress dsimp only)

theorem keep_segBytes (x1) (x2) (x3) {r s : State} (h : Keep r s) : Keep r (@segBytes x1 x2 x3 s).2 := by
  simp only [segBytes]
  repeat' with_reducible (first | exact h | exact Keep.refl _ | apply keep_beamRead | (apply Keep.foldl; intro _ _ h) | fail_if_no_progress apply Keep.upd (hm := rfl) | split | fail_if_no_progress dsimp only)

theorem keep_segBytes_e {x1} {x2} {x3} {r s t : State} {a0} (e : @segBytes x1 x2 x3 s = (a0, t)) (h : Keep r s) : Keep r t := by
  have := keep_segBytes x1 x2 x3 h
  rw [e] at this
  exact this

theorem keep_segsBytes (p w l) {r s : State} (h : Keep r s) : Keep r (segsBytes p w l s).2 := by
  induction l generalizing s with
  | nil => exact h
  | cons x l ih => simp only [segsBytes]; exact ih (keep_segBytes _ _ _ h)

theorem keep_segsBytes_e {p w l} {r s t : State} {a} (e : segsBytes p w l s = (a, t)) (h : Keep r s) : Keep r t := by
  have := keep_segsBytes p w l h
  rw [e] at this
  exact this

theorem keep_tornCheck (x1) (x2) {r s : State} (h : Keep r s) : Keep r (@tornCheck x1 x2 s) := by
  simp only [tornCheck]
  repeat' with_reducible (first | exact h | exact Keep.refl _ | apply keep_raise_ | apply keep_portNotice | apply keep_setEsp | apply keep_countEsp | apply keep_slotHas | (refine keep_slotHas_e (by assumption) ?_) | (apply Keep.foldl; intro _ _ h) | fail_if_no_progress apply Keep.upd (hm := rfl) | split | fail_if_no_progress dsimp only)

theorem keep_setHead (x1) (x2) {r s : State} (h : Keep r s) : Keep r (@setHead x1 x2 s) := by
  simp only [setHead]
  repeat' with_reducible (first | exact h | exact Keep.refl _ | apply keep_setEsp | (apply Keep.foldl; intro _ _ h) | fail_if_no_progress apply Keep.upd (hm := rfl) | split | fail_if_no_progress dsimp only)

theorem keep_sendVideo (x1) (x2) (x3) (x4) (x5) {r s : State} (h : Keep r s) : Keep r (@sendVideo x1 x2 x3 x4 x5 s) := by
  simp only [sendVideo]
  repeat' with_reducible (first | exact h | exact Keep.refl _ | apply keep_setHead | apply keep_sendPacket | apply keep_segsBytes | (refine keep_segsBytes_e (by assumption) ?_) | (apply Keep.foldl; intro _ _ h) | fail_if_no_progress apply Keep.upd (hm := rfl) | split | fail_if_no_progress dsimp only)

theorem keep_sendAnc (x1) (x2) (x3) (x4) (x5) {r s : State} (h : Keep r s) : Keep r (@sendAnc x1 x2 x3 x4 x5 s) := by
  simp only [sendAnc]
  repeat' with_reducible (first | exact h | exact Keep.refl _ | apply keep_sendPacket | apply keep_beamRead | apply keep_tornCheck | apply keep_setHead | (apply Keep.foldl; intro _ _ h) | fail_if_no_progress apply Keep.upd (hm := rfl) | split | fail_if_no_progress dsimp only)

theorem keep_sendSdi (x1) (x2) (x3) (x4) (x5) {r s : State} (h : Keep r s) : Keep r (@sendSdi x1 x2 x3 x4 x5 s) := by
  simp only [sendSdi]
  repeat' with_reducible (first | exact h | exact Keep.refl _ | apply keep_setEsp | apply keep_sendPacket | apply keep_beamRead | apply keep_setHead | (apply Keep.foldl; intro _ _ h) | fail_if_no_progress apply Keep.upd (hm := rfl) | split | fail_if_no_progress dsimp only)

theorem keep_sendGroup (p k) {r s : State} (h : Keep r s) : Keep r (sendGroup p k s) := by
  induction k generalizing s with
  | zero => exact h
  | succ k ih =>
    simp only [sendGroup]
    repeat' with_reducible (first | exact h | apply ih | apply keep_sendVideo | apply keep_sendAnc | apply keep_sendSdi | split)

theorem keep_outSample (x1) (x2) {r s : State} (h : Keep r s) : Keep r (@outSample x1 x2 s).2.2 := by
  simp only [outSample]
  repeat' with_reducible (first | exact h | exact Keep.refl _ | apply keep_setEsp | apply keep_countEsp | apply keep_beamRead | apply keep_sampleThere | (refine keep_sampleThere_e (by assumption) ?_) | (apply Keep.foldl; intro _ _ h) | fail_if_no_progress apply Keep.upd (hm := rfl) | split | fail_if_no_progress dsimp only)

theorem keep_outSample_e {x1} {x2} {r s t : State} {a0} {a1} (e : @outSample x1 x2 s = (a0, a1, t)) (h : Keep r s) : Keep r t := by
  have := keep_outSample x1 x2 h
  rw [e] at this
  exact this

theorem keep_outSamples (p n m) {r s : State} (h : Keep r s) : Keep r (outSamples p n m s).2.2 := by
  induction n generalizing m s with
  | zero => exact h
  | succ n ih => simp only [outSamples]; exact ih _ (keep_outSample _ _ h)

theorem keep_outSamples_e {p n m} {r s t : State} {a b} (e : outSamples p n m s = (a, b, t)) (h : Keep r s) : Keep r t := by
  have := keep_outSamples p n m h
  rw [e] at this
  exact this

theorem keep_mediaLeft (x1) (x2) (x3) (x4) {r s : State} (h : Keep r s) : Keep r (@mediaLeft x1 x2 x3 x4 s) := by
  simp only [mediaLeft]
  repeat' with_reducible (first | exact h | exact Keep.refl _ | apply keep_setEsp | apply keep_raise_ | apply keep_countEsp | (apply Keep.foldl; intro _ _ h) | fail_if_no_progress apply Keep.upd (hm := rfl) | split | fail_if_no_progress dsimp only)

theorem keep_hostLeft (x1) (x2) {r s : State} (h : Keep r s) : Keep r (@hostLeft x1 x2 s) := by
  simp only [hostLeft]
  repeat' with_reducible (first | exact h | exact Keep.refl _ | apply keep_postCompl | (apply Keep.foldl; intro _ _ h) | fail_if_no_progress apply Keep.upd (hm := rfl) | split | fail_if_no_progress dsimp only)

end Sys2Proof.Machine
end

