-- ==== Sys2Proof/Laws/KeepSystem.lean ====
section
/-! SUPPORT. What no operation touches: the queue of commands, the one-way order of the fuses and the canonical form of the
beam memory (`Keep`), for the operations of calibration, codes, the monitor, temperature, splits, reads, security, resets and register writes. -/

set_option Elab.async false

namespace Sys2Proof.Machine

theorem keep_holdOutputs (x1) {r s : State} (h : Keep r s) : Keep r (@holdOutputs x1 s) := by
  simp only [holdOutputs]
  repeat' with_reducible (first | exact h | exact Keep.refl _ | apply keep_setFld | (apply Keep.foldl; intro _ _ h) | fail_if_no_progress apply Keep.upd (hm := rfl) | split | fail_if_no_progress dsimp only)

theorem keep_calAccept (x1) (x2) (x3) {r s : State} (h : Keep r s) : Keep r (@calAccept x1 x2 x3 s) := by
  simp only [calAccept]
  repeat' with_reducible (first | exact h | exact Keep.refl _ | apply keep_holdOutputs | apply keep_calFinish | apply keep_setSFld | apply keep_setFld | apply keep_modLane | apply keep_trackCal | (apply Keep.foldl; intro _ _ h) | fail_if_no_progress apply Keep.upd (hm := rfl) | split | fail_if_no_progress dsimp only)

theorem keep_calReject (x1) (x2) {r s : State} (h : Keep r s) : Keep r (@calReject x1 x2 s) := by
  simp only [calReject]
  repeat' with_reducible (first | exact h | exact Keep.refl _ | apply keep_raise_ | apply keep_addSat | apply keep_setFld | (apply Keep.foldl; intro _ _ h) | fail_if_no_progress apply Keep.upd (hm := rfl) | split | fail_if_no_progress dsimp only)

theorem keep_writeCalCtl (x1) (x2) {r s : State} (h : Keep r s) : Keep r (@writeCalCtl x1 x2 s) := by
  simp only [writeCalCtl]
  repeat' with_reducible (first | exact h | exact Keep.refl _ | apply keep_calStart | apply keep_calAbandon | apply keep_setReg | apply keep_rejectReg | (apply Keep.foldl; intro _ _ h) | fail_if_no_progress apply Keep.upd (hm := rfl) | split | fail_if_no_progress dsimp only)

theorem keep_writeFdeSel (x1) (x2) {r s : State} (h : Keep r s) : Keep r (@writeFdeSel x1 x2 s) := by
  simp only [writeFdeSel]
  repeat' with_reducible (first | exact h | exact Keep.refl _ | apply keep_resultPending | apply keep_modLane | apply keep_setFld | apply keep_rejectReg | (apply Keep.foldl; intro _ _ h) | fail_if_no_progress apply Keep.upd (hm := rfl) | split | fail_if_no_progress dsimp only)

theorem keep_writeCalSel (x1) (x2) {r s : State} (h : Keep r s) : Keep r (@writeCalSel x1 x2 s) := by
  simp only [writeCalSel]
  repeat' with_reducible (first | exact h | exact Keep.refl _ | apply keep_resultPending | apply keep_modLane | apply keep_setReg | apply keep_rejectReg | (apply Keep.foldl; intro _ _ h) | fail_if_no_progress apply Keep.upd (hm := rfl) | split | fail_if_no_progress dsimp only)

theorem keep_fdeReady (x1) {r s : State} (h : Keep r s) : Keep r (@fdeReady x1 s) := by
  simp only [fdeReady]
  repeat' with_reducible (first | exact h | exact Keep.refl _ | apply keep_resultReady | apply keep_setSFld | apply keep_modLane | (apply Keep.foldl; intro _ _ h) | fail_if_no_progress apply Keep.upd (hm := rfl) | split | fail_if_no_progress dsimp only)

theorem keep_calReady (x1) {r s : State} (h : Keep r s) : Keep r (@calReady x1 s) := by
  simp only [calReady]
  repeat' with_reducible (first | exact h | exact Keep.refl _ | apply keep_resultReady | apply keep_setFld | apply keep_setSFld | apply keep_modLane | apply keep_trackCal | (apply Keep.foldl; intro _ _ h) | fail_if_no_progress apply Keep.upd (hm := rfl) | split | fail_if_no_progress dsimp only)

theorem keep_addFec (x1) (x2) (x3) {r s : State} (h : Keep r s) : Keep r (@addFec x1 x2 x3 s) := by
  simp only [addFec]
  repeat' with_reducible (first | exact h | exact Keep.refl _ | apply keep_add48 | (apply Keep.foldl; intro _ _ h) | fail_if_no_progress apply Keep.upd (hm := rfl) | split | fail_if_no_progress dsimp only)

theorem keep_countSyms (x1) (x2) (x3) {r s : State} (h : Keep r s) : Keep r (@countSyms x1 x2 x3 s) := by
  simp only [countSyms]
  repeat' with_reducible (first | exact h | exact Keep.refl _ | apply keep_addFec | (apply Keep.foldl; intro _ _ h) | fail_if_no_progress apply Keep.upd (hm := rfl) | split | fail_if_no_progress dsimp only)

theorem keep_writeFecCtl (x1) (x2) {r s : State} (h : Keep r s) : Keep r (@writeFecCtl x1 x2 s) := by
  simp only [writeFecCtl]
  repeat' with_reducible (first | exact h | exact Keep.refl _ | apply keep_clearFec | apply keep_setFld | apply keep_rejectReg | (apply Keep.foldl; intro _ _ h) | fail_if_no_progress apply Keep.upd (hm := rfl) | split | fail_if_no_progress dsimp only)

theorem keep_lanePrbsBegin (x1) (x2) (x3) (x4) (x5) (x6) (x7) {r s : State} (h : Keep r s) : Keep r (@lanePrbsBegin x1 x2 x3 x4 x5 x6 x7 s) := by
  simp only [lanePrbsBegin]
  repeat' with_reducible (first | exact h | exact Keep.refl _ | apply keep_complete | apply keep_retrainRx | apply keep_cancelTrain | apply keep_discardHeld | apply keep_addSat | apply keep_modLane | apply keep_clearRegs | apply keep_setFld | apply keep_endInj | (apply Keep.foldl; intro _ _ h) | fail_if_no_progress apply Keep.upd (hm := rfl) | split | fail_if_no_progress dsimp only)

theorem keep_prbsSync (x1) (x2) (x3) (x4) {r s : State} (h : Keep r s) : Keep r (@prbsSync x1 x2 x3 x4 s) := by
  simp only [prbsSync]
  repeat' with_reducible (first | exact h | exact Keep.refl _ | apply keep_addSat | apply keep_setFld | (apply Keep.foldl; intro _ _ h) | fail_if_no_progress apply Keep.upd (hm := rfl) | split | fail_if_no_progress dsimp only)

theorem keep_coxPrbsSync (x1) (x2) (x3) (x4) {r s : State} (h : Keep r s) : Keep r (@coxPrbsSync x1 x2 x3 x4 s) := by
  simp only [coxPrbsSync]
  repeat' with_reducible (first | exact h | exact Keep.refl _ | apply keep_addSat | apply keep_add48 | apply keep_setFld | (apply Keep.foldl; intro _ _ h) | fail_if_no_progress apply Keep.upd (hm := rfl) | split | fail_if_no_progress dsimp only)

theorem keep_convert (x1) (x2) {r s : State} (h : Keep r s) : Keep r (@convert x1 x2 s) := by
  simp only [convert]
  repeat' with_reducible (first | exact h | exact Keep.refl _ | apply keep_modMon | apply keep_resultReady | apply keep_setFld | (apply Keep.foldl; intro _ _ h) | fail_if_no_progress apply Keep.upd (hm := rfl) | split | fail_if_no_progress dsimp only)

theorem keep_openWire (x1) (x2) (x3) {r s : State} (h : Keep r s) : Keep r (@openWire x1 x2 x3 s) := by
  simp only [openWire]
  repeat' with_reducible (first | exact h | exact Keep.refl _ | apply keep_setFld | apply keep_raise_ | apply keep_modMon | (apply Keep.foldl; intro _ _ h) | fail_if_no_progress apply Keep.upd (hm := rfl) | split | fail_if_no_progress dsimp only)

theorem keep_holdChannels (x1) {r s : State} (h : Keep r s) : Keep r (@holdChannels x1 s) := by
  simp only [holdChannels]
  repeat' with_reducible (first | exact h | exact Keep.refl _ | apply keep_setFld | (apply Keep.foldl; intro _ _ h) | fail_if_no_progress apply Keep.upd (hm := rfl) | split | fail_if_no_progress dsimp only)

theorem keep_calCandidate {r s : State} (h : Keep r s) : Keep r (@calCandidate s) := by
  simp only [calCandidate]
  repeat' with_reducible (first | exact h | exact Keep.refl _ | apply keep_addSat | apply keep_raise_ | apply keep_setFld | apply keep_holdChannels | apply keep_modMon | (apply Keep.foldl; intro _ _ h) | fail_if_no_progress apply Keep.upd (hm := rfl) | split | fail_if_no_progress dsimp only)

theorem keep_calPair (x1) (x2) {r s : State} (h : Keep r s) : Keep r (@calPair x1 x2 s) := by
  simp only [calPair]
  repeat' with_reducible (first | exact h | exact Keep.refl _ | apply keep_calCandidate | apply keep_setFld | apply keep_modMon | (apply Keep.foldl; intro _ _ h) | fail_if_no_progress apply Keep.upd (hm := rfl) | split | fail_if_no_progress dsimp only)

theorem keep_calApply {r s : State} (h : Keep r s) : Keep r (@calApply s) := by
  simp only [calApply]
  repeat' with_reducible (first | exact h | exact Keep.refl _ | apply keep_resultReady | apply keep_holdChannels | apply keep_setFld | apply keep_incWrap | apply keep_setSFld | apply keep_modMon | (apply Keep.foldl; intro _ _ h) | fail_if_no_progress apply Keep.upd (hm := rfl) | split | fail_if_no_progress dsimp only)

theorem keep_trip (x1) (x2) {r s : State} (h : Keep r s) : Keep r (@trip x1 x2 s) := by
  simp only [trip]
  repeat' with_reducible (first | exact h | exact Keep.refl _ | apply keep_setFld | apply keep_raise_ | apply keep_wake | apply keep_forceSafe | (apply Keep.foldl; intro _ _ h) | fail_if_no_progress apply Keep.upd (hm := rfl) | split | fail_if_no_progress dsimp only)

theorem keep_thresholds (x1) (x2) (x3) {r s : State} (h : Keep r s) : Keep r (@thresholds x1 x2 x3 s) := by
  simp only [thresholds]
  repeat' with_reducible (first | exact h | exact Keep.refl _ | apply keep_trip | apply keep_modMon | (apply Keep.foldl; intro _ _ h) | fail_if_no_progress apply Keep.upd (hm := rfl) | split | fail_if_no_progress dsimp only)

theorem keep_chOutput (x1) (x2) (x3) {r s : State} (h : Keep r s) : Keep r (@chOutput x1 x2 x3 s) := by
  simp only [chOutput]
  repeat' with_reducible (first | exact h | exact Keep.refl _ | apply keep_tick | apply keep_setFld | apply keep_modMon | apply keep_resultReady | apply keep_setSFld | apply keep_thresholds | (apply Keep.foldl; intro _ _ h) | fail_if_no_progress apply Keep.upd (hm := rfl) | split | fail_if_no_progress dsimp only)

theorem keep_chRun (x1) (x2) (x3) {r s : State} (h : Keep r s) : Keep r (@chRun x1 x2 x3 s) := by
  simp only [chRun]
  repeat' with_reducible (first | exact h | exact Keep.refl _ | apply keep_chOutput | apply keep_modMon | apply keep_raise_ | (apply Keep.foldl; intro _ _ h) | fail_if_no_progress apply Keep.upd (hm := rfl) | split | fail_if_no_progress dsimp only)

theorem keep_writeCh (x1) (x2) {r s : State} (h : Keep r s) : Keep r (@writeCh x1 x2 s) := by
  simp only [writeCh]
  repeat' with_reducible (first | exact h | exact Keep.refl _ | apply keep_modMon | apply keep_setReg | apply keep_rejectReg | (apply Keep.foldl; intro _ _ h) | fail_if_no_progress apply Keep.upd (hm := rfl) | split | fail_if_no_progress dsimp only)

theorem keep_writeCoef (x1) {r s : State} (h : Keep r s) : Keep r (@writeCoef x1 s) := by
  simp only [writeCoef]
  repeat' with_reducible (first | exact h | exact Keep.refl _ | apply keep_modMon | apply keep_rejectReg | (apply Keep.foldl; intro _ _ h) | fail_if_no_progress apply Keep.upd (hm := rfl) | split | fail_if_no_progress dsimp only)

theorem keep_writeTrip (x1) {r s : State} (h : Keep r s) : Keep r (@writeTrip x1 s) := by
  simp only [writeTrip]
  repeat' with_reducible (first | exact h | exact Keep.refl _ | apply keep_modMon | apply keep_setReg | (apply Keep.foldl; intro _ _ h) | fail_if_no_progress apply Keep.upd (hm := rfl) | split | fail_if_no_progress dsimp only)

theorem keep_writeMonCtl (x1) {r s : State} (h : Keep r s) : Keep r (@writeMonCtl x1 s) := by
  simp only [writeMonCtl]
  repeat' with_reducible (first | exact h | exact Keep.refl _ | apply keep_resetRegs | apply keep_emit | apply keep_mgtEnd | (apply Keep.foldl; intro _ _ h) | fail_if_no_progress apply Keep.upd (hm := rfl) | split | fail_if_no_progress dsimp only)

theorem keep_modThm {r s : State} (x1) (h : Keep r s) : Keep r (@State.modThm s x1) := by
  simp only [State.modThm]
  repeat' with_reducible (first | exact h | exact Keep.refl _ | (apply Keep.foldl; intro _ _ h) | fail_if_no_progress apply Keep.upd (hm := rfl) | split | fail_if_no_progress dsimp only)

theorem keep_takeSensor (x1) (x2) {r s : State} (h : Keep r s) : Keep r (@takeSensor x1 x2 s) := by
  simp only [takeSensor]
  repeat' with_reducible (first | exact h | exact Keep.refl _ | apply keep_setReg | apply keep_modThm | (apply Keep.foldl; intro _ _ h) | fail_if_no_progress apply Keep.upd (hm := rfl) | split | fail_if_no_progress dsimp only)

theorem keep_laneTemp (x1) {r s : State} (h : Keep r s) : Keep r (@laneTemp x1 s) := by
  simp only [laneTemp]
  repeat' with_reducible (first | exact h | exact Keep.refl _ | apply keep_calAbandon | apply keep_setSFld | apply keep_modLane | apply keep_trackCal | (apply Keep.foldl; intro _ _ h) | fail_if_no_progress apply Keep.upd (hm := rfl) | split | fail_if_no_progress dsimp only)

theorem keep_raiseRefresh {r s : State} (h : Keep r s) : Keep r (@raiseRefresh s) := by
  simp only [raiseRefresh]
  repeat' with_reducible (first | exact h | exact Keep.refl _ | apply keep_setFld | (apply Keep.foldl; intro _ _ h) | fail_if_no_progress apply Keep.upd (hm := rfl) | split | fail_if_no_progress dsimp only)

theorem keep_followBand {r s : State} (h : Keep r s) : Keep r (@followBand s) := by
  simp only [followBand]
  repeat' with_reducible (first | exact h | exact Keep.refl _ | apply keep_emit | apply keep_modThm | apply keep_setFld | apply keep_raise_ | (apply Keep.foldl; intro _ _ h) | fail_if_no_progress apply Keep.upd (hm := rfl) | split | fail_if_no_progress dsimp only)

theorem keep_setBand (x1) (x2) {r s : State} (h : Keep r s) : Keep r (@setBand x1 x2 s) := by
  simp only [setBand]
  repeat' with_reducible (first | exact h | exact Keep.refl _ | apply keep_modThm | apply keep_setFld | apply keep_raise_ | apply keep_raiseRefresh | apply keep_followBand | (apply Keep.foldl; intro _ _ h) | fail_if_no_progress apply Keep.upd (hm := rfl) | split | fail_if_no_progress dsimp only)

theorem keep_judgeMax (x1) {r s : State} (h : Keep r s) : Keep r (@judgeMax x1 s) := by
  simp only [judgeMax]
  repeat' with_reducible (first | exact h | exact Keep.refl _ | apply keep_modThm | apply keep_wake | apply keep_setBand | (apply Keep.foldl; intro _ _ h) | fail_if_no_progress apply Keep.upd (hm := rfl) | split | fail_if_no_progress dsimp only)

theorem keep_judgeHot {r s : State} (h : Keep r s) : Keep r (@judgeHot s) := by
  simp only [judgeHot]
  repeat' with_reducible (first | exact h | exact Keep.refl _ | apply keep_modThm | apply keep_raise_ | (apply Keep.foldl; intro _ _ h) | fail_if_no_progress apply Keep.upd (hm := rfl) | split | fail_if_no_progress dsimp only)

theorem keep_showSensor {r s : State} (h : Keep r s) : Keep r (@showSensor s) := by
  simp only [showSensor]
  repeat' with_reducible (first | exact h | exact Keep.refl _ | apply keep_resultReady | apply keep_setSFld | apply keep_setFld | (apply Keep.foldl; intro _ _ h) | fail_if_no_progress apply Keep.upd (hm := rfl) | split | fail_if_no_progress dsimp only)

theorem keep_sample (x1) {r s : State} (h : Keep r s) : Keep r (@sample x1 s) := by
  simp only [sample]
  repeat' with_reducible (first | exact h | exact Keep.refl _ | apply keep_setFld | apply keep_setSFld | apply keep_judgeMax | apply keep_followBand | apply keep_laneTemp | apply keep_showSensor | apply keep_judgeHot | apply keep_raise_ | apply keep_takeSensor | (apply Keep.foldl; intro _ _ h) | fail_if_no_progress apply Keep.upd (hm := rfl) | split | fail_if_no_progress dsimp only)

theorem keep_writeAgeSel (x1) {r s : State} (h : Keep r s) : Keep r (@writeAgeSel x1 s) := by
  simp only [writeAgeSel]
  repeat' with_reducible (first | exact h | exact Keep.refl _ | apply keep_resultPending | apply keep_modThm | apply keep_setFld | apply keep_rejectReg | (apply Keep.foldl; intro _ _ h) | fail_if_no_progress apply Keep.upd (hm := rfl) | split | fail_if_no_progress dsimp only)

theorem keep_showPlan {r s : State} (h : Keep r s) : Keep r (@showPlan s) := by
  simp only [showPlan]
  repeat' with_reducible (first | exact h | exact Keep.refl _ | apply keep_setFld | (apply Keep.foldl; intro _ _ h) | fail_if_no_progress apply Keep.upd (hm := rfl) | split | fail_if_no_progress dsimp only)

theorem keep_applyPlan (x1) {r s : State} (h : Keep r s) : Keep r (@applyPlan x1 s) := by
  simp only [applyPlan]
  repeat' with_reducible (first | exact h | exact Keep.refl _ | apply keep_modThm | apply keep_showPlan | apply keep_raiseRefresh | (apply Keep.foldl; intro _ _ h) | fail_if_no_progress apply Keep.upd (hm := rfl) | split | fail_if_no_progress dsimp only)

theorem keep_postPlan (x1) (x2) {r s : State} (h : Keep r s) : Keep r (@postPlan x1 x2 s) := by
  simp only [postPlan]
  repeat' with_reducible (first | exact h | exact Keep.refl _ | apply keep_notice | (apply Keep.foldl; intro _ _ h) | fail_if_no_progress apply Keep.upd (hm := rfl) | split | fail_if_no_progress dsimp only)

theorem keep_writePlanAck (x1) {r s : State} (h : Keep r s) : Keep r (@writePlanAck x1 s) := by
  simp only [writePlanAck]
  repeat' with_reducible (first | exact h | exact Keep.refl _ | apply keep_modThm | apply keep_showPlan | apply keep_applyPlan | apply keep_rejectReg | (apply Keep.foldl; intro _ _ h) | fail_if_no_progress apply Keep.upd (hm := rfl) | split | fail_if_no_progress dsimp only)

theorem keep_writeThmCtl (x1) {r s : State} (h : Keep r s) : Keep r (@writeThmCtl x1 s) := by
  simp only [writeThmCtl]
  repeat' with_reducible (first | exact h | exact Keep.refl _ | apply keep_followBand | apply keep_applyPlan | apply keep_modThm | apply keep_setReg | apply keep_rejectReg | (apply Keep.foldl; intro _ _ h) | fail_if_no_progress apply Keep.upd (hm := rfl) | split | fail_if_no_progress dsimp only)

theorem keep_writeBand (x1) (x2) {r s : State} (h : Keep r s) : Keep r (@writeBand x1 x2 s) := by
  simp only [writeBand]
  repeat' with_reducible (first | exact h | exact Keep.refl _ | apply keep_setFld | apply keep_rejectReg | (apply Keep.foldl; intro _ _ h) | fail_if_no_progress apply Keep.upd (hm := rfl) | split | fail_if_no_progress dsimp only)

theorem keep_writeSensSel (x1) {r s : State} (h : Keep r s) : Keep r (@writeSensSel x1 s) := by
  simp only [writeSensSel]
  repeat' with_reducible (first | exact h | exact Keep.refl _ | apply keep_resultPending | apply keep_setFld | (apply Keep.foldl; intro _ _ h) | fail_if_no_progress apply Keep.upd (hm := rfl) | split | fail_if_no_progress dsimp only)

theorem keep_perstThermal {r s : State} (h : Keep r s) : Keep r (@perstThermal s) := by
  simp only [perstThermal]
  repeat' with_reducible (first | exact h | exact Keep.refl _ | apply keep_modThm | apply keep_showPlan | (apply Keep.foldl; intro _ _ h) | fail_if_no_progress apply Keep.upd (hm := rfl) | split | fail_if_no_progress dsimp only)

theorem keep_cntStart (x1) (x2) {r s : State} (h : Keep r s) : Keep r (@cntStart x1 x2 s) := by
  simp only [cntStart]
  repeat' with_reducible (first | exact h | exact Keep.refl _ | apply keep_setReg | (apply Keep.foldl; intro _ _ h) | fail_if_no_progress apply Keep.upd (hm := rfl) | split | fail_if_no_progress dsimp only)

theorem keep_writeCfg (x1) (x2) {r s : State} (h : Keep r s) : Keep r (@writeCfg x1 x2 s) := by
  simp only [writeCfg]
  repeat' with_reducible (first | exact h | exact Keep.refl _ | apply keep_cntStart | apply keep_setReg | (apply Keep.foldl; intro _ _ h) | fail_if_no_progress apply Keep.upd (hm := rfl) | split | fail_if_no_progress dsimp only)

theorem keep_writeFilt (x1) (x2) {r s : State} (h : Keep r s) : Keep r (@writeFilt x1 x2 s) := by
  simp only [writeFilt]
  repeat' with_reducible (first | exact h | exact Keep.refl _ | apply keep_setReg | (apply Keep.foldl; intro _ _ h) | fail_if_no_progress apply Keep.upd (hm := rfl) | split | fail_if_no_progress dsimp only)

theorem keep_writeCnt (x1) (x2) (x3) {r s : State} (h : Keep r s) : Keep r (@writeCnt x1 x2 x3 s) := by
  simp only [writeCnt]
  repeat' with_reducible (first | exact h | exact Keep.refl _ | apply keep_writeCfg | apply keep_writeFilt | apply keep_rejectReg | (apply Keep.foldl; intro _ _ h) | fail_if_no_progress apply Keep.upd (hm := rfl) | split | fail_if_no_progress dsimp only)

theorem keep_writeSplitCtl (x1) {r s : State} (h : Keep r s) : Keep r (@writeSplitCtl x1 s) := by
  simp only [writeSplitCtl]
  repeat' with_reducible (first | exact h | exact Keep.refl _ | apply keep_setReg | apply keep_rejectReg | apply keep_setFld | (apply Keep.foldl; intro _ _ h) | fail_if_no_progress apply Keep.upd (hm := rfl) | split | fail_if_no_progress dsimp only)

theorem keep_showBw (x1) {r s : State} (h : Keep r s) : Keep r (@showBw x1 s) := by
  simp only [showBw]
  repeat' with_reducible (first | exact h | exact Keep.refl _ | apply keep_setFld | (apply Keep.foldl; intro _ _ h) | fail_if_no_progress apply Keep.upd (hm := rfl) | split | fail_if_no_progress dsimp only)

theorem keep_putSplit (x1) {r s : State} (h : Keep r s) : Keep r (@putSplit x1 s) := by
  simp only [putSplit]
  repeat' with_reducible (first | exact h | exact Keep.refl _ | apply keep_setFld | apply keep_emit | apply keep_addSat | (apply Keep.foldl; intro _ _ h) | fail_if_no_progress apply Keep.upd (hm := rfl) | split | fail_if_no_progress dsimp only)

theorem keep_readEffects (x1) (x2) (x3) {r s : State} (h : Keep r s) : Keep r (@readEffects x1 x2 x3 s) := by
  simp only [readEffects]
  repeat' with_reducible (first | exact h | exact Keep.refl _ | apply keep_setReg | (apply Keep.foldl; intro _ _ h) | fail_if_no_progress apply Keep.upd (hm := rfl) | split | fail_if_no_progress dsimp only)

theorem keep_readWord (x1) (x2) (x3) (x4) {r s : State} (h : Keep r s) : Keep r (@readWord x1 x2 x3 x4 s).2 := by
  simp only [readWord]
  repeat' with_reducible (first | exact h | exact Keep.refl _ | apply keep_logReject | apply keep_ancVote | (refine keep_ancVote_e (by assumption) ?_) | (apply Keep.foldl; intro _ _ h) | fail_if_no_progress apply Keep.upd (hm := rfl) | split | fail_if_no_progress dsimp only)

theorem keep_readWord_e {x1} {x2} {x3} {x4} {r s t : State} {a0} (e : @readWord x1 x2 x3 x4 s = (a0, t)) (h : Keep r s) : Keep r t := by
  have := keep_readWord x1 x2 x3 x4 h
  rw [e] at this
  exact this

theorem keep_readReg (x1) (x2) (x3) (x4) {r s : State} (h : Keep r s) : Keep r (@readReg x1 x2 x3 x4 s).2 := by
  simp only [readReg]
  repeat' with_reducible (first | exact h | exact Keep.refl _ | apply keep_readEffects | apply keep_readWord | apply keep_logReject | (refine keep_readWord_e (by assumption) ?_) | (apply Keep.foldl; intro _ _ h) | fail_if_no_progress apply Keep.upd (hm := rfl) | split | fail_if_no_progress dsimp only)

theorem keep_readReg_e {x1} {x2} {x3} {x4} {r s t : State} {a0} (e : @readReg x1 x2 x3 x4 s = (a0, t)) (h : Keep r s) : Keep r t := by
  have := keep_readReg x1 x2 x3 x4 h
  rw [e] at this
  exact this

theorem keep_readAt (x1) (x2) {r s : State} (h : Keep r s) : Keep r (@readAt x1 x2 s).2 := by
  simp only [readAt]
  repeat' with_reducible (first | exact h | exact Keep.refl _ | apply keep_readReg | apply keep_logReject | (refine keep_readReg_e (by assumption) ?_) | (apply Keep.foldl; intro _ _ h) | fail_if_no_progress apply Keep.upd (hm := rfl) | split | fail_if_no_progress dsimp only)

theorem keep_readAt_e {x1} {x2} {r s t : State} {a0} (e : @readAt x1 x2 s = (a0, t)) (h : Keep r s) : Keep r t := by
  have := keep_readAt x1 x2 h
  rw [e] at this
  exact this

theorem keep_unsupported {r s : State} (h : Keep r s) : Keep r (@unsupported s) := by
  simp only [unsupported]
  repeat' with_reducible (first | exact h | exact Keep.refl _ | apply keep_modCfg | (apply Keep.foldl; intro _ _ h) | fail_if_no_progress apply Keep.upd (hm := rfl) | split | fail_if_no_progress dsimp only)

theorem keep_readDone (x1) (x2) {r s : State} (h : Keep r s) : Keep r (@readDone x1 x2 s) := by
  simp only [readDone]
  repeat' with_reducible (first | exact h | exact Keep.refl _ | apply keep_unsupported | apply keep_emit | apply keep_readAt | (refine keep_readAt_e (by assumption) ?_) | (apply Keep.foldl; intro _ _ h) | fail_if_no_progress apply Keep.upd (hm := rfl) | split | fail_if_no_progress dsimp only)

theorem keep_modSec {r s : State} (x1) (h : Keep r s) : Keep r (@State.modSec s x1) := by
  simp only [State.modSec]
  repeat' with_reducible (first | exact h | exact Keep.refl _ | (apply Keep.foldl; intro _ _ h) | fail_if_no_progress apply Keep.upd (hm := rfl) | split | fail_if_no_progress dsimp only)

theorem keep_mirrorFuses {r s : State} (h : Keep r s) : Keep r (@mirrorFuses s) := by
  simp only [mirrorFuses]
  repeat' with_reducible (first | exact h | exact Keep.refl _ | apply keep_ancWriteAll | (apply Keep.foldl; intro _ _ h) | fail_if_no_progress apply Keep.upd (hm := rfl) | split | fail_if_no_progress dsimp only)

theorem keep_showTa {r s : State} (h : Keep r s) : Keep r (@showTa s) := by
  simp only [showTa]
  repeat' with_reducible (first | exact h | exact Keep.refl _ | apply keep_ancWrite | (apply Keep.foldl; intro _ _ h) | fail_if_no_progress apply Keep.upd (hm := rfl) | split | fail_if_no_progress dsimp only)

theorem keep_awaitHost {r s : State} (h : Keep r s) : Keep r (@awaitHost s) := by
  simp only [awaitHost]
  repeat' with_reducible (first | exact h | exact Keep.refl _ | apply keep_setFld | apply keep_showPhase | (apply Keep.foldl; intro _ _ h) | fail_if_no_progress apply Keep.upd (hm := rfl) | split | fail_if_no_progress dsimp only)

theorem keep_bootWords (x1) (x2) (x3) {r s : State} (h : Keep r s) : Keep r (@bootWords x1 x2 x3 s) := by
  simp only [bootWords]
  repeat' with_reducible (first | exact h | exact Keep.refl _ | apply keep_setPair | apply keep_setFld | apply keep_modSec | apply keep_ancWrite | apply keep_showTa | apply keep_ancWriteAll | (apply Keep.foldl; intro _ _ h) | fail_if_no_progress apply Keep.upd (hm := rfl) | split | fail_if_no_progress dsimp only)

theorem keep_startHouse (x1) (x2) {r s : State} (h : Keep r s) : Keep r (@startHouse x1 x2 s) := by
  simp only [startHouse]
  repeat' with_reducible (first | exact h | exact Keep.refl _ | apply keep_setFld | apply keep_setShut | (apply Keep.foldl; intro _ _ h) | fail_if_no_progress apply Keep.upd (hm := rfl) | split | fail_if_no_progress dsimp only)

theorem keep_bootFail (x1) {r s : State} (h : Keep r s) : Keep r (@bootFail x1 s) := by
  simp only [bootFail]
  repeat' with_reducible (first | exact h | exact Keep.refl _ | apply keep_modSec | apply keep_setFld | apply keep_awaitHost | (apply Keep.foldl; intro _ _ h) | fail_if_no_progress apply Keep.upd (hm := rfl) | split | fail_if_no_progress dsimp only)

theorem keep_bootPass (x1) (x2) (x3) {r s : State} (h : Keep r s) : Keep r (@bootPass x1 x2 x3 s) := by
  simp only [bootPass]
  repeat' with_reducible (first | exact h | exact Keep.refl _ | apply keep_modSec | apply keep_showPhase | apply keep_bootWords | apply keep_startHouse | (apply Keep.foldl; intro _ _ h) | fail_if_no_progress apply Keep.upd (hm := rfl) | split | fail_if_no_progress dsimp only)

theorem keep_hostBoot (x1) {r s : State} (h : Keep r s) : Keep r (@hostBoot x1 s) := by
  simp only [hostBoot]
  repeat' with_reducible (first | exact h | exact Keep.refl _ | apply keep_bootPass | apply keep_bootFail | (apply Keep.foldl; intro _ _ h) | fail_if_no_progress apply Keep.upd (hm := rfl) | split | fail_if_no_progress dsimp only)

theorem keep_readFlash (x1) (x2) {r s : State} (h : Keep r s) : Keep r (@readFlash x1 x2 s) := by
  simp only [readFlash]
  repeat' with_reducible (first | exact h | exact Keep.refl _ | apply keep_emit | (apply Keep.foldl; intro _ _ h) | fail_if_no_progress apply Keep.upd (hm := rfl) | split | fail_if_no_progress dsimp only)

theorem keep_flashBoot (x1) (x2) (x3) {r s : State} (h : Keep r s) : Keep r (@flashBoot x1 x2 x3 s) := by
  simp only [flashBoot]
  repeat' with_reducible (first | exact h | exact Keep.refl _ | apply keep_bootFail | apply keep_setFld | apply keep_bootPass | apply keep_readFlash | (apply Keep.foldl; intro _ _ h) | fail_if_no_progress apply Keep.upd (hm := rfl) | split | fail_if_no_progress dsimp only)

theorem keep_writeHbCtl (x1) {r s : State} (h : Keep r s) : Keep r (@writeHbCtl x1 s) := by
  simp only [writeHbCtl]
  repeat' with_reducible (first | exact h | exact Keep.refl _ | apply keep_emit | apply keep_modSec | apply keep_setFld | apply keep_showPhase | apply keep_rejectReg | (apply Keep.foldl; intro _ _ h) | fail_if_no_progress apply Keep.upd (hm := rfl) | split | fail_if_no_progress dsimp only)

/-- Every slot of `u` has the blown bits of `t`'s, and the digest of one in use. -/
def slotsLe (t u : Tab Nat KeySlot) : Prop :=
  ∀ i, (∀ k, (Tab.get ⟨0, false, []⟩ t i).state.testBit k = true → (Tab.get ⟨0, false, []⟩ u i).state.testBit k = true) ∧
    ((Tab.get ⟨0, false, []⟩ t i).state ≠ 0 → (Tab.get ⟨0, false, []⟩ u i).state ≠ 0 ∧
      (Tab.get ⟨0, false, []⟩ u i).digest = (Tab.get ⟨0, false, []⟩ t i).digest)

theorem slotsLe_refl (t : Tab Nat KeySlot) : slotsLe t t := fun _ => ⟨fun _ h => h, fun h => ⟨h, rfl⟩⟩

theorem slotsLe_trans {t u v : Tab Nat KeySlot} (h : slotsLe t u) (k : slotsLe u v) : slotsLe t v := fun i =>
  ⟨fun b e => (k i).1 b ((h i).1 b e), fun e => have x := (h i).2 e; have y := (k i).2 x.1; ⟨y.1, y.2.trans x.2⟩⟩

theorem slotsLe_foldl {α : Type} {f : Tab Nat KeySlot → α → Tab Nat KeySlot} (h : ∀ t x, slotsLe t (f t x)) (l : List α)
    (t : Tab Nat KeySlot) : slotsLe t (l.foldl f t) := by
  induction l generalizing t with
  | nil => exact slotsLe_refl t
  | cons x l ih => exact slotsLe_trans (h t x) (ih _)

/-- A slot replaced by one with its blown bits and, where it is in use, its digest. -/
theorem slotsLe_set {t : Tab Nat KeySlot} {i : Nat} {s : KeySlot}
    (hb : ∀ k, (Tab.get ⟨0, false, []⟩ t i).state.testBit k = true → s.state.testBit k = true)
    (hd : (Tab.get ⟨0, false, []⟩ t i).state ≠ 0 → s.state ≠ 0 ∧ s.digest = (Tab.get ⟨0, false, []⟩ t i).digest) :
    slotsLe t (Tab.set t i s) := by
  intro j
  rw [Tab.get_set]
  split
  · subst_vars; exact ⟨hb, hd⟩
  · exact slotsLe_refl t j

theorem keep_advanceFuses (b) {r s : State} (h : Keep r s) : Keep r (advanceFuses b s) := by
  refine h.trans ?_
  simp only [advanceFuses]
  apply keep_mirrorFuses
  have k : slotsLe s.fuses.slots _ := slotsLe_trans
    (slotsLe_foldl (f := fun slots e => if entType e = 4 ∧ (Tab.get ⟨0, false, []⟩ slots (entTarget e)).state = 0 then
      Tab.set slots (entTarget e) { (Tab.get ⟨0, false, []⟩ slots (entTarget e)) with state := 1, digest := entBytes b e } else slots) (fun t e => by
        dsimp only
        split
        · rename_i c
          exact slotsLe_set (fun k e => by simp [c.2] at e) (fun e => absurd c.2 e)
        · exact slotsLe_refl t) (bundleEntries b) _)
    (slotsLe_foldl (f := fun slots i => if (field b 6 1).testBit i then
      Tab.set slots i { (Tab.get ⟨0, false, []⟩ slots i) with state := Nat.lor (Tab.get ⟨0, false, []⟩ slots i).state 2 } else slots) (fun t i => by
        dsimp only
        split
        · refine slotsLe_set (fun k e => ?_) (fun e => ⟨?_, rfl⟩)
          · show ((Tab.get ⟨0, false, []⟩ t i).state ||| 2).testBit k = true
            simp [Nat.testBit_or, e]
          · have := Nat.left_le_or (n := (Tab.get ⟨0, false, []⟩ t i).state) (m := 2)
            show ((Tab.get ⟨0, false, []⟩ t i).state ||| 2) ≠ 0
            omega
        · exact slotsLe_refl t) (List.range 4) _)
  exact ⟨rfl, ⟨Nat.le_max_left _ _, fun i => (k i).1, fun i => (k i).2, rfl, rfl, rfl, rfl⟩, id⟩

theorem keep_writeSecCtl (x1) {r s : State} (h : Keep r s) : Keep r (@writeSecCtl x1 s) := by
  simp only [writeSecCtl]
  repeat' with_reducible (first | exact h | exact Keep.refl _ | apply keep_setFld | apply keep_ancWrite | (apply Keep.foldl; intro _ _ h) | fail_if_no_progress apply Keep.upd (hm := rfl) | split | fail_if_no_progress dsimp only)

theorem keep_dropChal {r s : State} (h : Keep r s) : Keep r (@dropChal s) := by
  simp only [dropChal]
  repeat' with_reducible (first | exact h | exact Keep.refl _ | apply keep_modSec | apply keep_setFld | apply keep_showTa | (apply Keep.foldl; intro _ _ h) | fail_if_no_progress apply Keep.upd (hm := rfl) | split | fail_if_no_progress dsimp only)

theorem keep_respFailed {r s : State} (h : Keep r s) : Keep r (@respFailed s) := by
  simp only [respFailed]
  repeat' with_reducible (first | exact h | exact Keep.refl _ | apply keep_dropChal | apply keep_raise_ | apply keep_setFld | apply keep_addSat | (apply Keep.foldl; intro _ _ h) | fail_if_no_progress apply Keep.upd (hm := rfl) | split | fail_if_no_progress dsimp only)

theorem keep_zeroise (x1) {r s : State} (h : Keep r s) : Keep r (@zeroise x1 s) := by
  simp only [zeroise]
  repeat' with_reducible (first | exact h | exact Keep.refl _ | apply keep_setFld | apply keep_ancWrite | apply keep_showTa | apply keep_modSec | (apply Keep.foldl; intro _ _ h) | fail_if_no_progress apply Keep.upd (hm := rfl) | split | fail_if_no_progress dsimp only)

theorem keep_abortTakes (x1) (x2) {r s : State} (h : Keep r s) : Keep r (@abortTakes x1 x2 s) := by
  simp only [abortTakes]
  repeat' with_reducible (first | exact h | exact Keep.refl _ | apply keep_setEsp | apply keep_endWaiter | (apply Keep.foldl; intro _ _ h) | fail_if_no_progress apply Keep.upd (hm := rfl) | split | fail_if_no_progress dsimp only)

theorem keep_abortJumps (x1) (x2) {r s : State} (h : Keep r s) : Keep r (@abortJumps x1 x2 s) := by
  simp only [abortJumps]
  repeat' with_reducible (first | exact h | exact Keep.refl _ | apply keep_modGen | apply keep_endWaiter | (apply Keep.foldl; intro _ _ h) | fail_if_no_progress apply Keep.upd (hm := rfl) | split | fail_if_no_progress dsimp only)

theorem keep_abortStarts (x1) (x2) {r s : State} (h : Keep r s) : Keep r (@abortStarts x1 x2 s) := by
  simp only [abortStarts]
  repeat' with_reducible (first | exact h | exact Keep.refl _ | apply keep_abortStart | (apply Keep.foldl; intro _ _ h) | fail_if_no_progress apply Keep.upd (hm := rfl) | split | fail_if_no_progress dsimp only)

theorem keep_abortSerial (x1) (x2) {r s : State} (h : Keep r s) : Keep r (@abortSerial x1 x2 s) := by
  simp only [abortSerial]
  repeat' with_reducible (first | exact h | exact Keep.refl _ | apply keep_endWaiter | (apply Keep.foldl; intro _ _ h) | fail_if_no_progress apply Keep.upd (hm := rfl) | split | fail_if_no_progress dsimp only)

theorem keep_abortWaiting (x1) (x2) {r s : State} (h : Keep r s) : Keep r (@abortWaiting x1 x2 s) := by
  simp only [abortWaiting]
  repeat' with_reducible (first | exact h | exact Keep.refl _ | apply keep_abortTakes | apply keep_abortJumps | apply keep_abortStarts | apply keep_abortSerial | (apply Keep.foldl; intro _ _ h) | fail_if_no_progress apply Keep.upd (hm := rfl) | split | fail_if_no_progress dsimp only)

theorem keep_silence (p) {r s : State} (h : Keep r s) : Keep r (silence p s) := by
  simp only [silence]
  exact Keep.upd h rfl

theorem keep_releaseOuts {r s : State} (h : Keep r s) : Keep r (@releaseOuts s) := by
  simp only [releaseOuts]
  repeat' with_reducible (first | exact h | exact Keep.refl _ | apply keep_emit | (apply Keep.foldl; intro _ _ h) | fail_if_no_progress apply Keep.upd (hm := rfl) | split | fail_if_no_progress dsimp only)

theorem keep_loadCal {r s : State} (h : Keep r s) : Keep r (@loadCal s) := by
  simp only [loadCal]
  repeat' with_reducible (first | exact h | exact Keep.refl _ | apply keep_laneTemp | (apply Keep.foldl; intro _ _ h) | fail_if_no_progress apply Keep.upd (hm := rfl) | split | fail_if_no_progress dsimp only)

theorem keep_dropOuts {r s : State} (h : Keep r s) : Keep r (@dropOuts s) := by
  simp only [dropOuts]
  repeat' with_reducible (first | exact h | exact Keep.refl _ | apply keep_emit | (apply Keep.foldl; intro _ _ h) | fail_if_no_progress apply Keep.upd (hm := rfl) | split | fail_if_no_progress dsimp only)

theorem keep_holdReset {r s : State} (h : Keep r s) : Keep r (holdReset s) := by
  simp only [holdReset]
  apply keep_dropOuts
  apply keep_loadCal
  apply keep_raiseRefresh
  apply keep_perstThermal
  apply keep_perstPower
  apply keep_setFld
  apply keep_setFld
  split
  · exact keep_setFld _ _ ⟨h.pending, h.fuses, fun _ => rfl⟩
  · exact ⟨h.pending, h.fuses, fun _ => rfl⟩

theorem keep_startUp (x1) {r s : State} (h : Keep r s) : Keep r (@startUp x1 s) := by
  simp only [startUp]
  repeat' with_reducible (first | exact h | exact Keep.refl _ | apply keep_awaitHost | apply keep_setFld | apply keep_setReg | apply keep_releaseOuts | (apply Keep.foldl; intro _ _ h) | fail_if_no_progress apply Keep.upd (hm := rfl) | split | fail_if_no_progress dsimp only)

theorem keep_releasePins (x1) {r s : State} (h : Keep r s) : Keep r (@releasePins x1 s) := by
  simp only [releasePins]
  repeat' with_reducible (first | exact h | exact Keep.refl _ | apply keep_emit | (apply Keep.foldl; intro _ _ h) | fail_if_no_progress apply Keep.upd (hm := rfl) | split | fail_if_no_progress dsimp only)

theorem keep_voteAll {r s : State} (h : Keep r s) : Keep r (@voteAll s) := by
  simp only [voteAll]
  repeat' with_reducible (first | exact h | exact Keep.refl _ | apply keep_ancVote | (refine keep_ancVote_e (by assumption) ?_) | (apply Keep.foldl; intro _ _ h) | fail_if_no_progress apply Keep.upd (hm := rfl) | split | fail_if_no_progress dsimp only)

theorem keep_resetFunction (x1) (x2) {r s : State} (h : Keep r s) : Keep r (@resetFunction x1 x2 s) := by
  simp only [resetFunction]
  repeat' with_reducible (first | exact h | exact Keep.refl _ | apply keep_resetRegs | (apply Keep.foldl; intro _ _ h) | fail_if_no_progress apply Keep.upd (hm := rfl) | split | fail_if_no_progress dsimp only)

theorem keep_flrFunction (x1) {r s : State} (h : Keep r s) : Keep r (@flrFunction x1 s) := by
  simp only [flrFunction]
  repeat' with_reducible (first | exact h | exact Keep.refl _ | apply keep_silence | apply keep_flrIngress | apply keep_flrEgress | apply keep_resetFunction | apply keep_abortWaiting | apply keep_abortQueued | (apply Keep.foldl; intro _ _ h) | fail_if_no_progress apply Keep.upd (hm := rfl) | split | fail_if_no_progress dsimp only)

theorem keep_flrPf {r s : State} (h : Keep r s) : Keep r (@flrPf s) := by
  simp only [flrPf]
  repeat' with_reducible (first | exact h | exact Keep.refl _ | apply keep_setFld | apply keep_dropHint | apply keep_modLoom | apply keep_flrDrafts | apply keep_flrShuttles | apply keep_showEgress | apply keep_resetRegs | apply keep_flrFunction | (apply Keep.foldl; intro _ _ h) | fail_if_no_progress apply Keep.upd (hm := rfl) | split | fail_if_no_progress dsimp only)

theorem keep_keepAon (b) {r s : State} (h : Keep r s) : Keep r (keepAon s b) := by
  simp only [keepAon]
  exact Keep.upd h rfl

theorem keep_thermalTrip {r s : State} (h : Keep r s) : Keep r (@thermalTrip s) := by
  simp only [thermalTrip]
  repeat' with_reducible (first | exact h | exact Keep.refl _ | apply keep_modThm | apply keep_emit | apply keep_holdReset | (apply Keep.foldl; intro _ _ h) | fail_if_no_progress apply Keep.upd (hm := rfl) | split | fail_if_no_progress dsimp only)

theorem keep_strokePulse (x1) {r s : State} (h : Keep r s) : Keep r (@strokePulse x1 s) := by
  simp only [strokePulse]
  repeat' with_reducible (first | exact h | exact Keep.refl _ | apply keep_emit | (apply Keep.foldl; intro _ _ h) | fail_if_no_progress apply Keep.upd (hm := rfl) | split | fail_if_no_progress dsimp only)

theorem keep_monStroke (x1) {r s : State} (h : Keep r s) : Keep r (@monStroke x1 s) := by
  simp only [monStroke]
  repeat' with_reducible (first | exact h | exact Keep.refl _ | apply keep_monTrigger | (apply Keep.foldl; intro _ _ h) | fail_if_no_progress apply Keep.upd (hm := rfl) | split | fail_if_no_progress dsimp only)

theorem keep_strokeActs (x1) (x2) {r s : State} (h : Keep r s) : Keep r (@strokeActs x1 x2 s) := by
  simp only [strokeActs]
  repeat' with_reducible (first | exact h | exact Keep.refl _ | apply keep_markMiss | apply keep_crewStroke | apply keep_espStrokes | apply keep_shuttleStroke | apply keep_draftStroke | apply keep_biasStroke | apply keep_monStroke | apply keep_strokePulse | (apply Keep.foldl; intro _ _ h) | fail_if_no_progress apply Keep.upd (hm := rfl) | split | fail_if_no_progress dsimp only)

theorem keep_outCtlChanged (x1) {r s : State} (h : Keep r s) : Keep r (@outCtlChanged x1 s) := by
  simp only [outCtlChanged]
  repeat' with_reducible (first | exact h | exact Keep.refl _ | apply keep_emit | (apply Keep.foldl; intro _ _ h) | fail_if_no_progress apply Keep.upd (hm := rfl) | split | fail_if_no_progress dsimp only)

theorem keep_settleTokens (x1) (x2) {r s : State} (h : Keep r s) : Keep r (@settleTokens x1 x2 s) := by
  simp only [settleTokens]
  repeat' with_reducible (first | exact h | exact Keep.refl _ | apply keep_modLoom | (apply Keep.foldl; intro _ _ h) | fail_if_no_progress apply Keep.upd (hm := rfl) | split | fail_if_no_progress dsimp only)

theorem keep_afterWrite (x1) (x2) {r s : State} (h : Keep r s) : Keep r (@afterWrite x1 x2 s) := by
  simp only [afterWrite]
  repeat' with_reducible (first | exact h | exact Keep.refl _ | apply keep_setReg | apply keep_settleTokens | apply keep_outCtlChanged | apply keep_retryReached | apply keep_modShut | apply keep_sendPending | (apply Keep.foldl; intro _ _ h) | fail_if_no_progress apply Keep.upd (hm := rfl) | split | fail_if_no_progress dsimp only)

theorem keep_writeTable (x1) (x2) (x3) (x4) (x5) (x6) {r s : State} (h : Keep r s) : Keep r (@writeTable x1 x2 x3 x4 x5 x6 s) := by
  simp only [writeTable]
  repeat' with_reducible (first | exact h | exact Keep.refl _ | apply keep_setReg | apply keep_afterWrite | apply keep_rejectWrite | (apply Keep.foldl; intro _ _ h) | fail_if_no_progress apply Keep.upd (hm := rfl) | split | fail_if_no_progress dsimp only)

theorem keep_writeLo (x1) (x2) (x3) (x4) (x5) {r s : State} (h : Keep r s) : Keep r (@writeLo x1 x2 x3 x4 x5 s) := by
  simp only [writeLo]
  repeat' with_reducible (first | exact h | exact Keep.refl _ | apply keep_holdLo | apply keep_rejectWrite | (apply Keep.foldl; intro _ _ h) | fail_if_no_progress apply Keep.upd (hm := rfl) | split | fail_if_no_progress dsimp only)

theorem keep_writeHi (x1) (x2) (x3) (x4) (x5) (x6) {r s : State} (h : Keep r s) : Keep r (@writeHi x1 x2 x3 x4 x5 x6 s) := by
  simp only [writeHi]
  repeat' with_reducible (first | exact h | exact Keep.refl _ | apply keep_setReg | apply keep_rejectWrite | apply keep_dropLo | (apply Keep.foldl; intro _ _ h) | fail_if_no_progress apply Keep.upd (hm := rfl) | split | fail_if_no_progress dsimp only)

theorem keep_writeRejPop (x1) {r s : State} (h : Keep r s) : Keep r (@writeRejPop x1 s) := by
  simp only [writeRejPop]
  repeat' with_reducible (first | exact h | exact Keep.refl _ | apply keep_setFld | (apply Keep.foldl; intro _ _ h) | fail_if_no_progress apply Keep.upd (hm := rfl) | split | fail_if_no_progress dsimp only)

theorem keep_lnWrite {n o f v} {r s : State} (e : lnWrite n o = some f) (h : Keep r s) : Keep r (f v s) := by
  simp only [lnWrite] at e
  repeat' split at e
  all_goals first | (cases e; done) | (cases e; with_reducible first
    | exact keep_writeLaneCtl _ _ h | exact keep_writeFirCtl _ _ h | exact keep_writeFdeSel _ _ h | exact keep_writeCalCtl _ _ h
    | exact keep_writeCalSel _ _ h | exact keep_writeFecCtl _ _ h)

theorem keep_loomWrite {o f v} {r s : State} (e : loomWrite o = some f) (h : Keep r s) : Keep r (f v s) := by
  simp only [loomWrite] at e
  repeat' split at e
  all_goals first | (cases e; done) | (cases e; with_reducible first
    | exact keep_writeIngCtl _ h | exact keep_writeIspSel _ h | exact keep_writeEgrCtl _ h | exact keep_writeEspSel _ h
    | exact keep_writeExpSel _ h)

theorem keep_superWrite {x f v} {r s : State} (e : superWrite x = some f) (h : Keep r s) : Keep r (f v s) := by
  simp only [superWrite] at e
  repeat' split at e
  all_goals first | (cases e; done) | (cases e; with_reducible first
    | exact keep_writeMonCtl _ h | exact keep_writeTrip _ h | exact keep_writeMgtCtl _ h | exact keep_writeCoef _ h | exact keep_writeCh _ _ h
    | exact keep_writeMgt _ _ h | exact keep_writeBiasCtl _ h | exact keep_writeHtrEn _ h | exact keep_writeGrp _ _ h
    | exact keep_writeSensSel _ h | exact keep_writeThmCtl _ h | exact keep_writePlanAck _ h | exact keep_writeAgeSel _ h
    | exact keep_writeBand _ _ h)

theorem keep_pfWrite {x f v} {r s : State} (e : pfWrite x = some f) (h : Keep r s) : Keep r (f v s) := by
  simp only [pfWrite] at e
  split at e
  · cases e; exact keep_writeCnt _ _ _ h
  · split at e
    all_goals first
      | (refine keep_lnWrite (by assumption) h)
      | (refine keep_loomWrite (by assumption) h)
      | (refine keep_superWrite (by assumption) h)
      | skip
    all_goals repeat' split at e
    all_goals cases e
    all_goals with_reducible first
      | exact keep_writeRejPop _ h | exact keep_scan _ h | exact keep_writeDrfCtl _ h | exact keep_writeCkCtl _ _ h
      | exact keep_writeCkData _ _ h | exact keep_writeCkTail _ _ h | exact keep_writeTbCtl _ h | exact keep_writeTbFreq _ h
      | exact keep_writePtmCtl _ h | exact keep_writeCxCtl _ _ h | exact keep_writeSecCtl _ h | exact keep_writeHbCtl _ h
      | exact keep_writeSplitCtl _ h | exact keep_writeBmCtl _ _ h | exact keep_writeScrubCtl _ _ h | exact keep_writeLogPop _ h
      | exact keep_writeShCtl _ _ h | (dsimp only; split <;> first | exact keep_rejectReg _ _ h | exact keep_setReg _ _ h)

theorem keep_fnWrite {a b c x f v} {r s : State} (e : fnWrite a b c x = some f) (h : Keep r s) : Keep r (f v s) := by
  simp only [fnWrite] at e
  repeat' split at e
  all_goals first | (cases e; done) | (cases e; with_reducible first
    | exact keep_writeQpCtl _ _ _ _ _ (fun _ _ _ k => keep_abortWaiting _ _ k) h | exact keep_kick _ _ h
    | exact keep_writeNqCtl _ _ _ _ _ h | exact keep_writeNqCi _ _ _ _ _ h | exact keep_scan _ h | exact keep_writeServoLo _ _ h
    | exact keep_writeServoHi _ _ h)

theorem keep_writeReg (a b c x v) {r s : State} (h : Keep r s) : Keep r (writeReg a b c x v s) := by
  simp only [writeReg]
  split
  · exact keep_fnWrite (by assumption) h
  · exact keep_pfWrite (by assumption) h
  · split
    · exact keep_writeLo _ _ _ _ _ h
    · split
      · exact keep_writeHi _ _ _ _ _ _ h
      · exact keep_writeTable _ _ _ _ _ _ h
  · exact keep_rejectWrite _ _ _ _ h

theorem keep_writeAt (x1) (x2) (x3) {r s : State} (h : Keep r s) : Keep r (@writeAt x1 x2 x3 s) := by
  simp only [writeAt]
  repeat' with_reducible (first | exact h | exact Keep.refl _ | apply keep_writeReg | apply keep_unsupported | apply keep_rejectWrite | (apply Keep.foldl; intro _ _ h) | fail_if_no_progress apply Keep.upd (hm := rfl) | split | fail_if_no_progress dsimp only)

theorem keep_aonAccess {e : State → State} {r s : State} (he : ∀ a, Keep r a → Keep r (e a)) (h : Keep r s) : Keep r (@aonAccess e s) := by
  simp only [aonAccess]
  repeat' with_reducible (first | exact h | exact Keep.refl _ | exact he | refine he _ ?_ | apply keep_wake | (apply Keep.foldl; intro _ _ h) | fail_if_no_progress apply Keep.upd (hm := rfl) | split | fail_if_no_progress dsimp only)

theorem keep_regAccess (x1) {e : State → State} {r s : State} (he : ∀ a, Keep r a → Keep r (e a)) (h : Keep r s) : Keep r (@regAccess x1 e s) := by
  simp only [regAccess]
  repeat' with_reducible (first | exact h | exact Keep.refl _ | exact he | refine he _ ?_ | (intro _ k; simp only [id]; exact k) | apply keep_hostAccess | apply keep_aonAccess | (apply Keep.foldl; intro _ _ h) | fail_if_no_progress apply Keep.upd (hm := rfl) | split | fail_if_no_progress dsimp only)

theorem keep_tbSwitch {r s : State} (h : Keep r s) : Keep r (@tbSwitch s) := by
  simp only [tbSwitch]
  repeat' with_reducible (first | exact h | exact Keep.refl _ | apply keep_tick | (apply Keep.foldl; intro _ _ h) | fail_if_no_progress apply Keep.upd (hm := rfl) | split | fail_if_no_progress dsimp only)

theorem keep_draftsResume {r s : State} (h : Keep r s) : Keep r (@draftsResume s) := by
  simp only [draftsResume]
  repeat' with_reducible (first | exact h | exact Keep.refl _ | apply keep_askReadback | (apply Keep.foldl; intro _ _ h) | fail_if_no_progress apply Keep.upd (hm := rfl) | split | fail_if_no_progress dsimp only)

theorem keep_passSequence (x1) {r s : State} (h : Keep r s) : Keep r (@passSequence x1 s) := by
  simp only [passSequence]
  repeat' with_reducible (first | exact h | exact Keep.refl _ | apply keep_setLane | apply keep_addInner | (apply Keep.foldl; intro _ _ h) | fail_if_no_progress apply Keep.upd (hm := rfl) | split | fail_if_no_progress dsimp only)

theorem keep_countChecked (x1) (x2) (x3) {r s : State} (h : Keep r s) : Keep r (@countChecked x1 x2 x3 s) := by
  simp only [countChecked]
  repeat' with_reducible (first | exact h | exact Keep.refl _ | apply keep_add48 | (apply Keep.foldl; intro _ _ h) | fail_if_no_progress apply Keep.upd (hm := rfl) | split | fail_if_no_progress dsimp only)

theorem keep_enterWake (x1) (x2) {r s : State} (h : Keep r s) : Keep r (@enterWake x1 x2 s) := by
  simp only [enterWake]
  repeat' with_reducible (first | exact h | exact Keep.refl _ | apply keep_setFld | apply keep_setRx | apply keep_wake | apply keep_setLane | (apply Keep.foldl; intro _ _ h) | fail_if_no_progress apply Keep.upd (hm := rfl) | split | fail_if_no_progress dsimp only)

theorem keep_firstRound {r s : State} (h : Keep r s) : Keep r (@firstRound s) := by
  simp only [firstRound]
  repeat' with_reducible (first | exact h | exact Keep.refl _ | apply keep_modMon | apply keep_startRound | apply keep_delaysEnd | (apply Keep.foldl; intro _ _ h) | fail_if_no_progress apply Keep.upd (hm := rfl) | split | fail_if_no_progress dsimp only)

theorem keep_passTo (x1) {r s : State} (h : Keep r s) : Keep r (@passTo x1 s) := by
  simp only [passTo]
  repeat' with_reducible (first | exact h | exact Keep.refl _ | apply keep_pass | (apply Keep.foldl; intro _ _ h) | fail_if_no_progress apply Keep.upd (hm := rfl) | split | fail_if_no_progress dsimp only)

theorem keep_removed (ep b) {r s u : State} (h : Keep r s) (k : Keep r u) : Keep r ((macRemoves ep b s).getD u) := by
  cases e : macRemoves ep b s with
  | none => exact k
  | some t => exact keep_macRemoves e h

theorem keep_receive (x1) (x2) {r s : State} (h : Keep r s) : Keep r (@receive x1 x2 s) := by
  simp only [receive]
  repeat' with_reducible (first | exact h | exact Keep.refl _ | apply keep_classify | refine keep_removed _ _ ?_ ?_ | apply keep_expForward | apply keep_addSat | apply keep_raiseOnce | apply keep_rxPassed | apply keep_rxBadFrame | (refine keep_macRemoves (by assumption) ?_) | apply keep_advanceTo | (apply Keep.foldl; intro _ _ h) | fail_if_no_progress apply Keep.upd (hm := rfl) | split | fail_if_no_progress dsimp only)

theorem keep_attestTurn {r s : State} (h : Keep r s) : Keep r (@attestTurn s) := by
  simp only [attestTurn]
  repeat' with_reducible (first | exact h | exact Keep.refl _ | apply keep_modSec | (apply Keep.foldl; intro _ _ h) | fail_if_no_progress apply Keep.upd (hm := rfl) | split | fail_if_no_progress dsimp only)

theorem keep_tapSelect (x1) {r s : State} (h : Keep r s) : Keep r (@tapSelect x1 s) := by
  simp only [tapSelect]
  repeat' with_reducible (first | exact h | exact Keep.refl _ | apply keep_modSec | (apply Keep.foldl; intro _ _ h) | fail_if_no_progress apply Keep.upd (hm := rfl) | split | fail_if_no_progress dsimp only)

theorem keep_setVfs (x1) {r s : State} (h : Keep r s) : Keep r (@setVfs x1 s) := by
  simp only [setVfs]
  repeat' with_reducible (first | exact h | exact Keep.refl _ | apply keep_flrFunction | (apply Keep.foldl; intro _ _ h) | fail_if_no_progress apply Keep.upd (hm := rfl) | split | fail_if_no_progress dsimp only)

theorem keep_cfgWrite (x1) (x2) {r s : State} (h : Keep r s) : Keep r (@cfgWrite x1 x2 s) := by
  simp only [cfgWrite]
  repeat' with_reducible (first | exact h | exact Keep.refl _ | apply keep_setVfs | apply keep_sendAllPending | apply keep_modCfg | apply keep_draftsResume | apply keep_setBusMaster | (apply Keep.foldl; intro _ _ h) | fail_if_no_progress apply Keep.upd (hm := rfl) | split | fail_if_no_progress dsimp only)

end Sys2Proof.Machine
end

