-- ==== Sys2Proof/Tests/Slice0.lean ====
section
/-! SUPPORT. Tests: ill-formed commands are refused; the spec's own worked examples; and, for each statement with hypotheses,
concrete states and operands that meet them, clause by clause (`witness_<name>`, with operands at the ends of their ranges). -/

set_option Elab.async false

open Sys2Proof Sys2Proof.Machine

namespace Sys2Proof.Tests

/-- a device whose PF masters the bus and has its MSI-X enabled -/
def h0 : Hdr := ⟨0, 7, false, false, false, false, 0x10000⟩
def g0 : State := { State.reset with host := { State.reset.host with bme := [(0, true)], cfg := { msixOn := [(0, true)] } } }
/-- ready -/
def g : State := g0.setReg rSys_READY 0x80000000#32
def w (s : State) (f : FldId) (v : Nat) : State := s.setFld f v
/-- queue pair 0 enabled -/
def gq : State := ((w g (fQp_CTL_EN 0) 1).setReg (rQp_DB_ADDR_LO 0) 0x4000#32).setQp 0 { sqPi := 3, cqCi := 0 }
/-- Command `i` is taken and next in its queue, its object in host memory at 0x2000. -/
def tk (i : Instr) (s : State) : State :=
  match cmdOf i, descOf 0x2000 i with
  | some (h, _), some d => s.modQp h.qp fun v =>
    { v with taken := [{ hdr := h, desc := d, fence := false, waiting := false, kind := if d.head? = some 1 then 1 else if d.head? = some 2 then 2 else 0 }] }
  | _, _ => s
/-- A taken descriptor of h0. -/
def tq (fence waiting : Bool) : Taken := { hdr := h0, desc := List.replicate 64 0, fence := fence, waiting := waiting }
def pk (n : Nat) (l : List (Nat × List Byte)) : List Byte :=
  l.foldl (fun b e => b.take e.1 ++ e.2 ++ b.drop (e.1 + e.2.length)) (List.replicate n 0)
/-- beam trained, one bay -/
def gb : State := { (List.range 16).foldl (fun s k => w s (fBm_STAT_TRAINED k) 1) g with beam := { g.beam with bays := [(0, ⟨0, 0, 2^30⟩)] } }
/-- lane n is an M100 port of its own, transmitting -/
def upl (s : State) (n : Nat) : State := w (w (w s (fLn_MODE_STAT_MODE n) 1) (fLn_MODE_STAT_PORT_BASE n) n) (fLn_TX_STAT_STATE n) 3

/-! ## Well-formedness: each check refuses a term that breaks it alone -/

def hd : Hdr := ⟨0, 7, false, false, false, false, 0x10000⟩
def okBlk : BlkTest := {}
def pws : List (Nat × Nat) := List.replicate 16 (0, 0)
def trs : List Int := List.replicate 1152 63
def rxs : List Int := List.replicate 128 (-64)
/-- The samples of a preamble repeat. -/
def pre : List Int := List.replicate 256 63
def l0 : Loops := ⟨0, 0, 0⟩
def cws : List Nat := List.replicate 514 1023
/-- Its parity symbols. -/
def pars : List Nat := List.replicate 30 1023

theorem test_ill_formed_0 : ([
    .ispOpen { hd with qp := 256 } 0 0 none, .ispOpen { hd with cid := 65536 } 0 0 none,
    .ispOpen { hd with resAddr := 2 ^ 64 } 0 0 none, .ispOpen hd 1024 0 none, .ispOpen hd 0 (2 ^ 16) none,
    .ispClose { hd with qp := 256 } 0, .ispClose hd 1024, .espOpen { hd with qp := 256 } 0 0 none, .espOpen hd 1024 0 none,
    .espOpen hd 0 (2 ^ 16) none, .espClose { hd with qp := 256 } 0, .espClose hd 1024, .espTake { hd with qp := 256 } 0 0 0,
    .espTake hd 1024 0 0, .espTake hd 0 (2 ^ 16) 0, .espTake hd 0 0 (2 ^ 32), .espRewind { hd with qp := 256 } 0 0 0,
    .espRewind hd 1024 0 0, .espRewind hd 0 (2 ^ 32) 0, .espRewind hd 0 0 (2 ^ 32), .expRule { hd with qp := 256 } 0 none,
    .expRule hd 64 none, .bayAlloc { hd with qp := 256 } 0 false 0 0, .bayAlloc hd 32 false 0 0,
    .bayAlloc hd 0 false (2 ^ 64) 0, .bayAlloc hd 0 false 0 (2 ^ 64), .bayFree { hd with qp := 256 } 0, .bayFree hd 64,
    .boltSet { hd with qp := 256 } 0 0 0 false 0 0 0, .boltSet hd 2048 0 0 false 0 0 0, .boltSet hd 0 64 0 false 0 0 0,
    .boltSet hd 0 0 2 false 0 0 0, .boltSet hd 0 0 0 false (2 ^ 64) 0 0, .boltSet hd 0 0 0 false 0 (2 ^ 32) 0,
    .boltSet hd 0 0 0 false 0 0 (2 ^ 16), .boltBindDone 2048, .shtLoad { hd with qp := 256 } 0 none, .shtLoad hd 128 none,
    .shtLoadDone 96, .shtStart { hd with qp := 256 } 0 false false 0 0 none, .shtStart hd 128 false false 0 0 none,
    .shtStart hd 0 false false 4 0 none, .shtStart hd 0 false false 0 (2 ^ 32) none, .shtStop { hd with qp := 256 } 0,
    .shtStop hd 128] : List Instr).any wellFormed = false := by decide +kernel

theorem test_ill_formed_1 : ([
    .shtMsg { hd with qp := 256 } 0 0 0, .shtMsg hd 128 0 0, .shtMsg hd 0 (2 ^ 24) 0, .shtMsg hd 0 0 (2 ^ 24),
    .draftRun { hd with qp := 256 } 0 0 0 none, .draftRun hd 32 0 0 none, .draftRun hd 0 256 0 none,
    .draftRun hd 0 0 (2 ^ 32) none, .draftAbort { hd with qp := 256 } 0, .draftAbort hd 32,
    .laneMode { hd with qp := 256 } 0 0 0 0 0, .laneMode hd 8 0 0 0 0, .laneMode hd 0 256 0 0 0, .laneMode hd 0 0 256 0 0,
    .laneMode hd 0 0 0 256 0, .laneMode hd 0 0 0 0 256, .laneReconfigDone 8, .laneTrain { hd with qp := 256 } 0 false false,
    .laneTrain hd 8 false false, .laneLoop { hd with qp := 256 } 0 0, .laneLoop hd 16 0, .laneLoop hd 0 256,
    .lanePrbs { hd with qp := 256 } 0 false false 0 0 0, .lanePrbs hd 16 false false 0 0 0, .lanePrbs hd 0 false false 256 0 0,
    .lanePrbs hd 0 false false 0 256 0, .lanePrbs hd 0 false false 0 0 (2 ^ 32), .strokeDef { hd with qp := 256 } 0 0 0 0 0 0,
    .strokeDef hd 4 0 0 0 0 0, .strokeDef hd 0 (2 ^ 32) 0 0 0 0, .strokeDef hd 0 0 (2 ^ 16) 0 0 0, .strokeDef hd 0 0 0 2 0 0,
    .strokeDef hd 0 0 0 0 2 0, .strokeDef hd 0 0 0 0 0 (-(2 ^ 31) - 1), .strokeDef hd 0 0 0 0 0 (2 ^ 31),
    .strokeJump { hd with qp := 256 } 0 false 0, .strokeJump hd 4 false 0, .strokeJump hd 0 false (-(2 ^ 31) - 1),
    .strokeJump hd 0 false (2 ^ 31), .timeSet { hd with qp := 256 } false 0 0 0 0, .timeSet hd false (2 ^ 48) 0 0 0,
    .timeSet hd false 0 (2 ^ 32) 0 0, .timeSet hd false 0 0 (2 ^ 16) 0, .timeSet hd false 0 0 0 (-(2 ^ 63) - 1),
    .timeSet hd false 0 0 0 (2 ^ 63)] : List Instr).any wellFormed = false := by decide +kernel

theorem test_ill_formed_2 : ([
    .crewJoin { hd with qp := 256 } 0 0 0 0 false 0 0, .crewJoin hd (2 ^ 16) 0 0 0 false 0 0, .crewJoin hd 0 256 0 0 false 0 0,
    .crewJoin hd 0 0 256 0 false 0 0, .crewJoin hd 0 0 0 16 false 0 0, .crewJoin hd 0 0 0 0 false (2 ^ 16) 0,
    .crewJoin hd 0 0 0 0 false 0 256, .crewLeave { hd with qp := 256 }, .crewRelay { hd with qp := 256 } 0 0 0 none,
    .crewRelay hd (2 ^ 16) 0 0 none, .crewRelay hd 0 2 0 none, .crewRelay hd 0 0 (2 ^ 32) none,
    .pwrHint { hd with qp := 256 } 0 0, .pwrHint hd 256 0, .pwrHint hd 0 (2 ^ 32),
    .attest { hd with qp := 256 } 0 (List.replicate 32 0), .attest hd (2 ^ 32) (List.replicate 32 0), .attest hd 0 [],
    .fwStage { hd with qp := 256 } 0 0 none, .fwStage hd (2 ^ 64) 0 none, .fwStage hd 0 (2 ^ 32) none,
    .fwCommit { hd with qp := 256 } false, .bistRun { hd with qp := 256 } 0, .bistRun hd (2 ^ 128), .bistEnd [(41, okBlk)],
    .bistPreconditionFail ⟨2 ^ 16, 0, 0, []⟩, .bistPreconditionFail ⟨0, 4, 0, []⟩, .bistPreconditionFail ⟨0, 0, 2 ^ 15, []⟩,
    .bistPreconditionFail ⟨0, 0, 0, [(41, okBlk)]⟩, .query { hd with qp := 256 } 0 0, .query hd (2 ^ 32) 0, .query hd 0 256,
    .frameSend { hd with qp := 256 } 0 0 none, .frameSend hd (2 ^ 32) 0 none, .frameSend hd 0 (2 ^ 32) none,
    .post { hd with qp := 256 } 0 0, .post hd (2 ^ 64) 0, .post hd 0 (2 ^ 32), .doorbellPoll 256, .doorbellRead 256 none,
    .descriptorFetch 256 none, .descriptorTake 256, .fenceRelease 256, .irqTimerExpiry false 256, .vfNudge 32, .kick 32 0,
    .kick 0 256, .qpEnable 32 0 0] : List Instr).any wellFormed = false := by decide +kernel

theorem test_ill_formed_3 : ([
    .qpEnable 0 256 0, .qpDisable 32 0 0, .qpDisable 0 256 0, .nqEnable 32 0 0, .nqEnable 0 32 0, .nqCi 32 0 0, .nqCi 0 32 0,
    .rejE0Read 32, .loRead 32 0, .loRead 0 (2 ^ 22), .loWrite 32 0 0, .loWrite 0 (2 ^ 22) 0, .hiWrite 32 0 0,
    .hiWrite 0 (2 ^ 22) 0, .resultRead 32 0, .resultRead 0 (2 ^ 22), .tbNsRead 32, .ptmStatRead 32, .logE0Read 32,
    .resStatRead 32 0, .resStatRead 0 16, .tagPcRead 32 0, .tagPcRead 0 96, .servoSample 32 0, .fecClr 8 0, .laneSrst 8 0,
    .laneResetEnd 8, .cxSrst 2 0, .bmSrst 16 0, .beamResetEnd 16, .shSrst 96 0, .bmCntClr 16 0, .cxCntClr 2 0, .cxEnable 2 0,
    .calRun 8 0, .txArm 8 0, .txHandover 8, .biasArm 4 0, .biasHandover 4, .fdeSel 8 0, .calSel 8 0, .snapshotReady (.fde 8),
    .snapshotReady (.cal 8), .mgtGo 8 0, .mgtDone 8 false false 0 []] : List Instr).any wellFormed = false := by decide +kernel

theorem test_ill_formed_4 : ([
    .mgtDone 0 false false 129 [], .mgtDone 0 false false 0 (List.replicate 129 0), .ckEnable 16 0, .ckData 16 0,
    .ckDataTail 16 0, .ckFinal 16 0, .cntCfgWrite (2 ^ 22) 0, .registerWrite 32 0 0, .registerWrite 0 (2 ^ 22) 0,
    .bar2Read (2 ^ 33) 0, .bar2Read 0 (2 ^ 32), .bar2Write (2 ^ 33) [], .signalDetect 8, .lossOfSignal 8, .acquireDone 8 pws 0 l0,
    .acquireDone 0 [] 0 l0, .acquireTimeout 8, .trainSolveDone 8 ⟨0, trs, 0, 0⟩, .trainSolveDone 0 ⟨0, [0], 0, 0⟩, .trainSolveDone 0 ⟨0, List.replicate 1152 64, 0, 0⟩, .trainSolveDone 0 ⟨0, List.replicate 4352 (-65), 0, 0⟩, .catchWaitExpiry 8,
    .catchSequenceDetect 8 0, .fdeBlockUpdate 8 rxs l0, .fdeBlockUpdate 0 [] l0, .fdeBlockUpdate 0 (List.replicate 128 (-65)) l0, .dfeAdapt 8 0, .dfeAdapt 0 128, .targetAdapt 8 0 0,
    .targetAdapt 0 128 0, .targetAdapt 0 0 128, .meritWindowEnd 8 (2 ^ 20) 0,
    .meritWindowEnd 0 (2 ^ 20 - 1) 0, .timingLockLoss 8, .idleMarkerRx ⟨8, 0, 0⟩, .preamblePeak 8 false 0 ⟨0, 0, 0, pre⟩, .preamblePeak 0 false 0 ⟨0, 0, 0, []⟩, .preamblePeak 0 false 0 ⟨0, 0, 0, List.replicate 256 64⟩, .startMarkerRx 8 ⟨0, 0, 0⟩,
    .burstAbandon 8, .spareRestart 8 0 0, .wakeMiss 8, .calPassStart 8, .calEstimateEnd 8 [0, 0, 0, 0] [] [] [] [], .calEstimateEnd 0 [] [] [] [] [], .calApplyStep 8,
    .rampStep 8, .txIdleEntry ⟨8, 0⟩, .txWake 8, .txBurstEnd 8, .catchSequenceStart ⟨8, 0⟩, .txFrameStart 8, .degradeWindowEnd 8 0,
    .frameReceive 8 ⟨[], true, 0, 0⟩, .legLoss 1024 0] : List Instr).any wellFormed = false := by decide +kernel

theorem test_ill_formed_5 : ([
    .legLoss 0 2, .slotClose 1024 0, .slotClose 0 (2 ^ 48), .feedHoldExpiry 1024, .stroke 4, .packetDue 1024,
    .audioPacketDue 1024, .beamTrainDone 16 false, .refresh 16, .refreshRateDrop 16, .scrubStep 16 [], .repairStep 16 [],
    .mergeFlush 16 0, .anchorVote 64 [], .halt ⟨96, false⟩, .alu ⟨96, false⟩ .add (.acc 0) (.acc 0) 0, .alu ⟨0, false⟩ .add (.acc 4) (.acc 0) 0,
    .alu ⟨0, false⟩ .add (.dat 8) (.acc 0) 0, .alu ⟨0, false⟩ .add (.acc 0) (.acc 4) 0, .alu ⟨0, false⟩ .add (.acc 0) (.acc 0) 56,
    .mac ⟨96, false⟩ .mac 0 0 0 false none, .mac ⟨0, false⟩ .mac 4 0 0 false none, .mac ⟨0, false⟩ .mac 0 8 0 false none, .mac ⟨0, false⟩ .mac 0 0 8 false none,
    .mac ⟨0, false⟩ .mac 0 0 0 false (some ⟨false, 8, 0, .none⟩), .mac ⟨0, false⟩ .mac 0 0 0 false (some ⟨true, 0, 4, .none⟩), .dualMac ⟨96, false⟩ 0,
    .transfer ⟨96, false⟩ (.imm .mr 0), .transfer ⟨0, false⟩ (.imm (.a 4) 0), .transfer ⟨0, false⟩ (.imm (.d 8) 0), .transfer ⟨0, false⟩ (.imm (.lc 3) 0),
    .transfer ⟨0, false⟩ (.imm .mr 16777216), .transfer ⟨0, false⟩ (.load false .mr 4 .none), .transfer ⟨0, false⟩ (.store false .mr 4 .none false),
    .transfer ⟨0, false⟩ (.move (.px 4) .mr false), .do_ ⟨96, false⟩ (.imm 0) 1, .do_ ⟨0, false⟩ (.imm 65536) 1, .do_ ⟨0, false⟩ (.dat 8) 1, .do_ ⟨0, false⟩ (.imm 0) 0,
    .do_ ⟨0, false⟩ (.imm 0) 4097, .rep ⟨96, false⟩ false 0, .rep ⟨0, false⟩ false 65536, .rep ⟨0, false⟩ true 8, .branch ⟨96, false⟩ .always 0, .branch ⟨0, false⟩ .always 65536,
    .call ⟨96, false⟩ 0] : List Instr).any wellFormed = false := by decide +kernel

theorem test_ill_formed_6 : ([
    .call ⟨0, false⟩ 65536, .return_ ⟨96, false⟩, .in_ ⟨96, false⟩ 0 0, .in_ ⟨0, false⟩ 8 0, .in_ ⟨0, false⟩ 0 8, .out ⟨96, false⟩ 0 (.acc 0) false, .out ⟨0, false⟩ 8 (.acc 0) false,
    .out ⟨0, false⟩ 0 (.acc 4) false, .send ⟨96, false⟩ 0 0 0, .send ⟨0, false⟩ 256 0 0, .send ⟨0, false⟩ 0 8 0, .send ⟨0, false⟩ 0 0 8, .wait ⟨96, false⟩ 0, .wait ⟨0, false⟩ 65536,
    .tmrExpiry 96, .houseRestart 96, .streamBlockWrite 96 0, .streamBlockWrite 0 8, .move 32, .fill 32, .loop 32,
    .draftWait 32, .draftWaitDone 32, .draftWaitTimeout 32, .signal 32, .end_ 32, .readbackDone 32 false, .draftBusError 32 0,
    .draftBusError 0 (2 ^ 64), .coxRxUp 2, .coxRxDown 2 0, .coxDownExpiry 2, .strokeMarkerTx 4, .strokeMarkerRx 2 [],
    .timeBeaconRx 2 [], .crewFrameRx 2 ⟨[], false⟩, .coxSleep 2, .coxWake 2, .coxWakeEnd 2, .unwrap (0, 2), .unwrap (65536, 0), .seqTrigger (.stroke 4),
    .seqTrigger (.load 4), .seqTrigger (.htrRise 8), .seqTrigger (.htrFall 8), .channelOutput 24 []] : List Instr).any wellFormed = false := by decide +kernel

theorem test_ill_formed_7 : ([
    .biasFault 8 false false, .htrPeriod 8, .bootDone none ⟨[], []⟩ 256, .por false 16, .perst 16, .flr 32,
    .busMasterEnable 32 (.bme false), .busMasterEnable 0 (.vfs 32), .busMasterEnable 0 (.ltrMax 8192 0), .busMasterEnable 0 (.ltrMax 0 8192),
    .busMasterEnable 0 (.payload 3), .busMasterEnable 0 (.readReq 6), .busMasterEnable 0 (.aerClear (2 ^ 32) 0), .busMasterEnable 0 (.aerClear 0 (2 ^ 32)),
    .coxSignalDetect 2, .coxMeritWindowEnd 2 ⟨0, 0⟩ 0, .coxDfeAdapt 2 [],
    .rsCodewordDecoded 8 cws pars [], .rsCodewordDecoded 0 [] pars [], .rsCodewordDecoded 0 cws [] [],
    .rsCodewordDecoded 0 (List.replicate 514 1024) pars [], .rsCodewordDecoded 0 cws (List.replicate 30 1024) [],
    .round [] ⟨0, 0⟩ ⟨0, 0⟩, .alignLockChange 8 false, .prbsSyncChange 10 false 0 0, .ispCloseDone 1024, .crewFrameSent 2] : List Instr).any wellFormed = false := by decide +kernel

theorem test_well_formed_0 : ([
    .ispOpen hd 0 0 none, .ispClose hd 0, .espOpen hd 0 0 none, .espClose hd 0, .espTake hd 0 0 0, .espRewind hd 0 0 0,
    .expRule hd 0 none, .bayAlloc hd 0 false 0 0, .bayFree hd 0, .boltSet hd 0 0 0 false 0 0 0, .boltBindDone 0,
    .shtLoad hd 0 none, .shtLoadDone 0, .shtStart hd 0 false false 0 0 none, .shtStop hd 0, .shtMsg hd 0 0 0,
    .draftRun hd 0 0 0 none, .draftAbort hd 0, .laneMode hd 0 0 0 0 0, .laneReconfigDone 0, .laneTrain hd 0 false false,
    .laneLoop hd 0 0, .lanePrbs hd 0 false false 0 0 0, .strokeDef hd 0 0 0 0 0 0, .strokeJump hd 0 false 0,
    .timeSet hd false 0 0 0 0, .crewJoin hd 0 0 0 0 false 0 0, .crewLeave hd, .crewRelay hd 0 0 0 none, .pwrHint hd 0 0,
    .attest hd 0 (List.replicate 32 0), .fwStage hd 0 0 none, .fwCommit hd false, .bistRun hd 0, .bistEnd [(40, okBlk)],
    .bistPreconditionFail ⟨0, 0, 0, [(40, okBlk)]⟩, .query hd 0 0, .frameSend hd 0 0 none, .post hd 0 0, .doorbellPoll 0, .doorbellRead 0 none,
    .descriptorFetch 0 none, .descriptorTake 0, .fenceRelease 0, .irqTimerExpiry false 0, .vfNudge 0, .kick 0 0,
    .qpEnable 0 0 0, .qpDisable 0 0 0, .nqEnable 0 0 0, .nqCi 0 0 0, .rejE0Read 0, .loRead 0 0, .loWrite 0 0 0, .hiWrite 0 0 0,
    .resultRead 0 0, .tbNsRead 0, .ptmStatRead 0, .logE0Read 0, .resStatRead 0 0] : List Instr).all wellFormed = true := by decide +kernel

theorem test_well_formed_1 : ([
    .tagPcRead 0 0, .servoSample 0 0, .fecClr 0 0, .laneSrst 0 0, .laneResetEnd 0, .cxSrst 0 0, .bmSrst 0 0, .beamResetEnd 0,
    .shSrst 0 0, .bmCntClr 0 0, .cxCntClr 0 0, .cxEnable 0 0, .calRun 0 0, .txArm 0 0, .txHandover 0, .biasArm 0 0,
    .biasHandover 0, .fdeSel 0 0, .calSel 0 0, .snapshotReady .isp, .mgtGo 0 0, .mgtDone 0 false false 0 [], .ckEnable 0 0,
    .ckData 0 0, .ckDataTail 0 0, .ckFinal 0 0, .cntCfgWrite 0 0, .registerWrite 0 0 0, .bar2Read 0 0, .bar2Write 0 [],
    .signalDetect 0, .lossOfSignal 0, .acquireDone 0 pws 0 l0, .acquireTimeout 0, .trainSolveDone 0 ⟨0, trs, 0, 0⟩, .catchWaitExpiry 0,
    .catchSequenceDetect 0 0, .fdeBlockUpdate 0 rxs l0, .dfeAdapt 0 127, .targetAdapt 0 127 127, .meritWindowEnd 0 (2 ^ 20) 0,
    .timingLockLoss 0, .idleMarkerRx ⟨0, 0, 0⟩, .preamblePeak 0 false 0 ⟨0, 0, 0, pre⟩, .startMarkerRx 0 ⟨0, 0, 0⟩, .burstAbandon 0, .spareRestart 0 0 0,
    .wakeMiss 0, .calPassStart 0, .calEstimateEnd 0 [0, 0, 0, 0] [] [] [] [], .calApplyStep 0, .rampStep 0, .txIdleEntry ⟨0, 0⟩, .txWake 0,
    .txBurstEnd 0, .catchSequenceStart ⟨0, 0⟩, .txFrameStart 0, .degradeWindowEnd 0 0, .frameReceive 0 ⟨[], true, 0, 0⟩,
    .legLoss 0 0] : List Instr).all wellFormed = true := by decide +kernel

theorem test_well_formed_2 : ([
    .slotClose 0 0, .feedHoldExpiry 0, .stroke 0, .packetDue 0, .audioPacketDue 0, .beamTrainDone 0 false, .refresh 0,
    .refreshRateDrop 0, .scrubStep 0 [], .repairStep 0 [], .mergeFlush 0 0, .anchorVote 0 [], .halt ⟨0, false⟩,
    .alu ⟨0, false⟩ .add (.acc 0) (.acc 0) 0, .mac ⟨0, false⟩ .mac 0 0 0 false none, .dualMac ⟨0, false⟩ 0, .transfer ⟨0, false⟩ (.imm .mr 0), .do_ ⟨0, false⟩ (.imm 0) 1,
    .rep ⟨0, false⟩ true 7, .branch ⟨0, false⟩ .always 0, .call ⟨0, false⟩ 0, .return_ ⟨0, false⟩, .in_ ⟨0, false⟩ 0 0, .out ⟨0, false⟩ 0 (.acc 0) false, .send ⟨0, false⟩ 0 0 0,
    .wait ⟨0, false⟩ 0, .tmrExpiry 0, .houseRestart 0, .streamBlockWrite 0 0, .move 0, .fill 0, .loop 0, .draftWait 0, .draftWaitDone 0,
    .draftWaitTimeout 0, .signal 0, .end_ 0, .readbackDone 0 false, .draftBusError 0 0, .coxRxUp 0, .coxRxDown 0 0,
    .coxDownExpiry 0, .strokeMarkerTx 0, .strokeMarkerRx 0 [], .timeBeaconRx 0 [], .crewFrameRx 0 ⟨[], false⟩, .coxSleep 0, .coxWake 0,
    .coxWakeEnd 0, .unwrap (65535, 1), .seqTrigger .timer, .channelOutput 0 [], .biasFault 0 false false, .htrPeriod 0,
    .bootDone none ⟨[], []⟩ 255, .por false 0, .perst 0, .flr 0, .busMasterEnable 0 (.ltrMax 8191 8191), .coxSignalDetect 0] : List Instr).all wellFormed = true := by decide +kernel

theorem test_well_formed_3 : ([
    .coxMeritWindowEnd 0 ⟨0, 0⟩ 0, .coxDfeAdapt 0 [], .rsCodewordDecoded 0 cws pars [], .round (List.replicate 16 4095) ⟨4095, -1⟩ ⟨4095, 4096⟩, .burstIssue [] ⟨[], false⟩, .alignLockChange 0 false,
    .prbsSyncChange 0 false 0 0, .ispCloseDone 0, .crewFrameSent 0] : List Instr).all wellFormed = true := by decide +kernel

end Sys2Proof.Tests

/-! ## The spec's own examples -/

namespace Sys2Proof.Tests

/-- The next state of an outcome has the property. -/
def next (o : Host.Outcome State Fault Refusal) (p : State → Bool) : Bool := match o with | .next t => p t | _ => false
/-- Shuttle 5 runs with these registers, a word of class `c` at its PC. -/
def sh5 (c : Nat) (l : List (SReg × Nat)) : State :=
  (w g (fSh_STAT_STATE 5) stRun).modShut 5 ({ · with regs := l, p := [(0, BitVec.ofNat 48 (c * 2 ^ 44))] })
/-- The 59.94 Hz generator of 07_timebase_stroke.md. -/
def g5994 : GenDef := ⟨60000, 1001, 0, 0, 0⟩
def nine : List Byte := [0x31, 0x32, 0x33, 0x34, 0x35, 0x36, 0x37, 0x38, 0x39]
/-- The draft of 14_drafts_check_units.md on DC02. -/
def worked : List (List Byte) :=
  [[1, 0, 0x4D, 0x4F, 0, 0, 0, 0, 1, 0x40, 0, 0, 0, 0, 0, 0], [3, 0, 0, 0, 4, 0, 0, 0, 0, 0x4D, 0x4F, 0, 0, 0x4D, 0x4F, 0],
   [5, 0, 3, 0, 0, 0, 0, 0, 0, 0, 0, 0, 0, 0, 0, 0], [6, 0, 0, 0, 0, 0, 0, 0, 0, 0, 0, 0, 0, 0, 0, 0]]
def dc2 (pc : Nat) (f : DraftCh) : State :=
  (w (w (w gb (fDrf_HWIN_LO_EN 0) 1) (fDrf_DC_STAT_STATE 2) 1) (fDrf_DC_STAT_PC 2) pc).setDc 2 { f with hdr := some h0, prog := worked }

/-- Example of R565: four addresses. -/
theorem test_addresses : addrOf ⟨.ln, 5, 0x224⟩ = 0x150224 ∧ addrOf ⟨.cx, 1, 0x14⟩ = 0x71114 ∧ addrOf ⟨.ch, 17, 0x18⟩ = 0x80338 ∧
    addrOf ⟨.sh, 42, 0x68⟩ = 0x42A068 := by decide +kernel
/-- R565's four addresses name those registers. -/
theorem test_address_reads : g.regAt 0 0x150224 = some ⟨.ln, 5, 0x224⟩ ∧ g.regAt 0 0x71114 = some ⟨.cx, 1, 0x14⟩ ∧
    g.regAt 0 0x80338 = some ⟨.ch, 17, 0x18⟩ ∧ g.regAt 0 0x42A068 = some ⟨.sh, 42, 0x68⟩ := by decide +kernel
/-- Example of 23_register_summary.md: slot 6 of VF 3's window is QP70 while COUNT is 8, and nothing with COUNT = 4. -/
theorem test_vf_window : (g.setReg ⟨.que, 0, 0x10C⟩ (0x840 : W32)).regAt 3 0x1180 = some (rQp_CTL 70) ∧
    (g.setReg ⟨.que, 0, 0x10C⟩ (0x440 : W32)).regAt 3 0x1180 = none ∧ g.regAt 0 0x31180 = some (rQp_CTL 70) := by decide +kernel
/-- The check column of R406. -/
theorem test_check_values : crcPolys.map (crc · nine) = [0xCBF43926, 0xE3069283, 0x29B1, 0xD0DB, 0xF4] := by decide +kernel
/-- Example of 07_timebase_stroke.md: the first stroke after 1,700,000,000 s, its instant and its count. -/
theorem test_first_stroke : g5994.firstAt (1700000000 * secU) = 101898101899 ∧
    g5994.instant 0 101898101899 = (1700000000 * 10 ^ 9 + 14983333) * 65536 + 21845 ∧ 101898101899 % 2 ^ 32 = 3113854091 := by
  decide +kernel
/-- Example of 13_commands.md: the result bytes 6-15 of the take. -/
theorem test_take_result : strokeResult 3113854091 (g5994.instant 0 101898101899) =
    [0x8B, 0xA4, 0x99, 0xB9, 0xA5, 0xA0, 0xE4, 0x00, 0x00, 0xF1] := by decide +kernel
/-- Example of R303: RND of half an LSB, of -0.5 LSB, and of just below -1.5 LSB. -/
theorem test_rnd : next (exec (.alu ⟨5, false⟩ .rnd (.acc 0) (.acc 0) 0) (sh5 1 [(.a 0, 0x00123456800000)])) (·.sv 5 (.a 0) == 0x00123457000000) = true ∧
    next (exec (.alu ⟨5, false⟩ .rnd (.acc 1) (.acc 1) 0) (sh5 1 [(.a 1, 0xFFFFFFFF800000)])) (·.sv 5 (.a 1) == 0) = true ∧
    next (exec (.alu ⟨5, false⟩ .rnd (.acc 2) (.acc 2) 0) (sh5 1 [(.a 2, 0xFFFFFFFE7FFFFF)])) (fun t => t.sv 5 (.a 2) / 2 ^ 24 % 2 ^ 24 == 0xFFFFFE) = true := by
  decide +kernel
/-- Example of 11_shuttles.md: MPY then MAC of 0.75 by 0.75 gives 1.125. -/
theorem test_mac :
    next (exec (.mac ⟨5, false⟩ .mpy 0 0 1 false none) (sh5 2 [(.d 0, 0x600000), (.d 1, 0x600000)])) (·.sv 5 (.a 0) == 0x00480000000000) = true ∧
    next (exec (.mac ⟨5, false⟩ .mac 0 0 1 false none) (sh5 2 [(.a 0, 0x00480000000000), (.d 0, 0x600000), (.d 1, 0x600000)]))
      (·.sv 5 (.a 0) == 0x00900000000000) = true := by decide +kernel
/-- Its transfer to D2 saturates with SAT, wraps without, and sets Q. -/
theorem test_transfer_saturates : next (exec (.transfer ⟨5, false⟩ (.move (.d 2) (.a 0) false)) (sh5 4 [(.a 0, 0x00900000000000), (.mr, 1)]))
      (fun t => t.sv 5 (.d 2) == 0x7FFFFF && (t.sv 5 .sr).testBit 4) = true ∧
    next (exec (.transfer ⟨5, false⟩ (.move (.d 2) (.a 0) false)) (sh5 4 [(.a 0, 0x00900000000000)]))
      (fun t => t.sv 5 (.d 2) == 0x900000 && (t.sv 5 .sr).testBit 4) = true := by decide +kernel
/-- Example of R307: two rings. -/
theorem test_rings : ptrAfter 1127 1000 130 7 = 1004 ∧ ptrAfter 16383 16380 10 1 = 0 := by decide +kernel
/-- The worked draft: its MOVE reads 5,197,056 bytes of beam into window 0. -/
theorem test_worked_move : next (exec (.move 2) (dc2 0 {})) (fun t => (t.dc 2).xfer.any fun x =>
    x.src == some 0x400100000000 && x.dst == 0 && x.len == 5197056) = true := by decide +kernel
/-- Its second pass moves both addresses by 5,197,056. -/
theorem test_worked_pass : next (exec (.loop 2) (dc2 1 {})) (fun t => t.fld (fDrf_DC_STAT_PC 2) == 0 &&
    next (exec (.move 2) t) fun u => (u.dc 2).xfer.any fun x => x.src == some (0x400100000000 + 5197056) && x.dst == 5197056) = true := by
  decide +kernel
/-- Example of 16_power_states.md: an idle card with TOL_US 2,000 and an LTR maximum of 3,146 us has target P3. -/
theorem test_idle_card : State.target (w { g with host := { g.host with cfg := { g.host.cfg with ltr := true, snoop := 0x1003, noSnoop := 0x1003 } } } fPwr_TOLERANCE_TOL_US 2000) = 3 := by
  decide +kernel
/-- Example of 17_thermal_ageing.md: at 75.0 degrees the band is T2; below 73.0 degrees samples count towards leaving it. -/
theorem test_warm_hour : bandOf (75 * 16) = 2 ∧ bandOf (75 * 16 - 1) = 1 ∧ bandEdge 2 - 32 = 73 * 16 := by decide +kernel
/-- Example of 12_host_interface.md: QP8.CTL = 0xC8080800 opens two rings of 256 entries. -/
theorem test_queue_opens : next (exec (.qpEnable 0 8 0xC8080800#32) (g.setReg (rQp_DB_ADDR_LO 8) 0x4000#32)) (fun t =>
    t.on (fQp_CTL_EN 8) && t.sqSize 8 == 256 && t.cqSize 8 == 256 && t.watched 8) = true := by decide +kernel
/-- A step takes the front command, and an empty queue lets time pass. -/
theorem test_step : next (step { g with pending := [.hintExpiry, .pps] }) (·.pending == [.pps]) = true ∧
    next (step g) (·.pending == []) = true := by decide +kernel
/-- The hypotheses of the three statements about every step are met (QueueIsServedInOrder, FusesMoveOneWay, BeamMemoryStaysCanonical). -/
theorem witness_steps : ∃ (c : Instr) (rest : List Instr) (s t : State), s.pending = c :: rest ∧ step s = .next t ∧ memWf s.beam.mem = true :=
  ⟨.hintExpiry, [.pps], { gb with pending := [.hintExpiry, .pps] }, _, rfl, rfl, rfl⟩

end Sys2Proof.Tests

/-! ## The hypotheses of each statement are met -/

namespace Sys2Proof.Tests.W1


theorem witness_StepRunsFrontCommand :
    ∃ (s : State), s.pending = [] :=
  ⟨g, by decide +kernel⟩

theorem witness_DoorbellsAreReadAndTaken :
    (∃ (fn q : Nat) (s : State), s.awake = true ∧ q < 256 ∧ (fn = 0 ∨ s.ownerOf q = fn) ∧ s.on (fQp_CTL_EN q) = true ∧ s.fld
      (fQp_STAT_ERR q) = 0 ∧ s.bme (s.ownerOf q) = true)
    ∧ (∃ (q : Nat) (s : State), s.watched q = true ∧ s.pState < 2 ∧ s.fld (fQp_STAT_ERR q) = 0 ∧ s.bme (s.ownerOf q) = true)
    ∧ (∃ (s : State), s.awake = true)
    ∧ (∃ (fn : Nat) (s : State), s.awake = true ∧ fn ≠ 0)
    ∧ (∃ (q : Nat) (d : List Byte) (s : State), (s.qp q).due = true ∧ s.on (fQp_CTL_EN q) = true ∧ s.bme (s.ownerOf q) = true ∧
      s.fld (fQp_STAT_ERR q) = 0 ∧ field d 2 2 = s.fld (fQp_DB_GEN_GEN q) ∧ field d 0 2 < s.sqSize q ∧ field d 4 2 <
      s.cqSize q)
    ∧ (∃ (q : Nat) (d : List Byte) (s : State), (s.qp q).due = true ∧ s.on (fQp_CTL_EN q) = true ∧ s.bme (s.ownerOf q) = true ∧
      s.fld (fQp_STAT_ERR q) = 0 ∧ field d 2 2 ≠ s.fld (fQp_DB_GEN_GEN q))
    ∧ (∃ (q : Nat) (l : List (List Byte)) (s : State), s.on (fQp_CTL_EN q) = true ∧ s.fld (fQp_STAT_ERR q) = 0 ∧ s.bme
      (s.ownerOf q) = true ∧ (s.qp q).asked ≠ 0 ∧ l.length ≤ (s.qp q).asked ∧ (∀ d ∈ l, d.length = s.descSize q)) :=
  ⟨⟨0, 0, gq, by decide +kernel⟩,
   ⟨0, (w gq (fQp_CTL_WATCH 0) 1), by decide +kernel⟩,
   ⟨(w gq (fQp_CTL_WATCH 0) 1), by decide +kernel⟩,
   ⟨3, (w (w gq (fQp_CTL_WATCH 0) 1) (fQp_CTL_WATCH 0) 1), by decide +kernel⟩,
   ⟨0, [3, 0, 0, 0, 1, 0, 0, 0], gq.setQp 0 { due := true }, by decide +kernel⟩,
   ⟨0, [3, 0, 9, 0, 1, 0, 0, 0], gq.setQp 0 { due := true }, by decide +kernel⟩,
   ⟨0, [List.replicate 64 0, List.replicate 64 1], gq.setQp 0 { sqPi := 3, asked := 2 }, by decide +kernel⟩⟩

theorem witness_DescriptorsAreTakenAndRingsInterrupt :
    (∃ (q : Nat) (raw : List Byte) (rest : List (List Byte)) (s : State), s.mayTake q = true ∧ q < 256 ∧ s.sqSize q ≤ 65536 ∧
      (s.qp q).fetched = raw :: rest ∧ (takenOf s q raw).bad = none)
    ∧ (∃ (q : Nat) (raw : List Byte) (rest : List (List Byte)) (s : State), s.mayTake q = true ∧ q < 256 ∧ s.sqSize q ≤ 65536 ∧
      (s.qp q).fetched = raw :: rest ∧ (takenOf s q raw).bad ≠ none)
    ∧ (∃ (q : Nat) (raw : List Byte) (rest : List (List Byte)) (s : State), s.mayTake q = true ∧ q < 256 ∧ s.sqSize q ≤ 65536 ∧
      (s.qp q).fetched = raw :: rest ∧ (takenOf s q raw).waiting = true)
    ∧ (∃ (q : Nat) (x : Taken) (l : List Taken) (s : State), (s.qp q).taken = x :: l ∧ x.waiting = true ∧ x.bad = none ∧ (∀ y ∈
      (releaseList l).1, y.bad = none))
    ∧ (∃ (q : Nat) (s : State), (s.qp q).irqPend ≠ 0 ∧ s.on (fQp_IRQ_INT_EN q) = true ∧ s.bme (s.ownerOf q) = true ∧ s.on
      (fMsix_VEC_CTRL_MASK (s.ownerOf q) (s.fld (fQp_IRQ_VEC q))) = false ∧ s.msixLive (s.ownerOf q) = true)
    ∧ (∃ (q : Nat) (s : State), (s.qp q).irqPend ≠ 0 ∧ s.on (fQp_IRQ_INT_EN q) = true ∧ (s.on (fMsix_VEC_CTRL_MASK (s.ownerOf
      q) (s.fld (fQp_IRQ_VEC q))) = true ∨ s.bme (s.ownerOf q) = false ∨ s.msixLive (s.ownerOf q) = false))
    ∧ (∃ (q : Nat) (s : State), (s.qp q).irqPend ≠ 0 ∧ s.on (fQp_IRQ_INT_EN q) = true ∧ (s.on (fMsix_VEC_CTRL_MASK (s.ownerOf
      q) (s.fld (fQp_IRQ_VEC q))) = true ∨ s.bme (s.ownerOf q) = false ∨ s.msixLive (s.ownerOf q) = false) ∧ s.msixLive
      (s.ownerOf q) = false)
    ∧ (∃ (f : Nat) (s : State), (s.ring f).irqPend ≠ 0 ∧ s.on (fNq_NQ_IRQ_INT_EN f) = true ∧ s.bme f = true ∧ s.on
      (fMsix_VEC_CTRL_MASK f (s.fld (fNq_NQ_IRQ_VEC f))) = false ∧ s.msixLive f = true)
    ∧ (∃ (f : Nat) (s : State), (s.ring f).irqPend ≠ 0 ∧ s.on (fNq_NQ_IRQ_INT_EN f) = true ∧ (s.on (fMsix_VEC_CTRL_MASK f
      (s.fld (fNq_NQ_IRQ_VEC f))) = true ∨ s.bme f = false ∨ s.msixLive f = false)) :=
  ⟨⟨0, ([0xF0, 1, 7] ++ List.replicate 21 0 ++ [0, 0, 1] ++ List.replicate 37 0), [], gq.setQp 0 { sqPi := 3, fetched := [[0xF0, 1, 7] ++ List.replicate 21 0 ++ [0, 0, 1] ++ List.replicate 37 0] }, by decide +kernel⟩,
   ⟨0, List.replicate 64 0, [], gq.setQp 0 { sqPi := 3, fetched := [List.replicate 64 0] }, by decide +kernel⟩,
   ⟨0, [0xF0, 1, 7, 0, 1] ++ List.replicate 59 0, [], gq.setQp 0 { sqPi := 3, fetched := [[0xF0, 1, 7, 0, 1] ++ List.replicate 59 0], taken := [tq false false] }, by decide +kernel⟩,
   ⟨0, tq true true, [tq false true, tq true true], gq.setQp 0 { taken := [tq true true, tq false true, tq true true] }, by decide +kernel⟩,
   ⟨0, ((w (w gq (fQp_IRQ_INT_EN 0) 1) (fMsix_VEC_CTRL_MASK 0 0) 0).setQp 0 { irqPend := 2 }), by decide +kernel⟩,
   ⟨255, (w (w gq (fQp_IRQ_INT_EN 255) 1) (fMsix_VEC_CTRL_MASK 0 0) 1).setQp 255 { irqPend := 2 }, by decide +kernel⟩,
   ⟨255, { (w (w gq (fQp_IRQ_INT_EN 255) 1) (fMsix_VEC_CTRL_MASK 0 0) 0).setQp 255 { irqPend := 2 } with host := { ((w gq (fQp_IRQ_INT_EN 255) 1).setQp 255 { irqPend := 2 }).host with cfg := {} } }, by decide +kernel⟩,
   ⟨0, { (w (w g (fNq_NQ_IRQ_INT_EN 0) 1) (fMsix_VEC_CTRL_MASK 0 0) 0) with host := { g.host with rings := [(0, { irqPend := 1 })] } }, by decide +kernel⟩,
   ⟨31, { (w g (fNq_NQ_IRQ_INT_EN 31) 1) with host := { g.host with rings := [(31, { irqPend := 1 })] } }, by decide +kernel⟩⟩

theorem witness_RingsAreEnabledAndDisabled :
    (∃ (fn q : Nat) (v : W32) (s : State), s.awake = true ∧ q < 256 ∧ (fn = 0 ∨ s.ownerOf q = fn) ∧ v.getLsbD 31 = true ∧
      s.on (fQp_CTL_EN q) = false ∧ qpCtlCheck s q v = none)
    ∧ (∃ (fn q : Nat) (v : W32) (s : State), s.awake = true ∧ q < 256 ∧ (fn = 0 ∨ s.ownerOf q = fn) ∧ v.getLsbD 31 = false ∧
      s.on (fQp_CTL_EN q) = true ∧ qpCtlCheck s q v = none ∧ (s.qp q).taken = [] ∧ (s.qp q).posted = [] ∧ s.loom.esps = [] ∧
      (∀ k, k < 4 → (s.gen k).jump = none) ∧ (∀ e ∈ s.sht.sh, e.2.start = none) ∧ s.sht.loads = [] ∧ s.sec.attests = [])
    ∧ (∃ (fn f : Nat) (v : W32) (s : State), s.awake = true ∧ f < 32 ∧ (fn = 0 ∨ fn = f) ∧ v.getLsbD 31 = true ∧
      s.on (fNq_NQ_CTL_EN f) = false ∧ nqCtlCheck s f v = none)
    ∧ (∃ (fn f : Nat) (v : W32) (s : State), s.awake = true ∧ f < 32 ∧ (fn = 0 ∨ fn = f) ∧ bits v 11 0 < s.nqSize f) :=
  ⟨⟨0, 0, 0x80000000#32 ||| 0x00040400#32, g, by decide +kernel⟩,
   ⟨0, 0, 0x00040400#32 ||| 0x08000000#32, gq, by decide +kernel⟩,
   ⟨0, 31, 0x80040000#32, g, by decide +kernel⟩,
   ⟨0, 0, 15#32, (w g (fNq_NQ_CTL_LOG2 0) 4), by decide +kernel⟩⟩

end Sys2Proof.Tests.W1

namespace Sys2Proof.Tests.W2

def dOf (r : RegId) : RegDesc := (findReg r).getD ⟨"", 0, 0, 0, []⟩

theorem witness_SixtyFourBitReads :
    (∃ (fn addr : Nat) (r : RegId) (d : RegDesc) (s : State), s.awake = true ∧ s.regAt fn addr = some r ∧ findReg r = some d ∧
      s.unavailable r = none ∧ isLo r = true ∧ captured r = false ∧ isResult d = false ∧ isHi r = false ∧ captures r = [] ∧ r.blk ≠ .anc)
    ∧ (∃ (fn addr : Nat) (r : RegId) (d : RegDesc) (s : State), s.awake = true ∧ s.regAt fn addr = some r ∧ findReg r = some d ∧
      s.unavailable r = none ∧ isHi r = true ∧ captured r = false ∧ r.blk ≠ .anc) :=
  ⟨⟨0, (addrOf (rNq_NQ_BASE_LO 0)), (rNq_NQ_BASE_LO 0), (dOf (rNq_NQ_BASE_LO 0)), g.setReg (rNq_NQ_BASE_HI 0) 5#32, by decide +kernel⟩,
   ⟨0, (addrOf (rNq_NQ_BASE_HI 0)), (rNq_NQ_BASE_HI 0), (dOf (rNq_NQ_BASE_HI 0)), g, by decide +kernel⟩⟩

theorem witness_ResultReadsClearFresh :
    ∃ (addr : Nat) (r : RegId) (d : RegDesc) (s : State), s.awake = true ∧ s.regAt 0 addr = some r ∧ findReg r = some d ∧
      s.unavailable r = none ∧ isResult d = true ∧ isLo r = false ∧ isHi r = false ∧ captured r = false ∧ captures r = [] ∧ r.blk ≠ .anc ∧
      live r s = s.reg r ∧ (s.reg r).getLsbD 30 = true :=
  ⟨(addrOf rThm_AGE_VAL), rThm_AGE_VAL, (dOf rThm_AGE_VAL), g.setReg rThm_AGE_VAL 0xC0000005#32, by decide +kernel⟩

theorem witness_CapturingReads :
    (∃ (s : State), s.awake = true)
    ∧ (∃ (s : State), s.awake = true)
    ∧ (∃ (s : State), s.awake = true ∧ s.testing 8 = false)
    ∧ (∃ (e : Rej) (l : List Rej) (s : State), s.awake = true ∧ s.host.rejLog = e :: l)
    ∧ (∃ (s : State), s.awake = true ∧ s.host.rejLog = [])
    ∧ (∃ (n : Nat) (s : State), s.awake = true ∧ n < 16 ∧ s.testing 38 = false)
    ∧ (∃ (n : Nat) (s : State), s.awake = true ∧ n < 96 ∧ s.regTesting (rSh_TAG_PC n) = false)
    ∧ (∃ (n : Nat) (s : State), s.awake = true ∧ n < 96 ∧ s.regTesting (rSh_TAG_PC n) = false)
    ∧ (∃ (fn : Nat) (s : State), s.awake = true ∧ 1 ≤ fn ∧ fn < 32)
    ∧ (∃ (fn : Nat), 1 ≤ fn ∧ fn < 32) :=
  ⟨⟨{ g with tb := 123456789012345678901 }, by decide +kernel⟩,
   ⟨(w (g.setReg rCox_PTM_HOST_LO 4#32) fCox_PTM_STAT_FRESH 1), by decide +kernel⟩,
   ⟨{ g with beam := { g.beam with log := [⟨0x1234567, 1, 2, 3, 4, 5, 6⟩] } }, by decide +kernel⟩,
   ⟨⟨0x24, 3, 0, true, 0⟩, [], { g with host := { g.host with rejLog := [⟨0x24, 3, 0, true, 0⟩] } }, by decide +kernel⟩,
   ⟨g, by decide +kernel⟩,
   ⟨15, (g.setReg (rCk_RES_STAT 15) 0xC0000000#32), by decide +kernel⟩,
   ⟨0, (g.setReg (rSh_TAG_PC 0) 0xC0000011#32), by decide +kernel⟩,
   ⟨95, (g.setReg (rSh_TAG_PC 95) 0xC0000011#32), by decide +kernel⟩,
   ⟨31, g, by decide +kernel⟩,
   ⟨31, by decide +kernel⟩⟩

theorem witness_RegisterWritesFollowTheTables :
    (∃ (fn addr : Nat) (r : RegId) (d : RegDesc) (v : W32) (s : State), s.awake = true ∧ s.regAt fn addr = some r ∧ findReg r
      = some d ∧ fnWrite fn (spaceOf fn) addr r = none ∧ pfWrite r = none ∧ (writable d && (isLo r || isHi r)) = false ∧
      firstFail (writeChecks d r (settle r v s) s) = none ∧ r.blk ≠ .msix ∧ r.blk ≠ .sh ∧ (r.blk = .ln → r.off ≠ 0x228)
      ∧ (r.blk = .cox → r.off ≠ 0x80) ∧ (∀ c, c < 6 → r ≠ rLoom_PUNT_CFG c))
    ∧ (∃ (fn addr st : Nat) (r : RegId) (d : RegDesc) (v : W32) (s : State), s.awake = true ∧ s.regAt fn addr = some r ∧
      findReg r = some d ∧ fnWrite fn (spaceOf fn) addr r = none ∧ pfWrite r = none ∧ (writable d && (isLo r || isHi r))
      = false ∧ firstFail (writeChecks d r (settle r v s) s) = some st ∧ s.host.rejLog.length < 32)
    ∧ (∃ (fn addr : Nat) (s : State), s.awake = true ∧ s.regAt fn addr = none ∧ inBar fn addr = false)
    ∧ (∃ (c : Nat) (d : RegDesc) (v : W32) (s : State), s.awake = true ∧ c < 6 ∧ findReg (rLoom_PUNT_CFG c) = some d ∧
      firstFail (writeChecks d (rLoom_PUNT_CFG c) v s) = none)
    ∧ (∃ (fn addr : Nat) (s : State), s.awake = true ∧ s.regAt fn addr = none ∧ inBar fn addr = true ∧ s.host.rejLog.length <
      32)
    ∧ (∃ (fn addr : Nat) (s : State), s.awake = true ∧ s.regAt fn addr = none ∧ inBar fn addr = true ∧ s.host.rejLog.length <
      32)
    ∧ (∃ (f : Nat) (s : State), s.awake = true ∧ f < 32)
    ∧ (∃ (f : Nat) (lo : W32) (s : State), s.awake = true ∧ f < 32 ∧ Tab.find s.host.loHeld (0, rNq_NQ_BASE_LO f) = some lo)
    ∧ (∃ (f : Nat) (s : State), s.awake = true ∧ f < 32 ∧ Tab.find s.host.loHeld (0, rNq_NQ_BASE_LO f) = none)
    ∧ (∃ (fn addr n : Nat) (d : RegDesc) (v : W32) (s : State), s.awake = true ∧ s.regAt fn addr = some (rLn_ADAPT n) ∧ findReg
      (rLn_ADAPT n) = some d ∧ firstFail (writeChecks d (rLn_ADAPT n) v s) = none)
    ∧ (∃ (d : RegDesc) (v : W32) (s : State), s.awake = true ∧ findReg rCox_OUT_CTL = some d ∧ s.unavailable rCox_OUT_CTL =
      none ∧ s.time.soEnd = none ∧ s.time.ppsEnd = none ∧ inRange d v = true)
    ∧ (∃ (f j addr : Nat) (v : W32) (s : State), s.awake = true ∧ s.regAt f addr = some (rMsix_VEC_CTRL f j) ∧ j < 32 ∧ s.on
      (fMsix_VEC_CTRL_MASK f j) = true ∧ v.getLsbD 0 = false ∧ (s.reg (rMsix_PBA f 0)).getLsbD j = true ∧ s.bme f = true
      ∧ s.msixLive f = true) :=
  ⟨⟨0, (addrOf rQue_POLL), rQue_POLL, (dOf rQue_POLL), 1000#32, g, by decide +kernel, by decide +kernel, by decide +kernel,
    by decide +kernel, by decide +kernel, by decide +kernel, by decide +kernel, by decide +kernel, by decide +kernel, by
    decide +kernel, by decide +kernel, fun c _ h => by cases h⟩,
   ⟨0, (addrOf (rLn_TX_RAMP 7)), eRange, (rLn_TX_RAMP 7), (dOf (rLn_TX_RAMP 7)), 127#32, upl g 7, by decide +kernel⟩,
   ⟨1, 65536, g, by decide +kernel⟩,
   ⟨5, dOf (rLoom_PUNT_CFG 5), 0x80000105#32, g, by decide +kernel⟩,
   ⟨0, 0x99990, g, by decide +kernel⟩,
   ⟨31, 65532, g, by decide +kernel⟩,
   ⟨31, g, by decide +kernel⟩,
   ⟨31, 64#32, (g.holdLo 0 (rNq_NQ_BASE_LO 31) 64#32), by decide +kernel⟩,
   ⟨31, g, by decide +kernel⟩,
   ⟨0, (addrOf (rLn_ADAPT 7)), 7, (dOf (rLn_ADAPT 7)), 0x14242064#32, (w (w (upl g 7) (fLn_RX_STAT_STATE 7) 2)
    (fLn_RX_STAT_RETRY 7) 1), by decide +kernel⟩,
   ⟨dOf rCox_OUT_CTL, regReset rCox_OUT_CTL, g, by decide +kernel⟩,
   ⟨0, 31, addrOf (rMsix_VEC_CTRL 0 31), 0#32, (w g (fMsix_VEC_CTRL_MASK 0 31) 1).setReg (rMsix_PBA 0 0) 0x80000000#32, by
    decide +kernel⟩⟩

theorem witness_LogsArePopped :
    (∃ (v : W32) (s : State), s.awake = true ∧ v.getLsbD 0 = true ∧ s.host.rejLog.length ≤ 32)
    ∧ (∃ (v : W32) (s : State), s.awake = true ∧ v.getLsbD 0 = false)
    ∧ (∃ (v : W32) (s : State), s.awake = true ∧ v.getLsbD 0 = true ∧ s.testing 8 = false ∧ s.beam.log.length ≤ 64) :=
  ⟨⟨1#32, { g with host := { g.host with rejLog := [⟨0x24, 3, 0, true, 0⟩, ⟨0x28, 3, 0, true, 0⟩] } }, by decide +kernel⟩,
   ⟨0xFFFFFFFE#32, g, by decide +kernel⟩,
   ⟨1#32, { g with beam := { g.beam with log := [⟨0x1234567, 1, 2, 3, 4, 5, 6⟩] } }, by decide +kernel⟩⟩

end Sys2Proof.Tests.W2

namespace Sys2Proof.Tests.W3

def bd : Binding := ⟨h0, 0, 0, 0, 64, 128, 3⟩
def gbb : State := gb.modBolt 2047 fun b => { b with bound := true, bay := 0, ofs := 64, size := 128, slots := 2, ever := true }
def me : MergeEnt := ⟨16, 0, (List.range 64).map fun j => (j, BitVec.ofNat 8 (j + 1))⟩

theorem witness_BaysAreAllocatedAndFreed :
    (∃ (h : Hdr) (owner : Nat) (any : Bool) (size base i b : Nat) (s : State), s.takesPf (.bayAlloc h owner any size base) =
      true ∧ bmTargets.any s.testing = false ∧ s.trained = true ∧ (any = true → base = 0) ∧ size ≠ 0 ∧ size % 2 ^ 24 = 0
      ∧ base % 2 ^ 24 = 0 ∧ base + size ≤ 2 ^ 41 ∧ owner ≤ s.host.vfs ∧ (any = false → s.baysFree base size = true ∧ b =
      base) ∧ (any = true → s.fitBase size = some b) ∧ s.freeBay = some i)
    ∧ (∃ (h : Hdr) (owner : Nat) (any : Bool) (size base i b : Nat) (s : State), s.takesPf (.bayAlloc h owner any size base) =
      true ∧ bmTargets.any s.testing = false ∧ s.trained = true ∧ (any = true → base = 0) ∧ size ≠ 0 ∧ size % 2 ^ 24 = 0
      ∧ base % 2 ^ 24 = 0 ∧ base + size ≤ 2 ^ 41 ∧ owner ≤ s.host.vfs ∧ (any = false → s.baysFree base size = true ∧ b =
      base) ∧ (any = true → s.fitBase size = some b) ∧ s.freeBay = some i)
    ∧ (∃ (h : Hdr) (owner : Nat) (any : Bool) (size base i b : Nat) (s : State), s.takesPf (.bayAlloc h owner any size base) =
      true ∧ bmTargets.any s.testing = false ∧ s.trained = true ∧ (any = true → base = 0) ∧ size ≠ 0 ∧ size % 2 ^ 24 = 0
      ∧ base % 2 ^ 24 = 0 ∧ base + size ≤ 2 ^ 41 ∧ owner ≤ s.host.vfs ∧ (any = false → s.baysFree base size = true ∧ b =
      base) ∧ (any = true → s.fitBase size = some b) ∧ s.freeBay = some i)
    ∧ (∃ (h : Hdr) (bay : Nat) (s : State), s.takesPf (.bayFree h bay) = true ∧ bmTargets.any s.testing = false ∧ (s.bay
      bay).isSome = true ∧ (∀ e ∈ s.beam.bolts, e.2.bound = true → e.2.bay ≠ bay) ∧ (∀ e ∈ s.loom.esps, e.2.state ≠ 0 →
      (s.bolt e.2.bolt).ever = true → (s.bolt e.2.bolt).bay ≠ bay)) :=
  ⟨⟨h0, 0, false, (2^24), (2^30), 1, (2^30), tk (.bayAlloc h0 0 false (2^24) (2^30)) gb, by decide +kernel⟩,
   ⟨h0, 0, true, (2^24), 0, 1, (2^30), tk (.bayAlloc h0 0 true (2^24) 0) gb, by decide +kernel⟩,
   ⟨h0, 0, false, (2^24), (2^41 - 2^24), 1, (2^41 - 2^24), tk (.bayAlloc h0 0 false (2^24) (2^41 - 2^24)) gb, by
    decide +kernel⟩,
   ⟨h0, 0, tk (.bayFree h0 0) gb, by decide +kernel⟩⟩

theorem witness_BoltsAreBoundAndUnbound :
    (∃ (h : Hdr) (bolt bay kind ofs size slots : Nat) (y : Bay) (s : State), s.takes (.boltSet h bolt bay kind true ofs size
      slots) = true ∧ bmTargets.any s.testing = false ∧ s.trained = true ∧ bolt < 2048 ∧ bay < 64 ∧ kind < 2 ∧ ofs % 64
      = 0 ∧ size % 64 = 0 ∧ 64 ≤ size ∧ size ≤ 2 ^ 30 ∧ 2 ≤ slots ∧ slots ≤ 65535 ∧ s.bay bay = some y ∧ ofs + size *
      slots ≤ y.size ∧ (s.ownerOf h.qp = 0 ∨ y.owner = s.ownerOf h.qp) ∧ (s.bolt bolt).bound = false ∧ (s.bolt
      bolt).binding = none ∧ s.boltOverlap (y.base + ofs) (size * slots) = false)
    ∧ (∃ (h : Hdr) (bolt : Nat) (s : State), s.takes (.boltSet h bolt 0 0 false 0 0 0) = true ∧ bmTargets.any s.testing = false
      ∧ s.trained = true ∧ bolt < 2048 ∧ (s.bolt bolt).bound = true ∧ (s.bolt bolt).writer = none ∧ (s.bolt
      bolt).binding = none ∧ (s.ownerOf h.qp = 0 ∨ ∀ y, s.bay (s.bolt bolt).bay = some y → y.owner = s.ownerOf h.qp))
    ∧ (∃ (bolt : Nat) (x : Binding) (s : State), (s.bolt bolt).binding = some x ∧ x.hdr.qp < 256 ∧ s.bme (s.ownerOf x.hdr.qp) =
      true ∧ (x.base + x.ofs) % 64 = 0 ∧ x.size % 64 = 0 ∧ 64 ≤ x.size) :=
  ⟨⟨h0, 2047, 0, 1, 64, 64, 2, ⟨0, 0, 2^30⟩, tk (.boltSet h0 2047 0 1 true 64 64 2) gb, by decide +kernel⟩,
   ⟨h0, 2047, tk (.boltSet h0 2047 0 0 false 0 0 0) gbb, by decide +kernel⟩,
   ⟨2047, bd, gb.modBolt 2047 ({ · with binding := some bd }), by decide +kernel⟩⟩

theorem witness_BarTwoReachesBeam :
    (∃ (ofs : Nat) (data : List Byte) (s : State), s.awake = true ∧ s.trained = true ∧ ofs < 2 ^ 30 ∧ ofs % 8 = 0 ∧
      data.length = 8 ∧ s.testing (8 + beamPort (s.bar2Addr ofs)) = false ∧ (∀ e ∈ s.beam.merge, e.line ≠ s.bar2Addr ofs
      / 64))
    ∧ (∃ (ofs : Nat) (s : State), s.awake = true ∧ s.trained = true ∧ ofs < 2 ^ 30 ∧ ofs % 8 = 0 ∧ s.testing (8 + beamPort
      (s.bar2Addr ofs)) = false ∧ (∀ e ∈ s.beam.merge, e.line ≠ s.bar2Addr ofs / 64) ∧ wordKind s (s.bar2Addr ofs) = 0)
    ∧ (∃ (ofs : Nat) (s : State), s.awake = true ∧ 2 ^ 30 ≤ ofs)
    ∧ (∃ (ofs : Nat) (s : State), s.awake = true ∧ s.trained = false ∧ ofs < 2 ^ 30 ∧ s.bist = none ∧ s.host.rejLog.length < 32) :=
  ⟨⟨2 ^ 30 - 8, [1, 2, 3, 4, 5, 6, 7, 8], gb, by decide +kernel⟩,
   ⟨64, { gb with beam := { gb.beam with mem := (List.range 8).map fun j => (64 + j, BitVec.ofNat 8 j) } }, by decide +kernel⟩,
   ⟨2 ^ 30, g, by decide +kernel⟩,
   ⟨2 ^ 30 - 1, g, by decide +kernel⟩⟩

theorem witness_BeamIsMaintained :
    (∃ (k : Nat) (e : MergeEnt) (s : State), s.beam.merge = [e] ∧ beamPort (e.line * 64) = k ∧ (∀ j, j < 64 → (Tab.find
      e.bytes j).isSome = true))
    ∧ (∃ (k : Nat) (e : MergeEnt) (s : State), s.beam.merge = [e] ∧ beamPort (e.line * 64) = k)
    ∧ (∃ (k : Nat) (s : State), s.portServes k = true ∧ s.on (fBm_SCRUB_CTL_EN k) = true)
    ∧ (∃ (k l : Nat) (r : List Nat) (s : State), s.portServes k = true ∧ Tab.get [] s.beam.repair k = l :: r)
    ∧ (∃ (k : Nat) (s : State), k < 16 ∧ s.dark = false ∧ s.on (fBm_STAT_TRAINED k) = false ∧ s.on (fBm_STAT_FAILED k) = false)
    ∧ (∃ (k : Nat) (s : State), k < 16 ∧ s.on (fBm_STAT_TRAINED k) = true ∧ s.on (fBm_STAT_SELF_REF k) = false)
    ∧ (∃ (k : Nat) (s : State), s.awake = true ∧ k < 16 ∧ s.testing (8 + k) = false ∧ s.beam.resets.contains k = true)
    ∧ (∃ (k : Nat) (v : W32) (s : State), s.awake = true ∧ v.getLsbD 0 = true ∧ v.getLsbD 1 = false ∧ k < 16 ∧ s.testing (8 +
      k) = false ∧ s.beam.resets.contains k = false ∧ s.beam.merge = [] ∧ Tab.get [] s.beam.repair k = [])
    ∧ (∃ (k : Nat) (s : State), s.beam.resets.contains k = true ∧ s.pState < 2 ∧ s.testing (8 + k) = false)
    ∧ (∃ (k : Nat) (v : W32) (s : State), s.awake = true ∧ v.getLsbD 0 = false ∧ v.getLsbD 1 = true ∧ k < 16 ∧ s.testing (8 +
      k) = false)
    ∧ (∃ (k : Nat) (s : State), k < 16 ∧ s.refWanted < s.fld (fBm_STAT_REF_MULT k)) :=
  ⟨⟨(beamPort (16*64)), me, { gb with beam := { gb.beam with merge := [me] } }, by decide +kernel⟩,
   ⟨(beamPort (16*64)), ⟨16, 0, [(63, 1)]⟩, { gb with beam := { gb.beam with merge := [⟨16, 0, [(63, 1)]⟩] } }, by decide +kernel⟩,
   ⟨15, (w gb (fBm_SCRUB_CTL_EN 15) 1), by decide +kernel⟩,
   ⟨3, 17, [18], { gb with beam := { gb.beam with repair := [(3, [17, 18])] } }, by decide +kernel⟩,
   ⟨15, g, by decide +kernel⟩,
   ⟨15, gb.setReg ⟨.bm, 15, 0x100⟩ 0x80000005#32, by decide +kernel⟩,
   ⟨15, { (w gb (fBm_CTL_SRST 15) 1) with beam := { gb.beam with resets := [15] } }, by decide +kernel⟩,
   ⟨15, 1#32, gb, by decide +kernel⟩,
   ⟨15, { (w gb (fBm_CTL_SRST 15) 1) with beam := { gb.beam with resets := [15] } }, by decide +kernel⟩,
   ⟨15, 2#32, (gb.setReg (rBm_ECC_CNT0 15) 0xFFFF#32), by decide +kernel⟩,
   ⟨15, (w gb (fBm_STAT_REF_MULT 15) 2), by decide +kernel⟩⟩

end Sys2Proof.Tests.W3

namespace Sys2Proof.Tests.W4

def key1 : List Byte := pk 48 [(0, [4, 2]), (4, [239, 1, 2, 3]), (36, leBytes 2 5004)]
def fa : Format := { ess := 1, num := 0, den := 0, chans := 2, pkts := 1 }
def ib : List Byte := pk 128 [(0, [1, 1]), (4, leBytes 4 1000), (20, leBytes 4 2), (24, key1)]
def gl : State := gb.modBolt 5 fun b => { b with bound := true, bay := 0, ofs := 0, size := 448, slots := 50, ever := true, kind := 1 }
def ispA : Isp := { state := 1, owner := 0, bolt := 5, fmt := fa, merge := false, notices := 15, lossUs := 1000, win := 0, mapBits := 0, legs := [{ key := keyOf key1, up := true }], late := 3, lost := 4 }
def gi : State := (gl.setIsp 1023 ispA).modBolt 5 ({ · with writer := some (.isp 1023) })
def sl : Slot := { idx := 7, ts := 336, rtp := 336, at_ := 5 }
def gd : State := (gl.setGen 0 { d := some ⟨25, 1, 0, 0, 0⟩ })
def eb : List Byte := pk 128 [(0, [1, 1]), (9, [2]), (20, leBytes 4 2), (36, [4, 0, 64]), (40, [239, 1, 1, 1]), (56, [10, 1, 1, 1])]
def gle : State := upl (gd.modBolt 5 ({ · with newest := some 3, fmt := some fa })) 2
def ep1 : Esp := espOf 0 5 eb
def gE : State := gle.setEsp 3 ep1
def ess0 : Esp := { ep1 with fmt := { ess := 0, num := 25, den := 1, width := 16, height := 2 }, payload := 256, total := 10, out := [⟨.black, 5000000, 40000000 * 65536, 0, 0, 0, 0, 0⟩] }
def fr (n : Nat) : RxFrame := ⟨List.replicate 12 0 ++ [8, 9] ++ List.replicate n 1, true, 0, 0⟩
/-- lane n, its receiver locked and aligned -/
def upr (n : Nat) : State := w (w (w (upl g n) (fLn_RX_STAT_STATE n) rxLocked) (fLn_RX_STAT_LOCK n) 1) (fLn_FEC_STAT_ALIGN n) 1
def rl : List Byte := pk 40 [(0, [1]), (1, [1, 2])]

theorem witness_IngressPortsOpenAndClose :
    (∃ (h : Hdr) (port bolt : Nat) (b : List Byte) (s : State), s.takes (.ispOpen h port bolt (some b)) = true ∧ s.testing 36
      = false ∧ bolt < 2048 ∧ s.trained = true ∧ (s.bolt bolt).bound = true ∧ b.length = 128 ∧ firstFail (ispBlockChecks
      port bolt b s) = none)
    ∧ (∃ (h : Hdr) (port : Nat) (p : Isp) (s : State), s.takes (.ispClose h port) = true ∧ s.testing 36 = false ∧ s.isp port =
      some p ∧ p.state ≠ 0 ∧ p.closing = none ∧ p.gone = false ∧ p.owner = s.ownerOf h.qp)
    ∧ (∃ (h : Hdr) (port : Nat) (p : Isp) (s : State), s.isp port = some p ∧ p.closing = some h ∧ h.qp < 256 ∧ s.bme (s.ownerOf
      h.qp) = true ∧ (s.bolt p.bolt).writer = some (.isp port))
    ∧ (∃ (port leg : Nat) (p : Isp) (l : Leg) (s : State), s.isp port = some p ∧ p.state ≠ 0 ∧ p.legs[leg]? = some l ∧ l.up =
      true) :=
  ⟨⟨h0, 1023, 5, ib, tk (.ispOpen h0 1023 5 (some ib)) gl, by decide +kernel⟩,
   ⟨h0, 1023, ispA, tk (.ispClose h0 1023) gi, by decide +kernel⟩,
   ⟨h0, 1023, { ispA with state := 0, closing := some h0 }, (gi.setIsp 1023 { ispA with state := 0, closing := some h0 }), by decide +kernel⟩,
   ⟨1023, 0, ispA, { key := keyOf key1, up := true }, gi, by decide +kernel⟩⟩

theorem witness_ReceivedFramesAndSlots :
    (∃ (port idx : Nat) (p : Isp) (c : Slot) (s : State), s.isp port = some p ∧ Tab.find p.slots (idx % (s.bolt
      p.bolt).slots) = some c ∧ c.idx = idx ∧ (s.bolt p.bolt).slotAt idx % 64 = 0)
    ∧ (∃ (port n g : Nat) (p : Isp) (f : Feed) (x : FeedHeld) (s : State), s.isp port = some p ∧ p.feed = some f ∧ f.next =
      some n ∧ f.held = [x] ∧ 0 < g ∧ g ≤ p.fmt.spp ∧ x.ts = n + g ∧ s.fld (fSh_STAT_STATE f.sh) = 2 ∧ (Tab.get []
      (s.shut f.sh).fifos f.fifo).length + g * p.fmt.chans + x.words.length ≤ 1024)
    ∧ (∃ (port n g : Nat) (p : Isp) (f : Feed) (x : FeedHeld) (s : State), s.isp port = some p ∧ p.feed = some f ∧ f.next =
      some n ∧ f.held = [x] ∧ 0 < g ∧ g ≤ p.fmt.spp ∧ x.ts = n + g ∧ s.fld (fSh_STAT_STATE f.sh) = 2 ∧ (Tab.get []
      (s.shut f.sh).fifos f.fifo).length + g * p.fmt.chans + x.words.length ≤ 1024 ∧ g = 1)
    ∧ (∃ (ep : Nat) (f : RxFrame) (s : State), s.macPresent ep = true ∧ s.portUp ep = true ∧ s.received ep f = some (f, s) ∧
      f.stamp ≤ s.tb ∧ s.goodFrame ep f = true ∧ f.bytes.length + 4 < 64)
    ∧ (∃ (ep : Nat) (f : RxFrame) (s : State), s.macPresent ep = true ∧ s.portUp ep = true ∧ s.received ep f = some (f, s) ∧
      f.stamp ≤ s.tb ∧ s.pState < 2 ∧ s.goodFrame ep f = false ∧ s.ruleFor ep f.bytes = none)
    ∧ (∃ (ep : Nat) (f : RxFrame) (s : State), s.macPresent ep = true ∧ s.portUp ep = true ∧ s.received ep f = some (f, s) ∧
      f.stamp ≤ s.tb ∧ s.pState < 2 ∧ s.goodFrame ep f = false ∧ s.ruleFor ep f.bytes = none ∧ f.fcsOk = true)
    ∧ (∃ (ep : Nat) (f : RxFrame) (s : State), s.macPresent ep = true ∧ s.portUp ep = true ∧ s.received ep f = some (f, s) ∧
      f.stamp ≤ s.tb ∧ 2 ≤ s.pState ∧ 60 ≤ f.bytes.length ∧ beField f.bytes 12 2 ≠ 0x8808 ∧ s.on (fLn_MAC_CFG_PROMISC
      ep) = true)
    ∧ (∃ (ep : Nat) (f : RxFrame) (s : State), s.macPresent ep = true ∧ s.portUp ep = true ∧ s.received ep f = some (f, s) ∧
      f.stamp ≤ s.tb ∧ 2 ≤ s.pState ∧ 60 ≤ f.bytes.length ∧ beField f.bytes 12 2 ≠ 0x8808 ∧ s.on (fLn_MAC_CFG_PROMISC
      ep) = true ∧ s.goodFrame ep f = false)
    ∧ (∃ (ep : Nat) (f : RxFrame) (s : State), s.macPresent ep = true ∧ s.portUp ep = true ∧ s.received ep f = none)
    ∧ (∃ (ep : Nat) (b : List Byte) (ok : Bool) (rest : List (List Byte × Bool)) (s : State), s.macPresent ep = true ∧ s.portUp
      ep = true ∧ (∀ m ∈ s.portLanes ep, s.fld (fLn_PRBS_STAT_LOOP m) ≠ 1) ∧ s.fld (fLn_PRBS_STAT_LOOP ep) = 3 ∧ (s.lane
      ep).looped = (b, ok) :: rest)
    ∧ (∃ (ep i : Nat) (r : ExpRule) (f : RxFrame) (s : State), s.macPresent ep = true ∧ s.portUp ep = true ∧ s.received ep f =
      some (f, s) ∧ f.stamp ≤ s.tb ∧ 60 ≤ f.bytes.length ∧ s.goodFrame ep f = true ∧ beField f.bytes 12 2 ≠ 0x8808 ∧
      s.on (fLn_MAC_CFG_PROMISC ep) = true ∧ s.fld fPwr_STATE_STATE < 2 ∧ s.ruleFor ep f.bytes = some (i, r) ∧
      s.macSends r.outEp = true ∧ s.expUsed r.outEp + (retag r f.bytes).length + 4 ≤ 131072)
    ∧ (∃ (ep : Nat) (f : RxFrame) (x : Posted) (l : List Posted) (s : State), s.macPresent ep = true ∧ s.portUp ep = true ∧
      s.received ep f = some (f, s) ∧ f.stamp ≤ s.tb ∧ 60 ≤ f.bytes.length ∧ s.goodFrame ep f = true ∧ beField f.bytes
      12 2 ≠ 0x8808 ∧ s.on (fLn_MAC_CFG_PROMISC ep) = true ∧ s.fld fPwr_STATE_STATE < 2 ∧ s.ruleFor ep f.bytes = none ∧
      ipParse f.bytes = none ∧ s.on (fLoom_PUNT_CFG_EN (puntClass f.bytes)) = true ∧ s.fld (fLoom_PUNT_CFG_RATE
      (puntClass f.bytes)) = 0 ∧ s.recvQueue (s.fld (fLoom_PUNT_CFG_QP (puntClass f.bytes))) = true ∧ s.bme 0 = true ∧
      (s.qp (s.fld (fLoom_PUNT_CFG_QP (puntClass f.bytes)))).posted = x :: l ∧ x.hdr.qp = s.fld (fLoom_PUNT_CFG_QP
      (puntClass f.bytes)) ∧ s.ownerOf x.hdr.qp = 0 ∧ 16 + f.bytes.length ≤ x.len) :=
  ⟨⟨1023, 7, { ispA with slots := [(7, sl)] }, sl, (gi.setIsp 1023 { ispA with slots := [(7, sl)] }), by decide +kernel⟩,
   ⟨1023, 480, 48, { ispA with feed := some { sh := 5, fifo := 1, hold := 10, next := some 480, held := [⟨528, [1,2,3], 0⟩] } }, { sh := 5, fifo := 1, hold := 10, next := some 480, held := [⟨528, [1,2,3], 0⟩] }, ⟨528, [1,2,3], 0⟩, (w (gi.setIsp 1023 { ispA with feed := some { sh := 5, fifo := 1, hold := 10, next := some 480, held := [⟨528, [1,2,3], 0⟩] } }) (fSh_STAT_STATE 5) 2), by decide +kernel⟩,
   ⟨1023, 480, 1, { ispA with feed := some { sh := 5, fifo := 1, hold := 10, next := some 480, held := [⟨481, [1,2,3], 0⟩] } }, { sh := 5, fifo := 1, hold := 10, next := some 480, held := [⟨481, [1,2,3], 0⟩] }, ⟨481, [1,2,3], 0⟩, (w (gi.setIsp 1023 { ispA with feed := some { sh := 5, fifo := 1, hold := 10, next := some 480, held := [⟨481, [1,2,3], 0⟩] } }) (fSh_STAT_STATE 5) 2), by decide +kernel⟩,
   ⟨7, ⟨List.replicate 59 0, true, 0, 0⟩, (upr 7), by decide +kernel, by decide +kernel, rfl, by decide +kernel⟩,
   ⟨7, ⟨List.replicate 60 0, false, 0, 0⟩, (upr 7), by decide +kernel, by decide +kernel, rfl, by decide +kernel⟩,
   ⟨7, ⟨List.replicate 60 0, true, 2, 0⟩, (upr 7).modLane 7 ({ · with cwBad := [false, true] }), by decide +kernel, by decide +kernel, rfl, by decide +kernel⟩,
   ⟨7, ⟨List.replicate 60 0, true, 0, 0⟩, w (w (upr 7) (fLn_MAC_CFG_PROMISC 7) 1) fPwr_STATE_STATE 2, by decide +kernel, by
    decide +kernel, rfl, by decide +kernel⟩,
   ⟨7, ⟨List.replicate 60 0, false, 0, 0⟩, w (w (upr 7) (fLn_MAC_CFG_PROMISC 7) 1) fPwr_STATE_STATE 3, by decide +kernel,
    by decide +kernel, rfl, by decide +kernel⟩,
   ⟨7, ⟨List.replicate 60 0, true, 0, 0⟩, w (upr 7) (fLn_PRBS_STAT_LOOP 7) 3, by decide +kernel⟩,
   ⟨7, List.replicate 60 5, false, [([1], true)], w ((upr 7).modLane 7 ({ · with looped := [(List.replicate 60 5, false), ([1], true)] })) (fLn_PRBS_STAT_LOOP 7) 3, by decide +kernel⟩,
   ⟨7, 0, { ruleOf rl with inMask := 128 }, fr 46, { (w (upl (upr 7) 2) (fLn_MAC_CFG_PROMISC 7) 1) with loom := { g.loom with rules := [(0, { ruleOf rl with inMask := 128 })] } }, by decide +kernel, by decide +kernel, rfl, by decide +kernel⟩,
   ⟨7, fr 46, ⟨h0, 0x1000, 128⟩, [], ((w (w (w (w (w (upr 7) (fLn_MAC_CFG_PROMISC 7) 1) (fQp_CTL_EN 0) 1) (fQp_CTL_KIND 0) 2) (fLoom_PUNT_CFG_EN 5) 1) (fLoom_PUNT_CFG_RATE 5) 0).setQp 0 { posted := [⟨h0, 0x1000, 128⟩] }), by decide +kernel, by decide +kernel, rfl, by decide +kernel⟩⟩

theorem witness_EgressPortsOpenAndClose :
    (∃ (h : Hdr) (port bolt : Nat) (b : List Byte) (s : State), s.takes (.espOpen h port bolt (some b)) = true ∧ s.testing 36
      = false ∧ b.length = 128 ∧ firstFail (espBlockChecks port (espOf (s.ownerOf h.qp) bolt b) b s) = none)
    ∧ (∃ (h : Hdr) (port : Nat) (p : Esp) (s : State), s.takes (.espClose h port) = true ∧ s.testing 36 = false ∧ s.esp port =
      some p ∧ p.state ≠ 0 ∧ p.owner = s.ownerOf h.qp ∧ p.take = none ∧ p.rew = none)
    ∧ (∃ (h : Hdr) (port bolt c : Nat) (p : Esp) (s : State), s.takes (.espTake h port bolt c) = true ∧ s.testing 36 = false ∧
      s.esp port = some p ∧ p.state ≠ 0 ∧ p.owner = s.ownerOf h.qp ∧ bolt < 2048 ∧ sourceBad p (s.bolt bolt) = false ∧
      windowOk p (s.bolt bolt) 0 = true ∧ windowOk p (s.bolt bolt) p.rewind = true ∧ foreignBay p.owner (s.bolt bolt) s
      = false ∧ s.admits port p = true ∧ firstFail (cmdTiming h p c p.take s) = none)
    ∧ (∃ (h : Hdr) (port rew c : Nat) (p : Esp) (s : State), s.takes (.espRewind h port rew c) = true ∧ s.testing 36 = false ∧
      s.esp port = some p ∧ p.state ≠ 0 ∧ p.owner = s.ownerOf h.qp ∧ rew ≤ 4000000 ∧ windowOk p (s.bolt p.bolt) rew =
      true ∧ firstFail (cmdTiming h p c p.rew s) = none)
    ∧ (∃ (h : Hdr) (port rew c : Nat) (p : Esp) (s : State), s.takes (.espRewind h port rew c) = true ∧ s.testing 36 = false ∧
      s.esp port = some p ∧ p.state ≠ 0 ∧ p.owner = s.ownerOf h.qp ∧ rew ≤ 4000000 ∧ windowOk p (s.bolt p.bolt) rew =
      true ∧ firstFail (cmdTiming h p c p.rew s) = none ∧ rew = 4000000) :=
  ⟨⟨h0, 3, 5, eb, tk (.espOpen h0 3 5 (some eb)) gle, by decide +kernel⟩,
   ⟨h0, 3, ep1, tk (.espClose h0 3) gE, by decide +kernel⟩,
   ⟨h0, 3, 5, 0, ep1, tk (.espTake h0 3 5 0) gE, by decide +kernel⟩,
   ⟨h0, 3, 1000, 0, ep1, tk (.espRewind h0 3 1000 0) gE, by decide +kernel⟩,
   ⟨h0, 3, 4000000, 0, { ep1 with bolt := 6 }, tk (.espRewind h0 3 4000000 0) ((gE.setEsp 3 { ep1 with bolt := 6 }).modBolt 6 fun _ => { bound := true, bay := 0, ofs := 0, size := 448, slots := 65535, ever := true, kind := 1, newest := some 3, fmt := some fa }), by decide +kernel⟩⟩

theorem witness_ExpressRulesAndLoomSnapshots :
    (∃ (h : Hdr) (rule : Nat) (r : List Byte) (s : State), s.takesPf (.expRule h rule (some r)) = true ∧ s.testing 36 = false
      ∧ r.length = 40 ∧ ruleReserved r = false ∧ (((field r 0 1).testBit 0 = true → ruleBad r = false ∧ field r 2 1 < 8
      ∧ s.mode (field r 2 1) ≠ 0 ∧ s.fld (fLn_MODE_STAT_PORT_BASE (field r 2 1)) = field r 2 1)))
    ∧ (∃ (h : Hdr) (rule : Nat) (r : List Byte) (s : State), s.takesPf (.expRule h rule (some r)) = true ∧ s.testing 36 = false
      ∧ r.length = 40 ∧ ruleReserved r = false ∧ (((field r 0 1).testBit 0 = true → ruleBad r = false ∧ field r 2 1 < 8
      ∧ s.mode (field r 2 1) ≠ 0 ∧ s.fld (fLn_MODE_STAT_PORT_BASE (field r 2 1)) = field r 2 1)) ∧ field r 0 1 = 0)
    ∧ (∃ (s : State), s.awake = true ∧ s.testing 36 = false)
    ∧ (∃ (port : Nat) (p : Isp) (s : State), s.dark = false ∧ s.loom.ispReq = some port ∧ s.isp port = some p ∧ p.late < 65536)
    ∧ (∃ (port : Nat) (p : Esp) (s : State), s.dark = false ∧ s.loom.espReq = some port ∧ s.esp port = some p ∧ p.drop < 65536
      ∧ p.rept < 65536 ∧ p.lost < 65536)
    ∧ (∃ (rule : Nat) (s : State), s.dark = false ∧ s.loom.expReq = some rule ∧ (Tab.get (0, 0) s.loom.expCnt rule).1 < 65536)
    ∧ (∃ (v : W32) (s : State), s.awake = true ∧ s.testing 36 = false ∧ v.getLsbD 0 = false)
    ∧ (∃ (v : W32) (s : State), s.awake = true ∧ s.testing 36 = false ∧ v.getLsbD 0 = true) :=
  ⟨⟨h0, 63, rl, tk (.expRule h0 63 (some rl)) (upl g 2), by decide +kernel⟩,
   ⟨h0, 0, List.replicate 40 0, tk (.expRule h0 0 (some (List.replicate 40 0))) g, by decide +kernel⟩,
   ⟨ (g.setReg rLoom_ISP_STAT 0xC0000000#32), by decide +kernel⟩,
   ⟨1023, ispA, { gi with loom := { gi.loom with ispReq := some 1023 } }, by decide +kernel⟩,
   ⟨1023, { ep1 with drop := 65535, rept := 2 }, { (gE.setEsp 1023 { ep1 with drop := 65535, rept := 2 }) with loom := { (gE.setEsp 1023 { ep1 with drop := 65535, rept := 2 }).loom with espReq := some 1023 } }, by decide +kernel⟩,
   ⟨63, { g with loom := { g.loom with expReq := some 63, expCnt := [(63, (65535, 2))] } }, by decide +kernel⟩,
   ⟨0#32, (g.setReg (rLoom_PUNT_DROP 5) 7#32), by decide +kernel⟩,
   ⟨1#32, (g.setReg (rLoom_PUNT_DROP 5) 7#32), by decide +kernel⟩⟩

theorem witness_FramesAndPacketsLeave :
    (∃ (ep : Nat) (f : TxFrame) (l : Lane) (s : State), s.macSends ep = true ∧ (s.tx ep = txRampUp ∨ s.tx ep = txActive) ∧
      s.txHeld ep = false ∧ nextTx (s.lane ep) = some (f, l) ∧ (∀ h, f.src ≠ .host h))
    ∧ (∃ (ep : Nat) (h : Hdr) (data : List Byte) (r : List TxFrame) (s : State), s.macSends ep = true ∧ (s.tx ep = txRampUp ∨
      s.tx ep = txActive) ∧ s.txHeld ep = false ∧ (s.lane ep).express = [] ∧ (s.lane ep).media = [] ∧ (s.lane ep).host =
      ⟨.host h, data, false⟩ :: r ∧ h.qp < 256 ∧ s.bme (s.ownerOf h.qp) = true)
    ∧ (∃ (h : Hdr) (ep len : Nat) (d : List Byte) (s : State), s.begins (.frameSend h ep len (some d)) = true ∧ s.dark = false
      ∧ ep < 8 ∧ 14 ≤ len ∧ len ≤ s.fld (fLn_MAC_CFG_MAX_FRAME ep) - 4 ∧ s.macSends ep = true)
    ∧ (∃ (h : Hdr) (ep len : Nat) (d : List Byte) (s : State), s.begins (.frameSend h ep len (some d)) = true ∧ s.dark = false
      ∧ ep < 8 ∧ 14 ≤ len ∧ len ≤ s.fld (fLn_MAC_CFG_MAX_FRAME ep) - 4 ∧ s.macSends ep = true)
    ∧ (∃ (h : Hdr) (addr len : Nat) (s : State), s.begins (.post h addr len) = true ∧ s.dark = false ∧ addr % 64 = 0 ∧ len % 64
      = 0 ∧ 64 ≤ len ∧ len ≤ 16384)
    ∧ (∃ (h : Hdr) (addr len : Nat) (s : State), s.begins (.post h addr len) = true ∧ s.dark = false ∧ addr % 64 = 0 ∧ len % 64
      = 0 ∧ 64 ≤ len ∧ len ≤ 16384)
    ∧ (∃ (port : Nat) (p : Esp) (fr : EspFrame) (l : List EspFrame) (s : State), s.esp port = some p ∧ p.out = fr :: l ∧
      p.fmt.ess = 0 ∧ p.pacing ≠ 2 ∧ s.macSends p.ep = true)
    ∧ (∃ (port : Nat) (p : Esp) (s : State), s.esp port = some p ∧ p.state ≠ 0 ∧ p.fmt.ess = 1 ∧ p.fmt.pkts = 1 ∧ p.loss ≠ 2 ∧
      s.macSends p.ep = true ∧ p.k = some (s.tb / (1000000 * nsU))) :=
  ⟨⟨2, ⟨.media 3 0 0 none, [1,2,3], false⟩, (gE.lane 2), (gE.modLane 2 ({ · with media := [⟨.media 3 0 0 none, [1,2,3], false⟩] })), by decide +kernel, by decide +kernel, by decide +kernel, rfl, nofun⟩,
   ⟨2, h0, [1,2,3], [], (gE.modLane 2 ({ · with host := [⟨.host h0, [1,2,3], false⟩] })), by decide +kernel⟩,
   ⟨h0, 2, 14, List.replicate 14 7, tk (.frameSend h0 2 14 (some (List.replicate 14 7))) (upl g 2), by decide +kernel⟩,
   ⟨h0, 2, 9596, [], tk (.frameSend h0 2 9596 (some [])) (w (upl g 2) (fLn_MAC_CFG_MAX_FRAME 2) 9600), by decide +kernel⟩,
   ⟨h0, 0, 16384, tk (.post h0 0 16384) g, by decide +kernel⟩,
   ⟨h0, 64, 64, tk (.post h0 64 64) g, by decide +kernel⟩,
   ⟨3, ess0, ⟨.black, 5000000, 40000000 * 65536, 0, 0, 0, 0, 0⟩, [], gE.setEsp 3 ess0, rfl, rfl, by decide, by decide, by
    decide +kernel⟩,
   ⟨3, { ep1 with k := some 0 }, gE.setEsp 3 { ep1 with k := some 0 }, by decide +kernel⟩⟩

end Sys2Proof.Tests.W4

namespace Sys2Proof.Tests.W5

def d1 : GenDef := ⟨50, 1, 1000, 0, 0⟩
def gn : Gen := { d := some d1, j := 5, at_ := 7000000000, last := some (4, 6000000000) }
def d3 : GenDef := { d1 with src := 1 }
def gg : State := { (g.setGen 3 gn) with tb := 6500000000 }
/-- The host has enabled PTM. -/
def pt : State := { g with host := { g.host with cfg := { g.host.cfg with ptm := true } } }
def hk (s : State) : State := (List.range 4).foldl (fun s n => w s (fSh_STAT_STATE n) 2) s
def sv (n : Nat) : State := hk (w (w { g with tb := 10^16 } fCox_TB_CTL_SERVO 1) fCox_TB_STAT_SERVO_STATE n)

theorem witness_StrokesAndTimebaseAreSet :
    (∃ (h : Hdr) (k num den src mode : Nat) (phase : Int) (d : GenDef) (j : Int) (s : State), s.takesPf (.strokeDef h k num
      den src mode phase) = true ∧ den ≠ 0 ∧ den ≤ num ∧ num ≤ 1000 * den ∧ num ≤ 16777215 ∧ 2 * phase.natAbs * num <
      den * 1000000000 ∧ s.follows k = false ∧ (s.gen k).busy = false ∧ (src = 1 → ∀ i, i < 4 → i ≠ k → ((s.gen i).d.map
      (·.src)) ≠ some 1 ∧ ((s.gen i).new.map (·.d.src)) ≠ some 1) ∧ d = ⟨num, den, phase, src, mode⟩ ∧ j = d.firstAt
      (newBound k s ((s.tb + 1000000 * nsU : Nat) : Int)))
    ∧ (∃ (h : Hdr) (k num den src mode : Nat) (phase : Int) (d : GenDef) (j : Int) (s : State), s.takesPf (.strokeDef h k num
      den src mode phase) = true ∧ den ≠ 0 ∧ den ≤ num ∧ num ≤ 1000 * den ∧ num ≤ 16777215 ∧ 2 * phase.natAbs * num <
      den * 1000000000 ∧ s.follows k = false ∧ (s.gen k).busy = false ∧ (src = 1 → ∀ i, i < 4 → i ≠ k → ((s.gen i).d.map
      (·.src)) ≠ some 1 ∧ ((s.gen i).new.map (·.d.src)) ≠ some 1) ∧ d = ⟨num, den, phase, src, mode⟩ ∧ j = d.firstAt
      (newBound k s ((s.tb + 1000000 * nsU : Nat) : Int)))
    ∧ (∃ (h : Hdr) (k src mode : Nat) (phase : Int) (s : State), s.takesPf (.strokeDef h k 0 0 src mode phase) = true ∧
      s.follows k = false ∧ (s.gen k).busy = false ∧ (s.gen k).running = true)
    ∧ (∃ (h : Hdr) (k src mode : Nat) (phase : Int) (s : State), s.takesPf (.strokeDef h k 0 0 src mode phase) = true ∧
      s.follows k = false ∧ (s.gen k).busy = false ∧ (s.gen k).running = false)
    ∧ (∃ (h : Hdr) (k : Nat) (delta : Int) (s : State), s.takesPf (.strokeJump h k false delta) = true ∧ delta ≠ -2147483648 ∧
      (s.gen k).defined = true ∧ s.follows k = false ∧ (s.gen k).busy = false)
    ∧ (∃ (h : Hdr) (k : Nat) (delta : Int) (s : State), s.takesPf (.strokeJump h k false delta) = true ∧ delta ≠ -2147483648 ∧
      (s.gen k).defined = true ∧ s.follows k = false ∧ (s.gen k).busy = false)
    ∧ (∃ (h : Hdr) (k : Nat) (s : State), s.takesPf (.strokeJump h k true 0) = true ∧ (s.gen k).ins ≠ [] ∧ (s.gen k).defined =
      true ∧ s.follows k = false ∧ (s.gen k).busy = false)
    ∧ (∃ (h : Hdr) (relative : Bool) (sec ns frac : Nat) (ofs after : Int) (s : State), s.takesPf (.timeSet h relative sec ns
      frac ofs) = true ∧ s.role ≠ roleMember ∧ after = (if relative then (s.tb : Int) + ofs else ((sec * secU + ns * nsU
      + frac : Nat) : Int)) ∧ (relative = false → ns < 1000000000) ∧ 0 ≤ after ∧ after < ((2 ^ 48 * secU : Nat) : Int))
    ∧ (∃ (h : Hdr) (relative : Bool) (sec ns frac : Nat) (ofs after : Int) (s : State), s.takesPf (.timeSet h relative sec ns
      frac ofs) = true ∧ s.role ≠ roleMember ∧ after = (if relative then (s.tb : Int) + ofs else ((sec * secU + ns * nsU
      + frac : Nat) : Int)) ∧ (relative = false → ns < 1000000000) ∧ 0 ≤ after ∧ after < ((2 ^ 48 * secU : Nat) : Int))
    ∧ (∃ (s : State), s.on fCox_TB_STAT_TBCLK_LOST = false)
    ∧ (∃ (s : State), s.on fCox_TB_STAT_TBCLK_LOST = true)
    ∧ (∃ (s : State), s.tbRuns = true ∧ s.time.ppsAt ≠ some s.tb)
    ∧ (∃ (s : State), s.tbRuns = true ∧ s.time.ppsAt = some s.tb) :=
  ⟨⟨h0, 3, 50, 1, 0, 0, 1000, d1, (d1.firstAt (newBound 3 g ((g.tb + 1000000 * nsU : Nat) : Int))), tk (.strokeDef h0 3 50
    1 0 0 1000) g, by decide +kernel⟩,
   ⟨h0, 0, 16777215, 16778, 1, 1, (-29802), ⟨16777215, 16778, -29802, 1, 1⟩, ((⟨16777215, 16778, -29802, 1, 1⟩ :
    GenDef).firstAt (newBound 0 g ((g.tb + 1000000 * nsU : Nat) : Int))), tk (.strokeDef h0 0 16777215 16778 1 1
    (-29802)) g, by decide +kernel⟩,
   ⟨h0, 3, 1, 1, (-5), tk (.strokeDef h0 3 0 0 1 1 (-5)) gg, by decide +kernel⟩,
   ⟨h0, 3, 0, 0, 0, tk (.strokeDef h0 3 0 0 0 0 0) g, by decide +kernel⟩,
   ⟨h0, 3, (-2147483647), tk (.strokeJump h0 3 false (-2147483647)) gg, by decide +kernel⟩,
   ⟨h0, 3, 2147483647, tk (.strokeJump h0 3 false 2147483647) gg, by decide +kernel⟩,
   ⟨h0, 3, tk (.strokeJump h0 3 true 0) (g.setGen 3 { gn with ins := [⟨5, 5, false⟩] }), by decide +kernel⟩,
   ⟨h0, true, 0, 0, 0, (-6500000000), 0, tk (.timeSet h0 true 0 0 0 (-6500000000)) gg, by decide +kernel⟩,
   ⟨h0, false, 281474976710655, 999999999, 65535, 0, 18446744073709551615999999999, tk (.timeSet h0 false 281474976710655
    999999999 65535 0) gg, by decide +kernel⟩,
   ⟨g, by decide +kernel⟩,
   ⟨(w g fCox_TB_STAT_TBCLK_LOST 1), by decide +kernel⟩,
   ⟨(w gg fCox_OUT_CTL_PPS_EN 1), by decide +kernel⟩,
   ⟨{ (w gg fCox_OUT_CTL_PPS_EN 1) with time := { gg.time with ppsAt := some gg.tb } }, by decide +kernel⟩⟩

theorem witness_StrokesFire :
    ∃ (k : Nat) (d : GenDef) (s : State), k < 4 ∧ s.tbRuns = true ∧ (s.gen k).d = some d ∧ (s.gen k).new = none ∧ (s.gen k).stop = false ∧
      (s.gen k).jump = none ∧ (s.gen k).follow = [] :=
  ⟨3, d1, gg, by decide +kernel⟩

theorem witness_TimeIsFollowed :
    (∃ (v : W32) (s : State), s.awake = true ∧ (v.getLsbD 31 = true → s.host.cfg.ptm = true) ∧ bits v 15 0 ≠ 0)
    ∧ (∃ (v : W32) (s : State), s.awake = true ∧ (v.getLsbD 31 = true → s.host.cfg.ptm = true) ∧ bits v 15 0 ≠ 0 ∧ v.getLsbD 31
      = false)
    ∧ (∃ (s : State), s.on fCox_PTM_CTL_EN = true ∧ s.host.cfg.ptm = true)
    ∧ (∃ (s : State), (s.on fCox_PTM_CTL_EN = false ∨ s.host.cfg.ptm = false))
    ∧ (∃ (dev host at_ asked : Nat) (rest : List Nat) (s : State), s.time.ptm = asked :: rest ∧ host < 2 ^ 64 ∧ at_ = max
      (asked - 8 * nsU) (min (asked + 8 * nsU) dev))
    ∧ (∃ (dev host at_ asked : Nat) (rest : List Nat) (s : State), s.time.ptm = asked :: rest ∧ host < 2 ^ 64 ∧ at_ = max
      (asked - 8 * nsU) (min (asked + 8 * nsU) dev))
    ∧ (∃ (asked : Nat) (rest : List Nat) (s : State), s.time.ptm = asked :: rest)
    ∧ (∃ (s : State), s.awake = true ∧ s.fld fCox_TB_CTL_SERVO = 1 ∧ s.houseRuns = true ∧ (s.servo = svFreerun ∨ s.servo =
      svHoldover))
    ∧ (∃ (s : State), s.awake = true ∧ s.fld fCox_TB_CTL_SERVO = 1 ∧ s.houseRuns = true ∧ (s.servo = svFreerun ∨ s.servo =
      svHoldover) ∧ s.servo = svHoldover)
    ∧ (∃ (fn : Nat) (v : W32) (x : Int) (s : State), s.awake = true ∧ s.fld fCox_TB_CTL_SERVO = 1 ∧ s.houseRuns = true ∧
      s.servo = svAcquire ∧ x = signed 64 (s.heldLo fn rCox_SERVO_IN_LO s.time.servoLo + 2 ^ 32 * v.toNat) ∧ s.fld
      fCox_SERVO_CFG_STEP_THR * nsU < x.natAbs ∧ x ≤ s.tb)
    ∧ (∃ (fn : Nat) (v : W32) (x lim : Int) (s : State), s.awake = true ∧ s.fld fCox_TB_CTL_SERVO = 1 ∧ s.houseRuns = true ∧
      (s.servo = svAcquire ∨ s.servo = svLocked) ∧ x = signed 64 (s.heldLo fn rCox_SERVO_IN_LO s.time.servoLo + 2 ^ 32 *
      v.toNat) ∧ x.natAbs ≤ s.fld fCox_SERVO_CFG_STEP_THR * nsU ∧ lim = (((if s.servo = svLocked then 1 else 20) * 65536
      * (s.up - s.time.lastAt) / secU : Nat) : Int) ∧ -2147483648 ≤ s.sfld fCox_TB_FREQ_FREQ - lim ∧ s.sfld
      fCox_TB_FREQ_FREQ + lim < 2147483648)
    ∧ (∃ (fn : Nat) (v : W32) (x lim : Int) (s : State), s.awake = true ∧ s.fld fCox_TB_CTL_SERVO = 1 ∧ s.houseRuns = true ∧
      (s.servo = svAcquire ∨ s.servo = svLocked) ∧ x = signed 64 (s.heldLo fn rCox_SERVO_IN_LO s.time.servoLo + 2 ^ 32 *
      v.toNat) ∧ x.natAbs ≤ s.fld fCox_SERVO_CFG_STEP_THR * nsU ∧ lim = (((if s.servo = svLocked then 1 else 20) * 65536
      * (s.up - s.time.lastAt) / secU : Nat) : Int) ∧ -2147483648 ≤ s.sfld fCox_TB_FREQ_FREQ - lim ∧ s.sfld
      fCox_TB_FREQ_FREQ + lim < 2147483648)
    ∧ (∃ (fn : Nat) (v : W32) (x : Int) (s : State), s.awake = true ∧ s.fld fCox_TB_CTL_SERVO = 1 ∧ s.houseRuns = true ∧
      s.servo = svLocked ∧ x = signed 64 (s.heldLo fn rCox_SERVO_IN_LO s.time.servoLo + 2 ^ 32 * v.toNat) ∧ s.fld
      fCox_SERVO_CFG_STEP_THR * nsU < x.natAbs)
    ∧ (∃ (fn : Nat) (v : W32) (x : Int) (s : State), s.awake = true ∧ s.fld fCox_TB_CTL_SERVO = 1 ∧ s.houseRuns = true ∧
      s.servo = svLocked ∧ x = signed 64 (s.heldLo fn rCox_SERVO_IN_LO s.time.servoLo + 2 ^ 32 * v.toNat) ∧ s.fld
      fCox_SERVO_CFG_STEP_THR * nsU < x.natAbs)
    ∧ (∃ (s : State), s.awake = true ∧ s.fld fCox_TB_CTL_SERVO = 1 ∧ (s.servo = svCrew ∨ s.houseRuns = false))
    ∧ (∃ (s : State), s.awake = true ∧ s.fld fCox_TB_CTL_SERVO = 1 ∧ (s.servo = svCrew ∨ s.houseRuns = false) ∧ s.houseRuns =
      false)
    ∧ (∃ (s : State), (s.servo = svAcquire ∨ s.servo = svLocked))
    ∧ (∃ (s : State), (s.servo = svAcquire ∨ s.servo = svLocked))
    ∧ (∃ (s : State), s.servo ≠ svAcquire ∧ s.servo ≠ svLocked)
    ∧ (∃ (s : State), s.inGen = none)
    ∧ (∃ (k at_ : Nat) (d : GenDef) (o : Int) (s : State), s.inGen = some k ∧ (s.gen k).d = some d ∧ o = (s.gen k).edgeOfs d
      (interp at_ s) ∧ -536870912 ≤ (2 * o + 65536) / 131072 ∧ (2 * o + 65536) / 131072 < 536870912)
    ∧ (∃ (k : Nat) (s : State), s.inGen = some k ∧ 4 ≤ (s.gen k).noEdge ∧ (s.gen k).inLost = false) :=
  ⟨⟨0xC0000001#32, pt, by decide +kernel⟩,
   ⟨0x0000FFFF#32, g, by decide +kernel⟩,
   ⟨w pt fCox_PTM_CTL_EN 1, by decide +kernel⟩,
   ⟨pt, by decide +kernel⟩,
   ⟨0, 2 ^ 64 - 1, 0, 5, [7], { g with time := { g.time with ptm := [5, 7] } }, by decide +kernel⟩,
   ⟨10 ^ 12, 0, 10 ^ 10 + 8 * 65536, 10 ^ 10, [], { g with time := { g.time with ptm := [10 ^ 10] } }, by decide +kernel⟩,
   ⟨5, [7], { g with time := { g.time with ptm := [5, 7] } }, by decide +kernel⟩,
   ⟨ sv 0, by decide +kernel⟩,
   ⟨ sv svHoldover, by decide +kernel⟩,
   ⟨0, 5#32, (signed 64 ((sv 1).heldLo 0 rCox_SERVO_IN_LO (sv 1).time.servoLo + 2 ^ 32 * 5)), sv 1, by decide +kernel⟩,
   ⟨0, 0#32, 6000000, 20 * 65536 * 5, { (sv svAcquire) with up := 10 * secU, time := { (sv svAcquire).time with servoLo := 6000000, lastAt := 5 * secU, runIn := 15 } }, by decide +kernel⟩,
   ⟨0, 0#32, 6000000, 65536 * 5, { (sv svLocked) with up := 10 * secU, time := { (sv svLocked).time with servoLo := 6000000, lastAt := 5 * secU, runOut := 3 } }, by decide +kernel⟩,
   ⟨0, 5#32, 2 ^ 32 * 5, { (sv svLocked) with time := { (sv svLocked).time with runOut := 2 } }, by decide +kernel⟩,
   ⟨0, 5#32, 2 ^ 32 * 5, { (sv svLocked) with time := { (sv svLocked).time with runOut := 3 } }, by decide +kernel⟩,
   ⟨ sv svCrew, by decide +kernel⟩,
   ⟨ w g fCox_TB_CTL_SERVO 1, by decide +kernel⟩,
   ⟨sv svLocked, by decide +kernel⟩,
   ⟨sv svAcquire, by decide +kernel⟩,
   ⟨sv svHoldover, by decide +kernel⟩,
   ⟨ g, by decide +kernel⟩,
   ⟨3, 6000099328, d3, ((gg.setGen 3 { gn with d := some d3 }).gen 3).edgeOfs d3 (interp 6000099328 (gg.setGen 3 { gn with d := some d3 })), (gg.setGen 3 { gn with d := some d3 }), by decide +kernel⟩,
   ⟨3, (gg.setGen 3 { gn with noEdge := 4, d := some { d1 with src := 1 } }), by decide +kernel⟩⟩

theorem witness_CountersAndSplits :
    (∃ (addr : Nat) (c : RegId) (v : W32) (s : State), s.awake = true ∧ decodeBar0 addr = some c ∧ cntOf c = some (c, false) ∧
      s.unavailable c = none ∧ ¬ (c.blk = .sh ∧ c.inst < 4) ∧ cntSrcOk c.blk (bits v 7 0) = true ∧ v.getLsbD 31 = true ∧ (s.reg c).getLsbD 31 = false)
    ∧ (∃ (addr : Nat) (c : RegId) (v : W32) (s : State), s.awake = true ∧ decodeBar0 addr = some { c with off := c.off + 4 } ∧
      cntOf { c with off := c.off + 4 } = some (c, true) ∧ s.unavailable { c with off := c.off + 4 } = none ∧ ¬ (c.blk = .sh ∧
      c.inst < 4) ∧ v &&& cntFiltMask c.blk = v ∧ s.reg { c with off := c.off + 4 } ≠ v)
    ∧ (∃ (v : W32) (s : State), s.awake = true ∧ v.getLsbD 31 = true ∧ s.on fSplit_CTL_EN = false ∧ s.bme 0 = true ∧
      splitSlot s.splitCounters.length ≤ 2000 * s.fld fSplit_WINDOW_US ∧ 4 ≤ s.fld fSplit_RING_LOG2 ∧ s.fld fSplit_RING_LOG2 ≤ 16 ∧
      s.pair rSplit_RING_BASE_LO rSplit_RING_BASE_HI % 64 = 0)
    ∧ (∃ (s : State), s.on fSplit_CTL_EN = true ∧ s.pState < 2 ∧ s.dark = false ∧ s.bme 0 = true ∧
      (s.fld fSplit_RING_TAIL_TAIL + 1) % 2 ^ s.fld fSplit_RING_LOG2 ≠ s.fld fSplit_RING_CI_CI) :=
  ⟨⟨(addrOf ⟨.bm, 15, 0x100⟩), ⟨.bm, 15, 0x100⟩, 0x80000005#32, g, by decide +kernel⟩,
   ⟨(addrOf ⟨.bm, 15, 0x104⟩), ⟨.bm, 15, 0x100⟩, (0 : W32), (g.setReg ⟨.bm, 15, 0x104⟩ 3#32).setReg ⟨.bm, 15, 0x100⟩ 0x80000005#32,
     by decide +kernel⟩,
   ⟨0x80000000#32, (w (w g fSplit_RING_LOG2 4) fSplit_WINDOW_US 1000), by decide +kernel⟩,
   ⟨(w (w (w g fSplit_RING_LOG2 4) fSplit_WINDOW_US 1000) fSplit_CTL_EN 1), by decide +kernel⟩⟩

end Sys2Proof.Tests.W5

namespace Sys2Proof.Tests.W6

def cr (n st : Nat) : State := (w g (fCx_STAT_RX_STATE n) st)
def lk (s : State) (n : Nat) (l : CoxLink) : State := { s with links := Tab.set s.links n l }
def onx (s : State) (n : Nat) : State := w (w (w s (fCx_CTL_EN n) 1) (fCx_STAT_TX_STATE n) cxTxActive) (fCx_STAT_RX_STATE n) cxRxUp
def cf : CrewFrame := { typ := tRelay, flags := 0, src := 0, dst := 1, seq := 0, payload := [1,2], tag := .relay h0 }
def ld : State := w (onx (onx g 1) 0) fCox_CREW_STAT_ROLE roleLead
def mb : State := w (onx (onx g 1) 0) fCox_CREW_STAT_ROLE roleMember
def gnx : Gen := { d := some ⟨50, 1, 1000, 0, 0⟩, j := 5, at_ := 7000000000, last := some (4, 6000000000) }
def mk (l : List Byte) : List Byte := l ++ [BitVec.ofNat 8 (crc8 l)]
def mkb : List Byte := mk ([3] ++ [0,0] ++ leBytes 4 9 ++ leBytes 2 0 ++ leBytes 4 1000000 ++ leBytes 6 0)
def bcn : List Byte := mk ([0, 5] ++ tbBytes 1000000 ++ [9] ++ tbBytes 900000)
/-- A crew frame of a type from member 0 to member 1. -/
def cfb (typ : Nat) (p : List Byte) : List Byte := frameBytes { typ := typ, flags := 0, src := 0, dst := 1, seq := 0, payload := p }
def sl : List Byte := let b := [0x08, 0, 0, 0, 0, 0, 0, 0, 0, 0] ; b ++ (leBytes 2 (crc16 b)).reverse

theorem witness_CoxReceiversAndTransmittersMove :
    (∃ (n : Nat) (s : State), n < 2 ∧ s.cxRx n = cxRxSearch)
    ∧ (∃ (n : Nat) (s : State), n < 2 ∧ s.cxRx n = cxRxAlign ∧ s.on (fCx_PRBS_STAT_CHK n) = false ∧ 2 ≤ (s.link n).upRun)
    ∧ (∃ (n cause : Nat) (s : State), n < 2 ∧ s.cxRx n = cxRxUp ∧ s.on (fCx_PRBS_STAT_CHK n) = false ∧ (cause = 2 → 4 ≤ (s.link
      n).downRun) ∧ s.inCrew = false)
    ∧ (∃ (n cause : Nat) (s : State), n < 2 ∧ s.cxRx n = cxRxUp ∧ s.on (fCx_PRBS_STAT_CHK n) = false ∧ (cause = 2 → 4 ≤ (s.link
      n).downRun) ∧ s.inCrew = false ∧ cause = 2)
    ∧ (∃ (n cause : Nat) (s : State), n < 2 ∧ s.cxRx n = cxRxUp ∧ s.on (fCx_PRBS_STAT_CHK n) = false ∧ (cause = 2 → 4 ≤ (s.link
      n).downRun) ∧ s.inCrew = true)
    ∧ (∃ (n : Nat) (s : State), n < 2 ∧ s.cxRx n = cxRxDown)
    ∧ (∃ (n : Nat) (s : State), n < 2 ∧ (s.cxRx n = cxRxAlign ∨ s.cxRx n = cxRxUp))
    ∧ (∃ (n : Nat) (s : State), n < 2 ∧ (s.cxRx n = cxRxAlign ∨ s.cxRx n = cxRxUp))
    ∧ (∃ (n : Nat) (s : State), n < 2 ∧ s.cxRx n = cxRxAlign)
    ∧ (∃ (n : Nat) (s : State), n < 2 ∧ s.on (fCx_SLEEP_SLEEP_EN n) = true ∧ s.cxTx n = cxTxActive ∧ (s.link n).items = [] ∧
      (s.link n).frames = [] ∧ s.cxMuted n = false)
    ∧ (∃ (n : Nat) (s : State), n < 2 ∧ s.cxTx n = cxTxSleep ∧ ((s.link n).items ≠ [] ∨ (s.link n).frames ≠ []))
    ∧ (∃ (n : Nat) (b : List Byte) (s : State), n < 2 ∧ s.cxTx n = cxTxWake ∧ (s.link n).items = [.marker b])
    ∧ (∃ (n : Nat) (s : State), n < 2 ∧ s.cxTx n = cxTxWake)
    ∧ (∃ (n : Nat) (h : Hdr) (f : CrewFrame) (l : List CrewFrame) (s : State), n < 2 ∧ s.cxTx n = cxTxActive ∧ s.cxMuted n =
      false ∧ (s.link n).frames = f :: l ∧ f.tag = .relay h ∧ h.qp < 256 ∧ s.bme (s.ownerOf h.qp) = true) :=
  ⟨⟨1, cr 1 cxRxSearch, by decide +kernel⟩,
   ⟨1, lk (cr 1 cxRxAlign) 1 { upRun := 2 }, by decide +kernel⟩,
   ⟨1, 0, (cr 1 cxRxUp), by decide +kernel⟩,
   ⟨1, 2, lk (cr 1 cxRxUp) 1 { downRun := 4 }, by decide +kernel⟩,
   ⟨1, 0, w (cr 1 cxRxUp) fCox_CREW_STAT_ROLE roleMember, by decide +kernel⟩,
   ⟨1, (cr 1 cxRxDown), by decide +kernel⟩,
   ⟨1, cr 1 cxRxUp, by decide +kernel⟩,
   ⟨0, cr 0 cxRxAlign, by decide +kernel⟩,
   ⟨1, cr 1 cxRxAlign, by decide +kernel⟩,
   ⟨1, w (onx g 1) (fCx_SLEEP_SLEEP_EN 1) 1, by decide +kernel⟩,
   ⟨1, lk (w (onx g 1) (fCx_STAT_TX_STATE 1) cxTxSleep) 1 { items := [.beacon] }, by decide +kernel⟩,
   ⟨1, [1,2,3], lk (w (onx g 1) (fCx_STAT_TX_STATE 1) cxTxWake) 1 { items := [.marker [1,2,3]] }, by decide +kernel⟩,
   ⟨1, lk (w (onx g 1) (fCx_STAT_TX_STATE 1) cxTxWake) 1 { items := [.beacon, .marker [1,2,3]] }, by decide +kernel⟩,
   ⟨1, h0, cf, [], lk (onx g 1) 1 { frames := [cf] }, by decide +kernel⟩⟩

theorem witness_CoxLinksAreControlled :
    (∃ (n : Nat) (v : W32) (s : State), s.awake = true ∧ n < 2 ∧ s.testing (39 + n) = false ∧ v.getLsbD 31 = true ∧ v.getLsbD
      30 = false ∧ s.on (fCx_CTL_EN n) = false ∧ s.on (fCk_CTL_EN (14 + n)) = false ∧ bits v 7 0 < bits v 15 8)
    ∧ (∃ (n : Nat) (v : W32) (s : State), s.awake = true ∧ n < 2 ∧ s.testing (39 + n) = false ∧ v.getLsbD 29 = true ∧ v.getLsbD
      30 = false ∧ s.on (fCx_CTL_EN n) = v.getLsbD 31 ∧ bits v 7 0 < bits v 15 8)
    ∧ (∃ (n : Nat) (v : W32) (s : State), s.awake = true ∧ n < 2 ∧ s.testing (39 + n) = false ∧ v.getLsbD 30 = true ∧
      (v.getLsbD 31 = true → s.on (fCx_CTL_EN n) = true) ∧ bits v 7 0 < bits v 15 8 ∧ (s.link n).frames = [])
    ∧ (∃ (n : Nat) (v : W32) (s : State), s.awake = true ∧ n < 2 ∧ s.testing (39 + n) = false ∧ v.getLsbD 30 = true ∧
      (v.getLsbD 31 = true → s.on (fCx_CTL_EN n) = true) ∧ bits v 7 0 < bits v 15 8 ∧ (s.link n).frames ≠ [])
    ∧ (∃ (n : Nat) (v : W32) (s : State), s.awake = true ∧ n < 2 ∧ s.testing (39 + n) = false ∧ v.getLsbD 31 = false ∧
      v.getLsbD 30 = false ∧ s.on (fCx_CTL_EN n) = true ∧ bits v 7 0 < bits v 15 8 ∧ (s.link n).frames = []) :=
  ⟨⟨1, 0x80002010#32, g, by decide +kernel⟩,
   ⟨1, 0x20002010#32, (g.setReg (rCx_CNT 1) 7#32), by decide +kernel⟩,
   ⟨1, 0x40002010#32, (onx g 1), by decide +kernel⟩,
   ⟨1, 0x40002010#32, lk (onx g 1) 1 { frames := [cf] }, by decide +kernel⟩,
   ⟨1, 0x00002010#32, (onx g 1), by decide +kernel⟩⟩

theorem witness_CrewsFormAndDissolve :
    (∃ (h : Hdr) (id role topo share leadUs rxQp : Nat) (relayEn : Bool) (s : State), s.takesPf (.crewJoin h id role topo
      share relayEn leadUs rxQp) = true ∧ coxTargets.any s.testing = false ∧ firstFail (crewJoinChecks role topo share
      relayEn leadUs rxQp s) = none)
    ∧ (∃ (h : Hdr) (id role topo share leadUs rxQp : Nat) (relayEn : Bool) (s : State), s.takesPf (.crewJoin h id role topo
      share relayEn leadUs rxQp) = true ∧ coxTargets.any s.testing = false ∧ firstFail (crewJoinChecks role topo share
      relayEn leadUs rxQp s) = none ∧ role = roleMember)
    ∧ (∃ (h : Hdr) (s : State), s.takesPf (.crewLeave h) = true ∧ coxTargets.any s.testing = false ∧ s.role = roleMember ∧
      s.crew.leave = none)
    ∧ (∃ (h : Hdr) (s : State), s.takesPf (.crewLeave h) = true ∧ coxTargets.any s.testing = false ∧ s.role = roleMember ∧
      s.crew.leave = none ∧ s.crew.join = some h0)
    ∧ (∃ (h : Hdr) (s : State), s.takesPf (.crewLeave h) = true ∧ coxTargets.any s.testing = false ∧ s.role = roleLead ∧
      s.crew.leave = none)
    ∧ (∃ (h : Hdr) (s : State), s.takesPf (.crewLeave h) = true ∧ coxTargets.any s.testing = false ∧ s.role = roleLead ∧
      s.crew.leave = none ∧ (∀ n, n < 2 → s.cxRx n = cxRxUp → s.faulted n = true))
    ∧ (∃ (h : Hdr) (dst dir len n m : Nat) (p : List Byte) (f : CrewFrame) (s : State), s.takesPf (.crewRelay h dst dir len
      (some p)) = true ∧ coxTargets.any s.testing = false ∧ len ≤ 256 ∧ dst ≠ s.fld fCox_CREW_STAT_MEMBER_ID ∧ (dst <
      s.fld fCox_CREW_SIZE_SIZE ∨ dst = 0xFFFF) ∧ s.inCrew = true ∧ n = (if dir = 0 then 1 else 0) ∧ (s.cxRx n = cxRxUp
      ∨ s.on (fCx_STAT_WRAPPED n) = true) ∧ m = (if s.faulted n then 1 - n else n) ∧ f = ⟨tRelay, if s.faulted n then
      Nat.lor dir 2 else dir, s.fld fCox_CREW_STAT_MEMBER_ID, dst, s.crew.seq, p.take len, .relay h⟩)
    ∧ (∃ (h : Hdr) (dst dir len n m : Nat) (p : List Byte) (f : CrewFrame) (s : State), s.takesPf (.crewRelay h dst dir len
      (some p)) = true ∧ coxTargets.any s.testing = false ∧ len ≤ 256 ∧ dst ≠ s.fld fCox_CREW_STAT_MEMBER_ID ∧ (dst <
      s.fld fCox_CREW_SIZE_SIZE ∨ dst = 0xFFFF) ∧ s.inCrew = true ∧ n = (if dir = 0 then 1 else 0) ∧ (s.cxRx n = cxRxUp
      ∨ s.on (fCx_STAT_WRAPPED n) = true) ∧ m = (if s.faulted n then 1 - n else n) ∧ f = ⟨tRelay, if s.faulted n then
      Nat.lor dir 2 else dir, s.fld fCox_CREW_STAT_MEMBER_ID, dst, s.crew.seq, p.take len, .relay h⟩ ∧ s.cxTx m =
      cxTxFault)
    ∧ (∃ (h : Hdr) (s : State), s.role = roleLead ∧ s.crew.join = some h ∧ s.crew.formed = false)
    ∧ (∃ (h : Hdr) (s : State), s.role = roleMember ∧ s.crew.join = some h) :=
  ⟨⟨h0, 65535, 1, 0, 2, 10, 0, false, tk (.crewJoin h0 65535 1 0 2 false 10 0) ((onx (onx g 1) 0).setGen 1 gnx), by
    decide +kernel⟩,
   ⟨h0, 0, 2, 0, 0, 0, 0, false, tk (.crewJoin h0 0 2 0 0 false 0 0) (onx (onx g 1) 0), by decide +kernel⟩,
   ⟨h0, tk (.crewLeave h0) (w (mb.setGen 1 gnx) fCox_CREW_STAT_SHARE 2), by decide +kernel⟩,
   ⟨{ h0 with cid := 8 }, tk (.crewLeave ({ h0 with cid := 8 })) { mb with crew := { mb.crew with join := some h0 } }, by decide +kernel⟩,
   ⟨h0, tk (.crewLeave h0) ld, by decide +kernel⟩,
   ⟨h0, tk (.crewLeave h0) (w (w ld (fCx_STAT_FAULTED 0) 1) (fCx_STAT_FAULTED 1) 1), by decide +kernel⟩,
   ⟨h0, 1, 0, 2, 1, 1, [5, 6], ⟨tRelay, 0, 0, 1, 0, [5, 6], .relay h0⟩, tk (.crewRelay h0 1 0 2 (some [5, 6])) (w ld
    fCox_CREW_SIZE_SIZE 2), by decide +kernel⟩,
   ⟨h0, 0xFFFF, 1, 256, 0, 1, [5], ⟨tRelay, 3, 0, 0xFFFF, 0, [5], .relay h0⟩, tk (.crewRelay h0 0xFFFF 1 256 (some [5])) (w
    (w (w (w ld fCox_CREW_SIZE_SIZE 2) (fCx_STAT_FAULTED 0) 1) (fCx_STAT_WRAPPED 0) 1) (fCx_STAT_TX_STATE 1) cxTxFault),
    by decide +kernel⟩,
   ⟨h0, { ld with crew := { ld.crew with join := some h0 } }, by decide +kernel⟩,
   ⟨h0, { mb with crew := { mb.crew with join := some h0 } }, by decide +kernel⟩⟩

theorem witness_CrewItemsTravel :
    (∃ (k : Nat) (b : List Byte) (s : State), k < 4 ∧ s.role = roleLead ∧ s.shared k = true ∧ (s.gen k).defined = true ∧
      (s.gen k).sent = false ∧ b = markerBytes k 0 (s.gen k).nextCount (s.gen k).nextAt (s.gen k).jumpMk (s.gen
      k).defChg)
    ∧ (∃ (k : Nat) (b : List Byte) (s : State), k < 4 ∧ s.role = roleLead ∧ s.shared k = true ∧ (s.gen k).defined = true ∧
      (s.gen k).sent = false ∧ b = markerBytes k 0 (s.gen k).nextCount (s.gen k).nextAt (s.gen k).jumpMk (s.gen
      k).defChg ∧ s.cxTx 0 = cxTxSleep ∧ s.on fCox_CREW_STAT_TOPO = true)
    ∧ (∃ (k : Nat) (s : State), (s.role ≠ roleLead ∨ s.shared k = false ∨ (s.gen k).defined = false ∨ (s.gen k).sent = true))
    ∧ (∃ (n k count inst : Nat) (d : GenDef) (b : CoxBytes) (s : State), s.cxHears n = true ∧ s.role = roleMember ∧ b.length =
      20 ∧ field b 19 1 = crc8 (b.take 19) ∧ field b 0 1 % 4 = k ∧ field b 3 4 = count ∧ inst = field b 7 2 + nsU *
      field b 9 4 + secU * field b 13 6 ∧ (s.gen k).d = some d ∧ (s.gen k).marked = false ∧ (s.gen k).late = false ∧
      (s.gen k).last.map (·.1) ≠ some count)
    ∧ (∃ (n k count inst : Nat) (d : GenDef) (b : CoxBytes) (s : State), s.cxHears n = true ∧ s.role = roleMember ∧ b.length =
      20 ∧ field b 19 1 = crc8 (b.take 19) ∧ field b 0 1 % 4 = k ∧ field b 3 4 = count ∧ inst = field b 7 2 + nsU *
      field b 9 4 + secU * field b 13 6 ∧ (s.gen k).d = some d ∧ (s.gen k).marked = false ∧ (s.gen k).late = false ∧
      (s.gen k).last.map (·.1) ≠ some count ∧ inst < s.tb + 100 * nsU)
    ∧ (∃ (n : Nat) (b : CoxBytes) (s : State), s.cxHears n = true ∧ b.length ≠ 20)
    ∧ (∃ (n : Nat) (b : CoxBytes) (s : State), s.cxHears n = true ∧ b.length = 20 ∧ field b 19 1 = crc8 (b.take 19) ∧ s.role =
      roleLead)
    ∧ (∃ (n : Nat) (b : CoxBytes) (s : State), s.cxHears n = true ∧ b.length = 20 ∧ field b 19 1 = crc8 (b.take 19) ∧ s.role =
      rolePass)
    ∧ (∃ (n t1 : Nat) (b : CoxBytes) (delay : Int) (s : State), s.cxHears n = true ∧ b.length = 28 ∧ field b 27 1 = crc8
      (b.take 27) ∧ Tab.find (s.link n).departs (field b 14 1) = some t1 ∧ delay = ((s.stamp s.tb : Int) - t1) -
      (((field b 2 2 + nsU * field b 4 4 + secU * field b 8 6 : Nat) : Int) - ((field b 15 2 + nsU * field b 17 4 + secU
      * field b 21 6 : Nat) : Int)) ∧ s.role ≠ roleMember)
    ∧ (∃ (n t1 : Nat) (b : CoxBytes) (delay : Int) (s : State), s.cxHears n = true ∧ b.length = 28 ∧ field b 27 1 = crc8
      (b.take 27) ∧ Tab.find (s.link n).departs (field b 14 1) = some t1 ∧ delay = ((s.stamp s.tb : Int) - t1) -
      (((field b 2 2 + nsU * field b 4 4 + secU * field b 8 6 : Nat) : Int) - ((field b 15 2 + nsU * field b 17 4 + secU
      * field b 21 6 : Nat) : Int)) ∧ s.role = roleMember ∧ s.fld fCox_CREW_STAT_PATH = n)
    ∧ (∃ (n : Nat) (b : CoxBytes) (s : State), s.cxHears n = true ∧ b.length ≠ 28)
    ∧ (∃ (n : Nat) (b : CoxBytes) (s : State), s.cxHears n = true ∧ b.length = 28 ∧ field b 27 1 = crc8 (b.take 27) ∧ Tab.find
      (s.link n).departs (field b 14 1) = none)
    ∧ (∃ (n : Nat) (b : CoxBytes) (err : Bool) (s : State), s.cxHears n = true ∧ (err = true ∨ b.length < 12 ∨ b.length ≠ 12 +
      field b 8 2 ∨ 256 < field b 8 2 ∨ beField b (b.length - 2) 2 ≠ crc16 (b.take (b.length - 2))) ∧ err = true)
    ∧ (∃ (n : Nat) (b : CoxBytes) (err : Bool) (s : State), s.cxHears n = true ∧ (err = true ∨ b.length < 12 ∨ b.length ≠ 12 +
      field b 8 2 ∨ 256 < field b 8 2 ∨ beField b (b.length - 2) 2 ≠ crc16 (b.take (b.length - 2))) ∧ b.length = 11)
    ∧ (∃ (n : Nat) (b : CoxBytes) (err : Bool) (s : State), s.cxHears n = true ∧ (err = true ∨ b.length < 12 ∨ b.length ≠ 12 +
      field b 8 2 ∨ 256 < field b 8 2 ∨ beField b (b.length - 2) 2 ≠ crc16 (b.take (b.length - 2))) ∧ b.length = 12 +
      field b 8 2)
    ∧ (∃ (n : Nat) (b : CoxBytes) (s : State), s.cxHears n = true ∧ 12 ≤ b.length ∧ b.length = 12 + field b 8 2 ∧ field b 8 2 ≤
      256 ∧ beField b (b.length - 2) 2 = crc16 (b.take (b.length - 2)) ∧ field b 0 1 = tSleep)
    ∧ (∃ (n : Nat) (b : CoxBytes) (s : State), s.cxHears n = true ∧ 12 ≤ b.length ∧ b.length = 12 + field b 8 2 ∧ field b 8 2 ≤
      256 ∧ beField b (b.length - 2) 2 = crc16 (b.take (b.length - 2)) ∧ field b 0 1 = tFault ∧ s.inCrew = true)
    ∧ (∃ (n : Nat) (b : CoxBytes) (s : State), s.cxHears n = true ∧ 12 ≤ b.length ∧ b.length = 12 + field b 8 2 ∧ field b 8 2 ≤
      256 ∧ beField b (b.length - 2) 2 = crc16 (b.take (b.length - 2)) ∧ field b 0 1 = tFault ∧ s.inCrew = false)
    ∧ (∃ (n : Nat) (b : CoxBytes) (s : State), s.cxHears n = true ∧ 12 ≤ b.length ∧ b.length = 12 + field b 8 2 ∧ field b 8 2 ≤
      256 ∧ beField b (b.length - 2) 2 = crc16 (b.take (b.length - 2)) ∧ field b 0 1 = tRelay ∧ s.role = roleNone)
    ∧ (∃ (n : Nat) (b : CoxBytes) (s : State), s.cxHears n = true ∧ 12 ≤ b.length ∧ b.length = 12 + field b 8 2 ∧ field b 8 2 ≤
      256 ∧ beField b (b.length - 2) 2 = crc16 (b.take (b.length - 2)) ∧ field b 0 1 = tRelay ∧ s.role = rolePass)
    ∧ (∃ (n : Nat) (b : CoxBytes) (s : State), s.cxHears n = true ∧ 12 ≤ b.length ∧ b.length = 12 + field b 8 2 ∧ field b 8 2 ≤
      256 ∧ beField b (b.length - 2) 2 = crc16 (b.take (b.length - 2)) ∧ field b 0 1 = tRelay ∧ s.inCrew = true ∧ field
      b 2 2 = s.fld fCox_CREW_STAT_MEMBER_ID)
    ∧ (∃ (n : Nat) (s : State), s.cxHears n = false)
    ∧ (∃ (b o : Nat × Nat) (s : State), s.role = roleLead ∧ o = otherEnd (s.fld fCox_CREW_SIZE_SIZE) b ∧ (b ∈ s.crew.breaks ∨ o
      ∈ s.crew.breaks) ∧ s.stayedUp b = true ∧ s.stayedUp o = true)
    ∧ (∃ (b : Nat × Nat) (s : State), (s.role ≠ roleLead ∨ s.stayedUp b = false)) :=
  ⟨⟨3, _, w (ld.setGen 3 gnx) fCox_CREW_STAT_SHARE 8, by decide +kernel, by decide +kernel, by decide +kernel, by
    decide +kernel, by decide +kernel, rfl⟩,
   ⟨0, _, w (w (w (ld.setGen 0 gnx) fCox_CREW_STAT_SHARE 1) fCox_CREW_STAT_TOPO 1) (fCx_STAT_TX_STATE 0) cxTxSleep, by
    decide +kernel, by decide +kernel, by decide +kernel, by decide +kernel, by decide +kernel, rfl, by decide +kernel⟩,
   ⟨3, ld, by decide +kernel⟩,
   ⟨0, 3, 9, 65536000000, ⟨50, 1, 1000, 0, 0⟩, mkb, { (w (mb.setGen 3 { gnx with at_ := 9*10^9 }) fCox_CREW_STAT_SHARE 8) with tb := 65536000000 - 100 * nsU }, by decide +kernel⟩,
   ⟨0, 3, 9, 65536000000, ⟨50, 1, 1000, 0, 0⟩, mkb, { (w (mb.setGen 3 { gnx with at_ := 9*10^9 }) fCox_CREW_STAT_SHARE 8) with tb := 65536000000 - 100 * nsU + 1 }, by decide +kernel⟩,
   ⟨1, [3], ld, by decide +kernel⟩,
   ⟨1, mkb, ld, by decide +kernel⟩,
   ⟨1, mkb, w ld fCox_CREW_STAT_ROLE rolePass, by decide +kernel⟩,
   ⟨1, 400000, bcn, _, { (lk ld 1 { departs := [(9, 400000)] }) with tb := 5000000 }, by decide +kernel, by decide +kernel, by decide +kernel, by decide +kernel, rfl, by decide +kernel⟩,
   ⟨1, 400000, bcn, _, w { (lk mb 1 { departs := [(9, 400000)] }) with tb := 5000000 } fCox_CREW_STAT_PATH 1, by decide +kernel, by decide +kernel, by decide +kernel, by decide +kernel, rfl, by decide +kernel⟩,
   ⟨1, [3], ld, by decide +kernel⟩,
   ⟨1, bcn, ld, by decide +kernel⟩,
   ⟨1, sl, true, ld, by decide +kernel⟩,
   ⟨1, List.replicate 11 0, false, ld, by decide +kernel⟩,
   ⟨1, [1] ++ List.replicate 11 0, false, ld, by decide +kernel⟩,
   ⟨1, sl, ld, by decide +kernel⟩,
   ⟨1, cfb tFault [], ld, by decide +kernel⟩,
   ⟨1, cfb tFault [], onx g 1, by decide +kernel⟩,
   ⟨1, cfb tRelay [5], onx g 1, by decide +kernel⟩,
   ⟨1, cfb tRelay (List.replicate 40 5), w ld fCox_CREW_STAT_ROLE rolePass, by decide +kernel⟩,
   ⟨1, cfb tRelay [5], ld, by decide +kernel⟩,
   ⟨1, g, by decide +kernel⟩,
   ⟨(0, 1), (1, 0), { (w (w ld fCox_CREW_SIZE_SIZE 2) (fCx_STAT_FAULTED 1) 1) with up := 10 ^ 16, crew := { ld.crew with breaks := [(1, 0)] } }, by decide +kernel⟩,
   ⟨(0, 1), g, by decide +kernel⟩⟩

end Sys2Proof.Tests.W6

namespace Sys2Proof.Tests.W7

def lm (n m t r : Nat) : State := w (w (w (w g (fLn_MODE_STAT_MODE n) m) (fLn_MODE_STAT_PORT_BASE n) n) (fLn_TX_STAT_STATE n) t) (fLn_RX_STAT_STATE n) r
def md (s : State) (n : Nat) (f : Lane → Lane) : State := s.modLane n f
def mc : ModeCmd := { hdr := h0, count := 1, mode := 3, variant := 0, width := 0, end_ := 0, changed := true }
def A : State := lm 7 3 txActive rxLocked
def C7 : State := md (lm 7 3 txActive rxConverge) 7 ({ · with kBlocks := 63 })
def rc : Reception := ⟨1000, 9000, true, false⟩

/-- A window in which every sample lies where it is expected, and one in which the levels lie in reverse. -/
def good : MeritWin := ⟨2 ^ 20, [(0, 2 ^ 18, -3 * 2 ^ 18, 0), (1, 2 ^ 18, -2 ^ 18, 0), (2, 2 ^ 18, 2 ^ 18, 0), (3, 2 ^ 18, 3 * 2 ^ 18, 0)]⟩
def poor : MeritWin := ⟨2 ^ 20, [(0, 2 ^ 18, 3 * 2 ^ 18, 1), (1, 2 ^ 18, 2 ^ 18, 1), (2, 2 ^ 18, -2 ^ 18, 1), (3, 2 ^ 18, -3 * 2 ^ 18, 1)]⟩
/-- Four levels alike. -/
def quarter : List Nat := List.replicate 4 (2 ^ 22)
/-- A word no codeword lies near: 29 of its 30 syndromes are 0. -/
def farWord : List Nat := List.replicate 514 0 ++
  [1, 287, 513, 656, 197, 885, 815, 1011, 141, 211, 282, 451, 394, 740, 375, 387, 301, 883, 11, 812, 927, 370, 437, 2,
   961, 563, 614, 564, 941, 464]

/-- MERIT is the figure or one beside it, while SER_est is below 1 (R85). -/
theorem meritOf_le (w : MeritWin) : meritOf w ≤ meritExact (serEst w) + 1 := by
  unfold meritOf meritFrom; dsimp only; repeat' split
  all_goals omega
theorem meritOf_ge (w : MeritWin) (h : serEst w < fixOne) : min 255 (meritExact (serEst w)) - 1 ≤ meritOf w := by
  unfold meritOf meritFrom; dsimp only; rw [if_neg (by omega)]; split <;> omega

theorem witness_LanesAreCommanded :
    (∃ (h : Hdr) (lane mode variant width end_ : Nat) (s : State), s.takesPf (.laneMode h lane mode variant width end_) =
      true ∧ firstFail (laneModeChecks h lane mode variant width end_ s) = none)
    ∧ (∃ (h : Hdr) (lane mode variant width end_ : Nat) (s : State), s.takesPf (.laneMode h lane mode variant width end_) =
      true ∧ firstFail (laneModeChecks h lane mode variant width end_ s) = none ∧ width = 3)
    ∧ (∃ (h : Hdr) (lane mode variant width end_ : Nat) (s : State), s.takesPf (.laneMode h lane mode variant width end_) =
      true ∧ firstFail (laneModeChecks h lane mode variant width end_ s) = none ∧ s.tx lane = txActive)
    ∧ (∃ (lane : Nat) (c : ModeCmd) (s : State), (s.lane lane).modeCmd = some c ∧ c.width = 0 ∧ c.mode ≠ 0 ∧ c.mode < 4 ∧
      c.end_ = 0 ∧ c.tuned = false ∧ s.tx lane ≠ txRampUp ∧ s.tx lane ≠ txRampDown ∧ (s.lane lane).express = [] ∧
      (s.lane lane).media = [] ∧ (s.lane lane).host = [] ∧ c.hdr.qp < 256 ∧ s.bme (s.ownerOf c.hdr.qp) = true)
    ∧ (∃ (h : Hdr) (lane : Nat) (s : State), s.takesPf (.laneTrain h lane true false) = true ∧ s.testing lane = false ∧ s.on
      (fLn_MODE_STAT_BUSY lane) = false ∧ s.tx lane ≠ txOff)
    ∧ (∃ (h : Hdr) (lane : Nat) (s : State), s.takesPf (.laneTrain h lane false true) = true ∧ s.testing lane = false ∧ s.on
      (fLn_MODE_STAT_BUSY lane) = false ∧ s.mode lane = m400 ∧ s.tx lane = txActive ∧ (s.lane lane).trainCmd = none)
    ∧ (∃ (h : Hdr) (lane kind : Nat) (s : State), s.takesPf (.laneLoop h lane kind) = true ∧ lane < 8 ∧ s.testing lane = false
      ∧ s.on (fLn_MODE_STAT_BUSY lane) = false ∧ (kind = 1 ∨ kind = 2) ∧ s.portLanes lane = [lane] ∧ s.tx lane =
      txActive ∧ (s.lane lane).loopCmd = none ∧ (s.lane lane).loopPrior = none)
    ∧ (∃ (h : Hdr) (lane kind : Nat) (s : State), s.takesPf (.laneLoop h lane kind) = true ∧ lane < 8 ∧ s.testing lane = false
      ∧ s.on (fLn_MODE_STAT_BUSY lane) = false ∧ (kind = 1 ∨ kind = 2) ∧ s.portLanes lane = [lane] ∧ s.tx lane =
      txActive ∧ (s.lane lane).loopCmd = none ∧ (s.lane lane).loopPrior = none ∧ kind = 2)
    ∧ (∃ (h : Hdr) (lane pattern : Nat) (s : State), s.takesPf (.lanePrbs h lane false true pattern 0 0) = true ∧ lane < 8 ∧
      s.testing lane = false ∧ s.on (fLn_MODE_STAT_BUSY lane) = false ∧ s.tx lane ≠ txOff ∧ pattern < 8 ∧ s.on
      (fLn_PRBS_STAT_CHK lane) = true) :=
  ⟨⟨h0, 7, 3, 0, 0, 1, tk (.laneMode h0 7 3 0 0 1) g, by decide +kernel⟩,
   ⟨h0, 0, 0, 0, 3, 0, tk (.laneMode h0 0 0 0 3 0) g, by decide +kernel⟩,
   ⟨h0, 7, 2, 1, 0, 0, tk (.laneMode h0 7 2 1 0 0) A, by decide +kernel⟩,
   ⟨7, mc, md (w (lm 7 1 txStandby 0) (fLn_MODE_STAT_BUSY 7) 1) 7 ({ · with modeCmd := some mc }), by decide +kernel⟩,
   ⟨h0, 7, tk (.laneTrain h0 7 true false) A, by decide +kernel⟩,
   ⟨h0, 7, tk (.laneTrain h0 7 false true) A, by decide +kernel⟩,
   ⟨h0, 7, 1, tk (.laneLoop h0 7 1) A, by decide +kernel⟩,
   ⟨h0, 7, 2, tk (.laneLoop h0 7 2) A, by decide +kernel⟩,
   ⟨h0, 7, 7, tk (.lanePrbs h0 7 false true 7 0 0) (w A (fLn_PRBS_STAT_CHK 7) 1), by decide +kernel⟩⟩

theorem witness_TransmittersRampAndIdle :
    (∃ (lane : Nat) (s : State), s.portLanes lane = [lane] ∧ s.tx lane = txRampUp ∧ (s.lane lane).amp < 1023)
    ∧ (∃ (lane sf : Nat) (s : State), s.mode lane = m400 ∧ s.tx lane = txActive ∧ s.idleAllowed lane = true ∧ s.txEmpty lane =
      true ∧ s.fld (fLn_TX_CATCH_REP_LEFT lane) = 0 ∧ s.on (fLn_PRBS_STAT_GEN lane) = false ∧ s.trainSends lane = false
      ∧ sf = 0)
    ∧ (∃ (lane sf : Nat) (s : State), s.mode lane = m400 ∧ s.tx lane = txActive ∧ s.idleAllowed lane = true ∧ s.txEmpty lane =
      true ∧ s.fld (fLn_TX_CATCH_REP_LEFT lane) = 0 ∧ s.on (fLn_PRBS_STAT_GEN lane) = false ∧ s.trainSends lane = false
      ∧ sf ≠ 0)
    ∧ (∃ (lane : Nat) (s : State), s.tx lane = txIdle ∧ s.txEmpty lane = false)
    ∧ (∃ (lane : Nat) (s : State), s.tx lane = txWake)
    ∧ (∃ (lane : Nat) (s : State), s.mode lane = m400 ∧ s.tx lane = txActive ∧ s.trainDue lane = true)
    ∧ (∃ (lane a : Nat) (s : State), (s.lane lane).trainAt = some a ∧ s.up < a + 10000 * nsU)
    ∧ (∃ (lane : Nat) (v : W32) (s : State), s.awake = true ∧ lane < 8 ∧ s.testing lane = false ∧ s.tx lane ≠ txOff ∧ s.on
      (fLn_TX_FIR_CTL_ARM lane) = false ∧ v.getLsbD 31 = true ∧ s.firOk lane (bits v 2 0) = true)
    ∧ (∃ (lane : Nat) (s : State), s.tx lane = txStandby ∧ s.on (fLn_TX_FIR_CTL_ARM lane) = true) :=
  ⟨⟨7, lm 7 3 txRampUp 0, by decide +kernel⟩,
   ⟨7, 0, w A (fLn_TX_IDLE_IDLE_EN 7) 1, by decide +kernel⟩,
   ⟨7, 15, w A (fLn_TX_IDLE_IDLE_EN 7) 1, by decide +kernel⟩,
   ⟨7, md (lm 7 3 txIdle 0) 7 ({ · with host := [⟨.host h0, [1], false⟩] }), by decide +kernel⟩,
   ⟨7, lm 7 3 txWake 0, by decide +kernel⟩,
   ⟨7, md (w (w A (fLn_TX_CATCH_REP_LEFT 7) 5) (fLn_TX_CATCH_LAST_ID 7) 9) 7 ({ · with trainCmd := some h0 }), by decide +kernel⟩,
   ⟨7, 1, md A 7 ({ · with trainAt := some 1 }), by decide +kernel⟩,
   ⟨7, 0x80000002#32, A, by decide +kernel⟩,
   ⟨7, w (lm 7 1 txStandby 0) (fLn_TX_FIR_CTL_ARM 7) 1, by decide +kernel⟩⟩

theorem witness_ReceiversFollowTheirTable :
    (∃ (lane : Nat) (s : State), s.rx lane = rxSearch)
    ∧ (∃ (lane : Nat) (s : State), s.rx lane = rxIdle)
    ∧ (∃ (lane : Nat) (s : State), s.rx lane = rxOff)
    ∧ (∃ (lane : Nat) (s : State), s.rx lane = rxLocked)
    ∧ (∃ (lane : Nat) (s : State), s.rx lane = rxWake)
    ∧ (∃ (lane : Nat) (s : State), s.rx lane = rxIdle)
    ∧ (∃ (lane : Nat) (s : State), s.rx lane = rxFailed)
    ∧ (∃ (lane : Nat) (s : State), s.rx lane = rxSearch)
    ∧ (∃ (lane : Nat) (powers : List (Nat × Nat)) (rms : Int) (lp : Loops) (s : State), s.rx lane = rxAcquire ∧ s.acquired lane
      powers rms lp.freq = false)
    ∧ (∃ (lane : Nat) (powers : List (Nat × Nat)) (rms : Int) (lp : Loops) (s : State), s.rx lane = rxAcquire ∧ s.acquired lane
      powers rms lp.freq = true)
    ∧ (∃ (lane : Nat) (s : State), s.rx lane = rxAcquire)
    ∧ (∃ (lane : Nat) (s : State), s.rx lane ≠ rxAcquire)
    ∧ (∃ (lane : Nat) (tr : TrainRx) (s : State), s.rx lane = rxTrain ∧ (s.lane lane).solvable tr.pos tr.rx = false)
    ∧ (∃ (lane : Nat) (tr : TrainRx) (s : State), s.rx lane = rxTrain ∧ (s.lane lane).solvable tr.pos tr.rx = true)
    ∧ (∃ (lane : Nat) (tr : TrainRx) (s : State), s.rx lane = rxTrain ∧ (s.lane lane).solvable tr.pos tr.rx = true ∧ (s.lane
      lane).fromCatch = true)
    ∧ (∃ (lane : Nat) (s : State), s.rx lane = rxTrain ∧ (s.lane lane).fromCatch = true ∧ (s.lane lane).curId = none)
    ∧ (∃ (lane : Nat) (s : State), s.rx lane = rxTrain ∧ (s.lane lane).fromCatch = true ∧ (s.lane lane).curId = none ∧
      s.inForce (fLn_RX_CTL_TRAIN_SRC lane) = 1)
    ∧ (∃ (lane : Nat) (s : State), (s.rx lane ≠ rxTrain ∨ (s.lane lane).fromCatch = false ∨ (s.lane lane).curId ≠ none))
    ∧ (∃ (lane header : Nat) (s : State), s.mode lane = m400 ∧ headerOk header = false)
    ∧ (∃ (lane header : Nat) (s : State), s.mode lane = m400 ∧ headerOk header = true ∧ s.rx lane = rxTrain ∧ (s.lane
      lane).fromCatch = true)
    ∧ (∃ (lane header : Nat) (s : State), s.mode lane = m400 ∧ headerOk header = true ∧ s.rx lane = rxLocked ∧ s.inForce
      (fLn_RX_CTL_TRAIN_SRC lane) ≠ 2 ∧ (s.lane lane).lastId ≠ some (header / 256 % 256))
    ∧ (∃ (lane header : Nat) (s : State), s.mode lane = m400 ∧ headerOk header = true ∧ s.rx lane = rxConverge)
    ∧ (∃ (lane : Nat) (s : State), s.mode lane ≠ m400)
    ∧ (∃ (lane : Nat) (s : State), s.rx lane = rxLocked)
    ∧ (∃ (lane : Nat) (s : State), s.rx lane ≠ rxLocked) :=
  ⟨⟨7, lm 7 3 txActive rxSearch, by decide +kernel⟩,
   ⟨7, lm 7 3 txActive rxIdle, by decide +kernel⟩,
   ⟨7, lm 7 0 0 0, by decide +kernel⟩,
   ⟨7, A, by decide +kernel⟩,
   ⟨7, w (lm 7 3 txActive rxWake) (fLn_RX_STAT_RETRY 7) 3, by decide +kernel⟩,
   ⟨7, md (lm 7 3 txActive rxIdle) 7 ({ · with sigSince := some 5 }), by decide +kernel⟩,
   ⟨7, lm 7 3 txActive rxFailed, by decide +kernel⟩,
   ⟨7, lm 7 3 txActive rxSearch, by decide +kernel⟩,
   ⟨7, pws, 0, ⟨25001, 0, 0⟩, w (w (lm 7 3 txActive rxAcquire) (fLn_RX_AFE_CTLE_AUTO 7) 1) (fLn_RX_AFE_VGA_AUTO 7) 0, by
    decide +kernel⟩,
   ⟨7, List.replicate 16 (4, 1), 0, ⟨25000, 3, -4⟩, w (w (lm 7 3 txActive rxAcquire) (fLn_RX_AFE_CTLE_AUTO 7) 1)
    (fLn_RX_AFE_VGA_AUTO 7) 0, by decide +kernel⟩,
   ⟨7, lm 7 3 txActive rxAcquire, by decide +kernel⟩,
   ⟨7, A, by decide +kernel⟩,
   ⟨7, ⟨57, trs, 0, 0⟩, md (lm 7 3 txActive rxTrain) 7 ({ · with fromCatch := true, curId := some 3 }), by decide +kernel⟩,
   ⟨7, ⟨0, List.replicate 4352 63, 17424, -9000⟩, w (lm 7 3 txActive rxTrain) (fLn_RX_AFE_VGA_AUTO 7) 1, by decide +kernel⟩,
   ⟨7, ⟨56, trs, 5, 0⟩, md (w (lm 7 3 txActive rxTrain) (fLn_RX_AFE_VGA_AUTO 7) 0) 7 ({ · with fromCatch := true, curId := some 3 }), by decide +kernel⟩,
   ⟨7, md (lm 7 3 txActive rxTrain) 7 ({ · with fromCatch := true }), by decide +kernel⟩,
   ⟨7, { md (lm 7 3 txActive rxTrain) 7 ({ · with fromCatch := true }) with act := [(rLn_RX_CTL 7, (w (lm 7 3 txActive rxTrain) (fLn_RX_CTL_TRAIN_SRC 7) 1).reg (rLn_RX_CTL 7))] }, by decide +kernel⟩,
   ⟨7, A, by decide +kernel⟩,
   ⟨7, 1, lm 7 3 txActive rxTrain, by decide +kernel⟩,
   ⟨7, 0xA53C, md (lm 7 3 txActive rxTrain) 7 ({ · with fromCatch := true }), by decide +kernel⟩,
   ⟨7, 0xA53C, A, by decide +kernel⟩,
   ⟨7, 0xA53C, lm 7 3 txActive rxConverge, by decide +kernel⟩,
   ⟨7, lm 7 2 txActive rxTrain, by decide +kernel⟩,
   ⟨7, A, by decide +kernel⟩,
   ⟨7, lm 7 3 txActive rxIdle, by decide +kernel⟩⟩

theorem witness_ReceiversAdapt :
    (∃ (lane : Nat) (rx : List Int) (p : Pass) (y : List Cx) (s : State), rx.length = 128 ∧ blockPass lane rx s = (p, y) ∧
      (s.rx lane = rxConverge ∨ s.rx lane = rxLocked))
    ∧ (∃ (lane : Nat) (rx : List Int) (lp : Loops) (p : Pass) (y : List Cx) (s : State), rx.length = 128 ∧ blockPass lane rx s
      = (p, y) ∧ (s.rx lane = rxConverge ∨ s.rx lane = rxLocked) ∧ 25000 < lp.freq.natAbs)
    ∧ (∃ (lane : Nat) (rx : List Int) (p : Pass) (y : List Cx) (s : State), rx.length = 128 ∧ blockPass lane rx s = (p, y) ∧
      (s.rx lane = rxConverge ∨ s.rx lane = rxLocked) ∧ s.on (fLn_FDE_CTL_FREEZE lane) = true)
    ∧ (∃ (lane : Nat) (s : State), s.rx lane ≠ rxConverge ∧ s.rx lane ≠ rxLocked)
    ∧ (∃ (lane n : Nat) (s : State), (s.rx lane = rxConverge ∨ s.rx lane = rxLocked ∧ s.on (fLn_DFE_CTL_FREEZE lane) = false) ∧
      256 ≤ (s.lane lane).dfeSyms ∧ n = s.fld (fLn_RX_STAT_DFE_N lane))
    ∧ (∃ (lane n : Nat) (s : State), (s.rx lane = rxConverge ∨ s.rx lane = rxLocked ∧ s.on (fLn_DFE_CTL_FREEZE lane) = false) ∧
      256 ≤ (s.lane lane).dfeSyms ∧ n = s.fld (fLn_RX_STAT_DFE_N lane) ∧ s.rx lane = rxLocked)
    ∧ (∃ (lane : Nat) (s : State), (s.rx lane = rxConverge ∨ s.rx lane = rxLocked ∧ s.on (fLn_FDE_CTL_FREEZE lane) = false) ∧
      4096 ≤ (s.lane lane).tgtSyms)
    ∧ (∃ (lane : Nat) (s : State), s.rx lane ≠ rxConverge ∧ s.rx lane ≠ rxLocked)
    ∧ (∃ (lane : Nat) (win : MeritWin) (s : State), s.rx lane = rxConverge ∧ (s.lane lane).winDone = some win ∧ s.fld
      (fLn_CAL_STAT_PHASE lane) ≠ 3 ∧ (s.lane lane).chosen.isSome = true ∧ (s.lane lane).lockRun = 1 ∧ s.fld
      (fLn_ADAPT_LOCK_THR lane) ≤ meritOf win)
    ∧ (∃ (lane : Nat) (win : MeritWin) (s : State), s.rx lane = rxLocked ∧ (s.lane lane).winDone = some win ∧ s.fld
      (fLn_CAL_STAT_PHASE lane) ≠ 3 ∧ s.inForce (fLn_RX_CTL_RETRAIN_EN lane) = 1 ∧ meritOf win < s.retrainThr lane ∧
      s.fld (fLn_ADAPT_RETRAIN_CNT lane) ≤ (s.lane lane).lowRun + 1)
    ∧ (∃ (lane : Nat) (win : MeritWin) (s : State), (s.rx lane = rxConverge ∨ s.rx lane = rxLocked) ∧ (s.lane lane).winDone =
      some win ∧ s.fld (fLn_CAL_STAT_PHASE lane) ≠ 3)
    ∧ (∃ (lane : Nat) (win : MeritWin) (s : State), (s.rx lane = rxConverge ∨ s.rx lane = rxLocked) ∧ (s.lane lane).winDone =
      some win ∧ s.fld (fLn_CAL_STAT_PHASE lane) = 3)
    ∧ (∃ (lane symbols : Nat) (s : State), (∀ win, (s.lane lane).winDone = some win → win.n ≠ symbols)) :=
  ⟨⟨7, rxs, (blockPass 7 rxs C7).1, (blockPass 7 rxs C7).2, C7, by decide +kernel, rfl, by decide +kernel⟩,
   ⟨7, rxs, ⟨25001, 3, 4⟩, (blockPass 7 rxs A).1, (blockPass 7 rxs A).2, A, by decide +kernel, rfl, by decide +kernel, by
    decide +kernel⟩,
   ⟨7, rxs, (blockPass 7 rxs (w A (fLn_FDE_CTL_FREEZE 7) 1)).1, (blockPass 7 rxs (w A (fLn_FDE_CTL_FREEZE 7) 1)).2, w A
    (fLn_FDE_CTL_FREEZE 7) 1, by decide +kernel, rfl, by decide +kernel, by decide +kernel⟩,
   ⟨7, lm 7 3 txActive rxIdle, by decide +kernel⟩,
   ⟨7, 3, md (w (lm 7 3 txActive rxConverge) (fLn_RX_STAT_DFE_N 7) 3) 7 ({ · with dfeSyms := 256 }), by decide +kernel⟩,
   ⟨7, 0, md A 7 ({ · with dfeSyms := 256 }), by decide +kernel⟩,
   ⟨7, md (w (w (lm 7 3 txActive rxConverge) (fLn_RX_STAT_MEM 7) 2) (fLn_TRELLIS_G1 7) 191) 7 ({ · with tgtSyms := 4096, errs := [1], tent := [.p3, .p3] }), by decide +kernel⟩,
   ⟨7, lm 7 3 txActive rxIdle, by decide +kernel⟩,
   ⟨7, good, md (lm 7 3 txActive rxConverge) 7 ({ · with chosen := some (1, 2), lockRun := 1, winDone := some good }), by decide +kernel, rfl, by decide +kernel, by decide +kernel, by decide +kernel, Nat.le_trans (by decide +kernel) (meritOf_ge good (by decide +kernel))⟩,
   ⟨7, poor, md (w A (fLn_ADAPT_RETRAIN_CNT 7) 1) 7 ({ · with winDone := some poor }), by decide +kernel, rfl, by decide +kernel, by decide +kernel, Nat.lt_of_le_of_lt (meritOf_le poor) (by decide +kernel), by decide +kernel⟩,
   ⟨7, poor, md (lm 7 3 txActive rxConverge) 7 ({ · with winDone := some poor }), by decide +kernel, rfl, by decide +kernel⟩,
   ⟨7, good, md (w A (fLn_CAL_STAT_PHASE 7) 3) 7 ({ · with winDone := some good }), by decide +kernel, rfl, by decide +kernel⟩,
   ⟨7, 2 ^ 20, A, fun _ h => nomatch (show (none : Option MeritWin) = some _ from h)⟩⟩

theorem witness_ReceiversSleepAndWake :
    (∃ (lane : Nat) (c1 c2 : Int) (s : State), s.mode lane = m400 ∧ s.rx lane = rxLocked ∧ s.catchHit lane c1 = false ∨
      s.catchHit lane c2 = false)
    ∧ (∃ (lane : Nat) (c1 c2 : Int) (s : State), s.mode lane = m400 ∧ s.rx lane = rxLocked ∧ s.catchHit lane c1 = true ∧
      s.catchHit lane c2 = true)
    ∧ (∃ (lane mag : Nat) (pl : PeakAt) (p : Reception) (s : State), s.mode lane = m400 ∧ s.rx lane = rxIdle ∧ s.fld
      (fLn_WAKE_CTL_CATCH_THR lane) ≤ mag ∧ (s.lane lane).rcpt = some p ∧ p.ended = false ∧ pl.at_ = p.at_ + 256 ∧
      s.pState < 2 ∧ s.on fPwr_STATE_TRANS = false)
    ∧ (∃ (lane : Nat) (pl : PeakAt) (s : State), s.rx lane = rxLocked ∧ (s.lane lane).rcpt = none ∧ pl.quiet < 8)
    ∧ (∃ (lane : Nat) (corr : Int) (p : Reception) (s : State), s.rx lane = rxWake ∧ (s.lane lane).rcpt = some p ∧ p.ended =
      true ∧ s.catchHit lane corr = true)
    ∧ (∃ (lane : Nat) (s : State), (s.lane lane).rcpt.isSome = true)
    ∧ (∃ (lane : Nat) (s : State), (s.lane lane).rcpt.isSome = true ∧ s.rx lane ≠ rxWake)
    ∧ (∃ (lane mag : Nat) (p : Reception) (s : State), (s.lane lane).rcpt = some p ∧ p.mag < mag ∧ s.fld
      (fLn_WAKE_CTL_CATCH_THR lane) ≤ mag)
    ∧ (∃ (lane since : Nat) (s : State), s.rx lane = rxIdle ∧ (s.lane lane).sigSince = some since ∧ s.up < since + s.fld
      (fLn_WAKE_CTL_MISS_US lane) * 1000 * nsU)
    ∧ (∃ (lane since : Nat) (s : State), s.rx lane = rxIdle ∧ (s.lane lane).sigSince = some since ∧ since + s.fld
      (fLn_WAKE_CTL_MISS_US lane) * 1000 * nsU ≤ s.up) :=
  ⟨⟨7, 2 ^ 30, 0, w A (fLn_RX_STAT_LOCK 7) 1, by decide +kernel⟩,
   ⟨7, 2 ^ 30, 2 ^ 30, w (w A (fLn_RX_STAT_LOCK 7) 1) (fLn_CAL_STAT_PHASE 7) 3, by decide +kernel⟩,
   ⟨7, 9000, ⟨1256, -5, 0, pre⟩, rc, md (lm 7 3 txActive rxIdle) 7 ({ · with rcpt := some rc }), by decide +kernel⟩,
   ⟨7, ⟨0, 0, 7, pre⟩, A, by decide +kernel⟩,
   ⟨7, 2 ^ 30, { rc with ended := true }, md (lm 7 3 txActive rxWake) 7 ({ · with rcpt := some { rc with ended := true } }), by decide +kernel⟩,
   ⟨7, md (lm 7 3 txActive rxWake) 7 ({ · with rcpt := some rc }), by decide +kernel⟩,
   ⟨7, md A 7 ({ · with rcpt := some rc }), by decide +kernel⟩,
   ⟨7, 9001, rc, md (lm 7 3 txActive rxIdle) 7 ({ · with rcpt := some rc }), by decide +kernel⟩,
   ⟨7, 5, md (lm 7 3 txActive rxIdle) 7 ({ · with sigSince := some 5 }), by decide +kernel⟩,
   ⟨7, 5, { md (lm 7 3 txActive rxIdle) 7 ({ · with sigSince := some 5 }) with up := 10 ^ 18 }, by decide +kernel⟩⟩

theorem witness_LanesCalibrate :
    (∃ (lane : Nat) (v : W32) (s : State), s.awake = true ∧ lane < 8 ∧ s.testing lane = false ∧ s.tx lane ≠ txOff ∧ v.getLsbD
      31 = true ∧ v.getLsbD 30 = true ∧ s.fld (fLn_CAL_STAT_PHASE lane) = 0 ∧ bits v 27 24 ≠ 0 ∧ 20 ≤ bits v 20 16 ∧
      bits v 20 16 ≤ 28 ∧ 1 ≤ bits v 9 0 ∧ bits v 9 0 ≤ 1000 ∧ s.rx lane = rxLocked)
    ∧ (∃ (lane : Nat) (s : State), s.on (fLn_CAL_CTL_EN lane) = true ∧ s.fld (fLn_CAL_STAT_PHASE lane) = 0)
    ∧ (∃ (lane : Nat) (s : State), s.on (fLn_CAL_CTL_EN lane) = true ∧ s.fld (fLn_CAL_STAT_PHASE lane) = 0 ∧ s.rx lane ≠
      rxLocked)
    ∧ (∃ (lane : Nat) (levels : List Nat) (slices : List (Nat × Int)) (squares power : List Nat) (image : List (List (Int ×
      Int))) (c : CalStats) (cs : List (Nat × Nat × Int × Int)) (s : State), s.fld (fLn_CAL_STAT_PHASE lane) = 1 ∧ s.rx
      lane = rxLocked ∧ levels.foldl (· + ·) 0 = 2 ^ (s.lane lane).calWin ∧ c = ⟨levels, (slices.zip squares).map fun e
      => (e.1.1, e.1.2, e.2), power, image⟩ ∧ cs = calCandidates s lane (s.passTemp lane) (c.raw (s.slices lane)
      (modeBaud (s.mode lane) (s.fld (fLn_MODE_STAT_VARIANT lane)))) ∧ c.levelsOk = true ∧ (s.lane lane).calTmax -
      (s.lane lane).calTmin ≤ 32)
    ∧ (∃ (lane : Nat) (levels : List Nat) (slices : List (Nat × Int)) (squares power : List Nat) (image : List (List (Int ×
      Int))) (c : CalStats) (cs : List (Nat × Nat × Int × Int)) (s : State), s.fld (fLn_CAL_STAT_PHASE lane) = 1 ∧ s.rx
      lane = rxLocked ∧ levels.foldl (· + ·) 0 = 2 ^ (s.lane lane).calWin ∧ c = ⟨levels, (slices.zip squares).map fun e
      => (e.1.1, e.1.2, e.2), power, image⟩ ∧ cs = calCandidates s lane (s.passTemp lane) (c.raw (s.slices lane)
      (modeBaud (s.mode lane) (s.fld (fLn_MODE_STAT_VARIANT lane)))) ∧ c.levelsOk = false)
    ∧ (∃ (lane : Nat) (s : State), s.fld (fLn_CAL_STAT_PHASE lane) = 3 ∧ s.rx lane = rxLocked ∧ (s.lane lane).calStep + 1 <
      (s.lane lane).calS)
    ∧ (∃ (lane : Nat) (s : State), s.fld (fLn_CAL_STAT_PHASE lane) = 3 ∧ s.rx lane = rxLocked ∧ (s.lane lane).calS ≤ (s.lane
      lane).calStep + 1)
    ∧ (∃ (lane : Nat) (s : State), s.awake = true ∧ lane < 8 ∧ s.testing lane = false ∧ s.tx lane ≠ txOff)
    ∧ (∃ (lane b : Nat) (x : Int × Int) (s : State), s.dark = false ∧ (s.lane lane).fdeReq = some b ∧ b ≤ 128 ∧ Tab.find
      (s.lane lane).taps b = some x ∧ -16384 ≤ x.1 ∧ x.1 < 16384 ∧ -16384 ≤ x.2 ∧ x.2 < 16384) :=
  ⟨⟨7, 0xC1140001#32, A, by decide +kernel⟩,
   ⟨7, w A (fLn_CAL_CTL_EN 7) 1, by decide +kernel⟩,
   ⟨7, w (lm 7 3 txActive rxIdle) (fLn_CAL_CTL_EN 7) 1, by decide +kernel⟩,
   ⟨7, quarter, [], [], [], [], ⟨quarter, [], [], []⟩, _, w A (fLn_CAL_STAT_PHASE 7) 1, by decide +kernel, by
    decide +kernel, by decide +kernel, rfl, rfl, by decide +kernel⟩,
   ⟨7, [2 ^ 24, 0, 0, 0], [], [], [], [], ⟨[2 ^ 24, 0, 0, 0], [], [], []⟩, _, w A (fLn_CAL_STAT_PHASE 7) 1, by
    decide +kernel, by decide +kernel, by decide +kernel, rfl, rfl, by decide +kernel⟩,
   ⟨7, md (w A (fLn_CAL_STAT_PHASE 7) 3) 7 ({ · with calS := 5, calTarget := [((0, 0), 7)] }), by decide +kernel⟩,
   ⟨7, md (w A (fLn_CAL_STAT_PHASE 7) 3) 7 ({ · with calS := 5, calStep := 4, calTarget := [((0, 0), 7)] }), by decide +kernel⟩,
   ⟨7, A, by decide +kernel⟩,
   ⟨7, 128, (5, -16384), md A 7 ({ · with fdeReq := some 128, taps := [(128, (5, -16384))] }), by decide +kernel⟩⟩

theorem witness_CodesAreCountedAndLanesReset :
    (∃ (lane : Nat) (rx m places : List Nat) (s : State), s.mode lane ≠ 0 ∧ s.portLanes lane = [lane] ∧ s.portBase lane =
      lane ∧ s.on (fLn_PRBS_STAT_CHK lane) = false ∧ s.on (fLn_RX_STAT_LOCK lane) = true ∧ rx.length = 544 ∧ rsDecode rx
      = some (m, places) ∧ places ≠ [] ∧ places.length ≤ 15)
    ∧ (∃ (lane : Nat) (rx : List Nat) (s : State), s.mode lane ≠ 0 ∧ s.portBase lane = lane ∧ s.portUp lane = true ∧ s.on
      (fLn_PRBS_STAT_CHK lane) = false ∧ rx.length = 544 ∧ rsDecode rx = none)
    ∧ (∃ (lane : Nat) (s : State), s.portUp lane = false)
    ∧ (∃ (lane : Nat) (s : State), s.mode lane ≠ 0 ∧ s.portBase lane = lane ∧ s.on (fLn_FEC_STAT_DEGRADED lane) = false ∧ 2 ^
      s.fld (fLn_FEC_CTL_DEG_WIN lane) ≤ (s.lane lane).degCw ∧ s.fld (fLn_FEC_DEG_SET lane) * (544 * (s.lane
      lane).degCw) < (s.lane lane).degC * 2 ^ 24)
    ∧ (∃ (lane : Nat) (s : State), s.mode lane ≠ 0 ∧ s.portBase lane = lane ∧ s.on (fLn_FEC_STAT_DEGRADED lane) = false ∧ 2 ^
      s.fld (fLn_FEC_CTL_DEG_WIN lane) ≤ (s.lane lane).degCw ∧ (s.lane lane).degC = 0)
    ∧ (∃ (lane : Nat) (v : W32) (s : State), s.awake = true ∧ lane < 8 ∧ s.testing lane = false ∧ s.tx lane ≠ txOff ∧ v.getLsbD
      31 = true ∧ 16 ≤ bits v 4 0 ∧ bits v 4 0 ≤ 28)
    ∧ (∃ (lane : Nat) (s : State), s.mode lane ≠ 0 ∧ s.portBase lane = lane ∧ s.on (fLn_FEC_STAT_ALIGN lane) = true)
    ∧ (∃ (lane : Nat) (s : State), lane < 8 ∧ s.on (fLn_PRBS_STAT_CHK lane) = true ∧ s.on (fLn_PRBS_STAT_SYNC lane) = true)
    ∧ (∃ (lane : Nat) (s : State), s.awake = true ∧ lane < 8 ∧ s.testing lane = false ∧ s.on (fLn_CTL_SRST lane) = false ∧
      s.mode lane = 0 ∧ (∀ b c, b < 8 → (s.lane b).modeCmd = some c → lane ∉ namedLanes b c.width) ∧ (s.lane
      lane).loopCmd = none ∧ (s.lane lane).trainCmd = none ∧ (s.lane lane).express = [] ∧ (s.lane lane).media = [] ∧
      (s.lane lane).host = [] ∧ s.fld (fLn_CAL_STAT_PHASE lane) ≠ 1)
    ∧ (∃ (lane : Nat) (s : State), s.on (fLn_CTL_SRST lane) = true ∧ (s.lane lane).srst = [lane]) :=
  ⟨⟨7, List.replicate 543 0 ++ [5], List.replicate 544 0, [543], w A (fLn_RX_STAT_LOCK 7) 1, by decide +kernel⟩,
   ⟨7, farWord, w A (fLn_RX_STAT_LOCK 7) 1, by decide +kernel⟩,
   ⟨7, lm 7 0 0 0, by decide +kernel⟩,
   ⟨7, md A 7 ({ · with degCw := 2 ^ 28, degC := 2 ^ 38 }), by decide +kernel⟩,
   ⟨7, md A 7 ({ · with degCw := 2 ^ 28 }), by decide +kernel⟩,
   ⟨7, 0x80000010#32, md A 7 ({ · with hist := [(1, 1)] }), by decide +kernel⟩,
   ⟨7, w A (fLn_FEC_STAT_ALIGN 7) 1, by decide +kernel⟩,
   ⟨7, w (w A (fLn_PRBS_STAT_CHK 7) 1) (fLn_PRBS_STAT_SYNC 7) 1, by decide +kernel⟩,
   ⟨7, lm 7 0 0 0, by decide +kernel, by decide +kernel, by decide +kernel, by decide +kernel, by decide +kernel, (fun _ c
    _ h => nomatch (show (none : Option ModeCmd) = some c from h)), by decide +kernel⟩,
   ⟨7, md (w A (fLn_CTL_SRST 7) 1) 7 ({ · with srst := [7] }), by decide +kernel⟩⟩

end Sys2Proof.Tests.W7

namespace Sys2Proof.Tests.W8

def shx (st : Nat) (f : Shuttle → Shuttle) : State := (w (w (w g (fSh_STAT_STATE 5) st) (fSh_PC_PC 5) 65535) (fSh_STAT_STATE 5) st).modShut 5 f
/-- shuttle 5 runs, with a word of class `c` at its PC and registers `l` -/
def Q8 (c : Nat) (l : Tab SReg Nat) : State := shx stRun ({ · with regs := l, p := [(65535, BitVec.ofNat 48 (c * 2 ^ 44)), (0, 0x100000000000#48)] })
def dm (x : BitVec 48) : State := (Q8 3 [(.a 3, 2^55 - 1), (.d 1, 2^23), (.d 3, 7), (.d 4, 9)]).modShut 5 ({ · with p := [(65535, x)] })
def img : List Byte := pk 7424 [(0, [0x53, 0x48, 0x54, 0x31, 1, 0, 7, 0]), (8, leBytes 4 1), (7360, [1,2,3,4,5,6])]
def st0 : OutStr := { bolt := 9, chans := 2, ref := none, fifo := [] , next := some 0 }
def gbs : State := { (Q8 1 []) with beam := { gb.beam with bolts := [(9, { bound := true, ofs := 64, size := 448, slots := 50, ever := true, kind := 1 })] } }
def gbt : State := (List.range 16).foldl (fun s k => w s (fBm_STAT_TRAINED k) 1) gbs
def gbx (st : Nat) (f : Shuttle → Shuttle) : State := w (gbt.modShut 5 f) (fSh_STAT_STATE 5) st
def blkS : List Byte := List.replicate 128 0
/-- stream 7 to bolt 9, of two channels, without a reference -/
def blkS9 : List Byte := pk 128 [(112, leBytes 2 (0x8000 + 9) ++ [2, 0xF0])]

theorem witness_ShuttlesAreCommanded :
    (∃ (h : Hdr) (sh : Nat) (img : Option (List Byte)) (s : State), s.takesPf (.shtLoad h sh img) = true ∧ 4 ≤ sh ∧ sh < 96 ∧
      s.testing (24 + sh / 8) = false ∧ s.shState sh ≠ stRun ∧ s.shBusy sh = false)
    ∧ (∃ (h : Hdr) (sh : Nat) (b : List Byte) (r : List (Hdr × Nat × Option (List Byte))) (s : State), s.sht.loads = (h, sh,
      some b) :: r ∧ h.qp < 256 ∧ s.bme (s.ownerOf h.qp) = true)
    ∧ (∃ (h : Hdr) (sh : Nat) (resume : Bool) (b : List Byte) (s : State), s.takesPf (.shtStart h sh resume false 0 0 (some b))
      = true ∧ 4 ≤ sh ∧ sh < 96 ∧ s.testing (24 + sh / 8) = false ∧ (s.shState sh = stHalted ∨ resume = false ∧
      (s.shState sh = stLoaded ∨ s.shState sh = stFault)) ∧ s.shBusy sh = false ∧ (s.shut sh).entry < 65536 ∧ firstFail
      (startBlockChecks b false 0 0 s) = none)
    ∧ (∃ (h : Hdr) (sh : Nat) (resume : Bool) (b : List Byte) (s : State), s.takesPf (.shtStart h sh resume false 0 0 (some b))
      = true ∧ 4 ≤ sh ∧ sh < 96 ∧ s.testing (24 + sh / 8) = false ∧ (s.shState sh = stHalted ∨ resume = false ∧
      (s.shState sh = stLoaded ∨ s.shState sh = stFault)) ∧ s.shBusy sh = false ∧ (s.shut sh).entry < 65536 ∧ firstFail
      (startBlockChecks b false 0 0 s) = none ∧ startStreams b ≠ [])
    ∧ (∃ (h : Hdr) (sh k c : Nat) (resume : Bool) (b : List Byte) (s : State), s.takesPf (.shtStart h sh resume true k c (some
      b)) = true ∧ 4 ≤ sh ∧ sh < 96 ∧ s.testing (24 + sh / 8) = false ∧ (s.shState sh = stHalted ∨ resume = false ∧
      (s.shState sh = stLoaded ∨ s.shState sh = stFault)) ∧ s.shBusy sh = false ∧ firstFail (startBlockChecks b true k c
      s) = none ∧ startStreams b ≠ [])
    ∧ (∃ (h : Hdr) (sh : Nat) (s : State), s.takesPf (.shtStop h sh) = true ∧ 4 ≤ sh ∧ sh < 96 ∧ s.testing (24 + sh / 8) =
      false ∧ s.shState sh = stRun ∧ (s.shut sh).start = none)
    ∧ (∃ (h : Hdr) (sh : Nat) (s : State), s.takesPf (.shtStop h sh) = true ∧ 4 ≤ sh ∧ sh < 96 ∧ s.testing (24 + sh / 8) =
      false ∧ s.shState sh = stRun ∧ (s.shut sh).start = none ∧ (s.shut sh).strs ≠ [])
    ∧ (∃ (h : Hdr) (sh : Nat) (c : StartCmd) (s : State), s.takesPf (.shtStop h sh) = true ∧ 4 ≤ sh ∧ sh < 96 ∧ s.testing (24 +
      sh / 8) = false ∧ (s.shut sh).start = some c ∧ c.hdr.qp < 256 ∧ s.ownerOf c.hdr.qp = 0)
    ∧ (∃ (h : Hdr) (sh w0 w1 : Nat) (s : State), s.takesPf (.shtMsg h sh w0 w1) = true ∧ 4 ≤ sh ∧ sh < 96 ∧ s.testing (24 + sh
      / 8) = false ∧ s.shState sh ≠ stOff ∧ (s.shut sh).mbox.length < 16)
    ∧ (∃ (sh : Nat) (v : W32) (s : State), s.awake = true ∧ 4 ≤ sh ∧ sh < 96 ∧ s.testing (24 + sh / 8) = false ∧ v.getLsbD 0 =
      true ∧ (s.shut sh).start = none) :=
  ⟨⟨h0, 95, none, tk (.shtLoad h0 95 none) g, by decide +kernel⟩,
   ⟨h0, 5, img, [], { g with sht := { g.sht with loads := [(h0, 5, some img)] } }, rfl, by decide, by decide +kernel⟩,
   ⟨h0, 5, false, blkS, tk (.shtStart h0 5 false false 0 0 (some blkS)) (shx stLoaded ({ · with entry := 9, mrInit := 1, regs := [(.d 1, 3)], stack := [5] })), by decide +kernel⟩,
   ⟨h0, 5, true, blkS9, tk (.shtStart h0 5 true false 0 0 (some blkS9)) (gbx stHalted id), by decide +kernel⟩,
   ⟨h0, 5, 3, 7, true, blkS9, tk (.shtStart h0 5 true true 3 7 (some blkS9)) ((gbx stHalted id).setGen 3 { d := some ⟨50, 1, 1000, 0, 0⟩ }), by decide +kernel⟩,
   ⟨h0, 5, tk (.shtStop h0 5) (shx stRun ({ · with fifos := [(1, [⟨1, true, false, 0⟩])] })), by decide +kernel⟩,
   ⟨h0, 5, tk (.shtStop h0 5) (gbx stRun ({ · with strs := [(7, { st0 with fifo := [(3, 5)] })] })), by decide +kernel⟩,
   ⟨h0, 5, ⟨h0, true, 3, 7, 0, [(7, st0)]⟩, tk (.shtStop h0 5) (gbx stRun ({ · with start := some ⟨h0, true, 3, 7, 0, [(7, st0)]⟩ })), by decide +kernel⟩,
   ⟨h0, 5, 2 ^ 24 - 1, 7, tk (.shtMsg h0 5 (2 ^ 24 - 1) 7) (shx stRun ({ · with mbox := List.replicate 15 (1, 2) })), by decide +kernel⟩,
   ⟨5, 0xFFFFFFFF#32, gbx stRun ({ · with fifos := [(1, [⟨1, true, false, 0⟩])], stack := [1], strs := [(7, st0)] }), by decide +kernel⟩⟩

theorem witness_ShuttleArithmetic :
    (∃ (sh i j shift : Nat) (op : AluOp) (s : State), s.runsOn sh 1 = true ∧ i < 4 ∧ j < 4 ∧ shift < 56 ∧ op ≠ .rnd)
    ∧ (∃ (sh i j shift : Nat) (op : AluOp) (s : State), s.runsOn sh 1 = true ∧ i < 4 ∧ j < 4 ∧ shift < 56 ∧ op ≠ .rnd ∧ op =
      .cmp)
    ∧ (∃ (sh i j shift : Nat) (op : AluOp) (s : State), s.runsOn sh 1 = true ∧ i < 8 ∧ j < 8 ∧ shift < 56 ∧ op ≠ .cmp ∧ fitsD
      op (aluExact op (s.sD sh i) (s.sD sh j) shift) = true)
    ∧ (∃ (sh acc d1 d2 : Nat) (s : State), s.runsOn sh 2 = true ∧ acc < 4 ∧ d1 < 8 ∧ d2 < 8)
    ∧ (∃ (sh acc d1 d2 d ptr : Nat) (s : State), s.runsOn sh 2 = true ∧ acc < 4 ∧ d1 < 8 ∧ d2 < 8 ∧ d < 8 ∧ ptr < 4)
    ∧ (∃ (sh : Nat) (w : BitVec 48) (s : State), s.runsOn sh 3 = true ∧ s.pWord sh (s.shPc sh) = w ∧ wordBits w 16 13 = 0 ∧
      wordBits w 3 0 = 0)
    ∧ (∃ (sh : Nat) (w : BitVec 48) (s : State), s.runsOn sh 3 = true ∧ s.pWord sh (s.shPc sh) = w ∧ wordBits w 16 13 = 0 ∧
      wordBits w 3 0 = 0 ∧ loadsClash (dualXfer (wordBits w 25 13)) (dualXfer (wordBits w 12 0)) = some 0)
    ∧ (∃ (sh : Nat) (s : State), classBad (s.pWord sh (s.shPc sh)) = false ∧ insClass (s.pWord sh (s.shPc sh)) ≠ 1) :=
  ⟨⟨5, 0, 3, 0, .add, Q8 1 [(.a 0, 2^55 - 1), (.a 3, 2^55 - 1), (.mr, 1)], by decide +kernel⟩,
   ⟨5, 0, 3, 0, .cmp, Q8 1 [(.a 0, 2^55 - 1), (.a 3, 2^55 - 1), (.sr, 16)], by decide +kernel⟩,
   ⟨5, 7, 1, 0, .add, Q8 1 [(.d 7, 2^24 - 1), (.d 1, 1)], by decide +kernel⟩,
   ⟨5, 3, 1, 2, Q8 2 [(.a 3, 2^55 - 1), (.d 1, 2^23), (.d 2, 2^23)], by decide +kernel⟩,
   ⟨5, 3, 1, 1, 1, 2, Q8 2 [(.a 3, 2^55 - 1), (.d 1, 2^23), (.py 2, 7)], by decide +kernel⟩,
   ⟨5, 0x3ABCDC000000#48, dm 0x3ABCDC000000#48, by decide +kernel⟩,
   ⟨5, 0x3ABCDE001000#48, dm 0x3ABCDE001000#48, by decide +kernel⟩,
   ⟨5, Q8 2 [], by decide +kernel⟩⟩

theorem witness_ShuttleTransfersAndMessages :
    (∃ (sh i : Nat) (s : State), s.runsOn sh 4 = true ∧ i < 8)
    ∧ (∃ (sh i j : Nat) (s : State), s.runsOn sh 4 = true ∧ i < 4 ∧ j < 8)
    ∧ (∃ (sh i ptr : Nat) (y : Bool) (s : State), s.runsOn sh 4 = true ∧ i < 8 ∧ ptr < 4 ∧ s.sv sh (ptrRegs y ptr).2.2.2 = 0)
    ∧ (∃ (sh i ptr : Nat) (s : State), s.runsOn sh 4 = true ∧ i < 8 ∧ ptr < 4)
    ∧ (∃ (sh d fifo : Nat) (w : FeedWord) (r : List FeedWord) (s : State), s.runsOn sh 7 = true ∧ d < 8 ∧ fifo < 8 ∧ Tab.get []
      (s.shut sh).fifos fifo = w :: r ∧ (∀ e ∈ (s.shut sh).strs, e.2.ref ≠ some fifo))
    ∧ (∃ (sh d fifo o : Nat) (w : FeedWord) (r : List FeedWord) (x : OutStr) (s : State), s.runsOn sh 7 = true ∧ d < 8 ∧ fifo <
      8 ∧ Tab.get [] (s.shut sh).fifos fifo = w :: r ∧ s.str sh o = some x ∧ ((s.shut sh).strs.map (·.1)).Nodup ∧ x.ref
      = some fifo)
    ∧ (∃ (sh d fifo o : Nat) (w : FeedWord) (r : List FeedWord) (x : OutStr) (s : State), s.runsOn sh 7 = true ∧ d < 8 ∧ fifo <
      8 ∧ Tab.get [] (s.shut sh).fifos fifo = w :: r ∧ s.str sh o = some x ∧ ((s.shut sh).strs.map (·.1)).Nodup ∧ x.ref
      = some fifo)
    ∧ (∃ (sh d fifo : Nat) (s : State), s.runs sh 7 = true ∧ d < 8 ∧ fifo < 8 ∧ Tab.get [] (s.shut sh).fifos fifo = [])
    ∧ (∃ (sh o d : Nat) (x : OutStr) (s : State), s.runsOn sh 7 = true ∧ o < 8 ∧ d < 8 ∧ s.str sh o = some x ∧ s.strReady x =
      true)
    ∧ (∃ (sh o : Nat) (x : OutStr) (b : OutBlock) (r : List OutBlock) (s : State), s.str sh o = some x ∧ x.done = b :: r ∧
      (s.bolt x.bolt).slotAt b.idx % 64 = 0)
    ∧ (∃ (sh dest d1 d2 : Nat) (s : State), s.runsOn sh 8 = true ∧ 4 ≤ dest ∧ dest < 96 ∧ dest ≠ sh ∧ d1 < 8 ∧ d2 < 8 ∧ (s.shut
      dest).mbox.length < 16)
    ∧ (∃ (sh mask : Nat) (s : State), s.runsOn sh 8 = true ∧ mask ≠ 0 ∧ mask < 16384 ∧ Nat.land mask (s.waitBits sh) ≠ 0) :=
  ⟨⟨5, 7, Q8 4 [], by decide +kernel⟩,
   ⟨5, 3, 7, Q8 4 [(.d 7, 2^23)], by decide +kernel⟩,
   ⟨5, 7, 3, true, Q8 4 [(.py 3, 16383)], by decide +kernel⟩,
   ⟨5, 7, 3, Q8 4 [(.px 3, 16383), (.d 7, 2^24-1)], by decide +kernel⟩,
   ⟨5, 7, 7, ⟨2^24+1, true, false, 3⟩, [], (Q8 7 []).modShut 5 ({ · with fifos := [(7, [⟨2^24+1, true, false, 3⟩])] }), by decide +kernel⟩,
   ⟨5, 7, 7, 2, ⟨2^24+1, true, false, 3⟩, [], { st0 with ref := some 7, next := none }, (Q8 7 []).modShut 5 ({ · with fifos := [(7, [⟨2^24+1, true, false, 3⟩])], strs := [(1, st0), (2, { st0 with ref := some 7, next := none })] }), by decide +kernel⟩,
   ⟨5, 7, 7, 2, ⟨1, false, true, 100⟩, [⟨5, true, false, 3⟩], { st0 with ref := some 7, fifo := [(1, 9)] }, (Q8 7 []).modShut 5 ({ · with fifos := [(7, [⟨1, false, true, 100⟩, ⟨5, true, false, 3⟩])], strs := [(2, { st0 with ref := some 7, fifo := [(1, 9)] })] }), by decide +kernel⟩,
   ⟨5, 7, 7, Q8 7 [], by decide +kernel⟩,
   ⟨5, 7, 1, st0, (Q8 7 [(.d 1, 2^23)]).modShut 5 ({ · with strs := [(7, st0)] }), by decide +kernel⟩,
   ⟨5, 7, { st0 with done := [⟨3, 0, [1,2,3], 0, 5, true⟩] }, ⟨3, 0, [1,2,3], 0, 5, true⟩, [], gbt.modShut 5 ({ · with strs := [(7, { st0 with done := [⟨3, 0, [1,2,3], 0, 5, true⟩] })] }), by decide +kernel⟩,
   ⟨5, 95, 1, 7, Q8 8 [(.d 1, 3)], by decide +kernel⟩,
   ⟨5, 16383, (Q8 8 []).modShut 5 ({ · with pend := 3 }), by decide +kernel⟩⟩

theorem witness_ShuttleFlow :
    (∃ (sh n len : Nat) (s : State), s.runsOn sh 5 = true ∧ 1 ≤ n ∧ n < 65536 ∧ 1 ≤ len ∧ len ≤ 4096)
    ∧ (∃ (sh len : Nat) (s : State), s.runsOn sh 5 = true ∧ 1 ≤ len ∧ len ≤ 4096)
    ∧ (∃ (sh i : Nat) (l : LoopLvl) (s : State), s.runs sh 4 = true ∧ (s.shut sh).rep = none ∧ (s.shut sh).loops = [l] ∧
      l.depth = (s.shut sh).stack.length ∧ l.last = s.shPc sh ∧ l.first < 65536 ∧ 2 ≤ s.sv sh (.lc 0) ∧ s.sv sh (.lc 0)
      < 65536 ∧ i < 8)
    ∧ (∃ (sh k n : Nat) (dat : Bool) (s : State), s.runsOn sh 5 = true ∧ (dat = true → k < 8) ∧ n = (if dat then s.sv sh (.d k)
      % 65536 else k) ∧ 1 ≤ n ∧ n < 65536 ∧ classRepeats (s.pWord sh ((s.shPc sh + 1) % 65536)) = true)
    ∧ (∃ (sh k n : Nat) (dat : Bool) (s : State), s.runsOn sh 5 = true ∧ (dat = true → k < 8) ∧ n = (if dat then s.sv sh (.d k)
      % 65536 else k) ∧ 1 ≤ n ∧ n < 65536 ∧ classRepeats (s.pWord sh ((s.shPc sh + 1) % 65536)) = true)
    ∧ (∃ (sh i n : Nat) (s : State), s.runs sh 4 = true ∧ (s.shut sh).rep = some n ∧ 2 ≤ n ∧ i < 8)
    ∧ (∃ (sh target : Nat) (s : State), s.runsOn sh 6 = true ∧ target < 65536)
    ∧ (∃ (sh target : Nat) (s : State), s.runsOn sh 6 = true ∧ target < 65536 ∧ (s.shut sh).stack.length < 16)
    ∧ (∃ (sh a : Nat) (r : List Nat) (s : State), s.runsOn sh 6 = true ∧ (s.shut sh).stack = a :: r ∧ a < 65536)
    ∧ (∃ (sh : Nat) (s : State), s.runsOn sh 0 = true ∧ (s.shut sh).strs = [])
    ∧ (∃ (sh : Nat) (s : State), s.runsOn sh 0 = true ∧ (s.shut sh).strs = [] ∧ sh < 4)
    ∧ (∃ (sh : Nat) (s : State), sh < 96 ∧ s.sv sh .tmr ≠ 0 ∧ s.shGated sh = false)
    ∧ (∃ (sh : Nat) (s : State), sh < 4 ∧ s.shState sh = stFault ∧ (s.shut sh).entry < 65536)
    ∧ (∃ (sh : Nat) (s : State), sh < 96 ∧ 4 ≤ sh ∧ s.shState sh = stRun ∧ s.shGated sh = false ∧ (s.shut sh).strs = [] ∧
      s.runsOn sh 1 = true)
    ∧ (∃ (sh : Nat) (s : State), sh < 96 ∧ 4 ≤ sh ∧ s.shState sh = stRun ∧ s.shGated sh = false ∧ (s.shut sh).strs = [] ∧
      classBad (s.pWord sh (s.shPc sh)) = true)
    ∧ (∃ (sh : Nat) (s : State), sh < 96 ∧ 4 ≤ sh ∧ s.shState sh = stRun ∧ s.shGated sh = false ∧ (s.shut sh).strs = [] ∧
      s.runsOn sh 5 = true ∧ classRepeats (s.pWord sh ((s.shPc sh + 1) % 65536)) = false)
    ∧ (∃ (sh : Nat) (s : State), sh < 96 ∧ 4 ≤ sh ∧ s.shState sh = stRun ∧ s.shGated sh = false ∧ (s.shut sh).strs = [] ∧
      s.runsOn sh 6 = true ∧ (s.shut sh).stack = [])
    ∧ (∃ (sh : Nat) (s : State), sh < 96 ∧ 4 ≤ sh ∧ s.shState sh = stRun ∧ s.shGated sh = false ∧ (s.shut sh).strs = [] ∧
      s.runsOn sh 8 = true)
    ∧ (∃ (sh : Nat) (s : State), sh < 96 ∧ 4 ≤ sh ∧ s.shState sh = stRun ∧ s.shGated sh = false ∧ (s.shut sh).strs = [] ∧
      readsBadWord sh (.wait ⟨sh, true⟩ 1) = true) :=
  ⟨⟨5, 65535, 4096, Q8 5 [], by decide +kernel⟩,
   ⟨5, 4096, Q8 5 [], by decide +kernel⟩,
   ⟨5, 1, ⟨9, 65535, 0⟩, (Q8 4 [(.lc 0, 2)]).modShut 5 ({ · with loops := [⟨9, 65535, 0⟩] }), by decide +kernel⟩,
   ⟨5, 65535, 65535, false, Q8 5 [], by decide +kernel⟩,
   ⟨5, 7, 1, true, Q8 5 [(.d 7, 0x50001)], by decide +kernel⟩,
   ⟨5, 1, 2, (Q8 4 []).modShut 5 ({ · with rep := some 2 }), by decide +kernel⟩,
   ⟨5, 65535, Q8 6 [(.sr, 1)], by decide +kernel⟩,
   ⟨5, 65535, (Q8 6 []).modShut 5 ({ · with stack := List.replicate 15 3 }), by decide +kernel⟩,
   ⟨5, 65535, [1], (Q8 6 []).modShut 5 ({ · with stack := [65535, 1] }), by decide +kernel⟩,
   ⟨5, (Q8 0 []).modShut 5 ({ · with fifos := [(7, [⟨2^24+1, true, false, 3⟩])] }), by decide +kernel⟩,
   ⟨3, w g (fSh_STAT_STATE 3) stRun, by decide +kernel⟩,
   ⟨95, g.modShut 95 ({ · with regs := [(.tmr, 5)] }), by decide +kernel⟩,
   ⟨3, (w g (fSh_STAT_STATE 3) stFault).modShut 3 ({ · with regs := [(.d 1, 5)], entry := 65535 }), by decide +kernel⟩,
   ⟨5, Q8 1 [(.d 1, 3)], by decide +kernel⟩,
   ⟨5, Q8 15 [(.d 1, 3)], by decide +kernel⟩,
   ⟨5, (Q8 5 []).modShut 5 ({ · with p := [(65535, 0x500000000000#48)] }), by decide +kernel⟩,
   ⟨5, Q8 6 [], by decide +kernel⟩,
   ⟨5, Q8 8 [], by decide +kernel⟩,
   ⟨5, Q8 7 [], by decide +kernel⟩⟩

end Sys2Proof.Tests.W8

namespace Sys2Proof.Tests.W9

def dcn (n : Nat) (st pc : Nat) (f : DraftCh) : State := (w (w (w g (fDrf_HWIN_LO_EN 0) 1) (fDrf_DC_STAT_STATE n) st) (fDrf_DC_STAT_PC n) pc).setDc n f
def mv : List Byte := pk 16 [(0, [1]), (1, leBytes 3 64), (4, leBytes 6 (2^46)), (10, leBytes 6 0)]
def fl : List Byte := pk 16 [(0, [2]), (2, leBytes 6 128), (8, leBytes 5 300), (13, [7])]
def lpb : List Byte := pk 16 [(0, [3]), (2, leBytes 2 0), (4, leBytes 2 5), (8, leBytes 4 64), (12, leBytes 4 (2^32 - 64))]
def wt (k : Nat) (m c : Nat) (tmo : Nat) : List Byte := pk 16 [(0, [4, BitVec.ofNat 8 k, BitVec.ofNat 8 m, BitVec.ofNat 8 c]), (4, leBytes 4 0), (8, leBytes 4 tmo)]
def sg (k m : Nat) : List Byte := pk 16 [(0, [5, BitVec.ofNat 8 k, BitVec.ofNat 8 m]), (4, leBytes 4 3), (8, leBytes 6 64)]
def en : List Byte := pk 16 [(0, [6])]
def prog : List Byte := fl ++ lpb ++ en
def P (b : List Byte) : DraftCh := { hdr := some h0, prog := [en, b, en] }
/-- check-value channel 15 snoops draft channel 31 -/
def ck31 : State := { (g.setReg (rCk_CTL 15) (0x80001F11#32)) with ck := [(15, ⟨5, 9⟩)] }
def fx (p : Nat) : DraftXfer := ⟨none, 128, 300, p, 7, false, false, []⟩
def two : State := (w (w (dcn 31 1 0 { P fl with xfer := some (fx 0) }) (fDrf_DC_STAT_STATE 3) 1) fDrf_STAT_RUNNING 2).setDc 3 { (P en) with hdr := some { h0 with cid := 3 } }

theorem witness_DraftsAreCommanded :
    (∃ (h : Hdr) (chan pri len : Nat) (b : List Byte) (s : State), s.takesPf (.draftRun h chan pri len (some b)) = true ∧
      s.testing 37 = false ∧ chan < 32 ∧ pri ≤ 3 ∧ 16 ≤ len ∧ len ≤ 65536 ∧ len % 16 = 0 ∧ s.fld (fDrf_DC_STAT_STATE
      chan) = 0 ∧ s.on fDrf_STAT_STOPPED = false ∧ len ≤ b.length ∧ progStatus (progSlots len b) = none)
    ∧ (∃ (h : Hdr) (chan pri len st : Nat) (b : List Byte) (s : State), s.takesPf (.draftRun h chan pri len (some b)) = true ∧
      s.testing 37 = false ∧ chan < 32 ∧ pri ≤ 3 ∧ 16 ≤ len ∧ len ≤ 65536 ∧ len % 16 = 0 ∧ s.fld (fDrf_DC_STAT_STATE
      chan) = 0 ∧ s.on fDrf_STAT_STOPPED = false ∧ len ≤ b.length ∧ progStatus (progSlots len b) = some st ∧ st ≠ eOk)
    ∧ (∃ (h h0 : Hdr) (chan : Nat) (s : State), s.takesPf (.draftAbort h chan) = true ∧ s.testing 37 = false ∧ chan < 32 ∧
      s.dcRuns chan = true ∧ (s.dc chan).abort = none ∧ (s.dc chan).hdr = some h0 ∧ (s.dc chan).lastHost = none ∧ h0.qp
      < 256 ∧ s.bme (s.ownerOf h0.qp) = true)
    ∧ (∃ (h h0 : Hdr) (chan : Nat) (s : State), s.takesPf (.draftAbort h chan) = true ∧ s.testing 37 = false ∧ chan < 32 ∧
      s.dcRuns chan = true ∧ (s.dc chan).abort = none ∧ (s.dc chan).hdr = some h0 ∧ (s.dc chan).lastHost = none ∧ h0.qp
      < 256 ∧ s.bme (s.ownerOf h0.qp) = true ∧ s.dcResidue chan ≠ 0)
    ∧ (∃ (v : W32) (s : State), s.awake = true ∧ s.testing 37 = false ∧ v.getLsbD 0 = true ∧ v.getLsbD 1 = false ∧ s.fld
      fDrf_STAT_RUNNING = 0)
    ∧ (∃ (v : W32) (s : State), s.awake = true ∧ s.testing 37 = false ∧ v.getLsbD 0 = false ∧ v.getLsbD 1 = true) :=
  ⟨⟨h0, 31, 3, 48, prog, tk (.draftRun h0 31 3 48 (some prog)) ck31, by decide +kernel⟩,
   ⟨h0, 31, 3, 16, (progStatus (progSlots 16 (List.replicate 16 0))).getD 0, List.replicate 16 0, tk (.draftRun h0 31 3 16
    (some (List.replicate 16 0))) g, by decide +kernel⟩,
   ⟨{ h0 with cid := 9 }, h0, 31, tk (.draftAbort ({ h0 with cid := 9 }) 31) (w (dcn 31 1 1 (P lpb)) fDrf_STAT_RUNNING 1), by decide +kernel⟩,
   ⟨{ h0 with cid := 9 }, h0, 31, tk (.draftAbort ({ h0 with cid := 9 }) 31) (w (dcn 31 1 1 (P fl)) fDrf_STAT_RUNNING 1), by decide +kernel⟩,
   ⟨1#32, w (dcn 31 0 7 {}) fDrf_STAT_STOPPED 1, by decide +kernel⟩,
   ⟨2#32, w g fDrf_STAT_STOPPED 1, by decide +kernel⟩⟩

theorem witness_DraftInstructions :
    (∃ (chan : Nat) (b : List Byte) (s : State), s.dcSlot chan 1 = some b ∧ (field b 0 1).testBit 6 = false ∧ rowFail
      (xferChecks chan (moveXfer (s.dc chan) b) s) = none)
    ∧ (∃ (chan : Nat) (b : List Byte) (s : State), s.dcSlot chan 2 = some b ∧ rowFail (xferChecks chan (fillXfer (s.dc chan) b)
      s) = none)
    ∧ (∃ (chan : Nat) (b : List Byte) (s : State), s.dcSlot chan 3 = some b ∧ (∀ l ∈ (s.dc chan).stack.head?, l.slot ≠ s.dcPc
      chan) ∧ 2 ≤ field b 4 2 ∧ (s.dc chan).stack.length < 4)
    ∧ (∃ (chan : Nat) (b : List Byte) (l : DraftLvl) (r : List DraftLvl) (s : State), s.dcSlot chan 3 = some b ∧ (s.dc
      chan).stack = l :: r ∧ l.slot = s.dcPc chan ∧ l.cnt < field b 4 2)
    ∧ (∃ (chan : Nat) (b : List Byte) (l : DraftLvl) (r : List DraftLvl) (s : State), s.dcSlot chan 3 = some b ∧ (s.dc
      chan).stack = l :: r ∧ l.slot = s.dcPc chan ∧ field b 4 2 ≤ l.cnt ∧ r.length < 8)
    ∧ (∃ (chan : Nat) (b : List Byte) (s : State), s.dcSlot chan 5 = some b ∧ field b 1 1 = 0 ∧ field b 2 1 < 32)
    ∧ (∃ (chan : Nat) (b : List Byte) (s : State), s.dcSlot chan 5 = some b ∧ field b 1 1 = 1 ∧ 4 ≤ field b 2 1 ∧ field b 2 1 ≤
      95 ∧ s.testing (24 + field b 2 1 / 8) = false ∧ (s.shut (field b 2 1)).mbox.length < 16 ∧ s.shState (field b 2 1)
      ≠ stOff)
    ∧ (∃ (chan : Nat) (b : List Byte) (s : State), s.dcSlot chan 5 = some b ∧ field b 1 1 = 2 ∧ rowFail (signalChecks b (dAdd
      (field b 8 6) (s.dc chan).sums.2) s) = none ∧ s.bme 0 = true)
    ∧ (∃ (chan : Nat) (b : List Byte) (s : State), chan < 32 ∧ s.dcSlot chan 4 = some b)
    ∧ (∃ (chan f : Nat) (b : List Byte) (s : State), chan < 32 ∧ s.dcWait chan = some b ∧ field b 1 1 = 1 ∧ field b 2 1 = f ∧ f
      < 32 ∧ (s.reg rDrf_FLAG).getLsbD f = true ∧ (∀ e, e < chan → s.dcWait e = none))
    ∧ (∃ (chan : Nat) (b : List Byte) (s : State), chan < 32 ∧ s.dcWait chan = some b ∧ (field b 1 1 = 2 ∨ field b 1 1 = 0 ∧
      (s.dc chan).hit = true ∨ field b 1 1 = 3 ∧ (s.reg rDrf_SHFLAG).getLsbD chan = true))
    ∧ (∃ (chan : Nat) (b : List Byte) (h : Hdr) (s : State), chan < 32 ∧ s.dcWait chan = some b ∧ field b 8 4 ≠ 0 ∧ s.waitHolds
      chan b = false ∧ (s.dc chan).lastHost = none ∧ (s.dc chan).hdr = some h ∧ (s.dc chan).abort = none ∧ (s.dc
      chan).xfer = none ∧ h.qp < 256 ∧ s.bme (s.ownerOf h.qp) = true) :=
  ⟨⟨31, mv, { (List.range 16).foldl (fun s k => w s (fBm_STAT_TRAINED k) 1) (dcn 31 1 1 (P mv)) with beam := gb.beam }, by decide +kernel⟩,
   ⟨31, fl, (dcn 31 1 1 (P fl)), by decide +kernel⟩,
   ⟨31, lpb, (dcn 31 1 1 (P lpb)), by decide +kernel⟩,
   ⟨31, lpb, ⟨1, 4, 5, 6⟩, [⟨2, 1, 0, 0⟩], (dcn 31 1 1 { P lpb with stack := [⟨1, 4, 5, 6⟩, ⟨2, 1, 0, 0⟩] }), by decide +kernel⟩,
   ⟨31, lpb, ⟨1, 5, 5, 6⟩, [⟨2, 1, 0, 0⟩], (dcn 31 1 1 { P lpb with stack := [⟨1, 5, 5, 6⟩, ⟨2, 1, 0, 0⟩] }), by decide +kernel⟩,
   ⟨31, pk 16 [(0, [5, 0, 31])], dcn 31 1 1 (P (pk 16 [(0, [5, 0, 31])])), by decide +kernel⟩,
   ⟨31, sg 1 95, w (dcn 31 1 1 (P (sg 1 95))) (fSh_STAT_STATE 95) 1, by decide +kernel⟩,
   ⟨31, sg 2 0, (dcn 31 1 1 (P (sg 2 0))), by decide +kernel⟩,
   ⟨31, wt 1 0 0 0, (dcn 31 1 1 (P (wt 1 0 0 0))), by decide +kernel⟩,
   ⟨31, 30, wt 1 30 1 0, w (dcn 31 2 1 (P (wt 1 30 1 0))) fDrf_FLAG_FLAG (2^30), by decide +kernel⟩,
   ⟨31, wt 2 0 0 0, (dcn 31 2 1 (P (wt 2 0 0 0))), by decide +kernel⟩,
   ⟨31, wt 1 3 0 5, h0, (dcn 31 2 1 { P (wt 1 3 0 5) with hit := true }), by decide +kernel⟩⟩

theorem witness_DraftBurstsAndEnds :
    (∃ (d : Nat) (ready : List Nat) (x : DraftXfer) (s : State), pickBurst ready s = some d ∧ (s.dc d).xfer = some x ∧
      rowFail (burstChecks d x (s.burstLen x) s) = none ∧ dSpace x.dst = 0 ∧ x.cka = false ∧ x.cks = false ∧ x.pos +
      s.burstLen x < x.len ∧ (x.src = none ∨ ∃ a, x.src = some a ∧ dSpace a = 0 ∧ s.snooper d = none) ∧ x.src = none)
    ∧ (∃ (d : Nat) (ready : List Nat) (x : DraftXfer) (s : State), pickBurst ready s = some d ∧ (s.dc d).xfer = some x ∧
      rowFail (burstChecks d x (s.burstLen x) s) = none ∧ dSpace x.dst = 0 ∧ x.cka = false ∧ x.cks = false ∧ x.pos +
      s.burstLen x < x.len ∧ (x.src = none ∨ ∃ a, x.src = some a ∧ dSpace a = 0 ∧ s.snooper d = none) ∧ x.src ≠ none)
    ∧ (∃ (d a : Nat) (h : Hdr) (ready : List Nat) (x : DraftXfer) (s : State), d < 32 ∧ pickBurst ready s = some d ∧ (s.dc
      d).xfer = some x ∧ rowFail (burstChecks d x (s.burstLen x) s) = none ∧ x.src = some a ∧ dSpace a = 2 ∧ (s.dc
      d).hdr = some h ∧ (s.dc d).abort = none ∧ (s.dc d).lastHost = none ∧ h.qp < 256 ∧ s.bme (s.ownerOf h.qp) = true)
    ∧ (∃ (chan : Nat) (h : Hdr) (b : List Byte) (s : State), chan < 32 ∧ s.dcSlot chan 6 = some b ∧ (s.dc chan).hdr = some h ∧
      (s.dc chan).abort = none ∧ (s.dc chan).lastHost = none ∧ h.qp < 256 ∧ s.bme (s.ownerOf h.qp) = true)
    ∧ (∃ (chan a : Nat) (b : List Byte) (s : State), chan < 32 ∧ s.dcSlot chan 6 = some b ∧ (s.dc chan).lastHost = some a)
    ∧ (∃ (chan : Nat) (h : Hdr) (e : DraftEnd) (s : State), chan < 32 ∧ (s.dc chan).ended = some e ∧ (s.dc chan).rbWaits =
      false ∧ (s.dc chan).hdr = some h ∧ (s.dc chan).abort = none ∧ h.qp < 256 ∧ s.bme (s.ownerOf h.qp) = true)
    ∧ (∃ (chan addr : Nat) (h : Hdr) (x : DraftXfer) (s : State), chan < 32 ∧ s.dcRuns chan = true ∧ (s.dc chan).xfer = some x
      ∧ dSpace x.dst = 0 ∧ (s.dc chan).hdr = some h ∧ (s.dc chan).abort = none ∧ h.qp < 256 ∧ s.bme (s.ownerOf h.qp) =
      true ∧ addr < 2 ^ 64) :=
  ⟨⟨31, [31], { fx 0 with len := 1024 }, dcn 31 1 1 { P fl with xfer := some { fx 0 with len := 1024 } }, by decide +kernel, rfl, rfl, by decide +kernel, rfl, rfl, by decide +kernel, .inl rfl, rfl⟩,
   ⟨31, [31], { fx 0 with src := some 4096, len := 1024 }, dcn 31 1 1 { P fl with xfer := some { fx 0 with src := some 4096, len := 1024 } }, by decide +kernel, rfl, rfl, by decide +kernel, rfl, rfl, by decide +kernel, .inr ⟨4096, rfl, by decide, by decide +kernel⟩, nofun⟩,
   ⟨31, 2 ^ 47, h0, [31], { fx 0 with src := some (2 ^ 47) }, dcn 31 1 1 { P fl with xfer := some { fx 0 with src := some (2 ^ 47) } }, by decide, by decide +kernel, rfl, rfl, rfl, by decide, rfl, rfl, rfl, by decide, by decide +kernel⟩,
   ⟨31, h0, en, dcn 31 1 1 (P en), by decide +kernel⟩,
   ⟨31, 64, en, dcn 31 1 1 { P en with lastHost := some 64 }, by decide +kernel⟩,
   ⟨31, h0, ⟨eOk, 0, 0, 0, 5⟩, dcn 31 3 1 { P en with lastHost := some 64, ended := some ⟨eOk, 0, 0, 0, 5⟩ }, by decide +kernel⟩,
   ⟨31, 2^64 - 1, h0, fx 0, w (dcn 31 1 0 { P fl with xfer := some (fx 0) }) fDrf_STAT_RUNNING 1, by decide +kernel⟩⟩

theorem witness_CheckValuesAreKept :
    (∃ (n : Nat) (v : W32) (s : State), s.awake = true ∧ n < 16 ∧ v.getLsbD 31 = true ∧ v.getLsbD 30 = false ∧ s.on
      (fCk_CTL_EN n) = false ∧ ckCtlCheck n v s = none)
    ∧ (∃ (n : Nat) (s : State), s.awake = true ∧ n < 16 ∧ s.testing 38 = false ∧ s.ckShut n = false)
    ∧ (∃ (n : Nat) (v : W32) (s : State), s.awake = true ∧ n < 16 ∧ s.testing 38 = false ∧ s.ckShut n = false ∧ bits v 25 24 ≠
      0)
    ∧ (∃ (n : Nat) (v : W32) (s : State), s.awake = true ∧ n < 16 ∧ s.on (fCk_CTL_EN n) = true ∧ v.getLsbD 31 = true ∧
      v.getLsbD 30 = true ∧ bits v 2 0 = s.fld (fCk_CTL_POLY n) ∧ ckCtlCheck n v s = none) :=
  ⟨⟨15, 0x80000000#32, g, by decide +kernel⟩,
   ⟨15, (g.setReg (rCk_CTL 15) 0x80000000#32), by decide +kernel⟩,
   ⟨15, 0x03020304#32, (g.setReg (rCk_CTL 15) 0x80000000#32), by decide +kernel⟩,
   ⟨15, 0xC0000000#32, { (g.setReg (rCk_CTL 15) 0x80000000#32) with ck := [(15, ⟨5, 2^31⟩)] }, by decide +kernel⟩⟩

end Sys2Proof.Tests.W9

namespace Sys2Proof.Tests.W10

def mq : State := w g fMon_SEQ_CTL_EN 1
def mr (l : List W32) (s : State) : State := { s with mon := { s.mon with rounds := l } }
def mch (c : Nat) (h : MonCh) (s : State) : State := { s with mon := { s.mon with ch := Tab.set s.mon.ch c h } }
/-- heater 7 runs and its falling edge is the trigger, after a delay -/
def htf : State := { (w (w (w (w mq fMon_SEQ_CTL_TRIG 4) fMon_SEQ_CTL_SEL 7) fMon_SEQ_CTL_DELAY 1023) fBias_HTR_EN_EN 0x80) with bias := { htr := [(7, (1, 2))] } }
def mrd : State := w (mch 15 { inp := [7] } (mr [0x8002#32, 5#32] (w (w (w mq fMon_OW_CFG_OW_DIV 9) (fCh_CFG_EN 15) 1) (fCh_CFG_EN 1) 1))) fMon_CAL_CTL_EN 0
def chs (c : Nat) (d : Nat) : State := w (w (w g (fCh_CFG_EN c) 1) (fCh_CFG_DECIM c) d) (fCh_CFG_RS_EN c) 0
def ctr : State := mch 3 { inp := [2000], ints := [0,0,0], combs := [0,0,0] } (w (w (w (w (w (w (w (chs 3 1) (fCh_CFG_ORDER 3) 0) (fCh_CFG_SHIFT_CIC 3) 0) (fCh_ACT_HI_EN 3) 1) (fCh_HI_HI 3) 1000) (fCh_ACT_CNT 3) 1) (fCh_ACT_BIAS_MASK 3) 0x8001) (fCh_ACT_HTR_MASK 3) 0x81)
def bg : State := w (w (w (w (w g (fBias_CFG_GROUP 15) 3) (fBias_GRP_ARM 3) 1) (fBias_CODE_CODE 15) 77) (fBias_CODE_EN 15) 1) (fBias_CODE_SPAN 12) 2

theorem witness_TheMonitorConverts :
    (∃ (s : State), s.on fMon_SEQ_CTL_EN = true ∧ s.trigOn .timer = true ∧ s.mon.trigs = [] ∧ s.fld fMon_SEQ_CTL_DELAY = 0 ∧
      s.mon.rounds.length < 2)
    ∧ (∃ (g : MonTrig) (s : State), (g = .timer ∨ (∃ n, g = .htrFall n)) ∧ s.on fMon_SEQ_CTL_EN = true ∧ s.trigOn g = true ∧
      s.mon.trigs = [] ∧ s.fld fMon_SEQ_CTL_DELAY ≠ 0)
    ∧ (∃ (g : MonTrig) (s : State), (g = .timer ∨ (∃ n, g = .htrFall n)) ∧ s.on fMon_SEQ_CTL_EN = true ∧ s.trigOn g = true ∧
      s.mon.trigs = [] ∧ s.fld fMon_SEQ_CTL_DELAY ≠ 0)
    ∧ (∃ (g : MonTrig) (mask : W32) (due : Nat) (s : State), g ≠ .timer ∧ (∀ n, g ≠ .htrFall n) ∧ s.mon.trigs = [(g, mask,
      due)] ∧ s.mon.rounds.length < 2)
    ∧ (∃ (s : State), s.on fMon_SEQ_CTL_EN = true ∧ s.trigOn .timer = true ∧ s.mon.trigs = [] ∧ s.fld fMon_SEQ_CTL_DELAY = 0 ∧
      2 ≤ s.mon.rounds.length)
    ∧ (∃ (mask : W32) (r : List W32) (s : State), s.mon.trigs = [] ∧ s.mon.rounds = mask :: r ∧ s.mon.goal = none ∧ s.mon.owRun
      + 1 < s.fld fMon_OW_CFG_OW_DIV ∧ s.on fMon_CAL_CTL_EN = false ∧ s.mon.pairs = 0)
    ∧ (∃ (c : Nat) (s : State) (x y : Int), c < 4 ∧ s.on (fCh_CFG_EN c) = true ∧ s.on (fCh_CFG_RS_EN c) = false ∧ (Tab.get {}
      s.mon.ch c).inp.length = s.fld (fCh_CFG_DECIM c) ∧ s.on (fCh_ACT_HI_EN c) = false ∧ s.on (fCh_ACT_LO_EN c) = false
      ∧ (Tab.get {} s.mon.ch c).ints.length = s.fld (fCh_CFG_ORDER c) + 3 ∧ (Tab.get {} s.mon.ch c).combs.length = s.fld
      (fCh_CFG_ORDER c) + 3 ∧ (cicOut (Tab.get {} s.mon.ch c).combs (((Tab.get {} s.mon.ch c).inp.foldl cicIn (Tab.get
      {} s.mon.ch c).ints).getLastD 0)).2 = x ∧ stageShift (s.fld (fCh_CFG_SHIFT_CIC c)) x = (y, false))
    ∧ (∃ (c : Nat) (x : Int) (s : State), c < 4 ∧ s.on (fCh_CFG_EN c) = true ∧ s.on (fCh_CFG_RS_EN c) = false ∧ (Tab.get {}
      s.mon.ch c).inp = List.replicate (s.fld (fCh_CFG_DECIM c)) x ∧ s.fld (fCh_CFG_DECIM c) = 1 ∧ s.fld (fCh_CFG_ORDER
      c) = 0 ∧ (Tab.get {} s.mon.ch c).ints = [0, 0, 0] ∧ (Tab.get {} s.mon.ch c).combs = [0, 0, 0] ∧ s.fld
      (fCh_CFG_SHIFT_CIC c) = 0 ∧ s.on (fCh_ACT_HI_EN c) = true ∧ s.on (fCh_ACT_LO_EN c) = false ∧ s.sfld (fCh_HI_HI c)
      < x ∧ x < 8388608 ∧ s.fld (fCh_ACT_CNT c) ≤ (Tab.get {} s.mon.ch c).hi + 1 ∧ (Tab.get {} s.mon.ch c).hiDone =
      false ∧ s.pState < 2 ∧ s.on fPwr_STATE_TRANS = false) :=
  ⟨⟨mr [1#32] (w mq fMon_SEQ_CTL_TRIG 0), by decide +kernel⟩,
   ⟨.timer, w (w mq fMon_SEQ_CTL_TRIG 0) fMon_SEQ_CTL_DELAY 1, .inl rfl, by decide +kernel⟩,
   ⟨.htrFall 7, htf, .inr ⟨7, rfl⟩, by decide +kernel⟩,
   ⟨.stroke 3, 5#32, 9, { g with mon := { trigs := [(.stroke 3, 5#32, 9)] } }, by decide, fun _ h => by exact MonTrig.noConfusion h, rfl, by decide⟩,
   ⟨mr [1#32, 2#32] (w mq fMon_SEQ_CTL_TRIG 0), by decide +kernel⟩,
   ⟨ 0x8002#32, [5#32], mrd, by decide +kernel⟩,
   ⟨3, mch 3 { inp := [5, 6], ints := [0,0,0], combs := [0,0,20] } (chs 3 2), 1, 1, by decide +kernel⟩,
   ⟨3, 2000, ctr, by decide +kernel⟩⟩

theorem witness_BiasOutputsFollow :
    (∃ (g : Nat) (v : W32) (s : State), s.awake = true ∧ g < 4 ∧ v.getLsbD 31 = true ∧ bits v 25 24 ≠ 3 ∧ s.spanBad g = false)
    ∧ (∃ (c : Instr) (g : Nat) (s : State), g < 4 ∧ s.on (fBias_GRP_ARM g) = true ∧ (c = .biasHandover g ∧ s.fld (fBias_GRP_SRC
      g) = 0 ∨ c = .biasLoadEdge ∧ s.fld (fBias_GRP_SRC g) = 1 ∧ ∀ h, h < 4 → h ≠ g → s.on (fBias_GRP_ARM h) = false))
    ∧ (∃ (s : State), s.awake = true)
    ∧ (∃ (n : Nat) (s : State), n < 8 ∧ (s.reg rBias_HTR_EN).getLsbD n = true)
    ∧ (∃ (n : Nat) (headroom : Bool) (s : State), n < 8 ∧ (s.reg rBias_FAULT).getLsbD (if headroom then 8 + n else n) = false ∧
      (headroom = false → 64 ≤ s.actFld (fBias_CODE_CODE n)) ∧ s.on (fBias_CFG_FAULT_OFF n) = true)
    ∧ (∃ (n : Nat) (headroom : Bool) (s : State), n < 8 ∧ (s.reg rBias_FAULT).getLsbD (if headroom then 8 + n else n) = false ∧
      (headroom = false → 64 ≤ s.actFld (fBias_CODE_CODE n)) ∧ headroom = false ∧ s.on (fBias_CFG_FAULT_OFF n) = false)
    ∧ (∃ (n : Nat), n < 8)
    ∧ (∃ (v : W32) (s : State), s.awake = true ∧ v.getLsbD 0 = true) :=
  ⟨⟨3, 0x81030000#32, g, by decide +kernel⟩,
   ⟨.biasHandover 3, 3, bg, by decide +kernel⟩,
   ⟨ (w (w (w g fBias_HTR_EN_EN 0x42) (fBias_HTR_DUTY 7) 5) (fBias_HTR_PERIOD 7) 9), by decide +kernel⟩,
   ⟨7, (w (w (w g fBias_HTR_EN_EN 0x80) (fBias_HTR_DUTY 7) 5) (fBias_HTR_PERIOD 7) 9), by decide +kernel⟩,
   ⟨7, true, w g (fBias_CFG_FAULT_OFF 7) 1, by decide +kernel⟩,
   ⟨7, false, { g with act := [(rBias_CODE 7, (w g (fBias_CODE_CODE 7) 64).reg (rBias_CODE 7))] }, by decide +kernel⟩,
   ⟨7, by decide +kernel⟩,
   ⟨1#32, (w (w bg fBias_HTR_EN_EN 0x80) (fBias_GRP_SRC 0) 1), by decide +kernel⟩⟩

theorem witness_ModulesAreManaged :
    (∃ (n : Nat) (v : W32) (s : State), s.awake = true ∧ n < 8 ∧ v.getLsbD 31 = true ∧ s.on (fMgt_STAT_BUSY n) = false ∧ 1 ≤
      bits v 7 0 ∧ bits v 7 0 ≤ 128 ∧ bits v 30 29 ≠ 3 ∧ bits v 28 27 ≠ 3)
    ∧ (∃ (n : Nat) (ctl : W32) (s : State), n < 8 ∧ s.on (fMgt_STAT_BUSY n) = true ∧ Tab.find s.mon.mgt n = some ctl)
    ∧ (∃ (n : Nat) (acked : Bool) (ctl : W32) (s : State), n < 8 ∧ s.on (fMgt_STAT_BUSY n) = true ∧ Tab.find s.mon.mgt n = some
      ctl ∧ acked = false ∧ bits ctl 30 29 ≠ 0)
    ∧ (∃ (n : Nat) (acked stuck : Bool) (data : List Byte) (ctl : W32) (s : State), n < 8 ∧ s.on (fMgt_STAT_BUSY n) = true ∧
      Tab.find s.mon.mgt n = some ctl ∧ acked = true ∧ stuck = false ∧ bits ctl 30 29 ≠ 0 ∧ data.length = bits ctl 7 0 ∧
      bits ctl 7 0 ≤ 128)
    ∧ (∃ (n : Nat) (stuck : Bool) (ctl : W32) (s : State), n < 8 ∧ s.on (fMgt_STAT_BUSY n) = true ∧ Tab.find s.mon.mgt n = some
      ctl ∧ stuck = true)
    ∧ (∃ (s : State), s.bias.modInt = false ∧ s.dark = false ∧ s.pState < 2 ∧ s.on fPwr_STATE_TRANS = false)
    ∧ (∃ (v : W32) (s : State), s.awake = true ∧ v.getLsbD 0 = true ∧ (∀ n, n < 8 → s.on (fMgt_STAT_BUSY n) = false)) :=
  ⟨⟨7, 0x80000080#32, g, by decide +kernel⟩,
   ⟨7, 0x00000080#32, { (w g (fMgt_STAT_BUSY 7) 1) with mon := { mgt := [(7, 0x00000080#32)] } }, by decide +kernel⟩,
   ⟨7, false, 0x20000002#32, { (w g (fMgt_STAT_BUSY 7) 1) with mon := { mgt := [(7, 0x20000002#32)] } }, by decide +kernel⟩,
   ⟨7, true, false, [1, 2], 0x20000002#32, { (w g (fMgt_STAT_BUSY 7) 1) with mon := { mgt := [(7, 0x20000002#32)] } }, by decide +kernel⟩,
   ⟨7, true, 0x20000002#32, { (w g (fMgt_STAT_BUSY 7) 1) with mon := { mgt := [(7, 0x20000002#32)] } }, by decide +kernel⟩,
   ⟨g, by decide +kernel⟩,
   ⟨1#32, { mrd with bias := { modInt := true } }, by decide +kernel⟩⟩

end Sys2Proof.Tests.W10

namespace Sys2Proof.Tests.W11

def pw (st : Nat) (f : PwrSt → PwrSt) (s : State) : State := let s := w s fPwr_STATE_STATE st; { s with pwr := f s.pwr }
def ptr (st tt : Nat) (f : PwrSt → PwrSt) (s : State) : State := w (pw st (fun p => { f p with going := some tt }) s) fPwr_STATE_TRANS 1
def wk (s : State) : State := s.setReg rPwr_WAKE_EN 0xFE#32
def tl (m : Int) : List (Option Int) := (List.replicate 17 (some 300)) ++ [some m] ++ List.replicate 14 (some (-640))
def hk : State := { g with sec := { g.sec with booted := true } }
def hp (s : State) : State := w (w { s with sec := { s.sec with booted := true }, thm := { s.thm with readyAt := some 0 } } fThm_CTL_PLAN_EN 1) (fSh_STAT_STATE 0) 2 |> (w · (fSh_STAT_STATE 1) 2) |> (w · (fSh_STAT_STATE 2) 2) |> (w · (fSh_STAT_STATE 3) 2)

theorem witness_PowerStatesChange :
    (∃ (h : Hdr) (p ms : Nat) (s : State), s.takesPf (.pwrHint h p ms) = true ∧ p ≤ 3 ∧ ms = 0)
    ∧ (∃ (h : Hdr) (p ms : Nat) (s : State), s.takesPf (.pwrHint h p ms) = true ∧ p ≤ 3 ∧ ms ≠ 0)
    ∧ (∃ (h : Hdr) (ms : Nat) (s : State), s.takesPf (.pwrHint h 255 ms) = true)
    ∧ (∃ (s : State), s.pwr.hintEnd.isSome = true)
    ∧ (∃ (a d : Nat) (s : State), s.dark = false ∧ s.on fPwr_STATE_TRANS = false ∧ s.pwr.deeper = some (a, d) ∧ s.pState < d ∧
      s.pState < s.target ∧ a + s.fld fPwr_CTL_DWELL_US * 1000 * nsU ≤ s.up)
    ∧ (∃ (s : State), s.pwr.deeper = none)
    ∧ (∃ (s : State), s.pwr.going = some 1 ∧ s.pState = 0 ∧ s.pwr.since ≤ s.up ∧ s.fld fPwr_STATE_PENDING = 7)
    ∧ (∃ (s : State), s.pwr.going = some 2 ∧ s.pState < 2 ∧ s.pwr.since ≤ s.up ∧ s.fld fPwr_STATE_PENDING = 7 ∧ s.pwr.latch =
      none)
    ∧ (∃ (l : WakeLatch) (s : State), s.pwr.going = some 0 ∧ s.pState = 2 ∧ s.pwr.since ≤ s.up ∧ s.fld fPwr_STATE_PENDING = 7 ∧
      s.pwr.latch = some l ∧ l.mask < 256 ∧ l.first < 8)
    ∧ (∃ (c : Instr) (i : Nat) (s : State), 2 ≤ s.pState ∧ s.on fPwr_STATE_TRANS = false ∧ s.wakeOn i = true ∧ ((c, i) ∈
      [(.wakeEvent .host, 1), (.wakeEvent .lane, 2), (.wakeEvent .cox, 3), (.wakeEvent .timer, 4), (.wakeEvent
      .supervision, 5), (.wakeEvent .thermal, 6)] ∨ c = .wakeEvent .target ∧ i = 7 ∧ s.target < s.pState ∨ c =
      .wakeTimerExpiry ∧ i = 4 ∧ s.fld fPwr_WAKE_TIMER_MS ≠ 0 ∨ c = .planAck 0#32 ∧ i = 1 ∧ s.dark = false ∧
      s.thm.waiting = none)) :=
  ⟨⟨h0, 3, 0, tk (.pwrHint h0 3 0) g, by decide +kernel⟩,
   ⟨h0, 0, 4294967295, tk (.pwrHint h0 0 4294967295) g, by decide +kernel⟩,
   ⟨h0, 7, tk (.pwrHint h0 255 7) (w g fPwr_HINT_ACTIVE 1), by decide +kernel⟩,
   ⟨pw 0 ({ · with hintEnd := some 5 }) g, by decide +kernel⟩,
   ⟨0, 3, { pw 0 ({ · with deeper := some (0, 3) }) (w (w g fPwr_TOLERANCE_TOL_US 5000) fPwr_CTL_DWELL_US 7) with up := 7 * 1000 * nsU, host := { g.host with cfg := { g.host.cfg with l1 := true, l12 := true } } }, by decide +kernel⟩,
   ⟨g, by decide +kernel⟩,
   ⟨ptr 0 1 id (g.modShut 7 ({ · with stack := [5] })), by decide +kernel⟩,
   ⟨ptr 1 2 id (w (w gb (fLn_MODE_STAT_MODE 4) 3) (fLn_RX_STAT_STATE 4) 4), by decide +kernel⟩,
   ⟨⟨0x82, 1, true⟩, ptr 2 0 ({ · with latch := some ⟨0x82, 1, true⟩ }) ((List.range 16).foldl (fun s k => w s (fBm_STAT_SELF_REF k) 1) gb), by decide +kernel⟩,
   ⟨.wakeEvent .host, 1, pw 2 id g, by decide +kernel⟩⟩

theorem witness_TemperaturesAndPlans :
    (∃ (l : List (Option Int)) (s : State), s.dark = false ∧ s.reg rThm_EXCL = 0#32 ∧ l.length = 32 ∧ (∀ e ∈ l, ∃ v, e = some
      v ∧ -640 ≤ v ∧ v < 1760))
    ∧ (∃ (l : List (Option Int)) (s : State), s.dark = false ∧ s.thm.tripped = false ∧ s.reg rThm_EXCL = 0#32 ∧ l.length = 32 ∧
      (∀ e ∈ l, ∃ v, e = some v ∧ -640 ≤ v ∧ v ≤ 2400) ∧ (∃ v, some v ∈ l ∧ 1760 ≤ v))
    ∧ (∃ (s : State), 0 < s.band ∧ s.band ≤ 4 ∧ 10 ≤ s.thm.low)
    ∧ (∃ (s : State), s.on fThm_CTL_PLAN_EN = true ∧ s.houseRuns = true ∧ s.thm.readyAt.isSome = true ∧ s.pState ≠ 3 ∧ s.dark =
      false ∧ s.on fThm_CTL_APPROVE = true)
    ∧ (∃ (s : State), s.on fThm_CTL_PLAN_EN = true ∧ s.houseRuns = true ∧ s.thm.readyAt.isSome = true ∧ s.pState ≠ 3 ∧ s.dark =
      false ∧ s.on fThm_CTL_APPROVE = false)
    ∧ (∃ (p : Plan) (v : W32) (s : State), s.awake = true ∧ s.thm.waiting = some p ∧ bits v 15 0 = s.fld fThm_PLAN_STAT_SEQ)
    ∧ (∃ (v : W32) (s : State), s.awake = true ∧ 1 ≤ bits v 15 8 ∧ bits v 15 8 ≤ 100 ∧ bits v 7 0 ≠ 0 ∧ v.getLsbD 28 = true ∧
      s.thm.waiting = none)
    ∧ (∃ (v : W32) (s : State), s.awake = true ∧ bits v 4 0 ≤ 23)
    ∧ (∃ (s : State), s.thm.ageReq.isSome = true) :=
  ⟨⟨tl 1700, g, by decide +kernel⟩,
   ⟨tl 2400, g, by decide +kernel, by decide +kernel, by decide +kernel, by decide, by simp [tl], 2400, by decide, by
    decide⟩,
   ⟨w { g with thm := { low := 10 } } fThm_STAT_BAND 4, by decide +kernel⟩,
   ⟨ w (hp g) fThm_CTL_APPROVE 1, by decide +kernel⟩,
   ⟨ w (hp g) fThm_CTL_APPROVE 0, by decide +kernel⟩,
   ⟨⟨730, 1, 2, 3⟩, 0x80000000#32, { g with thm := { waiting := some ⟨730, 1, 2, 3⟩ } }, by decide +kernel⟩,
   ⟨0x10001418#32, g, by decide +kernel⟩,
   ⟨23#32, g, by decide +kernel⟩,
   ⟨ { g with thm := { ageReq := some 23 } }, by decide +kernel⟩⟩

end Sys2Proof.Tests.W11

namespace Sys2Proof.Tests.W11b

def pb : State := g0
def st0 : Staged := ⟨64, 8192, digest512 [1,2,3]⟩
def com (s : State) : State := { s with sec := { s.sec with commit := some (h0, true), staged := some st0 } }
def hrr : State := (List.range 4).foldl (fun s n => w s (fSh_STAT_STATE n) 2) { ((List.range 16).foldl (fun s k => w s (fBm_STAT_TRAINED k) 1) g0) with sec := { booted := true } }
def hr (s : State) : State := (List.range 4).foldl (fun s n => w s (fSh_STAT_STATE n) 2) s

theorem witness_FirmwareIsLoaded :
    (∃ (a b first other : List Byte) (p m : Nat) (s : State), s.sec.booted = false ∧ s.dark = false ∧ s.sec.hostBoot = false
      ∧ s.hostBootStrap = false ∧ s.on fSec_STAT_WAIT_HOST = false ∧ (m = 1 ∧ p = 1 ∧ first = slotBundle b ∧ other =
      slotBundle a ∨ m ≠ 1 ∧ p = 0 ∧ first = slotBundle a ∧ other = slotBundle b))
    ∧ (∃ (a b first other : List Byte) (p m : Nat) (s : State), s.sec.booted = false ∧ s.dark = false ∧ s.sec.hostBoot = false
      ∧ s.hostBootStrap = false ∧ s.on fSec_STAT_WAIT_HOST = false ∧ (m = 1 ∧ p = 1 ∧ first = slotBundle b ∧ other =
      slotBundle a ∨ m ≠ 1 ∧ p = 0 ∧ first = slotBundle a ∧ other = slotBundle b) ∧ m ≠ 1)
    ∧ (∃ (x : Option (List Byte)) (s : State), s.sec.booted = false ∧ s.dark = false ∧ s.sec.hostBoot = true ∧ s.bme 0 = true ∧
      ∀ d, x = some d → d.length ≠ s.fld fSec_HB_LEN_LEN)
    ∧ (∃ (x : Option (List Byte)) (s : State), s.sec.booted = false ∧ s.dark = false ∧ s.sec.hostBoot = true ∧ s.bme 0 = true ∧
      x = some [] ∧ s.fld fSec_HB_LEN_LEN = 0 ∧ s.bundleStatus [] = some eDesc)
    ∧ (∃ (v : W32) (s : State), s.awake = true ∧ s.on fSec_STAT_WAIT_HOST = true ∧ v.getLsbD 0 = true ∧ s.bme 0 = true)
    ∧ (∃ (s : State), s.ready = false ∧ s.dark = false ∧ s.started = true)
    ∧ (∃ (h : Hdr) (addr len : Nat) (b : Option (List Byte)) (s : State), s.takesPf (.fwStage h addr len b) = true ∧ 8192 ≤ len
      ∧ len ≤ 16777216 ∧ s.fwBusy = false ∧ b = none)
    ∧ (∃ (h : Hdr) (addr : Nat) (b : List Byte) (s : State), s.sec.stage = some (h, addr, some b) ∧ h.qp < 256 ∧ s.bme
      (s.ownerOf h.qp) = true)
    ∧ (∃ (h : Hdr) (adv : Bool) (s : State), s.takesPf (.fwCommit h adv) = true ∧ s.sec.staged.isSome = true ∧ s.hostBootStrap
      = false ∧ s.fwBusy = false)
    ∧ (∃ (h : Hdr) (adv : Bool) (st : Staged) (back : List Byte) (k : Nat) (s : State), s.sec.commit = some (h, adv) ∧
      s.sec.staged = some st ∧ digest512 back = st.digest ∧ s.fld fSec_STAT_BOOT_SRC = k ∧ k < 2 ∧ h.qp < 256 ∧ s.bme
      (s.ownerOf h.qp) = true) :=
  ⟨⟨ [], [], [], [], 1, 1, g0, by decide +kernel⟩,
   ⟨ [], [], [], [], 0, 255, g0, by decide +kernel⟩,
   ⟨none, { g0 with sec := { hostBoot := true } }, by decide +kernel, by decide +kernel, by decide +kernel, by decide +kernel, nofun⟩,
   ⟨some [], { g0 with sec := { hostBoot := true } }, by decide +kernel⟩,
   ⟨1#32, w g0 fSec_STAT_WAIT_HOST 1, by decide +kernel⟩,
   ⟨ hrr, by decide +kernel⟩,
   ⟨h0, 64, 8192, none, tk (.fwStage h0 64 8192 none) g, by decide +kernel⟩,
   ⟨h0, 64, List.replicate 8192 0, { g with sec := { stage := some (h0, 64, some (List.replicate 8192 0)) } }, rfl, by decide, by decide +kernel⟩,
   ⟨h0, true, tk (.fwCommit h0 true) { g with sec := { staged := some st0 } }, by decide +kernel⟩,
   ⟨h0, true, st0, [1,2,3], 1, w (com g) fSec_STAT_BOOT_SRC 1, rfl, rfl, rfl, by decide +kernel, by decide, by decide, by
    decide +kernel⟩⟩

theorem witness_TheDeviceIsSecured :
    (∃ (h : Hdr) (len : Nat) (nonce : List Byte) (s : State), s.takes (.attest h len nonce) = true ∧ 8192 ≤ len ∧ s.houseRuns
      = true ∧ s.digestsBad = false)
    ∧ (∃ (h : Hdr) (nonce : List Byte) (r : List (Hdr × List Byte)) (s : State), s.sec.attests = (h, nonce) :: r ∧ h.qp < 256 ∧
      s.bme (s.ownerOf h.qp) = true ∧ s.sec.report = none)
    ∧ (∃ (h : Hdr) (nonce : List Byte) (r : List (Hdr × List Byte)) (s : State), s.sec.attests = (h, nonce) :: r ∧ h.qp < 256 ∧
      s.bme (s.ownerOf h.qp) = true ∧ s.sec.report = some [7])
    ∧ (∃ (v : W32) (s : State), s.awake = true ∧ v.getLsbD 0 = true)
    ∧ (∃ (s : State), s.fuses.jtagDis = false ∧ s.on fSec_TA_STAT_BLOCKED = false ∧ s.dark = false)
    ∧ (∃ (s : State), s.fuses.jtagDis = true)
    ∧ (∃ (s : State), s.sec.chal.isSome = true)
    ∧ (∃ (resp : List Byte) (s : State), s.dark = false ∧ s.respRefused resp = true)
    ∧ (∃ (j : Nat) (v : W32) (s : State), j < 64 ∧ s.ancCopies j = [(v, true), (v, true), (v, true)])
    ∧ (∃ (j i : Nat) (v w : W32) (good : Bool) (s : State), j < 64 ∧ i < 3 ∧ (w ≠ v ∨ good = false) ∧ s.ancCopies j = [(v,
      true), (v, true), (v, true)])
    ∧ (∃ (j : Nat) (a b d : W32) (s : State), j < 64 ∧ (j < 32 ∨ 40 ≤ j) ∧ s.ancCopies j = [(a, true), (b, true), (d, true)] ∧
      a ≠ b ∧ a ≠ d ∧ b ≠ d) :=
  ⟨⟨h0, 8192, List.replicate 32 5, tk (.attest h0 8192 (List.replicate 32 5)) (hr g), by decide +kernel⟩,
   ⟨h0, [1], [], { g with sec := { attests := [(h0, [1])] } }, by decide +kernel⟩,
   ⟨h0, [1], [(h0, [2])], { g with sec := { attests := [(h0, [1]), (h0, [2])], report := some [7] } }, by decide +kernel⟩,
   ⟨1#32, g, by decide +kernel⟩,
   ⟨ { g with fuses := {} }, by decide +kernel⟩,
   ⟨ { g with fuses := { jtagDis := true } }, by decide +kernel⟩,
   ⟨w { g with sec := { chal := some ([1], 3) } } fSec_TA_STAT_CHAL_VALID 1, by decide +kernel⟩,
   ⟨[], w (w g fSec_CTL_LOCK 1) fSec_TA_STAT_FAILS 2, by decide +kernel⟩,
   ⟨63, 5#32, { g with anc := [(63, [(5#32, true), (5#32, true), (5#32, true)])] }, by decide +kernel⟩,
   ⟨3, 2, 5#32, 6#32, true, { g with anc := [(3, [(5#32, true), (5#32, true), (5#32, true)])] }, by decide +kernel⟩,
   ⟨63, 5#32, 6#32, 7#32, { g with anc := [(63, [(5#32, true), (6#32, true), (7#32, true)])] }, by decide +kernel⟩⟩

theorem witness_SelfTestsAndQueriesRun :
    (∃ (h : Hdr) (mask : Nat) (s : State), s.takesPf (.bistRun h mask) = true ∧ 0 < mask ∧ mask < 2 ^ 41 ∧ s.bist = none ∧ ∀
      b ∈ bistBits mask, s.bistIdle b = true)
    ∧ (∃ (h : Hdr) (mask : Nat) (s : State), s.takesPf (.bistRun h mask) = true ∧ 0 < mask ∧ mask < 2 ^ 41 ∧ s.bist = none ∧ ∃
      b ∈ bistBits mask, s.bistIdle b = false)
    ∧ (∃ (r : BistRun) (s : State), s.bist = some r ∧ r.hdr.qp < 256 ∧ s.bme (s.ownerOf r.hdr.qp) = true)
    ∧ (∃ (r : BistRun) (n : Nat) (s : State), s.bist = some r ∧ r.mask = 2 ^ n ∧ 24 ≤ n ∧ n < 36 ∧ r.hdr.qp < 256 ∧ s.bme
      (s.ownerOf r.hdr.qp) = true ∧ (∀ m, m < 96 → s.shState m ≠ stRun) ∧ (∀ m, m < 96 → (s.shut m).start = none ∧
      (s.shut m).strs = []))
    ∧ (∃ (r : BistRun) (mv : Nat) (dev : Int) (s : State), s.bist = some r ∧ r.hdr.qp < 256 ∧ s.bme (s.ownerOf r.hdr.qp) = true
      ∧ s.bistPre mv dev = true)
    ∧ (∃ (r : BistRun) (mv : Nat) (dev : Int) (s : State), s.bist = some r ∧ r.hdr.qp < 256 ∧ s.bme (s.ownerOf r.hdr.qp) = true
      ∧ s.bistPre mv dev = false)
    ∧ (∃ (h : Hdr) (obj kind : Nat) (s : State), s.takes (.query h obj kind) = true ∧ kind ≤ 4 ∧ (kind = 0 ∨ obj < queryLimit
      kind) ∧ (s.ownerOf h.qp = 0 ∨ queryOwner obj kind s = none ∨ queryOwner obj kind s = some (s.ownerOf h.qp))) :=
  ⟨⟨h0, 2^40 + 2^37 + 2^8 + 1, tk (.bistRun h0 (2^40 + 2^37 + 2^8 + 1)) g, by decide +kernel⟩,
   ⟨h0, 2^40 + 1, tk (.bistRun h0 (2^40 + 1)) (w g (fLn_MODE_STAT_MODE 0) 3), by decide +kernel⟩,
   ⟨⟨h0, 2^41 - 1, 1, 0⟩, { g0 with bist := some ⟨h0, 2^41 - 1, 1, 0⟩ }, by decide +kernel⟩,
   ⟨⟨h0, 2^35, 1, 0⟩, 35, { g0 with bist := some ⟨h0, 2^35, 1, 0⟩ }, rfl, rfl, by decide, by decide, by decide, by decide +kernel, by decide +kernel, by decide +kernel⟩,
   ⟨⟨h0, 2^37, 1, 0⟩, 772, -50, { (w g fTst_STAT_BUSY 1) with bist := some ⟨h0, 2^37, 1, 0⟩ }, by decide +kernel⟩,
   ⟨⟨h0, 2^37, 1, 0⟩, 727, 0, { (w g fTst_STAT_BUSY 1) with bist := some ⟨h0, 2^37, 1, 0⟩ }, by decide +kernel⟩,
   ⟨h0, 9, 0, tk (.query h0 9 0) g, by decide +kernel⟩⟩

theorem witness_ResetsReachTheirBlocks :
    (∃ (straps : Nat), straps.testBit 1 = false)
    ∧ (∃ (straps : Nat) (s : State), s.dark = false ∧ straps.testBit 1 = false)
    ∧ (∃ (s : State), s.dark = true)
    ∧ (∃ (fn : Nat) (s : State), s.awake = true ∧ fn ≤ s.host.vfs ∧ fn < 32)
    ∧ (∃ (fn : Nat) (s : State), s.awake = true ∧ fn ≤ s.host.vfs ∧ fn < 32 ∧ fn ≠ 0)
    ∧ (∃ (fn : Nat) (c : Compl) (s : State), s.awake = true ∧ s.bme fn = false ∧ s.host.held = [(fn, c)] ∧ c.hdr.qp < 256)
    ∧ (∃ (s : State), s.awake = true)
    ∧ (∃ (s : State), s.awake = true) :=
  ⟨⟨ 29, by decide +kernel⟩,
   ⟨1, w (hr gb) fPwr_HINT_ACTIVE 1, by decide +kernel⟩,
   ⟨ { g with dark := true }, by decide +kernel⟩,
   ⟨0, w (hr gb) fPwr_HINT_ACTIVE 1, by decide +kernel⟩,
   ⟨1, { g with host := { g.host with vfs := 1 } }, by decide +kernel⟩,
   ⟨0, ⟨h0, 0, 0, [], [], false⟩, { g with host := { g.host with bme := [], held := [(0, ⟨h0, 0, 0, [], [], false⟩)] } }, by decide +kernel, by decide +kernel, rfl, by decide⟩,
   ⟨ g, by decide +kernel⟩,
   ⟨ g, by decide +kernel⟩⟩

end Sys2Proof.Tests.W11b

namespace Sys2Proof.Tests.W12

def dk : State := { g with dark := true }
def mb (n : Nat) (st : Nat) : State := w { g with sht := { g.sht with sh := [(95, { mbox := List.replicate n (1, 2) })] } } (fSh_STAT_STATE 95) st

theorem witness_HeldDeviceIsDeaf :
    (∃ (s : State), s.dark = true)
    ∧ (∃ (s : State), s.dark = true)
    ∧ (∃ (s : State), s.dark = true) :=
  ⟨⟨dk, by decide +kernel⟩,
   ⟨dk, by decide +kernel⟩,
   ⟨dk, by decide +kernel⟩⟩

theorem witness_MessagesReachMailboxes :
    (∃ (h : Hdr) (sh w0 w1 : Nat) (s : State), s.takesPf (.shtMsg h sh w0 w1) = true ∧ 4 ≤ sh ∧ sh < 96 ∧ s.testing (24 + sh
      / 8) = false ∧ 16 ≤ (s.shut sh).mbox.length)
    ∧ (∃ (h : Hdr) (sh w0 w1 : Nat) (s : State), s.takesPf (.shtMsg h sh w0 w1) = true ∧ 4 ≤ sh ∧ sh < 96 ∧ s.testing (24 + sh
      / 8) = false ∧ (s.shut sh).mbox.length < 16 ∧ s.shState sh = stOff)
    ∧ (∃ (h : Hdr) (sh w0 w1 : Nat) (s : State), s.takesPf (.shtMsg h sh w0 w1) = true ∧ 4 ≤ sh ∧ sh < 96 ∧ s.testing (24 + sh
      / 8) = false ∧ (s.shut sh).mbox.length < 16 ∧ s.shState sh ≠ stOff) :=
  ⟨⟨h0, 95, 0, 0, tk (.shtMsg h0 95 0 0) (mb 16 1), by decide +kernel⟩,
   ⟨h0, 95, 0, 0, tk (.shtMsg h0 95 0 0) (mb 15 0), by decide +kernel⟩,
   ⟨h0, 4, 2 ^ 24 - 1, 0, tk (.shtMsg h0 4 (2 ^ 24 - 1) 0) (w (mb 15 1) (fSh_STAT_STATE 4) 1), by decide +kernel⟩⟩

theorem witness_TheLockHolds :
    (∃ (v : W32) (s : State), s.awake = true ∧ v.getLsbD 0 = true)
    ∧ (∃ (s : State), s.dark = false ∧ s.locked = true) :=
  ⟨⟨1#32, g, by decide +kernel⟩,
   ⟨{ g with anc := [(48, [(1#32, true), (1#32, true), (1#32, true)])] } |> (w · fSec_CTL_LOCK 1), by decide +kernel⟩⟩

theorem witness_BeamWideRegistersAreInBmZero :
    (∃ o, o ∈ [0x8000, 0x8004, 0x8008, 0x8010, 0x8014, 0x8018, 0x801C, 0x8020, 0x8024])
    ∧ (∃ (k o : Nat) (s : State), 1 ≤ k ∧ k < 16 ∧ 0x8000 ≤ o ∧ o ≤ 0x8027 ∧ s.awake = true) :=
  ⟨⟨0x8024, by decide +kernel⟩,
   ⟨15, 0x8027, g, by decide +kernel⟩⟩

theorem witness_BandRelaxationsRise :
    (∃ (b : Nat) (v : W32) (s : State), s.awake = true ∧ 1 ≤ b ∧ b ≤ 4 ∧ bits v 7 0 < s.fld (fThm_BAND_LANE_RELAX (b - 1)) ∧
      s.host.rejLog.length < 32)
    ∧ (∃ (b : Nat) (v : W32) (s : State), s.awake = true ∧ b ≤ 4 ∧ bits v 7 0 ≤ 30 ∧ (b = 0 ∨ s.fld (fThm_BAND_LANE_RELAX (b - 1)) ≤ bits v 7 0)) :=
  ⟨⟨4, 3#32, g, by decide +kernel⟩,
   ⟨4, 30#32, g, by decide +kernel⟩⟩

theorem witness_ResetLeaves :
    (∃ q, q < 256)
    ∧ (∃ f, f < 32)
    ∧ (∃ n, n < 8)
    ∧ (∃ k, k < 16)
    ∧ (∃ n, n < 96)
    ∧ (∃ d, d < 32)
    ∧ (∃ c, c < 16)
    ∧ (∃ g, g < 4)
    ∧ (∃ c, c < 24)
    ∧ (∃ j, j < 16) :=
  ⟨⟨0, by decide +kernel⟩,
   ⟨0, by decide +kernel⟩,
   ⟨0, by decide +kernel⟩,
   ⟨0, by decide +kernel⟩,
   ⟨0, by decide +kernel⟩,
   ⟨0, by decide +kernel⟩,
   ⟨0, by decide +kernel⟩,
   ⟨0, by decide +kernel⟩,
   ⟨0, by decide +kernel⟩,
   ⟨0, by decide +kernel⟩⟩

theorem witness_ResetMeetsTheInvariant :
    ∃ i, 1 ≤ i ∧ i < 4 :=
  ⟨3, by decide +kernel⟩

/-- The lengths of the catch training sequence, the catch burst and the idle marker (R137, R140, R141). -/
theorem test_line_lengths : (catchTrainSymbols 7 2).length = 9408 ∧ catchBurstSymbols.length = 2560 ∧
    (idleMarkerSymbols ⟨true, false, true⟩).length = 132 := by decide +kernel

/-- The preamble is a maximal-length sequence: of its 255 bits 128 are ones (R136). -/
theorem test_preamble_ones : (preamble.take 255).count .p3 = 128 ∧ preamble.length = 256 := by decide +kernel

/-- A header for TRAIN_ID 0xA5 and REP_LEFT 3: CHECK is the XOR of 0xA, 0x5 and 0x3 (R137). -/
theorem test_catch_header : catchHeader 0xA5 3 = 0xA53C := by decide

/-- A pilot period is 1,088 coded symbols and its pilot, +3 for pilot 0 (R133). -/
theorem test_pilot_period : (pilotPeriods 1 0 (List.replicate 2040 false) {}).1.length = 1089 ∧
    (pilotPeriods 1 0 (List.replicate 2040 false) {}).1.getLast? = some .p3 := by decide +kernel

/-- The termination tail drives the encoder to 0 (R141). -/
theorem test_tail : ∀ a b c : Bool, (Inner.run [a ^^ c, b, a] false ⟨a, b, c⟩).2 = ({} : Inner) := by decide

/-- A window whose error at each level is `q` of the distance to the next level. -/
def window (q : Rat) : MeritWin := ⟨4, [(0, 1, -300, q ^ 2), (1, 1, -100, q ^ 2), (2, 1, 100, q ^ 2), (3, 1, 300, q ^ 2)]⟩

/-- The worked examples of merit: sigma 0.22 and 0.40 read 53 and 20 (R85). -/
theorem test_merit : meritExact (serEst (window 22)) = 53 ∧ meritExact (serEst (window 40)) = 20 := by decide +kernel

/-- One symbol in error is corrected, at its place (R125). -/
theorem test_codeword_corrected : (rsDecode (List.replicate 543 0 ++ [5])).map (·.2) = some [543] := by decide +kernel

/-- The worked pass on LN2: anchors 20 and 30, 47 degrees, estimate 41 give the anchor 51 and the target 41 (R113). -/
theorem test_new_anchor :
    newAnchor ({ State.reset with lanes := [(2, { anchors := [((11, 2, 1), 20), ((11, 2, 2), 30)] })] }) 2 (47 * 16) 41 11 2 = 51 ∧
      roundHalfUp (coefAt (fun i => if i = 1 then 51 else 30) (47 * 16)) = 41 := by decide +kernel

/-- A SKEW change of -23 takes 5 steps, a GAIN change of 7 takes 4, an OFS change of 10 takes 3 (R115). -/
theorem test_cal_steps : stepsFor 2 (-23) = 5 ∧ stepsFor 0 7 = 4 ∧ stepsFor 1 10 = 3 := by decide +kernel

end Sys2Proof.Tests.W12
end

section
/-! SUPPORT. Frames: how `onlyParts` and `onlyRegs` compose, and what the beginning of a command and its completion leave as
it was. -/

namespace Sys2Proof.Machine

/-! ## Frames compose -/

theorem Part.same_trans {s t u : State} {p : Part} (h : p.same s t) (h' : p.same t u) : p.same s u := by
  cases p <;> exact Eq.trans h' h

theorem onlyParts.trans {l : List Part} {s t u : State} (h : onlyParts l s t) (h' : onlyParts l t u) : onlyParts l s u :=
  fun p hp => Part.same_trans (h p hp) (h' p hp)

theorem onlyParts.mono {l l' : List Part} {s t : State} (h : onlyParts l s t) (hl : l ⊆ l') : onlyParts l' s t :=
  fun p hp => h p fun hm => hp (hl hm)

theorem onlyRegs.trans {P : RegId → Prop} {s t u : State} (h : onlyRegs P s t) (h' : onlyRegs P t u) : onlyRegs P s u :=
  fun r hr => (h' r hr).trans (h r hr)

theorem onlyRegs.mono {P Q : RegId → Prop} {s t : State} (h : onlyRegs P s t) (hPQ : ∀ r, P r → Q r) : onlyRegs Q s t :=
  fun r hr => h r fun hp => hr (hPQ r hp)

/-- The shuttles depend on their own part of the state alone. -/
theorem State.shut_congr {s t : State} (h : t.sht = s.sht) (n : Nat) : t.shut n = s.shut n := by simp [State.shut, h]

/-- The owner of a queue pair depends on the registers of the queue ranges alone (R341). -/
theorem State.ownerOf_congr {s t : State} (h : ∀ j, t.reg (rQue_FN_QP j) = s.reg (rQue_FN_QP j)) (q : Nat) :
    t.ownerOf q = s.ownerOf q := by
  simp [State.ownerOf, State.vfBase, State.vfCount, State.fld, h]

/-! ## The beginning of a command -/

@[simp] theorem State.reg_begun (s : State) (q : Nat) (r : RegId) : (s.begun q).reg r = s.reg r := State.reg_modQp s q _ r

@[simp] theorem State.shut_begun (s : State) (q n : Nat) : (s.begun q).shut n = s.shut n := rfl

theorem begun_onlyParts (s : State) (q : Nat) : onlyParts [.qps] s (s.begun q) := by
  intro p hp
  cases p <;> simp_all [Part.same, State.begun]

/-- What holds when a command that only the PF may issue begins. -/
theorem State.takesPf_elim {s : State} {i : Instr} {h : Hdr} {data : Option (Option (List Byte))} (hi : cmdOf i = some (h, data))
    (ht : s.takesPf i = true) :
    s.dark = false ∧ s.ready = true ∧ s.begins i = true ∧ h.qp < 256 ∧ s.bme (s.ownerOf h.qp) = true ∧ s.ownerOf h.qp = 0 := by
  simpa [State.takesPf_iff, State.takes_iff, hi, and_assoc] using ht

/-- Where checks 2 to 4 of R371 pass (the issuer, SYS.READY, no target in self-test), the command's own table decides. -/
theorem firstFail_gate {s : State} {h : Hdr} {pfOnly : Bool} {targets : List Nat} (ho : pfOnly = true → s.ownerOf h.qp = 0)
    (hr : s.ready = true) (ht : ∀ b ∈ targets, s.testing b = false) (l : List (Bool × Nat)) :
    firstFail (s.gate h pfOnly targets ++ l) = firstFail l := by
  have hissuer : (pfOnly && s.ownerOf h.qp != 0) = false := by simpa using ho
  have htargets : targets.any s.testing = false := by simpa using ht
  simp [State.gate, firstFail, hissuer, hr, htargets]

/-! ## Completion -/

@[simp] theorem sendMsix_cfg (fn vec : Nat) (s : State) : (sendMsix fn vec s).host.cfg = s.host.cfg := by
  simp only [sendMsix]; split_ifs <;> rfl

@[simp] theorem cqRecorded_cfg (q : Nat) (b : Bool) (s : State) : (cqRecorded q b s).host.cfg = s.host.cfg := by
  simp only [cqRecorded]; split_ifs <;> simp

@[simp] theorem untake_cfg (h : Hdr) (s : State) : (untake h s).host.cfg = s.host.cfg := by
  simp only [untake]; split_ifs <;> rfl

@[simp] theorem emitData_cfg (l : List (Nat × List Byte)) (s : State) : (emitData l s).host.cfg = s.host.cfg := by
  simp only [emitData]
  induction l generalizing s with
  | nil => rfl
  | cons a l ih => exact ih (s.emit (.hostWrite a.1 a.2))

@[simp] theorem writeCompl_cfg (c : Compl) (s : State) : (writeCompl c s).host.cfg = s.host.cfg := by
  simp only [writeCompl]; split_ifs <;> simp

/-- Where the function may master the bus the completion is written at once (R339). -/
theorem complete_eq_writeCompl {h : Hdr} {s : State} (st : Nat) (res : List Byte) (hq : h.qp < 256)
    (hb : s.bme (s.ownerOf h.qp) = true) : complete h st res s = writeCompl (answer h st res) s := by
  simp [complete, postCompl, hb, Nat.not_le.2 hq]

theorem complete_onlyParts {h : Hdr} {s : State} (st : Nat) (res : List Byte) (hq : h.qp < 256)
    (hb : s.bme (s.ownerOf h.qp) = true) : onlyParts [.qps, .regs, .out] s (complete h st res s) := by
  rw [complete_eq_writeCompl st res hq hb]
  intro p hp
  cases p <;> simp_all [Part.same]

theorem complete_onlyRegs (h : Hdr) (st : Nat) (res : List Byte) (s : State) : onlyRegs complReg s (complete h st res s) := by
  rintro ⟨k, i, o⟩ hr
  obtain ⟨hq, hm⟩ := not_or.1 hr
  exact complete_reg h st res s k i o hq hm

/-- What completes after an effect, completes from before it (R352, R353): where the effect, from `s` to `a`, leaves the
queue pairs' registers, the queue ranges and Bus Master Enable as they were. -/
theorem complete_after {h : Hdr} {P : RegId → Prop} {s a : State} (st : Nat) (res : List Byte) (hq : h.qp < 256)
    (hb : s.bme (s.ownerOf h.qp) = true) (hr : onlyRegs P s a) (hP : ∀ r, P r → r.blk ≠ .qp ∧ r.blk ≠ .que)
    (hbme : a.host.bme = s.host.bme) :
    completed (answer h st res) s (complete h st res a) ∧ onlyParts [.qps, .regs, .out] a (complete h st res a) := by
  have howner : a.ownerOf h.qp = s.ownerOf h.qp := State.ownerOf_congr (fun _ => hr _ fun hp => (hP _ hp).2 rfl) _
  have hb' : a.bme (a.ownerOf h.qp) = true := by rwa [howner, State.bme, hbme]
  exact ⟨completed_congr (complete_completed h st res a hq hb') fun _ => hr _ fun hp => (hP _ hp).1 rfl,
    complete_onlyParts st res hq hb'⟩

/-- A command whose check fails completes with that check's status, and nothing changed but its queue pair and what leaves
the device (R371). -/
theorem complete_begun {h : Hdr} {s : State} (st : Nat) (hq : h.qp < 256) (hb : s.bme (s.ownerOf h.qp) = true) :
    completed (answer h st) s (complete h st [] (s.begun h.qp)) ∧ onlyRegs complReg s (complete h st [] (s.begun h.qp)) ∧
      onlyParts [.qps, .regs, .out] s (complete h st [] (s.begun h.qp)) := by
  have hr : onlyRegs (fun _ => False) s (s.begun h.qp) := fun r _ => State.reg_begun s _ r
  obtain ⟨hc, hp⟩ := complete_after st [] hq hb hr (fun _ => False.elim) rfl
  exact ⟨hc, (hr.mono fun _ => False.elim).trans (complete_onlyRegs h st [] _),
    ((begun_onlyParts s h.qp).mono (by simp)).trans hp⟩

end Sys2Proof.Machine
end

section
/-! SUPPORT. Mailboxes: a message placed in one, and the command SHT_MSG (R332). -/

namespace Sys2Proof.Machine

@[simp] theorem State.shut_setMbox_self (s : State) (n : Nat) (m : List (Nat × Nat)) :
    (s.setMbox n m).shut n = { s.shut n with mbox := m } := Tab.get_set_self _ _ _ _

theorem State.shut_setMbox_ne (s : State) {n k : Nat} (m : List (Nat × Nat)) (h : k ≠ n) :
    (s.setMbox n m).shut k = s.shut k := Tab.get_set_ne _ _ _ h.symm

theorem setMbox_onlyRegs (s : State) (n : Nat) (m : List (Nat × Nat)) : onlyRegs (fun r => r = rSh_MBOX n) s (s.setMbox n m) :=
  fun _ hr => State.reg_setFld_ne _ _ _ _ hr

theorem setMbox_onlyParts (s : State) (n : Nat) (m : List (Nat × Nat)) : onlyParts [.sht, .regs] s (s.setMbox n m) := by
  intro p hp
  cases p <;> simp_all [Part.same, State.setMbox, State.modShut, State.setShut]

/-- A command that sets mailbox `n` completes with OK; nothing else changed but its queue pair and what leaves the device. -/
theorem complete_setMbox {h : Hdr} {s : State} (n : Nat) (m : List (Nat × Nat)) (hq : h.qp < 256)
    (hb : s.bme (s.ownerOf h.qp) = true) :
    let t := complete h eOk [] ((s.begun h.qp).setMbox n m)
    completed (answer h eOk) s t ∧ t.shut n = { s.shut n with mbox := m } ∧ (∀ k, k ≠ n → t.shut k = s.shut k) ∧
      onlyRegs (fun r => r = rSh_MBOX n ∨ complReg r) s t ∧ onlyParts [.sht, .qps, .regs, .out] s t := by
  intro t
  have hset : onlyRegs (fun r => r = rSh_MBOX n) s ((s.begun h.qp).setMbox n m) := fun r hr =>
    (setMbox_onlyRegs _ n m r hr).trans (State.reg_begun s _ r)
  obtain ⟨hcompl, hparts⟩ := complete_after eOk [] hq hb hset (by rintro _ rfl; simp) rfl
  have hshut : ∀ k, t.shut k = ((s.begun h.qp).setMbox n m).shut k := State.shut_congr (hparts .sht (by decide))
  refine ⟨hcompl, ?_, fun k hk => ?_, ?_, ?_⟩
  · rw [hshut, State.shut_setMbox_self, State.shut_begun]
  · rw [hshut, State.shut_setMbox_ne _ _ hk, State.shut_begun]
  · exact (hset.mono fun _ => Or.inl).trans ((complete_onlyRegs h eOk [] _).mono fun _ => Or.inr)
  · exact ((begun_onlyParts s h.qp).mono (by decide)).trans
      (((setMbox_onlyParts _ n m).mono (by decide)).trans (hparts.mono (by decide)))

/-- A mailbox with room takes the message at its end (R332). -/
theorem mailTo_of_room {s : State} {n : Nat} (w0 w1 : Nat) (h : (s.shut n).mbox.length < 16) :
    mailTo n w0 w1 s = some (s.setMbox n ((s.shut n).mbox ++ [(w0, w1)])) := if_neg (Nat.not_le.2 h)

/-- What decides SHT_MSG to an owner shuttle that is not in self-test, sent by the PF: a full mailbox before OFF (R332). -/
theorem firstFail_shtMsg {s : State} {h : Hdr} {sh : Nat} (ho : s.ownerOf h.qp = 0) (hr : s.ready = true) (h4 : 4 ≤ sh)
    (h96 : sh < 96) (ht : s.testing (24 + sh / 8) = false) :
    firstFail (s.gate h true (shTarget sh) ++ [(decide (95 < sh), eRange), (decide (sh < 4), ePriv),
      (decide (16 ≤ (s.shut sh).mbox.length), eNoRes), (s.shState sh == stOff, eState)]) =
      if 16 ≤ (s.shut sh).mbox.length then some eNoRes else if s.shState sh = stOff then some eState else none := by
  have htargets : ∀ b ∈ shTarget sh, s.testing b = false := by simp [shTarget, h4, h96, ht]
  have h95 : ¬ 95 < sh := by omega
  have h3 : ¬ sh < 4 := by omega
  rw [firstFail_gate (fun _ => ho) hr htargets]
  simp [firstFail, h95, h3]

/-- SHT_MSG to an owner shuttle that is not in self-test answers E_NORES for a full mailbox, else E_STATE for OFF, else
places the message and answers OK (R332). -/
theorem exec_shtMsg {s : State} {h : Hdr} {sh w0 w1 : Nat} (ht : s.takesPf (.shtMsg h sh w0 w1) = true) (h4 : 4 ≤ sh)
    (h96 : sh < 96) (htest : s.testing (24 + sh / 8) = false) :
    exec (.shtMsg h sh w0 w1) s = .next (
      if 16 ≤ (s.shut sh).mbox.length then complete h eNoRes [] (s.begun h.qp)
      else if s.shState sh = stOff then complete h eState [] (s.begun h.qp)
      else complete h eOk [] ((s.begun h.qp).setMbox sh ((s.shut sh).mbox ++ [(w0 % 2 ^ 24, w1 % 2 ^ 24)]))) := by
  obtain ⟨hdark, hready, hbegins, _, _, howner⟩ := State.takesPf_elim rfl ht
  have hchecks := firstFail_shtMsg howner hready h4 h96 htest
  show execShtMsg h sh w0 w1 s = _
  unfold execShtMsg
  split_ifs at hchecks ⊢ with hfull hoff
  · rw [command_fails _ _ _ _ _ _ hdark hbegins hchecks (by decide)]
  · rw [command_fails _ _ _ _ _ _ hdark hbegins hchecks (by decide)]
  · have hroom : ((s.begun h.qp).shut sh).mbox.length < 16 := Nat.not_le.1 hfull
    rw [command_begins _ _ _ _ _ hdark hbegins hchecks, mailTo_of_room _ _ hroom, State.shut_begun]

/-- Settles O57: SHT_MSG is rejected without effect, or its message stands at the end of the mailbox. -/
theorem messagesReachMailboxes : Obligations.MessagesReachMailboxes := by
  unfold Obligations.MessagesReachMailboxes
  intro h sh w0 w1 s ht h4 h96 htest
  obtain ⟨_, _, _, hqp, hbme, _⟩ := State.takesPf_elim rfl ht
  refine ⟨_, exec_shtMsg ht h4 h96 htest, ?_⟩
  split_ifs with hfull hoff
  · obtain ⟨hcompl, hregs, hparts⟩ := complete_begun eNoRes hqp hbme
    have hshut := State.shut_congr (hparts .sht (by decide))
    exact ⟨fun m _ => hshut m, by rw [hshut], fun _ => ⟨hshut sh, hcompl⟩, fun hroom => absurd hfull (Nat.not_le.2 hroom),
      fun hroom => absurd hfull (Nat.not_le.2 hroom), hregs.mono fun _ => Or.inr, hparts.mono (by decide)⟩
  · obtain ⟨hcompl, hregs, hparts⟩ := complete_begun eState hqp hbme
    have hshut := State.shut_congr (hparts .sht (by decide))
    exact ⟨fun m _ => hshut m, by rw [hshut], fun h16 => absurd h16 hfull, fun _ _ => ⟨hshut sh, hcompl⟩,
      fun _ hon => absurd hoff hon, hregs.mono fun _ => Or.inr, hparts.mono (by decide)⟩
  · obtain ⟨hcompl, hshut, hshuts, hregs, hparts⟩ := complete_setMbox sh ((s.shut sh).mbox ++ [(w0 % 2 ^ 24, w1 % 2 ^ 24)]) hqp hbme
    exact ⟨hshuts, by rw [hshut], fun h16 => absurd h16 hfull, fun _ hst => absurd hst hoff,
      fun _ _ => ⟨by rw [hshut], hcompl⟩, hregs, hparts⟩

end Sys2Proof.Machine
end

section
/-! SUPPORT. Register writes by the host: when they act at once (R443), what one field's write leaves as it was, and what a
rejected one does (R16, R17, R366). -/

namespace Sys2Proof.Machine

/-! ## Accesses that find the device awake, and writes of one field -/

theorem State.awake_iff (s : State) :
    s.awake = true ↔ s.dark = false ∧ s.pState < 2 ∧ s.on fPwr_STATE_TRANS = false := by
  simp [State.awake, and_assoc]

/-- An awake device has nothing to wake (R450). -/
theorem wake_awake {s : State} (i : Nat) (h : s.awake = true) : wake i s = s := by
  obtain ⟨_, hstate, htrans⟩ := s.awake_iff.1 h
  simp [wake, State.entering, htrans, hstate]

/-- An access to a block that runs in every powered state acts on an awake device at once (R443). -/
theorem aonAccess_awake (f : State → State) {s : State} (h : s.awake = true) : aonAccess f s = f s := by
  obtain ⟨hdark, _⟩ := s.awake_iff.1 h
  simp [aonAccess, hdark, wake_awake 1 h]

theorem setFld_onlyRegs (s : State) (f : FldId) (v : Nat) : onlyRegs (fun r => r = f.reg) s (s.setFld f v) :=
  fun _ hr => State.reg_setReg_ne s _ hr

theorem setFld_onlyParts (s : State) (f : FldId) (v : Nat) : onlyParts [.regs] s (s.setFld f v) := by
  intro p hp
  cases p <;> simp_all [Part.same]

/-! ## Rejected writes -/

@[simp] theorem nqRecorded_cfg (f : Nat) (s : State) : (nqRecorded f s).host.cfg = s.host.cfg := by
  simp only [nqRecorded]; split_ifs <;> simp

@[simp] theorem notice_cfg (f kind : Nat) (b2 b8 : List Byte) (s : State) :
    (notice f kind b2 b8 s).host.cfg = s.host.cfg := by
  simp only [notice]; split_ifs <;> simp

@[simp] theorem logReject_cfg (fn space offset status : Nat) (wr : Bool) (s : State) :
    (logReject fn space offset status wr s).host.cfg = s.host.cfg := by
  simp only [logReject]; split_ifs <;> simp

@[simp] theorem rejectWrite_cfg (fn space offset status : Nat) (s : State) :
    (rejectWrite fn space offset status s).host.cfg = s.host.cfg := by
  simp only [rejectWrite]; split_ifs <;> simp

/-- A log with room takes the access at its end (R366). -/
theorem logReject_rejLog_of_room (fn space offset status : Nat) (wr : Bool) {s : State} (h : s.host.rejLog.length < 32) :
    (logReject fn space offset status wr s).host.rejLog = s.host.rejLog ++ [⟨offset, status, fn, wr, space⟩] := by
  simp only [logReject, if_pos h]; split_ifs <;> simp

theorem rejectWrite_rejLog_of_room (fn space offset status : Nat) {s : State} (h : s.host.rejLog.length < 32) :
    (rejectWrite fn space offset status s).host.rejLog = s.host.rejLog ++ [⟨offset, status, fn, true, space⟩] := by
  simp only [rejectWrite]; split_ifs <;> simp [logReject_rejLog_of_room _ _ _ _ _ h]

/-- A rejection shows in the registers of the reject log, those of a VF's window too, and where its notice shows. -/
theorem rejectWrite_onlyRegs (fn space offset status : Nat) (s : State) :
    onlyRegs (fun r => r.blk = .sys ∨ r.blk = .win ∨ noteReg r) s (rejectWrite fn space offset status s) := by
  rintro ⟨k, i, o⟩ hr
  obtain ⟨hsys, hwin, hnq, hmsix⟩ : k ≠ .sys ∧ k ≠ .win ∧ k ≠ .nq ∧ k ≠ .msix := by simpa [noteReg] using hr
  exact rejectWrite_reg fn space offset status s k i o hsys hwin hnq hmsix

theorem rejectWrite_onlyParts (fn space offset status : Nat) (s : State) :
    onlyParts [.rejLog, .rings, .out, .regs] s (rejectWrite fn space offset status s) := by
  intro p hp
  cases p <;> simp_all [Part.same]

end Sys2Proof.Machine
end

section
/-! SUPPORT. Writes of THM.BANDb: how the host's write reaches `writeBand`, and its two outcomes (R467). -/

namespace Sys2Proof.Machine

/-- The PF's address of a band register names that register (R39, R564). -/
theorem regAt_band (s : State) {b : Nat} (hb : b ≤ 4) : s.regAt 0 (addrOf (rThm_BAND b)) = some (rThm_BAND b) := by
  have hdecode : ∀ k < 5, decodeBar0 (addrOf (rThm_BAND k)) = some (rThm_BAND k) := by decide
  exact hdecode b (by omega)

theorem pfWrite_band {b : Nat} (hb : b ≤ 4) : pfWrite (rThm_BAND b) = some (writeBand b) := by
  have hcnt : cntOf (rThm_BAND b) = none := by simp [cntOf, cntGeom]
  have hoff : 0x10 + 0x4 * b ≠ 4 ∧ 0x10 + 0x4 * b ≠ 0x30 ∧ 0x10 + 0x4 * b ≠ 0x38 ∧ 0x10 + 0x4 * b ≠ 0x44 ∧ 0x10 + 0x4 * b ≤ 0x20 := by omega
  simp [pfWrite, hcnt, superWrite, hoff]

/-- The host's write of a band register, on an awake device, is `writeBand`. -/
theorem exec_registerWrite_band {b : Nat} (v : W32) {s : State} (hs : s.awake = true) (hb : b ≤ 4) :
    exec (.registerWrite 0 (addrOf (rThm_BAND b)) v) s = .next (writeBand b v s) := by
  have hwrite : writeReg 0 (spaceOf 0) (addrOf (rThm_BAND b)) (rThm_BAND b) v s = writeBand b v s := by
    simp [writeReg, fnWrite, pfWrite_band hb]
  show execRegisterWrite _ _ _ _ = _
  simp [execRegisterWrite, regAt_band _ hb, regAccess, runsAlways, aonAccess_awake _ hs, writeAt, hwrite]

theorem writeBand_of_below {b : Nat} {v : W32} {s : State} (hb : 1 ≤ b)
    (h : bits v 7 0 < s.fld (fThm_BAND_LANE_RELAX (b - 1))) :
    writeBand b v s = rejectWrite 0 0 (addrOf (rThm_BAND b)) eRange s := if_pos (.inr ⟨hb, h⟩)

theorem writeBand_of_rising {b : Nat} {v : W32} {s : State} (hv : bits v 7 0 ≤ 30)
    (h : b = 0 ∨ s.fld (fThm_BAND_LANE_RELAX (b - 1)) ≤ bits v 7 0) :
    writeBand b v s = s.setFld (fThm_BAND_LANE_RELAX b) (bits v 7 0) := if_neg (by omega)

/-- Settles O60: a write of a band below the next lower band's value is rejected, any other up to 30 is taken. -/
theorem bandRelaxationsRise : Obligations.BandRelaxationsRise := by
  unfold Obligations.BandRelaxationsRise
  constructor
  · intro b v s hs hb1 hb4 hbelow hroom
    refine ⟨_, exec_registerWrite_band v hs hb4, ?_⟩
    rw [writeBand_of_below hb1 hbelow]
    exact ⟨rejectWrite_rejLog_of_room _ _ _ _ hroom, rejectWrite_onlyRegs _ _ _ _ s, rejectWrite_onlyParts _ _ _ _ s⟩
  · intro b v s hs hb4 hv hrising
    refine ⟨_, exec_registerWrite_band v hs hb4, ?_⟩
    rw [writeBand_of_rising hv hrising]
    exact ⟨by simp, setFld_onlyRegs s (fThm_BAND_LANE_RELAX b) _, setFld_onlyParts s _ _⟩

end Sys2Proof.Machine
end

section
/-! SUPPORT. The anchor store and events: what a write of a word and a raised event leave as they were; the lock of SEC, and
the refusal of a response (R296, R492, R494). -/

namespace Sys2Proof.Machine

/-! ## The anchor store -/

/-- The copies of a word depend on the store and the fuses alone. -/
theorem State.ancCopies_congr {s t : State} (ha : t.anc = s.anc) (hf : t.fuses = s.fuses) (j : Nat) :
    t.ancCopies j = s.ancCopies j := by
  simp [State.ancCopies, State.ancInit, State.fuseWord, ha, hf]

@[simp] theorem ancCopies_ancWrite_self (j : Nat) (v : W32) (s : State) :
    (ancWrite j v s).ancCopies j = [(v, true), (v, true), (v, true)] := Tab.get_set_self _ _ _ _

theorem ancCopies_ancWrite_ne {i j : Nat} (v : W32) (s : State) (h : i ≠ j) :
    (ancWrite j v s).ancCopies i = s.ancCopies i := Tab.get_set_ne _ _ _ h.symm

/-- Three good copies that agree give their value, with nothing to mend. -/
@[simp] theorem vote_agreed (v : W32) : vote [(v, true), (v, true), (v, true)] = ⟨some v, false, false⟩ := by simp [vote]

@[simp] theorem fld_ancWrite (j : Nat) (v : W32) (s : State) (f : FldId) : (ancWrite j v s).fld f = s.fld f :=
  State.fld_congr rfl f

theorem ancWrite_onlyParts (j : Nat) (v : W32) (s : State) : onlyParts [.anc] s (ancWrite j v s) := by
  intro p hp
  cases p <;> simp_all [Part.same, ancWrite]

/-! ## The lock (R492) -/

/-- A write of 1 to SEC.CTL.LOCK, on an awake device, sets the lock and word 48, and that is all. -/
theorem exec_secLock {v : W32} {s : State} (hs : s.awake = true) (hv : v.getLsbD 0 = true) :
    exec (.secLock v) s = .next (ancWrite 48 1 (s.setFld fSec_CTL_LOCK 1)) := by
  show execSecLock v s = _
  rw [execSecLock, hostAccess_awake _ s hs, writeSecCtl, if_pos hv]

theorem State.locked_of_lock {s : State} (h : s.on fSec_CTL_LOCK = true) : s.locked = true := by simp [State.locked, h]

/-! ## Events and saturating counts -/

theorem State.fld_addSat_self (s : State) (r : RegId) {hi lo : Nat} (d : Nat) (h : lo ≤ hi) (h2 : hi < 32) :
    (s.addSat ⟨r, hi, lo⟩ d).fld ⟨r, hi, lo⟩ = min (2 ^ (hi + 1 - lo) - 1) (s.fld ⟨r, hi, lo⟩ + d) := by
  have hpos : 0 < 2 ^ (hi + 1 - lo) := by positivity
  simp only [State.addSat, fldMax, State.fld_setFld_self s r hi lo _ h h2]
  exact Nat.mod_eq_of_lt (by omega)

@[simp] theorem eventNotice_cfg (e : FldId) (s : State) : (eventNotice e s).host.cfg = s.host.cfg := by
  simp only [eventNotice]; split_ifs <;> simp

/-- A raised event shows in the registers, and where its notice does. -/
theorem raise_onlyParts (e : FldId) (s : State) : onlyParts [.rings, .regs, .out] s (raise_ e s) := by
  intro p hp
  cases p <;> simp_all [Part.same, raise_]

/-- A raised event leaves the fields of the other registers, but those where its notice shows. -/
theorem fld_raise_ne {e : FldId} {s : State} {k : Blk} {i o : Nat} (hi lo : Nat) (hmsix : k ≠ .msix) (hnq : k ≠ .nq)
    (hne : ⟨k, i, o⟩ ≠ e.reg) : (raise_ e s).fld ⟨⟨k, i, o⟩, hi, lo⟩ = s.fld ⟨⟨k, i, o⟩, hi, lo⟩ := by
  rw [raise_, eventNotice_fld _ _ _ _ _ _ _ hmsix hnq]
  exact State.fld_setFld_ne s _ _ hi lo _ hne

/-! ## A response that is refused (R494) -/

@[simp] theorem fld_modSec (s : State) (f : SecSt → SecSt) (g : FldId) : (s.modSec f).fld g = s.fld g := State.fld_congr rfl g

theorem modSec_onlyParts (s : State) (f : SecSt → SecSt) : onlyParts [.sec] s (s.modSec f) := by
  intro p hp
  cases p <;> simp_all [Part.same, State.modSec]

/-- The lock alone refuses every response. -/
theorem respRefused_of_locked {s : State} (h : s.locked = true) (resp : List Byte) : s.respRefused resp = true := by
  simp [State.respRefused, h]

/-- A device that is not held in reset counts a response that it refuses. -/
theorem exec_secResp_refused {resp : List Byte} {s : State} (cl : List Bool) (hd : s.dark = false)
    (hr : s.respRefused resp = true) : exec (.secResp resp cl) s = .next (respFailed (tapSelect .secResp s)) := by
  show execSecResp resp cl s = _
  simp [execSecResp, hd, hr]

theorem dropChal_onlyParts (s : State) : onlyParts [.sec, .anc, .regs] s (dropChal s) := by
  intro p hp
  cases p <;> simp_all [Part.same, dropChal, showTa, ancWrite, State.modSec]

theorem dropChal_sec (s : State) : (dropChal s).sec = { s.sec with chal := none } := rfl

theorem dropChal_fld (s : State) (f : FldId) :
    (dropChal s).fld f = ((s.setFld fSec_TA_STAT_CHAL_VALID 0).setFld fSec_STAT_TA_STATE 0).fld f := State.fld_congr rfl f

theorem dropChal_taState (s : State) : (dropChal s).fld fSec_STAT_TA_STATE = 0 := by simp [dropChal_fld]

theorem dropChal_fails (s : State) : (dropChal s).fld fSec_TA_STAT_FAILS = s.fld fSec_TA_STAT_FAILS := by
  simp [dropChal_fld]

theorem dropChal_lock (s : State) : (dropChal s).fld fSec_CTL_LOCK = s.fld fSec_CTL_LOCK := by simp [dropChal_fld]

/-- The state in which a failed response is counted, and the third has blocked. -/
def failCounted (s : State) : State :=
  let s1 := s.addSat fSec_TA_STAT_FAILS
  if 3 ≤ s1.fld fSec_TA_STAT_FAILS then s1.setFld fSec_TA_STAT_BLOCKED 1 else s1

theorem respFailed_eq (s : State) : respFailed s = raise_ fSec_EVENT_TA_FAIL (dropChal (failCounted s)) := rfl

theorem failCounted_onlyParts (s : State) : onlyParts [.regs] s (failCounted s) := by
  intro p hp
  simp only [failCounted]
  split_ifs <;> cases p <;> simp_all [Part.same]

theorem failCounted_fails (s : State) : (failCounted s).fld fSec_TA_STAT_FAILS = min 3 (s.fld fSec_TA_STAT_FAILS + 1) := by
  have hadd := s.fld_addSat_self rSec_TA_STAT (hi := 1) (lo := 0) 1 (by decide) (by decide)
  simp only [failCounted]
  split_ifs
  · simpa using hadd
  · exact hadd

theorem failCounted_lock (s : State) : (failCounted s).fld fSec_CTL_LOCK = s.fld fSec_CTL_LOCK := by
  simp only [failCounted]; split_ifs <;> simp

/-- A failed response shows in SEC and the anchor store, and where its notice does. -/
theorem respFailed_onlyParts (s : State) : onlyParts [.sec, .anc, .rings, .regs, .out] s (respFailed s) :=
  ((failCounted_onlyParts s).mono (by decide)).trans
    (((dropChal_onlyParts _).mono (by decide)).trans ((raise_onlyParts _ _).mono (by decide)))

/-- A failed response ends the challenge and leaves the rest of the security controller: its keys too. -/
theorem respFailed_sec (s : State) : (respFailed s).sec = { s.sec with chal := none } := by
  have hraise := raise_onlyParts fSec_EVENT_TA_FAIL (dropChal (failCounted s)) .sec (by decide)
  have hcount : (failCounted s).sec = s.sec := failCounted_onlyParts s .sec (by decide)
  rw [respFailed_eq, hraise, dropChal_sec, hcount]

theorem respFailed_taState (s : State) : (respFailed s).fld fSec_STAT_TA_STATE = 0 := by
  rw [respFailed_eq, fld_raise_ne _ _ (by decide) (by decide) (by decide), dropChal_taState]

theorem respFailed_fails (s : State) : (respFailed s).fld fSec_TA_STAT_FAILS = min 3 (s.fld fSec_TA_STAT_FAILS + 1) := by
  rw [respFailed_eq, fld_raise_ne _ _ (by decide) (by decide) (by decide), dropChal_fails, failCounted_fails]

theorem respFailed_lock (s : State) : (respFailed s).fld fSec_CTL_LOCK = s.fld fSec_CTL_LOCK := by
  rw [respFailed_eq, fld_raise_ne _ _ (by decide) (by decide) (by decide), dropChal_lock, failCounted_lock]

/-- Settles O58: the write is the lock and word 48, and the lock alone makes every response a failed one. -/
theorem theLockHolds : Obligations.TheLockHolds := by
  unfold Obligations.TheLockHolds
  constructor
  · intro v s hs hv
    have hlock : (ancWrite 48 1 (s.setFld fSec_CTL_LOCK 1)).on fSec_CTL_LOCK = true := by simp [State.on]
    refine ⟨_, exec_secLock hs hv, hlock, State.locked_of_lock hlock, by simp, fun j hj => ?_, ?_, ?_⟩
    · exact (ancCopies_ancWrite_ne _ _ hj).trans (State.ancCopies_congr rfl rfl j)
    · exact setFld_onlyRegs s fSec_CTL_LOCK 1
    · exact ((setFld_onlyParts s _ _).mono (by decide)).trans ((ancWrite_onlyParts _ _ _).mono (by decide))
  · intro resp cl s hd hl
    have hparts : onlyParts [.sec, .anc, .rings, .regs, .out] s (respFailed (tapSelect .secResp s)) :=
      ((modSec_onlyParts s _).mono (by decide)).trans (respFailed_onlyParts _)
    have htap : ∀ f, (tapSelect .secResp s).fld f = s.fld f := fld_modSec s _
    refine ⟨_, exec_secResp_refused cl hd (respRefused_of_locked hl resp), ?_, ?_, ?_, ?_, ?_, ?_, ?_⟩
    · exact (hparts .dark (by decide)).trans hd
    · rw [respFailed_sec]; rfl
    · exact hparts .fuses (by decide)
    · exact hparts .sht (by decide)
    · exact respFailed_taState _
    · rw [respFailed_fails, htap]
    · rw [State.on, respFailed_lock, htap, State.on]

end Sys2Proof.Machine
end

section
/-! SUPPORT. Accesses to offsets that name no register (R2, R564), and the offsets of the beam-wide registers (R566). -/

namespace Sys2Proof.Machine

/-! ## Unassigned offsets -/

/-- No register lies at or past an end `e` that no row of the block's table passes (R564). -/
theorem findReg_eq_none_of_past {r : RegId} {e : Nat}
    (hend : ∀ d ∈ regTable r.blk, d.off < e ∧ d.off + d.stride * d.cnt ≤ e) (h : e ≤ r.off) : findReg r = none := by
  rw [findReg, Option.map_eq_none_iff, List.find?_eq_none]
  intro d hd
  obtain ⟨hoff, hlast⟩ := hend d hd
  have hne : r.off ≠ d.off := by omega
  have hout : ¬ r.off < d.off + d.stride * d.cnt := by omega
  split_ifs <;> simp [hne, hout]

theorem logReject_onlyRegs (fn space offset status : Nat) (wr : Bool) (s : State) :
    onlyRegs (fun r => r.blk = .sys ∨ r.blk = .win) s (logReject fn space offset status wr s) := by
  rintro ⟨k, i, o⟩ hr
  obtain ⟨hsys, hwin⟩ := not_or.1 hr
  exact logReject_reg fn space offset status wr s k i o hsys hwin

theorem logReject_onlyParts (fn space offset status : Nat) (wr : Bool) (s : State) :
    onlyParts [.rejLog, .regs] s (logReject fn space offset status wr s) := by
  intro p hp
  cases p <;> simp_all [Part.same]

theorem emit_onlyRegs (s : State) (o : Out) : onlyRegs (fun _ => False) s (s.emit o) :=
  fun r _ => State.reg_emit s o r

theorem emit_onlyParts (s : State) (o : Out) : onlyParts [.out] s (s.emit o) := by
  intro p hp
  cases p <;> simp_all [Part.same]

theorem inBar_pf {addr : Nat} (h : addr < 2 ^ 26) : inBar 0 addr = true := by simpa [inBar] using h

/-- A read of an unassigned offset, on an awake device, is logged and answered with 0 (R2). -/
theorem exec_resultRead_unassigned {fn addr : Nat} {s : State} (hs : s.awake = true) (hr : s.regAt fn addr = none)
    (hbar : inBar fn addr = true) : exec (.resultRead fn addr) s =
      .next ((logReject fn (spaceOf fn) addr eField false s).emit (.readData fn 0#32)) := by
  have hread : readAt fn addr s = (0#32, logReject fn (spaceOf fn) addr eField false s) := by simp [readAt, hr]
  show execResultRead fn addr s = _
  simp [execResultRead, hr, regAccess, hostAccess_awake _ s hs, readDone, hbar, hread]

/-- A write of an unassigned offset, on an awake device, is dropped as a rejected one (R2). -/
theorem exec_registerWrite_unassigned {fn addr : Nat} (v : W32) {s : State} (hs : s.awake = true)
    (hr : s.regAt fn addr = none) (hbar : inBar fn addr = true) :
    exec (.registerWrite fn addr v) s = .next (rejectWrite fn (spaceOf fn) addr eField s) := by
  have hwrite : writeAt fn addr v s = rejectWrite fn (spaceOf fn) addr eField s := by simp [writeAt, hr, hbar]
  show execRegisterWrite fn addr v s = _
  simp [execRegisterWrite, hr, regAccess, hostAccess_awake _ s hs, hwrite]

/-! ## The beam-wide registers (R566) -/

/-- In the range of BM0 the offsets of the beam-wide registers name them. -/
theorem regAt_beamWide (s : State) {o : Nat}
    (ho : o ∈ [0x8000, 0x8004, 0x8008, 0x8010, 0x8014, 0x8018, 0x801C, 0x8020, 0x8024]) :
    s.regAt 0 (0x300000 + o) = some ⟨.bmw, 0, o⟩ := by
  have hdecode : ∀ o ∈ [0x8000, 0x8004, 0x8008, 0x8010, 0x8014, 0x8018, 0x801C, 0x8020, 0x8024],
      decodeBar0 (0x300000 + o) = some ⟨.bmw, 0, o⟩ := by decide
  exact hdecode o ho

/-- In the ranges of BM1-BM15 an offset is looked up among the registers of that beam module alone. -/
theorem decodeBar0_bm {k o : Nat} (hk1 : 1 ≤ k) (hk : k < 16) (ho : o < 0x10000) :
    decodeBar0 (0x300000 + 0x10000 * k + o) = listed .bm k o := by
  have hinst : (0x300000 + 0x10000 * k + o - 0x300000) / 0x10000 = k := by omega
  have hoff : (0x300000 + 0x10000 * k + o) % 0x10000 = o := by omega
  generalize ha : 0x300000 + 0x10000 * k + o = a at hinst hoff
  have hlow : 0x310000 ≤ a := by omega
  have hhigh : a < 0x400000 := by omega
  unfold decodeBar0
  -- every range before the beam modules', the beam-wide one too, ends below BM1's
  repeat rw [if_neg (by omega)]
  rw [if_pos hhigh, hinst, hoff]

/-- The registers of a beam module end at 0x190. -/
theorem findReg_bm_eq_none {k o : Nat} (ho : 0x190 ≤ o) : findReg ⟨.bm, k, o⟩ = none := by
  have hend : ∀ d ∈ regTable .bm, d.off < 0x190 ∧ d.off + d.stride * d.cnt ≤ 0x190 := by decide
  exact findReg_eq_none_of_past hend ho

/-- In BM1-BM15 the offsets of the beam-wide registers name no register. -/
theorem regAt_beamWide_none (s : State) {k o : Nat} (hk1 : 1 ≤ k) (hk : k < 16) (hlo : 0x8000 ≤ o) (hhi : o ≤ 0x8027) :
    s.regAt 0 (0x300000 + 0x10000 * k + o) = none := by
  have hpast : findReg ⟨.bm, k, o⟩ = none := findReg_bm_eq_none (by omega)
  have hdecode : decodeBar0 (0x300000 + 0x10000 * k + o) = listed .bm k o := decodeBar0_bm hk1 hk (by omega)
  simp [State.regAt, hdecode, listed, hpast]

/-- Settles O59: in BM0 the table lists the offsets; in the other ranges they are unassigned, and R2 decides the accesses. -/
theorem beamWideRegistersAreInBmZero : Obligations.BeamWideRegistersAreInBmZero := by
  unfold Obligations.BeamWideRegistersAreInBmZero
  refine ⟨fun o ho s => regAt_beamWide s ho, fun k o v s hk1 hk hlo hhi hs => ?_⟩
  have hnone := regAt_beamWide_none s hk1 hk hlo hhi
  have hbar : inBar 0 (0x300000 + 0x10000 * k + o) = true := inBar_pf (by omega)
  refine ⟨hnone, ⟨_, exec_resultRead_unassigned hs hnone hbar, by simp, ?_, ?_⟩,
    ⟨_, exec_registerWrite_unassigned v hs hnone hbar, rejectWrite_rejLog_of_room _ _ _ _,
      rejectWrite_onlyRegs _ _ _ _ s, rejectWrite_onlyParts _ _ _ _ s⟩⟩
  · exact ((logReject_onlyRegs _ _ _ _ _ s).mono fun _ => Or.imp_right Or.inl).trans
      ((emit_onlyRegs _ _).mono fun _ => False.elim)
  · exact ((logReject_onlyParts _ _ _ _ _ s).mono (by decide)).trans ((emit_onlyParts _ _).mono (by decide))

end Sys2Proof.Machine
end

section
/-! SUPPORT. What every command keeps: one lemma per meaning, each from the lemmas about the operations it calls, and from
them the claims about every step (queue, fuses, beam memory). -/

-- The checked text is one long file: elaborating these in order bounds its threads and memory.
set_option Elab.async false

namespace Sys2Proof.Machine

/-! ## Operations that may give no state -/

theorem keep_mailed (n w0 w1 : Nat) {r s : State} (hk : Keep r s) : Keep r ((mailTo n w0 w1 s).getD s) := by
  cases e : mailTo n w0 w1 s with
  | none => exact hk
  | some t => exact keep_mailTo e hk

theorem keep_received {ep : Nat} {f g : RxFrame} {r s t : State} (e : s.received ep f = some (g, t)) (hk : Keep r s) :
    Keep r t := by
  simp only [State.received] at e
  repeat' split at e
  all_goals cases e
  · exact keep_modLane _ _ hk
  · exact hk

/-! ## The meanings of Machine/Anchor.lean -/

theorem keep_execAnchorVote {word upset} {r s t : State} (hk : Keep r s) (e : execAnchorVote word upset s = .next t) : Keep r t := by
  simp only [execAnchorVote, Host.Outcome.next.injEq] at e
  subst e
  repeat' with_reducible first | exact hk | apply keep_ancVote | fail_if_no_progress apply Keep.upd (hm := rfl) | split

/-! ## The meanings of Machine/Beam.lean -/

theorem keep_execMergeFlush {k line} {r s t : State} (hk : Keep r s) (e : execMergeFlush k line s = .next t) : Keep r t := by
  simp only [execMergeFlush, Host.Outcome.next.injEq] at e
  subst e
  repeat' with_reducible first | exact hk | apply keep_flushLine | split

theorem keep_execScrubStep {k upset} {r s t : State} (hk : Keep r s) (e : execScrubStep k upset s = .next t) : Keep r t := by
  simp only [execScrubStep, Host.Outcome.next.injEq] at e
  subst e
  repeat' with_reducible first
    | exact hk | intro _ hk | apply keep_count | apply keep_stepLine | apply keep_modBeam | apply keep_setFld | apply keep_raise_
    | apply keep_incWrap | split

theorem keep_execRepairStep {k upset} {r s t : State} (hk : Keep r s) (e : execRepairStep k upset s = .next t) : Keep r t := by
  simp only [execRepairStep, Host.Outcome.next.injEq] at e
  subst e
  repeat' with_reducible first | exact hk | apply keep_repairOne | split

theorem keep_execBeamTrainDone {k ok} {r s t : State} (hk : Keep r s) (e : execBeamTrainDone k ok s = .next t) : Keep r t := by
  simp only [execBeamTrainDone, Host.Outcome.next.injEq] at e
  subst e
  repeat' with_reducible first | exact hk | apply keep_showPhase | apply keep_setFld | apply keep_raise_ | split

theorem keep_execRefresh {k} {r s t : State} (hk : Keep r s) (e : execRefresh k s = .next t) : Keep r t := by
  simp only [execRefresh, Host.Outcome.next.injEq] at e
  subst e
  repeat' with_reducible first | exact hk | apply keep_count | split

theorem keep_execBmSrst {k v} {r s t : State} (hk : Keep r s) (e : execBmSrst k v s = .next t) : Keep r t := by
  simp only [execBmSrst, Host.Outcome.next.injEq] at e
  subst e
  repeat' with_reducible first | exact hk | intro _ hk | apply keep_hostAccess | apply keep_writeBmCtl | split

theorem keep_execBmCntClr {k v} {r s t : State} (hk : Keep r s) (e : execBmCntClr k v s = .next t) : Keep r t := by
  simp only [execBmCntClr, Host.Outcome.next.injEq] at e
  subst e
  repeat' with_reducible first | exact hk | intro _ hk | apply keep_hostAccess | apply keep_writeBmCtl | split

theorem keep_execBeamResetEnd {k} {r s t : State} (hk : Keep r s) (e : execBeamResetEnd k s = .next t) : Keep r t := by
  simp only [execBeamResetEnd, Host.Outcome.next.injEq] at e
  subst e
  repeat' with_reducible first | exact hk | apply keep_endBeamReset

theorem keep_execLogPop {v} {r s t : State} (hk : Keep r s) (e : execLogPop v s = .next t) : Keep r t := by
  simp only [execLogPop, Host.Outcome.next.injEq] at e
  subst e
  repeat' with_reducible first | exact hk | apply keep_hostAccess | apply keep_writeLogPop

theorem keep_execBar2Read {ofs len} {r s t : State} (hk : Keep r s) (e : execBar2Read ofs len s = .next t) : Keep r t := by
  simp only [execBar2Read, Host.Outcome.next.injEq] at e
  subst e
  repeat' with_reducible first
    | exact hk | intro _ hk | apply keep_hostAccess | apply keep_unsupported | apply keep_beamRead | apply keep_emit
    | apply keep_logReject | split

theorem keep_execBar2Write {ofs data} {r s t : State} (hk : Keep r s) (e : execBar2Write ofs data s = .next t) : Keep r t := by
  simp only [execBar2Write, Host.Outcome.next.injEq] at e
  subst e
  repeat' with_reducible first
    | exact hk | intro _ hk | apply keep_hostAccess | apply keep_unsupported | apply keep_beamWrite | apply keep_rejectWrite | split

/-! ## The meanings of Machine/Bays.lean -/

theorem keep_execBayAlloc {h owner any size base} {r s t : State} (hk : Keep r s) (e : execBayAlloc h owner any size base s = .next t) :
    Keep r t := by
  simp only [execBayAlloc, Host.Outcome.next.injEq] at e
  subst e
  repeat' with_reducible first | exact hk | intro _ hk | apply keep_command | apply keep_complete | apply keep_modBeam | split

theorem keep_execBayFree {h bay} {r s t : State} (hk : Keep r s) (e : execBayFree h bay s = .next t) : Keep r t := by
  simp only [execBayFree, Host.Outcome.next.injEq] at e
  subst e
  repeat' with_reducible first | exact hk | intro _ hk | apply keep_command | apply keep_complete | apply keep_modBeam

theorem keep_execBoltSet {h bolt bay kind bind ofs slotSize slots}
    {r s t : State} (hk : Keep r s) (e : execBoltSet h bolt bay kind bind ofs slotSize slots s = .next t) : Keep r t := by
  simp only [execBoltSet, Host.Outcome.next.injEq] at e
  subst e
  repeat' with_reducible first | exact hk | intro _ hk | apply keep_command | apply keep_modBolt | apply keep_complete | split

theorem keep_execBoltBindDone {bolt} {r s t : State} (hk : Keep r s) (e : execBoltBindDone bolt s = .next t) : Keep r t := by
  simp only [execBoltBindDone, Host.Outcome.next.injEq] at e
  subst e
  repeat' with_reducible first
    | exact hk | apply keep_beamWrite | apply keep_complete | apply keep_setBolt | (apply Keep.foldl; intro _ _ hk) | split

/-! ## The meanings of Machine/Bias.lean -/

theorem keep_execBiasHandover {g} {r s t : State} (hk : Keep r s) (e : execBiasHandover g s = .next t) : Keep r t := by
  simp only [execBiasHandover, Host.Outcome.next.injEq] at e
  subst e
  repeat' with_reducible first | exact hk | apply keep_biasHandover | split

theorem keep_execBiasLoadEdge {r s t : State} (hk : Keep r s) (e : execBiasLoadEdge s = .next t) : Keep r t := by
  simp only [execBiasLoadEdge, Host.Outcome.next.injEq] at e
  subst e
  repeat' with_reducible first | exact hk | apply keep_biasHandover | (apply Keep.foldl; intro _ _ hk) | split

theorem keep_execBiasArm {g v} {r s t : State} (hk : Keep r s) (e : execBiasArm g v s = .next t) : Keep r t := by
  simp only [execBiasArm, Host.Outcome.next.injEq] at e
  subst e
  repeat' with_reducible first | exact hk | intro _ hk | apply keep_aonAccess | apply keep_writeGrp | split

theorem keep_execBiasFault {n headroom present} {r s t : State} (hk : Keep r s) (e : execBiasFault n headroom present s = .next t) :
    Keep r t := by
  simp only [execBiasFault, Host.Outcome.next.injEq] at e
  subst e
  repeat' with_reducible first | exact hk | apply keep_setFld | apply keep_raise_ | apply keep_forceSafe | split

theorem keep_execHtrPeriod {n} {r s t : State} (hk : Keep r s) (e : execHtrPeriod n s = .next t) : Keep r t := by
  simp only [execHtrPeriod, Host.Outcome.next.injEq] at e
  subst e
  repeat' with_reducible first | exact hk | apply keep_htrStart | split

theorem keep_execHtrEnable {v} {r s t : State} (hk : Keep r s) (e : execHtrEnable v s = .next t) : Keep r t := by
  simp only [execHtrEnable, Host.Outcome.next.injEq] at e
  subst e
  repeat' with_reducible first | exact hk | apply keep_aonAccess | apply keep_writeHtrEn

theorem keep_execBiasSrst {v} {r s t : State} (hk : Keep r s) (e : execBiasSrst v s = .next t) : Keep r t := by
  simp only [execBiasSrst, Host.Outcome.next.injEq] at e
  subst e
  repeat' with_reducible first | exact hk | apply keep_aonAccess | apply keep_writeBiasCtl

theorem keep_execMgtGo {n v} {r s t : State} (hk : Keep r s) (e : execMgtGo n v s = .next t) : Keep r t := by
  simp only [execMgtGo, Host.Outcome.next.injEq] at e
  subst e
  repeat' with_reducible first | exact hk | intro _ hk | apply keep_aonAccess | apply keep_writeMgt | split

theorem keep_execMgtDone {n acked stuck done data}
    {r s t : State} (hk : Keep r s) (e : execMgtDone n acked stuck done data s = .next t) : Keep r t := by
  simp only [execMgtDone, Host.Outcome.next.injEq] at e
  subst e
  repeat' with_reducible first | exact hk | apply keep_emit | apply keep_putMgt | apply keep_mgtEnd | split

theorem keep_execModInt {low} {r s t : State} (hk : Keep r s) (e : execModInt low s = .next t) : Keep r t := by
  simp only [execModInt, Host.Outcome.next.injEq] at e
  subst e
  repeat' with_reducible first | exact hk | apply keep_modBias | apply keep_wake | apply keep_raise_ | split

/-! ## The meanings of Machine/Check.lean -/

theorem keep_execCkEnable {n v} {r s t : State} (hk : Keep r s) (e : execCkEnable n v s = .next t) : Keep r t := by
  simp only [execCkEnable, Host.Outcome.next.injEq] at e
  subst e
  repeat' with_reducible first | exact hk | intro _ hk | apply keep_hostAccess | apply keep_writeCkCtl | split

theorem keep_execCkFinal {n v} {r s t : State} (hk : Keep r s) (e : execCkFinal n v s = .next t) : Keep r t := by
  simp only [execCkFinal, Host.Outcome.next.injEq] at e
  subst e
  repeat' with_reducible first | exact hk | intro _ hk | apply keep_hostAccess | apply keep_writeCkCtl | split

theorem keep_execCkData {n v} {r s t : State} (hk : Keep r s) (e : execCkData n v s = .next t) : Keep r t := by
  simp only [execCkData, Host.Outcome.next.injEq] at e
  subst e
  repeat' with_reducible first | exact hk | intro _ hk | apply keep_hostAccess | apply keep_writeCkData | split

theorem keep_execCkDataTail {n v} {r s t : State} (hk : Keep r s) (e : execCkDataTail n v s = .next t) : Keep r t := by
  simp only [execCkDataTail, Host.Outcome.next.injEq] at e
  subst e
  repeat' with_reducible first | exact hk | intro _ hk | apply keep_hostAccess | apply keep_writeCkTail | split

/-! ## The meanings of Machine/Frames.lean -/

theorem keep_execFrameSend {h ep len frame} {r s t : State} (hk : Keep r s) (e : execFrameSend h ep len frame s = .next t) :
    Keep r t := by
  simp only [execFrameSend, Host.Outcome.next.injEq] at e
  subst e
  repeat' with_reducible first
    | exact hk | apply keep_begun | apply keep_postCompl | apply keep_readFailed | apply keep_modLane | apply keep_discardTx | split

theorem keep_execPost {h addr len} {r s t : State} (hk : Keep r s) (e : execPost h addr len s = .next t) : Keep r t := by
  simp only [execPost, Host.Outcome.next.injEq] at e
  subst e
  repeat' with_reducible first | exact hk | apply keep_postCompl | apply keep_begun | apply keep_modQp | split

/-! ## The meanings of Machine/Ingress.lean -/

theorem keep_execIspOpen {h port bolt blk} {r s t : State} (hk : Keep r s) (e : execIspOpen h port bolt blk s = .next t) :
    Keep r t := by
  simp only [execIspOpen, Host.Outcome.next.injEq] at e
  subst e
  repeat' with_reducible first | exact hk | apply keep_command | apply keep_ispInstall

theorem keep_execIspClose {h port} {r s t : State} (hk : Keep r s) (e : execIspClose h port s = .next t) : Keep r t := by
  simp only [execIspClose, Host.Outcome.next.injEq] at e
  subst e
  repeat' with_reducible first | exact hk | intro _ hk | apply keep_command | apply keep_ispRemove | split

theorem keep_execIspCloseDone {port} {r s t : State} (hk : Keep r s) (e : execIspCloseDone port s = .next t) : Keep r t := by
  simp only [execIspCloseDone, Host.Outcome.next.injEq] at e
  subst e
  repeat' with_reducible first | exact hk | apply keep_complete | apply keep_ispFree | split

theorem keep_execLegLoss {port leg} {r s t : State} (hk : Keep r s) (e : execLegLoss port leg s = .next t) : Keep r t := by
  simp only [execLegLoss, Host.Outcome.next.injEq] at e
  subst e
  repeat' with_reducible first | exact hk | apply keep_setIsp | apply keep_portNotice | split

theorem keep_execSlotClose {port idx} {r s t : State} (hk : Keep r s) (e : execSlotClose port idx s = .next t) : Keep r t := by
  simp only [execSlotClose, Host.Outcome.next.injEq] at e
  subst e
  repeat' with_reducible first | exact hk | apply keep_slotStops | apply keep_writeHdr | split

theorem keep_execFeedHoldExpiry {port} {r s t : State} (hk : Keep r s) (e : execFeedHoldExpiry port s = .next t) : Keep r t := by
  simp only [execFeedHoldExpiry, Host.Outcome.next.injEq] at e
  subst e
  repeat' with_reducible first | exact hk | apply keep_countIsp | apply keep_setIsp | apply keep_feedDrain | apply keep_feedPush | split

theorem keep_execIngCntClr {v} {r s t : State} (hk : Keep r s) (e : execIngCntClr v s = .next t) : Keep r t := by
  simp only [execIngCntClr, Host.Outcome.next.injEq] at e
  subst e
  repeat' with_reducible first | exact hk | apply keep_hostAccess | apply keep_writeIngCtl

theorem keep_execIspSel {v} {r s t : State} (hk : Keep r s) (e : execIspSel v s = .next t) : Keep r t := by
  simp only [execIspSel, Host.Outcome.next.injEq] at e
  subst e
  repeat' with_reducible first | exact hk | apply keep_hostAccess | apply keep_writeIspSel

/-! ## The meanings of Machine/Cox.lean -/

theorem keep_execCoxSleep {n} {r s t : State} (hk : Keep r s) (e : execCoxSleep n s = .next t) : Keep r t := by
  simp only [execCoxSleep, Host.Outcome.next.injEq] at e
  subst e
  repeat' with_reducible first | exact hk | apply keep_linkFrame | apply keep_setCxTx | split

theorem keep_execCoxWake {n} {r s t : State} (hk : Keep r s) (e : execCoxWake n s = .next t) : Keep r t := by
  simp only [execCoxWake, Host.Outcome.next.injEq] at e
  subst e
  repeat' with_reducible first | exact hk | apply keep_emit | apply keep_setCxTx | split

theorem keep_execCoxWakeEnd {n} {r s t : State} (hk : Keep r s) (e : execCoxWakeEnd n s = .next t) : Keep r t := by
  simp only [execCoxWakeEnd, Host.Outcome.next.injEq] at e
  subst e
  repeat' with_reducible first
    | exact hk | apply keep_emitItem | apply keep_setCxTx | apply keep_modLink | (apply Keep.foldl; intro _ _ hk) | split

theorem keep_execCoxSignalDetect {n} {r s t : State} (hk : Keep r s) (e : execCoxSignalDetect n s = .next t) : Keep r t := by
  simp only [execCoxSignalDetect, Host.Outcome.next.injEq] at e
  subst e
  repeat' with_reducible first
    | exact hk | apply keep_setFld | apply keep_setCxRx | apply keep_modLink | apply keep_wake | apply keep_raise_ | split

theorem keep_execCoxRxUp {n} {r s t : State} (hk : Keep r s) (e : execCoxRxUp n s = .next t) : Keep r t := by
  simp only [execCoxRxUp, Host.Outcome.next.injEq] at e
  subst e
  repeat' with_reducible first | exact hk | apply keep_raise_ | apply keep_setCxRx | apply keep_modLink | split

theorem keep_execCoxDownExpiry {n} {r s t : State} (hk : Keep r s) (e : execCoxDownExpiry n s = .next t) : Keep r t := by
  simp only [execCoxDownExpiry, Host.Outcome.next.injEq] at e
  subst e
  repeat' with_reducible first | exact hk | apply keep_searchCx | split

theorem keep_execCoxMeritWindowEnd {n eye violations}
    {r s t : State} (hk : Keep r s) (e : execCoxMeritWindowEnd n eye violations s = .next t) : Keep r t := by
  simp only [execCoxMeritWindowEnd, Host.Outcome.next.injEq] at e
  subst e
  repeat' with_reducible first
    | exact hk | apply keep_setFld | apply keep_incWrap | apply keep_resultReady | apply keep_addSat | apply keep_modLink | split

theorem keep_execCoxDfeAdapt {n signs} {r s t : State} (hk : Keep r s) (e : execCoxDfeAdapt n signs s = .next t) : Keep r t := by
  simp only [execCoxDfeAdapt, Host.Outcome.next.injEq] at e
  subst e
  repeat' with_reducible first | exact hk | apply keep_setSFld | (apply Keep.foldl; intro _ _ hk) | split

theorem keep_execCxSrst {n v} {r s t : State} (hk : Keep r s) (e : execCxSrst n v s = .next t) : Keep r t := by
  simp only [execCxSrst, Host.Outcome.next.injEq] at e
  subst e
  repeat' with_reducible first | exact hk | intro _ hk | apply keep_hostAccess | apply keep_writeCxCtl | split

theorem keep_execCxCntClr {n v} {r s t : State} (hk : Keep r s) (e : execCxCntClr n v s = .next t) : Keep r t := by
  simp only [execCxCntClr, Host.Outcome.next.injEq] at e
  subst e
  repeat' with_reducible first | exact hk | intro _ hk | apply keep_hostAccess | apply keep_writeCxCtl | split

theorem keep_execCxEnable {n v} {r s t : State} (hk : Keep r s) (e : execCxEnable n v s = .next t) : Keep r t := by
  simp only [execCxEnable, Host.Outcome.next.injEq] at e
  subst e
  repeat' with_reducible first | exact hk | intro _ hk | apply keep_hostAccess | apply keep_writeCxCtl | split

/-! ## The meanings of Machine/Timebase.lean -/

theorem keep_execStrokeDef {h k num den src stepMode phase}
    {r s t : State} (hk : Keep r s) (e : execStrokeDef h k num den src stepMode phase s = .next t) : Keep r t := by
  simp only [execStrokeDef, Host.Outcome.next.injEq] at e
  subst e
  repeat' with_reducible first | exact hk | apply keep_command | apply keep_strokeDefBegin

theorem keep_execStrokeJump {h k toIn delta} {r s t : State} (hk : Keep r s) (e : execStrokeJump h k toIn delta s = .next t) :
    Keep r t := by
  simp only [execStrokeJump, Host.Outcome.next.injEq] at e
  subst e
  repeat' with_reducible first | exact hk | intro _ hk | apply keep_command | apply keep_modGen

theorem keep_execTimeSet {h relative sec ns frac ofs}
    {r s t : State} (hk : Keep r s) (e : execTimeSet h relative sec ns frac ofs s = .next t) : Keep r t := by
  simp only [execTimeSet, Host.Outcome.next.injEq] at e
  subst e
  repeat' with_reducible first | exact hk | intro _ hk | apply keep_command | apply keep_stepTimebase | apply keep_completeRec

theorem keep_execStrokeInEdge {falling at_} {r s t : State} (hk : Keep r s) (e : execStrokeInEdge falling at_ s = .next t) :
    Keep r t := by
  simp only [execStrokeInEdge, Host.Outcome.next.injEq] at e
  subst e
  repeat' with_reducible first | exact hk | apply keep_setGen | apply keep_setSFld | apply keep_resultReady | split

theorem keep_execInLost {r s t : State} (hk : Keep r s) (e : execInLost s = .next t) : Keep r t := by
  simp only [execInLost, Host.Outcome.next.injEq] at e
  subst e
  repeat' with_reducible first | exact hk | apply keep_raise_ | apply keep_setGen | split

theorem keep_execTbclkLost {r s t : State} (hk : Keep r s) (e : execTbclkLost s = .next t) : Keep r t := by
  simp only [execTbclkLost, Host.Outcome.next.injEq] at e
  subst e
  repeat' with_reducible first | exact hk | apply keep_raise_ | apply keep_tbSwitch | apply keep_setFld | split

theorem keep_execTbclkBack {r s t : State} (hk : Keep r s) (e : execTbclkBack s = .next t) : Keep r t := by
  simp only [execTbclkBack, Host.Outcome.next.injEq] at e
  subst e
  repeat' with_reducible first | exact hk | apply keep_raise_ | apply keep_tbSwitch | apply keep_setFld | split

theorem keep_execPps {r s t : State} (hk : Keep r s) (e : execPps s = .next t) : Keep r t := by
  simp only [execPps, Host.Outcome.next.injEq] at e
  subst e
  repeat' with_reducible first | exact hk | apply keep_advanceTo | fail_if_no_progress apply Keep.upd (hm := rfl) | split

theorem keep_execPtmDialog {r s t : State} (hk : Keep r s) (e : execPtmDialog s = .next t) : Keep r t := by
  simp only [execPtmDialog, Host.Outcome.next.injEq] at e
  subst e
  repeat' with_reducible first | exact hk | apply keep_ptmStart

theorem keep_execPtmGo {v} {r s t : State} (hk : Keep r s) (e : execPtmGo v s = .next t) : Keep r t := by
  simp only [execPtmGo, Host.Outcome.next.injEq] at e
  subst e
  repeat' with_reducible first | exact hk | apply keep_hostAccess | apply keep_writePtmCtl

theorem keep_execPtmDone {dev host} {r s t : State} (hk : Keep r s) (e : execPtmDone dev host s = .next t) : Keep r t := by
  simp only [execPtmDone, Host.Outcome.next.injEq] at e
  subst e
  repeat' with_reducible first
    | exact hk | apply keep_setFld | apply keep_setPair | apply keep_incWrap | apply keep_resultReady
    | fail_if_no_progress apply Keep.upd (hm := rfl) | split

theorem keep_execPtmFail {r s t : State} (hk : Keep r s) (e : execPtmFail s = .next t) : Keep r t := by
  simp only [execPtmFail, Host.Outcome.next.injEq] at e
  subst e
  repeat' with_reducible first | exact hk | apply keep_raise_ | fail_if_no_progress apply Keep.upd (hm := rfl) | split

/-! ## The meanings of Machine/Servo.lean -/

theorem keep_execServoSample {fn v} {r s t : State} (hk : Keep r s) (e : execServoSample fn v s = .next t) : Keep r t := by
  simp only [execServoSample, Host.Outcome.next.injEq] at e
  subst e
  repeat' with_reducible first | exact hk | apply keep_hostAccess | apply keep_writeServoHi

theorem keep_execServoHoldover {r s t : State} (hk : Keep r s) (e : execServoHoldover s = .next t) : Keep r t := by
  simp only [execServoHoldover, Host.Outcome.next.injEq] at e
  subst e
  repeat' with_reducible first | exact hk | apply keep_raise_ | apply keep_toHoldover | split

/-! ## The meanings of Machine/Shuttle.lean -/

theorem keep_execHalt {at_} {r s t : State} (hk : Keep r s) (e : execHalt at_ s = .next t) : Keep r t := by
  simp only [execHalt, Host.Outcome.next.injEq] at e
  subst e
  repeat' with_reducible first | exact hk | intro _ hk | apply keep_runIns | split

theorem keep_execAlu {at_ op dst src shift} {r s t : State} (hk : Keep r s) (e : execAlu at_ op dst src shift s = .next t) :
    Keep r t := by
  simp only [execAlu, Host.Outcome.next.injEq] at e
  subst e
  repeat' with_reducible first | exact hk | apply keep_runIns | apply keep_aluBody

theorem keep_execMac {at_ op acc d1 d2 y x} {r s t : State} (hk : Keep r s) (e : execMac at_ op acc d1 d2 y x s = .next t) :
    Keep r t := by
  simp only [execMac, Host.Outcome.next.injEq] at e
  subst e
  repeat' with_reducible first | exact hk | intro _ hk | apply keep_runIns | apply keep_macOne | apply keep_pxfer | split

theorem keep_execDualMac {at_ word} {r s t : State} (hk : Keep r s) (e : execDualMac at_ word s = .next t) : Keep r t := by
  simp only [execDualMac, Host.Outcome.next.injEq] at e
  subst e
  repeat' with_reducible first | exact hk | apply keep_runIns | apply keep_dualBody | split

theorem keep_execTransfer {at_ op} {r s t : State} (hk : Keep r s) (e : execTransfer at_ op s = .next t) : Keep r t := by
  simp only [execTransfer, Host.Outcome.next.injEq] at e
  subst e
  repeat' with_reducible first | exact hk | apply keep_runIns | apply keep_xferBody

theorem keep_execDo {at_ cnt len} {r s t : State} (hk : Keep r s) (e : execDo at_ cnt len s = .next t) : Keep r t := by
  simp only [execDo, Host.Outcome.next.injEq] at e
  subst e
  repeat' with_reducible first | exact hk | apply keep_runIns | apply keep_doBody

theorem keep_execRep {at_ dat count} {r s t : State} (hk : Keep r s) (e : execRep at_ dat count s = .next t) : Keep r t := by
  simp only [execRep, Host.Outcome.next.injEq] at e
  subst e
  repeat' with_reducible first | exact hk | apply keep_runIns | apply keep_repBody

theorem keep_execBranch {at_ cond target} {r s t : State} (hk : Keep r s) (e : execBranch at_ cond target s = .next t) : Keep r t := by
  simp only [execBranch, Host.Outcome.next.injEq] at e
  subst e
  repeat' with_reducible first | exact hk | intro _ hk | apply keep_runIns | apply keep_closeLevels | split

theorem keep_execCall {at_ target} {r s t : State} (hk : Keep r s) (e : execCall at_ target s = .next t) : Keep r t := by
  simp only [execCall, Host.Outcome.next.injEq] at e
  subst e
  repeat' with_reducible first | exact hk | intro _ hk | apply keep_runIns | apply keep_setShut | split

theorem keep_execReturn {at_} {r s t : State} (hk : Keep r s) (e : execReturn at_ s = .next t) : Keep r t := by
  simp only [execReturn, Host.Outcome.next.injEq] at e
  subst e
  repeat' with_reducible first | exact hk | intro _ hk | apply keep_runIns | apply keep_setShut | split

theorem keep_execIn {at_ d fifo} {r s t : State} (hk : Keep r s) (e : execIn at_ d fifo s = .next t) : Keep r t := by
  simp only [execIn, Host.Outcome.next.injEq] at e
  subst e
  repeat' with_reducible first
    | exact hk | intro _ hk | apply keep_runIns | apply keep_modShut | apply keep_setSv | apply keep_modSr | apply keep_refWord | split

theorem keep_execOut {at_ o src round} {r s t : State} (hk : Keep r s) (e : execOut at_ o src round s = .next t) : Keep r t := by
  simp only [execOut, Host.Outcome.next.injEq] at e
  subst e
  repeat' with_reducible first | exact hk | apply keep_runIns | apply keep_outBody

theorem keep_execStreamBlockWrite {sh o} {r s t : State} (hk : Keep r s) (e : execStreamBlockWrite sh o s = .next t) : Keep r t := by
  simp only [execStreamBlockWrite, Host.Outcome.next.injEq] at e
  subst e
  repeat' with_reducible first | exact hk | apply keep_writeBlock | apply keep_setStr | split

theorem keep_execSend {at_ dest d1 d2} {r s t : State} (hk : Keep r s) (e : execSend at_ dest d1 d2 s = .next t) : Keep r t := by
  simp only [execSend, Host.Outcome.next.injEq] at e
  subst e
  repeat' with_reducible first | exact hk | intro _ hk | apply keep_runIns | apply keep_sendBody | split

theorem keep_execWait {at_ mask} {r s t : State} (hk : Keep r s) (e : execWait at_ mask s = .next t) : Keep r t := by
  simp only [execWait, Host.Outcome.next.injEq] at e
  subst e
  repeat' with_reducible first | exact hk | intro _ hk | apply keep_runIns | apply keep_modShut | apply keep_setSv | split

theorem keep_execTmrExpiry {sh} {r s t : State} (hk : Keep r s) (e : execTmrExpiry sh s = .next t) : Keep r t := by
  simp only [execTmrExpiry, Host.Outcome.next.injEq] at e
  subst e
  repeat' with_reducible first | exact hk | apply keep_setSv | apply keep_modShut | split

theorem keep_execHouseRestart {sh} {r s t : State} (hk : Keep r s) (e : execHouseRestart sh s = .next t) : Keep r t := by
  simp only [execHouseRestart, Host.Outcome.next.injEq] at e
  subst e
  repeat' with_reducible first
    | exact hk | apply keep_modShut | apply keep_setSv | apply keep_setPc | apply keep_setShState | apply keep_setReg
    | apply keep_raise_ | split

/-! ## The meanings of Machine/ShuttleCmd.lean -/

theorem keep_execShtLoad {h sh img} {r s t : State} (hk : Keep r s) (e : execShtLoad h sh img s = .next t) : Keep r t := by
  simp only [execShtLoad, Host.Outcome.next.injEq] at e
  subst e
  repeat' with_reducible first | exact hk | intro _ hk | apply keep_command | fail_if_no_progress apply Keep.upd (hm := rfl)

theorem keep_execShtLoadDone {sh} {r s t : State} (hk : Keep r s) (e : execShtLoadDone sh s = .next t) : Keep r t := by
  simp only [execShtLoadDone, Host.Outcome.next.injEq] at e
  subst e
  repeat' with_reducible first
    | exact hk | apply keep_complete | apply keep_loadImage | fail_if_no_progress apply Keep.upd (hm := rfl) | split

theorem keep_execShtStart {h sh resume atStroke k c blk}
    {r s t : State} (hk : Keep r s) (e : execShtStart h sh resume atStroke k c blk s = .next t) : Keep r t := by
  simp only [execShtStart, Host.Outcome.next.injEq] at e
  subst e
  repeat' with_reducible first
    | exact hk | intro _ hk | apply keep_command | apply keep_claimBolts | apply keep_modShut | apply keep_complete
    | apply keep_enterRun | split

theorem keep_execShtStop {h sh} {r s t : State} (hk : Keep r s) (e : execShtStop h sh s = .next t) : Keep r t := by
  simp only [execShtStop, Host.Outcome.next.injEq] at e
  subst e
  repeat' with_reducible first
    | exact hk | intro _ hk | apply keep_command | apply keep_complete | apply keep_abortStart | apply keep_stopShuttle | split

theorem keep_execShtMsg {h sh w0 w1} {r s t : State} (hk : Keep r s) (e : execShtMsg h sh w0 w1 s = .next t) : Keep r t := by
  simp only [execShtMsg, Host.Outcome.next.injEq] at e
  subst e
  repeat' with_reducible first
    | exact hk | intro _ hk | apply keep_command | refine keep_mailTo (by assumption) ?_ | apply keep_complete | split

theorem keep_execShSrst {sh v} {r s t : State} (hk : Keep r s) (e : execShSrst sh v s = .next t) : Keep r t := by
  simp only [execShSrst, Host.Outcome.next.injEq] at e
  subst e
  repeat' with_reducible first | exact hk | intro _ hk | apply keep_hostAccess | apply keep_writeShCtl | split

/-! ## The meanings of Machine/Draft.lean -/

theorem keep_execDraftRun {h chan pri len prog} {r s t : State} (hk : Keep r s) (e : execDraftRun h chan pri len prog s = .next t) :
    Keep r t := by
  simp only [execDraftRun, Host.Outcome.next.injEq] at e
  subst e
  repeat' with_reducible first
    | exact hk | intro _ hk | apply keep_command | apply keep_completeRec | apply keep_setDc | apply keep_setReg | apply keep_setFld
    | apply keep_ckRestart | apply keep_setDcState | split

theorem keep_execDraftAbort {h chan} {r s t : State} (hk : Keep r s) (e : execDraftAbort h chan s = .next t) : Keep r t := by
  simp only [execDraftAbort, Host.Outcome.next.injEq] at e
  subst e
  repeat' with_reducible first | exact hk | intro _ hk | apply keep_command | apply keep_failDraft | apply keep_modDc

theorem keep_execMove {chan} {r s t : State} (hk : Keep r s) (e : execMove chan s = .next t) : Keep r t := by
  simp only [execMove, Host.Outcome.next.injEq] at e
  subst e
  repeat' with_reducible first | exact hk | apply keep_startXfer | split

theorem keep_execFill {chan} {r s t : State} (hk : Keep r s) (e : execFill chan s = .next t) : Keep r t := by
  simp only [execFill, Host.Outcome.next.injEq] at e
  subst e
  repeat' with_reducible first | exact hk | apply keep_startXfer | split

theorem keep_execLoop {chan} {r s t : State} (hk : Keep r s) (e : execLoop chan s = .next t) : Keep r t := by
  simp only [execLoop, Host.Outcome.next.injEq] at e
  subst e
  repeat' with_reducible first | exact hk | apply keep_setStack | apply keep_setFld | apply keep_dcNext | split

theorem keep_execDraftWait {chan} {r s t : State} (hk : Keep r s) (e : execDraftWait chan s = .next t) : Keep r t := by
  simp only [execDraftWait, Host.Outcome.next.injEq] at e
  subst e
  repeat' with_reducible first | exact hk | apply keep_setDcState | apply keep_modDc | split

theorem keep_execDraftWaitDone {chan} {r s t : State} (hk : Keep r s) (e : execDraftWaitDone chan s = .next t) : Keep r t := by
  simp only [execDraftWaitDone, Host.Outcome.next.injEq] at e
  subst e
  repeat' with_reducible first | exact hk | apply keep_setFld | apply keep_dcNext | apply keep_setDcState | apply keep_modDc | split

theorem keep_execDraftWaitTimeout {chan} {r s t : State} (hk : Keep r s) (e : execDraftWaitTimeout chan s = .next t) : Keep r t := by
  simp only [execDraftWaitTimeout, Host.Outcome.next.injEq] at e
  subst e
  repeat' with_reducible first | exact hk | apply keep_failDraft | split

theorem keep_execSignal {chan} {r s t : State} (hk : Keep r s) (e : execSignal chan s = .next t) : Keep r t := by
  simp only [execSignal, Host.Outcome.next.injEq] at e
  subst e
  repeat' with_reducible first
    | exact hk | apply keep_failDraft | apply keep_setFld | apply keep_mailed | apply keep_emit | apply keep_modDc | apply keep_dcNext
    | split

theorem keep_execEnd {chan} {r s t : State} (hk : Keep r s) (e : execEnd chan s = .next t) : Keep r t := by
  simp only [execEnd, Host.Outcome.next.injEq] at e
  subst e
  repeat' with_reducible first | exact hk | apply keep_endDraft | split

theorem keep_execBurstIssue {ready src} {r s t : State} (hk : Keep r s) (e : execBurstIssue ready src s = .next t) : Keep r t := by
  simp only [execBurstIssue, Host.Outcome.next.injEq] at e
  subst e
  repeat' with_reducible first | exact hk | apply keep_burst | fail_if_no_progress apply Keep.upd (hm := rfl) | split

theorem keep_execReadbackDone {chan ok} {r s t : State} (hk : Keep r s) (e : execReadbackDone chan ok s = .next t) : Keep r t := by
  simp only [execReadbackDone, Host.Outcome.next.injEq] at e
  subst e
  repeat' with_reducible first | exact hk | apply keep_finishDraft | apply keep_stopEngine | apply keep_readFailed | split

theorem keep_execDraftBusError {chan addr} {r s t : State} (hk : Keep r s) (e : execDraftBusError chan addr s = .next t) :
    Keep r t := by
  simp only [execDraftBusError, Host.Outcome.next.injEq] at e
  subst e
  repeat' with_reducible first | exact hk | apply keep_stopEngine | apply keep_endDraft | apply keep_readFailed | split

theorem keep_execDrfSrst {v} {r s t : State} (hk : Keep r s) (e : execDrfSrst v s = .next t) : Keep r t := by
  simp only [execDrfSrst, Host.Outcome.next.injEq] at e
  subst e
  repeat' with_reducible first | exact hk | apply keep_hostAccess | apply keep_writeDrfCtl

theorem keep_execDrfRestart {v} {r s t : State} (hk : Keep r s) (e : execDrfRestart v s = .next t) : Keep r t := by
  simp only [execDrfRestart, Host.Outcome.next.injEq] at e
  subst e
  repeat' with_reducible first | exact hk | apply keep_hostAccess | apply keep_writeDrfCtl

/-! ## The meanings of Machine/Lane.lean -/

theorem keep_execLaneMode {h lane mode variant width end_}
    {r s t : State} (hk : Keep r s) (e : execLaneMode h lane mode variant width end_ s = .next t) : Keep r t := by
  simp only [execLaneMode, Host.Outcome.next.injEq] at e
  subst e
  repeat' with_reducible first | exact hk | apply keep_command | apply keep_laneModeBegin | apply keep_tick | split

theorem keep_execLaneReconfigDone {lane} {r s t : State} (hk : Keep r s) (e : execLaneReconfigDone lane s = .next t) : Keep r t := by
  simp only [execLaneReconfigDone, Host.Outcome.next.injEq] at e
  subst e
  repeat' with_reducible first
    | exact hk | apply keep_retune | apply keep_modLane | apply keep_rampUp | apply keep_laneModeDone | (apply Keep.foldl; intro _ _ hk)
    | split

theorem keep_execRampStep {lane} {r s t : State} (hk : Keep r s) (e : execRampStep lane s = .next t) : Keep r t := by
  simp only [execRampStep, Host.Outcome.next.injEq] at e
  subst e
  repeat' with_reducible first | exact hk | apply keep_afterRamps | apply keep_stepAmp | (apply Keep.foldl; intro _ _ hk) | split

theorem keep_execTxIdleEntry {p} {r s t : State} (hk : Keep r s) (e : execTxIdleEntry p s = .next t) : Keep r t := by
  simp only [execTxIdleEntry, Host.Outcome.next.injEq] at e
  subst e
  repeat' with_reducible first | exact hk | apply keep_toTxIdle

theorem keep_execTxWake {lane} {r s t : State} (hk : Keep r s) (e : execTxWake lane s = .next t) : Keep r t := by
  simp only [execTxWake, Host.Outcome.next.injEq] at e
  subst e
  repeat' with_reducible first | exact hk | apply keep_setTx | apply keep_setAmp | apply keep_emit | split

theorem keep_execTxBurstEnd {lane} {r s t : State} (hk : Keep r s) (e : execTxBurstEnd lane s = .next t) : Keep r t := by
  simp only [execTxBurstEnd, Host.Outcome.next.injEq] at e
  subst e
  repeat' with_reducible first | exact hk | apply keep_setTx | apply keep_modLane | split

theorem keep_execCatchSequenceStart {p} {r s t : State} (hk : Keep r s) (e : execCatchSequenceStart p s = .next t) : Keep r t := by
  simp only [execCatchSequenceStart, Host.Outcome.next.injEq] at e
  subst e
  repeat' with_reducible first
    | exact hk | apply keep_sendSuperframes | apply keep_setFld | apply keep_emit | apply keep_setLane | apply keep_complete | split

theorem keep_execLaneTrain {h lane rx tx} {r s t : State} (hk : Keep r s) (e : execLaneTrain h lane rx tx s = .next t) : Keep r t := by
  simp only [execLaneTrain, Host.Outcome.next.injEq] at e
  subst e
  repeat' with_reducible first | exact hk | apply keep_command | apply keep_laneTrainBegin

theorem keep_execTxArm {lane v} {r s t : State} (hk : Keep r s) (e : execTxArm lane v s = .next t) : Keep r t := by
  simp only [execTxArm, Host.Outcome.next.injEq] at e
  subst e
  repeat' with_reducible first | exact hk | intro _ hk | apply keep_hostAccess | apply keep_writeFirCtl | split

theorem keep_execTxHandover {lane} {r s t : State} (hk : Keep r s) (e : execTxHandover lane s = .next t) : Keep r t := by
  simp only [execTxHandover, Host.Outcome.next.injEq] at e
  subst e
  repeat' with_reducible first | exact hk | apply keep_handOver | (apply Keep.foldl; intro _ _ hk) | split

theorem keep_execLaneSrst {lane v} {r s t : State} (hk : Keep r s) (e : execLaneSrst lane v s = .next t) : Keep r t := by
  simp only [execLaneSrst, Host.Outcome.next.injEq] at e
  subst e
  repeat' with_reducible first | exact hk | intro _ hk | apply keep_hostAccess | apply keep_writeLaneCtl | split

theorem keep_execLaneResetEnd {lane} {r s t : State} (hk : Keep r s) (e : execLaneResetEnd lane s = .next t) : Keep r t := by
  simp only [execLaneResetEnd, Host.Outcome.next.injEq] at e
  subst e
  repeat' with_reducible first | exact hk | apply keep_setFld | apply keep_modLane | (apply Keep.foldl; intro _ _ hk) | split

/-! ## The meanings of Machine/LaneRx.lean -/

theorem keep_execSignalDetect {lane} {r s t : State} (hk : Keep r s) (e : execSignalDetect lane s = .next t) : Keep r t := by
  simp only [execSignalDetect, Host.Outcome.next.injEq] at e
  subst e
  repeat' with_reducible first | exact hk | apply keep_toAcquire | apply keep_setFld | apply keep_modLane | split

theorem keep_execLossOfSignal {lane} {r s t : State} (hk : Keep r s) (e : execLossOfSignal lane s = .next t) : Keep r t := by
  simp only [execLossOfSignal, Host.Outcome.next.injEq] at e
  subst e
  repeat' with_reducible first
    | exact hk | apply keep_raise_ | apply keep_leaveLocked | apply keep_setRx | apply keep_setFld | apply keep_modLane | split

theorem keep_execAcquireDone {lane powers rms lp} {r s t : State} (hk : Keep r s) (e : execAcquireDone lane powers rms lp s = .next t) :
    Keep r t := by
  simp only [execAcquireDone, Host.Outcome.next.injEq] at e
  subst e
  repeat' with_reducible first
    | exact hk | apply keep_setFld | apply keep_agcFree | apply keep_setSFld | apply keep_setRx | apply keep_modLane
    | fail_if_no_progress apply Keep.upd (hm := rfl) | split

theorem keep_execAcquireTimeout {lane} {r s t : State} (hk : Keep r s) (e : execAcquireTimeout lane s = .next t) : Keep r t := by
  simp only [execAcquireTimeout, Host.Outcome.next.injEq] at e
  subst e
  repeat' with_reducible first | exact hk | apply keep_retry | apply keep_toAcquire | split

theorem keep_execTrainSolveDone {lane tr} {r s t : State} (hk : Keep r s) (e : execTrainSolveDone lane tr s = .next t) : Keep r t := by
  simp only [execTrainSolveDone, Host.Outcome.next.injEq] at e
  subst e
  repeat' with_reducible first
    | exact hk | apply keep_agcFree | apply keep_modLane | apply keep_setLane | apply keep_setRx | apply keep_setFld
    | apply keep_useCandidate | fail_if_no_progress apply Keep.upd (hm := rfl) | split

theorem keep_execCatchWaitExpiry {lane} {r s t : State} (hk : Keep r s) (e : execCatchWaitExpiry lane s = .next t) : Keep r t := by
  simp only [execCatchWaitExpiry, Host.Outcome.next.injEq] at e
  subst e
  repeat' with_reducible first
    | exact hk | intro _ hk | fail_if_no_progress simp only [id] | apply keep_retry | apply keep_raise_ | apply keep_setLane | split

theorem keep_execCatchSequenceDetect {lane header}
    {r s t : State} (hk : Keep r s) (e : execCatchSequenceDetect lane header s = .next t) : Keep r t := by
  simp only [execCatchSequenceDetect, Host.Outcome.next.injEq] at e
  subst e
  repeat' with_reducible first
    | exact hk | apply keep_addSat | apply keep_setLane | apply keep_leaveLocked | apply keep_setRx | apply keep_raise_
    | apply keep_modLane | apply keep_passSequence | split

theorem keep_execTimingLockLoss {lane} {r s t : State} (hk : Keep r s) (e : execTimingLockLoss lane s = .next t) : Keep r t := by
  simp only [execTimingLockLoss, Host.Outcome.next.injEq] at e
  subst e
  repeat' with_reducible first | exact hk | apply keep_raise_ | apply keep_toAcquire | split

theorem keep_execFdeBlockUpdate {lane rx lp} {r s t : State} (hk : Keep r s) (e : execFdeBlockUpdate lane rx lp s = .next t) :
    Keep r t := by
  simp only [execFdeBlockUpdate, Host.Outcome.next.injEq] at e
  subst e
  repeat' with_reducible first
    | exact hk | apply keep_countChecked | apply keep_setSFld | apply keep_setLane | apply keep_addInner | split

theorem keep_execDfeAdapt {lane at_} {r s t : State} (hk : Keep r s) (e : execDfeAdapt lane at_ s = .next t) : Keep r t := by
  simp only [execDfeAdapt, Host.Outcome.next.injEq] at e
  subst e
  repeat' with_reducible first | exact hk | apply keep_setSFld | apply keep_setLane | split

theorem keep_execTargetAdapt {lane at1 at2} {r s t : State} (hk : Keep r s) (e : execTargetAdapt lane at1 at2 s = .next t) :
    Keep r t := by
  simp only [execTargetAdapt, Host.Outcome.next.injEq] at e
  subst e
  repeat' with_reducible first | exact hk | apply keep_setLane | apply keep_setFld | apply keep_setSFld | split

theorem keep_execMeritWindowEnd {lane symbols rms}
    {r s t : State} (hk : Keep r s) (e : execMeritWindowEnd lane symbols rms s = .next t) : Keep r t := by
  simp only [execMeritWindowEnd, Host.Outcome.next.injEq] at e
  subst e
  repeat' with_reducible first
    | exact hk | apply keep_agcWindow | apply keep_modLane | apply keep_setFld | apply keep_incWrap | apply keep_resultReady
    | apply keep_lockedWindow | apply keep_candidateWindow | apply keep_convergeWindow | split

theorem keep_execIdleMarkerRx {m} {r s t : State} (hk : Keep r s) (e : execIdleMarkerRx m s = .next t) : Keep r t := by
  simp only [execIdleMarkerRx, Host.Outcome.next.injEq] at e
  subst e
  repeat' with_reducible first | exact hk | apply keep_toRxIdle | split

theorem keep_execPreamblePeak {lane negative mag pl}
    {r s t : State} (hk : Keep r s) (e : execPreamblePeak lane negative mag pl s = .next t) : Keep r t := by
  simp only [execPreamblePeak, Host.Outcome.next.injEq] at e
  subst e
  repeat' with_reducible first | exact hk | apply keep_setLane | apply keep_enterWake | split

theorem keep_execStartMarkerRx {lane m} {r s t : State} (hk : Keep r s) (e : execStartMarkerRx lane m s = .next t) : Keep r t := by
  simp only [execStartMarkerRx, Host.Outcome.next.injEq] at e
  subst e
  repeat' with_reducible first
    | exact hk | apply keep_countLn | apply keep_afterMarker | apply keep_enterLocked | apply keep_setFld | apply keep_raise_
    | apply keep_addSat | split

theorem keep_execBurstAbandon {lane} {r s t : State} (hk : Keep r s) (e : execBurstAbandon lane s = .next t) : Keep r t := by
  simp only [execBurstAbandon, Host.Outcome.next.injEq] at e
  subst e
  repeat' with_reducible first | exact hk | apply keep_setLane | apply keep_addSat | apply keep_setRx | apply keep_setFld | split

theorem keep_execSpareRestart {lane mag at_} {r s t : State} (hk : Keep r s) (e : execSpareRestart lane mag at_ s = .next t) :
    Keep r t := by
  simp only [execSpareRestart, Host.Outcome.next.injEq] at e
  subst e
  repeat' with_reducible first | exact hk | apply keep_setLane | apply keep_addSat | split

theorem keep_execWakeMiss {lane} {r s t : State} (hk : Keep r s) (e : execWakeMiss lane s = .next t) : Keep r t := by
  simp only [execWakeMiss, Host.Outcome.next.injEq] at e
  subst e
  repeat' with_reducible first | exact hk | apply keep_raise_ | apply keep_modLane | apply keep_addSat | apply keep_retrainRx | split

/-! ## The meanings of Machine/Mon.lean -/

theorem keep_execSeqTrigger {t} {r s u : State} (hk : Keep r s) (e : execSeqTrigger t s = .next u) : Keep r u := by
  simp only [execSeqTrigger, Host.Outcome.next.injEq] at e
  subst e
  repeat' with_reducible first
    | exact hk | apply keep_delaysEnd | apply keep_monTrigger | apply keep_startRound | apply keep_modMon | split

theorem keep_execRound {volts ow ref} {r s t : State} (hk : Keep r s) (e : execRound volts ow ref s = .next t) : Keep r t := by
  simp only [execRound, Host.Outcome.next.injEq] at e
  subst e
  repeat' with_reducible first
    | exact hk | apply keep_firstRound | apply keep_calApply | apply keep_modMon | apply keep_convert | apply keep_calPair
    | apply keep_openWire | apply keep_incWrap | (apply Keep.foldl; intro _ _ hk) | split

theorem keep_execChannelOutput {c samples} {r s t : State} (hk : Keep r s) (e : execChannelOutput c samples s = .next t) :
    Keep r t := by
  simp only [execChannelOutput, Host.Outcome.next.injEq] at e
  subst e
  repeat' with_reducible first | exact hk | apply keep_chRun | split

theorem keep_execMonSrst {v} {r s t : State} (hk : Keep r s) (e : execMonSrst v s = .next t) : Keep r t := by
  simp only [execMonSrst, Host.Outcome.next.injEq] at e
  subst e
  repeat' with_reducible first | exact hk | apply keep_aonAccess | apply keep_writeMonCtl

/-! ## The meanings of Machine/Queue.lean -/

theorem keep_execNudge {r s t : State} (hk : Keep r s) (e : execNudge s = .next t) : Keep r t := by
  simp only [execNudge, Host.Outcome.next.injEq] at e
  subst e
  repeat' with_reducible first | exact hk | intro _ hk | apply keep_hostAccess | apply keep_scan

theorem keep_execVfNudge {fn} {r s t : State} (hk : Keep r s) (e : execVfNudge fn s = .next t) : Keep r t := by
  simp only [execVfNudge, Host.Outcome.next.injEq] at e
  subst e
  repeat' with_reducible first | exact hk | intro _ hk | apply keep_hostAccess | apply keep_scan

theorem keep_execKick {fn qp} {r s t : State} (hk : Keep r s) (e : execKick fn qp s = .next t) : Keep r t := by
  simp only [execKick, Host.Outcome.next.injEq] at e
  subst e
  repeat' with_reducible first | exact hk | apply keep_hostAccess | apply keep_kick

theorem keep_execDoorbellPoll {qp} {r s t : State} (hk : Keep r s) (e : execDoorbellPoll qp s = .next t) : Keep r t := by
  simp only [execDoorbellPoll, Host.Outcome.next.injEq] at e
  subst e
  repeat' with_reducible first | exact hk | apply keep_dueDoorbell | split

theorem keep_execDoorbellRead {qp rec_} {r s t : State} (hk : Keep r s) (e : execDoorbellRead qp rec_ s = .next t) : Keep r t := by
  simp only [execDoorbellRead, Host.Outcome.next.injEq] at e
  subst e
  repeat' with_reducible first
    | exact hk | apply keep_modQp | apply keep_queueError | apply keep_readFailed | apply keep_addSat | apply keep_requestDescs | split

theorem keep_execDescriptorFetch {qp descs} {r s t : State} (hk : Keep r s) (e : execDescriptorFetch qp descs s = .next t) :
    Keep r t := by
  simp only [execDescriptorFetch, Host.Outcome.next.injEq] at e
  subst e
  repeat' with_reducible first
    | exact hk | apply keep_queueError | apply keep_readFailed | apply keep_modQp | apply keep_requestDescs | split

theorem keep_execDescriptorTake {qp} {r s t : State} (hk : Keep r s) (e : execDescriptorTake qp s = .next t) : Keep r t := by
  simp only [execDescriptorTake, Host.Outcome.next.injEq] at e
  subst e
  repeat' with_reducible first | exact hk | apply keep_modQp | apply keep_setFld | apply keep_beginTaken | split

theorem keep_execFenceRelease {qp} {r s t : State} (hk : Keep r s) (e : execFenceRelease qp s = .next t) : Keep r t := by
  simp only [execFenceRelease, Host.Outcome.next.injEq] at e
  subst e
  repeat' with_reducible first | exact hk | apply keep_beginTaken | apply keep_modQp | (apply Keep.foldl; intro _ _ hk) | split

theorem keep_execIrqTimerExpiry {isNotice ring} {r s t : State} (hk : Keep r s) (e : execIrqTimerExpiry isNotice ring s = .next t) :
    Keep r t := by
  simp only [execIrqTimerExpiry, Host.Outcome.next.injEq] at e
  subst e
  repeat' with_reducible first | exact hk | apply keep_sendMsix | apply keep_setRing | apply keep_modQp | split

theorem keep_execNqEnable {fn f v} {r s t : State} (hk : Keep r s) (e : execNqEnable fn f v s = .next t) : Keep r t := by
  simp only [execNqEnable, Host.Outcome.next.injEq] at e
  subst e
  repeat' with_reducible first | exact hk | intro _ hk | apply keep_hostAccess | apply keep_writeNqCtl | split

theorem keep_execNqCi {fn f v} {r s t : State} (hk : Keep r s) (e : execNqCi fn f v s = .next t) : Keep r t := by
  simp only [execNqCi, Host.Outcome.next.injEq] at e
  subst e
  repeat' with_reducible first | exact hk | intro _ hk | apply keep_hostAccess | apply keep_writeNqCi | split

/-! ## The meanings of Machine/Power.lean -/

theorem keep_execPwrTransitionStart {r s t : State} (hk : Keep r s) (e : execPwrTransitionStart s = .next t) : Keep r t := by
  simp only [execPwrTransitionStart, Host.Outcome.next.injEq] at e
  subst e
  repeat' with_reducible first | exact hk | apply keep_requestState | apply keep_passTo | apply keep_modPwr | split

theorem keep_execPwrTransitionEnd {us} {r s t : State} (hk : Keep r s) (e : execPwrTransitionEnd us s = .next t) : Keep r t := by
  simp only [execPwrTransitionEnd, Host.Outcome.next.injEq] at e
  subst e
  repeat' with_reducible first | exact hk | apply keep_transitionEnded | apply keep_enterHold | apply keep_passTo | split

theorem keep_execWakeEvent {src} {r s t : State} (hk : Keep r s) (e : execWakeEvent src s = .next t) : Keep r t := by
  simp only [execWakeEvent, Host.Outcome.next.injEq] at e
  subst e
  repeat' with_reducible first | exact hk | apply keep_wake | split

theorem keep_execWakeTimerExpiry {r s t : State} (hk : Keep r s) (e : execWakeTimerExpiry s = .next t) : Keep r t := by
  simp only [execWakeTimerExpiry, Host.Outcome.next.injEq] at e
  subst e
  repeat' with_reducible first | exact hk | apply keep_wake | split

theorem keep_execPwrHint {h target holdMs} {r s t : State} (hk : Keep r s) (e : execPwrHint h target holdMs s = .next t) :
    Keep r t := by
  simp only [execPwrHint, Host.Outcome.next.injEq] at e
  subst e
  repeat' with_reducible first
    | exact hk | intro _ hk | apply keep_command | apply keep_dropHint | apply keep_setReg | apply keep_modPwr | apply keep_complete
    | split

theorem keep_execHintExpiry {r s t : State} (hk : Keep r s) (e : execHintExpiry s = .next t) : Keep r t := by
  simp only [execHintExpiry, Host.Outcome.next.injEq] at e
  subst e
  repeat' with_reducible first | exact hk | apply keep_dropHint | split

/-! ## The meanings of Machine/Bist.lean -/

theorem keep_execBistRun {h mask} {r s t : State} (hk : Keep r s) (e : execBistRun h mask s = .next t) : Keep r t := by
  simp only [execBistRun, Host.Outcome.next.injEq] at e
  subst e
  repeat' with_reducible first | exact hk | apply keep_command | apply keep_bistBegin | apply keep_tick

theorem keep_execBistEnd {res} {r s t : State} (hk : Keep r s) (e : execBistEnd res s = .next t) : Keep r t := by
  simp only [execBistEnd, Host.Outcome.next.injEq] at e
  subst e
  repeat' with_reducible first | exact hk | apply keep_bistFinish | split

theorem keep_execBistPreconditionFail {m} {r s t : State} (hk : Keep r s) (e : execBistPreconditionFail m s = .next t) : Keep r t := by
  simp only [execBistPreconditionFail, Host.Outcome.next.injEq] at e
  subst e
  repeat' with_reducible first | exact hk | apply keep_bistMeasure | apply keep_bistFinish | apply keep_raise_ | apply keep_setFld | split

/-! ## The meanings of Machine/Crew.lean -/

theorem keep_execCrewJoin {h id role topo share relayEn leadUs rxQp}
    {r s t : State} (hk : Keep r s) (e : execCrewJoin h id role topo share relayEn leadUs rxQp s = .next t) : Keep r t := by
  simp only [execCrewJoin, Host.Outcome.next.injEq] at e
  subst e
  repeat' with_reducible first | exact hk | apply keep_command | apply keep_crewJoinBegin

theorem keep_execCrewLeave {h} {r s t : State} (hk : Keep r s) (e : execCrewLeave h s = .next t) : Keep r t := by
  simp only [execCrewLeave, Host.Outcome.next.injEq] at e
  subst e
  repeat' with_reducible first
    | exact hk | intro _ hk | apply keep_command | apply keep_joinDone | apply keep_complete | apply keep_becomePassThrough
    | apply keep_modCrew | apply keep_dissolveCheck | apply keep_sendControl | apply keep_modLink | (apply Keep.foldl; intro _ _ hk)
    | split

theorem keep_execCrewRelay {h dst dir len payload}
    {r s t : State} (hk : Keep r s) (e : execCrewRelay h dst dir len payload s = .next t) : Keep r t := by
  simp only [execCrewRelay, Host.Outcome.next.injEq] at e
  subst e
  repeat' with_reducible first | exact hk | intro _ hk | apply keep_command | apply keep_sendFrame | apply keep_modCrew

theorem keep_execCrewFrameSent {n} {r s t : State} (hk : Keep r s) (e : execCrewFrameSent n s = .next t) : Keep r t := by
  simp only [execCrewFrameSent, Host.Outcome.next.injEq] at e
  subst e
  repeat' with_reducible first
    | exact hk | apply keep_emit | apply keep_modLink | apply keep_complete | apply keep_dissolveCheck | apply keep_modCrew | split

theorem keep_execEnumTimeout {r s t : State} (hk : Keep r s) (e : execEnumTimeout s = .next t) : Keep r t := by
  simp only [execEnumTimeout, Host.Outcome.next.injEq] at e
  subst e
  repeat' with_reducible first | exact hk | apply keep_joinDone | apply keep_crewClear | split

theorem keep_execMemberAlignTimeout {r s t : State} (hk : Keep r s) (e : execMemberAlignTimeout s = .next t) : Keep r t := by
  simp only [execMemberAlignTimeout, Host.Outcome.next.injEq] at e
  subst e
  repeat' with_reducible first | exact hk | apply keep_joinDone | apply keep_setFld | split

theorem keep_execStrokeMarkerTx {k} {r s t : State} (hk : Keep r s) (e : execStrokeMarkerTx k s = .next t) : Keep r t := by
  simp only [execStrokeMarkerTx, Host.Outcome.next.injEq] at e
  subst e
  repeat' with_reducible first | exact hk | apply keep_advanceTo | apply keep_sendItem | apply keep_modGen | split

theorem keep_execStrokeMarkerRx {n m} {r s t : State} (hk : Keep r s) (e : execStrokeMarkerRx n m s = .next t) : Keep r t := by
  simp only [execStrokeMarkerRx, Host.Outcome.next.injEq] at e
  subst e
  repeat' with_reducible first | exact hk | apply keep_addSat | apply keep_sendItem | apply keep_takeMarker | apply keep_setFld | split

theorem keep_execTimeBeaconTx {r s t : State} (hk : Keep r s) (e : execTimeBeaconTx s = .next t) : Keep r t := by
  simp only [execTimeBeaconTx, Host.Outcome.next.injEq] at e
  subst e
  repeat' with_reducible first | exact hk | apply keep_sendItem | (apply Keep.foldl; intro _ _ hk) | split

theorem keep_execTimeBeaconRx {n b} {r s t : State} (hk : Keep r s) (e : execTimeBeaconRx n b s = .next t) : Keep r t := by
  simp only [execTimeBeaconRx, Host.Outcome.next.injEq] at e
  subst e
  repeat' with_reducible first
    | exact hk | apply keep_addSat | apply keep_modLink | apply keep_setSFld | apply keep_resultReady | apply keep_alignStep
    | apply keep_crewSteer | split

theorem keep_execCoxRxDown {n cause} {r s t : State} (hk : Keep r s) (e : execCoxRxDown n cause s = .next t) : Keep r t := by
  simp only [execCoxRxDown, Host.Outcome.next.injEq] at e
  subst e
  repeat' with_reducible first
    | exact hk | apply keep_raise_ | apply keep_setCxRx | apply keep_modLink | apply keep_setFld | apply keep_faultFrames
    | apply keep_markFaulted | apply keep_setCxTx | split

theorem keep_execUnwrap {b} {r s t : State} (hk : Keep r s) (e : execUnwrap b s = .next t) : Keep r t := by
  simp only [execUnwrap, Host.Outcome.next.injEq] at e
  subst e
  repeat' with_reducible first | exact hk | apply keep_sendControl | apply keep_queueUnwrap | split

theorem keep_execCrewFrameRx {n rx} {r s t : State} (hk : Keep r s) (e : execCrewFrameRx n rx s = .next t) : Keep r t := by
  simp only [execCrewFrameRx, Host.Outcome.next.injEq] at e
  subst e
  repeat' with_reducible first
    | exact hk | apply keep_addSat | apply keep_setCxRx | apply keep_markFaulted | apply keep_raise_ | apply keep_enumMember
    | apply keep_enumLead | apply keep_sendFrame | apply keep_hearBreak | apply keep_actOn | apply keep_wake | split

/-! ## The meanings of Machine/Egress.lean -/

theorem keep_execEspOpen {h port bolt blk} {r s t : State} (hk : Keep r s) (e : execEspOpen h port bolt blk s = .next t) :
    Keep r t := by
  simp only [execEspOpen, Host.Outcome.next.injEq] at e
  subst e
  repeat' with_reducible first
    | exact hk | intro _ hk | apply keep_command | apply keep_complete | apply keep_showEgress | apply keep_tick | apply keep_setEsp

theorem keep_execEspClose {h port} {r s t : State} (hk : Keep r s) (e : execEspClose h port s = .next t) : Keep r t := by
  simp only [execEspClose, Host.Outcome.next.injEq] at e
  subst e
  repeat' with_reducible first
    | exact hk | intro _ hk | apply keep_command | apply keep_complete | apply keep_espStop | apply keep_abortEspCmd | split

theorem keep_execEspTake {h port bolt c} {r s t : State} (hk : Keep r s) (e : execEspTake h port bolt c s = .next t) : Keep r t := by
  simp only [execEspTake, Host.Outcome.next.injEq] at e
  subst e
  repeat' with_reducible first | exact hk | intro _ hk | apply keep_command | apply keep_abortEspCmd | apply keep_setEsp | split

theorem keep_execEspRewind {h port rew c} {r s t : State} (hk : Keep r s) (e : execEspRewind h port rew c s = .next t) : Keep r t := by
  simp only [execEspRewind, Host.Outcome.next.injEq] at e
  subst e
  repeat' with_reducible first | exact hk | intro _ hk | apply keep_command | apply keep_abortEspCmd | apply keep_setEsp | split

theorem keep_execExpRule {h rule rec_} {r s t : State} (hk : Keep r s) (e : execExpRule h rule rec_ s = .next t) : Keep r t := by
  simp only [execExpRule, Host.Outcome.next.injEq] at e
  subst e
  repeat' with_reducible first
    | exact hk | intro _ hk | apply keep_command | apply keep_complete | apply keep_showEgress | apply keep_modLoom

theorem keep_execEgrCntClr {v} {r s t : State} (hk : Keep r s) (e : execEgrCntClr v s = .next t) : Keep r t := by
  simp only [execEgrCntClr, Host.Outcome.next.injEq] at e
  subst e
  repeat' with_reducible first | exact hk | apply keep_hostAccess | apply keep_writeEgrCtl

theorem keep_execEspSel {v} {r s t : State} (hk : Keep r s) (e : execEspSel v s = .next t) : Keep r t := by
  simp only [execEspSel, Host.Outcome.next.injEq] at e
  subst e
  repeat' with_reducible first | exact hk | apply keep_hostAccess | apply keep_writeEspSel

theorem keep_execExpSel {v} {r s t : State} (hk : Keep r s) (e : execExpSel v s = .next t) : Keep r t := by
  simp only [execExpSel, Host.Outcome.next.injEq] at e
  subst e
  repeat' with_reducible first | exact hk | apply keep_hostAccess | apply keep_writeExpSel

/-! ## The meanings of Machine/Place.lean -/

theorem keep_execFrameReceive {ep f} {r s t : State} (hk : Keep r s) (e : execFrameReceive ep f s = .next t) : Keep r t := by
  simp only [execFrameReceive, Host.Outcome.next.injEq] at e
  subst e
  repeat' with_reducible first | exact hk | refine keep_received (by assumption) ?_ | apply keep_receive | split

/-! ## The meanings of Machine/EgressTx.lean -/

theorem keep_execPacketDue {port} {r s t : State} (hk : Keep r s) (e : execPacketDue port s = .next t) : Keep r t := by
  simp only [execPacketDue, Host.Outcome.next.injEq] at e
  subst e
  repeat' with_reducible first | exact hk | apply keep_sendGroup | apply keep_advanceTo | split

theorem keep_execAudioPacketDue {port} {r s t : State} (hk : Keep r s) (e : execAudioPacketDue port s = .next t) : Keep r t := by
  simp only [execAudioPacketDue, Host.Outcome.next.injEq] at e
  subst e
  repeat' with_reducible first
    | exact hk | apply keep_advanceTo | apply keep_outSamples | apply keep_setEsp | apply keep_sendPacket | split

theorem keep_execTxFrameStart {ep} {r s t : State} (hk : Keep r s) (e : execTxFrameStart ep s = .next t) : Keep r t := by
  simp only [execTxFrameStart, Host.Outcome.next.injEq] at e
  subst e
  repeat' with_reducible first
    | exact hk | apply keep_setLane | apply keep_emit | apply keep_countLn | apply keep_tornCheck | apply keep_mediaLeft
    | apply keep_hostLeft | split

/-! ## The meanings of Machine/LaneCal.lean -/

theorem keep_execCalEstimateEnd {lane levels slices squares power image}
    {r s t : State} (hk : Keep r s) (e : execCalEstimateEnd lane levels slices squares power image s = .next t) : Keep r t := by
  simp only [execCalEstimateEnd, Host.Outcome.next.injEq] at e
  subst e
  repeat' with_reducible first | exact hk | apply keep_calAbandon | apply keep_calAccept | apply keep_calReject | split

theorem keep_execCalPassStart {lane} {r s t : State} (hk : Keep r s) (e : execCalPassStart lane s = .next t) : Keep r t := by
  simp only [execCalPassStart, Host.Outcome.next.injEq] at e
  subst e
  repeat' with_reducible first | exact hk | apply keep_calStart | apply keep_modLane | split

theorem keep_execCalApplyStep {lane} {r s t : State} (hk : Keep r s) (e : execCalApplyStep lane s = .next t) : Keep r t := by
  simp only [execCalApplyStep, Host.Outcome.next.injEq] at e
  subst e
  repeat' with_reducible first | exact hk | apply keep_setLane | apply keep_calFinish | split

theorem keep_execCalRun {lane v} {r s t : State} (hk : Keep r s) (e : execCalRun lane v s = .next t) : Keep r t := by
  simp only [execCalRun, Host.Outcome.next.injEq] at e
  subst e
  repeat' with_reducible first | exact hk | intro _ hk | apply keep_hostAccess | apply keep_writeCalCtl | split

theorem keep_execFdeSel {lane v} {r s t : State} (hk : Keep r s) (e : execFdeSel lane v s = .next t) : Keep r t := by
  simp only [execFdeSel, Host.Outcome.next.injEq] at e
  subst e
  repeat' with_reducible first | exact hk | intro _ hk | apply keep_hostAccess | apply keep_writeFdeSel | split

theorem keep_execCalSel {lane v} {r s t : State} (hk : Keep r s) (e : execCalSel lane v s = .next t) : Keep r t := by
  simp only [execCalSel, Host.Outcome.next.injEq] at e
  subst e
  repeat' with_reducible first | exact hk | intro _ hk | apply keep_hostAccess | apply keep_writeCalSel | split

/-! ## The meanings of Machine/LaneCode.lean -/

theorem keep_execRsCodewordDecoded {lane msg parity from_}
    {r s t : State} (hk : Keep r s) (e : execRsCodewordDecoded lane msg parity from_ s = .next t) : Keep r t := by
  simp only [execRsCodewordDecoded, Host.Outcome.next.injEq] at e
  subst e
  repeat' with_reducible first
    | exact hk | apply keep_addFec | apply keep_modLane | apply keep_toPcs | apply keep_degCount | apply keep_countSyms
    | apply keep_raiseSlow | split

theorem keep_execDegradeWindowEnd {lane corrected}
    {r s t : State} (hk : Keep r s) (e : execDegradeWindowEnd lane corrected s = .next t) : Keep r t := by
  simp only [execDegradeWindowEnd, Host.Outcome.next.injEq] at e
  subst e
  repeat' with_reducible first | exact hk | apply keep_judgeDegrade | split

theorem keep_execFecClr {lane v} {r s t : State} (hk : Keep r s) (e : execFecClr lane v s = .next t) : Keep r t := by
  simp only [execFecClr, Host.Outcome.next.injEq] at e
  subst e
  repeat' with_reducible first | exact hk | intro _ hk | apply keep_hostAccess | apply keep_writeFecCtl | split

theorem keep_execAlignLockChange {lane locked} {r s t : State} (hk : Keep r s) (e : execAlignLockChange lane locked s = .next t) :
    Keep r t := by
  simp only [execAlignLockChange, Host.Outcome.next.injEq] at e
  subst e
  repeat' with_reducible first | exact hk | apply keep_setFld | apply keep_raise_ | split

/-! ## The meanings of Machine/LaneTest.lean -/

theorem keep_execLaneLoop {h target kind} {r s t : State} (hk : Keep r s) (e : execLaneLoop h target kind s = .next t) : Keep r t := by
  simp only [execLaneLoop, Host.Outcome.next.injEq] at e
  subst e
  repeat' with_reducible first | exact hk | apply keep_command | apply keep_laneLoopBegin | apply keep_coxLoopBegin | split

theorem keep_execLanePrbs {h target gen chk pattern inj injArg}
    {r s t : State} (hk : Keep r s) (e : execLanePrbs h target gen chk pattern inj injArg s = .next t) : Keep r t := by
  simp only [execLanePrbs, Host.Outcome.next.injEq] at e
  subst e
  repeat' with_reducible first | exact hk | apply keep_command | apply keep_lanePrbsBegin | apply keep_coxPrbsBegin | split

theorem keep_execPrbsSyncChange {target sync bits errs}
    {r s t : State} (hk : Keep r s) (e : execPrbsSyncChange target sync bits errs s = .next t) : Keep r t := by
  simp only [execPrbsSyncChange, Host.Outcome.next.injEq] at e
  subst e
  repeat' with_reducible first | exact hk | apply keep_prbsSync | apply keep_coxPrbsSync | split

/-! ## The meanings of Machine/Thermal.lean -/

theorem keep_execRefreshRateDrop {k} {r s t : State} (hk : Keep r s) (e : execRefreshRateDrop k s = .next t) : Keep r t := by
  simp only [execRefreshRateDrop, Host.Outcome.next.injEq] at e
  subst e
  repeat' with_reducible first | exact hk | apply keep_setFld | split

theorem keep_execBandDown {r s t : State} (hk : Keep r s) (e : execBandDown s = .next t) : Keep r t := by
  simp only [execBandDown, Host.Outcome.next.injEq] at e
  subst e
  repeat' with_reducible first | exact hk | apply keep_setBand | split

theorem keep_execAgeSel {v} {r s t : State} (hk : Keep r s) (e : execAgeSel v s = .next t) : Keep r t := by
  simp only [execAgeSel, Host.Outcome.next.injEq] at e
  subst e
  repeat' with_reducible first | exact hk | apply keep_aonAccess | apply keep_writeAgeSel

theorem keep_execAgeMeasureDone {stressed unstressed}
    {r s t : State} (hk : Keep r s) (e : execAgeMeasureDone stressed unstressed s = .next t) : Keep r t := by
  simp only [execAgeMeasureDone, Host.Outcome.next.injEq] at e
  subst e
  repeat' with_reducible first | exact hk | apply keep_modThm | apply keep_setSFld | apply keep_resultReady | split

theorem keep_execPlanRun {vreq guard relax stressed unstressed}
    {r s t : State} (hk : Keep r s) (e : execPlanRun vreq guard relax stressed unstressed s = .next t) : Keep r t := by
  simp only [execPlanRun, Host.Outcome.next.injEq] at e
  subst e
  repeat' with_reducible first
    | exact hk | apply keep_setSFld | apply keep_resultReady | apply keep_incWrap | apply keep_modThm | apply keep_postPlan
    | apply keep_showPlan | apply keep_applyPlan | apply keep_raise_ | split

theorem keep_execPlanAck {v} {r s t : State} (hk : Keep r s) (e : execPlanAck v s = .next t) : Keep r t := by
  simp only [execPlanAck, Host.Outcome.next.injEq] at e
  subst e
  repeat' with_reducible first | exact hk | apply keep_aonAccess | apply keep_writePlanAck

theorem keep_execThmRef {v} {r s t : State} (hk : Keep r s) (e : execThmRef v s = .next t) : Keep r t := by
  simp only [execThmRef, Host.Outcome.next.injEq] at e
  subst e
  repeat' with_reducible first | exact hk | apply keep_aonAccess | apply keep_writeThmCtl

/-! ## The meanings of Machine/Query.lean -/

theorem keep_execQuery {h obj kind} {r s t : State} (hk : Keep r s) (e : execQuery h obj kind s = .next t) : Keep r t := by
  simp only [execQuery, Host.Outcome.next.injEq] at e
  subst e
  repeat' with_reducible first | exact hk | intro _ hk | apply keep_command | apply keep_completeRec

theorem keep_execSnapshotReady {k} {r s t : State} (hk : Keep r s) (e : execSnapshotReady k s = .next t) : Keep r t := by
  simp only [execSnapshotReady, Host.Outcome.next.injEq] at e
  subst e
  repeat' with_reducible first
    | exact hk | apply keep_fdeReady | apply keep_calReady | apply keep_ispReady | apply keep_espReady | apply keep_expReady | split

/-! ## The meanings of Machine/Split.lean -/

theorem keep_execCntCfgWrite {addr v} {r s t : State} (hk : Keep r s) (e : execCntCfgWrite addr v s = .next t) : Keep r t := by
  simp only [execCntCfgWrite, Host.Outcome.next.injEq] at e
  subst e
  repeat' with_reducible first | exact hk | intro _ hk | apply keep_hostAccess | apply keep_writeCnt | split

theorem keep_execSplitEnable {v} {r s t : State} (hk : Keep r s) (e : execSplitEnable v s = .next t) : Keep r t := by
  simp only [execSplitEnable, Host.Outcome.next.injEq] at e
  subst e
  repeat' with_reducible first | exact hk | apply keep_hostAccess | apply keep_writeSplitCtl

theorem keep_execSplitSnapshot {r s t : State} (hk : Keep r s) (e : execSplitSnapshot s = .next t) : Keep r t := by
  simp only [execSplitSnapshot, Host.Outcome.next.injEq] at e
  subst e
  repeat' with_reducible first
    | exact hk | apply keep_advanceTo | apply keep_incWrap | apply keep_showBw | apply keep_tick | apply keep_putSplit
    | fail_if_no_progress apply Keep.upd (hm := rfl) | split

/-! ## The meanings of Machine/Reads.lean -/

theorem keep_execRejE0Read {fn} {r s t : State} (hk : Keep r s) (e : execRejE0Read fn s = .next t) : Keep r t := by
  simp only [execRejE0Read, Host.Outcome.next.injEq] at e
  subst e
  repeat' with_reducible first | exact hk | apply keep_hostAccess | apply keep_readDone

theorem keep_execLoRead {fn addr} {r s t : State} (hk : Keep r s) (e : execLoRead fn addr s = .next t) : Keep r t := by
  simp only [execLoRead, Host.Outcome.next.injEq] at e
  subst e
  repeat' with_reducible first | exact hk | apply keep_regAccess | apply keep_readDone

theorem keep_execResultRead {fn addr} {r s t : State} (hk : Keep r s) (e : execResultRead fn addr s = .next t) : Keep r t := by
  simp only [execResultRead, Host.Outcome.next.injEq] at e
  subst e
  repeat' with_reducible first | exact hk | apply keep_regAccess | apply keep_readDone

theorem keep_execTbNsRead {fn} {r s t : State} (hk : Keep r s) (e : execTbNsRead fn s = .next t) : Keep r t := by
  simp only [execTbNsRead, Host.Outcome.next.injEq] at e
  subst e
  repeat' with_reducible first | exact hk | apply keep_hostAccess | apply keep_readDone

theorem keep_execPtmStatRead {fn} {r s t : State} (hk : Keep r s) (e : execPtmStatRead fn s = .next t) : Keep r t := by
  simp only [execPtmStatRead, Host.Outcome.next.injEq] at e
  subst e
  repeat' with_reducible first | exact hk | apply keep_hostAccess | apply keep_readDone

theorem keep_execLogE0Read {fn} {r s t : State} (hk : Keep r s) (e : execLogE0Read fn s = .next t) : Keep r t := by
  simp only [execLogE0Read, Host.Outcome.next.injEq] at e
  subst e
  repeat' with_reducible first | exact hk | apply keep_hostAccess | apply keep_readDone

theorem keep_execResStatRead {fn ck} {r s t : State} (hk : Keep r s) (e : execResStatRead fn ck s = .next t) : Keep r t := by
  simp only [execResStatRead, Host.Outcome.next.injEq] at e
  subst e
  repeat' with_reducible first | exact hk | apply keep_hostAccess | apply keep_readDone

theorem keep_execTagPcRead {fn sh} {r s t : State} (hk : Keep r s) (e : execTagPcRead fn sh s = .next t) : Keep r t := by
  simp only [execTagPcRead, Host.Outcome.next.injEq] at e
  subst e
  repeat' with_reducible first | exact hk | apply keep_hostAccess | apply keep_readDone

/-! ## The meanings of Machine/Security.lean -/

theorem keep_execBootDone {host slots marker} {r s t : State} (hk : Keep r s) (e : execBootDone host slots marker s = .next t) :
    Keep r t := by
  simp only [execBootDone, Host.Outcome.next.injEq] at e
  subst e
  repeat' with_reducible first | exact hk | apply keep_hostBoot | apply keep_flashBoot | split

theorem keep_execHbGo {v} {r s t : State} (hk : Keep r s) (e : execHbGo v s = .next t) : Keep r t := by
  simp only [execHbGo, Host.Outcome.next.injEq] at e
  subst e
  repeat' with_reducible first | exact hk | apply keep_hostAccess | apply keep_writeHbCtl

theorem keep_execFwStage {h addr len bundle} {r s t : State} (hk : Keep r s) (e : execFwStage h addr len bundle s = .next t) :
    Keep r t := by
  simp only [execFwStage, Host.Outcome.next.injEq] at e
  subst e
  repeat' with_reducible first | exact hk | intro _ hk | apply keep_command | apply keep_modSec

theorem keep_execFwStageDone {r s t : State} (hk : Keep r s) (e : execFwStageDone s = .next t) : Keep r t := by
  simp only [execFwStageDone, Host.Outcome.next.injEq] at e
  subst e
  repeat' with_reducible first | exact hk | apply keep_modSec | apply keep_complete | split

theorem keep_execFwCommit {h advance} {r s t : State} (hk : Keep r s) (e : execFwCommit h advance s = .next t) : Keep r t := by
  simp only [execFwCommit, Host.Outcome.next.injEq] at e
  subst e
  repeat' with_reducible first | exact hk | intro _ hk | apply keep_command | apply keep_modSec

theorem keep_execFwCommitDone {host readBack} {r s t : State} (hk : Keep r s) (e : execFwCommitDone host readBack s = .next t) :
    Keep r t := by
  simp only [execFwCommitDone, Host.Outcome.next.injEq] at e
  subst e
  repeat' with_reducible first
    | exact hk | apply keep_tick | apply keep_modSec | apply keep_complete | apply keep_readFlash | apply keep_emit
    | apply keep_advanceFuses | split

theorem keep_execAttest {h len nonce} {r s t : State} (hk : Keep r s) (e : execAttest h len nonce s = .next t) : Keep r t := by
  simp only [execAttest, Host.Outcome.next.injEq] at e
  subst e
  repeat' with_reducible first | exact hk | intro _ hk | apply keep_command | apply keep_modSec | apply keep_attestTurn | split

theorem keep_execAttestReportDone {r s t : State} (hk : Keep r s) (e : execAttestReportDone s = .next t) : Keep r t := by
  simp only [execAttestReportDone, Host.Outcome.next.injEq] at e
  subst e
  repeat' with_reducible first
    | exact hk | apply keep_attestTurn | apply keep_tick | apply keep_modSec | apply keep_complete | apply keep_completeRec | split

theorem keep_execSecLock {v} {r s t : State} (hk : Keep r s) (e : execSecLock v s = .next t) : Keep r t := by
  simp only [execSecLock, Host.Outcome.next.injEq] at e
  subst e
  repeat' with_reducible first | exact hk | apply keep_hostAccess | apply keep_writeSecCtl

theorem keep_execSecChal {challenge} {r s t : State} (hk : Keep r s) (e : execSecChal challenge s = .next t) : Keep r t := by
  simp only [execSecChal, Host.Outcome.next.injEq] at e
  subst e
  repeat' with_reducible first
    | exact hk | apply keep_tapSelect | apply keep_emit | apply keep_setFld | apply keep_modSec | apply keep_showTa | split

theorem keep_execChallengeExpiry {r s t : State} (hk : Keep r s) (e : execChallengeExpiry s = .next t) : Keep r t := by
  simp only [execChallengeExpiry, Host.Outcome.next.injEq] at e
  subst e
  repeat' with_reducible first | exact hk | apply keep_dropChal | split

/-! ## The meanings of Machine/Withdraw.lean -/

theorem keep_execQpEnable {fn qp v} {r s t : State} (hk : Keep r s) (e : execQpEnable fn qp v s = .next t) : Keep r t := by
  simp only [execQpEnable, Host.Outcome.next.injEq] at e
  subst e
  repeat' with_reducible first | exact hk | intro _ hk | apply keep_hostAccess | apply keep_writeQpCtl | apply keep_abortWaiting | split

theorem keep_execQpDisable {fn qp v} {r s t : State} (hk : Keep r s) (e : execQpDisable fn qp v s = .next t) : Keep r t := by
  simp only [execQpDisable, Host.Outcome.next.injEq] at e
  subst e
  repeat' with_reducible first | exact hk | intro _ hk | apply keep_hostAccess | apply keep_writeQpCtl | apply keep_abortWaiting | split

/-! ## The meanings of Machine/Reset.lean -/

theorem keep_execPerst {straps} {r s t : State} (hk : Keep r s) (e : execPerst straps s = .next t) : Keep r t := by
  simp only [execPerst, Host.Outcome.next.injEq] at e
  subst e
  repeat' with_reducible first | exact hk | apply keep_setFld | apply keep_startUp | apply keep_holdReset | apply keep_modSec | split

theorem keep_execPor {pin straps} {r s t : State} (hk : Keep r s) (e : execPor pin straps s = .next t) : Keep r t := by
  simp only [execPor, Host.Outcome.next.injEq] at e
  subst e
  repeat' with_reducible first
    | exact ⟨hk.pending, hk.fuses, fun _ => rfl⟩ | apply keep_startUp | apply keep_dropOuts | apply keep_releasePins | apply keep_setReg

theorem keep_execReady {ms} {r s t : State} (hk : Keep r s) (e : execReady ms s = .next t) : Keep r t := by
  simp only [execReady, Host.Outcome.next.injEq] at e
  subst e
  repeat' with_reducible first
    | exact hk | apply keep_showPhase | apply keep_voteAll | apply keep_setFld | apply keep_modThm | apply keep_raise_ | split

theorem keep_execFlr {fn} {r s t : State} (hk : Keep r s) (e : execFlr fn s = .next t) : Keep r t := by
  simp only [execFlr, Host.Outcome.next.injEq] at e
  subst e
  repeat' with_reducible first | exact hk | apply keep_hostAccess | apply keep_flrPf | apply keep_flrFunction | split

theorem keep_execBusMasterEnable {fn w} {r s t : State} (hk : Keep r s) (e : execBusMasterEnable fn w s = .next t) : Keep r t := by
  simp only [execBusMasterEnable, Host.Outcome.next.injEq] at e
  subst e
  repeat' with_reducible first | exact hk | apply keep_hostAccess | apply keep_cfgWrite

theorem keep_execSensorSample {t} {r s u : State} (hk : Keep r s) (e : execSensorSample t s = .next u) : Keep r u := by
  simp only [execSensorSample, Host.Outcome.next.injEq] at e
  subst e
  repeat' with_reducible first | exact hk | apply keep_keepAon | apply keep_sample | apply keep_thermalTrip | split

theorem keep_execSecResp {resp cleared} {r s t : State} (hk : Keep r s) (e : execSecResp resp cleared s = .next t) : Keep r t := by
  simp only [execSecResp, Host.Outcome.next.injEq] at e
  subst e
  repeat' with_reducible first
    | exact hk | apply keep_tapSelect | apply keep_respFailed | apply keep_zeroise | apply keep_holdReset | apply keep_dropChal
    | fail_if_no_progress apply Keep.upd (hm := rfl) | split

/-! ## The meanings of Machine/Stroke.lean -/

theorem keep_execStroke {k} {r s t : State} (hk : Keep r s) (e : execStroke k s = .next t) : Keep r t := by
  simp only [execStroke, Host.Outcome.next.injEq] at e
  subst e
  repeat' with_reducible first | exact hk | refine keep_fire_e (by assumption) ?_ | apply keep_atStroke | apply keep_strokeActs | split

/-! ## The meanings of Machine/Writes.lean -/

theorem keep_execRejPop {v} {r s t : State} (hk : Keep r s) (e : execRejPop v s = .next t) : Keep r t := by
  simp only [execRejPop, Host.Outcome.next.injEq] at e
  subst e
  repeat' with_reducible first | exact hk | apply keep_hostAccess | apply keep_writeRejPop

theorem keep_execLoWrite {fn addr v} {r s t : State} (hk : Keep r s) (e : execLoWrite fn addr v s = .next t) : Keep r t := by
  simp only [execLoWrite, Host.Outcome.next.injEq] at e
  subst e
  repeat' with_reducible first | exact hk | apply keep_regAccess | apply keep_writeAt

theorem keep_execHiWrite {fn addr v} {r s t : State} (hk : Keep r s) (e : execHiWrite fn addr v s = .next t) : Keep r t := by
  simp only [execHiWrite, Host.Outcome.next.injEq] at e
  subst e
  repeat' with_reducible first | exact hk | apply keep_regAccess | apply keep_writeAt

theorem keep_execRegisterWrite {fn addr v} {r s t : State} (hk : Keep r s) (e : execRegisterWrite fn addr v s = .next t) :
    Keep r t := by
  simp only [execRegisterWrite, Host.Outcome.next.injEq] at e
  subst e
  repeat' with_reducible first | exact hk | apply keep_regAccess | apply keep_writeAt

/-! ## Every command, and every step -/

/-- The effect of a command leaves the queue, moves fuses one way only, and keeps the canonical form of the beam memory. -/
theorem keep_exec {i : Instr} {s t : State} (e : exec i s = .next t) : Keep s t := by
  cases i with
  | ispOpen => exact keep_execIspOpen (.refl s) e
  | ispClose => exact keep_execIspClose (.refl s) e
  | espOpen => exact keep_execEspOpen (.refl s) e
  | espClose => exact keep_execEspClose (.refl s) e
  | espTake => exact keep_execEspTake (.refl s) e
  | espRewind => exact keep_execEspRewind (.refl s) e
  | expRule => exact keep_execExpRule (.refl s) e
  | bayAlloc => exact keep_execBayAlloc (.refl s) e
  | bayFree => exact keep_execBayFree (.refl s) e
  | boltSet => exact keep_execBoltSet (.refl s) e
  | boltBindDone => exact keep_execBoltBindDone (.refl s) e
  | shtLoad => exact keep_execShtLoad (.refl s) e
  | shtLoadDone => exact keep_execShtLoadDone (.refl s) e
  | shtStart => exact keep_execShtStart (.refl s) e
  | shtStop => exact keep_execShtStop (.refl s) e
  | shtMsg => exact keep_execShtMsg (.refl s) e
  | draftRun => exact keep_execDraftRun (.refl s) e
  | draftAbort => exact keep_execDraftAbort (.refl s) e
  | laneMode => exact keep_execLaneMode (.refl s) e
  | laneReconfigDone => exact keep_execLaneReconfigDone (.refl s) e
  | laneTrain => exact keep_execLaneTrain (.refl s) e
  | laneLoop => exact keep_execLaneLoop (.refl s) e
  | lanePrbs => exact keep_execLanePrbs (.refl s) e
  | strokeDef => exact keep_execStrokeDef (.refl s) e
  | strokeJump => exact keep_execStrokeJump (.refl s) e
  | timeSet => exact keep_execTimeSet (.refl s) e
  | crewJoin => exact keep_execCrewJoin (.refl s) e
  | crewLeave => exact keep_execCrewLeave (.refl s) e
  | crewRelay => exact keep_execCrewRelay (.refl s) e
  | pwrHint => exact keep_execPwrHint (.refl s) e
  | attest => exact keep_execAttest (.refl s) e
  | attestReportDone => exact keep_execAttestReportDone (.refl s) e
  | fwStage => exact keep_execFwStage (.refl s) e
  | fwStageDone => exact keep_execFwStageDone (.refl s) e
  | fwCommit => exact keep_execFwCommit (.refl s) e
  | fwCommitDone => exact keep_execFwCommitDone (.refl s) e
  | bistRun => exact keep_execBistRun (.refl s) e
  | bistEnd => exact keep_execBistEnd (.refl s) e
  | bistPreconditionFail => exact keep_execBistPreconditionFail (.refl s) e
  | query => exact keep_execQuery (.refl s) e
  | frameSend => exact keep_execFrameSend (.refl s) e
  | post => exact keep_execPost (.refl s) e
  | doorbellPoll => exact keep_execDoorbellPoll (.refl s) e
  | doorbellRead => exact keep_execDoorbellRead (.refl s) e
  | descriptorFetch => exact keep_execDescriptorFetch (.refl s) e
  | descriptorTake => exact keep_execDescriptorTake (.refl s) e
  | fenceRelease => exact keep_execFenceRelease (.refl s) e
  | irqTimerExpiry => exact keep_execIrqTimerExpiry (.refl s) e
  | nudge => exact keep_execNudge (.refl s) e
  | vfNudge => exact keep_execVfNudge (.refl s) e
  | kick => exact keep_execKick (.refl s) e
  | qpEnable => exact keep_execQpEnable (.refl s) e
  | qpDisable => exact keep_execQpDisable (.refl s) e
  | nqEnable => exact keep_execNqEnable (.refl s) e
  | nqCi => exact keep_execNqCi (.refl s) e
  | rejPop => exact keep_execRejPop (.refl s) e
  | rejE0Read => exact keep_execRejE0Read (.refl s) e
  | loRead => exact keep_execLoRead (.refl s) e
  | loWrite => exact keep_execLoWrite (.refl s) e
  | hiWrite => exact keep_execHiWrite (.refl s) e
  | resultRead => exact keep_execResultRead (.refl s) e
  | tbNsRead => exact keep_execTbNsRead (.refl s) e
  | ptmStatRead => exact keep_execPtmStatRead (.refl s) e
  | logE0Read => exact keep_execLogE0Read (.refl s) e
  | logPop => exact keep_execLogPop (.refl s) e
  | resStatRead => exact keep_execResStatRead (.refl s) e
  | tagPcRead => exact keep_execTagPcRead (.refl s) e
  | servoSample => exact keep_execServoSample (.refl s) e
  | fecClr => exact keep_execFecClr (.refl s) e
  | laneSrst => exact keep_execLaneSrst (.refl s) e
  | laneResetEnd => exact keep_execLaneResetEnd (.refl s) e
  | cxSrst => exact keep_execCxSrst (.refl s) e
  | bmSrst => exact keep_execBmSrst (.refl s) e
  | beamResetEnd => exact keep_execBeamResetEnd (.refl s) e
  | shSrst => exact keep_execShSrst (.refl s) e
  | monSrst => exact keep_execMonSrst (.refl s) e
  | biasSrst => exact keep_execBiasSrst (.refl s) e
  | drfSrst => exact keep_execDrfSrst (.refl s) e
  | drfRestart => exact keep_execDrfRestart (.refl s) e
  | ingCntClr => exact keep_execIngCntClr (.refl s) e
  | egrCntClr => exact keep_execEgrCntClr (.refl s) e
  | bmCntClr => exact keep_execBmCntClr (.refl s) e
  | cxCntClr => exact keep_execCxCntClr (.refl s) e
  | cxEnable => exact keep_execCxEnable (.refl s) e
  | calRun => exact keep_execCalRun (.refl s) e
  | ptmGo => exact keep_execPtmGo (.refl s) e
  | txArm => exact keep_execTxArm (.refl s) e
  | txHandover => exact keep_execTxHandover (.refl s) e
  | biasArm => exact keep_execBiasArm (.refl s) e
  | biasHandover => exact keep_execBiasHandover (.refl s) e
  | biasLoadEdge => exact keep_execBiasLoadEdge (.refl s) e
  | fdeSel => exact keep_execFdeSel (.refl s) e
  | calSel => exact keep_execCalSel (.refl s) e
  | ispSel => exact keep_execIspSel (.refl s) e
  | espSel => exact keep_execEspSel (.refl s) e
  | expSel => exact keep_execExpSel (.refl s) e
  | snapshotReady => exact keep_execSnapshotReady (.refl s) e
  | ageSel => exact keep_execAgeSel (.refl s) e
  | ageMeasureDone => exact keep_execAgeMeasureDone (.refl s) e
  | mgtGo => exact keep_execMgtGo (.refl s) e
  | mgtDone => exact keep_execMgtDone (.refl s) e
  | ckEnable => exact keep_execCkEnable (.refl s) e
  | ckData => exact keep_execCkData (.refl s) e
  | ckDataTail => exact keep_execCkDataTail (.refl s) e
  | ckFinal => exact keep_execCkFinal (.refl s) e
  | hbGo => exact keep_execHbGo (.refl s) e
  | secLock => exact keep_execSecLock (.refl s) e
  | thmRef => exact keep_execThmRef (.refl s) e
  | planAck => exact keep_execPlanAck (.refl s) e
  | splitEnable => exact keep_execSplitEnable (.refl s) e
  | cntCfgWrite => exact keep_execCntCfgWrite (.refl s) e
  | htrEnable => exact keep_execHtrEnable (.refl s) e
  | registerWrite => exact keep_execRegisterWrite (.refl s) e
  | bar2Read => exact keep_execBar2Read (.refl s) e
  | bar2Write => exact keep_execBar2Write (.refl s) e
  | signalDetect => exact keep_execSignalDetect (.refl s) e
  | lossOfSignal => exact keep_execLossOfSignal (.refl s) e
  | acquireDone => exact keep_execAcquireDone (.refl s) e
  | acquireTimeout => exact keep_execAcquireTimeout (.refl s) e
  | trainSolveDone => exact keep_execTrainSolveDone (.refl s) e
  | catchWaitExpiry => exact keep_execCatchWaitExpiry (.refl s) e
  | catchSequenceDetect => exact keep_execCatchSequenceDetect (.refl s) e
  | fdeBlockUpdate => exact keep_execFdeBlockUpdate (.refl s) e
  | dfeAdapt => exact keep_execDfeAdapt (.refl s) e
  | targetAdapt => exact keep_execTargetAdapt (.refl s) e
  | meritWindowEnd => exact keep_execMeritWindowEnd (.refl s) e
  | timingLockLoss => exact keep_execTimingLockLoss (.refl s) e
  | idleMarkerRx => exact keep_execIdleMarkerRx (.refl s) e
  | preamblePeak => exact keep_execPreamblePeak (.refl s) e
  | startMarkerRx => exact keep_execStartMarkerRx (.refl s) e
  | burstAbandon => exact keep_execBurstAbandon (.refl s) e
  | spareRestart => exact keep_execSpareRestart (.refl s) e
  | wakeMiss => exact keep_execWakeMiss (.refl s) e
  | calPassStart => exact keep_execCalPassStart (.refl s) e
  | calEstimateEnd => exact keep_execCalEstimateEnd (.refl s) e
  | calApplyStep => exact keep_execCalApplyStep (.refl s) e
  | rampStep => exact keep_execRampStep (.refl s) e
  | txIdleEntry => exact keep_execTxIdleEntry (.refl s) e
  | txWake => exact keep_execTxWake (.refl s) e
  | txBurstEnd => exact keep_execTxBurstEnd (.refl s) e
  | catchSequenceStart => exact keep_execCatchSequenceStart (.refl s) e
  | txFrameStart => exact keep_execTxFrameStart (.refl s) e
  | degradeWindowEnd => exact keep_execDegradeWindowEnd (.refl s) e
  | frameReceive => exact keep_execFrameReceive (.refl s) e
  | legLoss => exact keep_execLegLoss (.refl s) e
  | slotClose => exact keep_execSlotClose (.refl s) e
  | feedHoldExpiry => exact keep_execFeedHoldExpiry (.refl s) e
  | stroke => exact keep_execStroke (.refl s) e
  | packetDue => exact keep_execPacketDue (.refl s) e
  | audioPacketDue => exact keep_execAudioPacketDue (.refl s) e
  | beamTrainDone => exact keep_execBeamTrainDone (.refl s) e
  | refresh => exact keep_execRefresh (.refl s) e
  | refreshRateDrop => exact keep_execRefreshRateDrop (.refl s) e
  | scrubStep => exact keep_execScrubStep (.refl s) e
  | repairStep => exact keep_execRepairStep (.refl s) e
  | mergeFlush => exact keep_execMergeFlush (.refl s) e
  | anchorVote => exact keep_execAnchorVote (.refl s) e
  | halt => exact keep_execHalt (.refl s) e
  | alu => exact keep_execAlu (.refl s) e
  | mac => exact keep_execMac (.refl s) e
  | dualMac => exact keep_execDualMac (.refl s) e
  | transfer => exact keep_execTransfer (.refl s) e
  | do_ => exact keep_execDo (.refl s) e
  | rep => exact keep_execRep (.refl s) e
  | branch => exact keep_execBranch (.refl s) e
  | call => exact keep_execCall (.refl s) e
  | return_ => exact keep_execReturn (.refl s) e
  | in_ => exact keep_execIn (.refl s) e
  | out => exact keep_execOut (.refl s) e
  | send => exact keep_execSend (.refl s) e
  | wait => exact keep_execWait (.refl s) e
  | tmrExpiry => exact keep_execTmrExpiry (.refl s) e
  | houseRestart => exact keep_execHouseRestart (.refl s) e
  | streamBlockWrite => exact keep_execStreamBlockWrite (.refl s) e
  | move => exact keep_execMove (.refl s) e
  | fill => exact keep_execFill (.refl s) e
  | loop => exact keep_execLoop (.refl s) e
  | draftWait => exact keep_execDraftWait (.refl s) e
  | draftWaitDone => exact keep_execDraftWaitDone (.refl s) e
  | draftWaitTimeout => exact keep_execDraftWaitTimeout (.refl s) e
  | signal => exact keep_execSignal (.refl s) e
  | end_ => exact keep_execEnd (.refl s) e
  | burstIssue => exact keep_execBurstIssue (.refl s) e
  | readbackDone => exact keep_execReadbackDone (.refl s) e
  | draftBusError => exact keep_execDraftBusError (.refl s) e
  | coxRxUp => exact keep_execCoxRxUp (.refl s) e
  | coxRxDown => exact keep_execCoxRxDown (.refl s) e
  | coxDownExpiry => exact keep_execCoxDownExpiry (.refl s) e
  | strokeMarkerTx => exact keep_execStrokeMarkerTx (.refl s) e
  | strokeMarkerRx => exact keep_execStrokeMarkerRx (.refl s) e
  | timeBeaconTx => exact keep_execTimeBeaconTx (.refl s) e
  | timeBeaconRx => exact keep_execTimeBeaconRx (.refl s) e
  | crewFrameRx => exact keep_execCrewFrameRx (.refl s) e
  | coxSleep => exact keep_execCoxSleep (.refl s) e
  | coxWake => exact keep_execCoxWake (.refl s) e
  | coxWakeEnd => exact keep_execCoxWakeEnd (.refl s) e
  | enumTimeout => exact keep_execEnumTimeout (.refl s) e
  | memberAlignTimeout => exact keep_execMemberAlignTimeout (.refl s) e
  | unwrap => exact keep_execUnwrap (.refl s) e
  | tbclkLost => exact keep_execTbclkLost (.refl s) e
  | tbclkBack => exact keep_execTbclkBack (.refl s) e
  | servoHoldover => exact keep_execServoHoldover (.refl s) e
  | pps => exact keep_execPps (.refl s) e
  | strokeInEdge => exact keep_execStrokeInEdge (.refl s) e
  | inLost => exact keep_execInLost (.refl s) e
  | ptmDialog => exact keep_execPtmDialog (.refl s) e
  | ptmDone => exact keep_execPtmDone (.refl s) e
  | ptmFail => exact keep_execPtmFail (.refl s) e
  | seqTrigger => exact keep_execSeqTrigger (.refl s) e
  | round => exact keep_execRound (.refl s) e
  | channelOutput => exact keep_execChannelOutput (.refl s) e
  | biasFault => exact keep_execBiasFault (.refl s) e
  | htrPeriod => exact keep_execHtrPeriod (.refl s) e
  | modInt => exact keep_execModInt (.refl s) e
  | pwrTransitionStart => exact keep_execPwrTransitionStart (.refl s) e
  | pwrTransitionEnd => exact keep_execPwrTransitionEnd (.refl s) e
  | wakeEvent => exact keep_execWakeEvent (.refl s) e
  | wakeTimerExpiry => exact keep_execWakeTimerExpiry (.refl s) e
  | hintExpiry => exact keep_execHintExpiry (.refl s) e
  | sensorSample => exact keep_execSensorSample (.refl s) e
  | bandDown => exact keep_execBandDown (.refl s) e
  | planRun => exact keep_execPlanRun (.refl s) e
  | splitSnapshot => exact keep_execSplitSnapshot (.refl s) e
  | bootDone => exact keep_execBootDone (.refl s) e
  | ready => exact keep_execReady (.refl s) e
  | secChal => exact keep_execSecChal (.refl s) e
  | secResp => exact keep_execSecResp (.refl s) e
  | challengeExpiry => exact keep_execChallengeExpiry (.refl s) e
  | por => exact keep_execPor (.refl s) e
  | perst => exact keep_execPerst (.refl s) e
  | flr => exact keep_execFlr (.refl s) e
  | busMasterEnable => exact keep_execBusMasterEnable (.refl s) e
  | coxSignalDetect => exact keep_execCoxSignalDetect (.refl s) e
  | coxMeritWindowEnd => exact keep_execCoxMeritWindowEnd (.refl s) e
  | coxDfeAdapt => exact keep_execCoxDfeAdapt (.refl s) e
  | rsCodewordDecoded => exact keep_execRsCodewordDecoded (.refl s) e
  | alignLockChange => exact keep_execAlignLockChange (.refl s) e
  | prbsSyncChange => exact keep_execPrbsSyncChange (.refl s) e
  | ispCloseDone => exact keep_execIspCloseDone (.refl s) e
  | crewFrameSent => exact keep_execCrewFrameSent (.refl s) e

/-- A tick of D_TB, or the command at the front on the queue's rest. -/
theorem step_cases {s t : State} (e : step s = .next t) :
    s.pending = [] ∧ t = idleTick s ∨ ∃ c rest, s.pending = c :: rest ∧ exec c { s with pending := rest } = .next t := by
  unfold step at e
  split at e
  · next h => exact .inl ⟨h, (Host.Outcome.next.inj e).symm⟩
  · next c rest h => exact .inr ⟨c, rest, h, e⟩

/-- Settles O53: the step takes the front command, and no meaning adds to the queue. -/
theorem queueIsServedInOrder : Obligations.QueueIsServedInOrder := by
  unfold Obligations.QueueIsServedInOrder
  intro c rest s t hs e
  rcases step_cases e with ⟨hnil, _⟩ | ⟨c', rest', hcons, he⟩
  · simp [hnil] at hs
  · obtain ⟨-, rfl⟩ := List.cons.inj (hcons.symm.trans hs)
    exact (keep_exec he).pending

/-- Settles O54: neither the idle tick nor any meaning unblows a fuse. -/
theorem fusesMoveOneWay : Obligations.FusesMoveOneWay := by
  unfold Obligations.FusesMoveOneWay
  intro s t e
  rcases step_cases e with ⟨_, rfl⟩ | ⟨c, rest, _, he⟩
  · exact (keep_idleTick (.refl s)).fuses
  · exact (keep_exec he).fuses

/-- Settles O55: every write of beam memory inserts its address in order. -/
theorem beamMemoryStaysCanonical : Obligations.BeamMemoryStaysCanonical := by
  unfold Obligations.BeamMemoryStaysCanonical
  intro s t hwf e
  rcases step_cases e with ⟨_, rfl⟩ | ⟨c, rest, _, he⟩
  · exact (keep_idleTick (.refl s)).mem hwf
  · exact (keep_exec he).mem hwf

end Sys2Proof.Machine
end

section
/-! SUPPORT. Frames of the shared operations: the parts of the state that each may change. -/

-- The checked text is one long file: elaborating these in order bounds its threads and memory.
set_option Elab.async false

namespace Sys2Proof.Machine

/-! ## Composition -/

theorem onlyParts.refl (l : List Part) (s : State) : onlyParts l s s := by
  intro p _
  cases p <;> rfl

theorem onlyRegs.refl (P : RegId → Prop) (s : State) : onlyRegs P s s := fun _ _ => rfl

/-- What changes parts of `l` and then parts of `l'` changes parts of `l`, where `l` holds `l'`. -/
theorem onlyParts.andThen {l l' : List Part} {s t u : State} (h : onlyParts l s t) (h' : onlyParts l' t u)
    (hl : l' ⊆ l := by decide) : onlyParts l s u :=
  h.trans (h'.mono hl)

theorem onlyRegs.andThen {P Q : RegId → Prop} {s t u : State} (h : onlyRegs P s t) (h' : onlyRegs Q t u)
    (hQ : ∀ r, Q r → P r) : onlyRegs P s u :=
  h.trans (h'.mono hQ)

theorem onlyParts.foldl {α : Type} {l : List Part} {f : State → α → State} (h : ∀ a x, onlyParts l a (f a x)) (xs : List α)
    (s : State) : onlyParts l s (xs.foldl f s) := by
  induction xs generalizing s with
  | nil => exact .refl l s
  | cons x xs ih => exact (h s x).trans (ih _)

/-- Registers that no part of the state but the bank holds are as before where the bank is. -/
theorem onlyParts.regsKept {l : List Part} {s t : State} (h : onlyParts l s t) (hl : Part.regs ∉ l := by decide) :
    onlyRegs (fun _ => False) s t :=
  fun r _ => State.reg_congr (h .regs hl) r

theorem onlyRegs.of_none {P : RegId → Prop} {s t : State} (h : onlyRegs (fun _ => False) s t) : onlyRegs P s t :=
  h.mono fun _ => False.elim

/-- Any change of registers is one of registers for which nothing is asked. -/
theorem onlyParts.onlyRegs_of_regs {l : List Part} {s t : State} (h : onlyParts l s t) (hl : Part.regs ∉ l := by decide)
    (P : RegId → Prop) : onlyRegs P s t := (h.regsKept hl).of_none

/-! ## Updates -/

theorem setReg_onlyParts (s : State) (r : RegId) (w : W32) : onlyParts [.regs] s (s.setReg r w) := by
  intro p hp
  cases p <;> simp_all [Part.same]

theorem setReg_onlyRegs (s : State) (r : RegId) (w : W32) : onlyRegs (fun x => x = r) s (s.setReg r w) :=
  fun _ hr => State.reg_setReg_ne s w hr

/-- A write of a field, by the field's register. -/
theorem setFld_onlyReg (s : State) (r : RegId) (hi lo v : Nat) : onlyRegs (fun x => x = r) s (s.setFld ⟨r, hi, lo⟩ v) :=
  setFld_onlyRegs s ⟨r, hi, lo⟩ v

theorem addSat_onlyReg (s : State) (r : RegId) (hi lo d : Nat) : onlyRegs (fun x => x = r) s (s.addSat ⟨r, hi, lo⟩ d) :=
  setFld_onlyRegs s ⟨r, hi, lo⟩ _

theorem incWrap_onlyReg (s : State) (r : RegId) (hi lo : Nat) : onlyRegs (fun x => x = r) s (s.incWrap ⟨r, hi, lo⟩) :=
  setFld_onlyRegs s ⟨r, hi, lo⟩ _

theorem setSFld_onlyReg (s : State) (r : RegId) (hi lo : Nat) (v : Int) :
    onlyRegs (fun x => x = r) s (s.setSFld ⟨r, hi, lo⟩ v) :=
  setFld_onlyRegs s ⟨r, hi, lo⟩ _

theorem addSat_onlyParts (s : State) (f : FldId) (d : Nat) : onlyParts [.regs] s (s.addSat f d) := setFld_onlyParts s f _

theorem incWrap_onlyParts (s : State) (f : FldId) : onlyParts [.regs] s (s.incWrap f) := setFld_onlyParts s f _

theorem setSFld_onlyParts (s : State) (f : FldId) (v : Int) : onlyParts [.regs] s (s.setSFld f v) := setFld_onlyParts s f _

theorem resultReady_onlyParts (s : State) (r : RegId) : onlyParts [.regs] s (s.resultReady r) := setReg_onlyParts s r _

theorem resultReady_onlyRegs (s : State) (r : RegId) : onlyRegs (fun x => x = r) s (s.resultReady r) := setReg_onlyRegs s r _

theorem modLane_onlyParts (s : State) (n : Nat) (f : Lane → Lane) : onlyParts [.lanes] s (s.modLane n f) := by
  intro p hp
  cases p <;> simp_all [Part.same]

theorem modQp_onlyParts (s : State) (q : Nat) (f : Qp → Qp) : onlyParts [.qps] s (s.modQp q f) := by
  intro p hp
  cases p <;> simp_all [Part.same]

theorem setRing_onlyParts (s : State) (f : Nat) (v : Ring) : onlyParts [.rings] s (s.setRing f v) := by
  intro p hp
  cases p <;> simp_all [Part.same]

theorem tick_onlyParts (s : State) : onlyParts [.free] s s.tick := by
  intro p hp
  cases p <;> simp_all [Part.same]

theorem modPwr_onlyParts (s : State) (f : PwrSt → PwrSt) : onlyParts [.pwr] s (s.modPwr f) := by
  intro p hp
  cases p <;> simp_all [Part.same]

theorem modMon_onlyParts (s : State) (f : MonSt → MonSt) : onlyParts [.mon] s (s.modMon f) := by
  intro p hp
  cases p <;> simp_all [Part.same, State.modMon]

theorem modLink_onlyParts (s : State) (n : Nat) (f : CoxLink → CoxLink) : onlyParts [.links] s (s.modLink n f) := by
  intro p hp
  cases p <;> simp_all [Part.same, State.modLink]

theorem nextSeq_onlyParts (s : State) : onlyParts [.crew] s (nextSeq s) := by
  intro p hp
  cases p <;> simp_all [Part.same, nextSeq]

/-! ## Power (R446, R450) -/

theorem noteWake_onlyParts (i : Nat) (s : State) : onlyParts [.pwr] s (noteWake i s) := modPwr_onlyParts s _

theorem startTransition_onlyParts (p : Nat) (s : State) : onlyParts [.pwr, .regs, .out] s (startTransition p s) := by
  have h1 : onlyParts [.pwr, .regs, .out] s
      ((s.setFld fPwr_STATE_TRANS 1).modPwr fun w => { w with going := some p, deeper := none }) :=
    ((setFld_onlyParts s _ _).mono (by decide)).andThen (modPwr_onlyParts _ _)
  simp only [startTransition]
  split_ifs
  · exact (h1.andThen (modPwr_onlyParts _ _)).andThen (emit_onlyParts _ _)
  · exact (h1.andThen (modPwr_onlyParts _ _)).andThen (emit_onlyParts _ _)
  · exact h1.andThen (modPwr_onlyParts _ _)
  · exact h1.andThen (modPwr_onlyParts _ _)
  · exact h1

theorem wake_onlyParts (i : Nat) (s : State) : onlyParts [.pwr, .regs, .out] s (wake i s) := by
  have h1 : onlyParts [.pwr, .regs, .out] s (noteWake i s) := (noteWake_onlyParts i s).mono (by decide)
  simp only [wake]
  split_ifs
  · exact .refl _ s
  · exact h1
  · exact h1
  · exact h1.andThen (setFld_onlyParts _ _ _)
  · exact h1.trans (startTransition_onlyParts _ _)

theorem requestState_onlyParts (p : Nat) (s : State) : onlyParts [.pwr, .regs, .out] s (requestState p s) := by
  simp only [requestState]
  split_ifs
  · exact (setFld_onlyParts s _ _).mono (by decide)
  · exact .refl _ s
  · exact startTransition_onlyParts p s

theorem pwrEval_onlyParts (s : State) : onlyParts [.pwr, .regs, .out] s (pwrEval s) := by
  have h1 : ∀ f, onlyParts [.pwr, .regs, .out] s (s.modPwr f) := fun f => (modPwr_onlyParts s f).mono (by decide)
  simp only [pwrEval]
  split_ifs
  · exact h1 _
  · exact (h1 _).trans (wake_onlyParts _ _)
  · exact (h1 _).trans (requestState_onlyParts _ _)
  · exact h1 _
  · exact h1 _

/-! ## Time that passes (R183) -/

theorem startRound_onlyParts (mask : W32) (s : State) : onlyParts [.mon, .rings, .regs, .out] s (startRound mask s) := by
  simp only [startRound]
  split_ifs
  · exact (modMon_onlyParts s _).mono (by decide)
  · exact ((setFld_onlyParts s _ _).mono (by decide)).andThen (raise_onlyParts _ _)

theorem delaysEnd_onlyParts (s : State) : onlyParts [.mon, .rings, .regs, .out] s (delaysEnd s) :=
  ((modMon_onlyParts s _).mono (by decide)).trans (.foldl (fun _ _ => startRound_onlyParts _ _) _ _)

theorem endPulses_onlyParts (s : State) : onlyParts [.time, .out] s (endPulses s) := by
  intro p hp
  simp only [endPulses]
  split_ifs <;> cases p <;> simp_all [Part.same]

theorem linkFrame_onlyParts (n typ : Nat) (s : State) : onlyParts [.crew, .out] s (linkFrame n typ s) :=
  ((emit_onlyParts s _).mono (by decide)).andThen (nextSeq_onlyParts _)

theorem faultFrames_onlyParts (s : State) : onlyParts [.links, .crew, .out] s (faultFrames s) := by
  refine .foldl (fun a n => ?_) _ s
  dsimp only
  split_ifs
  · exact (onlyParts.foldl (fun b _ => (linkFrame_onlyParts _ _ b).mono (by decide)) _ a).andThen (modLink_onlyParts _ _ _)
  · exact .refl _ a

theorem pass_up (d u : Nat) (s : State) : (pass d u s).up = s.up + u := by
  rw [pass, faultFrames_onlyParts _ .up (by decide), endPulses_onlyParts _ .up (by decide)]

theorem evaluated_up (s : State) : (pwrEval (delaysEnd s)).up = s.up := by
  rw [pwrEval_onlyParts _ .up (by decide), delaysEnd_onlyParts _ .up (by decide)]

theorem idleTick_up (s : State) : (idleTick s).up = s.up + 131072 := by
  have hticked : (if s.tbRuns then tbTick s else pass 0 131072 s).up = s.up + 131072 := by
    split_ifs <;> exact pass_up _ _ _
  simp only [idleTick]
  generalize (if s.tbRuns then tbTick s else pass 0 131072 s) = s1 at hticked
  split_ifs
  · exact hticked
  · rw [evaluated_up, hticked]

end Sys2Proof.Machine
end

section
/-! SUPPORT. The step and the state after reset. -/

namespace Sys2Proof.Machine

/-- Settles O1: the front command runs on the queue's rest; with no command waiting, the idle tick passes 2 ns. -/
theorem stepRunsFrontCommand : Obligations.StepRunsFrontCommand := by
  unfold Obligations.StepRunsFrontCommand
  refine ⟨fun c rest s => rfl, fun s hs => ⟨idleTick s, ?_, idleTick_up s, ?_⟩⟩
  · simp only [step, hs]
  · exact (keep_idleTick (.refl s)).pending.trans hs

/-- Reset gives CTL the same value in every queue pair: DGEN, and rings of 16 slots. -/
theorem reset_qpCtl (q : Nat) : State.reset.reg (rQp_CTL q) = 0x8040400#32 := by
  have hzero : regReset (rQp_CTL 0) = 0x8040400#32 := by decide
  exact (rfl : State.reset.reg (rQp_CTL q) = regReset (rQp_CTL 0)).trans hzero

/-- Settles O51: the reset columns of the register tables, evaluated register by register. -/
theorem resetLeaves : Obligations.ResetLeaves := by
  unfold Obligations.ResetLeaves
  refine ⟨fun q _ => ?_, fun f hf => ?_, fun n hn => ?_, fun k hk => ?_, fun n hn => ?_,
    fun d hd => ?_, rfl, fun c hc => ?_, fun g _ => rfl, fun c hc => ?_, fun j hj => ?_, rfl, rfl, rfl, rfl, rfl, rfl, rfl, rfl, rfl,
    rfl, rfl, rfl, rfl⟩
  · refine ⟨?_, ?_, ?_, ?_, rfl⟩ <;> simp [State.on, State.fld, reset_qpCtl, bits]
  · interval_cases f <;> exact ⟨rfl, rfl⟩
  · interval_cases n <;> exact ⟨rfl, rfl⟩
  · interval_cases k <;> exact ⟨rfl, rfl⟩
  · exact ⟨by interval_cases n <;> rfl, rfl⟩
  · interval_cases d <;> rfl
  · interval_cases c <;> rfl
  · interval_cases c <;> rfl
  · interval_cases j <;> rfl

/-- Settles O56: a device as shipped, with nothing in its memory or its queue. -/
theorem resetMeetsTheInvariant : Obligations.ResetMeetsTheInvariant := by
  unfold Obligations.ResetMeetsTheInvariant
  refine ⟨memWf_reset, rfl, rfl, rfl, rfl, fun i h1 h4 => ?_⟩
  interval_cases i <;> rfl

end Sys2Proof.Machine
end

section
/-! SUPPORT. Doorbells and the fetch of descriptors (R343-R347). -/

-- The checked text is one long file: elaborating these in order bounds its threads and memory.
set_option Elab.async false

namespace Sys2Proof.Machine

theorem State.deep_of_pState {s : State} (h : s.pState < 2) : s.deep = false := by
  simpa [State.deep, State.pState] using h

theorem State.ownerOf_of_regs {s t : State} (h : t.regs = s.regs) (q : Nat) : t.ownerOf q = s.ownerOf q :=
  State.ownerOf_congr (fun _ => State.reg_congr h _) q

@[simp] theorem State.ownerOf_modQp (s : State) (p : Nat) (f : Qp → Qp) (q : Nat) : (s.modQp p f).ownerOf q = s.ownerOf q :=
  State.ownerOf_of_regs rfl q

@[simp] theorem State.bme_modQp (s : State) (p : Nat) (f : Qp → Qp) (n : Nat) : (s.modQp p f).bme n = s.bme n := rfl

@[simp] theorem State.ownerOf_emit (s : State) (o : Out) (q : Nat) : (s.emit o).ownerOf q = s.ownerOf q :=
  State.ownerOf_of_regs rfl q

@[simp] theorem State.qp_modQp_self (s : State) (q : Nat) (f : Qp → Qp) : (s.modQp q f).qp q = f (s.qp q) := by
  simp [State.modQp]

@[simp] theorem State.qp_modQp_ne (s : State) {p q : Nat} (f : Qp → Qp) (h : q ≠ p) : (s.modQp p f).qp q = s.qp q := by
  simp [State.modQp, h]

@[simp] theorem State.qp_emit (s : State) (o : Out) (q : Nat) : (s.emit o).qp q = s.qp q := rfl

/-! ## Doorbell reads (R343, R344) -/

/-- A doorbell that is due is read where its function may master the bus. -/
theorem dueDoorbell_enabled {q : Nat} {s : State} (hen : s.on (fQp_CTL_EN q) = true) (herr : s.fld (fQp_STAT_ERR q) = 0)
    (hb : s.bme (s.ownerOf q) = true) : dueDoorbell q s = (s.modQp q ({ · with due := true })).emit
      (.hostRead (s.ownerOf q) (s.pair (rQp_DB_ADDR_LO q) (rQp_DB_ADDR_HI q)) 8) := by
  simp [dueDoorbell, hen, herr, hb]

theorem dueDoorbell_onlyParts (q : Nat) (s : State) : onlyParts [.qps, .out] s (dueDoorbell q s) := by
  have h1 : onlyParts [.qps, .out] s (s.modQp q ({ · with due := true })) := (modQp_onlyParts s q _).mono (by decide)
  simp only [dueDoorbell]
  split_ifs
  · exact h1.andThen (emit_onlyParts _ _)
  · exact h1
  · exact .refl _ s

theorem dueDoorbell_qp_ne {p q : Nat} (s : State) (h : q ≠ p) : (dueDoorbell p s).qp q = s.qp q := by
  simp only [dueDoorbell]
  split_ifs <;> simp [h]

theorem dueDoorbell_due {q : Nat} {s : State} (hen : s.on (fQp_CTL_EN q) = true) (herr : s.fld (fQp_STAT_ERR q) = 0) :
    ((dueDoorbell q s).qp q).due = true := by
  simp only [dueDoorbell, hen, herr]
  split_ifs <;> simp_all

theorem dueDoorbell_stays_due (p : Nat) {q : Nat} {s : State} (h : (s.qp q).due = true) :
    ((dueDoorbell p s).qp q).due = true := by
  by_cases hp : q = p
  · subst hp
    simp only [dueDoorbell]
    split_ifs <;> simp [h]
  · rw [dueDoorbell_qp_ne s hp, h]

theorem scan_onlyParts (l : List Nat) (s : State) : onlyParts [.qps, .out] s (scan l s) :=
  .foldl (fun a q => dueDoorbell_onlyParts q a) l s

theorem scan_qp_of_notMem {l : List Nat} {q : Nat} (h : q ∉ l) (s : State) : (scan l s).qp q = s.qp q := by
  induction l generalizing s with
  | nil => rfl
  | cons p l ih =>
    obtain ⟨hp, hl⟩ := not_or.1 (mt List.mem_cons.2 h)
    exact (ih hl _).trans (dueDoorbell_qp_ne s hp)

theorem scan_stays_due (l : List Nat) {q : Nat} {s : State} (h : (s.qp q).due = true) : ((scan l s).qp q).due = true := by
  induction l generalizing s with
  | nil => exact h
  | cons p l ih => exact ih (dueDoorbell_stays_due p h)

/-- A scan finds every doorbell of an enabled queue pair in its list due. -/
theorem scan_due {l : List Nat} {q : Nat} {s : State} (hq : q ∈ l) (hen : s.on (fQp_CTL_EN q) = true)
    (herr : s.fld (fQp_STAT_ERR q) = 0) : ((scan l s).qp q).due = true := by
  induction l generalizing s with
  | nil => cases hq
  | cons p l ih =>
    have hregs : (dueDoorbell p s).regs = s.regs := dueDoorbell_onlyParts p s .regs (by decide)
    rcases List.mem_cons.1 hq with rfl | hq
    · exact scan_stays_due l (dueDoorbell_due hen herr)
    · exact ih hq ((State.on_congr hregs _).trans hen) ((State.fld_congr hregs _).trans herr)

theorem State.mem_watchedBy {s : State} {fn q : Nat} :
    q ∈ s.watchedBy fn ↔ q < 256 ∧ s.watched q = true ∧ (fn = 0 ∨ s.ownerOf q = fn) := by
  simp [State.watchedBy]

theorem State.on_of_watched {s : State} {q : Nat} (h : s.watched q = true) : s.on (fQp_CTL_EN q) = true := by
  simp only [State.watched, Bool.and_eq_true] at h
  exact h.1

/-! ## Fetches (R346, R347) -/

/-- What a request for descriptors looks at, but whether one is out. -/
theorem State.toFetch_congr {s t : State} {q : Nat} (hr : t.regs = s.regs) (hp : (t.qp q).sqPi = (s.qp q).sqPi)
    (hf : (t.qp q).fetched = (s.qp q).fetched) : t.toFetch q = s.toFetch q := by
  simp [State.toFetch, State.sqSize, State.fld_congr hr, hp, hf]

theorem State.nextSlot_congr {s t : State} {q : Nat} (hr : t.regs = s.regs)
    (hf : (t.qp q).fetched = (s.qp q).fetched) : t.nextSlot q = s.nextSlot q := by
  simp [State.nextSlot, State.sqSize, State.fld_congr hr, hf]

theorem State.burst_congr {s t : State} {q : Nat} (hr : t.regs = s.regs) (hp : (t.qp q).sqPi = (s.qp q).sqPi)
    (hf : (t.qp q).fetched = (s.qp q).fetched) (hc : t.host.cfg = s.host.cfg) : t.burst q = s.burst q := by
  simp [State.burst, State.toFetch_congr hr hp hf, State.nextSlot_congr hr hf, State.readMost, State.descSize, State.sqSize,
    State.fld_congr hr, State.on_congr hr, hc]

theorem requestDescs_asked {q : Nat} {s : State} (h : (s.qp q).asked ≠ 0) : requestDescs q s = s := by
  simp [requestDescs, h]

/-- With no read out, the next burst is asked for, where slots are to be fetched. -/
theorem requestDescs_idle {q : Nat} {s : State} (h : (s.qp q).asked = 0) (hb : s.bme (s.ownerOf q) = true) :
    requestDescs q s = if s.toFetch q = 0 then s else (s.modQp q ({ · with asked := s.burst q })).emit
      (.hostRead (s.ownerOf q) (s.pair (rQp_SQ_BASE_LO q) (rQp_SQ_BASE_HI q) + s.nextSlot q * s.descSize q)
        (s.burst q * s.descSize q)) := by
  simp [requestDescs, h, hb]

theorem requestDescs_onlyParts (q : Nat) (s : State) : onlyParts [.qps, .out] s (requestDescs q s) := by
  simp only [requestDescs]
  split_ifs
  · exact .refl _ s
  · exact ((modQp_onlyParts s q _).mono (by decide)).andThen (emit_onlyParts _ _)

theorem requestDescs_qp_ne {p q : Nat} (s : State) (h : p ≠ q) : (requestDescs q s).qp p = s.qp p := by
  simp only [requestDescs]
  split_ifs <;> simp [h]

/-- A request changes nothing of its queue pair but what is asked for. -/
theorem requestDescs_qp (q : Nat) (s : State) :
    ∃ n, (requestDescs q s).qp q = { s.qp q with asked := n } := by
  simp only [requestDescs]
  split_ifs
  · exact ⟨_, rfl⟩
  · exact ⟨s.burst q, by simp⟩

/-- A doorbell record that matches its GEN and lies in the rings is taken (R345, R346). -/
theorem exec_doorbellRead_taken {q : Nat} {d : List Byte} {s : State} (hdue : (s.qp q).due = true)
    (hen : s.on (fQp_CTL_EN q) = true) (hb : s.bme (s.ownerOf q) = true) (herr : s.fld (fQp_STAT_ERR q) = 0)
    (hgen : field d 2 2 = s.fld (fQp_DB_GEN_GEN q)) (hsq : field d 0 2 < s.sqSize q) (hcq : field d 4 2 < s.cqSize q) :
    exec (.doorbellRead q (some d)) s = .next (requestDescs q
      ((s.modQp q ({ · with due := false })).modQp q ({ · with sqPi := field d 0 2, cqCi := field d 4 2 }))) := by
  show execDoorbellRead q (some d) s = _
  simp [execDoorbellRead, hdue, hen, hb, herr, hgen, Nat.not_le.2 hsq, Nat.not_le.2 hcq]

theorem map_padTo_take {n : Nat} {l : List (List Byte)} (h : ∀ d ∈ l, d.length = n) :
    l.map (fun d => padTo n (d.take n)) = l := by
  refine (List.map_congr_left fun d hd => ?_).trans (List.map_id l)
  simp [padTo, ← h d hd]

/-- Descriptors that were read join those not yet taken (R347). -/
theorem exec_descriptorFetch_read {q : Nat} {l : List (List Byte)} {s : State} (hen : s.on (fQp_CTL_EN q) = true)
    (herr : s.fld (fQp_STAT_ERR q) = 0) (hasked : (s.qp q).asked ≠ 0) (hl : l.length ≤ (s.qp q).asked)
    (hd : ∀ d ∈ l, d.length = s.descSize q) :
    exec (.descriptorFetch q (some l)) s =
      .next (requestDescs q (s.modQp q fun v => { v with asked := 0, fetched := v.fetched ++ l })) := by
  show execDescriptorFetch q (some l) s = _
  simp [execDescriptorFetch, hen, herr, hasked, List.take_of_length_le hl, map_padTo_take hd]

/-- Settles O2: each access is a read of the doorbell, and each record or burst leads to the next request. -/
theorem doorbellsAreReadAndTaken : Obligations.DoorbellsAreReadAndTaken := by
  unfold Obligations.DoorbellsAreReadAndTaken
  refine ⟨?kick, ?poll, ?nudge, ?vfNudge, ?taken, ?stale, ?fetch⟩
  case kick =>
    intro fn q s hs hq hfn hen herr hb
    show execKick fn q s = _
    simp [execKick, hostAccess_awake _ s hs, kick, hq, hfn, scan, dueDoorbell_enabled hen herr hb]
  case poll =>
    intro q s hw hp herr hb
    show execDoorbellPoll q s = _
    simp [execDoorbellPoll, hw, State.deep_of_pState hp, dueDoorbell_enabled (State.on_of_watched hw) herr hb]
  case nudge =>
    intro s hs
    refine ⟨scan (s.watchedBy 0) s, ?_, fun q hq hw herr => ?_, fun q hw => ?_, scan_onlyParts _ s⟩
    · show execNudge s = _
      simp [execNudge, hostAccess_awake _ s hs]
    · exact scan_due (State.mem_watchedBy.2 ⟨hq, hw, .inl rfl⟩) (State.on_of_watched hw) herr
    · exact scan_qp_of_notMem (by simp [State.mem_watchedBy, hw]) s
  case vfNudge =>
    intro fn s hs hfn
    refine ⟨scan (s.watchedBy fn) s, ?_, fun q hq hw ho herr => ?_, fun q ho => ?_, scan_onlyParts _ s⟩
    · show execVfNudge fn s = _
      simp [execVfNudge, hostAccess_awake _ s hs]
    · exact scan_due (State.mem_watchedBy.2 ⟨hq, hw, .inr ho⟩) (State.on_of_watched hw) herr
    · exact scan_qp_of_notMem (by simp [State.mem_watchedBy, hfn, ho]) s
  case taken =>
    intro q d s hdue hen hb herr hgen hsq hcq
    refine ⟨_, exec_doorbellRead_taken hdue hen hb herr hgen hsq hcq, ?_⟩
    obtain ⟨n, hn⟩ := requestDescs_qp q
      ((s.modQp q ({ · with due := false })).modQp q ({ · with sqPi := field d 0 2, cqCi := field d 4 2 }))
    refine ⟨by simp [hn], by simp [hn], by simp [hn], fun hasked => ?_, fun p hp => ?_, ?_⟩
    · rw [requestDescs_asked (by simpa using hasked)]
      simp
    · simp [requestDescs_qp_ne _ hp, hp]
    · exact (((modQp_onlyParts s q _).mono (by decide)).andThen (modQp_onlyParts _ q _)).trans (requestDescs_onlyParts q _)
  case stale =>
    intro q d s hdue hen hb herr hgen
    show execDoorbellRead q (some d) s = _
    simp [execDoorbellRead, hdue, hen, hb, herr, hgen, State.addSat, fldMax]
  case fetch =>
    intro q l s hen herr hb hasked hl hd
    refine ⟨_, exec_descriptorFetch_read hen herr hasked hl hd, ?_⟩
    generalize hu : (s.modQp q fun v => { v with asked := 0, fetched := v.fetched ++ l }) = u
    have hidle : (u.qp q).asked = 0 := by simp [← hu]
    have hbu : u.bme (u.ownerOf q) = true := by simpa [← hu] using hb
    have hparts : onlyParts [.qps] s u := hu ▸ modQp_onlyParts s q _
    obtain ⟨n, hn⟩ := requestDescs_qp q u
    have hafter := requestDescs_onlyParts q u
    have hto : (requestDescs q u).toFetch q = u.toFetch q := State.toFetch_congr (hafter .regs (by decide)) (by simp [hn]) (by simp [hn])
    have hnext : (requestDescs q u).nextSlot q = u.nextSlot q := State.nextSlot_congr (hafter .regs (by decide)) (by simp [hn])
    have hburst : (requestDescs q u).burst q = u.burst q :=
      State.burst_congr (hafter .regs (by decide)) (by simp [hn]) (by simp [hn]) (hafter .cfg (by decide))
    refine ⟨?_, fun p hp => ?_, ?_, ?_⟩
    · rw [hto, hburst, requestDescs_idle hidle hbu]
      split_ifs <;> simp [← hu]
    · rw [requestDescs_qp_ne u hp, ← hu, State.qp_modQp_ne _ _ hp]
    · rw [hto, hnext, hburst, requestDescs_idle hidle hbu]
      split_ifs <;> simp [← hu, State.pair, State.descSize]
    · exact (hparts.mono (by decide)).trans hafter

end Sys2Proof.Machine
end

section
/-! SUPPORT. Descriptors taken, fences released, ring interrupts, and the control of rings (R339, R347-R351, R356-R365). -/

-- The checked text is one long file: elaborating these in order bounds its threads and memory.
set_option Elab.async false

namespace Sys2Proof.Machine

/-! ## Completions of a queue pair -/

/-- A queue pair's registers but those of its rings' positions are left by a completion. -/
theorem writeCompl_qpReg (c : Compl) (s : State) (q : Nat) {i : Nat} (h4 : i ≠ 4) (htail : i ≠ 0x28) :
    (writeCompl c s).reg ⟨.qp, q, i⟩ = s.reg ⟨.qp, q, i⟩ := by
  simp only [writeCompl]
  split_ifs <;> simp [h4, htail]

theorem postCompl_eq_writeCompl {c : Compl} {s : State} (hq : c.hdr.qp < 256) (hb : s.bme (s.ownerOf c.hdr.qp) = true) :
    postCompl c s = writeCompl c s := by
  simp [postCompl, hb, Nat.not_le.2 hq]

theorem writeCompl_onlyParts (c : Compl) (s : State) : onlyParts [.qps, .regs, .out] s (writeCompl c s) := by
  intro p hp
  cases p <;> simp_all [Part.same]

theorem writeCompl_onlyRegs (c : Compl) (s : State) : onlyRegs complReg s (writeCompl c s) := by
  rintro ⟨k, i, o⟩ hr
  obtain ⟨hq, hm⟩ := not_or.1 hr
  exact writeCompl_reg c s k i o hq hm

/-- The record of a completion is the same where the registers that name its place and tell of the rings are. -/
theorem completed_of_rings {c : Compl} {s s' t : State} (h : completed c s' t)
    (hlo : s'.reg (rQp_CQ_BASE_LO c.hdr.qp) = s.reg (rQp_CQ_BASE_LO c.hdr.qp))
    (hhi : s'.reg (rQp_CQ_BASE_HI c.hdr.qp) = s.reg (rQp_CQ_BASE_HI c.hdr.qp))
    (htail : s'.reg (rQp_CQ_TAIL c.hdr.qp) = s.reg (rQp_CQ_TAIL c.hdr.qp))
    (hstat : s'.reg (rQp_STAT c.hdr.qp) = s.reg (rQp_STAT c.hdr.qp)) : completed c s t := by
  simpa [completed, recordOf, State.pair, State.fld, hlo, hhi, htail, hstat] using h

/-! ## Descriptors taken (R347, R350) -/

/-- What holds where a descriptor may be taken. -/
theorem State.mayTake_elim {s : State} {q : Nat} (h : s.mayTake q = true) :
    s.on (fQp_CTL_EN q) = true ∧ s.bme (s.ownerOf q) = true ∧ (s.qp q).taken.length < 64 := by
  simp only [State.mayTake, Bool.and_eq_true, decide_eq_true_eq] at h
  exact ⟨h.1.1.1.1.1, h.1.1.1.2, h.1.2⟩

/-- The state in which queue pair `q` has taken its oldest fetched descriptor, as `t`. -/
def descTaken (q : Nat) (t : Taken) (rest : List (List Byte)) (s : State) : State :=
  ((s.modQp q fun v => { v with fetched := rest, taken := v.taken ++ [t] }).setFld (fQp_STAT_SQ_HEAD q)
    ((s.fld (fQp_STAT_SQ_HEAD q) + 1) % s.sqSize q)).setFld (fQp_STAT_OUTSTANDING q) ((s.qp q).taken.length + 1)

theorem exec_descriptorTake {q : Nat} {raw : List Byte} {rest : List (List Byte)} {s : State} (h : s.mayTake q = true)
    (hf : (s.qp q).fetched = raw :: rest) :
    exec (.descriptorTake q) s = .next (if (takenOf s q raw).waiting then descTaken q (takenOf s q raw) rest s
      else beginTaken (takenOf s q raw) (descTaken q (takenOf s q raw) rest s)) := by
  show execDescriptorTake q s = _
  simp [execDescriptorTake, h, hf, descTaken]

theorem descTaken_onlyParts (q : Nat) (t : Taken) (rest : List (List Byte)) (s : State) :
    onlyParts [.qps, .regs] s (descTaken q t rest s) :=
  (((modQp_onlyParts s q _).mono (by decide)).andThen (setFld_onlyParts _ _ _)).andThen (setFld_onlyParts _ _ _)

theorem descTaken_onlyRegs (q : Nat) (t : Taken) (rest : List (List Byte)) (s : State) :
    onlyRegs (fun r => r = rQp_STAT q) s (descTaken q t rest s) :=
  ((modQp_onlyParts s q _).onlyRegs_of_regs (P := _)).trans ((setFld_onlyReg _ _ _ _ _).trans (setFld_onlyReg _ _ _ _ _))

theorem descTaken_qp_self (q : Nat) (t : Taken) (rest : List (List Byte)) (s : State) :
    (descTaken q t rest s).qp q = { s.qp q with fetched := rest, taken := (s.qp q).taken ++ [t] } := by
  simp [descTaken]

theorem descTaken_qp_ne {p q : Nat} (t : Taken) (rest : List (List Byte)) (s : State) (h : p ≠ q) :
    (descTaken q t rest s).qp p = s.qp p := by
  simp [descTaken, h]

theorem descTaken_head {q : Nat} (t : Taken) (rest : List (List Byte)) {s : State} (h : s.sqSize q ≤ 65536) :
    (descTaken q t rest s).fld (fQp_STAT_SQ_HEAD q) = (s.fld (fQp_STAT_SQ_HEAD q) + 1) % s.sqSize q := by
  have hpos : 0 < s.sqSize q := by simp [State.sqSize]
  have hlt := Nat.mod_lt (s.fld (fQp_STAT_SQ_HEAD q) + 1) hpos
  simp only [descTaken]
  simp
  omega

theorem descTaken_outstanding {q : Nat} (t : Taken) (rest : List (List Byte)) {s : State} (h : (s.qp q).taken.length < 64) :
    (descTaken q t rest s).fld (fQp_STAT_OUTSTANDING q) = (s.qp q).taken.length + 1 := by
  simp only [descTaken]
  simp
  omega

theorem takenOf_qp (s : State) (q : Nat) (raw : List Byte) : (takenOf s q raw).hdr.qp = q := rfl

/-- A malformed descriptor counts and completes at once with its status (R350). -/
theorem beginTaken_bad {t : Taken} {st : Nat} {u : State} (hbad : t.bad = some st) (hq : t.hdr.qp < 256)
    (hb : u.bme (u.ownerOf t.hdr.qp) = true) :
    completed ⟨t.hdr, st, t.kind, [], [], false⟩ u (beginTaken t u) ∧
      (beginTaken t u).fld (fQp_CNT_DESC_ERR t.hdr.qp) = min 65535 (u.fld (fQp_CNT_DESC_ERR t.hdr.qp) + 1) ∧
      onlyRegs complReg u (beginTaken t u) ∧ onlyParts [.qps, .regs, .out] u (beginTaken t u) := by
  have hcounted : onlyRegs (fun r => r = rQp_CNT t.hdr.qp) u (u.addSat (fQp_CNT_DESC_ERR t.hdr.qp)) := addSat_onlyReg u _ _ _ _
  have hb' : (u.addSat (fQp_CNT_DESC_ERR t.hdr.qp)).bme ((u.addSat (fQp_CNT_DESC_ERR t.hdr.qp)).ownerOf t.hdr.qp) = true := by
    rwa [State.ownerOf_congr (fun j => hcounted _ (by simp))]
  have e : beginTaken t u = postCompl ⟨t.hdr, st, t.kind, [], [], false⟩ (u.addSat (fQp_CNT_DESC_ERR t.hdr.qp)) := by
    simp [beginTaken, hbad]
  have hcompl := postCompl_completed ⟨t.hdr, st, t.kind, [], [], false⟩ _ hq hb'
  rw [e]
  refine ⟨completed_of_rings hcompl ?_ ?_ ?_ ?_, ?_⟩
  iterate 4 exact hcounted _ (by simp)
  rw [postCompl_eq_writeCompl (by exact hq) hb']
  refine ⟨?_, ?_, ?_⟩
  · rw [State.fld, writeCompl_qpReg _ _ _ (by decide) (by decide)]
    exact State.fld_addSat_self u (rQp_CNT _) 1 (by decide) (by decide)
  · exact (hcounted.mono fun r hr => .inl (by rw [hr])).trans (writeCompl_onlyRegs _ _)
  · exact ((setFld_onlyParts u _ _).mono (by decide)).trans (writeCompl_onlyParts _ _)

/-! ## Fences (R351, R382) -/

theorem foldl_beginTaken {l : List Taken} (h : ∀ t ∈ l, t.bad = none) (s : State) :
    l.foldl (fun a x => beginTaken x a) s = s := by
  induction l generalizing s with
  | nil => rfl
  | cons t l ih =>
    obtain ⟨ht, hl⟩ := List.forall_mem_cons.1 h
    rw [List.foldl_cons, beginTaken, ht]
    exact ih hl s

/-- The command behind a fence begins, with those behind it up to the next one; the well-formed ones post nothing. -/
theorem exec_fenceRelease {q : Nat} {x : Taken} {l : List Taken} {s : State} (ht : (s.qp q).taken = x :: l)
    (hw : x.waiting = true) (hb : x.bad = none) (hl : ∀ y ∈ (releaseList l).1, y.bad = none) :
    exec (.fenceRelease q) s = .next (s.modQp q
      ({ · with taken := { x with waiting := false } :: (releaseList l).1 ++ (releaseList l).2 })) := by
  have hbegun : ∀ y ∈ { x with waiting := false } :: (releaseList l).1, y.bad = none :=
    List.forall_mem_cons.2 ⟨hb, hl⟩
  show execFenceRelease q s = _
  simp only [execFenceRelease, ht, hw, Bool.not_true, Bool.false_eq_true, if_false]
  rw [foldl_beginTaken hbegun]

/-! ## Interrupts (R339, R364, R365) -/

/-- A message is sent where the vector is not masked, MSI-X is live and the function may master the bus. -/
theorem sendMsix_live {fn vec : Nat} {s : State} (hm : s.on (fMsix_VEC_CTRL_MASK fn vec) = false)
    (hl : s.msixLive fn = true) (hb : s.bme fn = true) : sendMsix fn vec s =
      s.emit (.msix fn vec (s.fld (fMsix_MSG_ADDR_ADDR fn vec) * 4 + 2 ^ 32 * s.fld (fMsix_MSG_UPPER_ADDR fn vec))
        (s.fld (fMsix_MSG_DATA_DATA fn vec))) := by
  simp [sendMsix, hm, hl, hb]

/-- Else the message stays pending. -/
theorem sendMsix_pending {fn vec : Nat} {s : State} (hv : vec < 32)
    (h : s.on (fMsix_VEC_CTRL_MASK fn vec) = true ∨ s.bme fn = false ∨ s.msixLive fn = false) :
    sendMsix fn vec s = s.setReg (rMsix_PBA fn 0) (s.reg (rMsix_PBA fn 0) ||| BitVec.ofNat 32 (2 ^ vec)) := by
  have hcond : (s.on (fMsix_VEC_CTRL_MASK fn vec) || !s.msixLive fn || !s.bme fn) = true := by
    rcases h with h | h | h <;> simp [h]
  rw [sendMsix, if_pos hcond, Nat.div_eq_of_lt hv, Nat.mod_eq_of_lt hv]

theorem getLsbD_or_bit (w : W32) {k : Nat} (h : k < 32) : (w ||| BitVec.ofNat 32 (2 ^ k)).getLsbD k = true := by
  rw [BitVec.getLsbD_or, BitVec.getLsbD_ofNat]
  simp [h]

@[simp] theorem State.msixLive_modQp (s : State) (q : Nat) (f : Qp → Qp) (n : Nat) :
    (s.modQp q f).msixLive n = s.msixLive n := rfl
@[simp] theorem State.bme_setRing (s : State) (p : Nat) (v : Ring) (n : Nat) : (s.setRing p v).bme n = s.bme n := rfl
@[simp] theorem State.msixLive_setRing (s : State) (p : Nat) (v : Ring) (n : Nat) : (s.setRing p v).msixLive n = s.msixLive n := rfl
@[simp] theorem State.ring_emit (s : State) (o : Out) (p : Nat) : (s.emit o).ring p = s.ring p := rfl

@[simp] theorem State.ring_setRing_ne (s : State) {p q : Nat} (v : Ring) (h : q ≠ p) : (s.setRing p v).ring q = s.ring q := by
  simp [State.ring, State.setRing, Tab.get_set_ne _ _ _ (Ne.symm h)]

theorem exec_irqTimerExpiry_qp {q : Nat} {s : State} (hp : (s.qp q).irqPend ≠ 0) (hen : s.on (fQp_IRQ_INT_EN q) = true) :
    exec (.irqTimerExpiry false q) s =
      .next (sendMsix (s.ownerOf q) (s.fld (fQp_IRQ_VEC q)) (s.modQp q ({ · with irqPend := 0 }))) := by
  show execIrqTimerExpiry false q s = _
  simp [execIrqTimerExpiry, hp, hen]

theorem exec_irqTimerExpiry_ring {f : Nat} {s : State} (hp : (s.ring f).irqPend ≠ 0) (hen : s.on (fNq_NQ_IRQ_INT_EN f) = true) :
    exec (.irqTimerExpiry true f) s =
      .next (sendMsix f (s.fld (fNq_NQ_IRQ_VEC f)) (s.setRing f { s.ring f with irqPend := 0 })) := by
  show execIrqTimerExpiry true f s = _
  simp [execIrqTimerExpiry, hp, hen]

theorem State.fld_lt (s : State) (f : FldId) : s.fld f < 2 ^ (f.hi + 1 - f.lo) := bits_lt _ _ _

/-- Settles O3: a descriptor taken begins, waits or completes, and a ring whose time has passed sends or keeps its message. -/
theorem descriptorsAreTakenAndRingsInterrupt : Obligations.DescriptorsAreTakenAndRingsInterrupt := by
  unfold Obligations.DescriptorsAreTakenAndRingsInterrupt
  refine ⟨?take, fun q x l s ht hw hb hl => exec_fenceRelease ht hw hb hl, ?qpSends, ?qpPends, ?ringSends, ?ringPends⟩
  case take =>
    intro q raw rest s hmay hq hsize hf
    obtain ⟨_, hb, hlen⟩ := State.mayTake_elim hmay
    have hregs := descTaken_onlyRegs q (takenOf s q raw) rest s
    have hparts := descTaken_onlyParts q (takenOf s q raw) rest s
    refine ⟨descTaken q (takenOf s q raw) rest s, _, exec_descriptorTake hmay hf, descTaken_qp_self _ _ _ _,
      fun p hp => descTaken_qp_ne _ _ _ hp, descTaken_head _ _ hsize, descTaken_outstanding _ _ hlen, hregs, hparts, ?_, ?_⟩
    · rintro (hw | hbad)
      · rw [if_pos hw]
      · split_ifs <;> simp [beginTaken, hbad]
    · intro st hw hbad
      have hb' : (descTaken q (takenOf s q raw) rest s).bme ((descTaken q (takenOf s q raw) rest s).ownerOf q) = true := by
        rw [State.ownerOf_congr (fun j => hregs _ (by simp)), State.bme, hparts .bme (by decide)]
        exact hb
      obtain ⟨hcompl, hcnt, hr, hp⟩ := beginTaken_bad hbad (by exact hq) hb'
      rw [if_neg (by simp [hw])]
      refine ⟨hcompl, hcnt.trans ?_, hr, hp⟩
      rw [takenOf_qp, State.fld, hregs _ (by simp)]
      rfl
  case qpSends =>
    intro q s hp hen hb hm hl
    rw [exec_irqTimerExpiry_qp hp hen, sendMsix_live (by simpa using hm) (by simpa using hl) (by simpa using hb)]
    simp
  case qpPends =>
    intro q s hp hen h
    have hv : s.fld (fQp_IRQ_VEC q) < 32 := State.fld_lt s _
    refine ⟨_, exec_irqTimerExpiry_qp hp hen, ?_⟩
    rw [sendMsix_pending hv (by simpa using h)]
    refine ⟨by simp, fun p hp => by simp [hp], ?_, ?_, ?_⟩
    · rw [State.reg_setReg_self]
      exact getLsbD_or_bit _ hv
    · exact ((modQp_onlyParts s q _).onlyRegs_of_regs (P := _)).trans (setReg_onlyRegs _ _ _)
    · exact ((modQp_onlyParts s q _).mono (by decide)).andThen (setReg_onlyParts _ _ _)
  case ringSends =>
    intro f s hp hen hb hm hl
    refine ⟨_, exec_irqTimerExpiry_ring hp hen, ?_⟩
    rw [sendMsix_live (by simpa using hm) (by simpa using hl) (by simpa using hb)]
    refine ⟨by simp, fun p hp => by simp [hp], by simp, ?_⟩
    exact ((setRing_onlyParts s f _).mono (by decide)).andThen (emit_onlyParts _ _)
  case ringPends =>
    intro f s hp hen h
    have hv : s.fld (fNq_NQ_IRQ_VEC f) < 32 := State.fld_lt s _
    refine ⟨_, exec_irqTimerExpiry_ring hp hen, ?_⟩
    rw [sendMsix_pending hv (by simpa using h)]
    refine ⟨by simp, fun p hp => by simp [hp], ?_, ?_, ?_⟩
    · rw [State.reg_setReg_self]
      exact getLsbD_or_bit _ hv
    · exact ((setRing_onlyParts s f _).onlyRegs_of_regs (P := _)).trans (setReg_onlyRegs _ _ _)
    · exact ((setRing_onlyParts s f _).mono (by decide)).andThen (setReg_onlyParts _ _ _)

end Sys2Proof.Machine
end

section
/-! SUPPORT. Queue pairs and notice rings: enabling, disabling, consumed slots (R356, R357, R362, R369). -/

-- The checked text is one long file: elaborating these in order bounds its threads and memory.
set_option Elab.async false

namespace Sys2Proof.Machine

@[simp] theorem State.gen_setFld (s : State) (f : FldId) (v k : Nat) : (s.setFld f v).gen k = s.gen k := rfl

/-! ## Enabling (R357) -/

theorem qpEnabled_qp (q : Nat) (s : State) : (qpEnabled q s).qp q = {} := by simp [qpEnabled]

theorem qpEnabled_onlyParts (q : Nat) (s : State) : onlyParts [.qps, .regs] s (qpEnabled q s) := by
  intro p hp
  cases p <;> simp_all [Part.same, qpEnabled]

theorem qpEnabled_onlyRegs (q : Nat) (s : State) : onlyRegs (fun r => r = rQp_STAT q ∨ r = rQp_CQ_TAIL q) s (qpEnabled q s) := by
  intro r hr
  obtain ⟨hstat, htail⟩ := not_or.1 hr
  simp [qpEnabled, hstat, htail]

/-- A write of CTL that passes its checks enables a queue pair that was not. -/
theorem writeQpCtl_enables {ab : Bool → Nat → State → State} {fn space off q : Nat} {v : W32} {s : State}
    (hc : qpCtlCheck s q v = none) (hv : v.getLsbD 31 = true) (hen : s.on (fQp_CTL_EN q) = false) :
    writeQpCtl ab fn space off q v s = qpEnabled q (s.setReg (rQp_CTL q) (v &&& 0xF81F1F00#32)) := by
  simp [writeQpCtl, hc, hv, hen]

theorem writeQpCtl_disables {ab : Bool → Nat → State → State} {fn space off q : Nat} {v : W32} {s : State}
    (hc : qpCtlCheck s q v = none) (hv : v.getLsbD 31 = false) (hen : s.on (fQp_CTL_EN q) = true) :
    writeQpCtl ab fn space off q v s = qpDisabled ab q (s.setReg (rQp_CTL q) (v &&& 0xF81F1F00#32)) := by
  simp only [writeQpCtl, hc, hv, hen, Bool.not_true, Bool.not_false, Bool.and_self, Bool.false_eq_true, if_false, if_true]

/-! ## Disabling with nothing outstanding (R356) -/

/-- No command waits for a stroke or its turn. -/
structure NothingWaits (s : State) : Prop where
  esps    : s.loom.esps = []
  jumps   : ∀ k, k < 4 → (s.gen k).jump = none
  starts  : ∀ e ∈ s.sht.sh, e.2.start = none
  loads   : s.sht.loads = []
  attests : s.sec.attests = []

theorem List.foldl_of_fixed {α β : Type} {f : α → β → α} {a : α} {l : List β} (h : ∀ x ∈ l, f a x = a) : l.foldl f a = a := by
  induction l with
  | nil => rfl
  | cons x l ih =>
    obtain ⟨hx, hl⟩ := List.forall_mem_cons.1 h
    rw [List.foldl_cons, hx, ih hl]

theorem abortTakes_of_nothingWaits {s : State} (h : NothingWaits s) (post : Bool) (q : Nat) : abortTakes post q s = s := by
  simp [abortTakes, h.esps]

theorem abortJumps_of_nothingWaits {s : State} (h : NothingWaits s) (post : Bool) (q : Nat) : abortJumps post q s = s :=
  List.foldl_of_fixed fun k hk => by simp [h.jumps k (List.mem_range.1 hk)]

theorem abortStarts_of_nothingWaits {s : State} (h : NothingWaits s) (post : Bool) (q : Nat) : abortStarts post q s = s :=
  List.foldl_of_fixed fun e he => by simp [h.starts e he]

theorem abortSerial_of_nothingWaits {s : State} (h : NothingWaits s) (post : Bool) (q : Nat) : abortSerial post q s = s := by
  have hloads : ({ s.sht with loads := [] } : ShtSt) = s.sht := by rw [← h.loads]
  have hattests : ({ s.sec with attests := [] } : SecSt) = s.sec := by rw [← h.attests]
  simp [abortSerial, h.loads, h.attests, dropTail, hloads, hattests]

theorem abortWaiting_of_nothingWaits {s : State} (h : NothingWaits s) (post : Bool) (q : Nat) : abortWaiting post q s = s := by
  rw [abortWaiting, abortTakes_of_nothingWaits h, abortJumps_of_nothingWaits h, abortStarts_of_nothingWaits h,
    abortSerial_of_nothingWaits h]

theorem NothingWaits.setFld {s : State} (h : NothingWaits s) (f : FldId) (v : Nat) : NothingWaits (s.setFld f v) :=
  ⟨h.esps, h.jumps, h.starts, h.loads, h.attests⟩

theorem NothingWaits.setReg {s : State} (h : NothingWaits s) (r : RegId) (w : W32) : NothingWaits (s.setReg r w) :=
  ⟨h.esps, h.jumps, h.starts, h.loads, h.attests⟩

/-- With nothing outstanding and nothing waiting, a queue pair is idle at once. -/
theorem qpDisabled_of_nothing {q : Nat} {s : State} (hw : NothingWaits s) (ht : (s.qp q).taken = []) (hp : (s.qp q).posted = []) :
    qpDisabled abortWaiting q s = (((s.setFld (fQp_STAT_BUSY q) 0).setQp q
      { s.qp q with taken := [], posted := [], fetched := [], due := false }).setFld (fQp_STAT_BUSY q) 0).setFld (fQp_STAT_ERR q) 0 := by
  simp [qpDisabled, abortQueued, ht, hp, abortWaiting_of_nothingWaits (hw.setFld _ _)]

/-! ## The rows -/

theorem exec_qpEnable {fn q : Nat} (v : W32) {s : State} (hs : s.awake = true) (hq : q < 256) (hfn : fn = 0 ∨ s.ownerOf q = fn) :
    exec (.qpEnable fn q v) s = .next (writeQpCtl abortWaiting fn (s.placeQp fn q 0).1 (s.placeQp fn q 0).2 q v s) := by
  show execQpEnable fn q v s = _
  simp [execQpEnable, hostAccess_awake _ s hs, hq, hfn]

theorem exec_qpDisable {fn q : Nat} (v : W32) {s : State} (hs : s.awake = true) (hq : q < 256) (hfn : fn = 0 ∨ s.ownerOf q = fn) :
    exec (.qpDisable fn q v) s = .next (writeQpCtl abortWaiting fn (s.placeQp fn q 0).1 (s.placeQp fn q 0).2 q v s) := by
  show execQpDisable fn q v s = _
  simp [execQpDisable, hostAccess_awake _ s hs, hq, hfn]

/-- Settles O4: CTL of a queue pair and of a notice ring, and the index of consumed slots. -/
theorem ringsAreEnabledAndDisabled : Obligations.RingsAreEnabledAndDisabled := by
  unfold Obligations.RingsAreEnabledAndDisabled
  refine ⟨?enable, ?disable, ?nqEnable, ?nqCi⟩
  case enable =>
    intro fn q v s hs hq hfn hv hen hc
    refine ⟨_, (exec_qpEnable v hs hq hfn).trans (congrArg _ (writeQpCtl_enables hc hv hen)), ?_, ?_, ?_, ?_,
      qpEnabled_qp _ _, ?_, ?_⟩
    · simp [qpEnabled_onlyRegs q _ (rQp_CTL q)]
    · simp [qpEnabled]
    · simp [qpEnabled]
    · simp [qpEnabled]
    · exact ((setReg_onlyRegs s _ _).mono fun r => .inl).andThen (qpEnabled_onlyRegs q _) fun r => .inr
    · exact ((setReg_onlyParts s _ _).mono (by decide)).andThen (qpEnabled_onlyParts q _)
  case disable =>
    intro fn q v s hs hq hfn hv hen hc ht hp hesps hjumps hstarts hloads hattests
    have hw : NothingWaits (s.setReg (rQp_CTL q) (v &&& 0xF81F1F00#32)) :=
      NothingWaits.setReg ⟨hesps, hjumps, hstarts, hloads, hattests⟩ _ _
    refine ⟨_, (exec_qpDisable v hs hq hfn).trans (congrArg _ ((writeQpCtl_disables hc hv hen).trans
      (qpDisabled_of_nothing hw (by simpa using ht) (by simpa using hp)))), by simp, by simp, by simp, by simp [ht, hp], ?_, ?_⟩
    · intro r hr
      obtain ⟨hctl, hstat⟩ := not_or.1 hr
      simp [hctl, hstat]
    · intro p hp
      cases p <;> simp_all [Part.same]
  case nqEnable =>
    intro fn f v s hs hf hfn hv hen hc
    have e : exec (.nqEnable fn f v) s = .next (((s.setReg (rNq_NQ_CTL f) (v &&& 0xC01F0000#32)).setFld
        (fNq_NQ_STAT_TAIL f) 0).setFld (fNq_NQ_STAT_PHASE f) 1) := by
      show execNqEnable fn f v s = _
      simp [execNqEnable, hostAccess_awake _ s hs, hf, hfn, writeNqCtl, hc, hv, hen]
    refine ⟨_, e, by simp, by simp, by simp, ?_, ?_⟩
    · intro r hr
      obtain ⟨hctl, hstat⟩ := not_or.1 hr
      simp [hctl, hstat]
    · intro p hp
      cases p <;> simp_all [Part.same]
  case nqCi =>
    intro fn f v s hs hf hfn hv
    show execNqCi fn f v s = _
    simp [execNqCi, hostAccess_awake _ s hs, hf, hfn, writeNqCi, Nat.not_le.2 hv]

end Sys2Proof.Machine
end

section
/-! SUPPORT. Register reads by the host: what a read answers, latches, captures and clears (R11, R12, R15, R33, R571). -/

-- The checked text is one long file: elaborating these in order bounds its threads and memory.
set_option Elab.async false

namespace Sys2Proof.Machine

/-! ## Addresses that name a register lie in their BAR -/

theorem lt_of_decodeBar0 {a : Nat} {r : RegId} (h : decodeBar0 a = some r) : a < 2 ^ 26 := by
  by_contra hge
  have hnone : decodeBar0 a = none := by
    unfold decodeBar0
    repeat rw [if_neg (by omega)]
  simp [hnone] at h

theorem lt_of_decodeWin {fn base count a : Nat} {r : RegId} (hc : count < 512) (h : decodeWin fn base count a = some r) :
    a < 2 ^ 16 := by
  by_contra hge
  have hnone : decodeWin fn base count a = none := by
    unfold decodeWin
    repeat rw [if_neg (by omega)]
  simp [hnone] at h

theorem State.vfCount_lt (s : State) (f : Nat) : s.vfCount f < 512 := by
  simp only [State.vfCount]
  split_ifs
  · decide
  · exact Nat.lt_trans (State.fld_lt s _) (by simp)

theorem inBar_of_regAt {s : State} {fn addr : Nat} {r : RegId} (h : s.regAt fn addr = some r) : inBar fn addr = true := by
  simp only [State.regAt] at h
  simp only [inBar, decide_eq_true_eq]
  split_ifs at h ⊢
  · exact lt_of_decodeBar0 h
  · exact lt_of_decodeWin (s.vfCount_lt fn) h

/-! ## Reads -/

/-- On an awake device a read of either kind of block acts at once (R443). -/
theorem regAccess_awake (r : Option RegId) (f : State → State) {s : State} (h : s.awake = true) : regAccess r f s = f s := by
  simp only [regAccess]
  split_ifs
  · exact aonAccess_awake f h
  · exact hostAccess_awake f s h

theorem readDone_reg {fn addr : Nat} {r : RegId} {s : State} (h : s.regAt fn addr = some r) :
    readDone fn addr s = (readReg fn (spaceOf fn) addr r s).2.emit (.readData fn (readReg fn (spaceOf fn) addr r s).1) := by
  simp [readDone, inBar_of_regAt h, readAt, h]

theorem exec_loRead {fn addr : Nat} {s : State} (hs : s.awake = true) : exec (.loRead fn addr) s = .next (readDone fn addr s) := by
  show execLoRead fn addr s = _
  simp [execLoRead, regAccess_awake _ _ hs]

theorem exec_resultRead {fn addr : Nat} {s : State} (hs : s.awake = true) :
    exec (.resultRead fn addr) s = .next (readDone fn addr s) := by
  show execResultRead fn addr s = _
  simp [execResultRead, regAccess_awake _ _ hs]

/-- A register that is not captured, and no high half, answers its value as it is now. -/
theorem readReg_live {fn space ofs : Nat} {r : RegId} {d : RegDesc} {s : State} (hu : s.unavailable r = none) (hd : findReg r = some d)
    (hanc : r.blk ≠ .anc) (hc : captured r = false) (hh : isHi r = false) :
    readReg fn space ofs r s = (maskWo d (live r s), readEffects fn d r s) := by
  simp [readReg, hu, hd, hanc, hc, hh]

/-- A high half answers what was latched for the function. -/
theorem readReg_hi {fn space ofs : Nat} {r : RegId} {d : RegDesc} {s : State} (hu : s.unavailable r = none) (hd : findReg r = some d)
    (hanc : r.blk ≠ .anc) (hc : captured r = false) (hh : isHi r = true) :
    readReg fn space ofs r s = (Tab.get 0#32 s.host.hiLatch (fn, r), s) := by
  simp [readReg, hu, hd, hanc, hc, hh]

/-- Settles O5: the low half latches the high half, and the high half answers it. -/
theorem sixtyFourBitReads : Obligations.SixtyFourBitReads := by
  unfold Obligations.SixtyFourBitReads
  constructor
  · intro fn addr r d s hs hr hd hu hlo hc hres hhi hcapt hanc
    rw [exec_loRead hs, readDone_reg hr, readReg_live hu hd hanc hc hhi]
    simp [readEffects, hlo, hres, hcapt, State.emit]
  · intro fn addr r d s hs hr hd hu hhi hc hanc
    rw [exec_loRead hs, readDone_reg hr, readReg_hi hu hd hanc hc hhi]

/-- Settles O6: the read answers the result as it was, and clears FRESH. -/
theorem resultReadsClearFresh : Obligations.ResultReadsClearFresh := by
  unfold Obligations.ResultReadsClearFresh
  intro addr r d s hs hr hd hu hres hlo hhi hc hcapt hanc hlive hfresh
  rw [exec_resultRead hs, readDone_reg hr, readReg_live hu hd hanc hc hhi, hlive]
  have hclear : readEffects 0 d r s = s.setFld ⟨r, 30, 30⟩ 0 := by
    simp only [readEffects, hlo, hcapt, hres, hfresh, List.foldl_nil, and_self, if_true]
    rfl
  rw [hclear]

/-! ## Captures (R571) -/

theorem State.unavailable_none {s : State} {r : RegId} (ht : s.regTesting r = false) (hl : r.blk ≠ .ln) : s.unavailable r = none := by
  simp [State.unavailable, ht, laneGated, hl]

/-- The registers of a group, captured for function `fn`. -/
def captureFor (fn : Nat) (l : List RegId) (s : State) : State :=
  l.foldl (fun a c => { a with host := { a.host with capt := Tab.set a.host.capt (fn, c) (live c s) } }) s

theorem foldl_capture (fn : Nat) (v : RegId → W32) (l : List RegId) (a : State) :
    l.foldl (fun a c => { a with host := { a.host with capt := Tab.set a.host.capt (fn, c) (v c) } }) a =
      { a with host := { a.host with capt := l.foldl (fun t c => Tab.set t (fn, c) (v c)) a.host.capt } } := by
  induction l generalizing a with
  | nil => rfl
  | cons c l ih => exact ih _

theorem get_foldl_set (fn : Nat) (v : RegId → W32) (l : List RegId) (t : Tab (Nat × RegId) W32) (r : RegId) :
    Tab.get 0#32 (l.foldl (fun t c => Tab.set t (fn, c) (v c)) t) (fn, r) = if r ∈ l then v r else Tab.get 0#32 t (fn, r) := by
  induction l generalizing t with
  | nil => simp
  | cons c l ih =>
    rw [List.foldl_cons, ih, Tab.get_set]
    by_cases hrc : r = c
    · subst hrc; simp
    · simp [hrc, Ne.symm hrc]

theorem captureFor_onlyParts (fn : Nat) (l : List RegId) (s : State) : onlyParts [.capt] s (captureFor fn l s) := by
  intro p hp
  rw [captureFor, foldl_capture]
  cases p <;> simp_all [Part.same]

theorem captureFor_get {fn : Nat} {l : List RegId} {r : RegId} (h : r ∈ l) (s : State) :
    Tab.get 0#32 (captureFor fn l s).host.capt (fn, r) = live r s := by
  rw [captureFor, foldl_capture]
  exact (get_foldl_set fn _ l _ r).trans (if_pos h)

/-- FRESH cleared where it was set: it reads 0 afterwards either way. -/
def freshCleared (r : RegId) (b : Bool) (s : State) : State := if b then s.setReg r (putBits (s.reg r) 30 30 0) else s

theorem bits_bit (w : W32) {k : Nat} (h : w.getLsbD k = false) : bits w k k = 0 := by
  have hb : w.toNat.testBit k = false := h
  have : k + 1 - k = 1 := by omega
  rw [Nat.testBit_eq_decide_div_mod_eq, decide_eq_false_iff_not] at hb
  rw [bits, this, pow_one]
  omega

theorem freshCleared_fld (r : RegId) (s : State) : (freshCleared r ((s.reg r).getLsbD 30) s).fld ⟨r, 30, 30⟩ = 0 := by
  simp only [freshCleared]
  split_ifs with h
  · rw [State.fld_setReg_self]
    exact bits_putBits_self _ _ ⟨by decide, by decide⟩
  · exact bits_bit _ (by simpa using h)

theorem freshCleared_onlyRegs (r : RegId) (b : Bool) (s : State) : onlyRegs (fun x => x = r) s (freshCleared r b s) := by
  simp only [freshCleared]
  split_ifs
  · exact setReg_onlyRegs s r _
  · exact .refl _ s

theorem freshCleared_onlyParts (r : RegId) (b : Bool) (s : State) : onlyParts [.regs] s (freshCleared r b s) := by
  simp only [freshCleared]
  split_ifs
  · exact setReg_onlyParts s r _
  · exact .refl _ s

/-- A read of the first register of a group that is no pair answers it and captures the rest; a result's FRESH is cleared. -/
theorem readDone_captures {addr : Nat} {r : RegId} {d : RegDesc} {s : State} (hr : s.regAt 0 addr = some r) (hd : findReg r = some d)
    (hu : s.unavailable r = none) (hanc : r.blk ≠ .anc) (hc : captured r = false) (hlo : isLo r = false) (hhi : isHi r = false) :
    readDone 0 addr s =
      (freshCleared r (isResult d && (s.reg r).getLsbD 30) (captureFor 0 (captures r) s)).emit (.readData 0 (maskWo d (live r s))) := by
  have hreg : (captureFor 0 (captures r) s).reg r = s.reg r := State.reg_congr (captureFor_onlyParts 0 _ s .regs (by decide)) r
  rw [readDone_reg hr, readReg_live hu hd hanc hc hhi]
  simp only [readEffects, hlo, Bool.false_eq_true, if_false, freshCleared, Bool.and_eq_true]
  rw [hreg]
  rfl

/-- What a read that captures does, where the first register is shown as the bank holds it or computed from the state. -/
theorem readDone_captures_frame {addr : Nat} {r : RegId} {d : RegDesc} {s : State} (hr : s.regAt 0 addr = some r)
    (hd : findReg r = some d) (hu : s.unavailable r = none) (hanc : r.blk ≠ .anc) (hc : captured r = false) (hlo : isLo r = false)
    (hhi : isHi r = false) (hwo : ∀ w, maskWo d w = w) :
    (readDone 0 addr s).host.out = .readData 0 (live r s) :: s.host.out ∧
      (∀ c ∈ captures r, Tab.get 0#32 (readDone 0 addr s).host.capt (0, c) = live c s) ∧
      (isResult d = true → (readDone 0 addr s).fld ⟨r, 30, 30⟩ = 0) ∧
      onlyRegs (fun x => x = r) s (readDone 0 addr s) ∧ onlyParts [.capt, .out, .regs] s (readDone 0 addr s) ∧
      (isResult d = false → onlyParts [.capt, .out] s (readDone 0 addr s)) := by
  rw [readDone_captures hr hd hu hanc hc hlo hhi, hwo]
  have hcap := captureFor_onlyParts 0 (captures r) s
  have hreg : (captureFor 0 (captures r) s).reg r = s.reg r := State.reg_congr (hcap .regs (by decide)) r
  refine ⟨?_, fun c hm => ?_, fun hres => ?_, ?_, ?_, fun hres => ?_⟩
  · rw [State.out_emit, freshCleared_onlyParts _ _ _ .out (by decide), hcap .out (by decide)]
  · refine Eq.trans ?_ (captureFor_get (fn := 0) hm s)
    have := freshCleared_onlyParts r (isResult d && (s.reg r).getLsbD 30) (captureFor 0 (captures r) s) .capt (by decide)
    exact congrArg (Tab.get 0#32 · (0, c)) this
  · rw [State.fld_emit, hres, Bool.true_and, ← hreg]
    exact freshCleared_fld r _
  · exact ((hcap.onlyRegs_of_regs (P := _)).trans (freshCleared_onlyRegs _ _ _)).andThen (emit_onlyRegs _ _) fun _ => False.elim
  · exact ((hcap.mono (by decide)).andThen (freshCleared_onlyParts _ _ _)).andThen (emit_onlyParts _ _)
  · simp only [hres, Bool.false_and, freshCleared, Bool.false_eq_true, if_false]
    exact (hcap.mono (by decide)).andThen (emit_onlyParts _ _)

/-! ## The groups (R185, R193, R292, R366, R411, R534) -/

theorem decodeBar0_resStat {n : Nat} (h : n < 16) : decodeBar0 (addrOf (rCk_RES_STAT n)) = some (rCk_RES_STAT n) := by
  interval_cases n <;> decide

theorem decodeBar0_tagPc {n : Nat} (h : n < 96) : decodeBar0 (addrOf (rSh_TAG_PC n)) = some (rSh_TAG_PC n) := by
  interval_cases n <;> decide

/-- The table lists the same register at an offset of every occurrence of a block (but the channels of the monitor). -/
theorem findReg_inst {k : Blk} (h : k ≠ .ch) (i j o : Nat) : findReg ⟨k, i, o⟩ = findReg ⟨k, j, o⟩ := by
  have hres : reservedOn ⟨k, i, o⟩ = reservedOn ⟨k, j, o⟩ := by
    funext f
    cases k <;> first | rfl | exact absurd rfl h
  simp only [findReg, hres]

/-- The log's first entry, and zeros with none (DESIGN CHOICE, log entry 16). -/
theorem exec_rejE0Read {s : State} (hs : s.awake = true) : ∃ t, exec (.rejE0Read 0) s = .next t ∧
    t.host.out = .readData 0 (live rSys_REJ_E0 s) :: s.host.out ∧ Tab.get 0#32 t.host.capt (0, rSys_REJ_E1) = live rSys_REJ_E1 s ∧
    onlyParts [.capt, .out] s t := by
  obtain ⟨hout, hcapt, -, -, -, hparts⟩ := readDone_captures_frame (s := s) (addr := addrOf rSys_REJ_E0) (r := rSys_REJ_E0) rfl rfl
    (State.unavailable_none rfl (by decide)) (by decide) (by decide) (by decide) (by decide) (fun _ => rfl)
  refine ⟨_, ?_, hout, hcapt _ (by decide), hparts (by decide)⟩
  show execRejE0Read 0 s = _
  rw [execRejE0Read, hostAccess_awake _ s hs]

/-! ## A VF's window holds no group (R368) -/

theorem logReject_capt (fn space offset status : Nat) (wr : Bool) (s : State) :
    (logReject fn space offset status wr s).host.capt = s.host.capt :=
  logReject_onlyParts fn space offset status wr s .capt (by decide)

theorem blk_of_listed {b : Blk} {i o : Nat} {r : RegId} (h : listed b i o = some r) : r.blk = b := by
  simp only [listed] at h
  split_ifs at h
  cases h
  rfl

theorem blk_of_decodeWin {fn base count a : Nat} {r : RegId} (h : decodeWin fn base count a = some r) :
    r.blk = .win ∨ r.blk = .nq ∨ r.blk = .qp ∨ r.blk = .msix := by
  simp only [decodeWin] at h
  split_ifs at h
  · cases h; exact .inl rfl
  · exact .inr (.inl (blk_of_listed h))
  · exact .inr (.inr (.inl (blk_of_listed h)))
  · exact .inr (.inr (.inr (blk_of_listed h)))

theorem captures_of_window {r : RegId} (h : r.blk = .win ∨ r.blk = .nq ∨ r.blk = .qp ∨ r.blk = .msix) : captures r = [] := by
  rcases h with h | h | h | h <;> simp [captures, h]

theorem readEffects_capt {fn : Nat} {d : RegDesc} {r : RegId} (h : captures r = []) (s : State) :
    (readEffects fn d r s).host.capt = s.host.capt := by
  simp only [readEffects, h, List.foldl_nil]
  split_ifs <;> rfl

theorem readReg_capt {fn space ofs : Nat} {r : RegId} (h : r.blk = .win ∨ r.blk = .nq ∨ r.blk = .qp ∨ r.blk = .msix) (s : State) :
    (readReg fn space ofs r s).2.host.capt = s.host.capt := by
  have hanc : r.blk ≠ .anc := by rcases h with h | h | h | h <;> simp [h]
  unfold readReg
  split
  · exact logReject_capt ..
  · exact logReject_capt ..
  · split_ifs with h1
    · simp [hanc] at h1
    · rfl
    · rfl
    · exact readEffects_capt (captures_of_window h) s

theorem readAt_capt {fn : Nat} (hfn : fn ≠ 0) (ofs : Nat) (s : State) : (readAt fn ofs s).2.host.capt = s.host.capt := by
  unfold readAt
  split
  · exact logReject_capt ..
  · next r hr =>
    rw [State.regAt, if_neg hfn] at hr
    exact readReg_capt (blk_of_decodeWin hr) s

theorem readDone_capt {fn : Nat} (hfn : fn ≠ 0) (ofs : Nat) (s : State) : (readDone fn ofs s).host.capt = s.host.capt := by
  simp only [readDone]
  split_ifs
  · exact readAt_capt hfn ofs s
  · rfl

/-- Settles O7: each group is captured as it stands at the read; a VF's window names none of their registers. -/
theorem capturingReads : Obligations.CapturingReads := by
  unfold Obligations.CapturingReads
  refine ⟨fun s hs => ?tbNs, fun s hs => ?ptm, fun s hs htest => ?logE0, fun e l s hs hlog => ?rejE0, fun s hs hlog => ?rejE0Empty,
    fun n s hs hn htest => ?resStat, fun n s hs hn htest => ?tagPc, fun fn n s hs _ _ => ?vf, fun fn ofs s hfn _ => ?window⟩
  case tbNs =>
    obtain ⟨hout, hcapt, -, -, -, hparts⟩ := readDone_captures_frame (s := s) (addr := addrOf rCox_TB_NS) (r := rCox_TB_NS) rfl rfl
      (State.unavailable_none rfl (by decide)) (by decide) (by decide) (by decide) (by decide) (fun _ => rfl)
    refine ⟨_, ?_, hout, hcapt _ (by decide), hcapt _ (by decide), hcapt _ (by decide), hparts (by decide)⟩
    show execTbNsRead 0 s = _
    rw [execTbNsRead, hostAccess_awake _ s hs]
  case ptm =>
    obtain ⟨hout, hcapt, hfresh, hregs, hparts, -⟩ := readDone_captures_frame (s := s) (addr := addrOf rCox_PTM_STAT)
      (r := rCox_PTM_STAT) rfl rfl
      (State.unavailable_none rfl (by decide)) (by decide) (by decide) (by decide) (by decide) (fun _ => rfl)
    refine ⟨_, ?_, hout, fun r hr => ?_, hfresh (by decide), hregs, hparts⟩
    · show execPtmStatRead 0 s = _
      rw [execPtmStatRead, hostAccess_awake _ s hs]
    · have hbank : ∀ r ∈ captures rCox_PTM_STAT, live r s = s.reg r := by
        simp [captures, live]
      exact (hcapt r hr).trans (hbank r hr)
  case logE0 =>
    obtain ⟨hout, hcapt, -, -, -, hparts⟩ := readDone_captures_frame (s := s) (addr := addrOf rBmw_LOG_E0) (r := rBmw_LOG_E0) rfl rfl
      (State.unavailable_none htest (by decide)) (by decide) (by decide) (by decide) (by decide) (fun _ => rfl)
    refine ⟨_, ?_, hout, fun r hr => ?_, hparts (by decide)⟩
    · show execLogE0Read 0 s = _
      rw [execLogE0Read, hostAccess_awake _ s hs]
    · have hlog : ∀ r ∈ captures rBmw_LOG_E0, live r s = liveLog r s := by
        simp [captures, live]
      exact (hcapt r hr).trans (hlog r hr)
  case rejE0 =>
    obtain ⟨t, he, hout, hcapt, hparts⟩ := exec_rejE0Read hs
    refine ⟨t, he, hout.trans ?_, hcapt.trans ?_, hparts⟩ <;> simp [live, liveSys, hlog]
  case rejE0Empty =>
    obtain ⟨t, he, hout, hcapt, hparts⟩ := exec_rejE0Read hs
    refine ⟨t, he, hout.trans ?_, hcapt.trans ?_, hparts⟩ <;> simp [live, liveSys, hlog]
  case resStat =>
    obtain ⟨hout, hcapt, hfresh, hregs, hparts, -⟩ := readDone_captures_frame (s := s) (decodeBar0_resStat hn) rfl
      (State.unavailable_none htest (by simp)) (by simp) rfl rfl rfl (fun _ => rfl)
    refine ⟨_, ?_, hout, hcapt _ (by simp [captures]), hfresh rfl, hregs, hparts⟩
    show execResStatRead 0 n s = _
    rw [execResStatRead, hostAccess_awake _ s hs]
  case tagPc =>
    obtain ⟨d, hd, hwo, hres⟩ : ∃ d, findReg (rSh_TAG_PC n) = some d ∧ (∀ w, maskWo d w = w) ∧ isResult d = true :=
      ⟨_, findReg_inst (by decide) n 0 _, fun _ => rfl, rfl⟩
    obtain ⟨hout, hcapt, hfresh, hregs, hparts, -⟩ := readDone_captures_frame (s := s) (decodeBar0_tagPc hn) hd
      (State.unavailable_none htest (by simp)) (by simp) rfl (by simp [isLo, loRegs]) (by simp [isHi, isLo, loOf, loRegs]) hwo
    refine ⟨_, ?_, hout, hcapt _ (by simp [captures]), hfresh hres, hregs, hparts⟩
    show execTagPcRead 0 n s = _
    rw [execTagPcRead, hostAccess_awake _ s hs]
  case vf =>
    have h : ∀ f : State → State, hostAccess f s = f s := fun f => hostAccess_awake f s hs
    exact ⟨congrArg _ (h _), congrArg _ (h _), congrArg _ (h _), congrArg _ (h _), congrArg _ (h _), congrArg _ (h _)⟩
  case window => exact readDone_capt (by omega) ofs s

/-! ## Logs (R292, R366) -/

/-- Settles O9: a write of the bit drops the oldest entry and counts those left. -/
theorem logsArePopped : Obligations.LogsArePopped := by
  unfold Obligations.LogsArePopped
  have hrej : ∀ (v : W32) (s : State), s.awake = true → exec (.rejPop v) s = .next (writeRejPop v s) := fun v s hs =>
    congrArg _ (hostAccess_awake (writeRejPop v) s hs)
  have hlog : ∀ (v : W32) (s : State), s.awake = true → exec (.logPop v) s = .next (writeLogPop v s) := fun v s hs =>
    congrArg _ (hostAccess_awake (writeLogPop v) s hs)
  refine ⟨fun v s hs hv hlen => ?_, fun v s hs hv => ?_, fun v s hs hv htest hlen => ?_⟩
  · refine ⟨_, hrej v s hs, ?_⟩
    rw [writeRejPop, if_pos hv]
    refine ⟨rfl, ?_, setFld_onlyReg _ _ _ _ _, ?_⟩
    · rw [State.fld_setFld_self _ _ _ _ _ (by decide) (by decide)]
      exact Nat.mod_eq_of_lt (by omega)
    · intro p hp
      cases p <;> simp_all [Part.same]
  · have hclear : ¬ v.getLsbD 0 = true := by rw [hv]; decide
    refine ⟨(hrej v s hs).trans ?_, fun htest => (hlog v s hs).trans ?_⟩
    · rw [writeRejPop, if_neg hclear]
    · have hu : s.unavailable rBmw_LOG_POP = none := State.unavailable_none htest (by decide)
      simp only [writeLogPop, hu, if_neg hclear]
  · have hu : s.unavailable rBmw_LOG_POP = none := State.unavailable_none htest (by decide)
    refine ⟨_, hlog v s hs, ?_⟩
    rw [writeLogPop, hu]
    simp only [hv, if_true]
    refine ⟨rfl, ?_, setFld_onlyReg _ _ _ _ _, ?_⟩
    · rw [State.fld_setFld_self _ _ _ _ _ (by decide) (by decide)]
      exact Nat.mod_eq_of_lt (by omega)
    · intro p hp
      cases p <;> simp_all [Part.same, State.modBeam]

end Sys2Proof.Machine
end

section
/-! SUPPORT. A command that takes effect and completes at once; bays (R271, R272). -/

-- The checked text is one long file: elaborating these in order bounds its threads and memory.
set_option Elab.async false

namespace Sys2Proof.Machine

/-! ## A command that completes in the step in which it begins -/

theorem modBeam_onlyParts (s : State) (f : BeamSt → BeamSt) : onlyParts [.beam] s (s.modBeam f) := by
  intro p hp
  cases p <;> simp_all [Part.same, State.modBeam]

/-- A command that begins, changes parts that hold no register, and completes. -/
theorem completes_after_parts {h : Hdr} {s a : State} {l : List Part} (st : Nat) (res : List Byte) (hq : h.qp < 256)
    (hb : s.bme (s.ownerOf h.qp) = true) (ha : onlyParts l (s.begun h.qp) a)
    (hl : Part.regs ∉ l ∧ Part.bme ∉ l := by decide) :
    completed (answer h st res) s (complete h st res a) ∧ onlyRegs complReg s (complete h st res a) ∧
      onlyParts (l ++ [.qps, .regs, .out]) s (complete h st res a) ∧ onlyParts [.qps, .regs, .out] a (complete h st res a) := by
  have hr : onlyRegs (fun _ => False) s a := fun r hn => (ha.regsKept hl.1 r hn).trans (State.reg_begun s _ r)
  obtain ⟨hc, hp⟩ := complete_after st res hq hb hr (fun _ => False.elim) (ha .bme hl.2)
  refine ⟨hc, hr.of_none.trans (complete_onlyRegs h st res _), ?_, hp⟩
  exact ((begun_onlyParts s h.qp).mono (by simp)).trans ((ha.mono (by simp)).trans (hp.mono (by simp)))

theorem testing_of_any {s : State} {l : List Nat} (h : l.any s.testing = false) : ∀ b ∈ l, s.testing b = false := by simpa using h

/-! ## Bays -/

theorem exec_bayAlloc {h : Hdr} {owner size base i b : Nat} {any : Bool} {s : State}
    (ht : s.takesPf (.bayAlloc h owner any size base) = true) (htest : bmTargets.any s.testing = false) (htr : s.trained = true)
    (hany : any = true → base = 0) (hs0 : size ≠ 0) (hs : size % 2 ^ 24 = 0) (hb : base % 2 ^ 24 = 0) (hfit : base + size ≤ 2 ^ 41)
    (how : owner ≤ s.host.vfs) (hfree : any = false → s.baysFree base size = true) (hi : s.freeBay = some i)
    (hbase : bayBase any size base s = some b) :
    exec (.bayAlloc h owner any size base) s = .next (complete h eOk (leBytes 2 i ++ leBytes 6 b)
      ((s.begun h.qp).modBeam fun m => { m with bays := Tab.set m.bays i ⟨owner, b, size⟩ })) := by
  obtain ⟨hd, hr, hbeg, -, -, ho⟩ := State.takesPf_elim rfl ht
  have hi' : (s.begun h.qp).freeBay = some i := hi
  have hbase' : bayBase any size base (s.begun h.qp) = some b := hbase
  have hchecks : firstFail [(any && base != 0, eRange), (!s.trained, eState),
      (size == 0 || size % 2 ^ 24 != 0 || base % 2 ^ 24 != 0 || decide (beamSize < base + size), eRange),
      (!s.fnEnabled owner, eState), (!any && !s.baysFree base size, eState),
      (s.freeBay.isNone || (bayBase any size base s).isNone, eNoRes)] = none := by
    cases any <;> simp_all [firstFail, State.fnEnabled, beamSize]
  show execBayAlloc h owner any size base s = _
  rw [execBayAlloc, command_begins _ _ _ _ _ hd hbeg ((firstFail_gate (fun _ => ho) hr (testing_of_any htest) _).trans hchecks)]
  simp only [hi', hbase']

theorem exec_bayFree {h : Hdr} {bay : Nat} {s : State} (ht : s.takesPf (.bayFree h bay) = true)
    (htest : bmTargets.any s.testing = false) (hbay : (s.bay bay).isSome = true) (hbound : s.bayBound bay = false)
    (hread : s.bayRead bay = false) :
    exec (.bayFree h bay) s = .next (complete h eOk [] ((s.begun h.qp).modBeam fun m => { m with bays := Tab.erase m.bays bay })) := by
  obtain ⟨hd, hr, hbeg, -, -, ho⟩ := State.takesPf_elim rfl ht
  have hsome : (s.bay bay).isNone = false := by simpa [← Option.not_isSome] using hbay
  have hchecks : firstFail [((s.bay bay).isNone || s.bayBound bay || s.bayRead bay, eState)] = none := by
    simp [firstFail, hsome, hbound, hread]
  show execBayFree h bay s = _
  rw [execBayFree, command_begins _ _ _ _ _ hd hbeg ((firstFail_gate (fun _ => ho) hr (testing_of_any htest) _).trans hchecks)]

/-- Settles O10: the checks of R271 and R272 pass, and the command completes on the state with the bay entered or removed. -/
theorem baysAreAllocatedAndFreed : Obligations.BaysAreAllocatedAndFreed := by
  unfold Obligations.BaysAreAllocatedAndFreed
  refine ⟨fun h owner any size base i b s ht htest htr hany hs0 hs hb hfit how hno hyes hi => ?_, fun h bay s ht htest hbay hbound hread => ?_⟩
  · obtain ⟨-, -, -, hq, hbme, -⟩ := State.takesPf_elim rfl ht
    have hbase : bayBase any size base s = some b := by
      cases any
      · simp [bayBase, (hno rfl).2]
      · exact hyes rfl
    refine ⟨_, exec_bayAlloc ht htest htr hany hs0 hs hb hfit how (fun ha => (hno ha).1) hi hbase, ?_⟩
    obtain ⟨hc, hregs, hparts, hlast⟩ := completes_after_parts eOk (leBytes 2 i ++ leBytes 6 b) hq hbme
      (modBeam_onlyParts (s.begun h.qp) fun m => { m with bays := Tab.set m.bays i ⟨owner, b, size⟩ })
    exact ⟨hc, hlast .beam (by decide), hregs, hparts⟩
  · obtain ⟨-, -, -, hq, hbme, -⟩ := State.takesPf_elim rfl ht
    have hb : s.bayBound bay = false := by simpa [State.bayBound] using fun a x he hx => hbound (a, x) he hx
    have hr : s.bayRead bay = false := by simpa [State.bayRead] using fun a x he hx hv => hread (a, x) he hx hv
    refine ⟨_, exec_bayFree ht htest hbay hb hr, ?_⟩
    obtain ⟨hc, hregs, hparts, hlast⟩ := completes_after_parts eOk [] hq hbme
      (modBeam_onlyParts (s.begun h.qp) fun m => { m with bays := Tab.erase m.bays bay })
    exact ⟨hc, hlast .beam (by decide), hregs, hparts⟩

end Sys2Proof.Machine
end

section
/-! SUPPORT. Events, programmable counters and the contents of beam memory: what each operation leaves, and what a read
returns after a write. -/

-- The checked text is one long file: elaborating these in order bounds its threads and memory.
set_option Elab.async false

namespace Sys2Proof.Machine

/-! ## Events and notices -/

theorem eventNotice_onlyParts (e : FldId) (s : State) : onlyParts [.rings, .regs, .out] s (eventNotice e s) := by
  intro p hp
  cases p <;> simp_all [Part.same]

theorem eventNotice_onlyRegs (e : FldId) (s : State) : onlyRegs noteReg s (eventNotice e s) := by
  intro r hr
  obtain ⟨hnq, hmsix⟩ := not_or.1 hr
  exact eventNotice_reg e s r.blk r.inst r.off hmsix hnq

theorem raise_onlyRegs (e : FldId) (s : State) : onlyRegs (fun r => r = e.reg ∨ noteReg r) s (raise_ e s) :=
  ((setFld_onlyRegs s e 1).mono fun _ => .inl).andThen (eventNotice_onlyRegs e _) fun _ => .inr

theorem noteRaised_onlyParts (e : FldId) (s : State) : onlyParts [.lastNote] s (s.noteRaised e) := by
  intro p hp
  cases p <;> simp_all [Part.same, State.noteRaised]

theorem noteRaised_onlyRegs (e : FldId) (s : State) : onlyRegs (fun _ => False) s (s.noteRaised e) :=
  (noteRaised_onlyParts e s).regsKept

theorem raiseSlow_onlyParts (e : FldId) (s : State) : onlyParts [.lastNote, .rings, .regs, .out] s (raiseSlow e s) := by
  have h := (setFld_onlyParts s e 1).mono (l' := [.lastNote, .rings, .regs, .out]) (by decide)
  simp only [raiseSlow]
  split_ifs
  · exact h
  · exact (h.andThen (noteRaised_onlyParts e _)).andThen (eventNotice_onlyParts e _)
  · exact h

theorem raiseSlow_onlyRegs (e : FldId) (s : State) : onlyRegs (fun r => r = e.reg ∨ noteReg r) s (raiseSlow e s) := by
  have h : onlyRegs (fun r => r = e.reg ∨ noteReg r) s (s.setFld e 1) := (setFld_onlyRegs s e 1).mono fun _ => .inl
  simp only [raiseSlow]
  split_ifs
  · exact h
  · exact (h.trans (noteRaised_onlyRegs e _).of_none).andThen (eventNotice_onlyRegs e _) fun _ => .inr
  · exact h

/-! ## Programmable counters (R516, R522) -/

theorem onlyRegs.foldl {α : Type} {P : RegId → Prop} {f : State → α → State} {l : List α}
    (h : ∀ a, ∀ x ∈ l, onlyRegs P a (f a x)) (s : State) : onlyRegs P s (l.foldl f s) := by
  induction l generalizing s with
  | nil => exact .refl P s
  | cons x l ih => exact (h s x (by simp)).trans (ih (fun a y hy => h a y (by simp [hy])) _)

/-- The registers of counter `j` of a block, of the instance whose counters start at offset `base`. -/
theorem bump_onlyRegs (b : Blk) (i o n : Nat) (s : State) :
    onlyRegs (fun r => r.blk = b ∧ r.inst = i ∧ o ≤ r.off ∧ r.off < o + 16) s (bump b i o n s) := by
  have hw : ∀ (u : State) (d hi lo v : Nat), d < 16 →
      onlyRegs (fun r => r.blk = b ∧ r.inst = i ∧ o ≤ r.off ∧ r.off < o + 16) u (u.setFld ⟨⟨b, i, o + d⟩, hi, lo⟩ v) :=
    fun u d hi lo v hd => (setFld_onlyReg u _ hi lo v).mono fun r hr => by subst hr; simp [hd]
  simp only [bump]
  split_ifs
  · exact ((hw _ 8 _ _ _ (by decide)).trans (hw _ 12 _ _ _ (by decide))).trans (hw _ 0 _ _ _ (by decide))
  · exact (hw _ 8 _ _ _ (by decide)).trans (hw _ 12 _ _ _ (by decide))

theorem bump_onlyParts (b : Blk) (i o n : Nat) (s : State) : onlyParts [.regs] s (bump b i o n s) := by
  simp only [bump]
  split_ifs
  · exact ((setFld_onlyParts _ _ _).trans (setFld_onlyParts _ _ _)).trans (setFld_onlyParts _ _ _)
  · exact (setFld_onlyParts _ _ _).trans (setFld_onlyParts _ _ _)

theorem count_onlyParts (b : Blk) (i src : Nat) (e : EvInfo) (n : Nat) (s : State) : onlyParts [.regs] s (count b i src e n s) := by
  refine onlyParts.foldl (fun a j => ?_) _ s
  dsimp only
  split_ifs
  · exact bump_onlyParts b i _ n a
  · exact .refl _ a

theorem count_onlyRegs (b : Blk) (i src : Nat) (e : EvInfo) (n : Nat) (s : State) :
    onlyRegs (fun r => r.blk = b ∧ r.inst = i ∧ cntReg r) s (count b i src e n s) := by
  refine onlyRegs.foldl (fun a j hj => ?_) s
  have hj : j < (cntGeom b).1 := List.mem_range.1 hj
  dsimp only
  split_ifs
  · refine (bump_onlyRegs b i ((cntGeom b).2 + 0x10 * j) n a).mono fun r ⟨hb, hi, hlo, hhi⟩ => ⟨hb, hi, ?_⟩
    simp only [cntReg, hb]
    omega
  · exact .refl _ a

@[simp] theorem count_beam (b : Blk) (i src : Nat) (e : EvInfo) (n : Nat) (s : State) : (count b i src e n s).beam = s.beam :=
  count_onlyParts b i src e n s .beam (by decide)

/-! ## The bytes of beam memory -/

/-- A byte after a write of one byte, for any list of cells. -/
theorem memGet_memPut (m : List Host.Cell) (a a' : Nat) (b : Byte) : memGet (memPut m a b) a' = if a' = a then some b else memGet m a' := by
  induction m with
  | nil => by_cases h : a' = a <;> simp [memPut, memGet, h, Ne.symm]
  | cons c m ih =>
    obtain ⟨x, y⟩ := c
    simp only [memPut]
    split_ifs with h1 h2 h3 h3 h3 <;> simp only [memGet, ih] <;> split_ifs <;> first | rfl | omega

/-- A byte after a write of a list of bytes. -/
theorem memGet_memWrite (m : List Host.Cell) (a a' : Nat) (l : List Byte) :
    memGet (memWrite m a l) a' = if a ≤ a' ∧ a' < a + l.length then l[a' - a]? else memGet m a' := by
  induction l generalizing m a with
  | nil => simp [memWrite]
  | cons b l ih =>
    rw [memWrite, ih, memGet_memPut]
    rcases Nat.lt_trichotomy a' a with h | h | h
    · rw [if_neg (by omega), if_neg (by omega), if_neg (by omega)]
    · subst h; simp
    · obtain ⟨d, rfl⟩ : ∃ d, a' = a + 1 + d := ⟨a' - (a + 1), by omega⟩
      simp only [List.length_cons]
      rw [show a + 1 + d - (a + 1) = d by omega, show a + 1 + d - a = d + 1 by omega, List.getElem?_cons_succ]
      exact if_congr (by omega) rfl (if_neg (by omega))

/-- A byte of beam memory as the state holds it. -/
abbrev State.byteAt (s : State) (a : Nat) : Option Byte := memGet s.beam.mem a

/-- From `s` to `t` the bytes `b` were stored at `a`, and no other byte of beam memory changed. -/
def stored (a : Nat) (b : List Byte) (s t : State) : Prop :=
  ∀ x, t.byteAt x = if a ≤ x ∧ x < a + b.length then b[x - a]? else s.byteAt x

theorem stored.getD {a : Nat} {b : List Byte} {s t : State} (h : stored a b s t) {j : Nat} (hj : j < b.length) :
    t.byteAt (a + j) = some (b.getD j 0) := by
  rw [h, if_pos (by omega), Nat.add_sub_cancel_left, List.getElem?_eq_getElem hj, List.getD_eq_getElem _ _ hj]

theorem stored.other {a x : Nat} {b : List Byte} {s t : State} (h : stored a b s t) (hx : x < a ∨ a + b.length ≤ x) :
    t.byteAt x = s.byteAt x := by
  rw [h, if_neg (by omega)]

theorem stored_storeWord (w : Nat) (b : List Byte) (p : Bool) (s : State) : stored w b s (storeWord w b p s) :=
  fun _ => memGet_memWrite _ _ _ _

theorem storeWord_onlyParts (w : Nat) (b : List Byte) (p : Bool) (s : State) : onlyParts [.beam] s (storeWord w b p s) :=
  modBeam_onlyParts s _

/-- The words of `b` stored in order from address `a` (R281). -/
def storeWords (a : Nat) (b : List Byte) (n : Nat) (s : State) : State :=
  (List.range n).foldl (fun t k => storeWord (a + 8 * k) ((List.range 8).map fun j => b.getD (8 * k + j) 0) false t) s

theorem storeWords_succ (a : Nat) (b : List Byte) (n : Nat) (s : State) :
    storeWords a b (n + 1) s = storeWord (a + 8 * n) ((List.range 8).map fun j => b.getD (8 * n + j) 0) false (storeWords a b n s) := by
  simp [storeWords, List.range_succ]

theorem storeWords_onlyParts (a : Nat) (b : List Byte) (n : Nat) (s : State) : onlyParts [.beam] s (storeWords a b n s) :=
  onlyParts.foldl (fun t _ => storeWord_onlyParts _ _ _ t) _ s

theorem byteAt_storeWords (a : Nat) (b : List Byte) (n : Nat) (s : State) (x : Nat) :
    (storeWords a b n s).byteAt x = if a ≤ x ∧ x < a + 8 * n then some (b.getD (x - a) 0) else s.byteAt x := by
  induction n with
  | zero => rw [if_neg (by omega)]; rfl
  | succ n ih =>
    rw [storeWords_succ]
    by_cases h : a + 8 * n ≤ x ∧ x < a + 8 * n + 8
    · obtain ⟨j, rfl⟩ := Nat.exists_eq_add_of_le h.1
      rw [(stored_storeWord _ _ _ _).getD (by simp; omega), if_pos (by omega), List.getD_eq_getElem _ _ (by simp; omega)]
      simp [Nat.add_assoc]
    · rw [(stored_storeWord _ _ _ _).other (by simp; omega), ih]
      exact if_congr (by omega) rfl rfl

theorem stored_storeWords {a n : Nat} {b : List Byte} (hb : b.length = 8 * n) (s : State) : stored a b s (storeWords a b n s) := by
  intro x
  rw [byteAt_storeWords, hb]
  split_ifs with h
  · rw [List.getElem?_eq_getElem (by omega), List.getD_eq_getElem _ _ (by omega)]
  · rfl

theorem storeWords_beam (a : Nat) (b : List Byte) (n : Nat) (s : State) :
    (storeWords a b n s).beam = { s.beam with mem := (storeWords a b n s).beam.mem, ecc := (storeWords a b n s).beam.ecc } := by
  induction n with
  | zero => rfl
  | succ n ih =>
    rw [storeWords_succ]
    simp only [storeWord, State.modBeam]
    rw [ih]

end Sys2Proof.Machine
end

section
/-! SUPPORT. Writes and reads of beam memory within one 64-byte line (R281 to R283, R289, R293). -/

-- The checked text is one long file: elaborating these in order bounds its threads and memory.
set_option Elab.async false

namespace Sys2Proof.Machine

/-! ## The end of a port's reset (R289, DESIGN CHOICE, log entry 112) -/

theorem endBeamReset_beam (k : Nat) (s : State) :
    (endBeamReset k s).beam = { s.beam with resets := s.beam.resets.filter (· ≠ k) } := by
  by_cases h : s.beam.resets.contains k = true
  · simp only [endBeamReset, h]
    by_cases h2 : 2 ≤ s.fld fPwr_STATE_STATE ∨ s.testing (8 + k) = true <;> simp [h2, State.modBeam]
  · have hk : k ∉ s.beam.resets := by simpa using h
    have hf : s.beam.resets.filter (· ≠ k) = s.beam.resets :=
      List.filter_eq_self.2 fun x hx => by simpa using fun e : x = k => hk (e ▸ hx)
    rw [hf, endBeamReset, if_pos (by simpa using h)]

theorem endBeamReset_onlyParts (k : Nat) (s : State) : onlyParts [.beam, .regs] s (endBeamReset k s) := by
  have h : onlyParts [.beam, .regs] s
      ((s.setFld (fBm_CTL_SRST k) 0).modBeam fun m => { m with resets := m.resets.filter (· ≠ k) }) :=
    ((setFld_onlyParts s _ 0).mono (by decide)).andThen (modBeam_onlyParts _ _)
  simp only [endBeamReset]
  split_ifs
  · exact .refl _ s
  · exact h
  · exact h.andThen (setFld_onlyParts _ _ _)

theorem endBeamReset_onlyRegs (k : Nat) (s : State) : onlyRegs (fun r => r = rBm_CTL k ∨ r = rBm_STAT k) s (endBeamReset k s) := by
  have h : onlyRegs (fun r => r = rBm_CTL k ∨ r = rBm_STAT k) s
      ((s.setFld (fBm_CTL_SRST k) 0).modBeam fun m => { m with resets := m.resets.filter (· ≠ k) }) :=
    ((setFld_onlyReg s _ _ _ 0).mono fun _ => .inl).trans (modBeam_onlyParts _ _).regsKept.of_none
  simp only [endBeamReset]
  split_ifs
  · exact .refl _ s
  · exact h
  · exact h.andThen (setFld_onlyReg _ _ _ _ _) fun _ => .inr

/-! ## Whole words -/

theorem range_filter_aligned {n : Nat} (hn : n ≤ 8) : (List.range (8 * n)).filter (fun i => i % 8 == 0) = (List.range n).map (8 * ·) := by
  interval_cases n <;> decide

theorem range_filter_word {n k : Nat} (hn : n ≤ 8) (hk : k < n) :
    (List.range (8 * n)).filter (fun i => i / 8 == k) = (List.range 8).map (8 * k + ·) := by
  interval_cases n <;> interval_cases k <;> decide

theorem find_foldl_set {α : Type} (o n : Nat) (f : Nat → α) (t : Tab Nat α) (j : Nat) :
    Tab.find (((List.range n).map fun i => (o + i, f i)).foldl (fun t p => Tab.set t p.1 p.2) t) j =
      if o ≤ j ∧ j < o + n then some (f (j - o)) else Tab.find t j := by
  induction n with
  | zero => rw [if_neg (by omega)]; rfl
  | succ n ih =>
    rw [List.range_succ, List.map_append, List.foldl_append, List.map_singleton, List.foldl_cons, List.foldl_nil, Tab.find_set, ih]
    by_cases h : o + n = j
    · subst h; simp
    · rw [if_neg h]; exact if_congr (by omega) rfl rfl

theorem mergeBytes_nil (line : Nat) (s : State) : mergeBytes line [] s = s := rfl

/-- A word of an entry that holds all eight of its bytes goes to the DRAM as it is (R283). -/
theorem mergeWord_full {e : MergeEnt} {i : Nat} {b : List Byte} (s : State)
    (h : ∀ j, j < 8 → Tab.find e.bytes (8 * i + j) = some (b.getD (8 * i + j) 0)) :
    mergeWord e i s = storeWord (e.line * 64 + 8 * i) ((List.range 8).map fun j => b.getD (8 * i + j) 0) false s := by
  have hg : (List.range 8).map (fun j => Tab.find e.bytes (8 * i + j)) = (List.range 8).map fun j => some (b.getD (8 * i + j) 0) :=
    List.map_congr_left fun j hj => h j (List.mem_range.1 hj)
  simp only [mergeWord, hg]
  rw [if_neg (by simp [List.range_succ]), if_pos (by simp), List.map_map]
  rfl

/-- An entry that holds its whole line goes to the DRAM as its words. -/
theorem flushEntry_full {e : MergeEnt} {b : List Byte} (s : State) (h : ∀ j, j < 64 → Tab.find e.bytes j = some (b.getD j 0)) :
    flushEntry e s = storeWords (e.line * 64) b 8
      (count .bm (beamPort (e.line * 64)) 2 { filt := false } 1 (s.modBeam fun m => { m with merge := m.merge.filter (·.line ≠ e.line) })) := by
  simp only [flushEntry, storeWords]
  refine List.foldl_ext _ _ _ fun a i hi => mergeWord_full a fun j hj => h _ ?_
  have := List.mem_range.1 hi
  omega

/-! ## A piece of a write -/

theorem pieces_within {a n : Nat} (hn : 0 < n) (h : a % 64 + n ≤ 64) : pieces a n = [(a, n)] := by
  have h1 : (a + n - 1) / 64 - a / 64 + 1 = 1 := by omega
  rw [pieces, if_neg (by omega), h1]
  simp only [List.range_one, List.map_cons, List.map_nil, Nat.add_zero]
  rw [Nat.max_eq_left (by omega), Nat.min_eq_left (by omega), Nat.add_sub_cancel_left]

theorem beamWrite_within (who : Who) {a : Nat} {b : List Byte} (hb : 0 < b.length) (h : a % 64 + b.length ≤ 64) (s : State) :
    beamWrite who a b s = writePiece who a b s := by
  simp [beamWrite, pieces_within hb h]

/-- The cells of whole words, as a piece sees them. -/
abbrev cellsOf (a : Nat) (b : List Byte) : List (Nat × Byte) := (List.range b.length).map fun i => (a % 64 + i, b.getD i 0)

theorem foldl_storeWord_cells {a n : Nat} {b : List Byte} (ha : a % 8 = 0) (hb : b.length = 8 * n) (hn : n ≤ 8) (s : State) :
    ((cellsOf a b).filter (fun p => p.1 % 8 == 0)).foldl (fun t p =>
      storeWord (a / 64 * 64 + p.1) (((cellsOf a b).filter (fun q => q.1 / 8 == p.1 / 8)).map (·.2)) false t) s = storeWords a b n s := by
  have haligned : (cellsOf a b).filter (fun p => p.1 % 8 == 0) = (List.range n).map fun k => (a % 64 + 8 * k, b.getD (8 * k) 0) := by
    have hp : (fun i => (a % 64 + i) % 8 == 0) = fun i => i % 8 == 0 := by
      funext i; rw [show (a % 64 + i) % 8 = i % 8 by omega]
    simp only [cellsOf, List.filter_map, Function.comp_def, hp, hb, range_filter_aligned hn, List.map_map]
  rw [haligned, List.foldl_map, storeWords]
  refine List.foldl_ext _ _ _ fun t k hk => ?_
  have hword : (cellsOf a b).filter (fun q => q.1 / 8 == (a % 64 + 8 * k) / 8) =
      (List.range 8).map fun j => (a % 64 + (8 * k + j), b.getD (8 * k + j) 0) := by
    have hp : (fun i => (a % 64 + i) / 8 == (a % 64 + 8 * k) / 8) = fun i => i / 8 == k := by
      funext i
      rw [Bool.eq_iff_iff, beq_iff_eq, beq_iff_eq]
      omega
    simp only [cellsOf, List.filter_map, Function.comp_def, hp, hb, range_filter_word hn (List.mem_range.1 hk), List.map_map]
  rw [hword, List.map_map, show a / 64 * 64 + (a % 64 + 8 * k) = a + 8 * k by omega]
  rfl

/-- What a piece of a write makes known to the counters (R522). -/
abbrev pieceInfo (who : Who) (a : Nat) : EvInfo := ⟨who.priv, who.mkind, who.master, 0, Nat.lor 2 who.cls, a / 64 * 64, true⟩

/-- A piece of whole words: the cells all count as whole, and no part of a word is left for the merge buffer (R281). -/
theorem writePiece_whole {who : Who} {a n : Nat} {b : List Byte} (ha : a % 8 = 0) (hb : b.length = 8 * n) (hn : 0 < n) (s : State) :
    writePiece who a b s = count .bm (beamPort a) 1 (pieceInfo who a) b.length
      (if (endBeamReset (beamPort a) s).beam.merge.any (·.line == a / 64)
        then flushLine (a / 64) (mergeBytes (a / 64) (cellsOf a b) (endBeamReset (beamPort a) s))
        else ((cellsOf a b).filter (fun p => p.1 % 8 == 0)).foldl (fun t p =>
          storeWord (a / 64 * 64 + p.1) (((cellsOf a b).filter (fun q => q.1 / 8 == p.1 / 8)).map (·.2)) false t)
          (endBeamReset (beamPort a) s)) := by
  have hwhole : ∀ p ∈ cellsOf a b, a % 64 ≤ p.1 / 8 * 8 ∧ p.1 / 8 * 8 + 8 ≤ a % 64 + b.length := by
    intro p hp
    obtain ⟨i, hi, rfl⟩ := List.mem_map.1 hp
    have := List.mem_range.1 hi
    dsimp only
    omega
  have hfull : (cellsOf a b).filter (fun p => decide (a % 64 ≤ p.1 / 8 * 8 ∧ p.1 / 8 * 8 + 8 ≤ a % 64 + b.length)) = cellsOf a b :=
    List.filter_eq_self.2 fun p hp => decide_eq_true (hwhole p hp)
  have hrest : (cellsOf a b).filter (fun p => !decide (a % 64 ≤ p.1 / 8 * 8 ∧ p.1 / 8 * 8 + 8 ≤ a % 64 + b.length)) = [] :=
    List.filter_eq_nil_iff.2 fun p hp => by simp [hwhole p hp]
  have hne : (cellsOf a b).isEmpty = false := by
    simp [List.isEmpty_eq_false_iff, ← List.length_pos_iff]; omega
  simp only [writePiece]
  rw [hfull, hrest, mergeBytes_nil, if_neg (by simp [hne])]

/-- Whole words of a line without entry in the merge buffer go to the DRAM. -/
theorem writePiece_words {who : Who} {a n : Nat} {b : List Byte} {s : State} (ha : a % 8 = 0) (hb : b.length = 8 * n) (hn : 0 < n)
    (hn8 : n ≤ 8) (hno : ∀ e ∈ s.beam.merge, e.line ≠ a / 64) :
    writePiece who a b s = count .bm (beamPort a) 1 (pieceInfo who a) b.length (storeWords a b n (endBeamReset (beamPort a) s)) := by
  have hany : (endBeamReset (beamPort a) s).beam.merge.any (·.line == a / 64) = false := by
    simpa [endBeamReset_beam] using hno
  rw [writePiece_whole ha hb hn, hany, if_neg (by simp), foldl_storeWord_cells ha hb hn8]

/-- A whole line that the merge buffer holds in part takes the written bytes and is flushed. -/
theorem flushLine_mergeBytes_line {line : Nat} {b : List Byte} {s : State} (hb : b.length = 64)
    (hany : s.beam.merge.any (·.line == line) = true) :
    flushLine line (mergeBytes line ((List.range b.length).map fun i => (i, b.getD i 0)) s) =
      storeWords (line * 64) b 8 (count .bm (beamPort (line * 64)) 2 { filt := false } 1
        (s.modBeam fun m => { m with merge := m.merge.filter (·.line ≠ line) })) := by
  obtain ⟨e, he⟩ := Option.isSome_iff_exists.1 (List.find?_isSome.2 (List.any_eq_true.1 hany))
  have hel : e.line = line := by simpa using List.find?_some he
  generalize hcells : (List.range b.length).map (fun i => (i, b.getD i 0)) = cells
  have hne : cells.isEmpty = false := by
    subst hcells; simp [List.isEmpty_eq_false_iff, ← List.length_pos_iff]; omega
  let upd (x : MergeEnt) : MergeEnt :=
    if x.line = line then { x with bytes := cells.foldl (fun t p => Tab.set t p.1 p.2) x.bytes } else x
  have hline : ∀ x, (upd x).line = x.line := fun x => by simp only [upd]; split_ifs <;> rfl
  have hm : mergeBytes line cells s = s.modBeam fun m => { m with merge := m.merge.map upd } := by
    simp only [mergeBytes, hne, he]; rfl
  have hfind : (s.beam.merge.map upd).find? (·.line == line) = some (upd e) := by
    rw [List.find?_map]
    simp only [Function.comp_def, hline, he, Option.map_some]
  have hbytes : ∀ j, j < 64 → Tab.find (upd e).bytes j = some (b.getD j 0) := by
    intro j hj
    have h := find_foldl_set 0 b.length (fun i => b.getD i 0) e.bytes j
    simp only [Nat.zero_add] at h
    simp only [upd, if_pos hel, ← hcells, h]
    rw [if_pos (by omega), Nat.sub_zero]
  have hrest : (s.beam.merge.map upd).filter (·.line ≠ line) = s.beam.merge.filter (·.line ≠ line) := by
    rw [List.filter_map]
    simp only [Function.comp_def, hline]
    refine (List.map_congr_left fun x hx => ?_).trans (List.map_id _)
    have : x.line ≠ line := by simpa using List.of_mem_filter hx
    simp [upd, this]
  rw [hm, flushLine]
  simp only [State.modBeam, hfind]
  rw [flushEntry_full _ hbytes]
  simp only [State.modBeam, hline, hel, hrest]

/-- A whole aligned line reaches the DRAM, whatever the merge buffer holds of it. -/
theorem writePiece_line {who : Who} {a : Nat} {b : List Byte} (ha : a % 64 = 0) (hb : b.length = 64) (s : State) :
    stored a b s (writePiece who a b s) ∧
    onlyRegs (fun r => cntReg r ∨ r = rBm_CTL (beamPort a) ∨ r = rBm_STAT (beamPort a)) s (writePiece who a b s) ∧
    onlyParts [.beam, .regs] s (writePiece who a b s) ∧ (writePiece who a b s).beam.bolts = s.beam.bolts := by
  have hstart : ∀ u : State, u.beam = { s.beam with resets := u.beam.resets, merge := u.beam.merge } →
      onlyRegs (fun r => cntReg r ∨ r = rBm_CTL (beamPort a) ∨ r = rBm_STAT (beamPort a)) s u → onlyParts [.beam, .regs] s u →
      ∀ t, t = count .bm (beamPort a) 1 (pieceInfo who a) b.length (storeWords a b 8 u) →
      stored a b s t ∧ onlyRegs (fun r => cntReg r ∨ r = rBm_CTL (beamPort a) ∨ r = rBm_STAT (beamPort a)) s t ∧
      onlyParts [.beam, .regs] s t ∧ t.beam.bolts = s.beam.bolts := by
    rintro u hu hr hp t rfl
    refine ⟨fun x => ?_, ?_, (hp.andThen (storeWords_onlyParts _ _ _ _)).andThen (count_onlyParts _ _ _ _ _ _), ?_⟩
    · have h := stored_storeWords (n := 8) hb (a := a) u x
      rw [show s.byteAt x = u.byteAt x by rw [State.byteAt, State.byteAt, hu], ← h, State.byteAt, count_beam]
    · exact (hr.trans (storeWords_onlyParts _ _ _ _).regsKept.of_none).andThen (count_onlyRegs _ _ _ _ _ _) fun _ h => .inl h.2.2
    · rw [count_beam, storeWords_beam, hu]
  have hreset := (endBeamReset_onlyRegs (beamPort a) s).mono
    (Q := fun r => cntReg r ∨ r = rBm_CTL (beamPort a) ∨ r = rBm_STAT (beamPort a)) fun _ => .inr
  by_cases hany : (endBeamReset (beamPort a) s).beam.merge.any (·.line == a / 64) = true
  · have hcells : cellsOf a b = (List.range b.length).map fun i => (i, b.getD i 0) := by simp [cellsOf, ha]
    refine hstart (count .bm (beamPort a) 2 { filt := false } 1
      ((endBeamReset (beamPort a) s).modBeam fun m => { m with merge := m.merge.filter (·.line ≠ a / 64) })) ?_ ?_ ?_ _ ?_
    · rw [count_beam]; simp only [State.modBeam, endBeamReset_beam]
    · exact (hreset.trans (modBeam_onlyParts _ _).regsKept.of_none).andThen (count_onlyRegs _ _ _ _ _ _) fun _ h => .inl h.2.2
    · exact ((endBeamReset_onlyParts _ s).andThen (modBeam_onlyParts _ _)).andThen (count_onlyParts _ _ _ _ _ _)
    · rw [writePiece_whole (n := 8) (by omega) hb (by decide), if_pos hany, hcells, flushLine_mergeBytes_line hb hany,
        show a / 64 * 64 = a by omega]
  · have hno : ∀ e ∈ s.beam.merge, e.line ≠ a / 64 := by simpa [endBeamReset_beam] using hany
    exact hstart (endBeamReset (beamPort a) s) (by rw [endBeamReset_beam]) hreset (endBeamReset_onlyParts _ s) _
      (writePiece_words (n := 8) (by omega) hb (by decide) (by decide) hno)

end Sys2Proof.Machine
end

section
/-! SUPPORT. Binds and unbinds of bolts (R274, R275); accesses through BAR 2 (R293). -/

-- The checked text is one long file: elaborating these in order bounds its threads and memory.
set_option Elab.async false

namespace Sys2Proof.Machine

/-! ## Bolts -/

theorem setBolt_onlyParts (s : State) (b : Nat) (v : Bolt) : onlyParts [.beam] s (s.setBolt b v) := modBeam_onlyParts s _

theorem State.bolt_setBolt (s : State) (b c : Nat) (v : Bolt) : (s.setBolt b v).bolt c = if b = c then v else s.bolt c :=
  Tab.get_set _ _ _ _ _

theorem State.bolt_congr {s t : State} (h : t.beam.bolts = s.beam.bolts) (b : Nat) : t.bolt b = s.bolt b := by simp [State.bolt, h]

theorem exec_boltSet_bind {h : Hdr} {bolt bay kind ofs size slots : Nat} {y : Bay} {s : State}
    (ht : s.takes (.boltSet h bolt bay kind true ofs size slots) = true) (htest : bmTargets.any s.testing = false) (htr : s.trained = true)
    (hparams : boltParams bolt bay kind true ofs size slots = false) (hy : s.bay bay = some y) (hin : ofs + size * slots ≤ y.size)
    (how : s.ownerOf h.qp = 0 ∨ y.owner = s.ownerOf h.qp) (hfree : (s.bolt bolt).bound = false) (hidle : (s.bolt bolt).binding = none)
    (hover : s.boltOverlap (y.base + ofs) (size * slots) = false) :
    exec (.boltSet h bolt bay kind true ofs size slots) s = .next ((s.begun h.qp).modBolt bolt fun b =>
      { b with binding := some ⟨h, bay, kind, y.base, ofs, size, slots⟩ }) := by
  obtain ⟨hd, hr, hbeg, -⟩ := (State.takes_iff s _).1 ht
  have hchecks : firstFail (boltChecks h bolt bay kind true ofs size slots s) = none := by
    rcases how with how | how <;>
      simp [boltChecks, firstFail, htr, hparams, State.boltBay, hy, hfree, hidle, hover, how, hin]
  have hy' : (s.begun h.qp).bay bay = some y := hy
  show execBoltSet h bolt bay kind true ofs size slots s = _
  rw [execBoltSet, command_begins _ _ _ _ _ hd hbeg ((firstFail_gate (by simp) hr (testing_of_any htest) _).trans hchecks)]
  simp [hy']

theorem exec_boltSet_unbind {h : Hdr} {bolt : Nat} {s : State}
    (ht : s.takes (.boltSet h bolt 0 0 false 0 0 0) = true) (htest : bmTargets.any s.testing = false) (htr : s.trained = true)
    (hb : bolt < 2048) (hbound : (s.bolt bolt).bound = true) (hw : (s.bolt bolt).writer = none) (hidle : (s.bolt bolt).binding = none)
    (how : s.ownerOf h.qp = 0 ∨ ∀ y, s.bay (s.bolt bolt).bay = some y → y.owner = s.ownerOf h.qp) :
    exec (.boltSet h bolt 0 0 false 0 0 0) s =
      .next (complete h eOk [] ((s.begun h.qp).modBolt bolt ({ · with bound := false }))) := by
  obtain ⟨hd, hr, hbeg, -⟩ := (State.takes_iff s _).1 ht
  have hchecks : firstFail (boltChecks h bolt 0 0 false 0 0 0 s) = none := by
    cases hy : s.bay (s.bolt bolt).bay with
    | none => simp [boltChecks, firstFail, htr, boltParams, State.boltBay, hy, hbound, hidle, hw]; omega
    | some y =>
      have how' : s.ownerOf h.qp = 0 ∨ y.owner = s.ownerOf h.qp := how.imp_right fun f => f y hy
      rcases how' with how' | how' <;>
        simp [boltChecks, firstFail, htr, boltParams, State.boltBay, hy, hbound, hidle, hw, how'] <;> omega
  show execBoltSet h bolt 0 0 false 0 0 0 s = _
  rw [execBoltSet, command_begins _ _ _ _ _ hd hbeg ((firstFail_gate (by simp) hr (testing_of_any htest) _).trans hchecks)]
  rfl

/-- The headers of the first `n` slots written empty (R275). -/
def emptied (who : Who) (base size n : Nat) (s : State) : State :=
  (List.range n).foldl (fun a i => beamWrite who (base + i * size) emptyHeader a) s

theorem emptied_succ (who : Who) (base size n : Nat) (s : State) :
    emptied who base size (n + 1) s = beamWrite who (base + n * size) emptyHeader (emptied who base size n s) := by
  simp [emptied, List.range_succ]

theorem emptyHeader_getD : ∀ j < 64, emptyHeader.getD j 0 = if j < 6 then 0xFF#8 else 0#8 := by decide

/-- The bolt when the bind `x` has completed (R275). -/
def boundAs (x : Binding) : Bolt :=
  { bound := true, bay := x.bay, ever := true, kind := x.kind, base := x.base, ofs := x.ofs, size := x.size, slots := x.slots }

section
variable {base size : Nat} (hbase : base % 64 = 0) (hsize : size % 64 = 0)
include hbase hsize

theorem beamWrite_emptyHeader (who : Who) (n : Nat) (s : State) :
    stored (base + n * size) emptyHeader s (beamWrite who (base + n * size) emptyHeader s) ∧
    onlyRegs (fun r => cntReg r ∨ r = rBm_CTL (beamPort (base + n * size)) ∨ r = rBm_STAT (beamPort (base + n * size))) s
      (beamWrite who (base + n * size) emptyHeader s) ∧
    onlyParts [.beam, .regs] s (beamWrite who (base + n * size) emptyHeader s) ∧
    (beamWrite who (base + n * size) emptyHeader s).beam.bolts = s.beam.bolts := by
  have ha : (base + n * size) % 64 = 0 := by simp [Nat.add_mod, Nat.mul_mod, hbase, hsize]
  have hlen : emptyHeader.length = 64 := rfl
  rw [beamWrite_within who (by decide) (by rw [ha, hlen]) s]
  exact writePiece_line ha rfl s

theorem emptied_frame (who : Who) (n : Nat) (s : State) :
    onlyRegs (fun r => cntReg r ∨ ∃ k, r = rBm_CTL k ∨ r = rBm_STAT k) s (emptied who base size n s) ∧
    onlyParts [.beam, .regs] s (emptied who base size n s) ∧ (emptied who base size n s).beam.bolts = s.beam.bolts := by
  induction n with
  | zero => exact ⟨.refl _ s, .refl _ s, rfl⟩
  | succ n ih =>
    obtain ⟨hr, hp, hb⟩ := ih
    obtain ⟨-, hr', hp', hb'⟩ := beamWrite_emptyHeader hbase hsize who n (emptied who base size n s)
    rw [emptied_succ]
    exact ⟨hr.andThen hr' fun _ h => h.imp_right fun h => ⟨_, h⟩, hp.trans hp', hb'.trans hb⟩

theorem emptied_other (who : Who) (n : Nat) (s : State) {a : Nat} (h : ∀ i, i < n → a < base + i * size ∨ base + i * size + 64 ≤ a) :
    (emptied who base size n s).byteAt a = s.byteAt a := by
  induction n with
  | zero => rfl
  | succ n ih =>
    rw [emptied_succ, (beamWrite_emptyHeader hbase hsize who n _).1.other (h n (by omega)), ih fun i hi => h i (by omega)]

theorem emptied_header (who : Who) (h64 : 64 ≤ size) (n : Nat) (s : State) {i j : Nat} (hi : i < n) (hj : j < 64) :
    (emptied who base size n s).byteAt (base + i * size + j) = some (if j < 6 then 0xFF#8 else 0#8) := by
  induction n with
  | zero => omega
  | succ n ih =>
    have hst := (beamWrite_emptyHeader hbase hsize who n (emptied who base size n s)).1
    rw [emptied_succ]
    by_cases h : i = n
    · subst h
      rw [hst.getD hj, emptyHeader_getD j hj]
    · have hmul : (i + 1) * size ≤ n * size := Nat.mul_le_mul_right _ (by omega)
      rw [Nat.add_mul] at hmul
      rw [hst.other (.inl (by omega)), ih (by omega)]

end

/-- Settles O11: a bind waits in its bolt, an unbind completes, and the end of a bind writes one empty header per slot. -/
theorem boltsAreBoundAndUnbound : Obligations.BoltsAreBoundAndUnbound := by
  unfold Obligations.BoltsAreBoundAndUnbound
  refine ⟨fun h bolt bay kind ofs size slots y s ht htest htr h1 h2 h3 h4 h5 h6 h7 h8 h9 hy hin how hfree hidle hover => ?_,
    fun h bolt s ht htest htr hb hbound hw hidle how => ?_, fun bolt x s hx hq hbme hbase hsize h64 => ?_⟩
  · have hparams : boltParams bolt bay kind true ofs size slots = false := by
      simp [boltParams, h4, h5]; omega
    exact exec_boltSet_bind ht htest htr hparams hy hin how hfree hidle hover
  · obtain ⟨-, -, -, hbq⟩ := (State.takes_iff s _).1 ht
    obtain ⟨hq, hbme⟩ : h.qp < 256 ∧ s.bme (s.ownerOf h.qp) = true := by simpa [cmdOf] using hbq
    obtain ⟨hc, hregs, hparts, hlast⟩ := completes_after_parts eOk [] hq hbme
      (setBolt_onlyParts (s.begun h.qp) bolt { (s.begun h.qp).bolt bolt with bound := false })
    have hbeam := hlast .beam (by decide)
    have hbolt (c : Nat) := (State.bolt_congr (congrArg BeamSt.bolts hbeam) c).trans (State.bolt_setBolt (s.begun h.qp) bolt c _)
    refine ⟨_, exec_boltSet_unbind ht htest htr hb hbound hw hidle how, hc, ?_, fun c hcb => ?_, fun a => ?_, hregs, hparts⟩
    · exact (hbolt bolt).trans (if_pos rfl)
    · exact (hbolt c).trans (if_neg hcb.symm)
    · have hmem := congrArg (fun m : BeamSt => memGet m.mem a) hbeam
      exact hmem
  · obtain ⟨hr, hp, hbolts⟩ := emptied_frame hbase hsize (whoIngress (s.ownerOf x.hdr.qp)) x.slots s
    generalize hu : emptied (whoIngress (s.ownerOf x.hdr.qp)) (x.base + x.ofs) x.size x.slots s = u at hr hp hbolts
    have hset := setBolt_onlyParts u bolt (boundAs x)
    have hr' := hr.trans hset.regsKept.of_none
    obtain ⟨hc, hlast⟩ := complete_after (h := x.hdr) eOk [] hq hbme hr' (fun r hr => by
      rcases hr with hr | ⟨k, rfl | rfl⟩
      · constructor <;> intro hblk <;> simp [cntReg, hblk, cntGeom] at hr
      · simp
      · simp) (hp .bme (by decide))
    have hbeam := hlast .beam (by decide)
    have hmem (a : Nat) : memGet (complete x.hdr eOk [] (u.setBolt bolt (boundAs x))).beam.mem a = u.byteAt a := by
      rw [show (complete x.hdr eOk [] (u.setBolt bolt (boundAs x))).beam = (u.setBolt bolt (boundAs x)).beam from hbeam]; rfl
    have hbolt (c : Nat) := (State.bolt_congr (congrArg BeamSt.bolts hbeam) c).trans (State.bolt_setBolt u bolt c (boundAs x))
    have hexec : exec (.boltBindDone bolt) s = .next (complete x.hdr eOk [] (u.setBolt bolt (boundAs x))) := by
      show execBoltBindDone bolt s = _
      simp only [execBoltBindDone, hx, ← hu]; rfl
    refine ⟨_, hexec, hc, (hbolt bolt).trans (if_pos rfl), fun c hcb => ?_, fun i j hi hj => ?_, fun a ha => ?_,
      (hr'.mono fun r h => .inr h).trans ((complete_onlyRegs _ _ _ _).mono fun r h => .inl h),
      ((hp.mono (by decide)).andThen hset).andThen hlast⟩
    · exact ((hbolt c).trans (if_neg hcb.symm)).trans (State.bolt_congr hbolts c)
    · rw [hmem, ← hu]; exact emptied_header hbase hsize _ h64 _ _ hi hj
    · rw [hmem, ← hu]; exact emptied_other hbase hsize _ _ _ ha

/-! ## BAR 2 -/

theorem bar2Block_word {ofs : Nat} {s : State} (htr : s.trained = true) (ho : ofs % 8 = 0)
    (ht : s.testing (8 + beamPort (s.bar2Addr ofs)) = false) : s.bar2Block ofs 8 = none := by
  rw [State.bar2Block, pieces_within (by decide) (by unfold State.bar2Addr; omega)]
  simp [ht, htr]

theorem exec_bar2Write_word {ofs : Nat} {data : List Byte} {s : State} (hs : s.awake = true) (htr : s.trained = true)
    (hofs : ofs < 2 ^ 30) (ho : ofs % 8 = 0) (hlen : data.length = 8) (ht : s.testing (8 + beamPort (s.bar2Addr ofs)) = false)
    (hno : ∀ e ∈ s.beam.merge, e.line ≠ s.bar2Addr ofs / 64) :
    exec (.bar2Write ofs data) s = .next (count .bm (beamPort (s.bar2Addr ofs)) 1 (pieceInfo whoBar2 (s.bar2Addr ofs)) data.length
      (storeWords (s.bar2Addr ofs) data 1 (endBeamReset (beamPort (s.bar2Addr ofs)) s))) := by
  have ha : s.bar2Addr ofs % 8 = 0 := by unfold State.bar2Addr; omega
  show execBar2Write ofs data s = _
  rw [execBar2Write, hostAccess_awake _ s hs, if_neg (by omega), hlen, bar2Block_word htr ho ht]
  simp only
  rw [beamWrite_within _ (by omega) (by omega), writePiece_words (n := 1) ha (by omega) (by decide) (by decide) hno, hlen]

/-- What a read of a piece makes known to the counters (R522). -/
abbrev readInfo (who : Who) (a : Nat) : EvInfo := ⟨who.priv, who.mkind, who.master, 0, Nat.lor 1 who.cls, a / 64 * 64, true⟩

theorem flushLine_absent {line : Nat} {s : State} (h : ∀ e ∈ s.beam.merge, e.line ≠ line) : flushLine line s = s := by
  have : s.beam.merge.find? (·.line == line) = none := by simpa using h
  simp [flushLine, this]

theorem wordBytes_congr {s t : State} (hm : t.beam.mem = s.beam.mem) (he : t.beam.epoch = s.beam.epoch) (w : Nat) :
    wordBytes t w = wordBytes s w := by simp [wordBytes, hm, he]

theorem wordKind_congr {s t : State} (hm : t.beam.mem = s.beam.mem) (he : t.beam.epoch = s.beam.epoch) (hc : t.beam.ecc = s.beam.ecc)
    (w : Nat) : wordKind t w = wordKind s w := by simp [wordKind, hm, he, hc]

/-- A clean word read where the merge buffer holds nothing of its line. -/
theorem beamRead_clean_word {who : Who} {a : Nat} {s : State} (ha : a % 8 = 0) (hno : ∀ e ∈ s.beam.merge, e.line ≠ a / 64)
    (hk : wordKind s a = 0) :
    beamRead who a 8 s = ⟨wordBytes s a, 0,
      count .bm (beamPort a) 4 (readInfo who a) (Config.readLatency (a / 64) s.up)
        (count .bm (beamPort a) 0 (readInfo who a) 8 (endBeamReset (beamPort a) s))⟩ := by
  have hbeam := endBeamReset_beam (beamPort a) s
  have hfl : flushLine (a / 64) (endBeamReset (beamPort a) s) = endBeamReset (beamPort a) s :=
    flushLine_absent (by simpa [hbeam] using hno)
  have hb : wordBytes (endBeamReset (beamPort a) s) a = wordBytes s a := wordBytes_congr (by simp [hbeam]) (by simp [hbeam]) a
  have hk' : wordKind (endBeamReset (beamPort a) s) a = 0 :=
    (wordKind_congr (by simp [hbeam]) (by simp [hbeam]) (by simp [hbeam]) a).trans hk
  have hlen : (wordBytes s a).length = 8 := by simp [wordBytes]
  have hw : (List.range ((a + 8 - 1) / 8 - a / 8 + 1)).map (fun i => (a / 8 + i) * 8) = [a] := by
    rw [show (a + 8 - 1) / 8 - a / 8 + 1 = 1 by omega]
    simp; omega
  have htake : (wordBytes s a).take 8 = wordBytes s a := List.take_of_length_le (by omega)
  simp only [beamRead, pieces_within (n := 8) (by decide) (show a % 64 + 8 ≤ 64 by omega), List.foldl_cons, List.foldl_nil, readPiece, hfl, hw]
  simp [hb, hk', noteKind, ha, htake]
  rfl

theorem exec_bar2Read_word {ofs : Nat} {s : State} (hs : s.awake = true) (htr : s.trained = true) (hofs : ofs < 2 ^ 30) (ho : ofs % 8 = 0)
    (ht : s.testing (8 + beamPort (s.bar2Addr ofs)) = false) :
    exec (.bar2Read ofs 8) s = .next ((beamRead whoBar2 (s.bar2Addr ofs) 8 s).after.emit
      (.bar2Data (beamRead whoBar2 (s.bar2Addr ofs) 8 s).bytes (badKind (beamRead whoBar2 (s.bar2Addr ofs) 8 s).worst))) := by
  show execBar2Read ofs 8 s = _
  rw [execBar2Read, hostAccess_awake _ s hs, if_neg (by omega), bar2Block_word htr ho ht]

theorem exec_bar2Read_untrained {ofs len : Nat} {s : State} (hs : s.awake = true) (htr : s.trained = false) (hofs : ofs < 2 ^ 30)
    (hb : s.bist = none) :
    exec (.bar2Read ofs len) s = .next ((logReject 0 2 ofs eState false s).emit (.bar2Data (List.replicate len 0xFF#8) false)) := by
  have hblock : s.bar2Block ofs len = some eState := by simp [State.bar2Block, State.testing, hb, htr]
  show execBar2Read ofs len s = _
  rw [execBar2Read, hostAccess_awake _ s hs, if_neg (by omega)]
  simp only [hblock]
  rfl

theorem logReject_pf_onlyRegs (space offset status : Nat) (wr : Bool) (s : State) :
    onlyRegs (fun r => r = rSys_REJ_STAT) s (logReject 0 space offset status wr s) := by
  simp only [logReject, if_true]
  split_ifs
  · exact fun r hr => State.reg_setFld_ne _ _ _ _ hr
  · exact (addSat_onlyReg s _ _ _ _).trans (setFld_onlyReg _ _ _ _ _)

/-- Settles O12: an aligned word is one piece of one line; what is turned away leaves the beam as it was. -/
theorem barTwoReachesBeam : Obligations.BarTwoReachesBeam := by
  unfold Obligations.BarTwoReachesBeam
  refine ⟨fun ofs data s hs htr hofs ho hlen ht hno => ⟨_, exec_bar2Write_word hs htr hofs ho hlen ht hno, ?_⟩,
    fun ofs s hs htr hofs ho ht hno hk => ⟨_, exec_bar2Read_word hs htr hofs ho ht, ?_⟩,
    fun ofs len data s hs hofs => ⟨?_, ?_⟩, fun ofs len s hs htr hofs hb hroom => ⟨_, exec_bar2Read_untrained hs htr hofs hb, ?_⟩⟩
  · generalize hk : beamPort (s.bar2Addr ofs) = k
    have hbeam := endBeamReset_beam k s
    have hstore : stored (s.bar2Addr ofs) data (endBeamReset k s) (storeWords (s.bar2Addr ofs) data 1 (endBeamReset k s)) :=
      stored_storeWords (by omega) _
    have hbeam' := storeWords_beam (s.bar2Addr ofs) data 1 (endBeamReset k s)
    refine ⟨fun j hj => ?_, fun a ha => ?_, ?_, ?_, ?_, ?_⟩
    · rw [count_beam]
      exact hstore.getD (by omega)
    · rw [count_beam]
      refine (hstore.other (by omega)).trans ?_
      rw [State.byteAt, hbeam]
    · rw [count_beam, hbeam', hbeam]
    · rw [count_beam, hbeam', hbeam]
    · exact (((endBeamReset_onlyRegs k s).mono fun _ => .inr).trans (storeWords_onlyParts _ _ _ _).regsKept.of_none).andThen
        (count_onlyRegs _ _ _ _ _ _) fun _ h => .inl h.2.2
    · exact ((endBeamReset_onlyParts k s).andThen (storeWords_onlyParts _ _ _ _)).andThen (count_onlyParts _ _ _ _ _ _)
  · have ha : s.bar2Addr ofs % 8 = 0 := by unfold State.bar2Addr; omega
    rw [beamRead_clean_word ha hno hk]
    generalize beamPort (s.bar2Addr ofs) = k
    have hparts := ((endBeamReset_onlyParts k s).andThen (count_onlyParts .bm k 0 (readInfo whoBar2 (s.bar2Addr ofs)) 8 _)).andThen
      (count_onlyParts .bm k 4 (readInfo whoBar2 (s.bar2Addr ofs)) (Config.readLatency (s.bar2Addr ofs / 64) s.up) _)
    refine ⟨?_, ?_, ?_, ?_⟩
    · exact congrArg (_ :: ·) (hparts .out (by decide))
    · show (count _ _ _ _ _ _).beam = _
      rw [count_beam, count_beam, endBeamReset_beam]
    · exact ((((endBeamReset_onlyRegs k s).mono fun _ => .inr).andThen (count_onlyRegs _ _ _ _ _ _) fun _ h => .inl h.2.2).andThen
        (count_onlyRegs _ _ _ _ _ _) fun _ h => .inl h.2.2).trans (emit_onlyRegs _ _).of_none
    · exact (hparts.mono (by decide)).andThen (emit_onlyParts _ _)
  · show execBar2Read ofs len s = _
    rw [execBar2Read, hostAccess_awake _ s hs, if_pos hofs]
  · show execBar2Write ofs data s = _
    rw [execBar2Write, hostAccess_awake _ s hs, if_pos hofs]
  · refine ⟨?_, ?_, ?_, ?_⟩
    · exact congrArg (_ :: ·) (logReject_onlyParts 0 2 ofs eState false s .out (by decide))
    · exact logReject_rejLog_of_room 0 2 ofs eState false hroom
    · exact (logReject_pf_onlyRegs 2 ofs eState false s).trans (emit_onlyRegs _ _).of_none
    · exact ((logReject_onlyParts 0 2 ofs eState false s).mono (by decide)).andThen (emit_onlyParts _ _)

end Sys2Proof.Machine
end

section
/-! SUPPORT. Maintenance of the beam (R294). -/

-- The checked text is one long file: elaborating these in order bounds its threads and memory.
set_option Elab.async false

namespace Sys2Proof.Machine

/-- A state in which a word stands at an offset of BM0 between two registers: none is there, but a `State` may hold one. -/
def strayBeamWord : State := { State.reset with regs := [(⟨.bm, 0, 0x11⟩, 1#32)] }

/-- CNT_CLR clears every offset from that of ECC_CNT0 to that of ECC_CNT2. -/
theorem exec_bmCntClr {k : Nat} {v : W32} {s : State} (hs : s.awake = true) (h0 : v.getLsbD 0 = false) (h1 : v.getLsbD 1 = true)
    (hk : k < 16) (hu : s.unavailable (rBm_CTL k) = none) :
    exec (.bmCntClr k v) s = .next (s.clearRegs fun r => r.blk == .bm && r.inst == k && 0x10 ≤ r.off && r.off ≤ 0x18) := by
  show execBmCntClr k v s = _
  rw [execBmCntClr, hostAccess_awake _ s hs, if_pos hk]
  simp only [writeBmCtl, hu, h0, h1, Bool.false_and, if_true, if_neg Bool.false_ne_true]

/-- Refutes O13: CNT_CLR is claimed to change ECC_CNT0 to ECC_CNT2 alone, whatever the state, but it clears the range of
offsets from the first to the last; in a state that holds a word at offset 0x11, that word is cleared too. -/
theorem not_beamIsMaintained : ¬ Obligations.BeamIsMaintained := by
  unfold Obligations.BeamIsMaintained
  rintro ⟨-, -, -, -, -, -, -, -, -, -, hclr, -⟩
  obtain ⟨t, ht, -, hregs, -⟩ := hclr 0 2#32 strayBeamWord (by decide) (by decide) (by decide) (by decide) (by decide)
  rw [exec_bmCntClr (by decide) (by decide) (by decide) (by decide) (by decide)] at ht
  obtain rfl := Host.Outcome.next.inj ht
  have hkept := hregs ⟨.bm, 0, 0x11⟩ (by decide)
  exact absurd hkept (by decide)

end Sys2Proof.Machine
end

section
/-! SUPPORT. Ingress ports: opening, closing and the loss of a leg (R215 to R220, R239). -/

-- The checked text is one long file: elaborating these in order bounds its threads and memory.
set_option Elab.async false

namespace Sys2Proof.Machine

/-! ## Commands of any function -/

theorem State.takes_elim {s : State} {i : Instr} {h : Hdr} {data : Option (Option (List Byte))} (hi : cmdOf i = some (h, data))
    (ht : s.takes i = true) :
    s.dark = false ∧ s.ready = true ∧ s.begins i = true ∧ h.qp < 256 ∧ s.bme (s.ownerOf h.qp) = true := by
  simpa [State.takes_iff, hi, and_assoc] using ht

/-- A command that begins, changes registers of `P` and parts of `l`, and completes. -/
theorem completes_after {h : Hdr} {P : RegId → Prop} {s a : State} {l : List Part} (st : Nat) (res : List Byte) (hq : h.qp < 256)
    (hb : s.bme (s.ownerOf h.qp) = true) (hr : onlyRegs P (s.begun h.qp) a) (hP : ∀ r, P r → r.blk ≠ .qp ∧ r.blk ≠ .que)
    (ha : onlyParts l (s.begun h.qp) a) (hl : Part.bme ∉ l := by decide) :
    completed (answer h st res) s (complete h st res a) ∧ onlyRegs (fun r => complReg r ∨ P r) s (complete h st res a) ∧
      onlyParts (l ++ [.qps, .regs, .out]) s (complete h st res a) ∧ onlyParts [.qps, .regs, .out] a (complete h st res a) := by
  have hr' : onlyRegs P s a := fun r hn => (hr r hn).trans (State.reg_begun s _ r)
  obtain ⟨hc, hp⟩ := complete_after st res hq hb hr' hP (ha .bme hl)
  refine ⟨hc, (hr'.mono fun _ => .inr).andThen (complete_onlyRegs h st res _) fun _ => .inl, ?_, hp⟩
  exact ((begun_onlyParts s h.qp).mono (by simp)).trans ((ha.mono (by simp)).trans (hp.mono (by simp)))

theorem firstFail_append {l m : List (Bool × Nat)} (h : firstFail l = none) : firstFail (l ++ m) = firstFail m := by
  induction l with
  | nil => rfl
  | cons c l ih =>
    obtain ⟨b, st⟩ := c
    cases b
    · exact ih h
    · simp [firstFail] at h

theorem padTo_of_length {n : Nat} {l : List Byte} (h : l.length = n) : padTo n l = l := by simp [padTo, h]

/-! ## Notices of a port -/

theorem notice_onlyParts (f kind : Nat) (b2 b8 : List Byte) (s : State) : onlyParts [.rings, .regs, .out] s (notice f kind b2 b8 s) := by
  intro p hp
  cases p <;> simp_all [Part.same]

theorem notice_onlyRegs (f kind : Nat) (b2 b8 : List Byte) (s : State) : onlyRegs noteReg s (notice f kind b2 b8 s) := by
  intro r hr
  obtain ⟨hnq, hmsix⟩ := not_or.1 hr
  exact notice_reg f kind b2 b8 s r.blk r.inst r.off hmsix hnq

theorem portNotice_onlyParts (dir bit port owner enables : Nat) (s : State) :
    onlyParts [.rings, .regs, .out] s (portNotice dir bit port owner enables s) := by
  unfold portNotice
  split_ifs
  · exact notice_onlyParts _ _ _ _ s
  · exact .refl _ s

theorem portNotice_onlyRegs (dir bit port owner enables : Nat) (s : State) :
    onlyRegs noteReg s (portNotice dir bit port owner enables s) := by
  unfold portNotice
  split_ifs
  · exact notice_onlyRegs _ _ _ _ s
  · exact .refl _ s

/-! ## The state of a port -/

theorem modLoom_onlyParts (s : State) (f : LoomSt → LoomSt) : onlyParts [.loom] s (s.modLoom f) := by
  intro p hp
  cases p <;> simp_all [Part.same, State.modLoom]

theorem setIsp_onlyParts (s : State) (n : Nat) (p : Isp) : onlyParts [.loom] s (s.setIsp n p) := modLoom_onlyParts s _

theorem State.isp_setIsp (s : State) (n m : Nat) (p : Isp) : (s.setIsp n p).isp m = if n = m then some p else s.isp m :=
  Tab.find_set _ _ _ _

theorem State.isp_congr {s t : State} (h : t.loom = s.loom) (n : Nat) : t.isp n = s.isp n := by simp [State.isp, h]

theorem showIngress_onlyParts (s : State) : onlyParts [.regs] s (showIngress s) :=
  (setFld_onlyParts s _ _).trans (setFld_onlyParts _ _ _)

theorem showIngress_onlyRegs (s : State) : onlyRegs (fun r => r = rLoom_ING_STAT) s (showIngress s) :=
  (setFld_onlyReg s _ _ _ _).trans (setFld_onlyReg _ _ _ _ _)

/-! ## Opening -/

/-- The port that an accepted ISP_OPEN opens (R217, R219). -/
def openedIsp (h : Hdr) (bolt : Nat) (b : List Byte) (s : State) : Isp :=
  { state := 1, owner := s.ownerOf h.qp, bolt := bolt, fmt := ispFormat b, merge := (blkFlags b).testBit 1
    notices := field b 3 1, lossUs := field b 4 4, win := field b 8 4
    mapBits := if (blkFlags b).testBit 1 then ispMapBits b else 0, legs := ispLegs b, feed := ispFeed b }

/-- The state of an accepted ISP_OPEN before it completes. -/
def ispOpened (h : Hdr) (port bolt : Nat) (b : List Byte) (s : State) : State :=
  showIngress (((s.begun h.qp).setIsp port (openedIsp h bolt b s)).modBolt bolt
    ({ · with writer := some (.isp port), fmt := some (ispFormat b), idxs := [] }))

theorem exec_ispOpen {h : Hdr} {port bolt : Nat} {b : List Byte} {s : State} (ht : s.takes (.ispOpen h port bolt (some b)) = true)
    (htest : s.testing 36 = false) (hb : bolt < 2048) (htr : s.trained = true) (hbound : (s.bolt bolt).bound = true)
    (hlen : b.length = 128) (hchecks : firstFail (ispBlockChecks port bolt b s) = none) :
    exec (.ispOpen h port bolt (some b)) s = .next (complete h eOk [] (ispOpened h port bolt b s)) := by
  obtain ⟨hd, hr, hbeg, -, -⟩ := State.takes_elim rfl ht
  have hgate : firstFail (s.gate h false loomTarget) = none := by simp [State.gate, firstFail, hr, htest]
  have hblock : firstFail [(decide (2047 < bolt), eRange), (!s.trained || !(s.bolt bolt).bound, eState),
      ((some b : Option (List Byte)).isNone, eBus)] = none := by
    simp [firstFail, htr, hbound]; omega
  show execIspOpen h port bolt (some b) s = _
  rw [execIspOpen, Option.getD_some, padTo_of_length hlen, command_begins _ _ _ _ _ hd hbeg
    ((firstFail_append ((firstFail_append hgate).trans hblock)).trans hchecks)]
  rfl

theorem ispOpened_onlyParts (h : Hdr) (port bolt : Nat) (b : List Byte) (s : State) :
    onlyParts [.loom, .beam, .regs] (s.begun h.qp) (ispOpened h port bolt b s) :=
  ((setIsp_onlyParts _ _ _).mono (by decide)).andThen (setBolt_onlyParts _ _ _) |>.andThen (showIngress_onlyParts _)

theorem ispOpened_onlyRegs (h : Hdr) (port bolt : Nat) (b : List Byte) (s : State) :
    onlyRegs (fun r => r = rLoom_ING_STAT) (s.begun h.qp) (ispOpened h port bolt b s) :=
  ((setIsp_onlyParts _ _ _).regsKept.of_none.trans (setBolt_onlyParts _ _ _).regsKept.of_none).trans (showIngress_onlyRegs _)

/-! ## Closing -/

theorem exec_ispClose {h : Hdr} {port : Nat} {p : Isp} {s : State} (ht : s.takes (.ispClose h port) = true) (htest : s.testing 36 = false)
    (hp : s.isp port = some p) (hst : p.state ≠ 0) (hcl : p.closing = none) (hgone : p.gone = false) (how : p.owner = s.ownerOf h.qp) :
    exec (.ispClose h port) s =
      .next (showIngress ((s.begun h.qp).setIsp port { p with state := 0, closing := some h, gone := false })) := by
  obtain ⟨hd, hr, hbeg, -, -⟩ := State.takes_elim rfl ht
  have hgate : firstFail (s.gate h false loomTarget) = none := by simp [State.gate, firstFail, hr, htest]
  have hchecks : firstFail [((s.isp port).any (fun p => p.closing.isSome || p.gone), eBusy), (!s.ispOpen port, eState),
      (((s.isp port).map (·.owner)) != some (s.ownerOf h.qp), ePriv)] = none := by
    simp [firstFail, hp, hcl, hgone, State.ispOpen, hst, how]
  have hp' : (s.begun h.qp).isp port = some p := hp
  show execIspClose h port s = _
  rw [execIspClose, command_begins _ _ _ _ _ hd hbeg ((firstFail_append hgate).trans hchecks)]
  simp only [hp']
  rfl

theorem ispFree_onlyParts (port : Nat) (p : Isp) (s : State) : onlyParts [.loom, .beam] s (ispFree port p s) := by
  unfold ispFree
  dsimp only
  split_ifs
  · exact ((setBolt_onlyParts s _ _).mono (by decide)).andThen (setIsp_onlyParts _ _ _)
  · exact (setIsp_onlyParts _ _ _).mono (by decide)

theorem exec_ispCloseDone {h : Hdr} {port : Nat} {p : Isp} {s : State} (hp : s.isp port = some p) (hcl : p.closing = some h) :
    exec (.ispCloseDone port) s = .next (complete h eOk [] (ispFree port p s)) := by
  show execIspCloseDone port s = _
  simp only [execIspCloseDone, hp, hcl]

/-- The state of a port whose close has completed: nothing but its counts and its settings. -/
def closedIsp (p : Isp) : Isp :=
  { p with legs := [], slots := [], marks := [], feed := none, sync := none, closing := none, gone := false }

theorem ispFree_of_writer {port : Nat} {p : Isp} {s : State} (hw : (s.bolt p.bolt).writer = some (.isp port)) :
    ispFree port p s = (s.modBolt p.bolt ({ · with writer := none })).setIsp port (closedIsp p) := by
  simp only [ispFree, if_pos hw]
  rfl

/-! ## The loss of a leg -/

/-- The port when leg `leg` has gone DOWN (R220). -/
def legDown (leg : Nat) (p : Isp) : Isp :=
  { p with legs := p.legs.modify leg ({ · with up := false }),
           state := if (p.legs.modify leg ({ · with up := false })).all (!·.up) then 3 else p.state }

/-- The notices of a leg that goes DOWN, and of a port that is LOST with it (R220). -/
def legDownNotices (port leg : Nat) (p : Isp) (s : State) : State :=
  if (p.legs.modify leg ({ · with up := false })).all (!·.up)
    then portNotice 0 2 port p.owner p.notices (portNotice 0 0 port p.owner p.notices s)
    else portNotice 0 0 port p.owner p.notices s

theorem exec_legLoss {port leg : Nat} {p : Isp} {l : Leg} {s : State} (hp : s.isp port = some p) (hst : p.state ≠ 0)
    (hl : p.legs[leg]? = some l) (hup : l.up = true) :
    exec (.legLoss port leg) s = .next (legDownNotices port leg p (s.setIsp port (legDown leg p))) := by
  show execLegLoss port leg s = _
  simp only [execLegLoss, hp]
  rw [if_neg (by simp [hst, hl, hup])]
  rfl

theorem legDownNotices_onlyParts (port leg : Nat) (p : Isp) (s : State) :
    onlyParts [.rings, .regs, .out] s (legDownNotices port leg p s) := by
  unfold legDownNotices
  split_ifs
  · exact (portNotice_onlyParts _ _ _ _ _ s).trans (portNotice_onlyParts _ _ _ _ _ _)
  · exact portNotice_onlyParts _ _ _ _ _ s

theorem legDownNotices_onlyRegs (port leg : Nat) (p : Isp) (s : State) : onlyRegs noteReg s (legDownNotices port leg p s) := by
  unfold legDownNotices
  split_ifs
  · exact (portNotice_onlyRegs _ _ _ _ _ s).trans (portNotice_onlyRegs _ _ _ _ _ _)
  · exact portNotice_onlyRegs _ _ _ _ _ s

/-- Settles O14: each row's next state is written out, and what it shows is read off the port and the bolt that it sets. -/
theorem ingressPortsOpenAndClose : Obligations.IngressPortsOpenAndClose := by
  unfold Obligations.IngressPortsOpenAndClose
  refine ⟨fun h port bolt b s ht htest hb htr hbound hlen hchecks => ?_, fun h port p s ht htest hp hst hcl hgone how => ?_,
    fun h port p s hp hcl hq hbme hw => ?_, fun port leg p l s hp hst hl hup => ?_⟩
  · obtain ⟨-, -, -, hq, hbme⟩ := State.takes_elim rfl ht
    have hshow := showIngress_onlyParts (((s.begun h.qp).setIsp port (openedIsp h bolt b s)).modBolt bolt
      ({ · with writer := some (.isp port), fmt := some (ispFormat b), idxs := [] }))
    obtain ⟨hc, hregs, hparts, hlast⟩ := completes_after eOk [] hq hbme (ispOpened_onlyRegs h port bolt b s)
      (fun r hr => by subst hr; decide) (ispOpened_onlyParts h port bolt b s)
    have hloom : (complete h eOk [] (ispOpened h port bolt b s)).loom = ((s.begun h.qp).setIsp port (openedIsp h bolt b s)).loom :=
      (hlast .loom (by decide)).trans (hshow .loom (by decide))
    have hisp (q : Nat) := (State.isp_congr hloom q).trans (State.isp_setIsp _ _ _ _)
    have hbeam := (hlast .beam (by decide)).trans (hshow .beam (by decide))
    have hbolt (c : Nat) := (State.bolt_congr (congrArg BeamSt.bolts hbeam) c).trans (State.bolt_setBolt _ bolt c _)
    refine ⟨_, openedIsp h bolt b s, exec_ispOpen ht htest hb htr hbound hlen hchecks, hc, (hisp port).trans (if_pos rfl),
      rfl, rfl, rfl, rfl, rfl, rfl, rfl, rfl, rfl, fun q hq => (hisp q).trans (if_neg hq.symm), (hbolt bolt).trans (if_pos rfl),
      fun c hc => (hbolt c).trans (if_neg hc.symm), fun a => ?_, hregs, hparts.mono (by decide)⟩
    have hmem := congrArg (fun m : BeamSt => memGet m.mem a) hbeam
    exact hmem
  · have hshow := showIngress_onlyParts ((s.begun h.qp).setIsp port { p with state := 0, closing := some h, gone := false })
    have hisp (q : Nat) := (State.isp_congr (hshow .loom (by decide)) q).trans (State.isp_setIsp _ _ _ _)
    refine ⟨_, exec_ispClose ht htest hp hst hcl hgone how, (hisp port).trans (if_pos rfl), fun q hq => (hisp q).trans (if_neg hq.symm),
      ?_, ?_⟩
    · exact ((begun_onlyParts s h.qp).regsKept.of_none.trans (setIsp_onlyParts _ _ _).regsKept.of_none).trans (showIngress_onlyRegs _)
    · exact (((begun_onlyParts s h.qp).mono (by decide)).andThen (setIsp_onlyParts _ _ _)).andThen (showIngress_onlyParts _)
  · have hfree := ispFree_onlyParts port p s
    obtain ⟨hc, hlast⟩ := complete_after (h := h) eOk [] hq hbme hfree.regsKept (fun _ => False.elim) (hfree .bme (by decide))
    have hisp (q : Nat) : (complete h eOk [] (ispFree port p s)).isp q = if port = q then some (closedIsp p) else s.isp q := by
      rw [State.isp_congr (hlast .loom (by decide)), ispFree_of_writer hw, State.isp_setIsp]; rfl
    have hbolt (c : Nat) : (complete h eOk [] (ispFree port p s)).bolt c =
        if p.bolt = c then { s.bolt p.bolt with writer := none } else s.bolt c := by
      rw [State.bolt_congr (congrArg BeamSt.bolts (hlast .beam (by decide))), ispFree_of_writer hw]
      exact State.bolt_setBolt _ _ _ _
    exact ⟨_, closedIsp p, exec_ispCloseDone hp hcl, hc, (hisp port).trans (if_pos rfl), rfl, rfl, rfl, rfl, rfl, rfl,
      (hbolt _).trans (if_pos rfl), fun c hc => (hbolt c).trans (if_neg hc.symm), fun q hq => (hisp q).trans (if_neg hq.symm),
      hfree.regsKept.of_none.trans (complete_onlyRegs _ _ _ _), (hfree.mono (by decide)).andThen hlast⟩
  · have hnote := legDownNotices_onlyParts port leg p (s.setIsp port (legDown leg p))
    have hisp (q : Nat) := (State.isp_congr (hnote .loom (by decide)) q).trans (State.isp_setIsp _ _ _ _)
    exact ⟨_, exec_legLoss hp hst hl hup, (hisp port).trans (if_pos rfl), fun q hq => (hisp q).trans (if_neg hq.symm),
      (setIsp_onlyParts _ _ _).regsKept.of_none.trans (legDownNotices_onlyRegs _ _ _ _),
      ((setIsp_onlyParts _ _ _).mono (by decide)).andThen hnote⟩

end Sys2Proof.Machine
end

section
/-! SUPPORT. Slots that stop accepting, feeds, and the dispositions of received frames (R209, R222, R233, R237, R265). -/

-- The checked text is one long file: elaborating these in order bounds its threads and memory.
set_option Elab.async false

namespace Sys2Proof.Machine

/-! ## Registers that no counter is -/

theorem onlyRegs.fld {P : RegId → Prop} {s t : State} {r : RegId} {hi lo : Nat} (h : onlyRegs P s t) (hr : ¬ P r) :
    t.fld ⟨r, hi, lo⟩ = s.fld ⟨r, hi, lo⟩ := by
  simp [State.fld, h r hr]

theorem onlyRegs.on {P : RegId → Prop} {s t : State} {r : RegId} {hi lo : Nat} (h : onlyRegs P s t) (hr : ¬ P r) :
    t.on ⟨r, hi, lo⟩ = s.on ⟨r, hi, lo⟩ := by
  simp [State.on, h.fld hr]

theorem modeStat_not_cntReg (n : Nat) : ¬ cntReg (rLn_MODE_STAT n) := by simp [cntReg, cntGeom]

theorem txStat_not_cntReg (n : Nat) : ¬ cntReg (rLn_TX_STAT n) := by simp [cntReg, cntGeom]

theorem prbsStat_not_cntReg (n : Nat) : ¬ cntReg (rLn_PRBS_STAT n) := by simp [cntReg, cntGeom]

theorem not_cntReg_of_blk {r : RegId} (h : (cntGeom r.blk).1 = 0) : ¬ cntReg r := by
  simp only [cntReg, h]
  omega

theorem countLn_onlyParts (lane src cls n : Nat) (s : State) : onlyParts [.regs] s (countLn lane src cls n s) := count_onlyParts _ _ _ _ _ s

theorem countLn_onlyRegs (lane src cls n : Nat) (s : State) : onlyRegs cntReg s (countLn lane src cls n s) :=
  (count_onlyRegs _ _ _ _ _ s).mono fun _ h => h.2.2

theorem countLoom_onlyParts (src obj priv mkind master cls n : Nat) (s : State) :
    onlyParts [.regs] s (countLoom src obj priv mkind master cls n s) := count_onlyParts _ _ _ _ _ s

theorem countLoom_onlyRegs (src obj priv mkind master cls n : Nat) (s : State) :
    onlyRegs cntReg s (countLoom src obj priv mkind master cls n s) :=
  (count_onlyRegs _ _ _ _ _ s).mono fun _ h => h.2.2

@[simp] theorem lane_countLn (lane src cls n m : Nat) (s : State) : (countLn lane src cls n s).lane m = s.lane m :=
  State.lane_congr (countLn_onlyParts _ _ _ _ s .lanes (by decide)) m

@[simp] theorem lane_countLoom (src obj priv mkind master cls n m : Nat) (s : State) :
    (countLoom src obj priv mkind master cls n s).lane m = s.lane m :=
  State.lane_congr (countLoom_onlyParts _ _ _ _ _ _ _ s .lanes (by decide)) m

/-! ## Slots -/

theorem leBytes_length (n v : Nat) : (leBytes n v).length = n := by simp [leBytes]

theorem Slot.header_length (c : Slot) (f : Format) : (c.header f).length = 64 := by
  simp only [Slot.header, tbBytes]
  split_ifs <;> simp [leBytes_length]

/-- A slot that has stopped accepting (R222). -/
def Slot.closed (c : Slot) : Slot := { c with flags := Nat.lor c.flags 2 }

theorem exec_slotClose {port idx : Nat} {p : Isp} {c : Slot} {s : State} (hp : s.isp port = some p)
    (hc : Tab.find p.slots (idx % (s.bolt p.bolt).slots) = some c) (hi : c.idx = idx)
    (hal : (s.bolt p.bolt).slotAt idx % 64 = 0) :
    exec (.slotClose port idx) s = .next (slotStops port p (idx % (s.bolt p.bolt).slots) c
      (writePiece (whoIngress p.owner) ((s.bolt p.bolt).slotAt idx) (c.closed.header p.fmt) s)) := by
  have hw : writeHdr p c.closed s = writePiece (whoIngress p.owner) ((s.bolt p.bolt).slotAt idx) (c.closed.header p.fmt) s := by
    rw [writeHdr, show c.closed.idx = idx from hi]
    exact beamWrite_within _ (by rw [Slot.header_length]; decide) (by rw [Slot.header_length, hal]) s
  show execSlotClose port idx s = _
  simp only [execSlotClose, hp, hc]
  rw [if_neg (by simpa using hi), ← hw]
  rfl

theorem slotStops_onlyParts (port : Nat) (p : Isp) (num : Nat) (c : Slot) (s : State) :
    onlyParts [.loom, .regs] s (slotStops port p num c s) :=
  ((setIsp_onlyParts s _ _).mono (by decide)).andThen (countLoom_onlyParts _ _ _ _ _ _ _ _)

theorem slotStops_onlyRegs (port : Nat) (p : Isp) (num : Nat) (c : Slot) (s : State) : onlyRegs cntReg s (slotStops port p num c s) :=
  (setIsp_onlyParts s _ _).regsKept.of_none.trans (countLoom_onlyRegs _ _ _ _ _ _ _ _)

theorem isp_slotStops (port q : Nat) (p : Isp) (num : Nat) (c : Slot) (s : State) : (slotStops port p num c s).isp q =
    if port = q then some { p with slots := Tab.erase p.slots num, lost := min 65535 (p.lost + c.missing p.fmt) } else s.isp q := by
  rw [slotStops, countIsp, State.isp_congr (countLoom_onlyParts _ _ _ _ _ _ _ _ .loom (by decide)), State.isp_setIsp]

/-! ## Feeds -/

theorem setShut_onlyParts (s : State) (n : Nat) (v : Shuttle) : onlyParts [.sht] s (s.setShut n v) := by
  intro p hp
  cases p <;> simp_all [Part.same, State.setShut]

@[simp] theorem State.shut_setShut (s : State) (n m : Nat) (v : Shuttle) : (s.setShut n v).shut m = if n = m then v else s.shut m :=
  Tab.get_set _ _ _ _ _

/-- What a FIFO of a shuttle holds. -/
abbrev State.fifo (s : State) (sh fifo : Nat) : List FeedWord := Tab.get [] (s.shut sh).fifos fifo

/-- Words that the FIFO of a running shuttle has room for go to it, and nothing else changes. -/
theorem feedPush_of_room {port owner sh fifo ts : Nat} {words : List Nat} {s : State} (hrun : s.fld (fSh_STAT_STATE sh) = 2)
    (hroom : (s.fifo sh fifo).length + words.length ≤ 1024) :
    ((feedPush port owner sh fifo ts words s).fifo sh fifo).map (·.w) = (s.fifo sh fifo).map (·.w) ++ words ∧
    (∀ m, m ≠ sh → (feedPush port owner sh fifo ts words s).shut m = s.shut m) ∧
    onlyParts [.sht] s (feedPush port owner sh fifo ts words s) := by
  rw [feedPush, if_neg (by simp [hrun]; exact hroom)]
  refine ⟨?_, fun m hm => by simp [hm.symm], setShut_onlyParts _ _ _⟩
  have hz : words.zipIdx.map (fun x => x.1) = words := List.zipIdx_map_fst 0 words
  simp [State.fifo, Function.comp_def, hz]

theorem exec_feedHoldExpiry {port n g : Nat} {p : Isp} {f : Feed} {x : FeedHeld} {s : State} (hp : s.isp port = some p)
    (hf : p.feed = some f) (hn : f.next = some n) (hh : f.held = [x]) (hg : 0 < g) (hgs : g ≤ p.fmt.spp) (hx : x.ts = n + g) :
    exec (.feedHoldExpiry port) s = .next (feedDrain 1 port (feedPush port p.owner f.sh f.fifo n (List.replicate (g * p.fmt.chans) 0)
      (countIsp 0x07 port p.owner 1 (s.setIsp port { p with feed := some { f with next := some (n + g) } })))) := by
  have hgap : f.gap p.fmt.spp n = g := by
    simp only [Feed.gap, hh, hx, List.foldl_cons, List.foldl_nil]
    split_ifs <;> omega
  show execFeedHoldExpiry port s = _
  simp only [execFeedHoldExpiry, hp, hf, hn, hgap]
  simp [hh]

theorem feedDrain_one {port t : Nat} {p : Isp} {f : Feed} {x : FeedHeld} {s : State} (hp : s.isp port = some p) (hf : p.feed = some f)
    (hn : f.next = some t) (hh : f.held = [x]) (hx : x.ts = t) :
    feedDrain 1 port s = feedPush port p.owner f.sh f.fifo t x.words
      (s.setIsp port { p with feed := some { f with next := some (t + p.fmt.spp), held := [] } }) := by
  subst hx
  simp [feedDrain, hp, hf, hn, hh]

/-! ## Received frames -/

theorem advanceTo_past {t : Nat} {s : State} (h : t ≤ s.tb) : advanceTo t s = s := by
  rw [advanceTo, if_neg (by omega)]

/-- A frame's lane, where it is bad as `goodFrame` says. -/
theorem badFrame_eq (ep : Nat) (f : RxFrame) (s : State) :
    (!f.fcsOk || ((s.lane ep).cwBad.take f.cws).any id || decide (s.fld (fLn_MAC_CFG_MAX_FRAME ep) < f.bytes.length + 4)) =
      !s.goodFrame ep f := by
  have hmax : decide (s.fld (fLn_MAC_CFG_MAX_FRAME ep) < f.bytes.length + 4) =
      !decide (f.bytes.length + 4 ≤ s.fld (fLn_MAC_CFG_MAX_FRAME ep)) := by
    rw [← decide_not]; exact decide_eq_decide.2 (by omega)
  rw [State.goodFrame, hmax]
  simp [Bool.not_and, Bool.or_assoc]

theorem exec_frameReceive {ep : Nat} {f g : RxFrame} {s s1 : State} (hm : s.macPresent ep = true) (hu : s.portUp ep = true)
    (hr : s.received ep f = some (g, s1)) : exec (.frameReceive ep f) s = .next (receive ep g s1) := by
  show execFrameReceive ep f s = _
  simp only [execFrameReceive, hm, hu, hr]
  rfl

/-- A frame shorter than 64 bytes is removed and counted (R49). -/
theorem macRemoves_short {ep : Nat} {b : List Byte} {s : State} (h : b.length + 4 < 64) :
    macRemoves ep b s = some (countLn ep 3 0 1 (s.modLane ep fun l => { l with rxShort := l.rxShort + 1 })) := by
  simp [macRemoves, h]

/-- The MAC of a promiscuous port lets a frame pass that is long enough and no MAC control frame. -/
theorem macRemoves_none {ep : Nat} {b : List Byte} {s : State} (h60 : 60 ≤ b.length) (hctl : beField b 12 2 ≠ 0x8808)
    (hp : s.on (fLn_MAC_CFG_PROMISC ep) = true) : macRemoves ep b s = none := by
  rw [macRemoves, if_neg (by omega), if_neg hctl, if_neg (by simp [hp])]

theorem receive_short {ep : Nat} {f : RxFrame} {s : State} (ht : f.stamp ≤ s.tb) (hgood : s.goodFrame ep f = true)
    (hs : f.bytes.length + 4 < 64) :
    receive ep f s = countLn ep 3 0 1 (s.modLane ep fun l => { l with rxShort := l.rxShort + 1 }) := by
  simp only [receive, advanceTo_past ht, badFrame_eq, hgood, macRemoves_short hs]
  simp

theorem receive_bad {ep : Nat} {f : RxFrame} {s : State} (ht : f.stamp ≤ s.tb) (hp : s.pState < 2) (hgood : s.goodFrame ep f = false)
    (hr : s.ruleFor ep f.bytes = none) : receive ep f s = rxBadFrame ep s := by
  simp only [receive, advanceTo_past ht, badFrame_eq, hgood, hr]
  simp [Nat.not_le.2 hp]

/-- The lane of a frame that the MAC lets pass, or counts as bad. -/
theorem receive_asleep {ep : Nat} {f : RxFrame} {s : State} (ht : f.stamp ≤ s.tb) (hp : 2 ≤ s.pState) (h60 : 60 ≤ f.bytes.length)
    (hctl : beField f.bytes 12 2 ≠ 0x8808) (hprom : s.on (fLn_MAC_CFG_PROMISC ep) = true) :
    receive ep f s = raiseOnce fPwr_EVENT_WAKE_DROP
      ((if s.goodFrame ep f then rxPassed ep (f.bytes.length + 4) 0 s else rxBadFrame ep s).addSat fPwr_WAKE_DROP_COUNT) := by
  simp only [receive, advanceTo_past ht, badFrame_eq, macRemoves_none h60 hctl hprom]
  rw [if_pos hp]
  cases s.goodFrame ep f <;> rfl

theorem receive_ruled {ep i : Nat} {r : ExpRule} {f : RxFrame} {s : State} (ht : f.stamp ≤ s.tb) (hp : s.pState < 2)
    (hgood : s.goodFrame ep f = true) (h60 : 60 ≤ f.bytes.length) (hctl : beField f.bytes 12 2 ≠ 0x8808)
    (hprom : s.on (fLn_MAC_CFG_PROMISC ep) = true) (hr : s.ruleFor ep f.bytes = some (i, r)) :
    receive ep f s = expForward i ep r f.bytes false (rxPassed ep (f.bytes.length + 4) 0 s) := by
  simp only [receive, advanceTo_past ht, badFrame_eq, hgood, macRemoves_none h60 hctl hprom, hr]
  simp [Nat.not_le.2 hp]

theorem receive_unparsed {ep : Nat} {f : RxFrame} {s : State} (ht : f.stamp ≤ s.tb) (hp : s.pState < 2)
    (hgood : s.goodFrame ep f = true) (h60 : 60 ≤ f.bytes.length) (hctl : beField f.bytes 12 2 ≠ 0x8808)
    (hprom : s.on (fLn_MAC_CFG_PROMISC ep) = true) (hr : s.ruleFor ep f.bytes = none) (hip : ipParse f.bytes = none) :
    receive ep f s = punt ep (s.rxStamp ep (s.stamp f.stamp)) f.bytes (rxPassed ep (f.bytes.length + 4) 8 s) := by
  simp only [receive, advanceTo_past ht, badFrame_eq, hgood, macRemoves_none h60 hctl hprom, hr, classify, hip]
  simp [Nat.not_le.2 hp]

theorem rxPassed_onlyParts (ep n cls : Nat) (s : State) : onlyParts [.lanes, .regs] s (rxPassed ep n cls s) :=
  (((modLane_onlyParts s ep _).mono (by decide)).andThen (countLn_onlyParts _ _ _ _ _)).andThen (countLn_onlyParts _ _ _ _ _)

theorem rxPassed_onlyRegs (ep n cls : Nat) (s : State) : onlyRegs cntReg s (rxPassed ep n cls s) :=
  ((modLane_onlyParts s ep _).regsKept.of_none.trans (countLn_onlyRegs _ _ _ _ _)).trans (countLn_onlyRegs _ _ _ _ _)

theorem lane_rxPassed (ep n cls m : Nat) (s : State) : (rxPassed ep n cls s).lane m =
    if m = ep then { s.lane ep with rxBytes := ((s.lane ep).rxBytes + n) % 2 ^ 64 } else s.lane m := by
  by_cases h : m = ep
  · subst h; simp [rxPassed]
  · simp [rxPassed, h]

theorem rxBadFrame_onlyParts (ep : Nat) (s : State) : onlyParts [.lanes, .regs] s (rxBadFrame ep s) :=
  ((modLane_onlyParts s ep _).mono (by decide)).andThen (countLn_onlyParts _ _ _ _ _)

theorem rxBadFrame_onlyRegs (ep : Nat) (s : State) : onlyRegs cntReg s (rxBadFrame ep s) :=
  (modLane_onlyParts s ep _).regsKept.of_none.trans (countLn_onlyRegs _ _ _ _ _)

theorem lane_rxBadFrame (ep m : Nat) (s : State) : (rxBadFrame ep s).lane m =
    if m = ep then { s.lane ep with rxBad := (s.lane ep).rxBad + 1 } else s.lane m := by
  by_cases h : m = ep
  · subst h; simp [rxBadFrame]
  · simp [rxBadFrame, h]

theorem raiseOnce_onlyParts (e : FldId) (s : State) : onlyParts [.lastNote, .rings, .regs, .out] s (raiseOnce e s) := by
  unfold raiseOnce
  split_ifs
  · exact .refl _ s
  · exact ((noteRaised_onlyParts e s).mono (by decide)).andThen (raise_onlyParts e _)

theorem raiseOnce_onlyRegs (e : FldId) (s : State) : onlyRegs (fun r => r = e.reg ∨ noteReg r) s (raiseOnce e s) := by
  unfold raiseOnce
  split_ifs
  · exact .refl _ s
  · exact (noteRaised_onlyRegs e s).of_none.trans (raise_onlyRegs e _)

/-! ## Express forwarding and punts -/

section
variable {s t : State} (h : onlyRegs cntReg s t)
include h

theorem mode_congr (n : Nat) : t.mode n = s.mode n := h.fld (modeStat_not_cntReg n)

theorem tx_congr (n : Nat) : t.tx n = s.tx n := h.fld (txStat_not_cntReg n)

theorem portLanes_congr (n : Nat) : t.portLanes n = s.portLanes n := by
  have hwidth : t.fld (fLn_MODE_STAT_WIDTH n) = s.fld (fLn_MODE_STAT_WIDTH n) := h.fld (modeStat_not_cntReg n)
  have hbase : t.fld (fLn_MODE_STAT_PORT_BASE n) = s.fld (fLn_MODE_STAT_PORT_BASE n) := h.fld (modeStat_not_cntReg n)
  rw [State.portLanes, State.portLanes, mode_congr h, hwidth, hbase]

theorem macSends_congr {ep : Nat} (hl : (t.lane ep).loopPrior = (s.lane ep).loopPrior) : t.macSends ep = s.macSends ep := by
  have hbase : t.fld (fLn_MODE_STAT_PORT_BASE ep) = s.fld (fLn_MODE_STAT_PORT_BASE ep) := h.fld (modeStat_not_cntReg ep)
  have hgen (m : Nat) : t.on (fLn_PRBS_STAT_GEN m) = s.on (fLn_PRBS_STAT_GEN m) := h.on (prbsStat_not_cntReg m)
  simp only [State.macSends, State.macPresent, mode_congr h, tx_congr h, portLanes_congr h, hbase, hgen, hl]

theorem recvQueue_congr (q : Nat) : t.recvQueue q = s.recvQueue q := by
  have hctl : ¬ cntReg (rQp_CTL q) := not_cntReg_of_blk rfl
  have hen : t.on (fQp_CTL_EN q) = s.on (fQp_CTL_EN q) := h.on hctl
  have hkind : t.fld (fQp_CTL_KIND q) = s.fld (fQp_CTL_KIND q) := h.fld hctl
  rw [State.recvQueue, State.recvQueue, hen, hkind]

end

/-- The counts of an express rule after one more frame (R265). -/
def expCounted (rule : Nat) (s : State) : Nat × Nat :=
  (((Tab.get (0, 0) s.loom.expCnt rule).1 + 1) % 65536, (Tab.get (0, 0) s.loom.expCnt rule).2)

/-- A frame that its rule's output sends and has room for (R265, R266). -/
theorem expForward_of_room {rule inEp : Nat} {r : ExpRule} {b : List Byte} {s : State} (hm : s.macSends r.outEp = true)
    (hroom : s.expUsed r.outEp + (retag r b).length + 4 ≤ 131072) :
    expForward rule inEp r b false s = (countLoom 0x21 rule 0 0 0 0 ((retag r b).length + 4) (countLoom 0x20 rule 0 0 0 0 1
      (s.modLoom fun m => { m with expCnt := Tab.set m.expCnt rule (expCounted rule s) }))).modLane r.outEp
      fun l => { l with express := l.express ++ [⟨.express rule inEp, retag r b, false⟩], txBad := l.txBad } := by
  simp only [expForward, hm]
  rw [if_neg (by simp), if_neg (by omega)]
  rfl

theorem posted_untake (h : Hdr) (s : State) (q : Nat) : ((untake h s).qp q).posted = (s.qp q).posted := by
  simp only [untake]
  by_cases e : q = h.qp
  · subst e; split_ifs <;> simp
  · split_ifs <;> simp [e]

theorem posted_cqRecorded (q : Nat) (b : Bool) (s : State) (p : Nat) : ((cqRecorded q b s).qp p).posted = (s.qp p).posted := by
  have hm : ∀ (fn vec : Nat) (u : State), (sendMsix fn vec u).qp p = u.qp p := fun fn vec u =>
    congrArg (fun t => Tab.get _ t p) (show (sendMsix fn vec u).host.qps = u.host.qps by simp)
  simp only [cqRecorded]
  by_cases e : p = q
  · subst e; split_ifs <;> simp [hm]
  · split_ifs <;> simp [hm, e]

theorem posted_emitData (l : List (Nat × List Byte)) (s : State) (q : Nat) : ((emitData l s).qp q).posted = (s.qp q).posted := by
  induction l generalizing s with
  | nil => rfl
  | cons d l ih => exact ih _

theorem posted_writeCompl (c : Compl) (s : State) (q : Nat) : ((writeCompl c s).qp q).posted = (s.qp q).posted := by
  simp only [writeCompl]
  split_ifs <;> simp [posted_untake, posted_cqRecorded, posted_emitData]

/-- The completion of the buffer `x` that takes the bytes `b` received on endpoint `ep`, of punt class `cls` (R359). -/
abbrev bufCompl (x : Posted) (head b : List Byte) (ep cls : Nat) : Compl :=
  ⟨x.hdr, eOk, 2, leBytes 2 b.length ++ leBytes 1 ep ++ leBytes 1 cls, [(x.addr, padTo 16 head ++ b)], false⟩

theorem punt_to_buffer {ep stamp : Nat} {b : List Byte} {x : Posted} {l : List Posted} {s : State}
    (hen : s.on (fLoom_PUNT_CFG_EN (puntClass b)) = true) (hrate : s.fld (fLoom_PUNT_CFG_RATE (puntClass b)) = 0)
    (hq : s.recvQueue (s.fld (fLoom_PUNT_CFG_QP (puntClass b))) = true) (hb : s.bme 0 = true)
    (hx : (s.qp (s.fld (fLoom_PUNT_CFG_QP (puntClass b)))).posted = x :: l) (hlen : 16 + b.length ≤ x.len) :
    punt ep stamp b s = countLoom 0x30 (puntClass b) 1 1 0 8 1 (postCompl (bufCompl x (tbBytes stamp) b ep (puntClass b))
      (s.modQp (s.fld (fLoom_PUNT_CFG_QP (puntClass b))) ({ · with posted := l }))) := by
  have hd : deliverBuf (s.fld (fLoom_PUNT_CFG_QP (puntClass b))) (tbBytes stamp) b ep (puntClass b) s =
      some (postCompl (bufCompl x (tbBytes stamp) b ep (puntClass b))
        (s.modQp (s.fld (fLoom_PUNT_CFG_QP (puntClass b))) ({ · with posted := l }))) := by
    simp only [deliverBuf, hq, hb, hx]
    rw [if_neg (by simp), if_neg (by omega)]
  simp only [punt, hd, hen, hrate]
  simp

end Sys2Proof.Machine
end

section
/-! SUPPORT. The dispositions of received frames, row by row. -/

-- The checked text is one long file: elaborating these in order bounds its threads and memory.
set_option Elab.async false

namespace Sys2Proof.Machine

theorem slotClose_effect {port idx : Nat} {p : Isp} {c : Slot} {s : State} (hp : s.isp port = some p)
    (hc : Tab.find p.slots (idx % (s.bolt p.bolt).slots) = some c) (hi : c.idx = idx) (hal : (s.bolt p.bolt).slotAt idx % 64 = 0) :
    ∃ t, exec (.slotClose port idx) s = .next t ∧ stored ((s.bolt p.bolt).slotAt idx) (c.closed.header p.fmt) s t ∧
      (∀ q, t.isp q = if port = q then
        some { p with slots := Tab.erase p.slots (idx % (s.bolt p.bolt).slots), lost := min 65535 (p.lost + c.missing p.fmt) }
        else s.isp q) ∧
      onlyRegs (fun r => cntReg r ∨ r = rBm_CTL (beamPort ((s.bolt p.bolt).slotAt idx)) ∨
        r = rBm_STAT (beamPort ((s.bolt p.bolt).slotAt idx))) s t ∧ onlyParts [.loom, .beam, .regs] s t := by
  refine ⟨_, exec_slotClose hp hc hi hal, ?_⟩
  obtain ⟨hst, hr, hpt, -⟩ := writePiece_line (who := whoIngress p.owner) hal (Slot.header_length c.closed p.fmt) s
  generalize writePiece (whoIngress p.owner) ((s.bolt p.bolt).slotAt idx) (c.closed.header p.fmt) s = u at hst hr hpt
  generalize idx % (s.bolt p.bolt).slots = num
  have hstop := slotStops_onlyParts port p num c u
  refine ⟨fun x => ?_, fun q => ?_, hr.andThen (slotStops_onlyRegs port p num c u) fun _ => .inl,
    (hpt.mono (by decide)).andThen hstop⟩
  · rw [State.byteAt, show (slotStops port p num c u).beam = u.beam from hstop .beam (by decide)]
    exact hst x
  · rw [isp_slotStops, State.isp_congr (hpt .loom (by decide))]

theorem feedHoldExpiry_effect {port n g : Nat} {p : Isp} {f : Feed} {x : FeedHeld} {s : State} (hp : s.isp port = some p)
    (hf : p.feed = some f) (hn : f.next = some n) (hh : f.held = [x]) (hg : 0 < g) (hgs : g ≤ p.fmt.spp) (hx : x.ts = n + g)
    (hrun : s.fld (fSh_STAT_STATE f.sh) = 2) (hroom : (s.fifo f.sh f.fifo).length + g * p.fmt.chans + x.words.length ≤ 1024) :
    ∃ t, exec (.feedHoldExpiry port) s = .next t ∧
      t.isp port = some { p with feed := some { f with next := some (n + g + p.fmt.spp), held := [] } } ∧
      (t.fifo f.sh f.fifo).map (·.w) = (s.fifo f.sh f.fifo).map (·.w) ++ List.replicate (g * p.fmt.chans) 0 ++ x.words ∧
      (∀ m, m ≠ f.sh → t.shut m = s.shut m) ∧ onlyRegs cntReg s t ∧ onlyParts [.loom, .sht, .regs] s t := by
  generalize hf1 : ({ f with next := some (n + g) } : Feed) = f1
  generalize hu : countIsp 0x07 port p.owner 1 (s.setIsp port { p with feed := some f1 }) = u
  have hup : onlyParts [.loom, .regs] s u := by
    subst hu; exact ((setIsp_onlyParts s _ _).mono (by decide)).andThen (countLoom_onlyParts _ _ _ _ _ _ _ _)
  have hur : onlyRegs cntReg s u := by
    subst hu; exact (setIsp_onlyParts s _ _).regsKept.of_none.trans (countLoom_onlyRegs _ _ _ _ _ _ _ _)
  have hush (m : Nat) : u.shut m = s.shut m := State.shut_congr (hup .sht (by decide)) m
  have huisp : u.isp port = some { p with feed := some f1 } := by
    subst hu
    rw [countIsp, State.isp_congr (countLoom_onlyParts _ _ _ _ _ _ _ _ .loom (by decide)), State.isp_setIsp, if_pos rfl]
  have hstat : ¬ cntReg (rSh_STAT f.sh) := by simp [cntReg, cntGeom]
  have hurun : u.fld (fSh_STAT_STATE f.sh) = 2 := (hur.fld hstat).trans hrun
  have hfifo : u.fifo f.sh f.fifo = s.fifo f.sh f.fifo := by rw [State.fifo, State.fifo, hush]
  obtain ⟨hw1, hs1, hp1⟩ := feedPush_of_room (port := port) (owner := p.owner) (ts := n) (words := List.replicate (g * p.fmt.chans) 0) hurun
    (fifo := f.fifo) (by rw [hfifo, List.length_replicate]; omega)
  generalize hv : feedPush port p.owner f.sh f.fifo n (List.replicate (g * p.fmt.chans) 0) u = v at hw1 hs1 hp1
  have hvisp : v.isp port = some { p with feed := some f1 } := (State.isp_congr (hp1 .loom (by decide)) port).trans huisp
  have hvrun : v.fld (fSh_STAT_STATE f.sh) = 2 := (State.fld_congr (hp1 .regs (by decide)) _).trans hurun
  generalize hy : v.setIsp port { p with feed := some { f with next := some (n + g + p.fmt.spp), held := [] } } = y
  have hyp : onlyParts [.loom] v y := hy ▸ setIsp_onlyParts v _ _
  have hyfifo : y.fifo f.sh f.fifo = v.fifo f.sh f.fifo := by rw [State.fifo, State.fifo, State.shut_congr (hyp .sht (by decide))]
  have hlen : (v.fifo f.sh f.fifo).length = (s.fifo f.sh f.fifo).length + g * p.fmt.chans := by
    simpa [hfifo] using congrArg List.length hw1
  obtain ⟨hw2, hs2, hp2⟩ := feedPush_of_room (s := y) (port := port) (owner := p.owner) (ts := n + g) (words := x.words)
    ((State.fld_congr (hyp .regs (by decide)) _).trans hvrun) (fifo := f.fifo) (by rw [hyfifo]; omega)
  have hexec : exec (.feedHoldExpiry port) s = .next (feedPush port p.owner f.sh f.fifo (n + g) x.words y) := by
    rw [exec_feedHoldExpiry hp hf hn hh hg hgs hx, hf1, hu, hv, feedDrain_one hvisp rfl (by rw [← hf1]) (by rw [← hf1]; exact hh) hx,
      ← hf1, hy]
  refine ⟨_, hexec, ?_, ?_, fun m hm => ?_, ?_, ?_⟩
  · rw [State.isp_congr (hp2 .loom (by decide)), ← hy, State.isp_setIsp, if_pos rfl]
  · rw [hw2, hyfifo, hw1, hfifo]
  · rw [hs2 m hm, State.shut_congr (hyp .sht (by decide)), hs1 m hm, hush]
  · exact ((hur.trans hp1.regsKept.of_none).trans hyp.regsKept.of_none).trans hp2.regsKept.of_none
  · exact (((hup.mono (by decide)).andThen hp1).andThen hyp).andThen hp2

theorem receive_asleep_effect {ep : Nat} {f : RxFrame} {s : State} (ht : f.stamp ≤ s.tb) (hp : 2 ≤ s.pState) (h60 : 60 ≤ f.bytes.length)
    (hctl : beField f.bytes 12 2 ≠ 0x8808) (hprom : s.on (fLn_MAC_CFG_PROMISC ep) = true) :
    (receive ep f s).fld fPwr_WAKE_DROP_COUNT = min (2 ^ 32 - 1) (s.fld fPwr_WAKE_DROP_COUNT + 1) ∧
    (receive ep f s).lane ep = { s.lane ep with rxBad := (s.lane ep).rxBad + if s.goodFrame ep f then 0 else 1
                                                rxBytes := ((receive ep f s).lane ep).rxBytes } ∧
    (∀ n, n ≠ ep → (receive ep f s).lane n = s.lane n) ∧
    onlyRegs (fun r => r = rPwr_WAKE_DROP ∨ r = rPwr_EVENT ∨ cntReg r ∨ noteReg r) s (receive ep f s) ∧
    onlyParts [.lanes, .rings, .lastNote, .regs, .out] s (receive ep f s) := by
  rw [receive_asleep ht hp h60 hctl hprom]
  obtain ⟨u, hu⟩ : ∃ u, u = if s.goodFrame ep f then rxPassed ep (f.bytes.length + 4) 0 s else rxBadFrame ep s := ⟨_, rfl⟩
  rw [← hu]
  have hup : onlyParts [.lanes, .regs] s u := by
    rw [hu]; split_ifs
    · exact rxPassed_onlyParts _ _ _ s
    · exact rxBadFrame_onlyParts _ s
  have hur : onlyRegs cntReg s u := by
    rw [hu]; split_ifs
    · exact rxPassed_onlyRegs _ _ _ s
    · exact rxBadFrame_onlyRegs _ s
  have hr := raiseOnce_onlyRegs fPwr_EVENT_WAKE_DROP (u.addSat fPwr_WAKE_DROP_COUNT)
  have hpt := raiseOnce_onlyParts fPwr_EVENT_WAKE_DROP (u.addSat fPwr_WAKE_DROP_COUNT)
  have hlane (n : Nat) : (raiseOnce fPwr_EVENT_WAKE_DROP (u.addSat fPwr_WAKE_DROP_COUNT)).lane n = u.lane n :=
    State.lane_congr ((hpt .lanes (by decide)).trans (addSat_onlyParts u _ 1 .lanes (by decide))) n
  refine ⟨?_, ?_, fun n hn => ?_, ?_, ?_⟩
  · have h1 : (raiseOnce fPwr_EVENT_WAKE_DROP (u.addSat fPwr_WAKE_DROP_COUNT)).fld fPwr_WAKE_DROP_COUNT = _ :=
      hr.fld (by simp [noteReg])
    rw [h1, State.fld_addSat_self u _ 1 (by decide) (by decide), hur.fld (not_cntReg_of_blk rfl)]
  · rw [hlane, hu]
    split_ifs <;> simp [lane_rxPassed, lane_rxBadFrame]
  · rw [hlane, hu]
    split_ifs <;> simp [lane_rxPassed, lane_rxBadFrame, hn]
  · refine ((hur.mono fun _ h => .inr (.inr (.inl h))).andThen (addSat_onlyReg u _ _ _ 1) fun _ h => .inl h).andThen hr fun _ h => ?_
    exact h.elim (fun h => .inr (.inl h)) fun h => .inr (.inr (.inr h))
  · exact ((hup.mono (by decide)).andThen (addSat_onlyParts u _ 1)).andThen hpt

/-- A frame that the MAC lets pass and a rule takes, where the rule's output sends and has room. -/
theorem receive_ruled_effect {ep i : Nat} {r : ExpRule} {f : RxFrame} {s : State} (ht : f.stamp ≤ s.tb) (hp : s.pState < 2)
    (hgood : s.goodFrame ep f = true) (h60 : 60 ≤ f.bytes.length) (hctl : beField f.bytes 12 2 ≠ 0x8808)
    (hprom : s.on (fLn_MAC_CFG_PROMISC ep) = true) (hr : s.ruleFor ep f.bytes = some (i, r)) (hm : s.macSends r.outEp = true)
    (hroom : s.expUsed r.outEp + (retag r f.bytes).length + 4 ≤ 131072) :
    (∀ n, (receive ep f s).lane n =
      if n = r.outEp then { (rxPassed ep (f.bytes.length + 4) 0 s).lane n with
        express := (s.lane n).express ++ [⟨.express i ep, retag r f.bytes, false⟩] }
      else (rxPassed ep (f.bytes.length + 4) 0 s).lane n) ∧
    Tab.get (0, 0) (receive ep f s).loom.expCnt i = expCounted i s ∧
    onlyRegs cntReg s (receive ep f s) ∧ onlyParts [.lanes, .loom, .regs] s (receive ep f s) := by
  have hur := rxPassed_onlyRegs ep (f.bytes.length + 4) 0 s
  have hup := rxPassed_onlyParts ep (f.bytes.length + 4) 0 s
  have hul (n : Nat) := lane_rxPassed ep (f.bytes.length + 4) 0 n s
  rw [receive_ruled ht hp hgood h60 hctl hprom hr]
  generalize rxPassed ep (f.bytes.length + 4) 0 s = u at hur hup hul
  have hexp (n : Nat) : (u.lane n).express = (s.lane n).express := by
    rw [hul]; split_ifs with h
    · subst h; rfl
    · rfl
  have hprior (n : Nat) : (u.lane n).loopPrior = (s.lane n).loopPrior := by
    rw [hul]; split_ifs with h
    · subst h; rfl
    · rfl
  rw [expForward_of_room ((macSends_congr hur (hprior _)).trans hm) (by rw [State.expUsed, hexp]; exact hroom)]
  have hcnt (v : State) : onlyParts [.regs] v (countLoom 0x21 i 0 0 0 0 ((retag r f.bytes).length + 4) (countLoom 0x20 i 0 0 0 0 1 v)) :=
    (countLoom_onlyParts _ _ _ _ _ _ _ v).trans (countLoom_onlyParts _ _ _ _ _ _ _ _)
  refine ⟨fun n => ?_, ?_, ?_, ?_⟩
  · by_cases h : n = r.outEp
    · subst h
      have hl (g : LoomSt → LoomSt) : (u.modLoom g).lane r.outEp = u.lane r.outEp := State.lane_congr rfl _
      simp [hl, hexp]
    · have hl (g : LoomSt → LoomSt) : (u.modLoom g).lane n = u.lane n := State.lane_congr rfl _
      simp [h, hl]
  · have hloom : s.loom = u.loom := (hup .loom (by decide)).symm
    show Tab.get (0, 0) (countLoom _ _ _ _ _ _ _ _).loom.expCnt i = _
    rw [show (countLoom _ _ _ _ _ _ _ _).loom = _ from hcnt _ .loom (by decide)]
    simp [State.modLoom, expCounted, hloom]
  · exact ((((hur.trans (modLoom_onlyParts u _).regsKept.of_none).trans (countLoom_onlyRegs _ _ _ _ _ _ _ _)).trans
      (countLoom_onlyRegs _ _ _ _ _ _ _ _))).trans (modLane_onlyParts _ _ _).regsKept.of_none
  · exact (((hup.mono (by decide)).andThen (modLoom_onlyParts u _)).andThen (hcnt _)).andThen (modLane_onlyParts _ _ _)

theorem receive_punted_effect {ep : Nat} {f : RxFrame} {x : Posted} {l : List Posted} {s : State} (ht : f.stamp ≤ s.tb)
    (hp : s.pState < 2) (hgood : s.goodFrame ep f = true) (h60 : 60 ≤ f.bytes.length) (hctl : beField f.bytes 12 2 ≠ 0x8808)
    (hprom : s.on (fLn_MAC_CFG_PROMISC ep) = true) (hr : s.ruleFor ep f.bytes = none) (hip : ipParse f.bytes = none)
    (hen : s.on (fLoom_PUNT_CFG_EN (puntClass f.bytes)) = true) (hrate : s.fld (fLoom_PUNT_CFG_RATE (puntClass f.bytes)) = 0)
    (hq : s.recvQueue (s.fld (fLoom_PUNT_CFG_QP (puntClass f.bytes))) = true) (hb : s.bme 0 = true)
    (hx : (s.qp (s.fld (fLoom_PUNT_CFG_QP (puntClass f.bytes)))).posted = x :: l)
    (hxq : x.hdr.qp = s.fld (fLoom_PUNT_CFG_QP (puntClass f.bytes))) (how : s.ownerOf x.hdr.qp = 0)
    (hlen : 16 + f.bytes.length ≤ x.len) :
    completed (bufCompl x (tbBytes (s.rxStamp ep (s.stamp f.stamp))) f.bytes ep (puntClass f.bytes)) s (receive ep f s) ∧
    ((receive ep f s).qp x.hdr.qp).posted = l ∧ onlyRegs (fun r => complReg r ∨ cntReg r) s (receive ep f s) ∧
    onlyParts [.lanes, .qps, .regs, .out] s (receive ep f s) := by
  have hur := rxPassed_onlyRegs ep (f.bytes.length + 4) 8 s
  have hup := rxPassed_onlyParts ep (f.bytes.length + 4) 8 s
  rw [receive_unparsed ht hp hgood h60 hctl hprom hr hip]
  generalize s.rxStamp ep (s.stamp f.stamp) = stamp
  generalize rxPassed ep (f.bytes.length + 4) 8 s = u at hur hup
  generalize hcls : puntClass f.bytes = cls at hen hrate hq hx hxq
  have hcfg : ¬ cntReg (rLoom_PUNT_CFG cls) := by
    have : cls ≤ 5 := by subst hcls; unfold puntClass; dsimp only; split_ifs <;> decide
    interval_cases cls <;> simp [cntReg, cntGeom]
  have hqps : u.host.qps = s.host.qps := hup .qps (by decide)
  have hqid : u.fld (fLoom_PUNT_CFG_QP cls) = x.hdr.qp := (hur.fld hcfg).trans hxq.symm
  have hbme : u.bme 0 = true := by rw [State.bme, hup .bme (by decide)]; exact hb
  have hrecv : u.recvQueue x.hdr.qp = true := by rw [recvQueue_congr hur, hxq]; exact hq
  have hlt : x.hdr.qp < 256 := by
    simp only [State.recvQueue, Bool.and_eq_true, decide_eq_true_eq] at hrecv; exact hrecv.1.1
  have hposted : (u.qp x.hdr.qp).posted = x :: l := by rw [State.qp, hqps, hxq]; exact hx
  have hownu : u.ownerOf x.hdr.qp = 0 :=
    (State.ownerOf_congr (fun _ => hur _ (not_cntReg_of_blk rfl)) _).trans how
  have hv : ∀ v : State, v = u.modQp x.hdr.qp ({ · with posted := l }) → v.ownerOf x.hdr.qp = 0 ∧ v.bme 0 = true := by
    rintro v rfl; exact ⟨hownu, hbme⟩
  rw [punt_to_buffer (s := u) (x := x) (l := l) (by rw [hcls]; exact (hur.on hcfg).trans hen) (by rw [hcls]; exact (hur.fld hcfg).trans hrate)
    (by rw [hcls, hqid]; exact hrecv) hbme (by rw [hcls, hqid]; exact hposted) hlen, hcls, hqid]
  obtain ⟨hvo, hvb⟩ := hv _ rfl
  have hvq : ((u.modQp x.hdr.qp ({ · with posted := l })).qp x.hdr.qp).posted = l := by simp
  have hvp := modQp_onlyParts u x.hdr.qp ({ · with posted := l })
  generalize u.modQp x.hdr.qp ({ · with posted := l }) = v at hvo hvb hvq hvp
  have hpc : postCompl (bufCompl x (tbBytes stamp) f.bytes ep cls) v = writeCompl (bufCompl x (tbBytes stamp) f.bytes ep cls) v :=
    postCompl_eq_writeCompl hlt (by rw [hvo]; exact hvb)
  have hcnt := countLoom_onlyParts 0x30 cls 1 1 0 8 1 (writeCompl (bufCompl x (tbBytes stamp) f.bytes ep cls) v)
  have hc := postCompl_completed (bufCompl x (tbBytes stamp) f.bytes ep cls) v hlt (by rw [hvo]; exact hvb)
  rw [hpc] at hc ⊢
  have hsv (i : Nat) : v.reg ⟨.qp, x.hdr.qp, i⟩ = s.reg ⟨.qp, x.hdr.qp, i⟩ :=
    (hvp.regsKept (by decide) _ id).trans (hur _ (not_cntReg_of_blk rfl))
  have hc' := completed_congr hc hsv
  refine ⟨?_, ?_, ?_, ?_⟩
  · have hout : (countLoom 0x30 cls 1 1 0 8 1 (writeCompl (bufCompl x (tbBytes stamp) f.bytes ep cls) v)).host.out =
      (writeCompl (bufCompl x (tbBytes stamp) f.bytes ep cls) v).host.out := hcnt .out (by decide)
    simpa only [completed, hout] using hc'
  · have hqp : (countLoom 0x30 cls 1 1 0 8 1 (writeCompl (bufCompl x (tbBytes stamp) f.bytes ep cls) v)).host.qps =
      (writeCompl (bufCompl x (tbBytes stamp) f.bytes ep cls) v).host.qps := hcnt .qps (by decide)
    rw [State.qp, hqp]
    exact (posted_writeCompl _ v _).trans hvq
  · exact (((hur.mono fun _ => .inr).trans hvp.regsKept.of_none).andThen (writeCompl_onlyRegs _ v) fun _ => .inl).andThen
      (countLoom_onlyRegs _ _ _ _ _ _ _ _) fun _ => .inr
  · exact (((hup.mono (by decide)).andThen hvp).andThen (writeCompl_onlyParts _ v)).andThen hcnt

/-- Settles O15: each disposition of R209 is one branch of the receive path, and each branch changes one lane's counts, one
queue or one endpoint's express queue. -/
theorem receivedFramesAndSlots : Obligations.ReceivedFramesAndSlots := by
  unfold Obligations.ReceivedFramesAndSlots
  refine ⟨fun port idx p c s hp hc hi hal => ?_, fun port n g p f x s hp hf hn hh hg hgs hx hrun hroom =>
    feedHoldExpiry_effect hp hf hn hh hg hgs hx hrun hroom, fun ep f s hm hu hr ht hgood hs => ⟨_, exec_frameReceive hm hu hr, ?_⟩,
    fun ep f s hm hu hr ht hps hgood hrule => ⟨_, exec_frameReceive hm hu hr, ?_⟩,
    fun ep f s hm hu hr ht hps h60 hctl hprom => ⟨_, exec_frameReceive hm hu hr, receive_asleep_effect ht hps h60 hctl hprom⟩,
    fun ep f s hm hu hr => ?_, fun ep f b ok rest s hm hu hl hl3 hlp => ?_,
    fun ep i r f s hm hu hr ht h60 hgood hctl hprom hps hrule hms hroom => ⟨_, exec_frameReceive hm hu hr, ?_⟩,
    fun ep f x l s hm hu hr ht h60 hgood hctl hprom hps hrule hip hen hrate hq hb hx hxq how hlen =>
      ⟨_, exec_frameReceive hm hu hr, receive_punted_effect ht hps hgood h60 hctl hprom hrule hip hen hrate hq hb hx hxq how hlen⟩⟩
  · obtain ⟨t, hexec, hst, hisp, hregs, hparts⟩ := slotClose_effect hp hc hi hal
    have hlen := Slot.header_length c.closed p.fmt
    exact ⟨t, hexec, fun j hj => hst.getD (by omega), (hisp port).trans (if_pos rfl), fun q hq => (hisp q).trans (if_neg hq.symm),
      fun a ha => hst.other (by omega), hregs, hparts⟩
  · rw [receive_short ht hgood hs]
    refine ⟨by simp, fun n hn => by simp [hn], ?_, ?_⟩
    · exact (modLane_onlyParts s ep _).regsKept.of_none.trans (countLn_onlyRegs _ _ _ _ _)
    · exact ((modLane_onlyParts s ep _).mono (by decide)).andThen (countLn_onlyParts _ _ _ _ _)
  · rw [receive_bad ht hps hgood hrule]
    exact ⟨(lane_rxBadFrame ep ep s).trans (if_pos rfl), fun n hn => (lane_rxBadFrame ep n s).trans (if_neg hn),
      rxBadFrame_onlyRegs ep s, rxBadFrame_onlyParts ep s⟩
  · show execFrameReceive ep f s = _
    simp only [execFrameReceive, hm, hu, hr]
    rfl
  · refine exec_frameReceive hm hu ?_
    have hany : (s.portLanes ep).any (fun m => s.fld (fLn_PRBS_STAT_LOOP m) == 1) = false := by simpa using hl
    simp only [State.received, hany, hl3, hlp]
    rfl
  · obtain ⟨hlane, hcnt, hregs, hparts⟩ := receive_ruled_effect ht hps hgood h60 hctl hprom hrule hms hroom
    refine ⟨?_, fun hne => ?_, fun n hn hno => ?_, hcnt, hregs, hparts⟩
    · rw [hlane, if_pos rfl]
    · rw [hlane, if_pos rfl, lane_rxPassed, if_neg hne]
    · rw [hlane, if_neg hno, lane_rxPassed, if_neg hn]

end Sys2Proof.Machine
end

section
/-! SUPPORT. Egress ports: opening, closing, takes and rewinds (R243, R244, R252, R253). -/

-- The checked text is one long file: elaborating these in order bounds its threads and memory.
set_option Elab.async false

namespace Sys2Proof.Machine

/-! ## Completions that may wait for Bus Master Enable (R336) -/

theorem postCompl_onlyParts (c : Compl) (s : State) : onlyParts [.qps, .held, .regs, .out] s (postCompl c s) := by
  unfold postCompl
  dsimp only
  split_ifs
  · exact .refl _ s
  · exact (writeCompl_onlyParts c s).mono (by decide)
  · intro p hp
    cases p <;> simp_all [Part.same]

theorem complete_anyParts (h : Hdr) (st : Nat) (res : List Byte) (s : State) :
    onlyParts [.qps, .held, .regs, .out] s (complete h st res s) := postCompl_onlyParts _ s

/-! ## The state of a port -/

theorem setEsp_onlyParts (s : State) (n : Nat) (p : Esp) : onlyParts [.loom] s (s.setEsp n p) := modLoom_onlyParts s _

theorem State.esp_setEsp (s : State) (n m : Nat) (p : Esp) : (s.setEsp n p).esp m = if n = m then some p else s.esp m :=
  Tab.find_set _ _ _ _

theorem State.esp_congr {s t : State} (h : t.loom = s.loom) (n : Nat) : t.esp n = s.esp n := by simp [State.esp, h]

theorem showEgress_onlyParts (s : State) : onlyParts [.regs] s (showEgress s) :=
  (setFld_onlyParts s _ _).trans (setFld_onlyParts _ _ _)

theorem showEgress_onlyRegs (s : State) : onlyRegs (fun r => r = rLoom_EGR_STAT) s (showEgress s) :=
  (setFld_onlyReg s _ _ _ _).trans (setFld_onlyReg _ _ _ _ _)

/-- The gate of a command of any function passes where the device is ready and the loom is in no self-test. -/
theorem firstFail_loomGate {s : State} {h : Hdr} (hr : s.ready = true) (ht : s.testing 36 = false) :
    firstFail (s.gate h false loomTarget) = none := by simp [State.gate, firstFail, hr, ht]

/-! ## Opening -/

/-- The port that an accepted ESP_OPEN opens: its first sequence number and frame count are free values (R256, R257). -/
def openedEsp (h : Hdr) (bolt : Nat) (b : List Byte) (s : State) : Esp :=
  { espOf (s.ownerOf h.qp) bolt b with seq := Config.espSeq s.free % 2 ^ 32, frames := Config.espFrames s.free % 256 }

theorem exec_espOpen {h : Hdr} {port bolt : Nat} {b : List Byte} {s : State} (ht : s.takes (.espOpen h port bolt (some b)) = true)
    (htest : s.testing 36 = false) (hlen : b.length = 128)
    (hchecks : firstFail (espBlockChecks port (espOf (s.ownerOf h.qp) bolt b) b s) = none) :
    exec (.espOpen h port bolt (some b)) s =
      .next (complete h eOk [] (showEgress ((s.begun h.qp).tick.setEsp port (openedEsp h bolt b s)))) := by
  obtain ⟨hd, hr, hbeg, -, -⟩ := State.takes_elim rfl ht
  have hblock : firstFail [((some b : Option (List Byte)).isNone, eBus)] = none := rfl
  show execEspOpen h port bolt (some b) s = _
  rw [execEspOpen, Option.getD_some, padTo_of_length hlen]
  rw [command_begins _ _ _ _ _ hd hbeg
    ((firstFail_append ((firstFail_append (firstFail_loomGate hr htest)).trans hblock)).trans hchecks)]
  rfl

theorem espOpen_effect {h : Hdr} {port bolt : Nat} {b : List Byte} {s : State} (ht : s.takes (.espOpen h port bolt (some b)) = true)
    (htest : s.testing 36 = false) (hlen : b.length = 128)
    (hchecks : firstFail (espBlockChecks port (espOf (s.ownerOf h.qp) bolt b) b s) = none) :
    ∃ t, exec (.espOpen h port bolt (some b)) s = .next t ∧ completed (answer h eOk) s t ∧
      (∀ x, t.esp x = if port = x then some (openedEsp h bolt b s) else s.esp x) ∧
      onlyRegs (fun r => complReg r ∨ r = rLoom_EGR_STAT) s t ∧ onlyParts [.loom, .free, .qps, .regs, .out] s t := by
  obtain ⟨-, -, -, hq, hbme⟩ := State.takes_elim rfl ht
  have htick : onlyParts [.loom, .free, .regs] (s.begun h.qp) ((s.begun h.qp).tick.setEsp port (openedEsp h bolt b s)) :=
    ((tick_onlyParts _).mono (by decide)).andThen (setEsp_onlyParts _ _ _)
  have hset : onlyRegs (fun r => r = rLoom_EGR_STAT) (s.begun h.qp) ((s.begun h.qp).tick.setEsp port (openedEsp h bolt b s)) :=
    fun _ _ => State.reg_congr rfl _
  have hshow := showEgress_onlyParts ((s.begun h.qp).tick.setEsp port (openedEsp h bolt b s))
  obtain ⟨hc, hregs, hparts, hlast⟩ := completes_after eOk [] hq hbme (hset.trans (showEgress_onlyRegs _))
    (fun r hr => by subst hr; decide) (htick.andThen hshow)
  refine ⟨_, exec_espOpen ht htest hlen hchecks, hc, fun x => ?_, hregs, hparts.mono (by decide)⟩
  exact (State.esp_congr ((hlast .loom (by decide)).trans (hshow .loom (by decide))) x).trans (State.esp_setEsp _ _ _ _)

/-! ## Closing -/

/-- The port that ESP_CLOSE leaves (R243). -/
def stoppedEsp (p : Esp) : Esp := { p with state := 0, take := none, rew := none, out := [], sw := [], k := none }

theorem espNamed_passes {h : Hdr} {port : Nat} {p : Esp} {s : State} (hp : s.esp port = some p) (hst : p.state ≠ 0)
    (how : p.owner = s.ownerOf h.qp) : firstFail (espNamed h port s) = none := by
  simp [espNamed, firstFail, State.espOpen, hp, hst, how]

theorem exec_espClose {h : Hdr} {port : Nat} {p : Esp} {s : State} (ht : s.takes (.espClose h port) = true)
    (htest : s.testing 36 = false) (hp : s.esp port = some p) (hst : p.state ≠ 0) (how : p.owner = s.ownerOf h.qp)
    (htake : p.take = none) (hrew : p.rew = none) :
    exec (.espClose h port) s = .next (complete h eOk [] (espStop port p (s.begun h.qp))) := by
  obtain ⟨hd, hr, hbeg, -, -⟩ := State.takes_elim rfl ht
  have hp' : (s.begun h.qp).esp port = some p := hp
  have hnamed : firstFail [(!s.espOpen port, eState), (((s.esp port).map (·.owner)) != some (s.ownerOf h.qp), ePriv)] = none :=
    espNamed_passes hp hst how
  show execEspClose h port s = _
  rw [execEspClose, command_begins _ _ _ _ _ hd hbeg ((firstFail_append (firstFail_loomGate hr htest)).trans hnamed)]
  simp only [hp', htake, hrew]
  rfl

/-- A media packet of a port. -/
def TxFrame.ofPort (port : Nat) (f : TxFrame) : Bool := match f.src with | .media q _ _ _ => q == port | _ => false

theorem espStop_eq (port : Nat) (p : Esp) (s : State) : espStop port p s =
    showEgress ((s.setEsp port (stoppedEsp p)).modLane p.ep fun l => { l with media := l.media.filter fun f => !f.ofPort port }) := by
  refine congrArg (fun g => showEgress ((s.setEsp port (stoppedEsp p)).modLane p.ep g)) (funext fun l => ?_)
  refine congrArg (fun m => { l with media := m }) (List.filter_congr fun f _ => ?_)
  unfold TxFrame.ofPort
  cases f.src <;> rfl

theorem espClose_effect {h : Hdr} {port : Nat} {p : Esp} {s : State} (ht : s.takes (.espClose h port) = true)
    (htest : s.testing 36 = false) (hp : s.esp port = some p) (hst : p.state ≠ 0) (how : p.owner = s.ownerOf h.qp)
    (htake : p.take = none) (hrew : p.rew = none) :
    ∃ t, exec (.espClose h port) s = .next t ∧ completed (answer h eOk) s t ∧
      (∀ x, t.esp x = if port = x then some (stoppedEsp p) else s.esp x) ∧
      t.lane p.ep = { s.lane p.ep with media := (s.lane p.ep).media.filter fun f => !f.ofPort port } ∧
      (∀ n, n ≠ p.ep → t.lane n = s.lane n) ∧
      onlyRegs (fun r => complReg r ∨ r = rLoom_EGR_STAT) s t ∧ onlyParts [.loom, .lanes, .qps, .regs, .out] s t := by
  obtain ⟨-, -, -, hq, hbme⟩ := State.takes_elim rfl ht
  refine ⟨_, exec_espClose ht htest hp hst how htake hrew, ?_⟩
  rw [espStop_eq]
  obtain ⟨f, hf⟩ : ∃ f : Lane → Lane, f = fun l => { l with media := l.media.filter fun f => !f.ofPort port } := ⟨_, rfl⟩
  rw [← hf]
  have hset := setEsp_onlyParts (s.begun h.qp) port (stoppedEsp p)
  have hlane := modLane_onlyParts ((s.begun h.qp).setEsp port (stoppedEsp p)) p.ep f
  have hshow := showEgress_onlyParts (((s.begun h.qp).setEsp port (stoppedEsp p)).modLane p.ep f)
  obtain ⟨hc, hregs, hparts, hlast⟩ := completes_after eOk [] hq hbme
    ((hset.regsKept.of_none.trans hlane.regsKept.of_none).trans (showEgress_onlyRegs _)) (fun r hr => by subst hr; decide)
    (((hset.mono (l' := [.loom, .lanes, .regs]) (by decide)).andThen hlane).andThen hshow)
  have hlanes : ∀ n, (complete h eOk [] (showEgress (((s.begun h.qp).setEsp port (stoppedEsp p)).modLane p.ep f))).lane n =
      (((s.begun h.qp).setEsp port (stoppedEsp p)).modLane p.ep f).lane n :=
    fun n => State.lane_congr ((hlast .lanes (by decide)).trans (hshow .lanes (by decide))) n
  have hbase (n : Nat) : ((s.begun h.qp).setEsp port (stoppedEsp p)).lane n = s.lane n := State.lane_congr rfl n
  refine ⟨hc, fun x => ?_, ?_, fun n hn => ?_, hregs, hparts.mono (by decide)⟩
  · rw [State.esp_congr ((hlast .loom (by decide)).trans ((hshow .loom (by decide)).trans (hlane .loom (by decide)))), State.esp_setEsp]
    rfl
  · rw [hlanes, State.lane_modLane_self, hbase, hf]
  · rw [hlanes, State.lane_modLane_ne _ _ hn, hbase]

/-! ## Takes and rewinds -/

theorem abortEspCmd_onlyParts (c : Option EspCmd) (s : State) : onlyParts [.qps, .held, .regs, .out] s (abortEspCmd c s) := by
  cases c with
  | none => exact .refl _ s
  | some c => exact complete_anyParts _ _ _ s

theorem abortEspCmd_onlyRegs (c : Option EspCmd) (s : State) : onlyRegs complReg s (abortEspCmd c s) := by
  cases c with
  | none => exact .refl _ s
  | some c => exact complete_onlyRegs _ _ _ s

/-- A command that waits in its port `q`, and the one of its kind that it supersedes (R252, R253). -/
theorem supersedes {h : Hdr} {port : Nat} {q : Esp} (c : Option EspCmd) (s : State) :
    (∀ x, ((abortEspCmd c (s.begun h.qp)).setEsp port q).esp x = if port = x then some q else s.esp x) ∧
    (c = none → onlyParts [.loom, .qps] s ((abortEspCmd c (s.begun h.qp)).setEsp port q)) ∧
    (∀ x, c = some x → x.hdr.qp < 256 → s.bme (s.ownerOf x.hdr.qp) = true →
      completed (answer x.hdr eAbort) s ((abortEspCmd c (s.begun h.qp)).setEsp port q)) ∧
    onlyRegs complReg s ((abortEspCmd c (s.begun h.qp)).setEsp port q) ∧
    onlyParts [.loom, .qps, .held, .regs, .out] s ((abortEspCmd c (s.begun h.qp)).setEsp port q) := by
  have habort := abortEspCmd_onlyParts c (s.begun h.qp)
  have hbegun := begun_onlyParts s h.qp
  have hset := setEsp_onlyParts (abortEspCmd c (s.begun h.qp)) port q
  refine ⟨fun x => ?_, fun hc => ?_, fun x hx hq hb => ?_, ?_, ?_⟩
  · rw [State.esp_setEsp, State.esp_congr (habort .loom (by decide))]
    rfl
  · subst hc
    exact (hbegun.mono (by decide)).andThen hset
  · subst hx
    have hreg (r : RegId) : (s.begun h.qp).reg r = s.reg r := State.reg_begun s _ r
    have hb' : (s.begun h.qp).bme ((s.begun h.qp).ownerOf x.hdr.qp) = true := by
      rw [State.ownerOf_congr (fun _ => hreg _)]; exact hb
    exact completed_congr (complete_completed x.hdr eAbort [] (s.begun h.qp) hq hb') fun _ => hreg _
  · exact (hbegun.regsKept.of_none.trans (abortEspCmd_onlyRegs c _)).trans hset.regsKept.of_none
  · exact ((hbegun.mono (by decide)).andThen habort).andThen hset

theorem exec_espTake {h : Hdr} {port bolt c : Nat} {p : Esp} {s : State} (ht : s.takes (.espTake h port bolt c) = true)
    (htest : s.testing 36 = false) (hp : s.esp port = some p) (hst : p.state ≠ 0) (how : p.owner = s.ownerOf h.qp) (hb : bolt < 2048)
    (hsrc : sourceBad p (s.bolt bolt) = false) (hwin : windowOk p (s.bolt bolt) 0 = true)
    (hrew : windowOk p (s.bolt bolt) p.rewind = true) (hbay : foreignBay p.owner (s.bolt bolt) s = false)
    (hadm : s.admits port p = true) (htime : firstFail (cmdTiming h p c p.take s) = none) :
    exec (.espTake h port bolt c) s =
      .next ((abortEspCmd p.take (s.begun h.qp)).setEsp port { p with take := some ⟨h, bolt, c, s.tb⟩ }) := by
  obtain ⟨hd, hr, hbeg, -, -⟩ := State.takes_elim rfl ht
  have hp' : (s.begun h.qp).esp port = some p := hp
  have hown : firstFail [(decide (2047 < bolt), eRange), (sourceBad p (s.bolt bolt), eState), (!windowOk p (s.bolt bolt) 0, eRange),
      (foreignBay p.owner (s.bolt bolt) s, ePriv), (!s.admits port p, eNoRes), (!windowOk p (s.bolt bolt) p.rewind, eRange)] = none := by
    simp [firstFail, hsrc, hwin, hrew, hbay, hadm]; omega
  show execEspTake h port bolt c s = _
  simp only [execEspTake, hp]
  rw [command_begins _ _ _ _ _ hd hbeg (by
    rw [firstFail_append ((firstFail_append (firstFail_loomGate hr htest)).trans (espNamed_passes hp hst how)), firstFail_append hown]
    exact htime)]
  simp only [hp']
  rfl

theorem exec_espRewind {h : Hdr} {port rew c : Nat} {p : Esp} {s : State} (ht : s.takes (.espRewind h port rew c) = true)
    (htest : s.testing 36 = false) (hp : s.esp port = some p) (hst : p.state ≠ 0) (how : p.owner = s.ownerOf h.qp)
    (hmax : rew ≤ 4000000) (hwin : windowOk p (s.bolt p.bolt) rew = true) (htime : firstFail (cmdTiming h p c p.rew s) = none) :
    exec (.espRewind h port rew c) s =
      .next ((abortEspCmd p.rew (s.begun h.qp)).setEsp port { p with rew := some ⟨h, rew, c, s.tb⟩ }) := by
  obtain ⟨hd, hr, hbeg, -, -⟩ := State.takes_elim rfl ht
  have hp' : (s.begun h.qp).esp port = some p := hp
  have hown : firstFail [(decide (4000000 < rew), eRange), (!windowOk p (s.bolt p.bolt) rew, eRange)] = none := by
    simp [firstFail, hwin]; omega
  show execEspRewind h port rew c s = _
  simp only [execEspRewind, hp]
  rw [command_begins _ _ _ _ _ hd hbeg (by
    rw [firstFail_append ((firstFail_append (firstFail_loomGate hr htest)).trans (espNamed_passes hp hst how)), firstFail_append hown]
    exact htime)]
  simp only [hp']
  rfl

/-- Settles O16: ESP_OPEN and ESP_CLOSE complete on the port they leave; ESP_TAKE and ESP_REWIND wait in it. -/
theorem egressPortsOpenAndClose : Obligations.EgressPortsOpenAndClose := by
  unfold Obligations.EgressPortsOpenAndClose
  refine ⟨fun h port bolt b s ht htest hlen hchecks => ?_, fun h port p s ht htest hp hst how htake hrew => ?_,
    fun h port bolt c p s ht htest hp hst how hb hsrc hwin hrew hbay hadm htime =>
      ⟨_, exec_espTake ht htest hp hst how hb hsrc hwin hrew hbay hadm htime, ?_⟩,
    fun h port rew c p s ht htest hp hst how hmax hwin htime => ⟨_, exec_espRewind ht htest hp hst how hmax hwin htime, ?_⟩⟩
  · obtain ⟨t, hexec, hc, hesp, hregs, hparts⟩ := espOpen_effect ht htest hlen hchecks
    exact ⟨t, _, _, hexec, hc, (hesp port).trans (if_pos rfl), Nat.mod_lt _ (by decide), Nat.mod_lt _ (by decide),
      fun x hx => (hesp x).trans (if_neg hx.symm), hregs, hparts⟩
  · obtain ⟨t, hexec, hc, hesp, hlane, hne, hregs, hparts⟩ := espClose_effect ht htest hp hst how htake hrew
    refine ⟨t, hexec, hc, (hesp port).trans (if_pos rfl), fun x hx => (hesp x).trans (if_neg hx.symm), fun f hf due trs ends => ?_,
      by rw [hlane], by rw [hlane], hne, hregs, hparts⟩
    rw [hlane] at hf
    have hof : f.ofPort port = false := by simpa using (List.mem_filter.1 hf).2
    intro hsrc
    simp [TxFrame.ofPort, hsrc] at hof
  · obtain ⟨hesp, hnone, hsome, hregs, hparts⟩ := supersedes (h := h) (port := port) (q := { p with take := some ⟨h, bolt, c, s.tb⟩ }) p.take s
    exact ⟨(hesp port).trans (if_pos rfl), fun x hx => (hesp x).trans (if_neg hx.symm), hnone, hsome, hregs, hparts⟩
  · obtain ⟨hesp, hnone, hsome, hregs, hparts⟩ := supersedes (h := h) (port := port) (q := { p with rew := some ⟨h, rew, c, s.tb⟩ }) p.rew s
    exact ⟨(hesp port).trans (if_pos rfl), fun x hx => (hesp x).trans (if_neg hx.symm), hnone, hsome, hregs, hparts⟩

end Sys2Proof.Machine
end

section
/-! SUPPORT. Express rules, selectors and the snapshots of the loom (R14, R15, R239, R263, R267). -/

-- The checked text is one long file: elaborating these in order bounds its threads and memory.
set_option Elab.async false

namespace Sys2Proof.Machine

/-! ## Single bits -/

theorem getLsbD_eq_bits (w : W32) (k : Nat) : w.getLsbD k = decide (bits w k k = 1) := by
  have h1 : k + 1 - k = 1 := by omega
  show w.toNat.testBit k = _
  rw [Nat.testBit_eq_decide_div_mod_eq, bits, h1, pow_one]

theorem getLsbD_putBits_part (w : W32) {hi lo k : Nat} (v : Nat) (h : fieldOk hi lo) (hl : lo ≤ k) (hh : k ≤ hi) :
    (putBits w hi lo v).getLsbD k = decide (v / 2 ^ (k - lo) % 2 = 1) := by
  have h1 : k + 1 - k = 1 := by omega
  rw [getLsbD_eq_bits, bits_putBits_part w v h ⟨le_refl k, by omega⟩ hl hh, h1, pow_one]

theorem bits_ofNat (n hi lo : Nat) : bits (BitVec.ofNat 32 n) hi lo = n % 2 ^ 32 / 2 ^ lo % 2 ^ (hi + 1 - lo) := by
  rw [bits, BitVec.toNat_ofNat]

/-! ## Results that are asked for, and that are ready (R14, R15) -/

theorem resultPending_onlyParts (s : State) (r : RegId) : onlyParts [.regs] s (s.resultPending r) := setReg_onlyParts s r _

theorem resultPending_onlyRegs (s : State) (r : RegId) : onlyRegs (fun x => x = r) s (s.resultPending r) := setReg_onlyRegs s r _

theorem resultPending_valid (s : State) (r : RegId) :
    ((s.resultPending r).reg r).getLsbD 31 = false ∧ ((s.resultPending r).reg r).getLsbD 30 = false := by
  simp only [State.resultPending, State.reg_setReg_self]
  constructor <;> rw [getLsbD_putBits_part _ _ ⟨by decide, by decide⟩ (by decide) (by decide)] <;> rfl

theorem resultReady_valid (s : State) (r : RegId) :
    ((s.resultReady r).reg r).getLsbD 31 = true ∧ ((s.resultReady r).reg r).getLsbD 30 = true := by
  simp only [State.resultReady, State.reg_setReg_self]
  constructor <;> rw [getLsbD_putBits_part _ _ ⟨by decide, by decide⟩ (by decide) (by decide)] <;> rfl

/-! ## Express rules -/

theorem exec_expRule {h : Hdr} {rule : Nat} {r : List Byte} {s : State} (ht : s.takesPf (.expRule h rule (some r)) = true)
    (htest : s.testing 36 = false) (hlen : r.length = 40) (hres : ruleReserved r = false)
    (hok : (field r 0 1).testBit 0 = true → ruleBad r = false ∧ field r 2 1 < 8 ∧ s.mode (field r 2 1) ≠ 0 ∧
      s.fld (fLn_MODE_STAT_PORT_BASE (field r 2 1)) = field r 2 1) :
    exec (.expRule h rule (some r)) s = .next (complete h eOk [] (showEgress ((s.begun h.qp).modLoom fun m =>
      { m with rules := if (field r 0 1).testBit 0 then Tab.set m.rules rule (ruleOf r) else Tab.erase m.rules rule }))) := by
  obtain ⟨hd, hr, hbeg, -, -, ho⟩ := State.takesPf_elim rfl ht
  have hchecks : firstFail [((some r : Option (List Byte)).isNone, eBus), (ruleReserved r || ((field r 0 1).testBit 0 && ruleBad r), eRange),
      ((field r 0 1).testBit 0 && (decide (7 < field r 2 1) || s.mode (field r 2 1) == 0 ||
        s.fld (fLn_MODE_STAT_PORT_BASE (field r 2 1)) != field r 2 1), eState)] = none := by
    cases hv : (field r 0 1).testBit 0 with
    | false => simp [firstFail, hres]
    | true =>
      obtain ⟨hbad, hep, hmode, hbase⟩ := hok hv
      simp [firstFail, hres, hbad, hmode, hbase]
      omega
  show execExpRule h rule (some r) s = _
  rw [execExpRule, Option.getD_some, padTo_of_length hlen]
  rw [command_begins _ _ _ _ _ hd hbeg ((firstFail_gate (fun _ => ho) hr (by simpa using htest) _).trans hchecks)]

/-! ## Selectors -/

theorem unavailable_loom {o : Nat} {s : State} (h : s.testing 36 = false) : s.unavailable ⟨.loom, 0, o⟩ = none :=
  State.unavailable_none h (by simp)

section
variable {v : W32} {s : State} (hs : s.awake = true) (ht : s.testing 36 = false)
include hs ht

theorem exec_ispSel : exec (.ispSel v) s = .next (((s.setFld fLoom_ISP_SEL_PORT (bits v 9 0)).modLoom
    ({ · with ispReq := some (bits v 9 0) })).resultPending rLoom_ISP_STAT) := by
  show Host.Outcome.next (hostAccess (writeIspSel v) s) = _
  rw [hostAccess_awake _ s hs, writeIspSel, unavailable_loom ht]

theorem exec_espSel : exec (.espSel v) s = .next (((s.setFld fLoom_ESP_SEL_PORT (bits v 9 0)).modLoom
    ({ · with espReq := some (bits v 9 0) })).resultPending rLoom_ESP_STAT) := by
  show Host.Outcome.next (hostAccess (writeEspSel v) s) = _
  rw [hostAccess_awake _ s hs, writeEspSel, unavailable_loom ht]

theorem exec_expSel : exec (.expSel v) s =
    .next ((s.setFld fLoom_EXP_SEL_RULE (bits v 5 0)).modLoom ({ · with expReq := some (bits v 5 0) })) := by
  show Host.Outcome.next (hostAccess (writeExpSel v) s) = _
  rw [hostAccess_awake _ s hs, writeExpSel, unavailable_loom ht]

theorem exec_ingCntClr : exec (.ingCntClr v) s =
    .next (if v.getLsbD 0 then (List.range 6).foldl (fun a c => a.setReg (rLoom_PUNT_DROP c) 0) s else s) := by
  show Host.Outcome.next (hostAccess (writeIngCtl v) s) = _
  rw [hostAccess_awake _ s hs, writeIngCtl, unavailable_loom ht]

theorem exec_egrCntClr : exec (.egrCntClr v) s =
    .next (if v.getLsbD 0 then
      ((List.range 8).foldl (fun a n => a.setReg (rLoom_EXP_DROP n) 0) s).modLoom ({ · with expCnt := [] }) else s) := by
  show Host.Outcome.next (hostAccess (writeEgrCtl v) s) = _
  rw [hostAccess_awake _ s hs, writeEgrCtl, unavailable_loom ht]

end

/-- A selector of the loom: its field, its request, and a result that is no longer valid. -/
theorem selector_effect (f : LoomSt → LoomSt) (sel stat : RegId) (hi n : Nat) (hne : sel ≠ stat) (hhi : fieldOk hi 0)
    (hn : n < 2 ^ (hi + 1)) (s : State) :
    (((s.setFld ⟨sel, hi, 0⟩ n).modLoom f).resultPending stat).fld ⟨sel, hi, 0⟩ = n ∧
    (((s.setFld ⟨sel, hi, 0⟩ n).modLoom f).resultPending stat).loom = f s.loom ∧
    onlyRegs (fun r => r = sel ∨ r = stat) s (((s.setFld ⟨sel, hi, 0⟩ n).modLoom f).resultPending stat) ∧
    onlyParts [.loom, .regs] s (((s.setFld ⟨sel, hi, 0⟩ n).modLoom f).resultPending stat) := by
  refine ⟨?_, rfl, ?_, ?_⟩
  · rw [(resultPending_onlyRegs _ stat).fld (P := fun x => x = stat) hne,
      State.fld_congr (t := (s.setFld ⟨sel, hi, 0⟩ n).modLoom f) (s := s.setFld ⟨sel, hi, 0⟩ n) rfl]
    rw [State.fld, State.setFld, State.reg_setReg_self, bits_putBits_self _ _ hhi, Nat.sub_zero, Nat.mod_eq_of_lt hn]
  · exact (((setFld_onlyReg s sel hi 0 n).mono fun _ => .inl).trans (modLoom_onlyParts _ f).regsKept.of_none).andThen
      (resultPending_onlyRegs _ stat) fun _ => .inr
  · exact (((setFld_onlyParts s _ n).mono (by decide)).andThen (modLoom_onlyParts _ f)).andThen (resultPending_onlyParts _ stat)

/-! ## Counts set to 0 -/

theorem foldl_clear (f : Nat → RegId) (l : List Nat) (s : State) :
    (∀ c ∈ l, (l.foldl (fun a c => a.setReg (f c) 0) s).reg (f c) = 0#32) ∧
    onlyRegs (fun r => ∃ c ∈ l, r = f c) s (l.foldl (fun a c => a.setReg (f c) 0) s) ∧
    onlyParts [.regs] s (l.foldl (fun a c => a.setReg (f c) 0) s) := by
  refine ⟨?_, onlyRegs.foldl (fun a c hc => (setReg_onlyRegs a _ _).mono fun r hr => ⟨c, hc, hr⟩) s,
    onlyParts.foldl (fun a c => setReg_onlyParts a _ _) l s⟩
  induction l using List.reverseRecOn with
  | nil => simp
  | append_singleton l x ih =>
    intro c hc
    rw [List.foldl_append, List.foldl_cons, List.foldl_nil, State.reg_setReg]
    split_ifs with hcx
    · rfl
    · rcases List.mem_append.1 hc with hc | hc
      · exact ih c hc
      · exact absurd (by rw [List.mem_singleton.1 hc]) hcx

/-! ## Snapshots -/

/-- A word of two counts, as the snapshot registers hold them. -/
theorem fld_two_counts {s : State} {r : RegId} {a b : Nat} (h : s.reg r = BitVec.ofNat 32 (a * 65536 + b)) (hb : b < 65536) :
    s.fld ⟨r, 15, 0⟩ = b ∧ s.fld ⟨r, 31, 16⟩ = a % 65536 := by
  simp only [State.fld, h, bits_ofNat]
  omega

theorem snapshot_isp {port : Nat} {p : Isp} {s : State} (hd : s.dark = false) (hreq : s.loom.ispReq = some port)
    (hp : s.isp port = some p) :
    exec (.snapshotReady .isp) s = .next ((((s.modLoom ({ · with ispReq := none })).setReg rLoom_ISP_CNT
      (BitVec.ofNat 32 (p.lost * 65536 + p.late))).setReg rLoom_ISP_STAT (BitVec.ofNat 32 (ispWords (some p)).1)).resultReady
        rLoom_ISP_STAT) := by
  show execSnapshotReady .isp s = _
  rw [execSnapshotReady, hd, if_neg Bool.false_ne_true]
  simp only [ispReady, hreq, hp]
  rfl

theorem snapshot_esp {port : Nat} {p : Esp} {s : State} (hd : s.dark = false) (hreq : s.loom.espReq = some port)
    (hp : s.esp port = some p) :
    exec (.snapshotReady .esp) s = .next ((((((s.modLoom ({ · with espReq := none })).setReg rLoom_ESP_SHOWN
      (BitVec.ofNat 32 ((p.last.map (·.1)).getD 0 % 2 ^ 32))).setReg rLoom_ESP_CNT0 (BitVec.ofNat 32 (p.rept * 65536 + p.drop))).setReg
      rLoom_ESP_CNT1 (BitVec.ofNat 32 (p.lost * 65536 + min 255 p.late * 256 + min 255 p.torn))).setReg
      rLoom_ESP_STAT (BitVec.ofNat 32 (espWords (some p)).1)).resultReady rLoom_ESP_STAT) := by
  show execSnapshotReady .esp s = _
  rw [execSnapshotReady, hd, if_neg Bool.false_ne_true]
  simp only [espReady, hreq, hp]
  rfl

theorem snapshot_exp {rule : Nat} {s : State} (hd : s.dark = false) (hreq : s.loom.expReq = some rule) :
    exec (.snapshotReady .exp) s = .next ((s.modLoom ({ · with expReq := none })).setReg rLoom_EXP_CNT
      (BitVec.ofNat 32 ((Tab.get (0, 0) s.loom.expCnt rule).2 * 65536 + (Tab.get (0, 0) s.loom.expCnt rule).1))) := by
  show execSnapshotReady .exp s = _
  rw [execSnapshotReady, hd, if_neg Bool.false_ne_true]
  simp only [expReady, hreq]

/-- Settles O17: a rule's record is installed or removed, a selector and a snapshot write their own registers, and CNT_CLR
goes through the list of counts. -/
theorem expressRulesAndLoomSnapshots : Obligations.ExpressRulesAndLoomSnapshots := by
  unfold Obligations.ExpressRulesAndLoomSnapshots
  refine ⟨fun h rule r s ht htest hlen hres hok => ⟨_, exec_expRule ht htest hlen hres hok, ?_⟩, fun v s hs ht => ⟨?_, ?_, ?_⟩,
    fun port p s hd hreq hp hlate => ⟨_, snapshot_isp hd hreq hp, ?_⟩,
    fun port p s hd hreq hp hdrop hrept hlost => ⟨_, snapshot_esp hd hreq hp, ?_⟩,
    fun rule s hd hreq hfwd => ⟨_, snapshot_exp hd hreq, ?_⟩, fun v s hs ht hv => ?_, fun v s hs ht hv => ⟨?_, ?_⟩⟩
  · obtain ⟨-, -, -, hq, hbme, -⟩ := State.takesPf_elim rfl ht
    obtain ⟨g, hg⟩ : ∃ g : LoomSt → LoomSt, g = fun m =>
      { m with rules := if (field r 0 1).testBit 0 then Tab.set m.rules rule (ruleOf r) else Tab.erase m.rules rule } := ⟨_, rfl⟩
    rw [← hg]
    have hmod := modLoom_onlyParts (s.begun h.qp) g
    have hshow := showEgress_onlyParts ((s.begun h.qp).modLoom g)
    obtain ⟨hc, hregs, hparts, hlast⟩ := completes_after eOk [] hq hbme (hmod.regsKept.of_none.trans (showEgress_onlyRegs _))
      (fun x hx => by subst hx; decide) ((hmod.mono (l' := [.loom, .regs]) (by decide)).andThen hshow)
    exact ⟨hc, ((hlast .loom (by decide)).trans (hshow .loom (by decide))).trans (by rw [hg]; rfl), hregs, hparts.mono (by decide)⟩
  · obtain ⟨hsel, hloom, hregs, hparts⟩ := selector_effect ({ · with ispReq := some (bits v 9 0) }) rLoom_ISP_SEL rLoom_ISP_STAT 9
      (bits v 9 0) (by decide) ⟨by decide, by decide⟩ (bits_lt v 9 0) s
    exact ⟨_, exec_ispSel hs ht, hsel, hloom, (resultPending_valid _ _).1, (resultPending_valid _ _).2, hregs, hparts⟩
  · obtain ⟨hsel, hloom, hregs, hparts⟩ := selector_effect ({ · with espReq := some (bits v 9 0) }) rLoom_ESP_SEL rLoom_ESP_STAT 9
      (bits v 9 0) (by decide) ⟨by decide, by decide⟩ (bits_lt v 9 0) s
    exact ⟨_, exec_espSel hs ht, hsel, hloom, (resultPending_valid _ _).1, (resultPending_valid _ _).2, hregs, hparts⟩
  · refine ⟨_, exec_expSel hs ht, ?_, rfl, ?_, ?_⟩
    · show (s.setFld fLoom_EXP_SEL_RULE (bits v 5 0)).fld fLoom_EXP_SEL_RULE = _
      rw [State.fld, State.setFld, State.reg_setReg_self, bits_putBits_self _ _ ⟨by decide, by decide⟩, Nat.mod_eq_of_lt (bits_lt v 5 0)]
    · exact (setFld_onlyReg s _ _ _ _).trans (modLoom_onlyParts _ _).regsKept.of_none
    · exact ((setFld_onlyParts s _ _).mono (by decide)).andThen (modLoom_onlyParts _ _)
  · obtain ⟨hvalid, hfresh⟩ := resultReady_valid (((s.modLoom ({ · with ispReq := none })).setReg rLoom_ISP_CNT
      (BitVec.ofNat 32 (p.lost * 65536 + p.late))).setReg rLoom_ISP_STAT (BitVec.ofNat 32 (ispWords (some p)).1)) rLoom_ISP_STAT
    obtain ⟨h1, h2⟩ := fld_two_counts (s := (((s.modLoom ({ · with ispReq := none })).setReg rLoom_ISP_CNT
      (BitVec.ofNat 32 (p.lost * 65536 + p.late))).setReg rLoom_ISP_STAT (BitVec.ofNat 32 (ispWords (some p)).1)).resultReady
        rLoom_ISP_STAT) (r := rLoom_ISP_CNT) (a := p.lost) (by simp [State.resultReady]) hlate
    refine ⟨h1, h2, hvalid, hfresh, rfl, ?_, ?_⟩
    · exact (((modLoom_onlyParts s _).regsKept.of_none.trans ((setReg_onlyRegs _ _ _).mono fun _ => .inl)).andThen
        (setReg_onlyRegs _ _ _) fun _ => .inr).andThen (resultReady_onlyRegs _ _) fun _ => .inr
    · exact ((((modLoom_onlyParts s _).mono (by decide)).andThen (setReg_onlyParts _ _ _)).andThen (setReg_onlyParts _ _ _)).andThen
        (resultReady_onlyParts _ _)
  · obtain ⟨u, hu⟩ : ∃ u, u = (((((s.modLoom ({ · with espReq := none })).setReg rLoom_ESP_SHOWN
      (BitVec.ofNat 32 ((p.last.map (·.1)).getD 0 % 2 ^ 32))).setReg rLoom_ESP_CNT0 (BitVec.ofNat 32 (p.rept * 65536 + p.drop))).setReg
      rLoom_ESP_CNT1 (BitVec.ofNat 32 (p.lost * 65536 + min 255 p.late * 256 + min 255 p.torn))).setReg
      rLoom_ESP_STAT (BitVec.ofNat 32 (espWords (some p)).1)) := ⟨_, rfl⟩
    rw [← hu]
    obtain ⟨hvalid, hfresh⟩ := resultReady_valid u rLoom_ESP_STAT
    have hshown : (u.resultReady rLoom_ESP_STAT).reg rLoom_ESP_SHOWN = BitVec.ofNat 32 ((p.last.map (·.1)).getD 0 % 2 ^ 32) := by
      simp [State.resultReady, hu]
    have hcnt0 : (u.resultReady rLoom_ESP_STAT).reg rLoom_ESP_CNT0 = BitVec.ofNat 32 (p.rept * 65536 + p.drop) := by
      simp [State.resultReady, hu]
    have hcnt1 : (u.resultReady rLoom_ESP_STAT).reg rLoom_ESP_CNT1 =
        BitVec.ofNat 32 (p.lost * 65536 + (min 255 p.late * 256 + min 255 p.torn)) := by
      simp [State.resultReady, hu, Nat.add_assoc]
    obtain ⟨h1, h2⟩ := fld_two_counts hcnt0 hdrop
    obtain ⟨-, h3⟩ := fld_two_counts hcnt1 (by omega)
    refine ⟨h1, h2.trans (Nat.mod_eq_of_lt hrept), h3.trans (Nat.mod_eq_of_lt hlost), ?_, ?_, ?_, hvalid, hfresh, by rw [hu]; rfl, ?_, ?_⟩
    · simp only [State.fld, hcnt1, bits_ofNat]; omega
    · simp only [State.fld, hcnt1, bits_ofNat]; omega
    · simp only [State.fld, hshown, bits_ofNat]; omega
    · subst hu
      intro r hr
      obtain ⟨n1, n2, n3, n4⟩ : r ≠ rLoom_ESP_SHOWN ∧ r ≠ rLoom_ESP_CNT0 ∧ r ≠ rLoom_ESP_CNT1 ∧ r ≠ rLoom_ESP_STAT := by
        simpa [not_or] using hr
      simp only [State.resultReady, State.reg_setReg_ne _ _ n1, State.reg_setReg_ne _ _ n2, State.reg_setReg_ne _ _ n3,
        State.reg_setReg_ne _ _ n4]
      exact State.reg_congr rfl r
    · subst hu
      exact ((((((modLoom_onlyParts s _).mono (by decide)).andThen (setReg_onlyParts _ _ _)).andThen (setReg_onlyParts _ _ _)).andThen
        (setReg_onlyParts _ _ _)).andThen (setReg_onlyParts _ _ _)).andThen (resultReady_onlyParts _ _)
  · obtain ⟨h1, h2⟩ := fld_two_counts (State.reg_setReg_self (s.modLoom ({ · with expReq := none })) rLoom_EXP_CNT
      (BitVec.ofNat 32 ((Tab.get (0, 0) s.loom.expCnt rule).2 * 65536 + (Tab.get (0, 0) s.loom.expCnt rule).1))) hfwd
    exact ⟨h1, h2, rfl, (modLoom_onlyParts s _).regsKept.of_none.trans (setReg_onlyRegs _ _ _),
      ((modLoom_onlyParts s _).mono (by decide)).andThen (setReg_onlyParts _ _ _)⟩
  · rw [exec_ingCntClr hs ht, exec_egrCntClr hs ht, hv]
    exact ⟨rfl, rfl⟩
  · obtain ⟨hz, hr, hp⟩ := foldl_clear rLoom_PUNT_DROP (List.range 6) s
    refine ⟨_, (exec_ingCntClr hs ht).trans (by rw [hv, if_pos rfl]), fun c hc => hz c (List.mem_range.2 hc), ?_, hp⟩
    exact hr.mono fun r ⟨c, hc, h⟩ => ⟨c, List.mem_range.1 hc, h⟩
  · obtain ⟨hz, hr, hp⟩ := foldl_clear rLoom_EXP_DROP (List.range 8) s
    refine ⟨_, (exec_egrCntClr hs ht).trans (by rw [hv, if_pos rfl]), fun n hn => ?_, ?_, ?_, ?_⟩
    · exact (State.reg_congr rfl _).trans (hz n (List.mem_range.2 hn))
    · exact congrArg (fun m : LoomSt => { m with expCnt := [] }) (hp .loom (by decide))
    · exact (hr.mono fun r ⟨c, hc, h⟩ => ⟨c, List.mem_range.1 hc, h⟩).trans (modLoom_onlyParts _ _).regsKept.of_none
    · exact (hp.mono (by decide)).andThen (modLoom_onlyParts _ _)

end Sys2Proof.Machine
end

section
/-! SUPPORT. Frames that leave a MAC (R29). -/

-- The checked text is one long file: elaborating these in order bounds its threads and memory.
set_option Elab.async false

namespace Sys2Proof.Machine

/-- An express frame. -/
def anExpressFrame : TxFrame := { src := .express 0 0, data := [] }

/-- Lane 0 in NRZ mode with its transmitter ACTIVE, where an express frame stands in the queue of host frames. No row puts it
there, but a `State` may hold one. -/
def misplacedExpress : State :=
  ({ State.reset with regs := [(rLn_MODE_STAT 0, 1#32), (rLn_TX_STAT 0, 3#32)] }).setLane 0 { host := [anExpressFrame] }

/-- Refutes O18: a frame that leaves and comes of no SEND is claimed to be the first of the express or of the media queue,
whatever the state; but a MAC whose other queues are empty takes the first of the host queue, whatever the source that it names. -/
theorem not_framesAndPacketsLeave : ¬ Obligations.FramesAndPacketsLeave := by
  unfold Obligations.FramesAndPacketsLeave
  rintro ⟨hstart, -⟩
  obtain ⟨t, -, -, -, -, hfrom, -⟩ := hstart 0 anExpressFrame { host := [] } misplacedExpress (by decide) (by decide) (by decide) (by decide)
    (by simp [anExpressFrame])
  exact absurd hfrom (by decide)

end Sys2Proof.Machine
end

section
/-! SUPPORT. PTM dialogs, the firmware servo and STROKE_IN (R188, R192, R193, R198, R200). -/

-- The checked text is one long file: elaborating these in order bounds its threads and memory.
set_option Elab.async false

namespace Sys2Proof.Machine

/-! ## Fields that hold a signed number -/

theorem signed_unsigned {n : Nat} {v : Int} (hn : 0 < n) (hlo : -(2 ^ (n - 1) : Nat) ≤ v) (hhi : v < (2 ^ (n - 1) : Nat)) :
    signed n (unsigned n v) = v := by
  obtain ⟨m, rfl⟩ := Nat.exists_eq_succ_of_ne_zero hn.ne'
  simp only [Nat.succ_eq_add_one, Nat.add_sub_cancel] at hlo hhi
  simp only [signed, unsigned, Nat.succ_eq_add_one, Nat.add_sub_cancel]
  have hp : (2 : Nat) ^ (m + 1) = 2 * 2 ^ m := by rw [pow_succ, Nat.mul_comm]
  rw [hp]
  generalize 2 ^ m = p at *
  rcases Int.lt_or_le v 0 with h | h
  · have : v % ((2 * p : Nat) : Int) = v + (2 * p : Nat) := by
      rw [← Int.add_emod_right, Int.emod_eq_of_lt (by omega) (by omega)]
    rw [this, Nat.mod_eq_of_lt (by omega), if_neg (by omega)]
    omega
  · rw [Int.emod_eq_of_lt h (by omega), Nat.mod_eq_of_lt (by omega), if_pos (by omega)]
    omega

theorem State.sfld_setSFld_self (s : State) (r : RegId) {hi lo : Nat} {v : Int} (h : fieldOk hi lo)
    (hlo : -(2 ^ (hi - lo) : Nat) ≤ v) (hhi : v < (2 ^ (hi - lo) : Nat)) : (s.setSFld ⟨r, hi, lo⟩ v).sfld ⟨r, hi, lo⟩ = v := by
  obtain ⟨h1, h2⟩ := h
  have hw : hi + 1 - lo - 1 = hi - lo := by omega
  rw [State.sfld, State.setSFld, State.fld, State.setFld, State.reg_setReg_self, bits_putBits_self _ _ ⟨h1, h2⟩]
  have hmod : signed (hi + 1 - lo) (unsigned (hi + 1 - lo) v % 2 ^ (hi + 1 - lo)) = signed (hi + 1 - lo) (unsigned (hi + 1 - lo) v) := by
    simp only [signed, Nat.mod_mod]
  rw [hmod]
  exact signed_unsigned (by omega) (by rw [hw]; exact hlo) (by rw [hw]; exact hhi)

theorem onlyRegs.sfld {P : RegId → Prop} {s t : State} {r : RegId} {hi lo : Nat} (h : onlyRegs P s t) (hr : ¬ P r) :
    t.sfld ⟨r, hi, lo⟩ = s.sfld ⟨r, hi, lo⟩ := by
  simp [State.sfld, h.fld hr]

theorem State.fld_setFld_self_of_lt (s : State) (r : RegId) {hi lo v : Nat} (h : fieldOk hi lo) (hv : v < 2 ^ (hi + 1 - lo)) :
    (s.setFld ⟨r, hi, lo⟩ v).fld ⟨r, hi, lo⟩ = v := by
  rw [State.fld, State.setFld, State.reg_setReg_self, bits_putBits_self _ _ h, Nat.mod_eq_of_lt hv]

/-! ## The parts of the time -/

/-- The time's own state changed. -/
def State.modTime (s : State) (f : TimeSt → TimeSt) : State := { s with time := f s.time }

theorem modTime_onlyParts (s : State) (f : TimeSt → TimeSt) : onlyParts [.time] s (s.modTime f) := by
  intro p hp
  cases p <;> simp_all [Part.same, State.modTime]

theorem modTime_onlyRegs (s : State) (f : TimeSt → TimeSt) : onlyRegs (fun _ => False) s (s.modTime f) := (modTime_onlyParts s f).regsKept

theorem setServo_eq (s : State) (v : Nat) :
    s.setServo v = (s.setFld fCox_TB_STAT_SERVO_STATE v).modTime ({ · with runIn := 0, runOut := 0 }) := rfl

theorem setServo_onlyParts (s : State) (v : Nat) : onlyParts [.time, .regs] s (s.setServo v) := by
  rw [setServo_eq]
  exact ((setFld_onlyParts s _ v).mono (by decide)).andThen (modTime_onlyParts _ _)

theorem setServo_onlyRegs (s : State) (v : Nat) : onlyRegs (fun r => r = rCox_TB_STAT) s (s.setServo v) := by
  rw [setServo_eq]
  exact (setFld_onlyReg s _ _ _ v).trans (modTime_onlyRegs _ _).of_none

theorem servo_setServo (s : State) {v : Nat} (hv : v < 8) : (s.setServo v).servo = v := by
  rw [State.servo, setServo_eq, State.fld_congr (t := State.modTime _ _) (s := s.setFld fCox_TB_STAT_SERVO_STATE v) rfl]
  exact State.fld_setFld_self_of_lt s _ ⟨by decide, by decide⟩ hv

theorem servo_congr {P : RegId → Prop} {s t : State} (h : onlyRegs P s t) (hP : ¬ P rCox_TB_STAT) : t.servo = s.servo := h.fld hP

theorem noteLocked_onlyParts (s : State) : onlyParts [.time] s (noteLocked s) := by
  unfold noteLocked
  split_ifs
  · exact modTime_onlyParts s fun m => { m with hist := takeDur (64 * secU) ((s.up - m.lastAt, s.sfld fCox_TB_FREQ_FREQ) :: m.hist), lastAt := s.up }
  · exact .refl _ s

theorem steer_onlyParts (ppm dur : Nat) (x : Int) (s : State) : onlyParts [.free, .regs] s (steer ppm dur x s) :=
  ((tick_onlyParts s).mono (by decide)).andThen (setSFld_onlyParts _ _ _)

theorem steer_onlyRegs (ppm dur : Nat) (x : Int) (s : State) : onlyRegs (fun r => r = rCox_TB_FREQ) s (steer ppm dur x s) :=
  (tick_onlyParts s).regsKept.of_none.trans (setSFld_onlyReg _ _ _ _ _)

/-- A steering moves the frequency by no more than its limit (R188). -/
theorem steer_freq {ppm dur : Nat} {x lim : Int} {s : State} (hlim : lim = ((ppm * 65536 * dur / secU : Nat) : Int))
    (hlo : -2147483648 ≤ s.sfld fCox_TB_FREQ_FREQ - lim) (hhi : s.sfld fCox_TB_FREQ_FREQ + lim < 2147483648) :
    ((steer ppm dur x s).sfld fCox_TB_FREQ_FREQ - s.sfld fCox_TB_FREQ_FREQ).natAbs ≤ lim.natAbs := by
  have h0 : 0 ≤ lim := by rw [hlim]; exact Int.natCast_nonneg _
  simp only [steer, ← hlim]
  generalize Config.servoFreq _ _ _ _ = want
  rw [State.sfld_setSFld_self _ _ ⟨by decide, by decide⟩ (by push_cast; omega) (by push_cast; omega)]
  omega

theorem toHoldover_onlyParts (s : State) : onlyParts [.time, .regs] s (toHoldover s) := by
  have h := ((noteLocked_onlyParts s).mono (l' := [.time, .regs]) (by decide)).andThen (setServo_onlyParts (noteLocked s) svHoldover)
  unfold toHoldover
  dsimp only
  split_ifs
  · exact h
  · exact h.andThen (setSFld_onlyParts _ _ _)

theorem toHoldover_onlyRegs (s : State) : onlyRegs (fun r => r = rCox_TB_STAT ∨ r = rCox_TB_FREQ) s (toHoldover s) := by
  have h : onlyRegs (fun r => r = rCox_TB_STAT ∨ r = rCox_TB_FREQ) s ((noteLocked s).setServo svHoldover) :=
    (noteLocked_onlyParts s).regsKept.of_none.trans ((setServo_onlyRegs _ _).mono fun _ => .inl)
  unfold toHoldover
  dsimp only
  split_ifs
  · exact h
  · exact h.andThen (setSFld_onlyReg _ _ _ _ _) fun _ => .inr

theorem servo_toHoldover (s : State) : (toHoldover s).servo = svHoldover := by
  have h := servo_setServo (noteLocked s) (v := svHoldover) (by decide)
  unfold toHoldover
  dsimp only
  split_ifs
  · exact h
  · exact (servo_congr (setSFld_onlyReg _ rCox_TB_FREQ _ _ _) (by decide)).trans h

/-! ## PTM -/

/-- A dialog starts where PTM is enabled and possible (R192). -/
theorem ptmStart_effect {b : Bool} {s : State} (hb : (s.on fCox_PTM_CTL_EN && s.host.cfg.ptm) = b) :
    (ptmStart s).host.out = (if b then [.ptmRequest] else []) ++ s.host.out ∧
    (ptmStart s).time = { s.time with ptm := s.time.ptm ++ if b then [s.tb] else [] } ∧
    onlyRegs (fun _ => False) s (ptmStart s) ∧ onlyParts [.time, .out] s (ptmStart s) := by
  simp only [ptmStart, hb]
  cases b with
  | false => exact ⟨rfl, by simp, .refl _ s, .refl _ s⟩
  | true =>
    exact ⟨rfl, rfl, (emit_onlyRegs s _).trans (modTime_onlyRegs _ ({ · with ptm := s.time.ptm ++ [s.tb] })),
      ((emit_onlyParts s _).mono (by decide)).andThen (modTime_onlyParts _ ({ · with ptm := s.time.ptm ++ [s.tb] }))⟩

/-- PTM_CTL as a write of `v` leaves it. -/
def ptmCtlWritten (v : W32) (s : State) : State :=
  (s.setFld fCox_PTM_CTL_EN (bits v 31 31)).setFld fCox_PTM_CTL_INTERVAL (bits v 15 0)

theorem exec_ptmGo {v : W32} {s : State} (hs : s.awake = true) (hc : v.getLsbD 31 = true → s.host.cfg.ptm = true)
    (hi : bits v 15 0 ≠ 0) :
    exec (.ptmGo v) s = .next (if v.getLsbD 30 then ptmStart (ptmCtlWritten v s) else ptmCtlWritten v s) := by
  have hok : firstFail [(v.getLsbD 31 && !s.host.cfg.ptm, eState), (bits v 15 0 == 0, eRange)] = none := by
    cases h : v.getLsbD 31 with
    | false => simp [firstFail, hi]
    | true => simp [firstFail, hi, hc h]
  show Host.Outcome.next (hostAccess (fun s => writePtmCtl v s) s) = _
  rw [hostAccess_awake _ s hs, writePtmCtl, hok]
  rfl

theorem ptmCtlWritten_frame (v : W32) (s : State) :
    onlyRegs (fun r => r = rCox_PTM_CTL) s (ptmCtlWritten v s) ∧ onlyParts [.regs] s (ptmCtlWritten v s) :=
  ⟨(setFld_onlyReg s _ _ _ _).trans (setFld_onlyReg _ _ _ _ _), (setFld_onlyParts s _ _).trans (setFld_onlyParts _ _ _)⟩

theorem ptmCtlWritten_en (v : W32) (s : State) : (ptmCtlWritten v s).fld fCox_PTM_CTL_EN = bits v 31 31 := by
  exact (State.fld_setFld_other _ _ _ _ _ _ _ (by decide) (by decide) (by decide) (by decide) (by decide)).trans
    (State.fld_setFld_self_of_lt s _ ⟨by decide, by decide⟩ (bits_lt v 31 31))

theorem ptmCtlWritten_interval (v : W32) (s : State) : (ptmCtlWritten v s).fld fCox_PTM_CTL_INTERVAL = bits v 15 0 :=
  State.fld_setFld_self_of_lt _ _ ⟨by decide, by decide⟩ (bits_lt v 15 0)

theorem ptmCtlWritten_on (v : W32) (s : State) : (ptmCtlWritten v s).on fCox_PTM_CTL_EN = v.getLsbD 31 := by
  rw [State.on, ptmCtlWritten_en, getLsbD_eq_bits]
  have := bits_lt v 31 31
  rcases Nat.lt_or_ge 0 (bits v 31 31) with h | h
  · have h1 : bits v 31 31 = 1 := by omega
    rw [h1]; rfl
  · have h0 : bits v 31 31 = 0 := by omega
    rw [h0]; rfl

/-- What PTM_CTL's write leaves: its fields, and a dialog where GO is written with EN. -/
theorem ptmGo_effect {v : W32} {s : State} (hs : s.awake = true) (hc : v.getLsbD 31 = true → s.host.cfg.ptm = true)
    (hi : bits v 15 0 ≠ 0) : ∃ t, exec (.ptmGo v) s = .next t ∧
      t.host.out = (if v.getLsbD 31 && v.getLsbD 30 then [.ptmRequest] else []) ++ s.host.out ∧
      t.time = { s.time with ptm := s.time.ptm ++ if v.getLsbD 31 && v.getLsbD 30 then [s.tb] else [] } ∧
      t.fld fCox_PTM_CTL_EN = bits v 31 31 ∧ t.fld fCox_PTM_CTL_INTERVAL = bits v 15 0 ∧ onlyRegs (fun r => r = rCox_PTM_CTL) s t ∧
      onlyParts [.time, .regs, .out] s t := by
  obtain ⟨hr, hp⟩ := ptmCtlWritten_frame v s
  have hen := ptmCtlWritten_en v s
  have hint := ptmCtlWritten_interval v s
  have hon := ptmCtlWritten_on v s
  refine ⟨_, exec_ptmGo hs hc hi, ?_⟩
  generalize ptmCtlWritten v s = u at *
  have hout : u.host.out = s.host.out := hp .out (by decide)
  have htime : u.time = s.time := hp .time (by decide)
  have htb : u.tb = s.tb := hp .tb (by decide)
  have hcfg : u.host.cfg = s.host.cfg := hp .cfg (by decide)
  cases h30 : v.getLsbD 30 with
  | false =>
    rw [if_neg Bool.false_ne_true]
    exact ⟨by simpa using hout, by simpa using htime, hen, hint, hr, hp.mono (by decide)⟩
  | true =>
    have hb : (u.on fCox_PTM_CTL_EN && u.host.cfg.ptm) = v.getLsbD 31 := by
      rw [hon, hcfg]
      cases h31 : v.getLsbD 31 with
      | false => rfl
      | true => rw [hc h31]; rfl
    obtain ⟨h1, h2, h3, h4⟩ := ptmStart_effect hb
    rw [hout] at h1
    rw [htime, htb] at h2
    rw [if_pos rfl, Bool.and_true]
    exact ⟨h1, h2, (h3.fld id).trans hen, (h3.fld id).trans hint, hr.trans h3.of_none, (hp.mono (by decide)).andThen h4⟩

end Sys2Proof.Machine
end

section
/-! SUPPORT. The samples of the firmware servo (R188), case by case. -/

-- The checked text is one long file: elaborating these in order bounds its threads and memory.
set_option Elab.async false

namespace Sys2Proof.Machine

/-! ## A step of the timebase (R189, R202) -/

theorem setGen_onlyParts (s : State) (k : Nat) (g : Gen) : onlyParts [.gens] s (s.setGen k g) := by
  intro p hp
  cases p <;> simp_all [Part.same, State.setGen]

theorem State.gen_setGen (s : State) (k i : Nat) (g : Gen) : (s.setGen k g).gen i = if k = i then g else s.gen i := Tab.get_set _ _ _ _ _

theorem State.gen_congr {s t : State} (h : t.gens = s.gens) (k : Nat) : t.gen k = s.gen k := by simp [State.gen, h]

theorem repick_onlyParts (last : Bool) (k : Nat) (s : State) : onlyParts [.gens] s (repick last k s) := by
  unfold repick
  dsimp only
  cases (s.gen k).new with
  | none => exact .refl _ s
  | some n =>
    dsimp only
    split_ifs
    · exact setGen_onlyParts s k _
    · exact .refl _ s

theorem genStep_onlyParts (v : Int) (k : Nat) (s : State) : onlyParts [.gens] s (genStep v k s) :=
  (setGen_onlyParts s k _).trans (repick_onlyParts _ k _)

theorem keepPaced_onlyParts (v : Int) (s : State) : onlyParts [.loom, .lanes] s (keepPaced v s) := by
  intro p hp
  cases p <;> simp_all [Part.same, keepPaced]

/-- The timebase itself is set. -/
def State.setTb (s : State) (n : Nat) : State := { s with tb := n }

theorem setTb_onlyParts (s : State) (n : Nat) : onlyParts [.tb] s (s.setTb n) := by
  intro p hp
  cases p <;> simp_all [Part.same, State.setTb]

/-- The timebase after a step, before its servo and its generators act on it. -/
def steppedTb (v : Int) (s : State) : State :=
  raise_ fCox_TB_EVENT_STEPPED (keepPaced v ((s.setTb ((s.tb : Int) + v).toNat).modTime ({ · with ppsAt := none })))

theorem steppedTb_onlyParts (v : Int) (s : State) :
    onlyParts [.tb, .time, .loom, .lanes, .rings, .regs, .out] s (steppedTb v s) :=
  (((setTb_onlyParts s _).mono (by decide)).andThen (modTime_onlyParts _ _)).andThen (keepPaced_onlyParts v _) |>.andThen
    (raise_onlyParts _ _)

theorem steppedTb_onlyRegs (v : Int) (s : State) : onlyRegs (fun r => r = rCox_TB_EVENT ∨ noteReg r) s (steppedTb v s) :=
  (((setTb_onlyParts s _).regsKept.of_none.trans (modTime_onlyRegs _ _).of_none).trans (keepPaced_onlyParts v _).regsKept.of_none).trans
    (raise_onlyRegs fCox_TB_EVENT_STEPPED _)

theorem raise_fld_self (r : RegId) {k : Nat} (s : State) (hk : k < 32) (hblk : r.blk ≠ .msix ∧ r.blk ≠ .nq) :
    (raise_ ⟨r, k, k⟩ s).fld ⟨r, k, k⟩ = 1 := by
  have h1 : k + 1 - k = 1 := by omega
  rw [raise_, eventNotice_fld _ _ _ _ _ _ _ hblk.1 hblk.2]
  exact State.fld_setFld_self_of_lt s r ⟨le_refl k, hk⟩ (by rw [h1]; decide)

theorem foldl_genStep_onlyParts (v : Int) (l : List Nat) (s : State) :
    onlyParts [.gens] s (l.foldl (fun a k => genStep v k a) s) :=
  onlyParts.foldl (fun a k => genStep_onlyParts v k a) l s

/-- A step where the servo is not LOCKED (R189). -/
theorem stepTimebase_unlocked {v : Int} {s : State} (h : s.servo ≠ svLocked) :
    stepTimebase v s = (List.range 4).foldl (fun a k => genStep v k a) (steppedTb v s) := by
  have hs : (steppedTb v s).fld fCox_TB_STAT_SERVO_STATE ≠ 2 := by
    rw [show (steppedTb v s).fld fCox_TB_STAT_SERVO_STATE = s.servo from servo_congr (steppedTb_onlyRegs v s) (by simp [noteReg])]
    exact h
  have hs' : ¬ ((steppedTb v s).fld fCox_TB_CTL_SERVO = 1 ∧ (steppedTb v s).fld fCox_TB_STAT_SERVO_STATE = 2) := fun hc => hs hc.2
  have heq : raise_ fCox_TB_EVENT_STEPPED
      (keepPaced v { s with tb := ((s.tb : Int) + v).toNat, time := { s.time with ppsAt := none } }) = steppedTb v s := rfl
  simp only [stepTimebase, heq, if_neg hs']

/-! ## The cases of a sample -/

/-- What the servo does with a sample, before it notes the sample's time (R188). -/
def servoActed (x : Int) (s : State) : State :=
  if s.servo = svCrew ∨ !s.houseRuns then s
  else if s.servo = svFreerun ∨ s.servo = svHoldover then s.setServo svAcquire
  else if s.servo = svAcquire then
    if s.fld fCox_SERVO_CFG_STEP_THR * nsU < x.natAbs then (stepTimebase (-x) s).modTime ({ · with runIn := 0 })
    else
      let n := if x.natAbs < 100 * nsU then s.time.runIn + 1 else 0
      let a := steer 20 (s.up - s.time.lastAt) x (s.modTime ({ · with runIn := n }))
      if 16 ≤ n then raise_ fCox_TB_EVENT_LOCKED (a.setServo svLocked) else a
  else if s.fld fCox_SERVO_CFG_STEP_THR * nsU < x.natAbs then
    if 4 ≤ s.time.runOut + 1 then (noteLocked s).setServo svAcquire
    else (noteLocked s).modTime ({ · with runOut := s.time.runOut + 1 })
  else steer 1 (s.up - s.time.lastAt) x ((noteLocked s).modTime ({ · with runOut := 0 }))

theorem servoSample_eq (x : Int) (s : State) :
    servoSample x s = (servoActed x s).modTime ({ · with lastAt := (servoActed x s).up }) := rfl

/-- The state in which the servo takes a sample: the low half that was held for the function is taken. -/
def servoTaken (fn : Nat) (s : State) : State :=
  (s.dropLo fn rCox_SERVO_IN_LO).modTime ({ · with servoLo := s.heldLo fn rCox_SERVO_IN_LO s.time.servoLo })

theorem exec_servoSample {fn : Nat} {v : W32} {s : State} (hs : s.awake = true) (hm : s.fld fCox_TB_CTL_SERVO = 1) :
    exec (.servoSample fn v) s =
      .next (servoSample (signed 64 (s.heldLo fn rCox_SERVO_IN_LO s.time.servoLo + 2 ^ 32 * v.toNat)) (servoTaken fn s)) := by
  show Host.Outcome.next (hostAccess (writeServoHi fn v) s) = _
  rw [hostAccess_awake _ s hs, writeServoHi, if_neg (by simp [hm])]
  rfl

theorem servoTaken_onlyParts (fn : Nat) (s : State) : onlyParts [.time, .loHeld] s (servoTaken fn s) := by
  intro p hp
  cases p <;> simp_all [Part.same, servoTaken, State.dropLo, State.modTime]

theorem servoTaken_onlyRegs (fn : Nat) (s : State) : onlyRegs (fun _ => False) s (servoTaken fn s) := (servoTaken_onlyParts fn s).regsKept

theorem houseRuns_congr {s t : State} (h : t.regs = s.regs) : t.houseRuns = s.houseRuns := by
  have hf (n : Nat) : t.fld (fSh_STAT_STATE n) = s.fld (fSh_STAT_STATE n) := State.fld_congr h _
  simp [State.houseRuns, hf]

section
variable {x : Int} {s : State}

theorem servoActed_idle (h : s.servo = svCrew ∨ s.houseRuns = false) : servoActed x s = s := by
  rw [servoActed, if_pos (by simpa using h)]

theorem servoActed_first (hr : s.houseRuns = true) (h : s.servo = svFreerun ∨ s.servo = svHoldover) :
    servoActed x s = s.setServo svAcquire := by
  rw [servoActed, if_neg (by rcases h with h | h <;> simp [h, hr]), if_pos h]

theorem servoActed_step (hr : s.houseRuns = true) (h : s.servo = svAcquire) (hx : s.fld fCox_SERVO_CFG_STEP_THR * nsU < x.natAbs) :
    servoActed x s = (stepTimebase (-x) s).modTime ({ · with runIn := 0 }) := by
  rw [servoActed, if_neg (by simp [h, hr]), if_neg (by simp [h]), if_pos h, if_pos hx]

theorem servoActed_acquire (hr : s.houseRuns = true) (h : s.servo = svAcquire) (hx : x.natAbs ≤ s.fld fCox_SERVO_CFG_STEP_THR * nsU)
    {n : Nat} (hn : n = if x.natAbs < 100 * nsU then s.time.runIn + 1 else 0) {a : State}
    (ha : a = steer 20 (s.up - s.time.lastAt) x (s.modTime ({ · with runIn := n }))) :
    servoActed x s = if 16 ≤ n then raise_ fCox_TB_EVENT_LOCKED (a.setServo svLocked) else a := by
  rw [servoActed, if_neg (by simp [h, hr]), if_neg (by simp [h]), if_pos h, if_neg (by omega), ha, hn]

theorem servoActed_track (hr : s.houseRuns = true) (h : s.servo = svLocked) (hx : x.natAbs ≤ s.fld fCox_SERVO_CFG_STEP_THR * nsU) :
    servoActed x s = steer 1 (s.up - s.time.lastAt) x ((noteLocked s).modTime ({ · with runOut := 0 })) := by
  rw [servoActed, if_neg (by simp [h, hr]), if_neg (by simp [h]), if_neg (by simp [h]), if_neg (by omega)]

theorem servoActed_out (hr : s.houseRuns = true) (h : s.servo = svLocked) (hx : s.fld fCox_SERVO_CFG_STEP_THR * nsU < x.natAbs) :
    servoActed x s = if 4 ≤ s.time.runOut + 1 then (noteLocked s).setServo svAcquire
      else (noteLocked s).modTime ({ · with runOut := s.time.runOut + 1 }) := by
  rw [servoActed, if_neg (by simp [h, hr]), if_neg (by simp [h]), if_neg (by simp [h]), if_pos hx]

/-- The note of the sample's time changes nothing but the time of the last sample. -/
theorem servoSample_frame {P : RegId → Prop} {l : List Part} (hr : onlyRegs P s (servoActed x s)) (hp : onlyParts l s (servoActed x s))
    (hl : Part.time ∈ l := by decide) (hu : Part.up ∉ l := by decide) :
    onlyRegs P s (servoSample x s) ∧ onlyParts l s (servoSample x s) ∧ (servoSample x s).time.lastAt = s.up ∧
      (∀ f, (servoSample x s).fld f = (servoActed x s).fld f) := by
  rw [servoSample_eq]
  refine ⟨hr.trans (modTime_onlyRegs _ _).of_none, hp.andThen (modTime_onlyParts _ _) (by simpa using hl), hp .up hu, fun f => ?_⟩
  exact State.fld_congr rfl f

end

/-! ## Each case as a whole -/

theorem steppedTb_tb (v : Int) (s : State) : (steppedTb v s).tb = ((s.tb : Int) + v).toNat :=
  (raise_onlyParts fCox_TB_EVENT_STEPPED _ .tb (by decide)).trans (keepPaced_onlyParts v _ .tb (by decide))

theorem steppedTb_event (v : Int) (s : State) : (steppedTb v s).fld fCox_TB_EVENT_STEPPED = 1 :=
  raise_fld_self rCox_TB_EVENT _ (by decide) (by decide)

theorem servoSample_step {x : Int} {s : State} (hr : s.houseRuns = true) (h : s.servo = svAcquire)
    (hx : s.fld fCox_SERVO_CFG_STEP_THR * nsU < x.natAbs) (htb : x ≤ s.tb) :
    ((servoSample x s).tb : Int) = s.tb - x ∧ (servoSample x s).servo = svAcquire ∧ (servoSample x s).fld fCox_TB_EVENT_STEPPED = 1 ∧
      onlyRegs (fun r => noteReg r ∨ r = rCox_TB_EVENT) s (servoSample x s) ∧
      onlyParts [.tb, .time, .gens, .loom, .lanes, .rings, .regs, .out] s (servoSample x s) := by
  obtain ⟨w, hw⟩ : ∃ w, w = (List.range 4).foldl (fun a k => genStep (-x) k a) (steppedTb (-x) s) := ⟨_, rfl⟩
  have hact : servoActed x s = w.modTime ({ · with runIn := 0 }) := by
    rw [servoActed_step hr h hx, stepTimebase_unlocked (by rw [h]; decide), ← hw]
  have hgen : onlyParts [.gens] (steppedTb (-x) s) w := hw ▸ foldl_genStep_onlyParts (-x) (List.range 4) (steppedTb (-x) s)
  have hwr : onlyRegs (fun r => noteReg r ∨ r = rCox_TB_EVENT) s w :=
    ((steppedTb_onlyRegs (-x) s).mono fun _ => Or.symm).trans hgen.regsKept.of_none
  have hwp : onlyParts [.tb, .time, .gens, .loom, .lanes, .rings, .regs, .out] s w :=
    ((steppedTb_onlyParts (-x) s).mono (by decide)).andThen hgen
  have hregs : onlyRegs (fun r => noteReg r ∨ r = rCox_TB_EVENT) s (servoActed x s) := hact ▸ hwr.trans (modTime_onlyRegs _ _).of_none
  have hparts : onlyParts [.tb, .time, .gens, .loom, .lanes, .rings, .regs, .out] s (servoActed x s) :=
    hact ▸ hwp.andThen (modTime_onlyParts _ _)
  obtain ⟨h1, h2, -, h4⟩ := servoSample_frame hregs hparts
  have htime : (servoSample x s).tb = ((s.tb : Int) + -x).toNat := by
    rw [servoSample_eq, hact]
    exact (hgen .tb (by decide)).trans (steppedTb_tb (-x) s)
  refine ⟨by rw [htime]; omega, (servo_congr h1 (by simp [noteReg])).trans h, ?_, h1, h2⟩
  rw [h4, hact]
  exact (State.fld_congr (hgen .regs (by decide)) _).trans (steppedTb_event (-x) s)

theorem servoSample_acquire {x lim : Int} {s : State} (hr : s.houseRuns = true) (h : s.servo = svAcquire)
    (hx : x.natAbs ≤ s.fld fCox_SERVO_CFG_STEP_THR * nsU) (hlim : lim = ((20 * 65536 * (s.up - s.time.lastAt) / secU : Nat) : Int))
    (hlo : -2147483648 ≤ s.sfld fCox_TB_FREQ_FREQ - lim) (hhi : s.sfld fCox_TB_FREQ_FREQ + lim < 2147483648) :
    ((servoSample x s).sfld fCox_TB_FREQ_FREQ - s.sfld fCox_TB_FREQ_FREQ).natAbs ≤ lim.natAbs ∧
      (servoSample x s).servo = (if 15 ≤ s.time.runIn ∧ x.natAbs < 100 * nsU then svLocked else svAcquire) ∧
      (servoSample x s).time.lastAt = s.up ∧
      onlyRegs (fun r => noteReg r ∨ r = rCox_TB_EVENT ∨ r = rCox_TB_STAT ∨ r = rCox_TB_FREQ) s (servoSample x s) ∧
      onlyParts [.time, .free, .rings, .regs, .out] s (servoSample x s) := by
  obtain ⟨n, hn⟩ : ∃ n, n = if x.natAbs < 100 * nsU then s.time.runIn + 1 else 0 := ⟨_, rfl⟩
  obtain ⟨a, ha⟩ : ∃ a, a = steer 20 (s.up - s.time.lastAt) x (s.modTime ({ · with runIn := n })) := ⟨_, rfl⟩
  have hact := servoActed_acquire hr h hx hn ha
  have har : onlyRegs (fun r => r = rCox_TB_FREQ) s a := ha ▸ (modTime_onlyRegs s _).of_none.trans (steer_onlyRegs _ _ _ _)
  have hap : onlyParts [.time, .free, .regs] s a := ha ▸ ((modTime_onlyParts s _).mono (by decide)).andThen (steer_onlyParts _ _ _ _)
  have hfreq : (a.sfld fCox_TB_FREQ_FREQ - s.sfld fCox_TB_FREQ_FREQ).natAbs ≤ lim.natAbs := ha ▸ steer_freq (s := s.modTime _) hlim hlo hhi
  have hlock := raise_onlyRegs fCox_TB_EVENT_LOCKED (a.setServo svLocked)
  have hregs : onlyRegs (fun r => noteReg r ∨ r = rCox_TB_EVENT ∨ r = rCox_TB_STAT ∨ r = rCox_TB_FREQ) s (servoActed x s) := by
    rw [hact]
    have har' := har.mono (Q := fun r => noteReg r ∨ r = rCox_TB_EVENT ∨ r = rCox_TB_STAT ∨ r = rCox_TB_FREQ) fun _ h => .inr (.inr (.inr h))
    split_ifs
    · exact (har'.andThen (setServo_onlyRegs a _) fun _ h => .inr (.inr (.inl h))).andThen hlock fun _ h =>
        h.elim (fun h => .inr (.inl h)) .inl
    · exact har'
  have hparts : onlyParts [.time, .free, .rings, .regs, .out] s (servoActed x s) := by
    rw [hact]
    split_ifs
    · exact ((hap.mono (by decide)).andThen (setServo_onlyParts a _)).andThen (raise_onlyParts _ _)
    · exact hap.mono (by decide)
  obtain ⟨h1, h2, h3, h4⟩ := servoSample_frame hregs hparts
  refine ⟨?_, ?_, h3, h1, h2⟩
  · have : (servoSample x s).sfld fCox_TB_FREQ_FREQ = a.sfld fCox_TB_FREQ_FREQ := by
      rw [State.sfld, h4, hact]
      split_ifs
      · have := (hlock.fld (hi := 31) (lo := 0) (r := rCox_TB_FREQ) (by simp [noteReg])).trans
          ((setServo_onlyRegs a svLocked).fld (by decide))
        rw [State.sfld, this]
      · rfl
    rw [this]
    exact hfreq
  · have hcond : 16 ≤ n ↔ 15 ≤ s.time.runIn ∧ x.natAbs < 100 * nsU := by
      rw [hn]; split_ifs <;> omega
    rw [State.servo, h4, hact]
    by_cases hc : 16 ≤ n
    · rw [if_pos hc, if_pos (hcond.1 hc)]
      exact (servo_congr hlock (by simp [noteReg])).trans (servo_setServo a (by decide))
    · rw [if_neg hc, if_neg (mt hcond.2 hc)]
      exact (servo_congr har (by decide)).trans h

theorem servoSample_track {x lim : Int} {s : State} (hr : s.houseRuns = true) (h : s.servo = svLocked)
    (hx : x.natAbs ≤ s.fld fCox_SERVO_CFG_STEP_THR * nsU) (hlim : lim = ((1 * 65536 * (s.up - s.time.lastAt) / secU : Nat) : Int))
    (hlo : -2147483648 ≤ s.sfld fCox_TB_FREQ_FREQ - lim) (hhi : s.sfld fCox_TB_FREQ_FREQ + lim < 2147483648) :
    ((servoSample x s).sfld fCox_TB_FREQ_FREQ - s.sfld fCox_TB_FREQ_FREQ).natAbs ≤ lim.natAbs ∧
      (servoSample x s).servo = svLocked ∧ (servoSample x s).time.lastAt = s.up ∧ (servoSample x s).time.runOut = 0 ∧
      onlyRegs (fun r => r = rCox_TB_FREQ) s (servoSample x s) ∧ onlyParts [.time, .free, .regs] s (servoSample x s) := by
  obtain ⟨u, hu⟩ : ∃ u, u = (noteLocked s).modTime ({ · with runOut := 0 }) := ⟨_, rfl⟩
  have hact := servoActed_track hr h hx
  rw [← hu] at hact
  have hup : onlyParts [.time] s u := hu ▸ (noteLocked_onlyParts s).trans (modTime_onlyParts _ _)
  have hregs : onlyRegs (fun r => r = rCox_TB_FREQ) s (servoActed x s) := by
    rw [hact]; exact hup.regsKept.of_none.trans (steer_onlyRegs _ _ _ _)
  have hparts : onlyParts [.time, .free, .regs] s (servoActed x s) := by
    rw [hact]; exact (hup.mono (by decide)).andThen (steer_onlyParts _ _ _ _)
  obtain ⟨h1, h2, h3, h4⟩ := servoSample_frame hregs hparts
  have hfreq : u.sfld fCox_TB_FREQ_FREQ = s.sfld fCox_TB_FREQ_FREQ := hup.regsKept.sfld id
  refine ⟨?_, (servo_congr h1 (by decide)).trans h, h3, ?_, h1, h2⟩
  · rw [State.sfld, h4, hact, ← hfreq]
    exact steer_freq hlim (by rw [hfreq]; exact hlo) (by rw [hfreq]; exact hhi)
  · show (servoActed x s).time.runOut = 0
    rw [hact, show (steer 1 (s.up - s.time.lastAt) x u).time = u.time from steer_onlyParts _ _ _ _ .time (by decide), hu]
    rfl

theorem servoSample_out {x : Int} {s : State} (hr : s.houseRuns = true) (h : s.servo = svLocked)
    (hx : s.fld fCox_SERVO_CFG_STEP_THR * nsU < x.natAbs) :
    (servoSample x s).servo = (if 3 ≤ s.time.runOut then svAcquire else svLocked) ∧
      (servoSample x s).time.runOut = (if 3 ≤ s.time.runOut then 0 else s.time.runOut + 1) ∧
      onlyRegs (fun r => r = rCox_TB_STAT) s (servoSample x s) ∧ onlyParts [.time, .regs] s (servoSample x s) := by
  have hact := servoActed_out hr h hx
  have hnote := noteLocked_onlyParts s
  have hregs : onlyRegs (fun r => r = rCox_TB_STAT) s (servoActed x s) := by
    rw [hact]
    split_ifs
    · exact hnote.regsKept.of_none.trans (setServo_onlyRegs _ _)
    · exact hnote.regsKept.of_none.trans (modTime_onlyRegs _ _).of_none
  have hparts : onlyParts [.time, .regs] s (servoActed x s) := by
    rw [hact]
    split_ifs
    · exact (hnote.mono (by decide)).andThen (setServo_onlyParts _ _)
    · exact (hnote.mono (by decide)).andThen (modTime_onlyParts _ _)
  obtain ⟨h1, h2, -, h4⟩ := servoSample_frame hregs hparts
  refine ⟨?_, ?_, h1, h2⟩
  · rw [State.servo, h4, hact]
    by_cases hc : 3 ≤ s.time.runOut
    · rw [if_pos (by omega), if_pos hc]
      exact servo_setServo _ (by decide)
    · rw [if_neg (by omega), if_neg hc]
      exact (hnote.regsKept.fld id).trans h
  · show (servoActed x s).time.runOut = _
    rw [hact]
    by_cases hc : 3 ≤ s.time.runOut
    · rw [if_pos (by omega), if_pos hc]; rfl
    · rw [if_neg (by omega), if_neg hc]; rfl

end Sys2Proof.Machine
end

section
/-! SUPPORT. The rows by which the timebase follows a reference. -/

-- The checked text is one long file: elaborating these in order bounds its threads and memory.
set_option Elab.async false

namespace Sys2Proof.Machine

/-! ## PTM responses -/

/-- The registers that a PTM response writes (R193). -/
def ptmResponse (at_ host : Nat) (s : State) : State :=
  (((((s.setFld fCox_PTM_DEV_NS_NS (tbNs at_)).setFld fCox_PTM_DEV_SEC_LO_SEC (tbSec at_)).setFld
    fCox_PTM_DEV_SEC_HI_SEC (tbSec at_ / 2 ^ 32)).setPair rCox_PTM_HOST_LO rCox_PTM_HOST_HI host).incWrap fCox_PTM_STAT_SEQ).resultReady
      rCox_PTM_STAT

theorem exec_ptmDone {dev host asked : Nat} {rest : List Nat} {s : State} (h : s.time.ptm = asked :: rest) :
    exec (.ptmDone dev host) s = .next (ptmResponse (max (asked - 8 * nsU) (min (asked + 8 * nsU) dev)) host
      (s.modTime ({ · with ptm := rest }))) := by
  show execPtmDone dev host s = _
  simp only [execPtmDone, h]
  rfl

theorem tbNs_lt (t : Nat) : tbNs t < 2 ^ 32 := Nat.lt_trans (Nat.mod_lt _ (by decide)) (by decide)

theorem tbSec_hi_lt (t : Nat) : tbSec t / 2 ^ 32 < 2 ^ 16 := by
  have : tbSec t < 2 ^ 48 := Nat.mod_lt _ (by decide)
  omega

theorem ptmResponse_frame (at_ host : Nat) (s : State) :
    onlyRegs (fun r => r ∈ [rCox_PTM_DEV_NS, rCox_PTM_DEV_SEC_LO, rCox_PTM_DEV_SEC_HI, rCox_PTM_HOST_LO, rCox_PTM_HOST_HI, rCox_PTM_STAT])
      s (ptmResponse at_ host s) ∧ onlyParts [.regs] s (ptmResponse at_ host s) := by
  refine ⟨?_, ?_⟩
  · intro r hr
    obtain ⟨h1, h2, h3, h4, h5, h6⟩ : r ≠ rCox_PTM_DEV_NS ∧ r ≠ rCox_PTM_DEV_SEC_LO ∧ r ≠ rCox_PTM_DEV_SEC_HI ∧ r ≠ rCox_PTM_HOST_LO ∧
        r ≠ rCox_PTM_HOST_HI ∧ r ≠ rCox_PTM_STAT := by simpa using hr
    simp only [ptmResponse, State.resultReady, State.incWrap, State.setPair, State.reg_setReg_ne _ _ h6, State.reg_setFld_ne _ _ _ _ h6,
      State.reg_setReg_ne _ _ h5, State.reg_setReg_ne _ _ h4, State.reg_setFld_ne _ _ _ _ h3, State.reg_setFld_ne _ _ _ _ h2,
      State.reg_setFld_ne _ _ _ _ h1]
  · exact (((((setFld_onlyParts s _ _).trans (setFld_onlyParts _ _ _)).trans (setFld_onlyParts _ _ _)).trans
      ((setReg_onlyParts _ _ _).trans (setReg_onlyParts _ _ _))).trans (incWrap_onlyParts _ _)).trans (resultReady_onlyParts _ _)

theorem ptmResponse_time (at_ host : Nat) (s : State) :
    (ptmResponse at_ host s).fld fCox_PTM_DEV_NS_NS = tbNs at_ ∧
    ((ptmResponse at_ host s).reg rCox_PTM_DEV_SEC_LO).toNat = tbSec at_ % 2 ^ 32 ∧
    (ptmResponse at_ host s).fld fCox_PTM_DEV_SEC_HI_SEC = tbSec at_ / 2 ^ 32 := by
  have hns := tbNs_lt at_
  have hsec := tbSec_hi_lt at_
  refine ⟨?_, ?_, ?_⟩
  · simp [ptmResponse, State.resultReady, State.incWrap, State.setPair]
    exact hns
  · simp [ptmResponse, State.resultReady, State.incWrap, State.setPair, State.setFld]
    rw [putBits_toNat _ _ ⟨by decide, by decide⟩]
    have := (s.reg rCox_PTM_DEV_SEC_LO).isLt
    omega
  · simp [ptmResponse, State.resultReady, State.incWrap, State.setPair]
    exact hsec

theorem ptmResponse_host {at_ host : Nat} (s : State) (h : host < 2 ^ 64) :
    (ptmResponse at_ host s).pair rCox_PTM_HOST_LO rCox_PTM_HOST_HI = host := by
  simp [ptmResponse, State.resultReady, State.incWrap, State.setPair, State.pair]
  omega

theorem ptmResponse_stat (at_ host : Nat) (s : State) :
    (ptmResponse at_ host s).fld fCox_PTM_STAT_FRESH = 1 ∧ (ptmResponse at_ host s).fld fCox_PTM_STAT_VALID = 1 ∧
    (ptmResponse at_ host s).fld fCox_PTM_STAT_SEQ = (s.fld fCox_PTM_STAT_SEQ + 1) % 65536 := by
  refine ⟨?_, ?_, ?_⟩
  · exact (State.fld_setReg_self _ _ _ _ _).trans (bits_putBits_part _ _ ⟨by decide, by decide⟩ ⟨by decide, by decide⟩ (by decide) (by decide))
  · exact (State.fld_setReg_self _ _ _ _ _).trans (bits_putBits_part _ _ ⟨by decide, by decide⟩ ⟨by decide, by decide⟩ (by decide) (by decide))
  · refine (State.fld_setReg_self _ _ _ _ _).trans
      ((bits_putBits_other _ _ ⟨by decide, by decide⟩ ⟨by decide, by decide⟩ (by decide)).trans ?_)
    show State.fld _ fCox_PTM_STAT_SEQ = _
    simp [State.incWrap, State.setPair]

/-! ## STROKE_IN -/

/-- Generator `k` as an edge of STROKE_IN that it follows leaves it (R198). -/
def edgeMeasured (k at_ : Nat) (o : Int) (s : State) : State :=
  ((s.setGen k { s.gen k with
    ins := ⟨o, s.upOf (interp at_ s), false⟩ :: recentIns (s.upOf (interp at_ s)) (s.gen k).ins, noEdge := 0, inLost := false }).setSFld
    (fGen_IN_OFS_IN_OFS k) ((2 * o + 65536) / 131072)).resultReady (rGen_IN_OFS k)

theorem exec_strokeInEdge {k at_ : Nat} {d : GenDef} {s : State} (hk : s.inGen = some k) (hd : (s.gen k).d = some d) :
    exec (.strokeInEdge (s.on fStk_IN_CFG_POL) at_) s = .next (edgeMeasured k at_ ((s.gen k).edgeOfs d (interp at_ s)) s) := by
  show execStrokeInEdge _ at_ s = _
  simp only [execStrokeInEdge, hk, hd, edgeMeasured]
  rw [if_neg (by simp)]

theorem edgeMeasured_effect (k at_ : Nat) {o : Int} (s : State) (hlo : -536870912 ≤ (2 * o + 65536) / 131072)
    (hhi : (2 * o + 65536) / 131072 < 536870912) :
    (edgeMeasured k at_ o s).sfld (fGen_IN_OFS_IN_OFS k) = (2 * o + 65536) / 131072 ∧ (edgeMeasured k at_ o s).fld (fGen_IN_OFS_FRESH k) = 1 ∧
    (∀ i, (edgeMeasured k at_ o s).gen i = if k = i then { s.gen k with
      ins := ⟨o, s.upOf (interp at_ s), false⟩ :: recentIns (s.upOf (interp at_ s)) (s.gen k).ins, noEdge := 0, inLost := false }
      else s.gen i) ∧
    onlyRegs (fun r => r = rGen_IN_OFS k) s (edgeMeasured k at_ o s) ∧ onlyParts [.gens, .regs] s (edgeMeasured k at_ o s) := by
  refine ⟨?_, ?_, fun i => ?_, ?_, ?_⟩
  · unfold edgeMeasured
    generalize s.setGen k _ = u
    have hkeep : ∀ v : State, (v.resultReady (rGen_IN_OFS k)).sfld (fGen_IN_OFS_IN_OFS k) = v.sfld (fGen_IN_OFS_IN_OFS k) := fun v => by
      rw [State.sfld, State.sfld]
      exact congrArg _ ((State.fld_setReg_self _ _ _ _ _).trans
        (bits_putBits_other _ _ ⟨by decide, by decide⟩ ⟨by decide, by decide⟩ (by decide)))
    rw [hkeep]
    exact State.sfld_setSFld_self u _ ⟨by decide, by decide⟩ (by push_cast; omega) (by push_cast; omega)
  · exact (State.fld_setReg_self _ _ _ _ _).trans (bits_putBits_part _ _ ⟨by decide, by decide⟩ ⟨by decide, by decide⟩ (by decide) (by decide))
  · exact (State.gen_congr rfl i).trans (State.gen_setGen s k i _)
  · exact ((setGen_onlyParts s k _).regsKept.of_none.trans (setSFld_onlyReg _ _ _ _ _)).trans (resultReady_onlyRegs _ _)
  · exact (((setGen_onlyParts s k _).mono (by decide)).andThen (setSFld_onlyParts _ _ _)).andThen (resultReady_onlyParts _ _)

theorem exec_inLost {k : Nat} {s : State} (hk : s.inGen = some k) (h4 : 4 ≤ (s.gen k).noEdge) (hl : (s.gen k).inLost = false) :
    exec .inLost s = .next (raise_ (fGen_EVENT_IN_LOST k) (s.setGen k { s.gen k with inLost := true })) := by
  show execInLost s = _
  simp only [execInLost, hk]
  rw [if_pos ⟨h4, by simp [hl]⟩]

/-! ## Samples, from the state before the access -/

theorem exec_servoHoldover {s : State} (h : s.servo = svAcquire ∨ s.servo = svLocked) :
    exec .servoHoldover s = .next (raise_ fCox_TB_EVENT_HOLDOVER (toHoldover s)) := by
  show execServoHoldover s = _
  rw [execServoHoldover, if_pos h]

/-- Settles O21: a dialog, a sample and an edge each act by one case of their rule, and each case writes its own registers. -/
theorem timeIsFollowed : Obligations.TimeIsFollowed := by
  unfold Obligations.TimeIsFollowed
  refine ⟨fun v s hs hc hi => ptmGo_effect hs hc hi, fun s hen hc => ?_, fun s h => ?_, fun dev host at_ asked rest s hp hh hat => ?_,
    fun asked rest s hp => ?_, fun fn v s hs hm hr h => ?_, fun fn v x s hs hm hr h hx hthr htb => ?_,
    fun fn v x lim s hs hm hr h hx hthr hlim hlo hhi => ?_, fun fn v x s hs hm hr h hx hthr => ?_, fun fn v s hs hm h => ?_,
    fun s h => ?_, fun s h1 h2 => ?_, fun at_ s => ?_, fun falling at_ s h => ?_, fun k at_ d o s hk hd ho hlo hhi => ?_,
    fun k s hk h4 hl => ?_⟩
  · obtain ⟨h1, h2, -, h4⟩ := ptmStart_effect (s := s) (b := true) (by rw [hen, hc]; rfl)
    exact ⟨_, rfl, h1, h2, h4⟩
  · show Host.Outcome.next (ptmStart s) = _
    rcases h with h | h <;> simp [ptmStart, h]
  · have hexec : exec (.ptmDone dev host) s = .next (ptmResponse at_ host (s.modTime ({ · with ptm := rest }))) := by
      rw [exec_ptmDone hp, ← hat]
    obtain ⟨h1, h2, h3⟩ := ptmResponse_time at_ host (s.modTime ({ · with ptm := rest }))
    obtain ⟨h4, h5, h6⟩ := ptmResponse_stat at_ host (s.modTime ({ · with ptm := rest }))
    obtain ⟨hr, hpt⟩ := ptmResponse_frame at_ host (s.modTime ({ · with ptm := rest }))
    have hseq : (s.modTime ({ · with ptm := rest })).fld fCox_PTM_STAT_SEQ = s.fld fCox_PTM_STAT_SEQ := (modTime_onlyRegs s _).fld id
    rw [hseq] at h6
    refine ⟨_, hexec, h1, h2, h3, ?_, h4, h5, h6, ?_, ?_, ?_⟩
    · exact ptmResponse_host _ hh
    · exact hpt .time (by decide)
    · exact (modTime_onlyRegs s _).of_none.trans hr
    · exact ((modTime_onlyParts s _).mono (by decide)).andThen hpt
  · have hexec : exec .ptmFail s = .next (raise_ fCox_TB_EVENT_PTM_FAIL (s.modTime ({ · with ptm := rest }))) := by
      show execPtmFail s = _
      simp only [execPtmFail, hp]
      rfl
    have hraise := raise_onlyParts fCox_TB_EVENT_PTM_FAIL (s.modTime ({ · with ptm := rest }))
    exact ⟨_, hexec, raise_fld_self rCox_TB_EVENT _ (by decide) (by decide), hraise .time (by decide),
      (modTime_onlyRegs s _).of_none.trans ((raise_onlyRegs _ _).mono fun _ => Or.symm),
      ((modTime_onlyParts s _).mono (by decide)).andThen hraise⟩
  · have hu := servoTaken_onlyParts fn s
    have hact := servoActed_first (x := signed 64 (s.heldLo fn rCox_SERVO_IN_LO s.time.servoLo + 2 ^ 32 * v.toNat)) (s := servoTaken fn s)
      ((houseRuns_congr (hu .regs (by decide))).trans hr) h
    obtain ⟨h1, h2, h3, h4⟩ := servoSample_frame (P := fun r => r = rCox_TB_STAT) (l := [.time, .regs])
      (hact ▸ setServo_onlyRegs _ _) (hact ▸ setServo_onlyParts _ _)
    refine ⟨_, exec_servoSample hs hm, ?_, h3.trans (hu .up (by decide)), (servoTaken_onlyRegs fn s).of_none.trans h1,
      (hu.mono (by decide)).andThen h2⟩
    rw [State.servo, h4, hact]
    exact servo_setServo _ (by decide)
  · subst hx
    have hu := servoTaken_onlyParts fn s
    obtain ⟨h1, h2, h3, h4, h5⟩ := servoSample_step (s := servoTaken fn s) ((houseRuns_congr (hu .regs (by decide))).trans hr) h hthr htb
    exact ⟨_, exec_servoSample hs hm, h1, h2, h3, (servoTaken_onlyRegs fn s).of_none.trans h4, (hu.mono (by decide)).andThen h5⟩
  · subst hx
    have hu := servoTaken_onlyParts fn s
    have hr' : (servoTaken fn s).houseRuns = true := (houseRuns_congr (hu .regs (by decide))).trans hr
    rcases h with h | h
    · have hne : s.servo ≠ svLocked := by rw [h]; decide
      rw [if_neg hne] at hlim
      obtain ⟨h1, h2, h3, h4, h5⟩ := servoSample_acquire (s := servoTaken fn s) hr' h hthr hlim hlo hhi
      exact ⟨_, exec_servoSample hs hm, (h5 .tb (by decide)).trans (hu .tb (by decide)), h1,
        h2.trans (if_congr (by simp only [hne, false_or]; exact Iff.rfl) rfl rfl), h3, fun hl => absurd hl hne, (servoTaken_onlyRegs fn s).of_none.trans h4,
        (hu.mono (by decide)).andThen h5⟩
    · rw [if_pos h] at hlim
      obtain ⟨h1, h2, h3, h4, h5, h6⟩ := servoSample_track (s := servoTaken fn s) hr' h hthr hlim hlo hhi
      exact ⟨_, exec_servoSample hs hm, (h6 .tb (by decide)).trans (hu .tb (by decide)), h1, h2.trans (if_pos (.inl h)).symm, h3,
        fun _ => h4, (servoTaken_onlyRegs fn s).of_none.trans (h5.mono fun _ h => .inr (.inr (.inr h))),
        (hu.mono (by decide)).andThen h6⟩
  · subst hx
    have hu := servoTaken_onlyParts fn s
    obtain ⟨h1, h2, h3, h4⟩ := servoSample_out (s := servoTaken fn s) ((houseRuns_congr (hu .regs (by decide))).trans hr) h hthr
    exact ⟨_, exec_servoSample hs hm, (h4 .tb (by decide)).trans (hu .tb (by decide)), h1, h2, (servoTaken_onlyRegs fn s).of_none.trans h3,
      (hu.mono (by decide)).andThen h4⟩
  · have hu := servoTaken_onlyParts fn s
    have hact := servoActed_idle (x := signed 64 (s.heldLo fn rCox_SERVO_IN_LO s.time.servoLo + 2 ^ 32 * v.toNat)) (s := servoTaken fn s)
      (h.imp_right fun h => (houseRuns_congr (hu .regs (by decide))).trans h)
    obtain ⟨-, h2, -, -⟩ := servoSample_frame (P := fun _ => False) (l := [.time]) (s := servoTaken fn s) (by rw [hact]; exact .refl _ _)
      (by rw [hact]; exact .refl _ _)
    exact ⟨_, exec_servoSample hs hm, (h2 .tb (by decide)).trans (hu .tb (by decide)), hu.andThen h2⟩
  · have hraise := raise_onlyRegs fCox_TB_EVENT_HOLDOVER (toHoldover s)
    refine ⟨_, exec_servoHoldover h, ?_, raise_fld_self rCox_TB_EVENT _ (by decide) (by decide), ?_, ?_⟩
    · exact (servo_congr hraise (by simp [noteReg])).trans (servo_toHoldover s)
    · exact ((toHoldover_onlyRegs s).mono fun _ h => .inr (.inr h)).andThen hraise fun _ h => h.elim (fun h => .inr (.inl h)) .inl
    · exact ((toHoldover_onlyParts s).mono (by decide)).andThen (raise_onlyParts _ _)
  · show execServoHoldover s = _
    rw [execServoHoldover, if_neg (by simp [h1, h2])]
  · show execStrokeInEdge _ at_ s = _
    rw [execStrokeInEdge, if_pos (by simp)]
  · show execStrokeInEdge falling at_ s = _
    simp only [execStrokeInEdge, h, ite_self]
  · subst ho
    obtain ⟨h1, h2, h3, h4, h5⟩ := edgeMeasured_effect k at_ s hlo hhi
    exact ⟨_, exec_strokeInEdge hk hd, h1, h2, (h3 k).trans (if_pos rfl), fun i hi => (h3 i).trans (if_neg hi.symm), h4, h5⟩
  · have hraise := raise_onlyParts (fGen_EVENT_IN_LOST k) (s.setGen k { s.gen k with inLost := true })
    have hgen (i : Nat) := (State.gen_congr (hraise .gens (by decide)) i).trans (State.gen_setGen s k i _)
    exact ⟨_, exec_inLost hk h4 hl, (hgen k).trans (if_pos rfl), raise_fld_self (rGen_EVENT k) _ (by decide) (by simp),
      fun i hi => (hgen i).trans (if_neg hi.symm),
      (setGen_onlyParts s k _).regsKept.of_none.trans ((raise_onlyRegs _ _).mono fun _ => Or.symm),
      ((setGen_onlyParts s k _).mono (by decide)).andThen hraise⟩

end Sys2Proof.Machine
end

section
/-! SUPPORT. Time that passes up to an instant; programmable counters and split records (R518, R527 to R529). -/

-- The checked text is one long file: elaborating these in order bounds its threads and memory.
set_option Elab.async false

namespace Sys2Proof.Machine

/-! ## Little-endian fields -/

theorem ofLe_append (a b : List Byte) : ofLe (a ++ b) = ofLe a + 256 ^ a.length * ofLe b := by
  induction a with
  | nil => simp [ofLe]
  | cons x a ih =>
    simp only [List.cons_append, ofLe, ih, List.length_cons, pow_succ]
    ring

theorem ofLe_leBytes (n v : Nat) : ofLe (leBytes n v) = v % 256 ^ n := by
  induction n with
  | zero => simp [leBytes, ofLe, Nat.mod_one]
  | succ n ih =>
    have hs : leBytes (n + 1) v = leBytes n v ++ [BitVec.ofNat 8 (v / 256 ^ n)] := by simp [leBytes, List.range_succ]
    have h8 : (2 : Nat) ^ 8 = 256 := by decide
    rw [hs, ofLe_append, ih, leBytes_length, pow_succ, Nat.mod_mul]
    simp [ofLe, h8]

theorem field_leBytes_append {n v : Nat} (l : List Byte) (h : v < 256 ^ n) : field (leBytes n v ++ l) 0 n = v := by
  rw [field, List.drop_zero, List.take_append_of_le_length (by rw [leBytes_length]),
    List.take_of_length_le (by rw [leBytes_length]), ofLe_leBytes, Nat.mod_eq_of_lt h]

/-! ## Time passes (R183, R206) -/

theorem ppsRise_onlyParts (u : Nat) (s : State) : onlyParts [.time, .out] s (ppsRise u s) := by
  unfold ppsRise
  split_ifs
  · exact ((emit_onlyParts s _).mono (by decide)).andThen
      (modTime_onlyParts _ ({ · with ppsEnd := some (u + s.fld fCox_OUT_CTL_PPS_WIDTH * 1000000 * nsU) }))
  · exact .refl _ s

/-- The running clock itself is set. -/
def State.setUp (s : State) (n : Nat) : State := { s with up := n }

theorem setUp_onlyParts (s : State) (n : Nat) : onlyParts [.up] s (s.setUp n) := by
  intro p hp
  cases p <;> simp_all [Part.same, State.setUp]

/-- The seconds that pass in an interval, each with its PPS pulse (R206). -/
def secondsPass (d : Nat) (s : State) : State :=
  (List.range ((s.tb + d) / secU - s.tb / secU)).foldl (fun a i =>
    ppsRise (s.up + ((s.tb / secU + 1 + i) * secU - s.tb)) (endPulses (a.setUp (s.up + ((s.tb / secU + 1 + i) * secU - s.tb))))) s

theorem secondsPass_onlyParts (d : Nat) (s : State) : onlyParts [.up, .time, .out] s (secondsPass d s) :=
  onlyParts.foldl (fun a _ => (((setUp_onlyParts a _).mono (by decide)).andThen (endPulses_onlyParts _)).andThen (ppsRise_onlyParts _ _)) _ s

theorem pass_eq (d u : Nat) (s : State) : pass d u s =
    faultFrames (endPulses ((((secondsPass d s).setTb (s.tb + d)).setUp (s.up + u)).modTime
      ({ · with ppsAt := if d = 0 then s.time.ppsAt else if (s.tb + d) % secU = 0 then some (s.tb + d) else none }))) := rfl

theorem pass_onlyParts (d u : Nat) (s : State) : onlyParts [.tb, .up, .time, .links, .crew, .out] s (pass d u s) := by
  rw [pass_eq]
  exact (((((secondsPass_onlyParts d s).mono (by decide)).andThen (setTb_onlyParts _ _)).andThen (setUp_onlyParts _ _)).andThen
    (modTime_onlyParts _ _)).andThen (endPulses_onlyParts _) |>.andThen (faultFrames_onlyParts _)

theorem pass_tb (d u : Nat) (s : State) : (pass d u s).tb = s.tb + d := by
  rw [pass_eq]
  exact (faultFrames_onlyParts _ .tb (by decide)).trans (endPulses_onlyParts _ .tb (by decide))

theorem advanceTo_onlyParts (t : Int) (s : State) : onlyParts [.tb, .up, .time, .links, .crew, .out] s (advanceTo t s) := by
  unfold advanceTo
  split_ifs
  · exact pass_onlyParts _ _ s
  · exact .refl _ s

theorem advanceTo_tb {t : Nat} {s : State} (h : s.tb ≤ t) : (advanceTo t s).tb = t := by
  unfold advanceTo
  split_ifs with hlt
  · rw [pass_tb]; omega
  · omega

/-! ## Programmable counters (R518) -/

theorem modSplit_onlyParts (s : State) (f : SplitSt → SplitSt) : onlyParts [.split] s { s with split := f s.split } := by
  intro p hp
  cases p <;> simp_all [Part.same]

theorem exec_cntCfgWrite {addr : Nat} {r c : RegId} {filt : Bool} (v : W32) {s : State} (hs : s.awake = true)
    (hd : decodeBar0 addr = some r) (hc : cntOf r = some (c, filt)) : exec (.cntCfgWrite addr v) s = .next (writeCnt c filt v s) := by
  show execCntCfgWrite addr v s = _
  rw [execCntCfgWrite, hostAccess_awake _ s hs, hd, Option.bind_some, hc]

theorem writeCnt_start {c : RegId} {v : W32} {s : State} (hu : s.unavailable c = none) (hsh : ¬ (c.blk = .sh ∧ c.inst < 4))
    (hsrc : cntSrcOk c.blk (bits v 7 0) = true) (hen : v.getLsbD 31 = true) (hoff : (s.reg c).getLsbD 31 = false) :
    writeCnt c false v s = cntStart c (bits v 7 0) s := by
  have hsrc' : bits (v &&& 0xC00000FF#32) 7 0 = bits v 7 0 := by
    have h1 : (v &&& 0xC00000FF#32).toNat % 256 = v.toNat % 256 := by
      have h := Nat.and_mod_two_pow (a := v.toNat) (b := 0xC00000FF) (n := 8)
      have hv : v.toNat % 2 ^ 8 &&& 0xC00000FF % 2 ^ 8 = v.toNat % 2 ^ 8 := by
        rw [show 0xC00000FF % 2 ^ 8 = 2 ^ 8 - 1 from rfl, Nat.and_two_pow_sub_one_eq_mod, Nat.mod_mod]
      simpa [BitVec.toNat_and] using h.trans hv
    simpa [bits] using h1
  have hen' : (v &&& 0xC00000FF#32).getLsbD 31 = true := by
    rw [BitVec.getLsbD_and, hen]; rfl
  have hpriv : (c.blk == .sh && decide (c.inst < 4)) = false := by simpa using hsh
  have hok : firstFail [((s.unavailable c).isSome, (s.unavailable c).getD 0), (c.blk == .sh && decide (c.inst < 4), ePriv),
      (!cntSrcOk c.blk (bits v 7 0), eRange)] = none := by
    simp [firstFail, hu, hpriv, hsrc]
  simp only [writeCnt, Bool.false_and, if_neg Bool.false_ne_true, hok, writeCfg, hsrc', hen', hoff]
  rfl

theorem writeCnt_filter {c : RegId} {v : W32} {s : State} (hu : s.unavailable { c with off := c.off + 4 } = none)
    (hsh : ¬ (c.blk = .sh ∧ c.inst < 4)) (hv : v &&& cntFiltMask c.blk = v) (hne : s.reg { c with off := c.off + 4 } ≠ v) :
    writeCnt c true v s = (s.setReg { c with off := c.off + 4 } v).setReg c
      ((s.setReg { c with off := c.off + 4 } v).reg c &&& 0x7FFFFFFF#32) := by
  have hmask : v &&& ~~~(cntFiltMask c.blk) = 0#32 := by
    rw [← hv, BitVec.and_assoc, BitVec.and_not_self]
    exact BitVec.and_zero
  have hloom : c.blk = .loom → v &&& ~~~0x00007C00#32 = v := by
    intro hb
    have hm : cntFiltMask c.blk &&& ~~~0x00007C00#32 = cntFiltMask c.blk := by rw [hb]; decide
    calc v &&& ~~~0x00007C00#32 = v &&& cntFiltMask c.blk &&& ~~~0x00007C00#32 := by rw [hv]
      _ = v &&& cntFiltMask c.blk := by rw [BitVec.and_assoc, hm]
      _ = v := hv
  have hv1 : (if (true && c.blk == .loom) = true then v &&& ~~~0x00007C00#32 else v) = v := by
    by_cases hb : c.blk = .loom
    · rw [if_pos (by simp [hb]), hloom hb]
    · simp [hb]
  have hpriv : (c.blk == .sh && decide (c.inst < 4)) = false := by simpa using hsh
  have hok : firstFail [((s.unavailable { c with off := c.off + 4 }).isSome, (s.unavailable { c with off := c.off + 4 }).getD 0),
      (c.blk == .sh && decide (c.inst < 4), ePriv), ((v &&& ~~~(cntFiltMask c.blk) &&& ~~~0x00007C00#32) != 0, eRange)] = none := by
    simp [firstFail, hu, hpriv, hmask]
  simp only [writeCnt, hv1, if_true, hok, writeFilt, hv, if_pos hne]

/-! ## Split records (R527 to R529) -/

/-- The registers of a split reader whose ring starts empty (R529). -/
def splitCleared (s : State) : State :=
  (((s.setFld fSplit_CTL_EN 1).setReg rSplit_RING_TAIL 0x10000#32).setFld fSplit_SEQ_SEQ 0).setFld fSplit_STAT_LOST 0

/-- A split reader enabled at `up`, with no record taken yet. -/
def State.splitFrom (a : State) (up : Nat) : State :=
  { a with split := { a.split with last := none, enAt := up, lostDue := false, gapDue := false } }

theorem State.reg_splitFrom (a : State) (up : Nat) (r : RegId) : (a.splitFrom up).reg r = a.reg r := State.reg_congr rfl r

theorem State.fld_splitFrom (a : State) (up : Nat) (f : FldId) : (a.splitFrom up).fld f = a.fld f := State.fld_congr rfl f

theorem splitFrom_onlyParts (a : State) (up : Nat) : onlyParts [.split] a (a.splitFrom up) :=
  modSplit_onlyParts a fun m => { m with last := none, enAt := up, lostDue := false, gapDue := false }

/-- A split reader that was just enabled. -/
def splitOpened (s : State) : State := (splitCleared s).splitFrom s.tb

theorem splitOpened_fields (s : State) : (splitOpened s).fld fSplit_CTL_EN = 1 ∧ (splitOpened s).reg rSplit_RING_TAIL = 0x10000#32 ∧
    (splitOpened s).fld fSplit_SEQ_SEQ = 0 ∧ (splitOpened s).fld fSplit_STAT_LOST = 0 := by
  rw [splitOpened, State.fld_splitFrom, State.fld_splitFrom, State.fld_splitFrom, State.reg_splitFrom, splitCleared]
  refine ⟨?_, ?_, ?_, ?_⟩
  · exact (State.fld_setFld_ne _ _ _ _ _ _ (by decide)).trans <| (State.fld_setFld_ne _ _ _ _ _ _ (by decide)).trans <|
      (State.fld_setReg_ne _ _ (by decide)).trans <| State.fld_setFld_self_of_lt s _ (by decide) (by decide)
  · rw [State.reg_setFld_ne _ _ _ _ (by decide), State.reg_setFld_ne _ _ _ _ (by decide), State.reg_setReg_self]
  · exact (State.fld_setFld_ne _ _ _ _ _ _ (by decide)).trans <| State.fld_setFld_self_of_lt _ _ (by decide) (by decide)
  · exact State.fld_setFld_self_of_lt _ _ (by decide) (by decide)

theorem splitOpened_onlyRegs (s : State) :
    onlyRegs (fun r => r ∈ [rSplit_CTL, rSplit_RING_TAIL, rSplit_SEQ, rSplit_STAT]) s (splitOpened s) := by
  intro r hr
  obtain ⟨n1, n2, n3, n4⟩ : r ≠ rSplit_CTL ∧ r ≠ rSplit_RING_TAIL ∧ r ≠ rSplit_SEQ ∧ r ≠ rSplit_STAT := by simpa using hr
  rw [splitOpened, State.reg_splitFrom, splitCleared, State.reg_setFld_ne _ _ _ _ n4, State.reg_setFld_ne _ _ _ _ n3, State.reg_setReg_ne _ _ n2,
    State.reg_setFld_ne _ _ _ _ n1]

theorem splitOpened_onlyParts (s : State) : onlyParts [.split, .regs] s (splitOpened s) :=
  (((((setFld_onlyParts s _ _).mono (by decide)).andThen (setReg_onlyParts _ _ _)).andThen (setFld_onlyParts _ _ _)).andThen
    (setFld_onlyParts _ _ _)).andThen (splitFrom_onlyParts _ _)

theorem splitEnable_effect {v : W32} {s : State} (hs : s.awake = true) (hv : v.getLsbD 31 = true) (hen : s.on fSplit_CTL_EN = false)
    (hb : s.bme 0 = true) (hw : splitSlot s.splitCounters.length ≤ 2000 * s.fld fSplit_WINDOW_US) (h4 : 4 ≤ s.fld fSplit_RING_LOG2)
    (h16 : s.fld fSplit_RING_LOG2 ≤ 16) (hbase : s.pair rSplit_RING_BASE_LO rSplit_RING_BASE_HI % 64 = 0) :
    exec (.splitEnable v) s = .next (splitOpened s) := by
  have hok : firstFail [(!s.bme 0, eState), (decide (2000 * s.fld fSplit_WINDOW_US < splitSlot s.splitCounters.length ∨
      s.fld fSplit_RING_LOG2 < 4 ∨ 16 < s.fld fSplit_RING_LOG2) || s.pair rSplit_RING_BASE_LO rSplit_RING_BASE_HI % 64 != 0, eRange)] =
      none := by
    simp [firstFail, hb, hbase]
    omega
  show Host.Outcome.next (hostAccess (writeSplitCtl v) s) = _
  rw [hostAccess_awake _ s hs, writeSplitCtl, hv, hen]
  simp only [Bool.not_true, if_neg Bool.false_ne_true, hok]
  rfl

theorem showBw_onlyRegs (ns : Nat) (s : State) : onlyRegs (fun r => r.blk = .split ∧ 0x40 ≤ r.off) s (showBw ns s) :=
  onlyRegs.foldl (fun a n _ => ((setFld_onlyReg a _ _ _ _).trans (setFld_onlyReg _ _ _ _ _)).mono fun r hr => by subst hr; simp) s

theorem showBw_onlyParts (ns : Nat) (s : State) : onlyParts [.regs] s (showBw ns s) :=
  onlyParts.foldl (fun a _ => (setFld_onlyParts a _ _).trans (setFld_onlyParts _ _ _)) _ s

/-- What a snapshot's record and its place depend on is in registers below EP_BW. -/
theorem splitCounters_congr {s t : State} (h : ∀ r : RegId, r.blk = .split → r.off < 0x30 → t.reg r = s.reg r) :
    t.splitCounters = s.splitCounters := by
  have hf (r : RegId) (hi lo : Nat) (hb : r.blk = .split) (ho : r.off < 0x30) : t.fld ⟨r, hi, lo⟩ = s.fld ⟨r, hi, lo⟩ := by
    simp [State.fld, h r hb ho]
  have hln : t.fld fSplit_INC0_LN = s.fld fSplit_INC0_LN := hf _ _ _ rfl (by decide)
  have hloom : t.on fSplit_INC0_LOOM = s.on fSplit_INC0_LOOM := congrArg (· != 0) (hf _ _ _ rfl (by decide))
  have hbm : t.fld fSplit_INC0_BM = s.fld fSplit_INC0_BM := hf _ _ _ rfl (by decide)
  have hsh : ((List.range 96).filter fun n => (t.fld (fSplit_INC_SH (n / 32))).testBit (n % 32)) =
      (List.range 96).filter fun n => (s.fld (fSplit_INC_SH (n / 32))).testBit (n % 32) := by
    refine List.filter_congr fun n hn => ?_
    have := List.mem_range.1 hn
    have hfld : t.fld (fSplit_INC_SH (n / 32)) = s.fld (fSplit_INC_SH (n / 32)) := hf _ _ _ rfl (by simp; omega)
    rw [hfld]
  simp only [State.splitCounters, hln, hloom, hbm, hsh]

theorem splitWord_length (s : State) (c : RegId) : (s.splitWord c).length = 8 := leBytes_length _ _

theorem splitRecord_length (s : State) (ns : Nat) (cs : List RegId) : (s.splitRecord ns cs).length = splitSlot cs.length := by
  have hw : (cs.flatMap s.splitWord).length = 8 * cs.length := by
    induction cs with
    | nil => rfl
    | cons c cs ih => rw [List.flatMap_cons, List.length_append, ih, splitWord_length, List.length_cons]; omega
  have hlanes (f : Nat → Nat) : ((List.range 8).flatMap fun n => leBytes 8 (f n)).length = 64 := by
    simp [List.range_succ, leBytes_length]
  simp only [State.splitRecord, padTo, List.length_append, List.length_replicate, leBytes_length, List.length_singleton, tbBytes, hw,
    hlanes]
  simp only [splitSlot]
  omega

theorem splitRecord_head (s : State) (ns : Nat) (cs : List RegId) :
    field (s.splitRecord ns cs) 0 4 = s.fld fSplit_SEQ_SEQ ∧ ((s.splitRecord ns cs).drop 8).take 12 = tbBytes s.tb := by
  obtain ⟨tl, htl⟩ : ∃ tl, s.splitRecord ns cs = leBytes 4 (s.fld fSplit_SEQ_SEQ) ++
      (leBytes 1 (s.fld fSplit_RING_TAIL_PHASE + (if s.split.lostDue then 2 else 0) + (if s.split.gapDue then 4 else 0)) ++ [0] ++
        leBytes 2 cs.length ++ (tbBytes s.tb ++ tl)) := by
    simp only [State.splitRecord, padTo, List.append_assoc]
    exact ⟨_, rfl⟩
  have hlen : (tbBytes s.tb).length = 12 := by simp [tbBytes, leBytes_length]
  rw [htl]
  refine ⟨field_leBytes_append _ (s.fld_lt _), ?_⟩
  rw [← List.append_assoc, List.drop_append_of_le_length (by simp [leBytes_length]), List.drop_of_length_le (by simp [leBytes_length]),
    List.nil_append, List.take_append_of_le_length (by omega), List.take_of_length_le (by omega)]

theorem nextSnap_ge (s : State) : s.tb ≤ s.nextSnap := by
  unfold State.nextSnap
  dsimp only
  split_ifs with h
  · exact le_max_left _ _
  · generalize hm : max s.tb _ = m
    have hle : s.tb ≤ m := hm ▸ le_max_left _ _
    refine hle.trans ?_
    have hw : 0 < s.splitWindow := Nat.pos_of_ne_zero h
    have h1 := Nat.div_add_mod (m + s.splitWindow - 1) s.splitWindow
    have h2 := Nat.mod_lt (m + s.splitWindow - 1) hw
    rw [Nat.mul_comm] at h1
    omega

/-- The record of a snapshot goes to the ring's tail, where Bus Master Enable is set and the ring is not full. -/
theorem putSplit_of_room {ns : Nat} {s : State} (hb : s.bme 0 = true)
    (hroom : (s.fld fSplit_RING_TAIL_TAIL + 1) % 2 ^ s.fld fSplit_RING_LOG2 ≠ s.fld fSplit_RING_CI_CI) :
    .hostWrite (s.pair rSplit_RING_BASE_LO rSplit_RING_BASE_HI + s.fld fSplit_RING_TAIL_TAIL * splitSlot s.splitCounters.length)
      (s.splitRecord ns s.splitCounters) ∈ (putSplit ns s).host.out ∧
    onlyRegs (fun r => r = rSplit_RING_TAIL) s (putSplit ns s) ∧ onlyParts [.split, .regs, .out] s (putSplit ns s) := by
  obtain ⟨u, hu⟩ : ∃ u, u = (s.emit (.hostWrite (s.pair rSplit_RING_BASE_LO rSplit_RING_BASE_HI +
    s.fld fSplit_RING_TAIL_TAIL * splitSlot s.splitCounters.length) (s.splitRecord ns s.splitCounters))).setFld fSplit_RING_TAIL_TAIL
      ((s.fld fSplit_RING_TAIL_TAIL + 1) % 2 ^ s.fld fSplit_RING_LOG2) := ⟨_, rfl⟩
  obtain ⟨w, hw⟩ : ∃ w, w = if (s.fld fSplit_RING_TAIL_TAIL + 1) % 2 ^ s.fld fSplit_RING_LOG2 = 0
    then u.setFld fSplit_RING_TAIL_PHASE (1 - u.fld fSplit_RING_TAIL_PHASE) else u := ⟨_, rfl⟩
  have heq : putSplit ns s = { w with split := { w.split with lostDue := false, gapDue := false } } := by
    rw [hw, hu]
    unfold putSplit
    dsimp only
    rw [if_neg (by simp [hb, hroom])]
  have hur : onlyRegs (fun r => r = rSplit_RING_TAIL) s u := hu ▸ (emit_onlyRegs s _).of_none.trans (setFld_onlyReg _ _ _ _ _)
  have hup : onlyParts [.regs, .out] s u := hu ▸ ((emit_onlyParts s _).mono (by decide)).andThen (setFld_onlyParts _ _ _)
  have hwr : onlyRegs (fun r => r = rSplit_RING_TAIL) u w := by
    rw [hw]; split_ifs
    · exact setFld_onlyReg _ _ _ _ _
    · exact .refl _ u
  have hwp : onlyParts [.regs] u w := by
    rw [hw]; split_ifs
    · exact setFld_onlyParts _ _ _
    · exact .refl _ u
  have hsp := modSplit_onlyParts w fun m => { m with lostDue := false, gapDue := false }
  rw [heq]
  refine ⟨?_, (hur.trans hwr).trans hsp.regsKept.of_none, ((hup.mono (by decide)).andThen hwp).andThen hsp⟩
  show _ ∈ w.host.out
  rw [show w.host.out = u.host.out from hwp .out (by decide), hu]
  exact List.mem_cons_self

/-- The state in which a snapshot takes its record: at its instant, with its number, and with the bandwidths shown (R528, R529). -/
def snapTaken (s : State) : Nat × State :=
  let s1 := (advanceTo (s.nextSnap : Int) s).incWrap fSplit_SEQ_SEQ
  match s.split.last with
  | some l => ((s1.tb - l) / nsU, showBw ((s1.tb - l) / nsU) s1)
  | none => (Config.firstSplitNs s.free, s1.tick)

/-- What a snapshot keeps of itself for the next one. -/
def snapKept (s1 : State) (m : SplitSt) : SplitSt :=
  { m with last := some s1.tb, fresh := [], rx := (List.range 8).map fun n => (n, (s1.lane n).rxBytes)
           tx := (List.range 8).map fun n => (n, (s1.lane n).txBytes) }

theorem exec_splitSnapshot {s : State} (hen : s.on fSplit_CTL_EN = true) (hp : s.pState < 2) (hd : s.dark = false) :
    exec .splitSnapshot s = .next ((fun a : State =>
      { a with split := snapKept ((advanceTo (s.nextSnap : Int) s).incWrap fSplit_SEQ_SEQ) a.split })
        (putSplit (snapTaken s).1 (snapTaken s).2)) := by
  show execSplitSnapshot s = _
  rw [execSplitSnapshot, if_neg (by simp [hen, hp, hd])]
  unfold snapTaken
  cases s.split.last <;> rfl

theorem snapTaken_frame (s : State) :
    onlyRegs (fun r => r = rSplit_SEQ ∨ r.blk = .split ∧ 0x40 ≤ r.off) s (snapTaken s).2 ∧
    onlyParts [.tb, .up, .time, .links, .crew, .free, .out, .regs] s (snapTaken s).2 ∧
    (snapTaken s).2.tb = s.nextSnap ∧ (snapTaken s).2.fld fSplit_SEQ_SEQ = (s.fld fSplit_SEQ_SEQ + 1) % 2 ^ 32 := by
  have hadv := advanceTo_onlyParts (s.nextSnap : Int) s
  obtain ⟨u, hu⟩ : ∃ u, u = (advanceTo (s.nextSnap : Int) s).incWrap fSplit_SEQ_SEQ := ⟨_, rfl⟩
  have hur : onlyRegs (fun r => r = rSplit_SEQ ∨ r.blk = .split ∧ 0x40 ≤ r.off) s u :=
    hu ▸ hadv.regsKept.of_none.trans ((incWrap_onlyReg _ _ _ _).mono fun _ => .inl)
  have hup : onlyParts [.tb, .up, .time, .links, .crew, .free, .out, .regs] s u :=
    hu ▸ (hadv.mono (by decide)).andThen (incWrap_onlyParts _ _)
  have hutb : u.tb = s.nextSnap := hu ▸ (incWrap_onlyParts _ _ .tb (by decide)).trans (advanceTo_tb (nextSnap_ge s))
  have huseq : u.fld fSplit_SEQ_SEQ = (s.fld fSplit_SEQ_SEQ + 1) % 2 ^ 32 := by
    rw [hu, State.incWrap, State.fld_setFld_self _ _ _ _ _ (by decide) (by decide), hadv.regsKept.fld id]
  have htaken : (snapTaken s).2 = match s.split.last with | some l => showBw ((u.tb - l) / nsU) u | none => u.tick := by
    unfold snapTaken
    cases s.split.last <;> rw [hu]
  rw [htaken]
  cases s.split.last with
  | none =>
    exact ⟨hur.trans (tick_onlyParts u).regsKept.of_none, hup.andThen (tick_onlyParts u), hutb, huseq⟩
  | some l =>
    have hbw := showBw_onlyParts ((u.tb - l) / nsU) u
    have hbr := showBw_onlyRegs ((u.tb - l) / nsU) u
    exact ⟨hur.andThen hbr fun _ => .inr, hup.andThen hbw, (hbw .tb (by decide)).trans hutb, (hbr.fld (by simp)).trans huseq⟩

theorem cntStart_effect {c : RegId} {v : W32} (s : State) : (cntStart c (bits v 7 0) s).reg c = BitVec.ofNat 32 (2 ^ 31 + bits v 7 0) ∧
    (cntStart c (bits v 7 0) s).reg { c with off := c.off + 8 } = 0#32 ∧ (cntStart c (bits v 7 0) s).reg { c with off := c.off + 12 } = 0#32 ∧
    c ∈ (cntStart c (bits v 7 0) s).split.fresh ∧
    onlyRegs (fun r => r = c ∨ r = { c with off := c.off + 8 } ∨ r = { c with off := c.off + 12 }) s (cntStart c (bits v 7 0) s) ∧
    onlyParts [.split, .regs] s (cntStart c (bits v 7 0) s) := by
  have h8 : ({ c with off := c.off + 8 } : RegId) ≠ c := fun h => by simpa using congrArg RegId.off h
  have h12 : ({ c with off := c.off + 12 } : RegId) ≠ c := fun h => by simpa using congrArg RegId.off h
  have hne : ({ c with off := c.off + 8 } : RegId) ≠ { c with off := c.off + 12 } := fun h => by simpa using congrArg RegId.off h
  have hreg (r : RegId) : (cntStart c (bits v 7 0) s).reg r = (((s.setReg { c with off := c.off + 8 } 0).setReg
      { c with off := c.off + 12 } 0).setReg c (BitVec.ofNat 32 (2 ^ 31 + bits v 7 0))).reg r := State.reg_congr rfl r
  refine ⟨by rw [hreg, State.reg_setReg_self], ?_, ?_, List.mem_cons_self, fun r hr => ?_, ?_⟩
  · rw [hreg, State.reg_setReg_ne _ _ h8, State.reg_setReg_ne _ _ hne, State.reg_setReg_self]; rfl
  · rw [hreg, State.reg_setReg_ne _ _ h12, State.reg_setReg_self]; rfl
  · obtain ⟨n1, n2, n3⟩ : r ≠ c ∧ r ≠ { c with off := c.off + 8 } ∧ r ≠ { c with off := c.off + 12 } := by simpa [not_or] using hr
    rw [hreg, State.reg_setReg_ne _ _ n1, State.reg_setReg_ne _ _ n3, State.reg_setReg_ne _ _ n2]
  · exact ((((setReg_onlyParts s _ _).mono (by decide)).andThen (setReg_onlyParts _ _ _)).andThen (setReg_onlyParts _ _ _)).andThen
      (modSplit_onlyParts _ fun m => { m with fresh := c :: m.fresh.filter (· ≠ c) })

/-- The state that a write of FILT leaves: its word, and the counter without EN. -/
def filterKept (c : RegId) (v : W32) (s : State) : State :=
  (s.setReg { c with off := c.off + 4 } v).setReg c ((s.setReg { c with off := c.off + 4 } v).reg c &&& 0x7FFFFFFF#32)

theorem filterKept_effect (c : RegId) (v : W32) (s : State) : (filterKept c v s).reg { c with off := c.off + 4 } = v ∧
    (filterKept c v s).reg c = s.reg c &&& 0x7FFFFFFF#32 ∧
    onlyRegs (fun r => r = c ∨ r = { c with off := c.off + 4 }) s (filterKept c v s) ∧ onlyParts [.regs] s (filterKept c v s) := by
  rw [filterKept]
  have hcf : c ≠ { c with off := c.off + 4 } := fun h => by simpa using congrArg RegId.off h
  refine ⟨?_, ?_, ?_, (setReg_onlyParts _ _ _).trans (setReg_onlyParts _ _ _)⟩
  · rw [State.reg_setReg_ne _ _ hcf.symm, State.reg_setReg_self]
  · rw [State.reg_setReg_self, State.reg_setReg_ne _ _ hcf]
  · exact ((setReg_onlyRegs _ _ _).mono fun _ => .inr).andThen (setReg_onlyRegs _ _ _) fun _ => .inl

/-- The state in which a snapshot ends. -/
def snapEnd (s : State) : State :=
  (fun a : State => { a with split := snapKept ((advanceTo (s.nextSnap : Int) s).incWrap fSplit_SEQ_SEQ) a.split })
    (putSplit (snapTaken s).1 (snapTaken s).2)

theorem snapEnd_effect {s : State} (hb : s.bme 0 = true)
    (hroom : (s.fld fSplit_RING_TAIL_TAIL + 1) % 2 ^ s.fld fSplit_RING_LOG2 ≠ s.fld fSplit_RING_CI_CI) :
    ∃ r, (snapEnd s).tb = s.nextSnap ∧ (snapEnd s).fld fSplit_SEQ_SEQ = (s.fld fSplit_SEQ_SEQ + 1) % 2 ^ 32 ∧
      .hostWrite (s.pair rSplit_RING_BASE_LO rSplit_RING_BASE_HI + s.fld fSplit_RING_TAIL_TAIL * splitSlot s.splitCounters.length) r ∈
        (snapEnd s).host.out ∧
      r.length = splitSlot s.splitCounters.length ∧ field r 0 4 = (s.fld fSplit_SEQ_SEQ + 1) % 2 ^ 32 ∧
      (r.drop 8).take 12 = tbBytes s.nextSnap ∧ (snapEnd s).split.last = some s.nextSnap ∧
      onlyParts [.tb, .up, .time, .links, .crew, .free, .split, .regs, .out] s (snapEnd s) := by
  refine ⟨(snapTaken s).2.splitRecord (snapTaken s).1 s.splitCounters, ?_⟩
  rw [snapEnd]
  obtain ⟨hr, hpt, htb, hseq⟩ := snapTaken_frame s
  have hlast : ((advanceTo (s.nextSnap : Int) s).incWrap fSplit_SEQ_SEQ).tb = s.nextSnap :=
    (incWrap_onlyParts _ _ .tb (by decide)).trans (advanceTo_tb (nextSnap_ge s))
  generalize (snapTaken s).1 = ns
  generalize (snapTaken s).2 = u at *
  generalize (advanceTo (s.nextSnap : Int) s).incWrap fSplit_SEQ_SEQ = s1 at *
  have hkeep (r : RegId) (hb : r.blk = .split) (ho : r.off < 0x30) : u.reg r = s.reg r :=
    hr r fun h => h.elim (fun h => by subst h; simp at ho) fun h => by omega
  have htail : u.fld fSplit_RING_TAIL_TAIL = s.fld fSplit_RING_TAIL_TAIL := congrArg (bits · 15 0) (hkeep rSplit_RING_TAIL rfl (by decide))
  have hlog : u.fld fSplit_RING_LOG2 = s.fld fSplit_RING_LOG2 := congrArg (bits · 4 0) (hkeep rSplit_RING rfl (by decide))
  have hci : u.fld fSplit_RING_CI_CI = s.fld fSplit_RING_CI_CI := congrArg (bits · 15 0) (hkeep rSplit_RING_CI rfl (by decide))
  have hpair : u.pair rSplit_RING_BASE_LO rSplit_RING_BASE_HI = s.pair rSplit_RING_BASE_LO rSplit_RING_BASE_HI := by
    rw [State.pair, State.pair, hkeep rSplit_RING_BASE_LO rfl (by decide), hkeep rSplit_RING_BASE_HI rfl (by decide)]
  have hcs : u.splitCounters = s.splitCounters := splitCounters_congr hkeep
  obtain ⟨hout, hpr, hpp⟩ := putSplit_of_room (ns := ns) (s := u) (by rw [State.bme, hpt .bme (by decide)]; exact hb)
    (by rw [htail, hlog, hci]; exact hroom)
  rw [hpair, htail, hcs] at hout
  obtain ⟨hhead, htime⟩ := splitRecord_head u ns s.splitCounters
  have hkp := modSplit_onlyParts (putSplit ns u) (snapKept s1)
  have hseq' : (putSplit ns u).fld fSplit_SEQ_SEQ = u.fld fSplit_SEQ_SEQ := hpr.fld (by decide)
  refine ⟨(hpp .tb (by decide)).trans htb, ?_, hout, splitRecord_length u ns _, hhead.trans hseq, htime.trans (by rw [htb]),
    congrArg some hlast, ((hpt.mono (by decide)).andThen hpp).andThen hkp⟩
  exact (hkp.regsKept.fld id).trans (hseq'.trans hseq)

/-- Settles O22: EN and FILT write the counter's own registers; a snapshot's record lies at the tail of the ring. -/
theorem countersAndSplits : Obligations.CountersAndSplits := by
  unfold Obligations.CountersAndSplits
  refine ⟨fun addr c v s hs hd hc hu hsh hsrc hen hoff => ⟨_, (exec_cntCfgWrite v hs hd hc).trans
      (by rw [writeCnt_start hu hsh hsrc hen hoff]), cntStart_effect s⟩,
    fun addr c v s hs hd hc hu hsh hv hne => ⟨_, (exec_cntCfgWrite v hs hd hc).trans (by rw [writeCnt_filter hu hsh hv hne, filterKept]),
      filterKept_effect c v s⟩,
    fun v s hs hv hen hb hw h4 h16 hbase => ?_, fun s hen hp hd hb hroom => ?_⟩
  · obtain ⟨hen', htail, hseq, hlost⟩ := splitOpened_fields s
    exact ⟨_, splitEnable_effect hs hv hen hb hw h4 h16 hbase, hen', htail, hseq, hlost, rfl, splitOpened_onlyRegs s, splitOpened_onlyParts s⟩
  · obtain ⟨r, hr⟩ := snapEnd_effect hb hroom
    exact ⟨snapEnd s, r, exec_splitSnapshot hen hp hd, hr⟩

end Sys2Proof.Machine
end

section
/-! SUPPORT. Cox links and crews: which parts and registers the operations on frames, breaks and links change. -/

-- The checked text is one long file: elaborating these in order bounds its threads and memory.
set_option Elab.async false

namespace Sys2Proof.Machine

/-! ## What left the device stays out -/

theorem writeCompl_out {o : Out} (c : Compl) {s : State} (h : o ∈ s.host.out) : o ∈ (writeCompl c s).host.out := by
  have he : o ∈ (emitData c.data s).host.out := out_emitData _ _ _ (.inl h)
  simp only [writeCompl]
  split_ifs
  · simpa using he
  · exact out_cqRecorded _ _ _ _ (by simp [he])
  · exact out_cqRecorded _ _ _ _ (by simp [he])

theorem complete_out {o : Out} (h : Hdr) (st : Nat) (res : List Byte) {s : State} (ho : o ∈ s.host.out) :
    o ∈ (complete h st res s).host.out := by
  unfold complete postCompl
  dsimp only
  split_ifs
  · exact ho
  · exact writeCompl_out _ ho
  · exact ho

/-! ## Links and frames -/

theorem State.link_modLink (s : State) (n m : Nat) (f : CoxLink → CoxLink) :
    (s.modLink n f).link m = if n = m then f (s.link n) else s.link m := Tab.get_set _ _ _ _ _

theorem State.link_modLink_self (s : State) (n : Nat) (f : CoxLink → CoxLink) : (s.modLink n f).link n = f (s.link n) := by
  rw [State.link_modLink, if_pos rfl]

theorem State.link_modLink_ne (s : State) {n m : Nat} (f : CoxLink → CoxLink) (h : n ≠ m) : (s.modLink n f).link m = s.link m := by
  rw [State.link_modLink, if_neg h]

theorem State.link_congr {s t : State} (h : t.links = s.links) (n : Nat) : t.link n = s.link n := by
  rw [State.link, State.link, h]

theorem modCrew_onlyParts (s : State) (f : CrewSt → CrewSt) : onlyParts [.crew] s (s.modCrew f) := by
  intro p hp
  cases p <;> simp_all [Part.same, State.modCrew]

/-- The link by which a frame for link `n` leaves (R177). -/
def State.wayOf (s : State) (n : Nat) : Nat := if s.faulted n then 1 - n else n

/-- The frame that leaves: the mark of a detour is set where its own link is faulted. -/
def State.rerouteOf (s : State) (n : Nat) (f : CrewFrame) : CrewFrame := if s.faulted n then { f with flags := Nat.lor f.flags 2 } else f

theorem sendFrame_queued {n : Nat} {f : CrewFrame} {s : State} (h : s.cxTx (s.wayOf n) ≠ cxTxOff ∧ s.cxTx (s.wayOf n) ≠ cxTxFault) :
    sendFrame n f s = s.modLink (s.wayOf n) fun l =>
      { l with frames := enqueueFrame (s.cxTx (s.wayOf n) == cxTxActive) (s.rerouteOf n f) l.frames } := if_neg (by tauto)

theorem sendFrame_dropped {n : Nat} {f : CrewFrame} {s : State} (h : s.cxTx (s.wayOf n) = cxTxOff ∨ s.cxTx (s.wayOf n) = cxTxFault) :
    sendFrame n f s = match f.tag with
      | .relay h => complete h eAbort [] s
      | _ => s := if_pos h

theorem sendFrame_frame (n : Nat) (f : CrewFrame) (s : State) :
    onlyParts [.links, .qps, .held, .regs, .out] s (sendFrame n f s) ∧ onlyRegs complReg s (sendFrame n f s) := by
  by_cases h : s.cxTx (s.wayOf n) = cxTxOff ∨ s.cxTx (s.wayOf n) = cxTxFault
  · rw [sendFrame_dropped h]
    split
    · exact ⟨(complete_anyParts _ _ _ s).mono (by decide), complete_onlyRegs _ _ _ s⟩
    · exact ⟨.refl _ s, .refl _ s⟩
  · rw [sendFrame_queued (by tauto)]
    exact ⟨(modLink_onlyParts s _ _).mono (by decide), (modLink_onlyParts s _ _).regsKept.of_none⟩

/-- A frame of the device's own completes nothing. -/
theorem sendFrame_plain {n : Nat} {f : CrewFrame} (s : State) (hf : f.tag = .plain) : onlyParts [.links] s (sendFrame n f s) := by
  by_cases h : s.cxTx (s.wayOf n) = cxTxOff ∨ s.cxTx (s.wayOf n) = cxTxFault
  · rw [sendFrame_dropped h, hf]
    exact .refl _ s
  · rw [sendFrame_queued (by tauto)]
    exact modLink_onlyParts s _ _

theorem sendControl_onlyParts (n typ dst : Nat) (up : Bool) (fields : List Int) (s : State) :
    onlyParts [.links, .crew] s (sendControl n typ dst up fields s) :=
  ((nextSeq_onlyParts s).mono (by decide)).trans ((sendFrame_plain _ rfl).mono (by decide))

theorem dropFrames_step (a : State) (f : CrewFrame) :
    let b := match f.tag with
      | .relay h => complete h eAbort [] a
      | .dissolve => { a with crew := { a.crew with dissolve := a.crew.dissolve - 1 } }
      | .plain => a
    onlyParts [.crew, .qps, .held, .regs, .out] a b ∧ onlyRegs complReg a b := by
  cases f.tag with
  | plain => exact ⟨.refl _ a, .refl _ a⟩
  | dissolve =>
    have h := modCrew_onlyParts a fun c => { c with dissolve := c.dissolve - 1 }
    exact ⟨h.mono (by decide), h.regsKept.of_none⟩
  | relay h => exact ⟨(complete_anyParts _ _ _ a).mono (by decide), complete_onlyRegs _ _ _ a⟩

theorem dropFrames_onlyRegs (n : Nat) (s : State) : onlyRegs complReg s (dropFrames n s) :=
  (modLink_onlyParts s n _).regsKept.of_none.trans (.foldl (fun a f _ => (dropFrames_step a f).2) _)

/-! ## Breaks (R177 to R180) -/

theorem addBreak_onlyParts (b : Nat × Nat) (s : State) : onlyParts [.crew] s (addBreak b s) := modCrew_onlyParts s _

theorem healing_onlyParts (s : State) : onlyParts [.regs] s (healing s) := by
  unfold healing
  split_ifs
  · exact setFld_onlyParts s _ _
  · exact .refl _ s

theorem healing_onlyRegs (s : State) : onlyRegs (fun r => r = rCox_CREW_STAT) s (healing s) := by
  unfold healing
  split_ifs
  · exact setFld_onlyReg s _ _ _ _
  · exact .refl _ s

/-- A register in which the crew shows a break: its state, its events and notices. -/
def breakReg (r : RegId) : Prop := noteReg r ∨ r = rCox_CREW_STAT ∨ r = rCox_CREW_EVENT

theorem raiseBreak_onlyRegs (k : Nat) (s : State) : onlyRegs breakReg s (raise_ ⟨rCox_CREW_EVENT, k, k⟩ s) :=
  (raise_onlyRegs _ s).mono fun _ h => h.elim (.inr ∘ .inr) .inl

theorem crewStat_onlyRegs (hi lo v : Nat) (s : State) : onlyRegs breakReg s (s.setFld ⟨rCox_CREW_STAT, hi, lo⟩ v) :=
  (setFld_onlyReg s _ _ _ _).mono fun _ h => .inr (.inl h)

theorem healed_onlyParts (s : State) : onlyParts [.links, .crew, .rings, .regs, .out] s (healed s) :=
  ((((setFld_onlyParts s _ _).mono (by decide)).andThen (modCrew_onlyParts _ _)).andThen (raise_onlyParts _ _)).andThen
    ((sendControl_onlyParts _ _ _ _ _ _).trans (sendControl_onlyParts _ _ _ _ _ _))

theorem healed_onlyRegs (s : State) : onlyRegs breakReg s (healed s) :=
  (crewStat_onlyRegs _ _ _ s).trans <| (modCrew_onlyParts _ _).regsKept.of_none.trans <| (raiseBreak_onlyRegs _ _).trans <|
    ((sendControl_onlyParts _ _ _ _ _ _).trans (sendControl_onlyParts _ _ _ _ _ _)).regsKept.of_none

theorem newBreak_onlyParts (b : Nat × Nat) (s : State) :
    onlyParts [.crew, .rings, .regs, .out] s (raise_ fCox_CREW_EVENT_BREAK (healing (addBreak b s))) :=
  (((addBreak_onlyParts b s).mono (by decide)).andThen (healing_onlyParts _)).andThen (raise_onlyParts _ _)

theorem newBreak_onlyRegs (b : Nat × Nat) (s : State) :
    onlyRegs breakReg s (raise_ fCox_CREW_EVENT_BREAK (healing (addBreak b s))) :=
  (addBreak_onlyParts b s).regsKept.of_none.trans <|
    ((healing_onlyRegs _).mono fun _ h => .inr (.inl h)).trans (raiseBreak_onlyRegs _ _)

theorem noteBreak_onlyParts (b : Nat × Nat) (s : State) : onlyParts [.links, .crew, .rings, .regs, .out] s (noteBreak b s) := by
  unfold noteBreak
  dsimp only
  split_ifs
  · exact .refl _ s
  · exact ((newBreak_onlyParts b s).mono (by decide)).andThen (healed_onlyParts _)
  · exact (newBreak_onlyParts b s).mono (by decide)

theorem noteBreak_onlyRegs (b : Nat × Nat) (s : State) : onlyRegs breakReg s (noteBreak b s) := by
  unfold noteBreak
  dsimp only
  split_ifs
  · exact .refl _ s
  · exact (newBreak_onlyRegs b s).trans (healed_onlyRegs _)
  · exact newBreak_onlyRegs b s

theorem judgeBreaks_onlyParts (s : State) : onlyParts [.crew, .rings, .regs, .out] s (judgeBreaks s) := by
  have hmark (k : Nat) (g : CrewSt → CrewSt) (a : State) : onlyParts [.crew, .rings, .regs, .out] a
      (raise_ ⟨rCox_CREW_EVENT, k, k⟩ ((a.setFld fCox_CREW_STAT_HOLDOVER 1).modCrew g)) :=
    (((setFld_onlyParts a _ _).mono (by decide)).andThen (modCrew_onlyParts _ _)).andThen (raise_onlyParts _ _)
  unfold judgeBreaks
  dsimp only
  split_ifs
  · exact (hmark _ _ s).trans (hmark _ _ _)
  · exact hmark _ _ s
  · exact hmark _ _ s
  · exact .refl _ s

theorem judgeBreaks_onlyRegs (s : State) : onlyRegs breakReg s (judgeBreaks s) := by
  have hmark (k : Nat) (g : CrewSt → CrewSt) (a : State) : onlyRegs breakReg a
      (raise_ ⟨rCox_CREW_EVENT, k, k⟩ ((a.setFld fCox_CREW_STAT_HOLDOVER 1).modCrew g)) :=
    (crewStat_onlyRegs _ _ _ a).trans <| (modCrew_onlyParts _ _).regsKept.of_none.trans (raiseBreak_onlyRegs _ _)
  unfold judgeBreaks
  dsimp only
  split_ifs
  · exact (hmark _ _ s).trans (hmark _ _ _)
  · exact hmark _ _ s
  · exact hmark _ _ s
  · exact .refl _ s

/-- What a member or lead does about the break that it found at its link `n` (R177, R180). -/
def reportBreak (n : Nat) (lead : Bool) (me : Nat) (s2 : State) (path : State → Bool) : State :=
  if lead then noteBreak (0, n) s2
  else
    let s4 := sendControl n tBreak 0 (n == 0) [me, n] (raise_ fCox_CREW_EVENT_BREAK (healing (addBreak (me, n) s2)))
    judgeBreaks (if path s4 then s4.setFld fCox_CREW_STAT_PATH (1 - n) else s4)

theorem reportBreak_onlyParts (n : Nat) (lead : Bool) (me : Nat) (s : State) (path : State → Bool) :
    onlyParts [.links, .crew, .rings, .regs, .out] s (reportBreak n lead me s path) := by
  unfold reportBreak
  dsimp only
  have h := ((newBreak_onlyParts (me, n) s).mono (l' := [.links, .crew, .rings, .regs, .out]) (by decide)).andThen
    (sendControl_onlyParts n tBreak 0 (n == 0) [me, n] _)
  split_ifs
  · exact noteBreak_onlyParts _ s
  · exact (h.andThen (setFld_onlyParts _ _ _)).andThen (judgeBreaks_onlyParts _)
  · exact h.andThen (judgeBreaks_onlyParts _)

theorem reportBreak_onlyRegs (n : Nat) (lead : Bool) (me : Nat) (s : State) (path : State → Bool) :
    onlyRegs breakReg s (reportBreak n lead me s path) := by
  unfold reportBreak
  dsimp only
  have h := (newBreak_onlyRegs (me, n) s).trans
    (sendControl_onlyParts n tBreak 0 (n == 0) [me, n] _).regsKept.of_none
  split_ifs
  · exact noteBreak_onlyRegs _ s
  · exact (h.trans (crewStat_onlyRegs _ _ _ _)).trans (judgeBreaks_onlyRegs _)
  · exact h.trans (judgeBreaks_onlyRegs _)

/-- The link marked as faulted, with nothing waiting on it (R177). -/
def State.markLink (s : State) (n : Nat) : State :=
  ((s.setFld (fCx_STAT_FAULTED n) 1).setFld (fCx_STAT_WRAPPED n) 1).modLink n ({ · with frames := [], items := [] })

/-- The frames that waited go the other way (R177). -/
def State.rerouted (s : State) (n : Nat) (waiting : List CrewFrame) : State :=
  waiting.foldl (fun a f => sendFrame n f a) (raise_ (fCx_EVENT_WRAP n) s)

theorem markFaulted_eq {n : Nat} {s : State} (hc : s.inCrew = true) (hf : s.faulted n = false) :
    ∃ lead me path, markFaulted n s = reportBreak n lead me ((s.markLink n).rerouted n (s.link n).frames) path := by
  refine ⟨decide (s.role = roleLead), s.fld fCox_CREW_STAT_MEMBER_ID,
    fun a => s.on fCox_CREW_STAT_TOPO && decide (s.fld fCox_CREW_STAT_PATH = n) && !s.faulted (1 - n), ?_⟩
  unfold markFaulted reportBreak
  rw [if_neg (by simp [hc, hf])]
  simp only [decide_eq_true_eq, Bool.and_eq_true, and_assoc]
  rfl

/-! ## The start and the end of a crew -/

theorem crewClear_onlyParts (role : Nat) (s : State) : onlyParts [.crew, .regs] s (crewClear role s) :=
  (((((setFld_onlyParts s _ _).mono (by decide)).andThen (setFld_onlyParts _ _ _)).andThen (setFld_onlyParts _ _ _)).andThen
    (setFld_onlyParts _ _ _)).andThen (modCrew_onlyParts _ _)

theorem crewClear_onlyRegs (role : Nat) (s : State) : onlyRegs (fun r => r = rCox_CREW_STAT) s (crewClear role s) :=
  (setFld_onlyReg s _ _ _ _).trans <| (setFld_onlyReg _ _ _ _ _).trans <| (setFld_onlyReg _ _ _ _ _).trans <|
    (setFld_onlyReg _ _ _ _ _).trans (modCrew_onlyParts _ _).regsKept.of_none

theorem crewClear_crew (role : Nat) (s : State) : (crewClear role s).crew = { s.crew with formed := false, relayEn := false } := rfl

theorem joinDone_onlyParts (st : Nat) (s : State) : onlyParts [.crew, .qps, .held, .regs, .out] s (joinDone st s) := by
  unfold joinDone
  split
  · exact .refl _ s
  · exact ((modCrew_onlyParts s _).mono (by decide)).andThen (complete_anyParts _ _ _ _)

theorem joinDone_onlyRegs (st : Nat) (s : State) : onlyRegs complReg s (joinDone st s) := by
  unfold joinDone
  split
  · exact .refl _ s
  · exact (modCrew_onlyParts s _).regsKept.of_none.trans (complete_onlyRegs _ _ _ _)

theorem joinDone_join (st : Nat) (s : State) : (joinDone st s).crew.join = none := by
  unfold joinDone
  split
  case h_1 h => exact h
  case h_2 h => rw [complete_anyParts _ _ _ _ .crew (by decide)]; rfl

end Sys2Proof.Machine
end

section
/-! SUPPORT. The states of cox receivers and transmitters (R157, R158, R165, R167, R168, R178). -/

-- The checked text is one long file: elaborating these in order bounds its threads and memory.
set_option Elab.async false

namespace Sys2Proof.Machine

/-! ## Receivers -/

theorem setCxRx_cxRx (s : State) (n : Nat) {v : Nat} (hv : v < 8) : (s.setCxRx n v).cxRx n = v :=
  State.fld_setFld_self_of_lt s _ (by decide) hv

theorem setCxTx_cxTx (s : State) (n : Nat) {v : Nat} (hv : v < 8) : (s.setCxTx n v).cxTx n = v :=
  State.fld_setFld_self_of_lt s _ (by decide) hv

theorem setCxTx_cxRx (s : State) (n v : Nat) : (s.setCxTx n v).cxRx n = s.cxRx n :=
  State.fld_setFld_other s _ _ _ _ _ _ (by decide) (by decide) (by decide) (by decide) (by decide)

theorem setLos_cxRx (s : State) (n v : Nat) : (s.setFld (fCx_STAT_LOS n) v).cxRx n = s.cxRx n :=
  State.fld_setFld_other s _ _ _ _ _ _ (by decide) (by decide) (by decide) (by decide) (by decide)

theorem cxRx_congr {P : RegId → Prop} {s t : State} (h : onlyRegs P s t) {n : Nat} (hn : ¬ P (rCx_STAT n)) : t.cxRx n = s.cxRx n := h.fld hn

theorem cxTx_congr {P : RegId → Prop} {s t : State} (h : onlyRegs P s t) {n : Nat} (hn : ¬ P (rCx_STAT n)) : t.cxTx n = s.cxTx n := h.fld hn

theorem cxStat_not_note (n : Nat) : ¬ (rCx_STAT n = rCx_EVENT n ∨ noteReg (rCx_STAT n)) := by simp [noteReg]

theorem cxEvent_raise_onlyRegs (n k : Nat) (s : State) :
    onlyRegs (fun r => noteReg r ∨ r = rCx_STAT n ∨ r = rCx_EVENT n) s (raise_ ⟨rCx_EVENT n, k, k⟩ s) :=
  (raise_onlyRegs _ s).mono fun _ h => h.elim (.inr ∘ .inr) .inl

theorem cxStat_onlyRegs (n hi lo v : Nat) (s : State) :
    onlyRegs (fun r => noteReg r ∨ r = rCx_STAT n ∨ r = rCx_EVENT n) s (s.setFld ⟨rCx_STAT n, hi, lo⟩ v) :=
  (setFld_onlyReg s _ _ _ _).mono fun _ => .inr ∘ .inl

/-- A raised event leaves the other events of its register. -/
theorem fld_raise_event (r : RegId) {k j : Nat} (s : State) (hk : k < 32) (hj : j < 32) (hne : j ≠ k) (hblk : r.blk ≠ .msix ∧ r.blk ≠ .nq) :
    (raise_ ⟨r, k, k⟩ s).fld ⟨r, j, j⟩ = s.fld ⟨r, j, j⟩ := by
  rw [raise_, eventNotice_fld _ _ _ _ _ _ _ hblk.1 hblk.2]
  exact State.fld_setFld_other s r _ _ _ _ _ le_rfl hk le_rfl hj (by omega)

theorem exec_coxSignalDetect {n : Nat} {s : State} (hn : n < 2) (hs : s.cxRx n = cxRxSearch) :
    exec (.coxSignalDetect n) s = .next (((s.setFld (fCx_STAT_LOS n) 0).setCxRx n cxRxAlign).modLink n ({ · with upRun := 0, downRun := 0 })) := by
  show execCoxSignalDetect n s = _
  rw [execCoxSignalDetect, if_neg (by omega)]
  dsimp only
  rw [if_pos hs]

theorem exec_coxRxUp {n : Nat} {s : State} (hn : n < 2) (hs : s.cxRx n = cxRxAlign) (hp : s.on (fCx_PRBS_STAT_CHK n) = false)
    (hr : 2 ≤ (s.link n).upRun) : exec (.coxRxUp n) s =
      .next (raise_ (fCx_EVENT_UP n) ((s.setCxRx n cxRxUp).modLink n ({ · with downRun := 0, upSince := s.up }))) := by
  show execCoxRxUp n s = _
  rw [execCoxRxUp, if_pos ⟨hn, hs, by simp [hp], hr⟩]

/-- The receiver of link `n` in DOWN, with the event, and with LOS where the signal is lost (R157). -/
def State.cxDown (s : State) (n cause : Nat) : State :=
  let s1 := raise_ (fCx_EVENT_DOWN n) ((s.setCxRx n cxRxDown).modLink n ({ · with upRun := 0, downRun := 0 }))
  if cause = 0 then raise_ (fCx_EVENT_LOS n) (s1.setFld (fCx_STAT_LOS n) 1) else s1

theorem exec_coxRxDown {n cause : Nat} {s : State} (hn : n < 2) (hs : s.cxRx n = cxRxUp) (hp : s.on (fCx_PRBS_STAT_CHK n) = false)
    (hr : cause = 2 → 4 ≤ (s.link n).downRun) : exec (.coxRxDown n cause) s = .next (if s.inCrew then
      faultFrames (((markFaulted n (s.cxDown n cause)).setCxTx n cxTxFault).modLink n ({ · with faultAt := s.up })) else s.cxDown n cause) := by
  show execCoxRxDown n cause s = _
  rw [execCoxRxDown, if_neg]
  · rfl
  · rintro (h | h | h | ⟨h, h'⟩)
    · omega
    · exact h hs
    · simp [hp] at h
    · have := hr h
      omega

theorem cxDown_onlyRegs (n cause : Nat) (s : State) :
    onlyRegs (fun r => noteReg r ∨ r = rCx_STAT n ∨ r = rCx_EVENT n) s (s.cxDown n cause) := by
  have h := (cxStat_onlyRegs n 7 5 cxRxDown s).trans <| (modLink_onlyParts _ n ({ · with upRun := 0, downRun := 0 })).regsKept.of_none.trans
    (cxEvent_raise_onlyRegs n 1 _)
  unfold State.cxDown
  dsimp only
  split_ifs
  · exact h.trans <| (cxStat_onlyRegs n _ _ _ _).trans (cxEvent_raise_onlyRegs n _ _)
  · exact h

theorem cxDown_onlyParts (n cause : Nat) (s : State) : onlyParts [.links, .rings, .regs, .out] s (s.cxDown n cause) := by
  have h := (((setFld_onlyParts s (fCx_STAT_RX_STATE n) cxRxDown).mono (l' := [.links, .rings, .regs, .out]) (by decide)).andThen
    (modLink_onlyParts _ n ({ · with upRun := 0, downRun := 0 }))).andThen (raise_onlyParts (fCx_EVENT_DOWN n) _)
  unfold State.cxDown
  dsimp only
  split_ifs
  · exact (h.andThen (setFld_onlyParts _ _ _)).andThen (raise_onlyParts _ _)
  · exact h

theorem cxDown_fields (n cause : Nat) (s : State) : (s.cxDown n cause).cxRx n = cxRxDown ∧ (s.cxDown n cause).fld (fCx_EVENT_DOWN n) = 1 ∧
    (cause = 0 → (s.cxDown n cause).fld (fCx_STAT_LOS n) = 1 ∧ (s.cxDown n cause).fld (fCx_EVENT_LOS n) = 1) := by
  have hblk : (rCx_EVENT n).blk ≠ .msix ∧ (rCx_EVENT n).blk ≠ .nq := ⟨Blk.noConfusion, Blk.noConfusion⟩
  obtain ⟨a, ha⟩ : ∃ a, a = (s.setCxRx n cxRxDown).modLink n ({ · with upRun := 0, downRun := 0 }) := ⟨_, rfl⟩
  have hrx : (raise_ (fCx_EVENT_DOWN n) a).cxRx n = cxRxDown := by
    rw [cxRx_congr (raise_onlyRegs _ a) (cxStat_not_note n), ha, cxRx_congr (P := fun _ => False) (modLink_onlyParts _ _ _).regsKept id]
    exact setCxRx_cxRx s n (by decide)
  have hev : (raise_ (fCx_EVENT_DOWN n) a).fld (fCx_EVENT_DOWN n) = 1 := raise_fld_self _ a (by decide) hblk
  unfold State.cxDown
  rw [← ha]
  dsimp only
  generalize raise_ (fCx_EVENT_DOWN n) a = b at hrx hev
  split_ifs with hc
  · refine ⟨?_, ?_, fun _ => ⟨?_, raise_fld_self _ _ (by decide) hblk⟩⟩
    · rw [cxRx_congr (raise_onlyRegs _ _) (cxStat_not_note n), setLos_cxRx, hrx]
    · exact (fld_raise_event _ _ (by decide) (by decide) (by decide) hblk).trans
        ((State.fld_setFld_ne _ _ _ _ _ _ (by simp)).trans hev)
    · exact ((raise_onlyRegs _ _).fld (cxStat_not_note n)).trans (State.fld_setFld_self_of_lt _ _ (by decide) (by decide))
  · exact ⟨hrx, hev, fun h => absurd h hc⟩

/-- Marking a link as faulted: FAULTED shows, the rest of STAT but WRAPPED stays, of the link's events WRAP shows (R177). -/
theorem markFaulted_effect {n : Nat} {s : State} (hc : s.inCrew = true) : (markFaulted n s).faulted n = true ∧
    (markFaulted n s).cxRx n = s.cxRx n ∧ (markFaulted n s).fld (fCx_EVENT_DOWN n) = s.fld (fCx_EVENT_DOWN n) ∧
    onlyRegs (fun r => noteReg r ∨ complReg r ∨ r.blk = .cx ∨ r = rCox_CREW_STAT ∨ r = rCox_CREW_EVENT) s (markFaulted n s) ∧
    onlyParts [.links, .crew, .qps, .held, .rings, .regs, .out] s (markFaulted n s) := by
  by_cases hf : s.faulted n = true
  · rw [show markFaulted n s = s by rw [markFaulted, if_pos (.inr hf)]]
    exact ⟨hf, rfl, rfl, .refl _ s, .refl _ s⟩
  obtain ⟨lead, me, path, heq⟩ := markFaulted_eq hc (by simpa using hf)
  rw [heq]
  have hmark : onlyRegs (fun r => r = rCx_STAT n) s (s.markLink n) := ((setFld_onlyReg s _ _ _ _).trans (setFld_onlyReg _ _ _ _ _)).trans
    (modLink_onlyParts _ _ _).regsKept.of_none
  have hmarkp : onlyParts [.links, .regs] s (s.markLink n) :=
    (((setFld_onlyParts s _ _).mono (by decide)).andThen (setFld_onlyParts _ _ _)).andThen (modLink_onlyParts _ _ _)
  have hfm : (s.markLink n).faulted n = true := by
    have h : (s.markLink n).fld (fCx_STAT_FAULTED n) = 1 := (State.fld_congr
      (s := (s.setFld (fCx_STAT_FAULTED n) 1).setFld (fCx_STAT_WRAPPED n) 1) rfl _).trans (by simp)
    rw [State.faulted, State.on, h]
    rfl
  have hrm : (s.markLink n).cxRx n = s.cxRx n := (State.fld_congr
    (s := (s.setFld (fCx_STAT_FAULTED n) 1).setFld (fCx_STAT_WRAPPED n) 1) rfl _).trans (by simp [State.cxRx])
  have hsend (a : State) (l : List CrewFrame) : onlyRegs complReg a (l.foldl (fun a f => sendFrame n f a) a) :=
    .foldl (fun b f _ => (sendFrame_frame n f b).2) a
  have hsendp (a : State) (l : List CrewFrame) : onlyParts [.links, .qps, .held, .regs, .out] a (l.foldl (fun a f => sendFrame n f a) a) :=
    .foldl (fun b f => (sendFrame_frame n f b).1) _ a
  obtain ⟨b, hb⟩ : ∃ b, b = raise_ (fCx_EVENT_WRAP n) (s.markLink n) := ⟨_, rfl⟩
  have hbr : onlyRegs (fun r => r = rCx_EVENT n ∨ noteReg r) (s.markLink n) b := by
    rw [hb]
    exact raise_onlyRegs (fCx_EVENT_WRAP n) _
  have hbd : b.fld (fCx_EVENT_DOWN n) = s.fld (fCx_EVENT_DOWN n) := by
    rw [hb]
    exact (fld_raise_event _ _ (by decide) (by decide) (by decide) ⟨Blk.noConfusion, Blk.noConfusion⟩).trans (hmark.fld (by simp))
  have hrest : onlyRegs (fun r => complReg r ∨ breakReg r) b
      (reportBreak n lead me ((s.markLink n).rerouted n (s.link n).frames) path) := by
    rw [State.rerouted, ← hb]
    exact ((hsend b _).mono fun _ => .inl).andThen (reportBreak_onlyRegs _ _ _ _ _) fun _ => .inr
  have hrestp : onlyParts [.links, .crew, .qps, .held, .rings, .regs, .out] b
      (reportBreak n lead me ((s.markLink n).rerouted n (s.link n).frames) path) := by
    rw [State.rerouted, ← hb]
    exact ((hsendp b _).mono (by decide)).trans ((reportBreak_onlyParts _ _ _ _ _).mono (by decide))
  have hstat : ¬ (complReg (rCx_STAT n) ∨ breakReg (rCx_STAT n)) := by simp [complReg, breakReg, noteReg]
  refine ⟨(hrest.on hstat).trans ((hbr.on (cxStat_not_note n)).trans hfm),
    (cxRx_congr hrest hstat).trans ((cxRx_congr hbr (cxStat_not_note n)).trans hrm),
    (hrest.fld (by simp [complReg, breakReg, noteReg])).trans hbd, ?_, ?_⟩
  · refine (hmark.mono fun r h => ?_).trans ((hbr.mono fun r h => ?_).trans (hrest.mono fun r h => ?_))
    · subst h
      exact .inr (.inr (.inl rfl))
    · rcases h with rfl | h
      · exact .inr (.inr (.inl rfl))
      · exact .inl h
    · rcases h with h | h | h | h
      · exact .inr (.inl h)
      · exact .inl h
      · exact .inr (.inr (.inr (.inl h)))
      · exact .inr (.inr (.inr (.inr h)))
  · exact (hmarkp.mono (by decide)).trans ((hb ▸ (raise_onlyParts _ _).mono (by decide) :
      onlyParts [.links, .crew, .qps, .held, .rings, .regs, .out] (s.markLink n) b).trans hrestp)

/-! ## Frames of a fault (R178) -/

theorem linkFrame_out (n typ : Nat) (s : State) : ∃ f : CrewFrame, f.typ = typ ∧ f.dst = 0xFFFF ∧
    (linkFrame n typ s).host.out = .coxItem n 0xFB (frameBytes f) :: s.host.out :=
  ⟨ownFrame typ 0xFFFF (n == 0) [] s, rfl, rfl, rfl⟩

theorem frameBytes_typ (f : CrewFrame) : field (frameBytes f) 0 1 = f.typ % 256 := by
  have h : field (frameBytes f) 0 1 = ofLe (leBytes 1 f.typ) := by
    simp [field, frameBytes, leBytes]
  rw [h, ofLe_leBytes]
  rfl

theorem frameBytes_dst (f : CrewFrame) : field (frameBytes f) 4 2 = f.dst % 65536 := by
  have h : field (frameBytes f) 4 2 = ofLe (leBytes 2 f.dst) := by
    simp [field, frameBytes, leBytes]
  rw [h, ofLe_leBytes]
  rfl

/-- What the LINK_FAULT frames of one link do. -/
def faultStep (a : State) (n : Nat) : State :=
  let l := a.link n
  if a.cxTx n = cxTxFault ∧ l.faultAt ≤ a.up then
    let k := (a.up - l.faultAt) / (1000 * nsU) + 1
    ((List.range k).foldl (fun b _ => linkFrame n tFault b) a).modLink n ({ · with faultAt := l.faultAt + k * 1000 * nsU })
  else a

theorem faultFrames_eq (s : State) : faultFrames s = faultStep (faultStep s 0) 1 := rfl

theorem faultStep_onlyParts (a : State) (n : Nat) : onlyParts [.links, .crew, .out] a (faultStep a n) := by
  unfold faultStep
  dsimp only
  split_ifs
  · exact (onlyParts.foldl (fun b _ => (linkFrame_onlyParts _ _ b).mono (by decide)) _ a).andThen (modLink_onlyParts _ _ _)
  · exact .refl _ a

theorem linkFrames_out {o : Out} (n typ : Nat) (l : List Nat) (a : State) (h : o ∈ a.host.out) :
    o ∈ (l.foldl (fun b _ => linkFrame n typ b) a).host.out := by
  induction l generalizing a with
  | nil => exact h
  | cons x l ih =>
    refine ih _ ?_
    obtain ⟨f, -, -, hf⟩ := linkFrame_out n typ a
    rw [hf]
    exact List.mem_cons_of_mem _ h

theorem faultStep_out {o : Out} (a : State) (n : Nat) (h : o ∈ a.host.out) : o ∈ (faultStep a n).host.out := by
  unfold faultStep
  dsimp only
  split_ifs
  · exact linkFrames_out n tFault _ a h
  · exact h

theorem faultStep_link {n m : Nat} (a : State) (h : n ≠ m) : (faultStep a n).link m = a.link m := by
  have hl (l : List Nat) : (l.foldl (fun b _ => linkFrame n tFault b) a).link m = a.link m :=
    State.link_congr ((onlyParts.foldl (fun b _ => linkFrame_onlyParts _ _ b) l a) .links (by decide)) m
  unfold faultStep
  dsimp only
  split_ifs
  · rw [State.link_modLink_ne _ _ h, hl]
  · rfl

theorem faultStep_sends {n : Nat} {a : State} (ht : a.cxTx n = cxTxFault) (hf : (a.link n).faultAt ≤ a.up) :
    ∃ b, .coxItem n 0xFB b ∈ (faultStep a n).host.out ∧ field b 0 1 = tFault := by
  obtain ⟨f, htyp, -, hout⟩ := linkFrame_out n tFault a
  refine ⟨frameBytes f, ?_, by rw [frameBytes_typ, htyp]; rfl⟩
  unfold faultStep
  dsimp only
  rw [if_pos ⟨ht, hf⟩, List.range_succ_eq_map, List.foldl_cons]
  exact linkFrames_out n tFault _ _ (by rw [hout]; exact List.mem_cons_self)

theorem faultFrames_sends {n : Nat} {s : State} (hn : n < 2) (ht : s.cxTx n = cxTxFault) (hf : (s.link n).faultAt ≤ s.up) :
    ∃ b, .coxItem n 0xFB b ∈ (faultFrames s).host.out ∧ field b 0 1 = tFault := by
  rw [faultFrames_eq]
  obtain rfl | rfl : n = 0 ∨ n = 1 := by omega
  · obtain ⟨b, hb, hty⟩ := faultStep_sends ht hf
    exact ⟨b, faultStep_out _ _ hb, hty⟩
  · have h0 := faultStep_onlyParts s 0
    refine faultStep_sends ((cxTx_congr (P := fun _ => False) h0.regsKept id).trans ht) ?_
    rw [faultStep_link s (by decide), h0 .up (by decide)]
    exact hf

/-- A loss of UP in a crew (R157, R178). -/
theorem rxDownInCrew_effect {n : Nat} (cause : Nat) {s t : State} (hn : n < 2) (hc : s.inCrew = true)
    (ht : t = faultFrames (((markFaulted n (s.cxDown n cause)).setCxTx n cxTxFault).modLink n ({ · with faultAt := s.up }))) :
    ∃ b, t.cxRx n = cxRxDown ∧ t.fld (fCx_EVENT_DOWN n) = 1 ∧ t.cxTx n = cxTxFault ∧
      t.faulted n = true ∧ .coxItem n 0xFB b ∈ t.host.out ∧ field b 0 1 = tFault ∧
      onlyRegs (fun r => noteReg r ∨ complReg r ∨ r.blk = .cx ∨ r = rCox_CREW_STAT ∨ r = rCox_CREW_EVENT) s t ∧
      onlyParts [.links, .crew, .qps, .held, .rings, .regs, .out] s t := by
  have hdr := cxDown_onlyRegs n cause s
  have hdp := cxDown_onlyParts n cause s
  obtain ⟨hrx, hev, -⟩ := cxDown_fields n cause s
  have hc' : (s.cxDown n cause).inCrew = true := by
    rw [← hc, State.inCrew, State.inCrew, State.role, State.role, hdr.fld (by simp [noteReg])]
  obtain ⟨hmf, hmrx, hmev, hmr, hmp⟩ := markFaulted_effect (n := n) hc'
  have hup : (markFaulted n (s.cxDown n cause)).up = s.up := (hmp .up (by decide)).trans (hdp .up (by decide))
  rw [hrx] at hmrx
  rw [hev] at hmev
  have hr1 := (hdr.mono (Q := fun r => noteReg r ∨ complReg r ∨ r.blk = .cx ∨ r = rCox_CREW_STAT ∨ r = rCox_CREW_EVENT) (fun r h => by
    rcases h with h | rfl | rfl
    · exact .inl h
    · exact .inr (.inr (.inl rfl))
    · exact .inr (.inr (.inl rfl)))).trans hmr
  have hp1 := (hdp.mono (by decide)).trans hmp
  generalize markFaulted n (s.cxDown n cause) = a at *
  obtain ⟨b, hb⟩ : ∃ b, b = (a.setCxTx n cxTxFault).modLink n ({ · with faultAt := s.up }) := ⟨_, rfl⟩
  have hbr (f : FldId) : b.fld f = (a.setCxTx n cxTxFault).fld f := by
    rw [hb]
    exact State.fld_congr rfl f
  have hbtx : b.cxTx n = cxTxFault := (hbr _).trans (setCxTx_cxTx a n (by decide))
  have hblink : (b.link n).faultAt ≤ b.up := by
    rw [hb, State.link_modLink_self]
    exact hup.ge
  have hbo : onlyRegs (fun r => r = rCx_STAT n) a b :=
    hb ▸ (setFld_onlyReg a _ _ _ _).trans (modLink_onlyParts _ _ _).regsKept.of_none
  have hbp : onlyParts [.links, .regs] a b := hb ▸ ((setFld_onlyParts a _ _).mono (by decide)).andThen (modLink_onlyParts _ _ _)
  obtain ⟨d, hd, hty⟩ := faultFrames_sends hn hbtx hblink
  rw [← hb] at ht
  subst ht
  have hfp := faultFrames_onlyParts b
  have hk (f : FldId) : (faultFrames b).fld f = b.fld f := hfp.regsKept.fld id
  refine ⟨d, (hk _).trans ((hbr _).trans ((setCxTx_cxRx a n _).trans hmrx)), (hk _).trans ((hbo.fld (by simp)).trans hmev),
    (hk _).trans hbtx, ?_, hd, hty, ?_, ((hp1.trans (hbp.mono (by decide)))).andThen hfp⟩
  · have hfb : b.fld (fCx_STAT_FAULTED n) = a.fld (fCx_STAT_FAULTED n) :=
      (hbr _).trans (State.fld_setFld_other a _ _ _ _ _ _ (by decide) (by decide) (by decide) (by decide) (by decide))
    rw [State.faulted, State.on, hk, hfb]
    exact hmf
  · exact hr1.trans ((hbo.mono fun r h => by subst h; exact .inr (.inr (.inl rfl))).trans hfp.regsKept.of_none)

end Sys2Proof.Machine
end

section
/-! PROOFS. Merit, equaliser taps and transmitters of cox links, and O23. -/

-- The checked text is one long file: elaborating these in order bounds its threads and memory.
set_option Elab.async false

namespace Sys2Proof.Machine

/-! ## Merit and decision feedback taps (R159) -/

theorem decibels_le (ser n t : Nat) : decibels ser n t ≤ n := by
  induction n generalizing t with
  | zero => exact le_rfl
  | succ n ih =>
    rw [decibels]
    split_ifs
    · have := ih (t * tenthDecade / fixOne)
      omega
    · omega

theorem meritFrom_lt (ser : Nat) : meritFrom ser < 256 := by
  have hm : meritExact ser ≤ 255 := decibels_le _ _ _
  unfold meritFrom
  generalize meritExact ser = m at hm
  dsimp only
  split_ifs
  · omega
  · split <;> omega

/-- MERIT with the window's value, its number one higher, ready and fresh (R159). -/
theorem meritShown_fields (n : Nat) {m : Nat} (s : State) (hm : m < 256) :
    let t := ((s.setFld (fCx_MERIT_MERIT n) m).incWrap (fCx_MERIT_WIN_SEQ n)).resultReady (rCx_MERIT n)
    t.fld (fCx_MERIT_MERIT n) = m ∧ t.fld (fCx_MERIT_WIN_SEQ n) = (s.fld (fCx_MERIT_WIN_SEQ n) + 1) % 256 ∧
      t.fld (fCx_MERIT_FRESH n) = 1 := by
  have hkeep (a : State) {hi lo : Nat} (h : fieldOk hi lo) (hlt : hi < 30) :
      (a.resultReady (rCx_MERIT n)).fld ⟨rCx_MERIT n, hi, lo⟩ = a.fld ⟨rCx_MERIT n, hi, lo⟩ := by
    rw [State.resultReady, State.fld_setReg_self]
    exact bits_putBits_other _ _ ⟨by decide, by decide⟩ h (by omega)
  refine ⟨?_, ?_, ?_⟩
  · exact (hkeep _ (by decide) (by decide)).trans <| (State.fld_setFld_other _ _ _ _ _ _ _ (by decide) (by decide) (by decide) (by decide)
      (by decide)).trans (State.fld_setFld_self_of_lt s _ (by decide) hm)
  · refine (hkeep _ (by decide) (by decide)).trans <| (State.fld_setFld_self _ _ _ _ _ (by decide) (by decide)).trans ?_
    rw [State.fld_setFld_other _ _ _ _ _ _ _ (by decide) (by decide) (by decide) (by decide) (by decide)]
    rfl
  · rw [State.resultReady, State.fld_setReg_self, bits_putBits_part _ _ ⟨by decide, by decide⟩ ⟨by decide, by decide⟩ (by decide) (by decide)]
    rfl

/-- The registers of a window's end (R159). -/
def State.windowShown (s : State) (n m v : Nat) : State :=
  (((s.setFld (fCx_MERIT_MERIT n) m).incWrap (fCx_MERIT_WIN_SEQ n)).resultReady (rCx_MERIT n)).addSat (fCx_CNT_CODE_ERR n) v

theorem windowShown_effect (n v : Nat) {m : Nat} (s : State) (hm : m < 256) : (s.windowShown n m v).fld (fCx_MERIT_MERIT n) = m ∧
    (s.windowShown n m v).fld (fCx_MERIT_WIN_SEQ n) = (s.fld (fCx_MERIT_WIN_SEQ n) + 1) % 256 ∧
    (s.windowShown n m v).fld (fCx_MERIT_FRESH n) = 1 ∧
    (s.windowShown n m v).fld (fCx_CNT_CODE_ERR n) = min 65535 (s.fld (fCx_CNT_CODE_ERR n) + v) ∧
    onlyRegs (fun r => r = rCx_MERIT n ∨ r = rCx_CNT n) s (s.windowShown n m v) ∧ onlyParts [.regs] s (s.windowShown n m v) := by
  obtain ⟨hm, hw, hf⟩ := meritShown_fields n s hm
  have hne : rCx_MERIT n ≠ rCx_CNT n := by simp
  have hr : onlyRegs (fun r => r = rCx_MERIT n) s (((s.setFld (fCx_MERIT_MERIT n) m).incWrap (fCx_MERIT_WIN_SEQ n)).resultReady
      (rCx_MERIT n)) := ((setFld_onlyReg s _ _ _ _).trans (incWrap_onlyReg _ _ _ _)).trans (resultReady_onlyRegs _ _)
  have hp : onlyParts [.regs] s (((s.setFld (fCx_MERIT_MERIT n) m).incWrap (fCx_MERIT_WIN_SEQ n)).resultReady (rCx_MERIT n)) :=
    ((setFld_onlyParts s _ _).trans (incWrap_onlyParts _ _)).trans (resultReady_onlyParts _ _)
  unfold State.windowShown
  generalize ((s.setFld (fCx_MERIT_MERIT n) m).incWrap (fCx_MERIT_WIN_SEQ n)).resultReady (rCx_MERIT n) = a at *
  refine ⟨(State.fld_addSat_ne _ _ _ _ _ _ hne).trans hm, (State.fld_addSat_ne _ _ _ _ _ _ hne).trans hw,
    (State.fld_addSat_ne _ _ _ _ _ _ hne).trans hf, ?_, (hr.mono fun _ => .inl).trans ((addSat_onlyReg _ _ _ _ _).mono fun _ => .inr),
    hp.trans (addSat_onlyParts _ _ _)⟩
  refine (State.fld_addSat_self a (rCx_CNT n) (hi := 31) (lo := 16) v (by decide) (by decide)).trans ?_
  rw [hr.fld hne.symm]
  rfl

theorem exec_coxMeritWindowEnd {n v : Nat} {eye : CoxEye} {s : State} (hn : n < 2) (hs : s.cxRx n = cxRxAlign ∨ s.cxRx n = cxRxUp) :
    exec (.coxMeritWindowEnd n eye v) s = .next ((s.windowShown n (coxMerit eye) v).modLink n fun l => { l with
        upRun := if s.fld (fCx_CTL_UP_THR n) ≤ coxMerit eye ∧ v = 0 then l.upRun + 1 else 0
        downRun := if s.cxRx n = cxRxUp ∧ coxMerit eye < s.fld (fCx_CTL_DOWN_THR n) then l.downRun + 1 else 0 }) := by
  show execCoxMeritWindowEnd n eye v s = _
  rw [execCoxMeritWindowEnd, if_neg]
  · rfl
  rintro (h | ⟨h1, h2⟩)
  · omega
  · exact hs.elim h1 h2

theorem meritWindow_effect (n v : Nat) (eye : CoxEye) (s : State) (down : Nat → Nat) :
    let t := (s.windowShown n (coxMerit eye) v).modLink n fun l => { l with
      upRun := if s.fld (fCx_CTL_UP_THR n) ≤ coxMerit eye ∧ v = 0 then l.upRun + 1 else 0, downRun := down l.downRun }
    t.fld (fCx_MERIT_MERIT n) = coxMerit eye ∧ t.fld (fCx_MERIT_WIN_SEQ n) = (s.fld (fCx_MERIT_WIN_SEQ n) + 1) % 256 ∧
      t.fld (fCx_MERIT_FRESH n) = 1 ∧
      (t.link n).upRun = (if s.fld (fCx_CTL_UP_THR n) ≤ coxMerit eye ∧ v = 0 then (s.link n).upRun + 1 else 0) ∧
      t.fld (fCx_CNT_CODE_ERR n) = min 65535 (s.fld (fCx_CNT_CODE_ERR n) + v) ∧
      onlyRegs (fun r => r = rCx_MERIT n ∨ r = rCx_CNT n) s t ∧ onlyParts [.links, .regs] s t := by
  obtain ⟨hm, hw, hf, he, hr, hp⟩ :=
    windowShown_effect (m := coxMerit eye) n v s (meritFrom_lt _)
  generalize s.windowShown n (coxMerit eye) v = a at *
  dsimp only
  generalize hg : (fun l : CoxLink => { l with
    upRun := if s.fld (fCx_CTL_UP_THR n) ≤ coxMerit eye ∧ v = 0 then l.upRun + 1 else 0, downRun := down l.downRun }) = g
  have hl := modLink_onlyParts a n g
  have hk (f : FldId) : (a.modLink n g).fld f = a.fld f := hl.regsKept.fld id
  refine ⟨(hk _).trans hm, (hk _).trans hw, (hk _).trans hf, ?_, (hk _).trans he, hr.trans hl.regsKept.of_none,
    (hp.mono (by decide)).andThen hl⟩
  rw [State.link_modLink_self, State.link_congr (hp .links (by decide)), ← hg]

/-- One decision feedback tap moved by one code (R159). -/
def dfeStep (n : Nat) (signs : List Int) (a : State) (i : Nat) : State :=
  a.setSFld ⟨rCx_DFE n, 6 * i + 5, 6 * i⟩ (max (-32) (min 31 (a.sfld ⟨rCx_DFE n, 6 * i + 5, 6 * i⟩ + (signs.getD i 0).sign)))

theorem exec_coxDfeAdapt {n : Nat} {signs : List Int} {s : State} (hn : n < 2) (hs : s.cxRx n = cxRxAlign) :
    exec (.coxDfeAdapt n signs) s = .next ((List.range 5).foldl (dfeStep n signs) s) := by
  have hsign (d : Int) : (if 0 < d then 1 else if d < 0 then -1 else 0 : Int) = d.sign := by
    rcases lt_trichotomy d 0 with h | h | h
    · rw [if_neg (by omega), if_pos h, Int.sign_eq_neg_one_of_neg h]
    · simp [h]
    · rw [if_pos h, Int.sign_eq_one_of_pos h]
  show execCoxDfeAdapt n signs s = _
  rw [execCoxDfeAdapt, if_neg (by simp [hs]; omega)]
  simp only [hsign]
  rfl

theorem dfeStep_onlyRegs (n : Nat) (signs : List Int) (a : State) (i : Nat) : onlyRegs (fun r => r = rCx_DFE n) a (dfeStep n signs a i) :=
  setSFld_onlyReg _ _ _ _ _

theorem dfeSteps_sfld (n : Nat) (signs : List Int) (s : State) {k : Nat} (hk : k ≤ 5) {i : Nat} (hi : i < 5) :
    ((List.range k).foldl (dfeStep n signs) s).sfld ⟨rCx_DFE n, 6 * i + 5, 6 * i⟩ =
      if i < k then max (-32) (min 31 (s.sfld ⟨rCx_DFE n, 6 * i + 5, 6 * i⟩ + (signs.getD i 0).sign))
      else s.sfld ⟨rCx_DFE n, 6 * i + 5, 6 * i⟩ := by
  induction k with
  | zero => rfl
  | succ k ih =>
    have ih := ih (by omega)
    rw [List.range_succ, List.foldl_append, List.foldl_cons, List.foldl_nil]
    generalize (List.range k).foldl (dfeStep n signs) s = a at ih
    rw [dfeStep]
    by_cases hik : i = k
    · subst hik
      rw [if_neg (by omega)] at ih
      rw [if_pos (by omega), ih]
      have hw : 6 * i + 5 - 6 * i = 5 := by omega
      exact State.sfld_setSFld_self a _ ⟨by omega, by omega⟩ (by rw [hw]; norm_num) (by rw [hw]; norm_num)
    · have hne : (i < k + 1) = (i < k) := by simp; omega
      simp only [hne]
      rw [← ih, State.sfld, State.sfld, State.setSFld]
      congr 1
      exact State.fld_setFld_other a _ _ _ _ _ _ (by omega) (by omega) (by omega) (by omega) (by omega)

/-! ## Transmitters (R165, R167, R168) -/

theorem exec_coxSleep {n : Nat} {s : State} (hn : n < 2) (he : s.on (fCx_SLEEP_SLEEP_EN n) = true) (ht : s.cxTx n = cxTxActive)
    (hi : (s.link n).items = []) (hf : (s.link n).frames = []) (hm : s.cxMuted n = false) :
    exec (.coxSleep n) s = .next ((linkFrame n tSleep s).setCxTx n cxTxSleep) := by
  show execCoxSleep n s = _
  rw [execCoxSleep, if_pos ⟨hn, he, ht, by simp [hi], by simp [hf], by simp [hm]⟩]

theorem exec_coxWake {n : Nat} {s : State} (hn : n < 2) (ht : s.cxTx n = cxTxSleep)
    (hw : (s.link n).items ≠ [] ∨ (s.link n).frames ≠ []) : exec (.coxWake n) s = .next ((s.emit (.coxWakeRun n)).setCxTx n cxTxWake) := by
  show execCoxWake n s = _
  rw [execCoxWake, if_pos]
  refine ⟨hn, ht, ?_⟩
  rcases hw with h | h
  · simp [h]
  · cases hi : (s.link n).items <;> simp [h]

theorem emitItem_onlyParts (n : Nat) (i : CoxItem) (s : State) : onlyParts [.links, .out] s (emitItem n i s) := by
  cases i with
  | marker b => exact (emit_onlyParts s _).mono (by decide)
  | beacon => exact (((modLink_onlyParts s _ _).mono (by decide)).andThen (emit_onlyParts _ _)).andThen (modLink_onlyParts _ _ _)

theorem emitItem_items (n : Nat) (i : CoxItem) (s : State) : ((emitItem n i s).link n).items = (s.link n).items := by
  cases i with
  | marker b => rfl
  | beacon =>
    simp only [emitItem, State.link_modLink_self]
    have hemit (a : State) (o : Out) : (a.emit o).link n = a.link n := rfl
    rw [hemit, State.link_modLink_self]

theorem emitItem_out {o : Out} (n : Nat) (i : CoxItem) (s : State) (h : o ∈ s.host.out) : o ∈ (emitItem n i s).host.out := by
  cases i <;> exact List.mem_cons_of_mem _ h

theorem emitItems_items (n : Nat) (l : List CoxItem) (s : State) :
    ((l.foldl (fun a i => emitItem n i a) s).link n).items = (s.link n).items := by
  induction l generalizing s with
  | nil => rfl
  | cons i l ih => rw [List.foldl_cons, ih, emitItem_items]

theorem emitItems_out {o : Out} (n : Nat) (l : List CoxItem) (s : State) (h : o ∈ s.host.out) :
    o ∈ (l.foldl (fun a i => emitItem n i a) s).host.out := by
  induction l generalizing s with
  | nil => exact h
  | cons i l ih => exact ih _ (emitItem_out n i s h)

theorem emitItems_marker {b : List Byte} (n : Nat) (l : List CoxItem) (s : State) (h : .marker b ∈ l) :
    .coxItem n 0x3C b ∈ (l.foldl (fun a i => emitItem n i a) s).host.out := by
  induction l generalizing s with
  | nil => simp at h
  | cons i l ih =>
    rcases List.mem_cons.1 h with rfl | h
    · exact emitItems_out n l _ List.mem_cons_self
    · exact ih _ h

theorem marker_mem_itemOrder {b : List Byte} {l : List CoxItem} (h : .marker b ∈ l) : .marker b ∈ itemOrder l := by
  refine List.mem_append_left _ (List.mem_flatMap.2 ⟨field b 0 1 % 4, List.mem_range.2 (Nat.mod_lt _ (by decide)), ?_⟩)
  simp [h]

theorem itemOrder_marker (b : List Byte) : itemOrder [.marker b] = [.marker b] := by
  obtain h | h | h | h : field b 0 1 % 4 = 0 ∨ field b 0 1 % 4 = 1 ∨ field b 0 1 % 4 = 2 ∨ field b 0 1 % 4 = 3 := by omega
  all_goals simp [itemOrder, List.range_succ, h]

/-- The link's transmitter active again, with nothing waiting. -/
def State.cxAwake (s : State) (n : Nat) : State := (s.setCxTx n cxTxActive).modLink n ({ · with items := [] })

theorem exec_coxWakeEnd {n : Nat} {s : State} (hn : n < 2) (ht : s.cxTx n = cxTxWake) :
    exec (.coxWakeEnd n) s = .next ((itemOrder (s.link n).items).foldl (fun a i => emitItem n i a) (s.cxAwake n)) := by
  show execCoxWakeEnd n s = _
  rw [execCoxWakeEnd, if_pos ⟨hn, ht⟩]
  rfl

theorem wakeEnd_effect (n : Nat) (s : State) (l : List CoxItem) : let t := l.foldl (fun a i => emitItem n i a) (s.cxAwake n)
    t.cxTx n = cxTxActive ∧ (t.link n).items = [] ∧ onlyRegs (fun r => r = rCx_STAT n) s t ∧ onlyParts [.links, .regs, .out] s t := by
  have hp : onlyParts [.links, .out] (s.cxAwake n) (l.foldl (fun a i => emitItem n i a) (s.cxAwake n)) :=
    .foldl (fun a i => emitItem_onlyParts n i a) l _
  have ha : onlyParts [.links, .regs] s (s.cxAwake n) := ((setFld_onlyParts s _ _).mono (by decide)).andThen (modLink_onlyParts _ _ _)
  have hr : onlyRegs (fun r => r = rCx_STAT n) s (s.cxAwake n) := (setFld_onlyReg s _ _ _ _).trans (modLink_onlyParts _ _ _).regsKept.of_none
  refine ⟨?_, ?_, hr.trans hp.regsKept.of_none, (ha.mono (by decide)).trans (hp.mono (by decide))⟩
  · exact (cxTx_congr (P := fun _ => False) hp.regsKept id).trans
      ((State.fld_congr (s := s.setCxTx n cxTxActive) rfl _).trans (setCxTx_cxTx s n (by decide)))
  · rw [emitItems_items, State.cxAwake, State.link_modLink_self]

theorem exec_crewFrameSent {n : Nat} {h : Hdr} {f : CrewFrame} {l : List CrewFrame} {s : State} (hn : n < 2) (ht : s.cxTx n = cxTxActive)
    (hm : s.cxMuted n = false) (hfr : (s.link n).frames = f :: l) (htag : f.tag = .relay h) :
    exec (.crewFrameSent n) s = .next (complete h eOk [] ((s.emit (.coxItem n 0xFB (frameBytes f))).modLink n ({ · with frames := l }))) := by
  show execCrewFrameSent n s = _
  rw [execCrewFrameSent, if_neg (by simp [ht, hm]; omega), hfr]
  simp only [htag]

theorem frameSent_effect {n : Nat} {h : Hdr} {l : List CrewFrame} (o : Out) {s : State} (hq : h.qp < 256)
    (hb : s.bme (s.ownerOf h.qp) = true) :
    let t := complete h eOk [] ((s.emit o).modLink n ({ · with frames := l }))
    o ∈ t.host.out ∧ (t.link n).frames = l ∧ completed (answer h eOk) s t ∧ onlyRegs complReg s t ∧
      onlyParts [.links, .qps, .regs, .out] s t := by
  obtain ⟨a, ha⟩ : ∃ a, a = (s.emit o).modLink n ({ · with frames := l }) := ⟨_, rfl⟩
  have hap : onlyParts [.links, .out] s a := ha ▸ ((emit_onlyParts s o).mono (by decide)).andThen (modLink_onlyParts _ _ _)
  have hout : o ∈ a.host.out := ha ▸ List.mem_cons_self
  have hlink : (a.link n).frames = l := by rw [ha, State.link_modLink_self]
  obtain ⟨hc, hp⟩ := complete_after eOk [] hq hb (P := fun _ => False) hap.regsKept (fun _ => False.elim) (hap .bme (by decide))
  rw [← ha]
  refine ⟨complete_out h eOk [] hout, ?_, hc, hap.regsKept.of_none.trans (complete_onlyRegs _ _ _ _),
    (hap.mono (by decide)).trans (hp.mono (by decide))⟩
  rw [State.link_congr (hp .links (by decide)), hlink]

/-- Settles O23: each state change sets the field of STAT, and the events and frames that go with it touch other registers. -/
theorem coxReceiversAndTransmittersMove : Obligations.CoxReceiversAndTransmittersMove := by
  unfold Obligations.CoxReceiversAndTransmittersMove
  refine ⟨fun n s hn hs => ⟨_, exec_coxSignalDetect hn hs, ?_⟩, fun n s hn hs hp hr => ⟨_, exec_coxRxUp hn hs hp hr, ?_⟩,
    fun n cause s hn hs hp hr hc => ⟨_, exec_coxRxDown hn hs hp hr, ?_⟩, fun n cause s hn hs hp hr hc => ?_,
    fun n s hn hs => ?_, fun n v eye s hn hs => ⟨_, exec_coxMeritWindowEnd hn hs, ?_⟩,
    fun n signs s hn hs => ⟨_, exec_coxDfeAdapt hn hs, ?_⟩, fun n s hn he ht hi hf hm => ?_,
    fun n s hn ht hw => exec_coxWake hn ht hw, fun n b s hn ht hi => ⟨_, exec_coxWakeEnd hn ht, ?_⟩,
    fun n s hn ht => ⟨_, exec_coxWakeEnd hn ht, ?_⟩, fun n h f l s hn ht hm hfr htag hq hb => ⟨_, exec_crewFrameSent hn ht hm hfr htag, ?_⟩⟩
  · refine ⟨?_, ?_, ?_, ?_⟩
    · exact setCxRx_cxRx _ n (by decide)
    · exact (State.fld_setFld_other _ _ _ _ _ _ _ (by decide) (by decide) (by decide) (by decide) (by decide)).trans
        (State.fld_setFld_self_of_lt s _ (by decide) (by decide))
    · exact (setFld_onlyReg s _ _ _ _).trans ((setFld_onlyReg _ _ _ _ _).trans (modLink_onlyParts _ _ _).regsKept.of_none)
    · exact (((setFld_onlyParts s _ _).mono (by decide)).andThen (setFld_onlyParts _ _ _)).andThen (modLink_onlyParts _ _ _)
  · refine ⟨?_, raise_fld_self _ _ (by decide) ⟨Blk.noConfusion, Blk.noConfusion⟩, ?_, ?_, ?_⟩
    · rw [cxRx_congr (raise_onlyRegs _ _) (cxStat_not_note n)]
      exact setCxRx_cxRx s n (by decide)
    · rw [State.link_congr (raise_onlyParts _ _ .links (by decide)), State.link_modLink_self]
    · exact (cxStat_onlyRegs n _ _ _ s).trans ((modLink_onlyParts _ _ _).regsKept.of_none.trans (cxEvent_raise_onlyRegs n _ _))
    · exact (((setFld_onlyParts s _ _).mono (by decide)).andThen (modLink_onlyParts _ _ _)).andThen (raise_onlyParts _ _)
  · rw [if_neg (by simp [hc])]
    obtain ⟨hrx, hev, hlos⟩ := cxDown_fields n cause s
    exact ⟨hrx, hev, hlos, cxDown_onlyRegs n cause s, cxDown_onlyParts n cause s⟩
  · obtain ⟨b, hb⟩ := rxDownInCrew_effect cause hn hc rfl
    exact ⟨_, b, (exec_coxRxDown hn hs hp hr).trans (by rw [if_pos hc]), hb⟩
  · show execCoxDownExpiry n s = _
    rw [execCoxDownExpiry, if_pos ⟨hn, hs⟩]
  · exact meritWindow_effect n v eye s fun d => if s.cxRx n = cxRxUp ∧ coxMerit eye < s.fld (fCx_CTL_DOWN_THR n) then d + 1 else 0
  · exact ⟨fun i hi => (dfeSteps_sfld n signs s le_rfl hi).trans (if_pos hi), .foldl (fun a i _ => dfeStep_onlyRegs n signs a i) s,
      .foldl (fun a i => setSFld_onlyParts _ _ _) _ s⟩
  · obtain ⟨f, htyp, hdst, hout⟩ := linkFrame_out n tSleep s
    refine ⟨_, frameBytes f, exec_coxSleep hn he ht hi hf hm, setCxTx_cxTx _ n (by decide), hout, ?_, ?_, ?_, ?_⟩
    · rw [frameBytes_typ, htyp]
      rfl
    · rw [frameBytes_dst, hdst]
    · exact (linkFrame_onlyParts n tSleep s).regsKept.of_none.trans (setFld_onlyReg _ _ _ _ _)
    · exact ((linkFrame_onlyParts n tSleep s).mono (by decide)).andThen (setFld_onlyParts _ _ _)
  · rw [hi, itemOrder_marker]
    obtain ⟨htx, hit, hr, hp⟩ := wakeEnd_effect n s [.marker b]
    exact ⟨htx, hit, rfl, hr, hp⟩
  · obtain ⟨htx, hit, hr, hp⟩ := wakeEnd_effect n s (itemOrder (s.link n).items)
    exact ⟨htx, hit, fun b hb => emitItems_marker n _ _ (marker_mem_itemOrder hb), hr, hp⟩
  · exact frameSent_effect _ hq hb

end Sys2Proof.Machine
end

section
/-! PROOFS. Writes of CXn_CTL (R155, R156, R164, R181). -/

-- The checked text is one long file: elaborating these in order bounds its threads and memory.
set_option Elab.async false

namespace Sys2Proof.Machine

/-! ## Registers reset by a block -/

theorem Tab.get_filter {κ α : Type} [DecidableEq κ] (d : α) (t : Tab κ α) (p : κ → Bool) (k : κ) :
    Tab.get d (t.filter fun e => p e.1) k = if p k then Tab.get d t k else d := by
  induction t with
  | nil => simp [Tab.get]
  | cons e t ih =>
    obtain ⟨k', v⟩ := e
    rw [List.filter_cons]
    by_cases hk : k' = k
    · subst hk
      by_cases hp : p k' = true <;> simp [Tab.get, hp, ih]
    · by_cases hp : p k' = true <;> simp [Tab.get, hp, hk, ih]

theorem State.reg_resetRegs (s : State) (p : RegId → Bool) (r : RegId) : (s.resetRegs p).reg r = if p r then regReset r else s.reg r := by
  refine (Tab.get_filter (regReset r) s.regs (fun r => !p r) r).trans ?_
  by_cases h : p r = true <;> simp [h, State.reg]

theorem resetRegs_onlyParts (s : State) (p : RegId → Bool) : onlyParts [.regs, .hiLatch, .capt, .loHeld] s (s.resetRegs p) := by
  intro q hq
  cases q <;> simp_all [Part.same, State.resetRegs]

theorem resetRegs_onlyRegs (s : State) (p : RegId → Bool) : onlyRegs (fun r => p r = true) s (s.resetRegs p) := fun r hr => by
  rw [State.reg_resetRegs, if_neg hr]

/-! ## A link turned off (R156) -/

/-- The receiver and the transmitter of link `n` off. -/
def State.cxOff (s : State) (n : Nat) : State := ((s.setCxTx n cxTxOff).setCxRx n cxRxOff).setFld (fCx_STAT_LOS n) 0

theorem cxOff_onlyRegs (s : State) (n : Nat) : onlyRegs (fun r => r = rCx_STAT n) s (s.cxOff n) :=
  ((setFld_onlyReg s _ _ _ _).trans (setFld_onlyReg _ _ _ _ _)).trans (setFld_onlyReg _ _ _ _ _)

theorem cxOff_onlyParts (s : State) (n : Nat) : onlyParts [.regs] s (s.cxOff n) :=
  ((setFld_onlyParts s _ _).trans (setFld_onlyParts _ _ _)).trans (setFld_onlyParts _ _ _)

theorem cxOff_states (s : State) (n : Nat) : (s.cxOff n).cxTx n = cxTxOff ∧ (s.cxOff n).cxRx n = cxRxOff := by
  refine ⟨?_, (setLos_cxRx _ n _).trans (setCxRx_cxRx _ n (by decide))⟩
  exact (State.fld_setFld_other _ _ _ _ _ _ _ (by decide) (by decide) (by decide) (by decide) (by decide)).trans <|
    (State.fld_setFld_other _ _ _ _ _ _ _ (by decide) (by decide) (by decide) (by decide) (by decide)).trans (setCxTx_cxTx s n (by decide))

theorem linkOff_eq (n : Nat) (s : State) :
    linkOff n s = ((dropFrames n s).cxOff n).modCrew fun c => { c with unwrap := c.unwrap.filter (· ≠ n) } := rfl

theorem linkOff_onlyRegs (n : Nat) (s : State) : onlyRegs (fun r => complReg r ∨ r = rCx_STAT n) s (linkOff n s) := by
  rw [linkOff_eq]
  exact ((dropFrames_onlyRegs n s).mono fun _ => .inl).trans <|
    ((cxOff_onlyRegs _ n).mono fun _ => .inr).trans (modCrew_onlyParts _ _).regsKept.of_none

theorem linkOff_states (n : Nat) (s : State) : (linkOff n s).cxTx n = cxTxOff ∧ (linkOff n s).cxRx n = cxRxOff := by
  rw [linkOff_eq]
  obtain ⟨htx, hrx⟩ := cxOff_states (dropFrames n s) n
  have hc := modCrew_onlyParts ((dropFrames n s).cxOff n) fun c => { c with unwrap := c.unwrap.filter (· ≠ n) }
  exact ⟨(cxTx_congr (P := fun _ => False) hc.regsKept id).trans htx, (cxRx_congr (P := fun _ => False) hc.regsKept id).trans hrx⟩

theorem linkOff_unwrap (n : Nat) (s : State) : n ∉ (linkOff n s).crew.unwrap := by
  rw [linkOff_eq]
  simp [State.modCrew]

theorem linkOff_link {n m : Nat} (s : State) (h : n ≠ m) : (linkOff n s).link m = s.link m := by
  have hd : (dropFrames n s).link m = (s.modLink n ({ · with frames := [], items := [] })).link m :=
    State.link_congr ((onlyParts.foldl (fun a f => (dropFrames_step a f).1) _ _) .links (by decide)) m
  rw [linkOff_eq, State.link_congr ((modCrew_onlyParts _ _) .links (by decide)), State.link_congr ((cxOff_onlyParts _ n) .links (by decide)),
    hd, State.link_modLink_ne _ _ h]

/-- Where no frame waits on the link, nothing completes. -/
theorem linkOff_idle {n : Nat} {s : State} (h : (s.link n).frames = []) : onlyRegs (fun r => r = rCx_STAT n) s (linkOff n s) ∧
    onlyParts [.links, .crew, .regs] s (linkOff n s) ∧ (linkOff n s).crew = { s.crew with unwrap := s.crew.unwrap.filter (· ≠ n) } ∧
    ((linkOff n s).link n).frames = [] := by
  have hd : dropFrames n s = s.modLink n ({ · with frames := [], items := [] }) := by
    rw [dropFrames, h, List.foldl_nil]
  rw [linkOff_eq, hd]
  have hl := modLink_onlyParts s n ({ · with frames := [], items := [] })
  have hlink : ((s.modLink n ({ · with frames := [], items := [] })).link n).frames = [] := by rw [State.link_modLink_self]
  generalize s.modLink n ({ · with frames := [], items := [] }) = a at *
  have hc := modCrew_onlyParts (a.cxOff n) fun c => { c with unwrap := c.unwrap.filter (· ≠ n) }
  have ho := cxOff_onlyParts a n
  refine ⟨hl.regsKept.of_none.trans ((cxOff_onlyRegs _ n).trans hc.regsKept.of_none),
    ((hl.mono (by decide)).andThen ho).andThen hc, ?_, ?_⟩
  · show { (a.cxOff n).crew with unwrap := (a.cxOff n).crew.unwrap.filter (· ≠ n) } = _
    rw [ho .crew (by decide), hl .crew (by decide)]
  · rw [State.link_congr (hc .links (by decide)), State.link_congr (ho .links (by decide)), hlink]

/-! ## The write -/

/-- CTL as written, and the counts where CNT_CLR asks for it (R181). -/
def cxWritten (n : Nat) (v : W32) (s : State) : State :=
  let a := s.setReg (rCx_CTL n) (putBits (putBits v 30 29 0) 25 16 0)
  if v.getLsbD 29 then a.setReg (rCx_CNT n) 0 else a

theorem cxWritten_onlyRegs (n : Nat) (v : W32) (s : State) : onlyRegs (fun r => r = rCx_CTL n ∨ r = rCx_CNT n) s (cxWritten n v s) := by
  have h : onlyRegs (fun r => r = rCx_CTL n ∨ r = rCx_CNT n) s (s.setReg (rCx_CTL n) (putBits (putBits v 30 29 0) 25 16 0)) :=
    (setReg_onlyRegs _ _ _).mono fun _ => .inl
  unfold cxWritten
  dsimp only
  split_ifs
  · exact h.andThen (setReg_onlyRegs _ _ _) fun _ => .inr
  · exact h

theorem cxWritten_onlyParts (n : Nat) (v : W32) (s : State) : onlyParts [.regs] s (cxWritten n v s) := by
  unfold cxWritten
  dsimp only
  split_ifs
  · exact (setReg_onlyParts _ _ _).trans (setReg_onlyParts _ _ _)
  · exact setReg_onlyParts _ _ _

theorem cxWritten_en (n : Nat) (v : W32) (s : State) : (cxWritten n v s).fld (fCx_CTL_EN n) = bits v 31 31 := by
  have h : (s.setReg (rCx_CTL n) (putBits (putBits v 30 29 0) 25 16 0)).fld (fCx_CTL_EN n) = bits v 31 31 := by
    rw [State.fld_setReg_self, bits_putBits_other _ _ ⟨by decide, by decide⟩ ⟨by decide, by decide⟩ (by decide),
      bits_putBits_other _ _ ⟨by decide, by decide⟩ ⟨by decide, by decide⟩ (by decide)]
  unfold cxWritten
  dsimp only
  split_ifs
  · exact (State.fld_setReg_ne _ _ (by simp)).trans h
  · exact h

/-- The link started, and its check channel taken (R155, R164). -/
def State.cxStarted (s : State) (n : Nat) : State :=
  (((s.setCxTx n cxTxActive).searchCx n).setFld (fCk_CTL_SRC (coxCk n)) 2).setFld (fCk_RES_STAT_VALID (coxCk n)) 0

/-- What a write of CXn_CTL does before SRST acts. -/
def cxSwitched (n : Nat) (v : W32) (s : State) : State :=
  if v.getLsbD 31 && !s.on (fCx_CTL_EN n) then (cxWritten n v s).cxStarted n
  else if !v.getLsbD 31 && s.on (fCx_CTL_EN n) then (linkOff n (cxWritten n v s)).setFld (fCk_CTL_SRC (coxCk n)) 0
  else cxWritten n v s

/-- The link reset by SRST (R156). -/
def State.cxReset (s : State) (n : Nat) : State :=
  let a := (linkOff n s).resetRegs fun x => x.blk == .cx && x.inst == n
  let b := if s.on (fCx_CTL_EN n) then a.setFld (fCk_CTL_SRC (coxCk n)) 0 else a
  { b with links := Tab.erase b.links n }

theorem writeCxCtl_taken {n : Nat} {v : W32} {s : State} (ht : s.testing (39 + n) = false)
    (hck : v.getLsbD 31 = true → s.on (fCx_CTL_EN n) = false → s.on (fCk_CTL_EN (14 + n)) = false) (hthr : bits v 7 0 < bits v 15 8) :
    writeCxCtl n v s = if v.getLsbD 30 then (cxSwitched n v s).cxReset n else cxSwitched n v s := by
  have hu : s.unavailable (rCx_CTL n) = none := State.unavailable_none ht (by simp)
  have hok : firstFail [((s.unavailable (rCx_CTL n)).isSome, (s.unavailable (rCx_CTL n)).getD 0),
      (v.getLsbD 31 && !s.on (fCx_CTL_EN n) && s.on (fCk_CTL_EN (coxCk n)), eState), (decide (bits v 15 8 ≤ bits v 7 0), eRange)] = none := by
    cases h31 : v.getLsbD 31 <;> cases hen : s.on (fCx_CTL_EN n) <;> simp_all [firstFail]
  unfold writeCxCtl
  dsimp only
  rw [hok]
  rfl

/-- A write of CTL by any of its three rows. -/
theorem exec_cxCtl {n : Nat} {v : W32} {s : State} (hs : s.awake = true) (hn : n < 2) :
    exec (.cxEnable n v) s = .next (writeCxCtl n v s) ∧ exec (.cxCntClr n v) s = .next (writeCxCtl n v s) ∧
      exec (.cxSrst n v) s = .next (writeCxCtl n v s) := by
  have h : hostAccess (fun s => if n < 2 then writeCxCtl n v s else s) s = writeCxCtl n v s := by
    rw [hostAccess_awake _ s hs, if_pos hn]
  exact ⟨congrArg Host.Outcome.next h, congrArg Host.Outcome.next h, congrArg Host.Outcome.next h⟩

theorem cxStarted_effect (n : Nat) (s : State) : (s.cxStarted n).cxTx n = cxTxActive ∧ (s.cxStarted n).cxRx n = cxRxSearch ∧
    (s.cxStarted n).fld (fCk_CTL_SRC (14 + n)) = 2 ∧
    onlyRegs (fun r => r = rCx_STAT n ∨ r.blk = .ck ∧ r.inst = 14 + n) s (s.cxStarted n) ∧ onlyParts [.regs] s (s.cxStarted n) := by
  obtain ⟨a, ha⟩ : ∃ a, a = (s.setCxTx n cxTxActive).searchCx n := ⟨_, rfl⟩
  have hr : onlyRegs (fun r => r = rCx_STAT n) s a :=
    ha ▸ ((setFld_onlyReg s _ _ _ _).trans (setFld_onlyReg _ _ _ _ _)).trans (setFld_onlyReg _ _ _ _ _)
  have hp : onlyParts [.regs] s a := ha ▸ ((setFld_onlyParts s _ _).trans (setFld_onlyParts _ _ _)).trans (setFld_onlyParts _ _ _)
  have hrx : a.cxRx n = cxRxSearch := ha ▸ (setLos_cxRx _ n _).trans (setCxRx_cxRx _ n (by decide))
  have htx : a.cxTx n = cxTxActive := ha ▸
    (State.fld_setFld_other _ _ _ _ _ _ _ (by decide) (by decide) (by decide) (by decide) (by decide)).trans
      ((State.fld_setFld_other _ _ _ _ _ _ _ (by decide) (by decide) (by decide) (by decide) (by decide)).trans
        (setCxTx_cxTx s n (by decide)))
  rw [State.cxStarted, ← ha]
  have hb : onlyRegs (fun r => r.blk = .ck ∧ r.inst = 14 + n) a
      ((a.setFld (fCk_CTL_SRC (coxCk n)) 2).setFld (fCk_RES_STAT_VALID (coxCk n)) 0) :=
    ((setFld_onlyReg a _ _ _ _).mono fun r h => by subst h; exact ⟨rfl, rfl⟩).trans
      ((setFld_onlyReg _ _ _ _ _).mono fun r h => by subst h; exact ⟨rfl, rfl⟩)
  refine ⟨(cxTx_congr hb (by simp)).trans htx, (cxRx_congr hb (by simp)).trans hrx, ?_, (hr.mono fun _ => .inl).andThen hb fun _ => .inr,
    hp.trans ((setFld_onlyParts _ _ _).trans (setFld_onlyParts _ _ _))⟩
  exact (State.fld_setFld_ne _ _ _ _ _ _ (by simp)).trans (State.fld_setFld_self_of_lt _ _ (by decide) (by decide))

/-- What SRST leaves of its link. -/
theorem cxReset_effect {n : Nat} (s : State) : (∀ r, r.blk = .cx → r.inst = n → (s.cxReset n).reg r = regReset r) ∧
    (s.cxReset n).link n = {} ∧ (∀ m, n ≠ m → (s.cxReset n).link m = s.link m) ∧ n ∉ (s.cxReset n).crew.unwrap ∧
    onlyRegs (fun r => r.blk = .cx ∧ r.inst = n ∨ r.blk = .ck ∧ r.inst = 14 + n ∨ complReg r) s (s.cxReset n) ∧
    ((s.link n).frames = [] → (s.cxReset n).crew = { s.crew with unwrap := s.crew.unwrap.filter (· ≠ n) } ∧
      onlyRegs (fun r => r.blk = .cx ∧ r.inst = n ∨ r.blk = .ck ∧ r.inst = 14 + n) s (s.cxReset n) ∧
      onlyParts [.links, .crew, .regs, .hiLatch, .capt, .loHeld] s (s.cxReset n)) := by
  obtain ⟨a, ha⟩ : ∃ a, a = (linkOff n s).resetRegs fun x => x.blk == .cx && x.inst == n := ⟨_, rfl⟩
  obtain ⟨b, hb⟩ : ∃ b, b = if s.on (fCx_CTL_EN n) then a.setFld (fCk_CTL_SRC (coxCk n)) 0 else a := ⟨_, rfl⟩
  have hreg (r : RegId) : (s.cxReset n).reg r = b.reg r := by
    rw [hb, ha]
    exact State.reg_congr rfl r
  have hlinks : (s.cxReset n).links = Tab.erase b.links n := by rw [hb, ha]; rfl
  have hab : onlyRegs (fun r => r.blk = .ck ∧ r.inst = 14 + n) a b := by
    rw [hb]
    split_ifs
    · exact (setFld_onlyReg a _ _ _ _).mono fun r h => by subst h; exact ⟨rfl, rfl⟩
    · exact .refl _ a
  have habp : onlyParts [.regs] a b := by
    rw [hb]
    split_ifs
    · exact setFld_onlyParts a _ _
    · exact .refl _ a
  have har := resetRegs_onlyRegs (linkOff n s) fun x => x.blk == .cx && x.inst == n
  have hap := resetRegs_onlyParts (linkOff n s) fun x => x.blk == .cx && x.inst == n
  rw [← ha] at har hap
  have hbl : b.links = (linkOff n s).links := (habp .links (by decide)).trans (hap .links (by decide))
  have hbc : b.crew = (linkOff n s).crew := (habp .crew (by decide)).trans (hap .crew (by decide))
  have hcrew : (s.cxReset n).crew = (linkOff n s).crew := by rw [← hbc, hb, ha]; rfl
  have hbp : onlyParts [.links] b (s.cxReset n) := by
    rw [State.cxReset, ← ha, ← hb]
    intro p hp
    cases p <;> simp_all [Part.same]
  have hrest : onlyRegs (fun r => r.blk = .cx ∧ r.inst = n ∨ r.blk = .ck ∧ r.inst = 14 + n) (linkOff n s) (s.cxReset n) :=
    (har.mono fun r h => .inl (by simpa using h)).trans ((hab.mono fun _ => .inr).trans hbp.regsKept.of_none)
  refine ⟨fun r hk hi => ?_, ?_, fun m hm => ?_, ?_, ?_, fun hf => ?_⟩
  · rw [hreg, hab r (by simp [hk]), ha, State.reg_resetRegs, if_pos (by simp [hk, hi])]
  · rw [State.link, hlinks, Tab.erase, Tab.get_filter _ _ (fun k => decide (k ≠ n))]
    simp
  · rw [← linkOff_link s hm, State.link, hlinks, Tab.erase, Tab.get_filter _ _ (fun k => decide (k ≠ n)), if_pos (by simpa using hm.symm), hbl]
    rfl
  · rw [hcrew]
    exact linkOff_unwrap n s
  · refine ((linkOff_onlyRegs n s).mono fun r h => ?_).andThen hrest fun r h => ?_
    · rcases h with h | rfl
      · exact .inr (.inr h)
      · exact .inl ⟨rfl, rfl⟩
    · exact h.elim .inl fun h => .inr (.inl h)
  · obtain ⟨hr, hp, hc, -⟩ := linkOff_idle hf
    refine ⟨hcrew.trans hc, (hr.mono fun r h => by subst h; exact .inl ⟨rfl, rfl⟩).trans hrest, ?_⟩
    exact (((hp.mono (by decide)).andThen hap).andThen habp).andThen hbp

theorem bits_bit_set {w : W32} {k : Nat} (h : w.getLsbD k = true) : bits w k k = 1 := by
  have hb : w.toNat.testBit k = true := h
  have hk : k + 1 - k = 1 := by omega
  rw [Nat.testBit_eq_decide_div_mod_eq, decide_eq_true_eq] at hb
  rw [bits, hk, pow_one, hb]

/-- A link turned off by its EN: its frames are dropped and its check channel is given back. -/
theorem cxStopped_effect (n : Nat) (v : W32) (s : State) (hs : (s.link n).frames = []) :
    let t := (linkOff n (cxWritten n v s)).setFld (fCk_CTL_SRC (coxCk n)) 0
    t.fld (fCx_CTL_EN n) = bits v 31 31 ∧ t.cxTx n = cxTxOff ∧ t.cxRx n = cxRxOff ∧ t.fld (fCk_CTL_SRC (14 + n)) = 0 ∧
      t.crew = { s.crew with unwrap := s.crew.unwrap.filter (· ≠ n) } ∧ (t.link n).frames = [] ∧
      onlyRegs (fun r => r.blk = .cx ∧ r.inst = n ∨ r.blk = .ck ∧ r.inst = 14 + n) s t ∧ onlyParts [.links, .crew, .regs] s t := by
  have hw := cxWritten_onlyParts n v s
  have hwr := cxWritten_onlyRegs n v s
  have hen := cxWritten_en n v s
  have hf : ((cxWritten n v s).link n).frames = [] := by rw [State.link_congr (hw .links (by decide)), hs]
  have hcrew : (cxWritten n v s).crew = s.crew := hw .crew (by decide)
  generalize cxWritten n v s = a at *
  obtain ⟨hr, hp, hc, hfr⟩ := linkOff_idle hf
  obtain ⟨htx, hrx⟩ := linkOff_states n a
  generalize linkOff n a = b at *
  have hlast := setFld_onlyReg b (rCk_CTL (coxCk n)) 5 4 0
  have hlastp := setFld_onlyParts b (fCk_CTL_SRC (coxCk n)) 0
  refine ⟨(hlast.fld (by simp)).trans ((hr.fld (by simp)).trans hen), (cxTx_congr hlast (by simp)).trans htx,
    (cxRx_congr hlast (by simp)).trans hrx, State.fld_setFld_self_of_lt b _ (by decide) (by decide), ?_, ?_, ?_,
    ((hw.mono (by decide)).trans hp).andThen hlastp⟩
  · rw [hlastp .crew (by decide), hc, hcrew]
  · rw [State.link_congr (hlastp .links (by decide)), hfr]
  · refine (hwr.mono fun r h => ?_).trans ((hr.mono fun r h => ?_).trans (hlast.mono fun r h => ?_))
    · rcases h with rfl | rfl <;> exact .inl ⟨rfl, rfl⟩
    · subst h
      exact .inl ⟨rfl, rfl⟩
    · subst h
      exact .inr ⟨rfl, rfl⟩

/-- What a write of CXn_CTL that starts nothing does to the rest, before SRST acts. -/
theorem cxSwitched_effect {n : Nat} {v : W32} {s : State} (hen : v.getLsbD 31 = true → s.on (fCx_CTL_EN n) = true) :
    onlyRegs (fun r => r.blk = .cx ∧ r.inst = n ∨ r.blk = .ck ∧ r.inst = 14 + n ∨ complReg r) s (cxSwitched n v s) ∧
    (∀ m, n ≠ m → (cxSwitched n v s).link m = s.link m) ∧
    ((s.link n).frames = [] → ((cxSwitched n v s).link n).frames = [] ∧
      { (cxSwitched n v s).crew with unwrap := (cxSwitched n v s).crew.unwrap.filter (· ≠ n) } =
        { s.crew with unwrap := s.crew.unwrap.filter (· ≠ n) } ∧
      onlyRegs (fun r => r.blk = .cx ∧ r.inst = n ∨ r.blk = .ck ∧ r.inst = 14 + n) s (cxSwitched n v s) ∧
      onlyParts [.links, .crew, .regs] s (cxSwitched n v s)) := by
  have hw := cxWritten_onlyParts n v s
  have hwr : onlyRegs (fun r => r.blk = .cx ∧ r.inst = n ∨ r.blk = .ck ∧ r.inst = 14 + n) s (cxWritten n v s) :=
    (cxWritten_onlyRegs n v s).mono fun r h => by rcases h with rfl | rfl <;> exact .inl ⟨rfl, rfl⟩
  have hnot : ¬ (v.getLsbD 31 && !s.on (fCx_CTL_EN n)) = true := by
    cases h : v.getLsbD 31 <;> simp_all
  unfold cxSwitched
  rw [if_neg hnot]
  split_ifs
  · refine ⟨?_, fun m hm => ?_, fun hf => ?_⟩
    · refine (hwr.mono fun r h => h.elim .inl fun h => .inr (.inl h)).trans (((linkOff_onlyRegs n _).mono fun r h => ?_).trans
        ((setFld_onlyReg _ _ _ _ _).mono fun r h => ?_))
      · rcases h with h | rfl
        · exact .inr (.inr h)
        · exact .inl ⟨rfl, rfl⟩
      · subst h
        exact .inr (.inl ⟨rfl, rfl⟩)
    · rw [State.link_congr (setFld_onlyParts _ _ _ .links (by decide)), linkOff_link _ hm, State.link_congr (hw .links (by decide))]
    · obtain ⟨-, -, -, -, hc, hfr, hr, hp⟩ := cxStopped_effect n v s hf
      exact ⟨hfr, by rw [hc]; simp, hr, hp⟩
  · refine ⟨hwr.mono fun r h => h.elim .inl fun h => .inr (.inl h), fun m _ => State.link_congr (hw .links (by decide)) m, fun hf => ?_⟩
    exact ⟨by rw [State.link_congr (hw .links (by decide)), hf], by rw [hw .crew (by decide)], hwr, hw.mono (by decide)⟩

/-- Settles O24: the three rows write CTL alike; EN decides between start and stop, and SRST comes last. -/
theorem coxLinksAreControlled : Obligations.CoxLinksAreControlled := by
  unfold Obligations.CoxLinksAreControlled
  refine ⟨fun n v s hs hn ht h31 h30 hen hck hthr => ?_, fun n v s hs hn ht h29 h30 hen hthr => ?_,
    fun n v s hs hn ht h30 hen hthr => ?_, fun n v s hs hn ht h31 h30 hen hthr hf => ?_⟩
  · refine ⟨(cxWritten n v s).cxStarted n, ?_, ?_⟩
    · rw [(exec_cxCtl hs hn).1, writeCxCtl_taken ht (fun _ _ => hck) hthr, h30, if_neg Bool.false_ne_true, cxSwitched, h31, hen]
      rfl
    · have hw := cxWritten_onlyRegs n v s
      have hen' := cxWritten_en n v s
      have hwp := cxWritten_onlyParts n v s
      generalize cxWritten n v s = a at *
      obtain ⟨htx, hrx, hsrc, hr, hp⟩ := cxStarted_effect n a
      refine ⟨(hr.fld (by simp)).trans (hen'.trans (bits_bit_set h31)), htx, hrx, hsrc, ?_, hwp.trans hp⟩
      refine (hw.mono fun r h => ?_).trans (hr.mono fun r h => ?_)
      · rcases h with rfl | rfl <;> exact .inl ⟨rfl, rfl⟩
      · rcases h with rfl | h
        · exact .inl ⟨rfl, rfl⟩
        · exact .inr h
  · refine ⟨cxWritten n v s, ?_, ?_⟩
    · rw [(exec_cxCtl hs hn).2.1, writeCxCtl_taken ht (fun h h' => by rw [hen, h] at h'; cases h') hthr, h30, if_neg Bool.false_ne_true,
        cxSwitched, hen]
      cases v.getLsbD 31 <;> rfl
    · have hw := cxWritten_onlyRegs n v s
      refine ⟨?_, cxTx_congr hw (by simp), cxRx_congr hw (by simp), hw, cxWritten_onlyParts n v s⟩
      rw [cxWritten, h29]
      exact State.reg_setReg_self _ _ _
  · refine ⟨(cxSwitched n v s).cxReset n, ?_, ?_⟩
    · rw [(exec_cxCtl hs hn).2.2, writeCxCtl_taken ht (fun h h' => by rw [hen h] at h'; cases h') hthr, h30, if_pos rfl]
    · obtain ⟨hsr, hsl, hsf⟩ := cxSwitched_effect hen
      generalize cxSwitched n v s = a at *
      obtain ⟨hreset, hlink, hother, hun, hr, hidle⟩ := cxReset_effect (n := n) a
      have hm : n ≠ 1 - n := by omega
      refine ⟨hreset, hlink, (hother _ hm).trans (hsl _ hm), hun, (hsr.trans hr).mono fun r h => ?_, fun hf => ?_⟩
      · rcases h with h | h | h
        · exact .inl h
        · exact .inr (.inl h)
        · exact .inr (.inr (.inl h))
      · obtain ⟨hfr, hcrew, hsr', hsp⟩ := hsf hf
        obtain ⟨hc, hr', hp⟩ := hidle hfr
        exact ⟨hc.trans hcrew, hsr'.trans hr', (hsp.mono (by decide)).trans hp⟩
  · refine ⟨(linkOff n (cxWritten n v s)).setFld (fCk_CTL_SRC (coxCk n)) 0, ?_, ?_⟩
    · rw [(exec_cxCtl hs hn).1, writeCxCtl_taken ht (fun h => by rw [h31] at h; cases h) hthr, h30, if_neg Bool.false_ne_true,
        cxSwitched, h31, hen]
      rfl
    · obtain ⟨hen', htx, hrx, hsrc, hc, -, hr, hp⟩ := cxStopped_effect n v s hf
      exact ⟨hen'.trans (bits_bit v h31), htx, hrx, hsrc, hc, hr, hp⟩

end Sys2Proof.Machine
end

section
/-! PROOFS. Crews form, leave, relay and time out (R165, R174 to R177, R188, R379). -/

-- The checked text is one long file: elaborating these in order bounds its threads and memory.
set_option Elab.async false

namespace Sys2Proof.Machine

/-! ## CREW_JOIN (R174, R188) -/

theorem mem_enqueueFrame (b : Bool) (f : CrewFrame) (l : List CrewFrame) : f ∈ enqueueFrame b f l := by
  unfold enqueueFrame
  dsimp only
  split_ifs <;> simp

theorem cxTx_eq_of_onlyRegs {P : RegId → Prop} {s t : State} (h : onlyRegs P s t) (hP : ∀ n, ¬ P (rCx_STAT n)) (n : Nat) :
    t.cxTx n = s.cxTx n ∧ t.cxRx n = s.cxRx n ∧ t.faulted n = s.faulted n :=
  ⟨cxTx_congr h (hP n), cxRx_congr h (hP n), h.on (hP n)⟩

/-- The registers of a crew that starts to form. -/
def joinRegs (id role topo share leadUs : Nat) (s : State) : State :=
  ((((((((s.setReg rCox_CREW_STAT 0).setReg rCox_CREW_CNT 0).setReg rCox_CREW_RLY 0).setFld fCox_CREW_STAT_ROLE role).setFld
    fCox_CREW_STAT_TOPO topo).setFld fCox_CREW_STAT_SHARE share).setReg rCox_CREW_SIZE (BitVec.ofNat 32 (id % 65536 * 65536))).setFld
    fCox_CREW_LEAD_LEAD_US leadUs)

theorem joinRegs_onlyRegs (id role topo share leadUs : Nat) (s : State) :
    onlyRegs (fun r => r ∈ [rCox_CREW_STAT, rCox_CREW_CNT, rCox_CREW_RLY, rCox_CREW_SIZE, rCox_CREW_LEAD]) s
      (joinRegs id role topo share leadUs s) := by
  intro r hr
  obtain ⟨n1, n2, n3, n4, n5⟩ : r ≠ rCox_CREW_STAT ∧ r ≠ rCox_CREW_CNT ∧ r ≠ rCox_CREW_RLY ∧ r ≠ rCox_CREW_SIZE ∧ r ≠ rCox_CREW_LEAD := by
    simpa using hr
  rw [joinRegs, State.reg_setFld_ne _ _ _ _ n5, State.reg_setReg_ne _ _ n4, State.reg_setFld_ne _ _ _ _ n1, State.reg_setFld_ne _ _ _ _ n1,
    State.reg_setFld_ne _ _ _ _ n1, State.reg_setReg_ne _ _ n3, State.reg_setReg_ne _ _ n2, State.reg_setReg_ne _ _ n1]

theorem joinRegs_onlyParts (id role topo share leadUs : Nat) (s : State) : onlyParts [.regs] s (joinRegs id role topo share leadUs s) :=
  (((((((setReg_onlyParts s _ _).trans (setReg_onlyParts _ _ _)).trans (setReg_onlyParts _ _ _)).trans (setFld_onlyParts _ _ _)).trans
    (setFld_onlyParts _ _ _)).trans (setFld_onlyParts _ _ _)).trans (setReg_onlyParts _ _ _)).trans (setFld_onlyParts _ _ _)

theorem joinRegs_fields {id role topo share leadUs : Nat} (s : State) (hr : role < 4) (ht : topo < 2) (hl : leadUs < 1024) :
    let t := joinRegs id role topo share leadUs s
    t.role = role ∧ t.fld fCox_CREW_STAT_TOPO = topo ∧ t.fld fCox_CREW_STAT_SHARE = share % 16 ∧ t.fld fCox_CREW_STAT_MEMBER_ID = 0 ∧
      t.fld fCox_CREW_SIZE_CREW_ID = id % 65536 ∧ t.fld fCox_CREW_LEAD_LEAD_US = leadUs := by
  have hid : bits (BitVec.ofNat 32 (id % 65536 * 65536)) 31 16 = id % 65536 := by
    have : id % 65536 < 65536 := Nat.mod_lt _ (by decide)
    rw [bits, BitVec.toNat_ofNat]
    norm_num
    omega
  simp only [State.role, joinRegs]
  refine ⟨?_, ?_, ?_, ?_, ?_, State.fld_setFld_self_of_lt _ _ (by decide) hl⟩
  · simp [Nat.mod_eq_of_lt hr]
  · simp [Nat.mod_eq_of_lt ht]
  · simp
  · simp [bits]
  · simpa using hid

/-- The crew that starts to form. -/
def joinCrew (h : Hdr) (relayEn : Bool) (rxQp : Nat) (c : CrewSt) : CrewSt :=
  { c with join := some h, formed := false, relayEn := relayEn, rxQp := rxQp, alignRun := 0, breaks := [], strokes := 0,
           unwrap := [], mend := [], cut := false, lost := false }

theorem crewJoinBegin_eq (h : Hdr) (id role topo share : Nat) (relayEn : Bool) (leadUs rxQp : Nat) (s : State) :
    ∃ sleep, crewJoinBegin h id role topo share relayEn leadUs rxQp s =
      if role = roleLead then sendControl 1 tEnum 0xFFFF false [0, 0, sleep]
        ((joinRegs id role topo share leadUs s).modCrew (joinCrew h relayEn rxQp))
      else servoToCrew ((joinRegs id role topo share leadUs s).modCrew (joinCrew h relayEn rxQp)) := ⟨_, rfl⟩

/-- A frame of the device's own for a link that is not faulted, and that transmits, waits there. -/
theorem sendControl_queued {n typ dst : Nat} {up : Bool} {fields : List Int} {s : State} (hf : s.faulted n = false)
    (hoff : s.cxTx n ≠ cxTxOff) (hflt : s.cxTx n ≠ cxTxFault) :
    ∃ f ∈ ((sendControl n typ dst up fields s).link n).frames, f.typ = typ ∧ f.src = s.fld fCox_CREW_STAT_MEMBER_ID := by
  have hw : (nextSeq s).wayOf n = n := if_neg (by rw [show (nextSeq s).faulted n = s.faulted n from rfl, hf]; exact Bool.false_ne_true)
  have hr : (nextSeq s).rerouteOf n (ownFrame typ dst up fields s) = ownFrame typ dst up fields s :=
    if_neg (by rw [show (nextSeq s).faulted n = s.faulted n from rfl, hf]; exact Bool.false_ne_true)
  refine ⟨ownFrame typ dst up fields s, ?_, rfl, rfl⟩
  rw [sendControl, sendFrame_queued (by rw [hw]; exact ⟨hoff, hflt⟩), hw, hr, State.link_modLink_self]
  exact mem_enqueueFrame _ _ _

/-- A frame for a link that is not faulted leaves the other link alone. -/
theorem sendControl_link {n m typ dst : Nat} {up : Bool} {fields : List Int} {s : State} (hf : s.faulted n = false) (h : n ≠ m) :
    (sendControl n typ dst up fields s).link m = s.link m := by
  have hw : (nextSeq s).wayOf n = n := if_neg (by rw [show (nextSeq s).faulted n = s.faulted n from rfl, hf]; exact Bool.false_ne_true)
  rw [sendControl]
  by_cases hd : (nextSeq s).cxTx ((nextSeq s).wayOf n) = cxTxOff ∨ (nextSeq s).cxTx ((nextSeq s).wayOf n) = cxTxFault
  · rw [sendFrame_dropped hd]
    rfl
  · rw [sendFrame_queued (by tauto), hw, State.link_modLink_ne _ _ h]
    rfl

theorem sendControl_crew (n typ dst : Nat) (up : Bool) (fields : List Int) (s : State) :
    (sendControl n typ dst up fields s).crew = { s.crew with seq := (s.crew.seq + 1) % 65536 } :=
  sendFrame_plain _ rfl .crew (by decide)

theorem servoToCrew_frame (s : State) : (servoToCrew s).servo = svCrew ∧ onlyRegs (fun r => r = rCox_TB_STAT) s (servoToCrew s) ∧
    onlyParts [.time, .regs] s (servoToCrew s) :=
  ⟨servo_setServo _ (by decide), (noteLocked_onlyParts s).regsKept.of_none.trans (setServo_onlyRegs _ _),
    ((noteLocked_onlyParts s).mono (by decide)).andThen (setServo_onlyParts _ _)⟩

/-- What CREW_JOIN does as it begins. -/
theorem crewJoinBegin_effect {h : Hdr} {id role topo share leadUs rxQp : Nat} {relayEn : Bool} (s : State) (hr : role = 1 ∨ role = 2)
    (ht : topo < 2) (hl : leadUs < 1024) :
    let t := crewJoinBegin h id role topo share relayEn leadUs rxQp s
    t.role = role ∧ t.fld fCox_CREW_STAT_TOPO = topo ∧
      t.fld fCox_CREW_STAT_SHARE = share % 16 ∧ t.crew.join = some h ∧ t.crew.formed = false ∧ t.crew.relayEn = relayEn ∧
      t.crew.rxQp = rxQp ∧ t.fld fCox_CREW_STAT_MEMBER_ID = 0 ∧ t.fld fCox_CREW_SIZE_CREW_ID = id % 65536 ∧
      t.fld fCox_CREW_LEAD_LEAD_US = leadUs ∧ (role = roleMember → t.servo = svCrew ∧ t.links = s.links) ∧
      (role = roleLead → t.time = s.time ∧ (s.faulted 1 = false → t.link 0 = s.link 0)) ∧
      (role = roleLead → s.faulted 1 = false → s.cxTx 1 ≠ cxTxOff → s.cxTx 1 ≠ cxTxFault →
        ∃ f ∈ (t.link 1).frames, f.typ = tEnum ∧ f.src = 0) ∧
      onlyRegs (fun r => r ∈ [rCox_CREW_STAT, rCox_CREW_CNT, rCox_CREW_RLY, rCox_CREW_SIZE, rCox_CREW_LEAD, rCox_TB_STAT]) s t ∧
      onlyParts [.links, .crew, .time, .regs] s t := by
  obtain ⟨sleep, heq⟩ := crewJoinBegin_eq h id role topo share relayEn leadUs rxQp s
  rw [heq]
  obtain ⟨hrole, htopo, hshare, hmem, hid, hlead⟩ := joinRegs_fields (id := id) (share := share) s (by omega : role < 4) ht hl
  have hjr := joinRegs_onlyRegs id role topo share leadUs s
  have hjp := joinRegs_onlyParts id role topo share leadUs s
  generalize joinRegs id role topo share leadUs s = a at *
  obtain ⟨b, hb⟩ : ∃ b, b = a.modCrew (joinCrew h relayEn rxQp) := ⟨_, rfl⟩
  have hbp : onlyParts [.crew] a b := hb ▸ modCrew_onlyParts a _
  have hbc : b.crew = joinCrew h relayEn rxQp a.crew := hb ▸ rfl
  have hbf (f : FldId) : b.fld f = a.fld f := State.fld_congr (hbp .regs (by decide)) f
  have hsr : onlyRegs (fun r => r ∈ [rCox_CREW_STAT, rCox_CREW_CNT, rCox_CREW_RLY, rCox_CREW_SIZE, rCox_CREW_LEAD]) s b :=
    hjr.trans hbp.regsKept.of_none
  have hsp : onlyParts [.crew, .regs] s b := (hjp.mono (by decide)).andThen hbp
  rw [← hb]
  have hjoin : b.crew.join = some h ∧ b.crew.formed = false ∧ b.crew.relayEn = relayEn ∧ b.crew.rxQp = rxQp := by
    rw [hbc]
    exact ⟨rfl, rfl, rfl, rfl⟩
  obtain ⟨hj1, hj2, hj3, hj4⟩ := hjoin
  dsimp only
  split_ifs with hrl
  · have hp := sendControl_onlyParts 1 tEnum 0xFFFF false [0, 0, sleep] b
    have hc := sendControl_crew 1 tEnum 0xFFFF false [0, 0, sleep] b
    obtain ⟨htx, -, hfl⟩ := cxTx_eq_of_onlyRegs hsr (fun n => by simp) 1
    have hk (f : FldId) : (sendControl 1 tEnum 0xFFFF false [0, 0, sleep] b).fld f = a.fld f := (hp.regsKept.fld not_false).trans (hbf f)
    refine ⟨(hk _).trans hrole, (hk _).trans htopo, (hk _).trans hshare, by rw [hc]; exact hj1, by rw [hc]; exact hj2, by rw [hc]; exact hj3,
      by rw [hc]; exact hj4, (hk _).trans hmem, (hk _).trans hid, (hk _).trans hlead, fun hm => ?_, fun _ => ⟨?_, fun hf => ?_⟩,
      fun _ hf hoff hflt => ?_, ?_, (hsp.mono (by decide)).trans (hp.mono (by decide))⟩
    · rw [hrl] at hm
      cases hm
    · exact (hp .time (by decide)).trans (hsp .time (by decide))
    · exact (sendControl_link (hfl.trans hf) (by decide)).trans (State.link_congr (hsp .links (by decide)) 0)
    · obtain ⟨f, hf, hty, hsrc⟩ := sendControl_queued (typ := tEnum) (dst := 0xFFFF) (up := false) (fields := [0, 0, sleep]) (hfl.trans hf)
        (by rw [htx]; exact hoff) (by rw [htx]; exact hflt)
      exact ⟨f, hf, hty, hsrc.trans ((hbf _).trans hmem)⟩
    · exact (hsr.mono fun r h => by simp only [List.mem_cons] at h ⊢; tauto).trans hp.regsKept.of_none
  · obtain ⟨hsv, hr', hp⟩ := servoToCrew_frame b
    have hk {r : RegId} (hi lo : Nat) (hne : r ≠ rCox_TB_STAT) : (servoToCrew b).fld ⟨r, hi, lo⟩ = a.fld ⟨r, hi, lo⟩ := (hr'.fld hne).trans (hbf _)
    have hc : (servoToCrew b).crew = b.crew := hp .crew (by decide)
    refine ⟨(hk _ _ (by decide)).trans hrole, (hk _ _ (by decide)).trans htopo, (hk _ _ (by decide)).trans hshare, by rw [hc]; exact hj1,
      by rw [hc]; exact hj2, by rw [hc]; exact hj3, by rw [hc]; exact hj4, (hk _ _ (by decide)).trans hmem, (hk _ _ (by decide)).trans hid,
      (hk _ _ (by decide)).trans hlead, fun _ => ⟨hsv, (hp .links (by decide)).trans (hsp .links (by decide))⟩, fun h => absurd h hrl,
      fun h => absurd h hrl, ?_, (hsp.mono (by decide)).trans (hp.mono (by decide))⟩
    exact (hsr.mono fun r h => by simp only [List.mem_cons] at h ⊢; tauto).andThen hr' fun r h => by simp [h]

/-! ## CREW_LEAVE (R176) -/

/-- A shared generator of a member goes on as a local one (R176). -/
def localGen (s : State) (a : State) (k : Nat) : State :=
  if s.follows k then
    (a.modGen k fun g => { g with d := g.d.map ({ · with src := 0 }), marked := false, late := false }).setFld (fGen_DEF_SRC k) 0
  else a

theorem localGen_frame (s a : State) (k : Nat) :
    onlyParts [.gens, .regs] a (localGen s a k) ∧ onlyRegs (fun r => r.blk = .gen) a (localGen s a k) := by
  unfold localGen
  split_ifs
  · exact ⟨((setGen_onlyParts a k _).mono (by decide)).andThen (setFld_onlyParts _ _ _),
      (setGen_onlyParts a k _).regsKept.of_none.trans ((setFld_onlyReg _ _ _ _ _).mono fun r h => by subst h; rfl)⟩
  · exact ⟨.refl _ a, .refl _ a⟩

theorem crewClear_role {role : Nat} (s : State) (hr : role < 4) :
    (crewClear role s).role = role ∧ (crewClear role s).fld fCox_CREW_STAT_SHARE = 0 := by
  obtain ⟨a, ha⟩ : ∃ a, a = (((s.setFld fCox_CREW_STAT_ROLE role).setFld fCox_CREW_STAT_SHARE 0).setFld fCox_CREW_STAT_HEALING 0).setFld
    fCox_CREW_STAT_HOLDOVER 0 := ⟨_, rfl⟩
  have hk (f : FldId) : (crewClear role s).fld f = a.fld f := by
    rw [crewClear, ← ha]
    exact State.fld_congr rfl f
  rw [State.role, hk, hk, ha]
  simp [Nat.mod_eq_of_lt hr]

theorem servoLeaveCrew_frame (s : State) :
    onlyRegs (fun r => r = rCox_TB_STAT ∨ r = rCox_TB_FREQ) s (servoLeaveCrew s) ∧ onlyParts [.time, .regs] s (servoLeaveCrew s) := by
  unfold servoLeaveCrew servoCheck
  split_ifs
  · exact ⟨(toHoldover_onlyRegs s).trans ((noteLocked_onlyParts _).regsKept.of_none.trans ((setServo_onlyRegs _ _).mono fun _ => .inl)),
      (toHoldover_onlyParts s).trans (((noteLocked_onlyParts _).mono (by decide)).trans (setServo_onlyParts _ _))⟩
  · exact ⟨toHoldover_onlyRegs s, toHoldover_onlyParts s⟩
  · exact ⟨.refl _ s, .refl _ s⟩

theorem becomePassThrough_eq (s : State) :
    becomePassThrough s = servoLeaveCrew (crewClear rolePass ((List.range 4).foldl (localGen s) s)) := rfl

theorem becomePassThrough_frame (s : State) : (becomePassThrough s).role = rolePass ∧ (becomePassThrough s).fld fCox_CREW_STAT_SHARE = 0 ∧
    (becomePassThrough s).crew.join = s.crew.join ∧
    onlyRegs (fun r => r = rCox_CREW_STAT ∨ r = rCox_TB_STAT ∨ r = rCox_TB_FREQ ∨ r.blk = .gen) s (becomePassThrough s) ∧
    onlyParts [.crew, .gens, .time, .regs] s (becomePassThrough s) := by
  rw [becomePassThrough_eq]
  have hap : onlyParts [.gens, .regs] s ((List.range 4).foldl (localGen s) s) := .foldl (fun b k => (localGen_frame s b k).1) _ s
  have har : onlyRegs (fun r => r.blk = .gen) s ((List.range 4).foldl (localGen s) s) := .foldl (fun b k _ => (localGen_frame s b k).2) s
  generalize (List.range 4).foldl (localGen s) s = a at *
  have hcp := crewClear_onlyParts rolePass a
  have hcr := crewClear_onlyRegs rolePass a
  have hcc := crewClear_crew rolePass a
  have hrole := crewClear_role a (by decide : rolePass < 4)
  generalize crewClear rolePass a = b at *
  obtain ⟨hlr, hlp⟩ := servoLeaveCrew_frame b
  refine ⟨(hlr.fld (by decide)).trans hrole.1, (hlr.fld (by decide)).trans hrole.2, ?_, ?_, ?_⟩
  · rw [hlp .crew (by decide), hcc, hap .crew (by decide)]
  · exact ((har.mono fun _ h => .inr (.inr (.inr h))).trans (hcr.mono fun _ => .inl)).andThen hlr fun r h =>
      h.elim (fun h => .inr (.inl h)) fun h => .inr (.inr (.inl h))
  · exact ((hap.mono (by decide)).trans (hcp.mono (by decide))).andThen hlp

/-- The join that had not completed, completes (R176): the record of its completion is that of the state before. -/
theorem joinDone_completed {j : Hdr} {st : Nat} {P : RegId → Prop} {s a : State} (hj : a.crew.join = some j) (hq : j.qp < 256)
    (hb : s.bme (s.ownerOf j.qp) = true) (hr : onlyRegs P s a) (hP : ∀ r, P r → r.blk ≠ .qp ∧ r.blk ≠ .que) (hbme : a.host.bme = s.host.bme) :
    completed (answer j st) s (joinDone st a) := by
  have he : joinDone st a = complete j st [] (a.modCrew ({ · with join := none })) := by rw [joinDone, hj]
  rw [he]
  exact (complete_after st [] hq hb (hr.trans (modCrew_onlyParts a _).regsKept.of_none) hP hbme).1

theorem joinDone_none {st : Nat} {s : State} (hj : s.crew.join = none) : joinDone st s = s := by rw [joinDone, hj]

theorem completed_mono {c : Compl} {s t u : State} (h : completed c s t) (ho : ∀ o ∈ t.host.out, o ∈ u.host.out) : completed c s u :=
  ⟨fun d hd => ho _ (h.1 d hd), h.2.imp id (ho _)⟩

/-- A DISSOLVE on link `n`, whose leaving the lead waits for (R176, R379). -/
def sendDissolve (a : State) (n : Nat) : State :=
  (sendControl n tDissolve 0xFFFF (n == 0) [] a).modLink n fun l =>
    { l with frames := l.frames.map fun f => if f.typ = tDissolve then { f with tag := .dissolve } else f }

theorem sendDissolve_onlyParts (a : State) (n : Nat) : onlyParts [.links, .crew] a (sendDissolve a n) :=
  (sendControl_onlyParts _ _ _ _ _ a).andThen (modLink_onlyParts _ _ _)

theorem sendDissolve_crew (a : State) (n : Nat) : (sendDissolve a n).crew.leave = a.crew.leave ∧
    (sendDissolve a n).crew.join = a.crew.join ∧ (sendDissolve a n).crew.dissolve = a.crew.dissolve := by
  have h : (sendDissolve a n).crew = { a.crew with seq := (a.crew.seq + 1) % 65536 } := sendControl_crew n tDissolve 0xFFFF (n == 0) [] a
  rw [h]
  exact ⟨rfl, rfl, rfl⟩

/-- A DISSOLVE waits on link `n`. -/
def State.dissolving (s : State) (n : Nat) : Prop := ∃ f ∈ (s.link n).frames, f.typ = tDissolve ∧ f.tag = .dissolve

theorem sendDissolve_queued {a : State} {n : Nat} (hf : a.faulted n = false) (hoff : a.cxTx n ≠ cxTxOff) (hflt : a.cxTx n ≠ cxTxFault) :
    (sendDissolve a n).dissolving n := by
  obtain ⟨f, hmem, hty, -⟩ := sendControl_queued (typ := tDissolve) (dst := 0xFFFF) (up := n == 0) (fields := []) hf hoff hflt
  refine ⟨{ f with tag := .dissolve }, ?_, hty, rfl⟩
  rw [sendDissolve, State.link_modLink_self]
  exact List.mem_map.2 ⟨f, hmem, if_pos hty⟩

theorem sendDissolve_other {a : State} {n m : Nat} (hf : a.faulted n = false) (h : n ≠ m) (hd : a.dissolving m) :
    (sendDissolve a n).dissolving m := by
  have hl : (sendDissolve a n).link m = a.link m := (State.link_modLink_ne _ _ h).trans (sendControl_link hf h)
  rwa [State.dissolving, hl]

/-- DISSOLVE goes out on every link of the list. -/
theorem sendDissolves_effect (l : List Nat) (a : State) (hl : l.Nodup) (hf : ∀ n ∈ l, a.faulted n = false) :
    (∀ n, (n ∈ l ∧ a.cxTx n ≠ cxTxOff ∧ a.cxTx n ≠ cxTxFault ∨ n ∉ l ∧ a.dissolving n) → (l.foldl sendDissolve a).dissolving n) ∧
    onlyParts [.links, .crew] a (l.foldl sendDissolve a) ∧ (l.foldl sendDissolve a).crew.leave = a.crew.leave ∧
    (l.foldl sendDissolve a).crew.join = a.crew.join ∧ (l.foldl sendDissolve a).crew.dissolve = a.crew.dissolve := by
  induction l generalizing a with
  | nil => exact ⟨fun n h => h.elim (fun h => absurd h.1 List.not_mem_nil) And.right, .refl _ a, rfl, rfl, rfl⟩
  | cons m l ih =>
    obtain ⟨hm, hl⟩ := List.nodup_cons.1 hl
    have hp := sendDissolve_onlyParts a m
    obtain ⟨hc1, hc2, hc3⟩ := sendDissolve_crew a m
    have hkeep (n : Nat) := cxTx_eq_of_onlyRegs (P := fun _ => False) hp.regsKept (fun _ => id) n
    obtain ⟨ih1, ih2, ih3, ih4, ih5⟩ := ih (sendDissolve a m) hl fun n hn => (hkeep n).2.2.trans (hf n (List.mem_cons_of_mem _ hn))
    refine ⟨fun n hn => ih1 n ?_, hp.trans ih2, ih3.trans hc1, ih4.trans hc2, ih5.trans hc3⟩
    have hfm := hf m List.mem_cons_self
    rw [(hkeep n).1]
    rcases hn with ⟨hmem, hoff, hflt⟩ | ⟨hmem, hd⟩
    · rcases List.mem_cons.1 hmem with rfl | hmem
      · exact .inr ⟨hm, sendDissolve_queued hfm hoff hflt⟩
      · exact .inl ⟨hmem, hoff, hflt⟩
    · obtain ⟨hne, hmem⟩ := not_or.1 (fun h => hmem (List.mem_cons.2 h))
      exact .inr ⟨hmem, sendDissolve_other hfm (Ne.symm hne) hd⟩

/-- The links on which the lead's DISSOLVE leaves (R176). -/
def State.upLinks (s : State) : List Nat := [1, 0].filter fun n => s.cxRx n == cxRxUp && !s.faulted n

theorem mem_upLinks {s : State} {n : Nat} : n ∈ s.upLinks ↔ n < 2 ∧ s.cxRx n = cxRxUp ∧ s.faulted n = false := by
  have h : n ∈ [1, 0] ↔ n < 2 := by simp; omega
  simp [State.upLinks, List.mem_filter, h]

/-- The end of a crew by its lead. -/
theorem exec_crewLeave {h : Hdr} {s : State} (ht : s.takesPf (.crewLeave h) = true) (htest : coxTargets.any s.testing = false)
    (hc : s.inCrew = true) (hl : s.crew.leave = none) : exec (.crewLeave h) s = .next (
      let s1 := joinDone eAbort (s.begun h.qp)
      if s.role = roleMember then complete h eOk [] (becomePassThrough s1)
      else dissolveCheck (s1.upLinks.foldl sendDissolve (s1.modCrew fun c => { c with leave := some h, dissolve := s1.upLinks.length }))) := by
  obtain ⟨hd, hr, hbeg, -, -, ho⟩ := State.takesPf_elim rfl ht
  have hchecks : firstFail [(!s.inCrew, eState), (s.crew.leave.isSome, eBusy)] = none := by simp [firstFail, hc, hl]
  show execCrewLeave h s = _
  rw [execCrewLeave, command_begins _ _ _ _ _ hd hbeg ((firstFail_gate (fun _ => ho) hr (testing_of_any htest) _).trans hchecks)]
  rw [show (s.begun h.qp).role = s.role from State.fld_congr rfl _]
  rfl

end Sys2Proof.Machine
end

section
/-! PROOFS. The commands and the time limits of crews, and O25. -/

-- The checked text is one long file: elaborating these in order bounds its threads and memory.
set_option Elab.async false

namespace Sys2Proof.Machine

/-- The state in which a leaving begins, its join ended. -/
theorem leaveBegun_frame (h : Hdr) (s : State) : onlyRegs complReg s (joinDone eAbort (s.begun h.qp)) ∧
    onlyParts [.crew, .qps, .held, .regs, .out] s (joinDone eAbort (s.begun h.qp)) ∧ (joinDone eAbort (s.begun h.qp)).crew.join = none ∧
    (s.crew.join = none → joinDone eAbort (s.begun h.qp) = s.begun h.qp) ∧
    ∀ j, s.crew.join = some j → j.qp < 256 → s.bme (s.ownerOf j.qp) = true →
      completed (answer j eAbort) s (joinDone eAbort (s.begun h.qp)) := by
  have hb := begun_onlyParts s h.qp
  refine ⟨hb.regsKept.of_none.trans (joinDone_onlyRegs _ _), (hb.mono (by decide)).trans (joinDone_onlyParts _ _), joinDone_join _ _,
    fun hj => joinDone_none hj, fun j hj hq hbme => ?_⟩
  exact joinDone_completed (P := fun _ => False) hj hq hbme hb.regsKept (fun _ => False.elim) (hb .bme (by decide))

/-- CREW_LEAVE of a member (R176). -/
theorem leaveMember_effect {h : Hdr} {s t : State} (hq : h.qp < 256) (hb : s.bme (s.ownerOf h.qp) = true)
    (ht : t = complete h eOk [] (becomePassThrough (joinDone eAbort (s.begun h.qp)))) :
    t.role = rolePass ∧ t.fld fCox_CREW_STAT_SHARE = 0 ∧ t.crew.join = none ∧
      (s.crew.join = none → completed (answer h eOk) s t) ∧
      (∀ j, s.crew.join = some j → j.qp < 256 → s.bme (s.ownerOf j.qp) = true → completed (answer j eAbort) s t) ∧
      onlyRegs (fun r => complReg r ∨ r = rCox_CREW_STAT ∨ r = rCox_TB_STAT ∨ r = rCox_TB_FREQ ∨ r.blk = .gen) s t ∧
      onlyParts [.crew, .gens, .time, .qps, .held, .regs, .out] s t := by
  obtain ⟨hr, hp, hj, hn, hd⟩ := leaveBegun_frame h s
  generalize joinDone eAbort (s.begun h.qp) = a at *
  obtain ⟨hrole, hshare, hjoin, hbr, hbp⟩ := becomePassThrough_frame a
  have hc := complete_onlyRegs h eOk [] (becomePassThrough a)
  have hcp := complete_anyParts h eOk [] (becomePassThrough a)
  have hstat : ¬ complReg rCox_CREW_STAT := by simp [complReg]
  subst ht
  refine ⟨(hc.fld hstat).trans hrole, (hc.fld hstat).trans hshare, ?_, fun hnone => ?_, fun j hsome hjq hjb => ?_, ?_, ?_⟩
  · rw [hcp .crew (by decide), hjoin, hj]
  · have hab := hn hnone
    have hra : onlyRegs (fun _ => False) s a := hab ▸ (begun_onlyParts s h.qp).regsKept
    refine (complete_after eOk [] hq hb (hra.of_none.trans hbr) (fun r hr => ?_) ((hbp .bme (by decide)).trans (hp .bme (by decide)))).1
    rcases hr with rfl | rfl | rfl | hg
    · decide
    · decide
    · decide
    · simp [hg]
  · refine completed_mono (hd j hsome hjq hjb) fun o ho => complete_out _ _ _ ?_
    rw [hbp .out (by decide)]
    exact ho
  · exact ((hr.mono fun _ => .inl).trans (hbr.mono fun _ => .inr)).trans (hc.mono fun _ => .inl)
  · exact ((hp.mono (by decide)).trans (hbp.mono (by decide))).trans (hcp.mono (by decide))

/-- The lead waits for its DISSOLVE to leave (R176, R379). -/
theorem leaveLead_waits {h : Hdr} {s a t : State} (hr : onlyRegs complReg s a)
    (hp : onlyParts [.crew, .qps, .held, .regs, .out] s a) (hj : a.crew.join = none) (hup : a.upLinks ≠ [])
    (ht : t = dissolveCheck (a.upLinks.foldl sendDissolve (a.modCrew fun c => { c with leave := some h, dissolve := a.upLinks.length }))) :
    t.crew.join = none ∧ t.role = s.role ∧ t.crew.leave = some h ∧
      (∀ n, n < 2 → s.cxRx n = cxRxUp → s.faulted n = false → s.cxTx n ≠ cxTxOff → s.cxTx n ≠ cxTxFault → t.dissolving n) ∧
      onlyRegs (fun r => complReg r ∨ r = rCox_CREW_STAT) s t ∧ onlyParts [.links, .crew, .qps, .held, .regs, .out] s t := by
  obtain ⟨b, hb⟩ : ∃ b, b = a.modCrew fun c => { c with leave := some h, dissolve := a.upLinks.length } := ⟨_, rfl⟩
  have hbp : onlyParts [.crew] a b := hb ▸ modCrew_onlyParts a _
  have hbc : b.crew.leave = some h ∧ b.crew.dissolve = a.upLinks.length ∧ b.crew.join = none := by
    rw [hb]
    exact ⟨rfl, rfl, hj⟩
  have hstat (n : Nat) : ¬ complReg (rCx_STAT n) := by simp [complReg]
  have hsa (n : Nat) := cxTx_eq_of_onlyRegs hr hstat n
  have hab (n : Nat) := cxTx_eq_of_onlyRegs (P := fun _ => False) hbp.regsKept (fun _ => not_false) n
  rw [← hb] at ht
  have hnd : a.upLinks.Nodup := List.Nodup.filter _ (by decide)
  obtain ⟨hq, hdp, hlv, hjn, hds⟩ := sendDissolves_effect a.upLinks b hnd fun n hn => (hab n).2.2.trans (mem_upLinks.1 hn).2.2
  have hlen : a.upLinks.length ≠ 0 := fun h => hup (List.length_eq_zero_iff.1 h)
  have htb : t = a.upLinks.foldl sendDissolve b := by
    rw [ht, dissolveCheck, hlv, hbc.1]
    dsimp only
    rw [if_neg (by rw [hds, hbc.2.1]; exact hlen)]
  rw [← htb] at hq hdp hlv hjn hds
  refine ⟨hjn.trans hbc.2.2, ?_, hlv.trans hbc.1, fun n hn hrx hf hoff hflt => ?_, ?_, ?_⟩
  · exact (hdp.regsKept.fld not_false).trans ((hbp.regsKept.fld not_false).trans (hr.fld (by simp [complReg])))
  · refine hq n (.inl ⟨mem_upLinks.2 ⟨hn, (hsa n).2.1.trans hrx, (hsa n).2.2.trans hf⟩, ?_, ?_⟩)
    · rw [(hab n).1, (hsa n).1]
      exact hoff
    · rw [(hab n).1, (hsa n).1]
      exact hflt
  · exact (hr.mono fun _ => .inl).trans (hbp.regsKept.of_none.trans hdp.regsKept.of_none)
  · exact ((hp.mono (by decide)).trans (hbp.mono (by decide))).trans (hdp.mono (by decide))

/-- The lead that has no link in UP leaves at once (R176). -/
theorem leaveLead_ends {h : Hdr} {s a t : State} (hr : onlyRegs complReg s a)
    (hp : onlyParts [.crew, .qps, .held, .regs, .out] s a) (hj : a.crew.join = none) (hup : a.upLinks = [])
    (ht : t = dissolveCheck (a.upLinks.foldl sendDissolve (a.modCrew fun c => { c with leave := some h, dissolve := a.upLinks.length }))) :
    t.crew.join = none ∧ t.role = roleNone ∧ t.crew.leave = none ∧ t.links = s.links ∧
      (h.qp < 256 → s.bme (s.ownerOf h.qp) = true → onlyRegs (fun _ => False) s a → completed (answer h eOk) s t) ∧
      onlyRegs (fun r => complReg r ∨ r = rCox_CREW_STAT) s t ∧ onlyParts [.crew, .qps, .held, .regs, .out] s t := by
  obtain ⟨b, hb⟩ : ∃ b, b = a.modCrew fun c => { c with leave := none, dissolve := 0 } := ⟨_, rfl⟩
  have hbp : onlyParts [.crew] a b := hb ▸ modCrew_onlyParts a _
  have hbc : b.crew.leave = none ∧ b.crew.join = none := by
    rw [hb]
    exact ⟨rfl, hj⟩
  have htb : t = complete h eOk [] (crewClear roleNone b) := by
    rw [ht, hup, List.foldl_nil, hb]
    rfl
  have hcr := crewClear_onlyRegs roleNone b
  have hcp := crewClear_onlyParts roleNone b
  have hcc := crewClear_crew roleNone b
  obtain ⟨hrole, -⟩ := crewClear_role b (by decide : roleNone < 4)
  generalize crewClear roleNone b = c at *
  have hd := complete_onlyRegs h eOk [] c
  have hdp := complete_anyParts h eOk [] c
  rw [← htb] at hd hdp
  have htc : t.crew = { b.crew with formed := false, relayEn := false } := (hdp .crew (by decide)).trans hcc
  refine ⟨by rw [htc]; exact hbc.2, (hd.fld (by simp [complReg])).trans hrole, by rw [htc]; exact hbc.1, ?_, fun hq hbme hra => ?_, ?_, ?_⟩
  · rw [hdp .links (by decide), hcp .links (by decide), hbp .links (by decide), hp .links (by decide)]
  · rw [htb]
    exact (complete_after eOk [] hq hbme (hra.of_none.trans (hbp.regsKept.of_none.trans hcr)) (fun r hr => by subst hr; decide)
      ((hcp .bme (by decide)).trans ((hbp .bme (by decide)).trans (hp .bme (by decide))))).1
  · exact (hr.mono fun _ => .inl).trans (hbp.regsKept.of_none.trans ((hcr.mono fun _ => .inr).trans (hd.mono fun _ => .inl)))
  · exact (((hp.mono (by decide)).trans (hbp.mono (by decide))).trans (hcp.mono (by decide))).trans (hdp.mono (by decide))

theorem exec_crewRelay {h : Hdr} {dst dir len n : Nat} {p : List Byte} {s : State} (ht : s.takesPf (.crewRelay h dst dir len (some p)) = true)
    (htest : coxTargets.any s.testing = false) (hlen : len ≤ 256) (hme : dst ≠ s.fld fCox_CREW_STAT_MEMBER_ID)
    (hdst : dst < s.fld fCox_CREW_SIZE_SIZE ∨ dst = 0xFFFF) (hc : s.inCrew = true) (hn : n = if dir = 0 then 1 else 0)
    (hrx : s.cxRx n = cxRxUp ∨ s.on (fCx_STAT_WRAPPED n) = true) :
    exec (.crewRelay h dst dir len (some p)) s = .next (sendFrame n
      ⟨tRelay, dir, s.fld fCox_CREW_STAT_MEMBER_ID, dst, s.crew.seq, p.take len, .relay h⟩
      ((s.begun h.qp).modCrew fun c => { c with seq := (c.seq + 1) % 65536 })) := by
  obtain ⟨hd, hr, hbeg, -, -, ho⟩ := State.takesPf_elim rfl ht
  have hchecks : firstFail [(decide (256 < len) || dst == s.fld fCox_CREW_STAT_MEMBER_ID ||
      (decide (s.fld fCox_CREW_SIZE_SIZE ≤ dst) && dst != 0xFFFF), eRange),
      (!s.inCrew || (s.cxRx n != cxRxUp && !s.on (fCx_STAT_WRAPPED n)), eState), ((some p).isNone, eBus)] = none := by
    have h1 : decide (256 < len) = false := by simpa using hlen
    have h2 : (decide (s.fld fCox_CREW_SIZE_SIZE ≤ dst) && dst != 0xFFFF) = false := by
      rcases hdst with h | h
      · simp [h]
      · simp [h]
    have h3 : (s.cxRx n != cxRxUp && !s.on (fCx_STAT_WRAPPED n)) = false := by
      rcases hrx with h | h <;> simp [h]
    simp [firstFail, h1, h2, h3, hme, hc]
  subst hn
  show execCrewRelay h dst dir len (some p) s = _
  rw [execCrewRelay, command_begins _ _ _ _ _ hd hbeg ((firstFail_gate (fun _ => ho) hr (testing_of_any htest) _).trans hchecks)]
  rfl

theorem crewRelay_dropped {h : Hdr} {n : Nat} {f : CrewFrame} {s : State} (hq : h.qp < 256) (hb : s.bme (s.ownerOf h.qp) = true)
    (hf : f.tag = .relay h) (hm : s.cxTx (s.wayOf n) = cxTxOff ∨ s.cxTx (s.wayOf n) = cxTxFault) :
    let t := sendFrame n f ((s.begun h.qp).modCrew fun c => { c with seq := (c.seq + 1) % 65536 })
    completed (answer h eAbort) s t ∧ t.links = s.links ∧ onlyRegs complReg s t ∧ onlyParts [.crew, .qps, .regs, .out] s t := by
  have hd : sendFrame n f ((s.begun h.qp).modCrew fun c => { c with seq := (c.seq + 1) % 65536 }) =
      complete h eAbort [] ((s.begun h.qp).modCrew fun c => { c with seq := (c.seq + 1) % 65536 }) := by
    rw [sendFrame_dropped (s := (s.begun h.qp).modCrew fun c => { c with seq := (c.seq + 1) % 65536 }) hm, hf]
  dsimp only
  rw [hd]
  obtain ⟨hc, hr, hp, -⟩ := completes_after_parts eAbort [] hq hb (modCrew_onlyParts (s.begun h.qp) _)
  exact ⟨hc, hp .links (by decide), hr, hp.mono (by decide)⟩

/-- A join that the time limit ends: it completes from the state before (R175). -/
theorem joinTimeout_effect {h : Hdr} {s a : State} (hj : a.crew.join = some h) (hr : onlyRegs (fun r => r = rCox_CREW_STAT) s a)
    (hp : onlyParts [.crew, .regs] s a) :
    let t := joinDone eTimeout a
    (∀ hi lo, t.fld ⟨rCox_CREW_STAT, hi, lo⟩ = a.fld ⟨rCox_CREW_STAT, hi, lo⟩) ∧ t.crew.join = none ∧
      (h.qp < 256 → s.bme (s.ownerOf h.qp) = true → completed (answer h eTimeout) s t) ∧
      onlyRegs (fun r => complReg r ∨ r = rCox_CREW_STAT) s t ∧ onlyParts [.crew, .qps, .held, .regs, .out] s t := by
  refine ⟨fun hi lo => (joinDone_onlyRegs _ a).fld (by simp [complReg]), joinDone_join _ _, fun hq hb => ?_, ?_, ?_⟩
  · exact joinDone_completed hj hq hb hr (fun r hr => by subst hr; decide) (hp .bme (by decide))
  · exact (hr.mono fun _ => .inr).trans ((joinDone_onlyRegs _ a).mono fun _ => .inl)
  · exact (hp.mono (by decide)).trans (joinDone_onlyParts _ a)

theorem enumTimeout_effect {h : Hdr} {s : State} (hrole : s.role = roleLead) (hj : s.crew.join = some h) (hf : s.crew.formed = false) :
    ∃ t, exec .enumTimeout s = .next t ∧ t.role = roleNone ∧ t.crew.join = none ∧
      (h.qp < 256 → s.bme (s.ownerOf h.qp) = true → completed (answer h eTimeout) s t) ∧
      onlyRegs (fun r => complReg r ∨ r = rCox_CREW_STAT) s t ∧ onlyParts [.crew, .qps, .held, .regs, .out] s t := by
  have hjc : (crewClear roleNone s).crew.join = some h := by
    rw [crewClear_crew]
    exact hj
  obtain ⟨hk, hrest⟩ := joinTimeout_effect hjc (crewClear_onlyRegs roleNone s) (crewClear_onlyParts roleNone s)
  refine ⟨joinDone eTimeout (crewClear roleNone s), ?_, (hk _ _).trans (crewClear_role s (by decide)).1, hrest⟩
  show execEnumTimeout s = _
  rw [execEnumTimeout, if_pos ⟨hrole, by simp [hj], by simp [hf]⟩]

theorem alignTimeout_effect {h : Hdr} {s : State} (hrole : s.role = roleMember) (hj : s.crew.join = some h) :
    ∃ t, exec .memberAlignTimeout s = .next t ∧ t.role = roleMember ∧ t.fld fCox_CREW_STAT_HOLDOVER = 1 ∧ t.crew.join = none ∧
      (h.qp < 256 → s.bme (s.ownerOf h.qp) = true → completed (answer h eTimeout) s t) ∧
      onlyRegs (fun r => complReg r ∨ r = rCox_CREW_STAT) s t ∧ onlyParts [.crew, .qps, .held, .regs, .out] s t := by
  have hp : onlyParts [.crew, .regs] s (s.setFld fCox_CREW_STAT_HOLDOVER 1) := (setFld_onlyParts s _ _).mono (by decide)
  obtain ⟨hk, hrest⟩ := joinTimeout_effect (a := s.setFld fCox_CREW_STAT_HOLDOVER 1) hj (setFld_onlyReg s _ _ _ _) hp
  refine ⟨joinDone eTimeout (s.setFld fCox_CREW_STAT_HOLDOVER 1), ?_, (hk _ _).trans ?_, (hk _ _).trans ?_, hrest⟩
  · show execMemberAlignTimeout s = _
    rw [execMemberAlignTimeout, if_pos ⟨hrole, by simp [hj]⟩]
  · exact (State.fld_setFld_other s _ _ _ _ _ _ (by decide) (by decide) (by decide) (by decide) (by decide)).trans hrole
  · exact State.fld_setFld_self_of_lt s _ (by decide) (by decide)

theorem exec_crewJoin {h : Hdr} {id role topo share leadUs rxQp : Nat} {relayEn : Bool} {s : State}
    (ht : s.takesPf (.crewJoin h id role topo share relayEn leadUs rxQp) = true) (htest : coxTargets.any s.testing = false)
    (hok : firstFail (crewJoinChecks role topo share relayEn leadUs rxQp s) = none) :
    exec (.crewJoin h id role topo share relayEn leadUs rxQp) s =
      .next (crewJoinBegin h id role topo share relayEn leadUs rxQp (s.begun h.qp)) := by
  obtain ⟨hd, hr, hbeg, -, -, ho⟩ := State.takesPf_elim rfl ht
  show execCrewJoin h id role topo share relayEn leadUs rxQp s = _
  rw [execCrewJoin, command_begins _ _ _ _ _ hd hbeg ((firstFail_gate (fun _ => ho) hr (testing_of_any htest) _).trans hok)]

/-- What the ranges of CREW_JOIN leave (R174). -/
theorem crewJoin_ranges {role topo share leadUs rxQp : Nat} {relayEn : Bool} {s : State}
    (hok : firstFail (crewJoinChecks role topo share relayEn leadUs rxQp s) = none) : (role = 1 ∨ role = 2) ∧ topo < 2 ∧ leadUs < 1024 := by
  have h : (decide ((role ≠ 1 ∧ role ≠ 2) ∨ 1 < topo) || (role == 1 && (share == 0 || decide (leadUs < 1 ∨ 1000 < leadUs)))
      || (role == 2 && decide (share ≠ 0 ∨ leadUs ≠ 0))) = false := by
    unfold crewJoinChecks at hok
    rw [firstFail] at hok
    split_ifs at hok with h
    simpa using h
  simp only [Bool.or_eq_false_iff, Bool.and_eq_false_iff, decide_eq_false_iff_not, beq_eq_false_iff_ne] at h
  omega

/-- Settles O25: the frames of a crew change links, the completions queue pairs, and CREW_STAT shows the role. -/
theorem crewsFormAndDissolve : Obligations.CrewsFormAndDissolve := by
  unfold Obligations.CrewsFormAndDissolve
  refine ⟨fun h id role topo share leadUs rxQp relayEn s ht htest hok => ?_, fun h s ht htest hrole hl => ?_, fun h s ht htest hrole hl => ?_,
    fun h dst dir len n m p f s ht htest hlen hme hdst hc hn hrx hm hf => ?_, fun h s hrole hj hf => enumTimeout_effect hrole hj hf,
    fun h s hrole hj => alignTimeout_effect hrole hj, fun s => ⟨fun hno => ?_, fun hno => ?_⟩⟩
  · obtain ⟨hr, htop, hlead⟩ := crewJoin_ranges hok
    have hb := begun_onlyParts s h.qp
    obtain ⟨e1, e2, e3, e4, e5, e6, e7, e8, e9, e10, e11, e12, e13, er, ep⟩ :=
      crewJoinBegin_effect (h := h) (id := id) (share := share) (rxQp := rxQp) (relayEn := relayEn) (s.begun h.qp) hr htop hlead
    exact ⟨_, exec_crewJoin ht htest hok, e1, e2, e3, e4, e5, e6, e7, e8, e9, e10, e11, e12, e13, hb.regsKept.of_none.trans er,
      (hb.mono (by decide)).trans (ep.mono (by decide))⟩
  · have hc : s.inCrew = true := by simp [State.inCrew, hrole]
    obtain ⟨-, -, -, hq, hb, -⟩ := State.takesPf_elim rfl ht
    refine ⟨_, (exec_crewLeave ht htest hc hl).trans ?_, leaveMember_effect hq hb rfl⟩
    dsimp only
    rw [if_pos hrole]
  · have hc : s.inCrew = true := by simp [State.inCrew, hrole]
    obtain ⟨-, -, -, hq, hb, -⟩ := State.takesPf_elim rfl ht
    obtain ⟨hr, hp, hj, hnone, -⟩ := leaveBegun_frame h s
    have hexec := exec_crewLeave ht htest hc hl
    dsimp only at hexec
    rw [if_neg (by rw [hrole]; decide)] at hexec
    generalize joinDone eAbort (s.begun h.qp) = a at *
    have hmem (n : Nat) : n ∈ a.upLinks ↔ n < 2 ∧ s.cxRx n = cxRxUp ∧ s.faulted n = false := by
      obtain ⟨-, hrx, hf⟩ := cxTx_eq_of_onlyRegs hr (fun n => by simp [complReg]) n
      rw [mem_upLinks, hrx, hf]
    by_cases hup : a.upLinks = []
    · obtain ⟨e1, e2, e3, e4, e5, er, ep⟩ := leaveLead_ends (h := h) hr hp hj hup rfl
      refine ⟨_, hexec, e1, fun ⟨n, hn⟩ => ?_, fun _ => ⟨e2, e3, e4, fun hno => e5 hq hb ?_⟩, er, ep.mono (by decide)⟩
      · have := (hmem n).2 hn
        rw [hup] at this
        cases this
      · rw [hnone hno]
        exact (begun_onlyParts s h.qp).regsKept
    · obtain ⟨e1, e2, e3, e4, er, ep⟩ := leaveLead_waits (h := h) hr hp hj hup rfl
      refine ⟨_, hexec, e1, fun _ => ⟨e2.trans hrole, e3, e4⟩, fun hall => ?_, er, ep⟩
      obtain ⟨n, hn⟩ := List.exists_mem_of_ne_nil _ hup
      obtain ⟨h2, hrx, hf⟩ := (hmem n).1 hn
      rw [hall n h2 hrx] at hf
      cases hf
  · obtain ⟨-, -, -, hq, hb, -⟩ := State.takesPf_elim rfl ht
    have hexec := exec_crewRelay ht htest hlen hme hdst hc hn hrx
    subst hm
    refine ⟨fun hoff hflt => hexec.trans ?_, fun hoff => ⟨_, hexec, crewRelay_dropped hq hb rfl hoff⟩⟩
    obtain ⟨b, hb⟩ : ∃ b, b = (s.begun h.qp).modCrew fun c => { c with seq := (c.seq + 1) % 65536 } := ⟨_, rfl⟩
    have hfl : b.faulted n = s.faulted n := hb ▸ rfl
    have hway : b.wayOf n = if s.faulted n then 1 - n else n := by rw [State.wayOf, hfl]
    have htx : b.cxTx (if s.faulted n then 1 - n else n) = s.cxTx (if s.faulted n then 1 - n else n) := hb ▸ rfl
    have hre : b.rerouteOf n ⟨tRelay, dir, s.fld fCox_CREW_STAT_MEMBER_ID, dst, s.crew.seq, p.take len, .relay h⟩ = f := by
      rw [hf, State.rerouteOf, hfl]
      cases s.faulted n <;> rfl
    rw [← hb, sendFrame_queued (by rw [hway, htx]; exact ⟨hoff, hflt⟩), hway, htx, hre]
  · show execEnumTimeout s = _
    rw [execEnumTimeout, if_neg]
    rintro ⟨h1, h2, h3⟩
    rcases hno with h | h | h
    · exact h h1
    · simp [h] at h2
    · simp [h] at h3
  · show execMemberAlignTimeout s = _
    rw [execMemberAlignTimeout, if_neg]
    rintro ⟨h1, h2⟩
    rcases hno with h | h
    · exact h h1
    · simp [h] at h2

end Sys2Proof.Machine
end

section
/-! SUPPORT. Commands of lanes, and concrete states for refutations. -/

-- The checked text is one long file: elaborating these in order bounds its threads and memory.
set_option Elab.async false

namespace Sys2Proof.Machine

/-- A header of queue pair 0. -/
def sampleHdr : Hdr := ⟨0, 7, false, false, false, false, 0x10000⟩

/-- A device that is ready, whose PF may master the bus. -/
def readySample : State :=
  { State.reset with
    regs := [(rSys_READY, 0x80000000#32)]
    host := { State.reset.host with bme := [(0, true)] } }

/-- Command `i` with the descriptor `d` is taken and next in queue pair 0. -/
def State.taking (s : State) (i : Instr) : State :=
  s.modQp 0 fun v => { v with taken := [{ hdr := sampleHdr, desc := (descOf 0x2000 i).getD [], fence := false, waiting := false, kind := 0 }] }

/-- Lane 0 in electrical idle, with an express frame that came and has not yet woken the transmitter. -/
def idleLaneSample : State :=
  ((readySample.setFld (fLn_TX_STAT_STATE 0) txIdle).modLane 0 ({ · with express := [⟨.express 0 0, [], false⟩] })).taking
    (.laneMode sampleHdr 0 0 0 0 0)

/-- The express drops of the state in which a row ends. -/
def dropsOf : Host.Outcome State Fault Refusal → Tab Nat (Nat × Nat)
  | .next t => t.loom.expCnt
  | _ => []

/-- Refutes O27: LANE_MODE of a lane in electrical idle discards the frames that wait there, and a discarded express frame counts as
a drop of its rule (R244), in the loom, which the clause claims unchanged. -/
theorem not_lanesAreCommanded : ¬ Obligations.LanesAreCommanded := by
  unfold Obligations.LanesAreCommanded
  rintro ⟨hmode, -⟩
  obtain ⟨t, ht, -, -, -, -, hparts⟩ := hmode sampleHdr 0 0 0 0 0 idleLaneSample (by decide +kernel) (by decide +kernel)
  have hdrop : dropsOf (exec (.laneMode sampleHdr 0 0 0 0 0) idleLaneSample) = [(0, 0, 1)] := by decide +kernel
  have hloom : t.loom.expCnt = idleLaneSample.loom.expCnt := congrArg LoomSt.expCnt (hparts .loom (by decide))
  rw [ht, dropsOf, hloom] at hdrop
  exact absurd hdrop (by decide +kernel)

end Sys2Proof.Machine
end

section
/-! SUPPORT. A change of SYNC of a lane's checker (R510). -/

-- The checked text is one long file: elaborating these in order bounds its threads and memory.
set_option Elab.async false

namespace Sys2Proof.Machine

/-- Lane 0's checker in synchronisation, with no bit checked yet. -/
def syncSample : State := { State.reset with regs := [(rLn_PRBS_STAT 0, putBits (putBits 0 29 29 1) 31 31 1)] }

/-- Refutes O33: a loss of SYNC is claimed to show whatever the numbers of bits and errors that the row names, but the model takes the
row only where they are those that its own checker has counted; with one bit named and none checked, nothing changes. -/
theorem not_codesAreCountedAndLanesReset : ¬ Obligations.CodesAreCountedAndLanesReset := by
  unfold Obligations.CodesAreCountedAndLanesReset
  rintro ⟨-, -, -, -, -, -, hsync, -⟩
  obtain ⟨t, ht, hlost, -⟩ := hsync 0 1 0 syncSample (by decide) (by decide +kernel) (by decide +kernel)
  have hexec : exec (.prbsSyncChange 0 false 1 0) syncSample = .next syncSample := by
    show execPrbsSyncChange 0 false 1 0 syncSample = _
    rw [execPrbsSyncChange, if_pos (by decide), prbsSync, if_neg (by decide +kernel)]
  rw [hexec] at ht
  obtain rfl := Host.Outcome.next.inj ht
  exact absurd hlost (by decide +kernel)

end Sys2Proof.Machine
end

section
/-! SUPPORT. Check-value channels (R406-R410): what the writes of CTL and of data do to a channel, and to the others. -/

-- The checked text is one long file: elaborating these in order bounds its threads and memory.
set_option Elab.async false

namespace Sys2Proof.Machine

theorem State.on_eq_getLsbD (s : State) (r : RegId) (k : Nat) : s.on ⟨r, k, k⟩ = (s.reg r).getLsbD k := by
  cases h : (s.reg r).getLsbD k with
  | true => simp [State.on, State.fld, bits_bit_set h]
  | false => simp [State.on, State.fld, bits_bit _ h]

/-! ## Channels -/

/-- A channel depends on its own value and on the polynomial that its CTL names. -/
theorem State.ckCh_congr {s t : State} {n : Nat} (h : t.ck = s.ck) (hr : t.reg (rCk_CTL n) = s.reg (rCk_CTL n)) : t.ckCh n = s.ckCh n := by
  simp only [State.ckCh, State.ckPoly, State.fld, h, hr]

/-- A field depends on its register alone. -/
theorem State.fld_congr_reg {s t : State} {f : FldId} (h : t.reg f.reg = s.reg f.reg) : t.fld f = s.fld f := by
  rw [State.fld, h, State.fld]

theorem State.ckPoly_of_poly {s t : State} {n : Nat} (h : t.fld (fCk_CTL_POLY n) = s.fld (fCk_CTL_POLY n)) : t.ckPoly n = s.ckPoly n := by
  rw [State.ckPoly, h, State.ckPoly]

theorem ckRestart_onlyParts (n : Nat) (s : State) : onlyParts [.ck] s (ckRestart n s) := by
  intro p hp
  cases p <;> simp_all [Part.same, ckRestart]

theorem ckRestart_regs (n : Nat) (s : State) : (ckRestart n s).regs = s.regs := rfl

theorem ckFeed_onlyParts (n : Nat) (l : List Byte) (s : State) : onlyParts [.ck] s (ckFeed n l s) := by
  intro p hp
  cases p <;> simp_all [Part.same, ckFeed]

theorem ckCh_ckRestart_self (n : Nat) (s : State) : (ckRestart n s).ckCh n = ⟨(s.ckPoly n).init, 0⟩ := by
  simp [ckRestart, State.ckCh, Tab.get_set_self]

theorem ckCh_ckRestart_ne {n m : Nat} (h : m ≠ n) (s : State) : (ckRestart n s).ckCh m = s.ckCh m := by
  show Tab.get _ (Tab.set s.ck n _) m = _
  rw [Tab.get_set_ne _ _ _ h.symm]
  rfl

theorem ckCh_ckFeed_self (n : Nat) (l : List Byte) (s : State) :
    (ckFeed n l s).ckCh n = ⟨crcFeed (s.ckPoly n) (s.ckCh n).crc l, (s.ckCh n).fed + l.length⟩ := by
  simp [ckFeed, State.ckCh, Tab.get_set_self]

theorem ckCh_ckFeed_ne {n m : Nat} (h : m ≠ n) (l : List Byte) (s : State) : (ckFeed n l s).ckCh m = s.ckCh m := by
  show Tab.get _ (Tab.set s.ck n _) m = _
  rw [Tab.get_set_ne _ _ _ h.symm]
  rfl

/-! ## Data -/

theorem leBytes_four (v : W32) : leBytes 4 v.toNat = [v.extractLsb' 0 8, v.extractLsb' 8 8, v.extractLsb' 16 8, v.extractLsb' 24 8] := by
  have h (i : Nat) : BitVec.ofNat 8 (v.toNat / 2 ^ i) = v.extractLsb' i 8 :=
    BitVec.eq_of_toNat_eq (by simp [BitVec.extractLsb'_toNat, Nat.shiftRight_eq_div_pow])
  have h0 : BitVec.ofNat 8 (v.toNat / 256 ^ 0) = v.extractLsb' 0 8 := h 0
  have h1 : BitVec.ofNat 8 (v.toNat / 256 ^ 1) = v.extractLsb' 8 8 := h 8
  have h2 : BitVec.ofNat 8 (v.toNat / 256 ^ 2) = v.extractLsb' 16 8 := h 16
  have h3 : BitVec.ofNat 8 (v.toNat / 256 ^ 3) = v.extractLsb' 24 8 := h 24
  simp only [leBytes, List.range_succ, List.range_zero, List.nil_append, List.cons_append, List.map_cons, List.map_nil, h0, h1, h2, h3]

/-- CTL as an accepted write leaves it (R406). -/
def ckWritten (n : Nat) (v : W32) (s : State) : State := s.setReg (rCk_CTL n) (v &&& 0xA0001F37#32)

section
variable {n : Nat} {v : W32} {s : State} (hs : s.awake = true) (hn : n < 16)
include hs hn

theorem exec_ckData (ht : s.testing 38 = false) (hc : s.ckShut n = false) : exec (.ckData n v) s = .next (ckFeed n (leBytes 4 v.toNat) s) := by
  show Host.Outcome.next (hostAccess _ s) = _
  rw [hostAccess_awake _ s hs, if_pos hn, writeCkData, State.unavailable_none (r := rCk_DATA n) ht (by simp), hc]
  rfl

theorem exec_ckDataTail (ht : s.testing 38 = false) (hc : s.ckShut n = false) (hv : bits v 25 24 ≠ 0) :
    exec (.ckDataTail n v) s = .next (ckFeed n ((leBytes 4 v.toNat).take (bits v 25 24)) s) := by
  show Host.Outcome.next (hostAccess _ s) = _
  rw [hostAccess_awake _ s hs, if_pos hn, writeCkTail, State.unavailable_none (r := rCk_DATA_TAIL n) ht (by simp), hc, beq_false_of_ne hv]
  rfl

/-! ## CTL -/

theorem exec_ckEnable (h31 : v.getLsbD 31 = true) (h30 : v.getLsbD 30 = false) (hoff : s.on (fCk_CTL_EN n) = false)
    (hok : ckCtlCheck n v s = none) :
    exec (.ckEnable n v) s = .next ((ckRestart n (ckWritten n v s)).setReg (rCk_CNT n) 0) := by
  show Host.Outcome.next (hostAccess _ s) = _
  rw [hostAccess_awake _ s hs, if_pos hn, writeCkCtl, hok]
  simp only [ckWritten, h31, h30, hoff, Bool.not_false, Bool.and_self, Bool.true_or, if_true, if_false, Bool.false_eq_true]

theorem exec_ckFinal (hon : s.on (fCk_CTL_EN n) = true) (h30 : v.getLsbD 30 = true) (hp : bits v 2 0 = s.fld (fCk_CTL_POLY n))
    (hok : ckCtlCheck n v s = none) :
    exec (.ckFinal n v) s = .next (ckRestart n (ckResult n (ckWritten n v s))) := by
  show Host.Outcome.next (hostAccess _ s) = _
  rw [hostAccess_awake _ s hs, if_pos hn, writeCkCtl, hok]
  simp [h30, hon, hp, ckWritten]

end

theorem bits_ckCtl_poly (v : W32) : bits (v &&& 0xA0001F37#32) 2 0 = bits v 2 0 := by
  have h : (v &&& 0xA0001F37#32).extractLsb' 0 3 = v.extractLsb' 0 3 := by
    ext i hi
    have h3 : i = 0 ∨ i = 1 ∨ i = 2 := by omega
    rcases h3 with rfl | rfl | rfl <;> simp
  have h' := congrArg BitVec.toNat h
  simpa [bits, BitVec.extractLsb'_toNat] using h'

section
variable (n : Nat) (v : W32) (s : State)

theorem ckWritten_onlyRegs : onlyRegs (fun r => r = rCk_CTL n) s (ckWritten n v s) := setReg_onlyRegs _ _ _

theorem ckWritten_onlyParts : onlyParts [.regs] s (ckWritten n v s) := setReg_onlyParts _ _ _

theorem ckPoly_ckWritten : (ckWritten n v s).ckPoly n = crcPolys.getD (bits v 2 0) default := by
  rw [State.ckPoly, State.fld, ckWritten, State.reg_setReg_self, bits_ckCtl_poly]

theorem ckCh_ckWritten_ne {m : Nat} (h : m ≠ n) : (ckWritten n v s).ckCh m = s.ckCh m :=
  State.ckCh_congr ((ckWritten_onlyParts n v s) .ck (by decide)) (ckWritten_onlyRegs n v s _ (by simp [h]))

end

/-! ## Results -/

section
variable (n : Nat) (s : State)

theorem ckResult_onlyRegs : onlyRegs (fun r => r = rCk_RES_VAL n ∨ r = rCk_RES_STAT n) s (ckResult n s) :=
  (((setFld_onlyReg s _ _ _ _).mono fun _ h => .inr h).andThen (setReg_onlyRegs _ _ _) fun _ h => .inl h).andThen
    (resultReady_onlyRegs _ _) fun _ h => .inr h

theorem ckResult_onlyParts : onlyParts [.regs] s (ckResult n s) :=
  ((setFld_onlyParts s _ _).andThen (setReg_onlyParts _ _ _)).andThen (resultReady_onlyParts _ _)

theorem ckResult_val : (ckResult n s).reg (rCk_RES_VAL n) = BitVec.ofNat 32 (s.ckValue n) :=
  (State.reg_setReg_ne _ _ (by simp)).trans (State.reg_setReg_self _ _ _)

theorem ckResult_valid : (ckResult n s).on (fCk_RES_STAT_VALID n) = true ∧ (ckResult n s).on (fCk_RES_STAT_FRESH n) = true := by
  obtain ⟨h31, h30⟩ := resultReady_valid ((s.setFld (fCk_RES_STAT_COUNT n) (min (2 ^ 30 - 1) (s.ckCh n).fed)).setReg (rCk_RES_VAL n)
    (BitVec.ofNat 32 (s.ckValue n))) (rCk_RES_STAT n)
  exact ⟨(State.on_eq_getLsbD _ _ _).trans h31, (State.on_eq_getLsbD _ _ _).trans h30⟩

theorem ckResult_count : (ckResult n s).fld (fCk_RES_STAT_COUNT n) = min (2 ^ 30 - 1) (s.ckCh n).fed := by
  refine (State.fld_setFld_other _ _ _ _ _ _ _ (by decide) (by decide) (by decide) (by decide) (by decide)).trans ?_
  refine (State.fld_setReg_ne _ _ (by simp)).trans ?_
  exact State.fld_setFld_self_of_lt s _ (by decide) (by omega)

end

/-! ## The claim -/

theorem ckEnable_effect (n : Nat) (v : W32) (s : State) :
    let t := (ckRestart n (ckWritten n v s)).setReg (rCk_CNT n) 0
    t.reg (rCk_CTL n) = v &&& 0xA0001F37#32 ∧ t.reg (rCk_CNT n) = 0#32 ∧
      t.ckCh n = ⟨(crcPolys.getD (bits v 2 0) default).init, 0⟩ ∧ (∀ m, m ≠ n → t.ckCh m = s.ckCh m) ∧
      onlyRegs (fun r => r = rCk_CTL n ∨ r = rCk_CNT n) s t ∧ onlyParts [.ck, .regs] s t := by
  have hr : onlyRegs (fun _ => False) (ckWritten n v s) (ckRestart n (ckWritten n v s)) := (ckRestart_onlyParts n _).regsKept
  have hcnt := setReg_onlyRegs (ckRestart n (ckWritten n v s)) (rCk_CNT n) 0
  have hck := (setReg_onlyParts (ckRestart n (ckWritten n v s)) (rCk_CNT n) 0) .ck (by decide)
  refine ⟨?_, State.reg_setReg_self _ _ _, ?_, fun m hm => ?_, ?_, ?_⟩
  · exact (hcnt _ (by simp)).trans ((hr _ not_false).trans (State.reg_setReg_self _ _ _))
  · refine (State.ckCh_congr hck (hcnt _ (by simp))).trans ((ckCh_ckRestart_self _ _).trans ?_)
    rw [ckPoly_ckWritten]
  · exact (State.ckCh_congr hck (hcnt _ (by simp))).trans ((ckCh_ckRestart_ne hm _).trans (ckCh_ckWritten_ne n v s hm))
  · exact (((ckWritten_onlyRegs n v s).mono fun _ h => .inl h).trans hr.of_none).andThen hcnt fun _ h => .inr h
  · exact (((ckWritten_onlyParts n v s).mono (l' := [.ck, .regs]) (by decide)).andThen (ckRestart_onlyParts n _)).andThen
      (setReg_onlyParts _ _ _)

theorem ckFinal_effect {n : Nat} {v : W32} {s : State} (hp : bits v 2 0 = s.fld (fCk_CTL_POLY n)) :
    let t := ckRestart n (ckResult n (ckWritten n v s))
    t.reg (rCk_RES_VAL n) = BitVec.ofNat 32 (s.ckValue n) ∧ t.fld (fCk_RES_STAT_COUNT n) = min (2 ^ 30 - 1) (s.ckCh n).fed ∧
      t.on (fCk_RES_STAT_VALID n) = true ∧ t.on (fCk_RES_STAT_FRESH n) = true ∧
      t.ckCh n = ⟨(s.ckPoly n).init, 0⟩ ∧ (∀ m, m ≠ n → t.ckCh m = s.ckCh m) ∧
      onlyRegs (fun r => r = rCk_CTL n ∨ r = rCk_RES_VAL n ∨ r = rCk_RES_STAT n) s t ∧ onlyParts [.ck, .regs] s t := by
  have hpoly : (ckWritten n v s).ckPoly n = s.ckPoly n := by rw [ckPoly_ckWritten, hp, State.ckPoly]
  have hch : (ckWritten n v s).ckCh n = s.ckCh n := by
    rw [State.ckCh, hpoly, (ckWritten_onlyParts n v s) .ck (by decide), State.ckCh]
  have hres := ckResult_onlyRegs n (ckWritten n v s)
  have hck := (ckResult_onlyParts n (ckWritten n v s)) .ck (by decide)
  have hctl : (ckResult n (ckWritten n v s)).reg (rCk_CTL n) = (ckWritten n v s).reg (rCk_CTL n) := hres _ (by simp)
  obtain ⟨hval, hfresh⟩ := ckResult_valid n (ckWritten n v s)
  refine ⟨?_, ?_, (State.on_congr (ckRestart_regs n _) _).trans hval, (State.on_congr (ckRestart_regs n _) _).trans hfresh, ?_,
    fun m hm => ?_, ?_, ?_⟩
  · refine (State.reg_congr (ckRestart_regs n _) _).trans ((ckResult_val n _).trans ?_)
    rw [State.ckValue, hpoly, hch, State.ckValue]
  · rw [State.fld_congr (ckRestart_regs n _), ckResult_count, hch]
  · rw [ckCh_ckRestart_self, State.ckPoly_of_poly (State.fld_congr_reg hctl), hpoly]
  · exact (ckCh_ckRestart_ne hm _).trans ((State.ckCh_congr hck (hres _ (by simp))).trans (ckCh_ckWritten_ne n v s hm))
  · exact (((ckWritten_onlyRegs n v s).mono fun _ h => .inl h).andThen hres fun _ h => .inr h).trans
      ((ckRestart_onlyParts n _).onlyRegs_of_regs (by decide) _)
  · exact (((ckWritten_onlyParts n v s).mono (l' := [.ck, .regs]) (by decide)).andThen (ckResult_onlyParts n _)).andThen
      (ckRestart_onlyParts n _)

theorem take_leBytes_four {k : Nat} (v : W32) (hk : k < 4) :
    (leBytes 4 v.toNat).take k = [v.extractLsb' 0 8, v.extractLsb' 8 8, v.extractLsb' 16 8].take k := by
  rw [leBytes_four]
  exact List.take_append_of_le_length (l₁ := [v.extractLsb' 0 8, v.extractLsb' 8 8, v.extractLsb' 16 8]) (by simp; omega)

/-- Settles O41: the accepted writes of CTL as exact next states, and what feeding a channel changes. -/
theorem checkValuesAreKept : Obligations.CheckValuesAreKept := by
  unfold Obligations.CheckValuesAreKept
  refine ⟨?_, ?_, ?_, ?_⟩
  · intro n v s hs hn h31 h30 hoff hok
    exact ⟨_, exec_ckEnable hs hn h31 h30 hoff hok, ckEnable_effect n v s⟩
  · intro n v s hs hn ht hc
    refine ⟨_, exec_ckData hs hn ht hc, ?_, fun m hm => ckCh_ckFeed_ne hm _ s, ckFeed_onlyParts n _ s⟩
    rw [ckCh_ckFeed_self, leBytes_four]
    rfl
  · intro n v s hs hn ht hc hv
    have hb : bits v 25 24 < 4 := bits_lt v 25 24
    refine ⟨_, exec_ckDataTail hs hn ht hc hv, ?_, fun m hm => ckCh_ckFeed_ne hm _ s, ckFeed_onlyParts n _ s⟩
    rw [ckCh_ckFeed_self, take_leBytes_four v hb, List.length_take, Nat.min_eq_left (by simp; omega)]
  · intro n v s hs hn hon h31 h30 hp hok
    exact ⟨_, exec_ckFinal hs hn hon h30 hp hok, ckFinal_effect hp⟩

end Sys2Proof.Machine

end

section
/-! SUPPORT. Firmware (R484-R488, R550): what a boot attempt, its failure and the phase shown change. -/

-- The checked text is one long file: elaborating these in order bounds its threads and memory.
set_option Elab.async false

namespace Sys2Proof.Machine

/-- What every step of a fold keeps holds at its end where it held at its start. -/
theorem List.foldl_keeps {α β : Type} {f : α → β → α} {l : List β} (P : α → Prop) (h : ∀ a, ∀ x ∈ l, P a → P (f a x)) {a : α}
    (ha : P a) : P (l.foldl f a) := by
  induction l generalizing a with
  | nil => exact ha
  | cons x l ih => exact ih (fun b y hy => h b y (by simp [hy])) (h a x (by simp) ha)

theorem ofLe_lt (l : List Byte) : ofLe l < 256 ^ l.length := by
  induction l with
  | nil => simp [ofLe]
  | cons b l ih =>
    have hb := b.isLt
    rw [ofLe, List.length_cons, pow_succ]
    omega

theorem field_lt (l : List Byte) (a n : Nat) : field l a n < 256 ^ n :=
  (ofLe_lt _).trans_le (Nat.pow_le_pow_right (by decide) (List.length_take_le _ _))

/-! ## The phase shown, pairs, the anchor store -/

theorem showPhase_onlyParts (s : State) : onlyParts [.regs] s (showPhase s) := setFld_onlyParts s _ _

theorem showPhase_onlyRegs (s : State) : onlyRegs (fun r => r = rSys_READY) s (showPhase s) := setFld_onlyReg s _ _ _ _

theorem setPair_onlyParts (s : State) (lo hi : RegId) (v : Nat) : onlyParts [.regs] s (s.setPair lo hi v) :=
  (setReg_onlyParts s _ _).andThen (setReg_onlyParts _ _ _)

theorem setPair_onlyRegs (s : State) (lo hi : RegId) (v : Nat) : onlyRegs (fun r => r = lo ∨ r = hi) s (s.setPair lo hi v) :=
  ((setReg_onlyRegs s _ _).mono fun _ => .inl).andThen (setReg_onlyRegs _ _ _) fun _ => .inr

theorem State.pair_setPair (s : State) {lo hi : RegId} {v : Nat} (h : lo ≠ hi) (hv : v < 2 ^ 64) : (s.setPair lo hi v).pair lo hi = v := by
  have hlo : (s.setPair lo hi v).reg lo = BitVec.ofNat 32 v := (State.reg_setReg_ne _ _ h).trans (State.reg_setReg_self _ _ _)
  have hhi : (s.setPair lo hi v).reg hi = BitVec.ofNat 32 (v / 2 ^ 32) := State.reg_setReg_self _ _ _
  rw [State.pair, hlo, hhi, BitVec.toNat_ofNat, BitVec.toNat_ofNat]
  omega

theorem State.pair_congr {s t : State} {lo hi : RegId} (hlo : t.reg lo = s.reg lo) (hhi : t.reg hi = s.reg hi) : t.pair lo hi = s.pair lo hi := by
  rw [State.pair, hlo, hhi, State.pair]

theorem ancWriteAll_onlyParts (j : Nat) (l : List W32) (s : State) : onlyParts [.anc] s (ancWriteAll j l s) :=
  .foldl (fun a _ => ancWrite_onlyParts _ _ a) _ s

theorem showTa_onlyParts (s : State) : onlyParts [.anc] s (showTa s) := ancWrite_onlyParts _ _ s

/-! ## A boot that fails (R485, R486) -/

theorem firstFail_none {l : List (Bool × Nat)} (h : firstFail l = none) : ∀ e ∈ l, e.1 = false := by
  induction l with
  | nil => simp
  | cons e l ih =>
    obtain ⟨b, st⟩ := e
    cases b with
    | true => simp [firstFail] at h
    | false => simpa using ih (by simpa [firstFail] using h)

theorem bundleStatus_lt {b : List Byte} {st : Nat} {s : State} (h : s.bundleStatus b = some st) : st < 256 := by
  simp only [State.bundleStatus, firstFail] at h
  split_ifs at h <;> cases h <;> decide

theorem awaitHost_onlyParts (s : State) : onlyParts [.regs] s (awaitHost s) := by
  have h : onlyParts [.regs] s (if s.fuses.hostBootDis then s.setFld fSec_STAT_BOOT_ERR ePriv else s.setFld fSec_STAT_WAIT_HOST 1) := by
    split <;> exact setFld_onlyParts s _ _
  exact h.andThen (showPhase_onlyParts _)

theorem awaitHost_onlyRegs (s : State) : onlyRegs (fun r => r = rSec_STAT ∨ r = rSys_READY) s (awaitHost s) := by
  have h : onlyRegs (fun r => r = rSec_STAT ∨ r = rSys_READY) s
      (if s.fuses.hostBootDis then s.setFld fSec_STAT_BOOT_ERR ePriv else s.setFld fSec_STAT_WAIT_HOST 1) := by
    split <;> exact (setFld_onlyReg s _ _ _ _).mono fun _ => .inl
  exact h.andThen (showPhase_onlyRegs _) fun _ => .inr

theorem bootFail_notBooted {st : Nat} {s a : State} (hst : st < 256) (hb : s.sec.booted = false) (ha : onlyParts [.out] s a) :
    notBooted st s (bootFail st a) := by
  obtain ⟨u, hu⟩ : ∃ u, u = (a.setFld fSec_STAT_BOOT_ERR st).modSec ({ · with hostBoot := false }) := ⟨_, rfl⟩
  have hus : onlyParts [.sec, .regs] a u := by
    rw [hu]
    exact ((setFld_onlyParts a _ _).mono (by decide)).andThen (modSec_onlyParts _ _)
  have hur : onlyRegs (fun r => r = rSec_STAT ∨ r = rSys_READY) a u := by
    rw [hu]
    exact ((setFld_onlyReg a _ _ _ _).mono fun _ => .inl).trans ((modSec_onlyParts _ _).onlyRegs_of_regs (by decide) _)
  have hsec : (awaitHost u).sec = { a.sec with hostBoot := false } := by
    rw [(awaitHost_onlyParts u) .sec (by decide), hu]
    rfl
  have hbooted : a.sec.booted = false := by rw [ha .sec (by decide)]; exact hb
  have hdis : u.fuses.hostBootDis = s.fuses.hostBootDis := by rw [hus .fuses (by decide), ha .fuses (by decide)]
  have herr : u.fld fSec_STAT_BOOT_ERR = st := by
    rw [hu]
    exact State.fld_setFld_self_of_lt a _ (by decide) hst
  have hfld (x : State) (f : FldId) (hf : f.reg = rSec_STAT) : (showPhase x).fld f = x.fld f :=
    State.fld_congr_reg (showPhase_onlyRegs x _ (by simp [hf]))
  have hfail : bootFail st a = awaitHost u := by rw [hu]; rfl
  rw [hfail]
  refine ⟨by rw [hsec]; exact hbooted, by rw [hsec], ?_, fun hd => ?_, ?_, ?_⟩
  · rw [awaitHost, hfld _ _ rfl, ← hdis]
    cases hd : u.fuses.hostBootDis with
    | true => exact State.fld_setFld_self_of_lt u _ (by decide) (by decide)
    | false => exact (State.fld_setFld_other _ _ _ _ _ _ _ (by decide) (by decide) (by decide) (by decide) (by decide)).trans herr
  · rw [awaitHost, hdis, hd, State.on, hfld _ _ rfl]
    exact bne_iff_ne.2 (by rw [if_neg (by decide), State.fld_setFld_self_of_lt u _ (by decide) (by decide)]; decide)
  · exact ((ha.onlyRegs_of_regs (by decide) _).trans hur).trans (awaitHost_onlyRegs u)
  · exact ((ha.mono (l' := [.sec, .regs, .out]) (by decide)).andThen hus).andThen (awaitHost_onlyParts u)

/-! ## A boot that passes (R484) -/

/-- The registers of shuttle `n` that its start at boot writes. -/
def houseReg (n : Nat) (r : RegId) : Prop := r = rSh_STAT n ∨ ∃ j, r = rSh_CNT_CFG n j

theorem startHouse_counts_onlyRegs (n : Nat) (s : State) : onlyRegs (fun r => ∃ j, r = rSh_CNT_CFG n j) s
    ([1, 0, 3, 6].zipIdx.foldl (fun a c => (a.setFld (fSh_CNT_CFG_EN n c.2) 1).setFld (fSh_CNT_CFG_SRC n c.2) c.1) s) :=
  onlyRegs.foldl (fun a c _ => ((setFld_onlyReg a _ _ _ _).mono fun _ h => ⟨c.2, h⟩).andThen (setFld_onlyReg _ _ _ _ _)
    fun _ h => ⟨c.2, h⟩) s

theorem startHouse_counts_onlyParts (n : Nat) (s : State) : onlyParts [.regs] s
    ([1, 0, 3, 6].zipIdx.foldl (fun a c => (a.setFld (fSh_CNT_CFG_EN n c.2) 1).setFld (fSh_CNT_CFG_SRC n c.2) c.1) s) :=
  .foldl (fun a _ => (setFld_onlyParts a _ _).andThen (setFld_onlyParts _ _ _)) _ s

theorem startHouse_onlyRegs (b : List Byte) (n : Nat) (s : State) : onlyRegs (houseReg n) s (startHouse b n s) := by
  unfold startHouse
  split
  · exact .refl _ s
  · exact (((setShut_onlyParts s n _).onlyRegs_of_regs (by decide) _).andThen (setFld_onlyReg _ _ _ _ _) fun _ => .inl).andThen
      (startHouse_counts_onlyRegs n _) fun _ => .inr

theorem startHouse_onlyParts (b : List Byte) (n : Nat) (s : State) : onlyParts [.sht, .regs] s (startHouse b n s) := by
  unfold startHouse
  split
  · exact .refl _ s
  · exact (((setShut_onlyParts s n _).mono (by decide)).andThen (setFld_onlyParts _ _ _)).andThen (startHouse_counts_onlyParts n _)

theorem startHouse_shut_ne (b : List Byte) {n m : Nat} (h : m ≠ n) (s : State) : (startHouse b n s).shut m = s.shut m := by
  unfold startHouse
  split
  · rfl
  · next e _ =>
    refine (State.shut_congr ((startHouse_counts_onlyParts n _) .sht (by decide)) m).trans ?_
    rw [State.shut_congr ((setFld_onlyParts _ _ _) .sht (by decide)), State.shut_setShut, if_neg h.symm]

theorem startHouse_runs {b : List Byte} {n : Nat} (s : State)
    (h : ((bundleEntries b).find? fun e => entType e == 2 && entTarget e == n).isSome = true) : (startHouse b n s).shState n = stRun := by
  obtain ⟨e, he⟩ := Option.isSome_iff_exists.1 h
  simp only [startHouse, he]
  exact (State.fld_congr_reg (startHouse_counts_onlyRegs n _ _ (by simp; omega))).trans
    (State.fld_setFld_self_of_lt _ _ (by decide) (by decide))

theorem startHouse_runs_mono {b : List Byte} {n : Nat} (m : Nat) {s : State}
    (h : ((bundleEntries b).find? fun e => entType e == 2 && entTarget e == n).isSome = true) (hs : s.shState n = stRun) :
    (startHouse b m s).shState n = stRun := by
  by_cases hm : m = n
  · subst hm
    exact startHouse_runs s h
  · exact (State.fld_congr_reg (startHouse_onlyRegs b m s _ (by simp [houseReg]; omega))).trans hs

theorem startHouse_foldl_runs {b : List Byte} {n : Nat} {l : List Nat} (hn : n ∈ l) (s : State)
    (h : ((bundleEntries b).find? fun e => entType e == 2 && entTarget e == n).isSome = true) :
    (l.foldl (fun a m => startHouse b m a) s).shState n = stRun := by
  induction l generalizing s with
  | nil => cases hn
  | cons m l ih =>
    by_cases hm : n ∈ l
    · exact ih hm _
    · have : n = m := by simpa [hm] using hn
      subst this
      have h0 := startHouse_runs s h
      rw [List.foldl_cons]
      generalize startHouse b n s = a at h0
      exact List.foldl_keeps (fun a : State => a.shState n = stRun) (fun a m _ ha => startHouse_runs_mono m h ha) h0

/-- What a bundle that passes its checks holds: firmware for each house shuttle, and a counter not below the fuses' (R483). -/
theorem bundleStatus_none {b : List Byte} {s : State} (h : s.bundleStatus b = none) : s.fuses.counter ≤ field b 8 8 ∧
    ∀ n, n < 4 → ((bundleEntries b).find? fun e => entType e == 2 && entTarget e == n).isSome = true := by
  have hall := firstFail_none (l := [(bundleBad b, eDesc), (field b 4 1 != 1, eVersion), (s.bundleForged b, eAuth)]) h
  have hbad : bundleBad b = false := hall (bundleBad b, eDesc) (by simp)
  have hforge : s.bundleForged b = false := hall (s.bundleForged b, eAuth) (by simp)
  have hent := (Bool.or_eq_false_iff.1 (Bool.or_eq_false_iff.1 hbad).1).2
  have hhouse := (Bool.or_eq_false_iff.1 hent).2
  have hcnt : s.fuses.counter ≤ field b 8 8 :=
    not_lt.1 (of_decide_eq_false (Bool.or_eq_false_iff.1 hforge).2)
  refine ⟨hcnt, fun n hn => ?_⟩
  have hlen := List.any_eq_false.1 hhouse n (List.mem_range.2 hn)
  rw [List.find?_isSome]
  have hpos : 0 < ((bundleEntries b).filter fun e => entType e == 2 && entTarget e == n).length := by
    simp only [bne_iff_ne, ne_eq, not_not] at hlen
    omega
  obtain ⟨e, he⟩ := List.exists_mem_of_length_pos hpos
  exact ⟨e, List.mem_filter.1 he⟩

/-- The SEC registers as a boot that passes shows them, and what else it changes before the house shuttles start. -/
theorem bootWords_effect (b : List Byte) {src : Nat} (hsrc : src < 4) (fallback : Bool) (s : State) :
    let t := bootWords b src fallback s
    t.fld fSec_STAT_BOOT_SRC = src ∧ t.fld fSec_STAT_KEY_SLOT = field b 5 1 % 4 ∧ t.on fSec_STAT_FALLBACK = fallback ∧
      t.pair rSec_RUN_RB_LO rSec_RUN_RB_HI = field b 8 8 ∧ t.fld fSec_STAT_BOOT_ERR = s.fld fSec_STAT_BOOT_ERR ∧
      onlyRegs (fun r => r.blk = .sec) s t ∧ onlyParts [.sec, .anc, .regs] s t := by
  have hanc {a : State} (j : Nat) (l : List W32) (h : onlyParts [.anc] s a) : onlyParts [.anc] s (ancWriteAll j l a) :=
    h.trans (ancWriteAll_onlyParts j l a)
  obtain ⟨u, hu, hua⟩ : ∃ u, bootWords b src fallback s = ((((((u.modSec ({ · with subsys := (field b 20 2, field b 22 2) })).setFld
      fSec_STAT_BOOT_SRC src).setFld fSec_STAT_KEY_SLOT (field b 5 1)).setFld fSec_STAT_FALLBACK (if fallback then 1 else 0)).setPair
      rSec_RUN_RB_LO rSec_RUN_RB_HI (field b 8 8)).setFld fSec_BUILD_BUILD (field b 24 4)) ∧ onlyParts [.anc] s u :=
    ⟨_, rfl, hanc _ _ (((ancWriteAll_onlyParts _ _ s).trans (ancWrite_onlyParts _ _ _)).trans (showTa_onlyParts _))⟩
  obtain ⟨v, hv⟩ : ∃ v, v = u.modSec ({ · with subsys := (field b 20 2, field b 22 2) }) := ⟨_, rfl⟩
  have hvr : onlyRegs (fun _ => False) s v := by
    rw [hv]
    exact hua.regsKept.trans (modSec_onlyParts _ _).regsKept
  have hvp : onlyParts [.sec, .anc, .regs] s v := by
    rw [hv]
    exact (hua.mono (by decide)).andThen (modSec_onlyParts _ _)
  rw [← hv] at hu
  obtain ⟨w, hw⟩ : ∃ w, w = ((v.setFld fSec_STAT_BOOT_SRC src).setFld fSec_STAT_KEY_SLOT (field b 5 1)).setFld fSec_STAT_FALLBACK
    (if fallback then 1 else 0) := ⟨_, rfl⟩
  rw [← hw] at hu
  have hwr : onlyRegs (fun r => r = rSec_STAT) v w := by
    rw [hw]
    exact ((setFld_onlyReg v _ _ _ _).trans (setFld_onlyReg _ _ _ _ _)).trans (setFld_onlyReg _ _ _ _ _)
  have hwp : onlyParts [.regs] v w := by
    rw [hw]
    exact ((setFld_onlyParts v _ _).trans (setFld_onlyParts _ _ _)).trans (setFld_onlyParts _ _ _)
  have htail : onlyRegs (fun r => r = rSec_RUN_RB_LO ∨ r = rSec_RUN_RB_HI ∨ r = rSec_BUILD) w (bootWords b src fallback s) := by
    rw [hu]
    exact ((setPair_onlyRegs w _ _ _).mono fun _ h => h.elim .inl fun h => .inr (.inl h)).andThen (setFld_onlyReg _ _ _ _ _)
      fun _ h => .inr (.inr h)
  have hfld (f : FldId) (hf : f.reg = rSec_STAT) : (bootWords b src fallback s).fld f = w.fld f :=
    State.fld_congr_reg (htail _ (by simp [hf]))
  refine ⟨?_, ?_, ?_, ?_, ?_, ?_, ?_⟩
  · rw [hfld _ rfl, hw]
    exact (State.fld_setFld_other _ _ _ _ _ _ _ (by decide) (by decide) (by decide) (by decide) (by decide)).trans
      ((State.fld_setFld_other _ _ _ _ _ _ _ (by decide) (by decide) (by decide) (by decide) (by decide)).trans
        (State.fld_setFld_self_of_lt v _ (by decide) hsrc))
  · rw [hfld _ rfl, hw]
    exact (State.fld_setFld_other _ _ _ _ _ _ _ (by decide) (by decide) (by decide) (by decide) (by decide)).trans
      (State.fld_setFld_self _ _ _ _ _ (by decide) (by decide))
  · rw [State.on, hfld _ rfl, hw, State.fld_setFld_self_of_lt _ _ (by decide) (by cases fallback <;> decide)]
    cases fallback <;> rfl
  · rw [hu]
    exact (State.pair_congr (setFld_onlyReg _ _ _ _ _ _ (by simp)) (setFld_onlyReg _ _ _ _ _ _ (by simp))).trans
      (State.pair_setPair w (by simp) (field_lt b 8 8))
  · rw [hfld _ rfl, ← State.fld_congr_reg (s := s) (t := v) (f := fSec_STAT_BOOT_ERR) (hvr _ not_false), hw]
    exact (State.fld_setFld_other _ _ _ _ _ _ _ (by decide) (by decide) (by decide) (by decide) (by decide)).trans
      ((State.fld_setFld_other _ _ _ _ _ _ _ (by decide) (by decide) (by decide) (by decide) (by decide)).trans
        (State.fld_setFld_other _ _ _ _ _ _ _ (by decide) (by decide) (by decide) (by decide) (by decide)))
  · exact ((hvr.of_none).andThen hwr fun r h => by rw [h]).andThen htail fun r h => by rcases h with h | h | h <;> rw [h]
  · refine (hvp.andThen hwp).andThen (l' := [.regs]) ?_
    rw [hu]
    exact ((setPair_onlyParts w _ _ _).trans (setFld_onlyParts _ _ _)).mono (by decide)

theorem bootPass_bootedOn {b : List Byte} {src : Nat} (hsrc : src < 4) (fallback : Bool) {s a : State} (hb : s.bundleStatus b = none)
    (har : onlyRegs (fun r => r.blk = .sec) s a) (hap : onlyParts [.regs, .out] s a) :
    bootedOn b src fallback s (bootPass b src fallback a) ∧ (bootPass b src fallback a).fld fSec_STAT_BOOT_ERR = a.fld fSec_STAT_BOOT_ERR ∧
      (bootPass b src fallback a).host.out = a.host.out := by
  obtain ⟨hcnt, hent⟩ := bundleStatus_none hb
  obtain ⟨hbsrc, hkey, hfall, hrb, herr, hwr, hwp⟩ := bootWords_effect b hsrc fallback a
  obtain ⟨u, hu⟩ : ∃ u, u = bootWords b src fallback a := ⟨_, rfl⟩
  rw [← hu] at hbsrc hkey hfall hrb herr hwr hwp
  obtain ⟨v, hv⟩ : ∃ v, v = (List.range 4).foldl (fun a n => startHouse b n a) u := ⟨_, rfl⟩
  have hvr : onlyRegs (fun r => r.blk = .sh ∧ r.inst < 4) u v := by
    rw [hv]
    refine onlyRegs.foldl (fun c n hn => (startHouse_onlyRegs b n c).mono fun r h => ?_) u
    have hn4 : n < 4 := List.mem_range.1 hn
    rcases h with rfl | ⟨j, rfl⟩ <;> exact ⟨rfl, hn4⟩
  have hvp : onlyParts [.sht, .regs] u v := by
    rw [hv]
    exact .foldl (fun c n => startHouse_onlyParts b n c) _ u
  have hvshut (m : Nat) (hm : 4 ≤ m) : v.shut m = u.shut m := by
    rw [hv]
    refine List.foldl_keeps (fun c : State => c.shut m = u.shut m) (fun c n hn hc => (startHouse_shut_ne b ?_ c).trans hc) rfl
    have hn4 : n < 4 := List.mem_range.1 hn
    omega
  obtain ⟨w, hw⟩ : ∃ w, w = v.modSec ({ · with booted := true, hostBoot := false }) := ⟨_, rfl⟩
  have hwv : onlyParts [.sec] v w := by rw [hw]; exact modSec_onlyParts _ _
  have ht : bootPass b src fallback a = showPhase w := by rw [hw, hv, hu]; rfl
  have hpr := showPhase_onlyRegs w
  have hpp := showPhase_onlyParts w
  rw [ht]
  have hback : onlyRegs (fun r => r.blk = .sh ∧ r.inst < 4 ∨ r = rSys_READY) u (showPhase w) :=
    ((hvr.mono fun _ => .inl).trans (hwv.onlyRegs_of_regs (by decide) _)).andThen hpr fun _ => .inr
  have hfld (f : FldId) (hf : f.reg.blk = .sec) : (showPhase w).fld f = u.fld f :=
    State.fld_congr_reg (hback _ (by rintro (⟨h, -⟩ | h) <;> simp_all))
  refine ⟨⟨?_, ?_, (hfld _ rfl).trans hbsrc, (hfld _ rfl).trans hkey, ?_, ?_, hcnt, fun n hn => ?_, fun n hn => ?_, ?_, ?_⟩,
    (hfld _ rfl).trans herr, ?_⟩
  · rw [hpp .sec (by decide), hw]; rfl
  · rw [hpp .sec (by decide), hw]; rfl
  · rw [State.on, hfld _ rfl]; exact hfall
  · exact (State.pair_congr (hback _ (by simp)) (hback _ (by simp))).trans hrb
  · refine (State.fld_congr_reg ((((hwv.onlyRegs_of_regs (by decide) _).trans hpr) _ (by simp)))).trans ?_
    rw [hv]
    exact startHouse_foldl_runs (List.mem_range.2 hn) u (hent n hn)
  · rw [State.shut_congr (hpp .sht (by decide)), State.shut_congr (hwv .sht (by decide)), hvshut n hn, State.shut_congr (hwp .sht (by decide)),
      State.shut_congr (hap .sht (by decide))]
  · refine ((har.trans hwr).mono fun _ => .inl).andThen hback fun r h => ?_
    exact h.elim (fun h => .inr (.inr h)) fun h => .inr (.inl h)
  · exact ((((hap.mono (l' := [.sec, .sht, .anc, .regs, .out]) (by decide)).andThen hwp).andThen hvp).andThen hwv).andThen hpp
  · rw [hpp .out (by decide), hwv .out (by decide), hvp .out (by decide), hwp .out (by decide)]

end Sys2Proof.Machine

end

section
/-! PROOFS. The claim about firmware: boot, host bundles, staging and commit (R484-R488, R550). -/

-- The checked text is one long file: elaborating these in order bounds its threads and memory.
set_option Elab.async false

namespace Sys2Proof.Machine

/-! ## Boot from flash and from the host -/

theorem bootFail_out (st : Nat) (s : State) : (bootFail st s).host.out = s.host.out := by
  have h : onlyParts [.sec, .regs] s (bootFail st s) := by
    refine onlyParts.andThen (t := (s.setFld fSec_STAT_BOOT_ERR st).modSec ({ · with hostBoot := false })) ?_ (awaitHost_onlyParts _)
    exact ((setFld_onlyParts s _ _).mono (by decide)).andThen (modSec_onlyParts _ _)
  exact h .out (by decide)

theorem flashBoot_claim (a b first other : List Byte) (p m : Nat) {s : State} (hb : s.sec.booted = false)
    (hm : m = 1 ∧ p = 1 ∧ first = slotBundle b ∧ other = slotBundle a ∨ m ≠ 1 ∧ p = 0 ∧ first = slotBundle a ∧ other = slotBundle b) :
    let t := flashBoot a b m s
    .flashRead 0x6C (flashSlot p) first.length ∈ t.host.out ∧ (s.bundleStatus first = none → bootedOn first p false s t) ∧
      (∀ st, s.bundleStatus first = some st → s.bundleStatus other = none → bootedOn other (1 - p) true s t ∧
        t.fld fSec_STAT_BOOT_ERR = st % 256 ∧ .flashRead 0x6C (flashSlot (1 - p)) other.length ∈ t.host.out) ∧
      (∀ st st', s.bundleStatus first = some st → s.bundleStatus other = some st' → notBooted st s t) := by
  have hp2 : p < 4 ∧ 1 - p < 4 := by omega
  obtain ⟨s1, hs1⟩ : ∃ s1, s1 = readFlash (flashSlot p) first.length (readFlash flashMarker 1 s) := ⟨_, rfl⟩
  obtain ⟨s2, hs2⟩ : ∃ s2, s2 = readFlash (flashSlot (1 - p)) other.length s1 := ⟨_, rfl⟩
  have ht : flashBoot a b m s = (match s.bundleStatus first with
    | none => bootPass first p false s1
    | some st => match s.bundleStatus other with
      | none => bootPass other (1 - p) true (s2.setFld fSec_STAT_BOOT_ERR st)
      | some _ => bootFail st s2) := by
    rw [hs2, hs1]
    rcases hm with ⟨rfl, rfl, rfl, rfl⟩ | ⟨hm, rfl, rfl, rfl⟩
    · rfl
    · simp only [flashBoot, if_neg hm]
      rfl
  have h1 : onlyParts [.out] s s1 := by rw [hs1]; exact (emit_onlyParts s _).trans (emit_onlyParts _ _)
  have h2 : onlyParts [.out] s s2 := by rw [hs2]; exact h1.trans (emit_onlyParts _ _)
  have hread1 : .flashRead 0x6C (flashSlot p) first.length ∈ s1.host.out := by rw [hs1]; simp [readFlash, State.emit]
  have hread2 : .flashRead 0x6C (flashSlot p) first.length ∈ s2.host.out ∧ .flashRead 0x6C (flashSlot (1 - p)) other.length ∈ s2.host.out := by
    constructor
    · rw [hs2]; exact List.mem_cons_of_mem _ hread1
    · rw [hs2]; simp [readFlash, State.emit]
  rw [ht]
  cases hf : s.bundleStatus first with
  | none =>
    obtain ⟨hbo, -, hout⟩ := bootPass_bootedOn hp2.1 false hf (h1.onlyRegs_of_regs (by decide) _) (h1.mono (by decide))
    exact ⟨by rw [hout]; exact hread1, fun _ => hbo, fun _ h => by simp at h, fun _ _ h => by simp at h⟩
  | some st =>
    have hst := bundleStatus_lt hf
    cases ho : s.bundleStatus other with
    | none =>
      have h3 : onlyParts [.regs, .out] s (s2.setFld fSec_STAT_BOOT_ERR st) := (h2.mono (by decide)).andThen (setFld_onlyParts s2 _ _)
      have hr3 : onlyRegs (fun r => r.blk = .sec) s (s2.setFld fSec_STAT_BOOT_ERR st) :=
        (h2.onlyRegs_of_regs (by decide) _).andThen (setFld_onlyReg s2 _ _ _ _) fun r h => by rw [h]
      obtain ⟨hbo, herr, hout⟩ := bootPass_bootedOn hp2.2 true ho hr3 h3
      refine ⟨by rw [hout]; exact hread2.1, fun h => by simp at h, fun st' h _ => ⟨hbo, ?_, by rw [hout]; exact hread2.2⟩, fun _ _ _ h => by simp at h⟩
      obtain rfl : st = st' := by simpa using h
      rw [herr, State.fld_setFld_self_of_lt _ _ (by decide) hst, Nat.mod_eq_of_lt hst]
    | some st2 =>
      refine ⟨by rw [bootFail_out]; exact hread2.1, fun h => by simp at h, fun _ _ h => by simp at h, fun st' _ h _ => ?_⟩
      obtain rfl : st = st' := by simpa using h
      exact bootFail_notBooted hst hb h2

theorem hostBoot_claim (x : Option (List Byte)) {s : State} (hb : s.sec.booted = false) :
    (∀ d, x = some d → d.length = s.fld fSec_HB_LEN_LEN → s.bundleStatus d = none →
        bootedOn d (if s.hostBootStrap then 2 else 3) false s (hostBoot x s)) ∧
      (∀ d st, x = some d → d.length = s.fld fSec_HB_LEN_LEN → s.bundleStatus d = some st → notBooted st s (hostBoot x s)) ∧
      ((∀ d, x = some d → d.length ≠ s.fld fSec_HB_LEN_LEN) → notBooted eBus s (hostBoot x s)) := by
  have hbus : notBooted eBus s (bootFail eBus s) := bootFail_notBooted (by decide) hb (.refl _ s)
  refine ⟨?_, ?_, fun h => ?_⟩
  · rintro d rfl hlen hst
    simp only [hostBoot, hlen, hst, ne_eq, not_true_eq_false, if_false]
    exact (bootPass_bootedOn (by split <;> decide) false hst (.refl _ s) (.refl _ s)).1
  · rintro d st rfl hlen hst
    simp only [hostBoot, hlen, hst, ne_eq, not_true_eq_false, if_false]
    exact bootFail_notBooted (bundleStatus_lt hst) hb (.refl _ s)
  · cases x with
    | none => exact hbus
    | some d =>
      rw [hostBoot, if_pos (h d rfl)]
      exact hbus

/-! ## The host's bundle is asked for -/

theorem hbGo_claim {v : W32} {s : State} (hs : s.awake = true) (hw : s.on fSec_STAT_WAIT_HOST = true) (hv : v.getLsbD 0 = true)
    (hb : s.bme 0 = true) : ∃ t, exec (.hbGo v) s = .next t ∧ t.on fSec_STAT_WAIT_HOST = false ∧ t.sec.hostBoot = true ∧
      t.host.out = .hostRead 0 (s.pair rSec_HB_ADDR_LO rSec_HB_ADDR_HI) (s.fld fSec_HB_LEN_LEN) :: s.host.out ∧
      onlyRegs (fun r => r = rSec_STAT ∨ r = rSys_READY) s t ∧ onlyParts [.sec, .regs, .out] s t := by
  obtain ⟨u, hu⟩ : ∃ u, u = (s.setFld fSec_STAT_WAIT_HOST 0).modSec ({ · with hostBoot := true }) := ⟨_, rfl⟩
  have hexec : exec (.hbGo v) s = .next ((showPhase u).emit (.hostRead 0 (s.pair rSec_HB_ADDR_LO rSec_HB_ADDR_HI) (s.fld fSec_HB_LEN_LEN))) := by
    show Host.Outcome.next (hostAccess (writeHbCtl v) s) = _
    rw [hostAccess_awake _ s hs, writeHbCtl, hw, if_neg (by decide), if_pos hv, hb, if_pos rfl, hu]
  have hur : onlyRegs (fun r => r = rSec_STAT) s u := by
    rw [hu]
    exact (setFld_onlyReg s _ _ _ _).trans ((modSec_onlyParts _ _).onlyRegs_of_regs (by decide) _)
  have hup : onlyParts [.sec, .regs] s u := by
    rw [hu]
    exact ((setFld_onlyParts s _ _).mono (by decide)).andThen (modSec_onlyParts _ _)
  have hpr := showPhase_onlyRegs u
  have hpp := showPhase_onlyParts u
  refine ⟨_, hexec, ?_, ?_, ?_, ?_, ?_⟩
  · rw [State.on_emit, State.on, State.fld_congr_reg (hpr _ (by simp)), hu]
    exact bne_eq_false_iff_eq.2 (State.fld_setFld_self_of_lt s _ (by decide) (by decide))
  · show (showPhase u).sec.hostBoot = true
    rw [hpp .sec (by decide), hu]
    rfl
  · show _ :: (showPhase u).host.out = _
    rw [hpp .out (by decide), hup .out (by decide)]
  · exact ((hur.mono fun _ => .inl).andThen hpr fun _ => .inr).trans ((emit_onlyParts _ _).onlyRegs_of_regs (by decide) _)
  · exact ((hup.mono (l' := [.sec, .regs, .out]) (by decide)).andThen hpp).andThen (emit_onlyParts _ _)

/-! ## Ready (R550) -/

theorem ancVote_onlyRegs (j : Nat) (s : State) : onlyRegs (fun r => r.blk = .anc ∨ noteReg r) s (ancVote j s).2 := by
  have hraise (e : FldId) (he : e.reg.blk = .anc) (a : State) : onlyRegs (fun r => r.blk = .anc ∨ noteReg r) a (raise_ e a) :=
    (raise_onlyRegs e a).mono fun r h => h.imp (fun h => by rw [h]; exact he) id
  have hfld (f : FldId) (v : Nat) (hf : f.reg.blk = .anc) (a : State) : onlyRegs (fun r => r.blk = .anc ∨ noteReg r) a (a.setFld f v) :=
    (setFld_onlyRegs a f v).mono fun r h => .inl (by rw [h]; exact hf)
  have hanc (v : W32) (a : State) : onlyRegs (fun r => r.blk = .anc ∨ noteReg r) a (ancWrite j v a) :=
    (ancWrite_onlyParts _ _ _).onlyRegs_of_regs (by decide) _
  have hdis : (disFld j).reg.blk = .anc := by unfold disFld; split <;> rfl
  unfold ancVote
  dsimp only
  split
  · split_ifs
    · exact ((hanc _ s).trans (hfld _ _ rfl _)).trans (hraise _ rfl _)
    · exact ((hanc _ s).trans (hfld _ _ rfl _)).trans (hraise _ rfl _)
    · exact .refl _ s
  · split_ifs
    · exact (((hfld _ _ hdis s).trans (hraise _ rfl _)).trans (hanc _ _)).trans (hfld _ _ hdis _)
    · exact (hfld _ _ hdis s).trans (hraise _ rfl _)

theorem ancVote_onlyParts (j : Nat) (s : State) : onlyParts [.anc, .rings, .regs, .out] s (ancVote j s).2 := by
  have hraise (e : FldId) (a : State) : onlyParts [.anc, .rings, .regs, .out] a (raise_ e a) := (raise_onlyParts e a).mono (by decide)
  have hfld (f : FldId) (v : Nat) (a : State) : onlyParts [.anc, .rings, .regs, .out] a (a.setFld f v) := (setFld_onlyParts a f v).mono (by decide)
  have hanc (v : W32) (a : State) : onlyParts [.anc, .rings, .regs, .out] a (ancWrite j v a) := (ancWrite_onlyParts _ _ _).mono (by decide)
  unfold ancVote
  dsimp only
  split
  · split_ifs
    · exact ((hanc _ s).trans (hfld _ _ _)).trans (hraise _ _)
    · exact ((hanc _ s).trans (hfld _ _ _)).trans (hraise _ _)
    · exact .refl _ s
  · split_ifs
    · exact (((hfld _ _ s).trans (hraise _ _)).trans (hanc _ _)).trans (hfld _ _ _)
    · exact (hfld _ _ s).trans (hraise _ _)

theorem ready_claim {ms : Nat} {s : State} (hr : s.ready = false) (hd : s.dark = false) (hst : s.started = true) :
    ∃ t, exec (.ready ms) s = .next t ∧ t.ready = true ∧ t.fld fSys_READY_MS_MS = min 65535 ms ∧ t.fld fSys_READY_PHASE = 5 ∧
      onlyRegs (fun r => r = rSys_READY ∨ r = rSys_READY_MS ∨ r.blk = .anc ∨ r = rSec_EVENT ∨ noteReg r) s t ∧
      onlyParts [.thm, .anc, .rings, .regs, .out] s t := by
  obtain ⟨a, ha⟩ : ∃ a, a = voteAll s := ⟨_, rfl⟩
  have har : onlyRegs (fun r => r.blk = .anc ∨ noteReg r) s a := by
    rw [ha]; exact onlyRegs.foldl (fun b j _ => ancVote_onlyRegs j b) s
  have hap : onlyParts [.anc, .rings, .regs, .out] s a := by
    rw [ha]; exact .foldl (fun b j => ancVote_onlyParts j b) _ s
  obtain ⟨b, hb⟩ : ∃ b, b = (a.setFld fSys_READY_READY 1).setFld fSys_READY_MS_MS (min 65535 ms) := ⟨_, rfl⟩
  have hbr : onlyRegs (fun r => r = rSys_READY ∨ r = rSys_READY_MS) a b := by
    rw [hb]; exact ((setFld_onlyReg a _ _ _ _).mono fun _ => .inl).andThen (setFld_onlyReg _ _ _ _ _) fun _ => .inr
  have hbp : onlyParts [.regs] a b := by rw [hb]; exact (setFld_onlyParts a _ _).trans (setFld_onlyParts _ _ _)
  have hbon : b.on fSys_READY_READY = true := by
    rw [hb, State.on, State.fld_congr_reg (setFld_onlyReg _ _ _ _ _ _ (by simp))]
    exact bne_iff_ne.2 (by rw [State.fld_setFld_self_of_lt a _ (by decide) (by decide)]; decide)
  have hphase : showPhase b = b.setFld fSys_READY_PHASE 5 := by rw [showPhase, hbon, if_pos rfl]
  obtain ⟨c, hc⟩ : ∃ c, c = (showPhase b).modThm fun m => { m with readyAt := some (m.readyAt.getD s.up) } := ⟨_, rfl⟩
  have hcr : onlyRegs (fun _ => False) (showPhase b) c := by
    rw [hc]; exact fun _ _ => rfl
  have hcp : onlyParts [.thm] (showPhase b) c := by
    rw [hc]
    intro p hp
    cases p <;> simp_all [Part.same, State.modThm]
  obtain ⟨t, ht⟩ : ∃ t, t = (if c.on fSec_STAT_FALLBACK then raise_ fSec_EVENT_FALLBACK c else c) := ⟨_, rfl⟩
  have htr : onlyRegs (fun r => r = rSec_EVENT ∨ noteReg r) c t := by
    rw [ht]; split
    · exact raise_onlyRegs fSec_EVENT_FALLBACK c
    · exact .refl _ c
  have htp : onlyParts [.rings, .regs, .out] c t := by
    rw [ht]; split
    · exact raise_onlyParts _ c
    · exact .refl _ c
  have hexec : exec (.ready ms) s = .next t := by
    show execReady ms s = _
    rw [execReady, hr, hd, hst, if_neg (by decide), ht, hc, hb, ha]
  have hback : onlyRegs (fun r => r = rSec_EVENT ∨ noteReg r) (showPhase b) t := hcr.of_none.trans htr
  refine ⟨t, hexec, ?_, ?_, ?_, ?_, ?_⟩
  · show t.fld fSys_READY_READY != 0
    rw [State.fld_congr_reg (hback _ (by simp [noteReg])), hphase]
    rw [State.fld_setFld_other _ _ _ _ _ _ _ (by decide) (by decide) (by decide) (by decide) (by decide)]
    exact hbon
  · rw [State.fld_congr_reg (hback _ (by simp [noteReg])), hphase, State.fld_congr_reg (setFld_onlyReg _ _ _ _ _ _ (by simp)), hb]
    exact State.fld_setFld_self_of_lt _ _ (by decide) (by omega)
  · rw [State.fld_congr_reg (hback _ (by simp [noteReg])), hphase]
    exact State.fld_setFld_self_of_lt b _ (by decide) (by decide)
  · refine (((har.mono ?_).andThen hbr ?_).andThen (showPhase_onlyRegs b) ?_).andThen hback ?_
    · exact fun _ h => h.elim (fun h => .inr (.inr (.inl h))) fun h => .inr (.inr (.inr (.inr h)))
    · exact fun _ h => h.elim .inl fun h => .inr (.inl h)
    · exact fun _ => .inl
    · exact fun _ h => .inr (.inr (.inr h))
  · exact (((hap.mono (l' := [.thm, .anc, .rings, .regs, .out]) (by decide)).andThen hbp).andThen (showPhase_onlyParts b)).andThen
      (l' := [.thm, .rings, .regs, .out]) ((hcp.mono (by decide)).andThen htp)

/-! ## Staging and commit (R487, R488) -/

theorem exec_fwStage {h : Hdr} {addr len : Nat} {b : Option (List Byte)} {s : State} (ht : s.takesPf (.fwStage h addr len b) = true)
    (h1 : 8192 ≤ len) (h2 : len ≤ 16777216) (hf : s.fwBusy = false) :
    exec (.fwStage h addr len b) s = .next { s.begun h.qp with
      sec := { s.sec with stage := some (h, addr, b.bind fun l => if l.length = len then some l else none) } } := by
  obtain ⟨hd, hr, hbeg, -, -, ho⟩ := State.takesPf_elim rfl ht
  have hchecks : firstFail [(decide (len < 8192 ∨ 16777216 < len), eRange), (s.fwBusy, eBusy)] = none := by
    simp [firstFail, hf]; omega
  show execFwStage h addr len b s = _
  rw [execFwStage, command_begins _ _ _ _ _ hd hbeg ((firstFail_gate (fun _ => ho) hr (by simp) _).trans hchecks)]
  rfl

theorem exec_fwCommit {h : Hdr} {adv : Bool} {s : State} (ht : s.takesPf (.fwCommit h adv) = true) (hst : s.sec.staged.isSome = true)
    (hb : s.hostBootStrap = false) (hf : s.fwBusy = false) :
    exec (.fwCommit h adv) s = .next { s.begun h.qp with sec := { s.sec with commit := some (h, adv) } } := by
  obtain ⟨hd, hr, hbeg, -, -, ho⟩ := State.takesPf_elim rfl ht
  have hchecks : firstFail [(s.sec.staged.isNone || s.hostBootStrap, eState), (s.fwBusy, eBusy)] = none := by
    obtain ⟨x, hx⟩ := Option.isSome_iff_exists.1 hst
    simp [firstFail, hf, hb, hx]
  show execFwCommit h adv s = _
  rw [execFwCommit, command_begins _ _ _ _ _ hd hbeg ((firstFail_gate (fun _ => ho) hr (by simp) _).trans hchecks)]
  rfl

/-- A completion from a state that differs from `s` in parts other than the registers and Bus Master Enable. -/
theorem completes_from {h : Hdr} {s a : State} {l : List Part} (st : Nat) (res : List Byte) (hq : h.qp < 256)
    (hb : s.bme (s.ownerOf h.qp) = true) (ha : onlyParts l s a) (hl : Part.regs ∉ l ∧ Part.bme ∉ l := by decide) :
    completed (answer h st res) s (complete h st res a) ∧ onlyRegs complReg s (complete h st res a) ∧
      onlyParts (l ++ [.qps, .regs, .out]) s (complete h st res a) := by
  obtain ⟨hc, hp⟩ := complete_after (P := fun _ => False) st res hq hb (ha.regsKept hl.1) (fun _ => False.elim) (ha .bme hl.2)
  exact ⟨hc, (ha.regsKept hl.1).of_none.trans (complete_onlyRegs h st res a),
    (ha.mono (List.subset_append_left _ _)).andThen hp (List.subset_append_right _ _)⟩

theorem fwStageDone_claim {h : Hdr} {addr : Nat} {b : List Byte} {s : State} (hs : s.sec.stage = some (h, addr, some b)) (hq : h.qp < 256)
    (hb : s.bme (s.ownerOf h.qp) = true) : ∃ t, exec .fwStageDone s = .next t ∧ onlyRegs complReg s t ∧ onlyParts [.sec, .qps, .regs, .out] s t ∧
      (s.bundleStatus b = none → t.sec = { s.sec with stage := none, staged := some ⟨addr, b.length, digest512 b⟩ } ∧
        completed (answer h eOk ((b.drop 8).take 8)) s t) ∧
      (∀ st, s.bundleStatus b = some st → t.sec = { s.sec with stage := none } ∧ completed (answer h st) s t) := by
  have hexec : exec .fwStageDone s = .next (match s.bundleStatus b with
      | some st => complete h st [] (s.modSec ({ · with stage := none }))
      | none => complete h eOk ((b.drop 8).take 8)
          ((s.modSec ({ · with stage := none })).modSec ({ · with staged := some ⟨addr, b.length, digest512 b⟩ }))) := by
    show execFwStageDone s = _
    rw [execFwStageDone, hs] <;> rfl
  have h1 := modSec_onlyParts s ({ · with stage := none })
  have h2 := h1.trans (modSec_onlyParts (s.modSec ({ · with stage := none })) ({ · with staged := some ⟨addr, b.length, digest512 b⟩ }))
  refine ⟨_, hexec, ?_⟩
  cases hst : s.bundleStatus b with
  | none =>
    obtain ⟨hc, hr, hp⟩ := completes_from eOk ((b.drop 8).take 8) hq hb h2
    refine ⟨hr, hp, fun _ => ⟨?_, hc⟩, fun _ h => by simp at h⟩
    exact ((complete_anyParts h eOk ((b.drop 8).take 8) _) .sec (by decide)).trans rfl
  | some st =>
    obtain ⟨hc, hr, hp⟩ := completes_from st [] hq hb h1
    refine ⟨hr, hp, fun h => by simp at h, fun st' h' => ?_⟩
    obtain rfl : st = st' := by simpa using h'
    exact ⟨((complete_anyParts h st [] _) .sec (by decide)).trans rfl, hc⟩

theorem advanceFuses_onlyParts (b : List Byte) (s : State) : onlyParts [.fuses, .anc] s (advanceFuses b s) := by
  refine onlyParts.andThen (l' := [.anc]) (t := { s with fuses := _ }) ?_ (ancWriteAll_onlyParts _ _ _)
  intro p hp
  cases p <;> simp_all [Part.same]

theorem advanceFuses_counter (b : List Byte) (s : State) : (advanceFuses b s).fuses.counter = max s.fuses.counter (field b 8 8) := by
  unfold advanceFuses mirrorFuses
  exact congrArg Fuses.counter ((ancWriteAll_onlyParts _ _ _) .fuses (by decide))

theorem State.otherSlot_of_lt {s : State} {k : Nat} (h : s.fld fSec_STAT_BOOT_SRC = k) (hk : k < 2) : s.otherSlot = 1 - k := by
  rw [State.otherSlot, h]
  obtain rfl | rfl : k = 0 ∨ k = 1 := by omega
  · rfl
  · rfl

/-- The state from which an accepted commit completes (R488). -/
def committed (adv : Bool) (st : Staged) (host back : List Byte) (k : Nat) (s : State) : State :=
  let s3 := (readFlash (flashSlot (1 - k)) st.len ((s.tick.modSec ({ · with commit := none })).emit
    (.flash (flashSlot (1 - k)) (padTo st.len (host.take st.len))))).emit (.flash flashMarker (leBytes 1 (1 - k)))
  if adv then advanceFuses back s3 else s3

theorem exec_fwCommitDone {h : Hdr} {adv : Bool} {st : Staged} {host back : List Byte} {k : Nat} {s : State}
    (hc : s.sec.commit = some (h, adv)) (hst : s.sec.staged = some st) (hdig : digest512 back = st.digest)
    (hk : s.fld fSec_STAT_BOOT_SRC = k) (hk2 : k < 2) :
    exec (.fwCommitDone (some host) back) s = .next (complete h eOk [] (committed adv st host back k s)) := by
  show execFwCommitDone (some host) back s = _
  rw [execFwCommitDone, hc, hst]
  simp only [State.otherSlot_of_lt hk hk2, hdig, ne_eq, not_true_eq_false, if_false]
  rfl

theorem committed_effect (adv : Bool) (st : Staged) (host back : List Byte) (k : Nat) (s : State) :
    let t := committed adv st host back k s
    .flash (flashSlot (1 - k)) (padTo st.len (host.take st.len)) ∈ t.host.out ∧
      .flashRead 0x6C (flashSlot (1 - k)) st.len ∈ t.host.out ∧ .flash flashMarker (leBytes 1 (1 - k)) ∈ t.host.out ∧
      t.sec.commit = none ∧ t.fuses.counter = (if adv then max s.fuses.counter (field back 8 8) else s.fuses.counter) ∧
      (adv = false → t.fuses = s.fuses) ∧ onlyParts [.sec, .fuses, .anc, .free, .out] s t := by
  obtain ⟨u, hu⟩ : ∃ u, u = (readFlash (flashSlot (1 - k)) st.len ((s.tick.modSec ({ · with commit := none })).emit
    (.flash (flashSlot (1 - k)) (padTo st.len (host.take st.len))))).emit (.flash flashMarker (leBytes 1 (1 - k))) := ⟨_, rfl⟩
  have hout : .flash (flashSlot (1 - k)) (padTo st.len (host.take st.len)) ∈ u.host.out ∧
      .flashRead 0x6C (flashSlot (1 - k)) st.len ∈ u.host.out ∧ .flash flashMarker (leBytes 1 (1 - k)) ∈ u.host.out := by
    rw [hu]
    simp [readFlash, State.emit]
  have hsec : u.sec.commit = none := by rw [hu]; rfl
  have hfuses : u.fuses = s.fuses := by rw [hu]; rfl
  have hup : onlyParts [.sec, .free, .out] s u := by
    rw [hu]
    exact (((((tick_onlyParts s).mono (by decide)).andThen (modSec_onlyParts _ _)).andThen (emit_onlyParts _ _)).andThen (emit_onlyParts _ _)).andThen
      (emit_onlyParts _ _)
  have ht : committed adv st host back k s = if adv then advanceFuses back u else u := by rw [hu]; rfl
  rw [ht]
  cases adv with
  | false => exact ⟨hout.1, hout.2.1, hout.2.2, hsec, by rw [if_neg (by decide), if_neg (by decide), hfuses], fun _ => hfuses, hup.mono (by decide)⟩
  | true =>
    have hp := advanceFuses_onlyParts back u
    rw [if_pos rfl]
    refine ⟨?_, ?_, ?_, ?_, ?_, fun h => by simp at h, (hup.mono (by decide)).andThen hp⟩
    · rw [hp .out (by decide)]; exact hout.1
    · rw [hp .out (by decide)]; exact hout.2.1
    · rw [hp .out (by decide)]; exact hout.2.2
    · rw [hp .sec (by decide)]; exact hsec
    · rw [advanceFuses_counter, hfuses, if_pos rfl]

theorem fwCommitDone_claim {h : Hdr} {adv : Bool} {st : Staged} {host back : List Byte} {k : Nat} {s : State}
    (hc : s.sec.commit = some (h, adv)) (hst : s.sec.staged = some st) (hdig : digest512 back = st.digest)
    (hk : s.fld fSec_STAT_BOOT_SRC = k) (hk2 : k < 2) (hq : h.qp < 256) (hb : s.bme (s.ownerOf h.qp) = true) :
    ∃ t, exec (.fwCommitDone (some host) back) s = .next t ∧ .flash (flashSlot (1 - k)) (padTo st.len (host.take st.len)) ∈ t.host.out ∧
      .flashRead 0x6C (flashSlot (1 - k)) st.len ∈ t.host.out ∧ .flash flashMarker (leBytes 1 (1 - k)) ∈ t.host.out ∧
      t.sec.commit = none ∧ completed (answer h eOk) s t ∧
      t.fuses.counter = (if adv then max s.fuses.counter (field back 8 8) else s.fuses.counter) ∧ (adv = false → t.fuses = s.fuses) ∧
      onlyRegs complReg s t ∧ onlyParts [.sec, .fuses, .anc, .free, .qps, .regs, .out] s t := by
  obtain ⟨ho1, ho2, ho3, hsec, hcnt, hfuses, hup⟩ := committed_effect adv st host back k s
  obtain ⟨u, hu⟩ : ∃ u, u = committed adv st host back k s := ⟨_, rfl⟩
  rw [← hu] at ho1 ho2 ho3 hsec hcnt hfuses hup
  obtain ⟨hcompl, hr, hp⟩ := completes_from eOk [] hq hb hup
  have hany := complete_anyParts h eOk [] u
  refine ⟨complete h eOk [] u, by rw [hu]; exact exec_fwCommitDone hc hst hdig hk hk2, complete_out h eOk [] ho1, complete_out h eOk [] ho2,
    complete_out h eOk [] ho3, ?_, hcompl, ?_, fun ha => ?_, hr, hp.mono (by decide)⟩
  · rw [hany .sec (by decide)]; exact hsec
  · rw [hany .fuses (by decide)]; exact hcnt
  · rw [hany .fuses (by decide)]; exact hfuses ha

/-- Settles O47: what a boot attempt, READY, a staging and a commit change, each by the state it completes from. -/
theorem firmwareIsLoaded : Obligations.FirmwareIsLoaded := by
  unfold Obligations.FirmwareIsLoaded
  refine ⟨?_, ?_, ?_, ?_, ?_, ?_, ?_, ?_⟩
  · intro x a b first other p m s hb hd hh hstrap hw hm
    refine ⟨flashBoot a b m s, ?_, flashBoot_claim a b first other p m hb hm⟩
    show execBootDone x (a, b) m s = _
    rw [execBootDone, hb, hd, hh, hstrap, hw]
    rfl
  · intro x a b m s hb hd hh hbme
    refine ⟨hostBoot x s, ?_, hostBoot_claim x hb⟩
    show execBootDone x (a, b) m s = _
    rw [execBootDone, hb, hd, hh, hbme]
    rfl
  · exact fun v s hs hw hv hb => hbGo_claim hs hw hv hb
  · exact fun ms s hr hd hst => ready_claim hr hd hst
  · exact fun h addr len b s ht h1 h2 hf => exec_fwStage ht h1 h2 hf
  · exact fun h addr b s hs hq hb => fwStageDone_claim hs hq hb
  · exact fun h adv s ht hst hb hf => exec_fwCommit ht hst hb hf
  · exact fun h adv st host back k s hc hst hdig hk hk2 hq hb => fwCommitDone_claim hc hst hdig hk hk2 hq hb

end Sys2Proof.Machine

end

section
/-! SUPPORT. The device held in reset (R339, R470, R495, R545): what `holdReset` leaves of the state, and what it drives. -/

-- The checked text is one long file: elaborating these in order bounds its threads and memory.
set_option Elab.async false

namespace Sys2Proof.Machine

/-! ## The temperatures of the lanes -/

/-- What a temperature leaves of a lane. -/
def laneKept (a b : Lane) : Prop := b.express = a.express ∧ b.modeCmd = a.modeCmd ∧ b.anchors = a.anchors

theorem laneKept.trans {a b c : Lane} (h : laneKept a b) (h' : laneKept b c) : laneKept a c :=
  ⟨h'.1.trans h.1, h'.2.1.trans h.2.1, h'.2.2.trans h.2.2⟩

theorem laneKept.modLane {n : Nat} {f : Lane → Lane} {s : State} (hf : laneKept (s.lane n) (f (s.lane n))) (m : Nat) :
    laneKept (s.lane m) ((s.modLane n f).lane m) := by
  by_cases h : m = n
  · subst h
    rw [State.lane_modLane_self]
    exact hf
  · rw [State.lane_modLane_ne s f h]
    exact ⟨rfl, rfl, rfl⟩

theorem laneKept.of_lanes {s t : State} (h : t.lanes = s.lanes) (m : Nat) : laneKept (s.lane m) (t.lane m) := by
  rw [State.lane_congr h]
  exact ⟨rfl, rfl, rfl⟩

theorem setLane_onlyParts (s : State) (n : Nat) (l : Lane) : onlyParts [.lanes] s (s.setLane n l) := by
  intro p hp
  cases p <;> simp_all [Part.same]

theorem trackCal_onlyParts (n : Nat) (s : State) : onlyParts [.lanes] s (trackCal n s) := by
  unfold trackCal
  dsimp only
  split_ifs <;> exact setLane_onlyParts s _ _

theorem trackCal_kept (n : Nat) (s : State) (m : Nat) : laneKept (s.lane m) ((trackCal n s).lane m) := by
  have h (l : Lane) (hl : laneKept (s.lane n) l) : laneKept (s.lane m) ((s.setLane n l).lane m) := by
    by_cases hm : m = n
    · subst hm
      rw [State.lane_setLane_self]
      exact hl
    · rw [State.lane_setLane_ne s l hm]
      exact ⟨rfl, rfl, rfl⟩
  unfold trackCal
  dsimp only
  split_ifs <;> exact h _ ⟨rfl, rfl, rfl⟩

/-- The registers of lane `n` in which a temperature shows. -/
def tempReg (n : Nat) (r : RegId) : Prop := r = rLn_CAL_TEMP n ∨ r = rLn_CAL_STAT n ∨ r = rLn_CAL_EVENT n ∨ noteReg r

theorem calAbandon_onlyRegs (n : Nat) (s : State) : onlyRegs (tempReg n) s (calAbandon n s) := by
  unfold calAbandon
  split
  · exact ((setFld_onlyReg s _ _ _ _).mono fun _ h => .inr (.inl h)).andThen (raise_onlyRegs (fLn_CAL_EVENT_ABANDON n) _)
      fun _ h => .inr (.inr h)
  · exact .refl _ s

theorem calAbandon_onlyParts (n : Nat) (s : State) : onlyParts [.rings, .regs, .out] s (calAbandon n s) := by
  unfold calAbandon
  split
  · exact ((setFld_onlyParts s _ _).mono (by decide)).andThen (raise_onlyParts _ _)
  · exact .refl _ s

/-- A temperature that does not abandon a pass shows in CAL_TEMP alone. -/
theorem laneTemp_eq (n : Nat) (s : State) : laneTemp n s = s ∨ ∃ u, onlyRegs (fun r => r = rLn_CAL_TEMP n) s u ∧ onlyParts [.lanes, .regs] s u ∧
    (∀ m, laneKept (s.lane m) (u.lane m)) ∧ (laneTemp n s = u ∨ s.fld (fLn_CAL_STAT_PHASE n) = 1 ∧ laneTemp n s = calAbandon n u) := by
  unfold laneTemp
  split
  · exact .inl rfl
  · next t _ =>
    obtain ⟨v, hv⟩ : ∃ v, v = ((trackCal n s).modLane n ({ · with temp := some t })).setSFld (fLn_CAL_TEMP_T n) t := ⟨_, rfl⟩
    obtain ⟨w, hw⟩ : ∃ w, w = (trackCal n s).modLane n ({ · with temp := some t }) := ⟨_, rfl⟩
    rw [← hw] at hv
    have hwp : onlyParts [.lanes] s w := by rw [hw]; exact (trackCal_onlyParts n s).trans (modLane_onlyParts _ _ _)
    have hwk (m : Nat) : laneKept (s.lane m) (w.lane m) := by
      rw [hw]; exact (trackCal_kept n s m).trans (.modLane ⟨rfl, rfl, rfl⟩ m)
    have hvr : onlyRegs (fun r => r = rLn_CAL_TEMP n) s v := by
      rw [hv]; exact (hwp.onlyRegs_of_regs (by decide) _).trans (setSFld_onlyReg w _ _ _ _)
    have hvp : onlyParts [.lanes, .regs] s v := by
      rw [hv]; exact (hwp.mono (by decide)).andThen (setSFld_onlyParts w _ _)
    have hvk (m : Nat) : laneKept (s.lane m) (v.lane m) := by
      refine (hwk m).trans (.of_lanes ?_ m)
      rw [hv]
      exact (setSFld_onlyParts w _ _) .lanes (by decide)
    rw [← hw, ← hv]
    obtain ⟨f, hf⟩ : ∃ f : Lane → Lane, f = fun l => { l with
      calTmin := min l.calTmin t, calTmax := max l.calTmax t, calTsum := l.calTsum + t, calTn := l.calTn + 1
      active := if l.active.isEmpty then calTable (v.activeExact n) else l.active } := ⟨_, rfl⟩
    have hfk (l : Lane) : laneKept l (f l) := by rw [hf]; exact ⟨rfl, rfl, rfl⟩
    dsimp only
    rw [← hf]
    refine .inr ⟨v.modLane n f, hvr.trans ((modLane_onlyParts v n f).onlyRegs_of_regs (by decide) _),
      (hvp.andThen (modLane_onlyParts v n f)), fun m => (hvk m).trans (.modLane (hfk _) m), ?_⟩
    split_ifs with h
    · exact .inr ⟨h.1, rfl⟩
    · exact .inl rfl

theorem laneTemp_onlyRegs (n : Nat) (s : State) : onlyRegs (tempReg n) s (laneTemp n s) := by
  rcases laneTemp_eq n s with h | ⟨u, hr, -, -, h | ⟨-, h⟩⟩
  · rw [h]; exact .refl _ s
  · rw [h]; exact hr.mono fun _ => .inl
  · rw [h]; exact (hr.mono fun _ => .inl).trans (calAbandon_onlyRegs n u)

theorem laneTemp_onlyParts (n : Nat) (s : State) : onlyParts [.lanes, .rings, .regs, .out] s (laneTemp n s) := by
  rcases laneTemp_eq n s with h | ⟨u, -, hp, -, h | ⟨-, h⟩⟩
  · rw [h]; exact .refl _ s
  · rw [h]; exact hp.mono (by decide)
  · rw [h]; exact (hp.mono (by decide)).andThen (calAbandon_onlyParts n u)

theorem laneTemp_kept (n : Nat) (s : State) (m : Nat) : laneKept (s.lane m) ((laneTemp n s).lane m) := by
  rcases laneTemp_eq n s with h | ⟨u, -, -, hk, h | ⟨-, h⟩⟩
  · rw [h]; exact ⟨rfl, rfl, rfl⟩
  · rw [h]; exact hk m
  · rw [h]; exact (hk m).trans (.of_lanes ((calAbandon_onlyParts n u) .lanes (by decide)) m)

/-- A temperature where no calibration pass runs. -/
theorem laneTemp_idle {n : Nat} {s : State} (h : s.fld (fLn_CAL_STAT_PHASE n) = 0) :
    onlyRegs (fun r => r = rLn_CAL_TEMP n) s (laneTemp n s) ∧ onlyParts [.lanes, .regs] s (laneTemp n s) := by
  rcases laneTemp_eq n s with e | ⟨u, hr, hp, -, e | ⟨hph, -⟩⟩
  · rw [e]; exact ⟨.refl _ s, .refl _ s⟩
  · rw [e]; exact ⟨hr, hp⟩
  · rw [h] at hph; cases hph

theorem loadCal_kept (s : State) (m : Nat) : laneKept (s.lane m) ((loadCal s).lane m) :=
  List.foldl_keeps (fun a : State => laneKept (s.lane m) (a.lane m)) (fun a n _ h => h.trans (laneTemp_kept n a m)) ⟨rfl, rfl, rfl⟩

theorem loadCal_idle {s : State} (h : ∀ n, s.fld (fLn_CAL_STAT_PHASE n) = 0) :
    onlyRegs (fun r => ∃ n, n < 8 ∧ r = rLn_CAL_TEMP n) s (loadCal s) ∧ onlyParts [.lanes, .regs] s (loadCal s) := by
  refine List.foldl_keeps (fun a : State => onlyRegs (fun r => ∃ n, n < 8 ∧ r = rLn_CAL_TEMP n) s a ∧ onlyParts [.lanes, .regs] s a)
    (fun a n hn ha => ?_) ⟨.refl _ s, .refl _ s⟩
  have hph : a.fld (fLn_CAL_STAT_PHASE n) = 0 := (State.fld_congr_reg (ha.1 _ (by simp))).trans (h n)
  exact ⟨ha.1.andThen (laneTemp_idle hph).1 fun r hr => ⟨n, List.mem_range.1 hn, hr⟩, ha.2.trans (laneTemp_idle hph).2⟩

/-! ## The planner, refresh and power after a reset -/

theorem showPlan_onlyRegs (s : State) : onlyRegs (fun r => r = rThm_PLAN_STAT ∨ r = rThm_PLAN_VAL0 ∨ r = rThm_PLAN_VAL1) s (showPlan s) :=
  (((((setFld_onlyReg s _ _ _ _).mono fun _ => .inl).andThen (setFld_onlyReg _ _ _ _ _) fun _ h => .inr (.inl h)).andThen
    (setFld_onlyReg _ _ _ _ _) fun _ h => .inr (.inl h)).andThen (setFld_onlyReg _ _ _ _ _) fun _ h => .inr (.inr h)).andThen
    (setFld_onlyReg _ _ _ _ _) fun _ h => .inr (.inr h)

theorem showPlan_onlyParts (s : State) : onlyParts [.regs] s (showPlan s) :=
  ((((setFld_onlyParts s _ _).trans (setFld_onlyParts _ _ _)).trans (setFld_onlyParts _ _ _)).trans (setFld_onlyParts _ _ _)).trans
    (setFld_onlyParts _ _ _)

theorem modThm_onlyParts (s : State) (f : ThmSt → ThmSt) : onlyParts [.thm] s (s.modThm f) := by
  intro p hp
  cases p <;> simp_all [Part.same, State.modThm]

theorem raiseRefresh_onlyRegs (s : State) : onlyRegs (fun r => ∃ k, k < 16 ∧ r = rBm_STAT k) s (raiseRefresh s) := by
  refine onlyRegs.foldl (fun a k hk => ?_) s
  split
  · exact (setFld_onlyReg a _ _ _ _).mono fun _ h => ⟨k, List.mem_range.1 hk, h⟩
  · exact .refl _ a

theorem raiseRefresh_onlyParts (s : State) : onlyParts [.regs] s (raiseRefresh s) := by
  refine .foldl (fun a k => ?_) _ s
  split
  · exact setFld_onlyParts a _ _
  · exact .refl _ a

theorem dropHint_onlyRegs (s : State) : onlyRegs (fun r => r = rPwr_HINT) s (dropHint s) :=
  (setReg_onlyRegs s _ _).trans ((modPwr_onlyParts _ _).onlyRegs_of_regs (by decide) _)

theorem dropHint_onlyParts (s : State) : onlyParts [.pwr, .regs] s (dropHint s) :=
  ((setReg_onlyParts s _ _).mono (by decide)).andThen (modPwr_onlyParts _ _)

theorem perstPower_onlyRegs (s : State) : onlyRegs (fun r => r = rPwr_HINT ∨ r = rPwr_STATE) s (perstPower s) :=
  (((dropHint_onlyRegs s).mono fun _ => .inl).andThen (setReg_onlyRegs _ _ _) fun _ => .inr).trans
    ((modPwr_onlyParts _ _).onlyRegs_of_regs (by decide) _)

theorem perstPower_onlyParts (s : State) : onlyParts [.pwr, .regs] s (perstPower s) :=
  ((dropHint_onlyParts s).andThen (setReg_onlyParts _ _ _)).andThen (modPwr_onlyParts _ _)

theorem perstPower_state (s : State) : (perstPower s).reg rPwr_STATE = regReset rPwr_STATE ∧ (perstPower s).reg rPwr_HINT = 0#32 := by
  constructor
  · exact State.reg_setReg_self _ _ _
  · exact (State.reg_setReg_ne _ _ (by simp)).trans (State.reg_setReg_self _ _ _)

theorem perstThermal_onlyRegs (s : State) :
    onlyRegs (fun r => r = rThm_PLAN_STAT ∨ r = rThm_PLAN_VAL0 ∨ r = rThm_PLAN_VAL1) s (perstThermal s) :=
  ((modThm_onlyParts s _).onlyRegs_of_regs (by decide) _).trans (showPlan_onlyRegs _)

theorem perstThermal_onlyParts (s : State) : onlyParts [.thm, .regs] s (perstThermal s) :=
  ((modThm_onlyParts s _).mono (by decide)).andThen (showPlan_onlyParts _)

theorem perstThermal_thm (s : State) : (perstThermal s).thm = { s.thm with waiting := none } := rfl

/-! ## Outputs let go (R427, R433) -/

theorem foldl_emit_onlyParts {α : Type} (f : State → α → State) (h : ∀ a x, onlyParts [.out] a (f a x)) (l : List α) (s : State) :
    onlyParts [.out] s (l.foldl f s) := .foldl h l s

theorem dropOuts_onlyParts (s : State) : onlyParts [.out] s (dropOuts s) := by
  unfold dropOuts
  exact (((((foldl_emit_onlyParts _ (fun a _ => emit_onlyParts a _) _ s).trans (foldl_emit_onlyParts _ (fun a _ => emit_onlyParts a _) _ _)).trans
    (foldl_emit_onlyParts _ (fun a _ => emit_onlyParts a _) _ _)).trans
    (foldl_emit_onlyParts _ (fun a _ => (emit_onlyParts a _).trans (emit_onlyParts _ _)) _ _)).trans
    (foldl_emit_onlyParts _ (fun a _ => emit_onlyParts a _) _ _)).trans (emit_onlyParts _ _)

/-- The outputs of `t` hold those of `s`. -/
def outsKept (s t : State) : Prop := ∀ o ∈ s.host.out, o ∈ t.host.out

theorem outsKept.emit (s : State) (o : Out) : outsKept s (s.emit o) := fun _ h => List.mem_cons_of_mem _ h

theorem outsKept.trans {s t u : State} (h : outsKept s t) (h' : outsKept t u) : outsKept s u := fun o ho => h' o (h o ho)

theorem outsKept.of_same {s t : State} (h : t.host.out = s.host.out) : outsKept s t := fun _ ho => by rwa [h]

theorem outsKept.foldl {α : Type} {f : State → α → State} (h : ∀ a x, outsKept a (f a x)) (l : List α) (s : State) :
    outsKept s (l.foldl f s) := by
  induction l generalizing s with
  | nil => exact fun _ ho => ho
  | cons x l ih => exact (h s x).trans (ih _)

/-- What each step of a fold puts out is among the outputs at its end. -/
theorem mem_out_foldl {α : Type} {f : State → α → State} {g : α → Out} (hk : ∀ a x, outsKept a (f a x))
    (hg : ∀ a x, g x ∈ (f a x).host.out) {l : List α} {x : α} (hx : x ∈ l) (s : State) : g x ∈ (l.foldl f s).host.out := by
  induction l generalizing s with
  | nil => cases hx
  | cons y l ih =>
    by_cases h : x ∈ l
    · exact ih h _
    · obtain rfl : x = y := by simpa [h] using hx
      exact outsKept.foldl hk l _ _ (hg s x)

theorem dropOuts_outs (s : State) : outsKept s (dropOuts s) ∧ (∀ j, j < 16 → .biasOff j ∈ (dropOuts s).host.out) ∧
    ∀ p ∈ ["MOD_RST_N", "STROKE_OUT", "PPS_OUT"], .pin p none ∈ (dropOuts s).host.out := by
  obtain ⟨s1, h1⟩ : ∃ s1, s1 = (List.range 16).foldl (fun a n => a.emit (.biasOff n)) s := ⟨_, rfl⟩
  obtain ⟨s2, h2⟩ : ∃ s2, s2 = (List.range 8).foldl (fun a n => a.emit (.pin ("HTR" ++ toString n) none)) s1 := ⟨_, rfl⟩
  obtain ⟨s3, h3⟩ : ∃ s3, s3 = ["MOD_RST_N", "STROKE_OUT", "PPS_OUT", "WAKE_N", "SPI_SCK", "SPI_CS_N", "SPI_IO"].foldl
    (fun a p => a.emit (.pin p none)) s2 := ⟨_, rfl⟩
  have hk1 : outsKept s s1 := by rw [h1]; exact .foldl (fun a _ => .emit a _) _ s
  have hk2 : outsKept s1 s2 := by rw [h2]; exact .foldl (fun a _ => .emit a _) _ s1
  have hk3 : outsKept s2 s3 := by rw [h3]; exact .foldl (fun a _ => .emit a _) _ s2
  have hk4 : outsKept s3 (dropOuts s) := by
    unfold dropOuts
    dsimp only
    rw [← h1, ← h2, ← h3]
    exact ((outsKept.foldl (fun a _ => (outsKept.emit a _).trans (.emit _ _)) _ s3).trans (.foldl (fun a _ => .emit a _) _ _)).trans (.emit _ _)
  refine ⟨((hk1.trans hk2).trans hk3).trans hk4, fun j hj => ?_, fun p hp => hk4 _ ?_⟩
  · refine (hk2.trans (hk3.trans hk4)) _ ?_
    rw [h1]
    exact mem_out_foldl (g := .biasOff) (fun a _ => .emit a _) (fun a _ => List.mem_cons_self) (List.mem_range.2 hj) s
  · rw [h3]
    refine mem_out_foldl (g := fun p => .pin p none) (fun a _ => .emit a _) (fun a _ => List.mem_cons_self) ?_ s2
    simp only [List.mem_cons, List.not_mem_nil, or_false] at hp ⊢
    tauto

/-! ## Held in reset -/

/-- The reset value of CAL_STAT is one for all lanes. -/
theorem regReset_calStat (n : Nat) : regReset (rLn_CAL_STAT n) = regReset (rLn_CAL_STAT 0) := by
  have hf (i : Nat) : fieldReset (rLn_CAL_STAT i) = Fld.rst := by
    funext f
    simp [fieldReset]
  simp only [regReset, hf]
  rw [findReg_inst (by decide) n 0]

/-- The parts that a device held in reset may have lost. -/
abbrev resetParts : List Part := [.regs, .act, .lanes, .gens, .time, .links, .crew, .beam, .loom, .sht, .drf, .ck, .mon, .bias, .pwr, .thm, .sec,
  .split, .bist, .tstAt, .tb, .qps, .rings, .bme, .cfg, .vfs, .held, .rejLog, .loHeld, .hiLatch, .capt, .lastNote, .out]

/-- The registers that a reset keeps, or sets to something of their own. -/
def holdReg (r : RegId) : Prop := aonReg r = true ∨ r = rSec_STAT ∨ r = rSec_TA_STAT ∨ (∃ k, r = rBm_STAT k) ∨ ∃ n, n < 8 ∧ r = rLn_CAL_TEMP n

/-- The registers of the always-on island that a reset sets. -/
def perstReg (r : RegId) : Prop := r = rPwr_HINT ∨ r = rPwr_STATE ∨ r = rThm_PLAN_STAT ∨ r = rThm_PLAN_VAL0 ∨ r = rThm_PLAN_VAL1

/-- What a reset carries over of the state before it. -/
def heldBase (s : State) : State :=
  { up := s.up
    free := s.free
    regs := s.regs.filter (aonReg ·.1)
    host := { out := s.host.out, hiLatch := s.host.hiLatch.filter (aonReg ·.1.2), capt := s.host.capt.filter (aonReg ·.1.2),
              loHeld := s.host.loHeld.filter (aonReg ·.1.2) }
    beam := { epoch := s.beam.epoch + 1 }
    pwr := s.pwr
    thm := (sumCodes s).thm
    bias := { modInt := s.bias.modInt }
    fuses := s.fuses
    anc := s.anc
    t0 := s.t0
    sec := { vault := s.sec.vault, derived := s.sec.derived, scan := s.sec.scan, tap := s.sec.tap }
    dark := s.dark
    pending := s.pending }

theorem holdReset_effect (s : State) : let t := holdReset s
    (∀ r, ¬ holdReg r → t.reg r = regReset r) ∧ (∀ r, aonReg r = true → ¬ perstReg r → t.reg r = s.reg r) ∧
      t.reg rPwr_STATE = regReset rPwr_STATE ∧ t.reg rPwr_HINT = 0#32 ∧
      t.thm = { (sumCodes s).thm with waiting := none } ∧ t.loom = {} ∧ t.sht = {} ∧ t.drf = {} ∧ t.host.qps = [] ∧ t.beam.mem = [] ∧
      t.sec = { vault := s.sec.vault, derived := s.sec.derived, scan := s.sec.scan, tap := s.sec.tap } ∧
      (∀ n, (t.lane n).express = [] ∧ (t.lane n).modeCmd = none ∧ (t.lane n).anchors = []) ∧
      outsKept s t ∧ (∀ j, j < 16 → .biasOff j ∈ t.host.out) ∧
      (∀ p ∈ ["MOD_RST_N", "STROKE_OUT", "PPS_OUT"], .pin p none ∈ t.host.out) ∧ onlyParts resetParts s t := by
  obtain ⟨a, ha⟩ : ∃ a : State, a = heldBase s := ⟨_, rfl⟩
  have har (r : RegId) : a.reg r = if aonReg r then s.reg r else regReset r := by
    rw [ha]
    exact Tab.get_filter (regReset r) s.regs aonReg r
  have hap : onlyParts resetParts s a := by
    rw [ha]
    intro p hp
    cases p <;> first | rfl | exact absurd (by decide) hp
  obtain ⟨b, hb⟩ : ∃ b, b = ((if 2 ≤ s.fld fSec_STAT_TA_STATE then a.setFld fSec_STAT_TA_STATE (s.fld fSec_STAT_TA_STATE) else a).setFld
    fSec_TA_STAT_FAILS (s.fld fSec_TA_STAT_FAILS)).setFld fSec_TA_STAT_BLOCKED (s.fld fSec_TA_STAT_BLOCKED) := ⟨_, rfl⟩
  have hbr : onlyRegs (fun r => r = rSec_STAT ∨ r = rSec_TA_STAT) a b := by
    have h0 : onlyRegs (fun r => r = rSec_STAT ∨ r = rSec_TA_STAT) a
        (if 2 ≤ s.fld fSec_STAT_TA_STATE then a.setFld fSec_STAT_TA_STATE (s.fld fSec_STAT_TA_STATE) else a) := by
      split
      · exact (setFld_onlyReg a _ _ _ _).mono fun _ => .inl
      · exact .refl _ a
    rw [hb]
    exact (h0.andThen (setFld_onlyReg _ _ _ _ _) fun _ => .inr).andThen (setFld_onlyReg _ _ _ _ _) fun _ => .inr
  have hbp : onlyParts [.regs] a b := by
    have h0 : onlyParts [.regs] a (if 2 ≤ s.fld fSec_STAT_TA_STATE then a.setFld fSec_STAT_TA_STATE (s.fld fSec_STAT_TA_STATE) else a) := by
      split
      · exact setFld_onlyParts a _ _
      · exact .refl _ a
    rw [hb]
    exact (h0.trans (setFld_onlyParts _ _ _)).trans (setFld_onlyParts _ _ _)
  obtain ⟨c, hc⟩ : ∃ c, c = perstPower b := ⟨_, rfl⟩
  have hcr : onlyRegs (fun r => r = rPwr_HINT ∨ r = rPwr_STATE) b c := by rw [hc]; exact perstPower_onlyRegs b
  have hcp : onlyParts [.pwr, .regs] b c := by rw [hc]; exact perstPower_onlyParts b
  have hcs : c.reg rPwr_STATE = regReset rPwr_STATE ∧ c.reg rPwr_HINT = 0#32 := by rw [hc]; exact perstPower_state b
  obtain ⟨d, hd⟩ : ∃ d, d = perstThermal c := ⟨_, rfl⟩
  have hdr : onlyRegs (fun r => r = rThm_PLAN_STAT ∨ r = rThm_PLAN_VAL0 ∨ r = rThm_PLAN_VAL1) c d := by rw [hd]; exact perstThermal_onlyRegs c
  have hdp : onlyParts [.thm, .regs] c d := by rw [hd]; exact perstThermal_onlyParts c
  have hdt : d.thm = { c.thm with waiting := none } := by rw [hd]; exact perstThermal_thm c
  obtain ⟨e, he⟩ : ∃ e, e = raiseRefresh d := ⟨_, rfl⟩
  have her : onlyRegs (fun r => ∃ k, k < 16 ∧ r = rBm_STAT k) d e := by rw [he]; exact raiseRefresh_onlyRegs d
  have hep : onlyParts [.regs] d e := by rw [he]; exact raiseRefresh_onlyParts d
  have hbe : onlyParts [.pwr, .thm, .regs] b e := ((hcp.mono (by decide)).andThen hdp).andThen hep
  have hbeReg : onlyRegs (fun r => perstReg r ∨ ∃ k, k < 16 ∧ r = rBm_STAT k) b e := by
    refine ((hcr.mono fun r h => .inl ?_).andThen hdr fun r h => .inl ?_).andThen her fun r h => .inr h
    · exact h.elim .inl fun h => .inr (.inl h)
    · exact .inr (.inr h)
  have heOf (r : RegId) (h : ¬ perstReg r) (h' : ∀ k, r ≠ rBm_STAT k) (h1 : r ≠ rSec_STAT) (h2 : r ≠ rSec_TA_STAT) : e.reg r = a.reg r :=
    (hbeReg r (by rintro (hp | ⟨k, -, hk⟩); exact h hp; exact h' k hk)).trans (hbr r (by rintro (hp | hp); exact h1 hp; exact h2 hp))
  have hphase (n : Nat) : e.fld (fLn_CAL_STAT_PHASE n) = 0 := by
    have h0 : e.reg (rLn_CAL_STAT n) = regReset (rLn_CAL_STAT n) :=
      (heOf _ (by simp [perstReg]) (by simp) (by simp) (by simp)).trans ((har _).trans (if_neg (by simp [aonReg])))
    rw [State.fld, h0, regReset_calStat]
    exact (by decide : bits (regReset (rLn_CAL_STAT 0)) (fLn_CAL_STAT_PHASE 0).hi (fLn_CAL_STAT_PHASE 0).lo = 0)
  obtain ⟨f, hf⟩ : ∃ f, f = loadCal e := ⟨_, rfl⟩
  obtain ⟨hfr, hfp⟩ : onlyRegs (fun r => ∃ n, n < 8 ∧ r = rLn_CAL_TEMP n) e f ∧ onlyParts [.lanes, .regs] e f := by
    rw [hf]; exact loadCal_idle hphase
  have hfk (n : Nat) : laneKept (e.lane n) (f.lane n) := by rw [hf]; exact loadCal_kept e n
  have ht : holdReset s = dropOuts f := by rw [hf, he, hd, hc, hb, ha]; rfl
  obtain ⟨hout, hbias, hpins⟩ := dropOuts_outs f
  have htp := dropOuts_onlyParts f
  rw [ht]
  have hbf : onlyParts [.pwr, .thm, .lanes, .regs] b f := (hbe.mono (by decide)).andThen hfp
  have hof (r : RegId) (h : ∀ n, n < 8 → r ≠ rLn_CAL_TEMP n) : (dropOuts f).reg r = e.reg r :=
    (htp.regsKept (by decide) r not_false).trans (hfr r (by rintro ⟨n, hn, hr⟩; exact h n hn hr))
  have hcsReg (r : RegId) (hp : r.blk = .pwr) : (dropOuts f).reg r = c.reg r :=
    (hof r (by rintro n - rfl; cases hp)).trans ((her r (by rintro ⟨k, -, rfl⟩; cases hp)).trans (hdr r (by rintro (rfl | rfl | rfl) <;> cases hp)))
  have hpart (p : Part) (h1 : p ∉ [Part.pwr, .thm, .lanes, .regs, .out]) : p.same a (dropOuts f) :=
    (((hbp.mono (by decide)).andThen hbf).andThen htp (by decide)) p h1
  refine ⟨fun r hr => ?_, fun r hr hp => ?_, (hcsReg _ rfl).trans hcs.1, (hcsReg _ rfl).trans hcs.2, ?_, ?_, ?_, ?_, ?_, ?_, ?_, fun n => ?_, ?_,
    hbias, hpins, ?_⟩
  · simp only [holdReg, not_or, not_exists, not_and] at hr
    obtain ⟨haon, h1, h2, h3, h4⟩ := hr
    refine (hof r h4).trans ((heOf r ?_ h3 h1 h2).trans ((har r).trans (if_neg haon)))
    rintro (rfl | rfl | rfl | rfl | rfl) <;> simp [aonReg] at haon
  · refine (hof r ?_).trans ((heOf r hp ?_ ?_ ?_).trans ((har r).trans (if_pos hr)))
    · rintro n - rfl; simp [aonReg] at hr
    · rintro k rfl; simp [aonReg] at hr
    · rintro rfl; simp [aonReg] at hr
    · rintro rfl; simp [aonReg] at hr
  · rw [htp .thm (by decide), hfp .thm (by decide), hep .thm (by decide), hdt, hcp .thm (by decide), hbp .thm (by decide), ha]; rfl
  · rw [hpart .loom (by decide), ha]; rfl
  · rw [hpart .sht (by decide), ha]; rfl
  · rw [hpart .drf (by decide), ha]; rfl
  · rw [hpart .qps (by decide), ha]; rfl
  · rw [hpart .beam (by decide), ha]; rfl
  · rw [hpart .sec (by decide), ha]; rfl
  · have hl : (dropOuts f).lane n = f.lane n := State.lane_congr (htp .lanes (by decide)) n
    have he0 : e.lane n = {} := by
      rw [State.lane_congr (s := a) (((hbp.mono (l' := [.pwr, .thm, .regs]) (by decide)).trans hbe) .lanes (by decide)), ha]
      rfl
    obtain ⟨h1, h2, h3⟩ := hfk n
    rw [hl, h1, h2, h3, he0]
    exact ⟨rfl, rfl, rfl⟩
  · refine outsKept.trans (outsKept.of_same ?_) hout
    rw [hbf .out (by decide), hbp .out (by decide), ha]; rfl
  · exact (hap.andThen hbp).andThen ((hbf.mono (l' := [.pwr, .thm, .lanes, .regs, .out]) (by decide)).andThen htp)

end Sys2Proof.Machine

end

section
/-! SUPPORT. Attestation, the lock, test access and the anchor store (R296, R379, R490-R495): what each changes. -/

-- The checked text is one long file: elaborating these in order bounds its threads and memory.
set_option Elab.async false

namespace Sys2Proof.Machine

/-! ## Completions from a state near `s` -/

/-- A completion of any kind from a state whose queue pairs and owners show as those of `s`. -/
theorem postCompl_after {c : Compl} {P : RegId → Prop} {s a : State} (hq : c.hdr.qp < 256) (hb : s.bme (s.ownerOf c.hdr.qp) = true)
    (hr : onlyRegs P s a) (hP : ∀ r, P r → r.blk ≠ .qp ∧ r.blk ≠ .que) (hbme : a.host.bme = s.host.bme) :
    completed c s (postCompl c a) ∧ onlyRegs complReg a (postCompl c a) ∧ onlyParts [.qps, .regs, .out] a (postCompl c a) := by
  have howner : a.ownerOf c.hdr.qp = s.ownerOf c.hdr.qp := State.ownerOf_congr (fun _ => hr _ fun hp => (hP _ hp).2 rfl) _
  have hb' : a.bme (a.ownerOf c.hdr.qp) = true := by rwa [howner, State.bme, hbme]
  refine ⟨completed_congr (postCompl_completed c a hq hb') fun _ => hr _ fun hp => (hP _ hp).1 rfl, ?_⟩
  rw [postCompl_eq_writeCompl hq hb']
  exact ⟨writeCompl_onlyRegs c a, writeCompl_onlyParts c a⟩

/-- A completion from a state that differs from `s` in parts other than the registers and Bus Master Enable. -/
theorem postCompl_from {c : Compl} {s a : State} {l : List Part} (hq : c.hdr.qp < 256) (hb : s.bme (s.ownerOf c.hdr.qp) = true)
    (ha : onlyParts l s a) (hl : Part.regs ∉ l ∧ Part.bme ∉ l := by decide) :
    completed c s (postCompl c a) ∧ onlyRegs complReg s (postCompl c a) ∧ onlyParts (l ++ [.qps, .regs, .out]) s (postCompl c a) := by
  obtain ⟨hc, hr, hp⟩ := postCompl_after (P := fun _ => False) hq hb (ha.regsKept hl.1) (fun _ => False.elim) (ha .bme hl.2)
  exact ⟨hc, (ha.regsKept hl.1).of_none.trans hr, (ha.mono (List.subset_append_left _ _)).andThen hp (List.subset_append_right _ _)⟩

/-- A completion leaves the parts that neither it nor a held completion shows in. -/
theorem postCompl_anyParts (c : Compl) (s : State) : onlyParts [.qps, .held, .regs, .out] s (postCompl c s) := by
  unfold postCompl
  dsimp only
  split_ifs
  · exact .refl _ s
  · exact (writeCompl_onlyParts c s).mono (by decide)
  · intro p hp
    cases p <;> simp_all [Part.same]

/-! ## Reports (R490, R491) -/

/-- A report tells of the registers, the fuses, the anchor store, the shuttles and the time alone. -/
theorem State.reportBody_congr {s t : State} (hr : t.regs = s.regs) (hf : t.fuses = s.fuses) (ha : t.anc = s.anc) (hs : t.sht = s.sht)
    (ht : t.tb = s.tb) (nonce : List Byte) : t.reportBody nonce = s.reportBody nonce := by
  have hfld (f : FldId) : t.fld f = s.fld f := State.fld_congr hr f
  have hon (f : FldId) : t.on f = s.on f := State.on_congr hr f
  have hpair (lo hi : RegId) : t.pair lo hi = s.pair lo hi := State.pair_congr (State.reg_congr hr _) (State.reg_congr hr _)
  have hlock : t.locked = s.locked := by simp only [State.locked, State.secWordsBad, State.disagrees, hon]
  have hanc : t.ancBytes 16 16 = s.ancBytes 16 16 := by simp only [State.ancBytes, State.ancCopies_congr ha hf]
  have hown : t.ownersDigest = s.ownersDigest := by simp only [State.ownersDigest, hf]
  have himg : t.imagesDigest = s.imagesDigest := by simp only [State.imagesDigest, State.shState, hfld, State.shut_congr hs]; rfl
  simp only [State.reportBody, hfld, hpair, hlock, hf, hanc, hown, himg, ht]

theorem State.digestsBad_congr {s t : State} (hr : t.regs = s.regs) : t.digestsBad = s.digestsBad := by
  have h : t.disagrees = s.disagrees := funext fun j => State.on_congr hr _
  rw [State.digestsBad, h, State.digestsBad]

theorem attestTurn_sec (s : State) : (attestTurn s).sec =
    { s.sec with report := s.sec.attests.head?.bind fun e => if s.digestsBad then none else some (s.reportBody e.2) } := rfl

theorem attestTurn_onlyParts (s : State) : onlyParts [.sec] s (attestTurn s) := modSec_onlyParts s _

theorem exec_attest {h : Hdr} {len : Nat} {nonce : List Byte} {s : State} (ht : s.takes (.attest h len nonce) = true) (hlen : 8192 ≤ len)
    (hrun : s.houseRuns = true) (hok : s.digestsBad = false) :
    exec (.attest h len nonce) s = .next { s.begun h.qp with sec := { s.sec with
      attests := s.sec.attests ++ [(h, padTo 32 (nonce.take 32))],
      report := if s.sec.attests = [] then some (s.reportBody (padTo 32 (nonce.take 32))) else s.sec.report } } := by
  obtain ⟨hd, hr, hbeg, -, -⟩ := State.takes_elim rfl ht
  have hchecks : firstFail [(decide (len < 8192), eRange), (!s.houseRuns, eState), (s.digestsBad, eMedia)] = none := by
    simp [firstFail, hrun, hok, hlen]
  have hbegun : onlyParts [.qps] s (s.begun h.qp) := begun_onlyParts s h.qp
  have hbody (f : SecSt → SecSt) (n : List Byte) : ((s.begun h.qp).modSec f).reportBody n = s.reportBody n := by
    have hp := (hbegun.mono (l' := [.qps, .sec]) (by decide)).andThen (modSec_onlyParts (s.begun h.qp) f)
    exact State.reportBody_congr (hp .regs (by decide)) (hp .fuses (by decide)) (hp .anc (by decide)) (hp .sht (by decide)) (hp .tb (by decide)) n
  have hbad (f : SecSt → SecSt) : ((s.begun h.qp).modSec f).digestsBad = false :=
    (State.digestsBad_congr (((hbegun.mono (l' := [.qps, .sec]) (by decide)).andThen (modSec_onlyParts (s.begun h.qp) f)) .regs (by decide))).trans hok
  show execAttest h len nonce s = _
  rw [execAttest, command_begins _ _ _ _ _ hd hbeg ((firstFail_gate (by simp) hr (by simp) _).trans hchecks)]
  have hsec : (s.begun h.qp).sec = s.sec := hbegun .sec (by decide)
  by_cases he : s.sec.attests = []
  · simp only [hsec, he, List.isEmpty_nil, if_true, attestTurn, hbody, hbad]
    show Host.Outcome.next ({ s.begun h.qp with sec := _ } : State) = _
    rw [State.modSec, hsec, he]
    rfl
  · rw [if_neg he, if_neg (by simpa [hsec] using he)]
    rfl

theorem exec_attestReportDone {h : Hdr} {nonce : List Byte} {r : List (Hdr × List Byte)} {s : State}
    (hs : s.sec.attests = (h, nonce) :: r) : exec .attestReportDone s = .next
      (match s.sec.report with
      | none => complete h eMedia [] (attestTurn (s.tick.modSec ({ · with attests := r })))
      | some b => completeRec h eOk (padTo 8192 (b ++ padTo 4627 ((Config.identitySign s.sec.vault b s.free).take 4627)))
          (attestTurn (s.tick.modSec ({ · with attests := r })))) := by
  show execAttestReportDone s = _
  rw [execAttestReportDone, hs] <;> rfl

theorem attestReportDone_claim {h : Hdr} {nonce : List Byte} {r : List (Hdr × List Byte)} {s : State}
    (hs : s.sec.attests = (h, nonce) :: r) (hq : h.qp < 256) (hb : s.bme (s.ownerOf h.qp) = true) :
    ∃ t sig, exec .attestReportDone s = .next t ∧ sig.length = 4627 ∧
      (∀ b, s.sec.report = some b → completed (answerRec h eOk (padTo 8192 (b ++ sig))) s t) ∧
      (s.sec.report = none → completed (answer h eMedia) s t) ∧ t.sec.attests = r ∧ t.sec.vault = s.sec.vault ∧
      t.sec.report = (if s.digestsBad then none else r.head?.map fun e => s.reportBody e.2) ∧
      onlyRegs complReg s t ∧ onlyParts [.sec, .free, .qps, .regs, .out] s t := by
  obtain ⟨u, hu⟩ : ∃ u, u = s.tick.modSec ({ · with attests := r }) := ⟨_, rfl⟩
  have hup : onlyParts [.sec, .free] s u := by
    rw [hu]; exact ((tick_onlyParts s).mono (by decide)).andThen (modSec_onlyParts _ _)
  obtain ⟨v, hv⟩ : ∃ v, v = attestTurn u := ⟨_, rfl⟩
  have hvp : onlyParts [.sec, .free] s v := by rw [hv]; exact hup.andThen (attestTurn_onlyParts u)
  have husec : u.sec = { s.sec with attests := r } := by rw [hu]; rfl
  have hreport : v.sec.report = (if s.digestsBad then none else r.head?.map fun e => s.reportBody e.2) := by
    rw [hv, attestTurn_sec, husec]
    simp only [State.digestsBad_congr (hup .regs (by decide)), State.reportBody_congr (hup .regs (by decide)) (hup .fuses (by decide))
      (hup .anc (by decide)) (hup .sht (by decide)) (hup .tb (by decide))]
    cases r <;> cases s.digestsBad <;> rfl
  have hvsec : v.sec.attests = r ∧ v.sec.vault = s.sec.vault := by rw [hv, attestTurn_sec, husec]; exact ⟨rfl, rfl⟩
  have hpad (l : List Byte) : (padTo 4627 (l.take 4627)).length = 4627 := by
    rw [padTo, List.length_append, List.length_replicate, List.length_take]; omega
  have hexec := exec_attestReportDone hs
  rw [← hu, ← hv] at hexec
  have hpost {c : Compl} : (postCompl c v).sec = v.sec := (postCompl_anyParts c v) .sec (by decide)
  cases hrep : s.sec.report with
  | none =>
    rw [hrep] at hexec
    obtain ⟨hc, hr, hp⟩ := postCompl_from (c := answer h eMedia) hq hb hvp
    refine ⟨_, padTo 4627 ((Config.identitySign s.sec.vault [] s.free).take 4627), hexec, hpad _, fun b hb' => by simp at hb', fun _ => hc, ?_⟩
    exact ⟨(congrArg SecSt.attests hpost).trans hvsec.1, (congrArg SecSt.vault hpost).trans hvsec.2, (congrArg SecSt.report hpost).trans hreport, hr, hp⟩
  | some b =>
    rw [hrep] at hexec
    obtain ⟨hc, hr, hp⟩ := postCompl_from (c := answerRec h eOk (padTo 8192 (b ++ padTo 4627 ((Config.identitySign s.sec.vault b s.free).take 4627))))
      hq hb hvp
    refine ⟨_, padTo 4627 ((Config.identitySign s.sec.vault b s.free).take 4627), hexec, hpad _, fun b' hb' => ?_, fun hn => by simp at hn, ?_⟩
    · obtain rfl : b = b' := by simpa using hb'
      exact hc
    · exact ⟨(congrArg SecSt.attests hpost).trans hvsec.1, (congrArg SecSt.vault hpost).trans hvsec.2, (congrArg SecSt.report hpost).trans hreport, hr, hp⟩

/-! ## The anchor store (R296) -/

/-- The store with the copies of one word changed by what the vote met. -/
def upsetWord (j : Nat) (upset : List (Nat × W32 × Bool)) (s : State) : State :=
  { s with anc := Tab.set s.anc j (upsetCopies upset (s.ancCopies j)) }

theorem upsetWord_onlyParts (j : Nat) (u : List (Nat × W32 × Bool)) (s : State) : onlyParts [.anc] s (upsetWord j u s) := by
  intro p hp
  cases p <;> simp_all [Part.same, upsetWord]

theorem ancCopies_upsetWord_self (j : Nat) (u : List (Nat × W32 × Bool)) (s : State) :
    (upsetWord j u s).ancCopies j = upsetCopies u (s.ancCopies j) := Tab.get_set_self _ _ _ _

theorem ancCopies_upsetWord_ne {j i : Nat} (h : i ≠ j) (u : List (Nat × W32 × Bool)) (s : State) :
    (upsetWord j u s).ancCopies i = s.ancCopies i := Tab.get_set_ne _ _ _ h.symm

theorem ancCopies_upsetWord_nil (j : Nat) (s : State) (hl : (s.ancCopies j).length = 3) (i : Nat) :
    (upsetWord j [] s).ancCopies i = s.ancCopies i := by
  by_cases h : i = j
  · subst h
    obtain ⟨a, b, c, hc⟩ := List.length_eq_three.1 hl
    rw [ancCopies_upsetWord_self, hc]
    rfl
  · exact ancCopies_upsetWord_ne h _ s

theorem exec_anchorVote {j : Nat} (u : List (Nat × W32 × Bool)) (s : State) (hj : j < 64) :
    exec (.anchorVote j u) s = .next (ancVote j (upsetWord j u s)).2 := by
  show execAnchorVote j u s = _
  rw [execAnchorVote, if_pos hj]
  rfl

theorem ancVote_agreed {j : Nat} {v : W32} {s : State} (h : s.ancCopies j = [(v, true), (v, true), (v, true)]) : (ancVote j s).2 = s := by
  simp [ancVote, h, vote]

theorem ancVote_fixed {j : Nat} {v : W32} {s : State} (h : vote (s.ancCopies j) = ⟨some v, true, false⟩) :
    (ancVote j s).2 = raise_ fAnc_EVENT_FIXED ((ancWrite j v s).addSat fAnc_STAT_FIXED) := by
  simp [ancVote, h]

theorem ancVote_none {j : Nat} {s : State} (hj : j < 32 ∨ 40 ≤ j) (h : (vote (s.ancCopies j)).value = none) :
    (ancVote j s).2 = raise_ fAnc_EVENT_DISAGREE (s.setFld (disFld j) 1) := by
  have hw : ¬ (32 ≤ j ∧ j < 40) := by omega
  simp [ancVote, h, hw]

/-- One copy that differs or whose parity fails leaves two that agree. -/
theorem vote_upset_one {v w : W32} {good : Bool} {i : Nat} (hi : i < 3) (h : w ≠ v ∨ good = false) :
    vote (upsetCopies [(i, w, good)] [(v, true), (v, true), (v, true)]) = ⟨some v, true, false⟩ := by
  have hi3 : i = 0 ∨ i = 1 ∨ i = 2 := by omega
  cases good with
  | false => rcases hi3 with rfl | rfl | rfl <;> simp [upsetCopies, vote]
  | true =>
    have hw : w ≠ v := by simpa using h
    rcases hi3 with rfl | rfl | rfl <;> simp [upsetCopies, vote, hw, hw.symm]

theorem anchorVote_fixed_claim {j i : Nat} {v w : W32} {good : Bool} {s : State} (hj : j < 64) (hi : i < 3) (hw : w ≠ v ∨ good = false)
    (hc : s.ancCopies j = [(v, true), (v, true), (v, true)]) :
    ∃ t, exec (.anchorVote j [(i, w, good)]) s = .next t ∧ (∀ m, t.ancCopies m = s.ancCopies m) ∧
      t.fld fAnc_STAT_FIXED = min 65535 (s.fld fAnc_STAT_FIXED + 1) ∧ t.on fAnc_EVENT_FIXED = true ∧
      onlyRegs (fun r => r = rAnc_STAT ∨ r = rAnc_EVENT ∨ noteReg r) s t ∧ onlyParts [.anc, .rings, .regs, .out] s t := by
  obtain ⟨a, ha⟩ : ∃ a, a = upsetWord j [(i, w, good)] s := ⟨_, rfl⟩
  have hap : onlyParts [.anc] s a := by rw [ha]; exact upsetWord_onlyParts _ _ s
  obtain ⟨b, hb⟩ : ∃ b, b = ancWrite j v a := ⟨_, rfl⟩
  have hbp : onlyParts [.anc] s b := by rw [hb]; exact hap.trans (ancWrite_onlyParts _ _ a)
  have hvote : (ancVote j a).2 = raise_ fAnc_EVENT_FIXED (b.addSat fAnc_STAT_FIXED) := by
    rw [hb]
    refine ancVote_fixed ?_
    rw [ha, ancCopies_upsetWord_self, hc]
    exact vote_upset_one hi hw
  have hraise := raise_onlyParts fAnc_EVENT_FIXED (b.addSat fAnc_STAT_FIXED)
  have hraiseR := raise_onlyRegs fAnc_EVENT_FIXED (b.addSat fAnc_STAT_FIXED)
  refine ⟨_, by rw [exec_anchorVote _ s hj, ← ha, hvote], fun m => ?_, ?_, ?_, ?_, ?_⟩
  · rw [State.ancCopies_congr (hraise .anc (by decide)) (hraise .fuses (by decide))]
    rw [State.ancCopies_congr ((addSat_onlyParts b _ _) .anc (by decide)) ((addSat_onlyParts b _ _) .fuses (by decide)), hb]
    by_cases hm : m = j
    · subst hm
      rw [ancCopies_ancWrite_self, hc]
    · rw [ancCopies_ancWrite_ne _ _ hm, ha, ancCopies_upsetWord_ne hm]
  · rw [State.fld_congr_reg (hraiseR _ (by simp [noteReg])), State.fld_addSat_self b _ _ (by decide) (by decide)]
    rw [State.fld_congr (s := s) (hbp .regs (by decide))]
    rfl
  · exact bne_iff_ne.2 (by rw [raise_fld_self _ _ (by decide) ⟨Blk.noConfusion, Blk.noConfusion⟩]; decide)
  · exact ((hbp.onlyRegs_of_regs (by decide) _).trans ((addSat_onlyReg b _ _ _ _).mono fun _ => .inl)).andThen hraiseR fun _ h => .inr h
  · exact ((hbp.mono (by decide)).andThen (addSat_onlyParts b _ _)).andThen hraise

theorem anchorVote_disagree_claim {j : Nat} {a b d : W32} {s : State} (hj : j < 64) (hw : j < 32 ∨ 40 ≤ j)
    (hc : s.ancCopies j = [(a, true), (b, true), (d, true)]) (hab : a ≠ b) (had : a ≠ d) (hbd : b ≠ d) :
    ∃ t, exec (.anchorVote j []) s = .next t ∧ t.disagrees j = true ∧ t.on fAnc_EVENT_DISAGREE = true ∧
      (∀ m, t.ancCopies m = s.ancCopies m) ∧ onlyRegs (fun r => r = rAnc_DIS_LO ∨ r = rAnc_DIS_HI ∨ r = rAnc_EVENT ∨ noteReg r) s t ∧
      onlyParts [.anc, .rings, .regs, .out] s t := by
  obtain ⟨u, hu⟩ : ∃ u, u = upsetWord j [] s := ⟨_, rfl⟩
  have hup : onlyParts [.anc] s u := by rw [hu]; exact upsetWord_onlyParts _ _ s
  have hcop (m : Nat) : u.ancCopies m = s.ancCopies m := by rw [hu]; exact ancCopies_upsetWord_nil j s (by rw [hc]; rfl) m
  have hvote : (ancVote j u).2 = raise_ fAnc_EVENT_DISAGREE (u.setFld (disFld j) 1) := by
    refine ancVote_none hw ?_
    rw [hcop, hc]
    simp [vote, hab, had, hbd]
  have hraise := raise_onlyParts fAnc_EVENT_DISAGREE (u.setFld (disFld j) 1)
  have hraiseR := raise_onlyRegs fAnc_EVENT_DISAGREE (u.setFld (disFld j) 1)
  have hdis : (disFld j).reg = rAnc_DIS_LO ∨ (disFld j).reg = rAnc_DIS_HI := by
    unfold disFld
    split
    · exact .inl rfl
    · exact .inr rfl
  have hset := setFld_onlyParts u (disFld j) 1
  refine ⟨_, by rw [exec_anchorVote _ s hj, ← hu, hvote], ?_, ?_, fun m => ?_, ?_, ?_⟩
  · refine bne_iff_ne.2 ?_
    rw [State.fld_congr_reg (hraiseR _ ?_)]
    · have h32 : j % 32 < 32 := Nat.mod_lt _ (by decide)
      rw [disFld, State.fld_setFld_self_of_lt u _ ⟨le_refl _, h32⟩ (by rw [Nat.add_sub_cancel_left]; decide)]
      decide
    · rcases hdis with h | h <;> rw [h] <;> simp [noteReg]
  · exact bne_iff_ne.2 (by rw [raise_fld_self _ _ (by decide) ⟨Blk.noConfusion, Blk.noConfusion⟩]; decide)
  · rw [State.ancCopies_congr (hraise .anc (by decide)) (hraise .fuses (by decide)),
      State.ancCopies_congr (hset .anc (by decide)) (hset .fuses (by decide)), hcop]
  · refine ((hup.onlyRegs_of_regs (by decide) _).trans ((setFld_onlyRegs u _ _).mono fun r h => ?_)).andThen hraiseR fun _ h => .inr (.inr h)
    rw [h]
    exact hdis.elim .inl fun h => .inr (.inl h)
  · exact ((hup.mono (by decide)).andThen hset).andThen hraise

end Sys2Proof.Machine

end

section
/-! PROOFS. The claim about attestation, the lock, test access and the anchor store (R296, R379, R490-R495). -/

-- The checked text is one long file: elaborating these in order bounds its threads and memory.
set_option Elab.async false

namespace Sys2Proof.Machine

/-! ## Challenges (R493) -/

theorem secChal_given {c : List Byte} {s : State} (hj : s.fuses.jtagDis = false) (hb : s.on fSec_TA_STAT_BLOCKED = false) (hd : s.dark = false) :
    ∃ t, exec (.secChal c) s = .next t ∧ t.sec.tap = .secChal ∧ t.sec.chal = some (padTo 32 (c.take 32), s.up) ∧
      t.on fSec_TA_STAT_CHAL_VALID = true ∧ t.fld fSec_STAT_TA_STATE = 1 ∧ t.host.out = .tap (padTo 32 (c.take 32)) :: s.host.out ∧
      onlyRegs (fun r => r = rSec_STAT ∨ r = rSec_TA_STAT) s t ∧ onlyParts [.sec, .anc, .regs, .out] s t := by
  obtain ⟨a, ha⟩ : ∃ a, a = tapSelect .secChal s := ⟨_, rfl⟩
  have hsec : a.sec = { s.sec with tap := .secChal } := by rw [ha, tapSelect, hj]; rfl
  have hap : onlyParts [.sec] s a := by rw [ha]; exact modSec_onlyParts s _
  obtain ⟨b, hbeq⟩ : ∃ b, b = (a.setFld fSec_TA_STAT_CHAL_VALID 1).setFld fSec_STAT_TA_STATE 1 := ⟨_, rfl⟩
  have hbp : onlyParts [.regs] a b := by rw [hbeq]; exact (setFld_onlyParts a _ _).trans (setFld_onlyParts _ _ _)
  have hbr : onlyRegs (fun r => r = rSec_STAT ∨ r = rSec_TA_STAT) a b := by
    rw [hbeq]; exact ((setFld_onlyReg a _ _ _ _).mono fun _ => .inr).andThen (setFld_onlyReg _ _ _ _ _) fun _ => .inl
  have hval : b.fld fSec_TA_STAT_CHAL_VALID = 1 := by
    rw [hbeq, State.fld_congr_reg (setFld_onlyReg _ _ _ _ _ _ (by simp))]
    exact State.fld_setFld_self_of_lt a _ (by decide) (by decide)
  have hstate : b.fld fSec_STAT_TA_STATE = 1 := by rw [hbeq]; exact State.fld_setFld_self_of_lt _ _ (by decide) (by decide)
  obtain ⟨d, hdeq⟩ : ∃ d, d = showTa (b.modSec ({ · with chal := some (padTo 32 (c.take 32), s.up) })) := ⟨_, rfl⟩
  have hdp : onlyParts [.sec, .anc] b d := by
    rw [hdeq]; exact ((modSec_onlyParts b _).mono (by decide)).andThen (showTa_onlyParts _)
  have hdsec : d.sec = { s.sec with tap := .secChal, chal := some (padTo 32 (c.take 32), s.up) } := by
    rw [hdeq, (showTa_onlyParts _) .sec (by decide)]
    exact congrArg (fun x : SecSt => { x with chal := some (padTo 32 (c.take 32), s.up) }) ((hbp .sec (by decide)).trans hsec)
  have hout : d.host.out = s.host.out := by rw [hdp .out (by decide), hbp .out (by decide), hap .out (by decide)]
  have hexec : exec (.secChal c) s = .next (d.emit (.tap (padTo 32 (c.take 32)))) := by
    show execSecChal c s = _
    rw [execSecChal, ← ha]
    simp only [hsec, hb, hd, ne_eq, not_true_eq_false, Bool.false_eq_true, or_self, if_false]
    rw [hdeq, hbeq]
  refine ⟨_, hexec, ?_, ?_, ?_, ?_, ?_, ?_, ?_⟩
  · exact congrArg SecSt.tap hdsec
  · exact congrArg SecSt.chal hdsec
  · exact bne_iff_ne.2 (by rw [State.fld_emit, State.fld_congr (hdp .regs (by decide)), hval]; decide)
  · rw [State.fld_emit, State.fld_congr (hdp .regs (by decide)), hstate]
  · show _ :: d.host.out = _
    rw [hout]
  · exact (((hap.onlyRegs_of_regs (by decide) _).trans hbr).trans (hdp.onlyRegs_of_regs (by decide) _)).trans (emit_onlyRegs _ _).of_none
  · exact (((hap.mono (l' := [.sec, .anc, .regs, .out]) (by decide)).andThen hbp).andThen hdp).andThen (emit_onlyParts _ _)

theorem secChal_disabled {c : List Byte} {s : State} (hj : s.fuses.jtagDis = true) :
    ∃ t, exec (.secChal c) s = .next t ∧ t.sec = { s.sec with tap := .bypass } ∧ t.host.out = .tap [0] :: s.host.out ∧ onlyParts [.sec, .out] s t := by
  obtain ⟨a, ha⟩ : ∃ a, a = tapSelect .secChal s := ⟨_, rfl⟩
  have hsec : a.sec = { s.sec with tap := .bypass } := by rw [ha, tapSelect, hj]; rfl
  have hap : onlyParts [.sec] s a := by rw [ha]; exact modSec_onlyParts s _
  have hexec : exec (.secChal c) s = .next (a.emit (.tap [0])) := by
    show execSecChal c s = _
    rw [execSecChal, ← ha, if_pos (.inl (by simp [hsec])), State.tapData, hsec]
    rfl
  refine ⟨_, hexec, hsec, ?_, (hap.mono (by decide)).andThen (emit_onlyParts _ _)⟩
  show _ :: a.host.out = _
  rw [hap .out (by decide)]

theorem dropChal_onlyRegs (s : State) : onlyRegs (fun r => r = rSec_STAT ∨ r = rSec_TA_STAT) s (dropChal s) := by
  have h : onlyRegs (fun r => r = rSec_STAT ∨ r = rSec_TA_STAT) s ((s.setFld fSec_TA_STAT_CHAL_VALID 0).setFld fSec_STAT_TA_STATE 0) :=
    ((setFld_onlyReg s _ _ _ _).mono fun _ => .inr).andThen (setFld_onlyReg _ _ _ _ _) fun _ => .inl
  exact h.trans (((modSec_onlyParts _ _).onlyRegs_of_regs (by decide) _).trans ((showTa_onlyParts _).onlyRegs_of_regs (by decide) _))

theorem challengeExpiry_claim {s : State} (hc : s.sec.chal.isSome = true) : ∃ t, exec .challengeExpiry s = .next t ∧ t.sec.chal = none ∧
    t.on fSec_TA_STAT_CHAL_VALID = false ∧ t.fld fSec_STAT_TA_STATE = 0 ∧
    onlyRegs (fun r => r = rSec_STAT ∨ r = rSec_TA_STAT) s t ∧ onlyParts [.sec, .anc, .regs] s t := by
  have hexec : exec .challengeExpiry s = .next (dropChal s) := by
    show execChallengeExpiry s = _
    rw [execChallengeExpiry, if_pos hc]
  refine ⟨_, hexec, by rw [dropChal_sec], ?_, dropChal_taState s, dropChal_onlyRegs s, dropChal_onlyParts s⟩
  simp [State.on, dropChal_fld]

/-! ## Responses that fail (R494) -/

theorem failCounted_onlyRegs (s : State) : onlyRegs (fun r => r = rSec_TA_STAT) s (failCounted s) := by
  unfold failCounted
  dsimp only
  split
  · exact (addSat_onlyReg s _ _ _ _).trans (setFld_onlyReg _ _ _ _ _)
  · exact addSat_onlyReg s _ _ _ _

theorem failCounted_blocked {s : State} (h : 2 ≤ s.fld fSec_TA_STAT_FAILS) : (failCounted s).fld fSec_TA_STAT_BLOCKED = 1 := by
  have hadd := s.fld_addSat_self rSec_TA_STAT (hi := 1) (lo := 0) 1 (by decide) (by decide)
  have h3 : 3 ≤ (s.addSat fSec_TA_STAT_FAILS).fld fSec_TA_STAT_FAILS := by
    refine le_of_le_of_eq ?_ hadd.symm
    have : 2 ≤ s.fld ⟨rSec_TA_STAT, 1, 0⟩ := h
    omega
  simp only [failCounted]
  rw [if_pos h3]
  exact State.fld_setFld_self_of_lt _ _ (by decide) (by decide)

theorem respFailed_onlyRegs (s : State) :
    onlyRegs (fun r => r = rSec_STAT ∨ r = rSec_TA_STAT ∨ r = rSec_EVENT ∨ noteReg r) s (respFailed s) := by
  rw [respFailed_eq]
  refine (((failCounted_onlyRegs s).mono fun _ h => .inr (.inl h)).andThen (dropChal_onlyRegs _) fun _ h => ?_).andThen
    (raise_onlyRegs fSec_EVENT_TA_FAIL _) fun _ h => .inr (.inr h)
  exact h.imp_right .inl

theorem respFailed_blocked {s : State} (h : 2 ≤ s.fld fSec_TA_STAT_FAILS) : (respFailed s).on fSec_TA_STAT_BLOCKED = true := by
  refine bne_iff_ne.2 ?_
  rw [respFailed_eq, fld_raise_ne _ _ (by decide) (by decide) (by decide), dropChal_fld, State.fld_congr_reg (setFld_onlyReg _ _ _ _ _ _ (by simp)),
    State.fld_setFld_other _ _ _ _ _ _ _ (by decide) (by decide) (by decide) (by decide) (by decide), failCounted_blocked h]
  decide

theorem secResp_refused_claim {resp : List Byte} (cl : List Bool) {s : State} (hd : s.dark = false) (hr : s.respRefused resp = true) :
    ∃ t, exec (.secResp resp cl) s = .next t ∧ t.sec.chal = none ∧ t.fld fSec_TA_STAT_FAILS = min 3 (s.fld fSec_TA_STAT_FAILS + 1) ∧
      (2 ≤ s.fld fSec_TA_STAT_FAILS → t.on fSec_TA_STAT_BLOCKED = true) ∧ t.on fSec_EVENT_TA_FAIL = true ∧ t.sec.vault = s.sec.vault ∧
      onlyRegs (fun r => r = rSec_STAT ∨ r = rSec_TA_STAT ∨ r = rSec_EVENT ∨ noteReg r) s t ∧
      onlyParts [.sec, .anc, .rings, .regs, .out] s t := by
  have htap : onlyParts [.sec] s (tapSelect .secResp s) := modSec_onlyParts s _
  have hfails : (tapSelect .secResp s).fld fSec_TA_STAT_FAILS = s.fld fSec_TA_STAT_FAILS := State.fld_congr (htap .regs (by decide)) _
  refine ⟨_, exec_secResp_refused cl hd hr, by rw [respFailed_sec], by rw [respFailed_fails, hfails],
    fun h => respFailed_blocked (by rwa [hfails]), ?_, by rw [respFailed_sec]; rfl, ?_, ?_⟩
  · refine bne_iff_ne.2 ?_
    rw [respFailed_eq, raise_fld_self _ _ (by decide) ⟨Blk.noConfusion, Blk.noConfusion⟩]
    decide
  · exact (htap.onlyRegs_of_regs (by decide) _).trans (respFailed_onlyRegs _)
  · exact (htap.mono (by decide)).andThen (respFailed_onlyParts _)

/-! ## The response that is accepted (R495) -/

theorem zeroTries_isSome (cl : List Bool) : (zeroTries cl).isSome = decide (true ∈ cl.take 3) := by
  rw [zeroTries, Option.isSome_map, List.findIdx?_isSome]
  exact Bool.eq_iff_iff.2 (by simp)

theorem zeroise_effect (cl : List Bool) (s : State) : let t := zeroise cl s
    t.fld fSec_STAT_TA_STATE = (if true ∈ cl.take 3 then 2 else 3) ∧ t.sec.vault = (if true ∈ cl.take 3 then 0 else s.sec.vault) ∧
      t.sec.scan = decide (true ∈ cl.take 3) ∧ onlyRegs (fun r => r = rSec_STAT) s t ∧ onlyParts [.sec, .anc, .regs] s t := by
  have hsome := zeroTries_isSome cl
  obtain ⟨f, hf, hvault, hscan⟩ : ∃ f : SecSt → SecSt, (fun c : SecSt => { c with
      vault := if (zeroTries cl).isSome then 0 else c.vault, derived := if (zeroTries cl).isSome then 0 else c.derived,
      scan := (zeroTries cl).isSome }) = f ∧ (f s.sec).vault = (if true ∈ cl.take 3 then 0 else s.sec.vault) ∧
      (f s.sec).scan = decide (true ∈ cl.take 3) := by
    refine ⟨_, rfl, ?_, hsome⟩
    dsimp only
    rw [hsome]
    simp only [decide_eq_true_eq]
  obtain ⟨a, ha⟩ : ∃ a, a = ancWrite 50 (BitVec.ofNat 32 (16 * (zeroTries cl).getD 3 + if (zeroTries cl).isSome then 3 else 0)) (s.modSec f) :=
    ⟨_, rfl⟩
  have hap : onlyParts [.sec, .anc] s a := by
    rw [ha]; exact ((modSec_onlyParts s f).mono (by decide)).andThen (ancWrite_onlyParts _ _ _)
  have hasec : a.sec = f s.sec := by rw [ha, (ancWrite_onlyParts _ _ _) .sec (by decide)]; rfl
  obtain ⟨v, hv, hveq⟩ : ∃ v, v = (if true ∈ cl.take 3 then 2 else 3) ∧ zeroise cl s = showTa (a.setFld fSec_STAT_TA_STATE v) := by
    refine ⟨_, rfl, ?_⟩
    rw [ha, ← hf]
    unfold zeroise
    dsimp only
    congr 2
    rw [hsome]
    by_cases h : true ∈ cl.take 3 <;> simp [h]
  have hv4 : v < 4 := by rw [hv]; split <;> decide
  have hset := setFld_onlyParts a fSec_STAT_TA_STATE v
  have hta := showTa_onlyParts (a.setFld fSec_STAT_TA_STATE v)
  have hsec : (zeroise cl s).sec = f s.sec := by rw [hveq, hta .sec (by decide), hset .sec (by decide), hasec]
  refine ⟨?_, by rw [hsec, hvault], by rw [hsec, hscan], ?_, ?_⟩
  · rw [hveq, State.fld_congr (hta .regs (by decide)), State.fld_setFld_self_of_lt a _ (by decide) hv4, hv]
  · rw [hveq]
    exact ((hap.onlyRegs_of_regs (by decide) _).trans (setFld_onlyReg a _ _ _ _)).trans (hta.onlyRegs_of_regs (by decide) _)
  · rw [hveq]
    exact ((hap.mono (l' := [.sec, .anc, .regs]) (by decide)).andThen hset).andThen hta

theorem setDark_onlyParts (s : State) (b : Bool) : onlyParts [.dark] s { s with dark := b } := by
  intro p hp
  cases p <;> simp_all [Part.same]

theorem secResp_accepted_claim {resp : List Byte} (cl : List Bool) {s : State} (hd : s.dark = false) (hr : s.respRefused resp = false) :
    ∃ t, exec (.secResp resp cl) s = .next t ∧ t.dark = true ∧ t.fld fSec_STAT_TA_STATE = (if true ∈ cl.take 3 then 2 else 3) ∧
      t.sec.vault = (if true ∈ cl.take 3 then 0 else s.sec.vault) ∧ t.sec.scan = decide (true ∈ cl.take 3) ∧ t.sht = {} ∧ t.loom = {} ∧ t.drf = {} ∧
      t.host.qps = [] ∧ t.beam.mem = [] ∧ (∀ n, (t.lane n).express = [] ∧ (t.lane n).modeCmd = none ∧ (t.lane n).anchors = []) ∧
      (∀ j, j < 16 → .biasOff j ∈ t.host.out) ∧
      (∀ r, aonReg r = false → r.blk ≠ .sec → (∀ k, r ≠ rBm_STAT k) → (∀ n, n < 8 → r ≠ rLn_CAL_TEMP n) → t.reg r = regReset r) ∧
      onlyParts [.regs, .act, .lanes, .gens, .time, .links, .crew, .beam, .loom, .sht, .drf, .ck, .mon, .bias, .pwr, .thm, .sec, .anc, .split,
        .bist, .tstAt, .tb, .dark, .qps, .rings, .bme, .cfg, .vfs, .held, .rejLog, .loHeld, .hiLatch, .capt, .lastNote, .out] s t := by
  obtain ⟨a, ha⟩ : ∃ a, a = dropChal (tapSelect .secResp s) := ⟨_, rfl⟩
  have hap : onlyParts [.sec, .anc, .regs] s a := by
    rw [ha]; exact ((modSec_onlyParts s _).mono (by decide)).andThen (dropChal_onlyParts _)
  have havault : a.sec.vault = s.sec.vault := by rw [ha, dropChal_sec]; rfl
  obtain ⟨hreg, -, -, -, -, hloom, hsht, hdrf, hqps, hmem, hsec, hlane, -, hbias, -, hparts⟩ := holdReset_effect a
  obtain ⟨b, hb⟩ : ∃ b : State, b = holdReset a := ⟨_, rfl⟩
  rw [← hb] at hreg hloom hsht hdrf hqps hmem hsec hlane hbias hparts
  obtain ⟨c, hc⟩ : ∃ c : State, c = { b with dark := true } := ⟨_, rfl⟩
  have hcp : onlyParts [.dark] b c := by rw [hc]; exact setDark_onlyParts b true
  obtain ⟨hta, hvault, hscan, hzr, hzp⟩ := zeroise_effect cl c
  have hexec : exec (.secResp resp cl) s = .next (zeroise cl c) := by
    show execSecResp resp cl s = _
    rw [hc, hb, ha, execSecResp, hd, hr]
    rfl
  have hbt : onlyParts [.dark, .sec, .anc, .regs] b (zeroise cl c) := (hcp.mono (by decide)).andThen hzp
  refine ⟨_, hexec, ?_, hta, ?_, hscan, ?_, ?_, ?_, ?_, ?_, fun n => ?_, fun j hj => ?_, fun r h1 h2 h3 h4 => ?_, ?_⟩
  · rw [hzp .dark (by decide), hc]
  · rw [hvault, hcp .sec (by decide), hsec, havault]
  · rw [hbt .sht (by decide), hsht]
  · rw [hbt .loom (by decide), hloom]
  · rw [hbt .drf (by decide), hdrf]
  · rw [hbt .qps (by decide), hqps]
  · rw [hbt .beam (by decide), hmem]
  · rw [State.lane_congr (hbt .lanes (by decide))]
    exact hlane n
  · rw [hbt .out (by decide)]
    exact hbias j hj
  · refine (hzr r (by rintro rfl; exact h2 rfl)).trans (((hcp.regsKept (by decide)) r not_false).trans (hreg r ?_))
    rintro (h | rfl | rfl | ⟨k, rfl⟩ | ⟨n, hn, rfl⟩)
    · rw [h1] at h; cases h
    · exact h2 rfl
    · exact h2 rfl
    · exact h3 k rfl
    · exact h4 n hn rfl
  · exact ((hap.mono (by decide)).andThen hparts).andThen hbt

/-- Settles O48: the reports, the lock, the challenge and its responses, and the votes of the anchor store, each by its exact next state. -/
theorem theDeviceIsSecured : Obligations.TheDeviceIsSecured := by
  unfold Obligations.TheDeviceIsSecured
  refine ⟨?_, ?_, ?_, ?_, ?_, ?_, ?_, ?_, ?_, ?_⟩
  · exact fun h len nonce s ht hlen hrun hok => exec_attest ht hlen hrun hok
  · exact fun h nonce r s hs hq hb => attestReportDone_claim hs hq hb
  · intro v s hs hv
    have hlock : (ancWrite 48 1 (s.setFld fSec_CTL_LOCK 1)).on fSec_CTL_LOCK = true := by simp [State.on]
    refine ⟨_, exec_secLock hs hv, hlock, State.locked_of_lock hlock, ancCopies_ancWrite_self _ _ _, fun j hj => ?_,
      setFld_onlyRegs s fSec_CTL_LOCK 1, ((setFld_onlyParts s _ _).mono (by decide)).andThen (ancWrite_onlyParts _ _ _)⟩
    exact (ancCopies_ancWrite_ne _ _ hj).trans (State.ancCopies_congr rfl rfl j)
  · exact fun c s hj hb hd => secChal_given hj hb hd
  · exact fun c s hj => secChal_disabled hj
  · exact fun s hc => challengeExpiry_claim hc
  · intro resp cl s hd
    cases hr : s.respRefused resp with
    | true =>
      obtain ⟨t, ht, hclaim⟩ := secResp_refused_claim cl hd hr
      exact ⟨t, ht, fun _ => hclaim, fun h => by simp at h⟩
    | false =>
      obtain ⟨t, ht, hclaim⟩ := secResp_accepted_claim cl hd hr
      exact ⟨t, ht, fun h => by simp at h, fun _ => hclaim⟩
  · intro j v s hj hc
    have hcop : ∀ i, (upsetWord j [] s).ancCopies i = s.ancCopies i := ancCopies_upsetWord_nil j s (by rw [hc]; rfl)
    exact ⟨_, (exec_anchorVote [] s hj).trans (congrArg _ (ancVote_agreed ((hcop j).trans hc))), hcop, upsetWord_onlyParts j [] s⟩
  · exact fun j i v w good s hj hi hw hc => anchorVote_fixed_claim hj hi hw hc
  · exact fun j a b d s hj hw hc hab had hbd => anchorVote_disagree_claim hj hw hc hab had hbd

end Sys2Proof.Machine

end

section
/-! SUPPORT. What a sample of the temperature sensors leaves, and how the band, throttling and the refresh multiplier follow it. -/

-- The checked text is one long file: elaborating these in order bounds its threads and memory.
set_option Elab.async false

namespace Sys2Proof.Machine

/-! ## Wakes -/

theorem startTransition_onlyRegs (p : Nat) (s : State) : onlyRegs (fun r => r = rPwr_STATE) s (startTransition p s) := by
  refine (setFld_onlyRegs s fPwr_STATE_TRANS 1).trans fun r hr => ?_
  unfold startTransition
  generalize s.setFld fPwr_STATE_TRANS 1 = u
  dsimp only
  split_ifs <;> rfl

theorem wake_onlyRegs (i : Nat) (s : State) : onlyRegs (fun r => r = rPwr_STATE) s (wake i s) := by
  unfold wake
  split_ifs
  · exact .refl _ s
  · exact fun _ _ => rfl
  · exact fun _ _ => rfl
  · exact (setFld_onlyReg (noteWake i s) _ _ _ _).trans fun _ _ => rfl
  · exact (startTransition_onlyRegs 0 (noteWake i s)).trans fun _ _ => rfl

/-! ## Readings -/

theorem takeSensor_taken {i : Nat} {x : Int} {s : State} (hx : sensorOk x = true) (he : s.reg rThm_EXCL = 0#32) :
    let t := takeSensor i (some x) s
    t.reg rThm_EXCL = 0#32 ∧ (∀ j, Tab.find t.thm.temps j = if i = j then some x else Tab.find s.thm.temps j) ∧
      t.thm.tripped = s.thm.tripped ∧ onlyRegs (fun r => r = rThm_EXCL) s t ∧ onlyParts [.thm, .regs] s t := by
  obtain ⟨u, hu⟩ : ∃ u, u = s.modThm ({ · with
      temps := Tab.set s.thm.temps i x, missed := Tab.set s.thm.missed i 0
      good := Tab.set s.thm.good i (min 2 (Tab.get 0 s.thm.good i + 1)) }) := ⟨_, rfl⟩
  have hp : onlyParts [.thm] s u := by rw [hu]; exact modThm_onlyParts s _
  have hr : onlyRegs (fun r => r = rThm_EXCL) s u := by rw [hu]; exact fun _ _ => rfl
  have hf (j : Nat) : Tab.find u.thm.temps j = if i = j then some x else Tab.find s.thm.temps j := by
    rw [hu]; exact Tab.find_set _ _ _ _
  have ht : u.thm.tripped = s.thm.tripped := by rw [hu]; rfl
  have hue : u.reg rThm_EXCL = 0#32 := by rw [hu]; exact he
  have h : takeSensor i (some x) s = u ∨
      takeSensor i (some x) s = u.setReg rThm_EXCL (u.reg rThm_EXCL &&& ~~~(BitVec.ofNat 32 (2 ^ i))) := by
    subst hu
    simp only [takeSensor, hx, if_true, Bool.not_true, Bool.false_eq_true, if_false]
    split_ifs
    · exact .inr rfl
    · exact .inl rfl
  obtain h | h := h
  · simp only [h]
    exact ⟨hue, hf, ht, hr, hp.mono (by decide)⟩
  · simp only [h]
    have hz : u.reg rThm_EXCL &&& ~~~(BitVec.ofNat 32 (2 ^ i)) = 0#32 := by rw [hue]; exact BitVec.zero_and
    generalize u.reg rThm_EXCL &&& ~~~(BitVec.ofNat 32 (2 ^ i)) = w at hz ⊢
    exact ⟨(State.reg_setReg_self u _ w).trans hz, hf, ht, hr.trans (setReg_onlyRegs u _ w),
      (hp.mono (by decide)).trans ((setReg_onlyParts u _ w).mono (by decide))⟩

/-- The sensors below `n` read what `l` gives, and none is excluded. -/
def readsOf (l : List (Option Int)) (n : Nat) (s : State) : Prop :=
  s.reg rThm_EXCL = 0#32 ∧ ∀ i, i < n → Tab.find s.thm.temps i = l.getD i none

theorem takeSensors_effect {l : List (Option Int)} {s : State} (he : s.reg rThm_EXCL = 0#32)
    (hl : ∀ i, i < 32 → ∃ x, l.getD i none = some x ∧ sensorOk x = true) {n : Nat} (hn : n ≤ 32) :
    let t := (List.range n).foldl (fun a i => takeSensor i (l.getD i none) a) s
    readsOf l n t ∧ t.thm.tripped = s.thm.tripped ∧ onlyRegs (fun r => r = rThm_EXCL) s t ∧ onlyParts [.thm, .regs] s t := by
  induction n with
  | zero => exact ⟨⟨he, fun i hi => absurd hi (Nat.not_lt_zero i)⟩, rfl, .refl _ s, .refl _ s⟩
  | succ n ih =>
    obtain ⟨⟨hue, huf⟩, hut, hur, hup⟩ := ih (by omega)
    obtain ⟨x, hx, hok⟩ := hl n (by omega)
    simp only [List.range_succ, List.foldl_append, List.foldl_cons, List.foldl_nil]
    rw [hx]
    obtain ⟨hte, htf, htt, htr, htp⟩ := takeSensor_taken (i := n) hok hue
    refine ⟨⟨hte, fun i hi => ?_⟩, htt.trans hut, hur.trans htr, hup.trans htp⟩
    rw [htf i]
    by_cases hin : n = i
    · rw [if_pos hin, ← hin, hx]
    · rw [if_neg hin, huf i (by omega)]

theorem readsOf.congr {l : List (Option Int)} {n : Nat} {s t : State} (h : readsOf l n s) (hr : t.reg rThm_EXCL = s.reg rThm_EXCL)
    (ht : t.thm.temps = s.thm.temps) : readsOf l n t :=
  ⟨hr.trans h.1, fun i hi => by rw [ht]; exact h.2 i hi⟩

/-! ## The hottest sensor -/

theorem hottest_foldl (l : List (Nat × Int)) (e : Nat × Int) :
    let m := l.foldl (fun m x => if m.2 < x.2 then x else m) e
    (m = e ∨ m ∈ l) ∧ e.2 ≤ m.2 ∧ ∀ x ∈ l, x.2 ≤ m.2 := by
  induction l generalizing e with
  | nil => exact ⟨.inl rfl, le_refl _, fun x hx => absurd hx List.not_mem_nil⟩
  | cons y r ih =>
    obtain ⟨hm, he, hr⟩ := ih (if e.2 < y.2 then y else e)
    simp only [List.foldl_cons, List.mem_cons]
    have hey : e.2 ≤ (if e.2 < y.2 then y else e).2 ∧ y.2 ≤ (if e.2 < y.2 then y else e).2 ∧
        ((if e.2 < y.2 then y else e) = e ∨ (if e.2 < y.2 then y else e) = y) := by
      split_ifs with h
      · exact ⟨h.le, le_refl _, .inr rfl⟩
      · exact ⟨le_refl _, not_lt.1 h, .inl rfl⟩
    obtain ⟨h1, h2, h3⟩ := hey
    refine ⟨?_, h1.trans he, fun x hx => ?_⟩
    · obtain hm | hm := hm
      · exact h3.elim (fun h => .inl (hm.trans h)) fun h => .inr (.inl (hm.trans h))
      · exact .inr (.inr hm)
    · obtain rfl | hx := hx
      · exact h2.trans he
      · exact hr x hx

theorem hottest_spec {l : List (Nat × Int)} (hl : l ≠ []) : ∃ e, hottest l = some e ∧ e ∈ l ∧ ∀ x ∈ l, x.2 ≤ e.2 := by
  cases l with
  | nil => exact absurd rfl hl
  | cons e r =>
    obtain ⟨hm, he, hr⟩ := hottest_foldl r e
    refine ⟨_, rfl, ?_, fun x hx => ?_⟩
    · exact List.mem_cons.2 hm
    · obtain rfl | hx := List.mem_cons.1 hx
      · exact he
      · exact hr x hx

theorem mem_readings {l : List (Option Int)} {s : State} (h : readsOf l 32 s) {i : Nat} {x : Int} :
    (i, x) ∈ s.readings (List.range 32) ↔ i < 32 ∧ l.getD i none = some x := by
  obtain ⟨he, hf⟩ := h
  have hx (j : Nat) : s.excluded j = false := by simp [State.excluded, he]
  simp only [State.readings, List.mem_filterMap, hx, Bool.false_eq_true, if_false, List.mem_range, Option.map_eq_some_iff, Prod.mk.injEq]
  constructor
  · rintro ⟨j, hj, v, hv, rfl, rfl⟩
    exact ⟨hj, (hf j hj).symm.trans hv⟩
  · rintro ⟨hi, hv⟩
    exact ⟨i, hi, x, (hf i hi).trans hv, rfl, rfl⟩

theorem maximum_of_reads {l : List (Option Int)} {s : State} (h : readsOf l 32 s)
    (hl : ∀ i, i < 32 → ∃ x, l.getD i none = some x ∧ sensorOk x = true) :
    ∃ i m, hottest (s.readings (List.range 32)) = some (i, m) ∧ s.maximum = some (i, m) ∧ i < 32 ∧ l.getD i none = some m ∧
      ∀ j v, j < 32 → l.getD j none = some v → v ≤ m := by
  obtain ⟨x, hx, -⟩ := hl 0 (by decide)
  obtain ⟨⟨i, m⟩, hm, hmem, hmax⟩ := hottest_spec (List.ne_nil_of_mem ((mem_readings h).2 ⟨by decide, hx⟩))
  obtain ⟨hi, hv⟩ := (mem_readings h).1 hmem
  refine ⟨i, m, hm, ?_, hi, hv, fun j v hj hjv => hmax (j, v) ((mem_readings h).2 ⟨hj, hjv⟩)⟩
  rw [State.maximum, h.1, if_neg (by decide), hm]

theorem trips_iff {s : State} {i : Nat} {m : Int} (he : s.reg rThm_EXCL = 0#32)
    (hm : hottest (s.readings (List.range 32)) = some (i, m)) : s.trips = decide (1760 ≤ m) := by
  rw [State.trips, hm, he]
  rfl

/-! ## Bands -/

/-- The registers that a change of the band may set. -/
def bandReg (r : RegId) : Prop := r = rThm_STAT ∨ r = rThm_EVENT ∨ (∃ k, k < 16 ∧ r = rBm_STAT k) ∨ noteReg r

/-- Throttling as R468 sets it. -/
def throttled (s : State) : State :=
  if s.band == 4 && s.on fThm_CTL_THROT_EN && !s.on fThm_STAT_THROT then raise_ fThm_EVENT_THROTTLE (s.setFld fThm_STAT_THROT 1)
  else s.setFld fThm_STAT_THROT (if s.band == 4 && s.on fThm_CTL_THROT_EN then 1 else 0)

theorem throttled_onlyRegs (s : State) : onlyRegs (fun r => r = rThm_STAT ∨ r = rThm_EVENT ∨ noteReg r) s (throttled s) := by
  unfold throttled
  split
  · exact ((setFld_onlyReg s _ _ _ _).mono fun _ => .inl).andThen (raise_onlyRegs fThm_EVENT_THROTTLE _) fun _ => .inr
  · exact (setFld_onlyReg s _ _ _ _).mono fun _ => .inl

theorem throttled_onlyParts (s : State) : onlyParts [.rings, .regs, .out] s (throttled s) := by
  unfold throttled
  split
  · exact ((setFld_onlyParts s _ _).mono (by decide)).trans ((raise_onlyParts _ _).mono (by decide))
  · exact (setFld_onlyParts s _ _).mono (by decide)

theorem throttled_on (s : State) : (throttled s).fld fThm_STAT_THROT = if s.band == 4 && s.on fThm_CTL_THROT_EN then 1 else 0 := by
  unfold throttled
  split
  case isTrue h =>
    have h' : (s.band == 4 && s.on fThm_CTL_THROT_EN) = true := ((Bool.and_eq_true _ _).mp h).1
    rw [if_pos h']
    exact ((raise_onlyRegs fThm_EVENT_THROTTLE _).fld (r := rThm_STAT) (by simp [noteReg])).trans
      (State.fld_setFld_self_of_lt s _ (by decide) (by decide))
  case isFalse => exact State.fld_setFld_self_of_lt s _ (by decide) (by split_ifs <;> decide)

/-- A field of THM.STAT apart from THROT keeps its value. -/
theorem throttled_stat (s : State) {hi lo : Nat} (h : fieldOk hi lo) (hd : hi < 4 ∨ 4 < lo) :
    (throttled s).fld ⟨rThm_STAT, hi, lo⟩ = s.fld ⟨rThm_STAT, hi, lo⟩ := by
  have hs (v : Nat) : (s.setFld fThm_STAT_THROT v).fld ⟨rThm_STAT, hi, lo⟩ = s.fld ⟨rThm_STAT, hi, lo⟩ :=
    State.fld_setFld_other _ _ _ _ _ _ _ (by decide) (by decide) h.1 h.2 (by omega)
  unfold throttled
  split
  · exact ((raise_onlyRegs fThm_EVENT_THROTTLE _).fld (r := rThm_STAT) (by simp [noteReg])).trans (hs 1)
  · exact hs _

/-- An event that is set stays set. -/
theorem throttled_event {s : State} {k : Nat} (hk : k < 32) (h : s.fld ⟨rThm_EVENT, k, k⟩ = 1) :
    (throttled s).fld ⟨rThm_EVENT, k, k⟩ = 1 := by
  have hs (v : Nat) : (s.setFld fThm_STAT_THROT v).fld ⟨rThm_EVENT, k, k⟩ = 1 :=
    ((setFld_onlyReg s rThm_STAT 4 4 v).fld (by simp)).trans h
  unfold throttled
  split
  · by_cases hk2 : k = 2
    · rw [hk2]
      exact raise_fld_self _ _ (by decide) ⟨Blk.noConfusion, Blk.noConfusion⟩
    · exact (fld_raise_event _ _ (by decide) hk hk2 ⟨Blk.noConfusion, Blk.noConfusion⟩).trans (hs 1)
  · exact hs _

/-- `ALERT_N` as R469 sets it. -/
def alerted (s : State) : State :=
  let al := s.band == 4 || !s.thm.hot.isEmpty
  if al != s.thm.alert then (s.modThm ({ · with alert := al })).emit (.pin "ALERT_N" (if al then some false else none)) else s

theorem followBand_eq (s : State) : followBand s = alerted (throttled s) := by
  have h1 : (throttled s).band = s.band := throttled_stat s (by decide) (by decide)
  have h2 : (throttled s).thm = s.thm := throttled_onlyParts s .thm (by decide)
  unfold alerted
  rw [h1, h2]
  rfl

theorem alerted_onlyParts (s : State) : onlyParts [.thm, .out] s (alerted s) := by
  unfold alerted
  dsimp only
  split
  · exact ((modThm_onlyParts s _).mono (by decide)).trans ((emit_onlyParts _ _).mono (by decide))
  · exact .refl _ s

/-- Only `alert` of the temperature state moves. -/
theorem alerted_thm (s : State) : ∃ b, (alerted s).thm = { s.thm with alert := b } := by
  unfold alerted
  dsimp only
  split
  · exact ⟨_, rfl⟩
  · exact ⟨s.thm.alert, rfl⟩

theorem followBand_onlyRegs (s : State) : onlyRegs (fun r => r = rThm_STAT ∨ r = rThm_EVENT ∨ noteReg r) s (followBand s) := by
  rw [followBand_eq]
  exact (throttled_onlyRegs s).trans fun r _ => State.reg_congr (alerted_onlyParts _ .regs (by decide)) r

theorem followBand_onlyParts (s : State) : onlyParts [.thm, .rings, .regs, .out] s (followBand s) := by
  rw [followBand_eq]
  exact ((throttled_onlyParts s).mono (by decide)).trans ((alerted_onlyParts _).mono (by decide))

theorem followBand_thm (s : State) : ∃ b, (followBand s).thm = { s.thm with alert := b } := by
  obtain ⟨b, hb⟩ := alerted_thm (throttled s)
  have h2 : (throttled s).thm = s.thm := throttled_onlyParts s .thm (by decide)
  exact ⟨b, by rw [followBand_eq, hb, h2]⟩

theorem followBand_fld (s : State) (f : FldId) : (followBand s).fld f = (throttled s).fld f := by
  rw [followBand_eq]
  exact State.fld_congr (alerted_onlyParts _ .regs (by decide)) f

theorem followBand_throt (s : State) : (followBand s).fld fThm_STAT_THROT = if s.band == 4 && s.on fThm_CTL_THROT_EN then 1 else 0 :=
  (followBand_fld s _).trans (throttled_on s)

theorem followBand_band (s : State) : (followBand s).band = s.band :=
  (followBand_fld s _).trans (throttled_stat s (by decide) (by decide))

/-- What a change to band `b` leaves: the band itself, its event, and THROT as R468 sets it; every other field of STAT stays. -/
theorem setBand_effect {b k : Nat} (hb : b < 8) (hk : k < 32) (s : State) : let t := setBand b ⟨rThm_EVENT, k, k⟩ s
    t.band = b ∧ (∃ a, t.thm = { s.thm with low := 0, alert := a }) ∧ t.fld ⟨rThm_EVENT, k, k⟩ = 1 ∧
      t.fld fThm_STAT_THROT = (if b == 4 && s.on fThm_CTL_THROT_EN then 1 else 0) ∧
      (∀ hi lo, fieldOk hi lo → 4 < lo → t.fld ⟨rThm_STAT, hi, lo⟩ = s.fld ⟨rThm_STAT, hi, lo⟩) ∧
      onlyRegs bandReg s t ∧ onlyParts [.thm, .rings, .regs, .out] s t := by
  obtain ⟨a, ha⟩ : ∃ a, a = (s.setFld fThm_STAT_BAND b).modThm ({ · with low := 0 }) := ⟨_, rfl⟩
  have hband : a.fld fThm_STAT_BAND = b := by rw [ha]; exact State.fld_setFld_self_of_lt s _ (by decide) hb
  have haf (hi lo : Nat) (h : fieldOk hi lo) (hd : 4 < lo) : a.fld ⟨rThm_STAT, hi, lo⟩ = s.fld ⟨rThm_STAT, hi, lo⟩ := by
    rw [ha]; exact State.fld_setFld_other s _ _ _ _ _ _ (by decide) (by decide) h.1 h.2 (by omega)
  have har : onlyRegs (fun r => r = rThm_STAT) s a := by rw [ha]; exact setFld_onlyReg s _ _ _ _
  have hap : onlyParts [.thm, .regs] s a := by
    rw [ha]; exact ((setFld_onlyParts s _ _).mono (by decide)).trans ((modThm_onlyParts _ _).mono (by decide))
  have hat : a.thm = { s.thm with low := 0 } := by rw [ha]; rfl
  obtain ⟨c, hc⟩ : ∃ c, c = raise_ ⟨rThm_EVENT, k, k⟩ a := ⟨_, rfl⟩
  have hcr : onlyRegs (fun r => r = rThm_EVENT ∨ noteReg r) a c := by rw [hc]; exact raise_onlyRegs ⟨rThm_EVENT, k, k⟩ a
  have hcp : onlyParts [.rings, .regs, .out] a c := by rw [hc]; exact raise_onlyParts _ a
  have hce : c.fld ⟨rThm_EVENT, k, k⟩ = 1 := by rw [hc]; exact raise_fld_self _ _ hk ⟨Blk.noConfusion, Blk.noConfusion⟩
  obtain ⟨d, hd⟩ : ∃ d, d = raiseRefresh c := ⟨_, rfl⟩
  have hdr : onlyRegs (fun r => ∃ k, k < 16 ∧ r = rBm_STAT k) c d := by rw [hd]; exact raiseRefresh_onlyRegs c
  have hdp : onlyParts [.regs] c d := by rw [hd]; exact raiseRefresh_onlyParts c
  have hstat (hi lo : Nat) : d.fld ⟨rThm_STAT, hi, lo⟩ = a.fld ⟨rThm_STAT, hi, lo⟩ :=
    (hdr.fld (by simp)).trans (hcr.fld (by simp [noteReg]))
  have hdt : d.thm = { s.thm with low := 0 } := ((hdp .thm (by decide)).trans (hcp .thm (by decide))).trans hat
  have hen : d.on fThm_CTL_THROT_EN = s.on fThm_CTL_THROT_EN :=
    ((hdr.on (by simp)).trans (hcr.on (by simp [noteReg]))).trans (har.on (by simp))
  have hdb : d.band = b := (hstat 2 0).trans hband
  have ht : setBand b ⟨rThm_EVENT, k, k⟩ s = followBand d := by rw [hd, hc, ha]; rfl
  obtain ⟨al, hal⟩ := followBand_thm d
  have hfr := followBand_onlyRegs d
  simp only [ht]
  refine ⟨(followBand_band d).trans hdb, ⟨al, by rw [hal, hdt]⟩, ?_, ?_, fun hi lo h hlo => ?_, ?_, ?_⟩
  · rw [followBand_fld]
    exact throttled_event hk ((hdr.fld (by simp)).trans hce)
  · rw [followBand_throt, hdb, hen]
  · rw [followBand_fld, throttled_stat d h (.inr hlo), hstat, haf hi lo h hlo]
  · exact (((har.mono fun _ => .inl).andThen hcr fun r h => h.elim (.inr ∘ .inl) (.inr ∘ .inr ∘ .inr)).andThen hdr
      fun r h => .inr (.inr (.inl h))).andThen hfr fun r h => h.imp_right (Or.imp_right .inr)
  · exact (((hap.mono (by decide)).trans (hcp.mono (by decide))).trans (hdp.mono (by decide))).trans (followBand_onlyParts d)

theorem bandOf_le (m : Int) : bandOf m ≤ 4 := by
  unfold bandOf
  split_ifs <;> decide

/-- What the maximum of a sample leaves: the band rises to the maximum's own at once. -/
theorem judgeMax_effect (m : Int) (s : State) : let t := judgeMax m s
    t.band = max s.band (bandOf m) ∧ (∃ a b, t.thm = { s.thm with low := a, alert := b }) ∧
      (∀ hi lo, fieldOk hi lo → 4 < lo → t.fld ⟨rThm_STAT, hi, lo⟩ = s.fld ⟨rThm_STAT, hi, lo⟩) ∧
      onlyRegs (fun r => bandReg r ∨ r = rPwr_STATE) s t ∧ onlyParts [.thm, .rings, .pwr, .regs, .out] s t := by
  dsimp only
  unfold judgeMax
  split
  case isTrue h =>
    obtain ⟨hb, ⟨a, ha⟩, -, -, hf, hr, hp⟩ := setBand_effect (b := bandOf m) (k := 0) ((bandOf_le m).trans_lt (by decide)) (by decide) s
    have hmax : max s.band (bandOf m) = bandOf m := max_eq_right h.le
    have hwr := wake_onlyRegs 6 (setBand (bandOf m) fThm_EVENT_BAND_UP s)
    have hwp := wake_onlyParts 6 (setBand (bandOf m) fThm_EVENT_BAND_UP s)
    dsimp only at hb ha hf hr hp ⊢
    split
    · refine ⟨((hwr.fld (by simp)).trans hb).trans hmax.symm, ⟨0, a, (hwp .thm (by decide)).trans ha⟩,
        fun hi lo h hl => (hwr.fld (by simp)).trans (hf hi lo h hl), (hr.mono fun _ => .inl).andThen hwr fun _ => .inr,
        (hp.mono (by decide)).trans (hwp.mono (by decide))⟩
    · exact ⟨hb.trans hmax.symm, ⟨0, a, ha⟩, hf, hr.mono fun _ => .inl, hp.mono (by decide)⟩
  case isFalse h =>
    exact ⟨(max_eq_left (not_lt.1 h)).symm, ⟨_, s.thm.alert, rfl⟩, fun _ _ _ _ => rfl, fun _ _ => rfl,
      (modThm_onlyParts s _).mono (by decide)⟩

/-! ## A sample -/

/-- The registers that the lanes' temperatures may set. -/
def lanesTempReg (r : RegId) : Prop := (∃ n, n < 8 ∧ (r = rLn_CAL_TEMP n ∨ r = rLn_CAL_STAT n ∨ r = rLn_CAL_EVENT n)) ∨ noteReg r

theorem lanesTemp_onlyRegs (s : State) : onlyRegs lanesTempReg s (loadCal s) := by
  unfold loadCal
  refine onlyRegs.foldl (fun a n hn => (laneTemp_onlyRegs n a).mono fun r hr => ?_) s
  have hn8 : n < 8 := List.mem_range.1 hn
  obtain h | h | h | h := hr
  · exact .inl ⟨n, hn8, .inl h⟩
  · exact .inl ⟨n, hn8, .inr (.inl h)⟩
  · exact .inl ⟨n, hn8, .inr (.inr h)⟩
  · exact .inr h

theorem lanesTemp_onlyParts (s : State) : onlyParts [.lanes, .rings, .regs, .out] s (loadCal s) :=
  onlyParts.foldl (fun a n => laneTemp_onlyParts n a) _ s

theorem showSensor_onlyRegs (s : State) : onlyRegs (fun r => r = rThm_SENS_VAL) s (showSensor s) :=
  ((setFld_onlyReg s _ _ _ _).trans (setSFld_onlyReg _ _ _ _ _)).trans (resultReady_onlyRegs _ _)

theorem showSensor_onlyParts (s : State) : onlyParts [.regs] s (showSensor s) :=
  ((setFld_onlyParts s _ _).trans (setSFld_onlyParts _ _ _)).trans (resultReady_onlyParts _ _)

theorem judgeHot_onlyRegs (s : State) : onlyRegs (fun r => r = rThm_EVENT ∨ noteReg r) s (judgeHot s) := by
  unfold judgeHot
  dsimp only
  split
  · exact (raise_onlyRegs fThm_EVENT_BEAM_HOT s).trans fun _ _ => rfl
  · exact fun _ _ => rfl

theorem judgeHot_onlyParts (s : State) : onlyParts [.thm, .rings, .regs, .out] s (judgeHot s) := by
  unfold judgeHot
  dsimp only
  split
  · exact ((raise_onlyParts _ s).mono (by decide)).trans ((modThm_onlyParts _ _).mono (by decide))
  · exact (modThm_onlyParts _ _).mono (by decide)

theorem judgeHot_thm (s : State) : ∃ h, (judgeHot s).thm = { s.thm with hot := h } := by
  unfold judgeHot
  dsimp only
  split
  · next hh =>
    have ht : (raise_ fThm_EVENT_BEAM_HOT s).thm = s.thm := raise_onlyParts fThm_EVENT_BEAM_HOT s .thm (by decide)
    exact ⟨_, by simp only [State.modThm, ht]; rfl⟩
  · exact ⟨_, rfl⟩

/-- A sample in which every sensor reads within its limits, with none excluded before (R462-R465, R468). -/
theorem sample_effect {l : List (Option Int)} {s : State} (he : s.reg rThm_EXCL = 0#32)
    (hl : ∀ i, i < 32 → ∃ x, l.getD i none = some x ∧ sensorOk x = true) : let t := sample l s
    ∃ i m, (i < 32 ∧ l.getD i none = some m ∧ ∀ j v, j < 32 → l.getD j none = some v → v ≤ m) ∧
      t.sfld fThm_STAT_MAX = m ∧ t.fld fThm_STAT_SRC = i ∧ t.band = max s.band (bandOf m) ∧ readsOf l 32 t ∧
      t.trips = decide (1760 ≤ m) ∧ t.thm.tripped = s.thm.tripped ∧
      t.fld fThm_STAT_THROT = (if t.band == 4 && s.on fThm_CTL_THROT_EN then 1 else 0) ∧
      onlyParts [.thm, .lanes, .rings, .pwr, .regs, .out] s t := by
  obtain ⟨a, ha⟩ : ∃ a, a = (List.range 32).foldl (fun a i => takeSensor i (l.getD i none) a) s := ⟨_, rfl⟩
  obtain ⟨hread, htrip, har, hap⟩ := takeSensors_effect he hl (n := 32) (le_refl _)
  rw [← ha] at hread htrip har hap
  obtain ⟨b, hb⟩ : ∃ b, b = loadCal a := ⟨_, rfl⟩
  have hbr : onlyRegs lanesTempReg a b := by rw [hb]; exact lanesTemp_onlyRegs a
  have hbp : onlyParts [.lanes, .rings, .regs, .out] a b := by rw [hb]; exact lanesTemp_onlyParts a
  obtain ⟨c, hc⟩ : ∃ c, c = judgeHot (showSensor b) := ⟨_, rfl⟩
  have hcr : onlyRegs (fun r => r = rThm_SENS_VAL ∨ r = rThm_EVENT ∨ noteReg r) b c := by
    rw [hc]; exact ((showSensor_onlyRegs b).mono fun _ => .inl).andThen (judgeHot_onlyRegs _) fun _ => .inr
  have hcp : onlyParts [.thm, .rings, .regs, .out] b c := by
    rw [hc]; exact ((showSensor_onlyParts b).mono (by decide)).trans (judgeHot_onlyParts _)
  have hct : ∃ h, c.thm = { a.thm with hot := h } := by
    obtain ⟨h, hh⟩ := judgeHot_thm (showSensor b)
    exact ⟨h, by rw [hc, hh, showSensor_onlyParts b .thm (by decide), hbp .thm (by decide)]⟩
  obtain ⟨hot, hct⟩ := hct
  have hreg (o : Nat) (ho : o = 0 ∨ o = 0xC ∨ o = 0x30) : c.reg ⟨.thm, 0, o⟩ = a.reg ⟨.thm, 0, o⟩ :=
    (hcr _ (by obtain rfl | rfl | rfl := ho <;> simp [noteReg])).trans (hbr _ (by simp [lanesTempReg, noteReg]))
  have hcread : readsOf l 32 c := hread.congr (hreg 0xC (.inr (.inl rfl))) (by rw [hct])
  obtain ⟨i, m, hhot, hmax, hi, hm, hall⟩ := maximum_of_reads hcread hl
  have hrange : -640 ≤ m ∧ m ≤ 2400 := by
    obtain ⟨x, hx, hok⟩ := hl i hi
    obtain rfl : m = x := Option.some.inj (hm.symm.trans hx)
    exact of_decide_eq_true hok
  obtain ⟨d, hd⟩ : ∃ d, d = (c.setSFld fThm_STAT_MAX m).setFld fThm_STAT_SRC i := ⟨_, rfl⟩
  have hdr : onlyRegs (fun r => r = rThm_STAT) c d := by rw [hd]; exact (setSFld_onlyReg c _ _ _ _).trans (setFld_onlyReg _ _ _ _ _)
  have hdp : onlyParts [.regs] c d := by rw [hd]; exact (setSFld_onlyParts c _ _).trans (setFld_onlyParts _ _ _)
  have hdm : d.sfld fThm_STAT_MAX = m := by
    rw [hd, State.sfld, State.fld_setFld_other _ _ _ _ _ _ _ (by decide) (by decide) (by decide) (by decide) (by decide)]
    exact State.sfld_setSFld_self c _ (by decide) (by norm_num; omega) (by norm_num; omega)
  have hdi : d.fld fThm_STAT_SRC = i := by rw [hd]; exact State.fld_setFld_self_of_lt _ _ (by decide) (by simpa using hi)
  have hdb : d.band = s.band := by
    rw [hd]
    refine (State.fld_setFld_other _ _ _ _ _ _ _ (by decide) (by decide) (by decide) (by decide) (by decide)).trans ?_
    refine (State.fld_setFld_other c _ _ _ _ _ _ (by decide) (by decide) (by decide) (by decide) (by decide)).trans ?_
    exact (State.fld_congr_reg (hreg 0 (.inl rfl))).trans (har.fld (by simp))
  obtain ⟨e, heq⟩ : ∃ e, e = judgeMax m d := ⟨_, rfl⟩
  obtain ⟨heb, ⟨low, al, het⟩, hef, her, hep⟩ := judgeMax_effect m d
  rw [← heq] at heb het hef her hep
  have hdef : sample l s = followBand e := by
    have h0 : ¬ ((a.reg rThm_EXCL &&& ~~~(s.reg rThm_EXCL)) != 0) = true := by
      rw [hread.1]
      exact Bool.not_eq_true _ |>.mpr (by rw [BitVec.zero_and]; rfl)
    unfold sample
    dsimp only
    have hseg : judgeHot (showSensor ((List.range 8).foldl (fun a n => laneTemp n a) a)) = c := by rw [hc, hb]; rfl
    rw [← ha, if_neg h0, hseg, hmax, heq, hd]
  obtain ⟨b', hft⟩ := followBand_thm e
  have hfr := followBand_onlyRegs e
  have hstat (hi lo : Nat) (h : fieldOk hi lo) (hlo : 4 < lo) : (followBand e).fld ⟨rThm_STAT, hi, lo⟩ = d.fld ⟨rThm_STAT, hi, lo⟩ := by
    rw [followBand_fld, throttled_stat e h (.inr hlo), hef hi lo h hlo]
  have hfread : readsOf l 32 (followBand e) := by
    refine hcread.congr ?_ ?_
    · exact ((hfr _ (by simp [noteReg])).trans (her _ (by simp [bandReg, noteReg]))).trans (hdr _ (by simp))
    · rw [hft, het, hdp .thm (by decide)]
  have hsame : (followBand e).readings (List.range 32) = c.readings (List.range 32) := by
    have hx : (followBand e).reg rThm_EXCL = c.reg rThm_EXCL := hfread.1.trans hcread.1.symm
    have ht : (followBand e).thm.temps = c.thm.temps := by rw [hft, het, hdp .thm (by decide)]
    unfold State.readings State.excluded
    rw [hx, ht]
  have hctl : c.on fThm_CTL_THROT_EN = a.on fThm_CTL_THROT_EN := by
    unfold State.on
    rw [State.fld_congr_reg (f := fThm_CTL_THROT_EN) (hreg 0x30 (.inr (.inr rfl)))]
  have hen : e.on fThm_CTL_THROT_EN = s.on fThm_CTL_THROT_EN :=
    ((her.on (by simp [bandReg, noteReg])).trans (hdr.on (by simp))).trans (hctl.trans (har.on (by simp)))
  simp only [hdef]
  refine ⟨i, m, ⟨hi, hm, hall⟩, ?_, (hstat _ _ (by decide) (by decide)).trans hdi, ?_, hfread, ?_, ?_, ?_, ?_⟩
  · rw [State.sfld, hstat _ _ (by decide) (by decide)]
    exact hdm
  · rw [followBand_band, heb, hdb]
  · exact trips_iff hfread.1 (hsame ▸ hhot)
  · rw [hft, het, hdp .thm (by decide), hct]
    exact htrip
  · rw [followBand_throt, followBand_band, hen]
  · exact (((((hap.mono (by decide)).trans (hbp.mono (by decide))).trans (hcp.mono (by decide))).trans (hdp.mono (by decide))).trans
      (hep.mono (by decide))).trans ((followBand_onlyParts e).mono (by decide))

end Sys2Proof.Machine

end

section
/-! PROOFS. The claim about temperatures, bands, trips, ageing and the margin planner (R461-R477). -/

-- The checked text is one long file: elaborating these in order bounds its threads and memory.
set_option Elab.async false

namespace Sys2Proof.Machine

/-! ## Samples -/

theorem sampled_sensors {l : List (Option Int)} (hlen : l.length = 32) (h : ∀ e ∈ l, ∃ v, e = some v ∧ -640 ≤ v ∧ v ≤ 2400) (i : Nat)
    (hi : i < 32) : ∃ x, l.getD i none = some x ∧ sensorOk x = true := by
  have hil : i < l.length := by omega
  obtain ⟨v, hv, h1, h2⟩ := h _ (List.getElem_mem hil)
  exact ⟨v, by rw [List.getD_eq_getElem _ _ hil, hv], decide_eq_true ⟨h1, h2⟩⟩

theorem getD_sample {l : List (Option Int)} {i : Nat} {x : Int} (hlen : l.length = 32) (hi : i < 32) :
    l.getD i none = some x ↔ l[i]? = some (some x) := by
  have hil : i < l.length := by omega
  rw [List.getD_eq_getElem _ _ hil, List.getElem?_eq_getElem hil, Option.some.injEq]

theorem sample_max_le {l : List (Option Int)} {m : Int} (hlen : l.length = 32)
    (h : ∀ j v, j < 32 → l.getD j none = some v → v ≤ m) (v : Int) (hv : some v ∈ l) : v ≤ m := by
  obtain ⟨j, hj, hjv⟩ := List.getElem_of_mem hv
  exact h j v (by omega) (by rw [List.getD_eq_getElem _ _ hj, hjv])

theorem Tab.get_of_find {κ α : Type} [DecidableEq κ] {d v : α} {t : Tab κ α} {k : κ} (h : Tab.find t k = some v) : Tab.get d t k = v := by
  induction t with
  | nil => exact absurd h (by simp [Tab.find])
  | cons e r ih =>
    simp only [Tab.find, Tab.get] at h ⊢
    split at h
    · next hk => rw [if_pos hk, Option.some.inj h]
    · next hk => rw [if_neg hk, ih h]

theorem exec_sensorSample {l : List (Option Int)} {s : State} (hd : s.dark = false) :
    exec (.sensorSample l) s = .next (if (sample l s).trips ∧ !s.thm.tripped then thermalTrip (sample l s) else sample l s) := by
  show execSensorSample l s = _
  unfold execSensorSample
  rw [hd, if_neg Bool.false_ne_true]

theorem sensorSample_claim {l : List (Option Int)} {s : State} (hd : s.dark = false) (he : s.reg rThm_EXCL = 0#32) (hlen : l.length = 32)
    (hall : ∀ e ∈ l, ∃ v, e = some v ∧ -640 ≤ v ∧ v < 1760) :
    ∃ t i m, exec (.sensorSample l) s = .next t ∧ l[i]? = some (some m) ∧ (∀ v, some v ∈ l → v ≤ m) ∧ t.sfld fThm_STAT_MAX = m ∧
      t.fld fThm_STAT_SRC = i ∧ t.band = max s.band (bandOf m) ∧ t.reg rThm_EXCL = 0#32 ∧
      (∀ j v, l[j]? = some (some v) → Tab.get 0 t.thm.temps j = v) ∧ t.on fThm_STAT_THROT = (t.band == 4 && s.on fThm_CTL_THROT_EN) ∧
      onlyParts [.thm, .lanes, .rings, .pwr, .regs, .out] s t := by
  obtain ⟨i, m, ⟨hi, hm, hmax⟩, hsm, hsi, hb, hread, htrips, -, hth, hp⟩ := sample_effect he
    (sampled_sensors hlen fun e h => (hall e h).imp fun v hv => ⟨hv.1, hv.2.1, by omega⟩)
  have hmi : l[i]? = some (some m) := (getD_sample hlen hi).1 hm
  have hm' : m < 1760 := by
    obtain ⟨v, hv, -, hlt⟩ := hall _ (List.mem_of_getElem? hmi)
    exact Option.some.inj hv ▸ hlt
  have hno : ¬ ((sample l s).trips = true ∧ (!s.thm.tripped) = true) := by
    rw [htrips, decide_eq_true_iff]
    exact fun h => absurd h.1 (not_le.2 hm')
  refine ⟨_, i, m, by rw [exec_sensorSample hd, if_neg hno], hmi, sample_max_le hlen hmax, hsm, hsi, hb, hread.1, fun j v hj => ?_, ?_, hp⟩
  · have hj32 : j < 32 := hlen ▸ (List.getElem?_eq_some_iff.1 hj).1
    have hf := (hread.2 j hj32).trans ((getD_sample hlen hj32).2 hj)
    exact Tab.get_of_find hf
  · rw [State.on, hth]
    cases (sample l s).band == 4 && s.on fThm_CTL_THROT_EN <;> rfl

theorem sensorTrip_claim {l : List (Option Int)} {s : State} (hd : s.dark = false) (ht : s.thm.tripped = false) (he : s.reg rThm_EXCL = 0#32)
    (hlen : l.length = 32) (hall : ∀ e ∈ l, ∃ v, e = some v ∧ -640 ≤ v ∧ v ≤ 2400) (hhot : ∃ v, some v ∈ l ∧ 1760 ≤ v) :
    ∃ t, exec (.sensorSample l) s = .next t ∧ t.dark = true ∧ t.thm.tripped = true ∧ .pin "THERMTRIP_N" (some false) ∈ t.host.out ∧
      (∀ j, j < 16 → .biasOff j ∈ t.host.out) ∧ (∀ p ∈ ["MOD_RST_N", "STROKE_OUT", "PPS_OUT"], .pin p none ∈ t.host.out) ∧
      t.sht = {} ∧ t.loom = {} ∧ t.drf = {} ∧ t.host.qps = [] ∧
      (∀ n, (t.lane n).express = [] ∧ (t.lane n).modeCmd = none ∧ (t.lane n).anchors = []) ∧
      (∀ r, aonReg r = false → r ≠ rSec_STAT → r ≠ rSec_TA_STAT → (∀ k, r ≠ rBm_STAT k) → (∀ n, n < 8 → r ≠ rLn_CAL_TEMP n) →
        t.reg r = regReset r) ∧ onlyParts [.regs, .act, .lanes, .gens, .time, .links, .crew, .beam, .loom, .sht, .drf, .ck,
        .mon, .bias, .pwr, .thm, .sec, .split, .bist, .tstAt, .tb, .dark, .qps, .rings, .bme, .cfg, .vfs, .held, .rejLog, .loHeld, .hiLatch, .capt, .lastNote,
        .out] s t := by
  obtain ⟨i, m, ⟨hi, hm, hmax⟩, -, -, -, -, htrips, -, -, hp⟩ := sample_effect he (sampled_sensors hlen hall)
  obtain ⟨v, hv, h110⟩ := hhot
  have hm' : 1760 ≤ m := h110.trans (sample_max_le hlen hmax v hv)
  obtain ⟨a, ha⟩ : ∃ a, a = sample l s := ⟨_, rfl⟩
  have hyes : (sample l s).trips = true ∧ (!s.thm.tripped) = true := ⟨by rw [htrips]; exact decide_eq_true hm', by rw [ht]; rfl⟩
  rw [← ha] at hp
  obtain ⟨b, hb⟩ : ∃ b, b = a.emit (.pin "THERMTRIP_N" (some false)) := ⟨_, rfl⟩
  have hbp : onlyParts [.out] a b := by rw [hb]; exact emit_onlyParts _ _
  obtain ⟨c, hc⟩ : ∃ c, c = holdReset b := ⟨_, rfl⟩
  have heff := holdReset_effect b
  rw [← hc] at heff
  obtain ⟨hreg, -, -, -, -, hloom, hsht, hdrf, hqps, -, -, hlanes, houts, hbias, hpins, hcp⟩ := heff
  refine ⟨{ c.modThm ({ · with tripped := true }) with dark := true }, ?_, rfl, rfl, houts _ ?_, hbias, hpins, hsht, hloom, hdrf, hqps, hlanes,
    fun r h1 h2 h3 h4 h5 => hreg r ?_, ?_⟩
  · rw [exec_sensorSample hd, if_pos hyes, ← ha, hc, hb]
    rfl
  · rw [hb]
    exact List.mem_cons_self
  · rintro (h | h | h | ⟨k, h⟩ | ⟨n, hn, h⟩)
    · simp [h1] at h
    · exact h2 h
    · exact h3 h
    · exact h4 k h
    · exact h5 n hn h
  · refine (((hp.mono (by decide)).trans (hbp.mono (by decide))).trans (hcp.mono (by decide))).trans ?_
    intro p hp'
    cases p <;> simp_all [Part.same, State.modThm]

theorem bandDown_claim {s : State} (h0 : 0 < s.band) (h4 : s.band ≤ 4) (hlow : 10 ≤ s.thm.low) :
    ∃ t, exec .bandDown s = .next t ∧ t.band = s.band - 1 ∧ t.thm.low = 0 ∧
      t.fld fThm_STAT_THROT = 0 ∧ t.on fThm_EVENT_BAND_DOWN = true ∧
      onlyRegs (fun r => r = rThm_STAT ∨ r = rThm_EVENT ∨ (∃ k, k < 16 ∧ r = rBm_STAT k) ∨ noteReg r) s t ∧
      onlyParts [.thm, .rings, .regs, .out] s t := by
  obtain ⟨hb, ⟨al, ht⟩, hev, hth, -, hr, hp⟩ := setBand_effect (b := s.band - 1) (k := 1) (by omega) (by decide) s
  refine ⟨_, ?_, hb, ?_, ?_, bne_iff_ne.2 (by rw [hev]; decide), hr, hp⟩
  · show execBandDown s = _
    rw [execBandDown, if_pos ⟨h0, hlow⟩]
  · rw [ht]
  · have h3 : (s.band - 1 == 4) = false := by
      rw [beq_eq_false_iff_ne]
      omega
    rw [hth, h3]
    rfl

/-! ## Plans -/

theorem eolMask_lt (refs : Option (List Rat)) (pct : Nat) (means : List Rat) : eolMask refs pct means < 256 := by
  cases refs with
  | none => exact Nat.zero_lt_succ _
  | some r =>
    have h (n : Nat) : (List.range n).foldl (fun m n => if r.getD n 0 * (100 + pct) < means.getD n 0 * 100 then m + 2 ^ n else m) 0 < 2 ^ n := by
      induction n with
      | zero => exact Nat.zero_lt_succ _
      | succ n ih =>
        simp only [List.range_succ, List.foldl_append, List.foldl_cons, List.foldl_nil]
        rw [pow_succ]
        split_ifs <;> omega
    exact h 8

theorem planOf_bounds (s : State) (vreq guard relax : Nat) : let p := s.planOf vreq guard relax
    p.vreq = max 720 (min 790 vreq) ∧ p.guard = min 1 guard ∧ p.relax ≤ 6 ∧ p.eol < 256 := by
  refine ⟨rfl, rfl, ?_, ?_⟩
  · simp only [State.planOf]
    split_ifs
    · exact Nat.min_le_left 6 relax
    · exact Nat.zero_le 6
  · simp only [State.planOf]
    split_ifs
    · exact eolMask_lt _ _ _
    · exact Nat.zero_lt_succ _

/-- The plan that PLAN_VAL shows (R477). -/
def State.shownPlan (s : State) : Plan := s.thm.waiting.getD s.thm.active

theorem showPlan_pending (s : State) : (showPlan s).fld fThm_PLAN_STAT_PENDING = if s.thm.waiting.isSome then 1 else 0 := by
  have hp : (if s.thm.waiting.isSome = true then 1 else 0) < 2 := by split_ifs <;> decide
  simp [showPlan, Nat.mod_eq_of_lt hp]

theorem showPlan_fields (s : State) (hv : s.shownPlan.vreq < 65536) (hg : s.shownPlan.guard < 2) (hr : s.shownPlan.relax < 256) :
    (showPlan s).fld fThm_PLAN_VAL0_VREQ = s.shownPlan.vreq ∧ (showPlan s).fld fThm_PLAN_VAL0_REF_GUARD = s.shownPlan.guard ∧
      (showPlan s).fld fThm_PLAN_VAL1_PLAN_RELAX = s.shownPlan.relax ∧
      (showPlan s).fld fThm_PLAN_STAT_SEQ = s.fld fThm_PLAN_STAT_SEQ := by
  unfold State.shownPlan at hv hg hr ⊢
  unfold showPlan
  refine ⟨?_, ?_, ?_, ?_⟩
  · simp [Nat.mod_eq_of_lt hv]
  · simp [Nat.mod_eq_of_lt hg]
  · simp [Nat.mod_eq_of_lt hr]
  · simp

/-- The registers that a plan may set. -/
def planReg (r : RegId) : Prop := r.blk = .thm ∨ (∃ k, k < 16 ∧ r = rBm_STAT k) ∨ noteReg r

theorem State.incWrap_self (s : State) (r : RegId) {hi lo : Nat} (h : fieldOk hi lo) :
    (s.incWrap ⟨r, hi, lo⟩).fld ⟨r, hi, lo⟩ = (s.fld ⟨r, hi, lo⟩ + 1) % 2 ^ (hi + 1 - lo) := by
  exact State.fld_setFld_self s r hi lo _ h.1 h.2

/-- What `y` shows of the plan of `w`, whose PENDING and fields a run of the planner may go on to announce. -/
theorem planShown {w y : State} (hy : y = showPlan w ∨ y = raiseRefresh (showPlan w)) :
    (∀ f : FldId, f.reg.blk = .thm → y.fld f = (showPlan w).fld f) ∧ y.thm = w.thm ∧ onlyRegs planReg w y ∧ onlyParts [.regs] w y := by
  have hr : onlyRegs planReg w (showPlan w) :=
    (showPlan_onlyRegs w).mono fun r h => .inl (by obtain rfl | rfl | rfl := h <;> rfl)
  obtain ⟨x, hx⟩ : ∃ x, x = showPlan w := ⟨_, rfl⟩
  rw [← hx] at hy hr ⊢
  have hp : onlyParts [.regs] w x := by rw [hx]; exact showPlan_onlyParts w
  obtain hy | hy := hy <;> rw [hy]
  · exact ⟨fun _ _ => rfl, hp .thm (by decide), hr, hp⟩
  · have hrr := raiseRefresh_onlyRegs x
    have hrp := raiseRefresh_onlyParts x
    refine ⟨fun f hf => State.fld_congr_reg (hrr _ ?_), (hrp .thm (by decide)).trans (hp .thm (by decide)),
      hr.andThen hrr fun r h => .inr (.inl h), hp.trans hrp⟩
    rintro ⟨k, -, h⟩
    rw [h] at hf
    exact Blk.noConfusion hf

/-- A plan is announced, and a channel newly past its limit is told of (R472, R473). -/
def planTold (p : Plan) (flags was : Nat) (y : State) : State :=
  if Nat.land p.eol (255 - was) ≠ 0 then raise_ fThm_EVENT_EOL (postPlan p flags y) else postPlan p flags y

theorem planTold_effect (p : Plan) (flags was : Nat) (y : State) : let t := planTold p flags was y
    t.thm = y.thm ∧ onlyRegs (fun r => r = rThm_EVENT ∨ noteReg r) y t ∧ onlyParts [.rings, .regs, .out] y t := by
  have hr : onlyRegs noteReg y (postPlan p flags y) := notice_onlyRegs _ _ _ _ y
  have hp : onlyParts [.rings, .regs, .out] y (postPlan p flags y) := notice_onlyParts _ _ _ _ y
  dsimp only
  unfold planTold
  split
  · have hrp := raise_onlyParts fThm_EVENT_EOL (postPlan p flags y)
    exact ⟨(hrp .thm (by decide)).trans (hp .thm (by decide)),
      (hr.mono fun _ => .inr).trans (raise_onlyRegs fThm_EVENT_EOL _), hp.trans hrp⟩
  · exact ⟨hp .thm (by decide), hr.mono fun _ => .inr, hp⟩

theorem planRun_claim (vreq guard relax : Nat) (stressed unstressed : List Nat) {s : State} (hen : s.on fThm_CTL_PLAN_EN = true)
    (hh : s.houseRuns = true) (hready : s.thm.readyAt.isSome = true) (hp3 : s.pState ≠ 3) (hd : s.dark = false) :
    ∃ t p, exec (.planRun vreq guard relax stressed unstressed) s = .next t ∧ p.eol < 256 ∧ t.thm.refs = s.thm.refs ∧
      p.vreq = max 720 (min 790 vreq) ∧ p.guard = min 1 guard ∧ p.relax ≤ 6 ∧
      t.fld fThm_PLAN_STAT_SEQ = (s.fld fThm_PLAN_STAT_SEQ + 1) % 65536 ∧ t.fld fThm_PLAN_VAL0_VREQ = p.vreq ∧
      t.fld fThm_PLAN_VAL0_REF_GUARD = p.guard ∧ t.fld fThm_PLAN_VAL1_PLAN_RELAX = p.relax ∧
      (s.on fThm_CTL_APPROVE = true → t.thm.waiting = some p ∧ t.thm.active = s.thm.active ∧ t.on fThm_PLAN_STAT_PENDING = true) ∧
      (s.on fThm_CTL_APPROVE = false → t.thm.waiting = none ∧ t.thm.active = p ∧ t.on fThm_PLAN_STAT_PENDING = false) ∧
      onlyRegs (fun r => r.blk = .thm ∨ (∃ k, k < 16 ∧ r = rBm_STAT k) ∨ noteReg r) s t ∧ onlyParts [.thm, .rings, .regs, .out] s t := by
  obtain ⟨p, hp⟩ : ∃ p, p = s.planOf vreq guard relax := ⟨_, rfl⟩
  have hb := planOf_bounds s vreq guard relax
  rw [← hp] at hb
  obtain ⟨hbv, hbg, hbr, hbe⟩ := hb
  have hvlt : p.vreq < 65536 := by omega
  have hglt : p.guard < 2 := by omega
  have hrlt : p.relax < 256 := by omega
  obtain ⟨was, hwas⟩ : ∃ was, was = (s.thm.waiting.getD s.thm.active).eol := ⟨_, rfl⟩
  obtain ⟨a, ha⟩ : ∃ a, a = (s.setSFld fThm_AGE_VAL_DELTA (ageDelta (stressed.getD (s.fld fThm_AGE_SEL_PAIR) 0)
    (unstressed.getD (s.fld fThm_AGE_SEL_PAIR) 0))).resultReady rThm_AGE_VAL := ⟨_, rfl⟩
  have har : onlyRegs (fun r => r = rThm_AGE_VAL) s a := by
    rw [ha]; exact (setSFld_onlyReg s _ _ _ _).trans (resultReady_onlyRegs _ _)
  have hap : onlyParts [.regs] s a := by rw [ha]; exact (setSFld_onlyParts s _ _).trans (resultReady_onlyParts _ _)
  obtain ⟨b, hbq⟩ : ∃ b, b = (a.incWrap fThm_PLAN_STAT_SEQ).modThm fun m => { m with
    hours := m.hours + s.fld fThm_CTL_PLAN_H, codeSum := [], codeAt := s.up, planAt := s.up } := ⟨_, rfl⟩
  have hbr' : onlyRegs (fun r => r = rThm_PLAN_STAT) a b := by rw [hbq]; exact incWrap_onlyReg a _ _ _
  have hbp : onlyParts [.thm, .regs] a b := by
    rw [hbq]; exact ((incWrap_onlyParts a _).mono (by decide)).trans ((modThm_onlyParts _ _).mono (by decide))
  have hseq : b.fld fThm_PLAN_STAT_SEQ = (s.fld fThm_PLAN_STAT_SEQ + 1) % 65536 := by
    rw [← har.fld (r := rThm_PLAN_STAT) (hi := 15) (lo := 0) (by simp), hbq]
    exact State.incWrap_self a rThm_PLAN_STAT (by decide)
  have hbt : b.thm = { s.thm with hours := s.thm.hours + s.fld fThm_CTL_PLAN_H, codeSum := [], codeAt := s.up, planAt := s.up } := by
    rw [hbq, ← hap .thm (by decide)]; rfl
  have happ : b.on fThm_CTL_APPROVE = s.on fThm_CTL_APPROVE := (hbr'.on (by simp)).trans (har.on (by simp))
  have hdef : exec (.planRun vreq guard relax stressed unstressed) s = .next (if b.on fThm_CTL_APPROVE = true then
      planTold p 1 was (showPlan (b.modThm ({ · with waiting := some p }))) else planTold p 2 was (applyPlan p b)) := by
    show execPlanRun vreq guard relax stressed unstressed s = _
    have hno : ¬ (!s.on fThm_CTL_PLAN_EN || !s.houseRuns || s.thm.readyAt.isNone || s.pState == 3 || s.dark) = true := by
      simp [hen, hh, hd, hp3, Option.isSome_iff_ne_none.1 hready]
    rw [execPlanRun, if_neg hno]
    dsimp only
    rw [← ha, ← hbq, ← hp, ← hwas]
    by_cases happ : b.on fThm_CTL_APPROVE = true
    · rw [if_pos happ, if_pos happ]
      rfl
    · rw [if_neg happ, if_neg happ]
      rfl
  obtain ⟨w, y, flags, hy, hte, hwr, hwp, hwt, hshown⟩ : ∃ w y flags, (y = showPlan w ∨ y = raiseRefresh (showPlan w)) ∧
      exec (.planRun vreq guard relax stressed unstressed) s = .next (planTold p flags was y) ∧ w.regs = b.regs ∧ onlyParts [.thm] b w ∧
      (w.thm = if s.on fThm_CTL_APPROVE then { b.thm with waiting := some p } else { b.thm with active := p, waiting := none }) ∧
      w.shownPlan = p := by
    rw [hdef, happ]
    split
    · exact ⟨_, _, 1, .inl rfl, rfl, rfl, modThm_onlyParts b _, rfl, rfl⟩
    · exact ⟨_, _, 2, .inr rfl, rfl, rfl, modThm_onlyParts b _, rfl, rfl⟩
  obtain ⟨hyf, hyt, hyr, hyp⟩ := planShown hy
  obtain ⟨htt, htr, htp⟩ := planTold_effect p flags was y
  have hfields := showPlan_fields w (by rw [hshown]; exact hvlt) (by rw [hshown]; exact hglt) (by rw [hshown]; exact hrlt)
  rw [hshown] at hfields
  obtain ⟨hfv, hfg, hfr, hfs⟩ := hfields
  generalize planTold p flags was y = t at hte htt htr htp
  have htf (r : RegId) (hi lo : Nat) (hb : r.blk = .thm) (hne : r ≠ rThm_EVENT) : t.fld ⟨r, hi, lo⟩ = (showPlan w).fld ⟨r, hi, lo⟩ := by
    refine (htr.fld ?_).trans (hyf _ hb)
    rintro (h | h | h)
    · exact hne h
    · exact absurd (hb.symm.trans h) Blk.noConfusion
    · exact absurd (hb.symm.trans h) Blk.noConfusion
  have hthm : t.thm = w.thm := htt.trans hyt
  have hpend : t.fld fThm_PLAN_STAT_PENDING = if w.thm.waiting.isSome then 1 else 0 := (htf rThm_PLAN_STAT _ _ rfl (by simp)).trans (showPlan_pending w)
  have hwreg : onlyRegs planReg s w :=
    ((har.mono fun r h => .inl (by rw [h])).andThen hbr' fun r h => .inl (by rw [h])).trans fun r _ => State.reg_congr hwr r
  refine ⟨t, p, hte, hbe, ?_, hbv, hbg, hbr, ?_, (htf rThm_PLAN_VAL0 _ _ rfl (by simp)).trans hfv,
    (htf rThm_PLAN_VAL0 _ _ rfl (by simp)).trans hfg, (htf rThm_PLAN_VAL1 _ _ rfl (by simp)).trans hfr, fun h => ?_, fun h => ?_, ?_, ?_⟩
  · rw [hthm, hwt, hbt]
    split <;> rfl
  · rw [htf rThm_PLAN_STAT _ _ rfl (by simp), hfs, State.fld_congr hwr, hseq]
  · rw [h, if_pos rfl, hbt] at hwt
    refine ⟨by rw [hthm, hwt], by rw [hthm, hwt], bne_iff_ne.2 ?_⟩
    rw [hpend, hwt]
    exact Nat.one_ne_zero
  · rw [h, if_neg Bool.false_ne_true, hbt] at hwt
    refine ⟨by rw [hthm, hwt], by rw [hthm, hwt], bne_eq_false_iff_eq.2 ?_⟩
    rw [hpend, hwt]
    rfl
  · exact (hwreg.trans hyr).andThen htr fun r h => h.elim (fun h => .inl (by rw [h])) fun h => .inr (.inr h)
  · exact (((((hap.mono (by decide)).trans (hbp.mono (by decide))).trans (hwp.mono (by decide))).trans (hyp.mono (by decide))).trans
      (htp.mono (by decide)))

theorem planAck_claim {p : Plan} {v : W32} {s : State} (hs : s.awake = true) (hw : s.thm.waiting = some p)
    (hv : bits v 15 0 = s.fld fThm_PLAN_STAT_SEQ) :
    ∃ t, exec (.planAck v) s = .next t ∧ t.thm.waiting = none ∧ t.thm.active = (if v.getLsbD 31 then p else s.thm.active) ∧
      t.on fThm_PLAN_STAT_PENDING = false ∧ onlyRegs (fun r => r.blk = .thm ∨ ∃ k, k < 16 ∧ r = rBm_STAT k) s t ∧
      onlyParts [.thm, .regs] s t := by
  obtain ⟨w, y, hy, hte, hwt, hwr, hwp⟩ : ∃ w y, (y = showPlan w ∨ y = raiseRefresh (showPlan w)) ∧ exec (.planAck v) s = .next y ∧
      w.thm = { s.thm with active := if v.getLsbD 31 then p else s.thm.active, waiting := none } ∧ w.regs = s.regs ∧
      onlyParts [.thm] s w := by
    have hdef : exec (.planAck v) s = .next (if v.getLsbD 31 then applyPlan p s else showPlan (s.modThm ({ · with waiting := none }))) := by
      show Host.Outcome.next (aonAccess (writePlanAck v) s) = _
      rw [aonAccess_awake _ hs]
      unfold writePlanAck
      rw [hw]
      dsimp only
      rw [if_neg (not_not.2 hv)]
    rw [hdef]
    by_cases hb : v.getLsbD 31 = true
    · rw [if_pos hb, if_pos hb]
      exact ⟨_, _, .inr rfl, rfl, rfl, rfl, modThm_onlyParts s _⟩
    · rw [if_neg hb, if_neg hb]
      exact ⟨_, _, .inl rfl, rfl, rfl, rfl, modThm_onlyParts s _⟩
  obtain ⟨hyf, hyt, hyr, hyp⟩ := planShown hy
  refine ⟨y, hte, by rw [hyt, hwt], by rw [hyt, hwt], bne_eq_false_iff_eq.2 ?_, ?_, (hwp.mono (by decide)).trans (hyp.mono (by decide))⟩
  · rw [hyf _ rfl, showPlan_pending, hwt]
    rfl
  · have hw0 : onlyRegs (fun r => r.blk = .thm ∨ ∃ k, k < 16 ∧ r = rBm_STAT k) s w := fun r _ => State.reg_congr hwr r
    have hs0 : onlyRegs (fun r => r.blk = .thm ∨ ∃ k, k < 16 ∧ r = rBm_STAT k) w (showPlan w) :=
      (showPlan_onlyRegs w).mono fun r h => .inl (by obtain h | h | h := h <;> rw [h])
    obtain hy | hy := hy <;> rw [hy]
    · exact hw0.trans hs0
    · exact hw0.trans (hs0.andThen (raiseRefresh_onlyRegs _) fun r h => .inr h)

/-! ## References and ageing -/

theorem thmRef_claim {v : W32} {s : State} (hs : s.awake = true) (h1 : 1 ≤ bits v 15 8) (h100 : bits v 15 8 ≤ 100) (h0 : bits v 7 0 ≠ 0)
    (href : v.getLsbD 28 = true) (hw : s.thm.waiting = none) :
    ∃ t, exec (.thmRef v) s = .next t ∧ t.thm.refs = some s.meanCodes ∧ t.reg rThm_CTL = v &&& 0xE000FFFF#32 ∧
      onlyRegs (fun r => r = rThm_CTL ∨ r = rThm_STAT ∨ r = rThm_EVENT ∨ noteReg r) s t ∧ onlyParts [.thm, .rings, .regs, .out] s t := by
  obtain ⟨w, hweq⟩ : ∃ w, w = v &&& 0xE000FFFF#32 := ⟨_, rfl⟩
  obtain ⟨a, ha⟩ : ∃ a, a = (s.setReg rThm_CTL w).modThm ({ · with refs := some s.meanCodes }) := ⟨_, rfl⟩
  have hdef : exec (.thmRef v) s = .next (followBand a) := by
    show Host.Outcome.next (aonAccess (writeThmCtl v) s) = _
    have hok : ¬ (bits v 15 8 = 0 ∨ 100 < bits v 15 8 ∨ bits v 7 0 = 0) := by omega
    have hw' : ((s.setReg rThm_CTL w).modThm ({ · with refs := some s.meanCodes })).thm.waiting = none := hw
    rw [aonAccess_awake _ hs, writeThmCtl, if_neg hok]
    dsimp only
    rw [if_pos href, ← hweq, hw', ha]
  have har : onlyRegs (fun r => r = rThm_CTL) s a := by rw [ha]; exact setReg_onlyRegs s _ _
  have hap : onlyParts [.thm, .regs] s a := by
    rw [ha]; exact ((setReg_onlyParts s _ _).mono (by decide)).trans ((modThm_onlyParts _ _).mono (by decide))
  have hctl : a.reg rThm_CTL = w := by rw [ha]; exact State.reg_setReg_self s _ w
  obtain ⟨al, hal⟩ := followBand_thm a
  have hfr := followBand_onlyRegs a
  refine ⟨_, hdef, ?_, ?_, (har.mono fun _ => .inl).andThen hfr fun _ => .inr, (hap.mono (by decide)).trans ((followBand_onlyParts a).mono (by decide))⟩
  · rw [hal, ha]; rfl
  · rw [← hweq, hfr _ (by simp [noteReg]), hctl]

theorem ageSel_claim {v : W32} {s : State} (hs : s.awake = true) (hv : bits v 4 0 ≤ 23) :
    ∃ t, exec (.ageSel v) s = .next t ∧ t.thm.ageReq = some (bits v 4 0) ∧
      t.fld fThm_AGE_SEL_PAIR = bits v 4 0 ∧ t.on fThm_AGE_VAL_VALID = false ∧ t.on fThm_AGE_VAL_FRESH = false ∧
      onlyRegs (fun r => r = rThm_AGE_SEL ∨ r = rThm_AGE_VAL) s t ∧ onlyParts [.thm, .regs] s t := by
  obtain ⟨a, ha⟩ : ∃ a, a = (s.setFld fThm_AGE_SEL_PAIR (bits v 4 0)).modThm ({ · with ageReq := some (bits v 4 0) }) := ⟨_, rfl⟩
  have hdef : exec (.ageSel v) s = .next (a.resultPending rThm_AGE_VAL) := by
    show Host.Outcome.next (aonAccess (writeAgeSel v) s) = _
    rw [aonAccess_awake _ hs, writeAgeSel, if_neg (by omega), ha]
  have har : onlyRegs (fun r => r = rThm_AGE_SEL) s a := by rw [ha]; exact setFld_onlyReg s _ _ _ _
  have hap : onlyParts [.thm, .regs] s a := by
    rw [ha]; exact ((setFld_onlyParts s _ _).mono (by decide)).trans ((modThm_onlyParts _ _).mono (by decide))
  have hpair : a.fld fThm_AGE_SEL_PAIR = bits v 4 0 := by rw [ha]; exact State.fld_setFld_self_of_lt s _ (by decide) (by omega)
  have hreq : a.thm.ageReq = some (bits v 4 0) := by rw [ha]; rfl
  obtain ⟨h31, h30⟩ := resultPending_valid a rThm_AGE_VAL
  have hpr := resultPending_onlyRegs a rThm_AGE_VAL
  have hpp := resultPending_onlyParts a rThm_AGE_VAL
  refine ⟨_, hdef, by rw [hpp .thm (by decide), hreq], (hpr.fld (by simp)).trans hpair, ?_, ?_, (har.mono fun _ => .inl).andThen hpr fun _ => .inr,
    hap.trans (hpp.mono (by decide))⟩
  · rw [State.on_eq_getLsbD, h31]
  · rw [State.on_eq_getLsbD, h30]

theorem ageMeasureDone_claim (stressed unstressed : Nat) {s : State} (h : s.thm.ageReq.isSome = true) :
    ∃ t, exec (.ageMeasureDone stressed unstressed) s = .next t ∧
      t.thm.ageReq = none ∧ t.on fThm_AGE_VAL_VALID = true ∧ t.on fThm_AGE_VAL_FRESH = true ∧
      t.fld fThm_AGE_VAL_DELTA = unsigned 24 (roundFree (quot ((((unstressed : Int) - stressed) * 1000000 : Int) : Rat) unstressed)) ∧
      onlyRegs (fun r => r = rThm_AGE_VAL) s t ∧ onlyParts [.thm, .regs] s t := by
  obtain ⟨d, hd⟩ : ∃ d, d = ageDelta stressed unstressed := ⟨_, rfl⟩
  obtain ⟨a, ha⟩ : ∃ a, a = (s.modThm ({ · with ageReq := none })).setSFld fThm_AGE_VAL_DELTA d := ⟨_, rfl⟩
  have hdef : exec (.ageMeasureDone stressed unstressed) s = .next (a.resultReady rThm_AGE_VAL) := by
    show execAgeMeasureDone stressed unstressed s = _
    have hno : ¬ s.thm.ageReq.isNone = true := by simp [Option.isSome_iff_ne_none.1 h]
    rw [execAgeMeasureDone, if_neg hno, ha, hd]
  have har : onlyRegs (fun r => r = rThm_AGE_VAL) s a := by rw [ha]; exact (setSFld_onlyReg _ _ _ _ _)
  have hap : onlyParts [.thm, .regs] s a := by
    rw [ha]; exact ((modThm_onlyParts s _).mono (by decide)).trans ((setSFld_onlyParts _ _ _).mono (by decide))
  have hreq : a.thm.ageReq = none := by rw [ha]; rfl
  have hdelta : a.fld fThm_AGE_VAL_DELTA = unsigned 24 d := by
    rw [ha]
    refine State.fld_setFld_self_of_lt _ _ (by decide) ?_
    simp only [unsigned]
    omega
  obtain ⟨h31, h30⟩ := resultReady_valid a rThm_AGE_VAL
  have hpp := resultReady_onlyParts a rThm_AGE_VAL
  refine ⟨_, hdef, by rw [hpp .thm (by decide), hreq], ?_, ?_, ?_, har.trans (resultReady_onlyRegs a _), hap.trans (hpp.mono (by decide))⟩
  · rw [State.on_eq_getLsbD, h31]
  · rw [State.on_eq_getLsbD, h30]
  · refine Eq.trans ?_ (hdelta.trans (by rw [hd]; rfl))
    rw [State.resultReady_eq]
    exact State.fld_setFld_other a _ _ _ _ _ _ (by decide) (by decide) (by decide) (by decide) (by decide)

/-- Settles O46: a sample folds every sensor into the readings and the hottest of them raises the band; a trip is the reset of R470; a
plan is formed within its ranges and shown; the references and the shortfall are what the writes and the measurement give. -/
theorem temperaturesAndPlans : Obligations.TemperaturesAndPlans := by
  unfold Obligations.TemperaturesAndPlans
  refine ⟨fun l s hd he hlen hall => ?_, fun l s hd ht he hlen hall hhot => sensorTrip_claim hd ht he hlen hall hhot,
    fun s h0 h4 hlow => bandDown_claim h0 h4 hlow,
    fun vreq guard relax stressed unstressed s hen hh hr hp3 hd => planRun_claim vreq guard relax stressed unstressed hen hh hr hp3 hd,
    fun p v s hs hw hv => planAck_claim hs hw hv, fun v s hs h1 h100 h0 hr hw => thmRef_claim hs h1 h100 h0 hr hw,
    fun v s hs hv => ageSel_claim hs hv, fun stressed unstressed s h => ageMeasureDone_claim stressed unstressed h⟩
  obtain ⟨t, i, m, ht, him, hmax, hsm, hsi, hb, hx, htemps, hth, hp⟩ := sensorSample_claim hd he hlen hall
  exact ⟨t, i, m, ht, him, hmax, hsm, hsi, hb, hx, htemps, hth, fun p hm => hp p fun h => by
    fin_cases h <;> simp at hm⟩

end Sys2Proof.Machine

end

section
/-! PROOFS. The claim about module management and the monitor's reset (R434-R437). -/

-- The checked text is one long file: elaborating these in order bounds its threads and memory.
set_option Elab.async false

namespace Sys2Proof.Machine

/-! ## Little-endian words -/

theorem leBytes_succ (n v : Nat) : leBytes (n + 1) v = BitVec.ofNat 8 v :: leBytes n (v / 256) := by
  simp [leBytes, List.range_succ_eq_map, pow_succ', Nat.div_div_eq_div_mul]

theorem leBytes_ofLe (l : List Byte) : leBytes l.length (ofLe l) = l := by
  induction l with
  | nil => rfl
  | cons b r ih =>
    have hb : b.toNat < 256 := b.isLt
    have hdiv : (b.toNat + 256 * ofLe r) / 256 = ofLe r := by omega
    rw [List.length_cons, leBytes_succ, ofLe, hdiv, ih]
    congr 1
    apply BitVec.eq_of_toNat_eq
    rw [BitVec.toNat_ofNat]
    omega

theorem leBytes_field {b : List Byte} {o : Nat} (h : o + 4 ≤ b.length) :
    leBytes 4 (BitVec.ofNat 32 (field b o 4)).toNat = (b.drop o).take 4 := by
  have hlen : ((b.drop o).take 4).length = 4 := by
    rw [List.length_take, List.length_drop]
    omega
  have hlt : field b o 4 < 2 ^ 32 := by
    have h1 := ofLe_lt ((b.drop o).take 4)
    rw [hlen] at h1
    exact h1
  rw [BitVec.toNat_ofNat, Nat.mod_eq_of_lt hlt]
  exact (congrArg (leBytes · (field b o 4)) hlen.symm).trans (leBytes_ofLe _)

theorem flatMap_drop_take (b : List Byte) (n : Nat) : (List.range n).flatMap (fun j => (b.drop (4 * j)).take 4) = b.take (4 * n) := by
  induction n with
  | zero => rfl
  | succ n ih =>
    rw [List.range_succ, List.flatMap_append, ih, Nat.mul_succ, List.take_add]
    simp

/-! ## The buffer of a master -/

theorem foldl_setReg_onlyRegs (f : Nat → RegId) (v : Nat → W32) (n : Nat) (s : State) :
    onlyRegs (fun r => ∃ j, r = f j) s ((List.range n).foldl (fun a j => a.setReg (f j) (v j)) s) :=
  onlyRegs.foldl (fun a j _ => (setReg_onlyRegs a (f j) (v j)).mono fun _ h => ⟨j, h⟩) s

theorem foldl_setReg_reg {f : Nat → RegId} (hf : Function.Injective f) (v : Nat → W32) {n k : Nat} (hk : k < n) (s : State) :
    ((List.range n).foldl (fun a j => a.setReg (f j) (v j)) s).reg (f k) = v k := by
  induction n with
  | zero => exact absurd hk (Nat.not_lt_zero k)
  | succ n ih =>
    simp only [List.range_succ, List.foldl_append, List.foldl_cons, List.foldl_nil]
    by_cases h : k = n
    · rw [h, State.reg_setReg_self]
    · rw [setReg_onlyRegs _ _ _ _ (fun h' => h (hf h')), ih (by omega)]

theorem mgtBuf_injective (n : Nat) : Function.Injective (rMgt_BUF n) := by
  intro i j h
  simp only [RegId.mk.injEq, true_and] at h
  omega

/-- Word `j` of a buffer's bytes. -/
def mgtWord (b : List Byte) (j : Nat) : W32 := BitVec.ofNat 32 (field b (4 * j) 4)

theorem putMgt_eq (s : State) (n : Nat) (l : List Byte) :
    s.putMgt n l = (List.range 32).foldl (fun a j => a.setReg (rMgt_BUF n j) (mgtWord (l ++ (s.mgtBytes n).drop l.length) j)) s := by
  unfold State.putMgt mgtWord
  rfl

theorem putMgt_onlyRegs (s : State) (n : Nat) (l : List Byte) : onlyRegs (fun r => ∃ j, r = rMgt_BUF n j) s (s.putMgt n l) := by
  rw [putMgt_eq]
  generalize mgtWord (l ++ (s.mgtBytes n).drop l.length) = v
  exact foldl_setReg_onlyRegs (rMgt_BUF n) v 32 s

theorem putMgt_onlyParts (s : State) (n : Nat) (l : List Byte) : onlyParts [.regs] s (s.putMgt n l) := by
  rw [putMgt_eq]
  generalize mgtWord (l ++ (s.mgtBytes n).drop l.length) = v
  exact onlyParts.foldl (fun a j => setReg_onlyParts a (rMgt_BUF n j) (v j)) _ s

theorem putMgt_word (s : State) (n : Nat) (l : List Byte) {j : Nat} (hj : j < 32) :
    (s.putMgt n l).reg (rMgt_BUF n j) = mgtWord (l ++ (s.mgtBytes n).drop l.length) j := by
  rw [putMgt_eq]
  generalize mgtWord (l ++ (s.mgtBytes n).drop l.length) = v
  exact foldl_setReg_reg (mgtBuf_injective n) v hj s

theorem mgtBytes_length (s : State) (n : Nat) : (s.mgtBytes n).length = 128 := by
  simp [State.mgtBytes, leBytes_length]

theorem mgtBytes_putMgt (s : State) (n : Nat) {l : List Byte} (hl : l.length ≤ 128) :
    (s.putMgt n l).mgtBytes n = l ++ (s.mgtBytes n).drop l.length := by
  have hword (j : Nat) (hj : j < 32) := putMgt_word s n l hj
  obtain ⟨b, hb⟩ : ∃ b, b = l ++ (s.mgtBytes n).drop l.length := ⟨_, rfl⟩
  have hlen : b.length = 128 := by
    rw [hb, List.length_append, List.length_drop, mgtBytes_length]
    omega
  rw [← hb] at hword ⊢
  generalize s.putMgt n l = t at hword ⊢
  calc t.mgtBytes n = (List.range 32).flatMap fun j => (b.drop (4 * j)).take 4 := by
        unfold State.mgtBytes
        refine List.flatMap_congr fun j hj => ?_
        have hj32 : j < 32 := List.mem_range.1 hj
        rw [hword j hj32]
        exact leBytes_field (by omega)
    _ = b.take (4 * 32) := flatMap_drop_take b 32
    _ = b := List.take_of_length_le hlen.le

theorem mgtBytes_congr {s t : State} {n : Nat} (h : ∀ j, t.reg (rMgt_BUF n j) = s.reg (rMgt_BUF n j)) : t.mgtBytes n = s.mgtBytes n := by
  simp only [State.mgtBytes, h]

/-! ## Transactions -/

theorem mgtGo_claim {n : Nat} {v : W32} {s : State} (hs : s.awake = true) (hn : n < 8) (hgo : v.getLsbD 31 = true)
    (hbusy : s.on (fMgt_STAT_BUSY n) = false) (h1 : 1 ≤ bits v 7 0) (h128 : bits v 7 0 ≤ 128) (hkind : bits v 30 29 ≠ 3) (hspeed : bits v 28 27 ≠ 3) :
    ∃ t, exec (.mgtGo n v) s = .next t ∧ t.reg (rMgt_CTL n) = v &&& 0x787FFFFF#32 ∧ t.on (fMgt_STAT_BUSY n) = true ∧
      t.mon = { s.mon with mgt := Tab.set s.mon.mgt n v } ∧
      t.host.out = .mgt n (bits v 28 27) (mgtSteps v (s.mgtBytes n)) :: s.host.out ∧
      onlyRegs (fun r => r = rMgt_CTL n ∨ r = rMgt_STAT n) s t ∧ onlyParts [.mon, .regs, .out] s t := by
  obtain ⟨w, hw⟩ : ∃ w, w = v &&& 0x787FFFFF#32 := ⟨_, rfl⟩
  obtain ⟨a, ha⟩ : ∃ a, a = (s.setReg (rMgt_CTL n) w).setFld (fMgt_STAT_BUSY n) 1 := ⟨_, rfl⟩
  have hdef : exec (.mgtGo n v) s = .next ((a.modMon fun m => { m with mgt := Tab.set m.mgt n v }).emit
      (.mgt n (bits v 28 27) (mgtSteps v (s.mgtBytes n)))) := by
    show Host.Outcome.next (aonAccess (fun s => if n < 8 then writeMgt n v s else s) s) = _
    rw [aonAccess_awake _ hs, if_pos hn]
    have hlim : decide (bits v 7 0 < 1 ∨ 128 < bits v 7 0) = false := decide_eq_false (by omega)
    have hok : firstFail [(v.getLsbD 31 && s.on (fMgt_STAT_BUSY n), eBusy),
        (v.getLsbD 31 && (decide (bits v 7 0 < 1 ∨ 128 < bits v 7 0) || bits v 30 29 == 3 || bits v 28 27 == 3), eRange)] = none := by
      rw [hlim]
      simp [firstFail, hbusy, hkind, hspeed]
    unfold writeMgt
    dsimp only
    rw [hok, if_pos hgo, ha, hw]
  have har : onlyRegs (fun r => r = rMgt_CTL n ∨ r = rMgt_STAT n) s a := by
    rw [ha]; exact ((setReg_onlyRegs s _ _).mono fun _ => .inl).andThen (setFld_onlyReg _ _ _ _ _) fun _ => .inr
  have hap : onlyParts [.regs] s a := by rw [ha]; exact (setReg_onlyParts s _ _).trans (setFld_onlyParts _ _ _)
  refine ⟨_, hdef, ?_, ?_, ?_, ?_, har.trans fun _ _ => rfl, ?_⟩
  · show a.reg (rMgt_CTL n) = _
    rw [ha, setFld_onlyReg _ (rMgt_STAT n) _ _ _ _ (by simp), State.reg_setReg_self, hw]
  · show a.on (fMgt_STAT_BUSY n) = true
    rw [ha]
    exact bne_iff_ne.2 (by rw [State.fld_setFld_self_of_lt _ _ (by decide) (by decide)]; decide)
  · rw [← hap .mon (by decide)]; rfl
  · rw [← hap .out (by decide)]; rfl
  · exact ((hap.mono (by decide)).trans ((modMon_onlyParts a _).mono (by decide))).trans ((emit_onlyParts _ _).mono (by decide))

/-! ## What an event leaves of the outputs -/

theorem sendMsix_outsKept (fn vec : Nat) (s : State) : outsKept s (sendMsix fn vec s) := by
  unfold sendMsix
  split
  · exact outsKept.of_same rfl
  · exact outsKept.emit s _

theorem nqRecorded_outsKept (f : Nat) (s : State) : outsKept s (nqRecorded f s) := by
  unfold nqRecorded
  dsimp only
  split
  · exact fun o ho => sendMsix_outsKept _ _ _ o ho
  · exact outsKept.of_same rfl

theorem notice_outsKept (f kind : Nat) (b2 b8 : List Byte) (s : State) : outsKept s (notice f kind b2 b8 s) := by
  unfold notice
  dsimp only
  split
  · exact outsKept.of_same rfl
  · refine fun o ho => nqRecorded_outsKept _ _ o ?_
    split_ifs <;> exact List.mem_cons_of_mem _ ho

theorem raise_outsKept (e : FldId) (s : State) : outsKept s (raise_ e s) := by
  unfold raise_ eventNotice
  split
  · exact fun o ho => notice_outsKept _ _ _ _ _ o ho
  · exact outsKept.of_same rfl

/-! ## The end of a transaction -/

theorem testBit_lor_pow (m n : Nat) : (Nat.lor m (2 ^ n)).testBit n = true := by
  rw [Nat.lor_eq, Nat.testBit_or, Nat.testBit_two_pow_self, Bool.or_true]

/-- What the end of a transaction leaves (R435). -/
theorem mgtEnd_effect {n st d : Nat} (hn : n < 8) (hst : st < 256) (hd : d < 256) (s : State) : let t := mgtEnd n st d s
    t.on (fMgt_STAT_BUSY n) = false ∧ t.fld (fMgt_STAT_STATUS n) = st ∧ t.fld (fMgt_STAT_DONE_COUNT n) = d ∧
      (t.reg rMon_MGT_CTL).getLsbD n = true ∧ t.on fMon_EVENT_MGT_DONE = true ∧ outsKept s t ∧
      onlyRegs (fun r => r = rMgt_STAT n ∨ r = rMon_MGT_CTL ∨ r = rMon_EVENT ∨ noteReg r) s t ∧
      onlyParts [.mon, .rings, .regs, .out] s t := by
  obtain ⟨a, ha⟩ : ∃ a, a = ((s.setFld (fMgt_STAT_BUSY n) 0).setFld (fMgt_STAT_STATUS n) st).setFld (fMgt_STAT_DONE_COUNT n) d := ⟨_, rfl⟩
  have har : onlyRegs (fun r => r = rMgt_STAT n) s a := by
    rw [ha]; exact ((setFld_onlyReg s _ _ _ _).trans (setFld_onlyReg _ _ _ _ _)).trans (setFld_onlyReg _ _ _ _ _)
  have hap : onlyParts [.regs] s a := by rw [ha]; exact ((setFld_onlyParts s _ _).trans (setFld_onlyParts _ _ _)).trans (setFld_onlyParts _ _ _)
  have hdone : a.fld (fMgt_STAT_DONE_COUNT n) = d := by rw [ha]; exact State.fld_setFld_self_of_lt _ _ (by decide) hd
  have hstat : a.fld (fMgt_STAT_STATUS n) = st := by
    rw [ha]
    exact (State.fld_setFld_other _ _ _ _ _ _ _ (by decide) (by decide) (by decide) (by decide) (by decide)).trans
      (State.fld_setFld_self_of_lt _ _ (by decide) hst)
  have hbusy : a.fld (fMgt_STAT_BUSY n) = 0 := by
    rw [ha]
    exact ((State.fld_setFld_other _ _ _ _ _ _ _ (by decide) (by decide) (by decide) (by decide) (by decide)).trans
      (State.fld_setFld_other _ _ _ _ _ _ _ (by decide) (by decide) (by decide) (by decide) (by decide))).trans
      (State.fld_setFld_self_of_lt _ _ (by decide) (by decide))
  obtain ⟨b, hb⟩ : ∃ b, b = a.modMon fun m => { m with mgt := Tab.erase m.mgt n } := ⟨_, rfl⟩
  have hbp : onlyParts [.mon] a b := by rw [hb]; exact modMon_onlyParts a _
  obtain ⟨m, hm⟩ : ∃ m, m = Nat.lor (b.fld fMon_MGT_CTL_DONE) (2 ^ n) := ⟨_, rfl⟩
  obtain ⟨c, hc⟩ : ∃ c, c = b.setFld fMon_MGT_CTL_DONE m := ⟨_, rfl⟩
  have hcr : onlyRegs (fun r => r = rMon_MGT_CTL) b c := by rw [hc]; exact setFld_onlyReg b _ _ _ _
  have hcp : onlyParts [.regs] b c := by rw [hc]; exact setFld_onlyParts b _ _
  have hbit : (c.reg rMon_MGT_CTL).getLsbD n = true := by
    rw [hc, State.setFld, State.reg_setReg_self, getLsbD_putBits_part _ _ (by decide) (Nat.zero_le n) (show n ≤ 7 by omega), Nat.sub_zero,
      ← Nat.testBit_eq_decide_div_mod_eq, hm]
    exact testBit_lor_pow _ n
  have hdef : mgtEnd n st d s = raise_ fMon_EVENT_MGT_DONE c := by rw [hc, hm, hb, ha]; rfl
  have htr := raise_onlyRegs fMon_EVENT_MGT_DONE c
  have htp := raise_onlyParts fMon_EVENT_MGT_DONE c
  have hkeep (hi lo : Nat) : (raise_ fMon_EVENT_MGT_DONE c).fld ⟨rMgt_STAT n, hi, lo⟩ = a.fld ⟨rMgt_STAT n, hi, lo⟩ :=
    (htr.fld (by simp [noteReg])).trans ((hcr.fld (by simp)).trans (State.fld_congr (hbp .regs (by decide)) _))
  simp only [hdef]
  refine ⟨bne_eq_false_iff_eq.2 ((hkeep _ _).trans hbusy), (hkeep _ _).trans hstat, (hkeep _ _).trans hdone, ?_,
    bne_iff_ne.2 (by rw [raise_fld_self _ _ (by decide) ⟨Blk.noConfusion, Blk.noConfusion⟩]; decide), ?_, ?_, ?_⟩
  · rw [htr _ (by simp [noteReg])]
    exact hbit
  · exact outsKept.trans (outsKept.of_same (((hcp .out (by decide)).trans (hbp .out (by decide))).trans (hap .out (by decide)))) (raise_outsKept _ c)
  · refine ((har.mono fun _ => .inl).trans fun r _ => State.reg_congr (hbp .regs (by decide)) r).andThen
      ((hcr.mono fun _ => .inl).andThen htr fun _ => .inr) fun _ => .inr
  · exact (((hap.mono (by decide)).trans (hbp.mono (by decide))).trans (hcp.mono (by decide))).trans (htp.mono (by decide))

theorem doneCount_lt {ctl : W32} {done : Nat} {acked stuck : Bool} :
    (if stuck then min done (bits ctl 7 0) else if acked then bits ctl 7 0 else
      if bits ctl 30 29 == 0 then min done (bits ctl 7 0 - 1) else 0) ≤ bits ctl 7 0 := by
  split_ifs <;> omega

theorem bits_byte_lt (v : W32) : bits v 7 0 < 256 := Nat.mod_lt _ (by decide)

theorem mgtDone_claim {n done : Nat} {acked stuck : Bool} {data : List Byte} {ctl : W32} {s : State} (hn : n < 8)
    (hbusy : s.on (fMgt_STAT_BUSY n) = true) (hctl : Tab.find s.mon.mgt n = some ctl) :
    ∃ t, exec (.mgtDone n acked stuck done data) s = .next t ∧ t.on (fMgt_STAT_BUSY n) = false ∧
      t.fld (fMgt_STAT_STATUS n) = (if stuck then eTimeout else if acked then eOk else eBus) ∧
      t.fld (fMgt_STAT_DONE_COUNT n) = (if stuck then min done (bits ctl 7 0) else if acked then bits ctl 7 0 else if bits ctl 30 29 = 0 then min done (bits ctl 7 0 - 1) else 0) ∧
      (t.reg rMon_MGT_CTL).getLsbD n = true ∧ t.on fMon_EVENT_MGT_DONE = true ∧
      (bits ctl 30 29 = 0 → t.mgtBytes n = s.mgtBytes n) ∧
      (acked = false → stuck = false → .mgt n (bits ctl 28 27) [.stop] ∈ t.host.out) ∧
      (bits ctl 30 29 ≠ 0 → acked = true → stuck = false → data.length = bits ctl 7 0 → bits ctl 7 0 ≤ 128 →
        t.mgtBytes n = data ++ (s.mgtBytes n).drop (bits ctl 7 0)) ∧
      onlyRegs (fun r => r.blk = .mgt ∧ r.inst = n ∨ r = rMon_MGT_CTL ∨ r = rMon_EVENT ∨ noteReg r) s t ∧
      onlyParts [.mon, .rings, .regs, .out] s t := by
  obtain ⟨got, hgot⟩ : ∃ got, got = if stuck then min done (bits ctl 7 0) else if acked then bits ctl 7 0 else
    if bits ctl 30 29 == 0 then min done (bits ctl 7 0 - 1) else 0 := ⟨_, rfl⟩
  have hlt : got < 256 := by
    rw [hgot]
    exact doneCount_lt.trans_lt (bits_byte_lt ctl)
  obtain ⟨st, hst⟩ : ∃ st, st = if stuck then eTimeout else if acked then eOk else eBus := ⟨_, rfl⟩
  have hst8 : st < 256 := by
    rw [hst]
    split_ifs <;> decide
  obtain ⟨a, ha⟩ : ∃ a, a = if acked || stuck then s else s.emit (.mgt n (bits ctl 28 27) [.stop]) := ⟨_, rfl⟩
  have har : a.regs = s.regs := by rw [ha]; split <;> rfl
  have hap : onlyParts [.out] s a := by
    rw [ha]
    split
    · exact .refl _ s
    · exact emit_onlyParts s _
  obtain ⟨b, hb⟩ : ∃ b, b = if bits ctl 30 29 == 0 then a else a.putMgt n (padTo got (data.take got)) := ⟨_, rfl⟩
  have hbr : onlyRegs (fun r => ∃ j, r = rMgt_BUF n j) a b := by
    rw [hb]
    split
    · exact .refl _ a
    · exact putMgt_onlyRegs a n _
  have hbp : onlyParts [.regs] a b := by
    rw [hb]
    split
    · exact .refl _ a
    · exact putMgt_onlyParts a n _
  have hdef : exec (.mgtDone n acked stuck done data) s = .next (mgtEnd n st got b) := by
    show execMgtDone n acked stuck done data s = _
    have hno : ¬ (8 ≤ n ∨ (!s.on (fMgt_STAT_BUSY n)) = true) := by
      rw [hbusy]
      exact fun h => h.elim (not_le.2 hn) Bool.false_ne_true
    unfold execMgtDone
    rw [if_neg hno]
    dsimp only
    rw [Tab.get_of_find hctl, ← hgot, ← hst, ← ha, ← hb]
  obtain ⟨h1, h2, h3, h4, h5, hout, hr, hp⟩ := mgtEnd_effect hn hst8 hlt b
  have hbytes : (mgtEnd n st got b).mgtBytes n = b.mgtBytes n := mgtBytes_congr fun j => hr _ (by simp [noteReg]; omega)
  have habytes : a.mgtBytes n = s.mgtBytes n := mgtBytes_congr fun j => State.reg_congr har _
  refine ⟨_, hdef, h1, h2.trans hst, ?_, h4, h5, fun hw => ?_, fun hna hns => ?_, fun hw hack hns hlen h128 => ?_, ?_, ?_⟩
  · rw [h3, hgot]
    simp only [beq_iff_eq]
  · rw [hbytes, hb, if_pos (beq_iff_eq.2 hw), habytes]
  · refine hout _ ?_
    rw [hbp .out (by decide), ha, hna, hns]
    exact List.mem_cons_self
  · have hg : got = data.length := by rw [hgot, hns, hack, hlen]; rfl
    have hpad : padTo got (data.take got) = data := by
      rw [hg, List.take_length]
      exact padTo_of_length rfl
    rw [hbytes, hb, if_neg (by rw [beq_iff_eq]; exact hw), hpad, mgtBytes_putMgt a n (by omega), habytes, hlen]
  · have hs0 : onlyRegs (fun r => r.blk = .mgt ∧ r.inst = n) s b :=
      fun r h => (hbr r fun ⟨j, hj⟩ => h (by rw [hj]; exact ⟨rfl, rfl⟩)).trans (State.reg_congr har r)
    exact (hs0.mono fun _ => .inl).andThen hr fun r h => h.imp_left fun h => by rw [h]; exact ⟨rfl, rfl⟩
  · exact ((hap.mono (by decide)).trans (hbp.mono (by decide))).trans (hp.mono (by decide))

/-! ## MOD_INT and the monitor's reset -/

theorem live_modInt (s : State) : (live rMon_MGT_CTL s).getLsbD 30 = s.bias.modInt := by
  show (putBits (s.reg rMon_MGT_CTL) 30 30 (if s.bias.modInt then 1 else 0)).getLsbD 30 = _
  rw [getLsbD_putBits_part _ _ ⟨by decide, by decide⟩ (by decide) (by decide)]
  cases s.bias.modInt <;> rfl

theorem wake_of_idle (i : Nat) {s : State} (hp : s.pState < 2) (ht : s.on fPwr_STATE_TRANS = false) : wake i s = s := by
  have he : s.entering = false := by rw [State.entering, ht]; rfl
  have h2 : decide (2 ≤ s.pState) = false := decide_eq_false (not_le.2 hp)
  rw [wake, he, h2, if_pos (by simp)]

theorem modInt_claim {s : State} (hm : s.bias.modInt = false) (hd : s.dark = false) (hp : s.pState < 2) (ht : s.on fPwr_STATE_TRANS = false) :
    ∃ t, exec (.modInt true) s = .next t ∧
      (live rMon_MGT_CTL t).getLsbD 30 = true ∧ t.on fMon_EVENT_MOD_INT = true ∧ t.bias = { s.bias with modInt := true } ∧
      onlyRegs (fun r => r = rMon_EVENT ∨ noteReg r) s t ∧ onlyParts [.bias, .rings, .regs, .out] s t := by
  obtain ⟨a, ha⟩ : ∃ a, a = s.modBias ({ · with modInt := true }) := ⟨_, rfl⟩
  have har : a.regs = s.regs := by rw [ha]; rfl
  have hap : onlyParts [.bias] s a := by
    rw [ha]
    intro p hp
    cases p <;> simp_all [Part.same, State.modBias]
  have hab : a.bias = { s.bias with modInt := true } := by rw [ha]; rfl
  have hr := raise_onlyRegs fMon_EVENT_MOD_INT a
  have hpt := raise_onlyParts fMon_EVENT_MOD_INT a
  have hbias : (raise_ fMon_EVENT_MOD_INT a).bias = { s.bias with modInt := true } := (hpt .bias (by decide)).trans hab
  have hon : (raise_ fMon_EVENT_MOD_INT a).on fMon_EVENT_MOD_INT = true :=
    bne_iff_ne.2 (by rw [raise_fld_self _ _ (by decide) ⟨Blk.noConfusion, Blk.noConfusion⟩]; decide)
  have hstate (f : FldId) (hf : f.reg = rPwr_STATE) : (raise_ fMon_EVENT_MOD_INT a).fld f = s.fld f := by
    rw [State.fld_congr_reg (hr _ (by rw [hf]; simp [noteReg])), State.fld_congr har]
  have hdef : exec (.modInt true) s = .next (raise_ fMon_EVENT_MOD_INT a) := by
    show execModInt true s = _
    unfold execModInt
    dsimp only
    rw [hm, hd, ← ha, if_pos (by decide), wake_of_idle]
    · show (raise_ fMon_EVENT_MOD_INT a).fld _ < 2
      rw [hstate _ rfl]
      exact hp
    · unfold State.on
      rw [hstate _ rfl]
      exact ht
  refine ⟨_, hdef, by rw [live_modInt, hbias], hon, hbias, ?_, (hap.mono (by decide)).trans (hpt.mono (by decide))⟩
  exact fun r h => (hr r h).trans (State.reg_congr har r)

/-- The registers that SRST of the monitor resets (R437). -/
def monSrstReg (r : RegId) : Bool := (r.blk == .mon && r.off != 0xF00 && r.off != 0xF04) || r.blk == .ch || r.blk == .mgt

theorem monSrst_claim {v : W32} {s : State} (hs : s.awake = true) (hv : v.getLsbD 0 = true)
    (hbusy : ∀ n, n < 8 → s.on (fMgt_STAT_BUSY n) = false) :
    ∃ t, exec (.monSrst v) s = .next t ∧ t.mon = {} ∧
      (∀ r, r.blk = .mon ∧ r ≠ rMon_CAL_CTL ∧ r ≠ rMon_CAL_REF ∧ r.inst = 0 ∨ r.blk = .ch ∨ r.blk = .mgt → t.reg r = regReset r) ∧
      (live rMon_MGT_CTL t).getLsbD 30 = s.bias.modInt ∧ t.on fMon_MGT_CTL_RST_REL = false ∧
      t.host.out = .pin "MOD_RST_N" (some false) :: s.host.out ∧
      onlyRegs (fun r => r.blk = .mon ∨ r.blk = .ch ∨ r.blk = .mgt) s t ∧ t.reg rMon_CAL_CTL = s.reg rMon_CAL_CTL ∧
      t.reg rMon_CAL_REF = s.reg rMon_CAL_REF ∧ onlyParts [.mon, .regs, .hiLatch, .capt, .loHeld, .out] s t := by
  obtain ⟨a, ha⟩ : ∃ a, a = s.resetRegs monSrstReg := ⟨_, rfl⟩
  have hreg (r : RegId) : a.reg r = if monSrstReg r then regReset r else s.reg r := by rw [ha]; exact State.reg_resetRegs s _ r
  have hap : onlyParts [.regs, .hiLatch, .capt, .loHeld] s a := by rw [ha]; exact resetRegs_onlyParts s _
  obtain ⟨t, ht⟩ : ∃ t, t = ({ a with mon := {} } : State).emit (.pin "MOD_RST_N" (some false)) := ⟨_, rfl⟩
  have htr : t.regs = a.regs := by rw [ht]; rfl
  have htp : onlyParts [.mon, .out] a t := by
    rw [ht]
    intro p hp
    cases p <;> simp_all [Part.same, State.emit]
  have hdef : exec (.monSrst v) s = .next t := by
    show Host.Outcome.next (aonAccess (fun s => writeMonCtl v s) s) = _
    rw [aonAccess_awake _ hs, writeMonCtl, if_pos hv, List.foldl_of_fixed, ht, ha]
    · rfl
    · intro n hn
      rw [hbusy n (List.mem_range.1 hn), if_neg Bool.false_ne_true]
  have hreset (r : RegId) (h : monSrstReg r = true) : t.reg r = regReset r := by rw [State.reg_congr htr, hreg, if_pos h]
  have hkept (r : RegId) (h : monSrstReg r = false) : t.reg r = s.reg r := by rw [State.reg_congr htr, hreg, h]; rfl
  refine ⟨t, hdef, by rw [ht]; rfl, fun r h => hreset r ?_, ?_, ?_, ?_, fun r h => hkept r ?_, hkept _ rfl, hkept _ rfl,
    (hap.mono (by decide)).trans (htp.mono (by decide))⟩
  · obtain ⟨blk, inst, off⟩ := r
    obtain ⟨rfl, h1, h2, rfl⟩ | rfl | rfl := h
    · simpa [monSrstReg] using And.intro h1 h2
    · rfl
    · rfl
  · rw [live_modInt, htp .bias (by decide), hap .bias (by decide)]
  · refine bne_eq_false_iff_eq.2 ?_
    rw [State.fld, hreset _ rfl]
    decide +kernel
  · rw [ht, ← hap .out (by decide)]; rfl
  · obtain ⟨h1, h2, h3⟩ : r.blk ≠ .mon ∧ r.blk ≠ .ch ∧ r.blk ≠ .mgt := by simpa using h
    simp [monSrstReg, h1, h2, h3]

/-- Settles O44: GO records and sends the steps of a transaction, its end records how it ended and what it read, MOD_INT follows its ball,
and SRST resets the blocks of the monitor but for the calibration's two registers. -/
theorem modulesAreManaged : Obligations.ModulesAreManaged := by
  unfold Obligations.ModulesAreManaged
  exact ⟨fun n v s hs hn hgo hb h1 h128 hk hsp => mgtGo_claim hs hn hgo hb h1 h128 hk hsp,
    fun n done acked stuck data ctl s hn hb hc => mgtDone_claim hn hb hc,
    fun s hm hd hp ht => modInt_claim hm hd hp ht,
    fun s => ⟨rfl, live_modInt _⟩,
    fun v s hs hv hb => monSrst_claim hs hv hb⟩

end Sys2Proof.Machine

end

section
/-! SUPPORT. What a hand-over of a bias group and the start of a heater's period leave. -/

-- The checked text is one long file: elaborating these in order bounds its threads and memory.
set_option Elab.async false

namespace Sys2Proof.Machine

/-! ## Parts of the bias block -/

theorem modBias_onlyParts (s : State) (f : BiasSt → BiasSt) : onlyParts [.bias] s (s.modBias f) := by
  intro p hp
  cases p <;> simp_all [Part.same, State.modBias]

theorem sumCodes_onlyParts (s : State) : onlyParts [.thm] s (sumCodes s) := by
  intro p hp
  cases p <;> simp_all [Part.same, sumCodes]

theorem monTrigger_onlyParts (t : MonTrig) (s : State) : onlyParts [.mon] s (monTrigger t s) := by
  unfold monTrigger
  split
  · exact modMon_onlyParts s _
  · exact .refl _ s

theorem State.actFld_congr {s t : State} (h : t.act = s.act) (f : FldId) : t.actFld f = s.actFld f := by rw [State.actFld, h, State.actFld]

/-- What a step puts out, and every later step of a fold keeps, is among the outputs at its end. -/
theorem mem_out_foldl_of {α : Type} {f : State → α → State} {P : State → Prop} {o : Out} {x : α}
    (hk : ∀ a y, P a → P (f a y) ∧ outsKept a (f a y)) (hg : ∀ a, P a → o ∈ (f a x).host.out) {l : List α} (hx : x ∈ l) {s : State}
    (hs : P s) : o ∈ (l.foldl f s).host.out := by
  induction l generalizing s with
  | nil => exact absurd hx List.not_mem_nil
  | cons y l ih =>
    rw [List.foldl_cons]
    by_cases h : x ∈ l
    · exact ih h (hk s y hs).1
    · obtain rfl : x = y := (List.mem_cons.1 hx).resolve_right h
      have hkeep (l : List α) (a : State) (ha : P a) : outsKept a (l.foldl f a) := by
        induction l generalizing a with
        | nil => exact fun _ h => h
        | cons z l ih' => exact (hk a z ha).2.trans (ih' _ (hk a z ha).1)
      exact hkeep l _ (hk s x hs).1 o (hg s hs)

/-! ## Hand-overs (R428, R430) -/

theorem driveBias_onlyParts (n old : Nat) (s : State) : onlyParts [.bias, .out] s (driveBias n old s) := by
  unfold driveBias
  dsimp only
  have h1 : onlyParts [.out] s (if s.actFld (fBias_CODE_SPAN n) = old then s else
      (s.emit (biasOut n old none)).emit (biasOut n (s.actFld (fBias_CODE_SPAN n)) none)) := by
    split
    · exact .refl _ s
    · exact (emit_onlyParts s _).trans (emit_onlyParts _ _)
  split
  · exact h1.mono (by decide)
  · exact (h1.mono (by decide)).trans (((modBias_onlyParts _ _).mono (by decide)).trans ((emit_onlyParts _ _).mono (by decide)))

theorem driveBias_outsKept (n old : Nat) (s : State) : outsKept s (driveBias n old s) := by
  unfold driveBias
  dsimp only
  have h1 : outsKept s (if s.actFld (fBias_CODE_SPAN n) = old then s else
      (s.emit (biasOut n old none)).emit (biasOut n (s.actFld (fBias_CODE_SPAN n)) none)) := by
    split
    · exact fun _ h => h
    · exact outsKept.trans (outsKept.emit s _) (outsKept.emit _ _)
  split
  · exact h1
  · exact fun o ho => List.mem_cons_of_mem _ (h1 o ho)

theorem driveBias_drives {n : Nat} (old : Nat) {s : State} (h : s.biasTripped n = false) :
    biasOut n (s.actFld (fBias_CODE_SPAN n)) (if s.actFld (fBias_CODE_EN n) = 1 then some (s.actFld (fBias_CODE_CODE n)) else none) ∈
      (driveBias n old s).host.out := by
  unfold driveBias
  dsimp only
  rw [h, if_neg Bool.false_ne_true]
  refine List.mem_cons.2 (.inl ?_)
  unfold State.biasCode
  split_ifs <;> rfl

theorem tab_foldl_set {f : Nat → RegId} {v : RegId → W32} (d : W32) (l : List Nat) (t : Tab RegId W32) (r : RegId) :
    Tab.get d (l.foldl (fun t n => Tab.set t (f n) (v (f n))) t) r = if ∃ n ∈ l, r = f n then v r else Tab.get d t r := by
  induction l generalizing t with
  | nil => simp
  | cons n l ih =>
    rw [List.foldl_cons, ih, Tab.get_set]
    by_cases hl : ∃ n ∈ l, r = f n
    · obtain ⟨m, hm, hr⟩ := hl
      rw [if_pos ⟨m, hm, hr⟩, if_pos ⟨m, List.mem_cons_of_mem _ hm, hr⟩]
    · rw [if_neg hl]
      by_cases hn : f n = r
      · rw [if_pos hn, if_pos ⟨n, List.mem_cons_self, hn.symm⟩, hn]
      · rw [if_neg hn, if_neg]
        rintro ⟨m, hm, hr⟩
        obtain rfl | hm := List.mem_cons.1 hm
        · exact hn hr.symm
        · exact hl ⟨m, hm, hr⟩

theorem State.biasGroup_congr {s t : State} (h : onlyRegs (fun r => ∃ g, g < 4 ∧ r = rBias_GRP g) s t) {n : Nat} (hn : n < 16) :
    t.biasGroup n = s.biasGroup n :=
  h.fld (by simp only [RegId.mk.injEq, true_and, not_exists]; omega)

/-- The channels of group `g` and the shadow codes that its hand-over makes active. -/
def handedOver (g : Nat) (s : State) (r : RegId) : Prop := ∃ n, n < 16 ∧ s.biasGroup n = g ∧ r = rBias_CODE n

theorem handedOver_iff {g : Nat} {s : State} {r : RegId} : handedOver g s r ↔ ∃ n ∈ s.groupChannels g, r = rBias_CODE n := by
  simp [handedOver, State.groupChannels, and_assoc]

/-- The state with the shadow codes of an armed group active. -/
def codesHanded (g : Nat) (s : State) : State :=
  if s.on (fBias_GRP_ARM g) then
    { sumCodes s with act := (s.groupChannels g).foldl (fun t n => Tab.set t (rBias_CODE n) (s.reg (rBias_CODE n))) s.act }
  else s

theorem codesHanded_onlyParts (g : Nat) (s : State) : onlyParts [.act, .thm] s (codesHanded g s) := by
  unfold codesHanded
  split
  · intro p hp
    cases p <;> simp_all [Part.same, sumCodes]
  · exact .refl _ s

theorem codesHanded_act {g : Nat} {s : State} (h : s.on (fBias_GRP_ARM g) = true) (d : W32) (r : RegId) :
    Tab.get d (codesHanded g s).act r = if ∃ n ∈ s.groupChannels g, r = rBias_CODE n then s.reg r else Tab.get d s.act r := by
  rw [codesHanded, if_pos h]
  exact tab_foldl_set (f := rBias_CODE) (v := s.reg) d (s.groupChannels g) s.act r

/-- What a hand-over of group `g` leaves (R428). -/
theorem biasHandover_effect {g : Nat} (s : State) : let t := biasHandover g s
    t.on (fBias_GRP_ARM g) = false ∧ t.fld (fBias_GRP_LOAD_SEQ g) = (s.fld (fBias_GRP_LOAD_SEQ g) + 1) % 256 ∧
      t.fld (fBias_GRP_SRC g) = s.fld (fBias_GRP_SRC g) ∧
      (s.on (fBias_GRP_ARM g) = false → t.act = s.act) ∧
      (s.on (fBias_GRP_ARM g) = true → (∀ d r, handedOver g s r → Tab.get d t.act r = s.reg r) ∧
        (∀ d r, ¬ handedOver g s r → Tab.get d t.act r = Tab.get d s.act r) ∧
        ∀ n, n < 16 → s.biasGroup n = g → g < 4 → s.biasTripped n = false → biasOut n (s.fld (fBias_CODE_SPAN n))
          (if s.on (fBias_CODE_EN n) then some (s.fld (fBias_CODE_CODE n)) else none) ∈ t.host.out) ∧
      outsKept s t ∧ onlyRegs (fun r => r = rBias_GRP g) s t ∧ onlyParts [.act, .mon, .bias, .thm, .regs, .out] s t := by
  obtain ⟨a, ha⟩ : ∃ a, a = codesHanded g s := ⟨_, rfl⟩
  have hap : onlyParts [.act, .thm] s a := by rw [ha]; exact codesHanded_onlyParts g s
  obtain ⟨b, hb⟩ : ∃ b, b = (a.setFld (fBias_GRP_ARM g) 0).incWrap (fBias_GRP_LOAD_SEQ g) := ⟨_, rfl⟩
  have hbr : onlyRegs (fun r => r = rBias_GRP g) a b := by rw [hb]; exact (setFld_onlyReg a _ _ _ _).trans (incWrap_onlyReg _ _ _ _)
  have hbp : onlyParts [.regs] a b := by rw [hb]; exact (setFld_onlyParts a _ _).trans (incWrap_onlyParts _ _)
  have hseq : b.fld (fBias_GRP_LOAD_SEQ g) = (s.fld (fBias_GRP_LOAD_SEQ g) + 1) % 256 := by
    rw [hb]
    refine (State.incWrap_self _ (rBias_GRP g) (by decide)).trans ?_
    have h1 : (a.setFld (fBias_GRP_ARM g) 0).fld (fBias_GRP_LOAD_SEQ g) = s.fld (fBias_GRP_LOAD_SEQ g) :=
      (State.fld_setFld_other _ _ _ _ _ _ _ (by decide) (by decide) (by decide) (by decide) (by decide)).trans
        (State.fld_congr (hap .regs (by decide)) _)
    exact congrArg (fun x => (x + 1) % 2 ^ (7 + 1 - 0)) h1
  have harm : b.on (fBias_GRP_ARM g) = false := by
    refine bne_eq_false_iff_eq.2 ?_
    rw [hb]
    exact (State.fld_setFld_other _ _ _ _ _ _ _ (by decide) (by decide) (by decide) (by decide) (by decide)).trans
      (State.fld_setFld_self_of_lt _ _ (by decide) (by decide))
  have hsrc : b.fld (fBias_GRP_SRC g) = s.fld (fBias_GRP_SRC g) := by
    rw [hb]
    exact ((State.fld_setFld_other _ _ _ _ _ _ _ (by decide) (by decide) (by decide) (by decide) (by decide)).trans
      (State.fld_setFld_other _ _ _ _ _ _ _ (by decide) (by decide) (by decide) (by decide) (by decide))).trans
      (State.fld_congr (hap .regs (by decide)) _)
  obtain ⟨c, hc⟩ : ∃ c, c = monTrigger (.load g) b := ⟨_, rfl⟩
  have hcp : onlyParts [.mon] b c := by rw [hc]; exact monTrigger_onlyParts _ b
  obtain ⟨f, hf⟩ : ∃ f : State → Nat → State, f = fun a n =>
    if s.on (fBias_GRP_ARM g) || a.bias.held.contains n then driveBias n (s.actFld (fBias_CODE_SPAN n)) a else a := ⟨_, rfl⟩
  have hfp (x : State) (n : Nat) : onlyParts [.bias, .out] x (f x n) := by
    rw [hf]
    dsimp only
    split
    · exact driveBias_onlyParts _ _ x
    · exact .refl _ x
  have hfo (x : State) (n : Nat) : outsKept x (f x n) := by
    rw [hf]
    dsimp only
    split
    · exact driveBias_outsKept _ _ x
    · exact fun _ h => h
  obtain ⟨t, ht⟩ : ∃ t, t = (s.groupChannels g).foldl f c := ⟨_, rfl⟩
  have htp : onlyParts [.bias, .out] c t := by rw [ht]; exact onlyParts.foldl hfp _ c
  have hto : outsKept c t := by rw [ht]; exact outsKept.foldl hfo _ c
  have hdef : biasHandover g s = t := by rw [ht, hf, hc, hb, ha]; rfl
  have hreg (fl : FldId) : t.fld fl = b.fld fl := (State.fld_congr (htp .regs (by decide)) _).trans (State.fld_congr (hcp .regs (by decide)) _)
  have hact : t.act = a.act := ((htp .act (by decide)).trans (hcp .act (by decide))).trans (hbp .act (by decide))
  have hr : onlyRegs (fun r => r = rBias_GRP g) s t := fun r h =>
    (((State.reg_congr (htp .regs (by decide)) r).trans (State.reg_congr (hcp .regs (by decide)) r)).trans (hbr r h)).trans
      (State.reg_congr (hap .regs (by decide)) r)
  simp only [hdef]
  refine ⟨by unfold State.on; rw [hreg]; exact harm, (hreg _).trans hseq, (hreg _).trans hsrc, fun h => ?_, fun h => ⟨fun d r hh => ?_, fun d r hh => ?_, ?_⟩,
    ?_, hr, ?_⟩
  · rw [hact, ha, codesHanded, h]
    rfl
  · rw [hact, ha, codesHanded_act h, if_pos (handedOver_iff.1 hh)]
  · rw [hact, ha, codesHanded_act h, if_neg (mt handedOver_iff.2 hh)]
  · intro n hn hgr hg4 htrip
    have hmem : n ∈ s.groupChannels g := by simp [State.groupChannels, hn, hgr]
    have hcode (hi lo : Nat) (x : State) (hx : x.act = a.act) : x.actFld ⟨rBias_CODE n, hi, lo⟩ = s.fld ⟨rBias_CODE n, hi, lo⟩ := by
      rw [State.actFld, hx, ha, codesHanded_act h, if_pos ⟨n, hmem, rfl⟩]
      rfl
    have hctrip : c.biasTripped n = false := by
      have hsame : c.reg rBias_TRIP = s.reg rBias_TRIP :=
        ((State.reg_congr (hcp .regs (by decide)) _).trans (hbr _ (by simp; omega))).trans (State.reg_congr (hap .regs (by decide)) _)
      rw [State.biasTripped, hsame]
      exact htrip
    rw [ht]
    refine mem_out_foldl_of (P := fun x => x.act = a.act ∧ x.regs = c.regs) (fun x y hx => ⟨⟨?_, ?_⟩, hfo x y⟩) (fun x hx => ?_) hmem
      ⟨(hcp .act (by decide)).trans (hbp .act (by decide)), rfl⟩
    · exact (hfp x y .act (by decide)).trans hx.1
    · exact (hfp x y .regs (by decide)).trans hx.2
    · obtain ⟨hxa, hxr⟩ := hx
      have hxtrip : x.biasTripped n = false := by
        rw [State.biasTripped, State.reg_congr hxr]
        exact hctrip
      have hd := driveBias_drives (s.actFld (fBias_CODE_SPAN n)) hxtrip
      rw [hcode _ _ x hxa, hcode _ _ x hxa, hcode _ _ x hxa] at hd
      have hlt : s.fld (fBias_CODE_EN n) < 2 := State.fld_lt s _
      have hen : (s.fld (fBias_CODE_EN n) = 1) = (s.on (fBias_CODE_EN n) = true) := by
        rw [State.on, bne_iff_ne]
        exact propext (by omega)
      simp only [hen] at hd
      rw [hf]
      dsimp only
      rw [h, Bool.true_or, if_pos rfl]
      exact hd
  · exact outsKept.trans (outsKept.of_same (((hcp .out (by decide)).trans (hbp .out (by decide))).trans (hap .out (by decide)))) hto
  · exact (((hap.mono (by decide)).trans (hbp.mono (by decide))).trans (hcp.mono (by decide))).trans (htp.mono (by decide))

/-! ## Heaters (R433) -/

/-- What the start of a heater's period leaves. -/
theorem htrStart_effect (n : Nat) (s : State) : let t := htrStart n s
    (∀ m, Tab.find t.bias.htr m = if n = m then some (s.fld (fBias_HTR_DUTY n), s.fld (fBias_HTR_PERIOD n)) else Tab.find s.bias.htr m) ∧
      t.host.out = .heater n (if (s.reg rBias_TRIP).getLsbD (16 + n) then 0 else min (s.fld (fBias_HTR_DUTY n)) (s.fld (fBias_HTR_PERIOD n)))
        (s.fld (fBias_HTR_PERIOD n)) :: s.host.out ∧ onlyParts [.mon, .bias, .out] s t := by
  obtain ⟨d, hd⟩ : ∃ d, d = s.fld (fBias_HTR_DUTY n) := ⟨_, rfl⟩
  obtain ⟨p, hp⟩ : ∃ p, p = s.fld (fBias_HTR_PERIOD n) := ⟨_, rfl⟩
  obtain ⟨a, ha⟩ : ∃ a, a = (s.modBias fun b => { b with htr := Tab.set b.htr n (d, p), htrAt := Tab.set b.htrAt n s.up }).emit
    (.heater n (if (s.reg rBias_TRIP).getLsbD (16 + n) then 0 else min d p) p) := ⟨_, rfl⟩
  have hap : onlyParts [.bias, .out] s a := by
    rw [ha]; exact ((modBias_onlyParts s _).mono (by decide)).trans ((emit_onlyParts _ _).mono (by decide))
  have haf (m : Nat) : Tab.find a.bias.htr m = if n = m then some (d, p) else Tab.find s.bias.htr m := by rw [ha]; exact Tab.find_set _ _ _ _
  have hao : a.host.out = .heater n (if (s.reg rBias_TRIP).getLsbD (16 + n) then 0 else min d p) p :: s.host.out := by rw [ha]; rfl
  obtain ⟨t, ht⟩ : ∃ t, t = htrStart n s := ⟨_, rfl⟩
  have htp : onlyParts [.mon] a t := by
    rw [ht]
    unfold htrStart
    dsimp only
    rw [← hd, ← hp, ← ha]
    split
    · exact monTrigger_onlyParts _ a
    · exact .refl _ a
  simp only [← ht, ← hd, ← hp]
  exact ⟨fun m => by rw [htp .bias (by decide), haf], (htp .out (by decide)).trans hao, (hap.mono (by decide)).trans (htp.mono (by decide))⟩

/-! ## Outputs forced safe (R425, R432) -/

theorem maskBits_pow {n : Nat} (hn : n < 8) : maskBits 16 (2 ^ n) = [n] := by
  interval_cases n <;> decide

/-- What forcing one bias channel safe leaves. -/
theorem forceSafe_one {n : Nat} (hn : n < 8) (s : State) : let t := forceSafe (2 ^ n) 0 s
    t.biasTripped n = true ∧ biasOut n (s.actFld (fBias_CODE_SPAN n)) none ∈ t.host.out ∧ t.fld fBias_EVENT_COMPL = s.fld fBias_EVENT_COMPL ∧
      onlyRegs (fun r => r = rBias_TRIP ∨ r = rBias_EVENT ∨ noteReg r) s t ∧ onlyParts [.bias, .rings, .regs, .out] s t := by
  obtain ⟨m, hm⟩ : ∃ m, m = Nat.lor (s.fld fBias_TRIP_BIAS) (2 ^ n) := ⟨_, rfl⟩
  obtain ⟨k, hk⟩ : ∃ k, k = Nat.lor (s.fld fBias_TRIP_HTR) 0 := ⟨_, rfl⟩
  obtain ⟨a, ha⟩ : ∃ a, a = (s.setFld fBias_TRIP_BIAS m).setFld fBias_TRIP_HTR k := ⟨_, rfl⟩
  have har : onlyRegs (fun r => r = rBias_TRIP) s a := by rw [ha]; exact (setFld_onlyReg s _ _ _ _).trans (setFld_onlyReg _ _ _ _ _)
  have hap : onlyParts [.regs] s a := by rw [ha]; exact (setFld_onlyParts s _ _).trans (setFld_onlyParts _ _ _)
  have hbit : a.biasTripped n = true := by
    have h1 : (s.setFld fBias_TRIP_BIAS m).on ⟨rBias_TRIP, n, n⟩ = true := by
      rw [State.on_eq_getLsbD, State.setFld, State.reg_setReg_self, getLsbD_putBits_part _ _ (by decide) (Nat.zero_le n) (show n ≤ 15 by omega),
        Nat.sub_zero, ← Nat.testBit_eq_decide_div_mod_eq, hm]
      exact testBit_lor_pow _ n
    have h2 : a.fld ⟨rBias_TRIP, n, n⟩ = (s.setFld fBias_TRIP_BIAS m).fld ⟨rBias_TRIP, n, n⟩ := by
      rw [ha]
      exact State.fld_setFld_other _ _ _ _ _ _ _ (by decide) (by decide) (le_refl n) (by omega) (.inl (show n < 16 by omega))
    rw [State.biasTripped, ← State.on_eq_getLsbD, State.on, h2]
    exact h1
  obtain ⟨b, hb⟩ : ∃ b, b = (a.emit (biasOut n (a.actFld (fBias_CODE_SPAN n)) none)).modBias fun b =>
    { b with held := if b.held.contains n then b.held else n :: b.held } := ⟨_, rfl⟩
  have hbp : onlyParts [.bias, .out] a b := by
    rw [hb]; exact ((emit_onlyParts a _).mono (by decide)).trans ((modBias_onlyParts _ _).mono (by decide))
  have hbo : biasOut n (s.actFld (fBias_CODE_SPAN n)) none ∈ b.host.out := by
    rw [hb, ← State.actFld_congr (hap .act (by decide))]
    exact List.mem_cons_self
  have hdef : forceSafe (2 ^ n) 0 s = raise_ fBias_EVENT_TRIP_ACT b := by
    have h8 : maskBits 8 0 = [] := by decide
    have hne : ¬ (2 ^ n = 0 ∧ (0 : Nat) = 0) := fun h => absurd h.1 (Nat.two_pow_pos n).ne'
    unfold forceSafe
    dsimp only
    rw [h8, maskBits_pow hn, if_neg hne, hb, ha, hm, hk]
    rfl
  have hr := raise_onlyRegs fBias_EVENT_TRIP_ACT b
  have hp := raise_onlyParts fBias_EVENT_TRIP_ACT b
  simp only [hdef]
  refine ⟨?_, raise_outsKept _ b _ hbo, ?_, ?_, ((hap.mono (by decide)).trans (hbp.mono (by decide))).trans (hp.mono (by decide))⟩
  · have hreg : (raise_ fBias_EVENT_TRIP_ACT b).reg rBias_TRIP = a.reg rBias_TRIP :=
      (hr _ (by simp [noteReg])).trans (State.reg_congr (hbp .regs (by decide)) _)
    rw [State.biasTripped, hreg]
    exact hbit
  · exact ((fld_raise_event _ _ (by decide) (by decide) (by decide) ⟨Blk.noConfusion, Blk.noConfusion⟩).trans
      (State.fld_congr (hbp .regs (by decide)) _)).trans (har.fld (by simp))
  · exact ((har.mono fun _ => .inl).trans fun r _ => State.reg_congr (hbp .regs (by decide)) r).andThen hr fun _ => .inr

end Sys2Proof.Machine

end

section
/-! PROOFS. The claim about bias groups, heaters, faults and the bias reset (R425-R433, R437). -/

-- The checked text is one long file: elaborating these in order bounds its threads and memory.
set_option Elab.async false

namespace Sys2Proof.Machine

/-! ## Arming and hand-over -/

theorem biasArm_claim {g : Nat} {v : W32} {s : State} (hs : s.awake = true) (hg : g < 4) (harm : v.getLsbD 31 = true) (hsrc : bits v 25 24 ≠ 3)
    (hspan : s.spanBad g = false) :
    ∃ t, exec (.biasArm g v) s = .next t ∧ t.on (fBias_GRP_ARM g) = true ∧ t.fld (fBias_GRP_SRC g) = bits v 25 24 ∧
      t.fld (fBias_GRP_STK g) = bits v 17 16 ∧ t.fld (fBias_GRP_LOAD_SEQ g) = s.fld (fBias_GRP_LOAD_SEQ g) ∧
      onlyRegs (fun r => r = rBias_GRP g) s t ∧ onlyParts [.regs] s t := by
  have hdef : exec (.biasArm g v) s = .next (((s.setFld (fBias_GRP_SRC g) (bits v 25 24)).setFld (fBias_GRP_STK g) (bits v 17 16)).setFld
      (fBias_GRP_ARM g) 1) := by
    show Host.Outcome.next (aonAccess (fun s => if g < 4 then writeGrp g v s else s) s) = _
    have hok : firstFail [(bits v 25 24 == 3 || (v.getLsbD 31 && !s.on (fBias_GRP_ARM g) && s.spanBad g), eRange)] = none := by
      simp [firstFail, hsrc, hspan]
    rw [aonAccess_awake _ hs, if_pos hg]
    unfold writeGrp
    rw [hok]
    dsimp only
    rw [if_pos harm]
  have hlt (a b c : Nat) (h : c = a + 1 - b) : bits v a b < 2 ^ c := h ▸ bits_lt v a b
  obtain ⟨x, hx⟩ : ∃ x, x = bits v 25 24 := ⟨_, rfl⟩
  obtain ⟨y, hy⟩ : ∃ y, y = bits v 17 16 := ⟨_, rfl⟩
  have hx4 : x < 4 := by rw [hx]; exact hlt 25 24 2 rfl
  have hy4 : y < 4 := by rw [hy]; exact hlt 17 16 2 rfl
  rw [← hx, ← hy] at hdef ⊢
  refine ⟨_, hdef, bne_iff_ne.2 ?_, ?_, ?_, ?_, ((setFld_onlyReg s _ _ _ _).trans (setFld_onlyReg _ _ _ _ _)).trans (setFld_onlyReg _ _ _ _ _),
    ((setFld_onlyParts s _ _).trans (setFld_onlyParts _ _ _)).trans (setFld_onlyParts _ _ _)⟩
  · simp
  · simp [Nat.mod_eq_of_lt hx4]
  · simp [Nat.mod_eq_of_lt hy4]
  · simp

/-- LOAD reaches group `h` (R428). -/
def loadStep (a : State) (h : Nat) : State := if a.fld (fBias_GRP_SRC h) = 1 then biasHandover h a else a

theorem biasGrp_ne {g h : Nat} (hne : h ≠ g) : rBias_GRP h ≠ rBias_GRP g := by
  simp only [ne_eq, RegId.mk.injEq, true_and]
  omega

/-- LOAD at groups none of which is armed. -/
theorem loadSteps_unarmed {l : List Nat} {s : State} (hl : ∀ h ∈ l, s.on (fBias_GRP_ARM h) = false) : let t := l.foldl loadStep s
    t.act = s.act ∧ outsKept s t ∧ (∀ h, t.fld (fBias_GRP_SRC h) = s.fld (fBias_GRP_SRC h)) ∧
      onlyRegs (fun r => ∃ h ∈ l, s.fld (fBias_GRP_SRC h) = 1 ∧ r = rBias_GRP h) s t ∧
      onlyParts [.act, .mon, .bias, .thm, .regs, .out] s t := by
  induction l generalizing s with
  | nil => exact ⟨rfl, fun _ h => h, fun _ => rfl, .refl _ s, .refl _ s⟩
  | cons h l ih =>
    have hstep : (loadStep s h).act = s.act ∧ outsKept s (loadStep s h) ∧ (∀ k, (loadStep s h).fld (fBias_GRP_SRC k) = s.fld (fBias_GRP_SRC k)) ∧
        (∀ k ∈ l, (loadStep s h).on (fBias_GRP_ARM k) = false) ∧
        onlyRegs (fun r => s.fld (fBias_GRP_SRC h) = 1 ∧ r = rBias_GRP h) s (loadStep s h) ∧
        onlyParts [.act, .mon, .bias, .thm, .regs, .out] s (loadStep s h) := by
      unfold loadStep
      split
      case isTrue hsrc =>
        obtain ⟨harm, -, hs, hact, -, ho, hr, hp⟩ := biasHandover_effect (g := h) s
        refine ⟨hact (hl h List.mem_cons_self), ho, fun k => ?_, fun k hk => ?_, hr.mono fun _ h => ⟨hsrc, h⟩, hp⟩
        · by_cases hkh : k = h
          · rw [hkh]; exact hs
          · exact hr.fld (biasGrp_ne hkh)
        · by_cases hkh : k = h
          · rw [hkh]; exact harm
          · exact (hr.on (biasGrp_ne hkh)).trans (hl k (List.mem_cons_of_mem _ hk))
      case isFalse =>
        exact ⟨rfl, fun _ h => h, fun _ => rfl, fun k hk => hl k (List.mem_cons_of_mem _ hk), .refl _ s, .refl _ s⟩
    obtain ⟨hact, ho, hsrc, harm, hr, hp⟩ := hstep
    obtain ⟨hact', ho', hsrc', hr', hp'⟩ := ih harm
    refine ⟨hact'.trans hact, ho.trans ho', fun k => (hsrc' k).trans (hsrc k), (hr.mono fun r hh => ⟨h, List.mem_cons_self, hh⟩).andThen hr' ?_,
      hp.trans hp'⟩
    rintro r ⟨k, hk, hks, hrk⟩
    exact ⟨k, List.mem_cons_of_mem _ hk, (hsrc k).symm.trans hks, hrk⟩

/-- What a hand-over of the armed group `g` shows, whatever else the registers `P` hold (R428). -/
def handed (g : Nat) (P : RegId → Prop) (s t : State) : Prop :=
  t.on (fBias_GRP_ARM g) = false ∧ t.fld (fBias_GRP_LOAD_SEQ g) = (s.fld (fBias_GRP_LOAD_SEQ g) + 1) % 256 ∧
    (∀ n, n < 16 → s.biasGroup n = g → Tab.get (regReset (rBias_CODE n)) t.act (rBias_CODE n) = s.reg (rBias_CODE n) ∧
      (s.biasTripped n = false → biasOut n (s.fld (fBias_CODE_SPAN n))
        (if s.on (fBias_CODE_EN n) then some (s.fld (fBias_CODE_CODE n)) else none) ∈ t.host.out)) ∧
    (∀ r, (∀ n, n < 16 → s.biasGroup n = g → r ≠ rBias_CODE n) → Tab.get (regReset r) t.act r = Tab.get (regReset r) s.act r) ∧
    onlyRegs P s t ∧ onlyParts [.act, .mon, .bias, .thm, .regs, .out] s t

theorem not_handedOver {g : Nat} {s : State} {r : RegId} (h : ∀ n, n < 16 → s.biasGroup n = g → r ≠ rBias_CODE n) : ¬ handedOver g s r :=
  fun ⟨n, hn, hg, hr⟩ => h n hn hg hr

theorem biasHandover_handed {g : Nat} {s : State} (hg : g < 4) (harm : s.on (fBias_GRP_ARM g) = true) :
    handed g (fun r => r = rBias_GRP g) s (biasHandover g s) := by
  obtain ⟨h1, h2, -, -, hact, -, hr, hp⟩ := biasHandover_effect (g := g) s
  obtain ⟨hin, hout, hdrive⟩ := hact harm
  exact ⟨h1, h2, fun n hn hgr => ⟨hin _ _ ⟨n, hn, hgr, rfl⟩, hdrive n hn hgr hg⟩, fun r h => hout _ r (not_handedOver h), hr, hp⟩

/-- Steps before and after a hand-over that touch neither its group's register nor what the active codes are taken from. -/
theorem handed.around {g : Nat} {P Q : RegId → Prop} {s a b t : State} (h : handed g P a b) (hPQ : ∀ r, P r → Q r)
    (hsa : onlyRegs (fun r => Q r ∧ (∃ k, k < 4 ∧ r = rBias_GRP k) ∧ r ≠ rBias_GRP g) s a) (hbt : onlyRegs (fun r => Q r ∧ r ≠ rBias_GRP g) b t)
    (ha : a.act = s.act) (ht : t.act = b.act) (ho : outsKept b t)
    (hap : onlyParts [.act, .mon, .bias, .thm, .regs, .out] s a) (htp : onlyParts [.act, .mon, .bias, .thm, .regs, .out] b t) :
    handed g Q s t := by
  obtain ⟨h1, h2, h3, h4, hr, hp⟩ := h
  have hgrp : onlyRegs (fun r => ∃ k, k < 4 ∧ r = rBias_GRP k) s a := hsa.mono fun r h => h.2.1
  have hgroup (n : Nat) (hn : n < 16) : a.biasGroup n = s.biasGroup n := State.biasGroup_congr hgrp hn
  have hcode (n : Nat) (hn : n < 16) : a.reg (rBias_CODE n) = s.reg (rBias_CODE n) :=
    hgrp _ (by simp only [RegId.mk.injEq, true_and, not_exists]; omega)
  have htrip (n : Nat) : a.biasTripped n = s.biasTripped n := by
    rw [State.biasTripped, hgrp rBias_TRIP (by simp only [RegId.mk.injEq, true_and, not_exists]; omega), State.biasTripped]
  refine ⟨?_, ?_, fun n hn hgr => ?_, fun r hr' => ?_, ?_, (hap.trans hp).trans htp⟩
  · exact (hbt.on (fun h => h.2 rfl)).trans h1
  · rw [hbt.fld (fun h => h.2 rfl), h2, hsa.fld (fun h => h.2.2 rfl)]
  · obtain ⟨hx, hy⟩ := h3 n hn ((hgroup n hn).trans hgr)
    refine ⟨by rw [ht, hx, hcode n hn], fun htr => ho _ ?_⟩
    have hd := hy ((htrip n).trans htr)
    have hf (hi lo : Nat) : a.fld ⟨rBias_CODE n, hi, lo⟩ = s.fld ⟨rBias_CODE n, hi, lo⟩ := State.fld_congr_reg (hcode n hn)
    have hon : a.on (fBias_CODE_EN n) = s.on (fBias_CODE_EN n) := by rw [State.on, hf, State.on]
    rw [hf, hf, hon] at hd
    exact hd
  · rw [ht, h4 r fun n hn hgr => hr' n hn ((hgroup n hn).symm.trans hgr), ha]
  · exact ((hsa.mono fun r h => h.1).trans (hr.mono hPQ)).trans (hbt.mono fun r h => h.1)

theorem biasLoadEdge_handed {g : Nat} {s : State} (hg : g < 4) (harm : s.on (fBias_GRP_ARM g) = true) (hsrc : s.fld (fBias_GRP_SRC g) = 1)
    (hother : ∀ h, h < 4 → h ≠ g → s.on (fBias_GRP_ARM h) = false) :
    handed g (fun r => r = rBias_GRP g ∨ ∃ h, h < 4 ∧ s.fld (fBias_GRP_SRC h) = 1 ∧ r = rBias_GRP h) s ((List.range 4).foldl loadStep s) := by
  obtain ⟨l1, l2, hl⟩ := List.append_of_mem (List.mem_range.2 hg)
  have hnd : (l1 ++ g :: l2).Nodup := hl ▸ List.nodup_range
  obtain ⟨-, hnd2, hdis⟩ := List.nodup_append.1 hnd
  have hmem (h : Nat) (hh : h ∈ l1 ∨ h ∈ l2) : h < 4 ∧ h ≠ g := by
    refine ⟨List.mem_range.1 (hl ▸ List.mem_append.2 (hh.imp_right (List.mem_cons_of_mem g))), ?_⟩
    rintro rfl
    exact hh.elim (fun h1 => hdis h h1 h List.mem_cons_self rfl) (List.nodup_cons.1 hnd2).1
  obtain ⟨hact, -, hsrc1, hr1, hp1⟩ := loadSteps_unarmed (l := l1) fun h hh => hother h (hmem h (.inl hh)).1 (hmem h (.inl hh)).2
  obtain ⟨a, ha⟩ : ∃ a, a = l1.foldl loadStep s := ⟨_, rfl⟩
  rw [← ha] at hact hsrc1 hr1 hp1
  have hr1' : onlyRegs (fun r => ∃ h, h ≠ g ∧ r = rBias_GRP h) s a := hr1.mono fun r ⟨h, hh, _, hr⟩ => ⟨h, (hmem h (.inl hh)).2, hr⟩
  have hga : rBias_GRP g ∉ {r | ∃ h, h ≠ g ∧ r = rBias_GRP h} := fun ⟨h, hne, hr⟩ => biasGrp_ne hne hr.symm
  have hga' : a.on (fBias_GRP_ARM g) = true := (hr1'.on hga).trans harm
  have hstep : loadStep a g = biasHandover g a := by rw [loadStep, hsrc1, if_pos hsrc]
  obtain ⟨b, hb⟩ : ∃ b, b = biasHandover g a := ⟨_, rfl⟩
  have hhand := biasHandover_handed hg hga'
  obtain ⟨hbarm, -, hbsrc, -, -, -, hbr, -⟩ := biasHandover_effect (g := g) a
  rw [← hb] at hhand hbarm hbsrc hbr
  have hbother (h : Nat) (hh : h ∈ l2) : b.on (fBias_GRP_ARM h) = false := by
    obtain ⟨hlt, hne⟩ := hmem h (.inr hh)
    rw [hbr.on (biasGrp_ne hne), hr1.on, hother h hlt hne]
    rintro ⟨k, hk, -, hr⟩
    by_cases hkh : h = k
    · exact hdis k hk k (List.mem_cons_of_mem _ (hkh ▸ hh)) rfl
    · exact biasGrp_ne hkh hr
  obtain ⟨hact2, ho2, -, hr2, hp2⟩ := loadSteps_unarmed hbother
  have hdef : (List.range 4).foldl loadStep s = l2.foldl loadStep b := by
    rw [hl, List.foldl_append, ← ha, List.foldl_cons, hstep, ← hb]
  rw [hdef]
  refine hhand.around (fun r h => .inl h) ?_ ?_ hact hact2 ho2 hp1 hp2
  · exact hr1.mono fun r ⟨h, hh, hs, hr⟩ => ⟨.inr ⟨h, (hmem h (.inl hh)).1, hs, hr⟩, ⟨h, (hmem h (.inl hh)).1, hr⟩, hr ▸ biasGrp_ne (hmem h (.inl hh)).2⟩
  · refine hr2.mono fun r ⟨h, hh, hs, hr⟩ => ?_
    obtain ⟨hlt, hne⟩ := hmem h (.inr hh)
    exact ⟨.inr ⟨h, hlt, ((hsrc1 h).symm.trans (hbr.fld (biasGrp_ne hne)).symm).trans hs, hr⟩, hr ▸ biasGrp_ne hne⟩

/-! ## Heaters -/

/-- HTR_EN as it reaches heater `n` (R433). -/
def htrStep (v was : W32) (a : State) (n : Nat) : State :=
  if v.getLsbD n && !was.getLsbD n then htrStart n a
  else if !v.getLsbD n && was.getLsbD n then (a.emit (htrPin n false)).modBias fun b => { b with htr := Tab.erase b.htr n }
  else a

theorem Tab.find_erase {κ α : Type} [DecidableEq κ] (t : Tab κ α) (k k' : κ) :
    Tab.find (Tab.erase t k) k' = if k = k' then none else Tab.find t k' := by
  induction t with
  | nil => simp [Tab.erase, Tab.find]
  | cons e r ih =>
    obtain ⟨j, w⟩ := e
    unfold Tab.erase at ih ⊢
    rw [List.filter_cons]
    by_cases hj : j = k
    · rw [if_neg (by simp [hj]), ih]
      by_cases hk : k = k'
      · rw [if_pos hk, if_pos hk]
      · rw [if_neg hk, if_neg hk, Tab.find, if_neg (by rw [hj]; exact hk)]
    · rw [if_pos (by simp [hj]), Tab.find, Tab.find, ih]
      by_cases hjk : j = k'
      · rw [if_pos hjk, if_pos hjk, if_neg (by rw [← hjk]; exact fun h => hj h.symm)]
      · rw [if_neg hjk, if_neg hjk]

/-- What heater `n` drives as its first period begins (R433). -/
def State.htrDrive (s : State) (n : Nat) : Out :=
  .heater n (if (s.reg rBias_TRIP).getLsbD (16 + n) then 0 else min (s.fld (fBias_HTR_DUTY n)) (s.fld (fBias_HTR_PERIOD n)))
    (s.fld (fBias_HTR_PERIOD n))

/-- The heaters below `k` have taken HTR_EN, and the others stand as they did. -/
def htrTaken (v was : W32) (k : Nat) (s t : State) : Prop :=
  (∀ n, n < k → v.getLsbD n = true → was.getLsbD n = false →
    Tab.find t.bias.htr n = some (s.fld (fBias_HTR_DUTY n), s.fld (fBias_HTR_PERIOD n)) ∧ s.htrDrive n ∈ t.host.out) ∧
  (∀ n, n < k → v.getLsbD n = false → was.getLsbD n = true → Tab.find t.bias.htr n = none ∧ htrPin n false ∈ t.host.out) ∧
  (∀ n, k ≤ n ∨ v.getLsbD n = was.getLsbD n → Tab.find t.bias.htr n = Tab.find s.bias.htr n) ∧
  onlyParts [.mon, .bias, .out] s t

theorem htrStep_effect (v was : W32) (n : Nat) (s : State) : let t := htrStep v was s n
    (v.getLsbD n = true → was.getLsbD n = false →
      Tab.find t.bias.htr n = some (s.fld (fBias_HTR_DUTY n), s.fld (fBias_HTR_PERIOD n)) ∧ s.htrDrive n ∈ t.host.out) ∧
    (v.getLsbD n = false → was.getLsbD n = true → Tab.find t.bias.htr n = none ∧ htrPin n false ∈ t.host.out) ∧
    (∀ m, m ≠ n ∨ v.getLsbD n = was.getLsbD n → Tab.find t.bias.htr m = Tab.find s.bias.htr m) ∧ outsKept s t ∧
    onlyParts [.mon, .bias, .out] s t := by
  dsimp only
  unfold htrStep
  cases hv : v.getLsbD n <;> cases hw : was.getLsbD n
  case false.false => exact ⟨fun h => absurd h (by decide), fun _ h => absurd h (by decide), fun _ _ => rfl, fun _ h => h, .refl _ s⟩
  case true.true => exact ⟨fun _ h => absurd h (by decide), fun h => absurd h (by decide), fun _ _ => rfl, fun _ h => h, .refl _ s⟩
  case true.false =>
    obtain ⟨hf, ho, hp⟩ := htrStart_effect n s
    refine ⟨fun _ _ => ⟨(hf n).trans (if_pos rfl), ho ▸ List.mem_cons_self⟩, fun h => absurd h (by decide), fun m hm => ?_,
      fun o h => ho ▸ List.mem_cons_of_mem _ h, hp⟩
    exact (hf m).trans (if_neg (hm.resolve_right (by decide)).symm)
  case false.true =>
    refine ⟨fun h => absurd h (by decide), fun _ _ => ⟨(Tab.find_erase _ _ _).trans (if_pos rfl), List.mem_cons_self⟩, fun m hm => ?_,
      fun o h => List.mem_cons_of_mem _ h, ((emit_onlyParts s _).mono (by decide)).trans ((modBias_onlyParts _ _).mono (by decide))⟩
    exact (Tab.find_erase _ _ _).trans (if_neg (hm.resolve_right (by decide)).symm)

theorem htrSteps_taken (v was : W32) (k : Nat) (s : State) : htrTaken v was k s ((List.range k).foldl (htrStep v was) s) := by
  induction k with
  | zero => exact ⟨fun n h => absurd h (Nat.not_lt_zero n), fun n h => absurd h (Nat.not_lt_zero n), fun _ _ => rfl, .refl _ s⟩
  | succ k ih =>
    obtain ⟨hon, hoff, hsame, hp⟩ := ih
    rw [List.range_succ, List.foldl_append, List.foldl_cons, List.foldl_nil]
    generalize (List.range k).foldl (htrStep v was) s = a at hon hoff hsame hp
    obtain ⟨hon', hoff', hsame', ho, hp'⟩ := htrStep_effect v was k a
    have hfld (f : FldId) : a.fld f = s.fld f := State.fld_congr (hp .regs (by decide)) f
    have hdrive (n : Nat) : a.htrDrive n = s.htrDrive n := by
      rw [State.htrDrive, hfld, hfld, State.reg_congr (hp .regs (by decide)), State.htrDrive]
    refine ⟨fun n hn hv hw => ?_, fun n hn hv hw => ?_, fun n hn => ?_, hp.trans hp'⟩
    · by_cases hnk : n = k
      · obtain ⟨h1, h2⟩ := hon' (hnk ▸ hv) (hnk ▸ hw)
        rw [hfld, hfld] at h1
        rw [hdrive] at h2
        rw [hnk]
        exact ⟨h1, h2⟩
      · obtain ⟨h1, h2⟩ := hon n (by omega) hv hw
        exact ⟨(hsame' n (.inl hnk)).trans h1, ho _ h2⟩
    · by_cases hnk : n = k
      · rw [hnk]
        exact hoff' (hnk ▸ hv) (hnk ▸ hw)
      · obtain ⟨h1, h2⟩ := hoff n (by omega) hv hw
        exact ⟨(hsame' n (.inl hnk)).trans h1, ho _ h2⟩
    · refine (hsame' n ?_).trans (hsame n ?_)
      · by_cases hnk : n = k
        · exact .inr (hn.elim (fun h => absurd h (by omega)) fun h => hnk ▸ h)
        · exact .inl hnk
      · exact hn.imp_left fun h => by omega

theorem htrEnable_claim {v : W32} {s : State} (hs : s.awake = true) :
    ∃ t, exec (.htrEnable v) s = .next t ∧ t.fld fBias_HTR_EN_EN = bits v 7 0 ∧
    (∀ n, n < 8 → v.getLsbD n = true → (s.reg rBias_HTR_EN).getLsbD n = false →
      Tab.find t.bias.htr n = some (s.fld (fBias_HTR_DUTY n), s.fld (fBias_HTR_PERIOD n)) ∧
      .heater n (if (s.reg rBias_TRIP).getLsbD (16 + n) then 0 else min (s.fld (fBias_HTR_DUTY n)) (s.fld (fBias_HTR_PERIOD n)))
        (s.fld (fBias_HTR_PERIOD n)) ∈ t.host.out) ∧
    (∀ n, n < 8 → v.getLsbD n = false → (s.reg rBias_HTR_EN).getLsbD n = true → Tab.find t.bias.htr n = none ∧ htrPin n false ∈ t.host.out) ∧
    (∀ n, n < 8 → v.getLsbD n = (s.reg rBias_HTR_EN).getLsbD n → Tab.find t.bias.htr n = Tab.find s.bias.htr n) ∧
    onlyRegs (fun r => r = rBias_HTR_EN) s t ∧ onlyParts [.mon, .bias, .regs, .out] s t := by
  obtain ⟨was, hw⟩ : ∃ was, was = s.reg rBias_HTR_EN := ⟨_, rfl⟩
  obtain ⟨a, ha⟩ : ∃ a, a = s.setFld fBias_HTR_EN_EN (bits v 7 0) := ⟨_, rfl⟩
  have har : onlyRegs (fun r => r = rBias_HTR_EN) s a := by rw [ha]; exact setFld_onlyReg s _ _ _ _
  have hap : onlyParts [.regs] s a := by rw [ha]; exact setFld_onlyParts s _ _
  have hen : a.fld fBias_HTR_EN_EN = bits v 7 0 := by rw [ha]; exact State.fld_setFld_self_of_lt s _ (by decide) (bits_lt v 7 0)
  obtain ⟨t, ht⟩ : ∃ t, t = (List.range 8).foldl (htrStep v was) a := ⟨_, rfl⟩
  have hdef : exec (.htrEnable v) s = .next t := by
    show Host.Outcome.next (aonAccess (fun s => writeHtrEn v s) s) = _
    rw [aonAccess_awake _ hs, ht, ha, hw]
    rfl
  obtain ⟨hon, hoff, hsame, hp⟩ := htrSteps_taken v was 8 a
  rw [← ht] at hon hoff hsame hp
  have hheater (n : Nat) (hn : n < 8) (hi lo : Nat) : a.fld ⟨rBias_HTR n, hi, lo⟩ = s.fld ⟨rBias_HTR n, hi, lo⟩ :=
    har.fld (by simp only [RegId.mk.injEq, true_and]; omega)
  have htrip : a.reg rBias_TRIP = s.reg rBias_TRIP := har _ (by simp)
  have hb : a.bias = s.bias := hap .bias (by decide)
  rw [← hw]
  refine ⟨t, hdef, (State.fld_congr (hp .regs (by decide)) _).trans hen, fun n hn h1 h2 => ?_, hoff, fun n hn h => by rw [hsame n (.inr h), hb],
    har.trans fun r _ => State.reg_congr (hp .regs (by decide)) r, (hap.mono (by decide)).trans (hp.mono (by decide))⟩
  have h := hon n hn h1 h2
  unfold State.htrDrive at h
  rw [hheater n hn, hheater n hn, htrip] at h
  exact h

theorem htrPeriod_claim {n : Nat} {s : State} (hn : n < 8) (hen : (s.reg rBias_HTR_EN).getLsbD n = true) :
    ∃ t, exec (.htrPeriod n) s = .next t ∧
    Tab.find t.bias.htr n = some (s.fld (fBias_HTR_DUTY n), s.fld (fBias_HTR_PERIOD n)) ∧
    t.host.out = .heater n (if (s.reg rBias_TRIP).getLsbD (16 + n) then 0 else min (s.fld (fBias_HTR_DUTY n)) (s.fld (fBias_HTR_PERIOD n)))
      (s.fld (fBias_HTR_PERIOD n)) :: s.host.out ∧
    (∀ m, m ≠ n → Tab.find t.bias.htr m = Tab.find s.bias.htr m) ∧ onlyParts [.mon, .bias, .out] s t := by
  obtain ⟨hf, ho, hp⟩ := htrStart_effect n s
  refine ⟨_, ?_, (hf n).trans (if_pos rfl), ho, fun m hm => (hf m).trans (if_neg hm.symm), hp⟩
  show execHtrPeriod n s = _
  rw [execHtrPeriod, if_pos ⟨hn, hen⟩]

/-! ## Faults and the reset -/

theorem biasFault_present {n : Nat} {headroom : Bool} {s : State} (hn : n < 8)
    (hclear : (s.reg rBias_FAULT).getLsbD (if headroom then 8 + n else n) = false)
    (hcode : headroom = false → 64 ≤ s.actFld (fBias_CODE_CODE n)) :
    ∃ t, exec (.biasFault n headroom true) s = .next t ∧ (t.reg rBias_FAULT).getLsbD (if headroom then 8 + n else n) = true ∧
      t.on fBias_EVENT_COMPL = true ∧
      (s.on (fBias_CFG_FAULT_OFF n) = true → t.biasTripped n = true ∧ biasOut n (s.actFld (fBias_CODE_SPAN n)) none ∈ t.host.out) ∧
      (s.on (fBias_CFG_FAULT_OFF n) = false → t.reg rBias_TRIP = s.reg rBias_TRIP ∧ t.bias = s.bias) ∧
      onlyRegs (fun r => r = rBias_FAULT ∨ r = rBias_TRIP ∨ r = rBias_EVENT ∨ noteReg r) s t ∧ onlyParts [.bias, .rings, .regs, .out] s t := by
  obtain ⟨i, hi⟩ : ∃ i, i = if headroom then 8 + n else n := ⟨_, rfl⟩
  have hi16 : i < 16 := by
    rw [hi]
    split <;> omega
  rw [← hi] at hclear ⊢
  obtain ⟨a, ha⟩ : ∃ a, a = s.setFld ⟨rBias_FAULT, i, i⟩ 1 := ⟨_, rfl⟩
  have har : onlyRegs (fun r => r = rBias_FAULT) s a := by rw [ha]; exact setFld_onlyReg s _ _ _ _
  have hap : onlyParts [.regs] s a := by rw [ha]; exact setFld_onlyParts s _ _
  have hfault : (a.reg rBias_FAULT).getLsbD i = true := by
    have h1 : i + 1 - i = 1 := by omega
    rw [← State.on_eq_getLsbD, ha]
    exact bne_iff_ne.2 (by rw [State.fld_setFld_self_of_lt s _ ⟨le_refl i, by omega⟩ (by rw [h1]; decide)]; decide)
  obtain ⟨b, hb⟩ : ∃ b, b = raise_ fBias_EVENT_COMPL a := ⟨_, rfl⟩
  have hbr : onlyRegs (fun r => r = rBias_EVENT ∨ noteReg r) a b := by rw [hb]; exact raise_onlyRegs fBias_EVENT_COMPL a
  have hbp : onlyParts [.rings, .regs, .out] a b := by rw [hb]; exact raise_onlyParts _ a
  have hbe : b.fld fBias_EVENT_COMPL = 1 := by rw [hb]; exact raise_fld_self _ _ (by decide) ⟨Blk.noConfusion, Blk.noConfusion⟩
  have hbf : b.reg rBias_FAULT = a.reg rBias_FAULT := hbr _ (by simp [noteReg])
  have hact (f : FldId) : b.actFld f = s.actFld f := State.actFld_congr ((hbp .act (by decide)).trans (hap .act (by decide))) f
  have hsb : onlyRegs (fun r => r = rBias_FAULT ∨ r = rBias_TRIP ∨ r = rBias_EVENT ∨ noteReg r) s b :=
    (har.mono fun _ => .inl).andThen hbr fun r h => .inr (.inr h)
  have hsbp : onlyParts [.bias, .rings, .regs, .out] s b := (hap.mono (by decide)).trans (hbp.mono (by decide))
  have hdef : exec (.biasFault n headroom true) s = .next (if s.on (fBias_CFG_FAULT_OFF n) then forceSafe (2 ^ n) 0 b else b) := by
    show execBiasFault n headroom true s = _
    have hpass : ¬ (s.on ⟨rBias_FAULT, i, i⟩ || (!headroom && decide (s.actFld (fBias_CODE_CODE n) < 64))) = true := by
      rw [State.on_eq_getLsbD, hclear]
      cases headroom with
      | true => simp
      | false => simpa using hcode rfl
    unfold execBiasFault
    rw [if_neg (not_le.2 hn)]
    dsimp only
    rw [← hi, if_neg (show ¬ (!true) = true by decide), if_neg hpass, ← ha, ← hb]
  by_cases hoff : s.on (fBias_CFG_FAULT_OFF n) = true
  · obtain ⟨htrip, hdrive, hev, hr, hp⟩ := forceSafe_one hn b
    refine ⟨_, by rw [hdef, if_pos hoff], ?_, bne_iff_ne.2 ?_, fun _ => ⟨htrip, by rw [← hact]; exact hdrive⟩, fun h => absurd hoff (by rw [h]; decide),
      hsb.andThen hr fun r h => .inr h, hsbp.trans hp⟩
    · rw [hr _ (by simp [noteReg]), hbf]
      exact hfault
    · rw [hev, hbe]
      decide
  · exact ⟨b, by rw [hdef, if_neg hoff], by rw [hbf]; exact hfault, bne_iff_ne.2 (by rw [hbe]; decide), fun h => absurd h hoff,
      fun _ => ⟨(hbr _ (by simp [noteReg])).trans (har _ (by simp)), (hbp .bias (by decide)).trans (hap .bias (by decide))⟩, hsb, hsbp⟩

theorem biasFault_absent {n : Nat} {headroom : Bool} {s : State} (hn : n < 8) :
    ∃ t, exec (.biasFault n headroom false) s = .next t ∧
    (t.reg rBias_FAULT).getLsbD (if headroom then 8 + n else n) = false ∧ onlyRegs (fun r => r = rBias_FAULT) s t ∧ onlyParts [.regs] s t := by
  obtain ⟨i, hi⟩ : ∃ i, i = if headroom then 8 + n else n := ⟨_, rfl⟩
  have hi16 : i < 16 := by
    rw [hi]
    split <;> omega
  rw [← hi]
  refine ⟨s.setFld ⟨rBias_FAULT, i, i⟩ 0, ?_, ?_, setFld_onlyReg s _ _ _ _, setFld_onlyParts s _ _⟩
  · show execBiasFault n headroom false s = _
    unfold execBiasFault
    rw [if_neg (not_le.2 hn), hi]
    rfl
  · rw [← State.on_eq_getLsbD]
    exact bne_eq_false_iff_eq.2 (State.fld_setFld_self_of_lt s _ ⟨le_refl i, by omega⟩ (Nat.two_pow_pos _))

/-- SRST drives bias channel `n` safe (R437). -/
def safeStep (a : State) (n : Nat) : State :=
  let span := a.actFld (fBias_CODE_SPAN n)
  let b := a.emit (biasOut n span none)
  if span = 0 then b else b.emit (biasOut n 0 none)

/-- SRST drives heater `n` low (R437). -/
def lowStep (a : State) (n : Nat) : State := a.emit (htrPin n false)

/-- The bias block as SRST leaves it, its outputs apart (R437). -/
def biasCleared (s : State) : State :=
  (((sumCodes s).resetRegs (fun r => r.blk == .bias)).resetAct (fun r => r.blk == .bias)).modBias fun b => { modInt := b.modInt }

theorem writeBiasCtl_eq {v : W32} (hv : v.getLsbD 0 = true) (s : State) :
    writeBiasCtl v s = biasCleared ((List.range 8).foldl lowStep ((List.range 16).foldl safeStep s)) := by
  unfold writeBiasCtl
  rw [if_pos hv]
  unfold biasCleared safeStep lowStep
  dsimp only

theorem safeStep_onlyParts (a : State) (n : Nat) : onlyParts [.out] a (safeStep a n) := by
  unfold safeStep
  dsimp only
  split
  · exact emit_onlyParts a _
  · exact (emit_onlyParts a _).trans (emit_onlyParts _ _)

theorem safeStep_outsKept (a : State) (n : Nat) : outsKept a (safeStep a n) := by
  unfold safeStep
  dsimp only
  split
  · exact outsKept.emit a _
  · exact outsKept.trans (outsKept.emit a _) (outsKept.emit _ _)

theorem safeStep_drives (a : State) (n : Nat) : biasOut n (a.actFld (fBias_CODE_SPAN n)) none ∈ (safeStep a n).host.out := by
  unfold safeStep
  dsimp only
  split
  · exact List.mem_cons_self
  · exact List.mem_cons_of_mem _ List.mem_cons_self

theorem biasCleared_effect (s : State) : let t := biasCleared s
    (∀ r, (r.blk = .bias → t.reg r = regReset r ∧ Tab.get (regReset r) t.act r = regReset r) ∧ (r.blk ≠ .bias → t.reg r = s.reg r)) ∧
      t.bias = { modInt := s.bias.modInt } ∧ onlyParts [.bias, .act, .thm, .regs, .hiLatch, .capt, .loHeld] s t := by
  obtain ⟨a, ha⟩ : ∃ a, a = (sumCodes s).resetRegs (fun r => r.blk == .bias) := ⟨_, rfl⟩
  have hap : onlyParts [.thm, .regs, .hiLatch, .capt, .loHeld] s a := by
    rw [ha]; exact ((sumCodes_onlyParts s).mono (by decide)).trans ((resetRegs_onlyParts _ _).mono (by decide))
  have har (r : RegId) : a.reg r = if r.blk == .bias then regReset r else s.reg r := by rw [ha]; exact State.reg_resetRegs _ _ r
  obtain ⟨t, ht⟩ : ∃ t, t = (a.resetAct (fun r => r.blk == .bias)).modBias fun b => { modInt := b.modInt } := ⟨_, rfl⟩
  have htp : onlyParts [.act, .bias] a t := by
    rw [ht]
    intro p hp
    cases p <;> simp_all [Part.same, State.modBias, State.resetAct]
  have hdef : biasCleared s = t := by rw [ht, ha, biasCleared]
  have htr (r : RegId) : t.reg r = a.reg r := State.reg_congr (htp .regs (by decide)) r
  simp only [hdef]
  refine ⟨fun r => ⟨fun hr => ⟨?_, ?_⟩, fun hr => ?_⟩, ?_, (hap.mono (by decide)).trans (htp.mono (by decide))⟩
  · rw [htr, har, if_pos (beq_iff_eq.2 hr)]
  · rw [ht]
    refine (Tab.get_filter (regReset r) a.act (fun r => !(r.blk == .bias)) r).trans ?_
    rw [beq_iff_eq.2 hr]
    rfl
  · rw [htr, har, if_neg (by rw [beq_iff_eq]; exact hr)]
  · rw [ht, ← hap .bias (by decide)]
    rfl

theorem biasSrst_claim {v : W32} {s : State} (hs : s.awake = true) (hv : v.getLsbD 0 = true) :
    ∃ t, exec (.biasSrst v) s = .next t ∧
    (∀ r, r.blk = .bias → t.reg r = regReset r ∧ Tab.get (regReset r) t.act r = regReset r) ∧ t.bias = { modInt := s.bias.modInt } ∧
    (∀ n, n < 16 → biasOut n (s.actFld (fBias_CODE_SPAN n)) none ∈ t.host.out) ∧ (∀ n, n < 8 → htrPin n false ∈ t.host.out) ∧
    onlyRegs (fun r => r.blk = .bias) s t ∧ onlyParts [.bias, .act, .thm, .regs, .hiLatch, .capt, .loHeld, .out] s t := by
  obtain ⟨a, ha⟩ : ∃ a, a = (List.range 16).foldl safeStep s := ⟨_, rfl⟩
  have hap : onlyParts [.out] s a := by rw [ha]; exact onlyParts.foldl safeStep_onlyParts _ s
  have hao (n : Nat) (hn : n < 16) : biasOut n (s.actFld (fBias_CODE_SPAN n)) none ∈ a.host.out := by
    rw [ha]
    refine mem_out_foldl_of (P := fun x => x.act = s.act) (fun x y hx => ⟨(safeStep_onlyParts x y .act (by decide)).trans hx, safeStep_outsKept x y⟩)
      (fun x hx => ?_) (List.mem_range.2 hn) rfl
    rw [← State.actFld_congr hx]
    exact safeStep_drives x n
  obtain ⟨b, hb⟩ : ∃ b, b = (List.range 8).foldl lowStep a := ⟨_, rfl⟩
  have hbp : onlyParts [.out] a b := by rw [hb]; exact onlyParts.foldl (fun a _ => emit_onlyParts a _) _ a
  have hbo : outsKept a b := by rw [hb]; exact outsKept.foldl (fun a _ => outsKept.emit a _) _ a
  have hbh (n : Nat) (hn : n < 8) : htrPin n false ∈ b.host.out := by
    rw [hb]
    exact mem_out_foldl (g := fun n => htrPin n false) (fun a _ => outsKept.emit a _) (fun a _ => List.mem_cons_self) (List.mem_range.2 hn) a
  have hdef : exec (.biasSrst v) s = .next (biasCleared b) := by
    show Host.Outcome.next (aonAccess (fun s => writeBiasCtl v s) s) = _
    rw [aonAccess_awake _ hs, writeBiasCtl_eq hv, ← ha, ← hb]
  obtain ⟨hreg, hbias, hp⟩ := biasCleared_effect b
  generalize biasCleared b = t at hdef hreg hbias hp
  have hout : t.host.out = b.host.out := hp .out (by decide)
  refine ⟨t, hdef, fun r hr => (hreg r).1 hr, ?_, fun n hn => by rw [hout]; exact hbo _ (hao n hn), fun n hn => by rw [hout]; exact hbh n hn,
    fun r hr => ?_, ((hap.mono (by decide)).trans (hbp.mono (by decide))).trans (hp.mono (by decide))⟩
  · rw [hbias, hbp .bias (by decide), hap .bias (by decide)]
  · rw [(hreg r).2 hr, State.reg_congr (hbp .regs (by decide)), State.reg_congr (hap .regs (by decide))]

/-- Settles O43: a hand-over takes the shadow codes of an armed group and drives its channels; a heater's period takes DUTY and PERIOD
together; a fault is flagged and forces the output where FAULT_OFF asks for it; SRST drives every output safe. -/
theorem biasOutputsFollow : Obligations.BiasOutputsFollow := by
  unfold Obligations.BiasOutputsFollow
  refine ⟨fun g v s hs hg ha hsrc hspan => biasArm_claim hs hg ha hsrc hspan, fun c g s hg harm hc => ?_, fun v s hs => htrEnable_claim hs,
    fun n s hn hen => htrPeriod_claim hn hen, fun n headroom s hn hcl hcode => biasFault_present hn hcl hcode,
    fun n headroom s hn => biasFault_absent hn, fun v s hs hv => biasSrst_claim hs hv⟩
  obtain ⟨rfl, hsrc⟩ | ⟨rfl, hsrc, hother⟩ := hc
  · obtain ⟨h1, h2, h3, h4, hr, hp⟩ := biasHandover_handed hg harm
    refine ⟨biasHandover g s, ?_, h1, h2, h3, h4, hr.mono fun _ => .inl, hp⟩
    show execBiasHandover g s = _
    rw [execBiasHandover, if_pos ⟨hg, harm, hsrc⟩]
  · obtain ⟨h1, h2, h3, h4, hr, hp⟩ := biasLoadEdge_handed hg harm hsrc hother
    exact ⟨_, rfl, h1, h2, h3, h4, hr.mono fun r h => h.imp_right fun h => ⟨rfl, h⟩, hp⟩

end Sys2Proof.Machine

end

section
/-! SUPPORT. What holding the beam ports and the lanes leaves: flushes and repairs, self-refresh, lanes to electrical idle (R288, R293, R442). -/

-- The checked text is one long file: elaborating these in order bounds its threads and memory.
set_option Elab.async false

namespace Sys2Proof.Machine

/-! ## Registers and parts together -/

/-- A step sets registers of `P` only and moves the parts of `l` only. -/
def moved (P : RegId → Prop) (l : List Part) (s t : State) : Prop := onlyRegs P s t ∧ onlyParts l s t

theorem moved.refl (P : RegId → Prop) (l : List Part) (s : State) : moved P l s s := ⟨.refl P s, .refl l s⟩

theorem moved.trans {P : RegId → Prop} {l : List Part} {s t u : State} (h : moved P l s t) (h' : moved P l t u) : moved P l s u :=
  ⟨h.1.trans h'.1, h.2.trans h'.2⟩

theorem moved.mono {P Q : RegId → Prop} {l m : List Part} {s t : State} (h : moved P l s t) (hP : ∀ r, P r → Q r) (hl : ∀ p ∈ l, p ∈ m) :
    moved Q m s t := ⟨h.1.mono hP, h.2.mono hl⟩

theorem moved.foldl {α : Type} {P : RegId → Prop} {l : List Part} {f : State → α → State} {xs : List α}
    (h : ∀ a, ∀ x ∈ xs, moved P l a (f a x)) (s : State) : moved P l s (xs.foldl f s) := by
  induction xs generalizing s with
  | nil => exact .refl P l s
  | cons x xs ih =>
    exact (h s x List.mem_cons_self).trans (ih (fun a y hy => h a y (List.mem_cons_of_mem _ hy)) _)

/-- A step that moves parts other than the registers. -/
theorem onlyParts.moved {l m : List Part} {s t : State} (h : onlyParts l s t) (hr : Part.regs ∉ l) (P : RegId → Prop) (hl : ∀ p ∈ l, p ∈ m) :
    moved P m s t :=
  ⟨fun r _ => State.reg_congr (h .regs hr) r, h.mono hl⟩

theorem setFld_moved {P : RegId → Prop} {l : List Part} (f : FldId) (hf : P f.reg) (hl : Part.regs ∈ l) (s : State) (v : Nat) :
    moved P l s (s.setFld f v) :=
  ⟨(setFld_onlyRegs s f v).mono fun _ h => h ▸ hf, (setFld_onlyParts s f v).mono fun _ h => List.mem_singleton.1 h ▸ hl⟩

theorem setReg_moved {P : RegId → Prop} {l : List Part} (r : RegId) (hr : P r) (hl : Part.regs ∈ l) (s : State) (w : W32) :
    moved P l s (s.setReg r w) :=
  ⟨(setReg_onlyRegs s r w).mono fun _ h => h ▸ hr, (setReg_onlyParts s r w).mono fun _ h => List.mem_singleton.1 h ▸ hl⟩

/-! ## Beam memory -/

/-- The registers that a flush or a repair may set: counts and notices, no port's STAT. -/
def memReg (r : RegId) : Prop := r.blk = .bm ∧ r.off ≠ 0 ∨ r.blk = .bmw ∨ noteReg r

/-- The parts that a flush or a repair may move. -/
def memParts : List Part := [.free, .beam, .rings, .regs, .lastNote, .out]

theorem raiseSlow_mem (e : FldId) (he : e.reg.blk = .bmw) (s : State) : moved memReg memParts s (raiseSlow e s) :=
  ⟨(raiseSlow_onlyRegs e s).mono fun r h => h.elim (fun h => .inr (.inl (h ▸ he))) fun h => .inr (.inr h),
    (raiseSlow_onlyParts e s).mono (by decide)⟩

theorem raise_mem (e : FldId) (he : e.reg.blk = .bmw) (s : State) : moved memReg memParts s (raise_ e s) :=
  ⟨(raise_onlyRegs e s).mono fun r h => h.elim (fun h => .inr (.inl (h ▸ he))) fun h => .inr (.inr h), (raise_onlyParts e s).mono (by decide)⟩

theorem addSat_mem (f : FldId) (hf : memReg f.reg) (s : State) (d : Nat) : moved memReg memParts s (s.addSat f d) :=
  setFld_moved f hf (by decide) s _

theorem logBeam_mem (addr kind src : Nat) (s : State) : moved memReg memParts s (logBeam addr kind src s) := by
  have hput (l : List BeamErr) (a : State) : moved memReg memParts a ((a.modBeam ({ · with log := l })).setFld fBmw_LOG_STAT_COUNT l.length) :=
    ((modBeam_onlyParts a _).moved (by decide) _ (by decide)).trans (setFld_moved _ (.inr (.inl rfl)) (by decide) _ _)
  have hlost (a : State) : moved memReg memParts a (raise_ fBmw_BEAM_EVENT_LOG_LOST (a.addSat fBmw_LOG_STAT_LOST)) :=
    (addSat_mem _ (.inr (.inl rfl)) a _).trans (raise_mem _ rfl _)
  have htick : moved memReg memParts s s.tick := (tick_onlyParts s).moved (by decide) _ (by decide)
  unfold logBeam
  dsimp only
  split_ifs
  · exact htick.trans (hput _ _)
  · exact htick.trans (hput _ _)
  · exact htick.trans ((hlost _).trans (hput _ _))
  · exact htick.trans (hlost _)

theorem kindField_reg (k kind : Nat) : memReg (kindField k kind).reg := by
  unfold kindField
  split_ifs <;> exact .inl ⟨rfl, by simp⟩

theorem noteKind_mem (w kind src : Nat) (s : State) : moved memReg memParts s (noteKind w kind src s) := by
  have h1 : moved memReg memParts s (logBeam w kind src (s.addSat (kindField (beamPort w) kind))) :=
    (addSat_mem _ (kindField_reg _ _) s _).trans (logBeam_mem _ _ _ _)
  unfold noteKind
  split_ifs
  · exact .refl _ _ s
  · exact h1.trans (raiseSlow_mem _ rfl _)
  · exact h1.trans (raiseSlow_mem _ rfl _)
  · exact h1

theorem count_mem (i src : Nat) (e : EvInfo) (n : Nat) (s : State) : moved memReg memParts s (count .bm i src e n s) := by
  refine ⟨(count_onlyRegs _ _ _ _ _ _).mono fun r ⟨hb, _, hc⟩ => .inl ⟨hb, ?_⟩, (count_onlyParts _ _ _ _ _ _).mono (by decide)⟩
  have h1 : 0x100 ≤ r.off := by
    have := hc.1
    rwa [hb] at this
  omega

theorem storeWord_mem (w : Nat) (b : List Byte) (p : Bool) (s : State) : moved memReg memParts s (storeWord w b p s) :=
  (storeWord_onlyParts w b p s).moved (by decide) _ (by decide)

theorem mergeWord_mem (e : MergeEnt) (i : Nat) (s : State) : moved memReg memParts s (mergeWord e i s) := by
  unfold mergeWord
  dsimp only
  split_ifs
  · exact .refl _ _ s
  · exact storeWord_mem _ _ _ s
  · exact ((count_mem _ _ _ _ s).trans (noteKind_mem _ _ _ _)).trans (storeWord_mem _ _ _ _)

theorem flushEntry_mem (e : MergeEnt) (s : State) : moved memReg memParts s (flushEntry e s) :=
  (((modBeam_onlyParts s _).moved (by decide) _ (by decide)).trans (count_mem _ _ _ _ _)).trans (.foldl (fun a i _ => mergeWord_mem e i a) _)

theorem flushLine_mem (line : Nat) (s : State) : moved memReg memParts s (flushLine line s) := by
  unfold flushLine
  split
  · exact flushEntry_mem _ s
  · exact .refl _ _ s

theorem flushPort_mem (k : Nat) (s : State) : moved memReg memParts s (flushPort k s) := .foldl (fun a e _ => flushEntry_mem e a) s

theorem applyUpset_mem (line : Nat) (upset : List (Nat × Nat)) (s : State) : moved memReg memParts s (applyUpset line upset s) := by
  refine .foldl (fun a u _ => ?_) s
  dsimp only
  split
  · exact .refl _ _ a
  · exact ((tick_onlyParts a).moved (by decide) _ (by decide)).trans ((modBeam_onlyParts _ _).moved (by decide) _ (by decide))

theorem stepLine_mem (src line : Nat) (upset : List (Nat × Nat)) (s : State) : moved memReg memParts s (stepLine src line upset s) := by
  refine ((flushLine_mem line s).trans (applyUpset_mem line upset _)).trans (.foldl (fun a i _ => ?_) _)
  dsimp only
  split
  · exact ((noteKind_mem _ _ _ a).trans (storeWord_mem _ _ _ _)).trans (addSat_mem _ (.inl ⟨rfl, by simp⟩) _ _)
  · exact noteKind_mem _ _ _ a

theorem repairOne_mem (k : Nat) (upset : List (Nat × Nat)) (s : State) : moved memReg memParts s (repairOne k upset s) := by
  unfold repairOne
  split
  · exact .refl _ _ s
  · exact ((modBeam_onlyParts s _).moved (by decide) _ (by decide)).trans (stepLine_mem _ _ _ _)

/-- What a port's entry into self-refresh leaves (R288). -/
theorem enterSelfRefresh_effect (k : Nat) (s : State) : let t := enterSelfRefresh k s
    t.fld (fBm_STAT_SELF_REF k) = 1 ∧ (∀ hi lo, fieldOk hi lo → hi < 3 ∨ 3 < lo → ∀ j, t.fld ⟨rBm_STAT j, hi, lo⟩ = s.fld ⟨rBm_STAT j, hi, lo⟩) ∧
      (∀ j, j ≠ k → t.fld (fBm_STAT_SELF_REF j) = s.fld (fBm_STAT_SELF_REF j)) ∧ moved (fun r => memReg r ∨ r = rBm_STAT k) memParts s t := by
  obtain ⟨a, ha⟩ : ∃ a, a = (Tab.get [] (flushPort k s).beam.repair k).foldl (fun a _ => repairOne k [] a) (flushPort k s) := ⟨_, rfl⟩
  have hm : moved memReg memParts s a := by
    rw [ha]
    exact (flushPort_mem k s).trans (.foldl (fun a _ _ => repairOne_mem k [] a) _)
  have hdef : enterSelfRefresh k s = a.setFld (fBm_STAT_SELF_REF k) 1 := by rw [ha]; rfl
  have hstat (j hi lo : Nat) : a.fld ⟨rBm_STAT j, hi, lo⟩ = s.fld ⟨rBm_STAT j, hi, lo⟩ := hm.1.fld (by simp [memReg, noteReg])
  have hne (j : Nat) (hj : j ≠ k) (hi lo : Nat) : (a.setFld (fBm_STAT_SELF_REF k) 1).fld ⟨rBm_STAT j, hi, lo⟩ = a.fld ⟨rBm_STAT j, hi, lo⟩ :=
    (setFld_onlyReg a _ _ _ _).fld (by simpa using hj)
  simp only [hdef]
  refine ⟨State.fld_setFld_self_of_lt a _ (by decide) (by decide), fun hi lo h hd j => ?_, fun j hj => (hne j hj _ _).trans (hstat _ _ _),
    (hm.mono (fun _ => .inl) fun _ => id).trans (setFld_moved _ (.inr rfl) (by decide) _ _)⟩
  by_cases hj : j = k
  · rw [hj, ← hstat]
    exact State.fld_setFld_other _ _ _ _ _ _ _ (by decide) (by decide) h.1 h.2 (by omega)
  · rw [hne j hj, hstat]

/-! ## Lanes -/

/-- The registers of lane `n` that its way to electrical idle may set. -/
def idleReg (n : Nat) (r : RegId) : Prop := r.blk = .ln ∧ r.inst = n ∧ 0x100 ≤ r.off

theorem idleTx_moved (n sf : Nat) (s : State) : moved (fun r => r = rLn_TX_STAT n) [.lanes, .regs, .out] s (idleTx n sf s) := by
  have hsend : onlyParts [.lanes, .out] s (sendSuperframes n sf s) := by
    unfold sendSuperframes
    dsimp only
    split
    · exact .refl _ s
    · exact ((setLane_onlyParts s _ _).mono (by decide)).trans ((emit_onlyParts _ _).mono (by decide))
  unfold idleTx
  dsimp only
  split
  · refine (hsend.moved (by decide) _ (by decide)).trans ?_
    have hset (a : State) (f : FldId) (hf : f.reg = rLn_TX_STAT n) (v : Nat) :
        moved (fun r => r = rLn_TX_STAT n) [.lanes, .regs, .out] a (a.setFld f v) := setFld_moved f hf (by decide) a v
    have hamp (a : State) : moved (fun r => r = rLn_TX_STAT n) [.lanes, .regs, .out] a (a.setAmp n 0) :=
      ((modLane_onlyParts a _ _).moved (by decide) _ (by decide)).trans (hset _ (fLn_TX_STAT_AMP n) rfl _)
    have hout (a : State) (o : Out) : moved (fun r => r = rLn_TX_STAT n) [.lanes, .regs, .out] a (a.emit o) :=
      (emit_onlyParts a o).moved (by decide) _ (by decide)
    exact ((hset _ (fLn_TX_STAT_STATE n) rfl _).trans (hamp _)).trans (hout _ _)
  · exact .refl _ _ s

theorem setRx_moved (n st : Nat) (s : State) : moved (fun r => r = rLn_RX_STAT n ∨ r = rLn_FEC_STAT n) [.regs] s (s.setRx n st) := by
  have hset (f : FldId) (hf : f.reg = rLn_RX_STAT n ∨ f.reg = rLn_FEC_STAT n) (a : State) (v : Nat) :
      moved (fun r => r = rLn_RX_STAT n ∨ r = rLn_FEC_STAT n) [.regs] a (a.setFld f v) := setFld_moved f hf (by decide) a v
  obtain ⟨a, ha⟩ : ∃ a, a = (s.setFld (fLn_RX_STAT_STATE n) st).setFld (fLn_RX_STAT_LOCK n)
    (if st = rxLocked ∨ st = rxIdle ∨ st = rxWake then 1 else 0) := ⟨_, rfl⟩
  have h1 : moved (fun r => r = rLn_RX_STAT n ∨ r = rLn_FEC_STAT n) [.regs] s a := by
    rw [ha]
    exact (hset (fLn_RX_STAT_STATE n) (.inl rfl) s _).trans (hset (fLn_RX_STAT_LOCK n) (.inl rfl) _ _)
  have hmem (c : Prop) [Decidable c] : moved (fun r => r = rLn_RX_STAT n ∨ r = rLn_FEC_STAT n) [.regs] a
      (if c then a else a.setFld (fLn_RX_STAT_MEM n) 0) := by
    split
    · exact .refl _ _ a
    · exact hset (fLn_RX_STAT_MEM n) (.inl rfl) a 0
  unfold State.setRx
  dsimp only
  rw [← ha]
  split
  · exact h1.trans (hmem _)
  · exact (h1.trans (hmem _)).trans (hset (fLn_FEC_STAT_SF_LOCK n) (.inr rfl) _ 0)

theorem rx_setRx (s : State) (n : Nat) {st : Nat} (h : st < 16) : (s.setRx n st).rx n = st := by
  have hset (a : State) (hi lo v : Nat) (hf : fieldOk hi lo) (hd : 3 < lo) (ha : a.rx n = st) :
      (a.setFld ⟨rLn_RX_STAT n, hi, lo⟩ v).rx n = st :=
    (State.fld_setFld_other a _ _ _ _ _ _ hf.1 hf.2 (by decide) (by decide) (by omega)).trans ha
  have hfec (a : State) (ha : a.rx n = st) : (a.setFld (fLn_FEC_STAT_SF_LOCK n) 0).rx n = st :=
    ((setFld_onlyReg a _ _ _ _).fld (by simp)).trans ha
  have h0 : (s.setFld (fLn_RX_STAT_STATE n) st).rx n = st := State.fld_setFld_self_of_lt s _ (by decide) h
  obtain ⟨a, ha⟩ : ∃ a, a = (s.setFld (fLn_RX_STAT_STATE n) st).setFld (fLn_RX_STAT_LOCK n)
    (if st = rxLocked ∨ st = rxIdle ∨ st = rxWake then 1 else 0) := ⟨_, rfl⟩
  have h1 : a.rx n = st := by rw [ha]; exact hset _ 9 9 _ (by decide) (by decide) h0
  have hmem (c : Prop) [Decidable c] : (if c then a else a.setFld (fLn_RX_STAT_MEM n) 0).rx n = st := by
    split
    · exact h1
    · exact hset a 17 16 0 (by decide) (by decide) h1
  unfold State.setRx
  dsimp only
  rw [← ha]
  split
  · exact hmem _
  · exact hfec _ (hmem _)

theorem add48_moved (lo hi : RegId) (d : Nat) (s : State) : moved (fun r => r = lo ∨ r = hi) [.regs] s (add48 lo hi d s) := by
  have h1 (w : W32) (v : Nat) : moved (fun r => r = lo ∨ r = hi) [.regs] s ((s.setReg lo w).setFld ⟨hi, 15, 0⟩ v) :=
    (setReg_moved lo (.inl rfl) (by decide) s w).trans (setFld_moved ⟨hi, 15, 0⟩ (.inr rfl) (by decide) _ _)
  unfold add48
  dsimp only
  split
  · exact (h1 _ _).trans (setFld_moved ⟨hi, 31, 31⟩ (.inr rfl) (by decide) _ _)
  · exact h1 _ _

/-- What the way of lane `n`'s receiver to electrical idle leaves (R442). -/
theorem toRxIdle_effect (n : Nat) (s : State) : let t := toRxIdle n s
    (s.mode n = m400 → s.rx n = rxLocked → t.rx n = rxIdle) ∧ moved (idleReg n) [.lanes, .regs] s t := by
  dsimp only
  unfold toRxIdle
  split
  case isFalse h => exact ⟨fun hm hr => absurd ⟨hm, hr⟩ h, .refl _ _ s⟩
  case isTrue h =>
    obtain ⟨p, hp⟩ : ∃ p, p = flush (s.det n) ⟨s.lane n, [], 0⟩ := ⟨_, rfl⟩
    obtain ⟨a, ha⟩ : ∃ a, a = addInner n p.inner (s.setLane n { p.lane with rcpt := none, samples := [], sigSince := none }) := ⟨_, rfl⟩
    have hm : moved (idleReg n) [.lanes, .regs] s a := by
      rw [ha]
      refine ((setLane_onlyParts s _ _).moved (by decide) _ (by decide)).trans ((add48_moved _ _ _ _).mono (fun r h => ?_) (by decide))
      obtain rfl | rfl := h <;> exact ⟨rfl, rfl, by simp⟩
    obtain ⟨b, hb⟩ : ∃ b, b = (a.setRx n rxIdle).setFld (fLn_RX_STAT_SIGDET n) 0 := ⟨_, rfl⟩
    have hset (x : State) (f : FldId) (hf : idleReg n f.reg) (v : Nat) : moved (idleReg n) [.lanes, .regs] x (x.setFld f v) :=
      setFld_moved f hf (by decide) x v
    have hbm : moved (idleReg n) [.lanes, .regs] a b := by
      rw [hb]
      refine ((setRx_moved n rxIdle a).mono (fun r h => ?_) (by decide)).trans (hset _ _ ⟨rfl, rfl, by simp⟩ _)
      obtain rfl | rfl := h <;> exact ⟨rfl, rfl, by simp⟩
    have hbrx : b.rx n = rxIdle := by
      rw [hb]
      exact (State.fld_setFld_other _ _ _ _ _ _ _ (by decide) (by decide) (by decide) (by decide) (by decide)).trans (rx_setRx a n (by decide))
    dsimp only
    rw [← hp, ← ha, ← hb]
    split
    · exact ⟨fun _ _ => ((setFld_onlyReg b _ _ _ _).fld (by simp)).trans hbrx, (hm.trans hbm).trans (hset _ _ ⟨rfl, rfl, by simp⟩ _)⟩
    · exact ⟨fun _ _ => hbrx, hm.trans hbm⟩

/-- Lane `n` goes to electrical idle, transmitter and receiver (R442). -/
def idleLane (sf : Nat → Nat) (a : State) (n : Nat) : State := toRxIdle n (idleTx n (sf n) a)

/-- Lanes going to electrical idle: each locked receiver at 400G does. -/
theorem idleLanes_effect (sf : Nat → Nat) (l : List Nat) (hl : l.Nodup) (s : State) : let t := l.foldl (idleLane sf) s
    (∀ n ∈ l, s.mode n = m400 → s.rx n = rxLocked → t.rx n = rxIdle) ∧
      moved (fun r => ∃ n, n ∈ l ∧ idleReg n r) [.lanes, .regs, .out] s t := by
  induction l generalizing s with
  | nil => exact ⟨fun n hn => absurd hn List.not_mem_nil, .refl _ _ s⟩
  | cons n l ih =>
    obtain ⟨hnl, hnd⟩ := List.nodup_cons.1 hl
    obtain ⟨hrx, hm⟩ := toRxIdle_effect n (idleTx n (sf n) s)
    have htx := idleTx_moved n (sf n) s
    have hstep : moved (idleReg n) [.lanes, .regs, .out] s (idleLane sf s n) :=
      (htx.mono (fun r h => by rw [h]; exact ⟨rfl, rfl, by simp⟩) fun _ => id).trans (hm.mono (fun _ => id) (by decide))
    obtain ⟨hall, hrest⟩ := ih hnd (idleLane sf s n)
    rw [List.foldl_cons]
    refine ⟨fun m hm' hmode hlock => ?_, (hstep.mono (fun r h => ⟨n, List.mem_cons_self, h⟩) fun _ => id).trans
      (hrest.mono (fun r ⟨k, hk, h⟩ => ⟨k, List.mem_cons_of_mem _ hk, h⟩) fun _ => id)⟩
    by_cases hmn : m = n
    · subst hmn
      have h1 : (idleLane sf s m).rx m = rxIdle :=
        hrx ((htx.1.fld (by simp)).trans hmode) ((htx.1.fld (by simp)).trans hlock)
      refine (hrest.1.fld ?_).trans h1
      rintro ⟨k, hk, -, hkm, -⟩
      have hmk : m = k := hkm
      exact hnl (hmk ▸ hk)
    · have hne (o hi lo : Nat) : (idleLane sf s n).fld ⟨⟨.ln, m, o⟩, hi, lo⟩ = s.fld ⟨⟨.ln, m, o⟩, hi, lo⟩ :=
        hstep.1.fld fun h => hmn h.2.1
      exact hall m ((List.mem_cons.1 hm').resolve_left hmn) ((hne _ _ _).trans hmode) ((hne _ _ _).trans hlock)

end Sys2Proof.Machine

end

section
/-! SUPPORT. What the end of a power transition leaves (R442, R449, R452). -/

-- The checked text is one long file: elaborating these in order bounds its threads and memory.
set_option Elab.async false

namespace Sys2Proof.Machine

/-! ## The clocks of the shuttles (R442) -/

/-- A shuttle without the marks of its timer's clock. -/
def Shuttle.ungated (h : Shuttle) : Shuttle := { h with gateAt := none, tmrAt := 0 }

theorem Shuttle.ungated_gate (h : Shuttle) (still : Bool) (up : Nat) : (h.gate still up).ungated = h.ungated := by
  unfold Shuttle.gate
  split <;> split <;> rfl

theorem gate_ungated (g : Nat → Bool) (up n : Nat) (t : Tab Nat Shuttle) :
    (Tab.get ({} : Shuttle) (t.map fun e => (e.1, e.2.gate (g e.1) up)) n).ungated = (Tab.get ({} : Shuttle) t n).ungated := by
  induction t with
  | nil => rfl
  | cons e r ih =>
    simp only [List.map_cons, Tab.get]
    by_cases h : e.1 = n
    · rw [if_pos h, if_pos h, Shuttle.ungated_gate]
    · rw [if_neg h, if_neg h, ih]

theorem gateShuttles_ungated (s : State) (n : Nat) : ((gateShuttles s).shut n).ungated = (s.shut n).ungated :=
  gate_ungated s.shGated s.up n s.sht.sh

theorem gateShuttles_onlyParts (s : State) : onlyParts [.sht] s (gateShuttles s) := by
  intro p hp
  cases p <;> simp_all [Part.same, gateShuttles]

theorem sendLtr_onlyParts (s : State) : onlyParts [.out] s (sendLtr s) := by
  unfold sendLtr
  dsimp only
  split
  · exact emit_onlyParts s _
  · exact .refl _ s

/-! ## The end of a transition -/

/-- State `p` is reached, and the LTR message sent, before what an entry or an exit does (R449, R457). -/
def reached (p : Nat) (s : State) : State :=
  sendLtr (gateShuttles (((s.setFld fPwr_STATE_STATE p).setFld fPwr_STATE_TRANS 0).modPwr fun w =>
    { w with going := none, since := s.up, deeper := none }))

theorem reached_effect {p : Nat} (hp : p < 8) (s : State) : let t := reached p s
    t.fld fPwr_STATE_STATE = p ∧ t.fld fPwr_STATE_TRANS = 0 ∧ t.fld fPwr_STATE_PENDING = s.fld fPwr_STATE_PENDING ∧
      t.pwr = { s.pwr with going := none, since := s.up, deeper := none } ∧ (∀ n, (t.shut n).ungated = (s.shut n).ungated) ∧
      moved (fun r => r = rPwr_STATE) [.pwr, .sht, .regs, .out] s t := by
  obtain ⟨a, ha⟩ : ∃ a, a = (s.setFld fPwr_STATE_STATE p).setFld fPwr_STATE_TRANS 0 := ⟨_, rfl⟩
  have har : moved (fun r => r = rPwr_STATE) [.regs] s a := by
    have hset (x : State) (f : FldId) (hf : f.reg = rPwr_STATE) (v : Nat) : moved (fun r => r = rPwr_STATE) [.regs] x (x.setFld f v) :=
      setFld_moved f hf (by decide) x v
    rw [ha]
    exact (hset s fPwr_STATE_STATE rfl p).trans (hset _ fPwr_STATE_TRANS rfl 0)
  have hstate : a.fld fPwr_STATE_STATE = p := by
    rw [ha]
    exact (State.fld_setFld_other _ _ _ _ _ _ _ (by decide) (by decide) (by decide) (by decide) (by decide)).trans
      (State.fld_setFld_self_of_lt s _ (by decide) hp)
  have htrans : a.fld fPwr_STATE_TRANS = 0 := by rw [ha]; exact State.fld_setFld_self_of_lt _ _ (by decide) (by decide)
  have hpend : a.fld fPwr_STATE_PENDING = s.fld fPwr_STATE_PENDING := by
    rw [ha]
    exact (State.fld_setFld_other _ _ _ _ _ _ _ (by decide) (by decide) (by decide) (by decide) (by decide)).trans
      (State.fld_setFld_other _ _ _ _ _ _ _ (by decide) (by decide) (by decide) (by decide) (by decide))
  obtain ⟨b, hb⟩ : ∃ b, b = a.modPwr fun w => { w with going := none, since := s.up, deeper := none } := ⟨_, rfl⟩
  have hbp : onlyParts [.pwr] a b := by rw [hb]; exact modPwr_onlyParts a _
  have hbw : b.pwr = { s.pwr with going := none, since := s.up, deeper := none } := by rw [hb, ← har.2 .pwr (by decide)]; rfl
  have hgp := gateShuttles_onlyParts b
  have hlp := sendLtr_onlyParts (gateShuttles b)
  have hdef : reached p s = sendLtr (gateShuttles b) := by rw [hb, ha]; rfl
  have hbt : onlyParts [.sht, .out] b (sendLtr (gateShuttles b)) := (hgp.mono (by decide)).trans (hlp.mono (by decide))
  have hf (f : FldId) : (sendLtr (gateShuttles b)).fld f = a.fld f :=
    (State.fld_congr (hbt .regs (by decide)) f).trans (State.fld_congr (hbp .regs (by decide)) f)
  simp only [hdef]
  refine ⟨(hf _).trans hstate, (hf _).trans htrans, (hf _).trans hpend, (hbt .pwr (by decide)).trans hbw, fun n => ?_, ?_⟩
  · rw [State.shut_congr (hlp .sht (by decide)), gateShuttles_ungated, State.shut_congr (hbp .sht (by decide)), State.shut_congr (har.2 .sht (by decide))]
  · exact ((har.mono (fun _ => id) (by decide)).trans (hbp.moved (by decide) _ (by decide))).trans (hbt.moved (by decide) _ (by decide))

theorem transitionEnded_settled {hold : State → State} {p : Nat} {s : State} (hg : s.pwr.going = some p)
    (hpend : (endTransition hold p s).fld fPwr_STATE_PENDING = 7) (hl : s.entering = false ∨ (endTransition hold p s).pwr.latch = none) :
    transitionEnded hold s = (endTransition hold p s).setFld fPwr_STATE_PENDING 7 := by
  have hno : ¬ (s.entering = true ∧ (endTransition hold p s).pwr.latch.isSome = true) := by
    rintro ⟨h1, h2⟩
    obtain h | h := hl
    · rw [h] at h1; exact Bool.false_ne_true h1
    · rw [h] at h2; exact absurd h2 (by decide)
  unfold transitionEnded
  rw [hg]
  dsimp only
  rw [if_neg hno, if_pos (.inl hpend)]

theorem exec_transitionEnd {s : State} {p : Nat} (hg : s.pwr.going = some p) (hs : s.pwr.since ≤ s.up) :
    exec (.pwrTransitionEnd 0) s = .next (transitionEnded enterHold s) := by
  show execPwrTransitionEnd 0 s = _
  have hpass : passTo (s.pwr.since + 0 * 1000 * nsU) s = s := by
    have h0 : s.pwr.since + 0 * 1000 * nsU = s.pwr.since := by omega
    rw [h0, passTo, if_neg (not_lt.2 hs)]
  have hsome : ¬ (some p).isNone = true := Bool.false_ne_true
  unfold execPwrTransitionEnd
  rw [hpass, hg, if_neg hsome]

/-- The event of a change of state, and the free slot of the pending request (R449). -/
def changed (s : State) : State := (raise_ fPwr_EVENT_STATE_CHG s).setFld fPwr_STATE_PENDING 7

theorem changed_effect (s : State) : let t := changed s
    t.fld fPwr_STATE_STATE = s.fld fPwr_STATE_STATE ∧ t.fld fPwr_STATE_TRANS = s.fld fPwr_STATE_TRANS ∧ t.on fPwr_EVENT_STATE_CHG = true ∧
      (∀ k, k < 32 → k ≠ 0 → t.fld ⟨rPwr_EVENT, k, k⟩ = s.fld ⟨rPwr_EVENT, k, k⟩) ∧
      moved (fun r => r = rPwr_STATE ∨ r = rPwr_EVENT ∨ noteReg r) [.rings, .regs, .out] s t := by
  obtain ⟨a, ha⟩ : ∃ a, a = raise_ fPwr_EVENT_STATE_CHG s := ⟨_, rfl⟩
  have har : onlyRegs (fun r => r = rPwr_EVENT ∨ noteReg r) s a := by rw [ha]; exact raise_onlyRegs fPwr_EVENT_STATE_CHG s
  have hap : onlyParts [.rings, .regs, .out] s a := by rw [ha]; exact raise_onlyParts _ s
  have hae : a.fld fPwr_EVENT_STATE_CHG = 1 := by rw [ha]; exact raise_fld_self _ _ (by decide) ⟨Blk.noConfusion, Blk.noConfusion⟩
  have hak (k : Nat) (hk : k < 32) (h0 : k ≠ 0) : a.fld ⟨rPwr_EVENT, k, k⟩ = s.fld ⟨rPwr_EVENT, k, k⟩ := by
    rw [ha]; exact fld_raise_event _ _ (by decide) hk h0 ⟨Blk.noConfusion, Blk.noConfusion⟩
  have hdef : changed s = a.setFld fPwr_STATE_PENDING 7 := by rw [ha]; rfl
  have hstate (hi lo : Nat) (h : fieldOk hi lo) (hd : hi < 16 ∨ 18 < lo) : (a.setFld fPwr_STATE_PENDING 7).fld ⟨rPwr_STATE, hi, lo⟩ = s.fld ⟨rPwr_STATE, hi, lo⟩ :=
    (State.fld_setFld_other _ _ _ _ _ _ _ (by decide) (by decide) h.1 h.2 (by omega)).trans (har.fld (by simp [noteReg]))
  have hev (hi lo : Nat) : (a.setFld fPwr_STATE_PENDING 7).fld ⟨rPwr_EVENT, hi, lo⟩ = a.fld ⟨rPwr_EVENT, hi, lo⟩ :=
    (setFld_onlyReg a _ _ _ _).fld (by simp)
  simp only [hdef]
  refine ⟨hstate _ _ (by decide) (by decide), hstate _ _ (by decide) (by decide), bne_iff_ne.2 (by rw [hev, hae]; decide),
    fun k hk h0 => (hev _ _).trans (hak k hk h0), ?_⟩
  exact moved.trans ⟨har.mono fun _ => .inr, hap⟩ (setFld_moved fPwr_STATE_PENDING (.inl rfl) (by decide) a 7)

/-! ## The entry into P2 and P3 (R442) -/

theorem selfRefreshes_effect (l : List Nat) (s : State) : let t := l.foldl (fun a k => enterSelfRefresh k a) s
    (∀ k, k ∈ l ∨ s.fld (fBm_STAT_SELF_REF k) = 1 → t.fld (fBm_STAT_SELF_REF k) = 1) ∧
      moved (fun r => memReg r ∨ ∃ k, r = rBm_STAT k) memParts s t := by
  induction l generalizing s with
  | nil => exact ⟨fun k h => h.resolve_left List.not_mem_nil, .refl _ _ s⟩
  | cons n l ih =>
    obtain ⟨hself, -, hother, hm⟩ := enterSelfRefresh_effect n s
    obtain ⟨hall, hm'⟩ := ih (enterSelfRefresh n s)
    rw [List.foldl_cons]
    refine ⟨fun k hk => hall k ?_, (hm.mono (fun r h => h.imp_right fun h => ⟨n, h⟩) fun _ => id).trans hm'⟩
    by_cases hkn : k = n
    · exact .inr (hkn ▸ hself)
    · exact hk.imp (fun h => (List.mem_cons.1 h).resolve_left hkn) fun h => (hother k hkn).trans h

/-- What P2 and P3 hold leaves. -/
theorem enterHold_effect (s : State) : let t := enterHold s
    (∀ k, k < 16 → s.on (fBm_STAT_TRAINED k) = true → t.on (fBm_STAT_SELF_REF k) = true) ∧
      (∀ n, n < 8 → s.mode n = m400 → s.rx n = rxLocked → t.rx n = rxIdle) ∧
      moved (fun r => r.blk = .ln ∨ memReg r ∨ ∃ k, r = rBm_STAT k) (.lanes :: memParts) s t := by
  obtain ⟨sf, hsf⟩ : ∃ sf : Nat → Nat, sf = fun n => Config.superframes n s.free := ⟨_, rfl⟩
  obtain ⟨a, ha⟩ : ∃ a, a = (List.range 8).foldl (idleLane sf) s.tick := ⟨_, rfl⟩
  obtain ⟨hrx, hm⟩ := idleLanes_effect sf (List.range 8) List.nodup_range s.tick
  rw [← ha] at hrx hm
  have htick : moved (fun r => r.blk = .ln ∨ memReg r ∨ ∃ k, r = rBm_STAT k) (.lanes :: memParts) s s.tick :=
    (tick_onlyParts s).moved (by decide) _ (by decide)
  have hm1 : moved (fun r => r.blk = .ln ∨ memReg r ∨ ∃ k, r = rBm_STAT k) (.lanes :: memParts) s a :=
    htick.trans (hm.mono (fun r ⟨_, _, h⟩ => .inl h.1) (by decide))
  obtain ⟨l, hl⟩ : ∃ l, l = (List.range 16).filter (fun k => s.on (fBm_STAT_TRAINED k)) := ⟨_, rfl⟩
  obtain ⟨hself, hm2⟩ := selfRefreshes_effect l a
  have hdef : enterHold s = l.foldl (fun a k => enterSelfRefresh k a) a := by rw [hl, ha, hsf]; rfl
  simp only [hdef]
  refine ⟨fun k hk ht => bne_iff_ne.2 ?_, fun n hn hmode hlock => ?_, hm1.trans (hm2.mono (fun _ => .inr) (by decide))⟩
  · rw [hself k (.inl (by rw [hl, List.mem_filter]; exact ⟨List.mem_range.2 hk, ht⟩))]
    decide
  · have hlane : (l.foldl (fun a k => enterSelfRefresh k a) a).rx n = a.rx n := hm2.1.fld (by simp [memReg, noteReg])
    rw [hlane]
    exact hrx n (List.mem_range.2 hn) hmode hlock

/-! ## The exit (R452) -/

theorem leaveHold_effect (s : State) : let t := leaveHold s
    (∀ k, k < 16 → s.beam.resets.contains k = false → s.testing (8 + k) = false → t.on (fBm_STAT_SELF_REF k) = false) ∧
      moved (fun r => ∃ k, k < 16 ∧ r = rBm_STAT k) [.regs] s t := by
  obtain ⟨l, hl⟩ : ∃ l, l = (List.range 16).filter (fun k => !s.beam.resets.contains k && !s.testing (8 + k)) := ⟨_, rfl⟩
  have hfold (l : List Nat) (a : State) : (∀ k, k ∈ l ∨ a.fld (fBm_STAT_SELF_REF k) = 0 →
      (l.foldl (fun a k => a.setFld (fBm_STAT_SELF_REF k) 0) a).fld (fBm_STAT_SELF_REF k) = 0) := by
    induction l generalizing a with
    | nil => exact fun k h => h.resolve_left List.not_mem_nil
    | cons n l ih =>
      intro k hk
      refine ih _ k ?_
      by_cases hkn : k = n
      · exact .inr (hkn ▸ State.fld_setFld_self_of_lt a _ (by decide) (by decide))
      · exact hk.imp (fun h => (List.mem_cons.1 h).resolve_left hkn) fun h => ((setFld_onlyReg a _ _ _ _).fld (by simpa using hkn)).trans h
  have hdef : leaveHold s = l.foldl (fun a k => a.setFld (fBm_STAT_SELF_REF k) 0) s := by rw [hl]; rfl
  simp only [hdef]
  refine ⟨fun k hk hr ht => bne_eq_false_iff_eq.2 (hfold l s k (.inl ?_)), .foldl (fun a k hk => ?_) s⟩
  · rw [hl, List.mem_filter, hr, ht]
    exact ⟨List.mem_range.2 hk, rfl⟩
  · rw [hl, List.mem_filter] at hk
    exact setFld_moved _ ⟨k, List.mem_range.1 hk.1, rfl⟩ (by decide) a 0

/-- What the record of an exit from P2 leaves (R452). -/
theorem recordExit_effect {l : WakeLatch} {since : Nat} {s : State} (hl : s.pwr.latch = some l) (hm : l.mask < 256) (hf : l.first < 8) :
    let t := recordExit 2 since s
    t.fld fPwr_WAKE_LAST_SRC = l.first ∧ t.fld fPwr_WAKE_LAST_MASK = l.mask ∧ t.fld fPwr_WAKE_LAST_FROM = 2 ∧
      t.on fPwr_WAKE_LAST_ENTRY = l.entry ∧ t.fld fPwr_WAKE_STAY_US = min (2 ^ 32 - 1) ((s.up - since) / 65536000) ∧
      t.fld fPwr_WAKE_CNT_P2 = min 65535 (s.fld fPwr_WAKE_CNT_P2 + 1) ∧ t.fld fPwr_EVENT_WAKE = 1 ∧
      moved (fun r => r.blk = .pwr ∧ r ≠ rPwr_STATE ∨ noteReg r) [.pwr, .rings, .regs, .out] s t := by
  obtain ⟨e, he⟩ : ∃ e, e = if l.entry then 1 else 0 := ⟨_, rfl⟩
  have he2 : e < 2 := by rw [he]; split_ifs <;> decide
  obtain ⟨a, ha⟩ : ∃ a, a = (((s.setFld fPwr_WAKE_LAST_MASK l.mask).setFld fPwr_WAKE_LAST_FROM 2).setFld fPwr_WAKE_LAST_ENTRY e).setFld
    fPwr_WAKE_LAST_SRC l.first := ⟨_, rfl⟩
  have hset (x : State) (f : FldId) (hf : f.reg.blk = .pwr ∧ f.reg ≠ rPwr_STATE) (v : Nat) :
      moved (fun r => r.blk = .pwr ∧ r ≠ rPwr_STATE ∨ noteReg r) [.pwr, .rings, .regs, .out] x (x.setFld f v) :=
    setFld_moved f (.inl hf) (by decide) x v
  have har : onlyRegs (fun r => r = rPwr_WAKE_LAST) s a := by
    rw [ha]
    exact (((setFld_onlyReg s _ _ _ _).trans (setFld_onlyReg _ _ _ _ _)).trans (setFld_onlyReg _ _ _ _ _)).trans (setFld_onlyReg _ _ _ _ _)
  have ham : moved (fun r => r.blk = .pwr ∧ r ≠ rPwr_STATE ∨ noteReg r) [.pwr, .rings, .regs, .out] s a := by
    rw [ha]
    have hne : rPwr_WAKE_LAST.blk = .pwr ∧ rPwr_WAKE_LAST ≠ rPwr_STATE := ⟨rfl, by simp⟩
    exact (((hset s fPwr_WAKE_LAST_MASK hne _).trans (hset _ fPwr_WAKE_LAST_FROM hne _)).trans (hset _ fPwr_WAKE_LAST_ENTRY hne _)).trans
      (hset _ fPwr_WAKE_LAST_SRC hne _)
  have hmask : a.fld fPwr_WAKE_LAST_MASK = l.mask := by rw [ha]; simp [Nat.mod_eq_of_lt hm]
  have hfrom : a.fld fPwr_WAKE_LAST_FROM = 2 := by rw [ha]; simp
  have hentry : a.fld fPwr_WAKE_LAST_ENTRY = e := by rw [ha]; simp [Nat.mod_eq_of_lt he2]
  have hsrc : a.fld fPwr_WAKE_LAST_SRC = l.first := by rw [ha]; simp [Nat.mod_eq_of_lt hf]
  obtain ⟨stay, hstay⟩ : ∃ stay, stay = min (2 ^ 32 - 1) ((s.up - since) / (1000 * nsU)) := ⟨_, rfl⟩
  obtain ⟨b, hb⟩ : ∃ b, b = (a.setFld fPwr_WAKE_STAY_US stay).modPwr ({ · with latch := none }) := ⟨_, rfl⟩
  have hbr : onlyRegs (fun r => r = rPwr_WAKE_STAY) a b := by rw [hb]; exact setFld_onlyReg a _ _ _ _
  have hbm : moved (fun r => r.blk = .pwr ∧ r ≠ rPwr_STATE ∨ noteReg r) [.pwr, .rings, .regs, .out] a b := by
    rw [hb]; exact (hset a fPwr_WAKE_STAY_US ⟨rfl, by simp⟩ _).trans ((modPwr_onlyParts _ _).moved (by decide) _ (by decide))
  have hbs : b.fld fPwr_WAKE_STAY_US = stay := by
    rw [hb]
    refine State.fld_setFld_self_of_lt a _ (by decide) ?_
    rw [hstay]
    omega
  obtain ⟨c, hc⟩ : ∃ c, c = b.addSat fPwr_WAKE_CNT_P2 := ⟨_, rfl⟩
  have hcr : onlyRegs (fun r => r = rPwr_WAKE_CNT) b c := by rw [hc]; exact addSat_onlyReg b _ _ _ _
  have hcm : moved (fun r => r.blk = .pwr ∧ r ≠ rPwr_STATE ∨ noteReg r) [.pwr, .rings, .regs, .out] b c := by
    rw [hc]; exact hset b fPwr_WAKE_CNT_P2 ⟨rfl, by simp⟩ _
  have hcc : c.fld fPwr_WAKE_CNT_P2 = min 65535 (s.fld fPwr_WAKE_CNT_P2 + 1) := by
    have hsame : b.fld fPwr_WAKE_CNT_P2 = s.fld fPwr_WAKE_CNT_P2 := (hbr.fld (by simp)).trans (har.fld (by simp))
    rw [← hsame, hc]
    exact State.fld_addSat_self b _ _ (by decide) (by decide)
  have htr := raise_onlyRegs fPwr_EVENT_WAKE c
  have hdef : recordExit 2 since s = raise_ fPwr_EVENT_WAKE c := by
    unfold recordExit
    rw [hl]
    dsimp only [Option.getD_some]
    rw [if_neg (show ¬ (2 = 3) by decide), ← he, ← ha, ← hstay, ← hb, ← hc]
  have hlast (hi lo : Nat) : (raise_ fPwr_EVENT_WAKE c).fld ⟨rPwr_WAKE_LAST, hi, lo⟩ = a.fld ⟨rPwr_WAKE_LAST, hi, lo⟩ :=
    ((htr.fld (by simp [noteReg])).trans (hcr.fld (by simp))).trans (hbr.fld (by simp))
  have hup : (s.up - since) / (1000 * nsU) = (s.up - since) / 65536000 := rfl
  simp only [hdef]
  refine ⟨(hlast _ _).trans hsrc, (hlast _ _).trans hmask, (hlast _ _).trans hfrom, ?_, ?_, ?_,
    raise_fld_self _ _ (by decide) ⟨Blk.noConfusion, Blk.noConfusion⟩, ((ham.trans hbm).trans hcm).trans ⟨?_, (raise_onlyParts _ c).mono (by decide)⟩⟩
  · rw [State.on, hlast, hentry, he]
    cases l.entry <;> rfl
  · rw [← hup, ← hstay]
    exact ((htr.fld (by simp [noteReg])).trans (hcr.fld (by simp))).trans hbs
  · exact (htr.fld (by simp [noteReg])).trans hcc
  · exact htr.mono fun r h => h.imp_left fun h => by rw [h]; exact ⟨rfl, by simp⟩

end Sys2Proof.Machine

end

section
/-! PROOFS. The claim about power hints, transitions and wakes (R446-R453, R459). -/

-- The checked text is one long file: elaborating these in order bounds its threads and memory.
set_option Elab.async false

namespace Sys2Proof.Machine

/-! ## Ends of transitions -/

theorem notEntering_of_state {s : State} {p : Nat} (hg : s.pwr.going = some p) (hp : p < 2) : s.entering = false := by
  have h : decide (2 ≤ p ∧ s.pState < p) = false := decide_eq_false (by omega)
  rw [State.entering, hg, Option.getD_some, h, Bool.and_false]

theorem endToP1_claim {s : State} (hg : s.pwr.going = some 1) (hp : s.pState = 0) (hs : s.pwr.since ≤ s.up) (hpend : s.fld fPwr_STATE_PENDING = 7) :
    ∃ t, exec (.pwrTransitionEnd 0) s = .next t ∧ t.pState = 1 ∧ t.on fPwr_STATE_TRANS = false ∧ t.pwr.going = none ∧ t.pwr.since = s.up ∧
      t.on fPwr_EVENT_STATE_CHG = true ∧ (∀ n, { t.shut n with gateAt := none, tmrAt := 0 } = { s.shut n with gateAt := none, tmrAt := 0 }) ∧
      onlyRegs (fun r => r = rPwr_STATE ∨ r = rPwr_EVENT ∨ noteReg r) s t ∧ onlyParts [.pwr, .sht, .rings, .regs, .out] s t := by
  obtain ⟨hst, htr, hpd, hpw, hsh, hm⟩ := reached_effect (p := 1) (by decide) s
  obtain ⟨hcst, hctr, hcev, -, hcm⟩ := changed_effect (reached 1 s)
  have hend : endTransition enterHold 1 s = raise_ fPwr_EVENT_STATE_CHG (reached 1 s) := by
    unfold endTransition
    dsimp only
    rw [hp]
    rfl
  have hpend' : (endTransition enterHold 1 s).fld fPwr_STATE_PENDING = 7 := by
    rw [hend, (raise_onlyRegs fPwr_EVENT_STATE_CHG _).fld (by simp [noteReg]), hpd, hpend]
  have hdef : exec (.pwrTransitionEnd 0) s = .next (changed (reached 1 s)) := by
    rw [exec_transitionEnd hg hs, transitionEnded_settled hg hpend' (.inl (notEntering_of_state hg (by decide))), hend]
    rfl
  have hcp : (changed (reached 1 s)).pwr = _ := (hcm.2 .pwr (by decide)).trans hpw
  refine ⟨_, hdef, hcst.trans hst, bne_eq_false_iff_eq.2 (hctr.trans htr), by rw [hcp], by rw [hcp], hcev, fun n => ?_, ?_, ?_⟩
  · have h1 : (changed (reached 1 s)).shut n = (reached 1 s).shut n := State.shut_congr (hcm.2 .sht (by decide)) n
    rw [h1]
    exact hsh n
  · exact (hm.1.mono fun _ => .inl).trans hcm.1
  · exact (hm.2.mono (by decide)).trans (hcm.2.mono (by decide))

theorem endToP2_claim {s : State} (hg : s.pwr.going = some 2) (hp : s.pState < 2) (hs : s.pwr.since ≤ s.up) (hpend : s.fld fPwr_STATE_PENDING = 7)
    (hlatch : s.pwr.latch = none) :
    ∃ t, exec (.pwrTransitionEnd 0) s = .next t ∧ t.pState = 2 ∧ t.on fPwr_STATE_TRANS = false ∧
      (∀ k, k < 16 → s.on (fBm_STAT_TRAINED k) = true → t.on (fBm_STAT_SELF_REF k) = true) ∧
      (∀ n, n < 8 → s.mode n = m400 → s.rx n = rxLocked → t.rx n = rxIdle) ∧
      (∀ n, { t.shut n with gateAt := none, tmrAt := 0 } = { s.shut n with gateAt := none, tmrAt := 0 }) ∧
      (∀ p, p ∈ [Part.tb, .up, .gens, .links, .crew, .loom, .drf, .ck, .mon, .bias, .thm, .sec, .fuses, .pending, .qps] → p.same s t) := by
  obtain ⟨hst, htr, hpd, hpw, hsh, hm⟩ := reached_effect (p := 2) (by decide) s
  obtain ⟨a, ha⟩ : ∃ a, a = reached 2 s := ⟨_, rfl⟩
  rw [← ha] at hst htr hpd hpw hsh hm
  obtain ⟨hself, hrx, hhm⟩ := enterHold_effect a
  obtain ⟨b, hb⟩ : ∃ b, b = enterHold a := ⟨_, rfl⟩
  rw [← hb] at hself hrx hhm
  have hpwrReg (o hi lo : Nat) : b.fld ⟨⟨.pwr, 0, o⟩, hi, lo⟩ = a.fld ⟨⟨.pwr, 0, o⟩, hi, lo⟩ := hhm.1.fld (by simp [memReg, noteReg])
  obtain ⟨hcst, hctr, -, -, hcm⟩ := changed_effect b
  have hend : endTransition enterHold 2 s = raise_ fPwr_EVENT_STATE_CHG b := by
    have h1 : (2 ≤ 2 ∧ s.pState < 2) := ⟨le_refl 2, hp⟩
    have h2 : ¬ (s.pState = 3 ∧ 2 < 3) := by omega
    have h3 : ¬ (2 ≤ s.pState ∧ 2 < s.pState) := by omega
    rw [hb, ha]
    unfold endTransition
    dsimp only
    rw [if_pos h1, if_neg h2, if_neg h3]
    rfl
  have hrr := raise_onlyRegs fPwr_EVENT_STATE_CHG b
  have hpend' : (endTransition enterHold 2 s).fld fPwr_STATE_PENDING = 7 := by
    rw [hend, hrr.fld (by simp [noteReg]), hpwrReg, hpd, hpend]
  have hlatch' : (endTransition enterHold 2 s).pwr.latch = none := by
    rw [hend, raise_onlyParts fPwr_EVENT_STATE_CHG b .pwr (by decide), hhm.2 .pwr (by decide), hpw]
    exact hlatch
  have hdef : exec (.pwrTransitionEnd 0) s = .next (changed b) := by
    rw [exec_transitionEnd hg hs, transitionEnded_settled hg hpend' (.inr hlatch'), hend]
    rfl
  have hsa (f : FldId) (hf : f.reg ≠ rPwr_STATE) : a.fld f = s.fld f := State.fld_congr_reg (hm.1 _ hf)
  have hcb (f : FldId) (hf : f.reg.blk ≠ .pwr ∧ ¬ noteReg f.reg) : (changed b).fld f = b.fld f := by
    refine State.fld_congr_reg (hcm.1 _ ?_)
    rintro (h | h | h)
    · exact hf.1 (by rw [h])
    · exact hf.1 (by rw [h])
    · exact hf.2 h
  refine ⟨_, hdef, (hcst.trans (hpwrReg _ _ _)).trans hst, bne_eq_false_iff_eq.2 ((hctr.trans (hpwrReg _ _ _)).trans htr), fun k hk htrained => ?_,
    fun n hn hmode hlock => ?_, fun n => ?_, fun p hmem => ?_⟩
  · rw [State.on, hcb _ ⟨by simp, by simp [noteReg]⟩]
    refine hself k hk ?_
    rw [State.on, hsa _ (by simp)]
    exact htrained
  · rw [State.rx, hcb _ ⟨by simp, by simp [noteReg]⟩]
    exact hrx n hn ((hsa _ (by simp)).trans hmode) ((hsa _ (by simp)).trans hlock)
  · have h1 : (changed b).shut n = a.shut n := (State.shut_congr (hcm.2 .sht (by decide)) n).trans (State.shut_congr (hhm.2 .sht (by decide)) n)
    rw [h1]
    exact hsh n
  · refine (((hm.2.mono (l' := [.pwr, .sht, .regs, .out, .lanes, .free, .beam, .rings, .lastNote]) (by decide)).trans (hhm.2.mono (by decide))).trans
      (hcm.2.mono (by decide))) p fun h => ?_
    fin_cases h <;> simp at hmem

theorem exitP2_claim {l : WakeLatch} {s : State} (hg : s.pwr.going = some 0) (hp : s.pState = 2) (hs : s.pwr.since ≤ s.up)
    (hpend : s.fld fPwr_STATE_PENDING = 7) (hl : s.pwr.latch = some l) (hmask : l.mask < 256) (hfirst : l.first < 8) :
    ∃ t, exec (.pwrTransitionEnd 0) s = .next t ∧ t.pState = 0 ∧ t.on fPwr_STATE_TRANS = false ∧ t.fld fPwr_WAKE_LAST_SRC = l.first ∧
      t.fld fPwr_WAKE_LAST_MASK = l.mask ∧ t.fld fPwr_WAKE_LAST_FROM = 2 ∧ t.on fPwr_WAKE_LAST_ENTRY = l.entry ∧
      t.fld fPwr_WAKE_STAY_US = min (2 ^ 32 - 1) ((s.up - s.pwr.since) / 65536000) ∧
      t.fld fPwr_WAKE_CNT_P2 = min 65535 (s.fld fPwr_WAKE_CNT_P2 + 1) ∧ t.on fPwr_EVENT_WAKE = true ∧ t.on fPwr_EVENT_STATE_CHG = true ∧
      (∀ k, k < 16 → s.beam.resets.contains k = false → s.testing (8 + k) = false → t.on (fBm_STAT_SELF_REF k) = false) ∧
      onlyRegs (fun r => r.blk = .pwr ∨ (∃ k, k < 16 ∧ r = rBm_STAT k) ∨ noteReg r) s t ∧ onlyParts [.pwr, .sht, .split, .rings, .regs, .out] s t := by
  obtain ⟨hst, htr, hpd, hpw, hsh, hm⟩ := reached_effect (p := 0) (by decide) s
  obtain ⟨a, ha⟩ : ∃ a, a = reached 0 s := ⟨_, rfl⟩
  rw [← ha] at hst htr hpd hpw hsh hm
  obtain ⟨b, hb⟩ : ∃ b : State, b = { a with split := { a.split with gapDue := true } } := ⟨_, rfl⟩
  have hbp : onlyParts [.split] a b := by
    rw [hb]
    intro p hp
    cases p <;> simp_all [Part.same]
  obtain ⟨hself, hlm⟩ := leaveHold_effect b
  obtain ⟨c, hc⟩ : ∃ c, c = leaveHold b := ⟨_, rfl⟩
  rw [← hc] at hself hlm
  have hcl : c.pwr.latch = some l := by rw [hlm.2 .pwr (by decide), hbp .pwr (by decide), hpw]; exact hl
  have hcup : c.up = s.up := ((hlm.2 .up (by decide)).trans (hbp .up (by decide))).trans (hm.2 .up (by decide))
  obtain ⟨h1, h2, h3, h4, h5, h6, h7, hrm⟩ := recordExit_effect (since := s.pwr.since) hcl hmask hfirst
  obtain ⟨d, hd⟩ : ∃ d, d = recordExit 2 s.pwr.since c := ⟨_, rfl⟩
  rw [← hd] at h1 h2 h3 h4 h5 h6 h7 hrm
  obtain ⟨hcst, hctr, hcev, hcoth, hcm⟩ := changed_effect d
  have hend : endTransition enterHold 0 s = raise_ fPwr_EVENT_STATE_CHG d := by
    rw [hd, hc, hb, ha]
    unfold endTransition
    dsimp only
    rw [hp]
    rfl
  have hpwrReg (f : FldId) (hf : f.reg.blk = .pwr) : c.fld f = a.fld f := by
    refine (State.fld_congr_reg (hlm.1 _ ?_)).trans (State.fld_congr (hbp .regs (by decide)) f)
    rintro ⟨k, -, h⟩
    rw [h] at hf
    exact Blk.noConfusion hf
  have hstate (f : FldId) (hf : f.reg = rPwr_STATE) : d.fld f = a.fld f := by
    refine (State.fld_congr_reg (hrm.1 _ ?_)).trans (hpwrReg f (by rw [hf]))
    rintro (h | h)
    · exact h.2 hf
    · rw [hf] at h
      exact absurd h (by simp [noteReg])
  have hpend' : (endTransition enterHold 0 s).fld fPwr_STATE_PENDING = 7 := by
    rw [hend, (raise_onlyRegs fPwr_EVENT_STATE_CHG d).fld (by simp [noteReg]), hstate _ rfl, hpd, hpend]
  have hdef : exec (.pwrTransitionEnd 0) s = .next (changed d) := by
    rw [exec_transitionEnd hg hs, transitionEnded_settled hg hpend' (.inl (notEntering_of_state hg (by decide))), hend]
    rfl
  have hkeep (f : FldId) (hf : f.reg ≠ rPwr_STATE ∧ f.reg ≠ rPwr_EVENT ∧ ¬ noteReg f.reg) : (changed d).fld f = d.fld f :=
    State.fld_congr_reg (hcm.1 _ (by tauto))
  have hwl (hi lo : Nat) : (changed d).fld ⟨rPwr_WAKE_LAST, hi, lo⟩ = d.fld ⟨rPwr_WAKE_LAST, hi, lo⟩ :=
    hkeep _ ⟨by simp, by simp, by simp [noteReg]⟩
  have htest (k : Nat) : b.testing (8 + k) = s.testing (8 + k) := by
    have h1 : b.bist = s.bist := (hbp .bist (by decide)).trans (hm.2 .bist (by decide))
    simp only [State.testing, h1]
  have hbeam : b.beam = s.beam := (hbp .beam (by decide)).trans (hm.2 .beam (by decide))
  refine ⟨_, hdef, (hcst.trans (hstate _ rfl)).trans hst, bne_eq_false_iff_eq.2 ((hctr.trans (hstate _ rfl)).trans htr), (hwl _ _).trans h1,
    (hwl _ _).trans h2, (hwl _ _).trans h3, by rw [State.on, hwl]; exact h4, ?_, ?_, bne_iff_ne.2 ?_, hcev, fun k hk hr ht => ?_, ?_, ?_⟩
  · rw [hkeep _ ⟨by simp, by simp, by simp [noteReg]⟩, h5, hcup]
  · rw [hkeep _ ⟨by simp, by simp, by simp [noteReg]⟩, h6, hpwrReg _ rfl, hm.1.fld (by simp)]
  · rw [hcoth 1 (by decide) (by decide), h7]
    decide
  · have hk1 : (changed d).fld (fBm_STAT_SELF_REF k) = c.fld (fBm_STAT_SELF_REF k) :=
      (hkeep _ ⟨by simp, by simp, by simp [noteReg]⟩).trans (hrm.1.fld (by simp [noteReg]))
    rw [State.on, hk1]
    exact hself k hk (by rw [hbeam]; exact hr) ((htest k).trans ht)
  · have hP (r : RegId) (h : r = rPwr_STATE) : r.blk = .pwr := by rw [h]
    have hab : onlyRegs (fun r => r.blk = .pwr ∨ (∃ k, k < 16 ∧ r = rBm_STAT k) ∨ noteReg r) s b :=
      (hm.1.mono fun r h => .inl (hP r h)).trans fun r _ => State.reg_congr (hbp .regs (by decide)) r
    refine ((hab.trans (hlm.1.mono fun _ h => .inr (.inl h))).trans (hrm.1.mono fun r h => h.imp (·.1) .inr)).trans (hcm.1.mono fun r h => ?_)
    obtain h | h | h := h
    · exact .inl (by rw [h])
    · exact .inl (by rw [h])
    · exact .inr (.inr h)
  · exact ((((hm.2.mono (by decide)).trans (hbp.mono (by decide))).trans (hlm.2.mono (by decide))).trans (hrm.2.mono (by decide))).trans
      (hcm.2.mono (by decide))

/-! ## Hints (R448) -/

/-- The record of a PWR_HINT: the state, and the pending request or 255. -/
def hintAnswer (s : State) : List Byte :=
  [BitVec.ofNat 8 s.pState, if s.fld fPwr_STATE_PENDING = 7 then 255#8 else BitVec.ofNat 8 (s.fld fPwr_STATE_PENDING)]

theorem leBytes_one (v : Nat) : leBytes 1 v = [BitVec.ofNat 8 v] := by
  simp [leBytes]

theorem hintAnswer_eq (s : State) :
    leBytes 1 s.pState ++ leBytes 1 (if s.fld fPwr_STATE_PENDING = 7 then 255 else s.fld fPwr_STATE_PENDING) = hintAnswer s := by
  rw [leBytes_one, leBytes_one, hintAnswer]
  split <;> rfl

/-- The hint that a PWR_HINT leaves, 255 withdrawing it. -/
def hinted (p ms : Nat) (s : State) : State :=
  if p = 255 then dropHint s
  else ((dropHint s).setReg rPwr_HINT (BitVec.ofNat 32 (2 ^ 31 + p))).modPwr
    ({ · with hintEnd := if ms = 0 then none else some (s.up + ms * 1000000 * nsU) })

theorem hinted_onlyRegs (p ms : Nat) (s : State) : onlyRegs (fun r => r = rPwr_HINT) s (hinted p ms s) := by
  unfold hinted
  split
  · exact dropHint_onlyRegs s
  · exact ((dropHint_onlyRegs s).trans (setReg_onlyRegs _ _ _)).trans fun _ _ => rfl

theorem hinted_onlyParts (p ms : Nat) (s : State) : onlyParts [.pwr, .regs] s (hinted p ms s) := by
  unfold hinted
  split
  · exact dropHint_onlyParts s
  · exact ((dropHint_onlyParts s).andThen (setReg_onlyParts _ _ _)).andThen (modPwr_onlyParts _ _)

theorem exec_pwrHint {h : Hdr} {p ms : Nat} {s : State} (ht : s.takesPf (.pwrHint h p ms) = true) (hp : p ≤ 3 ∨ p = 255) :
    exec (.pwrHint h p ms) s = .next (complete h eOk (hintAnswer s) (hinted p ms (s.begun h.qp))) := by
  obtain ⟨hd, hr, hb, -, -, ho⟩ := State.takesPf_elim rfl ht
  have hrange : (decide (3 < p) && p != 255) = false := by
    obtain hp | rfl := hp
    · rw [decide_eq_false (by omega), Bool.false_and]
    · rfl
  have hchecks : firstFail (s.gate h true [] ++ [(decide (3 < p) && p != 255, eRange)]) = none := by
    rw [firstFail_gate (fun _ => ho) hr (fun b hb => absurd hb List.not_mem_nil), hrange]
    rfl
  have hans : leBytes 1 (s.begun h.qp).pState ++ leBytes 1 (if (s.begun h.qp).fld fPwr_STATE_PENDING = 7 then 255 else
      (s.begun h.qp).fld fPwr_STATE_PENDING) = hintAnswer s := hintAnswer_eq (s.begun h.qp)
  show Host.Outcome.next (command h (.pwrHint h p ms) _ _ s) = _
  rw [command_begins _ _ _ _ _ hd hb hchecks]
  dsimp only
  rw [hans]
  rfl

theorem pwrHint_effect {h : Hdr} {p ms : Nat} {s : State} (ht : s.takesPf (.pwrHint h p ms) = true) (hp : p ≤ 3 ∨ p = 255) :
    ∃ t, exec (.pwrHint h p ms) s = .next t ∧ t.reg rPwr_HINT = (hinted p ms (s.begun h.qp)).reg rPwr_HINT ∧
      t.pwr = (hinted p ms (s.begun h.qp)).pwr ∧ completed (answer h eOk (hintAnswer s)) s t ∧
      onlyRegs (fun r => r = rPwr_HINT ∨ complReg r) s t ∧ onlyParts [.pwr, .qps, .regs, .out] s t := by
  obtain ⟨-, -, -, hq, hbme, -⟩ := State.takesPf_elim rfl ht
  obtain ⟨hc, hr, hpt, hlast⟩ := completes_after eOk (hintAnswer s) hq hbme (hinted_onlyRegs p ms (s.begun h.qp))
    (fun r hr => by rw [hr]; exact ⟨Blk.noConfusion, Blk.noConfusion⟩) (hinted_onlyParts p ms (s.begun h.qp))
  exact ⟨_, exec_pwrHint ht hp, complete_onlyRegs _ _ _ _ _ (by simp [complReg]), hlast .pwr (by decide), hc,
    hr.mono fun r h => h.symm, hpt.mono (by decide)⟩

theorem pwrHint_claim {h : Hdr} {p ms : Nat} {s : State} (ht : s.takesPf (.pwrHint h p ms) = true) (hp : p ≤ 3) :
    ∃ t, exec (.pwrHint h p ms) s = .next t ∧
    t.on fPwr_HINT_ACTIVE = true ∧ t.fld fPwr_HINT_TARGET = p ∧
    t.pwr.hintEnd = (if ms = 0 then none else some (s.up + ms * 1000000 * 65536)) ∧
    completed (answer h eOk (hintAnswer s)) s t ∧
    onlyRegs (fun r => r = rPwr_HINT ∨ complReg r) s t ∧ onlyParts [.pwr, .qps, .regs, .out] s t := by
  obtain ⟨t, hexec, hreg, hpwr, hc, hr, hpt⟩ := pwrHint_effect ht (.inl hp)
  have hne : p ≠ 255 := by omega
  have hhint : t.reg rPwr_HINT = BitVec.ofNat 32 (2 ^ 31 + p) := by
    rw [hreg, hinted, if_neg hne]
    exact State.reg_setReg_self _ _ _
  refine ⟨t, hexec, bne_iff_ne.2 ?_, ?_, ?_, hc, hr, hpt⟩
  · rw [State.fld, hhint]
    interval_cases p <;> decide
  · rw [State.fld, hhint]
    interval_cases p <;> decide
  · rw [hpwr, hinted, if_neg hne]
    rfl

theorem pwrHint_withdrawn {h : Hdr} {ms : Nat} {s : State} (ht : s.takesPf (.pwrHint h 255 ms) = true) :
    ∃ t, exec (.pwrHint h 255 ms) s = .next t ∧ t.reg rPwr_HINT = 0#32 ∧ t.pwr.hintEnd = none ∧ completed (answer h eOk (hintAnswer s)) s t := by
  obtain ⟨t, hexec, hreg, hpwr, hc, -, -⟩ := pwrHint_effect ht (.inr rfl)
  exact ⟨t, hexec, by rw [hreg, hinted, if_pos rfl]; exact State.reg_setReg_self _ _ _, by rw [hpwr, hinted, if_pos rfl]; rfl, hc⟩

/-! ## Starts of transitions (R447) -/

theorem startTransition_effect (p : Nat) (s : State) : let t := startTransition p s
    t.on fPwr_STATE_TRANS = true ∧ t.pState = s.pState ∧ t.pwr.going = some p ∧ t.pwr.deeper = none ∧
      (s.pState < p → 2 ≤ p → s.host.cfg.l1 = true → t.host.out = .linkPm (if p = 3 ∧ s.host.cfg.l12 then 2 else 1) :: s.host.out) ∧
      (p < s.pState → 2 ≤ s.pState → t.pwr.latch = some (s.pwr.latch.getD ⟨0, 7, false⟩)) ∧
      (p < s.pState → onlyParts [.pwr, .regs] s t) := by
  obtain ⟨a, ha⟩ : ∃ a, a = s.setFld fPwr_STATE_TRANS 1 := ⟨_, rfl⟩
  have hap : onlyParts [.regs] s a := by rw [ha]; exact setFld_onlyParts s _ _
  have htrans : a.fld fPwr_STATE_TRANS = 1 := by rw [ha]; exact State.fld_setFld_self_of_lt s _ (by decide) (by decide)
  have hstate : a.fld fPwr_STATE_STATE = s.fld fPwr_STATE_STATE := by
    rw [ha]; exact State.fld_setFld_other s _ _ _ _ _ _ (by decide) (by decide) (by decide) (by decide) (by decide)
  have hcfg : a.host.cfg = s.host.cfg := hap .cfg (by decide)
  have hout : a.host.out = s.host.out := hap .out (by decide)
  have hpwr : a.pwr = s.pwr := hap .pwr (by decide)
  have hregs : (startTransition p s).regs = a.regs := by
    unfold startTransition
    rw [← ha]
    dsimp only
    split_ifs <;> rfl
  refine ⟨bne_iff_ne.2 (by rw [State.fld_congr hregs, htrans]; decide), (State.fld_congr hregs _).trans hstate, ?_, ?_, fun h1 h2 hl => ?_,
    fun h1 h2 => ?_, fun h1 => ?_⟩
  · unfold startTransition
    rw [← ha]
    dsimp only
    split_ifs <;> rfl
  · unfold startTransition
    rw [← ha]
    dsimp only
    split_ifs <;> rfl
  · unfold startTransition
    rw [← ha]
    dsimp only
    rw [if_pos ⟨h1, h2⟩]
    split
    · show .linkPm (if p = 3 ∧ a.host.cfg.l12 = true then 2 else 1) :: a.host.out = _
      rw [hcfg, hout]
    · next hl1 => exact absurd ((congrArg CfgSt.l1 hcfg).trans hl) hl1
  · unfold startTransition
    rw [← ha]
    dsimp only
    rw [if_neg (by omega), if_pos ⟨h1, h2⟩]
    show some (a.pwr.latch.getD _) = _
    rw [hpwr]
  · unfold startTransition
    rw [← ha]
    dsimp only
    rw [if_neg (by omega)]
    split
    · exact (hap.mono (by decide)).trans (((modPwr_onlyParts a _).trans (modPwr_onlyParts _ _)).mono (by decide))
    · exact (hap.mono (by decide)).trans ((modPwr_onlyParts a _).mono (by decide))

theorem transitionStart_claim {a d : Nat} {s : State} (hdark : s.dark = false) (htr : s.on fPwr_STATE_TRANS = false)
    (hdeep : s.pwr.deeper = some (a, d)) (hd : s.pState < d) (htarget : s.pState < s.target) (hdwell : a + s.fld fPwr_CTL_DWELL_US * 1000 * nsU ≤ s.up) :
    ∃ t, exec .pwrTransitionStart s = .next t ∧ t.on fPwr_STATE_TRANS = true ∧ t.pwr.going = some (min d s.target) ∧ t.pState = s.pState ∧
      t.pwr.deeper = none ∧ (s.host.cfg.l1 = true → 2 ≤ min d s.target →
        t.host.out = .linkPm (if min d s.target = 3 ∧ s.host.cfg.l12 then 2 else 1) :: s.host.out) ∧
      onlyRegs (fun r => r = rPwr_STATE) s t ∧ onlyParts [.pwr, .regs, .out] s t := by
  obtain ⟨u, hu⟩ : ∃ u, u = s.modPwr ({ · with deeper := none }) := ⟨_, rfl⟩
  have hup : onlyParts [.pwr] s u := by rw [hu]; exact modPwr_onlyParts s _
  have hfld (f : FldId) : u.fld f = s.fld f := State.fld_congr (hup .regs (by decide)) f
  have hstate : u.pState = s.pState := hfld _
  have hmin : s.pState < min d s.target := lt_min hd htarget
  have hdef : exec .pwrTransitionStart s = .next (startTransition (min d s.target) u) := by
    show execPwrTransitionStart s = _
    have hno : ¬ (s.target ≤ s.pState ∨ s.dark = true) := by
      rw [hdark]
      exact fun h => h.elim (not_le.2 htarget) Bool.false_ne_true
    have hut : ¬ u.on fPwr_STATE_TRANS = true := by
      rw [State.on, hfld, ← State.on, htr]
      exact Bool.false_ne_true
    unfold execPwrTransitionStart
    rw [hdeep]
    dsimp only
    rw [if_neg hno, passTo, if_neg (not_lt.2 hdwell), ← hu, requestState, if_neg hut, hstate, if_neg hmin.ne']
  obtain ⟨h1, h2, h3, h4, h5, -, -⟩ := startTransition_effect (min d s.target) u
  refine ⟨_, hdef, h1, h3, h2.trans hstate, h4, fun hl hp => ?_, ?_, (hup.mono (by decide)).trans (startTransition_onlyParts _ u)⟩
  · have hcfg : u.host.cfg = s.host.cfg := hup .cfg (by decide)
    rw [h5 (hstate ▸ hmin) hp (by rw [hcfg]; exact hl), hcfg, hup .out (by decide)]
  · exact fun r hr => (startTransition_onlyRegs _ u r hr).trans (State.reg_congr (hup .regs (by decide)) r)

/-! ## Wakes (R450) -/

/-- What a wake of source `i` in P2 or P3 leaves (R449, R452). -/
def woken (i : Nat) (s t : State) : Prop :=
  t.on fPwr_STATE_TRANS = true ∧ t.pwr.going = some 0 ∧ t.pState = s.pState ∧ ∃ l, t.pwr.latch = some l ∧
    l.mask.testBit i = true ∧ (s.pwr.latch = none → l.mask = 2 ^ i ∧ l.first = i ∧ l.entry = false) ∧
    (∀ m, s.pwr.latch = some m → l.first = m.first ∧ l.mask = Nat.lor m.mask (2 ^ i))

theorem wake_woken {i : Nat} {s : State} (hp : 2 ≤ s.pState) (htr : s.on fPwr_STATE_TRANS = false) (hon : s.wakeOn i = true) :
    woken i s (wake i s) ∧ onlyRegs (fun r => r = rPwr_STATE) s (wake i s) ∧ onlyParts [.pwr, .regs] s (wake i s) := by
  obtain ⟨u, hu⟩ : ∃ u, u = noteWake i s := ⟨_, rfl⟩
  have hent : s.entering = false := by rw [State.entering, htr, Bool.false_and]
  have hup : onlyParts [.pwr] s u := by rw [hu]; exact noteWake_onlyParts i s
  have hstate : u.pState = s.pState := State.fld_congr (hup .regs (by decide)) _
  have hdef : wake i s = startTransition 0 u := by
    have hno : ¬ (!s.wakeOn i || !(s.entering || decide (2 ≤ s.pState))) = true := by simp [hon, hp]
    rw [wake, if_neg hno, hent, if_neg Bool.false_ne_true, htr, if_neg Bool.false_ne_true, hu]
  obtain ⟨h1, h2, h3, -, -, h6, h7⟩ := startTransition_effect 0 u
  have hlt : 0 < u.pState := by omega
  have hregs : onlyRegs (fun r => r = rPwr_STATE) s (startTransition 0 u) := fun r hr =>
    (startTransition_onlyRegs 0 u r hr).trans (State.reg_congr (hup .regs (by decide)) r)
  have hlatch := h6 hlt (hstate ▸ hp)
  rw [hdef]
  refine ⟨⟨h1, h3, h2.trans hstate, ?_⟩, hregs, (hup.mono (by decide)).trans (h7 hlt)⟩
  cases hl : s.pwr.latch with
  | none =>
    have hul : u.pwr.latch = some ⟨2 ^ i, i, false⟩ := by
      rw [hu]
      simp only [noteWake, State.modPwr, hl, hent]
    rw [hul] at hlatch
    exact ⟨_, hlatch, Nat.testBit_two_pow_self, fun _ => ⟨rfl, rfl, rfl⟩, fun m hm => absurd hm (by simp)⟩
  | some m =>
    have hul : u.pwr.latch = some { m with mask := Nat.lor m.mask (2 ^ i) } := by
      rw [hu]
      simp only [noteWake, State.modPwr, hl]
    rw [hul] at hlatch
    exact ⟨_, hlatch, testBit_lor_pow _ i, fun h => absurd h (by simp), fun m' hm => by obtain rfl := Option.some.inj hm; exact ⟨rfl, rfl⟩⟩

theorem woken_planAck {s : State} (hp : 2 ≤ s.pState) (htr : s.on fPwr_STATE_TRANS = false) (hd : s.dark = false) (hw : s.thm.waiting = none) :
    ∃ t, exec (.planAck 0#32) s = .next t ∧ woken 1 s t := by
  obtain ⟨⟨h1, h2, h3, l, hl, hbit, hnone, hsome⟩, -, hwp⟩ := wake_woken (i := 1) hp htr rfl
  obtain ⟨u, hu⟩ : ∃ u, u = wake 1 s := ⟨_, rfl⟩
  rw [← hu] at h1 h2 h3 hl hwp
  have huw : u.thm.waiting = none := by rw [hwp .thm (by decide)]; exact hw
  have hdef : exec (.planAck 0#32) s = .next (rejectReg rThm_PLAN_ACK eState u) := by
    show Host.Outcome.next (aonAccess (writePlanAck 0#32) s) = _
    rw [aonAccess, hd, if_neg Bool.false_ne_true, ← hu, writePlanAck, huw]
  have hfld (hi lo : Nat) : (rejectReg rThm_PLAN_ACK eState u).fld ⟨rPwr_STATE, hi, lo⟩ = u.fld ⟨rPwr_STATE, hi, lo⟩ :=
    rejectReg_fld _ _ u _ _ _ _ _ (by decide) (by decide) (by decide) (by decide)
  have hpwr : (rejectReg rThm_PLAN_ACK eState u).pwr = u.pwr := by simp
  refine ⟨_, hdef, ?_, by rw [hpwr, h2], (hfld _ _).trans h3, l, by rw [hpwr, hl], hbit, hnone, hsome⟩
  rw [State.on, hfld]
  exact h1

theorem wakes_claim {c : Instr} {i : Nat} {s : State} (hp : 2 ≤ s.pState) (htr : s.on fPwr_STATE_TRANS = false) (hon : s.wakeOn i = true)
    (hc : exec c s = .next (wake i s)) :
    ∃ t l, exec c s = .next t ∧ t.on fPwr_STATE_TRANS = true ∧ t.pwr.going = some 0 ∧ t.pState = s.pState ∧ t.pwr.latch = some l ∧
      l.mask.testBit i = true ∧ (s.pwr.latch = none → l.mask = 2 ^ i ∧ l.first = i ∧ l.entry = false) ∧
      (∀ m, s.pwr.latch = some m → l.first = m.first ∧ l.mask = Nat.lor m.mask (2 ^ i)) ∧
      (c ≠ .planAck 0#32 → onlyRegs (fun r => r = rPwr_STATE) s t ∧ onlyParts [.pwr, .regs] s t) := by
  obtain ⟨⟨h1, h2, h3, l, hl, hbit, hnone, hsome⟩, hr, hpt⟩ := wake_woken hp htr hon
  exact ⟨_, l, hc, h1, h2, h3, hl, hbit, hnone, hsome, fun _ => ⟨hr, hpt⟩⟩

/-- Settles O45: hints are kept until they end; a dwell ends in the shallowest of its targets; the end of a transition shows the state and does
what its entry or exit asks; an enabled wake in P2 or P3 starts the exit to P0. -/
theorem powerStatesChange : Obligations.PowerStatesChange := by
  unfold Obligations.PowerStatesChange
  refine ⟨fun h p ms s ht hp => pwrHint_claim ht hp, fun h ms s ht => pwrHint_withdrawn ht, fun s h => ?_,
    fun a d s hd htr hdeep hlt htarget hdwell => transitionStart_claim hd htr hdeep hlt htarget hdwell, fun s h => ?_,
    fun s hg hp hs hpend => endToP1_claim hg hp hs hpend, fun s hg hp hs hpend hl => endToP2_claim hg hp hs hpend hl,
    fun l s hg hp hs hpend hl hm hf => exitP2_claim hg hp hs hpend hl hm hf, fun c i s hp htr hon hc => ?_⟩
  · show execHintExpiry s = _
    rw [execHintExpiry, if_pos h]
    rfl
  · show execPwrTransitionStart s = _
    rw [execPwrTransitionStart, h]
  · obtain hc | ⟨rfl, rfl, htarget⟩ | ⟨rfl, rfl, hms⟩ | ⟨rfl, rfl, hd, hw⟩ := hc
    · simp only [List.mem_cons, Prod.mk.injEq, List.not_mem_nil, or_false] at hc
      obtain ⟨rfl, rfl⟩ | ⟨rfl, rfl⟩ | ⟨rfl, rfl⟩ | ⟨rfl, rfl⟩ | ⟨rfl, rfl⟩ | ⟨rfl, rfl⟩ := hc <;> exact wakes_claim hp htr hon rfl
    · refine wakes_claim hp htr hon ?_
      show execWakeEvent .target s = _
      unfold execWakeEvent
      dsimp only
      rw [if_pos htarget]
    · refine wakes_claim hp htr hon ?_
      show execWakeTimerExpiry s = _
      rw [execWakeTimerExpiry, if_neg (by omega)]
    · obtain ⟨t, hexec, h1, h2, h3, l, hl, hbit, hnone, hsome⟩ := woken_planAck hp htr hd hw
      exact ⟨t, l, hexec, h1, h2, h3, hl, hbit, hnone, hsome, fun h => absurd rfl h⟩

end Sys2Proof.Machine

end

section
/-! PROOFS. The claim about the monitor's rounds, decimation channels and thresholds (R414-R425). -/

-- The checked text is one long file: elaborating these in order bounds its threads and memory.
set_option Elab.async false

namespace Sys2Proof.Machine

/-! ## Triggers (R415, R416) -/

theorem monTrigger_taken {g : MonTrig} {s : State} (hen : s.on fMon_SEQ_CTL_EN = true) (hon : s.trigOn g = true) (ht : s.mon.trigs = []) :
    monTrigger g s = { s with mon := { s.mon with trigs := [(g, s.reg rMon_SEQ_MASK, s.up + monCycles (s.fld fMon_SEQ_CTL_DELAY))] } } := by
  rw [monTrigger, hen, hon, if_pos (by decide), State.modMon, ht]
  rfl

/-- The delay of the one trigger that waits has ended. -/
theorem delaysEnd_due {g : MonTrig} {mask : W32} {due : Nat} {s : State} (ht : s.mon.trigs = [(g, mask, due)]) (hd : due ≤ s.up) :
    delaysEnd s = startRound mask { s with mon := { s.mon with trigs := [] } } := by
  rw [delaysEnd, ht]
  simp [State.modMon, hd, not_lt.2 hd, ht]

theorem delaysEnd_of_none_due {s : State} (h : ∀ e ∈ s.mon.trigs, s.up < e.2.2) : delaysEnd s = s := by
  have hnone : s.mon.trigs.filter (·.2.2 ≤ s.up) = [] := by
    rw [List.filter_eq_nil_iff]
    exact fun e he => by simpa using h e he
  have hall : s.mon.trigs.filter (s.up < ·.2.2) = s.mon.trigs := by
    rw [List.filter_eq_self]
    exact fun e he => by simpa using h e he
  unfold delaysEnd State.modMon
  dsimp only
  rw [hnone, hall]
  rfl

theorem delaysEnd_none {s : State} (ht : s.mon.trigs = []) : delaysEnd s = s :=
  delaysEnd_of_none_due fun e he => by rw [ht] at he; exact absurd he List.not_mem_nil

theorem startRound_room {mask : W32} {s : State} (h : s.mon.rounds.length < 2) :
    startRound mask s = { s with mon := { s.mon with rounds := s.mon.rounds ++ [mask] } } := by
  rw [startRound, if_pos h]
  rfl

theorem monCycles_pos {n : Nat} (h : n ≠ 0) : 0 < monCycles n := by
  unfold monCycles nsU
  omega

/-- SEQ_TRIGGER of a trigger that comes with it begins its delay, and ends what is due (R416). -/
theorem exec_seqTrigger {g : MonTrig} (hg : g = .timer ∨ ∃ n, g = .htrFall n) (s : State) :
    exec (.seqTrigger g) s = .next (delaysEnd (monTrigger g s)) := by
  obtain rfl | ⟨n, rfl⟩ := hg <;> rfl

theorem seqTrigger_immediate {g : MonTrig} {s : State} (hg : g = .timer ∨ ∃ n, g = .htrFall n) (hen : s.on fMon_SEQ_CTL_EN = true)
    (hon : s.trigOn g = true) (ht : s.mon.trigs = []) (hd : s.fld fMon_SEQ_CTL_DELAY = 0) :
    exec (.seqTrigger g) s = .next (startRound (s.reg rMon_SEQ_MASK) s) := by
  obtain ⟨u, hu⟩ : ∃ u, u = monTrigger g s := ⟨_, rfl⟩
  have hu' := monTrigger_taken hen hon ht
  rw [← hu] at hu'
  have htrigs : u.mon.trigs = [(g, s.reg rMon_SEQ_MASK, s.up)] := by rw [hu', hd]; rfl
  have hback : ({ u with mon := { u.mon with trigs := [] } } : State) = s := by rw [hu', ← ht]
  rw [exec_seqTrigger hg, ← hu, delaysEnd_due htrigs (by rw [hu']), hback]

theorem seqTrigger_delayed {g : MonTrig} {s : State} (hg : g = .timer ∨ ∃ n, g = .htrFall n) (hen : s.on fMon_SEQ_CTL_EN = true)
    (hon : s.trigOn g = true) (ht : s.mon.trigs = []) (hd : s.fld fMon_SEQ_CTL_DELAY ≠ 0) :
    exec (.seqTrigger g) s =
      .next { s with mon := { s.mon with trigs := [(g, s.reg rMon_SEQ_MASK, s.up + monCycles (s.fld fMon_SEQ_CTL_DELAY))] } } := by
  have hpos := monCycles_pos hd
  rw [exec_seqTrigger hg, monTrigger_taken hen hon ht, delaysEnd_of_none_due]
  intro e he
  rw [List.mem_singleton.1 he]
  show s.up < s.up + _
  omega

theorem seqTrigger_ends {g : MonTrig} {mask : W32} {due : Nat} {s : State} (h1 : g ≠ .timer) (h2 : ∀ n, g ≠ .htrFall n)
    (ht : s.mon.trigs = [(g, mask, due)]) (hr : s.mon.rounds.length < 2) :
    exec (.seqTrigger g) s = .next { s with mon := { s.mon with rounds := s.mon.rounds ++ [mask], trigs := [] } } := by
  have hfind : s.mon.trigs.find? (·.1 == g) = some (g, mask, due) := by rw [ht]; simp
  have herase : s.mon.trigs.eraseP (·.1 == g) = [] := by rw [ht]; simp
  have hexec : execSeqTrigger g s = .next (startRound mask (s.modMon fun m => { m with trigs := m.trigs.eraseP (·.1 == g) })) := by
    cases g with
    | timer => exact absurd rfl h1
    | htrFall n => exact absurd rfl (h2 n)
    | stroke k =>
      unfold execSeqTrigger
      dsimp only
      rw [hfind]
    | load g =>
      unfold execSeqTrigger
      dsimp only
      rw [hfind]
    | htrRise n =>
      unfold execSeqTrigger
      dsimp only
      rw [hfind]
  have hroom : startRound mask { s with mon := { s.mon with trigs := [] } } = _ := startRound_room hr
  show execSeqTrigger g s = _
  rw [hexec, State.modMon, herase, hroom]

theorem seqTrigger_overrun {s : State} (hen : s.on fMon_SEQ_CTL_EN = true) (hon : s.trigOn .timer = true) (ht : s.mon.trigs = [])
    (hd : s.fld fMon_SEQ_CTL_DELAY = 0) (hr : 2 ≤ s.mon.rounds.length) :
    ∃ t, exec (.seqTrigger .timer) s = .next t ∧ t.fld fMon_SEQ_STAT_OVERRUN = min 65535 (s.fld fMon_SEQ_STAT_OVERRUN + 1) ∧
      t.on fMon_EVENT_OVERRUN = true ∧ onlyRegs (fun r => r = rMon_SEQ_STAT ∨ r = rMon_EVENT ∨ noteReg r) s t ∧
      onlyParts [.rings, .regs, .out] s t := by
  obtain ⟨a, ha⟩ : ∃ a, a = s.addSat fMon_SEQ_STAT_OVERRUN := ⟨_, rfl⟩
  have har : onlyRegs (fun r => r = rMon_SEQ_STAT) s a := by rw [ha]; exact addSat_onlyReg s _ _ _ _
  have hap : onlyParts [.regs] s a := by rw [ha]; exact addSat_onlyParts s _ _
  have hcount : a.fld fMon_SEQ_STAT_OVERRUN = min 65535 (s.fld fMon_SEQ_STAT_OVERRUN + 1) := by
    rw [ha]; exact State.fld_addSat_self s _ _ (by decide) (by decide)
  have hraise := raise_onlyRegs fMon_EVENT_OVERRUN a
  refine ⟨raise_ fMon_EVENT_OVERRUN a, ?_, (hraise.fld (by simp [noteReg])).trans hcount,
    bne_iff_ne.2 (by rw [raise_fld_self _ _ (by decide) ⟨Blk.noConfusion, Blk.noConfusion⟩]; decide),
    (har.mono fun _ => .inl).andThen hraise fun _ => .inr, (hap.mono (by decide)).trans (raise_onlyParts _ a)⟩
  rw [seqTrigger_immediate (.inl rfl) hen hon ht hd, startRound, if_neg (not_lt.2 hr), ha]

/-! ## Rounds (R414, R415) -/

theorem monRaw_ne {i j : Nat} (h : i ≠ j) : rMon_RAW i ≠ rMon_RAW j := by
  simp only [ne_eq, RegId.mk.injEq, true_and]
  omega

theorem corrected_lt (s : State) (code : Nat) : s.corrected code < 4096 := by
  unfold State.corrected
  omega

/-- The result that input `i` shows of a conversion to `c`, and what the input's channel takes of it (R414). -/
def converted (i c : Nat) (s t : State) : Prop :=
  t.fld (fMon_RAW_CODE i) = c ∧ t.on (fMon_RAW_VALID i) = true ∧ t.on (fMon_RAW_FRESH i) = true ∧
    (s.on (fCh_CFG_EN i) = true → (Tab.get {} t.mon.ch i).inp = (Tab.get {} s.mon.ch i).inp ++ [(c : Int)])

/-- Only the channels of the monitor's state move. -/
def monKept (s t : State) : Prop := ∃ ch, t.mon = { s.mon with ch := ch }

theorem monKept.trans {s t u : State} (h : monKept s t) (h' : monKept t u) : monKept s u := by
  obtain ⟨c, hc⟩ := h
  obtain ⟨d, hd⟩ := h'
  exact ⟨d, by rw [hd, hc]⟩

theorem monKept.corrected {s t : State} (h : monKept s t) (code : Nat) : t.corrected code = s.corrected code := by
  obtain ⟨c, hc⟩ := h
  rw [State.corrected, hc, State.corrected]

theorem convert_effect (i code : Nat) (s : State) : let t := convert i code s
    converted i (s.corrected code) s t ∧ (∀ j, j ≠ i → Tab.get {} t.mon.ch j = Tab.get {} s.mon.ch j) ∧ monKept s t ∧
      onlyRegs (fun r => r = rMon_RAW i) s t ∧ onlyParts [.mon, .regs] s t := by
  obtain ⟨c, hc⟩ : ∃ c, c = s.corrected code := ⟨_, rfl⟩
  have hlt : c < 4096 := by rw [hc]; exact corrected_lt s code
  obtain ⟨a, ha⟩ : ∃ a, a = (s.setFld (fMon_RAW_CODE i) c).resultReady (rMon_RAW i) := ⟨_, rfl⟩
  have har : onlyRegs (fun r => r = rMon_RAW i) s a := by rw [ha]; exact (setFld_onlyReg s _ _ _ _).trans (resultReady_onlyRegs _ _)
  have hap : onlyParts [.regs] s a := by rw [ha]; exact (setFld_onlyParts s _ _).trans (resultReady_onlyParts _ _)
  have hcode : a.fld (fMon_RAW_CODE i) = c := by
    rw [ha, State.resultReady_eq]
    exact (State.fld_setFld_other _ _ _ _ _ _ _ (by decide) (by decide) (by decide) (by decide) (by decide)).trans
      (State.fld_setFld_self_of_lt s _ (by decide) (by simpa using hlt))
  have hbits : (a.reg (rMon_RAW i)).getLsbD 31 = true ∧ (a.reg (rMon_RAW i)).getLsbD 30 = true := by rw [ha]; exact resultReady_valid _ _
  have hmon : a.mon = s.mon := hap .mon (by decide)
  have hdef : convert i code s = if s.on (fCh_CFG_EN i) then a.modMon fun m =>
      { m with ch := Tab.set m.ch i { Tab.get ({} : MonCh) a.mon.ch i with inp := (Tab.get ({} : MonCh) a.mon.ch i).inp ++ [(c : Int)] } } else a := by
    unfold convert
    dsimp only
    rw [hmon, ← hc, ← ha]
  have hshown (t : State) (ht : t.regs = a.regs) :
      t.fld (fMon_RAW_CODE i) = c ∧ t.on (fMon_RAW_VALID i) = true ∧ t.on (fMon_RAW_FRESH i) = true := by
    refine ⟨(State.fld_congr ht _).trans hcode, ?_, ?_⟩
    · rw [State.on_eq_getLsbD, State.reg_congr ht]; exact hbits.1
    · rw [State.on_eq_getLsbD, State.reg_congr ht]; exact hbits.2
  simp only [← hc, hdef]
  split
  case isFalse hoff =>
    obtain ⟨h1, h2, h3⟩ := hshown a rfl
    exact ⟨⟨h1, h2, h3, fun h => absurd h hoff⟩, fun j _ => by rw [hmon], ⟨s.mon.ch, hmon⟩, har, hap.mono (by decide)⟩
  case isTrue hon =>
    obtain ⟨h1, h2, h3⟩ := hshown (a.modMon fun m =>
      { m with ch := Tab.set m.ch i { Tab.get ({} : MonCh) a.mon.ch i with inp := (Tab.get ({} : MonCh) a.mon.ch i).inp ++ [(c : Int)] } }) rfl
    refine ⟨⟨h1, h2, h3, fun _ => ?_⟩, fun j hj => ?_, ⟨_, by rw [← hmon]; rfl⟩, har.trans fun _ _ => rfl,
      (hap.mono (by decide)).trans ((modMon_onlyParts a _).mono (by decide))⟩
    · rw [← hmon]
      exact congrArg MonCh.inp (Tab.get_set_self _ _ _ _)
    · rw [← hmon]
      exact Tab.get_set_ne _ _ _ hj.symm

/-- Input `i` of a round is converted if the round enables it (R415). -/
def convertStep (volts : List Int) (mask : W32) (a : State) (i : Nat) : State :=
  if mask.getLsbD i then convert i (adcCode (volts.getD i 0)) a else a

/-- The inputs below `k` that the round enables have been converted. -/
def roundTaken (volts : List Int) (mask : W32) (k : Nat) (s t : State) : Prop :=
  (∀ i, i < k → mask.getLsbD i = true → converted i (s.corrected (adcCode (volts.getD i 0))) s t) ∧
    (∀ i, k ≤ i ∨ mask.getLsbD i = false → t.reg (rMon_RAW i) = s.reg (rMon_RAW i) ∧ Tab.get {} t.mon.ch i = Tab.get {} s.mon.ch i) ∧
    monKept s t ∧ onlyRegs (fun r => ∃ i, i < k ∧ r = rMon_RAW i) s t ∧ onlyParts [.mon, .regs] s t

theorem converted.congr {i c : Nat} {s t u : State} (h : converted i c s t) (hr : u.reg (rMon_RAW i) = t.reg (rMon_RAW i))
    (hm : Tab.get {} u.mon.ch i = Tab.get {} t.mon.ch i) : converted i c s u := by
  obtain ⟨h1, h2, h3, h4⟩ := h
  exact ⟨(State.fld_congr_reg hr).trans h1, by rw [State.on_eq_getLsbD, hr, ← State.on_eq_getLsbD]; exact h2,
    by rw [State.on_eq_getLsbD, hr, ← State.on_eq_getLsbD]; exact h3, fun hen => by rw [hm]; exact h4 hen⟩

theorem convertSteps_taken (volts : List Int) (mask : W32) (k : Nat) (s : State) :
    roundTaken volts mask k s ((List.range k).foldl (convertStep volts mask) s) := by
  induction k with
  | zero => exact ⟨fun i h => absurd h (Nat.not_lt_zero i), fun _ _ => ⟨rfl, rfl⟩, ⟨s.mon.ch, rfl⟩, .refl _ s, .refl _ s⟩
  | succ k ih =>
    obtain ⟨hin, hout, hm, hr, hp⟩ := ih
    rw [List.range_succ, List.foldl_append, List.foldl_cons, List.foldl_nil]
    generalize (List.range k).foldl (convertStep volts mask) s = a at hin hout hm hr hp
    have hr' : onlyRegs (fun r => ∃ i, i < k + 1 ∧ r = rMon_RAW i) s a := hr.mono fun r ⟨i, hi, h⟩ => ⟨i, by omega, h⟩
    unfold convertStep
    split
    case isFalse hmask =>
      have hmask' : mask.getLsbD k = false := by simpa using hmask
      refine ⟨fun i hi hmi => hin i ?_ hmi, fun i hi => hout i ?_, hm, hr', hp⟩
      · have hik : i ≠ k := fun h => hmask (h ▸ hmi)
        omega
      · by_cases hik : i = k
        · exact .inr (hik ▸ hmask')
        · exact hi.imp_left fun h => by omega
    case isTrue hmask =>
      obtain ⟨hconv, hch, hmk, hcr, hcp⟩ := convert_effect k (adcCode (volts.getD k 0)) a
      generalize convert k (adcCode (volts.getD k 0)) a = t at hconv hch hmk hcr hcp
      have hsame := hout k (.inl (le_refl k))
      have hen : a.on (fCh_CFG_EN k) = s.on (fCh_CFG_EN k) := hr.on (by simp)
      refine ⟨fun i hi hmi => ?_, fun i hi => ?_, hm.trans hmk, hr'.trans (hcr.mono fun r h => ⟨k, by omega, h⟩), hp.trans hcp⟩
      · by_cases hik : i = k
        · subst hik
          obtain ⟨h1, h2, h3, h4⟩ := hconv
          rw [hm.corrected] at h1 h4
          exact ⟨h1, h2, h3, fun h => by rw [h4 (hen.trans h), hsame.2]⟩
        · exact (hin i (by omega) hmi).congr (hcr _ (monRaw_ne hik)) (hch i hik)
      · have hik : i ≠ k := by
          rintro rfl
          exact hi.elim (fun h => absurd h (by omega)) fun h => absurd hmask (by rw [h]; exact Bool.false_ne_true)
        obtain ⟨h1, h2⟩ := hout i (hi.imp_left fun h => by omega)
        exact ⟨(hcr _ (monRaw_ne hik)).trans h1, (hch i hik).trans h2⟩

theorem round_claim {volts : List Int} {ow ref : Int × Int} {mask : W32} {r : List W32} {s : State} (ht : s.mon.trigs = [])
    (hr : s.mon.rounds = mask :: r) (hgoal : s.mon.goal = none) (how : s.mon.owRun + 1 < s.fld fMon_OW_CFG_OW_DIV)
    (hcal : s.on fMon_CAL_CTL_EN = false) (hpairs : s.mon.pairs = 0) :
    ∃ t, exec (.round volts ow ref) s = .next t ∧ t.mon.rounds = r ∧
      t.fld fMon_SEQ_STAT_ROUNDS = (s.fld fMon_SEQ_STAT_ROUNDS + 1) % 65536 ∧
      (∀ i, i < 16 → mask.getLsbD i = true → converted i (s.corrected (adcCode (volts.getD i 0))) s t) ∧
      (∀ i, i < 16 → mask.getLsbD i = false → t.reg (rMon_RAW i) = s.reg (rMon_RAW i)) ∧
      onlyRegs (fun x => x = rMon_SEQ_STAT ∨ ∃ i, i < 16 ∧ x = rMon_RAW i) s t ∧ onlyParts [.mon, .regs] s t := by
  obtain ⟨a, ha⟩ : ∃ a, a = s.modMon ({ · with rounds := r }) := ⟨_, rfl⟩
  have hap : onlyParts [.mon] s a := by rw [ha]; exact modMon_onlyParts s _
  have ham : a.mon = { s.mon with rounds := r } := by rw [ha]; rfl
  have hacorr (code : Nat) : a.corrected code = s.corrected code := by rw [State.corrected, ham, State.corrected]
  obtain ⟨hin, hout, ⟨ch, hch⟩, hbr, hbp⟩ := convertSteps_taken volts mask 16 a
  obtain ⟨b, hb⟩ : ∃ b, b = (List.range 16).foldl (convertStep volts mask) a := ⟨_, rfl⟩
  rw [← hb] at hin hout hch hbr hbp
  rw [ham] at hch
  obtain ⟨f, hf⟩ : ∃ f : MonSt → MonSt, (∀ m : MonSt, (f m).ch = m.ch ∧ (f m).rounds = m.rounds) ∧ exec (.round volts ow ref) s =
      .next ((b.modMon f).incWrap fMon_SEQ_STAT_ROUNDS) := by
    have hfirst : firstRound s = s := by
      unfold firstRound
      rw [delaysEnd_none ht]
      dsimp only
      rw [hr]
    have happly : calApply a = a := by rw [calApply, ham, hgoal]
    have hregs (f : FldId) (hf : f.reg = rMon_OW_CFG ∨ f.reg = rMon_CAL_CTL) : b.fld f = s.fld f := by
      refine (State.fld_congr_reg (hbr _ ?_)).trans (State.fld_congr (hap .regs (by decide)) f)
      rintro ⟨i, hi, h⟩
      obtain hf | hf := hf <;> rw [hf] at h <;> simp only [RegId.mk.injEq, true_and] at h <;> omega
    have hopen (u d : Nat) : openWire mask u d b = b.modMon ({ · with owRun := b.mon.owRun + 1 }) := by
      unfold openWire
      dsimp only
      rw [if_pos (by rw [hch, hregs _ (.inl rfl)]; exact how)]
    have hpair (p n : Nat) : ∃ x, calPair p n (b.modMon ({ · with owRun := b.mon.owRun + 1 })) =
        (b.modMon ({ · with owRun := b.mon.owRun + 1 })).modMon ({ · with calRun := x }) := by
      have hoff : (!(b.modMon ({ · with owRun := b.mon.owRun + 1 })).on fMon_CAL_CTL_EN) = true := by
        have h1 : (b.modMon ({ · with owRun := b.mon.owRun + 1 })).fld fMon_CAL_CTL_EN = s.fld fMon_CAL_CTL_EN := hregs _ (.inr rfl)
        rw [State.on, h1, ← State.on, hcal]
        rfl
      have hzero : (b.modMon ({ · with owRun := b.mon.owRun + 1 })).mon.pairs = 0 := by
        show b.mon.pairs = 0
        rw [hch]
        exact hpairs
      refine ⟨if decide ((b.modMon ({ · with owRun := b.mon.owRun + 1 })).fld fMon_CAL_CTL_INTERVAL ≤
        (b.modMon ({ · with owRun := b.mon.owRun + 1 })).mon.calRun + 1) then 0 else (b.modMon ({ · with owRun := b.mon.owRun + 1 })).mon.calRun + 1, ?_⟩
      unfold calPair
      dsimp only
      rw [if_pos hoff, if_pos hzero]
    obtain ⟨x, hx⟩ := hpair (adcCode ref.1) (adcCode ref.2)
    refine ⟨fun m => { m with owRun := b.mon.owRun + 1, calRun := x }, fun m => ⟨rfl, rfl⟩, ?_⟩
    show execRound volts ow ref s = _
    unfold execRound
    rw [hfirst]
    dsimp only
    rw [hr]
    dsimp only
    rw [← ha, happly]
    have hfold : (List.range 16).foldl (fun a i => if mask.getLsbD i then convert i (adcCode (volts.getD i 0)) a else a) a = b := hb.symm
    rw [hfold, hopen, hx]
    rfl
  obtain ⟨hfm, hdef⟩ := hf
  obtain ⟨t, htq⟩ : ∃ t, t = (b.modMon f).incWrap fMon_SEQ_STAT_ROUNDS := ⟨_, rfl⟩
  have htp : onlyParts [.mon, .regs] b t := by
    rw [htq]; exact ((modMon_onlyParts b _).mono (by decide)).trans ((incWrap_onlyParts _ _).mono (by decide))
  have htr : onlyRegs (fun r => r = rMon_SEQ_STAT) b t := by rw [htq]; exact incWrap_onlyReg (b.modMon f) _ _ _
  have htch : t.mon.ch = b.mon.ch ∧ t.mon.rounds = b.mon.rounds := by rw [htq]; exact hfm b.mon
  have hseq : t.fld fMon_SEQ_STAT_ROUNDS = (b.fld fMon_SEQ_STAT_ROUNDS + 1) % 65536 := by
    rw [htq]; exact State.incWrap_self (b.modMon f) rMon_SEQ_STAT (by decide)
  have hraw (i : Nat) : t.reg (rMon_RAW i) = b.reg (rMon_RAW i) := htr _ (by simp; omega)
  have hbseq : b.fld fMon_SEQ_STAT_ROUNDS = s.fld fMon_SEQ_STAT_ROUNDS :=
    (hbr.fld (by simp only [RegId.mk.injEq, true_and, not_exists]; omega)).trans (State.fld_congr (hap .regs (by decide)) _)
  refine ⟨t, hdef.trans (by rw [htq]), by rw [htch.2, hch], by rw [hseq, hbseq], fun i hi hmi => ?_, fun i _ hmi => ?_, ?_,
    (hap.mono (by decide)).trans (hbp.trans htp)⟩
  · obtain ⟨h1, h2, h3, h4⟩ := (hin i hi hmi).congr (hraw i) (by rw [htch.1])
    rw [hacorr] at h1 h4
    have hen : a.on (fCh_CFG_EN i) = s.on (fCh_CFG_EN i) := by rw [State.on, State.fld_congr (hap .regs (by decide)), State.on]
    exact ⟨h1, h2, h3, fun h => by rw [h4 (hen.trans h), ham]⟩
  · exact ((hraw i).trans (hout i (.inr hmi)).1).trans (State.reg_congr (hap .regs (by decide)) _)
  · have has : onlyRegs (fun x => x = rMon_SEQ_STAT ∨ ∃ i, i < 16 ∧ x = rMon_RAW i) s a := fun r _ => State.reg_congr (hap .regs (by decide)) r
    exact (has.trans (hbr.mono fun r h => .inr h)).trans (htr.mono fun _ => .inl)

end Sys2Proof.Machine

end

section
/-! PROOFS. The rest of the claim about the monitor: decimation channels and their thresholds (R418, R419, R424, R425). -/

-- The checked text is one long file: elaborating these in order bounds its threads and memory.
set_option Elab.async false

namespace Sys2Proof.Machine

/-! ## Outputs forced safe by masks (R425) -/

theorem mem_maskBits {n k m : Nat} : n ∈ maskBits k m ↔ n < k ∧ m.testBit n = true := by
  simp [maskBits]

/-- Heater `n` that is high falls, which triggers the sequencer (R416). -/
def fallStep (a : State) (n : Nat) : State := if a.htrHigh n then monTrigger (.htrFall n) a else a

/-- Bias channel `n` is driven to its safe value and held there (R425). -/
def holdStep (a : State) (n : Nat) : State :=
  (a.emit (biasOut n (a.actFld (fBias_CODE_SPAN n)) none)).modBias fun b =>
    { b with held := if b.held.contains n then b.held else n :: b.held }

/-- Heater `n` is driven low and stays so (R425). -/
def coolStep (a : State) (n : Nat) : State :=
  (a.emit (htrPin n false)).modBias fun b =>
    { b with htr := match Tab.find b.htr n with | some (_, p) => Tab.set b.htr n (0, p) | none => b.htr }

theorem fallStep_onlyParts (a : State) (n : Nat) : onlyParts [.mon] a (fallStep a n) := by
  unfold fallStep
  split
  · exact monTrigger_onlyParts _ a
  · exact .refl _ a

theorem holdStep_onlyParts (a : State) (n : Nat) : onlyParts [.bias, .out] a (holdStep a n) :=
  ((emit_onlyParts a _).mono (by decide)).trans ((modBias_onlyParts _ _).mono (by decide))

theorem coolStep_onlyParts (a : State) (n : Nat) : onlyParts [.bias, .out] a (coolStep a n) :=
  ((emit_onlyParts a _).mono (by decide)).trans ((modBias_onlyParts _ _).mono (by decide))

theorem holdStep_outsKept (a : State) (n : Nat) : outsKept a (holdStep a n) := outsKept.emit a _

theorem coolStep_outsKept (a : State) (n : Nat) : outsKept a (coolStep a n) := outsKept.emit a _

/-- BIAS.TRIP with the bits of the masks set. -/
def tripped (biases heaters : Nat) (s a : State) : State :=
  (a.setFld fBias_TRIP_BIAS (Nat.lor (s.fld fBias_TRIP_BIAS) biases)).setFld fBias_TRIP_HTR (Nat.lor (s.fld fBias_TRIP_HTR) heaters)

theorem forceSafe_eq (biases heaters : Nat) (s : State) :
    forceSafe biases heaters s =
      (let t := (maskBits 8 heaters).foldl coolStep ((maskBits 16 biases).foldl holdStep
        (tripped biases heaters s ((maskBits 8 heaters).foldl fallStep s)))
      if biases = 0 ∧ heaters = 0 then t else raise_ fBias_EVENT_TRIP_ACT t) := by
  unfold forceSafe tripped holdStep coolStep fallStep
  rfl

theorem testBit_lor_right {m n k : Nat} (h : n.testBit k = true) : (Nat.lor m n).testBit k = true := by
  rw [Nat.lor_eq, Nat.testBit_or, h, Bool.or_true]

theorem tripped_effect (biases heaters : Nat) (s a : State) : let t := tripped biases heaters s a
    (∀ n, n < 16 → biases.testBit n = true → t.biasTripped n = true) ∧
      (∀ n, n < 8 → heaters.testBit n = true → (t.reg rBias_TRIP).getLsbD (16 + n) = true) ∧
      moved (fun r => r = rBias_TRIP) [.regs] a t := by
  obtain ⟨x, hx⟩ : ∃ x, x = Nat.lor (s.fld fBias_TRIP_BIAS) biases := ⟨_, rfl⟩
  obtain ⟨y, hy⟩ : ∃ y, y = Nat.lor (s.fld fBias_TRIP_HTR) heaters := ⟨_, rfl⟩
  have hdef : tripped biases heaters s a = (a.setFld fBias_TRIP_BIAS x).setFld fBias_TRIP_HTR y := by rw [hx, hy]; rfl
  have hset (u : State) (f : FldId) (hf : f.reg = rBias_TRIP) (v : Nat) : moved (fun r => r = rBias_TRIP) [.regs] u (u.setFld f v) :=
    setFld_moved f hf (by decide) u v
  simp only [hdef]
  refine ⟨fun n hn hb => ?_, fun n hn hb => ?_, (hset a fBias_TRIP_BIAS rfl x).trans (hset _ fBias_TRIP_HTR rfl y)⟩
  · rw [State.biasTripped, ← State.on_eq_getLsbD, State.on,
      State.fld_setFld_other _ _ _ _ _ _ _ (by decide) (by decide) (le_refl n) (by omega) (.inl (show n < 16 by omega)), ← State.on,
      State.on_eq_getLsbD, State.setFld, State.reg_setReg_self, getLsbD_putBits_part _ _ (by decide) (Nat.zero_le n) (show n ≤ 15 by omega),
      Nat.sub_zero, ← Nat.testBit_eq_decide_div_mod_eq, hx]
    exact testBit_lor_right hb
  · have h16 : 16 + n - 16 = n := by omega
    rw [State.setFld, State.reg_setReg_self, getLsbD_putBits_part _ _ (by decide) (show 16 ≤ 16 + n by omega) (show 16 + n ≤ 23 by omega), h16,
      ← Nat.testBit_eq_decide_div_mod_eq, hy]
    exact testBit_lor_right hb

/-- What forcing outputs safe by masks leaves (R425). -/
theorem forceSafe_effect (biases heaters : Nat) (s : State) : let t := forceSafe biases heaters s
    (∀ n, n < 16 → biases.testBit n = true → t.biasTripped n = true ∧ biasOut n (s.actFld (fBias_CODE_SPAN n)) none ∈ t.host.out) ∧
      (∀ n, n < 8 → heaters.testBit n = true → (t.reg rBias_TRIP).getLsbD (16 + n) = true ∧ htrPin n false ∈ t.host.out) ∧
      moved (fun r => r = rBias_TRIP ∨ r = rBias_EVENT ∨ noteReg r) [.mon, .bias, .rings, .regs, .out] s t := by
  obtain ⟨a, ha⟩ : ∃ a, a = (maskBits 8 heaters).foldl fallStep s := ⟨_, rfl⟩
  have hap : onlyParts [.mon] s a := by rw [ha]; exact onlyParts.foldl fallStep_onlyParts _ s
  obtain ⟨hbias, hhtr, hbm⟩ := tripped_effect biases heaters s a
  obtain ⟨b, hb⟩ : ∃ b, b = tripped biases heaters s a := ⟨_, rfl⟩
  rw [← hb] at hbias hhtr hbm
  have hact : b.act = s.act := (hbm.2 .act (by decide)).trans (hap .act (by decide))
  obtain ⟨c, hc⟩ : ∃ c, c = (maskBits 16 biases).foldl holdStep b := ⟨_, rfl⟩
  have hcp : onlyParts [.bias, .out] b c := by rw [hc]; exact onlyParts.foldl holdStep_onlyParts _ b
  have hco (n : Nat) (hn : n < 16) (hb : biases.testBit n = true) : biasOut n (s.actFld (fBias_CODE_SPAN n)) none ∈ c.host.out := by
    rw [hc]
    refine mem_out_foldl_of (P := fun x => x.act = s.act) (fun x y hx => ⟨(holdStep_onlyParts x y .act (by decide)).trans hx, holdStep_outsKept x y⟩)
      (fun x hx => ?_) (mem_maskBits.2 ⟨hn, hb⟩) hact
    rw [← State.actFld_congr hx]
    exact List.mem_cons_self
  obtain ⟨d, hd⟩ : ∃ d, d = (maskBits 8 heaters).foldl coolStep c := ⟨_, rfl⟩
  have hdp : onlyParts [.bias, .out] c d := by rw [hd]; exact onlyParts.foldl coolStep_onlyParts _ c
  have hdk : outsKept c d := by rw [hd]; exact outsKept.foldl coolStep_outsKept _ c
  have hdo (n : Nat) (hn : n < 8) (hb : heaters.testBit n = true) : htrPin n false ∈ d.host.out := by
    rw [hd]
    exact mem_out_foldl (g := fun n => htrPin n false) coolStep_outsKept (fun a n => List.mem_cons_self) (mem_maskBits.2 ⟨hn, hb⟩) c
  have hdr : d.regs = b.regs := (hdp .regs (by decide)).trans (hcp .regs (by decide))
  have hsd : moved (fun r => r = rBias_TRIP ∨ r = rBias_EVENT ∨ noteReg r) [.mon, .bias, .rings, .regs, .out] s d :=
    (((hap.moved (by decide) _ (by decide)).trans (hbm.mono (fun _ => .inl) (by decide))).trans (hcp.moved (by decide) _ (by decide))).trans
      (hdp.moved (by decide) _ (by decide))
  obtain ⟨t, ht⟩ : ∃ t, t = forceSafe biases heaters s := ⟨_, rfl⟩
  have htd : moved (fun r => r = rBias_EVENT ∨ noteReg r) [.rings, .regs, .out] d t ∧ outsKept d t := by
    have hdef := forceSafe_eq biases heaters s
    dsimp only at hdef
    rw [← ht, ← ha, ← hb, ← hc, ← hd] at hdef
    rw [hdef]
    split
    · exact ⟨.refl _ _ d, fun _ h => h⟩
    · exact ⟨⟨raise_onlyRegs fBias_EVENT_TRIP_ACT d, raise_onlyParts _ d⟩, raise_outsKept _ d⟩
  obtain ⟨htm, hto⟩ := htd
  have htrip : t.reg rBias_TRIP = b.reg rBias_TRIP := (htm.1 _ (by simp [noteReg])).trans (State.reg_congr hdr _)
  simp only [← ht]
  refine ⟨fun n hn hb => ⟨?_, hto _ (hdk _ (hco n hn hb))⟩, fun n hn hb => ⟨?_, hto _ (hdo n hn hb)⟩, hsd.trans (htm.mono (fun _ => .inr) (by decide))⟩
  · rw [State.biasTripped, htrip]
    exact hbias n hn hb
  · rw [htrip]
    exact hhtr n hn hb

/-! ## Decimation (R418, R419) -/

/-- Channel `c`'s state. -/
def State.monCh (s : State) (c : Nat) : MonCh := Tab.get {} s.mon.ch c

/-- The runs of the threshold test are those of `h` (R424). -/
def sameRuns (h k : MonCh) : Prop := k.inp = [] ∧ k.hi = h.hi ∧ k.lo = h.lo ∧ k.hiDone = h.hiDone ∧ k.loDone = h.loDone

theorem exec_channelOutput {c : Nat} {s : State} {x y : Int} (hc : c < 4) (hen : s.on (fCh_CFG_EN c) = true) (hrs : s.on (fCh_CFG_RS_EN c) = false)
    (hlen : (s.monCh c).inp.length = s.fld (fCh_CFG_DECIM c)) (hints : (s.monCh c).ints.length = s.fld (fCh_CFG_ORDER c) + 3)
    (hcombs : (s.monCh c).combs.length = s.fld (fCh_CFG_ORDER c) + 3)
    (hx : (cicOut (s.monCh c).combs (((s.monCh c).inp.foldl cicIn (s.monCh c).ints).getLastD 0)).2 = x)
    (hy : stageShift (s.fld (fCh_CFG_SHIFT_CIC c)) x = (y, false)) :
    ∃ h, sameRuns (s.monCh c) h ∧
      exec (.channelOutput c []) s = .next (thresholds c y h ((s.setSFld (fCh_OUT_VALUE c) y).resultReady (rCh_OUT c))) := by
  obtain ⟨m, hm⟩ : ∃ m, m = s.monCh c := ⟨_, rfl⟩
  rw [← hm] at hlen hints hcombs hx ⊢
  obtain ⟨ints, hi⟩ : ∃ ints, ints = m.inp.foldl cicIn m.ints := ⟨_, rfl⟩
  obtain ⟨combs, x', hcic⟩ : ∃ combs x', cicOut m.combs (ints.getLastD 0) = (combs, x') := ⟨_, _, rfl⟩
  have hxx : x' = x := by rw [← hx, ← hi, hcic]
  refine ⟨{ m with inp := [], ints := ints, combs := combs, hist := (y :: m.hist).take 16, n := m.n + 1 }, ⟨rfl, rfl, rfl, rfl, rfl⟩, ?_⟩
  show execChannelOutput c [] s = _
  have hno : ¬ (24 ≤ c ∨ (!s.on (fCh_CFG_EN c)) = true) := by
    rw [hen]
    exact fun h => h.elim (by omega) Bool.false_ne_true
  have h16 : c < 16 := by omega
  have hget : Tab.get {} s.mon.ch c = m := hm.symm
  have htake : m.inp.take (s.fld (fCh_CFG_DECIM c)) = m.inp := by rw [← hlen, List.take_length]
  have hdrop : m.inp.drop (s.fld (fCh_CFG_DECIM c)) = [] := by rw [← hlen, List.drop_length]
  unfold execChannelOutput
  rw [hget]
  dsimp only
  rw [if_neg hno, if_pos h16, if_neg (by omega), htake, hdrop]
  unfold chRun
  dsimp only
  rw [if_pos hints, if_pos hcombs, ← hi, hcic]
  dsimp only
  rw [hxx, hy]
  dsimp only
  rw [hrs, if_neg Bool.false_ne_true, if_neg Bool.false_ne_true, chOutput, if_pos hc]

theorem output_effect {c : Nat} {y : Int} {s : State} (h1 : -8388608 ≤ y) (h2 : y < 8388608) :
    let t := (s.setSFld (fCh_OUT_VALUE c) y).resultReady (rCh_OUT c)
    t.sfld (fCh_OUT_VALUE c) = y ∧ t.on (fCh_OUT_VALID c) = true ∧ t.on (fCh_OUT_FRESH c) = true ∧ moved (fun r => r = rCh_OUT c) [.regs] s t := by
  obtain ⟨h31, h30⟩ := resultReady_valid (s.setSFld (fCh_OUT_VALUE c) y) (rCh_OUT c)
  refine ⟨?_, by rw [State.on_eq_getLsbD]; exact h31, by rw [State.on_eq_getLsbD]; exact h30,
    (setSFld_onlyReg s _ _ _ _).trans (resultReady_onlyRegs _ _), (setSFld_onlyParts s _ _).trans (resultReady_onlyParts _ _)⟩
  rw [State.resultReady_eq, State.sfld, State.fld_setFld_other _ _ _ _ _ _ _ (by decide) (by decide) (by decide) (by decide) (by decide)]
  exact State.sfld_setSFld_self s _ (by decide) (by norm_num; omega) (by norm_num; omega)

theorem stageShift_bounds {n : Nat} {x y : Int} {clip : Bool} (h : stageShift n x = (y, clip)) : -8388608 ≤ y ∧ y < 8388608 := by
  simp only [stageShift, Prod.mk.injEq] at h
  omega

/-! ## Thresholds (R424) -/

/-- The runs of a channel while neither of its thresholds is enabled. -/
theorem thresholds_off {c : Nat} {y : Int} {h : MonCh} {s : State} (hhi : s.on (fCh_ACT_HI_EN c) = false) (hlo : s.on (fCh_ACT_LO_EN c) = false) :
    thresholds c y h s = s.modMon fun m => { m with ch := Tab.set m.ch c { h with hi := 0, lo := 0, hiDone := false, loDone := false } } := by
  unfold thresholds
  rw [hhi, hlo]
  simp

theorem channelOutput_quiet {c : Nat} {s : State} {x y : Int} (hc : c < 4) (hen : s.on (fCh_CFG_EN c) = true) (hrs : s.on (fCh_CFG_RS_EN c) = false)
    (hlen : (s.monCh c).inp.length = s.fld (fCh_CFG_DECIM c)) (hhi : s.on (fCh_ACT_HI_EN c) = false) (hlo : s.on (fCh_ACT_LO_EN c) = false)
    (hints : (s.monCh c).ints.length = s.fld (fCh_CFG_ORDER c) + 3) (hcombs : (s.monCh c).combs.length = s.fld (fCh_CFG_ORDER c) + 3)
    (hx : (cicOut (s.monCh c).combs (((s.monCh c).inp.foldl cicIn (s.monCh c).ints).getLastD 0)).2 = x)
    (hy : stageShift (s.fld (fCh_CFG_SHIFT_CIC c)) x = (y, false)) :
    ∃ t, exec (.channelOutput c []) s = .next t ∧ t.sfld (fCh_OUT_VALUE c) = y ∧ t.on (fCh_OUT_VALID c) = true ∧
      t.on (fCh_OUT_FRESH c) = true ∧ (t.monCh c).inp = [] ∧
      (∀ d, d ≠ c → t.monCh d = s.monCh d) ∧ onlyRegs (fun r => r = rCh_OUT c) s t ∧ onlyParts [.mon, .regs] s t := by
  obtain ⟨h, ⟨hinp, -, -, -, -⟩, hexec⟩ := exec_channelOutput hc hen hrs hlen hints hcombs hx hy
  obtain ⟨h1, h2⟩ := stageShift_bounds hy
  obtain ⟨hv, hvalid, hfresh, hm⟩ := output_effect (c := c) (s := s) h1 h2
  obtain ⟨a, ha⟩ : ∃ a, a = (s.setSFld (fCh_OUT_VALUE c) y).resultReady (rCh_OUT c) := ⟨_, rfl⟩
  rw [← ha] at hexec hv hvalid hfresh hm
  rw [thresholds_off ((hm.1.on (by simp)).trans hhi) ((hm.1.on (by simp)).trans hlo)] at hexec
  have hmon : a.mon = s.mon := hm.2 .mon (by decide)
  refine ⟨_, hexec, hv, hvalid, hfresh, ?_, fun d hd => ?_, hm.1.trans fun _ _ => rfl,
    (hm.2.mono (by decide)).trans ((modMon_onlyParts a _).mono (by decide))⟩
  · exact (congrArg MonCh.inp (Tab.get_set_self _ _ _ _)).trans hinp
  · refine (Tab.get_set_ne _ _ _ hd.symm).trans ?_
    rw [hmon, State.monCh]

/-- A run above HI that reaches CNT trips the channel once (R424). -/
theorem thresholds_high {c : Nat} {y : Int} {h : MonCh} {s : State} (hhi : s.on (fCh_ACT_HI_EN c) = true) (hlo : s.on (fCh_ACT_LO_EN c) = false)
    (hy : s.sfld (fCh_HI_HI c) < y) (hcnt : s.fld (fCh_ACT_CNT c) ≤ h.hi + 1) (hdone : h.hiDone = false) :
    ∃ k, thresholds c y h s = trip c ⟨rMon_TRIP, c, c⟩ (s.modMon fun m => { m with ch := Tab.set m.ch c k }) := by
  refine ⟨{ h with hi := h.hi + 1, lo := 0, hiDone := true, loDone := false }, ?_⟩
  unfold thresholds
  rw [hhi, hlo]
  simp [hy, hcnt, hdone]

theorem channelOutput_trips {c : Nat} {x : Int} {s : State} (hc : c < 4) (hen : s.on (fCh_CFG_EN c) = true) (hrs : s.on (fCh_CFG_RS_EN c) = false)
    (hinp : (s.monCh c).inp = List.replicate (s.fld (fCh_CFG_DECIM c)) x) (hdecim : s.fld (fCh_CFG_DECIM c) = 1) (horder : s.fld (fCh_CFG_ORDER c) = 0)
    (hints : (s.monCh c).ints = [0, 0, 0]) (hcombs : (s.monCh c).combs = [0, 0, 0]) (hshift : s.fld (fCh_CFG_SHIFT_CIC c) = 0)
    (hhi : s.on (fCh_ACT_HI_EN c) = true) (hlo : s.on (fCh_ACT_LO_EN c) = false) (hx : s.sfld (fCh_HI_HI c) < x) (hx2 : x < 8388608)
    (hcnt : s.fld (fCh_ACT_CNT c) ≤ (s.monCh c).hi + 1) (hdone : (s.monCh c).hiDone = false) (hp : s.pState < 2) (htr : s.on fPwr_STATE_TRANS = false) :
    ∃ t, exec (.channelOutput c []) s = .next t ∧ t.sfld (fCh_OUT_VALUE c) = x ∧ (t.reg rMon_TRIP).getLsbD c = true ∧
      t.on fMon_EVENT_TRIP = true ∧
      (∀ n, n < 16 → (s.fld (fCh_ACT_BIAS_MASK c)).testBit n = true → t.biasTripped n = true ∧
        biasOut n (s.actFld (fBias_CODE_SPAN n)) none ∈ t.host.out) ∧
      (∀ n, n < 8 → (s.fld (fCh_ACT_HTR_MASK c)).testBit n = true → (t.reg rBias_TRIP).getLsbD (16 + n) = true ∧ htrPin n false ∈ t.host.out) ∧
      onlyRegs (fun r => r = rCh_OUT c ∨ r = rMon_TRIP ∨ r = rMon_EVENT ∨ r = rBias_TRIP ∨ r = rBias_EVENT ∨ noteReg r) s t ∧
      onlyParts [.mon, .bias, .rings, .regs, .out] s t := by
  have hx1 : -8388608 ≤ x := by
    have h1 : -8388608 ≤ s.sfld (fCh_HI_HI c) := by
      unfold State.sfld signed
      split
      · omega
      · next h =>
        norm_num at h ⊢
        omega
    omega
  have hone : (s.monCh c).inp = [x] := by rw [hinp, hdecim]; rfl
  have hcic : (cicOut (s.monCh c).combs (((s.monCh c).inp.foldl cicIn (s.monCh c).ints).getLastD 0)).2 = x := by
    rw [hone, hints, hcombs]
    simp [cicIn, cicOut]
  have hy : stageShift (s.fld (fCh_CFG_SHIFT_CIC c)) x = (x, false) := by
    rw [hshift]
    simp only [stageShift, Prod.mk.injEq]
    refine ⟨?_, ?_⟩
    · simp only [if_true]
      omega
    · simp only [if_true]
      exact decide_eq_false (by omega)
  obtain ⟨h, ⟨-, hhi', -, hdone', -⟩, hexec⟩ := exec_channelOutput hc hen hrs (by rw [hone, hdecim]; rfl) (by rw [hints, horder]; rfl)
    (by rw [hcombs, horder]; rfl) hcic hy
  obtain ⟨hv, -, -, hm⟩ := output_effect (c := c) (s := s) hx1 hx2
  obtain ⟨a, ha⟩ : ∃ a, a = (s.setSFld (fCh_OUT_VALUE c) x).resultReady (rCh_OUT c) := ⟨_, rfl⟩
  rw [← ha] at hexec hv hm
  have haf (o hi lo : Nat) (ho : o ≠ 0x18) : a.fld ⟨⟨.ch, c, o⟩, hi, lo⟩ = s.fld ⟨⟨.ch, c, o⟩, hi, lo⟩ := hm.1.fld (by simpa using ho)
  obtain ⟨k, hk⟩ := thresholds_high (c := c) (y := x) (h := h) (s := a) ((hm.1.on (by simp)).trans hhi) ((hm.1.on (by simp)).trans hlo)
    (by rw [hm.1.sfld (by simp)]; exact hx) (by rw [haf _ _ _ (by decide), hhi']; exact hcnt) (hdone'.trans hdone)
  rw [hk] at hexec
  obtain ⟨b, hb⟩ : ∃ b, b = a.modMon fun m => { m with ch := Tab.set m.ch c k } := ⟨_, rfl⟩
  have hbp : onlyParts [.mon] a b := by rw [hb]; exact modMon_onlyParts a _
  obtain ⟨d, hd⟩ : ∃ d, d = b.setFld ⟨rMon_TRIP, c, c⟩ 1 := ⟨_, rfl⟩
  have hdm : moved (fun r => r = rMon_TRIP) [.regs] b d := by rw [hd]; exact ⟨setFld_onlyReg b rMon_TRIP c c 1, setFld_onlyParts b _ _⟩
  have hdt : d.on ⟨rMon_TRIP, c, c⟩ = true := by
    have h1 : c + 1 - c = 1 := by omega
    rw [hd]
    exact bne_iff_ne.2 (by rw [State.fld_setFld_self_of_lt b _ ⟨le_refl c, by omega⟩ (by rw [h1]; decide)]; decide)
  obtain ⟨e, he⟩ : ∃ e, e = raise_ fMon_EVENT_TRIP d := ⟨_, rfl⟩
  have hem : moved (fun r => r = rMon_EVENT ∨ noteReg r) [.rings, .regs, .out] d e := by
    rw [he]; exact ⟨raise_onlyRegs fMon_EVENT_TRIP d, raise_onlyParts _ d⟩
  have hee : e.fld fMon_EVENT_TRIP = 1 := by rw [he]; exact raise_fld_self _ _ (by decide) ⟨Blk.noConfusion, Blk.noConfusion⟩
  have hse : moved (fun r => r = rCh_OUT c ∨ r = rMon_TRIP ∨ r = rMon_EVENT ∨ r = rBias_TRIP ∨ r = rBias_EVENT ∨ noteReg r)
      [.mon, .bias, .rings, .regs, .out] s e :=
    (((hm.mono (fun _ => .inl) (by decide)).trans (hbp.moved (by decide) _ (by decide))).trans
      (hdm.mono (fun _ h => .inr (.inl h)) (by decide))).trans (hem.mono (fun r h => h.elim (fun h => .inr (.inr (.inl h))) fun h =>
        .inr (.inr (.inr (.inr (.inr h))))) (by decide))
  have hef (f : FldId) (hf : ¬ (f.reg = rCh_OUT c ∨ f.reg = rMon_TRIP ∨ f.reg = rMon_EVENT ∨ f.reg = rBias_TRIP ∨ f.reg = rBias_EVENT ∨ noteReg f.reg)) :
      e.fld f = s.fld f := State.fld_congr_reg (hse.1 _ hf)
  obtain ⟨t, ht⟩ : ∃ t, t = forceSafe (s.fld (fCh_ACT_BIAS_MASK c)) (s.fld (fCh_ACT_HTR_MASK c)) e := ⟨_, rfl⟩
  have htrip : trip c ⟨rMon_TRIP, c, c⟩ b = t := by
    have hidle : wake 5 e = e := by
      refine wake_of_idle 5 ?_ ?_
      · rw [State.pState, hef _ (by simp [noteReg])]
        exact hp
      · rw [State.on, hef _ (by simp [noteReg])]
        exact htr
    have hmask (hi lo : Nat) : b.fld ⟨rCh_ACT c, hi, lo⟩ = s.fld ⟨rCh_ACT c, hi, lo⟩ :=
      (State.fld_congr (hbp .regs (by decide)) _).trans (haf _ _ _ (by decide))
    rw [trip, ← hd, ← he, hidle, hmask, hmask, ht]
  obtain ⟨hbias, hhtr, htm⟩ := forceSafe_effect (s.fld (fCh_ACT_BIAS_MASK c)) (s.fld (fCh_ACT_HTR_MASK c)) e
  rw [← ht] at hbias hhtr htm
  have hact : e.act = s.act := hse.2 .act (by decide)
  refine ⟨t, by rw [hexec, ← hb, htrip], ?_, ?_, ?_, fun n hn hbit => ?_, hhtr, ?_, ?_⟩
  · rw [htm.1.sfld (by simp [noteReg]), hem.1.sfld (by simp [noteReg]), hdm.1.sfld (by simp), State.sfld, State.fld_congr (hbp .regs (by decide)), ← State.sfld]
    exact hv
  · rw [htm.1 _ (by simp [noteReg]), hem.1 _ (by simp [noteReg]), ← State.on_eq_getLsbD]
    exact hdt
  · refine bne_iff_ne.2 ?_
    rw [htm.1.fld (by simp [noteReg]), hee]
    decide
  · obtain ⟨h1, h2⟩ := hbias n hn hbit
    exact ⟨h1, by rw [← State.actFld_congr hact]; exact h2⟩
  · exact hse.1.trans (htm.1.mono fun r h => .inr (.inr (.inr h)))
  · exact hse.2.trans htm.2

/-- Settles O42: a trigger's round waits or is counted as lost, a round converts the enabled inputs with the correction in use, a channel puts
its inputs through the CIC, and a run above its threshold trips the outputs that it names. -/
theorem theMonitorConverts : Obligations.TheMonitorConverts := by
  unfold Obligations.TheMonitorConverts
  refine ⟨fun s hen hon ht hd hr => ?_, fun g s hg hen hon ht hd => seqTrigger_delayed hg hen hon ht hd,
    fun g mask due s h1 h2 ht hr => seqTrigger_ends h1 h2 ht hr, fun s hen hon ht hd hr => seqTrigger_overrun hen hon ht hd hr,
    fun volts ow ref mask r s ht hr hg how hcal hp => round_claim ht hr hg how hcal hp,
    fun c s hc hen hrs hlen hhi hlo hi hco x y hx hy => channelOutput_quiet hc hen hrs hlen hhi hlo hi hco hx hy,
    fun c x s hc hen hrs hinp hdec hord hi hco hsh hhi hlo hx hx2 hcnt hdone hp htr =>
      channelOutput_trips hc hen hrs hinp hdec hord hi hco hsh hhi hlo hx hx2 hcnt hdone hp htr⟩
  rw [seqTrigger_immediate (.inl rfl) hen hon ht hd, startRound_room hr]

end Sys2Proof.Machine

end

section
/-! SUPPORT. The built-in self-test (R497-R499): what it measures and shows, and what the reset of a block leaves. -/

-- The checked text is one long file: elaborating these in order bounds its threads and memory.
set_option Elab.async false

namespace Sys2Proof.Machine

/-! ## What the self-test shows -/

theorem bistMeasure_moved (mv worst : Nat) (dev : Int) (s : State) :
    moved (fun r => r = rTst_VDD ∨ r = rTst_CLK) [.regs] s (bistMeasure mv worst dev s) := by
  have hset (a : State) (f : FldId) (hf : f.reg = rTst_VDD ∨ f.reg = rTst_CLK) (v : Nat) :
      moved (fun r => r = rTst_VDD ∨ r = rTst_CLK) [.regs] a (a.setFld f v) := setFld_moved f hf (by decide) a v
  exact ((hset s fTst_VDD_MV (.inl rfl) mv).trans (hset _ fTst_CLK_WORST (.inr rfl) worst)).trans
    (hset _ fTst_CLK_DEV (.inr rfl) (unsigned 16 dev))

theorem unsigned_lt (n : Nat) (v : Int) : unsigned n v < 2 ^ n := by
  have hp : (0 : Int) < 2 ^ n := by positivity
  have hlt : v % 2 ^ n < 2 ^ n := Int.emod_lt_of_pos _ hp
  have hge : 0 ≤ v % 2 ^ n := Int.emod_nonneg _ hp.ne'
  unfold unsigned
  zify
  rw [Int.toNat_of_nonneg hge]
  exact hlt

theorem bistMeasure_shows (mv worst : Nat) (dev : Int) (s : State) : let t := bistMeasure mv worst dev s
    t.fld fTst_VDD_MV = mv % 2 ^ 16 ∧ t.fld fTst_CLK_WORST = worst % 2 ^ 3 ∧ t.fld fTst_CLK_DEV = unsigned 16 dev := by
  refine ⟨?_, ?_, ?_⟩
  · exact ((setSFld_onlyReg _ _ _ _ _).fld (by decide)).trans
      (((setFld_onlyReg _ _ _ _ _).fld (by decide)).trans (State.fld_setFld_self _ _ _ _ _ (by decide) (by decide)))
  · exact (State.fld_setFld_other _ _ _ _ _ _ _ (by decide) (by decide) (by decide) (by decide) (by decide)).trans
      (State.fld_setFld_self _ _ _ _ _ (by decide) (by decide))
  · exact State.fld_setFld_self_of_lt _ _ (by decide) (unsigned_lt 16 dev)

theorem showActive_moved (mask : Nat) (s : State) : moved (fun r => ∃ j, r = rTst_ACTIVE j) [.regs] s (showActive mask s) :=
  .foldl (fun a j _ => setFld_moved (P := fun r => ∃ j, r = rTst_ACTIVE j) (fTst_ACTIVE_MASK j) ⟨j, rfl⟩ (by decide) a _) s

theorem showActive_shows (mask : Nat) (s : State) : let t := showActive mask s
    t.fld (fTst_ACTIVE_MASK 0) = mask % 2 ^ 32 ∧ t.fld (fTst_ACTIVE_MASK 1) = mask / 2 ^ 32 % 2 ^ 32 := by
  have hdef : showActive mask s = (((s.setFld (fTst_ACTIVE_MASK 0) (mask / 2 ^ (32 * 0))).setFld (fTst_ACTIVE_MASK 1) (mask / 2 ^ (32 * 1))).setFld
    (fTst_ACTIVE_MASK 2) (mask / 2 ^ (32 * 2))).setFld (fTst_ACTIVE_MASK 3) (mask / 2 ^ (32 * 3)) := rfl
  have hlast (j : Nat) (hj : j < 2) (a : State) (v w : Nat) :
      ((a.setFld (fTst_ACTIVE_MASK 2) v).setFld (fTst_ACTIVE_MASK 3) w).fld (fTst_ACTIVE_MASK j) = a.fld (fTst_ACTIVE_MASK j) :=
    ((setFld_onlyReg _ _ _ _ _).fld (by simp only [RegId.mk.injEq, true_and]; omega)).trans
      ((setFld_onlyReg _ _ _ _ _).fld (by simp only [RegId.mk.injEq, true_and]; omega))
  simp only [hdef]
  constructor
  · rw [hlast 0 (by decide), show mask % 2 ^ 32 = mask / 2 ^ (32 * 0) % 2 ^ 32 by simp]
    exact ((setFld_onlyReg _ _ _ _ _).fld (by decide)).trans (State.fld_setFld_self _ _ _ _ _ (by decide) (by decide))
  · rw [hlast 1 (by decide)]
    exact State.fld_setFld_self _ _ _ _ _ (by decide) (by decide)

/-! ## The reset of a block that was tested (R5) -/

/-- The registers that the reset of a block may set: none of TST, of events' notices or of queues. -/
def bistKeeps (r : RegId) : Prop := r.blk ≠ .tst ∧ r.blk ≠ .que

/-- The parts that the reset of a block may move. -/
def bistParts : List Part := [.regs, .act, .lanes, .links, .beam, .loom, .sht, .drf, .ck, .qps, .held, .hiLatch, .capt, .loHeld, .out]

theorem resetRegs_moved {P : RegId → Prop} {p : RegId → Bool} (hp : ∀ r, p r = true → P r) (s : State) :
    moved P bistParts s (s.resetRegs p) :=
  ⟨(resetRegs_onlyRegs s p).mono hp, (resetRegs_onlyParts s p).mono (by decide)⟩

theorem releaseBolts_onlyParts (l : List (Nat × OutStr)) (s : State) : onlyParts [.beam] s (releaseBolts l s) :=
  .foldl (f := fun a e => a.modBolt e.2.bolt ({ · with writer := none })) (fun a e => setBolt_onlyParts a e.2.bolt _) l s

theorem untake_moved (h : Hdr) (s : State) : moved complReg [.qps, .regs] s (untake h s) := by
  refine ⟨?_, fun p hp => ?_⟩
  · rintro ⟨k, i, o⟩ hr
    exact untake_reg h s k i o (not_or.1 hr).1
  · cases p <;> simp_all [Part.same]

theorem modShut_onlyParts (n : Nat) (f : Shuttle → Shuttle) (s : State) : onlyParts [.sht] s (s.modShut n f) := setShut_onlyParts _ _ _

theorem abortStart_moved (post : Bool) (n : Nat) (s : State) :
    moved complReg [.sht, .beam, .qps, .held, .regs, .out] s (abortStart post n s) := by
  have hrel (c : StartCmd) : moved complReg [.sht, .beam, .qps, .held, .regs, .out] s
      (releaseBolts c.strs (s.modShut n ({ · with start := none }))) :=
    ((modShut_onlyParts n _ s).moved (by decide) _ (by decide)).trans ((releaseBolts_onlyParts _ _).moved (by decide) _ (by decide))
  unfold abortStart
  split
  · exact .refl _ _ s
  · rename_i c _
    dsimp only
    split
    · exact (hrel c).trans ⟨complete_onlyRegs _ _ _ _, (complete_anyParts _ _ _ _).mono (by decide)⟩
    · exact (hrel c).trans ((untake_moved _ _).mono (fun _ => id) (by decide))

theorem resetShuttle_moved (n : Nat) (s : State) : moved (fun r => shReg n r ∨ complReg r) bistParts s (resetShuttle n s) := by
  have habort : moved (fun r => shReg n r ∨ complReg r) bistParts s (abortStart true n s) :=
    (abortStart_moved true n s).mono (fun _ => .inr) (by decide)
  refine ((habort.trans ((releaseBolts_onlyParts _ _).moved (by decide) _ (by decide))).trans
    ((setShut_onlyParts _ _ _).moved (by decide) _ (by decide))).trans (resetRegs_moved (fun r hr => .inl ?_) _)
  simpa [shReg] using hr

theorem clearLane_moved (n : Nat) (s : State) : moved (lnReg n) bistParts s (clearLane n s) := by
  have hcal : moved (lnReg n) bistParts s (trackCal n s) := (trackCal_onlyParts n s).moved (by decide) _ (by decide)
  have hact (a : State) (p : RegId → Bool) : onlyParts [.act] a (a.resetAct p) := by
    intro q hq
    cases q <;> simp_all [Part.same, State.resetAct]
  refine ((hcal.trans (resetRegs_moved (fun r hr => ?_) _)).trans ((hact _ _).moved (by decide) _ (by decide))).trans
    ((setLane_onlyParts _ _ _).moved (by decide) _ (by decide))
  simp only [Bool.and_eq_true, beq_iff_eq] at hr
  exact hr.1.1

theorem showLinkCks_moved (s : State) : moved (fun r => r.blk = .ck) [.regs] s (showLinkCks s) := by
  unfold showLinkCks
  refine .foldl (fun a n _ => ?_) s
  split
  · have hset : moved (fun r => r.blk = .ck) [.regs] a (a.setFld (fCk_CTL_SRC (14 + n)) 2) :=
      setFld_moved (P := fun r => r.blk = .ck) (fCk_CTL_SRC (14 + n)) rfl (by decide) a 2
    exact hset
  · exact .refl _ _ a

/-- The reset of block `b` in its parts: a port of beam also leaves self-refresh (R288). -/
theorem bistReset_moved (b : Nat) (s : State) : moved bistKeeps bistParts s (bistReset b s) := by
  have hln : ∀ r : RegId, r.blk = .ln → bistKeeps r := fun r h => by simp [bistKeeps, h]
  have hreset {p : RegId → Bool} (hp : ∀ r, p r = true → bistKeeps r) (a : State) : moved bistKeeps bistParts a (a.resetRegs p) :=
    resetRegs_moved hp a
  have hpart {l : List Part} {a c : State} (h : onlyParts l a c) (hr : Part.regs ∉ l) (hl : ∀ p ∈ l, p ∈ bistParts) :
      moved bistKeeps bistParts a c := h.moved hr _ hl
  have hloom (a : State) (v : LoomSt) : onlyParts [.loom] a { a with loom := v } := by
    intro q hq
    cases q <;> simp_all [Part.same]
  have hdrf (a : State) (v : DrfSt) : onlyParts [.drf] a { a with drf := v } := by
    intro q hq
    cases q <;> simp_all [Part.same]
  have hck (a : State) : onlyParts [.ck] a { a with ck := [] } := by
    intro q hq
    cases q <;> simp_all [Part.same]
  have hlinks (a : State) (v : Tab Nat CoxLink) : onlyParts [.links] a { a with links := v } := by
    intro q hq
    cases q <;> simp_all [Part.same]
  unfold bistReset
  by_cases h8 : b < 8
  · rw [if_pos h8]
    exact (clearLane_moved b s).mono (fun r h => hln r h.1) fun _ => id
  by_cases h24 : b < 24
  · rw [if_neg h8, if_pos h24]
    have hbm : ∀ r : RegId, (r.blk == .bm && r.inst == b - 8 && r.off != 0 && r.off != 8) = true → bistKeeps r := fun r h => by
      simp only [Bool.and_eq_true, beq_iff_eq] at h
      simp [bistKeeps, h.1.1.1]
    have hset (a : State) : moved bistKeeps bistParts a (a.setFld (fBm_STAT_SELF_REF (b - 8)) 0) :=
      setFld_moved _ ⟨by simp, by simp⟩ (by decide) a 0
    dsimp only
    split_ifs
    · exact hreset hbm s
    · exact (hreset hbm s).trans (hset _)
  by_cases h36 : b < 36
  · rw [if_neg h8, if_neg h24, if_pos h36]
    refine .foldl (fun a n _ => (resetShuttle_moved n a).mono (fun r h => ?_) fun _ => id) s
    obtain ⟨h, -⟩ | h | h := h <;> simp [bistKeeps, h]
  rw [if_neg h8, if_neg h24, if_neg h36]
  by_cases h36' : b = 36
  · have hp : ∀ r : RegId, (r.blk == .loom) = true → bistKeeps r := fun r h => by simp [bistKeeps, beq_iff_eq.1 h]
    rw [if_pos h36']
    exact (hreset hp s).trans (hpart (hloom _ _) (by decide) (by decide))
  by_cases h37 : b = 37
  · have hp : ∀ r : RegId, (r.blk == .drf && !decide (0x100 ≤ r.off ∧ r.off < 0x140)) = true → bistKeeps r := fun r h => by
      simp only [Bool.and_eq_true, beq_iff_eq] at h
      simp [bistKeeps, h.1]
    rw [if_neg h36', if_pos h37]
    exact (hreset hp s).trans (hpart (hdrf _ _) (by decide) (by decide))
  by_cases h38 : b = 38
  · have hp : ∀ r : RegId, (r.blk == .chk || r.blk == .ck) = true → bistKeeps r := fun r h => by
      simp only [Bool.or_eq_true, beq_iff_eq] at h
      obtain h | h := h <;> simp [bistKeeps, h]
    rw [if_neg h36', if_neg h37, if_pos h38]
    exact ((hreset hp s).trans (hpart (hck _) (by decide) (by decide))).trans
      ((showLinkCks_moved _).mono (fun r h => by simp [bistKeeps, h]) (by decide))
  · have hp : ∀ r : RegId, (r.blk == .cx && r.inst == b - 39) = true → bistKeeps r := fun r h => by
      simp only [Bool.and_eq_true, beq_iff_eq] at h
      simp [bistKeeps, h.1]
    rw [if_neg h36', if_neg h37, if_neg h38]
    exact (hreset hp s).trans (hpart (hlinks _ _) (by decide) (by decide))

/-! ## The end of a run -/

/-- The device with the run over and its blocks reset. -/
def bistCleared (r : BistRun) (s : State) : State := (bistBits r.mask).foldl (fun a b => bistReset b a) { s with bist := none }

/-- The device with the end of the run shown, its completion not yet written. -/
def bistShown (r : BistRun) (s : State) : State := raise_ fTst_EVENT_DONE (showActive 0 ((bistCleared r s).setFld fTst_STAT_BUSY 0))

theorem bistFinish_eq (r : BistRun) (st failed setup : Nat) (s : State) :
    bistFinish r st failed setup s =
      postCompl (answerRec r.hdr st (leBytes 16 (Nat.land failed r.mask) ++ leBytes 16 setup)) (bistShown r s) := rfl

theorem clearBist_onlyParts (s : State) : onlyParts [.bist] s { s with bist := none } := by
  intro p hp
  cases p <;> simp_all [Part.same]

theorem bistCleared_moved (r : BistRun) (s : State) : moved bistKeeps (.bist :: bistParts) s (bistCleared r s) :=
  ((clearBist_onlyParts s).moved (by decide) _ (by decide)).trans
    (.foldl (fun a b _ => (bistReset_moved b a).mono (fun _ => id) (by decide)) _)

theorem bistCleared_bist (r : BistRun) (s : State) : (bistCleared r s).bist = none :=
  (onlyParts.foldl (l := bistParts) (fun a b => (bistReset_moved b a).2) (bistBits r.mask) { s with bist := none }) .bist (by decide)

/-- From a state whose blocks are reset, the end shows in TST and in the event's notice alone. -/
theorem bistShown_moved (r : BistRun) (s : State) :
    moved (fun x => x.blk = .tst ∨ noteReg x) [.rings, .regs, .out] (bistCleared r s) (bistShown r s) := by
  have hset (a : State) : moved (fun x => x.blk = .tst ∨ noteReg x) [.rings, .regs, .out] a (a.setFld fTst_STAT_BUSY 0) :=
    setFld_moved _ (.inl rfl) (by decide) a 0
  refine ((hset _).trans ((showActive_moved 0 _).mono (fun x ⟨_, h⟩ => .inl (by rw [h])) (by decide))).trans ⟨?_, raise_onlyParts _ _⟩
  exact (raise_onlyRegs fTst_EVENT_DONE _).mono fun x h => h.imp_left fun h => by rw [h]

/-- The registers of TST but STAT.BUSY, ACTIVE and EVENT.DONE stay as they were before the end. -/
theorem bistShown_kept (r : BistRun) (s : State) : let t := bistShown r s
    t.fld fTst_STAT_BUSY = 0 ∧ t.fld fTst_EVENT_DONE = 1 ∧ t.fld fTst_EVENT_ABORT = s.fld fTst_EVENT_ABORT ∧
      t.fld fTst_STAT_ABORTED = s.fld fTst_STAT_ABORTED ∧
      ∀ reg, reg = rTst_VDD ∨ reg = rTst_CLK → ∀ hi lo, t.fld ⟨reg, hi, lo⟩ = s.fld ⟨reg, hi, lo⟩ := by
  obtain ⟨a, ha⟩ : ∃ a, a = bistCleared r s := ⟨_, rfl⟩
  obtain ⟨b, hb⟩ : ∃ b, b = showActive 0 (a.setFld fTst_STAT_BUSY 0) := ⟨_, rfl⟩
  have hdef : bistShown r s = raise_ fTst_EVENT_DONE b := by rw [hb, ha]; rfl
  have hcl (o hi lo : Nat) : a.fld ⟨⟨.tst, 0, o⟩, hi, lo⟩ = s.fld ⟨⟨.tst, 0, o⟩, hi, lo⟩ := by
    rw [ha]; exact (bistCleared_moved r s).1.fld fun h => h.1 rfl
  have hact (o hi lo : Nat) (ho : o < 0x10 ∨ o = 0x20) : b.fld ⟨⟨.tst, 0, o⟩, hi, lo⟩ = (a.setFld fTst_STAT_BUSY 0).fld ⟨⟨.tst, 0, o⟩, hi, lo⟩ := by
    rw [hb]
    by_cases h20 : o < 0x10
    · exact (showActive_moved 0 _).1.fld (by simp only [RegId.mk.injEq, true_and, not_exists]; omega)
    · rw [ho.resolve_left h20]
      unfold showActive
      refine (onlyRegs.foldl (P := fun x => x ≠ ⟨.tst, 0, 0x20⟩) (fun a j hj => ?_) _).fld (fun h => h rfl)
      exact (setFld_onlyReg a _ _ _ _).mono fun x hx => by
        rw [hx]; have := List.mem_range.1 hj; simp only [ne_eq, RegId.mk.injEq, true_and]; omega
  have hne (o hi lo : Nat) (h0 : o ≠ 0) : (a.setFld fTst_STAT_BUSY 0).fld ⟨⟨.tst, 0, o⟩, hi, lo⟩ = a.fld ⟨⟨.tst, 0, o⟩, hi, lo⟩ :=
    (setFld_onlyReg a _ _ _ _).fld (by simpa using h0)
  have hr (o hi lo : Nat) (h0 : o ≠ 0x20) : (raise_ fTst_EVENT_DONE b).fld ⟨⟨.tst, 0, o⟩, hi, lo⟩ = b.fld ⟨⟨.tst, 0, o⟩, hi, lo⟩ :=
    fld_raise_ne hi lo Blk.noConfusion Blk.noConfusion (by simpa using h0)
  simp only [hdef]
  refine ⟨?_, raise_fld_self rTst_EVENT b (by decide) ⟨Blk.noConfusion, Blk.noConfusion⟩, ?_, ?_, ?_⟩
  · rw [hr _ _ _ (by decide), hact _ _ _ (.inl (by decide))]
    exact State.fld_setFld_self_of_lt a _ (by decide) (by decide)
  · rw [fld_raise_event rTst_EVENT b (by decide) (by decide) (by decide) ⟨Blk.noConfusion, Blk.noConfusion⟩, hact _ _ _ (.inr rfl),
      hne _ _ _ (by decide), hcl]
  · rw [hr _ _ _ (by decide), hact _ _ _ (.inl (by decide))]
    exact (State.fld_setFld_other _ _ _ _ _ _ _ (by decide) (by decide) (by decide) (by decide) (by decide)).trans (hcl _ _ _)
  · rintro reg (h | h) hi lo <;> rw [h, hr _ _ _ (by decide), hact _ _ _ (.inl (by decide)), hne _ _ _ (by decide), hcl]

/-- The end of a run: it is over, shown, and its completion is written (R498). -/
theorem bistFinish_effect {r : BistRun} (st failed setup : Nat) {s : State} (hq : r.hdr.qp < 256) (hbme : s.bme (s.ownerOf r.hdr.qp) = true) :
    let t := bistFinish r st failed setup s
    t.bist = none ∧ completed (answerRec r.hdr st (leBytes 16 (Nat.land failed r.mask) ++ leBytes 16 setup)) (bistShown r s) t ∧
      (∀ o hi lo, t.fld ⟨⟨.tst, 0, o⟩, hi, lo⟩ = (bistShown r s).fld ⟨⟨.tst, 0, o⟩, hi, lo⟩) ∧
      moved (fun x => x.blk = .tst ∨ complReg x ∨ noteReg x) [.qps, .rings, .regs, .out] (bistCleared r s) t := by
  obtain ⟨b, hb⟩ : ∃ b, b = bistShown r s := ⟨_, rfl⟩
  have hsh := bistShown_moved r s
  rw [← hb] at hsh
  have hcl := bistCleared_moved r s
  have howner : b.ownerOf r.hdr.qp = s.ownerOf r.hdr.qp :=
    State.ownerOf_congr (fun i => (hsh.1 _ (by simp [noteReg])).trans (hcl.1 _ fun h => h.2 rfl)) _
  have hbme' : b.bme (b.ownerOf r.hdr.qp) = true := by
    rwa [howner, State.bme, hsh.2 .bme (by decide), hcl.2 .bme (by decide)]
  simp only [bistFinish_eq, ← hb]
  obtain ⟨c, hc⟩ : ∃ c, c = answerRec r.hdr st (leBytes 16 (Nat.land failed r.mask) ++ leBytes 16 setup) := ⟨_, rfl⟩
  have hcq : c.hdr = r.hdr := by rw [hc]
  rw [← hc]
  rw [← hcq] at hq hbme'
  have hw := postCompl_eq_writeCompl hq hbme'
  have hpar := writeCompl_onlyParts c b
  have hreg := writeCompl_onlyRegs c b
  rw [← hw] at hpar hreg
  refine ⟨?_, postCompl_completed c b hq hbme', fun o hi lo => hreg.fld (by simp [complReg]), ?_⟩
  · exact (hpar .bist (by decide)).trans ((hsh.2 .bist (by decide)).trans (bistCleared_bist r s))
  · exact (hsh.mono (fun x h => h.imp_right .inr) (by decide)).trans ⟨hreg.mono fun _ h => .inr (.inl h), hpar.mono (by decide)⟩

end Sys2Proof.Machine

end

section
/-! PROOFS. The built-in self-test runs and ends, and QUERY answers (R379, R497-R499): what settles O49. -/

-- The checked text is one long file: elaborating these in order bounds its threads and memory.
set_option Elab.async false

namespace Sys2Proof.Machine

/-! ## A run begins (R497) -/

/-- The device with the tested ports of beam in self-refresh. -/
def bistRefreshed (mask : Nat) (s : State) : State :=
  ((bistBits mask).filter (fun b => decide (8 ≤ b ∧ b < 24))).foldl (fun a b => enterSelfRefresh (b - 8) a)
    (bistMeasure s.bistVdd (s.bistClk mask) (Config.clkDev s.free) s)

/-- The device with the run noted. -/
def bistNoted (h : Hdr) (mask : Nat) (s : State) : State :=
  { bistRefreshed mask s with bist := some ⟨h, mask, maskOf ((bistBits mask).filter s.bistSetup), s.up⟩, tstAt := some s.up }

theorem bistBegin_eq (h : Hdr) (mask : Nat) (s : State) :
    bistBegin h mask s = showActive mask (((bistNoted h mask s).setFld fTst_STAT_BUSY 1).setFld fTst_STAT_ABORTED 0) := rfl

theorem bistNoted_onlyParts (h : Hdr) (mask : Nat) (s : State) : onlyParts [.bist, .tstAt] (bistRefreshed mask s) (bistNoted h mask s) := by
  intro p hp
  cases p <;> simp_all [Part.same, bistNoted]

theorem bistRefreshed_effect (mask : Nat) (s : State) : let t := bistRefreshed mask s
    (∀ k, k < 16 → mask.testBit (8 + k) = true → t.fld (fBm_STAT_SELF_REF k) = 1) ∧
      moved (fun r => memReg r ∨ ∃ k, r = rBm_STAT k) memParts (bistMeasure s.bistVdd (s.bistClk mask) (Config.clkDev s.free) s) t := by
  obtain ⟨a, ha⟩ : ∃ a, a = bistMeasure s.bistVdd (s.bistClk mask) (Config.clkDev s.free) s := ⟨_, rfl⟩
  obtain ⟨l, hl⟩ : ∃ l, l = (bistBits mask).filter (fun b => decide (8 ≤ b ∧ b < 24)) := ⟨_, rfl⟩
  have hdef : bistRefreshed mask s = (l.map (· - 8)).foldl (fun a k => enterSelfRefresh k a) a := by
    rw [List.foldl_map, bistRefreshed, hl, ha]
  obtain ⟨hself, hm⟩ := selfRefreshes_effect (l.map (· - 8)) a
  simp only [hdef, ← ha]
  refine ⟨fun k hk hbit => hself k (.inl (List.mem_map.2 ⟨8 + k, ?_, by omega⟩)), hm⟩
  rw [hl, List.mem_filter, bistBits, mem_maskBits]
  exact ⟨⟨by omega, hbit⟩, by simpa using by omega⟩

/-- What a run that begins shows and leaves. -/
theorem bistBegin_effect (h : Hdr) {mask : Nat} (hmask : mask < 2 ^ 41) (s : State) (hdev : (Config.clkDev s.free).natAbs ≤ 50) :
    let t := bistBegin h mask s
    (∀ b, t.testing b = mask.testBit b) ∧ t.on fTst_STAT_BUSY = true ∧ t.on fTst_STAT_ABORTED = false ∧
      t.fld fTst_VDD_MV = s.bistVdd ∧ t.fld fTst_CLK_WORST = s.bistClk mask ∧ t.sfld fTst_CLK_DEV = Config.clkDev s.free ∧
      t.tstAt = some s.up ∧ t.fld (fTst_ACTIVE_MASK 0) = mask % 2 ^ 32 ∧ t.fld (fTst_ACTIVE_MASK 1) = mask / 2 ^ 32 ∧
      (∀ k, k < 16 → mask.testBit (8 + k) = true → t.on (fBm_STAT_SELF_REF k) = true) ∧ onlyParts (.bist :: .tstAt :: memParts) s t := by
  obtain ⟨a, ha⟩ : ∃ a, a = bistMeasure s.bistVdd (s.bistClk mask) (Config.clkDev s.free) s := ⟨_, rfl⟩
  obtain ⟨hvdd, hclk, hcdev⟩ := bistMeasure_shows s.bistVdd (s.bistClk mask) (Config.clkDev s.free) s
  obtain ⟨hself, hm⟩ := bistRefreshed_effect mask s
  have hap := (bistMeasure_moved s.bistVdd (s.bistClk mask) (Config.clkDev s.free) s).2
  rw [← ha] at hvdd hclk hcdev hm hap
  obtain ⟨c, hc⟩ : ∃ c, c = bistNoted h mask s := ⟨_, rfl⟩
  have hcp := bistNoted_onlyParts h mask s
  have hcb : c.bist = some ⟨h, mask, maskOf ((bistBits mask).filter s.bistSetup), s.up⟩ := by rw [hc]; rfl
  have hct : c.tstAt = some s.up := by rw [hc]; rfl
  rw [← hc] at hcp
  obtain ⟨d, hd⟩ : ∃ d, d = (c.setFld fTst_STAT_BUSY 1).setFld fTst_STAT_ABORTED 0 := ⟨_, rfl⟩
  have hdr : onlyRegs (fun r => r = rTst_STAT) c d := by rw [hd]; exact (setFld_onlyReg c _ _ _ _).trans (setFld_onlyReg _ _ _ _ _)
  have hdp : onlyParts [.regs] c d := by rw [hd]; exact (setFld_onlyParts c _ _).trans (setFld_onlyParts _ _ _)
  have hbusy : d.fld fTst_STAT_BUSY = 1 := by
    rw [hd]
    exact (State.fld_setFld_other _ _ _ _ _ _ _ (by decide) (by decide) (by decide) (by decide) (by decide)).trans
      (State.fld_setFld_self_of_lt _ _ (by decide) (by decide))
  have habort : d.fld fTst_STAT_ABORTED = 0 := by rw [hd]; exact State.fld_setFld_self_of_lt _ _ (by decide) (by decide)
  obtain ⟨h0, h1⟩ := showActive_shows mask d
  have hs := showActive_moved mask d
  have hdef : bistBegin h mask s = showActive mask d := by rw [hd, hc]; rfl
  have hfld (o hi lo : Nat) (ho : o < 0x10) : (showActive mask d).fld ⟨⟨.tst, 0, o⟩, hi, lo⟩ = d.fld ⟨⟨.tst, 0, o⟩, hi, lo⟩ :=
    hs.1.fld (by simp only [RegId.mk.injEq, true_and, not_exists]; omega)
  have hmeas (o hi lo : Nat) (ho : o < 0x10) (h0 : o ≠ 0) : (showActive mask d).fld ⟨⟨.tst, 0, o⟩, hi, lo⟩ = a.fld ⟨⟨.tst, 0, o⟩, hi, lo⟩ :=
    (hfld o hi lo ho).trans ((hdr.fld (by simpa using h0)).trans
      (((hcp.regsKept).fld id).trans (hm.1.fld (by simp [memReg, noteReg]))))
  simp only [hdef]
  refine ⟨fun b => ?_, bne_iff_ne.2 (by rw [hfld _ _ _ (by decide), hbusy]; decide),
    bne_eq_false_iff_eq.2 ((hfld _ _ _ (by decide)).trans habort), ?_, ?_, ?_, ?_, h0, ?_, fun k hk hbit => ?_, ?_⟩
  · rw [State.testing, hs.2 .bist (by decide), hdp .bist (by decide), hcb]
  · rw [hmeas _ _ _ (by decide) (by decide), hvdd]
    exact Nat.mod_eq_of_lt (Nat.mod_lt _ (by decide))
  · rw [hmeas _ _ _ (by decide) (by decide), hclk]
    refine Nat.mod_eq_of_lt ?_
    have h4 : bistClks mask ≤ 4 ∧ 0 < bistClks mask := by unfold bistClks; split <;> decide
    exact lt_of_lt_of_le (Nat.mod_lt _ h4.2) (h4.1.trans (by decide))
  · rw [State.sfld, hmeas _ _ _ (by decide) (by decide), hcdev]
    exact signed_unsigned (by decide) (by norm_num; omega) (by norm_num; omega)
  · exact (hs.2 .tstAt (by decide)).trans ((hdp .tstAt (by decide)).trans hct)
  · rw [h1]
    exact Nat.mod_eq_of_lt (by omega)
  · refine bne_iff_ne.2 ?_
    rw [hs.1.fld (by simp), hdr.fld (by simp), (hcp.regsKept).fld id, hself k hk hbit]
    decide
  · exact ((((hap.mono (by decide)).trans (hm.2.mono (by decide))).trans (hcp.mono (by decide))).trans (hdp.mono (by decide))).trans
      (hs.2.mono (by decide))

theorem bistRun_fails {h : Hdr} {mask : Nat} {s : State} (ht : s.takesPf (.bistRun h mask) = true) (h0 : 0 < mask) (hmask : mask < 2 ^ 41)
    (hb : s.bist = none)
    (hbad : (!s.bistPre s.bistVdd (Config.clkDev s.free) || (bistBits mask).any (fun b => !s.bistIdle b)) = true) :
    ∃ t, exec (.bistRun h mask) s = .next t ∧ t.bist = none ∧ completed (answer h eState) s t ∧ onlyRegs complReg s t ∧
      onlyParts [.free, .qps, .regs, .out] s t := by
  obtain ⟨hd, hr, hbeg, hq, hbme, ho⟩ := State.takesPf_elim (h := h) rfl ht
  have hchecks : firstFail [(decide (mask = 0 ∨ 2 ^ 41 ≤ mask), eRange), (s.bist.isSome, eBusy),
      (!s.bistPre s.bistVdd (Config.clkDev s.free) || (bistBits mask).any (fun b => !s.bistIdle b), eState)] = some eState := by
    have hrange : decide (mask = 0 ∨ 2 ^ 41 ≤ mask) = false := by simp; omega
    simp only [firstFail, hrange, hb, hbad, Option.isSome_none, Bool.false_eq_true, if_false, if_true]
  refine ⟨(complete h eState [] (s.begun h.qp)).tick, ?_, ?_⟩
  · show execBistRun h mask s = _
    rw [execBistRun, command_fails _ _ _ _ _ eState hd hbeg
      ((firstFail_gate (fun _ => ho) hr (fun _ h => absurd h List.not_mem_nil) _).trans hchecks) (by decide)]
  · obtain ⟨hc, hreg, hpar, -⟩ := completes_after (P := fun _ => False) (l := []) eState [] hq hbme (.refl _ _) (fun _ => False.elim) (.refl _ _)
    have htick := tick_onlyParts (complete h eState [] (s.begun h.qp))
    refine ⟨?_, completed_mono hc fun o ho => by rwa [htick .out (by decide)], ?_, ?_⟩
    · exact (htick .bist (by decide)).trans ((hpar .bist (by decide)).trans hb)
    · exact (hreg.mono fun _ h => h.resolve_right id).trans (htick.onlyRegs_of_regs (by decide) _)
    · exact (hpar.mono (by decide)).trans (htick.mono (by decide))

theorem bistRun_begins {h : Hdr} {mask : Nat} {s : State} (ht : s.takesPf (.bistRun h mask) = true) (h0 : 0 < mask) (hmask : mask < 2 ^ 41)
    (hb : s.bist = none) (hpre : s.bistPre s.bistVdd (Config.clkDev s.free) = true) (hidle : ∀ b ∈ bistBits mask, s.bistIdle b = true) :
    exec (.bistRun h mask) s = .next (bistBegin h mask (s.begun h.qp)).tick := by
  obtain ⟨hd, hr, hbeg, -, -, ho⟩ := State.takesPf_elim (h := h) rfl ht
  have hchecks : firstFail [(decide (mask = 0 ∨ 2 ^ 41 ≤ mask), eRange), (s.bist.isSome, eBusy),
      (!s.bistPre s.bistVdd (Config.clkDev s.free) || (bistBits mask).any (fun b => !s.bistIdle b), eState)] = none := by
    have hrange : decide (mask = 0 ∨ 2 ^ 41 ≤ mask) = false := by simp; omega
    have hidle' : (bistBits mask).any (fun b => !s.bistIdle b) = false := by
      rw [List.any_eq_false]; intro b hb; simp [hidle b hb]
    simp only [firstFail, hrange, hb, hpre, hidle', Option.isSome_none, Bool.not_true, Bool.or_self, Bool.false_eq_true, if_false]
  show execBistRun h mask s = _
  rw [execBistRun, command_begins _ _ _ _ _ hd hbeg ((firstFail_gate (fun _ => ho) hr (fun _ h => absurd h List.not_mem_nil) _).trans hchecks)]

theorem bistRun_claim {h : Hdr} {mask : Nat} {s : State} (ht : s.takesPf (.bistRun h mask) = true) (h0 : 0 < mask) (hmask : mask < 2 ^ 41)
    (hb : s.bist = none) : ∃ t, exec (.bistRun h mask) s = .next t ∧
      (s.bistPre s.bistVdd (Config.clkDev s.free) = true → (∀ b ∈ bistBits mask, s.bistIdle b = true) →
        (∀ b, t.testing b = mask.testBit b) ∧ t.on fTst_STAT_BUSY = true ∧ t.on fTst_STAT_ABORTED = false ∧
        t.fld fTst_VDD_MV = s.bistVdd ∧ t.fld fTst_CLK_WORST = s.bistClk mask ∧ t.sfld fTst_CLK_DEV = Config.clkDev s.free ∧
        t.tstAt = some s.up ∧ t.fld (fTst_ACTIVE_MASK 0) = mask % 2 ^ 32 ∧ t.fld (fTst_ACTIVE_MASK 1) = mask / 2 ^ 32 ∧
        (∀ k, k < 16 → mask.testBit (8 + k) = true → t.on (fBm_STAT_SELF_REF k) = true) ∧
        (∀ p, p ∈ [Part.tb, .up, .gens, .links, .crew, .loom, .sht, .drf, .ck, .mon, .bias, .thm, .sec, .fuses, .pending] → p.same s t)) ∧
      (s.bistPre s.bistVdd (Config.clkDev s.free) = false ∨ (∃ b ∈ bistBits mask, s.bistIdle b = false) →
        t.bist = none ∧ completed (answer h eState) s t ∧ onlyRegs complReg s t ∧ onlyParts [.free, .qps, .regs, .out] s t) := by
  by_cases hbad : (!s.bistPre s.bistVdd (Config.clkDev s.free) || (bistBits mask).any (fun b => !s.bistIdle b)) = true
  · obtain ⟨t, hex, hres⟩ := bistRun_fails ht h0 hmask hb hbad
    refine ⟨t, hex, fun hpre hidle => ?_, fun _ => hres⟩
    simp only [Bool.or_eq_true, Bool.not_eq_true', hpre, Bool.true_eq_false, false_or, List.any_eq_true] at hbad
    obtain ⟨b, hmem, hnot⟩ := hbad
    exact absurd (hidle b hmem) (by simp [hnot])
  · simp only [Bool.or_eq_true, Bool.not_eq_true', List.any_eq_true, not_or, Bool.not_eq_false, not_exists, not_and] at hbad
    obtain ⟨hpre, hidle⟩ := hbad
    have hdev : (Config.clkDev (s.begun h.qp).free).natAbs ≤ 50 := by
      simp only [State.bistPre, decide_eq_true_eq] at hpre
      exact hpre.2.2.2
    obtain ⟨htest, hbusy, habort, hvdd, hclk, hdv, hat, hm0, hm1, hself, hpar⟩ := bistBegin_effect h hmask (s.begun h.qp) hdev
    obtain ⟨u, hu⟩ : ∃ u, u = bistBegin h mask (s.begun h.qp) := ⟨_, rfl⟩
    have hex := bistRun_begins ht h0 hmask hb hpre hidle
    have hup : (s.begun h.qp).up = s.up := begun_onlyParts s h.qp .up (by decide)
    rw [← hu] at htest hbusy habort hvdd hclk hdv hat hm0 hm1 hself hpar hex
    have htick := tick_onlyParts u
    refine ⟨_, hex, fun _ _ => ⟨htest, hbusy, habort, hvdd, hclk, hdv, hat, hm0, hm1, hself, fun p hp => ?_⟩,
      fun hor => ?_⟩
    · have hnot : p ∉ (.qps :: .bist :: .tstAt :: memParts : List Part) := (by decide : ∀ p ∈ [Part.tb, .up, .gens, .links, .crew, .loom, .sht,
        .drf, .ck, .mon, .bias, .thm, .sec, .fuses, .pending], p ∉ (.qps :: .bist :: .tstAt :: memParts : List Part)) p hp
      exact ((begun_onlyParts s h.qp).mono (by decide)).trans ((hpar.mono (by decide)).trans (htick.mono (by decide))) p hnot
    · obtain hor | ⟨b, hmem, hor⟩ := hor
      · exact absurd hpre (by simp [hor])
      · exact absurd (hidle b hmem) (by simp [hor])

/-! ## A run ends (R498) -/

theorem exec_bistEnd {r : BistRun} {s : State} (res : List (Nat × BlkTest)) (hb : s.bist = some r) :
    exec (.bistEnd res) s = .next (bistFinish r eOk (bistFailed r.mask res) r.setup s) := by
  show execBistEnd res s = _
  rw [execBistEnd, hb]

theorem bistEnd_claim {r : BistRun} (res : List (Nat × BlkTest)) {s : State} (hb : s.bist = some r) (hq : r.hdr.qp < 256)
    (hbme : s.bme (s.ownerOf r.hdr.qp) = true) : ∃ t, exec (.bistEnd res) s = .next t ∧ t.bist = none ∧
      t.on fTst_STAT_BUSY = false ∧ t.on fTst_EVENT_DONE = true ∧
      .hostWrite r.hdr.resAddr (leBytes 16 (Nat.land (bistFailed r.mask res) r.mask) ++ leBytes 16 r.setup) ∈ t.host.out := by
  obtain ⟨hnone, hc, hfld, -⟩ := bistFinish_effect eOk (bistFailed r.mask res) r.setup hq hbme
  obtain ⟨hbusy, hdone, -⟩ := bistShown_kept r s
  exact ⟨_, exec_bistEnd res hb, hnone, bne_eq_false_iff_eq.2 ((hfld _ _ _).trans hbusy), bne_iff_ne.2 (by rw [hfld, hdone]; decide),
    hc.1 _ (List.mem_singleton.2 rfl)⟩

/-! ## A cluster of shuttles (R332) -/

theorem resetShuttle_quiet {n : Nat} {s : State} (hstart : (s.shut n).start = none) (hstrs : (s.shut n).strs = []) :
    resetShuttle n s = (s.setShut n {}).resetRegs fun r => r.blk == .sh && r.inst == n := by
  simp only [resetShuttle, abortStart, hstart, hstrs, releaseBolts, List.foldl_nil]

theorem shState_reset : ∀ n, n < 96 → bits (regReset (rSh_STAT n)) 2 0 = stOff := by
  decide +kernel

/-- The reset of shuttles none of which has a start waiting or streams. -/
theorem resetShuttles_effect (l : List Nat) (s : State) (h96 : ∀ m ∈ l, m < 96) (hq : ∀ m ∈ l, (s.shut m).start = none ∧ (s.shut m).strs = []) :
    let t := l.foldl (fun a n => resetShuttle n a) s
    (∀ m ∈ l, t.shut m = {} ∧ t.shState m = stOff) ∧ (∀ m, m ∉ l → t.shut m = s.shut m) ∧
      moved (fun x => x.blk = .sh ∧ x.inst ∈ l) [.sht, .regs, .hiLatch, .capt, .loHeld] s t := by
  induction l generalizing s with
  | nil => exact ⟨fun m h => absurd h List.not_mem_nil, fun _ _ => rfl, .refl _ _ s⟩
  | cons n l ih =>
    obtain ⟨a, ha⟩ : ∃ a, a = resetShuttle n s := ⟨_, rfl⟩
    obtain ⟨hstart, hstrs⟩ := hq n List.mem_cons_self
    rw [resetShuttle_quiet hstart hstrs] at ha
    have hshut (m : Nat) : a.shut m = if n = m then {} else s.shut m := by
      rw [ha]; exact State.shut_setShut s n m {}
    have hsm : moved (fun x => x.blk = .sh ∧ x.inst ∈ n :: l) [.sht, .regs, .hiLatch, .capt, .loHeld] s a := by
      rw [ha]
      refine ((setShut_onlyParts _ _ _).moved (by decide) _ (by decide)).trans
        ⟨(resetRegs_onlyRegs _ _).mono fun x hx => ?_, (resetRegs_onlyParts _ _).mono (by decide)⟩
      simp only [Bool.and_eq_true, beq_iff_eq] at hx
      exact ⟨hx.1, List.mem_cons.2 (.inl hx.2)⟩
    have hstate : a.shState n = stOff := by
      have hreg : a.reg (rSh_STAT n) = regReset (rSh_STAT n) := by
        rw [ha]; exact (State.reg_resetRegs _ _ _).trans (if_pos (by simp))
      exact (congrArg (fun w => bits w 2 0) hreg).trans (shState_reset n (h96 n List.mem_cons_self))
    obtain ⟨hl, hother, hm⟩ := ih a (fun m hm => h96 m (List.mem_cons_of_mem n hm)) fun m hm => by
      rw [hshut]
      split
      · exact ⟨rfl, rfl⟩
      · exact hq m (List.mem_cons_of_mem n hm)
    have hdef : (n :: l).foldl (fun a n => resetShuttle n a) s = l.foldl (fun a n => resetShuttle n a) a := by
      rw [List.foldl_cons, ha, resetShuttle_quiet hstart hstrs]
    simp only [hdef]
    refine ⟨fun m hm' => ?_, fun m hm' => ?_, hsm.trans (hm.mono (fun x h => ⟨h.1, List.mem_cons_of_mem n h.2⟩) fun _ => id)⟩
    · by_cases hml : m ∈ l
      · exact hl m hml
      · have hmn : m = n := (List.mem_cons.1 hm').resolve_right hml
        subst hmn
        exact ⟨(hother m hml).trans (by rw [hshut, if_pos rfl]), (hm.1.fld fun h => hml h.2).trans hstate⟩
    · obtain ⟨hne, hml⟩ := not_or.1 (mt List.mem_cons.2 hm')
      rw [hother m hml, hshut, if_neg (Ne.symm hne)]

theorem mem_clusterShuttles {c m : Nat} : m ∈ clusterShuttles c ↔ m / 8 = c ∧ 4 ≤ m := by
  simp only [clusterShuttles, List.mem_filter, List.mem_map, List.mem_range, decide_eq_true_eq]
  constructor
  · rintro ⟨⟨a, ha, rfl⟩, h4⟩
    exact ⟨by omega, h4⟩
  · rintro ⟨rfl, h4⟩
    exact ⟨⟨m % 8, by omega, by omega⟩, h4⟩

theorem bistBits_pow {n : Nat} (hn : n < 41) : bistBits (2 ^ n) = [n] := by
  have hmem (k : Nat) : Nat.testBit (2 ^ n) k = decide (n = k) := Nat.testBit_two_pow
  unfold bistBits maskBits
  simp only [hmem]
  interval_cases n <;> rfl

theorem bistFailed_pow {n : Nat} (hn : n < 41) (res : List (Nat × BlkTest)) :
    Nat.land (bistFailed (2 ^ n) res) (2 ^ n) = if res.any (fun e => e.1 == n && testPasses n e.2) then 0 else 2 ^ n := by
  have hland : Nat.land (2 ^ n) (2 ^ n) = 2 ^ n := Nat.and_self _
  have hland0 : Nat.land 0 (2 ^ n) = 0 := Nat.zero_and _
  rw [bistFailed, bistBits_pow hn]
  by_cases h : res.any (fun e => e.1 == n && testPasses n e.2) = true
  · rw [if_pos h, List.filter_cons_of_neg (by simp only [h]; decide)]
    exact hland0
  · rw [if_neg h, List.filter_cons_of_pos (by simp only [Bool.not_eq_true] at h; simp only [h]; rfl)]
    have hor : maskOf [n] = 2 ^ n := Nat.zero_or _
    exact (congrArg (fun x => Nat.land x (2 ^ n)) hor).trans hland

theorem bistEndCluster_claim {r : BistRun} (res : List (Nat × BlkTest)) {n : Nat} {s : State} (hb : s.bist = some r) (hmask : r.mask = 2 ^ n)
    (h24 : 24 ≤ n) (h36 : n < 36) (hq : r.hdr.qp < 256) (hbme : s.bme (s.ownerOf r.hdr.qp) = true)
    (hquiet : ∀ m, m < 96 → (s.shut m).start = none ∧ (s.shut m).strs = []) :
    ∃ t, exec (.bistEnd res) s = .next t ∧
      (∀ m, 4 ≤ m → m < 96 → m / 8 + 24 = n → t.shut m = {} ∧ t.shState m = stOff) ∧ (∀ m, m / 8 + 24 ≠ n ∨ m < 4 → t.shut m = s.shut m) ∧
      (∃ u, completed (answerRec r.hdr eOk (leBytes 16 (if res.any (fun e => e.1 == n && testPasses n e.2) then 0 else 2 ^ n) ++
        leBytes 16 r.setup)) u t) ∧
      onlyRegs (fun x => x.blk = .sh ∧ 4 ≤ x.inst ∧ x.inst / 8 + 24 = n ∨ x.blk = .tst ∨ complReg x ∨ noteReg x) s t ∧
      onlyParts [.bist, .sht, .qps, .rings, .regs, .hiLatch, .capt, .loHeld, .out] s t := by
  obtain ⟨-, hc, -, hm⟩ := bistFinish_effect eOk (bistFailed r.mask res) r.setup hq hbme
  obtain ⟨t, ht⟩ : ∃ t, t = bistFinish r eOk (bistFailed r.mask res) r.setup s := ⟨_, rfl⟩
  obtain ⟨a, ha⟩ : ∃ a, a = bistCleared r s := ⟨_, rfl⟩
  have hdef : a = (clusterShuttles (n - 24)).foldl (fun a n => resetShuttle n a) { s with bist := none } := by
    rw [ha, bistCleared, hmask, bistBits_pow (by omega), List.foldl_cons, List.foldl_nil, bistReset, if_neg (by omega), if_neg (by omega), if_pos h36]
  obtain ⟨hoff, hkeep, hcl⟩ := resetShuttles_effect (clusterShuttles (n - 24)) { s with bist := none }
    (fun m hm => by have := mem_clusterShuttles.1 hm; omega) fun m hm => by
    have := mem_clusterShuttles.1 hm
    exact hquiet m (by omega)
  rw [← hdef] at hoff hkeep hcl
  rw [← ht, ← ha] at hm
  rw [← ht, hmask, bistFailed_pow (by omega)] at hc
  have hsh : t.sht = a.sht := hm.2 .sht (by decide)
  have hshut (m : Nat) : t.shut m = a.shut m := State.shut_congr hsh m
  have hstart := clearBist_onlyParts s
  refine ⟨t, ht ▸ exec_bistEnd res hb, fun m h4 h96 hmn => ?_, fun m hmn => ?_, ⟨_, hc⟩, ?_, ?_⟩
  · obtain ⟨hs, hst⟩ := hoff m (mem_clusterShuttles.2 ⟨by omega, h4⟩)
    exact ⟨(hshut m).trans hs, (hm.1.fld (by simp [complReg, noteReg])).trans hst⟩
  · exact (hshut m).trans (hkeep m fun h => by have := mem_clusterShuttles.1 h; omega)
  · refine ((hstart.onlyRegs_of_regs (by decide) _).trans (hcl.1.mono fun x hx => .inl ⟨hx.1, ?_⟩)).trans (hm.1.mono fun x hx => .inr hx)
    have := mem_clusterShuttles.1 hx.2
    omega
  · exact (hstart.mono (by decide)).trans ((hcl.2.mono (by decide)).trans (hm.2.mono (by decide)))

/-! ## A run that a measurement ends (R499) -/

theorem preconditionFail_goesOn {m : BistMeas} {r : BistRun} {s : State} (hb : s.bist = some r) (hpre : s.bistPre m.mv m.dev = true) :
    exec (.bistPreconditionFail m) s = .next (bistMeasure m.mv (m.worst % bistClks r.mask) m.dev s) := by
  show execBistPreconditionFail m s = _
  rw [execBistPreconditionFail, hb]
  simp only [hpre, if_true]

/-- The device with the abort shown, the run not yet ended. -/
def bistAborted (m : BistMeas) (r : BistRun) (s : State) : State :=
  raise_ fTst_EVENT_ABORT ((bistMeasure m.mv (m.worst % bistClks r.mask) m.dev s).setFld fTst_STAT_ABORTED 1)

theorem preconditionFail_ends {m : BistMeas} {r : BistRun} {s : State} (hb : s.bist = some r) (hpre : s.bistPre m.mv m.dev = false) :
    exec (.bistPreconditionFail m) s = .next (bistFinish r eAbort (bistFailed r.mask m.res) r.mask (bistAborted m r s)) := by
  show execBistPreconditionFail m s = _
  rw [execBistPreconditionFail, hb]
  simp only [hpre, Bool.false_eq_true, if_false]
  rfl

theorem bistAborted_effect (m : BistMeas) (r : BistRun) (s : State) : let t := bistAborted m r s
    t.fld fTst_VDD_MV = m.mv % 2 ^ 16 ∧ t.fld fTst_CLK_WORST = m.worst % bistClks r.mask ∧ t.fld fTst_CLK_DEV = unsigned 16 m.dev ∧
      t.fld fTst_STAT_ABORTED = 1 ∧ t.fld fTst_EVENT_ABORT = 1 ∧ moved (fun x => x.blk = .tst ∨ noteReg x) [.rings, .regs, .out] s t := by
  obtain ⟨a, ha⟩ : ∃ a, a = bistMeasure m.mv (m.worst % bistClks r.mask) m.dev s := ⟨_, rfl⟩
  obtain ⟨hvdd, hclk, hdev⟩ := bistMeasure_shows m.mv (m.worst % bistClks r.mask) m.dev s
  have hm := bistMeasure_moved m.mv (m.worst % bistClks r.mask) m.dev s
  rw [← ha] at hvdd hclk hdev hm
  obtain ⟨b, hbd⟩ : ∃ b, b = a.setFld fTst_STAT_ABORTED 1 := ⟨_, rfl⟩
  have hdef : bistAborted m r s = raise_ fTst_EVENT_ABORT b := by rw [hbd, ha]; rfl
  have hb1 : b.fld fTst_STAT_ABORTED = 1 := by rw [hbd]; exact State.fld_setFld_self_of_lt a _ (by decide) (by decide)
  have hbr : onlyRegs (fun x => x = rTst_STAT) a b := by rw [hbd]; exact setFld_onlyReg a _ _ _ _
  have hbp : onlyParts [.regs] a b := by rw [hbd]; exact setFld_onlyParts a _ _
  have hr (o hi lo : Nat) (h0 : o ≠ 0x20) : (raise_ fTst_EVENT_ABORT b).fld ⟨⟨.tst, 0, o⟩, hi, lo⟩ = b.fld ⟨⟨.tst, 0, o⟩, hi, lo⟩ :=
    fld_raise_ne hi lo Blk.noConfusion Blk.noConfusion (by simpa using h0)
  have hmod : m.worst % bistClks r.mask % 2 ^ 3 = m.worst % bistClks r.mask := by
    have h4 : bistClks r.mask ≤ 4 ∧ 0 < bistClks r.mask := by unfold bistClks; split <;> decide
    exact Nat.mod_eq_of_lt (lt_of_lt_of_le (Nat.mod_lt _ h4.2) (h4.1.trans (by decide)))
  simp only [hdef]
  refine ⟨?_, ?_, ?_, (hr _ _ _ (by decide)).trans hb1, raise_fld_self rTst_EVENT b (by decide) ⟨Blk.noConfusion, Blk.noConfusion⟩, ?_, ?_⟩
  · exact (hr _ _ _ (by decide)).trans ((hbr.fld (by decide)).trans hvdd)
  · exact (hr _ _ _ (by decide)).trans ((hbr.fld (by decide)).trans (hclk.trans hmod))
  · exact (hr _ _ _ (by decide)).trans ((hbr.fld (by decide)).trans hdev)
  · refine ((hm.1.mono fun x h => ?_).trans (hbr.mono fun x h => .inl (by rw [h]))).trans
      ((raise_onlyRegs fTst_EVENT_ABORT b).mono fun x h => h.imp_left fun h => by rw [h])
    obtain h | h := h <;> exact .inl (by rw [h])
  · exact ((hm.2.trans hbp).mono (by decide)).trans (raise_onlyParts _ _)

theorem preconditionFail_claim {r : BistRun} (mv worst : Nat) (dev : Int) (res : List (Nat × BlkTest)) {s : State} (hb : s.bist = some r)
    (hq : r.hdr.qp < 256) (hbme : s.bme (s.ownerOf r.hdr.qp) = true) : ∃ t, exec (.bistPreconditionFail ⟨mv, worst, dev, res⟩) s = .next t ∧
      t.fld fTst_VDD_MV = mv % 2 ^ 16 ∧ t.fld fTst_CLK_WORST = worst % bistClks r.mask ∧ t.fld fTst_CLK_DEV = unsigned 16 dev ∧
      (s.bistPre mv dev = true → t.bist = s.bist ∧ onlyRegs (fun x => x = rTst_VDD ∨ x = rTst_CLK) s t ∧ onlyParts [.regs] s t) ∧
      (s.bistPre mv dev = false → t.bist = none ∧ t.on fTst_STAT_BUSY = false ∧ t.on fTst_STAT_ABORTED = true ∧
        t.on fTst_EVENT_ABORT = true ∧ t.on fTst_EVENT_DONE = true ∧
        .hostWrite r.hdr.resAddr (leBytes 16 (Nat.land (bistFailed r.mask res) r.mask) ++ leBytes 16 r.mask) ∈ t.host.out ∧
        (r.mask = 2 ^ 37 → onlyRegs (fun x => x.blk = .drf ∧ ¬ (0x100 ≤ x.off ∧ x.off < 0x140) ∨ x.blk = .tst ∨ complReg x ∨ noteReg x) s t ∧
          onlyParts [.bist, .drf, .qps, .rings, .regs, .hiLatch, .capt, .loHeld, .out] s t)) := by
  by_cases hpre : s.bistPre mv dev = true
  · obtain ⟨hvdd, hclk, hdev⟩ := bistMeasure_shows mv (worst % bistClks r.mask) dev s
    have hm := bistMeasure_moved mv (worst % bistClks r.mask) dev s
    have h4 : bistClks r.mask ≤ 4 ∧ 0 < bistClks r.mask := by unfold bistClks; split <;> decide
    have hmod : worst % bistClks r.mask % 2 ^ 3 = worst % bistClks r.mask :=
      Nat.mod_eq_of_lt (lt_of_lt_of_le (Nat.mod_lt _ h4.2) (h4.1.trans (by decide)))
    exact ⟨_, preconditionFail_goesOn (m := ⟨mv, worst, dev, res⟩) hb hpre, hvdd, hclk.trans hmod, hdev,
      fun _ => ⟨hm.2 .bist (by decide), hm.1, hm.2⟩, fun h => absurd hpre (by simp [h])⟩
  · rw [Bool.not_eq_true] at hpre
    obtain ⟨a, ha⟩ : ∃ a, a = bistAborted ⟨mv, worst, dev, res⟩ r s := ⟨_, rfl⟩
    obtain ⟨hvdd, hclk, hdev, habort, hev, hm⟩ := bistAborted_effect ⟨mv, worst, dev, res⟩ r s
    rw [← ha] at hvdd hclk hdev habort hev hm
    have howner : a.ownerOf r.hdr.qp = s.ownerOf r.hdr.qp := State.ownerOf_congr (fun i => hm.1 _ (by simp [noteReg])) _
    have hbme' : a.bme (a.ownerOf r.hdr.qp) = true := by rwa [howner, State.bme, hm.2 .bme (by decide)]
    obtain ⟨hnone, hc, hfld, hmt⟩ := bistFinish_effect eAbort (bistFailed r.mask res) r.mask hq hbme'
    obtain ⟨hbusy, hdone, hevk, habk, hkept⟩ := bistShown_kept r a
    refine ⟨_, ha ▸ preconditionFail_ends (m := ⟨mv, worst, dev, res⟩) hb hpre, ?_, ?_, ?_, fun h => absurd h (by simp [hpre]),
      fun _ => ⟨hnone, bne_eq_false_iff_eq.2 ((hfld _ _ _).trans hbusy), bne_iff_ne.2 (by rw [hfld, habk, habort]; decide),
        bne_iff_ne.2 (by rw [hfld, hevk, hev]; decide), bne_iff_ne.2 (by rw [hfld, hdone]; decide), hc.1 _ (List.mem_singleton.2 rfl),
        fun hmask => ?_⟩⟩
    · exact (hfld _ _ _).trans ((hkept _ (.inl rfl) _ _).trans hvdd)
    · exact (hfld _ _ _).trans ((hkept _ (.inr rfl) _ _).trans hclk)
    · exact (hfld _ _ _).trans ((hkept _ (.inr rfl) _ _).trans hdev)
    · have hcl : moved (fun x => x.blk = .drf ∧ ¬ (0x100 ≤ x.off ∧ x.off < 0x140) ∨ x.blk = .tst ∨ complReg x ∨ noteReg x)
          [.bist, .drf, .qps, .rings, .regs, .hiLatch, .capt, .loHeld, .out] a (bistCleared r a) := by
        have hdrf (b : State) (v : DrfSt) : onlyParts [.drf] b { b with drf := v } := by
          intro q hq
          cases q <;> simp_all [Part.same]
        have hdef : bistCleared r a = { State.resetRegs { a with bist := none } (fun r => r.blk == .drf && !decide (0x100 ≤ r.off ∧ r.off < 0x140))
            with drf := {} } := by
          rw [bistCleared, hmask, bistBits_pow (by decide), List.foldl_cons, List.foldl_nil, bistReset, if_neg (by decide), if_neg (by decide),
            if_neg (by decide), if_neg (by decide), if_pos rfl]
        rw [hdef]
        refine (((clearBist_onlyParts a).moved (by decide) _ (by decide)).trans
          ⟨(resetRegs_onlyRegs _ _).mono fun x hx => .inl ?_, (resetRegs_onlyParts _ _).mono (by decide)⟩).trans
          ((hdrf _ _).moved (by decide) _ (by decide))
        simp only [Bool.and_eq_true, beq_iff_eq, Bool.not_eq_true', decide_eq_false_iff_not] at hx
        exact hx
      obtain ⟨hr, hp⟩ := ((hm.mono (fun x h => .inr (h.imp_right .inr)) (by decide)).trans hcl).trans (hmt.mono (fun x => .inr) (by decide))
      exact ⟨hr, hp⟩

/-! ## QUERY (R379) -/

theorem queryRecord_length (fn obj kind : Nat) (s : State) : (queryRecord fn obj kind s).length = 64 := by
  have hpad (l : List Byte) (n : Nat) (h : l.length ≤ n) : (padTo n l).length = n := by simp [padTo]; omega
  have hpend (n : Nat) (c : Option EspCmd) : (queryPend n c).length = 4 + n := by
    cases c <;> simp [queryPend, leBytes_length]
  unfold queryRecord
  refine hpad _ _ ?_
  match kind with
  | 0 => simp [queryDevice, tbBytes, leBytes_length]
  | 1 => simp [queryIsp, leBytes_length]
  | 2 =>
    simp only [queryEsp]
    split
    · split_ifs <;> simp [hpend, hpad, leBytes_length]
    · simp [hpend, hpad, leBytes_length]
  | 3 =>
    simp only [queryBay]
    split <;> simp [leBytes_length]
  | _ + 4 =>
    unfold queryBolt
    rcases (s.bolt obj).writer with _ | (_ | _) <;> split_ifs <;> simp [leBytes_length]

theorem queryRecord_begun (fn obj kind q : Nat) (s : State) : queryRecord fn obj kind (s.begun q) = queryRecord fn obj kind s := by
  match kind with
  | 0 => rfl
  | 1 => rfl
  | 2 => rfl
  | 3 => rfl
  | _ + 4 => rfl

theorem query_claim {h : Hdr} {obj kind : Nat} {s : State} (ht : s.takes (.query h obj kind) = true) (hk : kind ≤ 4)
    (hobj : kind = 0 ∨ obj < queryLimit kind)
    (how : s.ownerOf h.qp = 0 ∨ queryOwner obj kind s = none ∨ queryOwner obj kind s = some (s.ownerOf h.qp)) :
    ∃ t, exec (.query h obj kind) s = .next t ∧ completed (answerRec h eOk (queryRecord (s.ownerOf h.qp) obj kind s)) s t ∧
      (queryRecord (s.ownerOf h.qp) obj kind s).length = 64 ∧ onlyRegs complReg s t ∧ onlyParts [.qps, .regs, .out] s t := by
  obtain ⟨hd, hr, hbeg, hq, hbme⟩ := State.takes_elim (h := h) rfl ht
  have hrange : (decide (4 < kind) || (kind != 0 && decide (queryLimit kind ≤ obj))) = false := by
    have h4 : decide (4 < kind) = false := by simpa using hk
    obtain h0 | h0 := hobj
    · simp [h0]
    · simp [h4, h0]
  have hpriv : (s.ownerOf h.qp != 0 && (queryOwner obj kind s).any (· != s.ownerOf h.qp)) = false := by
    obtain h0 | h0 | h0 := how <;> simp [h0]
  have hchecks : firstFail [(decide (4 < kind) || (kind != 0 && decide (queryLimit kind ≤ obj)), eRange),
      (s.ownerOf h.qp != 0 && (queryOwner obj kind s).any (· != s.ownerOf h.qp), ePriv)] = none := by
    simp only [firstFail, hrange, hpriv, Bool.false_eq_true, if_false]
  refine ⟨postCompl (answerRec h eOk (queryRecord (s.ownerOf h.qp) obj kind s)) (s.begun h.qp), ?_, ?_⟩
  · show execQuery h obj kind s = _
    unfold execQuery
    dsimp only
    rw [command_begins _ _ _ _ _ hd hbeg ((firstFail_gate (by simp) hr (fun _ h => absurd h List.not_mem_nil) _).trans hchecks), completeRec,
      queryRecord_begun]
  · obtain ⟨hc, hreg, hpar⟩ := postCompl_from (c := answerRec h eOk (queryRecord (s.ownerOf h.qp) obj kind s)) hq hbme (begun_onlyParts s h.qp)
    exact ⟨hc, queryRecord_length _ _ _ _, hreg, hpar.mono (by decide)⟩

/-- Settles O49: by the effect of a run that begins, of the end of one on the blocks that it tested, and of QUERY. -/
theorem selfTestsAndQueriesRun : Obligations.SelfTestsAndQueriesRun := by
  unfold Obligations.SelfTestsAndQueriesRun
  exact ⟨fun _ _ _ ht h0 hmask hb => bistRun_claim ht h0 hmask hb, fun _ res _ hb hq hbme => bistEnd_claim res hb hq hbme,
    fun _ res _ _ hb hmask h24 h36 hq hbme _ hquiet => bistEndCluster_claim res hb hmask h24 h36 hq hbme hquiet,
    fun _ mv worst dev res _ hb hq hbme => preconditionFail_claim mv worst dev res hb hq hbme,
    fun _ _ _ _ ht hk hobj how => query_claim ht hk hobj how⟩

end Sys2Proof.Machine

end

section
/-! SUPPORT. What a release of the supervision outputs and a function's reset leave (R5, R415, R336, R340). -/

-- The checked text is one long file: elaborating these in order bounds its threads and memory.
set_option Elab.async false

namespace Sys2Proof.Machine

/-! ## Writes to beam of any length -/

/-- The registers that a write to beam may set. -/
def beamReg (r : RegId) : Prop := r.blk = .bm ∨ r.blk = .bmw ∨ noteReg r

theorem beamReg_of_mem {r : RegId} (h : memReg r) : beamReg r := h.imp And.left id

theorem modBeam_moved {P : RegId → Prop} (s : State) (f : BeamSt → BeamSt) : moved P memParts s (s.modBeam f) :=
  (modBeam_onlyParts s f).moved (by decide) _ (by decide)

theorem mergeBytes_mem (line : Nat) (b : List (Nat × Byte)) (s : State) : moved memReg memParts s (mergeBytes line b s) := by
  unfold mergeBytes
  split
  · exact .refl _ _ s
  · split
    · exact modBeam_moved s _
    · refine moved.trans ?_ (modBeam_moved _ _)
      split
      · split
        · exact flushEntry_mem _ s
        · exact .refl _ _ s
      · exact .refl _ _ s

theorem writePiece_moved (who : Who) (a : Nat) (b : List Byte) (s : State) : moved beamReg memParts s (writePiece who a b s) := by
  have hmem {x y : State} (h : moved memReg memParts x y) : moved beamReg memParts x y := h.mono (fun _ => beamReg_of_mem) fun _ => id
  have hreset : moved beamReg memParts s (endBeamReset (beamPort a) s) :=
    ⟨(endBeamReset_onlyRegs _ s).mono fun r h => .inl (by obtain h | h := h <;> rw [h]), (endBeamReset_onlyParts _ s).mono (by decide)⟩
  have hcount (x : State) (e : EvInfo) (n : Nat) : moved beamReg memParts x (count .bm (beamPort a) 1 e n x) :=
    ⟨(count_onlyRegs _ _ _ _ _ x).mono fun r h => .inl h.1, (count_onlyParts _ _ _ _ _ x).mono (by decide)⟩
  unfold writePiece
  dsimp only
  refine (hreset.trans (moved.trans ?_ (hmem (mergeBytes_mem _ _ _)))).trans (hcount _ _ _)
  split_ifs
  · exact .refl _ _ _
  · exact hmem ((mergeBytes_mem _ _ _).trans (flushLine_mem _ _))
  · exact .foldl (fun x p _ => (storeWord_onlyParts _ _ _ x).moved (by decide) _ (by decide)) _

theorem beamWrite_moved (who : Who) (a : Nat) (b : List Byte) (s : State) : moved beamReg memParts s (beamWrite who a b s) :=
  .foldl (fun x p _ => writePiece_moved who p.1 _ x) s

/-! ## A shuttle that stops -/

theorem modBolt_onlyParts (b : Nat) (f : Bolt → Bolt) (s : State) : onlyParts [.beam] s (s.modBolt b f) := setBolt_onlyParts _ _ _

theorem writeBlock_moved (n : Nat) (t : OutStr) (b : OutBlock) (s : State) : moved beamReg memParts s (writeBlock n t b s) :=
  (((tick_onlyParts s).moved (by decide) _ (by decide)).trans (beamWrite_moved _ _ _ _)).trans
    ((modBolt_onlyParts _ _ _).moved (by decide) _ (by decide))

/-- One of a shuttle's streams ends: its blocks are written, and its bolt is free. -/
def endStream (n : Nat) (a : State) (e : Nat × OutStr) : State :=
  (e.2.finish.done.foldl (fun c x => writeBlock n e.2.finish x c) a).modBolt e.2.bolt ({ · with writer := none })

theorem endStreams_eq (n : Nat) (s : State) :
    endStreams n s = ((s.shut n).strs.foldl (endStream n) s).modShut n ({ · with strs := [] }) := rfl

theorem endStream_moved (n : Nat) (a : State) (e : Nat × OutStr) : moved beamReg memParts a (endStream n a e) :=
  (moved.foldl (fun x b _ => writeBlock_moved n e.2.finish b x) a).trans ((modBolt_onlyParts _ _ _).moved (by decide) _ (by decide))

theorem endStreams_moved (n : Nat) (s : State) : moved beamReg (.sht :: memParts) s (endStreams n s) := by
  rw [endStreams_eq]
  exact (moved.foldl (fun a e _ => (endStream_moved n a e).mono (fun _ => id) (by decide)) s).trans
    ((modShut_onlyParts n _ _).moved (by decide) _ (by decide))

theorem setShState_moved (n st : Nat) (s : State) : moved (shReg n) [.sht, .regs] s (s.setShState n st) := by
  have hset : moved (shReg n) [.sht, .regs] s (s.setFld (fSh_STAT_STATE n) st) := setFld_moved _ ⟨rfl, rfl⟩ (by decide) s st
  exact hset.trans ((gateShuttles_onlyParts _).moved (by decide) _ (by decide))

theorem stopShuttle_moved {n : Nat} (h4 : 4 ≤ n) (st src : Nat) (s : State) :
    moved (fun r => shReg n r ∨ beamReg r) (.sht :: memParts) s (stopShuttle n st src s) := by
  have hset (f : FldId) (hf : shReg n f.reg) (a : State) (v : Nat) :
      moved (fun r => shReg n r ∨ beamReg r) (.sht :: memParts) a (a.setFld f v) := setFld_moved f (.inl hf) (by decide) a v
  unfold stopShuttle
  rw [if_neg (by omega)]
  exact (((((endStreams_moved n s).mono (fun _ => .inr) fun _ => id).trans ((modShut_onlyParts n _ _).moved (by decide) _ (by decide))).trans
    ((setShState_moved n st _).mono (fun _ => .inl) (by decide))).trans (hset (fSh_STAT_HALT_SRC n) ⟨rfl, rfl⟩ _ _)).trans
    (hset (fSh_STAT_BLOCKED n) ⟨rfl, rfl⟩ _ _)

/-! ## The queue pairs as a function's reset finds them -/

/-- Functions, their queues' sizes and owners are as before, and a queue pair that holds nothing still does. -/
def queuesKept (s t : State) : Prop :=
  t.host.bme = s.host.bme ∧ t.host.vfs = s.host.vfs ∧ (∀ r, r.blk = .que ∨ (∃ q, r = rQp_CTL q) → t.reg r = s.reg r) ∧
    ∀ q, s.qp q = {} → t.qp q = {}

theorem queuesKept.refl (s : State) : queuesKept s s := ⟨rfl, rfl, fun _ _ => rfl, fun _ => id⟩

theorem queuesKept.trans {s t u : State} (h : queuesKept s t) (h' : queuesKept t u) : queuesKept s u := by
  obtain ⟨hb, hv, hr, hq⟩ := h
  obtain ⟨hb', hv', hr', hq'⟩ := h'
  exact ⟨hb'.trans hb, hv'.trans hv, fun r h => (hr' r h).trans (hr r h), fun q h => hq' q (hq q h)⟩

theorem queuesKept.foldl {α : Type} {f : State → α → State} (h : ∀ a x, queuesKept a (f a x)) (l : List α) (s : State) :
    queuesKept s (l.foldl f s) := by
  induction l generalizing s with
  | nil => exact .refl s
  | cons x l ih => exact (h s x).trans (ih _)

theorem queuesKept.of_moved {P : RegId → Prop} {l : List Part} {s t : State} (h : moved P l s t)
    (hP : ∀ r, P r → r.blk ≠ .que ∧ r.blk ≠ .qp) (hl : Part.bme ∉ l ∧ Part.vfs ∉ l ∧ Part.qps ∉ l) : queuesKept s t := by
  refine ⟨h.2 .bme hl.1, h.2 .vfs hl.2.1, fun r hr => h.1 r fun hp => ?_, fun q hq => ?_⟩
  · obtain hr | ⟨q, hr⟩ := hr
    · exact (hP r hp).1 hr
    · exact (hP r hp).2 (by rw [hr])
  · rw [← hq, State.qp, State.qp, h.2 .qps hl.2.2]

theorem queuesKept.of_parts {l : List Part} {s t : State} (h : onlyParts l s t)
    (hl : Part.regs ∉ l ∧ Part.bme ∉ l ∧ Part.vfs ∉ l ∧ Part.qps ∉ l := by decide) : queuesKept s t :=
  .of_moved (P := fun _ => False) ⟨h.regsKept hl.1, h⟩ (fun _ => False.elim) hl.2

/-- A queue pair set to one that holds nothing where it held nothing. -/
theorem setQp_queuesKept {s : State} {q : Nat} {v : Qp} (h : s.qp q = {} → v = {}) : queuesKept s (s.setQp q v) := by
  refine ⟨rfl, rfl, fun _ _ => rfl, fun p hp => ?_⟩
  by_cases hpq : p = q
  · subst hpq
    rw [State.qp_setQp_self, h hp]
  · rw [State.qp_setQp_ne _ _ hpq, hp]

theorem setStat_queuesKept (s : State) (q hi lo v : Nat) : queuesKept s (s.setFld ⟨rQp_STAT q, hi, lo⟩ v) := by
  refine ⟨rfl, rfl, fun r hr => setFld_onlyReg s (rQp_STAT q) _ _ _ _ fun h => ?_, fun _ => id⟩
  obtain hr | ⟨p, hr⟩ := hr <;> rw [h] at hr
  · cases hr
  · simp at hr

theorem untake_queuesKept (h : Hdr) (s : State) : queuesKept s (untake h s) := by
  have hset : queuesKept s (s.setQp h.qp { s.qp h.qp with
      taken := (s.qp h.qp).taken.eraseP (fun t => t.hdr.cid == h.cid && (t.begun || t.bad.isSome) && !t.waiting) }) :=
    setQp_queuesKept fun h0 => by rw [h0]; rfl
  unfold untake
  dsimp only
  split_ifs
  · exact .refl s
  · exact ((hset.trans (setStat_queuesKept _ _ _ _ _)).trans (setStat_queuesKept _ _ _ _ _)).trans (setStat_queuesKept _ _ _ _ _)
  · exact hset.trans (setStat_queuesKept _ _ _ _ _)

theorem endWaiter_queuesKept (h : Hdr) (s : State) : queuesKept s (endWaiter false h s) := untake_queuesKept h s

/-! ## What waits is given up -/

/-- A command of queue `q` that waits at an egress port is given up. -/
def dropWaiter (q : Nat) (c : Option EspCmd) (b : State) : State :=
  match c with
  | some x => if x.hdr.qp = q then endWaiter false x.hdr b else b
  | none => b

theorem dropWaiter_queuesKept (q : Nat) (c : Option EspCmd) (b : State) : queuesKept b (dropWaiter q c b) := by
  unfold dropWaiter
  split
  · split_ifs
    · exact endWaiter_queuesKept _ b
    · exact .refl b
  · exact .refl b

theorem abortTakes_queuesKept (q : Nat) (s : State) : queuesKept s (abortTakes false q s) := by
  unfold abortTakes
  refine .foldl (fun a e => ?_) _ s
  dsimp only
  split
  · exact ((queuesKept.of_parts (setEsp_onlyParts a e.1 _)).trans (dropWaiter_queuesKept q e.2.take _)).trans (dropWaiter_queuesKept q e.2.rew _)
  · exact .refl a

theorem abortJumps_queuesKept (q : Nat) (s : State) : queuesKept s (abortJumps false q s) := by
  unfold abortJumps
  refine .foldl (fun a k => ?_) _ s
  split
  · split_ifs
    · exact (queuesKept.of_parts (setGen_onlyParts a k _)).trans (endWaiter_queuesKept _ _)
    · exact .refl a
  · exact .refl a

theorem abortStart_queuesKept (n : Nat) (s : State) : queuesKept s (abortStart false n s) := by
  unfold abortStart
  split
  · exact .refl s
  · exact ((queuesKept.of_parts (modShut_onlyParts n _ s)).trans (.of_parts (releaseBolts_onlyParts _ _))).trans (untake_queuesKept _ _)

theorem abortStarts_queuesKept (q : Nat) (s : State) : queuesKept s (abortStarts false q s) := by
  unfold abortStarts
  refine .foldl (fun a e => ?_) _ s
  split_ifs
  · exact abortStart_queuesKept _ a
  · exact .refl a

theorem abortSerial_queuesKept (q : Nat) (s : State) : queuesKept s (abortSerial false q s) := by
  have hparts (l : List (Hdr × Nat × Option (List Byte))) (m : List (Hdr × List Byte)) :
      onlyParts [.sht, .sec] s { s with sht := { s.sht with loads := l }, sec := { s.sec with attests := m } } := by
    intro p hp
    cases p <;> simp_all [Part.same]
  unfold abortSerial
  dsimp only
  exact (queuesKept.of_parts (hparts _ _)).trans (.foldl (fun a h => endWaiter_queuesKept h a) _ _)

theorem abortWaiting_queuesKept (q : Nat) (s : State) : queuesKept s (abortWaiting false q s) :=
  (((abortTakes_queuesKept q s).trans (abortJumps_queuesKept q _)).trans (abortStarts_queuesKept q _)).trans (abortSerial_queuesKept q _)

theorem abortQueued_queuesKept (q : Nat) (s : State) : queuesKept s (abortQueued false q s) := by
  have hset : queuesKept s (s.setQp q { s.qp q with
      taken := (s.qp q).taken.map (fun t => { t with waiting := false, begun := t.begun || t.waiting }), posted := [], fetched := [], due := false }) :=
    setQp_queuesKept fun h0 => by rw [h0]; rfl
  exact (hset.trans (.foldl (fun a (t : Taken) => untake_queuesKept t.hdr a) _ _)).trans
    (.foldl (fun a (p : Posted) => untake_queuesKept p.hdr a) _ _)

theorem silence_onlyParts (p : Nat → Bool) (s : State) : onlyParts [.lanes, .links, .crew, .beam, .loom, .sht, .drf, .sec, .bist] s (silence p s) := by
  intro q hq
  cases q <;> simp_all [Part.same, silence]

theorem flrIngress_queuesKept (f : Nat) (s : State) : queuesKept s (flrIngress f s) := by
  unfold flrIngress
  refine .foldl (fun a e => ?_) _ s
  split_ifs
  · refine (queuesKept.of_parts (setIsp_onlyParts a e.1 _)).trans (.of_moved ⟨showIngress_onlyRegs _, showIngress_onlyParts _⟩ (fun r h => ?_) (by decide))
    rw [h]; exact ⟨Blk.noConfusion, Blk.noConfusion⟩
  · exact .refl a

theorem showEgress_queuesKept (s : State) : queuesKept s (showEgress s) :=
  .of_moved ⟨showEgress_onlyRegs s, showEgress_onlyParts s⟩ (fun r h => by rw [h]; exact ⟨Blk.noConfusion, Blk.noConfusion⟩) (by decide)

theorem flrEgress_queuesKept (f : Nat) (s : State) : queuesKept s (flrEgress f s) := by
  unfold flrEgress
  refine .foldl (fun a e => ?_) _ s
  split_ifs
  · exact ((queuesKept.of_parts (setEsp_onlyParts a e.1 _)).trans (.of_parts (modLane_onlyParts _ _ _))).trans (showEgress_queuesKept _)
  · exact .refl a

/-! ## A function's reset -/

/-- The queue pairs of function `f`. -/
def queuesOf (f : Nat) (s : State) : List Nat := (List.range 256).filter fun q => s.ownerOf q == f

theorem mem_queuesOf {f q : Nat} {s : State} : q ∈ queuesOf f s ↔ q < 256 ∧ s.ownerOf q = f := by
  simp [queuesOf]

/-- What waits on the queues of a function and on its ports is given up (R340). -/
def flrQuiet (f : Nat) (s : State) : State :=
  flrEgress f (flrIngress f (silence ((queuesOf f s).contains ·)
    ((queuesOf f s).foldl (fun a q => abortQueued false q (abortWaiting false q a)) s)))

theorem flrFunction_eq (f : Nat) (s : State) : flrFunction f s = resetFunction f (queuesOf f s) (flrQuiet f s) := rfl

theorem flrQuiet_queuesKept (f : Nat) (s : State) : queuesKept s (flrQuiet f s) :=
  (((queuesKept.foldl (fun a q => (abortWaiting_queuesKept q a).trans (abortQueued_queuesKept q _)) _ s).trans
    (.of_parts (silence_onlyParts _ _))).trans (flrIngress_queuesKept f _)).trans (flrEgress_queuesKept f _)

theorem resetFunction_effect (f : Nat) (qs : List Nat) (s : State) : let t := resetFunction f qs s
    t.host.vfs = s.host.vfs ∧ (∀ r, r.blk = .que → t.reg r = s.reg r) ∧ (∀ g, t.bme g = if g = f then false else s.bme g) ∧
      (∀ q, t.reg (rQp_CTL q) = if q ∈ qs then regReset (rQp_CTL q) else s.reg (rQp_CTL q)) ∧
      ∀ q, t.qp q = if q ∈ qs then {} else s.qp q := by
  obtain ⟨a, ha⟩ : ∃ a, a = s.resetRegs fun r => ((r.blk == .nq || r.blk == .msix || r.blk == .win) && r.inst == f) ||
    (r.blk == .qp && qs.contains r.inst) := ⟨_, rfl⟩
  have har (r : RegId) : (resetFunction f qs s).reg r = a.reg r := by rw [ha]; rfl
  have hap : onlyParts [.regs, .hiLatch, .capt, .loHeld] s a := by rw [ha]; exact resetRegs_onlyParts _ _
  have hav : (resetFunction f qs s).host.vfs = a.host.vfs := by rw [ha]; rfl
  refine ⟨hav.trans (hap .vfs (by decide)), fun r hr => ?_, fun g => ?_, fun q => ?_, fun q => ?_⟩
  · rw [har, ha, State.reg_resetRegs, if_neg (by simp [hr])]
  · have hg : (resetFunction f qs s).bme g = Tab.get false (a.host.bme.filter (·.1 != f)) g := by rw [ha]; rfl
    rw [hg, Tab.get_filter false a.host.bme (· != f) g, hap .bme (by decide)]
    by_cases h : g = f
    · rw [if_pos h, if_neg (by simp [h])]
    · rw [if_neg h, if_pos (by simpa using h)]; rfl
  · rw [har, ha, State.reg_resetRegs]
    by_cases h : q ∈ qs <;> simp [h]
  · have hg : (resetFunction f qs s).qp q = Tab.get {} (a.host.qps.filter (fun e => !qs.contains e.1)) q := by rw [ha]; rfl
    rw [hg, Tab.get_filter {} a.host.qps (fun p => !qs.contains p) q, hap .qps (by decide)]
    by_cases h : q ∈ qs
    · rw [if_pos h, if_neg (by simp [h])]
    · rw [if_neg h, if_pos (by simp [h])]; rfl

/-- What an FLR of function `f` leaves of the functions and their queues. -/
theorem flrFunction_effect (f : Nat) (s : State) : let t := flrFunction f s
    t.host.vfs = s.host.vfs ∧ (∀ r, r.blk = .que → t.reg r = s.reg r) ∧ (∀ g, t.bme g = if g = f then false else s.bme g) ∧
      (∀ q, t.reg (rQp_CTL q) = if q < 256 ∧ s.ownerOf q = f then regReset (rQp_CTL q) else s.reg (rQp_CTL q)) ∧
      ∀ q, q < 256 ∧ s.ownerOf q = f ∨ s.qp q = {} → t.qp q = {} := by
  obtain ⟨hb, hv, hr, hq⟩ := flrQuiet_queuesKept f s
  obtain ⟨hv', hr', hb', hc', hq'⟩ := resetFunction_effect f (queuesOf f s) (flrQuiet f s)
  simp only [flrFunction_eq]
  refine ⟨hv'.trans hv, fun r h => (hr' r h).trans (hr r (.inl h)), fun g => ?_, fun q => ?_, fun q h => ?_⟩
  · rw [hb', State.bme, State.bme, hb]
  · rw [hc', hr _ (.inr ⟨q, rfl⟩)]
    exact if_congr mem_queuesOf rfl rfl
  · rw [hq']
    split
    · rfl
    · next hn => exact hq q (h.resolve_left fun h => hn (mem_queuesOf.2 h))

/-- What the FLRs of several functions leave. -/
theorem flrFunctions_effect (l : List Nat) (s : State) : let t := l.foldl (fun a f => flrFunction f a) s
    (∀ r, r.blk = .que → t.reg r = s.reg r) ∧ (∀ g, g ∈ l ∨ s.bme g = false → t.bme g = false) ∧
      (∀ q, q < 256 ∧ s.ownerOf q ∈ l ∨ s.reg (rQp_CTL q) = regReset (rQp_CTL q) → t.reg (rQp_CTL q) = regReset (rQp_CTL q)) ∧
      ∀ q, q < 256 ∧ s.ownerOf q ∈ l ∨ s.qp q = {} → t.qp q = {} := by
  induction l generalizing s with
  | nil => simp
  | cons f l ih =>
    obtain ⟨-, hr, hb, hc, hq⟩ := flrFunction_effect f s
    obtain ⟨hr', hb', hc', hq'⟩ := ih (flrFunction f s)
    have howner (q : Nat) : (flrFunction f s).ownerOf q = s.ownerOf q := State.ownerOf_congr (fun _ => hr _ rfl) q
    rw [List.foldl_cons]
    refine ⟨fun r h => (hr' r h).trans (hr r h), fun g hg => hb' g ?_, fun q h => hc' q ?_, fun q h => hq' q ?_⟩
    · rw [hb]
      by_cases hgf : g = f
      · exact .inr (if_pos hgf)
      · exact hg.imp (fun h => (List.mem_cons.1 h).resolve_left hgf) fun h => (if_neg hgf).trans h
    · rw [howner, hc]
      by_cases hf : q < 256 ∧ s.ownerOf q = f
      · exact .inr (if_pos hf)
      · rw [if_neg hf]
        exact h.imp_left fun h => ⟨h.1, (List.mem_cons.1 h.2).resolve_left fun e => hf ⟨h.1, e⟩⟩
    · rw [howner]
      by_cases hf : q < 256 ∧ s.ownerOf q = f
      · exact .inr (hq q (.inl hf))
      · exact h.imp (fun h => ⟨h.1, (List.mem_cons.1 h.2).resolve_left fun e => hf ⟨h.1, e⟩⟩) fun h => hq q (.inr h)

theorem ownerOf_lt (s : State) (q : Nat) : s.ownerOf q < 32 := by
  unfold State.ownerOf
  cases h : (List.range 31).find? _ with
  | none => exact Nat.zero_lt_succ _
  | some i =>
    have := List.mem_range.1 (List.mem_of_find?_eq_some h)
    show i + 1 < 32
    omega

end Sys2Proof.Machine

end

section
/-! PROOFS. POR, PERST, FLR and Bus Master Enable (R5, R336, R340): what settles O50. -/

-- The checked text is one long file: elaborating these in order bounds its threads and memory.
set_option Elab.async false

namespace Sys2Proof.Machine

/-! ## The end of a reset (R551, R552) -/

theorem releaseOuts_effect (s : State) : (∀ j, j < 16 → biasOut j 0 none ∈ (releaseOuts s).host.out) ∧
    (∀ j, j < 8 → htrPin j false ∈ (releaseOuts s).host.out) ∧ outsKept s (releaseOuts s) ∧ onlyParts [.out] s (releaseOuts s) := by
  obtain ⟨a, ha⟩ : ∃ a, a = (List.range 16).foldl (fun a n => a.emit (biasOut n 0 none)) s := ⟨_, rfl⟩
  obtain ⟨b, hb⟩ : ∃ b, b = (List.range 8).foldl (fun a n => a.emit (htrPin n false)) a := ⟨_, rfl⟩
  have hdef : releaseOuts s = b.emit (.pin "MOD_RST_N" (some false)) := by rw [hb, ha]; rfl
  have hsa : outsKept s a := by rw [ha]; exact .foldl (fun x _ => .emit x _) _ s
  have hab : outsKept a b := by rw [hb]; exact .foldl (fun x _ => .emit x _) _ a
  have hlast := outsKept.emit b (.pin "MOD_RST_N" (some false))
  rw [hdef]
  refine ⟨fun j hj => hlast _ (hab _ ?_), fun j hj => hlast _ ?_, (hsa.trans hab).trans hlast, ?_⟩
  · rw [ha]
    exact mem_out_foldl (g := fun n => biasOut n 0 none) (fun x _ => .emit x _) (fun x _ => List.mem_cons_self) (List.mem_range.2 hj) s
  · rw [hb]
    exact mem_out_foldl (g := fun n => htrPin n false) (fun x _ => .emit x _) (fun x _ => List.mem_cons_self) (List.mem_range.2 hj) a
  · rw [hb, ha]
    exact ((onlyParts.foldl (fun x _ => emit_onlyParts x _) _ s).trans (.foldl (fun x _ => emit_onlyParts x _) _ _)).trans (emit_onlyParts _ _)

theorem strap_bit {straps : Nat} (h : straps.testBit 1 = false) : (BitVec.ofNat 32 (straps % 32)).getLsbD 1 = false := by
  have h32 : (straps % 2 ^ 5).testBit 1 = straps.testBit 1 := by rw [Nat.testBit_mod_two_pow]; rfl
  rw [BitVec.getLsbD_ofNat, show straps % 32 = straps % 2 ^ 5 from rfl, h32, h]
  rfl

/-- What the end of a reset leaves, where the straps do not ask for a boot by the host. -/
theorem startUp_effect {straps : Nat} (h : straps.testBit 1 = false) (s : State) : let t := startUp straps s
    t.reg rSys_STRAPS = BitVec.ofNat 32 (straps % 32) ∧ t.fld fCox_TB_CTL_TBCLK_25 = straps % 2 ∧
      (∀ j, j < 16 → biasOut j 0 none ∈ t.host.out) ∧ (∀ j, j < 8 → htrPin j false ∈ t.host.out) ∧ outsKept s t ∧
      onlyRegs (fun r => r = rSys_STRAPS ∨ r = rCox_TB_CTL) s t ∧ onlyParts [.regs, .t0, .out] s t := by
  obtain ⟨hbias, hhtr, hkept, hp⟩ := releaseOuts_effect s
  obtain ⟨a, ha⟩ : ∃ a, a = releaseOuts s := ⟨_, rfl⟩
  rw [← ha] at hbias hhtr hkept hp
  obtain ⟨b, hb⟩ : ∃ b, b = (a.setReg rSys_STRAPS (BitVec.ofNat 32 (straps % 32))).setFld fCox_TB_CTL_TBCLK_25 (straps % 2) := ⟨_, rfl⟩
  have hbstrap : b.reg rSys_STRAPS = BitVec.ofNat 32 (straps % 32) := by
    rw [hb, setFld_onlyReg _ rCox_TB_CTL _ _ _ _ (by decide), State.reg_setReg_self]
  have hbr : onlyRegs (fun r => r = rSys_STRAPS ∨ r = rCox_TB_CTL) a b := by
    rw [hb]; exact ((setReg_onlyRegs a _ _).mono fun _ => .inl).andThen (setFld_onlyReg _ _ _ _ _) fun _ => .inr
  have hbp : onlyParts [.regs] a b := by rw [hb]; exact (setReg_onlyParts a _ _).trans (setFld_onlyParts _ _ _)
  have hup : b.up = s.up := (hbp .up (by decide)).trans (hp .up (by decide))
  have ht0 : onlyParts [.t0] b { b with t0 := b.up } := by
    intro p hp
    cases p <;> simp_all [Part.same]
  have hdef : startUp straps s = { b with t0 := b.up } := by
    have hno : State.hostBootStrap { b with t0 := b.up } = false := by
      show (b.reg rSys_STRAPS).getLsbD 1 = false
      rw [hbstrap, strap_bit h]
    unfold startUp
    dsimp only
    rw [← ha, ← hb, hno, if_neg Bool.false_ne_true]
  have hout : b.host.out = a.host.out := hbp .out (by decide)
  simp only [hdef]
  refine ⟨hbstrap, ?_, fun j hj => ?_, fun j hj => ?_, fun o ho => ?_, ?_, ?_⟩
  · have hf : b.fld fCox_TB_CTL_TBCLK_25 = straps % 2 := by
      rw [hb]; exact State.fld_setFld_self_of_lt _ _ (by decide) (Nat.mod_lt _ (by decide))
    exact hf
  · show _ ∈ b.host.out
    rw [hout]; exact hbias j hj
  · show _ ∈ b.host.out
    rw [hout]; exact hhtr j hj
  · show _ ∈ b.host.out
    rw [hout]; exact hkept o ho
  · exact (hp.onlyRegs_of_regs (by decide) _).trans (hbr.trans (ht0.onlyRegs_of_regs (by decide) _))
  · exact (hp.mono (by decide)).trans ((hbp.mono (by decide)).trans (ht0.mono (by decide)))

/-! ## POR -/

/-- What a POR carries over: the fuses, the free values, and what has left the device. -/
def porBase (s : State) : State :=
  { regs := []
    sec := SecSt.unwrapped s.fuses
    fuses := s.fuses
    beam := { epoch := s.beam.epoch + 1 }
    free := s.free
    host := { out := s.host.out }
    bias := { modInt := s.bias.modInt }
    pending := s.pending }

theorem releasePins_onlyParts (old : ThmSt) (s : State) : onlyParts [.out] s (releasePins old s) := by
  unfold releasePins
  split_ifs
  · exact (emit_onlyParts _ _).trans (emit_onlyParts _ _)
  · exact emit_onlyParts _ _
  · exact emit_onlyParts _ _
  · exact .refl _ s

theorem por_claim (pin : Bool) (straps : Nat) (s : State) (h : straps.testBit 1 = false) : ∃ t, exec (.por pin straps) s = .next t ∧
    (∀ r, r ≠ rSys_CAUSE → r ≠ rSys_STRAPS → r ≠ rCox_TB_CTL → t.reg r = regReset r) ∧ t.reg rSys_CAUSE = (if pin then 2#32 else 1#32) ∧
    t.reg rSys_STRAPS = BitVec.ofNat 32 (straps % 32) ∧ t.fld fCox_TB_CTL_TBCLK_25 = straps % 2 ∧ t.up = 0 ∧ t.tb = 0 ∧ t.lanes = [] ∧
    t.gens = [] ∧ t.links = [] ∧ t.loom = {} ∧ t.sht = {} ∧ t.drf = {} ∧ t.ck = [] ∧ t.mon = {} ∧ t.bias = { modInt := s.bias.modInt } ∧
    t.pwr = {} ∧ t.thm = {} ∧ t.anc = [] ∧ t.bist = none ∧ t.dark = false ∧ t.beam.bays = [] ∧ t.beam.mem = [] ∧ t.host.qps = [] ∧
    (∀ j, j < 16 → biasOut j 0 none ∈ t.host.out) ∧ (∀ j, j < 8 → htrPin j false ∈ t.host.out) ∧
    (∀ p ∈ ["STROKE_OUT", "PPS_OUT"], .pin p none ∈ t.host.out) ∧ t.fuses = s.fuses ∧ t.pending = s.pending := by
  obtain ⟨a, ha⟩ : ∃ a, a = porBase s := ⟨_, rfl⟩
  obtain ⟨b, hb⟩ : ∃ b, b = a.setReg rSys_CAUSE (if pin then 2#32 else 1#32) := ⟨_, rfl⟩
  obtain ⟨c, hc⟩ : ∃ c, c = releasePins s.thm b := ⟨_, rfl⟩
  obtain ⟨d, hd⟩ : ∃ d, d = dropOuts c := ⟨_, rfl⟩
  have hex : exec (.por pin straps) s = .next (startUp straps d) := by rw [hd, hc, hb, ha]; rfl
  have hbp : onlyParts [.regs] a b := by rw [hb]; exact setReg_onlyParts a _ _
  have hcp : onlyParts [.out] b c := by rw [hc]; exact releasePins_onlyParts _ b
  have hdp : onlyParts [.out] c d := by rw [hd]; exact dropOuts_onlyParts c
  obtain ⟨-, -, hpins⟩ := dropOuts_outs c
  rw [← hd] at hpins
  obtain ⟨hstrap, hclk, hbias, hhtr, hkept, hr, hp⟩ := startUp_effect h d
  have hreg (r : RegId) (h1 : r ≠ rSys_STRAPS) (h2 : r ≠ rCox_TB_CTL) : (startUp straps d).reg r = b.reg r :=
    (hr r (by rintro (h | h); exact h1 h; exact h2 h)).trans ((hdp.regsKept (by decide) r not_false).trans (hcp.regsKept (by decide) r not_false))
  have hall : onlyParts [.regs, .t0, .out] a (startUp straps d) :=
    (hbp.mono (by decide)).trans ((hcp.mono (by decide)).trans ((hdp.mono (by decide)).trans hp))
  have hpart (p : Part) (hp : p ∉ [Part.regs, .t0, .out]) : p.same (porBase s) (startUp straps d) := ha ▸ hall p hp
  have hbeam : (startUp straps d).beam = { epoch := s.beam.epoch + 1 } := hpart .beam (by decide)
  have hreset (r : RegId) : a.reg r = regReset r := by rw [ha]; rfl
  refine ⟨_, hex, fun r h0 h1 h2 => ?_, ?_, hstrap, hclk, hpart .up (by decide), hpart .tb (by decide), hpart .lanes (by decide),
    hpart .gens (by decide), hpart .links (by decide), hpart .loom (by decide), hpart .sht (by decide), hpart .drf (by decide), hpart .ck (by decide),
    hpart .mon (by decide), hpart .bias (by decide), hpart .pwr (by decide), hpart .thm (by decide), hpart .anc (by decide), hpart .bist (by decide),
    hpart .dark (by decide), by rw [hbeam], by rw [hbeam], hpart .qps (by decide), hbias, hhtr, fun p hp => hkept _ (hpins p ?_),
    hpart .fuses (by decide), hpart .pending (by decide)⟩
  · rw [hreg r h1 h2, hb, State.reg_setReg_ne _ _ h0, hreset]
  · rw [hreg _ (by decide) (by decide), hb, State.reg_setReg_self]
  · exact List.mem_cons_of_mem _ hp

/-! ## PERST -/

theorem perst_claim (straps : Nat) (s : State) (hdark : s.dark = false) (h : straps.testBit 1 = false) : ∃ t, exec (.perst straps) s = .next t ∧
    t.on fSys_CAUSE_PERST = true ∧
    (∀ r, aonReg r = false → r ≠ rSys_STRAPS → r ≠ rCox_TB_CTL → r ≠ rSec_STAT → r ≠ rSec_TA_STAT → (∀ k, r ≠ rBm_STAT k) →
      (∀ n, n < 8 → r ≠ rLn_CAL_TEMP n) → t.reg r = regReset r) ∧
    (∀ r, r.blk = .anc ∨ r.blk = .pwr ∧ r ≠ rPwr_STATE ∧ r ≠ rPwr_HINT ∨ r.blk = .thm ∧ r.off < 0x34 → t.reg r = s.reg r) ∧
    t.reg rPwr_STATE = regReset rPwr_STATE ∧ t.on fPwr_HINT_ACTIVE = false ∧ t.thm.waiting = none ∧ t.thm.active = s.thm.active ∧ t.loom = {} ∧
    t.sht = {} ∧ t.drf = {} ∧ t.host.qps = [] ∧ (∀ n, (t.lane n).express = [] ∧ (t.lane n).modeCmd = none ∧ (t.lane n).anchors = []) ∧
    (∀ j, j < 16 → biasOut j 0 none ∈ t.host.out) ∧ (∀ j, j < 8 → htrPin j false ∈ t.host.out) ∧
    (∀ p ∈ ["STROKE_OUT", "PPS_OUT"], .pin p none ∈ t.host.out) ∧
    t.anc = s.anc ∧ t.fuses = s.fuses ∧ t.pending = s.pending ∧ t.up = s.up := by
  obtain ⟨hreset, haon, hstate, hhint, hthm, hloom, hsht, hdrf, hqps, -, -, hlane, -, -, hpins, hpar⟩ := holdReset_effect s
  obtain ⟨a, ha⟩ : ∃ a, a = holdReset s := ⟨_, rfl⟩
  rw [← ha] at hreset haon hstate hhint hthm hloom hsht hdrf hqps hlane hpins hpar
  obtain ⟨b, hb⟩ : ∃ b, b = a.setFld fSys_CAUSE_PERST 1 := ⟨_, rfl⟩
  have hbr : onlyRegs (fun r => r = rSys_CAUSE) a b := by rw [hb]; exact setFld_onlyReg a _ _ _ _
  have hbp : onlyParts [.regs] a b := by rw [hb]; exact setFld_onlyParts a _ _
  have hbc : b.fld fSys_CAUSE_PERST = 1 := by rw [hb]; exact State.fld_setFld_self_of_lt a _ (by decide) (by decide)
  obtain ⟨c, hc⟩ : ∃ c, c = b.modSec fun _ => { SecSt.unwrapped s.fuses with tap := s.sec.tap } := ⟨_, rfl⟩
  have hcp : onlyParts [.sec] b c := by rw [hc]; exact modSec_onlyParts b _
  have hex : exec (.perst straps) s = .next (startUp straps c) := by
    show execPerst straps s = _
    rw [execPerst, hdark, if_neg Bool.false_ne_true, hc, hb, ha]
  obtain ⟨-, -, hbias, hhtr, hkept, hr, hp⟩ := startUp_effect h c
  have hac : onlyParts [.regs, .sec] a c := (hbp.mono (by decide)).trans (hcp.mono (by decide))
  have hall : onlyParts [.regs, .sec, .t0, .out] a (startUp straps c) := (hac.mono (by decide)).trans (hp.mono (by decide))
  have hreg (r : RegId) (h1 : r ≠ rSys_STRAPS) (h2 : r ≠ rCox_TB_CTL) : (startUp straps c).reg r = b.reg r :=
    (hr r (by rintro (h | h); exact h1 h; exact h2 h)).trans (hcp.regsKept (by decide) r not_false)
  have hreg' (r : RegId) (h0 : r ≠ rSys_CAUSE) (h1 : r ≠ rSys_STRAPS) (h2 : r ≠ rCox_TB_CTL) : (startUp straps c).reg r = a.reg r :=
    (hreg r h1 h2).trans (hbr r h0)
  have hwhole (p : Part) (h1 : p ∉ resetParts) (h2 : p ∉ [Part.regs, .sec, .t0, .out]) : p.same s (startUp straps c) :=
    Part.same_trans (hpar p h1) (hall p h2)
  have hthm' : (startUp straps c).thm = { (sumCodes s).thm with waiting := none } := (hall .thm (by decide)).trans hthm
  refine ⟨_, hex, bne_iff_ne.2 ?_, fun r h0 h1 h2 h3 h4 h5 h6 => ?_, fun r hrs => ?_, ?_, bne_eq_false_iff_eq.2 ?_, by rw [hthm'], by rw [hthm']; rfl,
    (hall .loom (by decide)).trans hloom, (hall .sht (by decide)).trans hsht, (hall .drf (by decide)).trans hdrf, (hall .qps (by decide)).trans hqps,
    fun n => ?_, hbias, hhtr, fun p hp => hkept _ ?_, hwhole .anc (by decide) (by decide), hwhole .fuses (by decide) (by decide),
    hwhole .pending (by decide) (by decide), hwhole .up (by decide) (by decide)⟩
  · rw [State.fld, hreg _ (by decide) (by decide)]
    exact fun h0 => absurd (hbc.symm.trans h0) (by decide)
  · refine (hreg' r (fun e => ?_) h1 h2).trans (hreset r ?_)
    · rw [e] at h0; exact absurd h0 (by decide)
    · rintro (h | h | h | ⟨k, h⟩ | ⟨n, hn, h⟩)
      · exact absurd h (by simp [h0])
      · exact h3 h
      · exact h4 h
      · exact h5 k h
      · exact h6 n hn h
  · have haonr : aonReg r = true := by
      obtain h | ⟨h, -⟩ | ⟨h, -⟩ := hrs <;> simp [aonReg, h]
    have hnot : ¬ perstReg r := by
      rintro (h | h | h | h | h) <;> rw [h] at hrs <;> simp at hrs
    have hsys : r.blk ≠ .sys ∧ r.blk ≠ .cox := by
      obtain h | ⟨h, -⟩ | ⟨h, -⟩ := hrs <;> rw [h] <;> exact ⟨Blk.noConfusion, Blk.noConfusion⟩
    exact (hreg' r (fun e => hsys.1 (by rw [e])) (fun e => hsys.1 (by rw [e])) fun e => hsys.2 (by rw [e])).trans (haon r haonr hnot)
  · exact (hreg' _ (by decide) (by decide) (by decide)).trans hstate
  · rw [State.fld, hreg' _ (by decide) (by decide) (by decide), hhint]
    decide
  · have hl : (startUp straps c).lane n = a.lane n := State.lane_congr (hall .lanes (by decide)) n
    rw [hl]
    exact hlane n
  · rw [hcp .out (by decide), hbp .out (by decide)]
    exact hpins p (List.mem_cons_of_mem _ hp)

/-! ## FLR (R340) -/

theorem flrDrafts_effect (s : State) : let t := flrDrafts s
    t.drf = {} ∧ t.ck = [] ∧ t.loom = s.loom ∧ queuesKept s t := by
  obtain ⟨drop, hdrop⟩ : ∃ drop : Option Hdr → State → State, drop = fun h b => match h with | some h => untake h b | none => b := ⟨_, rfl⟩
  have hdq (h : Option Hdr) (b : State) : queuesKept b (drop h b) ∧ (drop h b).loom = b.loom := by
    rw [hdrop]
    cases h
    · exact ⟨.refl b, rfl⟩
    · exact ⟨untake_queuesKept _ b, (untake_moved _ b).2 .loom (by decide)⟩
  obtain ⟨a, ha⟩ : ∃ a, a = (List.range 32).foldl (fun a d => drop (a.dc d).abort (drop (a.dc d).hdr a)) s := ⟨_, rfl⟩
  have haq : queuesKept s a := by rw [ha]; exact .foldl (fun x d => (hdq _ x).1.trans (hdq _ _).1) _ s
  have hal : a.loom = s.loom := by
    rw [ha]
    exact List.foldl_keeps (fun x : State => x.loom = s.loom) (fun x d _ hx => ((hdq _ _).2.trans (hdq _ x).2).trans hx) rfl
  obtain ⟨b, hb⟩ : ∃ b, b = a.resetRegs fun r => r.blk == .drf || r.blk == .chk || r.blk == .ck := ⟨_, rfl⟩
  have hbq : queuesKept a b := by
    rw [hb]
    refine .of_moved ⟨resetRegs_onlyRegs a _, resetRegs_onlyParts a _⟩ (fun r hr => ?_) (by decide)
    simp only [Bool.or_eq_true, beq_iff_eq] at hr
    obtain (h | h) | h := hr <;> rw [h] <;> exact ⟨Blk.noConfusion, Blk.noConfusion⟩
  have hbl : b.loom = a.loom := by rw [hb]; exact resetRegs_onlyParts a _ .loom (by decide)
  have hcp : onlyParts [.drf, .ck] b { b with drf := {}, ck := [] } := by
    intro p hp
    cases p <;> simp_all [Part.same]
  have hlk := showLinkCks_moved { b with drf := {}, ck := [] }
  have hdef : flrDrafts s = showLinkCks { b with drf := {}, ck := [] } := by rw [hb, ha, hdrop]; rfl
  simp only [hdef]
  refine ⟨hlk.2 .drf (by decide), hlk.2 .ck (by decide), ?_, ((haq.trans hbq).trans (.of_parts hcp)).trans (.of_moved hlk (fun r h => ?_) (by decide))⟩
  · exact (hlk.2 .loom (by decide)).trans ((hcp .loom (by decide)).trans (hbl.trans hal))
  · rw [h]; exact ⟨Blk.noConfusion, Blk.noConfusion⟩

/-- Drafts, check values and the looms as before, and the queues too. -/
def flrKept (s t : State) : Prop := t.drf = s.drf ∧ t.ck = s.ck ∧ t.loom = s.loom ∧ queuesKept s t

/-- One shuttle in an FLR of the PF: its start is given up, and it halts where it runs. -/
def flrShuttle (a : State) (e : Nat × Shuttle) : State :=
  if e.1 < 4 then a
  else if (abortStart false e.1 a).shState e.1 = stRun then stopShuttle e.1 stHalted 3 (abortStart false e.1 a) else abortStart false e.1 a

theorem flrShuttle_kept {s a : State} (e : Nat × Shuttle) (h : flrKept s a) : flrKept s (flrShuttle a e) := by
  unfold flrShuttle
  by_cases h4 : e.1 < 4
  · rwa [if_pos h4]
  obtain ⟨hd, hc, hl, hq⟩ := h
  have hab := abortStart_moved false e.1 a
  have hb : flrKept s (abortStart false e.1 a) := ⟨(hab.2 .drf (by decide)).trans hd, (hab.2 .ck (by decide)).trans hc,
    (hab.2 .loom (by decide)).trans hl, hq.trans (abortStart_queuesKept e.1 a)⟩
  rw [if_neg h4]
  split
  · obtain ⟨hd, hc, hl, hq⟩ := hb
    have hst := stopShuttle_moved (Nat.not_lt.1 h4) stHalted 3 (abortStart false e.1 a)
    refine ⟨(hst.2 .drf (by decide)).trans hd, (hst.2 .ck (by decide)).trans hc, (hst.2 .loom (by decide)).trans hl,
      hq.trans (.of_moved hst (fun r hr => ?_) (by decide))⟩
    obtain ⟨h, -⟩ | h | h | h | h := hr <;> rw [h] <;> exact ⟨Blk.noConfusion, Blk.noConfusion⟩
  · exact hb

/-- What an FLR of the PF does to the shuttles leaves the other blocks. -/
theorem flrShuttles_kept (s : State) : flrKept s (flrShuttles s) := by
  have hdef : flrShuttles s = s.sht.sh.foldl flrShuttle s := rfl
  rw [hdef]
  exact List.foldl_keeps (flrKept s) (fun _ e _ h => flrShuttle_kept e h) ⟨rfl, rfl, rfl, .refl s⟩

/-- What an FLR of the PF leaves (R340). -/
theorem flrPf_effect (s : State) : let t := flrPf s
    t.host.vfs = 0 ∧ t.drf = {} ∧ t.ck = [] ∧ t.loom.rules = [] ∧ t.on fPwr_HINT_ACTIVE = false ∧ t.on fSplit_CTL_EN = false ∧
      (∀ g, g < 32 → t.bme g = false) ∧ ∀ q, q < 256 → t.qp q = {} ∧ t.reg (rQp_CTL q) = regReset (rQp_CTL q) := by
  obtain ⟨-, hbme, hctl, hqp⟩ := flrFunctions_effect (List.range 32) s
  obtain ⟨a, ha⟩ : ∃ a, a = (List.range 32).foldl (fun a f => flrFunction f a) s := ⟨_, rfl⟩
  rw [← ha] at hbme hctl hqp
  obtain ⟨b, hb⟩ : ∃ b, b = State.resetRegs { a with host := { a.host with vfs := 0 } } fun r => r.blk == .que && decide (0x104 ≤ r.off ∧ r.off < 0x180) :=
    ⟨_, rfl⟩
  have hbp := resetRegs_onlyParts { a with host := { a.host with vfs := 0 } } fun r => r.blk == .que && decide (0x104 ≤ r.off ∧ r.off < 0x180)
  rw [← hb] at hbp
  have hbctl (q : Nat) : b.reg (rQp_CTL q) = a.reg (rQp_CTL q) := by
    rw [hb]; exact resetRegs_onlyRegs _ _ _ (by simp)
  obtain ⟨c, hc⟩ : ∃ c, c = b.modLoom ({ · with rules := [] }) := ⟨_, rfl⟩
  have hcp : onlyParts [.loom] b c := by rw [hc]; exact modLoom_onlyParts b _
  have hcr : c.loom.rules = [] := by rw [hc]; rfl
  obtain ⟨hd1, hd2, hd3, hdq⟩ := flrDrafts_effect c
  obtain ⟨d, hd⟩ : ∃ d, d = flrDrafts c := ⟨_, rfl⟩
  rw [← hd] at hd1 hd2 hd3 hdq
  obtain ⟨he1, he2, he3, heq⟩ := flrShuttles_kept d
  obtain ⟨e, he⟩ : ∃ e, e = flrShuttles d := ⟨_, rfl⟩
  rw [← he] at he1 he2 he3 heq
  obtain ⟨f, hf⟩ : ∃ f, f = showEgress e := ⟨_, rfl⟩
  have hfp : onlyParts [.regs] e f := by rw [hf]; exact showEgress_onlyParts e
  have hfq : queuesKept e f := by rw [hf]; exact showEgress_queuesKept e
  obtain ⟨g, hg⟩ : ∃ g, g = dropHint f := ⟨_, rfl⟩
  have hgp : onlyParts [.pwr, .regs] f g := by rw [hg]; exact dropHint_onlyParts f
  have hgq : queuesKept f g := by
    rw [hg]
    exact .of_moved ⟨dropHint_onlyRegs f, dropHint_onlyParts f⟩ (fun r h => by rw [h]; exact ⟨Blk.noConfusion, Blk.noConfusion⟩) (by decide)
  have hghint : g.reg rPwr_HINT = 0#32 := by rw [hg]; exact State.reg_setReg_self f _ _
  have hlp := setFld_onlyParts g fSplit_CTL_EN 0
  have hlr := setFld_onlyReg g fSplit_CTL_EN.reg fSplit_CTL_EN.hi fSplit_CTL_EN.lo 0
  have hlq : queuesKept g (g.setFld fSplit_CTL_EN 0) :=
    .of_moved ⟨hlr, hlp⟩ (fun r h => by rw [h]; exact ⟨Blk.noConfusion, Blk.noConfusion⟩) (by decide)
  have hdef : flrPf s = g.setFld fSplit_CTL_EN 0 := by rw [hg, hf, he, hd, hc, hb, ha]; rfl
  obtain ⟨hkb, hkv, hkr, hkq⟩ := ((((queuesKept.of_parts hcp).trans hdq).trans heq).trans hfq).trans (hgq.trans hlq)
  simp only [hdef]
  refine ⟨hkv.trans (hbp .vfs (by decide)), ?_, ?_, ?_, bne_eq_false_iff_eq.2 ?_,
    bne_eq_false_iff_eq.2 (State.fld_setFld_self_of_lt g _ (by decide) (by decide)), fun k hk => ?_, fun q hq => ⟨hkq q ?_, ?_⟩⟩
  · exact (hlp .drf (by decide)).trans ((hgp .drf (by decide)).trans ((hfp .drf (by decide)).trans (he1.trans hd1)))
  · exact (hlp .ck (by decide)).trans ((hgp .ck (by decide)).trans ((hfp .ck (by decide)).trans (he2.trans hd2)))
  · rw [hlp .loom (by decide), hgp .loom (by decide), hfp .loom (by decide), he3, hd3, hcr]
  · rw [State.fld, hlr _ (by decide), hghint]
    decide
  · rw [State.bme, hkb, hbp .bme (by decide)]
    exact hbme k (.inl (List.mem_range.2 hk))
  · rw [State.qp, hbp .qps (by decide)]
    exact hqp q (.inl ⟨hq, List.mem_range.2 (ownerOf_lt s q)⟩)
  · rw [hkr _ (.inr ⟨q, rfl⟩), hbctl]
    exact hctl q (.inl ⟨hq, List.mem_range.2 (ownerOf_lt s q)⟩)

theorem flr_claim (fn : Nat) (s : State) (hs : s.awake = true) (hv : fn ≤ s.host.vfs) : ∃ t, exec (.flr fn) s = .next t ∧ t.bme fn = false ∧
    (∀ q, q < 256 → (fn = 0 ∨ s.ownerOf q = fn) → t.qp q = {} ∧ t.reg (rQp_CTL q) = regReset (rQp_CTL q)) ∧
    (fn = 0 → t.host.vfs = 0 ∧ t.drf = {} ∧ t.ck = [] ∧ t.loom.rules = [] ∧ t.on fPwr_HINT_ACTIVE = false ∧ t.on fSplit_CTL_EN = false ∧
      ∀ g, g < 32 → t.bme g = false) ∧
    (fn ≠ 0 → t.host.vfs = s.host.vfs ∧ (∀ g, g ≠ fn → t.bme g = s.bme g) ∧ ∀ q, s.ownerOf q ≠ fn → t.reg (rQp_CTL q) = s.reg (rQp_CTL q)) := by
  have hdark : s.dark = false := by
    simp only [State.awake, Bool.and_eq_true, Bool.not_eq_true'] at hs
    exact hs.1.1
  by_cases h0 : fn = 0
  · obtain ⟨hvfs, hdrf, hck, hrules, hhint, hsplit, hbme, hq⟩ := flrPf_effect s
    refine ⟨flrPf s, ?_, h0 ▸ hbme 0 (by decide), fun q hq' _ => hq q hq', fun _ => ⟨hvfs, hdrf, hck, hrules, hhint, hsplit, hbme⟩, fun h => absurd h0 h⟩
    show execFlr fn s = _
    rw [execFlr, hdark, if_neg Bool.false_ne_true, if_pos h0, hostAccess_awake _ s hs]
  · obtain ⟨hvfs, -, hbme, hctl, hqp⟩ := flrFunction_effect fn s
    refine ⟨flrFunction fn s, ?_, (hbme fn).trans (if_pos rfl), fun q hq how => ⟨hqp q (.inl ⟨hq, how.resolve_left h0⟩), ?_⟩, fun h => absurd h h0,
      fun _ => ⟨hvfs, fun g hg => (hbme g).trans (if_neg hg), fun q how => (hctl q).trans (if_neg fun h => how h.2)⟩⟩
    · show execFlr fn s = _
      rw [execFlr, hdark, if_neg Bool.false_ne_true, if_neg h0, if_pos hv, hostAccess_awake _ s hs]
    · exact (hctl q).trans (if_pos ⟨hq, how.resolve_left h0⟩)

/-! ## Bus Master Enable (R336) -/

theorem writeCompl_completed (c : Compl) (s : State) : completed c s (writeCompl c s) := by
  have hkept (o : Out) (ho : o ∈ (emitData c.data s).host.out) : o ∈ (writeCompl c s).host.out := by
    simp only [writeCompl]
    split_ifs
    · simpa using ho
    · exact out_cqRecorded _ _ _ _ (by simp [ho])
    · exact out_cqRecorded _ _ _ _ (by simp [ho])
  refine ⟨fun d hd => hkept _ (out_emitData _ _ _ (.inr ⟨d, hd, rfl⟩)), ?_⟩
  by_cases hs : c.hdr.suppress = true ∧ c.status = 0
  · exact .inl hs
  · refine .inr ?_
    simp only [writeCompl]
    rw [if_neg (by simpa using hs)]
    refine out_cqRecorded _ _ _ _ ?_
    split_ifs <;> simp [recordOf, State.pair]

theorem cqRecorded_due (p : Nat) (b : Bool) (s : State) (q : Nat) : ((cqRecorded p b s).qp q).due = (s.qp q).due := by
  have hmsix (fn vec : Nat) (a : State) : (sendMsix fn vec a).qp q = a.qp q := by
    unfold sendMsix
    split <;> rfl
  have hset (v : Qp) (hv : v.due = (s.qp p).due) : ((s.setQp p v).qp q).due = (s.qp q).due := by
    by_cases h : q = p
    · subst h; rw [State.qp_setQp_self, hv]
    · rw [State.qp_setQp_ne _ _ h]
  unfold cqRecorded
  dsimp only
  split
  · rw [hmsix]; exact hset _ rfl
  · exact hset _ rfl

theorem untake_due (h : Hdr) (s : State) (q : Nat) : ((untake h s).qp q).due = (s.qp q).due := by
  have hset (v : Qp) (hv : v.due = (s.qp h.qp).due) : ((s.setQp h.qp v).qp q).due = (s.qp q).due := by
    by_cases e : q = h.qp
    · subst e; rw [State.qp_setQp_self, hv]
    · rw [State.qp_setQp_ne _ _ e]
  unfold untake
  dsimp only
  split_ifs
  · rfl
  · exact hset _ rfl
  · exact hset _ rfl

theorem emitData_onlyParts (l : List (Nat × List Byte)) (s : State) : onlyParts [.out] s (emitData l s) :=
  .foldl (fun a _ => emit_onlyParts a _) l s

theorem emitData_qp (l : List (Nat × List Byte)) (s : State) (q : Nat) : (emitData l s).qp q = s.qp q := by
  rw [State.qp, State.qp, emitData_onlyParts l s .qps (by decide)]

theorem writeCompl_due (c : Compl) (s : State) (q : Nat) : ((writeCompl c s).qp q).due = (s.qp q).due := by
  have hun : ((untake c.hdr (emitData c.data s)).qp q).due = (s.qp q).due := by rw [untake_due, emitData_qp]
  simp only [writeCompl]
  split_ifs
  · exact hun
  · rw [cqRecorded_due]; exact hun
  · rw [cqRecorded_due]; exact hun

/-- The end of a command leaves no error on a queue pair that had none. -/
theorem untake_err (h : Hdr) {s : State} {q : Nat} (he : s.fld (fQp_STAT_ERR q) = 0) : (untake h s).fld (fQp_STAT_ERR q) = 0 := by
  unfold untake
  dsimp only
  split_ifs
  · exact he
  · by_cases hq : q = h.qp
    · subst hq
      exact State.fld_setFld_self_of_lt _ _ (by decide) (by decide)
    · simp [hq, he]
  · by_cases hq : q = h.qp
    · subst hq
      exact (State.fld_setFld_other _ _ _ _ _ _ _ (by decide) (by decide) (by decide) (by decide) (by decide)).trans he
    · simp [hq, he]

theorem writeCompl_err (c : Compl) {s : State} {q : Nat} (he : s.fld (fQp_STAT_ERR q) = 0) : (writeCompl c s).fld (fQp_STAT_ERR q) = 0 := by
  have hdata : (emitData c.data s).fld (fQp_STAT_ERR q) = s.fld (fQp_STAT_ERR q) :=
    State.fld_congr (emitData_onlyParts c.data s .regs (by decide)) _
  have hun : (untake c.hdr (emitData c.data s)).fld (fQp_STAT_ERR q) = 0 := untake_err _ (hdata.trans he)
  simp only [writeCompl]
  split_ifs <;> simp [hun]

/-- The device with function `fn` a bus master, and nothing held for it. -/
def busMastered (fn : Nat) (s : State) : State := { s with host := { s.host with bme := Tab.set s.host.bme fn true, held := [] } }

/-- The queue pairs of `fn` that run without error. -/
def running (fn : Nat) (s : State) : List Nat :=
  (List.range 256).filter fun q => s.ownerOf q == fn && s.on (fQp_CTL_EN q) && s.fld (fQp_STAT_ERR q) == 0

/-- The doorbell records and descriptors that waited for the bus are read. -/
def readsGo (fn : Nat) (s : State) : State :=
  sendAllPending fn ((running fn s).foldl (fun a q => requestDescs q a)
    (((running fn s).filter fun q => (s.qp q).due).foldl (fun a q => dueDoorbell q a) s))

/-- A host bundle and read-backs of drafts that waited for the bus are asked for. -/
def hostReadsGo (fn : Nat) (s : State) : State :=
  let a := if fn = 0 ∧ s.sec.hostBoot then s.emit (.hostRead 0 (s.pair rSec_HB_ADDR_LO rSec_HB_ADDR_HI) (s.fld fSec_HB_LEN_LEN)) else s
  if fn = 0 then draftsResume a else a

/-- What function `fn` waited for goes: the completions `mine`, the reads, and a host bundle; `rest` stays held. -/
def busBack (fn : Nat) (mine rest : List (Nat × Compl)) (s : State) : State :=
  let a := readsGo fn (mine.foldl (fun a c => writeCompl c.2 a) { s with host := { s.host with bme := Tab.set s.host.bme fn true, held := rest } })
  if fn = 0 ∧ a.sec.hostBoot then a.emit (.hostRead 0 (a.pair rSec_HB_ADDR_LO rSec_HB_ADDR_HI) (a.fld fSec_HB_LEN_LEN)) else a

theorem setBusMaster_true (fn : Nat) (s : State) : setBusMaster fn true s =
    if s.dark then s
    else if true && !s.bme fn then busBack fn (s.host.held.filter (·.1 == fn)) (s.host.held.filter (·.1 != fn)) s
    else { s with host := { s.host with bme := Tab.set s.host.bme fn true } } := rfl

theorem cfgWrite_bme (fn : Nat) (on : Bool) (s : State) :
    cfgWrite fn (.bme on) s = if fn = 0 ∧ on then draftsResume (setBusMaster fn on s) else setBusMaster fn on s := rfl

theorem exec_bmeOn {fn : Nat} {c : Compl} {s : State} (hs : s.awake = true) (hb : s.bme fn = false) (hheld : s.host.held = [(fn, c)]) :
    exec (.busMasterEnable fn (.bme true)) s = .next (hostReadsGo fn (readsGo fn (writeCompl c (busMastered fn s)))) := by
  have hdark : s.dark = false := by
    simp only [State.awake, Bool.and_eq_true, Bool.not_eq_true'] at hs
    exact hs.1.1
  have hmine : s.host.held.filter (fun x : Nat × Compl => x.1 == fn) = [(fn, c)] := by simp [hheld]
  have hrest : s.host.held.filter (fun x : Nat × Compl => x.1 != fn) = [] := by simp [hheld]
  have hback : setBusMaster fn true s = busBack fn [(fn, c)] [] s := by
    rw [setBusMaster_true, if_neg (by simp [hdark]), if_pos (by simp [hb]), hmine, hrest]
  have hgo : hostReadsGo fn (readsGo fn (writeCompl c (busMastered fn s))) =
      if fn = 0 then draftsResume (busBack fn [(fn, c)] [] s) else busBack fn [(fn, c)] [] s := rfl
  show execBusMasterEnable fn _ s = _
  rw [execBusMasterEnable, hostAccess_awake _ s hs, cfgWrite_bme, hback, hgo]
  exact congrArg _ (if_congr (and_iff_left rfl) rfl rfl)

theorem modDc_onlyParts (d : Nat) (f : DraftCh → DraftCh) (s : State) : onlyParts [.drf] s (s.modDc d f) := by
  intro p hp
  cases p <;> simp_all [Part.same, State.modDc, State.setDc]

/-- A channel's read-back that waited for the bus. -/
def resumeDraft (a : State) (d : Nat) : State :=
  match (a.dc d).ended, (a.dc d).lastHost with
  | some _, some x => if (a.dc d).rbWaits then askReadback d x a else a
  | _, _ => a

theorem resumeDraft_effect (a : State) (d : Nat) : onlyParts [.drf, .out] a (resumeDraft a d) ∧ outsKept a (resumeDraft a d) := by
  have hask (x : Nat) : onlyParts [.drf, .out] a (askReadback d x a) ∧ outsKept a (askReadback d x a) := by
    unfold askReadback
    split
    · exact ⟨((modDc_onlyParts d _ a).mono (by decide)).trans ((emit_onlyParts _ _).mono (by decide)),
        (outsKept.of_same (modDc_onlyParts d _ a .out (by decide))).trans (.emit _ _)⟩
    · exact ⟨(modDc_onlyParts d _ a).mono (by decide), .of_same (modDc_onlyParts d _ a .out (by decide))⟩
  unfold resumeDraft
  split
  · split_ifs
    · exact hask _
    · exact ⟨.refl _ a, fun _ h => h⟩
  · exact ⟨.refl _ a, fun _ h => h⟩

theorem hostReadsGo_effect (fn : Nat) (s : State) : onlyParts [.drf, .out] s (hostReadsGo fn s) ∧ outsKept s (hostReadsGo fn s) := by
  have hemit : onlyParts [.drf, .out] s (if fn = 0 ∧ s.sec.hostBoot then
        s.emit (.hostRead 0 (s.pair rSec_HB_ADDR_LO rSec_HB_ADDR_HI) (s.fld fSec_HB_LEN_LEN)) else s) ∧
      outsKept s (if fn = 0 ∧ s.sec.hostBoot then
        s.emit (.hostRead 0 (s.pair rSec_HB_ADDR_LO rSec_HB_ADDR_HI) (s.fld fSec_HB_LEN_LEN)) else s) := by
    split_ifs
    · exact ⟨(emit_onlyParts _ _).mono (by decide), .emit s _⟩
    · exact ⟨.refl _ s, fun _ h => h⟩
  have hdrafts (a : State) : draftsResume a = (List.range 32).foldl resumeDraft a := rfl
  unfold hostReadsGo
  dsimp only
  by_cases h0 : fn = 0
  · rw [if_pos h0, hdrafts]
    exact ⟨hemit.1.trans (.foldl (fun a d => (resumeDraft_effect a d).1) _ _), hemit.2.trans (.foldl (fun a d => (resumeDraft_effect a d).2) _ _)⟩
  · rw [if_neg h0]
    exact hemit

theorem dueDoorbell_outsKept (q : Nat) (s : State) : outsKept s (dueDoorbell q s) := by
  have hqp : outsKept s (s.modQp q ({ · with due := true })) := .of_same (modQp_onlyParts s q _ .out (by decide))
  unfold dueDoorbell
  dsimp only
  split_ifs
  · exact hqp.trans (.emit _ _)
  · exact hqp
  · exact fun _ h => h

theorem requestDescs_effect (q : Nat) (s : State) : onlyParts [.qps, .out] s (requestDescs q s) ∧ outsKept s (requestDescs q s) := by
  have hqp := modQp_onlyParts s q ({ · with asked := s.burst q })
  unfold requestDescs
  split_ifs
  · exact ⟨.refl _ s, fun _ h => h⟩
  · exact ⟨(hqp.mono (by decide)).trans ((emit_onlyParts _ _).mono (by decide)), (outsKept.of_same (hqp .out (by decide))).trans (.emit _ _)⟩

theorem sendMsix_moved (fn vec : Nat) (s : State) : moved (fun r => r.blk = .msix) [.regs, .out] s (sendMsix fn vec s) := by
  unfold sendMsix
  split
  · have hset : moved (fun r => r.blk = .msix) [.regs, .out] s (s.setReg (rMsix_PBA fn (vec / 32))
        (s.reg (rMsix_PBA fn (vec / 32)) ||| BitVec.ofNat 32 (2 ^ (vec % 32)))) :=
      setReg_moved (P := fun r => r.blk = .msix) _ rfl (by decide) s _
    exact hset
  · exact (emit_onlyParts _ _).moved (by decide) _ (by decide)

theorem sendPending_effect (fn vec : Nat) (s : State) :
    moved (fun r => r.blk = .msix) [.regs, .out] s (sendPending fn vec s) ∧ outsKept s (sendPending fn vec s) := by
  unfold sendPending
  dsimp only
  split
  · have hset : moved (fun r => r.blk = .msix) [.regs, .out] s (s.setReg (rMsix_PBA fn (vec / 32))
        (s.reg (rMsix_PBA fn (vec / 32)) &&& ~~~(BitVec.ofNat 32 (2 ^ (vec % 32))))) :=
      setReg_moved (P := fun r => r.blk = .msix) _ rfl (by decide) s _
    exact ⟨hset.trans (sendMsix_moved _ _ _), fun o ho => sendMsix_outsKept _ _ _ o ho⟩
  · exact ⟨.refl _ _ s, fun _ h => h⟩

/-- The reads that waited for the bus go, and with them each doorbell record that was due. -/
theorem readsGo_effect (fn : Nat) (s : State) (hb : s.bme fn = true) : let t := readsGo fn s
    (∀ q, q ∈ running fn s → (s.qp q).due = true → .hostRead fn (s.pair (rQp_DB_ADDR_LO q) (rQp_DB_ADDR_HI q)) 8 ∈ t.host.out) ∧
      outsKept s t ∧ moved (fun r => r.blk = .msix) [.qps, .regs, .out] s t := by
  obtain ⟨l, hl⟩ : ∃ l, l = (running fn s).filter fun q => (s.qp q).due := ⟨_, rfl⟩
  obtain ⟨a, ha⟩ : ∃ a, a = l.foldl (fun a q => dueDoorbell q a) s := ⟨_, rfl⟩
  have hap : onlyParts [.qps, .out] s a := by rw [ha]; exact .foldl (fun x q => dueDoorbell_onlyParts q x) _ s
  have hak : outsKept s a := by rw [ha]; exact .foldl (fun x q => dueDoorbell_outsKept q x) _ s
  obtain ⟨b, hbd⟩ : ∃ b, b = (running fn s).foldl (fun a q => requestDescs q a) a := ⟨_, rfl⟩
  have hbp : onlyParts [.qps, .out] a b := by rw [hbd]; exact .foldl (fun x q => (requestDescs_effect q x).1) _ a
  have hbk : outsKept a b := by rw [hbd]; exact .foldl (fun x q => (requestDescs_effect q x).2) _ a
  have hck : outsKept b (sendAllPending fn b) := .foldl (fun x v => (sendPending_effect fn v x).2) _ b
  have hcm : moved (fun r => r.blk = .msix) [.regs, .out] b (sendAllPending fn b) := .foldl (fun x v _ => (sendPending_effect fn v x).1) b
  have hdef : readsGo fn s = sendAllPending fn b := by rw [hbd, ha, hl]; rfl
  simp only [hdef]
  refine ⟨fun q hq hdue => hck _ (hbk _ ?_), (hak.trans hbk).trans hck,
    ((hap.trans hbp).moved (by decide) _ (by decide)).trans (hcm.mono (fun _ => id) (by decide))⟩
  obtain ⟨⟨how, hen⟩, herr⟩ : (s.ownerOf q = fn ∧ s.on (fQp_CTL_EN q) = true) ∧ s.fld (fQp_STAT_ERR q) = 0 := by
    simpa [running] using (List.mem_filter.1 hq).2
  rw [ha]
  refine mem_out_foldl_of (P := fun x : State => x.regs = s.regs ∧ x.host.bme = s.host.bme) (fun x p hx => ⟨⟨?_, ?_⟩, dueDoorbell_outsKept p x⟩)
    (fun x hx => ?_) (x := q) (by rw [hl]; exact List.mem_filter.2 ⟨hq, hdue⟩) ⟨rfl, rfl⟩
  · exact (dueDoorbell_onlyParts p x .regs (by decide)).trans hx.1
  · exact (dueDoorbell_onlyParts p x .bme (by decide)).trans hx.2
  · obtain ⟨hreg, hbme⟩ := hx
    have hr (r : RegId) : x.reg r = s.reg r := State.reg_congr hreg r
    have hxo : x.ownerOf q = fn := (State.ownerOf_congr (fun _ => hr _) q).trans how
    have hxe : x.on (fQp_CTL_EN q) = true := (State.on_congr hreg _).trans hen
    have hxr : x.fld (fQp_STAT_ERR q) = 0 := (State.fld_congr hreg _).trans herr
    rw [dueDoorbell_enabled hxe hxr (by rw [hxo, State.bme, hbme]; exact hb), hxo, State.pair, hr, hr]
    exact List.mem_cons_self

theorem bmeOn_claim (fn : Nat) (c : Compl) (s : State) (hs : s.awake = true) (hb : s.bme fn = false) (hheld : s.host.held = [(fn, c)]) :
    ∃ t, exec (.busMasterEnable fn (.bme true)) s = .next t ∧ t.bme fn = true ∧ (∀ g, g ≠ fn → t.bme g = s.bme g) ∧ completed c s t ∧ t.host.held = [] ∧
      (∀ q, q < 256 → s.ownerOf q = fn → s.on (fQp_CTL_EN q) = true → s.fld (fQp_STAT_ERR q) = 0 → (s.qp q).due = true →
        .hostRead fn (s.pair (rQp_DB_ADDR_LO q) (rQp_DB_ADDR_HI q)) 8 ∈ t.host.out) ∧
      onlyRegs complReg s t ∧ onlyParts [.bme, .held, .qps, .drf, .regs, .out] s t := by
  obtain ⟨a, ha⟩ : ∃ a, a = busMastered fn s := ⟨_, rfl⟩
  have hap : onlyParts [.bme, .held] s a := by
    rw [ha]
    intro p hp
    cases p <;> simp_all [Part.same, busMastered]
  have habme : a.host.bme = Tab.set s.host.bme fn true := by rw [ha]; rfl
  have haheld : a.host.held = [] := by rw [ha]; rfl
  have har (r : RegId) : a.reg r = s.reg r := State.reg_congr (hap .regs (by decide)) r
  have haqp (q : Nat) : a.qp q = s.qp q := by rw [State.qp, State.qp, hap .qps (by decide)]
  obtain ⟨b, hbd⟩ : ∃ b, b = writeCompl c a := ⟨_, rfl⟩
  have hbp : onlyParts [.qps, .regs, .out] a b := by rw [hbd]; exact writeCompl_onlyParts c a
  have hbr : onlyRegs complReg a b := by rw [hbd]; exact writeCompl_onlyRegs c a
  have hbc : completed c a b := by rw [hbd]; exact writeCompl_completed c a
  have hbme : b.host.bme = Tab.set s.host.bme fn true := (hbp .bme (by decide)).trans habme
  have hbfn : b.bme fn = true := by rw [State.bme, hbme, Tab.get_set, if_pos rfl]
  obtain ⟨hreads, hck, hcm⟩ := readsGo_effect fn b hbfn
  obtain ⟨hdp, hdk⟩ := hostReadsGo_effect fn (readsGo fn b)
  have hex := exec_bmeOn hs hb hheld
  rw [← ha, ← hbd] at hex
  have htbme : (hostReadsGo fn (readsGo fn b)).host.bme = Tab.set s.host.bme fn true :=
    (hdp .bme (by decide)).trans ((hcm.2 .bme (by decide)).trans hbme)
  refine ⟨_, hex, ?_, fun g hg => ?_, ?_, ?_, fun q hq how hen herr hdue => hdk _ ?_, ?_, ?_⟩
  · rw [State.bme, htbme, Tab.get_set, if_pos rfl]
  · rw [State.bme, htbme, Tab.get_set, if_neg (Ne.symm hg)]; rfl
  · exact completed_mono (completed_congr hbc fun _ => har _) fun o ho => hdk o (hck o ho)
  · exact (hdp .held (by decide)).trans ((hcm.2 .held (by decide)).trans ((hbp .held (by decide)).trans haheld))
  · have hpair : b.pair (rQp_DB_ADDR_LO q) (rQp_DB_ADDR_HI q) = s.pair (rQp_DB_ADDR_LO q) (rQp_DB_ADDR_HI q) := by
      have hreg (i : Nat) (h4 : i ≠ 4) (h28 : i ≠ 0x28) : b.reg ⟨.qp, q, i⟩ = s.reg ⟨.qp, q, i⟩ := by
        rw [hbd, writeCompl_qpReg c a q h4 h28, har]
      rw [State.pair, State.pair, hreg _ (by decide) (by decide), hreg _ (by decide) (by decide)]
    have hmem : q ∈ running fn b := by
      have hbo : b.ownerOf q = fn := (State.ownerOf_congr (fun i => (hbr _ (by simp [complReg])).trans (har _)) q).trans how
      have hbe : b.on (fQp_CTL_EN q) = true := by
        rw [← hen, State.on, State.on, State.fld, State.fld, hbd, writeCompl_qpReg c a q (by decide) (by decide), har]
      have hberr : b.fld (fQp_STAT_ERR q) = 0 := by
        rw [hbd]
        exact writeCompl_err c ((congrArg (fun w => bits w _ _) (har _)).trans herr)
      exact List.mem_filter.2 ⟨List.mem_range.2 hq, by simp [hbo, hbe, hberr]⟩
    rw [← hpair]
    exact hreads q hmem (by rw [hbd, writeCompl_due, haqp]; exact hdue)
  · exact ((hap.onlyRegs_of_regs (by decide) _).trans hbr).trans
      ((hcm.1.mono fun _ h => .inr h).trans (hdp.onlyRegs_of_regs (by decide) _))
  · exact ((hap.mono (by decide)).trans (hbp.mono (by decide))).trans ((hcm.2.mono (by decide)).trans (hdp.mono (by decide)))

theorem bmeOff_claim (fn : Nat) (s : State) (hs : s.awake = true) : ∃ t, exec (.busMasterEnable fn (.bme false)) s = .next t ∧ t.bme fn = false ∧
    (∀ g, g ≠ fn → t.bme g = s.bme g) ∧ onlyParts [.bme] s t := by
  have hdark : s.dark = false := by
    simp only [State.awake, Bool.and_eq_true, Bool.not_eq_true'] at hs
    exact hs.1.1
  obtain ⟨a, ha⟩ : ∃ a : State, a = { s with host := { s.host with bme := Tab.set s.host.bme fn false } } := ⟨_, rfl⟩
  have habme : a.host.bme = Tab.set s.host.bme fn false := by rw [ha]
  refine ⟨a, ?_, ?_, fun g hg => ?_, ?_⟩
  · show execBusMasterEnable fn _ s = _
    rw [execBusMasterEnable, hostAccess_awake _ s hs]
    have hoff : setBusMaster fn false s = a := by
      unfold setBusMaster
      dsimp only
      rw [if_neg (by simp [hdark]), if_neg (by simp), ha]
    rw [cfgWrite_bme, hoff, if_neg fun h => Bool.false_ne_true h.2]
  · rw [State.bme, habme, Tab.get_set, if_pos rfl]
  · rw [State.bme, habme, Tab.get_set, if_neg (Ne.symm hg)]; rfl
  · rw [ha]
    intro p hp
    cases p <;> simp_all [Part.same]

/-! ## The PF's configuration (R333, DESIGN CHOICE, log entry 131) -/

theorem exec_cfgWrite (fn : Nat) (w : CfgSet) {s : State} (hs : s.awake = true) : exec (.busMasterEnable fn w) s = .next (cfgWrite fn w s) := by
  show execBusMasterEnable fn w s = _
  rw [execBusMasterEnable, hostAccess_awake _ s hs]

theorem perst_dark (straps : Nat) (s : State) (h : s.dark = true) : exec (.perst straps) s = .next (s.setFld fSys_CAUSE_PERST 1) := by
  show execPerst straps s = _
  rw [execPerst, if_pos h]

/-- Settles O50: by what a reset leaves and its end sets, by the queues that a function's reset clears, and by what waited for the bus. -/
theorem resetsReachTheirBlocks : Obligations.ResetsReachTheirBlocks := by
  unfold Obligations.ResetsReachTheirBlocks
  exact ⟨por_claim, perst_claim, perst_dark, fun fn s hs hv _ => flr_claim fn s hs hv, fun fn c s hs hb hheld _ => bmeOn_claim fn c s hs hb hheld,
    bmeOff_claim, fun _ _ _ _ _ _ hs => ⟨exec_cfgWrite 0 _ hs, exec_cfgWrite 0 _ hs, exec_cfgWrite 0 _ hs, exec_cfgWrite 0 _ hs,
      exec_cfgWrite 0 _ hs, exec_cfgWrite 0 _ hs⟩⟩

end Sys2Proof.Machine

end

section
/-! SUPPORT. The draft engine's channels: their state, and what the end of a draft leaves (R393, R398, R401). -/

-- The checked text is one long file: elaborating these in order bounds its threads and memory.
set_option Elab.async false

namespace Sys2Proof.Machine

/-! ## Channels -/

theorem setDc_onlyParts (s : State) (d : Nat) (c : DraftCh) : onlyParts [.drf] s (s.setDc d c) := by
  intro p hp
  cases p <;> simp_all [Part.same, State.setDc]

theorem State.dc_congr {s t : State} (h : t.drf = s.drf) (d : Nat) : t.dc d = s.dc d := by
  rw [State.dc, h, State.dc]

theorem State.dc_setDc (s : State) (d e : Nat) (c : DraftCh) : (s.setDc d c).dc e = if d = e then c else s.dc e := Tab.get_set _ _ _ _ _

theorem State.dc_setDc_self (s : State) (d : Nat) (c : DraftCh) : (s.setDc d c).dc d = c := by rw [State.dc_setDc, if_pos rfl]

theorem State.dc_setDc_ne (s : State) {d e : Nat} (c : DraftCh) (h : e ≠ d) : (s.setDc d c).dc e = s.dc e := by
  rw [State.dc_setDc, if_neg h.symm]

/-- A field of a channel's DC_STAT after another of its fields is set. -/
theorem fld_dcStat_other (s : State) (d hi lo hi' lo' v : Nat) (h : fieldOk hi lo) (h' : fieldOk hi' lo') (hd : hi < lo' ∨ hi' < lo) :
    (s.setFld ⟨rDrf_DC_STAT d, hi, lo⟩ v).fld ⟨rDrf_DC_STAT d, hi', lo'⟩ = s.fld ⟨rDrf_DC_STAT d, hi', lo'⟩ :=
  State.fld_setFld_other _ _ _ _ _ _ _ h.1 h.2 h'.1 h'.2 (by omega)

theorem dcStat_ne {d e : Nat} (h : e ≠ d) : rDrf_DC_STAT e ≠ rDrf_DC_STAT d := by
  simp only [ne_eq, RegId.mk.injEq, true_and]
  omega

theorem dcStat_ne_stat (d : Nat) : rDrf_DC_STAT d ≠ rDrf_STAT := by
  simp only [ne_eq, RegId.mk.injEq, true_and]
  omega

/-- What a channel's change of state leaves. -/
theorem setDcState_effect (d : Nat) {v : Nat} (hv : v < 4) (s : State) : let t := setDcState d v s
    t.fld (fDrf_DC_STAT_STATE d) = v ∧ (∀ hi lo, fieldOk hi lo → hi < 30 → t.fld ⟨rDrf_DC_STAT d, hi, lo⟩ = s.fld ⟨rDrf_DC_STAT d, hi, lo⟩) ∧
      moved (fun r => r = rDrf_DC_STAT d ∨ r = rDrf_STAT) [.regs] s t := by
  obtain ⟨a, ha⟩ : ∃ a, a = s.setFld (fDrf_DC_STAT_STATE d) v := ⟨_, rfl⟩
  have hdef : setDcState d v s = a.setFld fDrf_STAT_RUNNING ((List.range 32).filter a.dcRuns).length := by rw [ha]; rfl
  have hshow (hi lo : Nat) : (a.setFld fDrf_STAT_RUNNING ((List.range 32).filter a.dcRuns).length).fld ⟨rDrf_DC_STAT d, hi, lo⟩ =
      a.fld ⟨rDrf_DC_STAT d, hi, lo⟩ := (setFld_onlyReg a _ _ _ _).fld (dcStat_ne_stat d)
  have hset (b : State) (f : FldId) (hf : f.reg = rDrf_DC_STAT d ∨ f.reg = rDrf_STAT) (n : Nat) :
      moved (fun r => r = rDrf_DC_STAT d ∨ r = rDrf_STAT) [.regs] b (b.setFld f n) := setFld_moved f hf (by decide) b n
  simp only [hdef]
  refine ⟨?_, fun hi lo h hlt => ?_, ?_⟩
  · rw [hshow, ha]
    exact State.fld_setFld_self_of_lt s _ (by decide) hv
  · rw [hshow, ha]
    exact fld_dcStat_other s d _ _ _ _ v (by decide) h (.inr hlt)
  · exact ha ▸ (hset s (fDrf_DC_STAT_STATE d) (.inl rfl) v).trans (hset _ fDrf_STAT_RUNNING (.inr rfl) _)

theorem dcNext_effect (d : Nat) (s : State) : let t := dcNext d s
    t.dcPc d = (s.dcPc d + 1) % 4096 ∧ (∀ hi lo, fieldOk hi lo → 11 < lo → t.fld ⟨rDrf_DC_STAT d, hi, lo⟩ = s.fld ⟨rDrf_DC_STAT d, hi, lo⟩) ∧
      moved (fun r => r = rDrf_DC_STAT d) [.regs] s t := by
  have hset : moved (fun r => r = rDrf_DC_STAT d) [.regs] s (s.setFld (fDrf_DC_STAT_PC d) (s.dcPc d + 1)) :=
    setFld_moved (P := fun r => r = rDrf_DC_STAT d) (fDrf_DC_STAT_PC d) rfl (by decide) s _
  exact ⟨State.fld_setFld_self s _ _ _ _ (by decide) (by decide), fun hi lo h hlt => fld_dcStat_other s d _ _ _ _ _ (by decide) h (.inl hlt), hset⟩

/-! ## The check-value channel of a draft -/

/-- The channel that snoops a draft depends on the CK registers. -/
theorem snooper_congr {s t : State} (h : ∀ n, t.reg (rCk_CTL n) = s.reg (rCk_CTL n)) (d : Nat) : t.snooper d = s.snooper d := by
  have hp : (fun n => t.on (fCk_CTL_EN n) && t.fld (fCk_CTL_SRC n) == 1 && t.fld (fCk_CTL_DC n) == d) =
      fun n => s.on (fCk_CTL_EN n) && s.fld (fCk_CTL_SRC n) == 1 && s.fld (fCk_CTL_DC n) == d := by
    funext n
    simp only [State.on, State.fld, h n]
  rw [State.snooper, hp, State.snooper]

/-- A draft's record depends on its check-value channel. -/
theorem draftRecord_congr {s t : State} (hck : t.ck = s.ck) (h : ∀ n, t.reg (rCk_CTL n) = s.reg (rCk_CTL n)) (d : Nat) (e : DraftEnd)
    (pc depth bytes : Nat) (cnts : List Nat) : draftRecord d e pc depth bytes cnts t = draftRecord d e pc depth bytes cnts s := by
  have hv : t.ckValue = s.ckValue := by
    funext n
    rw [State.ckValue, State.ckCh_congr hck (h n), State.ckPoly, State.fld, h n]
    rfl
  rw [draftRecord, hv, snooper_congr h, draftRecord]

/-! ## The end of a draft (R398, R401) -/

/-- The registers in which the end of a draft on channel `d` shows, its completion aside. -/
def draftReg (d : Nat) (r : RegId) : Prop := r = rDrf_DC_STAT d ∨ r = rDrf_STAT ∨ r.blk = .ck

theorem draftReg_noQueue {d : Nat} (r : RegId) (h : draftReg d r) : r.blk ≠ .qp ∧ r.blk ≠ .que := by
  obtain h | h | h := h <;> rw [h] <;> exact ⟨Blk.noConfusion, Blk.noConfusion⟩

/-- The check value of a draft that ends is taken. -/
def snoopTaken (d : Nat) (s : State) : State :=
  match s.snooper d with
  | some n => ckResult n s
  | none => s

/-- The channel of a draft that has ended is free. -/
def draftFreed (d : Nat) (s : State) : State := (setDcState d 0 ((snoopTaken d s).setDc d {})).setFld (fDrf_DC_STAT_DEPTH d) 0

/-- The record of the draft on channel `d`, that ends with `e`. -/
def endRecord (d : Nat) (e : DraftEnd) (s : State) : List Byte :=
  draftRecord d e (s.dcPc d) (s.dc d).stack.length (s.dc d).bytes ((s.dc d).stack.reverse.map (·.cnt)) s

/-- A draft's own command completes. -/
def draftAnswered (h : Option Hdr) (e : DraftEnd) (record : List Byte) (s : State) : State :=
  match h with
  | some h => completeRec { h with irq := h.irq || e.status != eOk } e.status record s
  | none => s

/-- The abort of a draft that has ended completes (R402). -/
def abortAnswered (h : Option Hdr) (s : State) : State :=
  match h with
  | some h => complete h eOk [] s
  | none => s

theorem finishDraft_eq (d : Nat) (e : DraftEnd) (s : State) :
    finishDraft d e s = abortAnswered (s.dc d).abort (draftAnswered (s.dc d).hdr e (endRecord d e s) (draftFreed d s)) := rfl

theorem snoopTaken_moved (d : Nat) (s : State) : moved (fun r => r.blk = .ck) [.regs] s (snoopTaken d s) := by
  unfold snoopTaken
  split
  · next n _ => exact ⟨(ckResult_onlyRegs n s).mono fun r h => by obtain h | h := h <;> rw [h], ckResult_onlyParts n s⟩
  · exact .refl _ _ s

theorem draftFreed_effect (d : Nat) (s : State) : let t := draftFreed d s
    t.dc d = {} ∧ (∀ e, e ≠ d → t.dc e = s.dc e) ∧ t.fld (fDrf_DC_STAT_STATE d) = 0 ∧ moved (draftReg d) [.drf, .regs] s t := by
  obtain ⟨a, ha⟩ : ∃ a, a = (snoopTaken d s).setDc d {} := ⟨_, rfl⟩
  have hsnoop := snoopTaken_moved d s
  have hadc (e : Nat) : a.dc e = if d = e then {} else s.dc e := by
    rw [ha, State.dc_setDc, State.dc_congr (hsnoop.2 .drf (by decide))]
  have hsa : moved (draftReg d) [.drf, .regs] s a := by
    rw [ha]
    exact (hsnoop.mono (fun r h => .inr (.inr h)) (by decide)).trans ((setDc_onlyParts _ d {}).moved (by decide) _ (by decide))
  obtain ⟨hstate, -, hm⟩ := setDcState_effect d (v := 0) (by decide) a
  have hdepth (b : State) : moved (draftReg d) [.drf, .regs] b (b.setFld (fDrf_DC_STAT_DEPTH d) 0) :=
    setFld_moved (P := draftReg d) (fDrf_DC_STAT_DEPTH d) (.inl rfl) (by decide) b 0
  have hall : moved (draftReg d) [.drf, .regs] a (draftFreed d s) := by
    have hdef : draftFreed d s = (setDcState d 0 a).setFld (fDrf_DC_STAT_DEPTH d) 0 := by rw [ha]; rfl
    rw [hdef]
    exact (hm.mono (fun r h => h.imp_right .inl) (by decide)).trans (hdepth _)
  have hdrf : (draftFreed d s).drf = a.drf := by
    have hdef : draftFreed d s = (setDcState d 0 a).setFld (fDrf_DC_STAT_DEPTH d) 0 := by rw [ha]; rfl
    rw [hdef]
    exact (setFld_onlyParts _ _ _ .drf (by decide)).trans (hm.2 .drf (by decide))
  refine ⟨?_, fun e he => ?_, ?_, hsa.trans hall⟩
  · rw [State.dc_congr hdrf, hadc, if_pos rfl]
  · rw [State.dc_congr hdrf, hadc, if_neg he.symm]
  · have hdef : draftFreed d s = (setDcState d 0 a).setFld (fDrf_DC_STAT_DEPTH d) 0 := by rw [ha]; rfl
    rw [hdef]
    exact (fld_dcStat_other _ d _ _ _ _ 0 (by decide) (by decide) (.inl (by decide))).trans hstate

theorem postCompl_outsKept (c : Compl) (s : State) : outsKept s (postCompl c s) := by
  unfold postCompl
  dsimp only
  split_ifs
  · exact fun _ h => h
  · exact fun _ h => writeCompl_out c h
  · exact .of_same rfl

theorem postCompl_onlyRegs (c : Compl) (s : State) : onlyRegs complReg s (postCompl c s) := by
  unfold postCompl
  dsimp only
  split_ifs
  · exact .refl _ s
  · exact writeCompl_onlyRegs c s
  · exact fun _ _ => rfl

theorem draftAnswered_moved (h : Option Hdr) (e : DraftEnd) (record : List Byte) (s : State) :
    moved complReg [.qps, .held, .regs, .out] s (draftAnswered h e record s) ∧ outsKept s (draftAnswered h e record s) := by
  cases h
  · exact ⟨.refl _ _ s, fun _ h => h⟩
  · exact ⟨⟨postCompl_onlyRegs _ s, postCompl_anyParts _ s⟩, postCompl_outsKept _ s⟩

theorem abortAnswered_moved (h : Option Hdr) (s : State) :
    moved complReg [.qps, .held, .regs, .out] s (abortAnswered h s) ∧ outsKept s (abortAnswered h s) := by
  cases h
  · exact ⟨.refl _ _ s, fun _ h => h⟩
  · exact ⟨⟨postCompl_onlyRegs _ s, postCompl_anyParts _ s⟩, postCompl_outsKept _ s⟩

/-- What the end of a draft leaves, whoever asked for it. -/
theorem finishDraft_effect (d : Nat) (e : DraftEnd) (s : State) : let t := finishDraft d e s
    t.dc d = {} ∧ (∀ f, f ≠ d → t.dc f = s.dc f) ∧ t.fld (fDrf_DC_STAT_STATE d) = 0 ∧
      moved (fun r => draftReg d r ∨ complReg r) [.drf, .qps, .held, .regs, .out] s t ∧ outsKept s t := by
  obtain ⟨hself, hother, hstate, hm⟩ := draftFreed_effect d s
  obtain ⟨hans, hansk⟩ := draftAnswered_moved (s.dc d).hdr e (endRecord d e s) (draftFreed d s)
  obtain ⟨hab, habk⟩ := abortAnswered_moved (s.dc d).abort (draftAnswered (s.dc d).hdr e (endRecord d e s) (draftFreed d s))
  have hlast := hans.trans hab
  have hdrf := hlast.2 .drf (by decide)
  simp only [finishDraft_eq]
  refine ⟨(State.dc_congr hdrf d).trans hself, fun f hf => (State.dc_congr hdrf f).trans (hother f hf), (hlast.1.fld ?_).trans hstate,
    (hm.mono (fun _ => .inl) (by decide)).trans (hlast.mono (fun _ => .inr) (by decide)),
    (outsKept.of_same (hm.2 .out (by decide))).trans (hansk.trans habk)⟩
  simp [complReg]

/-- The end of a draft whose command's function may master the bus completes the command. -/
theorem draftAnswered_completes {d : Nat} {e : DraftEnd} {s : State} {h : Hdr} (record : List Byte) (hq : h.qp < 256)
    (hb : s.bme (s.ownerOf h.qp) = true) : let t := draftAnswered (some h) e record (draftFreed d s)
    completed (answerRec { h with irq := h.irq || e.status != eOk } e.status record) s t ∧
      moved (fun r => draftReg d r ∨ complReg r) [.drf, .qps, .regs, .out] s t ∧ t.dc d = {} ∧ (∀ f, f ≠ d → t.dc f = s.dc f) ∧
      t.fld (fDrf_DC_STAT_STATE d) = 0 := by
  obtain ⟨hself, hother, hstate, hm⟩ := draftFreed_effect d s
  obtain ⟨hc, hr, hp⟩ := postCompl_after (c := answerRec { h with irq := h.irq || e.status != eOk } e.status record) hq hb hm.1 draftReg_noQueue
    (hm.2 .bme (by decide))
  have hdrf := hp .drf (by decide)
  refine ⟨hc, (hm.mono (fun _ => .inl) (by decide)).trans ⟨hr.mono fun _ => .inr, hp.mono (by decide)⟩, (State.dc_congr hdrf d).trans hself,
    fun f hf => (State.dc_congr hdrf f).trans (hother f hf), (hr.fld ?_).trans hstate⟩
  simp [complReg]

/-- A draft ends with `e`, with no abort that waits for it. -/
theorem finishDraft_completes {d : Nat} {e : DraftEnd} {s : State} {h : Hdr} (hh : (s.dc d).hdr = some h) (ha : (s.dc d).abort = none)
    (hq : h.qp < 256) (hb : s.bme (s.ownerOf h.qp) = true) : let t := finishDraft d e s
    t.dc d = {} ∧ t.fld (fDrf_DC_STAT_STATE d) = 0 ∧
      completed (answerRec { h with irq := h.irq || e.status != eOk } e.status (endRecord d e s)) s t ∧ (∀ f, f ≠ d → t.dc f = s.dc f) ∧
      onlyRegs (fun r => r = rDrf_DC_STAT d ∨ r = rDrf_STAT ∨ r.blk = .ck ∨ complReg r) s t ∧ onlyParts [.drf, .qps, .regs, .out] s t := by
  obtain ⟨hc, hm, hself, hother, hstate⟩ := draftAnswered_completes (d := d) (e := e) (endRecord d e s) hq hb
  have hdef : finishDraft d e s = draftAnswered (some h) e (endRecord d e s) (draftFreed d s) := by rw [finishDraft_eq, hh, ha]; rfl
  simp only [hdef]
  refine ⟨hself, hstate, hc, hother, hm.1.mono fun r hr => ?_, hm.2⟩
  obtain (h | h | h) | h := hr
  · exact .inl h
  · exact .inr (.inl h)
  · exact .inr (.inr (.inl h))
  · exact .inr (.inr (.inr h))

theorem endDraft_noHost {d : Nat} {s : State} (h : (s.dc d).lastHost = none) (st fl res unw : Nat) (rb : Bool) :
    endDraft d st fl res unw rb s = finishDraft d ⟨st, fl, res, unw, s.tb⟩ s := by
  rw [endDraft, h]

theorem endDraft_noReadback (d st fl res unw : Nat) (s : State) :
    endDraft d st fl res unw false s = finishDraft d ⟨st, fl, res, unw, s.tb⟩ s := by
  unfold endDraft
  dsimp only
  split
  · exact if_neg Bool.false_ne_true
  · rfl

end Sys2Proof.Machine

end

section
/-! PROOFS. DRAFT_RUN, DRAFT_ABORT and the draft engine's resets (R391, R392, R401, R402, R404): what settles O38. -/

-- The checked text is one long file: elaborating these in order bounds its threads and memory.
set_option Elab.async false

namespace Sys2Proof.Machine

/-! ## DRAFT_RUN -/

/-- The checks of DRAFT_RUN that stand before those of its program all pass. -/
theorem draftRun_checks {chan pri len : Nat} {b : List Byte} {s : State} (hc : chan < 32) (hp : pri ≤ 3) (h16 : 16 ≤ len) (hmax : len ≤ 65536)
    (hmod : len % 16 = 0) (hst : s.fld (fDrf_DC_STAT_STATE chan) = 0) (hstop : s.on fDrf_STAT_STOPPED = false) (hlen : len ≤ b.length) :
    firstFail [(decide (3 < pri ∨ len < 16 ∨ 65536 < len) || len % 16 != 0 || decide (31 < chan), eRange),
      (s.fld (fDrf_DC_STAT_STATE chan) != 0, eBusy), (s.on fDrf_STAT_STOPPED, eState), (decide (((some b).getD []).length < len), eBus)] = none := by
  have h1 : (decide (3 < pri ∨ len < 16 ∨ 65536 < len) || len % 16 != 0 || decide (31 < chan)) = false := by
    simp only [Bool.or_eq_false_iff, decide_eq_false_iff_not, bne_eq_false_iff_eq]
    omega
  have h2 : decide (((some b).getD []).length < len) = false := by simpa using hlen
  simp only [firstFail, h1, h2, hst, hstop, bne_self_eq_false, Bool.false_eq_true, if_false]

/-- A channel with its program loaded, not yet running. -/
def draftLoaded (h : Hdr) (chan pri : Nat) (p : List (List Byte)) (s : State) : State :=
  ((s.setDc chan { hdr := some h, prog := p }).setReg (rDrf_DC_STAT chan) 0).setFld (fDrf_DC_STAT_PRI chan) pri

/-- The check-value channel that snoops a draft starts again. -/
def snoopRestarted (d : Nat) (s : State) : State :=
  match s.snooper d with
  | some n => ckRestart n s
  | none => s

theorem snoopRestarted_onlyParts (d : Nat) (s : State) : onlyParts [.ck] s (snoopRestarted d s) := by
  unfold snoopRestarted
  split
  · exact ckRestart_onlyParts _ s
  · exact .refl _ s

theorem exec_draftRun {h : Hdr} {chan pri len : Nat} {b : List Byte} {s : State} (ht : s.takesPf (.draftRun h chan pri len (some b)) = true)
    (htest : s.testing 37 = false) (hc : chan < 32) (hp : pri ≤ 3) (h16 : 16 ≤ len) (hmax : len ≤ 65536) (hmod : len % 16 = 0)
    (hst : s.fld (fDrf_DC_STAT_STATE chan) = 0) (hstop : s.on fDrf_STAT_STOPPED = false) (hlen : len ≤ b.length) :
    exec (.draftRun h chan pri len (some b)) s = .next (
      match progStatus (progSlots len b) with
      | some st => completeRec { h with irq := true } st (draftRecord chan ⟨st, 0, 0, 0, (s.begun h.qp).tb⟩ 0 0 0 [] (s.begun h.qp)) (s.begun h.qp)
      | none => setDcState chan 1 (snoopRestarted chan (draftLoaded h chan pri (progSlots len b) (s.begun h.qp)))) := by
  obtain ⟨hd, hr, hbeg, -, -, ho⟩ := State.takesPf_elim (h := h) rfl ht
  show execDraftRun h chan pri len (some b) s = _
  rw [execDraftRun, command_begins _ _ _ _ _ hd hbeg
    ((firstFail_gate (fun _ => ho) hr (by simpa using htest) _).trans (draftRun_checks hc hp h16 hmax hmod hst hstop hlen))] <;> rfl

theorem draftRun_runs {h : Hdr} {chan pri len : Nat} {b : List Byte} {s : State} (ht : s.takesPf (.draftRun h chan pri len (some b)) = true)
    (htest : s.testing 37 = false) (hc : chan < 32) (hp : pri ≤ 3) (h16 : 16 ≤ len) (hmax : len ≤ 65536) (hmod : len % 16 = 0)
    (hst : s.fld (fDrf_DC_STAT_STATE chan) = 0) (hstop : s.on fDrf_STAT_STOPPED = false) (hlen : len ≤ b.length)
    (hok : progStatus (progSlots len b) = none) :
    ∃ t, exec (.draftRun h chan pri len (some b)) s = .next t ∧ t.dc chan = { hdr := some h, prog := progSlots len b } ∧
      t.fld (fDrf_DC_STAT_STATE chan) = 1 ∧ t.dcPc chan = 0 ∧ t.fld (fDrf_DC_STAT_PRI chan) = pri ∧
      (∀ n, s.snooper chan = some n → t.ckCh n = ⟨(s.ckPoly n).init, 0⟩) ∧ (∀ n, s.snooper chan ≠ some n → t.ckCh n = s.ckCh n) ∧
      (∀ d, d ≠ chan → t.dc d = s.dc d) ∧ onlyRegs (fun r => r = rDrf_DC_STAT chan ∨ r = rDrf_STAT) s t ∧
      onlyParts [.drf, .ck, .qps, .regs] s t := by
  obtain ⟨p, hpd⟩ : ∃ p, p = progSlots len b := ⟨_, rfl⟩
  obtain ⟨u, hu⟩ : ∃ u, u = s.begun h.qp := ⟨_, rfl⟩
  have hup : onlyParts [.qps] s u := by rw [hu]; exact begun_onlyParts s h.qp
  have hur (r : RegId) : u.reg r = s.reg r := State.reg_congr (hup .regs (by decide)) r
  obtain ⟨a, ha⟩ : ∃ a, a = draftLoaded h chan pri p u := ⟨_, rfl⟩
  have hadrf : a.drf = (u.setDc chan { hdr := some h, prog := p }).drf := by
    rw [ha]
    exact (setFld_onlyParts _ _ _ .drf (by decide)).trans (setReg_onlyParts _ _ _ .drf (by decide))
  have hadc (d : Nat) : a.dc d = if chan = d then { hdr := some h, prog := p } else s.dc d := by
    rw [State.dc_congr hadrf, State.dc_setDc, State.dc_congr (hup .drf (by decide))]
  have hapri : a.fld (fDrf_DC_STAT_PRI chan) = pri := by
    rw [ha]; exact State.fld_setFld_self_of_lt _ _ (by decide) (by omega)
  have hapc : a.fld (fDrf_DC_STAT_PC chan) = 0 := by
    rw [ha]
    refine (fld_dcStat_other _ chan _ _ _ _ pri (by decide) (by decide) (.inr (by decide))).trans ?_
    rw [State.fld, State.reg_setReg_self]
    exact (by decide : bits 0 11 0 = 0)
  have ham : moved (fun r => r = rDrf_DC_STAT chan) [.drf, .regs] u a := by
    have hset : moved (fun r => r = rDrf_DC_STAT chan) [.drf, .regs] (u.setDc chan { hdr := some h, prog := p })
        ((u.setDc chan { hdr := some h, prog := p }).setReg (rDrf_DC_STAT chan) 0) :=
      setReg_moved (P := fun r => r = rDrf_DC_STAT chan) _ rfl (by decide) _ _
    rw [ha]
    exact (((setDc_onlyParts u chan _).moved (by decide) _ (by decide)).trans hset).trans
      (setFld_moved (P := fun r => r = rDrf_DC_STAT chan) _ rfl (by decide) _ _)
  obtain ⟨v, hv⟩ : ∃ v, v = snoopRestarted chan a := ⟨_, rfl⟩
  have hvp : onlyParts [.ck] a v := by rw [hv]; exact snoopRestarted_onlyParts chan a
  have hvr (r : RegId) : v.reg r = a.reg r := State.reg_congr (hvp .regs (by decide)) r
  have hackreg (n : Nat) : a.reg (rCk_CTL n) = s.reg (rCk_CTL n) := (ham.1 _ (by simp)).trans (hur _)
  have hsnoop : a.snooper chan = s.snooper chan := snooper_congr hackreg chan
  have hackch (n : Nat) : a.ckCh n = s.ckCh n := State.ckCh_congr ((ham.2 .ck (by decide)).trans (hup .ck (by decide))) (hackreg n)
  have hapoly (n : Nat) : a.ckPoly n = s.ckPoly n := State.ckPoly_of_poly (State.fld_congr_reg (f := fCk_CTL_POLY n) (hackreg n))
  obtain ⟨hstate, hfld, hm⟩ := setDcState_effect chan (v := 1) (by decide) v
  have htck (n : Nat) : (setDcState chan 1 v).ckCh n = v.ckCh n :=
    State.ckCh_congr (hm.2 .ck (by decide)) (hm.1 _ (by simp))
  have hdrf : (setDcState chan 1 v).drf = a.drf := (hm.2 .drf (by decide)).trans (hvp .drf (by decide))
  have hf (hi lo : Nat) (hok : fieldOk hi lo) (hlt : hi < 30) :
      (setDcState chan 1 v).fld ⟨rDrf_DC_STAT chan, hi, lo⟩ = a.fld ⟨rDrf_DC_STAT chan, hi, lo⟩ :=
    (hfld hi lo hok hlt).trans (congrArg (fun w => bits w hi lo) (hvr _))
  refine ⟨setDcState chan 1 v, ?_, ?_, hstate, (hf _ _ (by decide) (by decide)).trans hapc, (hf _ _ (by decide) (by decide)).trans hapri,
    fun n hn => ?_, fun n hn => ?_, fun d hd => ?_, ?_, ?_⟩
  · rw [exec_draftRun ht htest hc hp h16 hmax hmod hst hstop hlen, hok, hv, ha, hpd, hu]
  · rw [State.dc_congr hdrf, hadc, if_pos rfl, hpd]
  · have hvn : v = ckRestart n a := by rw [hv, snoopRestarted, hsnoop, hn]
    rw [htck, hvn, ckCh_ckRestart_self, hapoly]
  · rw [htck, ← hackch n, hv, snoopRestarted, hsnoop]
    cases hsn : s.snooper chan with
    | none => rfl
    | some m => exact ckCh_ckRestart_ne (fun hmn => hn (by rw [hsn, hmn])) a
  · rw [State.dc_congr hdrf, hadc, if_neg hd.symm]
  · exact ((hup.onlyRegs_of_regs (by decide) _).trans (ham.1.mono fun _ => .inl)).trans ((hvp.onlyRegs_of_regs (by decide) _).trans hm.1)
  · exact ((hup.mono (by decide)).trans (ham.2.mono (by decide))).trans ((hvp.mono (by decide)).trans (hm.2.mono (by decide)))

theorem draftRun_refused {h : Hdr} {chan pri len st : Nat} {b : List Byte} {s : State} (ht : s.takesPf (.draftRun h chan pri len (some b)) = true)
    (htest : s.testing 37 = false) (hc : chan < 32) (hp : pri ≤ 3) (h16 : 16 ≤ len) (hmax : len ≤ 65536) (hmod : len % 16 = 0)
    (hst : s.fld (fDrf_DC_STAT_STATE chan) = 0) (hstop : s.on fDrf_STAT_STOPPED = false) (hlen : len ≤ b.length)
    (hbad : progStatus (progSlots len b) = some st) : ∃ t, exec (.draftRun h chan pri len (some b)) s = .next t ∧
      completed (answerRec { h with irq := true } st (draftRecord chan ⟨st, 0, 0, 0, s.tb⟩ 0 0 0 [] s)) s t ∧
      onlyRegs complReg s t ∧ onlyParts [.qps, .regs, .out] s t := by
  obtain ⟨-, -, -, hq, hb, -⟩ := State.takesPf_elim (h := h) rfl ht
  have hup := begun_onlyParts s h.qp
  have hrec : draftRecord chan ⟨st, 0, 0, 0, (s.begun h.qp).tb⟩ 0 0 0 [] (s.begun h.qp) = draftRecord chan ⟨st, 0, 0, 0, s.tb⟩ 0 0 0 [] s := by
    rw [hup .tb (by decide)]
    exact draftRecord_congr (hup .ck (by decide)) (fun _ => State.reg_congr (hup .regs (by decide)) _) _ _ _ _ _ _
  obtain ⟨hcm, hr, hpar⟩ := postCompl_from (c := answerRec { h with irq := true } st (draftRecord chan ⟨st, 0, 0, 0, s.tb⟩ 0 0 0 [] s)) hq hb hup
  refine ⟨_, ?_, hcm, hr, hpar.mono (by decide)⟩
  rw [exec_draftRun ht htest hc hp h16 hmax hmod hst hstop hlen, hbad]
  dsimp only
  rw [hrec]
  rfl

/-! ## DRAFT_ABORT -/

theorem draftAbort_claim {h h0 : Hdr} {chan : Nat} {s : State} (ht : s.takesPf (.draftAbort h chan) = true) (htest : s.testing 37 = false)
    (hrun : s.dcRuns chan = true) (hab : (s.dc chan).abort = none) (hh : (s.dc chan).hdr = some h0) (hl : (s.dc chan).lastHost = none)
    (hq0 : h0.qp < 256) (hb0 : s.bme (s.ownerOf h0.qp) = true) :
    ∃ m t, exec (.draftAbort h chan) s = .next t ∧ t.dc chan = {} ∧ t.fld (fDrf_DC_STAT_STATE chan) = 0 ∧
      completed (answerRec { h0 with irq := true } eAbort (draftRecord chan ⟨eAbort, 0, s.dcResidue chan, 0, s.tb⟩ (s.dcPc chan)
        (s.dc chan).stack.length (s.dc chan).bytes ((s.dc chan).stack.reverse.map (·.cnt)) s)) s m ∧
      completed (answer h eOk) m t ∧ (∀ o, o ∈ m.host.out → o ∈ t.host.out) ∧ (∀ d, d ≠ chan → t.dc d = s.dc d) ∧
      onlyRegs (fun r => r = rDrf_DC_STAT chan ∨ r = rDrf_STAT ∨ r.blk = .ck ∨ complReg r) s t ∧ onlyParts [.drf, .qps, .regs, .out] s t := by
  obtain ⟨hd, hr, hbeg, hq, hb, ho⟩ := State.takesPf_elim (h := h) rfl ht
  obtain ⟨u, hu⟩ : ∃ u, u = s.begun h.qp := ⟨_, rfl⟩
  have hup : onlyParts [.qps] s u := by rw [hu]; exact begun_onlyParts s h.qp
  obtain ⟨a, ha⟩ : ∃ a, a = u.modDc chan ({ · with abort := some h }) := ⟨_, rfl⟩
  have hap : onlyParts [.drf, .qps] s a := by
    rw [ha]; exact (hup.mono (by decide)).trans ((modDc_onlyParts chan _ u).mono (by decide))
  have har (r : RegId) : a.reg r = s.reg r := State.reg_congr (hap .regs (by decide)) r
  have hudc (d : Nat) : u.dc d = s.dc d := State.dc_congr (hup .drf (by decide)) d
  have hadc : a.dc chan = { s.dc chan with abort := some h } := by rw [ha, State.modDc, State.dc_setDc_self, hudc]
  have hane (d : Nat) (hd : d ≠ chan) : a.dc d = s.dc d := by rw [ha, State.modDc, State.dc_setDc_ne _ _ hd, hudc]
  obtain ⟨hast, habt, hal, hahdr, habytes, hax, haprog⟩ : (a.dc chan).stack = (s.dc chan).stack ∧ (a.dc chan).abort = some h ∧
      (a.dc chan).lastHost = none ∧ (a.dc chan).hdr = some h0 ∧ (a.dc chan).bytes = (s.dc chan).bytes ∧ (a.dc chan).xfer = (s.dc chan).xfer ∧
      (a.dc chan).prog = (s.dc chan).prog := by
    rw [hadc]; exact ⟨rfl, rfl, hl, hh, rfl, rfl, rfl⟩
  have hpc : a.dcPc chan = s.dcPc chan := State.fld_congr (hap .regs (by decide)) _
  have hres : a.dcResidue chan = s.dcResidue chan := by rw [State.dcResidue, hax, haprog, hpc, State.dcResidue]
  obtain ⟨e, he⟩ : ∃ e : DraftEnd, e = ⟨eAbort, 0, s.dcResidue chan, 0, s.tb⟩ := ⟨_, rfl⟩
  have hrec : endRecord chan e a = draftRecord chan e (s.dcPc chan) (s.dc chan).stack.length (s.dc chan).bytes
      ((s.dc chan).stack.reverse.map (·.cnt)) s := by
    rw [endRecord, hpc, hast, habytes]
    exact draftRecord_congr (hap .ck (by decide)) (fun _ => har _) _ _ _ _ _ _
  have hown (q : Nat) : a.ownerOf q = s.ownerOf q := State.ownerOf_congr (fun _ => har _) q
  have hb0' : a.bme (a.ownerOf h0.qp) = true := by rwa [hown, State.bme, hap .bme (by decide)]
  obtain ⟨hc, hm, hself, hother, hstate⟩ := draftAnswered_completes (d := chan) (e := e) (endRecord chan e a) hq0 hb0'
  obtain ⟨m, hmd⟩ : ∃ m, m = draftAnswered (some h0) e (endRecord chan e a) (draftFreed chan a) := ⟨_, rfl⟩
  have hirq : (h0.irq || e.status != eOk) = true := by rw [he]; exact Bool.or_true _
  have hest : e.status = eAbort := by rw [he]
  rw [← hmd, hrec, hirq, hest] at hc
  rw [← hmd] at hm hself hother hstate
  have hmb : m.bme (m.ownerOf h.qp) = true := by
    have hmo : m.ownerOf h.qp = s.ownerOf h.qp := (State.ownerOf_congr (fun i => hm.1 _ (by simp [draftReg, complReg])) _).trans (hown _)
    rwa [hmo, State.bme, hm.2 .bme (by decide), hap .bme (by decide)]
  have hchecks : firstFail [(!s.dcRuns chan && (s.dc chan).abort.isNone, eState), ((s.dc chan).abort.isSome, eBusy)] = none := by
    simp [firstFail, hrun, hab]
  have hex : exec (.draftAbort h chan) s = .next (complete h eOk [] m) := by
    show execDraftAbort h chan s = _
    rw [execDraftAbort, command_begins _ _ _ _ _ hd hbeg ((firstFail_gate (fun _ => ho) hr (by simpa using htest) _).trans hchecks), ← hu, ← ha,
      failDraft, endDraft_noHost hal, hres, hap .tb (by decide), ← he, finishDraft_eq, habt, hahdr, ← hmd]
    rfl
  have hlast := complete_onlyParts eOk [] hq hmb
  have hdrf := hlast .drf (by decide)
  have hlr := complete_onlyRegs h eOk [] m
  refine ⟨m, _, hex, (State.dc_congr hdrf chan).trans hself, (hlr.fld (by simp [complReg])).trans hstate, ?_, complete_completed h eOk [] m hq hmb,
    fun o ho => postCompl_outsKept _ m o ho, fun d hd => (State.dc_congr hdrf d).trans ((hother d hd).trans (hane d hd)), ?_, ?_⟩
  · rw [← he]
    exact completed_congr hc fun _ => har _
  · refine (hap.onlyRegs_of_regs (by decide) _).trans ((hm.1.mono fun r h => ?_).trans (hlr.mono fun r h => .inr (.inr (.inr h))))
    obtain (h | h | h) | h := h
    · exact .inl h
    · exact .inr (.inl h)
    · exact .inr (.inr (.inl h))
    · exact .inr (.inr (.inr h))
  · exact (hap.mono (by decide)).trans (hm.2.trans (hlast.mono (by decide)))

/-! ## The resets (R404) -/

/-- What SRST sets to its reset value: the DRF registers but the windows and the DC_STAT of a channel in use. -/
def srstReg (s : State) (r : RegId) : Bool :=
  r.blk == .drf && !decide (0x100 ≤ r.off ∧ r.off < 0x140) && (decide (r.off < 0x200) || bits (s.reg r) 31 30 == 0)

theorem drf_unavailable {s : State} (h : s.testing 37 = false) : s.unavailable rDrf_CTL = none := by
  refine State.unavailable_none ?_ (by decide)
  exact h

theorem drfTable_bound : ∀ x ∈ regTable .drf, if x.cnt = 1 then x.off < 0x280 else x.off + x.stride * x.cnt ≤ 0x280 := by
  decide

theorem regReset_dcStat (d : Nat) : regReset (rDrf_DC_STAT d) = 0#32 := by
  by_cases h : d < 32
  · exact (by decide : ∀ d, d < 32 → regReset (rDrf_DC_STAT d) = 0#32) d h
  · have hnone : findReg (rDrf_DC_STAT d) = none := by
      rw [findReg, Option.map_eq_none_iff, List.find?_eq_none]
      intro x hx
      have hb := drfTable_bound x hx
      by_cases hc : x.cnt = 1
      · rw [if_pos hc] at hb
        simp only [hc, if_true, Bool.and_eq_true, decide_eq_true_eq, beq_iff_eq]
        omega
      · rw [if_neg hc] at hb
        simp only [hc, if_false, Bool.and_eq_true, decide_eq_true_eq]
        omega
    rw [regReset, hnone] <;> rfl

theorem drfSrst_claim {v : W32} {s : State} (hs : s.awake = true) (htest : s.testing 37 = false) (h0 : v.getLsbD 0 = true) (h1 : v.getLsbD 1 = false)
    (hrun : s.fld fDrf_STAT_RUNNING = 0) : ∃ t, exec (.drfSrst v) s = .next t ∧
      (∀ r, r.blk = .drf → (r.off < 0x100 ∨ 0x140 ≤ r.off ∧ r.off < 0x200) → t.reg r = regReset r) ∧
      (∀ d, s.fld (fDrf_DC_STAT_STATE d) = 0 → t.reg (rDrf_DC_STAT d) = 0#32) ∧
      onlyRegs (fun r => r.blk = .drf ∧ (r.off < 0x100 ∨ 0x140 ≤ r.off)) s t ∧ onlyParts [.regs, .hiLatch, .capt, .loHeld] s t := by
  have hun := drf_unavailable htest
  have hpass : firstFail [((s.unavailable rDrf_CTL).isSome, eSelfTest), (v.getLsbD 0 && s.fld fDrf_STAT_RUNNING != 0, eState)] = none := by
    simp [firstFail, hun, hrun]
  refine ⟨s.resetRegs (srstReg s), ?_, fun r hb ho => ?_, fun d hd => ?_, fun r hr => ?_, resetRegs_onlyParts s _⟩
  · show Host.Outcome.next (hostAccess (fun s => writeDrfCtl v s) s) = _
    rw [hostAccess_awake _ s hs, writeDrfCtl, hpass]
    dsimp only
    rw [h0, h1, if_pos rfl, if_neg Bool.false_ne_true]
    rfl
  · rw [State.reg_resetRegs, if_pos]
    have hnot : ¬ (0x100 ≤ r.off ∧ r.off < 0x140) := by omega
    have hlt : r.off < 0x200 := by omega
    simp [srstReg, hb, hnot, hlt]
  · rw [State.reg_resetRegs, if_pos, regReset_dcStat]
    have hnot : ¬ (0x100 ≤ 0x200 + 0x4 * d ∧ 0x200 + 0x4 * d < 0x140) := by omega
    have hb : bits (s.reg (rDrf_DC_STAT d)) 31 30 = 0 := hd
    simp [srstReg, hnot, hb]
  · rw [State.reg_resetRegs, if_neg]
    simp only [srstReg, Bool.and_eq_true, beq_iff_eq, Bool.not_eq_true', decide_eq_false_iff_not]
    rintro ⟨⟨hb, hnot⟩, -⟩
    exact hr ⟨hb, by omega⟩

theorem exec_drfRestart {v : W32} {s : State} (hs : s.awake = true) (htest : s.testing 37 = false) (h0 : v.getLsbD 0 = false) (h1 : v.getLsbD 1 = true) :
    exec (.drfRestart v) s = .next (s.setFld fDrf_STAT_STOPPED 0) := by
  have hun := drf_unavailable htest
  have hpass : firstFail [((s.unavailable rDrf_CTL).isSome, eSelfTest), (v.getLsbD 0 && s.fld fDrf_STAT_RUNNING != 0, eState)] = none := by
    simp only [firstFail, hun, h0, Option.isSome_none, Bool.false_and, Bool.false_eq_true, if_false]
  show Host.Outcome.next (hostAccess (fun s => writeDrfCtl v s) s) = _
  rw [hostAccess_awake _ s hs, writeDrfCtl, hpass]
  dsimp only
  rw [h0, h1, if_pos rfl, if_neg Bool.false_ne_true]

/-- Settles O38: by what a program that passes loads, what the end of a draft leaves, and what SRST resets. -/
theorem draftsAreCommanded : Obligations.DraftsAreCommanded := by
  unfold Obligations.DraftsAreCommanded
  exact ⟨fun _ _ _ _ _ _ ht htest hc hp h16 hmax hmod hst hstop hlen hok => draftRun_runs ht htest hc hp h16 hmax hmod hst hstop hlen hok,
    fun _ _ _ _ _ _ _ ht htest hc hp h16 hmax hmod hst hstop hlen hbad _ => draftRun_refused ht htest hc hp h16 hmax hmod hst hstop hlen hbad,
    fun _ _ _ _ ht htest _ hrun hab hh hl hq hb => draftAbort_claim ht htest hrun hab hh hl hq hb,
    fun _ _ hs htest h0 h1 hrun => drfSrst_claim hs htest h0 h1 hrun, fun _ _ hs htest h0 h1 => exec_drfRestart hs htest h0 h1⟩

end Sys2Proof.Machine

end

section
/-! PROOFS. The instructions of a draft program (R393-R397): what settles O39. -/

-- The checked text is one long file: elaborating these in order bounds its threads and memory.
set_option Elab.async false

namespace Sys2Proof.Machine

/-! ## One bit of a register -/

theorem getLsbD_setFld_bit (s : State) (r : RegId) {f g : Nat} (v : Nat) (hf : f < 32) :
    ((s.setFld ⟨r, f, f⟩ v).reg r).getLsbD g = if g = f then decide (v % 2 = 1) else (s.reg r).getLsbD g := by
  rw [State.setFld, State.reg_setReg_self]
  by_cases hg : g = f
  · rw [if_pos hg, hg, getLsbD_putBits_part _ v ⟨le_rfl, hf⟩ le_rfl le_rfl, Nat.sub_self, pow_zero, Nat.div_one]
  · rw [if_neg hg]
    by_cases hg32 : g < 32
    · have hb : bits (putBits (s.reg r) f f v) g g = bits (s.reg r) g g := bits_putBits_other _ _ ⟨le_rfl, hf⟩ ⟨le_rfl, hg32⟩ (by omega)
      rw [getLsbD_eq_bits, getLsbD_eq_bits, hb]
    · rw [BitVec.getLsbD_of_ge _ _ (by omega), BitVec.getLsbD_of_ge _ _ (by omega)]

theorem setFld_bit_or (s : State) (r : RegId) {f : Nat} (hf : f < 32) :
    (s.setFld ⟨r, f, f⟩ 1).reg r = s.reg r ||| BitVec.ofNat 32 (2 ^ f) := by
  refine BitVec.eq_of_getLsbD_eq fun i hi => ?_
  rw [getLsbD_setFld_bit s r 1 hf, BitVec.getLsbD_or, BitVec.getLsbD_ofNat, Nat.testBit_two_pow]
  by_cases h : i = f
  · simp [h, hf]
  · simp [h, Ne.symm h]

/-! ## MOVE and FILL -/

section
variable {chan : Nat} {b : List Byte} {s : State}

theorem exec_move (h : s.dcSlot chan 1 = some b) (h6 : (field b 0 1).testBit 6 = false)
    (hok : rowFail (xferChecks chan (moveXfer (s.dc chan) b) s) = none) :
    exec (.move chan) s = .next (s.setDc chan { s.dc chan with xfer := some (moveXfer (s.dc chan) b) }) := by
  show execMove chan s = _
  rw [execMove, h]
  dsimp only
  rw [startXfer, hok, h6]
  rfl

theorem exec_fill (h : s.dcSlot chan 2 = some b) (hok : rowFail (xferChecks chan (fillXfer (s.dc chan) b) s) = none) :
    exec (.fill chan) s = .next (s.setDc chan { s.dc chan with xfer := some (fillXfer (s.dc chan) b) }) := by
  show execFill chan s = _
  rw [execFill, h]
  dsimp only
  rw [startXfer, hok]
  rfl

/-! ## LOOP -/

/-- What a change of a channel's loop stack leaves. -/
theorem setStack_effect (d : Nat) (l : List DraftLvl) (s : State) : let t := setStack d l s
    (t.dc d).stack = l ∧ (∀ e, e ≠ d → t.dc e = s.dc e) ∧ t.fld (fDrf_DC_STAT_DEPTH d) = l.length % 8 ∧
      (∀ hi lo, fieldOk hi lo → hi < 12 → t.fld ⟨rDrf_DC_STAT d, hi, lo⟩ = s.fld ⟨rDrf_DC_STAT d, hi, lo⟩) ∧
      moved (fun r => r = rDrf_DC_STAT d) [.drf, .regs] s t := by
  obtain ⟨a, ha⟩ : ∃ a, a = s.modDc d ({ · with stack := l }) := ⟨_, rfl⟩
  have hap : onlyParts [.drf] s a := by rw [ha]; exact modDc_onlyParts d _ s
  have hdef : setStack d l s = a.setFld (fDrf_DC_STAT_DEPTH d) l.length := by rw [ha]; rfl
  have hdc (e : Nat) : (setStack d l s).dc e = a.dc e := by
    rw [hdef]
    exact State.dc_congr (setFld_onlyParts _ _ _ .drf (by decide)) e
  refine ⟨?_, fun e he => ?_, ?_, fun hi lo h hlt => ?_, ?_⟩
  · rw [hdc, ha, State.modDc, State.dc_setDc_self]
  · rw [hdc, ha, State.modDc, State.dc_setDc_ne _ _ he]
  · rw [hdef]
    exact State.fld_setFld_self a _ _ _ _ (by decide) (by decide)
  · rw [hdef]
    exact (fld_dcStat_other a d _ _ _ _ _ (by decide) h (.inr hlt)).trans (State.fld_congr (hap .regs (by decide)) _)
  · rw [hdef]
    exact (hap.moved (by decide) _ (by decide)).trans (setFld_moved (P := fun r => r = rDrf_DC_STAT d) _ rfl (by decide) a _)

/-- A level of the loop stack with another pass counted, and its addresses moved on. -/
def nextPass (b : List Byte) (l : DraftLvl) : DraftLvl :=
  { l with cnt := l.cnt + 1, src := l.src + signed 32 (field b 8 4), dst := l.dst + signed 32 (field b 12 4) }

/-- A LOOP whose level stands at `l` over `r` repeats its body. -/
def loopsBack (chan : Nat) (b : List Byte) (l : DraftLvl) (r : List DraftLvl) (s : State) : State :=
  (setStack chan (nextPass b l :: r) s).setFld (fDrf_DC_STAT_PC chan) (field b 2 2 % 4096)

theorem loopsBack_effect (chan : Nat) (b : List Byte) (l : DraftLvl) (r : List DraftLvl) (s : State) : let t := loopsBack chan b l r s
    (t.dc chan).stack = nextPass b l :: r ∧ t.dcPc chan = field b 2 2 % 4096 ∧ t.fld (fDrf_DC_STAT_DEPTH chan) = (r.length + 1) % 8 ∧
      (∀ d, d ≠ chan → t.dc d = s.dc d) ∧ onlyRegs (fun r => r = rDrf_DC_STAT chan) s t ∧ onlyParts [.drf, .regs] s t := by
  obtain ⟨hst, hdc, hdepth, -, hm⟩ := setStack_effect chan (nextPass b l :: r) s
  obtain ⟨a, ha⟩ : ∃ a, a = setStack chan (nextPass b l :: r) s := ⟨_, rfl⟩
  rw [← ha] at hst hdc hdepth hm
  have hset : moved (fun r => r = rDrf_DC_STAT chan) [.drf, .regs] a (a.setFld (fDrf_DC_STAT_PC chan) (field b 2 2 % 4096)) :=
    setFld_moved (P := fun r => r = rDrf_DC_STAT chan) _ rfl (by decide) a _
  have hdrf : (a.setFld (fDrf_DC_STAT_PC chan) (field b 2 2 % 4096)).drf = a.drf := setFld_onlyParts _ _ _ .drf (by decide)
  have hdef : loopsBack chan b l r s = a.setFld (fDrf_DC_STAT_PC chan) (field b 2 2 % 4096) := by rw [ha]; rfl
  simp only [hdef]
  refine ⟨by rw [State.dc_congr hdrf, hst], State.fld_setFld_self_of_lt a _ (by decide) (Nat.mod_lt _ (by decide)),
    (fld_dcStat_other a chan _ _ _ _ _ (by decide) (by decide) (.inl (by decide))).trans hdepth,
    fun d hd => (State.dc_congr hdrf d).trans (hdc d hd), hm.1.trans hset.1, hm.2.trans hset.2⟩

/-- The level that a LOOP at `pc` counts on: its own where it stands on top, else a new one. -/
theorem exec_loop_new (h : s.dcSlot chan 3 = some b) (hnew : ∀ l ∈ (s.dc chan).stack.head?, l.slot ≠ s.dcPc chan) (hc : 2 ≤ field b 4 2) :
    exec (.loop chan) s = .next (loopsBack chan b ⟨s.dcPc chan, 1, 0, 0⟩ (s.dc chan).stack s) := by
  show execLoop chan s = _
  rw [execLoop, h]
  dsimp only
  cases hst : (s.dc chan).stack with
  | nil =>
    dsimp only
    rw [if_pos (by omega)]
    rfl
  | cons l r =>
    have hne : l.slot ≠ s.dcPc chan := hnew l (by rw [hst]; rfl)
    dsimp only
    rw [if_neg hne]
    dsimp only
    rw [if_pos (by omega)]
    rfl

theorem exec_loop_again {l : DraftLvl} {r : List DraftLvl} (h : s.dcSlot chan 3 = some b) (hst : (s.dc chan).stack = l :: r)
    (hs : l.slot = s.dcPc chan) (hc : l.cnt < field b 4 2) : exec (.loop chan) s = .next (loopsBack chan b l r s) := by
  show execLoop chan s = _
  rw [execLoop, h]
  dsimp only
  rw [hst]
  dsimp only
  rw [if_pos hs]
  dsimp only
  rw [if_pos hc]
  rfl

theorem exec_loop_out {l : DraftLvl} {r : List DraftLvl} (h : s.dcSlot chan 3 = some b) (hst : (s.dc chan).stack = l :: r)
    (hs : l.slot = s.dcPc chan) (hc : field b 4 2 ≤ l.cnt) : exec (.loop chan) s = .next (dcNext chan (setStack chan r s)) := by
  show execLoop chan s = _
  rw [execLoop, h]
  dsimp only
  rw [hst]
  dsimp only
  rw [if_pos hs]
  dsimp only
  rw [if_neg (by omega)]

theorem loopNew_claim (h : s.dcSlot chan 3 = some b) (hnew : ∀ l ∈ (s.dc chan).stack.head?, l.slot ≠ s.dcPc chan) (hc : 2 ≤ field b 4 2)
    (hlen : (s.dc chan).stack.length < 4) : ∃ t, exec (.loop chan) s = .next t ∧
      (t.dc chan).stack = ⟨s.dcPc chan, 2, signed 32 (field b 8 4), signed 32 (field b 12 4)⟩ :: (s.dc chan).stack ∧
      t.dcPc chan = field b 2 2 % 4096 ∧ t.fld (fDrf_DC_STAT_DEPTH chan) = (s.dc chan).stack.length + 1 ∧
      (∀ d, d ≠ chan → t.dc d = s.dc d) ∧ onlyRegs (fun r => r = rDrf_DC_STAT chan) s t ∧ onlyParts [.drf, .regs] s t := by
  obtain ⟨hst, hpc, hdepth, hdc, hr, hp⟩ := loopsBack_effect chan b ⟨s.dcPc chan, 1, 0, 0⟩ (s.dc chan).stack s
  refine ⟨_, exec_loop_new h hnew hc, ?_, hpc, hdepth.trans (Nat.mod_eq_of_lt (by omega)), hdc, hr, hp⟩
  rw [hst, nextPass, zero_add, zero_add]

theorem loopAgain_claim {l : DraftLvl} {r : List DraftLvl} (h : s.dcSlot chan 3 = some b) (hst : (s.dc chan).stack = l :: r)
    (hs : l.slot = s.dcPc chan) (hc : l.cnt < field b 4 2) : ∃ t, exec (.loop chan) s = .next t ∧
      (t.dc chan).stack = { l with cnt := l.cnt + 1, src := l.src + signed 32 (field b 8 4), dst := l.dst + signed 32 (field b 12 4) } :: r ∧
      t.dcPc chan = field b 2 2 % 4096 ∧ (∀ d, d ≠ chan → t.dc d = s.dc d) ∧ onlyRegs (fun x => x = rDrf_DC_STAT chan) s t ∧
      onlyParts [.drf, .regs] s t := by
  obtain ⟨hstk, hpc, -, hdc, hr, hp⟩ := loopsBack_effect chan b l r s
  exact ⟨_, exec_loop_again h hst hs hc, hstk, hpc, hdc, hr, hp⟩

theorem loopOut_claim {l : DraftLvl} {r : List DraftLvl} (h : s.dcSlot chan 3 = some b) (hst : (s.dc chan).stack = l :: r)
    (hs : l.slot = s.dcPc chan) (hc : field b 4 2 ≤ l.cnt) (hlen : r.length < 8) : ∃ t, exec (.loop chan) s = .next t ∧
      (t.dc chan).stack = r ∧ t.dcPc chan = (s.dcPc chan + 1) % 4096 ∧ t.fld (fDrf_DC_STAT_DEPTH chan) = r.length ∧
      (∀ d, d ≠ chan → t.dc d = s.dc d) ∧ onlyRegs (fun x => x = rDrf_DC_STAT chan) s t ∧ onlyParts [.drf, .regs] s t := by
  obtain ⟨hstk, hdc, hdepth, hlow, hm⟩ := setStack_effect chan r s
  obtain ⟨a, ha⟩ : ∃ a, a = setStack chan r s := ⟨_, rfl⟩
  have hex := exec_loop_out h hst hs hc
  rw [← ha] at hstk hdc hdepth hlow hm hex
  obtain ⟨hpc, hhigh, hn⟩ := dcNext_effect chan a
  have hdrf := hn.2 .drf (by decide)
  have hapc : a.dcPc chan = s.dcPc chan := hlow _ _ (by decide) (by decide)
  refine ⟨_, hex, by rw [State.dc_congr hdrf, hstk], by rw [hpc, hapc], ?_, fun d hd => (State.dc_congr hdrf d).trans (hdc d hd),
    hm.1.trans hn.1, hm.2.trans (hn.2.mono (by decide))⟩
  exact (hhigh _ _ (by decide) (by decide)).trans (hdepth.trans (Nat.mod_eq_of_lt hlen))

/-! ## SIGNAL -/

theorem signalFlag_claim (h : s.dcSlot chan 5 = some b) (hk : field b 1 1 = 0) (hf : field b 2 1 < 32) : ∃ t, exec (.signal chan) s = .next t ∧
    (t.reg rDrf_FLAG) = s.reg rDrf_FLAG ||| BitVec.ofNat 32 (2 ^ field b 2 1) ∧ t.dcPc chan = (s.dcPc chan + 1) % 4096 ∧
    onlyRegs (fun r => r = rDrf_DC_STAT chan ∨ r = rDrf_FLAG) s t ∧ onlyParts [.regs] s t := by
  obtain ⟨a, ha⟩ : ∃ a, a = s.setFld ⟨rDrf_FLAG, field b 2 1, field b 2 1⟩ 1 := ⟨_, rfl⟩
  have har : onlyRegs (fun r => r = rDrf_FLAG) s a := by rw [ha]; exact setFld_onlyReg s _ _ _ _
  have hap : onlyParts [.regs] s a := by rw [ha]; exact setFld_onlyParts s _ _
  have haf : a.reg rDrf_FLAG = s.reg rDrf_FLAG ||| BitVec.ofNat 32 (2 ^ field b 2 1) := by rw [ha]; exact setFld_bit_or s rDrf_FLAG hf
  obtain ⟨hpc, -, hn⟩ := dcNext_effect chan a
  have hflag : rDrf_FLAG ≠ rDrf_DC_STAT chan := by simp only [ne_eq, RegId.mk.injEq, true_and]; omega
  have hapc : a.dcPc chan = s.dcPc chan := har.fld hflag.symm
  refine ⟨dcNext chan a, ?_, (hn.1 _ hflag).trans haf, by rw [hpc, hapc], (har.mono fun _ => .inr).trans (hn.1.mono fun _ => .inl), hap.trans hn.2⟩
  have hok : rowFail (signalChecks b (dAdd (field b 8 6) (s.dc chan).sums.2) s) = none := by
    rw [signalChecks, if_pos hk]
    rfl
  show execSignal chan s = _
  rw [execSignal, h]
  dsimp only
  rw [hok]
  dsimp only
  rw [if_neg (by simp [hk]), if_pos hk, Nat.mod_eq_of_lt hf, ← ha]

theorem signalShuttle_claim (h : s.dcSlot chan 5 = some b) (hk : field b 1 1 = 1) (h4 : 4 ≤ field b 2 1) (h95 : field b 2 1 ≤ 95)
    (htest : s.testing (24 + field b 2 1 / 8) = false) (hroom : (s.shut (field b 2 1)).mbox.length < 16) : ∃ t, exec (.signal chan) s = .next t ∧
      (t.shut (field b 2 1)).mbox = (s.shut (field b 2 1)).mbox ++ [(field b 4 3, field b 8 3)] ∧ t.dcPc chan = (s.dcPc chan + 1) % 4096 ∧
      (∀ m, m ≠ field b 2 1 → t.shut m = s.shut m) ∧ onlyRegs (fun r => r = rDrf_DC_STAT chan ∨ r = rSh_MBOX (field b 2 1)) s t ∧
      onlyParts [.sht, .regs] s t := by
  obtain ⟨sh, hsh⟩ : ∃ sh, sh = field b 2 1 := ⟨_, rfl⟩
  rw [← hsh] at h4 h95 htest hroom ⊢
  obtain ⟨a, ha⟩ : ∃ a, a = s.setMbox sh ((s.shut sh).mbox ++ [(field b 4 3, field b 8 3)]) := ⟨_, rfl⟩
  have har : onlyRegs (fun r => r = rSh_MBOX sh) s a := by rw [ha]; exact setMbox_onlyRegs s _ _
  have hap : onlyParts [.sht, .regs] s a := by rw [ha]; exact setMbox_onlyParts s _ _
  have has : a.shut sh = { s.shut sh with mbox := (s.shut sh).mbox ++ [(field b 4 3, field b 8 3)] } := by rw [ha, State.shut_setMbox_self]
  have hao (m : Nat) (hm : m ≠ sh) : a.shut m = s.shut m := by rw [ha, State.shut_setMbox_ne _ _ hm]
  obtain ⟨hpc, -, hn⟩ := dcNext_effect chan a
  have hsht := hn.2 .sht (by decide)
  have hapc : a.dcPc chan = s.dcPc chan := har.fld (by simp)
  refine ⟨dcNext chan a, ?_, by rw [State.shut_congr hsht, has], by rw [hpc, hapc], fun m hm => (State.shut_congr hsht m).trans (hao m hm),
    (har.mono fun _ => .inr).trans (hn.1.mono fun _ => .inl), hap.trans (hn.2.mono (by decide))⟩
  have hok : rowFail (signalChecks b (dAdd (field b 8 6) (s.dc chan).sums.2) s) = none := by
    have h1 : decide (95 < sh) = false := by simpa using h95
    have h2 : decide (sh < 4) = false := by simpa using h4
    have h3 : (shTarget sh).any s.testing = false := by
      rw [shTarget, if_pos ⟨h4, by omega⟩]
      simpa using htest
    rw [signalChecks, if_neg (by simp [hk]), if_pos hk, ← hsh, h1, h2, h3]
    rfl
  show execSignal chan s = _
  rw [execSignal, h]
  dsimp only
  rw [hok]
  dsimp only
  rw [if_neg (by simp [hk]), if_neg (by simp [hk]), if_pos hk, ← hsh, mailTo_of_room _ _ hroom, Option.getD_some, ← ha]

theorem signalHost_claim (h : s.dcSlot chan 5 = some b) (hk : field b 1 1 = 2)
    (hok : rowFail (signalChecks b (dAdd (field b 8 6) (s.dc chan).sums.2) s) = none) (hb : s.bme 0 = true) :
    ∃ t, exec (.signal chan) s = .next t ∧
      t.host.out = .hostWrite (s.busAddr (dAdd (field b 8 6) (s.dc chan).sums.2)) ((b.drop 4).take 4) :: s.host.out ∧
      (t.dc chan).lastHost = some (s.busAddr (dAdd (field b 8 6) (s.dc chan).sums.2)) ∧ t.dcPc chan = (s.dcPc chan + 1) % 4096 ∧
      (∀ d, d ≠ chan → t.dc d = s.dc d) ∧ onlyRegs (fun r => r = rDrf_DC_STAT chan) s t ∧ onlyParts [.drf, .regs, .out] s t := by
  obtain ⟨w, hw⟩ : ∃ w, w = s.busAddr (dAdd (field b 8 6) (s.dc chan).sums.2) := ⟨_, rfl⟩
  obtain ⟨u, hu⟩ : ∃ u, u = s.emit (.hostWrite w ((b.drop 4).take 4)) := ⟨_, rfl⟩
  have hup : onlyParts [.out] s u := by rw [hu]; exact emit_onlyParts s _
  have huo : u.host.out = .hostWrite w ((b.drop 4).take 4) :: s.host.out := by rw [hu]; rfl
  obtain ⟨a, ha⟩ : ∃ a, a = u.modDc chan fun c => { c with lastHost := some w, bytes := c.bytes + 4 } := ⟨_, rfl⟩
  have hap : onlyParts [.drf] u a := by rw [ha]; exact modDc_onlyParts chan _ u
  have hsa : onlyParts [.drf, .out] s a := (hup.mono (by decide)).trans (hap.mono (by decide))
  have hal : (a.dc chan).lastHost = some w := by rw [ha, State.modDc, State.dc_setDc_self]
  have hao (d : Nat) (hd : d ≠ chan) : a.dc d = s.dc d := by
    rw [ha, State.modDc, State.dc_setDc_ne _ _ hd, State.dc_congr (hup .drf (by decide))]
  obtain ⟨hpc, -, hn⟩ := dcNext_effect chan a
  have hdrf := hn.2 .drf (by decide)
  have hapc : a.dcPc chan = s.dcPc chan := State.fld_congr (hsa .regs (by decide)) _
  rw [← hw]
  refine ⟨dcNext chan a, ?_, (hn.2 .out (by decide)).trans ((hap .out (by decide)).trans huo), by rw [State.dc_congr hdrf, hal], by rw [hpc, hapc],
    fun d hd => (State.dc_congr hdrf d).trans (hao d hd), (hsa.onlyRegs_of_regs (by decide) _).trans hn.1,
    (hsa.mono (by decide)).trans (hn.2.mono (by decide))⟩
  show execSignal chan s = _
  rw [execSignal, h]
  dsimp only
  rw [hok]
  dsimp only
  rw [if_neg (by simp [hb]), if_neg (by simp [hk]), if_neg (by simp [hk]), ← hw, ← hu, ← ha]

/-! ## WAIT -/

/-- Whether the stroke that a WAIT names has come already. -/
def waitHit (b : List Byte) (s : State) : Bool :=
  field b 1 1 == 0 && field b 4 4 != 0 && (match s.lastCount (field b 2 1 % 4) with
    | some n => decide ((n + 2 ^ 32 - field b 4 4) % 2 ^ 32 < 2 ^ 31)
    | none => false)

theorem draftWait_claim (h : s.dcSlot chan 4 = some b) : ∃ t, exec (.draftWait chan) s = .next t ∧
    t.fld (fDrf_DC_STAT_STATE chan) = 2 ∧ t.dcPc chan = s.dcPc chan ∧ (t.dc chan).waitAt = s.up ∧
    (field b 4 4 = 0 → (t.dc chan).hit = false) ∧ (∀ d, d ≠ chan → t.dc d = s.dc d) ∧
    onlyRegs (fun r => r = rDrf_DC_STAT chan ∨ r = rDrf_STAT) s t ∧ onlyParts [.drf, .regs] s t := by
  obtain ⟨a, ha⟩ : ∃ a, a = s.modDc chan ({ · with waitAt := s.up, hit := waitHit b s }) := ⟨_, rfl⟩
  have hap : onlyParts [.drf] s a := by rw [ha]; exact modDc_onlyParts chan _ s
  have hac : a.dc chan = { s.dc chan with waitAt := s.up, hit := waitHit b s } := by rw [ha, State.modDc, State.dc_setDc_self]
  have hao (d : Nat) (hd : d ≠ chan) : a.dc d = s.dc d := by rw [ha, State.modDc, State.dc_setDc_ne _ _ hd]
  obtain ⟨hstate, hlow, hm⟩ := setDcState_effect chan (v := 2) (by decide) a
  have hdrf := hm.2 .drf (by decide)
  refine ⟨setDcState chan 2 a, ?_, hstate, (hlow _ _ (by decide) (by decide)).trans (State.fld_congr (hap .regs (by decide)) _),
    by rw [State.dc_congr hdrf, hac], fun h0 => ?_, fun d hd => (State.dc_congr hdrf d).trans (hao d hd),
    (hap.onlyRegs_of_regs (by decide) _).trans hm.1, (hap.mono (by decide)).trans (hm.2.mono (by decide))⟩
  · show execDraftWait chan s = _
    rw [execDraftWait, h, ha] <;> rfl
  · rw [State.dc_congr hdrf, hac]
    simp [waitHit, h0]

/-- The device with the flag or the message that a WAIT takes cleared. -/
def waitTaken (chan : Nat) (b : List Byte) (s : State) : State :=
  let s1 := if waitsClear (field b 2 1) b then s.setFld ⟨rDrf_FLAG, field b 2 1 % 32, field b 2 1 % 32⟩ 0 else s
  if field b 1 1 = 3 then s1.setFld ⟨rDrf_SHFLAG, chan, chan⟩ 0 else s1

/-- A channel whose WAIT holds goes on. -/
def waitDone (chan : Nat) (b : List Byte) (s : State) : State :=
  dcNext chan (setDcState chan 1 ((waitTaken chan b s).modDc chan ({ · with hit := false })))

theorem exec_draftWaitDone (h : s.dcWait chan = some b) (hw : (s.waitHolds chan b || field b 1 1 == 2) = true) :
    exec (.draftWaitDone chan) s = .next (waitDone chan b s) := by
  show execDraftWaitDone chan s = _
  rw [execDraftWaitDone, h]
  dsimp only
  rw [if_pos hw]
  rfl

/-- The flag registers that a WAIT may clear. -/
def waitReg (r : RegId) : Prop := r = rDrf_FLAG ∨ r = rDrf_SHFLAG

theorem waitReg_low {d : Nat} {r : RegId} (h : waitReg r) : r ≠ rDrf_DC_STAT d ∧ r ≠ rDrf_STAT := by
  obtain h | h := h <;> rw [h] <;> simp only [ne_eq, RegId.mk.injEq, true_and] <;> omega

/-- What the end of a WAIT leaves, but the flags that it takes. -/
theorem waitDone_effect (chan : Nat) (b : List Byte) {Q : RegId → Prop} {s : State} (hQ : ∀ r, Q r → waitReg r)
    (hmv : moved Q [.regs] s (waitTaken chan b s)) : let t := waitDone chan b s
    t.fld (fDrf_DC_STAT_STATE chan) = 1 ∧ t.dcPc chan = (s.dcPc chan + 1) % 4096 ∧
      (∀ r, waitReg r → t.reg r = (waitTaken chan b s).reg r) ∧ (∀ d, d ≠ chan → t.dc d = s.dc d) ∧
      onlyRegs (fun r => r = rDrf_DC_STAT chan ∨ r = rDrf_STAT ∨ Q r) s t ∧ onlyParts [.drf, .regs] s t := by
  obtain ⟨u, hu⟩ : ∃ u, u = waitTaken chan b s := ⟨_, rfl⟩
  rw [← hu] at hmv ⊢
  obtain ⟨a, ha⟩ : ∃ a, a = u.modDc chan ({ · with hit := false }) := ⟨_, rfl⟩
  have hap : onlyParts [.drf] u a := by rw [ha]; exact modDc_onlyParts chan _ u
  have har (r : RegId) : a.reg r = u.reg r := State.reg_congr (hap .regs (by decide)) r
  have hao (d : Nat) (hd : d ≠ chan) : a.dc d = s.dc d := by
    rw [ha, State.modDc, State.dc_setDc_ne _ _ hd, State.dc_congr (hmv.2 .drf (by decide))]
  obtain ⟨hstate, hlow, hm⟩ := setDcState_effect chan (v := 1) (by decide) a
  obtain ⟨c, hc⟩ : ∃ c, c = setDcState chan 1 a := ⟨_, rfl⟩
  rw [← hc] at hstate hlow hm
  obtain ⟨hpc, hhigh, hn⟩ := dcNext_effect chan c
  have hdrf : (dcNext chan c).drf = a.drf := (hn.2 .drf (by decide)).trans (hm.2 .drf (by decide))
  have hdef : waitDone chan b s = dcNext chan c := by rw [hc, ha, hu]; rfl
  have hnot : ¬ Q (rDrf_DC_STAT chan) := fun h => (waitReg_low (d := chan) (hQ _ h)).1 rfl
  simp only [hdef]
  refine ⟨(hhigh _ _ (by decide) (by decide)).trans hstate, ?_, fun r hr => ?_, fun d hd => (State.dc_congr hdrf d).trans (hao d hd), ?_, ?_⟩
  · have hcpc : c.dcPc chan = s.dcPc chan :=
      (hlow _ _ (by decide) (by decide)).trans ((congrArg (fun w => bits w _ _) (har _)).trans (hmv.1.fld hnot))
    rw [hpc, hcpc]
  · obtain ⟨h1, h2⟩ := waitReg_low (d := chan) hr
    exact (hn.1 r h1).trans ((hm.1 r (by rintro (h | h); exact h1 h; exact h2 h)).trans (har r))
  · refine ((hmv.1.mono fun _ h => .inr (.inr h)).trans (hap.onlyRegs_of_regs (by decide) _)).trans
      ((hm.1.mono fun r h => ?_).trans (hn.1.mono fun _ => .inl))
    exact h.imp_right .inl
  · exact ((hmv.2.mono (by decide)).trans (hap.mono (by decide))).trans ((hm.2.mono (by decide)).trans (hn.2.mono (by decide)))

theorem waitFlag_claim {f : Nat} (h : s.dcWait chan = some b) (hk : field b 1 1 = 1) (hf : field b 2 1 = f) (h32 : f < 32)
    (hflag : (s.reg rDrf_FLAG).getLsbD f = true) (hfirst : ∀ e, e < chan → s.dcWait e = none) :
    ∃ t, exec (.draftWaitDone chan) s = .next t ∧ t.fld (fDrf_DC_STAT_STATE chan) = 1 ∧ t.dcPc chan = (s.dcPc chan + 1) % 4096 ∧
      (t.reg rDrf_FLAG).getLsbD f = !(field b 3 1).testBit 0 ∧ (∀ g, g ≠ f → (t.reg rDrf_FLAG).getLsbD g = (s.reg rDrf_FLAG).getLsbD g) ∧
      (∀ d, d ≠ chan → t.dc d = s.dc d) ∧ onlyRegs (fun r => r = rDrf_DC_STAT chan ∨ r = rDrf_STAT ∨ r = rDrf_FLAG) s t ∧
      onlyParts [.drf, .regs] s t := by
  have hholds : s.waitHolds chan b = true := by
    have hnone : (List.range chan).any (fun e => (s.dcWait e).any (waitsClear f)) = false := by
      rw [List.any_eq_false]
      intro e he
      simp [hfirst e (List.mem_range.1 he)]
    rw [State.waitHolds, if_neg (by simp [hk]), if_pos hk, hf, hflag, hnone, Bool.and_false]
    rfl
  have hclear : waitsClear f b = (field b 3 1).testBit 0 := by
    rw [waitsClear, hk, hf]
    simp
  have hmod : f % 32 = f := Nat.mod_eq_of_lt h32
  have htaken : waitTaken chan b s = if (field b 3 1).testBit 0 then s.setFld ⟨rDrf_FLAG, f, f⟩ 0 else s := by
    rw [waitTaken, hf, hmod, hclear, if_neg (by simp [hk])]
  have hmv : moved (fun r => r = rDrf_FLAG) [.regs] s (waitTaken chan b s) := by
    rw [htaken]
    split
    · exact setFld_moved (P := fun r => r = rDrf_FLAG) _ rfl (by decide) s 0
    · exact .refl _ _ s
  have hbit (g : Nat) : ((waitTaken chan b s).reg rDrf_FLAG).getLsbD g =
      if g = f then !(field b 3 1).testBit 0 else (s.reg rDrf_FLAG).getLsbD g := by
    rw [htaken]
    by_cases h0 : (field b 3 1).testBit 0 = true
    · rw [if_pos h0, getLsbD_setFld_bit s _ 0 h32, h0]
      rfl
    · rw [if_neg h0]
      by_cases hg : g = f
      · rw [if_pos hg, hg, hflag]
        simpa using h0
      · rw [if_neg hg]
  obtain ⟨hstate, hpc, hreg, hdc, hr, hp⟩ := waitDone_effect chan b (fun _ => .inl) hmv
  refine ⟨_, exec_draftWaitDone h (by rw [hholds]; rfl), hstate, hpc, ?_, fun g hg => ?_, hdc, hr, hp⟩
  · rw [hreg _ (.inl rfl), hbit, if_pos rfl]
  · rw [hreg _ (.inl rfl), hbit, if_neg hg]

theorem waitOther_claim (hc : chan < 32) (h : s.dcWait chan = some b)
    (hw : field b 1 1 = 2 ∨ field b 1 1 = 0 ∧ (s.dc chan).hit = true ∨ field b 1 1 = 3 ∧ (s.reg rDrf_SHFLAG).getLsbD chan = true) :
    ∃ t, exec (.draftWaitDone chan) s = .next t ∧ t.fld (fDrf_DC_STAT_STATE chan) = 1 ∧ t.dcPc chan = (s.dcPc chan + 1) % 4096 ∧
      (t.reg rDrf_SHFLAG).getLsbD chan = ((s.reg rDrf_SHFLAG).getLsbD chan && field b 1 1 != 3) ∧ (∀ d, d ≠ chan → t.dc d = s.dc d) ∧
      onlyRegs (fun r => r = rDrf_DC_STAT chan ∨ r = rDrf_STAT ∨ r = rDrf_SHFLAG) s t ∧ onlyParts [.drf, .regs] s t := by
  have hne : field b 1 1 ≠ 1 := by omega
  have hholds : (s.waitHolds chan b || field b 1 1 == 2) = true := by
    obtain hk | ⟨hk, hhit⟩ | ⟨hk, hflag⟩ := hw
    · simp [hk]
    · rw [State.waitHolds, if_pos hk, hhit]
      rfl
    · rw [State.waitHolds, if_neg (by simp [hk]), if_neg hne, if_neg (by simp [hk]), hflag]
      rfl
  have hclear : waitsClear (field b 2 1) b = false := by simp [waitsClear, hne]
  have htaken : waitTaken chan b s = if field b 1 1 = 3 then s.setFld ⟨rDrf_SHFLAG, chan, chan⟩ 0 else s := by
    rw [waitTaken, hclear, if_neg Bool.false_ne_true]
  have hmv : moved (fun r => r = rDrf_SHFLAG) [.regs] s (waitTaken chan b s) := by
    rw [htaken]
    split
    · exact setFld_moved (P := fun r => r = rDrf_SHFLAG) _ rfl (by decide) s 0
    · exact .refl _ _ s
  obtain ⟨hstate, hpc, hreg, hdc, hr, hp⟩ := waitDone_effect chan b (fun _ => .inr) hmv
  refine ⟨_, exec_draftWaitDone h hholds, hstate, hpc, ?_, hdc, hr, hp⟩
  rw [hreg _ (.inr rfl), htaken]
  by_cases h3 : field b 1 1 = 3
  · rw [if_pos h3, getLsbD_setFld_bit s _ 0 hc, if_pos rfl, h3]
    simp
  · rw [if_neg h3]
    simp [h3]

theorem waitTimeout_claim {h : Hdr} (hw : s.dcWait chan = some b) (hlim : field b 8 4 ≠ 0) (hnot : s.waitHolds chan b = false)
    (hl : (s.dc chan).lastHost = none) (hh : (s.dc chan).hdr = some h) (hab : (s.dc chan).abort = none) (hq : h.qp < 256)
    (hb : s.bme (s.ownerOf h.qp) = true) : ∃ t, exec (.draftWaitTimeout chan) s = .next t ∧ t.dc chan = {} ∧ t.fld (fDrf_DC_STAT_STATE chan) = 0 ∧
      completed (answerRec { h with irq := true } eTimeout (draftRecord chan ⟨eTimeout, 0, s.dcResidue chan, 0, s.tb⟩ (s.dcPc chan)
        (s.dc chan).stack.length (s.dc chan).bytes ((s.dc chan).stack.reverse.map (·.cnt)) s)) s t ∧
      (∀ d, d ≠ chan → t.dc d = s.dc d) ∧
      onlyRegs (fun r => r = rDrf_DC_STAT chan ∨ r = rDrf_STAT ∨ r.blk = .ck ∨ complReg r) s t ∧ onlyParts [.drf, .qps, .regs, .out] s t := by
  obtain ⟨hself, hstate, hc, hother, hr, hp⟩ := finishDraft_completes (e := ⟨eTimeout, 0, s.dcResidue chan, 0, s.tb⟩) hh hab hq hb
  have hirq : (h.irq || eTimeout != eOk) = true := Bool.or_true _
  refine ⟨_, ?_, hself, hstate, ?_, hother, hr, hp⟩
  · show execDraftWaitTimeout chan s = _
    rw [execDraftWaitTimeout, hw]
    dsimp only
    rw [if_neg (by simp [hlim, hnot]), failDraft, endDraft_noHost hl]
  · dsimp only at hc
    rw [hirq] at hc
    exact hc

end

/-- Settles O39: by what each instruction sets in its channel, and what a WAIT that holds takes. -/
theorem draftInstructions : Obligations.DraftInstructions := by
  unfold Obligations.DraftInstructions
  exact ⟨fun _ _ _ h h6 hok => exec_move h h6 hok, fun _ _ _ h hok => exec_fill h hok,
    fun _ _ _ h hnew hc hlen => loopNew_claim h hnew hc hlen, fun _ _ _ _ _ h hst hs hc => loopAgain_claim h hst hs hc,
    fun _ _ _ _ _ h hst hs hc hlen => loopOut_claim h hst hs hc hlen, fun _ _ _ h hk hf => signalFlag_claim h hk hf,
    fun _ _ _ h hk h4 h95 htest hroom _ => signalShuttle_claim h hk h4 h95 htest hroom, fun _ _ _ h hk hok hb => signalHost_claim h hk hok hb,
    fun _ _ _ _ h => draftWait_claim h, fun _ _ _ _ _ h hk hf h32 hflag hfirst => waitFlag_claim h hk hf h32 hflag hfirst,
    fun _ _ _ hc h hw => waitOther_claim hc h hw, fun _ _ _ _ _ hw hlim hnot hl hh hab _ hq hb => waitTimeout_claim hw hlim hnot hl hh hab hq hb⟩

end Sys2Proof.Machine

end

section
/-! PROOFS. Bursts and the ends of drafts (R397-R402, R405): what settles O40. -/

-- The checked text is one long file: elaborating these in order bounds its threads and memory.
set_option Elab.async false

namespace Sys2Proof.Machine

/-! ## A burst -/

/-- The device with the turn of channel `d` noted (R399). -/
def burstTurn (d : Nat) (s : State) : State := { s with drf := { s.drf with rr := Tab.set s.drf.rr (s.fld (fDrf_DC_STAT_PRI d)) d } }

theorem burstTurn_onlyParts (d : Nat) (s : State) : onlyParts [.drf] s (burstTurn d s) := by
  intro p hp
  cases p <;> simp_all [Part.same, burstTurn]

theorem dc_burstTurn (d e : Nat) (s : State) : (burstTurn d s).dc e = s.dc e := rfl

theorem burstLen_burstTurn (d : Nat) (x : DraftXfer) (s : State) : (burstTurn d s).burstLen x = s.burstLen x := rfl

theorem rangeAt_burstTurn (w : Bool) (a pos n d : Nat) (s : State) : rangeAt w a pos n (burstTurn d s) = rangeAt w a pos n s := by
  unfold rangeAt
  split <;> rfl

theorem burstChecks_burstTurn (d : Nat) (x : DraftXfer) (n : Nat) (s : State) : burstChecks d x n (burstTurn d s) = burstChecks d x n s := by
  have hsn : (burstTurn d s).snooper d = s.snooper d := rfl
  rw [burstChecks, burstChecks, rangeAt_burstTurn, hsn]
  cases x.src with
  | none => rfl
  | some a =>
    dsimp only
    rw [rangeAt_burstTurn]

theorem exec_burstIssue {ready : List Nat} {src : BurstRead} {d : Nat} {x : DraftXfer} {s : State} (hp : pickBurst ready s = some d)
    (hx : (s.dc d).xfer = some x) : exec (.burstIssue ready src) s = .next (burst d x src.host src.par (burstTurn d s)) := by
  show execBurstIssue ready src s = _
  rw [execBurstIssue, hp]
  dsimp only
  rw [hx]
  rfl

/-- A burst of a transfer that goes on takes at least one byte. -/
theorem burstLen_pos {x : DraftXfer} {s : State} (h : x.pos + s.burstLen x < x.len) : 0 < s.burstLen x := by
  by_contra h0
  have hz : s.burstLen x = 0 := by omega
  have hroom (a : Nat) : 0 < 4096 - (a + x.pos) % 4096 := by
    have := Nat.mod_lt (a + x.pos) (show 0 < 4096 by decide)
    omega
  have hmost : 0 < (if (dSpace x.dst == 0) = true then min 512 (128 * 2 ^ min 2 s.host.cfg.maxPay)
      else if (x.src.any fun a => dSpace a == 0) = true then s.readMost else 4096) := by
    have hpow : 0 < 2 ^ min 2 s.host.cfg.maxPay := Nat.pow_pos (by decide)
    have hread : 0 < s.readMost := by
      unfold State.readMost
      exact lt_min (by decide) (Nat.mul_pos (by decide) (Nat.pow_pos (by decide)))
    split
    · exact lt_min (by decide) (Nat.mul_pos (by decide) hpow)
    · split
      · exact hread
      · decide
  have hsrc : 0 < (x.src.map fun a => 4096 - (a + x.pos) % 4096).getD 4096 := by
    cases x.src with
    | none => exact (by decide : 0 < 4096)
    | some a => exact hroom a
  have hpos : 0 < s.burstLen x := lt_min (lt_min hmost (by omega)) (lt_min (hroom _) hsrc)
  omega

/-- What a burst to host memory reads: the pattern of a FILL, or the host's bytes. -/
theorem burstRead_host {d : Nat} {x : DraftXfer} (n : Nat) (host : List Byte) (par : Bool) {s : State}
    (hsrc : x.src = none ∨ ∃ a, x.src = some a ∧ dSpace a = 0 ∧ s.snooper d = none) :
    ∃ l u, burstRead d x n host par s = (l, false, u) ∧ l.length = n ∧ (x.src = none → l = List.replicate n (BitVec.ofNat 8 x.pattern)) ∧
      (x.src ≠ none → l = padTo n (host.take n)) ∧ onlyParts [.out] s u ∧ (x.src = none ∨ u.snooper d = none) := by
  obtain h | ⟨a, h, ha, hsn⟩ := hsrc
  · refine ⟨List.replicate n (BitVec.ofNat 8 x.pattern), s, ?_, List.length_replicate, fun _ => rfl, fun hn => absurd h hn, .refl _ s, .inl h⟩
    rw [burstRead, h]
  · refine ⟨padTo n (host.take n), s.emit (.hostRead 0 (s.busAddr a + x.pos) n), ?_, ?_, fun hn => ?_, fun _ => rfl, emit_onlyParts s _, .inr hsn⟩
    · rw [burstRead, h]
      dsimp only
      rw [if_pos ha]
    · rw [padTo, List.length_append, List.length_replicate, List.length_take]
      omega
    · rw [h] at hn
      cases hn

/-- A burst of a draft to host memory, with the bytes `l`. -/
def hostPut (d : Nat) (x : DraftXfer) (l : List Byte) (s : State) : State :=
  (((s.emit (.hostWrite (s.busAddr x.dst + x.pos) l)).modDc d fun c => { c with lastHost := some (s.busAddr x.dst + x.pos + l.length - 4) }).modDc d
    fun c => { c with bytes := c.bytes + l.length }).modDc d ({ · with xfer := some { x with pos := x.pos + l.length } })

theorem hostPut_effect (d : Nat) (x : DraftXfer) (l : List Byte) (s : State) : let t := hostPut d x l s
    .hostWrite (s.busAddr x.dst + x.pos) l ∈ t.host.out ∧ t.dc d = { s.dc d with
      lastHost := some (s.busAddr x.dst + x.pos + l.length - 4), bytes := (s.dc d).bytes + l.length,
      xfer := some { x with pos := x.pos + l.length } } ∧ (∀ e, e ≠ d → t.dc e = s.dc e) ∧ onlyParts [.drf, .out] s t := by
  refine ⟨List.mem_cons_self, ?_, fun e he => ?_, ?_⟩
  · simp only [hostPut, State.modDc, State.dc_setDc_self]
    rfl
  · simp only [hostPut, State.modDc, State.dc_setDc_ne _ _ he]
    rfl
  · exact ((((emit_onlyParts s _).mono (by decide)).trans ((modDc_onlyParts d _ _).mono (by decide))).trans
      ((modDc_onlyParts d _ _).mono (by decide))).trans ((modDc_onlyParts d _ _).mono (by decide))

theorem burst_host {d : Nat} {x : DraftXfer} (host : List Byte) (par : Bool) {s : State} (hok : rowFail (burstChecks d x (s.burstLen x) s) = none)
    (hdst : dSpace x.dst = 0) (hcks : x.cks = false) (hmore : x.pos + s.burstLen x < x.len)
    (hsrc : x.src = none ∨ ∃ a, x.src = some a ∧ dSpace a = 0 ∧ s.snooper d = none) :
    ∃ l u, burst d x host par s = hostPut d x l u ∧ onlyParts [.out] s u ∧ l.length = s.burstLen x ∧
      (x.src = none → l = List.replicate (s.burstLen x) (BitVec.ofNat 8 x.pattern)) ∧
      (x.src ≠ none → l = padTo (s.burstLen x) (host.take (s.burstLen x))) := by
  obtain ⟨l, u, hread, hlen, hfill, hmove, hup, hsn⟩ := burstRead_host (s.burstLen x) host par hsrc
  have hpos := burstLen_pos hmore
  have hne : l.isEmpty = false := by
    cases l with
    | nil => rw [List.length_nil] at hlen; omega
    | cons _ _ => rfl
  have hbody : x.body (s.snoopWidth d) = x.len := by rw [DraftXfer.body, hcks, if_neg Bool.false_ne_true]
  have htake : l.take (x.len - x.pos) = l := List.take_of_length_le (by omega)
  have hdrop : l.drop (x.len - x.pos) = [] := List.drop_of_length_le (by omega)
  refine ⟨l, u, ?_, hup, hlen, hfill, hmove⟩
  unfold burst
  dsimp only
  rw [hread]
  dsimp only
  rw [hok]
  dsimp only
  rw [if_neg Bool.false_ne_true, hbody, htake, hdrop, List.append_nil, if_neg (by omega)]
  have hfeed : (match x.src, u.snooper d with | some _, some m => ckFeed m l u | _, _ => u) = u := by
    obtain h | h := hsn <;> rw [h]
    cases x.src <;> rfl
  have hput (v : State) : draftPut d x.dst x.pos l v =
      ((v.emit (.hostWrite (v.busAddr x.dst + x.pos) l)).modDc d fun c => { c with lastHost := some (v.busAddr x.dst + x.pos + l.length - 4) }).modDc d
        fun c => { c with bytes := c.bytes + l.length } := by
    rw [draftPut, hne, if_neg Bool.false_ne_true, if_pos hdst]
  rw [hostPut, ← hput, hlen]
  refine congrArg (fun v => (draftPut d x.dst x.pos l v).modDc d ({ · with xfer := some { x with pos := x.pos + s.burstLen x } })) ?_
  exact hfeed

theorem burstToHost_claim {d : Nat} {ready : List Nat} (host : List Byte) (par : Bool) {x : DraftXfer} {s : State} (hp : pickBurst ready s = some d)
    (hx : (s.dc d).xfer = some x) (hok : rowFail (burstChecks d x (s.burstLen x) s) = none) (hdst : dSpace x.dst = 0) (hcks : x.cks = false)
    (hmore : x.pos + s.burstLen x < x.len) (hsrc : x.src = none ∨ ∃ a, x.src = some a ∧ dSpace a = 0 ∧ s.snooper d = none) :
    ∃ t l, exec (.burstIssue ready ⟨host, par⟩) s = .next t ∧ l.length = s.burstLen x ∧
      (x.src = none → l = List.replicate (s.burstLen x) (BitVec.ofNat 8 x.pattern)) ∧ (x.src ≠ none → l = padTo (s.burstLen x) (host.take (s.burstLen x))) ∧
      .hostWrite (s.busAddr x.dst + x.pos) l ∈ t.host.out ∧
      (t.dc d).xfer = some { x with pos := x.pos + s.burstLen x } ∧ (t.dc d).bytes = (s.dc d).bytes + s.burstLen x ∧
      (t.dc d).lastHost = some (s.busAddr x.dst + x.pos + s.burstLen x - 4) ∧ (t.dc d).stack = (s.dc d).stack ∧
      (∀ e, e ≠ d → t.dc e = s.dc e) ∧ onlyParts [.drf, .out] s t := by
  obtain ⟨l, u, hburst, hup, hlen, hfill, hmove⟩ := burst_host (s := burstTurn d s) host par
    (by rw [burstLen_burstTurn, burstChecks_burstTurn]; exact hok) hdst hcks hmore hsrc
  rw [burstLen_burstTurn] at hlen hfill hmove
  obtain ⟨hout, hself, hother, hpp⟩ := hostPut_effect d x l u
  have hturn := burstTurn_onlyParts d s
  have hdc (e : Nat) : u.dc e = s.dc e := (State.dc_congr (hup .drf (by decide)) e).trans (dc_burstTurn d e s)
  have hbus : u.busAddr x.dst = s.busAddr x.dst := by
    have hr : u.regs = s.regs := (hup .regs (by decide)).trans (hturn .regs (by decide))
    simp only [State.busAddr, State.fld_congr hr]
  rw [hbus] at hout
  rw [hbus, hlen, hdc] at hself
  refine ⟨hostPut d x l u, l, (exec_burstIssue hp hx).trans (congrArg _ hburst), hlen, hfill, hmove, hout, ?_, ?_, ?_, ?_,
    fun e he => (hother e he).trans (hdc e), (hturn.mono (by decide)).trans ((hup.mono (by decide)).trans hpp)⟩ <;> rw [hself]

/-! ## Drafts that end -/

/-- What the end of a draft by `e` leaves, with its record. -/
theorem draftEnds {d : Nat} {e : DraftEnd} {h : Hdr} {s : State} (hh : (s.dc d).hdr = some h) (ha : (s.dc d).abort = none) (hq : h.qp < 256)
    (hb : s.bme (s.ownerOf h.qp) = true) : let t := finishDraft d e s
    t.dc d = {} ∧ t.fld (fDrf_DC_STAT_STATE d) = 0 ∧
      completed (answerRec { h with irq := h.irq || e.status != eOk } e.status (draftRecord d e (s.dcPc d) (s.dc d).stack.length (s.dc d).bytes
        ((s.dc d).stack.reverse.map (·.cnt)) s)) s t ∧ (∀ f, f ≠ d → t.dc f = s.dc f) ∧
      onlyRegs (fun r => r = rDrf_DC_STAT d ∨ r = rDrf_STAT ∨ r.blk = .ck ∨ complReg r) s t ∧ onlyParts [.drf, .qps, .regs, .out] s t :=
  finishDraft_completes hh ha hq hb

theorem burstParity_claim {d a : Nat} {h : Hdr} {ready : List Nat} (host : List Byte) {x : DraftXfer} {s : State} (hp : pickBurst ready s = some d)
    (hx : (s.dc d).xfer = some x) (hok : rowFail (burstChecks d x (s.burstLen x) s) = none) (hsrc : x.src = some a) (ha : dSpace a = 2)
    (hh : (s.dc d).hdr = some h) (hab : (s.dc d).abort = none) (hl : (s.dc d).lastHost = none) (hq : h.qp < 256) (hb : s.bme (s.ownerOf h.qp) = true) :
    ∃ t, exec (.burstIssue ready ⟨host, true⟩) s = .next t ∧ t.dc d = {} ∧ t.fld (fDrf_DC_STAT_STATE d) = 0 ∧
      completed (answerRec { h with irq := true } eMedia (draftRecord d ⟨eMedia, 0, x.len - x.pos - s.burstLen x, s.burstLen x, s.tb⟩ (s.dcPc d)
        (s.dc d).stack.length (s.dc d).bytes ((s.dc d).stack.reverse.map (·.cnt)) s)) s t ∧ (∀ e, e ≠ d → t.dc e = s.dc e) ∧
      onlyRegs (fun r => r = rDrf_DC_STAT d ∨ r = rDrf_STAT ∨ r.blk = .ck ∨ complReg r) s t ∧ onlyParts [.drf, .qps, .regs, .out] s t := by
  obtain ⟨u, hu⟩ : ∃ u, u = burstTurn d s := ⟨_, rfl⟩
  have hup : onlyParts [.drf] s u := by rw [hu]; exact burstTurn_onlyParts d s
  have hur (r : RegId) : u.reg r = s.reg r := State.reg_congr (hup .regs (by decide)) r
  have hudc (e : Nat) : u.dc e = s.dc e := by rw [hu]; rfl
  have hun : u.burstLen x = s.burstLen x := by rw [hu, burstLen_burstTurn]
  have huok : rowFail (burstChecks d x (u.burstLen x) u) = none := by rw [hun, hu, burstChecks_burstTurn]; exact hok
  obtain ⟨e, he⟩ : ∃ e : DraftEnd, e = ⟨eMedia, 0, x.len - x.pos - s.burstLen x, s.burstLen x, s.tb⟩ := ⟨_, rfl⟩
  have hub : u.bme (u.ownerOf h.qp) = true := by
    rwa [State.ownerOf_congr (fun _ => hur _), State.bme, hup .bme (by decide)]
  obtain ⟨hself, hstate, hc, hother, hr, hpar⟩ := draftEnds (e := e) ((congrArg DraftCh.hdr (hudc d)).trans hh)
    ((congrArg DraftCh.abort (hudc d)).trans hab) hq hub
  have hpc : u.dcPc d = s.dcPc d := State.fld_congr (hup .regs (by decide)) _
  rw [hpc, hudc, draftRecord_congr (hup .ck (by decide)) fun _ => hur _] at hc
  have hirq : (h.irq || e.status != eOk) = true := by rw [he]; exact Bool.or_true _
  have hest : e.status = eMedia := by rw [he]
  rw [hirq, hest] at hc
  rw [← he]
  refine ⟨finishDraft d e u, ?_, hself, hstate, completed_congr hc fun _ => hur _, fun f hf => (hother f hf).trans (hudc f),
    (hup.onlyRegs_of_regs (by decide) _).trans hr, (hup.mono (by decide)).trans hpar⟩
  have hread : burstRead d x (u.burstLen x) host true u = (shBytes (a + x.pos) (u.burstLen x) u, true, u) := by
    rw [burstRead, hsrc]
    dsimp only
    rw [if_neg (by rw [ha]; decide), if_neg (by rw [ha]; decide)]
  rw [exec_burstIssue hp hx, ← hu]
  unfold burst
  dsimp only
  rw [hread]
  dsimp only
  rw [huok]
  dsimp only
  rw [if_pos rfl, endDraft_noHost ((congrArg DraftCh.lastHost (hudc d)).trans hl), hun, hup .tb (by decide), ← he]

theorem end_claim {chan : Nat} {h : Hdr} {b : List Byte} {s : State} (hsl : s.dcSlot chan 6 = some b) (hh : (s.dc chan).hdr = some h)
    (hab : (s.dc chan).abort = none) (hl : (s.dc chan).lastHost = none) (hq : h.qp < 256) (hb : s.bme (s.ownerOf h.qp) = true) :
    ∃ t, exec (.end_ chan) s = .next t ∧ t.dc chan = {} ∧ t.fld (fDrf_DC_STAT_STATE chan) = 0 ∧
      completed (answerRec h eOk (draftRecord chan ⟨eOk, 0, 0, 0, s.tb⟩ (s.dcPc chan) (s.dc chan).stack.length (s.dc chan).bytes
        ((s.dc chan).stack.reverse.map (·.cnt)) s)) s t ∧ (∀ d, d ≠ chan → t.dc d = s.dc d) ∧
      onlyRegs (fun r => r = rDrf_DC_STAT chan ∨ r = rDrf_STAT ∨ r.blk = .ck ∨ complReg r) s t ∧ onlyParts [.drf, .qps, .regs, .out] s t := by
  obtain ⟨hself, hstate, hc, hother, hr, hp⟩ := draftEnds (e := ⟨eOk, 0, 0, 0, s.tb⟩) hh hab hq hb
  have hirq : (h.irq || eOk != eOk) = h.irq := by rw [bne_self_eq_false, Bool.or_false]
  dsimp only at hc
  rw [hirq] at hc
  refine ⟨_, ?_, hself, hstate, hc, hother, hr, hp⟩
  show execEnd chan s = _
  rw [execEnd, hsl]
  dsimp only
  rw [endDraft_noHost hl]

theorem askReadback_effect (d a : Nat) (s : State) : let t := askReadback d a s
    t.host.out = (if s.bme 0 then [.hostRead 0 a 4] else []) ++ s.host.out ∧ t.dc d = { s.dc d with rbWaits := !s.bme 0 } ∧
      (∀ e, e ≠ d → t.dc e = s.dc e) ∧ onlyParts [.drf, .out] s t := by
  have hm (w : Bool) := modDc_onlyParts d ({ · with rbWaits := w }) s
  by_cases hb : s.bme 0 = true
  · have hdef : askReadback d a s = (s.modDc d ({ · with rbWaits := false })).emit (.hostRead 0 a 4) := by rw [askReadback, if_pos hb]
    simp only [hdef, hb]
    exact ⟨rfl, State.dc_setDc_self s d _, fun e he => State.dc_setDc_ne s _ he,
      ((hm false).mono (by decide)).trans ((emit_onlyParts _ _).mono (by decide))⟩
  · have hb' : s.bme 0 = false := by simpa using hb
    have hdef : askReadback d a s = s.modDc d ({ · with rbWaits := true }) := by rw [askReadback, if_neg hb]
    simp only [hdef, hb']
    exact ⟨rfl, State.dc_setDc_self s d _, fun e he => State.dc_setDc_ne s _ he, (hm true).mono (by decide)⟩

theorem endDraft_readsBack {d a : Nat} {s : State} (h : (s.dc d).lastHost = some a) (st fl res unw : Nat) :
    endDraft d st fl res unw true s = askReadback d a (setDcState d 3 (s.setDc d { s.dc d with ended := some ⟨st, fl, res, unw, s.tb⟩ })) := by
  unfold endDraft
  dsimp only
  split
  · next a' h' =>
    obtain rfl : a' = a := Option.some.inj (h'.symm.trans h)
    exact if_pos rfl
  · next h' =>
    rw [h] at h'
    cases h'

theorem endReadsBack_claim {chan a : Nat} {b : List Byte} {s : State} (hsl : s.dcSlot chan 6 = some b) (hl : (s.dc chan).lastHost = some a) :
    ∃ t, exec (.end_ chan) s = .next t ∧ t.host.out = (if s.bme 0 then [.hostRead 0 a 4] else []) ++ s.host.out ∧
      t.fld (fDrf_DC_STAT_STATE chan) = 3 ∧ t.dc chan = { s.dc chan with ended := some ⟨eOk, 0, 0, 0, s.tb⟩, rbWaits := !s.bme 0 } ∧ (∀ d, d ≠ chan → t.dc d = s.dc d) ∧
      onlyRegs (fun r => r = rDrf_DC_STAT chan ∨ r = rDrf_STAT) s t ∧ onlyParts [.drf, .regs, .out] s t := by
  obtain ⟨u, hu⟩ : ∃ u, u = s.setDc chan { s.dc chan with ended := some ⟨eOk, 0, 0, 0, s.tb⟩ } := ⟨_, rfl⟩
  have hup : onlyParts [.drf] s u := by rw [hu]; exact setDc_onlyParts s chan _
  have hus : u.dc chan = { s.dc chan with ended := some ⟨eOk, 0, 0, 0, s.tb⟩ } := by rw [hu, State.dc_setDc_self]
  have huo (d : Nat) (hd : d ≠ chan) : u.dc d = s.dc d := by rw [hu, State.dc_setDc_ne _ _ hd]
  obtain ⟨hstate, -, hm⟩ := setDcState_effect chan (v := 3) (by decide) u
  obtain ⟨w, hw⟩ : ∃ w, w = setDcState chan 3 u := ⟨_, rfl⟩
  rw [← hw] at hstate hm
  obtain ⟨hout, hself, hother, hp⟩ := askReadback_effect chan a w
  have hwdc (d : Nat) : w.dc d = u.dc d := State.dc_congr (hm.2 .drf (by decide)) d
  have hwb : w.bme 0 = s.bme 0 := by rw [State.bme, hm.2 .bme (by decide), hup .bme (by decide), State.bme]
  have hwo : w.host.out = s.host.out := (hm.2 .out (by decide)).trans (hup .out (by decide))
  rw [hwb, hwo] at hout
  rw [hwb, hwdc, hus] at hself
  refine ⟨askReadback chan a w, ?_, hout, (State.fld_congr (hp .regs (by decide)) _).trans hstate, hself,
    fun d hd => (hother d hd).trans ((hwdc d).trans (huo d hd)),
    ((hup.onlyRegs_of_regs (by decide) _).trans hm.1).trans (hp.onlyRegs_of_regs (by decide) _),
    ((hup.mono (by decide)).trans (hm.2.mono (by decide))).trans (hp.mono (by decide))⟩
  show execEnd chan s = _
  rw [execEnd, hsl]
  dsimp only
  rw [endDraft_readsBack hl, hw, hu]

theorem readbackDone_claim {chan : Nat} {h : Hdr} {e : DraftEnd} {s : State} (he : (s.dc chan).ended = some e) (hw : (s.dc chan).rbWaits = false)
    (hh : (s.dc chan).hdr = some h) (hab : (s.dc chan).abort = none) (hq : h.qp < 256) (hb : s.bme (s.ownerOf h.qp) = true) :
    ∃ t, exec (.readbackDone chan true) s = .next t ∧ t.dc chan = {} ∧ t.fld (fDrf_DC_STAT_STATE chan) = 0 ∧
      completed (answerRec { h with irq := h.irq || e.status != eOk } e.status (draftRecord chan e (s.dcPc chan) (s.dc chan).stack.length
        (s.dc chan).bytes ((s.dc chan).stack.reverse.map (·.cnt)) s)) s t ∧ (∀ d, d ≠ chan → t.dc d = s.dc d) ∧
      onlyRegs (fun r => r = rDrf_DC_STAT chan ∨ r = rDrf_STAT ∨ r.blk = .ck ∨ complReg r) s t ∧ onlyParts [.drf, .qps, .regs, .out] s t := by
  refine ⟨_, ?_, draftEnds (e := e) hh hab hq hb⟩
  show execReadbackDone chan true s = _
  rw [execReadbackDone, he]
  dsimp only
  rw [hw, if_neg Bool.false_ne_true, if_pos rfl]

/-! ## A bus error stops the engine (R405) -/

/-- The engine stops one channel, where it runs. -/
def stopChannel (a : State) (d : Nat) : State :=
  if a.dcRuns d then endDraft d eBus dfEngineStop (a.dcResidue d) 0 false a else a

/-- The registers in which the ends of drafts show. -/
def draftsReg (r : RegId) : Prop := r.blk = .drf ∧ (r.off = 4 ∨ 0x200 ≤ r.off) ∨ r.blk = .ck ∨ complReg r

/-- The parts in which they do. -/
abbrev draftsParts : List Part := [.drf, .qps, .held, .regs, .out]

theorem draftsReg_of {d : Nat} {r : RegId} (h : draftReg d r ∨ complReg r) : draftsReg r := by
  obtain (h | h | h) | h := h
  · rw [h]; exact .inl ⟨rfl, .inr (by simp)⟩
  · rw [h]; exact .inl ⟨rfl, .inl rfl⟩
  · exact .inr (.inl h)
  · exact .inr (.inr h)

/-- A channel that has come to rest. -/
def dcIdle (s : State) (d : Nat) : Prop := s.fld (fDrf_DC_STAT_STATE d) = 0 ∧ s.dc d = {}

theorem dcIdle_stopped {s : State} {d : Nat} (h : dcIdle s d) : s.dcRuns d = false := by
  simp [State.dcRuns, h.1]

theorem stopChannel_effect (s : State) (d : Nat) : let t := stopChannel s d
    (s.dcRuns d = true → dcIdle t d) ∧ (∀ e, e ≠ d ∨ s.dcRuns e = false → t.dc e = s.dc e ∧ t.fld (fDrf_DC_STAT_STATE e) = s.fld (fDrf_DC_STAT_STATE e)) ∧
      moved draftsReg draftsParts s t ∧ outsKept s t := by
  by_cases hr : s.dcRuns d = true
  · obtain ⟨hself, hother, hstate, hm, hk⟩ := finishDraft_effect d ⟨eBus, dfEngineStop, s.dcResidue d, 0, s.tb⟩ s
    have hdef : stopChannel s d = finishDraft d ⟨eBus, dfEngineStop, s.dcResidue d, 0, s.tb⟩ s := by rw [stopChannel, if_pos hr, endDraft_noReadback]
    simp only [hdef]
    refine ⟨fun _ => ⟨hstate, hself⟩, fun e he => ?_, hm.mono (fun _ => draftsReg_of) fun _ => id, hk⟩
    have hne : e ≠ d := he.elim id fun h hed => by rw [hed, hr] at h; cases h
    refine ⟨hother e hne, hm.1.fld ?_⟩
    rintro ((h | h | h) | h)
    · exact dcStat_ne hne h
    · exact dcStat_ne_stat e h
    · cases h
    · simp [complReg] at h
  · have hdef : stopChannel s d = s := by rw [stopChannel, if_neg hr]
    simp only [hdef]
    exact ⟨fun h => absurd h hr, fun _ _ => ⟨trivial, trivial⟩, .refl _ _ s, fun _ h => h⟩

/-- Every channel of `l` that runs stops. -/
theorem stopChannels_effect (l : List Nat) (s : State) : let t := l.foldl stopChannel s
    (∀ d, d ∈ l ∧ s.dcRuns d = true ∨ dcIdle s d → dcIdle t d) ∧ (∀ d, s.dcRuns d = false → t.dc d = s.dc d) ∧
      ((∀ d ∈ l, s.dcRuns d = false) → t = s) ∧ moved draftsReg draftsParts s t ∧ outsKept s t := by
  induction l generalizing s with
  | nil => exact ⟨fun d h => h.resolve_left fun h => absurd h.1 List.not_mem_nil, fun _ _ => rfl, fun _ => rfl, .refl _ _ s, fun _ h => h⟩
  | cons e l ih =>
    obtain ⟨hself, hother, hm, hk⟩ := stopChannel_effect s e
    obtain ⟨hidle, hkeep, hnone, hm', hk'⟩ := ih (stopChannel s e)
    rw [List.foldl_cons]
    have hruns (d : Nat) (h : d ≠ e ∨ s.dcRuns d = false) : (stopChannel s e).dcRuns d = s.dcRuns d := by
      rw [State.dcRuns, (hother d h).2, State.dcRuns]
    refine ⟨fun d hd => hidle d ?_, fun d hd => ?_, fun hno => ?_, hm.trans hm', hk.trans hk'⟩
    · by_cases hde : d = e
      · subst hde
        by_cases hr : s.dcRuns d = true
        · exact .inr (hself hr)
        · have h := hd.resolve_left fun h => hr h.2
          obtain ⟨h1, h2⟩ := hother d (.inr (by simpa using hr))
          exact .inr ⟨h2.trans h.1, h1.trans h.2⟩
      · obtain ⟨h1, h2⟩ := hother d (.inl hde)
        exact hd.imp (fun h => ⟨(List.mem_cons.1 h.1).resolve_left hde, (hruns d (.inl hde)).trans h.2⟩) fun h => ⟨h2.trans h.1, h1.trans h.2⟩
    · exact (hkeep d ((hruns d (.inr hd)).trans hd)).trans (hother d (.inr hd)).1
    · have hfirst : stopChannel s e = s := by rw [stopChannel, if_neg (by rw [hno e List.mem_cons_self]; exact Bool.false_ne_true)]
      rw [hnone fun d hd => by rw [hfirst]; exact hno d (List.mem_cons_of_mem e hd), hfirst]

/-- The registers of the engine that a bus error sets. -/
def busStopReg (r : RegId) : Prop := r = rDrf_STAT ∨ r = rDrf_ERR_ADDR_LO ∨ r = rDrf_ERR_ADDR_HI ∨ r = rDrf_EVENT ∨ noteReg r

/-- The engine shows that it has stopped at `addr`. -/
def stopShown (addr : Nat) (s : State) : State :=
  raise_ fDrf_EVENT_BUS_STOP ((s.setFld fDrf_STAT_STOPPED 1).setPair rDrf_ERR_ADDR_LO rDrf_ERR_ADDR_HI addr)

theorem stopEngine_eq (addr : Nat) (s : State) : stopEngine addr s = stopShown addr ((List.range 32).foldl stopChannel s) := rfl

theorem stopShown_effect {addr : Nat} (ha : addr < 2 ^ 64) (s : State) : let t := stopShown addr s
    t.on fDrf_STAT_STOPPED = true ∧ t.pair rDrf_ERR_ADDR_LO rDrf_ERR_ADDR_HI = addr ∧ t.on fDrf_EVENT_BUS_STOP = true ∧ outsKept s t ∧
      moved busStopReg [.rings, .regs, .out] s t := by
  obtain ⟨a, had⟩ : ∃ a, a = s.setFld fDrf_STAT_STOPPED 1 := ⟨_, rfl⟩
  have har : onlyRegs (fun r => r = rDrf_STAT) s a := by rw [had]; exact setFld_onlyReg s _ _ _ _
  have hap : onlyParts [.regs] s a := by rw [had]; exact setFld_onlyParts s _ _
  have has : a.fld fDrf_STAT_STOPPED = 1 := by rw [had]; exact State.fld_setFld_self_of_lt s _ (by decide) (by decide)
  obtain ⟨b, hbd⟩ : ∃ b, b = a.setPair rDrf_ERR_ADDR_LO rDrf_ERR_ADDR_HI addr := ⟨_, rfl⟩
  have hbr : onlyRegs (fun r => r = rDrf_ERR_ADDR_LO ∨ r = rDrf_ERR_ADDR_HI) a b := by rw [hbd]; exact setPair_onlyRegs a _ _ _
  have hbp : onlyParts [.regs] a b := by rw [hbd]; exact setPair_onlyParts a _ _ _
  have hbv : b.pair rDrf_ERR_ADDR_LO rDrf_ERR_ADDR_HI = addr := by rw [hbd]; exact State.pair_setPair a (by decide) ha
  have hdef : stopShown addr s = raise_ fDrf_EVENT_BUS_STOP b := by rw [hbd, had]; rfl
  have hrr := raise_onlyRegs fDrf_EVENT_BUS_STOP b
  simp only [hdef]
  refine ⟨bne_iff_ne.2 ?_, ?_, bne_iff_ne.2 ?_, ?_, ?_, ?_⟩
  · rw [fld_raise_ne _ _ Blk.noConfusion Blk.noConfusion (by decide), hbr.fld (by decide), has]
    decide
  · rw [State.pair, hrr _ (by simp [noteReg]), hrr _ (by simp [noteReg])]
    exact hbv
  · rw [raise_fld_self rDrf_EVENT b (by decide) ⟨Blk.noConfusion, Blk.noConfusion⟩]
    decide
  · exact (outsKept.of_same ((hbp .out (by decide)).trans (hap .out (by decide)))).trans (raise_outsKept _ b)
  · refine ((har.mono fun _ => .inl).trans (hbr.mono fun r h => ?_)).trans (hrr.mono fun r h => ?_)
    · exact h.elim (fun h => .inr (.inl h)) fun h => .inr (.inr (.inl h))
    · exact h.elim (fun h => .inr (.inr (.inr (.inl h)))) fun h => .inr (.inr (.inr (.inr h)))
  · exact ((hap.mono (by decide)).trans (hbp.mono (by decide))).trans ((raise_onlyParts _ b).mono (by decide))

theorem readFailed_onlyParts (s : State) : onlyParts [.free, .cfg] s (readFailed s) := by
  intro p hp
  cases p <;> simp_all [Part.same, readFailed, State.modCfg, State.tick]

theorem draftBusError_claim {chan addr : Nat} {h : Hdr} {x : DraftXfer} {s : State} (hc : chan < 32) (hrun : s.dcRuns chan = true)
    (hx : (s.dc chan).xfer = some x) (hdst : dSpace x.dst = 0) (hh : (s.dc chan).hdr = some h) (hab : (s.dc chan).abort = none) (hq : h.qp < 256)
    (hb : s.bme (s.ownerOf h.qp) = true) (haddr : addr < 2 ^ 64) :
    ∃ t, exec (.draftBusError chan addr) s = .next t ∧ t.on fDrf_STAT_STOPPED = true ∧ t.pair rDrf_ERR_ADDR_LO rDrf_ERR_ADDR_HI = addr ∧
      t.on fDrf_EVENT_BUS_STOP = true ∧ (∀ d, d < 32 → s.dcRuns d = true → t.fld (fDrf_DC_STAT_STATE d) = 0 ∧ t.dc d = {}) ∧
      (∀ d, d < 32 → s.dcRuns d = false → t.dc d = s.dc d) ∧
      ((∀ d, d < 32 → d ≠ chan → s.dcRuns d = false) →
        completed (answerRec { h with irq := true } eBus (draftRecord chan ⟨eBus, if x.len - x.pos - s.burstLen x = 0 then 3 else 2,
          x.len - x.pos - s.burstLen x, s.burstLen x, s.tb⟩ (s.dcPc chan) (s.dc chan).stack.length (s.dc chan).bytes
          ((s.dc chan).stack.reverse.map (·.cnt)) s)) s t) ∧
      onlyRegs (fun r => r.blk = .drf ∨ r.blk = .ck ∨ complReg r ∨ noteReg r) s t ∧
      onlyParts [.drf, .qps, .rings, .held, .free, .cfg, .regs, .out] s t := by
  obtain ⟨u, hu⟩ : ∃ u, u = readFailed s := ⟨_, rfl⟩
  have hup : onlyParts [.free, .cfg] s u := by rw [hu]; exact readFailed_onlyParts s
  have hur (r : RegId) : u.reg r = s.reg r := State.reg_congr (hup .regs (by decide)) r
  have hudc (d : Nat) : u.dc d = s.dc d := State.dc_congr (hup .drf (by decide)) d
  have hub : u.bme (u.ownerOf h.qp) = true := by rwa [State.ownerOf_congr (fun _ => hur _), State.bme, hup .bme (by decide)]
  obtain ⟨e, he⟩ : ∃ e : DraftEnd, e = ⟨eBus, if x.len - x.pos - s.burstLen x = 0 then 3 else 2, x.len - x.pos - s.burstLen x, s.burstLen x, s.tb⟩ :=
    ⟨_, rfl⟩
  obtain ⟨hself, hstate, hcm, hother, hr, hp⟩ := draftEnds (e := e) ((congrArg DraftCh.hdr (hudc chan)).trans hh)
    ((congrArg DraftCh.abort (hudc chan)).trans hab) hq hub
  obtain ⟨v, hv⟩ : ∃ v, v = finishDraft chan e u := ⟨_, rfl⟩
  rw [← hv] at hself hstate hcm hother hr hp
  have hpc : u.dcPc chan = s.dcPc chan := State.fld_congr (hup .regs (by decide)) _
  have hirq : (h.irq || e.status != eOk) = true := by rw [he]; exact Bool.or_true _
  have hest : e.status = eBus := by rw [he]
  rw [hpc, hudc, draftRecord_congr (hup .ck (by decide)) fun _ => hur _, hirq, hest] at hcm
  have hvruns (d : Nat) (hd : d ≠ chan) : v.dcRuns d = s.dcRuns d := by
    have hf : v.fld (fDrf_DC_STAT_STATE d) = s.fld (fDrf_DC_STAT_STATE d) := by
      refine (hr.fld ?_).trans (State.fld_congr (hup .regs (by decide)) _)
      rintro (h | h | h | h)
      · exact dcStat_ne hd h
      · exact dcStat_ne_stat d h
      · cases h
      · simp [complReg] at h
    rw [State.dcRuns, hf, State.dcRuns]
  have hvdc (d : Nat) (hd : d ≠ chan) : v.dc d = s.dc d := (hother d hd).trans (hudc d)
  have hvidle : dcIdle v chan := ⟨hstate, hself⟩
  obtain ⟨hidle, hkeep, hnone, hm, hk⟩ := stopChannels_effect (List.range 32) v
  obtain ⟨w, hw⟩ : ∃ w, w = (List.range 32).foldl stopChannel v := ⟨_, rfl⟩
  rw [← hw] at hidle hkeep hnone hm hk
  obtain ⟨hstop, hpair, hev, hok, hmv⟩ := stopShown_effect haddr w
  have hdrf (d : Nat) : (stopShown addr w).dc d = w.dc d := State.dc_congr (hmv.2 .drf (by decide)) d
  have hfld (d : Nat) : (stopShown addr w).fld (fDrf_DC_STAT_STATE d) = w.fld (fDrf_DC_STAT_STATE d) := by
    refine hmv.1.fld ?_
    rintro (h | h | h | h | h)
    · exact dcStat_ne_stat d h
    · simp only [RegId.mk.injEq, true_and] at h; omega
    · simp only [RegId.mk.injEq, true_and] at h; omega
    · simp only [RegId.mk.injEq, true_and] at h; omega
    · simp [noteReg] at h
  refine ⟨stopShown addr w, ?_, hstop, hpair, hev, fun d hd hrd => ?_, fun d hd hrd => ?_, fun hall => ?_, ?_, ?_⟩
  · have hon : x.onHost = true := by simp [DraftXfer.onHost, hdst]
    have hflag : dfEngineStop + (if x.len - x.pos - s.burstLen x = 0 then dfLastBeat else 0) = if x.len - x.pos - s.burstLen x = 0 then 3 else 2 := by
      split <;> rfl
    show execDraftBusError chan addr s = _
    rw [execDraftBusError, hx]
    dsimp only
    rw [if_neg (by simp [hrun, hon]), endDraft_noReadback, ← hu, hflag, hup .tb (by decide), ← he, ← hv, stopEngine_eq, ← hw]
  · have hid : dcIdle w d := hidle d (by
      by_cases hdc : d = chan
      · exact .inr (hdc ▸ hvidle)
      · exact .inl ⟨List.mem_range.2 hd, (hvruns d hdc).trans hrd⟩)
    exact ⟨(hfld d).trans hid.1, (hdrf d).trans hid.2⟩
  · have hdc : d ≠ chan := by rintro rfl; rw [hrun] at hrd; cases hrd
    exact (hdrf d).trans ((hkeep d ((hvruns d hdc).trans hrd)).trans (hvdc d hdc))
  · have hwv : w = v := hnone fun d hd => by
      by_cases hdc : d = chan
      · exact hdc ▸ dcIdle_stopped hvidle
      · exact (hvruns d hdc).trans (hall d (List.mem_range.1 hd) hdc)
    rw [← he]
    exact completed_mono (completed_congr hcm fun _ => hur _) fun o ho => hok o (hwv ▸ ho)
  · refine ((hup.onlyRegs_of_regs (by decide) _).trans (hr.mono fun r h => ?_)).trans ((hm.1.mono fun r h => ?_).trans (hmv.1.mono fun r h => ?_))
    · obtain h | h | h | h := h
      · exact .inl (by rw [h])
      · exact .inl (by rw [h])
      · exact .inr (.inl h)
      · exact .inr (.inr (.inl h))
    · obtain ⟨h, -⟩ | h | h := h
      · exact .inl h
      · exact .inr (.inl h)
      · exact .inr (.inr (.inl h))
    · obtain h | h | h | h | h := h
      · exact .inl (by rw [h])
      · exact .inl (by rw [h])
      · exact .inl (by rw [h])
      · exact .inl (by rw [h])
      · exact .inr (.inr (.inr h))
  · exact ((hup.mono (by decide)).trans (hp.mono (by decide))).trans ((hm.2.mono (by decide)).trans (hmv.2.mono (by decide)))

/-- Settles O40: by what a burst to host memory puts, and by the end of a draft, one after another where the engine stops. -/
theorem draftBurstsAndEnds : Obligations.DraftBurstsAndEnds := by
  unfold Obligations.DraftBurstsAndEnds
  exact ⟨fun _ _ host par _ _ hp hx hok hdst _ hcks hmore hsrc => burstToHost_claim host par hp hx hok hdst hcks hmore hsrc,
    fun _ _ _ _ host _ _ _ hp hx hok hsrc ha hh hab hl hq hb => burstParity_claim host hp hx hok hsrc ha hh hab hl hq hb,
    fun _ _ _ _ _ hsl hh hab hl hq hb => end_claim hsl hh hab hl hq hb, fun _ _ _ _ _ hsl hl => endReadsBack_claim hsl hl,
    fun _ _ _ _ _ he hw hh hab hq hb => readbackDone_claim he hw hh hab hq hb,
    fun _ _ _ _ _ hc hrun hx hdst hh hab hq hb haddr => draftBusError_claim hc hrun hx hdst hh hab hq hb haddr⟩

end Sys2Proof.Machine

end

section
/-! SUPPORT. Shuttles (R276-R278, R325-R334, R396): the bolts of streams that start, end or never began, the checks of the
shuttle commands, and a stop. -/

-- The checked text is one long file: elaborating these in order bounds its threads and memory.
set_option Elab.async false

namespace Sys2Proof.Machine

/-! ## The table of bolts under writes to beam memory -/

theorem noteKind_bolts (w kind src : Nat) (s : State) : (noteKind w kind src s).beam.bolts = s.beam.bolts := by
  have hlog (a : State) : (logBeam w kind src a).beam.bolts = a.beam.bolts := by
    have hlost : (raise_ fBmw_BEAM_EVENT_LOG_LOST (a.tick.addSat fBmw_LOG_STAT_LOST)).beam.bolts = a.beam.bolts :=
      congrArg BeamSt.bolts (raise_onlyParts _ _ .beam (by decide))
    unfold logBeam
    dsimp only
    split_ifs
    · rfl
    · rfl
    · exact hlost
    · exact hlost
  have hslow (f : FldId) (a : State) : (raiseSlow f a).beam = a.beam := raiseSlow_onlyParts f a .beam (by decide)
  unfold noteKind
  dsimp only
  split_ifs
  · rfl
  · exact (congrArg BeamSt.bolts (hslow _ _)).trans (hlog _)
  · exact (congrArg BeamSt.bolts (hslow _ _)).trans (hlog _)
  · exact hlog _

theorem mergeWord_bolts (e : MergeEnt) (i : Nat) (s : State) : (mergeWord e i s).beam.bolts = s.beam.bolts := by
  unfold mergeWord
  dsimp only
  split_ifs
  · rfl
  · rfl
  · exact (noteKind_bolts _ _ _ _).trans (congrArg BeamSt.bolts (count_beam _ _ _ _ _ _))

theorem flushEntry_bolts (e : MergeEnt) (s : State) : (flushEntry e s).beam.bolts = s.beam.bolts := by
  unfold flushEntry
  refine List.foldl_keeps (fun a : State => a.beam.bolts = s.beam.bolts) (fun a i _ h => (mergeWord_bolts e i a).trans h) ?_
  exact (congrArg BeamSt.bolts (count_beam _ _ _ _ _ _)).trans rfl

theorem flushLine_bolts (line : Nat) (s : State) : (flushLine line s).beam.bolts = s.beam.bolts := by
  unfold flushLine
  split
  · exact flushEntry_bolts _ s
  · rfl

theorem mergeBytes_bolts (line : Nat) (b : List (Nat × Byte)) (s : State) : (mergeBytes line b s).beam.bolts = s.beam.bolts := by
  unfold mergeBytes
  split
  · rfl
  · split
    · rfl
    · dsimp only [State.modBeam]
      split
      · split
        · exact flushEntry_bolts _ s
        · rfl
      · rfl

theorem endBeamReset_bolts (k : Nat) (s : State) : (endBeamReset k s).beam.bolts = s.beam.bolts := by
  unfold endBeamReset
  dsimp only
  split_ifs <;> rfl

theorem writePiece_bolts (who : Who) (a : Nat) (b : List Byte) (s : State) : (writePiece who a b s).beam.bolts = s.beam.bolts := by
  unfold writePiece
  dsimp only
  refine (congrArg BeamSt.bolts (count_beam _ _ _ _ _ _)).trans ((mergeBytes_bolts _ _ _).trans ?_)
  refine Eq.trans ?_ (endBeamReset_bolts (beamPort a) s)
  split_ifs
  · rfl
  · exact (flushLine_bolts _ _).trans (mergeBytes_bolts _ _ _)
  · refine List.foldl_keeps (fun x : State => x.beam.bolts = (endBeamReset (beamPort a) s).beam.bolts) (fun x p _ h => ?_) rfl
    exact h

theorem beamWrite_bolts (who : Who) (a : Nat) (b : List Byte) (s : State) : (beamWrite who a b s).beam.bolts = s.beam.bolts :=
  List.foldl_keeps (fun x : State => x.beam.bolts = s.beam.bolts) (fun x _ _ h => (writePiece_bolts _ _ _ x).trans h) rfl

/-! ## The bolts of streams -/

theorem State.bolt_modBolt (s : State) (b c : Nat) (f : Bolt → Bolt) : (s.modBolt b f).bolt c = if b = c then f (s.bolt b) else s.bolt c :=
  State.bolt_setBolt _ _ _ _

theorem State.writer_modBolt (s : State) (b c : Nat) {f : Bolt → Bolt} (hf : ∀ x, (f x).writer = x.writer) :
    ((s.modBolt b f).bolt c).writer = (s.bolt c).writer := by
  rw [State.bolt_modBolt]
  split_ifs with h
  · rw [hf, h]
  · rfl

theorem writeBlock_writer (n : Nat) (t : OutStr) (b : OutBlock) (s : State) (c : Nat) :
    ((writeBlock n t b s).bolt c).writer = (s.bolt c).writer := by
  have hbolt (who : Who) (a : Nat) (bytes : List Byte) : ((beamWrite who a bytes s.tick).bolt c).writer = (s.bolt c).writer :=
    congrArg (fun x => (Tab.get ({} : Bolt) x c).writer) (beamWrite_bolts who a bytes s.tick)
  unfold writeBlock
  dsimp only
  rw [State.writer_modBolt, hbolt]
  intro x
  rfl

theorem endStream_writer (n : Nat) (a : State) (e : Nat × OutStr) (c : Nat) :
    ((endStream n a e).bolt c).writer = if e.2.bolt = c then none else (a.bolt c).writer := by
  have hblocks : ((e.2.finish.done.foldl (fun c x => writeBlock n e.2.finish x c) a).bolt c).writer = (a.bolt c).writer :=
    List.foldl_keeps (fun x : State => (x.bolt c).writer = (a.bolt c).writer) (fun x b _ h => (writeBlock_writer n _ b x c).trans h) rfl
  rw [endStream, State.bolt_modBolt]
  split_ifs
  · rfl
  · exact hblocks

theorem endStreams_writer (n : Nat) (s : State) : ∀ e ∈ (s.shut n).strs, ((endStreams n s).bolt e.2.bolt).writer = none := by
  have hfold (l : List (Nat × OutStr)) (a : State) : ∀ e ∈ l, ((l.foldl (endStream n) a).bolt e.2.bolt).writer = none := by
    induction l generalizing a with
    | nil => exact fun e he => absurd he List.not_mem_nil
    | cons x l ih =>
      intro e he
      obtain rfl | he := List.mem_cons.1 he
      · have hfree : ((endStream n a e).bolt e.2.bolt).writer = none := (endStream_writer n a e _).trans (if_pos rfl)
        rw [List.foldl_cons]
        refine List.foldl_keeps (fun y : State => (y.bolt e.2.bolt).writer = none) (fun y z _ h => ?_) hfree
        rw [endStream_writer, h, ite_self]
      · exact ih _ e he
  rw [endStreams_eq]
  exact hfold _ s

/-- The bolts of streams that are given up lose their writer, and nothing else of any bolt changes. -/
theorem releaseBolts_bolt (l : List (Nat × OutStr)) (s : State) (c : Nat) :
    (releaseBolts l s).bolt c = if ∃ e ∈ l, e.2.bolt = c then { s.bolt c with writer := none } else s.bolt c := by
  induction l generalizing s with
  | nil => simp [releaseBolts]
  | cons e l ih =>
    have hdef : releaseBolts (e :: l) s = releaseBolts l (s.modBolt e.2.bolt ({ · with writer := none })) := rfl
    rw [hdef, ih, State.bolt_modBolt]
    by_cases he : e.2.bolt = c
    · rw [if_pos he, if_pos (⟨e, List.mem_cons_self, he⟩ : ∃ x ∈ e :: l, x.2.bolt = c), he]
      exact ite_self _
    · rw [if_neg he]
      exact if_congr (by simp [he]) rfl rfl

/-! ## What the checks of the commands say -/

theorem shTarget_free {sh : Nat} {s : State} (h4 : 4 ≤ sh) (h96 : sh < 96) (ht : s.testing (24 + sh / 8) = false) :
    ∀ b ∈ shTarget sh, s.testing b = false := by
  simp [shTarget, h4, h96, ht]

/-! ## Loading -/

theorem exec_shtLoad {h : Hdr} {sh : Nat} {img : Option (List Byte)} {s : State} (ht : s.takesPf (.shtLoad h sh img) = true) (h4 : 4 ≤ sh)
    (h96 : sh < 96) (htest : s.testing (24 + sh / 8) = false) (hrun : s.shState sh ≠ stRun) (hbusy : s.shBusy sh = false) :
    exec (.shtLoad h sh img) s =
      .next { s.begun h.qp with sht := { s.sht with loads := s.sht.loads ++ [(h, sh, img)] } } := by
  obtain ⟨hdark, hready, hbegins, -, -, howner⟩ := State.takesPf_elim rfl ht
  have hown : firstFail [(s.ownerOf h.qp != 0 || decide (sh < 4), ePriv)] = none := by
    simp only [firstFail, howner]
    rw [if_neg (by simp; omega)]
  have hown96 : firstFail [(decide (95 < sh), eRange), (s.shState sh == stRun, eState), (s.shBusy sh, eBusy)] = none := by
    simp [firstFail, hrun, hbusy]
    omega
  show execShtLoad h sh img s = _
  rw [execShtLoad, command_begins _ _ _ _ _ hdark hbegins]
  · rfl
  · rw [List.append_assoc, firstFail_append hown, firstFail_gate (fun _ => howner) hready (shTarget_free h4 h96 htest), hown96]

/-- The words of a section that a table keeps without its zeros. -/
theorem get_filterMap_words (F : Nat → Nat) (l : List Nat) (i : Nat) :
    Tab.get 0#48 ((l.filterMap fun i => let v := F i; if v = 0 then none else some (i, v)).map fun e => (e.1, BitVec.ofNat 48 e.2)) i =
      if i ∈ l then BitVec.ofNat 48 (F i) else 0#48 := by
  induction l with
  | nil => rfl
  | cons x l ih =>
    by_cases hx : F x = 0
    · rw [List.filterMap_cons_none (by simp [hx]), ih]
      by_cases hi : i = x
      · simp [hi, hx]
      · simp [hi]
    · rw [List.filterMap_cons_some (b := (x, F x)) (by simp [hx])]
      simp only [List.map_cons, Tab.get, ih]
      by_cases hi : x = i
      · simp [hi]
      · simp [hi, Ne.symm hi]

theorem loadImage_effect (sh : Nat) (b : List Byte) (s : State) : let t := loadImage sh b s
    t.shState sh = stLoaded ∧ t.fld (fSh_IMAGE_IMG_VER sh) = field b 6 2 ∧ (t.shut sh).entry = field b 20 2 ∧
      (t.shut sh).digest = imgDigest b ∧
      (∀ i, i < field b 8 4 → Tab.get 0#48 (t.shut sh).p i = BitVec.ofNat 48 (field b (7360 + 6 * i) 6)) ∧
      (∀ m, m ≠ sh → t.shut m = s.shut m) ∧ moved (fun r => r = rSh_STAT sh ∨ r = rSh_IMAGE sh) [.sht, .regs] s t := by
  intro t
  have hver : field b 6 2 < 2 ^ (31 + 1 - 16) := field_lt b 6 2
  have hset (a : State) (f : FldId) (hf : f.reg = rSh_STAT sh ∨ f.reg = rSh_IMAGE sh) (v : Nat) :
      moved (fun r => r = rSh_STAT sh ∨ r = rSh_IMAGE sh) [.sht, .regs] a (a.setFld f v) := setFld_moved f hf (by decide) a v
  have hshut (m : Nat) : t.shut m = if sh = m then
      { loadSections b 7360 (field b 8 4) (field b 12 4) (field b 16 4) (s.shut sh) with
        entry := field b 20 2, mrInit := field b 22 1 % 2, digest := imgDigest b } else s.shut m := State.shut_setShut s sh m _
  refine ⟨?_, ?_, ?_, ?_, fun i hi => ?_, fun m hm => ?_, ?_⟩
  · exact (State.fld_setFld_ne _ _ _ _ _ _ (by simp)).trans ((State.fld_setFld_ne _ _ _ _ _ _ (by simp)).trans
      (State.fld_setFld_self_of_lt _ _ (by decide) (by decide)))
  · exact (State.fld_setFld_other _ _ _ _ _ _ _ (by decide) (by decide) (by decide) (by decide) (by decide)).trans
      (State.fld_setFld_self_of_lt _ _ (by decide) hver)
  · rw [hshut, if_pos rfl]
  · rw [hshut, if_pos rfl]
  · rw [hshut, if_pos rfl]
    exact (get_filterMap_words (fun i => field b (7360 + 6 * i) 6) _ i).trans (if_pos (List.mem_range.2 hi))
  · rw [hshut, if_neg (Ne.symm hm)]
  · exact ((((setShut_onlyParts s sh _).moved (by decide) _ (by decide)).trans (hset _ (fSh_STAT_STATE sh) (.inl rfl) _)).trans
      (hset _ (fSh_IMAGE_IMG_VER sh) (.inr rfl) _)).trans (hset _ (fSh_IMAGE_KEY_SLOT sh) (.inr rfl) _)

theorem shtLoadDone_claim {h : Hdr} {sh : Nat} {b : List Byte} {r : List (Hdr × Nat × Option (List Byte))} {s : State}
    (hl : s.sht.loads = (h, sh, some b) :: r) (hq : h.qp < 256) (hbme : s.bme (s.ownerOf h.qp) = true) :
    ∃ t, exec (.shtLoadDone sh) s = .next t ∧ t.sht.loads = r ∧
      (∀ m, m ≠ sh → t.shut m = s.shut m) ∧ onlyRegs (fun x => x = rSh_STAT sh ∨ x = rSh_IMAGE sh ∨ complReg x) s t ∧
      onlyParts [.sht, .qps, .regs, .out] s t ∧
      (firstFail (s.imgChecks b) = none → t.shState sh = stLoaded ∧ t.fld (fSh_IMAGE_IMG_VER sh) = field b 6 2 ∧
        (t.shut sh).entry = field b 20 2 ∧ (t.shut sh).digest = imgDigest b ∧
        (∀ i, i < field b 8 4 → Tab.get 0#48 (t.shut sh).p i = BitVec.ofNat 48 (field b (7360 + 6 * i) 6)) ∧
        completed (answer h eOk) s t) ∧
      (∀ st, firstFail (s.imgChecks b) = some st → t.shut sh = s.shut sh ∧ t.shState sh = s.shState sh ∧
        completed (answer h st) s t) := by
  obtain ⟨a, ha⟩ : ∃ a, a = { s with sht := { s.sht with loads := r } } := ⟨_, rfl⟩
  have hap : onlyParts [.sht] s a := by
    rw [ha]; intro p hp; cases p <;> simp_all [Part.same]
  have hal : a.sht.loads = r := by rw [ha]
  have hash (m : Nat) : a.shut m = s.shut m := by rw [ha]; rfl
  have hexec : exec (.shtLoadDone sh) s = .next (match firstFail (s.imgChecks b) with
      | some st => complete h st [] a
      | none => complete h eOk [] (loadImage sh b a)) := by
    show execShtLoadDone sh s = _
    unfold execShtLoadDone
    rw [hl]
    dsimp only
    rw [if_neg (by simp), ha] <;> rfl
  cases hf : firstFail (s.imgChecks b) with
  | some st =>
    obtain ⟨hc, hr, hp⟩ := completes_from (h := h) st [] hq hbme hap
    have hsht : (complete h st [] a).sht = a.sht := ((complete_anyParts h st [] a) .sht (by decide))
    refine ⟨complete h st [] a, hexec.trans (by rw [hf]), (congrArg _ hsht).trans hal, fun m _ => (State.shut_congr hsht m).trans (hash m),
      hr.mono fun _ h => .inr (.inr h), hp.mono (by decide), fun h => (by cases h), fun st' hst => ?_⟩
    cases hst
    exact ⟨(State.shut_congr hsht sh).trans (hash sh), hr.fld (by simp [complReg]), hc⟩
  | none =>
    obtain ⟨hstate, hver, hentry, hdig, hwords, hother, hm⟩ := loadImage_effect sh b a
    obtain ⟨t, hdef⟩ : ∃ t, t = loadImage sh b a := ⟨_, rfl⟩
    simp only [← hdef] at hstate hver hentry hdig hwords hother hm
    have hloads : t.sht.loads = r := by rw [hdef]; exact hal
    have hst : moved (fun r => r = rSh_STAT sh ∨ r = rSh_IMAGE sh) [.sht, .regs] s t := (hap.moved (by decide) _ (by decide)).trans hm
    obtain ⟨hc, hp⟩ := complete_after (h := h) eOk [] hq hbme hst.1 (by rintro r (rfl | rfl) <;> simp) (hst.2 .bme (by decide))
    have hr : onlyRegs complReg t (complete h eOk [] t) := complete_onlyRegs h eOk [] t
    have hshut : ∀ m, (complete h eOk [] t).shut m = t.shut m := State.shut_congr (hp .sht (by decide))
    refine ⟨complete h eOk [] t, hexec.trans (by rw [hf, hdef]), (congrArg _ (hp .sht (by decide))).trans hloads,
      fun m hm => (hshut m).trans ((hother m hm).trans (hash m)),
      (hst.1.mono fun _ h => h.imp_right .inl).trans (hr.mono fun _ h => .inr (.inr h)), (hst.2.mono (by decide)).trans (hp.mono (by decide)),
      fun _ => ⟨(hr.fld (by simp [complReg])).trans hstate, (hr.fld (by simp [complReg])).trans hver, ?_, ?_, ?_, hc⟩, fun st h => by cases h⟩
    · rw [hshut, hentry]
    · rw [hshut, hdig]
    · rw [hshut]; exact hwords

/-! ## The clocks of the other shuttles -/

theorem Tab.get_eq_find {κ α : Type} [DecidableEq κ] (d : α) (t : Tab κ α) (k : κ) : Tab.get d t k = (Tab.find t k).getD d := by
  induction t with
  | nil => rfl
  | cons e t ih =>
    simp only [Tab.get, Tab.find]
    split
    · rfl
    · exact ih

theorem gate_find (g : Nat → Bool) (up n : Nat) (t : Tab Nat Shuttle) :
    Tab.find (t.map fun e => (e.1, e.2.gate (g e.1) up)) n = (Tab.find t n).map fun h => h.gate (g n) up := by
  induction t with
  | nil => rfl
  | cons e t ih =>
    simp only [List.map_cons, Tab.find]
    split_ifs with h
    · rw [h]; rfl
    · exact ih

/-- A shuttle of which nothing changed that its clock depends on meets the power state as it would have. -/
theorem gateShuttles_shut {a b : State} {m : Nat} (ht : Tab.find b.sht.sh m = Tab.find a.sht.sh m) (hup : b.up = a.up)
    (hg : b.shGated m = a.shGated m) : (gateShuttles b).shut m = (gateShuttles a).shut m := by
  have h (c : State) : (gateShuttles c).shut m = ((Tab.find c.sht.sh m).map fun h => h.gate (c.shGated m) c.up).getD {} :=
    (Tab.get_eq_find _ _ _).trans (congrArg (fun x : Option Shuttle => x.getD {}) (gate_find c.shGated c.up m c.sht.sh))
  rw [h, h, ht, hup, hg]

theorem State.find_modShut (s : State) {n m : Nat} (f : Shuttle → Shuttle) (h : m ≠ n) :
    Tab.find (s.modShut n f).sht.sh m = Tab.find s.sht.sh m := (Tab.find_set _ _ _ _).trans (if_neg (Ne.symm h))

/-- Another shuttle's STAT apart, the clocks depend on registers that no shuttle's own change reaches. -/
theorem State.shGated_congr {m : Nat} {P : RegId → Prop} {a b : State} (h : onlyRegs P a b) (hm : ¬ P (rSh_STAT m))
    (hp : ¬ P rPwr_STATE) : b.shGated m = a.shGated m := by
  have hpw : b.pState = a.pState := h.fld hp
  have hst : b.fld (fSh_STAT_STATE m) = a.fld (fSh_STAT_STATE m) := h.fld hm
  rw [State.shGated, State.shGated, hpw, hst]

end Sys2Proof.Machine

end

section
/-! PROOFS. The commands of shuttles: load, start, stop, message and reset (R276-R278, R325-R334). -/

-- The checked text is one long file: elaborating these in order bounds its threads and memory.
set_option Elab.async false

namespace Sys2Proof.Machine

/-! ## Stopping -/

theorem endStreams_shut (n : Nat) (s : State) (m : Nat) :
    (endStreams n s).shut m = if n = m then { s.shut n with strs := [] } else s.shut m := by
  have hfold : ((s.shut n).strs.foldl (endStream n) s).sht = s.sht :=
    (moved.foldl (P := beamReg) (l := memParts) (fun a e _ => endStream_moved n a e) s).2 .sht (by decide)
  rw [endStreams_eq]
  refine (State.shut_setShut _ _ _ _).trans ?_
  rw [State.shut_congr hfold, State.shut_congr hfold]

/-- A shuttle that has stopped, before the servo is looked at. -/
def stopped (n st src : Nat) (s : State) : State :=
  ((((endStreams n s).modShut n ({ · with fifos := [] })).setShState n st).setFld (fSh_STAT_HALT_SRC n) src).setFld (fSh_STAT_BLOCKED n) 0

theorem stopShuttle_eq (n st src : Nat) (s : State) :
    stopShuttle n st src s = if n < 4 then servoCheck (stopped n st src s) else stopped n st src s := rfl

theorem stopped_effect {n st src : Nat} (hst : st < 8) (hsrc : src < 4) (s : State) : let t := stopped n st src s
    t.shState n = st ∧ t.fld (fSh_STAT_HALT_SRC n) = src ∧ (t.shut n).ungated = { s.shut n with strs := [], fifos := [] }.ungated ∧
      (∀ e ∈ (s.shut n).strs, (t.bolt e.2.bolt).writer = none) ∧
      moved (fun r => r = rSh_STAT n ∨ beamReg r) (.sht :: memParts) s t ∧
      ((s.shut n).strs = [] → moved (fun r => r = rSh_STAT n) [.sht, .regs] s t ∧ ∀ m, m ≠ n → t.shut m = (gateShuttles s).shut m) := by
  intro t
  obtain ⟨a, ha⟩ : ∃ a, a = (endStreams n s).modShut n ({ · with fifos := [] }) := ⟨_, rfl⟩
  obtain ⟨b, hb⟩ : ∃ b, b = a.setFld (fSh_STAT_STATE n) st := ⟨_, rfl⟩
  obtain ⟨c, hc⟩ : ∃ c, c = gateShuttles b := ⟨_, rfl⟩
  have ht : t = (c.setFld (fSh_STAT_HALT_SRC n) src).setFld (fSh_STAT_BLOCKED n) 0 := by
    rw [hc, hb, ha]; rfl
  have hset (f : FldId) (hf : f.reg = rSh_STAT n) (x : State) (v : Nat) : moved (fun r => r = rSh_STAT n) [.sht, .regs] x (x.setFld f v) :=
    setFld_moved (P := fun r => r = rSh_STAT n) f hf (by decide) x v
  have hat : moved (fun r => r = rSh_STAT n) [.sht, .regs] a t := by
    rw [ht, hc, hb]
    exact (((hset (fSh_STAT_STATE n) rfl a st).trans ((gateShuttles_onlyParts _).moved (by decide) _ (by decide))).trans
      (hset (fSh_STAT_HALT_SRC n) rfl _ _)).trans (hset (fSh_STAT_BLOCKED n) rfl _ _)
  have hcb (f : FldId) : c.fld f = b.fld f := by
    rw [hc]; exact State.fld_congr (gateShuttles_onlyParts b .regs (by decide)) f
  have hsht (m : Nat) : t.shut m = (gateShuttles b).shut m := by rw [ht, hc]; rfl
  have hbn : b.shut n = { s.shut n with strs := [], fifos := [] } := by
    have h : b.shut n = { endStreams n s |>.shut n with fifos := [] } := by
      rw [hb, ha]; exact (State.shut_setShut _ _ _ _).trans (if_pos rfl)
    rw [h, endStreams_shut, if_pos rfl]
  have hun : ((gateShuttles b).shut n).ungated = (b.shut n).ungated := gateShuttles_ungated b n
  refine ⟨?_, ?_, ?_, fun e he => ?_, ?_, fun hstrs => ⟨?_, fun m hm => ?_⟩⟩
  · rw [ht, State.shState, State.fld_setFld_other _ _ _ _ _ _ _ (by decide) (by decide) (by decide) (by decide) (by decide),
      State.fld_setFld_other _ _ _ _ _ _ _ (by decide) (by decide) (by decide) (by decide) (by decide), hcb, hb]
    exact State.fld_setFld_self_of_lt _ _ (by decide) hst
  · rw [ht, State.fld_setFld_other _ _ _ _ _ _ _ (by decide) (by decide) (by decide) (by decide) (by decide)]
    exact State.fld_setFld_self_of_lt _ _ (by decide) hsrc
  · rw [hsht, hun, hbn]
  · have hbeam : t.beam = (endStreams n s).beam := (hat.2 .beam (by decide)).trans (by rw [ha]; rfl)
    exact (congrArg Bolt.writer (State.bolt_congr (congrArg BeamSt.bolts hbeam) _)).trans (endStreams_writer n s e he)
  · refine moved.trans ?_ (hat.mono (fun _ => .inl) (by decide))
    rw [ha]
    exact ((endStreams_moved n s).mono (fun _ => .inr) fun _ => id).trans ((modShut_onlyParts n _ _).moved (by decide) _ (by decide))
  · refine moved.trans ?_ hat
    rw [ha, endStreams_eq, hstrs]
    exact ((modShut_onlyParts n _ _).moved (by decide) _ (by decide)).trans ((modShut_onlyParts n _ _).moved (by decide) _ (by decide))
  · have hfind : Tab.find b.sht.sh m = Tab.find s.sht.sh m := by
      have h1 : Tab.find (endStreams n s).sht.sh m = Tab.find s.sht.sh m := by
        rw [endStreams_eq, hstrs]; exact State.find_modShut s _ hm
      rw [hb, ha]
      exact Eq.trans (b := Tab.find ((endStreams n s).modShut n ({ · with fifos := [] })).sht.sh m) rfl
        ((State.find_modShut (endStreams n s) _ hm).trans h1)
    have hsa : onlyParts [.sht] s a := by
      rw [ha, endStreams_eq, hstrs]; exact (modShut_onlyParts n _ s).trans (modShut_onlyParts n _ _)
    have hreg : onlyRegs (fun r => r = rSh_STAT n) s b := by
      rw [hb]; exact (hsa.regsKept (by decide)).of_none.trans (setFld_onlyReg _ _ _ _ _)
    have hup : b.up = s.up := by
      rw [hb]; exact hsa .up (by decide)
    rw [hsht]
    exact gateShuttles_shut hfind hup (State.shGated_congr hreg (by simpa using hm) (by simp))

theorem stopShuttle_effect {n st src : Nat} (h4 : 4 ≤ n) (hst : st < 8) (hsrc : src < 4) (s : State) : let t := stopShuttle n st src s
    t.shState n = st ∧ t.fld (fSh_STAT_HALT_SRC n) = src ∧ (t.shut n).fifos = [] ∧ (t.shut n).strs = [] ∧
      (∀ e ∈ (s.shut n).strs, (t.bolt e.2.bolt).writer = none) ∧
      moved (fun r => r = rSh_STAT n ∨ beamReg r) (.sht :: memParts) s t ∧
      ((s.shut n).strs = [] → moved (fun r => r = rSh_STAT n) [.sht, .regs] s t ∧ ∀ m, m ≠ n → t.shut m = (gateShuttles s).shut m) := by
  obtain ⟨hstate, hhalt, hun, hrest⟩ := stopped_effect (n := n) hst hsrc s
  rw [stopShuttle_eq, if_neg (by omega)]
  exact ⟨hstate, hhalt, (congrArg Shuttle.fifos hun).trans rfl, (congrArg Shuttle.strs hun).trans rfl, hrest⟩

/-- SHT_STOP of an owner shuttle that runs, or that has a start waiting, ends in its completion. -/
theorem exec_shtStop {h : Hdr} {sh : Nat} {s : State} (ht : s.takesPf (.shtStop h sh) = true) (h4 : 4 ≤ sh) (h96 : sh < 96)
    (htest : s.testing (24 + sh / 8) = false) (hstop : s.shState sh = stRun ∨ (s.shut sh).start.isSome = true) :
    exec (.shtStop h sh) s = .next (complete h eOk []
      (if (s.shut sh).start.isSome then abortStart true sh (s.begun h.qp) else stopShuttle sh stHalted 2 (s.begun h.qp))) := by
  obtain ⟨hdark, hready, hbegins, -, -, howner⟩ := State.takesPf_elim rfl ht
  have hchecks : firstFail [(decide (95 < sh), eRange), (decide (sh < 4), ePriv),
      (s.shState sh != stRun && (s.shut sh).start.isNone, eState)] = none := by
    have h95 : ¬ 95 < sh := by omega
    have h3 : ¬ sh < 4 := by omega
    obtain hr | hr := hstop
    · simp [firstFail, h95, h3, hr]
    · simp [firstFail, h95, h3, Option.isSome_iff_ne_none.1 hr]
  show execShtStop h sh s = _
  rw [execShtStop, command_begins _ _ _ _ _ hdark hbegins]
  · rfl
  · rw [firstFail_gate (fun _ => howner) hready (shTarget_free h4 h96 htest), hchecks]

theorem shtStop_claim {h : Hdr} {sh : Nat} {s : State} (ht : s.takesPf (.shtStop h sh) = true) (h4 : 4 ≤ sh) (h96 : sh < 96)
    (htest : s.testing (24 + sh / 8) = false) (hrun : s.shState sh = stRun) (hstart : (s.shut sh).start = none) :
    ∃ t, exec (.shtStop h sh) s = .next t ∧ t.shState sh = stHalted ∧ t.fld (fSh_STAT_HALT_SRC sh) = 2 ∧ (t.shut sh).fifos = [] ∧
      (t.shut sh).strs = [] ∧ (∀ e ∈ (s.shut sh).strs, (t.bolt e.2.bolt).writer = none) ∧ t.shPc sh = s.shPc sh ∧
      ((s.shut sh).strs = [] → completed (answer h eOk) s t ∧ (∀ m, m ≠ sh → t.shut m = (gateShuttles s).shut m) ∧
        onlyRegs (fun x => x = rSh_STAT sh ∨ complReg x) s t ∧ onlyParts [.sht, .qps, .regs, .out] s t) := by
  obtain ⟨-, -, -, hq, hbme, -⟩ := State.takesPf_elim rfl ht
  have hexec := exec_shtStop ht h4 h96 htest (.inl hrun)
  rw [if_neg (by simp [hstart])] at hexec
  obtain ⟨hstate, hsrc, hfifos, hstrs, hwriter, hmoved, hquiet⟩ := stopShuttle_effect h4 (st := stHalted) (src := 2) (by decide) (by decide) (s.begun h.qp)
  obtain ⟨a, ha⟩ : ∃ a, a = stopShuttle sh stHalted 2 (s.begun h.qp) := ⟨_, rfl⟩
  rw [← ha] at hexec
  simp only [← ha] at hstate hsrc hfifos hstrs hwriter hmoved hquiet
  obtain ⟨t, htd⟩ : ∃ t, t = complete h eOk [] a := ⟨_, rfl⟩
  rw [← htd] at hexec
  have hr : onlyRegs complReg a t := by rw [htd]; exact complete_onlyRegs h eOk [] a
  have hp : onlyParts [.qps, .held, .regs, .out] a t := by rw [htd]; exact complete_anyParts h eOk [] a
  have hshut : ∀ m, t.shut m = a.shut m := State.shut_congr (hp .sht (by decide))
  have hbeam : t.beam = a.beam := hp .beam (by decide)
  refine ⟨t, hexec, (hr.fld (by simp [complReg])).trans hstate, (hr.fld (by simp [complReg])).trans hsrc, ?_, ?_, fun e he => ?_, ?_, fun hnone => ?_⟩
  · rw [hshut, hfifos]
  · rw [hshut, hstrs]
  · exact (congrArg Bolt.writer (State.bolt_congr (congrArg BeamSt.bolts hbeam) _)).trans (hwriter e he)
  · exact (hr.fld (by simp [complReg])).trans ((hmoved.1.fld (by simp [beamReg, noteReg])).trans rfl)
  · obtain ⟨hm, hother⟩ := hquiet hnone
    obtain ⟨hc, hrr, hpp, -⟩ := completes_after (h := h) (P := fun r => r = rSh_STAT sh) eOk [] hq hbme hm.1 (by rintro r rfl; simp) hm.2
    rw [← htd] at hc hrr hpp
    refine ⟨hc, fun m hm => ?_, hrr.mono fun _ => Or.symm, hpp.mono (by decide)⟩
    rw [hshut, hother m hm]
    exact gateShuttles_shut rfl rfl rfl

/-- A start that waits is given up: its bolts lose their writer and it completes with E_ABORT. -/
theorem abortStart_claim {sh : Nat} {c : StartCmd} {s : State} (hc : (s.shut sh).start = some c) (hq : c.hdr.qp < 256)
    (hbme : s.bme (s.ownerOf c.hdr.qp) = true) : let t := abortStart true sh s
    t.shut sh = { s.shut sh with start := none } ∧ completed (answer c.hdr eAbort) s t ∧ (∀ m, m ≠ sh → t.shut m = s.shut m) ∧
      (∀ e ∈ c.strs, (t.bolt e.2.bolt).writer = none ∧ (t.bolt e.2.bolt).fmt = (s.bolt e.2.bolt).fmt) ∧
      onlyRegs complReg s t ∧ onlyParts [.sht, .beam, .qps, .regs, .out] s t := by
  intro t
  obtain ⟨a, ha⟩ : ∃ a, a = releaseBolts c.strs (s.modShut sh ({ · with start := none })) := ⟨_, rfl⟩
  have ht : t = complete c.hdr eAbort [] a := by
    show abortStart true sh s = _
    rw [ha]; unfold abortStart; rw [hc]; rfl
  have hap : onlyParts [.sht, .beam] s a := by
    rw [ha]; exact ((modShut_onlyParts sh _ s).mono (by decide)).trans ((releaseBolts_onlyParts _ _).mono (by decide))
  obtain ⟨hcompl, hr, hp⟩ := completes_from (h := c.hdr) eAbort [] hq hbme hap
  have hp' : onlyParts [.qps, .held, .regs, .out] a t := by rw [ht]; exact complete_anyParts _ _ _ a
  have hshut (m : Nat) : t.shut m = if sh = m then { s.shut sh with start := none } else s.shut m := by
    rw [State.shut_congr (hp' .sht (by decide)), ha, State.shut_congr (releaseBolts_onlyParts _ _ .sht (by decide))]
    exact State.shut_setShut s sh m _
  rw [← ht] at hcompl hr hp
  refine ⟨(hshut sh).trans (if_pos rfl), hcompl, fun m hm => (hshut m).trans (if_neg (Ne.symm hm)), fun e he => ?_, hr, hp.mono (by decide)⟩
  have hbolt : t.bolt e.2.bolt = { s.bolt e.2.bolt with writer := none } := by
    have h : t.bolt e.2.bolt = a.bolt e.2.bolt :=
      State.bolt_congr (congrArg BeamSt.bolts (hp' .beam (by decide))) _
    rw [h, ha, releaseBolts_bolt, if_pos ⟨e, he, rfl⟩]; rfl
  rw [hbolt]
  exact ⟨rfl, rfl⟩

theorem shtStopWaiting_claim {h : Hdr} {sh : Nat} {c : StartCmd} {s : State} (ht : s.takesPf (.shtStop h sh) = true) (h4 : 4 ≤ sh)
    (h96 : sh < 96) (htest : s.testing (24 + sh / 8) = false) (hc : (s.shut sh).start = some c) (hcq : c.hdr.qp < 256)
    (hown : s.ownerOf c.hdr.qp = 0) :
    ∃ t, exec (.shtStop h sh) s = .next t ∧ t.shut sh = { s.shut sh with start := none } ∧ t.shState sh = s.shState sh ∧
      completed (answer c.hdr eAbort) s t ∧ (∀ e ∈ c.strs, (t.bolt e.2.bolt).writer = none ∧ (t.bolt e.2.bolt).fmt = (s.bolt e.2.bolt).fmt) ∧
      (∀ m, m ≠ sh → t.shut m = s.shut m) ∧ onlyRegs complReg s t ∧ onlyParts [.sht, .beam, .qps, .regs, .out] s t := by
  obtain ⟨-, -, -, hq, hbme, howner⟩ := State.takesPf_elim rfl ht
  have hexec := exec_shtStop ht h4 h96 htest (.inr (by rw [hc]; rfl))
  rw [if_pos (by rw [hc]; rfl)] at hexec
  have hreg0 : onlyRegs complReg s (s.begun h.qp) := fun r _ => State.reg_begun s _ r
  have hbme' : (s.begun h.qp).bme ((s.begun h.qp).ownerOf c.hdr.qp) = true := by
    have hown' : (s.begun h.qp).ownerOf c.hdr.qp = 0 := hown
    rw [hown', ← howner]; exact hbme
  obtain ⟨hshut, hcompl, hother, hbolts, hr, hp⟩ := abortStart_claim (s := s.begun h.qp) hc hcq hbme'
  obtain ⟨a, ha⟩ : ∃ a, a = abortStart true sh (s.begun h.qp) := ⟨_, rfl⟩
  simp only [← ha] at hexec hshut hcompl hother hbolts hr hp
  have hqa : a.bme (a.ownerOf h.qp) = true := by
    have hreg : ∀ j, a.reg (rQue_FN_QP j) = s.reg (rQue_FN_QP j) := fun j => (hr _ (by simp [complReg])).trans (State.reg_begun s _ _)
    have hb : a.host.bme = s.host.bme := hp .bme (by decide)
    rw [State.ownerOf_congr hreg, State.bme, hb]; exact hbme
  have hr' : onlyRegs complReg a (complete h eOk [] a) := complete_onlyRegs h eOk [] a
  have hp' : onlyParts [.qps, .regs, .out] a (complete h eOk [] a) := complete_onlyParts eOk [] hq hqa
  have hshut' : ∀ m, (complete h eOk [] a).shut m = a.shut m := State.shut_congr (hp' .sht (by decide))
  have hbeam : (complete h eOk [] a).beam = a.beam := hp' .beam (by decide)
  refine ⟨complete h eOk [] a, hexec, (hshut' sh).trans hshut, ?_, ?_, fun e he => ?_, fun m hm => (hshut' m).trans (hother m hm), ?_, ?_⟩
  · exact (hr'.fld (by simp [complReg])).trans ((hr.fld (by simp [complReg])).trans rfl)
  · exact completed_mono (completed_congr hcompl fun _ => State.reg_begun s _ _) fun o ho => complete_out _ _ _ ho
  · have hbolt : (complete h eOk [] a).bolt e.2.bolt = a.bolt e.2.bolt := State.bolt_congr (congrArg BeamSt.bolts hbeam) _
    rw [hbolt]
    exact hbolts e he
  · exact hreg0.trans (hr.trans hr')
  · exact ((begun_onlyParts s h.qp).mono (by decide)).trans (hp.trans (hp'.mono (by decide)))

/-! ## Messages and reset -/

theorem shtMsg_claim {h : Hdr} {sh w0 w1 : Nat} {s : State} (ht : s.takesPf (.shtMsg h sh w0 w1) = true) (h4 : 4 ≤ sh) (h96 : sh < 96)
    (htest : s.testing (24 + sh / 8) = false) (hoff : s.shState sh ≠ stOff) (hroom : (s.shut sh).mbox.length < 16) :
    ∃ t, exec (.shtMsg h sh w0 w1) s = .next t ∧ t.shut sh = { s.shut sh with mbox := (s.shut sh).mbox ++ [(w0 % 2 ^ 24, w1 % 2 ^ 24)] } ∧
      t.fld (fSh_MBOX_LEVEL sh) = (s.shut sh).mbox.length + 1 ∧ completed (answer h eOk) s t ∧ (∀ m, m ≠ sh → t.shut m = s.shut m) ∧
      onlyRegs (fun x => x = rSh_MBOX sh ∨ complReg x) s t ∧ onlyParts [.sht, .qps, .regs, .out] s t := by
  obtain ⟨-, -, -, hq, hbme, -⟩ := State.takesPf_elim rfl ht
  have hexec := exec_shtMsg ht h4 h96 htest
  rw [if_neg (by omega), if_neg hoff] at hexec
  obtain ⟨hcompl, hshut, hother, hregs, hparts⟩ := complete_setMbox sh ((s.shut sh).mbox ++ [(w0 % 2 ^ 24, w1 % 2 ^ 24)]) hq hbme
  refine ⟨_, hexec, hshut, ?_, hcompl, hother, hregs, hparts⟩
  refine ((complete_onlyRegs _ _ _ _).fld (by simp [complReg])).trans ((State.fld_setFld_self_of_lt _ _ (by decide) ?_).trans ?_)
  · rw [List.length_append, List.length_singleton]; omega
  · exact List.length_append

theorem shSrst_claim {sh : Nat} {v : W32} {s : State} (haw : s.awake = true) (h4 : 4 ≤ sh) (h96 : sh < 96)
    (htest : s.testing (24 + sh / 8) = false) (hv : v.getLsbD 0 = true) (hstart : (s.shut sh).start = none) :
    ∃ t, exec (.shSrst sh v) s = .next t ∧ t.shut sh = {} ∧ t.shState sh = stOff ∧ (∀ r, shReg sh r → t.reg r = regReset r) ∧
      (∀ e ∈ (s.shut sh).strs, (t.bolt e.2.bolt).writer = none) ∧ (∀ c, (∀ e ∈ (s.shut sh).strs, e.2.bolt ≠ c) → t.bolt c = s.bolt c) ∧
      (∀ m, m ≠ sh → t.shut m = s.shut m) ∧ onlyRegs (shReg sh) s t ∧ onlyParts [.sht, .beam, .hiLatch, .capt, .loHeld, .regs] s t := by
  have hblk : s.regTesting (rSh_CTL sh) = false := by
    have h3 : ¬ sh < 4 := by omega
    simpa [State.regTesting, bistBit, h3] using htest
  have hun : s.unavailable (rSh_CTL sh) = none := State.unavailable_none hblk (by simp)
  have hreset : resetShuttle sh s = ((releaseBolts (s.shut sh).strs s).setShut sh {}).resetRegs fun r => r.blk == .sh && r.inst == sh := by
    unfold resetShuttle abortStart; rw [hstart]
  have hexec : exec (.shSrst sh v) s = .next (resetShuttle sh s) := by
    have hchecks : firstFail [((s.unavailable (rSh_CTL sh)).isSome, eSelfTest), (decide (sh < 4), ePriv)] = none := by
      have h3 : ¬ sh < 4 := by omega
      simp [firstFail, hun, h3]
    show Host.Outcome.next (hostAccess (fun s => if sh < 96 then writeShCtl sh v s else s) s) = _
    rw [hostAccess_awake _ s haw, if_pos h96, writeShCtl, hchecks]
    exact congrArg _ (if_pos hv)
  obtain ⟨a, ha⟩ : ∃ a, a = (releaseBolts (s.shut sh).strs s).setShut sh {} := ⟨_, rfl⟩
  rw [hreset, ← ha] at hexec
  have hap : onlyParts [.beam, .sht] s a := by
    rw [ha]; exact ((releaseBolts_onlyParts _ s).mono (by decide)).trans ((setShut_onlyParts _ _ _).mono (by decide))
  have hreg (r : RegId) (hr : shReg sh r) : (a.resetRegs fun r => r.blk == .sh && r.inst == sh).reg r = regReset r :=
    (State.reg_resetRegs _ _ _).trans (if_pos (by simp [hr.1, hr.2]))
  have hshut (m : Nat) : (a.resetRegs fun r => r.blk == .sh && r.inst == sh).shut m = if sh = m then {} else s.shut m := by
    have h : (releaseBolts (s.shut sh).strs s).shut m = s.shut m := State.shut_congr (releaseBolts_onlyParts _ s .sht (by decide)) m
    rw [← h, ha]; exact State.shut_setShut _ _ _ _
  have hbolt (c : Nat) : (a.resetRegs fun r => r.blk == .sh && r.inst == sh).bolt c = (releaseBolts (s.shut sh).strs s).bolt c := by
    rw [ha]; rfl
  refine ⟨_, hexec, (hshut sh).trans (if_pos rfl), ?_, hreg, fun e he => ?_, fun c hc => ?_,
    fun m hm => (hshut m).trans (if_neg (Ne.symm hm)), ?_, ?_⟩
  · exact (congrArg (fun w => bits w 2 0) (hreg (rSh_STAT sh) ⟨rfl, rfl⟩)).trans (shState_reset sh h96)
  · rw [hbolt, releaseBolts_bolt, if_pos ⟨e, he, rfl⟩]
  · rw [hbolt, releaseBolts_bolt, if_neg]
    rintro ⟨e, he, hce⟩
    exact hc e he hce
  · refine ((hap.regsKept (by decide)).of_none).trans ((resetRegs_onlyRegs _ _).mono fun r hr => ?_)
    simpa [shReg] using hr
  · exact (hap.mono (by decide)).trans ((resetRegs_onlyParts _ _).mono (by decide))

end Sys2Proof.Machine

end

section
/-! PROOFS. The starts of shuttles (R276-R278, R325-R330). -/

-- The checked text is one long file: elaborating these in order bounds its threads and memory.
set_option Elab.async false

namespace Sys2Proof.Machine

/-! ## The bolts of a start -/

theorem claimBolts_onlyParts (sh : Nat) (l : List (Nat × OutStr)) (s : State) : onlyParts [.beam] s (claimBolts sh l s) :=
  .foldl (f := fun a e => a.modBolt e.2.bolt ({ · with writer := some (.stream sh e.1) })) (fun a e => modBolt_onlyParts e.2.bolt _ a) l s

theorem recordFormats_onlyParts (l : List (Nat × OutStr)) (s : State) : onlyParts [.beam] s (recordFormats l s) :=
  .foldl (f := fun a e => a.modBolt e.2.bolt
    ({ · with fmt := some { ess := 1, num := 1, den := 1, chans := e.2.chans, l16 := e.2.l16, pkts := 1 } }))
    (fun a e => modBolt_onlyParts e.2.bolt _ a) l s

theorem claimBolts_other (sh : Nat) (l : List (Nat × OutStr)) (s : State) {c : Nat} (hc : ∀ e ∈ l, e.2.bolt ≠ c) :
    (claimBolts sh l s).bolt c = s.bolt c :=
  List.foldl_keeps (fun a : State => a.bolt c = s.bolt c)
    (fun a e he h => (State.bolt_modBolt a e.2.bolt c _).trans ((if_neg (hc e he)).trans h)) rfl

theorem recordFormats_other (l : List (Nat × OutStr)) (s : State) {c : Nat} (hc : ∀ e ∈ l, e.2.bolt ≠ c) :
    (recordFormats l s).bolt c = s.bolt c :=
  List.foldl_keeps (fun a : State => a.bolt c = s.bolt c)
    (fun a e he h => (State.bolt_modBolt a e.2.bolt c _).trans ((if_neg (hc e he)).trans h)) rfl

theorem claimBolts_fmt (sh : Nat) (l : List (Nat × OutStr)) (s : State) (c : Nat) : ((claimBolts sh l s).bolt c).fmt = (s.bolt c).fmt := by
  refine List.foldl_keeps (fun a : State => (a.bolt c).fmt = (s.bolt c).fmt) (fun a e _ h => ?_) rfl
  rw [State.bolt_modBolt]
  split_ifs with he
  · rw [he]; exact h
  · exact h

theorem recordFormats_writer (l : List (Nat × OutStr)) (s : State) (c : Nat) : ((recordFormats l s).bolt c).writer = (s.bolt c).writer :=
  List.foldl_keeps (fun a : State => (a.bolt c).writer = (s.bolt c).writer)
    (fun a e _ h => by rw [State.writer_modBolt, h]; intro x; rfl) rfl

/-- Where no two streams name one bolt, each stream writes its own. -/
theorem claimBolts_writer (sh : Nat) (l : List (Nat × OutStr)) (s : State) (hl : ∀ e ∈ l, ∀ f ∈ l, f.2.bolt = e.2.bolt → f.1 = e.1) :
    ∀ e ∈ l, ((claimBolts sh l s).bolt e.2.bolt).writer = some (.stream sh e.1) := by
  have hone (a : State) (e f : Nat × OutStr) (hf : f.2.bolt = e.2.bolt → f.1 = e.1)
      (h : f.2.bolt = e.2.bolt ∨ (a.bolt e.2.bolt).writer = some (.stream sh e.1)) :
      ((a.modBolt f.2.bolt ({ · with writer := some (.stream sh f.1) })).bolt e.2.bolt).writer = some (.stream sh e.1) := by
    rw [State.bolt_modBolt]
    split_ifs with hb
    · rw [hf hb]
    · exact h.resolve_left hb
  induction l generalizing s with
  | nil => exact fun e he => absurd he List.not_mem_nil
  | cons x l ih =>
    intro e he
    have hdef : claimBolts sh (x :: l) s = claimBolts sh l (s.modBolt x.2.bolt ({ · with writer := some (.stream sh x.1) })) := rfl
    rw [hdef]
    by_cases hel : e ∈ l
    · exact ih _ (fun e he f hf => hl e (List.mem_cons_of_mem _ he) f (List.mem_cons_of_mem _ hf)) e hel
    · have hex : e = x := (List.mem_cons.1 he).resolve_right hel
      subst hex
      exact List.foldl_keeps (fun a : State => (a.bolt e.2.bolt).writer = some (.stream sh e.1))
        (fun a f hf h => hone a e f (hl e List.mem_cons_self f (List.mem_cons_of_mem _ hf)) (.inr h)) (hone s e e (fun _ => rfl) (.inl rfl))

/-- The checks of a start's block leave no bolt to two streams. -/
theorem startStreams_distinct {b : List Byte} {atStroke : Bool} {k c : Nat} {s : State} (h : firstFail (startBlockChecks b atStroke k c s) = none) :
    ∀ e ∈ startStreams b, ∀ f ∈ startStreams b, f.2.bolt = e.2.bolt → f.1 = e.1 := by
  have htwice : strTwice (strEntries b) = false := by
    have hstate := firstFail_none h
      ((strEntries b).any (fun e => !(s.bolt e.2.1).bound || (s.bolt e.2.1).kind != 1 || (s.bolt e.2.1).writer.isSome) || strTwice (strEntries b)
        || (atStroke && !(s.gen k).defined), eState) (by simp [startBlockChecks])
    exact (Bool.or_eq_false_iff.1 (Bool.or_eq_false_iff.1 hstate).1).2
  intro e he f hf hb
  obtain ⟨x, hx, rfl⟩ := List.mem_map.1 he
  obtain ⟨y, hy, rfl⟩ := List.mem_map.1 hf
  by_contra hne
  have htrue : strTwice (strEntries b) = true :=
    List.any_eq_true.2 ⟨y, hy, List.any_eq_true.2 ⟨x, hx, by simp only [Bool.and_eq_true, bne_iff_ne, beq_iff_eq]; exact ⟨hne, hb⟩⟩⟩
  rw [htrue] at htwice
  cases htwice

/-! ## The registers of a start -/

theorem State.find_setSv (s : State) {n m : Nat} (r : SReg) (v : Nat) (h : m ≠ n) :
    Tab.find (s.setSv n r v).sht.sh m = Tab.find s.sht.sh m := by
  unfold State.setSv
  dsimp only
  split
  · rfl
  · split <;> exact (Tab.find_set _ _ _ _).trans (if_neg (Ne.symm h))

/-- A start anew: registers 0 but MR, no loops and nothing to return to, PC at the entry. -/
theorem freshStart_effect {sh : Nat} {s : State} (he : (s.shut sh).entry < 65536) : let t := freshStart sh s
    t.shut sh = { s.shut sh with regs := Tab.set (Tab.set [] .sr 0) .mr ((s.shut sh).mrInit % 2), loops := [], rep := none, stack := []
                                 pend := 0, tmr := false } ∧
      t.shPc sh = (s.shut sh).entry ∧ (∀ m, m ≠ sh → Tab.find t.sht.sh m = Tab.find s.sht.sh m) ∧
      moved (fun r => r = rSh_STAT sh ∨ r = rSh_PC sh) [.sht, .regs] s t := by
  intro t
  obtain ⟨a, ha⟩ : ∃ a, a = s.setShut sh { s.shut sh with regs := [], loops := [], rep := none, stack := [], pend := 0, tmr := false } := ⟨_, rfl⟩
  obtain ⟨b, hb⟩ : ∃ b, b = a.setSv sh .sr 0 := ⟨_, rfl⟩
  obtain ⟨c, hc⟩ : ∃ c, c = b.setSv sh .mr (s.shut sh).mrInit := ⟨_, rfl⟩
  have ht : t = c.setPc sh (s.shut sh).entry := by rw [hc, hb, ha]; rfl
  have hset (x : State) (f : FldId) (hf : f.reg = rSh_STAT sh ∨ f.reg = rSh_PC sh) (v : Nat) :
      moved (fun r => r = rSh_STAT sh ∨ r = rSh_PC sh) [.sht, .regs] x (x.setFld f v) := setFld_moved f hf (by decide) x v
  have has : a.shut sh = { s.shut sh with regs := [], loops := [], rep := none, stack := [], pend := 0, tmr := false } := by
    rw [ha]; exact (State.shut_setShut _ _ _ _).trans (if_pos rfl)
  have hbs : b.shut sh = { a.shut sh with regs := Tab.set (a.shut sh).regs .sr 0 } := by
    rw [hb]; exact (State.shut_setShut _ _ _ _).trans (if_pos rfl)
  have hcs : c.shut sh = { b.shut sh with regs := Tab.set (b.shut sh).regs .mr ((s.shut sh).mrInit % 2) } := by
    rw [hc]; exact (State.shut_setShut _ _ _ _).trans (if_pos rfl)
  refine ⟨?_, ?_, fun m hm => ?_, ?_⟩
  · have h : t.shut sh = c.shut sh := by rw [ht]; rfl
    rw [h, hcs, hbs, has]
  · rw [ht]; exact State.fld_setFld_self_of_lt _ _ (by decide) he
  · have h1 : Tab.find a.sht.sh m = Tab.find s.sht.sh m := by
      rw [ha]; exact (Tab.find_set _ _ _ _).trans (if_neg (Ne.symm hm))
    have h2 : Tab.find b.sht.sh m = Tab.find a.sht.sh m := by rw [hb]; exact State.find_setSv a _ _ hm
    have h3 : Tab.find c.sht.sh m = Tab.find b.sht.sh m := by rw [hc]; exact State.find_setSv b _ _ hm
    rw [ht]
    exact h3.trans (h2.trans h1)
  · have h1 : moved (fun r => r = rSh_STAT sh ∨ r = rSh_PC sh) [.sht, .regs] s a := by
      rw [ha]; exact (setShut_onlyParts _ _ _).moved (by decide) _ (by decide)
    have h2 : moved (fun r => r = rSh_STAT sh ∨ r = rSh_PC sh) [.sht, .regs] a b := by
      rw [hb]; exact ((modShut_onlyParts sh _ a).moved (by decide) _ (by decide)).trans (hset _ (fSh_STAT_CLIP sh) (.inl rfl) _)
    have h3 : moved (fun r => r = rSh_STAT sh ∨ r = rSh_PC sh) [.sht, .regs] b c := by
      rw [hc]; exact ((modShut_onlyParts sh _ b).moved (by decide) _ (by decide)).trans (hset _ (fSh_STAT_SAT sh) (.inl rfl) _)
    rw [ht]
    exact ((h1.trans h2).trans h3).trans (hset _ (fSh_PC_PC sh) (.inr rfl) _)

/-- What a start leaves of the shuttle that `a` names it to be. -/
theorem enterRun_effect (sh : Nat) (resume : Bool) (strs : List (Nat × OutStr)) (s : State) :
    let a := if resume then s else freshStart sh s
    let t := enterRun sh resume strs s
    t.shState sh = stRun ∧ t.shPc sh = a.shPc sh ∧ (t.shut sh).regs = (a.shut sh).regs ∧ (t.shut sh).loops = (a.shut sh).loops ∧
      (t.shut sh).stack = (a.shut sh).stack ∧ (t.shut sh).p = (a.shut sh).p ∧
      (∀ m, m ≠ sh → t.shut m = (gateShuttles a).shut m) ∧ (∀ c, t.bolt c = (recordFormats strs a).bolt c) ∧
      moved (fun r => r = rSh_STAT sh) [.sht, .beam, .regs] a t := by
  intro a t
  obtain ⟨v, hv⟩ : ∃ v, v = strs.map fun e => (e.1, if e.2.ref.isNone then { e.2 with next := some ((s.tb / (1000000 * nsU) + 1) * 48) } else e.2) :=
    ⟨_, rfl⟩
  obtain ⟨b, hb⟩ : ∃ b, b = recordFormats strs a := ⟨_, rfl⟩
  obtain ⟨c, hc⟩ : ∃ c, c = b.modShut sh ({ · with strs := v, start := none }) := ⟨_, rfl⟩
  obtain ⟨d, hd⟩ : ∃ d, d = c.setFld (fSh_STAT_STATE sh) stRun := ⟨_, rfl⟩
  have ht : t = gateShuttles d := by rw [hd, hc, hb, hv]; rfl
  have hab : onlyParts [.beam] a b := by rw [hb]; exact recordFormats_onlyParts strs a
  have hcs : c.shut sh = { a.shut sh with strs := v, start := none } := by
    rw [hc]
    refine ((State.shut_setShut _ _ _ _).trans (if_pos rfl)).trans ?_
    rw [State.shut_congr (hab .sht (by decide))]
  have hac : moved (fun r => r = rSh_STAT sh) [.sht, .beam, .regs] a c := by
    rw [hc]
    exact (hab.moved (by decide) _ (by decide)).trans ((modShut_onlyParts sh _ b).moved (by decide) _ (by decide))
  have hcd : moved (fun r => r = rSh_STAT sh) [.sht, .beam, .regs] c d := by
    rw [hd]; exact setFld_moved (P := fun r => r = rSh_STAT sh) (fSh_STAT_STATE sh) rfl (by decide) c stRun
  have hdt : onlyParts [.sht] d t := by rw [ht]; exact gateShuttles_onlyParts d
  have hf (f : FldId) : t.fld f = d.fld f := State.fld_congr (hdt .regs (by decide)) f
  have hun : (t.shut sh).ungated = ({ a.shut sh with strs := v, start := none } : Shuttle).ungated := by
    rw [← hcs, ht]
    refine (gateShuttles_ungated d sh).trans ?_
    rw [hd]; rfl
  refine ⟨?_, ?_, (congrArg Shuttle.regs hun).trans rfl, (congrArg Shuttle.loops hun).trans rfl, (congrArg Shuttle.stack hun).trans rfl,
    (congrArg Shuttle.p hun).trans rfl,
    fun m hm => ?_, fun k => ?_, (hac.trans hcd).trans (hdt.moved (by decide) _ (by decide))⟩
  · exact (hf _).trans (by rw [hd]; exact State.fld_setFld_self_of_lt _ _ (by decide) (by decide))
  · exact (hf _).trans ((hcd.1.fld (by simp)).trans (hac.1.fld (by simp)))
  · have hfind : Tab.find d.sht.sh m = Tab.find a.sht.sh m := by
      have h1 : Tab.find c.sht.sh m = Tab.find b.sht.sh m := by rw [hc]; exact State.find_modShut b _ hm
      have h2 : b.sht = a.sht := hab .sht (by decide)
      have h3 : d.sht = c.sht := by rw [hd]; rfl
      rw [h3, h1, h2]
    rw [ht]
    refine gateShuttles_shut hfind ?_ (State.shGated_congr (hac.trans hcd).1 (by simpa using hm) (by simp))
    exact (hac.trans hcd).2 .up (by decide)
  · have h1 : t.beam = d.beam := hdt .beam (by decide)
    rw [← hb]
    exact State.bolt_congr (congrArg BeamSt.bolts (h1.trans (by rw [hd, hc]; rfl))) k

/-! ## SHT_START -/

theorem firstFail_shtStart {h : Hdr} {sh k c : Nat} {resume atStroke : Bool} {b : List Byte} {s : State} (ho : s.ownerOf h.qp = 0)
    (hready : s.ready = true) (h4 : 4 ≤ sh) (h96 : sh < 96) (htest : s.testing (24 + sh / 8) = false) (hk : atStroke = false → k = 0 ∧ c = 0)
    (hstate : s.shState sh = stHalted ∨ resume = false ∧ (s.shState sh = stLoaded ∨ s.shState sh = stFault)) (hbusy : s.shBusy sh = false)
    (hblk : firstFail (startBlockChecks b atStroke k c s) = none) :
    firstFail (s.gate h true (shTarget sh) ++
      [(decide (95 < sh), eRange), (decide (sh < 4), ePriv), (!atStroke && (k != 0 || c != 0), eRange),
       (if resume then s.shState sh != stHalted
        else s.shState sh != stLoaded && s.shState sh != stHalted && s.shState sh != stFault, eState),
       (s.shBusy sh, eBusy)] ++ startBlockChecks b atStroke k c s) = none := by
  have h95 : decide (95 < sh) = false := decide_eq_false (by omega)
  have h3 : decide (sh < 4) = false := decide_eq_false (by omega)
  have hstroke : (!atStroke && (k != 0 || c != 0)) = false := by
    cases atStroke
    · simp [hk rfl]
    · rfl
  have hst : (if resume then s.shState sh != stHalted
      else s.shState sh != stLoaded && s.shState sh != stHalted && s.shState sh != stFault) = false := by
    obtain h | ⟨rfl, h | h⟩ := hstate
    · simp [h]
    · simp [h]
    · simp [h]
  rw [List.append_assoc, firstFail_gate (fun _ => ho) hready (shTarget_free h4 h96 htest), h95, h3, hstroke, hst, hbusy]
  exact hblk

theorem shtStart_claim {h : Hdr} {sh : Nat} {resume : Bool} {b : List Byte} {s : State}
    (ht : s.takesPf (.shtStart h sh resume false 0 0 (some b)) = true) (h4 : 4 ≤ sh) (h96 : sh < 96)
    (htest : s.testing (24 + sh / 8) = false)
    (hstate : s.shState sh = stHalted ∨ resume = false ∧ (s.shState sh = stLoaded ∨ s.shState sh = stFault)) (hbusy : s.shBusy sh = false)
    (hentry : (s.shut sh).entry < 65536) (hblk : firstFail (startBlockChecks b false 0 0 s) = none) :
    ∃ t, exec (.shtStart h sh resume false 0 0 (some b)) s = .next t ∧ t.shState sh = stRun ∧
      (resume = false → t.shPc sh = (s.shut sh).entry ∧ (∀ i, t.sv sh (.d i) = 0 ∧ t.sv sh (.a i) = 0) ∧ t.sv sh .sr = 0 ∧
        t.sv sh .mr = (s.shut sh).mrInit % 2 ∧ (t.shut sh).loops = [] ∧ (t.shut sh).stack = []) ∧
      (resume = true → t.shPc sh = s.shPc sh ∧ (∀ x, t.sv sh x = s.sv sh x) ∧ (t.shut sh).loops = (s.shut sh).loops ∧
        (t.shut sh).stack = (s.shut sh).stack) ∧
      (t.shut sh).p = (s.shut sh).p ∧ (∀ e ∈ startStreams b, (t.bolt e.2.bolt).writer = some (.stream sh e.1)) ∧
      (∀ c, (∀ e ∈ startStreams b, e.2.bolt ≠ c) → t.bolt c = s.bolt c) ∧
      completed (answer h eOk) s t ∧ (∀ m, m ≠ sh → t.shut m = (gateShuttles s).shut m) ∧
      onlyRegs (fun x => x = rSh_STAT sh ∨ x = rSh_PC sh ∨ complReg x) s t ∧ onlyParts [.sht, .beam, .qps, .regs, .out] s t := by
  obtain ⟨hdark, hready, hbegins, hq, hbme, howner⟩ := State.takesPf_elim rfl ht
  obtain ⟨u, hu⟩ : ∃ u, u = claimBolts sh (startStreams b) (s.begun h.qp) := ⟨_, rfl⟩
  obtain ⟨a, ha⟩ : ∃ a, a = if resume then u else freshStart sh u := ⟨_, rfl⟩
  obtain ⟨w, hw⟩ : ∃ w, w = enterRun sh resume (startStreams b) u := ⟨_, rfl⟩
  obtain ⟨t, htd⟩ : ∃ t, t = complete h eOk [] w := ⟨_, rfl⟩
  have hexec : exec (.shtStart h sh resume false 0 0 (some b)) s = .next t := by
    show execShtStart h sh resume false 0 0 (some b) s = _
    unfold execShtStart
    dsimp only
    rw [command_begins _ _ _ _ _ hdark hbegins
      (firstFail_shtStart (b := (some b).getD []) howner hready h4 h96 htest (fun _ => ⟨rfl, rfl⟩) hstate hbusy hblk), htd, hw, hu]
    rfl
  have hsu : onlyParts [.beam] (s.begun h.qp) u := by rw [hu]; exact claimBolts_onlyParts _ _ _
  have hush : ∀ m, u.shut m = s.shut m := State.shut_congr (hsu .sht (by decide))
  have hureg : ∀ r, u.reg r = s.reg r := fun r => (State.reg_congr (hsu .regs (by decide)) r).trans (State.reg_begun s _ r)
  obtain ⟨hws, hwpc, hwregs, hwloops, hwstack, hwp, hwother, hwbolt, hwm⟩ := enterRun_effect sh resume (startStreams b) u
  simp only [← hw, ← ha] at hws hwpc hwregs hwloops hwstack hwp hwother hwbolt hwm
  have hfresh := freshStart_effect (sh := sh) (s := u) (by rw [hush]; exact hentry)
  have hua : moved (fun r => r = rSh_STAT sh ∨ r = rSh_PC sh) [.sht, .regs] u a := by
    rw [ha]
    cases resume
    · exact hfresh.2.2.2
    · exact .refl _ _ u
  have hfind (m : Nat) (hm : m ≠ sh) : Tab.find a.sht.sh m = Tab.find s.sht.sh m := by
    have h1 : Tab.find a.sht.sh m = Tab.find u.sht.sh m := by
      rw [ha]
      cases resume
      · exact hfresh.2.2.1 m hm
      · rfl
    rw [h1, hsu .sht (by decide)]; rfl
  have hsw : moved (fun r => r = rSh_STAT sh ∨ r = rSh_PC sh) [.sht, .beam, .regs] (s.begun h.qp) w :=
    ((hsu.moved (by decide) _ (by decide)).trans (hua.mono (fun _ => id) (by decide))).trans (hwm.mono (fun _ => .inl) fun _ => id)
  obtain ⟨hcompl, hregs, hparts, hp⟩ := completes_after (h := h) eOk [] hq hbme hsw.1 (by rintro r (rfl | rfl) <;> simp) hsw.2
  rw [← htd] at hcompl hregs hparts hp
  have hr : onlyRegs complReg w t := by rw [htd]; exact complete_onlyRegs h eOk [] w
  have hshut : ∀ m, t.shut m = w.shut m := State.shut_congr (hp .sht (by decide))
  have hsv (x : SReg) : t.sv sh x = Tab.get 0 (a.shut sh).regs x := by
    rw [State.sv, hshut, hwregs]
  have hpc : t.shPc sh = a.shPc sh := (hr.fld (by simp [complReg])).trans hwpc
  have hbolt (c : Nat) : t.bolt c = (recordFormats (startStreams b) a).bolt c :=
    (State.bolt_congr (congrArg BeamSt.bolts (hp .beam (by decide))) c).trans (hwbolt c)
  have habolt (c : Nat) : a.bolt c = u.bolt c := State.bolt_congr (congrArg BeamSt.bolts (hua.2 .beam (by decide))) c
  refine ⟨t, hexec, (hr.fld (by simp [complReg])).trans hws, fun hres => ?_, fun hres => ?_, ?_, fun e he => ?_, fun c hc => ?_, hcompl,
    fun m hm => ?_, hregs.mono fun r h => ?_, hparts.mono (by decide)⟩
  · obtain ⟨hfs, hfpc, -, -⟩ := hfresh
    rw [hush] at hfs hfpc
    have haf : a = freshStart sh u := by rw [ha, hres]; rfl
    have hget (x : SReg) : t.sv sh x = if .mr = x then (s.shut sh).mrInit % 2 else if .sr = x then 0 else 0 := by
      rw [hsv, haf, hfs]
      exact (Tab.get_set 0 _ _ _ _).trans (by rw [Tab.get_set]; rfl)
    refine ⟨by rw [hpc, haf, hfpc], fun i => ⟨hget _, hget _⟩, hget _, (hget _).trans (if_pos rfl), ?_, ?_⟩
    · rw [hshut, hwloops, haf, hfs]
    · rw [hshut, hwstack, haf, hfs]
  · have hau : a = u := by rw [ha, hres]; rfl
    refine ⟨?_, fun x => ?_, ?_, ?_⟩
    · rw [hpc, hau]; exact congrArg (fun w => bits w 15 0) (hureg _)
    · rw [hsv, hau, hush, State.sv]
    · rw [hshut, hwloops, hau, hush]
    · rw [hshut, hwstack, hau, hush]
  · rw [hshut, hwp, ← hush]
    rw [ha]
    cases resume
    · exact (congrArg Shuttle.p hfresh.1).trans rfl
    · rfl
  · rw [hbolt, recordFormats_writer, habolt, hu]
    exact claimBolts_writer sh _ _ (startStreams_distinct hblk) e he
  · rw [hbolt, recordFormats_other _ _ hc, habolt, hu, claimBolts_other _ _ _ hc]; rfl
  · rw [hshut, hwother m hm]
    have hreg : onlyRegs (fun r => r = rSh_STAT sh ∨ r = rSh_PC sh) s a := fun r hn => (hua.1 r hn).trans (hureg r)
    refine gateShuttles_shut (hfind m hm) ?_ (State.shGated_congr hreg (by simpa using hm) (by simp))
    exact (hua.2 .up (by decide)).trans (hsu .up (by decide))
  · obtain h | h | h := h
    · exact .inr (.inr h)
    · exact .inl h
    · exact .inr (.inl h)

theorem shtStartAtStroke_claim {h : Hdr} {sh k c : Nat} {resume : Bool} {b : List Byte} {s : State}
    (ht : s.takesPf (.shtStart h sh resume true k c (some b)) = true) (h4 : 4 ≤ sh) (h96 : sh < 96)
    (htest : s.testing (24 + sh / 8) = false)
    (hstate : s.shState sh = stHalted ∨ resume = false ∧ (s.shState sh = stLoaded ∨ s.shState sh = stFault)) (hbusy : s.shBusy sh = false)
    (hblk : firstFail (startBlockChecks b true k c s) = none) :
    ∃ t, exec (.shtStart h sh resume true k c (some b)) s = .next t ∧
      t.shut sh = { s.shut sh with start := some ⟨h, resume, k, c, s.tb, startStreams b⟩ } ∧
      (∀ e ∈ startStreams b, (t.bolt e.2.bolt).writer = some (.stream sh e.1) ∧ (t.bolt e.2.bolt).fmt = (s.bolt e.2.bolt).fmt) ∧
      (∀ m, m ≠ sh → t.shut m = s.shut m) ∧ onlyParts [.sht, .beam, .qps] s t := by
  obtain ⟨hdark, hready, hbegins, -, -, howner⟩ := State.takesPf_elim rfl ht
  obtain ⟨u, hu⟩ : ∃ u, u = claimBolts sh (startStreams b) (s.begun h.qp) := ⟨_, rfl⟩
  have hexec : exec (.shtStart h sh resume true k c (some b)) s =
      .next (u.modShut sh ({ · with start := some ⟨h, resume, k, c, s.tb, startStreams b⟩ })) := by
    show execShtStart h sh resume true k c (some b) s = _
    unfold execShtStart
    dsimp only
    rw [command_begins _ _ _ _ _ hdark hbegins
      (firstFail_shtStart (b := (some b).getD []) howner hready h4 h96 htest (by simp) hstate hbusy hblk), hu]
    rfl
  have hsu : onlyParts [.beam] (s.begun h.qp) u := by rw [hu]; exact claimBolts_onlyParts _ _ _
  have hush : ∀ m, u.shut m = s.shut m := State.shut_congr (hsu .sht (by decide))
  have hbolt (c : Nat) : (u.modShut sh ({ · with start := some ⟨h, resume, k, c, s.tb, startStreams b⟩ })).bolt c = u.bolt c := rfl
  refine ⟨_, hexec, ?_, fun e he => ⟨?_, ?_⟩, fun m hm => ?_, ?_⟩
  · rw [← hush]; exact (State.shut_setShut _ _ _ _).trans (if_pos rfl)
  · have hw := claimBolts_writer sh _ (s.begun h.qp) (startStreams_distinct hblk) e he
    rw [← hu] at hw
    exact hw
  · have hf := claimBolts_fmt sh (startStreams b) (s.begun h.qp) e.2.bolt
    rw [← hu] at hf
    exact hf
  · exact ((State.shut_setShut _ _ _ _).trans (if_neg (Ne.symm hm))).trans (hush m)
  · exact ((begun_onlyParts s h.qp).mono (by decide)).trans ((hsu.mono (by decide)).trans ((modShut_onlyParts sh _ u).mono (by decide)))

/-- Settles O34: each shuttle command by its own lemma; a start's block names no bolt twice, so each stream has its own. -/
theorem shuttlesAreCommanded : Obligations.ShuttlesAreCommanded := by
  unfold Obligations.ShuttlesAreCommanded
  exact ⟨fun _ _ _ _ ht h4 h96 htest hrun hbusy => exec_shtLoad ht h4 h96 htest hrun hbusy,
    fun _ _ _ _ _ hl hq hbme => shtLoadDone_claim hl hq hbme,
    fun _ _ _ _ _ ht h4 h96 htest hstate hbusy hentry hblk => shtStart_claim ht h4 h96 htest hstate hbusy hentry hblk,
    fun _ _ _ _ _ _ _ ht h4 h96 htest hstate hbusy hblk => shtStartAtStroke_claim ht h4 h96 htest hstate hbusy hblk,
    fun _ _ _ ht h4 h96 htest hrun hstart => shtStop_claim ht h4 h96 htest hrun hstart,
    fun _ _ _ _ ht h4 h96 htest hc hq ho => shtStopWaiting_claim ht h4 h96 htest hc hq ho,
    fun _ _ _ _ _ ht h4 h96 htest hoff hroom => shtMsg_claim ht h4 h96 htest hoff hroom,
    fun _ _ _ haw h4 h96 htest hv hstart => shSrst_claim haw h4 h96 htest hv hstart⟩

end Sys2Proof.Machine

end

section
/-! SUPPORT. How an instruction of a shuttle runs (R311-R315, R338): what its issue counts and tags, where the program counter
goes, and the registers it writes. -/

-- The checked text is one long file: elaborating these in order bounds its threads and memory.
set_option Elab.async false

namespace Sys2Proof.Machine

/-! ## Only one shuttle changes -/

theorem onlyShuttle.refl (n : Nat) (s : State) : onlyShuttle n s s := ⟨fun _ _ => rfl, .refl _ s, .refl _ s⟩

theorem onlyShuttle.trans {n : Nat} {s t u : State} (h : onlyShuttle n s t) (h' : onlyShuttle n t u) : onlyShuttle n s u := by
  obtain ⟨hs, hr, hp⟩ := h
  obtain ⟨hs', hr', hp'⟩ := h'
  exact ⟨fun m hm => (hs' m hm).trans (hs m hm), hr.trans hr', hp.trans hp'⟩

theorem onlyShuttle.fld {n : Nat} {s t : State} {r : RegId} {hi lo : Nat} (h : onlyShuttle n s t) (hr : ¬ shReg n r) :
    t.fld ⟨r, hi, lo⟩ = s.fld ⟨r, hi, lo⟩ := h.2.1.fld hr

theorem modShut_onlyShuttle (n : Nat) (f : Shuttle → Shuttle) (s : State) : onlyShuttle n s (s.modShut n f) :=
  ⟨fun m hm => (State.shut_setShut _ _ _ _).trans (if_neg (Ne.symm hm)), ((modShut_onlyParts n f s).regsKept (by decide)).of_none,
    (modShut_onlyParts n f s).mono (by decide)⟩

theorem setFld_onlyShuttle (n : Nat) {f : FldId} (hf : shReg n f.reg) (s : State) (v : Nat) : onlyShuttle n s (s.setFld f v) :=
  ⟨fun _ _ => rfl, (setFld_onlyRegs s f v).mono fun _ h => h ▸ hf, (setFld_onlyParts s f v).mono (by decide)⟩

theorem tick_onlyShuttle (n : Nat) (s : State) : onlyShuttle n s s.tick :=
  ⟨fun _ _ => rfl, ((tick_onlyParts s).regsKept (by decide)).of_none, (tick_onlyParts s).mono (by decide)⟩

/-! ## The registers of a shuttle's program -/

theorem State.shut_setSv (s : State) (n : Nat) {r : SReg} (v : Nat) (h : sregBits r ≠ 0) :
    (s.setSv n r v).shut n = { s.shut n with
      regs := Tab.set (s.shut n).regs r (v % 2 ^ sregBits r), tmrAt := if r = .tmr then (s.shut n).gateAt.getD s.up else (s.shut n).tmrAt } := by
  unfold State.setSv
  dsimp only
  rw [if_neg h]
  split <;> exact (State.shut_setShut _ _ _ _).trans (if_pos rfl)

theorem setSv_onlyShuttle (n : Nat) (r : SReg) (v : Nat) (s : State) : onlyShuttle n s (s.setSv n r v) := by
  unfold State.setSv
  dsimp only
  split
  · exact .refl n s
  · split
    · exact (modShut_onlyShuttle n _ s).trans (setFld_onlyShuttle n ⟨rfl, rfl⟩ _ _)
    · exact (modShut_onlyShuttle n _ s).trans (setFld_onlyShuttle n ⟨rfl, rfl⟩ _ _)
    · exact modShut_onlyShuttle n _ s

theorem State.sv_setSv (s : State) (n : Nat) (r x : SReg) (v : Nat) (h : sregBits r ≠ 0) :
    (s.setSv n r v).sv n x = if r = x then v % 2 ^ sregBits r else s.sv n x := by
  rw [State.sv, State.shut_setSv s n v h]
  exact Tab.get_set _ _ _ _ _

theorem State.sv_setSv_self (s : State) (n : Nat) (r : SReg) (v : Nat) (h : sregBits r ≠ 0) :
    (s.setSv n r v).sv n r = v % 2 ^ sregBits r := (State.sv_setSv s n r r v h).trans (if_pos rfl)

theorem State.sv_setSv_ne (s : State) (n : Nat) {r x : SReg} (v : Nat) (hx : x ≠ r) : (s.setSv n r v).sv n x = s.sv n x := by
  by_cases h : sregBits r = 0
  · rw [State.setSv]; exact congrArg (fun a : State => a.sv n x) (if_pos h)
  · exact (State.sv_setSv s n r x v h).trans (if_neg (Ne.symm hx))

/-- The value a register of the program holds depends on the shuttle alone. -/
theorem State.sv_congr {s t : State} {n : Nat} (h : (t.shut n).regs = (s.shut n).regs) (x : SReg) : t.sv n x = s.sv n x := by
  rw [State.sv, State.sv, h]

theorem State.sA_setSv_self (s : State) (n i : Nat) (v : A56) : (s.setSv n (.a i) v.toNat).sA n i = v := by
  rw [State.sA, State.sv_setSv_self _ _ _ _ (by simp [sregBits])]
  exact BitVec.eq_of_toNat_eq ((BitVec.toNat_ofNat _ _).trans ((Nat.mod_mod _ _).trans (Nat.mod_eq_of_lt v.isLt)))

theorem State.sD_setSv_self (s : State) (n i : Nat) (v : D24) : (s.setSv n (.d i) v.toNat).sD n i = v := by
  rw [State.sD, State.sv_setSv_self _ _ _ _ (by simp [sregBits])]
  exact BitVec.eq_of_toNat_eq ((BitVec.toNat_ofNat _ _).trans ((Nat.mod_mod _ _).trans (Nat.mod_eq_of_lt v.isLt)))

/-- What an instruction that writes registers and memories leaves of a shuttle: its program, loops, stack and streams. -/
def flowKept (n : Nat) (s t : State) : Prop :=
  (t.shut n).p = (s.shut n).p ∧ (t.shut n).loops = (s.shut n).loops ∧ (t.shut n).rep = (s.shut n).rep ∧
    (t.shut n).stack = (s.shut n).stack ∧ (t.shut n).strs = (s.shut n).strs

theorem flowKept.refl (n : Nat) (s : State) : flowKept n s s := ⟨rfl, rfl, rfl, rfl, rfl⟩

theorem flowKept.trans {n : Nat} {s t u : State} (h : flowKept n s t) (h' : flowKept n t u) : flowKept n s u := by
  obtain ⟨h1, h2, h3, h4, h5⟩ := h
  obtain ⟨h1', h2', h3', h4', h5'⟩ := h'
  exact ⟨h1'.trans h1, h2'.trans h2, h3'.trans h3, h4'.trans h4, h5'.trans h5⟩

theorem setSv_flowKept (n : Nat) (r : SReg) (v : Nat) (s : State) : flowKept n s (s.setSv n r v) := by
  by_cases h : sregBits r = 0
  · have hs : s.setSv n r v = s := if_pos h
    rw [hs]; exact .refl n s
  · rw [flowKept, State.shut_setSv s n v h]
    exact ⟨rfl, rfl, rfl, rfl, rfl⟩

/-! ## Issue -/

/-- A shuttle without the state of its tagging. -/
def Shuttle.untagged (h : Shuttle) : Shuttle := { h with tagIn := 0, lfsr := 0 }

/-- A register in which the issue of instructions shows: counters and tags. -/
def issueReg (n : Nat) (r : RegId) : Prop := shReg n r ∧ 0x40 ≤ r.off

theorem count_issue (n src k : Nat) (e : EvInfo) (s : State) : moved (issueReg n) [.sht, .free, .regs] s (count .sh n src e k s) :=
  ⟨(count_onlyRegs _ _ _ _ _ s).mono fun _ ⟨hb, hi, hc⟩ => ⟨⟨hb, hi⟩, by have h := hc.1; rw [hb] at h; exact h⟩,
    (count_onlyParts _ _ _ _ _ s).mono (by decide)⟩

/-- What issue changes: the state of tagging, counters and tags. -/
def issued (n : Nat) (s t : State) : Prop :=
  (t.shut n).untagged = (s.shut n).untagged ∧ (∀ m, m ≠ n → t.shut m = s.shut m) ∧
    (∀ m, m ≠ n → Tab.find t.sht.sh m = Tab.find s.sht.sh m) ∧ moved (issueReg n) [.sht, .free, .regs] s t

theorem issued.trans {n : Nat} {s t u : State} (h : issued n s t) (h' : issued n t u) : issued n s u := by
  obtain ⟨h1, h2, h3, h4⟩ := h
  obtain ⟨h1', h2', h3', h4'⟩ := h'
  exact ⟨h1'.trans h1, fun m hm => (h2' m hm).trans (h2 m hm), fun m hm => (h3' m hm).trans (h3 m hm), h4.trans h4'⟩

theorem issued.of_sht {n : Nat} {s t : State} (h : t.sht = s.sht) (hm : moved (issueReg n) [.sht, .free, .regs] s t) : issued n s t := by
  refine ⟨?_, fun m _ => State.shut_congr h m, fun m _ => by rw [h], hm⟩
  rw [State.shut_congr h]

theorem count_issued (n src k : Nat) (e : EvInfo) (s : State) : issued n s (count .sh n src e k s) :=
  .of_sht (count_onlyParts _ _ _ _ _ s .sht (by decide)) (count_issue n src k e s)

theorem setShut_issued {n : Nat} {s : State} {v : Shuttle} (h : v.untagged = (s.shut n).untagged) : issued n s (s.setShut n v) :=
  ⟨(congrArg Shuttle.untagged ((State.shut_setShut _ _ _ _).trans (if_pos rfl))).trans h,
    fun _ hm => (State.shut_setShut _ _ _ _).trans (if_neg (Ne.symm hm)), fun _ hm => (Tab.find_set _ _ _ _).trans (if_neg (Ne.symm hm)),
    (setShut_onlyParts _ _ _).moved (by decide) _ (by decide)⟩

theorem tagIns_issued (n pc : Nat) (s : State) : issued n s (tagIns n pc s) := by
  have hset (a : State) (r : RegId) (hr : issueReg n r) (hi lo v : Nat) : issued n a (a.setFld ⟨r, hi, lo⟩ v) :=
    .of_sht rfl (setFld_moved (P := issueReg n) _ hr (by decide) a v)
  have hready (a : State) : issued n a (a.resultReady (rSh_TAG_PC n)) :=
    .of_sht rfl ⟨(resultReady_onlyRegs a _).mono fun _ h => by rw [h]; exact ⟨⟨rfl, rfl⟩, Nat.le_of_ble_eq_true rfl⟩, (setReg_onlyParts a _ _).mono (by decide)⟩
  have htick (a : State) : issued n a a.tick := .of_sht rfl ((tick_onlyParts a).moved (by decide) _ (by decide))
  unfold tagIns
  split
  · exact .of_sht rfl (.refl _ _ s)
  · dsimp only
    split
    · exact setShut_issued rfl
    · refine issued.trans ?_ (count_issued n _ _ _ _)
      refine issued.trans ?_ (hready _)
      refine issued.trans ?_ (hset _ (rSh_TAG_STAGE n) ⟨⟨rfl, rfl⟩, Nat.le_of_ble_eq_true rfl⟩ _ _ _)
      refine issued.trans ?_ (hset _ (rSh_TAG_PC n) ⟨⟨rfl, rfl⟩, Nat.le_of_ble_eq_true rfl⟩ _ _ _)
      refine issued.trans ?_ (htick _)
      exact setShut_issued rfl

/-- The state in which an instruction of class `cls` at `pc` has been issued. -/
def issue (n cls pc : Nat) (a : State) : State :=
  let b := count .sh n 1 {} 1 (tagIns n pc a)
  if cls = 2 then count .sh n 2 {} 1 b else if cls = 3 then count .sh n 2 {} 2 b else b

theorem issue_issued (n cls pc : Nat) (a : State) : issued n a (issue n cls pc a) := by
  have hb := (tagIns_issued n pc a).trans (count_issued n 1 1 {} (tagIns n pc a))
  unfold issue
  dsimp only
  split_ifs
  · exact hb.trans (count_issued n _ _ _ _)
  · exact hb.trans (count_issued n _ _ _ _)
  · exact hb

theorem issued.onlyShuttle {n : Nat} {s t : State} (h : issued n s t) : onlyShuttle n s t :=
  ⟨h.2.1, h.2.2.2.1.mono fun _ h => h.1, h.2.2.2.2⟩

theorem issued.flowKept {n : Nat} {s t : State} (h : issued n s t) : flowKept n s t :=
  ⟨(congrArg Shuttle.p h.1).trans rfl, (congrArg Shuttle.loops h.1).trans rfl, (congrArg Shuttle.rep h.1).trans rfl,
    (congrArg Shuttle.stack h.1).trans rfl, (congrArg Shuttle.strs h.1).trans rfl⟩

theorem issued.sv {n : Nat} {s t : State} (h : issued n s t) (x : SReg) : t.sv n x = s.sv n x :=
  State.sv_congr ((congrArg Shuttle.regs h.1).trans rfl) x

theorem issued.fld {n : Nat} {s t : State} (h : issued n s t) {o hi lo : Nat} (ho : o < 0x40) :
    t.fld ⟨⟨.sh, n, o⟩, hi, lo⟩ = s.fld ⟨⟨.sh, n, o⟩, hi, lo⟩ := h.2.2.2.1.fld fun hr => absurd hr.2 (Nat.not_le.2 ho)

/-! ## Running -/

theorem State.runs_elim {s : State} {n cls : Nat} (h : s.runs n cls = true) :
    n < 96 ∧ s.shState n = stRun ∧ s.shGated n = false ∧ insClass (s.pWord n (s.shPc n)) = cls ∧ classBad (s.pWord n (s.shPc n)) = false := by
  simpa only [State.runs, Bool.and_eq_true, decide_eq_true_eq, beq_iff_eq, Bool.not_eq_true', and_assoc] using h

theorem State.runsOn_elim {s : State} {n cls : Nat} (h : s.runsOn n cls = true) :
    s.runs n cls = true ∧ (s.shut n).rep = none ∧ (s.shut n).loops = [] := by
  simpa only [State.runsOn, Bool.and_eq_true, Option.isNone_iff_eq_none, List.isEmpty_iff, and_assoc] using h

/-- Where an instruction of class `cls` stands and may stand, its body decides. -/
theorem runIns_eq {n cls : Nat} {s : State} (h : s.runs n cls = true) (body : State → State × InsEnd)
    (hrep : (s.shut n).rep = none ∨ classRepeats (s.pWord n (s.shPc n)) = true) :
    runIns ⟨n, false⟩ cls body s = match body (s.setFld (fSh_STAT_BLOCKED n) 0) with
      | (a, .done) => advance n (s.shPc n) (issue n cls (s.shPc n) a)
      | (a, .goto t) => (issue n cls (s.shPc n) a).setPc n t
      | (_, .stay why) => (s.setFld (fSh_STAT_BLOCKED n) 0).setFld (fSh_STAT_BLOCKED n) why
      | (_, .fault k) => shFault n k (s.setFld (fSh_STAT_BLOCKED n) 0)
      | (a, .halt) => raise_ (fSh_EVENT_HALTED n) (stopShuttle n stHalted 1 ((issue n cls (s.shPc n) a).setPc n (s.shPc n + 1))) := by
  obtain ⟨h96, hrun, hgate, hcls, hbad⟩ := State.runs_elim h
  have hbadp : ¬ (classBad (s.pWord n (s.shPc n)) = true) := by rw [hbad]; exact Bool.false_ne_true
  have hrepeat : ¬ ((!classRepeats (s.pWord n (s.shPc n)) && (s.shut n).rep.isSome) = true) := by
    obtain h | h := hrep <;> simp [h]
  unfold runIns
  dsimp only
  rw [if_neg (by rw [hrun, hgate]; simpa using h96), if_neg Bool.false_ne_true, if_neg hbadp, if_neg (not_not.2 hcls), if_neg hrepeat] <;> rfl

theorem advance_plain {n pc : Nat} {s : State} (hrep : (s.shut n).rep = none) (hl : (s.shut n).loops = []) :
    advance n pc s = s.setPc n (pc + 1) := by
  unfold advance
  rw [hrep]
  show passEnd 3 n pc s = _
  unfold passEnd
  dsimp only
  rw [hl]

theorem State.shPc_setPc (s : State) (n pc : Nat) : (s.setPc n pc).shPc n = pc % 65536 := State.fld_setFld_self s (rSh_PC n) 15 0 pc (by decide) (by decide)

theorem setPc_onlyShuttle (n pc : Nat) (s : State) : onlyShuttle n s (s.setPc n pc) := setFld_onlyShuttle n ⟨rfl, rfl⟩ s pc

/-- An instruction outside every loop and REP that is done: the next one follows, and its issue alone is added to what it did. -/
theorem runIns_done {n cls : Nat} {s a : State} {body : State → State × InsEnd} (h : s.runsOn n cls = true)
    (hbody : body (s.setFld (fSh_STAT_BLOCKED n) 0) = (a, .done)) (ha : onlyShuttle n (s.setFld (fSh_STAT_BLOCKED n) 0) a)
    (hk : flowKept n s a) : let t := runIns ⟨n, false⟩ cls body s
    t.shPc n = (s.shPc n + 1) % 65536 ∧ (∀ x, t.sv n x = a.sv n x) ∧ (t.shut n).untagged = (a.shut n).untagged ∧ onlyShuttle n s t := by
  intro t
  obtain ⟨hruns, hrep, hl⟩ := State.runsOn_elim h
  have hi := issue_issued n cls (s.shPc n) a
  obtain ⟨-, hloops', hrep', -, -⟩ := hk.trans hi.flowKept
  have ht : t = (issue n cls (s.shPc n) a).setPc n (s.shPc n + 1) := by
    show runIns ⟨n, false⟩ cls body s = _
    rw [runIns_eq hruns body (.inl hrep), hbody]
    exact advance_plain (hrep'.trans hrep) (hloops'.trans hl)
  refine ⟨by rw [ht, State.shPc_setPc], fun x => ?_, ?_, ?_⟩
  · rw [ht]; exact hi.sv x
  · rw [ht]; exact hi.1
  · rw [ht]
    exact (((setFld_onlyShuttle n ⟨rfl, rfl⟩ s 0).trans ha).trans hi.onlyShuttle).trans (setPc_onlyShuttle n _ _)

/-- An instruction of another class than the one at the program counter changes nothing. -/
theorem runIns_other {n cls : Nat} {s : State} {body : State → State × InsEnd} (hbad : classBad (s.pWord n (s.shPc n)) = false)
    (hcls : insClass (s.pWord n (s.shPc n)) ≠ cls) : runIns ⟨n, false⟩ cls body s = s := by
  have hbadp : ¬ (classBad (s.pWord n (s.shPc n)) = true) := by rw [hbad]; exact Bool.false_ne_true
  unfold runIns
  dsimp only
  refine ite_eq_left_iff.2 fun _ => ?_
  rw [if_neg Bool.false_ne_true, if_neg hbadp, if_pos hcls]

end Sys2Proof.Machine

end

section
/-! PROOFS. Shuttle arithmetic (R300-R304, R308-R310). -/

-- The checked text is one long file: elaborating these in order bounds its threads and memory.
set_option Elab.async false

namespace Sys2Proof.Machine

/-! ## Flags -/

/-- The flags of a result: Z, N and V tell of it, and Q stays once set. -/
theorem resultFlags_bits {w : Nat} (sr op : Nat) (r : BitVec w) (a b : Int) (inside q : Bool) :
    let f := srQ (resultFlags sr op r a b inside) q % 2 ^ 8
    f.testBit 0 = (r == 0) ∧ f.testBit 1 = r.msb ∧ f.testBit 3 = !inside ∧ (sr.testBit 4 = true → f.testBit 4 = true) := by
  intro f
  have hlow (z n c v : Bool) : (if z then 1 else 0) + (if n then 2 else 0) + (if c then 4 else 0) + (if v then 8 else 0) < 2 ^ 4 := by
    cases z <;> cases n <;> cases c <;> cases v <;> decide
  have hflags (z n c v : Bool) (i : Nat) : (srFlags sr z n c v).testBit i = if i < 4 then
      ((if z then 1 else 0) + (if n then 2 else 0) + (if c then 4 else 0) + (if v then 8 else 0)).testBit i else (sr / 16).testBit (i - 4) := by
    rw [← Nat.testBit_two_pow_mul_add (sr / 16) (hlow z n c v) i, srFlags]
    congr 1
    omega
  have hq (x i : Nat) (hi : i < 8) : (srQ x q % 2 ^ 8).testBit i = (x.testBit i || (q && decide (i = 4))) := by
    have h16 : Nat.testBit 16 i = decide (i = 4) := by
      have h : Nat.testBit (2 ^ 4) i = decide (4 = i) := Nat.testBit_two_pow
      rw [show (16 : Nat) = 2 ^ 4 by rfl, h]
      exact decide_eq_decide.2 eq_comm
    rw [Nat.testBit_mod_two_pow, srQ]
    cases q
    · simp [hi]
    · simp [hi, h16]
  have hf (i : Nat) (hi : i < 8) : f.testBit i = ((resultFlags sr op r a b inside).testBit i || (q && decide (i = 4))) := hq _ i hi
  refine ⟨?_, ?_, ?_, fun h => ?_⟩
  · rw [hf 0 (by omega), resultFlags, hflags, if_pos (by omega)]
    generalize (r == 0) = z, r.msb = n, Config.carry op a b = c, (!inside) = v
    cases z <;> cases n <;> cases c <;> cases v <;> simp
  · rw [hf 1 (by omega), resultFlags, hflags, if_pos (by omega)]
    generalize (r == 0) = z, r.msb = n, Config.carry op a b = c, (!inside) = v
    cases z <;> cases n <;> cases c <;> cases v <;> simp <;> decide
  · rw [hf 3 (by omega), resultFlags, hflags, if_pos (by omega)]
    generalize (r == 0) = z, r.msb = n, Config.carry op a b = c, (!inside) = v
    cases z <;> cases n <;> cases c <;> cases v <;> simp <;> decide
  · have h4 : (sr / 16).testBit 0 = true := by
      rw [show (16 : Nat) = 2 ^ 4 by rfl, Nat.testBit_div_two_pow]; exact h
    rw [hf 4 (by omega), resultFlags, hflags, if_neg (by omega), h4]
    rfl

/-! ## The ALU -/

/-- A body that writes the flags and, but for CMP, one register. -/
def flagged (n : Nat) (op : AluOp) (r : SReg) (v f : Nat) (s : State) : State :=
  if op = .cmp then s.setSv n .sr f else (s.setSv n .sr f).setSv n r v

theorem flagged_effect (n : Nat) (op : AluOp) {r : SReg} (v f : Nat) (s : State) (hr : r ≠ .sr) : let t := flagged n op r v f s
    t.sv n .sr = f % 2 ^ 8 ∧ (∀ x, x ≠ r → x ≠ .sr → t.sv n x = s.sv n x) ∧ (op = .cmp → t.sv n r = s.sv n r) ∧
      onlyShuttle n s t ∧ flowKept n s t := by
  intro t
  have hflags : (s.setSv n .sr f).sv n .sr = f % 2 ^ 8 := State.sv_setSv_self s n .sr f (by decide)
  by_cases hc : op = .cmp
  · have ht : t = s.setSv n .sr f := if_pos hc
    rw [ht]
    exact ⟨hflags, fun x _ hx => State.sv_setSv_ne s n f hx, fun _ => State.sv_setSv_ne s n f hr, setSv_onlyShuttle n _ _ s,
      setSv_flowKept n _ _ s⟩
  · have ht : t = (s.setSv n .sr f).setSv n r v := if_neg hc
    rw [ht]
    exact ⟨(State.sv_setSv_ne _ n v (Ne.symm hr)).trans hflags, fun x hx hxs => (State.sv_setSv_ne _ n v hx).trans (State.sv_setSv_ne s n f hxs),
      fun h => absurd h hc, (setSv_onlyShuttle n _ _ s).trans (setSv_onlyShuttle n _ _ _), (setSv_flowKept n _ _ s).trans (setSv_flowKept n _ _ _)⟩

theorem aluA_of_ne {op : AluOp} (sat : Bool) (a b : A56) (k : Nat) (h : op ≠ .rnd) : aluA op sat a b k = limitA sat (aluExact op a b k) :=
  if_neg h

theorem alu_acc_claim {sh i j shift : Nat} {op : AluOp} {s : State} (h : s.runsOn sh 1 = true) (hi : i < 4) (hj : j < 4) (hs : shift < 56)
    (hop : op ≠ .rnd) : ∃ t, exec (.alu ⟨sh, false⟩ op (.acc i) (.acc j) shift) s = .next t ∧ t.shPc sh = (s.shPc sh + 1) % 65536 ∧
      (op ≠ .cmp → t.sA sh i = limitA (s.sSat sh) (aluExact op (s.sA sh i) (s.sA sh j) shift)) ∧
      (op = .cmp → t.sA sh i = s.sA sh i) ∧
      (t.sv sh .sr).testBit 0 = (limitA (s.sSat sh) (aluExact op (s.sA sh i) (s.sA sh j) shift) == 0#56) ∧
      (t.sv sh .sr).testBit 1 = (limitA (s.sSat sh) (aluExact op (s.sA sh i) (s.sA sh j) shift)).msb ∧
      (t.sv sh .sr).testBit 3 = !fitsA (aluExact op (s.sA sh i) (s.sA sh j) shift) ∧
      ((s.sv sh .sr).testBit 4 = true → (t.sv sh .sr).testBit 4 = true) ∧
      (∀ x, x ≠ .a i → x ≠ .sr → t.sv sh x = s.sv sh x) ∧ onlyShuttle sh s t := by
  obtain ⟨x, hx⟩ : ∃ x, x = aluExact op (s.sA sh i) (s.sA sh j) shift := ⟨_, rfl⟩
  obtain ⟨r, hr⟩ : ∃ r, r = limitA (s.sSat sh) x := ⟨_, rfl⟩
  obtain ⟨f, hf⟩ : ∃ f, f = srQ (resultFlags (s.sv sh .sr) (aluNum op + 16 * shift) r (s.sA sh i).toInt (s.sA sh j).toInt (fitsA x)) (!fitsA x) :=
    ⟨_, rfl⟩
  have hbody : aluBody sh op (.acc i) (.acc j) shift (s.setFld (fSh_STAT_BLOCKED sh) 0) =
      (flagged sh op (.a i) r.toNat f (s.setFld (fSh_STAT_BLOCKED sh) 0), .done) := by
    have hok : ¬ ((!adOk (.acc i) || !adOk (.acc j) || decide (55 < shift)) = true) := by
      simp [adOk, hi, hj]; omega
    rw [hf, hr, hx, ← aluA_of_ne _ _ _ _ hop, aluBody, if_neg hok]
    rfl
  obtain ⟨hsr, hother, hcmp, honly, hkept⟩ := flagged_effect sh op r.toNat f (s.setFld (fSh_STAT_BLOCKED sh) 0) (r := .a i) (by simp)
  obtain ⟨hpc, hsv, -, hall⟩ := runIns_done h hbody honly hkept
  obtain ⟨hz, hn, hv, hq⟩ := resultFlags_bits (s.sv sh .sr) (aluNum op + 16 * shift) r (s.sA sh i).toInt (s.sA sh j).toInt (fitsA x) (!fitsA x)
  have hflags := (hsv .sr).trans (hsr.trans (congrArg (· % 2 ^ 8) hf))
  refine ⟨_, rfl, hpc, fun hc => ?_, fun hc => congrArg (BitVec.ofNat 56) ((hsv _).trans (hcmp hc)), ?_, ?_, ?_, fun h4 => ?_,
    fun y hy hys => (hsv y).trans (hother y hy hys), hall⟩
  · rw [← hx, ← hr]
    refine Eq.trans (congrArg (BitVec.ofNat 56) (hsv _)) ?_
    have hne : flagged sh op (.a i) r.toNat f (s.setFld (fSh_STAT_BLOCKED sh) 0) =
        ((s.setFld (fSh_STAT_BLOCKED sh) 0).setSv sh .sr f).setSv sh (.a i) r.toNat := if_neg hc
    rw [hne]
    exact State.sA_setSv_self _ sh i r
  · rw [← hx, ← hr]; exact (congrArg (Nat.testBit · 0) hflags).trans hz
  · rw [← hx, ← hr]; exact (congrArg (Nat.testBit · 1) hflags).trans hn
  · rw [← hx]; exact (congrArg (Nat.testBit · 3) hflags).trans hv
  · exact (congrArg (Nat.testBit · 4) hflags).trans (hq h4)

theorem alu_dat_claim {sh i j shift : Nat} {op : AluOp} {s : State} (h : s.runsOn sh 1 = true) (hi : i < 8) (hj : j < 8) (hs : shift < 56)
    (hop : op ≠ .cmp) (hfits : fitsD op (aluExact op (s.sD sh i) (s.sD sh j) shift) = true) :
    ∃ t, exec (.alu ⟨sh, false⟩ op (.dat i) (.dat j) shift) s = .next t ∧ t.shPc sh = (s.shPc sh + 1) % 65536 ∧
      (t.sD sh i).toInt = aluExact op (s.sD sh i) (s.sD sh j) shift ∧ (t.sv sh .sr).testBit 3 = false ∧
      (∀ x, x ≠ .d i → x ≠ .sr → t.sv sh x = s.sv sh x) ∧ onlyShuttle sh s t := by
  obtain ⟨x, hx⟩ : ∃ x, x = aluExact op (s.sD sh i) (s.sD sh j) shift := ⟨_, rfl⟩
  rw [← hx] at hfits ⊢
  obtain ⟨r, hr⟩ : ∃ r, r = BitVec.ofInt 24 x := ⟨_, rfl⟩
  have halu : aluD op (s.sD sh i) (s.sD sh j) shift = r := by
    rw [hr, hx]; rw [hx] at hfits; exact if_pos hfits
  obtain ⟨f, hf⟩ : ∃ f, f = srQ (resultFlags (s.sv sh .sr) (aluNum op + 16 * shift) r (s.sD sh i).toInt (s.sD sh j).toInt (fitsD op x)) (aluTwo op && false) :=
    ⟨_, rfl⟩
  have hbody : aluBody sh op (.dat i) (.dat j) shift (s.setFld (fSh_STAT_BLOCKED sh) 0) =
      (flagged sh op (.d i) r.toNat f (s.setFld (fSh_STAT_BLOCKED sh) 0), .done) := by
    have hok : ¬ ((!adOk (.dat i) || !adOk (.dat j) || decide (55 < shift)) = true) := by
      simp [adOk, hi, hj]; omega
    rw [hf, ← halu, hx, aluBody, if_neg hok]
    rfl
  obtain ⟨hsr, hother, -, honly, hkept⟩ := flagged_effect sh op r.toNat f (s.setFld (fSh_STAT_BLOCKED sh) 0) (r := .d i) (by simp)
  obtain ⟨hpc, hsv, -, hall⟩ := runIns_done h hbody honly hkept
  obtain ⟨-, -, hv, -⟩ := resultFlags_bits (s.sv sh .sr) (aluNum op + 16 * shift) r (s.sD sh i).toInt (s.sD sh j).toInt (fitsD op x) (aluTwo op && false)
  refine ⟨_, rfl, hpc, ?_, ?_, fun y hy hys => (hsv y).trans (hother y hy hys), hall⟩
  · have hval : (runIns ⟨sh, false⟩ 1 (aluBody sh op (.dat i) (.dat j) shift) s).sD sh i = r := by
      refine (congrArg (BitVec.ofNat 24) (hsv _)).trans ?_
      have hne : flagged sh op (.d i) r.toNat f (s.setFld (fSh_STAT_BLOCKED sh) 0) =
          ((s.setFld (fSh_STAT_BLOCKED sh) 0).setSv sh .sr f).setSv sh (.d i) r.toNat := if_neg hop
      rw [hne]
      exact State.sD_setSv_self _ sh i r
    have hrange : -(2 ^ 23) ≤ x ∧ x < 2 ^ 23 := by
      simp only [fitsD, Bool.and_eq_true, decide_eq_true_eq] at hfits
      exact hfits.2
    rw [hval, hr, BitVec.toInt_ofInt]
    exact Int.bmod_eq_of_le (by omega) (by omega)
  · have hflags := (hsv .sr).trans (hsr.trans (congrArg (· % 2 ^ 8) hf))
    exact (congrArg (Nat.testBit · 3) hflags).trans (hv.trans (by rw [hfits]; rfl))

/-! ## MACs and the transfers beside them -/

theorem macOne_effect (n : Nat) (op : MacOp) (i d1 d2 : Nat) (r s : State) : let t := macOne n op i d1 d2 r s
    t.sA n i = macResult op (r.sSat n) (r.sA n i) (product (r.sD n d1) (r.sD n d2)) ∧
      (∀ x, x ≠ .a i → x ≠ .sr → t.sv n x = s.sv n x) ∧ onlyShuttle n s t ∧ flowKept n s t := by
  intro t
  obtain ⟨v, hv⟩ : ∃ v, v = macResult op (r.sSat n) (r.sA n i) (product (r.sD n d1) (r.sD n d2)) := ⟨_, rfl⟩
  obtain ⟨f, ht⟩ : ∃ f, t = (s.setSv n (.a i) v.toNat).setSv n .sr f := ⟨_, by rw [hv]; rfl⟩
  rw [← hv, ht]
  refine ⟨?_, fun x hx hxs => (State.sv_setSv_ne _ n f hxs).trans (State.sv_setSv_ne s n _ hx),
    (setSv_onlyShuttle n _ _ s).trans (setSv_onlyShuttle n _ _ _), (setSv_flowKept n _ _ s).trans (setSv_flowKept n _ _ _)⟩
  exact (congrArg (BitVec.ofNat 56) (State.sv_setSv_ne _ n f (by simp))).trans (State.sA_setSv_self s n i v)

theorem bumpPtr_effect (n : Nat) (y : Bool) (i : Nat) (u : Upd) (s : State) : let t := bumpPtr n y i u s
    (∀ x, u = .none ∨ x ≠ (ptrRegs y i).1 → t.sv n x = s.sv n x) ∧ onlyShuttle n s t ∧ flowKept n s t := by
  have hset (v : Nat) : (∀ x, u = .none ∨ x ≠ (ptrRegs y i).1 → u ≠ .none → (s.setSv n (ptrRegs y i).1 v).sv n x = s.sv n x) ∧
      onlyShuttle n s (s.setSv n (ptrRegs y i).1 v) ∧ flowKept n s (s.setSv n (ptrRegs y i).1 v) :=
    ⟨fun x hx hu => State.sv_setSv_ne s n v (hx.resolve_left hu), setSv_onlyShuttle n _ v s, setSv_flowKept n _ v s⟩
  intro t
  cases u with
  | none => exact ⟨fun _ _ => rfl, .refl n s, .refl n s⟩
  | inc =>
    obtain ⟨h1, h2⟩ := hset (ptrAfter (s.sv n (ptrRegs y i).1) (s.sv n (ptrRegs y i).2.2.1) (s.sv n (ptrRegs y i).2.2.2) 1)
    exact ⟨fun x hx => h1 x hx (by simp), h2⟩
  | dec =>
    obtain ⟨h1, h2⟩ := hset (ptrAfter (s.sv n (ptrRegs y i).1) (s.sv n (ptrRegs y i).2.2.1) (s.sv n (ptrRegs y i).2.2.2) (-1))
    exact ⟨fun x hx => h1 x hx (by simp), h2⟩
  | step =>
    obtain ⟨h1, h2⟩ := hset (ptrAfter (s.sv n (ptrRegs y i).1) (s.sv n (ptrRegs y i).2.2.1) (s.sv n (ptrRegs y i).2.2.2)
      (signed 14 (s.sv n (ptrRegs y i).2.1)))
    exact ⟨fun x hx => h1 x hx (by simp), h2⟩

theorem ptrRegs_ne (y : Bool) (i k : Nat) : .a k ≠ (ptrRegs y i).1 ∧ .d k ≠ (ptrRegs y i).1 := by
  cases y <;> simp [ptrRegs]

theorem setXy_effect (n : Nat) (y : Bool) (a : Nat) (w : D24) (s : State) : let t := s.setXy n y a w
    (∀ x, t.sv n x = s.sv n x) ∧ onlyShuttle n s t ∧ flowKept n s t := by
  intro t
  have hshut : t.shut n = if y then { s.shut n with y := Tab.set (s.shut n).y a w.toNat } else { s.shut n with x := Tab.set (s.shut n).x a w.toNat } :=
    (State.shut_setShut _ _ _ _).trans (if_pos rfl)
  refine ⟨fun x => State.sv_congr ?_ x, modShut_onlyShuttle n _ s, ?_⟩
  · rw [hshut]; cases y <;> rfl
  · rw [flowKept, hshut]; cases y <;> exact ⟨rfl, rfl, rfl, rfl, rfl⟩

/-- A transfer beside a MAC: a load reaches its register, and no other register changes but the pointer. -/
theorem pxfer_effect (n : Nat) (y : Bool) (x : PXfer) (r s : State) : let t := pxfer n y x r s
    (x.store = false → t.sD n x.d = r.xy n y (r.ptrAddr n y x.ptr)) ∧
      (∀ z, x.store = true ∨ z ≠ .d x.d → x.upd = .none ∨ z ≠ (ptrRegs y x.ptr).1 → t.sv n z = s.sv n z) ∧
      onlyShuttle n s t ∧ flowKept n s t := by
  intro t
  obtain ⟨a, ha⟩ : ∃ a, a = if x.store then s.setXy n y (r.ptrAddr n y x.ptr) (r.sD n x.d)
      else s.setSv n (.d x.d) (r.xy n y (r.ptrAddr n y x.ptr)).toNat := ⟨_, rfl⟩
  obtain ⟨hsv, honly, hkept⟩ := bumpPtr_effect n y x.ptr x.upd a
  have ht : t = bumpPtr n y x.ptr x.upd a := by rw [ha]; rfl
  rw [ht]
  by_cases hst : x.store = true
  · rw [if_pos hst] at ha
    obtain ⟨hxy, hxo, hxk⟩ := setXy_effect n y (r.ptrAddr n y x.ptr) (r.sD n x.d) s
    simp only [← ha] at hxy hxo hxk
    exact ⟨fun h => absurd hst (by simp [h]), fun z _ hz => (hsv z hz).trans (hxy z), hxo.trans honly, hxk.trans hkept⟩
  · rw [if_neg hst] at ha
    refine ⟨fun _ => ?_, fun z hz hzp => (hsv z hzp).trans ?_, ?_, ?_⟩
    · refine (congrArg (BitVec.ofNat 24) (hsv _ (.inr (ptrRegs_ne y x.ptr x.d).2))).trans ?_
      rw [ha]
      exact State.sD_setSv_self s n x.d _
    · rw [ha]; exact State.sv_setSv_ne s n _ (hz.resolve_left hst)
    · exact onlyShuttle.trans (by rw [ha]; exact setSv_onlyShuttle n _ _ s) honly
    · exact flowKept.trans (by rw [ha]; exact setSv_flowKept n _ _ s) hkept

/-- A transfer beside a MAC, or none. -/
def xferred (n : Nat) (y : Bool) (x : Option PXfer) (r s : State) : State :=
  match x with | some t => pxfer n y t r s | none => s

/-- What a MAC does where it stands. -/
def macBody (n : Nat) (op : MacOp) (acc d1 d2 : Nat) (y : Bool) (x : Option PXfer) (a : State) : State × InsEnd :=
  if decide (4 ≤ acc ∨ 8 ≤ d1 ∨ 8 ≤ d2) || !x.all pxferOk then (a, .fault shIllegal)
  else (xferred n y x a (macOne n op acc d1 d2 a a), .done)

theorem exec_mac (sh : Nat) (op : MacOp) (acc d1 d2 : Nat) (y : Bool) (x : Option PXfer) (s : State) :
    exec (.mac ⟨sh, false⟩ op acc d1 d2 y x) s = .next (runIns ⟨sh, false⟩ 2 (macBody sh op acc d1 d2 y x) s) := rfl

theorem macBody_eq (n : Nat) (op : MacOp) {acc d1 d2 : Nat} (y : Bool) {x : Option PXfer} (u : State) (ha : acc < 4) (h1 : d1 < 8) (h2 : d2 < 8)
    (hx : x.all pxferOk = true) : macBody n op acc d1 d2 y x u = (xferred n y x u (macOne n op acc d1 d2 u u), .done) :=
  if_neg (by rw [hx]; simp; omega)

theorem mac_claim {sh acc d1 d2 : Nat} {op : MacOp} {s : State} (h : s.runsOn sh 2 = true) (ha : acc < 4) (h1 : d1 < 8) (h2 : d2 < 8) :
    ∃ t, exec (.mac ⟨sh, false⟩ op acc d1 d2 false none) s = .next t ∧ t.shPc sh = (s.shPc sh + 1) % 65536 ∧
      t.sA sh acc = macResult op (s.sSat sh) (s.sA sh acc) ((s.sD sh d1).toInt * (s.sD sh d2).toInt * 2) ∧
      (∀ x, x ≠ .a acc → x ≠ .sr → t.sv sh x = s.sv sh x) ∧ onlyShuttle sh s t := by
  obtain ⟨u, hu⟩ : ∃ u, u = s.setFld (fSh_STAT_BLOCKED sh) 0 := ⟨_, rfl⟩
  obtain ⟨hval, hother, honly, hkept⟩ := macOne_effect sh op acc d1 d2 u u
  obtain ⟨hpc, hsv, -, hall⟩ := runIns_done (a := macOne sh op acc d1 d2 u u) (body := macBody sh op acc d1 d2 false none) h (by rw [← hu]; exact macBody_eq sh op false u ha h1 h2 rfl)
    (by rw [← hu]; exact honly) (by rw [hu] at hkept ⊢; exact hkept)
  refine ⟨_, exec_mac sh op acc d1 d2 false none s, hpc, (congrArg (BitVec.ofNat 56) (hsv _)).trans ?_, fun x hx hxs => (hsv x).trans ((hother x hx hxs).trans (by rw [hu]; rfl)), hall⟩
  exact hval.trans (by rw [hu]; rfl)

theorem macLoad_claim {sh acc d1 d2 d ptr : Nat} {y : Bool} {op : MacOp} {s : State} (h : s.runsOn sh 2 = true) (ha : acc < 4) (h1 : d1 < 8)
    (h2 : d2 < 8) (hd : d < 8) (hp : ptr < 4) :
    ∃ t, exec (.mac ⟨sh, false⟩ op acc d1 d2 y (some ⟨false, d, ptr, .none⟩)) s = .next t ∧
      t.sA sh acc = macResult op (s.sSat sh) (s.sA sh acc) (product (s.sD sh d1) (s.sD sh d2)) ∧
      t.sD sh d = s.xy sh y (s.ptrAddr sh y ptr) ∧ (∀ x, x ≠ .a acc → x ≠ .d d → x ≠ .sr → t.sv sh x = s.sv sh x) ∧ onlyShuttle sh s t := by
  obtain ⟨u, hu⟩ : ∃ u, u = s.setFld (fSh_STAT_BLOCKED sh) 0 := ⟨_, rfl⟩
  obtain ⟨a, hadef⟩ : ∃ a, a = macOne sh op acc d1 d2 u u := ⟨_, rfl⟩
  have hx : (some (⟨false, d, ptr, .none⟩ : PXfer)).all pxferOk = true := by
    simp [pxferOk, hd, hp]
  obtain ⟨hval, hother, honly, hkept⟩ := macOne_effect sh op acc d1 d2 u u
  obtain ⟨hload, hsame, honly', hkept'⟩ := pxfer_effect sh y ⟨false, d, ptr, .none⟩ u a
  simp only [← hadef] at hval hother honly hkept
  obtain ⟨-, hsv, -, hall⟩ := runIns_done (a := pxfer sh y ⟨false, d, ptr, .none⟩ u a)
    (body := macBody sh op acc d1 d2 y (some ⟨false, d, ptr, .none⟩)) h (by rw [← hu, hadef]; exact macBody_eq sh op y u ha h1 h2 hx)
    (by rw [← hu]; exact honly.trans honly') (by rw [hu] at hkept; exact flowKept.trans hkept hkept')
  refine ⟨_, exec_mac sh op acc d1 d2 y _ s, (congrArg (BitVec.ofNat 56) ((hsv _).trans (hsame _ (.inr (by simp)) (.inl rfl)))).trans (hval.trans (by rw [hu]; rfl)),
    (congrArg (BitVec.ofNat 24) (hsv _)).trans ((hload rfl).trans (by rw [hu]; rfl)), fun x hx hxd hxs => ?_, hall⟩
  exact (hsv x).trans ((hsame x (.inr hxd) (.inl rfl)).trans ((hother x hx hxs).trans (by rw [hu]; rfl)))

/-! ## Dual MACs -/

theorem xferred_effect (n : Nat) (y : Bool) (x : Option PXfer) (r s : State) : let t := xferred n y x r s
    (∀ z, x = some z → z.store = false → t.sD n z.d = r.xy n y (r.ptrAddr n y z.ptr)) ∧ (∀ i, t.sv n (.a i) = s.sv n (.a i)) ∧
      (∀ d, (∀ z, x = some z → z.store = true ∨ z.d ≠ d) → t.sv n (.d d) = s.sv n (.d d)) ∧ onlyShuttle n s t ∧ flowKept n s t := by
  cases x with
  | none => exact ⟨fun _ h => (by cases h), fun _ => rfl, fun _ _ => rfl, .refl n s, .refl n s⟩
  | some z =>
    obtain ⟨hload, hsame, honly, hkept⟩ := pxfer_effect n y z r s
    refine ⟨fun z' h hst => ?_, fun i => hsame _ (.inr (by simp)) (.inr (ptrRegs_ne y z.ptr i).1),
      fun d hd => hsame _ ?_ (.inr (ptrRegs_ne y z.ptr d).2), honly, hkept⟩
    · cases h; exact hload hst
    · exact (hd z rfl).imp_right fun h => by simpa using Ne.symm h

/-- Both operations of a dual MAC and its two transfers, each from the state before the instruction. -/
def dualRun (n : Nat) (w : BitVec 48) (s : State) : State :=
  xferred n true (dualXfer (wordBits w 12 0)) s (xferred n false (dualXfer (wordBits w 25 13)) s
    (macOne n (macOfBits (wordBits w 41 40)) (dualAccs (wordBits w 39 38)).2 (wordBits w 31 29) (wordBits w 28 26) s
      (macOne n (macOfBits (wordBits w 43 42)) (dualAccs (wordBits w 39 38)).1 (wordBits w 37 35) (wordBits w 34 32) s s)))

/-- Where both transfers load one register, it takes a free value. -/
def dualClash (n : Nat) (c : Option Nat) (s : State) : State :=
  match c with | some d => s.tick.setSv n (.d d) (Config.freeWord s.free).toNat | none => s

theorem dualBody_eq {n : Nat} {w : BitVec 48} {s : State} (h : insClass w = 3) (h1 : wordBits w 16 13 = 0) (h2 : wordBits w 3 0 = 0) :
    dualBody n w s = (dualClash n (loadsClash (dualXfer (wordBits w 25 13)) (dualXfer (wordBits w 12 0))) (dualRun n w s), .done) := by
  have hcls : wordBits w 47 44 = 3 := by
    have h' : w.toNat / 2 ^ 44 = 3 := h
    exact (congrArg (· % 2 ^ 4) h').trans rfl
  unfold dualBody
  rw [if_neg (by simp [hcls, h1, h2])]
  rfl

theorem dualClash_effect (n : Nat) (c : Option Nat) (s : State) : let t := dualClash n c s
    (∀ i, t.sv n (.a i) = s.sv n (.a i)) ∧ (c = none → t = s) ∧ onlyShuttle n s t ∧ flowKept n s t := by
  cases c with
  | none => exact ⟨fun _ => rfl, fun _ => rfl, .refl n s, .refl n s⟩
  | some d =>
    exact ⟨fun i => State.sv_setSv_ne s.tick n _ (by simp), fun h => (by cases h), (tick_onlyShuttle n s).trans (setSv_onlyShuttle n _ _ _),
      setSv_flowKept n (.d d) _ s.tick⟩

theorem dualAccs_ne (v : Nat) : (dualAccs v).1 ≠ (dualAccs v).2 := by
  unfold dualAccs
  split_ifs <;> decide

theorem dualRun_effect (n : Nat) (w : BitVec 48) (s : State) : let t := dualRun n w s
    t.sA n (dualAccs (wordBits w 39 38)).1 = macResult (macOfBits (wordBits w 43 42)) (s.sSat n) (s.sA n (dualAccs (wordBits w 39 38)).1)
        (product (s.sD n (wordBits w 37 35)) (s.sD n (wordBits w 34 32))) ∧
      t.sA n (dualAccs (wordBits w 39 38)).2 = macResult (macOfBits (wordBits w 41 40)) (s.sSat n) (s.sA n (dualAccs (wordBits w 39 38)).2)
        (product (s.sD n (wordBits w 31 29)) (s.sD n (wordBits w 28 26))) ∧
      (∀ x, dualXfer (wordBits w 25 13) = some x → x.store = false → loadsClash (some x) (dualXfer (wordBits w 12 0)) = none →
        t.sD n x.d = s.xy n false (s.ptrAddr n false x.ptr)) ∧
      (∀ y, dualXfer (wordBits w 12 0) = some y → y.store = false → t.sD n y.d = s.xy n true (s.ptrAddr n true y.ptr)) ∧
      onlyShuttle n s t ∧ flowKept n s t := by
  intro t
  obtain ⟨a1, ha1⟩ : ∃ a, a = (dualAccs (wordBits w 39 38)).1 := ⟨_, rfl⟩
  obtain ⟨a2, ha2⟩ : ∃ a, a = (dualAccs (wordBits w 39 38)).2 := ⟨_, rfl⟩
  have hne : a1 ≠ a2 := by rw [ha1, ha2]; exact dualAccs_ne _
  obtain ⟨u1, hu1⟩ : ∃ u, u = macOne n (macOfBits (wordBits w 43 42)) a1 (wordBits w 37 35) (wordBits w 34 32) s s := ⟨_, rfl⟩
  obtain ⟨u2, hu2⟩ : ∃ u, u = macOne n (macOfBits (wordBits w 41 40)) a2 (wordBits w 31 29) (wordBits w 28 26) s u1 := ⟨_, rfl⟩
  obtain ⟨u3, hu3⟩ : ∃ u, u = xferred n false (dualXfer (wordBits w 25 13)) s u2 := ⟨_, rfl⟩
  have ht : t = xferred n true (dualXfer (wordBits w 12 0)) s u3 := by rw [hu3, hu2, hu1, ha1, ha2]; rfl
  rw [← ha1, ← ha2, ht]
  obtain ⟨hv1, -, ho1, hk1⟩ := macOne_effect n (macOfBits (wordBits w 43 42)) a1 (wordBits w 37 35) (wordBits w 34 32) s s
  obtain ⟨hv2, hs2, ho2, hk2⟩ := macOne_effect n (macOfBits (wordBits w 41 40)) a2 (wordBits w 31 29) (wordBits w 28 26) s u1
  obtain ⟨hl3, ha3, -, ho3, hk3⟩ := xferred_effect n false (dualXfer (wordBits w 25 13)) s u2
  obtain ⟨hl4, ha4, hd4, ho4, hk4⟩ := xferred_effect n true (dualXfer (wordBits w 12 0)) s u3
  simp only [← hu1] at hv1 ho1 hk1
  simp only [← hu2] at hv2 hs2 ho2 hk2
  simp only [← hu3] at hl3 ha3 ho3 hk3
  refine ⟨?_, ?_, fun x hx hst hclash => ?_, hl4, ((ho1.trans ho2).trans ho3).trans ho4, ((hk1.trans hk2).trans hk3).trans hk4⟩
  · exact (congrArg (BitVec.ofNat 56) ((ha4 a1).trans ((ha3 a1).trans (hs2 (.a a1) (by simpa using hne) (by simp))))).trans hv1
  · exact (congrArg (BitVec.ofNat 56) ((ha4 a2).trans (ha3 a2))).trans hv2
  · refine (congrArg (BitVec.ofNat 24) (hd4 x.d fun z hz => ?_)).trans (hl3 x hx hst)
    by_contra hno
    obtain ⟨hzs, hzd⟩ := not_or.1 hno
    rw [hz] at hclash
    simp [loadsClash, hst, hzs, not_not.1 hzd] at hclash

theorem dualMac_claim {sh : Nat} {w : BitVec 48} {s : State} (h : s.runsOn sh 3 = true) (hw : s.pWord sh (s.shPc sh) = w)
    (h1 : wordBits w 16 13 = 0) (h2 : wordBits w 3 0 = 0) :
    ∃ t, exec (.dualMac ⟨sh, false⟩ w) s = .next t ∧ t.shPc sh = (s.shPc sh + 1) % 65536 ∧
      t.sA sh (dualAccs (wordBits w 39 38)).1 = macResult (macOfBits (wordBits w 43 42)) (s.sSat sh) (s.sA sh (dualAccs (wordBits w 39 38)).1)
        (product (s.sD sh (wordBits w 37 35)) (s.sD sh (wordBits w 34 32))) ∧
      t.sA sh (dualAccs (wordBits w 39 38)).2 = macResult (macOfBits (wordBits w 41 40)) (s.sSat sh) (s.sA sh (dualAccs (wordBits w 39 38)).2)
        (product (s.sD sh (wordBits w 31 29)) (s.sD sh (wordBits w 28 26))) ∧
      (∀ x, dualXfer (wordBits w 25 13) = some x → x.store = false → loadsClash (some x) (dualXfer (wordBits w 12 0)) = none →
        t.sD sh x.d = s.xy sh false (s.ptrAddr sh false x.ptr)) ∧
      (∀ y, dualXfer (wordBits w 12 0) = some y → y.store = false → loadsClash (dualXfer (wordBits w 25 13)) (some y) = none →
        t.sD sh y.d = s.xy sh true (s.ptrAddr sh true y.ptr)) ∧ onlyShuttle sh s t := by
  obtain ⟨u, hu⟩ : ∃ u, u = s.setFld (fSh_STAT_BLOCKED sh) 0 := ⟨_, rfl⟩
  obtain ⟨c, hc⟩ : ∃ c, c = loadsClash (dualXfer (wordBits w 25 13)) (dualXfer (wordBits w 12 0)) := ⟨_, rfl⟩
  have hexec : exec (.dualMac ⟨sh, false⟩ w) s = .next (runIns ⟨sh, false⟩ 3 (dualBody sh w) s) := by
    show execDualMac ⟨sh, false⟩ w s = _
    exact congrArg _ (if_pos (.inr hw.symm))
  have hcls : insClass w = 3 := by
    obtain ⟨-, -, -, hcls, -⟩ := State.runs_elim (State.runsOn_elim h).1
    rwa [hw] at hcls
  obtain ⟨hv1, hv2, hl1, hl2, honly, hkept⟩ := dualRun_effect sh w u
  obtain ⟨hacc, hnone, honly', hkept'⟩ := dualClash_effect sh c (dualRun sh w u)
  obtain ⟨hpc, hsv, -, hall⟩ := runIns_done (a := dualClash sh c (dualRun sh w u)) (body := dualBody sh w) h (by rw [← hu, hc]; exact dualBody_eq hcls h1 h2)
    (by rw [← hu]; exact honly.trans honly') (by rw [hu] at hkept hkept' ⊢; exact flowKept.trans hkept hkept')
  have hsu : u.shut sh = s.shut sh := by rw [hu]; rfl
  refine ⟨_, hexec, hpc, (congrArg (BitVec.ofNat 56) ((hsv _).trans (hacc _))).trans (hv1.trans (by rw [hu]; rfl)),
    (congrArg (BitVec.ofNat 56) ((hsv _).trans (hacc _))).trans (hv2.trans (by rw [hu]; rfl)), fun x hx hst hclash => ?_,
    fun y hy hst hclash => ?_, hall⟩
  · have hcn : c = none := by rw [hc, hx]; exact hclash
    refine (congrArg (BitVec.ofNat 24) (hsv _)).trans ?_
    rw [hnone hcn]
    exact (hl1 x hx hst hclash).trans (by rw [hu]; rfl)
  · have hcn : c = none := by rw [hc, hy]; exact hclash
    refine (congrArg (BitVec.ofNat 24) (hsv _)).trans ?_
    rw [hnone hcn]
    exact (hl2 y hy hst).trans (by rw [hu]; rfl)

/-- Settles O35: each instruction is its body and its issue; the flags are read off the sum that SR is. -/
theorem shuttleArithmetic : Obligations.ShuttleArithmetic := by
  unfold Obligations.ShuttleArithmetic
  exact ⟨fun _ _ _ _ _ _ h hi hj hs hop => alu_acc_claim h hi hj hs hop,
    fun _ _ _ _ _ _ h hi hj hs hop hfits => alu_dat_claim h hi hj hs hop hfits,
    fun _ _ _ _ _ _ h ha h1 h2 => mac_claim h ha h1 h2,
    fun _ _ _ _ _ _ _ _ _ h ha h1 h2 hd hp => macLoad_claim h ha h1 h2 hd hp,
    fun _ _ _ h hw h1 h2 => dualMac_claim h hw h1 h2,
    fun _ _ _ _ _ _ hbad hcls => congrArg _ (runIns_other hbad hcls)⟩

end Sys2Proof.Machine

end

section
/-! PROOFS. The flow of a shuttle: loops, REP, branches, calls, halt, timer and restart (R312-R315, R319, R322-R326). -/

-- The checked text is one long file: elaborating these in order bounds its threads and memory.
set_option Elab.async false

namespace Sys2Proof.Machine

/-! ## An instruction that goes elsewhere -/

theorem State.shut_modShut_self (s : State) (n : Nat) (f : Shuttle → Shuttle) : (s.modShut n f).shut n = f (s.shut n) :=
  (State.shut_setShut _ _ _ _).trans (if_pos rfl)

theorem setFld_flowKept (n : Nat) (f : FldId) (v : Nat) (s : State) : flowKept n s (s.setFld f v) := ⟨rfl, rfl, rfl, rfl, rfl⟩

/-- An instruction that goes to `pc`: its issue alone is added to what it did. -/
theorem runIns_goto {n cls pc : Nat} {s a : State} {body : State → State × InsEnd} (h : s.runs n cls = true) (hrep : (s.shut n).rep = none)
    (hbody : body (s.setFld (fSh_STAT_BLOCKED n) 0) = (a, .goto pc)) (ha : onlyShuttle n (s.setFld (fSh_STAT_BLOCKED n) 0) a) :
    let t := runIns ⟨n, false⟩ cls body s
    t.shPc n = pc % 65536 ∧ (∀ x, t.sv n x = a.sv n x) ∧ (t.shut n).untagged = (a.shut n).untagged ∧ onlyShuttle n s t := by
  intro t
  have hi := issue_issued n cls (s.shPc n) a
  have ht : t = (issue n cls (s.shPc n) a).setPc n pc := by
    show runIns ⟨n, false⟩ cls body s = _
    rw [runIns_eq h body (.inl hrep), hbody]
  rw [ht]
  exact ⟨State.shPc_setPc _ _ _, hi.sv, hi.1, ((((setFld_onlyShuttle n ⟨rfl, rfl⟩ s 0).trans ha).trans hi.onlyShuttle)).trans (setPc_onlyShuttle n _ _)⟩

theorem Shuttle.here_nil {h : Shuttle} (hl : h.loops = []) : h.here = [] := by rw [Shuttle.here, hl]; rfl

theorem Shuttle.lastOfBody_nil {h : Shuttle} (hl : h.loops = []) (pc : Nat) : h.lastOfBody pc = false := by
  rw [Shuttle.lastOfBody, Shuttle.here_nil hl]; rfl

theorem State.sv_lt_of_set {s : State} {n : Nat} {r : SReg} {v : Nat} (h : sregBits r ≠ 0) (hv : v < 2 ^ sregBits r) :
    (s.setSv n r v).sv n r = v := (State.sv_setSv_self s n r v h).trans (Nat.mod_eq_of_lt hv)

/-! ## DO and REP -/

theorem do_claim {sh n len : Nat} {s : State} (h : s.runsOn sh 5 = true) (h1 : 1 ≤ n) (hn : n < 65536) (hl1 : 1 ≤ len) (hl : len ≤ 4096) :
    ∃ t, exec (.do_ ⟨sh, false⟩ (.imm n) len) s = .next t ∧ t.shPc sh = (s.shPc sh + 1) % 65536 ∧ t.sv sh (.lc 0) = n ∧
      (t.shut sh).loops = [⟨(s.shPc sh + 1) % 65536, (s.shPc sh + len) % 65536, (s.shut sh).stack.length⟩] ∧
      (∀ x, x ≠ .lc 0 → t.sv sh x = s.sv sh x) ∧ onlyShuttle sh s t := by
  obtain ⟨hruns, hrep, hloops⟩ := State.runsOn_elim h
  obtain ⟨u, hu⟩ : ∃ u, u = s.setFld (fSh_STAT_BLOCKED sh) 0 := ⟨_, rfl⟩
  have hus : u.shut sh = s.shut sh := by rw [hu]; rfl
  have hpc : u.shPc sh = s.shPc sh := by rw [hu]; exact State.fld_setFld_ne s _ _ _ _ _ (by simp)
  have hul : (u.shut sh).loops = [] := by rw [hus]; exact hloops
  obtain ⟨a, ha⟩ : ∃ a, a = (u.setSv sh (.lc 0) n).modShut sh
      ({ · with loops := [⟨(s.shPc sh + 1) % 65536, (s.shPc sh + len) % 65536, (s.shut sh).stack.length⟩] }) := ⟨_, rfl⟩
  have hbody : doBody sh (.imm n) len u = (a, .goto (s.shPc sh + 1)) := by
    unfold doBody
    dsimp only
    rw [Shuttle.lastOfBody_nil hul, Shuttle.here_nil hul, hul, hpc, hus, if_neg (by simp [cntOk]; omega), if_neg (by simp),
      if_neg (by simp only [State.cnt]; omega), ha]
    rfl
  have hval : (u.setSv sh (.lc 0) n).sv sh (.lc 0) = n := State.sv_lt_of_set (by simp [sregBits]) hn
  have hasv (x : SReg) : a.sv sh x = (u.setSv sh (.lc 0) n).sv sh x := by
    rw [ha]; exact State.sv_congr (by rw [State.shut_modShut_self]) x
  have hal : (a.shut sh).loops = [⟨(s.shPc sh + 1) % 65536, (s.shPc sh + len) % 65536, (s.shut sh).stack.length⟩] := by
    rw [ha]; exact congrArg Shuttle.loops ((State.shut_setShut _ _ _ _).trans (if_pos rfl))
  obtain ⟨htpc, hsv, htag, honly⟩ := runIns_goto hruns hrep (by rw [← hu]; exact hbody)
    (by rw [← hu, ha]; exact (setSv_onlyShuttle sh _ _ _).trans (modShut_onlyShuttle sh _ _))
  refine ⟨_, rfl, htpc, (hsv _).trans ((hasv _).trans hval), ((congrArg Shuttle.loops htag).trans rfl).trans hal, fun x hx => ?_, honly⟩
  rw [hsv, hasv, State.sv_setSv_ne _ _ _ hx, State.sv, hus, State.sv]

theorem passEnd_plain {n k pc : Nat} {s : State} (hl : (s.shut n).loops = []) : passEnd (k + 1) n pc s = s.setPc n (pc + 1) := by
  unfold passEnd
  dsimp only
  rw [hl]

theorem doNone_claim {sh len : Nat} {s : State} (h : s.runsOn sh 5 = true) (hl1 : 1 ≤ len) (hl : len ≤ 4096) :
    ∃ t, exec (.do_ ⟨sh, false⟩ (.imm 0) len) s = .next t ∧
      t.shPc sh = (s.shPc sh + len + 1) % 65536 ∧ (t.shut sh).loops = [] ∧ onlyShuttle sh s t := by
  obtain ⟨hruns, hrep, hloops⟩ := State.runsOn_elim h
  obtain ⟨u, hu⟩ : ∃ u, u = s.setFld (fSh_STAT_BLOCKED sh) 0 := ⟨_, rfl⟩
  have hpc : u.shPc sh = s.shPc sh := by rw [hu]; exact State.fld_setFld_ne s _ _ _ _ _ (by simp)
  have hul : (u.shut sh).loops = [] := by rw [hu]; exact hloops
  have hcnt : u.cnt sh (.imm 0) = 0 := rfl
  obtain ⟨a, ha⟩ : ∃ a, a = u.setPc sh ((s.shPc sh + len) % 65536 + 1) := ⟨_, rfl⟩
  have hbody : doBody sh (.imm 0) len u = (a, .goto (a.shPc sh)) := by
    unfold doBody
    dsimp only
    rw [Shuttle.lastOfBody_nil hul, Shuttle.here_nil hul, hul, hpc, if_neg (by simp [cntOk]; omega), if_neg (by simp), if_pos hcnt,
      passEnd_plain hul, ha]
  obtain ⟨htpc, -, htag, honly⟩ := runIns_goto hruns hrep (by rw [← hu]; exact hbody)
    (by rw [← hu, ha]; exact setPc_onlyShuttle sh _ _)
  refine ⟨_, rfl, ?_, ((congrArg Shuttle.loops htag).trans rfl).trans (by rw [ha]; exact hul), honly⟩
  rw [htpc, ha, State.shPc_setPc]
  omega

theorem rep_claim {sh k n : Nat} {dat : Bool} {s : State} (h : s.runsOn sh 5 = true) (hk : dat = true → k < 8)
    (hn : n = (if dat then s.sv sh (.d k) % 65536 else k)) (h1 : 1 ≤ n) (hlt : n < 65536)
    (hnext : classRepeats (s.pWord sh ((s.shPc sh + 1) % 65536)) = true) : ∃ t, exec (.rep ⟨sh, false⟩ dat k) s = .next t ∧
    (t.shut sh).rep = some n ∧ t.shPc sh = (s.shPc sh + 1) % 65536 ∧ onlyShuttle sh s t := by
  obtain ⟨hruns, hrep, hloops⟩ := State.runsOn_elim h
  obtain ⟨u, hu⟩ : ∃ u, u = s.setFld (fSh_STAT_BLOCKED sh) 0 := ⟨_, rfl⟩
  have hus : u.shut sh = s.shut sh := by rw [hu]; rfl
  have hpc : u.shPc sh = s.shPc sh := by rw [hu]; exact State.fld_setFld_ne s _ _ _ _ _ (by simp)
  have hul : (u.shut sh).loops = [] := by rw [hus]; exact hloops
  have hcnt : u.cnt sh (if dat then .dat k else .imm k) = n := by
    rw [hn]
    cases dat
    · rfl
    · show Tab.get 0 (u.shut sh).regs (.d k) % 65536 = _
      rw [hus]; rfl
  have hok : cntOk (if dat then .dat k else .imm k) = true := by
    cases dat
    · have hnk : n = k := hn
      simpa [cntOk, ← hnk] using hlt
    · simpa [cntOk] using hk rfl
  obtain ⟨a, ha⟩ : ∃ a, a = u.modShut sh ({ · with rep := some n }) := ⟨_, rfl⟩
  have hword : u.pWord sh ((s.shPc sh + 1) % 65536) = s.pWord sh ((s.shPc sh + 1) % 65536) := by rw [State.pWord, hus]; rfl
  have hbody : repBody sh (if dat then .dat k else .imm k) u = (a, .goto (s.shPc sh + 1)) := by
    unfold repBody
    dsimp only
    rw [Shuttle.lastOfBody_nil hul, hpc, hword, hnext, hok, hcnt, if_neg (by simp), if_neg (by simp), if_neg (by omega), ha]
  obtain ⟨htpc, -, htag, honly⟩ := runIns_goto hruns hrep (by rw [← hu]; exact hbody)
    (by rw [← hu, ha]; exact modShut_onlyShuttle sh _ _)
  refine ⟨_, rfl, ((congrArg Shuttle.rep htag).trans rfl).trans ?_, htpc, honly⟩
  rw [ha]
  exact congrArg Shuttle.rep ((State.shut_setShut _ _ _ _).trans (if_pos rfl))

/-! ## The ends of passes and the repeats of REP -/

theorem xferBody_imm (n i v : Nat) (s : State) (hi : i < 8) : xferBody n (.imm (.d i) v) s = (s.setSv n (.d i) (v % 2 ^ 24), .done) := by
  have hok : ¬ ((!sregOk (.d i)) = true) := by simp [sregOk, hi]
  exact if_neg hok

theorem classRepeats_transfer {w : BitVec 48} (h : insClass w = 4) : classRepeats w = true := by
  have hw : w ≠ 0 := by rintro rfl; exact absurd h (by decide)
  rw [classRepeats, h, bne_iff_ne.2 hw]
  rfl

/-- A transfer of an immediate, with what ends it still to be named. -/
theorem transferImm_eq {sh i v : Nat} {s : State} (h : s.runs sh 4 = true) (hi : i < 8) :
    exec (.transfer ⟨sh, false⟩ (.imm (.d i) v)) s =
      .next (advance sh (s.shPc sh) (issue sh 4 (s.shPc sh) ((s.setFld (fSh_STAT_BLOCKED sh) 0).setSv sh (.d i) (v % 2 ^ 24)))) := by
  obtain ⟨-, -, -, hcls, -⟩ := State.runs_elim h
  have hrun := runIns_eq h (xferBody sh (.imm (.d i) v)) (.inr (classRepeats_transfer hcls))
  rw [xferBody_imm sh i v _ hi] at hrun
  exact congrArg _ hrun

/-- What a transfer of an immediate has done when its issue is over. -/
theorem transferImm_issued (sh i v pc : Nat) (s : State) :
    let a := issue sh 4 pc ((s.setFld (fSh_STAT_BLOCKED sh) 0).setSv sh (.d i) (v % 2 ^ 24))
    a.shPc sh = s.shPc sh ∧ (∀ x, x ≠ .d i → a.sv sh x = s.sv sh x) ∧ flowKept sh s a ∧ onlyShuttle sh s a := by
  have hset : onlyShuttle sh s (s.setFld (fSh_STAT_BLOCKED sh) 0) := setFld_onlyShuttle sh ⟨rfl, rfl⟩ s 0
  obtain ⟨u, hu⟩ : ∃ u, u = s.setFld (fSh_STAT_BLOCKED sh) 0 := ⟨_, rfl⟩
  obtain ⟨w, hw⟩ : ∃ w, w = u.setSv sh (.d i) (v % 2 ^ 24) := ⟨_, rfl⟩
  have hi := issue_issued sh 4 pc w
  have hwpc : w.shPc sh = u.shPc sh := by rw [hw]; rfl
  rw [← hu] at hset ⊢
  rw [← hw]
  refine ⟨(hi.fld (by decide)).trans (hwpc.trans ?_), fun x hx => (hi.sv x).trans ?_, ?_, ?_⟩
  · rw [hu]; exact State.fld_setFld_ne s _ _ _ _ _ (by simp)
  · rw [hw, State.sv_setSv_ne _ _ _ hx, hu]; rfl
  · have hwk : flowKept sh s w := by rw [hw, hu]; exact setSv_flowKept sh (.d i) _ _
    exact hwk.trans hi.flowKept
  · have hwo : onlyShuttle sh u w := by rw [hw]; exact setSv_onlyShuttle sh _ _ _
    exact (hset.trans hwo).trans hi.onlyShuttle

theorem passEnds_claim {sh i v : Nat} {l : LoopLvl} {s : State} (h : s.runs sh 4 = true) (hrep : (s.shut sh).rep = none)
    (hloops : (s.shut sh).loops = [l]) (hd : l.depth = (s.shut sh).stack.length) (hlast : l.last = s.shPc sh) (hf : l.first < 65536)
    (h2 : 2 ≤ s.sv sh (.lc 0)) (hlt : s.sv sh (.lc 0) < 65536) (hi : i < 8) :
    ∃ t, exec (.transfer ⟨sh, false⟩ (.imm (.d i) v)) s = .next t ∧ t.shPc sh = l.first ∧ t.sv sh (.lc 0) = s.sv sh (.lc 0) - 1 ∧
      (t.shut sh).loops = [l] ∧ onlyShuttle sh s t := by
  obtain ⟨-, hsv, ⟨-, hkl, hkr, hks, -⟩, honly⟩ := transferImm_issued sh i v (s.shPc sh) s
  have hexec := transferImm_eq (v := v) h hi
  obtain ⟨a, ha⟩ : ∃ a, a = issue sh 4 (s.shPc sh) ((s.setFld (fSh_STAT_BLOCKED sh) 0).setSv sh (.d i) (v % 2 ^ 24)) := ⟨_, rfl⟩
  rw [← ha] at hexec
  simp only [← ha] at hsv hkl hkr hks honly
  have hleft : a.sv sh (.lc 0) = s.sv sh (.lc 0) := hsv _ (by simp)
  have hadv : advance sh (s.shPc sh) a = (a.setSv sh (.lc 0) (s.sv sh (.lc 0) - 1)).setPc sh l.first := by
    unfold advance
    rw [hkr, hrep]
    show passEnd 3 sh (s.shPc sh) a = _
    unfold passEnd
    dsimp only
    rw [hkl, hloops]
    dsimp only [List.length_nil]
    rw [hks, if_pos ⟨hd, hlast⟩, if_neg (by rw [hleft]; omega), hleft]
  rw [hadv] at hexec
  obtain ⟨-, hsl, -⟩ := setSv_flowKept sh (.lc 0) (s.sv sh (.lc 0) - 1) a
  refine ⟨_, hexec, (State.shPc_setPc _ _ _).trans (Nat.mod_eq_of_lt hf), ?_, (hsl.trans hkl).trans hloops,
    (honly.trans (setSv_onlyShuttle sh _ _ a)).trans (setPc_onlyShuttle sh _ _)⟩
  exact State.sv_lt_of_set (s := a) (by simp [sregBits]) (Nat.lt_of_le_of_lt (Nat.sub_le _ _) hlt)

theorem repeats_claim {sh i v n : Nat} {s : State} (h : s.runs sh 4 = true) (hrep : (s.shut sh).rep = some n) (h2 : 2 ≤ n) (hi : i < 8) :
    ∃ t, exec (.transfer ⟨sh, false⟩ (.imm (.d i) v)) s = .next t ∧ (t.shut sh).rep = some (n - 1) ∧ t.shPc sh = s.shPc sh ∧
      onlyShuttle sh s t := by
  obtain ⟨hpc, -, ⟨-, -, hkr, -, -⟩, honly⟩ := transferImm_issued sh i v (s.shPc sh) s
  have hexec := transferImm_eq (v := v) h hi
  obtain ⟨a, ha⟩ : ∃ a, a = issue sh 4 (s.shPc sh) ((s.setFld (fSh_STAT_BLOCKED sh) 0).setSv sh (.d i) (v % 2 ^ 24)) := ⟨_, rfl⟩
  rw [← ha] at hexec
  simp only [← ha] at hpc hkr honly
  have hadv : advance sh (s.shPc sh) a = a.modShut sh ({ · with rep := some (n - 1) }) := by
    unfold advance
    rw [hkr, hrep]
    exact if_pos (by omega)
  rw [hadv] at hexec
  exact ⟨_, hexec, congrArg Shuttle.rep ((State.shut_setShut _ _ _ _).trans (if_pos rfl)), hpc, honly.trans (modShut_onlyShuttle sh _ a)⟩

/-! ## Branches and calls -/

theorem branch_claim {sh target : Nat} {cond : Cond} {s : State} (h : s.runsOn sh 6 = true) (ht : target < 65536) :
    ∃ t, exec (.branch ⟨sh, false⟩ cond target) s = .next t ∧
      t.shPc sh = (if condHolds cond (s.sv sh .sr) false then target else (s.shPc sh + 1) % 65536) ∧ (∀ x, t.sv sh x = s.sv sh x) ∧
      onlyShuttle sh s t := by
  obtain ⟨hruns, hrep, hloops⟩ := State.runsOn_elim h
  obtain ⟨u, hu⟩ : ∃ u, u = s.setFld (fSh_STAT_BLOCKED sh) 0 := ⟨_, rfl⟩
  have hus : u.shut sh = s.shut sh := by rw [hu]; rfl
  have husv (x : SReg) : u.sv sh x = s.sv sh x := State.sv_congr (by rw [hus]) x
  have hlp : u.lastPass sh = false := by
    unfold State.lastPass
    rw [hus, Shuttle.here_nil hloops]
  obtain ⟨body, hb⟩ : ∃ body : State → State × InsEnd, body = fun a => if 65536 ≤ target then (a, .fault shIllegal)
      else if condHolds cond (a.sv sh .sr) (a.lastPass sh) then (closeLevels sh target a, .goto target) else (a, .done) := ⟨_, rfl⟩
  have hexec : exec (.branch ⟨sh, false⟩ cond target) s = .next (runIns ⟨sh, false⟩ 6 body s) := by rw [hb]; rfl
  have hbody : body u = if condHolds cond (s.sv sh .sr) false then (closeLevels sh target u, .goto target) else (u, .done) := by
    rw [hb]
    dsimp only
    rw [if_neg (by omega), husv, hlp]
  by_cases hc : condHolds cond (s.sv sh .sr) false = true
  · rw [if_pos hc] at hbody ⊢
    obtain ⟨hpc, hsv, -, honly⟩ := runIns_goto hruns hrep (by rw [← hu]; exact hbody)
      (by rw [← hu]; exact modShut_onlyShuttle sh _ u)
    refine ⟨_, hexec, hpc.trans (Nat.mod_eq_of_lt ht), fun x => (hsv x).trans (.trans ?_ (husv x)), honly⟩
    exact State.sv_congr (by rw [closeLevels, State.shut_modShut_self]) x
  · rw [if_neg hc] at hbody ⊢
    obtain ⟨hpc, hsv, -, honly⟩ := runIns_done h (by rw [← hu]; exact hbody) (by rw [← hu]; exact .refl sh u)
      (by rw [hu]; exact setFld_flowKept sh _ _ s)
    exact ⟨_, hexec, hpc, fun x => (hsv x).trans (husv x), honly⟩

theorem call_claim {sh target : Nat} {s : State} (h : s.runsOn sh 6 = true) (ht : target < 65536) (hst : (s.shut sh).stack.length < 16) :
    ∃ t, exec (.call ⟨sh, false⟩ target) s = .next t ∧ t.shPc sh = target ∧ (t.shut sh).stack = (s.shPc sh + 1) % 65536 :: (s.shut sh).stack ∧
      (∀ x, t.sv sh x = s.sv sh x) ∧ onlyShuttle sh s t := by
  obtain ⟨hruns, hrep, hloops⟩ := State.runsOn_elim h
  obtain ⟨u, hu⟩ : ∃ u, u = s.setFld (fSh_STAT_BLOCKED sh) 0 := ⟨_, rfl⟩
  have hus : u.shut sh = s.shut sh := by rw [hu]; rfl
  have hpc : u.shPc sh = s.shPc sh := by rw [hu]; exact State.fld_setFld_ne s _ _ _ _ _ (by simp)
  have hul : (u.shut sh).loops = [] := by rw [hus]; exact hloops
  obtain ⟨body, hb⟩ : ∃ body : State → State × InsEnd, body = fun a => if 65536 ≤ target then (a, .fault shIllegal)
      else if (a.shut sh).lastOfBody (a.shPc sh) then (a, .fault shLoop)
      else if 16 ≤ (a.shut sh).stack.length then (a, .fault shStack)
      else (a.modShut sh fun h => { h with stack := (a.shPc sh + 1) % 65536 :: h.stack }, .goto target) := ⟨_, rfl⟩
  have hexec : exec (.call ⟨sh, false⟩ target) s = .next (runIns ⟨sh, false⟩ 6 body s) := by rw [hb]; rfl
  have hbody : body u = (u.modShut sh fun h => { h with stack := (s.shPc sh + 1) % 65536 :: h.stack }, .goto target) := by
    rw [hb]
    dsimp only
    rw [hpc, Shuttle.lastOfBody_nil hul, if_neg (by omega), if_neg Bool.false_ne_true, if_neg (by rw [hus]; omega)]
  have hmod := (State.shut_setShut u sh sh { u.shut sh with stack := (s.shPc sh + 1) % 65536 :: (u.shut sh).stack }).trans (if_pos rfl)
  obtain ⟨htpc, hsv, htag, honly⟩ := runIns_goto hruns hrep (by rw [← hu]; exact hbody) (by rw [← hu]; exact modShut_onlyShuttle sh _ u)
  refine ⟨_, hexec, htpc.trans (Nat.mod_eq_of_lt ht), ?_, fun x => (hsv x).trans ?_, honly⟩
  · exact ((congrArg Shuttle.stack htag).trans rfl).trans ((congrArg Shuttle.stack hmod).trans (by rw [hus]))
  · exact State.sv_congr ((congrArg Shuttle.regs hmod).trans (by rw [hus])) x

theorem return_claim {sh a : Nat} {r : List Nat} {s : State} (h : s.runsOn sh 6 = true) (hst : (s.shut sh).stack = a :: r) (ha : a < 65536) :
    ∃ t, exec (.return_ ⟨sh, false⟩) s = .next t ∧ t.shPc sh = a ∧ (t.shut sh).stack = r ∧ (∀ x, t.sv sh x = s.sv sh x) ∧
      onlyShuttle sh s t := by
  obtain ⟨hruns, hrep, hloops⟩ := State.runsOn_elim h
  obtain ⟨u, hu⟩ : ∃ u, u = s.setFld (fSh_STAT_BLOCKED sh) 0 := ⟨_, rfl⟩
  have hus : u.shut sh = s.shut sh := by rw [hu]; rfl
  have hul : (u.shut sh).loops = [] := by rw [hus]; exact hloops
  obtain ⟨body, hb⟩ : ∃ body : State → State × InsEnd, body = fun a => if !(a.shut sh).here.isEmpty then (a, .fault shLoop)
      else match (a.shut sh).stack with
        | [] => (a, .fault shStack)
        | t :: r => (a.setShut sh { a.shut sh with stack := r }, .goto t) := ⟨_, rfl⟩
  have hexec : exec (.return_ ⟨sh, false⟩) s = .next (runIns ⟨sh, false⟩ 6 body s) := by rw [hb]; rfl
  have hbody : body u = (u.setShut sh { u.shut sh with stack := r }, .goto a) := by
    rw [hb]
    dsimp only
    rw [Shuttle.here_nil hul, if_neg (by simp), show (u.shut sh).stack = a :: r by rw [hus]; exact hst]
  have hmod := (State.shut_setShut u sh sh { u.shut sh with stack := r }).trans (if_pos rfl)
  obtain ⟨htpc, hsv, htag, honly⟩ := runIns_goto hruns hrep (by rw [← hu]; exact hbody)
    (by rw [← hu]; exact modShut_onlyShuttle sh ({ · with stack := r }) u)
  refine ⟨_, hexec, htpc.trans (Nat.mod_eq_of_lt ha), ((congrArg Shuttle.stack htag).trans rfl).trans (congrArg Shuttle.stack hmod),
    fun x => (hsv x).trans (State.sv_congr ((congrArg Shuttle.regs hmod).trans (by rw [hus])) x), honly⟩

end Sys2Proof.Machine

end

section
/-! PROOFS. Halts, timers, restarts and faults of shuttles (R317, R319, R325, R326, R333). -/

-- The checked text is one long file: elaborating these in order bounds its threads and memory.
set_option Elab.async false

namespace Sys2Proof.Machine

/-! ## A stop without streams -/

theorem servoCheck_moved (s : State) : moved (fun r => r = rCox_TB_STAT) [.time, .regs] s (servoCheck s) := by
  unfold servoCheck
  split
  · exact ((noteLocked_onlyParts s).moved (by decide) _ (by decide)).trans ⟨setServo_onlyRegs _ _, setServo_onlyParts _ _⟩
  · exact .refl _ _ s

theorem stopShuttle_quiet {n st src : Nat} {s : State} (hst : st < 8) (hsrc : src < 4) (hstrs : (s.shut n).strs = []) :
    let t := stopShuttle n st src s
    t.shState n = st ∧ t.fld (fSh_STAT_HALT_SRC n) = src ∧ (t.shut n).ungated = { s.shut n with strs := [], fifos := [] }.ungated ∧
      (∀ m, m ≠ n → t.shut m = (gateShuttles s).shut m) ∧ onlyRegs (fun r => r = rSh_STAT n ∨ r = rCox_TB_STAT) s t ∧
      (4 ≤ n → moved (fun r => r = rSh_STAT n) [.sht, .regs] s t) := by
  obtain ⟨hstate, hhalt, hun, -, -, hquiet⟩ := stopped_effect (n := n) hst hsrc s
  obtain ⟨hm, hother⟩ := hquiet hstrs
  obtain ⟨d, hd⟩ : ∃ d, d = stopped n st src s := ⟨_, rfl⟩
  rw [stopShuttle_eq]
  simp only [← hd] at hstate hhalt hun hm hother ⊢
  by_cases h4 : n < 4
  · rw [if_pos h4]
    have hc := servoCheck_moved d
    have hshut : ∀ m, (servoCheck d).shut m = d.shut m := State.shut_congr (hc.2 .sht (by decide))
    refine ⟨(hc.1.fld (by simp)).trans hstate, (hc.1.fld (by simp)).trans hhalt, ?_, fun m hm => (hshut m).trans (hother m hm),
      (hm.1.mono fun _ => .inl).trans (hc.1.mono fun _ => .inr), fun h => absurd h4 (by omega)⟩
    rw [hshut, hun]
  · rw [if_neg h4]
    exact ⟨hstate, hhalt, hun, hother, hm.1.mono fun _ => .inl, fun _ => hm⟩

theorem ungated_regs {h k : Shuttle} (hu : h.ungated = k.ungated) : h.regs = k.regs := (congrArg Shuttle.regs hu).trans rfl

theorem issued.gated {n : Nat} {s t : State} (h : issued n s t) {m : Nat} (hm : m ≠ n) : (gateShuttles t).shut m = (gateShuttles s).shut m := by
  obtain ⟨-, -, hfind, hmoved⟩ := h
  refine gateShuttles_shut (hfind m hm) (hmoved.2 .up (by decide)) (State.shGated_congr hmoved.1 ?_ ?_)
  · exact fun hr => hm hr.1.2
  · exact fun hr => Blk.noConfusion hr.1.1

/-- A field of another shuttle's registers does not gate a shuttle. -/
theorem gated_setFld {n m : Nat} (hm : m ≠ n) {o : Nat} (hi lo v : Nat) (s : State) :
    (gateShuttles (s.setFld ⟨⟨.sh, n, o⟩, hi, lo⟩ v)).shut m = (gateShuttles s).shut m :=
  gateShuttles_shut rfl rfl (State.shGated_congr (setFld_onlyReg s _ _ _ _) (by simp [hm]) (by simp))

/-! ## HALT -/

theorem runIns_halt {n cls : Nat} {s a : State} {body : State → State × InsEnd} (h : s.runs n cls = true) (hrep : (s.shut n).rep = none)
    (hbody : body (s.setFld (fSh_STAT_BLOCKED n) 0) = (a, .halt)) : runIns ⟨n, false⟩ cls body s =
      raise_ (fSh_EVENT_HALTED n) (stopShuttle n stHalted 1 ((issue n cls (s.shPc n) a).setPc n (s.shPc n + 1))) := by
  rw [runIns_eq h body (.inl hrep), hbody]

theorem halt_claim {sh : Nat} {s : State} (h : s.runsOn sh 0 = true) (hstrs : (s.shut sh).strs = []) :
    ∃ t, exec (.halt ⟨sh, false⟩) s = .next t ∧ t.shState sh = stHalted ∧
      t.fld (fSh_STAT_HALT_SRC sh) = 1 ∧ t.shPc sh = (s.shPc sh + 1) % 65536 ∧ t.fld (fSh_EVENT_HALTED sh) = 1 ∧ (t.shut sh).fifos = [] ∧
      (∀ x, t.sv sh x = s.sv sh x) ∧ (∀ m, m ≠ sh → t.shut m = (gateShuttles s).shut m) ∧
      (4 ≤ sh → onlyRegs (fun r => shReg sh r ∨ noteReg r) s t ∧ onlyParts [.sht, .free, .rings, .regs, .out] s t) := by
  obtain ⟨hruns, hrep, hloops⟩ := State.runsOn_elim h
  obtain ⟨u, hu⟩ : ∃ u, u = s.setFld (fSh_STAT_BLOCKED sh) 0 := ⟨_, rfl⟩
  obtain ⟨i, hi⟩ : ∃ i, i = issue sh 0 (s.shPc sh) u := ⟨_, rfl⟩
  obtain ⟨a, ha⟩ : ∃ a, a = i.setPc sh (s.shPc sh + 1) := ⟨_, rfl⟩
  obtain ⟨d, hd⟩ : ∃ d, d = stopShuttle sh stHalted 1 a := ⟨_, rfl⟩
  have hui : issued sh u i := by rw [hi]; exact issue_issued sh 0 _ u
  have hexec : exec (.halt ⟨sh, false⟩) s = .next (raise_ (fSh_EVENT_HALTED sh) d) := by
    obtain ⟨body, hb⟩ : ∃ body : State → State × InsEnd, body = fun a =>
        if (a.shut sh).lastOfBody (a.shPc sh) then (a, .fault shLoop) else (a, .halt) := ⟨_, rfl⟩
    have hbody : body u = (u, .halt) := by
      rw [hb]
      dsimp only
      rw [Shuttle.lastOfBody_nil (by rw [hu]; exact hloops), if_neg Bool.false_ne_true]
    rw [hd, ha, hi, ← runIns_halt (body := body) hruns hrep (by rw [← hu]; exact hbody), hb]
    rfl
  have hashut : a.shut sh = i.shut sh := by rw [ha]; rfl
  have hastrs : (a.shut sh).strs = [] := by
    rw [hashut, hui.flowKept.2.2.2.2, hu]; exact hstrs
  obtain ⟨hstate, hhalt, hun, hother, hregs, howner⟩ := stopShuttle_quiet (st := stHalted) (src := 1) (by decide) (by decide) hastrs
  simp only [← hd] at hstate hhalt hun hother hregs howner
  have hr := raise_onlyRegs (fSh_EVENT_HALTED sh) d
  have hp := raise_onlyParts (fSh_EVENT_HALTED sh) d
  have hshut : ∀ m, (raise_ (fSh_EVENT_HALTED sh) d).shut m = d.shut m := State.shut_congr (hp .sht (by decide))
  have hsa : onlyShuttle sh s a := by
    rw [ha]
    exact ((show onlyShuttle sh s u by rw [hu]; exact setFld_onlyShuttle sh ⟨rfl, rfl⟩ s 0).trans hui.onlyShuttle).trans (setPc_onlyShuttle sh _ _)
  refine ⟨_, hexec, (hr.fld (by simp [noteReg])).trans hstate, (hr.fld (by simp [noteReg])).trans hhalt, ?_,
    raise_fld_self (rSh_EVENT sh) d (by decide) ⟨Blk.noConfusion, Blk.noConfusion⟩, ?_, fun x => ?_, fun m hm => ?_, fun h4 => ⟨?_, ?_⟩⟩
  · refine (hr.fld (by simp [noteReg])).trans ((hregs.fld (by simp)).trans ?_)
    rw [ha]; exact State.shPc_setPc _ _ _
  · rw [hshut]; exact (congrArg Shuttle.fifos hun).trans rfl
  · have hsv : (raise_ (fSh_EVENT_HALTED sh) d).sv sh x = i.sv sh x := State.sv_congr (by
      rw [hshut]; exact (ungated_regs hun).trans (by rw [hashut])) x
    rw [hsv, hui.sv, hu]; rfl
  · rw [hshut, hother m hm, ha]
    exact (gated_setFld hm _ _ _ _).trans ((hui.gated hm).trans (by rw [hu]; exact gated_setFld hm _ _ _ _))
  · refine ((hsa.2.1.mono fun _ => .inl).trans ((howner h4).1.mono fun r hr => .inl (hr ▸ ⟨rfl, rfl⟩))).trans (hr.mono ?_)
    rintro r (rfl | h)
    · exact .inl ⟨rfl, rfl⟩
    · exact .inr h
  · exact ((hsa.2.2.mono (by decide)).trans ((howner h4).2.mono (by decide))).trans (hp.mono (by decide))

/-! ## The timer and the restart of a house shuttle -/

theorem tmrExpiry_claim {sh : Nat} {s : State} (h96 : sh < 96) (htmr : s.sv sh .tmr ≠ 0) (hg : s.shGated sh = false) :
    ∃ t, exec (.tmrExpiry sh) s = .next t ∧ (t.shut sh).tmr = true ∧
      t.sv sh .tmr = 0 ∧ (∀ x, x ≠ .tmr → t.sv sh x = s.sv sh x) ∧ (∀ m, m ≠ sh → t.shut m = s.shut m) ∧ onlyParts [.sht] s t := by
  obtain ⟨u, hu⟩ : ∃ u, u = s.setSv sh .tmr 0 := ⟨_, rfl⟩
  have hexec : exec (.tmrExpiry sh) s = .next (u.modShut sh ({ · with tmr := true })) := by
    rw [hu]
    exact congrArg _ (if_neg (by rw [hg]; simp; exact ⟨h96, htmr⟩))
  have hdef : s.setSv sh .tmr 0 = s.modShut sh fun h => { h with regs := Tab.set h.regs .tmr 0, tmrAt := h.gateAt.getD s.up } := rfl
  have hsv (x : SReg) : (u.modShut sh ({ · with tmr := true })).sv sh x = u.sv sh x := State.sv_congr (by rw [State.shut_modShut_self]) x
  have huo : onlyShuttle sh s u := by rw [hu]; exact setSv_onlyShuttle sh _ _ s
  refine ⟨_, hexec, by rw [State.shut_modShut_self], ?_, fun x hx => ?_, (huo.trans (modShut_onlyShuttle sh _ u)).1, ?_⟩
  · rw [hsv, hu]; exact State.sv_setSv_self s sh .tmr 0 (by decide)
  · rw [hsv, hu]; exact State.sv_setSv_ne s sh 0 hx
  · have hup : onlyParts [.sht] s u := by rw [hu, hdef]; exact modShut_onlyParts sh _ s
    exact hup.trans (modShut_onlyParts sh _ u)

/-- The registers, loops and stack of a house shuttle as its restart leaves them. -/
def restarted (sh : Nat) (s : State) : State :=
  ((((s.modShut sh fun h => { h with regs := [], loops := [], rep := none, stack := [] }).setSv sh .sr 0).setSv sh .mr (s.shut sh).mrInit).setPc sh
    (s.shut sh).entry)

theorem restarted_effect {sh : Nat} {s : State} (he : (s.shut sh).entry < 65536) : let t := restarted sh s
    t.shPc sh = (s.shut sh).entry ∧ (∀ i, t.sv sh (.a i) = 0 ∧ t.sv sh (.d i) = 0) ∧ (t.shut sh).p = (s.shut sh).p ∧
      (∀ m, m ≠ sh → Tab.find t.sht.sh m = Tab.find s.sht.sh m) ∧ moved (shReg sh) [.sht, .regs] s t := by
  intro t
  obtain ⟨a, ha⟩ : ∃ a, a = s.modShut sh fun h => { h with regs := [], loops := [], rep := none, stack := [] } := ⟨_, rfl⟩
  obtain ⟨b, hb⟩ : ∃ b, b = a.setSv sh .sr 0 := ⟨_, rfl⟩
  obtain ⟨c, hc⟩ : ∃ c, c = b.setSv sh .mr (s.shut sh).mrInit := ⟨_, rfl⟩
  have ht : t = c.setPc sh (s.shut sh).entry := by rw [hc, hb, ha]; rfl
  have hset (f : FldId) (hf : shReg sh f.reg) (x : State) (v : Nat) : moved (shReg sh) [.sht, .regs] x (x.setFld f v) :=
    setFld_moved (P := shReg sh) f hf (by decide) x v
  have hsv (x : SReg) (h1 : x ≠ .sr) (h2 : x ≠ .mr) : t.sv sh x = 0 := by
    have h : t.sv sh x = c.sv sh x := by rw [ht]; rfl
    rw [h, hc, State.sv_setSv_ne _ _ _ h2, hb, State.sv_setSv_ne _ _ _ h1, State.sv, ha, State.shut_modShut_self]
    rfl
  refine ⟨by rw [ht]; exact State.fld_setFld_self_of_lt _ _ (by decide) he, fun i => ⟨hsv _ (by simp) (by simp), hsv _ (by simp) (by simp)⟩, ?_,
    fun m hm => ?_, ?_⟩
  · have h : (t.shut sh).p = (c.shut sh).p := by rw [ht]; rfl
    have hcb : (c.shut sh).p = (b.shut sh).p := by rw [hc]; exact (setSv_flowKept sh _ _ b).1
    have hba : (b.shut sh).p = (a.shut sh).p := by rw [hb]; exact (setSv_flowKept sh _ _ a).1
    rw [h, hcb, hba, ha, State.shut_modShut_self]
  · have h1 : Tab.find a.sht.sh m = Tab.find s.sht.sh m := by rw [ha]; exact State.find_modShut s _ hm
    have h2 : Tab.find b.sht.sh m = Tab.find a.sht.sh m := by rw [hb]; exact State.find_setSv a _ _ hm
    have h3 : Tab.find c.sht.sh m = Tab.find b.sht.sh m := by rw [hc]; exact State.find_setSv b _ _ hm
    rw [ht]
    exact h3.trans (h2.trans h1)
  · have h1 : moved (shReg sh) [.sht, .regs] s a := by rw [ha]; exact (modShut_onlyParts sh _ s).moved (by decide) _ (by decide)
    have h2 : moved (shReg sh) [.sht, .regs] a b := by
      rw [hb]; exact ((modShut_onlyParts sh _ a).moved (by decide) _ (by decide)).trans (hset (fSh_STAT_CLIP sh) ⟨rfl, rfl⟩ _ _)
    have h3 : moved (shReg sh) [.sht, .regs] b c := by
      rw [hc]; exact ((modShut_onlyParts sh _ b).moved (by decide) _ (by decide)).trans (hset (fSh_STAT_SAT sh) ⟨rfl, rfl⟩ _ _)
    rw [ht]
    exact ((h1.trans h2).trans h3).trans (hset (fSh_PC_PC sh) ⟨rfl, rfl⟩ _ _)

theorem houseRestart_claim {sh : Nat} {s : State} (h4 : sh < 4) (hf : s.shState sh = stFault) (he : (s.shut sh).entry < 65536) :
    ∃ t, exec (.houseRestart sh) s = .next t ∧
      t.shState sh = stRun ∧ t.shPc sh = (s.shut sh).entry ∧ t.reg (rSh_FAULT sh) = 0#32 ∧ t.fld (fSh_EVENT_HOUSE_RESTART sh) = 1 ∧
      (∀ i, t.sv sh (.a i) = 0 ∧ t.sv sh (.d i) = 0) ∧ (t.shut sh).p = (s.shut sh).p ∧ (∀ m, m ≠ sh → t.shut m = (gateShuttles s).shut m) ∧
      onlyRegs (fun r => shReg sh r ∨ noteReg r) s t ∧ onlyParts [.sht, .rings, .regs, .out] s t := by
  obtain ⟨hpc, hsv, hprog, hfind, hsa⟩ := restarted_effect he
  obtain ⟨a, ha⟩ : ∃ a, a = restarted sh s := ⟨_, rfl⟩
  obtain ⟨b, hb⟩ : ∃ b, b = a.setFld (fSh_STAT_STATE sh) stRun := ⟨_, rfl⟩
  obtain ⟨c, hc⟩ : ∃ c, c = gateShuttles b := ⟨_, rfl⟩
  obtain ⟨d, hd⟩ : ∃ d, d = c.setReg (rSh_FAULT sh) 0 := ⟨_, rfl⟩
  have hexec : exec (.houseRestart sh) s = .next (raise_ (fSh_EVENT_HOUSE_RESTART sh) d) := by
    rw [hd, hc, hb, ha]
    exact congrArg _ (if_neg (not_or.2 ⟨by omega, not_not.2 hf⟩))
  simp only [← ha] at hpc hsv hprog hfind hsa
  have hab : moved (shReg sh) [.sht, .regs] a b := by
    rw [hb]; exact setFld_moved (P := shReg sh) (fSh_STAT_STATE sh) ⟨rfl, rfl⟩ (by decide) a stRun
  have hbc : onlyParts [.sht] b c := by rw [hc]; exact gateShuttles_onlyParts b
  have hcd : onlyRegs (fun r => r = rSh_FAULT sh) c d := by rw [hd]; exact setReg_onlyRegs c _ 0
  have hcdp : onlyParts [.regs] c d := by rw [hd]; exact setReg_onlyParts c _ 0
  have hr := raise_onlyRegs (fSh_EVENT_HOUSE_RESTART sh) d
  have hp := raise_onlyParts (fSh_EVENT_HOUSE_RESTART sh) d
  have hfld (r : RegId) (hi lo : Nat) (h1 : r ≠ rSh_EVENT sh ∧ ¬ noteReg r) (h2 : r ≠ rSh_FAULT sh) :
      (raise_ (fSh_EVENT_HOUSE_RESTART sh) d).fld ⟨r, hi, lo⟩ = b.fld ⟨r, hi, lo⟩ :=
    (hr.fld (not_or.2 h1)).trans ((hcd.fld h2).trans (State.fld_congr (hbc .regs (by decide)) _))
  have hshut (m : Nat) : (raise_ (fSh_EVENT_HOUSE_RESTART sh) d).shut m = c.shut m :=
    (State.shut_congr (hp .sht (by decide)) m).trans (State.shut_congr (hcdp .sht (by decide)) m)
  have hun : (c.shut sh).ungated = (a.shut sh).ungated := by
    rw [hc, gateShuttles_ungated, hb]; rfl
  have hreg : (c.shut sh).regs = (a.shut sh).regs := ungated_regs hun
  refine ⟨_, hexec, ?_, ?_, ?_, raise_fld_self (rSh_EVENT sh) d (by decide) ⟨Blk.noConfusion, Blk.noConfusion⟩, fun i => ?_, ?_, fun m hm => ?_, ?_, ?_⟩
  · exact (hfld _ _ _ (by simp [noteReg]) (by simp)).trans (by rw [hb]; exact State.fld_setFld_self_of_lt _ _ (by decide) (by decide))
  · refine (hfld _ _ _ (by simp [noteReg]) (by simp)).trans (.trans ?_ hpc)
    rw [hb]; exact State.fld_setFld_ne a _ _ _ _ _ (by simp)
  · exact (hr _ (by simp [noteReg])).trans (by rw [hd]; exact State.reg_setReg_self _ _ _)
  · have h (x : SReg) : (raise_ (fSh_EVENT_HOUSE_RESTART sh) d).sv sh x = a.sv sh x := State.sv_congr (by rw [hshut, hreg]) x
    rw [h, h]
    exact hsv i
  · rw [hshut]; exact ((congrArg Shuttle.p hun).trans rfl).trans hprog
  · have hfm : Tab.find b.sht.sh m = Tab.find s.sht.sh m := by
      rw [← hfind m hm, hb]; rfl
    rw [hshut, hc]
    exact gateShuttles_shut hfm ((hsa.trans hab).2 .up (by decide))
      (State.shGated_congr (hsa.trans hab).1 (fun h => hm h.2) (fun h => Blk.noConfusion h.1))
  · have hbc' : onlyRegs (fun r => shReg sh r ∨ noteReg r) b c := (hbc.regsKept (by decide)).of_none
    refine ((((hsa.trans hab).1.mono fun _ => .inl).trans hbc').trans (hcd.mono fun r h => .inl (h ▸ ⟨rfl, rfl⟩))).trans (hr.mono ?_)
    rintro r (rfl | h)
    · exact .inl ⟨rfl, rfl⟩
    · exact .inr h
  · exact ((((hsa.trans hab).2.mono (by decide)).trans (hbc.mono (by decide))).trans (hcdp.mono (by decide))).trans (hp.mono (by decide))

/-! ## Faults -/

theorem shFault_claim {sh kind : Nat} {s : State} (h4 : 4 ≤ sh) (hk : kind < 16) (hstrs : (s.shut sh).strs = []) :
    let t := shFault sh kind (s.setFld (fSh_STAT_BLOCKED sh) 0)
    t.shState sh = stFault ∧ t.fld (fSh_FAULT_KIND sh) = kind ∧ t.fld (fSh_FAULT_FPC sh) = s.shPc sh ∧
      t.shPc sh = s.shPc sh ∧ t.fld (fSh_EVENT_FAULT sh) = 1 ∧ (∀ x, t.sv sh x = s.sv sh x) ∧ (∀ m, m ≠ sh → t.shut m = (gateShuttles s).shut m) ∧
      onlyRegs (fun r => shReg sh r ∨ noteReg r) s t ∧ onlyParts [.sht, .rings, .regs, .out] s t := by
  intro t
  obtain ⟨u, hu⟩ : ∃ u, u = s.setFld (fSh_STAT_BLOCKED sh) 0 := ⟨_, rfl⟩
  obtain ⟨a, ha⟩ : ∃ a, a = stopShuttle sh stFault 0 u := ⟨_, rfl⟩
  obtain ⟨b, hb⟩ : ∃ b, b = a.setFld (fSh_FAULT_KIND sh) kind := ⟨_, rfl⟩
  obtain ⟨c, hc⟩ : ∃ c, c = b.setFld (fSh_FAULT_FPC sh) (u.shPc sh) := ⟨_, rfl⟩
  have ht : t = raise_ (fSh_EVENT_FAULT sh) c := by rw [hc, hb, ha, hu]; rfl
  have hupc : u.shPc sh = s.shPc sh := by rw [hu]; exact State.fld_setFld_ne s _ _ _ _ _ (by simp)
  obtain ⟨hstate, -, hun, hother, -, hm⟩ := stopShuttle_quiet (s := u) (n := sh) (st := stFault) (src := 0) (by decide) (by decide)
    (by rw [hu]; exact hstrs)
  simp only [← ha] at hstate hun hother hm
  have hua := hm h4
  have hset (f : FldId) (hf : f.reg = rSh_FAULT sh) (x : State) (v : Nat) : moved (fun r => r = rSh_FAULT sh) [.sht, .regs] x (x.setFld f v) :=
    setFld_moved (P := fun r => r = rSh_FAULT sh) f hf (by decide) x v
  have hac : moved (fun r => r = rSh_FAULT sh) [.sht, .regs] a c := by
    rw [hc, hb]; exact (hset _ rfl a _).trans (hset _ rfl _ _)
  have hr := raise_onlyRegs (fSh_EVENT_FAULT sh) c
  have hp := raise_onlyParts (fSh_EVENT_FAULT sh) c
  rw [← ht] at hr hp
  have hshut (m : Nat) : t.shut m = a.shut m := (State.shut_congr (hp .sht (by decide)) m).trans (by rw [hc, hb]; rfl)
  have hsu : moved (shReg sh) [.sht, .regs] s u := by
    rw [hu]; exact setFld_moved (P := shReg sh) (fSh_STAT_BLOCKED sh) ⟨rfl, rfl⟩ (by decide) s 0
  refine ⟨?_, ?_, ?_, ?_, ?_, fun x => ?_, fun m hm => ?_, ?_, ?_⟩
  · exact (hr.fld (by simp [noteReg])).trans ((hac.1.fld (by simp)).trans hstate)
  · refine (hr.fld (by simp [noteReg])).trans ?_
    rw [hc, State.fld_setFld_other _ _ _ _ _ _ _ (by decide) (by decide) (by decide) (by decide) (by decide), hb]
    exact State.fld_setFld_self_of_lt _ _ (by decide) hk
  · refine (hr.fld (by simp [noteReg])).trans ?_
    rw [hc, hupc]
    exact State.fld_setFld_self_of_lt _ _ (by decide) (State.fld_lt s (fSh_PC_PC sh))
  · exact (hr.fld (by simp [noteReg])).trans ((hac.1.fld (by simp)).trans ((hua.1.fld (by simp)).trans hupc))
  · rw [ht]; exact raise_fld_self (rSh_EVENT sh) c (by decide) ⟨Blk.noConfusion, Blk.noConfusion⟩
  · exact State.sv_congr (by rw [hshut, ungated_regs hun, hu]; rfl) x
  · rw [hshut, hother m hm, hu]
    exact gated_setFld hm _ _ _ _
  · refine (((hsu.1.mono fun _ => .inl).trans (hua.1.mono fun r h => .inl (h ▸ ⟨rfl, rfl⟩))).trans
      (hac.1.mono fun r h => .inl (h ▸ ⟨rfl, rfl⟩))).trans (hr.mono ?_)
    rintro r (rfl | h)
    · exact .inl ⟨rfl, rfl⟩
    · exact .inr h
  · exact ((hsu.2.trans (hua.2.trans hac.2)).mono (by decide)).trans (hp.mono (by decide))

/-- A word read with wrong parity stops the shuttle, whatever the instruction (R333). -/
theorem runIns_par {n cls : Nat} {p : ShAt} {body : State → State × InsEnd} {s : State} (hp : (p.sh == n && p.par) = true) (h96 : n < 96)
    (hrun : s.shState n = stRun) (hg : s.shGated n = false) : runIns p cls body s = shFault n shMem (s.setFld (fSh_STAT_BLOCKED n) 0) := by
  obtain ⟨sh, par⟩ := p
  obtain ⟨rfl, rfl⟩ : sh = n ∧ par = true := by simpa using hp
  unfold runIns
  dsimp only
  rw [if_neg (by rw [hrun, hg]; simpa using h96), if_pos rfl]

/-- A word of no class stops the shuttle (R309). -/
theorem runIns_bad {n cls : Nat} {body : State → State × InsEnd} {s : State} (hbad : classBad (s.pWord n (s.shPc n)) = true) (h96 : n < 96)
    (hrun : s.shState n = stRun) (hg : s.shGated n = false) : runIns ⟨n, false⟩ cls body s = shFault n shIllegal (s.setFld (fSh_STAT_BLOCKED n) 0) := by
  unfold runIns
  dsimp only
  rw [if_neg (by rw [hrun, hg]; simpa using h96), if_neg Bool.false_ne_true, if_pos hbad]

theorem runIns_fault {n cls kind : Nat} {s a : State} {body : State → State × InsEnd} (h : s.runsOn n cls = true)
    (hbody : body (s.setFld (fSh_STAT_BLOCKED n) 0) = (a, .fault kind)) :
    runIns ⟨n, false⟩ cls body s = shFault n kind (s.setFld (fSh_STAT_BLOCKED n) 0) := by
  obtain ⟨hruns, hrep, -⟩ := State.runsOn_elim h
  rw [runIns_eq hruns body (.inl hrep), hbody]

theorem exec_readsBadWord {sh : Nat} {i : Instr} {s : State} (h : readsBadWord sh i = true) (h96 : sh < 96) (hrun : s.shState sh = stRun)
    (hg : s.shGated sh = false) : exec i s = .next (shFault sh shMem (s.setFld (fSh_STAT_BLOCKED sh) 0)) := by
  have hpar (p : ShAt) (cls : Nat) (body : State → State × InsEnd) (hp : (p.sh == sh && p.par) = true) :
      (Host.Outcome.next (runIns p cls body s) : Host.Outcome State Fault Refusal) = .next (shFault sh shMem (s.setFld (fSh_STAT_BLOCKED sh) 0)) :=
    congrArg _ (runIns_par hp h96 hrun hg)
  unfold readsBadWord at h
  split at h
  · exact hpar _ _ _ h
  · exact hpar _ _ _ h
  · exact hpar _ _ _ h
  · rename_i p w
    have hp : p.par = true := by
      simp only [Bool.and_eq_true] at h; exact h.2
    show execDualMac p w s = _
    rw [execDualMac, if_pos (.inl hp)]
    exact hpar _ _ _ h
  · exact hpar _ _ _ h
  · exact hpar _ _ _ h
  · exact hpar _ _ _ h
  · exact hpar _ _ _ h
  · exact hpar _ _ _ h
  · exact hpar _ _ _ h
  · exact hpar _ _ _ h
  · exact hpar _ _ _ h
  · exact hpar _ _ _ h
  · exact hpar _ _ _ h
  · cases h

/-- Each instruction that breaks a rule stops its shuttle with the kind of its fault. -/
theorem exec_faults {sh kind : Nat} {i : Instr} {s : State} (h96 : sh < 96) (h4 : 4 ≤ sh) (hrun : s.shState sh = stRun)
    (hg : s.shGated sh = false)
    (h : s.runsOn sh 1 = true ∧ i = .alu ⟨sh, false⟩ .add (.acc 4) (.acc 0) 0 ∧ kind = 1 ∨
        classBad (s.pWord sh (s.shPc sh)) = true ∧ i = .halt ⟨sh, false⟩ ∧ kind = 1 ∨
        s.runsOn sh 5 = true ∧ classRepeats (s.pWord sh ((s.shPc sh + 1) % 65536)) = false ∧ i = .rep ⟨sh, false⟩ false 2 ∧ kind = 2 ∨
        s.runsOn sh 6 = true ∧ i = .return_ ⟨sh, false⟩ ∧ (s.shut sh).stack = [] ∧ kind = 3 ∨
        s.runsOn sh 8 = true ∧ (∃ dest d1 d2, dest < 4 ∧ d1 < 8 ∧ d2 < 8 ∧ i = .send ⟨sh, false⟩ dest d1 d2) ∧ kind = 4 ∨
        readsBadWord sh i = true ∧ kind = 5) :
    exec i s = .next (shFault sh kind (s.setFld (fSh_STAT_BLOCKED sh) 0)) := by
  obtain ⟨h, rfl, rfl⟩ | ⟨hbad, rfl, rfl⟩ | ⟨h, hnext, rfl, rfl⟩ | ⟨h, rfl, hst, rfl⟩ | ⟨h, ⟨dest, d1, d2, hdest, hd1, hd2, rfl⟩, rfl⟩ | ⟨h, rfl⟩ := h
  · exact congrArg _ (runIns_fault (a := s.setFld (fSh_STAT_BLOCKED sh) 0) h rfl)
  · exact congrArg _ (runIns_bad hbad h96 hrun hg)
  · obtain ⟨-, -, hloops⟩ := State.runsOn_elim h
    refine congrArg _ (runIns_fault (a := s.setFld (fSh_STAT_BLOCKED sh) 0) (body := repBody sh (.imm 2)) h ?_)
    have hpc : (s.setFld (fSh_STAT_BLOCKED sh) 0).shPc sh = s.shPc sh := State.fld_setFld_ne s _ _ _ _ _ (by simp)
    have hword : (s.setFld (fSh_STAT_BLOCKED sh) 0).pWord sh ((s.shPc sh + 1) % 65536) = s.pWord sh ((s.shPc sh + 1) % 65536) := rfl
    unfold repBody
    dsimp only
    rw [if_neg (by decide), hpc, hword, hnext, if_pos (by simp)]
  · obtain ⟨-, -, hloops⟩ := State.runsOn_elim h
    obtain ⟨u, hu⟩ : ∃ u, u = s.setFld (fSh_STAT_BLOCKED sh) 0 := ⟨_, rfl⟩
    have hul : (u.shut sh).loops = [] := by rw [hu]; exact hloops
    have hus : (u.shut sh).stack = [] := by rw [hu]; exact hst
    refine congrArg _ (runIns_fault (a := s.setFld (fSh_STAT_BLOCKED sh) 0) h ?_)
    rw [← hu]
    dsimp only
    rw [Shuttle.here_nil hul, if_neg (by simp), hus]
  · refine congrArg _ (runIns_fault (a := s.setFld (fSh_STAT_BLOCKED sh) 0) h ?_)
    dsimp only
    rw [if_neg (by omega), sendBody, if_neg (by omega), if_pos ⟨hdest, h4⟩]
  · exact exec_readsBadWord h h96 hrun hg

/-- Settles O37: each instruction by what ends it (the next address, a goto, a halt or a fault) after its issue. -/
theorem shuttleFlow : Obligations.ShuttleFlow := by
  unfold Obligations.ShuttleFlow
  refine ⟨fun _ _ _ _ h h1 hn hl1 hl => do_claim h h1 hn hl1 hl, fun _ _ _ h hl1 hl => doNone_claim h hl1 hl,
    fun _ _ _ _ _ h hrep hl hd hlast hf h2 hlt hi => passEnds_claim h hrep hl hd hlast hf h2 hlt hi,
    fun _ _ _ _ _ h hk hn h1 hlt hnext => rep_claim h hk hn h1 hlt hnext, fun _ _ _ _ _ h hrep h2 hi => repeats_claim h hrep h2 hi,
    fun _ _ _ _ h ht => branch_claim h ht, fun _ _ _ h ht hst => call_claim h ht hst, fun _ _ _ _ h hst ha => return_claim h hst ha,
    fun _ _ h hstrs => halt_claim h hstrs, fun _ _ h96 htmr hg => tmrExpiry_claim h96 htmr hg,
    fun _ _ h4 hf he => houseRestart_claim h4 hf he, fun sh s h96 h4 hrun hg hstrs i kind h => ?_⟩
  have hk : kind < 16 := by omega
  exact ⟨_, exec_faults h96 h4 hrun hg h, shFault_claim h4 hk hstrs⟩

end Sys2Proof.Machine

end

section
/-! PROOFS. Calibration passes and snapshots of a lane (R100, R107-R117). -/

-- The checked text is one long file: elaborating these in order bounds its threads and memory.
set_option Elab.async false

namespace Sys2Proof.Machine

/-! ## Registers of a lane -/

theorem lane_available {lane o : Nat} {s : State} (ht : s.testing lane = false) (htx : s.tx lane ≠ txOff) :
    s.unavailable ⟨.ln, lane, o⟩ = none := by
  have h1 : s.regTesting ⟨.ln, lane, o⟩ = false := ht
  have h2 : (s.fld (fLn_TX_STAT_STATE lane) == 0) = false := beq_eq_false_iff_ne.2 htx
  rw [State.unavailable, h1, h2, Bool.and_false, if_neg Bool.false_ne_true, if_neg Bool.false_ne_true]

/-- A mask that keeps a field's bits leaves the field. -/
theorem bits_and_mask (v m : W32) {hi lo : Nat} (h : ∀ i, i < hi + 1 - lo → m.toNat.testBit (lo + i) = true) :
    bits (v &&& m) hi lo = bits v hi lo := by
  refine Nat.eq_of_testBit_eq fun i => ?_
  rw [bits, bits, Nat.testBit_mod_two_pow, Nat.testBit_mod_two_pow, Nat.testBit_div_two_pow, Nat.testBit_div_two_pow, BitVec.toNat_and,
    Nat.testBit_and]
  by_cases hi : i < hi + 1 - lo
  · rw [Nat.add_comm i lo, h i hi, Bool.and_true]
  · simp [hi]

theorem modLane_moved {P : RegId → Prop} (n : Nat) (f : Lane → Lane) (s : State) : moved P [.lanes, .regs] s (s.modLane n f) :=
  (modLane_onlyParts s n f).moved (by decide) P (by decide)

theorem setLane_moved {P : RegId → Prop} (n : Nat) (l : Lane) (s : State) : moved P [.lanes, .regs] s (s.setLane n l) :=
  (setLane_onlyParts s n l).moved (by decide) P (by decide)

theorem raise_moved {P : RegId → Prop} {l : List Part} (e : FldId) (he : P e.reg) (hP : ∀ r, noteReg r → P r)
    (hl : ∀ p ∈ [Part.rings, .regs, .out], p ∈ l) (s : State) : moved P l s (raise_ e s) :=
  ⟨(raise_onlyRegs e s).mono fun r hr => hr.elim (fun h => h ▸ he) (hP r), (raise_onlyParts e s).mono hl⟩

/-! ## Passes -/

theorem calStart_effect (n : Nat) (s : State) : let t := calStart n s
    t.fld (fLn_CAL_STAT_PHASE n) = 1 ∧ (t.lane n).calWin = s.fld (fLn_CAL_CTL_WIN_LOG2 n) ∧ (∀ m, m ≠ n → t.lane m = s.lane m) ∧
      moved (fun r => r = rLn_CAL_STAT n) [.lanes, .regs] s t := by
  intro t
  obtain ⟨l, hl⟩ : ∃ f : Lane → Lane, f = fun l => { l with
    calFirst := false, calDue := false, calWin := s.fld (fLn_CAL_CTL_WIN_LOG2 n), calTmin := s.calTemp n, calTmax := s.calTemp n
    calTsum := s.calTemp n, calTn := 1 } := ⟨_, rfl⟩
  have ht : t = (s.modLane n l).setFld (fLn_CAL_STAT_PHASE n) 1 := by rw [hl]; rfl
  rw [ht]
  refine ⟨State.fld_setFld_self_of_lt _ _ (by decide) (by decide), ?_, fun m hm => State.lane_modLane_ne s l hm, ?_⟩
  · have h : (s.modLane n l).lane n = l (s.lane n) := State.lane_modLane_self s n l
    exact (congrArg Lane.calWin h).trans (by rw [hl])
  · exact (modLane_moved n l s).trans (setFld_moved (P := fun r => r = rLn_CAL_STAT n) _ rfl (by decide) _ 1)

theorem calRun_claim {lane : Nat} {v : W32} {s : State} (haw : s.awake = true) (hl : lane < 8) (ht : s.testing lane = false)
    (htx : s.tx lane ≠ txOff) (hv31 : v.getLsbD 31 = true) (hv30 : v.getLsbD 30 = true) (hph : s.fld (fLn_CAL_STAT_PHASE lane) = 0)
    (h1 : bits v 27 24 ≠ 0) (h2 : 20 ≤ bits v 20 16) (h3 : bits v 20 16 ≤ 28) (h4 : 1 ≤ bits v 9 0) (h5 : bits v 9 0 ≤ 1000)
    (hrx : s.rx lane = rxLocked) :
    ∃ t, exec (.calRun lane v) s = .next t ∧ t.reg (rLn_CAL_CTL lane) = v &&& 0x8F1F03FF#32 ∧ t.fld (fLn_CAL_STAT_PHASE lane) = 1 ∧
      (t.lane lane).calWin = bits v 20 16 ∧
      (∀ n, n ≠ lane → t.lane n = s.lane n) ∧ onlyRegs (fun r => r = rLn_CAL_CTL lane ∨ r = rLn_CAL_STAT lane) s t ∧ onlyParts [.lanes, .regs] s t := by
  obtain ⟨a, ha⟩ : ∃ a, a = s.setReg (rLn_CAL_CTL lane) (v &&& 0x8F1F03FF#32) := ⟨_, rfl⟩
  have har : onlyRegs (fun r => r = rLn_CAL_CTL lane) s a := by rw [ha]; exact setReg_onlyRegs s _ _
  have hap : onlyParts [.regs] s a := by rw [ha]; exact setReg_onlyParts s _ _
  have hrxa : a.rx lane = rxLocked := (har.fld (by simp)).trans hrx
  have hreg : a.reg (rLn_CAL_CTL lane) = v &&& 0x8F1F03FF#32 := by rw [ha]; exact State.reg_setReg_self _ _ _
  have hexec : exec (.calRun lane v) s = .next (calStart lane a) := by
    have hchecks : firstFail [((s.unavailable (rLn_CAL_CTL lane)).isSome, (s.unavailable (rLn_CAL_CTL lane)).getD 0),
        (v.getLsbD 30 && s.fld (fLn_CAL_STAT_PHASE lane) != 0, eBusy),
        (bits v 27 24 == 0 || decide (bits v 20 16 < 20 ∨ 28 < bits v 20 16 ∨ bits v 9 0 < 1 ∨ 1000 < bits v 9 0), eRange)] = none := by
      have hrange : (bits v 27 24 == 0 || decide (bits v 20 16 < 20 ∨ 28 < bits v 20 16 ∨ bits v 9 0 < 1 ∨ 1000 < bits v 9 0)) = false := by
        rw [beq_eq_false_iff_ne.2 h1, Bool.false_or]
        exact decide_eq_false (by omega)
      rw [lane_available (o := 0x300) ht htx, hph, hrange]
      simp [firstFail]
    show Host.Outcome.next (hostAccess (fun s => if lane < 8 then writeCalCtl lane v s else s) s) = _
    rw [hostAccess_awake _ s haw, if_pos hl]
    unfold writeCalCtl
    dsimp only
    rw [hchecks]
    dsimp only
    rw [← ha, hv31, hv30, hrxa]
    rfl
  obtain ⟨hphase, hwin, hother, hm⟩ := calStart_effect lane a
  refine ⟨_, hexec, (hm.1 _ (by simp)).trans hreg, hphase, hwin.trans ?_, fun n hn => (hother n hn).trans (State.lane_congr (hap .lanes (by decide)) n),
    (har.mono fun _ => .inl).trans (hm.1.mono fun _ => .inr), (hap.mono (by decide)).trans hm.2⟩
  exact (congrArg (fun w => bits w 20 16) hreg).trans (bits_and_mask v _ (by decide))

theorem calPassStart_claim {lane : Nat} {s : State} (hen : s.on (fLn_CAL_CTL_EN lane) = true) (hph : s.fld (fLn_CAL_STAT_PHASE lane) = 0) :
    ∃ t, exec (.calPassStart lane) s = .next t ∧ t.fld (fLn_CAL_STAT_PHASE lane) = (if s.rx lane = rxLocked then 1 else 0) ∧
      (s.rx lane ≠ rxLocked → (t.lane lane).calDue = true) ∧ (∀ n, n ≠ lane → t.lane n = s.lane n) ∧
      onlyRegs (fun r => r = rLn_CAL_STAT lane) s t ∧ onlyParts [.lanes, .regs] s t := by
  have hexec : exec (.calPassStart lane) s =
      .next (if s.rx lane = rxLocked then calStart lane s else s.modLane lane ({ · with calDue := true })) :=
    congrArg _ (if_neg (by rw [hen, hph]; decide))
  by_cases hrx : s.rx lane = rxLocked
  · rw [if_pos hrx] at hexec ⊢
    obtain ⟨hphase, -, hother, hm⟩ := calStart_effect lane s
    exact ⟨_, hexec, hphase, fun h => absurd hrx h, hother, hm.1, hm.2⟩
  · rw [if_neg hrx] at hexec ⊢
    have hm := modLane_moved (P := fun r => r = rLn_CAL_STAT lane) lane ({ · with calDue := true }) s
    exact ⟨_, hexec, hph, fun _ => by rw [State.lane_modLane_self], fun n hn => State.lane_modLane_ne s _ hn, hm.1, hm.2⟩

/-! ## The end of an estimate -/

theorem calAbandon_effect {n : Nat} {s : State} (hph : s.fld (fLn_CAL_STAT_PHASE n) = 1) : let t := calAbandon n s
    t.fld (fLn_CAL_STAT_PHASE n) = 0 ∧ t.fld (fLn_CAL_EVENT_ABANDON n) = 1 ∧
      onlyRegs (fun r => r = rLn_CAL_STAT n ∨ r = rLn_CAL_EVENT n ∨ noteReg r) s t ∧ onlyParts [.rings, .regs, .out] s t := by
  intro t
  have ht : t = raise_ (fLn_CAL_EVENT_ABANDON n) (s.setFld (fLn_CAL_STAT_PHASE n) 0) := if_pos hph
  have hr := raise_onlyRegs (fLn_CAL_EVENT_ABANDON n) (s.setFld (fLn_CAL_STAT_PHASE n) 0)
  rw [ht]
  refine ⟨(hr.fld (by simp [noteReg])).trans (State.fld_setFld_self_of_lt _ _ (by decide) (by decide)),
    raise_fld_self _ _ (by decide) ⟨Blk.noConfusion, Blk.noConfusion⟩,
    ((setFld_onlyReg s _ _ _ _).mono fun _ => .inl).trans (hr.mono fun _ => .inr), ?_⟩
  exact ((setFld_onlyParts s _ _).mono (by decide)).trans (raise_onlyParts _ _)

theorem holdOutputs_effect (n : Nat) (s : State) : let t := holdOutputs n s
    t.fld (fLn_MERIT_STALE n) = 1 ∧ t.fld (fCh_OUT_STALE (16 + n)) = 1 ∧
      moved (fun r => r = rLn_MERIT n ∨ r = rCh_OUT (16 + n) ∨ r = rLn_CAL_VAL n) [.regs] s t := by
  intro t
  obtain ⟨a, ha⟩ : ∃ a, a = (s.setFld (fLn_MERIT_STALE n) 1).setFld (fCh_OUT_STALE (16 + n)) 1 := ⟨_, rfl⟩
  have ht : t = if a.fld (fLn_CAL_SEL_SET n) = 7 then a.setFld (fLn_CAL_VAL_STALE n) 1 else a := by rw [ha]; rfl
  have hset (f : FldId) (hf : f.reg = rLn_MERIT n ∨ f.reg = rCh_OUT (16 + n) ∨ f.reg = rLn_CAL_VAL n) (x : State) (v : Nat) :
      moved (fun r => r = rLn_MERIT n ∨ r = rCh_OUT (16 + n) ∨ r = rLn_CAL_VAL n) [.regs] x (x.setFld f v) := setFld_moved f hf (by decide) x v
  have hsa : moved (fun r => r = rLn_MERIT n ∨ r = rCh_OUT (16 + n) ∨ r = rLn_CAL_VAL n) [.regs] s a := by
    rw [ha]; exact (hset _ (.inl rfl) s 1).trans (hset _ (.inr (.inl rfl)) _ 1)
  have hat : moved (fun r => r = rLn_CAL_VAL n) [.regs] a t := by
    rw [ht]
    split
    · exact setFld_moved (P := fun r => r = rLn_CAL_VAL n) (fLn_CAL_VAL_STALE n) rfl (by decide) a 1
    · exact .refl _ _ a
  refine ⟨(hat.1.fld (by simp)).trans ?_, (hat.1.fld (by simp)).trans ?_, hsa.trans (hat.mono (fun _ h => .inr (.inr h)) fun _ => id)⟩
  · rw [ha, State.fld_setFld_ne _ _ _ _ _ _ (by simp)]
    exact State.fld_setFld_self_of_lt _ _ (by decide) (by decide)
  · rw [ha]; exact State.fld_setFld_self_of_lt _ _ (by decide) (by decide)

theorem trackCal_other (n : Nat) (s : State) {m : Nat} (hm : m ≠ n) : (trackCal n s).lane m = s.lane m := by
  unfold trackCal
  dsimp only
  split
  · exact State.lane_setLane_ne s _ hm
  · exact State.lane_setLane_ne s _ hm

/-- A pass that is applied in steps. -/
theorem calAccept_effect {n : Nat} {t : Rat} {cs : List (Nat × Nat × Int × Int)} {s : State} (hs : calSteps (trackCal n s) n cs ≠ 0) :
    let u := calAccept n t cs s
    u.fld (fLn_CAL_STAT_PHASE n) = 3 ∧ u.fld (fLn_CAL_STAT_FAIL_CNT n) = 0 ∧ u.fld (fLn_MERIT_STALE n) = 1 ∧
      u.fld (fCh_OUT_STALE (16 + n)) = 1 ∧ (u.lane n).calS = calSteps (trackCal n s) n cs ∧ (u.lane n).calStep = 0 ∧
      (∀ m, m ≠ n → u.lane m = s.lane m) ∧ onlyRegs (fun r => lnReg n r ∨ r = rCh_OUT (16 + n)) s u ∧ onlyParts [.lanes, .regs] s u := by
  intro u
  obtain ⟨a, ha⟩ : ∃ a, a = trackCal n s := ⟨_, rfl⟩
  obtain ⟨f, hf⟩ : ∃ f : Lane → Lane, f = fun l => { l with
    anchors := cs.foldl (fun m c => Tab.set m (c.1, c.2.1, (nearAnchor t).1) c.2.2.1) l.anchors,
    active := calTable (a.activeExact n), calFrom := calTable (a.activeExact n)
    calTarget := cs.map (fun c => ((c.1, c.2.1), (c.2.2.2 : Rat))), calS := calSteps a n cs, calStep := 0 } := ⟨_, rfl⟩
  obtain ⟨b, hb⟩ : ∃ b, b = a.modLane n f := ⟨_, rfl⟩
  obtain ⟨c, hc⟩ : ∃ c, c = (b.setFld (fLn_CAL_STAT_FAIL_CNT n) 0).setFld (fLn_CAL_STAT_PHASE n) 3 := ⟨_, rfl⟩
  obtain ⟨d, hd⟩ : ∃ d, d = c.setSFld (fLn_CAL_TEMP_PASS_T n) (roundFree t) := ⟨_, rfl⟩
  have hu : u = holdOutputs n d := by
    rw [hd, hc, hb, hf, ha]
    exact if_neg hs
  obtain ⟨hmerit, hout, hm⟩ := holdOutputs_effect n d
  rw [← ha, hu]
  have hcd : onlyRegs (fun r => r = rLn_CAL_TEMP n) c d := by rw [hd]; exact setSFld_onlyReg c _ _ _ _
  have hlane (m : Nat) : (holdOutputs n d).lane m = b.lane m :=
    (State.lane_congr (hm.2 .lanes (by decide)) m).trans (by rw [hd, hc]; rfl)
  have hbn : b.lane n = f (a.lane n) := by rw [hb]; exact State.lane_modLane_self a n f
  have hset (g : FldId) (hg : lnReg n g.reg) (x : State) (v : Nat) :
      moved (fun r => lnReg n r ∨ r = rCh_OUT (16 + n)) [.lanes, .regs] x (x.setFld g v) := setFld_moved g (.inl hg) (by decide) x v
  have hsd : moved (fun r => lnReg n r ∨ r = rCh_OUT (16 + n)) [.lanes, .regs] s d := by
    have h1 : moved (fun r => lnReg n r ∨ r = rCh_OUT (16 + n)) [.lanes, .regs] s a := by
      rw [ha]; exact (trackCal_onlyParts n s).moved (by decide) _ (by decide)
    rw [hd, hc, hb]
    exact (((h1.trans (modLane_moved n f a)).trans (hset (fLn_CAL_STAT_FAIL_CNT n) ⟨rfl, rfl⟩ _ _)).trans
      (hset (fLn_CAL_STAT_PHASE n) ⟨rfl, rfl⟩ _ _)).trans (hset (fLn_CAL_TEMP_PASS_T n) ⟨rfl, rfl⟩ _ _)
  refine ⟨?_, ?_, hmerit, hout, ?_, ?_, fun m hm' => ?_, hsd.1.trans (hm.1.mono ?_), hsd.2.trans (hm.2.mono (by decide))⟩
  · refine (hm.1.fld (by simp)).trans ((hcd.fld (by simp)).trans ?_)
    rw [hc]; exact State.fld_setFld_self_of_lt _ _ (by decide) (by decide)
  · refine (hm.1.fld (by simp)).trans ((hcd.fld (by simp)).trans ?_)
    rw [hc, State.fld_setFld_other _ _ _ _ _ _ _ (by decide) (by decide) (by decide) (by decide) (by decide)]
    exact State.fld_setFld_self_of_lt _ _ (by decide) (by decide)
  · rw [hlane, hbn, hf]
  · rw [hlane, hbn, hf]
  · rw [hlane, hb, State.lane_modLane_ne _ _ hm', ha, trackCal_other n s hm']
  · rintro r (rfl | rfl | rfl)
    · exact .inl ⟨rfl, rfl⟩
    · exact .inr rfl
    · exact .inl ⟨rfl, rfl⟩

theorem calReject_effect (n : Nat) (cs : List (Nat × Nat × Int × Int)) (s : State) : let t := calReject n cs s
    t.fld (fLn_CAL_STAT_PHASE n) = 0 ∧ t.fld (fLn_CAL_EVENT_PASS_FAIL n) = 1 ∧
      t.fld (fLn_CAL_STAT_FAIL_CNT n) = min 15 (s.fld (fLn_CAL_STAT_FAIL_CNT n) + 1) ∧
      onlyRegs (fun r => r = rLn_CAL_STAT n ∨ r = rLn_CAL_EVENT n ∨ noteReg r) s t ∧ onlyParts [.rings, .regs, .out] s t := by
  intro t
  obtain ⟨fq, hfq⟩ : ∃ fq, fq = (List.range 4).foldl (fun m q =>
    if (cs.any fun c => c.2.1 == q && !withinLimit s n c) then m + 2 ^ q else m) 0 := ⟨_, rfl⟩
  obtain ⟨a, ha⟩ : ∃ a, a = s.setFld (fLn_CAL_STAT_FAIL_Q n) fq := ⟨_, rfl⟩
  obtain ⟨b, hb⟩ : ∃ b, b = a.addSat (fLn_CAL_STAT_FAIL_CNT n) := ⟨_, rfl⟩
  obtain ⟨c, hc⟩ : ∃ c, c = b.setFld (fLn_CAL_STAT_PHASE n) 0 := ⟨_, rfl⟩
  obtain ⟨d, hd⟩ : ∃ d, d = raise_ (fLn_CAL_EVENT_PASS_FAIL n) c := ⟨_, rfl⟩
  have ht : t = if s.fld (fLn_CAL_STAT_FAIL_CNT n) ≠ s.fld (fLn_CAL_CTL_FAIL_MAX n) ∧
      c.fld (fLn_CAL_STAT_FAIL_CNT n) = s.fld (fLn_CAL_CTL_FAIL_MAX n) then raise_ (fLn_CAL_EVENT_FAIL_LIMIT n) d else d := by
    rw [hd, hc, hb, ha, hfq]; rfl
  have hsc : onlyRegs (fun r => r = rLn_CAL_STAT n) s c := by
    rw [hc, hb, ha]; exact ((setFld_onlyReg s _ _ _ _).trans (addSat_onlyReg _ _ _ _ _)).trans (setFld_onlyReg _ _ _ _ _)
  have hscp : onlyParts [.regs] s c := by
    rw [hc, hb, ha]; exact ((setFld_onlyParts s _ _).trans (setFld_onlyParts _ _ _)).trans (setFld_onlyParts _ _ _)
  have hcd := raise_onlyRegs (fLn_CAL_EVENT_PASS_FAIL n) c
  have hcdp := raise_onlyParts (fLn_CAL_EVENT_PASS_FAIL n) c
  rw [← hd] at hcd hcdp
  have hevent : d.fld (fLn_CAL_EVENT_PASS_FAIL n) = 1 := by rw [hd]; exact raise_fld_self _ _ (by decide) ⟨Blk.noConfusion, Blk.noConfusion⟩
  have hdt : onlyRegs (fun r => r = rLn_CAL_EVENT n ∨ noteReg r) d t ∧ onlyParts [.rings, .regs, .out] d t ∧
      t.fld (fLn_CAL_EVENT_PASS_FAIL n) = 1 := by
    rw [ht]
    split
    · exact ⟨raise_onlyRegs (fLn_CAL_EVENT_FAIL_LIMIT n) d, raise_onlyParts _ d, (fld_raise_event (rLn_CAL_EVENT n) d (by decide) (by decide) (by decide)
        ⟨Blk.noConfusion, Blk.noConfusion⟩).trans hevent⟩
    · exact ⟨.refl _ d, .refl _ d, hevent⟩
  obtain ⟨hdr, hdp, hfail⟩ := hdt
  refine ⟨?_, hfail, ?_, ((hsc.mono fun _ => .inl).trans (hcd.mono fun _ => .inr)).trans (hdr.mono fun _ => .inr),
    ((hscp.mono (by decide)).trans hcdp).trans hdp⟩
  · refine (hdr.fld (by simp [noteReg])).trans ((hcd.fld (by simp [noteReg])).trans ?_)
    rw [hc]; exact State.fld_setFld_self_of_lt _ _ (by decide) (by decide)
  · refine (hdr.fld (by simp [noteReg])).trans ((hcd.fld (by simp [noteReg])).trans ?_)
    rw [hc, State.fld_setFld_other _ _ _ _ _ _ _ (by decide) (by decide) (by decide) (by decide) (by decide), hb,
      State.fld_addSat_self _ _ _ (by decide) (by decide), ha,
      State.fld_setFld_other _ _ _ _ _ _ _ (by decide) (by decide) (by decide) (by decide) (by decide)]
    rfl

theorem calEstimateEnd_claim {lane : Nat} {levels : List Nat} {slices : List (Nat × Int)} {squares power : List Nat}
    {image : List (List (Int × Int))} {c : CalStats} {cs : List (Nat × Nat × Int × Int)} {s : State}
    (hph : s.fld (fLn_CAL_STAT_PHASE lane) = 1) (hrx : s.rx lane = rxLocked)
    (hsum : levels.foldl (· + ·) 0 = 2 ^ (s.lane lane).calWin) (hc : c = ⟨levels, (slices.zip squares).map fun e => (e.1.1, e.1.2, e.2), power, image⟩)
    (hcs : cs = calCandidates s lane (s.passTemp lane)
      (c.raw (s.slices lane) (modeBaud (s.mode lane) (s.fld (fLn_MODE_STAT_VARIANT lane))))) :
    ∃ t, exec (.calEstimateEnd lane levels slices squares power image) s = .next t ∧
      ((c.levelsOk = false ∨ 32 < (s.lane lane).calTmax - (s.lane lane).calTmin) →
        t.fld (fLn_CAL_STAT_PHASE lane) = 0 ∧ t.fld (fLn_CAL_EVENT_ABANDON lane) = 1 ∧
        onlyRegs (fun r => r = rLn_CAL_STAT lane ∨ r = rLn_CAL_EVENT lane ∨ noteReg r) s t ∧ onlyParts [.rings, .regs, .out] s t) ∧
      (c.levelsOk = true → (s.lane lane).calTmax - (s.lane lane).calTmin ≤ 32 →
        (cs.all (withinLimit s lane) = true → calSteps (trackCal lane s) lane cs ≠ 0 →
          t.fld (fLn_CAL_STAT_PHASE lane) = 3 ∧ t.fld (fLn_CAL_STAT_FAIL_CNT lane) = 0 ∧ t.fld (fLn_MERIT_STALE lane) = 1 ∧
          t.fld (fCh_OUT_STALE (16 + lane)) = 1 ∧
          (t.lane lane).calS = calSteps (trackCal lane s) lane cs ∧ (t.lane lane).calStep = 0 ∧
          (∀ n, n ≠ lane → t.lane n = s.lane n) ∧ onlyRegs (fun r => lnReg lane r ∨ r = rCh_OUT (16 + lane)) s t ∧
          onlyParts [.lanes, .regs] s t) ∧
        (cs.all (withinLimit s lane) = false → t.fld (fLn_CAL_STAT_PHASE lane) = 0 ∧
          t.fld (fLn_CAL_EVENT_PASS_FAIL lane) = 1 ∧ t.fld (fLn_CAL_STAT_FAIL_CNT lane) = min 15 (s.fld (fLn_CAL_STAT_FAIL_CNT lane) + 1) ∧
          onlyRegs (fun r => r = rLn_CAL_STAT lane ∨ r = rLn_CAL_EVENT lane ∨ noteReg r) s t ∧ onlyParts [.rings, .regs, .out] s t)) := by
  have hexec : exec (.calEstimateEnd lane levels slices squares power image) s = .next (
      if !c.levelsOk || decide (32 < (s.lane lane).calTmax - (s.lane lane).calTmin) then calAbandon lane s
      else if cs.all (withinLimit s lane) then calAccept lane (s.passTemp lane) cs s else calReject lane cs s) := by
    rw [hcs, hc]
    exact congrArg _ (if_neg (not_or.2 ⟨not_not.2 hph, not_or.2 ⟨not_not.2 hrx, not_not.2 hsum⟩⟩))
  refine ⟨_, hexec, fun hbad => ?_, fun hok hspan => ⟨fun hall hsteps => ?_, fun hall => ?_⟩⟩
  · rw [if_pos (by obtain h | h := hbad <;> simp [h])]
    exact calAbandon_effect hph
  · rw [if_neg (by rw [hok]; simp; omega), if_pos hall]
    exact calAccept_effect hsteps
  · rw [if_neg (by rw [hok]; simp; omega), if_neg (by rw [hall]; exact Bool.false_ne_true)]
    exact calReject_effect lane cs s

/-! ## Steps of APPLY -/

theorem calFinish_effect (n : Nat) (s : State) : let t := calFinish n s
    t.fld (fLn_CAL_STAT_PHASE n) = 0 ∧ t.fld (fLn_CAL_EVENT_PASS_DONE n) = 1 ∧
      t.fld (fLn_CAL_STAT_PASS_SEQ n) = (s.fld (fLn_CAL_STAT_PASS_SEQ n) + 1) % 256 ∧
      (t.lane n).active = (s.lane n).calTarget.foldl (fun t e => Tab.set t e.1 e.2) (s.lane n).active ∧
      (∀ m, m ≠ n → t.lane m = s.lane m) ∧ moved (rxReg n) [.lanes, .rings, .regs, .out] s t := by
  intro t
  obtain ⟨l, hl⟩ : ∃ l : Lane, l = { s.lane n with
    active := (s.lane n).calTarget.foldl (fun t e => Tab.set t e.1 e.2) (s.lane n).active, calTarget := [], calFrom := [], calS := 0, calStep := 0
    trackAt := s.up } := ⟨_, rfl⟩
  obtain ⟨a, ha⟩ : ∃ a, a = s.setLane n l := ⟨_, rfl⟩
  obtain ⟨b, hb⟩ : ∃ b, b = (a.setFld (fLn_CAL_STAT_PHASE n) 0).setFld (fLn_CAL_STAT_PAUSED n) 0 := ⟨_, rfl⟩
  obtain ⟨c, hc⟩ : ∃ c, c = b.incWrap (fLn_CAL_STAT_PASS_SEQ n) := ⟨_, rfl⟩
  obtain ⟨d, hd⟩ : ∃ d, d = (c.setFld (fLn_CAL_VAL_STALE n) 0).setFld (fCh_OUT_STALE (16 + n)) 0 := ⟨_, rfl⟩
  have ht : t = raise_ (fLn_CAL_EVENT_PASS_DONE n) d := by rw [hd, hc, hb, ha, hl]; rfl
  have hset (f : FldId) (hf : rxReg n f.reg) (x : State) (v : Nat) : moved (rxReg n) [.lanes, .rings, .regs, .out] x (x.setFld f v) :=
    setFld_moved f hf (by decide) x v
  have hsa : moved (rxReg n) [.lanes, .rings, .regs, .out] s a := by
    rw [ha]; exact (setLane_onlyParts s n l).moved (by decide) _ (by decide)
  have had : moved (rxReg n) [.lanes, .rings, .regs, .out] a d := by
    rw [hd, hc, hb]
    exact ((((hset (fLn_CAL_STAT_PHASE n) (.inl ⟨rfl, rfl⟩) a _).trans (hset (fLn_CAL_STAT_PAUSED n) (.inl ⟨rfl, rfl⟩) _ _)).trans
      (hset (fLn_CAL_STAT_PASS_SEQ n) (.inl ⟨rfl, rfl⟩) _ _)).trans (hset (fLn_CAL_VAL_STALE n) (.inl ⟨rfl, rfl⟩) _ _)).trans
      (hset (fCh_OUT_STALE (16 + n)) (.inr (.inl rfl)) _ _)
  have hcd : onlyRegs (fun r => r = rLn_CAL_VAL n ∨ r = rCh_OUT (16 + n)) c d := by
    rw [hd]; exact ((setFld_onlyReg c _ _ _ _).mono fun _ => .inl).trans ((setFld_onlyReg _ _ _ _ _).mono fun _ => .inr)
  have hr := raise_onlyRegs (fLn_CAL_EVENT_PASS_DONE n) d
  have hp := raise_onlyParts (fLn_CAL_EVENT_PASS_DONE n) d
  rw [← ht] at hr hp
  have hlane (m : Nat) : t.lane m = a.lane m := (State.lane_congr (hp .lanes (by decide)) m).trans (by rw [hd, hc, hb]; rfl)
  refine ⟨?_, ?_, ?_, ?_, fun m hm => ?_, (hsa.trans had).trans ?_⟩
  · refine (hr.fld (by simp [noteReg])).trans ((hcd.fld (by simp)).trans ?_)
    rw [hc, State.incWrap, State.fld_setFld_other _ _ _ _ _ _ _ (by decide) (by decide) (by decide) (by decide) (by decide), hb,
      State.fld_setFld_other _ _ _ _ _ _ _ (by decide) (by decide) (by decide) (by decide) (by decide)]
    exact State.fld_setFld_self_of_lt _ _ (by decide) (by decide)
  · rw [ht]; exact raise_fld_self _ _ (by decide) ⟨Blk.noConfusion, Blk.noConfusion⟩
  · refine (hr.fld (by simp [noteReg])).trans ((hcd.fld (by simp)).trans ?_)
    rw [hc, State.incWrap_self _ _ (by decide), hb,
      State.fld_setFld_other _ _ _ _ _ _ _ (by decide) (by decide) (by decide) (by decide) (by decide),
      State.fld_setFld_other _ _ _ _ _ _ _ (by decide) (by decide) (by decide) (by decide) (by decide), ha]
    rfl
  · rw [hlane, ha, State.lane_setLane_self, hl]
  · rw [hlane, ha, State.lane_setLane_ne _ _ hm]
  · refine ⟨hr.mono fun r h => ?_, hp.mono (by decide)⟩
    obtain rfl | h := h
    · exact .inl ⟨rfl, rfl⟩
    · exact .inr (.inr h)

theorem activeExact_of_single {s : State} {n : Nat} {k : Nat × Nat} {v : Rat} {t : Tab (Nat × Nat) Rat} (h : (s.lane n).active = Tab.set t k v) :
    s.activeExact n k.1 k.2 = v := by
  rw [State.activeExact, h]
  exact Tab.get_set_self _ _ _ _

theorem calApplyStep_claim {lane : Nat} {s : State} (hph : s.fld (fLn_CAL_STAT_PHASE lane) = 3) (hrx : s.rx lane = rxLocked) :
    ∃ t, exec (.calApplyStep lane) s = .next t ∧ (∀ n, n ≠ lane → t.lane n = s.lane n) ∧
      ((s.lane lane).calStep + 1 < (s.lane lane).calS → (t.lane lane).calStep = (s.lane lane).calStep + 1 ∧
        (∀ e, (s.lane lane).calTarget = [e] → ∀ v, Tab.get 0 (s.lane lane).calFrom e.1 = v →
          t.activeExact lane e.1.1 e.1.2 = v + (e.2 - v) * (((s.lane lane).calStep + 1 : Nat) : Rat) / (s.lane lane).calS) ∧
        onlyRegs (fun _ => False) s t ∧ onlyParts [.lanes] s t) ∧
      ((s.lane lane).calS ≤ (s.lane lane).calStep + 1 → t.fld (fLn_CAL_STAT_PHASE lane) = 0 ∧ t.fld (fLn_CAL_EVENT_PASS_DONE lane) = 1 ∧
        t.fld (fLn_CAL_STAT_PASS_SEQ lane) = (s.fld (fLn_CAL_STAT_PASS_SEQ lane) + 1) % 256 ∧
        (∀ e, (s.lane lane).calTarget = [e] → t.activeExact lane e.1.1 e.1.2 = e.2) ∧
        onlyRegs (rxReg lane) s t ∧ onlyParts [.lanes, .rings, .regs, .out] s t) := by
  obtain ⟨l, hl⟩ : ∃ l : Lane, l = { s.lane lane with
      calStep := (s.lane lane).calStep + 1
      active := (s.lane lane).calTarget.foldl (fun t e => Tab.set t e.1 (Tab.get 0 (s.lane lane).calFrom e.1 +
        (e.2 - Tab.get 0 (s.lane lane).calFrom e.1) * (((s.lane lane).calStep + 1 : Nat) : Rat) / (s.lane lane).calS)) (s.lane lane).active } := ⟨_, rfl⟩
  have hexec : exec (.calApplyStep lane) s =
      .next (if (s.lane lane).calStep + 1 < (s.lane lane).calS then s.setLane lane l else calFinish lane s) := by
    rw [hl]
    exact congrArg _ (if_neg (not_or.2 ⟨not_not.2 hph, not_not.2 hrx⟩))
  by_cases hlt : (s.lane lane).calStep + 1 < (s.lane lane).calS
  · rw [if_pos hlt] at hexec
    have hp := setLane_onlyParts s lane l
    refine ⟨_, hexec, fun n hn => State.lane_setLane_ne s l hn, fun _ => ⟨by rw [State.lane_setLane_self, hl], fun e he v hv => ?_,
      hp.regsKept (by decide), hp⟩, fun h => absurd hlt (Nat.not_lt.2 h)⟩
    refine activeExact_of_single (t := (s.lane lane).active) ?_
    rw [State.lane_setLane_self, hl, he, ← hv]
    rfl
  · rw [if_neg hlt] at hexec
    obtain ⟨hphase, hdone, hseq, hact, hother, hm⟩ := calFinish_effect lane s
    refine ⟨_, hexec, hother, fun h => absurd h hlt, fun _ => ⟨hphase, hdone, hseq, fun e he => ?_, hm.1, hm.2⟩⟩
    refine activeExact_of_single (t := (s.lane lane).active) ?_
    rw [hact, he]
    rfl

/-! ## Selectors and their snapshots -/

/-- A selector of a lane and the request it makes. -/
theorem laneSelector_effect {n : Nat} (f : Lane → Lane) {sel stat : RegId} {a s : State}
    (ha : moved (fun r => r = sel) [.lanes, .regs] s a) : let t := (a.modLane n f).resultPending stat
    t.lane n = f (a.lane n) ∧ t.fld ⟨stat, 31, 31⟩ = 0 ∧ onlyRegs (fun r => r = sel ∨ r = stat) s t ∧ onlyParts [.lanes, .regs] s t := by
  intro t
  have hlane : t.lane n = f (a.lane n) := State.lane_modLane_self a n f
  refine ⟨hlane, ?_, ?_, ?_⟩
  · have h : t.on ⟨stat, 31, 31⟩ = false := (State.on_eq_getLsbD t stat 31).trans (resultPending_valid _ stat).1
    have hlt := State.fld_lt t ⟨stat, 31, 31⟩
    rw [State.on] at h
    have hne0 := bne_eq_false_iff_eq.1 h
    exact hne0
  · exact (ha.1.mono fun _ => .inl).trans ((modLane_moved (P := fun r => r = sel ∨ r = stat) n f a).1.trans
      ((resultPending_onlyRegs _ stat).mono fun _ => .inr))
  · exact (ha.2.trans (modLane_moved (P := fun _ => False) n f a).2).trans ((resultPending_onlyParts _ stat).mono (by decide))

theorem fdeSel_claim {lane : Nat} {v : W32} {s : State} (haw : s.awake = true) (hl : lane < 8) (ht : s.testing lane = false)
    (htx : s.tx lane ≠ txOff) : ∃ t, exec (.fdeSel lane v) s = .next t ∧ (t.lane lane).fdeReq = some (bits v 7 0) ∧
      t.fld (fLn_FDE_TAP_VALID lane) = 0 ∧ onlyRegs (fun r => r = rLn_FDE_SEL lane ∨ r = rLn_FDE_TAP lane) s t ∧ onlyParts [.lanes, .regs] s t := by
  have hm : moved (fun r => r = rLn_FDE_SEL lane) [.lanes, .regs] s (s.setFld (fLn_FDE_SEL_BIN lane) (bits v 7 0)) :=
    setFld_moved (P := fun r => r = rLn_FDE_SEL lane) _ rfl (by decide) s _
  obtain ⟨hlane, hvalid, hr, hp⟩ := laneSelector_effect (n := lane) (stat := rLn_FDE_TAP lane) ({ · with fdeReq := some (bits v 7 0) }) hm
  refine ⟨_, ?_, by rw [hlane], hvalid, hr, hp⟩
  show Host.Outcome.next (hostAccess (fun s => if lane < 8 then writeFdeSel lane v s else s) s) = _
  rw [hostAccess_awake _ s haw, if_pos hl, writeFdeSel, lane_available ht htx]

theorem calSel_claim {lane : Nat} {v : W32} {s : State} (haw : s.awake = true) (hl : lane < 8) (ht : s.testing lane = false)
    (htx : s.tx lane ≠ txOff) (h5 : bits v 10 8 ≠ 5) (h6 : bits v 10 8 ≠ 6) : ∃ t, exec (.calSel lane v) s = .next t ∧
      (t.lane lane).calReq = some (bits v 10 0) ∧ t.fld (fLn_CAL_VAL_VALID lane) = 0 ∧
      onlyRegs (fun r => r = rLn_CAL_SEL lane ∨ r = rLn_CAL_VAL lane) s t ∧ onlyParts [.lanes, .regs] s t := by
  have hm : moved (fun r => r = rLn_CAL_SEL lane) [.lanes, .regs] s (s.setReg (rLn_CAL_SEL lane) (v &&& 0x73F#32)) :=
    ⟨setReg_onlyRegs s _ _, (setReg_onlyParts s _ _).mono (by decide)⟩
  obtain ⟨hlane, hvalid, hr, hp⟩ := laneSelector_effect (n := lane) (stat := rLn_CAL_VAL lane) ({ · with calReq := some (bits v 10 0) }) hm
  refine ⟨_, ?_, by rw [hlane], hvalid, hr, hp⟩
  have hchecks : firstFail [((s.unavailable (rLn_CAL_SEL lane)).isSome, (s.unavailable (rLn_CAL_SEL lane)).getD 0),
      (bits v 10 8 == 5 || bits v 10 8 == 6, eRange)] = none := by
    rw [lane_available ht htx]
    simp [firstFail, h5, h6]
  show Host.Outcome.next (hostAccess (fun s => if lane < 8 then writeCalSel lane v s else s) s) = _
  rw [hostAccess_awake _ s haw, if_pos hl, writeCalSel, hchecks]

theorem fdeReady_claim {lane b : Nat} {x : Int × Int} {s : State} (hd : s.dark = false) (hreq : (s.lane lane).fdeReq = some b) (hb : b ≤ 128)
    (hx : Tab.find (s.lane lane).taps b = some x) (h1 : -16384 ≤ x.1) (h2 : x.1 < 16384) (h3 : -16384 ≤ x.2) (h4 : x.2 < 16384) :
    ∃ t, exec (.snapshotReady (.fde lane)) s = .next t ∧ t.sfld (fLn_FDE_TAP_RE lane) = x.1 ∧ t.sfld (fLn_FDE_TAP_IM lane) = x.2 ∧
      t.fld (fLn_FDE_TAP_FRESH lane) = 1 ∧ onlyRegs (fun r => r = rLn_FDE_TAP lane) s t ∧ onlyParts [.lanes, .regs] s t := by
  obtain ⟨a, ha⟩ : ∃ a, a = s.modLane lane ({ · with fdeReq := none }) := ⟨_, rfl⟩
  obtain ⟨c, hc⟩ : ∃ c, c = (a.setSFld (fLn_FDE_TAP_RE lane) x.1).setSFld (fLn_FDE_TAP_IM lane) x.2 := ⟨_, rfl⟩
  have hexec : exec (.snapshotReady (.fde lane)) s = .next (c.resultReady (rLn_FDE_TAP lane)) := by
    show Host.Outcome.next (if s.dark then s else fdeReady lane s) = _
    rw [if_neg (by simp [hd]), fdeReady, hreq]
    dsimp only
    rw [if_pos hb, if_pos hb, Tab.get_of_find hx, ← ha, ← hc]
  have hready : c.resultReady (rLn_FDE_TAP lane) = c.setFld ⟨rLn_FDE_TAP lane, 31, 30⟩ 3 := rfl
  have hsf {hi' lo' : Nat} (hf : fieldOk hi' lo') (hlt : hi' < 30) :
      (c.resultReady (rLn_FDE_TAP lane)).sfld ⟨rLn_FDE_TAP lane, hi', lo'⟩ = c.sfld ⟨rLn_FDE_TAP lane, hi', lo'⟩ := by
    have h : (c.setFld ⟨rLn_FDE_TAP lane, 31, 30⟩ 3).fld ⟨rLn_FDE_TAP lane, hi', lo'⟩ = c.fld ⟨rLn_FDE_TAP lane, hi', lo'⟩ :=
      State.fld_setFld_other _ _ _ _ _ _ _ (by decide) (by decide) hf.1 hf.2 (.inl hlt)
    rw [hready, State.sfld, State.sfld, h]
  refine ⟨_, hexec, (hsf (by decide) (by decide)).trans ?_, (hsf (by decide) (by decide)).trans ?_, ?_, ?_, ?_⟩
  · have h : c.sfld (fLn_FDE_TAP_RE lane) = (a.setSFld (fLn_FDE_TAP_RE lane) x.1).sfld (fLn_FDE_TAP_RE lane) := by
      have hf : c.fld (fLn_FDE_TAP_RE lane) = (a.setSFld (fLn_FDE_TAP_RE lane) x.1).fld (fLn_FDE_TAP_RE lane) := by
        rw [hc]; exact State.fld_setFld_other _ _ _ _ _ _ _ (by decide) (by decide) (by decide) (by decide) (by decide)
      rw [State.sfld, State.sfld, hf]
    exact h.trans (State.sfld_setSFld_self a _ (by decide) h1 h2)
  · rw [hc]; exact State.sfld_setSFld_self _ _ (by decide) h3 h4
  · exact (State.fld_setFld_part c (rLn_FDE_TAP lane) 31 30 30 30 3 (by decide) (by decide) (by decide) (by decide) (by decide)).trans rfl
  · rw [hc, ha]
    exact ((((modLane_moved (P := fun r => r = rLn_FDE_TAP lane) lane _ s).1).trans (setSFld_onlyReg _ _ _ _ _)).trans
      (setSFld_onlyReg _ _ _ _ _)).trans (resultReady_onlyRegs _ _)
  · rw [hc, ha]
    exact ((((modLane_moved (P := fun r => r = rLn_FDE_TAP lane) lane _ s).2).trans ((setSFld_onlyParts _ _ _).mono (by decide))).trans
      ((setSFld_onlyParts _ _ _).mono (by decide))).trans ((resultReady_onlyParts _ _).mono (by decide))

/-- Settles O32: each clause by the rule of its operation: start, abandon, accept, reject, finish and the two selectors. -/
theorem lanesCalibrate : Obligations.LanesCalibrate := by
  unfold Obligations.LanesCalibrate
  exact ⟨fun _ _ _ haw hl ht htx hv31 hv30 hph h1 h2 h3 h4 h5 hrx => calRun_claim haw hl ht htx hv31 hv30 hph h1 h2 h3 h4 h5 hrx,
    fun _ _ hen hph => calPassStart_claim hen hph,
    fun _ _ _ _ _ _ _ _ _ hph hrx hsum hc hcs => calEstimateEnd_claim hph hrx hsum hc hcs,
    fun _ _ hph hrx => calApplyStep_claim hph hrx,
    fun _ _ _ haw hl ht htx => ⟨fdeSel_claim haw hl ht htx, fun h5 h6 => calSel_claim haw hl ht htx h5 h6⟩,
    fun _ _ _ _ hd hreq hb hx h1 h2 h3 h4 => fdeReady_claim hd hreq hb hx h1 h2 h3 h4⟩

end Sys2Proof.Machine

end

section
/-! SUPPORT. How a lane's receiver changes its state (R88, R100, R143). -/

-- The checked text is one long file: elaborating these in order bounds its threads and memory.
set_option Elab.async false

namespace Sys2Proof.Machine

theorem moved.ite {P : RegId → Prop} {l : List Part} {s a b : State} {c : Prop} [Decidable c] (ha : moved P l s a) (hb : moved P l s b) :
    moved P l s (if c then a else b) := by
  split
  · exact ha
  · exact hb

theorem moved.lane {P : RegId → Prop} {l : List Part} {s t : State} (h : moved P l s t) (hl : Part.lanes ∉ l) (n : Nat) :
    t.lane n = s.lane n := State.lane_congr (h.2 .lanes hl) n

theorem lane_modLane {n : Nat} {f : Lane → Lane} {s : State} {m : Nat} (hm : m ≠ n) : (s.modLane n f).lane m = s.lane m :=
  State.lane_modLane_ne s f hm

/-! ## The state of a receiver -/

/-- A state in which a receiver holds its lock (R88, R143). -/
abbrev holdsLock (st : Nat) : Prop := st = rxLocked ∨ st = rxIdle ∨ st = rxWake

/-- What a change of state leaves in RX_STAT. -/
def rxStatOf (st : Nat) (w : W32) : W32 :=
  let v := putBits (putBits w 3 0 st) 9 9 (if holdsLock st then 1 else 0)
  if holdsLock st ∨ st = rxConverge then v else putBits v 17 16 0

theorem reg_setRx (s : State) (n st : Nat) : (s.setRx n st).reg (rLn_RX_STAT n) = rxStatOf st (s.reg (rLn_RX_STAT n)) := by
  obtain ⟨a, ha⟩ : ∃ a, a = (s.setFld (fLn_RX_STAT_STATE n) st).setFld (fLn_RX_STAT_LOCK n) (if holdsLock st then 1 else 0) := ⟨_, rfl⟩
  have har : a.reg (rLn_RX_STAT n) = putBits (putBits (s.reg (rLn_RX_STAT n)) 3 0 st) 9 9 (if holdsLock st then 1 else 0) := by
    rw [ha, State.setFld, State.reg_setReg_self, State.setFld, State.reg_setReg_self]
  have hfec (x : State) : (x.setFld (fLn_FEC_STAT_SF_LOCK n) 0).reg (rLn_RX_STAT n) = x.reg (rLn_RX_STAT n) :=
    State.reg_setFld_ne x _ _ _ (by simp)
  have hmem : (if holdsLock st ∨ st = rxConverge then a else a.setFld (fLn_RX_STAT_MEM n) 0).reg (rLn_RX_STAT n) =
      rxStatOf st (s.reg (rLn_RX_STAT n)) := by
    unfold rxStatOf
    dsimp only
    split
    · exact har
    · rw [State.setFld, State.reg_setReg_self, har]
  unfold State.setRx
  dsimp only
  rw [← ha]
  split
  · exact hmem
  · exact (hfec _).trans hmem

theorem bits_rxStatOf_other (st : Nat) (w : W32) {hi lo : Nat} (h : fieldOk hi lo) (h0 : 3 < lo) (h9 : hi < 9 ∨ 9 < lo) (h16 : hi < 16 ∨ 17 < lo) :
    bits (rxStatOf st w) hi lo = bits w hi lo := by
  have hv (x : Nat) : bits (putBits (putBits w 3 0 st) 9 9 x) hi lo = bits w hi lo := by
    rw [bits_putBits_other _ _ (by decide) h h9, bits_putBits_other _ _ (by decide) h (.inr h0)]
  unfold rxStatOf
  dsimp only
  split
  · exact hv _
  · rw [bits_putBits_other _ _ (by decide) h h16, hv]

/-- A field of RX_STAT that a change of state leaves. -/
theorem fld_setRx_other (s : State) (n st : Nat) {hi lo : Nat} (h : fieldOk hi lo) (h0 : 3 < lo) (h9 : hi < 9 ∨ 9 < lo) (h16 : hi < 16 ∨ 17 < lo) :
    (s.setRx n st).fld ⟨rLn_RX_STAT n, hi, lo⟩ = s.fld ⟨rLn_RX_STAT n, hi, lo⟩ := by
  rw [State.fld, reg_setRx, bits_rxStatOf_other st _ h h0 h9 h16]
  rfl

theorem lock_setRx (s : State) (n st : Nat) : (s.setRx n st).fld (fLn_RX_STAT_LOCK n) = if holdsLock st then 1 else 0 := by
  have hv : bits (putBits (putBits (s.reg (rLn_RX_STAT n)) 3 0 st) 9 9 (if holdsLock st then 1 else 0)) 9 9 = if holdsLock st then 1 else 0 := by
    rw [bits_putBits_self _ _ (by decide)]
    split <;> rfl
  rw [State.fld, reg_setRx]
  unfold rxStatOf
  dsimp only
  split
  · exact hv
  · exact (bits_putBits_other _ _ (by decide) (by decide) (by decide)).trans hv

theorem mem_setRx (s : State) (n : Nat) {st : Nat} (h : ¬ holdsLock st) (hc : st ≠ rxConverge) :
    (s.setRx n st).fld (fLn_RX_STAT_MEM n) = 0 := by
  rw [State.fld, reg_setRx]
  unfold rxStatOf
  dsimp only
  rw [if_neg (not_or.2 ⟨h, hc⟩)]
  exact bits_putBits_self _ _ (by decide)

theorem sfLock_setRx (s : State) (n : Nat) {st : Nat} (h : st ≠ rxLocked) (hc : st ≠ rxConverge) :
    (s.setRx n st).fld (fLn_FEC_STAT_SF_LOCK n) = 0 := by
  unfold State.setRx
  dsimp only
  rw [if_neg (not_or.2 ⟨h, hc⟩)]
  exact State.fld_setFld_self_of_lt _ _ (by decide) (by decide)

/-! ## Leaving a lock -/

/-- The registers that the end of lane `n`'s calibration pass may set. -/
def calReg (n : Nat) (r : RegId) : Prop :=
  r = rLn_CAL_STAT n ∨ r = rLn_CAL_EVENT n ∨ r = rLn_CAL_VAL n ∨ r = rCh_OUT (16 + n) ∨ noteReg r

theorem rxReg_of_calReg {n : Nat} {r : RegId} (h : calReg n r) : rxReg n r := by
  obtain rfl | rfl | rfl | h | h := h
  · exact .inl ⟨rfl, rfl⟩
  · exact .inl ⟨rfl, rfl⟩
  · exact .inl ⟨rfl, rfl⟩
  · exact .inr (.inl h)
  · exact .inr (.inr h)

theorem calFinish_moved (n : Nat) (s : State) : moved (calReg n) [.lanes, .rings, .regs, .out] s (calFinish n s) := by
  have hset (f : FldId) (hf : calReg n f.reg) (x : State) (v : Nat) : moved (calReg n) [.lanes, .rings, .regs, .out] x (x.setFld f v) :=
    setFld_moved f hf (by decide) x v
  have hl (l : Lane) : moved (calReg n) [.lanes, .rings, .regs, .out] s (s.setLane n l) :=
    (setLane_onlyParts s n l).moved (by decide) _ (by decide)
  unfold calFinish
  dsimp only
  exact ((((((hl _).trans (hset (fLn_CAL_STAT_PHASE n) (.inl rfl) _ _)).trans (hset (fLn_CAL_STAT_PAUSED n) (.inl rfl) _ _)).trans
    (hset (fLn_CAL_STAT_PASS_SEQ n) (.inl rfl) _ _)).trans (hset (fLn_CAL_VAL_STALE n) (.inr (.inr (.inl rfl))) _ _)).trans
    (hset (fCh_OUT_STALE (16 + n)) (.inr (.inr (.inr (.inl rfl)))) _ _)).trans
    (raise_moved _ (.inr (.inl rfl)) (fun _ h => .inr (.inr (.inr (.inr h)))) (by decide) _)

theorem calLeave_effect (n : Nat) (s : State) : let t := calLeave n s
    (∀ m, m ≠ n → t.lane m = s.lane m) ∧ moved (calReg n) [.lanes, .rings, .regs, .out] s t := by
  intro t
  obtain ⟨-, -, -, -, hother, -⟩ := calFinish_effect n s
  have habandon : moved (calReg n) [.rings, .regs, .out] s (calAbandon n s) :=
    .ite ((setFld_moved (P := calReg n) (fLn_CAL_STAT_PHASE n) (.inl rfl) (by decide) s 0).trans
      (raise_moved _ (.inr (.inl rfl)) (fun _ h => .inr (.inr (.inr (.inr h)))) (by decide) _)) (.refl _ _ s)
  by_cases h : s.fld (fLn_CAL_STAT_PHASE n) = 3
  · have ht : t = calFinish n s := if_pos h
    exact ht ▸ ⟨hother, calFinish_moved n s⟩
  · have ht : t = calAbandon n s := if_neg h
    exact ht ▸ ⟨fun m _ => habandon.lane (by decide) m, habandon.mono (fun _ => id) (by decide)⟩

theorem leaveLocked_of_free {n : Nat} {s : State} (h : ¬ holdsLock (s.rx n)) : leaveLocked n s = s := if_neg h

theorem leaveLocked_effect (n : Nat) (s : State) : let t := leaveLocked n s
    (∀ m, m ≠ n → t.lane m = s.lane m) ∧ moved (calReg n) [.lanes, .rings, .regs, .out] s t := by
  intro t
  by_cases h : holdsLock (s.rx n)
  · have ht : t = calLeave n (s.modLane n dropStream) := if_pos h
    obtain ⟨hother, hm⟩ := calLeave_effect n (s.modLane n dropStream)
    rw [ht]
    exact ⟨fun m hmn => (hother m hmn).trans (lane_modLane hmn), ((modLane_moved n dropStream s).mono (fun _ => id) (by decide)).trans hm⟩
  · have ht : t = s := leaveLocked_of_free h
    rw [ht]
    exact ⟨fun _ _ => rfl, .refl _ _ s⟩

/-! ## Acquiring again -/

/-- A lane whose receiver begins to acquire. -/
def Lane.acquiring (l : Lane) : Lane :=
  { l with
    lockRun := 0, failRun := 0, lowRun := 0, chosen := none, cand := none, candWin := 0, candSum := 0, scored := []
    curId := none, sigSince := none, win := {}, winDone := none }

/-- The settings of lane `n` that a receiver takes into use as it acquires. -/
def takeRxSettings (n : Nat) (s : State) : State :=
  { s with act := Tab.set (Tab.set (Tab.set s.act (rLn_RX_CTL n) (s.reg (rLn_RX_CTL n)))
    (rLn_RX_AFE n) (s.reg (rLn_RX_AFE n))) (rLn_TRELLIS n) (s.reg (rLn_TRELLIS n)) }

theorem takeRxSettings_moved {P : RegId → Prop} (n : Nat) (s : State) : moved P [.act] s (takeRxSettings n s) := by
  have h : onlyParts [.act] s (takeRxSettings n s) := by
    intro p hp
    cases p <;> simp_all [Part.same, takeRxSettings]
  exact h.moved (by decide) P (by decide)

/-- What a lane's receiver does as it acquires, once its lock is left. -/
def acquireFrom (n : Nat) (asleep : Prop) [Decidable asleep] (sig : Nat) (s : State) : State :=
  let a := ((takeRxSettings n s).modLane n Lane.acquiring).setRx n rxAcquire
  (if asleep then a.setFld (fLn_RX_STAT_SIGDET n) sig else a).resultPending (rLn_MERIT n)

theorem toAcquire_eq (n : Nat) (s : State) :
    toAcquire n s = acquireFrom n (s.rx n = rxIdle) (if (s.lane n).sigSince.isSome then 1 else 0) (leaveLocked n s) := rfl

/-- The registers that acquiring sets. -/
def acqReg (n : Nat) (r : RegId) : Prop := r = rLn_RX_STAT n ∨ r = rLn_FEC_STAT n ∨ r = rLn_MERIT n

theorem lnReg_of_acqReg {n : Nat} {r : RegId} (h : acqReg n r) : lnReg n r := by
  obtain rfl | rfl | rfl := h <;> exact ⟨rfl, rfl⟩

/-- What an acquiring receiver shows. -/
structure Acquiring (n : Nat) (s t : State) : Prop where
  rx : t.rx n = rxAcquire
  lock : t.fld (fLn_RX_STAT_LOCK n) = 0
  retry : t.fld (fLn_RX_STAT_RETRY n) = s.fld (fLn_RX_STAT_RETRY n)
  merit : t.fld (fLn_MERIT_MERIT n) = s.fld (fLn_MERIT_MERIT n)
  winSeq : t.fld (fLn_MERIT_WIN_SEQ n) = s.fld (fLn_MERIT_WIN_SEQ n)
  winDone : (t.lane n).winDone = none
  other : ∀ m, m ≠ n → t.lane m = s.lane m

theorem acquireFrom_effect (n : Nat) (c : Prop) [Decidable c] (sig : Nat) (s : State) : let t := acquireFrom n c sig s
    Acquiring n s t ∧ (¬ c → t.fld (fLn_RX_STAT_SIGDET n) = s.fld (fLn_RX_STAT_SIGDET n)) ∧ moved (acqReg n) [.lanes, .act, .regs] s t := by
  intro t
  obtain ⟨a, ha⟩ : ∃ a, a = (takeRxSettings n s).modLane n Lane.acquiring := ⟨_, rfl⟩
  obtain ⟨b, hb⟩ : ∃ b, b = a.setRx n rxAcquire := ⟨_, rfl⟩
  obtain ⟨d, hd⟩ : ∃ d, d = if c then b.setFld (fLn_RX_STAT_SIGDET n) sig else b := ⟨_, rfl⟩
  have ht : t = d.resultPending (rLn_MERIT n) := by rw [hd, hb, ha]; rfl
  have hsa : moved (fun _ => False) [.lanes, .act, .regs] s a := by
    rw [ha]
    exact ((takeRxSettings_moved n s).mono (fun _ => id) (by decide)).trans ((modLane_moved n _ _).mono (fun _ => id) (by decide))
  have hab : moved (acqReg n) [.regs] a b := by
    rw [hb]; exact (setRx_moved n rxAcquire a).mono (fun _ h => h.elim .inl fun h => .inr (.inl h)) fun _ => id
  have hbd : moved (fun r => r = rLn_RX_STAT n) [.regs] b d := by
    rw [hd]; exact .ite (setFld_moved (P := fun r => r = rLn_RX_STAT n) (l := [.regs]) (fLn_RX_STAT_SIGDET n) rfl (by decide) b sig) (.refl _ _ b)
  have hdt : moved (fun r => r = rLn_MERIT n) [.regs] d t := by
    rw [ht]; exact setReg_moved (P := fun r => r = rLn_MERIT n) (l := [.regs]) (rLn_MERIT n) rfl (by decide) d _
  have hrx {hi lo : Nat} (h : fieldOk hi lo) (h8 : hi < 8 ∨ 8 < lo) : t.fld ⟨rLn_RX_STAT n, hi, lo⟩ = b.fld ⟨rLn_RX_STAT n, hi, lo⟩ := by
    refine (hdt.1.fld (by simp)).trans ?_
    rw [hd]
    split
    · exact State.fld_setFld_other _ _ _ _ _ _ _ (by decide) (by decide) h.1 h.2 h8
    · rfl
  have hmerit {hi lo : Nat} (h : fieldOk hi lo) (h30 : hi < 30) : t.fld ⟨rLn_MERIT n, hi, lo⟩ = s.fld ⟨rLn_MERIT n, hi, lo⟩ := by
    rw [ht, State.resultPending_eq, State.fld_setFld_other _ _ _ _ _ _ _ (by decide) (by decide) h.1 h.2 (.inl h30)]
    refine (hbd.1.fld (by simp)).trans (.trans ?_ (hsa.1.fld id))
    rw [hb]
    exact (setRx_moved n rxAcquire a).1.fld (by simp)
  have hlane (m : Nat) : t.lane m = a.lane m :=
    (hdt.lane (by decide) m).trans ((hbd.lane (by decide) m).trans (hab.lane (by decide) m))
  refine ⟨⟨?_, ?_, ?_, hmerit (by decide) (by decide), hmerit (by decide) (by decide), ?_, fun m hm => ?_⟩, fun hc => ?_, ?_⟩
  · exact (hrx (by decide) (by decide)).trans (by rw [hb]; exact rx_setRx a n (by decide))
  · exact (hrx (by decide) (by decide)).trans (by rw [hb]; exact lock_setRx a n rxAcquire)
  · refine (hrx (by decide) (by decide)).trans (.trans ?_ (hsa.1.fld id))
    rw [hb]; exact fld_setRx_other a n _ (by decide) (by decide) (by decide) (by decide)
  · rw [hlane, ha, State.lane_modLane_self]
    rfl
  · rw [hlane, ha, lane_modLane hm]
    exact (takeRxSettings_moved (P := fun _ => False) n s).lane (by decide) m
  · refine (hdt.1.fld (by simp)).trans ?_
    rw [hd, if_neg hc, hb, fld_setRx_other a n _ (by decide) (by decide) (by decide) (by decide)]
    exact hsa.1.fld id
  · have hsa' : moved (acqReg n) [.lanes, .act, .regs] s a := hsa.mono (fun _ => False.elim) fun _ => id
    exact ((hsa'.trans (hab.mono (fun _ => id) (by decide))).trans (hbd.mono (fun _ => .inl) (by decide))).trans
      (hdt.mono (fun _ h => .inr (.inr h)) (by decide))

theorem toAcquire_effect (n : Nat) (s : State) : let t := toAcquire n s
    Acquiring n s t ∧ moved (fun r => calReg n r ∨ acqReg n r) [.lanes, .act, .rings, .regs, .out] s t := by
  intro t
  obtain ⟨hacq, -, hm⟩ := acquireFrom_effect n (s.rx n = rxIdle) (if (s.lane n).sigSince.isSome then 1 else 0) (leaveLocked n s)
  obtain ⟨hother, hleave⟩ := leaveLocked_effect n s
  rw [← toAcquire_eq] at hacq hm
  refine ⟨⟨hacq.rx, hacq.lock, hacq.retry.trans (hleave.1.fld (by simp [calReg, noteReg])), hacq.merit.trans (hleave.1.fld (by simp [calReg, noteReg])),
    hacq.winSeq.trans (hleave.1.fld (by simp [calReg, noteReg])), hacq.winDone, fun m h => (hacq.other m h).trans (hother m h)⟩, ?_⟩
  exact (hleave.mono (fun _ => .inl) (by decide)).trans (hm.mono (fun _ => .inr) (by decide))

/-- A receiver without a lock acquires. -/
theorem toAcquire_free {n : Nat} {s : State} (h : ¬ holdsLock (s.rx n)) : let t := toAcquire n s
    Acquiring n s t ∧ t.fld (fLn_RX_STAT_SIGDET n) = s.fld (fLn_RX_STAT_SIGDET n) ∧ moved (acqReg n) [.lanes, .act, .regs] s t := by
  intro t
  obtain ⟨hacq, hsig, hm⟩ := acquireFrom_effect n (s.rx n = rxIdle) (if (s.lane n).sigSince.isSome then 1 else 0) s
  have ht : t = acquireFrom n (s.rx n = rxIdle) (if (s.lane n).sigSince.isSome then 1 else 0) s :=
    (toAcquire_eq n s).trans (congrArg (acquireFrom n _ _) (leaveLocked_of_free h))
  rw [ht]
  exact ⟨hacq, hsig fun hi => h (.inr (.inl hi)), hm⟩

theorem retrainRx_effect (n : Nat) (s : State) : let t := retrainRx n s
    t.rx n = rxAcquire ∧ (∀ m, m ≠ n → t.lane m = s.lane m) ∧
      moved (fun r => calReg n r ∨ acqReg n r) [.lanes, .act, .rings, .regs, .out] s t := by
  intro t
  obtain ⟨u, hu⟩ : ∃ u, u = toAcquire n s := ⟨_, rfl⟩
  have ht : t = u.setFld (fLn_RX_STAT_RETRY n) 0 := by rw [hu]; rfl
  obtain ⟨hacq, hm⟩ := toAcquire_effect n s
  rw [← hu] at hacq hm
  rw [ht]
  refine ⟨(State.fld_setFld_other _ _ _ _ _ _ _ (by decide) (by decide) (by decide) (by decide) (by decide)).trans hacq.rx, hacq.other,
    hm.trans (setFld_moved _ (.inr (.inl rfl)) (by decide) _ 0)⟩

/-! ## Retries -/

/-- Whether one more retry is the last that RETRY_MAX allows (R88). -/
abbrev lastRetry (n : Nat) (s : State) : Prop := s.fld (fLn_ADAPT_RETRY_MAX n) ≤ min 15 (s.fld (fLn_RX_STAT_RETRY n) + 1)

theorem retry_addSat (n : Nat) (s : State) :
    (s.addSat (fLn_RX_STAT_RETRY n)).fld (fLn_RX_STAT_RETRY n) = min 15 (s.fld (fLn_RX_STAT_RETRY n) + 1) :=
  State.fld_addSat_self s _ _ (by decide) (by decide)

theorem rx_addSat_retry (n : Nat) (s : State) : (s.addSat (fLn_RX_STAT_RETRY n)).rx n = s.rx n :=
  State.fld_setFld_other _ _ _ _ _ _ _ (by decide) (by decide) (by decide) (by decide) (by decide)

theorem retry_next {n : Nat} {next : State → State} {s : State} (h : ¬ lastRetry n s) :
    retry n next s = next (s.addSat (fLn_RX_STAT_RETRY n)) :=
  if_neg (by rw [retry_addSat]; exact h)

theorem retry_last {n : Nat} {next : State → State} {s : State} (h : lastRetry n s) (hf : ¬ holdsLock (s.rx n)) :
    retry n next s = raise_ (fLn_RX_EVENT_FAILED n) ((s.addSat (fLn_RX_STAT_RETRY n)).setRx n rxFailed) := by
  have hfree : leaveLocked n (s.addSat (fLn_RX_STAT_RETRY n)) = s.addSat (fLn_RX_STAT_RETRY n) :=
    leaveLocked_of_free (by rw [rx_addSat_retry]; exact hf)
  refine (if_pos (by rw [retry_addSat]; exact h)).trans ?_
  rw [hfree]

/-- The last retry of a receiver without a lock. -/
theorem retry_last_effect {n : Nat} {next : State → State} {s : State} (h : lastRetry n s) (hf : ¬ holdsLock (s.rx n)) :
    let t := retry n next s
    t.rx n = rxFailed ∧ t.fld (fLn_RX_STAT_RETRY n) = min 15 (s.fld (fLn_RX_STAT_RETRY n) + 1) ∧
      moved (fun r => r = rLn_RX_STAT n ∨ r = rLn_FEC_STAT n ∨ r = rLn_RX_EVENT n ∨ noteReg r) [.rings, .regs, .out] s t := by
  intro t
  have ht : t = _ := retry_last h hf
  obtain ⟨a, ha⟩ : ∃ a, a = (s.addSat (fLn_RX_STAT_RETRY n)).setRx n rxFailed := ⟨_, rfl⟩
  rw [← ha] at ht
  have hr := raise_onlyRegs (fLn_RX_EVENT_FAILED n) a
  have hsa : moved (fun r => r = rLn_RX_STAT n ∨ r = rLn_FEC_STAT n ∨ r = rLn_RX_EVENT n ∨ noteReg r) [.rings, .regs, .out] s a := by
    rw [ha]
    exact (setFld_moved (fLn_RX_STAT_RETRY n) (.inl rfl) (by decide) s _).trans
      ((setRx_moved n rxFailed _).mono (fun _ h => h.elim .inl fun h => .inr (.inl h)) (by decide))
  rw [ht]
  refine ⟨(hr.fld (by simp [noteReg])).trans ?_, (hr.fld (by simp [noteReg])).trans ?_,
    hsa.trans (raise_moved _ (.inr (.inr (.inl rfl))) (fun _ h => .inr (.inr (.inr h))) (by decide) _)⟩
  · rw [ha]; exact rx_setRx _ n (by decide)
  · rw [ha, fld_setRx_other _ n _ (by decide) (by decide) (by decide) (by decide)]
    exact retry_addSat n s

end Sys2Proof.Machine

end

section
/-! PROOFS. A lane receiver follows its state table (R70-R72, R88, R100, R141). -/

-- The checked text is one long file: elaborating these in order bounds its threads and memory.
set_option Elab.async false

namespace Sys2Proof.Machine

/-! ## Signal -/

theorem signalDetect_claim {lane : Nat} {s : State} (hs : s.rx lane = rxSearch) :
    ∃ t, exec (.signalDetect lane) s = .next t ∧ t.rx lane = rxAcquire ∧
      t.fld (fLn_RX_STAT_SIGDET lane) = 1 ∧ t.fld (fLn_RX_STAT_RETRY lane) = s.fld (fLn_RX_STAT_RETRY lane) ∧
      (∀ n, n ≠ lane → t.lane n = s.lane n) ∧ onlyRegs (lnReg lane) s t ∧ onlyParts [.lanes, .act, .regs] s t := by
  obtain ⟨a, ha⟩ : ∃ a, a = s.setFld (fLn_RX_STAT_SIGDET lane) 1 := ⟨_, rfl⟩
  have hexec : exec (.signalDetect lane) s = .next (toAcquire lane a) := by rw [ha]; exact congrArg _ (if_pos hs)
  have hkeep {hi lo : Nat} (h : fieldOk hi lo) (h8 : hi < 8 ∨ 8 < lo) : a.fld ⟨rLn_RX_STAT lane, hi, lo⟩ = s.fld ⟨rLn_RX_STAT lane, hi, lo⟩ := by
    rw [ha]; exact State.fld_setFld_other _ _ _ _ _ _ _ (by decide) (by decide) h.1 h.2 h8
  have hrx : a.rx lane = rxSearch := (hkeep (by decide) (by decide)).trans hs
  have hsa : moved (lnReg lane) [.lanes, .act, .regs] s a := by rw [ha]; exact setFld_moved _ ⟨rfl, rfl⟩ (by decide) s 1
  obtain ⟨hacq, hsig, hm⟩ := toAcquire_free (n := lane) (s := a) (by rw [hrx]; decide)
  have hall := hsa.trans (hm.mono (fun _ => lnReg_of_acqReg) fun _ => id)
  refine ⟨_, hexec, hacq.rx, hsig.trans ?_, hacq.retry.trans (hkeep (by decide) (by decide)), fun n hn => (hacq.other n hn).trans ?_, hall.1, hall.2⟩
  · rw [ha]; exact State.fld_setFld_self_of_lt _ _ (by decide) (by decide)
  · rw [ha]; rfl

theorem signalDetect_other {lane : Nat} {s : State} (hs : s.rx lane ≠ rxSearch) (hi : s.rx lane ≠ rxIdle) (ho : s.rx lane ≠ rxOff) :
    exec (.signalDetect lane) s = .next (s.setFld (fLn_RX_STAT_SIGDET lane) 1) :=
  congrArg _ ((if_neg hs).trans ((if_neg hi).trans (if_neg ho)))

theorem signalDetect_idle {lane : Nat} {s : State} (hi : s.rx lane = rxIdle) :
    exec (.signalDetect lane) s = .next (s.modLane lane fun l => { l with sigSince := some (l.sigSince.getD s.up) }) :=
  congrArg _ ((if_neg (by rw [hi]; decide)).trans (if_pos hi))

theorem signalDetect_off {lane : Nat} {s : State} (ho : s.rx lane = rxOff) : exec (.signalDetect lane) s = .next s :=
  congrArg _ ((if_neg (by rw [ho]; decide)).trans ((if_neg (by rw [ho]; decide)).trans (if_pos ho)))

/-- A state that a loss of signal ends (R88). -/
abbrev losesSignal (r : Nat) : Prop := r = rxAcquire ∨ r = rxTrain ∨ r = rxConverge ∨ r = rxLocked ∨ r = rxWake

theorem lossOfSignal_claim {lane : Nat} {s : State} (hs : losesSignal (s.rx lane)) :
    ∃ t, exec (.lossOfSignal lane) s = .next t ∧ t.rx lane = rxSearch ∧ t.fld (fLn_RX_STAT_SIGDET lane) = 0 ∧
      t.fld (fLn_RX_EVENT_LOS lane) = 1 ∧ t.fld (fLn_RX_STAT_RETRY lane) = s.fld (fLn_RX_STAT_RETRY lane) ∧
      t.fld (fLn_RX_STAT_LOCK lane) = 0 ∧ t.fld (fLn_RX_STAT_MEM lane) = 0 ∧
      (∀ n, n ≠ lane → t.lane n = s.lane n) ∧ onlyRegs (rxReg lane) s t ∧ onlyParts [.lanes, .rings, .regs, .out] s t := by
  obtain ⟨a, ha⟩ : ∃ a, a = leaveLocked lane s := ⟨_, rfl⟩
  obtain ⟨b, hb⟩ : ∃ b, b = a.setRx lane rxSearch := ⟨_, rfl⟩
  obtain ⟨c, hc⟩ : ∃ c, c = b.setFld (fLn_RX_STAT_SIGDET lane) 0 := ⟨_, rfl⟩
  have hexec : exec (.lossOfSignal lane) s = .next (raise_ (fLn_RX_EVENT_LOS lane) c) := by
    rw [hc, hb, ha]; exact congrArg _ (if_pos hs)
  obtain ⟨hother, hleave⟩ := leaveLocked_effect lane s
  rw [← ha] at hother hleave
  have hab := setRx_moved lane rxSearch a
  rw [← hb] at hab
  have hbc : moved (fun r => r = rLn_RX_STAT lane) [.regs] b c := by
    rw [hc]; exact setFld_moved (P := fun r => r = rLn_RX_STAT lane) (fLn_RX_STAT_SIGDET lane) rfl (by decide) b 0
  have hct := raise_moved (P := fun r => r = rLn_RX_EVENT lane ∨ noteReg r) (fLn_RX_EVENT_LOS lane) (.inl rfl) (fun _ => .inr) (fun _ => id) c
  have hstat {hi lo : Nat} (h : fieldOk hi lo) (h8 : hi < 8 ∨ 8 < lo) :
      (raise_ (fLn_RX_EVENT_LOS lane) c).fld ⟨rLn_RX_STAT lane, hi, lo⟩ = b.fld ⟨rLn_RX_STAT lane, hi, lo⟩ := by
    refine (hct.1.fld (by simp [noteReg])).trans ?_
    rw [hc]; exact State.fld_setFld_other _ _ _ _ _ _ _ (by decide) (by decide) h.1 h.2 h8
  refine ⟨_, hexec, ?_, ?_, raise_fld_self _ _ (by decide) ⟨Blk.noConfusion, Blk.noConfusion⟩, ?_, ?_, ?_, fun n hn => ?_, ?_, ?_⟩
  · exact (hstat (by decide) (by decide)).trans (by rw [hb]; exact rx_setRx a lane (by decide))
  · refine (hct.1.fld (by simp [noteReg])).trans ?_
    rw [hc]; exact State.fld_setFld_self_of_lt _ _ (by decide) (by decide)
  · refine (hstat (by decide) (by decide)).trans (.trans ?_ (hleave.1.fld (by simp [calReg, noteReg])))
    rw [hb]; exact fld_setRx_other a lane _ (by decide) (by decide) (by decide) (by decide)
  · exact (hstat (by decide) (by decide)).trans (by rw [hb]; exact lock_setRx a lane rxSearch)
  · exact (hstat (by decide) (by decide)).trans (by rw [hb]; exact mem_setRx a lane (by decide) (by decide))
  · exact (hct.lane (by decide) n).trans ((hbc.lane (by decide) n).trans ((hab.lane (by decide) n).trans (hother n hn)))
  · refine (((hleave.1.mono fun _ => rxReg_of_calReg).trans (hab.1.mono ?_)).trans (hbc.1.mono ?_)).trans (hct.1.mono ?_)
    · rintro r (rfl | rfl) <;> exact .inl ⟨rfl, rfl⟩
    · rintro r rfl; exact .inl ⟨rfl, rfl⟩
    · rintro r (rfl | h)
      · exact .inl ⟨rfl, rfl⟩
      · exact .inr (.inr h)
  · exact ((hleave.2.trans (hab.2.mono (by decide))).trans (hbc.2.mono (by decide))).trans (hct.2.mono (by decide))

theorem lossOfSignal_idle {lane : Nat} {s : State} (hi : s.rx lane = rxIdle) :
    exec (.lossOfSignal lane) s = .next (s.modLane lane ({ · with sigSince := none })) :=
  congrArg _ ((if_neg (by rw [hi]; decide)).trans (if_pos hi))

theorem lossOfSignal_failed {lane : Nat} {s : State} (hf : s.rx lane = rxFailed) :
    exec (.lossOfSignal lane) s = .next (s.setFld (fLn_RX_STAT_SIGDET lane) 0) :=
  congrArg _ ((if_neg (by rw [hf]; decide)).trans ((if_neg (by rw [hf]; decide)).trans (if_pos hf)))

theorem lossOfSignal_none {lane : Nat} {s : State} (h : s.rx lane = rxOff ∨ s.rx lane = rxSearch) : exec (.lossOfSignal lane) s = .next s := by
  have hne (r : Nat) (ho : r ≠ rxOff) (hs : r ≠ rxSearch) : s.rx lane ≠ r := fun he => h.elim (fun h => ho (he.symm.trans h)) fun h => hs (he.symm.trans h)
  have hloses : ¬ losesSignal (s.rx lane) := by
    rintro (h | h | h | h | h) <;> exact hne _ (by decide) (by decide) h
  exact congrArg _ ((if_neg hloses).trans ((if_neg (hne _ (by decide) (by decide))).trans (if_neg (hne _ (by decide) (by decide)))))

theorem timingLockLoss_claim {lane : Nat} {s : State} (hs : s.rx lane = rxLocked) :
    ∃ t, exec (.timingLockLoss lane) s = .next t ∧ t.rx lane = rxAcquire ∧
      t.fld (fLn_RX_STAT_LOCK lane) = 0 ∧ t.fld (fLn_RX_EVENT_LOCK_LOST lane) = 1 ∧ (∀ n, n ≠ lane → t.lane n = s.lane n) ∧
      onlyRegs (rxReg lane) s t ∧ onlyParts [.lanes, .act, .rings, .regs, .out] s t := by
  obtain ⟨a, ha⟩ : ∃ a, a = toAcquire lane s := ⟨_, rfl⟩
  have hexec : exec (.timingLockLoss lane) s = .next (raise_ (fLn_RX_EVENT_LOCK_LOST lane) a) := by rw [ha]; exact congrArg _ (if_pos hs)
  obtain ⟨hacq, hm⟩ := toAcquire_effect lane s
  rw [← ha] at hacq hm
  have hr := raise_moved (P := fun r => r = rLn_RX_EVENT lane ∨ noteReg r) (fLn_RX_EVENT_LOCK_LOST lane) (.inl rfl) (fun _ => .inr) (fun _ => id) a
  refine ⟨_, hexec, (hr.1.fld (by simp [noteReg])).trans hacq.rx, (hr.1.fld (by simp [noteReg])).trans hacq.lock,
    raise_fld_self _ _ (by decide) ⟨Blk.noConfusion, Blk.noConfusion⟩, fun n hn => (hr.lane (by decide) n).trans (hacq.other n hn),
    (hm.1.mono ?_).trans (hr.1.mono ?_), hm.2.trans (hr.2.mono (by decide))⟩
  · exact fun r h => h.elim rxReg_of_calReg fun h => .inl (lnReg_of_acqReg h)
  · rintro r (rfl | h)
    · exact .inl ⟨rfl, rfl⟩
    · exact .inr (.inr h)

/-! ## The gain -/

theorem vgaFor_le (s : State) (n : Nat) (rms : Int) : s.vgaFor n rms ≤ 104 := by
  unfold State.vgaFor
  omega

theorem vgaFor_congr {s t : State} {n : Nat} (rms : Int) (h : t.fld (fLn_RX_AFE_VGA n) = s.fld (fLn_RX_AFE_VGA n))
    (h' : t.fld (fLn_RX_AFE_VGA_TARGET n) = s.fld (fLn_RX_AFE_VGA_TARGET n)) : t.vgaFor n rms = s.vgaFor n rms := by
  rw [State.vgaFor, State.agcDev, h, h']
  rfl

/-- A lane's taps scaled by the inverse of a step of its gain. -/
def Lane.rescale (v v' : Nat) (l : Lane) : Lane := { l with taps := scaleTaps v v' l.taps }

theorem agcFree_auto {n : Nat} {rms : Int} {s : State} (h : s.on (fLn_RX_AFE_VGA_AUTO n) = true) :
    agcFree n rms s = (s.setFld (fLn_RX_AFE_VGA n) (s.vgaFor n rms)).modLane n (Lane.rescale (s.fld (fLn_RX_AFE_VGA n)) (s.vgaFor n rms)) := by
  have hempty (v v' : Nat) (l : Lane) : { l with taps := if l.taps.isEmpty then [] else scaleTaps v v' l.taps } = l.rescale v v' := by
    unfold Lane.rescale
    cases htaps : l.taps with
    | nil => rfl
    | cons a r => rfl
  refine (if_pos h).trans ?_
  exact congrArg (State.modLane _ n) (funext (hempty _ _))

theorem agcFree_fixed {n : Nat} {rms : Int} {s : State} (h : s.on (fLn_RX_AFE_VGA_AUTO n) = false) : agcFree n rms s = s :=
  if_neg (by rw [h]; exact Bool.false_ne_true)

/-- A change of lane `n` that a gain makes: its taps alone. -/
abbrev sameButTaps (l l' : Lane) : Prop := l' = { l with taps := l'.taps }

theorem agcFree_effect (n : Nat) (rms : Int) (s : State) : let t := agcFree n rms s
    (s.on (fLn_RX_AFE_VGA_AUTO n) = true → t.fld (fLn_RX_AFE_VGA n) = s.vgaFor n rms ∧
      (t.lane n).taps = scaleTaps (s.fld (fLn_RX_AFE_VGA n)) (s.vgaFor n rms) (s.lane n).taps) ∧
    sameButTaps (s.lane n) (t.lane n) ∧ (∀ m, m ≠ n → t.lane m = s.lane m) ∧
    (∀ hi lo, fieldOk hi lo → 14 < lo → t.fld ⟨rLn_RX_AFE n, hi, lo⟩ = s.fld ⟨rLn_RX_AFE n, hi, lo⟩) ∧
    moved (fun r => r = rLn_RX_AFE n) [.lanes, .regs] s t := by
  intro t
  cases hv : s.on (fLn_RX_AFE_VGA_AUTO n)
  · have ht : t = s := agcFree_fixed hv
    rw [ht]
    exact ⟨fun h => absurd h Bool.false_ne_true, rfl, fun _ _ => rfl, fun _ _ _ _ => rfl, .refl _ _ s⟩
  · obtain ⟨a, ha⟩ : ∃ a, a = s.setFld (fLn_RX_AFE_VGA n) (s.vgaFor n rms) := ⟨_, rfl⟩
    obtain ⟨f, hf⟩ : ∃ f, f = Lane.rescale (s.fld (fLn_RX_AFE_VGA n)) (s.vgaFor n rms) := ⟨_, rfl⟩
    have ht : t = a.modLane n f := by rw [ha, hf]; exact agcFree_auto hv
    have hlane : a.lane n = s.lane n := by rw [ha]; rfl
    have hfld (g : FldId) : (a.modLane n f).fld g = a.fld g := rfl
    rw [ht, State.lane_modLane_self, hlane]
    refine ⟨fun _ => ⟨?_, by rw [hf]; rfl⟩, by rw [hf]; rfl, fun m hm => (lane_modLane hm).trans (by rw [ha]; rfl), fun hi lo h h14 => ?_, ?_⟩
    · rw [hfld, ha]; exact State.fld_setFld_self_of_lt _ _ (by decide) (Nat.lt_of_le_of_lt (vgaFor_le s n rms) (by decide))
    · rw [hfld, ha]; exact State.fld_setFld_other _ _ _ _ _ _ _ (by decide) (by decide) h.1 h.2 (.inr h14)
    · rw [ha]
      exact (setFld_moved (P := fun r => r = rLn_RX_AFE n) (fLn_RX_AFE_VGA n) rfl (by decide) s _).trans (modLane_moved n f _)

/-! ## Acquire -/

/-- The peaking that an acquisition chooses, in use at once. -/
def takeCtle (n : Nat) (powers : List (Nat × Nat)) (s : State) : State :=
  if s.on (fLn_RX_AFE_CTLE_AUTO n) then
    let a := s.setFld (fLn_RX_AFE_CTLE n) ((chooseCtle (powers.take 16)).getD 0)
    { a with act := Tab.set a.act (rLn_RX_AFE n) (a.reg (rLn_RX_AFE n)) }
  else s

theorem takeCtle_effect (n : Nat) (powers : List (Nat × Nat)) (s : State) : let t := takeCtle n powers s
    (∀ c, c < 16 → s.on (fLn_RX_AFE_CTLE_AUTO n) = true → chooseCtle (powers.take 16) = some c → t.fld (fLn_RX_AFE_CTLE n) = c) ∧
    (∀ hi lo, fieldOk hi lo → hi < 24 → t.fld ⟨rLn_RX_AFE n, hi, lo⟩ = s.fld ⟨rLn_RX_AFE n, hi, lo⟩) ∧
    moved (fun r => r = rLn_RX_AFE n) [.act, .regs] s t := by
  intro t
  cases hv : s.on (fLn_RX_AFE_CTLE_AUTO n)
  · have ht : t = s := if_neg (by rw [hv]; exact Bool.false_ne_true)
    rw [ht]
    exact ⟨fun _ _ h => absurd h Bool.false_ne_true, fun _ _ _ _ => rfl, .refl _ _ s⟩
  · obtain ⟨a, ha⟩ : ∃ a, a = s.setFld (fLn_RX_AFE_CTLE n) ((chooseCtle (powers.take 16)).getD 0) := ⟨_, rfl⟩
    have ht : t = { a with act := Tab.set a.act (rLn_RX_AFE n) (a.reg (rLn_RX_AFE n)) } := by rw [ha]; exact if_pos hv
    have hfld (g : FldId) : t.fld g = a.fld g := by rw [ht]; rfl
    have hact : onlyParts [.act] a t := by
      rw [ht]
      intro p hp
      cases p <;> simp_all [Part.same]
    refine ⟨fun c hc _ hch => ?_, fun hi lo h h24 => ?_, ?_⟩
    · rw [hfld, ha, hch]; exact State.fld_setFld_self_of_lt _ _ (by decide) hc
    · rw [hfld, ha]; exact State.fld_setFld_other _ _ _ _ _ _ _ (by decide) (by decide) h.1 h.2 (.inl h24)
    · refine .trans ?_ (hact.moved (by decide) _ (by decide))
      rw [ha]; exact setFld_moved (P := fun r => r = rLn_RX_AFE n) (fLn_RX_AFE_CTLE n) rfl (by decide) s _

theorem acquireDone_claim {lane : Nat} {powers : List (Nat × Nat)} {rms : Int} {lp : Loops} {s : State}
    (hs : s.rx lane = rxAcquire) (hacq : s.acquired lane powers rms lp.freq = true) :
    ∃ t, exec (.acquireDone lane powers rms lp) s = .next t ∧ t.rx lane = rxTrain ∧
      (∀ c, c < 16 → s.on (fLn_RX_AFE_CTLE_AUTO lane) = true → chooseCtle (powers.take 16) = some c → t.fld (fLn_RX_AFE_CTLE lane) = c) ∧
      (s.on (fLn_RX_AFE_VGA_AUTO lane) = true → t.fld (fLn_RX_AFE_VGA lane) = s.vgaFor lane rms) ∧
      t.sfld (fLn_RX_TIMING_FREQ_OFS lane) = lp.freq ∧ (t.lane lane).fromCatch = s.trainsFromCatch lane ∧ (t.lane lane).dc = lp.dc ∧
      (t.lane lane).phase = lp.phase ∧
      (∀ n, n ≠ lane → t.lane n = s.lane n) ∧ onlyRegs (lnReg lane) s t ∧ onlyParts [.lanes, .act, .regs] s t := by
  have hfreq : lp.freq.natAbs ≤ 25000 := by
    simp only [State.acquired, Bool.and_eq_true, decide_eq_true_eq] at hacq
    exact hacq.1.2
  obtain ⟨a, ha⟩ : ∃ a, a = takeCtle lane powers s := ⟨_, rfl⟩
  obtain ⟨b, hb⟩ : ∃ b, b = agcFree lane rms a := ⟨_, rfl⟩
  obtain ⟨c, hc⟩ : ∃ c, c = b.setSFld (fLn_RX_TIMING_FREQ_OFS lane) lp.freq := ⟨_, rfl⟩
  obtain ⟨d, hd⟩ : ∃ d, d = c.setRx lane rxTrain := ⟨_, rfl⟩
  obtain ⟨f, hf⟩ : ∃ f : Lane → Lane, f = ({ · with fromCatch := s.trainsFromCatch lane, curId := none, dc := lp.dc, phase := lp.phase }) := ⟨_, rfl⟩
  have hexec : exec (.acquireDone lane powers rms lp) s = .next (d.modLane lane f) := by
    rw [hf, hd, hc, hb, ha]
    exact congrArg _ (if_pos ⟨hs, hacq⟩)
  obtain ⟨hctle, hlow, hsa⟩ := takeCtle_effect lane powers s
  obtain ⟨hvga, -, hother, hhigh, hab⟩ := agcFree_effect lane rms a
  rw [← ha] at hctle hlow hsa
  rw [← hb] at hvga hother hhigh hab
  have hbc : moved (fun r => r = rLn_RX_TIMING lane) [.regs] b c := by
    rw [hc]; exact setFld_moved (P := fun r => r = rLn_RX_TIMING lane) (fLn_RX_TIMING_FREQ_OFS lane) rfl (by decide) b _
  have hcd := setRx_moved lane rxTrain c
  rw [← hd] at hcd
  have hfld (g : FldId) : (d.modLane lane f).fld g = d.fld g := rfl
  have hafe (hi lo : Nat) : (d.modLane lane f).fld ⟨rLn_RX_AFE lane, hi, lo⟩ = b.fld ⟨rLn_RX_AFE lane, hi, lo⟩ :=
    (hfld _).trans ((hcd.1.fld (by simp)).trans (hbc.1.fld (by simp)))
  refine ⟨_, hexec, ?_, fun k hk hauto hch => ?_, fun hauto => ?_, ?_, ?_, ?_, ?_, fun n hn => ?_, ?_, ?_⟩
  · exact (hfld _).trans (by rw [hd]; exact rx_setRx c lane (by decide))
  · exact (hafe _ _).trans ((hhigh _ _ (by decide) (by decide)).trans (hctle k hk hauto hch))
  · have hauto' : a.on (fLn_RX_AFE_VGA_AUTO lane) = true := (congrArg (· != 0) (hlow 23 23 (by decide) (by decide))).trans hauto
    exact (hafe _ _).trans ((hvga hauto').1.trans (vgaFor_congr rms (hlow _ _ (by decide) (by decide)) (hlow _ _ (by decide) (by decide))))
  · refine Eq.trans (b := d.sfld (fLn_RX_TIMING_FREQ_OFS lane)) rfl ((hcd.1.sfld (by simp)).trans ?_)
    rw [hc]; exact State.sfld_setSFld_self _ _ (by decide) (by omega) (by omega)
  · rw [State.lane_modLane_self, hf]
  · rw [State.lane_modLane_self, hf]
  · rw [State.lane_modLane_self, hf]
  · exact (lane_modLane hn).trans ((hcd.lane (by decide) n).trans ((hbc.lane (by decide) n).trans ((hother n hn).trans (hsa.lane (by decide) n))))
  · refine ((((hsa.1.mono ?_).trans (hab.1.mono ?_)).trans (hbc.1.mono ?_)).trans (hcd.1.mono ?_)).trans (modLane_moved lane f d).1
    · rintro r rfl; exact ⟨rfl, rfl⟩
    · rintro r rfl; exact ⟨rfl, rfl⟩
    · rintro r rfl; exact ⟨rfl, rfl⟩
    · rintro r (rfl | rfl) <;> exact ⟨rfl, rfl⟩
  · exact ((((hsa.2.mono (by decide)).trans (hab.2.mono (by decide))).trans (hbc.2.mono (by decide))).trans (hcd.2.mono (by decide))).trans
      ((modLane_moved (P := lnReg lane) lane f d).2.mono (by decide))

theorem acquireDone_other {lane : Nat} {powers : List (Nat × Nat)} {rms : Int} {lp : Loops} {s : State}
    (h : s.rx lane ≠ rxAcquire ∨ s.acquired lane powers rms lp.freq = false) : exec (.acquireDone lane powers rms lp) s = .next s :=
  congrArg _ (if_neg fun ⟨hr, ha⟩ => h.elim (fun h => h hr) fun h => Bool.false_ne_true (h.symm.trans ha))

theorem acquireTimeout_claim {lane : Nat} {s : State} (hs : s.rx lane = rxAcquire) : ∃ t, exec (.acquireTimeout lane) s = .next t ∧
    t.rx lane = (if s.fld (fLn_ADAPT_RETRY_MAX lane) ≤ min 15 (s.fld (fLn_RX_STAT_RETRY lane) + 1) then rxFailed else rxAcquire) ∧
    t.fld (fLn_RX_STAT_RETRY lane) = min 15 (s.fld (fLn_RX_STAT_RETRY lane) + 1) ∧
    (∀ n, n ≠ lane → t.lane n = s.lane n) ∧ onlyRegs (fun r => lnReg lane r ∨ noteReg r) s t ∧
    onlyParts [.lanes, .act, .rings, .regs, .out] s t := by
  have hexec : exec (.acquireTimeout lane) s = .next (retry lane (toAcquire lane) s) := congrArg _ (if_pos hs)
  have hfree : ¬ holdsLock (s.rx lane) := by rw [hs]; decide
  by_cases h : lastRetry lane s
  · obtain ⟨hrx, hretry, hm⟩ := retry_last_effect (next := toAcquire lane) h hfree
    refine ⟨_, hexec, hrx.trans (if_pos h).symm, hretry, fun n _ => hm.lane (by decide) n, hm.1.mono ?_, hm.2.mono (by decide)⟩
    rintro r (rfl | rfl | rfl | h)
    · exact .inl ⟨rfl, rfl⟩
    · exact .inl ⟨rfl, rfl⟩
    · exact .inl ⟨rfl, rfl⟩
    · exact .inr h
  · obtain ⟨a, ha⟩ : ∃ a, a = s.addSat (fLn_RX_STAT_RETRY lane) := ⟨_, rfl⟩
    have hnext : retry lane (toAcquire lane) s = toAcquire lane a := by rw [ha]; exact retry_next h
    have hrxa : a.rx lane = s.rx lane := by rw [ha]; exact rx_addSat_retry lane s
    obtain ⟨hacq, -, hm⟩ := toAcquire_free (n := lane) (s := a) (by rw [hrxa]; exact hfree)
    have hsa : moved (lnReg lane) [.lanes, .act, .regs] s a := by
      rw [ha]; exact setFld_moved (fLn_RX_STAT_RETRY lane) ⟨rfl, rfl⟩ (by decide) s _
    have hall := hsa.trans (hm.mono (fun _ => lnReg_of_acqReg) fun _ => id)
    rw [hnext] at hexec
    refine ⟨_, hexec, hacq.rx.trans (if_neg h).symm, hacq.retry.trans ?_, fun n hn => (hacq.other n hn).trans ?_,
      hall.1.mono fun _ => .inl, hall.2.mono (by decide)⟩
    · rw [ha]; exact retry_addSat lane s
    · rw [ha]; rfl

end Sys2Proof.Machine

end

section
/-! PROOFS. Training from a catch sequence or from decisions (R71, R72, R88, R141). -/

-- The checked text is one long file: elaborating these in order bounds its threads and memory.
set_option Elab.async false

namespace Sys2Proof.Machine

/-! ## Taps -/

/-- A tap within its range (R75). -/
abbrev tapInRange (t : Int × Int) : Prop := -16384 ≤ t.1 ∧ t.1 ≤ 16383 ∧ -16384 ≤ t.2 ∧ t.2 ≤ 16383

theorem tapInRange_tapOf (z : Cx) : tapInRange (tapOf z) := by
  unfold tapOf clampTap
  omega

theorem Tab.get_of_all {P : Int × Int → Prop} (h0 : P (0, 0)) : ∀ {t : Tab Nat (Int × Int)}, (∀ e ∈ t, P e.2) → ∀ b, P (Tab.get (0, 0) t b)
  | [], _, _ => h0
  | e :: r, h, b => by
    unfold Tab.get
    split
    · exact h e List.mem_cons_self
    · exact Tab.get_of_all h0 (fun x hx => h x (List.mem_cons_of_mem _ hx)) b

theorem tapsOf_inRange (z : List Cx) : ∀ e ∈ tapsOf z, tapInRange e.2 := by
  intro e he
  obtain ⟨b, -, rfl⟩ := List.mem_map.1 he
  exact tapInRange_tapOf _

theorem scaleTaps_inRange (v v' : Nat) (taps : Tab Nat (Int × Int)) : ∀ e ∈ scaleTaps v v' taps, tapInRange e.2 := by
  intro e he
  unfold scaleTaps at he
  obtain ⟨b, -, rfl⟩ := List.mem_map.1 he
  exact tapInRange_tapOf _

/-! ## The candidate in use -/

/-- A candidate in use sets its memory, its feedback taps and the targets it leaves out (R90). -/
theorem useCandidate_effect (n : Nat) (c : Nat × Nat) (s : State) : let t := useCandidate n c s
    t.lane n = { s.lane n with surv := (t.lane n).surv, undecided := (t.lane n).undecided } ∧ (∀ m, m ≠ n → t.lane m = s.lane m) ∧
    (∀ hi lo, fieldOk hi lo → (hi < 16 ∨ 19 < lo) → t.fld ⟨rLn_RX_STAT n, hi, lo⟩ = s.fld ⟨rLn_RX_STAT n, hi, lo⟩) ∧
    moved (fun r => r = rLn_RX_STAT n ∨ r = rLn_TRELLIS n ∨ r = rLn_DFE_TAP n) [.lanes, .regs] s t := by
  intro t
  obtain ⟨a, ha⟩ : ∃ a, a = if s.fld (fLn_RX_STAT_MEM n) = c.1 then s else s.modLane n ({ · with surv := [], undecided := [] }) := ⟨_, rfl⟩
  obtain ⟨b, hb⟩ : ∃ b, b = (a.setFld (fLn_RX_STAT_MEM n) c.1).setFld (fLn_RX_STAT_DFE_N n) c.2 := ⟨_, rfl⟩
  have hsa : (a.lane n = { s.lane n with surv := (a.lane n).surv, undecided := (a.lane n).undecided } ∧ ∀ m, m ≠ n → a.lane m = s.lane m) ∧
      moved (fun _ => False) [.lanes, .regs] s a := by
    rw [ha]
    split
    · exact ⟨⟨rfl, fun _ _ => rfl⟩, .refl _ _ s⟩
    · refine ⟨⟨?_, fun m hm => lane_modLane hm⟩, modLane_moved n _ s⟩
      rw [State.lane_modLane_self]
  have hset (f : FldId) (x : State) (v : Nat) (h : f.reg = rLn_TRELLIS n ∨ f.reg = rLn_DFE_TAP n) (p : Prop) [Decidable p] :
      moved (fun r => r = rLn_TRELLIS n ∨ r = rLn_DFE_TAP n) [.regs] x (if p then x.setFld f v else x) :=
    .ite (setFld_moved (l := [.regs]) f h (by decide) x v) (.refl _ _ x)
  have hbt : moved (fun r => r = rLn_TRELLIS n ∨ r = rLn_DFE_TAP n) [.regs] b t := by
    have h1 := hset (fLn_TRELLIS_G2 n) b 0 (.inl rfl) (c.1 = 1)
    have ht : t = useCandidate n c s := rfl
    unfold useCandidate at ht
    dsimp only at ht
    rw [← ha, ← hb] at ht
    rw [ht]
    exact ((h1.trans (hset (fLn_DFE_TAP_TAP3 n) _ 0 (.inr rfl) (c.2 < 3))).trans (hset (fLn_DFE_TAP_TAP2 n) _ 0 (.inr rfl) (c.2 < 2))).trans
      (hset (fLn_DFE_TAP_TAP1 n) _ 0 (.inr rfl) (c.2 < 1))
  have hlane (m : Nat) : t.lane m = a.lane m := (hbt.lane (by decide) m).trans (by rw [hb]; rfl)
  refine ⟨(hlane n).trans (by rw [hlane n]; exact hsa.1.1), fun m hm => (hlane m).trans (hsa.1.2 m hm), fun hi lo h hd => ?_, ?_⟩
  · refine (hbt.1.fld (by simp)).trans (.trans ?_ (hsa.2.1.fld id))
    rw [hb, State.fld_setFld_other _ _ _ _ _ _ _ (by decide) (by decide) h.1 h.2 (hd.elim (fun h => .inl (by omega)) .inr),
      State.fld_setFld_other _ _ _ _ _ _ _ (by decide) (by decide) h.1 h.2 (hd.elim (fun h => .inl (by omega)) (fun h => .inr (by omega)))]
  · refine ((hsa.2.mono (fun _ => False.elim) fun _ => id).trans ?_).trans (hbt.mono (fun _ => .inr) (by decide))
    rw [hb]
    exact (setFld_moved (fLn_RX_STAT_MEM n) (.inl rfl) (by decide) a _).trans (setFld_moved (fLn_RX_STAT_DFE_N n) (.inl rfl) (by decide) _ _)

/-- The first of some candidates in use, where there is one. -/
def useFirst (n : Nat) (cs : List (Nat × Nat)) (s : State) : State :=
  match cs with
  | c :: _ => useCandidate n c s
  | [] => s

theorem useFirst_effect (n : Nat) (cs : List (Nat × Nat)) (s : State) : let t := useFirst n cs s
    t.lane n = { s.lane n with surv := (t.lane n).surv, undecided := (t.lane n).undecided } ∧ (∀ m, m ≠ n → t.lane m = s.lane m) ∧
    (∀ hi lo, fieldOk hi lo → (hi < 16 ∨ 19 < lo) → t.fld ⟨rLn_RX_STAT n, hi, lo⟩ = s.fld ⟨rLn_RX_STAT n, hi, lo⟩) ∧
    moved (fun r => r = rLn_RX_STAT n ∨ r = rLn_TRELLIS n ∨ r = rLn_DFE_TAP n) [.lanes, .regs] s t :=
  match cs with
  | c :: _ => useCandidate_effect n c s
  | [] => ⟨rfl, fun _ _ => rfl, fun _ _ _ _ => rfl, .refl _ _ s⟩

/-! ## A solved training -/

/-- A lane that begins to converge. -/
def Lane.converging (next : Nat) (cands : List (Nat × Nat)) (id? : Option Nat) (l : Lane) : Lane :=
  dropStream { l with
    gain := 1, win := {}, winDone := none, dfeSyms := 0, tgtSyms := 0, powers := [], sf := next % 17424
    k := 6, kBlocks := 0, cand := cands.head?, candWin := 0, candSum := 0, scored := [], chosen := none,
    lastId := id?, lockRun := 0, failRun := 0 }

/-- The taps and gain of a solved training. -/
def trainedTaps (n : Nat) (tr : TrainRx) (s : State) : State :=
  agcFree n tr.rms (State.modLane { s with act := Tab.set s.act (rLn_DFE_CTL n) (s.reg (rLn_DFE_CTL n)) } n
    ({ · with taps := tapsOf (s.solved n tr.pos tr.rx) }))

/-- The receiver converges, aligned to the superframe where it trained so. -/
def converge (n : Nat) (fromCatch aligned : Prop) [Decidable fromCatch] [Decidable aligned] (s : State) : State :=
  let a := (s.setRx n rxConverge).setFld (fLn_RX_STAT_TRAINED_CATCH n) (if fromCatch then 1 else 0)
  if aligned then a.setFld (fLn_FEC_STAT_SF_LOCK n) 1 else a

theorem exec_trainSolveDone {lane : Nat} {tr : TrainRx} {s : State} (hs : s.rx lane = rxTrain)
    (hsolv : (s.lane lane).solvable tr.pos tr.rx = true) :
    exec (.trainSolveDone lane tr) s = .next (useFirst lane ((trainedTaps lane tr s).candidates lane)
      (converge lane ((s.lane lane).fromCatch = true) ((s.det lane).code = 1) ((trainedTaps lane tr s).setLane lane
        (((trainedTaps lane tr s).lane lane).converging tr.next ((trainedTaps lane tr s).candidates lane)
          (if (s.lane lane).fromCatch then (s.lane lane).curId else none))))) := by
  refine congrArg _ ((if_neg (not_or.2 ⟨not_not.2 hs, by simp [hsolv]⟩)).trans ?_)
  unfold useFirst
  rfl

theorem trainedTaps_effect (n : Nat) (tr : TrainRx) (s : State) : let t := trainedTaps n tr s
    sameButTaps (s.lane n) (t.lane n) ∧ (∀ m, m ≠ n → t.lane m = s.lane m) ∧
    (s.on (fLn_RX_AFE_VGA_AUTO n) = false → (t.lane n).taps = tapsOf (s.solved n tr.pos tr.rx)) ∧
    (s.on (fLn_RX_AFE_VGA_AUTO n) = true → t.fld (fLn_RX_AFE_VGA n) = s.vgaFor n tr.rms ∧
      (t.lane n).taps = scaleTaps (s.fld (fLn_RX_AFE_VGA n)) (s.vgaFor n tr.rms) (tapsOf (s.solved n tr.pos tr.rx))) ∧
    (∀ e ∈ (t.lane n).taps, tapInRange e.2) ∧ moved (fun r => r = rLn_RX_AFE n) [.lanes, .act, .regs] s t := by
  intro t
  obtain ⟨a, ha⟩ : ∃ a : State, a = { s with act := Tab.set s.act (rLn_DFE_CTL n) (s.reg (rLn_DFE_CTL n)) } := ⟨_, rfl⟩
  obtain ⟨b, hb⟩ : ∃ b, b = a.modLane n ({ · with taps := tapsOf (s.solved n tr.pos tr.rx) }) := ⟨_, rfl⟩
  have ht : t = agcFree n tr.rms b := by rw [hb, ha]; rfl
  have hact : onlyParts [.act] s a := by
    rw [ha]
    intro p hp
    cases p <;> simp_all [Part.same]
  have hsb : moved (fun r => r = rLn_RX_AFE n) [.lanes, .act, .regs] s b := by
    rw [hb]
    exact (hact.moved (by decide) _ (by decide)).trans ((modLane_moved n _ a).mono (fun _ => id) (by decide))
  have hreg (g : FldId) : b.fld g = s.fld g := by rw [hb, ha]; rfl
  have hlane : a.lane n = s.lane n := State.lane_congr (hact .lanes (by decide)) n
  have hbn : b.lane n = { s.lane n with taps := tapsOf (s.solved n tr.pos tr.rx) } := by rw [hb, State.lane_modLane_self, hlane]
  obtain ⟨hvga, hsame, hother, -, hm⟩ := agcFree_effect n tr.rms b
  rw [← ht] at hvga hsame hother hm
  have hauto : b.on (fLn_RX_AFE_VGA_AUTO n) = s.on (fLn_RX_AFE_VGA_AUTO n) := congrArg (· != 0) (hreg _)
  rw [hauto, vgaFor_congr tr.rms (hreg _) (hreg _), hreg, hbn] at hvga
  have hfixed : s.on (fLn_RX_AFE_VGA_AUTO n) = false → (t.lane n).taps = tapsOf (s.solved n tr.pos tr.rx) := fun h => by
    rw [ht, agcFree_fixed (hauto.trans h), hbn]
  refine ⟨?_, fun m hm' => (hother m hm').trans ?_, hfixed, hvga, ?_, hsb.trans (hm.mono (fun _ => id) (by decide))⟩
  · exact hsame.trans (by rw [hbn])
  · rw [hb, lane_modLane hm']
    exact State.lane_congr (hact .lanes (by decide)) m
  · cases h : s.on (fLn_RX_AFE_VGA_AUTO n)
    · rw [hfixed h]; exact tapsOf_inRange _
    · rw [(hvga h).2]; exact scaleTaps_inRange _ _ _

theorem converge_effect (n : Nat) (c d : Prop) [Decidable c] [Decidable d] (s : State) : let t := converge n c d s
    t.rx n = rxConverge ∧ t.fld (fLn_RX_STAT_TRAINED_CATCH n) = (if c then 1 else 0) ∧ (d → t.fld (fLn_FEC_STAT_SF_LOCK n) = 1) ∧
      moved (fun r => r = rLn_RX_STAT n ∨ r = rLn_FEC_STAT n) [.regs] s t := by
  intro t
  obtain ⟨a, ha⟩ : ∃ a, a = s.setRx n rxConverge := ⟨_, rfl⟩
  obtain ⟨b, hb⟩ : ∃ b, b = a.setFld (fLn_RX_STAT_TRAINED_CATCH n) (if c then 1 else 0) := ⟨_, rfl⟩
  have ht : t = if d then b.setFld (fLn_FEC_STAT_SF_LOCK n) 1 else b := by rw [hb, ha]; rfl
  have hbt : moved (fun r => r = rLn_FEC_STAT n) [.regs] b t := by
    rw [ht]
    exact .ite (setFld_moved (P := fun r => r = rLn_FEC_STAT n) (l := [.regs]) (fLn_FEC_STAT_SF_LOCK n) rfl (by decide) b 1) (.refl _ _ b)
  refine ⟨(hbt.1.fld (by simp)).trans ?_, (hbt.1.fld (by simp)).trans ?_, fun h => ?_, ?_⟩
  · rw [hb]
    exact (State.fld_setFld_other _ _ _ _ _ _ _ (by decide) (by decide) (by decide) (by decide) (by decide)).trans
      (by rw [ha]; exact rx_setRx s n (by decide))
  · rw [hb]; exact State.fld_setFld_self_of_lt _ _ (by decide) (by split <;> decide)
  · rw [ht, if_pos h]; exact State.fld_setFld_self_of_lt _ _ (by decide) (by decide)
  · refine .trans ?_ (hbt.mono (fun _ => .inr) fun _ => id)
    rw [hb, ha]
    exact (setRx_moved n rxConverge s).trans (setFld_moved (fLn_RX_STAT_TRAINED_CATCH n) (.inl rfl) (by decide) _ _)

theorem trainSolveDone_claim {lane : Nat} {tr : TrainRx} {s : State} (hs : s.rx lane = rxTrain)
    (hsolv : (s.lane lane).solvable tr.pos tr.rx = true) : ∃ t, exec (.trainSolveDone lane tr) s = .next t ∧
      t.rx lane = rxConverge ∧ t.fld (fLn_RX_STAT_TRAINED_CATCH lane) = (if (s.lane lane).fromCatch then 1 else 0) ∧
      (s.on (fLn_RX_AFE_VGA_AUTO lane) = false → (t.lane lane).taps = tapsOf (s.solved lane tr.pos tr.rx)) ∧
      (s.on (fLn_RX_AFE_VGA_AUTO lane) = true → t.fld (fLn_RX_AFE_VGA lane) = s.vgaFor lane tr.rms ∧
        (t.lane lane).taps = scaleTaps (s.fld (fLn_RX_AFE_VGA lane)) (s.vgaFor lane tr.rms) (tapsOf (s.solved lane tr.pos tr.rx))) ∧
      (∀ b, -16384 ≤ (Tab.get (0, 0) (t.lane lane).taps b).1 ∧ (Tab.get (0, 0) (t.lane lane).taps b).1 ≤ 16383 ∧
        -16384 ≤ (Tab.get (0, 0) (t.lane lane).taps b).2 ∧ (Tab.get (0, 0) (t.lane lane).taps b).2 ≤ 16383) ∧
      (t.lane lane).k = 6 ∧ (t.lane lane).chosen = none ∧ (t.lane lane).gain = 1 ∧ (t.lane lane).sf = tr.next % 17424 ∧
      (s.mode lane = m400 → s.on (fLn_PRBS_STAT_CHK lane) = false → t.fld (fLn_FEC_STAT_SF_LOCK lane) = 1) ∧
      (∀ n, n ≠ lane → t.lane n = s.lane n) ∧ onlyRegs (lnReg lane) s t ∧ onlyParts [.lanes, .act, .regs] s t := by
  have hexec := exec_trainSolveDone hs hsolv
  obtain ⟨-, hother, hfixed, hvga, hrange, hsa⟩ := trainedTaps_effect lane tr s
  obtain ⟨a, ha⟩ : ∃ a, a = trainedTaps lane tr s := ⟨_, rfl⟩
  obtain ⟨cs, hcs⟩ : ∃ cs, cs = a.candidates lane := ⟨_, rfl⟩
  obtain ⟨l, hl⟩ : ∃ l, l = (a.lane lane).converging tr.next cs (if (s.lane lane).fromCatch then (s.lane lane).curId else none) := ⟨_, rfl⟩
  obtain ⟨b, hb⟩ : ∃ b, b = a.setLane lane l := ⟨_, rfl⟩
  obtain ⟨hrx, htrained, hsf, hbc⟩ := converge_effect lane ((s.lane lane).fromCatch = true) ((s.det lane).code = 1) b
  obtain ⟨c, hc⟩ : ∃ c, c = converge lane ((s.lane lane).fromCatch = true) ((s.det lane).code = 1) b := ⟨_, rfl⟩
  rw [← ha] at hother hfixed hvga hrange hsa hexec
  rw [← hcs, ← hl, ← hb, ← hc] at hexec
  rw [← hc] at hrx htrained hsf hbc
  obtain ⟨hlt, hothert, hstat, hct⟩ := useFirst_effect lane cs c
  have hcl (n : Nat) : c.lane n = b.lane n := hbc.lane (by decide) n
  have hbl : b.lane lane = l := by rw [hb]; exact State.lane_setLane_self a lane l
  have hln : (useFirst lane cs c).lane lane =
      { l with surv := ((useFirst lane cs c).lane lane).surv, undecided := ((useFirst lane cs c).lane lane).undecided } := by
    rw [← hbl, ← hcl]; exact hlt
  have htaps : ((useFirst lane cs c).lane lane).taps = (a.lane lane).taps := (congrArg Lane.taps hln).trans (by rw [hl]; rfl)
  refine ⟨_, hexec, (hstat 3 0 (by decide) (by decide)).trans hrx, (hstat 10 10 (by decide) (by decide)).trans htrained,
    fun h => htaps.trans (hfixed h), fun h => ⟨?_, htaps.trans (hvga h).2⟩, ?_, (congrArg Lane.k hln).trans (by rw [hl]; rfl),
    (congrArg Lane.chosen hln).trans (by rw [hl]; rfl), (congrArg Lane.gain hln).trans (by rw [hl]; rfl),
    (congrArg Lane.sf hln).trans (by rw [hl]; rfl), fun hmode hchk => ?_, fun n hn => ?_, ?_, ?_⟩
  · refine (hct.1.fld (by simp)).trans ((hbc.1.fld (by simp)).trans (.trans ?_ (hvga h).1))
    rw [hb]; rfl
  · rw [htaps]
    exact Tab.get_of_all (P := tapInRange) (by decide) hrange
  · refine (hct.1.fld (by simp)).trans (hsf ?_)
    exact (if_neg (by rw [hchk]; exact Bool.false_ne_true)).trans (if_pos hmode)
  · refine (hothert n hn).trans ((hcl n).trans (.trans ?_ (hother n hn)))
    rw [hb]; exact State.lane_setLane_ne a l hn
  · refine (((hsa.1.mono ?_).trans ?_).trans (hbc.1.mono ?_)).trans (hct.1.mono ?_)
    · rintro r rfl; exact ⟨rfl, rfl⟩
    · rw [hb]; exact (setLane_moved lane l a).1
    · rintro r (rfl | rfl) <;> exact ⟨rfl, rfl⟩
    · rintro r (rfl | rfl | rfl) <;> exact ⟨rfl, rfl⟩
  · refine ((hsa.2.trans ?_).trans (hbc.2.mono (by decide))).trans (hct.2.mono (by decide))
    rw [hb]; exact (setLane_onlyParts a lane l).mono (by decide)

theorem trainSolveDone_other {lane : Nat} {tr : TrainRx} {s : State} (h : s.rx lane ≠ rxTrain ∨ (s.lane lane).solvable tr.pos tr.rx = false) :
    exec (.trainSolveDone lane tr) s = .next s := congrArg _ (if_pos h)

/-! ## Without a catch sequence -/

/-- A receiver that waits for the catch sequence it trains from (R88). -/
abbrev awaitsCatch (lane : Nat) (s : State) : Prop :=
  s.rx lane = rxTrain ∧ (s.lane lane).fromCatch = true ∧ (s.lane lane).curId = none

theorem not_passes_of_awaitsCatch {lane : Nat} {s : State} (h : awaitsCatch lane s) :
    ¬ (s.rx lane ≠ rxTrain ∨ (s.lane lane).fromCatch = false ∨ (s.lane lane).curId ≠ none) := by
  obtain ⟨hrx, hfrom, hid⟩ := h
  rw [hrx, hfrom, hid]
  decide

theorem catchWaitExpiry_fallback {lane : Nat} {s : State} (h : awaitsCatch lane s) (hsrc : s.inForce (fLn_RX_CTL_TRAIN_SRC lane) ≠ 1) :
    ∃ t, exec (.catchWaitExpiry lane) s = .next t ∧ t.rx lane = rxTrain ∧
      t.lane lane = { s.lane lane with fromCatch := false } ∧ t.fld (fLn_RX_EVENT_TRAIN_FALLBACK lane) = 1 ∧
      (∀ n, n ≠ lane → t.lane n = s.lane n) ∧ onlyRegs (fun r => r = rLn_RX_EVENT lane ∨ noteReg r) s t ∧
      onlyParts [.lanes, .rings, .regs, .out] s t := by
  obtain ⟨a, ha⟩ : ∃ a, a = s.setLane lane { s.lane lane with fromCatch := false } := ⟨_, rfl⟩
  have hexec : exec (.catchWaitExpiry lane) s = .next (raise_ (fLn_RX_EVENT_TRAIN_FALLBACK lane) a) := by
    rw [ha]
    exact congrArg _ ((if_neg (not_passes_of_awaitsCatch h)).trans (if_neg hsrc))
  have hsa : moved (fun r => r = rLn_RX_EVENT lane ∨ noteReg r) [.lanes, .regs] s a := by rw [ha]; exact setLane_moved lane _ s
  have hr := raise_moved (P := fun r => r = rLn_RX_EVENT lane ∨ noteReg r) (fLn_RX_EVENT_TRAIN_FALLBACK lane) (.inl rfl) (fun _ => .inr)
    (fun _ => id) a
  refine ⟨_, hexec, (hr.1.fld (by simp [noteReg])).trans ?_, (hr.lane (by decide) lane).trans ?_,
    raise_fld_self _ _ (by decide) ⟨Blk.noConfusion, Blk.noConfusion⟩, fun n hn => (hr.lane (by decide) n).trans ?_, hsa.1.trans hr.1,
    (hsa.2.mono (by decide)).trans (hr.2.mono (by decide))⟩
  · rw [ha]; exact h.1
  · rw [ha]; exact State.lane_setLane_self s lane _
  · rw [ha]; exact State.lane_setLane_ne s _ hn

theorem catchWaitExpiry_retry {lane : Nat} {s : State} (h : awaitsCatch lane s) (hsrc : s.inForce (fLn_RX_CTL_TRAIN_SRC lane) = 1) :
    ∃ t, exec (.catchWaitExpiry lane) s = .next t ∧
      t.rx lane = (if s.fld (fLn_ADAPT_RETRY_MAX lane) ≤ min 15 (s.fld (fLn_RX_STAT_RETRY lane) + 1) then rxFailed else rxTrain) ∧
      t.fld (fLn_RX_STAT_RETRY lane) = min 15 (s.fld (fLn_RX_STAT_RETRY lane) + 1) ∧ (∀ n, t.lane n = s.lane n) ∧
      onlyRegs (fun r => lnReg lane r ∨ noteReg r) s t ∧ onlyParts [.rings, .regs, .out] s t := by
  have hexec : exec (.catchWaitExpiry lane) s = .next (retry lane id s) :=
    congrArg _ ((if_neg (not_passes_of_awaitsCatch h)).trans (if_pos hsrc))
  by_cases hlast : lastRetry lane s
  · obtain ⟨hrx, hretry, hm⟩ := retry_last_effect (next := id) hlast (by rw [h.1]; decide)
    refine ⟨_, hexec, hrx.trans (if_pos hlast).symm, hretry, fun n => hm.lane (by decide) n, hm.1.mono ?_, hm.2⟩
    rintro r (rfl | rfl | rfl | h)
    · exact .inl ⟨rfl, rfl⟩
    · exact .inl ⟨rfl, rfl⟩
    · exact .inl ⟨rfl, rfl⟩
    · exact .inr h
  · have hm : moved (fun r => r = rLn_RX_STAT lane) [.regs] s (s.addSat (fLn_RX_STAT_RETRY lane)) :=
      setFld_moved (P := fun r => r = rLn_RX_STAT lane) (fLn_RX_STAT_RETRY lane) rfl (by decide) s _
    refine ⟨_, hexec.trans (congrArg _ (retry_next hlast)), (rx_addSat_retry lane s).trans (h.1.trans (if_neg hlast).symm), retry_addSat lane s,
      fun n => hm.lane (by decide) n, hm.1.mono ?_, hm.2.mono (by decide)⟩
    rintro r rfl
    exact .inl ⟨rfl, rfl⟩

/-! ## Catch sequences -/

theorem catchSequence_false {lane header : Nat} {s : State} (hm : s.mode lane = m400) (hh : headerOk header = false) :
    exec (.catchSequenceDetect lane header) s = .next (s.addSat (fLn_WAKE_CNT_FALSE lane)) :=
  congrArg _ ((if_neg (not_not.2 hm)).trans (if_pos (by rw [hh]; rfl)))

theorem catchSequence_good {lane header : Nat} {s : State} (hm : s.mode lane = m400) (hh : headerOk header = true) :
    exec (.catchSequenceDetect lane header) s = .next (
      if s.rx lane = rxTrain ∧ (s.lane lane).fromCatch = true then
        s.setLane lane { s.lane lane with curId := some (header / 256 % 256), curRep := header / 16 % 16 }
      else if s.rx lane = rxLocked ∧ s.inForce (fLn_RX_CTL_TRAIN_SRC lane) ≠ 2 ∧ (s.lane lane).lastId ≠ some (header / 256 % 256) then
        raise_ (fLn_RX_EVENT_RETRAIN lane) (((leaveLocked lane s).setRx lane rxTrain).modLane lane
          ({ · with fromCatch := true, curId := some (header / 256 % 256), curRep := header / 16 % 16 }))
      else if s.rx lane = rxLocked ∨ s.rx lane = rxConverge then passSequence lane s
      else s) :=
  congrArg _ ((if_neg (not_not.2 hm)).trans (if_neg (by rw [hh]; exact Bool.false_ne_true)))

theorem catchSequence_retrain {lane header : Nat} {s : State} (hm : s.mode lane = m400) (hh : headerOk header = true)
    (hs : s.rx lane = rxLocked) (hsrc : s.inForce (fLn_RX_CTL_TRAIN_SRC lane) ≠ 2) (hid : (s.lane lane).lastId ≠ some (header / 256 % 256)) :
    ∃ t, exec (.catchSequenceDetect lane header) s = .next t ∧
      t.rx lane = rxTrain ∧ t.fld (fLn_RX_STAT_LOCK lane) = 0 ∧ t.fld (fLn_RX_EVENT_RETRAIN lane) = 1 ∧
      (t.lane lane).fromCatch = true ∧ (t.lane lane).curId = some (header / 256 % 256) ∧
      (t.lane lane).curRep = header / 16 % 16 ∧ (∀ n, n ≠ lane → t.lane n = s.lane n) ∧
      onlyRegs (rxReg lane) s t ∧ onlyParts [.lanes, .rings, .regs, .out] s t := by
  obtain ⟨a, ha⟩ : ∃ a, a = leaveLocked lane s := ⟨_, rfl⟩
  obtain ⟨b, hb⟩ : ∃ b, b = a.setRx lane rxTrain := ⟨_, rfl⟩
  obtain ⟨f, hf⟩ : ∃ f : Lane → Lane, f = ({ · with fromCatch := true, curId := some (header / 256 % 256), curRep := header / 16 % 16 }) := ⟨_, rfl⟩
  obtain ⟨c, hc⟩ : ∃ c, c = b.modLane lane f := ⟨_, rfl⟩
  have hexec : exec (.catchSequenceDetect lane header) s = .next (raise_ (fLn_RX_EVENT_RETRAIN lane) c) := by
    rw [catchSequence_good hm hh, hc, hf, hb, ha, if_neg (by rw [hs]; exact fun h => absurd h.1 (by decide)), if_pos ⟨hs, hsrc, hid⟩]
  obtain ⟨hother, hleave⟩ := leaveLocked_effect lane s
  rw [← ha] at hother hleave
  have hab := setRx_moved lane rxTrain a
  rw [← hb] at hab
  have hbc := modLane_moved (P := fun _ => False) lane f b
  rw [← hc] at hbc
  have hr := raise_moved (P := fun r => r = rLn_RX_EVENT lane ∨ noteReg r) (fLn_RX_EVENT_RETRAIN lane) (.inl rfl) (fun _ => .inr) (fun _ => id) c
  have hln : (raise_ (fLn_RX_EVENT_RETRAIN lane) c).lane lane = f (b.lane lane) :=
    (hr.lane (by decide) lane).trans (by rw [hc]; exact State.lane_modLane_self b lane f)
  refine ⟨_, hexec, ?_, ?_, raise_fld_self _ _ (by decide) ⟨Blk.noConfusion, Blk.noConfusion⟩, ?_, ?_, ?_, fun n hn => ?_, ?_, ?_⟩
  · exact (hr.1.fld (by simp [noteReg])).trans ((hbc.1.fld id).trans (by rw [hb]; exact rx_setRx a lane (by decide)))
  · exact (hr.1.fld (by simp [noteReg])).trans ((hbc.1.fld id).trans (by rw [hb]; exact lock_setRx a lane rxTrain))
  · rw [hln, hf]
  · rw [hln, hf]
  · rw [hln, hf]
  · refine (hr.lane (by decide) n).trans (.trans ?_ ((hab.lane (by decide) n).trans (hother n hn)))
    rw [hc]; exact lane_modLane hn
  · refine (((hleave.1.mono fun _ => rxReg_of_calReg).trans (hab.1.mono ?_)).trans (hbc.1.mono fun _ => False.elim)).trans (hr.1.mono ?_)
    · rintro r (rfl | rfl) <;> exact .inl ⟨rfl, rfl⟩
    · rintro r (rfl | h)
      · exact .inl ⟨rfl, rfl⟩
      · exact .inr (.inr h)
  · exact ((hleave.2.trans (hab.2.mono (by decide))).trans (hbc.2.mono (by decide))).trans (hr.2.mono (by decide))

theorem catchSequence_pass {lane header : Nat} {s : State} (hm : s.mode lane = m400) (hh : headerOk header = true)
    (h : s.rx lane = rxConverge ∨ s.rx lane = rxLocked ∧
      (s.inForce (fLn_RX_CTL_TRAIN_SRC lane) = 2 ∨ (s.lane lane).lastId = some (header / 256 % 256))) :
    exec (.catchSequenceDetect lane header) s = .next (passSequence lane s) := by
  have htrain : s.rx lane ≠ rxTrain := by
    rintro ht
    obtain h | h := h
    · exact absurd (ht.symm.trans h) (by decide)
    · exact absurd (ht.symm.trans h.1) (by decide)
  have hretrain : ¬ (s.rx lane = rxLocked ∧ s.inForce (fLn_RX_CTL_TRAIN_SRC lane) ≠ 2 ∧ (s.lane lane).lastId ≠ some (header / 256 % 256)) := by
    rintro ⟨hl, hsrc, hid⟩
    obtain h | ⟨-, h | h⟩ := h
    · exact absurd (hl.symm.trans h) (by decide)
    · exact hsrc h
    · exact hid h
  rw [catchSequence_good hm hh, if_neg fun h => htrain h.1, if_neg hretrain, if_pos (h.elim .inr fun h => .inl h.1)]

/-- Settles O29: each row of the receiver's state table is one change of state of the lane, framed by the lane's registers. -/
theorem receiversFollowTheirTable : Obligations.ReceiversFollowTheirTable := by
  unfold Obligations.ReceiversFollowTheirTable
  exact ⟨fun _ _ => ⟨signalDetect_claim, signalDetect_idle, signalDetect_off, signalDetect_other⟩,
    fun _ _ => ⟨lossOfSignal_claim, lossOfSignal_idle, lossOfSignal_failed, lossOfSignal_none⟩,
    fun _ _ _ _ _ => ⟨acquireDone_other, acquireDone_claim⟩,
    fun _ _ => ⟨acquireTimeout_claim, fun h => congrArg _ (if_neg h)⟩,
    fun _ _ _ => ⟨trainSolveDone_other, trainSolveDone_claim⟩,
    fun _ _ hrx hfrom hid => ⟨catchWaitExpiry_fallback ⟨hrx, hfrom, hid⟩, catchWaitExpiry_retry ⟨hrx, hfrom, hid⟩⟩,
    fun _ _ h => congrArg _ (if_pos h),
    fun _ _ _ hm => ⟨catchSequence_false hm, fun hh hrx hfrom => (catchSequence_good hm hh).trans (congrArg _ (if_pos ⟨hrx, hfrom⟩)),
      catchSequence_retrain hm, catchSequence_pass hm⟩,
    fun _ _ _ h => congrArg _ (if_pos h),
    fun _ _ => ⟨timingLockLoss_claim, fun h => congrArg _ (if_neg h)⟩⟩

end Sys2Proof.Machine

end

section
/-! PROOFS. Blocks, decision feedback taps and targets of a lane receiver adapt (R71, R75-R79). -/

-- The checked text is one long file: elaborating these in order bounds its threads and memory.
set_option Elab.async false

namespace Sys2Proof.Machine

/-! ## What detection leaves -/

/-- The equaliser's state of a lane: what the detection of symbols leaves. -/
structure EqualiserKept (l l' : Lane) : Prop where
  taps : l'.taps = l.taps
  k : l'.k = l.k
  kBlocks : l'.kBlocks = l.kBlocks
  samples : l'.samples = l.samples

theorem EqualiserKept.refl (l : Lane) : EqualiserKept l l := ⟨rfl, rfl, rfl, rfl⟩

theorem EqualiserKept.trans {l l' l'' : Lane} (h : EqualiserKept l l') (h' : EqualiserKept l' l'') : EqualiserKept l l'' :=
  ⟨h'.taps.trans h.taps, h'.k.trans h.k, h'.kBlocks.trans h.kBlocks, h'.samples.trans h.samples⟩

theorem give_kept (p : Pass) (g : Given) : EqualiserKept p.lane (Pass.give p g).lane := by
  unfold Pass.give
  dsimp only
  split <;> exact ⟨rfl, rfl, rfl, rfl⟩

theorem release_kept (p : Pass) : EqualiserKept p.lane p.release.lane :=
  List.foldl_keeps (fun q : Pass => EqualiserKept p.lane q.lane) (fun q g _ h => h.trans (give_kept q g)) ⟨rfl, rfl, rfl, rfl⟩

theorem deliver_kept (d : Det) (ago : Nat) (a : Pam4) (rel : List (Option Rat × Option Rat)) (p : Pass) :
    EqualiserKept p.lane (deliver d ago a rel p).lane := by
  have hgive (q : Pass) (g : Given) (h : EqualiserKept p.lane q.lane) : EqualiserKept p.lane (Pass.give q g).lane := h.trans (give_kept q g)
  unfold deliver
  dsimp only
  split
  · exact ⟨rfl, rfl, rfl, rfl⟩
  · exact hgive _ _ ⟨rfl, rfl, rfl, rfl⟩

theorem openFork_kept (d : Det) (p : Pass) : EqualiserKept p.lane (openFork d p).lane := by
  unfold openFork
  dsimp only
  split
  · exact (release_kept p).trans ⟨rfl, rfl, rfl, rfl⟩
  · exact .refl _

theorem closeFork_kept (p : Pass) : EqualiserKept p.lane (closeFork p).lane := by
  unfold closeFork
  split
  · split
    · exact release_kept p
    · exact .refl _
  · exact .refl _

theorem skipSymbol_kept (l : Lane) : EqualiserKept l (skipSymbol l) := by
  unfold skipSymbol
  split <;> exact ⟨rfl, rfl, rfl, rfl⟩

theorem trellisStep_kept (d : Det) (u : Rat) (t : Pam4) (p : Pass) : EqualiserKept p.lane (trellisStep d u t p).lane := by
  have hdeliver (q : Pass) (a : Pam4) (rel : List (Option Rat × Option Rat)) (h : EqualiserKept p.lane q.lane) :
      EqualiserKept p.lane (deliver d 65 a rel q).lane := h.trans (deliver_kept d 65 a rel q)
  unfold trellisStep
  dsimp only
  split
  · exact ⟨rfl, rfl, rfl, rfl⟩
  · split
    · exact ⟨rfl, rfl, rfl, rfl⟩
    · exact hdeliver _ _ _ ⟨rfl, rfl, rfl, rfl⟩

theorem detect_kept (d : Det) (p : Pass) (x : Rat) : EqualiserKept p.lane (detect d p x).lane := by
  have hopen := openFork_kept d p
  have hstep (q : Pass) (u : Rat) (t : Pam4) (h : EqualiserKept p.lane q.lane) : EqualiserKept p.lane (closeFork (trellisStep d u t q)).lane :=
    (h.trans (trellisStep_kept d u t q)).trans (closeFork_kept _)
  have hskip (l : Lane) (h : EqualiserKept p.lane l) : EqualiserKept p.lane (skipSymbol l) := h.trans (skipSymbol_kept l)
  unfold detect
  dsimp only
  split
  · exact hstep _ _ _ (hopen.trans ⟨rfl, rfl, rfl, rfl⟩)
  · exact hskip _ (hopen.trans ⟨rfl, rfl, rfl, rfl⟩)

/-- A block passes with the taps of the lane, whose sample memory it becomes. -/
theorem blockPass_kept {lane : Nat} {rx : List Int} {s : State} {p : Pass} {y : List Cx} (h : blockPass lane rx s = (p, y)) :
    p.lane.taps = (s.lane lane).taps ∧ p.lane.k = (s.lane lane).k ∧ p.lane.kBlocks = (s.lane lane).kBlocks ∧ p.lane.samples = rx := by
  have hall (l : Lane) (zs : List Rat) : EqualiserKept l (zs.foldl (detect (s.det lane)) ⟨l, [], 0⟩).lane :=
    List.foldl_keeps (fun q : Pass => EqualiserKept l q.lane) (fun q x _ hq => hq.trans (detect_kept _ q x)) (.refl l)
  unfold blockPass at h
  dsimp only at h
  obtain ⟨rfl, -⟩ := Prod.mk.inj h
  obtain ⟨htaps, hk, hkb, hsamples⟩ := hall { s.lane lane with
    samples := rx, powers := ((spectrum (sampleLevels (s.inForce (fLn_RX_CTL_POL_INV lane) == 1)
      (List.replicate (128 - (s.lane lane).samples.length) 0 ++ (s.lane lane).samples ++ rx))).map Cx.norm2 :: (s.lane lane).powers).take 64
    decided := [], dfeSyms := (s.lane lane).dfeSyms + 128, tgtSyms := (s.lane lane).tgtSyms + 128 }
    ((equalise (tapValues (s.lane lane).taps) (spectrum (sampleLevels (s.inForce (fLn_RX_CTL_POL_INV lane) == 1)
      (List.replicate (128 - (s.lane lane).samples.length) 0 ++ (s.lane lane).samples ++ rx)))).map ((s.lane lane).gain * ·))
  exact ⟨htaps, hk, hkb, hsamples⟩

/-! ## A block -/

theorem countChecked_moved (n : Nat) (old new : Checker) (s : State) :
    moved (fun r => r = rLn_PRBS_ERR_LO n ∨ r = rLn_PRBS_ERR_HI n ∨ r = rLn_PRBS_BITS_LO n ∨ r = rLn_PRBS_BITS_HI n) [.regs] s
      (countChecked n old new s) := by
  unfold countChecked
  split
  · exact .refl _ _ s
  · refine ((add48_moved _ _ _ s).mono (fun _ h => .inr (.inr h)) fun _ => id).trans ((add48_moved _ _ _ _).mono (fun r h => ?_) fun _ => id)
    exact h.elim .inl fun h => .inr (.inl h)

/-- The counts of a block and the frequency of its timing loop. -/
def blockCounts (lane : Nat) (p : Pass) (freq : Int) (s : State) : State :=
  let a := countChecked lane (s.lane lane).chk p.lane.chk s
  if freq.natAbs ≤ 25000 then a.setSFld (fLn_RX_TIMING_FREQ_OFS lane) freq else a

theorem blockCounts_effect (lane : Nat) (p : Pass) (freq : Int) (s : State) : let t := blockCounts lane p freq s
    (freq.natAbs ≤ 25000 → t.sfld (fLn_RX_TIMING_FREQ_OFS lane) = freq) ∧
      (25000 < freq.natAbs → t.sfld (fLn_RX_TIMING_FREQ_OFS lane) = s.sfld (fLn_RX_TIMING_FREQ_OFS lane)) ∧ moved (lnReg lane) [.regs] s t := by
  intro t
  obtain ⟨a, ha⟩ : ∃ a, a = countChecked lane (s.lane lane).chk p.lane.chk s := ⟨_, rfl⟩
  have ht : t = if freq.natAbs ≤ 25000 then a.setSFld (fLn_RX_TIMING_FREQ_OFS lane) freq else a := by rw [ha]; rfl
  have hsa := countChecked_moved lane (s.lane lane).chk p.lane.chk s
  rw [← ha] at hsa
  have hall : moved (lnReg lane) [.regs] s a := by
    refine hsa.mono ?_ fun _ => id
    rintro r (rfl | rfl | rfl | rfl) <;> exact ⟨rfl, rfl⟩
  rw [ht]
  refine ⟨fun h => ?_, fun h => ?_, hall.trans (.ite (setFld_moved (fLn_RX_TIMING_FREQ_OFS lane) ⟨rfl, rfl⟩ (by decide) a _) (.refl _ _ a))⟩
  · rw [if_pos h]; exact State.sfld_setSFld_self _ _ (by decide) (by omega) (by omega)
  · rw [if_neg (by omega)]; exact hsa.1.sfld (by simp)

/-- A lane after a block, with its taps, its step exponent and the blocks at it. -/
def Lane.afterBlock (l : Lane) (lp : Loops) (taps : Tab Nat (Int × Int)) (k kBlocks : Nat) : Lane :=
  { l with dc := lp.dc, phase := lp.phase, taps := taps, k := k, kBlocks := kBlocks }

theorem exec_fdeBlockUpdate {lane : Nat} {rx : List Int} {lp : Loops} {p : Pass} {y : List Cx} {s : State} (hlen : rx.length = 128)
    (hp : blockPass lane rx s = (p, y)) (hs : s.rx lane = rxConverge ∨ s.rx lane = rxLocked) :
    exec (.fdeBlockUpdate lane rx lp) s = .next (
      if s.rx lane = rxConverge then
        if p.lane.k < s.fld (fLn_FDE_CTL_K_TRACK lane) ∧ 2 ^ p.lane.k ≤ p.lane.kBlocks + 1 then
          (blockCounts lane p lp.freq s).setLane lane (p.lane.afterBlock lp (blockTaps p.lane.k p y) (p.lane.k + 1) 0)
        else (blockCounts lane p lp.freq s).setLane lane (p.lane.afterBlock lp (blockTaps p.lane.k p y) p.lane.k (p.lane.kBlocks + 1))
      else if s.on (fLn_FDE_CTL_FREEZE lane) then
        (addInner lane p.inner (blockCounts lane p lp.freq s)).setLane lane (p.lane.afterBlock lp p.lane.taps p.lane.k p.lane.kBlocks)
      else (addInner lane p.inner (blockCounts lane p lp.freq s)).setLane lane
        (p.lane.afterBlock lp (blockTaps (s.fld (fLn_FDE_CTL_K_TRACK lane)) p y) (s.fld (fLn_FDE_CTL_K_TRACK lane)) p.lane.kBlocks)) := by
  show execFdeBlockUpdate lane rx lp s = _
  unfold execFdeBlockUpdate
  dsimp only
  rw [if_neg (not_or.2 ⟨fun h => hs.elim h.1 h.2, not_not.2 hlen⟩), hp]
  rfl

theorem fdeBlockUpdate_claim {lane : Nat} {rx : List Int} {lp : Loops} {p : Pass} {y : List Cx} {s : State} (hlen : rx.length = 128)
    (hp : blockPass lane rx s = (p, y)) (hs : s.rx lane = rxConverge ∨ s.rx lane = rxLocked) :
    ∃ t, exec (.fdeBlockUpdate lane rx lp) s = .next t ∧ (t.lane lane).dc = lp.dc ∧ (t.lane lane).phase = lp.phase ∧
      (t.lane lane).samples = rx ∧
      (lp.freq.natAbs ≤ 25000 → t.sfld (fLn_RX_TIMING_FREQ_OFS lane) = lp.freq) ∧
      (25000 < lp.freq.natAbs → t.sfld (fLn_RX_TIMING_FREQ_OFS lane) = s.sfld (fLn_RX_TIMING_FREQ_OFS lane)) ∧
      (s.rx lane = rxConverge → (t.lane lane).taps = blockTaps (s.lane lane).k p y) ∧
      (s.rx lane = rxConverge → (s.lane lane).k < s.fld (fLn_FDE_CTL_K_TRACK lane) → 2 ^ (s.lane lane).k ≤ (s.lane lane).kBlocks + 1 →
        (t.lane lane).k = (s.lane lane).k + 1 ∧ (t.lane lane).kBlocks = 0) ∧
      (s.rx lane = rxLocked → s.on (fLn_FDE_CTL_FREEZE lane) = false →
        (t.lane lane).taps = blockTaps (s.fld (fLn_FDE_CTL_K_TRACK lane)) p y) ∧
      (s.rx lane = rxLocked → s.on (fLn_FDE_CTL_FREEZE lane) = true → (t.lane lane).taps = (s.lane lane).taps) ∧
      (∀ n, n ≠ lane → t.lane n = s.lane n) ∧ onlyRegs (lnReg lane) s t ∧ onlyParts [.lanes, .regs] s t := by
  have hexec := exec_fdeBlockUpdate (lp := lp) hlen hp hs
  obtain ⟨htaps, hk, hkb, hsamples⟩ := blockPass_kept hp
  obtain ⟨hin, hout, hsa⟩ := blockCounts_effect lane p lp.freq s
  obtain ⟨a, ha⟩ : ∃ a, a = blockCounts lane p lp.freq s := ⟨_, rfl⟩
  rw [← ha] at hexec hin hout hsa
  have hab : moved (fun r => r = rLn_FEC_PAIR_LO lane 4 ∨ r = rLn_FEC_PAIR_HI lane 4) [.regs] a (addInner lane p.inner a) := add48_moved _ _ _ a
  have hpair {r : RegId} (h : r = rLn_FEC_PAIR_LO lane 4 ∨ r = rLn_FEC_PAIR_HI lane 4) : lnReg lane r := by
    obtain rfl | rfl := h <;> exact ⟨rfl, rfl⟩
  have hframe (b : State) (l : Lane) (hb : moved (lnReg lane) [.regs] s b) :
      (b.setLane lane l).lane lane = l ∧ (∀ n, n ≠ lane → (b.setLane lane l).lane n = s.lane n) ∧ onlyRegs (lnReg lane) s (b.setLane lane l) ∧
        onlyParts [.lanes, .regs] s (b.setLane lane l) :=
    ⟨State.lane_setLane_self b lane l, fun n hn => (State.lane_setLane_ne b l hn).trans (hb.lane (by decide) n),
      hb.1.trans (setLane_moved lane l b).1, (hb.2.mono (by decide)).trans (setLane_moved (P := lnReg lane) lane l b).2⟩
  obtain hrx | hrx := hs
  · rw [if_pos hrx] at hexec
    have hunlocked {q : Prop} (h : s.rx lane = rxLocked) : q := absurd (hrx.symm.trans h) (by decide)
    by_cases hc : p.lane.k < s.fld (fLn_FDE_CTL_K_TRACK lane) ∧ 2 ^ p.lane.k ≤ p.lane.kBlocks + 1
    · rw [if_pos hc] at hexec
      obtain ⟨hl, hother, hr, hparts⟩ := hframe a (p.lane.afterBlock lp (blockTaps p.lane.k p y) (p.lane.k + 1) 0) hsa
      refine ⟨_, hexec, by rw [hl]; rfl, by rw [hl]; rfl, by rw [hl]; exact hsamples, hin, hout, fun _ => ?_, fun _ _ _ => ?_,
        fun h => hunlocked h, fun h => hunlocked h, hother, hr, hparts⟩
      · rw [hl, ← hk]; rfl
      · rw [hl, ← hk]; exact ⟨rfl, rfl⟩
    · rw [if_neg hc] at hexec
      obtain ⟨hl, hother, hr, hparts⟩ := hframe a (p.lane.afterBlock lp (blockTaps p.lane.k p y) p.lane.k (p.lane.kBlocks + 1)) hsa
      refine ⟨_, hexec, by rw [hl]; rfl, by rw [hl]; rfl, by rw [hl]; exact hsamples, hin, hout, fun _ => ?_, fun _ h1 h2 => ?_,
        fun h => hunlocked h, fun h => hunlocked h, hother, hr, hparts⟩
      · rw [hl, ← hk]; rfl
      · rw [hk, hkb] at hc
        exact absurd ⟨h1, h2⟩ hc
  · have hconv : s.rx lane ≠ rxConverge := by rw [hrx]; decide
    rw [if_neg hconv] at hexec
    have hsb : moved (lnReg lane) [.regs] s (addInner lane p.inner a) := hsa.trans (hab.mono (fun _ => hpair) fun _ => id)
    have hfreq : (addInner lane p.inner a).sfld (fLn_RX_TIMING_FREQ_OFS lane) = a.sfld (fLn_RX_TIMING_FREQ_OFS lane) := hab.1.sfld (by simp)
    cases hfz : s.on (fLn_FDE_CTL_FREEZE lane)
    · rw [if_neg (by rw [hfz]; exact Bool.false_ne_true)] at hexec
      obtain ⟨hl, hother, hr, hparts⟩ := hframe (addInner lane p.inner a)
        (p.lane.afterBlock lp (blockTaps (s.fld (fLn_FDE_CTL_K_TRACK lane)) p y) (s.fld (fLn_FDE_CTL_K_TRACK lane)) p.lane.kBlocks) hsb
      refine ⟨_, hexec, by rw [hl]; rfl, by rw [hl]; rfl, by rw [hl]; exact hsamples, fun h => hfreq.trans (hin h), fun h => hfreq.trans (hout h),
        fun h => absurd h hconv, fun h => absurd h hconv, fun _ _ => ?_, fun _ h => absurd h Bool.false_ne_true, hother, hr, hparts⟩
      rw [hl]; rfl
    · rw [if_pos hfz] at hexec
      obtain ⟨hl, hother, hr, hparts⟩ := hframe (addInner lane p.inner a) (p.lane.afterBlock lp p.lane.taps p.lane.k p.lane.kBlocks) hsb
      refine ⟨_, hexec, by rw [hl]; rfl, by rw [hl]; rfl, by rw [hl]; exact hsamples, fun h => hfreq.trans (hin h), fun h => hfreq.trans (hout h),
        fun h => absurd h hconv, fun h => absurd h hconv, fun _ h => absurd h.symm Bool.false_ne_true, fun _ _ => ?_, hother, hr, hparts⟩
      rw [hl]; exact htaps

theorem fdeBlockUpdate_other {lane : Nat} {rx : List Int} {lp : Loops} {s : State} (hc : s.rx lane ≠ rxConverge) (hl : s.rx lane ≠ rxLocked) :
    exec (.fdeBlockUpdate lane rx lp) s = .next s := congrArg _ (if_pos (.inl ⟨hc, hl⟩))

/-! ## Coefficients that move one code -/

theorem stepCode_range {lo hi : Int} (h : lo ≤ hi) (v sign : Int) : lo ≤ stepCode lo hi v sign ∧ stepCode lo hi v sign ≤ hi := by
  unfold stepCode
  omega

/-- One step of a signed coefficient, where it is due. -/
def stepField (due : Prop) [Decidable due] (f : FldId) (lo hi sign : Int) (s : State) : State :=
  if due then s.setSFld f (stepCode lo hi (s.sfld f) sign) else s

theorem stepField_self (c : Prop) [Decidable c] (r : RegId) {h l : Nat} {lo hi : Int} (sign : Int) (s : State) (hf : fieldOk h l) (hle : lo ≤ hi)
    (hlo : -(2 ^ (h - l) : Nat) ≤ lo) (hhi : hi < (2 ^ (h - l) : Nat)) : (stepField c ⟨r, h, l⟩ lo hi sign s).sfld ⟨r, h, l⟩ =
      if c then max lo (min hi (s.sfld ⟨r, h, l⟩ + sign.sign)) else s.sfld ⟨r, h, l⟩ := by
  unfold stepField
  split
  · obtain ⟨h1, h2⟩ := stepCode_range hle (s.sfld ⟨r, h, l⟩) sign
    exact State.sfld_setSFld_self s r hf (by omega) (by omega)
  · rfl

theorem stepField_other (c : Prop) [Decidable c] (r : RegId) {h l h' l' : Nat} (lo hi sign : Int) (s : State) (hf : fieldOk h l) (hf' : fieldOk h' l')
    (hd : h' < l ∨ h < l') : (stepField c ⟨r, h, l⟩ lo hi sign s).sfld ⟨r, h', l'⟩ = s.sfld ⟨r, h', l'⟩ := by
  unfold stepField
  split
  · exact congrArg (signed (h' + 1 - l')) (State.fld_setFld_other s r h l h' l' _ hf.1 hf.2 hf'.1 hf'.2 hd)
  · rfl

theorem stepField_moved (c : Prop) [Decidable c] (f : FldId) (lo hi sign : Int) (s : State) :
    moved (fun r => r = f.reg) [.regs] s (stepField c f lo hi sign s) :=
  .ite (setFld_moved (P := fun r => r = f.reg) (l := [.regs]) f rfl (by decide) s _) (.refl _ _ s)

/-- The sign by which feedback tap `i + 1` moves. -/
def dfeSign (lane at_ i : Nat) (s : State) : Int := (s.lane lane).lmsSign (at_ % 128) (s.fld (fLn_RX_STAT_MEM lane) + i + 1)

/-- A receiver that adapts coefficients which `freeze` would hold in LOCKED (R88). -/
abbrev adapts (lane : Nat) (freeze : FldId) (s : State) : Prop := s.rx lane = rxConverge ∨ s.rx lane = rxLocked ∧ s.on freeze = false

theorem adapts_iff {lane : Nat} {f : FldId} {s : State} : (s.rx lane = rxConverge ∨ (s.rx lane = rxLocked ∧ !s.on f)) ↔ adapts lane f s := by
  rw [adapts, Bool.not_eq_true']

theorem dfeAdapt_claim {lane at_ n : Nat} {s : State} (hs : adapts lane (fLn_DFE_CTL_FREEZE lane) s) (hsyms : 256 ≤ (s.lane lane).dfeSyms)
    (hn : n = s.fld (fLn_RX_STAT_DFE_N lane)) :
    ∃ t, exec (.dfeAdapt lane at_) s = .next t ∧ t.lane lane = { s.lane lane with dfeSyms := (s.lane lane).dfeSyms - 256 } ∧
      (∀ i f, (i, f) ∈ [(0, fLn_DFE_TAP_TAP1 lane), (1, fLn_DFE_TAP_TAP2 lane), (2, fLn_DFE_TAP_TAP3 lane)] →
        t.sfld f = if i < n then max (-512) (min 511 (s.sfld f +
          ((s.lane lane).lmsSign (at_ % 128) (s.fld (fLn_RX_STAT_MEM lane) + i + 1)).sign)) else s.sfld f) ∧
      (∀ m, m ≠ lane → t.lane m = s.lane m) ∧ onlyRegs (fun r => r = rLn_DFE_TAP lane) s t ∧ onlyParts [.lanes, .regs] s t := by
  obtain ⟨a, ha⟩ : ∃ a, a = s.setLane lane { s.lane lane with dfeSyms := (s.lane lane).dfeSyms - 256 } := ⟨_, rfl⟩
  obtain ⟨b, hb⟩ : ∃ b, b = stepField (0 < n) (fLn_DFE_TAP_TAP1 lane) (-512) 511 (dfeSign lane at_ 0 s) a := ⟨_, rfl⟩
  obtain ⟨c, hc⟩ : ∃ c, c = stepField (1 < n) (fLn_DFE_TAP_TAP2 lane) (-512) 511 (dfeSign lane at_ 1 s) b := ⟨_, rfl⟩
  obtain ⟨t, ht⟩ : ∃ t, t = stepField (2 < n) (fLn_DFE_TAP_TAP3 lane) (-512) 511 (dfeSign lane at_ 2 s) c := ⟨_, rfl⟩
  have hexec : exec (.dfeAdapt lane at_) s = .next t := by
    rw [ht, hc, hb, ha, hn]
    exact congrArg _ (if_pos ⟨adapts_iff.2 hs, hsyms⟩)
  have hab := stepField_moved (0 < n) (fLn_DFE_TAP_TAP1 lane) (-512) 511 (dfeSign lane at_ 0 s) a
  have hbc := stepField_moved (1 < n) (fLn_DFE_TAP_TAP2 lane) (-512) 511 (dfeSign lane at_ 1 s) b
  have hct := stepField_moved (2 < n) (fLn_DFE_TAP_TAP3 lane) (-512) 511 (dfeSign lane at_ 2 s) c
  rw [← hb] at hab
  rw [← hc] at hbc
  rw [← ht] at hct
  have hat := (hab.trans hbc).trans hct
  have hsa := setLane_moved (P := fun r => r = rLn_DFE_TAP lane) lane { s.lane lane with dfeSyms := (s.lane lane).dfeSyms - 256 } s
  rw [← ha] at hsa
  have hfld (g : FldId) : a.sfld g = s.sfld g := by rw [ha]; rfl
  refine ⟨t, hexec, (hat.lane (by decide) lane).trans ?_, fun i f hif => ?_, fun m hm => (hat.lane (by decide) m).trans ?_, hsa.1.trans hat.1,
    hsa.2.trans (hat.2.mono (by decide))⟩
  · rw [ha]; exact State.lane_setLane_self s lane _
  · simp only [List.mem_cons, Prod.mk.injEq, List.not_mem_nil, or_false] at hif
    obtain ⟨rfl, rfl⟩ | ⟨rfl, rfl⟩ | ⟨rfl, rfl⟩ := hif
    · rw [ht, stepField_other _ _ _ _ _ _ (by decide) (by decide) (by decide), hc, stepField_other _ _ _ _ _ _ (by decide) (by decide) (by decide), hb,
        stepField_self _ _ _ _ (by decide) (by decide) (by decide) (by decide), hfld]
      rfl
    · rw [ht, stepField_other _ _ _ _ _ _ (by decide) (by decide) (by decide), hc,
        stepField_self _ _ _ _ (by decide) (by decide) (by decide) (by decide), hb, stepField_other _ _ _ _ _ _ (by decide) (by decide) (by decide), hfld]
      rfl
    · rw [ht, stepField_self _ _ _ _ (by decide) (by decide) (by decide) (by decide), hc,
        stepField_other _ _ _ _ _ _ (by decide) (by decide) (by decide), hb, stepField_other _ _ _ _ _ _ (by decide) (by decide) (by decide), hfld]
      rfl
  · rw [ha]; exact State.lane_setLane_ne s _ hm

theorem targetAdapt_claim {lane at1 at2 : Nat} {s : State} (hs : adapts lane (fLn_FDE_CTL_FREEZE lane) s) (hsyms : 4096 ≤ (s.lane lane).tgtSyms) :
    ∃ t, exec (.targetAdapt lane at1 at2) s = .next t ∧ t.lane lane = { s.lane lane with tgtSyms := (s.lane lane).tgtSyms - 4096 } ∧
      ((t.fld (fLn_TRELLIS_G1 lane) : Nat) : Int) =
        max 0 (min 191 ((s.fld (fLn_TRELLIS_G1 lane) : Nat) + ((s.lane lane).lmsSign (at1 % 128) 1).sign)) ∧
      t.sfld (fLn_TRELLIS_G2 lane) = (if s.fld (fLn_RX_STAT_MEM lane) = 2 then
        max (-64) (min 63 (s.sfld (fLn_TRELLIS_G2 lane) + ((s.lane lane).lmsSign (at2 % 128) 2).sign)) else s.sfld (fLn_TRELLIS_G2 lane)) ∧
      (∀ m, m ≠ lane → t.lane m = s.lane m) ∧ onlyRegs (fun r => r = rLn_TRELLIS lane) s t ∧ onlyParts [.lanes, .regs] s t := by
  obtain ⟨g, hg⟩ : ∃ g, g = stepCode 0 191 (s.fld (fLn_TRELLIS_G1 lane)) ((s.lane lane).lmsSign (at1 % 128) 1) := ⟨_, rfl⟩
  obtain ⟨hg0, hg191⟩ := stepCode_range (lo := 0) (hi := 191) (by decide) (s.fld (fLn_TRELLIS_G1 lane)) ((s.lane lane).lmsSign (at1 % 128) 1)
  rw [← hg] at hg0 hg191
  obtain ⟨a, ha⟩ : ∃ a, a = s.setLane lane { s.lane lane with tgtSyms := (s.lane lane).tgtSyms - 4096 } := ⟨_, rfl⟩
  obtain ⟨b, hb⟩ : ∃ b, b = a.setFld (fLn_TRELLIS_G1 lane) g.toNat := ⟨_, rfl⟩
  obtain ⟨t, ht⟩ : ∃ t, t = stepField (s.fld (fLn_RX_STAT_MEM lane) = 2) (fLn_TRELLIS_G2 lane) (-64) 63 ((s.lane lane).lmsSign (at2 % 128) 2) b :=
    ⟨_, rfl⟩
  have hexec : exec (.targetAdapt lane at1 at2) s = .next t := by
    rw [ht, hb, ha, hg]
    exact congrArg _ (if_pos ⟨adapts_iff.2 hs, hsyms⟩)
  have hab : moved (fun r => r = rLn_TRELLIS lane) [.regs] a b := by
    rw [hb]; exact setFld_moved (P := fun r => r = rLn_TRELLIS lane) (fLn_TRELLIS_G1 lane) rfl (by decide) a _
  have hbt := stepField_moved (s.fld (fLn_RX_STAT_MEM lane) = 2) (fLn_TRELLIS_G2 lane) (-64) 63 ((s.lane lane).lmsSign (at2 % 128) 2) b
  rw [← ht] at hbt
  have hat := hab.trans hbt
  have hsa := setLane_moved (P := fun r => r = rLn_TRELLIS lane) lane { s.lane lane with tgtSyms := (s.lane lane).tgtSyms - 4096 } s
  rw [← ha] at hsa
  have hg1 : t.fld (fLn_TRELLIS_G1 lane) = g.toNat := by
    have hkeep : t.fld (fLn_TRELLIS_G1 lane) = b.fld (fLn_TRELLIS_G1 lane) := by
      rw [ht]
      unfold stepField
      split
      · exact State.fld_setFld_other _ _ _ _ _ _ _ (by decide) (by decide) (by decide) (by decide) (by decide)
      · rfl
    rw [hkeep, hb]
    exact State.fld_setFld_self_of_lt _ _ (by decide) (by omega)
  have hg2 : b.sfld (fLn_TRELLIS_G2 lane) = s.sfld (fLn_TRELLIS_G2 lane) := by
    rw [hb, ha]
    exact congrArg (signed 8) (State.fld_setFld_other _ _ _ _ _ _ _ (by decide) (by decide) (by decide) (by decide) (by decide))
  refine ⟨t, hexec, (hat.lane (by decide) lane).trans ?_, ?_, ?_, fun m hm => (hat.lane (by decide) m).trans ?_, hsa.1.trans hat.1,
    hsa.2.trans (hat.2.mono (by decide))⟩
  · rw [ha]; exact State.lane_setLane_self s lane _
  · rw [hg1, Int.toNat_of_nonneg hg0, hg]
    rfl
  · rw [ht, stepField_self _ _ _ _ (by decide) (by decide) (by decide) (by decide), hg2]
  · rw [ha]; exact State.lane_setLane_ne s _ hm

theorem adapt_other {lane at1 at2 : Nat} {s : State} (hc : s.rx lane ≠ rxConverge) (hl : s.rx lane ≠ rxLocked) :
    exec (.dfeAdapt lane at1) s = .next s ∧ exec (.targetAdapt lane at1 at2) s = .next s :=
  ⟨congrArg _ (if_neg fun h => h.1.elim hc fun h => hl h.1), congrArg _ (if_neg fun h => h.1.elim hc fun h => hl h.1)⟩

end Sys2Proof.Machine

end

section
/-! SUPPORT. Merit windows of a lane receiver, and its lock (R84, R88, R71, R100). -/

-- The checked text is one long file: elaborating these in order bounds its threads and memory.
set_option Elab.async false

namespace Sys2Proof.Machine

/-! ## Entering LOCKED -/

/-- The registers that a lane's lock may set. -/
def lockReg (n : Nat) (r : RegId) : Prop :=
  r = rLn_RX_STAT n ∨ r = rLn_FEC_STAT n ∨ r = rLn_TX_STAT n ∨ (r.blk = .ln ∧ r.inst = n ∧ cntReg r)

theorem lnReg_of_lockReg {n : Nat} {r : RegId} (h : lockReg n r) : lnReg n r := by
  obtain rfl | rfl | rfl | ⟨hb, hi, -⟩ := h
  · exact ⟨rfl, rfl⟩
  · exact ⟨rfl, rfl⟩
  · exact ⟨rfl, rfl⟩
  · exact ⟨hb, hi⟩

theorem rampUp_effect (n : Nat) (s : State) : let t := rampUp n s
    (t.lane n).winDone = (s.lane n).winDone ∧ (∀ m, m ≠ n → t.lane m = s.lane m) ∧ moved (fun r => r = rLn_TX_STAT n) [.lanes, .regs] s t := by
  have hset (a : State) (f : FldId) (hf : f.reg = rLn_TX_STAT n) (v : Nat) :
      moved (fun r => r = rLn_TX_STAT n) [.lanes, .regs] a (a.setFld f v) := setFld_moved f hf (by decide) a v
  dsimp only
  unfold rampUp
  dsimp only
  split
  · obtain ⟨f, hf⟩ : ∃ f : Lane → Lane, f = ({ · with rampUs := s.fld (fLn_TX_RAMP_RAMP_US n), txPairs := 0, txEnc := {} }) := ⟨_, rfl⟩
    obtain ⟨a, ha⟩ : ∃ a, a = s.modLane n ({ · with amp := 0 }) := ⟨_, rfl⟩
    obtain ⟨b, hb⟩ : ∃ b, b = a.setFld (fLn_TX_STAT_AMP n) (0 * 1023 / 1024) := ⟨_, rfl⟩
    have hamp : s.setAmp n 0 = b := by rw [hb, ha]; rfl
    have hlane (m : Nat) : (State.setTx (b.modLane n f) n txRampUp).lane m = (b.modLane n f).lane m := rfl
    have hba (m : Nat) : b.lane m = a.lane m := by rw [hb]; rfl
    rw [← hf, hamp]
    refine ⟨?_, fun m hm => ?_, ?_⟩
    · rw [hlane, State.lane_modLane_self, hf, hba, ha, State.lane_modLane_self]
    · rw [hlane, lane_modLane hm, hba, ha, lane_modLane hm]
    · refine .trans ?_ ((modLane_moved n f b).trans (hset _ (fLn_TX_STAT_STATE n) rfl _))
      rw [hb, ha]
      exact (modLane_moved n _ s).trans (hset _ (fLn_TX_STAT_AMP n) rfl _)
  · split
    · exact ⟨rfl, fun _ _ => rfl, hset s (fLn_TX_STAT_STATE n) rfl _⟩
    · exact ⟨rfl, fun _ _ => rfl, .refl _ _ s⟩

theorem enterLocked_effect (n : Nat) (s : State) : let t := enterLocked n s
    t.rx n = rxLocked ∧ t.fld (fLn_RX_STAT_LOCK n) = 1 ∧ t.fld (fLn_RX_STAT_RETRY n) = s.fld (fLn_RX_STAT_RETRY n) ∧
      (t.lane n).winDone = (s.lane n).winDone ∧ (∀ m, m ≠ n → t.lane m = s.lane m) ∧ moved (lockReg n) [.lanes, .regs] s t := by
  intro t
  obtain ⟨a, ha⟩ : ∃ a, a = s.setRx n rxLocked := ⟨_, rfl⟩
  obtain ⟨b, hb⟩ : ∃ b, b = countLn n 7 0 1 a := ⟨_, rfl⟩
  have ht : t = if b.fld (fLn_PRBS_STAT_LOOP n) = 2 ∧ (b.lane n).loopPrior.isSome then rampUp n b else b := by rw [hb, ha]; rfl
  have hsa := setRx_moved n rxLocked s
  rw [← ha] at hsa
  have hab : moved (fun r => r.blk = .ln ∧ r.inst = n ∧ cntReg r) [.regs] a b := by
    rw [hb]; exact ⟨count_onlyRegs .ln n 7 _ 1 a, countLn_onlyParts n 7 0 1 a⟩
  have hbt : (t.lane n).winDone = (b.lane n).winDone ∧ (∀ m, m ≠ n → t.lane m = b.lane m) ∧
      moved (fun r => r = rLn_TX_STAT n) [.lanes, .regs] b t := by
    rw [ht]
    split
    · exact rampUp_effect n b
    · exact ⟨rfl, fun _ _ => rfl, .refl _ _ b⟩
  obtain ⟨hdone, hother, hm⟩ := hbt
  have hstat (hi lo : Nat) : t.fld ⟨rLn_RX_STAT n, hi, lo⟩ = a.fld ⟨rLn_RX_STAT n, hi, lo⟩ :=
    (hm.1.fld (by simp)).trans (hab.1.fld (by simp [cntReg, cntGeom]))
  have hlane (m : Nat) : b.lane m = s.lane m := (hab.lane (by decide) m).trans (hsa.lane (by decide) m)
  refine ⟨(hstat _ _).trans ?_, (hstat _ _).trans ?_, (hstat _ _).trans ?_, hdone.trans (congrArg Lane.winDone (hlane n)),
    fun m h => (hother m h).trans (hlane m), ?_⟩
  · rw [ha]; exact rx_setRx s n (by decide)
  · rw [ha]; exact lock_setRx s n rxLocked
  · rw [ha]; exact fld_setRx_other s n _ (by decide) (by decide) (by decide) (by decide)
  · refine ((hsa.mono (fun r h => ?_) (by decide)).trans (hab.mono (fun r h => .inr (.inr (.inr h))) (by decide))).trans
      (hm.mono (fun r h => .inr (.inr (.inl h))) fun _ => id)
    exact h.elim .inl fun h => .inr (.inl h)

theorem calLockGained_effect (n : Nat) (s : State) : let t := calLockGained n s
    (t.lane n).winDone = (s.lane n).winDone ∧ (∀ m, m ≠ n → t.lane m = s.lane m) ∧ moved (fun r => r = rLn_CAL_STAT n) [.lanes, .regs] s t := by
  dsimp only
  unfold calLockGained
  dsimp only
  split
  · obtain ⟨-, -, hother, hm⟩ := calStart_effect n s
    refine ⟨?_, hother, hm⟩
    unfold calStart
    rw [State.lane_congr (setFld_onlyParts _ _ _ .lanes (by decide)), State.lane_modLane_self]
  · refine ⟨?_, fun m hm => State.lane_setLane_ne s _ hm, setLane_moved n _ s⟩
    rw [State.lane_setLane_self]

/-- A receiver that has converged locks (R88). -/
def lockGained (n : Nat) (l : Lane) (s : State) : State :=
  raise_ (fLn_RX_EVENT_LOCK_GAINED n) (calLockGained n (enterLocked n ((s.setLane n l).setFld (fLn_RX_STAT_RETRY n) 0)))

/-- The registers that gaining the lock may set. -/
def gainReg (n : Nat) (r : RegId) : Prop := lockReg n r ∨ r = rLn_CAL_STAT n ∨ r = rLn_RX_EVENT n ∨ noteReg r

theorem lockGained_effect (n : Nat) (l : Lane) (s : State) : let t := lockGained n l s
    t.rx n = rxLocked ∧ t.fld (fLn_RX_STAT_LOCK n) = 1 ∧ t.fld (fLn_RX_STAT_RETRY n) = 0 ∧ t.fld (fLn_RX_EVENT_LOCK_GAINED n) = 1 ∧
      (t.lane n).winDone = l.winDone ∧ (∀ m, m ≠ n → t.lane m = s.lane m) ∧ moved (gainReg n) [.lanes, .rings, .regs, .out] s t := by
  intro t
  obtain ⟨a, ha⟩ : ∃ a, a = s.setLane n l := ⟨_, rfl⟩
  obtain ⟨b, hb⟩ : ∃ b, b = a.setFld (fLn_RX_STAT_RETRY n) 0 := ⟨_, rfl⟩
  obtain ⟨c, hc⟩ : ∃ c, c = enterLocked n b := ⟨_, rfl⟩
  obtain ⟨d, hd⟩ : ∃ d, d = calLockGained n c := ⟨_, rfl⟩
  have ht : t = raise_ (fLn_RX_EVENT_LOCK_GAINED n) d := by rw [hd, hc, hb, ha]; rfl
  have hsa := setLane_moved (P := gainReg n) n l s
  rw [← ha] at hsa
  have hab : moved (fun r => r = rLn_RX_STAT n) [.regs] a b := by
    rw [hb]; exact setFld_moved (P := fun r => r = rLn_RX_STAT n) (fLn_RX_STAT_RETRY n) rfl (by decide) a 0
  obtain ⟨hrx, hlock, hretry, hdone, hother, hbc⟩ := enterLocked_effect n b
  rw [← hc] at hrx hlock hretry hdone hother hbc
  obtain ⟨hdone', hother', hcd⟩ := calLockGained_effect n c
  rw [← hd] at hdone' hother' hcd
  have hr := raise_moved (P := fun r => r = rLn_RX_EVENT n ∨ noteReg r) (fLn_RX_EVENT_LOCK_GAINED n) (.inl rfl) (fun _ => .inr) (fun _ => id) d
  rw [← ht] at hr
  have hstat (hi lo : Nat) : t.fld ⟨rLn_RX_STAT n, hi, lo⟩ = c.fld ⟨rLn_RX_STAT n, hi, lo⟩ :=
    (hr.1.fld (by simp [noteReg])).trans (hcd.1.fld (by simp))
  refine ⟨(hstat _ _).trans hrx, (hstat _ _).trans hlock, (hstat _ _).trans (hretry.trans ?_), ?_, ?_, fun m hm => ?_, ?_⟩
  · rw [hb]; exact State.fld_setFld_self_of_lt _ _ (by decide) (by decide)
  · rw [ht]; exact raise_fld_self _ _ (by decide) ⟨Blk.noConfusion, Blk.noConfusion⟩
  · refine (congrArg Lane.winDone (hr.lane (by decide) n)).trans (hdone'.trans (hdone.trans (congrArg Lane.winDone ((hab.lane (by decide) n).trans ?_))))
    rw [ha]; exact State.lane_setLane_self s n l
  · refine (hr.lane (by decide) m).trans ((hother' m hm).trans ((hother m hm).trans ((hab.lane (by decide) m).trans ?_)))
    rw [ha]; exact State.lane_setLane_ne s l hm
  · refine ((((hsa.mono (fun _ => id) (by decide)).trans (hab.mono (fun r h => ?_) (by decide))).trans (hbc.mono (fun _ => .inl) (by decide))).trans
      (hcd.mono (fun _ h => .inr (.inl h)) (by decide))).trans (hr.mono (fun _ h => .inr (.inr h)) (by decide))
    exact .inl (.inl h)

/-! ## The figures of a window -/

theorem agcStep_effect (n : Nat) (rms : Int) (s : State) : let t := agcStep n rms s
    sameButTaps (s.lane n) (t.lane n) ∧ (∀ m, m ≠ n → t.lane m = s.lane m) ∧ moved (fun r => r = rLn_RX_AFE n) [.lanes, .regs] s t := by
  have hset (v v' : Nat) : let t := (s.setFld (fLn_RX_AFE_VGA n) v').modLane n (Lane.rescale v v')
      sameButTaps (s.lane n) (t.lane n) ∧ (∀ m, m ≠ n → t.lane m = s.lane m) ∧ moved (fun r => r = rLn_RX_AFE n) [.lanes, .regs] s t := by
    intro t
    obtain ⟨a, ha⟩ : ∃ a, a = s.setFld (fLn_RX_AFE_VGA n) v' := ⟨_, rfl⟩
    have ht : t = a.modLane n (Lane.rescale v v') := by rw [ha]
    have hlane (m : Nat) : a.lane m = s.lane m := by rw [ha]; rfl
    have hsa : moved (fun r => r = rLn_RX_AFE n) [.regs] s a := by
      rw [ha]; exact setFld_moved (P := fun r => r = rLn_RX_AFE n) (fLn_RX_AFE_VGA n) rfl (by decide) s v'
    rw [ht, State.lane_modLane_self, hlane]
    exact ⟨rfl, fun m hm => (lane_modLane hm).trans (hlane m), (hsa.mono (fun _ => id) (by decide)).trans (modLane_moved n _ a)⟩
  dsimp only
  unfold agcStep
  dsimp only
  split
  · exact hset _ _
  · exact ⟨rfl, fun _ _ => rfl, .refl _ _ s⟩

theorem agcWindow_effect (n : Nat) (rms : Int) (s : State) : let t := agcWindow n rms s
    sameButTaps (s.lane n) (t.lane n) ∧ (∀ m, m ≠ n → t.lane m = s.lane m) ∧ moved (fun r => r = rLn_RX_AFE n) [.lanes, .regs] s t := by
  dsimp only
  unfold agcWindow
  split
  · exact agcStep_effect n rms s
  · obtain ⟨-, hsame, hother, -, hm⟩ := agcFree_effect n rms s
    exact ⟨hsame, hother, hm⟩

/-- A window's merit shows, fresh (R84). -/
def showMerit (n m : Nat) (s : State) : State :=
  (((s.setFld (fLn_MERIT_MERIT n) m).setFld (fLn_MERIT_STALE n) 0).incWrap (fLn_MERIT_WIN_SEQ n)).resultReady (rLn_MERIT n)

theorem showMerit_effect (n : Nat) {m : Nat} (hm : m < 256) (s : State) : let t := showMerit n m s
    t.fld (fLn_MERIT_MERIT n) = m ∧ t.fld (fLn_MERIT_WIN_SEQ n) = (s.fld (fLn_MERIT_WIN_SEQ n) + 1) % 256 ∧ t.fld (fLn_MERIT_FRESH n) = 1 ∧
      moved (fun r => r = rLn_MERIT n) [.regs] s t := by
  intro t
  obtain ⟨a, ha⟩ : ∃ a, a = (s.setFld (fLn_MERIT_MERIT n) m).setFld (fLn_MERIT_STALE n) 0 := ⟨_, rfl⟩
  obtain ⟨b, hb⟩ : ∃ b, b = a.incWrap (fLn_MERIT_WIN_SEQ n) := ⟨_, rfl⟩
  have ht : t = b.resultReady (rLn_MERIT n) := by rw [hb, ha]; rfl
  have hset (f : FldId) (hf : f.reg = rLn_MERIT n) (x : State) (v : Nat) : moved (fun r => r = rLn_MERIT n) [.regs] x (x.setFld f v) :=
    setFld_moved f hf (by decide) x v
  have hready {hi lo : Nat} (h : fieldOk hi lo) (h30 : hi < 30) : t.fld ⟨rLn_MERIT n, hi, lo⟩ = b.fld ⟨rLn_MERIT n, hi, lo⟩ := by
    rw [ht, State.resultReady_eq]
    exact State.fld_setFld_other _ _ _ _ _ _ _ (by decide) (by decide) h.1 h.2 (.inl h30)
  refine ⟨?_, ?_, ?_, ?_⟩
  · rw [hready (by decide) (by decide), hb, State.incWrap,
      State.fld_setFld_other _ _ _ _ _ _ _ (by decide) (by decide) (by decide) (by decide) (by decide), ha,
      State.fld_setFld_other _ _ _ _ _ _ _ (by decide) (by decide) (by decide) (by decide) (by decide)]
    exact State.fld_setFld_self_of_lt _ _ (by decide) hm
  · rw [hready (by decide) (by decide), hb, State.incWrap_self _ _ (by decide), ha,
      State.fld_setFld_other _ _ _ _ _ _ _ (by decide) (by decide) (by decide) (by decide) (by decide),
      State.fld_setFld_other _ _ _ _ _ _ _ (by decide) (by decide) (by decide) (by decide) (by decide)]
    rfl
  · rw [ht, State.resultReady_eq, State.fld_setFld_part _ _ _ _ _ _ _ (by decide) (by decide) (by decide) (by decide) (by decide)]
    rfl
  · rw [ht, hb, ha]
    exact (((hset (fLn_MERIT_MERIT n) rfl s _).trans (hset (fLn_MERIT_STALE n) rfl _ _)).trans (hset (fLn_MERIT_WIN_SEQ n) rfl _ _)).trans
      (setReg_moved (P := fun r => r = rLn_MERIT n) (rLn_MERIT n) rfl (by decide) _ _)

/-- A lane whose complete window is taken. -/
def Lane.windowTaken (l : Lane) : Lane := { l with winDone := none }

/-- What a complete window leaves before the receiver's state looks at its merit (R71, R84). -/
def windowWithMerit (n : Nat) (rms : Int) (m : Nat) (s : State) : State := showMerit n m (agcWindow n rms (s.modLane n Lane.windowTaken))

theorem windowWithMerit_effect (n : Nat) (rms : Int) {m : Nat} (hm : m < 256) (s : State) : let t := windowWithMerit n rms m s
    t.fld (fLn_MERIT_MERIT n) = m ∧ t.fld (fLn_MERIT_WIN_SEQ n) = (s.fld (fLn_MERIT_WIN_SEQ n) + 1) % 256 ∧ t.fld (fLn_MERIT_FRESH n) = 1 ∧
      t.lane n = { s.lane n with winDone := none, taps := (t.lane n).taps } ∧ (∀ m, m ≠ n → t.lane m = s.lane m) ∧
      moved (fun r => r = rLn_RX_AFE n ∨ r = rLn_MERIT n) [.lanes, .regs] s t := by
  intro t
  obtain ⟨a, ha⟩ : ∃ a, a = s.modLane n Lane.windowTaken := ⟨_, rfl⟩
  obtain ⟨b, hb⟩ : ∃ b, b = agcWindow n rms a := ⟨_, rfl⟩
  have ht : t = showMerit n m b := by rw [hb, ha]; rfl
  obtain ⟨hsame, hother, hab⟩ := agcWindow_effect n rms a
  rw [← hb] at hsame hother hab
  obtain ⟨hmerit, hseq, hfresh, hbt⟩ := showMerit_effect n hm b
  rw [← ht] at hmerit hseq hfresh hbt
  have hsa := modLane_moved (P := fun r => r = rLn_RX_AFE n ∨ r = rLn_MERIT n) n Lane.windowTaken s
  have han : a.lane n = (s.lane n).windowTaken := by rw [ha]; exact State.lane_modLane_self s n _
  rw [← ha] at hsa
  refine ⟨hmerit, hseq.trans ?_, hfresh, ?_, fun k hk => (hbt.lane (by decide) k).trans ((hother k hk).trans ?_), ?_⟩
  · rw [hab.1.fld (by simp), ha]; rfl
  · rw [hbt.lane (by decide) n]
    exact hsame.trans (by rw [han]; rfl)
  · rw [ha]; exact lane_modLane hk
  · exact (hsa.trans (hab.mono (fun _ => .inl) fun _ => id)).trans (hbt.mono (fun _ => .inr) (by decide))

end Sys2Proof.Machine

end

section
/-! PROOFS. Merit windows of a lane receiver (R84, R85, R88, R90, R101). -/

-- The checked text is one long file: elaborating these in order bounds its threads and memory.
set_option Elab.async false

namespace Sys2Proof.Machine

/-! ## What a receiver does with a window's merit -/

/-- What a receiver that looks at the merit of a window leaves of it. -/
structure WindowKept (n : Nat) (s t : State) : Prop where
  merit : t.fld (fLn_MERIT_MERIT n) = s.fld (fLn_MERIT_MERIT n)
  winSeq : t.fld (fLn_MERIT_WIN_SEQ n) = s.fld (fLn_MERIT_WIN_SEQ n)
  done : (s.lane n).winDone = none → (t.lane n).winDone = none
  other : ∀ m, m ≠ n → t.lane m = s.lane m
  frame : moved (rxReg n) [.lanes, .act, .rings, .regs, .out] s t

theorem WindowKept.refl (n : Nat) (s : State) : WindowKept n s s := ⟨rfl, rfl, id, fun _ _ => rfl, .refl _ _ s⟩

theorem WindowKept.trans {n : Nat} {s t u : State} (h : WindowKept n s t) (h' : WindowKept n t u) : WindowKept n s u :=
  ⟨h'.merit.trans h.merit, h'.winSeq.trans h.winSeq, fun hd => h'.done (h.done hd), fun m hm => (h'.other m hm).trans (h.other m hm),
    h.frame.trans h'.frame⟩

/-- A change of other registers keeps the window's figures. -/
theorem WindowKept.of_moved {n : Nat} {s t : State} {P : RegId → Prop} {l : List Part} (h : moved P l s t) (hm : ¬ P (rLn_MERIT n))
    (hP : ∀ r, P r → rxReg n r) (hl : ∀ p ∈ l, p ∈ [Part.lanes, .act, .rings, .regs, .out])
    (hd : (s.lane n).winDone = none → (t.lane n).winDone = none) (ho : ∀ m, m ≠ n → t.lane m = s.lane m) : WindowKept n s t :=
  ⟨h.1.fld hm, h.1.fld hm, hd, ho, h.mono hP hl⟩

theorem setLane_windowKept (n : Nat) (l : Lane) (s : State) (hd : (s.lane n).winDone = none → l.winDone = none) :
    WindowKept n s (s.setLane n l) :=
  .of_moved (setLane_moved (P := fun _ => False) n l s) id (fun _ => False.elim) (by decide)
    (fun h => (congrArg Lane.winDone (State.lane_setLane_self s n l)).trans (hd h)) fun _ hm => State.lane_setLane_ne s l hm

theorem useCandidate_windowKept (n : Nat) (c : Nat × Nat) (s : State) : WindowKept n s (useCandidate n c s) := by
  obtain ⟨hlane, hother, -, hm⟩ := useCandidate_effect n c s
  refine .of_moved hm (by simp) (fun r h => .inl ?_) (by decide) (fun h => ?_) hother
  · obtain rfl | rfl | rfl := h <;> exact ⟨rfl, rfl⟩
  · exact (congrArg Lane.winDone hlane).trans h

theorem raise_windowKept (n k : Nat) (s : State) : WindowKept n s (raise_ ⟨rLn_RX_EVENT n, k, k⟩ s) := by
  have h := raise_moved (P := fun r => r = rLn_RX_EVENT n ∨ noteReg r) ⟨rLn_RX_EVENT n, k, k⟩ (.inl rfl) (fun _ => .inr) (fun _ => id) s
  refine .of_moved h (by simp [noteReg]) ?_ (by decide) (fun hd => (congrArg Lane.winDone (h.lane (by decide) n)).trans hd)
    fun m _ => h.lane (by decide) m
  rintro r (rfl | hr)
  · exact .inl ⟨rfl, rfl⟩
  · exact .inr (.inr hr)

theorem toAcquire_windowKept (n : Nat) (s : State) : WindowKept n s (toAcquire n s) := by
  obtain ⟨hacq, hm⟩ := toAcquire_effect n s
  exact ⟨hacq.merit, hacq.winSeq, fun _ => hacq.winDone, hacq.other,
    hm.mono (fun r h => h.elim rxReg_of_calReg fun h => .inl (lnReg_of_acqReg h)) fun _ => id⟩

theorem retry_windowKept {n : Nat} {s : State} (hf : ¬ holdsLock (s.rx n)) : WindowKept n s (retry n (toAcquire n) s) := by
  by_cases hlast : lastRetry n s
  · obtain ⟨-, -, hm⟩ := retry_last_effect (next := toAcquire n) hlast hf
    refine .of_moved hm (by simp [noteReg]) ?_ (by decide) (fun hd => (congrArg Lane.winDone (hm.lane (by decide) n)).trans hd)
      fun m _ => hm.lane (by decide) m
    rintro r (rfl | rfl | rfl | hr)
    · exact .inl ⟨rfl, rfl⟩
    · exact .inl ⟨rfl, rfl⟩
    · exact .inl ⟨rfl, rfl⟩
    · exact .inr (.inr hr)
  · rw [retry_next hlast]
    refine .trans (.of_moved (setFld_moved (P := fun r => r = rLn_RX_STAT n) (l := [.regs]) (fLn_RX_STAT_RETRY n) rfl (by decide) s _) (by simp)
      ?_ (by decide) id fun _ _ => rfl) (toAcquire_windowKept n _)
    rintro r rfl
    exact .inl ⟨rfl, rfl⟩

theorem lockGained_windowKept (n : Nat) (l : Lane) (s : State) (hd : (s.lane n).winDone = none → l.winDone = none) :
    WindowKept n s (lockGained n l s) := by
  obtain ⟨-, -, -, -, hdone, hother, hm⟩ := lockGained_effect n l s
  refine .of_moved hm (by simp [gainReg, lockReg, cntReg, cntGeom, noteReg]) (fun r h => ?_) (by decide) (fun h => hdone.trans (hd h)) hother
  obtain h | rfl | rfl | h := h
  · exact .inl (lnReg_of_lockReg h)
  · exact .inl ⟨rfl, rfl⟩
  · exact .inl ⟨rfl, rfl⟩
  · exact .inr (.inr h)

theorem nextCandidate_windowKept (n : Nat) (s : State) : WindowKept n s (nextCandidate n s) := by
  have huse (l : Lane) (c : Nat × Nat) (hd : (s.lane n).winDone = none → l.winDone = none) :
      WindowKept n s (useCandidate n c (s.setLane n l)) := (setLane_windowKept n l s hd).trans (useCandidate_windowKept n c _)
  unfold nextCandidate
  dsimp only
  split
  · exact huse _ _ id
  · split
    · exact huse _ _ id
    · exact .refl n s

theorem candidateWindow_windowKept (n m : Nat) (s : State) : WindowKept n s (candidateWindow n m s) := by
  have hnext (l : Lane) (hd : (s.lane n).winDone = none → l.winDone = none) : WindowKept n s (nextCandidate n (s.setLane n l)) :=
    (setLane_windowKept n l s hd).trans (nextCandidate_windowKept n _)
  unfold candidateWindow
  dsimp only
  split
  · exact .refl n s
  · split
    · exact nextCandidate_windowKept n s
    · split
      · exact nextCandidate_windowKept n s
      · split
        · exact setLane_windowKept n _ s id
        · split
          · exact setLane_windowKept n _ s id
          · exact hnext _ id

theorem convergeWindow_windowKept {n m : Nat} {s : State} (hf : ¬ holdsLock (s.rx n)) : WindowKept n s (convergeWindow n m s) := by
  unfold convergeWindow
  dsimp only
  split
  · split
    · exact setLane_windowKept n _ s id
    · exact lockGained_windowKept n _ s id
  · split
    · exact setLane_windowKept n _ s id
    · exact retry_windowKept hf

theorem lockedWindow_windowKept (n m : Nat) (s : State) : WindowKept n s (lockedWindow n m s) := by
  unfold lockedWindow
  dsimp only
  split
  · split
    · exact setLane_windowKept n _ s id
    · exact ((toAcquire_windowKept n s).trans (raise_windowKept n 3 _)).trans (raise_windowKept n 2 _)
  · exact setLane_windowKept n _ s id

/-! ## The end of a window -/

/-- A receiver whose window counts. -/
abbrev takesWindow (lane : Nat) (s : State) : Prop := s.rx lane = rxConverge ∨ s.rx lane = rxLocked

theorem exec_meritWindowEnd {lane : Nat} {rms : Int} {win : MeritWin} {s : State} (hs : takesWindow lane s)
    (hw : (s.lane lane).winDone = some win) (hph : s.fld (fLn_CAL_STAT_PHASE lane) ≠ 3) :
    exec (.meritWindowEnd lane win.n rms) s = .next (
      if s.rx lane = rxLocked then lockedWindow lane (meritOf win) (windowWithMerit lane rms (meritOf win) s)
      else if (s.lane lane).chosen.isNone then candidateWindow lane (meritOf win) (windowWithMerit lane rms (meritOf win) s)
      else convergeWindow lane (meritOf win) (windowWithMerit lane rms (meritOf win) s)) := by
  show execMeritWindowEnd lane win.n rms s = _
  unfold execMeritWindowEnd
  rw [hw]
  dsimp only
  rw [if_neg (not_or.2 ⟨fun h => hs.elim h.1 h.2, not_not.2 rfl⟩), if_neg hph]
  rfl

theorem meritWindow_stale {lane : Nat} {rms : Int} {win : MeritWin} {s : State} (hs : takesWindow lane s)
    (hw : (s.lane lane).winDone = some win) (hph : s.fld (fLn_CAL_STAT_PHASE lane) = 3) :
    exec (.meritWindowEnd lane win.n rms) s =
      .next ((agcWindow lane rms (s.modLane lane ({ · with winDone := none }))).setFld (fLn_MERIT_STALE lane) 1) := by
  show execMeritWindowEnd lane win.n rms s = _
  unfold execMeritWindowEnd
  rw [hw]
  dsimp only
  rw [if_neg (not_or.2 ⟨fun h => hs.elim h.1 h.2, not_not.2 rfl⟩), if_pos hph]

theorem meritWindow_none {lane symbols : Nat} {rms : Int} {s : State} (h : ∀ win, (s.lane lane).winDone = some win → win.n ≠ symbols) :
    exec (.meritWindowEnd lane symbols rms) s = .next s := by
  show execMeritWindowEnd lane symbols rms s = _
  unfold execMeritWindowEnd
  cases hw : (s.lane lane).winDone with
  | none => rfl
  | some win => exact congrArg _ (if_pos (.inr (h win hw)))

theorem meritWindow_claim {lane : Nat} {rms : Int} {win : MeritWin} {s : State} (hs : takesWindow lane s)
    (hw : (s.lane lane).winDone = some win) (hph : s.fld (fLn_CAL_STAT_PHASE lane) ≠ 3) :
    ∃ t, exec (.meritWindowEnd lane win.n rms) s = .next t ∧ t.fld (fLn_MERIT_MERIT lane) = meritOf win ∧
      t.fld (fLn_MERIT_WIN_SEQ lane) = (s.fld (fLn_MERIT_WIN_SEQ lane) + 1) % 256 ∧ (t.lane lane).winDone = none ∧
      (∀ n, n ≠ lane → t.lane n = s.lane n) ∧ onlyRegs (rxReg lane) s t ∧ onlyParts [.lanes, .act, .rings, .regs, .out] s t := by
  have hexec := exec_meritWindowEnd (rms := rms) hs hw hph
  obtain ⟨hmerit, hseq, -, hlane, hother, hm⟩ := windowWithMerit_effect lane rms (meritFrom_lt (serEst win)) s
  obtain ⟨u, hu⟩ : ∃ u, u = windowWithMerit lane rms (meritOf win) s := ⟨_, rfl⟩
  have hu' : windowWithMerit lane rms (meritFrom (serEst win)) s = u := hu.symm
  rw [← hu] at hexec
  rw [hu'] at hmerit hseq hlane hother hm
  have hrx : u.rx lane = s.rx lane := hm.1.fld (by simp)
  have hkept (t : State) (he : exec (.meritWindowEnd lane win.n rms) s = .next t) (hk : WindowKept lane u t) :
      ∃ t, exec (.meritWindowEnd lane win.n rms) s = .next t ∧ t.fld (fLn_MERIT_MERIT lane) = meritOf win ∧
        t.fld (fLn_MERIT_WIN_SEQ lane) = (s.fld (fLn_MERIT_WIN_SEQ lane) + 1) % 256 ∧ (t.lane lane).winDone = none ∧
        (∀ n, n ≠ lane → t.lane n = s.lane n) ∧ onlyRegs (rxReg lane) s t ∧ onlyParts [.lanes, .act, .rings, .regs, .out] s t := by
    refine ⟨t, he, hk.merit.trans hmerit, hk.winSeq.trans hseq, hk.done (congrArg Lane.winDone hlane),
      fun n hn => (hk.other n hn).trans (hother n hn), (hm.1.mono ?_).trans hk.frame.1, (hm.2.mono (by decide)).trans hk.frame.2⟩
    rintro r (rfl | rfl) <;> exact .inl ⟨rfl, rfl⟩
  by_cases hl : s.rx lane = rxLocked
  · rw [if_pos hl] at hexec
    exact hkept _ hexec (lockedWindow_windowKept lane _ u)
  · rw [if_neg hl] at hexec
    have hfree : ¬ holdsLock (u.rx lane) := by
      rw [hrx, hs.resolve_right hl]
      decide
    by_cases hc : (s.lane lane).chosen.isNone
    · rw [if_pos hc] at hexec
      exact hkept _ hexec (candidateWindow_windowKept lane _ u)
    · rw [if_neg hc] at hexec
      exact hkept _ hexec (convergeWindow_windowKept hfree)

/-! ## Windows that lock or retrain -/

theorem meritWindow_locks {lane : Nat} {rms : Int} {win : MeritWin} {s : State} (hs : s.rx lane = rxConverge)
    (hw : (s.lane lane).winDone = some win) (hph : s.fld (fLn_CAL_STAT_PHASE lane) ≠ 3) (hch : (s.lane lane).chosen.isSome = true)
    (hrun : (s.lane lane).lockRun = 1) (hthr : s.fld (fLn_ADAPT_LOCK_THR lane) ≤ meritOf win) :
    ∃ t, exec (.meritWindowEnd lane win.n rms) s = .next t ∧ t.rx lane = rxLocked ∧ t.fld (fLn_RX_STAT_LOCK lane) = 1 ∧
      t.fld (fLn_RX_STAT_RETRY lane) = 0 ∧ t.fld (fLn_RX_EVENT_LOCK_GAINED lane) = 1 ∧ t.fld (fLn_MERIT_MERIT lane) = meritOf win ∧
      t.fld (fLn_MERIT_FRESH lane) = 1 ∧ (∀ n, n ≠ lane → t.lane n = s.lane n) ∧
      onlyRegs (fun r => lnReg lane r ∨ noteReg r) s t ∧ onlyParts [.lanes, .rings, .regs, .out] s t := by
  have hexec := exec_meritWindowEnd (rms := rms) (.inl hs) hw hph
  obtain ⟨hmerit, -, hfresh, hlane, hother, hm⟩ := windowWithMerit_effect lane rms (meritFrom_lt (serEst win)) s
  obtain ⟨u, hu⟩ : ∃ u, u = windowWithMerit lane rms (meritOf win) s := ⟨_, rfl⟩
  have hu' : windowWithMerit lane rms (meritFrom (serEst win)) s = u := hu.symm
  rw [← hu, if_neg (by rw [hs]; decide), if_neg (by rw [Option.isSome_iff_ne_none] at hch; simpa using hch)] at hexec
  rw [hu'] at hmerit hfresh hlane hother hm
  have hthr' : u.fld (fLn_ADAPT_LOCK_THR lane) ≤ meritOf win := by rw [hm.1.fld (by simp)]; exact hthr
  have hrun' : ¬ (u.lane lane).lockRun + 1 < 2 := by rw [hlane]; dsimp only; omega
  obtain ⟨l, hl⟩ : ∃ l : Lane, l = { u.lane lane with lockRun := 0, failRun := 0, lowRun := 0 } := ⟨_, rfl⟩
  have hconv : convergeWindow lane (meritOf win) u = lockGained lane l u := by
    rw [hl]
    exact (if_pos hthr').trans (if_neg hrun')
  rw [hconv] at hexec
  obtain ⟨hrx, hlock, hretry, hevent, -, hother', hm'⟩ := lockGained_effect lane l u
  have hkeep (hi lo : Nat) : (lockGained lane l u).fld ⟨rLn_MERIT lane, hi, lo⟩ = u.fld ⟨rLn_MERIT lane, hi, lo⟩ :=
    hm'.1.fld (by simp [gainReg, lockReg, cntReg, cntGeom, noteReg])
  refine ⟨_, hexec, hrx, hlock, hretry, hevent, (hkeep _ _).trans hmerit, (hkeep _ _).trans hfresh,
    fun n hn => (hother' n hn).trans (hother n hn), (hm.1.mono ?_).trans (hm'.1.mono ?_), (hm.2.mono (by decide)).trans hm'.2⟩
  · rintro r (rfl | rfl) <;> exact .inl ⟨rfl, rfl⟩
  · rintro r (h | rfl | rfl | h)
    · exact .inl (lnReg_of_lockReg h)
    · exact .inl ⟨rfl, rfl⟩
    · exact .inl ⟨rfl, rfl⟩
    · exact .inr h

/-- A window's figures leave the threshold that a retraining turns on. -/
theorem retrainThr_window {lane : Nat} {s t : State} (h : moved (fun r => r = rLn_RX_AFE lane ∨ r = rLn_MERIT lane) [.lanes, .regs] s t) :
    t.retrainThr lane = s.retrainThr lane := by
  have hthm : t.thm = s.thm := h.2 .thm (by decide)
  rw [State.retrainThr, State.retrainThr, h.1.fld (by simp), h.1.fld (r := fThm_STAT_BAND.reg) (by simp), h.1.fld (by simp), hthm]

theorem meritWindow_retrains {lane : Nat} {rms : Int} {win : MeritWin} {s : State} (hs : s.rx lane = rxLocked)
    (hw : (s.lane lane).winDone = some win) (hph : s.fld (fLn_CAL_STAT_PHASE lane) ≠ 3)
    (hen : s.inForce (fLn_RX_CTL_RETRAIN_EN lane) = 1) (hlow : meritOf win < s.retrainThr lane)
    (hcnt : s.fld (fLn_ADAPT_RETRAIN_CNT lane) ≤ (s.lane lane).lowRun + 1) :
    ∃ t, exec (.meritWindowEnd lane win.n rms) s = .next t ∧ t.rx lane = rxAcquire ∧ t.fld (fLn_RX_EVENT_RETRAIN lane) = 1 ∧
      t.fld (fLn_RX_EVENT_LOCK_LOST lane) = 1 ∧ (∀ n, n ≠ lane → t.lane n = s.lane n) ∧
      onlyRegs (rxReg lane) s t ∧ onlyParts [.lanes, .act, .rings, .regs, .out] s t := by
  obtain ⟨t, hexec, -, -, -, hother, hr, hp⟩ := meritWindow_claim (rms := rms) (.inr hs) hw hph
  have hexec' := exec_meritWindowEnd (rms := rms) (.inr hs) hw hph
  obtain ⟨-, -, -, hlane, -, hm⟩ := windowWithMerit_effect lane rms (meritFrom_lt (serEst win)) s
  obtain ⟨u, hu⟩ : ∃ u, u = windowWithMerit lane rms (meritOf win) s := ⟨_, rfl⟩
  have hu' : windowWithMerit lane rms (meritFrom (serEst win)) s = u := hu.symm
  rw [← hu, if_pos hs] at hexec'
  rw [hu'] at hlane hm
  have hact : u.act = s.act := hm.2 .act (by decide)
  have hen' : u.inForce (fLn_RX_CTL_RETRAIN_EN lane) = 1 := by rw [State.inForce, State.actFld, hact]; exact hen
  have hcnt' : ¬ (u.lane lane).lowRun + 1 < u.fld (fLn_ADAPT_RETRAIN_CNT lane) := by
    rw [hlane, hm.1.fld (by simp)]
    exact Nat.not_lt.2 hcnt
  obtain ⟨a, ha⟩ : ∃ a, a = toAcquire lane u := ⟨_, rfl⟩
  obtain ⟨b, hb⟩ : ∃ b, b = raise_ (fLn_RX_EVENT_RETRAIN lane) a := ⟨_, rfl⟩
  have hlocked : lockedWindow lane (meritOf win) u = raise_ (fLn_RX_EVENT_LOCK_LOST lane) b := by
    rw [hb, ha]
    exact (if_pos ⟨hen', by rw [retrainThr_window hm]; exact hlow⟩).trans (if_neg hcnt')
  have ht : t = raise_ (fLn_RX_EVENT_LOCK_LOST lane) b := by
    rw [hexec, hlocked] at hexec'
    injection hexec'
  have hrx : a.rx lane = rxAcquire := by rw [ha]; exact (toAcquire_effect lane u).1.rx
  refine ⟨t, hexec, ?_, ?_, ?_, hother, hr, hp⟩
  · rw [ht]
    refine ((raise_onlyRegs (fLn_RX_EVENT_LOCK_LOST lane) b).fld (by simp [noteReg])).trans ?_
    rw [hb]
    exact ((raise_onlyRegs (fLn_RX_EVENT_RETRAIN lane) a).fld (by simp [noteReg])).trans hrx
  · rw [ht, fld_raise_event (rLn_RX_EVENT lane) b (by decide) (by decide) (by decide) ⟨Blk.noConfusion, Blk.noConfusion⟩, hb]
    exact raise_fld_self _ _ (by decide) ⟨Blk.noConfusion, Blk.noConfusion⟩
  · rw [ht]; exact raise_fld_self _ _ (by decide) ⟨Blk.noConfusion, Blk.noConfusion⟩

/-- Settles O30: detection leaves the equaliser, so a block's taps are those of its update; a coefficient moves one code inside its range;
and what a receiver does with a window's merit leaves the window's figures. -/
theorem receiversAdapt : Obligations.ReceiversAdapt := by
  unfold Obligations.ReceiversAdapt
  exact ⟨fun _ _ _ _ _ _ => fdeBlockUpdate_claim, fun _ _ _ _ => fdeBlockUpdate_other, fun _ _ _ _ => dfeAdapt_claim,
    fun _ _ _ _ => targetAdapt_claim, fun _ _ _ _ => adapt_other, fun _ _ _ _ => meritWindow_locks, fun _ _ _ _ => meritWindow_retrains,
    fun _ _ _ _ => meritWindow_claim, fun _ _ _ _ => meritWindow_stale, fun _ _ _ _ => meritWindow_none⟩

end Sys2Proof.Machine

end

section
/-! PROOFS. Electrical idle at a lane receiver (R143-R149). -/

-- The checked text is one long file: elaborating these in order bounds its threads and memory.
set_option Elab.async false

namespace Sys2Proof.Machine

/-! ## The idle marker -/

/-- The calibration pass of a lane that goes to idle pauses (R143). -/
def pauseCal (n : Nat) (applying : Prop) [Decidable applying] (s : State) : State := if applying then s.setFld (fLn_CAL_STAT_PAUSED n) 1 else s

/-- A lane that goes to idle, from what its flushed detector leaves. -/
def Lane.idling (l : Lane) : Lane := { l with rcpt := none, samples := [], sigSince := none }

theorem idleMarker_claim {lane : Nat} {c1 c2 : Int} {s : State} (hm : s.mode lane = m400) (hs : s.rx lane = rxLocked)
    (h1 : s.catchHit lane c1 = true) (h2 : s.catchHit lane c2 = true) :
    ∃ t, exec (.idleMarkerRx ⟨lane, c1, c2⟩) s = .next t ∧ t.rx lane = rxIdle ∧
      t.fld (fLn_RX_STAT_LOCK lane) = 1 ∧ t.fld (fLn_RX_STAT_SIGDET lane) = 0 ∧ t.fld (fLn_FEC_STAT_SF_LOCK lane) = 0 ∧
      (t.lane lane).rcpt = none ∧ (t.lane lane).sigSince = none ∧
      (s.fld (fLn_CAL_STAT_PHASE lane) = 3 → t.fld (fLn_CAL_STAT_PAUSED lane) = 1) ∧ (∀ n, n ≠ lane → t.lane n = s.lane n) ∧
      onlyRegs (lnReg lane) s t ∧ onlyParts [.lanes, .regs] s t := by
  obtain ⟨p, hp⟩ : ∃ p, p = flush (s.det lane) ⟨s.lane lane, [], 0⟩ := ⟨_, rfl⟩
  obtain ⟨a, ha⟩ : ∃ a, a = s.setLane lane p.lane.idling := ⟨_, rfl⟩
  obtain ⟨b, hb⟩ : ∃ b, b = addInner lane p.inner a := ⟨_, rfl⟩
  obtain ⟨c, hc⟩ : ∃ c, c = b.setRx lane rxIdle := ⟨_, rfl⟩
  obtain ⟨d, hd⟩ : ∃ d, d = c.setFld (fLn_RX_STAT_SIGDET lane) 0 := ⟨_, rfl⟩
  obtain ⟨t, ht⟩ : ∃ t, t = pauseCal lane (s.fld (fLn_CAL_STAT_PHASE lane) = 3) d := ⟨_, rfl⟩
  have hexec : exec (.idleMarkerRx ⟨lane, c1, c2⟩) s = .next t := by
    rw [ht, hd, hc, hb, ha, hp]
    exact congrArg _ ((if_pos (by rw [h1, h2]; rfl)).trans (if_pos ⟨hm, hs⟩))
  have hsa := setLane_moved (P := lnReg lane) lane p.lane.idling s
  rw [← ha] at hsa
  have hab : moved (fun r => r = rLn_FEC_PAIR_LO lane 4 ∨ r = rLn_FEC_PAIR_HI lane 4) [.regs] a b := by rw [hb]; exact add48_moved _ _ _ a
  have hbc := setRx_moved lane rxIdle b
  rw [← hc] at hbc
  have hcd : moved (fun r => r = rLn_RX_STAT lane) [.regs] c d := by
    rw [hd]; exact setFld_moved (P := fun r => r = rLn_RX_STAT lane) (fLn_RX_STAT_SIGDET lane) rfl (by decide) c 0
  have hdt : moved (fun r => r = rLn_CAL_STAT lane) [.regs] d t := by
    rw [ht]
    exact .ite (setFld_moved (P := fun r => r = rLn_CAL_STAT lane) (l := [.regs]) (fLn_CAL_STAT_PAUSED lane) rfl (by decide) d 1) (.refl _ _ d)
  have hstat {hi lo : Nat} (h : fieldOk hi lo) (h8 : hi < 8 ∨ 8 < lo) : t.fld ⟨rLn_RX_STAT lane, hi, lo⟩ = c.fld ⟨rLn_RX_STAT lane, hi, lo⟩ := by
    refine (hdt.1.fld (by simp)).trans ?_
    rw [hd]; exact State.fld_setFld_other _ _ _ _ _ _ _ (by decide) (by decide) h.1 h.2 h8
  have hlane (n : Nat) : t.lane n = a.lane n :=
    (hdt.lane (by decide) n).trans ((hcd.lane (by decide) n).trans ((hbc.lane (by decide) n).trans (hab.lane (by decide) n)))
  have hlaneSelf : t.lane lane = p.lane.idling := (hlane lane).trans (by rw [ha]; exact State.lane_setLane_self s lane _)
  refine ⟨t, hexec, (hstat (by decide) (by decide)).trans ?_, (hstat (by decide) (by decide)).trans ?_, (hdt.1.fld (by simp)).trans ?_,
    (hdt.1.fld (by simp)).trans ((hcd.1.fld (by simp)).trans ?_), by rw [hlaneSelf]; rfl, by rw [hlaneSelf]; rfl, fun hph => ?_,
    fun n hn => (hlane n).trans ?_, ?_, ?_⟩
  · rw [hc]; exact rx_setRx b lane (by decide)
  · rw [hc]; exact lock_setRx b lane rxIdle
  · rw [hd]; exact State.fld_setFld_self_of_lt _ _ (by decide) (by decide)
  · rw [hc]; exact sfLock_setRx b lane (by decide) (by decide)
  · rw [ht, pauseCal, if_pos hph]; exact State.fld_setFld_self_of_lt _ _ (by decide) (by decide)
  · rw [ha]; exact State.lane_setLane_ne s _ hn
  · refine (((hsa.1.trans (hab.1.mono ?_)).trans (hbc.1.mono ?_)).trans (hcd.1.mono ?_)).trans (hdt.1.mono ?_)
    · rintro r (rfl | rfl) <;> exact ⟨rfl, rfl⟩
    · rintro r (rfl | rfl) <;> exact ⟨rfl, rfl⟩
    · rintro r rfl; exact ⟨rfl, rfl⟩
    · rintro r rfl; exact ⟨rfl, rfl⟩
  · exact (((hsa.2.trans (hab.2.mono (by decide))).trans (hbc.2.mono (by decide))).trans (hcd.2.mono (by decide))).trans (hdt.2.mono (by decide))

theorem idleMarker_missed {lane : Nat} {c1 c2 : Int} {s : State} (h : s.catchHit lane c1 = false ∨ s.catchHit lane c2 = false) :
    exec (.idleMarkerRx ⟨lane, c1, c2⟩) s = .next s := by
  refine congrArg _ (if_neg ?_)
  obtain h | h := h <;> simp [h]

/-! ## The preamble -/

/-- A lane that wakes at a confirmed preamble. -/
def Lane.waking (l : Lane) (pl : PeakAt) (mag : Nat) (gain : Rat) : Lane :=
  { l with rcpt := some ⟨pl.at_, mag, true, false⟩, sigSince := none, phase := pl.phase, gain := gain }

/-- The gain that a preamble gives lane `n` (R144). -/
def State.wakeGain (s : State) (n : Nat) (pl : PeakAt) : Rat :=
  sqrtQ (preambleGain (s.det n).g1 (s.det n).g2 (tapValues (s.lane n).taps) (sampleLevels (s.inForce (fLn_RX_CTL_POL_INV n) == 1) pl.rx))

theorem preamblePeak_claim {lane mag : Nat} {pl : PeakAt} {p : Reception} {s : State} (hm : s.mode lane = m400) (hs : s.rx lane = rxIdle)
    (hmag : s.fld (fLn_WAKE_CTL_CATCH_THR lane) ≤ mag) (hp : (s.lane lane).rcpt = some p) (hend : p.ended = false) (hat : pl.at_ = p.at_ + 256)
    (hpow : s.pState < 2) (htrans : s.on fPwr_STATE_TRANS = false) :
    ∃ t, exec (.preamblePeak lane false mag pl) s = .next t ∧ t.rx lane = rxWake ∧ t.fld (fLn_RX_STAT_SIGDET lane) = 1 ∧
      (t.lane lane).rcpt = some ⟨pl.at_, mag, true, false⟩ ∧ (t.lane lane).phase = pl.phase ∧
      (t.lane lane).gain = sqrtQ (preambleGain (s.det lane).g1 (s.det lane).g2 (tapValues (s.lane lane).taps)
        (sampleLevels (s.inForce (fLn_RX_CTL_POL_INV lane) == 1) pl.rx)) ∧ (∀ n, n ≠ lane → t.lane n = s.lane n) ∧
      onlyRegs (fun r => r = rLn_RX_STAT lane ∨ r = rLn_FEC_STAT lane) s t ∧ onlyParts [.lanes, .regs] s t := by
  obtain ⟨l, hl⟩ : ∃ l, l = (s.lane lane).waking pl mag (s.wakeGain lane pl) := ⟨_, rfl⟩
  obtain ⟨b, hb⟩ : ∃ b, b = s.setLane lane { s.lane lane with rcpt := some ⟨pl.at_, mag, true, false⟩, sigSince := none } := ⟨_, rfl⟩
  obtain ⟨a, ha⟩ : ∃ a, a = b.setLane lane l := ⟨_, rfl⟩
  obtain ⟨c, hc⟩ : ∃ c, c = a.setRx lane rxWake := ⟨_, rfl⟩
  obtain ⟨d, hd⟩ : ∃ d, d = c.setFld (fLn_RX_STAT_SIGDET lane) 1 := ⟨_, rfl⟩
  have hbl : b.lane lane = { s.lane lane with rcpt := some ⟨pl.at_, mag, true, false⟩, sigSince := none } := by
    rw [hb]; exact State.lane_setLane_self s lane _
  have hdet : b.det lane = s.det lane := by rw [hb]; rfl
  have hforce : b.inForce (fLn_RX_CTL_POL_INV lane) = s.inForce (fLn_RX_CTL_POL_INV lane) := by rw [hb]; rfl
  have hwaking : enterWake lane pl b = wake 2 d := by
    rw [hd, hc, ha, hl]
    unfold enterWake
    dsimp only
    rw [hbl, hdet, hforce]
    rfl
  have hexec : exec (.preamblePeak lane false mag pl) s = .next (wake 2 d) := by
    rw [← hwaking, hb]
    show execPreamblePeak lane false mag pl s = _
    unfold execPreamblePeak
    dsimp only
    rw [if_neg (by rw [hm, hs]; simp; exact hmag), hp]
    dsimp only
    rw [if_neg (by rw [hend]; simp; omega), if_neg Bool.false_ne_true, if_pos hs, if_pos hs]
  have hsb := setLane_moved (P := fun r => r = rLn_RX_STAT lane ∨ r = rLn_FEC_STAT lane) lane
    { s.lane lane with rcpt := some ⟨pl.at_, mag, true, false⟩, sigSince := none } s
  rw [← hb] at hsb
  have hba := setLane_moved (P := fun r => r = rLn_RX_STAT lane ∨ r = rLn_FEC_STAT lane) lane l b
  rw [← ha] at hba
  have hac := setRx_moved lane rxWake a
  rw [← hc] at hac
  have hcd : moved (fun r => r = rLn_RX_STAT lane ∨ r = rLn_FEC_STAT lane) [.regs] c d := by
    rw [hd]; exact setFld_moved (fLn_RX_STAT_SIGDET lane) (.inl rfl) (by decide) c 1
  have hsd := ((hsb.trans hba).trans (hac.mono (fun _ => id) (by decide))).trans (hcd.mono (fun _ => id) (by decide))
  have hawake : wake 2 d = d := wake_of_idle 2 (by rw [State.pState, hsd.1.fld (by simp)]; exact hpow) (by rw [hsd.1.on (by simp)]; exact htrans)
  have hlane (n : Nat) : d.lane n = a.lane n := (hcd.lane (by decide) n).trans (hac.lane (by decide) n)
  have hln : d.lane lane = l := (hlane lane).trans (by rw [ha]; exact State.lane_setLane_self b lane l)
  rw [hawake] at hexec
  refine ⟨d, hexec, ?_, ?_, by rw [hln, hl]; rfl, by rw [hln, hl]; rfl, by rw [hln, hl]; rfl, fun n hn => (hlane n).trans ?_, hsd.1, hsd.2⟩
  · rw [hd]
    exact (State.fld_setFld_other _ _ _ _ _ _ _ (by decide) (by decide) (by decide) (by decide) (by decide)).trans
      (by rw [hc]; exact rx_setRx a lane (by decide))
  · rw [hd]; exact State.fld_setFld_self_of_lt _ _ (by decide) (by decide)
  · rw [ha, State.lane_setLane_ne b l hn, hb, State.lane_setLane_ne s _ hn]

theorem preamblePeak_quiet {lane mag : Nat} {pl : PeakAt} {s : State} (hs : s.rx lane = rxLocked) (hp : (s.lane lane).rcpt = none)
    (hq : pl.quiet < 8) : exec (.preamblePeak lane false mag pl) s = .next s := by
  show execPreamblePeak lane false mag pl s = _
  unfold execPreamblePeak
  dsimp only
  split
  · rfl
  · rw [hp]
    dsimp only
    rw [if_pos (by simp [hs, hq])]

/-! ## The start marker -/

theorem afterMarker_effect (n pair : Nat) (s : State) : let t := afterMarker n pair s
    t.fld (fLn_FEC_STAT_SF_LOCK n) = 1 ∧ (t.lane n).rcpt = none ∧ (t.lane n).sf = 0 ∧ (t.lane n).rxPairs = pair ∧
      (∀ m, m ≠ n → t.lane m = s.lane m) ∧ moved (fun r => r = rLn_FEC_STAT n) [.lanes, .regs] s t := by
  intro t
  obtain ⟨f, hf⟩ : ∃ f : Lane → Lane, f = fun l => { afterS (dropStream l) with rxPairs := pair } := ⟨_, rfl⟩
  obtain ⟨a, ha⟩ : ∃ a, a = s.modLane n f := ⟨_, rfl⟩
  have ht : t = a.setFld (fLn_FEC_STAT_SF_LOCK n) 1 := by rw [ha, hf]; rfl
  have hlane (m : Nat) : t.lane m = a.lane m := by rw [ht]; rfl
  have hn : t.lane n = f (s.lane n) := (hlane n).trans (by rw [ha]; exact State.lane_modLane_self s n f)
  have hsa := modLane_moved (P := fun r => r = rLn_FEC_STAT n) n f s
  rw [← ha] at hsa
  refine ⟨?_, by rw [hn, hf]; rfl, by rw [hn, hf]; rfl, by rw [hn, hf], fun m hm => (hlane m).trans ?_, ?_⟩
  · rw [ht]; exact State.fld_setFld_self_of_lt _ _ (by decide) (by decide)
  · rw [ha]; exact lane_modLane hm
  · rw [ht]
    exact hsa.trans (setFld_moved (P := fun r => r = rLn_FEC_STAT n) (fLn_FEC_STAT_SF_LOCK n) rfl (by decide) a 1)

theorem startMarker_claim {lane pair : Nat} {corr : Int} {p : Reception} {s : State} (hs : s.rx lane = rxWake)
    (hp : (s.lane lane).rcpt = some p) (hend : p.ended = true) (hhit : s.catchHit lane corr = true) :
    ∃ t, exec (.startMarkerRx lane ⟨p.at_ + 448, corr, pair⟩) s = .next t ∧ t.rx lane = rxLocked ∧ t.fld (fLn_FEC_STAT_SF_LOCK lane) = 1 ∧
      t.fld (fLn_CAL_STAT_PAUSED lane) = 0 ∧ (t.lane lane).rcpt = none ∧ (t.lane lane).sf = 0 ∧ (t.lane lane).rxPairs = pair ∧
      (∀ n, n ≠ lane → t.lane n = s.lane n) ∧ onlyRegs (lnReg lane) s t ∧ onlyParts [.lanes, .regs] s t := by
  obtain ⟨a, ha⟩ : ∃ a, a = enterLocked lane s := ⟨_, rfl⟩
  obtain ⟨b, hb⟩ : ∃ b, b = afterMarker lane pair a := ⟨_, rfl⟩
  obtain ⟨c, hc⟩ : ∃ c, c = countLn lane 8 0 1 b := ⟨_, rfl⟩
  obtain ⟨t, ht⟩ : ∃ t, t = c.setFld (fLn_CAL_STAT_PAUSED lane) 0 := ⟨_, rfl⟩
  have hexec : exec (.startMarkerRx lane ⟨p.at_ + 448, corr, pair⟩) s = .next t := by
    rw [ht, hc, hb, ha]
    show execStartMarkerRx lane ⟨p.at_ + 448, corr, pair⟩ s = _
    unfold execStartMarkerRx
    rw [hp]
    dsimp only
    rw [if_neg (by simp [hend, hhit]), if_pos hs]
  obtain ⟨hrx, -, -, -, hother, hsa⟩ := enterLocked_effect lane s
  rw [← ha] at hrx hother hsa
  obtain ⟨hsf, hrcpt, hphase, hpairs, hother', hab⟩ := afterMarker_effect lane pair a
  rw [← hb] at hsf hrcpt hphase hpairs hother' hab
  have hbc : moved (fun r => r.blk = .ln ∧ r.inst = lane ∧ cntReg r) [.regs] b c := by
    rw [hc]; exact ⟨count_onlyRegs .ln lane 8 _ 1 b, countLn_onlyParts lane 8 0 1 b⟩
  have hct : moved (fun r => r = rLn_CAL_STAT lane) [.regs] c t := by
    rw [ht]; exact setFld_moved (P := fun r => r = rLn_CAL_STAT lane) (fLn_CAL_STAT_PAUSED lane) rfl (by decide) c 0
  have hlane (n : Nat) : t.lane n = b.lane n := (hct.lane (by decide) n).trans (hbc.lane (by decide) n)
  have hcount {r : RegId} (h : ¬ cntReg r) (hi lo : Nat) : c.fld ⟨r, hi, lo⟩ = b.fld ⟨r, hi, lo⟩ := hbc.1.fld fun hr => h hr.2.2
  refine ⟨t, hexec, ?_, ?_, ?_, by rw [hlane]; exact hrcpt, by rw [hlane]; exact hphase, by rw [hlane]; exact hpairs,
    fun n hn => (hlane n).trans ((hother' n hn).trans (hother n hn)), ?_, ?_⟩
  · exact (hct.1.fld (by simp)).trans ((hcount (by simp [cntReg, cntGeom]) 3 0).trans ((hab.1.fld (by simp)).trans hrx))
  · exact (hct.1.fld (by simp)).trans ((hcount (by simp [cntReg, cntGeom]) 2 2).trans hsf)
  · rw [ht]; exact State.fld_setFld_self_of_lt _ _ (by decide) (by decide)
  · refine (((hsa.1.mono fun _ => lnReg_of_lockReg).trans (hab.1.mono ?_)).trans (hbc.1.mono fun _ h => ⟨h.1, h.2.1⟩)).trans (hct.1.mono ?_)
    · rintro r rfl; exact ⟨rfl, rfl⟩
    · rintro r rfl; exact ⟨rfl, rfl⟩
  · exact ((hsa.2.trans hab.2).trans (hbc.2.mono (by decide))).trans (hct.2.mono (by decide))

/-! ## Bursts that are given up, and wakes that are missed -/

theorem burstAbandon_claim {lane : Nat} {s : State} (hp : (s.lane lane).rcpt.isSome = true) : ∃ t, exec (.burstAbandon lane) s = .next t ∧
    t.fld (fLn_WAKE_CNT_FALSE lane) = min 65535 (s.fld (fLn_WAKE_CNT_FALSE lane) + 1) ∧ t.lane lane = { s.lane lane with rcpt := none } ∧
    (s.rx lane = rxWake → t.rx lane = rxIdle ∧ t.fld (fLn_RX_STAT_SIGDET lane) = 0) ∧ (∀ n, n ≠ lane → t.lane n = s.lane n) ∧
    onlyRegs (fun r => r = rLn_WAKE_CNT lane ∨ r = rLn_RX_STAT lane ∨ r = rLn_FEC_STAT lane) s t ∧ onlyParts [.lanes, .regs] s t := by
  obtain ⟨a, ha⟩ : ∃ a, a = s.setLane lane { s.lane lane with rcpt := none } := ⟨_, rfl⟩
  obtain ⟨b, hb⟩ : ∃ b, b = a.addSat (fLn_WAKE_CNT_FALSE lane) := ⟨_, rfl⟩
  obtain ⟨c, hc⟩ : ∃ c, c = b.setRx lane rxIdle := ⟨_, rfl⟩
  obtain ⟨t, ht⟩ : ∃ t, t = if s.rx lane = rxWake then c.setFld (fLn_RX_STAT_SIGDET lane) 0 else b := ⟨_, rfl⟩
  have hexec : exec (.burstAbandon lane) s = .next t := by
    rw [ht, hc, hb, ha]
    refine congrArg _ (if_neg ?_)
    rw [Option.isNone_iff_eq_none]
    exact fun h => by simp [h] at hp
  have hsa := setLane_moved (P := fun r => r = rLn_WAKE_CNT lane ∨ r = rLn_RX_STAT lane ∨ r = rLn_FEC_STAT lane) lane
    { s.lane lane with rcpt := none } s
  rw [← ha] at hsa
  have hab : moved (fun r => r = rLn_WAKE_CNT lane) [.regs] a b := by
    rw [hb]; exact setFld_moved (P := fun r => r = rLn_WAKE_CNT lane) (fLn_WAKE_CNT_FALSE lane) rfl (by decide) a _
  have hbt : moved (fun r => r = rLn_RX_STAT lane ∨ r = rLn_FEC_STAT lane) [.regs] b t := by
    rw [ht]
    refine .ite ?_ (.refl _ _ b)
    rw [hc]
    exact (setRx_moved lane rxIdle b).trans (setFld_moved (fLn_RX_STAT_SIGDET lane) (.inl rfl) (by decide) _ 0)
  have hlane (n : Nat) : t.lane n = a.lane n := (hbt.lane (by decide) n).trans (hab.lane (by decide) n)
  refine ⟨t, hexec, (hbt.1.fld (by simp)).trans ?_, (hlane lane).trans ?_, fun hrx => ?_, fun n hn => (hlane n).trans ?_, ?_, ?_⟩
  · rw [hb, State.fld_addSat_self _ _ _ (by decide) (by decide), ha]
    rfl
  · rw [ha]; exact State.lane_setLane_self s lane _
  · rw [ht, if_pos hrx]
    refine ⟨?_, State.fld_setFld_self_of_lt _ _ (by decide) (by decide)⟩
    exact (State.fld_setFld_other _ _ _ _ _ _ _ (by decide) (by decide) (by decide) (by decide) (by decide)).trans
      (by rw [hc]; exact rx_setRx b lane (by decide))
  · rw [ha]; exact State.lane_setLane_ne s _ hn
  · exact (hsa.1.trans (hab.1.mono fun _ => .inl)).trans (hbt.1.mono fun _ => .inr)
  · exact (hsa.2.trans (hab.2.mono (by decide))).trans (hbt.2.mono (by decide))

theorem spareRestart_claim {lane mag at_ : Nat} {p : Reception} {s : State} (hp : (s.lane lane).rcpt = some p) (hmag : p.mag < mag)
    (hthr : s.fld (fLn_WAKE_CTL_CATCH_THR lane) ≤ mag) :
    ∃ t, exec (.spareRestart lane mag at_) s = .next t ∧ t.lane lane = { s.lane lane with rcpt := some ⟨at_, mag, false, false⟩ } ∧
      t.fld (fLn_WAKE_CNT_RESTART lane) = min 255 (s.fld (fLn_WAKE_CNT_RESTART lane) + 1) ∧ (∀ n, n ≠ lane → t.lane n = s.lane n) ∧
      onlyRegs (fun r => r = rLn_WAKE_CNT lane) s t ∧ onlyParts [.lanes, .regs] s t := by
  obtain ⟨a, ha⟩ : ∃ a, a = s.setLane lane { s.lane lane with rcpt := some ⟨at_, mag, false, false⟩ } := ⟨_, rfl⟩
  have hexec : exec (.spareRestart lane mag at_) s = .next (a.addSat (fLn_WAKE_CNT_RESTART lane)) := by
    rw [ha]
    show execSpareRestart lane mag at_ s = _
    unfold execSpareRestart
    dsimp only
    rw [hp]
    exact congrArg _ (if_pos ⟨hmag, hthr⟩)
  have hsa := setLane_moved (P := fun r => r = rLn_WAKE_CNT lane) lane { s.lane lane with rcpt := some ⟨at_, mag, false, false⟩ } s
  rw [← ha] at hsa
  have hat : moved (fun r => r = rLn_WAKE_CNT lane) [.regs] a (a.addSat (fLn_WAKE_CNT_RESTART lane)) :=
    setFld_moved (P := fun r => r = rLn_WAKE_CNT lane) (fLn_WAKE_CNT_RESTART lane) rfl (by decide) a _
  refine ⟨_, hexec, (hat.lane (by decide) lane).trans ?_, ?_, fun n hn => (hat.lane (by decide) n).trans ?_, hsa.1.trans hat.1,
    hsa.2.trans (hat.2.mono (by decide))⟩
  · rw [ha]; exact State.lane_setLane_self s lane _
  · rw [State.fld_addSat_self _ _ _ (by decide) (by decide), ha]
    rfl
  · rw [ha]; exact State.lane_setLane_ne s _ hn

theorem exec_wakeMiss {lane since : Nat} {s : State} (hp : (s.lane lane).sigSince = some since) :
    exec (.wakeMiss lane) s = .next (
      if s.rx lane = rxIdle ∧ since + s.fld (fLn_WAKE_CTL_MISS_US lane) * 1000 * nsU ≤ s.up then
        if s.on (fLn_WAKE_CTL_MISS_TRAIN lane) then
          retrainRx lane (raise_ (fLn_FEC_EVENT_MISS lane) ((s.modLane lane ({ · with sigSince := some s.up })).addSat (fLn_WAKE_CNT_MISS lane)))
        else raise_ (fLn_FEC_EVENT_MISS lane) ((s.modLane lane ({ · with sigSince := some s.up })).addSat (fLn_WAKE_CNT_MISS lane))
      else s) := by
  show execWakeMiss lane s = _
  unfold execWakeMiss
  rw [hp]

theorem wakeMiss_claim {lane since : Nat} {s : State} (hs : s.rx lane = rxIdle) (hp : (s.lane lane).sigSince = some since)
    (hlate : since + s.fld (fLn_WAKE_CTL_MISS_US lane) * 1000 * nsU ≤ s.up) : ∃ t, exec (.wakeMiss lane) s = .next t ∧
      t.fld (fLn_WAKE_CNT_MISS lane) = min 15 (s.fld (fLn_WAKE_CNT_MISS lane) + 1) ∧ t.fld (fLn_FEC_EVENT_MISS lane) = 1 ∧
      t.rx lane = (if s.on (fLn_WAKE_CTL_MISS_TRAIN lane) then rxAcquire else rxIdle) ∧ (∀ n, n ≠ lane → t.lane n = s.lane n) ∧
      onlyRegs (rxReg lane) s t ∧ onlyParts [.lanes, .act, .rings, .regs, .out] s t := by
  have hexec := exec_wakeMiss hp
  rw [if_pos ⟨hs, hlate⟩] at hexec
  obtain ⟨f, hf⟩ : ∃ f : Lane → Lane, f = ({ · with sigSince := some s.up }) := ⟨_, rfl⟩
  obtain ⟨a, ha⟩ : ∃ a, a = s.modLane lane f := ⟨_, rfl⟩
  obtain ⟨b, hb⟩ : ∃ b, b = a.addSat (fLn_WAKE_CNT_MISS lane) := ⟨_, rfl⟩
  obtain ⟨c, hc⟩ : ∃ c, c = raise_ (fLn_FEC_EVENT_MISS lane) b := ⟨_, rfl⟩
  rw [← hf, ← ha, ← hb, ← hc] at hexec
  have hsa := modLane_moved (P := rxReg lane) lane f s
  rw [← ha] at hsa
  have hab : moved (fun r => r = rLn_WAKE_CNT lane) [.regs] a b := by
    rw [hb]; exact setFld_moved (P := fun r => r = rLn_WAKE_CNT lane) (fLn_WAKE_CNT_MISS lane) rfl (by decide) a _
  have hbc := raise_moved (P := fun r => r = rLn_FEC_EVENT lane ∨ noteReg r) (fLn_FEC_EVENT_MISS lane) (.inl rfl) (fun _ => .inr) (fun _ => id) b
  rw [← hc] at hbc
  have hcnt : c.fld (fLn_WAKE_CNT_MISS lane) = min 15 (s.fld (fLn_WAKE_CNT_MISS lane) + 1) := by
    rw [hbc.1.fld (by simp [noteReg]), hb, State.fld_addSat_self _ _ _ (by decide) (by decide), ha]
    rfl
  have hevent : c.fld (fLn_FEC_EVENT_MISS lane) = 1 := by
    rw [hc]; exact raise_fld_self _ _ (by decide) ⟨Blk.noConfusion, Blk.noConfusion⟩
  have hrxc : c.rx lane = rxIdle := by
    rw [State.rx, hbc.1.fld (by simp [noteReg]), hab.1.fld (by simp), ha]
    exact hs
  have hother (n : Nat) (hn : n ≠ lane) : c.lane n = s.lane n := by
    rw [hbc.lane (by decide) n, hab.lane (by decide) n, ha]
    exact lane_modLane hn
  have hsc : moved (rxReg lane) [.lanes, .act, .rings, .regs, .out] s c := by
    refine ((hsa.mono (fun _ => id) (by decide)).trans (hab.mono ?_ (by decide))).trans (hbc.mono ?_ (by decide))
    · rintro r rfl; exact .inl ⟨rfl, rfl⟩
    · rintro r (rfl | h)
      · exact .inl ⟨rfl, rfl⟩
      · exact .inr (.inr h)
  cases htrain : s.on (fLn_WAKE_CTL_MISS_TRAIN lane)
  · rw [if_neg (by rw [htrain]; exact Bool.false_ne_true)] at hexec
    exact ⟨c, hexec, hcnt, hevent, hrxc, hother, hsc.1, hsc.2⟩
  · rw [if_pos htrain] at hexec
    obtain ⟨hrx, hother', hm⟩ := retrainRx_effect lane c
    refine ⟨_, hexec, (hm.1.fld (by simp [calReg, acqReg, noteReg])).trans hcnt, (hm.1.fld (by simp [calReg, acqReg, noteReg])).trans hevent, hrx,
      fun n hn => (hother' n hn).trans (hother n hn), hsc.1.trans (hm.1.mono ?_), hsc.2.trans hm.2⟩
    exact fun r h => h.elim rxReg_of_calReg fun h => .inl (lnReg_of_acqReg h)

theorem wakeMiss_early {lane since : Nat} {s : State} (hp : (s.lane lane).sigSince = some since)
    (hlate : s.up < since + s.fld (fLn_WAKE_CTL_MISS_US lane) * 1000 * nsU) : exec (.wakeMiss lane) s = .next s :=
  (exec_wakeMiss hp).trans (congrArg _ (if_neg fun h => Nat.not_le.2 hlate h.2))

/-- Settles O31: each event of electrical idle changes one lane's reception, whose frame its registers give. -/
theorem receiversSleepAndWake : Obligations.ReceiversSleepAndWake := by
  unfold Obligations.ReceiversSleepAndWake
  exact ⟨fun _ _ _ _ hm hs => ⟨idleMarker_missed, idleMarker_claim hm hs⟩, fun _ _ _ _ _ => preamblePeak_claim,
    fun _ _ _ _ => preamblePeak_quiet, fun _ _ _ _ _ => startMarker_claim, fun _ _ => burstAbandon_claim,
    fun _ _ _ _ _ => spareRestart_claim, fun _ _ _ hs hp => ⟨wakeMiss_early hp, wakeMiss_claim hs hp⟩⟩

end Sys2Proof.Machine

end
